-- ==== Sys2Proof/Word.lean ====
section
/-!
DEFINITION. Word.lean: the words of the machine.

A byte, the 64-bit word of a dictionary slot (R600), and a sparse table: a list of (number, value) pairs.  The
operations on tables stand in Machine/Tbl.lean.
-/
namespace Sys2Proof

/-- One byte of a store or of HBM. -/
abbrev Byte := BitVec 8

/-- The value of one 8-byte slot of the object dictionary (R600). -/
abbrev Word := BitVec 64

/-- A sparse table of values by number, in ascending order of the number. -/
abbrev Tbl (α : Type) := List (Nat × α)

end Sys2Proof
end

