-- ==== Sys2Proof/Syntax.lean ====
section
/-!
DEFINITION. Syntax.lean: the commands of the block.

One constructor for each row of the table of operations and events.  A command's operands are what comes from outside
with it: who writes and what, which object, and what the world did where the spec fixes no schedule.
-/
namespace Sys2Proof

/-- Who sends a dictionary access (R605): the PCIe physical function, VF `p` acting for partition `p`, a node on the
Strings bus, or the Marionette itself. -/
inductive Requester where
  | pf
  | vf (p : Nat)
  | strings (node : Nat)
  | marionette
  deriving DecidableEq, Repr

/-- A port group that lost arbitration, by its stall counter (Tables 3.5, 3.6, 3.10, 3.11): the TPA activation port, the VU
or the Stream Mover and remote group at a core's Local Store, or any group at a Frond Store. -/
inductive StorePort where
  | lsAct (core : Nat)
  | lsVu (core : Nat)
  | lsSm (core : Nat)
  | fs (frond : Nat)
  deriving DecidableEq, Repr

/-- Where stored bits went wrong (Table 3.9): 8 bytes of a Local Store or a Frond Store by offset, or an entry of an
Accumulator Store. -/
inductive StoreWord where
  | ls (core off : Nat)
  | fs (frond off : Nat)
  | acc (core entry : Nat)
  deriving DecidableEq, Repr

/-- What the engines met while a command ran, where the spec fixes no schedule: the cycles that accesses lost to arbitration
(R120), bits that went wrong in the stores before it ran (R142), the physical addresses of an HBM read that met an
uncorrectable or a corrected error (R737) and of a line whose MSC data or tag was bad (Table 3.9), the MSC's corrected errors,
an uncorrectable error on a translation table (R836), a residue mismatch (R184), and the cycles an engine waited or took where
the spec bounds them only.  DESIGN CHOICE (log 4). -/
structure RunObs where
  lost : List (StorePort × Nat) := []
  upsets : List (StoreWord × Nat) := []
  hbmBad : Option Nat := none
  hbmCorrected : Option Nat := none
  mscBad : Option Nat := none
  tagBad : Option Nat := none
  mscCorrected : Nat := 0
  tableBad : Bool := false
  residue : Bool := false
  waitCc : Nat := 0
  deriving DecidableEq, Repr

/-- What the timebase takes from outside at a frame boundary: the PTM time at the boundary in ns, where the PTM requester has
it (R78), and the class of the waveform that SYNC_IN held in the frame that ends (R804): false NORMAL, true INVERTED, none
INVALID. DESIGN CHOICE (log 4). -/
structure BoundaryObs where
  ptmTime : Option Nat := none
  syncClass : Option Bool := none
  deriving DecidableEq, Repr

/-- What Lichen did in a maintenance window (R745 to R748): how many bank-rows it scrubbed, the cycles that its scrub and the
writes that yield to it lost (R118, R153), and whether the repair of the first queued HBM row ended in the window, and how.
DESIGN CHOICE (log 4). -/
structure MaintObs where
  scrubbed : Nat := 0
  lost : List (StorePort × Nat) := []
  repair : Option Bool := none
  deriving DecidableEq, Repr

/-- The quiet around a transition of the decoded level of SYNC_IN: the ns since the one before it and to the next; whether it
rises, and the class of the waveform in its frame, as in `BoundaryObs` (R804, R807). DESIGN CHOICE (log 4). -/
structure EdgeObs where
  before : Nat := 40
  after : Nat := 40
  rising : Bool := true
  cls : Option Bool := some false
  deriving DecidableEq, Repr

/-- A tile that starts: its descriptor, and what its reads met (R249, R280). DESIGN CHOICE (log 4). -/
structure TileObs where
  id : Nat
  obs : RunObs := {}
  deriving DecidableEq, Repr

/-- A posted write that lands: its place among those waiting, counted from the oldest, and the cycles that it lost to
arbitration (R120). DESIGN CHOICE (log 4). -/
structure Landing where
  at_ : Nat
  lost : Nat := 0
  deriving DecidableEq, Repr

/-- What FEC met with a cell (R397): the codewords it corrected, and whether a codeword that the cell touches was
uncorrectable. DESIGN CHOICE (log 4). DESIGN CHOICE (log 96). -/
structure FecObs where
  corrected : Nat := 0
  bad : Bool := false
  deriving DecidableEq, Repr

/-- A RoCE v2 packet as an Ethernet port hands it over (R429); `ce` is a congestion mark. DESIGN CHOICE (log 93). -/
inductive RocePacket where
  | write (qp psn va rkey : Nat) (bytes : List Byte) (ce : Bool)
  | ack (qp psn : Nat)
  | nak (qp psn : Nat)
  | cnp (qp : Nat)
  | other
  deriving DecidableEq, Repr

/-- A BAR4 request (R761, R765): a read or a write, with the physical address of an HBM error that it met in its data or in
a translation table, and whether a write came poisoned. -/
inductive Bar4Req where
  | read (n : Nat) (bad tableBad : Option Nat)
  | write (bytes : List Byte) (poisoned : Bool) (tableBad : Option Nat)
  | unsupported
  deriving DecidableEq, Repr

/-- The commands, in the order of the table. DESIGN CHOICE (log 95). -/
inductive Instr where
  /-- FRAME_BOUNDARY (R67). The frame counter reaches FRAME_LEN × 320 cycles: the frame number advances, the issue window opens and the per-frame timing work runs. -/
  | frameBoundary (o : BoundaryObs)
  /-- RUNAHEAD_START (R562). During a frame, Frond Controllers expand available uncommitted descriptors whose predicted commit frame lies within RUNAHEAD. -/
  | runaheadStart
  /-- MAINTENANCE_WINDOW (R47). The last sixteenth of the frame begins and Lichen runs its tasks in priority order. -/
  | maintenanceWindow (o : MaintObs)
  /-- OVERRUN (R95). The last cycle of the compute window passes with descriptors of a partition still running. -/
  | overrun
  /-- GEOMETRY_SWITCH (R63). At the first boundary numbered at or after SWITCH_FRAME, the captured frame geometry takes effect. -/
  | geometrySwitch
  /-- SWITCH_FRAME_WRITE (R64). A write to SWITCH_FRAME captures the staged geometry and arms a switch, or is refused with SWITCH_REFUSED. -/
  | switchFrameWrite (who : Requester) (v : Word)
  /-- FRAME_SEED_WRITE (R79). A FRAME_SEED write while unnumbered gives its value to the next frame boundary and sets NUMBER_VALID. -/
  | frameSeedWrite (who : Requester) (v : Word)
  /-- SYNC_IN_EDGE (R807). A timing edge on SYNC_IN is detected and accepted, ignored or counted toward qualification and offset. -/
  | syncInEdge (phase : Int) (o : EdgeObs)
  /-- SYNC_LINE_FAULT (R802). The SYNC_IN line monitor detects NO_SIGNAL, OPEN or SHORT_LOW for 1 µs and sets LINE_FAULT. -/
  | syncLineFault (line : Nat)
  /-- SYNC_STUCK (R810). The decoded SYNC_IN level holds for 2 frame durations and STUCK is set. -/
  | syncStuck
  /-- REF_QUALIFIED (R73). A reference completes its qualification count of Table 2.3 and becomes available for selection. -/
  | refQualified (ref : Nat) (offset : Int)
  /-- REF_LOST (R73). The loss time of the selected reference expires, or its enable bit is cleared, and it is lost at the boundary. -/
  | refLost (ref : Nat)
  /-- OFFSET_EXCEEDED (R81). |offset| exceeds 2 × B on 4 consecutive frames and the device leaves LOCKED. -/
  | offsetExceeded
  /-- LOCK_ACQUIRED (R82). The lock condition has held for 16 frames and the device enters LOCKED. -/
  | lockAcquired
  /-- FREERUN_ENTERED (R81). HOLD_LIMIT_MS expires in HOLDOVER and the device enters FREERUN. -/
  | freerunEntered
  /-- STEP_DONE (R834). At the end of an idle frame a pending step is decided again and taken forward, or cleared. -/
  | stepDone (offset : Int) (refFrame : Nat)
  /-- PTM_DIALOGUE (R776). Every 10 ms the PTM requester starts a PTM dialogue with the host. -/
  | ptmDialogue
  /-- PTM_RESPONSE (R776). A PTM Response arrives and completes a successful dialogue. -/
  | ptmResponse (time : Nat)
  /-- PTM_TIMEOUT (R777). A dialogue receives no PTM Response within 1 ms and counts as failed. -/
  | ptmTimeout
  /-- PTM_ENABLE_CLEAR (R777). PTM Enable is cleared in the PF and a selected PTM reference is lost at the next boundary. -/
  | ptmEnableClear
  /-- DOORBELL (R535). A write to a ring page DOORBELL is accepted as the new RING_PROD or discarded. -/
  | doorbell (fn : Nat) (ring : Nat) (v : Nat)
  /-- ENTRIES_FETCHED (R538). The ring entries covered by an accepted doorbell have been fetched and the descriptors become available. -/
  | entriesFetched (ring : Nat)
  /-- CQ_CONS_WRITE (R556). Software writes CQ_CONS in the ring page, freeing completion slots. -/
  | cqConsWrite (fn : Nat) (ring : Nat) (v : Nat)
  /-- NOP (R539). A NOP completes with OK at commit and may signal its fence. -/
  | nop (id : Nat)
  /-- ORDER (R585). An ORDER descriptor is committed as the barrier between descriptors of one core. -/
  | order (id : Nat)
  /-- ORDER_BEGINS (R585). Every earlier descriptor of the core has issued its last access and the ORDER begins waiting for its in-scope writes. -/
  | orderBegins (id : Nat) (waited : Nat)
  /-- PRECISION_SET (R206). A PRECISION_SET replaces one layer entry of the partition's precision table at commit. -/
  | precisionSet (id : Nat)
  /-- MATMUL (R186). A MATMUL runs its tiles by table-product, log or CMU arithmetic and drains the accumulators. -/
  | matmul (id : Nat) (o : RunObs)
  /-- QUANTISE (R199). A QUANTISE reads range records, selects a width and exponent, and stages activations with a tag word. -/
  | quantise (id : Nat) (o : RunObs)
  /-- REDUCE (R213). A REDUCE aligns and adds tagged partials in their partial order. -/
  | reduce (id : Nat) (o : RunObs)
  /-- FILL (R134). A FILL writes a repeated pattern over a range of one store. -/
  | fill (id : Nat) (o : RunObs)
  /-- COPY (R136). A COPY moves whole rows within one store, in the order that keeps overlaps correct. -/
  | copy (id : Nat) (o : RunObs)
  /-- TRANSFER (R139). A TRANSFER moves rows between HBM and stores, between stores, or within HBM. -/
  | transfer (id : Nat) (o : RunObs)
  /-- BUCKET_FORM (R261). BUCKET_FORM places a sequence list into length buckets and writes a batch plan. -/
  | bucketForm (id : Nat) (o : RunObs)
  /-- ATTN_SCORE (R275). ATTN_SCORE forms the masked score matrix and writes it to a store or HBM. -/
  | attnScore (id : Nat) (o : RunObs)
  /-- ATTN_SCORE_RECOMPUTE (R298). ATTN_SCORE_RECOMPUTE recomputes scores and writes P from saved row statistics. -/
  | attnScoreRecompute (id : Nat) (o : RunObs)
  /-- ATTN_NORM (R286). ATTN_NORM normalises score rows in the log domain, writes row statistics and P, or dS in GRAD mode. -/
  | attnNorm (id : Nat) (o : RunObs)
  /-- ATTN_PV (R294). ATTN_PV forms the product of P and V over the live range. -/
  | attnPv (id : Nat) (o : RunObs)
  /-- KV_APPEND (R325). KV_APPEND quantises K and V rows into the sequence's pages, allocating frames for layer 0. -/
  | kvAppend (id : Nat) (o : RunObs)
  /-- KV_RELEASE (R342). KV_RELEASE sets every entry of a sequence to FREE and returns its frames when unpinned. -/
  | kvRelease (id : Nat)
  /-- PAGE_EXPORT (R368). PAGE_EXPORT queues page jobs for the SEALED entries of a range on a stream. -/
  | pageExport (id : Nat)
  /-- CUT (R374). A CUT is accepted and arms a checkpoint cut of the named regions. -/
  | cut (id : Nat)
  /-- REPLAY (R394). REPLAY resends stored records listed at LIST_PTR on one stream. -/
  | replay (id : Nat)
  /-- RESTORE (R389). RESTORE starts an inbound restore of the named regions through RESTORE windows. -/
  | restore (id : Nat)
  /-- REDUCE_SCATTER (R448). A REDUCE_SCATTER collective reduces the buffer over the member set and leaves each member its block. -/
  | reduceScatter (id : Nat)
  /-- ALL_GATHER (R448). An ALL_GATHER collective gathers every member's block into each member's DST. -/
  | allGather (id : Nat)
  /-- ALL_REDUCE (R448). An ALL_REDUCE collective reduces the buffer over all members, with an optional cross-plane stage. -/
  | allReduce (id : Nat)
  /-- BROADCAST (R448). A BROADCAST collective copies the root's buffer to every member. -/
  | broadcast (id : Nat)
  /-- ALL_TO_ALL (R448). An ALL_TO_ALL collective exchanges blocks between every pair of members. -/
  | allToAll (id : Nat)
  /-- RHIZOID (R466). A RHIZOID reduces up to 64 bytes across the member set on the low-latency path. -/
  | rhizoid (id : Nat)
  /-- BOUNDS_LANDED (R239). The bounds record and first length read at commit have landed and stage 2 and 3 checks are made. -/
  | boundsLanded (id : Nat) (o : RunObs)
  /-- WALK_LANDED (R319). The Frond Controller's page-table walk has landed and the walk checks of Table 8.5 are made. -/
  | walkLanded (id : Nat) (o : RunObs)
  /-- OPERAND_FETCH_LANDED (R252). A tile's streamed operand fetch lands and its passes may begin. -/
  | operandFetchLanded (id : Nat) (o : RunObs)
  /-- TILE_START (R191). A tile begins: its tag is fixed from the staged buffer and precision checks are made. -/
  | tileStart (o : TileObs)
  /-- DESCRIPTOR_COMPLETE (R559). A descriptor finishes; its writes land, then its completion record, fence signal and MSI-X follow in order. -/
  | descriptorComplete (id : Nat)
  /-- WRITE_LANDS (R575). A posted store or HBM write lands at its destination and becomes visible. -/
  | writeLands (o : Landing)
  /-- SECTOR_ZERO_DONE (R147). Zeroing of a sector whose type or owner changed finishes and commits of both partitions may proceed. -/
  | sectorZeroDone (i : Nat)
  /-- LS_WEIGHT_MAP_WRITE (R152). A write changes the WEIGHT type of LS sectors of a halted partition. -/
  | lsWeightMapWrite (who : Requester) (core : Nat) (v : Word)
  /-- LS_SPEC_MAP_WRITE (R152). A write changes the SPEC marks of LS sectors and squashes run-ahead. -/
  | lsSpecMapWrite (who : Requester) (core : Nat) (v : Word)
  /-- FS_WEIGHT_MAP_WRITE (R152). A write changes the WEIGHT type of Frond Store sectors of halted partitions. -/
  | fsWeightMapWrite (who : Requester) (frond : Nat) (m : Nat) (v : Word)
  /-- FS_OWNER_WRITE (R155). A write changes owners of Frond Store sectors whole or not at all. -/
  | fsOwnerWrite (who : Requester) (frond : Nat) (bytes : List Byte)
  /-- RESIDUE_INJECT_WRITE (R185). A write of 1 arms one residue mismatch on the next pass of the core. -/
  | residueInjectWrite (who : Requester) (core : Nat) (v : Word)
  /-- PREC_LAYER_WRITE (R208). A dictionary write replaces a layer precision entry, acting from the next issue window. -/
  | precLayerWrite (who : Requester) (part : Nat) (layer : Nat) (v : Word)
  /-- SHAPE_REG_WRITE (R238). A shape register write is seen by descriptors committed from the next issue window. -/
  | shapeRegWrite (who : Requester) (ring : Nat) (k : Nat) (v : Word)
  /-- BUCKET_EDGE_WRITE (R264). A bucket edge write is checked for order and multiples of 64 and applied or refused. -/
  | bucketEdgeWrite (who : Requester) (part : Nat) (k : Nat) (v : Word)
  /-- ROPE_SET_WRITE (R305). A write to a rotary set entry is checked and applied from the next issue window. -/
  | ropeSetWrite (who : Requester) (part : Nat) (sub : Nat) (v : Word)
  /-- KV_POOL_CONFIG_WRITE (R345). A write to the pool base, size, geometry or metadata base empties the page pool. -/
  | kvPoolConfigWrite (who : Requester) (part : Nat) (sub : Nat) (v : Word)
  /-- POOL_EMPTIED (R345). Emptying of the page pool finishes and the partition may leave its halt. -/
  | poolEmptied (part : Nat)
  /-- RECOMP_CONS_WRITE (R344). Software writes RECOMP_CONS to consume recompute records, within the allowed range. -/
  | recompConsWrite (who : Requester) (part : Nat) (v : Word)
  /-- STREAM_UP (R347). Writing UP to a DOWN stream starts a new stream epoch. -/
  | streamUp (who : Requester) (st : Nat)
  /-- STREAM_DOWN (R363). Writing DOWN to a stream abandons its jobs with ABORTED. -/
  | streamDown (who : Requester) (st : Nat)
  /-- RECORD_SEND (R356). A stream is served and its next record is sent in SEQNO order within ring and byte budgets. -/
  | recordSend (st : Nat) (ecc : Bool)
  /-- ACK_RECEIVED (R358). An acknowledgement arrives for a stream and is applied, ignored, or treated as a NAK. -/
  | ackReceived (st : Nat) (ack : List Byte)
  /-- RETRANSMIT (R361). On a NAK or ACK_TIMEOUT_US expiry, every record from ACK_SEQNO onward is resent with RETRY. -/
  | retransmit (st : Nat)
  /-- CUT_FREEZE (R375). At the boundary at or after CUT_FRAME, the dirty bits of the named regions become the frozen set. -/
  | cutFreeze (part : Nat)
  /-- RECORD_RECEIVED (R364). A record lands in a receive window and is checked, applied or discarded, and acknowledged. -/
  | recordReceived (win : Nat) (via : Nat) (start : Nat) (len : Nat)
  /-- RESTORE_TIMEOUT (R392). No record lands for RESTORE_TIMEOUT_MS and the RESTORE ends ABORTED. -/
  | restoreTimeout (job : Nat)
  /-- WIN_OPEN (R387). Writing 1 to WIN_STATE opens a receive window. -/
  | winOpen (who : Requester) (win : Nat)
  /-- WIN_CLOSE (R392). Writing 0 to WIN_STATE closes a window, ending a RESTORE that names it. -/
  | winClose (who : Requester) (win : Nat)
  /-- WIN_CONSUMED_WRITE (R388). Software writes WIN_CONSUMED, advancing ACK_BYTES of a LAND window. -/
  | winConsumedWrite (who : Requester) (win : Nat) (v : Word)
  /-- STREAM_ACK_WRITE (R358). The host writes a 32-byte acknowledgement for a HOST stream. -/
  | streamAckWrite (who : Requester) (st : Nat) (bytes : List Byte)
  /-- REGION_WRITE (R372). A region base or span write is checked for overlap and sets every dirty bit of the region. -/
  | regionWrite (who : Requester) (part : Nat) (sub : Nat) (v : Word)
  /-- SLOT_START (R404). A slot begins and the port sends the cells its transmit table allows. -/
  | slotStart (port : Nat) (slot : Nat)
  /-- CELL_RECEIVED (R413). A cell arrives, is checked for CRC, drift and slot, and is accepted or refused. -/
  | cellReceived (port : Nat) (bytes : List Byte) (arrival : Int) (fec : FecObs)
  /-- MARKER_RECEIVED (R410). A frame marker arrives and is used for timing, numbering, peer identity and lane switching. -/
  | markerReceived (port : Nat) (bytes : List Byte) (arrival : Int) (fec : FecObs)
  /-- VIOL_UNMUTE (R417). After 16 good markers a VIOL_MUTED port returns to its previous state at the boundary. -/
  | violUnmute (port : Nat)
  /-- PORT_ENABLE (R420). PORT_CTRL ENABLE starts training or BOOTLINK on a DOWN port. -/
  | portEnable (who : Requester) (port : Nat)
  /-- PORT_DISABLE (R420). PORT_CTRL DISABLE takes the port DOWN. -/
  | portDisable (who : Requester) (port : Nat)
  /-- RESTORE_LANE (R424). PORT_CTRL RESTORE_LANE retrains the faulty lane while three lanes carry cells. -/
  | restoreLane (who : Requester) (port : Nat)
  /-- TRAINING_DONE (R425). Lane training completes and the port becomes UP or DEGRADED. -/
  | trainingDone (port : Nat) (lanes : Nat) (rtt : Nat)
  /-- TRAIN_FAIL (R425). TRAIN_MAX_FR elapses without training and the port goes DOWN. -/
  | trainFail (port : Nat)
  /-- LANE_FAULT (R421). A lane loses lock or exceeds LANE_SER_LIMIT for 16 frames and is faulty. -/
  | laneFault (port : Nat) (lane : Nat)
  /-- LANE_SWITCH (R422). At the agreed LANE_SWITCH frame both ends remap cells onto the new lane set. -/
  | laneSwitch (port : Nat)
  /-- LANE_CONFIRM_TIMEOUT (R422). The neighbour does not confirm within 4 maintenance windows and the port goes DOWN. -/
  | laneConfirmTimeout (port : Nat)
  /-- LOS (R420). Loss of signal on all lanes takes the port DOWN with LOS set. -/
  | los (port : Nat)
  /-- SLOT_TABLE_WRITE (R403). A slot-table entry write to an inactive bank is checked and applied or refused. -/
  | slotTableWrite (who : Requester) (port : Nat) (table : Nat) (slot : Nat) (v : Word)
  /-- SLOT_SWITCH_FRAME_WRITE (R409). A SLOT_SWITCH_FRAME write arms a bank switch or is refused. -/
  | slotSwitchFrameWrite (who : Requester) (port : Nat) (v : Word)
  /-- SLOT_BANK_SWITCH (R408). At the first boundary at or after SLOT_SWITCH_FRAME both tables change bank. -/
  | slotBankSwitch (port : Nat)
  /-- ROCE_PACKET_RECEIVED (R429). A RoCE v2 packet arrives on an Ethernet port and is handled or discarded. -/
  | rocePacketReceived (eth : Nat) (pkt : RocePacket)
  /-- QP_ERROR (R433). A queue pair exhausts its retries and it and its stream enter ERROR. -/
  | qpError (qp : Nat)
  /-- EXCHANGE_FRAME (R457). A collective stage sends its slot round in the group's slots of one exchange frame. -/
  | exchangeFrame (group : Nat)
  /-- STAGE_SETTLE (R458). In settle frames the engine reduces received blocks and writes the stage result. -/
  | stageSettle (group : Nat)
  /-- COLLECTIVE_COMPLETE (R462). A collective completes at or after its planned frame, DEFERRED if late. -/
  | collectiveComplete (group : Nat)
  /-- COLL_SLACK_EXPIRY (R461). COLL_SLACK_FR frames pass with cells missing and the collective ends with SLOT_VIOLATION. -/
  | collSlackExpiry (group : Nat)
  /-- RHIZOID_STAGE_REDUCED (R469). A receiving port has reduced all first-stage messages and the second stage is placed. -/
  | rhizoidStageReduced (group : Nat)
  /-- XWAIT_EXPIRY (R477). The cross-plane stage's XWAIT_FR frames end and the member proceeds or aborts. -/
  | xwaitExpiry (group : Nat)
  /-- GROUP_DEF_WRITE (R444). A GROUP_DEF write is checked and acts from the next issue window. -/
  | groupDefWrite (who : Requester) (group : Nat) (v : Word)
  /-- PLANE_WRITE (R439). A write to PLANE_X, PLANE_Y, PLANE_DIM or PLANE_INDEX is checked and applied or refused. -/
  | planeWrite (who : Requester) (sub : Nat) (v : Word)
  /-- PART_CREATE (R486). PART_CTRL CREATE makes a FREE partition ACTIVE and HALTED. -/
  | partCreate (who : Requester) (part : Nat)
  /-- PART_DESTROY (R490). PART_CTRL DESTROY starts a forced abort and releases the partition's resources. -/
  | partDestroy (who : Requester) (part : Nat)
  /-- PART_HALT (R487). PART_CTRL HALT stops commits and lets committed descriptors finish. -/
  | partHalt (who : Requester) (part : Nat)
  /-- PART_RESUME (R488). PART_CTRL RESUME restarts commits of a HALTED partition. -/
  | partResume (who : Requester) (part : Nat)
  /-- PART_ABORT (R489). PART_CTRL ABORT destroys every context of the partition, keeping it ACTIVE. -/
  | partAbort (who : Requester) (part : Nat)
  /-- HALTED_REACHED (R485). The last committed descriptor of a HALTING partition completes and it becomes HALTED. -/
  | haltedReached (part : Nat)
  /-- CTX_CREATE (R492). CTX_CTRL CREATE makes a context of a partition. -/
  | ctxCreate (who : Requester) (ctx : Nat) (part : Nat)
  /-- CTX_DESTROY (R493). CTX_CTRL DESTROY force-aborts the context's rings and fences. -/
  | ctxDestroy (who : Requester) (ctx : Nat)
  /-- RING_CREATE (R573). RING_CTRL CREATE checks the layout and makes the ring ACTIVE and disabled. -/
  | ringCreate (who : Requester) (ring : Nat)
  /-- RING_ENABLE (R496). RING_CTRL ENABLE lets a ring commit, or sets REENABLE_PENDING while quiescing. -/
  | ringEnable (who : Requester) (ring : Nat)
  /-- RING_DISABLE (R497). RING_CTRL DISABLE stops commits and drains the ring. -/
  | ringDisable (who : Requester) (ring : Nat)
  /-- RING_DESTROY (R502). RING_CTRL DESTROY force-aborts the ring. -/
  | ringDestroy (who : Requester) (ring : Nat)
  /-- DRAIN_COMPLETE (R500). The last committed descriptor of a draining ring completes and the ring becomes ACTIVE. -/
  | drainComplete (ring : Nat)
  /-- ABORT_COMPLETE (R508). A forced abort finishes and its object becomes FREE, or HALTED for a partition ABORT. -/
  | abortComplete (job : Nat)
  /-- ABORT_STOP (R503). Each committed descriptor of an aborting object stops at its tile boundary or window end with ABORTED. -/
  | abortStop (id : Nat)
  /-- FENCE_CREATE (R509). FENCE_CTRL CREATE makes a fence UNSIGNALLED with a new GEN, optionally exportable or imported. -/
  | fenceCreate (who : Requester) (fence : Nat) (ctx : Nat) (exportable : Bool) (imported : Bool)
  /-- FENCE_DESTROY (R506). FENCE_CTRL DESTROY makes the fence BROKEN and frees it by forced abort. -/
  | fenceDestroy (who : Requester) (fence : Nat)
  /-- FENCE_SIGNAL_CMD (R510). FENCE_CTRL SIGNAL signals an ACTIVE fence, or a request for an imported one. -/
  | fenceSignalCmd (who : Requester) (fence : Nat)
  /-- FENCE_RESET (R511). FENCE_CTRL RESET makes the fence UNSIGNALLED and advances GEN. -/
  | fenceReset (who : Requester) (fence : Nat)
  /-- FENCE_SUBS_WRITE (R515). Writing FENCE_SUBS subscribes streams and sends the current fence state. -/
  | fenceSubsWrite (who : Requester) (fence : Nat) (v : Word)
  /-- FENCE_HANDLE_WRITE (R838). A write to FENCE_HANDLE or FENCE_LINK of a FREE fence records its writer. -/
  | fenceHandleWrite (who : Requester) (fence : Nat) (link : Bool) (v : Word)
  /-- FENCE_PAGE_SIGNAL (R522). A fence-page write with OP SIGNAL and the current GEN signals the fence. -/
  | fencePageSignal (fn : Nat) (fence : Nat) (gen : Nat)
  /-- FENCE_PAGE_RESET (R522). A fence-page write with OP RESET and the current GEN resets the fence. -/
  | fencePageReset (fn : Nat) (fence : Nat) (gen : Nat)
  /-- CORE_OWNER_WRITE (R491). A CORE_OWNER write moves logical slots between halted partitions and zeroes their stores. -/
  | coreOwnerWrite (who : Requester) (frond : Nat) (v : Word)
  /-- GRANULE_OWNER_WRITE (R528). A GRANULE_OWNER write assigns or releases HBM granules. -/
  | granuleOwnerWrite (who : Requester) (bytes : List Byte)
  /-- GRANULE_ZEROED (R529). Lichen finishes zeroing a released granule and it becomes free. -/
  | granuleZeroed
  /-- MAP_BASE_WRITE (R523). A MAP_BASE write sets the root of the partition's translation tree. -/
  | mapBaseWrite (who : Requester) (part : Nat) (v : Word)
  /-- MAP_SYNC (R526). A MAP_SYNC write drops cached translations at the next frame boundary. -/
  | mapSync (who : Requester) (part : Nat) (v : Word)
  /-- RUNAHEAD_WRITE (R574). A write to RUNAHEAD squashes held work and applies from the next frame. -/
  | runaheadWrite (who : Requester) (part : Nat) (v : Word)
  /-- BULK_READ (R618). BULK_CTRL READ copies one sample of a long entry into the bulk buffer. -/
  | bulkRead (who : Requester) (idx : Nat) (sub : Nat)
  /-- BULK_WRITE (R618). BULK_CTRL WRITE writes the bulk buffer to a long entry as one write. -/
  | bulkWrite (who : Requester) (idx : Nat) (sub : Nat) (len : Nat)
  /-- DICT_CLEAR (R632). Writing DICT_CLEAR zeroes the requester's DICT_STATUS bits [31:0]. -/
  | dictClear (who : Requester) (v : Word)
  /-- DICT_WRITE (R611). A write to an entry with no row of its own is checked and replaces the entry, or is refused. -/
  | dictWrite (who : Requester) (offset : Nat) (bytes : Nat) (v : Word)
  /-- PERSIST_SAVE (R627). PERSIST_CTRL SAVE copies the persistent set into the parameter area. -/
  | persistSave (who : Requester)
  /-- PERSIST_SAVE_DONE (R630). The SAVE finishes writing its copy and PERSIST_STATE returns to IDLE or FAILED. -/
  | persistSaveDone (ok : Bool)
  /-- PERSIST_ERASE (R631). PERSIST_CTRL ERASE discards both saved copies. -/
  | persistErase (who : Requester)
  /-- SENSOR_SAMPLE (R639). The Marionette samples a sensor channel and evaluates its thresholds. -/
  | sensorSample (ch : Nat) (value : Int) (faulty : Bool)
  /-- POWER_ON (R675). POWER_CTRL ON sequences the rails up and starts a cold start. -/
  | powerOn (who : Requester)
  /-- POWER_OFF (R675). POWER_CTRL OFF resets the die and removes the rails. -/
  | powerOff (who : Requester)
  /-- CHIP_RESET (R700). POWER_CTRL CHIP_RESET performs a warm chip reset. -/
  | chipReset (who : Requester)
  /-- POWER_CYCLE (R675). POWER_CTRL POWER_CYCLE turns the die off for 500 ms and on again. -/
  | powerCycle (who : Requester)
  /-- MARIONETTE_BOOT (R638). The Marionette boots, samples MODULE_ID and joins the Strings bus. -/
  | marionetteBoot (straps : Nat)
  /-- MARIONETTE_RESTART (R635). The Marionette restarts without affecting the die. -/
  | marionetteRestart
  /-- DAP_READ (R655). A Strings REQUEST READ returns an entry as a STRINGS access. -/
  | dapRead (node : Nat) (txn : Nat) (idx : Nat) (sub : Nat)
  /-- DAP_WRITE (R656). A Strings REQUEST WRITE writes an entry as a STRINGS access. -/
  | dapWrite (node : Nat) (txn : Nat) (idx : Nat) (sub : Nat) (v : List Byte)
  /-- SEG_READ_INIT (R657). SEG_READ_INIT takes one sample of a long entry for segmented reading. -/
  | segReadInit (node : Nat) (txn : Nat) (idx : Nat) (sub : Nat)
  /-- SEG_READ_NEXT (R657). SEG_READ_NEXT returns segment k of the sampled entry. -/
  | segReadNext (node : Nat) (txn : Nat) (idx : Nat) (sub : Nat) (k : Nat)
  /-- SEG_WRITE_INIT (R657). SEG_WRITE_INIT opens a segmented write of TOTAL bytes. -/
  | segWriteInit (node : Nat) (txn : Nat) (idx : Nat) (sub : Nat) (total : Nat)
  /-- SEG_WRITE_DATA (R658). SEG_WRITE_DATA buffers segment k and applies the write when complete. -/
  | segWriteData (node : Nat) (txn : Nat) (idx : Nat) (sub : Nat) (k : Nat) (bytes : List Byte)
  /-- SEG_ABORT (R654). SEG_ABORT discards a segmented transfer. -/
  | segAbort (node : Nat) (txn : Nat) (idx : Nat) (sub : Nat)
  /-- SEG_TRANSFER_TIMEOUT (R657). A segmented transfer with no request for 500 ms is discarded. -/
  | segTransferTimeout (node : Nat)
  /-- SEARCH (R659). A SEARCH with a new epoch opens a reply window and queues a SEARCH_REPLY. -/
  | search (node : Nat) (epoch : Nat) (window : Nat)
  /-- SEARCH_REPLY (R660). The queued reply time arrives and the node sends its SEARCH_REPLY. -/
  | searchReply (waited : Nat)
  /-- LATE_SEARCH_ANNOUNCE (R660). A reply not begun by W − 10 ms is withdrawn and an ANNOUNCE sent after the window. -/
  | lateSearchAnnounce
  /-- ANNOUNCE (R661). After the join quiet period and observed windows, the node sends its ANNOUNCE. -/
  | announce
  /-- HEARTBEAT (R662). Every HB_PERIOD_MS the node sends a HEARTBEAT. -/
  | heartbeat
  /-- NODE_PRESENT (R663). A HEARTBEAT, ANNOUNCE or SEARCH_REPLY from a node marks it present. -/
  | nodePresent (node : Nat) (period : Option Nat) (epoch : Option Nat)
  /-- NODE_ABSENT (R663). No frame from a node for 3 periods plus 100 ms marks it absent. -/
  | nodeAbsent (node : Nat)
  /-- DUP_ID (R652). A frame carrying the node's own ID that it did not send puts it in DUP_ID. -/
  | dupId
  /-- BUS_OFF_RECOVERY (R650). After bus-off, 128 × 11 recessive bits restore the node to the bus. -/
  | busOffRecovery
  /-- UPDATE_OPEN (R666). UPDATE_CTRL OPEN erases the inactive slot and opens an update session. -/
  | updateOpen (who : Requester)
  /-- UPDATE_CHUNK (R666). An UPDATE_CHUNK write stores 512 bytes at UPDATE_OFFSET. -/
  | updateChunk (who : Requester) (bytes : List Byte)
  /-- UPDATE_VERIFY (R666). UPDATE_CTRL VERIFY starts the image checks. -/
  | updateVerify (who : Requester)
  /-- UPDATE_VERIFY_DONE (R666). Image verification finishes and the session becomes VERIFIED or REJECTED. -/
  | updateVerifyDone (sigOk : Bool)
  /-- UPDATE_ACTIVATE (R668). UPDATE_CTRL ACTIVATE sets the new slot on trial and restarts the Marionette. -/
  | updateActivate (who : Requester)
  /-- UPDATE_COMMIT (R666). UPDATE_CTRL COMMIT raises the anti-rollback floor and ends the trial. -/
  | updateCommit (who : Requester)
  /-- UPDATE_CANCEL (R666). UPDATE_CTRL CANCEL closes the update session. -/
  | updateCancel (who : Requester)
  /-- UPDATE_REVERTED (R666). UPDATE_TRIAL_S elapses or a second trial boot occurs and the old slot is restored. -/
  | updateReverted
  /-- UPDATE_SESSION_TIMEOUT (R666). 60 s without an update write closes the session. -/
  | updateSessionTimeout
  /-- CHIP_RESET_RELEASE (R671). Chip reset is released, a timebase epoch begins and the boot ROM runs. -/
  | chipResetRelease
  /-- BOOT_WAIT_ENTERED (R674). The boot ROM has brought up PCIe and the staging area opens. -/
  | bootWaitEntered
  /-- FW_VERIFY (R686). FW_CTRL VERIFY starts verification of a host-bound package. -/
  | fwVerify (who : Requester)
  /-- FW_CLEAR (R686). FW_CTRL CLEAR empties and unbinds the staging area. -/
  | fwClear (who : Requester)
  /-- STAGING_WRITE (R687). A BAR4 write in BOOT_WAIT lands in the staging area and binds it to the host. -/
  | stagingWrite (fn : Nat) (off : Nat) (bytes : List Byte)
  /-- PROXY_CELL_RECEIVED (R689). A PROXY cell lands its chunk and verification begins when the package is complete. -/
  | proxyCellReceived (port : Nat) (bytes : List Byte)
  /-- PROXY_BIND_TIMEOUT (R690). No proxy cell for 50 ms releases the binding and discards its chunks. -/
  | proxyBindTimeout
  /-- VERIFY_DONE (R683). Package verification finishes and the device enters FW_START or returns to BOOT_WAIT. -/
  | verifyDone (sigOk : Bool)
  /-- PROXY_FORWARD (R691). A verified device sends proxy passes to BOOTLINK neighbours that are not READY. -/
  | proxyForward
  /-- PROXY_SEND (R692). A PROXY_SEND write makes a READY device send passes on the named ports. -/
  | proxySend (who : Requester) (v : Word)
  /-- FW_START_DONE (R671). Firmware loading and self-test finish and HBM training begins, or BOOT_FAIL. -/
  | fwStartDone (ok : Bool)
  /-- HBM_TRAIN_DONE (R671). HBM training or self-refresh exit finishes and LINK_TRAIN begins, or BOOT_FAIL. -/
  | hbmTrainDone (ok : Bool)
  /-- LINK_TRAIN_DONE (R694). Every port trains or LINK_TRAIN_WAIT_MS expires and TIME_LOCK begins. -/
  | linkTrainDone
  /-- READY (R697). TIME_LOCK ends at LOCKED or its limit and the device becomes READY. -/
  | ready (bootMs : Nat)
  /-- FW_FLOOR_RAISE (R684). FW_FLOOR_RAISE raises the firmware SVN floor. -/
  | fwFloorRaise (who : Requester) (v : Word)
  /-- WATCHDOG_EXPIRY (R708). A core or CMU makes no progress for WATCHDOG_CC cycles and is a fault source. -/
  | watchdogExpiry (cmu : Bool) (unit : Nat)
  /-- CORE_FENCE (R708). A CORE_FENCE write raises a CORE fault on the core. -/
  | coreFence (who : Requester) (core : Nat) (v : Word)
  /-- SPARE_MAPPED (R713). At the next boundary the faulty core is fenced and its slot mapped to a spare. -/
  | spareMapped (frond : Nat) (slot : Nat)
  /-- SPARE_SELFTEST_DONE (R714). The spare's self-test and zeroing finish, or it fails and selection repeats. -/
  | spareSelftestDone (frond : Nat) (slot : Nat) (ok : Bool)
  /-- RELOAD_START (R716). The spare's Stream Mover starts loading the slot's reload table ranges. -/
  | reloadStart (frond : Nat) (slot : Nat)
  /-- RELOAD_LANDED (R716). The reload lands and recovery runs may start. -/
  | reloadLanded (frond : Nat) (slot : Nat)
  /-- RECOVERY_RUN_DONE (R718). A rebuild or reissue run finishes and the next recovery run starts. -/
  | recoveryRunDone (frond : Nat) (slot : Nat) (o : RunObs)
  /-- RECOVERY_DONE (R721). The last recovery run completes and the hold ends at the next issue window. -/
  | recoveryDone (part : Nat)
  /-- FC_RESTART (R728). A Frond Controller misses two heartbeats and is restarted. -/
  | fcRestart (frond : Nat)
  /-- FC_RESTART_DONE (R728). The Frond Controller restart finishes, or the frond is marked failed. -/
  | fcRestartDone (frond : Nat) (ok : Bool)
  /-- FW_SWAP_VERIFY (R740). FW_SWAP_CTRL VERIFY checks a package and starts loading the inactive banks. -/
  | fwSwapVerify (who : Requester) (sigOk : Bool)
  /-- FW_SWAP_STAGED (R740). Loading of the inactive banks finishes and the swap is STAGED. -/
  | fwSwapStaged
  /-- FW_SWAP_SWAP (R741). FW_SWAP_CTRL SWAP arms a bank change at FW_SWAP_FRAME. -/
  | fwSwapSwap (who : Requester)
  /-- FW_SWAP_REVERT (R743). FW_SWAP_CTRL REVERT arms a swap back to the old bank. -/
  | fwSwapRevert (who : Requester)
  /-- FW_SWAP_CANCEL (R740). FW_SWAP_CTRL CANCEL abandons the staged swap. -/
  | fwSwapCancel (who : Requester)
  /-- FW_SWAP_APPLY (R741). At the armed boundary, outside any recovery hold, the firmware banks change. -/
  | fwSwapApply
  /-- BAR4_ACCESS (R761). A BAR4 access reaches the partition's device virtual address through the MSC. -/
  | bar4Access (fn : Nat) (off : Nat) (req : Bar4Req)
  /-- VF_ENABLE_CLEAR (R768). VF Enable changes to 0 and every partition 1–63 is aborted. -/
  | vfEnableClear
  /-- FLR (R781). A function-level reset aborts the function's partition and resets its function state. -/
  | flr (fn : Nat)
  /-- PCIE_RESET (R677). A PCIe fundamental or hot reset performs a warm chip reset. -/
  | pcieReset
  /-- DL_DOWN (R782). The PCIe link goes down and LINKDOWN_POLICY resets or continues. -/
  | dlDown
  /-- MSIX_UNMASK (R773). A masked vector with a pending bit is unmasked and one message is sent. -/
  | msixUnmask (fn : Nat) (vec : Option Nat)
  /-- BUS_MASTER_ENABLE (R774). Bus Master Enable is set or D0 restored and held records and messages are sent. -/
  | busMasterEnable (fn : Nat) (d0 : Bool)
  /-- INPUT_ENABLE (R789). The input stays at or above 38 V for 50 ms and the module is enabled. -/
  | inputEnable
  /-- INPUT_UNDERVOLTAGE (R789). The input falls below 36 V and the module is disabled. -/
  | inputUndervoltage
  /-- INPUT_FAULT (R791). Overvoltage or overcurrent disconnects the whole module. -/
  | inputFault (voltage : Bool)
  /-- INPUT_REENABLE (R791). 5 s after a disconnect the input stage re-enables. -/
  | inputReenable
  /-- THERM_TRIP (R795). A sensor reaches the trip temperature and hardware resets the die and cuts the rails. -/
  | thermTrip (ch : Nat) (value : Int)
  /-- STOP_ASSERTED (R814). The STOP_N filtered level becomes asserted and every RUNNING partition is halted. -/
  | stopAsserted
  /-- STOP_CHATTER (R812). The 21st STOP_N transition within 10 ms asserts the filtered level. -/
  | stopChatter
  /-- CHATTER_END (R812). STOP_N chatter ends and the filtered level follows the raw input again. -/
  | chatterEnd (level : Bool)
  /-- STOP_RELEASED (R813). The STOP_N filtered level becomes deasserted and STOP_STATE becomes RELEASED. -/
  | stopReleased
  /-- STOP_REARM (R816). A STOP_REARM write in RELEASED re-arms STOP_N. -/
  | stopRearm (who : Requester) (v : Word)
  /-- STRINGS_LINE_SHORT (R820). A Strings pin leaves the safe range for 1 ms and the transceiver disconnects. -/
  | stringsLineShort (busOff : Bool)
  /-- STRINGS_LINE_OPEN (R822). 16 consecutive unacknowledged frames set STRINGS_LINE OPEN. -/
  | stringsLineOpen
  /-- DOMINANT_TIMEOUT (R821). A transmitter held dominant for 1 ms is released. -/
  | dominantTimeout (busOff : Bool)
  /-- SYNC_LINE_OK (R802). The SYNC_IN line monitor's fault condition ends and SYNC_STATUS LINE returns to OK, so edges are accepted again. -/
  | syncLineOk
  /-- STRINGS_RECONNECT (R820). Both Strings pins have stayed inside −12 V to +17 V for 10 ms and the transceiver reconnects to the bus. -/
  | stringsReconnect
  /-- LOSS_CLEARED (R420). Signal returns on a DOWN port left ENABLED and, with the device READY, the port retrains by itself. -/
  | lossCleared (port : Nat)
  /-- ETH_LINK_UP (R428). An Ethernet port's link comes up and ETH_STATE becomes UP. -/
  | ethLinkUp (eth : Nat)
  /-- ETH_LINK_DOWN (R428). An Ethernet port's link is lost and ETH_STATE becomes DOWN. -/
  | ethLinkDown (eth : Nat)
  /-- BUS_MASTER_DISABLE (R774). A function's Bus Master Enable is cleared or it enters D3hot, and Supezin begins holding its records, stream writes and MSI-X messages. -/
  | busMasterDisable (fn : Nat) (d3 : Bool)
  /-- DL_UP (R782). The PCIe link returns after DL_Down under LINKDOWN_POLICY CONTINUE, and upstream writes stop being discarded. -/
  | dlUp
  /-- VF_ENABLE_SET (R767). VF Enable is set with NumVFs, and partitions 1 to NumVFs gain a VF requester. -/
  | vfEnableSet (numVfs : Nat)
  /-- PTM_ENABLE_SET (R776). PTM Enable is set in the PF, PTM_STATE becomes 1, and PTM dialogues may run and qualify the PTM reference. -/
  | ptmEnableSet
  /-- PROXY_SEND_DONE (R692). A READY device finishes sending the PROXY_PASSES passes of a PROXY_SEND, so a new PROXY_SEND is no longer refused. -/
  | proxySendDone
  deriving DecidableEq, Repr

end Sys2Proof
end

