-- ==== Sys2Proof/Machine/Tbl.lean ====
section
/-!
DEFINITION. Machine/Tbl.lean: sparse tables, byte strings and bit fields.

A table is kept canonical: its numbers strictly rise and no entry equals what an unlisted number reads as, so that equal
contents are equal lists.  Every memory and every register file of the machine is such a table.
-/
namespace Sys2Proof.Machine

/-- The entry for `k`, or `d` where the table lists none. DESIGN CHOICE (log 12). -/
def Tbl.get {α : Type} (d : α) : Tbl α → Nat → α
  | [], _ => d
  | (k', v) :: t, k => if k' = k then v else Tbl.get d t k

/-- The table without any entry for `k`. -/
def Tbl.erase {α : Type} : Tbl α → Nat → Tbl α
  | [], _ => []
  | (k', v) :: t, k => if k' = k then Tbl.erase t k else (k', v) :: Tbl.erase t k

/-- The table with `(k, v)` placed before the first larger number. -/
def Tbl.insert {α : Type} : Tbl α → Nat → α → Tbl α
  | [], k, v => [(k, v)]
  | (k', v') :: t, k, v => if k < k' then (k, v) :: (k', v') :: t else (k', v') :: Tbl.insert t k v

/-- The table with `k` holding `v`; `d` is what an unlisted number reads as. -/
def Tbl.set {α : Type} [DecidableEq α] (d : α) (t : Tbl α) (k : Nat) (v : α) : Tbl α :=
  if v = d then Tbl.erase t k else Tbl.insert (Tbl.erase t k) k v

/-- Every entry whose number meets `p` goes back to what an unlisted number reads as. -/
def Tbl.drop {α : Type} (p : Nat → Bool) : Tbl α → Tbl α
  | [] => []
  | (k, v) :: t => if p k then Tbl.drop p t else (k, v) :: Tbl.drop p t

/-- Every number of the table is above `n` and they strictly rise. -/
def Tbl.risesFrom {α : Type} : Option Nat → Tbl α → Bool
  | _, [] => true
  | none, (k, _) :: t => Tbl.risesFrom (some k) t
  | some n, (k, _) :: t => decide (n < k) && Tbl.risesFrom (some k) t

/-- The canonical form: strictly rising numbers, and no entry that an unlisted number would read as. -/
def Tbl.wf {α : Type} [DecidableEq α] (d : Nat → α) (t : Tbl α) : Bool :=
  Tbl.risesFrom none t && t.all (fun kv => decide (kv.2 ≠ d kv.1))

/-- Numbers `a`, `a + 1`, …, `n` of them. -/
def countFrom : Nat → Nat → List Nat
  | _, 0 => []
  | a, n + 1 => a :: countFrom (a + 1) n

/-- Bits `hi` down to `lo` of a number. -/
def bitsOf (v hi lo : Nat) : Nat := (v >>> lo) % 2 ^ (hi + 1 - lo)

/-- One bit of a number. -/
def bitOf (v i : Nat) : Bool := (v >>> i) % 2 == 1

/-- Bits `hi` down to `lo` of a slot. -/
def fld (w : Word) (hi lo : Nat) : Nat := bitsOf w.toNat hi lo

/-- The slot with bits `hi` down to `lo` replaced. -/
def putFld (w : Word) (hi lo v : Nat) : Word :=
  let n := w.toNat
  BitVec.ofNat 64 (n - (bitsOf n hi lo) * 2 ^ lo + (v % 2 ^ (hi + 1 - lo)) * 2 ^ lo)

/-- A slot holding a number. -/
def wd (n : Nat) : Word := BitVec.ofNat 64 n

/-- 1 for true and 0 for false. -/
def b2n (b : Bool) : Nat := if b then 1 else 0

/-- The little-endian number that a byte string spells (R604). -/
def leNat : List Byte → Nat
  | [] => 0
  | b :: t => b.toNat + 256 * leNat t

/-- The first `n` little-endian bytes of a number. -/
def leBytes : Nat → Nat → List Byte
  | 0, _ => []
  | n + 1, v => BitVec.ofNat 8 v :: leBytes n (v / 256)

/-- A number of `n` bytes at byte offset `off` of a little-endian block held as a number. -/
def atOff (raw off n : Nat) : Nat := (raw >>> (8 * off)) % 2 ^ (8 * n)

/-- The two's-complement value of the low `w` bits of a number. -/
def sext (w v : Nat) : Int :=
  let u := v % 2 ^ w
  if u < 2 ^ (w - 1) then (u : Int) else (u : Int) - (2 ^ w : Nat)

/-- The low `w` bits of an integer in two's complement. -/
def toBits (w : Nat) (i : Int) : Nat := (i % ((2 ^ w : Nat) : Int)).toNat

/-- A number rounded up to a multiple of `m`. -/
def roundUp (n m : Nat) : Nat := ((n + m - 1) / m) * m

/-- Whether `n` is a power of two. -/
def isPow2 (n : Nat) : Bool := n != 0 && 2 ^ (Nat.log2 n) == n

/-- A counter of `w` bits that stops at its largest value (R616). -/
def satAdd (w n by_ : Nat) : Nat := min (n + by_) (2 ^ w - 1)

/-- Replaces the first element that meets `p`. -/
def replaceFirst {α : Type} (p : α → Bool) (f : α → α) : List α → List α
  | [] => []
  | a :: t => if p a then f a :: t else a :: replaceFirst p f t

/-- Runs `f` over a list of numbers, left to right. -/
def forEach {α σ : Type} (l : List α) (s : σ) (f : σ → α → σ) : σ := l.foldl f s

end Sys2Proof.Machine
end

