-- ==== Sys2Proof/Machine/Crc.lean ====
section
/-!
DEFINITION. Machine/Crc.lean: the checksums of records, cells and frames.
-/
namespace Sys2Proof.Machine

/-- A checksum register run over a byte string: `step` takes the register and a byte.  The register is looked at after every
byte, which lets Lean's kernel compute it. -/
def crcRun (step : Nat → Byte → Nat) : List Byte → Nat → Nat
  | [], c => c
  | b :: l, c =>
    match step c b with
    | 0 => crcRun step l 0
    | n + 1 => crcRun step l (n + 1)

/-- `n` shifts of a reflected CRC register. -/
def crcShiftR (poly : Nat) : Nat → Nat → Nat
  | 0, c => c
  | n + 1, c => crcShiftR poly n (if c % 2 = 1 then (c / 2) ^^^ poly else c / 2)

/-- CRC-32C of a byte string: reflected Castagnoli polynomial, initial value and final exclusive-or all ones (R352). -/
def crc32c (l : List Byte) : Nat :=
  crcRun (fun c b => crcShiftR 0x82F63B78 8 (c ^^^ b.toNat)) l 0xFFFFFFFF ^^^ 0xFFFFFFFF

/-- `n` shifts of an unreflected 16-bit CRC register. -/
def crcShiftL (poly : Nat) : Nat → Nat → Nat
  | 0, c => c
  | n + 1, c => crcShiftL poly n (if 0x8000 ≤ c then (c * 2 % 65536) ^^^ poly else c * 2)

/-- CRC-16 with polynomial 0x1021, initial value 0xFFFF, no reflection and no final exclusive-or (R400). -/
def crc16 (l : List Byte) : Nat :=
  crcRun (fun c b => crcShiftL 0x1021 8 (c ^^^ (b.toNat * 256))) l 0xFFFF

end Sys2Proof.Machine
end

