-- ==== Sys2Proof/Config.lean ====
section
/-!
DEFINITION. Config.lean: the values the spec leaves open.

Each is a constant without a body, so that no proof can use a value of it.  An argument `n` is the State's counter of
free values taken; the other arguments are the operands the value may depend on.
-/
namespace Sys2Proof.Config

/-- Whether an access uses a cached translation that the tree no longer gives (R526). DESIGN CHOICE (log 17). -/
opaque tlbHolds (n : Nat) : Bool

/-- HANDLE_KEY of a fence handle: random at every CREATE with EXPORT (R514). DESIGN CHOICE (log 18). -/
opaque handleKey (n : Nat) : BitVec 32

/-- What a walk of entry `j` of a page table does where software has changed the entry, modulo 4 (R317).
DESIGN CHOICE (log 102). -/
opaque wildWalk (n j : Nat) : Nat

/-- A byte whose contents the spec leaves undefined. DESIGN CHOICE (log 19). -/
opaque freeByte (n : Nat) : Byte

/-- Which free block of a page pool an allocation takes: its number among the free ones, modulo how many there are
(R326, R336). DESIGN CHOICE (log 20). -/
opaque pickBlock (n : Nat) : Nat

/-- Which line but the most recently used one a full set of the MSC gives up, modulo how many there are (R131).
DESIGN CHOICE (log 99). -/
opaque mscVictim (n : Nat) : Nat

/-- Which of the 32 random bits of a draw a stochastic rounding with `d` discarded bits uses (R216).
DESIGN CHOICE (log 21). -/
opaque srBits (draw d : Nat) : Nat

/-- The error of one log-add of the Normaliser on two operands, in units of 2^-40; it counts only where it lies within the bound
that Table 5.6 gives a log-add (R286). DESIGN CHOICE (log 22). -/
opaque logAdd (x y : Option Int) : Int

/-- The code that a NaN drains to in a format whose NaN code the spec does not state (R178, Table 7.3).
DESIGN CHOICE (log 23). -/
opaque nanCode (fmt : Nat) : BitVec 16

/-- SEVERITY of an event whose severity the spec does not state (Tables 16.5, 17.10, 18.9). DESIGN CHOICE (log 24). -/
opaque eventSeverity (code : Nat) : BitVec 2

/-- Marionette uptime in ms at a log record (Table 16.4): the model has no clock of the Marionette.
DESIGN CHOICE (log 26). -/
opaque uptimeMs (n : Nat) : Nat

/-- How many passes, or CMU cycles, the open tile of a descriptor had run when the descriptor was stopped (R99, R503); it counts
up to what the tile takes. DESIGN CHOICE (log 104). -/
opaque passesRun (n : Nat) : Nat

/-- How many frames ahead of the next one a port places LANE_SWITCH (R422). DESIGN CHOICE (log 27). -/
opaque laneLead (n : Nat) : Nat

/-- The number i that a node draws for its search reply (R659). DESIGN CHOICE (log 28). -/
opaque searchSlot (n : Nat) : Nat

/-- ROCE_ACK_RKEY: random at every READY (R432). DESIGN CHOICE (log 29). -/
opaque ackRkey (n : Nat) : BitVec 32

/-- Whether a received element at an end of the INT32 range came from a saturated sum (Table 11.3, R449): the cells do not
say. DESIGN CHOICE (log 30). -/
opaque peerSaturated (n : Nat) : Bool

/-- How long a receiving port takes to hold a Rhizoid stage result, in 1/6000 ns; it counts up to 60 ns (R469).
DESIGN CHOICE (log 31). -/
opaque rhzHold (n : Nat) : Nat

/-- The HBM stack and the row number in it of a row of HBM, as event 0x1807 reports them (Table 18.9).
DESIGN CHOICE (log 32). -/
opaque hbmRow (row : Nat) : Nat × Nat

/-- SEVERITY of a SENSOR_LEVEL record by its new LEVEL, and of a SENSOR_FAULT record (3 a fault, 4 its end): the spec states
none (Table 16.5). DESIGN CHOICE (log 25). -/
opaque sensorSeverity (level : Nat) : BitVec 2

/-- How an event record names a requester (Tables 16.5 and 20.12 give no code), by the number of its requester area.
DESIGN CHOICE (log 33). -/
opaque requesterArg (area : Nat) : Nat

/-- Whether a frame that the Marionette sends while STRINGS_LINE reads OPEN is acknowledged (R822).
DESIGN CHOICE (log 34). -/
opaque ackSeen (n : Nat) : Bool

/-- How much BUS_ERRORS rises at a bus fault: the spec gives the counter no rule (Table 16.14).
DESIGN CHOICE (log 35). -/
opaque busErrs (n : Nat) : Nat

/-- Whether an update event sets UPDATE in ALERT_STATUS, by its code: the spec does not say which do (Table 16.14).
DESIGN CHOICE (log 36). -/
opaque updateAlert (code : Nat) : Bool

/-- AGE_MS of a SENSOR entry at a read (Table 16.2): the model has no clock of the Marionette.
DESIGN CHOICE (log 37). -/
opaque sensorAge (n ch : Nat) : BitVec 16

/-- STALE of a SENSOR entry at a read, outside a restart (Table 16.2). DESIGN CHOICE (log 38). -/
opaque sensorStale (n ch : Nat) : Bool

/-- Whether the signature of a firmware package that software names by a plain write to FW_SWAP_CTRL verifies (R682).
DESIGN CHOICE (log 39). -/
opaque signatureOk (n : Nat) : Bool

/-- PCIE_SPEED, PCIE_WIDTH and PCIE_FLIT while the PCIe link is up: what it trained to (R753).
DESIGN CHOICE (log 40). -/
opaque pcieLink : BitVec 3 × BitVec 8 × Bool

end Sys2Proof.Config
end

