-- ==== Sys2Proof/Machine/Entries.lean ====
section
/-!
DEFINITION. Machine/Entries.lean: the object dictionary's map (R599, R602, R826, Table 21.3).

Every entry has a name, a place (index and subindex, with the stride of its instances), a type, an access code, the
classes that read and write it, and a default.  The number of an entry's slot is index × 256 + subindex, so that the
entries of a run follow one another.
-/
namespace Sys2Proof.Machine

/-- The names of the dictionary's entries, as Table 21.3 lists them. -/
inductive Ent where
  | vendorId | deviceId | stepping | frondCount | coresPhysical | coresActive | spareCores | hbmBytes | hbmGranulesUsable
  | coreClockHz | refClockHz | moduleId | bulkWord | bulkCtrl | bulkLen | dictStatus | dictClear | dictRefused
  | dictApplied | persistCtrl | persistState | persistSaves | persistRejects | bootState | bootCause | fwCtrl | bootReason
  | stageSource | stageBytes | stageDiscards | fwVersion | fwSvn | fwSvnFloor | fwFloorRaise | proxyMode | proxyPasses
  | proxySrc | proxySend | linkTrainWaitMs | timeLockWaitMs | bootTimeMs | pcieSpeed | pcieWidth | pcieFlit | vfsEnabled
  | ptmState | ptmFails | apertureFaults | poisonRx | flrCount | linkdownPolicy | hostWritesLost | dieSerial | apertureBase
  | frameLen | slotsPerFrame | issueLen | guardNs | guardMaxNs | frameLenNext | slotsNext | issueLenNext | guardNext
  | guardMaxNext | switchFrame | frameNumber | devTimeNs | timebaseEpoch | timingState | refSelected | refEnable
  | holdLimitMs | slewPpm | offsetNs | driftEstNs | guardEffNs | holdDriftPpb | syncDelayNs | frameOriginNs | frameSeed
  | stepPending | timingEvents | hopCount | overrunTotal | mscHits | mscMisses | mscEccCorrected | filterBlocks
  | arithModes | precDefault | planeX | planeY | planeIndex | planeDim | collSlackFr | granuleOwner | granulesFree
  | inflightNow | inflightPeak | commitLimitHits | watchdogCc | eccFenceLimit | scrubDebt | scrubDebtMax | debtWindows
  | hbmCeLimit | hbmRepairs | retirePending | fwSwapSrc | fwSwapFrame | fwSwapLen | fwSwapCtrl | fwSwapState | fwSwapReason
  | fwPrevVersion | stopState | stopRearm | stopEvents | syncEvents | stopCount | syncStatus | syncIgnored | syncPolarity
  | syncWindowNs | fsWeightMap | fsOwner | fsStalls | fsEccCorrected | fsEccUncorrected | cmuBusyCc | cmuNanResults
  | coreOwner | sparesLeft | fcRestarts | cmuState | reloadPtr | shapeReg | ringState | ringEnabled | reenablePending
  | ringCtrl | ringCtx | doorbellsDiscarded | droppedUncommitted | ringBase | cqBase | ringEntries | cqSlots | irqVector
  | ringProd | ringCons | cqProd | cqCons | commits | doorbellInvalid | cqStalls | ctxState | ctxCtrl | partState
  | partRun | haltCause | partCtrl | ctxQuota | fenceQuota | xfenceQuota | ringQuota | mapBase | mapSync | mapFaults
  | granulesOwned | partEvents | abortsDone | replayFr | spareBorrow | recoveryState | recoveries | slipFr | reloadErrors
  | lastRecoveryFr | overrunPolicy | overrunCount | deferCount | precLayer | widthClamps | nonfiniteStaged | genConflicts
  | seedAliases | precisionMismatches | drainOverflows | alignSaturations | bucketEdge | boundsFaults | tileIllegals
  | bucketOverflows | tilesSkipped | ropeBase | ropeCfg | emptyRows | nonfiniteScores | normRows | maskedKblocks
  | runahead | squashPrecision | squashPage | squashBounds | squashFence | squashCore | squashOther | runaheadUsed
  | coreState | fenceCause | coreMap | coreFence | lsWeightMap | lsSpecMap | lsStallsTpaAct | lsStallsVu | lsStallsSm
  | lsEccCorrected | lsEccUncorrected | tpaPasses | tpaSatEvents | residueErrors | residueInject | srDraws | quantElements
  | opfetchWaitCc | tilesRun | ordersRun | orderWaitCc | portState | slotBank | portCtrl | txMuted | lanesActive
  | violRun | portDelay | peerId | driftPeak | slotViolations | violMutes | fecUncorrected | cellErrors | rxUntimed
  | portAsym | peerExpect | driftLast | fecCorrected | cellsTx | cellsRx | slotSwitchFrame | portEvents | laneSerLimit
  | trainMaxFr | txSlotA | txSlotB | rxSlotA | rxSlotB | ethState | macAddr | ipv6Addr | ipv4Addr | vlan | pathMtu
  | pfcPrio | dscp | ethDiscards | cnpRx | cnpTx | psnRetries | qpPort | remoteQpn | startPsn | remoteGid | qpState
  | roceAckVa | roceAckRkey | kvPoolBase | kvGeom | kvMetaBase | seqDirBase | recompBase | kvPoolUnits | seqDirSlots
  | recompSlots | recompProd | recompCons | kvScaleMin | unitsFree | ownerMismatches | pageAbsents | recompLost
  | poolFails | pagesDropped | kvSaturated | streamOwner | transport | streamCtrl | streamDest | ringAddr | ringBytes
  | streamEpoch | nextSeqno | ackSeqno | ackBytes | streamBytes | streamAck | ackTimeoutUs | retryLimit | streamRetries
  | streamNaks | ackInvalid | regionBase | regionSpan | shadowBase | shadowBytes | eventBase | eventSlots | eventProd
  | lastCutId | validCutId | eventCons | validCutFrame | cutState | sporWeight | shadowSlotsUsed | shadowPeak | cutsValid
  | cutsAborted | exportAbandoned | eventsLost | granulesDrained | restoreTimeoutMs | winOwner | winMode | winState
  | winBase | winBytes | winConsumed | winSender | winDiscards | winNaks | winRecords | sporHbmShare | installTag
  | exportBytes | restoreBytes | sensor | warnHi | critHi | warnLo | critLo | inputPowerMw | peakPowerMw | powerCapW
  | capWindowMs | capState | powerState | powerCtrl | logNextSeq | logReadSeq | logWindow | alertStatus | alertMask
  | nodeId | stringsState | searchWindowMs | hbPeriodMs | nodesPresent | lastEpoch | busErrors | ackErrors | busOffs
  | mfwVersion | mfwSvn | rollbackFloor | mfwSlot | updateState | updateReason | updateCtrl | updateOffset | updateChunk
  | updateTrialS | thermTripState | inputFaults | stringsLine | moduleIdRaw | fenceState | fenceCtrl | fenceHandle
  | fenceLink | fenceSubs | fenceRecDiscards | signalRepeats | fencePageStale | groupDef | groupState | collCellsPerFr
  | collSeq | collFails | collDeferredFr | collSeqErrors | rhzLate | xstageLate | rhzSeq | collQueued | collDone
  | rhzDone
  deriving DecidableEq, Repr

/-- The types of Table 15.1. -/
inductive EntTy where
  | bool | u8 | u16 | u32 | u64 | i32 | f32 | time64 | enum
  | oct (n : Nat)
  deriving DecidableEq, Repr

/-- The access codes of Table 0.5. -/
inductive EntAcc where
  | ro | rw | rwh | wo | w1c
  deriving DecidableEq, Repr

/-- The class codes of Table 21.2; `fence` is P+o with R838 for a FREE fence. -/
inductive EntCls where
  | none | all | n | no | p | po | pm | ps | sm | own | fence
  deriving DecidableEq, Repr

/-- One row of Table 21.3: instance `i` of the entry starts at index `base + i × stride` and covers `run` indices, each
with subindices `lo` to `hi`. -/
structure EntRow where
  ent : Ent
  base : Nat
  stride : Nat
  count : Nat
  run : Nat
  lo : Nat
  hi : Nat
  ty : EntTy
  acc : EntAcc
  rd : EntCls
  wr : EntCls
  dflt : Nat
  deriving DecidableEq, Repr

/-- Table 21.3, Identity rows, piece 1. -/
def rowsIdentity1 : List EntRow := [
  ⟨.vendorId, 0x1000, 0x10000, 1, 1, 0x01, 0x01, .u16, .ro, .all, .none, 7607⟩,
  ⟨.deviceId, 0x1000, 0x10000, 1, 1, 0x02, 0x02, .u16, .ro, .all, .none, 23041⟩,
  ⟨.stepping, 0x1000, 0x10000, 1, 1, 0x03, 0x03, .u8, .ro, .all, .none, 17⟩,
  ⟨.frondCount, 0x1000, 0x10000, 1, 1, 0x04, 0x04, .u8, .ro, .all, .none, 16⟩,
  ⟨.coresPhysical, 0x1000, 0x10000, 1, 1, 0x05, 0x05, .u16, .ro, .all, .none, 144⟩,
  ⟨.coresActive, 0x1000, 0x10000, 1, 1, 0x06, 0x06, .u16, .ro, .all, .none, 128⟩,
  ⟨.spareCores, 0x1000, 0x10000, 1, 1, 0x07, 0x07, .u8, .ro, .all, .none, 16⟩,
  ⟨.hbmBytes, 0x1000, 0x10000, 1, 1, 0x08, 0x08, .u64, .ro, .all, .none, 0xc00000000⟩,
  ⟨.hbmGranulesUsable, 0x1000, 0x10000, 1, 1, 0x09, 0x09, .u16, .ro, .all, .none, 192⟩,
  ⟨.coreClockHz, 0x1000, 0x10000, 1, 1, 0x0A, 0x0A, .u32, .ro, .all, .none, 0x4a817c80⟩,
  ⟨.refClockHz, 0x1000, 0x10000, 1, 1, 0x0B, 0x0B, .u32, .ro, .all, .none, 0x9502f90⟩,
  ⟨.moduleId, 0x1000, 0x10000, 1, 1, 0x0C, 0x0C, .u8, .ro, .all, .none, 0⟩,
  ⟨.bulkWord, 0x1001, 0x10000, 1, 1, 0x00, 0x3F, .u64, .rw, .own, .own, 0⟩,
  ⟨.bulkCtrl, 0x1001, 0x10000, 1, 1, 0x40, 0x40, .u64, .wo, .own, .own, 0⟩,
  ⟨.bulkLen, 0x1001, 0x10000, 1, 1, 0x41, 0x41, .u16, .ro, .own, .none, 0⟩,
  ⟨.dictStatus, 0x1001, 0x10000, 1, 1, 0x42, 0x42, .u64, .ro, .own, .none, 0⟩,
  ⟨.dictClear, 0x1001, 0x10000, 1, 1, 0x43, 0x43, .bool, .wo, .own, .own, 0⟩,
  ⟨.dictRefused, 0x1001, 0x10000, 1, 1, 0x44, 0x44, .u32, .ro, .own, .none, 0⟩,
  ⟨.dictApplied, 0x1001, 0x10000, 1, 1, 0x45, 0x45, .u32, .ro, .own, .none, 0⟩,
  ⟨.persistCtrl, 0x1002, 0x10000, 1, 1, 0x01, 0x01, .enum, .wo, .all, .n, 0⟩,
  ⟨.persistState, 0x1002, 0x10000, 1, 1, 0x02, 0x02, .enum, .ro, .all, .none, 0⟩,
  ⟨.persistSaves, 0x1002, 0x10000, 1, 1, 0x03, 0x03, .u32, .ro, .all, .none, 0⟩,
  ⟨.persistRejects, 0x1002, 0x10000, 1, 1, 0x04, 0x04, .u16, .ro, .all, .none, 0⟩,
  ⟨.bootState, 0x1003, 0x10000, 1, 1, 0x01, 0x01, .enum, .ro, .n, .none, 0⟩
]

/-- Table 21.3, Identity rows, piece 2. -/
def rowsIdentity2 : List EntRow := [
  ⟨.bootCause, 0x1003, 0x10000, 1, 1, 0x02, 0x02, .enum, .ro, .n, .none, 0⟩,
  ⟨.fwCtrl, 0x1003, 0x10000, 1, 1, 0x03, 0x03, .enum, .wo, .n, .p, 0⟩,
  ⟨.bootReason, 0x1003, 0x10000, 1, 1, 0x04, 0x04, .enum, .ro, .n, .none, 0⟩,
  ⟨.stageSource, 0x1003, 0x10000, 1, 1, 0x05, 0x05, .u8, .ro, .n, .none, 254⟩,
  ⟨.stageBytes, 0x1003, 0x10000, 1, 1, 0x06, 0x06, .u32, .ro, .n, .none, 0⟩,
  ⟨.stageDiscards, 0x1003, 0x10000, 1, 1, 0x07, 0x07, .u32, .ro, .n, .none, 0⟩,
  ⟨.fwVersion, 0x1003, 0x10000, 1, 1, 0x08, 0x08, .u32, .ro, .n, .none, 0⟩,
  ⟨.fwSvn, 0x1003, 0x10000, 1, 1, 0x09, 0x09, .u8, .ro, .n, .none, 0⟩,
  ⟨.fwSvnFloor, 0x1003, 0x10000, 1, 1, 0x0A, 0x0A, .u8, .ro, .n, .none, 0⟩,
  ⟨.fwFloorRaise, 0x1003, 0x10000, 1, 1, 0x0B, 0x0B, .u8, .wo, .n, .p, 0⟩,
  ⟨.proxyMode, 0x1003, 0x10000, 1, 1, 0x0C, 0x0C, .enum, .rw, .n, .n, 1⟩,
  ⟨.proxyPasses, 0x1003, 0x10000, 1, 1, 0x0D, 0x0D, .u8, .rw, .n, .n, 4⟩,
  ⟨.proxySrc, 0x1003, 0x10000, 1, 1, 0x0E, 0x0E, .u64, .rw, .n, .p, 0⟩,
  ⟨.proxySend, 0x1003, 0x10000, 1, 1, 0x0F, 0x0F, .u16, .wo, .n, .p, 0⟩,
  ⟨.linkTrainWaitMs, 0x1003, 0x10000, 1, 1, 0x10, 0x10, .u16, .rw, .n, .n, 200⟩,
  ⟨.timeLockWaitMs, 0x1003, 0x10000, 1, 1, 0x11, 0x11, .u16, .rw, .n, .n, 150⟩,
  ⟨.bootTimeMs, 0x1003, 0x10000, 1, 1, 0x12, 0x12, .u32, .ro, .n, .none, 0⟩,
  ⟨.pcieSpeed, 0x1004, 0x10000, 1, 1, 0x01, 0x01, .enum, .ro, .n, .none, 0⟩,
  ⟨.pcieWidth, 0x1004, 0x10000, 1, 1, 0x02, 0x02, .u8, .ro, .n, .none, 0⟩,
  ⟨.pcieFlit, 0x1004, 0x10000, 1, 1, 0x03, 0x03, .bool, .ro, .n, .none, 0⟩,
  ⟨.vfsEnabled, 0x1004, 0x10000, 1, 1, 0x04, 0x04, .u8, .ro, .n, .none, 0⟩,
  ⟨.ptmState, 0x1004, 0x10000, 1, 1, 0x05, 0x05, .enum, .ro, .n, .none, 0⟩,
  ⟨.ptmFails, 0x1004, 0x10000, 1, 1, 0x06, 0x06, .u32, .ro, .n, .none, 0⟩,
  ⟨.apertureFaults, 0x1004, 0x10000, 1, 1, 0x07, 0x07, .u32, .ro, .all, .none, 0⟩
]

/-- Table 21.3, Identity rows, piece 3. -/
def rowsIdentity3 : List EntRow := [
  ⟨.poisonRx, 0x1004, 0x10000, 1, 1, 0x08, 0x08, .u32, .ro, .n, .none, 0⟩,
  ⟨.flrCount, 0x1004, 0x10000, 1, 1, 0x09, 0x09, .u32, .ro, .n, .none, 0⟩,
  ⟨.linkdownPolicy, 0x1004, 0x10000, 1, 1, 0x0A, 0x0A, .enum, .rw, .n, .n, 0⟩,
  ⟨.hostWritesLost, 0x1004, 0x10000, 1, 1, 0x0B, 0x0B, .u32, .ro, .n, .none, 0⟩,
  ⟨.dieSerial, 0x1004, 0x10000, 1, 1, 0x0C, 0x0C, .u64, .ro, .n, .none, 0⟩,
  ⟨.apertureBase, 0x1005, 0x10000, 1, 1, 0x00, 0x3F, .u64, .rw, .no, .po, 0⟩
]

/-- Table 21.3, Identity rows. -/
def rowsIdentity : List EntRow := rowsIdentity1 ++ rowsIdentity2 ++ rowsIdentity3

/-- Table 21.3, Device rows, piece 1. -/
def rowsDevice1 : List EntRow := [
  ⟨.frameLen, 0x2000, 0x10000, 1, 1, 0x01, 0x01, .u16, .ro, .all, .none, 32⟩,
  ⟨.slotsPerFrame, 0x2000, 0x10000, 1, 1, 0x03, 0x03, .u16, .ro, .all, .none, 64⟩,
  ⟨.issueLen, 0x2000, 0x10000, 1, 1, 0x02, 0x02, .u8, .ro, .all, .none, 8⟩,
  ⟨.guardNs, 0x2000, 0x10000, 1, 1, 0x04, 0x04, .u8, .ro, .all, .none, 16⟩,
  ⟨.guardMaxNs, 0x2000, 0x10000, 1, 1, 0x05, 0x05, .u8, .ro, .all, .none, 24⟩,
  ⟨.frameLenNext, 0x2000, 0x10000, 1, 1, 0x06, 0x06, .u16, .rw, .all, .n, 32⟩,
  ⟨.slotsNext, 0x2000, 0x10000, 1, 1, 0x08, 0x08, .u16, .rw, .all, .n, 64⟩,
  ⟨.issueLenNext, 0x2000, 0x10000, 1, 1, 0x07, 0x07, .u8, .rw, .all, .n, 8⟩,
  ⟨.guardNext, 0x2000, 0x10000, 1, 1, 0x09, 0x09, .u8, .rw, .all, .n, 16⟩,
  ⟨.guardMaxNext, 0x2000, 0x10000, 1, 1, 0x0A, 0x0A, .u8, .rw, .all, .n, 24⟩,
  ⟨.switchFrame, 0x2000, 0x10000, 1, 1, 0x0B, 0x0B, .u64, .rw, .all, .n, 0⟩,
  ⟨.frameNumber, 0x2000, 0x10000, 1, 1, 0x0C, 0x0C, .u64, .ro, .all, .none, 0⟩,
  ⟨.devTimeNs, 0x2000, 0x10000, 1, 1, 0x0D, 0x0D, .time64, .ro, .all, .none, 0⟩,
  ⟨.timebaseEpoch, 0x2000, 0x10000, 1, 1, 0x0E, 0x0E, .u16, .ro, .all, .none, 0⟩,
  ⟨.timingState, 0x2000, 0x10000, 1, 1, 0x0F, 0x0F, .enum, .ro, .all, .none, 0⟩,
  ⟨.refSelected, 0x2000, 0x10000, 1, 1, 0x10, 0x10, .enum, .ro, .all, .none, 0⟩,
  ⟨.refEnable, 0x2000, 0x10000, 1, 1, 0x11, 0x11, .u8, .rw, .all, .n, 7⟩,
  ⟨.holdLimitMs, 0x2000, 0x10000, 1, 1, 0x12, 0x12, .u32, .rw, .all, .n, 60000⟩,
  ⟨.slewPpm, 0x2000, 0x10000, 1, 1, 0x13, 0x13, .u8, .rw, .all, .n, 50⟩,
  ⟨.offsetNs, 0x2000, 0x10000, 1, 1, 0x14, 0x14, .i32, .ro, .all, .none, 0⟩,
  ⟨.driftEstNs, 0x2000, 0x10000, 1, 1, 0x15, 0x15, .u32, .ro, .all, .none, 0xffffffff⟩,
  ⟨.guardEffNs, 0x2000, 0x10000, 1, 1, 0x16, 0x16, .u8, .ro, .all, .none, 16⟩,
  ⟨.holdDriftPpb, 0x2000, 0x10000, 1, 1, 0x17, 0x17, .u16, .rw, .all, .n, 2⟩,
  ⟨.syncDelayNs, 0x2000, 0x10000, 1, 1, 0x18, 0x18, .u32, .rw, .all, .n, 0⟩
]

/-- Table 21.3, Device rows, piece 2. -/
def rowsDevice2 : List EntRow := [
  ⟨.frameOriginNs, 0x2000, 0x10000, 1, 1, 0x19, 0x19, .time64, .rw, .all, .n, 0⟩,
  ⟨.frameSeed, 0x2000, 0x10000, 1, 1, 0x1A, 0x1A, .u64, .wo, .all, .n, 0⟩,
  ⟨.stepPending, 0x2000, 0x10000, 1, 1, 0x1B, 0x1B, .bool, .ro, .all, .none, 0⟩,
  ⟨.timingEvents, 0x2000, 0x10000, 1, 1, 0x1C, 0x1C, .u32, .w1c, .all, .n, 0⟩,
  ⟨.hopCount, 0x2000, 0x10000, 1, 1, 0x1D, 0x1D, .u8, .ro, .all, .none, 255⟩,
  ⟨.overrunTotal, 0x2000, 0x10000, 1, 1, 0x1E, 0x1E, .u32, .ro, .all, .none, 0⟩,
  ⟨.mscHits, 0x2000, 0x10000, 1, 1, 0x20, 0x20, .u64, .ro, .all, .none, 0⟩,
  ⟨.mscMisses, 0x2000, 0x10000, 1, 1, 0x21, 0x21, .u64, .ro, .all, .none, 0⟩,
  ⟨.mscEccCorrected, 0x2000, 0x10000, 1, 1, 0x22, 0x22, .u32, .ro, .all, .none, 0⟩,
  ⟨.filterBlocks, 0x2000, 0x10000, 1, 1, 0x23, 0x23, .u32, .ro, .all, .none, 0⟩,
  ⟨.arithModes, 0x2000, 0x10000, 1, 1, 0x24, 0x24, .u8, .ro, .all, .none, 31⟩,
  ⟨.precDefault, 0x2000, 0x10000, 1, 1, 0x25, 0x25, .u64, .rw, .all, .n, 0xf84f⟩,
  ⟨.planeX, 0x2000, 0x10000, 1, 1, 0x30, 0x30, .u8, .rw, .all, .n, 0⟩,
  ⟨.planeY, 0x2000, 0x10000, 1, 1, 0x31, 0x31, .u8, .rw, .all, .n, 0⟩,
  ⟨.planeIndex, 0x2000, 0x10000, 1, 1, 0x33, 0x33, .u8, .rw, .all, .n, 0⟩,
  ⟨.planeDim, 0x2000, 0x10000, 1, 1, 0x32, 0x32, .u8, .rw, .all, .n, 136⟩,
  ⟨.collSlackFr, 0x2000, 0x10000, 1, 1, 0x34, 0x34, .u8, .rw, .all, .n, 2⟩,
  ⟨.granuleOwner, 0x2000, 0x10000, 1, 1, 0x40, 0x40, (.oct 192), .rw, .n, .p, 0⟩,
  ⟨.granulesFree, 0x2000, 0x10000, 1, 1, 0x41, 0x41, .u16, .ro, .n, .none, 192⟩,
  ⟨.inflightNow, 0x2000, 0x10000, 1, 1, 0x42, 0x42, .u16, .ro, .all, .none, 0⟩,
  ⟨.inflightPeak, 0x2000, 0x10000, 1, 1, 0x43, 0x43, .u16, .ro, .all, .none, 0⟩,
  ⟨.commitLimitHits, 0x2000, 0x10000, 1, 1, 0x44, 0x44, .u32, .ro, .all, .none, 0⟩,
  ⟨.watchdogCc, 0x2000, 0x10000, 1, 1, 0x50, 0x50, .u32, .rw, .n, .n, 4096⟩,
  ⟨.eccFenceLimit, 0x2000, 0x10000, 1, 1, 0x51, 0x51, .u8, .rw, .n, .n, 2⟩
]

/-- Table 21.3, Device rows, piece 3. -/
def rowsDevice3 : List EntRow := [
  ⟨.scrubDebt, 0x2000, 0x10000, 1, 1, 0x52, 0x52, .u32, .ro, .n, .none, 0⟩,
  ⟨.scrubDebtMax, 0x2000, 0x10000, 1, 1, 0x53, 0x53, .u32, .rw, .n, .n, 0x10000⟩,
  ⟨.debtWindows, 0x2000, 0x10000, 1, 1, 0x54, 0x54, .u32, .ro, .n, .none, 0⟩,
  ⟨.hbmCeLimit, 0x2000, 0x10000, 1, 1, 0x55, 0x55, .u16, .rw, .n, .n, 16⟩,
  ⟨.hbmRepairs, 0x2000, 0x10000, 1, 1, 0x56, 0x56, .u32, .ro, .n, .none, 0⟩,
  ⟨.retirePending, 0x2000, 0x10000, 1, 1, 0x57, 0x57, (.oct 24), .ro, .n, .none, 0⟩,
  ⟨.fwSwapSrc, 0x2000, 0x10000, 1, 1, 0x58, 0x58, .u64, .rw, .n, .p, 0⟩,
  ⟨.fwSwapFrame, 0x2000, 0x10000, 1, 1, 0x5C, 0x5C, .u64, .rw, .n, .p, 0⟩,
  ⟨.fwSwapLen, 0x2000, 0x10000, 1, 1, 0x59, 0x59, .u32, .rw, .n, .p, 0⟩,
  ⟨.fwSwapCtrl, 0x2000, 0x10000, 1, 1, 0x5A, 0x5A, .enum, .wo, .n, .p, 0⟩,
  ⟨.fwSwapState, 0x2000, 0x10000, 1, 1, 0x5B, 0x5B, .enum, .ro, .n, .none, 0⟩,
  ⟨.fwSwapReason, 0x2000, 0x10000, 1, 1, 0x5D, 0x5D, .enum, .ro, .n, .none, 0⟩,
  ⟨.fwPrevVersion, 0x2000, 0x10000, 1, 1, 0x5E, 0x5E, .u32, .ro, .n, .none, 0⟩,
  ⟨.stopState, 0x2000, 0x10000, 1, 1, 0x60, 0x60, .enum, .ro, .n, .none, 0⟩,
  ⟨.stopRearm, 0x2000, 0x10000, 1, 1, 0x61, 0x61, .bool, .wo, .n, .n, 0⟩,
  ⟨.stopEvents, 0x2000, 0x10000, 1, 1, 0x62, 0x62, .u32, .w1c, .n, .n, 0⟩,
  ⟨.syncEvents, 0x2000, 0x10000, 1, 1, 0x65, 0x65, .u32, .w1c, .n, .n, 0⟩,
  ⟨.stopCount, 0x2000, 0x10000, 1, 1, 0x63, 0x63, .u32, .ro, .n, .none, 0⟩,
  ⟨.syncStatus, 0x2000, 0x10000, 1, 1, 0x64, 0x64, .u32, .ro, .n, .none, 0⟩,
  ⟨.syncIgnored, 0x2000, 0x10000, 1, 1, 0x66, 0x66, .u32, .ro, .n, .none, 0⟩,
  ⟨.syncPolarity, 0x2000, 0x10000, 1, 1, 0x67, 0x67, .enum, .rw, .n, .n, 0⟩,
  ⟨.syncWindowNs, 0x2000, 0x10000, 1, 1, 0x68, 0x68, .u16, .rw, .n, .n, 64⟩
]

/-- Table 21.3, Device rows. -/
def rowsDevice : List EntRow := rowsDevice1 ++ rowsDevice2 ++ rowsDevice3

/-- Table 21.3, Frond rows, piece 1. -/
def rowsFrond1 : List EntRow := [
  ⟨.fsWeightMap, 0x2100, 0x10, 16, 1, 0x01, 0x04, .u64, .rwh, .n, .p, 0⟩,
  ⟨.fsOwner, 0x2100, 0x10, 16, 1, 0x05, 0x05, (.oct 256), .rwh, .n, .p, 0⟩,
  ⟨.fsStalls, 0x2100, 0x10, 16, 1, 0x06, 0x06, .u32, .ro, .n, .none, 0⟩,
  ⟨.fsEccCorrected, 0x2100, 0x10, 16, 1, 0x07, 0x07, .u32, .ro, .n, .none, 0⟩,
  ⟨.fsEccUncorrected, 0x2100, 0x10, 16, 1, 0x08, 0x08, .u32, .ro, .n, .none, 0⟩,
  ⟨.cmuBusyCc, 0x2100, 0x10, 16, 1, 0x09, 0x09, .u64, .ro, .n, .none, 0⟩,
  ⟨.cmuNanResults, 0x2100, 0x10, 16, 1, 0x0A, 0x0A, .u32, .ro, .n, .none, 0⟩,
  ⟨.coreOwner, 0x2100, 0x10, 16, 1, 0x0B, 0x0B, (.oct 8), .rw, .n, .p, 0⟩,
  ⟨.sparesLeft, 0x2100, 0x10, 16, 1, 0x0C, 0x0C, .u8, .ro, .n, .none, 1⟩,
  ⟨.fcRestarts, 0x2100, 0x10, 16, 1, 0x0D, 0x0D, .u32, .ro, .n, .none, 0⟩,
  ⟨.cmuState, 0x2100, 0x10, 16, 1, 0x0E, 0x0E, .enum, .ro, .n, .none, 0⟩,
  ⟨.reloadPtr, 0x2100, 0x10, 16, 1, 0x10, 0x17, .u64, .rwh, .no, .po, 0⟩
]

/-- Table 21.3, Frond rows. -/
def rowsFrond : List EntRow := rowsFrond1

/-- Table 21.3, Ring rows, piece 1. -/
def rowsRing1 : List EntRow := [
  ⟨.shapeReg, 0x2200, 0x1, 128, 1, 0x00, 0x0F, .u32, .rw, .no, .po, 0⟩,
  ⟨.ringState, 0x2300, 0x1, 128, 1, 0x01, 0x01, .enum, .ro, .no, .none, 0⟩,
  ⟨.ringEnabled, 0x2300, 0x1, 128, 1, 0x02, 0x02, .bool, .ro, .no, .none, 0⟩,
  ⟨.reenablePending, 0x2300, 0x1, 128, 1, 0x05, 0x05, .bool, .ro, .no, .none, 0⟩,
  ⟨.ringCtrl, 0x2300, 0x1, 128, 1, 0x03, 0x03, .enum, .wo, .no, .po, 0⟩,
  ⟨.ringCtx, 0x2300, 0x1, 128, 1, 0x04, 0x04, .u16, .rw, .no, .po, 0⟩,
  ⟨.doorbellsDiscarded, 0x2300, 0x1, 128, 1, 0x06, 0x06, .u32, .ro, .no, .none, 0⟩,
  ⟨.droppedUncommitted, 0x2300, 0x1, 128, 1, 0x07, 0x07, .u32, .ro, .no, .none, 0⟩,
  ⟨.ringBase, 0x2300, 0x1, 128, 1, 0x08, 0x08, .u64, .rw, .no, .po, 0⟩,
  ⟨.cqBase, 0x2300, 0x1, 128, 1, 0x0A, 0x0A, .u64, .rw, .no, .po, 0⟩,
  ⟨.ringEntries, 0x2300, 0x1, 128, 1, 0x09, 0x09, .u32, .rw, .no, .po, 0⟩,
  ⟨.cqSlots, 0x2300, 0x1, 128, 1, 0x0B, 0x0B, .u32, .rw, .no, .po, 0⟩,
  ⟨.irqVector, 0x2300, 0x1, 128, 1, 0x0C, 0x0C, .u16, .rw, .no, .po, 0⟩,
  ⟨.ringProd, 0x2300, 0x1, 128, 1, 0x0D, 0x0D, .u32, .ro, .no, .none, 0⟩,
  ⟨.ringCons, 0x2300, 0x1, 128, 1, 0x0E, 0x0E, .u32, .ro, .no, .none, 0⟩,
  ⟨.cqProd, 0x2300, 0x1, 128, 1, 0x0F, 0x0F, .u32, .ro, .no, .none, 0⟩,
  ⟨.cqCons, 0x2300, 0x1, 128, 1, 0x10, 0x10, .u32, .ro, .no, .none, 0⟩,
  ⟨.commits, 0x2300, 0x1, 128, 1, 0x11, 0x11, .u64, .ro, .no, .none, 0⟩,
  ⟨.doorbellInvalid, 0x2300, 0x1, 128, 1, 0x12, 0x12, .u32, .ro, .no, .none, 0⟩,
  ⟨.cqStalls, 0x2300, 0x1, 128, 1, 0x13, 0x13, .u32, .ro, .no, .none, 0⟩,
  ⟨.ctxState, 0x2400, 0x10000, 1, 4, 0x00, 0xFF, .u16, .ro, .no, .none, 0⟩,
  ⟨.ctxCtrl, 0x2404, 0x10000, 1, 4, 0x00, 0xFF, .u16, .wo, .no, .po, 0⟩
]

/-- Table 21.3, Ring rows. -/
def rowsRing : List EntRow := rowsRing1

/-- Table 21.3, Partition rows, piece 1. -/
def rowsPartition1 : List EntRow := [
  ⟨.partState, 0x3000, 0x40, 64, 1, 0x01, 0x01, .enum, .ro, .no, .none, 0⟩,
  ⟨.partRun, 0x3000, 0x40, 64, 1, 0x02, 0x02, .enum, .ro, .no, .none, 0⟩,
  ⟨.haltCause, 0x3000, 0x40, 64, 1, 0x04, 0x04, .enum, .ro, .no, .none, 1⟩,
  ⟨.partCtrl, 0x3000, 0x40, 64, 1, 0x03, 0x03, .enum, .wo, .no, .po, 0⟩,
  ⟨.ctxQuota, 0x3000, 0x40, 64, 1, 0x05, 0x05, .u16, .rwh, .no, .p, 0⟩,
  ⟨.fenceQuota, 0x3000, 0x40, 64, 1, 0x07, 0x07, .u16, .rwh, .no, .p, 0⟩,
  ⟨.xfenceQuota, 0x3000, 0x40, 64, 1, 0x08, 0x08, .u16, .rwh, .no, .p, 0⟩,
  ⟨.ringQuota, 0x3000, 0x40, 64, 1, 0x06, 0x06, .u8, .rwh, .no, .p, 0⟩,
  ⟨.mapBase, 0x3000, 0x40, 64, 1, 0x09, 0x09, .u64, .rwh, .no, .po, 0⟩,
  ⟨.mapSync, 0x3000, 0x40, 64, 1, 0x0A, 0x0A, .u32, .rw, .no, .po, 0⟩,
  ⟨.mapFaults, 0x3000, 0x40, 64, 1, 0x0B, 0x0B, .u32, .ro, .no, .none, 0⟩,
  ⟨.granulesOwned, 0x3000, 0x40, 64, 1, 0x0C, 0x0C, .u16, .ro, .no, .none, 0⟩,
  ⟨.partEvents, 0x3000, 0x40, 64, 1, 0x0D, 0x0D, .u32, .w1c, .no, .po, 0⟩,
  ⟨.abortsDone, 0x3000, 0x40, 64, 1, 0x0E, 0x0E, .u32, .ro, .no, .none, 0⟩,
  ⟨.replayFr, 0x3000, 0x40, 64, 1, 0x0F, 0x0F, .u8, .rwh, .no, .po, 2⟩,
  ⟨.spareBorrow, 0x3000, 0x40, 64, 1, 0x10, 0x10, .bool, .rwh, .no, .po, 0⟩,
  ⟨.recoveryState, 0x3000, 0x40, 64, 1, 0x11, 0x11, .enum, .ro, .no, .none, 0⟩,
  ⟨.recoveries, 0x3000, 0x40, 64, 1, 0x12, 0x12, .u32, .ro, .no, .none, 0⟩,
  ⟨.slipFr, 0x3000, 0x40, 64, 1, 0x13, 0x13, .u32, .ro, .no, .none, 0⟩,
  ⟨.reloadErrors, 0x3000, 0x40, 64, 1, 0x15, 0x15, .u32, .ro, .no, .none, 0⟩,
  ⟨.lastRecoveryFr, 0x3000, 0x40, 64, 1, 0x14, 0x14, .u16, .ro, .no, .none, 0⟩,
  ⟨.overrunPolicy, 0x3008, 0x40, 64, 1, 0x01, 0x01, .enum, .rwh, .all, .po, 0⟩,
  ⟨.overrunCount, 0x3008, 0x40, 64, 1, 0x02, 0x02, .u32, .ro, .all, .none, 0⟩,
  ⟨.deferCount, 0x3008, 0x40, 64, 1, 0x03, 0x03, .u32, .ro, .all, .none, 0⟩
]

/-- Table 21.3, Partition rows, piece 2. -/
def rowsPartition2 : List EntRow := [
  ⟨.precLayer, 0x3010, 0x40, 64, 1, 0x00, 0xFF, .u64, .rw, .no, .po, 0xf84f⟩,
  ⟨.widthClamps, 0x3011, 0x40, 64, 1, 0x01, 0x01, .u32, .ro, .no, .none, 0⟩,
  ⟨.nonfiniteStaged, 0x3011, 0x40, 64, 1, 0x02, 0x02, .u32, .ro, .no, .none, 0⟩,
  ⟨.genConflicts, 0x3011, 0x40, 64, 1, 0x03, 0x03, .u32, .ro, .no, .none, 0⟩,
  ⟨.seedAliases, 0x3011, 0x40, 64, 1, 0x04, 0x04, .u32, .ro, .no, .none, 0⟩,
  ⟨.precisionMismatches, 0x3011, 0x40, 64, 1, 0x05, 0x05, .u32, .ro, .no, .none, 0⟩,
  ⟨.drainOverflows, 0x3011, 0x40, 64, 1, 0x06, 0x06, .u32, .ro, .no, .none, 0⟩,
  ⟨.alignSaturations, 0x3011, 0x40, 64, 1, 0x07, 0x07, .u32, .ro, .no, .none, 0⟩,
  ⟨.bucketEdge, 0x3012, 0x40, 64, 1, 0x01, 0x08, .u32, .rw, .no, .po, 0⟩,
  ⟨.boundsFaults, 0x3012, 0x40, 64, 1, 0x09, 0x09, .u32, .ro, .no, .none, 0⟩,
  ⟨.tileIllegals, 0x3012, 0x40, 64, 1, 0x0A, 0x0A, .u32, .ro, .no, .none, 0⟩,
  ⟨.bucketOverflows, 0x3012, 0x40, 64, 1, 0x0B, 0x0B, .u32, .ro, .no, .none, 0⟩,
  ⟨.tilesSkipped, 0x3012, 0x40, 64, 1, 0x0C, 0x0C, .u64, .ro, .no, .none, 0⟩,
  ⟨.ropeBase, 0x3013, 0x40, 64, 1, 0x01, 0x08, .f32, .rw, .no, .po, 0x461c4000⟩,
  ⟨.ropeCfg, 0x3013, 0x40, 64, 1, 0x09, 0x10, .u16, .rw, .no, .po, 128⟩,
  ⟨.emptyRows, 0x3014, 0x40, 64, 1, 0x01, 0x01, .u32, .ro, .no, .none, 0⟩,
  ⟨.nonfiniteScores, 0x3014, 0x40, 64, 1, 0x02, 0x02, .u32, .ro, .no, .none, 0⟩,
  ⟨.normRows, 0x3014, 0x40, 64, 1, 0x03, 0x03, .u64, .ro, .no, .none, 0⟩,
  ⟨.maskedKblocks, 0x3014, 0x40, 64, 1, 0x04, 0x04, .u64, .ro, .no, .none, 0⟩,
  ⟨.runahead, 0x3015, 0x40, 64, 1, 0x01, 0x01, .u8, .rw, .no, .po, 1⟩,
  ⟨.squashPrecision, 0x3015, 0x40, 64, 1, 0x02, 0x02, .u32, .ro, .no, .none, 0⟩,
  ⟨.squashPage, 0x3015, 0x40, 64, 1, 0x03, 0x03, .u32, .ro, .no, .none, 0⟩,
  ⟨.squashBounds, 0x3015, 0x40, 64, 1, 0x04, 0x04, .u32, .ro, .no, .none, 0⟩,
  ⟨.squashFence, 0x3015, 0x40, 64, 1, 0x05, 0x05, .u32, .ro, .no, .none, 0⟩
]

/-- Table 21.3, Partition rows, piece 3. -/
def rowsPartition3 : List EntRow := [
  ⟨.squashCore, 0x3015, 0x40, 64, 1, 0x06, 0x06, .u32, .ro, .no, .none, 0⟩,
  ⟨.squashOther, 0x3015, 0x40, 64, 1, 0x07, 0x07, .u32, .ro, .no, .none, 0⟩,
  ⟨.runaheadUsed, 0x3015, 0x40, 64, 1, 0x08, 0x08, .u64, .ro, .no, .none, 0⟩
]

/-- Table 21.3, Partition rows. -/
def rowsPartition : List EntRow := rowsPartition1 ++ rowsPartition2 ++ rowsPartition3

/-- Table 21.3, Core rows, piece 1. -/
def rowsCore1 : List EntRow := [
  ⟨.coreState, 0x4000, 0x10, 144, 1, 0x01, 0x01, .enum, .ro, .no, .none, 0⟩,
  ⟨.fenceCause, 0x4000, 0x10, 144, 1, 0x03, 0x03, .enum, .ro, .no, .none, 0⟩,
  ⟨.coreMap, 0x4000, 0x10, 144, 1, 0x02, 0x02, .u16, .ro, .no, .none, 0⟩,
  ⟨.coreFence, 0x4000, 0x10, 144, 1, 0x04, 0x04, .bool, .wo, .n, .p, 0⟩,
  ⟨.lsWeightMap, 0x4000, 0x10, 144, 1, 0x08, 0x08, .u64, .rwh, .no, .po, 0⟩,
  ⟨.lsSpecMap, 0x4000, 0x10, 144, 1, 0x09, 0x09, .u64, .rwh, .no, .po, 0⟩,
  ⟨.lsStallsTpaAct, 0x4000, 0x10, 144, 1, 0x0A, 0x0A, .u32, .ro, .no, .none, 0⟩,
  ⟨.lsStallsVu, 0x4000, 0x10, 144, 1, 0x0B, 0x0B, .u32, .ro, .no, .none, 0⟩,
  ⟨.lsStallsSm, 0x4000, 0x10, 144, 1, 0x0C, 0x0C, .u32, .ro, .no, .none, 0⟩,
  ⟨.lsEccCorrected, 0x4000, 0x10, 144, 1, 0x0D, 0x0D, .u32, .ro, .no, .none, 0⟩,
  ⟨.lsEccUncorrected, 0x4000, 0x10, 144, 1, 0x0E, 0x0E, .u32, .ro, .no, .none, 0⟩,
  ⟨.tpaPasses, 0x4000, 0x10, 144, 1, 0x10, 0x10, .u64, .ro, .no, .none, 0⟩,
  ⟨.tpaSatEvents, 0x4000, 0x10, 144, 1, 0x11, 0x11, .u32, .ro, .no, .none, 0⟩,
  ⟨.residueErrors, 0x4000, 0x10, 144, 1, 0x12, 0x12, .u32, .ro, .no, .none, 0⟩,
  ⟨.residueInject, 0x4000, 0x10, 144, 1, 0x13, 0x13, .bool, .wo, .no, .pm, 0⟩,
  ⟨.srDraws, 0x4000, 0x10, 144, 1, 0x14, 0x14, .u64, .ro, .no, .none, 0⟩,
  ⟨.quantElements, 0x4000, 0x10, 144, 1, 0x15, 0x15, .u64, .ro, .no, .none, 0⟩,
  ⟨.opfetchWaitCc, 0x4000, 0x10, 144, 1, 0x16, 0x16, .u64, .ro, .no, .none, 0⟩,
  ⟨.tilesRun, 0x4000, 0x10, 144, 1, 0x17, 0x17, .u64, .ro, .no, .none, 0⟩,
  ⟨.ordersRun, 0x4000, 0x10, 144, 1, 0x18, 0x18, .u32, .ro, .no, .none, 0⟩,
  ⟨.orderWaitCc, 0x4000, 0x10, 144, 1, 0x19, 0x19, .u64, .ro, .no, .none, 0⟩
]

/-- Table 21.3, Core rows. -/
def rowsCore : List EntRow := rowsCore1

/-- Table 21.3, Link rows, piece 1. -/
def rowsLink1 : List EntRow := [
  ⟨.portState, 0x5000, 0x40, 16, 1, 0x01, 0x01, .enum, .ro, .n, .none, 0⟩,
  ⟨.slotBank, 0x5000, 0x40, 16, 1, 0x14, 0x14, .enum, .ro, .n, .none, 0⟩,
  ⟨.portCtrl, 0x5000, 0x40, 16, 1, 0x02, 0x02, .enum, .rw, .n, .n, 1⟩,
  ⟨.txMuted, 0x5000, 0x40, 16, 1, 0x03, 0x03, .bool, .ro, .n, .none, 1⟩,
  ⟨.lanesActive, 0x5000, 0x40, 16, 1, 0x04, 0x04, .u8, .ro, .n, .none, 0⟩,
  ⟨.violRun, 0x5000, 0x40, 16, 1, 0x0C, 0x0C, .u8, .ro, .n, .none, 0⟩,
  ⟨.portDelay, 0x5000, 0x40, 16, 1, 0x05, 0x05, .u32, .ro, .n, .none, 0⟩,
  ⟨.peerId, 0x5000, 0x40, 16, 1, 0x07, 0x07, .u32, .ro, .n, .none, 0⟩,
  ⟨.driftPeak, 0x5000, 0x40, 16, 1, 0x0A, 0x0A, .u32, .ro, .n, .none, 0⟩,
  ⟨.slotViolations, 0x5000, 0x40, 16, 1, 0x0B, 0x0B, .u32, .ro, .n, .none, 0⟩,
  ⟨.violMutes, 0x5000, 0x40, 16, 1, 0x0D, 0x0D, .u32, .ro, .n, .none, 0⟩,
  ⟨.fecUncorrected, 0x5000, 0x40, 16, 1, 0x0F, 0x0F, .u32, .ro, .n, .none, 0⟩,
  ⟨.cellErrors, 0x5000, 0x40, 16, 1, 0x10, 0x10, .u32, .ro, .n, .none, 0⟩,
  ⟨.rxUntimed, 0x5000, 0x40, 16, 1, 0x13, 0x13, .u32, .ro, .n, .none, 0⟩,
  ⟨.portAsym, 0x5000, 0x40, 16, 1, 0x06, 0x06, .i32, .rw, .n, .n, 0⟩,
  ⟨.peerExpect, 0x5000, 0x40, 16, 1, 0x08, 0x08, .u32, .rw, .n, .n, 0⟩,
  ⟨.driftLast, 0x5000, 0x40, 16, 1, 0x09, 0x09, .i32, .ro, .n, .none, 0⟩,
  ⟨.fecCorrected, 0x5000, 0x40, 16, 1, 0x0E, 0x0E, .u64, .ro, .n, .none, 0⟩,
  ⟨.cellsTx, 0x5000, 0x40, 16, 1, 0x11, 0x11, .u64, .ro, .n, .none, 0⟩,
  ⟨.cellsRx, 0x5000, 0x40, 16, 1, 0x12, 0x12, .u64, .ro, .n, .none, 0⟩,
  ⟨.slotSwitchFrame, 0x5000, 0x40, 16, 1, 0x15, 0x15, .u64, .rw, .n, .n, 0⟩,
  ⟨.portEvents, 0x5000, 0x40, 16, 1, 0x16, 0x16, .u32, .w1c, .n, .n, 0⟩,
  ⟨.laneSerLimit, 0x5000, 0x40, 16, 1, 0x17, 0x17, .u32, .rw, .n, .n, 64⟩,
  ⟨.trainMaxFr, 0x5000, 0x40, 16, 1, 0x18, 0x18, .u32, .rw, .n, .n, 32768⟩
]

/-- Table 21.3, Link rows, piece 2. -/
def rowsLink2 : List EntRow := [
  ⟨.txSlotA, 0x5001, 0x40, 16, 4, 0x00, 0xFF, .u32, .rw, .n, .n, 0⟩,
  ⟨.txSlotB, 0x5005, 0x40, 16, 4, 0x00, 0xFF, .u32, .rw, .n, .n, 0⟩,
  ⟨.rxSlotA, 0x5009, 0x40, 16, 4, 0x00, 0xFF, .u32, .rw, .n, .n, 0⟩,
  ⟨.rxSlotB, 0x500D, 0x40, 16, 4, 0x00, 0xFF, .u32, .rw, .n, .n, 0⟩,
  ⟨.ethState, 0x5400, 0x40, 4, 1, 0x01, 0x01, .enum, .ro, .n, .none, 0⟩,
  ⟨.macAddr, 0x5400, 0x40, 4, 1, 0x02, 0x02, (.oct 6), .rw, .n, .n, 0⟩,
  ⟨.ipv6Addr, 0x5400, 0x40, 4, 1, 0x04, 0x04, (.oct 16), .rw, .n, .n, 0⟩,
  ⟨.ipv4Addr, 0x5400, 0x40, 4, 1, 0x03, 0x03, .u32, .rw, .n, .n, 0⟩,
  ⟨.vlan, 0x5400, 0x40, 4, 1, 0x05, 0x05, .u16, .rw, .n, .n, 0⟩,
  ⟨.pathMtu, 0x5400, 0x40, 4, 1, 0x08, 0x08, .u16, .rw, .n, .n, 4096⟩,
  ⟨.pfcPrio, 0x5400, 0x40, 4, 1, 0x06, 0x06, .u8, .rw, .n, .n, 3⟩,
  ⟨.dscp, 0x5400, 0x40, 4, 1, 0x07, 0x07, .u8, .rw, .n, .n, 26⟩,
  ⟨.ethDiscards, 0x5400, 0x40, 4, 1, 0x09, 0x09, .u32, .ro, .n, .none, 0⟩,
  ⟨.cnpRx, 0x5400, 0x40, 4, 1, 0x0A, 0x0A, .u32, .ro, .n, .none, 0⟩,
  ⟨.cnpTx, 0x5400, 0x40, 4, 1, 0x0B, 0x0B, .u32, .ro, .n, .none, 0⟩,
  ⟨.psnRetries, 0x5400, 0x40, 4, 1, 0x0C, 0x0C, .u32, .ro, .n, .none, 0⟩,
  ⟨.qpPort, 0x5500, 0x1, 256, 1, 0x01, 0x01, .u8, .rw, .n, .n, 0⟩,
  ⟨.remoteQpn, 0x5500, 0x1, 256, 1, 0x02, 0x02, .u32, .rw, .n, .n, 0⟩,
  ⟨.startPsn, 0x5500, 0x1, 256, 1, 0x04, 0x04, .u32, .rw, .n, .n, 0⟩,
  ⟨.remoteGid, 0x5500, 0x1, 256, 1, 0x03, 0x03, (.oct 16), .rw, .n, .n, 0⟩,
  ⟨.qpState, 0x5500, 0x1, 256, 1, 0x05, 0x05, .enum, .ro, .n, .none, 0⟩,
  ⟨.roceAckVa, 0x5600, 0x10000, 1, 1, 0x01, 0x01, .u64, .ro, .n, .none, 0x7fffffffc000⟩,
  ⟨.roceAckRkey, 0x5600, 0x10000, 1, 1, 0x02, 0x02, .u32, .ro, .n, .none, 0⟩
]

/-- Table 21.3, Link rows. -/
def rowsLink : List EntRow := rowsLink1 ++ rowsLink2

/-- Table 21.3, Kv rows, piece 1. -/
def rowsKv1 : List EntRow := [
  ⟨.kvPoolBase, 0x6000, 0x8, 64, 1, 0x01, 0x01, .u64, .rwh, .no, .po, 0⟩,
  ⟨.kvGeom, 0x6000, 0x8, 64, 1, 0x03, 0x03, .u64, .rwh, .no, .po, 0⟩,
  ⟨.kvMetaBase, 0x6000, 0x8, 64, 1, 0x04, 0x04, .u64, .rwh, .no, .po, 0⟩,
  ⟨.seqDirBase, 0x6000, 0x8, 64, 1, 0x05, 0x05, .u64, .rwh, .no, .po, 0⟩,
  ⟨.recompBase, 0x6000, 0x8, 64, 1, 0x07, 0x07, .u64, .rwh, .no, .po, 0⟩,
  ⟨.kvPoolUnits, 0x6000, 0x8, 64, 1, 0x02, 0x02, .u32, .rwh, .no, .po, 0⟩,
  ⟨.seqDirSlots, 0x6000, 0x8, 64, 1, 0x06, 0x06, .u32, .rwh, .no, .po, 4096⟩,
  ⟨.recompSlots, 0x6000, 0x8, 64, 1, 0x08, 0x08, .u16, .rwh, .no, .po, 256⟩,
  ⟨.recompProd, 0x6000, 0x8, 64, 1, 0x09, 0x09, .u32, .ro, .no, .none, 0⟩,
  ⟨.recompCons, 0x6000, 0x8, 64, 1, 0x0A, 0x0A, .u32, .rw, .no, .po, 0⟩,
  ⟨.kvScaleMin, 0x6000, 0x8, 64, 1, 0x0B, 0x0B, .u16, .rw, .no, .po, 5120⟩,
  ⟨.unitsFree, 0x6001, 0x8, 64, 1, 0x01, 0x01, .u32, .ro, .no, .none, 0⟩,
  ⟨.ownerMismatches, 0x6001, 0x8, 64, 1, 0x04, 0x04, .u32, .ro, .no, .none, 0⟩,
  ⟨.pageAbsents, 0x6001, 0x8, 64, 1, 0x05, 0x05, .u32, .ro, .no, .none, 0⟩,
  ⟨.recompLost, 0x6001, 0x8, 64, 1, 0x06, 0x06, .u32, .ro, .no, .none, 0⟩,
  ⟨.poolFails, 0x6001, 0x8, 64, 1, 0x07, 0x07, .u32, .ro, .no, .none, 0⟩,
  ⟨.pagesDropped, 0x6001, 0x8, 64, 1, 0x02, 0x02, .u64, .ro, .no, .none, 0⟩,
  ⟨.kvSaturated, 0x6001, 0x8, 64, 1, 0x03, 0x03, .u64, .ro, .no, .none, 0⟩
]

/-- Table 21.3, Kv rows. -/
def rowsKv : List EntRow := rowsKv1

/-- Table 21.3, Sporangium rows, piece 1. -/
def rowsSporangium1 : List EntRow := [
  ⟨.streamOwner, 0x6200, 0x1, 256, 1, 0x01, 0x01, .u8, .rw, .no, .p, 255⟩,
  ⟨.transport, 0x6200, 0x1, 256, 1, 0x02, 0x02, .enum, .rw, .no, .po, 0⟩,
  ⟨.streamCtrl, 0x6200, 0x1, 256, 1, 0x06, 0x06, .enum, .rw, .no, .po, 0⟩,
  ⟨.streamDest, 0x6200, 0x1, 256, 1, 0x03, 0x03, .u64, .rw, .no, .po, 0⟩,
  ⟨.ringAddr, 0x6200, 0x1, 256, 1, 0x04, 0x04, .u64, .rw, .no, .po, 0⟩,
  ⟨.ringBytes, 0x6200, 0x1, 256, 1, 0x05, 0x05, .u64, .rw, .no, .po, 0x100000⟩,
  ⟨.streamEpoch, 0x6200, 0x1, 256, 1, 0x07, 0x07, .u16, .ro, .no, .none, 0⟩,
  ⟨.nextSeqno, 0x6200, 0x1, 256, 1, 0x08, 0x08, .u64, .ro, .no, .none, 0⟩,
  ⟨.ackSeqno, 0x6200, 0x1, 256, 1, 0x09, 0x09, .u64, .ro, .no, .none, 0⟩,
  ⟨.ackBytes, 0x6200, 0x1, 256, 1, 0x0A, 0x0A, .u64, .ro, .no, .none, 0⟩,
  ⟨.streamBytes, 0x6200, 0x1, 256, 1, 0x0E, 0x0E, .u64, .ro, .no, .none, 0⟩,
  ⟨.streamAck, 0x6200, 0x1, 256, 1, 0x0B, 0x0B, (.oct 32), .wo, .no, .po, 0⟩,
  ⟨.ackTimeoutUs, 0x6200, 0x1, 256, 1, 0x0C, 0x0C, .u32, .rw, .no, .po, 2000⟩,
  ⟨.retryLimit, 0x6200, 0x1, 256, 1, 0x0D, 0x0D, .u8, .rw, .no, .po, 4⟩,
  ⟨.streamRetries, 0x6200, 0x1, 256, 1, 0x0F, 0x0F, .u32, .ro, .no, .none, 0⟩,
  ⟨.streamNaks, 0x6200, 0x1, 256, 1, 0x10, 0x10, .u32, .ro, .no, .none, 0⟩,
  ⟨.ackInvalid, 0x6200, 0x1, 256, 1, 0x11, 0x11, .u32, .ro, .no, .none, 0⟩,
  ⟨.regionBase, 0x6400, 0x4, 64, 1, 0x01, 0x10, .u64, .rwh, .no, .po, 0⟩,
  ⟨.regionSpan, 0x6400, 0x4, 64, 1, 0x11, 0x20, .u64, .rwh, .no, .po, 0⟩,
  ⟨.shadowBase, 0x6400, 0x4, 64, 1, 0x21, 0x21, .u64, .rwh, .no, .po, 0⟩,
  ⟨.shadowBytes, 0x6400, 0x4, 64, 1, 0x22, 0x22, .u64, .rwh, .no, .po, 0x4000000⟩,
  ⟨.eventBase, 0x6400, 0x4, 64, 1, 0x23, 0x23, .u64, .rwh, .no, .po, 0⟩,
  ⟨.eventSlots, 0x6400, 0x4, 64, 1, 0x24, 0x24, .u16, .rwh, .no, .po, 256⟩,
  ⟨.eventProd, 0x6400, 0x4, 64, 1, 0x25, 0x25, .u32, .ro, .no, .none, 0⟩
]

/-- Table 21.3, Sporangium rows, piece 2. -/
def rowsSporangium2 : List EntRow := [
  ⟨.lastCutId, 0x6400, 0x4, 64, 1, 0x27, 0x27, .u32, .ro, .no, .none, 0⟩,
  ⟨.validCutId, 0x6400, 0x4, 64, 1, 0x28, 0x28, .u32, .ro, .no, .none, 0⟩,
  ⟨.eventCons, 0x6400, 0x4, 64, 1, 0x26, 0x26, .u32, .rw, .no, .po, 0⟩,
  ⟨.validCutFrame, 0x6400, 0x4, 64, 1, 0x29, 0x29, .u64, .ro, .no, .none, 0⟩,
  ⟨.cutState, 0x6400, 0x4, 64, 1, 0x2A, 0x2A, .enum, .ro, .no, .none, 0⟩,
  ⟨.sporWeight, 0x6400, 0x4, 64, 1, 0x2B, 0x2B, .u8, .rw, .no, .p, 1⟩,
  ⟨.shadowSlotsUsed, 0x6401, 0x4, 64, 1, 0x01, 0x01, .u32, .ro, .no, .none, 0⟩,
  ⟨.shadowPeak, 0x6401, 0x4, 64, 1, 0x02, 0x02, .u32, .ro, .no, .none, 0⟩,
  ⟨.cutsValid, 0x6401, 0x4, 64, 1, 0x03, 0x03, .u32, .ro, .no, .none, 0⟩,
  ⟨.cutsAborted, 0x6401, 0x4, 64, 1, 0x04, 0x04, .u32, .ro, .no, .none, 0⟩,
  ⟨.exportAbandoned, 0x6401, 0x4, 64, 1, 0x06, 0x06, .u32, .ro, .no, .none, 0⟩,
  ⟨.eventsLost, 0x6401, 0x4, 64, 1, 0x07, 0x07, .u32, .ro, .no, .none, 0⟩,
  ⟨.granulesDrained, 0x6401, 0x4, 64, 1, 0x05, 0x05, .u64, .ro, .no, .none, 0⟩,
  ⟨.restoreTimeoutMs, 0x6401, 0x4, 64, 1, 0x08, 0x08, .u32, .rw, .no, .po, 60000⟩,
  ⟨.winOwner, 0x6500, 0x1, 32, 1, 0x01, 0x01, .u8, .rw, .all, .p, 255⟩,
  ⟨.winMode, 0x6500, 0x1, 32, 1, 0x02, 0x02, .enum, .rw, .all, .po, 0⟩,
  ⟨.winState, 0x6500, 0x1, 32, 1, 0x05, 0x05, .enum, .rw, .all, .po, 0⟩,
  ⟨.winBase, 0x6500, 0x1, 32, 1, 0x03, 0x03, .u64, .rw, .all, .po, 0⟩,
  ⟨.winBytes, 0x6500, 0x1, 32, 1, 0x04, 0x04, .u64, .rw, .all, .po, 0x100000⟩,
  ⟨.winConsumed, 0x6500, 0x1, 32, 1, 0x06, 0x06, .u64, .rw, .all, .po, 0⟩,
  ⟨.winSender, 0x6500, 0x1, 32, 1, 0x07, 0x07, .u32, .ro, .all, .none, 0⟩,
  ⟨.winDiscards, 0x6500, 0x1, 32, 1, 0x09, 0x09, .u32, .ro, .all, .none, 0⟩,
  ⟨.winNaks, 0x6500, 0x1, 32, 1, 0x0A, 0x0A, .u32, .ro, .all, .none, 0⟩,
  ⟨.winRecords, 0x6500, 0x1, 32, 1, 0x08, 0x08, .u64, .ro, .all, .none, 0⟩
]

/-- Table 21.3, Sporangium rows, piece 3. -/
def rowsSporangium3 : List EntRow := [
  ⟨.sporHbmShare, 0x6600, 0x10000, 1, 1, 0x01, 0x01, .u8, .rw, .all, .n, 28⟩,
  ⟨.installTag, 0x6600, 0x10000, 1, 1, 0x02, 0x02, .u16, .rw, .all, .n, 0⟩,
  ⟨.exportBytes, 0x6600, 0x10000, 1, 1, 0x03, 0x03, .u64, .ro, .all, .none, 0⟩,
  ⟨.restoreBytes, 0x6600, 0x10000, 1, 1, 0x04, 0x04, .u64, .ro, .all, .none, 0⟩
]

/-- Table 21.3, Sporangium rows. -/
def rowsSporangium : List EntRow := rowsSporangium1 ++ rowsSporangium2 ++ rowsSporangium3

/-- Table 21.3, Marionette rows, piece 1. -/
def rowsMarionette1 : List EntRow := [
  ⟨.sensor, 0x7000, 0x10000, 1, 1, 0x01, 0x28, .u64, .ro, .n, .none, 0⟩,
  ⟨.warnHi, 0x7001, 0x10000, 1, 1, 0x01, 0x28, .i32, .rw, .n, .n, 0⟩,
  ⟨.critHi, 0x7002, 0x10000, 1, 1, 0x01, 0x28, .i32, .rw, .n, .n, 0⟩,
  ⟨.warnLo, 0x7003, 0x10000, 1, 1, 0x01, 0x28, .i32, .rw, .n, .n, 0⟩,
  ⟨.critLo, 0x7004, 0x10000, 1, 1, 0x01, 0x28, .i32, .rw, .n, .n, 0⟩,
  ⟨.inputPowerMw, 0x7010, 0x10000, 1, 1, 0x01, 0x01, .u32, .ro, .n, .none, 0⟩,
  ⟨.peakPowerMw, 0x7010, 0x10000, 1, 1, 0x07, 0x07, .u32, .ro, .n, .none, 0⟩,
  ⟨.powerCapW, 0x7010, 0x10000, 1, 1, 0x02, 0x02, .u16, .rw, .n, .n, 300⟩,
  ⟨.capWindowMs, 0x7010, 0x10000, 1, 1, 0x03, 0x03, .u16, .rw, .n, .n, 100⟩,
  ⟨.capState, 0x7010, 0x10000, 1, 1, 0x04, 0x04, .enum, .ro, .n, .none, 0⟩,
  ⟨.powerState, 0x7010, 0x10000, 1, 1, 0x05, 0x05, .enum, .ro, .n, .none, 0⟩,
  ⟨.powerCtrl, 0x7010, 0x10000, 1, 1, 0x06, 0x06, .enum, .wo, .n, .sm, 0⟩,
  ⟨.logNextSeq, 0x7020, 0x10000, 1, 1, 0x01, 0x01, .u32, .ro, .n, .none, 0⟩,
  ⟨.logReadSeq, 0x7020, 0x10000, 1, 1, 0x02, 0x02, .u32, .rw, .n, .n, 0⟩,
  ⟨.logWindow, 0x7020, 0x10000, 1, 1, 0x03, 0x03, (.oct 512), .ro, .n, .none, 0⟩,
  ⟨.alertStatus, 0x7020, 0x10000, 1, 1, 0x04, 0x04, .u32, .w1c, .n, .n, 0⟩,
  ⟨.alertMask, 0x7020, 0x10000, 1, 1, 0x05, 0x05, .u32, .rw, .n, .n, 127⟩,
  ⟨.nodeId, 0x7030, 0x10000, 1, 1, 0x01, 0x01, .u8, .ro, .n, .none, 0⟩,
  ⟨.stringsState, 0x7030, 0x10000, 1, 1, 0x02, 0x02, .enum, .ro, .n, .none, 0⟩,
  ⟨.searchWindowMs, 0x7030, 0x10000, 1, 1, 0x03, 0x03, .u16, .rw, .n, .n, 200⟩,
  ⟨.hbPeriodMs, 0x7030, 0x10000, 1, 1, 0x04, 0x04, .u16, .rw, .n, .n, 1000⟩,
  ⟨.nodesPresent, 0x7030, 0x10000, 1, 1, 0x05, 0x05, (.oct 16), .ro, .n, .none, 0⟩,
  ⟨.lastEpoch, 0x7030, 0x10000, 1, 1, 0x06, 0x06, .u16, .ro, .n, .none, 0⟩,
  ⟨.busErrors, 0x7030, 0x10000, 1, 1, 0x07, 0x07, .u32, .ro, .n, .none, 0⟩
]

/-- Table 21.3, Marionette rows, piece 2. -/
def rowsMarionette2 : List EntRow := [
  ⟨.ackErrors, 0x7030, 0x10000, 1, 1, 0x08, 0x08, .u32, .ro, .n, .none, 0⟩,
  ⟨.busOffs, 0x7030, 0x10000, 1, 1, 0x09, 0x09, .u32, .ro, .n, .none, 0⟩,
  ⟨.mfwVersion, 0x7040, 0x10000, 1, 1, 0x01, 0x01, .u32, .ro, .n, .none, 0⟩,
  ⟨.mfwSvn, 0x7040, 0x10000, 1, 1, 0x02, 0x02, .u8, .ro, .n, .none, 0⟩,
  ⟨.rollbackFloor, 0x7040, 0x10000, 1, 1, 0x03, 0x03, .u8, .ro, .n, .none, 0⟩,
  ⟨.mfwSlot, 0x7040, 0x10000, 1, 1, 0x04, 0x04, .enum, .ro, .n, .none, 0⟩,
  ⟨.updateState, 0x7040, 0x10000, 1, 1, 0x06, 0x06, .enum, .ro, .n, .none, 0⟩,
  ⟨.updateReason, 0x7040, 0x10000, 1, 1, 0x09, 0x09, .enum, .ro, .n, .none, 0⟩,
  ⟨.updateCtrl, 0x7040, 0x10000, 1, 1, 0x05, 0x05, .enum, .wo, .n, .ps, 0⟩,
  ⟨.updateOffset, 0x7040, 0x10000, 1, 1, 0x07, 0x07, .u32, .rw, .n, .ps, 0⟩,
  ⟨.updateChunk, 0x7040, 0x10000, 1, 1, 0x08, 0x08, (.oct 512), .wo, .n, .ps, 0⟩,
  ⟨.updateTrialS, 0x7040, 0x10000, 1, 1, 0x0A, 0x0A, .u16, .rw, .n, .n, 600⟩,
  ⟨.thermTripState, 0x7050, 0x10000, 1, 1, 0x01, 0x01, .bool, .ro, .n, .none, 0⟩,
  ⟨.inputFaults, 0x7050, 0x10000, 1, 1, 0x02, 0x02, .u32, .w1c, .n, .n, 0⟩,
  ⟨.stringsLine, 0x7050, 0x10000, 1, 1, 0x03, 0x03, .enum, .ro, .n, .none, 0⟩,
  ⟨.moduleIdRaw, 0x7050, 0x10000, 1, 1, 0x04, 0x04, .u8, .ro, .n, .none, 0⟩
]

/-- Table 21.3, Marionette rows. -/
def rowsMarionette : List EntRow := rowsMarionette1 ++ rowsMarionette2

/-- Table 21.3, Fence rows, piece 1. -/
def rowsFence1 : List EntRow := [
  ⟨.fenceState, 0x8000, 0x10000, 1, 16, 0x00, 0xFF, .u64, .ro, .no, .none, 0⟩,
  ⟨.fenceCtrl, 0x8010, 0x10000, 1, 16, 0x00, 0xFF, .u64, .wo, .no, .po, 0⟩,
  ⟨.fenceHandle, 0x8020, 0x10000, 1, 16, 0x00, 0xFF, .u64, .rw, .no, .fence, 0⟩,
  ⟨.fenceLink, 0x8030, 0x10000, 1, 16, 0x00, 0xFF, .u8, .rw, .no, .fence, 255⟩,
  ⟨.fenceSubs, 0x8040, 0x10000, 1, 1, 0x00, 0xFF, .u32, .rw, .no, .po, 0xffffffff⟩,
  ⟨.fenceRecDiscards, 0x8050, 0x10000, 1, 1, 0x01, 0x01, .u32, .ro, .n, .none, 0⟩,
  ⟨.signalRepeats, 0x8050, 0x10000, 1, 1, 0x02, 0x02, .u32, .ro, .n, .none, 0⟩,
  ⟨.fencePageStale, 0x8050, 0x10000, 1, 1, 0x03, 0x03, .u32, .ro, .n, .none, 0⟩
]

/-- Table 21.3, Fence rows. -/
def rowsFence : List EntRow := rowsFence1

/-- Table 21.3, Group rows, piece 1. -/
def rowsGroup1 : List EntRow := [
  ⟨.groupDef, 0x8200, 0x1, 32, 1, 0x01, 0x01, .u64, .rw, .no, .n, 0⟩,
  ⟨.groupState, 0x8200, 0x1, 32, 1, 0x02, 0x02, .enum, .ro, .no, .none, 0⟩,
  ⟨.collCellsPerFr, 0x8200, 0x1, 32, 1, 0x03, 0x03, .u32, .ro, .no, .none, 0⟩,
  ⟨.collSeq, 0x8200, 0x1, 32, 1, 0x04, 0x04, .u32, .ro, .no, .none, 0⟩,
  ⟨.collFails, 0x8200, 0x1, 32, 1, 0x07, 0x07, .u32, .ro, .no, .none, 0⟩,
  ⟨.collDeferredFr, 0x8200, 0x1, 32, 1, 0x08, 0x08, .u32, .ro, .no, .none, 0⟩,
  ⟨.collSeqErrors, 0x8200, 0x1, 32, 1, 0x09, 0x09, .u32, .ro, .no, .none, 0⟩,
  ⟨.rhzLate, 0x8200, 0x1, 32, 1, 0x0B, 0x0B, .u32, .ro, .no, .none, 0⟩,
  ⟨.xstageLate, 0x8200, 0x1, 32, 1, 0x0C, 0x0C, .u32, .ro, .no, .none, 0⟩,
  ⟨.rhzSeq, 0x8200, 0x1, 32, 1, 0x0D, 0x0D, .u32, .ro, .no, .none, 0⟩,
  ⟨.collQueued, 0x8200, 0x1, 32, 1, 0x05, 0x05, .u8, .ro, .no, .none, 0⟩,
  ⟨.collDone, 0x8200, 0x1, 32, 1, 0x06, 0x06, .u64, .ro, .no, .none, 0⟩,
  ⟨.rhzDone, 0x8200, 0x1, 32, 1, 0x0A, 0x0A, .u64, .ro, .no, .none, 0⟩
]

/-- Table 21.3, Group rows. -/
def rowsGroup : List EntRow := rowsGroup1

/-- The rows that can hold an index: the ranges of Table 15.2. -/
def rowsFor (idx : Nat) : List EntRow :=
  if idx < 0x2000 then rowsIdentity
  else if idx < 0x2100 then rowsDevice
  else if idx < 0x2200 then rowsFrond
  else if idx < 0x3000 then rowsRing
  else if idx < 0x4000 then rowsPartition
  else if idx < 0x5000 then rowsCore
  else if idx < 0x6000 then rowsLink
  else if idx < 0x6200 then rowsKv
  else if idx < 0x7000 then rowsSporangium
  else if idx < 0x8000 then rowsMarionette
  else if idx < 0x8200 then rowsFence
  else rowsGroup

/-- The member of a row that holds an index and subindex. -/
def EntRow.instOf (r : EntRow) (idx sub : Nat) : Option Nat :=
  if idx < r.base then none
  else
    let d := idx - r.base
    let i := d / r.stride
    if i < r.count && d % r.stride < r.run && decide (r.lo ≤ sub) && decide (sub ≤ r.hi) then some i else none

/-- An entry found in the map: its row, its instance, and its number inside the run. -/
structure EntLoc where
  row : EntRow
  inst : Nat
  elem : Nat
  deriving DecidableEq, Repr

/-- The first row of a list that holds an index and subindex. -/
def findRow (idx sub : Nat) : List EntRow → Option EntLoc
  | [] => none
  | r :: t =>
    match r.instOf idx sub with
    | some i => some ⟨r, i, ((idx - r.base) % r.stride) * 256 + (sub - r.lo)⟩
    | none => findRow idx sub t

/-- The entry at an index and subindex (R602, R826). -/
def findEntry (idx sub : Nat) : Option EntLoc := findRow idx sub (rowsFor idx)

/-- The number of a slot. -/
def slotKey (idx sub : Nat) : Nat := idx * 256 + sub

/-- Bytes of an entry's type (Table 15.1). -/
def EntTy.bytes : EntTy → Nat
  | .bool => 1 | .u8 => 1 | .u16 => 2 | .u32 => 4 | .u64 => 8 | .i32 => 4 | .f32 => 4 | .time64 => 8 | .enum => 1
  | .oct n => n

/-- Whether an entry is a long entry (R601). -/
def EntTy.long (t : EntTy) : Bool := decide (8 < t.bytes)

/-- The value that a LO threshold has when it can never be crossed (Table 16.1). -/
def thresholdOff : Nat := 2 ^ 64 - 2 ^ 31

/-- Nominal voltage and current WARN_HI and CRIT_HI of rail `k` (Table 16.3). -/
def railOf (k : Nat) : Nat × Nat × Nat :=
  ([(750, 280000, 310000), (850, 40000, 48000), (400, 40000, 48000), (1100, 24000, 30000), (1800, 3000, 4000),
    (900, 40000, 48000), (1200, 6000, 8000), (3300, 3000, 4000)]).getD k (0, 0, 0)

/-- WARN_HI, CRIT_HI, WARN_LO and CRIT_LO defaults of a sensor channel (Table 16.1); rail voltages are truncated. -/
def sensorDefaults (sub : Nat) : Nat × Nat × Nat × Nat :=
  if sub ≤ 0x10 then (95000, 105000, thresholdOff, thresholdOff)
  else if sub ≤ 0x14 then (85000, 95000, thresholdOff, thresholdOff)
  else if sub = 0x15 then (40000, 45000, thresholdOff, thresholdOff)
  else if sub = 0x16 then (65000, 75000, thresholdOff, thresholdOff)
  else if sub = 0x17 then (58000, 60500, 42000, 39500)
  else if sub = 0x18 then (7600, 8200, thresholdOff, thresholdOff)
  else
    let (v, w, c) := railOf ((sub - 0x19) / 2)
    if sub % 2 = 1 then (v * 103 / 100, v * 105 / 100, v * 97 / 100, v * 95 / 100)
    else (w, c, thresholdOff, thresholdOff)

/-- Defaults of Table 21.3 that differ between the members of one row.
DESIGN CHOICE (log 9). DESIGN CHOICE (log 11). DESIGN CHOICE (log 51). -/
def entDefault (l : EntLoc) : Nat :=
  match l.row.ent with
  | .partState => if l.inst = 0 then 1 else 0
  | .ctxQuota => if l.inst = 0 then 1024 else 0
  | .ringQuota => if l.inst = 0 then 128 else 0
  | .fenceQuota => if l.inst = 0 then 4096 else 0
  | .xfenceQuota => if l.inst = 0 then 256 else 0
  | .bucketEdge => 512 * 2 ^ l.elem
  | .warnHi => (sensorDefaults (l.elem + 1)).1
  | .critHi => (sensorDefaults (l.elem + 1)).2.1
  | .warnLo => (sensorDefaults (l.elem + 1)).2.2.1
  | .critLo => (sensorDefaults (l.elem + 1)).2.2.2
  | .txSlotA => if l.elem = 0 then 1 else 0
  | .txSlotB => if l.elem = 0 then 1 else 0
  | .rxSlotA => if l.elem = 0 then 1 else 0
  | .rxSlotB => if l.elem = 0 then 1 else 0
  | _ => l.row.dflt

/-- What a slot reads as when nothing has written it: its default of Table 21.3, and zero outside the map.
DESIGN CHOICE (log 9). -/
def regDefault (key : Nat) : Word :=
  match findEntry (key / 256) (key % 256) with
  | some l => wd (entDefault l)
  | none => 0

/-- VENDOR_ID. -/
def kVendorId : Nat := 0x100001
/-- DEVICE_ID. -/
def kDeviceId : Nat := 0x100002
/-- STEPPING. -/
def kStepping : Nat := 0x100003
/-- FROND_COUNT. -/
def kFrondCount : Nat := 0x100004
/-- CORES_PHYSICAL. -/
def kCoresPhysical : Nat := 0x100005
/-- CORES_ACTIVE. -/
def kCoresActive : Nat := 0x100006
/-- SPARE_CORES. -/
def kSpareCores : Nat := 0x100007
/-- HBM_BYTES. -/
def kHbmBytes : Nat := 0x100008
/-- HBM_GRANULES_USABLE. -/
def kHbmGranulesUsable : Nat := 0x100009
/-- CORE_CLOCK_HZ. -/
def kCoreClockHz : Nat := 0x10000A
/-- REF_CLOCK_HZ. -/
def kRefClockHz : Nat := 0x10000B
/-- MODULE_ID. -/
def kModuleId : Nat := 0x10000C
/-- BULK_WORD. -/
def kBulkWord (j : Nat) : Nat := 0x100100 + j
/-- BULK_CTRL. -/
def kBulkCtrl : Nat := 0x100140
/-- BULK_LEN. -/
def kBulkLen : Nat := 0x100141
/-- DICT_STATUS. -/
def kDictStatus : Nat := 0x100142
/-- DICT_CLEAR. -/
def kDictClear : Nat := 0x100143
/-- DICT_REFUSED. -/
def kDictRefused : Nat := 0x100144
/-- DICT_APPLIED. -/
def kDictApplied : Nat := 0x100145
/-- PERSIST_CTRL. -/
def kPersistCtrl : Nat := 0x100201
/-- PERSIST_STATE. -/
def kPersistState : Nat := 0x100202
/-- PERSIST_SAVES. -/
def kPersistSaves : Nat := 0x100203
/-- PERSIST_REJECTS. -/
def kPersistRejects : Nat := 0x100204
/-- BOOT_STATE. -/
def kBootState : Nat := 0x100301
/-- BOOT_CAUSE. -/
def kBootCause : Nat := 0x100302
/-- FW_CTRL. -/
def kFwCtrl : Nat := 0x100303
/-- BOOT_REASON. -/
def kBootReason : Nat := 0x100304
/-- STAGE_SOURCE. -/
def kStageSource : Nat := 0x100305
/-- STAGE_BYTES. -/
def kStageBytes : Nat := 0x100306
/-- STAGE_DISCARDS. -/
def kStageDiscards : Nat := 0x100307
/-- FW_VERSION. -/
def kFwVersion : Nat := 0x100308
/-- FW_SVN. -/
def kFwSvn : Nat := 0x100309
/-- FW_SVN_FLOOR. -/
def kFwSvnFloor : Nat := 0x10030A
/-- FW_FLOOR_RAISE. -/
def kFwFloorRaise : Nat := 0x10030B
/-- PROXY_MODE. -/
def kProxyMode : Nat := 0x10030C
/-- PROXY_PASSES. -/
def kProxyPasses : Nat := 0x10030D
/-- PROXY_SRC. -/
def kProxySrc : Nat := 0x10030E
/-- PROXY_SEND. -/
def kProxySend : Nat := 0x10030F
/-- LINK_TRAIN_WAIT_MS. -/
def kLinkTrainWaitMs : Nat := 0x100310
/-- TIME_LOCK_WAIT_MS. -/
def kTimeLockWaitMs : Nat := 0x100311
/-- BOOT_TIME_MS. -/
def kBootTimeMs : Nat := 0x100312
/-- PCIE_SPEED. -/
def kPcieSpeed : Nat := 0x100401
/-- PCIE_WIDTH. -/
def kPcieWidth : Nat := 0x100402
/-- PCIE_FLIT. -/
def kPcieFlit : Nat := 0x100403
/-- VFS_ENABLED. -/
def kVfsEnabled : Nat := 0x100404
/-- PTM_STATE. -/
def kPtmState : Nat := 0x100405
/-- PTM_FAILS. -/
def kPtmFails : Nat := 0x100406
/-- APERTURE_FAULTS. -/
def kApertureFaults : Nat := 0x100407
/-- POISON_RX. -/
def kPoisonRx : Nat := 0x100408
/-- FLR_COUNT. -/
def kFlrCount : Nat := 0x100409
/-- LINKDOWN_POLICY. -/
def kLinkdownPolicy : Nat := 0x10040A
/-- HOST_WRITES_LOST. -/
def kHostWritesLost : Nat := 0x10040B
/-- DIE_SERIAL. -/
def kDieSerial : Nat := 0x10040C
/-- APERTURE_BASE. -/
def kApertureBase (j : Nat) : Nat := 0x100500 + j
/-- FRAME_LEN. -/
def kFrameLen : Nat := 0x200001
/-- SLOTS_PER_FRAME. -/
def kSlotsPerFrame : Nat := 0x200003
/-- ISSUE_LEN. -/
def kIssueLen : Nat := 0x200002
/-- GUARD_NS. -/
def kGuardNs : Nat := 0x200004
/-- GUARD_MAX_NS. -/
def kGuardMaxNs : Nat := 0x200005
/-- FRAME_LEN_NEXT. -/
def kFrameLenNext : Nat := 0x200006
/-- SLOTS_NEXT. -/
def kSlotsNext : Nat := 0x200008
/-- ISSUE_LEN_NEXT. -/
def kIssueLenNext : Nat := 0x200007
/-- GUARD_NEXT. -/
def kGuardNext : Nat := 0x200009
/-- GUARD_MAX_NEXT. -/
def kGuardMaxNext : Nat := 0x20000A
/-- SWITCH_FRAME. -/
def kSwitchFrame : Nat := 0x20000B
/-- FRAME_NUMBER. -/
def kFrameNumber : Nat := 0x20000C
/-- DEV_TIME_NS. -/
def kDevTimeNs : Nat := 0x20000D
/-- TIMEBASE_EPOCH. -/
def kTimebaseEpoch : Nat := 0x20000E
/-- TIMING_STATE. -/
def kTimingState : Nat := 0x20000F
/-- REF_SELECTED. -/
def kRefSelected : Nat := 0x200010
/-- REF_ENABLE. -/
def kRefEnable : Nat := 0x200011
/-- HOLD_LIMIT_MS. -/
def kHoldLimitMs : Nat := 0x200012
/-- SLEW_PPM. -/
def kSlewPpm : Nat := 0x200013
/-- OFFSET_NS. -/
def kOffsetNs : Nat := 0x200014
/-- DRIFT_EST_NS. -/
def kDriftEstNs : Nat := 0x200015
/-- GUARD_EFF_NS. -/
def kGuardEffNs : Nat := 0x200016
/-- HOLD_DRIFT_PPB. -/
def kHoldDriftPpb : Nat := 0x200017
/-- SYNC_DELAY_NS. -/
def kSyncDelayNs : Nat := 0x200018
/-- FRAME_ORIGIN_NS. -/
def kFrameOriginNs : Nat := 0x200019
/-- FRAME_SEED. -/
def kFrameSeed : Nat := 0x20001A
/-- STEP_PENDING. -/
def kStepPending : Nat := 0x20001B
/-- TIMING_EVENTS. -/
def kTimingEvents : Nat := 0x20001C
/-- HOP_COUNT. -/
def kHopCount : Nat := 0x20001D
/-- OVERRUN_TOTAL. -/
def kOverrunTotal : Nat := 0x20001E
/-- MSC_HITS. -/
def kMscHits : Nat := 0x200020
/-- MSC_MISSES. -/
def kMscMisses : Nat := 0x200021
/-- MSC_ECC_CORRECTED. -/
def kMscEccCorrected : Nat := 0x200022
/-- FILTER_BLOCKS. -/
def kFilterBlocks : Nat := 0x200023
/-- ARITH_MODES. -/
def kArithModes : Nat := 0x200024
/-- PREC_DEFAULT. -/
def kPrecDefault : Nat := 0x200025
/-- PLANE_X. -/
def kPlaneX : Nat := 0x200030
/-- PLANE_Y. -/
def kPlaneY : Nat := 0x200031
/-- PLANE_INDEX. -/
def kPlaneIndex : Nat := 0x200033
/-- PLANE_DIM. -/
def kPlaneDim : Nat := 0x200032
/-- COLL_SLACK_FR. -/
def kCollSlackFr : Nat := 0x200034
/-- GRANULE_OWNER. -/
def kGranuleOwner : Nat := 0x200040
/-- GRANULES_FREE. -/
def kGranulesFree : Nat := 0x200041
/-- INFLIGHT_NOW. -/
def kInflightNow : Nat := 0x200042
/-- INFLIGHT_PEAK. -/
def kInflightPeak : Nat := 0x200043
/-- COMMIT_LIMIT_HITS. -/
def kCommitLimitHits : Nat := 0x200044
/-- WATCHDOG_CC. -/
def kWatchdogCc : Nat := 0x200050
/-- ECC_FENCE_LIMIT. -/
def kEccFenceLimit : Nat := 0x200051
/-- SCRUB_DEBT. -/
def kScrubDebt : Nat := 0x200052
/-- SCRUB_DEBT_MAX. -/
def kScrubDebtMax : Nat := 0x200053
/-- DEBT_WINDOWS. -/
def kDebtWindows : Nat := 0x200054
/-- HBM_CE_LIMIT. -/
def kHbmCeLimit : Nat := 0x200055
/-- HBM_REPAIRS. -/
def kHbmRepairs : Nat := 0x200056
/-- RETIRE_PENDING. -/
def kRetirePending : Nat := 0x200057
/-- FW_SWAP_SRC. -/
def kFwSwapSrc : Nat := 0x200058
/-- FW_SWAP_FRAME. -/
def kFwSwapFrame : Nat := 0x20005C
/-- FW_SWAP_LEN. -/
def kFwSwapLen : Nat := 0x200059
/-- FW_SWAP_CTRL. -/
def kFwSwapCtrl : Nat := 0x20005A
/-- FW_SWAP_STATE. -/
def kFwSwapState : Nat := 0x20005B
/-- FW_SWAP_REASON. -/
def kFwSwapReason : Nat := 0x20005D
/-- FW_PREV_VERSION. -/
def kFwPrevVersion : Nat := 0x20005E
/-- STOP_STATE. -/
def kStopState : Nat := 0x200060
/-- STOP_REARM. -/
def kStopRearm : Nat := 0x200061
/-- STOP_EVENTS. -/
def kStopEvents : Nat := 0x200062
/-- SYNC_EVENTS. -/
def kSyncEvents : Nat := 0x200065
/-- STOP_COUNT. -/
def kStopCount : Nat := 0x200063
/-- SYNC_STATUS. -/
def kSyncStatus : Nat := 0x200064
/-- SYNC_IGNORED. -/
def kSyncIgnored : Nat := 0x200066
/-- SYNC_POLARITY. -/
def kSyncPolarity : Nat := 0x200067
/-- SYNC_WINDOW_NS. -/
def kSyncWindowNs : Nat := 0x200068
/-- FS_WEIGHT_MAP. -/
def kFsWeightMap (i j : Nat) : Nat := 0x210001 + 0x1000 * i + j
/-- FS_OWNER. -/
def kFsOwner (i : Nat) : Nat := 0x210005 + 0x1000 * i
/-- FS_STALLS. -/
def kFsStalls (i : Nat) : Nat := 0x210006 + 0x1000 * i
/-- FS_ECC_CORRECTED. -/
def kFsEccCorrected (i : Nat) : Nat := 0x210007 + 0x1000 * i
/-- FS_ECC_UNCORRECTED. -/
def kFsEccUncorrected (i : Nat) : Nat := 0x210008 + 0x1000 * i
/-- CMU_BUSY_CC. -/
def kCmuBusyCc (i : Nat) : Nat := 0x210009 + 0x1000 * i
/-- CMU_NAN_RESULTS. -/
def kCmuNanResults (i : Nat) : Nat := 0x21000A + 0x1000 * i
/-- CORE_OWNER. -/
def kCoreOwner (i : Nat) : Nat := 0x21000B + 0x1000 * i
/-- SPARES_LEFT. -/
def kSparesLeft (i : Nat) : Nat := 0x21000C + 0x1000 * i
/-- FC_RESTARTS. -/
def kFcRestarts (i : Nat) : Nat := 0x21000D + 0x1000 * i
/-- CMU_STATE. -/
def kCmuState (i : Nat) : Nat := 0x21000E + 0x1000 * i
/-- RELOAD_PTR. -/
def kReloadPtr (i j : Nat) : Nat := 0x210010 + 0x1000 * i + j
/-- SHAPE_REG. -/
def kShapeReg (i j : Nat) : Nat := 0x220000 + 0x100 * i + j
/-- RING_STATE. -/
def kRingState (i : Nat) : Nat := 0x230001 + 0x100 * i
/-- RING_ENABLED. -/
def kRingEnabled (i : Nat) : Nat := 0x230002 + 0x100 * i
/-- REENABLE_PENDING. -/
def kReenablePending (i : Nat) : Nat := 0x230005 + 0x100 * i
/-- RING_CTRL. -/
def kRingCtrl (i : Nat) : Nat := 0x230003 + 0x100 * i
/-- RING_CTX. -/
def kRingCtx (i : Nat) : Nat := 0x230004 + 0x100 * i
/-- DOORBELLS_DISCARDED. -/
def kDoorbellsDiscarded (i : Nat) : Nat := 0x230006 + 0x100 * i
/-- DROPPED_UNCOMMITTED. -/
def kDroppedUncommitted (i : Nat) : Nat := 0x230007 + 0x100 * i
/-- RING_BASE. -/
def kRingBase (i : Nat) : Nat := 0x230008 + 0x100 * i
/-- CQ_BASE. -/
def kCqBase (i : Nat) : Nat := 0x23000A + 0x100 * i
/-- RING_ENTRIES. -/
def kRingEntries (i : Nat) : Nat := 0x230009 + 0x100 * i
/-- CQ_SLOTS. -/
def kCqSlots (i : Nat) : Nat := 0x23000B + 0x100 * i
/-- IRQ_VECTOR. -/
def kIrqVector (i : Nat) : Nat := 0x23000C + 0x100 * i
/-- RING_PROD. -/
def kRingProd (i : Nat) : Nat := 0x23000D + 0x100 * i
/-- RING_CONS. -/
def kRingCons (i : Nat) : Nat := 0x23000E + 0x100 * i
/-- CQ_PROD. -/
def kCqProd (i : Nat) : Nat := 0x23000F + 0x100 * i
/-- CQ_CONS. -/
def kCqCons (i : Nat) : Nat := 0x230010 + 0x100 * i
/-- COMMITS. -/
def kCommits (i : Nat) : Nat := 0x230011 + 0x100 * i
/-- DOORBELL_INVALID. -/
def kDoorbellInvalid (i : Nat) : Nat := 0x230012 + 0x100 * i
/-- CQ_STALLS. -/
def kCqStalls (i : Nat) : Nat := 0x230013 + 0x100 * i
/-- CTX_STATE. -/
def kCtxState (j : Nat) : Nat := 0x240000 + j
/-- CTX_CTRL. -/
def kCtxCtrl (j : Nat) : Nat := 0x240400 + j
/-- PART_STATE. -/
def kPartState (i : Nat) : Nat := 0x300001 + 0x4000 * i
/-- PART_RUN. -/
def kPartRun (i : Nat) : Nat := 0x300002 + 0x4000 * i
/-- HALT_CAUSE. -/
def kHaltCause (i : Nat) : Nat := 0x300004 + 0x4000 * i
/-- PART_CTRL. -/
def kPartCtrl (i : Nat) : Nat := 0x300003 + 0x4000 * i
/-- CTX_QUOTA. -/
def kCtxQuota (i : Nat) : Nat := 0x300005 + 0x4000 * i
/-- FENCE_QUOTA. -/
def kFenceQuota (i : Nat) : Nat := 0x300007 + 0x4000 * i
/-- XFENCE_QUOTA. -/
def kXfenceQuota (i : Nat) : Nat := 0x300008 + 0x4000 * i
/-- RING_QUOTA. -/
def kRingQuota (i : Nat) : Nat := 0x300006 + 0x4000 * i
/-- MAP_BASE. -/
def kMapBase (i : Nat) : Nat := 0x300009 + 0x4000 * i
/-- MAP_SYNC. -/
def kMapSync (i : Nat) : Nat := 0x30000A + 0x4000 * i
/-- MAP_FAULTS. -/
def kMapFaults (i : Nat) : Nat := 0x30000B + 0x4000 * i
/-- GRANULES_OWNED. -/
def kGranulesOwned (i : Nat) : Nat := 0x30000C + 0x4000 * i
/-- PART_EVENTS. -/
def kPartEvents (i : Nat) : Nat := 0x30000D + 0x4000 * i
/-- ABORTS_DONE. -/
def kAbortsDone (i : Nat) : Nat := 0x30000E + 0x4000 * i
/-- REPLAY_FR. -/
def kReplayFr (i : Nat) : Nat := 0x30000F + 0x4000 * i
/-- SPARE_BORROW. -/
def kSpareBorrow (i : Nat) : Nat := 0x300010 + 0x4000 * i
/-- RECOVERY_STATE. -/
def kRecoveryState (i : Nat) : Nat := 0x300011 + 0x4000 * i
/-- RECOVERIES. -/
def kRecoveries (i : Nat) : Nat := 0x300012 + 0x4000 * i
/-- SLIP_FR. -/
def kSlipFr (i : Nat) : Nat := 0x300013 + 0x4000 * i
/-- RELOAD_ERRORS. -/
def kReloadErrors (i : Nat) : Nat := 0x300015 + 0x4000 * i
/-- LAST_RECOVERY_FR. -/
def kLastRecoveryFr (i : Nat) : Nat := 0x300014 + 0x4000 * i
/-- OVERRUN_POLICY. -/
def kOverrunPolicy (i : Nat) : Nat := 0x300801 + 0x4000 * i
/-- OVERRUN_COUNT. -/
def kOverrunCount (i : Nat) : Nat := 0x300802 + 0x4000 * i
/-- DEFER_COUNT. -/
def kDeferCount (i : Nat) : Nat := 0x300803 + 0x4000 * i
/-- PREC_LAYER. -/
def kPrecLayer (i j : Nat) : Nat := 0x301000 + 0x4000 * i + j
/-- WIDTH_CLAMPS. -/
def kWidthClamps (i : Nat) : Nat := 0x301101 + 0x4000 * i
/-- NONFINITE_STAGED. -/
def kNonfiniteStaged (i : Nat) : Nat := 0x301102 + 0x4000 * i
/-- GEN_CONFLICTS. -/
def kGenConflicts (i : Nat) : Nat := 0x301103 + 0x4000 * i
/-- SEED_ALIASES. -/
def kSeedAliases (i : Nat) : Nat := 0x301104 + 0x4000 * i
/-- PRECISION_MISMATCHES. -/
def kPrecisionMismatches (i : Nat) : Nat := 0x301105 + 0x4000 * i
/-- DRAIN_OVERFLOWS. -/
def kDrainOverflows (i : Nat) : Nat := 0x301106 + 0x4000 * i
/-- ALIGN_SATURATIONS. -/
def kAlignSaturations (i : Nat) : Nat := 0x301107 + 0x4000 * i
/-- BUCKET_EDGE. -/
def kBucketEdge (i j : Nat) : Nat := 0x301201 + 0x4000 * i + j
/-- BOUNDS_FAULTS. -/
def kBoundsFaults (i : Nat) : Nat := 0x301209 + 0x4000 * i
/-- TILE_ILLEGALS. -/
def kTileIllegals (i : Nat) : Nat := 0x30120A + 0x4000 * i
/-- BUCKET_OVERFLOWS. -/
def kBucketOverflows (i : Nat) : Nat := 0x30120B + 0x4000 * i
/-- TILES_SKIPPED. -/
def kTilesSkipped (i : Nat) : Nat := 0x30120C + 0x4000 * i
/-- ROPE_BASE. -/
def kRopeBase (i j : Nat) : Nat := 0x301301 + 0x4000 * i + j
/-- ROPE_CFG. -/
def kRopeCfg (i j : Nat) : Nat := 0x301309 + 0x4000 * i + j
/-- EMPTY_ROWS. -/
def kEmptyRows (i : Nat) : Nat := 0x301401 + 0x4000 * i
/-- NONFINITE_SCORES. -/
def kNonfiniteScores (i : Nat) : Nat := 0x301402 + 0x4000 * i
/-- NORM_ROWS. -/
def kNormRows (i : Nat) : Nat := 0x301403 + 0x4000 * i
/-- MASKED_KBLOCKS. -/
def kMaskedKblocks (i : Nat) : Nat := 0x301404 + 0x4000 * i
/-- RUNAHEAD. -/
def kRunahead (i : Nat) : Nat := 0x301501 + 0x4000 * i
/-- SQUASH_PRECISION. -/
def kSquashPrecision (i : Nat) : Nat := 0x301502 + 0x4000 * i
/-- SQUASH_PAGE. -/
def kSquashPage (i : Nat) : Nat := 0x301503 + 0x4000 * i
/-- SQUASH_BOUNDS. -/
def kSquashBounds (i : Nat) : Nat := 0x301504 + 0x4000 * i
/-- SQUASH_FENCE. -/
def kSquashFence (i : Nat) : Nat := 0x301505 + 0x4000 * i
/-- SQUASH_CORE. -/
def kSquashCore (i : Nat) : Nat := 0x301506 + 0x4000 * i
/-- SQUASH_OTHER. -/
def kSquashOther (i : Nat) : Nat := 0x301507 + 0x4000 * i
/-- RUNAHEAD_USED. -/
def kRunaheadUsed (i : Nat) : Nat := 0x301508 + 0x4000 * i
/-- CORE_STATE. -/
def kCoreState (i : Nat) : Nat := 0x400001 + 0x1000 * i
/-- FENCE_CAUSE. -/
def kFenceCause (i : Nat) : Nat := 0x400003 + 0x1000 * i
/-- CORE_MAP. -/
def kCoreMap (i : Nat) : Nat := 0x400002 + 0x1000 * i
/-- CORE_FENCE. -/
def kCoreFence (i : Nat) : Nat := 0x400004 + 0x1000 * i
/-- LS_WEIGHT_MAP. -/
def kLsWeightMap (i : Nat) : Nat := 0x400008 + 0x1000 * i
/-- LS_SPEC_MAP. -/
def kLsSpecMap (i : Nat) : Nat := 0x400009 + 0x1000 * i
/-- LS_STALLS_TPA_ACT. -/
def kLsStallsTpaAct (i : Nat) : Nat := 0x40000A + 0x1000 * i
/-- LS_STALLS_VU. -/
def kLsStallsVu (i : Nat) : Nat := 0x40000B + 0x1000 * i
/-- LS_STALLS_SM. -/
def kLsStallsSm (i : Nat) : Nat := 0x40000C + 0x1000 * i
/-- LS_ECC_CORRECTED. -/
def kLsEccCorrected (i : Nat) : Nat := 0x40000D + 0x1000 * i
/-- LS_ECC_UNCORRECTED. -/
def kLsEccUncorrected (i : Nat) : Nat := 0x40000E + 0x1000 * i
/-- TPA_PASSES. -/
def kTpaPasses (i : Nat) : Nat := 0x400010 + 0x1000 * i
/-- TPA_SAT_EVENTS. -/
def kTpaSatEvents (i : Nat) : Nat := 0x400011 + 0x1000 * i
/-- RESIDUE_ERRORS. -/
def kResidueErrors (i : Nat) : Nat := 0x400012 + 0x1000 * i
/-- RESIDUE_INJECT. -/
def kResidueInject (i : Nat) : Nat := 0x400013 + 0x1000 * i
/-- SR_DRAWS. -/
def kSrDraws (i : Nat) : Nat := 0x400014 + 0x1000 * i
/-- QUANT_ELEMENTS. -/
def kQuantElements (i : Nat) : Nat := 0x400015 + 0x1000 * i
/-- OPFETCH_WAIT_CC. -/
def kOpfetchWaitCc (i : Nat) : Nat := 0x400016 + 0x1000 * i
/-- TILES_RUN. -/
def kTilesRun (i : Nat) : Nat := 0x400017 + 0x1000 * i
/-- ORDERS_RUN. -/
def kOrdersRun (i : Nat) : Nat := 0x400018 + 0x1000 * i
/-- ORDER_WAIT_CC. -/
def kOrderWaitCc (i : Nat) : Nat := 0x400019 + 0x1000 * i
/-- PORT_STATE. -/
def kPortState (i : Nat) : Nat := 0x500001 + 0x4000 * i
/-- SLOT_BANK. -/
def kSlotBank (i : Nat) : Nat := 0x500014 + 0x4000 * i
/-- PORT_CTRL. -/
def kPortCtrl (i : Nat) : Nat := 0x500002 + 0x4000 * i
/-- TX_MUTED. -/
def kTxMuted (i : Nat) : Nat := 0x500003 + 0x4000 * i
/-- LANES_ACTIVE. -/
def kLanesActive (i : Nat) : Nat := 0x500004 + 0x4000 * i
/-- VIOL_RUN. -/
def kViolRun (i : Nat) : Nat := 0x50000C + 0x4000 * i
/-- PORT_DELAY. -/
def kPortDelay (i : Nat) : Nat := 0x500005 + 0x4000 * i
/-- PEER_ID. -/
def kPeerId (i : Nat) : Nat := 0x500007 + 0x4000 * i
/-- DRIFT_PEAK. -/
def kDriftPeak (i : Nat) : Nat := 0x50000A + 0x4000 * i
/-- SLOT_VIOLATIONS. -/
def kSlotViolations (i : Nat) : Nat := 0x50000B + 0x4000 * i
/-- VIOL_MUTES. -/
def kViolMutes (i : Nat) : Nat := 0x50000D + 0x4000 * i
/-- FEC_UNCORRECTED. -/
def kFecUncorrected (i : Nat) : Nat := 0x50000F + 0x4000 * i
/-- CELL_ERRORS. -/
def kCellErrors (i : Nat) : Nat := 0x500010 + 0x4000 * i
/-- RX_UNTIMED. -/
def kRxUntimed (i : Nat) : Nat := 0x500013 + 0x4000 * i
/-- PORT_ASYM. -/
def kPortAsym (i : Nat) : Nat := 0x500006 + 0x4000 * i
/-- PEER_EXPECT. -/
def kPeerExpect (i : Nat) : Nat := 0x500008 + 0x4000 * i
/-- DRIFT_LAST. -/
def kDriftLast (i : Nat) : Nat := 0x500009 + 0x4000 * i
/-- FEC_CORRECTED. -/
def kFecCorrected (i : Nat) : Nat := 0x50000E + 0x4000 * i
/-- CELLS_TX. -/
def kCellsTx (i : Nat) : Nat := 0x500011 + 0x4000 * i
/-- CELLS_RX. -/
def kCellsRx (i : Nat) : Nat := 0x500012 + 0x4000 * i
/-- SLOT_SWITCH_FRAME. -/
def kSlotSwitchFrame (i : Nat) : Nat := 0x500015 + 0x4000 * i
/-- PORT_EVENTS. -/
def kPortEvents (i : Nat) : Nat := 0x500016 + 0x4000 * i
/-- LANE_SER_LIMIT. -/
def kLaneSerLimit (i : Nat) : Nat := 0x500017 + 0x4000 * i
/-- TRAIN_MAX_FR. -/
def kTrainMaxFr (i : Nat) : Nat := 0x500018 + 0x4000 * i
/-- TX_SLOT_A. -/
def kTxSlotA (i j : Nat) : Nat := 0x500100 + 0x4000 * i + j
/-- TX_SLOT_B. -/
def kTxSlotB (i j : Nat) : Nat := 0x500500 + 0x4000 * i + j
/-- RX_SLOT_A. -/
def kRxSlotA (i j : Nat) : Nat := 0x500900 + 0x4000 * i + j
/-- RX_SLOT_B. -/
def kRxSlotB (i j : Nat) : Nat := 0x500D00 + 0x4000 * i + j
/-- ETH_STATE. -/
def kEthState (i : Nat) : Nat := 0x540001 + 0x4000 * i
/-- MAC_ADDR. -/
def kMacAddr (i : Nat) : Nat := 0x540002 + 0x4000 * i
/-- IPV6_ADDR. -/
def kIpv6Addr (i : Nat) : Nat := 0x540004 + 0x4000 * i
/-- IPV4_ADDR. -/
def kIpv4Addr (i : Nat) : Nat := 0x540003 + 0x4000 * i
/-- VLAN. -/
def kVlan (i : Nat) : Nat := 0x540005 + 0x4000 * i
/-- PATH_MTU. -/
def kPathMtu (i : Nat) : Nat := 0x540008 + 0x4000 * i
/-- PFC_PRIO. -/
def kPfcPrio (i : Nat) : Nat := 0x540006 + 0x4000 * i
/-- DSCP. -/
def kDscp (i : Nat) : Nat := 0x540007 + 0x4000 * i
/-- ETH_DISCARDS. -/
def kEthDiscards (i : Nat) : Nat := 0x540009 + 0x4000 * i
/-- CNP_RX. -/
def kCnpRx (i : Nat) : Nat := 0x54000A + 0x4000 * i
/-- CNP_TX. -/
def kCnpTx (i : Nat) : Nat := 0x54000B + 0x4000 * i
/-- PSN_RETRIES. -/
def kPsnRetries (i : Nat) : Nat := 0x54000C + 0x4000 * i
/-- QP_PORT. -/
def kQpPort (i : Nat) : Nat := 0x550001 + 0x100 * i
/-- REMOTE_QPN. -/
def kRemoteQpn (i : Nat) : Nat := 0x550002 + 0x100 * i
/-- START_PSN. -/
def kStartPsn (i : Nat) : Nat := 0x550004 + 0x100 * i
/-- REMOTE_GID. -/
def kRemoteGid (i : Nat) : Nat := 0x550003 + 0x100 * i
/-- QP_STATE. -/
def kQpState (i : Nat) : Nat := 0x550005 + 0x100 * i
/-- ROCE_ACK_VA. -/
def kRoceAckVa : Nat := 0x560001
/-- ROCE_ACK_RKEY. -/
def kRoceAckRkey : Nat := 0x560002
/-- KV_POOL_BASE. -/
def kKvPoolBase (i : Nat) : Nat := 0x600001 + 0x800 * i
/-- KV_GEOM. -/
def kKvGeom (i : Nat) : Nat := 0x600003 + 0x800 * i
/-- KV_META_BASE. -/
def kKvMetaBase (i : Nat) : Nat := 0x600004 + 0x800 * i
/-- SEQ_DIR_BASE. -/
def kSeqDirBase (i : Nat) : Nat := 0x600005 + 0x800 * i
/-- RECOMP_BASE. -/
def kRecompBase (i : Nat) : Nat := 0x600007 + 0x800 * i
/-- KV_POOL_UNITS. -/
def kKvPoolUnits (i : Nat) : Nat := 0x600002 + 0x800 * i
/-- SEQ_DIR_SLOTS. -/
def kSeqDirSlots (i : Nat) : Nat := 0x600006 + 0x800 * i
/-- RECOMP_SLOTS. -/
def kRecompSlots (i : Nat) : Nat := 0x600008 + 0x800 * i
/-- RECOMP_PROD. -/
def kRecompProd (i : Nat) : Nat := 0x600009 + 0x800 * i
/-- RECOMP_CONS. -/
def kRecompCons (i : Nat) : Nat := 0x60000A + 0x800 * i
/-- KV_SCALE_MIN. -/
def kKvScaleMin (i : Nat) : Nat := 0x60000B + 0x800 * i
/-- UNITS_FREE. -/
def kUnitsFree (i : Nat) : Nat := 0x600101 + 0x800 * i
/-- OWNER_MISMATCHES. -/
def kOwnerMismatches (i : Nat) : Nat := 0x600104 + 0x800 * i
/-- PAGE_ABSENTS. -/
def kPageAbsents (i : Nat) : Nat := 0x600105 + 0x800 * i
/-- RECOMP_LOST. -/
def kRecompLost (i : Nat) : Nat := 0x600106 + 0x800 * i
/-- POOL_FAILS. -/
def kPoolFails (i : Nat) : Nat := 0x600107 + 0x800 * i
/-- PAGES_DROPPED. -/
def kPagesDropped (i : Nat) : Nat := 0x600102 + 0x800 * i
/-- KV_SATURATED. -/
def kKvSaturated (i : Nat) : Nat := 0x600103 + 0x800 * i
/-- STREAM_OWNER. -/
def kStreamOwner (i : Nat) : Nat := 0x620001 + 0x100 * i
/-- TRANSPORT. -/
def kTransport (i : Nat) : Nat := 0x620002 + 0x100 * i
/-- STREAM_CTRL. -/
def kStreamCtrl (i : Nat) : Nat := 0x620006 + 0x100 * i
/-- STREAM_DEST. -/
def kStreamDest (i : Nat) : Nat := 0x620003 + 0x100 * i
/-- RING_ADDR. -/
def kRingAddr (i : Nat) : Nat := 0x620004 + 0x100 * i
/-- RING_BYTES. -/
def kRingBytes (i : Nat) : Nat := 0x620005 + 0x100 * i
/-- STREAM_EPOCH. -/
def kStreamEpoch (i : Nat) : Nat := 0x620007 + 0x100 * i
/-- NEXT_SEQNO. -/
def kNextSeqno (i : Nat) : Nat := 0x620008 + 0x100 * i
/-- ACK_SEQNO. -/
def kAckSeqno (i : Nat) : Nat := 0x620009 + 0x100 * i
/-- ACK_BYTES. -/
def kAckBytes (i : Nat) : Nat := 0x62000A + 0x100 * i
/-- STREAM_BYTES. -/
def kStreamBytes (i : Nat) : Nat := 0x62000E + 0x100 * i
/-- STREAM_ACK. -/
def kStreamAck (i : Nat) : Nat := 0x62000B + 0x100 * i
/-- ACK_TIMEOUT_US. -/
def kAckTimeoutUs (i : Nat) : Nat := 0x62000C + 0x100 * i
/-- RETRY_LIMIT. -/
def kRetryLimit (i : Nat) : Nat := 0x62000D + 0x100 * i
/-- STREAM_RETRIES. -/
def kStreamRetries (i : Nat) : Nat := 0x62000F + 0x100 * i
/-- STREAM_NAKS. -/
def kStreamNaks (i : Nat) : Nat := 0x620010 + 0x100 * i
/-- ACK_INVALID. -/
def kAckInvalid (i : Nat) : Nat := 0x620011 + 0x100 * i
/-- REGION_BASE. -/
def kRegionBase (i j : Nat) : Nat := 0x640001 + 0x400 * i + j
/-- REGION_SPAN. -/
def kRegionSpan (i j : Nat) : Nat := 0x640011 + 0x400 * i + j
/-- SHADOW_BASE. -/
def kShadowBase (i : Nat) : Nat := 0x640021 + 0x400 * i
/-- SHADOW_BYTES. -/
def kShadowBytes (i : Nat) : Nat := 0x640022 + 0x400 * i
/-- EVENT_BASE. -/
def kEventBase (i : Nat) : Nat := 0x640023 + 0x400 * i
/-- EVENT_SLOTS. -/
def kEventSlots (i : Nat) : Nat := 0x640024 + 0x400 * i
/-- EVENT_PROD. -/
def kEventProd (i : Nat) : Nat := 0x640025 + 0x400 * i
/-- LAST_CUT_ID. -/
def kLastCutId (i : Nat) : Nat := 0x640027 + 0x400 * i
/-- VALID_CUT_ID. -/
def kValidCutId (i : Nat) : Nat := 0x640028 + 0x400 * i
/-- EVENT_CONS. -/
def kEventCons (i : Nat) : Nat := 0x640026 + 0x400 * i
/-- VALID_CUT_FRAME. -/
def kValidCutFrame (i : Nat) : Nat := 0x640029 + 0x400 * i
/-- CUT_STATE. -/
def kCutState (i : Nat) : Nat := 0x64002A + 0x400 * i
/-- SPOR_WEIGHT. -/
def kSporWeight (i : Nat) : Nat := 0x64002B + 0x400 * i
/-- SHADOW_SLOTS_USED. -/
def kShadowSlotsUsed (i : Nat) : Nat := 0x640101 + 0x400 * i
/-- SHADOW_PEAK. -/
def kShadowPeak (i : Nat) : Nat := 0x640102 + 0x400 * i
/-- CUTS_VALID. -/
def kCutsValid (i : Nat) : Nat := 0x640103 + 0x400 * i
/-- CUTS_ABORTED. -/
def kCutsAborted (i : Nat) : Nat := 0x640104 + 0x400 * i
/-- EXPORT_ABANDONED. -/
def kExportAbandoned (i : Nat) : Nat := 0x640106 + 0x400 * i
/-- EVENTS_LOST. -/
def kEventsLost (i : Nat) : Nat := 0x640107 + 0x400 * i
/-- GRANULES_DRAINED. -/
def kGranulesDrained (i : Nat) : Nat := 0x640105 + 0x400 * i
/-- RESTORE_TIMEOUT_MS. -/
def kRestoreTimeoutMs (i : Nat) : Nat := 0x640108 + 0x400 * i
/-- WIN_OWNER. -/
def kWinOwner (i : Nat) : Nat := 0x650001 + 0x100 * i
/-- WIN_MODE. -/
def kWinMode (i : Nat) : Nat := 0x650002 + 0x100 * i
/-- WIN_STATE. -/
def kWinState (i : Nat) : Nat := 0x650005 + 0x100 * i
/-- WIN_BASE. -/
def kWinBase (i : Nat) : Nat := 0x650003 + 0x100 * i
/-- WIN_BYTES. -/
def kWinBytes (i : Nat) : Nat := 0x650004 + 0x100 * i
/-- WIN_CONSUMED. -/
def kWinConsumed (i : Nat) : Nat := 0x650006 + 0x100 * i
/-- WIN_SENDER. -/
def kWinSender (i : Nat) : Nat := 0x650007 + 0x100 * i
/-- WIN_DISCARDS. -/
def kWinDiscards (i : Nat) : Nat := 0x650009 + 0x100 * i
/-- WIN_NAKS. -/
def kWinNaks (i : Nat) : Nat := 0x65000A + 0x100 * i
/-- WIN_RECORDS. -/
def kWinRecords (i : Nat) : Nat := 0x650008 + 0x100 * i
/-- SPOR_HBM_SHARE. -/
def kSporHbmShare : Nat := 0x660001
/-- INSTALL_TAG. -/
def kInstallTag : Nat := 0x660002
/-- EXPORT_BYTES. -/
def kExportBytes : Nat := 0x660003
/-- RESTORE_BYTES. -/
def kRestoreBytes : Nat := 0x660004
/-- SENSOR. -/
def kSensor (j : Nat) : Nat := 0x700001 + j
/-- WARN_HI. -/
def kWarnHi (j : Nat) : Nat := 0x700101 + j
/-- CRIT_HI. -/
def kCritHi (j : Nat) : Nat := 0x700201 + j
/-- WARN_LO. -/
def kWarnLo (j : Nat) : Nat := 0x700301 + j
/-- CRIT_LO. -/
def kCritLo (j : Nat) : Nat := 0x700401 + j
/-- INPUT_POWER_MW. -/
def kInputPowerMw : Nat := 0x701001
/-- PEAK_POWER_MW. -/
def kPeakPowerMw : Nat := 0x701007
/-- POWER_CAP_W. -/
def kPowerCapW : Nat := 0x701002
/-- CAP_WINDOW_MS. -/
def kCapWindowMs : Nat := 0x701003
/-- CAP_STATE. -/
def kCapState : Nat := 0x701004
/-- POWER_STATE. -/
def kPowerState : Nat := 0x701005
/-- POWER_CTRL. -/
def kPowerCtrl : Nat := 0x701006
/-- LOG_NEXT_SEQ. -/
def kLogNextSeq : Nat := 0x702001
/-- LOG_READ_SEQ. -/
def kLogReadSeq : Nat := 0x702002
/-- LOG_WINDOW. -/
def kLogWindow : Nat := 0x702003
/-- ALERT_STATUS. -/
def kAlertStatus : Nat := 0x702004
/-- ALERT_MASK. -/
def kAlertMask : Nat := 0x702005
/-- NODE_ID. -/
def kNodeId : Nat := 0x703001
/-- STRINGS_STATE. -/
def kStringsState : Nat := 0x703002
/-- SEARCH_WINDOW_MS. -/
def kSearchWindowMs : Nat := 0x703003
/-- HB_PERIOD_MS. -/
def kHbPeriodMs : Nat := 0x703004
/-- NODES_PRESENT. -/
def kNodesPresent : Nat := 0x703005
/-- LAST_EPOCH. -/
def kLastEpoch : Nat := 0x703006
/-- BUS_ERRORS. -/
def kBusErrors : Nat := 0x703007
/-- ACK_ERRORS. -/
def kAckErrors : Nat := 0x703008
/-- BUS_OFFS. -/
def kBusOffs : Nat := 0x703009
/-- MFW_VERSION. -/
def kMfwVersion : Nat := 0x704001
/-- MFW_SVN. -/
def kMfwSvn : Nat := 0x704002
/-- ROLLBACK_FLOOR. -/
def kRollbackFloor : Nat := 0x704003
/-- MFW_SLOT. -/
def kMfwSlot : Nat := 0x704004
/-- UPDATE_STATE. -/
def kUpdateState : Nat := 0x704006
/-- UPDATE_REASON. -/
def kUpdateReason : Nat := 0x704009
/-- UPDATE_CTRL. -/
def kUpdateCtrl : Nat := 0x704005
/-- UPDATE_OFFSET. -/
def kUpdateOffset : Nat := 0x704007
/-- UPDATE_CHUNK. -/
def kUpdateChunk : Nat := 0x704008
/-- UPDATE_TRIAL_S. -/
def kUpdateTrialS : Nat := 0x70400A
/-- THERM_TRIP_STATE. -/
def kThermTripState : Nat := 0x705001
/-- INPUT_FAULTS. -/
def kInputFaults : Nat := 0x705002
/-- STRINGS_LINE. -/
def kStringsLine : Nat := 0x705003
/-- MODULE_ID_RAW. -/
def kModuleIdRaw : Nat := 0x705004
/-- FENCE_STATE. -/
def kFenceState (j : Nat) : Nat := 0x800000 + j
/-- FENCE_CTRL. -/
def kFenceCtrl (j : Nat) : Nat := 0x801000 + j
/-- FENCE_HANDLE. -/
def kFenceHandle (j : Nat) : Nat := 0x802000 + j
/-- FENCE_LINK. -/
def kFenceLink (j : Nat) : Nat := 0x803000 + j
/-- FENCE_SUBS. -/
def kFenceSubs (j : Nat) : Nat := 0x804000 + j
/-- FENCE_REC_DISCARDS. -/
def kFenceRecDiscards : Nat := 0x805001
/-- SIGNAL_REPEATS. -/
def kSignalRepeats : Nat := 0x805002
/-- FENCE_PAGE_STALE. -/
def kFencePageStale : Nat := 0x805003
/-- GROUP_DEF. -/
def kGroupDef (i : Nat) : Nat := 0x820001 + 0x100 * i
/-- GROUP_STATE. -/
def kGroupState (i : Nat) : Nat := 0x820002 + 0x100 * i
/-- COLL_CELLS_PER_FR. -/
def kCollCellsPerFr (i : Nat) : Nat := 0x820003 + 0x100 * i
/-- COLL_SEQ. -/
def kCollSeq (i : Nat) : Nat := 0x820004 + 0x100 * i
/-- COLL_FAILS. -/
def kCollFails (i : Nat) : Nat := 0x820007 + 0x100 * i
/-- COLL_DEFERRED_FR. -/
def kCollDeferredFr (i : Nat) : Nat := 0x820008 + 0x100 * i
/-- COLL_SEQ_ERRORS. -/
def kCollSeqErrors (i : Nat) : Nat := 0x820009 + 0x100 * i
/-- RHZ_LATE. -/
def kRhzLate (i : Nat) : Nat := 0x82000B + 0x100 * i
/-- XSTAGE_LATE. -/
def kXstageLate (i : Nat) : Nat := 0x82000C + 0x100 * i
/-- RHZ_SEQ. -/
def kRhzSeq (i : Nat) : Nat := 0x82000D + 0x100 * i
/-- COLL_QUEUED. -/
def kCollQueued (i : Nat) : Nat := 0x820005 + 0x100 * i
/-- COLL_DONE. -/
def kCollDone (i : Nat) : Nat := 0x820006 + 0x100 * i
/-- RHZ_DONE. -/
def kRhzDone (i : Nat) : Nat := 0x82000A + 0x100 * i

end Sys2Proof.Machine
end

