-- ==== Sys2Proof/Machine/State.lean ====
section
/-!
DEFINITION. Machine/State.lean: everything the spec gives the block, as plain data.

Every entry of the object dictionary that fits one slot lives in `regs`, under the number of its slot (R599, R604: the
dictionary is the single control surface); the bytes of long entries live in `octs`.  The stores, the Accumulator
Stores and HBM are sparse tables.  The rest is the state the chapters give the engines beside their entries.
-/
namespace Sys2Proof.Machine

/-! ### Rings, descriptors and writes on their way -/

/-- How a QUIESCING ring shuts down (Table 12.2). -/
inductive RingStop where
  | running | drain | abort
  deriving DecidableEq, Repr

/-- What a ring holds beside its dictionary entries: the fetched, uncommitted 64-byte entries, each with the first frame
it is available to (R538), and the commit frame of the ring's previous descriptor since it was enabled (Table 13.5). -/
structure RingSt where
  fetched : List (Nat × Nat) := []
  lastCommit : Option Nat := none
  stop : RingStop := .running
  deriving DecidableEq, Repr

/-- How far a committed tiled descriptor has come (R239, R252, R319, Table 6.6): its bounds M, N, K and BATCH, its length
and position vectors, the walk's tables and pages (element × 65536 + entry, first unit, units), the number of tiles taken
from its positions, the open tile's tag and bitmap words, the halves its streamed operands use and the tiles they hold, the
range records it has written, the streams' drawn elements and current words, the generator states at its start (R225), the
tag that run-ahead predicted (R563), and how far a KV_APPEND has come: frames allocated, scales fixed, victims dropped and
elements written and fixed by page (R326, R329, R331). -/
structure Prog where
  bounds : List Nat := []
  lens : List Nat := []
  poss : List Nat := []
  posBad : Bool := false
  rope : Nat × Nat := (0, 0)
  boundsLanded : Bool := false
  walked : Bool := false
  tables : List Nat := []
  pages : List (Nat × Nat × Nat) := []
  tile : Nat := 0
  tileOpen : Bool := false
  fetched : Bool := false
  width : Nat := 0
  exp : Int := 0
  entry : Nat := 0
  halfA : Nat := 1
  halfB : Nat := 1
  heldA : Option (Nat × Nat) := none
  heldB : List (Nat × Nat) := []
  next : Option Nat := none
  entries : List (Nat × Nat) := []
  cover : List (Nat × Nat) := []
  seqBytes : List Byte := []
  recBytes : List Byte := []
  lenBytes : List Byte := []
  posBytes : List Byte := []
  recs : List Nat := []
  seeded : Bool := false
  draws : List (Nat × Nat) := []
  genStart : List (Nat × Nat) := []
  orderBegun : Bool := false
  orderCc : Nat := 0
  mask : List (Nat × Nat) := []
  predicted : Option Nat := none
  allocated : Bool := false
  scaled : Bool := false
  victims : Nat := 0
  written : List (Nat × Nat) := []
  deriving DecidableEq, Repr

/-- A committed descriptor whose completion record is not yet written (R543, R557).  `raw` is its entries as one
little-endian number; `ended` says that its work on its engine has ended with `status`, `refused` that a check made at
commit ended it (R545), `completed` that it has completed and its record is held only by an earlier descriptor of its
ring (R558), `torn` that an unmapped access has left the rest of its output regions undefined (R525), and `overran` that
it has overrun once under DEFER (R106). -/
structure Desc where
  id : Nat
  ring : Nat
  part : Nat
  index : Nat
  raw : Nat
  commitFrame : Nat
  status : Nat := 0
  flags : Nat := 0
  cycles : Nat := 0
  ended : Bool := false
  endFrame : Nat := 0
  completed : Bool := false
  deferred : Bool := false
  refused : Bool := false
  torn : Bool := false
  overran : Bool := false
  prog : Prog := {}
  deriving DecidableEq, Repr

/-- Where a write lands: a store named by logical slot (R113), or HBM at a physical address reached through a device
virtual address of a partition (R523). -/
inductive Place where
  | store (fs : Bool) (frond slot off : Nat)
  | hbm (part va pa : Nat)
  deriving DecidableEq, Repr

/-- A posted write that has been issued and has not landed (R129, R575): one row or one line at most.
DEDUCED (log 61). -/
structure PostedWrite where
  desc : Nat
  part : Nat
  place : Place
  bytes : List Byte
  frame : Nat
  deriving DecidableEq, Repr

/-- Run-ahead work held for an uncommitted descriptor (R563): the ring, the ring index of its first entry, the frame it
is predicted to commit in, the entries read, the walk's STATE and GEN values, and whether a first B tile was fetched.
DEDUCED (log 62). -/
structure RunaheadWork where
  ring : Nat
  cons : Nat
  predicted : Nat
  raw : Nat
  reads : List (List Nat) := []
  walk : List (Nat × Nat × Nat) := []
  fetchedB : Option (Nat × Nat) := none
  tag : Nat := 0
  deriving DecidableEq, Repr

/-- The recorded last writers of FENCE_HANDLE and FENCE_LINK of a FREE fence (R838); PF is partition 0. -/
structure FenceWr where
  handle : Option Nat := none
  link : Option Nat := none
  deriving DecidableEq, Repr

/-- Zeroing of store sectors that holds back the commits of some partitions (R147). -/
structure ZeroJob where
  id : Nat
  parts : List Nat
  deriving DecidableEq, Repr

/-- A forced abort in progress (R502 to R508): what was destroyed, and the rings, contexts and fences that become FREE
with it.  `dropped` says that its uncommitted descriptors and fences have been dealt with (R504, R506). -/
inductive AbortKind where
  | part (destroy : Bool)
  | ctx (c : Nat)
  | ring (r : Nat)
  | fence (f : Nat)
  deriving DecidableEq, Repr

/-- One forced abort (R502). -/
structure AbortJob where
  id : Nat
  kind : AbortKind
  part : Nat
  rings : List Nat
  ctxs : List Nat
  fences : List Nat
  dropped : Bool := false
  deriving DecidableEq, Repr

/-! ### Sporangium -/

/-- A page to be sent: partition, sequence, entry, the generation it was queued with, and the
PAGE_EXPORT job that queued it, if one did (R367, R368). -/
structure PageJob where
  part : Nat
  seq : Nat
  entry : Nat
  gen : Nat
  job : Option Nat
  deriving DecidableEq, Repr

/-- What a record reports when it is acknowledged (R360); a record of a cut carries the cut's serial number, since one of an
abandoned cut reports nothing to a later cut. -/
inductive RecSrc where
  | fence
  | cutAbort
  | page (j : PageJob)
  | region (part serial ridx gran : Nat)
  | manifest (part serial : Nat)
  | xstage (group : Nat)
  | replay (job part addr : Nat)
  deriving DecidableEq, Repr

/-- A record sent and not yet acknowledged: its SEQNO, its bytes, what it reports. -/
structure SentRec where
  seqno : Nat
  bytes : List Byte
  src : RecSrc
  deriving DecidableEq, Repr

/-- A record waiting that is formed already: FENCE, CUT_ABORT and XSTAGE records (R515, R380, R474). -/
structure WaitRec where
  kind : Nat
  src : RecSrc
  part : Nat
  generation : Nat
  object : List Byte
  payload : List Byte
  deriving DecidableEq, Repr

/-- A stream beside its dictionary entries (R347, R356, R361): `sent` are the records not acknowledged, `again` those of them
that a retransmission still has to send, and `paid` the bytes sent and the HBM bytes read in earlier frames for a record that
no one frame's budgets hold (R384, R385). -/
structure StreamSt where
  byteOff : Nat := 0
  sent : List SentRec := []
  again : List SentRec := []
  paid : Nat × Nat := (0, 0)
  waiting : List WaitRec := []
  pages : List PageJob := []
  retries : Nat := 0
  deriving DecidableEq, Repr

/-- The descriptor a job came from and its DONE word (R350, R554). -/
structure JobTag where
  part : Nat
  ring : Nat
  index : Nat
  done : Nat
  deriving DecidableEq, Repr

/-- PAGE_EXPORT, REPLAY and RESTORE jobs in progress (Table 9.2). -/
inductive JobKind where
  | pageExport
  | replay (addrs : List Nat)
  | restore (target mask srcTag srcPart table winMask : Nat) (winDone : List Nat)
  deriving DecidableEq, Repr

/-- A job in progress: `left` counts records not yet acknowledged. -/
structure Job where
  id : Nat
  kind : JobKind
  tag : JobTag
  stream : Nat := 0
  left : Nat := 0
  acked : Nat := 0
  detail : Nat := 0
  deriving DecidableEq, Repr

/-- A partition's cut (R374 to R382): frozen granules as (region, granule), the ones not yet sent and not yet drained,
the shadow slots held by granule with the lines copied into each, and the streams that still owe a manifest; `serial` tells
it from every other cut. -/
structure CutSt where
  serial : Nat := 0
  cutId : Nat := 0
  cutFrame : Nat := 0
  mask : Nat := 0
  full : Bool := false
  tag : JobTag := ⟨0, 0, 0, 0⟩
  frozenFrame : Nat := 0
  freezeTime : Nat := 0
  prevValid : Nat := 0
  frozen : List (Nat × Nat) := []
  unsent : List (Nat × Nat) := []
  undrained : List (Nat × Nat) := []
  slots : List (Nat × Nat × Nat) := []
  lines : List (Nat × Nat) := []
  sentSeq : List (Nat × Nat) := []
  streams : List Nat := []
  manifestTo : List Nat := []
  manifestWait : List Nat := []
  drained : Nat := 0
  acked : Nat := 0
  fail : Option (Nat × Nat) := none
  deriving DecidableEq, Repr

/-- A receive window beside its dictionary entries (R364, R387); `passed` holds the first bytes of the cells that landed
nowhere, by stream byte offset, which is all that is known of such a record (R357, R387). -/
structure WinSt where
  passed : List (Nat × List Byte) := []
  expect : Nat := 0
  epoch : Option Nat := none
  recvBytes : Nat := 0
  ackBytes : Nat := 0
  deriving DecidableEq, Repr

/-! ### Page pools -/

/-- What a frame of a page pool is used for: its table entry is OPEN, SEALED, IN_FLIGHT or EXPORTED, or it was released and
waits for its readers (R332, R342). -/
inductive FrameUse where
  | open_ | sealed | inFlight | exported | released
  deriving DecidableEq, Repr

/-- A frame of a page pool that is not in the pool (R309, R326): its first unit and units, its sequence, entry and table,
its GEN, its use, the PRIORITY sampled when it sealed and the order in which it became EXPORTED (R336), whether a
FINAL append wrote it last (R333), its SEAL_FILL when it sealed, and whether its record is on the wire (R371). -/
structure KvFrame where
  unit : Nat
  units : Nat
  seq : Nat
  entry : Nat
  table : Nat
  gen : Nat
  use : FrameUse := .open_
  prio : Nat := 0
  stamp : Nat := 0
  final : Bool := false
  sealFill : Nat := 0
  wire : Bool := false
  deriving DecidableEq, Repr

/-- A partition's page pool beside its entries (R311, R345): its frames, and the page table entries as Supezin last wrote them,
by device virtual address (R317). -/
structure KvSt where
  frames : List KvFrame := []
  words : Tbl Nat := []
  stamp : Nat := 0
  emptying : Bool := false
  deriving DecidableEq, Repr

/-! ### What leaves the block -/

/-- What the entries of an Ethernet port and of a queue pair put into the headers of a RoCE v2 packet (Tables 10.8, 10.11,
10.12): the port, MAC_ADDR, IPV4_ADDR, IPV6_ADDR, VLAN, the priority, DSCP, REMOTE_QPN and REMOTE_GID.
DESIGN CHOICE (log 93). -/
structure EthHead where
  port : Nat
  mac : Nat
  ipv4 : Nat
  ipv6 : List Byte
  vlan : Nat
  prio : Nat
  dscp : Nat
  remoteQpn : Nat
  remoteGid : List Byte
  deriving DecidableEq, Repr

/-- What the block sends out: on PCIe, on a stream, on a link port, on Ethernet, on Strings and on its pins.
DESIGN CHOICE (log 6). -/
inductive Output where
  | hostWrite (fn addr : Nat) (bytes : List Byte)
  | msix (fn vec : Nat)
  | record (stream : Nat) (bytes : List Byte)
  | winAck (win : Nat) (bytes : List Byte)
  | cell (port : Nat) (bytes : List Byte)
  | marker (port : Nat) (bytes : List Byte)
  | rhizoid (group stage port : Nat) (bytes : List Byte)
  | roce (head : EthHead) (qp psn va rkey : Nat) (bytes : List Byte)
  | roceAck (head : EthHead) (qp psn : Nat) (nak : Bool)
  | cnp (head : EthHead) (qp : Nat)
  | syncPulse
  | ptmRequest
  | strings (canId : Nat) (bytes : List Byte)
  | bar4Read (fn : Nat) (bytes : List Byte) (poisoned : Bool)
  | alertN (asserted : Bool)
  | thermTripN (asserted : Bool)
  | aer (fn code : Nat)
  deriving DecidableEq, Repr

/-! ### PCIe functions -/

/-- A PCIe function beside the dictionary (R770, R773, R774): Bus Master Enable, D3hot, the MSI-X Function Mask, the
vectors whose mask bit is clear, the pending bits, and the memory writes held in order. PRESUMED (log 15). -/
structure FnSt where
  bme : Bool := false
  d3hot : Bool := false
  fnMask : Bool := false
  unmasked : List Nat := []
  pendingVecs : List Nat := []
  held : List (Nat × List Byte) := []
  deriving DecidableEq, Repr

/-! ### Recovery -/

/-- One recovery run: a committed or completed descriptor run again on the spare (R718, R719). -/
structure RecRun where
  desc : Desc
  reissue : Bool
  deriving DecidableEq, Repr

/-- The recovery of one logical slot (R710 to R722): the faulty core, the owning partition (64 or more is none), the frame
(counted as run) of first detection and of the present step, the cause, how far it has come (0 detected, 1 mapped to a spare,
2 self-tested, 3 loading, 4 running), the reload ranges read (LS offset, bytes, source), its recovery runs still to come and
how many it had, and whether its last run has completed. -/
structure Recovery where
  frond : Nat
  slot : Nat
  core : Nat
  part : Nat
  frame : Nat
  mark : Nat
  cause : Nat
  phase : Nat := 0
  ranges : List (Nat × Nat × Nat) := []
  runs : List RecRun := []
  count : Nat := 0
  done : Bool := false
  deriving DecidableEq, Repr

/-! ### Timebase -/

/-- The window of the frame that runs (R45): the issue and compute windows, what is left of the frame after the last cycle
of the compute window where a descriptor overran there, and the maintenance window. -/
inductive FrameWindow where
  | compute | closed | maintenance
  deriving DecidableEq, Repr

/-- The timebase beside its entries: frames that have run in this epoch (R93), the ns of the timebase at which position 0 of
the present frame stood, the position it began at (R91; 0 but in a step frame), its window (R45), the geometry of the frame
before, the geometry captured by an armed switch (R63), a waiting FRAME_SEED (R79), the selected reference (0 none, 1 SYNC_IN,
2 PTM, 3 + n link port n) and whether REF_LOST has been told for it (R81), the qualification of SYNC_IN and PTM (Table 2.3,
R809): accepted pulses in a row, the time of the last one, whether this boundary's and the next one's pulse were accepted,
the edges of this frame; dialogues in a row, ns since the last; the offsets last measured and by how many frames the
numbering source differs from the local count (R88), DRIFT_EST_NS in 10^-9 ns (none is saturated), whether LOCKED was
entered in this epoch, B of the reference held when the device left LOCKED and the time since (R84), the offset being slewed
in, the runs of frames within B and beyond 2 × B (R82), the SYNC_IN polarity and its runs (R805), whether R62 mutes the
transmitters, whether a descriptor was in flight or committed in this frame (R89), and whether this frame's maintenance
window is a debt window (R746). -/
structure Timing where
  ticks : Nat := 0
  base : Int := 0
  startNs : Nat := 0
  window : FrameWindow := .compute
  before : List Nat := [32, 8, 64, 16, 24]
  armed : Option (List Nat) := none
  seed : Option Nat := none
  selected : Nat := 0
  lost : Bool := false
  syncRun : Nat := 0
  syncLast : Option Int := none
  syncGot : Bool := false
  syncNext : Bool := false
  syncMissed : Nat := 0
  edges : Nat := 0
  disq : Bool := false
  calm : Nat := 0
  syncOk : Bool := false
  ptmRun : Nat := 0
  ptmOpen : Bool := false
  ptmNs : Nat := 0
  ptmOk : Bool := false
  syncOff : Option Int := none
  ptmOff : Option Int := none
  numGap : Int := 0
  drift : Option Nat := none
  everLocked : Bool := false
  leftB : Nat := 0
  holdNs : Nat := 0
  returning : Option Int := none
  lockRun : Nat := 0
  overRun : Nat := 0
  inverted : Bool := false
  invRun : Nat := 0
  normRun : Nat := 0
  muted : Bool := true
  busy : Bool := false
  debtWindow : Bool := false
  deriving DecidableEq, Repr

/-! ### Links -/

/-- A Rhizoid cell waiting on a port (R468, R469): its group, the frame, slot and position it goes out at, OFFSET, LEN_M1 and
its payload. -/
structure RhzCell where
  group : Nat
  frame : Nat
  slot : Nat
  pos : Nat
  offset : Nat
  len : Nat
  bytes : List Byte
  deriving DecidableEq, Repr

/-- An RDMA WRITE message whose transport ACK has not come: its first PSN, its packets, address, rkey and bytes. -/
structure QpMsg where
  psn : Nat
  packets : Nat
  va : Nat
  rkey : Nat
  bytes : List Byte
  deriving DecidableEq, Repr

/-- A link port beside its entries: the cells waiting by class (acknowledgements; record cells as window, OFFSET, LAST and
bytes; collective cells as group, OFFSET, LAST and bytes; Rhizoid cells as group, frame, slot, position, OFFSET, LEN_M1 and
bytes), the state before VIOL_MUTED and the run of good markers (R416, R417), the neighbour's mute (R418), a wiring fault
(R411, R438), the faulty lanes and the lane change under way (R421, R422, R424), maintenance windows spent waiting for
confirmation and training, the neighbour's READY flag (R691), what markers give the timebase (Table 2.3, R78): the run of
those that qualify, the sender's hop, whether one came in this frame, the offset last measured (R410) and the number given
to the next local boundary; and the frame (as run) and number of the next slot to start. -/
structure PortSt where
  acks : List (Nat × List Byte) := []
  data : List (Nat × Nat × Bool × List Byte) := []
  coll : List (Nat × Nat × Bool × List Byte) := []
  rhz : List RhzCell := []
  prev : Nat := 2
  good : Nat := 0
  peerMuted : Bool := false
  wiring : Bool := false
  faulty : Nat := 0
  laneReq : Nat := 0
  laneSwitch : Nat := 0
  confirmed : Bool := false
  waited : Nat := 0
  trained : Bool := false
  trainWin : Nat := 0
  restoring : Bool := false
  peerReady : Bool := false
  mkRun : Nat := 0
  mkHop : Nat := 0
  mkMissed : Nat := 0
  mkGot : Bool := false
  mkOk : Bool := false
  mkOff : Option Int := none
  mkNumber : Option Nat := none
  passes : Nat := 0
  slotAt : Nat × Nat := (0, 0)
  deriving DecidableEq, Repr

/-- A RoCE queue pair beside its entries: its next PSN, the messages whose transport ACK has not come (first PSN, packets,
address, rkey and bytes), its retries, and the device times of the last CNP received and sent (Table 10.8). -/
structure QpSt where
  psn : Nat := 0
  sent : List QpMsg := []
  retries : Nat := 0
  cnpGot : Option Nat := none
  cnpSent : Option Nat := none
  deriving DecidableEq, Repr

/-! ### Collectives -/

/-- A collective that its group is serving (R456 to R463, R472, R477): its descriptor and GROUP_DEF, COLL_SEQ, the frame
(counted as run) of its planned completion, its present stage, the frame from which that
stage may exchange, the bytes still to form by port, the cells formed and received by port, the engine's own operand of a
reducing stage and its tag word, the tag words received, the last exchange frame, the frame of the last cell sent, the frame
in which the stage ended, whether a saturation occurred, the slack spent, the steps of the cross-plane stage, and the frame
it may complete in. -/
structure CollRun where
  desc : Nat
  gdef : Nat
  seq : Nat
  planned : Nat
  stage : Nat := 0
  begin_ : Nat
  out : List (Nat × List Byte) := []
  formed : List (Nat × Nat) := []
  got : List (Nat × Nat) := []
  held : List Byte := []
  tag : Nat := 0
  tags : List (Nat × Nat) := []
  lastExch : Option Nat := none
  lastSent : Option Nat := none
  stageEnd : Option Nat := none
  sat : Bool := false
  slack : Nat := 0
  xStep : Nat := 0
  due : Option Nat := none
  deriving DecidableEq, Repr

/-- A RHIZOID under way (R466 to R469): its descriptor and GROUP_DEF, RHZ_SEQ, the frame and position of its first-stage
cell, its own elements, the messages received in each stage by port, when the latest first-stage message ended (1/6000 ns
after the boundary), the value held after the first stage, where its second-stage cell is placed, whether its result is written, and the slack
spent. -/
structure RhzRun where
  desc : Nat
  gdef : Nat
  seq : Nat
  frame : Nat
  pos : Nat
  own : List Byte := []
  got1 : List (Nat × List Byte) := []
  got2 : List (Nat × List Byte) := []
  lastEnd : Int := 0
  held : Option (List Byte) := none
  second : Option (Nat × Nat) := none
  fin : Bool := false
  sat : Bool := false
  slack : Nat := 0
  deriving DecidableEq, Repr

/-- A COLLECTIVE cell as a group sees it: one accepted, with its OFFSET and payload, or one refused or lost, with its sequence
byte where the cell gives it and the status that it brings the collective that needed it (R419). -/
inductive CollCell where
  | good (off : Nat) (l : List Byte)
  | bad (seq : Option Nat) (status : Nat)
  deriving DecidableEq, Repr

/-- A collective group beside its entries: the descriptors waiting in commit order, each with the GROUP_DEF it committed
under and its commit frame as run (R444, R465), the one being served, the cells that came before their stage, by port (R456,
R724), the RHIZOID cells that came before their operation, and the RHIZOID cells refused or lost before it, by port, with the
sequence byte where the cell gives it and the status (R419),
the XSTAGE records landed and not yet applied (R475), the RHIZOID descriptors waiting with GROUP_DEF, frame and position
(R468), those under way, the frame in which the previous collective completed, and the frame and position of the next
RHIZOID. -/
structure CollSt where
  queue : List (Nat × Nat × Nat) := []
  run : Option CollRun := none
  early : List (Nat × CollCell) := []
  rhzEarly : List (Nat × Nat × Int × List Byte) := []
  rhzBad : List (Nat × Option Nat × Nat) := []
  xq : List (Nat × List Byte) := []
  rhzWait : List (Nat × Nat × Nat × Nat) := []
  rhz : List RhzRun := []
  lastDone : Nat := 0
  rhzNext : Nat × Nat := (0, 0)
  deriving DecidableEq, Repr

/-! ### Firmware, persistence and boot -/

/-- One saved copy of the persistent set (R627, R630): its slots and the bytes of its long entries. DEDUCED (log 50). -/
structure PersistCopy where
  regs : List (Nat × Word) := []
  octs : List (Nat × Byte) := []
  deriving DecidableEq, Repr

/-- The boot record of the die beside its entries: bytes of each 256-byte staging chunk that have landed, as a mask
(R689), whether chip reset is asserted and the cause of the boot, the fenced cores, the core map, the retired
granules and the repaired rows that survive every reset (R698, R738), the inactive firmware bank as VERSION and SVN and
whether it may be swapped back to (R743), whether a PROXY_SEND is under way (R692), the failed CMUs, and whether the verified
package is forwarded (R691). -/
structure BootSt where
  staged : Tbl Nat := []
  inReset : Bool := false
  cause : Nat := 0
  fencedCores : List (Nat × Nat) := []
  savedMap : Option (List (Nat × Option Nat)) := none
  retired : List Nat := []
  repairs : List Nat := []
  bankNew : Option (Nat × Nat) := none
  revertOk : Bool := false
  proxySending : Bool := false
  cmuFailed : List Nat := []
  forwarding : Bool := false
  deriving DecidableEq, Repr

/-- The restart of a Frond Controller (R728): its frond, or none once it has ended, the partitions held, and the frame (counted
as run) of detection. -/
structure Hold where
  frond : Option Nat
  parts : List Nat
  start : Nat
  deriving DecidableEq, Repr

/-! ### Marionette -/

/-- What a sensor channel keeps between samples (R640): its LEVEL by its samples, and the runs of samples beyond WARN and CRIT
and of samples inside them by the hysteresis. -/
structure SensorSt where
  level : Nat := 0
  beyondWarn : Nat := 0
  beyondCrit : Nat := 0
  insideWarn : Nat := 0
  insideCrit : Nat := 0
  deriving DecidableEq, Repr

/-- A segmented transfer (R657): its requester and TID, the entry, whether it writes, its bytes, the next segment, and the
last response. DEDUCED (log 49). -/
structure SegSt where
  node : Nat
  tid : Nat
  idx : Nat
  sub : Nat
  writes : Bool
  total : Nat
  bytes : List Byte := []
  next : Nat := 0
  last : List Byte := []
  deriving DecidableEq, Repr

/-- The Marionette beside its entries: a restart in progress and its cause, the firmware slots' images, their written
512-byte chunks and whether their signature verified, the boot record (R667), whether VERIFY is under way, the update
session's owner (R666), the segmented transfers (R657), the pending search reply as time and window (R659), whether the node
has joined and announced and whether it rejoins, the latest epoch heard while joining (R661), HB_COUNT, the heartbeat periods
of other nodes (R663), the last INSTALL_TAG read from the die, the input power of the last samples in mW, newest first, and
how long it has exceeded 315 W (R643, R646), the channels' runs, a thermal trip not yet observed (R796), whether the input
stage is on and why it last went off (R791), and whether the Strings transceiver is connected (R820). -/
structure Mario where
  restarting : Bool := false
  cause : Nat := 0
  flash : Tbl Byte := []
  chunks : List Nat := []
  sigA : Bool := true
  sigB : Bool := false
  active : Nat := 0
  trial : Bool := false
  trialBoots : Nat := 0
  verifying : Bool := false
  owner : Option Requester := none
  segs : List SegSt := []
  reply : Option (Nat × Nat) := none
  joined : Bool := false
  rejoin : Bool := false
  heardEpoch : Option Nat := none
  hbCount : Nat := 0
  periods : Tbl Nat := []
  tag : Nat := 0
  watts : List Nat := []
  overMs : Nat := 0
  sensors : Tbl SensorSt := []
  trip : Option (Nat × Int) := none
  inputOn : Bool := true
  inputCause : Nat := 0
  connected : Bool := true
  deriving DecidableEq, Repr

/-! ### Module signals -/

/-- STOP_N beside its entries (R811, R812): the filtered level, and chatter. DEDUCED (log 91). -/
structure StopSt where
  asserted : Bool := false
  chatter : Bool := false
  deriving DecidableEq, Repr

/-- The state of the block. DESIGN CHOICE (log 7). -/
structure State where
  /-- Dictionary slots, by slot number (R599). -/
  regs : Tbl Word := []
  /-- Bytes of long entries: slot number × 512 + byte (R601). -/
  octs : Tbl Byte := []
  /-- Requester areas (R632): area × 256 + subindex; areas 0-63 are the PCIe functions, 64 Strings, 65 the Marionette. -/
  areas : Tbl Word := []
  /-- Local Stores: physical core × 2^20 + offset (Table 3.1). -/
  ls : Tbl Byte := []
  /-- Frond Stores: frond × 2^22 + offset (Table 3.1). -/
  fs : Tbl Byte := []
  /-- Accumulator Stores: physical core × 32768 + entry (R115). -/
  acc : Tbl (BitVec 32) := []
  /-- HBM by physical address (R479). -/
  hbm : Tbl Byte := []
  /-- The core map: frond × 8 + logical slot to a physical core (R113). -/
  coreMap : Tbl (Option Nat) := []
  /-- Translations held by the translation caches (R526): partition × 2^32 + page to physical page and write permission. -/
  tlb : Tbl Nat := []
  /-- Partitions with a MAP_SYNC waiting for the next frame boundary (R526). -/
  mapSyncs : List Nat := []
  /-- Rings. -/
  rings : Tbl RingSt := []
  /-- Committed descriptors whose completion record is not written, oldest first. -/
  inflight : List Desc := []
  /-- Posted writes that have not landed, oldest first. -/
  posted : List PostedWrite := []
  /-- Number of the next committed descriptor, job or sector zeroing. -/
  nextId : Nat := 0
  /-- Run-ahead work held (R563). -/
  runahead : List RunaheadWork := []
  /-- Recorded writers of FREE fences (R838). -/
  fenceWr : Tbl FenceWr := []
  /-- FENCE_HANDLE of every fence. -/
  fenceHandle : Tbl Word := []
  /-- Forced aborts in progress, oldest first (R502). -/
  aborts : List AbortJob := []
  /-- Sector zeroing in progress (R147). -/
  zeroing : List ZeroJob := []
  /-- Tags of the resident Accumulator Store tiles: physical core × 65536 + first entry (R189). -/
  asTags : Tbl (Option Nat) := []
  /-- Granules waiting for zeroing, in release order (R529). -/
  granuleQueue : List Nat := []
  /-- Streams. -/
  streams : Tbl StreamSt := []
  /-- Page export, replay and restore jobs in progress. -/
  jobs : List Job := []
  /-- Cuts, by partition. -/
  cuts : Tbl CutSt := []
  /-- Clean drain granules: (partition × 16 + region) × 2^32 + granule; an unlisted granule is dirty (R373). -/
  clean : Tbl Bool := []
  /-- Receive windows. -/
  windows : Tbl WinSt := []
  /-- Record bytes and HBM bytes Sporangium used in this frame (R384, R385). -/
  sporBytes : Nat := 0
  /-- HBM bytes Sporangium read in this frame (R385). -/
  sporReads : Nat := 0
  /-- PCIe functions. -/
  fns : Tbl FnSt := []
  /-- The PCIe link is down under LINKDOWN_POLICY CONTINUE (R782). -/
  linkDown : Bool := false
  /-- What has left the block, oldest first (the model's own; DESIGN CHOICE, log 7). -/
  out : List Output := []
  /-- How many free values have been taken (the model's own; DESIGN CHOICE, log 7). -/
  free : Nat := 0
  /-- Commands waiting, first in first out (the model's own; DESIGN CHOICE, log 7). -/
  pending : List Instr := []
  /-- Recoveries in progress (R710). -/
  recov : List Recovery := []
  /-- A store access of the present command met a slot in recovery and waits (R712; the model's own, DESIGN CHOICE, log 7). -/
  slotWait : Bool := false
  /-- HBM rows queued for repair, by physical address (R737). -/
  hbmRows : List Nat := []
  /-- Device times of the corrected errors of each HBM row in the last 24 h (R737). -/
  hbmCe : Tbl (List Nat) := []
  /-- Queued HBM rows that met an uncorrectable error (R738). -/
  hbmBad : List Nat := []
  /-- Device times of the uncorrectable store errors of each core in the last second (Table 18.1). -/
  eccRun : Tbl (List Nat) := []
  /-- Copies of descriptors held for reissue, with the slot they ran on (R716, R719). -/
  copies : List Desc := []
  /-- Page pools, by partition (R306). -/
  kv : Tbl KvSt := []
  /-- Stochastic-rounding generators: physical core × 16 + generator to s0 + s1 × 2^64 (R218). -/
  gens : Tbl Nat := []
  /-- The seed most recently loaded into each generator (R223). -/
  seeds : Tbl (Option Nat) := []
  /-- Values that entries written during this frame have for the rest of it (R208, R574), by slot number. -/
  live : Tbl (Option Nat) := []
  /-- The timebase (chapter 2). -/
  tb : Timing := {}
  /-- Frames that each partition has slipped (R105, R721). -/
  slips : Tbl Nat := []
  /-- Partitions that commit nothing in the next issue window after a deferred overrun (R105). -/
  skips : List Nat := []
  /-- Link ports. -/
  ports : Tbl PortSt := []
  /-- RoCE queue pairs. -/
  qps : Tbl QpSt := []
  /-- The acknowledgement region of the Ethernet block (R432), by byte. -/
  ackMem : Tbl Byte := []
  /-- Collective groups. -/
  colls : Tbl CollSt := []
  /-- Boot and firmware state. -/
  boot : BootSt := {}
  /-- Recovery holds of partitions (R711, R728). -/
  holds : List Hold := []
  /-- Frames of each frond's restarts within the last second (R729), by frond. -/
  fcRestarts : Tbl (List Nat) := []
  /-- Fronds marked failed (R729). -/
  fcFailed : List Nat := []
  /-- Saved copies of the persistent set, newest first (R630). -/
  persist : List PersistCopy := []
  /-- The copy that a SAVE in progress writes (R627). -/
  saving : Option PersistCopy := none
  /-- The Marionette (chapter 16). -/
  mario : Mario := {}
  /-- Event log records, newest first, at most 130,944 (R648). -/
  log : List (List Byte) := []
  /-- STOP_N (chapter 20). -/
  stop : StopSt := {}
  /-- ROCE_ACK_RKEY: a new random value at each READY (R432). -/
  rkey : Word := 0
  /-- Wrong bits stored, by protected unit (R142): 8 bytes of a Local Store at core × 2^17 + offset / 8, of a Frond Store at
  2^28 + frond × 2^19 + offset / 8, an Accumulator Store entry at 2^29 + core × 32768 + entry. -/
  flips : Tbl Nat := []
  /-- The sets of the MSC (R131): the lines of each, most recently used first, as (tag, dirty). -/
  msc : Tbl (List (Nat × Bool)) := []
  /-- Bank-rows whose scrub is owed, oldest first (R746): bank (core × 16 + bank, or 2304 + frond × 32 + bank) and row. -/
  scrubDebt : List (Nat × Nat) := []
  /-- Lines that the present command finds bad when it reads them: whether the error is HBM's, and the physical address
  (R145; the model's own, DESIGN CHOICE, log 7). -/
  errs : List (Bool × Nat) := []
  /-- Whether an accumulator has saturated since its tile's first pass (Table 5.2), by physical core × 32768 + its first AS
  entry. -/
  asSat : Tbl Bool := []
  /-- The partition whose turn it is to send records, and how many it has sent in it (R386). -/
  sporTurn : Nat × Nat := (0, 0)
  /-- The stream after the one that each partition sent a record on last (R386). -/
  sporNext : Tbl Nat := []
  deriving DecidableEq, Repr

/-- Why the machine stops with a fault.  No behaviour of this block is one: an access that the spec refuses changes
DICT_STATUS, and a descriptor that fails ends with a status. -/
inductive Fault where
  /-- Raised by no meaning.  Safe. -/
  | unused
  deriving DecidableEq, Repr

/-- Why a command has no meaning. -/
inductive Refusal where
  /-- Raised by an arm of `exec` whose command is not modelled.  Safe: nothing can be proved of such a command. -/
  | notModelled (mnemonic : String)
  /-- Raised by an access of the Marionette to 0xF000-0xFFFF, whose effect the spec does not document (Table 15.2,
  R603).  Safe.  DESIGN CHOICE (log 43). -/
  | reservedDiagnostics
  deriving DecidableEq, Repr

/-- The entries whose value at a chip reset is not the table's default: the link ports are in BOOTLINK (R704).
DESIGN CHOICE (log 8). -/
def bootRegs : Tbl Word := (countFrom 0 16).map fun n => (kPortState n, 5)

/-- The block right after chip reset is released at power-up (R616, R626, R671): every dictionary entry at its default, the
ports in BOOTLINK, the rails up (POWER_STATE 2), the boot ROM starting, nothing in flight, and no command waiting.  The
MODULE_ID pins are open and read 1 (R786). DESIGN CHOICE (log 8). DESIGN CHOICE (log 9). DESIGN CHOICE (log 10). -/
def State.reset : State :=
  { regs := (kModuleId, 127) :: bootRegs ++ [(kPowerState, 2), (kNodeId, 127), (kModuleIdRaw, 127)] }

end Sys2Proof.Machine
end

