-- ==== Sys2Proof/Machine/Ops.lean ====
section
/-!
DEFINITION. Machine/Ops.lean: the named operations over registers, stores, HBM, fences and messages.
-/
namespace Sys2Proof.Machine

/-! ### Dictionary slots and counters -/

/-- The value of a dictionary slot (R600). -/
def State.reg (s : State) (k : Nat) : Word := Tbl.get (regDefault k) s.regs k

/-- The state with a dictionary slot replaced whole (R611). -/
def State.setReg (s : State) (k : Nat) (w : Word) : State := { s with regs := Tbl.set (regDefault k) s.regs k w }

/-- A slot as a number. -/
def State.nat (s : State) (k : Nat) : Nat := (s.reg k).toNat

/-- The value an entry has for the present frame, where a write acts from the next issue window only (R208, R574).
DEDUCED (log 46). -/
def State.liveNat (s : State) (k : Nat) : Nat := (Tbl.get none s.live k).getD (s.nat k)

/-- The state in which an entry keeps its present value for the rest of the frame. DEDUCED (log 46). -/
def State.keepLive (s : State) (k : Nat) : State := { s with live := Tbl.set none s.live k (some (s.liveNat k)) }

/-- A slot set to a number. -/
def State.setNat (s : State) (k n : Nat) : State := s.setReg k (wd n)

/-- A counter of `w` bits that saturates (R616). -/
def State.bump (s : State) (k : Nat) (n : Nat := 1) (w : Nat := 32) : State := s.setNat k (satAdd w (s.nat k) n)

/-- A counter of `w` bits that wraps (R616). -/
def State.wrapAdd (s : State) (k : Nat) (n : Nat := 1) (w : Nat := 64) : State :=
  s.setNat k ((s.nat k + n) % 2 ^ w)

/-- Bit `b` of a slot. -/
def State.bit (s : State) (k b : Nat) : Bool := bitOf (s.nat k) b

/-- The state with bit `b` of a slot set. -/
def State.setBit (s : State) (k b : Nat) : State := s.setReg k (s.reg k ||| wd (2 ^ b))

/-- What an unlisted byte of a long entry reads as (Table 21.3). DESIGN CHOICE (log 11). -/
def octDefault (i : Nat) : Byte := if i / 512 = kGranuleOwner then 0xFF else 0

/-- Byte `i` of a long entry. -/
def State.oct (s : State) (k i : Nat) : Nat := (Tbl.get (octDefault (k * 512 + i)) s.octs (k * 512 + i)).toNat

/-- The state with byte `i` of a long entry replaced. -/
def State.setOct (s : State) (k i : Nat) (b : Byte) : State :=
  { s with octs := Tbl.set (octDefault (k * 512 + i)) s.octs (k * 512 + i) b }

/-- The first `n` bytes of a long entry. -/
def State.octBytes (s : State) (k n : Nat) : List Byte := (countFrom 0 n).map fun i => BitVec.ofNat 8 (s.oct k i)

/-- The state with a long entry replaced whole (R611). -/
def State.setOctFrom (s : State) (k : Nat) : Nat → List Byte → State
  | _, [] => s
  | i, b :: t => (s.setOct k i b).setOctFrom k (i + 1) t

/-- Byte `i` of an entry of at most 8 bytes. -/
def State.regByte (s : State) (k i : Nat) : Nat := bitsOf (s.nat k) (8 * i + 7) (8 * i)

/-- The state with something sent out. DESIGN CHOICE (log 6). -/
def State.emit (s : State) (o : Output) : State := { s with out := s.out ++ [o] }

/-- The current frame number (R67). -/
def State.frameNo (s : State) : Nat := s.nat kFrameNumber % 2 ^ 48

/-- Takes a free value: the counter advances.
DESIGN CHOICE (log 17). DESIGN CHOICE (log 18). DESIGN CHOICE (log 19). DESIGN CHOICE (log 20). DESIGN CHOICE (log 21). DESIGN CHOICE (log 22). DESIGN CHOICE (log 23). DESIGN CHOICE (log 24). DESIGN CHOICE (log 25). DESIGN CHOICE (log 26). DESIGN CHOICE (log 27). DESIGN CHOICE (log 28). DESIGN CHOICE (log 29). DESIGN CHOICE (log 30). DESIGN CHOICE (log 31). DESIGN CHOICE (log 32). DESIGN CHOICE (log 33). DESIGN CHOICE (log 34). DESIGN CHOICE (log 35). DESIGN CHOICE (log 36). DESIGN CHOICE (log 37). DESIGN CHOICE (log 38). DESIGN CHOICE (log 39). DESIGN CHOICE (log 40). -/
def State.takeFree (s : State) : State := { s with free := s.free + 1 }

/-- Bytes whose contents are undefined: free values. -/
def freeBytes (n k : Nat) : List Byte := (countFrom n k).map Config.freeByte

/-- Whether the die runs: its rails are up and chip reset is released (R69, R678). -/
def State.dieUp (s : State) : Bool := s.nat kPowerState == 2 && !s.boot.inReset

/-- Whether the Marionette may transmit on Strings: its state is ACTIVE or ERROR_PASSIVE, it is not restarting, and its
transceiver is connected (R636, R652, R820). -/
def State.stringsUp (s : State) : Bool :=
  decide (s.nat kStringsState ≤ 1) && decide (s.nat kNodeId ≠ 0) && !s.mario.restarting && s.mario.connected &&
  s.mario.inputOn

/-! ### PCIe messages -/

/-- A PCIe function. -/
def State.fn (s : State) (f : Nat) : FnSt := Tbl.get {} s.fns f

/-- The state with a PCIe function replaced. -/
def State.setFn (s : State) (f : Nat) (v : FnSt) : State := { s with fns := Tbl.set {} s.fns f v }

/-- Whether a function may send memory writes and messages (R774). -/
def FnSt.sends (f : FnSt) : Bool := f.bme && !f.d3hot

/-- A memory write of a function: sent, held in order while the function may not send (R774), or lost while the link is
down (R782). -/
def State.hostWrite (s : State) (fn addr : Nat) (bytes : List Byte) : State :=
  let f := s.fn fn
  if s.linkDown then s.bump kHostWritesLost
  else if f.sends then s.emit (.hostWrite fn addr bytes)
  else s.setFn fn { f with held := f.held ++ [(addr, bytes)] }

/-- An MSI-X message: sent, or its pending bit set (R773, R774). -/
def State.msix (s : State) (fn vec : Nat) : State :=
  let f := s.fn fn
  if s.linkDown then s
  else if f.sends && !f.fnMask && f.unmasked.contains vec then s.emit (.msix fn vec)
  else if f.pendingVecs.contains vec then s
  else s.setFn fn { f with pendingVecs := f.pendingVecs ++ [vec] }

/-- Sets a bit of TIMING_EVENTS, and sends the device vector when it changes from 0 to 1 (R772). -/
def State.timingEvent (s : State) (b : Nat) : State :=
  if s.bit kTimingEvents b then s else (s.setBit kTimingEvents b).msix 0 1

/-- Sets a bit of PORT_EVENTS, and sends the device vector when it changes from 0 to 1 (R772). -/
def State.portEvent (s : State) (port b : Nat) : State :=
  if s.bit (kPortEvents port) b then s else (s.setBit (kPortEvents port) b).msix 0 1

/-- Sets a bit of PART_EVENTS, and sends the event vector when it changes from 0 to 1 (R771). -/
def State.partEvent (s : State) (p b : Nat) : State :=
  if s.bit (kPartEvents p) b then s else (s.setBit (kPartEvents p) b).msix p 0

/-! ### Partitions, contexts and rings -/

/-- PART_STATE of a partition: 0 FREE, 1 ACTIVE, 2 QUIESCING. -/
def State.partState (s : State) (p : Nat) : Nat := s.nat (kPartState p)

/-- PART_RUN of a partition: 0 HALTED, 1 RUNNING, 2 HALTING, 3 ABORTING (Table 12.3). -/
def State.partRun (s : State) (p : Nat) : Nat := s.nat (kPartRun p)

/-- Whether a partition counts as halted: a FREE one does (R485). -/
def State.halted (s : State) (p : Nat) : Bool := s.partState p == 0 || s.partRun p == 0

/-- Whether the owner named by an owner byte counts as halted; 0xFF is no owner (R615). -/
def State.ownerHalted (s : State) (o : Nat) : Bool := if 64 ≤ o then true else s.halted o

/-- CTX_STATE's state field (Table 12.10). -/
def State.ctxLife (s : State) (c : Nat) : Nat := fld (s.reg (kCtxState c)) 1 0

/-- CTX_STATE's partition field. -/
def State.ctxPart (s : State) (c : Nat) : Nat := fld (s.reg (kCtxState c)) 13 8

/-- The partition of a ring: its context's (R531). -/
def State.ringPart (s : State) (r : Nat) : Nat := s.ctxPart (s.nat (kRingCtx r))

/-- RING_STATE: 0 FREE, 1 ACTIVE, 2 QUIESCING. -/
def State.ringLife (s : State) (r : Nat) : Nat := s.nat (kRingState r)

/-- A ring's contents beside its entries. -/
def State.ring (s : State) (r : Nat) : RingSt := Tbl.get {} s.rings r

/-- The state with a ring's contents replaced. -/
def State.setRing (s : State) (r : Nat) (v : RingSt) : State := { s with rings := Tbl.set {} s.rings r v }

/-- The committed, uncompleted descriptors of a ring. -/
def State.ringDescs (s : State) (r : Nat) : List Desc := s.inflight.filter fun d => d.ring == r

/-- The committed, uncompleted descriptors of a partition. -/
def State.partDescs (s : State) (p : Nat) : List Desc := s.inflight.filter fun d => d.part == p

/-- A committed descriptor by its number. -/
def State.desc? (s : State) (id : Nat) : Option Desc := s.inflight.find? fun d => d.id == id

/-- The state with a committed descriptor changed. -/
def State.modDesc (s : State) (id : Nat) (f : Desc → Desc) : State :=
  { s with inflight := replaceFirst (fun d => d.id == id) f s.inflight }

/-- The state in which a descriptor's work has ended with a status; an ended descriptor keeps its status. -/
def State.endDesc (s : State) (id status : Nat) : State :=
  s.modDesc id fun d => if d.ended then d else { d with ended := true, status := status, endFrame := s.frameNo }

/-- The state in which a descriptor carries a completion flag (R832). -/
def State.flagDesc (s : State) (id bit : Nat) : State :=
  s.modDesc id fun d => { d with flags := d.flags ||| 2 ^ bit }

/-- The state in which a descriptor has used `n` more cycles (Table 13.13). -/
def State.spend (s : State) (id n : Nat) : State := s.modDesc id fun d => { d with cycles := d.cycles + n }

/-- The function of a partition: the PF for partition 0, else VF p (R766). DEDUCED (log 52). -/
def partFn (p : Nat) : Nat := p

/-! ### Cores and stores -/

/-- A store address decoded (Table 3.4). -/
structure SAddr where
  fs : Bool
  frond : Nat
  slot : Nat
  off : Nat
  deriving DecidableEq, Repr

/-- The store address in 32 bits; none for a reserved KIND, a nonzero reserved bit or a SLOT above 7 (R114). -/
def decodeSAddr (a : Nat) : Option SAddr :=
  if bitsOf a 29 28 ≠ 0 then none
  else if bitsOf a 31 30 = 0 then
    if bitsOf a 23 20 ≤ 7 then some ⟨false, bitsOf a 27 24, bitsOf a 23 20, bitsOf a 19 0⟩ else none
  else if bitsOf a 31 30 = 1 then
    if bitsOf a 23 22 = 0 then some ⟨true, bitsOf a 27 24, 0, bitsOf a 21 0⟩ else none
  else none

/-- Bytes of the store a store address names (Table 3.1). -/
def SAddr.size (a : SAddr) : Nat := if a.fs then 2 ^ 22 else 2 ^ 20

/-- Bytes of one row of that store (Table 3.1). -/
def SAddr.row (a : SAddr) : Nat := if a.fs then 512 else 256

/-- The physical core a logical slot maps to (R113). -/
def State.coreAt (s : State) (frond slot : Nat) : Option Nat := Tbl.get none s.coreMap (8 * frond + slot)

/-- The owner byte of a logical core slot (R491). -/
def State.slotOwner (s : State) (frond slot : Nat) : Nat := s.regByte (kCoreOwner frond) slot

/-- The owner byte of the sector a store address lies in (R150). -/
def State.sectorOwner (s : State) (a : SAddr) : Nat :=
  if a.fs then s.oct (kFsOwner a.frond) (a.off / 16384) else s.slotOwner a.frond a.slot

/-- Whether the sector a store address lies in is WEIGHT (R141). -/
def State.sectorWeight (s : State) (a : SAddr) : Bool :=
  let sec := a.off / 16384
  if a.fs then s.bit (kFsWeightMap a.frond (sec / 64)) (sec % 64)
  else match s.coreAt a.frond a.slot with
    | some c => s.bit (kLsWeightMap c) sec
    | none => false

/-- The logical slot (frond, slot) a physical core is mapped to. -/
def State.coreSlot (s : State) (c : Nat) : Option (Nat × Nat) :=
  ((countFrom 0 128).find? fun i => Tbl.get none s.coreMap i == some c).map fun i => (i / 8, i % 8)

/-- The owner byte of a physical core: the owner of the slot mapped to it, or none for a spare (R615). -/
def State.coreOwner (s : State) (c : Nat) : Nat :=
  match s.coreSlot c with
  | some (f, sl) => s.slotOwner f sl
  | none => 0xFF

/-- The sectors a range of a store touches, by the offset of one byte of each. -/
def sectorsOf (off len : Nat) : List Nat :=
  if len = 0 then [] else (countFrom (off / 16384) ((off + len - 1) / 16384 + 1 - off / 16384)).map (· * 16384)

/-- Whether a range of a store may be named by a partition's descriptor (R114): inside the store, and every sector
owned by the partition. -/
def State.rangeOk (s : State) (p : Nat) (a : SAddr) (len : Nat) : Bool :=
  decide (a.off + len ≤ a.size) && (sectorsOf a.off len).all fun o => s.sectorOwner { a with off := o } == p

/-- Whether a write of a range covers whole protected words, 16 bytes in WEIGHT sectors and 8 in others (R143): its first
byte begins a word of the sector it lies in, and its last byte ends one. -/
def State.writeAligned (s : State) (a : SAddr) (len : Nat) : Bool :=
  let word := fun (o : Nat) => if s.sectorWeight { a with off := o } then 16 else 8
  len == 0 || (a.off % word a.off == 0 && (a.off + len) % word (a.off + len - 1) == 0)

/-- Bytes `a`, `a + 1`, … of a byte table. -/
def getBytes (t : Tbl Byte) (a n : Nat) : List Byte := (countFrom a n).map fun i => Tbl.get 0 t i

/-- A byte table with bytes written from `a` on. -/
def putBytes (t : Tbl Byte) : Nat → List Byte → Tbl Byte
  | _, [] => t
  | a, b :: l => putBytes (Tbl.set 0 t a b) (a + 1) l

/-- A byte table with `n` bytes from `a` on cleared to what an unlisted byte reads as. -/
def clearBytes (t : Tbl Byte) (a n : Nat) : Tbl Byte := Tbl.drop (fun k => decide (a ≤ k) && decide (k < a + n)) t

/-- A range of bytes cut at multiples of `row`: (offset, bytes) pieces (R117, R578). -/
def cutRows (row : Nat) : Nat → Nat → List Byte → List (Nat × List Byte)
  | 0, _, _ => []
  | fuel + 1, a, l =>
    match l with
    | [] => []
    | _ => let n := row - a % row
      (a, l.take n) :: cutRows row fuel (a + n) (l.drop n)

/-! ### Error protection (R142, Table 3.9) -/

/-- The protected 8-byte unit at an offset of a Local Store. -/
def lsUnit (c off : Nat) : Nat := c * 2 ^ 17 + off / 8

/-- The protected 8-byte unit at an offset of a Frond Store. -/
def fsUnit (f off : Nat) : Nat := 2 ^ 28 + f * 2 ^ 19 + off / 8

/-- The protected unit of an Accumulator Store entry. -/
def accUnit (c e : Nat) : Nat := 2 ^ 29 + c * 32768 + e

/-- The units that `n` bytes at an offset touch. -/
def unitsOf (off n : Nat) : Nat := (off % 8 + n + 7) / 8

/-- Written words have valid check bits (R142). -/
def State.mend (s : State) (u n : Nat) : State :=
  { s with flips := Tbl.drop (fun k => decide (u ≤ k) && decide (k < u + n)) s.flips }

/-- Bits of a stored word go wrong. -/
def State.upset (s : State) (w : StoreWord) (n : Nat) : State :=
  let u := match w with
    | .ls c o => lsUnit c o
    | .fs f o => fsUnit f o
    | .acc c e => accUnit c e
  { s with flips := Tbl.set 0 s.flips u (Tbl.get 0 s.flips u + n) }

/-- The wrong bits of each protected word of `g` units that the units from `u` on lie in: a word of 2 units is a WEIGHT word and
corrects 2 bits, a word of 1 unit corrects 1. -/
def wrongBits (t : Tbl Nat) (g u n : Nat) : List Nat :=
  (countFrom (u / g) ((u + n - 1) / g + 1 - u / g)).map fun w => ((countFrom (g * w) g).map fun k => Tbl.get 0 t k).sum

/-- A saturating counter rises by what was met. -/
def State.add (s : State) (k n : Nat) : State := if n = 0 then s else s.bump k n

/-- Writes a physical core's Local Store. -/
def State.lsPut (s : State) (c off : Nat) (l : List Byte) : State :=
  { s with ls := putBytes s.ls (c * 2 ^ 20 + off) l }.mend (lsUnit c off) (unitsOf off l.length)

/-- Clears bytes of a physical core's Local Store. -/
def State.lsZero (s : State) (c off n : Nat) : State :=
  { s with ls := clearBytes s.ls (c * 2 ^ 20 + off) n }.mend (lsUnit c off) (unitsOf off n)

/-- Writes a Frond Store. -/
def State.fsPut (s : State) (f off : Nat) (l : List Byte) : State :=
  { s with fs := putBytes s.fs (f * 2 ^ 22 + off) l }.mend (fsUnit f off) (unitsOf off l.length)

/-- Clears bytes of a Frond Store. -/
def State.fsZero (s : State) (f off n : Nat) : State :=
  { s with fs := clearBytes s.fs (f * 2 ^ 22 + off) n }.mend (fsUnit f off) (unitsOf off n)

/-- Writes one entry of a core's Accumulator Store (R115). -/
def State.accPut (s : State) (c e : Nat) (v : BitVec 32) : State :=
  { s with acc := Tbl.set 0 s.acc (c * 32768 + e) v }.mend (accUnit c e) 1

/-- Reads a store by logical slot (R113); a slot mapped to no core reads zeros. DESIGN CHOICE (log 12). -/
def State.storeRead (s : State) (a : SAddr) (n : Nat) : List Byte :=
  if a.fs then getBytes s.fs (a.frond * 2 ^ 22 + a.off) n
  else match s.coreAt a.frond a.slot with
    | some c => getBytes s.ls (c * 2 ^ 20 + a.off) n
    | none => List.replicate n 0

/-- Writes a store by logical slot (R113); a slot mapped to no core takes nothing. -/
def State.storeWrite (s : State) (a : SAddr) (l : List Byte) : State :=
  if a.fs then s.fsPut a.frond a.off l
  else match s.coreAt a.frond a.slot with
    | some c => s.lsPut c a.off l
    | none => s

/-- A foreground write to a store: one that names a SPEC sector of a Local Store leaves that whole sector undefined (R571,
R148). DESIGN CHOICE (log 19). -/
def State.foreWrite (s : State) (a : SAddr) (l : List Byte) : State :=
  match (if a.fs then none else s.coreAt a.frond a.slot) with
  | some c =>
    if s.bit (kLsSpecMap c) (a.off / 16384)
    then { s with free := s.free + 16384 }.lsPut c (a.off / 16384 * 16384) (freeBytes s.free 16384)
    else s.storeWrite a l
  | none => s.storeWrite a l

/-- Whether the partition filter passes an access to a row of a store (R150, R726). -/
def State.filterOk (s : State) (p : Nat) (a : SAddr) : Bool :=
  s.sectorOwner a == p && (a.fs || (s.coreAt a.frond a.slot).isSome)

/-- Rows written for a partition past the filter: a blocked row is discarded and counted (R150, R151). -/
def State.writeRows (s : State) (p : Nat) (a : SAddr) (l : List Byte) : State :=
  (cutRows a.row (l.length + 1) a.off l).foldl (fun (s : State) x =>
    if s.filterOk p { a with off := x.1 } then s.storeWrite { a with off := x.1 } x.2 else s.bump kFilterBlocks) s

/-- Zeroes one sector of a store (R147). -/
def State.zeroSector (s : State) (a : SAddr) : State :=
  let o := a.off / 16384 * 16384
  if a.fs then s.fsZero a.frond o 16384
  else match s.coreAt a.frond a.slot with
    | some c => s.lsZero c o 16384
    | none => s

/-- Starts a zeroing that holds back the commits of the named partitions (R147). -/
def State.startZeroing (s : State) (parts : List Nat) : State :=
  { s with zeroing := s.zeroing ++ [⟨s.nextId, parts⟩], nextId := s.nextId + 1 }

/-! ### HBM and translation -/

/-- Bytes of HBM at a physical address. DESIGN CHOICE (log 12). -/
def State.hbmRead (s : State) (pa n : Nat) : List Byte := getBytes s.hbm pa n

/-- The owner byte of a granule (R528). -/
def State.granuleOwner (s : State) (g : Nat) : Nat := s.oct kGranuleOwner g

/-- Whether a physical address lies in a granule the partition owns (R524). -/
def State.ownsPa (s : State) (p pa : Nat) : Bool := decide (pa / 2 ^ 28 < 192) && s.granuleOwner (pa / 2 ^ 28) == p

/-- The walk from one table of the tree on (R523, R524): `lo` is the lowest address bit a level indexes and `nb` how many
bits; none is an unmapped address. -/
def State.walkFrom (s : State) (p va : Nat) (wr : Bool) : List (Nat × Nat) → Nat → Option Nat
  | [], _ => none
  | (lo, nb) :: rest, tb =>
    if s.ownsPa p tb then
      let e := leNat (s.hbmRead (tb + 8 * bitsOf va (lo + nb - 1) lo) 8)
      let adr := bitsOf e 47 8 * 256
      if e % 2 = 0 ∨ bitsOf e 7 3 ≠ 0 ∨ bitsOf e 63 48 ≠ 0 then none
      else if bitOf e 1 then
        if 21 < lo ∨ adr % 2 ^ lo ≠ 0 ∨ (wr && !bitOf e 2) = true then none
        else if s.ownsPa p adr then some (adr + va % 2 ^ lo) else none
      else if bitOf e 2 then none
      else if adr % (if lo = 21 then 256 else 4096) ≠ 0 then none
      else s.walkFrom p va wr rest adr
    else none

/-- The levels of Table 12.7. -/
def walkLevels : List (Nat × Nat) := [(39, 9), (30, 9), (21, 9), (16, 5)]

/-- The translation that the partition's tree gives (R523). -/
def State.walk (s : State) (p va : Nat) (wr : Bool) : Option Nat :=
  if va < 2 ^ 48 then s.walkFrom p va wr walkLevels (s.nat (kMapBase p)) else none

/-- The number of a cached translation. -/
def tlbKey (p va : Nat) : Nat := p * 2 ^ 32 + va / 65536

/-! ### The Memory-Side Cache (R130 to R133) -/

/-- An access to a line of HBM passes through the MSC: a hit makes the line the most recently used of its set; a miss counts,
and allocates the line unless the requester allocates none.  In a full set a line that is not the most recently used one goes;
pseudo-LRU leaves open which (R131). DESIGN CHOICE (log 99). -/
def State.mscTouch (s : State) (pa : Nat) (wr : Bool) (alloc : Bool := true) : State :=
  let set := pa / 256 % 8192
  let tag := pa / 2 ^ 21
  let l := Tbl.get [] s.msc set
  match l.find? fun x => x.1 == tag with
  | some x =>
    { s.wrapAdd kMscHits with msc := Tbl.set [] s.msc set ((tag, x.2 || wr) :: l.filter fun y => y.1 != tag) }
  | none =>
    let s := s.wrapAdd kMscMisses
    if alloc = false then s
    else if l.length < 16 then { s with msc := Tbl.set [] s.msc set ((tag, wr) :: l) }
    else
      { s with msc := Tbl.set [] s.msc set ((tag, wr) :: l.eraseIdx (1 + Config.mscVictim s.free % (l.length - 1))),
               free := s.free + 1 }

/-- The lines of a range pass through the MSC, as far as they are mapped. -/
def State.mscReads (s : State) (p va n : Nat) (alloc : Bool := true) : State :=
  (cutRows 256 (n + 1) va (List.replicate n (0 : Byte))).foldl (fun (s : State) x =>
    match s.walk p x.1 false with
    | some pa => s.mscTouch pa false alloc
    | none => s) s

/-- The table entries that a walk reads, by physical address (R130, R523). -/
def State.walkReads (s : State) (p va : Nat) : List (Nat × Nat) → Nat → List Nat
  | [], _ => []
  | (lo, nb) :: rest, tb =>
    if s.ownsPa p tb then
      let pa := tb + 8 * bitsOf va (lo + nb - 1) lo
      let e := leNat (s.hbmRead pa 8)
      pa :: (if e % 2 = 0 ∨ bitOf e 1 = true ∨ bitOf e 2 = true then [] else s.walkReads p va rest (bitsOf e 47 8 * 256))
    else []

/-- The translation an engine uses: the tree's, or, where the caches hold another, either of the two (R526).  The
granule must be owned in each case.  A successful walk is cached. -/
def State.translate (s : State) (p va : Nat) (wr : Bool) : Option Nat × State :=
  if 2 ^ 48 ≤ va then (none, s) else
  let w := s.walk p va wr
  let c := Tbl.get 0 s.tlb (tlbKey p va)
  let page := c / 2 * 65536
  let held := if c ≠ 0 ∧ (wr = false ∨ c % 2 = 1) ∧ s.ownsPa p (page - 65536) = true
    then some (page - 65536 + va % 65536) else none
  match held with
  | some h =>
    if some h = w then (w, s)
    else (if Config.tlbHolds s.free then some h else w, s.takeFree)
  | none =>
    let t := (s.walkReads p va walkLevels (s.nat (kMapBase p))).foldl (fun (t : State) pa => t.mscTouch pa false) s
    match w with
    | some pa =>
      let wok := (s.walk p va true).isSome
      (w, { t with tlb := Tbl.set 0 s.tlb (tlbKey p va) ((pa / 65536 + 1) * 2 + b2n wok) })
    | none => (none, t)

/-- Whether every 64 KiB page of a range is mapped (R573). -/
def State.mapped (s : State) (p va len : Nat) (wr : Bool) : Bool :=
  if len = 0 then true
  else (countFrom (va / 65536) ((va + len - 1) / 65536 + 1 - va / 65536)).all fun pg =>
    (s.walk p (pg * 65536) wr).isSome

/-! ### Drain granules and copy-before-write -/

/-- The cut of a partition. -/
def State.cut (s : State) (p : Nat) : CutSt := Tbl.get {} s.cuts p

/-- The state with the cut of a partition replaced. -/
def State.setCut (s : State) (p : Nat) (c : CutSt) : State := { s with cuts := Tbl.set {} s.cuts p c }

/-- The address and the granule count of a region (R372). -/
def State.region (s : State) (p i : Nat) : Nat × Nat :=
  (fld (s.reg (kRegionBase p i)) 47 0, fld (s.reg (kRegionSpan p i)) 31 0)

/-- The region and drain granule a device virtual address lies in (R372). -/
def State.granuleOf (s : State) (p va : Nat) : Option (Nat × Nat) :=
  ((countFrom 0 16).find? fun i =>
    let (b, n) := s.region p i
    decide (b ≤ va) && decide (va < b + n * 65536)).map fun i => (i, (va - (s.region p i).1) / 65536)

/-- The number of a drain granule's dirty bit. -/
def cleanKey (p i g : Nat) : Nat := (p * 16 + i) * 2 ^ 32 + g

/-- The smallest shadow slot number not held. -/
def freeSlot (used : List Nat) : Nat → Nat → Option Nat
  | _, 0 => none
  | i, n + 1 => if used.contains i then freeSlot used (i + 1) n else some i

/-- Gives an undrained granule a shadow slot, where the pool has one (R378). -/
def State.takeSlot (s : State) (p i g : Nat) : Option (Nat × State) :=
  let c := s.cut p
  match c.slots.find? fun x => x.1 == i && x.2.1 == g with
  | some (_, _, k) => some (k, s)
  | none =>
    let n := if s.nat (kShadowBase p) = 0 then 0 else s.nat (kShadowBytes p) / 65536
    match freeSlot (c.slots.map (·.2.2)) 0 (min n (c.slots.length + 1)) with
    | none => none
    | some k =>
      let s := s.setCut p { c with slots := c.slots ++ [(i, g, k)] }
      let used := c.slots.length + 1
      let s := s.setNat (kShadowSlotsUsed p) used
      some (k, if s.nat (kShadowPeak p) < used then s.setNat (kShadowPeak p) used else s)

/-- Copies the old line into the granule's shadow slot before its first write after the freeze (R378); a partition whose
pool has no slot has its cut marked for abandonment (R380). -/
def State.copyBefore (s : State) (p va pa : Nat) : State :=
  let c := s.cut p
  match s.granuleOf p va with
  | none => s
  | some (i, g) =>
    if c.undrained.contains (i, g) && c.fail.isNone then
      match s.takeSlot p i g with
      | none => s.setCut p { c with fail := some (0x0C, 1) }
      | some (k, s') =>
        let line := va % 65536 / 256
        let c' := s'.cut p
        if c'.lines.contains (k, line) then s'
        else
          let sva := s.nat (kShadowBase p) + k * 65536 + line * 256
          match s'.walk p sva true with
          | none => s.setCut p { c with fail := some (0x0C, 1) }
          | some spa =>
            { s' with hbm := putBytes s'.hbm spa (s'.hbmRead (pa / 256 * 256) 256) }.setCut p
              { c' with lines := c'.lines ++ [(k, line)] }
    else s

/-- Whether a RESTORE of a partition that names a region is in progress (R389). -/
def State.underRestore (s : State) (p i : Nat) : Bool :=
  s.jobs.any fun j => match j.kind with
    | .restore _ mask .. => j.tag.part == p && bitOf mask i
    | _ => false

/-- A write of at most one 256-byte line reaches the MSC (R575, R578): copy-before-write first, then the bytes, then the
dirty bit.  The writes of an inbound restore set none and allocate no line (R131, R373); any other write to a region under
RESTORE leaves the granule undefined (R393). -/
def State.hbmPut (s : State) (p va pa : Nat) (l : List Byte) (restore : Bool := false) : State :=
  let s := (s.copyBefore p va pa).mscTouch pa true !restore
  let s := { s with hbm := putBytes s.hbm pa l }
  match s.granuleOf p va with
  | some (i, g) =>
    if restore then s
    else
      let s := { s with clean := Tbl.set false s.clean (cleanKey p i g) false }
      if s.underRestore p i
      then { s with hbm := putBytes s.hbm (pa / 65536 * 65536) (freeBytes s.free 65536), free := s.free + 65536 } else s
  | none => s

/-- Writes bytes at a device virtual address line by line with the tree as it stands; a line at an unmapped address is
not written.  Answers whether every line was. DEDUCED (log 78). -/
def State.vaPut (s : State) (p va : Nat) (l : List Byte) (restore : Bool := false) : Bool × State :=
  (cutRows 256 (l.length + 1) va l).foldl (fun (ok, s) (a, b) =>
    match s.walk p a true with
    | some pa => (ok, s.hbmPut p a pa b restore)
    | none => (false, s)) (true, s)

/-- Reads bytes at a device virtual address with the tree as it stands; none where a line is unmapped. -/
def State.vaRead (s : State) (p va n : Nat) : Option (List Byte) :=
  ((cutRows 256 (n + 1) va (List.replicate n (0 : Byte))).mapM fun (x : Nat × List Byte) =>
    (s.walk p x.1 false).map fun pa => s.hbmRead pa x.2.length).map List.flatten

/-! ### Fences -/

/-- FENCE_STATE (Table 12.13). -/
def State.fence (s : State) (f : Nat) : Word := s.reg (kFenceState f)

/-- LIFE of a fence: 0 FREE, 1 ACTIVE, 2 QUIESCING. -/
def State.fenceLife (s : State) (f : Nat) : Nat := fld (s.fence f) 1 0

/-- VALUE of a fence: 0 UNSIGNALLED, 1 SIGNALLED, 2 BROKEN. -/
def State.fenceValue (s : State) (f : Nat) : Nat := fld (s.fence f) 3 2

/-- GEN of a fence (R509). -/
def State.fenceGen (s : State) (f : Nat) : Nat := fld (s.fence f) 63 32

/-- The partition of a fence: its context's. -/
def State.fencePart (s : State) (f : Nat) : Nat := s.ctxPart (fld (s.fence f) 25 16)

/-- FENCE_HANDLE of a fence (Table 12.5). -/
def State.handle (s : State) (f : Nat) : Word := Tbl.get 0 s.fenceHandle f

/-- A stream beside its entries. -/
def State.stream (s : State) (st : Nat) : StreamSt := Tbl.get {} s.streams st

/-- The state with a stream replaced. -/
def State.setStream (s : State) (st : Nat) (v : StreamSt) : State := { s with streams := Tbl.set {} s.streams st v }

/-- Whether a stream is UP (R347). -/
def State.streamUp (s : State) (st : Nat) : Bool := s.nat (kStreamCtrl st) == 1

/-- A formed record waits on a stream; FENCE records go before every other waiting record (R515). -/
def State.queueRec (s : State) (st : Nat) (w : WaitRec) : State :=
  let x := s.stream st
  let fences := x.waiting.filter fun r => r.kind == 6
  let others := x.waiting.filter fun r => r.kind != 6
  s.setStream st { x with waiting := if w.kind = 6 then fences ++ [w] ++ others else fences ++ others ++ [w] }

/-- A FENCE record for a fence (R516, Table 12.6). -/
def fenceWait (p handle gen op : Nat) : WaitRec :=
  { kind := 6, src := .fence, part := p, generation := gen,
    object := leBytes 8 handle ++ leBytes 4 gen ++ leBytes 1 op ++ List.replicate 19 0, payload := [] }

/-- OP of a FENCE record that carries a value (Table 12.6). -/
def fenceOp (value : Nat) : Nat := if value = 0 then 2 else if value = 1 then 1 else 3

/-- Sends the present state of an exportable fence on one of its subscriber streams, where that stream is UP (R515). -/
def State.fenceTell (s : State) (f st : Nat) : State :=
  if st < 255 ∧ s.streamUp st = true ∧ s.nat (kStreamOwner st) = s.fencePart f
  then s.queueRec st (fenceWait (s.fencePart f) (s.handle f).toNat (s.fenceGen f) (fenceOp (s.fenceValue f)))
  else s

/-- Sends the new state of an exportable fence on every subscriber stream (R515). -/
def State.fenceNotify (s : State) (f : Nat) : State :=
  if bitOf (s.fence f).toNat 4 && decide (f < 256)
  then (countFrom 0 4).foldl (fun s i => s.fenceTell f (s.regByte (kFenceSubs f) i)) s
  else s

/-- The state with a fence's value changed and its subscribers told. -/
def State.setFenceValue (s : State) (f v : Nat) : State :=
  (s.setReg (kFenceState f) (putFld (s.fence f) 3 2 v)).fenceNotify f

/-- Breaks a fence that is not BROKEN (R506). -/
def State.breakFence (s : State) (f : Nat) : State :=
  if s.fenceLife f ≠ 0 ∧ s.fenceValue f ≠ 2 then s.setFenceValue f 2 else s

/-- A signal reaches a fence (R510, R519): an imported fence sends a signal request, an UNSIGNALLED one becomes
SIGNALLED, and any other signal is a repeat. -/
def State.signalFence (s : State) (f : Nat) : State :=
  if s.fenceLife f ≠ 1 then s.bump kSignalRepeats
  else if bitOf (s.fence f).toNat 5 then
    let st := s.nat (kFenceLink f)
    if st < 255 ∧ s.streamUp st = true
    then s.queueRec st (fenceWait (s.fencePart f) (s.handle f).toNat (s.fenceGen f) 4) else s
  else if s.fenceValue f = 0 then s.setFenceValue f 1
  else s.bump kSignalRepeats

/-! ### Job events and abandoned cuts -/

/-- Ends an accepted job: the job event, unless the ring is full, then the DONE fence (R350, Table 9.4). -/
def State.jobEvent (s : State) (kind status cause : Nat) (tag : JobTag) (cutId cutFrame records detail : Nat) : State :=
  let p := tag.part
  let prod := s.nat (kEventProd p)
  let slots := s.nat (kEventSlots p)
  let s :=
    if (prod + 2 ^ 32 - s.nat (kEventCons p)) % 2 ^ 32 = slots then s.bump (kEventsLost p)
    else
      let ev := leBytes 1 kind ++ leBytes 1 status ++ leBytes 1 cause ++ leBytes 1 0 ++ leBytes 2 tag.ring ++
        leBytes 2 tag.index ++ leBytes 4 cutId ++ leBytes 4 s.frameNo ++ leBytes 8 cutFrame ++
        leBytes 4 records ++ leBytes 4 detail
      let s := (s.vaPut p (s.nat (kEventBase p) + 32 * (prod % slots)) ev).2
      (s.wrapAdd (kEventProd p) 1 32).msix (partFn p) 0
  if bitOf tag.done 15 then s.signalFence (bitsOf tag.done 11 0) else s

/-- The stream of a region (Table 9.12). -/
def State.regionStream (s : State) (p i : Nat) : Nat := fld (s.reg (kRegionBase p i)) 55 48

/-- The streams that carried records of a partition's cut: those of the granules sent, and those that its manifest went on. -/
def State.cutCarried (s : State) (p : Nat) : List Nat :=
  let c := s.cut p
  let told := if s.nat (kCutState p) = 3 then c.streams.filter fun st => !c.manifestTo.contains st else []
  ((c.sentSeq.map fun x => s.regionStream p x.1) ++ told).eraseDups

/-- Abandons a partition's cut (R380): dirty bits set again, slots freed, CUT_ABORT records queued, the event written and
CUT_STATE back to IDLE. -/
def State.abandonCut (s : State) (p status cause : Nat) : State :=
  if s.nat (kCutState p) = 0 then s
  else
    let c := s.cut p
    let carried := s.cutCarried p
    let s := c.frozen.foldl (fun s (i, g) =>
      { s with clean := Tbl.set false s.clean (cleanKey p i g) false }) s
    let s := carried.foldl (fun s st =>
      if s.streamUp st then
        s.queueRec st { kind := 4, src := .cutAbort, part := p, generation := c.cutId,
                        object := leBytes 4 c.cutId ++ leBytes 1 cause ++ List.replicate 27 0, payload := [] }
      else s) s
    let s := (s.bump (kCutsAborted p)).setNat (kShadowSlotsUsed p) 0
    let s := (s.setNat (kCutState p) 0).setCut p {}
    s.jobEvent 1 status cause c.tag c.cutId c.frozenFrame c.acked c.drained

/-- Abandons the cuts that a write has marked (R380). -/
def State.settleCuts (s : State) : State :=
  (s.cuts.filterMap fun (p, c) => c.fail.map fun f => (p, f)).foldl (fun s (p, st, ca) => s.abandonCut p st ca) s

/-- Writes bytes at a device virtual address; a cut whose pool had no slot for one of the lines is abandoned (R380). -/
def State.vaWrite (s : State) (p va : Nat) (l : List Byte) (restore : Bool := false) : Bool × State :=
  let (ok, s) := s.vaPut p va l restore
  (ok, s.settleCuts)

/-- A partition's PREC_LAYER entries take the value of PREC_DEFAULT (R228). -/
def State.layersDefault (s : State) (p : Nat) : State :=
  (countFrom 0 256).foldl (fun s j => s.setReg (kPrecLayer p j) (s.reg kPrecDefault)) s

/-! ### Descriptor fields -/

/-- A field of `n` bytes of a descriptor (R540). -/
def Desc.at (d : Desc) (off n : Nat) : Nat := atOff d.raw off n

/-- OPCODE (Table 13.2). -/
def Desc.opcode (d : Desc) : Nat := d.at 0 1

/-- Whether flag `b` of the header is set (Table 13.3). -/
def Desc.flag (d : Desc) (b : Nat) : Bool := bitOf (d.at 1 1) b

/-- The frond and logical slot of the CORE byte (R547). -/
def Desc.core (d : Desc) : Nat × Nat := (d.at 8 1 / 16, d.at 8 1 % 8)

/-- Whether an opcode runs on a core (Table 13.4). -/
def coreRun (op : Nat) : Bool :=
  op == 1 || (decide (0x10 ≤ op) && decide (op ≤ 0x16)) || (decide (0x20 ≤ op) && decide (op ≤ 0x23)) || op == 0x30

/-- Entries of an opcode; a reserved opcode has one (R540, Table 13.4). -/
def opEntries (op : Nat) : Nat :=
  if op = 0x10 ∨ op = 0x11 ∨ op = 0x30 then 2 else if 0x20 ≤ op ∧ op ≤ 0x23 then 3 else 1

/-- Opcodes of Table 13.4. -/
def opKnown (op : Nat) : Bool :=
  decide (op ≤ 2) || (decide (0x10 ≤ op) && decide (op ≤ 0x16)) || (decide (0x20 ≤ op) && decide (op ≤ 0x23)) ||
  (decide (0x30 ≤ op) && decide (op ≤ 0x32)) || (decide (0x40 ≤ op) && decide (op ≤ 0x42)) || op == 0x50

/-- The physical core a descriptor runs on. -/
def State.descCore (s : State) (d : Desc) : Option Nat := s.coreAt d.core.1 d.core.2

end Sys2Proof.Machine
end

