-- ==== Sys2Proof/Machine/Dict.lean ====
section
/-!
DEFINITION. Machine/Dict.lean: the tests that a dictionary access passes, in the order of R833, and what an access leaves
in the requester's area (R621, R623, R632).
-/
namespace Sys2Proof.Machine

/-- The refusal reasons of Table 15.3. -/
inductive Reason where
  | noEntry | cls | readOnly | notHalted | range | state | busy | size | quota | bulk | notReady
  deriving DecidableEq, Repr

/-- The code of a refusal reason (Table 15.3). -/
def Reason.code : Reason → Nat
  | .noEntry => 1 | .cls => 2 | .readOnly => 3 | .notHalted => 4 | .range => 5 | .state => 6 | .busy => 7 | .size => 8
  | .quota => 9 | .bulk => 10 | .notReady => 11

/-! ### Requester areas -/

/-- The requester area of a requester: one for each function, one for Strings, one for the Marionette (R632). -/
def areaOf : Requester → Nat
  | .pf => 0 | .vf p => p | .strings _ => 64 | .marionette => 65

/-- A word of a requester's area, by subindex of 0x1001. -/
def State.area (s : State) (who : Requester) (sub : Nat) : Word := Tbl.get 0 s.areas (areaOf who * 256 + sub)

/-- The state with a word of a requester's area replaced. -/
def State.setArea (s : State) (who : Requester) (sub : Nat) (w : Word) : State :=
  { s with areas := Tbl.set 0 s.areas (areaOf who * 256 + sub) w }

/-- A refused access: DICT_STATUS takes the reason and the entry, and DICT_REFUSED rises (R623). -/
def State.refuse (s : State) (who : Requester) (r : Reason) (idx sub : Nat) : State :=
  let s := s.setArea who 0x42 (wd (r.code + idx * 2 ^ 8 + sub * 2 ^ 24))
  s.setArea who 0x44 (wd (satAdd 32 (s.area who 0x44).toNat 1))

/-- An applied write: DICT_APPLIED rises (Table 15.6). -/
def State.applied (s : State) (who : Requester) : State :=
  s.setArea who 0x45 (wd (((s.area who 0x45).toNat + 1) % 2 ^ 32))

/-! ### Classes -/

/-- Whether VF `p` exists as a requester: VF Enable set and NumVFs at least `p` (R767). -/
def State.hasVf (s : State) (p : Nat) : Bool := decide (1 ≤ p) && decide (p ≤ s.nat kVfsEnabled)

/-- Whether a requester's accesses reach the dictionary engine: PCIe needs a running die with its link up, a VF must exist
(R767), Strings needs a Marionette that answers (R637, R652), and the Marionette makes none while it restarts. -/
def State.requesterOk (s : State) : Requester → Bool
  | .pf => s.dieUp && !s.linkDown
  | .vf p => s.dieUp && !s.linkDown && s.hasVf p
  | .strings _ => s.stringsUp
  | .marionette => s.mario.inputOn && !s.mario.restarting

/-- Whether the entry belongs to a partition's index range. -/
def EntRow.partRange (r : EntRow) : Bool :=
  (decide (0x3000 ≤ r.base) && decide (r.base < 0x4000)) || (decide (0x6000 ≤ r.base) && decide (r.base < 0x6200)) ||
  (decide (0x6400 ≤ r.base) && decide (r.base < 0x6500))

/-- The owning partition of an entry (R606, R615, Table 21.2); 64 or more is none.  `v` is the value a write carries: it
names the context or partition of a FREE object (R531). DESIGN CHOICE (log 95). -/
def State.entOwner (s : State) (l : EntLoc) (v : Option Nat) : Nat :=
  let r := l.row
  if r.partRange then l.inst
  else if 0x4000 ≤ r.base ∧ r.base < 0x5000 then s.coreOwner l.inst
  else if r.ent = .reloadPtr then s.slotOwner l.inst l.elem
  else if r.ent = .ringCtx then
    match v with
    | some c => if s.ringLife l.inst ≠ 0 then s.ringPart l.inst else if s.ctxLife c = 1 then s.ctxPart c else 0xFF
    | none => s.ringPart l.inst
  else if 0x2200 ≤ r.base ∧ r.base < 0x2400 then
    if s.ctxLife (s.nat (kRingCtx l.inst)) = 0 then 0xFF else s.ringPart l.inst
  else if r.ent = .ctxState then if s.ctxLife l.elem = 0 then 0xFF else s.ctxPart l.elem
  else if r.ent = .ctxCtrl then
    if s.ctxLife l.elem = 0 then match v with | some n => bitsOf n 13 8 | none => 0xFF else s.ctxPart l.elem
  else if r.ent = .fenceCtrl ∧ s.fenceLife l.elem = 0 then
    match v with
    | some n => let c := bitsOf n 25 16
      if s.ctxLife c = 1 then s.ctxPart c else 0xFF
    | none => 0xFF
  else if 0x8000 ≤ r.base ∧ r.base < 0x8041 then if s.fenceLife l.elem = 0 then 0xFF else s.fencePart l.elem
  else if 0x6200 ≤ r.base ∧ r.base < 0x6400 then s.nat (kStreamOwner l.inst)
  else if 0x6500 ≤ r.base ∧ r.base < 0x6600 then s.nat (kWinOwner l.inst)
  else if 0x8200 ≤ r.base then fld (s.reg (kGroupDef l.inst)) 11 6
  else if r.ent = .apertureBase then l.elem
  else 0xFF

/-- Whether a class code reaches a requester, given the owning partition (Table 21.2). -/
def clsOk (c : EntCls) (who : Requester) (owner : Nat) : Bool :=
  match c, who with
  | .none, _ => false
  | .all, _ => true
  | .own, _ => true
  | .n, .vf _ => false
  | .n, _ => true
  | .no, .vf p => owner == p
  | .no, _ => true
  | .p, .pf => true
  | .p, _ => false
  | .po, .pf => true
  | .po, .vf p => owner == p
  | .po, _ => false
  | .pm, .pf => true
  | .pm, .marionette => true
  | .pm, _ => false
  | .ps, .pf => true
  | .ps, .strings _ => true
  | .ps, _ => false
  | .sm, .marionette => true
  | .sm, .strings _ => true
  | .sm, _ => false
  | .fence, .pf => true
  | .fence, .vf p => owner == p
  | .fence, _ => false

/-- Whether a requester may read an entry (R17, R18, R530, R838). -/
def State.mayRead (s : State) (who : Requester) (l : EntLoc) : Bool :=
  let owner := s.entOwner l none
  match who with
  | .vf p =>
    if l.row.partRange then decide (owner = p) && clsOk l.row.rd who owner
    else if l.row.ent = .ctxState ∧ s.ctxLife l.elem = 0 then true
    else if l.row.ent = .ringState ∧ s.ringLife l.inst = 0 then true
    else if l.row.ent = .fenceState ∧ s.fenceLife l.elem = 0 then true
    else if l.row.ent = .fenceHandle ∧ s.fenceLife l.elem = 0 then (Tbl.get {} s.fenceWr l.elem).handle == some p
    else if l.row.ent = .fenceLink ∧ s.fenceLife l.elem = 0 then (Tbl.get {} s.fenceWr l.elem).link == some p
    else clsOk l.row.rd who owner
  | _ => clsOk l.row.rd who owner

/-- Whether a requester may write an entry (R17, R18, R483, R531, R829, R838). -/
def State.mayWrite (s : State) (who : Requester) (l : EntLoc) (v : Option Nat) : Bool :=
  let owner := s.entOwner l v
  match who with
  | .vf p =>
    if l.row.partRange then
      decide (owner = p) && clsOk l.row.wr who owner && !(l.row.ent = .partCtrl && (v == some 1 || v == some 2))
    else if (l.row.ent = .fenceHandle ∨ l.row.ent = .fenceLink) ∧ s.fenceLife l.elem = 0 then true
    else clsOk l.row.wr who owner
  | _ => clsOk l.row.wr who owner

/-! ### The value of a write -/

/-- Whether a value fits its type (R600, R612). -/
def typeOk (t : EntTy) (v : Nat) : Bool :=
  match t with
  | .bool => decide (v ≤ 1)
  | .i32 => decide (v < 2 ^ 31) || (decide (2 ^ 64 - 2 ^ 31 ≤ v) && decide (v < 2 ^ 64))
  | _ => decide (v < 2 ^ (8 * min t.bytes 8))

/-- Whether every byte of a value is an owner: a partition, or 0xFF for none. -/
def ownersOk : Nat → Nat → Bool
  | 0, _ => true
  | n + 1, v => (decide (v % 256 < 64) || v % 256 == 0xFF) && ownersOk n (v / 256)

/-- Family of a width code (Table 5.1): 0 TP, 1 LOG, 2 others; and its width in bits. -/
def widthFamily (c : Nat) : Nat × Nat :=
  if c ≤ 6 then (0, c) else if c ≤ 8 then (1, c) else (2, c)

/-- Whether a layer precision entry is legal (R198, Table 5.5). -/
def precEntryOk (v : Nat) : Bool :=
  let o := v % 16
  let a := v / 16 % 16
  decide (v < 2 ^ 16) && decide (a ≤ 8) &&
    (o == 15 || (decide (o ≤ 8) && (widthFamily o).1 == (widthFamily a).1 && decide (o ≤ a)))

/-- Whether a positive power of two lies in a range. -/
def pow2In (lo hi v : Nat) : Bool := isPow2 v && decide (lo ≤ v) && decide (v ≤ hi)

/-- Whether a value lies in a range. -/
def inRange (lo hi v : Nat) : Bool := decide (lo ≤ v) && decide (v ≤ hi)

/-- Whether a slot value is one that the entry itself allows, whatever any other entry holds (R612, R622). -/
def entLegal (e : Ent) (v : Nat) : Bool :=
  match e with
  | .switchFrame => decide (2 ≤ v)
  | .refEnable => decide (v < 8)
  | .holdLimitMs => decide (v ≤ 600000)
  | .slewPpm => inRange 1 50 v
  | .holdDriftPpb => inRange 1 100 v
  | .frameSeed => decide (v < 2 ^ 48)
  | .timingEvents => decide (v < 2 ^ 9)
  | .overrunPolicy => decide (v ≤ 1)
  | .precDefault => precEntryOk v
  | .precLayer => precEntryOk v
  | .bucketEdge => v % 64 == 0
  | .ropeBase => decide (0x3F800000 < v) && decide (v < 0x7F800000)
  | .ropeCfg => decide (v < 2 ^ 10) && v % 2 == 0 && decide (v % 512 ≤ 256)
  | .kvPoolBase => v % 2 ^ 21 == 0
  | .kvMetaBase => v % 256 == 0
  | .seqDirBase => v % 4096 == 0
  | .recompBase => v % 4096 == 0
  | .kvPoolUnits => decide (v ≤ 1048576)
  | .seqDirSlots => pow2In 16 65536 v
  | .recompSlots => pow2In 16 4096 v
  | .kvScaleMin => inRange 0x0400 0x7BFF v
  | .kvGeom => decide (v < 2 ^ 21) && decide (bitsOf v 19 18 ≠ 3)
  | .portCtrl => decide (v ≤ 2)
  | .peerExpect => bitsOf v 30 20 == 0
  | .portEvents => decide (v < 2 ^ 9)
  | .txSlotA => decide (v % 16 ≤ 3) && bitsOf v 15 9 == 0 && bitsOf v 31 26 == 0
  | .txSlotB => decide (v % 16 ≤ 3) && bitsOf v 15 9 == 0 && bitsOf v 31 26 == 0
  | .rxSlotA => decide (v % 16 ≤ 3) && bitsOf v 15 9 == 0 && bitsOf v 31 26 == 0
  | .rxSlotB => decide (v % 16 ≤ 3) && bitsOf v 15 9 == 0 && bitsOf v 31 26 == 0
  | .macAddr => decide (v < 2 ^ 48)
  | .pfcPrio => decide (v ≤ 7)
  | .pathMtu => v == 1024 || v == 2048 || v == 4096
  | .qpPort => decide (v ≤ 3)
  | .remoteQpn => decide (v < 2 ^ 24)
  | .startPsn => decide (v < 2 ^ 24)
  | .planeDim => inRange 1 8 (v % 16) && inRange 1 8 (v / 16)
  | .planeX => decide (v ≤ 7)
  | .planeY => decide (v ≤ 7)
  | .planeIndex => decide (v ≤ 63)
  | .collSlackFr => decide (v ≤ 16)
  | .groupDef => decide (v < 2 ^ 48) && bitsOf v 31 31 == 0 && (bitsOf v 17 12 == 0 || decide (1 ≤ bitsOf v 47 32))
  | .powerCapW => inRange 100 300 v
  | .capWindowMs => inRange 10 1000 v
  | .powerCtrl => inRange 1 4 v
  | .alertStatus => decide (v < 2 ^ 7)
  | .alertMask => decide (v < 2 ^ 7)
  | .searchWindowMs => inRange 50 5000 v
  | .hbPeriodMs => inRange 100 10000 v
  | .updateCtrl => inRange 1 5 v
  | .updateOffset => v % 512 == 0
  | .updateTrialS => inRange 60 3600 v
  | .fwCtrl => inRange 1 2 v
  | .fwFloorRaise => decide (v ≤ 63)
  | .proxyMode => decide (v ≤ 1)
  | .proxyPasses => inRange 1 16 v
  | .linkTrainWaitMs => inRange 10 2000 v
  | .timeLockWaitMs => decide (v ≤ 2000)
  | .replayFr => inRange 1 8 v
  | .watchdogCc => inRange 1024 1048576 v
  | .eccFenceLimit => decide (1 ≤ v)
  | .scrubDebtMax => inRange 256 16777216 v
  | .hbmCeLimit => decide (1 ≤ v)
  | .fwSwapCtrl => inRange 1 4 v
  | .linkdownPolicy => decide (v ≤ 1)
  | .apertureBase => v % 65536 == 0 && decide (v < 2 ^ 48)
  | .stopEvents => decide (v < 16)
  | .syncEvents => decide (v < 16)
  | .syncPolarity => decide (v ≤ 2)
  | .syncWindowNs => inRange 16 1000 v
  | .inputFaults => decide (v < 16)
  | .persistCtrl => inRange 1 2 v
  | .coreOwner => ownersOk 8 v
  | .ctxCtrl => inRange 1 2 (v % 4) && bitsOf v 7 2 == 0 && bitsOf v 15 14 == 0
  | .fenceCtrl => inRange 1 4 (v % 8) && bitsOf v 15 5 == 0 && decide (v < 2 ^ 26)
  | .partCtrl => inRange 1 5 v
  | .partEvents => decide (v < 16)
  | .ringCtrl => inRange 1 4 v
  | .ringCtx => decide (v < 1024)
  | .cqBase => bitOf v 63 || decide (v < 2 ^ 48)
  | .runahead => decide (v ≤ 2)
  | .mapBase => v % 4096 == 0 && decide (v < 2 ^ 48)
  | .fenceHandle => bitsOf v 31 28 == 0
  | .streamOwner => decide (v < 64) || v == 0xFF
  | .winOwner => decide (v < 64) || v == 0xFF
  | .transport => decide (v ≤ 2)
  | .streamCtrl => decide (v ≤ 1)
  | .streamDest => decide (v < 2 ^ 48)
  | .ringBytes => pow2In (2 ^ 20) (2 ^ 40) v
  | .ackTimeoutUs => inRange 10 1000000 v
  | .retryLimit => decide (1 ≤ v)
  | .regionBase => v % 65536 == 0 && decide (v < 2 ^ 56)
  | .regionSpan => decide (v < 2 ^ 48)
  | .shadowBytes => v % 65536 == 0
  | .winBytes => v % 65536 == 0
  | .eventSlots => pow2In 16 4096 v
  | .sporWeight => inRange 1 16 v
  | .winMode => decide (v ≤ 1)
  | .winState => decide (v ≤ 1)
  | .sporHbmShare => decide (1 ≤ v)
  | _ => true

/-- Whether an entry is in the reduced dictionary of Table 17.8. -/
def reducedEntry (idx sub : Nat) : Bool :=
  idx == 0x1000 || idx == 0x1001 ||
  (idx == 0x1003 && (decide (sub ≤ 0x0A) || sub == 0x0C || sub == 0x0D || decide (0x10 ≤ sub))) ||
  (idx == 0x2000 && inRange 0x0C 0x0F sub) ||
  (decide (0x5000 ≤ idx) && decide (idx < 0x5400) && idx % 0x40 == 0 && (sub == 1 || sub == 7)) ||
  inRange 0x7000 0x7040 idx || (idx == 0x7050 && inRange 1 4 sub)

/-- Whether the device is READY (Table 17.1). -/
def State.ready (s : State) : Bool := s.nat kBootState == 7

/-! ### The order of tests (R833) -/

/-- Whether an index belongs to the entries the Marionette holds (R669, R670). -/
def marioIndex (idx : Nat) : Bool := inRange 0x7000 0x7050 idx

/-- Whether an entry is refused with STATE because the Marionette or the die does not serve it: entries of chapter 16 while
the Marionette restarts, but for a read of SENSOR (R637), and entries of the die over Strings while it is unpowered, but for
0x1000:01-03 and :0C (R667, R669). -/
def State.unserved (s : State) (who : Requester) (idx sub : Nat) (wr : Bool) : Bool :=
  (s.mario.restarting && inRange 0x7000 0x7040 idx && (wr || idx != 0x7000)) ||
  (match who with
   | .strings _ =>
     !s.dieUp && !(idx == 0x1000 && (inRange 1 3 sub || sub == 0x0C)) &&
       (!marioIndex idx || (s.nat kPowerState == 4 && idx == 0x7050))
   | _ => false)

/-- Steps 2 to 4 of R833: the entry exists, it exists now, and the requester's class reaches it. DEDUCED (log 42). -/
def State.gateEntry (s : State) (who : Requester) (idx sub : Nat) (wr : Bool) (v : Option Nat) :
    Except Reason EntLoc :=
  match findEntry idx sub with
  | none => .error .noEntry
  | some l =>
    if s.dieUp = true ∧ s.ready = false ∧ reducedEntry idx sub = false ∧ who ≠ .marionette then .error .notReady
    else if wr then
      if l.row.acc = .ro ∧ s.mayRead who l = true then .ok l
      else if s.mayWrite who l v then .ok l else .error .cls
    else if s.mayRead who l then .ok l else .error .cls

/-- The tests of a read (R833), of which the last is R637's and R669's. -/
def State.gateRead (s : State) (who : Requester) (idx sub : Nat) : Except Reason EntLoc :=
  match s.gateEntry who idx sub false none with
  | .error r => .error r
  | .ok l => if s.unserved who idx sub false then .error .state else .ok l

/-- Whether the halt condition of an RWH entry holds; the store maps have their own (R152, R614, R615). -/
def State.rwhOk (s : State) (l : EntLoc) (v : Option Nat) : Bool :=
  if l.row.acc = .rwh then
    match l.row.ent with
    | .fsWeightMap => true
    | .fsOwner => true
    | .lsWeightMap => true
    | .lsSpecMap => true
    | _ => s.ownerHalted (s.entOwner l v)
  else true

/-- Steps 2 to 8 of R833 for a write of a slot value. DEDUCED (log 42). -/
def State.gateWrite (s : State) (who : Requester) (idx sub : Nat) (v : Word) : Except Reason EntLoc :=
  match s.gateEntry who idx sub true (some v.toNat) with
  | .error r => .error r
  | .ok l =>
    if l.row.ty.long then .error .bulk
    else if l.row.acc = .ro then .error .readOnly
    else if typeOk l.row.ty v.toNat = false ∨ entLegal l.row.ent v.toNat = false then .error .range
    else if s.rwhOk l (some v.toNat) = false then .error .notHalted
    else if s.unserved who idx sub true then .error .state
    else .ok l

/-- Steps 2 to 8 of R833 for a write of a long entry. -/
def State.gateLong (s : State) (who : Requester) (idx sub : Nat) (bytes : List Byte) : Except Reason EntLoc :=
  match s.gateEntry who idx sub true none with
  | .error r => .error r
  | .ok l =>
    if l.row.ty.long = false ∨ bytes.length ≠ l.row.ty.bytes then .error .bulk
    else if l.row.acc = .ro then .error .readOnly
    else if l.row.ent = .fsOwner ∧ (bytes.all fun b => decide (b.toNat < 64) || b.toNat == 0xFF) = false then .error .range
    else if s.rwhOk l none = false then .error .notHalted
    else if s.unserved who idx sub true then .error .state
    else .ok l

/-- Ends a dictionary write: the requester's area records a refusal or an application (R621, R623). -/
def State.finishWrite (s : State) (who : Requester) (idx sub : Nat) (r : Except Reason State) : State :=
  match r with
  | .error e => s.refuse who e idx sub
  | .ok t => t.applied who

/-- A write of a slot value whose effect `f` gives the chapter's own refusals (R833 step 9) or the new state.  A
requester that does not exist writes nothing (R767). -/
def State.dictSlot (s : State) (who : Requester) (idx sub : Nat) (v : Word)
    (f : State → EntLoc → Except Reason State) : State :=
  if s.requesterOk who then
    s.finishWrite who idx sub
      (match s.gateWrite who idx sub v with
       | .error r => .error r
       | .ok l => f s l)
  else s

/-- A write of a long entry whose effect `f` gives the chapter's own refusals or the new state. -/
def State.dictLong (s : State) (who : Requester) (idx sub : Nat) (bytes : List Byte)
    (f : State → EntLoc → Except Reason State) : State :=
  if s.requesterOk who then
    s.finishWrite who idx sub
      (match s.gateLong who idx sub bytes with
       | .error r => .error r
       | .ok l => f s l)
  else s

/-- Steps 2 to 8 of R833 for a write of the slot numbered `k`, which is to be one of entry `e`. -/
def State.gateSlot (s : State) (who : Requester) (e : Ent) (k : Nat) (v : Word) : Except Reason EntLoc :=
  match s.gateWrite who (k / 256) (k % 256) v with
  | .error r => .error r
  | .ok l => if l.row.ent = e then .ok l else .error .noEntry

/-- The dictionary write of the slot numbered `k` of entry `e`, whose effect `f` gives the chapter's own refusals or the
new state.  A requester that does not exist writes nothing (R767). DEDUCED (log 42). -/
def State.slotWrite (s : State) (who : Requester) (e : Ent) (k : Nat) (v : Word)
    (f : State → EntLoc → Except Reason State) : State :=
  if s.requesterOk who then
    s.finishWrite who (k / 256) (k % 256)
      (match s.gateSlot who e k v with
       | .error r => .error r
       | .ok l => f s l)
  else s

/-- Refuses with a reason unless a condition holds, else goes on. -/
def orRefuse (ok : Bool) (r : Reason) (t : State) : Except Reason State := if ok then .ok t else .error r

end Sys2Proof.Machine
end

