-- ==== Sys2Proof/Machine/KvBase.lean ====
section
/-!
DEFINITION. Machine/KvBase.lean: page pools, frames and page table entries, and what Sporangium does with a page.
-/
namespace Sys2Proof.Machine

/-- A partition's page pool. -/
def State.pool (s : State) (p : Nat) : KvSt := Tbl.get {} s.kv p

/-- The state with a partition's page pool replaced. -/
def State.setPool (s : State) (p : Nat) (v : KvSt) : State := { s with kv := Tbl.set {} s.kv p v }

/-! ### Geometry (R307 to R312) -/

/-- Layers of a pool (Table 8.1). -/
def State.kvLayers (s : State) (p : Nat) : Nat := fld (s.reg (kKvGeom p)) 7 0 + 1
/-- KV heads of a pool. -/
def State.kvHeads (s : State) (p : Nat) : Nat := fld (s.reg (kKvGeom p)) 13 8 + 1
/-- Head dimension of a pool. -/
def State.kvDim (s : State) (p : Nat) : Nat := (fld (s.reg (kKvGeom p)) 17 14 + 1) * 16
/-- FMT of a pool: 0 INT8, 1 LNS8, 2 BF16. -/
def State.kvFmt (s : State) (p : Nat) : Nat := fld (s.reg (kKvGeom p)) 19 18
/-- Whether a pool's pages have sizes of their own. -/
def State.kvPow2 (s : State) (p : Nat) : Bool := s.bit (kKvGeom p) 20
/-- Bytes of one element. -/
def State.kvElem (s : State) (p : Nat) : Nat := if s.kvFmt p = 2 then 2 else 1
/-- Bytes of one unit (R307). -/
def State.kvUnit (s : State) (p : Nat) : Nat :=
  16 * s.kvLayers p * s.kvHeads p * 2 * s.kvDim p * s.kvElem p
/-- Bytes of one frame block (R311). -/
def State.kvBlock (s : State) (p : Nat) : Nat := roundUp (16 + 4 * s.kvLayers p * s.kvHeads p) 256
/-- Units of a page whose table has SIZE_K `k` (R308). -/
def State.pageUnits (s : State) (p k : Nat) : Nat := if s.kvPow2 p then 2 ^ k else 16
/-- The address of the frame block of a frame. -/
def State.frameVa (s : State) (p unit : Nat) : Nat := s.nat (kKvMetaBase p) + unit * s.kvBlock p
/-- The address of a scale slot (R312). -/
def State.scaleVa (s : State) (p unit layer head part : Nat) : Nat :=
  s.frameVa p unit + 16 + ((layer * s.kvHeads p + head) * 2 + part) * 2
/-- The address of an element of a page of `units` units (R310). -/
def State.elemVa (s : State) (p unit units layer head part tok d : Nat) : Nat :=
  s.nat (kKvPoolBase p) + unit * s.kvUnit p +
    (((layer * s.kvHeads p + head) * 2 + part) * (16 * units) + tok) * s.kvDim p * s.kvElem p + d * s.kvElem p

/-! ### Page tables (R314 to R317) -/

/-- A number of `n` bytes read at a device virtual address; none where it is unmapped. -/
def State.vaNat (s : State) (p va n : Nat) : Option Nat := (s.vaRead p va n).map leNat

/-- A number of `n` bytes read by the block, with zero for an unmapped address. -/
def State.vaNatD (s : State) (p va n : Nat) : Nat := (s.vaNat p va n).getD 0

/-- The address of a page table entry (R315). -/
def entryVa (table j : Nat) : Nat := table + 64 + 16 * j

/-- A page table entry as a number of 128 bits. -/
def State.tableEntry (s : State) (p table j : Nat) : Nat := s.vaNatD p (entryVa table j) 16

/-- The state with a page table entry replaced; only the block writes one (R332). -/
def State.setEntry (s : State) (p table j e : Nat) : State :=
  let s := (s.vaWrite p (entryVa table j) (leBytes 16 e)).2
  s.setPool p { s.pool p with words := Tbl.set 0 (s.pool p).words (entryVa table j) e }

/-- A number with bits `hi` down to `lo` replaced. -/
def putBits (n hi lo v : Nat) : Nat := n - bitsOf n hi lo * 2 ^ lo + v % 2 ^ (hi + 1 - lo) * 2 ^ lo

/-- STATE of an entry (Table 8.4). -/
def entState (e : Nat) : Nat := e % 8
/-- GEN of an entry. -/
def entGen (e : Nat) : Nat := bitsOf e 127 96
/-- UNIT of an entry. -/
def entUnit (e : Nat) : Nat := bitsOf e 95 64

/-- Whether an entry holds a frame (Table 8.4). -/
def hasFrame (e : Nat) : Bool := entState e == 1 || entState e == 2 || entState e == 3 || entState e == 5

/-- Whether software has changed an entry that is not FREE (R317). -/
def State.tampered (s : State) (p table j e : Nat) : Bool :=
  let left := Tbl.get 0 (s.pool p).words (entryVa table j)
  e != left && (entState left != 0 || entState e != 0)

/-! ### Frames -/

/-- Whether a committed, uncompleted descriptor's walk covers a frame (R323): by the pages its walk found, and by the entries
that it covers where it has not walked or may still allocate. -/
def State.pinned (s : State) (p unit : Nat) : Bool :=
  s.inflight.any fun d => d.part == p && !d.completed && ((d.prog.pages.any fun x => x.2.1 == unit) ||
    ((!d.prog.walked || d.opcode == 0x30) && d.prog.cover.any fun x =>
      let e := s.tableEntry p x.1 x.2
      hasFrame e && entUnit e == unit))

/-- The frames of a pool that are not in it. -/
def State.frames (s : State) (p : Nat) : List KvFrame := (s.pool p).frames

/-- Bytes that no write has given a value become free values (R328). -/
def State.vaFree (s : State) (p va n : Nat) : State :=
  (cutRows 256 (n + 1) va (List.replicate n (0 : Byte))).foldl (fun (s : State) x =>
    match s.walk p x.1 true with
    | some pa => { s with hbm := putBytes s.hbm pa (freeBytes s.free x.2.length), free := s.free + x.2.length }
    | none => s) s

/-- The frame of a sequence's entry at a generation. -/
def State.frameOf (s : State) (p seq entry gen : Nat) : Option KvFrame :=
  (s.frames p).find? fun f => f.seq == seq && f.entry == entry && f.gen == gen

/-- The state with a frame changed. -/
def State.modFrame (s : State) (p unit : Nat) (f : KvFrame → KvFrame) : State :=
  s.setPool p { s.pool p with frames := replaceFirst (fun x => x.unit == unit) f (s.frames p) }

/-- A frame returns to the pool. -/
def State.returnFrame (s : State) (p : Nat) (f : KvFrame) : State :=
  (s.setPool p { s.pool p with frames := (s.frames p).filter fun x => x.unit != f.unit }).setNat (kUnitsFree p)
    (s.nat (kUnitsFree p) + f.units)

/-- Returns every released frame that nothing holds any more (R342, R371). -/
def State.sweepFrames (s : State) (p : Nat) : State :=
  ((s.frames p).filter fun f => f.use == .released && !f.wire && !s.pinned p f.unit).foldl
    (fun s f => s.returnFrame p f) s

/-- The remote acknowledgement of a page record (R371). -/
def State.pageAcked (s : State) (j : PageJob) : State :=
  match s.frameOf j.part j.seq j.entry j.gen with
  | none => s
  | some f =>
    let s := s.modFrame j.part f.unit fun f => { f with wire := false }
    match f.use with
    | .inFlight =>
      let e := s.tableEntry j.part f.table f.entry
      let k := (s.pool j.part).stamp
      let s := if entState e = 5 ∧ entGen e = j.gen then s.setEntry j.part f.table f.entry (putBits e 2 0 3) else s
      let s := s.modFrame j.part f.unit fun f => { f with use := .exported, stamp := k }
      s.setPool j.part { s.pool j.part with stamp := k + 1 }
    | _ => s.sweepFrames j.part

/-- A page job is abandoned: an IN_FLIGHT entry returns to SEALED, and a released frame to the pool (R371). -/
def State.pageAbandoned (s : State) (j : PageJob) : State :=
  match s.frameOf j.part j.seq j.entry j.gen with
  | none => s
  | some f =>
    let s := s.modFrame j.part f.unit fun f => { f with wire := false }
    match f.use with
    | .inFlight =>
      let e := s.tableEntry j.part f.table f.entry
      let s := if entState e = 5 ∧ entGen e = j.gen then s.setEntry j.part f.table f.entry (putBits e 2 0 2) else s
      s.modFrame j.part f.unit fun f => { f with use := .sealed }
    | _ => s.sweepFrames j.part

/-- The object block and the payload of a PAGE record (Table 9.6, R353); none where the frame is gone or unmapped. -/
def State.pageRecord (s : State) (j : PageJob) : Option (List Byte × List Byte) :=
  let p := j.part
  match s.frameOf p j.seq j.entry j.gen with
  | none => none
  | some f =>
    let n := 4 * s.kvLayers p * s.kvHeads p
    let sb := roundUp n 256
    match s.vaRead p (s.frameVa p f.unit + 16) n, s.vaRead p (s.nat (kKvPoolBase p) + f.unit * s.kvUnit p) (f.units * s.kvUnit p) with
    | some sc, some data =>
      let object := leBytes 4 j.seq ++ leBytes 2 j.entry ++
        leBytes 1 (if s.kvPow2 p then Nat.log2 f.units else 4) ++ leBytes 1 (s.kvFmt p) ++ leBytes 4 j.gen ++
        leBytes 1 (s.kvLayers p - 1) ++ leBytes 1 (s.kvHeads p - 1) ++ leBytes 1 (s.kvDim p / 16 - 1) ++
        leBytes 1 (b2n (f.final && decide (f.sealFill < 16 * f.units))) ++ leBytes 2 f.sealFill ++ leBytes 2 0 ++
        leBytes 4 sb ++ leBytes 8 0
      some (object, sc ++ List.replicate (sb - n) 0 ++ data)
    | _, _ => none

/-! ### Emptying a pool (R345) -/

/-- Writes OWNER_SEQ 0 into a frame header. -/
def State.disownFrame (s : State) (p unit : Nat) : State := (s.vaWrite p (s.frameVa p unit) (leBytes 4 0)).2

/-- Starts emptying a pool: the frames it has given out are taken back. -/
def State.emptyPool (s : State) (p : Nat) : State :=
  let s := (s.frames p).foldl (fun s f => s.disownFrame p f.unit) s
  s.setPool p { emptying := true }

/-- Whether a pool is being emptied. -/
def State.poolEmptying (s : State) (p : Nat) : Bool := (s.pool p).emptying

/-- A pool has been emptied: every frame header is unowned and every unit free. -/
def State.poolEmptied (s : State) (p : Nat) : State :=
  if s.poolEmptying p then
    let n := s.nat (kKvPoolUnits p)
    let s := (countFrom 0 n).foldl (fun s u => s.disownFrame p u) s
    (s.setPool p {}).setNat (kUnitsFree p) n
  else s

end Sys2Proof.Machine
end

