-- ==== Sys2Proof/Machine/EventLog.lean ====
section
/-!
DEFINITION. Machine/EventLog.lean: frames the Marionette sends on Strings, and the event log.
-/
namespace Sys2Proof.Machine

/-- The identifier of a frame of this node (R651). -/
def State.canId (s : State) (func : Nat) : Nat := func * 128 + s.nat kNodeId % 128

/-- Sends a frame on Strings, where the Marionette may transmit.  While STRINGS_LINE reads OPEN, an acknowledged frame brings
it back to OK and another adds to ACK_ERRORS (R822). -/
def State.sendStrings (s : State) (func : Nat) (b : List Byte) : State :=
  if s.stringsUp then
    let s := s.emit (.strings (s.canId func) b)
    if s.nat kStringsLine = 1 then
      if Config.ackSeen s.free then s.takeFree.setNat kStringsLine 0 else s.takeFree.bump kAckErrors
    else s
  else s

/-- TIME of a log record: DEV_TIME_NS while the die runs, else Marionette uptime with bit 63 set (Table 16.4). -/
def State.logTime (s : State) : Nat :=
  if s.nat kPowerState = 2 ∧ s.boot.inReset = false then s.nat kDevTimeNs % 2 ^ 63
  else 2 ^ 63 + Config.uptimeMs s.free % 2 ^ 63

/-- The bytes of a log record (Table 16.4). -/
def State.logRecord (s : State) (code sev src a0 a1 a2 : Nat) : List Byte :=
  let l := leBytes 4 (s.nat kLogNextSeq) ++ leBytes 2 code ++ leBytes 1 sev ++ leBytes 1 src ++ leBytes 8 s.logTime ++
    leBytes 2 (s.nat kTimebaseEpoch) ++ leBytes 2 a0 ++ leBytes 4 a1 ++ leBytes 4 a2
  l ++ leBytes 4 (crc32c l)

/-- How many records the log holds (R648). DEDUCED (log 92). -/
def logCapacity : Nat := 130944

/-- Writes a record to the event log, and sends it as an ALERT frame where its severity is WARN or CRIT (R648, R653).
DEDUCED (log 92). -/
def State.logEvent (s : State) (code sev src a0 a1 a2 : Nat) : State :=
  let r := s.logRecord code sev src a0 a1 a2
  let s := ({ s with log := (r :: s.log).take logCapacity }.wrapAdd kLogNextSeq 1 32).takeFree
  if 2 ≤ sev then s.sendStrings 1 r else s

/-- Forwards an event of the die to the log (R707, R751, R824); its severity is not stated. DEDUCED (log 92). -/
def State.dieEvent (s : State) (code a0 a1 a2 : Nat) : State := s.logEvent code (Config.eventSeverity code).toNat 5 a0 a1 a2

/-- Whether ALERT_N is asserted (R642). -/
def State.alertLevel (s : State) : Bool := (s.nat kAlertStatus &&& s.nat kAlertMask) != 0

/-- Drives ALERT_N after a change; the device vector is sent when it becomes asserted (R642, R772). -/
def State.alertEdge (s before : State) : State :=
  if s.alertLevel = before.alertLevel then s
  else
    let s := s.emit (.alertN s.alertLevel)
    if s.alertLevel then s.msix 0 1 else s

/-- Sets a bit of ALERT_STATUS. -/
def State.alert (s : State) (b : Nat) : State := (s.setBit kAlertStatus b).alertEdge s

end Sys2Proof.Machine
end

