-- ==== Sys2Proof/Machine/Timebase.lean ====
section
/-!
DEFINITION. Machine/Timebase.lean: the frame geometry, the timing references, the timing states, and the turn of a frame.
-/
namespace Sys2Proof.Machine

/-! ### Geometry -/

/-- FRAME_LEN, ISSUE_LEN, SLOTS_PER_FRAME, GUARD_NS and GUARD_MAX_NS in force: an armed switch that has fallen due acts from
its boundary on (R63). -/
def State.geometry (s : State) : List Nat :=
  match s.tb.armed with
  | some g => if s.nat kSwitchFrame ≤ s.frameNo then g else
      [s.nat kFrameLen, s.nat kIssueLen, s.nat kSlotsPerFrame, s.nat kGuardNs, s.nat kGuardMaxNs]
  | none => [s.nat kFrameLen, s.nat kIssueLen, s.nat kSlotsPerFrame, s.nat kGuardNs, s.nat kGuardMaxNs]

/-- FRAME_LEN in force. -/
def State.frameLen (s : State) : Nat := s.geometry.getD 0 32

/-- ISSUE_LEN in force. -/
def State.issueLen (s : State) : Nat := s.geometry.getD 1 8

/-- SLOTS_PER_FRAME in force. -/
def State.slotsPerFrame (s : State) : Nat := s.geometry.getD 2 64

/-- GUARD_NS in force. -/
def State.guardNs (s : State) : Nat := s.geometry.getD 3 16

/-- GUARD_MAX_NS in force. -/
def State.guardMaxNs (s : State) : Nat := s.geometry.getD 4 24

/-- The frame's duration in ns (R43). -/
def State.frameNs (s : State) : Nat := s.frameLen * 256

/-- The slot's length in units of 0.25 ns, exact for every legal geometry (R57). -/
def slotQ (frameLen slots : Nat) : Nat := frameLen * 1024 / max slots 1

/-- Whether five values obey R43, R46, R56, R57 and R59. -/
def geometryOk (g : List Nat) : Bool :=
  let fl := g.getD 0 0
  let sl := g.getD 2 0
  inRange' 16 256 fl && inRange' 4 32 (g.getD 1 0) && isPow2 sl && inRange' 16 1024 sl &&
  decide (4 * 64 ≤ slotQ fl sl) && inRange' 4 64 (g.getD 4 0) && decide (4 * (4 * g.getD 4 0) ≤ slotQ fl sl) &&
  inRange' 4 (g.getD 4 0) (g.getD 3 0)
where
  /-- Whether a value lies in a range. -/
  inRange' (lo hi v : Nat) : Bool := decide (lo ≤ v) && decide (v ≤ hi)

/-- The staged geometry (R63). -/
def State.staged (s : State) : List Nat :=
  [s.nat kFrameLenNext, s.nat kIssueLenNext, s.nat kSlotsNext, s.nat kGuardNext, s.nat kGuardMaxNext]

/-- Applies an armed switch that has fallen due (R63). -/
def State.geometrySwitch (s : State) : State :=
  match s.tb.armed with
  | none => s
  | some g =>
    if s.nat kSwitchFrame ≤ s.frameNo then
      let s := (s.setNat kFrameLen (g.getD 0 0)).setNat kIssueLen (g.getD 1 0)
      let s := (s.setNat kSlotsPerFrame (g.getD 2 0)).setNat kGuardNs (g.getD 3 0)
      let s := (s.setNat kGuardMaxNs (g.getD 4 0)).setNat kSwitchFrame 0
      { s with tb := { s.tb with armed := none } }.timingEvent 7
    else s

/-! ### References (Table 2.3) -/

/-- A link port beside its entries. -/
def State.port (s : State) (n : Nat) : PortSt := Tbl.get {} s.ports n

/-- The state with a link port replaced. -/
def State.setPort (s : State) (n : Nat) (v : PortSt) : State := { s with ports := Tbl.set {} s.ports n v }

/-- NUMBER_VALID (Table 2.7). -/
def State.numbered (s : State) : Bool := bitOf (s.nat kFrameNumber) 63

/-- TIMING_STATE: 0 FREERUN, 1 HOLDOVER, 2 LOCKED. -/
def State.timing (s : State) : Nat := s.nat kTimingState

/-- The alignment bound B of a reference in ns: 1 SYNC_IN, 2 PTM, 3 + n the markers of port n (Table 2.3). -/
def State.refB (s : State) (ref : Nat) : Nat :=
  if ref = 1 then 4 else if ref = 2 then 20 else 4 + 4 * ((s.port (ref - 3)).mkHop + 1)

/-- HOP_COUNT of a device that selects a reference (R75). -/
def State.refHop (s : State) (ref : Nat) : Nat :=
  if ref = 0 then 0xFF else if ref = 1 then 0 else if ref = 2 then 4 else (s.port (ref - 3)).mkHop + 1

/-- Whether a reference is enabled and qualified (R73, R776). -/
def State.refOk (s : State) (ref : Nat) : Bool :=
  if ref = 0 then false
  else if ref = 1 then s.tb.syncOk && s.bit kRefEnable 0
  else if ref = 2 then s.tb.ptmOk && s.bit kRefEnable 1
  else (s.port (ref - 3)).mkOk && s.bit kRefEnable 2

/-- The last measured offset of a reference in ns (R82). -/
def State.refOff (s : State) (ref : Nat) : Option Int :=
  if ref = 0 then none else if ref = 1 then s.tb.syncOff else if ref = 2 then s.tb.ptmOff else (s.port (ref - 3)).mkOff

/-- A time in ns taken modulo the frame, in (−frame ÷ 2, +frame ÷ 2] (R88). -/
def State.phaseMod (s : State) (x : Int) : Int :=
  let f : Int := s.frameNs
  let y := x % f
  if f < 2 * y then y - f else y

/-- The offset that PTM gives where the PTM time is `t` at position 0 of the present frame (R82, Table 2.3): modulo the frame
while PTM or the device has no number. DEDUCED (log 53). -/
def State.ptmOffset (s : State) (t : Nat) : Int :=
  let org := s.nat kFrameOriginNs
  if s.numbered ∧ org ≠ 0 then (t : Int) - (org + s.frameNo * s.frameNs : Nat) else s.phaseMod ((t : Int) - org)

/-- The qualified link-marker port with the lowest hop count, then the lowest number (R74). -/
def State.bestPort (s : State) : Option Nat :=
  (countFrom 0 16).foldl (fun b n =>
    if (s.port n).mkOk then
      match b with
      | none => some n
      | some m => if (s.port n).mkHop < (s.port m).mkHop then some n else b
    else b) none

/-- The highest-priority reference that is enabled and qualified; 0 where there is none (R73). -/
def State.bestRef (s : State) : Nat :=
  if s.refOk 1 then 1 else if s.refOk 2 then 2
  else match s.bestPort with
    | some n => if s.bit kRefEnable 2 then 3 + n else 0
    | none => 0

/-- A reference is no longer qualified; its qualification starts again. -/
def State.unqualify (s : State) (ref : Nat) : State :=
  if ref = 0 then s
  else if ref = 1 then { s with tb := { s.tb with syncOk := false, syncRun := 0 } }
  else if ref = 2 then
    let s := { s with tb := { s.tb with ptmOk := false, ptmRun := 0 } }
    if s.nat kPtmState = 2 then s.setNat kPtmState 1 else s
  else s.setPort (ref - 3) { s.port (ref - 3) with mkOk := false, mkRun := 0, mkNumber := none }

/-! ### Drift, guard band and mutes -/

/-- G_eff for a drift estimate in 10^-9 ns (R60). DEDUCED (log 53). -/
def State.guardFor (s : State) (d : Option Nat) : Nat :=
  match d with
  | none => s.guardMaxNs
  | some d => min s.guardMaxNs (max s.guardNs ((2 * d + 999999999) / 1000000000))

/-- G_eff, which GUARD_EFF_NS reads (R60). DEDUCED (log 53). -/
def State.guardEff (s : State) : Nat := s.guardFor s.tb.drift

/-- Sets the drift estimate, with DRIFT_EST_NS (R84). DEDUCED (log 53). -/
def State.setDrift (s : State) (d : Option Nat) : State :=
  { s with tb := { s.tb with drift := d } }.setNat kDriftEstNs
    (match d with | none => 0xFFFFFFFF | some d => min (d / 1000000000) 0xFFFFFFFF)

/-- Whether a transmitter mutes for the device's own timing (R62). -/
def State.selfMutes (s : State) : Bool :=
  s.timing == 0 || !s.numbered ||
  (match s.tb.drift with
   | none => true
   | some d => decide (s.guardFor (some d) * 1000000000 < 2 * d))

/-- Whether a mute of R62, R416 or R418 applies to a port. -/
def State.portMuted (s : State) (n : Nat) : Bool :=
  s.tb.muted || s.nat (kPortState n) == 4 || (s.port n).peerMuted

/-- TX_MUTED of a port follows its mutes. -/
def State.refreshMute (s : State) (n : Nat) : State := s.setNat (kTxMuted n) (b2n (s.portMuted n))

/-- TX_MUTED of every port follows its mutes. -/
def State.refreshMutes (s : State) : State := (countFrom 0 16).foldl (fun s n => s.refreshMute n) s

/-- The transmitters mute as soon as R62 asks for it. -/
def State.muteNow (s : State) : State :=
  if s.selfMutes && !s.tb.muted then { s with tb := { s.tb with muted := true } }.refreshMutes else s

/-! ### Timing states (Table 2.4) -/

/-- The drift estimate outside LOCKED (R84): B + |offset| while a returning reference is slewed in; before the first LOCKED of
the epoch the saturated value; else B of the reference lost and the drift since. -/
def State.estimate (s : State) : State :=
  if s.timing = 2 then s
  else match s.tb.returning with
    | some off => s.setDrift (some ((s.refB s.tb.selected + off.natAbs) * 1000000000))
    | none => s.setDrift (if s.tb.everLocked then some (s.tb.leftB * 1000000000 + s.nat kHoldDriftPpb * s.tb.holdNs) else none)

/-- Enters HOLDOVER, or FREERUN where HOLD_LIMIT_MS is 0; `b` is B of the reference held until then (Table 2.4, R84). -/
def State.leaveLocked (s : State) (b : Nat) : State :=
  let s := { s with tb := { s.tb with leftB := b, holdNs := 0, returning := none, lockRun := 0, overRun := 0 } }
  let s := s.setDrift (some (b * 1000000000))
  let s := if s.nat kHoldLimitMs = 0 then (s.setNat kTimingState 0).timingEvent 2 else (s.setNat kTimingState 1).timingEvent 1
  s.muteNow

/-- Selects a reference, or none (R73, R75).  A change while a step is pending clears STEP_PENDING (R834). -/
def State.selectRef (s : State) (ref : Nat) : State :=
  let s := { s with tb := { s.tb with selected := ref, lost := false, returning := none, lockRun := 0, overRun := 0 } }
  ((s.setNat kRefSelected (min ref 3)).setNat kHopCount (s.refHop ref)).setNat kStepPending 0

/-- The offset of a reference that returns while the device is not LOCKED (R87, Table 2.5). -/
def State.offsetReturn (s : State) (off : Int) : State :=
  let ref := s.tb.selected
  if 1000 < off then ({ s with tb := { s.tb with returning := none } }.setNat kStepPending 1).estimate
  else
    let s := s.setNat kStepPending 0
    if -1000000 ≤ off then { s with tb := { s.tb with returning := some off } }.estimate
    else (((s.unqualify ref).selectRef 0).timingEvent 6).estimate

/-- The offset of a newly selected reference is handled as returning, where one was measured. -/
def State.returnOf (s : State) (ref : Nat) : State :=
  match s.refOff ref with
  | some off => s.offsetReturn off
  | none => s.estimate

/-- Whether a reference's offset is within its B. -/
def State.withinB (s : State) (ref : Nat) : Bool :=
  match s.refOff ref with
  | some off => decide (off.natAbs ≤ s.refB ref)
  | none => false

/-- Whether a reference's loss time of Table 2.3 is up: at a boundary with `now` 0, inside a frame with `now` 1, where the
present frame counts as one without a pulse or marker if none has come. DEDUCED (log 53). -/
def State.refExpired (s : State) (ref now : Nat) : Bool :=
  if ref = 1 then decide (3 ≤ s.tb.syncMissed + (if s.tb.syncGot then 0 else now))
  else if ref = 2 then decide (100000000 ≤ s.tb.ptmNs + now * s.frameNs)
  else decide (4 ≤ (s.port (ref - 3)).mkMissed + (if (s.port (ref - 3)).mkGot then 0 else now))

/-- Whether the selected reference is lost at a frame boundary (R73, R777, R809, Table 2.3). -/
def State.refGone (s : State) (ref : Nat) : Bool :=
  s.tb.lost || s.refExpired ref 0 ||
  (if ref = 1 then s.tb.disq || !s.bit kRefEnable 0
   else if ref = 2 then s.nat kPtmState == 0 || !s.bit kRefEnable 1
   else !s.bit kRefEnable 2)

/-- A selected reference that is lost at this boundary loses its qualification, and REF_LOST is set (R73, R81). -/
def State.loseRef (s : State) : State :=
  let cur := s.tb.selected
  if cur ≠ 0 ∧ s.refGone cur = true then
    let s := if s.tb.lost then s else s.timingEvent 0
    { s with tb := { s.tb with lost := true } }.unqualify cur
  else s

/-- The choice of the selected reference, made again at a frame boundary (R73, Table 2.4). -/
def State.reselect (s : State) : State :=
  let s := s.loseRef
  let cur := s.tb.selected
  let best := s.bestRef
  if best = cur then s
  else if s.timing = 2 then
    if best ≠ 0 ∧ s.withinB best = true then
      ((s.selectRef best).setDrift (some (s.refB best * 1000000000))).timingEvent 4
    else
      let s := s.leaveLocked (s.refB cur)
      if best = 0 then s.selectRef 0 else (s.selectRef best).returnOf best
  else if best = 0 then s.selectRef 0 else (s.selectRef best).returnOf best

/-- Whether the lock condition of R82 is met. -/
def State.lockCondition (s : State) : Bool :=
  s.numbered && s.tb.selected != 0 && decide (16 ≤ s.tb.lockRun)

/-- Enters LOCKED (Table 2.4). -/
def State.enterLocked (s : State) : State :=
  let s := { s with tb := { s.tb with returning := none, overRun := 0, everLocked := true } }
  ((s.setNat kTimingState 2).setDrift (some (s.refB s.tb.selected * 1000000000))).timingEvent 3

/-! ### The turn of a frame -/

/-- The number that a marker or PTM gives the next boundary: a marker of a LOCKED, numbered neighbour, then PTM, rounded to
the nearest with a half up (R78). DEDUCED (log 54). -/
def State.numberGiven (s : State) (o : BoundaryObs) : Option Nat :=
  match (countFrom 0 16).findSome? fun n => (s.port n).mkNumber with
  | some n => some n
  | none =>
    match o.ptmTime with
    | some t =>
      let org := s.nat kFrameOriginNs
      let n : Int := (2 * ((t : Int) - (org : Int)) + (s.frameNs : Int)) / ((2 * s.frameNs : Nat) : Int)
      if org ≠ 0 ∧ s.tb.ptmOk = true ∧ 0 ≤ n then some (n.toNat % 2 ^ 48) else none
    | none => none

/-- The number that the numbering sources give the next boundary, FRAME_SEED the last of them (R78, R79). -/
def State.numberSource (s : State) (o : BoundaryObs) : Option Nat :=
  match s.numberGiven o with
  | some n => some n
  | none => s.tb.seed.map (· % 2 ^ 48)

/-- The frame number and DEV_TIME_NS advance, the latter by what the frame lasted (R67, R70, R91); the first numbering of an
epoch sets the number (R80), and after it the numbering source is compared with the local count (R88).
DEDUCED (log 54). -/
def State.countFrame (s : State) (o : BoundaryObs) : State :=
  let next : Nat := (s.frameNo + 1) % 2 ^ 48
  let num : Nat := if s.numbered then next + 2 ^ 63 else
    match s.numberSource o with
    | some n => n + 2 ^ 63
    | none => next
  let gap : Int := match s.numbered, s.numberGiven o with
    | true, some n => (n : Int) - (next : Int)
    | _, _ => 0
  let seed := if s.numbered then s.tb.seed else none
  let t := { s.tb with ticks := s.tb.ticks + 1, base := s.tb.base + s.frameNs, startNs := 0, before := s.geometry, seed := seed,
                       numGap := gap }
  { s.wrapAdd kDevTimeNs (s.frameNs - s.tb.startNs) with tb := t }.setNat kFrameNumber num

/-- Table 2.3 at the end of a frame that lasted `ns`: accepted pulses, edges, markers and PTM dialogues that did not come.
DEDUCED (log 53). -/
def State.countRefs (s : State) (ns : Nat) : State :=
  let t := s.tb
  let missed := if t.syncGot then 0 else t.syncMissed + 1
  let calm := if t.disq then (if t.edges ≤ 1 then t.calm + 1 else 0) else 0
  let ptmNs := t.ptmNs + ns
  let s := { s with tb := { t with syncMissed := missed, syncGot := t.syncNext, syncNext := false, edges := 0, calm := calm,
                                   disq := t.disq && decide (calm < 16), ptmNs := ptmNs, holdNs := t.holdNs + ns } }
  let s := if t.disq && decide (16 ≤ calm) then s.setReg kSyncStatus (putFld (s.reg kSyncStatus) 4 4 0) else s
  let s := if t.selected ≠ 1 ∧ (3 ≤ missed ∨ t.disq = true) ∧ t.syncOk = true then s.unqualify 1 else s
  let s := if t.selected ≠ 2 ∧ 100000000 ≤ ptmNs ∧ t.ptmOk = true then s.unqualify 2 else s
  (countFrom 0 16).foldl (fun s n =>
    let p := s.port n
    let missed := if p.mkGot then 0 else p.mkMissed + 1
    let q := { p with mkMissed := missed, mkGot := false, mkNumber := none, mkRun := if p.mkGot then p.mkRun else 0 }
    let s := if q = p then s else s.setPort n q
    if p.mkOk ∧ 4 ≤ missed ∧ t.selected ≠ 3 + n then s.unqualify (3 + n) else s) s

/-- An integer in a slot of an I32 entry, saturated (R600, Table 2.7). -/
def i32Word (i : Int) : Word :=
  BitVec.ofInt 64 (max (-(2 ^ 31 : Int)) (min i (2 ^ 31 - 1)))

/-- Whether the frame that ends measured a reference: its pulse or marker came in it, or PTM gives its time at every boundary
once a dialogue has succeeded. DEDUCED (log 53). -/
def State.measuredNow (s : State) (o : BoundaryObs) (ref : Nat) : Bool :=
  if ref = 1 then s.tb.syncGot
  else if ref = 2 then o.ptmTime.isSome && s.nat kPtmState != 0 && decide (1 ≤ s.tb.ptmRun)
  else (s.port (ref - 3)).mkGot

/-- The offset measured at a boundary, and the runs of frames within B and beyond 2 × B (R82, Table 2.4): a frame that
measures nothing ends a run. DEDUCED (log 53). -/
def State.measure (s : State) (o : BoundaryObs) : State :=
  let s := match o.ptmTime with
    | some t => if s.measuredNow o 2 then { s with tb := { s.tb with ptmOff := some (s.ptmOffset t) } } else s
    | none => s
  let ref := s.tb.selected
  match (if ref ≠ 0 ∧ s.measuredNow o ref = true then s.refOff ref else none) with
  | none => { s with tb := { s.tb with lockRun := 0, overRun := 0 } }
  | some off =>
    let b := s.refB ref
    let lockRun := if off.natAbs ≤ b then s.tb.lockRun + 1 else 0
    let overRun := if s.timing = 2 ∧ 2 * b < off.natAbs then s.tb.overRun + 1 else 0
    { s with tb := { s.tb with lockRun := lockRun, overRun := overRun, returning := s.tb.returning.map fun _ => off } }.setReg
      kOffsetNs (i32Word off)

/-- Sets a bit of SYNC_EVENTS; a change from 0 to 1 sends the device vector and is forwarded to the log (R824).
DEDUCED (log 54). -/
def State.syncEvent (s : State) (b : Nat) : State :=
  if s.bit kSyncEvents b then s
  else
    let s := (s.setBit kSyncEvents b).msix 0 1
    s.logEvent 0x1A03 2 5 (s.nat kSyncEvents) (s.nat kSyncStatus) 0

/-- The class of the frame's SYNC_IN waveform, and the polarity change at the boundary (R804, R805). -/
def State.polarity (s : State) (o : BoundaryObs) : State :=
  let inv := if o.syncClass = some true then s.tb.invRun + 1 else 0
  let nor := if o.syncClass = some false then s.tb.normRun + 1 else 0
  let s := { s with tb := { s.tb with invRun := inv, normRun := nor } }
  let change := fun (s : State) (v : Bool) =>
    let s := { s with tb := { s.tb with inverted := v, syncRun := 0, syncLast := none } }
    (s.setReg kSyncStatus (putFld (s.reg kSyncStatus) 2 2 (b2n v))).syncEvent 1
  if s.nat kSyncPolarity ≠ 0 then s
  else if 4 ≤ inv ∧ s.tb.inverted = false then change s true
  else if 4 ≤ nor ∧ s.tb.inverted = true then change s false
  else s

/-- The timing work of a frame boundary (R62, R67, R71, R73, R80). -/
def State.timingTurn (s : State) (o : BoundaryObs) : State :=
  let ns := s.frameNs - s.tb.startNs
  let s := ((s.countFrame o).measure o).countRefs ns
  let s := (s.polarity o).reselect.estimate
  let s := { s with tb := { s.tb with muted := s.selfMutes } }.refreshMutes
  if s.numbered && s.timing != 0 then s.emit .syncPulse else s

end Sys2Proof.Machine
end

