-- ==== Sys2Proof/Machine/LinkBase.lean ====
section
/-!
DEFINITION. Machine/LinkBase.lean: cells, slot capacity, what a port may send, and how records and acknowledgements reach
the link ports, the queue pairs and the host.
-/
namespace Sys2Proof.Machine

/-! ### Cells (R400) -/

/-- A cell's 272 bytes: header of Table 10.2, payload padded to 256 bytes, and CCRC in the header's last two bytes.
DEDUCED (log 76). -/
def formCell (typ slot cell frameLo chan lenM1 offset : Nat) (last : Bool) (payload : List Byte) : List Byte :=
  let head := leBytes 1 (typ + 16) ++ leBytes 1 (b2n last) ++ leBytes 2 slot ++ leBytes 2 cell ++ leBytes 2 frameLo ++
    leBytes 1 chan ++ leBytes 1 lenM1 ++ leBytes 4 offset
  let body := payload ++ List.replicate (256 - payload.length) 0
  head ++ leBytes 2 (crc16 (head ++ body)) ++ body

/-- A field of `n` bytes of a byte string. -/
def byteField (l : List Byte) (off n : Nat) : Nat := leNat ((l.drop off).take n)

/-- Whether a marker's payload has its reserved bits zero (Table 10.6, R13). -/
def markerOk (l : List Byte) : Bool :=
  bitsOf (byteField l 0 8) 62 48 == 0 && decide (byteField l 13 1 < 8) && decide (byteField l 14 1 < 16) &&
  decide (byteField l 15 1 < 16) && byteField l 30 2 == 0

/-- Whether a cell's bytes are well formed: CCRC, VER 1, a TYPE that is not reserved and reserved bits zero (R401).
DESIGN CHOICE (log 96). -/
def cellOk (l : List Byte) : Bool :=
  l.length == 272 && byteField l 14 2 == crc16 (l.take 14 ++ l.drop 16) && byteField l 0 1 / 16 == 1 &&
  decide (1 ≤ byteField l 0 1 % 16) && decide (byteField l 0 1 % 16 ≤ 6) && decide (byteField l 1 1 ≤ 1) &&
  decide (byteField l 2 2 < 1024) && decide (byteField l 4 2 < 1024) &&
  (byteField l 0 1 % 16 != 1 || markerOk (l.drop 16))

/-- The cell time of a port in units of 1/300 ns: 5.12 ns on four lanes, 20.48 ÷ 3 ns on three (R398). -/
def cellTime (lanes : Nat) : Nat := if lanes = 4 then 1536 else 2048

/-- C: the cells that a slot holds (R402). -/
def cellsPerSlot (frameLen slots guardMax lanes : Nat) : Nat :=
  (slotQ frameLen slots - 8 * guardMax) * 75 / cellTime lanes

/-- Lanes that a port's cells use, as a count: three on a DEGRADED port (R423). -/
def State.laneCount (s : State) (n : Nat) : Nat :=
  let st := s.nat (kPortState n)
  if st = 3 ∨ (st = 4 ∧ (s.port n).prev = 3) then 3 else if s.nat (kLanesActive n) = 15 then 4 else 3

/-- C of a port in the geometry in force (R402, R423). -/
def State.portC (s : State) (n : Nat) : Nat :=
  cellsPerSlot s.frameLen s.slotsPerFrame s.guardMaxNs (s.laneCount n)

/-! ### Slot tables -/

/-- The bank in force: an armed bank switch that has fallen due acts from its boundary on (R408). -/
def State.slotBank (s : State) (n : Nat) : Nat :=
  let sw := s.nat (kSlotSwitchFrame n)
  if sw ≠ 0 ∧ sw ≤ s.frameNo then 1 - s.nat (kSlotBank n) else s.nat (kSlotBank n)

/-- The active transmit entry of a slot (R403). -/
def State.txEntry (s : State) (n slot : Nat) : Nat :=
  if s.slotBank n = 0 then s.nat (kTxSlotA n slot) else s.nat (kTxSlotB n slot)

/-- The active receive entry of a slot (R403). -/
def State.rxEntry (s : State) (n slot : Nat) : Nat :=
  if s.slotBank n = 0 then s.nat (kRxSlotA n slot) else s.nat (kRxSlotB n slot)

/-- CLASS of a slot-table entry (Table 10.5). -/
def slotClass (e : Nat) : Nat := bitsOf e 3 0

/-- GROUP of a slot-table entry. -/
def slotGroup (e : Nat) : Nat := bitsOf e 8 4

/-- The first cell position of a slot that may not be used: the smaller of CELL_LIMIT and C (R404). -/
def slotLimit (e c : Nat) : Nat := if bitsOf e 25 16 = 0 then c else min (bitsOf e 25 16) c

/-- Whether a port carries cells other than MARKER: UP or DEGRADED, no mute, and no wiring fault (R411, R418, R420). -/
def State.portSends (s : State) (n : Nat) : Bool :=
  (s.nat (kPortState n) == 2 || s.nat (kPortState n) == 3) && !s.portMuted n && !(s.port n).wiring

/-! ### Transports of streams (Table 9.1) -/

/-- A RoCE queue pair beside its entries. -/
def State.qp (s : State) (q : Nat) : QpSt := Tbl.get {} s.qps q

/-- The state with a queue pair replaced. -/
def State.setQp (s : State) (q : Nat) (v : QpSt) : State := { s with qps := Tbl.set {} s.qps q v }

/-- The queue pair a ROCE stream names (Table 9.11). DEDUCED (log 73). -/
def State.streamQp (s : State) (st : Nat) : Nat := fld (s.reg (kStreamDest st)) 15 0

/-- Whether a stream's transport can send (R362, R420, R774). DEDUCED (log 73). -/
def State.transportOk (s : State) (st : Nat) : Bool :=
  match s.nat (kTransport st) with
  | 0 => s.timing != 0 && s.portSends (fld (s.reg (kStreamDest st)) 3 0)
  | 1 => decide (s.streamQp st < 256) && s.nat (kQpState (s.streamQp st)) == 1 && s.nat (kEthState (s.nat (kQpPort (s.streamQp st)))) == 1
  | _ => !s.linkDown && (s.fn (partFn (s.nat (kStreamOwner st)))).sends

/-- The record cells of bytes at a stream byte offset (Table 10.3): window, OFFSET, LAST and 256 bytes each. -/
def recordCells (win off : Nat) : Nat → List Byte → List (Nat × Nat × Bool × List Byte)
  | 0, _ => []
  | fuel + 1, l =>
    match l with
    | [] => []
    | _ => (win, off / 256 % 2 ^ 32, decide (l.length ≤ 256), l.take 256) :: recordCells win (off + 256) fuel (l.drop 256)

/-- The pieces of bytes written to a ring of `size` bytes from offset `off` on, cut at the ring's end (R356, R430). -/
def ringPieces (size off : Nat) (l : List Byte) : List (Nat × List Byte) :=
  let o := off % max size 1
  if o + l.length ≤ size then [(o, l)] else [(o, l.take (size - o)), (0, l.drop (size - o))]

/-- The headers of a packet of a queue pair on an Ethernet port (Table 10.8). DESIGN CHOICE (log 93). -/
def State.ethHead (s : State) (eth q : Nat) : EthHead :=
  { port := eth, mac := s.nat (kMacAddr eth), ipv4 := s.nat (kIpv4Addr eth), ipv6 := s.octBytes (kIpv6Addr eth) 16,
    vlan := s.nat (kVlan eth), prio := s.nat (kPfcPrio eth), dscp := s.nat (kDscp eth),
    remoteQpn := s.nat (kRemoteQpn q), remoteGid := s.octBytes (kRemoteGid q) 16 }

/-- Sends one RDMA WRITE message on a queue pair: its packets take the next PSNs, and it waits for its transport ACK. -/
def State.roceWrite (s : State) (q va rkey : Nat) (l : List Byte) : State :=
  let x := s.qp q
  let eth := s.nat (kQpPort q)
  let mtu := max (s.nat (kPathMtu eth)) 1
  let n := max ((l.length + mtu - 1) / mtu) 1
  let s := s.setQp q { x with psn := (x.psn + n) % 2 ^ 24, sent := x.sent ++ [⟨x.psn, n, va, rkey, l⟩] }
  s.emit (.roce (s.ethHead eth q) q x.psn va rkey l)

/-- Hands record bytes at a stream byte offset to the stream's transport (R356, R357, R430). -/
def State.transportSend (s : State) (st off : Nat) (l : List Byte) : State :=
  let dest := s.reg (kStreamDest st)
  let size := s.nat (kRingBytes st)
  match s.nat (kTransport st) with
  | 0 =>
    let n := fld dest 3 0
    let p := s.port n
    s.setPort n { p with data := p.data ++ recordCells (fld dest 8 4) off (l.length + 1) l }
  | 1 => (ringPieces size off l).foldl (fun s x =>
      s.roceWrite (fld dest 15 0) (s.nat (kRingAddr st) + x.1) (fld dest 47 16) x.2) s
  | _ => (ringPieces size off l).foldl (fun s x =>
      s.hostWrite (partFn (s.nat (kStreamOwner st))) (s.nat (kRingAddr st) + x.1) x.2) s

/-- The rkey that a queue pair's peer gave for its memory: that of the stream on the queue pair (Table 9.11). -/
def State.peerRkey (s : State) (q : Nat) : Nat :=
  match (countFrom 0 256).find? fun st => s.nat (kTransport st) == 1 && s.streamQp st == q with
  | some st => fld (s.reg (kStreamDest st)) 47 16
  | none => 0

/-- Sends an acknowledgement for a receive window where its records came from: a link port 0 to 15, or 16 + q for queue
pair q (R358, R406, R431). -/
def State.ackSend (s : State) (via w : Nat) (l : List Byte) : State :=
  let st := byteField l 16 2
  let s := s.emit (.winAck w l)
  if via < 16 then
    let p := s.port via
    s.setPort via { p with acks := p.acks ++ [(st, l)] }
  else s.roceWrite (via - 16) (s.nat kRoceAckVa + 32 * st) (s.peerRkey (via - 16)) l

/-- A stream on a queue pair goes UP: the queue pair is ready to send from START_PSN (Table 10.12).  There are 256 queue
pairs, and a STREAM_DEST that names another names none. -/
def State.qpUp (s : State) (st : Nat) : State :=
  if s.nat (kTransport st) = 1 ∧ s.streamQp st < 256 then
    let q := s.streamQp st
    (s.setNat (kQpState q) 1).setQp q { psn := s.nat (kStartPsn q) }
  else s

/-- A stream leaves a queue pair. -/
def State.qpDown (s : State) (st : Nat) : State :=
  if s.nat (kTransport st) = 1 ∧ s.streamQp st < 256 then (s.setNat (kQpState (s.streamQp st)) 0).setQp (s.streamQp st) {} else s

/-- The waiting cells of a stream leave its link port, when the stream is no longer UP. -/
def State.dropCells (s : State) (st : Nat) : State :=
  if s.nat (kTransport st) = 0 then
    let n := fld (s.reg (kStreamDest st)) 3 0
    let w := fld (s.reg (kStreamDest st)) 8 4
    let p := s.port n
    if p.data.any fun c => c.1 == w then s.setPort n { p with data := p.data.filter fun c => c.1 != w } else s
  else s

end Sys2Proof.Machine
end

