-- ==== Sys2Proof/Machine/Sporangium.lean ====
section
/-!
DEFINITION. Machine/Sporangium.lean: records, streams, acknowledgements, jobs and cuts of Sporangium, and its receive
windows.
-/
namespace Sys2Proof.Machine

/-! ### Records (R351) -/

/-- The length of a record with a payload of `n` bytes. -/
def recordLen (n : Nat) : Nat := (80 + n + 255) / 256 * 256

/-- A record: header, object block, payload, padding and trailer (Tables 9.5 to 9.7). -/
def formRecord (kind flags part tag st epoch seqno frame : Nat) (object payload : List Byte) (generation : Nat) :
    List Byte :=
  let body := leBytes 4 0x53504F52 ++ leBytes 1 kind ++ leBytes 1 1 ++ leBytes 1 flags ++ leBytes 1 part ++
    leBytes 2 tag ++ leBytes 2 st ++ leBytes 2 epoch ++ leBytes 2 0 ++ leBytes 8 seqno ++
    leBytes 4 payload.length ++ leBytes 4 frame ++ object ++ payload
  let n := recordLen payload.length
  let l := body ++ List.replicate (n - 16 - body.length) 0 ++ leBytes 8 generation ++ leBytes 4 n
  l ++ leBytes 4 (crc32c l)

/-- A byte string with bytes replaced from `off` on. -/
def patch (l : List Byte) (off : Nat) (b : List Byte) : List Byte := l.take off ++ b ++ l.drop (off + b.length)

/-- A record with its CRC recomputed. -/
def recrc (l : List Byte) : List Byte := l.take (l.length - 4) ++ leBytes 4 (crc32c (l.take (l.length - 4)))

/-- A record sent again: RETRY set, only FLAGS and CRC differing (R361). -/
def retryRecord (l : List Byte) : List Byte :=
  recrc (patch l 6 (leBytes 1 (byteField l 6 1 ||| 1)))

/-- Whether a record's bytes pass the format tests of R364 but for the CRC. -/
def recordFormatOk (l : List Byte) : Bool :=
  byteField l 0 4 == 0x53504F52 && byteField l 5 1 == 1 && l.length % 256 == 0 && decide (256 ≤ l.length) &&
  byteField l (l.length - 8) 4 == l.length && inRange 1 6 (byteField l 4 1) &&
  recordLen (byteField l 24 4) == l.length

/-- Whether a record's CRC checks. DESIGN CHOICE (log 96). -/
def recordCrcOk (l : List Byte) : Bool :=
  decide (256 ≤ l.length) && byteField l (l.length - 4) 4 == crc32c (l.take (l.length - 4))

/-- An acknowledgement (R358). -/
def formAck (seqno ackBytes st epoch nak : Nat) : List Byte :=
  let l := leBytes 8 seqno ++ leBytes 8 ackBytes ++ leBytes 2 st ++ leBytes 2 epoch ++ leBytes 1 nak ++
    List.replicate 7 0
  l ++ leBytes 4 (crc32c l)

/-! ### Jobs -/

/-- The job with a number. -/
def State.job? (s : State) (id : Nat) : Option Job := s.jobs.find? fun j => j.id == id

/-- The state without a job. -/
def State.dropJob (s : State) (id : Nat) : State := { s with jobs := s.jobs.filter fun j => j.id != id }

/-- The state with a job changed. -/
def State.modJob (s : State) (id : Nat) (f : Job → Job) : State :=
  { s with jobs := replaceFirst (fun j => j.id == id) f s.jobs }

/-- The event code of a job (Table 9.4). -/
def JobKind.code : JobKind → Nat
  | .pageExport => 2
  | .replay _ => 3
  | .restore .. => 4

/-- Granules of a RESTORE whose restore-table value is 0 (R391); the table holds one U32 per granule of the named regions
in ascending region order (R389). -/
def State.restoreMissing (s : State) (p mask table : Nat) : Nat :=
  let n := (countFrom 0 16).foldl (fun n i => if bitOf mask i then n + (s.region p i).2 else n) 0
  ((countFrom 0 n).filter fun i =>
    match s.vaRead p (table + 4 * i) 4 with
    | some b => leNat b == 0
    | none => true).length

/-- Ends a job with a status and cause: its event, and its removal. -/
def State.endJob (s : State) (j : Job) (status cause : Nat) : State :=
  let s := s.dropJob j.id
  match j.kind with
  | .restore target mask _ _ table _ _ =>
    s.jobEvent 4 status cause j.tag target 0 j.acked (s.restoreMissing j.tag.part mask table)
  | k => s.jobEvent k.code status cause j.tag 0 0 j.acked j.detail

/-- One record of a job has been acknowledged; the last one ends the job (R360). -/
def State.jobAcked (s : State) (id : Nat) : State :=
  let s := s.modJob id fun j => { j with left := j.left - 1, acked := j.acked + 1 }
  match s.job? id with
  | some j => if j.left = 0 then s.endJob j 0 0 else s
  | none => s

/-- A page of a PAGE_EXPORT whose record cannot be formed leaves the job, counted among the skipped; the last one ends it.
DEDUCED (log 73). -/
def State.jobSkipped (s : State) (id : Nat) : State :=
  let s := s.modJob id fun j => { j with left := j.left - 1, detail := j.detail + 1 }
  match s.job? id with
  | some j => if j.left = 0 then s.endJob j 0 0 else s
  | none => s

/-! ### Cuts -/

/-- CUT_FREEZE of one partition (R375): the dirty bits of the named regions become the frozen set and are cleared; a FULL
cut freezes every granule. -/
def State.freezeCut (s : State) (p : Nat) : State :=
  let c := s.cut p
  let named := (countFrom 0 16).filter fun i => bitOf c.mask i
  let frozen := named.flatMap fun i =>
    ((countFrom 0 (s.region p i).2).filter fun g =>
      c.full || !(Tbl.get false s.clean (cleanKey p i g))).map fun g => (i, g)
  let streams := (named.map fun i => s.regionStream p i).eraseDups
  let s := frozen.foldl (fun s (i, g) => { s with clean := Tbl.set false s.clean (cleanKey p i g) true }) s
  let s := s.setCut p { c with frozen := frozen, unsent := frozen, undrained := frozen, frozenFrame := s.frameNo,
                               freezeTime := s.nat kDevTimeNs, prevValid := s.nat (kValidCutId p),
                               streams := streams }
  s.setNat (kCutState p) 2

/-- When every frozen granule is drained the cut passes to MANIFEST and every stream of it owes one (R381). -/
def State.cutProgress (s : State) (p : Nat) : State :=
  let c := s.cut p
  if s.nat (kCutState p) = 2 ∧ c.undrained = [] then
    (s.setNat (kCutState p) 3).setCut p { c with manifestTo := c.streams, manifestWait := c.streams }
  else s

/-- A REGION record of a cut is acknowledged: its granule is drained and its slot freed (R377, R379). -/
def State.granuleDrained (s : State) (p serial i g : Nat) : State :=
  let c := s.cut p
  if c.serial == serial && c.undrained.contains (i, g) then
    let slot := c.slots.find? fun x => x.1 == i && x.2.1 == g
    let slots := c.slots.filter fun x => !(x.1 == i && x.2.1 == g)
    let lines := match slot with
      | some (_, _, k) => c.lines.filter fun x => x.1 != k
      | none => c.lines
    let s := s.setCut p { c with undrained := c.undrained.filter (fun x => x != (i, g)), slots := slots, lines := lines,
                                 drained := c.drained + 1, acked := c.acked + 1 }
    ((s.setNat (kShadowSlotsUsed p) slots.length).wrapAdd (kGranulesDrained p)).cutProgress p
  else s

/-- A manifest of a cut is acknowledged on a stream; the last one makes the cut valid (R382). -/
def State.manifestAcked (s : State) (p serial st : Nat) : State :=
  let c := s.cut p
  if s.nat (kCutState p) = 3 ∧ c.serial = serial ∧ c.manifestWait.contains st = true then
    let rest := c.manifestWait.filter fun x => x != st
    let c := { c with manifestWait := rest, acked := c.acked + 1 }
    if rest = [] then
      let s := ((s.setNat (kValidCutId p) c.cutId).setNat (kValidCutFrame p) c.frozenFrame).bump (kCutsValid p)
      let s := (s.setNat (kCutState p) 0).setCut p {}
      s.jobEvent 1 0 0 c.tag c.cutId c.frozenFrame c.acked c.drained
    else s.setCut p c
  else s

/-- The MANIFEST payload (R355). -/
def State.manifestPayload (s : State) (p : Nat) : List Byte :=
  let c := s.cut p
  ((countFrom 0 16).filter fun i => bitOf c.mask i).flatMap fun i =>
    let seqs := (c.sentSeq.filter fun x => x.1 == i).map (·.2)
    leBytes 2 (fld (s.reg (kRegionSpan p i)) 47 32) ++ leBytes 1 (s.regionStream p i) ++ leBytes 1 0 ++
    leBytes 4 (s.region p i).2 ++ leBytes 4 seqs.length ++ leBytes 4 0 ++
    leBytes 8 (seqs.headD 0) ++ leBytes 8 (seqs.getLastD 0)

/-- Where the lines of a frozen granule as it stood at the freeze are: in its shadow slot where they were copied, else live
(R378). -/
def State.granuleLines (s : State) (p i g : Nat) : List Nat :=
  let c := s.cut p
  let slot := c.slots.find? fun x => x.1 == i && x.2.1 == g
  (countFrom 0 256).map fun (ln : Nat) =>
    let live := (s.region p i).1 + g * 65536 + ln * 256
    match slot with
    | some (_, _, k) => if c.lines.contains (k, ln) then s.nat (kShadowBase p) + k * 65536 + ln * 256 else live
    | none => live

/-- The content of a frozen granule at the freeze; none where a line is unmapped (R380). -/
def State.granuleContent (s : State) (p i g : Nat) : Option (List Byte) :=
  ((s.granuleLines p i g).mapM fun va => s.vaRead p va 256).map List.flatten

/-! ### Sending -/

/-- The HBM ranges that a record of `n` bytes is read from, as partition, address and bytes (R385). -/
def State.recReads (s : State) (n : Nat) : RecSrc → List (Nat × Nat × Nat)
  | .page j =>
    match s.frameOf j.part j.seq j.entry j.gen with
    | some f => [(j.part, s.frameVa j.part f.unit + 16, 4 * s.kvLayers j.part * s.kvHeads j.part),
        (j.part, s.nat (kKvPoolBase j.part) + f.unit * s.kvUnit j.part, f.units * s.kvUnit j.part)]
    | none => []
  | .region p _ i g => (s.granuleLines p i g).map fun va => (p, va, 256)
  | .replay _ p a => [(p, a, n)]
  | .fence => []
  | .cutAbort => []
  | .manifest .. => []
  | .xstage _ => []

/-- Sends a record on a stream: the stream byte offset advances, and the record waits for its acknowledgement (R347, R356).
What it is read from passes the MSC without allocating a line (R130, R131). -/
def State.pushRecord (s : State) (st : Nat) (r : SentRec) : State :=
  let n := r.bytes.length
  let s := (s.recReads n r.src).foldl (fun (s : State) x => s.mscReads x.1 x.2.1 x.2.2 false) s
  let s := s.transportSend st (s.stream st).byteOff r.bytes
  let x := s.stream st
  let s := s.setStream st { x with byteOff := x.byteOff + n, sent := x.sent ++ [r] }
  ((s.wrapAdd (kStreamBytes st) n).wrapAdd kExportBytes n).emit (.record st r.bytes)

/-- The record bytes of a kind, formed now for a stream. -/
def State.formFor (s : State) (st kind part : Nat) (object payload : List Byte) (generation : Nat) : List Byte :=
  formRecord kind 0 part (s.nat kInstallTag) st (s.nat (kStreamEpoch st)) (s.nat (kNextSeqno st)) s.frameNo object
    payload generation

/-- What a stream does next: the state once it is done but for sending, the HBM bytes read for it, and the record that it
sends, if it sends one, with whether it was sent before. -/
structure NextRec where
  taken : State
  reads : Nat := 0
  record : Option (List Byte × RecSrc) := none
  old : Option Nat := none

/-- The next record of a stream that has none of its own waiting: a drain granule, then a manifest, then a replayed record
(R377, R381, R394). -/
def State.nextDrain (s : State) (st : Nat) (ecc : Bool) : Option NextRec :=
  let p := s.nat (kStreamOwner st)
  let c := s.cut p
  match (if s.nat (kCutState p) = 2 then c.unsent.find? fun y => s.regionStream p y.1 == st else none) with
  | some (i, g) =>
    if ecc then some { taken := s.abandonCut p 0x0C 5 }
    else match s.granuleContent p i g with
      | none => some { taken := s.abandonCut p 0x0C 2 }
      | some payload =>
        let object := leBytes 2 (fld (s.reg (kRegionSpan p i)) 47 32) ++ leBytes 2 0 ++ leBytes 4 c.cutId ++
          leBytes 8 (g * 65536) ++ leBytes 8 c.frozenFrame ++ leBytes 8 0
        some { taken := s.setCut p { c with unsent := c.unsent.filter (fun y => y != (i, g)),
                                            sentSeq := c.sentSeq ++ [(i, s.nat (kNextSeqno st))] },
               reads := 65536, record := some (s.formFor st 2 p object payload c.cutId, .region p c.serial i g) }
  | none =>
  if c.manifestTo.contains st then
    let payload := s.manifestPayload p
    let object := leBytes 4 c.cutId ++ leBytes 4 c.prevValid ++ leBytes 8 c.frozenFrame ++
      leBytes 2 (payload.length / 32) ++ leBytes 2 (b2n c.full) ++ leBytes 4 0 ++ leBytes 8 c.freezeTime
    some { taken := s.setCut p { c with manifestTo := c.manifestTo.filter fun y => y != st },
           record := some (s.formFor st 3 p object payload c.cutId, .manifest p c.serial) }
  else
  (s.jobs.find? fun j => j.stream == st && (match j.kind with | .replay (_ :: _) => true | _ => false)).bind fun j =>
    match j.kind with
    | .replay (a :: rest) =>
      let len := match s.vaRead p (a + 24) 4 with
        | some b => recordLen (leNat b)
        | none => 0
      let old := (s.vaRead p a len).getD []
      if old.isEmpty || !recordCrcOk old then
        some { taken := (s.modJob j.id fun j => { j with kind := .replay rest }).jobSkipped j.id, reads := len }
      else
        let b := patch (patch (patch (patch old 10 (leBytes 2 st)) 12 (leBytes 2 (s.nat (kStreamEpoch st)))) 16
          (leBytes 8 (s.nat (kNextSeqno st)))) 6 (leBytes 1 0)
        some { taken := s.modJob j.id fun j => { j with kind := .replay rest }, reads := len,
               record := some (recrc b, .replay j.id p a) }
    | _ => none

/-- The next record of a stream: one sent before that a retransmission still owes, then a formed record, then a page, then the
drain records (R356, R361, R369, R515); none where it has none. -/
def State.nextRecord (s : State) (st : Nat) (ecc : Bool) : Option NextRec :=
  let x := s.stream st
  match x.again with
  | r :: rest =>
    let b := retryRecord r.bytes
    some { taken := s.setStream st { x with again := rest },
           reads := (s.recReads b.length r.src).foldl (fun n y => n + y.2.2) 0,
           record := some (b, r.src), old := some r.seqno }
  | [] =>
  match x.waiting with
  | w :: rest =>
    some { taken := s.setStream st { x with waiting := rest },
           record := some (s.formFor st w.kind w.part w.object w.payload w.generation, w.src) }
  | [] =>
  match x.pages with
  | j :: rest =>
    let t := s.setStream st { x with pages := rest }
    match s.pageRecord j with
    | some (object, payload) =>
      let b := s.formFor st 1 j.part object payload j.gen
      some { taken := t, reads := (s.recReads b.length (.page j)).foldl (fun n y => n + y.2.2) 0,
             record := some (b, .page j) }
    | none =>
      let t := t.pageAbandoned j
      some { taken := match j.job with | some id => t.jobSkipped id | none => t }
  | [] => s.nextDrain st ecc

/-- Whether a stream has ring space at its receiver for `n` bytes more (R356). -/
def State.ringRoom (s : State) (st n : Nat) : Bool :=
  decide ((s.stream st).byteOff + n ≤ s.nat (kAckBytes st) + s.nat (kRingBytes st))

/-- The frame's budgets that are left: record bytes and HBM bytes read (R384, R385). -/
def State.sporLeft (s : State) : Nat × Nat :=
  (512 * s.frameNs - s.sporBytes, 4800 * s.frameLen * s.nat kSporHbmShare - s.sporReads)

/-- Pays for `n` record bytes and `reads` HBM bytes of a stream out of the frame's budgets, beyond what earlier frames have
paid: answers whether all of it is paid.  What no one frame holds is spread over frames; anything else waits for the next
frame (R384, R385). DEDUCED (log 72). -/
def State.pay (s : State) (st n reads : Nat) : Option (Bool × State) :=
  let x := s.stream st
  let left := s.sporLeft
  let owed := (n - x.paid.1, reads - x.paid.2)
  let big := 512 * s.frameNs < n || 4800 * s.frameLen * s.nat kSporHbmShare < reads
  if owed.1 ≤ left.1 ∧ owed.2 ≤ left.2 then
    some (true, { s.setStream st { x with paid := (x.paid.1 - n, x.paid.2 - reads) } with
      sporBytes := s.sporBytes + owed.1, sporReads := s.sporReads + owed.2 })
  else
    let now := (min owed.1 left.1, min owed.2 left.2)
    if big = false ∨ now = (0, 0) then none
    else some (false, { s.setStream st { x with paid := (x.paid.1 + now.1, x.paid.2 + now.2) } with
      sporBytes := s.sporBytes + now.1, sporReads := s.sporReads + now.2 })

/-- Serves a stream once, if it has a record ready: what it does next, within its ring and the frame's budgets; answers
whether it is done, or only paid for in part (R356, R384, R385). -/
def State.serveStream (s : State) (st : Nat) (ecc : Bool) : Option (Bool × State) :=
  (s.nextRecord st ecc).bind fun x =>
    let n := match x.record with | some r => r.1.length | none => 0
    if s.ringRoom st n = false then none
    else (s.pay st n x.reads).map fun (done, paid) =>
      if done = false then (false, paid)
      else
        let t := x.taken
        let t := { t.setStream st { t.stream st with paid := (paid.stream st).paid } with
          sporBytes := paid.sporBytes, sporReads := paid.sporReads }
        match x.record, x.old with
        | none, _ => (true, t)
        | some r, some k => (true, t.pushRecord st ⟨k, r.1, r.2⟩)
        | some r, none => (true, (t.pushRecord st ⟨s.nat (kNextSeqno st), r.1, r.2⟩).wrapAdd (kNextSeqno st))

/-! ### Which stream is served (R386) -/

/-- The streams that may have a record: UP, able to send, and owning something to send. -/
def State.liveStreams (s : State) : List Nat :=
  ((s.streams.map (·.1) ++ s.cuts.flatMap (fun x => x.2.streams) ++ s.jobs.map (·.stream)).eraseDups).filter fun st =>
    s.streamUp st && s.transportOk st

/-- The partitions in the order of their turns: the one whose turn it is goes first while it has sent fewer records than its
SPOR_WEIGHT. -/
def State.turnOrder (s : State) : List Nat :=
  let (q, n) := s.sporTurn
  (countFrom (if n < s.nat (kSporWeight q) then q else q + 1) 64).map (· % 64)

/-- The first of a partition's streams, from the one after the last it sent on, that can be served. -/
def State.servePart (s : State) (live : List Nat) (ecc : Bool) (p : Nat) : Option (Nat × Nat × Bool × State) :=
  ((countFrom (Tbl.get 0 s.sporNext p) 256).map (· % 256)).findSome? fun st =>
    if live.contains st && s.nat (kStreamOwner st) == p then (s.serveStream st ecc).map fun t => (p, st, t) else none

/-- Serves the next stream: round-robin across the partitions, each for as many records as its SPOR_WEIGHT, and round-robin
across a partition's streams (R386).  A report that another stream than that one sends is not one (log 2).
DEDUCED (log 72). -/
def State.serveNext (s : State) (st : Nat) (ecc : Bool) : State :=
  let live := s.liveStreams
  if live = [] then s
  else match s.turnOrder.findSome? (s.servePart live ecc) with
    | none => s
    | some (p, next, done, t) =>
      if next ≠ st then s
      else if done = false then t
      else
        { t with sporTurn := (p, if p = s.sporTurn.1 ∧ s.sporTurn.2 < s.nat (kSporWeight p) then s.sporTurn.2 + 1 else 1),
                 sporNext := Tbl.set 0 t.sporNext p ((next + 1) % 256) }

/-! ### Acknowledgements -/

/-- What the remote acknowledgement of a record brings about (R360, R371, R377, R382). -/
def State.recAcked (s : State) (st : Nat) (r : SentRec) : State :=
  match r.src with
  | .page j =>
    let s := s.pageAcked j
    match j.job with
    | some id => s.jobAcked id
    | none => s
  | .region p k i g => s.granuleDrained p k i g
  | .manifest p k => s.manifestAcked p k st
  | .replay id .. => s.jobAcked id
  | .fence => s
  | .cutAbort => s
  | .xstage _ => s

/-- Abandons every job with records on a stream (R363): status and cause are those of the event. -/
def State.abandonStream (s : State) (st status cause : Nat) : State :=
  let x := s.stream st
  let p := s.nat (kStreamOwner st)
  let pages := ((x.sent ++ x.again).filterMap fun r => match r.src with | .page j => some j | _ => none) ++ x.pages
  let jobs := (s.jobs.filter fun j => j.stream == st && (match j.kind with | .restore .. => false | _ => true))
  let usesCut := (s.cut p).streams.contains st && decide (s.nat (kCutState p) ≠ 0)
  let s := s.setStream st { byteOff := x.byteOff }
  let s := pages.foldl (fun s j => s.pageAbandoned j) s
  let s := jobs.foldl (fun s j => s.endJob j status cause) s
  if usesCut then s.abandonCut p status cause else s

/-- A retransmission: every record from ACK_SEQNO on is owed again, at the next stream byte offsets (R361); the stream sends
them as R356, R384 and R386 let it. -/
def State.resendAll (s : State) (st : Nat) : State :=
  let x := s.stream st
  (s.setStream st { x with sent := [], again := x.sent ++ x.again, retries := x.retries + 1 }).bump (kStreamRetries st)

/-- A retransmission, or, after RETRY_LIMIT of them for one ACK_SEQNO, the stream's ERROR (R361, R363). -/
def State.retransmit (s : State) (st : Nat) : State :=
  let x := s.stream st
  if s.streamUp st = false ∨ (x.sent = [] ∧ x.again = []) then s
  else if x.retries < s.nat (kRetryLimit st) then s.resendAll st
  else ((s.setNat (kStreamCtrl st) 2).abandonStream st 0x0A 3).dropCells st

/-- Applies an acknowledgement of a stream (R358 to R361). DEDUCED (log 71). -/
def State.applyAck (s : State) (st : Nat) (a : List Byte) : State :=
  let seqno := byteField a 0 8
  let bytes := byteField a 8 8
  let nak := byteField a 20 1
  let x := s.stream st
  if a.length ≠ 32 ∨ byteField a 28 4 ≠ crc32c (a.take 28) ∨ byteField a 16 2 ≠ st ∨
      byteField a 18 2 ≠ s.nat (kStreamEpoch st) ∨ seqno < s.nat (kAckSeqno st) ∨ s.nat (kNextSeqno st) < seqno ∨
      x.byteOff < bytes
  then s.bump (kAckInvalid st)
  else
    let left := fun (l : List SentRec) => l.filter fun r => decide (seqno ≤ r.seqno)
    let done := (x.sent ++ x.again).filter fun r => decide (r.seqno < seqno)
    let s := s.setStream st { x with sent := left x.sent, again := left x.again,
                                     retries := if s.nat (kAckSeqno st) < seqno then 0 else x.retries }
    let s := (s.setNat (kAckSeqno st) seqno).setNat (kAckBytes st) (max bytes (s.nat (kAckBytes st)))
    let s := done.foldl (fun s r => s.recAcked st r) s
    if nak ≠ 0 then (s.bump (kStreamNaks st)).retransmit st else s

/-! ### Stream control -/

/-- Writing DOWN to a stream abandons its jobs with ABORTED (R363). DEDUCED (log 70). -/
def State.streamGoDown (s : State) (st : Nat) : State :=
  if s.nat (kStreamCtrl st) = 0 then s else (((s.setNat (kStreamCtrl st) 0).abandonStream st 1 3).dropCells st).qpDown st

/-- A new stream epoch: STREAM_EPOCH rises by 1, and SEQNO, the byte offset, ACK_SEQNO and ACK_BYTES start from 0 (R347).
DEDUCED (log 70). -/
def State.newEpoch (s : State) (st : Nat) : State :=
  let s := s.setStream st {}
  let s := (s.setNat (kStreamCtrl st) 1).wrapAdd (kStreamEpoch st) 1 16
  (((s.setNat (kNextSeqno st) 0).setNat (kAckSeqno st) 0).setNat (kAckBytes st) 0).qpUp st

/-- Writing UP starts a new stream epoch, whatever the stream was (R347, R613); the jobs of a stream that was not DOWN are
abandoned as by a write of DOWN. DEDUCED (log 70). -/
def State.streamGoUp (s : State) (st : Nat) : State := (s.streamGoDown st).newEpoch st

/-! ### Receive windows -/

/-- A receive window beside its entries. -/
def State.win (s : State) (w : Nat) : WinSt := Tbl.get {} s.windows w

/-- The state with a receive window replaced. -/
def State.setWin (s : State) (w : Nat) (v : WinSt) : State := { s with windows := Tbl.set {} s.windows w v }

/-- The windows that a job's RESTORE names and the ones of them that are done. -/
def Job.restoreWins (j : Job) : Nat × List Nat :=
  match j.kind with
  | .restore _ _ _ _ _ winMask done => (winMask, done)
  | _ => (0, [])

/-- The RESTORE jobs in progress that name a window and are not done with it, oldest first. -/
def State.restoresOf (s : State) (w : Nat) : List Job :=
  s.jobs.filter fun j => j.tag.part == s.nat (kWinOwner w) && bitOf j.restoreWins.1 w && !j.restoreWins.2.contains w

/-- The RESTORE job that a window's records go to. -/
def State.restoreOf (s : State) (w : Nat) : Option Job := (s.restoresOf w).head?

/-- Whether a window is in the WIN_MASK of a RESTORE in progress (R392). -/
def State.inRestore (s : State) (w : Nat) : Bool :=
  s.jobs.any fun j => j.tag.part == s.nat (kWinOwner w) && bitOf j.restoreWins.1 w

/-- Closes a window, ending every RESTORE that names it and is not done with it (R392). -/
def State.closeWin (s : State) (w : Nat) : State :=
  (s.restoresOf w).foldl (fun s j => s.endJob j 1 7) ((s.setNat (kWinState w) 0).setWin w {})

/-- A RESTORE with every window done ends: OK where no table value is 0 (R391). -/
def State.endRestore (s : State) (j : Job) : State :=
  match j.kind with
  | .restore _ mask _ _ table _ _ =>
    if s.restoreMissing j.tag.part mask table = 0 then s.endJob j 0 0 else s.endJob j 1 6
  | _ => s

/-- A window of a RESTORE is done: it closes, and the last one ends the job (R390, R391). -/
def State.restoreWinDone (s : State) (j : Job) (w : Nat) : State :=
  let s := (s.setNat (kWinState w) 0).setWin w {}
  match j.kind with
  | .restore t m a b tab wm done =>
    let done := done ++ [w]
    let j' := { j with kind := .restore t m a b tab wm done }
    let s := s.modJob j.id fun _ => j'
    if (countFrom 0 32).all fun i => !bitOf wm i || done.contains i then
      s.endRestore j'
    else s
  | _ => s

/-- Applies a landed FENCE record to the imported fence of the partition that holds its handle (R518). -/
def State.applyFenceRecord (s : State) (p : Nat) (l : List Byte) : State :=
  let h := byteField l 32 8
  let gen := byteField l 40 4
  let op := byteField l 44 1
  let order := fun o => if o = 2 then 0 else if o = 1 then 1 else 2
  let cur := fun f => s.fenceValue f
  match (countFrom 0 4096).find? fun f =>
      s.fenceLife f == 1 && bitOf (s.fence f).toNat 5 && s.fencePart f == p && (s.handle f).toNat == h with
  | none => s.bump kFenceRecDiscards
  | some f =>
    let d := (gen + 2 ^ 32 - s.fenceGen f) % 2 ^ 32
    let newer := !bitOf (s.fence f).toNat 6 || (inRange 1 (2 ^ 31 - 1) d) || (d == 0 && decide (cur f < order op))
    if newer ∧ 1 ≤ op ∧ op ≤ 3 then
      let w := putFld (putFld (putFld (s.fence f) 63 32 gen) 3 2 (order op)) 6 6 1
      s.setReg (kFenceState f) w
    else s.bump kFenceRecDiscards

/-- A signal request reaches the owner of an exportable fence (R520). -/
def State.signalRequest (s : State) (handle gen : Nat) : State :=
  let f := handle / 2 ^ 16 % 2 ^ 12
  if f < 256 ∧ s.fenceLife f = 1 ∧ bitOf (s.fence f).toNat 4 = true ∧ (s.handle f).toNat = handle ∧
      s.fenceGen f = gen ∧ s.fenceValue f = 0
  then s.signalFence f else s.bump kFenceRecDiscards

/-- A FENCE record lands: a state record is applied, a request is served (R518, R520). -/
def State.fenceRecord (s : State) (p : Nat) (l : List Byte) : State :=
  if byteField l 44 1 = 4 then s.signalRequest (byteField l 32 8) (byteField l 40 4) else s.applyFenceRecord p l

/-- The number of a granule in a restore table (R389). -/
def State.restoreIndex (s : State) (p mask i g : Nat) : Nat :=
  (countFrom 0 i).foldl (fun n k => if bitOf mask k then n + (s.region p k).2 else n) g

/-- A RESTORE window handles a valid record (Table 9.9). -/
def State.restoreRecord (s : State) (w : Nat) (l : List Byte) : State :=
  let p := s.nat (kWinOwner w)
  let kind := byteField l 4 1
  if kind = 6 then s.fenceRecord p l
  else match s.restoreOf w with
    | none => s.bump (kWinDiscards w)
    | some j =>
      match j.kind with
      | .restore target mask tag part table _ _ =>
        if kind = 1 ∨ kind = 4 ∨ kind = 5 ∨ byteField l 8 2 ≠ tag ∨ byteField l 7 1 ≠ part then s.bump (kWinDiscards w)
        else if kind = 2 then
          let cut := byteField l 36 4
          let off := byteField l 40 8
          match (countFrom 0 16).find? fun i =>
              bitOf mask i && fld (s.reg (kRegionSpan p i)) 47 32 == byteField l 32 2 with
          | none => s.bump (kWinDiscards w)
          | some i =>
            if target < cut ∨ off % 65536 ≠ 0 ∨ (s.region p i).2 * 65536 ≤ off ∨ byteField l 24 4 ≠ 65536 then
              s.bump (kWinDiscards w)
            else
              let at_ := table + 4 * s.restoreIndex p mask i (off / 65536)
              let old := match s.vaRead p at_ 4 with | some b => leNat b | none => 0
              if cut ≤ old then s
              else
                let s := (s.vaWrite p ((s.region p i).1 + off) ((l.drop 64).take 65536) true).2
                let s := s.wrapAdd kRestoreBytes 65536
                let s := (s.vaWrite p at_ (leBytes 4 cut)).2
                s.modJob j.id fun j => { j with acked := j.acked + 1 }
        else if byteField l 32 4 = target then s.restoreWinDone j w
        else s
      | _ => s

/-- The bytes of a receive window's ring that stand for `len` stream bytes from `start` on (R357). -/
def State.winBytes (s : State) (w start len : Nat) : List Byte :=
  (countFrom start len).filterMap fun i =>
    (s.vaRead (s.nat (kWinOwner w)) (s.nat (kWinBase w) + i % max (s.nat (kWinBytes w)) 1) 1).bind (·.head?)

/-- ACK_BYTES of a receive window: WIN_CONSUMED of a LAND window, and what a RESTORE window has handled (R388, R390). -/
def State.winAckBytes (s : State) (w : Nat) : Nat :=
  if s.nat (kWinMode w) = 0 then s.nat (kWinConsumed w) else (s.win w).ackBytes

/-- Refuses a record (R358): `sender` is its STREAM and STREAM_EPOCH. -/
def State.winNak (s : State) (w via seqno ackBytes code : Nat) (sender : Nat × Nat) : State :=
  (s.bump (kWinNaks w)).ackSend via w (formAck seqno ackBytes sender.1 sender.2 code)

/-- The STREAM and STREAM_EPOCH that a record's acknowledgement names: those of its header, as it landed or as it passed, and
those of the window's sender where the header did neither. DEDUCED (log 71). -/
def State.winSender (s : State) (w start : Nat) (head : List Byte) : Nat × Nat :=
  let v := s.win w
  if (v.passed.any fun x => x.1 == start) || decide (start < s.winAckBytes w + s.nat (kWinBytes w))
  then (byteField head 10 2, byteField head 12 2) else (s.nat (kWinSender w) % 65536, v.epoch.getD 0)

/-- A valid record of the window's sender (R364, R388, R390): a duplicate is acknowledged, a gap refused, and the next one
accepted and handled. -/
def State.recordTaken (s : State) (w via upTo : Nat) (l : List Byte) : State :=
  let v := s.win w
  let from_ := (byteField l 10 2, byteField l 12 2)
  let seqno := byteField l 16 8
  let land := s.nat (kWinMode w) == 0
  if seqno < v.expect then
    let s := s.setWin w { v with ackBytes := upTo }
    s.ackSend via w (formAck v.expect (s.winAckBytes w) from_.1 from_.2 0)
  else if v.expect < seqno then s.winNak w via v.expect (s.winAckBytes w) 4 from_
  else
    let s := (s.setWin w { v with expect := seqno + 1, ackBytes := upTo }).wrapAdd (kWinRecords w)
    let ack := formAck (seqno + 1) (s.winAckBytes w) from_.1 from_.2 0
    let s := if land then (if byteField l 4 1 = 6 then s.fenceRecord (s.nat (kWinOwner w)) l else s)
      else s.restoreRecord w l
    s.ackSend via w ack

/-- A record lands in a receive window (R357, R364, R387, R388, R390): `via` is where it came from, `start` its stream byte
offset, `len` its bytes. -/
def State.recordLands (s : State) (w via start len : Nat) : State :=
  let l := s.winBytes w start len
  let v := s.win w
  let lost := v.passed.any fun x => decide (start ≤ x.1) && decide (x.1 < start + len)
  let head := match v.passed.find? fun x => x.1 == start with | some x => x.2 | none => l
  let from_ := s.winSender w start head
  let seqno := byteField head 16 8
  let expect := if v.epoch = some from_.2 then v.expect else 0
  let s := s.setWin w { v with passed := v.passed.filter fun x => decide (start + len ≤ x.1) }
  let ackB := s.winAckBytes w
  if s.nat (kWinState w) = 0 then s.ackSend via w (formAck seqno 0 from_.1 from_.2 3)
  else if lost || decide (ackB + s.nat (kWinBytes w) < start + len) then s.winNak w via expect ackB 2 from_
  else if recordCrcOk l = false then s.winNak w via expect ackB 1 from_
  else if recordFormatOk l = false then s.winNak w via expect ackB 4 from_
  else
    let sender := from_.1 + byteField l 8 2 * 65536
    if s.nat (kWinState w) = 2 ∧ s.nat (kWinSender w) ≠ sender then s.winNak w via seqno 0 3 from_
    else
      let v := s.win w
      let s := (s.setNat (kWinState w) 2).setNat (kWinSender w) sender
      let s := s.setWin w { v with epoch := some from_.2, expect := expect, recvBytes := start + len,
                                   ackBytes := if v.epoch = some from_.2 then v.ackBytes else 0 }
      s.recordTaken w via (start + len) l

/-! ### Descriptors that Sporangium runs (Table 9.3) -/

/-- How many jobs of a kind a partition has. -/
def State.jobCount (s : State) (p : Nat) (f : JobKind → Bool) : Nat :=
  (s.jobs.filter fun j => j.tag.part == p && f j.kind).length

/-- The DONE word of a descriptor as a job's tag. -/
def jobTag (d : Desc) (doneOff : Nat) : JobTag := ⟨d.part, d.ring, d.index, d.at doneOff 2⟩

/-- The status of a stream a descriptor names (Table 9.3). -/
def State.streamCheck (s : State) (p st : Nat) : Option Nat :=
  if s.nat (kStreamOwner st) ≠ p ∨ s.nat (kStreamCtrl st) = 0 then some 2
  else if s.nat (kStreamCtrl st) = 2 then some 0x0A else none

/-- The acceptance checks of a CUT (Table 9.3). -/
def State.cutCheck (s : State) (d : Desc) : Option Nat :=
  let p := d.part
  let mask := d.at 20 2
  let named := (countFrom 0 16).filter fun i => bitOf mask i
  let frame := d.at 24 8
  if mask = 0 ∨ (named.any fun i => (s.region p i).2 == 0) = true ∨ d.at 16 4 ≤ s.nat (kLastCutId p) ∨
      (frame ≠ 0 ∧ frame ≤ d.commitFrame) then some 2
  else match (named.filterMap fun i => s.streamCheck p (s.regionStream p i)).head? with
    | some st => some st
    | none => if s.nat (kCutState p) ≠ 0 then some 0x0B else none

/-- Accepts a CUT: LAST_CUT_ID, and CUT_STATE ARMED (R374). -/
def State.acceptCut (s : State) (d : Desc) : State :=
  let p := d.part
  let frame := if d.at 24 8 = 0 then d.commitFrame + 1 else d.at 24 8
  let s := (s.setNat (kLastCutId p) (d.at 16 4)).setNat (kCutState p) 1
  let t := { s with nextId := s.nextId + 1 }
  t.setCut p { serial := s.nextId, cutId := d.at 16 4, cutFrame := frame, mask := d.at 20 2, full := bitOf (d.at 22 1) 0,
               tag := jobTag d 32 }

/-- The acceptance checks of a REPLAY (Table 9.3, R394). DEDUCED (log 73). -/
def State.replayCheck (s : State) (d : Desc) : Option Nat :=
  match s.streamCheck d.part (d.at 28 1) with
  | some st => some st
  | none =>
    if d.at 24 4 = 0 ∨ 65536 < d.at 24 4 then some 2
    else if 16 ≤ s.jobCount d.part fun k => match k with | .replay _ => true | _ => false then some 0x0B else none

/-- The acceptance checks of a RESTORE (Table 9.3, R389). -/
def State.restoreCheck (s : State) (d : Desc) : Option Nat :=
  let p := d.part
  let wins := (countFrom 0 32).filter fun w => bitOf (d.at 24 4) w
  if (wins.any fun w => s.nat (kWinOwner w) != p || s.nat (kWinMode w) != 1 || s.nat (kWinState w) != 1) = true then some 2
  else if 16 ≤ s.jobCount p fun k => match k with | .restore .. => true | _ => false then some 0x0B else none

/-- Abandons every job of a partition's descriptors whose ring meets `f`, with ABORTED and cause DESTROY (R505). -/
def State.abandonJobs (s : State) (p : Nat) (f : Nat → Bool) : State :=
  let mine := s.jobs.filter fun j => j.tag.part == p && f j.tag.ring
  let s := mine.foldl (fun (s : State) (j : Job) =>
    let x := s.stream j.stream
    let isMine := fun (r : PageJob) => r.job == some j.id
    let pages : List PageJob := x.pages.filter isMine
    let s : State := if pages = [] then s else s.setStream j.stream { x with pages := x.pages.filter fun r => !isMine r }
    let s := pages.foldl (fun s r => s.pageAbandoned r) s
    s.endJob j 1 4) s
  let c := s.cut p
  if s.nat (kCutState p) ≠ 0 ∧ f c.tag.ring = true then s.abandonCut p 1 4 else s

end Sys2Proof.Machine
end

