-- ==== Sys2Proof/Machine/CollBase.lean ====
section
/-!
DEFINITION. Machine/CollBase.lean: collective groups, member sets and their ports, the stages of an operation, and how a
collective that fails leaves its group.
-/
namespace Sys2Proof.Machine

/-! ### Planes and groups (R436 to R442) -/

/-- DIM_X. -/
def State.dimX (s : State) : Nat := max (bitsOf (s.nat kPlaneDim) 3 0) 1
/-- DIM_Y. -/
def State.dimY (s : State) : Nat := max (bitsOf (s.nat kPlaneDim) 7 4) 1

/-- KIND of a GROUP_DEF: 0 OFF, 1 AXIS_X, 2 AXIS_Y, 3 BLOCK (Table 11.1). -/
def gKind (w : Nat) : Nat := bitsOf w 1 0
/-- PART of a GROUP_DEF. -/
def gPart (w : Nat) : Nat := bitsOf w 11 6
/-- Planes of the cross-plane stage. -/
def gPlanes (w : Nat) : Nat := bitsOf w 17 12 + 1
/-- XSTREAM of a GROUP_DEF. -/
def gXstream (w : Nat) : Nat := bitsOf w 25 18
/-- XWIN of a GROUP_DEF. -/
def gXwin (w : Nat) : Nat := bitsOf w 30 26
/-- XWAIT_FR of a GROUP_DEF. -/
def gXwait (w : Nat) : Nat := bitsOf w 47 32

/-- A device's member set of a group: its width and height, the device's offsets from the corner, and the peers of each
axis, each with its offset and port (R437, R441, R442). -/
structure Members where
  nx : Nat
  ny : Nat
  xr : Nat
  yr : Nat
  xs : List (Nat × Nat)
  ys : List (Nat × Nat)
  deriving DecidableEq, Repr

/-- The member set that a GROUP_DEF gives this device (R441). -/
def State.members (s : State) (w : Nat) : Members :=
  let x := s.nat kPlaneX
  let y := s.nat kPlaneY
  let dx := s.dimX
  let dy := s.dimY
  let nx := if gKind w = 1 then dx else if gKind w = 3 then 2 ^ bitsOf w 3 2 else 1
  let ny := if gKind w = 2 then dy else if gKind w = 3 then 2 ^ bitsOf w 5 4 else 1
  let x0 := if gKind w = 1 then 0 else x - x % nx
  let y0 := if gKind w = 2 then 0 else y - y % ny
  let xs := ((countFrom 0 nx).filter fun i => x0 + i != x).map fun i => (i, (x0 + i + dx - x - 1) % dx)
  let ys := ((countFrom 0 ny).filter fun i => y0 + i != y).map fun i => (i, 7 + (y0 + i + dy - y - 1) % dy)
  ⟨nx, ny, x - x0, y - y0, xs, ys⟩

/-- Members of the set. -/
def Members.n (m : Members) : Nat := m.nx * m.ny
/-- Rank of this device. -/
def Members.rank (m : Members) : Nat := m.xr * m.ny + m.yr
/-- The peers of an axis. -/
def Members.peers (m : Members) (axisY : Bool) : List (Nat × Nat) := if axisY then m.ys else m.xs
/-- Members along an axis. -/
def Members.along (m : Members) (axisY : Bool) : Nat := if axisY then m.ny else m.nx
/-- This device's offset along an axis. -/
def Members.mine (m : Members) (axisY : Bool) : Nat := if axisY then m.yr else m.xr

/-- Cells per frame that a port's active transmit table gives a group (R457). -/
def State.portCells (s : State) (n g : Nat) : Nat :=
  ((countFrom 0 s.slotsPerFrame).map fun k =>
    let e := s.txEntry n k
    if slotClass e = 2 ∧ slotGroup e = g then slotLimit e (s.portC n) else 0).foldl (· + ·) 0

/-- The least of a list of numbers; 0 where it is empty. -/
def leastOf (l : List Nat) : Nat := match l with | [] => 0 | a :: t => t.foldl min a

/-- K of a group on an axis (R457). -/
def State.axisK (s : State) (g : Nat) (m : Members) (axisY : Bool) : Nat :=
  leastOf ((m.peers axisY).map fun x => s.portCells x.2 g)

/-- Whether a DEGRADED port of the list has an oversize slot of a group: one whose CELL_LIMIT exceeds C (R423). -/
def State.oversize (s : State) (g : Nat) (cls : Nat) (ports : List (Nat × Nat)) : Bool :=
  ports.any fun x => s.laneCount x.2 == 3 && s.nat (kPortState x.2) == 3 &&
    (countFrom 0 s.slotsPerFrame).any fun k =>
      let e := s.txEntry x.2 k
      slotClass e == cls && slotGroup e == g && decide (s.portC x.2 < bitsOf e 25 16)

/-! ### Fields of a collective descriptor (Tables 11.2, 13.12) -/

/-- The collective word. -/
def Desc.cw (d : Desc) : Nat := d.at 16 8
/-- OP. -/
def Desc.cOp (d : Desc) : Nat := bitsOf d.cw 3 0
/-- DTYPE: 0 INT32, 1 FP32, 2 TAGGED, 3 BYTES. -/
def Desc.cType (d : Desc) : Nat := bitsOf d.cw 6 4
/-- REDOP: 0 SUM, 1 MAX, 2 MIN, 3 AND, 4 OR. -/
def Desc.cRed (d : Desc) : Nat := bitsOf d.cw 9 7
/-- GROUP. -/
def Desc.cGroup (d : Desc) : Nat := bitsOf d.cw 14 10
/-- ROOT. -/
def Desc.cRoot (d : Desc) : Nat := bitsOf d.cw 20 15
/-- COUNT of a RHIZOID. -/
def Desc.cCount (d : Desc) : Nat := bitsOf d.cw 24 21 + 1
/-- B. -/
def Desc.cBytes (d : Desc) : Nat := bitsOf d.cw 63 32
/-- Bytes of the tag word that TAGGED buffers begin with. -/
def Desc.cTag (d : Desc) : Nat := if d.cType = 2 then 8 else 0

/-! ### Stages (Table 11.5) -/

/-- What a stage does. -/
inductive StageKind where
  | rs | ag | bc | a2a | cross
  deriving DecidableEq, Repr

/-- A stage: its kind, its axis, the cells it sends on each port, and its settle frames (R454, R458). -/
structure Stage where
  kind : StageKind
  axisY : Bool
  cells : Nat
  settle : Nat
  deriving DecidableEq, Repr

/-- The stages of an operation in order; a stage whose axis has a single member is skipped. -/
def State.stages (s : State) (w : Nat) (d : Desc) : List Stage :=
  let m := s.members w
  let b := d.cBytes
  let rs := fun (axisY : Bool) (input : Nat) =>
    (⟨.rs, axisY, input / (256 * m.along axisY) + b2n (d.cType == 2),
      max 1 ((input + 256 * s.frameLen * 320 - 1) / (256 * s.frameLen * 320))⟩ : Stage)
  let x := rs false b
  let y := rs true (b / m.nx)
  let ag := fun (axisY : Bool) (cells : Nat) => (⟨.ag, axisY, cells, 1⟩ : Stage)
  let all : List Stage :=
    match d.cOp with
    | 0 => [x, y]
    | 1 => [ag false (b / (256 * m.n)), ag true (b / (256 * m.ny))]
    | 2 => [x, y] ++ (if gPlanes w = 1 then [] else [(⟨.cross, false, 0, 0⟩ : Stage)]) ++
        [ag true (b / (256 * m.n)), ag false (b / (256 * m.nx))]
    | 3 => [⟨.bc, false, b / 256, 1⟩, ⟨.bc, true, b / 256, 1⟩]
    | 4 => [⟨.a2a, false, b / (256 * m.nx), 1⟩, ⟨.a2a, true, b / (256 * m.ny), 1⟩]
    | _ => []
  all.filter fun (st : Stage) => st.kind == .cross || decide (1 < m.along st.axisY)

/-- E of a stage (R457). -/
def State.exchangeFrames (s : State) (g w : Nat) (st : Stage) : Nat :=
  let k := s.axisK g (s.members w) st.axisY
  (st.cells + k - 1) / max k 1

/-- Whether this member sends in a stage (Table 11.5, BROADCAST). -/
def Desc.stageSends (d : Desc) (m : Members) (st : Stage) : Bool :=
  if st.kind = .bc then
    if st.axisY then d.cRoot % m.ny == m.yr else d.cRoot == m.rank
  else true

/-- Whether this member expects the cells of a stage from the peer at an offset. -/
def Desc.stageExpects (d : Desc) (m : Members) (st : Stage) (rel : Nat) : Bool :=
  if st.kind = .bc then
    if st.axisY then d.cRoot % m.ny == rel && m.yr != rel
    else d.cRoot / m.ny == rel && d.cRoot % m.ny == m.yr && m.xr != rel
  else true

/-- Bytes that an operation uses of SRC, DST and SCRATCH (Table 11.3, R455). -/
def State.collLens (s : State) (w : Nat) (d : Desc) : Nat × Nat × Nat :=
  let m := s.members w
  let b := d.cBytes
  let t := d.cTag
  let scratch := (s.stages w d).foldl (fun n st =>
    if st.kind = .rs then
      let blk := if st.axisY then b / (m.nx * m.ny) else b / m.nx
      max n ((m.along st.axisY - 1) * (blk + t))
    else n) 0
  match d.cOp with
  | 0 => (b + t, b / m.n + t, scratch)
  | 1 => (b / m.n, b, 0)
  | 2 => (b + t, b + t, scratch)
  | 3 => (if d.cRoot = m.rank then b else 0, b, 0)
  | 4 => (b, b, 0)
  | _ => (4 * d.cCount, 4 * d.cCount, 0)

/-! ### Leaving a group -/

/-- A group beside its entries. -/
def State.coll (s : State) (g : Nat) : CollSt := Tbl.get {} s.colls g

/-- The state with a group replaced. -/
def State.setColl (s : State) (g : Nat) (v : CollSt) : State := { s with colls := Tbl.set {} s.colls g v }

/-- Collectives of a group that are queued or running. -/
def CollSt.count (c : CollSt) : Nat := c.queue.length + c.rhzWait.length + c.rhz.length

/-- The bytes of a buffer become undefined: free values (R451). -/
def State.undefine (s : State) (p field n : Nat) : State :=
  if n = 0 then s
  else
    let l := freeBytes s.free n
    let s := { s with free := s.free + n }
    if bitOf field 63 then
      match decodeSAddr (field % 2 ^ 32) with
      | some a => s.writeRows p a l
      | none => s
    else (s.vaWrite p (field % 2 ^ 48) l).2

/-- Takes a group's waiting collective cells off its ports. -/
def State.dropColl (s : State) (g : Nat) : State :=
  (countFrom 0 14).foldl (fun s n =>
    let p := s.port n
    if p.coll.any fun c => c.1 == g then s.setPort n { p with coll := p.coll.filter fun c => c.1 != g } else s) s

/-- Takes a RHIZOID's waiting cells off the ports. -/
def State.dropRhz (s : State) (g seq : Nat) : State :=
  (countFrom 0 14).foldl (fun s n =>
    let p := s.port n
    let mine := fun (c : RhzCell) => c.group == g && c.offset / 2 ^ 24 == seq % 256
    if p.rhz.any mine then s.setPort n { p with rhz := p.rhz.filter fun c => !mine c } else s) s

/-- A descriptor leaves its group's queue, and the group serves it no more. -/
def State.collLeave (s : State) (g id : Nat) : State :=
  let c := s.coll g
  let running := match c.run with | some r => r.desc == id | none => false
  let s := if running then s.dropColl g else s
  let s := match c.rhz.find? fun r => r.desc == id with | some r => s.dropRhz g r.seq | none => s
  s.setColl g { c with queue := c.queue.filter (fun x => x.1 != id), rhzWait := c.rhzWait.filter (fun x => x.1 != id),
                       rhz := c.rhz.filter (fun r => r.desc != id), run := if running then none else c.run,
                       early := if running then [] else c.early, xq := if running then [] else c.xq,
                       lastDone := if running then s.tb.ticks else c.lastDone }

/-- A collective ends with a status other than OK (R463): DST and SCRATCH become undefined, but for CAPACITY_REDUCED, which
writes nothing (R423). DEDUCED (log 77). -/
def State.collFail (s : State) (g id status : Nat) : State :=
  match s.desc? id with
  | none => s
  | some d =>
    let w := match (s.coll g).queue.find? fun x => x.1 == id with
      | some x => x.2.1
      | none => s.nat (kGroupDef g)
    let lens := s.collLens w d
    let s := (s.bump (kCollFails g)).endDesc id status
    let s := s.collLeave g id
    if status = 0x0E then s
    else (s.undefine d.part (d.at 32 8) lens.2.1).undefine d.part (d.at 40 8) lens.2.2

/-- Every descriptor of a group, waiting or served. -/
def CollSt.descs (c : CollSt) : List Nat := c.queue.map (·.1) ++ c.rhzWait.map (·.1) ++ c.rhz.map (·.desc)

/-- Ends the collectives of a partition whose ring meets `f` with ABORTED (R453, R503). -/
def State.abortCollectives (s : State) (p : Nat) (f : Nat → Bool) : State :=
  (countFrom 0 32).foldl (fun s g =>
    ((s.coll g).descs.filter fun id => match s.desc? id with
      | some d => d.part == p && f d.ring && !d.ended
      | none => false).foldl (fun s id => s.collFail g id 1) s) s

end Sys2Proof.Machine
end

