-- ==== Sys2Proof/Machine/Objects.lean ====
section
/-!
DEFINITION. Machine/Objects.lean: partitions, contexts, rings and fences, their life cycle and forced aborts, and the
ownership of cores, sectors and granules.
-/
namespace Sys2Proof.Machine

/-! ### Listing objects -/

/-- The written slots of a run of `n` slots from `lo` on, by offset. -/
def State.slotsIn (s : State) (lo n : Nat) : List (Nat × Word) :=
  s.regs.filterMap fun (k, v) => if lo ≤ k ∧ k < lo + n then some (k - lo, v) else none

/-- The contexts of a partition that are not FREE. -/
def State.ctxsOf (s : State) (p : Nat) : List Nat :=
  ((s.slotsIn (kCtxState 0) 1024).filter fun (_, v) => fld v 1 0 != 0 && fld v 13 8 == p).map (·.1)

/-- The rings that are not FREE and whose context meets `f`. -/
def State.ringsWhere (s : State) (f : Nat → Bool) : List Nat :=
  (countFrom 0 128).filter fun r => s.ringLife r != 0 && f (s.nat (kRingCtx r))

/-- The fences that are not FREE and whose context meets `f`. -/
def State.fencesWhere (s : State) (f : Nat → Bool) : List Nat :=
  ((s.slotsIn (kFenceState 0) 4096).filter fun (_, v) => fld v 1 0 != 0 && f (fld v 25 16)).map (·.1)

/-- A quota refusal sets QUOTA_REFUSED (R480). -/
def State.quotaRefused (s : State) (p : Nat) : State := s.partEvent p 2

/-! ### Run-ahead squash (R568, R569) -/

/-- Squashes the run-ahead work of a ring for the descriptors whose first entries meet `f`; each squash adds 1 to its cause's
counter, and the SPEC bytes it fetched become undefined (R148, R569). -/
def State.squashWhere (s : State) (r : Nat) (f : Nat → Bool) (counter : Nat) : State :=
  let gone := s.runahead.filter fun w => w.ring == r && f w.cons
  if gone = [] then s
  else
    let s := { s with runahead := s.runahead.filter fun w => !(w.ring == r && f w.cons) }
    let s := gone.foldl (fun (s : State) w =>
      match w.fetchedB with
      | some (a, n) => { s with free := s.free + n }.lsPut (a / 2 ^ 20) (a % 2 ^ 20) (freeBytes s.free n)
      | none => s) s
    s.bump counter

/-- Squashes the run-ahead work of a ring from the descriptor at `cons` on (R569). -/
def State.squashFrom (s : State) (r cons counter : Nat) : State :=
  s.squashWhere r (fun c => decide ((c + 2 ^ 32 - cons) % 2 ^ 32 < 2 ^ 31)) counter

/-- Squashes all run-ahead work of a ring. DEDUCED (log 62). -/
def State.squash (s : State) (r : Nat) (counter : Nat) : State := s.squashWhere r (fun _ => true) counter

/-- Squashes all run-ahead work of a partition's rings that meet `f`. -/
def State.squashPart (s : State) (p : Nat) (f : Nat → Bool) (counter : Nat) : State :=
  ((s.runahead.map (·.ring)).eraseDups.filter fun r => s.ringPart r == p && f r).foldl
    (fun s r => s.squash r counter) s

/-! ### Forced aborts -/

/-- The signal fence of a descriptor, where it names one. -/
def Desc.signal? (d : Desc) : Option Nat := if d.flag 1 then some (bitsOf d.raw 39 28) else none

/-- The raw entries of the descriptor that stands first in a list of fetched entries, and the rest; none where its
entries are not all there. -/
def takeDesc (l : List (Nat × Nat)) : Option (Nat × Nat × Nat × List (Nat × Nat)) :=
  match l with
  | [] => none
  | (e, _) :: _ =>
    let n := opEntries (e % 256)
    let mine := l.take n
    if mine.length < n then none
    else some ((mine.foldr (fun x acc => x.1 + acc * 2 ^ 512) 0), n, (mine.map (·.2)).foldl max 0, l.drop n)

/-- The descriptors that stand in a list of entries; a last one whose entries are not all there is not one. -/
def descsOf : Nat → List (Nat × Nat) → List Nat
  | 0, _ => []
  | fuel + 1, l =>
    match takeDesc l with
    | none => []
    | some (raw, _, _, rest) => raw :: descsOf fuel rest

/-- Drops the uncommitted descriptors of a ring up to the last accepted producer index (R504), and breaks their signal
fences (R506). -/
def State.dropUncommitted (s : State) (r : Nat) : State :=
  let x := s.ring r
  let p := s.ringPart r
  let cons := s.nat (kRingCons r)
  let left := (s.nat (kRingProd r) + 2 ^ 32 - cons) % 2 ^ 32
  let size := max (s.nat (kRingEntries r)) 1
  let more := (countFrom (cons + x.fetched.length) (left - x.fetched.length)).map fun i =>
    (match s.vaRead p (s.nat (kRingBase r) + 64 * (i % size)) 64 with | some b => leNat b | none => 0, 0)
  let descs := descsOf left (x.fetched ++ more)
  let s := s.bump (kDroppedUncommitted r) descs.length
  let s := descs.foldl (fun s raw =>
    if bitOf raw 9 then s.breakFence (bitsOf raw 39 28) else s) s
  (s.setRing r { x with fetched := [] }).setNat (kRingCons r) (s.nat (kRingProd r))

/-- Deals with an abort's uncommitted descriptors and fences (R504, R506). -/
def State.abortDrop (s : State) (j : AbortJob) : State :=
  if j.dropped then s
  else
    let s := j.rings.foldl (fun s r => s.dropUncommitted r) s
    let s := j.fences.foldl (fun s f => s.breakFence f) s
    { s with aborts := replaceFirst (fun x => x.id == j.id) (fun x => { x with dropped := true }) s.aborts }

/-- A fence passes to QUIESCING. -/
def State.fenceQuiesce (s : State) (f : Nat) : State := s.setReg (kFenceState f) (putFld (s.fence f) 1 0 2)

/-- Starts a forced abort (R502, R505): nothing of its rings commits any more, run-ahead is squashed, collectives and jobs
end, and the objects pass to QUIESCING. -/
def State.startAbort (s : State) (kind : AbortKind) (p : Nat) (rings ctxs fences : List Nat) : State :=
  let s := s.squashPart p rings.contains (kSquashOther p)
  let s := rings.foldl (fun s r =>
    (s.setNat (kRingState r) 2).setRing r { s.ring r with stop := .abort }) s
  let s := rings.foldl (fun s r => s.setNat (kRingEnabled r) 0) s
  let s := ctxs.foldl (fun s c => s.setReg (kCtxState c) (putFld (s.reg (kCtxState c)) 1 0 2)) s
  let s := fences.foldl (fun s f => s.fenceQuiesce f) s
  let s := s.abortCollectives p rings.contains
  let s := s.abandonJobs p rings.contains
  { s with aborts := s.aborts ++ [⟨s.nextId, kind, p, rings, ctxs, fences, false⟩], nextId := s.nextId + 1 }

/-- The objects of a partition that no abort in progress holds yet. -/
def State.startPartAbort (s : State) (p : Nat) (destroy : Bool) : State :=
  let live := (s.ctxsOf p).filter fun c => s.ctxLife c == 1
  let all := s.ctxsOf p
  let rings := (s.ringsWhere all.contains).filter fun r => (s.ring r).stop != .abort
  let fences := (s.fencesWhere all.contains).filter fun f => s.fenceLife f == 1
  (s.setNat (kPartRun p) 3).startAbort (.part destroy) p rings live fences

/-- A ring becomes FREE at the end of a forced abort (R501). -/
def State.freeRing (s : State) (p r : Nat) : State :=
  let s' := (((s.setNat (kRingState r) 0).setNat (kRingEnabled r) 0).setNat (kReenablePending r) 0).setRing r {}
  if s.nat (kReenablePending r) = 1 then s'.partEvent p 3 else s'

/-- A fence becomes FREE; its GEN stays (R509), and its recorded writers are forgotten (R838). -/
def State.freeFence (s : State) (f : Nat) : State :=
  { s.setReg (kFenceState f) (wd (s.fenceGen f * 2 ^ 32)) with fenceWr := Tbl.set {} s.fenceWr f {} }

/-- A released granule: retired where it is retire-pending (R739), else queued for zeroing (R529). -/
def State.releaseGranule (s : State) (g : Nat) : State :=
  if bitOf (s.oct kRetirePending (g / 8)) (g % 8) then
    let s := (s.setOct kGranuleOwner g 0xFD).setOct kRetirePending (g / 8)
      (BitVec.ofNat 8 (s.oct kRetirePending (g / 8) - 2 ^ (g % 8)))
    s.setNat kHbmGranulesUsable (s.nat kHbmGranulesUsable - 1)
  else { s.setOct kGranuleOwner g 0xFE with granuleQueue := s.granuleQueue ++ [g] }

/-- Zeroes what a logical slot's core holds: its LS sectors, its Accumulator Store and its tile tags (R491). -/
def State.zeroCore (s : State) (c : Nat) : State :=
  { (s.lsZero c 0 (2 ^ 20)).mend (accUnit c 0) 32768 with
           acc := Tbl.drop (fun k => k / 32768 == c) s.acc,
           asSat := Tbl.drop (fun k => k / 32768 == c) s.asSat,
           asTags := Tbl.drop (fun k => k / 65536 == c) s.asTags }

/-- Zeroes the core of a logical slot, where the slot is mapped. -/
def State.zeroSlot (s : State) (f sl : Nat) : State :=
  match s.coreAt f sl with
  | some c => s.zeroCore c
  | none => s

/-- Makes the cores, Frond Store sectors and granules of a destroyed partition unowned (R490). -/
def State.disown (s : State) (p : Nat) : State :=
  let s := (countFrom 0 128).foldl (fun s i =>
    if s.slotOwner (i / 8) (i % 8) = p then
      (s.setReg (kCoreOwner (i / 8)) (putFld (s.reg (kCoreOwner (i / 8))) (8 * (i % 8) + 7) (8 * (i % 8)) 0xFF)).zeroSlot
        (i / 8) (i % 8)
    else s) s
  let s := (countFrom 0 16).foldl (fun s f =>
    (countFrom 0 256).foldl (fun s k =>
      if s.oct (kFsOwner f) k = p then (s.zeroSector ⟨true, f, 0, k * 16384⟩).setOct (kFsOwner f) k 0xFF else s) s) s
  let s := (countFrom 0 192).foldl (fun s g => if s.granuleOwner g = p then s.releaseGranule g else s) s
  s.startZeroing [p]

/-- Every dictionary slot of a partition goes back to its default (R486, R616). -/
def State.partDefaults (s : State) (p : Nat) : State :=
  let mine := fun k => (decide ((0x3000 + 0x40 * p) * 256 ≤ k) && decide (k < (0x3040 + 0x40 * p) * 256)) ||
    (decide ((0x6000 + 8 * p) * 256 ≤ k) && decide (k < (0x6008 + 8 * p) * 256)) ||
    (decide ((0x6400 + 4 * p) * 256 ≤ k) && decide (k < (0x6404 + 4 * p) * 256))
  { s with regs := Tbl.drop mine s.regs, cuts := Tbl.set {} s.cuts p {},
           clean := Tbl.drop (fun k => k / 2 ^ 36 == p) s.clean }

/-- DESTROY of a partition, once its contexts are gone (R490): streams DOWN, windows CLOSED, groups OFF, the pool emptied,
its cores, sectors and granules unowned; then it is FREE. -/
def State.destroyPart (s : State) (p : Nat) : State :=
  let s := (countFrom 0 256).foldl (fun s st => if s.nat (kStreamOwner st) = p then s.streamGoDown st else s) s
  let s := (countFrom 0 32).foldl (fun s w => if s.nat (kWinOwner w) = p then s.closeWin w else s) s
  let s := (countFrom 0 32).foldl (fun s g =>
    if fld (s.reg (kGroupDef g)) 1 0 ≠ 0 ∧ fld (s.reg (kGroupDef g)) 11 6 = p
    then s.setReg (kGroupDef g) (putFld (s.reg (kGroupDef g)) 1 0 0) else s) s
  let s := s.abandonJobs p fun _ => true
  let s := (s.emptyPool p).disown p
  let s := s.setPool p {}
  let s := { s with recov := s.recov.map fun (r : Recovery) => if r.part = p then { r with part := 0xFF, runs := [], count := 0 } else r,
                    holds := s.holds.map fun (h : Hold) => { h with parts := h.parts.filter (· != p) } }
  ((s.setNat (kPartState p) 0).setNat (kPartRun p) 0).setNat (kHaltCause p) 1

/-- ABORT_COMPLETE of one forced abort (R508): every committed descriptor of its rings has completed; its objects become
FREE, and an aborted partition becomes HALTED. -/
def State.finishAbort (s : State) (j : AbortJob) : State :=
  let p := j.part
  let s := s.abortDrop j
  let s := { s with aborts := s.aborts.filter fun x => x.id != j.id }
  let s := j.rings.foldl (fun s r => s.freeRing p r) s
  let s := j.fences.foldl (fun s f => s.freeFence f) s
  let s := j.ctxs.foldl (fun s c => s.setReg (kCtxState c) 0) s
  let s := (s.bump (kAbortsDone p)).partEvent p 1
  match j.kind with
  | .part true => s.destroyPart p
  | .part false => ((s.setNat (kPartRun p) 0).setNat (kHaltCause p) 4).partEvent p 0
  | .ctx _ => s
  | .ring _ => s
  | .fence _ => s

/-! ### Partition commands -/

/-- The effect of PART_CTRL CREATE (R486). -/
def createPart (p : Nat) (s : State) (_ : EntLoc) : Except Reason State :=
  if s.partState p ≠ 0 then .error .busy
  else
    let s := s.partDefaults p
    let s := s.layersDefault p
    .ok (((s.setNat (kPartState p) 1).setNat (kPartRun p) 0).setNat (kHaltCause p) 1)

/-- The effect of PART_CTRL DESTROY (R484, R490, R837). -/
def destroyPartCmd (p : Nat) (s : State) (_ : EntLoc) : Except Reason State :=
  if p = 0 ∨ s.partState p = 0 then .error .state
  else if s.partState p = 2 then .ok s
  else .ok ((s.setNat (kPartState p) 2).startPartAbort p true)

/-- Halts a RUNNING partition (R487): commits stop, run-ahead is squashed. DEDUCED (log 78). -/
def State.haltPart (s : State) (p cause : Nat) : State :=
  if s.partState p = 1 ∧ s.partRun p = 1 then
    ((s.squashPart p (fun _ => true) (kSquashOther p)).setNat (kPartRun p) 2).setNat (kHaltCause p) cause
  else s

/-- The effect of PART_CTRL HALT (R487, R837). -/
def haltPartCmd (p : Nat) (s : State) (_ : EntLoc) : Except Reason State :=
  if s.partState p = 0 then .error .state else .ok (s.haltPart p 1)

/-- The effect of PART_CTRL RESUME (R488, R345, R815). DEDUCED (log 78). -/
def resumePartCmd (p : Nat) (s : State) (_ : EntLoc) : Except Reason State :=
  let c := s.nat (kHaltCause p)
  if s.partState p ≠ 1 ∨ s.partRun p ≠ 0 ∨ ¬ (c = 1 ∨ c = 2 ∨ c = 4) ∨ s.nat kStopState ≠ 0 ∨ s.poolEmptying p = true
  then .error .state
  else .ok ((s.setNat (kPartRun p) 1).setNat (kHaltCause p) 0)

/-- A partition's reset forgets the seeds that its cores' generators were last loaded with (R223, R705).
DEDUCED (log 78). -/
def State.forgetSeeds (s : State) (p : Nat) : State :=
  { s with seeds := s.seeds.filter fun x =>
      !((countFrom 0 128).any fun i => s.slotOwner (i / 8) (i % 8) == p && s.coreAt (i / 8) (i % 8) == some (x.1 / 16)) }

/-- ABORT of a partition (R489, R705, R837). DEDUCED (log 78). -/
def State.abortPart (s : State) (p : Nat) : State :=
  if s.partState p = 1 ∧ s.partRun p ≠ 3 then (s.forgetSeeds p).startPartAbort p false else s

/-- The effect of PART_CTRL ABORT. -/
def abortPartCmd (p : Nat) (s : State) (_ : EntLoc) : Except Reason State :=
  if s.partState p = 0 then .error .state else .ok (s.abortPart p)

/-- A HALTING partition whose last committed descriptor has completed becomes HALTED (Table 12.3). -/
def State.haltedReached (s : State) (p : Nat) : State :=
  if s.partRun p = 2 ∧ s.partDescs p = [] ∧ (s.recov.any fun r => r.part == p && !r.done) = false then (s.setNat (kPartRun p) 0).partEvent p 0 else s

/-! ### Context commands -/

/-- The effect of CTX_CTRL CREATE (R492, R480). -/
def createCtx (c p : Nat) (s : State) (_ : EntLoc) : Except Reason State :=
  if s.partState p ≠ 1 ∨ s.partRun p = 3 then .error .state
  else if s.ctxLife c ≠ 0 then .error .busy
  else if s.nat (kCtxQuota p) ≤ (s.ctxsOf p).length then .error .quota
  else .ok (s.setReg (kCtxState c) (wd (1 + p * 256)))

/-- The effect of CTX_CTRL DESTROY (R493, R837). -/
def destroyCtx (c : Nat) (s : State) (_ : EntLoc) : Except Reason State :=
  if s.ctxLife c = 0 then .error .state
  else if s.ctxLife c = 2 then .ok s
  else
    let rings := (s.ringsWhere (· == c)).filter fun r => (s.ring r).stop != .abort
    let fences := (s.fencesWhere (· == c)).filter fun f => s.fenceLife f == 1
    .ok (s.startAbort (.ctx c) (s.ctxPart c) rings [c] fences)

/-! ### Ring commands -/

/-- Whether a ring's layout entries are valid at CREATE (R573). -/
def State.ringLayoutOk (s : State) (r : Nat) : Bool :=
  let p := s.ringPart r
  let n := s.nat (kRingEntries r)
  let k := s.nat (kCqSlots r)
  let cq := s.nat (kCqBase r)
  s.nat (kRingBase r) % 4096 == 0 && pow2In 16 65536 n && pow2In 16 65536 k && cq % 256 == 0 &&
  s.mapped p (s.nat (kRingBase r)) (64 * n) false &&
  (bitOf cq 63 || s.mapped p cq (16 * k) true) &&
  decide (s.nat (kIrqVector r) < (if p = 0 then 2048 else 64))

/-- The effect of RING_CTRL CREATE (R494, R573, R480). -/
def createRing (r : Nat) (s : State) (_ : EntLoc) : Except Reason State :=
  let c := s.nat (kRingCtx r)
  let p := s.ctxPart c
  if s.ringLife r ≠ 0 then .error .busy
  else if s.ctxLife c ≠ 1 ∨ (96 ≤ r ∧ (fld (s.reg (kGroupDef (r - 96))) 11 6 ≠ p ∨ fld (s.reg (kGroupDef (r - 96))) 1 0 = 0)) ∨
      s.ringLayoutOk r = false then .error .state
  else if s.nat (kRingQuota p) ≤ (s.ringsWhere fun c' => s.ctxPart c' == p).length then .error .quota
  else
    let s := ((s.setNat (kRingState r) 1).setNat (kRingEnabled r) 0).setNat (kReenablePending r) 0
    let s := ((s.setNat (kRingProd r) 0).setNat (kRingCons r) 0).setNat (kCqProd r) 0
    .ok ((s.setNat (kCqCons r) 0).setRing r {})

/-- The effect of RING_CTRL ENABLE (R496, R499). -/
def enableRing (r : Nat) (s : State) (_ : EntLoc) : Except Reason State :=
  if s.ringLife r = 0 then .error .state
  else if s.ringLife r = 2 then .ok (s.setNat (kReenablePending r) 1)
  else if s.nat (kRingEnabled r) = 1 then .ok s
  else .ok ((s.setNat (kRingEnabled r) 1).setRing r { s.ring r with lastCommit := none })

/-- The effect of RING_CTRL DISABLE (R497, R499). -/
def disableRing (r : Nat) (s : State) (_ : EntLoc) : Except Reason State :=
  if s.ringLife r = 0 then .error .state
  else if s.ringLife r = 2 then .ok (s.setNat (kReenablePending r) 0)
  else if s.nat (kRingEnabled r) = 0 then .ok s
  else
    let s := s.squash r (kSquashOther (s.ringPart r))
    let s := (s.setNat (kRingState r) 2).setNat (kRingEnabled r) 0
    .ok (s.setRing r { s.ring r with stop := .drain })

/-- The effect of RING_CTRL DESTROY (R481, R837). -/
def destroyRing (r : Nat) (s : State) (_ : EntLoc) : Except Reason State :=
  if s.ringLife r = 0 then .error .state
  else if (s.ring r).stop = .abort then .ok s
  else .ok (s.startAbort (.ring r) (s.ringPart r) [r] [] [])

/-- The last committed descriptor of a draining ring has completed: the ring becomes ACTIVE (R500). -/
def State.drainComplete (s : State) (r : Nat) : State :=
  if s.ringLife r = 2 ∧ (s.ring r).stop = .drain ∧ s.ringDescs r = [] then
    let re := s.nat (kReenablePending r)
    let s := ((s.setNat (kRingState r) 1).setNat (kRingEnabled r) re).setNat (kReenablePending r) 0
    s.setRing r { s.ring r with stop := .running, lastCommit := none }
  else s

/-! ### Fence commands -/

/-- The effect of FENCE_CTRL CREATE (R509, R514, R517, R838, R480). -/
def createFence (who : Requester) (f c : Nat) (ex im : Bool) (s : State) (_ : EntLoc) : Except Reason State :=
  let p := s.ctxPart c
  let mine := fun (g : Nat) => s.ctxPart g == p
  let w := Tbl.get {} s.fenceWr f
  let writerOk := match who with
    | .vf q => (w.handle == some q || w.handle == some 0) && (w.link == some q || w.link == some 0)
    | _ => true
  if (ex = true ∧ 256 ≤ f) ∨ (ex = true ∧ im = true) then .error .range
  else if s.fenceLife f ≠ 0 then .error .busy
  else if s.ctxLife c ≠ 1 ∨ (im = true ∧ writerOk = false) then .error .state
  else if s.nat (kFenceQuota p) ≤ (s.fencesWhere mine).length ∨
      (ex = true ∧ s.nat (kXfenceQuota p) ≤ ((s.fencesWhere mine).filter fun g => bitOf (s.fence g).toNat 4).length)
  then .error .quota
  else
    let gen := (s.fenceGen f + 1) % 2 ^ 32
    let s := s.setReg (kFenceState f)
      (wd (1 + b2n ex * 16 + b2n im * 32 + c * 2 ^ 16 + gen * 2 ^ 32))
    if ex then
      let h := BitVec.ofNat 64 (s.nat kInstallTag + f * 2 ^ 16 + (Config.handleKey s.free).toNat * 2 ^ 32)
      .ok ({ s with fenceHandle := Tbl.set 0 s.fenceHandle f h }.takeFree.fenceNotify f)
    else .ok s

/-- The effect of FENCE_CTRL DESTROY: the fence becomes BROKEN and a forced abort frees it (R506, R837). -/
def destroyFence (f : Nat) (s : State) (_ : EntLoc) : Except Reason State :=
  if s.fenceLife f = 0 then .error .state
  else if s.fenceLife f = 2 then .ok s
  else .ok ((s.breakFence f).startAbort (.fence f) (s.fencePart f) [] [] [f])

/-- The effect of FENCE_CTRL SIGNAL (R510). -/
def signalFenceCmd (f : Nat) (s : State) (_ : EntLoc) : Except Reason State :=
  if s.fenceLife f ≠ 1 then .error .state else .ok (s.signalFence f)

/-- RESET of a fence: UNSIGNALLED with the next GEN (R509, R511). -/
def State.resetFence (s : State) (f : Nat) : State :=
  (s.setReg (kFenceState f) (putFld (putFld (s.fence f) 3 2 0) 63 32 ((s.fenceGen f + 1) % 2 ^ 32))).fenceNotify f

/-- Whether a fence may be RESET: ACTIVE, and its context ACTIVE (R511). -/
def State.mayReset (s : State) (f : Nat) : Bool := s.fenceLife f == 1 && s.ctxLife (fld (s.fence f) 25 16) == 1

/-- The effect of FENCE_CTRL RESET (R511). -/
def resetFenceCmd (f : Nat) (s : State) (_ : EntLoc) : Except Reason State :=
  if s.mayReset f then .ok (s.resetFence f) else .error .state

/-- The effect of a FENCE_SUBS write (R515): every named stream belongs to the fence's partition, and each is told the
fence's present state. -/
def writeFenceSubs (f : Nat) (v : Word) (s : State) (_ : EntLoc) : Except Reason State :=
  let subs := (countFrom 0 4).map fun i => bitsOf v.toNat (8 * i + 7) (8 * i)
  if (subs.any fun st => decide (st < 255) && s.nat (kStreamOwner st) != s.fencePart f) = true then .error .state
  else
    let s := s.setReg (kFenceSubs f) v
    if s.fenceLife f = 1 then .ok (s.fenceNotify f) else .ok s

/-- The partition recorded for a writer of a FREE fence's entries (R838). -/
def writerPart : Requester → Nat
  | .vf p => p
  | _ => 0

/-- The effect of a FENCE_HANDLE or FENCE_LINK write (R838). -/
def writeFenceHandle (who : Requester) (f : Nat) (link : Bool) (v : Word) (s : State) (_ : EntLoc) :
    Except Reason State :=
  let w := Tbl.get {} s.fenceWr f
  if s.fenceLife f ≠ 0 then .error .state
  else if link then
    .ok { s.setReg (kFenceLink f) v with fenceWr := Tbl.set {} s.fenceWr f { w with link := some (writerPart who) } }
  else
    .ok { s with fenceHandle := Tbl.set 0 s.fenceHandle f v,
                 fenceWr := Tbl.set {} s.fenceWr f { w with handle := some (writerPart who) } }

/-- Whether a fence-page write of a function is applied: its partition owns the fence, and GEN is current (R522). -/
def State.fencePageOk (s : State) (fn f gen : Nat) : Bool :=
  decide (f < 256) && s.fenceLife f == 1 && s.fencePart f == fn && s.fenceGen f == gen

/-- Whether a function's BAR0 is served: the PF always, a VF only when it exists and from READY on (R767, R769). -/
def State.bar0Ok (s : State) (fn : Nat) : Bool := s.ready && (fn == 0 || s.hasVf fn)

/-! ### Ownership -/

/-- The effect of a CORE_OWNER write (R491, R726, R727): both owners of every changed byte halted; the changed cores are
zeroed, and a CAPACITY halt whose last unmapped slot is released becomes a HOST halt. DEDUCED (log 44). -/
def writeCoreOwner (f : Nat) (v : Word) (s : State) (_ : EntLoc) : Except Reason State :=
  let old := s.reg (kCoreOwner f)
  let byte := fun (w : Word) (i : Nat) => bitsOf w.toNat (8 * i + 7) (8 * i)
  let changed := (countFrom 0 8).filter fun i => byte old i != byte v i
  if (changed.any fun i => !(s.ownerHalted (byte old i)) || !(s.ownerHalted (byte v i)) ||
      (decide (byte v i < 64) && s.ready && (s.coreAt f i).isNone)) = true then .error .state
  else
    let s := s.setReg (kCoreOwner f) v
    let s := changed.foldl (fun s i => s.zeroSlot f i) s
    let parts := ((changed.map (byte old) ++ changed.map (byte v)).filter (· < 64)).eraseDups
    let s := if changed = [] then s else s.startZeroing parts
    let s := parts.foldl (fun s p =>
      if s.nat (kHaltCause p) = 3 ∧ ((countFrom 0 128).any fun i =>
          s.slotOwner (i / 8) (i % 8) == p && (s.coreAt (i / 8) (i % 8)).isNone) = false
      then s.setNat (kHaltCause p) 1 else s) s
    .ok s

/-- The effect of a GRANULE_OWNER write (R528): free to an ACTIVE partition, or a halted partition to free.
DEDUCED (log 44). -/
def writeGranuleOwner (bytes : List Byte) (s : State) (_ : EntLoc) : Except Reason State :=
  let changed := (countFrom 0 192).filter fun g => (bytes.getD g 0).toNat != s.granuleOwner g
  let new := fun (g : Nat) => (bytes.getD g 0).toNat
  if (changed.any fun g => decide (64 ≤ new g) && new g != 0xFF && new g != 0xFE && new g != 0xFD) = true then .error .range
  else if (changed.all fun g =>
      (s.granuleOwner g == 0xFF && decide (new g < 64) && s.partState (new g) == 1) ||
      (decide (s.granuleOwner g < 64) && new g == 0xFF && s.halted (s.granuleOwner g))) = false then .error .state
  else .ok (changed.foldl (fun s g =>
    if new g = 0xFF then s.releaseGranule g else s.setOct kGranuleOwner g (BitVec.ofNat 8 (new g))) s)

/-- Lichen finishes zeroing the first released granule: it is free, or retired where a retirement is pending (R529,
R739). -/
def State.granuleZeroed (s : State) : State :=
  match s.granuleQueue with
  | [] => s
  | g :: rest =>
    let s := { s with granuleQueue := rest, hbm := clearBytes s.hbm (g * 2 ^ 28) (2 ^ 28) }
    if bitOf (s.oct kRetirePending (g / 8)) (g % 8) then { s.releaseGranule g with granuleQueue := rest }
    else s.setOct kGranuleOwner g 0xFF

/-! ### Meanings -/

/-- PART_CREATE (R486). -/
def execPartCreate (who : Requester) (part : Nat) (s : State) : Host.Outcome State Fault Refusal :=
  .next (s.slotWrite who .partCtrl (kPartCtrl part) 1 (createPart part))

/-- PART_DESTROY (R490). -/
def execPartDestroy (who : Requester) (part : Nat) (s : State) : Host.Outcome State Fault Refusal :=
  .next (s.slotWrite who .partCtrl (kPartCtrl part) 2 (destroyPartCmd part))

/-- PART_HALT (R487). -/
def execPartHalt (who : Requester) (part : Nat) (s : State) : Host.Outcome State Fault Refusal :=
  .next (s.slotWrite who .partCtrl (kPartCtrl part) 3 (haltPartCmd part))

/-- PART_RESUME (R488). -/
def execPartResume (who : Requester) (part : Nat) (s : State) : Host.Outcome State Fault Refusal :=
  .next (s.slotWrite who .partCtrl (kPartCtrl part) 4 (resumePartCmd part))

/-- PART_ABORT (R489). -/
def execPartAbort (who : Requester) (part : Nat) (s : State) : Host.Outcome State Fault Refusal :=
  .next (s.slotWrite who .partCtrl (kPartCtrl part) 5 (abortPartCmd part))

/-- HALTED_REACHED (R485). -/
def execHaltedReached (part : Nat) (s : State) : Host.Outcome State Fault Refusal := .next (s.haltedReached part)

/-- Records a quota refusal in PART_EVENTS where a CREATE met one (R480, R621). -/
def quotaEvent (p : Nat) (r : Except Reason State) (s : State) : State :=
  match r with
  | .error .quota => s.quotaRefused p
  | _ => s

/-- CTX_CREATE (R492). -/
def execCtxCreate (who : Requester) (ctx part : Nat) (s : State) : Host.Outcome State Fault Refusal :=
  let v := wd (1 + part * 256)
  let r := match s.gateSlot who .ctxCtrl (kCtxCtrl ctx) v with
    | .error e => .error e
    | .ok l => createCtx ctx part s l
  if s.requesterOk who then
    .next (quotaEvent part r (s.finishWrite who (kCtxCtrl ctx / 256) (kCtxCtrl ctx % 256) r))
  else .next s

/-- CTX_DESTROY (R493). -/
def execCtxDestroy (who : Requester) (ctx : Nat) (s : State) : Host.Outcome State Fault Refusal :=
  .next (s.slotWrite who .ctxCtrl (kCtxCtrl ctx) 2 (destroyCtx ctx))

/-- RING_CREATE (R573). -/
def execRingCreate (who : Requester) (ring : Nat) (s : State) : Host.Outcome State Fault Refusal :=
  let r := match s.gateSlot who .ringCtrl (kRingCtrl ring) 1 with
    | .error e => .error e
    | .ok l => createRing ring s l
  if s.requesterOk who then
    .next (quotaEvent (s.ringPart ring) r (s.finishWrite who (kRingCtrl ring / 256) (kRingCtrl ring % 256) r))
  else .next s

/-- RING_ENABLE (R496). -/
def execRingEnable (who : Requester) (ring : Nat) (s : State) : Host.Outcome State Fault Refusal :=
  .next (s.slotWrite who .ringCtrl (kRingCtrl ring) 2 (enableRing ring))

/-- RING_DISABLE (R497). -/
def execRingDisable (who : Requester) (ring : Nat) (s : State) : Host.Outcome State Fault Refusal :=
  .next (s.slotWrite who .ringCtrl (kRingCtrl ring) 3 (disableRing ring))

/-- RING_DESTROY (R502). -/
def execRingDestroy (who : Requester) (ring : Nat) (s : State) : Host.Outcome State Fault Refusal :=
  .next (s.slotWrite who .ringCtrl (kRingCtrl ring) 4 (destroyRing ring))

/-- DRAIN_COMPLETE (R500). -/
def execDrainComplete (ring : Nat) (s : State) : Host.Outcome State Fault Refusal := .next (s.drainComplete ring)

/-- ABORT_COMPLETE (R508): only once no descriptor of the abort's rings is uncompleted and, for a partition, no other abort
of the partition is in progress. -/
def execAbortComplete (job : Nat) (s : State) : Host.Outcome State Fault Refusal :=
  match s.aborts.find? fun j => j.id == job with
  | none => .next s
  | some j =>
    let whole := match j.kind with | .part _ => true | _ => false
    if (s.inflight.any fun d => j.rings.contains d.ring || (whole && d.part == j.part)) ||
        (whole && s.aborts.any fun x => x.part == j.part && x.id != j.id) then .next s
    else .next (s.finishAbort j)

/-- FENCE_CREATE (R509). -/
def execFenceCreate (who : Requester) (fence ctx : Nat) (exportable imported : Bool) (s : State) :
    Host.Outcome State Fault Refusal :=
  let v := wd (1 + b2n exportable * 8 + b2n imported * 16 + ctx * 2 ^ 16)
  let k := kFenceCtrl fence
  let r := match s.gateSlot who .fenceCtrl k v with
    | .error e => .error e
    | .ok l => createFence who fence ctx exportable imported s l
  if s.requesterOk who then .next (quotaEvent (s.ctxPart ctx) r (s.finishWrite who (k / 256) (k % 256) r)) else .next s

/-- FENCE_DESTROY (R506). -/
def execFenceDestroy (who : Requester) (fence : Nat) (s : State) : Host.Outcome State Fault Refusal :=
  .next (s.slotWrite who .fenceCtrl (kFenceCtrl fence) 2 (destroyFence fence))

/-- FENCE_SIGNAL_CMD (R510). -/
def execFenceSignalCmd (who : Requester) (fence : Nat) (s : State) : Host.Outcome State Fault Refusal :=
  .next (s.slotWrite who .fenceCtrl (kFenceCtrl fence) 3 (signalFenceCmd fence))

/-- FENCE_RESET (R511). -/
def execFenceReset (who : Requester) (fence : Nat) (s : State) : Host.Outcome State Fault Refusal :=
  .next (s.slotWrite who .fenceCtrl (kFenceCtrl fence) 4 (resetFenceCmd fence))

/-- FENCE_SUBS_WRITE (R515). -/
def execFenceSubsWrite (who : Requester) (fence : Nat) (v : Word) (s : State) : Host.Outcome State Fault Refusal :=
  .next (s.slotWrite who .fenceSubs (kFenceSubs fence) v (writeFenceSubs fence v))

/-- FENCE_HANDLE_WRITE (R838). -/
def execFenceHandleWrite (who : Requester) (fence : Nat) (link : Bool) (v : Word) (s : State) :
    Host.Outcome State Fault Refusal :=
  .next (s.slotWrite who (if link then .fenceLink else .fenceHandle)
    (if link then kFenceLink fence else kFenceHandle fence) v (writeFenceHandle who fence link v))

/-- FENCE_PAGE_SIGNAL (R522). -/
def execFencePageSignal (fn fence gen : Nat) (s : State) : Host.Outcome State Fault Refusal :=
  if s.bar0Ok fn = false then .next s
  else if s.fencePageOk fn fence gen then .next (s.signalFence fence) else .next (s.bump kFencePageStale)

/-- FENCE_PAGE_RESET (R522). -/
def execFencePageReset (fn fence gen : Nat) (s : State) : Host.Outcome State Fault Refusal :=
  if s.bar0Ok fn = false then .next s
  else if s.fencePageOk fn fence gen && s.mayReset fence then .next (s.resetFence fence)
  else .next (s.bump kFencePageStale)

/-- CORE_OWNER_WRITE (R491). -/
def execCoreOwnerWrite (who : Requester) (frond : Nat) (v : Word) (s : State) : Host.Outcome State Fault Refusal :=
  .next (s.slotWrite who .coreOwner (kCoreOwner frond) v (writeCoreOwner frond v))

/-- GRANULE_OWNER_WRITE (R528). -/
def execGranuleOwnerWrite (who : Requester) (bytes : List Byte) (s : State) : Host.Outcome State Fault Refusal :=
  .next (s.dictLong who (kGranuleOwner / 256) (kGranuleOwner % 256) bytes (writeGranuleOwner bytes))

/-- GRANULE_ZEROED (R529). -/
def execGranuleZeroed (s : State) : Host.Outcome State Fault Refusal := .next s.granuleZeroed

/-- MAP_BASE_WRITE (R523). -/
def execMapBaseWrite (who : Requester) (part : Nat) (v : Word) (s : State) : Host.Outcome State Fault Refusal :=
  .next (s.slotWrite who .mapBase (kMapBase part) v fun s _ => .ok (s.setReg (kMapBase part) v))

/-- The effect of a MAP_SYNC write: the cached translations of the partition go at the next frame boundary (R526). -/
def writeMapSync (p : Nat) (s : State) (_ : EntLoc) : Except Reason State :=
  .ok { s with mapSyncs := s.mapSyncs ++ [p] }

/-- MAP_SYNC (R526). -/
def execMapSync (who : Requester) (part : Nat) (v : Word) (s : State) : Host.Outcome State Fault Refusal :=
  .next (s.slotWrite who .mapSync (kMapSync part) v (writeMapSync part))

/-- The effect of a RUNAHEAD write: held work is squashed, and the value applies from the next frame (R574). -/
def writeRunahead (p : Nat) (v : Word) (s : State) (_ : EntLoc) : Except Reason State :=
  .ok (((s.squashPart p (fun _ => true) (kSquashOther p)).keepLive (kRunahead p)).setReg (kRunahead p) v)

/-- RUNAHEAD_WRITE (R574). -/
def execRunaheadWrite (who : Requester) (part : Nat) (v : Word) (s : State) : Host.Outcome State Fault Refusal :=
  .next (s.slotWrite who .runahead (kRunahead part) v (writeRunahead part v))

end Sys2Proof.Machine
end

