-- ==== Sys2Proof/Machine/Engine.lean ====
section
/-!
DEFINITION. Machine/Engine.lean: how a descriptor's engine reads and writes, posted writes and their landing, and the
completion of descriptors.
-/
namespace Sys2Proof.Machine

/-! ### Status codes (Table 21.4) -/

/-- OK. -/
def stOk : Nat := 0
/-- ABORTED. -/
def stAborted : Nat := 1
/-- TILE_ILLEGAL. -/
def stTileIllegal : Nat := 2
/-- BOUNDS_FAULT. -/
def stBoundsFault : Nat := 3
/-- PAGE_ABSENT. -/
def stPageAbsent : Nat := 4
/-- GEN_CONFLICT. -/
def stGenConflict : Nat := 5
/-- FENCE_BROKEN. -/
def stFenceBroken : Nat := 6
/-- FRAME_OVERRUN. -/
def stFrameOverrun : Nat := 7
/-- ECC_UNCORRECTED. -/
def stEcc : Nat := 8
/-- OWNER_MISMATCH. -/
def stOwnerMismatch : Nat := 9
/-- EXPORT_NAK. -/
def stExportNak : Nat := 0x0A
/-- BUSY. -/
def stBusy : Nat := 0x0B
/-- CUT_ABORTED. -/
def stCutAborted : Nat := 0x0C
/-- SLOT_VIOLATION. -/
def stSlotViolation : Nat := 0x0D
/-- CAPACITY_REDUCED. -/
def stCapacityReduced : Nat := 0x0E
/-- PRECISION_MISMATCH. -/
def stPrecisionMismatch : Nat := 0x0F

/-! ### Address operands -/

/-- An address operand: a store address, or a device virtual address of the partition (R447). -/
inductive Addr where
  | store (a : SAddr)
  | va (v : Nat)
  deriving DecidableEq, Repr

/-- Decodes an address field of the form of R447; none for a reserved bit, KIND or SLOT. -/
def decodeAddr (f : Nat) : Option Addr :=
  if bitOf f 63 then if bitsOf f 62 32 = 0 then (decodeSAddr (f % 2 ^ 32)).map .store else none
  else if bitsOf f 62 48 = 0 then some (.va (f % 2 ^ 48)) else none

/-- An address `n` bytes further on. -/
def Addr.plus (a : Addr) (n : Nat) : Addr :=
  match a with
  | .store x => .store { x with off := x.off + n }
  | .va v => .va (v + n)

/-! ### Errors in HBM -/

/-- The row of an HBM address: 1 KiB of one bank, the unit of repair (R737). DEDUCED (log 56). -/
def hbmRowOf (pa : Nat) : Nat := pa / 1024

/-- Device times no more than `span` ns before now. DEDUCED (log 79). -/
def State.recent (s : State) (span : Nat) (l : List Nat) : List Nat := l.filter fun t => decide (s.nat kDevTimeNs ≤ t + span)

/-- A row is queued for repair, once. -/
def State.queueRow (s : State) (row : Nat) : State :=
  if s.hbmRows.contains row then s else { s with hbmRows := s.hbmRows ++ [row] }

/-- An HBM read error is attributed to its row, which is queued on its first uncorrectable error or at HBM_CE_LIMIT
corrected ones within 24 h (R737). DEDUCED (log 79). -/
def State.hbmError (s : State) (pa : Nat) (corrected : Bool) : State :=
  let row := hbmRowOf pa
  if corrected then
    let l := s.recent 86400000000000 (Tbl.get [] s.hbmCe row) ++ [s.nat kDevTimeNs]
    let s := { s with hbmCe := Tbl.set [] s.hbmCe row l }
    if s.nat kHbmCeLimit ≤ l.length then s.queueRow row else s
  else
    let s := if s.hbmBad.contains row then s else { s with hbmBad := s.hbmBad ++ [row] }
    s.queueRow row

/-! ### Faults of a core (R710, R717) -/

/-- Frames from one frame number to another. -/
def framesFrom (a b : Nat) : Nat := (b + 2 ^ 48 - a) % 2 ^ 48

/-- Whether a logical slot is in recovery: its committed descriptors do not run, and accesses to it wait (R710, R712). -/
def State.slotStopped (s : State) (f sl : Nat) : Bool := s.recov.any fun r => r.frond == f && r.slot == sl && !r.done

/-- A run put into its place in commit order. -/
def insertRun (r : RecRun) (l : List RecRun) : List RecRun :=
  (l.takeWhile fun x => decide (x.desc.id < r.desc.id)) ++ r :: l.dropWhile fun x => decide (x.desc.id < r.desc.id)

/-- Whether a descriptor counts as completed for a recovery: it has completed, or an error has ended it. -/
def Desc.isOver (d : Desc) : Bool := d.completed || (d.ended && d.status != 0)

/-- The window descriptors of a fault on a slot, in commit order: completed ones of the last REPLAY_FR frames, and every one
not completed (R717). -/
def State.windowRuns (s : State) (f sl p : Nat) : List RecRun :=
  let here := fun (d : Desc) => coreRun d.opcode && !d.refused && d.core == (f, sl) && d.part == p
  let late := fun (d : Desc) => decide (framesFrom d.commitFrame s.frameNo < s.nat (kReplayFr p))
  let old := s.copies.filter fun d => here d && late d
  let now := s.inflight.filter fun d => here d && !d.isOver
  let done := s.inflight.filter fun d => here d && d.isOver && !(old.any fun e => e.id == d.id) && late d
  ((old ++ done).map (fun d => (⟨d, false⟩ : RecRun)) ++ now.map fun d => (⟨d, true⟩ : RecRun)).foldl (fun l r => insertRun r l) []

/-- A CORE fault on the core of a logical slot (R710, R711, R722): the core's unissued writes are discarded, run-ahead of the
partition is squashed, and the recovery hold begins.  A fault of a spare in recovery begins its recovery again.
DEDUCED (log 79). -/
def State.coreFault (s : State) (core cause : Nat) : State :=
  match s.coreSlot core with
  | none => s
  | some (f, sl) =>
    let p := s.slotOwner f sl
    let runs := if p < 64 then s.windowRuns f sl p else []
    let r : Recovery := { frond := f, slot := sl, core := core, part := p, frame := s.tb.ticks, mark := s.tb.ticks,
                          cause := cause, runs := runs, count := runs.length }
    let begin_ := fun (s : State) =>
      let s := if p < 64 then (s.squashPart p (fun _ => true) (kSquashCore p)).setNat (kRecoveryState p) 1 else s
      runs.foldl (fun (s : State) r =>
        if r.reissue then s.modDesc r.desc.id fun d => { d with ended := false, status := 0, torn := false } else s) s
    match s.recov.find? fun x => x.frond == f && x.slot == sl && !x.done with
    | some old =>
      if old.core = core then s
      else
        let rest := s.recov.filter fun x => !(x.frond == f && x.slot == sl && !x.done)
        begin_ { s with recov := rest ++ [{ r with frame := old.frame }] }
    | none => begin_ { s with recov := s.recov ++ [r] }

/-! ### Errors in stores (R142, R144, R145) -/

/-- Uncorrectable errors of one core's Local Store or Accumulator Store are counted, and ECC_FENCE_LIMIT of them within a second
are a CORE fault of that core (R145, Table 18.1). DEDUCED (log 79). -/
def State.coreEcc (s : State) (c n : Nat) : State :=
  if n = 0 then s
  else
    let s := s.bump (kLsEccUncorrected c) n
    let l := s.recent 1000000000 (Tbl.get [] s.eccRun c) ++ List.replicate n (s.nat kDevTimeNs)
    let s := { s with eccRun := Tbl.set [] s.eccRun c l }
    if s.nat kEccFenceLimit ≤ l.length then s.coreFault c 2 else s

/-- What a read of a store row found: the words corrected and the words that could not be, counted at the store that held
them (Tables 3.10, 3.11). -/
def State.eccCount (s : State) (a : SAddr) (fixed bad : Nat) : State :=
  if a.fs then (s.add (kFsEccCorrected a.frond) fixed).add (kFsEccUncorrected a.frond) bad
  else match s.coreAt a.frond a.slot with
    | some c => (s.add (kLsEccCorrected c) fixed).coreEcc c bad
    | none => s

/-- The first protected unit of a place in a store. -/
def State.unitAt (s : State) (a : SAddr) : Nat :=
  if a.fs then fsUnit a.frond a.off
  else match s.coreAt a.frond a.slot with
    | some c => lsUnit c a.off
    | none => 2 ^ 30

/-- The words of a store row that a read corrects, and those that it finds uncorrectable (Table 3.9). DEDUCED (log 100). -/
def State.eccRow (s : State) (a : SAddr) (n : Nat) : Nat × Nat :=
  let g := if s.sectorWeight a then 2 else 1
  let l := wrongBits s.flips g (s.unitAt a) (unitsOf a.off n)
  ((l.filter fun b => decide (0 < b) && decide (b ≤ g)).length, (l.filter fun b => decide (g < b)).length)

/-- A descriptor's read of a row of a store passes its error check, or ends it with ECC_UNCORRECTED (R145). -/
def State.eccRead (s : State) (id : Nat) (a : SAddr) (n : Nat) : Bool × State :=
  let x := s.eccRow a n
  if x.2 = 0 then (true, s.eccCount a x.1 0) else (false, (s.endDesc id stEcc).eccCount a x.1 x.2)

/-- A descriptor's read of a line that the present command found bad: the descriptor ends with ECC_UNCORRECTED, and an HBM
error is put down to its row (R145, R737). -/
def State.lineBad (s : State) (id : Nat) (x : Bool × Nat) : State :=
  let s := s.endDesc id stEcc
  if x.1 then s.hbmError x.2 false else s

/-! ### Reads and writes of a descriptor -/

/-- Whether a posted write covers a place's byte. -/
def PostedWrite.byteAt (w : PostedWrite) (pl : Place) : Option Byte :=
  match w.place, pl with
  | .store a b c o, .store a' b' c' o' =>
    if a = a' ∧ b = b' ∧ c = c' ∧ o ≤ o' then w.bytes[o' - o]? else none
  | .hbm _ _ pa, .hbm _ _ pa' => if pa ≤ pa' then w.bytes[pa' - pa]? else none
  | _, _ => none

/-- A place `n` bytes further on. -/
def Place.plus (p : Place) (n : Nat) : Place :=
  match p with
  | .store a b c o => .store a b c (o + n)
  | .hbm p va pa => .hbm p (va + n) (pa + n)

/-- Bytes read by a descriptor: its own posted writes win over what has landed (R581). -/
def State.overlay (s : State) (id : Nat) (pl : Place) (l : List Byte) : List Byte :=
  let mine := (s.posted.filter fun w => w.desc == id).reverse
  if mine = [] then l
  else (l.zipIdx).map fun (b, i) => ((mine.findSome? fun w => w.byteAt (pl.plus i)).getD b)

/-- A descriptor's first blocked access: FILTER_BLOCKS rises and the descriptor ends with ABORTED (R151). -/
def State.blocked (s : State) (id : Nat) : State := (s.bump kFilterBlocks).endDesc id stAborted

/-- A descriptor that has not ended leaves the rest of its output regions undefined (R525). -/
def State.tornDesc (s : State) (id : Nat) : State :=
  s.modDesc id fun d => if d.ended then d else { d with torn := true }

/-- A descriptor's access to an unmapped address: MAP_FAULTS rises and it ends with the status of R525. -/
def State.unmapped (s : State) (d : Desc) (status : Nat := stBoundsFault) : State :=
  ((s.bump (kMapFaults d.part)).tornDesc d.id).endDesc d.id status

/-- One row or line a descriptor reads: none, and the descriptor ended, where it is blocked or unmapped. -/
def State.fetchRow (s : State) (d : Desc) (a : Addr) (n : Nat) : Option (List Byte) × State :=
  match a with
  | .store x =>
    if !x.fs && s.slotStopped x.frond x.slot then (none, { s with slotWait := true })
    else if s.filterOk d.part x then
      match s.eccRead d.id x n with
      | (true, t) => (some (s.overlay d.id (.store x.fs x.frond x.slot x.off) (s.storeRead x n)), t)
      | (false, t) => (none, t)
    else (none, s.blocked d.id)
  | .va v =>
    match s.translate d.part v false with
    | (some pa, s) =>
      let s := s.mscTouch pa false
      match s.errs.find? fun x => x.2 / 256 == pa / 256 with
      | some x => (none, s.lineBad d.id x)
      | none => (some (s.overlay d.id (.hbm d.part v pa) (s.hbmRead pa n)), s)
    | (none, s) => (none, s.unmapped d)

/-- The row size that cuts an access (R117, R578). -/
def Addr.row : Addr → Nat
  | .store x => x.row
  | .va _ => 256

/-- The offset that an access is cut by. -/
def Addr.pos : Addr → Nat
  | .store x => x.off
  | .va v => v

/-- The address with its offset replaced. -/
def Addr.at (a : Addr) (o : Nat) : Addr :=
  match a with
  | .store x => .store { x with off := o }
  | .va _ => .va o

/-- Bytes a descriptor reads, row by row. -/
def State.fetch (s : State) (d : Desc) (a : Addr) (n : Nat) : Option (List Byte) × State :=
  (cutRows a.row (n + 1) a.pos (List.replicate n (0 : Byte))).foldl (fun acc (x : Nat × List Byte) =>
    match acc with
    | (none, s) => (none, s)
    | (some l, s) =>
      match s.fetchRow d (a.at x.1) x.2.length with
      | (some b, s) => (some (l ++ b), s)
      | (none, s) => (none, s)) (some [], s)

/-- One row or line a descriptor writes: posted, or the descriptor ended where it is blocked or unmapped (R129, R151,
R525). -/
def State.issueRow (s : State) (d : Desc) (a : Addr) (l : List Byte) : Bool × State :=
  match a with
  | .store x =>
    if s.filterOk d.part x then
      (true, { s with posted := s.posted ++ [⟨d.id, d.part, .store x.fs x.frond x.slot x.off, l, s.frameNo⟩] })
    else (false, s.blocked d.id)
  | .va v =>
    match s.translate d.part v true with
    | (some pa, s) => (true, { s with posted := s.posted ++ [⟨d.id, d.part, .hbm d.part v pa, l, s.frameNo⟩] })
    | (none, s) => (false, s.unmapped d)

/-- Bytes a descriptor writes, row by row, in ascending order; it issues no further access after one that ended it.
DEDUCED (log 61). -/
def State.issue (s : State) (d : Desc) (a : Addr) (l : List Byte) : Bool × State :=
  (cutRows a.row (l.length + 1) a.pos l).foldl (fun acc (x : Nat × List Byte) =>
    if acc.1 then acc.2.issueRow d (a.at x.1) x.2 else acc) (true, s)

/-! ### Landing -/

/-- Whether two posted writes touch a common byte. -/
def PostedWrite.overlaps (v w : PostedWrite) : Bool :=
  match v.place, w.place with
  | .store a b c o, .store a' b' c' o' =>
    a == a' && b == b' && c == c' && decide (o < o' + w.bytes.length) && decide (o' < o + v.bytes.length)
  | .hbm _ _ pa, .hbm _ _ pa' => decide (pa < pa' + w.bytes.length) && decide (pa' < pa + v.bytes.length)
  | _, _ => false

/-- A completion status that a landing gives a descriptor still without its record; an earlier failure stands. -/
def State.failDesc (s : State) (id status : Nat) : State :=
  s.modDesc id fun d =>
    if d.ended && d.status != 0 then d
    else { d with ended := true, status := status, endFrame := if d.ended then d.endFrame else s.frameNo }

/-- A write lands at its destination (R575): in the core its slot maps to now (R113), past the filter (R150), or in HBM.
DEDUCED (log 61). -/
def State.land (s : State) (w : PostedWrite) : State :=
  match w.place with
  | .store fs f sl o =>
    let a : SAddr := ⟨fs, f, sl, o⟩
    if s.filterOk w.part a then s.foreWrite a w.bytes else (s.bump kFilterBlocks).failDesc w.desc stAborted
  | .hbm p va pa => (s.hbmPut p va pa w.bytes).settleCuts

/-- Lands the posted writes that meet `f`, in the order they were issued. -/
def State.landWhere (s : State) (f : PostedWrite → Bool) : State :=
  let go := s.posted.filter f
  go.foldl (fun s w => s.land w) { s with posted := s.posted.filter fun w => !f w }

/-- Whether a write's destination is a slot in recovery, where it waits (R712). -/
def State.placeWaits (s : State) (pl : Place) : Bool :=
  match pl with
  | .store false f sl _ => s.slotStopped f sl
  | _ => false

/-- The counter of a port group (Tables 3.10, 3.11). -/
def portCounter : StorePort → Nat
  | .lsAct c => kLsStallsTpaAct c
  | .lsVu c => kLsStallsVu c
  | .lsSm c => kLsStallsSm c
  | .fs f => kFsStalls f

/-- Lost cycles are counted at their port groups (R120). -/
def State.stalls (s : State) (l : List (StorePort × Nat)) : State :=
  l.foldl (fun (s : State) x => s.add (portCounter x.1) x.2) s

/-- The port group that a write arrives at (Tables 3.5, 3.6). -/
def State.landPort (s : State) (pl : Place) : List StorePort :=
  match pl with
  | .store true f _ _ => [.fs f]
  | .store false f sl _ => ((s.coreAt f sl).map StorePort.lsSm).toList
  | .hbm _ _ _ => []

/-- Lands the posted write at a position, unless an earlier write of the same descriptor to the same bytes has not landed
(R581); the cycles it lost to arbitration count at the store it lands in (R120). -/
def State.landAt (s : State) (i lost : Nat) : State :=
  match s.posted[i]? with
  | none => s
  | some w =>
    if ((s.posted.take i).any fun v => v.desc == w.desc && v.overlaps w) || s.placeWaits w.place then s
    else ({ s with posted := s.posted.eraseIdx i }.stalls ((s.landPort w.place).map fun x => (x, lost))).land w

/-! ### Completion -/

/-- PHASE of the k-th record of a completion queue (R557). -/
def cqPhase (k slots : Nat) : Nat := 1 - (k / slots) % 2

/-- A completion record (Table 13.13). DEDUCED (log 58). -/
def completionRecord (d : Desc) (k slots : Nat) : List Byte :=
  leBytes 2 d.index ++ leBytes 1 d.ring ++ leBytes 1 d.status ++
  leBytes 1 (d.flags % 16 + cqPhase k slots * 128) ++ leBytes 1 d.opcode ++ leBytes 2 0 ++
  leBytes 4 d.endFrame ++ leBytes 4 (if coreRun d.opcode then d.cycles else 0)

/-- Writes the next record of a ring's completion queue (R556, R557, R561). -/
def State.writeRecord (s : State) (d : Desc) : State :=
  let r := d.ring
  let k := s.nat (kCqProd r)
  let slots := max (s.nat (kCqSlots r)) 1
  let cq := s.nat (kCqBase r)
  let b := completionRecord d k slots
  let s :=
    if bitOf cq 63 then s.hostWrite (partFn d.part) (cq % 2 ^ 63 + 16 * (k % slots)) b
    else
      let (ok, s) := s.vaWrite d.part (cq % 2 ^ 48 + 16 * (k % slots)) b
      if ok then s else s.bump (kMapFaults d.part)
  s.wrapAdd (kCqProd r) 1 32

/-- Whether a posted write was issued by the engine that signals for a descriptor (Table 14.4). -/
def State.sameEngine (s : State) (d : Desc) (w : PostedWrite) : Bool :=
  w.desc == d.id || (coreRun d.opcode && match s.desc? w.desc with
    | some e => coreRun e.opcode && e.core == d.core
    | none => false)

/-- After a descriptor's record: its fence is signalled on OK, broken on FENCE_BROKEN, and its MSI-X message is sent
(R506, R510, R559, R590). -/
def State.afterRecord (s : State) (d : Desc) : State :=
  let s :=
    match d.signal? with
    | none => s
    | some f =>
      if d.status = stOk then (s.landWhere fun w => s.sameEngine d w).signalFence f
      else if d.status = stFenceBroken then s.breakFence f else s
  if d.flag 2 then s.msix (partFn d.part) (s.nat (kIrqVector d.ring)) else s

/-- Writes the held records of a ring in ring order, up to the first descriptor that has not completed (R558). -/
def State.flushRecords : Nat → State → Nat → State
  | 0, s, _ => s
  | n + 1, s, r =>
    match s.inflight.find? fun d => d.ring == r with
    | none => s
    | some d =>
      if d.completed then
        let s := { s with inflight := s.inflight.filter fun e => e.id != d.id }
        ((s.writeRecord d).afterRecord d).flushRecords n r
      else s

/-- The counters of a completion: of the DEFERRED flag (Table 2.7), and of its status, over every descriptor of the partition
(R222, R253, R339). -/
def State.countStatus (s : State) (d : Desc) : State :=
  let s := if bitOf d.flags 3 then s.bump (kDeferCount d.part) else s
  if d.status = stTileIllegal then s.bump (kTileIllegals d.part)
  else if d.status = stBoundsFault then s.bump (kBoundsFaults d.part)
  else if d.status = stPageAbsent then s.bump (kPageAbsents d.part)
  else if d.status = stGenConflict then s.bump (kGenConflicts d.part)
  else if d.status = stOwnerMismatch then s.bump (kOwnerMismatches d.part)
  else if d.status = stPrecisionMismatch then s.bump (kPrecisionMismatches d.part)
  else s

/-- The Frond Controllers keep a copy of every core-run descriptor committed in the last 8 frames, the most that REPLAY_FR
asks for (R716, R717). -/
def State.keepCopy (s : State) (d : Desc) : State :=
  if coreRun d.opcode && !d.refused then
    { s with copies := (s.copies.filter fun e => decide (framesFrom e.commitFrame s.frameNo < 8)) ++ [d] }
  else s

/-- Whether a restart of its Frond Controller holds back a core-run descriptor's completion (R728). -/
def State.restarting (s : State) (d : Desc) : Bool := coreRun d.opcode && s.holds.any fun h => h.frond == some d.core.1

/-- A descriptor completes: every write of it has landed, then its record in ring order (R559). -/
def State.completeDesc (s : State) (id : Nat) : State :=
  match s.desc? id with
  | none => s
  | some d =>
    if d.ended && !d.completed && !s.restarting d && !(s.posted.any fun w => w.desc == id && s.placeWaits w.place) then
      let s := s.landWhere fun w => w.desc == id
      let s := match s.desc? id with | some d => s.countStatus d | none => s
      let s := (s.keepCopy d).modDesc id fun d => { d with completed := true }
      (s.flushRecords (s.inflight.length + 1) d.ring).sweepFrames d.part
    else s

/-! ### Running on a core -/

/-- Whether an ORDER committed earlier on the same core has not completed (R586). -/
def State.orderBlocks (s : State) (d : Desc) : Bool :=
  (s.inflight.takeWhile fun e => e.id != d.id).any fun e => e.opcode == 1 && e.core == d.core && !e.ended

/-- A parity error on the tag of a line of the MSC (Table 3.9): a clean line is invalidated; a dirty one is lost, and what it
held is undefined. DEDUCED (log 100). -/
def State.tagError (s : State) (pa : Nat) : State :=
  let set := pa / 256 % 8192
  let l := Tbl.get [] s.msc set
  let gone := { s with msc := Tbl.set [] s.msc set (l.filter fun x => x.1 != pa / 2 ^ 21) }
  if l.contains (pa / 2 ^ 21, true) then
    { gone with hbm := putBytes s.hbm (pa / 256 * 256) (freeBytes s.free 256), free := s.free + 256,
                errs := s.errs ++ [(false, pa)] }
  else gone

/-- What the engines met while a command ran: lost cycles, bits gone wrong, and lines that a read finds bad (R120, R142).
DESIGN CHOICE (log 4). -/
def State.observe (s : State) (o : RunObs) : State :=
  let s := o.upsets.foldl (fun (s : State) x => s.upset x.1 x.2) (s.stalls o.lost)
  let s := match o.hbmCorrected with | some pa => s.hbmError pa true | none => s
  let s := { s with errs := (o.hbmBad.map fun pa => (true, pa)).toList ++ (o.mscBad.map fun pa => (false, pa)).toList }
  let s := match o.tagBad with | some pa => s.tagError pa | none => s
  s.add kMscEccCorrected o.mscCorrected

/-- Cycles lost to arbitration while a command ran (R120). DEDUCED (log 59). -/
def obsLost (o : RunObs) : Nat := (o.lost.map (·.2)).sum

/-- A descriptor waits at a slot in recovery, keeps its state and will complete with DEFERRED (R712). -/
def State.waits (s : State) (id : Nat) : State :=
  (s.flagDesc id 3).modDesc id fun d => { d with deferred := true }

/-- A descriptor does its work `f` on a core: what the engines met comes first.  A translation table with an uncorrectable error
ends it (R836).  Work that met a slot in recovery has done nothing, and the descriptor waits (R712).  Work that met a CORE fault
of its own slot leaves the descriptor to its recovery (R710). DEDUCED (log 59). -/
def State.work (s : State) (d : Desc) (o : RunObs) (f : State → State) : State :=
  let s := (s.observe o).spend d.id (obsLost o)
  if o.tableBad then { (s.tornDesc d.id).endDesc d.id stEcc with errs := [] }
  else
    let t := { f { s with slotWait := false } with errs := [] }
    if t.slotWait then { s with errs := [] }.waits d.id
    else if t.slotStopped d.core.1 d.core.2 then
      t.modDesc d.id fun e => { e with ended := false, status := 0, torn := false }
    else t

/-- Runs `f` for a committed descriptor of one of the given opcodes on its core: nothing happens outside the compute window
(R50), for a descriptor that has ended, that an ORDER holds back, or whose slot maps to no core. DEDUCED (log 59). -/
def State.runOn (s : State) (id : Nat) (ops : List Nat) (o : RunObs) (f : State → Desc → Nat → State) : State :=
  match s.desc? id with
  | none => s
  | some d =>
    if d.ended || s.tb.window != .compute || !ops.contains d.opcode || s.orderBlocks d || s.slotStopped d.core.1 d.core.2 then s
    else match s.descCore d with
      | none => s
      | some c => s.work d o fun s => f s d c

/-- Runs `f` for a committed descriptor of one of the given opcodes that runs on no core. -/
def State.runOff (s : State) (id : Nat) (ops : List Nat) (f : State → Desc → State) : State :=
  match s.desc? id with
  | none => s
  | some d => if d.ended || !ops.contains d.opcode then s else f s d

end Sys2Proof.Machine
end

