-- ==== Sys2Proof/Machine/Stores.lean ====
section
/-!
DEFINITION. Machine/Stores.lean: FILL, COPY and TRANSFER, the landing of writes, and the maps of store sectors.
-/
namespace Sys2Proof.Machine

/-! ### FILL, COPY and TRANSFER -/

/-- The bytes of a FILL: the pattern of 2^PWIDTH bytes repeated (R134). -/
def fillBytes (pattern pwidth n : Nat) : List Byte :=
  (countFrom 0 n).map fun i => BitVec.ofNat 8 (pattern >>> (8 * (i % 2 ^ pwidth)))

/-- The largest number of rows that a range touches in any one bank (Table 3.8). -/
def rowsPerBank (row bank off len : Nat) : Nat :=
  if len = 0 then 0
  else
    let first := off / row
    let last := (off + len - 1) / row
    let per := bank / row
    (countFrom (first / per) (last / per + 1 - first / per)).foldl (fun m b =>
      max m (min last (b * per + per - 1) + 1 - max first (b * per))) 0

/-- The bank size of a store (Table 3.1). -/
def SAddr.bank (a : SAddr) : Nat := if a.fs then 131072 else 65536

/-- FILL on its core (R134, R137). -/
def State.runFill (s : State) (d : Desc) (_ : Nat) : State :=
  match decodeSAddr (d.at 16 4) with
  | none => s.endDesc d.id stTileIllegal
  | some a =>
    let n := d.at 20 4
    let (_, t) := s.issue d (.store a) (fillBytes (d.at 24 4) (d.at 28 1) n)
    (t.spend d.id (6 + rowsPerBank a.row a.bank a.off n)).endDesc d.id stOk

/-- The rows of a COPY, one after another, up to an access that ends the descriptor (R136). -/
def State.copyRows (d : Desc) (src dst : SAddr) : List Nat → State → State
  | [], s => s
  | i :: t, s =>
    match s.fetch d ((Addr.store src).plus (i * src.row)) src.row with
    | (none, s) => s
    | (some l, s) =>
      match s.issue d ((Addr.store dst).plus (i * dst.row)) l with
      | (true, s) => State.copyRows d src dst t s
      | (false, s) => s

/-- COPY on its core: descending when the destination starts above the source, else ascending (R136, R137). -/
def State.runCopy (s : State) (d : Desc) (_ : Nat) : State :=
  match decodeSAddr (d.at 16 4), decodeSAddr (d.at 20 4) with
  | some src, some dst =>
    let n := d.at 24 2
    let order := if src.off < dst.off then (countFrom 0 n).reverse else countFrom 0 n
    let t := State.copyRows d src dst order s
    let same := (countFrom 0 n).any fun i =>
      (src.off + i * src.row) / src.bank == (dst.off + i * dst.row) / dst.bank
    (t.spend d.id (8 + (if same then 2 * n else n))).endDesc d.id stOk
  | _, _ => s.endDesc d.id stTileIllegal

/-- The rows of a TRANSFER in ascending order, each read whole before it is written (R139). DEDUCED (log 97). -/
def State.transferRows (d : Desc) (src dst : Addr) (n ss ds : Nat) : List Nat → State → State
  | [], s => s
  | i :: t, s =>
    match s.fetch d (src.plus (i * ss)) n with
    | (none, s) => s
    | (some l, s) =>
      match s.issue d (dst.plus (i * ds)) l with
      | (true, s) => State.transferRows d src dst n ss ds t s
      | (false, s) => s

/-- TRANSFER on its core (R138 to R140). DEDUCED (log 69). -/
def State.runTransfer (s : State) (d : Desc) (cc : Nat) : State :=
  match decodeAddr (d.at 16 8), decodeAddr (d.at 24 8) with
  | some src, some dst =>
    let t := State.transferRows d src dst (d.at 32 4) (d.at 40 4) (d.at 44 4) (countFrom 0 (d.at 36 4)) s
    (t.spend d.id cc).endDesc d.id stOk
  | _, _ => s.endDesc d.id stTileIllegal

/-! ### Landing and zeroing -/

/-- WRITE_LANDS (R575): one posted write lands; the cycles that it lost to arbitration count at the store it lands in
(R120). -/
def execWriteLands (o : Landing) (s : State) : Host.Outcome State Fault Refusal :=
  .next (s.landAt o.at_ o.lost)

/-- SECTOR_ZERO_DONE (R147): the zeroing with number `i` has finished, and the commits it held back may proceed. -/
def execSectorZeroDone (i : Nat) (s : State) : Host.Outcome State Fault Refusal :=
  .next { s with zeroing := s.zeroing.filter fun z => z.id != i }

/-! ### Sector maps (R141, R152, R155) -/

/-- The positions below `n` at which two maps differ. -/
def changedBits (n old new : Nat) : List Nat := (countFrom 0 n).filter fun i => bitOf old i != bitOf new i

/-- The partitions among owner bytes. -/
def partsOf (l : List Nat) : List Nat := (l.filter (· < 64)).eraseDups

/-- Zeroes changed sectors and holds back the commits of their owners (R147). -/
def State.zeroChanged (s : State) (parts : List Nat) (any : Bool) : State :=
  if any then s.startZeroing (partsOf parts) else s

/-- The effect of an LS_WEIGHT_MAP write (R152, R147). -/
def writeLsWeightMap (c : Nat) (v : Word) (s : State) (_ : EntLoc) : Except Reason State :=
  let ch := changedBits 64 (s.nat (kLsWeightMap c)) v.toNat
  let o := s.coreOwner c
  if ch ≠ [] ∧ s.ownerHalted o = false then .error .notHalted
  else
    let t := s.setReg (kLsWeightMap c) v
    let t := ch.foldl (fun (t : State) i => t.lsZero c (i * 16384) 16384) t
    .ok (t.zeroChanged [o] (ch != []))

/-- The effect of an LS_SPEC_MAP write: run-ahead of the core's partition is squashed (R152, R568). -/
def writeLsSpecMap (c : Nat) (v : Word) (s : State) (_ : EntLoc) : Except Reason State :=
  let ch := changedBits 64 (s.nat (kLsSpecMap c)) v.toNat
  let o := s.coreOwner c
  if ch ≠ [] ∧ s.ownerHalted o = false then .error .notHalted
  else
    let t := if o < 64 then s.squashPart o (fun _ => true) (kSquashOther o) else s
    .ok (t.setReg (kLsSpecMap c) v)

/-- The effect of an FS_WEIGHT_MAP write (R152, R147). -/
def writeFsWeightMap (f m : Nat) (v : Word) (s : State) (_ : EntLoc) : Except Reason State :=
  let ch := (changedBits 64 (s.nat (kFsWeightMap f m)) v.toNat).map (64 * m + ·)
  let owners := ch.map fun i => s.oct (kFsOwner f) i
  if (owners.any fun o => !s.ownerHalted o) = true then .error .notHalted
  else
    let t := s.setReg (kFsWeightMap f m) v
    let t := ch.foldl (fun t i => t.zeroSector ⟨true, f, 0, i * 16384⟩) t
    .ok (t.zeroChanged owners (ch != []))

/-- The effect of an FS_OWNER write: whole or not at all (R152, R155, R147). -/
def writeFsOwner (f : Nat) (bytes : List Byte) (s : State) (_ : EntLoc) : Except Reason State :=
  let ch := (countFrom 0 256).filter fun i => (bytes.getD i 0).toNat != s.oct (kFsOwner f) i
  let owners := ch.flatMap fun i => [s.oct (kFsOwner f) i, (bytes.getD i 0).toNat]
  if (owners.any fun o => !s.ownerHalted o) = true then .error .notHalted
  else
    let t := s.setOctFrom (kFsOwner f) 0 bytes
    let t := ch.foldl (fun t i => t.zeroSector ⟨true, f, 0, i * 16384⟩) t
    .ok (t.zeroChanged owners (ch != []))

/-- LS_WEIGHT_MAP_WRITE (R152). -/
def execLsWeightMapWrite (who : Requester) (core : Nat) (v : Word) (s : State) : Host.Outcome State Fault Refusal :=
  .next (s.slotWrite who .lsWeightMap (kLsWeightMap core) v (writeLsWeightMap core v))

/-- LS_SPEC_MAP_WRITE (R152). -/
def execLsSpecMapWrite (who : Requester) (core : Nat) (v : Word) (s : State) : Host.Outcome State Fault Refusal :=
  .next (s.slotWrite who .lsSpecMap (kLsSpecMap core) v (writeLsSpecMap core v))

/-- FS_WEIGHT_MAP_WRITE (R152). -/
def execFsWeightMapWrite (who : Requester) (frond m : Nat) (v : Word) (s : State) :
    Host.Outcome State Fault Refusal :=
  .next (s.slotWrite who .fsWeightMap (kFsWeightMap frond m) v (writeFsWeightMap frond m v))

/-- FS_OWNER_WRITE (R155). -/
def execFsOwnerWrite (who : Requester) (frond : Nat) (bytes : List Byte) (s : State) :
    Host.Outcome State Fault Refusal :=
  .next (s.dictLong who (kFsOwner frond / 256) (kFsOwner frond % 256) bytes (writeFsOwner frond bytes))

end Sys2Proof.Machine
end

