-- ==== Sys2Proof/Machine/Num.lean ====
section
/-!
DEFINITION. Machine/Num.lean: exact numbers, number formats and rounding.

A finite value is a dyadic number; every product and sum is formed exactly and narrowed once (R163, R215, R272, R552).
Logarithms, powers and angles are formed with enough digits that the rounding of the spec is decided by them.
-/
namespace Sys2Proof.Machine

/-! ### Dyadic numbers -/

/-- The number `m` × 2^`e`. -/
structure Dy where
  m : Int
  e : Int
  deriving DecidableEq, Repr

/-- The mantissa of a number at an exponent not above its own. -/
def Dy.at (a : Dy) (e : Int) : Int := a.m * 2 ^ (a.e - e).toNat

/-- Sum. -/
def Dy.add (a b : Dy) : Dy := let e := min a.e b.e; ⟨a.at e + b.at e, e⟩

/-- Product. -/
def Dy.mul (a b : Dy) : Dy := ⟨a.m * b.m, a.e + b.e⟩

/-- Negation. -/
def Dy.neg (a : Dy) : Dy := ⟨-a.m, a.e⟩

/-- Magnitude. -/
def Dy.abs (a : Dy) : Dy := ⟨a.m.natAbs, a.e⟩

/-- Whether `a` is below `b`. -/
def Dy.lt (a b : Dy) : Bool := let e := min a.e b.e; decide (a.at e < b.at e)

/-- Whether `a` is at most `b`. -/
def Dy.le (a b : Dy) : Bool := !b.lt a

/-- The larger of two numbers. -/
def Dy.max (a b : Dy) : Dy := if a.lt b then b else a

/-- An integer. -/
def Dy.ofInt (n : Int) : Dy := ⟨n, 0⟩

/-- Trailing zero bits of a positive number. -/
def tz (n : Nat) : Nat := if n = 0 then 0 else Nat.log2 (Nat.gcd n (2 ^ (Nat.log2 n + 1)))

/-- The same number with an odd mantissa, or zero. -/
def Dy.norm (a : Dy) : Dy :=
  if a.m = 0 then ⟨0, 0⟩ else let t := tz a.m.natAbs; ⟨a.m / 2 ^ t, a.e + t⟩

/-- ⌊log2 |a|⌋ of a nonzero number. -/
def Dy.msb (a : Dy) : Int := (Nat.log2 a.m.natAbs : Nat) + a.e

/-! ### Rounding -/

/-- A rounding mode: to nearest with ties to even, or stochastic with the 32 bits drawn (R214). -/
inductive Rnd where
  | rne
  | sr (draw : Nat)
  deriving DecidableEq, Repr

/-- Rounds an integer over 2^`d` (R215): a stochastic rounding that discards 32 bits or more uses the whole draw, and one that
discards fewer uses that many bits of it (R216). DESIGN CHOICE (log 21). -/
def roundShift (r : Rnd) (m : Int) (d : Nat) : Int :=
  let f := m / 2 ^ d
  let x := m % 2 ^ d
  match r with
  | .rne => if 2 ^ d < 2 * x ∨ (2 * x = 2 ^ d ∧ f % 2 = 1) then f + 1 else f
  | .sr draw =>
    let k := min d 32
    let u := (if k = 32 then draw else Config.srBits draw k) % 2 ^ k
    if ((2 ^ k : Nat) : Int) ≤ x / 2 ^ (d - k) + u then f + 1 else f

/-- The multiple of 2^`q` that a number rounds to, divided by 2^`q`. -/
def Dy.round (a : Dy) (r : Rnd) (q : Int) : Int :=
  let a := a.norm
  if q ≤ a.e then a.at q else roundShift r a.m (q - a.e).toNat

/-! ### Floating-point formats -/

/-- A floating-point value; a finite one keeps its sign apart, for zero. -/
inductive Fv where
  | nan
  | inf (neg : Bool)
  | fin (neg : Bool) (x : Dy)
  deriving DecidableEq, Repr

/-- A format of `eb` exponent bits and `mb` fraction bits. -/
structure Fmt where
  eb : Nat
  mb : Nat
  deriving DecidableEq, Repr

/-- FP16. -/
def fp16 : Fmt := ⟨5, 10⟩
/-- BF16. -/
def bf16 : Fmt := ⟨8, 7⟩
/-- FP32. -/
def fp32 : Fmt := ⟨8, 23⟩

/-- The exponent bias of a format. -/
def Fmt.bias (f : Fmt) : Int := 2 ^ (f.eb - 1) - 1

/-- The spacing exponent of the subnormals of a format. -/
def Fmt.tiny (f : Fmt) : Int := 1 - f.bias - f.mb

/-- The value of a code. -/
def Fmt.decode (f : Fmt) (v : Nat) : Fv :=
  let m := v % 2 ^ f.mb
  let e := v / 2 ^ f.mb % 2 ^ f.eb
  let s := bitOf v (f.eb + f.mb)
  let sg := fun (n : Nat) => if s then -(n : Int) else (n : Int)
  if e = 2 ^ f.eb - 1 then (if m = 0 then .inf s else .nan)
  else if e = 0 then .fin s ⟨sg m, f.tiny⟩
  else .fin s ⟨sg (m + 2 ^ f.mb), f.tiny + e - 1⟩

/-- The finite value of a code, with infinities and NaN read as zero. -/
def Fmt.finite (f : Fmt) (v : Nat) : Dy :=
  match f.decode v with
  | .fin _ x => x
  | _ => ⟨0, 0⟩

/-- The code of a sign bit. -/
def Fmt.sign (f : Fmt) (neg : Bool) : Nat := b2n neg * 2 ^ (f.eb + f.mb)

/-- The largest finite code of a sign. -/
def Fmt.largest (f : Fmt) (neg : Bool) : Nat := f.sign neg + (2 ^ f.eb - 1) * 2 ^ f.mb - 1

/-- The infinity code of a sign. -/
def Fmt.infCode (f : Fmt) (neg : Bool) : Nat := f.sign neg + (2 ^ f.eb - 1) * 2 ^ f.mb

/-- The code of `n` × 2^`q`, where `n` has at most `mb` + 1 bits or is 2^(mb+1); none on overflow. -/
def Fmt.encode (f : Fmt) (neg : Bool) (n : Int) (q : Int) : Option Nat :=
  let k := n.natAbs
  if k = 0 then some (f.sign neg)
  else
    let (k, q) := if k = 2 ^ (f.mb + 1) then (2 ^ f.mb, q + 1) else (k, q)
    if k < 2 ^ f.mb then some (f.sign neg + k)
    else
      let e := q - f.tiny + 1
      if 2 ^ f.eb - 1 ≤ e then none else some (f.sign neg + e.toNat * 2 ^ f.mb + (k - 2 ^ f.mb))

/-- The spacing exponent of a format at a nonzero number. -/
def Fmt.spacing (f : Fmt) (x : Dy) : Int := max (x.msb - f.mb) f.tiny

/-- Narrows a number to a format, keeping subnormals; an overflow becomes the largest finite value and is reported
(R215, R217). DEDUCED (log 63). -/
def Fmt.narrow (f : Fmt) (r : Rnd) (neg : Bool) (x : Dy) : Nat × Bool :=
  if x.m = 0 then (f.sign neg, false)
  else
    let neg := decide (x.m < 0)
    let q := f.spacing x
    match f.encode neg (x.round r q) q with
    | some c => (c, false)
    | none => (f.largest neg, true)

/-- Rounds a number to nearest as if the exponent range were unbounded, flushes what is then below the smallest normal
value to zero, and lets an overflow become infinity (R178). -/
def Fmt.ieee (f : Fmt) (neg : Bool) (x : Dy) : Nat :=
  if x.m = 0 then f.sign neg
  else
    let neg := decide (x.m < 0)
    let q := x.msb - f.mb
    let n := x.round .rne q
    let y : Dy := ⟨n, q⟩
    if y.msb < 1 - f.bias then f.sign neg
    else match f.encode neg n q with
      | some c => c
      | none => f.infCode neg

/-- A NaN of a format whose NaN code the spec does not state: its fraction and its sign are free, and it is a NaN.
DESIGN CHOICE (log 23). -/
def Fmt.someNan (f : Fmt) (k : Nat) : Nat :=
  let v := (Config.nanCode k).toNat
  f.infCode (bitOf v 15) + 1 + v % 2 ^ 15 % (2 ^ f.mb - 1)

/-- The canonical NaN of a format of the CMU (R178). -/
def Fmt.canonNan (f : Fmt) : Nat := (2 ^ f.eb - 1) * 2 ^ f.mb + 2 ^ (f.mb - 1)

/-- A subnormal read as zero of the same sign (R178). -/
def Fmt.flush (f : Fmt) (v : Nat) : Fv :=
  if v / 2 ^ f.mb % 2 ^ f.eb = 0 then .fin (bitOf v (f.eb + f.mb)) ⟨0, 0⟩ else f.decode v

/-- The sum of two FP32 values in the CMU, rounded once (R178). DEDUCED (log 63). -/
def fp32Add (a b : Fv) : Nat :=
  match a, b with
  | .nan, _ => fp32.canonNan
  | _, .nan => fp32.canonNan
  | .inf s, .inf t => if s = t then fp32.infCode s else fp32.canonNan
  | .inf s, _ => fp32.infCode s
  | _, .inf t => fp32.infCode t
  | .fin s x, .fin t y => fp32.ieee (s && t) (x.add y)

/-- The sum of two FP32 values outside the CMU, to nearest with ties to even as IEEE 754 has it (R212, R449).
DEDUCED (log 63). -/
def fp32Sum (a b : Fv) : Nat :=
  match a, b with
  | .fin s x, .fin t y =>
    let z := x.add y
    match fp32.narrow .rne (s && t) z with
    | (c, false) => c
    | (_, true) => fp32.infCode (decide (z.m < 0))
  | _, _ => fp32Add a b

/-- The exact product of two values. -/
def fvMul (a b : Fv) : Fv :=
  match a, b with
  | .nan, _ => .nan
  | _, .nan => .nan
  | .inf s, .inf t => .inf (s != t)
  | .inf s, .fin t y => if y.m = 0 then .nan else .inf (s != t)
  | .fin s x, .inf t => if x.m = 0 then .nan else .inf (s != t)
  | .fin s x, .fin t y => .fin (s != t) (x.mul y)

/-! ### Roots, logarithms and powers -/

/-- The integer `k`-th root of `n`, given a number of bits that the root fits in. -/
def iroot (k n : Nat) : Nat → Nat → Nat
  | 0, r => r
  | b + 1, r => if (r + 2 ^ b) ^ k ≤ n then iroot k n b (r + 2 ^ b) else iroot k n b r

/-- 2^(`p` / `k`) × 2^16 rounded to nearest with ties to even, for a negative `p` (R173). -/
def linearForm (k : Nat) (p : Int) : Nat :=
  let n := p + 17 * k
  if n < 0 then 0
  else
    let y := iroot k (2 ^ n.toNat) 18 0
    if y % 2 = 1 ∧ y ^ k = 2 ^ n.toNat then (if (y / 2) % 2 = 1 then y / 2 + 1 else y / 2) else (y + 1) / 2

/-- ⌊`k` × log2 |x|⌋ of a nonzero number, exactly. -/
def Dy.floorLog (x : Dy) (k : Nat) : Int := (Nat.log2 (x.m.natAbs ^ k) : Nat) + k * x.e

/-- Digits of the fixed-point forms below. -/
def prec : Nat := 256

/-- One binary digit of a logarithm after another: `y` is in [1, 2) with `prec` digits. -/
def logDigits : Nat → Nat → Nat → Nat
  | 0, _, acc => acc
  | n + 1, y, acc =>
    let z := y * y / 2 ^ prec
    if 2 ^ (prec + 1) ≤ z then logDigits n (z / 2) (2 * acc + 1) else logDigits n z (2 * acc)

/-- ⌊log2 |x| × 2^`n`⌋ of a nonzero number. -/
def Dy.logFix (x : Dy) (n : Nat) : Int :=
  let m := x.m.natAbs
  let y := if Nat.log2 m ≤ prec then m * 2 ^ (prec - Nat.log2 m) else m / 2 ^ (Nat.log2 m - prec)
  x.msb * 2 ^ n + (logDigits n y 0 : Nat)

/-- The product of the roots 2^(2^−i) that the digits of `f` select. -/
def powDigits : Nat → Nat → Nat → Nat → Nat
  | 0, _, _, acc => acc
  | n + 1, f, c, acc =>
    let c := iroot 2 (c * 2 ^ prec) (prec + 1) 0
    powDigits n f c (if bitOf f n then acc * c / 2 ^ prec else acc)

/-- 2^(t / 2^`n`) as a dyadic number; exact where `t` is a multiple of 2^`n`. -/
def pow2Fix (t : Int) (n : Nat) : Dy :=
  let i := t / 2 ^ n
  let f := (t % 2 ^ n).toNat
  if f = 0 then ⟨1, i⟩ else ⟨powDigits n f (2 ^ (prec + 1)) (2 ^ prec), i - prec⟩

/-- 2^x of a dyadic exponent. -/
def Dy.pow2 (x : Dy) : Dy :=
  let x := x.norm
  if 0 ≤ x.e then ⟨1, x.at 0⟩ else pow2Fix x.m (-x.e).toNat

/-! ### Angles -/

/-- Terms of the arctangent series of 1/`k`. -/
def atanTerms (k : Nat) : Nat → Nat → Nat → Int
  | 0, _, _ => 0
  | n + 1, i, p =>
    let q : Int := ((p / (2 * i + 1) : Nat) : Int)
    (if i % 2 = 0 then q else -q) + atanTerms k n (i + 1) (p / (k * k))

/-- π × 2^`prec`. -/
def piFix : Int := 16 * atanTerms 5 120 0 (2 ^ prec / 5) - 4 * atanTerms 239 60 0 (2 ^ prec / 239)

/-- Terms x^k/k! of the sine and cosine series with alternating signs, from term `i`, whose value is `p`. -/
def trigTerms (x : Int) : Nat → Nat → Int → Int
  | 0, _, _ => 0
  | n + 1, i, p => p + trigTerms x n (i + 2) (-(p * x / 2 ^ prec * x / 2 ^ prec / ((i + 1) * (i + 2))))

/-- The cosine and sine of an angle given with `prec` digits, each rounded to FP32 (R272). -/
def cosSin (th : Int) : Nat × Nat :=
  let x := th % (2 * piFix)
  let c := trigTerms x 60 0 (2 ^ prec)
  let s := trigTerms x 60 1 x
  ((fp32.narrow .rne false ⟨c, -(prec : Int)⟩).1, (fp32.narrow .rne false ⟨s, -(prec : Int)⟩).1)

/-- θ = t × BASE^(−2i/R) with `prec` digits (R272). -/
def ropeAngle (t base i r : Nat) : Int :=
  let b := fp32.finite base
  let l := b.logFix 200
  let x := pow2Fix (-(2 * i * l) / r) 200
  let y : Dy := ⟨t * x.m, x.e⟩
  if x.e + prec ≥ 0 then y.m * 2 ^ (x.e + prec).toNat else y.m / 2 ^ (-(x.e + prec)).toNat

/-! ### Log-number codes (R170, Table 4.5) -/

/-- A log-number format: bits of L, fraction bits of its exponent, and the L of 1.0. -/
structure Lns where
  bits : Nat
  frac : Nat
  one : Nat
  deriving DecidableEq, Repr

/-- LNS8. -/
def lns8 : Lns := ⟨7, 3, 128⟩
/-- LNS12. -/
def lns12 : Lns := ⟨11, 6, 2048⟩

/-- The largest L of a format. -/
def Lns.top (f : Lns) : Nat := 2 ^ f.bits - 1

/-- The L field of a code. -/
def Lns.l (f : Lns) (c : Nat) : Nat := c % 2 ^ f.bits

/-- The sign of a code. -/
def Lns.neg (f : Lns) (c : Nat) : Bool := bitOf c f.bits

/-- round(2^frac × (log2 |x| − `e`) + one) of a nonzero number, to nearest (R200, R329): the bounds of Table 5.6 for LNS codes
hold whatever the stream's rounding mode is. DEDUCED (log 63). -/
def Lns.level (f : Lns) (x : Dy) (e : Int) : Int :=
  let k : Nat := 2 ^ f.frac
  (x.floorLog (2 * k) + 1) / 2 + ((f.one : Int) - k * e)

/-- The code of a sign and level, with L ≤ 0 written as zero and L limited to `cap`; says whether it was limited. -/
def Lns.code (f : Lns) (cap : Nat) (neg : Bool) (l : Int) : Nat × Bool :=
  if l ≤ 0 then (0, false)
  else if (cap : Int) < l then (b2n neg * 2 ^ f.bits + cap, true)
  else (b2n neg * 2 ^ f.bits + l.toNat, false)

/-- ⌊log2 x + 1/16⌋ + 1 of a positive number (R199, Table 8.6). -/
def lnsExp (x : Dy) : Int := (x.floorLog 16 + 1) / 16 + 1

end Sys2Proof.Machine
end

