-- ==== Sys2Proof/Machine/Tiles.lean ====
section
/-!
DEFINITION. Machine/Tiles.lean: the tiling block, the tile grid and its orders, operand regions, ragged edges and the
random draws of narrowing streams.
-/
namespace Sys2Proof.Machine

/-! ### Fields of tiled descriptors (Tables 6.1 to 6.3, 13.6, 13.7) -/

/-- The tiling word. -/
def Desc.tw (d : Desc) : Nat := d.at 16 8
/-- The range word. -/
def Desc.rw_ (d : Desc) : Nat := d.at 24 8
/-- The bounds field. -/
def Desc.bf (d : Desc) : Nat := d.at 32 8
/-- Tile rows. -/
def Desc.tm (d : Desc) : Nat := (bitsOf d.tw 5 0 + 1) * 8
/-- Tile outputs. -/
def Desc.tn (d : Desc) : Nat := (bitsOf d.tw 11 6 + 1) * 64
/-- ORDER: 0 OUTPUT_INNER, 1 HILBERT. -/
def Desc.tileOrder (d : Desc) : Nat := bitsOf d.tw 13 12
/-- The source of bound `k` (0 M, 1 N, 2 K, 3 BATCH). -/
def Desc.bsrc (d : Desc) (k : Nat) : Nat := bitsOf d.tw (15 + 2 * k) (14 + 2 * k)
/-- ACC_INIT. -/
def Desc.accInit (d : Desc) : Bool := bitOf d.tw 22
/-- The first AS entry of the tile. -/
def Desc.asBase (d : Desc) : Nat := bitsOf d.tw 31 23 * 64
/-- PAD_TYPE. -/
def Desc.padType (d : Desc) : Nat := bitsOf d.tw 34 32
/-- A_STREAMED. -/
def Desc.aStr (d : Desc) : Bool := bitOf d.tw 35
/-- B_STREAMED. -/
def Desc.bStr (d : Desc) : Bool := bitOf d.tw 36
/-- PAD_CONST. -/
def Desc.padConst (d : Desc) : Nat := bitsOf d.tw 63 48
/-- TILE_FIRST. -/
def Desc.tFirst (d : Desc) : Nat := bitsOf d.rw_ 23 0
/-- TILE_STRIDE. -/
def Desc.tStride (d : Desc) : Nat := bitsOf d.rw_ 39 24
/-- TILE_LIMIT. -/
def Desc.tLimit (d : Desc) : Nat := bitsOf d.rw_ 55 40
/-- LAYER. -/
def Desc.layer (d : Desc) : Nat := d.at 9 1
/-- ARITH_MODE. -/
def Desc.arith (d : Desc) : Nat := bitsOf (d.at 12 4) 2 0
/-- The weight width W. -/
def Desc.wBits (d : Desc) : Nat := bitsOf (d.at 12 4) 7 3
/-- The activation width A, a ceiling. -/
def Desc.aBits (d : Desc) : Nat := bitsOf (d.at 12 4) 12 8
/-- WCODE. -/
def Desc.wcode (d : Desc) : Nat := bitsOf (d.at 12 4) 14 13
/-- The WIDE flag. -/
def Desc.wideFlag (d : Desc) : Bool := bitOf (d.at 12 4) 15
/-- WEIGHT_EXP. -/
def Desc.wexp (d : Desc) : Int := sext 8 (bitsOf (d.at 12 4) 23 16)
/-- RANGE_EN. -/
def Desc.rangeEn (d : Desc) : Bool := bitOf (d.at 12 4) 24
/-- Wide mode (R157). -/
def Desc.isWide (d : Desc) : Bool := d.arith == 0 && (decide (8 < d.wBits) || decide (8 < d.aBits) || d.wideFlag)
/-- Whether an opcode carries the tiling block (Table 6.7). -/
def tiledOp (op : Nat) : Bool := op == 0x10 || op == 0x11 || op == 0x30 || (decide (0x20 ≤ op) && decide (op ≤ 0x23))
/-- Whether an opcode is an attention opcode. -/
def attnOp (op : Nat) : Bool := decide (0x20 ≤ op) && decide (op ≤ 0x23)
/-- Whether an opcode forms products on the TPA or the CMU, so that its tiles are AS tiles (R253). -/
def productOp (op : Nat) : Bool := op == 0x10 || op == 0x20 || op == 0x21 || op == 0x23

/-! ### The attention word (Table 7.1) -/

/-- The attention word; zero for other opcodes. -/
def Desc.aw (d : Desc) : Nat := if attnOp d.opcode then d.at 64 8 else 0
/-- Query heads on this core. -/
def Desc.hpc (d : Desc) : Nat := 2 ^ bitsOf d.aw 1 0
/-- Query heads per KV head. -/
def Desc.kvg (d : Desc) : Nat := 2 ^ bitsOf d.aw 3 2
/-- Head dimension of an attention descriptor. -/
def Desc.headDim (d : Desc) : Nat := (bitsOf d.aw 7 4 + 1) * 16
/-- CAUSAL. -/
def Desc.causal (d : Desc) : Bool := bitOf d.aw 8
/-- PADMASK. -/
def Desc.padmask (d : Desc) : Bool := bitOf d.aw 9
/-- BITMAP. -/
def Desc.bitmap (d : Desc) : Bool := bitOf d.aw 10
/-- Whether scores are LNS12. -/
def Desc.scoreLns (d : Desc) : Bool := bitOf d.aw 11
/-- P_FMT. -/
def Desc.pFmt (d : Desc) : Nat := bitsOf d.aw 13 12
/-- P_A. -/
def Desc.pA (d : Desc) : Nat := bitsOf d.aw 17 14
/-- FOLD_V. -/
def Desc.foldV (d : Desc) : Bool := bitOf d.aw 18
/-- GRAD mode of ATTN_NORM. -/
def Desc.grad (d : Desc) : Bool := bitOf d.aw 19
/-- Whether operands come from pages. -/
def Desc.kvSrc (d : Desc) : Bool := bitOf d.aw 20
/-- Whether dS is BF16. -/
def Desc.dsBf16 (d : Desc) : Bool := bitOf d.aw 21
/-- SCALE. -/
def Desc.scoreScale (d : Desc) : Nat := bitsOf d.aw 63 32
/-- The KV head that query head `h` reads (R267). -/
def Desc.kvHead (d : Desc) (h : Nat) : Nat := d.at 116 1 + h / d.kvg
/-- The first KV head of a KV_APPEND, and its head dimension (Table 13.9). -/
def Desc.hBase (d : Desc) : Nat := d.at 112 1
/-- The head dimension of a KV_APPEND. -/
def Desc.appendDim (d : Desc) : Nat := (d.at 113 1 + 1) * 16
/-- Whether a descriptor walks page tables (R318, R290). -/
def Desc.walks (d : Desc) : Bool :=
  d.opcode == 0x30 || ((d.opcode == 0x20 || d.opcode == 0x21 || d.opcode == 0x23) && d.kvSrc) ||
  (d.opcode == 0x22 && d.foldV)
/-- SEQV_PTR. -/
def Desc.seqv (d : Desc) : Nat := if d.opcode = 0x30 then d.at 80 8 else if d.opcode = 0x31 then d.at 16 8 else d.at 80 8
/-- POS_PTR. -/
def Desc.posPtr (d : Desc) : Nat :=
  if d.opcode = 0x30 ∨ attnOp d.opcode = true then d.at 88 8 else 0
/-- Heads that multiply the batch elements (R268). -/
def Desc.heads (d : Desc) : Nat := if attnOp d.opcode then d.hpc else 1

/-! ### Bounds and the grid (R242 to R245) -/

/-- A resolved bound: 0 M, 1 N, 2 K, 3 BATCH. -/
def Desc.bound (d : Desc) (k : Nat) : Nat := d.prog.bounds.getD k 0
/-- M. -/
def Desc.bM (d : Desc) : Nat := d.bound 0
/-- N. -/
def Desc.bN (d : Desc) : Nat := d.bound 1
/-- K. -/
def Desc.bK (d : Desc) : Nat := d.bound 2
/-- BATCH. -/
def Desc.bB (d : Desc) : Nat := d.bound 3
/-- K rounded up to K-blocks (R254). -/
def Desc.kp (d : Desc) : Nat := roundUp d.bK 256
/-- Rows of tiles. -/
def Desc.gm (d : Desc) : Nat := (d.bM + d.tm - 1) / d.tm
/-- Columns of tiles; an ATTN_NORM tile spans every column (R293). -/
def Desc.gn (d : Desc) : Nat := if d.opcode = 0x22 then 1 else (d.bN + d.tn - 1) / d.tn
/-- Positions of the grid. -/
def Desc.positions (d : Desc) : Nat := d.bB * d.heads * d.gm * d.gn
/-- L_b of batch element `b` (R258). -/
def Desc.len (d : Desc) (b : Nat) : Nat := d.prog.lens.getD b d.bM
/-- POS_OFF_b (R269). -/
def Desc.posOff (d : Desc) (b : Nat) : Nat := d.prog.poss.getD b 0

/-- The cell of the Hilbert walk at step `t` (R244). -/
def hilbertCell : Nat → Nat → Nat → Nat → Nat → Nat × Nat
  | 0, _, _, x, y => (x, y)
  | fuel + 1, q, t, x, y =>
    let rx := t / 2 % 2
    let ry := (t % 2 + rx) % 2
    let (x, y) := if ry = 0 then (if rx = 1 then (q - 1 - y, q - 1 - x) else (y, x)) else (x, y)
    hilbertCell fuel (2 * q) (t / 4) (x + q * rx) (y + q * ry)

/-- The smallest power of two at or above `n`, as its exponent. -/
def ceilLog2 (n : Nat) : Nat := if n ≤ 1 then 0 else Nat.log2 (n - 1) + 1

/-- The in-grid cell with rank `k` of the Hilbert walk of side 2^`lg`, from step `t` on (R243). -/
def hilbertRank (lg gm gn : Nat) : Nat → Nat → Nat → Nat × Nat
  | 0, _, _ => (0, 0)
  | fuel + 1, t, k =>
    let c := hilbertCell lg 1 t 0 0
    if c.1 < gm ∧ c.2 < gn then (if k = 0 then c else hilbertRank lg gm gn fuel (t + 1) (k - 1))
    else hilbertRank lg gm gn fuel (t + 1) k

/-- A tile: its element b′ of R268, its batch element and head, and its grid cell. -/
structure Tile where
  bb : Nat
  b : Nat
  h : Nat
  i : Nat
  j : Nat
  deriving DecidableEq, Repr

/-- The tile at a position (R243). -/
def Desc.tileAt (d : Desc) (k : Nat) : Tile :=
  let per := max (d.gm * d.gn) 1
  let bb := k / per
  let p := k % per
  let c := if d.tileOrder = 1 then
      (let lg := ceilLog2 (max d.gm d.gn); hilbertRank lg d.gm d.gn (4 ^ lg) 0 p)
    else (p % max d.gm 1, p / max d.gm 1)
  ⟨bb, bb / d.heads, bb % d.heads, c.1, c.2⟩

/-- The `n`-th position a descriptor owns, if it owns one (R245). -/
def Desc.owned (d : Desc) (n : Nat) : Option Nat :=
  let k := d.tFirst + n * d.tStride
  if k < d.positions ∧ (d.tLimit = 0 ∨ n < d.tLimit) then some k else none

/-- The open tile, or the next one. -/
def Desc.curTile (d : Desc) : Option Tile := (d.owned d.prog.tile).map d.tileAt

/-- The first row of a tile. -/
def Desc.row0 (d : Desc) (t : Tile) : Nat := t.i * d.tm
/-- The first column of a tile. -/
def Desc.col0 (d : Desc) (t : Tile) : Nat := if d.opcode = 0x22 then 0 else t.j * d.tn
/-- Live rows of a tile: below M and below L_b (R257). -/
def Desc.rows (d : Desc) (t : Tile) : Nat := min d.tm (min d.bM (d.len t.b) - d.row0 t)
/-- Live columns of a tile: below N. -/
def Desc.cols (d : Desc) (t : Tile) : Nat := min (if d.opcode = 0x22 then d.bN else d.tn) (d.bN - d.col0 t)

/-- The live range of row `r` of element `b`: how many columns no CAUSAL or PADMASK removes (R284). -/
def Desc.liveRange (d : Desc) (n b r : Nat) : Nat :=
  let n := if d.padmask then min n (d.posOff b + d.len b) else n
  if d.causal then min n (d.posOff b + r + 1) else n

/-- Whether a tile is skipped (R248, R281). -/
def Desc.skipped (d : Desc) (t : Tile) : Bool :=
  decide (d.len t.b ≤ d.row0 t) ||
  ((d.opcode == 0x20 || d.opcode == 0x21) &&
    (countFrom (d.row0 t) (d.rows t)).all fun r => decide (d.liveRange d.bN t.b r ≤ d.col0 t))

/-! ### Operand sizes and places (R254, R549) -/

/-- Container bits of a width code (Table 5.1). -/
def containerBits (code : Nat) : Nat :=
  if code ≤ 2 then 4 else if code ≤ 4 then 8 else if code ≤ 6 then 16 else if code = 7 then 8
  else if code = 8 then 12 else 16

/-- The width A of a TP width code (Table 5.1). -/
def widthBits (code : Nat) : Nat := [2, 3, 4, 6, 8, 12, 16].getD code 16

/-- The width code of a TP width. -/
def widthCode (a : Nat) : Nat := ([2, 3, 4, 6, 8, 12, 16].idxOf? a).getD 15

/-- Container bits of operand A by the descriptor's A field (R254). -/
def Desc.aCont (d : Desc) : Nat :=
  if productOp d.opcode = false then 16
  else if d.arith = 0 then (if d.aBits ≤ 4 then 4 else if d.aBits ≤ 8 then 8 else 16)
  else if d.arith = 1 then 8 else if d.arith = 2 then 12 else 16

/-- Weight planes of a block, or 16 bits of BF16 (R167, R254). -/
def Desc.planes (d : Desc) : Nat :=
  if d.arith = 0 then d.wBits else if d.arith = 1 then 8 else if d.arith = 2 then 12 else 16

/-- Bytes of one operand-A row of a tile. -/
def Desc.aRow (d : Desc) : Nat := if productOp d.opcode then d.kp * d.aCont / 8 else d.tn * 2
/-- Bytes of an A tile. -/
def Desc.aTile (d : Desc) : Nat := d.tm * d.aRow
/-- Bytes of a B tile. DEDUCED (log 67). -/
def Desc.bTile (d : Desc) : Nat :=
  if productOp d.opcode then d.tn * d.kp * d.planes / 8 else if d.opcode = 0x30 then d.tm * d.tn * 2 else 0

/-- The store address of a region field, as the place it names. -/
def Desc.region? (d : Desc) (off : Nat) : Option SAddr := decodeSAddr (d.at off 4)

/-- The number of an A tile among the tiles of a resident region or of a streamed source. -/
def Desc.aIndex (d : Desc) (t : Tile) : Nat := if productOp d.opcode then t.i else t.i * d.gn + t.j

/-- Whether operand B of a tile is fetched. -/
def Desc.bFetched (d : Desc) : Bool := d.bStr || (d.kvSrc && productOp d.opcode)

/-- The offset of the open A tile within A_REGION (R250, R254); of the two halves of a streamed operand's region the lower one
takes the first tile's operand. DESIGN CHOICE (log 67). -/
def Desc.aPlace (d : Desc) (t : Tile) : Nat :=
  if d.aStr then d.prog.halfA % 2 * (d.at 44 4 / 2)
  else (t.bb * d.gm * (if productOp d.opcode then 1 else d.gn) + d.aIndex t) * d.aTile

/-- The offset of the open B tile within B_REGION. DEDUCED (log 67). -/
def Desc.bPlace (d : Desc) (t : Tile) : Nat :=
  if d.bStr then d.prog.halfB % 2 * (d.at 52 4 / 2)
  else if d.opcode = 0x30 then (t.bb * d.gm * d.gn + d.aIndex t) * d.bTile
  else t.j * d.bTile

/-- A_ELEM_STRIDE and B_ELEM_STRIDE (Tables 13.9, 13.11). -/
def Desc.aStride (d : Desc) : Nat := if attnOp d.opcode then d.at 168 4 else d.at 72 4
/-- B_ELEM_STRIDE. -/
def Desc.bStride (d : Desc) : Nat := if attnOp d.opcode then d.at 172 4 else d.at 76 4
/-- B_SRC. -/
def Desc.bSrc (d : Desc) : Nat := if attnOp d.opcode then d.at 72 8 else d.at 64 8
/-- The device virtual address of a streamed A tile (R549); with several heads the element b of R549 is the element b′ of R268.
DEDUCED (log 67). -/
def Desc.aFrom (d : Desc) (t : Tile) : Nat := d.at 56 8 + t.bb * d.aStride * 256 + d.aIndex t * d.aTile
/-- The device virtual address of a streamed B tile (R549), whose element is b′ as for operand A. DEDUCED (log 67). -/
def Desc.bFrom (d : Desc) (t : Tile) : Nat :=
  d.bSrc + t.bb * d.bStride * 256 + (if d.opcode = 0x30 then d.aIndex t else t.j) * d.bTile

/-! ### Packed codes -/

/-- `n` codes of `w` bits of a little-endian byte string (R171). -/
def unpack (w n : Nat) (l : List Byte) : List Nat :=
  let v := leNat l
  (countFrom 0 n).map fun i => (v >>> (w * i)) % 2 ^ w

/-- Codes of `w` bits packed into whole bytes. -/
def pack (w : Nat) (l : List Nat) : List Byte :=
  leBytes ((w * l.length + 7) / 8) (l.foldr (fun c acc => c % 2 ^ w + acc * 2 ^ w) 0)

/-- The codes of output `n` of a weight tile (R166): 64-output groups, then K-blocks, then planes; within a plane an
output has the 256 bits of its K positions. -/
def planeCodes (kp planes : Nat) (l : List Byte) (n : Nat) : List Nat :=
  (countFrom 0 (kp / 256)).flatMap fun kb =>
    let base := ((n / 64) * (kp / 256) + kb) * planes * 2048 + n % 64 * 32
    let bits := (countFrom 0 planes).map fun p => leNat ((l.drop (base + p * 2048)).take 32)
    (countFrom 0 256).map fun k => (bits.zipIdx).foldl (fun v (x : Nat × Nat) => v + (x.1 >>> k) % 2 * 2 ^ x.2) 0

/-- One plane row of a weight tile: the 256 bits of one output and K-block. -/
def planeBits (codes : List Nat) (p : Nat) : List Byte :=
  leBytes 32 (codes.foldr (fun c acc => (c >>> p) % 2 + 2 * acc) 0)

/-- A weight tile made of the codes of its outputs, as R166 lays it out. DEDUCED (log 67). -/
def planeTile (tn kp planes : Nat) (codes : Nat → List Nat) : List Byte :=
  (countFrom 0 (tn / 64)).flatMap fun g => (countFrom 0 (kp / 256)).flatMap fun kb =>
    (countFrom 0 planes).flatMap fun p => (countFrom 0 64).flatMap fun m =>
      planeBits (((codes (64 * g + m)).drop (256 * kb)).take 256) p

/-! ### Padding (R256, Table 6.8) -/

/-- The pad value of operand A: a TP value for the width `a`, else a code. -/
def padTp (ty c a : Nat) : Int :=
  match ty with
  | 1 => -(2 ^ (a - 1))
  | 2 => 2 ^ (a - 1) - 1
  | 3 => sext a c
  | _ => 0

/-- The pad code of a format of `w` bits: LNS8, LNS12 or a float whose infinity is `inf`. -/
def padCode (ty c w : Nat) (lns : Bool) (inf : Nat) : Nat :=
  match ty with
  | 1 => if lns then 2 ^ w - 1 else 2 ^ (w - 1) + inf
  | 2 => if lns then 2 ^ (w - 1) - 1 else inf
  | 3 => c % 2 ^ w
  | _ => 0

/-! ### Stochastic-rounding generators (R218 to R225) -/

/-- One step of a generator: its new state and the 64 bits it yields. -/
def genStep (g : Nat) : Nat × Nat :=
  let s0 := g % 2 ^ 64
  let s1 := g / 2 ^ 64
  let t := s0 ^^^ (s0 <<< 23) % 2 ^ 64
  let t := t ^^^ (t >>> 17)
  let t := t ^^^ (s1 ^^^ (s1 >>> 26))
  (s1 + t * 2 ^ 64, (t + s1) % 2 ^ 64)

/-- The stream words of a descriptor, with the offsets of their seeds (Tables 13.9, 13.11). -/
def Desc.streamsOf (d : Desc) : List (Nat × Nat) :=
  if d.opcode = 0x10 ∨ d.opcode = 0x11 then [(d.at 96 4, d.at 104 4)]
  else if d.opcode = 0x30 then [(d.at 96 4, d.at 104 4), (d.at 100 4, d.at 108 4)]
  else if attnOp d.opcode then [(d.at 160 4, d.at 164 4)]
  else []

/-- Whether a stream word selects SR. -/
def isSr (sc : Nat) : Bool := bitsOf sc 1 0 == 1
/-- GEN of a stream word. -/
def genOf (sc : Nat) : Nat := bitsOf sc 5 2

/-- The generators a descriptor binds (R224). -/
def Desc.gens (d : Desc) : List Nat := (d.streamsOf.filter fun x => isSr x.1).map fun x => genOf x.1

/-- Whether an earlier uncompleted descriptor of the core binds one of its generators (R224). -/
def State.genBusy (s : State) (d : Desc) : Bool :=
  (s.inflight.takeWhile fun e => e.id != d.id).any fun e =>
    e.core == d.core && !e.completed && e.gens.any d.gens.contains

/-- Draws for `n` elements of stream `k` of a descriptor (R218, R219): with RNE no bit is drawn. -/
def State.drawN (s : State) (id core k n : Nat) : List Rnd × State :=
  match s.desc? id with
  | none => ([], s)
  | some d =>
    match d.streamsOf[k]? with
    | none => (List.replicate n .rne, s)
    | some (sc, _) =>
      if isSr sc = false then (List.replicate n .rne, s)
      else
        let g := core * 16 + genOf sc
        let (cnt, word) := d.prog.draws.getD k (0, 0)
        let go := (countFrom 0 n).foldl (fun (acc : List Rnd × Nat × Nat × Nat × Nat) _ =>
          let (l, st, cnt, word, steps) := acc
          if cnt % 2 = 0 then
            let (st, w) := genStep st
            (l ++ [.sr (w % 2 ^ 32)], st, cnt + 1, w, steps + 1)
          else (l ++ [.sr (word / 2 ^ 32)], st, cnt + 1, word, steps)) ([], Tbl.get 0 s.gens g, cnt, word, 0)
        let (l, st, cnt, word, steps) := go
        let s := { s with gens := Tbl.set 0 s.gens g st }
        let s := s.wrapAdd (kSrDraws core) steps
        (l, s.modDesc id fun d => { d with prog := { d.prog with
          draws := (d.prog.draws ++ [(0, 0), (0, 0)]).take 2 |>.set k (cnt, word) } })

/-- Loads the seeds of a descriptor's SR streams before its first draw (R220 to R223); a zero seed ends it. -/
def State.loadSeeds (s : State) (d : Desc) (core : Nat) : State :=
  if d.prog.seeded then s
  else
    let s := s.modDesc d.id fun d => { d with prog := { d.prog with
      seeded := true, genStart := d.gens.map fun g => (g, Tbl.get 0 s.gens (core * 16 + g)) } }
    let load := d.streamsOf.filter fun x => isSr x.1 && bitOf x.1 6
    load.foldl (fun s x =>
      match decodeSAddr x.2 with
      | none => s.endDesc d.id stTileIllegal
      | some a =>
        match s.fetch d (.store a) 16 with
        | (none, s) => s
        | (some l, s) =>
          let v := leNat l
          let g := core * 16 + genOf x.1
          if v = 0 then s.endDesc d.id stTileIllegal
          else
            let alias_ := (countFrom (core * 16) 16).any fun h => h != g && Tbl.get none s.seeds h == some v
            let flagged := match s.desc? d.id with | some e => bitOf e.flags 1 | none => true
            let s := if alias_ && !flagged then (s.flagDesc d.id 1).bump (kSeedAliases d.part) else s
            { s with gens := Tbl.set 0 s.gens g v, seeds := Tbl.set none s.seeds g (some v) }) s

/-! ### Latencies (Table 3.7) -/

/-- Hops between two fronds of the 4 × 4 mesh (R127). -/
def hops (f g : Nat) : Nat :=
  let dx := max (f % 4) (g % 4) - min (f % 4) (g % 4)
  let dy := max (f / 4) (g / 4) - min (f / 4) (g / 4)
  dx + dy

/-- The read latency from a core's engine to an address, typical or at most. -/
def readLatency (core : Nat × Nat) (a : Addr) (most : Bool) : Nat :=
  match a with
  | .va _ => if most then 1400 else 400
  | .store x =>
    if x.frond ≠ core.1 then 30 + 8 * hops core.1 x.frond + (if most then 2 else 0)
    else if x.fs then (if most then 12 else 10)
    else if x.slot = core.2 then 4 else (if most then 16 else 14)

end Sys2Proof.Machine
end

