-- ==== Sys2Proof/Machine/Tiling.lean ====
section
/-!
DEFINITION. Machine/Tiling.lean: how a tiled descriptor's bounds land, how a tile opens, and how its operands are fetched.
-/
namespace Sys2Proof.Machine

/-- Goes on with a value that a read gave, or stops where the read ended the descriptor. -/
def onGot {α : Type} (x : Option α × State) (f : α → State → State) : State :=
  match x with
  | (some a, s) => f a s
  | (none, s) => s

/-- Runs a command of a descriptor only where it is due. -/
def State.runWhen (s : State) (id : Nat) (ops : List Nat) (o : RunObs) (due : State → Desc → Bool)
    (f : State → Desc → Nat → State) : State :=
  match s.desc? id with
  | none => s
  | some d => if due s d then s.runOn id ops o f else s

/-- The little-endian 32-bit numbers of a byte string. -/
def u32s (n : Nat) (l : List Byte) : List Nat := (countFrom 0 n).map fun i => byteField l (4 * i) 4

/-- The opcodes that carry the tiling block (Table 6.7). -/
def tiledOps : List Nat := [0x10, 0x11, 0x20, 0x21, 0x22, 0x23, 0x30]

/-! ### Stage 2 (R235, R236, R239, R240, R258, R269) -/

/-- Whether a bound of a descriptor comes from memory. -/
def Desc.memBounds (d : Desc) : Bool := (countFrom 0 4).any fun k => d.bsrc k == 2

/-- The bytes that were read at commit, where there are as many as asked for; else those that have landed. -/
def sampled (at_ landed : List Byte) : List Byte := if at_.length = landed.length then at_ else landed

/-- The bounds in force and LEN_PTR: the record is read once where a bound comes from memory, and it counts as it read at
commit (R239). -/
def State.readBounds (s : State) (d : Desc) : Option (List Nat × Nat) × State :=
  if d.memBounds then
    match s.fetch d (.va (bitsOf d.bf 47 0)) 32 with
    | (none, s) => (none, s)
    | (some l, s) =>
      let l := sampled d.prog.recBytes l
      (some ((countFrom 0 4).map fun k => if d.bsrc k = 2 then byteField l (4 * k) 4 else d.bound k,
        byteField l 16 8), s)
  else (some (d.prog.bounds, 0), s)

/-- Whether bounds lie in the ranges of R236. -/
def boundsOk (l : List Nat) : Bool :=
  ((l.take 3).all fun v => decide (v ≤ 1048575)) && decide (l.getD 3 0 ≤ 4096)

/-- A vector of `n` 32-bit numbers that a descriptor reads, as it read at commit (R239); none is read where the pointer or `n`
is 0. -/
def State.readVec (s : State) (d : Desc) (ptr n : Nat) (old : List Byte) : Option (List Nat) × State :=
  if ptr = 0 ∨ n = 0 then (some [], s)
  else if ptr % 4 ≠ 0 then (none, s.endDesc d.id stBoundsFault)
  else match s.fetch d (.va ptr) (4 * n) with
    | (some l, s) => (some (u32s n (sampled old l)), s)
    | (none, s) => (none, s)

/-- The position vector; an attention descriptor meets an unmapped one at stage 4 only (Table 7.7). -/
def State.readPos (s : State) (d : Desc) (n : Nat) : Option (List Nat × Bool) × State :=
  if attnOp d.opcode && d.posPtr != 0 && !(s.mapped d.part d.posPtr (4 * n) false) then (some ([], true), s)
  else match s.readVec d d.posPtr n d.prog.posBytes with
    | (some l, s) => (some (l, false), s)
    | (none, s) => (none, s)

/-! ### Address operands (R114, R143, R447) -/

/-- Whether a store address field is legal for a range of bytes (R114). -/
def State.storeOk (s : State) (p field len : Nat) : Bool :=
  match decodeSAddr field with
  | some a => decide (a.off + len ≤ a.size) && s.rangeOk p a (max len 1)
  | none => false

/-- Whether a store address field is legal for a write of `len` bytes (R114, R143). -/
def State.storeWritable (s : State) (p field len : Nat) : Bool :=
  s.storeOk p field len &&
  match decodeSAddr field with
  | some a => s.writeAligned a len
  | none => false

/-- Whether an address field of the form of R447 is legal: reserved bits zero, and a store address that meets R114, and
R143 where it is written. -/
def State.addrOk (s : State) (p field len : Nat) (wr : Bool) : Bool :=
  match decodeAddr field with
  | some (.store _) => if wr then s.storeWritable p (field % 2 ^ 32) len else s.storeOk p (field % 2 ^ 32) len
  | some (.va _) => true
  | none => false

/-- Whether the partials of a REDUCE lie in their store, given which of them have 48-bit entries (R114, R211). -/
def State.partialsOk (s : State) (d : Desc) (wide : List Bool) : Bool :=
  match decodeAddr (d.at 16 8) with
  | some (.store a) => wide.zipIdx.all fun (w, i) =>
      let x := { a with off := a.off + i * d.at 24 4 }
      let len := 8 + (if w then 8 else 4) * d.at 40 4
      decide (x.off + len ≤ x.size) && s.rangeOk d.part x len
  | some (.va _) => true
  | none => false

/-! ### Stage 3 (R254, R273, R282, R302) -/

/-- Keys of an attention descriptor: the columns of a score row (Table 7.2). -/
def Desc.keys (d : Desc) : Nat := if d.opcode = 0x23 then d.bK else d.bN

/-- Bits of one element of a score row, or of a dP row in GRAD mode. -/
def Desc.scoreBits (d : Desc) : Nat := if d.scoreLns && !(d.opcode == 0x22 && d.grad) then 12 else 16

/-- Whether the declared regions hold what R254 asks of them. -/
def Desc.regionsOk (d : Desc) : Bool :=
  let a := d.at 44 4
  let b := d.at 52 4
  let all := d.bB * d.gm * d.gn
  if d.opcode = 0x22 then true
  else if d.opcode = 0x11 then decide ((if d.aStr then 2 else all) * d.aTile ≤ a)
  else if d.opcode = 0x30 then
    decide ((if d.aStr then 2 else all) * d.aTile ≤ a) && decide ((if d.bStr then 2 else all) * d.bTile ≤ b)
  else
    decide ((if d.aStr then 2 else d.bB * d.heads * d.gm) * d.aTile ≤ a) &&
    decide ((if d.bStr then 2 else d.gn) * d.bTile ≤ b)

/-- ROPE_EN and its fields (Table 13.10). -/
def Desc.rope (d : Desc) : Nat := if d.opcode = 0x10 then d.at 100 4 else 0
/-- The head dimension of the rotary heads. -/
def Desc.ropeDim (d : Desc) : Nat := (bitsOf d.rope 7 4 + 1) * 16
/-- The first rotated column. -/
def Desc.ropeCol (d : Desc) : Nat := bitsOf d.rope 31 16 * 16
/-- The number of rotary heads. -/
def Desc.ropeHeads (d : Desc) : Nat := bitsOf d.rope 15 8

/-- The rows of an attention descriptor's score region (R282). -/
def Desc.scoreRows (d : Desc) : Nat := d.bB * d.hpc * d.bM

/-- The container of P in bits. -/
def Desc.pCont (d : Desc) : Nat := if d.pFmt = 0 then containerBits d.pA else if d.pFmt = 1 then 8 else 16

/-- Bytes from the first to the end of the last of a descriptor's rows, placed by S_STRIDE, of `bits` bits a column (R282). -/
def Desc.rowsExtent (d : Desc) (bits : Nat) : Nat :=
  if d.scoreRows = 0 then 0 else (d.scoreRows - 1) * d.at 112 4 + (d.keys * bits + 7) / 8

/-- Bits a column takes in the rows at S_BASE. -/
def Desc.rowBits (d : Desc) : Nat :=
  if d.opcode = 0x23 then d.aCont else if d.opcode = 0x21 then max d.scoreBits d.pCont else d.scoreBits

/-- Whether rows placed by S_STRIDE that a descriptor writes begin as R143 asks; where a row ends is left to R291.
DEDUCED (log 101). -/
def State.rowsAligned (s : State) (field len : Nat) : Bool :=
  match decodeAddr field with
  | some (.store a) =>
    a.off % 8 == 0 && (a.off % 16 == 0 || (sectorsOf a.off len).all fun o => !s.sectorWeight { a with off := o })
  | some (.va _) => true
  | none => false

/-- RANGE_ADDR of a draining descriptor. -/
def Desc.rangeField (d : Desc) : Nat := if d.opcode = 0x10 then d.at 112 4 else d.at 184 4

/-- Whether the range records of a descriptor lie where R195 has them (R114, R143). -/
def State.recordsOk (s : State) (d : Desc) : Bool :=
  let n := d.bB * d.heads * ((d.bM + 63) / 64)
  !d.rangeEn ||
  (s.storeOk d.part d.rangeField (8 * n) && s.storeWritable d.part d.rangeField 8 &&
   match decodeSAddr d.rangeField with
   | some a => (sectorsOf a.off (8 * n)).all fun o => !s.sectorWeight { a with off := o }
   | none => false)

/-- Whether what a descriptor reads and writes in stores, whose extent follows from its bounds, lies in them (R114, R143,
R195, R282): checked at commit, and at stage 3 where bounds come from memory. DEDUCED (log 101). -/
def State.extentsOk (s : State) (d : Desc) : Bool :=
  let op := d.opcode
  let n := d.rowsExtent d.rowBits
  (!attnOp op ||
    (s.addrOk d.part (d.at 104 8) n false && (op == 0x23 || s.rowsAligned (d.at 104 8) n) &&
     (!(op == 0x22 || op == 0x21) || s.addrOk d.part (d.at 120 8) (8 * d.scoreRows) (op == 0x22 && !d.grad)) &&
     (!(op == 0x22 && d.grad) || s.addrOk d.part (d.at 128 8) (d.rowsExtent d.pCont) false))) &&
  (!(op == 0x10 || op == 0x23) || s.recordsOk d)

/-- Every check of stage 3 but those of page tables. -/
def Desc.stage3Ok (d : Desc) : Bool :=
  d.regionsOk &&
  (!bitOf d.rope 0 || decide (d.ropeCol + d.ropeHeads * d.ropeDim ≤ d.bN)) &&
  (!attnOp d.opcode ||
    ((d.opcode == 0x22 || (if d.opcode = 0x23 then d.bN == d.headDim else d.bK == d.headDim)) &&
      d.at 112 4 % 32 == 0 && decide (d.keys * d.scoreBits ≤ 8 * d.at 112 4)))

/-- Stage 3, and the end of a descriptor that owns no position (R246, R253). -/
def State.stage3 (s : State) (d : Desc) : State :=
  if d.stage3Ok = false ∨ (d.memBounds && !s.extentsOk d) = true then s.endDesc d.id stTileIllegal
  else if d.owned 0 = none then s.endDesc d.id stOk else s

/-- A descriptor that ends at stage 2, 3 or 4 leaves its output regions as they are (R253, R255). -/
def State.untear (s : State) (id : Nat) : State := s.modDesc id fun d => { d with torn := false }

/-- The bounds land (R239): stage 2, and stage 3 where no walk is awaited; a failure leaves no side effects (R253).
DEDUCED (log 57). -/
def State.landBounds (s : State) (d : Desc) (cc : Nat) : State :=
  (onGot ((s.spend d.id cc).readBounds d) fun (bs, ptr) s =>
    if boundsOk bs = false then s.endDesc d.id stBoundsFault
    else onGot (s.readVec d ptr (bs.getD 3 0) d.prog.lenBytes) fun lens s =>
      onGot (s.readPos d (bs.getD 3 0)) fun (pos, bad) s =>
        let d := { d with prog := { d.prog with
          bounds := bs, lens := lens, poss := pos, posBad := bad, boundsLanded := true } }
        let s := s.modDesc d.id fun e => { e with prog := d.prog }
        if d.walks then s else s.stage3 d).untear d.id

/-! ### Opening a tile (R191, R193, R248, R255, R280) -/

/-- Whether an earlier CMU descriptor of the frond has not ended (R179). -/
def State.cmuBusy (s : State) (d : Desc) : Bool :=
  productOp d.opcode && d.arith == 3 &&
  (s.inflight.takeWhile fun e => e.id != d.id).any fun e =>
    productOp e.opcode && e.arith == 3 && e.core.1 == d.core.1 && !e.ended

/-- Whether a tile of a descriptor may start: its bounds and walk have landed, no tile of it is open, and every
PRECISION_SET of its partition that has committed has acted (R206). -/
def State.tileDue (s : State) (d : Desc) : Bool :=
  d.prog.boundsLanded && (!d.walks || d.prog.walked) && !d.prog.tileOpen && !s.cmuBusy d &&
  !(s.inflight.any fun e => e.opcode == 2 && e.part == d.part && !e.ended)

/-- Whether a width code suits an arithmetic mode (R193). -/
def familyOk (arith width : Nat) : Bool :=
  match arith with
  | 0 => decide (width ≤ 6)
  | 1 => width == 7
  | 2 => width == 8
  | _ => width == 9

/-- The tag word that a tile's tag comes from: A_TAG_ADDR, or P_TAG_ADDR for ATTN_PV (R297). -/
def Desc.tagField (d : Desc) : Nat :=
  if d.opcode = 0x10 then d.at 120 8 else if d.opcode = 0x23 then d.at 136 8 else d.at 176 8

/-- A tag as the number that AS tiles are held under: WIDTH and EXP. DEDUCED (log 65). -/
def tagCode (width : Nat) (exp : Int) : Nat := width + 16 * toBits 8 exp

/-- The tag of a tile (Table 5.3); a tag that R193 refuses ends the descriptor. DEDUCED (log 65). -/
def State.tileTag (s : State) (d : Desc) : Option (Nat × Int) × State :=
  if d.arith = 3 ∧ d.opcode ≠ 0x23 then (some (9, 0), s)
  else match decodeAddr d.tagField with
    | none => (none, s.endDesc d.id stTileIllegal)
    | some a =>
      match s.fetch d a 8 with
      | (none, s) => (none, s)
      | (some l, s) =>
        let w := leNat l
        let width := w % 16
        let e := sext 8 (bitsOf w 11 4)
        let exp := if d.arith = 3 then 0 else if d.arith = 0 then e + d.wexp else e + d.wexp - 16
        if familyOk d.arith width && decide (-128 ≤ exp) && decide (exp ≤ 127) &&
            (d.arith != 0 || decide (widthBits width ≤ d.aBits))
        then (some (width, exp), s) else (none, s.endDesc d.id stPrecisionMismatch)

/-- A tile's tag differs from the one run-ahead predicted: the run-ahead work of the ring is squashed (Table 13.15). -/
def State.tagSquash (s : State) (d : Desc) (tag : Nat) : State :=
  match d.prog.predicted with
  | none => s
  | some t =>
    if t = tag then s
    else
      let s := s.modDesc d.id fun e => { e with prog := { e.prog with predicted := none } }
      let k := kSquashPrecision d.part
      if s.runahead.any fun w => w.ring == d.ring then s.squash d.ring k else s.bump k

/-- The bitmap words of a tile (R279, R280), numbered within the element's bitmap; the wait for them counts as that for a
bounds record does (R239). -/
def State.readMask (s : State) (d : Desc) (t : Tile) (cc : Nat) : Option (List (Nat × Nat)) × State :=
  if d.bitmap && (d.opcode == 0x20 || d.opcode == 0x21) then
    let per := (d.bN + 4095) / 4096
    let base := d.at 96 8 + t.b * ((d.bM + 63) / 64) * per * 8
    let us := countFrom (d.row0 t / 64) ((d.row0 t + d.rows t + 63) / 64 - d.row0 t / 64)
    let vs := countFrom (d.col0 t / 4096) ((d.col0 t + d.cols t + 4095) / 4096 - d.col0 t / 4096)
    (us.flatMap fun u => vs.map fun v => u * per + v).foldl (fun (acc : Option (List (Nat × Nat)) × State) i =>
      match acc with
      | (none, s) => (none, s)
      | (some m, s) =>
        match s.fetch d (.va (base + 8 * i)) 8 with
        | (some l, s) => (some (m ++ [(i, leNat l)]), s)
        | (none, s) => (none, s)) (some [], s.spend d.id cc)
  else (some [], s)

/-- Whether a stage 4 check fails for a tile's batch element (R255, R302). -/
def Desc.stage4Bad (d : Desc) (t : Tile) : Bool :=
  decide (d.bM < d.len t.b) ||
  (attnOp d.opcode && (d.prog.posBad || decide (d.keys < d.posOff t.b + d.len t.b) ||
    decide (2 ^ 24 ≤ d.posOff t.b + d.len t.b)))

/-- The tag EXP of a P formed with σ_max = 1 (Table 7.6). -/
def Desc.plainPExp (d : Desc) : Int :=
  if d.pFmt = 0 then 2 - (widthBits d.pA : Int) else if d.pFmt = 1 then 1 else 0

/-- The tag part of a tile's start: R193 for AS tiles, the layer entry for QUANTISE (R203), which a
run that repeats the tile takes again (R225), and the P tag of a GRAD
descriptor (R301). -/
def State.startTag (s : State) (d : Desc) (c : Nat) : Option Prog × State :=
  if productOp d.opcode then
    match s.tileTag d with
    | (none, s) => (none, s)
    | (some (w, e), s) =>
      let s := s.tagSquash d (tagCode w e)
      if d.accInit || Tbl.get none s.asTags (c * 65536 + d.asBase) == some (tagCode w e)
      then (some { d.prog with width := w, exp := e }, s)
      else (none, s.endDesc d.id stPrecisionMismatch)
  else if d.opcode = 0x11 then
    let n := d.prog.tile
    let e := match d.prog.entries.find? fun x => x.1 == n with
      | some x => x.2
      | none => s.liveNat (kPrecLayer d.part d.layer)
    (some { d.prog with entry := e, entries := (d.prog.entries.filter fun x => x.1 != n) ++ [(n, e)] }, s)
  else if d.opcode = 0x22 ∧ d.grad = true then
    match decodeAddr (d.at 136 8) with
    | none => (none, s.endDesc d.id stTileIllegal)
    | some a =>
      match s.fetch d a 8 with
      | (none, s) => (none, s)
      | (some l, s) =>
        if sext 8 (bitsOf (leNat l) 11 4) = d.plainPExp then (some d.prog, s)
        else (none, s.endDesc d.id stPrecisionMismatch)
  else (some d.prog, s)

/-- Whether operand A of a tile is fetched now (R250, R251, R254). -/
def Desc.aNeeded (d : Desc) (t : Tile) : Bool :=
  d.aStr && d.opcode != 0x22 && !(productOp d.opcode && d.prog.heldA == some (t.bb, t.i))

/-- Whether operand B of a tile is fetched now. -/
def Desc.bNeeded (d : Desc) (t : Tile) : Bool :=
  d.bFetched && (productOp d.opcode || d.opcode == 0x30) && !(productOp d.opcode && d.prog.heldB.contains (t.bb, t.j))

/-- The descriptor with the operands of a tile in its regions: a streamed operand takes the half that the tile before it does
not use (R250). -/
def Desc.holding (d : Desc) (t : Tile) : Desc :=
  let a := if d.aNeeded t then { d.prog with halfA := (d.prog.halfA + 1) % 2, heldA := some (t.bb, t.i) } else d.prog
  let b := if d.bNeeded t = false then a
    else if d.bStr then { a with halfB := (a.halfB + 1) % 2, heldB := [(t.bb, t.j)] }
    else { a with heldB := (t.bb, t.j) :: a.heldB.filter fun x => x.2 != t.j }
  { d with prog := b }

/-- Opens a tile that is not skipped; a failure of the bitmap's read writes nothing (R255). DEDUCED (log 57). -/
def State.openTile (s : State) (d : Desc) (c : Nat) (t : Tile) (cc : Nat) : State :=
  onGot (s.startTag d c) fun pr s =>
    match s.readMask d t cc with
    | (none, s) => s.untear d.id
    | (some m, s) =>
      let here := d.prog.next == some d.prog.tile && (!productOp d.opcode || pr.width == d.prog.width)
      let h := if here then (d.holding t).prog else d.prog
      s.modDesc d.id fun e => { e with prog := { pr with
        predicted := e.prog.predicted, tile := d.prog.tile, tileOpen := true, mask := m, next := none,
        halfA := h.halfA, halfB := h.halfB, heldA := h.heldA, heldB := h.heldB,
        fetched := here || !(d.aNeeded t || d.bNeeded t) } }

/-- Passes over skipped tiles and opens the next one, or ends a descriptor whose positions are exhausted (R245, R248). -/
def State.nextTile : Nat → State → Desc → Nat → Nat → State
  | 0, s, _, _, _ => s
  | fuel + 1, s, d, c, cc =>
    match d.curTile with
    | none => s.endDesc d.id stOk
    | some t =>
      if d.stage4Bad t then
        (if attnOp d.opcode && d.prog.posBad then s.bump (kMapFaults d.part) else s).endDesc d.id stBoundsFault
      else if d.skipped t then
        let d := { d with prog := { d.prog with tile := d.prog.tile + 1 } }
        let s := s.modDesc d.id fun e => { e with prog := { e.prog with tile := d.prog.tile } }
        State.nextTile fuel (s.wrapAdd (kTilesSkipped d.part)) d c cc
      else s.openTile d c t cc

/-- The open tile's work is done: the next position is due, and a descriptor with no position left ends (R245).
DEDUCED (log 57). -/
def State.closeTile (s : State) (d : Desc) (c : Nat) : State :=
  let s := (s.wrapAdd (kTilesRun c)).modDesc d.id fun e => { e with prog := { e.prog with
    tile := d.prog.tile + 1, tileOpen := false, fetched := false } }
  if d.owned (d.prog.tile + 1) = none then s.endDesc d.id stOk else s

/-! ### Operand fetch (R250 to R252, R310) -/

/-- Rows land in a region, past the partition filter (R150); all but a streamed B fetch undefine a SPEC sector (R571). -/
def State.landRows (s : State) (d : Desc) (a : SAddr) (l : List Byte) (fore : Bool) : Bool × State :=
  (cutRows a.row (l.length + 1) a.off l).foldl (fun (acc : Bool × State) (x : Nat × List Byte) =>
    if acc.1 then
      let at_ := { a with off := x.1 }
      if acc.2.filterOk d.part at_ then
        (true, if fore then acc.2.foreWrite at_ x.2 else acc.2.storeWrite at_ x.2)
      else (false, acc.2.blocked d.id)
    else acc) (true, s)

/-- Brings pieces into a region: (address, offset in the region, bytes). DEDUCED (log 57). -/
def State.bring (s : State) (d : Desc) (a : SAddr) (l : List (Addr × Nat × Nat)) (fore : Bool) : Bool × State :=
  l.foldl (fun (acc : Bool × State) (x : Addr × Nat × Nat) =>
    if acc.1 && decide (x.2.2 ≠ 0) then
      match acc.2.fetch d x.1 x.2.2 with
      | (some b, s) => s.landRows d { a with off := a.off + x.2.1 } b fore
      | (none, s) => (false, s)
    else acc) (true, s)

/-- Bits of one staged activation in a tile's container (Table 5.1). -/
def Desc.tagCont (d : Desc) : Nat :=
  if productOp d.opcode = false ∨ d.arith = 3 then 16 else containerBits d.prog.width

/-- Live codes of operand-A row `r` of a product tile: nothing is read at a padded position (R256), nor at or beyond the live
range of a row of P (R294). -/
def Desc.aCodes (d : Desc) (t : Tile) (r : Nat) : Nat :=
  if d.opcode = 0x23 then d.liveRange d.bK t.b (d.row0 t + r) else d.bK

/-- The address of a row among rows placed by S_STRIDE (R282, R291). -/
def Desc.rowAt (d : Desc) (off bb row : Nat) : Option Addr :=
  (decodeAddr (d.at off 8)).map fun a => a.plus ((bb * d.bM + row) * d.at 112 4)

/-- The pieces of a streamed A tile: of ATTN_PV the rows of P (R291). DEDUCED (log 67). -/
def Desc.aPieces (d : Desc) (t : Tile) : List (Addr × Nat × Nat) :=
  (countFrom 0 (d.rows t)).map fun r =>
    let from_ := if d.opcode = 0x23 then (d.rowAt 104 t.bb (d.row0 t + r)).getD (.va 0) else .va (d.aFrom t + r * d.aRow)
    let n := if productOp d.opcode then (d.aCodes t r * d.tagCont + 7) / 8 else d.cols t * 2
    (from_, d.aPlace t + r * d.aRow, n)

/-- The pieces of a streamed B tile: (device virtual address, offset in the region, bytes). -/
def Desc.bPieces (d : Desc) (t : Tile) : List (Nat × Nat × Nat) :=
  if d.opcode = 0x30 then
    (countFrom 0 (d.rows t)).map fun r => (d.bFrom t + r * d.tn * 2, d.bPlace t + r * d.tn * 2, d.cols t * 2)
  else if d.arith = 3 then
    (countFrom 0 (d.cols t)).map fun n => (d.bFrom t + n * d.kp * 2, d.bPlace t + n * d.kp * 2, d.bK * 2)
  else
    (countFrom 0 ((d.cols t + 63) / 64)).flatMap fun g =>
      (countFrom 0 (d.kp / 256 * d.planes)).map fun i =>
        let o := (g * (d.kp / 256) * d.planes + i) * 2048
        (d.bFrom t + o, d.bPlace t + o, 32 * min 64 (d.cols t - 64 * g))

/-- The first unit and the units of the page that holds a token of an element. -/
def Desc.pageOf (d : Desc) (b tok : Nat) : Option (Nat × Nat) :=
  (d.prog.pages.find? fun x => x.1 / 65536 == b && x.1 % 65536 == tok / (16 * x.2.2)).map fun x => x.2

/-- Tokens of an element that a page-sourced attention descriptor covers (R319). -/
def Desc.coveredKeys (d : Desc) (b : Nat) : Nat := if d.padmask then d.posOff b + d.len b else d.keys

/-- Codes `lo` to `lo + n - 1` of a key's row of one part (0 K, 1 V) of the KV head a query head reads (R267, R310). -/
def State.pageRow (s : State) (d : Desc) (t : Tile) (part tok lo n : Nat) : Option (List Nat) × State :=
  let p := d.part
  match d.pageOf t.b tok with
  | none => (some (List.replicate n 0), s)
  | some (u, us) =>
    let e := s.kvElem p
    match s.fetch d (.va (s.elemVa p u us d.layer (d.kvHead t.h) part (tok % (16 * us)) lo)) (n * e) with
    | (some l, s) => (some (unpack (8 * e) n l), s)
    | (none, s) => (none, s)

/-- The rows of several keys, one after another; a key the walk does not cover reads as zero codes. -/
def State.pageRows (s : State) (d : Desc) (t : Tile) (part : Nat) (toks : List Nat) (lo n : Nat) :
    Option (List (List Nat)) × State :=
  toks.foldl (fun (acc : Option (List (List Nat)) × State) tok =>
    match acc with
    | (none, s) => (none, s)
    | (some m, s) =>
      if d.coveredKeys t.b ≤ tok then (some (m ++ [List.replicate n 0]), s)
      else match s.pageRow d t part tok lo n with
        | (some l, s) => (some (m ++ [l]), s)
        | (none, s) => (none, s)) (some [], s)

/-- A B tile made from page rows: output-major BF16, or the bit-planes of R166. -/
def Desc.pageTile (d : Desc) (outs : List (List Nat)) : List Byte :=
  let row := fun n => (outs.getD n []) ++ List.replicate (d.kp - (outs.getD n []).length) 0
  if d.arith = 3 then (countFrom 0 outs.length).flatMap fun n => pack 16 (row n)
  else planeTile (roundUp outs.length 64) d.kp d.planes row

/-- Fetches the page rows of a tile and lands them in operand layout (R310). -/
def State.bringPages (s : State) (d : Desc) (t : Tile) (a : SAddr) : Bool × State :=
  let at_ := { a with off := a.off + d.bPlace t }
  if d.opcode = 0x23 then
    match s.pageRows d t 1 (countFrom 0 d.bK) (d.col0 t) (d.cols t) with
    | (some m, s) =>
      s.landRows d at_ (d.pageTile ((countFrom 0 (d.cols t)).map fun n => m.map fun l => l.getD n 0)) (!d.bStr)
    | (none, s) => (false, s)
  else
    match s.pageRows d t 0 (countFrom (d.col0 t) (d.cols t)) 0 d.bK with
    | (some m, s) => s.landRows d at_ (d.pageTile m) (!d.bStr)
    | (none, s) => (false, s)

/-- Brings the operands that a tile needs to the places that a descriptor holding them has them in; answers whether all
landed. -/
def State.bringTile (s : State) (d : Desc) (t : Tile) : Bool × State :=
  match d.region? 40, (if d.bNeeded t then d.region? 48 else some ⟨false, 0, 0, 0⟩) with
  | some a, some b =>
    let h := d.holding t
    let x := if d.aNeeded t then s.bring h a (h.aPieces t) true else (true, s)
    if x.1 && d.bNeeded t then
      if d.kvSrc && productOp d.opcode then x.2.bringPages h t b
      else x.2.bring h b ((h.bPieces t).map fun y => (.va y.1, y.2)) (!d.bStr)
    else x
  | _, _ => (false, s.endDesc d.id stTileIllegal)

/-- The operands of the open tile have landed. -/
def State.landTile (s : State) (d : Desc) (t : Tile) : State :=
  let h := (d.holding t).prog
  (s.bringTile d t).2.modDesc d.id fun e => { e with prog := { e.prog with
    halfA := h.halfA, halfB := h.halfB, heldA := h.heldA, heldB := h.heldB, fetched := true } }

/-- The number of the next tile from `n` on that runs, where none fails a check of stage 4 before it. -/
def Desc.nextRun (d : Desc) : Nat → Nat → Option Nat
  | 0, _ => none
  | fuel + 1, n =>
    match d.owned n with
    | none => none
    | some k =>
      let t := d.tileAt k
      if d.stage4Bad t then none else if d.skipped t then d.nextRun fuel (n + 1) else some n

/-- While the open tile runs, the operands of the next tile land in the halves that it does not use (R250).  A fetch that does
not succeed has not landed yet: its tile meets the failure when it opens. DEDUCED (log 57). -/
def State.prefetch (s : State) (d : Desc) : State :=
  match d.nextRun (d.positions + 1) (d.prog.tile + 1) with
  | none => s
  | some n =>
    match (d.owned n).map d.tileAt with
    | none => s
    | some t =>
      let whole := !d.bNeeded t || d.bStr
      if d.prog.next.isSome || !whole || !(d.aNeeded t || d.bNeeded t) then s
      else match s.bringTile d t with
        | (true, s) => s.modDesc d.id fun e => { e with prog := { e.prog with next := some n } }
        | (false, _) => s

end Sys2Proof.Machine
end

