-- ==== Sys2Proof/Machine/Compute.lean ====
section
/-!
DEFINITION. Machine/Compute.lean: the arithmetic of the TPA and the CMU, drains, range records, staging, reductions and
the batch former.
-/
namespace Sys2Proof.Machine

/-! ### Accumulation (R162 to R178) -/

/-- One saturating addition into an accumulator: its value and the saturating additions so far (R175). -/
def accAdd (wide : Bool) (acc : Int × Nat) (v : Int) : Int × Nat :=
  let lim : Int := if wide then 2 ^ 47 else 2 ^ 31
  let x := acc.1 + v
  if x < -lim then (-lim, acc.2 + 1) else if lim - 1 < x then (lim - 1, acc.2 + 1) else (x, acc.2)

/-- The slices of an activation of `a` bits, lowest first (Table 4.3). -/
def slicesOf (a : Nat) (v : Int) : List Int :=
  let u := toBits a v
  let n := (a + 3) / 4
  (countFrom 0 n).map fun j =>
    if j + 1 = n then sext (a - 4 * j) (u >>> (4 * j)) else (bitsOf u (4 * j + 3) (4 * j) : Int)

/-- What one pass adds before its shift: slice values against weight bit-plane `b` (R163); a weight that is none
contributes nothing (R256). -/
def passSum (wcode w b : Nat) (sl : List Int) (ws : List (Option Nat)) : Int :=
  let sum := (sl.zip ws).foldl (fun (t : Int) (x : Int × Option Nat) =>
    match x.2 with
    | none => t
    | some c =>
      if wcode = 1 then (if bitOf c b then t + x.1 else t - x.1) else if bitOf c b then t + x.1 else t) 0
  if wcode = 0 ∧ b + 1 = w then -sum else sum

/-- The first `m` passes of one TP step on an accumulator: slices ascending, planes ascending within each (R164). -/
def tpStep (wide : Bool) (wcode w a m : Nat) (acts : List Int) (ws : List (Option Nat)) (acc : Int × Nat) : Int × Nat :=
  let sls := acts.map (slicesOf a)
  (((countFrom 0 ((a + 3) / 4)).flatMap fun j => (countFrom 0 w).map fun b => (j, b)).take m).foldl (fun acc x =>
    accAdd wide acc (passSum wcode w x.2 (sls.map fun l => l.getD x.1 0) ws * 2 ^ (x.2 + 4 * x.1))) acc

/-- The signed linear form of a product of two log-number codes (R172, R173). -/
def logTerm (f : Lns) (a w : Nat) : Int :=
  if f.l a = 0 ∨ f.l w = 0 then 0
  else
    let y : Int := linearForm (2 ^ f.frac) ((f.l a : Int) + f.l w - 2 * f.one)
    if f.neg a != f.neg w then -y else y

/-- The first `m` additions of one log step: the products of activations 4l + k are summed over the lanes and added once, for k
ascending (R174). -/
def logStep (f : Lns) (m : Nat) (acts : List Nat) (ws : List (Option Nat)) (acc : Int × Nat) : Int × Nat :=
  let ts := (acts.zip ws).zipIdx.map fun (x, i) => (i % 4, match x.2 with | none => 0 | some w => logTerm f x.1 w)
  (countFrom 0 (min m 4)).foldl (fun acc k =>
    accAdd false acc (ts.foldl (fun (t : Int) (x : Nat × Int) => if x.1 = k then t + x.2 else t) 0)) acc

/-- One CMU term (R178): FP32 codes. -/
def cmuStep (acc a w : Nat) : Nat := fp32Add (fp32.decode acc) (fvMul (bf16.flush a) (bf16.flush w))

/-- The K-blocks of a row. -/
def blocksOf {α : Type} (kp : Nat) (l : List α) : List (List α) :=
  (countFrom 0 (kp / 256)).map fun i => (l.drop (256 * i)).take 256

/-- An accumulator over the given K-blocks of a row and an output, each with the passes run on it (R247); in CMU mode an FP32
code over single K terms.  The number counts saturating additions. -/
def Desc.dot (d : Desc) (steps : List (Nat × Nat)) (acts : List Nat) (ws : List (Option Nat)) (acc : Int) : Int × Nat :=
  if d.arith = 3 then
    let terms := (acts.zip ws).zipIdx.filter fun x => steps.any fun y => y.1 == x.2 / 256
    ((terms.foldl (fun (acc : Nat) x => cmuStep acc x.1.1 (x.1.2.getD 0)) acc.toNat : Nat), 0)
  else
    let as := blocksOf d.kp acts
    let bs := blocksOf d.kp ws
    steps.foldl (fun st (x : Nat × Nat) =>
      let a := as.getD x.1 []
      let b := bs.getD x.1 []
      if d.arith = 0 then
        let w := widthBits d.prog.width
        tpStep d.isWide d.wcode d.wBits w x.2 (a.map (sext w ·)) b st
      else if d.arith = 1 then logStep lns8 x.2 a b st
      else logStep lns12 (x.2 / 4) a b st) (acc, 0)

/-! ### Operands of a tile -/

/-- The pad code of operand A (Table 6.8). -/
def Desc.padA (d : Desc) : Nat :=
  if d.arith = 0 then
    let a := widthBits d.prog.width
    toBits a (padTp d.padType d.padConst a)
  else if d.arith = 1 then padCode d.padType d.padConst 8 true 0
  else if d.arith = 2 then padCode d.padType d.padConst 12 true 0
  else padCode d.padType d.padConst 16 false 0x7F80

/-- Bits of an activation code that count: its container holds a TP code sign-extended. -/
def Desc.codeBits (d : Desc) : Nat :=
  if d.arith = 0 then widthBits d.prog.width else if d.arith = 1 then 8 else if d.arith = 2 then 12 else 16

/-- The live codes of operand-A row `r` of a tile, from its region (R250). -/
def State.rowA (s : State) (d : Desc) (t : Tile) (r : Nat) : Option (List Nat) × State :=
  let c := d.tagCont
  let n := d.aCodes t r
  match d.region? 40 with
  | none => (none, s.endDesc d.id stTileIllegal)
  | some a =>
    match s.fetch d (.store { a with off := a.off + d.aPlace t + r * d.aRow }) ((n * c + 7) / 8) with
    | (some l, s) => (some ((unpack c n l).map (· % 2 ^ d.codeBits)), s)
    | (none, s) => (none, s)

/-- Every row of operand A of a tile, padded (R256, R294). -/
def State.rowsA (s : State) (d : Desc) (t : Tile) : Option (List (List Nat)) × State :=
  let kk := if d.arith = 3 then d.bK else d.kp
  (countFrom 0 d.tm).foldl (fun (acc : Option (List (List Nat)) × State) r =>
    match acc with
    | (none, s) => (none, s)
    | (some m, s) =>
      if r < d.rows t then
        match s.rowA d t r with
        | (none, s) => (none, s)
        | (some l, s) =>
          let mid := if d.opcode = 0x23 then List.replicate (d.bK - l.length) 0 else []
          (some (m ++ [(l ++ mid ++ List.replicate (kk - max l.length d.bK) d.padA)]), s)
      else (some (m ++ [List.replicate kk d.padA]), s)) (some [], s)

/-- The weights of a tile by output; none is a weight that contributes nothing (R256). -/
def State.rowsB (s : State) (d : Desc) (t : Tile) : Option (List (List (Option Nat))) × State :=
  match d.region? 48 with
  | none => (none, s.endDesc d.id stTileIllegal)
  | some a =>
    match s.fetch d (.store { a with off := a.off + d.bPlace t }) d.bTile with
    | (none, s) => (none, s)
    | (some l, s) =>
      let pad := fun (c : List Nat) => (c.take d.bK).map some ++ List.replicate (d.kp - d.bK) (none : Option Nat)
      (some ((countFrom 0 d.tn).map fun n =>
        if d.cols t ≤ n then List.replicate d.kp none
        else if d.arith = 3 then pad (unpack 16 d.kp ((l.drop (n * d.kp * 2)).take (d.kp * 2)))
        else pad (planeCodes d.kp d.planes l n)), s)

/-- AS entries of one accumulator: 2 in wide mode (R115). -/
def Desc.accEntries (d : Desc) : Nat := if d.isWide then 2 else 1

/-- The accumulator at (r, n) of the resident AS tile (R115). -/
def State.accRead (s : State) (d : Desc) (c r n : Nat) : Int :=
  let k := c * 32768 + d.asBase + (r * d.tn + n) * d.accEntries
  let lo := (Tbl.get 0 s.acc k).toNat
  if d.arith = 3 then lo
  else if d.isWide then sext 48 (lo + (Tbl.get 0 s.acc (k + 1)).toNat * 2 ^ 32)
  else sext 32 lo

/-- The entries of a tile that adds to what the AS holds pass their error check (Table 3.9, R144, R145), or end the
descriptor. -/
def State.accCheck (s : State) (d : Desc) (c : Nat) : Bool × State :=
  if d.accInit then (true, s)
  else
    let l := wrongBits s.flips 1 (accUnit c d.asBase) (d.tm * d.tn * d.accEntries)
    let fixed := (l.filter (· == 1)).length
    let bad := (l.filter fun b => decide (1 < b)).length
    if bad = 0 then (true, s.add (kLsEccCorrected c) fixed)
    else (false, ((s.endDesc d.id stEcc).add (kLsEccCorrected c) fixed).coreEcc c bad)

/-- Writes an accumulator into the AS, and whether it has saturated since its tile's first pass. -/
def State.accStore (s : State) (d : Desc) (c r n : Nat) (x : Int × Nat) : State :=
  let e := d.asBase + (r * d.tn + n) * d.accEntries
  let u := toBits 64 x.1
  let s := s.accPut c e (BitVec.ofNat 32 u)
  let s := if d.isWide then s.accPut c (e + 1) (BitVec.ofNat 32 (u >>> 32)) else s
  let old := !d.accInit && Tbl.get false s.asSat (c * 32768 + e)
  { s with asSat := Tbl.set false s.asSat (c * 32768 + e) (old || x.2 != 0) }

/-- Writes the accumulators of a tile into the AS, with its tag (R115, R189). -/
def State.accWrite (s : State) (d : Desc) (c : Nat) (l : List (List (Int × Nat))) : State :=
  let s := l.zipIdx.foldl (fun s (row, r) => row.zipIdx.foldl (fun (s : State) (x, n) => s.accStore d c r n x) s) s
  { s with asTags := Tbl.set none s.asTags (c * 65536 + d.asBase) (some (tagCode d.prog.width d.prog.exp)) }

/-! ### Cycles (R167, R168, R180, R186, R296) -/

/-- K-blocks of a tile that run passes: for ATTN_PV, those with a key inside some row's live range (R296). -/
def Desc.liveBlocks (d : Desc) (t : Tile) : List Nat :=
  let top := (countFrom (d.row0 t) (d.rows t)).foldl (fun m r => max m (d.liveRange d.keys t.b r)) 0
  (countFrom 0 (d.kp / 256)).filter fun kb => d.opcode != 0x23 || decide (256 * kb < top)

/-- Passes of one step (R161). -/
def Desc.stepPasses (d : Desc) : Nat :=
  if d.arith = 0 then d.wBits * ((widthBits d.prog.width + 3) / 4) else if d.arith = 1 then 4 else 16

/-- Wload of a weight block: each plane takes the most rows that any bank holds of it (R167). -/
def Desc.wload (d : Desc) (off : Nat) : Nat :=
  (countFrom 0 d.planes).foldl (fun n p => n + rowsPerBank 256 65536 (off + p * 2048) 2048) 0

/-- Passes and cycles of a tile (Table 4.8, R180). -/
def Desc.tileCost (d : Desc) (t : Tile) : Nat × Nat :=
  if d.arith = 3 then
    let m := min d.tm (d.bM - d.row0 t)
    (0, 12 + (m + 15) / 16 * ((d.cols t + 15) / 16) * d.bK + 16)
  else
    let live := d.liveBlocks t
    let per := d.kp / 256
    let base := (match d.region? 48 with | some a => a.off | none => 0) + d.bPlace t
    let loads := (countFrom 0 (d.tn / 64)).flatMap fun g => live.map fun kb =>
      d.wload (base + (g * per + kb) * d.planes * 2048)
    let passes := loads.length * d.tm * d.stepPasses
    let stalls := (loads.drop 1).foldl (fun n w => n + (w - d.stepPasses * d.tm)) 0
    let q := d.tm * d.tn
    (passes, max 8 (loads.headD 0) + passes + stalls + 6 + (if d.isWide then (q + 31) / 32 else (q + 63) / 64))

/-- The K-blocks of output `n` of row `r` of a tile, each with the passes run on it, when `cap` passes of the tile run: groups of
64 outputs, then K-blocks, then rows (R247).  A row of P whose live range is empty has none (R296). -/
def Desc.steps (d : Desc) (t : Tile) (cap : Option Nat) (r n : Nat) : List (Nat × Nat) :=
  let live := d.liveBlocks t
  if d.opcode = 0x23 ∧ r < d.rows t ∧ d.aCodes t r = 0 then []
  else live.zipIdx.map fun (kb, i) =>
    (kb, match cap with
      | none => d.stepPasses
      | some m => min d.stepPasses (m - ((n / 64 * live.length + i) * d.tm + r) * d.stepPasses))

/-- The accumulators of the open tile, every row and output of it, after all its passes or after the first `cap`. -/
def State.formTile (s : State) (d : Desc) (c : Nat) (t : Tile) (cap : Option Nat) :
    Option (List (List (Int × Nat))) × State :=
  match s.accCheck d c with
  | (false, s) => (none, s)
  | (true, s) =>
    match s.rowsA d t with
    | (none, s) => (none, s)
    | (some as, s) =>
      match s.rowsB d t with
      | (none, s) => (none, s)
      | (some ws, s) =>
        (some (as.zipIdx.map fun (a, r) => ws.zipIdx.map fun (w, n) =>
          d.dot (d.steps t cap r n) a w (if d.accInit then 0 else s.accRead d c r n)), s)

/-- Passes are counted at a core, or CMU cycles at its frond (Tables 4.10, 4.11). -/
def State.countPasses (s : State) (d : Desc) (c n : Nat) : State :=
  s.wrapAdd (if d.arith = 3 then kCmuBusyCc d.core.1 else kTpaPasses c) n

/-- What the passes of a tile leave in the counters and in the descriptor's cycles; `lost` cycles went by in arbitration while
the CMU ran (R120, R180). -/
def State.countTile (s : State) (d : Desc) (c : Nat) (t : Tile) (lost : Nat) : State :=
  let (p, n) := d.tileCost t
  let s := s.spend d.id n
  let s := if d.opcode = 0x23
    then s.wrapAdd (kMaskedKblocks d.part) (d.kp / 256 - (d.liveBlocks t).length) else s
  s.countPasses d c (if d.arith = 3 then n + lost else p)

/-- A tile that is stopped while it runs has run some of its passes, or of its CMU cycles: at most what it takes (R187).
DESIGN CHOICE (log 104). -/
def State.cutTile (s : State) (d : Desc) : State :=
  match s.descCore d, d.curTile with
  | some c, some t =>
    if productOp d.opcode && d.prog.tileOpen && d.prog.fetched then
      s.takeFree.countPasses d c (min (Config.passesRun s.free) (if d.arith = 3 then (d.tileCost t).2 else (d.tileCost t).1))
    else s
  | _, _ => s

/-- Saturating additions of live outputs: the flag and TPA_SAT_EVENTS (R175, R257). -/
def State.countSats (s : State) (d : Desc) (c : Nat) (t : Tile) (l : List (List (Int × Nat))) : State :=
  let n := (l.take (d.rows t)).foldl (fun n row => (row.take (d.cols t)).foldl (fun n x => n + x.2) n) 0
  if n = 0 then s else (s.bump (kTpaSatEvents c) n).flagDesc d.id 0

/-- A residue mismatch (R184): the descriptor stops after the passes run so far and writes nothing further, and the core is
a fault source. -/
def State.residueFault (s : State) (c n : Nat) : State :=
  (((s.bump (kResidueErrors c)).setNat (kResidueInject c) 0).wrapAdd (kTpaPasses c) n).coreFault c 1

/-! ### Drains (R214 to R217, R549, R552) -/

/-- The sum of two floating-point values, exact. -/
def fvAdd (a b : Fv) : Fv :=
  match a, b with
  | .nan, _ => .nan
  | _, .nan => .nan
  | .inf s, .inf t => if s = t then .inf s else .nan
  | .inf s, _ => .inf s
  | _, .inf t => .inf t
  | .fin s x, .fin t y => .fin (s && t) (x.add y)

/-- The negation of a floating-point value. -/
def fvNeg : Fv → Fv
  | .nan => .nan
  | .inf s => .inf !s
  | .fin s x => .fin (!s) x.neg

/-- The value of an accumulator at a tile's tag (R189). -/
def Desc.accValue (d : Desc) (v : Int) : Fv :=
  if d.arith = 3 then fp32.decode v.toNat else .fin false ⟨v, d.prog.exp⟩

/-- How a value drains to OUT_FMT 0 FP16, 1 BF16 or 3 FP32: its code, and whether it overflowed under R217.  A BF16 result of
the CMU is rounded to nearest, whatever the stream's mode, and overflows to infinity (R177, R178). DEDUCED (log 63). -/
def Desc.drainCode (d : Desc) (fmt : Nat) (r : Rnd) (v : Fv) : Nat × Bool :=
  let f := if fmt = 0 then fp16 else if fmt = 1 then bf16 else fp32
  match v with
  | .nan => (if fmt = 0 then fp16.someNan 0 else f.canonNan, false)
  | .inf s => (f.infCode s, false)
  | .fin s x =>
    if fmt = 3 then fp32.narrow .rne s x else if fmt = 1 ∧ d.arith = 3 then (bf16.ieee s x, false) else f.narrow r s x

/-- The magnitude of a positive number as a BF16 code rounded toward +∞ (Table 5.4). -/
def bf16Up (x : Dy) : Nat :=
  if x.m = 0 then 0
  else
    let x := x.norm
    let q := bf16.spacing x
    let n : Int := if q ≤ x.e then x.at q else -((-x.m) / 2 ^ (q - x.e).toNat)
    match bf16.encode false n q with
    | some c => c
    | none => bf16.infCode false

/-- A range record of a largest magnitude (Table 5.4); where MAX_ABS rounds up to infinity, M is that of 2^128: 129.
DEDUCED (log 64). -/
def rangeRecord (maxAbs : Nat) (nonfinite : Bool) : Nat :=
  let m : Int := if maxAbs = 0 then -32768
    else if maxAbs = bf16.infCode false then 129 else (bf16.finite maxAbs).msb + 1
  maxAbs + toBits 16 m * 2 ^ 16 + 2 ^ 32 + b2n nonfinite * 2 ^ 33

/-- Drained values enter the range record of their block (R195, R196): initialised at the descriptor's first drain into the
block, merged by maximum after. DEDUCED (log 64). -/
def State.rangeMerge (s : State) (d : Desc) (addr : SAddr) (i : Nat) (vs : List Fv) : Bool × State :=
  match s.desc? d.id with
  | none => (false, s)
  | some e =>
    let a : Addr := .store { addr with off := addr.off + 8 * i }
    let top := vs.foldl (fun (m : Dy) v => match v with | .fin _ x => m.max x.abs | _ => m) ⟨0, 0⟩
    let bad := vs.any fun v => match v with | .fin _ _ => false | _ => true
    let put := fun (s : State) (maxAbs : Nat) (bad : Bool) => s.issue d a (leBytes 8 (rangeRecord maxAbs bad))
    if e.prog.recs.contains i then
      match s.fetch d a 8 with
      | (none, s) => (false, s)
      | (some l, s) =>
        let w := leNat l
        put s (max (w % 2 ^ 16) (bf16Up top)) (bad || bitOf w 33)
    else
      put (s.modDesc d.id fun e => { e with prog := { e.prog with recs := e.prog.recs ++ [i] } }) (bf16Up top) bad

/-- RANGE_ADDR of a draining descriptor, as the place it names. -/
def Desc.rangeAddr (d : Desc) : Option SAddr := decodeSAddr d.rangeField

/-- Range records of the rows of a tile (R195). -/
def State.recordRanges (s : State) (d : Desc) (t : Tile) (rows : List (List Fv)) : Bool × State :=
  if d.rangeEn = false then (true, s)
  else match d.rangeAddr with
    | none => (false, s.endDesc d.id stTileIllegal)
    | some a =>
      let blk := fun r => t.bb * ((d.bM + 63) / 64) + (d.row0 t + r) / 64
      ((rows.zipIdx.map fun (_, r) => blk r).eraseDups).foldl (fun (acc : Bool × State) i =>
        if acc.1 then
          acc.2.rangeMerge d a i (rows.zipIdx.flatMap fun (l, r) => if blk r = i then l else [])
        else acc) (true, s)

/-- The stream word that governs a drain. -/
def Desc.drainSc (d : Desc) : Nat := if d.opcode = 0x10 then d.at 96 4 else d.at 160 4
/-- OUT_FMT of a drain. -/
def Desc.outFmt (d : Desc) : Nat := bitsOf d.drainSc 9 8
/-- DRAIN_SCALE. -/
def Desc.drainScale (d : Desc) : Nat := if d.opcode = 0x10 then d.at 108 4 else d.at 188 4
/-- OUT_ADDR, OUT_ROW_STRIDE and OUT_ELEM_STRIDE. -/
def Desc.outAt (d : Desc) (b row : Nat) : Nat :=
  if d.opcode = 0x10 then d.at 80 8 + b * d.at 92 4 * 256 + row * d.at 88 4
  else if d.opcode = 0x11 then d.at 64 8 + b * d.at 76 4 * 256 + row * d.at 88 4
  else d.at 144 8 + b * d.at 156 4 * 256 + row * d.at 152 4

/-- Rotates the live values of a row at position `t` (R270 to R272). -/
def Desc.rotate (d : Desc) (tn : Tile) (t : Nat) (l : List Fv) : List Fv :=
  if bitOf d.rope 0 = false then l
  else
    let (base, cfg) := d.prog.rope
    let r := cfg % 512
    let dim := d.ropeDim
    l.zipIdx.map fun (v, n) =>
      let col := d.col0 tn + n
      let k := col - d.ropeCol
      if col < d.ropeCol ∨ d.ropeHeads ≤ k / dim ∨ r ≤ k % dim then v
      else
        let j := k % dim
        let (i, first) := if bitOf cfg 9 then (j / 2, j % 2 == 0) else (j % (r / 2), decide (j < r / 2))
        let gap := if bitOf cfg 9 then 1 else r / 2
        let (c, s) := cosSin (ropeAngle t base i r)
        let c := Fv.fin false (fp32.finite c)
        let s := Fv.fin false (fp32.finite s)
        let other := l.getD (if first then n + gap else n - gap) (.fin false ⟨0, 0⟩)
        if first then fvAdd (fvMul v c) (fvNeg (fvMul other s)) else fvAdd (fvMul other s) (fvMul v c)

/-- The live values of a tile as they drain: scaled and rotated (R552).  A MATMUL names no position vector, so that the
position of a row is its number. DEDUCED (log 66). -/
def Desc.drainValues (d : Desc) (t : Tile) (l : List (List (Int × Nat))) : List (List Fv) :=
  let sc := fp32.decode d.drainScale
  (l.take (d.rows t)).zipIdx.map fun (row, r) =>
    d.rotate t (d.row0 t + r) ((row.take (d.cols t)).map fun x => fvMul (d.accValue x.1) sc)

/-- A tag word (Table 5.2); of an exponent outside EXP's 8 bits its low 8 bits are kept. DEDUCED (log 64). -/
def tagWord (width : Nat) (exp : Int) (wide sat clamped excess : Bool) : Nat :=
  width + toBits 8 exp * 16 + b2n wide * 2 ^ 12 + b2n sat * 2 ^ 13 + b2n clamped * 2 ^ 14 + b2n excess * 2 ^ 15

/-- The bytes of one accumulator entry of a tagged partial (R211). -/
def entryBytes (wide : Bool) (v : Int) : List Byte :=
  if wide then leBytes 4 (toBits 64 v) ++ leBytes 4 (toBits 64 v >>> 32) else leBytes 4 (toBits 32 v)

/-- Writes packed codes; a last byte that they fill in part keeps its other bits (R257, R291). -/
def State.issueCodes (s : State) (d : Desc) (a : Addr) (cont : Nat) (codes : List Nat) : Bool × State :=
  let n := cont * codes.length
  let l := pack cont codes
  if n % 8 = 0 then s.issue d a l
  else match s.fetch d (a.plus (n / 8)) 1 with
    | (none, s) => (false, s)
    | (some old, s) =>
      let keep := leNat old / 2 ^ (n % 8) * 2 ^ (n % 8)
      s.issue d a (l.dropLast ++ leBytes 1 (leNat (l.drop (n / 8)) + keep))

/-- The tagged partial of row `r` of a tile in ACC form: its tag word, then the tile's accumulators of the row; the partials of a
row's tiles lie one after another (R211, R549). DEDUCED (log 64). -/
def Desc.partialAt (d : Desc) (t : Tile) (r : Nat) : Nat :=
  d.outAt t.bb (d.row0 t + r) + t.j * (8 + d.tn * (if d.isWide then 8 else 4))

/-- Drains rows in ACC form, unrotated (R211); a partial is SATURATED where an addition into one of its accumulators has
saturated since the tile's first pass (Table 5.2). DEDUCED (log 64). DEDUCED (log 97). -/
def State.drainAcc (s : State) (d : Desc) (c : Nat) (t : Tile) (l : List (List (Int × Nat))) : Bool × State :=
  let wide := d.isWide
  (l.take (d.rows t)).zipIdx.foldl (fun (acc : Bool × State) (row, r) =>
    if acc.1 then
      let n := d.cols t
      let sat := (countFrom 0 n).any fun k =>
        Tbl.get false acc.2.asSat (c * 32768 + d.asBase + (r * d.tn + k) * d.accEntries)
      acc.2.issue d (.va (d.partialAt t r)) (leBytes 8 (tagWord d.prog.width d.prog.exp wide sat false false) ++
        (row.take n).flatMap fun x => entryBytes wide x.1)
    else acc) (true, s)

/-- A drained value as its code has it. -/
def Fmt.reread (f : Fmt) (v : Fv) (code : Nat) : Fv := match v with | .nan => .nan | _ => f.decode code

/-- Drains rows narrowed to a floating-point format, and answers their drained values. -/
def State.drainFloat (s : State) (d : Desc) (c : Nat) (t : Tile) (vals : List (List Fv)) :
    Option (List (List Fv)) × State :=
  let fmt := d.outFmt
  let f := if fmt = 0 then fp16 else if fmt = 1 then bf16 else fp32
  let size := if fmt = 3 then 4 else 2
  vals.zipIdx.foldl (fun (acc : Option (List (List Fv)) × State) (row, r) =>
    match acc with
    | (none, s) => (none, s)
    | (some m, s) =>
      let (rs, s) := if fmt = 3 then (List.replicate row.length Rnd.rne, s) else s.drawN d.id c 0 row.length
      let cs := (row.zip rs).map fun (v, rnd) => d.drainCode fmt rnd v
      let excess := (cs.filter fun x => x.2).length
      let s := if excess = 0 then s else (s.bump (kDrainOverflows d.part) excess).flagDesc d.id 0
      match s.issue d (.va (d.outAt t.bb (d.row0 t + r) + d.col0 t * size)) (cs.flatMap fun x => leBytes size x.1) with
      | (true, s) => (some (m ++ [(row.zip cs).map fun x => f.reread x.1 x.2.1]), s)
      | (false, s) => (none, s)) (some [], s)

/-- Drains the open tile and records its ranges. -/
def State.drainTile (s : State) (d : Desc) (c : Nat) (t : Tile) (l : List (List (Int × Nat))) : Bool × State :=
  if d.outFmt = 2 then
    match s.drainAcc d c t l with
    | (false, s) => (false, s)
    | (true, s) =>
      s.recordRanges d t ((l.take (d.rows t)).map fun row => (row.take (d.cols t)).map fun x => d.accValue x.1)
  else
    match s.drainFloat d c t (d.drainValues t l) with
    | (none, s) => (false, s)
    | (some vals, s) => s.recordRanges d t vals

/-- The NaN results of a CMU tile (R178): outputs whose accumulator is a NaN, or whose drained value is. -/
def State.countNans (s : State) (d : Desc) (t : Tile) (l : List (List (Int × Nat))) : State :=
  if d.arith ≠ 3 then s
  else
    let acc := (l.take (d.rows t)).map fun row => (row.take (d.cols t)).map fun x => d.accValue x.1
    let out := if (d.opcode = 0x10 ∨ d.opcode = 0x23) ∧ d.outFmt ≠ 2 then d.drainValues t l else acc
    s.add (kCmuNanResults d.core.1)
      (((acc.zip out).flatMap fun x => x.1.zip x.2).filter fun x => x.1 == .nan || x.2 == .nan).length

/-- Whether a committed descriptor still runs. -/
def State.runs (s : State) (id : Nat) : Bool :=
  match s.desc? id with
  | some d => !d.ended
  | none => false

/-- Runs the passes of the open tile and hands its accumulators on (R163 to R178); a residue mismatch stops it after the pass
that meets it, an armed one after its first pass (R184, R185). -/
def State.runPasses (s : State) (d : Desc) (c : Nat) (t : Tile) (o : RunObs)
    (fin : State → List (List (Int × Nat)) → Bool × State) : State :=
  let p := (d.tileCost t).1
  let armed := s.nat (kResidueInject c) == 1
  if d.arith ≠ 3 ∧ p ≠ 0 ∧ (o.residue || armed) = true then
    let n := if armed then 1 else max 1 (min o.waitCc p)
    onGot (s.formTile d c t (some n)) fun l s => ((s.countSats d c t l).accWrite d c l).residueFault c n
  else
    let s := s.loadSeeds d c
    if s.runs d.id = false then s
    else onGot (s.formTile d c t none) fun l s =>
      let s := (((s.countTile d c t (obsLost o)).countSats d c t l).countNans d t l).accWrite d c l
      match fin s l with
      | (true, s) => s.closeTile d c
      | (false, s) => s

/-- Whether the open tile of a descriptor may run: its operands have landed (R252) and its generators are free (R224). -/
def State.runDue (s : State) (d : Desc) : Bool := d.prog.tileOpen && d.prog.fetched && !s.genBusy d

/-- Runs a product tile of a descriptor that drains (MATMUL and ATTN_PV). -/
def State.runDrain (s : State) (d : Desc) (c : Nat) (o : RunObs) : State :=
  match d.curTile with
  | none => s
  | some t => s.runPasses d c t o fun s l => s.drainTile d c t l

/-! ### QUANTISE (R197 to R205) -/

/-- The signed 8-bit ERR_EXP of a layer entry. -/
def errExp (entry : Nat) : Int := sext 8 (bitsOf entry 15 8)

/-- What staging selects: width code, exponent, CLAMPED and OVERRIDE (R199). -/
def selectWidth (entry : Nat) (recs : List Nat) : Nat × Int × Bool × Bool :=
  let excess := entry % 16
  let aMax := entry / 16 % 16
  let valid := recs.filter fun w => bitOf w 32
  let m := valid.foldl (fun (m : Int) w => max m (sext 16 (bitsOf w 31 16))) (-32768)
  let maxAbs := valid.foldl (fun m w => max m (w % 2 ^ 16)) 0
  let fixed := excess != 15
  if valid = [] ∨ m = -32768 then
    (if fixed then excess else if aMax ≤ 6 then 0 else aMax, errExp entry, false, fixed)
  else if aMax ≤ 6 then
    let need := m - errExp entry + 1
    let (a, clamped) :=
      if fixed then (excess, false)
      else match (countFrom 0 (aMax + 1)).find? fun a => decide (need ≤ (widthBits a : Int)) with
        | some a => (a, false)
        | none => (aMax, true)
    (a, max (-128) (m - (widthBits a : Int) + 1), clamped, fixed)
  else
    (if fixed then excess else aMax, lnsExp (bf16.finite maxAbs), false, fixed)

/-- The code of a staged element: its code, whether it was not finite, and whether it was limited (R200, R201); the stream's
rounding mode is for TP elements, and an LNS element is rounded to nearest. -/
def stageCode (width : Nat) (e : Int) (r : Rnd) (v : Fv) : Nat × Bool × Bool :=
  if width ≤ 6 then
    let a := widthBits width
    let c := containerBits width
    let top : Int := 2 ^ (a - 1) - 1
    match v with
    | .nan => (0, true, false)
    | .inf s => (toBits c (if s then -top - 1 else top), true, false)
    | .fin _ x =>
      let n := x.round r e
      if top < n then (toBits c top, false, true)
      else if n < -top - 1 then (toBits c (-top - 1), false, true) else (toBits c n, false, false)
  else
    let f := if width = 7 then lns8 else lns12
    match v with
    | .nan => (0, true, false)
    | .inf s => (b2n s * 2 ^ f.bits + f.top, true, false)
    | .fin _ x =>
      if x.m = 0 then (0, false, false)
      else
        let (c, lim) := f.code f.top (decide (x.m < 0)) (f.level x e)
        (c, false, lim)

/-- Reads the range records of a QUANTISE (R199). -/
def State.readRanges (s : State) (d : Desc) (a : SAddr) : Option (List Nat) × State :=
  (countFrom 0 (d.at 94 1)).foldl (fun (acc : Option (List Nat) × State) k =>
    match acc with
    | (none, s) => (none, s)
    | (some m, s) =>
      match s.fetch d (.store { a with off := a.off + k * d.at 92 2 }) 8 with
      | (some l, s) => (some (m ++ [leNat l]), s)
      | (none, s) => (none, s)) (some [], s)

/-- The live rows of a drained input tile of FP16 or BF16 values. -/
def State.readInputs (s : State) (d : Desc) (t : Tile) (a : SAddr) (place : Nat) (bf : Bool) :
    Option (List (List Fv)) × State :=
  let f := if bf then bf16 else fp16
  (countFrom 0 (d.rows t)).foldl (fun (acc : Option (List (List Fv)) × State) r =>
    match acc with
    | (none, s) => (none, s)
    | (some m, s) =>
      match s.fetch d (.store { a with off := a.off + place + r * d.tn * 2 }) (d.cols t * 2) with
      | (some l, s) => (some (m ++ [(unpack 16 (d.cols t) l).map f.decode]), s)
      | (none, s) => (none, s)) (some [], s)

/-- Writes the rows of a staged buffer and its tag word (R200 to R202). -/
def State.writeStaged (s : State) (d : Desc) (c : Nat) (t : Tile) (rows : List (List Fv)) (recs : List Nat) :
    Bool × State :=
  match decodeSAddr (d.at 80 4) with
  | none => (false, s.endDesc d.id stTileIllegal)
  | some tagAt =>
    let (w, e, clamped, excess) := selectWidth d.prog.entry recs
    let cont := containerBits w
    let out := rows.zipIdx.foldl (fun (acc : Bool × Nat × Bool × State) (row, r) =>
      let (ok, bad, lim, s) := acc
      if ok then
        let (rs, s) := s.drawN d.id c 0 row.length
        let cs := (row.zip rs).map fun (v, rnd) => stageCode w e rnd v
        let (ok, s) := s.issueCodes d (.va (d.outAt t.bb (d.row0 t + r) + d.col0 t * cont / 8)) cont (cs.map (·.1))
        (ok, bad + (cs.filter fun x => x.2.1).length, lim || cs.any fun x => x.2.2, s)
      else acc) (true, 0, false, s)
    let (ok, bad, lim, s) := out
    if ok then
      let s := s.bump (kNonfiniteStaged d.part) bad
      let s := if clamped then s.bump (kWidthClamps d.part) else s
      let n := d.rows t * d.cols t
      let s := s.wrapAdd (kQuantElements c) n
      s.issue d (.store tagAt) (leBytes 8 (tagWord w e false lim clamped excess))
    else (false, s)

/-- One QUANTISE tile; L_rec is of the Max column of Table 3.7. DEDUCED (log 69). -/
def State.runQuantise (s : State) (d : Desc) (c : Nat) : State :=
  match d.curTile, d.region? 40, decodeSAddr (d.at 84 4) with
  | some t, some a, some ra =>
    let s := s.loadSeeds d c
    if s.runs d.id = false then s
    else onGot (s.readRanges d ra) fun recs s =>
      onGot (s.readInputs d t a (d.aPlace t) (d.at 95 1 == 1)) fun rows s =>
        match s.writeStaged d c t rows recs with
        | (false, s) => s
        | (true, s) =>
          let lrec := (countFrom 0 (d.at 94 1)).foldl (fun m _ => max m (readLatency d.core (.store ra) true)) 0
          (s.spend d.id (16 + lrec + (d.at 94 1 - 1) + (d.rows t * d.cols t + 127) / 128 + 4)).closeTile d c
  | _, _, _ => s.endDesc d.id stTileIllegal

/-! ### REDUCE (R211 to R213) -/

/-- A tagged partial read: its tag word and its entries; FP32 entries are codes. -/
structure Partial where
  tag : Nat
  vals : List Int
  deriving DecidableEq, Repr

/-- WIDTH of a partial. -/
def Partial.width (p : Partial) : Nat := p.tag % 16
/-- EXP of a partial. -/
def Partial.exp (p : Partial) : Int := sext 8 (bitsOf p.tag 11 4)
/-- Whether a partial's entries are 48-bit. -/
def Partial.wide (p : Partial) : Bool := bitOf p.tag 12 && decide (p.width ≤ 8)

/-- The family of a width code in a partial (Table 5.1); a reserved code has none. -/
def widthFam (w : Nat) : Option Nat := if w ≤ 6 then some 0 else if w ≤ 8 then some 1 else if w = 9 then some 2 else none

/-- Decodes a tagged partial of `n` entries (R211). -/
def partialOf (tag n : Nat) (l : List Byte) : Partial :=
  let p : Partial := ⟨tag, []⟩
  ⟨tag, (countFrom 0 n).map fun i =>
    if p.wide then sext 48 (byteField l (8 * i) 8)
    else if p.width = 9 then (byteField l (4 * i) 4 : Int) else sext 32 (byteField l (4 * i) 4)⟩

/-- Adds one aligned partial to the sum, counting saturating shifts and adds (R213). -/
def alignAdd (wide : Bool) (sum : List (Int × Nat)) (p : Partial) (emin : Int) (first : Bool) : List (Int × Nat) :=
  (sum.zip p.vals).map fun (s, v) =>
    let x := accAdd wide (0, 0) (v * 2 ^ (p.exp - emin).toNat)
    if first then (x.1, s.2 + x.2)
    else
      let y := accAdd wide (s.1, 0) x.1
      (y.1, s.2 + x.2 + y.2)

/-- A reduction of tagged partials in partial order (R212, R213): none where families differ, else the result and its
saturating shifts and adds.  A partial that is SATURATED makes the result so: some value saturated while it was formed
(Table 5.2). DEDUCED (log 64). -/
def reducePartials (ps : List Partial) : Option (Partial × Nat) :=
  match ps with
  | [] => none
  | p :: _ =>
    let fam := widthFam p.width
    if fam = none ∨ (ps.any fun q => widthFam q.width != fam) = true then none
    else
      let carried := ps.any fun q => bitOf q.tag 13
      if fam = some 2 then
        let vals := (ps.drop 1).foldl (fun (l : List Int) q =>
          (l.zip q.vals).map fun (a, b) => (fp32Sum (fp32.decode a.toNat) (fp32.decode b.toNat) : Nat)) p.vals
        some (⟨tagWord 9 0 false carried false false, vals⟩, 0)
      else
        let emin := ps.foldl (fun (m : Int) q => min m q.exp) p.exp
        let w := ps.foldl (fun m q => max m q.width) 0
        let wide := ps.any (·.wide)
        let out := (ps.zipIdx).foldl (fun l (q, i) => alignAdd wide l q emin (i == 0)) (p.vals.map fun _ => ((0 : Int), 0))
        let sats : Nat := out.foldl (fun n x => n + x.2) 0
        some (⟨tagWord w emin wide (carried || decide (sats ≠ 0)) false false, out.map (·.1)⟩, sats)

/-- The bytes of a tagged partial (R211). -/
def Partial.bytes (p : Partial) : List Byte :=
  leBytes 8 p.tag ++ p.vals.flatMap fun v => if p.wide then entryBytes true v else leBytes 4 (toBits 64 v)

/-- Reads the partials of a REDUCE; one whose entries its tag word makes too long for the store ends it (R114).
DEDUCED (log 101). -/
def State.readPartials (s : State) (d : Desc) (src : Addr) (n : Nat) : Option (List Partial) × State :=
  (countFrom 0 (d.at 28 1)).foldl (fun (acc : Option (List Partial) × State) i =>
    match acc with
    | (none, s) => (none, s)
    | (some m, s) =>
      let a := src.plus (i * d.at 24 4)
      match s.fetch d a 8 with
      | (none, s) => (none, s)
      | (some t, s) =>
        let p : Partial := ⟨leNat t, []⟩
        if s.partialsOk d (List.replicate i false ++ [p.wide]) = false then (none, s.endDesc d.id stTileIllegal)
        else match s.fetch d (a.plus 8) (n * (if p.wide then 8 else 4)) with
        | (some l, s) => (some (m ++ [partialOf (leNat t) n l]), s)
        | (none, s) => (none, s)) (some [], s)

/-- REDUCE on its core; the spec states no cycles, so that they come with the command. DEDUCED (log 69). -/
def State.runReduce (s : State) (d : Desc) (cc : Nat) : State :=
  match decodeAddr (d.at 16 8), decodeAddr (d.at 32 8) with
  | some src, some dst =>
    onGot (s.readPartials d src (d.at 40 4)) fun ps s =>
      match reducePartials ps with
      | none => s.endDesc d.id stPrecisionMismatch
      | some (p, sats) =>
        if s.addrOk d.part (d.at 32 8) p.bytes.length true = false then s.endDesc d.id stTileIllegal
        else
          let s := s.bump (kAlignSaturations d.part) sats
          let s := if bitOf p.tag 13 then s.flagDesc d.id 0 else s
          let (_, s) := s.issue d dst p.bytes
          (s.spend d.id cc).endDesc d.id stOk
  | _, _ => s.endDesc d.id stTileIllegal

/-! ### BUCKET_FORM (R259 to R263) -/

/-- The lowest-numbered bucket whose edge is at least a length (R261). -/
def bucketOf (edges : List Nat) (len : Nat) : Option Nat := edges.findIdx? fun e => decide (len ≤ e)

/-- The pieces of a batch plan: (offset, bytes) (Table 6.10). -/
def batchPlan (plan : Nat) (edges : List Nat) (seqs : List (Nat × Nat)) : List (Nat × List Byte) :=
  let n := seqs.length
  let placed := seqs.filter fun x => x.2 != 0
  let inB := fun b => placed.filter fun x => bucketOf edges x.2 == some b
  let excess := placed.filter fun x => bucketOf edges x.2 == none
  let heads := (countFrom 0 8).map fun b =>
    let k := (inB b).length
    (32 * b, leBytes 4 (edges.getD b 0) ++ leBytes 4 0 ++ leBytes 4 0 ++ leBytes 4 k ++
      leBytes 8 (if k = 0 then 0 else plan + 512 + 8 * n * b) ++ leBytes 8 0)
  let sum := [(256, leBytes 4 (placed.length - excess.length) ++ leBytes 4 excess.length ++
    leBytes 4 (n - placed.length) ++ leBytes 4 0)]
  let lists := (countFrom 0 8).flatMap fun b =>
    [(512 + 8 * n * b, (inB b).flatMap fun x => leBytes 4 x.2),
     (512 + 8 * n * b + 4 * n, (inB b).flatMap fun x => leBytes 4 x.1)]
  heads ++ sum ++ lists ++ [(512 + 64 * n, excess.flatMap fun x => leBytes 4 x.1)]

/-- BUCKET_FORM on its core; the spec bounds its cycles only (R263), so that they come with the command.
DEDUCED (log 69). -/
def State.runBucketForm (s : State) (d : Desc) (cc : Nat) : State :=
  let edges := (countFrom 0 8).map fun k => s.nat (kBucketEdge d.part k)
  let plan := d.at 24 8
  onGot (s.fetch d (.va (d.at 16 8)) 4) fun l s =>
    let n := leNat l
    if n = 0 ∨ 4096 < n then s.endDesc d.id stBoundsFault
    else onGot (s.fetch d (.va (d.at 16 8 + 8)) (8 * n)) fun l s =>
      let seqs := (countFrom 0 n).map fun q => (byteField l (8 * q) 4, byteField l (8 * q + 4) 4)
      let excess := (seqs.filter fun x => x.2 != 0 && (bucketOf edges x.2).isNone).length
      let s := s.bump (kBucketOverflows d.part) excess
      let (_, s) := (batchPlan plan edges seqs).foldl (fun (acc : Bool × State) (x : Nat × List Byte) =>
        if acc.1 then acc.2.issue d (.va (plan + x.1)) x.2 else acc) (true, s)
      (s.spend d.id cc).endDesc d.id stOk

/-! ### PRECISION_SET and the entries of these chapters -/

/-- Run-ahead of a partition's descriptors of a layer is squashed (Table 13.15). -/
def State.squashLayer (s : State) (p layer : Nat) : State :=
  let hit := s.runahead.filter fun w => s.ringPart w.ring == p && tiledOp (w.raw % 256) && atOff w.raw 9 1 == layer
  ((hit.map (·.ring)).eraseDups).foldl (fun s r =>
    let first := (hit.filter fun w => w.ring == r).foldl (fun m w => min m w.cons) (2 ^ 32)
    s.squashFrom r first (kSquashPrecision p)) s

/-- PRECISION_SET (R206): it replaces the layer's entry for tiles that start from its commit frame on; an entry that the
dictionary has written since keeps that later value. -/
def execPrecisionSet (id : Nat) (s : State) : Host.Outcome State Fault Refusal :=
  .next (s.runOff id [2] fun s d =>
    let k := kPrecLayer d.part d.layer
    let v := d.at 16 8
    let s := s.squashLayer d.part d.layer
    let s := match Tbl.get none s.live k with
      | some _ => { s with live := Tbl.set none s.live k (some v) }
      | none => s.setNat k v
    (s.modDesc d.id fun d => { d with ended := true, status := stOk, endFrame := d.commitFrame, cycles := 0 }).completeDesc
      d.id)

/-- PREC_LAYER_WRITE (R208). -/
def execPrecLayerWrite (who : Requester) (part layer : Nat) (v : Word) (s : State) :
    Host.Outcome State Fault Refusal :=
  .next (s.slotWrite who .precLayer (kPrecLayer part layer) v fun s _ =>
    .ok (((s.squashLayer part layer).keepLive (kPrecLayer part layer)).setReg (kPrecLayer part layer) v))

/-- SHAPE_REG_WRITE (R238). -/
def execShapeRegWrite (who : Requester) (ring k : Nat) (v : Word) (s : State) : Host.Outcome State Fault Refusal :=
  .next (s.slotWrite who .shapeReg (kShapeReg ring k) v fun s _ => .ok (s.setReg (kShapeReg ring k) v))

/-- Whether bucket edges are in order (R264). -/
def edgesOk (l : List Nat) : Bool :=
  (l.zip (l.drop 1)).all fun x => if x.1 = 0 then x.2 == 0 else x.2 == 0 || decide (x.1 < x.2)

/-- BUCKET_EDGE_WRITE (R264). -/
def execBucketEdgeWrite (who : Requester) (part k : Nat) (v : Word) (s : State) : Host.Outcome State Fault Refusal :=
  .next (s.slotWrite who .bucketEdge (kBucketEdge part k) v fun s _ =>
    let t := s.setReg (kBucketEdge part k) v
    orRefuse (edgesOk ((countFrom 0 8).map fun k => t.nat (kBucketEdge part k))) .state t)

/-- ROPE_SET_WRITE (R305): `sub` is the subindex of Table 7.8, 0x01 to 0x08 for ROPE_BASE and 0x09 to 0x10 for
ROPE_CFG. -/
def execRopeSetWrite (who : Requester) (part sub : Nat) (v : Word) (s : State) : Host.Outcome State Fault Refusal :=
  let k := kRopeBase part 0 - 1 + sub
  .next (s.slotWrite who (if sub ≤ 8 then .ropeBase else .ropeCfg) k v fun s _ => .ok (s.setReg k v))

/-- RESIDUE_INJECT_WRITE (R185): a write of 1 arms one mismatch. -/
def execResidueInjectWrite (who : Requester) (core : Nat) (v : Word) (s : State) : Host.Outcome State Fault Refusal :=
  .next (s.slotWrite who .residueInject (kResidueInject core) v fun s _ =>
    .ok (if v = 1 then s.setReg (kResidueInject core) 1 else s))

end Sys2Proof.Machine
end

