-- ==== Sys2Proof/Machine/Coll.lean ====
section
/-!
DEFINITION. Machine/Coll.lean: the collective engine: reductions, the stages of an operation, the cells it forms and
accepts, the cross-plane stage, and the entries of planes and groups.
-/
namespace Sys2Proof.Machine

/-! ### Reductions (R449, R450) -/

/-- Whether a floating-point value lies below another. -/
def fvLt (a b : Fv) : Bool :=
  match a, b with
  | .fin _ x, .fin _ y => x.lt y
  | .inf s, .inf t => s && !t
  | .inf s, .fin _ _ => s
  | .fin _ _, .inf t => !t
  | _, _ => false

/-- FP32 MAX or MIN of two codes: NaN where either is one; of equal values the first stays. DEDUCED (log 77). -/
def fp32Pick (big : Bool) (a b : Nat) : Nat :=
  match fp32.decode a, fp32.decode b with
  | .nan, _ => fp32.canonNan
  | _, .nan => fp32.canonNan
  | x, y => if (if big then fvLt x y else fvLt y x) then b else a

/-- One step of an untagged reduction: the result's 32 bits, and whether it saturated. -/
def reduceWord (ty red a b : Nat) : Nat × Bool :=
  if ty = 1 then
    ((if red = 0 then fp32Sum (fp32.decode a) (fp32.decode b) else fp32Pick (red == 1) a b), false)
  else
    let x := sext 32 a
    let y := sext 32 b
    match red with
    | 0 =>
      let z := x + y
      if 2 ^ 31 - 1 < z then (2 ^ 31 - 1, true) else if z < -(2 ^ 31) then (2 ^ 31, true) else (toBits 32 z, false)
    | 1 => (if x < y then b else a, false)
    | 2 => (if y < x then b else a, false)
    | 3 => (a &&& b, false)
    | _ => (a ||| b, false)

/-- 32-bit words of a byte string. -/
def words32 (l : List Byte) : List Nat := (countFrom 0 (l.length / 4)).map fun i => byteField l (4 * i) 4

/-- Adds a block into a reduction, element by element. -/
def reduceBlock (ty red : Nat) (acc : List Nat × Bool) (l : List Nat) : List Nat × Bool :=
  let xs := (acc.1.zip l).map fun (a, b) => reduceWord ty red a b
  (xs.map (·.1), acc.2 || xs.any (·.2))

/-- A reduction of untagged blocks in order: its bytes, and whether an element saturated. -/
def reduceBlocks (ty red : Nat) (l : List (List Byte)) : List Byte × Bool :=
  match l with
  | [] => ([], false)
  | a :: t =>
    let r := (t.map words32).foldl (reduceBlock ty red) (words32 a, false)
    (r.1.flatMap (leBytes 4), r.2)

/-! ### Lists by number -/

/-- The value listed under a number. -/
def numAt (l : List (Nat × Nat)) (k : Nat) : Nat := ((l.find? fun x => x.1 == k).map (·.2)).getD 0

/-- The list with the value under a number replaced. -/
def numSet (l : List (Nat × Nat)) (k v : Nat) : List (Nat × Nat) := l.filter (fun x => x.1 != k) ++ [(k, v)]

/-! ### The run of a group -/

/-- The collective that a group serves, with its descriptor and its present stage. -/
def State.serving (s : State) (g : Nat) : Option (CollRun × Desc × Option Stage) :=
  match (s.coll g).run with
  | none => none
  | some r =>
    match s.desc? r.desc with
    | none => none
    | some d => some (r, d, (s.stages r.gdef d)[r.stage]?)

/-- The state with the run of a group changed. -/
def State.modRun (s : State) (g : Nat) (f : CollRun → CollRun) : State :=
  let c := s.coll g
  match c.run with
  | none => s
  | some r => s.setColl g { c with run := some (f r) }

/-- The peers that this member sends to in a stage, with their ports. -/
def Desc.sendsTo (d : Desc) (m : Members) (st : Stage) : List (Nat × Nat) :=
  if st.kind = .cross then [] else if d.stageSends m st then m.peers st.axisY else []

/-- The peers that this member expects cells from in a stage, with their ports. -/
def Desc.hearsFrom (d : Desc) (m : Members) (st : Stage) : List (Nat × Nat) :=
  if st.kind = .cross then [] else (m.peers st.axisY).filter fun x => d.stageExpects m st x.1

/-- The size of a stage's blocks, and the offsets within the operand of the blocks it exchanges with the peer at an offset;
`out` asks for those sent, else for those received (Tables 11.3, 11.5). -/
def Desc.pieces (d : Desc) (m : Members) (st : Stage) (rel : Nat) (out : Bool) : Nat × List Nat :=
  let b := d.cBytes
  let bn := b / m.n
  let col := fun (y : Nat) => (countFrom 0 m.nx).map fun x => (x * m.ny + y) * bn
  match st.kind with
  | .rs => (b, [0])
  | .cross => (b, [0])
  | .bc => (b, [0])
  | .ag =>
    let k := if out then m.mine st.axisY else rel
    if d.cOp = 1 then (if st.axisY then (bn, col k) else (bn, [(k * m.ny + m.yr) * bn]))
    else if st.axisY then (bn, [(m.xr * m.ny + k) * bn]) else (b / m.nx, [k * (b / m.nx)])
  | .a2a => if st.axisY then (bn, col rel) else (b / m.nx, [rel * (b / m.nx)])

/-- An operand's address `n` bytes on. -/
def collAddr (field n : Nat) : Option Addr := (decodeAddr field).map fun a => a.plus n

/-- Bytes that the collective engine reads for a descriptor. -/
def State.collRead (s : State) (d : Desc) (field off n : Nat) : Option (List Byte) × State :=
  match collAddr field off with
  | none => (none, s)
  | some a => s.fetch d a n

/-- Bytes that the collective engine writes for a descriptor. -/
def State.collWrite (s : State) (d : Desc) (field off : Nat) (l : List Byte) : Bool × State :=
  match collAddr field off with
  | none => (false, s)
  | some a => s.issue d a l

/-- SRC. -/
def Desc.cSrc (d : Desc) : Nat := d.at 24 8
/-- DST. -/
def Desc.cDst (d : Desc) : Nat := d.at 32 8
/-- SCRATCH. -/
def Desc.cScratch (d : Desc) : Nat := d.at 40 8

/-- Runs a piece of a descriptor's collective work: where an access waits at a slot in recovery, nothing else happens yet
(R712); where one ends the descriptor, the collective ends with it (R463, R525). -/
def State.collTry (s : State) (g : Nat) (d : Desc) (f : State → Bool × State) : State :=
  match f { s with slotWait := false } with
  | (ok, t) =>
    if t.slotWait then s.waits d.id
    else if ok then t
    else t.collFail g d.id stBoundsFault

/-! ### Starting a stage -/

/-- The bytes this member sends to each port in a stage, captured as the stage starts; none where a read failed. -/
def State.stageOut (s : State) (r : CollRun) (d : Desc) (m : Members) (st : Stage) :
    Option (List (Nat × List Byte)) × State :=
  (d.sendsTo m st).foldl (fun (acc : Option (List (Nat × List Byte)) × State) (x : Nat × Nat) =>
    match acc with
    | (none, s) => (none, s)
    | (some l, s) =>
      if st.kind = .rs then
        let n := r.held.length / m.along st.axisY
        (some (l ++ [(x.2, (r.held.drop (x.1 * n)).take n)]), s)
      else
        let (size, offs) := d.pieces m st x.1 true
        let src := if st.kind = .a2a && !st.axisY then d.cSrc else d.cDst
        let t := if st.kind = .a2a && !st.axisY then 0 else d.cTag
        let got := offs.foldl (fun (acc : Option (List Byte) × State) o =>
          match acc with
          | (none, s) => (none, s)
          | (some b, s) =>
            match s.collRead d src (t + o) size with
            | (some c, s) => (some (b ++ c), s)
            | (none, s) => (none, s)) (some [], s)
        match got with
        | (some b, s) => (some (l ++ [(x.2, b)]), s)
        | (none, s) => (none, s)) (some [], s)

/-- The first word of an XSTAGE object that a member sends in a step of the cross-plane stage (Table 11.7). -/
def xObject (g phase step chunk plane seq : Nat) : List Byte :=
  leBytes 2 g ++ leBytes 1 phase ++ leBytes 1 step ++ leBytes 2 chunk ++ leBytes 2 plane ++ leBytes 4 seq ++
    List.replicate 20 0

/-- The chunk that plane `q` of `p` sends in step `j` of the ring, and the chunk it receives (R473). -/
def xChunks (p q j : Nat) : Nat × Nat :=
  if j < p - 1 then ((q + 2 * p - j) % p, (q + 2 * p - j - 1) % p)
  else
    let t := j - (p - 1)
    ((q + 1 + 2 * p - t) % p, (q + 2 * p - t) % p)

/-- Sends the record of the present step of the cross-plane stage, where XSTREAM is UP and a step is left (R473, R474). -/
def State.xSend (s : State) (g : Nat) (r : CollRun) (d : Desc) : State :=
  let p := gPlanes r.gdef
  let q := s.nat kPlaneIndex % p
  let steps := 2 * (p - 1)
  if steps ≤ r.xStep ∨ s.streamUp (gXstream r.gdef) = false then s
  else
    let n := r.held.length / p
    let c := (xChunks p q r.xStep).1
    let rs := decide (r.xStep < p - 1)
    s.queueRec (gXstream r.gdef) {
      kind := 5, src := .xstage g, part := d.part, generation := r.seq,
      object := xObject g (if rs then 0 else 1) (if rs then r.xStep else r.xStep - (p - 1)) c q r.seq,
      payload := (r.held.drop (c * n)).take n }

/-- A stage of the served collective starts: its frames begin at `begin_`. -/
def State.startStage (s : State) (g stage begin_ : Nat) : Bool × State :=
  match s.serving g with
  | none => (true, s)
  | some (r, d, _) =>
    match (s.stages r.gdef d)[stage]? with
    | none => (true, s)
    | some st =>
      let m := s.members r.gdef
      match s.stageOut r d m st with
      | (none, s) => (false, s)
      | (some out, s) =>
        let r' := { r with stage := stage, begin_ := begin_, out := out, formed := [], got := [], tags := [],
                           lastExch := none, lastSent := none, stageEnd := none, slack := 0, xStep := 0 }
        let s := s.modRun g fun _ => r'
        (true, if st.kind = .cross then s.xSend g r' d else s)

/-! ### Accepting cells -/

/-- Whether this member has sent every cell of the present stage: all formed, and none waiting on a port. -/
def State.allSent (s : State) (g : Nat) (r : CollRun) (d : Desc) (st : Stage) : Bool :=
  (d.sendsTo (s.members r.gdef) st).all fun x =>
    numAt r.formed x.2 == st.cells && !(s.port x.2).coll.any fun c => c.1 == g

/-- Whether this member has accepted every cell it expects in the present stage. -/
def State.allGot (s : State) (r : CollRun) (d : Desc) (st : Stage) : Bool :=
  (d.hearsFrom (s.members r.gdef) st).all fun x => numAt r.got x.2 == st.cells

/-- E of the present stage. -/
def State.stageE (s : State) (g : Nat) (r : CollRun) (st : Stage) : Nat := s.exchangeFrames g r.gdef st

/-- The stage's exchange ends once everything is sent and accepted, and not before its planned frames have passed (R459,
R460). -/
def State.stageCheck (s : State) (g : Nat) : State :=
  match s.serving g with
  | some (r, d, some st) =>
    if st.kind = .cross ∨ r.stageEnd.isSome = true ∨ r.due.isSome = true then s
    else
      let s := if s.allSent g r d st && r.lastSent.isNone then s.modRun g fun r => { r with lastSent := some s.tb.ticks }
        else s
      if s.allSent g r d st && s.allGot r d st then
        s.modRun g fun r => { r with stageEnd := some (max s.tb.ticks (r.begin_ + s.stageE g r st - 1)) }
      else s
  | _ => s

/-- The number of a peer among the others of its axis, in ascending order of offset. -/
def peerIndex (mine rel : Nat) : Nat := if rel < mine then rel else rel - 1

/-- Whether a received block holds an element at an end of the INT32 range. -/
def hasExtreme (l : List Byte) : Bool := (words32 l).any fun w => w == 0x7FFFFFFF || w == 0x80000000

/-- The payload of cell `k` of the present stage lands: a reducing stage's in SCRATCH, any other in DST (R455). -/
def State.landCell (s : State) (g : Nat) (r : CollRun) (d : Desc) (st : Stage) (rel port k : Nat) (l : List Byte) :
    Bool × State :=
  let m := s.members r.gdef
  if st.kind = .rs then
    let blk := r.held.length / m.along st.axisY
    let base := peerIndex (m.mine st.axisY) rel * (blk + d.cTag)
    if d.cType = 2 ∧ k = 0 then
      let s := s.modRun g fun r => { r with tags := numSet r.tags port (byteField l 0 8) }
      s.collWrite d d.cScratch base (l.take 8)
    else s.collWrite d d.cScratch (base + d.cTag + (k - b2n (d.cType == 2)) * 256) l
  else
    let (size, offs) := d.pieces m st rel false
    let o := k * 256
    let s := if st.kind = .ag ∧ d.cOp = 2 ∧ d.cRed = 0 ∧ d.cType ≠ 1 ∧ hasExtreme l = true then
        (if Config.peerSaturated s.free then s.modRun g fun r => { r with sat := true } else s).takeFree else s
    s.collWrite d d.cDst (d.cTag + offs.getD (o / max size 1) 0 + o % max size 1) l

/-- The sequence byte of a COLLECTIVE cell, where it is known (R456). -/
def CollCell.seq : CollCell → Option Nat
  | .good off _ => some (off / 2 ^ 24)
  | .bad q _ => q

/-- A COLLECTIVE cell matches no collective that runs or comes next on its group: one accepted is discarded and counted
(R456); one refused or lost was needed by none. -/
def State.collStray (s : State) (g : Nat) (x : CollCell) : State :=
  match x with
  | .good .. => s.bump (kCollSeqErrors g)
  | .bad .. => s

/-- A COLLECTIVE cell reaches its group (R456, R460): one of another collective is discarded; one that comes before its stage
is kept; one that was refused or lost ends the collective that needed it, which is the one that takes the cell in its place in
its port's order (R419). DEDUCED (log 77). -/
def State.collCell (s : State) (g port : Nat) (x : CollCell) : State :=
  let c := s.coll g
  let keep := s.setColl g { c with early := c.early ++ [(port, x)] }
  match s.serving g with
  | none =>
    if c.queue ≠ [] ∧ x.seq.getD ((s.nat (kCollSeq g) + 1) % 256) = (s.nat (kCollSeq g) + 1) % 256 then keep
    else s.collStray g x
  | some (r, d, st) =>
    if x.seq.getD (r.seq % 256) ≠ r.seq % 256 then s.collStray g x
    else match st with
      | none => s
      | some st =>
        match (d.hearsFrom (s.members r.gdef) st).find? fun x => x.2 == port with
        | none => keep
        | some (rel, _) =>
          let n := numAt r.got port
          if st.cells ≤ n ∨ r.due.isSome = true ∨ (s.coll g).early.any (fun e => e.1 == port) = true then keep
          else match x with
            | .bad _ status => s.collFail g d.id status
            | .good off l =>
              s.collTry g d fun s =>
                let (ok, s) := s.landCell g r d st rel port (off % 2 ^ 24) l
                (ok, (s.modRun g fun r => { r with got := numSet r.got port (n + 1) }).stageCheck g)

/-- The cells that came early are handed to the group again, in the order they came. -/
def State.feedEarly (s : State) (g : Nat) : State :=
  let c := s.coll g
  c.early.foldl (fun s e => s.collCell g e.1 e.2) (s.setColl g { c with early := [] })

/-! ### Starting an operation -/

/-- Whether a group can start its next collective: nothing runs, and the frame is due (R459, R465). -/
def State.collDue (s : State) (g id : Nat) : Bool :=
  let c := s.coll g
  match c.run, c.queue with
  | none, (h, _, t) :: _ => h == id && decide (max (t + 1) (c.lastDone + 1) ≤ s.tb.ticks)
  | _, _ => false

/-- What an operation writes to DST as it starts: its own part (Table 11.3). -/
def Desc.ownPart (d : Desc) (m : Members) (src : List Byte) : Option (Nat × List Byte) :=
  let bnx := d.cBytes / m.nx
  if d.cOp = 1 then some (m.rank * (d.cBytes / m.n), src)
  else if d.cOp = 3 then (if d.cRoot = m.rank then some (0, src) else none)
  else if d.cOp = 4 then some (m.xr * bnx, (src.drop (m.xr * bnx)).take bnx)
  else if m.n = 1 then some (0, src)
  else none

/-- The frames that the stages of an operation take as planned (R459). -/
def State.planFrames (s : State) (g w : Nat) (d : Desc) : Nat :=
  (s.stages w d).foldl (fun n st =>
    n + (if st.kind = .cross then gXwait w else s.exchangeFrames g w st + st.settle)) 0

/-- Starts the collective at the head of its group's queue (R456, R459). -/
def State.startColl (s : State) (op id : Nat) : State :=
  match s.desc? id with
  | none => s
  | some d =>
    let g := d.cGroup
    if d.ended ∨ d.opcode ≠ 0x50 ∨ d.cOp ≠ op ∨ s.collDue g id = false then s
    else
      let c := s.coll g
      let (w, t) := match c.queue.head? with | some x => x.2 | none => (0, 0)
      let m := s.members w
      s.collTry g d fun s =>
        let n := (s.collLens w d).1
        match s.collRead d d.cSrc 0 n with
        | (none, s) => (false, s)
        | (some src, s) =>
          let seq := (s.nat (kCollSeq g) + 1) % 2 ^ 32
          let s := s.setNat (kCollSeq g) seq
          let first := max (t + 1) (c.lastDone + 1)
          let planned := first - 1 + s.planFrames g w d
          let rs := decide (d.cOp = 0 ∨ d.cOp = 2)
          let done := s.stages w d = []
          let r : CollRun := { desc := id, gdef := w, seq := seq, planned := planned, begin_ := first,
                               held := if rs then src.drop d.cTag else [], tag := leNat (src.take d.cTag),
                               due := if done then some (max planned first) else none }
          let s := s.setColl g { s.coll g with run := some r }
          let (ok, s) := match d.ownPart m src with
            | some (o, l) => s.collWrite d d.cDst o l
            | none => (true, s)
          if !ok then (false, s)
          else if done then (true, s)
          else
            match s.startStage g 0 first with
            | (true, s) => (true, s.feedEarly g)
            | (false, s) => (false, s)

/-! ### Exchange, settling and completion -/

/-- Cell `k` of a stage for a port: OFFSET, LAST and payload (R454, R456). DEDUCED (log 76). -/
def stageCell (r : CollRun) (d : Desc) (st : Stage) (port k : Nat) : Nat × Bool × List Byte :=
  let off := r.seq % 256 * 2 ^ 24 + k
  let last := decide (k + 1 = st.cells)
  let tagged := st.kind == .rs && d.cType == 2
  let b := match r.out.find? fun x => x.1 == port with | some x => x.2 | none => []
  if tagged && k == 0 then (off, last, leBytes 8 r.tag)
  else (off, last, (b.drop ((k - b2n tagged) * 256)).take 256)

/-- An exchange frame of a group: up to K cells are formed on each port of the stage (R457, R460); a stage slot that is
oversize ends the collective (R423). -/
def State.exchangeFrame (s : State) (g : Nat) : State :=
  match s.serving g with
  | some (r, d, some st) =>
    let m := s.members r.gdef
    if st.kind = .cross ∨ r.due.isSome = true ∨ s.tb.ticks < r.begin_ ∨ r.lastExch = some s.tb.ticks ∨
        d.sendsTo m st = [] ∨ ((d.sendsTo m st).all fun x => numAt r.formed x.2 == st.cells) = true then s
    else if s.oversize g 2 (m.peers st.axisY) then s.collFail g d.id stCapacityReduced
    else
      let k := s.axisK g m st.axisY
      let s := (d.sendsTo m st).foldl (fun (s : State) x =>
        let n := numAt r.formed x.2
        let more := min k (st.cells - n)
        let p := s.port x.2
        let cells := (countFrom n more).map fun i => (g, stageCell r d st x.2 i)
        (s.setPort x.2 { p with coll := p.coll ++ cells }).modRun g fun r => { r with formed := numSet r.formed x.2 (n + more) })
        s
      s.modRun g fun r => { r with lastExch := some s.tb.ticks }
  | _ => s

/-- The blocks that a reducing stage adds, in ascending order of offset: tag word and bytes. -/
def State.rsBlocks (s : State) (r : CollRun) (d : Desc) (st : Stage) : Option (List (Nat × List Byte)) × State :=
  let m := s.members r.gdef
  let k := m.along st.axisY
  let mine := m.mine st.axisY
  let blk := r.held.length / k
  (countFrom 0 k).foldl (fun (acc : Option (List (Nat × List Byte)) × State) rel =>
    match acc with
    | (none, s) => (none, s)
    | (some l, s) =>
      if rel = mine then (some (l ++ [(r.tag, (r.held.drop (mine * blk)).take blk)]), s)
      else
        match s.collRead d d.cScratch (peerIndex mine rel * (blk + d.cTag)) (blk + d.cTag) with
        | (none, s) => (none, s)
        | (some b, s) => (some (l ++ [(leNat (b.take d.cTag), b.drop d.cTag)]), s)) (some [], s)

/-- A tagged reduction: the tag word and bytes of its result, and its saturations; none where families differ.  Where some
blocks are WIDE and some are not, the spec gives their elements no common count, and the bytes are free values.
DEDUCED (log 77). -/
def State.reduceTagged (s : State) (l : List (Nat × List Byte)) : Option (Nat × List Byte × Nat) × State :=
  let size := (l.headD (0, [])).2.length
  let ps := l.map fun (t, b) =>
    let n := size / (if (Partial.mk t []).wide then 8 else 4)
    partialOf t n b
  match reducePartials ps with
  | none => (none, s)
  | some (p, sats) =>
    if ps.any fun q => q.wide != p.wide then
      (some (p.tag, freeBytes s.free size, sats), { s with free := s.free + size })
    else (some (p.tag, p.bytes.drop 8, sats), s)

/-- Where the result of a reducing stage goes in DST: its offset, for a stage that writes one. -/
def State.rsPlace (s : State) (r : CollRun) (d : Desc) (st : Stage) : Option Nat :=
  let m := s.members r.gdef
  let last := st.axisY || m.ny == 1
  if d.cOp = 0 then (if last then some 0 else none)
  else if last then some (m.rank * (d.cBytes / m.n)) else some (m.xr * (d.cBytes / m.nx))

/-- The engine settles a reducing stage: it adds the blocks and holds and writes the result (R450, R458).  Blocks of
different families end the collective with PRECISION_MISMATCH. -/
def State.settleRs (s : State) (g : Nat) (r : CollRun) (d : Desc) (st : Stage) : Bool × State :=
  match s.rsBlocks r d st with
  | (none, s) => (false, s)
  | (some l, s) =>
    let (res, s) := if d.cType = 2 then s.reduceTagged l
      else
        let (b, sat) := reduceBlocks d.cType d.cRed (l.map (·.2))
        (some (0, b, b2n sat), s)
    match res with
    | none => (false, s.endDesc d.id stPrecisionMismatch)
    | some (tag, b, sats) =>
      let s := if d.cType = 2 ∧ sats ≠ 0 then s.bump (kAlignSaturations d.part) sats else s
      let s := s.modRun g fun r =>
        { r with held := b, tag := tag, sat := r.sat || sats != 0 || (d.cType == 2 && bitOf tag 13) }
      match s.rsPlace r d st with
      | none => (true, s)
      | some o =>
        let (ok, s) := s.collWrite d d.cDst (d.cTag + o) b
        if ok && d.cType == 2 then s.collWrite d d.cDst 0 (leBytes 8 tag) else (ok, s)

/-- The next stage starts `after` the present one's last frame, or the collective is due to complete. -/
def State.nextStage (s : State) (g lastFrame : Nat) : Bool × State :=
  match s.serving g with
  | none => (true, s)
  | some (r, d, _) =>
    if r.stage + 1 < (s.stages r.gdef d).length then
      match s.startStage g (r.stage + 1) (lastFrame + 1) with
      | (true, s) => (true, s.feedEarly g)
      | (false, s) => (false, s)
    else (true, s.modRun g fun r => { r with due := some (max r.planned lastFrame) })

/-- The settle frames of a stage (R458). -/
def State.stageSettle (s : State) (g : Nat) : State :=
  match s.serving g with
  | some (r, d, some st) =>
    match r.stageEnd with
    | none => s
    | some e =>
      if r.due.isSome ∨ s.tb.ticks ≤ e then s
      else s.collTry g d fun s =>
        let (ok, s) := if st.kind = .rs then s.settleRs g r d st else (true, s)
        if ok then s.nextStage g (e + st.settle) else (false, s)
  | _ => s

/-- A collective or RHIZOID descriptor completes with OK; a late one carries DEFERRED (R462). DEDUCED (log 97). -/
def State.collOk (s : State) (g id late : Nat) (sat : Bool) : State :=
  let s := if sat then s.flagDesc id 0 else s
  let s := if late = 0 then s else (s.flagDesc id 3).bump (kCollDeferredFr g) late
  s.endDesc id stOk

/-- COLL_DONE and RHZ_DONE rise, and the group serves its next operation. -/
def State.collectiveComplete (s : State) (g : Nat) : State :=
  let s := match s.serving g with
    | some (r, d, _) =>
      match r.due with
      | some due =>
        if due ≤ s.tb.ticks ∧ d.ended = false then
          (((s.collOk g d.id (s.tb.ticks - r.planned) r.sat).wrapAdd (kCollDone g)).collLeave g d.id)
        else s
      | none => s
    | none => s
  ((s.coll g).rhz.filter (·.fin)).foldl (fun (s : State) r =>
    let planned := max r.frame ((r.second.map (·.1)).getD r.frame)
    (((s.collOk g r.desc (s.tb.ticks - planned) r.sat).wrapAdd (kRhzDone g)).collLeave g r.desc)) s

/-! ### Slack (R461) -/

/-- The last frame of a stage's own sending. -/
def State.sentFrame (s : State) (g : Nat) (r : CollRun) (st : Stage) : Nat :=
  max (r.lastSent.getD 0) (r.begin_ + s.stageE g r st - 1)

/-- Whether the slack of a stage runs: everything is sent, cells are missing, and the transmitters are unmuted. -/
def State.slackRuns (s : State) (g : Nat) (r : CollRun) (d : Desc) (st : Stage) : Bool :=
  st.kind != .cross && r.due.isNone && r.stageEnd.isNone && s.allSent g r d st && !s.allGot r d st &&
  ((s.members r.gdef).peers st.axisY).all fun x => !s.portMuted x.2

/-- The peers a RHIZOID still waits for, with their ports: those of its first stage, then those of its second. -/
def State.rhzMissing (s : State) (r : RhzRun) : List (Nat × Nat) :=
  let m := s.members r.gdef
  let xFirst := decide (1 < m.nx)
  if r.held.isNone then (m.peers (!xFirst)).filter fun x => !(r.got1.any fun y => y.1 == x.2)
  else if r.fin then []
  else m.ys.filter fun x => !(r.got2.any fun y => y.1 == x.2)

/-- The ports that a RHIZOID still needs a cell from, of either stage (R466, R469). -/
def State.rhzNeeds (s : State) (r : RhzRun) : List Nat :=
  let m := s.members r.gdef
  if r.fin then []
  else ((m.xs ++ m.ys).map (·.2)).filter fun n => !(r.got1.any fun y => y.1 == n) && !(r.got2.any fun y => y.1 == n)

/-- Whether the slack of a RHIZOID runs. -/
def State.rhzSlackRuns (s : State) (g : Nat) (r : RhzRun) : Bool :=
  let ports := (s.rhzMissing r).map (·.2)
  let last := max r.frame ((r.second.map (·.1)).getD r.frame)
  decide (ports ≠ []) && decide (last < s.tb.ticks) &&
  (countFrom 0 14).all (fun n => !((s.port n).rhz.any fun c => c.group == g && c.offset / 2 ^ 24 == r.seq % 256)) &&
  ports.all fun n => !s.portMuted n

/-- A frame of slack passes in every group whose slack runs. -/
def State.countSlack (s : State) : State :=
  (countFrom 0 32).foldl (fun (s : State) g =>
    let s := match s.serving g with
      | some (r, d, some st) =>
        if s.slackRuns g r d st && decide (s.sentFrame g r st < s.tb.ticks)
        then s.modRun g fun r => { r with slack := r.slack + 1 } else s
      | _ => s
    let c := s.coll g
    if c.rhz = [] then s
    else s.setColl g { c with rhz := c.rhz.map fun r => if s.rhzSlackRuns g r then { r with slack := r.slack + 1 } else r })
    s

/-- Collectives whose slack has run out complete with SLOT_VIOLATION (R461). -/
def State.slackExpiry (s : State) (g : Nat) : State :=
  let n := s.nat kCollSlackFr
  let s := match s.serving g with
    | some (r, d, some st) =>
      if s.slackRuns g r d st ∧ s.sentFrame g r st < s.tb.ticks ∧ n ≤ r.slack then s.collFail g d.id stSlotViolation else s
    | _ => s
  ((s.coll g).rhz.filter fun r => s.rhzSlackRuns g r && decide (n ≤ r.slack)).foldl (fun (s : State) (r : RhzRun) =>
    s.collFail g r.desc stSlotViolation) s

/-! ### Across planes (R472 to R477) -/

/-- Applies the landed records of a group's cross-plane stage in SEQNO order: one of the present step advances the ring, any
other is discarded; each is consumed (R475). -/
def State.xAdvance : Nat → State → Nat → State
  | 0, s, _ => s
  | fuel + 1, s, g =>
    match s.serving g with
    | some (r, d, some st) =>
      let c := s.coll g
      match c.xq with
      | [] => s
      | (endOff, l) :: rest =>
        if st.kind ≠ .cross then s
        else
          let p := gPlanes r.gdef
          let q := s.nat kPlaneIndex % p
          let s := (s.setColl g { c with xq := rest }).setNat (kWinConsumed (gXwin r.gdef)) endOff
          let rs := decide (r.xStep < p - 1)
          let chunk := (xChunks p q r.xStep).2
          let n := r.held.length / p
          let mine := byteField l 34 1 == (if rs then 0 else 1) && byteField l 36 2 == chunk &&
            byteField l 35 1 == (if rs then r.xStep else r.xStep - (p - 1)) && byteField l 40 4 == r.seq &&
            decide (r.xStep < 2 * (p - 1))
          if mine then
            let recv := (l.drop 64).take n
            let own := (r.held.drop (chunk * n)).take n
            let (b, sat) := if rs then reduceBlocks d.cType d.cRed [recv, own] else (recv, false)
            let r' := { r with held := r.held.take (chunk * n) ++ b ++ r.held.drop ((chunk + 1) * n),
                               xStep := r.xStep + 1, sat := r.sat || sat }
            ((s.modRun g fun _ => r').xSend g r' d).xAdvance fuel g
          else s.xAdvance fuel g
    | _ => s

/-- A record has landed in a window that a group names as its XWIN (R475). -/
def State.xLands (s : State) (w endOff : Nat) (l : List Byte) : State :=
  let g := byteField l 32 2
  if byteField l 4 1 = 5 ∧ g < 32 ∧ gXwin (s.nat (kGroupDef g)) = w ∧ 1 < gPlanes (s.nat (kGroupDef g)) ∧
      gKind (s.nat (kGroupDef g)) ≠ 0 then
    let c := s.coll g
    let s := s.setColl g { c with xq := c.xq ++ [(endOff, l)] }
    s.xAdvance ((s.coll g).xq.length + 1) g
  else s

/-- The cross-plane stage's frames have passed (R477): a finished ring writes its block and the next stage begins; an
unfinished one ends with ABORTED. -/
def State.xwaitExpiry (s : State) (g : Nat) : State :=
  match s.serving g with
  | some (r, d, some st) =>
    let wait := gXwait r.gdef
    if st.kind ≠ .cross ∨ s.tb.ticks < r.begin_ + wait then s
    else if r.xStep < 2 * (gPlanes r.gdef - 1) then (s.bump (kXstageLate g)).collFail g d.id stAborted
    else s.collTry g d fun s =>
      let m := s.members r.gdef
      match s.collWrite d d.cDst (d.cTag + m.rank * (d.cBytes / m.n)) r.held with
      | (false, s) => (false, s)
      | (true, s) => s.nextStage g (r.begin_ + wait - 1)
  | _ => s

/-! ### Planes and group definitions -/

/-- GROUP_STATE: 0 OFF, 1 IDLE, 2 BUSY (Table 11.10). -/
def State.groupState (s : State) (g : Nat) : Nat :=
  if gKind (s.nat (kGroupDef g)) = 0 then 0 else if (s.coll g).count = 0 then 1 else 2

/-- The effect of a GROUP_DEF write (R444). -/
def writeGroupDef (g : Nat) (v : Word) (s : State) (_ : EntLoc) : Except Reason State :=
  let w := v.toNat
  let p := gPart w
  let fits := gKind w != 3 || (decide (2 ^ bitsOf w 3 2 ≤ s.dimX) && decide (2 ^ bitsOf w 5 4 ≤ s.dimY))
  let cross := gPlanes w == 1 ||
    (s.nat (kTransport (gXstream w)) == 1 && s.nat (kStreamOwner (gXstream w)) == p &&
     s.nat (kWinMode (gXwin w)) == 0 && s.nat (kWinOwner (gXwin w)) == p)
  orRefuse (fits && cross && s.groupState g != 2) .state (s.setReg (kGroupDef g) v)

/-- The slot number of a plane entry by its subindex. -/
def planeSlot (sub : Nat) : Nat := kPlaneX / 256 * 256 + sub

/-- The effect of a write of PLANE_X, PLANE_Y, PLANE_DIM or PLANE_INDEX (R439). -/
def writePlane (sub : Nat) (v : Word) (s : State) (_ : EntLoc) : Except Reason State :=
  let t := s.setReg (planeSlot sub) v
  let on := (countFrom 0 32).any fun g => gKind (s.nat (kGroupDef g)) != 0
  orRefuse (!on && decide (t.nat kPlaneX < t.dimX) && decide (t.nat kPlaneY < t.dimY)) .state t

/-! ### Meanings -/

/-- REDUCE_SCATTER (R448). -/
def execReduceScatter (id : Nat) (s : State) : Host.Outcome State Fault Refusal := .next (s.startColl 0 id)

/-- ALL_GATHER (R448). -/
def execAllGather (id : Nat) (s : State) : Host.Outcome State Fault Refusal := .next (s.startColl 1 id)

/-- ALL_REDUCE (R448). -/
def execAllReduce (id : Nat) (s : State) : Host.Outcome State Fault Refusal := .next (s.startColl 2 id)

/-- BROADCAST (R448). -/
def execBroadcast (id : Nat) (s : State) : Host.Outcome State Fault Refusal := .next (s.startColl 3 id)

/-- ALL_TO_ALL (R448). -/
def execAllToAll (id : Nat) (s : State) : Host.Outcome State Fault Refusal := .next (s.startColl 4 id)

/-- EXCHANGE_FRAME (R457). -/
def execExchangeFrame (group : Nat) (s : State) : Host.Outcome State Fault Refusal :=
  .next ((s.exchangeFrame group).stageCheck group)

/-- STAGE_SETTLE (R458). -/
def execStageSettle (group : Nat) (s : State) : Host.Outcome State Fault Refusal := .next (s.stageSettle group)

/-- COLLECTIVE_COMPLETE (R462). -/
def execCollectiveComplete (group : Nat) (s : State) : Host.Outcome State Fault Refusal :=
  .next (s.collectiveComplete group)

/-- COLL_SLACK_EXPIRY (R461). -/
def execCollSlackExpiry (group : Nat) (s : State) : Host.Outcome State Fault Refusal := .next (s.slackExpiry group)

/-- XWAIT_EXPIRY (R477). -/
def execXwaitExpiry (group : Nat) (s : State) : Host.Outcome State Fault Refusal := .next (s.xwaitExpiry group)

/-- GROUP_DEF_WRITE (R444). -/
def execGroupDefWrite (who : Requester) (group : Nat) (v : Word) (s : State) : Host.Outcome State Fault Refusal :=
  .next (s.slotWrite who .groupDef (kGroupDef group) v (writeGroupDef group v))

/-- The entry at a subindex of the plane entries. -/
def planeEnt (sub : Nat) : Ent :=
  if sub = 0x30 then .planeX else if sub = 0x31 then .planeY else if sub = 0x32 then .planeDim else .planeIndex

/-- PLANE_WRITE (R439). -/
def execPlaneWrite (who : Requester) (sub : Nat) (v : Word) (s : State) : Host.Outcome State Fault Refusal :=
  .next (s.slotWrite who (planeEnt sub) (planeSlot sub) v (writePlane sub v))

/-- RECORD_RECEIVED (R388, R390): the bytes of a record have landed in a receive window, from `start` of the stream's bytes
on; a LAND window that a group names hands its XSTAGE records to the group (R475). -/
def execRecordReceived (win via start len : Nat) (s : State) : Host.Outcome State Fault Refusal :=
  let t := s.recordLands win via start len
  if s.nat (kWinMode win) = 0 ∧ t.reg (kWinRecords win) ≠ s.reg (kWinRecords win) then
    .next (t.xLands win (start + len) (s.winBytes win start len))
  else .next t

end Sys2Proof.Machine
end

