-- ==== Sys2Proof/Machine/Rhizoid.lean ====
section
/-!
DEFINITION. Machine/Rhizoid.lean: RHIZOID operations: their cells, their two stages and their results.
-/
namespace Sys2Proof.Machine

/-- The run of a group's RHIZOID whose cells carry a sequence byte (R456, R468). -/
def State.rhzRun? (s : State) (g seq : Nat) : Option RhzRun := (s.coll g).rhz.find? fun r => r.seq % 256 == seq

/-- The state with one RHIZOID run of a group changed. -/
def State.modRhz (s : State) (g id : Nat) (f : RhzRun → RhzRun) : State :=
  let c := s.coll g
  s.setColl g { c with rhz := replaceFirst (fun r => r.desc == id) f c.rhz }

/-- A cell for every port of a list waits for its place (R468, R469). -/
def State.sendRhz (s : State) (ports : List (Nat × Nat)) (c : RhzCell) : State :=
  ports.foldl (fun (s : State) x => s.setPort x.2 { s.port x.2 with rhz := (s.port x.2).rhz ++ [c] }) s

/-- A unit of time of Rhizoid placement is 1/6000 ns: position 0 of the present frame in it. -/
def State.rhzBase (s : State) : Int := s.tb.base * 6000

/-- A RHIZOID cell that is accepted: its message enters its operation's stage; one that matches no operation running on the
group is discarded and counted (R456), unless the operation has committed and waits to start. DEDUCED (log 77). -/
def State.rhzCell (s : State) (g port off : Nat) (ended : Int) (l : List Byte) : State :=
  match s.rhzRun? g (off / 2 ^ 24) with
  | some r =>
    if off % 2 ^ 24 = 0 then
      if r.got1.any fun x => x.1 == port then s
      else s.modRhz g r.desc fun r => { r with got1 := r.got1 ++ [(port, l)], lastEnd := max r.lastEnd ended }
    else if r.got2.any fun x => x.1 == port then s
    else s.modRhz g r.desc fun r => { r with got2 := r.got2 ++ [(port, l)] }
  | none =>
    let c := s.coll g
    if (countFrom (s.nat (kRhzSeq g) + 1) c.rhzWait.length).any fun k => k % 256 == off / 2 ^ 24
    then s.setColl g { c with rhzEarly := c.rhzEarly ++ [(port, off, ended, l)] }
    else s.bump (kCollSeqErrors g)

/-- A refused or lost RHIZOID cell ends the operation that needed it (R419): the one its sequence byte names, where the cell
gives it, or else the first that still needs a cell from its port; an operation that waits to start ends as it starts.
DEDUCED (log 77). -/
def State.rhzCellBad (s : State) (g port : Nat) (seq : Option Nat) (status : Nat) : State :=
  let c := s.coll g
  let names := fun (k : Nat) => (seq.map fun q => k % 256 == q).getD true
  match c.rhz.find? fun r => names r.seq && (s.rhzNeeds r).contains port with
  | some r => s.collFail g r.desc status
  | none =>
    if (countFrom (s.nat (kRhzSeq g) + 1) c.rhzWait.length).any names
    then s.setColl g { c with rhzBad := c.rhzBad ++ [(port, seq, status)] } else s

/-- The refused and lost cells that came before an operation are handed to it as it starts. -/
def State.feedBad (s : State) (g : Nat) : State :=
  let c := s.coll g
  c.rhzBad.foldl (fun s x => s.rhzCellBad g x.1 x.2.1 x.2.2) (s.setColl g { c with rhzBad := [] })

/-- The result of a RHIZOID is written to DST. -/
def State.rhzResult (s : State) (g : Nat) (r : RhzRun) (d : Desc) (l : List Byte) (sat : Bool) : State :=
  s.collTry g d fun s =>
    let (ok, s) := s.collWrite d d.cDst 0 l
    (ok, s.modRhz g r.desc fun r => { r with fin := true, sat := r.sat || sat })

/-- Starts the next RHIZOID of a group, in commit order (R466, R468). -/
def State.startRhz (s : State) (id : Nat) : State :=
  match s.desc? id with
  | none => s
  | some d =>
    let g := d.cGroup
    match (s.coll g).rhzWait with
    | [] => s
    | (h, w, frame, pos) :: rest =>
      if d.ended ∨ d.opcode ≠ 0x50 ∨ d.cOp ≠ 5 ∨ h ≠ id then s
      else
        let m := s.members w
        let first := m.peers (m.nx == 1)
        let second := if 1 < m.nx ∧ 1 < m.ny then m.ys else []
        if s.oversize g 1 (first ++ second) then s.collFail g id stCapacityReduced
        else s.collTry g d fun s =>
          match s.collRead d d.cSrc 0 (4 * d.cCount) with
          | (none, s) => (false, s)
          | (some own, s) =>
            let seq := (s.nat (kRhzSeq g) + 1) % 2 ^ 32
            let s := s.setNat (kRhzSeq g) seq
            let c := s.coll g
            let mine := c.rhzEarly.filter fun e => e.2.1 / 2 ^ 24 == seq % 256
            let r : RhzRun := { desc := id, gdef := w, seq := seq, frame := frame, pos := pos, own := own }
            let s := s.setColl g { c with rhzWait := rest, rhz := c.rhz ++ [r],
                                          rhzEarly := c.rhzEarly.filter fun e => e.2.1 / 2 ^ 24 != seq % 256 }
            let s := s.sendRhz first ⟨g, frame, 0, pos, seq % 256 * 2 ^ 24, 4 * d.cCount - 1, own⟩
            if first = [] then (true, s.rhzResult g r d own false)
            else (true, (mine.foldl (fun s e => s.rhzCell g e.1 e.2.1 e.2.2.1 e.2.2.2) s).feedBad g)

/-- The messages of a stage in ascending order of offset, this member's own among them. -/
def stageValues (k mine : Nat) (own : List Byte) (peers : List (Nat × Nat)) (got : List (Nat × List Byte)) :
    List (List Byte) :=
  (countFrom 0 k).map fun rel =>
    if rel = mine then own
    else match peers.find? fun x => x.1 == rel with
      | some (_, port) => match got.find? fun y => y.1 == port with | some y => y.2.take own.length | none => []
      | none => []

/-- The place of a second-stage cell (R469): slot 1 of this frame at the lowest position that begins once the first-stage
result is held and lies above the previous RHIZOID's, else none. -/
def State.secondPlace (s : State) (g : Nat) (r : RhzRun) (ys : List (Nat × Nat)) : Option Nat :=
  let now := s.tb.ticks
  let moment := r.lastEnd - s.rhzBase + (min (Config.rhzHold s.free) 360000 : Nat)
  let limit := leastOf (ys.map fun x => slotLimit (s.txEntry x.2 1) (s.portC x.2))
  let used := (s.coll g).rhz.filterMap fun q => match q.second with
    | some (f, p) => if f = now then some p else none
    | none => none
  (countFrom 0 limit).find? fun pos =>
    (used.all fun p => decide (p < pos)) &&
    ys.all fun x =>
      decide (moment ≤ (slotQ s.frameLen s.slotsPerFrame * 1500 + s.guardMaxNs * 6000 +
        pos * (cellTime (s.laneCount x.2) * 20) : Nat))

/-- The first stage of a RHIZOID is reduced: its result is written where one axis has several members, else its second-stage
cell is placed. -/
def State.rhzFirst (s : State) (g : Nat) (r : RhzRun) (d : Desc) : State :=
  let m := s.members r.gdef
  let axisY := m.nx == 1
  let (v, sat) := reduceBlocks d.cType d.cRed (stageValues (m.along axisY) (m.mine axisY) r.own (m.peers axisY) r.got1)
  if 1 < m.nx ∧ 1 < m.ny then
    let place := s.secondPlace g r m.ys
    let s := s.takeFree
    let (at_, s) := match place with
      | some pos => ((s.tb.ticks, pos), s)
      | none => ((s.tb.ticks + 1, r.pos - 1), s.bump (kRhzLate g))
    let s := s.modRhz g r.desc fun r => { r with held := some v, second := some at_, sat := r.sat || sat }
    s.sendRhz m.ys ⟨g, at_.1, 1, at_.2, r.seq % 256 * 2 ^ 24 + 1, 4 * d.cCount - 1, v⟩
  else s.rhzResult g r d v sat

/-- The second stage of a RHIZOID is reduced. -/
def State.rhzSecond (s : State) (g : Nat) (r : RhzRun) (d : Desc) (held : List Byte) : State :=
  let m := s.members r.gdef
  let (v, sat) := reduceBlocks d.cType d.cRed (stageValues m.ny m.yr held m.ys r.got2)
  s.rhzResult g r d v sat

/-- Reduces the first complete stage among a group's RHIZOIDs (R469). -/
def State.rhzReduce (s : State) (g : Nat) : State :=
  match (s.coll g).rhz.find? fun r => !r.fin && s.rhzMissing r == [] with
  | none => s
  | some r =>
    match s.desc? r.desc with
    | none => s
    | some d =>
      match r.held with
      | none => s.rhzFirst g r d
      | some v => s.rhzSecond g r d v

/-- RHIZOID (R466). -/
def execRhizoid (id : Nat) (s : State) : Host.Outcome State Fault Refusal := .next (s.startRhz id)

/-- RHIZOID_STAGE_REDUCED (R469). -/
def execRhizoidStageReduced (group : Nat) (s : State) : Host.Outcome State Fault Refusal := .next (s.rhzReduce group)

end Sys2Proof.Machine
end

