-- ==== Sys2Proof/Machine/Link.lean ====
section
/-!
DEFINITION. Machine/Link.lean: the link ports: sending in slots, arrival checking, markers, port states, lanes and slot
tables; and the Ethernet ports.
-/
namespace Sys2Proof.Machine

/-! ### Markers (R72, R410, R411, R438) -/

/-- The payload of a port's marker (Table 10.6). -/
def State.markerPayload (s : State) (n : Nat) : List Byte :=
  let p := s.port n
  let st := s.nat (kPortState n)
  leBytes 8 (s.nat kFrameNumber) ++ leBytes 1 s.timing ++ leBytes 1 (s.nat kHopCount) ++ leBytes 2 (s.nat kInstallTag) ++
    leBytes 1 n ++ leBytes 1 (b2n (st == 4) + 2 * b2n s.ready + 4 * b2n (st == 3)) ++ leBytes 1 (s.nat (kLanesActive n)) ++
    leBytes 1 p.laneReq ++ leBytes 8 p.laneSwitch ++ leBytes 4 (s.nat kDriftEstNs) ++ leBytes 2 (s.nat kTimebaseEpoch) ++
    [0, 0]

/-- Whether a port sends markers: in a slotted state unless R62 mutes it, and in BOOTLINK, which runs unslotted (R72, R416,
R427). DEDUCED (log 74). -/
def State.sendsMarkers (s : State) (n : Nat) : Bool :=
  let st := s.nat (kPortState n)
  (inRange 2 4 st && !s.tb.muted) || st == 5

/-- Sends the markers of a frame boundary. DEDUCED (log 97). -/
def State.sendMarkers (s : State) : State :=
  (countFrom 0 16).foldl (fun (s : State) n =>
    if s.sendsMarkers n then
      (s.emit (.marker n (formCell 1 0 0 (s.frameNo % 65536) 0 31 0 true (s.markerPayload n)))).wrapAdd (kCellsTx n)
    else s) s

/-- The port by which the neighbour on an in-plane port reaches this device; none for a port that R437 does not use. -/
def State.backPort (s : State) (k : Nat) : Option Nat :=
  if k + 1 < s.dimX ∧ k < 7 then some ((2 * s.dimX - k - 2) % s.dimX)
  else if 7 ≤ k ∧ k - 7 + 1 < s.dimY then some (7 + (2 * s.dimY - (k - 7) - 2) % s.dimY)
  else none

/-- Whether PEER_EXPECT is enabled and differs from a neighbour's TAG and PORT (R411). -/
def State.wrongPeer (s : State) (n peer : Nat) : Bool :=
  let e := s.nat (kPeerExpect n)
  bitOf e 31 && e % 2 ^ 20 != peer

/-- Whether a neighbour's PORT breaks R438. -/
def State.wrongPort (s : State) (n peer : Nat) : Bool :=
  match s.backPort n with | some q => peer / 2 ^ 16 != q | none => false

/-- Whether a neighbour's TAG and PORT break R411 or R438. -/
def State.miswired (s : State) (n peer : Nat) : Bool := s.wrongPeer n peer || s.wrongPort n peer

/-! ### Violations (R413 to R418) -/

/-- A slot violation: the eighth in a row mutes the port (R413, R416). DEDUCED (log 74). -/
def State.violation (s : State) (n : Nat) : State :=
  let s := s.bump (kSlotViolations n)
  let run := s.nat (kViolRun n) + 1
  let s := s.setNat (kViolRun n) (min run 255)
  if 8 ≤ run ∧ s.nat (kPortState n) ≠ 4 then
    let s := s.setPort n { s.port n with prev := s.nat (kPortState n), good := 0 }
    (((s.setNat (kPortState n) 4).bump (kViolMutes n)).portEvent n 4).refreshMute n
  else s

/-- δ of a timed cell, in 0.25 ns (R412). -/
def State.drift (s : State) (n : Nat) (delta : Int) : State :=
  let s := s.setReg (kDriftLast n) (i32Word delta)
  if s.nat (kDriftPeak n) < delta.natAbs then s.setNat (kDriftPeak n) (min delta.natAbs (2 ^ 32 - 1)) else s

/-- Whether |δ| exceeds G_eff. DEDUCED (log 74). -/
def State.beyondGuard (s : State) (delta : Int) : Bool := decide (4 * s.guardEff < delta.natAbs)

/-- The expected arrival of a timed cell in 1/6000 ns from position 0 of the present frame (R412): the local start of the slot
that FRAME_LO16 and SLOT name, in the geometry of its frame, GUARD_MAX_NS, CELL × τ and PORT_DELAY. DEDUCED (log 76). -/
def State.expectedAt (s : State) (n : Nat) (bytes : List Byte) : Int :=
  let d := sext 16 ((byteField bytes 6 2 + 2 ^ 16 - s.frameNo % 2 ^ 16) % 2 ^ 16)
  let g := if d < 0 then s.tb.before else s.geometry
  let fl := g.getD 0 32
  d * (fl * 256 * 6000 : Nat) +
    (slotQ fl (g.getD 2 64) * byteField bytes 2 2 * 1500 + g.getD 4 24 * 6000 +
      byteField bytes 4 2 * cellTime (s.laneCount n) * 20 + s.nat (kPortDelay n) * 6 : Nat)

/-- δ of a timed cell that arrives at `arrival` (0.25 ns from position 0 of the present frame), in 0.25 ns (R412, R414). -/
def State.arrivalDelta (s : State) (n : Nat) (bytes : List Byte) (arrival : Int) : Int :=
  (arrival * 1500 - s.expectedAt n bytes + 750) / 1500

/-- Counts what FEC met (Table 10.9). -/
def State.fecCount (s : State) (n : Nat) (o : FecObs) : State :=
  let s := if o.corrected = 0 then s else s.wrapAdd (kFecCorrected n) o.corrected
  if o.bad then s.bump (kFecUncorrected n) else s

/-! ### Lanes (R421 to R424) -/

/-- How many lanes a mask holds. DEDUCED (log 75). -/
def laneBits (m : Nat) : Nat := ((countFrom 0 4).filter fun i => bitOf m i).length

/-- A neighbour's lane proposal: one like this port's own confirms it; another is joined with it, the lanes of both and the
later frame, which both ends form alike. DEDUCED (log 75). -/
def State.laneProposal (s : State) (n req sw : Nat) : State :=
  let p := s.port n
  if sw = 0 ∨ req = 0 then s
  else if p.laneSwitch = 0 then
    if req = s.nat (kLanesActive n) then s
    else s.setPort n { p with laneReq := req, laneSwitch := sw, confirmed := true, waited := 0 }
  else if p.laneReq = req ∧ p.laneSwitch = sw then s.setPort n { p with confirmed := true }
  else s.setPort n { p with laneReq := p.laneReq &&& req, laneSwitch := max p.laneSwitch sw, confirmed := false }

/-- A port goes DOWN (Table 10.7): its lanes and its proposals end. -/
def State.portDown (s : State) (n : Nat) : State :=
  let p := s.port n
  let s := s.setPort n { p with faulty := 0, laneReq := 0, laneSwitch := 0, confirmed := false, waited := 0,
                                trained := false, trainWin := 0, restoring := false, good := 0, peerMuted := false,
                                peerReady := false }
  ((s.setNat (kPortState n) 0).setNat (kLanesActive n) 0).refreshMute n

/-- A port starts training (Table 10.7). -/
def State.portTrain (s : State) (n : Nat) : State :=
  (s.setPort n { s.port n with trainWin := 0, trained := false }).setNat (kPortState n) 1

/-- A port comes UP or DEGRADED with its lanes; DRIFT_PEAK and the run count start again. -/
def State.portUp (s : State) (n state lanes : Nat) : State :=
  let s := ((s.setNat (kPortState n) state).setNat (kLanesActive n) lanes).setNat (kDriftPeak n) 0
  (s.setNat (kViolRun n) 0).refreshMute n

/-- PORT_DELAY from a round-trip time in ps (R426): half of it, less PORT_ASYM. -/
def State.portDelay (s : State) (n rtt : Nat) : Nat :=
  ((rtt / 2 : Nat) - (s.reg (kPortAsym n)).toInt).toNat % 2 ^ 32

/-- In a maintenance window, a port with a faulty lane proposes its three good lanes and becomes DEGRADED, one with a
restored lane proposes all four, and an unconfirmed proposal waits (R422, R424, Table 10.7). DEDUCED (log 75). -/
def State.laneWork (s : State) (n : Nat) : State :=
  let p := s.port n
  let st := s.nat (kPortState n)
  let frame := (s.frameNo + 1 + Config.laneLead s.free) % 2 ^ 48
  let propose := fun (s : State) (lanes : Nat) =>
    (s.setPort n { s.port n with laneReq := lanes, laneSwitch := frame, confirmed := false, waited := 0 }).takeFree
  if p.laneSwitch ≠ 0 then
    if p.confirmed then (if st = 2 ∧ laneBits p.laneReq < 4 then (s.setNat (kPortState n) 3).portEvent n 1 else s)
    else
      let s := s.setPort n { p with waited := p.waited + 1 }
      if p.laneSwitch ≤ s.frameNo then
        (s.setPort n { s.port n with laneSwitch := frame }).takeFree
      else s
  else if st = 2 ∧ p.faulty ≠ 0 then
    propose ((s.setNat (kPortState n) 3).portEvent n 1) (s.nat (kLanesActive n) &&& (15 - p.faulty))
  else if st = 3 ∧ p.trained = true then propose s 15
  else s

/-- A maintenance window passes for a port: its training advances, and its lanes are worked on (R422, R425). -/
def State.portWindow (s : State) (n : Nat) : State :=
  let p := s.port n
  let s := if s.nat (kPortState n) = 1 ∨ p.restoring = true then s.setPort n { p with trainWin := p.trainWin + 1 } else s
  s.laneWork n

/-! ### Sending (R402 to R406) -/

/-- Sends a cell in a slot. -/
def State.sendCell (s : State) (n typ slot cell chan offset : Nat) (last : Bool) (l : List Byte) : State :=
  s.emit (.cell n (formCell typ slot cell (s.frameNo % 65536) chan (l.length - 1) offset last l))

/-- Sends cells from position `pos` on. -/
def State.sendRun (s : State) (n typ slot : Nat) : Nat → List (Nat × Nat × Bool × List Byte) → State
  | _, [] => s
  | pos, (chan, off, last, l) :: t => (s.sendCell n typ slot pos chan off last l).sendRun n typ slot (pos + 1) t

/-- The Rhizoid cells that a slot carries: those placed in it, each at its position, one to a position (R404, R405, R468). -/
def rhzDue (tick slot group limit : Nat) : List RhzCell → List Nat → List RhzCell
  | [], _ => []
  | c :: t, used =>
    if c.slot = slot ∧ c.frame ≤ tick ∧ c.group = group ∧ c.pos < limit ∧ (slot ≠ 0 ∨ 1 ≤ c.pos) ∧ used.contains c.pos = false
    then c :: rhzDue tick slot group limit t (c.pos :: used) else rhzDue tick slot group limit t used

/-- A slot of a port that may send: the cells of its class go out (R404, R406). -/
def State.sendSlot (s : State) (n slot : Nat) : State :=
  let e := s.txEntry n slot
  let limit := slotLimit e (s.portC n)
  let p := s.port n
  let g := slotGroup e
  match slotClass e with
  | 1 =>
    let go := rhzDue s.tb.ticks slot g limit p.rhz []
    let s := s.setPort n { p with rhz := p.rhz.filter fun c => !go.contains c }
    let s := go.foldl (fun (s : State) c => s.sendCell n 2 slot c.pos c.group c.offset true c.bytes) s
    s.wrapAdd (kCellsTx n) go.length
  | 2 =>
    let go := (p.coll.filter fun c => c.1 == g).take limit
    let s := s.setPort n { p with coll := (p.coll.filter fun c => c.1 != g) ++ (p.coll.filter fun c => c.1 == g).drop limit }
    ((s.sendRun n 3 slot 0 go).wrapAdd (kCellsTx n) go.length).stageCheck g
  | 3 =>
    let acks := p.acks.take limit
    let data := p.data.take (limit - acks.length)
    let s := s.setPort n { p with acks := p.acks.drop acks.length, data := p.data.drop data.length }
    let s := s.sendRun n 5 slot 0 (acks.map fun a => (a.1, 0, true, a.2))
    (s.sendRun n 4 slot acks.length data).wrapAdd (kCellsTx n) (acks.length + data.length)
  | _ => s

/-- SLOT_START (R402): each slot starts once in a frame, in order. -/
def State.slotStart (s : State) (n slot : Nat) : State :=
  let p := s.port n
  if s.slotsPerFrame ≤ slot ∨ (p.slotAt.1 = s.tb.ticks ∧ slot < p.slotAt.2) then s
  else
    let s := s.setPort n { p with slotAt := (s.tb.ticks, slot + 1) }
    if s.portSends n then s.sendSlot n slot else s

/-! ### Receiving -/

/-- Whether a cell's TYPE suits the CLASS of its slot, and its group the slot's GROUP (R413). -/
def typeSuits (typ chan e : Nat) : Bool :=
  match typ with
  | 1 => slotClass e == 1
  | 2 => slotClass e == 1 && slotGroup e == chan
  | 3 => slotClass e == 2 && slotGroup e == chan
  | 4 => slotClass e == 3
  | 5 => slotClass e == 3
  | _ => false

/-- The end of a cell's arrival in 1/6000 ns of counted time (R469): a cell time after it began to arrive. -/
def State.cellEnd (s : State) (n : Nat) (arrival : Int) : Int :=
  s.rhzBase + arrival * 1500 + (cellTime (s.laneCount n) * 20 : Nat)

/-- The byte offset that a SPOR_DATA cell's OFFSET stands for: the nearest to the bytes the window has received (R357). -/
def nearOffset (got off : Nat) : Nat :=
  let base := got / 2 ^ 32 * 2 ^ 32 + off
  if base + 2 ^ 31 < got then base + 2 ^ 32 else if got + 2 ^ 31 < base ∧ 2 ^ 32 ≤ base then base - 2 ^ 32 else base

/-- The payload of a SPOR_DATA cell lands in its window's ring; beyond the window's ACK_BYTES + WIN_BYTES, or in a window that
is not open, it lands nowhere, and the window notes what passed (R357, R387). -/
def State.landData (s : State) (w off : Nat) (l : List Byte) : State :=
  let v := s.win w
  let size := s.nat (kWinBytes w)
  let at_ := nearOffset (v.recvBytes / 256) off * 256
  if s.nat (kWinState w) = 0 ∨ size = 0 ∨ s.winAckBytes w + size ≤ at_ then
    s.setWin w { v with passed := v.passed ++ [(at_, l.take 64)] }
  else
    let s := (s.vaWrite (s.nat (kWinOwner w)) (s.nat (kWinBase w) + at_ % size) l).2
    s.setWin w { s.win w with recvBytes := at_ + l.length }

/-- An accepted cell reaches its destination. -/
def State.deliver (s : State) (n typ chan off : Nat) (arrival : Int) (l : List Byte) : State :=
  match typ with
  | 2 => s.rhzCell (chan % 32) n off (s.cellEnd n arrival) l
  | 3 => s.collCell (chan % 32) n (.good off l)
  | 4 => s.landData (chan % 32) off l
  | 5 =>
    if s.nat (kTransport chan) = 0 ∧ fld (s.reg (kStreamDest chan)) 3 0 = n then s.applyAck chan l else s
  | _ => s

/-- A cell is lost (R397, R401): the collective or RHIZOID of its slot that needed it ends with ECC_UNCORRECTED (R419).  Cell 0
of slot 0 is the MARKER, which none needs (R405). -/
def State.cellLost (s : State) (n : Nat) (bytes : List Byte) : State :=
  let slot := byteField bytes 2 2 % 1024
  let e := s.rxEntry n slot
  if slot = 0 ∧ byteField bytes 4 2 = 0 then s
  else if slotClass e = 1 then s.rhzCellBad (slotGroup e) n none stEcc
  else if slotClass e = 2 then s.collCell (slotGroup e) n (.bad none stEcc)
  else s

/-- A cell is refused as a slot violation (R413, R419). -/
def State.cellRefused (s : State) (n typ chan off : Nat) : State :=
  let s := s.violation n
  if typ = 2 then s.rhzCellBad (chan % 32) n (some (off / 2 ^ 24)) stSlotViolation
  else if typ = 3 then s.collCell (chan % 32) n (.bad (some (off / 2 ^ 24)) stSlotViolation) else s

/-- Whose marker a port heard last: PEER_ID, the wiring test and the neighbour's READY flag (R411, R438, R691). -/
def State.peerTold (s : State) (n : Nat) (l : List Byte) : State :=
  let peer := byteField l 10 2 + byteField l 12 1 % 16 * 2 ^ 16
  let s := s.setNat (kPeerId n) peer
  let bad := s.miswired n peer
  let s := if bad && !(s.port n).wiring then s.portEvent n 3 else s
  s.setPort n { s.port n with wiring := bad, peerReady := bitOf (byteField l 13 1) 1 }

/-- Where the neighbour's frame boundary of a marker lies, in ns from position 0 of the present frame (R410): its arrival less
PORT_DELAY, less GUARD_MAX_NS. -/
def State.markerPhase (s : State) (n : Nat) (arrival : Int) : Int :=
  (arrival * 250 - (s.nat (kPortDelay n) + s.guardMaxNs * 1000 : Nat) + 500) / 1000

/-- The offset that a marker gives (R82): its boundary is that of the same frame number, or the nearest one while either end
has no number. DEDUCED (log 53). -/
def State.markerOffset (s : State) (n frame : Nat) (arrival : Int) : Int :=
  if s.numbered && bitOf frame 63 then
    ((frame % 2 ^ 48 : Nat) - (s.frameNo : Int)) * (s.frameNs : Nat) - s.markerPhase n arrival
  else s.phaseMod (-(s.markerPhase n arrival))

/-- The number that a marker gives the next local boundary: that of the sender's boundary nearest to it (R78).
DEDUCED (log 54). -/
def State.markerNumber (s : State) (n frame : Nat) (arrival : Int) : Nat :=
  let f : Int := s.frameNs
  ((frame % 2 ^ 48 : Nat) + (2 * (f - s.markerPhase n arrival) + f) / (2 * f)).toNat % 2 ^ 48

/-- What a marker tells its port and the timebase (R75, R78, R411, R417, R418, R438, R691, Table 2.3). -/
def State.markerTold (s : State) (n : Nat) (delta arrival : Int) (l : List Byte) : State :=
  let s := s.peerTold n l
  let p := s.port n
  let frame := byteField l 0 8
  let hop := byteField l 9 1
  let locked := byteField l 8 1 == 2
  let good := if s.nat (kPortState n) = 4 then (if 2 * delta.natAbs ≤ 4 * s.guardEff then p.good + 1 else 0) else 0
  let ref := locked && decide (hop ≤ 6)
  let s := s.setPort n { p with
    peerMuted := bitOf (byteField l 13 1) 0, good := good,
    mkGot := p.mkGot || ref, mkRun := if ref then p.mkRun + 1 else 0, mkHop := if ref then hop else p.mkHop,
    mkOff := if ref then some (s.markerOffset n frame arrival) else p.mkOff,
    mkNumber := if locked && bitOf frame 63 then some (s.markerNumber n frame arrival) else p.mkNumber }
  let s := if ref && s.tb.selected == 3 + n then s.setNat kHopCount (hop + 1) else s
  (s.laneProposal n (byteField l 15 1 % 16) (byteField l 16 8)).refreshMute n

/-- Whether the receiver is untimed: its timing state is FREERUN or it has no number (R415). -/
def State.untimed (s : State) : Bool := s.timing == 0 || !s.numbered

/-- A MARKER of the right form arrives: it is measured and used, never discarded, and a violation only for δ (R413), which an
untimed receiver does not test (R415). DEDUCED (log 74). -/
def State.markerIn (s : State) (n : Nat) (bytes : List Byte) (arrival : Int) : State :=
  let l := (bytes.drop 16).take 32
  if s.untimed then (s.wrapAdd (kCellsRx n)).markerTold n 0 arrival l
  else
    let delta := s.arrivalDelta n bytes arrival
    let s := s.drift n delta
    let s := if s.beyondGuard delta then s.violation n
      else if s.nat (kPortState n) = 4 then s.wrapAdd (kCellsRx n)
      else (s.wrapAdd (kCellsRx n)).setNat (kViolRun n) 0
    s.markerTold n delta arrival l

/-- A timed cell other than MARKER: it is tested (R412, R413), and reaches its destination where it passes. -/
def State.timedIn (s : State) (n : Nat) (bytes : List Byte) (arrival : Int) : State :=
  let delta := s.arrivalDelta n bytes arrival
  let s := s.drift n delta
  let typ := byteField bytes 0 1 % 16
  let slot := byteField bytes 2 2
  let cell := byteField bytes 4 2
  let chan := byteField bytes 8 1
  let off := byteField bytes 10 4
  let e := s.rxEntry n slot
  if s.nat (kPortState n) = 4 then s
  else if s.beyondGuard delta ∨ s.slotsPerFrame ≤ slot ∨ typeSuits typ chan e = false ∨ slotLimit e (s.portC n) ≤ cell
  then s.cellRefused n typ chan off
  else if (s.port n).wiring then s
  else
    let s := (s.wrapAdd (kCellsRx n)).setNat (kViolRun n) 0
    s.deliver n typ chan off arrival ((bytes.drop 16).take (byteField bytes 9 1 + 1))

/-- A cell arrives on a port (R397, R401, R412 to R416); on a port in BOOTLINK, which runs unslotted, one that is neither
MARKER nor PROXY has no slot to be in and counts in RX_UNTIMED. DEDUCED (log 76). -/
def State.cellIn (s : State) (n : Nat) (bytes : List Byte) (arrival : Int) (o : FecObs) : State :=
  let st := s.nat (kPortState n)
  let typ := byteField bytes 0 1 % 16
  if 16 ≤ n ∨ (inRange 2 5 st) = false then s
  else
    let s := s.fecCount n o
    if o.bad then (if st = 5 then s else s.cellLost n bytes)
    else if cellOk bytes = false then
      (if st = 5 then s.bump (kCellErrors n) else (s.bump (kCellErrors n)).cellLost n bytes)
    else if st = 5 then
      (if typ = 1 then s.peerTold n ((bytes.drop 16).take 32) else if typ = 6 then s else s.bump (kRxUntimed n))
    else if typ = 1 then s.markerIn n bytes arrival
    else if s.untimed then s.bump (kRxUntimed n)
    else s.timedIn n bytes arrival

/-! ### Slot tables (R403, R408, R409) -/

/-- The entry and slot number of a slot-table entry: table 0 TX_SLOT_A, 1 TX_SLOT_B, 2 RX_SLOT_A, 3 RX_SLOT_B. -/
def slotEntry (n table slot : Nat) : Ent × Nat :=
  match table with
  | 0 => (.txSlotA, kTxSlotA n slot)
  | 1 => (.txSlotB, kTxSlotB n slot)
  | 2 => (.rxSlotA, kRxSlotA n slot)
  | _ => (.rxSlotB, kRxSlotB n slot)

/-- The effect of a slot-table write: an active bank is refused (R408). -/
def writeSlotTable (n table slot : Nat) (v : Word) (s : State) (_ : EntLoc) : Except Reason State :=
  orRefuse (table % 2 != s.slotBank n) .state (s.setReg (slotEntry n table slot).2 v)

/-- The geometry in force at a frame: FRAME_LEN, SLOTS_PER_FRAME and GUARD_MAX_NS (R409). -/
def State.geometryAt (s : State) (frame : Nat) : Nat × Nat × Nat :=
  match s.tb.armed with
  | some g => if s.nat kSwitchFrame ≤ frame then (g.getD 0 0, g.getD 2 0, g.getD 4 0)
      else (s.frameLen, s.slotsPerFrame, s.guardMaxNs)
  | none => (s.frameLen, s.slotsPerFrame, s.guardMaxNs)

/-- Whether the inactive banks of a port may be switched to at a frame (R409). -/
def State.banksOk (s : State) (n frame : Nat) : Bool :=
  let (fl, slots, gm) := s.geometryAt frame
  let c := cellsPerSlot fl slots gm 4
  let tables := if s.slotBank n = 0 then [1, 3] else [0, 2]
  tables.all fun t =>
    slotClass (s.nat (slotEntry n t 0).2) == 1 &&
    (countFrom 0 slots).all fun k => decide (bitsOf (s.nat (slotEntry n t k).2) 25 16 ≤ c)

/-- The effect of a SLOT_SWITCH_FRAME write (R408, R409). -/
def writeSlotSwitch (n : Nat) (v : Word) (s : State) (_ : EntLoc) : Except Reason State :=
  orRefuse (decide (s.frameNo + 2 ≤ v.toNat) && s.banksOk n v.toNat) .state (s.setReg (kSlotSwitchFrame n) v)

/-- The banks of a port change (R408). -/
def State.bankSwitch (s : State) (n : Nat) : State :=
  let sw := s.nat (kSlotSwitchFrame n)
  if sw ≠ 0 ∧ sw ≤ s.frameNo then
    ((s.setNat (kSlotBank n) (1 - s.nat (kSlotBank n))).setNat (kSlotSwitchFrame n) 0).portEvent n 7
  else s

/-! ### Ethernet (R429 to R433) -/

/-- A queue pair whose packets arrive on an Ethernet port: RTS and bound to it. -/
def State.qpOn (s : State) (q eth : Nat) : Bool :=
  decide (q < 256) && s.nat (kQpState q) == 1 && s.nat (kQpPort q) == eth

/-- Whether an RDMA WRITE into the acknowledgement region is accepted (R432): its place, and the stream or fence it is for. -/
def State.ackPlace (s : State) (q va rkey : Nat) (l : List Byte) : Option Nat :=
  let base := s.nat kRoceAckVa
  let off := va - base
  if l.length ≠ 32 ∨ va < base ∨ 16384 ≤ off ∨ off % 32 ≠ 0 ∨ rkey ≠ s.rkey.toNat % 2 ^ 32 then none
  else
    let k := off / 32
    if k < 256 then (if s.nat (kTransport k) = 1 ∧ s.streamQp k = q then some off else none)
    else
      let f := k - 256
      let owner := s.fencePart f
      if s.fenceLife f ≠ 0 ∧ ((countFrom 0 256).any fun st =>
          s.nat (kTransport st) == 1 && s.streamQp st == q && s.nat (kStreamOwner st) == owner) = true
      then some off else none

/-- A write into the acknowledgement region is applied (R431, R521). -/
def State.ackApply (s : State) (off : Nat) (l : List Byte) : State :=
  let s := { s with ackMem := putBytes s.ackMem off l }
  if off < 8192 then s.applyAck (off / 32) l
  else if byteField l 28 4 = crc32c (l.take 28) ∧ byteField l 12 1 = 4
  then s.signalRequest (byteField l 0 8) (byteField l 8 4) else s.bump kFenceRecDiscards

/-- A packet that carried a congestion mark is answered with a CNP, at most every 50 µs on a queue pair (Table 10.8). -/
def State.congested (s : State) (eth q : Nat) : State :=
  let x := s.qp q
  let now := s.nat kDevTimeNs
  if match x.cnpSent with | some t => decide (now < t + 50000) | none => false then s
  else ((s.setQp q { x with cnpSent := some now }).bump (kCnpTx eth)).emit (.cnp (s.ethHead eth q) q)

/-- The messages of a queue pair that a transport acknowledgement of `psn` does not cover. -/
def unacked (psn : Nat) (l : List QpMsg) : List QpMsg :=
  l.filter fun m => decide (2 ^ 23 ≤ (psn + 2 ^ 24 - (m.psn + m.packets - 1) % 2 ^ 24) % 2 ^ 24)

/-- A RoCE packet arrives on an Ethernet port (R429, Table 10.8). DEDUCED (log 76). DEDUCED (log 103). -/
def State.rocePacket (s : State) (eth : Nat) (pkt : RocePacket) : State :=
  match pkt with
  | .write q psn va rkey l ce =>
    if s.qpOn q eth = false then s.bump (kEthDiscards eth)
    else
      let s := if ce then s.congested eth q else s
      let base := s.nat kRoceAckVa
      match s.ackPlace q va rkey l with
      | some off => (s.emit (.roceAck (s.ethHead eth q) q psn false)).ackApply off l
      | none =>
        let s := s.bump (kEthDiscards eth)
        if va < base + 16384 ∧ base < va + max l.length 1 then s.emit (.roceAck (s.ethHead eth q) q psn true) else s
  | .ack q psn =>
    if s.qpOn q eth = false then s.bump (kEthDiscards eth)
    else
      let x := s.qp q
      s.setQp q { x with sent := unacked psn x.sent, retries := 0 }
  | .nak q psn =>
    if s.qpOn q eth = false then s.bump (kEthDiscards eth)
    else
      let x := s.qp q
      let left := unacked ((psn + 2 ^ 24 - 1) % 2 ^ 24) x.sent
      if x.retries < 7 then
        let s := (s.setQp q { x with sent := left, retries := x.retries + 1 }).bump (kPsnRetries eth)
        left.foldl (fun (s : State) m => s.emit (.roce (s.ethHead eth q) q m.psn m.va m.rkey m.bytes)) s
      else s
  | .cnp q =>
    if s.qpOn q eth = false then s.bump (kEthDiscards eth)
    else (s.setQp q { s.qp q with cnpGot := some (s.nat kDevTimeNs) }).bump (kCnpRx eth)
  | .other => s.bump (kEthDiscards eth)

/-- A queue pair's retries are exhausted: it and its UP stream enter ERROR (R433). -/
def State.qpError (s : State) (q : Nat) : State :=
  if 256 ≤ q ∨ s.nat (kQpState q) ≠ 1 ∨ (s.qp q).sent = [] then s
  else
    let s := (s.setNat (kQpState q) 2).setQp q { s.qp q with sent := [] }
    (countFrom 0 256).foldl (fun (s : State) st =>
      if s.nat (kTransport st) = 1 ∧ s.streamQp st = q ∧ s.streamUp st = true
      then (s.setNat (kStreamCtrl st) 2).abandonStream st 0x0A 3 else s) s

/-! ### Meanings -/

/-- SLOT_START (R402). -/
def execSlotStart (port slot : Nat) (s : State) : Host.Outcome State Fault Refusal := .next (s.slotStart port slot)

/-- CELL_RECEIVED (R412): `arrival` is the measured arrival in 0.25 ns from position 0 of the present frame. -/
def execCellReceived (port : Nat) (bytes : List Byte) (arrival : Int) (fec : FecObs) (s : State) :
    Host.Outcome State Fault Refusal := .next (s.cellIn port bytes arrival fec)

/-- MARKER_RECEIVED (R410, R411): a cell that is no MARKER is no such event; a port in training hears whose marker it is. -/
def execMarkerReceived (port : Nat) (bytes : List Byte) (arrival : Int) (fec : FecObs) (s : State) :
    Host.Outcome State Fault Refusal :=
  if byteField bytes 0 1 % 16 = 1 then
    if s.nat (kPortState port) = 1 ∧ cellOk bytes = true ∧ fec.bad = false ∧ port < 16
    then .next (s.peerTold port ((bytes.drop 16).take 32))
    else .next (s.cellIn port bytes arrival fec)
  else .next s

/-- VIOL_UNMUTE (R417): at a frame boundary after 16 good markers. -/
def execViolUnmute (port : Nat) (s : State) : Host.Outcome State Fault Refusal :=
  let p := s.port port
  if s.nat (kPortState port) = 4 ∧ 16 ≤ p.good then
    .next (((((s.setPort port { p with good := 0 }).setNat (kPortState port) p.prev).setNat (kViolRun port) 0).portEvent
      port 5).refreshMute port)
  else .next s

/-- PORT_ENABLE (Table 10.7). -/
def execPortEnable (who : Requester) (port : Nat) (s : State) : Host.Outcome State Fault Refusal :=
  .next (s.slotWrite who .portCtrl (kPortCtrl port) 1 fun s _ =>
    let t := s.setNat (kPortCtrl port) 1
    .ok (if s.nat (kPortState port) = 0 then
      (if s.ready then t.portTrain port else t.setNat (kPortState port) 5) else t))

/-- PORT_DISABLE (Table 10.7). -/
def execPortDisable (who : Requester) (port : Nat) (s : State) : Host.Outcome State Fault Refusal :=
  .next (s.slotWrite who .portCtrl (kPortCtrl port) 0 fun s _ => .ok ((s.setNat (kPortCtrl port) 0).portDown port))

/-- RESTORE_LANE (R424): refused unless the port carries cells on three lanes. -/
def execRestoreLane (who : Requester) (port : Nat) (s : State) : Host.Outcome State Fault Refusal :=
  .next (s.slotWrite who .portCtrl (kPortCtrl port) 2 fun s _ =>
    orRefuse (s.nat (kPortState port) == 3) .state
      ((s.setNat (kPortCtrl port) 1).setPort port { s.port port with restoring := true, trained := false, trainWin := 0 }))

/-- TRAINING_DONE (R425, R426, Table 10.7): the lanes trained, as a mask, and the round-trip time in ps. -/
def execTrainingDone (port lanes rtt : Nat) (s : State) : Host.Outcome State Fault Refusal :=
  let p := s.port port
  if s.nat (kPortState port) = 1 then
    if lanes % 16 = 15 then .next ((s.setNat (kPortDelay port) (s.portDelay port rtt)).portUp port 2 15)
    else if laneBits (lanes % 16) = 3 then
      let s := s.setPort port { p with faulty := 15 - lanes % 16 }
      .next (((s.setNat (kPortDelay port) (s.portDelay port rtt)).portUp port 3 (lanes % 16)).portEvent port 1)
    else .next s
  else if s.nat (kPortState port) = 3 ∧ p.restoring = true ∧ lanes % 16 = 15 then
    .next (s.setPort port { p with restoring := false, trained := true, faulty := 0, trainWin := 0 })
  else .next s

/-- TRAIN_FAIL (R425, Table 10.7): TRAIN_MAX_FR windows passed. -/
def execTrainFail (port : Nat) (s : State) : Host.Outcome State Fault Refusal :=
  let p := s.port port
  if p.trainWin < s.nat (kTrainMaxFr port) then .next s
  else if s.nat (kPortState port) = 1 then .next ((s.portDown port).portEvent port 0)
  else if p.restoring then .next ((s.setPort port { p with restoring := false, trainWin := 0 }).portEvent port 0)
  else .next s

/-- LANE_FAULT (R421, Table 10.7): a first faulty lane waits for the maintenance window, a second one takes the port DOWN. -/
def execLaneFault (port lane : Nat) (s : State) : Host.Outcome State Fault Refusal :=
  let p := s.port port
  let st := s.nat (kPortState port)
  let f := p.faulty ||| 2 ^ lane
  if 4 ≤ lane ∨ bitOf p.faulty lane = true ∨ inRange 2 4 st = false then .next s
  else if p.faulty = 0 ∧ s.nat (kLanesActive port) = 15 then .next (s.setPort port { p with faulty := f })
  else .next (s.portDown port)

/-- LANE_SWITCH (R422, R424): at the boundary of the frame agreed on. -/
def execLaneSwitch (port : Nat) (s : State) : Host.Outcome State Fault Refusal :=
  let p := s.port port
  if p.laneSwitch = 0 ∨ p.confirmed = false ∨ s.frameNo < p.laneSwitch ∨ inRange 2 4 (s.nat (kPortState port)) = false
  then .next s
  else
    let q := { p with laneReq := 0, laneSwitch := 0, confirmed := false, waited := 0, trained := false }
    let set := fun (s : State) (st : Nat) =>
      if s.nat (kPortState port) = 4 then s.setPort port { s.port port with prev := st } else s.setNat (kPortState port) st
    let s := (s.setPort port q).setNat (kLanesActive port) p.laneReq
    if p.laneReq = 15 then .next ((set (s.setPort port { q with faulty := 0 }) 2).portEvent port 2)
    else if laneBits p.laneReq = 3 then .next ((set (s.setPort port { q with faulty := 15 - p.laneReq }) 3).portEvent port 1)
    else .next (s.portDown port)

/-- LANE_CONFIRM_TIMEOUT (R422): four maintenance windows passed without the neighbour's confirmation. -/
def execLaneConfirmTimeout (port : Nat) (s : State) : Host.Outcome State Fault Refusal :=
  let p := s.port port
  if p.laneSwitch ≠ 0 ∧ p.confirmed = false ∧ 4 ≤ p.waited then .next (s.portDown port) else .next s

/-- LOS (Table 10.7): the signal of all lanes is lost. -/
def execLos (port : Nat) (s : State) : Host.Outcome State Fault Refusal :=
  if inRange 2 4 (s.nat (kPortState port)) then .next ((s.portDown port).portEvent port 6) else .next s

/-- LOSS_CLEARED (Table 10.7): a port left enabled retrains by itself. -/
def execLossCleared (port : Nat) (s : State) : Host.Outcome State Fault Refusal :=
  if s.nat (kPortState port) = 0 ∧ s.nat (kPortCtrl port) = 1 ∧ s.ready = true ∧ port < 16 then .next (s.portTrain port)
  else .next s

/-- SLOT_TABLE_WRITE (R403, R408): table 0 TX_SLOT_A, 1 TX_SLOT_B, 2 RX_SLOT_A, 3 RX_SLOT_B. -/
def execSlotTableWrite (who : Requester) (port table slot : Nat) (v : Word) (s : State) :
    Host.Outcome State Fault Refusal :=
  let e := slotEntry port table slot
  .next (s.slotWrite who e.1 e.2 v (writeSlotTable port table slot v))

/-- SLOT_SWITCH_FRAME_WRITE (R408): a refusal under R409 also sets SWITCH_REFUSED. -/
def execSlotSwitchFrameWrite (who : Requester) (port : Nat) (v : Word) (s : State) : Host.Outcome State Fault Refusal :=
  let k := kSlotSwitchFrame port
  let t := s.slotWrite who .slotSwitchFrame k v (writeSlotSwitch port v)
  match s.requesterOk who, s.gateSlot who .slotSwitchFrame k v with
  | true, .ok l =>
    match writeSlotSwitch port v s l with
    | .error _ => .next (t.portEvent port 8)
    | .ok _ => .next t
  | _, _ => .next t

/-- SLOT_BANK_SWITCH (R408). -/
def execSlotBankSwitch (port : Nat) (s : State) : Host.Outcome State Fault Refusal := .next (s.bankSwitch port)

/-- ROCE_PACKET_RECEIVED (R429). -/
def execRocePacketReceived (eth : Nat) (pkt : RocePacket) (s : State) : Host.Outcome State Fault Refusal :=
  if eth < 4 then .next (s.rocePacket eth pkt) else .next s

/-- QP_ERROR (R433). -/
def execQpError (qp : Nat) (s : State) : Host.Outcome State Fault Refusal := .next (s.qpError qp)

/-- ETH_LINK_UP (Table 10.11). -/
def execEthLinkUp (eth : Nat) (s : State) : Host.Outcome State Fault Refusal :=
  if eth < 4 then .next (s.setNat (kEthState eth) 1) else .next s

/-- ETH_LINK_DOWN (Table 10.11). -/
def execEthLinkDown (eth : Nat) (s : State) : Host.Outcome State Fault Refusal :=
  if eth < 4 then .next (s.setNat (kEthState eth) 0) else .next s

end Sys2Proof.Machine
end

