-- ==== Sys2Proof/Machine/Power.lean ====
section
/-!
DEFINITION. Machine/Power.lean: the power sequences and the chip resets (R635, R644, R675 to R678, R700 to R704).
-/
namespace Sys2Proof.Machine

/-! ### What a chip reset leaves -/

/-- Whether a dictionary slot keeps its value across a chip reset: the Marionette's entries, the boot entries marked "M", and
the values that the die's fuses, its one-time counter and the straps hold (R626, R670, R684, R706). DEDUCED (log 16). -/
def keptSlot (k : Nat) : Bool :=
  marioIndex (k / 256) || k == kModuleId || k == kTimebaseEpoch || k == kDieSerial || k == kFwSvnFloor ||
  k == kProxyMode || k == kProxyPasses || k == kLinkTrainWaitMs || k == kTimeLockWaitMs

/-- The bytes of long entries that a chip reset keeps: NODES_PRESENT, and over a warm one the granules that a partition
owns (R702). DEDUCED (log 16). -/
def keptOcts (warm : Bool) (t : Tbl Byte) : Tbl Byte :=
  t.filter fun x =>
    x.1 / 512 == kNodesPresent || (warm && x.1 / 512 == kGranuleOwner && decide (x.2.toNat < 64))

/-- Chip reset is asserted (R626, R700 to R704, Table 17.7): everything of the die goes, but for HBM over a warm reset, the
records that survive every reset, and the firmware's counter; the link ports go to BOOTLINK. DEDUCED (log 16). -/
def State.dieReset (s : State) (warm : Bool) (cause : Nat) : State :=
  let t : State :=
    { regs := Tbl.drop (fun k => !keptSlot k) s.regs
      octs := keptOcts warm s.octs
      hbm := if warm then s.hbm else []
      out := s.out
      free := s.free
      nextId := s.nextId
      pending := s.pending
      areas := s.areas
      boot := { inReset := true, cause := cause, fencedCores := s.boot.fencedCores, savedMap := s.boot.savedMap,
                retired := s.boot.retired, repairs := s.boot.repairs, cmuFailed := s.boot.cmuFailed }
      persist := s.persist
      saving := s.saving
      mario := s.mario
      log := s.log
      stop := s.stop }
  (countFrom 0 16).foldl (fun (s : State) n => s.setNat (kPortState n) 5) t

/-! ### Rails -/

/-- Whether a sensor channel reads the die or one of its rails (Table 16.1). DEDUCED (log 83). -/
def dieChannel (ch : Nat) : Bool := decide (ch ≤ 0x14) || decide (0x19 ≤ ch)

/-- The channels of the die and its rails report zero and are not evaluated while the die is unpowered (Table 16.3). -/
def State.dieChannelsOff (s : State) : State :=
  { s with regs := Tbl.drop (fun k => k / 256 == 0x7000 && dieChannel (k % 256)) s.regs,
           mario := { s.mario with sensors := Tbl.drop dieChannel s.mario.sensors } }

/-- POWER_STATE moves, and a change is logged with the requester's area (Table 16.5). DEDUCED (log 83). -/
def State.setPower (s : State) (st area : Nat) : State :=
  if s.nat kPowerState = st then s
  else (s.setNat kPowerState st).logEvent 0x0022 (Config.eventSeverity 0x0022).toNat 2 st (Config.requesterArg area) 0

/-- Chip reset is asserted and the rails go: the die's state and HBM are lost (R644, Table 17.3). -/
def State.dieOff (s : State) (st area : Nat) : State := ((s.dieReset false 0).dieChannelsOff).setPower st area

/-- The rails come up in order under asserted chip reset (Table 17.3); THERM_TRIP_N is released first (R796).
DEDUCED (log 83). -/
def State.railsOn (s : State) (area : Nat) : State :=
  let s := if s.nat kThermTripState = 1 then (s.setNat kThermTripState 0).emit (.thermTripN false) else s
  ((s.dieReset false 0).dieChannelsOff).setPower 1 area

/-- Whether any channel is in CRIT (R645, R676). -/
def State.anyCrit (s : State) : Bool := (countFrom 0 0x28).any fun j => fld (s.reg (kSensor j)) 51 50 == 2

/-- Whether ON is accepted in PROTECT (R645). -/
def State.protectLeft (s : State) : Bool := s.nat kPowerState == 3 && !s.anyCrit

/-- A warm chip reset (R700): commits stop, running descriptors end without records, HBM keeps what has landed, and the rails
stay up. DEDUCED (log 16). -/
def State.warmReset (s : State) (cause : Nat) : State := s.dieReset true cause

/-- A protective power-down, or what is left of it where the die is off already (R643, R644): the cause is logged,
POWER_TRIP is set and POWER_STATE becomes PROTECT. DEDUCED (log 83). -/
def State.protect (s : State) (cause value : Nat) : State :=
  let s := (s.logEvent 0x0021 3 2 cause value 0).alert 4
  if s.nat kPowerState = 4 ∨ s.nat kPowerState = 3 then s else s.dieOff 3 65

/-- The Marionette observes a thermal trip (R796): the sensor channel and its value go into the record. -/
def State.observeTrip (s : State) (ch : Nat) (value : Int) : State :=
  let s := { s with mario := { s.mario with trip := none } }.setPower 3 65
  ((s.setBit kInputFaults 3).alert 4).logEvent 0x0051 3 2 ch (toBits 32 value) 0

/-! ### Commands -/

/-- POWER_ON (R645, R675, Table 17.3). -/
def execPowerOn (who : Requester) (s : State) : Host.Outcome State Fault Refusal :=
  .next (s.slotWrite who .powerCtrl kPowerCtrl 1 fun s _ =>
    orRefuse (s.nat kPowerState == 0 || s.protectLeft) .state (s.railsOn (areaOf who)))

/-- POWER_OFF (R675, Table 17.3). -/
def execPowerOff (who : Requester) (s : State) : Host.Outcome State Fault Refusal :=
  .next (s.slotWrite who .powerCtrl kPowerCtrl 2 fun s _ =>
    orRefuse (s.nat kPowerState == 1 || s.nat kPowerState == 2) .state (s.dieOff 0 (areaOf who)))

/-- CHIP_RESET (R675, R700, Table 17.3). -/
def execChipReset (who : Requester) (s : State) : Host.Outcome State Fault Refusal :=
  .next (s.slotWrite who .powerCtrl kPowerCtrl 3 fun s _ => orRefuse (s.nat kPowerState == 2) .state (s.warmReset 1))

/-- POWER_CYCLE (R645, R675, Table 17.3): OFF, and ON again. -/
def execPowerCycle (who : Requester) (s : State) : Host.Outcome State Fault Refusal :=
  .next (s.slotWrite who .powerCtrl kPowerCtrl 4 fun s _ =>
    orRefuse (s.nat kPowerState == 2 || s.protectLeft) .state ((s.dieOff 0 (areaOf who)).railsOn (areaOf who)))

/-- CHIP_RESET_RELEASE (R69, R671, R678): chip reset is released, a timebase epoch begins, and the boot ROM runs.
DEDUCED (log 16). -/
def execChipResetRelease (s : State) : Host.Outcome State Fault Refusal :=
  if s.boot.inReset && (s.nat kPowerState == 1 || s.nat kPowerState == 2) then
    let s := { s with boot := { s.boot with inReset := false }, areas := [] }
    .next (((s.setPower 2 65).wrapAdd kTimebaseEpoch 1 16).setNat kBootCause s.boot.cause)
  else .next s

/-- PCIE_RESET (R677): a fundamental or hot reset while POWER_STATE is ON. -/
def execPcieReset (s : State) : Host.Outcome State Fault Refusal :=
  if s.nat kPowerState = 2 then .next (s.warmReset 2) else .next s

/-- THERM_TRIP (R794 to R796): hardware resets the die and cuts its rails; the Marionette acts on it at once, or when its
restart ends.  A die without power does not trip. -/
def execThermTrip (ch : Nat) (value : Int) (s : State) : Host.Outcome State Fault Refusal :=
  if s.nat kPowerState = 1 ∨ s.nat kPowerState = 2 then
    let s := ((s.dieReset false 0).dieChannelsOff.setNat kThermTripState 1).emit (.thermTripN true)
    if s.mario.restarting then .next { s with mario := { s.mario with trip := some (ch, value) } }
    else .next (s.observeTrip ch value)
  else .next s

end Sys2Proof.Machine
end

