-- ==== Sys2Proof/Machine/Marionette.lean ====
section
/-!
DEFINITION. Machine/Marionette.lean: the Marionette's sensors, its boots and restarts, Strings search and presence, and
firmware update (chapter 16).
-/
namespace Sys2Proof.Machine

/-! ### Sensors (R639 to R646) -/

/-- Whether a sample lies beyond a level's thresholds (R640). -/
def beyondLevel (v hi lo : Int) : Bool := decide (hi < v) || decide (v < lo)

/-- Whether a sample lies inside a level's thresholds by the hysteresis: 2,000 m°C, or 1 % of the threshold (R640).
DEDUCED (log 84). -/
def insideLevel (temp : Bool) (v hi lo : Int) : Bool :=
  if temp then decide (v + 2000 ≤ hi) && (decide (lo = -(2 ^ 31)) || decide (lo + 2000 ≤ v))
  else decide (100 * v ≤ 100 * hi - hi.natAbs) && (decide (lo = -(2 ^ 31)) || decide (100 * lo + lo.natAbs ≤ 100 * v))

/-- A run of samples, counted up to its limit. -/
def runOf (more : Bool) (limit n : Nat) : Nat := if more then min (n + 1) limit else 0

/-- A channel after one sample (R640). DEDUCED (log 84). -/
def SensorSt.next (x : SensorSt) (bw bc iw ic : Bool) : SensorSt :=
  let y : SensorSt := { level := x.level, beyondWarn := runOf bw 3 x.beyondWarn, beyondCrit := runOf bc 3 x.beyondCrit,
                        insideWarn := runOf iw 10 x.insideWarn, insideCrit := runOf ic 10 x.insideCrit }
  let calm := y.insideWarn == 10
  let lv := if y.beyondCrit = 3 then 2
    else if x.level = 2 then (if y.insideCrit = 10 then (if calm then 0 else 1) else 2)
    else if x.level = 1 then (if calm then 0 else 1)
    else if y.beyondWarn = 3 then 1 else 0
  { y with level := lv }

/-- The SENSOR slot of Table 16.2, without what its age gives. -/
def sensorWord (value : Int) (fault : Bool) (level : Nat) : Word :=
  wd (toBits 32 value + b2n fault * 2 ^ 49 + level * 2 ^ 50)

/-- A change of LEVEL is logged; one into WARN or CRIT sets its alert, and one into CRIT of a channel other than inlet and
outlet air powers the die down (R642, R643). -/
def State.levelChange (s : State) (ch value old new : Nat) : State :=
  if old = new then s
  else
    let s := s.logEvent 0x0010 (Config.sensorSeverity new).toNat 1 ch value new
    let s := if new = 1 then s.alert 0 else if new = 2 then s.alert 1 else s
    if new = 2 ∧ ch ≠ 0x15 ∧ ch ≠ 0x16 then s.protect ch value else s

/-- A change of FAULT is logged, and a fault sets its alert (R642). DEDUCED (log 84). -/
def State.faultChange (s : State) (ch : Nat) (old new : Bool) : State :=
  if old = new then s
  else
    let s := s.logEvent 0x0011 (Config.sensorSeverity (if new then 3 else 4)).toNat 1 ch 0 (b2n new)
    if new then s.alert 2 else s

/-- Sum of a list. -/
def sumOf (l : List Nat) : Nat := l.foldl (· + ·) 0

/-- CAP_STATE follows the input power averaged over CAP_WINDOW_MS (R646). -/
def State.capCheck (s : State) : State :=
  let n := s.nat kCapWindowMs
  let sum := sumOf (s.mario.watts.take n)
  let cap := s.nat kPowerCapW * 1000 * n
  if s.mario.watts.length < n then s
  else if s.nat kCapState = 0 ∧ cap < sum then
    ((s.setNat kCapState 1).logEvent 0x0020 2 2 (s.nat kPowerCapW) (sum / n) 0).alert 3
  else if s.nat kCapState = 1 ∧ sum * 100 < 97 * cap then s.setNat kCapState 0
  else s

/-- A sample of the input current gives the input power of this millisecond (R643, R646). DEDUCED (log 84). -/
def State.powerSample (s : State) (ma : Int) : State :=
  let mv := sext 32 (s.nat (kSensor 0x16))
  let p := (mv * ma / 1000).toNat
  let watts := (p :: s.mario.watts).take 1000
  let avg := sumOf (watts.take 10) / 10
  let full := decide (10 ≤ watts.length)
  let excess := if full && decide (315000 * 10 < sumOf (watts.take 10)) then s.mario.overMs + 1 else 0
  let s := { s with mario := { s.mario with watts := watts, overMs := excess } }.setNat kInputPowerMw (p % 2 ^ 32)
  let s := if full ∧ s.nat kPeakPowerMw < avg then s.setNat kPeakPowerMw avg else s
  let s := s.capCheck
  if excess = 50 then s.protect 0xFF avg else s

/-- SENSOR_SAMPLE (R639, R640): channel `ch` (its SENSOR subindex) gives `value`, or does not respond. -/
def execSensorSample (ch : Nat) (value : Int) (faulty : Bool) (s : State) : Host.Outcome State Fault Refusal :=
  if ch = 0 ∨ 0x28 < ch ∨ s.mario.inputOn = false ∨ s.mario.restarting = true then .next s
  else
    let j := ch - 1
    let x := Tbl.get {} s.mario.sensors ch
    let put := fun (s : State) (x : SensorSt) => { s with mario := { s.mario with sensors := Tbl.set {} s.mario.sensors ch x } }
    if dieChannel ch = true ∧ s.nat kPowerState ≠ 2 then .next ((put s {}).setReg (kSensor j) 0)
    else
      let old := s.reg (kSensor j)
      let oldFault := bitOf old.toNat 49
      let oldLevel := fld old 51 50
      if faulty then
        let s := (put s { level := x.level }).setReg (kSensor j) (sensorWord (sext 32 old.toNat) true 1)
        .next ((s.faultChange ch oldFault true).levelChange ch (fld old 31 0) oldLevel 1)
      else
        let wh := (s.reg (kWarnHi j)).toInt
        let ch' := (s.reg (kCritHi j)).toInt
        let wl := (s.reg (kWarnLo j)).toInt
        let cl := (s.reg (kCritLo j)).toInt
        let t := decide (ch ≤ 0x16)
        let y := x.next (beyondLevel value wh wl) (beyondLevel value ch' cl) (insideLevel t value wh wl)
          (insideLevel t value ch' cl)
        let s := (put s y).setReg (kSensor j) (sensorWord value false y.level)
        let s := (s.faultChange ch oldFault false).levelChange ch (toBits 32 value) oldLevel y.level
        .next (if ch = 0x18 then s.powerSample value else s)

/-! ### Strings states -/

/-- STRINGS_STATE moves, and the change is logged (Table 16.5). -/
def State.setStrings (s : State) (st : Nat) : State :=
  if s.nat kStringsState = st then s
  else ((s.setNat kStringsState st).logEvent 0x0030 (Config.eventSeverity 0x0030).toNat 3 st (Config.busErrs s.free % 512)
    (Config.busErrs (s.free + 1) % 512)).takeFree

/-- The node goes bus-off (Table 16.6): it is no longer joined, and its pending reply is gone. -/
def State.busOff (s : State) : State :=
  if s.nat kStringsState ≤ 1 then
    { s with mario := { s.mario with joined := false, reply := none } }.bump kBusOffs |>.setStrings 2
  else s

/-- BUS_ERRORS counts a bus fault. DEDUCED (log 85). -/
def State.busError (s : State) : State := (s.bump kBusErrors (Config.busErrs s.free)).takeFree

/-- Whether frames on the bus reach the Marionette (R636, R650, R820). -/
def State.hears (s : State) : Bool :=
  s.mario.inputOn && !s.mario.restarting && s.mario.connected && s.nat kStringsState != 2

/-- A frame that carries the node's own ID, which it did not send (R652). -/
def State.dupId (s : State) : State :=
  if s.nat kStringsState ≤ 1 then { s with mario := { s.mario with joined := false, reply := none } }.setStrings 4 else s

/-- A frame of another node is heard (R651, R652). -/
def State.fromNode (s : State) (node : Nat) (f : State → State) : State :=
  if s.hears = false ∨ node = 0 ∨ 128 ≤ node then s
  else if node = s.nat kNodeId then s.dupId
  else f s

/-! ### Boots and restarts (R635 to R638, R667, R676) -/

/-- A field of the image in firmware slot `k` (Table 16.11). -/
def State.image (s : State) (k off n : Nat) : Nat := leNat (getBytes s.mario.flash (k * 2 ^ 20 + off) n)

/-- Whether the signature of a slot has verified. -/
def Mario.sig (m : Mario) (k : Nat) : Bool := if k = 0 then m.sigA else m.sigB

/-- The Marionette with the signature mark of a slot replaced. -/
def Mario.setSig (m : Mario) (k : Nat) (v : Bool) : Mario := if k = 0 then { m with sigA := v } else { m with sigB := v }

/-- Whether a slot is bootable (R665). DESIGN CHOICE (log 14). -/
def State.bootable (s : State) (k : Nat) : Bool := s.mario.sig k && decide (s.nat kRollbackFloor ≤ s.image k 6 2)

/-- A restart begins (R635). -/
def State.beginRestart (s : State) (cause : Nat) : State :=
  { s with mario := { s.mario with restarting := true, cause := cause, verifying := false } }

/-- A trial that fails goes back to the other slot (Table 16.12). DEDUCED (log 86). -/
def State.revert (s : State) : State :=
  let k := 1 - s.mario.active
  let s := { s with mario := { s.mario with active := k, trial := false, owner := none } }.setNat kUpdateState 0
  let s := s.logEvent 0x0043 (Config.eventSeverity 0x0043).toNat 4 k (s.image k 8 4) 0
  if Config.updateAlert 0x0043 then s.alert 6 else s

/-- The slot the mask ROM boots (R667). DEDUCED (log 86). -/
def State.bootSlot (s : State) : Option Nat :=
  let k := s.mario.active
  if s.bootable k then some k else if s.bootable (1 - k) then some (1 - k) else none

/-- The straps are sampled, and what a restart loses is gone (R638, R661). -/
def State.bootFresh (s : State) (straps : Nat) : State :=
  let id := straps % 128
  let m := { s.mario with restarting := false, joined := false, rejoin := false, heardEpoch := none, segs := [],
                          reply := none, watts := [], overMs := 0,
                          sensors := s.mario.sensors.map fun (x : Nat × SensorSt) => (x.1, ({ level := x.2.level } : SensorSt)) }
  let m := { m with sensors := m.sensors.filter fun (x : Nat × SensorSt) => decide (x.2 ≠ ({} : SensorSt)) }
  ((({ s with mario := m }.setNat kNodeId id).setNat kModuleIdRaw id).setNat kModuleId id).setStrings (if id = 0 then 3 else 0)

/-- The Marionette runs the slot the mask ROM chose; with none it enters RECOVERY (R667). -/
def State.runImage (s : State) (cause : Nat) : State :=
  match s.bootSlot with
  | none => (s.logEvent 0x0001 (Config.eventSeverity 0x0001).toNat 0 0 0 cause).setPower 4 65
  | some k =>
    let s := ((s.setNat kMfwVersion (s.image k 8 4)).setNat kMfwSvn (s.image k 6 2 % 256)).setNat kMfwSlot k
    let s := if s.mario.trial
      then { s with mario := { s.mario with trialBoots := s.mario.trialBoots + 1 } }.setNat kUpdateState 4 else s
    s.logEvent 0x0001 (Config.eventSeverity 0x0001).toNat 0 k (s.nat kMfwVersion) cause

/-- MARIONETTE_BOOT (R638, R667, R676, R791): the Marionette boots after input power came or a restart began.
DESIGN CHOICE (log 10). -/
def execMarionetteBoot (straps : Nat) (s : State) : Host.Outcome State Fault Refusal :=
  if s.mario.restarting && s.mario.inputOn then
    let again := s.mario.trial && decide (1 ≤ s.mario.trialBoots)
    let cause := if again then 2 else s.mario.cause
    let power := s.mario.cause == 0
    let trip := s.mario.trip
    let s := s.bootFresh straps
    let s := (if again then s.revert else s).runImage cause
    let s := if power && decide (s.nat kInputFaults % 4 ≠ 0)
      then s.logEvent 0x0050 3 2 (s.nat kInputFaults) 0 0 else s
    let s := match trip with | some (ch, v) => s.observeTrip ch v | none => s
    .next (if power && s.bootSlot.isSome && !s.anyCrit then s.railsOn 65 else s)
  else .next s

/-- MARIONETTE_RESTART (R635): a watchdog restart. -/
def execMarionetteRestart (s : State) : Host.Outcome State Fault Refusal :=
  if s.mario.inputOn && !s.mario.restarting then .next (s.beginRestart 3) else .next s

/-! ### Input power (R670, R789, R791) -/

/-- Input power is lost: the module is off, and what is not in ferroelectric memory, in flash or in a fuse is gone.  A SAVE in
progress leaves the older copy bad (R630). DEDUCED (log 50). DEDUCED (log 87). -/
def State.inputLost (s : State) (cause : Nat) : State :=
  let m := { s.mario with inputOn := false, inputCause := cause, restarting := false, verifying := false, segs := [],
                          reply := none, joined := false }
  let s := { (s.dieReset false 0).dieChannelsOff with mario := m }.setNat kPowerState 0
  match s.saving with
  | some _ => { s with persist := s.persist.take 1, saving := none }
  | none => s

/-- Input power is applied: the Marionette's entries take their defaults, INPUT_FAULTS says why it went, and the Marionette
starts to boot (R670). DEDUCED (log 87). -/
def State.inputApplied (s : State) : State :=
  let keep := fun k => !marioIndex (k / 256) || k == kRollbackFloor || k == kLogNextSeq
  let m : Mario :=
    { restarting := true, cause := 0, flash := s.mario.flash, chunks := s.mario.chunks, sigA := s.mario.sigA,
      sigB := s.mario.sigB, active := s.mario.active, trial := s.mario.trial, trialBoots := s.mario.trialBoots }
  { s with regs := Tbl.drop (fun k => !keep k) s.regs, octs := Tbl.drop (fun k => k / 512 == kNodesPresent) s.octs,
           mario := m }.setNat kInputFaults s.mario.inputCause

/-- INPUT_ENABLE (R789): the input has stayed at or above 38 V for 50 ms, and no disconnect is latched.
DEDUCED (log 87). -/
def execInputEnable (s : State) : Host.Outcome State Fault Refusal :=
  if s.mario.inputOn = false ∧ s.mario.inputCause % 4 = 0 then .next s.inputApplied else .next s

/-- INPUT_UNDERVOLTAGE (R789, Table 20.9): UV_DROPOUT. -/
def execInputUndervoltage (s : State) : Host.Outcome State Fault Refusal :=
  if s.mario.inputOn then .next (s.inputLost 4) else .next s

/-- INPUT_FAULT (R791): OV_TRIP or OC_TRIP. -/
def execInputFault (voltage : Bool) (s : State) : Host.Outcome State Fault Refusal :=
  if s.mario.inputOn then .next (s.inputLost (if voltage then 1 else 2)) else .next s

/-- INPUT_REENABLE (R791): 5 s after a disconnect, under R789. -/
def execInputReenable (s : State) : Host.Outcome State Fault Refusal :=
  if s.mario.inputOn = false ∧ s.mario.inputCause % 4 ≠ 0 then .next s.inputApplied else .next s

/-! ### Search, announce and heartbeat (R659 to R663) -/

/-- INSTALL_TAG is read from the die where the die runs. DEDUCED (log 85). -/
def State.readTag (s : State) : State :=
  if s.dieUp then { s with mario := { s.mario with tag := s.nat kInstallTag } } else s

/-- The IDENT block with its REASON (Table 16.7). -/
def State.ident (s : State) (reason : List Byte) : List Byte :=
  leBytes 2 (s.nat kVendorId) ++ leBytes 2 (s.nat kDeviceId) ++ leBytes 1 (s.nat kStepping) ++
  leBytes 1 (s.nat kPowerState) ++ leBytes 2 s.mario.tag ++ leBytes 4 (s.nat kMfwVersion) ++ leBytes 1 (s.nat kMfwSvn) ++
  reason ++ [0, 0]

/-- Sends an ANNOUNCE with a REASON (Table 16.7). DEDUCED (log 85). -/
def State.announce (s : State) (reason : Nat) : State :=
  let s := s.readTag
  s.sendStrings 5 (s.ident (leBytes 1 reason))

/-- The effect of a SEARCH of another node (R659, R661). DEDUCED (log 85). -/
def State.search (s : State) (epoch window : Nat) : State :=
  if s.mario.joined = false then { s with mario := { s.mario with heardEpoch := some epoch } }
  else if s.nat kLastEpoch = epoch then s
  else
    let w := if window = 0 then s.nat kSearchWindowMs else window
    let i := Config.searchSlot s.free % ((w - 20) / 2 + 1)
    { s with mario := { s.mario with reply := some (2 * i, w) } }.takeFree.setNat kLastEpoch epoch

/-- SEARCH (R659): from another node, with its EPOCH and WINDOW_MS. -/
def execSearch (node epoch window : Nat) (s : State) : Host.Outcome State Fault Refusal :=
  .next (s.fromNode node fun s => s.search (epoch % 65536) (window % 65536))

/-- SEARCH_REPLY (R659, R660): the queued reply begins, `waited` ms after the SEARCH; before its time, or after W - 10 ms,
it does not. -/
def execSearchReply (waited : Nat) (s : State) : Host.Outcome State Fault Refusal :=
  match s.mario.reply with
  | none => .next s
  | some (t, w) =>
    if s.stringsUp = false ∨ waited < t ∨ w < waited + 10 then .next s
    else
      let s := { s with mario := { s.mario with reply := none } }.readTag
      let b := s.ident [Config.freeByte s.free] ++ leBytes 2 (s.nat kLastEpoch) ++ leBytes 2 (w - waited)
      .next (s.takeFree.sendStrings 4 b)

/-- LATE_SEARCH_ANNOUNCE (R660): a reply that had not begun is withdrawn, and the node announces itself. -/
def execLateSearchAnnounce (s : State) : Host.Outcome State Fault Refusal :=
  match s.mario.reply with
  | none => .next s
  | some _ => if s.stringsUp then .next ({ s with mario := { s.mario with reply := none } }.announce 2) else .next s

/-- ANNOUNCE (R661): a joining node's quiet period and every window it observed have ended. -/
def execAnnounce (s : State) : Host.Outcome State Fault Refusal :=
  if s.stringsUp = true ∧ s.mario.joined = false then
    let s := match s.mario.heardEpoch with | some e => s.setNat kLastEpoch e | none => s
    let reason := if s.mario.rejoin then 1 else 0
    .next ({ s with mario := { s.mario with joined := true, rejoin := false, heardEpoch := none } }.announce reason)
  else .next s

/-- HEARTBEAT (R662, Table 16.7): from the ANNOUNCE onward. -/
def execHeartbeat (s : State) : Host.Outcome State Fault Refusal :=
  if s.stringsUp && s.mario.joined then
    let b := leBytes 1 (s.nat kPowerState) ++ leBytes 1 (b2n s.alertLevel + 2 * b2n (s.nat kUpdateState == 4)) ++
      leBytes 2 (s.nat kHbPeriodMs) ++ leBytes 2 (s.nat kLastEpoch) ++ leBytes 2 s.mario.hbCount
    .next ({ s with mario := { s.mario with hbCount := (s.mario.hbCount + 1) % 65536 } }.sendStrings 0xE b)
  else .next s

/-- A node is marked present or absent (R663). -/
def State.markNode (s : State) (node : Nat) (here : Bool) : State :=
  let b := s.oct kNodesPresent (node / 8)
  let v := if bitOf b (node % 8) = here then b else if here then b + 2 ^ (node % 8) else b - 2 ^ (node % 8)
  s.setOct kNodesPresent (node / 8) (BitVec.ofNat 8 v)

/-- NODE_PRESENT (R661, R663): a HEARTBEAT with its PERIOD_MS, a SEARCH_REPLY with its EPOCH, or an ANNOUNCE. -/
def execNodePresent (node : Nat) (period epoch : Option Nat) (s : State) : Host.Outcome State Fault Refusal :=
  .next (s.fromNode node fun s =>
    let s := s.markNode node true
    let s := match period with
      | some p => { s with mario := { s.mario with periods := Tbl.set 1000 s.mario.periods node (p % 65536) } }
      | none => s
    match epoch with
    | some e => if s.mario.joined then s else { s with mario := { s.mario with heardEpoch := some (e % 65536) } }
    | none => s)

/-- NODE_ABSENT (R663): three periods and 100 ms have passed without a frame of the node. -/
def execNodeAbsent (node : Nat) (s : State) : Host.Outcome State Fault Refusal :=
  if s.mario.inputOn && !s.mario.restarting && decide (node < 128) && bitOf (s.oct kNodesPresent (node / 8)) (node % 8) then
    .next (((s.markNode node false).logEvent 0x0031 (Config.eventSeverity 0x0031).toNat 3 node (Config.uptimeMs s.free) 0).takeFree)
  else .next s

/-- DUP_ID (R652). -/
def execDupId (s : State) : Host.Outcome State Fault Refusal := if s.hears then .next s.dupId else .next s

/-- BUS_OFF_RECOVERY (R650, R661): the node is on the bus again, and joins it again. -/
def execBusOffRecovery (s : State) : Host.Outcome State Fault Refusal :=
  if s.nat kStringsState = 2 ∧ s.mario.connected = true ∧ s.mario.inputOn = true ∧ s.mario.restarting = false then
    .next ({ s with mario := { s.mario with joined := false, rejoin := true, heardEpoch := none } }.setStrings 0)
  else .next s

/-! ### Firmware update (R664 to R668) -/

/-- The slot that is not running, the only one an update writes (R667). -/
def State.idleSlot (s : State) : Nat := 1 - s.nat kMfwSlot

/-- An update command that its state does not list, or that another than the session's owner gives, is refused (R666). -/
def State.updateStep (s : State) (who : Requester) (listed : List Nat) (t : State) : Except Reason State :=
  if listed.contains (s.nat kUpdateState) = false then .error .state
  else if s.mario.owner.isSome ∧ s.mario.owner ≠ some who then .error .busy
  else .ok t

/-- The session is closed (Table 16.12). -/
def State.closeUpdate (s : State) : State :=
  { s with mario := { s.mario with owner := none, verifying := false } }.setNat kUpdateState 0

/-- The effect of OPEN: the inactive slot is erased. DEDUCED (log 86). -/
def State.openUpdate (s : State) (who : Requester) : State :=
  let k := s.idleSlot
  let m := { s.mario with flash := clearBytes s.mario.flash (k * 2 ^ 20) (2 ^ 20), chunks := [], owner := some who,
                          verifying := false }
  ({ s with mario := m.setSig k false }.setNat kUpdateOffset 0).setNat kUpdateState 1

/-- The effect of an UPDATE_CHUNK write (R666). -/
def writeUpdateChunk (who : Requester) (bytes : List Byte) (s : State) (_ : EntLoc) : Except Reason State :=
  let o := s.nat kUpdateOffset
  match s.updateStep who [1] s with
  | .error r => .error r
  | .ok s =>
    if 2 ^ 20 ≤ o then .error .range
    else
      let m := { s.mario with flash := putBytes s.mario.flash (s.idleSlot * 2 ^ 20 + o) bytes,
                              chunks := if s.mario.chunks.contains (o / 512) then s.mario.chunks else o / 512 :: s.mario.chunks }
      .ok ({ s with mario := m }.setNat kUpdateOffset (o + 512))

/-- UPDATE_REASON of the image in the inactive slot: the first check that fails, or 0 (R666). DEDUCED (log 86). -/
def State.updateReason (s : State) (sigOk : Bool) : Nat :=
  let k := s.idleSlot
  let len := s.image k 12 4
  if s.image k 0 4 ≠ 0x4D524E54 ∨ s.image k 4 2 ≠ 1 then 1
  else if len = 0 ∨ 1048064 < len then 2
  else if (countFrom 0 ((512 + len + 511) / 512)).all (fun i => s.mario.chunks.contains i) = false then 3
  else if sigOk = false then 4
  else if s.image k 6 2 < s.nat kRollbackFloor then 5
  else 0

/-- UPDATE_OPEN (Table 16.12). -/
def execUpdateOpen (who : Requester) (s : State) : Host.Outcome State Fault Refusal :=
  .next (s.slotWrite who .updateCtrl kUpdateCtrl 1 fun s _ => s.updateStep who [0, 3] (s.openUpdate who))

/-- UPDATE_CHUNK (Table 16.12). -/
def execUpdateChunk (who : Requester) (bytes : List Byte) (s : State) : Host.Outcome State Fault Refusal :=
  .next (s.dictLong who 0x7040 0x08 bytes (writeUpdateChunk who bytes))

/-- UPDATE_VERIFY (Table 16.12): the checks start. -/
def execUpdateVerify (who : Requester) (s : State) : Host.Outcome State Fault Refusal :=
  .next (s.slotWrite who .updateCtrl kUpdateCtrl 2 fun s _ =>
    s.updateStep who [1] { s with mario := { s.mario with verifying := true } })

/-- UPDATE_VERIFY_DONE (Table 16.12): the checks end; `sigOk` says whether the signature of R664 verifies.
DESIGN CHOICE (log 41). -/
def execUpdateVerifyDone (sigOk : Bool) (s : State) : Host.Outcome State Fault Refusal :=
  if s.mario.verifying = true ∧ s.nat kUpdateState = 1 then
    let k := s.idleSlot
    let r := s.updateReason sigOk
    let s := { s with mario := { s.mario with verifying := false } }.setNat kUpdateReason r
    if r = 0 then .next ({ s with mario := s.mario.setSig k true }.setNat kUpdateState 2)
    else
      let s := (s.setNat kUpdateState 3).logEvent 0x0040 (Config.eventSeverity 0x0040).toNat 4 r (s.image k 8 4) (s.image k 6 2)
      .next (if Config.updateAlert 0x0040 then s.alert 6 else s)
  else .next s

/-- UPDATE_ACTIVATE (R668, Table 16.12): the new slot is on trial, and the Marionette restarts. -/
def execUpdateActivate (who : Requester) (s : State) : Host.Outcome State Fault Refusal :=
  .next (s.slotWrite who .updateCtrl kUpdateCtrl 3 fun s _ =>
    let k := s.idleSlot
    let t := { s with mario := { s.mario with active := k, trial := true, trialBoots := 0 } }.setNat kUpdateState 4
    s.updateStep who [2]
      ((t.logEvent 0x0041 (Config.eventSeverity 0x0041).toNat 4 k (s.image k 8 4) (s.image k 6 2)).beginRestart 1))

/-- UPDATE_COMMIT (Table 16.12): the counter rises to the running image's SVN. -/
def execUpdateCommit (who : Requester) (s : State) : Host.Outcome State Fault Refusal :=
  .next (s.slotWrite who .updateCtrl kUpdateCtrl 4 fun s _ =>
    let floor := max (s.nat kRollbackFloor) (s.nat kMfwSvn)
    let t := ({ s with mario := { s.mario with trial := false } }.setNat kRollbackFloor floor).closeUpdate
    s.updateStep who [4]
      (t.logEvent 0x0042 (Config.eventSeverity 0x0042).toNat 4 (s.nat kMfwSlot) (s.nat kMfwVersion) floor))

/-- UPDATE_CANCEL (Table 16.12). -/
def execUpdateCancel (who : Requester) (s : State) : Host.Outcome State Fault Refusal :=
  .next (s.slotWrite who .updateCtrl kUpdateCtrl 5 fun s _ => s.updateStep who [1, 2, 3] s.closeUpdate)

/-- UPDATE_REVERTED (Table 16.12): UPDATE_TRIAL_S has elapsed in TRIAL. -/
def execUpdateReverted (s : State) : Host.Outcome State Fault Refusal :=
  if s.nat kUpdateState = 4 ∧ s.mario.trial = true ∧ s.mario.inputOn = true ∧ s.mario.restarting = false
  then .next (s.revert.beginRestart 2) else .next s

/-- UPDATE_SESSION_TIMEOUT (Table 16.12): 60 s without an update write. -/
def execUpdateSessionTimeout (s : State) : Host.Outcome State Fault Refusal :=
  if s.nat kUpdateState = 1 ∨ s.nat kUpdateState = 2 ∨ s.nat kUpdateState = 3 then .next s.closeUpdate else .next s

end Sys2Proof.Machine
end

