-- ==== Sys2Proof/Machine/Module.lean ====
section
/-!
DEFINITION. Machine/Module.lean: STOP_N and the protection of the Strings line (R811 to R822).
-/
namespace Sys2Proof.Machine

/-! ### STOP_N -/

/-- Sets a bit of STOP_EVENTS, and sends the device vector when it changes from 0 to 1 (R824). -/
def State.stopEvent (s : State) (b : Nat) : State :=
  if s.bit kStopEvents b then s else (s.setBit kStopEvents b).msix 0 1

/-- The RUNNING partitions. -/
def State.runningParts (s : State) : List Nat := (countFrom 0 64).filter fun p => s.partState p == 1 && s.partRun p == 1

/-- STOPPED is entered (R813, R814): HALT reaches every RUNNING partition, and the event is logged. -/
def State.enterStopped (s : State) (chatter : Bool) : State :=
  let l := s.runningParts
  let s := (l.foldl (fun s p => s.haltPart p 1) s).setNat kStopState 1
  ((s.bump kStopCount).stopEvent 0).logEvent 0x1A01 1 5 (b2n chatter) l.length 0

/-- The filtered level becomes asserted; before READY, and without the die, it is only kept (R811, Table 20.7). -/
def State.stopLow (s : State) (chatter : Bool) : State :=
  if s.stop.asserted then s
  else
    let s := { s with stop := { s.stop with asserted := true } }
    if s.ready then s.enterStopped chatter else s

/-- The filtered level becomes deasserted (R811, Table 20.7). -/
def State.stopHigh (s : State) : State :=
  if s.stop.asserted = false then s
  else
    let s := { s with stop := { s.stop with asserted := false } }
    if s.ready = true ∧ s.nat kStopState = 1 then (s.setNat kStopState 2).stopEvent 1 else s

/-- STOP_STATE at READY by the filtered level (Table 20.7). DEDUCED (log 91). -/
def State.stopAtReady (s : State) : State := if s.stop.asserted then s.enterStopped s.stop.chatter else s.setNat kStopState 0

/-- STOP_ASSERTED (R811, R814): STOP_N has been low for 200 µs. -/
def execStopAsserted (s : State) : Host.Outcome State Fault Refusal := .next (s.stopLow false)

/-- STOP_CHATTER (R812): the 21st transition within 10 ms. -/
def execStopChatter (s : State) : Host.Outcome State Fault Refusal :=
  if s.stop.chatter then .next s
  else
    let s := { s with stop := { s.stop with chatter := true } }
    .next ((if s.dieUp then s.stopEvent 2 else s).stopLow true)

/-- CHATTER_END (R812): `level` says whether STOP_N has then been high for 200 µs or more. DEDUCED (log 91). -/
def execChatterEnd (level : Bool) (s : State) : Host.Outcome State Fault Refusal :=
  if s.stop.chatter then
    let s := { s with stop := { s.stop with chatter := false } }
    .next (if level then s.stopHigh else s)
  else .next s

/-- STOP_RELEASED (R811, R812): STOP_N has been high for 200 µs, and does not chatter. -/
def execStopReleased (s : State) : Host.Outcome State Fault Refusal :=
  if s.stop.chatter then .next s else .next s.stopHigh

/-- The effect of a STOP_REARM write (R816). -/
def writeStopRearm (who : Requester) (v : Word) (s : State) (_ : EntLoc) : Except Reason State :=
  if v = 0 then .ok s
  else if s.nat kStopState ≠ 2 then .error .state
  else .ok (((s.setNat kStopState 0).stopEvent 3).logEvent 0x1A02 0 5 (Config.requesterArg (areaOf who)) 0 0)

/-- STOP_REARM (R816). -/
def execStopRearm (who : Requester) (v : Word) (s : State) : Host.Outcome State Fault Refusal :=
  .next (s.slotWrite who .stopRearm kStopRearm v (writeStopRearm who v))

/-! ### The Strings line -/

/-- STRINGS_LINE moves; a move out of OK sets STRINGS_FAULT and is logged (R822). DEDUCED (log 85). -/
def State.setLine (s : State) (v : Nat) : State :=
  let old := s.nat kStringsLine
  let s := s.setNat kStringsLine v
  if old = 0 ∧ v ≠ 0 then (s.alert 5).logEvent 0x0052 2 3 v 0 0 else s

/-- Whether the Marionette watches its line: it has input power and does not restart. -/
def State.watchesLine (s : State) : Bool := s.mario.inputOn && !s.mario.restarting

/-- STRINGS_LINE_SHORT (R820, R821): a pin leaves its range for 1 ms and the transceiver disconnects; `busOff` says that the
error counters reach bus-off. -/
def execStringsLineShort (busOff : Bool) (s : State) : Host.Outcome State Fault Refusal :=
  if s.watchesLine then
    let s := { s with mario := { s.mario with connected := false } }.setLine 2
    .next (if busOff then s.busError.busOff else s)
  else .next { s with mario := { s.mario with connected := false } }

/-- STRINGS_LINE_OPEN (R822): ACK_ERRORS has risen on 16 consecutive frames. -/
def execStringsLineOpen (s : State) : Host.Outcome State Fault Refusal :=
  if s.watchesLine = true ∧ s.nat kStringsLine = 0 then .next ((s.bump kAckErrors 16).setLine 1) else .next s

/-- DOMINANT_TIMEOUT (R821): a transmitter held dominant for 1 ms is released; `busOff` says that the error counters reach
bus-off. -/
def execDominantTimeout (busOff : Bool) (s : State) : Host.Outcome State Fault Refusal :=
  if s.watchesLine then .next (if busOff then s.busError.busOff else s.busError) else .next s

/-- STRINGS_RECONNECT (R820): both pins have stayed inside the range for 10 ms. -/
def execStringsReconnect (s : State) : Host.Outcome State Fault Refusal :=
  if s.mario.connected then .next s
  else
    let s := { s with mario := { s.mario with connected := true } }
    .next (if s.nat kStringsLine = 2 then s.setLine 0 else s)

end Sys2Proof.Machine
end

