-- ==== Sys2Proof/Machine/Package.lean ====
section
/-!
DEFINITION. Machine/Package.lean: the checks of a compute firmware package (Tables 17.4 to 17.6).
-/
namespace Sys2Proof.Machine

/-- A little-endian field of a package. -/
def pkgNat (rd : Nat → Nat → List Byte) (off n : Nat) : Nat := leNat (rd off n)

/-- Section i of a package: TYPE, its reserved bytes, OFFSET, LENGTH and CRC (Table 17.5). -/
def pkgSection (rd : Nat → Nat → List Byte) (i : Nat) : Nat × Nat × Nat × Nat × Nat :=
  (pkgNat rd (64 + 16 * i) 1, pkgNat rd (65 + 16 * i) 3, pkgNat rd (68 + 16 * i) 4, pkgNat rd (72 + 16 * i) 4,
   pkgNat rd (76 + 16 * i) 4)

/-- Whether a section alone is well formed: its TYPE and reserved bytes, its place, and its CRC. -/
def pkgSectionOk (rd : Nat → Nat → List Byte) (total i : Nat) : Bool :=
  let (ty, res, off, len, crc) := pkgSection rd i
  decide (1 ≤ ty) && decide (ty ≤ 5) && res == 0 && decide (512 ≤ off) && off % 256 == 0 && decide (1 ≤ len) &&
  decide (off + len ≤ total) && crc32c (rd off len) == crc

/-- Whether two sections share no byte. -/
def pkgApart (a b : Nat × Nat × Nat × Nat × Nat) : Bool :=
  decide (a.2.2.1 + a.2.2.2.1 ≤ b.2.2.1) || decide (b.2.2.1 + b.2.2.2.1 ≤ a.2.2.1)

/-- Whether the sections of a package pass check 7 of Table 17.6. DEDUCED (log 82). -/
def pkgSectionsOk (rd : Nat → Nat → List Byte) (total : Nat) : Bool :=
  let n := pkgNat rd 17 1
  let l := (countFrom 0 n).map fun i => pkgSection rd i
  decide (1 ≤ n) && decide (n ≤ 16) && (countFrom 0 n).all (fun i => pkgSectionOk rd total i) &&
  (l.zipIdx.all fun (a, i) => (l.drop (i + 1)).all fun b => pkgApart a b) &&
  [1, 2, 4, 5].all fun t => (l.filter fun a => a.1 == t).length == 1

/-- The reserved bytes of a package's header: bytes 18 to 63, 320 to 415 and the section entries beyond SECTIONS. -/
def pkgReserved (rd : Nat → Nat → List Byte) : Bool :=
  pkgNat rd 18 46 == 0 && pkgNat rd 320 96 == 0 &&
  (let n := min (pkgNat rd 17 1) 16; pkgNat rd (64 + 16 * n) (16 * (16 - n)) == 0)

/-- The checks of Table 17.6 in order: the reason code of the first failure, or 0.  `landed` says which 256-byte chunks have
landed, and `sigOk` whether the signature of R682 verifies. DESIGN CHOICE (log 41). -/
def pkgCheck (rd : Nat → Nat → List Byte) (landed : Nat → Bool) (stepping floor : Nat) (sigOk : Bool) : Nat :=
  let total := pkgNat rd 12 4
  if pkgNat rd 0 4 ≠ 0x53505A46 ∨ pkgNat rd 4 2 ≠ 1 ∨ pkgReserved rd = false then 1
  else if total % 256 ≠ 0 ∨ total < 1024 ∨ 25165824 < total then 2
  else if pkgNat rd 16 1 ≠ stepping then 3
  else if (countFrom 0 (total / 256)).all landed = false then 4
  else if sigOk = false then 5
  else if pkgNat rd 6 2 < floor then 6
  else if pkgSectionsOk rd total = false then 7
  else 0

/-- VERSION of a package. -/
def pkgVersion (rd : Nat → Nat → List Byte) : Nat := pkgNat rd 8 4

/-- SVN of a package. -/
def pkgSvn (rd : Nat → Nat → List Byte) : Nat := pkgNat rd 6 2

end Sys2Proof.Machine
end

