-- ==== Sys2Proof/Machine/Persist.lean ====
section
/-!
DEFINITION. Machine/Persist.lean: the persistent set (R627 to R631).
-/
namespace Sys2Proof.Machine

/-- Whether a slot belongs to the persistent set (Table 15.5). -/
def persistSlot (k : Nat) : Bool :=
  let idx := k / 256
  let sub := k % 256
  (idx == 0x2000 && (inRange 0x11 0x13 sub || sub == 0x17 || sub == 0x18 || sub == 0x25 || inRange 0x30 0x34 sub)) ||
  (decide (0x5000 ≤ idx) && decide (idx < 0x5400) && idx % 0x40 == 0 && (sub == 6 || sub == 8 || sub == 0x17 || sub == 0x18)) ||
  (decide (0x5400 ≤ idx) && decide (idx < 0x5500) && idx % 0x40 == 0 && inRange 2 8 sub) ||
  (idx == 0x6600 && inRange 1 2 sub)

/-- One sample of the set, taken at one instant (R627). -/
def State.sampleSet (s : State) : PersistCopy :=
  { regs := Tbl.drop (fun k => !persistSlot k) s.regs, octs := Tbl.drop (fun i => !persistSlot (i / 512)) s.octs }

/-- The effect of SAVE (R627, R631). -/
def persistSave (s : State) (_ : EntLoc) : Except Reason State :=
  if s.nat kPersistState = 1 then .error .busy
  else .ok ({ s with saving := some s.sampleSet }.setNat kPersistState 1)

/-- The effect of ERASE (R631). -/
def persistErase (s : State) (_ : EntLoc) : Except Reason State :=
  if s.nat kPersistState = 1 then .error .busy else .ok { s with persist := [] }

/-- PERSIST_SAVE (R627). -/
def execPersistSave (who : Requester) (s : State) : Host.Outcome State Fault Refusal :=
  .next (s.slotWrite who .persistCtrl kPersistCtrl 1 persistSave)

/-- PERSIST_ERASE (R631). -/
def execPersistErase (who : Requester) (s : State) : Host.Outcome State Fault Refusal :=
  .next (s.slotWrite who .persistCtrl kPersistCtrl 2 persistErase)

/-- PERSIST_SAVE_DONE (R630, Table 15.7): the older copy has been written, or could not be. -/
def execPersistSaveDone (ok : Bool) (s : State) : Host.Outcome State Fault Refusal :=
  match s.saving with
  | none => .next s
  | some c =>
    let s := { s with saving := none }
    if ok then .next (({ s with persist := (c :: s.persist).take 2 }.setNat kPersistState 0).bump kPersistSaves)
    else .next (s.setNat kPersistState 2)

/-- Whether a saved value would be accepted as a write, the position entries of the plane by the saved PLANE_DIM (R629).
DEDUCED (log 97). -/
def PersistCopy.accepts (c : PersistCopy) (k v : Nat) : Bool :=
  let dim := (Tbl.get (regDefault kPlaneDim) c.regs kPlaneDim).toNat
  let nx := bitsOf dim 3 0
  let ny := bitsOf dim 7 4
  match findEntry (k / 256) (k % 256) with
  | none => false
  | some l =>
    typeOk l.row.ty v && entLegal l.row.ent v &&
    (match l.row.ent with
     | .planeX => decide (v < nx)
     | .planeY => decide (v < ny)
     | _ => true)

/-- One saved value is applied in place of the default, or counted as rejected (R628). DEDUCED (log 50). -/
def State.applySaved (c : PersistCopy) (s : State) (x : Nat × Word) : State :=
  if c.accepts x.1 x.2.toNat then s.setReg x.1 x.2 else s.bump kPersistRejects 1 16

/-- The newer saved copy is applied in ascending order in place of the defaults (R628 to R630). -/
def State.applySet (s : State) : State :=
  match s.persist with
  | [] => s
  | c :: _ =>
    let s := c.regs.foldl (State.applySaved c) s
    c.octs.foldl (fun (s : State) x => { s with octs := Tbl.set (octDefault x.1) s.octs x.1 x.2 }) s

end Sys2Proof.Machine
end

