-- ==== Sys2Proof/Machine/Boot.lean ====
section
/-!
DEFINITION. Machine/Boot.lean: the boot states, the staging area, proxy download, and READY (chapter 17).
-/
namespace Sys2Proof.Machine

/-- BOOT_STATE (Table 17.1). -/
def State.bootState (s : State) : Nat := s.nat kBootState

/-! ### The staging area (R685 to R690) -/

/-- Bytes of the staging area: the Frond Stores of fronds 0 to 7. -/
def stagingBytes : Nat := 0x2000000

/-- The staging area is empty and unbound. -/
def State.emptyStage (s : State) : State :=
  ({ s.fsZero 0 0 stagingBytes with boot := { s.boot with staged := [] } }.setNat kStageSource 0xFE).setNat
    kStageBytes 0

/-- Whether a 256-byte chunk has landed whole. DEDUCED (log 88). -/
def State.chunkLanded (s : State) (k : Nat) : Bool := Tbl.get 0 s.boot.staged k == 2 ^ 256 - 1

/-- Marks the bytes of one chunk that have landed. -/
def landedMask (off n : Nat) : Nat := (2 ^ n - 1) * 2 ^ (off % 256)

/-- Bytes land in the staging area. DEDUCED (log 88). -/
def State.stageLand (s : State) (off : Nat) (l : List Byte) : State :=
  let staged := (cutRows 256 (l.length + 1) off l).foldl
    (fun (t : Tbl Nat) x => Tbl.set 0 t (x.1 / 256) (Tbl.get 0 t (x.1 / 256) ||| landedMask x.1 x.2.length)) s.boot.staged
  let s := { s.fsPut (off / 2 ^ 22) (off % 2 ^ 22) l with boot := { s.boot with staged := staged } }
  s.setNat kStageBytes (256 * (staged.filter fun x => x.2 == 2 ^ 256 - 1).length)

/-- Reads the staging area. -/
def State.stageRead (s : State) (off n : Nat) : List Byte := getBytes s.fs off n

/-- Whether the staging area is open to BAR4: from BOOT_WAIT entry until READY (R685). -/
def State.stageOpen (s : State) : Bool := s.dieUp && inRange 1 6 s.bootState

/-- A BAR4 write of the physical function before READY (R685, R687). -/
def State.stageWrite (s : State) (off : Nat) (l : List Byte) : State :=
  let l := l.take (stagingBytes - off)
  if s.stageOpen = false ∨ l = [] then s
  else if s.nat kStageSource < 16 then s.bump kStageDiscards
  else (s.setNat kStageSource 0xFF).stageLand off l

/-- STAGING_WRITE (R685, R687): VFs have no access to the staging area. -/
def execStagingWrite (fn off : Nat) (bytes : List Byte) (s : State) : Host.Outcome State Fault Refusal :=
  if fn = 0 ∧ s.linkDown = false then .next (s.stageWrite off bytes) else .next s

/-- The effect of FW_CTRL VERIFY (R686). DESIGN CHOICE (log 41). -/
def fwVerify (s : State) (_ : EntLoc) : Except Reason State :=
  orRefuse (s.bootState == 1 && s.nat kStageSource == 0xFF) .state (s.setNat kBootState 2)

/-- FW_VERIFY (R686). -/
def execFwVerify (who : Requester) (s : State) : Host.Outcome State Fault Refusal :=
  .next (s.slotWrite who .fwCtrl kFwCtrl 1 fwVerify)

/-- The effect of FW_CTRL CLEAR (R686). -/
def fwClear (s : State) (_ : EntLoc) : Except Reason State := orRefuse (s.bootState == 1) .state s.emptyStage

/-- FW_CLEAR (R686). -/
def execFwClear (who : Requester) (s : State) : Host.Outcome State Fault Refusal :=
  .next (s.slotWrite who .fwCtrl kFwCtrl 2 fwClear)

/-- Whether every chunk below TOTAL_LEN has landed; TOTAL_LEN comes with chunk 0 (R689). -/
def State.packageWhole (s : State) : Bool :=
  s.chunkLanded 0 && (countFrom 0 ((pkgNat s.stageRead 12 4 + 255) / 256)).all s.chunkLanded

/-- A PROXY cell that is well formed comes in on a port in BOOTLINK (R687, R689): in BOOT_WAIT it lands if the area is
unbound or bound to its port, and a cell of another source is discarded. DEDUCED (log 89). -/
def State.proxyIn (s : State) (port off : Nat) (l : List Byte) : State :=
  let src := s.nat kStageSource
  if src ≠ 0xFE ∧ src ≠ port then s.bump kStageDiscards
  else if s.bootState ≠ 1 then s
  else
    let s := (s.setNat kStageSource port).stageLand (256 * off) l
    if s.packageWhole then s.setNat kBootState 2 else s

/-- PROXY_CELL_RECEIVED (R401, R688, R689): the cell's 272 bytes as they came in on a port in BOOTLINK. -/
def execProxyCellReceived (port : Nat) (bytes : List Byte) (s : State) : Host.Outcome State Fault Refusal :=
  if s.dieUp = false ∨ 16 ≤ port ∨ s.nat (kPortState port) ≠ 5 then .next s
  else if cellOk bytes = false then .next (s.bump (kCellErrors port))
  else
    let off := byteField bytes 10 4
    if byteField bytes 0 1 % 16 = 6 ∧ byteField bytes 9 1 = 255 ∧ 256 * off < stagingBytes
    then .next ((s.wrapAdd (kCellsRx port)).proxyIn port off (bytes.drop 16)) else .next s

/-- PROXY_BIND_TIMEOUT (R690): no accepted PROXY cell for 50 ms. -/
def execProxyBindTimeout (s : State) : Host.Outcome State Fault Refusal :=
  if s.bootState = 1 ∧ s.nat kStageSource < 16 then .next s.emptyStage else .next s

/-! ### Boot states -/

/-- BOOT_WAIT_ENTERED (R674, R707): the boot ROM has brought up PCIe. -/
def execBootWaitEntered (s : State) : Host.Outcome State Fault Refusal :=
  if s.dieUp = true ∧ s.bootState = 0 then
    .next ((s.setNat kBootState 1).emptyStage.dieEvent 0x1701 (s.nat kBootCause) 0 0)
  else .next s

/-- VERIFY_DONE (R683): the checks of Table 17.6 end; `sigOk` says whether the signature of R682 verifies. -/
def execVerifyDone (sigOk : Bool) (s : State) : Host.Outcome State Fault Refusal :=
  if s.bootState ≠ 2 then .next s
  else
    let r := pkgCheck s.stageRead s.chunkLanded (s.nat kStepping) (s.nat kFwSvnFloor) sigOk
    if r = 0 then
      .next ({ s with boot := { s.boot with forwarding := true } }.setNat kBootState 3)
    else
      let v := pkgVersion s.stageRead
      let n := pkgSvn s.stageRead
      .next ((((s.setNat kBootReason r).setNat kBootState 1).emptyStage).dieEvent 0x1702 r v n)

/-- BOOT_FAIL is entered (R699): the event is logged, and the PF signals an Uncorrectable Internal Error (Table 19.5). -/
def State.bootFail (s : State) (reason : Nat) : State :=
  let s := { s with boot := { s.boot with forwarding := false } }
  (((s.setNat kBootReason reason).setNat kBootState 8).dieEvent 0x1704 reason 0 0).emit (.aer 0 2)

/-- FW_START_DONE (R671, R699): the firmware runs, or its self-test failed. DEDUCED (log 88). -/
def execFwStartDone (ok : Bool) (s : State) : Host.Outcome State Fault Refusal :=
  if s.bootState ≠ 3 then .next s
  else if ok then
    .next (((s.setNat kFwVersion (pkgVersion s.stageRead)).setNat kFwSvn (pkgSvn s.stageRead)).setNat kBootState 4)
  else .next (s.bootFail 9)

/-- HBM_TRAIN_DONE (R628, R671, R680, R699): the saved set is applied at the entry to LINK_TRAIN. -/
def execHbmTrainDone (ok : Bool) (s : State) : Host.Outcome State Fault Refusal :=
  if s.bootState ≠ 4 then .next s
  else if ok then .next ((s.setNat kBootState 5).applySet) else .next (s.bootFail 8)

/-- LINK_TRAIN_DONE (R694). -/
def execLinkTrainDone (s : State) : Host.Outcome State Fault Refusal :=
  if s.bootState = 5 then .next (s.setNat kBootState 6) else .next s

/-! ### READY (R697, R698) -/

/-- The core map at first READY: slot s of frond f is core 9f + s (R22, R113). -/
def firstMap : List (Nat × Option Nat) := (countFrom 0 128).map fun i => (i, some (9 * (i / 8) + i % 8))

/-- The core map in force: the recorded substitutions, or the first (R698, R713). -/
def State.bootMap (s : State) : List (Nat × Option Nat) := s.boot.savedMap.getD firstMap

/-- CORE_STATE and FENCE_CAUSE of every core, and the counts that follow from them. -/
def State.bootCores (s : State) : State :=
  let used := s.bootMap.filterMap fun (x : Nat × Option Nat) => x.2
  let fenced := fun (c : Nat) => s.boot.fencedCores.find? fun x => x.1 == c
  let spare := fun (c : Nat) => !used.contains c && (fenced c).isNone
  let s := { s with coreMap := s.bootMap }
  let s := (countFrom 0 144).foldl (fun (s : State) c =>
    match fenced c with
    | some (_, cause) => (s.setNat (kCoreState c) 2).setNat (kFenceCause c) cause
    | none => if used.contains c then s.setNat (kCoreState c) 1 else s) s
  let s := (countFrom 0 16).foldl (fun (s : State) f =>
    s.setNat (kSparesLeft f) ((countFrom (9 * f) 9).filter spare).length) s
  (s.setNat kCoresActive used.length).setNat kSpareCores ((countFrom 0 144).filter spare).length

/-- Retired granules, and the CMUs that have failed, stay so (R698, R730, R739). -/
def State.bootRetired (s : State) : State :=
  let s := s.boot.retired.foldl (fun (s : State) g =>
    if s.granuleOwner g < 64 then
      s.setOct kRetirePending (g / 8) (BitVec.ofNat 8 (s.oct kRetirePending (g / 8) ||| 2 ^ (g % 8)))
    else (s.setOct kGranuleOwner g 0xFD).setNat kHbmGranulesUsable (s.nat kHbmGranulesUsable - 1)) s
  s.boot.cmuFailed.foldl (fun (s : State) f => s.setNat (kCmuState f) 1) s

/-- The stores are zeroed, and the staging area with them (R697). -/
def State.bootStores (s : State) : State :=
  ({ s with ls := [], fs := [], acc := [], asTags := [], asSat := [], flips := [], boot := { s.boot with staged := [], forwarding := false } }.setNat
    kStageSource 0xFE).setNat kStageBytes 0

/-- Every port in BOOTLINK enters TRAINING (R695, Table 10.7). DEDUCED (log 88). -/
def State.bootPorts (s : State) : State :=
  (countFrom 0 16).foldl (fun (s : State) n => if s.nat (kPortState n) = 5 then s.portTrain n else s) s

/-- READY (R484, R696 to R698, R707): TIME_LOCK has ended, `bootMs` after the interval of R673 began.  Partition 0 is ACTIVE
from here on with no CREATE (R484), and its layers start as those of a partition created now (R228). DEDUCED (log 88). -/
def execReady (bootMs : Nat) (s : State) : Host.Outcome State Fault Refusal :=
  if s.bootState ≠ 6 then .next s
  else
    let s := ((s.setNat kBootState 7).setNat kBootTimeMs (bootMs % 2 ^ 32)).bootStores.bootCores.bootRetired.bootPorts.layersDefault 0
    let s := { s with rkey := BitVec.setWidth 64 (Config.ackRkey s.free) }.takeFree.stopAtReady
    .next (s.dieEvent 0x1703 (s.nat kTimingState) (s.nat kFwVersion) (s.nat kBootTimeMs))

/-! ### Sending packages (R688, R691, R692) -/

/-- One pass of a package on a port: its chunks in ascending order, as PROXY cells (R688). DEDUCED (log 89). -/
def State.proxyPass (s : State) (n total : Nat) (rd : Nat → Nat → List Byte) : State :=
  let k := (total + 255) / 256
  (countFrom 0 k).foldl (fun (s : State) i =>
    (s.emit (.cell n (formCell 6 0 0 (s.frameNo % 65536) 0 255 i (i + 1 == k) (rd (256 * i) 256)))).wrapAdd (kCellsTx n)) s

/-- PROXY_FORWARD (R691): one pass on every port in BOOTLINK whose neighbour is not READY and that has had fewer than
PROXY_PASSES. -/
def execProxyForward (s : State) : Host.Outcome State Fault Refusal :=
  if s.boot.forwarding = true ∧ s.nat kProxyMode = 1 ∧ inRange 3 6 s.bootState = true then
    .next ((countFrom 0 16).foldl (fun (s : State) n =>
      let p := s.port n
      if s.nat (kPortState n) = 5 ∧ p.peerReady = false ∧ p.passes < s.nat kProxyPasses
      then (s.setPort n { p with passes := p.passes + 1 }).proxyPass n (pkgNat s.stageRead 12 4) s.stageRead else s) s)
  else .next s

/-- Reads the package to be sent from partition 0's address space; unmapped lines read as zeros. DEDUCED (log 89). -/
def State.proxyRead (s : State) (off n : Nat) : List Byte :=
  (s.vaRead 0 (s.nat kProxySrc + off) n).getD (List.replicate n 0)

/-- The effect of a PROXY_SEND write (R692): the passes go out on each named port whose link is in BOOTLINK: its own state, or
a neighbour that is not READY while it trains. DEDUCED (log 89). -/
def writeProxySend (v : Word) (s : State) (_ : EntLoc) : Except Reason State :=
  if s.boot.proxySending then .error .state
  else
    let s := { s with boot := { s.boot with proxySending := true } }
    let total := min (pkgNat s.proxyRead 12 4) 25165824
    .ok ((countFrom 0 16).foldl (fun (s : State) n =>
      let st := s.nat (kPortState n)
      if bitOf v.toNat n && (st == 5 || (st == 1 && !(s.port n).peerReady))
      then (countFrom 0 (s.nat kProxyPasses)).foldl (fun (s : State) _ => s.proxyPass n total s.proxyRead) s else s) s)

/-- PROXY_SEND (R692). -/
def execProxySend (who : Requester) (v : Word) (s : State) : Host.Outcome State Fault Refusal :=
  .next (s.slotWrite who .proxySend kProxySend v (writeProxySend v))

/-- PROXY_SEND_DONE (R692): the passes have gone out. -/
def execProxySendDone (s : State) : Host.Outcome State Fault Refusal :=
  .next { s with boot := { s.boot with proxySending := false } }

/-- The effect of a FW_FLOOR_RAISE write (R684). -/
def writeFloorRaise (v : Word) (s : State) (_ : EntLoc) : Except Reason State :=
  orRefuse (decide (s.nat kFwSvnFloor < v.toNat) && decide (v.toNat ≤ s.nat kFwSvn)) .range (s.setReg kFwSvnFloor v)

/-- FW_FLOOR_RAISE (R684). -/
def execFwFloorRaise (who : Requester) (v : Word) (s : State) : Host.Outcome State Fault Refusal :=
  .next (s.slotWrite who .fwFloorRaise kFwFloorRaise v (writeFloorRaise v))

end Sys2Proof.Machine
end

