-- ==== Sys2Proof/Machine/SporCmds.lean ====
section
/-!
DEFINITION. Machine/SporCmds.lean: the commands of Sporangium that act on streams, windows, regions and cuts, and the CUT,
REPLAY and RESTORE descriptors.
-/
namespace Sys2Proof.Machine

/-- A descriptor that ends in its commit frame on no core (R349, R545). -/
def State.endAtCommit (s : State) (id status : Nat) : State :=
  s.modDesc id fun d =>
    if d.ended then d else { d with ended := true, status := status, endFrame := d.commitFrame, cycles := 0 }

/-! ### Streams -/

/-- STREAM_UP (R347). -/
def execStreamUp (who : Requester) (st : Nat) (s : State) : Host.Outcome State Fault Refusal :=
  .next (s.slotWrite who .streamCtrl (kStreamCtrl st) 1 fun s _ => .ok (s.streamGoUp st))

/-- STREAM_DOWN (R363). -/
def execStreamDown (who : Requester) (st : Nat) (s : State) : Host.Outcome State Fault Refusal :=
  .next (s.slotWrite who .streamCtrl (kStreamCtrl st) 0 fun s _ => .ok (s.streamGoDown st))

/-- RECORD_SEND (R356, R386): the stream whose turn it is sends its next record; `ecc` says that a drain read met an
uncorrectable error. DEDUCED (log 72). -/
def execRecordSend (st : Nat) (ecc : Bool) (s : State) : Host.Outcome State Fault Refusal := .next (s.serveNext st ecc)

/-- ACK_RECEIVED (R358). DEDUCED (log 71). -/
def execAckReceived (st : Nat) (ack : List Byte) (s : State) : Host.Outcome State Fault Refusal :=
  .next (s.applyAck st ack)

/-- RETRANSMIT (R361, R362): the timer runs only while the stream's transport can send. -/
def execRetransmit (st : Nat) (s : State) : Host.Outcome State Fault Refusal :=
  if s.transportOk st then .next (s.retransmit st) else .next s

/-- STREAM_ACK_WRITE (R358, Table 9.1): an acknowledgement of a HOST stream. DEDUCED (log 71). -/
def execStreamAckWrite (who : Requester) (st : Nat) (bytes : List Byte) (s : State) :
    Host.Outcome State Fault Refusal :=
  .next (s.dictLong who (kStreamAck st / 256) (kStreamAck st % 256) bytes fun s _ =>
    .ok (if s.nat (kTransport st) = 2 then s.applyAck st bytes else s))

/-! ### Receive windows -/

/-- WIN_OPEN (R387): a CLOSED window opens, bound to no sender. -/
def execWinOpen (who : Requester) (win : Nat) (s : State) : Host.Outcome State Fault Refusal :=
  .next (s.slotWrite who .winState (kWinState win) 1 fun s _ =>
    .ok (if s.nat (kWinState win) = 0 then (s.setNat (kWinState win) 1).setWin win {} else s))

/-- WIN_CLOSE (R392). -/
def execWinClose (who : Requester) (win : Nat) (s : State) : Host.Outcome State Fault Refusal :=
  .next (s.slotWrite who .winState (kWinState win) 0 fun s _ => .ok (s.closeWin win))

/-- WIN_CONSUMED_WRITE (R388). -/
def execWinConsumedWrite (who : Requester) (win : Nat) (v : Word) (s : State) : Host.Outcome State Fault Refusal :=
  .next (s.slotWrite who .winConsumed (kWinConsumed win) v fun s _ => .ok (s.setReg (kWinConsumed win) v))

/-- RESTORE_TIMEOUT (R392). -/
def execRestoreTimeout (job : Nat) (s : State) : Host.Outcome State Fault Refusal :=
  match s.job? job with
  | some j =>
    match j.kind with
    | .restore .. => if s.nat (kRestoreTimeoutMs j.tag.part) = 0 then .next s else .next (s.endJob j 1 8)
    | _ => .next s
  | none => .next s

/-! ### Regions and cuts -/

/-- Whether no two regions of a partition overlap (R372). -/
def State.regionsApart (s : State) (p : Nat) : Bool :=
  (countFrom 0 16).all fun i => (countFrom 0 16).all fun j =>
    let (b, n) := s.region p i
    let (c, m) := s.region p j
    decide (j ≤ i) || n == 0 || m == 0 || decide (b + n * 65536 ≤ c) || decide (c + m * 65536 ≤ b)

/-- The effect of a REGION_BASE or REGION_SPAN write (R372, R373, R395): `i` is the region. -/
def writeRegion (p k i : Nat) (v : Word) (s : State) (_ : EntLoc) : Except Reason State :=
  let t := s.setReg k v
  if s.nat (kCutState p) ≠ 0 ∨ t.regionsApart p = false then .error .state
  else if t.region p i = s.region p i then .ok t
  else .ok { t with clean := Tbl.drop (fun x => x / 2 ^ 32 == p * 16 + i) t.clean }

/-- REGION_WRITE (R372): `sub` is the subindex of Table 9.12, 0x01 to 0x10 for REGION_BASE and 0x11 to 0x20 for
REGION_SPAN. -/
def execRegionWrite (who : Requester) (part sub : Nat) (v : Word) (s : State) : Host.Outcome State Fault Refusal :=
  let k := kRegionBase part 0 - 1 + sub
  .next (s.slotWrite who (if sub ≤ 0x10 then .regionBase else .regionSpan) k v
    (writeRegion part k ((sub - 1) % 16) v))

/-- CUT_FREEZE (R375): the boundary at or after CUT_FRAME has passed, and no HBM write that a descriptor of the partition
issued before it is still on its way. -/
def execCutFreeze (part : Nat) (s : State) : Host.Outcome State Fault Refusal :=
  let late := s.posted.any fun w => w.part == part && decide (w.frame < s.frameNo) &&
    (match w.place with | .hbm .. => true | .store .. => false)
  if s.nat (kCutState part) = 1 ∧ (s.cut part).cutFrame ≤ s.frameNo ∧ late = false
  then .next ((s.freezeCut part).cutProgress part) else .next s

/-! ### CUT, REPLAY and RESTORE (R349) -/

/-- CUT (R374). -/
def execCut (id : Nat) (s : State) : Host.Outcome State Fault Refusal :=
  .next (s.runOff id [0x40] fun s d =>
    match s.cutCheck d with
    | some st => s.endAtCommit id st
    | none => (s.acceptCut d).endAtCommit id stOk)

/-- A new job at the end of the job list. -/
def State.addJob (s : State) (kind : JobKind) (tag : JobTag) (stream left : Nat) : State :=
  { s with jobs := s.jobs ++ [⟨s.nextId, kind, tag, stream, left, 0, 0⟩], nextId := s.nextId + 1 }

/-- REPLAY (R394). -/
def execReplay (id : Nat) (s : State) : Host.Outcome State Fault Refusal :=
  .next (s.runOff id [0x41] fun s d =>
    match s.replayCheck d with
    | some st => s.endAtCommit id st
    | none =>
      let addrs := (countFrom 0 (d.at 24 4)).map fun i =>
        match s.vaRead d.part (d.at 16 8 + 8 * i) 8 with | some b => leNat b | none => 2 ^ 64
      (s.addJob (.replay addrs) (jobTag d 30) (d.at 28 1) addrs.length).endAtCommit id stOk)

/-- The size in bytes of the restore table of a set of regions (R389). -/
def State.restoreTableBytes (s : State) (p mask : Nat) : Nat :=
  4 * (countFrom 0 16).foldl (fun n i => if bitOf mask i then n + (s.region p i).2 else n) 0

/-- RESTORE (R389); one that names no window has every window done (R391). -/
def execRestore (id : Nat) (s : State) : Host.Outcome State Fault Refusal :=
  .next (s.runOff id [0x42] fun s d =>
    match s.restoreCheck d with
    | some st => s.endAtCommit id st
    | none =>
      let p := d.part
      let mask := d.at 20 2
      let table := d.at 32 8
      let s := (s.vaWrite p table (List.replicate (s.restoreTableBytes p mask) 0)).2
      let kind : JobKind := .restore (d.at 16 4) mask (d.at 22 2) (d.at 28 1) table (d.at 24 4) []
      let t := (s.addJob kind (jobTag d 30) 0 0).endAtCommit id stOk
      if d.at 24 4 = 0 then t.endRestore ⟨s.nextId, kind, jobTag d 30, 0, 0, 0, 0⟩ else t)

end Sys2Proof.Machine
end

