-- ==== Sys2Proof/Machine/Kv.lean ====
section
/-!
DEFINITION. Machine/Kv.lean: walks of page tables, appends with allocation and scale fixing, sealing, release and export of
pages, and the entries of a page pool.
-/
namespace Sys2Proof.Machine

/-! ### Recompute requests (R339, R340) -/

/-- Posts a recompute request for an entry: reason 0 TOUCH, 1 POOL; a full queue loses it. DEDUCED (log 68). -/
def State.postRequest (s : State) (p seq j table units reason : Nat) : State :=
  let prod := s.nat (kRecompProd p)
  let slots := s.nat (kRecompSlots p)
  if (prod + 2 ^ 32 - s.nat (kRecompCons p)) % 2 ^ 32 = slots then s.bump (kRecompLost p)
  else
    let e := s.tableEntry p table j
    let first := j * 16 * units
    let rec_ := leBytes 4 seq ++ leBytes 2 j ++ leBytes 1 reason ++ leBytes 1 0 ++ leBytes 4 first ++
      leBytes 4 (min (16 * units) (s.vaNatD p (table + 24) 4 - first)) ++ leBytes 4 s.frameNo ++
      leBytes 4 (entGen e) ++ leBytes 8 table
    let s := (s.vaWrite p (s.nat (kRecompBase p) + 32 * (prod % max slots 1)) rec_).2
    ((s.wrapAdd (kRecompProd p) 1 32).setEntry p table j (putBits e 3 3 1)).msix (partFn p) 0

/-! ### Walks (R318 to R322) -/

/-- What an access through a walk does: reads pages, appends one layer, or releases the sequence. -/
inductive WalkKind where
  | read
  | append (layer : Nat)
  | release
  | seek
  deriving DecidableEq, Repr

/-- What the walk of one element found: the status of its first failing check, whether an address was unmapped, the table,
the units of its pages, the pages with a frame, and the DROPPED entries that fail it. -/
structure ElemWalk where
  fail : Option Nat := none
  lost : Bool := false
  table : Nat := 0
  entries : Nat := 0
  units : Nat := 16
  pages : List (Nat × Nat) := []
  dropped : List Nat := []
  deriving DecidableEq, Repr

/-- The first failure stands. -/
def ElemWalk.failWith (w : ElemWalk) (st : Nat) : ElemWalk := if w.fail.isSome then w else { w with fail := some st }

/-- Whether a frame overlaps a block of units. -/
def KvFrame.meets (f : KvFrame) (u n : Nat) : Bool := decide (f.unit < u + n) && decide (u < f.unit + f.units)

/-- Whether a frame's header names the sequence, the entry's generation and the page size (Table 8.5), and the frame is no
other sequence's (R317, R322). -/
def State.headerOk (s : State) (p seq sizeK e : Nat) : Bool :=
  let h := s.vaNatD p (s.frameVa p (entUnit e)) 16
  h % 2 ^ 32 == seq && atOff h 4 4 == entGen e && atOff h 8 1 == (if s.kvPow2 p then sizeK else 4) &&
  !(s.frames p).any fun f => f.seq != seq && f.meets (entUnit e) (s.pageUnits p sizeK)

/-- The checks of one covered entry `j`; `top` is the token offset just past the last one covered in it (Table 8.5).  Where
software has changed the entry the outcome is free: it fails with a status of Table 8.5, or goes by what the entry reads, which
reaches no other sequence's frame (R317). DESIGN CHOICE (log 102). -/
def State.walkEntry (s : State) (p seq sizeK : Nat) (k : WalkKind) (top j : Nat) (w : ElemWalk) : ElemWalk :=
  if w.entries ≤ j then w.failWith stBoundsFault
  else match s.vaNat p (entryVa w.table j) 16 with
    | none => { w.failWith stBoundsFault with lost := w.lost || w.fail.isNone }
    | some e =>
      let st := entState e
      let own := fun (w : ElemWalk) =>
        if s.headerOk p seq sizeK e then { w with pages := w.pages ++ [(j, entUnit e)] } else w.failWith stOwnerMismatch
      let gone := fun (w : ElemWalk) => { w.failWith stPageAbsent with dropped := w.dropped ++ [j] }
      let wild := if s.tampered p w.table j e then Config.wildWalk s.free j % 4 else 0
      if wild ≠ 0 then w.failWith ([stBoundsFault, stPageAbsent, stOwnerMismatch].getD (wild - 1) stBoundsFault)
      else match k with
      | .read => if st = 4 then gone w else if hasFrame e then own w else w.failWith stBoundsFault
      | .append layer =>
        if st = 2 ∨ st = 3 ∨ st = 5 then w.failWith stBoundsFault
        else if layer = 0 then (if st = 1 then own w else w)
        else if st = 4 then gone w
        else if st ≠ 1 ∨ bitsOf e 26 16 < top then w.failWith stBoundsFault
        else own w
      | .release => if hasFrame e then own w else w
      | .seek => if st = 2 then own w else w

/-- The walk of one element's covered tokens `lo` to `hi - 1`, or of all its entries on a release (R319). -/
def State.walkElem (s : State) (p seq lo hi : Nat) (k : WalkKind) : ElemWalk :=
  let bad : ElemWalk := { fail := some stBoundsFault }
  if seq = 0 then bad
  else match s.vaNat p (s.nat (kSeqDirBase p) + 8 * (seq % max (s.nat (kSeqDirSlots p)) 1)) 8 with
    | none => { bad with lost := true }
    | some slot =>
      let table := slot % 2 ^ 48
      if table = 0 then bad
      else match s.vaNat p table 64 with
        | none => { bad with lost := true }
        | some h =>
          let n := atOff h 4 2
          let sizeK := atOff h 6 1
          if h % 2 ^ 32 ≠ seq ∨ n = 0 ∨ 1024 < n ∨ (s.kvPow2 p = true ∧ 6 < sizeK) then bad
          else
            let units := s.pageUnits p sizeK
            let t := 16 * units
            let w : ElemWalk := { table := table, entries := n, units := units }
            let (first, count) := match k with
              | .release => (0, n)
              | .seek => (lo, hi - lo)
              | _ => (lo / t, if lo < hi then (hi - 1) / t + 1 - lo / t else 0)
            (countFrom first count).foldl (fun w j => s.walkEntry p seq sizeK k (min t (hi - j * t)) j w) w

/-- The stage 3 checks of page tables (Table 8.5, R277). -/
def State.kvStage3Ok (s : State) (d : Desc) : Bool :=
  let p := d.part
  let dim := if d.opcode = 0x30 then d.appendDim else d.headDim
  let fmtOk := d.opcode == 0x30 || d.opcode == 0x22 ||
    (match s.kvFmt p with
     | 0 => d.arith == 0 && d.wBits == 8 && d.wcode == 0
     | 1 => d.arith == 1
     | _ => d.arith == 3)
  s.nat (kKvPoolUnits p) != 0 && decide (d.layer < s.kvLayers p) && dim == s.kvDim p && fmtOk &&
  (if d.opcode = 0x30 then d.bN % dim == 0 && decide (d.hBase + d.bN / dim ≤ s.kvHeads p)
   else decide (d.kvHead (d.hpc - 1) < s.kvHeads p))

/-- The tokens of element `b` that a descriptor's walk covers (R319). -/
def Desc.covers (d : Desc) (b : Nat) : Nat × Nat :=
  if d.opcode = 0x30 then (d.posOff b, d.posOff b + d.len b) else (0, d.coveredKeys b)

/-- What a descriptor's walk is for. -/
def Desc.walkKind (d : Desc) : WalkKind :=
  if d.opcode = 0x30 then .append d.layer else if d.opcode = 0x31 then .release else .read

/-- The outcome of a walk: posted requests, then the first failure in ascending (b, j), else the pages found. -/
def State.walkDone (s : State) (d : Desc) (l : List (Nat × ElemWalk)) (go : State → Desc → State) : State :=
  let s := l.zipIdx.foldl (fun s (x, _) =>
    x.2.dropped.foldl (fun (s : State) j =>
      if bitOf (s.tableEntry d.part x.2.table j) 3 then s else s.postRequest d.part x.1 j x.2.table x.2.units 0) s) s
  match (l.find? fun x => x.2.fail.isSome) with
  | some (_, w) => if w.lost then s.unmapped d else s.endDesc d.id (w.fail.getD stBoundsFault)
  | none =>
    let pr := { d.prog with
      walked := true, tables := l.map (·.2.table),
      pages := l.zipIdx.flatMap fun (x, b) => x.2.pages.map fun y => (b * 65536 + y.1, y.2, x.2.units) }
    go (s.modDesc d.id fun e => { e with prog := pr }) { d with prog := pr }

/-- The lines of HBM that the walk of one element reads: (device virtual address, bytes). -/
def State.walkLines (s : State) (p seq : Nat) (w : ElemWalk) : List (Nat × Nat) :=
  (s.nat (kSeqDirBase p) + 8 * (seq % max (s.nat (kSeqDirSlots p)) 1), 8) ::
    (if w.table = 0 then [] else (w.table, 64 + 16 * w.entries) :: w.pages.map fun x => (s.frameVa p x.2, 16))

/-- The walks of a descriptor read through the MSC (R130, R131); one that meets a line with an uncorrectable error ends it
(R145). -/
def State.walkThrough (s : State) (d : Desc) (l : List (Nat × ElemWalk)) : Bool × State :=
  l.foldl (fun (acc : Bool × State) x => (acc.2.walkLines d.part x.1 x.2).foldl (fun (acc : Bool × State) y =>
    (cutRows 256 (y.2 + 1) y.1 (List.replicate y.2 (0 : Byte))).foldl (fun (acc : Bool × State) z =>
      match (if acc.1 then acc.2.walk d.part z.1 false else none) with
      | none => acc
      | some pa =>
        let s := acc.2.mscTouch pa false
        match s.errs.find? fun e => e.2 / 256 == pa / 256 with
        | some e => (false, s.lineBad d.id e)
        | none => (true, s)) acc) acc) (true, s)

/-- The SEQ_IDs that a descriptor names, as they read at its commit (R239, R318). -/
def State.readSeqs (s : State) (d : Desc) (n : Nat) : Option (List Nat) × State :=
  s.readVec d d.seqv n d.prog.seqBytes

/-- The walk of a tiled descriptor (R319, R321): stage 2, then stage 3; a failure leaves no side effects (R253). -/
def State.landWalk (s : State) (d : Desc) (cc : Nat) : State :=
  (onGot ((s.spend d.id cc).readSeqs d d.bB) fun seqs s =>
    let l := seqs.zipIdx.map fun (q, b) => (q, s.walkElem d.part q (d.covers b).1 (d.covers b).2 d.walkKind)
    match s.takeFree.walkThrough d l with
    | (false, s) => s
    | (true, s) => s.walkDone d l fun s d => if s.kvStage3Ok d then s.stage3 d else s.endDesc d.id stTileIllegal).untear d.id

/-- The walk of a KV_RELEASE. -/
def State.landRelease (s : State) (d : Desc) : State :=
  (onGot (s.readSeqs d (d.at 24 2)) fun seqs s =>
    let l := seqs.map fun q => (q, s.walkElem d.part q 0 0 .release)
    match s.takeFree.walkThrough d l with
    | (false, s) => s
    | (true, s) => s.walkDone d l fun s d =>
        if s.nat (kKvPoolUnits d.part) = 0 then s.endDesc d.id stTileIllegal else s).untear d.id

/-! ### Allocation (R326, R336 to R338) -/

/-- The free aligned blocks of `n` units. -/
def State.freeBlocks (s : State) (p n : Nat) : List Nat :=
  ((countFrom 0 (s.nat (kKvPoolUnits p) / n)).map (· * n)).filter fun u => !(s.frames p).any fun f => f.meets u n

/-- Whether victim `f` goes before victim `g` (R336). -/
def KvFrame.before (f g : KvFrame) : Bool :=
  match f.use, g.use with
  | .exported, .exported => decide (f.stamp < g.stamp)
  | .exported, _ => true
  | _, .exported => false
  | _, _ => decide (f.prio < g.prio) || (f.prio == g.prio && (decide (f.seq < g.seq) ||
      (f.seq == g.seq && decide (g.entry < f.entry))))

/-- The next victim of a pool. -/
def State.victim (s : State) (p : Nat) : Option KvFrame :=
  ((s.frames p).filter fun f => (f.use == .exported || f.use == .sealed) && !s.pinned p f.unit).foldl (fun m f =>
    match m with
    | none => some f
    | some g => if f.before g then some f else some g) none

/-- Drops a victim (R337). DEDUCED (log 68). -/
def State.dropPage (s : State) (p : Nat) (f : KvFrame) : State :=
  let e := s.tableEntry p f.table f.entry
  let e' := putBits (putBits (putBits (putBits e 2 0 4) 4 4 0) 26 16 0) 42 32 0
  ((s.setEntry p f.table f.entry e').returnFrame p f).wrapAdd (kPagesDropped p)

/-- Drops victims until a free block exists; answers how many were dropped. DEDUCED (log 68). -/
def State.makeRoom (s : State) (p n : Nat) : Nat → Nat × State
  | 0 => (0, s)
  | fuel + 1 =>
    if s.freeBlocks p n ≠ [] then (0, s)
    else match s.victim p with
      | none => (0, s)
      | some f =>
        let (k, s) := (s.dropPage p f).makeRoom p n fuel
        (k + 1, s)

/-- Gives an entry a frame: header, unfixed scale slots, and the entry OPEN at the next GEN (R313, R326); what its tokens hold
before an append writes them is free (R328). -/
def State.allocate (s : State) (p seq j table units : Nat) : Option Nat × Nat × State :=
  let (dropped, s) := s.makeRoom p units (if s.kvPow2 p then 64 else (s.frames p).length)
  match s.freeBlocks p units with
  | [] => (none, dropped, s)
  | l =>
    let u := l.getD (Config.pickBlock s.free % l.length) 0
    let s := s.takeFree
    let gen := (entGen (s.tableEntry p table j) + 1) % 2 ^ 32
    let k := if s.kvPow2 p then Nat.log2 units else 4
    let head := leBytes 4 seq ++ leBytes 4 gen ++ leBytes 1 k ++ leBytes 1 (s.kvFmt p) ++ List.replicate 6 0
    let s := (s.vaWrite p (s.frameVa p u) (head ++ List.replicate (4 * s.kvLayers p * s.kvHeads p) 0)).2
    let s := s.vaFree p (s.nat (kKvPoolBase p) + u * s.kvUnit p) (units * s.kvUnit p)
    let s := s.setEntry p table j (1 + u * 2 ^ 64 + gen * 2 ^ 96)
    let x := s.pool p
    let f : KvFrame := { unit := u, units := units, seq := seq, entry := j, table := table, gen := gen }
    let s := s.setPool p { x with frames := x.frames ++ [f] }
    (some u, dropped, s.setNat (kUnitsFree p) (s.nat (kUnitsFree p) - units))

/-- The sequence and the entries that an append covers, by element. -/
def State.appendEntries (s : State) (d : Desc) : List (Nat × Nat × Nat × Nat × Nat) :=
  d.prog.tables.zipIdx.flatMap fun (table, b) =>
    let seq := s.vaNatD d.part table 4
    let units := s.pageUnits d.part (s.vaNatD d.part (table + 6) 1)
    let (lo, hi) := d.covers b
    let t := 16 * units
    (countFrom (lo / t) (if lo < hi then (hi - 1) / t + 1 - lo / t else 0)).map fun j => (b, seq, table, units, j)

/-- Allocation at the start of a layer-0 append, in ascending (b, j): entries that are FREE or DROPPED take a frame, and one that
an earlier append has opened must be this sequence's (R322, R326, R332); a failure ends the descriptor with PAGE_ABSENT and posts
a POOL request (R338). -/
def State.allocateAll (s : State) (d : Desc) : State :=
  (s.appendEntries d).foldl (fun (s : State) (b, seq, table, units, j) =>
    if s.runs d.id = false then s
    else
      let p := d.part
      let e := s.tableEntry p table j
      let hold := fun (s : State) (u : Nat) => s.modDesc d.id fun x => { x with prog := { x.prog with
        pages := if x.prog.pages.any fun y => y.1 == b * 65536 + j then x.prog.pages
          else x.prog.pages ++ [(b * 65536 + j, u, units)] } }
      if entState e = 1 then
        if s.headerOk p seq (s.vaNatD p (table + 6) 1) e then hold s (entUnit e) else s.endDesc d.id stOwnerMismatch
      else if entState e ≠ 0 ∧ entState e ≠ 4 then s.endDesc d.id stBoundsFault
      else match s.allocate p seq j table units with
        | (some u, n, s) =>
          (hold s u).modDesc d.id fun x => { x with prog := { x.prog with victims := x.prog.victims + n } }
        | (none, _, s) =>
          let s := (s.setEntry p table j (putBits (s.tableEntry p table j) 2 0 4)).bump (kPoolFails p)
          (s.postRequest p seq j table units 1).endDesc d.id stPageAbsent) s

/-! ### Scale fixing and quantisation (R329, R330, Table 8.6) -/

/-- The input rows of one part of an append's tile as they stand at their source: its region, or HBM where streamed. -/
def State.appendSource (s : State) (d : Desc) (t : Tile) (part : Nat) : List (List Fv) :=
  let f := if bitOf (d.at 114 1) 1 then bf16 else fp16
  let str := if part = 0 then d.aStr else d.bStr
  (countFrom 0 (d.rows t)).map fun r =>
    let n := d.cols t * 2
    let l :=
      if str then (s.vaRead d.part ((if part = 0 then d.aFrom t else d.bFrom t) + r * d.tn * 2) n).getD []
      else match d.region? (if part = 0 then 40 else 48) with
        | some a =>
          let o := (t.bb * d.gm * d.gn + d.aIndex t) * d.aTile + r * d.tn * 2
          s.overlay d.id (.store a.fs a.frond a.slot (a.off + o)) (s.storeRead { a with off := a.off + o } n)
        | none => []
    (unpack 16 (d.cols t) l).map f.decode

/-- The tiles of a descriptor that are not skipped. -/
def Desc.liveTiles (d : Desc) : List Tile :=
  ((countFrom 0 d.positions).filterMap fun n => (d.owned n).map d.tileAt).filter fun t => !d.skipped t

/-- Where a value of a tile goes: page (unit), token offset in it, KV head and dimension. -/
def Desc.kvPlace (d : Desc) (t : Tile) (r n : Nat) : Option (Nat × Nat × Nat × Nat × Nat) :=
  let tok := d.posOff t.b + d.row0 t + r
  let col := d.col0 t + n
  (d.pageOf t.b tok).map fun (u, us) => (u, us, tok % (16 * us), d.hBase + col / d.appendDim, col % d.appendDim)

/-- The smallest FP16 code at or above a positive number divided by 127. -/
def int8Scale (x : Dy) : Nat :=
  if x.m = 0 then 0
  else
    let k := if ((Dy.mk 127 (x.msb - 6)).le x) then x.msb - 6 else x.msb - 7
    let q := max (k - 10) (-24)
    let num := x.at (min x.e q)
    let den : Int := 127 * 2 ^ (q - min x.e q).toNat
    match fp16.encode false (-((-num) / den)) q with
    | some c => c
    | none => 0x7BFF

/-- The scale code of a block from the largest magnitude of its first values (Table 8.6). -/
def State.scaleCode (s : State) (p : Nat) (mx : Dy) : Nat :=
  let lo := s.nat (kKvScaleMin p)
  match s.kvFmt p with
  | 0 => max lo (min 0x7BFF (int8Scale mx))
  | 1 =>
    let v := fp16.finite lo
    let floor := if v.norm.m = 1 then v.msb else v.msb + 1
    let e := if mx.m = 0 then floor else max floor (min 15 (lnsExp mx))
    (fp16.narrow .rne false ⟨1, e⟩).1
  | _ => 0x3C00

/-- Every value of a descriptor's own tiles with the block it goes to: (unit, head, part) and the value. -/
def State.appendValues (s : State) (d : Desc) : List ((Nat × Nat × Nat) × Fv) :=
  d.liveTiles.flatMap fun t => [0, 1].flatMap fun part =>
    (s.appendSource d t part).zipIdx.flatMap fun (row, r) => row.zipIdx.filterMap fun (v, n) =>
      (d.kvPlace t r n).map fun (u, _, _, h, _) => ((u, h, part), v)

/-- Fixes the scale of each block that no append has fixed, from the descriptor's own values (R329); notes how many
elements lie in such blocks. -/
def State.fixScales (s : State) (d : Desc) : State :=
  let vals := s.appendValues d
  let blocks := (vals.map (·.1)).eraseDups
  let (n, s) := blocks.foldl (fun (acc : Nat × State) b =>
    let (n, s) := acc
    let (u, h, part) := b
    let at_ := s.scaleVa d.part u d.layer h part
    if s.vaNatD d.part at_ 2 ≠ 0 then (n, s)
    else
      let mine := vals.filter fun x => x.1 == b
      let mx := mine.foldl (fun (m : Dy) x => match x.2 with | .fin _ y => m.max y.abs | _ => m) ⟨0, 0⟩
      (n + mine.length, (s.vaWrite d.part at_ (leBytes 2 (s.scaleCode d.part mx))).2)) (0, s)
  s.modDesc d.id fun x => { x with prog := { x.prog with scaled := true, written := [(n, vals.length)] } }

/-- `num` / `den` rounded to an integer (R215, R216); the random bits are those below the step. -/
def roundRatio (r : Rnd) (num : Int) (den : Nat) : Int :=
  match r with
  | .rne =>
    let f := num / den
    let x := 2 * (num % den)
    if (den : Int) < x ∨ (x = den ∧ f % 2 = 1) then f + 1 else f
  | .sr draw =>
    let g := den / Nat.gcd den num.natAbs
    let d := if isPow2 g && decide (g ≤ 2 ^ 32) then Nat.log2 g else 32
    (num * 2 ^ d / den + ((if d = 32 then draw else Config.srBits draw d) % 2 ^ d : Nat)) / 2 ^ d

/-- The code written for a value (Table 8.6): its code, whether it was limited, and whether it was not finite, in which case it
is written as R201 has it.
DEDUCED (log 68). -/
def kvCode (fmt : Nat) (bfIn : Bool) (raw scale : Nat) (r : Rnd) (v : Fv) : Nat × Bool × Bool :=
  match fmt with
  | 0 =>
    match v with
    | .nan => (0, false, true)
    | .inf s => (if s then 0x81 else 0x7F, false, true)
    | .fin _ x =>
      let y := fp16.finite scale
      let e := min x.e y.e
      let n := roundRatio r (x.at e) (max (y.at e).toNat 1)
      if 127 < n then (0x7F, true, false) else if n < -127 then (0x81, true, false) else (toBits 8 n, false, false)
  | 1 =>
    match v with
    | .nan => (0, false, true)
    | .inf s => (b2n s * 128 + 127, false, true)
    | .fin _ x =>
      if x.m = 0 then (0, false, false)
      else
        let (c, lim) := lns8.code 127 (decide (x.m < 0)) (lns8.level x (fp16.finite scale).msb)
        (c, lim, false)
  | _ =>
    match v with
    | .nan => (0, false, true)
    | .inf s => (bf16.largest s, false, true)
    | .fin s x => (if bfIn then raw else (bf16.narrow r s x).1, false, false)

/-! ### KV_APPEND (R325 to R331) -/

/-- N of a committed descriptor, which its bounds record gives from its commit on (R239). -/
def Desc.knownN (d : Desc) : Nat :=
  if d.prog.boundsLanded = false ∧ d.bsrc 1 = 2 then byteField d.prog.recBytes 4 4 else d.bN

/-- Appends of a descriptor's layer that committed before it, have not ended, and cover one of its entries. -/
def State.appendsBefore (s : State) (d : Desc) : List Desc :=
  (s.inflight.takeWhile fun e => e.id != d.id).filter fun e =>
    e.opcode == 0x30 && e.part == d.part && !e.ended && e.layer == d.layer && e.prog.cover.any d.prog.cover.contains

/-- Whether an earlier append of layer 0 has still to allocate an entry that a descriptor covers (R326). -/
def State.allocBlocked (s : State) (d : Desc) : Bool :=
  d.opcode == 0x30 && d.layer == 0 && (s.appendsBefore d).any fun e => !e.prog.allocated

/-- Whether an earlier append may still fix a scale that a descriptor needs (R329). -/
def State.appendBlocked (s : State) (d : Desc) : Bool :=
  (s.appendsBefore d).any fun e =>
    !e.prog.scaled && decide (e.hBase < d.hBase + d.knownN / d.appendDim) &&
    decide (d.hBase < e.hBase + e.knownN / e.appendDim)

/-- Runs of columns of a tile row that lie in one KV head: first column and length. -/
def Desc.headRuns (d : Desc) (t : Tile) : List (Nat × Nat) :=
  let h0 := d.col0 t / d.appendDim
  let h1 := (d.col0 t + d.cols t + d.appendDim - 1) / d.appendDim
  (countFrom h0 (h1 - h0)).map fun h =>
    let lo := max (d.col0 t) (h * d.appendDim)
    let hi := min (d.col0 t + d.cols t) ((h + 1) * d.appendDim)
    (lo - d.col0 t, hi - lo)

/-- Quantises and writes one row of one part. -/
def State.appendRow (s : State) (d : Desc) (c : Nat) (t : Tile) (part r : Nat) (row : List (Nat × Fv)) : Bool × State :=
  let p := d.part
  let fmt := s.kvFmt p
  let (rs, s) := s.drawN d.id c part row.length
  (d.headRuns t).foldl (fun (acc : Bool × State) (lo, n) =>
    if acc.1 then
      match d.kvPlace t r lo with
      | none => acc
      | some (u, us, tok, h, dim) =>
        let s := acc.2
        let sc := s.vaNatD p (s.scaleVa p u d.layer h part) 2
        let cs := (((row.drop lo).take n).zip ((rs.drop lo).take n)).map fun (x, rnd) =>
          kvCode fmt (bitOf (d.at 114 1) 1) x.1 sc rnd x.2
        let lim := (cs.filter fun x => x.2.1).length
        let s := s.bump (kNonfiniteStaged p) (cs.filter fun x => x.2.2).length
        let s := if lim = 0 then s else (s.wrapAdd (kKvSaturated p) lim).flagDesc d.id 0
        s.issue d (.va (s.elemVa p u us d.layer h part tok dim)) (cs.flatMap fun x => leBytes (s.kvElem p) x.1)
    else acc) (true, s)

/-- The rows of one part of the open tile with their raw codes, from its region. -/
def State.appendRows (s : State) (d : Desc) (t : Tile) (part : Nat) : Option (List (List (Nat × Fv))) × State :=
  let f := if bitOf (d.at 114 1) 1 then bf16 else fp16
  match d.region? (if part = 0 then 40 else 48) with
  | none => (none, s.endDesc d.id stTileIllegal)
  | some a =>
    let place := if part = 0 then d.aPlace t else d.bPlace t
    (countFrom 0 (d.rows t)).foldl (fun (acc : Option (List (List (Nat × Fv))) × State) r =>
      match acc with
      | (none, s) => (none, s)
      | (some m, s) =>
        match s.fetch d (.store { a with off := a.off + place + r * d.tn * 2 }) (d.cols t * 2) with
        | (some l, s) => (some (m ++ [(unpack 16 (d.cols t) l).map fun x => (x, f.decode x)]), s)
        | (none, s) => (none, s)) (some [], s)

/-- Raises the fills of the entries an append has written, TOKENS, and marks the pages that a FINAL append wrote last
(R327, R333). -/
def State.raiseFills (s : State) (d : Desc) : State :=
  let p := d.part
  let last := d.layer + 1 == s.kvLayers p
  let bs := ((d.liveTiles.map (·.b)).eraseDups)
  bs.foldl (fun (s : State) b =>
    let table := d.prog.tables.getD b 0
    let rows := (d.liveTiles.filter fun t => t.b == b).flatMap fun t => (countFrom (d.row0 t) (d.rows t))
    let toks := rows.map fun r => d.posOff b + r
    let top := toks.foldl (fun m k => max m (k + 1)) 0
    let s := ((d.prog.pages.filter fun x => x.1 / 65536 == b)).foldl (fun (s : State) x =>
      let j := x.1 % 65536
      let t := 16 * x.2.2
      let fill := (toks.filter fun k => k / t == j).foldl (fun m k => max m (k % t + 1)) 0
      let e := s.tableEntry p table j
      let e := if d.layer = 0 then putBits e 26 16 (max (bitsOf e 26 16) fill) else e
      let e := if last then putBits e 42 32 (max (bitsOf e 42 32) fill) else e
      let s := s.setEntry p table j e
      if last && bitOf (d.at 114 1) 0 && decide (j * t < top) && decide (top ≤ (j + 1) * t)
      then s.modFrame p x.2.1 fun f => { f with final := true } else s) s
    if last && decide (s.vaNatD p (table + 12) 4 < top) then (s.vaWrite p (table + 12) (leBytes 4 top)).2 else s) s

/-- Cycles of a KV_APPEND (R331). -/
def Desc.appendCost (d : Desc) : Nat :=
  let (fix, e) := d.prog.written.headD (0, 0)
  let lat := fun off => match d.region? off with | some a => readLatency d.core (.store a) true | none => 0
  let toks := d.liveTiles.flatMap fun t => (countFrom (d.row0 t) (d.rows t)).map fun r => (t.b, d.posOff t.b + r)
  let p := (d.prog.pages.filter fun x => toks.any fun y =>
    y.1 == x.1 / 65536 && y.2 / (16 * x.2.2) == x.1 % 65536).length
  16 + max (lat 40) (lat 48) + (fix + 127) / 128 + (e + 127) / 128 + 24 * p + 64 * d.prog.victims + 4

/-- The start of an append, before its first tile, be it skipped: its frames are allocated (R326). -/
def State.appendStart (s : State) (d : Desc) : State :=
  if d.opcode ≠ 0x30 ∨ d.prog.allocated = true then s
  else
    let s := if d.layer = 0 then s.allocateAll d else s
    if s.runs d.id then s.modDesc d.id fun x => { x with prog := { x.prog with allocated := true } } else s

/-- The start of a descriptor's next tile, after the allocation of an append (R191, R326). -/
def State.startTile (s : State) (d : Desc) (c cc : Nat) : State :=
  let s := s.appendStart d
  match s.desc? d.id with
  | some d => if d.ended then s else State.nextTile (d.positions + 1) s d c cc
  | none => s

/-- Seeds and scales, once for a descriptor, before it quantises (R220, R329). -/
def State.appendScales (s : State) (d : Desc) (c : Nat) : State :=
  if d.prog.scaled then s
  else
    let s := s.loadSeeds d c
    if s.runs d.id = false then s
    else match s.desc? d.id with
      | some d => s.fixScales d
      | none => s

/-- One part of the open tile, row by row. -/
def State.appendPart (s : State) (d : Desc) (c : Nat) (t : Tile) (part : Nat) : Bool × State :=
  match s.appendRows d t part with
  | (none, s) => (false, s)
  | (some rows, s) => rows.zipIdx.foldl (fun (acc : Bool × State) (row, r) =>
      if acc.1 then acc.2.appendRow d c t part r row else acc) (true, s)

/-- One KV_APPEND tile: both parts, then the fills and the cycles after the last. -/
def State.runAppend (s : State) (d : Desc) (c : Nat) : State :=
  let s := s.appendScales d c
  match s.desc? d.id with
  | none => s
  | some d =>
    if d.ended then s
    else match d.curTile with
      | none => s
      | some t =>
        let (ok, s) := s.appendPart d c t 0
        let (ok, s) := if ok then s.appendPart d c t 1 else (false, s)
        if ok then
          let s := if d.liveTiles.getLast? = some t then (s.raiseFills d).spend d.id d.appendCost else s
          s.closeTile d c
        else s

/-! ### Release (R342) -/

/-- Releases one sequence: every entry FREE with its GEN kept, TOKENS 0, and its own frames released (R322). -/
def State.releaseSeq (s : State) (p table : Nat) : State :=
  let n := s.vaNatD p (table + 4) 2
  let s := (countFrom 0 n).foldl (fun (s : State) j =>
    let e := s.tableEntry p table j
    let s := s.setEntry p table j (entGen e * 2 ^ 96)
    match (s.frames p).find? fun f => f.unit == entUnit e && f.table == table && f.entry == j with
    | some f => if hasFrame e then s.modFrame p f.unit fun f => { f with use := .released } else s
    | none => s) s
  (s.vaWrite p (table + 12) (leBytes 4 0)).2

/-- KV_RELEASE (R342), once its walk has landed. -/
def execKvRelease (id : Nat) (s : State) : Host.Outcome State Fault Refusal :=
  .next (s.runOff id [0x31] fun s d =>
    if d.prog.walked then
      (d.prog.tables.foldl (fun s t => s.releaseSeq d.part t) s).endDesc id stOk
    else s)

/-! ### Sealing and export (R333, R367 to R369) -/

/-- Page jobs queued in the device (Table 9.2). -/
def State.pageJobs (s : State) : Nat := s.streams.foldl (fun n x => n + x.2.pages.length) 0

/-- Queues a page job: the entry becomes IN_FLIGHT. DEDUCED (log 68). -/
def State.queuePage (s : State) (p st : Nat) (f : KvFrame) (job : Option Nat) : State :=
  let s := s.setEntry p f.table f.entry (putBits (s.tableEntry p f.table f.entry) 2 0 5)
  let s := s.modFrame p f.unit fun f => { f with use := .inFlight, wire := true }
  let x := s.stream st
  s.setStream st { x with pages := x.pages ++ [⟨p, f.seq, f.entry, f.gen, job⟩] }

/-- Whether an OPEN page meets the seal condition (R333). -/
def State.sealDue (s : State) (p : Nat) (f : KvFrame) : Bool :=
  f.use == .open_ && (bitsOf (s.tableEntry p f.table f.entry) 42 32 == 16 * f.units || f.final) &&
  !(s.inflight.any fun d => d.opcode == 0x30 && d.part == p && !d.completed &&
    ((d.prog.pages.any fun x => x.2.1 == f.unit) || d.prog.cover.contains (f.table, f.entry)))

/-- Seals one page, and hands it to Sporangium where its table names a stream (R333, R367). -/
def State.sealPage (s : State) (p : Nat) (f : KvFrame) : State :=
  let e := s.tableEntry p f.table f.entry
  let fill := bitsOf e 42 32
  let s := s.setEntry p f.table f.entry (putBits (putBits e 2 0 2) 4 4 (b2n (f.final && decide (fill < 16 * f.units))))
  let f := { f with use := .sealed, prio := s.vaNatD p (f.table + 7) 1, sealFill := fill }
  let s := s.modFrame p f.unit fun _ => f
  let st := s.vaNatD p (f.table + 8) 2
  if st = 0xFFFF then s
  else if st < 256 ∧ s.nat (kStreamOwner st) = p ∧ s.streamUp st = true ∧ s.pageJobs < 8192 then s.queuePage p st f none
  else s.bump (kExportAbandoned p)

/-- Inserts a frame in ascending (SEQ_ID, entry). -/
def insertFrame (f : KvFrame) : List KvFrame → List KvFrame
  | [] => [f]
  | g :: t => if f.seq < g.seq ∨ (f.seq = g.seq ∧ f.entry ≤ g.entry) then f :: g :: t else g :: insertFrame f t

/-- Seals every page that is due, in ascending (SEQ_ID, entry) in each partition (R333, R369). DEDUCED (log 68). -/
def State.sealPages (s : State) : State :=
  (s.kv.map (·.1)).foldl (fun (s : State) p =>
    (((s.frames p).filter fun f => s.sealDue p f).foldl (fun l f => insertFrame f l) []).foldl
      (fun s f => s.sealPage p f) s) s

/-- PAGE_EXPORT (R349, R368), checked in its commit frame; the stage 2 rows of Table 8.5 decide over the stage 3 row
(R321). -/
def execPageExport (id : Nat) (s : State) : Host.Outcome State Fault Refusal :=
  .next (s.runOff id [0x32] fun s d =>
    let p := d.part
    let seq := d.at 16 4
    let first := d.at 20 2
    let n := d.at 22 2
    let st := d.at 24 1
    match s.streamCheck p st with
    | some c => s.endAtCommit id c
    | none =>
        let w := s.walkElem p seq first (first + n) .seek
        let s := (s.walkLines p seq w).foldl (fun (s : State) x => s.mscReads p x.1 x.2) s
        match w.fail with
        | some c => (if w.lost then s.bump (kMapFaults p) else s).endAtCommit id c
        | none =>
          if s.nat (kKvPoolUnits p) = 0 then s.endAtCommit id stTileIllegal
          else if 8192 < s.pageJobs + w.pages.length then s.endAtCommit id stBusy
          else
            let job := s.nextId
            let s := s.addJob .pageExport (jobTag d 26) st w.pages.length
            let s := s.modJob job fun j => { j with detail := n - w.pages.length }
            let s := w.pages.foldl (fun (s : State) x =>
              match (s.frames p).find? fun f => f.unit == x.2 with
              | some f => s.queuePage p st f (some job)
              | none => s) s
            let s := s.endAtCommit id stOk
            match s.job? job with
            | some j => if j.left = 0 then s.endJob j 0 0 else s
            | none => s)

/-! ### Entries of a page pool (R344, R345) -/

/-- KV_POOL_CONFIG_WRITE (R345): `sub` is the subindex of Table 8.9: 1 KV_POOL_BASE, 2 KV_POOL_UNITS, 3 KV_GEOM and
4 KV_META_BASE. -/
def execKvPoolConfigWrite (who : Requester) (part sub : Nat) (v : Word) (s : State) :
    Host.Outcome State Fault Refusal :=
  let k := kKvPoolBase part - 1 + sub
  let e : Ent := if sub = 1 then .kvPoolBase else if sub = 2 then .kvPoolUnits else if sub = 3 then .kvGeom else .kvMetaBase
  .next (s.slotWrite who e k v fun s _ =>
    let t := s.setReg k v
    orRefuse (!(t.kvPow2 part) || t.nat (kKvPoolUnits part) % 64 == 0) .state ((s.emptyPool part).setReg k v))

/-- POOL_EMPTIED (R345). -/
def execPoolEmptied (part : Nat) (s : State) : Host.Outcome State Fault Refusal := .next (s.poolEmptied part)

/-- RECOMP_CONS_WRITE (R344). -/
def execRecompConsWrite (who : Requester) (part : Nat) (v : Word) (s : State) : Host.Outcome State Fault Refusal :=
  .next (s.slotWrite who .recompCons (kRecompCons part) v fun s _ =>
    orRefuse (decide ((s.nat (kRecompProd part) + 2 ^ 32 - v.toNat % 2 ^ 32) % 2 ^ 32 ≤ s.nat (kRecompSlots part))) .state
      (s.setReg (kRecompCons part) v))

/-- DESCRIPTOR_COMPLETE (R559). -/
def execDescriptorComplete (id : Nat) (s : State) : Host.Outcome State Fault Refusal := .next (s.completeDesc id)

end Sys2Proof.Machine
end

