-- ==== Sys2Proof/Machine/Operands.lean ====
section
/-!
DEFINITION. Machine/Operands.lean: the operand forms of descriptors, and every check that Supezin makes on them at commit
(R542, R545).
-/
namespace Sys2Proof.Machine

/-! ### Reserved bits (R542, R548) -/

/-- The fields of Table 13.6 that all tiled opcodes use, but operand regions: header, CORE, LAYER and tiling block. -/
def tiledHead : List (Nat × Nat) := [(0, 13), (16, 32), (64, 3), (68, 4), (72, 8), (192, 56), (256, 64)]

/-- Operand regions and A_SRC of Table 13.6. -/
def tiledRegions : List (Nat × Nat) := [(320, 128), (448, 48)]

/-- Fields of Table 13.11 that every attention opcode uses. -/
def attnBody : List (Nat × Nat) :=
  [(512, 22), (544, 32), (640, 48), (704, 48), (768, 48), (832, 64), (896, 32), (928, 8), (1280, 7), (1288, 2), (1312, 32)]

/-- The bits that an opcode's descriptor uses, as (first bit, bits) from bit 0 of its first entry (Tables 13.2, 13.6, 13.7,
13.9, 13.11, 13.12); every other bit is reserved. -/
def usedBits (op : Nat) : List (Nat × Nat) :=
  let head := [(0, 13), (16, 32)]
  let core := head ++ [(64, 3), (68, 4)]
  match op with
  | 0x00 => head
  | 0x01 => core ++ [(72, 2)]
  | 0x02 => head ++ [(72, 8), (128, 64)]
  | 0x10 => tiledHead ++ tiledRegions ++ [(96, 25), (128, 37), (176, 16), (512, 48), (576, 64), (640, 48), (704, 64),
      (768, 7), (776, 2), (800, 32), (832, 32), (864, 32), (896, 32), (960, 64)]
  | 0x11 => tiledHead ++ [(320, 64), (448, 48), (128, 36), (176, 16), (512, 48), (576, 64), (640, 64), (704, 64), (768, 7),
      (776, 2), (832, 32)]
  | 0x12 => core ++ [(128, 64), (192, 32), (224, 8), (256, 64), (320, 32)]
  | 0x13 => core ++ [(128, 96), (224, 8)]
  | 0x14 => core ++ [(128, 64), (192, 16)]
  | 0x15 => core ++ [(128, 64), (192, 64), (256, 128)]
  | 0x16 => core ++ [(128, 48), (192, 48)]
  | 0x20 => tiledHead ++ tiledRegions ++ attnBody ++ [(96, 24), (128, 37), (176, 16), (576, 48), (1344, 64), (1408, 64)]
  | 0x21 => tiledHead ++ tiledRegions ++ attnBody ++ [(96, 24), (128, 37), (176, 16), (576, 48), (960, 64), (1088, 64),
      (1344, 64), (1408, 64)]
  | 0x22 => tiledHead ++ attnBody ++ [(128, 35), (176, 16), (960, 64), (1024, 64), (1088, 64)]
  | 0x23 => tiledHead ++ tiledRegions ++ attnBody ++ [(96, 25), (128, 37), (176, 16), (576, 48), (1088, 64), (1152, 48),
      (1216, 64), (1344, 64), (1408, 64), (1472, 32), (1504, 32)]
  | 0x30 => tiledHead ++ tiledRegions ++ [(128, 37), (176, 16), (512, 48), (576, 64), (640, 48), (704, 48), (768, 7),
      (776, 2), (800, 7), (808, 2), (832, 64), (896, 16), (912, 2)]
  | 0x31 => head ++ [(128, 48), (192, 16)]
  | 0x32 => head ++ [(128, 64), (192, 8), (208, 12), (223, 1)]
  | 0x40 => head ++ [(128, 32), (160, 16), (176, 1), (192, 64), (256, 12), (271, 1)]
  | 0x41 => head ++ [(128, 48), (192, 32), (224, 8), (240, 12), (255, 1)]
  | 0x42 => head ++ [(128, 64), (192, 32), (224, 8), (240, 12), (255, 1), (256, 48)]
  | 0x50 => head ++ [(128, 25), (160, 32), (192, 192)]
  | _ => []

/-- A number with runs of bits cleared. -/
def clearRuns (raw : Nat) (l : List (Nat × Nat)) : Nat :=
  l.foldl (fun n (x : Nat × Nat) => n - bitsOf n (x.1 + x.2 - 1) x.1 * 2 ^ x.1) raw

/-- The offset of an opcode's DONE word (Table 13.12). -/
def doneAt (op : Nat) : Option Nat :=
  match op with
  | 0x32 => some 26
  | 0x40 => some 32
  | 0x41 => some 30
  | 0x42 => some 30
  | _ => none

/-- Whether a descriptor's format is legal: a known opcode, reserved bits zero, and no fence named without its enable
(R542, R554). DEDUCED (log 58). -/
def Desc.formatOk (d : Desc) : Bool :=
  opKnown d.opcode && clearRuns d.raw (usedBits d.opcode) == 0 &&
  (d.flag 0 || bitsOf d.raw 27 16 == 0) && (d.flag 1 || bitsOf d.raw 39 28 == 0) &&
  (match doneAt d.opcode with
   | some o => bitOf (d.at o 2) 15 || bitsOf (d.at o 2) 11 0 == 0
   | none => true)

/-! ### The tiling block (Table 6.6, stage 1) -/

/-- Whether a bounds field holds zeros in its reserved bits, and an aligned BOUNDS_PTR (R234, Table 6.6). -/
def Desc.boundsFieldOk (d : Desc) : Bool :=
  let ks := countFrom 0 4
  if ks.any fun k => d.bsrc k == 2 then
    d.bf % 32 == 0 && ks.all fun k => d.bsrc k == 1 || bitsOf d.bf (51 + 4 * k) (48 + 4 * k) == 0
  else
    ks.all fun k => d.bsrc k != 1 ||
      (let f := [(19, 4), (35, 24), (55, 40), (63, 60)].getD k (0, 0)
       bitsOf d.bf f.1 f.2 == 0)

/-- The checks that the tiling block passes at commit (Table 6.6). -/
def Desc.tilingOk (d : Desc) : Bool :=
  let ks := countFrom 0 4
  decide (d.tileOrder ≤ 1) && (ks.all fun k => decide (d.bsrc k ≤ 2)) && decide (d.padType ≤ 3) && d.tStride != 0 &&
  !((ks.any fun k => d.bsrc k == 2) && ks.any fun k => d.bsrc k == 0) && d.boundsFieldOk &&
  (if productOp d.opcode then
     (d.accInit || d.tLimit == 1) && decide (d.asBase + d.tm * d.tn * (if d.isWide then 2 else 1) ≤ 32768)
   else d.tileOrder == 0)

/-- The bounds that are known at commit: immediates, and shape registers as they stand (R237). -/
def State.commitBound (s : State) (d : Desc) (k : Nat) : Nat :=
  let mem := d.memBounds
  let f := [(19, 0), (35, 20), (55, 36), (63, 56)].getD k (0, 0)
  match d.bsrc k with
  | 0 => bitsOf d.bf f.1 f.2
  | 1 => s.nat (kShapeReg d.ring (if mem then bitsOf d.bf (51 + 4 * k) (48 + 4 * k) else bitsOf d.bf (f.2 + 3) f.2))
  | _ => 0

/-- Every bound of a descriptor as far as it is known at commit. -/
def State.commitBounds (s : State) (d : Desc) : List Nat := (countFrom 0 4).map (s.commitBound d)

/-! ### Arithmetic modes and operand places (R158, R835, R491) -/

/-- Whether MODE is legal for an opcode that forms products (R158). -/
def Desc.modeOk (d : Desc) : Bool :=
  match d.arith with
  | 0 => decide (1 ≤ d.wBits) && decide (d.wBits ≤ 16) && [2, 3, 4, 6, 8, 12, 16].contains d.aBits &&
      (match d.wcode with
       | 0 => decide (2 ≤ d.wBits)
       | 1 => d.wBits == 1
       | 2 => d.wBits == 1
       | _ => false)
  | 1 => !d.wideFlag && d.wBits == 0 && d.aBits == 0 && d.wcode == 0
  | 2 => !d.wideFlag && d.wBits == 0 && d.aBits == 0 && d.wcode == 0
  | 3 => !d.wideFlag && d.wBits == 0 && d.aBits == 0 && d.wcode == 0
  | _ => false

/-- Whether operand regions lie where the engine of the mode reads them, and the CMU serves the partition (R491, R835). -/
def State.placesOk (s : State) (d : Desc) : Bool :=
  match d.region? 40, d.region? 48 with
  | some a, some b =>
    if d.arith = 3 then
      a.fs && b.fs && a.frond == d.core.1 && b.frond == d.core.1 && s.slotOwner d.core.1 0 == d.part
    else !a.fs && !b.fs && (a.frond, a.slot) == d.core && (b.frond, b.slot) == d.core
  | _, _ => false

/-- Whether operand regions are legal as ranges; a region that streamed fetches write meets R143. -/
def State.regionsLegal (s : State) (d : Desc) : Bool :=
  let one := fun (off : Nat) (wr : Bool) =>
    if wr then s.storeWritable d.part (d.at off 4) (d.at (off + 4) 4) else s.storeOk d.part (d.at off 4) (d.at (off + 4) 4)
  one 40 d.aStr && (d.opcode == 0x11 || one 48 (if productOp d.opcode then d.bFetched else d.bStr))

/-! ### Narrowing streams (R550 to R552) -/

/-- Whether a descriptor's stream words and seeds are legal (R114, R551). -/
def State.streamsOk (s : State) (d : Desc) : Bool :=
  d.streamsOf.zipIdx.all fun (x, i) =>
    decide (bitsOf x.1 1 0 ≤ 1) &&
    (let drain := i == 0 && (d.opcode == 0x10 || d.opcode == 0x23)
     if drain then bitsOf x.1 9 8 != 3 || d.arith == 3 else bitsOf x.1 9 8 == 0) &&
    (!(isSr x.1 && bitOf x.1 6) || s.storeOk d.part x.2 16)

/-- Whether a drain's scale is legal: finite and nonzero, and 1.0 for tagged partials (R552). -/
def drainScaleOk (scale outFmt : Nat) : Bool :=
  bitsOf scale 30 23 != 255 && bitsOf scale 30 0 != 0 && (outFmt != 2 || scale == 0x3F800000)

/-- Whether the generators of a descriptor's SR streams differ (R222). -/
def Desc.gensApart (d : Desc) : Bool := d.gens.length == d.gens.eraseDups.length

/-! ### Checks by opcode -/

/-- The rotary word of a MATMUL (R273, R555, Table 13.10). -/
def State.ropeOk (s : State) (d : Desc) : Bool :=
  if bitOf d.rope 0 then
    let rot := s.nat (kRopeCfg d.part (bitsOf d.rope 3 1)) % 512
    decide (1 ≤ d.ropeHeads) && decide (rot ≤ d.ropeDim) && d.tn % d.ropeDim == 0 && d.ropeCol % d.ropeDim == 0
  else d.rope == 0

/-- What every product opcode checks at commit. -/
def State.productOk (s : State) (d : Desc) : Bool := d.modeOk && s.placesOk d && s.regionsLegal d

/-- MATMUL. -/
def State.matmulOk (s : State) (d : Desc) : Bool :=
  s.productOk d && s.streamsOk d && d.at 88 4 % 8 == 0 && drainScaleOk (d.at 108 4) (bitsOf (d.at 96 4) 9 8) &&
  s.ropeOk d && s.addrOk d.part (d.at 120 8) 8 false

/-- QUANTISE. -/
def State.quantiseOk (s : State) (d : Desc) : Bool :=
  let n := d.at 94 1
  s.regionsLegal d && s.streamsOk d && d.at 88 4 % 8 == 0 && decide (1 ≤ n) && decide (n ≤ 16) && decide (d.at 95 1 ≤ 1) &&
  d.at 80 4 % 8 == 0 && s.storeWritable d.part (d.at 80 4) 8 && s.storeOk d.part (d.at 84 4) ((n - 1) * d.at 92 2 + 8)

/-- KV_APPEND. -/
def State.appendOk (s : State) (d : Desc) : Bool :=
  s.regionsLegal d && s.streamsOk d && d.at 80 8 % 4 == 0 && d.at 88 8 % 4 == 0

/-- The attention opcodes (Table 7.7, R290, R293). -/
def State.attnOk (s : State) (d : Desc) : Bool :=
  let p := d.part
  let norm := d.opcode == 0x22
  decide (bitsOf d.aw 1 0 ≤ 2) && decide (bitsOf d.aw 3 2 ≤ 2) && decide (d.kvg ≤ d.hpc) && decide (d.pFmt ≤ 2) &&
  (norm || !d.grad) && s.streamsOk d &&
  d.at 80 8 % 4 == 0 && d.at 88 8 % 4 == 0 && (!d.bitmap || d.at 96 8 % 8 == 0) &&
  (norm || (s.productOk d && s.addrOk p (d.at 176 8) 8 false)) &&
  (!norm || (bitsOf d.tw 11 6 == 0 && decide (d.pCont ≤ (if d.scoreLns then 12 else 16)) &&
    decide (d.pA ≤ 6) && (!d.foldV || d.kvSrc))) &&
  (!(norm || d.opcode == 0x21) || s.addrOk p (d.at 136 8) 8 (!d.grad)) &&
  (d.opcode != 0x23 || (s.addrOk p (d.at 136 8) 8 false && d.at 152 4 % 8 == 0 &&
    drainScaleOk (d.at 188 4) (bitsOf (d.at 160 4) 9 8)))

/-- REDUCE (R213, R555): the tag words, which say how long a partial's entries are, and the least that the entries take; what
they take is checked when the tag words have been read. DEDUCED (log 101). -/
def State.reduceOk (s : State) (d : Desc) : Bool :=
  let n := d.at 28 1
  decide (2 ≤ n) && decide (n ≤ 16) && s.partialsOk d (List.replicate n false) &&
  s.addrOk d.part (d.at 32 8) (8 + 4 * d.at 40 4) false && s.addrOk d.part (d.at 32 8) 8 true

/-- FILL (R134, R143, R555). -/
def State.fillOk (s : State) (d : Desc) : Bool :=
  let pw := d.at 28 1
  d.at 16 4 % 8 == 0 && d.at 20 4 % 8 == 0 && decide (pw ≤ 2) && decide (d.at 24 4 < 2 ^ (8 * 2 ^ pw)) &&
  s.storeWritable d.part (d.at 16 4) (d.at 20 4)

/-- COPY (R135, R555). -/
def State.copyOk (s : State) (d : Desc) : Bool :=
  match decodeSAddr (d.at 16 4), decodeSAddr (d.at 20 4) with
  | some a, some b =>
    a.fs == b.fs && a.frond == b.frond && a.slot == b.slot && a.off % a.row == 0 && b.off % b.row == 0 &&
    s.storeOk d.part (d.at 16 4) (d.at 24 2 * a.row) && s.storeWritable d.part (d.at 20 4) (d.at 24 2 * b.row)
  | _, _ => false

/-- Whether every row of one side of a TRANSFER is legal (R114, R138, R143). -/
def State.rowsOk (s : State) (p field n rows stride : Nat) (wr : Bool) : Bool :=
  match decodeAddr field with
  | none => false
  | some (.va _) => true
  | some (.store a) => (countFrom 0 rows).all fun i =>
      let x := { a with off := a.off + i * stride }
      decide (x.off + n ≤ x.size) && s.rangeOk p x n && (!wr || s.writeAligned x n)

/-- TRANSFER (R138, R143, R555). -/
def State.transferOk (s : State) (d : Desc) : Bool :=
  let n := d.at 32 4
  let rows := d.at 36 4
  decide (8 ≤ n) && decide (n ≤ 1048576) && n % 8 == 0 && decide (1 ≤ rows) && decide (rows ≤ 1048576) &&
  d.at 40 4 % 8 == 0 && d.at 44 4 % 8 == 0 &&
  s.rowsOk d.part (d.at 16 8) n rows (d.at 40 4) false && s.rowsOk d.part (d.at 24 8) n rows (d.at 44 4) true

/-! ### Collectives (Table 11.4) -/

/-- Whether a slot's transmit entry names a group as RHIZOID on every port of a list (R467). -/
def State.rhzSlots (s : State) (g slot : Nat) (ports : List (Nat × Nat)) : Bool :=
  ports.all fun x => slotClass (s.txEntry x.2 slot) == 1 && slotGroup (s.txEntry x.2 slot) == g

/-- R467. -/
def State.rhzSlotsOk (s : State) (g : Nat) (m : Members) : Bool :=
  if m.xs = [] then s.rhzSlots g 0 m.ys
  else s.rhzSlots g 0 m.xs && s.rhzSlots g 1 m.ys

/-- Whether BYTES is legal for an operation over `n` members and `planes` planes (Table 11.4). -/
def bytesOk (op b n planes : Nat) : Bool :=
  op == 5 || (b != 0 && decide (b ≤ 2 ^ 31) &&
    b % (256 * (if op = 3 then 1 else if op = 2 then n * planes else n)) == 0)

/-- Whether a collective's codes suit each other (Table 11.4). -/
def Desc.codesOk (d : Desc) (planes : Nat) : Bool :=
  let op := d.cOp
  let ty := d.cType
  let red := d.cRed
  decide (op ≤ 5) && decide (ty ≤ 3) && decide (red ≤ 4) &&
  (if op = 0 ∨ op = 2 ∨ op = 5 then ty != 3 else ty == 3 && red == 0) &&
  (decide (red < 3) || ty == 0) &&
  (ty != 2 || (red == 0 && op != 5 && !(op == 2 && decide (1 < planes)))) &&
  (planes == 1 || op == 2)

/-- Whether an address field of a collective is legal for the bytes it uses, and whether it is mapped (R114, R143). -/
def State.collAddr (s : State) (p field len : Nat) (wr : Bool) : Bool × Bool :=
  (s.addrOk p field len (wr && decide (len ≠ 0)),
   match decodeAddr field with
   | some (.va v) => s.mapped p v len wr
   | _ => true)

/-- The status with which a COLLECTIVE or RHIZOID fails its acceptance, if it does (R452, Table 11.4). -/
def State.collCheck (s : State) (d : Desc) : Option Nat :=
  let g := d.cGroup
  let w := s.nat (kGroupDef g)
  let m := s.members w
  let planes := gPlanes w
  let lens := s.collLens w d
  let rhz := d.cOp == 5
  let src := s.collAddr d.part (d.at 24 8) lens.1 false
  let dst := s.collAddr d.part (d.at 32 8) (if rhz then 4 * d.cCount else lens.2.1) (!rhz)
  let scr := s.collAddr d.part (d.at 40 8) lens.2.2 true
  if d.codesOk planes = false ∨ src.1 = false ∨ dst.1 = false ∨ scr.1 = false then some 2
  else if gKind w = 0 ∨ gPart w ≠ d.part then some 2
  else if bytesOk d.cOp d.cBytes m.n planes = false then some 2
  else if d.cOp = 3 ∧ m.n ≤ d.cRoot then some 2
  else if rhz = true ∧ (bitOf (d.at 24 8) 63 = false ∨ bitOf (d.at 32 8) 63 = false) then some 2
  else if rhz = false ∧ ((s.stages w d).any fun st => st.kind != .cross && s.axisK g m st.axisY == 0) = true then some 2
  else if rhz = true ∧ s.rhzSlotsOk g m = false then some 2
  else if src.2 = false ∨ dst.2 = false ∨ scr.2 = false then
    some 3
  else if 64 ≤ (s.coll g).count then some 11
  else none

/-! ### The check at commit -/

/-- Whether a fence may be waited on or signalled by a partition's descriptor (R513). -/
def State.fenceUsable (s : State) (p f : Nat) : Bool := s.fenceLife f == 1 && s.fencePart f == p

/-- The descriptor with the bounds that are known at commit; without any where one comes from memory. -/
def State.atCommit (s : State) (d : Desc) : Desc :=
  { d with prog := { d.prog with bounds := if d.memBounds then [] else s.commitBounds d } }

/-- The check of an opcode's own operands at commit (R545, R555); `true` is legal.  CUT, PAGE_EXPORT, REPLAY and RESTORE are
accepted by their own commands in the commit frame. DEDUCED (log 58). -/
def State.bodyOk (s : State) (d : Desc) : Bool :=
  match d.opcode with
  | 0x01 => d.at 9 1 != 0
  | 0x02 => precEntryOk (d.at 16 8)
  | 0x10 => d.tilingOk && s.matmulOk d && s.extentsOk (s.atCommit d)
  | 0x11 => d.tilingOk && s.quantiseOk d
  | 0x12 => s.reduceOk d
  | 0x13 => s.fillOk d
  | 0x14 => s.copyOk d
  | 0x15 => s.transferOk d
  | 0x16 => d.at 16 8 % 8 == 0 && d.at 24 8 % 256 == 0
  | 0x30 => d.tilingOk && s.appendOk d
  | 0x31 => d.at 16 8 % 4 == 0 && decide (1 ≤ d.at 24 2) && decide (d.at 24 2 ≤ 4096)
  | op => if attnOp op then d.tilingOk && s.attnOk d && s.extentsOk (s.atCommit d) else true

/-- The status with which a check made at commit ends a descriptor, if one does (R545): format and X-rings, fences
(R513), a BROKEN wait fence (R506), the core slot (R547), a CMU that has failed (R730), the operands, generators (R222),
and a collective's acceptance. DEDUCED (log 57). -/
def State.commitCheck (s : State) (d : Desc) : Option Nat :=
  let wait := bitsOf d.raw 27 16
  if d.formatOk = false ∨ (96 ≤ d.ring ∧ (d.opcode ≠ 0x50 ∨ d.cGroup ≠ d.ring - 96)) then some stTileIllegal
  else if (d.flag 0 = true ∧ s.fenceUsable d.part wait = false) ∨
      (d.flag 1 = true ∧ s.fenceUsable d.part (bitsOf d.raw 39 28) = false) then some stTileIllegal
  else if d.flag 0 = true ∧ s.fenceValue wait = 2 then some stFenceBroken
  else if coreRun d.opcode = true ∧ s.slotOwner d.core.1 d.core.2 ≠ d.part then some stTileIllegal
  else if coreRun d.opcode = true ∧ s.descCore d = none then some stCapacityReduced
  else if s.bodyOk d = false then some stTileIllegal
  else if productOp d.opcode = true ∧ d.arith = 3 ∧ s.nat (kCmuState d.core.1) = 1 then some stCapacityReduced
  else if d.gensApart = false then some stGenConflict
  else if d.opcode = 0x50 then s.collCheck d
  else none

end Sys2Proof.Machine
end

