-- ==== Sys2Proof/Machine/Commit.lean ====
section
/-!
DEFINITION. Machine/Commit.lean: run-ahead, and the commit pass of an issue window.
-/
namespace Sys2Proof.Machine

/-! ### What run-ahead reads (R563) -/

/-- A descriptor's bounds, lengths and positions as they read now, without any effect. DEDUCED (log 62). -/
def State.peek (s : State) (d : Desc) : Desc :=
  let b := s.commitBounds d
  let rd := fun (ptr n : Nat) => if ptr = 0 ∨ n = 0 then [] else u32s n ((s.vaRead d.part ptr (4 * n)).getD [])
  let mem := d.memBounds
  let l := (s.vaRead d.part (bitsOf d.bf 47 0) 32).getD []
  let b := if mem then (countFrom 0 4).map fun k => if d.bsrc k = 2 then byteField l (4 * k) 4 else b.getD k 0 else b
  let n := min (b.getD 3 0) 4096
  { d with prog := { d.prog with bounds := b, lens := if mem then rd (byteField l 16 8) n else [], poss := rd d.posPtr n } }

/-- The run-ahead reads that decide the squash cause Bucket: bounds and lengths, or the bucket edges (Table 13.15). -/
def State.peekReads (s : State) (d : Desc) : List (List Nat) :=
  if d.opcode = 0x16 then [(countFrom 0 8).map fun k => s.nat (kBucketEdge d.part k)]
  else if tiledOp d.opcode then [(s.peek d).prog.bounds, (s.peek d).prog.lens]
  else []

/-- The SEQ_IDs that a walking descriptor names, as they read now. -/
def State.peekSeqs (s : State) (d : Desc) : List Byte :=
  let n := if d.opcode = 0x31 then d.at 24 2 else if d.walks then min ((s.peek d).bB) 4096 else 0
  if n = 0 then [] else (s.vaRead d.part d.seqv (4 * n)).getD []

/-- The page table entries that a walk covers, as (table, entry) (R319). -/
def State.peekCover (s : State) (d : Desc) : List (Nat × Nat) :=
  let e := s.peek d
  let l := s.peekSeqs d
  (u32s (l.length / 4) l).zipIdx.flatMap fun (q, b) =>
    let lo := (e.covers b).1
    let hi := (e.covers b).2
    let release := d.opcode == 0x31
    let w := s.walkElem d.part q lo hi (if release then .release else .read)
    if w.table = 0 then []
    else
      let t := 16 * w.units
      (if release then countFrom 0 w.entries
        else countFrom (lo / t) (min w.entries (if lo < hi then (hi - 1) / t + 1 - lo / t else 0))).map fun j => (w.table, j)

/-- STATE and GEN of the entries that a walk covers (Table 13.15). -/
def State.peekWalk (s : State) (d : Desc) : List (Nat × Nat × Nat) :=
  (s.peekCover d).map fun x =>
    (entryVa x.1 x.2, entState (s.tableEntry d.part x.1 x.2), entGen (s.tableEntry d.part x.1 x.2))

/-- A committed descriptor with the bytes of its bounds record, lengths, positions and SEQ_IDs as they read at its commit, and
the page table entries that its walk covers (R237, R239, R269, R318, R323). -/
def State.sampleBounds (s : State) (d : Desc) : Desc :=
  let rd := fun (ptr n : Nat) => if ptr = 0 ∨ n = 0 then [] else (s.vaRead d.part ptr n).getD []
  let tiled := tiledOp d.opcode
  let l := if tiled && d.memBounds then rd (bitsOf d.bf 47 0) 32 else []
  let n := if tiled then min ((s.peek d).prog.bounds.getD 3 0) 4096 else 0
  { d with prog := { d.prog with
    bounds := if tiled then s.commitBounds d else [], recBytes := l,
    lenBytes := if l = [] then [] else rd (byteField l 16 8) (4 * n), posBytes := rd d.posPtr (4 * n),
    seqBytes := s.peekSeqs d, cover := s.peekCover d } }

/-- The tag that run-ahead predicts for a descriptor's tiles, plus 1; 0 where it predicts none (Table 5.3). -/
def State.peekTag (s : State) (d : Desc) : Nat :=
  if productOp d.opcode = false ∨ d.arith = 3 then 0
  else
    let l := match decodeAddr d.tagField with
      | some (.store a) => if s.filterOk d.part a then some (s.storeRead a 8) else none
      | some (.va v) => s.vaRead d.part v 8
      | none => none
    match l with
    | none => 0
    | some l =>
      let w := leNat l
      let e := sext 8 (bitsOf w 11 4)
      tagCode (w % 16) (if d.arith = 0 then e + d.wexp else e + d.wexp - 16) + 1

/-- A run-ahead read of a tag word that the filter blocks is counted (R151). -/
def State.tagBlocked (s : State) (d : Desc) : State :=
  if productOp d.opcode = false ∨ d.arith = 3 then s
  else match decodeAddr d.tagField with
    | some (.store a) => if s.filterOk d.part a then s else s.bump kFilterBlocks
    | _ => s

/-- The first tile that a descriptor runs. -/
def Desc.firstTile (d : Desc) : Nat → Nat → Option Tile
  | 0, _ => none
  | fuel + 1, n =>
    match d.owned n with
    | none => none
    | some k => if d.skipped (d.tileAt k) then d.firstTile fuel (n + 1) else some (d.tileAt k)

/-- Whether every sector of a range of a core's Local Store is SPEC. -/
def State.specRange (s : State) (c off len : Nat) : Bool :=
  len != 0 && (sectorsOf off len).all fun o => s.bit (kLsSpecMap c) (o / 16384)

/-- Whether a committed, uncompleted descriptor of a core has an operand region that overlaps a range (R564). -/
def State.regionBusy (s : State) (core : Nat × Nat) (off len : Nat) : Bool :=
  s.inflight.any fun e => !e.completed && tiledOp e.opcode && e.core == core &&
    [40, 48].any fun k => match e.region? k with
      | some a => !a.fs && (a.frond, a.slot) == core && decide (a.off < off + len) && decide (off < a.off + e.at (k + 4) 4)
      | none => false

/-- The first B tile of a descriptor: its bytes by device virtual address and Local Store offset, and the range of SPEC sectors they lie in (R563,
R564). -/
def State.peekB (s : State) (d : Desc) (c : Nat) : Option (List (Nat × Nat × List Byte) × Nat × Nat) :=
  if productOp d.opcode = false ∨ d.bStr = false ∨ d.kvSrc = true then none
  else match d.region? 48 with
    | none => none
    | some a =>
      let len := d.at 52 4
      if a.fs ∨ (a.frond, a.slot) ≠ d.core ∨ a.size < a.off + len ∨ s.specRange c a.off len = false ∨
          s.regionBusy d.core a.off len = true then none
      else
        let e := s.peek d
        let e := { e with prog := { e.prog with halfB := 0 } }
        match e.firstTile (e.positions + 1) 0 with
        | none => none
        | some t =>
          let got := (e.bPieces t).mapM fun (x : Nat × Nat × Nat) =>
            (s.vaRead d.part x.1 x.2.2).map fun l => (x.1, a.off + x.2.1, l)
          let lo := a.off / 16384 * 16384
          got.map fun l => (l, c * 2 ^ 20 + lo, roundUp (a.off + len / 2) 16384 - lo)

/-! ### Run-ahead (R562) -/

/-- A descriptor that stands in a ring and has not committed. -/
def uncommitted (r p raw : Nat) : Desc := { id := 0, ring := r, part := p, index := 0, raw := raw, commitFrame := 0 }

/-- EARLIEST. -/
def Desc.earliest (d : Desc) : Nat := bitsOf d.raw 47 40

/-- Runs ahead on one descriptor: the rows of a first B tile land past the partition filter (R150, R563). -/
def State.runaheadOn (s : State) (d : Desc) (cons predicted : Nat) : State :=
  if s.runahead.any fun w => w.ring == d.ring && w.cons == cons then s
  else
    let b := match (if coreRun d.opcode then s.descCore d else none) with
      | some c => s.peekB d c
      | none => none
    let w : RunaheadWork := {
      ring := d.ring, cons := cons, predicted := predicted, raw := d.raw, reads := s.peekReads d, walk := s.peekWalk d,
      fetchedB := b.map (·.2), tag := s.peekTag d }
    let s := { s with runahead := s.runahead ++ [w] }.tagBlocked d
    match b with
    | some (l, _) => l.foldl (fun (s : State) x =>
        (s.mscReads d.part x.1 x.2.2.length).writeRows d.part ⟨false, d.core.1, d.core.2, x.2.1⟩ x.2.2) s
    | none => s

/-- Runs ahead on a ring's descriptors in ring order; `prev` is the commit frame of the one before, as committed or
predicted. -/
def State.runaheadRing : Nat → State → Nat → Nat → List (Nat × Nat) → Option Nat → Bool → State
  | 0, s, _, _, _, _, _ => s
  | fuel + 1, s, r, cons, l, prev, busy =>
    match takeDesc l with
    | none => s
    | some (raw, n, avail, rest) =>
      let p := s.ringPart r
      let d := uncommitted r p raw
      let now := s.tb.ticks - Tbl.get 0 s.slips p
      if s.tb.ticks < avail then s
      else
        let at_ := max (now + 1) ((prev.getD avail) + d.earliest)
        let at_ := if d.flag 3 && busy then max at_ (prev.getD now + 1) else at_
        let s := if !d.flag 4 && decide (at_ ≤ now + s.liveNat (kRunahead p)) then s.runaheadOn d cons at_ else s
        s.runaheadRing fuel r ((cons + n) % 2 ^ 32) rest (some at_) true

/-- Whether a ring may commit: ACTIVE and enabled, and its partition RUNNING (Table 13.5). -/
def State.ringRuns (s : State) (r : Nat) : Bool :=
  s.ringLife r == 1 && s.nat (kRingEnabled r) == 1 && s.partState (s.ringPart r) == 1 && s.partRun (s.ringPart r) == 1

/-- RUNAHEAD_START (R562). -/
def execRunaheadStart (s : State) : Host.Outcome State Fault Refusal :=
  .next ((countFrom 0 128).foldl (fun s r =>
    if s.ringRuns r then
      let x := s.ring r
      s.runaheadRing (x.fetched.length + 1) r (s.nat (kRingCons r)) x.fetched x.lastCommit (s.ringDescs r != [])
    else s) s)

/-- Uses or squashes the run-ahead work of a descriptor that commits (R567, R568). DEDUCED (log 62). -/
def State.useRunahead (s : State) (d : Desc) (cons : Nat) : State × Desc :=
  match s.runahead.find? fun w => w.ring == d.ring && w.cons == cons with
  | none => (s, d)
  | some w =>
    if w.reads ≠ s.peekReads d then (s.squashFrom d.ring cons (kSquashBounds d.part), d)
    else if w.walk ≠ s.peekWalk d then (s.squashFrom d.ring cons (kSquashPage d.part), d)
    else
      let s := { s with runahead := s.runahead.filter fun v => !(v.ring == d.ring && v.cons == cons) }
      let s := s.wrapAdd (kRunaheadUsed d.part)
      let tag := if w.tag = 0 then none else some (w.tag - 1)
      let pr := { d.prog with predicted := tag }
      let e := s.peek d
      match w.fetchedB, e.firstTile (e.positions + 1) 0 with
      | some _, some t => (s, { d with prog := { pr with heldB := [(t.bb, t.j)], halfB := 0 } })
      | _, _ => (s, { d with prog := pr })

/-- At the predicted commit frame of a descriptor, an UNSIGNALLED wait fence squashes its run-ahead work (Table 13.15). -/
def State.squashFences (s : State) : State :=
  s.runahead.foldl (fun s w =>
    let p := s.ringPart w.ring
    if w.predicted ≤ s.tb.ticks - Tbl.get 0 s.slips p ∧ bitOf w.raw 8 = true ∧ s.fenceValue (bitsOf w.raw 27 16) = 0 then
      (if s.runahead.any fun v => v.ring == w.ring && v.cons == w.cons
       then s.squashFrom w.ring w.cons (kSquashFence p) else s)
    else s) s

/-! ### The commit pass (R543, R544) -/

/-- The frond whose commits a descriptor counts against (R544). -/
def Desc.commitFrond (d : Desc) : Nat := if coreRun d.opcode then d.core.1 else d.ring % 16

/-- Committed, uncompleted descriptors of a core (R546). -/
def State.coreSlots (s : State) (core : Nat × Nat) : Nat :=
  (s.inflight.filter fun e => coreRun e.opcode && e.core == core && !e.completed && !e.refused).length

/-- INFLIGHT_NOW: committed, uncompleted core-run descriptors (Table 13.18). -/
def State.inflightNow (s : State) : Nat :=
  (s.inflight.filter fun e => coreRun e.opcode && !e.completed && !e.refused).length

/-- Why a ring's turn goes on or ends at its next descriptor. -/
inductive Turn where
  | commits | ends | cqFull
  deriving DecidableEq, Repr

/-- The conditions of Table 13.5 for the next descriptor of a ring; a wait fence that R513 refuses is taken as met. -/
def State.turn (s : State) (d : Desc) (avail : Nat) (counts : List Nat) : Turn :=
  let r := d.ring
  let p := d.part
  let now := s.tb.ticks - Tbl.get 0 s.slips p
  let wait := bitsOf d.raw 27 16
  if now < avail ∨ now < ((s.ring r).lastCommit.getD avail) + d.earliest then .ends
  else if d.flag 3 = true ∧ s.ringDescs r ≠ [] then .ends
  else if d.flag 0 = true ∧ s.fenceUsable p wait = true ∧ s.fenceValue wait = 0 then .ends
  else if 4 * s.issueLen ≤ counts.getD d.commitFrond 0 then .ends
  else if s.holds.any fun h => h.frond == some d.commitFrond then .ends
  else if coreRun d.opcode = true ∧ 4 ≤ s.coreSlots d.core then .ends
  else if s.nat (kCqSlots r) ≤ (s.ringDescs r).length + (s.nat (kCqProd r) + 2 ^ 32 - s.nat (kCqCons r)) % 2 ^ 32 then .cqFull
  else .commits

/-- Queues a collective that was accepted (R459, R468). -/
def State.queueColl (s : State) (d : Desc) : State :=
  let g := d.cGroup
  let w := s.nat (kGroupDef g)
  let c := s.coll g
  let tick := s.tb.ticks
  if d.cOp = 5 then
    let fresh := (tick + 1, 1)
    let place := if c.rhzNext.1 < tick + 1 then fresh else c.rhzNext
    let next := if place.2 = 4 then (place.1 + 1, 1) else (place.1, place.2 + 1)
    s.setColl g { c with rhzWait := c.rhzWait ++ [(d.id, w, place.1, place.2)], rhzNext := next }
  else s.setColl g { c with queue := c.queue ++ [(d.id, w, tick)] }

/-- Commits a ring's next descriptor: its entries are released, and the checks made at commit either end it or hand it to its
engine (R533, R545). -/
def State.commitDesc (s : State) (r raw n : Nat) (rest : List (Nat × Nat)) : State :=
  let p := s.ringPart r
  let cons := s.nat (kRingCons r)
  let now := s.tb.ticks - Tbl.get 0 s.slips p
  let d : Desc := { id := s.nextId, ring := r, part := p, index := cons % max (s.nat (kRingEntries r)) 1, raw := raw,
                    commitFrame := s.frameNo }
  let s := { s with nextId := s.nextId + 1 }
  let s := s.setRing r { s.ring r with fetched := rest, lastCommit := some now }
  let s := (s.wrapAdd (kCommits r)).setNat (kRingCons r) ((cons + n) % 2 ^ 32)
  match s.commitCheck d with
  | some st =>
    let s := { s with runahead := s.runahead.filter fun w => !(w.ring == r && w.cons == cons) }
    { s with inflight := s.inflight ++
        [{ d with status := st, ended := true, refused := true, endFrame := s.frameNo }] }
  | none =>
    let d := s.sampleBounds d
    let d := { d with prog := { d.prog with
      rope := if bitOf d.rope 0 then
          (s.nat (kRopeBase p (bitsOf d.rope 3 1)), s.nat (kRopeCfg p (bitsOf d.rope 3 1))) else (0, 0) } }
    let (s, d) := s.useRunahead d cons
    let s := { s with inflight := s.inflight ++ [d] }
    let s := if d.opcode = 0x50 then s.queueColl d else s
    if s.nat kInflightPeak < s.inflightNow then s.setNat kInflightPeak s.inflightNow else s

/-- One ring's turn: its descriptors commit in ring order until a condition fails; `counts` are the commits of each frond. -/
def State.ringTurn : Nat → State → Nat → List Nat → State × List Nat
  | 0, s, _, counts => (s, counts)
  | fuel + 1, s, r, counts =>
    match takeDesc (s.ring r).fetched with
    | none => (s, counts)
    | some (raw, n, avail, rest) =>
      let d := uncommitted r (s.ringPart r) raw
      match s.turn d avail counts with
      | .ends => (s, counts)
      | .cqFull => (s.bump (kCqStalls r), counts)
      | .commits =>
        (s.commitDesc r raw n rest).ringTurn fuel r (counts.set d.commitFrond (counts.getD d.commitFrond 0 + 1))

/-- Whether a partition commits nothing in this window: a recovery hold (R711), a sector being zeroed (R147), or the frame
after a deferred overrun (R105). -/
def State.partHeld (s : State) (p : Nat) : Bool :=
  s.nat (kRecoveryState p) == 1 || (s.holds.any fun h => h.parts.contains p) ||
  (s.zeroing.any fun z => z.parts.contains p) || s.skips.contains p

/-- The commits of an issue window (R543). -/
def State.commitPass (s : State) : State :=
  let (s, counts) := (countFrom 0 128).foldl (fun (acc : State × List Nat) r =>
    if acc.1.ringRuns r && !acc.1.partHeld (acc.1.ringPart r)
    then acc.1.ringTurn ((acc.1.ring r).fetched.length + 1) r acc.2 else acc) (s.squashFences, List.replicate 16 0)
  if counts.any fun n => decide (4 * s.issueLen ≤ n) then s.bump kCommitLimitHits else s

end Sys2Proof.Machine
end

