-- ==== Sys2Proof/Machine/Flags.lean ====
section
/-!
DEFINITION. Machine/Flags.lean: event and status flags that software clears by writing ones (R611), and the thresholds that
a sensor's flags are computed from (R641).
-/
namespace Sys2Proof.Machine

/-- A W1C write: each bit written as 1 is cleared, and every other bit stays (R611); ALERT_N follows ALERT_STATUS (R642). -/
def State.clearFlags (s : State) (k : Nat) (v : Word) : State :=
  let t := s.setReg k (s.reg k &&& ~~~v)
  if k = kAlertStatus then t.alertEdge s else t

/-- Whether WARN_HI of channel `j` (from 0) is at most CRIT_HI (R641). -/
def State.hiOk (t : State) (j : Nat) : Bool := decide (sext 32 (t.nat (kWarnHi j)) ≤ sext 32 (t.nat (kCritHi j)))

/-- Whether WARN_LO of channel `j` (from 0) is at least CRIT_LO, and a LO value written to a temperature or current channel
is Off (R641). -/
def State.loOk (t : State) (j v : Nat) : Bool :=
  decide (sext 32 (t.nat (kCritLo j)) ≤ sext 32 (t.nat (kWarnLo j))) &&
    ((sensorDefaults (j + 1)).2.2.1 != thresholdOff || v == thresholdOff)

end Sys2Proof.Machine
end

