-- ==== Sys2Proof/Machine/Timing.lean ====
section
/-!
DEFINITION. Machine/Timing.lean: the commands of the timebase: geometry, numbering, references and steps.
-/
namespace Sys2Proof.Machine

/-! ### Geometry and numbering -/

/-- GEOMETRY_SWITCH (R63). -/
def execGeometrySwitch (s : State) : Host.Outcome State Fault Refusal := .next s.geometrySwitch

/-- The effect of a SWITCH_FRAME write that is not refused: a switch that has fallen due is applied, and the staged values are
captured (R63). DEDUCED (log 42). -/
def writeSwitchFrame (v : Word) (s : State) (_ : EntLoc) : Except Reason State :=
  if v.toNat < s.frameNo + 2 ∨ geometryOk s.staged = false then .error .state
  else
    let s := s.geometrySwitch
    .ok { s.setReg kSwitchFrame v with tb := { s.tb with armed := some s.staged } }

/-- SWITCH_FRAME_WRITE (R63, R64): a refusal under R64 also sets SWITCH_REFUSED; of a value that no frame number allows its
reason is RANGE (R622). -/
def execSwitchFrameWrite (who : Requester) (v : Word) (s : State) : Host.Outcome State Fault Refusal :=
  let t := s.slotWrite who .switchFrame kSwitchFrame v (writeSwitchFrame v)
  match s.requesterOk who, s.gateSlot who .switchFrame kSwitchFrame v with
  | true, .ok l =>
    match writeSwitchFrame v s l with
    | .error _ => .next (t.timingEvent 8)
    | .ok _ => .next t
  | true, .error .range => .next (t.timingEvent 8)
  | _, _ => .next t

/-- The effect of a FRAME_SEED write (R79). DEDUCED (log 42). -/
def writeFrameSeed (v : Word) (s : State) (_ : EntLoc) : Except Reason State :=
  if s.numbered then .error .state else .ok { s with tb := { s.tb with seed := some v.toNat } }

/-- FRAME_SEED_WRITE (R79). -/
def execFrameSeedWrite (who : Requester) (v : Word) (s : State) : Host.Outcome State Fault Refusal :=
  .next (s.slotWrite who .frameSeed kFrameSeed v (writeFrameSeed v))

/-! ### SYNC_IN -/

/-- Whether the receiver's polarity is INVERTED: the forced value, else the one found (R805). -/
def State.syncInverted (s : State) : Bool :=
  if s.nat kSyncPolarity = 0 then s.tb.inverted else s.nat kSyncPolarity == 2

/-- Ns from the last accepted pulse to one at `phase` of the present frame. -/
def State.pulseGap (s : State) (last phase : Int) : Int := s.tb.base + phase - last

/-- The offset that a pulse at `phase` gives: SYNC_IN is taken modulo the frame, and by the frames that the numbering source
and the local count differ (R82, R88). DEDUCED (log 53). -/
def State.syncOffset (s : State) (phase : Int) : Int :=
  s.phaseMod (s.nat kSyncDelayNs - phase) + s.tb.numGap * (s.frameNs : Nat)

/-- An accepted pulse, which belongs to the nearer boundary; `run` is the run it ends. DEDUCED (log 53). -/
def State.acceptPulse (s : State) (phase : Int) (run : Nat) : State :=
  let next := decide ((s.frameNs : Int) < 2 * (phase - s.nat kSyncDelayNs))
  { s with tb := { s.tb with syncLast := some (s.tb.base + phase), syncRun := run, syncOff := some (s.syncOffset phase),
                             syncGot := s.tb.syncGot || !next, syncNext := s.tb.syncNext || next } }

/-- An edge (R807) while SYNC_IN is not disqualified: accepted, or ignored and counted (R808, Table 2.3). -/
def State.syncEdge (s : State) (phase : Int) : State :=
  if s.tb.selected = 1 ∧ s.timing = 2 then
    if (s.phaseMod (phase - s.nat kSyncDelayNs)).natAbs ≤ s.nat kSyncWindowNs
    then s.acceptPulse phase (s.tb.syncRun + 1) else s.bump kSyncIgnored
  else match s.tb.syncLast with
    | none => s.acceptPulse phase 1
    | some last =>
      let d := s.pulseGap last phase - (s.frameNs : Int)
      if d.natAbs ≤ 50 then s.acceptPulse phase (s.tb.syncRun + 1)
      else if 50 < d then s.acceptPulse phase 1
      else s.bump kSyncIgnored

/-- SYNC_IN_EDGE (R806 to R809, Table 2.3): a transition of the decoded level at `phase` ns from position 0 of the present
frame.  The receiver inverts the waveform while its polarity is INVERTED (R806); STUCK clears at any transition (R810). -/
def execSyncInEdge (phase : Int) (o : EdgeObs) (s : State) :
    Host.Outcome State Fault Refusal :=
  let s := s.setReg kSyncStatus (putFld (s.reg kSyncStatus) 3 3 0)
  if (o.rising == s.syncInverted) = true ∨ o.before < 40 ∨ o.after < 40 ∨ o.cls ≠ some s.syncInverted ∨
      fld (s.reg kSyncStatus) 1 0 ≠ 0 then .next s
  else
    let n := s.tb.edges + 1
    let s := { s with tb := { s.tb with edges := n } }
    if n = 3 then
      let s := s.setReg kSyncStatus (putFld (s.reg kSyncStatus) 4 4 1)
      .next ({ s with tb := { s.tb with disq := true, calm := 0, syncRun := 0 } }.syncEvent 3)
    else if s.tb.disq then .next s
    else .next (s.syncEdge phase)

/-- SYNC_LINE_FAULT (R802): `line` is the code of SYNC_STATUS, 1 NO_SIGNAL, 2 OPEN or 3 SHORT_LOW. -/
def execSyncLineFault (line : Nat) (s : State) : Host.Outcome State Fault Refusal :=
  if line % 4 = 0 then .next s
  else
    let was := fld (s.reg kSyncStatus) 1 0
    let s := s.setReg kSyncStatus (putFld (s.reg kSyncStatus) 1 0 line)
    if was = 0 then .next (s.syncEvent 0) else .next s

/-- SYNC_LINE_OK (R802). -/
def execSyncLineOk (s : State) : Host.Outcome State Fault Refusal :=
  .next (s.setReg kSyncStatus (putFld (s.reg kSyncStatus) 1 0 0))

/-- SYNC_STUCK (R810). -/
def execSyncStuck (s : State) : Host.Outcome State Fault Refusal :=
  .next ((s.setReg kSyncStatus (putFld (s.reg kSyncStatus) 3 3 1)).syncEvent 2)

/-! ### Qualification, loss and the timing states -/

/-- Whether a reference's count of Table 2.3 is complete. -/
def State.refCounted (s : State) (ref : Nat) : Bool :=
  if ref = 0 then false
  else if ref = 1 then decide (8 ≤ s.tb.syncRun) && !s.tb.disq
  else if ref = 2 then decide (8 ≤ s.tb.ptmRun) && s.nat kPtmState != 0 && s.bit kRefEnable 1
  else decide (ref < 19) && decide (8 ≤ (s.port (ref - 3)).mkRun)

/-- Marks a reference as qualified. -/
def State.qualify (s : State) (ref : Nat) : State :=
  if ref = 1 then { s with tb := { s.tb with syncOk := true } }
  else if ref = 2 then { s with tb := { s.tb with ptmOk := true } }.setNat kPtmState 2
  else s.setPort (ref - 3) { s.port (ref - 3) with mkOk := true }

/-- REF_QUALIFIED (R73, R87): a reference (1 SYNC_IN, 2 PTM, 3 + n port n) completes its count, and the choice of the next
boundary takes it in.  While the device is not LOCKED its offset is measured, which is the `offset` reported (log 2); one more
than 1 ms behind is not qualified. -/
def execRefQualified (ref : Nat) (offset : Int) (s : State) : Host.Outcome State Fault Refusal :=
  if s.refCounted ref = false then .next s
  else match s.refOff ref with
    | none => .next (s.qualify ref)
    | some off =>
      if s.timing = 2 then .next (s.qualify ref)
      else if offset ≠ off then .next s
      else
        let s := s.setReg kOffsetNs (i32Word off)
        if off < -1000000 then .next ((s.unqualify ref).timingEvent 6) else .next (s.qualify ref)

/-- REF_LOST (R73, R81): the loss time of the selected reference is up, and REF_LOST is set; the transition of Table 2.4 is
made at the next frame boundary. -/
def execRefLost (ref : Nat) (s : State) : Host.Outcome State Fault Refusal :=
  if ref ≠ 0 ∧ ref = s.tb.selected ∧ s.tb.lost = false ∧ s.refExpired ref 1 = true
  then .next ({ s with tb := { s.tb with lost := true } }.timingEvent 0) else .next s

/-- OFFSET_EXCEEDED (Table 2.4): the reference is treated as returning. -/
def execOffsetExceeded (s : State) : Host.Outcome State Fault Refusal :=
  if s.timing = 2 ∧ 4 ≤ s.tb.overRun then .next ((s.leaveLocked (s.refB s.tb.selected)).returnOf s.tb.selected)
  else .next s

/-- LOCK_ACQUIRED (R82, Table 2.4). -/
def execLockAcquired (s : State) : Host.Outcome State Fault Refusal :=
  if s.timing ≠ 2 ∧ s.lockCondition = true then .next s.enterLocked else .next s

/-- FREERUN_ENTERED (R81, Table 2.4): HOLD_LIMIT_MS has elapsed in HOLDOVER; a lock condition met at the same boundary takes
precedence. -/
def execFreerunEntered (s : State) : Host.Outcome State Fault Refusal :=
  if s.timing = 1 ∧ s.nat kHoldLimitMs * 1000000 ≤ s.tb.holdNs then
    if s.lockCondition then .next s.enterLocked
    else .next ((s.setNat kTimingState 0).timingEvent 2).muteNow
  else .next s

/-! ### PTM -/

/-- PTM_DIALOGUE (R776). -/
def execPtmDialogue (s : State) : Host.Outcome State Fault Refusal :=
  if s.nat kPtmState = 0 then .next s else .next ({ s with tb := { s.tb with ptmOpen := true } }.emit .ptmRequest)

/-- PTM_RESPONSE (R776, Table 2.3): it gives the PTM time, in ns, at position 0 of the present frame. -/
def execPtmResponse (time : Nat) (s : State) : Host.Outcome State Fault Refusal :=
  if s.tb.ptmOpen then
    .next { s with tb := { s.tb with ptmOpen := false, ptmRun := s.tb.ptmRun + 1, ptmNs := 0, ptmOff := some (s.ptmOffset time) } }
  else .next s

/-- PTM_TIMEOUT (R777). -/
def execPtmTimeout (s : State) : Host.Outcome State Fault Refusal :=
  if s.tb.ptmOpen then .next ({ s with tb := { s.tb with ptmOpen := false, ptmRun := 0 } }.bump kPtmFails) else .next s

/-- PTM Enable of the PF is cleared: PTM_STATE reads 0, and the reference is no longer qualified (R776, R777). -/
def State.ptmOff (s : State) : State :=
  { s.unqualify 2 with tb := { (s.unqualify 2).tb with ptmOpen := false } }.setNat kPtmState 0

/-- PTM_ENABLE_CLEAR (R777): a selected PTM reference is lost when the choice is next made. -/
def execPtmEnableClear (s : State) : Host.Outcome State Fault Refusal := .next s.ptmOff

/-- PTM_ENABLE_SET (R776). -/
def execPtmEnableSet (s : State) : Host.Outcome State Fault Refusal :=
  if s.nat kPtmState = 0 then .next (s.setNat kPtmState 1) else .next s

end Sys2Proof.Machine
end

