-- ==== Sys2Proof/Machine/Pcie.lean ====
section
/-!
DEFINITION. Machine/Pcie.lean: the BAR4 aperture, bus mastering, MSI-X, function-level resets, and the PCIe link
(chapter 19).
-/
namespace Sys2Proof.Machine

/-- Whether a function exists and its link is up (R767). -/
def State.fnUp (s : State) (fn : Nat) : Bool := s.dieUp && !s.linkDown && (fn == 0 || s.hasVf fn)

/-! ### The BAR4 aperture (R761 to R765) -/

/-- A BAR4 access met an address that is not mapped (R762). -/
def State.apertureFault (s : State) (p : Nat) : State := (s.bump kApertureFaults).bump (kMapFaults p)

/-- One line of a BAR4 read: its completion, poisoned where the line met an uncorrectable error, or zeros at an address that
is not mapped.  Answers whether every line so far was mapped. -/
def bar4ReadLine (p : Nat) (bad : Option Nat) (a : Bool × State) (x : Nat × List Byte) : Bool × State :=
  let s := a.2
  match s.translate p x.1 false with
  | (none, s) => (false, s.emit (.bar4Read p x.2 false))
  | (some pa, s) =>
    let s := s.mscTouch pa false
    let hit := match bad with | some b => b / 256 == pa / 256 | none => false
    if hit then
      (a.1, { s with free := s.free + x.2.length }.emit (.bar4Read p (freeBytes s.free x.2.length) true))
    else (a.1, s.emit (.bar4Read p (s.hbmRead pa x.2.length) false))

/-- One line of a BAR4 write. -/
def bar4WriteLine (p : Nat) (a : Bool × State) (x : Nat × List Byte) : Bool × State :=
  match a.2.translate p x.1 true with
  | (none, s) => (false, s)
  | (some pa, s) => (a.1, s.hbmPut p x.1 pa x.2)

/-- The outcome of a BAR4 access whose walk met an uncorrectable error on a table read (R765, R836). -/
def State.bar4Table (s : State) (pa : Nat) : State := (s.bump kApertureFaults).hbmError pa false

/-- A BAR4 read from READY on (R761, R762, R765). DEDUCED (log 90). -/
def State.bar4Read (s : State) (p off n : Nat) (bad tableBad : Option Nat) : State :=
  let lines := cutRows 256 (n + 1) (s.nat (kApertureBase p) + off) (List.replicate n 0)
  match tableBad with
  | some pa => lines.foldl (fun (s : State) x => s.emit (.bar4Read p x.2 true)) (s.bar4Table pa)
  | none =>
    let (ok, s) := lines.foldl (bar4ReadLine p bad) (true, s)
    let s := match bad with | some b => s.hbmError b false | none => s
    if ok then s else s.apertureFault p

/-- A BAR4 write from READY on (R761, R762, R765). DEDUCED (log 90). -/
def State.bar4Write (s : State) (p off : Nat) (l : List Byte) (tableBad : Option Nat) : State :=
  match tableBad with
  | some pa => s.bar4Table pa
  | none =>
    let (ok, s) := (cutRows 256 (l.length + 1) (s.nat (kApertureBase p) + off) l).foldl (bar4WriteLine p) (true, s)
    if ok then s.settleCuts else s.settleCuts.apertureFault p

/-- A BAR4 read before READY: the physical function's staging area from BOOT_WAIT on, and zeros elsewhere (R685, R763,
R769). -/
def State.bar4Early (s : State) (fn off n : Nat) : List Byte :=
  if fn = 0 ∧ s.stageOpen = true then s.stageRead off (min n (stagingBytes - off)) ++ List.replicate (n - (stagingBytes - off)) 0
  else List.replicate n 0

/-- BAR4_ACCESS (R755, R761 to R765, Table 19.5). -/
def execBar4Access (fn off : Nat) (req : Bar4Req) (s : State) : Host.Outcome State Fault Refusal :=
  if s.fnUp fn = false then .next s
  else match req with
    | .unsupported => .next (s.emit (.aer fn 1))
    | .read n bad tableBad =>
      if s.ready then .next (s.bar4Read fn off n bad tableBad)
      else .next (s.emit (.bar4Read fn (s.bar4Early fn off n) false))
    | .write l poisoned tableBad =>
      if poisoned then .next ((s.bump kPoisonRx).emit (.aer fn 0))
      else if s.ready then .next (s.bar4Write fn off l tableBad)
      else if fn = 0 then .next (s.stageWrite off l)
      else .next s

/-! ### Bus mastering and MSI-X (R770, R773 to R775) -/

/-- The pending messages of a function that may be sent go out, each once (R773). -/
def State.flushVecs (s : State) (fn : Nat) : State :=
  let f := s.fn fn
  if f.sends && !f.fnMask then
    let go := f.pendingVecs.filter fun v => f.unmasked.contains v
    let s := s.setFn fn { f with pendingVecs := f.pendingVecs.filter fun v => !f.unmasked.contains v }
    if s.linkDown then s else go.foldl (fun (s : State) v => s.emit (.msix fn v)) s
  else s

/-- The held memory writes of a function that may send go out in order (R774), or are lost while the link is down (R782). -/
def State.flushHeld (s : State) (fn : Nat) : State :=
  let f := s.fn fn
  if f.sends then
    let s := s.setFn fn { f with held := [] }
    f.held.foldl (fun (s : State) (x : Nat × List Byte) => s.hostWrite fn x.1 x.2) s
  else s

/-- Vectors of a function (R770). -/
def vectorCount (fn : Nat) : Nat := if fn = 0 then 2048 else 64

/-- MSIX_UNMASK (R773): a vector is unmasked, or, with none, the function's MSI-X Function Mask is cleared.
PRESUMED (log 15). -/
def execMsixUnmask (fn : Nat) (vec : Option Nat) (s : State) : Host.Outcome State Fault Refusal :=
  if s.fnUp fn = false then .next s
  else
    let f := s.fn fn
    match vec with
    | none => .next ((s.setFn fn { f with fnMask := false }).flushVecs fn)
    | some v =>
      if vectorCount fn ≤ v then .next s
      else .next ((s.setFn fn { f with unmasked := if f.unmasked.contains v then f.unmasked else f.unmasked ++ [v] }).flushVecs fn)

/-- BUS_MASTER_ENABLE (R774): Bus Master Enable is set, or D0 restored. -/
def execBusMasterEnable (fn : Nat) (d0 : Bool) (s : State) : Host.Outcome State Fault Refusal :=
  if s.fnUp fn then
    let f := s.fn fn
    .next (((s.setFn fn (if d0 then { f with d3hot := false } else { f with bme := true })).flushHeld fn).flushVecs fn)
  else .next s

/-- BUS_MASTER_DISABLE (R774): Bus Master Enable is cleared, or D3hot entered. -/
def execBusMasterDisable (fn : Nat) (d3 : Bool) (s : State) : Host.Outcome State Fault Refusal :=
  if s.fnUp fn then
    let f := s.fn fn
    .next (s.setFn fn (if d3 then { f with d3hot := true } else { f with bme := false }))
  else .next s

/-! ### VFs and resets (R767, R768, R781) -/

/-- A function's configuration and MSI-X state go back to their reset values; writes it holds stay held.
PRESUMED (log 15). DEDUCED (log 90). -/
def State.resetFn (s : State) (fn : Nat) : State := s.setFn fn { held := (s.fn fn).held }

/-- ABORT of a partition, where partitions exist. -/
def State.abortIfReady (s : State) (p : Nat) : State := if s.ready then s.abortPart p else s

/-- VF Enable changes to 0 (R768): every ACTIVE partition from 1 to 63 is aborted, and the VFs are gone. -/
def State.vfsOff (s : State) : State :=
  if s.nat kVfsEnabled = 0 then s
  else
    ((countFrom 1 63).foldl (fun (s : State) p => (s.abortIfReady p).resetFn p) s).setNat kVfsEnabled 0

/-- VF_ENABLE_SET (R767): VF Enable is set with NumVFs. DEDUCED (log 90). -/
def execVfEnableSet (numVfs : Nat) (s : State) : Host.Outcome State Fault Refusal :=
  if s.fnUp 0 = true ∧ s.nat kVfsEnabled = 0 ∧ numVfs ≤ 63 then .next (s.setNat kVfsEnabled numVfs) else .next s

/-- VF_ENABLE_CLEAR (R768). -/
def execVfEnableClear (s : State) : Host.Outcome State Fault Refusal :=
  if s.fnUp 0 then .next s.vfsOff else .next s

/-- FLR (R781): the function's partition is aborted and its PCIe state is reset; a PF reset also clears VF Enable, and in
BOOT_WAIT clears a host-bound staging area. DEDUCED (log 90). -/
def execFlr (fn : Nat) (s : State) : Host.Outcome State Fault Refusal :=
  if s.fnUp fn = false then .next s
  else
    let s := ((s.bump kFlrCount).abortIfReady fn).resetFn fn
    if fn = 0 then
      let s := s.vfsOff.ptmOff
      .next (if s.bootState = 1 ∧ s.nat kStageSource = 0xFF then s.emptyStage else s)
    else .next s

/-! ### The link (R782) -/

/-- DL_DOWN (R782): under RESET a warm chip reset; under CONTINUE the device runs on. -/
def execDlDown (s : State) : Host.Outcome State Fault Refusal :=
  if s.nat kPowerState ≠ 2 then .next s
  else if s.nat kLinkdownPolicy = 0 then .next (s.warmReset 2)
  else .next { s with linkDown := true }

/-- DL_UP (R782): upstream writes are no longer discarded. -/
def execDlUp (s : State) : Host.Outcome State Fault Refusal := .next { s with linkDown := false }

end Sys2Proof.Machine
end

