-- ==== Sys2Proof/Machine/Attention.lean ====
section
/-!
DEFINITION. Machine/Attention.lean: scores, masks, normalisation, the value product and the backward path.
-/
namespace Sys2Proof.Machine

/-! ### Scales and rows (R276, R282, R289) -/

/-- The scale of the page that holds a key, of one part; 1 for BF16 pages. -/
def State.pageScale (s : State) (d : Desc) (b tok head part : Nat) : Dy :=
  if s.kvFmt d.part = 2 then ⟨1, 0⟩
  else match d.pageOf b tok with
    | none => ⟨1, 0⟩
    | some (u, _) => fp16.finite (s.vaNatD d.part (s.scaleVa d.part u d.layer head part) 2)

/-- σ_K of a key (R276). -/
def State.sigmaK (s : State) (d : Desc) (t : Tile) (tok : Nat) : Dy :=
  if d.kvSrc then s.pageScale d t.b tok (d.kvHead t.h) 0 else ⟨1, 0⟩

/-- σ_V of a key (R289). -/
def State.sigmaV (s : State) (d : Desc) (t : Tile) (tok : Nat) : Dy :=
  if d.foldV && d.kvSrc then s.pageScale d t.b tok (d.kvHead t.h) 1 else ⟨1, 0⟩

/-- σ_max: the largest σ_V among the pages a descriptor covers (R289). -/
def State.sigmaMax (s : State) (d : Desc) : Dy :=
  if d.foldV && d.kvSrc && s.kvFmt d.part != 2 then
    (d.prog.pages.flatMap fun x => (countFrom 0 d.hpc).map fun h =>
      fp16.finite (s.vaNatD d.part (s.scaleVa d.part x.2.1 d.layer (d.kvHead h) 1) 2)).foldl Dy.max ⟨0, 0⟩
  else ⟨1, 0⟩

/-- Whether a mask removes an output of the open tile (R278). -/
def Desc.masked (d : Desc) (t : Tile) (row col : Nat) : Bool :=
  (d.causal && decide (d.posOff t.b + row < col)) ||
  (d.padmask && decide (d.posOff t.b + d.len t.b ≤ col)) ||
  (d.bitmap &&
    let i := row / 64 * ((d.bN + 4095) / 4096) + col / 4096
    match d.prog.mask.find? fun x => x.1 == i with
    | some (_, w) => !bitOf w (col / 64 % 64)
    | none => false)

/-! ### Score codes (Table 7.3, R285) -/

/-- The −∞ code of a score format. -/
def negInfCode (lns : Bool) : Nat := if lns then 4095 else 0xFC00

/-- A score narrowed to its format: its code, and whether it overflowed.  LNS12 has no code for a NaN, which counts as −∞
(R285); a score of −∞ takes the −∞ code, and one of +∞ the largest finite code, as an overflow. DEDUCED (log 66). -/
def scoreCode (lns : Bool) (r : Rnd) (v : Fv) : Nat × Bool :=
  if lns then
    match v with
    | .nan => (4095, false)
    | .inf true => (4095, false)
    | .inf false => (2046, true)
    | .fin _ x =>
      if x.m = 0 then (0, false)
      else
        let (c, lim) := lns12.code 2046 (decide (x.m < 0)) (lns12.level x 8)
        (c, lim || decide (510 ≤ x.floorLog 64))
  else
    match v with
    | .nan => (fp16.someNan 1, false)
    | .inf s => (fp16.infCode s, false)
    | .fin s x => fp16.narrow r s x

/-- A decoded score: none is −∞; the flag says that it counts in NONFINITE_SCORES (R285). -/
def decodeScore (lns : Bool) (c : Nat) : Option Dy × Bool :=
  if c = negInfCode lns then (none, false)
  else if lns then
    let l := lns12.l c
    if l = 0 then (some ⟨0, 0⟩, false)
    else
      let x := pow2Fix ((l : Int) - 1536) 6
      (some (if lns12.neg c then x.neg else x), false)
  else match fp16.decode c with
    | .nan => (none, true)
    | .inf _ => (some ⟨65504, 0⟩, true)
    | .fin _ x => (some x, false)

/-- Codes of a row in which masked outputs have the −∞ code and the others take the given codes in order. -/
def fillMasked (neg : Nat) : List Bool → List Nat → List Nat
  | [], _ => []
  | true :: m, cs => neg :: fillMasked neg m cs
  | false :: m, c :: cs => c :: fillMasked neg m cs
  | false :: m, [] => neg :: fillMasked neg m []

/-- The score of an accumulator before narrowing (R275). -/
def State.score (s : State) (d : Desc) (t : Tile) (col : Nat) (v : Int) : Fv :=
  fvMul (fvMul (d.accValue v) (fp32.decode d.scoreScale)) (.fin false (s.sigmaK d t col))

/-! ### ATTN_SCORE (R275 to R283) -/

/-- What the narrowing of scores counts: overflows (R217, Table 7.3), and NaNs that LNS12 writes as −∞ (R285). -/
def State.countScores (s : State) (d : Desc) (vs : List Fv) (cs : List (Nat × Bool)) : State :=
  let excess := (cs.filter fun x => x.2).length
  let s := if d.scoreLns then s.add (kNonfiniteScores d.part) (vs.filter (· == .nan)).length else s
  if excess = 0 then s
  else
    let s := s.bump (kDrainOverflows d.part) excess
    if d.scoreLns then s else s.flagDesc d.id 0

/-- Writes one row of scores of the open tile. -/
def State.scoreRow (s : State) (d : Desc) (c : Nat) (t : Tile) (r : Nat) (accs : List (Int × Nat)) : Bool × State :=
  let row := d.row0 t + r
  match d.rowAt 104 t.bb row with
  | none => (false, s.endDesc d.id stTileIllegal)
  | some a =>
    let cols := countFrom (d.col0 t) (d.cols t)
    let m := cols.map fun col => d.masked t row col
    let live := ((cols.zip accs).filter fun x => !d.masked t row x.1)
    let (rs, s) := s.drawN d.id c 0 live.length
    let vs := live.map fun x => s.score d t x.1 x.2.1
    let cs := (vs.zip rs).map fun (v, rnd) => scoreCode d.scoreLns rnd v
    (s.countScores d vs cs).issueCodes d (a.plus (d.col0 t * d.scoreBits / 8)) d.scoreBits
      (fillMasked (negInfCode d.scoreLns) m (cs.map (·.1)))

/-- Runs over the live rows of a tile until one ends the descriptor. -/
def eachRow (n : Nat) (s : State) (f : State → Nat → Bool × State) : Bool × State :=
  (countFrom 0 n).foldl (fun (acc : Bool × State) r => if acc.1 then f acc.2 r else acc) (true, s)

/-- One ATTN_SCORE tile. DEDUCED (log 66). -/
def State.runScore (s : State) (d : Desc) (c : Nat) (o : RunObs) : State :=
  match d.curTile with
  | none => s
  | some t => s.runPasses d c t o fun s l => eachRow (d.rows t) s fun s r => s.scoreRow d c t r (l.getD r [])

/-! ### P (R288 to R292, Table 7.6) -/

/-- P's tag for a σ_max that is not zero: WIDTH and EXP (Table 7.6). -/
def Desc.pTag (d : Desc) (sigma : Dy) : Nat × Int :=
  if d.pFmt = 0 then (d.pA, sigma.msb + 1 - (widthBits d.pA : Int) + 1)
  else if d.pFmt = 1 then (7, lnsExp sigma) else (9, 0)

/-- P's tag; where every covered V scale slot is still unfixed the spec states no exponent, and EXP is a free value. -/
def State.pTagNow (s : State) (d : Desc) : Nat × Int :=
  let x := s.sigmaMax d
  if x.m = 0 then ((d.pTag ⟨1, 0⟩).1, if d.pFmt = 2 then 0 else sext 8 (Config.freeByte s.free).toNat) else d.pTag x

/-- The code of a P value (R288). -/
def Desc.pCode (d : Desc) (e : Int) (r : Rnd) (x : Dy) : Nat :=
  if d.pFmt = 0 then (stageCode d.pA e r (.fin false x)).1
  else if d.pFmt = 1 then (stageCode 7 e r (.fin false x)).1 else (bf16.narrow r false x).1

/-- 2^(s − m − λ) × σ, with m and λ as FP32 codes (R288). -/
def pValue (sc : Dy) (m lam : Nat) (sigma : Dy) : Dy :=
  ((sc.add (fp32.finite m).neg).add (fp32.finite lam).neg).pow2.mul sigma

/-- FP32 −∞. -/
def fp32NegInf : Nat := 0xFF800000

/-- Writes P's tag word, once for a descriptor (R289). -/
def State.writePTag (s : State) (d : Desc) : Bool × State :=
  match decodeAddr (d.at 136 8) with
  | none => (false, s.endDesc d.id stTileIllegal)
  | some a =>
    let (w, e) := s.pTagNow d
    let l := leBytes 8 (tagWord w e false false false false)
    if (s.sigmaMax d).m = 0 then s.takeFree.issue d a l else s.issue d a l

/-- The codes of P for the columns from `col0` on, given the row's decoded scores and statistics; a row without a maximum
takes zero codes (R292). -/
def State.pCodes (s : State) (d : Desc) (c : Nat) (t : Tile) (e : Int) (col0 : Nat) (scores : List (Option Dy))
    (m lam : Nat) : List Nat × State :=
  if m = fp32NegInf then (scores.map fun _ => 0, s)
  else
    let (rs, s) := s.drawN d.id c 0 scores.length
    (((scores.zip rs).zipIdx).map fun (x, i) =>
      match x.1 with
      | none => 0
      | some sc => d.pCode e x.2 (pValue sc m lam (s.sigmaV d t (col0 + i))), s)

/-! ### ATTN_NORM (R284 to R293, R300, R301) -/

/-- log2 of a row's Σ 2^(s − m) with 200 digits. -/
def exactLogsum (l : List Dy) (m : Dy) : Dy :=
  let sum := l.foldl (fun (a : Dy) x => a.add (x.add m.neg).pow2) ⟨0, 0⟩
  ⟨sum.logFix 200, -200⟩

/-- One log-add of the Normaliser, in units of 2^-40 above the row's maximum, none being −∞: its error is free within the bound of
Table 5.6, 2^-8. DESIGN CHOICE (log 22). -/
def logAdd (x y : Option Int) : Option Int :=
  let exact : Option Int := match x, y with
    | none, _ => y
    | _, none => x
    | some a, some b =>
      let top := max a b
      let gap := min a b - top
      some (if gap < -64 * 2 ^ 40 then top else top + ((Dy.ofInt 1).add (pow2Fix gap 40)).logFix 40)
  let err := Config.logAdd x y
  exact.map fun e => if err.natAbs + 2 ≤ 2 ^ 32 then e + err else e

/-- One level of the tree of log-adds: adjacent pairs are combined, and an unpaired last element is carried up. -/
def logPairs : List (Option Int) → List (Option Int)
  | x :: y :: t => logAdd x y :: logPairs t
  | l => l

/-- The balanced tree of log-adds over leaves in column order (R286). -/
def logTree : Nat → List (Option Int) → Option Int
  | 0, l => l.headD none
  | n + 1, l => if l.length ≤ 1 then l.headD none else logTree n (logPairs l)

/-- λ of a row as an FP32 code (R286, R287): what the tree forms where it lies within the bound of Table 5.6 for the row, else the
value itself, rounded. -/
def rowLogsum (scores : List (Option Dy)) (m : Dy) : Nat :=
  let x := exactLogsum (scores.filterMap id) m
  let leaf := fun (s : Dy) => (s.add m.neg).round .rne (-40)
  let y : Dy := ⟨(logTree scores.length (scores.map fun s => s.map leaf)).getD 0, -40⟩
  let c := (fp32.narrow .rne false y).1
  if (((fp32.finite c).add x.neg).abs).le ⟨(ceilLog2 scores.length : Nat), -8⟩ then c else (fp32.narrow .rne false x).1

/-- ROW_MAX and ROW_LOGSUM of a row (Table 7.5). -/
def rowStats (lns : Bool) (codes : List Nat) : Nat × Nat :=
  let scores := codes.map fun c => (decodeScore lns c).1
  match scores.filterMap id with
  | [] => (fp32NegInf, fp32NegInf)
  | x :: t =>
    let m := t.foldl Dy.max x
    ((fp32.narrow .rne false m).1, rowLogsum scores m)

/-- One row in FORWARD mode. -/
def State.normRow (s : State) (d : Desc) (c : Nat) (t : Tile) (e : Int) (r : Nat) : Bool × State :=
  let row := d.row0 t + r
  let n := d.liveRange d.bN t.b row
  match d.rowAt 104 t.bb row, decodeAddr (d.at 120 8) with
  | some a, some st =>
    match s.fetch d a ((n * d.scoreBits + 7) / 8) with
    | (none, s) => (false, s)
    | (some l, s) =>
      let codes := unpack d.scoreBits n l
      let dec := codes.map (decodeScore d.scoreLns)
      let s := s.bump (kNonfiniteScores d.part) (dec.filter fun x => x.2).length
      let (m, lam) := rowStats d.scoreLns codes
      let s := if m = fp32NegInf then s.bump (kEmptyRows d.part) else s
      let s := s.wrapAdd (kNormRows d.part)
      match s.issue d (st.plus (8 * (t.bb * d.bM + row))) (leBytes 4 m ++ leBytes 4 lam) with
      | (false, s) => (false, s)
      | (true, s) =>
        let (ps, s) := s.pCodes d c t e 0 (dec.map (·.1)) m lam
        s.issueCodes d a d.pCont ps
  | _, _ => (false, s.endDesc d.id stTileIllegal)

/-- ln 2 with `prec` digits. -/
def lnTwo : Dy := ⟨((countFrom 1 300).foldl (fun (a : Nat) (k : Nat) => a + (2 : Nat) ^ prec / (k * (2 : Nat) ^ k)) 0 : Nat), -(prec : Int)⟩

/-- Rounds a value to FP32, to nearest with ties to even. -/
def fvRound32 (v : Fv) : Fv :=
  match v with
  | .fin s x =>
    let (c, o) := fp32.narrow .rne s x
    if o then .inf (decide (x.m < 0)) else fp32.decode c
  | w => w

/-- The value of a code of P at the tag of an unfolded P (R300). -/
def Desc.pDecode (d : Desc) (c : Nat) : Dy :=
  if d.pFmt = 0 then ⟨sext (widthBits d.pA) c, d.plainPExp⟩
  else if d.pFmt = 1 then
    let l := lns8.l c
    if l = 0 then ⟨0, 0⟩
    else
      let x := pow2Fix ((l : Int) - 128 + 8 * d.plainPExp) 3
      if lns8.neg c then x.neg else x
  else bf16.finite c

/-- The code of a dS value in DS_FMT, and whether it overflowed. -/
def Desc.dsCode (d : Desc) (r : Rnd) (v : Fv) : Nat × Bool :=
  let f := if d.dsBf16 then bf16 else fp16
  match v with
  | .nan => (f.someNan (if d.dsBf16 then 3 else 1), false)
  | .inf s => (f.infCode s, false)
  | .fin s x => f.narrow r s x

/-- One row in GRAD mode (R300). DEDUCED (log 66). -/
def State.gradRow (s : State) (d : Desc) (c : Nat) (t : Tile) (r : Nat) : Bool × State :=
  let row := d.row0 t + r
  let n := d.liveRange d.bN t.b row
  let f := if d.dsBf16 then bf16 else fp16
  match d.rowAt 104 t.bb row, d.rowAt 128 t.bb row with
  | some a, some pa =>
    match s.fetch d pa ((n * d.pCont + 7) / 8) with
    | (none, s) => (false, s)
    | (some pl, s) =>
      match s.fetch d a (n * 2) with
      | (none, s) => (false, s)
      | (some dl, s) =>
        let ps := (unpack d.pCont n pl).map fun x => Fv.fin false (d.pDecode x)
        let dps := (unpack 16 n dl).map f.decode
        let delta := (ps.zip dps).foldl (fun (a : Fv) (x : Fv × Fv) => fvRound32 (fvAdd a (fvMul x.1 x.2)))
          (.fin false ⟨0, 0⟩)
        let (rs, s) := s.drawN d.id c 0 n
        let cs := ((ps.zip dps).zip rs).map fun (x, rnd) =>
          d.dsCode rnd (fvMul (fvMul (.fin false lnTwo) x.1) (fvAdd x.2 (fvNeg delta)))
        let excess := (cs.filter fun x => x.2).length
        let s := if excess = 0 then s else (s.bump (kDrainOverflows d.part) excess).flagDesc d.id 0
        (s.wrapAdd (kNormRows d.part)).issue d a (cs.flatMap fun x => leBytes 2 x.1)
  | _, _ => (false, s.endDesc d.id stTileIllegal)

/-- Cycles of the rows of an ATTN_NORM tile (R293, R301). DEDUCED (log 66). -/
def Desc.normCost (d : Desc) (t : Tile) : Nat :=
  (countFrom (d.row0 t) (d.rows t)).foldl (fun n r =>
    n + 8 + (if d.grad then 3 else 2) * ((d.liveRange d.bN t.b r + 63) / 64)) 0

/-- One ATTN_NORM tile. DEDUCED (log 66). -/
def State.runNorm (s : State) (d : Desc) (c : Nat) : State :=
  match d.curTile with
  | none => s
  | some t =>
    let first := !d.prog.seeded
    let lat := match decodeAddr (d.at 104 8) with | some a => readLatency d.core a true | none => 0
    let s := s.loadSeeds d c
    if s.runs d.id = false then s
    else
      let e := (s.pTagNow d).2
      let s := s.spend d.id ((if first then 16 + lat else 0) + d.normCost t)
      let (ok, s) := if first && !d.grad then s.writePTag d else (true, s)
      let (ok, s) := if ok then
          eachRow (d.rows t) s fun s r => if d.grad then s.gradRow d c t r else s.normRow d c t e r
        else (false, s)
      if ok then s.closeTile d c else s

/-! ### ATTN_SCORE_RECOMPUTE (R298) -/

/-- One row of a recomputed tile: the scores are narrowed to nearest and counted as ATTN_SCORE counts them, the Normaliser decodes
them (R285), and P is written from the saved statistics. -/
def State.recomputeRow (s : State) (d : Desc) (c : Nat) (t : Tile) (e : Int) (r : Nat) (accs : List (Int × Nat)) :
    Bool × State :=
  let row := d.row0 t + r
  match d.rowAt 104 t.bb row, decodeAddr (d.at 120 8) with
  | some a, some st =>
    match s.fetch d (st.plus (8 * (t.bb * d.bM + row))) 8 with
    | (none, s) => (false, s)
    | (some l, s) =>
      let n := min (d.cols t) (d.liveRange d.bN t.b row - d.col0 t)
      let cols := (countFrom (d.col0 t) n).zip accs
      let code := fun (x : Nat × Int × Nat) => scoreCode d.scoreLns .rne (s.score d t x.1 x.2.1)
      let dec := fun (x : Nat × Int × Nat) => decodeScore d.scoreLns (code x).1
      let live := cols.filter fun x => !d.masked t row x.1
      let scores := cols.map fun x => if d.masked t row x.1 then none else (dec x).1
      let s := s.countScores d (live.map fun x => s.score d t x.1 x.2.1) (live.map code)
      let s := s.add (kNonfiniteScores d.part) (live.filter fun x => (dec x).2).length
      let (ps, s) := s.pCodes d c t e (d.col0 t) scores (byteField l 0 4) (byteField l 4 4)
      s.issueCodes d (a.plus (d.col0 t * d.pCont / 8)) d.pCont ps
  | _, _ => (false, s.endDesc d.id stTileIllegal)

/-- One ATTN_SCORE_RECOMPUTE tile. DEDUCED (log 66). -/
def State.runRecompute (s : State) (d : Desc) (c : Nat) (o : RunObs) : State :=
  match d.curTile with
  | none => s
  | some t =>
    let first := !d.prog.seeded
    s.runPasses d c t o fun s l =>
      let e := (s.pTagNow d).2
      let (ok, s) := if first then s.writePTag d else (true, s)
      if ok then eachRow (d.rows t) s fun s r => s.recomputeRow d c t e r (l.getD r []) else (false, s)

/-! ### ATTN_PV (R294 to R297) -/

end Sys2Proof.Machine
end

