-- ==== Sys2Proof/Machine/Runs.lean ====
section
/-!
DEFINITION. Machine/Runs.lean: the output regions that a stopped descriptor leaves undefined, and the meanings of the
commands that run a descriptor on its core.
-/
namespace Sys2Proof.Machine

/-! ### Output regions of a stopped descriptor (R102, R507, R525) -/

/-- The tiles that a descriptor has not finished, in the order of its positions. -/
def Desc.tilesLeft (d : Desc) : List Tile :=
  ((countFrom d.prog.tile (d.positions + 1)).filterMap fun n => (d.owned n).map d.tileAt).filter fun t => !d.skipped t

/-- A range, where its address decodes. -/
def outRange (a : Option Addr) (off n : Nat) : List (Addr × Nat) :=
  match a with
  | some a => [(a.plus off, n)]
  | none => []

/-- The range records of a tile that the descriptor has not written. -/
def Desc.rangesLeft (d : Desc) (t : Tile) : List (Addr × Nat) :=
  if d.rangeEn = false then []
  else
    let blk := (countFrom 0 (d.rows t)).map fun r => t.bb * ((d.bM + 63) / 64) + (d.row0 t + r) / 64
    (blk.eraseDups.filter fun i => !d.prog.recs.contains i).flatMap fun i => outRange (d.rangeAddr.map .store) (8 * i) 8

/-- The ranges a draining tile writes in row `r`. -/
def Desc.drainRange (d : Desc) (t : Tile) (r : Nat) : List (Addr × Nat) :=
  let a := d.outAt t.bb (d.row0 t + r)
  if d.outFmt = 2 then
    [(.va (d.partialAt t r), 8 + d.cols t * (if d.isWide then 8 else 4))]
  else
    let n := if d.outFmt = 3 then 4 else 2
    [(.va (a + d.col0 t * n), d.cols t * n)]

/-- The container bits that the range records of a QUANTISE select now. -/
def State.quantCont (s : State) (d : Desc) : Nat :=
  match decodeSAddr (d.at 84 4) with
  | some a => containerBits (selectWidth d.prog.entry ((s.readRanges d a).1.getD [])).1
  | none => 16

/-- The ranges an unfinished tile of a descriptor would write. -/
def State.tileRanges (s : State) (d : Desc) (t : Tile) : List (Addr × Nat) :=
  let rows := countFrom 0 (d.rows t)
  let op := d.opcode
  let row := fun (off r : Nat) => d.rowAt off t.bb (d.row0 t + r)
  if op = 0x10 ∨ op = 0x23 then rows.flatMap (d.drainRange t) ++ d.rangesLeft t
  else if op = 0x11 then
    let w := s.quantCont d
    (rows.map fun r => (Addr.va (d.outAt t.bb (d.row0 t + r) + d.col0 t * w / 8), (d.cols t * w + 7) / 8)) ++
      outRange ((decodeSAddr (d.at 80 4)).map .store) 0 8
  else if op = 0x20 then
    rows.flatMap fun r => outRange (row 104 r) (d.col0 t * d.scoreBits / 8) ((d.cols t * d.scoreBits + 7) / 8)
  else if op = 0x21 then
    (rows.flatMap fun r => outRange (row 104 r) (d.col0 t * d.pCont / 8) ((d.cols t * d.pCont + 7) / 8)) ++
      (if d.prog.seeded then [] else outRange (decodeAddr (d.at 136 8)) 0 8)
  else if op = 0x22 then
    if d.grad then rows.flatMap fun r => outRange (row 104 r) 0 (d.bN * 2)
    else
      (rows.flatMap fun r => outRange (row 104 r) 0 ((d.bN * d.pCont + 7) / 8) ++
        outRange (decodeAddr (d.at 120 8)) (8 * (t.bb * d.bM + d.row0 t + r)) 8) ++
      (if d.prog.seeded then [] else outRange (decodeAddr (d.at 136 8)) 0 8)
  else
    rows.flatMap fun r => (d.headRuns t).flatMap fun (lo, n) =>
      match d.kvPlace t r lo with
      | some (u, us, tok, h, dim) =>
        [0, 1].map fun part => (Addr.va (s.elemVa d.part u us d.layer h part tok dim), n * s.kvElem d.part)
      | none => []

/-- The ranges that a descriptor would still have written. DEDUCED (log 60). -/
def State.outputsLeft (s : State) (d : Desc) : List (Addr × Nat) :=
  let op := d.opcode
  if tiledOp op then d.tilesLeft.flatMap (s.tileRanges d)
  else if op = 0x12 then
    match decodeAddr (d.at 16 8), (decodeAddr (d.at 32 8)) with
    | some src, some dst =>
      match ((s.readPartials d src (d.at 40 4)).1.bind reducePartials) with
      | some (p, _) => [(dst, p.bytes.length)]
      | none => []
    | _, _ => []
  else if op = 0x13 then outRange ((decodeSAddr (d.at 16 4)).map .store) 0 (d.at 20 4)
  else if op = 0x14 then
    match decodeSAddr (d.at 20 4) with
    | some a => [(.store a, d.at 24 2 * a.row)]
    | none => []
  else if op = 0x15 then
    (countFrom 0 (d.at 36 4)).flatMap fun i => outRange (decodeAddr (d.at 24 8)) (i * d.at 44 4) (d.at 32 4)
  else if op = 0x16 then
    let edges := (countFrom 0 8).map fun k => s.nat (kBucketEdge d.part k)
    let n := leNat ((s.vaRead d.part (d.at 16 8) 4).getD [])
    let l := (s.vaRead d.part (d.at 16 8 + 8) (8 * min n 4096)).getD []
    if n = 0 ∨ 4096 < n ∨ l = [] then []
    else
      (batchPlan (d.at 24 8) edges ((countFrom 0 n).map fun q => (byteField l (8 * q) 4, byteField l (8 * q + 4) 4))).map
        fun x => (.va (d.at 24 8 + x.1), x.2.length)
  else []

/-- A row or line of a partition's output becomes undefined; by R6 nothing outside the partition does.
DEDUCED (log 60). -/
def State.undefineRow (s : State) (p : Nat) (a : Addr) (n : Nat) : State :=
  let l := freeBytes s.free n
  let t := { s with free := s.free + n }
  match a with
  | .store x => if s.filterOk p x then t.storeWrite x l else s
  | .va v => (t.vaWrite p v l).2

/-- Ranges of a partition's output become undefined. -/
def State.undefineAll (s : State) (p : Nat) (l : List (Addr × Nat)) : State :=
  l.foldl (fun s x => (cutRows x.1.row (x.2 + 1) x.1.pos (List.replicate x.2 (0 : Byte))).foldl (fun (s : State) y =>
    s.undefineRow p (x.1.at y.1) y.2.length) s) s

/-- The entries of the open tile of a product descriptor become undefined. DEDUCED (log 60). -/
def State.undefineAcc (s : State) (d : Desc) : State :=
  match s.descCore d with
  | some c =>
    if productOp d.opcode && d.prog.tileOpen then
      let n := d.tm * d.tn * d.accEntries
      (countFrom 0 n).foldl (fun (s : State) i =>
        { s with free := s.free + 4 }.accPut c (d.asBase + i) (Config.freeByte s.free ++ Config.freeByte (s.free + 1) ++
          Config.freeByte (s.free + 2) ++ Config.freeByte (s.free + 3))) s
    else s
  | none => s

/-- A stopped descriptor leaves what it has not written undefined (R102, R507). DEDUCED (log 60). -/
def State.tear (s : State) (id : Nat) : State :=
  match s.desc? id with
  | none => s
  | some d => (s.undefineAcc d).undefineAll d.part (s.outputsLeft d)

/-- A descriptor that has just met an unmapped address leaves what it has not written undefined (R525). -/
def State.tearTorn (s : State) (id : Nat) : State :=
  match s.desc? id with
  | none => s
  | some d => if d.torn then (s.tear id).modDesc id fun d => { d with torn := false } else s

/-! ### Meanings -/

/-- FILL (R134). -/
def execFill (id : Nat) (o : RunObs) (s : State) : Host.Outcome State Fault Refusal :=
  .next ((s.runOn id [0x13] o State.runFill).tearTorn id)

/-- COPY (R136). -/
def execCopy (id : Nat) (o : RunObs) (s : State) : Host.Outcome State Fault Refusal :=
  .next ((s.runOn id [0x14] o State.runCopy).tearTorn id)

/-- TRANSFER (R139); the spec bounds its cycles only (R140), so that they come with the command. -/
def execTransfer (id : Nat) (o : RunObs) (s : State) : Host.Outcome State Fault Refusal :=
  .next ((s.runOn id [0x15] o fun s d _ => s.runTransfer d o.waitCc).tearTorn id)

/-- BOUNDS_LANDED (R239). -/
def execBoundsLanded (id : Nat) (o : RunObs) (s : State) : Host.Outcome State Fault Refusal :=
  .next ((s.runWhen id tiledOps o (fun _ d => !d.prog.boundsLanded) fun s d _ => s.landBounds d o.waitCc).untear id)

/-- TILE_START (R191). -/
def execTileStart (o : TileObs) (s : State) : Host.Outcome State Fault Refusal :=
  .next ((s.runWhen o.id tiledOps o.obs (fun s d => s.tileDue d && !s.allocBlocked d) fun s d c =>
    s.startTile d c o.obs.waitCc).tearTorn o.id)

/-- OPERAND_FETCH_LANDED (R250 to R252): the operands of a tile that waits for them land, and the wait counts in the cycles and
in OPFETCH_WAIT_CC; or, while a tile runs, those of the next. -/
def execOperandFetchLanded (id : Nat) (o : RunObs) (s : State) : Host.Outcome State Fault Refusal :=
  .next ((s.runWhen id tiledOps o (fun _ d => d.prog.tileOpen) fun s d c =>
    if d.prog.fetched then s.prefetch d
    else match d.curTile with
      | none => s
      | some t => ((s.spend id o.waitCc).wrapAdd (kOpfetchWaitCc c) o.waitCc).landTile d t).tearTorn id)

/-- MATMUL (R186): the open tile. -/
def execMatmul (id : Nat) (o : RunObs) (s : State) : Host.Outcome State Fault Refusal :=
  .next ((s.runWhen id [0x10] o State.runDue fun s d c => s.runDrain d c o).tearTorn id)

/-- QUANTISE (R199): the open tile. -/
def execQuantise (id : Nat) (o : RunObs) (s : State) : Host.Outcome State Fault Refusal :=
  .next ((s.runWhen id [0x11] o State.runDue fun s d c => s.runQuantise d c).tearTorn id)

/-- REDUCE (R213). -/
def execReduce (id : Nat) (o : RunObs) (s : State) : Host.Outcome State Fault Refusal :=
  .next ((s.runOn id [0x12] o fun s d _ => s.runReduce d o.waitCc).tearTorn id)

/-- BUCKET_FORM (R261). -/
def execBucketForm (id : Nat) (o : RunObs) (s : State) : Host.Outcome State Fault Refusal :=
  .next ((s.runOn id [0x16] o fun s d _ => s.runBucketForm d o.waitCc).tearTorn id)

/-- ATTN_SCORE (R275): the open tile. -/
def execAttnScore (id : Nat) (o : RunObs) (s : State) : Host.Outcome State Fault Refusal :=
  .next ((s.runWhen id [0x20] o State.runDue fun s d c => s.runScore d c o).tearTorn id)

/-- ATTN_NORM (R286): the open tile. -/
def execAttnNorm (id : Nat) (o : RunObs) (s : State) : Host.Outcome State Fault Refusal :=
  .next ((s.runWhen id [0x22] o State.runDue fun s d c => s.runNorm d c).tearTorn id)

/-- ATTN_SCORE_RECOMPUTE (R298): the open tile. -/
def execAttnScoreRecompute (id : Nat) (o : RunObs) (s : State) : Host.Outcome State Fault Refusal :=
  .next ((s.runWhen id [0x21] o State.runDue fun s d c => s.runRecompute d c o).tearTorn id)

/-- ATTN_PV (R294): the open tile. -/
def execAttnPv (id : Nat) (o : RunObs) (s : State) : Host.Outcome State Fault Refusal :=
  .next ((s.runWhen id [0x23] o State.runDue fun s d c => s.runDrain d c o).tearTorn id)

/-- WALK_LANDED (R319). -/
def execWalkLanded (id : Nat) (o : RunObs) (s : State) : Host.Outcome State Fault Refusal :=
  match s.desc? id with
  | none => .next s
  | some d =>
    if d.ended || d.prog.walked then .next s
    else if d.opcode = 0x31 then
      let s := s.observe o
      .next { (if o.tableBad then s.endDesc id stEcc else s.landRelease d) with errs := [] }
    else .next ((s.runWhen id tiledOps o (fun _ d => d.walks && d.prog.boundsLanded) fun s d _ =>
      s.landWalk d o.waitCc).untear id)

/-- KV_APPEND (R325): the open tile. -/
def execKvAppend (id : Nat) (o : RunObs) (s : State) : Host.Outcome State Fault Refusal :=
  .next ((s.runWhen id [0x30] o (fun s d => s.runDue d && !s.appendBlocked d) fun s d c => s.runAppend d c).tearTorn id)

/-- ABORT_STOP (R503): a committed descriptor of an aborting object ends with ABORTED; its signal fence breaks, and its
object's uncommitted descriptors and fences are dealt with (R504, R506). -/
def execAbortStop (id : Nat) (s : State) : Host.Outcome State Fault Refusal :=
  match s.desc? id with
  | none => .next s
  | some d =>
    match s.aborts.find? fun j => j.rings.contains d.ring with
    | none => .next s
    | some j =>
      let s := s.abortDrop j
      if d.ended then .next s
      else
        let s := ((s.cutTile d).endDesc id stAborted).tear id
        match d.signal? with
        | some f => .next (s.breakFence f)
        | none => .next s

end Sys2Proof.Machine
end

