-- ==== Sys2Proof/Machine/Frame.lean ====
section
/-!
DEFINITION. Machine/Frame.lean: the frame boundary, the step, overrun, and the maintenance window.
-/
namespace Sys2Proof.Machine

/-! ### The frame boundary -/

/-- Drops the cached translations of a partition, and ends its MAP_SYNC (R526). -/
def State.syncMap (s : State) (p : Nat) : State :=
  { s with tlb := Tbl.drop (fun k => k / 2 ^ 32 == p) s.tlb }.wrapAdd (kMapSync p) 1

/-- A partition that is not RUNNING keeps no slip: its rings' next commits count from the frames as they run (R105). -/
def State.endSlip (s : State) (p : Nat) : State :=
  let n := Tbl.get 0 s.slips p
  if n = 0 ∨ (s.partState p = 1 ∧ s.partRun p = 1) then s
  else
    let s := (countFrom 0 128).foldl (fun (s : State) r =>
      let x := s.ring r
      if s.ringPart r = p ∧ x.lastCommit.isSome then s.setRing r { x with lastCommit := x.lastCommit.map (· + n) } else s) s
    { s with slips := Tbl.set 0 s.slips p 0 }

/-- What each frame begins with beside the timebase: budgets start again, entries take the values written in the last frame
(R208, R385, R526, R574, R747). DEDUCED (log 52). -/
def State.frameStart (s : State) : State :=
  let s := s.mapSyncs.foldl (fun s p => s.syncMap p) { s with mapSyncs := [] }
  let debt := decide (s.nat kScrubDebtMax < s.nat kScrubDebt)
  let s := { s with live := [], sporBytes := 0, sporReads := 0, tb := { s.tb with debtWindow := debt } }
  (countFrom 0 64).foldl (fun s p => s.endSlip p) s

/-- Whether a descriptor is in flight, as the idle frame of R89 asks: collectives do not count (R453). -/
def State.anyInflight (s : State) : Bool := s.inflight.any fun d => d.opcode != 0x50 && !d.completed

/-- The issue window of a frame (R543, R545): the commits are made, and the frame is not idle where a descriptor was in flight
or committed (R89); `from_` is the next descriptor number before them. -/
def State.openFrame (s : State) (from_ : Nat) : State :=
  { s with skips := [], tb := { s.tb with busy := s.anyInflight || s.nextId != from_, window := .compute } }

/-- FRAME_BOUNDARY (R67, R543): at the end of the maintenance window (R45) the timebase turns, markers go out, and the commits
of the issue window are made.  Before READY frames run with no work (Table 17.1); without the die there is no frame. -/
def execFrameBoundary (o : BoundaryObs) (s : State) : Host.Outcome State Fault Refusal :=
  if s.dieUp = false ∨ s.tb.window ≠ .maintenance then .next s
  else if s.ready then
    let s := (s.countSlack.timingTurn o).sendMarkers.frameStart
    .next (s.commitPass.openFrame s.nextId)
  else
    let s := (s.timingTurn o).sendMarkers
    .next { s with tb := { s.tb with window := .compute } }

/-! ### The step (R90, R91, R834) -/

/-- The frame number in which a step of `off` ns lands and the position there, in ns: the reference's phase in its own frame,
counted in the new geometry from an armed SWITCH_FRAME on (R91). -/
def State.stepLanding (s : State) (off : Nat) : Nat × Nat :=
  let f := s.frameNs
  let next := s.frameNo + 1
  match s.tb.armed with
  | none => (next + off / f, off % f)
  | some g =>
    let g' := g.getD 0 0 * 256
    let k := s.nat kSwitchFrame - next
    if s.nat kSwitchFrame ≤ s.frameNo ∨ off < k * f then (next + off / f, off % f)
    else (next + k + (off - k * f) / max g' 1, (off - k * f) % max g' 1)

/-- The offset of the selected reference measured at the end of an idle frame: of SYNC_IN the phase is taken modulo the frame,
with the frames by which the numbering source differs (R88, R834). -/
def State.stepOffset (s : State) (off : Int) : Int :=
  if s.tb.selected = 1 then s.phaseMod off + s.tb.numGap * (s.frameNs : Nat) else off

/-- The offsets that are held, after a step forward by `off` ns. -/
def State.shiftOffsets (s : State) (off : Int) : State :=
  let sub := fun (x : Option Int) => x.map (· - off)
  let s := { s with tb := { s.tb with syncOff := sub s.tb.syncOff, ptmOff := sub s.tb.ptmOff, numGap := 0, returning := none,
                                      lockRun := 0, overRun := 0 } }
  (countFrom 0 16).foldl (fun (s : State) n =>
    if (s.port n).mkOff.isSome ∨ (s.port n).mkNumber.isSome
    then s.setPort n { s.port n with mkOff := sub (s.port n).mkOff, mkNumber := none } else s) s

/-- A step forward (R90, R91, R93): the idle frame ends, DEV_TIME_NS and the frame generator move by `off`, and the frame it
lands in runs only what is left of it, with no commit.  NUMBER_VALID stays as it was; no marker and no SYNC_OUT pulse goes
out, since the step frame begins inside a frame of the reference (R71, R72).  A step that lands in the last sixteenth of
its frame lands in the maintenance window. DESIGN CHOICE (log 97). DESIGN CHOICE (log 98). -/
def State.stepForward (s : State) (off : Nat) : State :=
  let ns := s.frameNs - s.tb.startNs
  let (n, pos) := s.stepLanding off
  let base : Int := s.tb.base + (s.frameNs : Nat) - (pos : Nat)
  let geo := s.geometry
  let s := (s.countSlack.countRefs ns).shiftOffsets off
  let s := (s.wrapAdd kDevTimeNs (ns + off)).setNat kFrameNumber (n % 2 ^ 48 + 2 ^ 63 * b2n s.numbered)
  let s := (s.setNat kStepPending 0).timingEvent 5
  let s := { s with tb := { s.tb with ticks := s.tb.ticks + 1, base := base, startNs := pos, before := geo } }.frameStart
  let window : FrameWindow := if 15 * s.frameNs ≤ 16 * pos then .maintenance else .compute
  let s := s.estimate
  { s with skips := [], tb := { s.tb with busy := s.anyInflight, window := window } }

/-- STEP_DONE (R90, R91, R834): at the end of an idle frame a pending step is decided again by the offset measured then; it is
taken, or it is cleared and the offset handled as a new one.  `refFrame` is the number of the frame in which the reference
stands by that measurement, the one that the step lands in (log 2). -/
def execStepDone (offset : Int) (refFrame : Nat) (s : State) : Host.Outcome State Fault Refusal :=
  if s.nat kStepPending = 0 ∨ s.tb.busy = true ∨ s.tb.selected = 0 ∨ s.tb.window ≠ .maintenance then .next s
  else
    let off := s.stepOffset offset
    if 1000 < off ∧ refFrame ≠ (s.stepLanding off.toNat).1 % 2 ^ 48 then .next s
    else
      let s := s.setReg kOffsetNs (i32Word off)
      if 1000 < off then .next (s.stepForward off.toNat) else .next (s.offsetReturn off)

/-! ### Overrun (R95 to R106) -/

/-- Whether a descriptor that waits at a slot in recovery is exempt (R712). -/
def State.waitsAtSlot (s : State) (d : Desc) : Bool := d.deferred && s.recov.any fun r => r.part == d.part

/-- The descriptors of a partition that have not completed by the last cycle of the compute window (R95): those that run on a
core or walk pages and have not ended, but for those of a slot in recovery (R712, R718) and those that a forced abort is
stopping (R503); collectives never overrun (R453). DEDUCED (log 55). -/
def State.overrunDescs (s : State) (p : Nat) : List Desc :=
  s.inflight.filter fun d =>
    d.part == p && (coreRun d.opcode || d.opcode == 0x31) && !d.ended && !d.completed &&
    !(coreRun d.opcode && s.slotStopped d.core.1 d.core.2) && !s.waitsAtSlot d &&
    !(s.aborts.any fun j => j.rings.contains d.ring)

/-- Whether a partition belongs to a collective group that spans more than one device (R97). -/
def State.spansDevices (s : State) (p : Nat) : Bool :=
  (countFrom 0 32).any fun g =>
    let w := s.nat (kGroupDef g)
    gKind w != 0 && gPart w == p && (decide (1 < (s.members w).n) || decide (1 < gPlanes w))

/-- Stops a descriptor at the last cycle of the compute window, and leaves the rest of its output undefined (R99, R102); the
passes that its open tile has run count (R187). -/
def State.stopDesc (s : State) (st : Nat) (d : Desc) : State := ((s.cutTile d).endDesc d.id st).tear d.id

/-- HALT_PARTITION (R99 to R101): what overran ends with FRAME_OVERRUN; the collectives, which do not overrun, with ABORTED.
DEDUCED (log 55). -/
def State.overrunHalt (s : State) (p : Nat) (l : List Desc) : State :=
  let s := l.foldl (fun s d => s.stopDesc stFrameOverrun d) s
  (s.abortCollectives p fun _ => true).haltPart p 2

/-- DEFER (R104, R105): what overran keeps its state and will complete with DEFERRED, and the partition slips a frame.
DEDUCED (log 55). -/
def State.overrunDefer (s : State) (p : Nat) (l : List Desc) : State :=
  let s := l.foldl (fun (s : State) d => (s.flagDesc d.id 3).modDesc d.id fun d => { d with overran := true }) s
  { s with slips := Tbl.set 0 s.slips p (Tbl.get 0 s.slips p + 1),
           skips := if s.skips.contains p then s.skips else s.skips ++ [p] }

/-- The overrun of one partition. DEDUCED (log 55). -/
def State.overrunPart (s : State) (p : Nat) : State :=
  let l := s.overrunDescs p
  if l = [] then s
  else
    let s := (s.bump (kOverrunCount p) l.length).bump kOverrunTotal l.length
    if s.nat (kOverrunPolicy p) = 0 ∨ s.spansDevices p = true ∨ (l.any (·.overran)) = true then s.overrunHalt p l
    else s.overrunDefer p l

/-- Whether a descriptor of any partition has overrun. -/
def State.anyOverrun (s : State) : Bool := (countFrom 0 64).any fun p => s.overrunDescs p != []

/-- OVERRUN (R95): the last cycle of the compute window passes with descriptors still running; the compute window is over. -/
def execOverrun (s : State) : Host.Outcome State Fault Refusal :=
  if s.tb.window = .compute ∧ s.anyOverrun = true then
    let s := (countFrom 0 64).foldl (fun s p => s.overrunPart p) s
    .next { s with tb := { s.tb with window := .closed } }
  else .next s

/-! ### The maintenance window (R745 to R748) -/

/-- The banks that hold a WEIGHT sector: each owes one bank-row a frame (R746). DEDUCED (log 56). -/
def State.weightBanks (s : State) : List Nat :=
  ((countFrom 0 2304).filter fun k => fld (s.reg (kLsWeightMap (k / 16))) (4 * (k % 16) + 3) (4 * (k % 16)) != 0) ++
  ((countFrom 0 512).filter fun k =>
    fld (s.reg (kFsWeightMap (k / 32) (k % 32 / 8))) (8 * (k % 8) + 7) (8 * (k % 8)) != 0).map (2304 + ·)

/-- The place of a bank-row: its first protected unit, its units, and whether it lies in a WEIGHT sector. -/
def State.bankRow (s : State) (x : Nat × Nat) : Nat × Nat × Bool :=
  if x.1 < 2304 then
    let off := x.1 % 16 * 65536 + x.2 * 256
    (lsUnit (x.1 / 16) off, 32, s.bit (kLsWeightMap (x.1 / 16)) (off / 16384))
  else
    let f := (x.1 - 2304) / 32
    let off := (x.1 - 2304) % 32 * 131072 + x.2 * 512
    (fsUnit f off, 64, s.bit (kFsWeightMap f (off / 2 ^ 20)) (off / 16384 % 64))

/-- Lichen scrubs a bank-row: corrected words are counted and rewritten, and uncorrectable ones are counted; nothing in an
ACTIVATION sector is scrubbed (R144, R146). -/
def State.scrubRow (s : State) (x : Nat × Nat) : State :=
  let (u, n, weight) := s.bankRow x
  if weight = false then s
  else
    let l := (wrongBits s.flips 2 u n).zipIdx
    let fixed := l.filter fun b => decide (0 < b.1) && decide (b.1 ≤ 2)
    let bad := (l.filter fun b => decide (2 < b.1)).length
    let s := fixed.foldl (fun (s : State) b => s.mend (u + 2 * b.2) 2) s
    if x.1 < 2304 then (s.add (kLsEccCorrected (x.1 / 16)) fixed.length).coreEcc (x.1 / 16) bad
    else (s.add (kFsEccCorrected ((x.1 - 2304) / 32)) fixed.length).add (kFsEccUncorrected ((x.1 - 2304) / 32)) bad

/-- The scrub of a maintenance window: row k of every bank holding a WEIGHT sector in frames congruent to k modulo 256, then debt
rows, oldest first, as far as the window reaches; a due row that is left becomes debt (R746). DEDUCED (log 56). -/
def State.scrub (s : State) (n : Nat) : State :=
  let due := s.weightBanks.map fun b => (b, s.frameNo % 256)
  let debt := s.scrubDebt.drop (n - due.length) ++ due.drop n
  let s := ((due ++ s.scrubDebt).take n).foldl (fun (s : State) x => s.scrubRow x) s
  { s with scrubDebt := debt }.setNat kScrubDebt (min debt.length (2 ^ 32 - 1))

/-- Marks the granule of a row that cannot be repaired as retire-pending; a free one is retired at once (R739).
DEDUCED (log 56). -/
def State.retire (s : State) (g : Nat) : State :=
  if bitOf (s.oct kRetirePending (g / 8)) (g % 8) ∨ s.granuleOwner g = 0xFD then s
  else
    let s := s.dieEvent 0x1808 g (s.granuleOwner g) 0
    let s := { s with boot := { s.boot with retired := s.boot.retired ++ [g] } }
    let s := s.setOct kRetirePending (g / 8) (BitVec.ofNat 8 (s.oct kRetirePending (g / 8) + 2 ^ (g % 8)))
    if s.granuleOwner g = 0xFF then s.releaseGranule g else s

/-- The repair of the first queued row ends (R738, R739): the contents of a row that met an uncorrectable error are
undefined. DEDUCED (log 56). -/
def State.repairRow (s : State) (ok : Bool) : State :=
  match s.hbmRows with
  | [] => s
  | row :: rest =>
    let bad := s.hbmBad.contains row
    let s := { s with hbmRows := rest, hbmBad := s.hbmBad.filter (· != row), hbmCe := Tbl.set [] s.hbmCe row [] }
    if ok then
      let s := if bad then { s with hbm := putBytes s.hbm (row * 1024) (freeBytes s.free 1024), free := s.free + 1024 } else s
      let s := { s with boot := { s.boot with repairs := s.boot.repairs ++ [row] } }.bump kHbmRepairs
      s.dieEvent 0x1807 (Config.hbmRow row).1 (Config.hbmRow row).2 0
    else s.retire (row * 1024 / 2 ^ 28)

/-- Lichen's work in a maintenance window (R745 to R748): link work, sealing of pages, a step of HBM repair, and scrub.
DEDUCED (log 56). -/
def State.maintain (s : State) (o : MaintObs) : State :=
  let s := if s.tb.debtWindow
    then ({ s with tb := { s.tb with debtWindow := false } }.bump kDebtWindows).logEvent 0x1806 1 5 0 (s.nat kScrubDebt) 0
    else s
  let s := ((countFrom 0 16).foldl (fun s n => s.portWindow n) s).sealPages
  let s := match o.repair with | some ok => s.repairRow ok | none => s
  (s.stalls o.lost).scrub o.scrubbed

/-- MAINTENANCE_WINDOW (R45, R47, R54): the last sixteenth of the frame begins; once a descriptor has overrun, only after
OVERRUN.  Lichen works from READY on. -/
def execMaintenanceWindow (o : MaintObs) (s : State) : Host.Outcome State Fault Refusal :=
  if s.dieUp = false ∨ s.tb.window = .maintenance ∨ (s.tb.window = .compute ∧ s.anyOverrun = true) then .next s
  else
    let s := { s with tb := { s.tb with window := .maintenance } }
    .next (if s.ready then s.maintain o else s)

end Sys2Proof.Machine
end

