-- ==== Sys2Proof/Machine/Recovery.lean ====
section
/-!
DEFINITION. Machine/Recovery.lean: faults, spares, reload, recovery runs, restarts of Frond Controllers, and the swap of
compute firmware.
-/
namespace Sys2Proof.Machine

/-! ### Recoveries -/

/-- The recovery of a slot that is under way. -/
def State.recoveryOf (s : State) (f sl : Nat) : Option Recovery :=
  s.recov.find? fun r => r.frond == f && r.slot == sl && !r.done

/-- The state with the recovery of a slot that is under way changed. -/
def State.modRecovery (s : State) (f sl : Nat) (g : Recovery → Recovery) : State :=
  { s with recov := replaceFirst (fun r => r.frond == f && r.slot == sl && !r.done) g s.recov }

/-- The Marionette records the substitutions (R713, R698). -/
def State.recordMap (s : State) : State := { s with boot := { s.boot with savedMap := some s.coreMap } }

/-- A core becomes FENCED for life (R713). DEDUCED (log 80). -/
def State.fenceCore (s : State) (c cause : Nat) : State :=
  let s := (s.setNat (kCoreState c) 2).setNat (kFenceCause c) cause
  { s with boot := { s.boot with fencedCores := s.boot.fencedCores ++ [(c, cause)] } }.dieEvent 0x1801 c cause
    (s.frameNo % 2 ^ 32)

/-- An unused spare is no longer one. -/
def State.spendSpare (s : State) (c : Nat) : State :=
  (s.setNat (kSparesLeft (c / 9)) 0).setNat kSpareCores (s.nat kSpareCores - 1)

/-- The unused spare of a frond. -/
def State.spareOf (s : State) (f : Nat) : Option Nat :=
  if s.fcFailed.contains f then none else (countFrom (9 * f) 9).find? fun c => s.nat (kCoreState c) == 0

/-- The spare chosen for a slot: its frond's, or, under SPARE_BORROW, that of the lowest-numbered frond one hop away
(R713). DEDUCED (log 80). -/
def State.chooseSpare (s : State) (f p : Nat) : Option Nat :=
  match s.spareOf f with
  | some c => some c
  | none =>
    if p < 64 ∧ s.nat (kSpareBorrow p) = 1 then
      (countFrom 0 16).findSome? fun g => if hops f g = 1 then s.spareOf g else none
    else none

/-- Whether a partition is in a recovery hold (R711). -/
def State.inHold (s : State) (p : Nat) : Bool :=
  (s.recov.any fun r => r.part == p) || s.holds.any fun h => h.parts.contains p

/-- A partition leaves its recovery hold with no recovery frame (R725). -/
def State.dropHold (s : State) (p : Nat) : State :=
  if s.inHold p then s else s.setNat (kRecoveryState p) 0

/-- The halt with HALT_CAUSE CAPACITY (R725): a partition that is HALTING or HALTED already takes the cause. -/
def State.capacityHalt (s : State) (p : Nat) : State :=
  if s.partState p ≠ 1 ∨ s.partRun p = 3 then s
  else if s.partRun p = 1 then s.haltPart p 3 else s.setNat (kHaltCause p) 3

/-- A slot becomes unmapped (R725): its descriptors end with CAPACITY_REDUCED, and its partition halts.
DEDUCED (log 80). -/
def State.unmapSlot (s : State) (f sl : Nat) : State :=
  let p := s.slotOwner f sl
  let s := { s with coreMap := Tbl.set none s.coreMap (8 * f + sl) none,
                    recov := s.recov.filter fun r => !(r.frond == f && r.slot == sl) }
  let s := (s.setNat kCoresActive (s.nat kCoresActive - 1)).recordMap
  if 64 ≤ p then s
  else
    let reduce := fun (d : Desc) =>
      if coreRun d.opcode && !d.refused && d.core == (f, sl) && !d.completed
      then { d with ended := true, status := stCapacityReduced, endFrame := s.frameNo } else d
    let s := { s with inflight := s.inflight.map reduce }
    let s := s.dieEvent 0x1803 p (f * 256 + sl) 0
    (s.capacityHalt p).dropHold p

/-- The hold of a partition ends once every recovery of it has run its last run and every restart has ended: H counts from the
first detection (R721, R722, R728). DEDUCED (log 81). -/
def State.endHold (s : State) (p : Nat) : State :=
  let mine := s.recov.filter fun r => r.part == p
  let holds := s.holds.filter fun h => h.parts.contains p
  if mine.all (·.done) = false ∨ holds.all (·.frond.isNone) = false ∨ (mine = [] ∧ holds = []) then s
  else
    let since := leastOf (mine.map (·.frame) ++ holds.map (·.start))
    let h := s.tb.ticks - since
    let s := { s with recov := s.recov.filter fun r => r.part != p,
                      holds := (s.holds.map fun (h : Hold) => { h with parts := h.parts.filter (· != p) }).filter fun h =>
                        h.frond.isSome || h.parts != [] }
    if 64 ≤ p ∨ s.partState p = 0 then s
    else
      let s := (s.setNat (kRecoveryState p) 0).bump (kSlipFr p) h
      let s := s.setNat (kLastRecoveryFr p) (min h 65535)
      let s := { s with slips := Tbl.set 0 s.slips p (Tbl.get 0 s.slips p + h) }
      if mine = [] then s
      else (s.bump (kRecoveries p) mine.length).dieEvent 0x1804 p h (mine.foldl (fun n r => n + r.count) 0)

/-! ### Fault sources (R708) -/

/-- Whether a core-run descriptor of a slot has begun and not ended. -/
def State.coreBusy (s : State) (f sl : Nat) : Bool :=
  s.inflight.any fun d => coreRun d.opcode && d.core == (f, sl) && !d.ended

/-- A CMU fault: the frond's CMU is FAILED for life, and its committed descriptors end with CAPACITY_REDUCED (R730). -/
def State.cmuFault (s : State) (f : Nat) : State :=
  let s := (s.setNat (kCmuState f) 1).dieEvent 0x180A f 0 0
  let reduce := fun (d : Desc) =>
    if productOp d.opcode && d.arith == 3 && d.core.1 == f && !d.ended
    then { d with ended := true, status := stCapacityReduced, endFrame := s.frameNo } else d
  { s with boot := { s.boot with cmuFailed := s.boot.cmuFailed ++ [f] }, inflight := s.inflight.map reduce }

/-- WATCHDOG_EXPIRY (R708): no progress for WATCHDOG_CC cycles on a core, or on the CMU of a frond. -/
def execWatchdogExpiry (cmu : Bool) (unit : Nat) (s : State) : Host.Outcome State Fault Refusal :=
  if cmu then
    if s.nat (kCmuState unit) = 0 ∧
        (s.inflight.any fun d => productOp d.opcode && d.arith == 3 && d.core.1 == unit && !d.ended) = true
    then .next (s.cmuFault unit) else .next s
  else
    match s.coreSlot unit with
    | none => .next s
    | some (f, sl) => if s.coreBusy f sl && !s.slotStopped f sl then .next (s.coreFault unit 3) else .next s

/-- The effect of a CORE_FENCE write (R708): a fault of a core in use, or an unused spare FENCED. -/
def writeCoreFence (c : Nat) (v : Word) (s : State) (_ : EntLoc) : Except Reason State :=
  if v = 0 then .ok s
  else if s.nat (kCoreState c) = 0 then .ok ((s.fenceCore c 4).spendSpare c)
  else .ok (s.coreFault c 4)

/-- CORE_FENCE (R708). -/
def execCoreFence (who : Requester) (core : Nat) (v : Word) (s : State) : Host.Outcome State Fault Refusal :=
  .next (s.slotWrite who .coreFence (kCoreFence core) v (writeCoreFence core v))

/-! ### Spares (R713, R714) -/

/-- Generator states and last seeds of one core, copied to another (R225). -/
def State.copyGens (s : State) (src dst : Nat) : State :=
  (countFrom 0 16).foldl (fun (s : State) g =>
    { s with gens := Tbl.set 0 s.gens (dst * 16 + g) (Tbl.get 0 s.gens (src * 16 + g)),
             seeds := Tbl.set none s.seeds (dst * 16 + g) (Tbl.get none s.seeds (src * 16 + g)) }) s

/-- Maps a slot to a spare. DEDUCED (log 80). -/
def State.mapSpare (s : State) (r : Recovery) (c : Nat) : State :=
  let s := { s with coreMap := Tbl.set none s.coreMap (8 * r.frond + r.slot) (some c) }
  let s := ((s.spendSpare c).setNat (kCoreState c) 3).recordMap
  let s := (s.setReg (kLsWeightMap c) (s.reg (kLsWeightMap r.core))).setReg (kLsSpecMap c) (s.reg (kLsSpecMap r.core))
  let s := (s.copyGens r.core c).dieEvent 0x1802 c (r.frond * 256 + r.slot) (b2n (c / 9 != r.frond))
  s.modRecovery r.frond r.slot fun r => { r with phase := 1, mark := s.tb.ticks }

/-- SPARE_MAPPED (R713, R725): at the next boundary the faulty core is FENCED and its slot mapped to a spare, or unmapped. -/
def execSpareMapped (frond slot : Nat) (s : State) : Host.Outcome State Fault Refusal :=
  match s.recoveryOf frond slot with
  | none => .next s
  | some r =>
    if r.phase ≠ 0 ∨ s.tb.ticks ≤ r.mark then .next s
    else
      let s := if s.nat (kCoreState r.core) = 2 then s else s.fenceCore r.core r.cause
      match s.chooseSpare frond r.part with
      | some c => .next (s.mapSpare r c)
      | none => .next (s.unmapSlot frond slot)

/-- SPARE_SELFTEST_DONE (R714): the spare's LS and AS are zeroed; a spare that fails becomes FENCED, and selection is repeated
at the next boundary. -/
def execSpareSelftestDone (frond slot : Nat) (ok : Bool) (s : State) : Host.Outcome State Fault Refusal :=
  match s.recoveryOf frond slot, s.coreAt frond slot with
  | some r, some c =>
    if r.phase ≠ 1 then .next s
    else if ok then
      .next (((s.zeroCore c).setNat (kCoreState c) 1).modRecovery frond slot fun r => { r with phase := 2 })
    else .next ((s.fenceCore c 5).modRecovery frond slot fun r => { r with phase := 0, mark := s.tb.ticks })
  | _, _ => .next s

/-! ### Reload (R716) -/

/-- Whether a range keeps the layout of Table 18.2. -/
def rangeLegal (off n : Nat) : Bool := off % 256 == 0 && n % 256 == 0 && decide (off + n ≤ 2 ^ 20)

/-- The ranges of a reload table: LS offset, bytes and source, and how many break the layout; none where the table is not
mapped. DEDUCED (log 81). -/
def State.reloadTable (s : State) (p ptr : Nat) : Option (List (Nat × Nat × Nat) × Nat) :=
  if ptr = 0 then some ([], 0)
  else
    (s.vaRead p ptr 8).bind fun h =>
      let count := byteField h 0 4
      if ptr % 16 ≠ 0 then some ([], count)
      else
        (s.vaRead p (ptr + 8) (16 * min count 64)).map fun l =>
          let all := (countFrom 0 (min count 64)).map fun i =>
            (byteField l (16 * i) 4, byteField l (16 * i + 4) 4, byteField l (16 * i + 8) 8)
          let good := all.filter fun x => rangeLegal x.1 x.2.1
          (good, count - good.length)

/-- RELOAD_START (R716): the reload table is read from RELOAD_PTR. -/
def execReloadStart (frond slot : Nat) (s : State) : Host.Outcome State Fault Refusal :=
  match s.recoveryOf frond slot with
  | none => .next s
  | some r =>
    if r.phase ≠ 2 ∨ s.tb.ticks ≤ r.mark then .next s
    else
      let got := if 64 ≤ r.part then some ([], 0) else s.reloadTable r.part (s.nat (kReloadPtr frond slot))
      let s := match got with
        | some (_, bad) => if bad = 0 then s else s.bump (kReloadErrors r.part) bad
        | none => s.bump (kMapFaults r.part)
      let ranges := match got with | some (l, _) => l | none => []
      .next (s.modRecovery frond slot fun r => { r with phase := 3, mark := s.tb.ticks, ranges := ranges })

/-- Loads one range row by row; an unmapped row is loaded as zeros, and MAP_FAULTS rises once for the range. -/
def State.reloadRange (s : State) (p c : Nat) (x : Nat × Nat × Nat) : State :=
  let rows := (cutRows 256 (x.2.1 + 1) x.2.2 (List.replicate x.2.1 (0 : Byte))).map fun y =>
    (y.2.length, s.vaRead p y.1 y.2.length)
  let bytes := rows.flatMap fun y => y.2.getD (List.replicate y.1 0)
  let s := s.lsPut c x.1 bytes
  if rows.any fun y => y.2.isNone then s.bump (kMapFaults p) else s

/-- RELOAD_LANDED (R716): the ranges are loaded, and the recovery runs may start. -/
def execReloadLanded (frond slot : Nat) (s : State) : Host.Outcome State Fault Refusal :=
  match s.recoveryOf frond slot, s.coreAt frond slot with
  | some r, some c =>
    if r.phase ≠ 3 then .next s
    else
      let s := r.ranges.foldl (fun s x => s.reloadRange r.part c x) s
      .next (s.modRecovery frond slot fun r => { r with phase := 4, ranges := [], done := r.runs == [] })
  | _, _ => .next s

/-! ### Recovery runs (R718 to R720) -/

/-- A descriptor as it starts again, with what it sampled at its commit and at its tile starts (R225, R239); `REISSUED` is flag
2 (Table 13.13). -/
def Desc.again (d : Desc) (reissue : Bool) : Desc :=
  { d with status := 0, cycles := 0, ended := false, completed := false, torn := false,
           flags := if reissue then 4 else 0,
           prog := { bounds := d.prog.bounds, rope := d.prog.rope, genStart := d.prog.genStart, entries := d.prog.entries,
                     recBytes := d.prog.recBytes, lenBytes := d.prog.lenBytes, posBytes := d.prog.posBytes,
                     seqBytes := d.prog.seqBytes, cover := d.prog.cover } }

/-- The generator states recorded at a descriptor's start, restored on a core (R225). -/
def State.restoreGens (s : State) (c : Nat) (l : List (Nat × Nat)) : State :=
  l.foldl (fun (s : State) x => { s with gens := Tbl.set 0 s.gens (c * 16 + x.1) x.2 }) s

/-- Lets `f` act on a descriptor that has not ended. -/
def State.onRunning (s : State) (id : Nat) (f : State → Desc → State) : State :=
  match s.desc? id with
  | some d => if d.ended then s else f s d
  | none => s

/-- An open tile runs. -/
def State.runTile (s : State) (d : Desc) (c : Nat) (o : RunObs) : State :=
  if d.opcode = 0x10 ∨ d.opcode = 0x23 then s.runDrain d c o
  else if d.opcode = 0x11 then s.runQuantise d c
  else if d.opcode = 0x20 then s.runScore d c o
  else if d.opcode = 0x21 then s.runRecompute d c o
  else if d.opcode = 0x22 then s.runNorm d c
  else s.runAppend d c

/-- The tiles of a descriptor, one after another. -/
def State.runTiles : Nat → State → Nat → Nat → RunObs → State
  | 0, s, _, _, _ => s
  | fuel + 1, s, id, c, o =>
    match s.desc? id with
    | none => s
    | some d =>
      if d.ended then s
      else
        let s := s.onRunning id fun s d => if d.prog.tileOpen then s else s.startTile d c 0
        let s := s.onRunning id fun s d => 
          if d.prog.tileOpen && !d.prog.fetched then (match d.curTile with | some t => s.landTile d t | none => s) else s
        let s := s.onRunning id fun s d => if d.prog.tileOpen then s.runTile d c o else s
        s.runTiles fuel id c {}

/-- A whole tiled descriptor. -/
def State.runTiled (s : State) (id c : Nat) (o : RunObs) : State :=
  let s := s.onRunning id fun s d => s.landBounds d 0
  let s := s.onRunning id fun s d => if d.walks then s.landWalk d 0 else s
  match s.desc? id with
  | some d => s.runTiles (d.positions + 2) id c o
  | none => s

/-- A whole descriptor on its core (R718). -/
def State.runWhole (s : State) (id c : Nat) (o : RunObs) : State :=
  s.onRunning id fun s d => (s.work d o fun s =>
    let op := d.opcode
    if tiledOp op then s.runTiled id c o
    else if op = 1 then (((s.landWhere fun w => w.desc == id).spend id (o.waitCc + 4)).endDesc id stOk).bump (kOrdersRun c)
    else if op = 0x12 then s.runReduce d o.waitCc
    else if op = 0x13 then s.runFill d c
    else if op = 0x14 then s.runCopy d c
    else if op = 0x15 then s.runTransfer d o.waitCc
    else s.runBucketForm d o.waitCc).tearTorn id

/-- The entries of a table in a range of numbers, taken from another table. -/
def spliceTbl {α : Type} (lo hi : Nat) (a b : Tbl α) : Tbl α :=
  Tbl.drop (fun k => decide (lo ≤ k)) a ++ Tbl.drop (fun k => !(decide (lo ≤ k) && decide (k < hi))) b ++
    Tbl.drop (fun k => decide (k < hi)) a

/-- A rebuild run: the spare's own LS and AS take what the run leaves in them, the counters of its core and of its frond count
what the run did (R187), and nothing else takes anything (R719); `run` is the state without the slot's recovery.  An error that
is a fault of the spare begins its recovery again. DEDUCED (log 81). -/
def State.rebuildRun (s run : State) (f c : Nat) (d : Desc) (o : RunObs) (pop : State → State) : State :=
  let d := { d.again false with id := s.nextId }
  let t := ({ run with inflight := [d], nextId := s.nextId + 1 }.restoreGens c d.prog.genStart).runWhole d.id c o
  if t.slotWait then s
  else
    let counted := { s with
      regs := spliceTbl ((0x2100 + 0x10 * f) * 256) ((0x2110 + 0x10 * f) * 256)
        (spliceTbl ((0x4000 + 0x10 * c) * 256) ((0x4010 + 0x10 * c) * 256) s.regs t.regs) t.regs
      flips := t.flips
      eccRun := t.eccRun
      msc := t.msc
      free := t.free }
    let faults := t.recov.filter fun x => !run.recov.contains x
    let counted := faults.foldl (fun (s : State) x => s.coreFault x.core x.cause) counted
    if faults.any fun x => x.core == c then counted
    else
      let t := t.landWhere fun w => w.desc == d.id
      pop { counted with
        ls := spliceTbl (c * 2 ^ 20) ((c + 1) * 2 ^ 20) s.ls t.ls
        acc := spliceTbl (c * 32768) ((c + 1) * 32768) s.acc t.acc
        asSat := spliceTbl (c * 32768) ((c + 1) * 32768) s.asSat t.asSat
        asTags := spliceTbl (c * 65536) ((c + 1) * 65536) s.asTags t.asTags
        gens := t.gens
        seeds := t.seeds
        free := t.free }

/-- A reissue run: the descriptor runs in full on the spare, and completes with REISSUED (R720). DEDUCED (log 81). -/
def State.reissueRun (s run : State) (c : Nat) (r : Recovery) (d : Desc) (o : RunObs) (pop : State → State) : State :=
  let t := (run.modDesc d.id fun e => { e.again true with prog := (d.again true).prog }).restoreGens c d.prog.genStart
  let t := t.runWhole d.id c o
  if t.slotWait || (match t.desc? d.id with | some e => !e.ended | none => false) then s
  else if t.recov = run.recov then pop { t with recov := s.recov }
  else { t with recov := t.recov.map fun (x : Recovery) =>
    if x.frond = r.frond ∧ x.slot = r.slot then { x with frame := r.frame } else x }

/-- Whether a recovery run has still something to do: a dropped reissue, or a rebuild of a partition that has gone, has not. -/
def State.runLeft (s : State) (r : Recovery) (x : RecRun) : Bool :=
  if x.reissue then (match s.desc? x.desc.id with | some d => !d.ended | none => false)
  else s.slotOwner r.frond r.slot == x.desc.part && s.partState x.desc.part == 1 && s.partRun x.desc.part != 3

/-- RECOVERY_RUN_DONE (R718): the next recovery run of a slot runs whole; one that must wait for another slot in recovery, or
for anything else, has not been done. -/
def execRecoveryRunDone (frond slot : Nat) (o : RunObs) (s : State) : Host.Outcome State Fault Refusal :=
  match s.recoveryOf frond slot, s.coreAt frond slot with
  | some r, some c =>
    match r.runs with
    | [] => .next s
    | x :: rest =>
      if r.phase ≠ 4 ∨ s.tb.ticks ≤ r.mark ∨ s.tb.window ≠ .compute then .next s
      else
        let pop := fun (s : State) => s.modRecovery frond slot fun r => { r with runs := rest, done := rest == [] }
        let run := { s with recov := s.recov.filter fun y => !(y.frond == frond && y.slot == slot), slotWait := false }
        if s.runLeft r x = false then .next (pop s)
        else if x.reissue then .next (s.reissueRun run c r x.desc o pop)
        else .next (s.rebuildRun run frond c x.desc o pop)
  | _, _ => .next s

/-- RECOVERY_DONE (R721). -/
def execRecoveryDone (part : Nat) (s : State) : Host.Outcome State Fault Refusal :=
  if s.recov.any fun r => r.part == part then .next (s.endHold part) else .next s

/-! ### Frond Controllers (R728, R729) -/

/-- The partitions that own a slot of a frond. -/
def State.frondParts (s : State) (f : Nat) : List Nat :=
  (((countFrom 0 8).map fun sl => s.slotOwner f sl).filter (· < 64)).eraseDups

/-- FC_RESTART (R728): two heartbeats were missed. -/
def execFcRestart (frond : Nat) (s : State) : Host.Outcome State Fault Refusal :=
  if 16 ≤ frond ∨ s.fcFailed.contains frond = true ∨ (s.holds.any fun h => h.frond == some frond) = true then .next s
  else
    let parts := s.frondParts frond
    let s := s.bump (kFcRestarts frond)
    let s := s.dieEvent 0x1805 frond (s.nat (kFcRestarts frond)) 0
    let s := { s with
      fcRestarts := Tbl.set [] s.fcRestarts frond (s.recent 1000000000 (Tbl.get [] s.fcRestarts frond) ++ [s.nat kDevTimeNs]),
      holds := s.holds ++ [⟨some frond, parts, s.tb.ticks⟩] }
    .next (parts.foldl (fun (s : State) p =>
      (s.squashPart p (fun _ => true) (kSquashCore p)).setNat (kRecoveryState p) 1) s)

/-- A frond fails (R729): its slots become unmapped, and its spare is no longer available. DEDUCED (log 80). -/
def State.failFrond (s : State) (f : Nat) : State :=
  let s := { s with fcFailed := s.fcFailed ++ [f], holds := s.holds.filter fun h => h.frond != some f }
  let s := (countFrom 0 8).foldl (fun (s : State) sl =>
    match s.coreAt f sl with
    | some c => (s.fenceCore c 6).unmapSlot f sl
    | none => s) s
  match (countFrom (9 * f) 9).find? fun c => s.nat (kCoreState c) == 0 with
  | some c => (s.fenceCore c 6).spendSpare c
  | none => s

/-- FC_RESTART_DONE (R728, R729): the restart ends, or the controller fails to restart or has restarted three times within
1 s. -/
def execFcRestartDone (frond : Nat) (ok : Bool) (s : State) : Host.Outcome State Fault Refusal :=
  match s.holds.find? fun h => h.frond == some frond with
  | none => .next s
  | some h =>
    if ok = false ∨ 3 ≤ (s.recent 1000000000 (Tbl.get [] s.fcRestarts frond)).length then
      .next (h.parts.foldl (fun s p => s.dropHold p) (s.failFrond frond))
    else
      let s := { s with holds := replaceFirst (fun h => h.frond == some frond) (fun h => { h with frond := none }) s.holds }
      .next (h.parts.foldl (fun s p => s.endHold p) s)

/-! ### The swap of compute firmware (R740 to R743) -/

/-- Bytes of the package at FW_SWAP_SRC, as far as FW_SWAP_LEN reaches; unmapped bytes read as zeros. -/
def State.swapRead (s : State) (off n : Nat) : List Byte :=
  (cutRows 256 (n + 1) off (List.replicate n (0 : Byte))).flatMap fun x =>
    (s.vaRead 0 (s.nat kFwSwapSrc + x.1) x.2.length).getD x.2

/-- Whether a 256-byte chunk of the package lies within FW_SWAP_LEN at mapped addresses. DEDUCED (log 82). -/
def State.swapChunk (s : State) (k : Nat) : Bool :=
  decide (256 * (k + 1) ≤ s.nat kFwSwapLen) && (s.vaRead 0 (s.nat kFwSwapSrc + 256 * k) 256).isSome

/-- The effect of FW_SWAP_CTRL VERIFY (R740): the checks of Table 17.6. DESIGN CHOICE (log 41). DEDUCED (log 82). -/
def swapVerify (sigOk : Bool) (s : State) (_ : EntLoc) : Except Reason State :=
  let st := s.nat kFwSwapState
  if st = 1 ∨ st = 3 then .error .state
  else
    let r := pkgCheck s.swapRead s.swapChunk (s.nat kStepping) (s.nat kFwSvnFloor) sigOk
    let s := { s with boot := { s.boot with revertOk := false, bankNew := none } }.setNat kFwSwapReason r
    if r ≠ 0 then .ok (s.setNat kFwSwapState 4)
    else .ok ({ s with boot := { s.boot with bankNew := some (pkgVersion s.swapRead, pkgSvn s.swapRead) } }.setNat
      kFwSwapState 1)

/-- FW_SWAP_VERIFY (R740). -/
def execFwSwapVerify (who : Requester) (sigOk : Bool) (s : State) : Host.Outcome State Fault Refusal :=
  .next (s.slotWrite who .fwSwapCtrl kFwSwapCtrl 1 (swapVerify sigOk))

/-- FW_SWAP_STAGED (R740): the inactive banks are loaded. -/
def execFwSwapStaged (s : State) : Host.Outcome State Fault Refusal :=
  if s.nat kFwSwapState = 1 then .next (s.setNat kFwSwapState 2) else .next s

/-- The effect of FW_SWAP_CTRL SWAP (R741). -/
def swapArm (s : State) (_ : EntLoc) : Except Reason State :=
  orRefuse (s.nat kFwSwapState == 2 && decide (s.frameNo + 2 ≤ s.nat kFwSwapFrame)) .state (s.setNat kFwSwapState 3)

/-- FW_SWAP_SWAP (R741). -/
def execFwSwapSwap (who : Requester) (s : State) : Host.Outcome State Fault Refusal :=
  .next (s.slotWrite who .fwSwapCtrl kFwSwapCtrl 2 swapArm)

/-- The effect of FW_SWAP_CTRL REVERT (R743): the old bank is armed as R741 says. -/
def swapRevert (s : State) (_ : EntLoc) : Except Reason State :=
  orRefuse (s.boot.revertOk && s.nat kFwSwapState != 3 && decide (s.frameNo + 2 ≤ s.nat kFwSwapFrame)) .state
    (s.setNat kFwSwapState 3)

/-- FW_SWAP_REVERT (R743). -/
def execFwSwapRevert (who : Requester) (s : State) : Host.Outcome State Fault Refusal :=
  .next (s.slotWrite who .fwSwapCtrl kFwSwapCtrl 3 swapRevert)

/-- The effect of FW_SWAP_CTRL CANCEL: a staged or armed swap is abandoned. DEDUCED (log 82). -/
def swapCancel (s : State) (_ : EntLoc) : Except Reason State :=
  let st := s.nat kFwSwapState
  if st = 1 ∨ st = 2 ∨ st = 3 then
    .ok ({ s with boot := { s.boot with bankNew := if s.boot.revertOk then s.boot.bankNew else none } }.setNat kFwSwapState 0)
  else .error .state

/-- FW_SWAP_CANCEL (R740). -/
def execFwSwapCancel (who : Requester) (s : State) : Host.Outcome State Fault Refusal :=
  .next (s.slotWrite who .fwSwapCtrl kFwSwapCtrl 4 swapCancel)

/-- FW_SWAP_APPLY (R741 to R743): at a boundary numbered at or after FW_SWAP_FRAME, outside every recovery hold. -/
def execFwSwapApply (s : State) : Host.Outcome State Fault Refusal :=
  match s.boot.bankNew with
  | none => .next s
  | some (v, n) =>
    if s.nat kFwSwapState ≠ 3 ∨ s.frameNo < s.nat kFwSwapFrame ∨
        ((countFrom 0 64).any fun p => s.nat (kRecoveryState p) == 1) = true then .next s
    else
      let old := (s.nat kFwVersion, s.nat kFwSvn)
      let s := (((s.setNat kFwVersion v).setNat kFwSvn n).setNat kFwPrevVersion old.1).setNat kFwSwapState 0
      .next ({ s with boot := { s.boot with bankNew := some old, revertOk := true } }.dieEvent 0x1809 0 v old.1)

end Sys2Proof.Machine
end

