-- ==== Sys2Proof/Machine/DictOps.lean ====
section
/-!
DEFINITION. Machine/DictOps.lean: a write to any entry of the object dictionary, and the bulk buffer (R607 to R623, R833).

A write to an entry that has a command of its own is that command; a write to any other entry replaces it (R611), after
the tests of R833 and the refusals its chapter states.
-/
namespace Sys2Proof.Machine

/-- The state a command answers with, or the state before it where it answers none. -/
def after (o : Host.Outcome State Fault Refusal) (s : State) : State :=
  match o with
  | .next t => t
  | _ => s

/-! ### Refusals that a chapter states for an entry with no command of its own -/

/-- The configuration entries of a stream, writable only while it is DOWN (R347). -/
def streamConfig (e : Ent) : Bool :=
  [Ent.streamOwner, .transport, .streamDest, .ringAddr, .ringBytes, .ackTimeoutUs, .retryLimit].contains e

/-- The entries of a receive window that a RESTORE holds (R392). -/
def winConfig (e : Ent) : Bool := [Ent.winOwner, .winMode, .winBase, .winBytes].contains e

/-- The entries of a queue pair (Table 10.12). -/
def qpConfig (e : Ent) : Bool := [Ent.qpPort, .remoteQpn, .remoteGid, .startPsn].contains e

/-- The entries of a ring that are writable only while it is FREE (R494, R572). -/
def ringConfig (e : Ent) : Bool :=
  [Ent.ringCtx, .ringBase, .cqBase, .ringEntries, .cqSlots, .irqVector].contains e

/-- Whether every ROCE stream over a queue pair is DOWN (R435). -/
def State.qpIdle (s : State) (q : Nat) : Bool :=
  (countFrom 0 256).all fun st =>
    s.nat (kStreamCtrl st) == 0 || s.nat (kTransport st) != 1 || s.nat (kStreamDest st) % 65536 != q

/-- A forced SYNC_POLARITY takes effect at once; a change restarts the qualification of SYNC_IN (R805).
DEDUCED (log 91). -/
def State.forcePolarity (s : State) (v : Nat) : State :=
  let inv := v == 2
  if v = 0 ∨ s.tb.inverted = inv then s
  else
    let s := { s with tb := { s.tb with inverted := inv, syncRun := 0, syncLast := none } }
    (s.setReg kSyncStatus (putFld (s.reg kSyncStatus) 2 2 (b2n inv))).syncEvent 1

/-- A PEER_EXPECT write is compared with PEER_ID at once (R411); a fault by R438 that a marker has shown stays.
DEDUCED (log 74). -/
def State.rewire (s : State) (n : Nat) : State :=
  let peer := s.nat (kPeerId n)
  let bad := s.wrongPeer n peer || ((s.port n).wiring && s.wrongPort n peer)
  let s := if bad && !(s.port n).wiring then s.portEvent n 3 else s
  s.setPort n { s.port n with wiring := bad }

/-- The effect of a write to an entry with no command of its own: the chapter's refusals, then the whole entry is replaced,
or the bits written as 1 are cleared (R611). -/
def pokeEntry (who : Requester) (k : Nat) (v : Word) (s : State) (l : EntLoc) : Except Reason State :=
  let t := s.setReg k v
  let e := l.row.ent
  if streamConfig e then orRefuse (s.nat (kStreamCtrl l.inst) == 0) .state t
  else if winConfig e then orRefuse (!s.inRestore l.inst) .state t
  else if qpConfig e then orRefuse (s.qpIdle l.inst) .state t
  else if ringConfig e then orRefuse (s.ringLife l.inst == 0) .state t
  else if l.row.acc = .w1c then .ok (s.clearFlags k v)
  else
    match e with
    | .warnHi => orRefuse (t.hiOk l.elem) .range t
    | .critHi => orRefuse (t.hiOk l.elem) .range t
    | .warnLo => orRefuse (t.loOk l.elem v.toNat) .range t
    | .critLo => orRefuse (t.loOk l.elem v.toNat) .range t
    | .updateOffset => orRefuse (s.mario.owner.isNone || s.mario.owner == some who) .busy t
    | .alertMask => .ok (t.alertEdge s)
    | .syncPolarity => .ok (t.forcePolarity v.toNat)
    | .peerExpect => .ok (t.rewire l.inst)
    | _ => .ok t

/-! ### What a read returns -/

/-- LOG_WINDOW: sixteen records from LOG_READ_SEQ on; one that is not held reads as zero (Table 16.14). -/
def State.logWindow (s : State) : List Byte :=
  (countFrom 0 16).flatMap fun i =>
    s.log.getD ((s.nat kLogNextSeq + 2 ^ 33 - 1 - s.nat kLogReadSeq - i) % 2 ^ 32) (List.replicate 32 0)

/-- One sample of a long entry (R610); a WO entry reads as zero (R614). -/
def State.sampleLong (s : State) (l : EntLoc) (k : Nat) : List Byte :=
  if l.row.acc = .wo then List.replicate l.row.ty.bytes 0
  else if l.row.ent = .logWindow then s.logWindow
  else s.octBytes k l.row.ty.bytes

/-- COLL_CELLS_PER_FR of a group: the cells of its axes (Table 11.10). -/
def State.cellsPerFr (s : State) (g : Nat) : Nat :=
  let m := s.members (s.nat (kGroupDef g))
  if gKind (s.nat (kGroupDef g)) = 0 then 0 else s.axisK g m false % 65536 + s.axisK g m true % 65536 * 65536

/-- A SENSOR entry as it reads: the last sample, its age, and whether it is stale (Table 16.2, R637). -/
def State.sensorView (s : State) (k sub : Nat) : Word :=
  let stale := s.mario.restarting || Config.sensorStale s.free sub
  putFld (putFld (s.reg k) 47 32 (Config.sensorAge s.free sub).toNat) 48 48 (b2n stale)

/-- What a slot reads as (R600, R610, R614). DESIGN CHOICE (log 45). -/
def State.slotView (s : State) (who : Requester) (l : EntLoc) (k : Nat) : Word :=
  let link (v : Nat) : Word := if s.dieUp && !s.linkDown then wd v else 0
  if l.row.acc = .wo then 0
  else if l.row.base = 0x1001 then s.area who (k % 256)
  else
    match l.row.ent with
    | .sensor => s.sensorView k (k % 256)
    | .coreMap =>
      match s.coreSlot l.inst with
      | some (f, sl) => wd (sl + f * 16 + 2 ^ 15)
      | none => 0
    | .granulesFree => wd ((countFrom 0 192).filter fun g => s.granuleOwner g == 0xFF).length
    | .granulesOwned => wd ((countFrom 0 192).filter fun g => s.granuleOwner g == l.inst).length
    | .inflightNow => wd s.inflightNow
    | .groupState => wd (s.groupState l.inst)
    | .collQueued => wd (s.coll l.inst).count
    | .collCellsPerFr => wd (s.cellsPerFr l.inst)
    | .fenceHandle => s.handle l.elem
    | .roceAckRkey => s.rkey
    | .guardEffNs => wd s.guardEff
    | .coresActive => if s.ready then s.reg k else 0
    | .spareCores => if s.ready then s.reg k else 0
    | .hbmGranulesUsable => if s.ready then s.reg k else 0
    | .pcieSpeed => link Config.pcieLink.1.toNat
    | .pcieWidth => link Config.pcieLink.2.1.toNat
    | .pcieFlit => link (b2n Config.pcieLink.2.2)
    | _ => s.reg k

/-! ### Writes by slot -/

/-- A write to an entry that has commands of its own, where the value itself is legal; none where it has none. -/
def State.ownCommand (s : State) (who : Requester) (l : EntLoc) (k sub : Nat) (v : Word) :
    Option (Host.Outcome State Fault Refusal) :=
  let i := l.inst
  let j := l.elem
  let n := v.toNat
  match l.row.ent with
  | .partCtrl => some
      (if n = 1 then execPartCreate who i s else if n = 2 then execPartDestroy who i s
       else if n = 3 then execPartHalt who i s else if n = 4 then execPartResume who i s else execPartAbort who i s)
  | .ringCtrl => some
      (if n = 1 then execRingCreate who i s else if n = 2 then execRingEnable who i s
       else if n = 3 then execRingDisable who i s else execRingDestroy who i s)
  | .ctxCtrl => some
      (if n % 4 = 1 then execCtxCreate who j (bitsOf n 13 8) s
       else .next (s.slotWrite who .ctxCtrl k v (destroyCtx j)))
  | .fenceCtrl => some
      (if n % 8 = 1 then execFenceCreate who j (bitsOf n 25 16) (bitOf n 3) (bitOf n 4) s
       else .next (s.slotWrite who .fenceCtrl k v
         (if n % 8 = 2 then destroyFence j else if n % 8 = 3 then signalFenceCmd j else resetFenceCmd j)))
  | .fenceHandle => some (execFenceHandleWrite who j false v s)
  | .fenceLink => some (execFenceHandleWrite who j true v s)
  | .fenceSubs => some (execFenceSubsWrite who j v s)
  | .frameSeed => some (execFrameSeedWrite who v s)
  | .planeX => some (execPlaneWrite who sub v s)
  | .planeY => some (execPlaneWrite who sub v s)
  | .planeDim => some (execPlaneWrite who sub v s)
  | .planeIndex => some (execPlaneWrite who sub v s)
  | .fwCtrl => some (if n = 1 then execFwVerify who s else execFwClear who s)
  | .fwFloorRaise => some (execFwFloorRaise who v s)
  | .proxySend => some (execProxySend who v s)
  | .persistCtrl => some (if n = 1 then execPersistSave who s else execPersistErase who s)
  | .fwSwapCtrl => some
      (if n = 1 then execFwSwapVerify who (Config.signatureOk s.free) s.takeFree
       else if n = 2 then execFwSwapSwap who s else if n = 3 then execFwSwapRevert who s else execFwSwapCancel who s)
  | .stopRearm => some (execStopRearm who v s)
  | .coreOwner => some (execCoreOwnerWrite who i v s)
  | .fsWeightMap => some (execFsWeightMapWrite who i j v s)
  | .lsWeightMap => some (execLsWeightMapWrite who i v s)
  | .lsSpecMap => some (execLsSpecMapWrite who i v s)
  | .residueInject => some (execResidueInjectWrite who i v s)
  | .coreFence => some (execCoreFence who i v s)
  | .precLayer => some (execPrecLayerWrite who i j v s)
  | .shapeReg => some (execShapeRegWrite who i j v s)
  | .bucketEdge => some (execBucketEdgeWrite who i j v s)
  | .ropeBase => some (execRopeSetWrite who i sub v s)
  | .ropeCfg => some (execRopeSetWrite who i sub v s)
  | .kvPoolBase => some (execKvPoolConfigWrite who i sub v s)
  | .kvPoolUnits => some (execKvPoolConfigWrite who i sub v s)
  | .kvGeom => some (execKvPoolConfigWrite who i sub v s)
  | .kvMetaBase => some (execKvPoolConfigWrite who i sub v s)
  | .recompCons => some (execRecompConsWrite who i v s)
  | .mapBase => some (execMapBaseWrite who i v s)
  | .mapSync => some (execMapSync who i v s)
  | .runahead => some (execRunaheadWrite who i v s)
  | .portCtrl => some
      (if n = 0 then execPortDisable who i s else if n = 1 then execPortEnable who i s else execRestoreLane who i s)
  | .txSlotA => some (execSlotTableWrite who i 0 j v s)
  | .txSlotB => some (execSlotTableWrite who i 1 j v s)
  | .rxSlotA => some (execSlotTableWrite who i 2 j v s)
  | .rxSlotB => some (execSlotTableWrite who i 3 j v s)
  | .slotSwitchFrame => some (execSlotSwitchFrameWrite who i v s)
  | .streamCtrl => some (if n = 0 then execStreamDown who i s else execStreamUp who i s)
  | .regionBase => some (execRegionWrite who i sub v s)
  | .regionSpan => some (execRegionWrite who i sub v s)
  | .winState => some (if n = 0 then execWinClose who i s else execWinOpen who i s)
  | .winConsumed => some (execWinConsumedWrite who i v s)
  | .powerCtrl => some
      (if n = 1 then execPowerOn who s else if n = 2 then execPowerOff who s
       else if n = 3 then execChipReset who s else execPowerCycle who s)
  | .updateCtrl => some
      (if n = 1 then execUpdateOpen who s else if n = 2 then execUpdateVerify who s
       else if n = 3 then execUpdateActivate who s else if n = 4 then execUpdateCommit who s else execUpdateCancel who s)
  | .groupDef => some (execGroupDefWrite who i v s)
  | _ => none

/-- The effect of a DICT_CLEAR write (Table 15.6). -/
def dictClear (who : Requester) (v : Word) (s : State) (_ : EntLoc) : Except Reason State :=
  .ok (if v = 1 then s.setArea who 0x42 (putFld (s.area who 0x42) 31 0 0) else s)

/-- DICT_CLEAR (R632). -/
def execDictClear (who : Requester) (v : Word) (s : State) : Host.Outcome State Fault Refusal :=
  .next (s.slotWrite who .dictClear kDictClear v (dictClear who v))

/-! ### Writes of long entries -/

/-- The effect of a write to a long entry with no command of its own. -/
def pokeLong (k : Nat) (bytes : List Byte) (s : State) (l : EntLoc) : Except Reason State :=
  let t := s.setOctFrom k 0 bytes
  if qpConfig l.row.ent then orRefuse (s.qpIdle l.inst) .state t else .ok t

/-- A write of a long entry as one write (R611, R620, R657). -/
def State.writeLong (s : State) (who : Requester) (idx sub : Nat) (bytes : List Byte) : State :=
  let k := slotKey idx sub
  match findEntry idx sub with
  | none => s.dictLong who idx sub bytes (pokeLong k bytes)
  | some l =>
    match l.row.ent with
    | .fsOwner => after (execFsOwnerWrite who l.inst bytes s) s
    | .granuleOwner => after (execGranuleOwnerWrite who bytes s) s
    | .updateChunk => after (execUpdateChunk who bytes s) s
    | .streamAck => after (execStreamAckWrite who l.inst bytes s) s
    | _ => s.dictLong who idx sub bytes (pokeLong k bytes)

/-! ### The bulk buffer (R618 to R620) -/

/-- The bytes of a requester's bulk buffer. -/
def State.bulkBytes (s : State) (who : Requester) (n : Nat) : List Byte :=
  ((countFrom 0 64).flatMap fun i => leBytes 8 (s.area who i).toNat).take n

/-- Bytes copied into the bulk buffer from word `i` on. -/
def State.setBulk (s : State) (who : Requester) (i : Nat) (bytes : List Byte) : State :=
  (countFrom 0 (bytes.length / 8)).foldl
    (fun (s : State) n => s.setArea who (i + n) (wd (leNat ((bytes.drop (8 * n)).take 8)))) s

/-- A bulk READ: the named entry is tested as a read, then it must be a long entry (R618, R619, R833).
DEDUCED (log 47). -/
def State.bulkRead (s : State) (who : Requester) (idx sub : Nat) : State :=
  if s.requesterOk who then
    match s.gateEntry who idx sub false none with
    | .error r => s.refuse who r idx sub
    | .ok l =>
      if l.row.ty.long = false then s.refuse who .bulk 0x1001 0x40
      else if s.unserved who idx sub false then s.refuse who .state idx sub
      else
        let t := s.setBulk who 0 (s.sampleLong l (slotKey idx sub))
        (t.setArea who 0x41 (wd l.row.ty.bytes)).applied who
  else s

/-- A bulk WRITE of `len` bytes: the named entry is tested as a write, then its length (R618, R619, R833).
DEDUCED (log 47). -/
def State.bulkWrite (s : State) (who : Requester) (idx sub len : Nat) : State :=
  if s.requesterOk who then
    match s.gateEntry who idx sub true none with
    | .error r => s.refuse who r idx sub
    | .ok l =>
      if l.row.ty.long = false ∨ len ≠ l.row.ty.bytes then s.refuse who .bulk 0x1001 0x40
      else s.writeLong who idx sub (s.bulkBytes who len)
  else s

/-- A write to BULK_CTRL (R619, Table 15.8). DEDUCED (log 47). -/
def State.bulkCtrl (s : State) (who : Requester) (n : Nat) : State :=
  let op := bitsOf n 25 24
  let len := bitsOf n 41 32
  if s.requesterOk who = false then s
  else if bitsOf n 31 26 ≠ 0 ∨ bitsOf n 63 42 ≠ 0 ∨ op = 0 ∨ op = 3 ∨ (op = 1 ∧ len ≠ 0) then s.refuse who .bulk 0x1001 0x40
  else if op = 1 then s.bulkRead who (bitsOf n 15 0) (bitsOf n 23 16)
  else s.bulkWrite who (bitsOf n 15 0) (bitsOf n 23 16) len

/-- BULK_READ (R618). -/
def execBulkRead (who : Requester) (idx sub : Nat) (s : State) : Host.Outcome State Fault Refusal :=
  .next (s.bulkRead who idx sub)

/-- BULK_WRITE (R618). -/
def execBulkWrite (who : Requester) (idx sub len : Nat) (s : State) : Host.Outcome State Fault Refusal :=
  .next (s.bulkWrite who idx sub len)

/-! ### Any write -/

/-- A write of a slot value to any entry (R611, R833). -/
def State.writeSlot (s : State) (who : Requester) (idx sub : Nat) (v : Word) : State :=
  let k := slotKey idx sub
  let plain := s.dictSlot who idx sub v (pokeEntry who k v)
  match findEntry idx sub with
  | none => plain
  | some l =>
    if l.row.ent = .switchFrame then after (execSwitchFrameWrite who v s) s
    else if typeOk l.row.ty v.toNat = false ∨ entLegal l.row.ent v.toNat = false then plain
    else
      match l.row.ent with
      | .bulkCtrl => s.bulkCtrl who v.toNat
      | .bulkWord => s.dictSlot who idx sub v fun s _ => .ok (s.setArea who sub v)
      | .dictClear => after (execDictClear who v s) s
      | _ =>
        match s.ownCommand who l k sub v with
        | some o => after o s
        | none => plain

/-- The slot value that the bytes of a value on Strings give: an I32 is 4 bytes long there (R600, R656). -/
def stringsValue (ty : EntTy) (v : Word) : Word :=
  match ty with
  | .i32 => i32Word (sext 32 (v.toNat % 2 ^ 32))
  | t => wd (v.toNat % 2 ^ (8 * min t.bytes 8))

/-- DICT_WRITE (R604, R607, R611): on BAR2 a write of `bytes` bytes at `offset`; from Strings, of `bytes` bytes to the
entry whose slot is there (R656); the Marionette writes the entry itself. DESIGN CHOICE (log 43). -/
def execDictWrite (who : Requester) (offset bytes : Nat) (v : Word) (s : State) : Host.Outcome State Fault Refusal :=
  let idx := offset / 2048
  let sub := offset / 8 % 256
  if 2 ^ 27 ≤ offset ∨ s.requesterOk who = false then .next s
  else
    match who with
    | .strings _ =>
      match findEntry idx sub with
      | none => .next (s.refuse who .noEntry idx sub)
      | some l =>
        if bytes ≠ l.row.ty.bytes then .next (s.refuse who .size idx sub)
        else .next (s.writeSlot who idx sub (stringsValue l.row.ty v))
    | .marionette =>
      if 0xF000 ≤ idx then .refused .reservedDiagnostics else .next (s.writeSlot who idx sub v)
    | _ =>
      if bytes ≠ 8 ∨ offset % 8 ≠ 0 then
        .next (if idx = 0x1001 ∧ sub = 0x40 then s.refuse who .size 0x1001 0x40 else s.refuse who .size idx sub)
      else .next (s.writeSlot who idx sub v)

/-! ### Reads by slot (R607, R609, R610) -/

/-- The requester of a command that writes to the dictionary; none for any other command. -/
def bar2Writer (i : Instr) : Option Requester :=
  match i with
  | .switchFrameWrite who _ => some who
  | .frameSeedWrite who _ => some who
  | .lsWeightMapWrite who _ _ => some who
  | .lsSpecMapWrite who _ _ => some who
  | .fsWeightMapWrite who _ _ _ => some who
  | .fsOwnerWrite who _ _ => some who
  | .residueInjectWrite who _ _ => some who
  | .precLayerWrite who _ _ _ => some who
  | .shapeRegWrite who _ _ _ => some who
  | .bucketEdgeWrite who _ _ _ => some who
  | .ropeSetWrite who _ _ _ => some who
  | .kvPoolConfigWrite who _ _ _ => some who
  | .recompConsWrite who _ _ => some who
  | .streamUp who _ => some who
  | .streamDown who _ => some who
  | .winOpen who _ => some who
  | .winClose who _ => some who
  | .winConsumedWrite who _ _ => some who
  | .streamAckWrite who _ _ => some who
  | .regionWrite who _ _ _ => some who
  | .portEnable who _ => some who
  | .portDisable who _ => some who
  | .restoreLane who _ => some who
  | .slotTableWrite who _ _ _ _ => some who
  | .slotSwitchFrameWrite who _ _ => some who
  | .groupDefWrite who _ _ => some who
  | .planeWrite who _ _ => some who
  | .partCreate who _ => some who
  | .partDestroy who _ => some who
  | .partHalt who _ => some who
  | .partResume who _ => some who
  | .partAbort who _ => some who
  | .ctxCreate who _ _ => some who
  | .ctxDestroy who _ => some who
  | .ringCreate who _ => some who
  | .ringEnable who _ => some who
  | .ringDisable who _ => some who
  | .ringDestroy who _ => some who
  | .fenceCreate who _ _ _ _ => some who
  | .fenceDestroy who _ => some who
  | .fenceSignalCmd who _ => some who
  | .fenceReset who _ => some who
  | .fenceSubsWrite who _ _ => some who
  | .fenceHandleWrite who _ _ _ => some who
  | .coreOwnerWrite who _ _ => some who
  | .granuleOwnerWrite who _ => some who
  | .mapBaseWrite who _ _ => some who
  | .mapSync who _ _ => some who
  | .runaheadWrite who _ _ => some who
  | .bulkRead who _ _ => some who
  | .bulkWrite who _ _ _ => some who
  | .dictClear who _ => some who
  | .dictWrite who _ _ _ => some who
  | .persistSave who => some who
  | .persistErase who => some who
  | .powerOn who => some who
  | .powerOff who => some who
  | .chipReset who => some who
  | .powerCycle who => some who
  | .updateOpen who => some who
  | .updateChunk who _ => some who
  | .updateVerify who => some who
  | .updateActivate who => some who
  | .updateCommit who => some who
  | .updateCancel who => some who
  | .fwVerify who => some who
  | .fwClear who => some who
  | .proxySend who _ => some who
  | .fwFloorRaise who _ => some who
  | .coreFence who _ _ => some who
  | .fwSwapVerify who _ => some who
  | .fwSwapSwap who => some who
  | .fwSwapRevert who => some who
  | .fwSwapCancel who => some who
  | .stopRearm who _ => some who
  | _ => none

/-- What a BAR2 read of `bytes` bytes at `offset` returns and the state after it, where it is applied now: a slot, or half of
one (R607), sampled at one instant (R610); a refused read returns zero and is recorded (R621).  DESIGN CHOICE (log 95). -/
def State.slotRead (s : State) (who : Requester) (offset bytes : Nat) : Word × State :=
  let idx := offset / 2048
  let sub := offset / 8 % 256
  if 2 ^ 27 ≤ offset ∨ s.requesterOk who = false then (0, s)
  else if ¬(bytes = 8 ∧ offset % 8 = 0) ∧ ¬(bytes = 4 ∧ offset % 4 = 0) then (0, s.refuse who .size idx sub)
  else
    match s.gateRead who idx sub with
    | .error r => (0, s.refuse who r idx sub)
    | .ok l =>
      if l.row.ty.long then (0, s.refuse who .bulk idx sub)
      else
        let v := s.slotView who l (slotKey idx sub)
        let t := if l.row.ent = .sensor then s.takeFree else s
        (if bytes = 8 then v else wd (v.toNat / 2 ^ (8 * (offset % 8)) % 2 ^ 32), t)

/-- A BAR2 read: it is applied only after every earlier BAR2 write of the function has been applied or refused, so that it
waits while one is in the queue (R609). DESIGN CHOICE (log 95). -/
def State.bar2Read (s : State) (who : Requester) (offset bytes : Nat) : Option (Word × State) :=
  if s.pending.any fun i => bar2Writer i == some who then none else some (s.slotRead who offset bytes)

end Sys2Proof.Machine
end

