-- ==== Sys2Proof/Machine/Dap.lean ====
section
/-!
DEFINITION. Machine/Dap.lean: the Dictionary Access Protocol on Strings (R654 to R658).
-/
namespace Sys2Proof.Machine

/-- The payload sizes of CAN FD (Table 16.6): the least one that holds `n` bytes. -/
def dlcSize (n : Nat) : Nat := (([12, 16, 20, 24, 32, 48, 64]).find? fun m => decide (n ≤ m)).getD 64

/-- A payload padded with zeros to a CAN FD size (Table 16.6). -/
def dlcPad (l : List Byte) : List Byte :=
  if l.length ≤ 8 then l else l ++ List.replicate (dlcSize l.length - l.length) 0

/-- A RESPONSE: the header of Table 16.8 and its data. DEDUCED (log 48). -/
def response (node op tid status idx sub : Nat) (data : List Byte) : List Byte :=
  dlcPad (leBytes 1 node ++ leBytes 1 op ++ leBytes 1 tid ++ leBytes 1 status ++ leBytes 2 idx ++ leBytes 1 sub ++
    leBytes 1 data.length ++ data)

/-- Sends the RESPONSE to a request that was taken in state `s`; it goes out even where the request itself restarts the
Marionette (R655). DEDUCED (log 48). -/
def State.respond (t s : State) (b : List Byte) : State :=
  if t.stringsUp then t.sendStrings 3 b else t.emit (.strings (s.canId 3) b)

/-- A REQUEST of another node, where this node answers (R651, R652, R655). DEDUCED (log 48). -/
def State.request (s : State) (node : Nat) (f : State → State) : State :=
  s.fromNode node fun s => if s.stringsUp then f s else s

/-- The STATUS of a write that led from `s` to `t` (R623, Table 15.3). -/
def writeStatus (who : Requester) (s t : State) : Nat :=
  if t.area who 0x45 ≠ s.area who 0x45 then 0 else bitsOf (t.area who 0x42).toNat 7 0

/-- One sample of an entry in entry-length bytes (R610). DESIGN CHOICE (log 95). -/
def State.sample (s : State) (who : Requester) (l : EntLoc) (k : Nat) : List Byte :=
  if l.row.ty.long then s.sampleLong l k else leBytes l.row.ty.bytes (s.slotView who l k).toNat

/-- The state after a sample: the age of a sensor's sample is a free value. -/
def State.sampled (s : State) (l : EntLoc) : State := if l.row.ent = .sensor then s.takeFree else s

/-- A write of an entry with entry-length bytes; another length is refused with SIZE (R656). DEDUCED (log 48). -/
def State.stringsWrite (s : State) (who : Requester) (idx sub : Nat) (bytes : List Byte) : State :=
  match findEntry idx sub with
  | none => s.refuse who .noEntry idx sub
  | some l =>
    if bytes.length ≠ l.row.ty.bytes then s.refuse who .size idx sub
    else if l.row.ty.long then s.writeLong who idx sub bytes
    else s.writeSlot who idx sub (stringsValue l.row.ty (wd (leNat bytes)))

/-- Whether an entry is longer than a READ or WRITE can carry (Table 16.10). -/
def segRequired (idx sub : Nat) : Bool :=
  match findEntry idx sub with
  | some l => decide (56 < l.row.ty.bytes)
  | none => false

/-- DAP_READ (R654, R655). -/
def execDapRead (node txn idx sub : Nat) (s : State) : Host.Outcome State Fault Refusal :=
  let who := Requester.strings node
  .next (s.request node fun s =>
    if segRequired idx sub then s.respond s (response node 1 txn 0x21 idx sub [])
    else
      match s.gateRead who idx sub with
      | .error r => (s.refuse who r idx sub).respond s (response node 1 txn r.code idx sub [])
      | .ok l => (s.sampled l).respond s (response node 1 txn 0 idx sub (s.sample who l (slotKey idx sub))))

/-- DAP_WRITE (R656). -/
def execDapWrite (node txn idx sub : Nat) (v : List Byte) (s : State) : Host.Outcome State Fault Refusal :=
  let who := Requester.strings node
  .next (s.request node fun s =>
    if segRequired idx sub then s.respond s (response node 2 txn 0x21 idx sub [])
    else
      let t := s.stringsWrite who idx sub v
      t.respond s (response node 2 txn (writeStatus who s t) idx sub []))

/-! ### Segmented transfers (R657, R658) -/

/-- The transfer of a node, if it holds one. -/
def State.seg? (s : State) (node : Nat) : Option SegSt := s.mario.segs.find? fun x => x.node == node

/-- The state without the transfer of a node. -/
def State.dropSeg (s : State) (node : Nat) : State :=
  { s with mario := { s.mario with segs := s.mario.segs.filter fun x => x.node != node } }

/-- The state in which a node's transfer is this one. DEDUCED (log 49). -/
def State.putSeg (s : State) (x : SegSt) : State :=
  let t := s.dropSeg x.node
  { t with mario := { t.mario with segs := t.mario.segs ++ [x] } }

/-- Whether a further transfer fits: at most 4, and an INIT of a node that holds one replaces it. -/
def State.segFits (s : State) (node : Nat) : Bool := (s.seg? node).isSome || decide (s.mario.segs.length < 4)

/-- SEG_READ_INIT (R657): one sample of the entry is taken. -/
def execSegReadInit (node txn idx sub : Nat) (s : State) : Host.Outcome State Fault Refusal :=
  let who := Requester.strings node
  .next (s.request node fun s =>
    if s.segFits node = false then s.respond s (response node 3 txn 0x24 idx sub [])
    else
      match s.gateRead who idx sub with
      | .error r => (s.refuse who r idx sub).respond s (response node 3 txn r.code idx sub [])
      | .ok l =>
        let b := s.sample who l (slotKey idx sub)
        let x : SegSt := { node := node, tid := txn, idx := idx, sub := sub, writes := false, total := b.length, bytes := b }
        ((s.sampled l).putSeg x).respond s (response node 3 txn 0 idx sub (leBytes 2 b.length)))

/-- SEG_WRITE_INIT (R657): a segmented write of TOTAL bytes opens. -/
def execSegWriteInit (node txn idx sub total : Nat) (s : State) : Host.Outcome State Fault Refusal :=
  .next (s.request node fun s =>
    if s.segFits node = false then s.respond s (response node 5 txn 0x24 idx sub [])
    else
      let x : SegSt := { node := node, tid := txn, idx := idx, sub := sub, writes := true, total := total % 65536 }
      (s.putSeg x).respond s (response node 5 txn 0 idx sub []))

/-- A segment numbered `k` of the matching transfer: 0x22 where there is none, the last RESPONSE again for k - 1, and 0x23
for any other number than the expected one (R658, Table 16.10). DEDUCED (log 49). -/
def State.segment (s : State) (node txn op idx sub k : Nat) (writes : Bool) (f : SegSt → State → State) : State :=
  s.request node fun s =>
    match s.seg? node with
    | none => s.respond s (response node op txn 0x22 idx sub [])
    | some x =>
      if x.tid ≠ txn ∨ x.writes ≠ writes then s.respond s (response node op txn 0x22 idx sub [])
      else if k + 1 = x.next then s.respond s x.last
      else if k ≠ x.next then s.respond s (response node op txn 0x23 idx sub [])
      else f x s

/-- SEG_READ_NEXT (R657): segment k of the sample. -/
def execSegReadNext (node txn idx sub k : Nat) (s : State) : Host.Outcome State Fault Refusal :=
  .next (s.segment node txn 4 idx sub k false fun x s =>
    let d := (x.bytes.drop (56 * k)).take 56
    if d = [] then s.respond s (response node 4 txn 0x23 idx sub [])
    else
      let b := response node 4 txn 0 idx sub d
      (s.putSeg { x with next := k + 1, last := b }).respond s b)

/-- SEG_WRITE_DATA (R657): segment k is buffered, and the write is applied when TOTAL bytes have arrived. -/
def execSegWriteData (node txn idx sub k : Nat) (bytes : List Byte) (s : State) : Host.Outcome State Fault Refusal :=
  let who := Requester.strings node
  .next (s.segment node txn 6 idx sub k true fun x s =>
    if x.next ≠ 0 ∧ x.total ≤ x.bytes.length then s.respond s (response node 6 txn 0x23 idx sub [])
    else
      let all := (x.bytes ++ bytes.take 56).take x.total
      let t := if x.total ≤ all.length then s.stringsWrite who x.idx x.sub all else s
      let status := if x.total ≤ all.length then writeStatus who s t else 0
      let b := response node 6 txn status idx sub []
      (t.putSeg { x with bytes := all, next := k + 1, last := b }).respond s b)

/-- SEG_ABORT (R654, Table 16.9): the transfer is discarded. -/
def execSegAbort (node txn idx sub : Nat) (s : State) : Host.Outcome State Fault Refusal :=
  .next (s.request node fun s =>
    match s.seg? node with
    | some x =>
      if x.tid = txn then (s.dropSeg node).respond s (response node 7 txn 0 idx sub [])
      else s.respond s (response node 7 txn 0x22 idx sub [])
    | none => s.respond s (response node 7 txn 0x22 idx sub []))

/-- SEG_TRANSFER_TIMEOUT (R657): 500 ms without a request. -/
def execSegTransferTimeout (node : Nat) (s : State) : Host.Outcome State Fault Refusal := .next (s.dropSeg node)

end Sys2Proof.Machine
end

