-- ==== Sys2Proof/Machine/Rings.lean ====
section
/-!
DEFINITION. Machine/Rings.lean: doorbells, ring fetch, completion queues, NOP, ORDER and the completion of descriptors.
-/
namespace Sys2Proof.Machine

/-- Whether a function reaches a ring page (R534): its BAR0 is served, and the ring is its partition's. -/
def State.ringPageOk (s : State) (fn r : Nat) : Bool :=
  s.bar0Ok fn && decide (r < 128) && s.ringLife r != 0 && s.ringPart r == fn

/-- Whether a doorbell value is accepted (R535). -/
def State.doorbellOk (s : State) (r v : Nat) : Bool :=
  decide ((v + 2 ^ 32 - s.nat (kRingProd r)) % 2 ^ 32 +
    (s.nat (kRingProd r) + 2 ^ 32 - s.nat (kRingCons r)) % 2 ^ 32 ≤ s.nat (kRingEntries r))

/-- DOORBELL (R535): discarded by a QUIESCING ring (R498), accepted as RING_PROD, or counted invalid. -/
def execDoorbell (fn ring v : Nat) (s : State) : Host.Outcome State Fault Refusal :=
  if s.ringPageOk fn ring = false then .next s
  else if s.ringLife ring = 2 then .next (s.bump (kDoorbellsDiscarded ring))
  else if s.doorbellOk ring (v % 2 ^ 32) then .next (s.setNat (kRingProd ring) (v % 2 ^ 32))
  else .next (s.bump (kDoorbellInvalid ring))

/-- Fetches entry `i` of a ring: 64 bytes of the partition's HBM, or zeros at an unmapped address (R532, R539).  It is
available from the next frame on (R538). -/
def State.fetchEntry (s : State) (r i : Nat) : State :=
  let va := s.nat (kRingBase r) + 64 * (i % max (s.nat (kRingEntries r)) 1)
  let (pa, s) := s.translate (s.ringPart r) va false
  let s := match pa with | some a => s.mscTouch a false | none => s
  let e := match pa with
    | some a => leNat (s.hbmRead a 64)
    | none => 0
  s.setRing r { s.ring r with fetched := (s.ring r).fetched ++ [(e, s.tb.ticks + 1)] }

/-- Entries that accepted doorbells cover and that have not been fetched. -/
def State.unfetched (s : State) (r : Nat) : List Nat :=
  let n := (s.ring r).fetched.length
  let left := (s.nat (kRingProd r) + 2 ^ 32 - s.nat (kRingCons r)) % 2 ^ 32
  countFrom (s.nat (kRingCons r) + n) (left - n)

/-- ENTRIES_FETCHED (R538). -/
def execEntriesFetched (ring : Nat) (s : State) : Host.Outcome State Fault Refusal :=
  if s.ringLife ring = 0 then .next s else .next ((s.unfetched ring).foldl (fun s i => s.fetchEntry ring i) s)

/-- CQ_CONS_WRITE (R556). DEDUCED (log 58). -/
def execCqConsWrite (fn ring v : Nat) (s : State) : Host.Outcome State Fault Refusal :=
  if s.ringPageOk fn ring then .next (s.setNat (kCqCons ring) (v % 2 ^ 32)) else .next s

/-- A descriptor that completes in its commit frame with OK and CYCLES 0 (R545). -/
def State.completeAtCommit (s : State) (d : Desc) : State :=
  (s.modDesc d.id fun d => { d with ended := true, status := stOk, endFrame := d.commitFrame, cycles := 0 }).completeDesc d.id

/-- NOP (R539, R545). -/
def execNop (id : Nat) (s : State) : Host.Outcome State Fault Refusal :=
  .next (s.runOff id [0] fun s d => s.completeAtCommit d)

/-- The descriptors committed earlier on a descriptor's core. -/
def State.earlierOnCore (s : State) (d : Desc) : List Desc :=
  (s.inflight.takeWhile fun e => e.id != d.id).filter fun e => coreRun e.opcode && e.core == d.core

/-- ORDER_BEGINS (R585): every earlier descriptor of the core has issued its last access; `waited` is how many cycles pass
until the last in-scope write lands. -/
def execOrderBegins (id waited : Nat) (s : State) : Host.Outcome State Fault Refusal :=
  .next (s.runOff id [1] fun s d =>
    if (s.earlierOnCore d).all (·.ended) && s.tb.window == .compute then
      s.modDesc id fun d => { d with prog := { d.prog with orderBegun := true, orderCc := waited } }
    else s)

/-- Whether a posted write is of a kind that an ORDER's SCOPE selects (R584). -/
def inScope (scope : Nat) (w : PostedWrite) : Bool :=
  match w.place with
  | .store .. => bitOf scope 0
  | .hbm .. => bitOf scope 1

/-- ORDER (R585): once begun, it ends 4 cc after the last in-scope write of the earlier descriptors of its core has
landed. -/
def execOrder (id : Nat) (s : State) : Host.Outcome State Fault Refusal :=
  .next (s.runOff id [1] fun s d =>
    let before := (s.earlierOnCore d).map (·.id)
    if d.prog.orderBegun && s.tb.window == .compute && !(s.posted.any fun w => before.contains w.desc && inScope (d.at 9 1) w) then
      let n := d.prog.orderCc + 4
      let s := (s.spend id n).endDesc id stOk
      match s.descCore d with
      | some c => (s.bump (kOrdersRun c)).wrapAdd (kOrderWaitCc c) n
      | none => s
    else s)

end Sys2Proof.Machine
end

