-- ==== Sys2Proof/Machine/Dispatch.lean ====
section
/-!
DEFINITION. Machine/Dispatch.lean: one arm for each command, each a direct call of that command's meaning.
-/
namespace Sys2Proof.Machine
open Sys2Proof

/-- The effect of a command on everything but the queue. -/
def exec (i : Instr) (s : State) : Host.Outcome State Fault Refusal :=
  match i with
  | .frameBoundary o => Sys2Proof.Machine.execFrameBoundary o s
  | .runaheadStart => Sys2Proof.Machine.execRunaheadStart s
  | .maintenanceWindow o => Sys2Proof.Machine.execMaintenanceWindow o s
  | .overrun => Sys2Proof.Machine.execOverrun s
  | .geometrySwitch => Sys2Proof.Machine.execGeometrySwitch s
  | .switchFrameWrite who v => Sys2Proof.Machine.execSwitchFrameWrite who v s
  | .frameSeedWrite who v => Sys2Proof.Machine.execFrameSeedWrite who v s
  | .syncInEdge phase o => Sys2Proof.Machine.execSyncInEdge phase o s
  | .syncLineFault line => Sys2Proof.Machine.execSyncLineFault line s
  | .syncStuck => Sys2Proof.Machine.execSyncStuck s
  | .refQualified ref offset => Sys2Proof.Machine.execRefQualified ref offset s
  | .refLost ref => Sys2Proof.Machine.execRefLost ref s
  | .offsetExceeded => Sys2Proof.Machine.execOffsetExceeded s
  | .lockAcquired => Sys2Proof.Machine.execLockAcquired s
  | .freerunEntered => Sys2Proof.Machine.execFreerunEntered s
  | .stepDone offset refFrame => Sys2Proof.Machine.execStepDone offset refFrame s
  | .ptmDialogue => Sys2Proof.Machine.execPtmDialogue s
  | .ptmResponse time => Sys2Proof.Machine.execPtmResponse time s
  | .ptmTimeout => Sys2Proof.Machine.execPtmTimeout s
  | .ptmEnableClear => Sys2Proof.Machine.execPtmEnableClear s
  | .doorbell fn ring v => Sys2Proof.Machine.execDoorbell fn ring v s
  | .entriesFetched ring => Sys2Proof.Machine.execEntriesFetched ring s
  | .cqConsWrite fn ring v => Sys2Proof.Machine.execCqConsWrite fn ring v s
  | .nop id => Sys2Proof.Machine.execNop id s
  | .order id => Sys2Proof.Machine.execOrder id s
  | .orderBegins id waited => Sys2Proof.Machine.execOrderBegins id waited s
  | .precisionSet id => Sys2Proof.Machine.execPrecisionSet id s
  | .matmul id o => Sys2Proof.Machine.execMatmul id o s
  | .quantise id o => Sys2Proof.Machine.execQuantise id o s
  | .reduce id o => Sys2Proof.Machine.execReduce id o s
  | .fill id o => Sys2Proof.Machine.execFill id o s
  | .copy id o => Sys2Proof.Machine.execCopy id o s
  | .transfer id o => Sys2Proof.Machine.execTransfer id o s
  | .bucketForm id o => Sys2Proof.Machine.execBucketForm id o s
  | .attnScore id o => Sys2Proof.Machine.execAttnScore id o s
  | .attnScoreRecompute id o => Sys2Proof.Machine.execAttnScoreRecompute id o s
  | .attnNorm id o => Sys2Proof.Machine.execAttnNorm id o s
  | .attnPv id o => Sys2Proof.Machine.execAttnPv id o s
  | .kvAppend id o => Sys2Proof.Machine.execKvAppend id o s
  | .kvRelease id => Sys2Proof.Machine.execKvRelease id s
  | .pageExport id => Sys2Proof.Machine.execPageExport id s
  | .cut id => Sys2Proof.Machine.execCut id s
  | .replay id => Sys2Proof.Machine.execReplay id s
  | .restore id => Sys2Proof.Machine.execRestore id s
  | .reduceScatter id => Sys2Proof.Machine.execReduceScatter id s
  | .allGather id => Sys2Proof.Machine.execAllGather id s
  | .allReduce id => Sys2Proof.Machine.execAllReduce id s
  | .broadcast id => Sys2Proof.Machine.execBroadcast id s
  | .allToAll id => Sys2Proof.Machine.execAllToAll id s
  | .rhizoid id => Sys2Proof.Machine.execRhizoid id s
  | .boundsLanded id o => Sys2Proof.Machine.execBoundsLanded id o s
  | .walkLanded id o => Sys2Proof.Machine.execWalkLanded id o s
  | .operandFetchLanded id o => Sys2Proof.Machine.execOperandFetchLanded id o s
  | .tileStart o => Sys2Proof.Machine.execTileStart o s
  | .descriptorComplete id => Sys2Proof.Machine.execDescriptorComplete id s
  | .writeLands o => Sys2Proof.Machine.execWriteLands o s
  | .sectorZeroDone n => Sys2Proof.Machine.execSectorZeroDone n s
  | .lsWeightMapWrite who core v => Sys2Proof.Machine.execLsWeightMapWrite who core v s
  | .lsSpecMapWrite who core v => Sys2Proof.Machine.execLsSpecMapWrite who core v s
  | .fsWeightMapWrite who frond m v => Sys2Proof.Machine.execFsWeightMapWrite who frond m v s
  | .fsOwnerWrite who frond bytes => Sys2Proof.Machine.execFsOwnerWrite who frond bytes s
  | .residueInjectWrite who core v => Sys2Proof.Machine.execResidueInjectWrite who core v s
  | .precLayerWrite who part layer v => Sys2Proof.Machine.execPrecLayerWrite who part layer v s
  | .shapeRegWrite who ring k v => Sys2Proof.Machine.execShapeRegWrite who ring k v s
  | .bucketEdgeWrite who part k v => Sys2Proof.Machine.execBucketEdgeWrite who part k v s
  | .ropeSetWrite who part sub v => Sys2Proof.Machine.execRopeSetWrite who part sub v s
  | .kvPoolConfigWrite who part sub v => Sys2Proof.Machine.execKvPoolConfigWrite who part sub v s
  | .poolEmptied part => Sys2Proof.Machine.execPoolEmptied part s
  | .recompConsWrite who part v => Sys2Proof.Machine.execRecompConsWrite who part v s
  | .streamUp who st => Sys2Proof.Machine.execStreamUp who st s
  | .streamDown who st => Sys2Proof.Machine.execStreamDown who st s
  | .recordSend st ecc => Sys2Proof.Machine.execRecordSend st ecc s
  | .ackReceived st ack => Sys2Proof.Machine.execAckReceived st ack s
  | .retransmit st => Sys2Proof.Machine.execRetransmit st s
  | .cutFreeze part => Sys2Proof.Machine.execCutFreeze part s
  | .recordReceived win via start len => Sys2Proof.Machine.execRecordReceived win via start len s
  | .restoreTimeout job => Sys2Proof.Machine.execRestoreTimeout job s
  | .winOpen who win => Sys2Proof.Machine.execWinOpen who win s
  | .winClose who win => Sys2Proof.Machine.execWinClose who win s
  | .winConsumedWrite who win v => Sys2Proof.Machine.execWinConsumedWrite who win v s
  | .streamAckWrite who st bytes => Sys2Proof.Machine.execStreamAckWrite who st bytes s
  | .regionWrite who part sub v => Sys2Proof.Machine.execRegionWrite who part sub v s
  | .slotStart port slot => Sys2Proof.Machine.execSlotStart port slot s
  | .cellReceived port bytes arrival fec => Sys2Proof.Machine.execCellReceived port bytes arrival fec s
  | .markerReceived port bytes arrival fec => Sys2Proof.Machine.execMarkerReceived port bytes arrival fec s
  | .violUnmute port => Sys2Proof.Machine.execViolUnmute port s
  | .portEnable who port => Sys2Proof.Machine.execPortEnable who port s
  | .portDisable who port => Sys2Proof.Machine.execPortDisable who port s
  | .restoreLane who port => Sys2Proof.Machine.execRestoreLane who port s
  | .trainingDone port lanes rtt => Sys2Proof.Machine.execTrainingDone port lanes rtt s
  | .trainFail port => Sys2Proof.Machine.execTrainFail port s
  | .laneFault port lane => Sys2Proof.Machine.execLaneFault port lane s
  | .laneSwitch port => Sys2Proof.Machine.execLaneSwitch port s
  | .laneConfirmTimeout port => Sys2Proof.Machine.execLaneConfirmTimeout port s
  | .los port => Sys2Proof.Machine.execLos port s
  | .slotTableWrite who port table slot v => Sys2Proof.Machine.execSlotTableWrite who port table slot v s
  | .slotSwitchFrameWrite who port v => Sys2Proof.Machine.execSlotSwitchFrameWrite who port v s
  | .slotBankSwitch port => Sys2Proof.Machine.execSlotBankSwitch port s
  | .rocePacketReceived eth pkt => Sys2Proof.Machine.execRocePacketReceived eth pkt s
  | .qpError qp => Sys2Proof.Machine.execQpError qp s
  | .exchangeFrame group => Sys2Proof.Machine.execExchangeFrame group s
  | .stageSettle group => Sys2Proof.Machine.execStageSettle group s
  | .collectiveComplete group => Sys2Proof.Machine.execCollectiveComplete group s
  | .collSlackExpiry group => Sys2Proof.Machine.execCollSlackExpiry group s
  | .rhizoidStageReduced group => Sys2Proof.Machine.execRhizoidStageReduced group s
  | .xwaitExpiry group => Sys2Proof.Machine.execXwaitExpiry group s
  | .groupDefWrite who group v => Sys2Proof.Machine.execGroupDefWrite who group v s
  | .planeWrite who sub v => Sys2Proof.Machine.execPlaneWrite who sub v s
  | .partCreate who part => Sys2Proof.Machine.execPartCreate who part s
  | .partDestroy who part => Sys2Proof.Machine.execPartDestroy who part s
  | .partHalt who part => Sys2Proof.Machine.execPartHalt who part s
  | .partResume who part => Sys2Proof.Machine.execPartResume who part s
  | .partAbort who part => Sys2Proof.Machine.execPartAbort who part s
  | .haltedReached part => Sys2Proof.Machine.execHaltedReached part s
  | .ctxCreate who ctx part => Sys2Proof.Machine.execCtxCreate who ctx part s
  | .ctxDestroy who ctx => Sys2Proof.Machine.execCtxDestroy who ctx s
  | .ringCreate who ring => Sys2Proof.Machine.execRingCreate who ring s
  | .ringEnable who ring => Sys2Proof.Machine.execRingEnable who ring s
  | .ringDisable who ring => Sys2Proof.Machine.execRingDisable who ring s
  | .ringDestroy who ring => Sys2Proof.Machine.execRingDestroy who ring s
  | .drainComplete ring => Sys2Proof.Machine.execDrainComplete ring s
  | .abortComplete job => Sys2Proof.Machine.execAbortComplete job s
  | .abortStop id => Sys2Proof.Machine.execAbortStop id s
  | .fenceCreate who fence ctx exportable imported => Sys2Proof.Machine.execFenceCreate who fence ctx exportable imported s
  | .fenceDestroy who fence => Sys2Proof.Machine.execFenceDestroy who fence s
  | .fenceSignalCmd who fence => Sys2Proof.Machine.execFenceSignalCmd who fence s
  | .fenceReset who fence => Sys2Proof.Machine.execFenceReset who fence s
  | .fenceSubsWrite who fence v => Sys2Proof.Machine.execFenceSubsWrite who fence v s
  | .fenceHandleWrite who fence link v => Sys2Proof.Machine.execFenceHandleWrite who fence link v s
  | .fencePageSignal fn fence gen => Sys2Proof.Machine.execFencePageSignal fn fence gen s
  | .fencePageReset fn fence gen => Sys2Proof.Machine.execFencePageReset fn fence gen s
  | .coreOwnerWrite who frond v => Sys2Proof.Machine.execCoreOwnerWrite who frond v s
  | .granuleOwnerWrite who bytes => Sys2Proof.Machine.execGranuleOwnerWrite who bytes s
  | .granuleZeroed => Sys2Proof.Machine.execGranuleZeroed s
  | .mapBaseWrite who part v => Sys2Proof.Machine.execMapBaseWrite who part v s
  | .mapSync who part v => Sys2Proof.Machine.execMapSync who part v s
  | .runaheadWrite who part v => Sys2Proof.Machine.execRunaheadWrite who part v s
  | .bulkRead who idx sub => Sys2Proof.Machine.execBulkRead who idx sub s
  | .bulkWrite who idx sub len => Sys2Proof.Machine.execBulkWrite who idx sub len s
  | .dictClear who v => Sys2Proof.Machine.execDictClear who v s
  | .dictWrite who offset bytes v => Sys2Proof.Machine.execDictWrite who offset bytes v s
  | .persistSave who => Sys2Proof.Machine.execPersistSave who s
  | .persistSaveDone ok => Sys2Proof.Machine.execPersistSaveDone ok s
  | .persistErase who => Sys2Proof.Machine.execPersistErase who s
  | .sensorSample ch value faulty => Sys2Proof.Machine.execSensorSample ch value faulty s
  | .powerOn who => Sys2Proof.Machine.execPowerOn who s
  | .powerOff who => Sys2Proof.Machine.execPowerOff who s
  | .chipReset who => Sys2Proof.Machine.execChipReset who s
  | .powerCycle who => Sys2Proof.Machine.execPowerCycle who s
  | .marionetteBoot straps => Sys2Proof.Machine.execMarionetteBoot straps s
  | .marionetteRestart => Sys2Proof.Machine.execMarionetteRestart s
  | .dapRead node txn idx sub => Sys2Proof.Machine.execDapRead node txn idx sub s
  | .dapWrite node txn idx sub v => Sys2Proof.Machine.execDapWrite node txn idx sub v s
  | .segReadInit node txn idx sub => Sys2Proof.Machine.execSegReadInit node txn idx sub s
  | .segReadNext node txn idx sub k => Sys2Proof.Machine.execSegReadNext node txn idx sub k s
  | .segWriteInit node txn idx sub total => Sys2Proof.Machine.execSegWriteInit node txn idx sub total s
  | .segWriteData node txn idx sub k bytes => Sys2Proof.Machine.execSegWriteData node txn idx sub k bytes s
  | .segAbort node txn idx sub => Sys2Proof.Machine.execSegAbort node txn idx sub s
  | .segTransferTimeout node => Sys2Proof.Machine.execSegTransferTimeout node s
  | .search node epoch window => Sys2Proof.Machine.execSearch node epoch window s
  | .searchReply waited => Sys2Proof.Machine.execSearchReply waited s
  | .lateSearchAnnounce => Sys2Proof.Machine.execLateSearchAnnounce s
  | .announce => Sys2Proof.Machine.execAnnounce s
  | .heartbeat => Sys2Proof.Machine.execHeartbeat s
  | .nodePresent node period epoch => Sys2Proof.Machine.execNodePresent node period epoch s
  | .nodeAbsent node => Sys2Proof.Machine.execNodeAbsent node s
  | .dupId => Sys2Proof.Machine.execDupId s
  | .busOffRecovery => Sys2Proof.Machine.execBusOffRecovery s
  | .updateOpen who => Sys2Proof.Machine.execUpdateOpen who s
  | .updateChunk who bytes => Sys2Proof.Machine.execUpdateChunk who bytes s
  | .updateVerify who => Sys2Proof.Machine.execUpdateVerify who s
  | .updateVerifyDone sigOk => Sys2Proof.Machine.execUpdateVerifyDone sigOk s
  | .updateActivate who => Sys2Proof.Machine.execUpdateActivate who s
  | .updateCommit who => Sys2Proof.Machine.execUpdateCommit who s
  | .updateCancel who => Sys2Proof.Machine.execUpdateCancel who s
  | .updateReverted => Sys2Proof.Machine.execUpdateReverted s
  | .updateSessionTimeout => Sys2Proof.Machine.execUpdateSessionTimeout s
  | .chipResetRelease => Sys2Proof.Machine.execChipResetRelease s
  | .bootWaitEntered => Sys2Proof.Machine.execBootWaitEntered s
  | .fwVerify who => Sys2Proof.Machine.execFwVerify who s
  | .fwClear who => Sys2Proof.Machine.execFwClear who s
  | .stagingWrite fn off bytes => Sys2Proof.Machine.execStagingWrite fn off bytes s
  | .proxyCellReceived port bytes => Sys2Proof.Machine.execProxyCellReceived port bytes s
  | .proxyBindTimeout => Sys2Proof.Machine.execProxyBindTimeout s
  | .verifyDone sigOk => Sys2Proof.Machine.execVerifyDone sigOk s
  | .proxyForward => Sys2Proof.Machine.execProxyForward s
  | .proxySend who v => Sys2Proof.Machine.execProxySend who v s
  | .fwStartDone ok => Sys2Proof.Machine.execFwStartDone ok s
  | .hbmTrainDone ok => Sys2Proof.Machine.execHbmTrainDone ok s
  | .linkTrainDone => Sys2Proof.Machine.execLinkTrainDone s
  | .ready bootMs => Sys2Proof.Machine.execReady bootMs s
  | .fwFloorRaise who v => Sys2Proof.Machine.execFwFloorRaise who v s
  | .watchdogExpiry cmu unit => Sys2Proof.Machine.execWatchdogExpiry cmu unit s
  | .coreFence who core v => Sys2Proof.Machine.execCoreFence who core v s
  | .spareMapped frond slot => Sys2Proof.Machine.execSpareMapped frond slot s
  | .spareSelftestDone frond slot ok => Sys2Proof.Machine.execSpareSelftestDone frond slot ok s
  | .reloadStart frond slot => Sys2Proof.Machine.execReloadStart frond slot s
  | .reloadLanded frond slot => Sys2Proof.Machine.execReloadLanded frond slot s
  | .recoveryRunDone frond slot o => Sys2Proof.Machine.execRecoveryRunDone frond slot o s
  | .recoveryDone part => Sys2Proof.Machine.execRecoveryDone part s
  | .fcRestart frond => Sys2Proof.Machine.execFcRestart frond s
  | .fcRestartDone frond ok => Sys2Proof.Machine.execFcRestartDone frond ok s
  | .fwSwapVerify who sigOk => Sys2Proof.Machine.execFwSwapVerify who sigOk s
  | .fwSwapStaged => Sys2Proof.Machine.execFwSwapStaged s
  | .fwSwapSwap who => Sys2Proof.Machine.execFwSwapSwap who s
  | .fwSwapRevert who => Sys2Proof.Machine.execFwSwapRevert who s
  | .fwSwapCancel who => Sys2Proof.Machine.execFwSwapCancel who s
  | .fwSwapApply => Sys2Proof.Machine.execFwSwapApply s
  | .bar4Access fn off req => Sys2Proof.Machine.execBar4Access fn off req s
  | .vfEnableClear => Sys2Proof.Machine.execVfEnableClear s
  | .flr fn => Sys2Proof.Machine.execFlr fn s
  | .pcieReset => Sys2Proof.Machine.execPcieReset s
  | .dlDown => Sys2Proof.Machine.execDlDown s
  | .msixUnmask fn vec => Sys2Proof.Machine.execMsixUnmask fn vec s
  | .busMasterEnable fn d0 => Sys2Proof.Machine.execBusMasterEnable fn d0 s
  | .inputEnable => Sys2Proof.Machine.execInputEnable s
  | .inputUndervoltage => Sys2Proof.Machine.execInputUndervoltage s
  | .inputFault voltage => Sys2Proof.Machine.execInputFault voltage s
  | .inputReenable => Sys2Proof.Machine.execInputReenable s
  | .thermTrip ch value => Sys2Proof.Machine.execThermTrip ch value s
  | .stopAsserted => Sys2Proof.Machine.execStopAsserted s
  | .stopChatter => Sys2Proof.Machine.execStopChatter s
  | .chatterEnd level => Sys2Proof.Machine.execChatterEnd level s
  | .stopReleased => Sys2Proof.Machine.execStopReleased s
  | .stopRearm who v => Sys2Proof.Machine.execStopRearm who v s
  | .stringsLineShort busOff => Sys2Proof.Machine.execStringsLineShort busOff s
  | .stringsLineOpen => Sys2Proof.Machine.execStringsLineOpen s
  | .dominantTimeout busOff => Sys2Proof.Machine.execDominantTimeout busOff s
  | .syncLineOk => Sys2Proof.Machine.execSyncLineOk s
  | .stringsReconnect => Sys2Proof.Machine.execStringsReconnect s
  | .lossCleared port => Sys2Proof.Machine.execLossCleared port s
  | .ethLinkUp eth => Sys2Proof.Machine.execEthLinkUp eth s
  | .ethLinkDown eth => Sys2Proof.Machine.execEthLinkDown eth s
  | .busMasterDisable fn d3 => Sys2Proof.Machine.execBusMasterDisable fn d3 s
  | .dlUp => Sys2Proof.Machine.execDlUp s
  | .vfEnableSet numVfs => Sys2Proof.Machine.execVfEnableSet numVfs s
  | .ptmEnableSet => Sys2Proof.Machine.execPtmEnableSet s
  | .proxySendDone => Sys2Proof.Machine.execProxySendDone s

end Sys2Proof.Machine
end

