-- ==== Sys2Proof/Machine/Step.lean ====
section
/-!
DEFINITION. Machine/Step.lean: one step takes the command at the front of the queue.
-/
namespace Sys2Proof.Machine

/-- The state with a command put at the front of its queue. DESIGN CHOICE (log 1). -/
def State.pushFront (s : State) (i : Instr) : State := { s with pending := i :: s.pending }

/-- The state with the command that a word spells put at the front of its queue; unchanged where it spells none.
DESIGN CHOICE (log 1). -/
def State.withFetchWord (s : State) (nbits w : Nat) : State :=
  match Sys2Proof.decodeTableWord nbits w with
  | some i => s.pushFront i
  | none => s

/-- One step: the command at the front of the queue runs on the queue's rest; with an empty queue the block idles.
DESIGN CHOICE (log 1). DESIGN CHOICE (log 94). -/
def step (s : State) : Host.Outcome State Fault Refusal :=
  match s.pending with
  | [] => .next s
  | i :: rest => exec i { s with pending := rest }

end Sys2Proof.Machine
end

