-- ==== Sys2Proof/Safety.lean ====
section
/-!
DEFINITION. Safety.lean: what counts as a safe run, the canonical form of the memories, and the words in which the statements
say when a command is accepted and when an engine may run.
-/
namespace Sys2Proof.Machine

/-- The canonical form of every memory and register file of the block: its numbers strictly rise, and no entry equals what an
unlisted number reads as. -/
def Memory.wf (s : State) : Bool :=
  Tbl.wf regDefault s.regs && Tbl.wf octDefault s.octs && Tbl.wf (fun _ => (0 : Word)) s.areas &&
  Tbl.wf (fun _ => (0 : Byte)) s.ls && Tbl.wf (fun _ => (0 : Byte)) s.fs && Tbl.wf (fun _ => (0 : BitVec 32)) s.acc &&
  Tbl.wf (fun _ => (0 : Byte)) s.hbm && Tbl.wf (fun _ => (0 : Byte)) s.ackMem &&
  Tbl.wf (fun _ => (0 : Byte)) s.mario.flash

/-- A channel's levels and runs after a sample, by the channel's thresholds (R640). -/
def State.sensorNext (s : State) (ch : Nat) (value : Int) : SensorSt :=
  let wh := (s.reg (kWarnHi (ch - 1))).toInt
  let xh := (s.reg (kCritHi (ch - 1))).toInt
  let wl := (s.reg (kWarnLo (ch - 1))).toInt
  let xl := (s.reg (kCritLo (ch - 1))).toInt
  let temp := decide (ch ≤ 0x16)
  (Tbl.get {} s.mario.sensors ch).next (beyondLevel value wh wl) (beyondLevel value xh xl) (insideLevel temp value wh wl)
    (insideLevel temp value xh xl)

end Sys2Proof.Machine

namespace Sys2Proof.Safety

open Sys2Proof.Machine

/-- A run of `n` steps from a state meets neither a fault nor a refusal. -/
def runs (n : Nat) (s : State) : Prop := ∃ t, Sys2Proof.core.run n s = .next t

/-- A write of value `v` to the slot numbered `k` of entry `e` passes the tests 1 to 8 of R833: the requester exists, and the
slot exists now, may be written by it, fits the value and meets its halt condition. -/
def accepts (s : State) (who : Requester) (e : Ent) (k : Nat) (v : Word) : Prop :=
  s.requesterOk who = true ∧ ∃ l, s.gateSlot who e k v = .ok l

/-- A write of a long entry passes the tests 1 to 8 of R833. -/
def acceptsLong (s : State) (who : Requester) (idx sub : Nat) (bytes : List Byte) : Prop :=
  s.requesterOk who = true ∧ ∃ l, s.gateLong who idx sub bytes = .ok l

/-- Every slot whose number is not listed reads as before. -/
def slotsKept (s t : State) (changed : List Nat) : Prop := ∀ k, k ∉ changed → t.reg k = s.reg k

/-- Every byte of every store, of HBM, of the long entries and of the acknowledgement region, and every accumulator, reads as
before. -/
def memoryKept (s t : State) : Prop :=
  (∀ a, Tbl.get 0 t.ls a = Tbl.get 0 s.ls a) ∧ (∀ a, Tbl.get 0 t.fs a = Tbl.get 0 s.fs a) ∧
  (∀ a, Tbl.get 0 t.acc a = Tbl.get 0 s.acc a) ∧ (∀ a, Tbl.get 0 t.hbm a = Tbl.get 0 s.hbm a) ∧
  (∀ k i, t.oct k i = s.oct k i) ∧ (∀ a, Tbl.get 0 t.ackMem a = Tbl.get 0 s.ackMem a) ∧
  (∀ a, Tbl.get 0 t.mario.flash a = Tbl.get 0 s.mario.flash a)

/-- The descriptors in flight, the rings, the writes not landed and the jobs under way are as before. -/
def workKept (s t : State) : Prop :=
  t.inflight = s.inflight ∧ t.rings = s.rings ∧ t.posted = s.posted ∧ t.jobs = s.jobs ∧ t.aborts = s.aborts

/-- The words of every requester's area are as before. -/
def areasKept (s t : State) : Prop := ∀ who sub, t.area who sub = s.area who sub

/-- A committed descriptor that a command of its opcode may run on core `c`: the compute window is open, it has not ended, no
ORDER holds it back, its slot is not in recovery, and its slot is mapped (R50, R545, R586, R710). -/
def onCore (s : State) (id op : Nat) (d : Desc) (c : Nat) : Prop :=
  s.desc? id = some d ∧ d.ended = false ∧ s.tb.window = .compute ∧ d.opcode = op ∧ s.orderBlocks d = false ∧
  s.slotStopped d.core.1 d.core.2 = false ∧ s.descCore d = some c

/-- The engines met no error of a memory while the command ran. -/
def unharmed (o : RunObs) : Prop :=
  o.tableBad = false ∧ o.upsets = [] ∧ o.hbmBad = none ∧ o.mscBad = none ∧ o.tagBad = none

/-- What a command leaves that runs a descriptor's work `f` on its core: what the engines met is counted and the lost cycles are
charged (R120); a descriptor whose work met a slot in recovery waits and has done nothing (R712); one whose work met a CORE fault
of its own slot is left to its recovery (R710); one that met an unmapped address leaves the rest of its outputs undefined
(R525). -/
def ran (s : State) (id : Nat) (d : Desc) (o : RunObs) (f : State → State) : State :=
  let u := (s.observe o).spend id (obsLost o)
  let t := { f { u with slotWait := false } with errs := [] }
  (if t.slotWait then { u with errs := [] }.waits id
    else if t.slotStopped d.core.1 d.core.2 then
      t.modDesc id fun e => { e with ended := false, status := 0, torn := false }
    else t).tearTorn id

/-- Work on a core has gone well: it met no slot in recovery, and its descriptor is neither ended nor left torn (R525, R712). -/
def wentWell (v : State) (id : Nat) (d : Desc) : Prop :=
  v.slotWait = false ∧ v.slotStopped d.core.1 d.core.2 = false ∧
  ∃ e, v.desc? id = some e ∧ e.ended = false ∧ e.torn = false

/-- The open tile `t` of a descriptor may run on core `c`: its operands have landed and its generators are free, no mismatch is
armed, and no error of a memory waits to be reported (R185, R224, R252). -/
def tileReady (s : State) (id op : Nat) (d : Desc) (c : Nat) (t : Tile) : Prop :=
  onCore s id op d c ∧ d.curTile = some t ∧ d.prog.tileOpen = true ∧ d.prog.fetched = true ∧ d.torn = false ∧
  s.genBusy d = false ∧ s.nat (kResidueInject c) ≠ 1 ∧ s.errs = [] ∧ s.slotWait = false

/-- A tile has finished its work, which had left `v` (R188, R245): TILES_RUN counts it, the next position of the descriptor is due,
and the descriptor ends with OK where it owns no further one. -/
def tileFinished (v t : State) (id : Nat) (d : Desc) (c : Nat) : Prop :=
  t.nat (kTilesRun c) = (v.nat (kTilesRun c) + 1) % 2 ^ 64 ∧ t.posted = v.posted ∧ t.acc = v.acc ∧ t.hbm = v.hbm ∧
  slotsKept v t [kTilesRun c] ∧
  ∃ e, t.desc? id = some e ∧ e.prog.tile = d.prog.tile + 1 ∧ e.prog.tileOpen = false ∧
    (d.owned (d.prog.tile + 1) = none → e.ended = true ∧ e.status = stOk) ∧
    ((d.owned (d.prog.tile + 1)).isSome = true → e.ended = false)

/-- What the passes of a product tile leave (R163 to R187): its accumulators `l` stand in the AS, and its passes, saturations and
NaN results are counted. -/
def passed (u : State) (d : Desc) (c : Nat) (t : Tile) (l : List (List (Int × Nat))) : State :=
  (((u.countTile d c t 0).countSats d c t l).countNans d t l).accWrite d c l

/-- A committed descriptor that a command of its opcode may act on without a core. -/
def offCore (s : State) (id op : Nat) (d : Desc) : Prop := s.desc? id = some d ∧ d.ended = false ∧ d.opcode = op

/-- A buffer of a collective lies in a Local Store that the partition filter passes everywhere for a descriptor, and whose slot is
not in recovery (R150, R447, R712). -/
def bufferOk (s : State) (d : Desc) (field : Nat) : Prop :=
  ∃ a, decodeAddr field = some (.store a) ∧ a.fs = false ∧ s.slotStopped a.frond a.slot = false ∧
    ∀ o, s.filterOk d.part { a with off := o } = true

/-- A collective descriptor of an operation that has not ended. -/
def isColl (s : State) (id op : Nat) (d : Desc) : Prop :=
  s.desc? id = some d ∧ d.ended = false ∧ d.opcode = 0x50 ∧ d.cOp = op

/-- A frame of node `node` reaches this node, which is on the bus and answers it (R636, R651, R652). -/
def heardFrom (s : State) (node : Nat) : Prop :=
  s.hears = true ∧ node ≠ 0 ∧ node < 128 ∧ node ≠ s.nat kNodeId ∧ s.stringsUp = true

/-- The die has lost everything: HBM, its stores and its work; it stays in chip reset, and its ports are in BOOTLINK (R644, R704,
R795). -/
def coldDie (t : State) : Prop :=
  t.hbm = [] ∧ t.ls = [] ∧ t.fs = [] ∧ t.acc = [] ∧ t.inflight = [] ∧ t.posted = [] ∧ t.jobs = [] ∧ t.boot.inReset = true ∧
  ∀ n, n < 16 → t.nat (kPortState n) = 5

/-- A warm chip reset has been done with cause `c` (R700 to R704): HBM and the granules that partitions own are kept, the work is
gone, and the rails stay up. -/
def warmDie (s t : State) (c : Nat) : Prop :=
  t.hbm = s.hbm ∧ t.inflight = [] ∧ t.posted = [] ∧ t.jobs = [] ∧ t.boot.inReset = true ∧ t.boot.cause = c ∧
  t.nat kPowerState = 2 ∧ t.mario.flash = s.mario.flash ∧ t.persist = s.persist ∧ t.out = s.out ∧
  (∀ g, g < 192 → s.oct kGranuleOwner g < 64 → t.oct kGranuleOwner g = s.oct kGranuleOwner g) ∧
  (∀ g, g < 192 → 64 ≤ s.oct kGranuleOwner g → t.oct kGranuleOwner g = 0xFF) ∧ ∀ n, n < 16 → t.nat (kPortState n) = 5

/-- Input power has come back (R670, R791): the Marionette boots, its flash and its counters in ferroelectric memory are kept, and
INPUT_FAULTS says why the power went. -/
def inputBack (s t : State) : Prop :=
  t.mario.inputOn = true ∧ t.mario.restarting = true ∧ t.mario.cause = 0 ∧ t.mario.flash = s.mario.flash ∧
  t.nat kRollbackFloor = s.nat kRollbackFloor ∧ t.nat kLogNextSeq = s.nat kLogNextSeq ∧ t.log = s.log ∧
  t.nat kInputFaults = s.mario.inputCause ∧ t.persist = s.persist

/-- Whether a node's bit of NODES_PRESENT is set. -/
def nodeHere (s : State) (node : Nat) : Bool := bitOf (s.oct kNodesPresent (node / 8)) (node % 8)

/-- The staging area is empty and bound to no source (R686, R690). -/
def stageEmpty (t : State) : Prop :=
  t.nat kStageSource = 0xFE ∧ t.nat kStageBytes = 0 ∧ t.boot.staged = [] ∧ ∀ a, a < stagingBytes → Tbl.get 0 t.fs a = 0

/-- The recovery `r` of a slot is under way. -/
def recovering (s : State) (f sl : Nat) (r : Recovery) : Prop := s.recoveryOf f sl = some r ∧ f < 16 ∧ sl < 8

/-- Whether a write to the entry is a command of its own, or is taken by the requester's area (Table 15.6). -/
def ownEntry (e : Ent) : Bool :=
  [Ent.bulkCtrl, .bulkWord, .dictClear, .partCtrl, .ringCtrl, .ctxCtrl, .fenceCtrl, .fenceHandle, .fenceLink, .fenceSubs,
   .switchFrame, .frameSeed, .planeX, .planeY, .planeDim, .planeIndex, .fwCtrl, .fwFloorRaise, .proxySend, .persistCtrl,
   .fwSwapCtrl, .stopRearm, .coreOwner, .fsWeightMap, .lsWeightMap, .lsSpecMap].contains e ||
  [Ent.residueInject, .coreFence, .precLayer, .shapeReg, .bucketEdge, .ropeBase, .ropeCfg, .kvPoolBase, .kvPoolUnits, .kvGeom,
   .kvMetaBase, .recompCons, .mapBase, .mapSync, .runahead, .portCtrl, .txSlotA, .txSlotB, .rxSlotA, .rxSlotB,
   .slotSwitchFrame, .streamCtrl, .regionBase, .regionSpan, .winState, .winConsumed, .powerCtrl, .updateCtrl,
   .groupDef].contains e

/-- Whether the chapter of an entry with no command of its own states a refusal or a further effect for its writes. -/
def configEntry (e : Ent) : Bool :=
  streamConfig e || winConfig e || qpConfig e || ringConfig e ||
  [Ent.warnHi, .critHi, .warnLo, .critLo, .updateOffset, .alertMask, .syncPolarity, .peerExpect].contains e

end Sys2Proof.Safety
end

