-- ==== Sys2Proof/Certificates/Slice0/Obligations.lean ====
section
/-!
DEFINITION. Certificates/Slice0/Obligations.lean: what is claimed of the block, statement by statement.
-/

open Sys2Proof Sys2Proof.Machine Sys2Proof.Safety

/-- A step runs the command at the front of the queue on the queue's rest; with an empty queue the block idles (the model's
choice, log entry 1).
The model's choice in it is log entry 1. -/
def Obligations.StepRunsFront : Prop :=
  (∀ (s : State) (c : Instr) (rest : List Instr), s.pending = c :: rest → step s = exec c { s with pending := rest }) ∧
  (∀ (s : State) (c : Instr), step (s.pushFront c) = exec c s) ∧ (∀ s : State, s.pending = [] → step s = .next s)

/-- What the machine holds right after reset: no memory and no work, an empty queue, the defaults of the dictionary and a die
that the boot ROM has not yet brought up (R625, Tables 2.7, 15.6, 17.1, 17.3); that no memory is listed and that the rails are up
are the model's choices.
The model's choices in it are log entries 8 and 12. -/
def Obligations.ResetValues : Prop :=
  Memory.wf State.reset = true ∧ State.reset.pending = [] ∧ State.reset.inflight = [] ∧ State.reset.posted = [] ∧
  State.reset.hbm = [] ∧ State.reset.areas = [] ∧ State.reset.bootState = 0 ∧ State.reset.numbered = false ∧
  State.reset.timing = 0 ∧ State.reset.nat kStageSource = 0xFE ∧ State.reset.nat kVfsEnabled = 0 ∧
  (∀ g, g < 192 → State.reset.oct kGranuleOwner g = 0xFF) ∧ (∀ n, n < 16 → State.reset.nat (kPortState n) = 5) ∧
  (∀ p, 1 ≤ p → p < 64 → State.reset.partState p = 0)

/-- Every memory of the block keeps its canonical form over every step from every state that has it.
The model's choice in it is log entry 12. -/
def Obligations.StepsKeepMemoryForm : Prop :=
  ∀ s t : State, Memory.wf s = true → step s = .next t → Memory.wf t = true

/-- Every command completes in every state: none ends in a fault, and the only one that is refused is the Marionette's own write to
the indices that the spec reserves for its diagnostics.
The model's choices in it are log entries 2 and 43. -/
def Obligations.EveryCommandCompletes : Prop :=
  ∀ (c : Instr) (s : State),
    (∀ offset bytes v, c = .dictWrite .marionette offset bytes v → offset / 2048 < 0xF000 ∨ 2 ^ 27 ≤ offset) →
    ∃ t, exec c s = .next t

/-- GEOMETRY_SWITCH and the writes of SWITCH_FRAME and FRAME_SEED (R63, R64, R79): the conditions under which each acts, the
next state, and the refusals of R64 and R79.
The model's choice in it is log entry 54. -/
def Obligations.GeometryAndNumbering : Prop :=
  (∀ (s : State) (fl il sl gd gm : Nat), s.tb.armed = some [fl, il, sl, gd, gm] → geometryOk [fl, il, sl, gd, gm] = true →
    s.nat kSwitchFrame ≤ s.frameNo →
    ∃ t, exec .geometrySwitch s = .next t ∧ t.nat kFrameLen = fl ∧ t.nat kIssueLen = il ∧ t.nat kSlotsPerFrame = sl ∧
      t.nat kGuardNs = gd ∧ t.nat kGuardMaxNs = gm ∧ t.nat kSwitchFrame = 0 ∧ t.bit kTimingEvents 7 = true ∧
      t.tb = { s.tb with armed := none } ∧ workKept s t ∧ memoryKept s t ∧ areasKept s t ∧
      slotsKept s t [kFrameLen, kIssueLen, kSlotsPerFrame, kGuardNs, kGuardMaxNs, kSwitchFrame, kTimingEvents]) ∧
  (∀ (s : State) (who : Requester) (v : Word), accepts s who .switchFrame kSwitchFrame v → s.frameNo + 2 ≤ v.toNat →
    geometryOk s.staged = true → (s.tb.armed = none ∨ s.frameNo < s.nat kSwitchFrame) →
    exec (.switchFrameWrite who v) s =
      .next ({ s.setReg kSwitchFrame v with tb := { s.tb with armed := some s.staged } }.applied who)) ∧
  (∀ (s : State) (who : Requester) (v : Word) (fl il sl gd gm : Nat), accepts s who .switchFrame kSwitchFrame v →
    s.frameNo + 2 ≤ v.toNat → geometryOk s.staged = true → s.tb.armed = some [fl, il, sl, gd, gm] →
    geometryOk [fl, il, sl, gd, gm] = true → s.nat kSwitchFrame ≤ s.frameNo →
    ∃ t, exec (.switchFrameWrite who v) s = .next t ∧ t.nat kFrameLen = fl ∧ t.nat kIssueLen = il ∧
      t.nat kSlotsPerFrame = sl ∧ t.nat kGuardNs = gd ∧ t.nat kGuardMaxNs = gm ∧ t.reg kSwitchFrame = v ∧
      t.tb.armed = some s.staged ∧ t.bit kTimingEvents 7 = true) ∧
  (∀ (s : State) (who : Requester) (v : Word), s.requesterOk who = true →
    s.gateSlot who .switchFrame kSwitchFrame v = .error .range →
    ∃ t, exec (.switchFrameWrite who v) s = .next t ∧ t.tb = s.tb ∧ t.reg kSwitchFrame = s.reg kSwitchFrame ∧
      t.bit kTimingEvents 8 = true ∧ t.area who 0x42 = wd (5 + 0x2000 * 2 ^ 8 + kSwitchFrame % 256 * 2 ^ 24)) ∧
  (∀ (s : State) (who : Requester) (v : Word), accepts s who .switchFrame kSwitchFrame v →
    (v.toNat < s.frameNo + 2 ∨ geometryOk s.staged = false) →
    ∃ t, exec (.switchFrameWrite who v) s = .next t ∧ t.tb = s.tb ∧ t.reg kSwitchFrame = s.reg kSwitchFrame ∧
      t.bit kTimingEvents 8 = true ∧ t.area who 0x42 = wd (6 + 0x2000 * 2 ^ 8 + kSwitchFrame % 256 * 2 ^ 24)) ∧
  (∀ (s : State) (who : Requester) (v : Word), accepts s who .frameSeed kFrameSeed v → s.numbered = false →
    exec (.frameSeedWrite who v) s = .next ({ s with tb := { s.tb with seed := some v.toNat } }.applied who)) ∧
  (∀ (s : State) (who : Requester) (v : Word), accepts s who .frameSeed kFrameSeed v → s.numbered = true →
    exec (.frameSeedWrite who v) s = .next (s.refuse who .state 0x2000 (kFrameSeed % 256)))

/-- SYNC_IN_EDGE, SYNC_LINE_FAULT, SYNC_LINE_OK and SYNC_STUCK (R802, R806 to R810): what each leaves of the receiver.
PTM_DIALOGUE, PTM_RESPONSE, PTM_TIMEOUT, PTM_ENABLE_CLEAR and PTM_ENABLE_SET (R776, R777).
The model's choices in it are log entries 4 and 53. -/
def Obligations.ReferenceReceivers : Prop :=
  (∀ (s : State) (phase : Int) (before after : Nat) (rising : Bool), rising = !s.syncInverted → 40 ≤ before → 40 ≤ after →
    fld (s.reg kSyncStatus) 1 0 = 0 → s.tb.edges < 2 → s.tb.disq = false → s.tb.selected = 1 → s.timing = 2 →
    (s.phaseMod (phase - s.nat kSyncDelayNs)).natAbs ≤ s.nat kSyncWindowNs →
    ∃ t, exec (.syncInEdge phase ⟨before, after, rising, some s.syncInverted⟩) s = .next t ∧
      t.tb.syncLast = some (s.tb.base + phase) ∧ t.tb.syncOff = some (s.syncOffset phase) ∧
      t.tb.syncRun = s.tb.syncRun + 1 ∧ t.tb.edges = s.tb.edges + 1 ∧ fld (t.reg kSyncStatus) 3 3 = 0 ∧
      slotsKept s t [kSyncStatus] ∧ memoryKept s t ∧ workKept s t) ∧
  (∀ (s : State) (phase : Int) (before after : Nat) (rising : Bool), rising = !s.syncInverted → 40 ≤ before → 40 ≤ after →
    fld (s.reg kSyncStatus) 1 0 = 0 → s.tb.edges < 2 → s.tb.disq = false → s.tb.selected = 1 → s.timing = 2 →
    s.nat kSyncWindowNs < (s.phaseMod (phase - s.nat kSyncDelayNs)).natAbs →
    ∃ t, exec (.syncInEdge phase ⟨before, after, rising, some s.syncInverted⟩) s = .next t ∧ t.tb.syncLast = s.tb.syncLast ∧
      t.tb.syncRun = s.tb.syncRun ∧ t.nat kSyncIgnored = satAdd 32 (s.nat kSyncIgnored) 1) ∧
  (∀ (s : State) (phase last : Int) (before after : Nat) (rising : Bool), rising = !s.syncInverted → 40 ≤ before → 40 ≤ after →
    fld (s.reg kSyncStatus) 1 0 = 0 → s.tb.edges < 2 → s.tb.disq = false → (s.tb.selected ≠ 1 ∨ s.timing ≠ 2) →
    s.tb.syncLast = some last →
    ∃ t, exec (.syncInEdge phase ⟨before, after, rising, some s.syncInverted⟩) s = .next t ∧
      ((s.tb.base + phase - last - s.frameNs).natAbs ≤ 50 → t.tb.syncRun = s.tb.syncRun + 1 ∧
        t.tb.syncLast = some (s.tb.base + phase)) ∧
      (50 < s.tb.base + phase - last - s.frameNs → t.tb.syncRun = 1 ∧ t.tb.syncLast = some (s.tb.base + phase)) ∧
      (s.tb.base + phase - last - s.frameNs < -50 → t.tb.syncRun = s.tb.syncRun ∧ t.tb.syncLast = some last ∧
        t.nat kSyncIgnored = satAdd 32 (s.nat kSyncIgnored) 1)) ∧
  (∀ (s : State) (phase : Int) (before after : Nat) (rising : Bool), rising = !s.syncInverted → 40 ≤ before → 40 ≤ after →
    fld (s.reg kSyncStatus) 1 0 = 0 → s.tb.edges = 2 →
    ∃ t, exec (.syncInEdge phase ⟨before, after, rising, some s.syncInverted⟩) s = .next t ∧ t.tb.disq = true ∧
      t.tb.syncRun = 0 ∧ fld (t.reg kSyncStatus) 4 4 = 1 ∧ t.bit kSyncEvents 3 = true) ∧
  (∀ (s : State) (phase : Int) (before after : Nat) (rising : Bool) (cls : Option Bool),
    (rising = s.syncInverted ∨ before < 40 ∨ after < 40 ∨ cls ≠ some s.syncInverted) →
    ∃ t, exec (.syncInEdge phase ⟨before, after, rising, cls⟩) s = .next t ∧ t.tb = s.tb ∧ fld (t.reg kSyncStatus) 3 3 = 0 ∧
      slotsKept s t [kSyncStatus]) ∧
  (∀ (s : State) (line : Nat), 1 ≤ line → line ≤ 3 → fld (s.reg kSyncStatus) 1 0 = 0 →
    ∃ t, exec (.syncLineFault line) s = .next t ∧ fld (t.reg kSyncStatus) 1 0 = line ∧ t.bit kSyncEvents 0 = true ∧
      t.tb = s.tb ∧ memoryKept s t ∧ workKept s t) ∧
  (∀ s : State, exec .syncLineOk s = .next (s.setReg kSyncStatus (putFld (s.reg kSyncStatus) 1 0 0))) ∧
  (∀ s : State, ∃ t, exec .syncStuck s = .next t ∧ fld (t.reg kSyncStatus) 3 3 = 1 ∧ t.bit kSyncEvents 2 = true ∧
    t.tb = s.tb ∧ memoryKept s t ∧ workKept s t) ∧
  (∀ s : State, s.nat kPtmState ≠ 0 →
    exec .ptmDialogue s = .next { s with tb := { s.tb with ptmOpen := true }, out := s.out ++ [.ptmRequest] }) ∧
  (∀ (s : State) (time : Nat), s.tb.ptmOpen = true →
    exec (.ptmResponse time) s = .next { s with
      tb := { s.tb with ptmOpen := false, ptmRun := s.tb.ptmRun + 1, ptmNs := 0, ptmOff := some (s.ptmOffset time) } }) ∧
  (∀ s : State, s.tb.ptmOpen = true →
    ∃ t, exec .ptmTimeout s = .next t ∧ t.tb = { s.tb with ptmOpen := false, ptmRun := 0 } ∧
      t.nat kPtmFails = satAdd 32 (s.nat kPtmFails) 1 ∧ slotsKept s t [kPtmFails] ∧ memoryKept s t ∧ workKept s t) ∧
  (∀ s : State, ∃ t, exec .ptmEnableClear s = .next t ∧ t.nat kPtmState = 0 ∧
    t.tb = { s.tb with ptmOpen := false, ptmOk := false, ptmRun := 0 } ∧ slotsKept s t [kPtmState] ∧ memoryKept s t ∧
    workKept s t) ∧
  (∀ s : State, s.nat kPtmState = 0 → exec .ptmEnableSet s = .next (s.setNat kPtmState 1))

/-- REF_QUALIFIED, REF_LOST, OFFSET_EXCEEDED, LOCK_ACQUIRED and FREERUN_ENTERED (Table 2.4, R73, R81, R82, R84, R87): the timing
state each leaves, with the event it raises; a reference that qualified or was lost is taken in by the choice of the next
frame boundary, which is the last two clauses.
The model's choices in it are log entries 2, 5 and 53. -/
def Obligations.TimingStates : Prop :=
  (∀ (s : State) (ref : Nat) (off : Int), s.refCounted ref = true →
    (s.timing = 2 ∨ s.refOff ref = none ∨ (s.refOff ref = some off ∧ -1000000 ≤ off)) →
    ∃ t, exec (.refQualified ref off) s = .next t ∧ (ref = 1 → t.tb.syncOk = true) ∧
      (ref = 2 → t.tb.ptmOk = true ∧ t.nat kPtmState = 2) ∧ (3 ≤ ref → (t.port (ref - 3)).mkOk = true) ∧
      t.timing = s.timing ∧ t.tb.selected = s.tb.selected ∧ slotsKept s t [kOffsetNs, kPtmState] ∧ memoryKept s t ∧
      workKept s t) ∧
  (∀ (s : State) (ref : Nat) (off : Int), s.refCounted ref = true → s.timing ≠ 2 → s.refOff ref = some off → off < -1000000 →
    ∃ t, exec (.refQualified ref off) s = .next t ∧ t.refOk ref = false ∧ t.reg kOffsetNs = i32Word off ∧
      t.bit kTimingEvents 6 = true ∧ t.timing = s.timing ∧ t.tb.selected = s.tb.selected ∧ memoryKept s t ∧ workKept s t) ∧
  (∀ (s : State) (ref : Nat) (off : Int), (s.refCounted ref = false ∨ (s.timing ≠ 2 ∧ ∃ x, s.refOff ref = some x ∧ x ≠ off)) →
    exec (.refQualified ref off) s = .next s) ∧
  (∀ (s : State) (ref : Nat), ref ≠ 0 → s.tb.selected = ref → s.tb.lost = false → s.refExpired ref 1 = true →
    ∃ t, exec (.refLost ref) s = .next t ∧ t.tb = { s.tb with lost := true } ∧ t.bit kTimingEvents 0 = true ∧
      slotsKept s t [kTimingEvents] ∧ memoryKept s t ∧ workKept s t) ∧
  (∀ (s : State) (off : Int), s.timing = 2 → 4 ≤ s.tb.overRun → s.refOff s.tb.selected = some off → s.nat kHoldLimitMs ≠ 0 →
    -1000000 ≤ off → off ≤ 1000 →
    ∃ t, exec .offsetExceeded s = .next t ∧ t.timing = 1 ∧ t.bit kTimingEvents 1 = true ∧ t.tb.selected = s.tb.selected ∧
      t.tb.returning = some off ∧ t.tb.drift = some ((s.refB s.tb.selected + off.natAbs) * 1000000000) ∧ memoryKept s t ∧
      workKept s t) ∧
  (∀ (s : State) (off : Int), s.timing = 2 → 4 ≤ s.tb.overRun → s.refOff s.tb.selected = some off → s.nat kHoldLimitMs ≠ 0 →
    1000 < off →
    ∃ t, exec .offsetExceeded s = .next t ∧ t.timing = 1 ∧ t.bit kTimingEvents 1 = true ∧ t.tb.selected = s.tb.selected ∧
      t.nat kStepPending = 1 ∧ memoryKept s t ∧ workKept s t) ∧
  (∀ s : State, s.timing ≠ 2 → s.numbered = true → s.tb.selected ≠ 0 → 16 ≤ s.tb.lockRun →
    ∃ t, exec .lockAcquired s = .next t ∧ t.timing = 2 ∧ t.bit kTimingEvents 3 = true ∧
      t.tb.drift = some (s.refB s.tb.selected * 1000000000) ∧ t.tb.returning = none ∧ memoryKept s t ∧ workKept s t ∧
      slotsKept s t [kTimingState, kDriftEstNs, kTimingEvents]) ∧
  (∀ s : State, s.timing = 1 → s.nat kHoldLimitMs * 1000000 ≤ s.tb.holdNs → s.lockCondition = false →
    ∃ t, exec .freerunEntered s = .next t ∧ t.timing = 0 ∧ t.bit kTimingEvents 2 = true ∧ t.tb.muted = true ∧
      memoryKept s t ∧ workKept s t) ∧
  (∀ s : State, s.tb.selected = 0 → s.timing ≠ 2 → s.refOk 1 = true → s.refOff 1 = none →
    s.reselect.tb.selected = 1 ∧ s.reselect.nat kRefSelected = 1 ∧ s.reselect.nat kHopCount = 0 ∧
    s.reselect.timing = s.timing) ∧
  (∀ s : State, s.tb.selected = 1 → s.tb.lost = true → s.timing = 2 → s.refOk 2 = false → s.bestPort = none →
    s.reselect.tb.selected = 0 ∧ s.reselect.nat kRefSelected = 0 ∧ s.reselect.nat kHopCount = 0xFF ∧
    s.reselect.nat kStepPending = 0 ∧ s.reselect.timing = (if s.nat kHoldLimitMs = 0 then 0 else 1))

/-- FRAME_BOUNDARY, STEP_DONE and MAINTENANCE_WINDOW (R45, R54, R67, R70, R90, R91, R543, R545, R745, R746, R834): the boundary
counts the frame and commits, as its second clause shows of one NOP; a step lands in the reference's frame; and the maintenance
window owes one bank-row of every bank that holds a WEIGHT sector.
The model's choices in it are log entries 2, 52, 56, 97 and 98. -/
def Obligations.FrameAndStep : Prop :=
  (∀ (s : State) (o : BoundaryObs), s.dieUp = true → s.ready = true → s.tb.window = .maintenance →
    ∃ u, u = (s.countSlack.timingTurn o).sendMarkers.frameStart ∧
      exec (.frameBoundary o) s = .next (u.commitPass.openFrame u.nextId) ∧ (u.commitPass.openFrame u.nextId).tb.window = .compute ∧
      u.tb.ticks = s.tb.ticks + 1 ∧ u.nat kDevTimeNs = (s.nat kDevTimeNs + (s.frameNs - s.tb.startNs)) % 2 ^ 64 ∧
      (s.numbered = true → u.nat kFrameNumber = (s.frameNo + 1) % 2 ^ 48 + 2 ^ 63) ∧ u.inflight = s.inflight ∧
      u.posted = s.posted ∧ memoryKept s u) ∧
  (∀ (s : State) (o : BoundaryObs) (r w avail : Nat), s.dieUp = true → s.ready = true → s.tb.window = .maintenance →
    s.numbered = true → r < 128 → s.ringRuns r = true → s.partHeld (s.ringPart r) = false →
    (∀ q, q < 128 → q ≠ r → s.ringLife q ≠ 1) → (s.ring r).fetched = [(w, avail)] → (s.ring r).lastCommit = none →
    avail ≤ s.tb.ticks + 1 → w % 2 ^ 64 = 0 → s.slips = [] → s.holds = [] → s.runahead = [] → s.tb.armed = none →
    1 ≤ s.nat kIssueLen →
    (s.ringDescs r).length + (s.nat (kCqProd r) + 2 ^ 32 - s.nat (kCqCons r)) % 2 ^ 32 < s.nat (kCqSlots r) →
    ∃ t d, exec (.frameBoundary o) s = .next t ∧ t.inflight = s.inflight ++ [d] ∧ d.id = s.nextId ∧ d.ring = r ∧ d.raw = w ∧
      d.commitFrame = (s.frameNo + 1) % 2 ^ 48 ∧ (t.ring r).fetched = [] ∧
      t.nat (kCommits r) = (s.nat (kCommits r) + 1) % 2 ^ 64 ∧ t.nat (kRingCons r) = (s.nat (kRingCons r) + 1) % 2 ^ 32 ∧
      t.tb.busy = true ∧ t.tb.window = .compute) ∧
  (∀ (s : State) (o : BoundaryObs), s.dieUp = true → s.ready = false → s.tb.window = .maintenance →
    ∃ t, exec (.frameBoundary o) s = .next t ∧ t.tb.window = .compute ∧ t.tb.ticks = s.tb.ticks + 1 ∧
      t.nat kDevTimeNs = (s.nat kDevTimeNs + (s.frameNs - s.tb.startNs)) % 2 ^ 64 ∧
      (s.numbered = true → t.nat kFrameNumber = (s.frameNo + 1) % 2 ^ 48 + 2 ^ 63) ∧ memoryKept s t ∧ workKept s t) ∧
  (∀ (s : State) (o : BoundaryObs), (s.dieUp = false ∨ s.tb.window ≠ .maintenance) → exec (.frameBoundary o) s = .next s) ∧
  (∀ (s : State) (offset : Int) (refFrame : Nat), s.nat kStepPending ≠ 0 → s.tb.busy = false → s.tb.selected ≠ 0 →
    s.tb.window = .maintenance → s.tb.armed = none → 1000 < s.stepOffset offset →
    refFrame = (s.frameNo + 1 + (s.stepOffset offset).toNat / s.frameNs) % 2 ^ 48 →
    ∃ t off, off = (s.stepOffset offset).toNat ∧ exec (.stepDone offset refFrame) s = .next t ∧
      t.nat kDevTimeNs = (s.nat kDevTimeNs + (s.frameNs - s.tb.startNs + off)) % 2 ^ 64 ∧
      t.nat kFrameNumber = (s.frameNo + 1 + off / s.frameNs) % 2 ^ 48 + 2 ^ 63 * b2n s.numbered ∧
      t.tb.startNs = off % s.frameNs ∧ t.tb.ticks = s.tb.ticks + 1 ∧ t.nat kStepPending = 0 ∧
      t.bit kTimingEvents 5 = true ∧ t.tb.returning = none ∧
      (16 * (off % s.frameNs) < 15 * s.frameNs → t.tb.window = .compute) ∧ t.inflight = s.inflight ∧ t.posted = s.posted ∧
      memoryKept s t) ∧
  (∀ (s : State) (offset : Int) (refFrame : Nat), s.nat kStepPending ≠ 0 → s.tb.busy = false → s.tb.selected ≠ 0 →
    s.tb.window = .maintenance → -1000000 ≤ s.stepOffset offset → s.stepOffset offset ≤ 1000 →
    ∃ t, exec (.stepDone offset refFrame) s = .next t ∧ t.nat kStepPending = 0 ∧ t.tb.returning = some (s.stepOffset offset) ∧
      t.reg kOffsetNs = i32Word (s.stepOffset offset) ∧ t.nat kDevTimeNs = s.nat kDevTimeNs ∧
      t.nat kFrameNumber = s.nat kFrameNumber ∧ t.tb.window = .maintenance ∧ memoryKept s t ∧ workKept s t) ∧
  (∀ (s : State) (o : MaintObs), s.dieUp = true → s.ready = true → s.tb.window ≠ .maintenance →
    (s.tb.window = .closed ∨ s.anyOverrun = false) → o.repair = none → o.lost = [] →
    ∃ t due, exec (.maintenanceWindow o) s = .next t ∧ due = s.weightBanks.map (fun b => (b, s.frameNo % 256)) ∧
      t.tb.window = .maintenance ∧ t.tb.debtWindow = false ∧
      t.scrubDebt = s.scrubDebt.drop (o.scrubbed - due.length) ++ due.drop o.scrubbed ∧
      t.nat kScrubDebt = min t.scrubDebt.length (2 ^ 32 - 1) ∧
      t.nat kDebtWindows = (if s.tb.debtWindow then satAdd 32 (s.nat kDebtWindows) 1 else s.nat kDebtWindows)) ∧
  (∀ (s : State) (o : MaintObs), s.dieUp = true → s.ready = false → s.tb.window = .compute → s.anyOverrun = false →
    exec (.maintenanceWindow o) s = .next { s with tb := { s.tb with window := .maintenance } }) ∧
  (∀ (s : State) (o : MaintObs), s.tb.window = .compute → s.anyOverrun = true → exec (.maintenanceWindow o) s = .next s)

/-- DOORBELL, ENTRIES_FETCHED and CQ_CONS_WRITE (R498, R534, R535, R538, R556): an accepted doorbell is RING_PROD, one that
covers more than the ring holds is counted, and one to a QUIESCING ring is discarded and counted.
The model's choice in it is log entry 58. -/
def Obligations.RingPages : Prop :=
  (∀ (s : State) (fn r v : Nat), s.ringPageOk fn r = true → s.ringLife r = 1 → v < 2 ^ 32 →
    (v + 2 ^ 32 - s.nat (kRingProd r)) % 2 ^ 32 + (s.nat (kRingProd r) + 2 ^ 32 - s.nat (kRingCons r)) % 2 ^ 32 ≤
      s.nat (kRingEntries r) →
    exec (.doorbell fn r v) s = .next (s.setNat (kRingProd r) v)) ∧
  (∀ (s : State) (fn r v : Nat), s.ringPageOk fn r = true → s.ringLife r = 1 → v < 2 ^ 32 →
    s.nat (kRingEntries r) < (v + 2 ^ 32 - s.nat (kRingProd r)) % 2 ^ 32 +
      (s.nat (kRingProd r) + 2 ^ 32 - s.nat (kRingCons r)) % 2 ^ 32 →
    exec (.doorbell fn r v) s = .next (s.bump (kDoorbellInvalid r))) ∧
  (∀ (s : State) (fn r v : Nat), s.ringPageOk fn r = true → s.ringLife r = 2 →
    exec (.doorbell fn r v) s = .next (s.bump (kDoorbellsDiscarded r))) ∧
  (∀ (s : State) (r : Nat), s.ringLife r ≠ 0 →
    ∃ t, exec (.entriesFetched r) s = .next t ∧
      (t.ring r).fetched.length = (s.ring r).fetched.length + (s.unfetched r).length ∧
      (t.ring r).fetched.take (s.ring r).fetched.length = (s.ring r).fetched ∧
      (∀ q, q ≠ r → t.ring q = s.ring q) ∧ slotsKept s t [kMscHits, kMscMisses] ∧ memoryKept s t ∧ t.inflight = s.inflight) ∧
  (∀ (s : State) (fn r v : Nat), s.ringPageOk fn r = true → v < 2 ^ 32 →
    exec (.cqConsWrite fn r v) s = .next (s.setNat (kCqCons r) v))

/-- NOP, PRECISION_SET, ORDER_BEGINS and ORDER (R206, R539, R545, R583 to R586): what each leaves of its descriptor, of the
layer's entry and of the ORDER counters.
The model's choice in it is log entry 46. -/
def Obligations.OrderAndPrecision : Prop :=
  (∀ (s : State) (id : Nat) (d : Desc), offCore s id 0 d →
    exec (.nop id) s = .next ((s.modDesc d.id fun d =>
      { d with ended := true, status := 0, endFrame := d.commitFrame, cycles := 0 }).completeDesc d.id)) ∧
  (∀ (s : State) (id : Nat) (d : Desc), offCore s id 2 d → s.runahead = [] →
    Tbl.get none s.live (kPrecLayer d.part d.layer) = none →
    exec (.precisionSet id) s = .next (((s.setNat (kPrecLayer d.part d.layer) (d.at 16 8)).modDesc d.id fun d =>
      { d with ended := true, status := 0, endFrame := d.commitFrame, cycles := 0 }).completeDesc d.id)) ∧
  (∀ (s : State) (id waited : Nat) (d : Desc), offCore s id 1 d → (s.earlierOnCore d).all (·.ended) = true →
    s.tb.window = .compute →
    exec (.orderBegins id waited) s = .next (s.modDesc id fun d =>
      { d with prog := { d.prog with orderBegun := true, orderCc := waited } })) ∧
  (∀ (s : State) (id : Nat) (d : Desc) (c : Nat), offCore s id 1 d → s.descCore d = some c → d.prog.orderBegun = true →
    s.tb.window = .compute →
    (∀ w ∈ s.posted, ((s.earlierOnCore d).map (·.id)).contains w.desc = true → inScope (d.at 9 1) w = false) →
    ∃ t, exec (.order id) s = .next t ∧ t.nat (kOrdersRun c) = satAdd 32 (s.nat (kOrdersRun c)) 1 ∧
      t.nat (kOrderWaitCc c) = (s.nat (kOrderWaitCc c) + (d.prog.orderCc + 4)) % 2 ^ 64 ∧
      t.desc? id = some { d with cycles := d.cycles + (d.prog.orderCc + 4), ended := true, status := 0, endFrame := s.frameNo } ∧
      slotsKept s t [kOrdersRun c, kOrderWaitCc c] ∧ memoryKept s t ∧ t.posted = s.posted) ∧
  (∀ (s : State) (id : Nat) (d : Desc) (w : PostedWrite), offCore s id 1 d → w ∈ s.posted →
    ((s.earlierOnCore d).map (·.id)).contains w.desc = true → inScope (d.at 9 1) w = true →
    exec (.order id) s = .next s)

/-- DESCRIPTOR_COMPLETE, WRITE_LANDS, SECTOR_ZERO_DONE and ABORT_STOP (R120, R147, R503, R556, R559, R571, R575, R581, R712): a write
lands whole and nothing else changes, a foreground write leaves a SPEC sector undefined, a completion writes its record in ring
order, and an abort ends what runs.
The model's choices in it are log entries 19, 58, 60, 61 and 104. -/
def Obligations.LandingAndCompletion : Prop :=
  (∀ (s : State) (i lost : Nat) (w : PostedWrite) (f sl o c : Nat), s.posted[i]? = some w → w.place = .store false f sl o →
    ((s.posted.take i).any fun v => v.desc == w.desc && v.overlaps w) = false → s.slotStopped f sl = false →
    s.coreAt f sl = some c → s.filterOk w.part ⟨false, f, sl, o⟩ = true → s.bit (kLsSpecMap c) (o / 16384) = false →
    ∃ t, exec (.writeLands ⟨i, lost⟩) s = .next t ∧ t.posted = s.posted.eraseIdx i ∧
      (∀ j, j < w.bytes.length → Tbl.get 0 t.ls (c * 2 ^ 20 + o + j) = w.bytes.getD j 0) ∧
      (∀ a, a < c * 2 ^ 20 + o ∨ c * 2 ^ 20 + o + w.bytes.length ≤ a → Tbl.get 0 t.ls a = Tbl.get 0 s.ls a) ∧
      t.fs = s.fs ∧ t.hbm = s.hbm ∧ t.acc = s.acc ∧ t.octs = s.octs ∧ slotsKept s t [kLsStallsSm c] ∧
      (0 < lost → t.nat (kLsStallsSm c) = satAdd 32 (s.nat (kLsStallsSm c)) lost) ∧ t.inflight = s.inflight) ∧
  (∀ (s : State) (i lost : Nat) (w : PostedWrite) (f sl o c : Nat), s.posted[i]? = some w → w.place = .store false f sl o →
    ((s.posted.take i).any fun v => v.desc == w.desc && v.overlaps w) = false → s.slotStopped f sl = false →
    s.coreAt f sl = some c → s.filterOk w.part ⟨false, f, sl, o⟩ = true → s.bit (kLsSpecMap c) (o / 16384) = true →
    ∃ t, exec (.writeLands ⟨i, lost⟩) s = .next t ∧ t.posted = s.posted.eraseIdx i ∧
      (∀ j, j < 16384 → ∃ k, Tbl.get 0 t.ls (c * 2 ^ 20 + o / 16384 * 16384 + j) = Config.freeByte k) ∧
      (∀ a, a < c * 2 ^ 20 + o / 16384 * 16384 ∨ c * 2 ^ 20 + o / 16384 * 16384 + 16384 ≤ a →
        Tbl.get 0 t.ls a = Tbl.get 0 s.ls a) ∧
      t.fs = s.fs ∧ t.hbm = s.hbm ∧ t.acc = s.acc ∧ t.octs = s.octs ∧ t.inflight = s.inflight) ∧
  (∀ (s : State) (i lost : Nat) (w : PostedWrite) (f sl o : Nat), s.posted[i]? = some w → w.place = .store true f sl o →
    ((s.posted.take i).any fun v => v.desc == w.desc && v.overlaps w) = false → s.filterOk w.part ⟨true, f, sl, o⟩ = true →
    ∃ t, exec (.writeLands ⟨i, lost⟩) s = .next t ∧ t.posted = s.posted.eraseIdx i ∧
      (∀ j, j < w.bytes.length → Tbl.get 0 t.fs (f * 2 ^ 22 + o + j) = w.bytes.getD j 0) ∧
      (∀ a, a < f * 2 ^ 22 + o ∨ f * 2 ^ 22 + o + w.bytes.length ≤ a → Tbl.get 0 t.fs a = Tbl.get 0 s.fs a) ∧
      t.ls = s.ls ∧ t.hbm = s.hbm ∧ t.acc = s.acc ∧ t.octs = s.octs ∧ slotsKept s t [kFsStalls f] ∧
      (0 < lost → t.nat (kFsStalls f) = satAdd 32 (s.nat (kFsStalls f)) lost) ∧ t.inflight = s.inflight) ∧
  (∀ (s : State) (i lost : Nat) (w : PostedWrite) (p va pa : Nat), s.posted[i]? = some w → w.place = .hbm p va pa →
    ((s.posted.take i).any fun v => v.desc == w.desc && v.overlaps w) = false → s.cuts = [] → s.jobs = [] →
    ∃ t, exec (.writeLands ⟨i, lost⟩) s = .next t ∧ t.posted = s.posted.eraseIdx i ∧
      (∀ j, j < w.bytes.length → Tbl.get 0 t.hbm (pa + j) = w.bytes.getD j 0) ∧
      (∀ a, a < pa ∨ pa + w.bytes.length ≤ a → Tbl.get 0 t.hbm a = Tbl.get 0 s.hbm a) ∧
      t.ls = s.ls ∧ t.fs = s.fs ∧ t.acc = s.acc ∧ t.octs = s.octs ∧ slotsKept s t [kMscHits, kMscMisses] ∧
      t.inflight = s.inflight) ∧
  (∀ (s : State) (i lost : Nat) (w : PostedWrite) (p va pa : Nat), s.posted[i]? = some w → w.place = .hbm p va pa →
    ((s.posted.take i).any fun v => v.desc == w.desc && v.overlaps w) = false →
    exec (.writeLands ⟨i, lost⟩) s = .next (({ s with posted := s.posted.eraseIdx i }.hbmPut p va pa w.bytes).settleCuts)) ∧
  (∀ (s : State) (i lost : Nat) (v w : PostedWrite), s.posted[i]? = some w → v ∈ s.posted.take i → v.desc = w.desc →
    v.overlaps w = true → exec (.writeLands ⟨i, lost⟩) s = .next s) ∧
  (∀ (s : State) (i lost : Nat) (w : PostedWrite) (f sl o : Nat), s.posted[i]? = some w → w.place = .store false f sl o →
    s.slotStopped f sl = true → exec (.writeLands ⟨i, lost⟩) s = .next s) ∧
  (∀ (s : State) (i : Nat),
    exec (.sectorZeroDone i) s = .next { s with zeroing := s.zeroing.filter fun z => z.id != i }) ∧
  (∀ (s : State) (id : Nat) (d : Desc), s.desc? id = some d → d.ended = true → d.completed = false → s.restarting d = false →
    s.posted = [] → (∀ e ∈ s.inflight, e.ring = d.ring → e = d) →
    ∃ u v : State, u = ((s.countStatus d).keepCopy d).modDesc id (fun d => { d with completed := true }) ∧
      v = { u with inflight := u.inflight.filter fun e => e.id != id } ∧
      exec (.descriptorComplete id) s = .next ((((v.writeRecord { d with completed := true }).afterRecord
        { d with completed := true })).sweepFrames d.part)) ∧
  (∀ (s : State) (id : Nat) (d : Desc) (b : List Byte), s.desc? id = some d → d.ended = true → d.completed = false →
    s.restarting d = false → s.posted = [] → (∀ e ∈ s.inflight, e.ring = d.ring → e = d) → d.status = 0 → d.flags = 0 →
    d.signal? = none → d.flag 2 = false → s.frames d.part = [] → bitOf (s.nat (kCqBase d.ring)) 63 = true →
    s.linkDown = false → (s.fn (partFn d.part)).sends = true →
    b = completionRecord d (s.nat (kCqProd d.ring)) (max (s.nat (kCqSlots d.ring)) 1) →
    ∃ t, exec (.descriptorComplete id) s = .next t ∧ t.desc? id = none ∧ b.length = 16 ∧
      t.out = s.out ++ [.hostWrite (partFn d.part) (s.nat (kCqBase d.ring) % 2 ^ 63 +
        16 * (s.nat (kCqProd d.ring) % max (s.nat (kCqSlots d.ring)) 1)) b] ∧
      t.nat (kCqProd d.ring) = (s.nat (kCqProd d.ring) + 1) % 2 ^ 32 ∧ slotsKept s t [kCqProd d.ring] ∧ memoryKept s t) ∧
  (∀ (s : State) (id : Nat) (d e : Desc), s.desc? id = some d → d.ended = true → d.completed = false → s.restarting d = false →
    s.posted = [] → s.inflight.find? (fun e => e.ring == d.ring) = some e → e.id ≠ id → e.completed = false →
    exec (.descriptorComplete id) s =
      .next ((((s.countStatus d).keepCopy d).modDesc id (fun d => { d with completed := true })).sweepFrames d.part)) ∧
  (∀ (s : State) (id : Nat) (d : Desc) (j : AbortJob), s.desc? id = some d → d.ended = false →
    (s.aborts.find? fun j => j.rings.contains d.ring) = some j → j.dropped = true → d.signal? = none → s.cuts = [] →
    ∃ t e, exec (.abortStop id) s = .next t ∧ t = ((s.cutTile d).endDesc id 1).tear id ∧
      t.desc? id = some e ∧ e.ended = true ∧ e.status = 1 ∧ t.posted = s.posted ∧ t.aborts = s.aborts)

/-- The commands that run a committed descriptor on its core (R134, R136, R139, R184 to R187, R199, R213, R245, R261, R275, R286,
R294, R298, R325).  The first two clauses name the work of each, whatever it meets but an uncorrectable error; the others say
where it goes well and what it leaves then: a TRANSFER of one row, a REDUCE of one partial and a BUCKET_FORM end with OK, and a tile
whose operands read and whose results are written is finished.
The model's choices in it are log entries 57, 59, 63, 64, 66 and 69. -/
def Obligations.WorkOfDescriptors : Prop :=
  (∀ (s : State) (id : Nat) (d : Desc) (c : Nat) (o : RunObs), unharmed o →
     (onCore s id 0x13 d c → exec (.fill id o) s = .next (ran s id d o fun u => u.runFill d c)) ∧
     (onCore s id 0x14 d c → exec (.copy id o) s = .next (ran s id d o fun u => u.runCopy d c)) ∧
     (onCore s id 0x15 d c → exec (.transfer id o) s = .next (ran s id d o fun u => u.runTransfer d o.waitCc)) ∧
     (onCore s id 0x12 d c → exec (.reduce id o) s = .next (ran s id d o fun u => u.runReduce d o.waitCc)) ∧
     (onCore s id 0x16 d c → exec (.bucketForm id o) s = .next (ran s id d o fun u => u.runBucketForm d o.waitCc))) ∧
  (∀ (s : State) (id : Nat) (d : Desc) (c : Nat) (o : RunObs), unharmed o → d.prog.tileOpen = true → d.prog.fetched = true →
     s.genBusy d = false →
     (onCore s id 0x10 d c → exec (.matmul id o) s = .next (ran s id d o fun u => u.runDrain d c o)) ∧
     (onCore s id 0x11 d c → exec (.quantise id o) s = .next (ran s id d o fun u => u.runQuantise d c)) ∧
     (onCore s id 0x20 d c → exec (.attnScore id o) s = .next (ran s id d o fun u => u.runScore d c o)) ∧
     (onCore s id 0x21 d c → exec (.attnScoreRecompute id o) s = .next (ran s id d o fun u => u.runRecompute d c o)) ∧
     (onCore s id 0x22 d c → exec (.attnNorm id o) s = .next (ran s id d o fun u => u.runNorm d c)) ∧
     (onCore s id 0x23 d c → exec (.attnPv id o) s = .next (ran s id d o fun u => u.runDrain d c o)) ∧
     (onCore s id 0x30 d c → s.appendBlocked d = false →
       exec (.kvAppend id o) s = .next (ran s id d o fun u => u.runAppend d c))) ∧
  (∀ (s : State) (id : Nat) (d : Desc) (c : Nat) (a b : SAddr) (l : List Byte), onCore s id 0x15 d c → d.torn = false →
    s.errs = [] → s.slotWait = false → decodeAddr (d.at 16 8) = some (.store a) → decodeAddr (d.at 24 8) = some (.store b) →
    d.at 36 4 = 1 → s.fetch d (.store a) (d.at 32 4) = (some l, s) → l.length = d.at 32 4 → 0 < l.length →
    b.off % b.row + l.length ≤ b.row → s.filterOk d.part b = true →
    ∃ t e, exec (.transfer id {}) s = .next t ∧
      t.posted = s.posted ++ [⟨id, d.part, .store b.fs b.frond b.slot b.off, l, s.frameNo⟩] ∧ t.desc? id = some e ∧
      e.ended = true ∧ e.status = stOk ∧ slotsKept s t [] ∧ memoryKept s t ∧ areasKept s t) ∧
  (∀ (s : State) (id : Nat) (d : Desc) (c : Nat) (a b : SAddr) (tl l : List Byte) (p : Partial) (sats : Nat),
    onCore s id 0x12 d c → d.torn = false → s.errs = [] → s.slotWait = false → decodeAddr (d.at 16 8) = some (.store a) →
    decodeAddr (d.at 32 8) = some (.store b) → d.at 28 1 = 1 → s.fetch d (.store a) 8 = (some tl, s) →
    s.partialsOk d [bitOf (leNat tl) 12 && decide (leNat tl % 16 ≤ 8)] = true →
    s.fetch d ((Addr.store a).plus 8)
      (d.at 40 4 * (if bitOf (leNat tl) 12 = true ∧ leNat tl % 16 ≤ 8 then 8 else 4)) = (some l, s) →
    reducePartials [partialOf (leNat tl) (d.at 40 4) l] = some (p, sats) →
    s.addrOk d.part (d.at 32 8) p.bytes.length true = true → b.off % b.row + p.bytes.length ≤ b.row →
    s.filterOk d.part b = true →
    ∃ t e, exec (.reduce id {}) s = .next t ∧
      t.posted = s.posted ++ [⟨id, d.part, .store b.fs b.frond b.slot b.off, p.bytes, s.frameNo⟩] ∧ t.desc? id = some e ∧
      e.ended = true ∧ e.status = stOk ∧ t.nat (kAlignSaturations d.part) = satAdd 32 (s.nat (kAlignSaturations d.part)) sats ∧
      (bitOf p.tag 13 = true → bitOf e.flags 0 = true) ∧ slotsKept s t [kAlignSaturations d.part] ∧ memoryKept s t) ∧
  (∀ (s q r u v : State) (id : Nat) (d : Desc) (c n : Nat) (l m : List Byte) (edges : List Nat) (seqs : List (Nat × Nat)),
    onCore s id 0x16 d c → d.torn = false → s.errs = [] → s.slotWait = false →
    s.fetch d (.va (d.at 16 8)) 4 = (some l, q) → n = leNat l → 1 ≤ n → n ≤ 4096 →
    q.fetch d (.va (d.at 16 8 + 8)) (8 * n) = (some m, r) →
    seqs = (countFrom 0 n).map (fun q => (byteField m (8 * q) 4, byteField m (8 * q + 4) 4)) →
    edges = (countFrom 0 8).map (fun k => s.nat (kBucketEdge d.part k)) →
    u = r.bump (kBucketOverflows d.part) (seqs.filter fun x => x.2 != 0 && (bucketOf edges x.2).isNone).length →
    (batchPlan (d.at 24 8) edges seqs).foldl (fun (acc : Bool × State) (x : Nat × List Byte) =>
      if acc.1 then acc.2.issue d (.va (d.at 24 8 + x.1)) x.2 else acc) (true, u) = (true, v) → wentWell v id d →
    ∃ t e, exec (.bucketForm id {}) s = .next t ∧ t.posted = v.posted ∧ t.regs = v.regs ∧ t.hbm = v.hbm ∧
      t.desc? id = some e ∧ e.ended = true ∧ e.status = stOk) ∧
  (∀ (s u v : State) (id op : Nat) (i : Instr) (d : Desc) (c : Nat) (t : Tile) (l : List (List (Int × Nat))),
    (op, i) ∈ [(0x10, Instr.matmul id {}), (0x23, .attnPv id {})] → tileReady s id op d c t →
    (s.loadSeeds d c).runs d.id = true → (s.loadSeeds d c).formTile d c t none = (some l, u) →
    (passed u d c t l).drainTile d c t l = (true, v) → wentWell v id d →
    ∃ t', exec i s = .next t' ∧ tileFinished v t' id d c) ∧
  (∀ (s u v : State) (id : Nat) (d : Desc) (c : Nat) (t : Tile) (l : List (List (Int × Nat))), tileReady s id 0x20 d c t →
    (s.loadSeeds d c).runs d.id = true → (s.loadSeeds d c).formTile d c t none = (some l, u) →
    eachRow (d.rows t) (passed u d c t l) (fun s r => s.scoreRow d c t r (l.getD r [])) = (true, v) → wentWell v id d →
    ∃ t', exec (.attnScore id {}) s = .next t' ∧ tileFinished v t' id d c) ∧
  (∀ (s u w v : State) (id : Nat) (d : Desc) (c : Nat) (t : Tile) (l : List (List (Int × Nat))), tileReady s id 0x21 d c t →
    (s.loadSeeds d c).runs d.id = true → (s.loadSeeds d c).formTile d c t none = (some l, u) →
    (if d.prog.seeded then (true, passed u d c t l) else (passed u d c t l).writePTag d) = (true, w) →
    eachRow (d.rows t) w (fun s r => s.recomputeRow d c t ((passed u d c t l).pTagNow d).2 r (l.getD r [])) = (true, v) →
    wentWell v id d →
    ∃ t', exec (.attnScoreRecompute id {}) s = .next t' ∧ tileFinished v t' id d c) ∧
  (∀ (s u w v : State) (id lat : Nat) (d : Desc) (c : Nat) (t : Tile) (a : Addr), tileReady s id 0x22 d c t →
    (s.loadSeeds d c).runs d.id = true → decodeAddr (d.at 104 8) = some a → lat = readLatency d.core a true →
    u = (s.loadSeeds d c).spend d.id ((if d.prog.seeded then 0 else 16 + lat) + d.normCost t) →
    (if d.prog.seeded || d.grad then (true, u) else u.writePTag d) = (true, w) →
    eachRow (d.rows t) w (fun x r =>
      if d.grad then x.gradRow d c t r else x.normRow d c t ((s.loadSeeds d c).pTagNow d).2 r) = (true, v) →
    wentWell v id d →
    ∃ t', exec (.attnNorm id {}) s = .next t' ∧ tileFinished v t' id d c) ∧
  (∀ (s u w v : State) (id : Nat) (d : Desc) (c : Nat) (t : Tile) (a ra : SAddr) (recs : List Nat) (rows : List (List Fv)),
    tileReady s id 0x11 d c t → d.region? 40 = some a → decodeSAddr (d.at 84 4) = some ra →
    (s.loadSeeds d c).runs d.id = true → (s.loadSeeds d c).readRanges d ra = (some recs, u) →
    u.readInputs d t a (d.aPlace t) (d.at 95 1 == 1) = (some rows, w) → w.writeStaged d c t rows recs = (true, v) →
    wentWell v id d →
    ∃ t', exec (.quantise id {}) s = .next t' ∧ tileFinished v t' id d c) ∧
  (∀ (s u w v : State) (id : Nat) (d e : Desc) (c : Nat) (t : Tile), tileReady s id 0x30 d c t → s.appendBlocked d = false →
    s.appendScales d c = u → u.desc? id = some e → e.ended = false → e.curTile = some t → e.prog.tile = d.prog.tile →
    e.owned (e.prog.tile + 1) = d.owned (d.prog.tile + 1) → u.appendPart e c t 0 = (true, w) →
    w.appendPart e c t 1 = (true, v) → e.liveTiles.getLast? ≠ some t → wentWell v id d →
    ∃ t', exec (.kvAppend id {}) s = .next t' ∧ tileFinished v t' id d c)

/-- BOUNDS_LANDED, WALK_LANDED, TILE_START and OPERAND_FETCH_LANDED (R191, R239, R245, R248, R250, R252, R255, R319): a tiled
descriptor comes one step further.  The first clause names the work of each; the others say what it leaves: the bounds, pages, tag
and mask that are in force, the positions passed over, the operands held and the wait counted.
The model's choices in it are log entries 57 and 58. -/
def Obligations.TileSteps : Prop :=
  (∀ (s : State) (id op : Nat) (d : Desc) (c : Nat) (o : RunObs), unharmed o → tiledOps.contains op = true → onCore s id op d c →
    (s.tileDue d = true → s.allocBlocked d = false →
      exec (.tileStart ⟨id, o⟩) s = .next (ran s id d o fun u => u.startTile d c o.waitCc)) ∧
    (∀ t, d.prog.tileOpen = true → d.prog.fetched = false → d.curTile = some t →
      exec (.operandFetchLanded id o) s = .next (ran s id d o fun u =>
        ((u.spend id o.waitCc).wrapAdd (kOpfetchWaitCc c) o.waitCc).landTile d t)) ∧
    (d.prog.tileOpen = true → d.prog.fetched = true →
      exec (.operandFetchLanded id o) s = .next (ran s id d o fun u => u.prefetch d))) ∧
  (∀ (s u v w : State) (id op : Nat) (d : Desc) (c cc ptr : Nat) (bs lens pos : List Nat) (bad : Bool) (pr : Prog),
    tiledOps.contains op = true → onCore s id op d c → s.errs = [] → s.slotWait = false → d.prog.boundsLanded = false →
    (s.spend id cc).readBounds d = (some (bs, ptr), u) → boundsOk bs = true →
    u.readVec d ptr (bs.getD 3 0) d.prog.lenBytes = (some lens, v) → v.readPos d (bs.getD 3 0) = (some (pos, bad), w) →
    wentWell w id d →
    pr = { d.prog with bounds := bs, lens := lens, poss := pos, posBad := bad, boundsLanded := true } →
    (d.walks = true ∨ (Desc.stage3Ok { d with prog := pr } = true ∧
      (d.memBounds = true → w.extentsOk { d with prog := pr } = true) ∧
      (Desc.owned { d with prog := pr } 0).isSome = true)) →
    ∃ t e, exec (.boundsLanded id { waitCc := cc }) s = .next t ∧ t.desc? id = some e ∧ e.prog = pr ∧ e.ended = false ∧
      t.regs = w.regs ∧ t.posted = w.posted ∧ t.hbm = w.hbm) ∧
  (∀ (s u v : State) (id op : Nat) (d : Desc) (c cc : Nat) (seqs : List Nat) (l : List (Nat × ElemWalk)) (pr : Prog),
    tiledOps.contains op = true → onCore s id op d c → s.errs = [] → s.slotWait = false → d.walks = true →
    d.prog.boundsLanded = true → d.prog.walked = false → (s.spend id cc).readSeqs d d.bB = (some seqs, u) →
    l = seqs.zipIdx.map (fun x => (x.1, u.walkElem d.part x.1 (d.covers x.2).1 (d.covers x.2).2 d.walkKind)) →
    u.takeFree.walkThrough d l = (true, v) → (∀ x ∈ l, x.2.fail = none ∧ x.2.dropped = []) → wentWell v id d →
    pr = { d.prog with
      walked := true, tables := l.map (·.2.table),
      pages := l.zipIdx.flatMap fun x => x.1.2.pages.map fun y => (x.2 * 65536 + y.1, y.2, x.1.2.units) } →
    (v.modDesc id fun e => { e with prog := pr }).kvStage3Ok { d with prog := pr } = true →
    Desc.stage3Ok { d with prog := pr } = true → d.memBounds = false → (Desc.owned { d with prog := pr } 0).isSome = true →
    ∃ t e, exec (.walkLanded id { waitCc := cc }) s = .next t ∧ t.desc? id = some e ∧ e.prog = pr ∧ e.ended = false ∧
      t.regs = v.regs ∧ t.posted = v.posted ∧ t.hbm = v.hbm) ∧
  (∀ (s u v : State) (id op : Nat) (d : Desc) (c cc : Nat) (t : Tile) (pr : Prog) (m : List (Nat × Nat)),
    tiledOps.contains op = true → onCore s id op d c → s.errs = [] → s.slotWait = false → d.torn = false → s.tileDue d = true →
    (op ≠ 0x30 ∨ d.prog.allocated = true) → s.allocBlocked d = false → d.curTile = some t → d.stage4Bad t = false →
    d.skipped t = false → s.startTag d c = (some pr, u) → u.readMask d t cc = (some m, v) → wentWell v id d →
    ∃ t' e, exec (.tileStart ⟨id, { waitCc := cc }⟩) s = .next t' ∧ t'.desc? id = some e ∧ e.prog.tileOpen = true ∧
      e.prog.tile = d.prog.tile ∧ e.prog.mask = m ∧ e.prog.width = pr.width ∧ e.prog.exp = pr.exp ∧ e.prog.entry = pr.entry ∧
      e.ended = false ∧ t'.regs = v.regs ∧ t'.posted = v.posted) ∧
  (∀ (s : State) (id op : Nat) (d : Desc) (c cc : Nat) (t : Tile), tiledOps.contains op = true → onCore s id op d c →
    s.errs = [] → s.slotWait = false → d.torn = false → s.tileDue d = true → op ≠ 0x30 → d.curTile = some t →
    d.stage4Bad t = false → d.skipped t = true → d.owned (d.prog.tile + 1) = none →
    ∃ t' e, exec (.tileStart ⟨id, { waitCc := cc }⟩) s = .next t' ∧ t'.desc? id = some e ∧ e.ended = true ∧ e.status = stOk ∧
      t'.nat (kTilesSkipped d.part) = (s.nat (kTilesSkipped d.part) + 1) % 2 ^ 64 ∧ slotsKept s t' [kTilesSkipped d.part] ∧
      memoryKept s t') ∧
  (∀ (s : State) (id op : Nat) (d : Desc) (c cc : Nat) (t : Tile), tiledOps.contains op = true → onCore s id op d c →
    s.errs = [] → s.slotWait = false → d.torn = false → s.tileDue d = true → op ≠ 0x30 → d.curTile = some t →
    d.stage4Bad t = true → (attnOp op && d.prog.posBad) = false →
    ∃ t' e, exec (.tileStart ⟨id, { waitCc := cc }⟩) s = .next t' ∧ t'.desc? id = some e ∧ e.ended = true ∧
      e.status = stBoundsFault ∧ slotsKept s t' [] ∧ memoryKept s t') ∧
  (∀ (s v : State) (id op : Nat) (d : Desc) (c cc : Nat) (t : Tile), tiledOps.contains op = true → onCore s id op d c →
    s.errs = [] → s.slotWait = false → d.prog.tileOpen = true → d.prog.fetched = false → d.curTile = some t →
    ((s.spend id cc).wrapAdd (kOpfetchWaitCc c) cc).bringTile d t = (true, v) → wentWell v id d →
    ∃ t' e, exec (.operandFetchLanded id { waitCc := cc }) s = .next t' ∧ t'.desc? id = some e ∧ e.prog.fetched = true ∧
      e.prog.heldA = (d.holding t).prog.heldA ∧ e.prog.heldB = (d.holding t).prog.heldB ∧ e.ended = false ∧
      t'.regs = v.regs ∧ t'.ls = v.ls) ∧
  (∀ (s v : State) (id op : Nat) (d : Desc) (c k n : Nat) (t : Tile), tiledOps.contains op = true → onCore s id op d c →
    s.errs = [] → s.slotWait = false → d.prog.tileOpen = true → d.prog.fetched = true → d.prog.next = none →
    d.nextRun (d.positions + 1) (d.prog.tile + 1) = some n → d.owned n = some k → t = d.tileAt k →
    (d.aNeeded t || d.bNeeded t) = true → (d.bNeeded t = true → d.bStr = true) → s.bringTile d t = (true, v) →
    wentWell v id d →
    ∃ t' e, exec (.operandFetchLanded id {}) s = .next t' ∧ t'.desc? id = some e ∧ e.prog.next = some n ∧ e.ended = false ∧
      t'.regs = v.regs ∧ t'.ls = v.ls)

/-- RUNAHEAD_START and OVERRUN (R95, R99, R104, R105, R562, R563): run-ahead works on a fetched descriptor that has not committed and
changes nothing that is architectural but SPEC bytes of Local Stores; with nothing in flight no partition overruns; a partition
that overruns under HALT_PARTITION ends what overran and halts; and one that overruns under DEFER marks its descriptors DEFERRED,
slips a frame and commits nothing in the next issue window.
The model's choices in it are log entries 2, 55, 60, 62 and 104. -/
def Obligations.RunaheadAndOverrun : Prop :=
  (∀ s : State, ∃ t, exec .runaheadStart s = .next t ∧ (∀ k, k ≠ kMscHits → k ≠ kMscMisses → k ≠ kFilterBlocks → t.reg k = s.reg k) ∧
    t.inflight = s.inflight ∧ t.rings = s.rings ∧ t.posted = s.posted ∧ t.hbm = s.hbm ∧ t.fs = s.fs ∧ t.acc = s.acc ∧
    t.octs = s.octs ∧ (∀ w ∈ s.runahead, w ∈ t.runahead)) ∧
  (∀ (s : State) (r w avail : Nat), r < 128 → s.ringRuns r = true → (∀ q, q < 128 → q ≠ r → s.ringRuns q = false) →
    (s.ring r).fetched = [(w, avail)] → opEntries (w % 256) = 1 → (s.ring r).lastCommit = none → s.slips = [] →
    avail ≤ s.tb.ticks → (uncommitted r (s.ringPart r) w).flag 3 = false → (uncommitted r (s.ringPart r) w).flag 4 = false →
    max (s.tb.ticks + 1) (avail + (uncommitted r (s.ringPart r) w).earliest) ≤
      s.tb.ticks + s.liveNat (kRunahead (s.ringPart r)) →
    (∀ x ∈ s.runahead, x.ring ≠ r ∨ x.cons ≠ s.nat (kRingCons r)) →
    ∃ t x, exec .runaheadStart s = .next t ∧ t.runahead = s.runahead ++ [x] ∧ x.ring = r ∧ x.cons = s.nat (kRingCons r) ∧
      x.raw = w ∧ x.predicted = max (s.tb.ticks + 1) (avail + (uncommitted r (s.ringPart r) w).earliest)) ∧
  (∀ s : State, s.inflight = [] → exec .overrun s = .next s) ∧
  (∀ s : State, s.tb.window ≠ .compute → exec .overrun s = .next s) ∧
  (∀ (s : State) (p : Nat) (d : Desc), p < 64 → s.tb.window = .compute → s.inflight = [d] →
    s.overrunDescs p = [d] → s.nat (kOverrunPolicy p) = 0 → s.partState p = 1 → s.partRun p = 1 → s.runahead = [] →
    s.cuts = [] →
    ∃ t e, exec .overrun s = .next t ∧ t.desc? d.id = some e ∧ e.ended = true ∧ e.status = stFrameOverrun ∧
      t.partRun p = 2 ∧ t.nat (kHaltCause p) = 2 ∧ t.nat (kOverrunCount p) = satAdd 32 (s.nat (kOverrunCount p)) 1 ∧
      t.nat kOverrunTotal = satAdd 32 (s.nat kOverrunTotal) 1 ∧ t.tb.window = .closed ∧ t.posted = s.posted) ∧
  (∀ (s : State) (p : Nat), p < 64 → s.tb.window = .compute → (∀ d ∈ s.inflight, d.part = p) →
    s.overrunDescs p ≠ [] → s.nat (kOverrunPolicy p) = 1 → s.spansDevices p = false →
    ((s.overrunDescs p).any (·.overran)) = false →
    ∃ t, exec .overrun s = .next t ∧
      t.nat (kOverrunCount p) = satAdd 32 (s.nat (kOverrunCount p)) (s.overrunDescs p).length ∧
      t.nat kOverrunTotal = satAdd 32 (s.nat kOverrunTotal) (s.overrunDescs p).length ∧
      (∀ d ∈ s.overrunDescs p, ∃ e, t.desc? d.id = some e ∧ bitOf e.flags 3 = true ∧ e.overran = true) ∧
      Tbl.get 0 t.slips p = Tbl.get 0 s.slips p + 1 ∧ p ∈ t.skips ∧ t.partHeld p = true ∧ t.tb.window = .closed ∧
      t.posted = s.posted ∧ memoryKept s t ∧ slotsKept s t [kOverrunCount p, kOverrunTotal])

/-- LS_WEIGHT_MAP_WRITE, LS_SPEC_MAP_WRITE, FS_WEIGHT_MAP_WRITE and FS_OWNER_WRITE (R141, R147, R152, R155, R568): each sector
whose bit or owner changes is zeroed, every other byte of the stores stays, and a change while an owner is not halted is
refused.
CORE_OWNER_WRITE, GRANULE_OWNER_WRITE and GRANULE_ZEROED (R491, R528, R529, R727): a core that changes hands is zeroed, a released
granule is zeroed before it is free, and a change while an owner is not halted is refused.
The model's choice in it is log entry 44. -/
def Obligations.StoresAndOwners : Prop :=
  (∀ (s : State) (who : Requester) (c : Nat) (v : Word), c < 144 → accepts s who .lsWeightMap (kLsWeightMap c) v →
    s.ownerHalted (s.coreOwner c) = true →
    ∃ t, exec (.lsWeightMapWrite who c v) s = .next t ∧ t.reg (kLsWeightMap c) = v ∧ slotsKept s t [kLsWeightMap c] ∧
      (∀ i o, i < 64 → o < 16384 → bitOf (s.nat (kLsWeightMap c)) i ≠ bitOf v.toNat i →
        Tbl.get 0 t.ls (c * 2 ^ 20 + i * 16384 + o) = 0) ∧
      (∀ i o, i < 64 → o < 16384 → bitOf (s.nat (kLsWeightMap c)) i = bitOf v.toNat i →
        Tbl.get 0 t.ls (c * 2 ^ 20 + i * 16384 + o) = Tbl.get 0 s.ls (c * 2 ^ 20 + i * 16384 + o)) ∧
      (∀ a, a / 2 ^ 20 ≠ c → Tbl.get 0 t.ls a = Tbl.get 0 s.ls a) ∧ t.fs = s.fs ∧ t.hbm = s.hbm ∧ t.acc = s.acc ∧
      t.octs = s.octs) ∧
  (∀ (s : State) (who : Requester) (c : Nat) (v : Word), accepts s who .lsWeightMap (kLsWeightMap c) v →
    v ≠ s.reg (kLsWeightMap c) → s.ownerHalted (s.coreOwner c) = false →
    exec (.lsWeightMapWrite who c v) s = .next (s.refuse who .notHalted (kLsWeightMap c / 256) (kLsWeightMap c % 256))) ∧
  (∀ (s : State) (who : Requester) (c : Nat) (v : Word), accepts s who .lsSpecMap (kLsSpecMap c) v →
    s.ownerHalted (s.coreOwner c) = true → s.runahead = [] →
    exec (.lsSpecMapWrite who c v) s = .next ((s.setReg (kLsSpecMap c) v).applied who)) ∧
  (∀ (s : State) (who : Requester) (f m : Nat) (v : Word), f < 16 → m < 4 → accepts s who .fsWeightMap (kFsWeightMap f m) v →
    (∀ i, i < 64 → bitOf (s.nat (kFsWeightMap f m)) i ≠ bitOf v.toNat i →
      s.ownerHalted (s.oct (kFsOwner f) (64 * m + i)) = true) →
    ∃ t, exec (.fsWeightMapWrite who f m v) s = .next t ∧ t.reg (kFsWeightMap f m) = v ∧ slotsKept s t [kFsWeightMap f m] ∧
      (∀ i o, i < 64 → o < 16384 → bitOf (s.nat (kFsWeightMap f m)) i ≠ bitOf v.toNat i →
        Tbl.get 0 t.fs (f * 2 ^ 22 + (64 * m + i) * 16384 + o) = 0) ∧
      (∀ i o, i < 64 → o < 16384 → bitOf (s.nat (kFsWeightMap f m)) i = bitOf v.toNat i →
        Tbl.get 0 t.fs (f * 2 ^ 22 + (64 * m + i) * 16384 + o) = Tbl.get 0 s.fs (f * 2 ^ 22 + (64 * m + i) * 16384 + o)) ∧
      t.ls = s.ls ∧ t.hbm = s.hbm ∧ t.acc = s.acc ∧ t.octs = s.octs) ∧
  (∀ (s : State) (who : Requester) (f : Nat) (bytes : List Byte), f < 16 → bytes.length = 256 →
    acceptsLong s who (kFsOwner f / 256) (kFsOwner f % 256) bytes →
    (∀ i, i < 256 → (bytes.getD i 0).toNat ≠ s.oct (kFsOwner f) i →
      s.ownerHalted (s.oct (kFsOwner f) i) = true ∧ s.ownerHalted (bytes.getD i 0).toNat = true) →
    ∃ t, exec (.fsOwnerWrite who f bytes) s = .next t ∧
      (∀ i, i < 256 → t.oct (kFsOwner f) i = (bytes.getD i 0).toNat) ∧
      (∀ i o, i < 256 → o < 16384 → (bytes.getD i 0).toNat ≠ s.oct (kFsOwner f) i →
        Tbl.get 0 t.fs (f * 2 ^ 22 + i * 16384 + o) = 0) ∧
      (∀ i o, i < 256 → o < 16384 → (bytes.getD i 0).toNat = s.oct (kFsOwner f) i →
        Tbl.get 0 t.fs (f * 2 ^ 22 + i * 16384 + o) = Tbl.get 0 s.fs (f * 2 ^ 22 + i * 16384 + o)) ∧
      (∀ k i, k ≠ kFsOwner f → i < 512 → t.oct k i = s.oct k i) ∧ t.regs = s.regs ∧ t.ls = s.ls ∧ t.hbm = s.hbm ∧
      t.acc = s.acc) ∧
  (∀ (s : State) (who : Requester) (f : Nat) (v : Word), f < 16 → accepts s who .coreOwner (kCoreOwner f) v →
    (∀ i, i < 8 → bitsOf v.toNat (8 * i + 7) (8 * i) ≠ s.slotOwner f i →
      s.ownerHalted (s.slotOwner f i) = true ∧ s.ownerHalted (bitsOf v.toNat (8 * i + 7) (8 * i)) = true ∧
      (s.coreAt f i).isSome = true) →
    (∀ p, p < 64 → s.nat (kHaltCause p) ≠ 3) →
    ∃ t, exec (.coreOwnerWrite who f v) s = .next t ∧ t.reg (kCoreOwner f) = v ∧ slotsKept s t [kCoreOwner f] ∧
      (∀ i c o, i < 8 → bitsOf v.toNat (8 * i + 7) (8 * i) ≠ s.slotOwner f i → s.coreAt f i = some c → o < 2 ^ 20 →
        Tbl.get 0 t.ls (c * 2 ^ 20 + o) = 0) ∧
      (∀ i c e, i < 8 → bitsOf v.toNat (8 * i + 7) (8 * i) ≠ s.slotOwner f i → s.coreAt f i = some c → e < 32768 →
        Tbl.get 0 t.acc (c * 32768 + e) = 0) ∧
      (∀ a, (∀ i, i < 8 → bitsOf v.toNat (8 * i + 7) (8 * i) ≠ s.slotOwner f i → s.coreAt f i ≠ some (a / 2 ^ 20)) →
        Tbl.get 0 t.ls a = Tbl.get 0 s.ls a) ∧
      t.fs = s.fs ∧ t.hbm = s.hbm ∧ t.octs = s.octs) ∧
  (∀ (s : State) (who : Requester) (bytes : List Byte) (g : Nat), g < 192 → bytes.length = 192 →
    acceptsLong s who (kGranuleOwner / 256) (kGranuleOwner % 256) bytes →
    (∀ h, h < 192 → h ≠ g → (bytes.getD h 0).toNat = s.granuleOwner h) → s.granuleOwner g = 0xFF →
    (bytes.getD g 0).toNat < 64 → s.partState (bytes.getD g 0).toNat = 1 →
    ∃ t, exec (.granuleOwnerWrite who bytes) s = .next t ∧ t.granuleOwner g = (bytes.getD g 0).toNat ∧
      (∀ h, h < 192 → h ≠ g → t.granuleOwner h = s.granuleOwner h) ∧ t.regs = s.regs ∧ t.hbm = s.hbm) ∧
  (∀ (s : State) (who : Requester) (bytes : List Byte) (g : Nat), g < 192 → bytes.length = 192 →
    acceptsLong s who (kGranuleOwner / 256) (kGranuleOwner % 256) bytes →
    (∀ h, h < 192 → h ≠ g → (bytes.getD h 0).toNat = s.granuleOwner h) → s.granuleOwner g < 64 →
    (bytes.getD g 0).toNat = 0xFF → s.halted (s.granuleOwner g) = true → bitOf (s.oct kRetirePending (g / 8)) (g % 8) = false →
    ∃ t, exec (.granuleOwnerWrite who bytes) s = .next t ∧ t.granuleOwner g = 0xFE ∧
      t.granuleQueue = s.granuleQueue ++ [g] ∧ (∀ h, h < 192 → h ≠ g → t.granuleOwner h = s.granuleOwner h) ∧
      t.hbm = s.hbm) ∧
  (∀ (s : State) (g : Nat) (rest : List Nat), s.granuleQueue = g :: rest → g < 192 →
    bitOf (s.oct kRetirePending (g / 8)) (g % 8) = false →
    ∃ t, exec .granuleZeroed s = .next t ∧ t.granuleOwner g = 0xFF ∧ t.granuleQueue = rest ∧
      (∀ a, g * 2 ^ 28 ≤ a → a < (g + 1) * 2 ^ 28 → Tbl.get 0 t.hbm a = 0) ∧
      (∀ a, a < g * 2 ^ 28 ∨ (g + 1) * 2 ^ 28 ≤ a → Tbl.get 0 t.hbm a = Tbl.get 0 s.hbm a) ∧ t.regs = s.regs ∧
      t.ls = s.ls ∧ t.fs = s.fs)

/-- The writes of entries that only hold a value, or hold it from the next frame on (R185, R208, R238, R264, R305, R523, R526,
R574): the slot takes the value, and nothing else of the block changes.
The model's choice in it is log entry 46. -/
def Obligations.HeldEntries : Prop :=
  (∀ (s : State) (who : Requester) (c : Nat) (v : Word), accepts s who .residueInject (kResidueInject c) v →
    exec (.residueInjectWrite who c v) s = .next ((if v = 1 then s.setReg (kResidueInject c) 1 else s).applied who)) ∧
  (∀ (s : State) (who : Requester) (p l : Nat) (v : Word), accepts s who .precLayer (kPrecLayer p l) v → s.runahead = [] →
    ∃ t, exec (.precLayerWrite who p l v) s = .next t ∧ t.reg (kPrecLayer p l) = v ∧ slotsKept s t [kPrecLayer p l] ∧
      t.liveNat (kPrecLayer p l) = s.liveNat (kPrecLayer p l) ∧ memoryKept s t ∧ workKept s t) ∧
  (∀ (s : State) (who : Requester) (p : Nat) (v : Word), accepts s who .runahead (kRunahead p) v → s.runahead = [] →
    ∃ t, exec (.runaheadWrite who p v) s = .next t ∧ t.reg (kRunahead p) = v ∧ slotsKept s t [kRunahead p] ∧
      t.liveNat (kRunahead p) = s.liveNat (kRunahead p) ∧ memoryKept s t ∧ workKept s t) ∧
  (∀ (s : State) (who : Requester) (r k : Nat) (v : Word), accepts s who .shapeReg (kShapeReg r k) v →
    exec (.shapeRegWrite who r k v) s = .next ((s.setReg (kShapeReg r k) v).applied who)) ∧
  (∀ (s : State) (who : Requester) (p k : Nat) (v : Word), accepts s who .bucketEdge (kBucketEdge p k) v →
    edgesOk ((countFrom 0 8).map fun j => (s.setReg (kBucketEdge p k) v).nat (kBucketEdge p j)) = true →
    exec (.bucketEdgeWrite who p k v) s = .next ((s.setReg (kBucketEdge p k) v).applied who)) ∧
  (∀ (s : State) (who : Requester) (p k : Nat) (v : Word), accepts s who .bucketEdge (kBucketEdge p k) v →
    edgesOk ((countFrom 0 8).map fun j => (s.setReg (kBucketEdge p k) v).nat (kBucketEdge p j)) = false →
    exec (.bucketEdgeWrite who p k v) s = .next (s.refuse who .state (kBucketEdge p k / 256) (kBucketEdge p k % 256))) ∧
  (∀ (s : State) (who : Requester) (p i : Nat) (v : Word), i < 8 → accepts s who .ropeBase (kRopeBase p i) v →
    exec (.ropeSetWrite who p (i + 1) v) s = .next ((s.setReg (kRopeBase p i) v).applied who)) ∧
  (∀ (s : State) (who : Requester) (p i : Nat) (v : Word), i < 8 → accepts s who .ropeCfg (kRopeCfg p i) v →
    exec (.ropeSetWrite who p (i + 9) v) s = .next ((s.setReg (kRopeCfg p i) v).applied who)) ∧
  (∀ (s : State) (who : Requester) (p : Nat) (v : Word), accepts s who .mapBase (kMapBase p) v →
    exec (.mapBaseWrite who p v) s = .next ((s.setReg (kMapBase p) v).applied who)) ∧
  (∀ (s : State) (who : Requester) (p : Nat) (v : Word), accepts s who .mapSync (kMapSync p) v →
    exec (.mapSync who p v) s = .next ({ s with mapSyncs := s.mapSyncs ++ [p] }.applied who))

/-- KV_POOL_CONFIG_WRITE, POOL_EMPTIED, RECOMP_CONS_WRITE, KV_RELEASE and PAGE_EXPORT (R342, R344, R345, R349, R368).
The model's choice in it is log entry 68. -/
def Obligations.PagePools : Prop :=
  (∀ (s : State) (who : Requester) (p : Nat) (v : Word), accepts s who .kvPoolBase (kKvPoolBase p) v → s.frames p = [] →
    ((s.setReg (kKvPoolBase p) v).kvPow2 p = false ∨ (s.setReg (kKvPoolBase p) v).nat (kKvPoolUnits p) % 64 = 0) →
    exec (.kvPoolConfigWrite who p 1 v) s =
      .next (((s.setPool p { emptying := true }).setReg (kKvPoolBase p) v).applied who)) ∧
  (∀ (s : State) (who : Requester) (p : Nat) (v : Word), accepts s who .kvPoolUnits (kKvPoolUnits p) v → s.kvPow2 p = true →
    v.toNat % 64 ≠ 0 →
    exec (.kvPoolConfigWrite who p 2 v) s =
      .next (s.refuse who .state (kKvPoolUnits p / 256) (kKvPoolUnits p % 256))) ∧
  (∀ (s : State) (p : Nat), s.poolEmptying p = true →
    ∃ u, u = (countFrom 0 (s.nat (kKvPoolUnits p))).foldl (fun s k => s.disownFrame p k) s ∧
      exec (.poolEmptied p) s = .next ((u.setPool p {}).setNat (kUnitsFree p) (s.nat (kKvPoolUnits p)))) ∧
  (∀ (s : State) (p : Nat), s.poolEmptying p = false → exec (.poolEmptied p) s = .next s) ∧
  (∀ (s : State) (who : Requester) (p : Nat) (v : Word), accepts s who .recompCons (kRecompCons p) v →
    (s.nat (kRecompProd p) + 2 ^ 32 - v.toNat % 2 ^ 32) % 2 ^ 32 ≤ s.nat (kRecompSlots p) →
    exec (.recompConsWrite who p v) s = .next ((s.setReg (kRecompCons p) v).applied who)) ∧
  (∀ (s : State) (who : Requester) (p : Nat) (v : Word), accepts s who .recompCons (kRecompCons p) v →
    s.nat (kRecompSlots p) < (s.nat (kRecompProd p) + 2 ^ 32 - v.toNat % 2 ^ 32) % 2 ^ 32 →
    exec (.recompConsWrite who p v) s = .next (s.refuse who .state (kRecompCons p / 256) (kRecompCons p % 256))) ∧
  (∀ (s : State) (id : Nat) (d : Desc), offCore s id 0x31 d → d.prog.walked = true →
    exec (.kvRelease id) s =
      .next ((d.prog.tables.foldl (fun s t => s.releaseSeq d.part t) s).endDesc d.id 0)) ∧
  (∀ (s : State) (id : Nat) (d : Desc), offCore s id 0x31 d → d.prog.walked = false → exec (.kvRelease id) s = .next s) ∧
  (∀ (s : State) (id : Nat) (d : Desc) (w : ElemWalk), offCore s id 0x32 d → s.streamCheck d.part (d.at 24 1) = none →
    s.nat (kKvPoolUnits d.part) ≠ 0 → w = s.walkElem d.part (d.at 16 4) (d.at 20 2) (d.at 20 2 + d.at 22 2) .seek →
    w.fail = none → s.pageJobs + w.pages.length ≤ 8192 → w.pages ≠ [] → (∀ j ∈ s.jobs, j.id ≠ s.nextId) →
    ∃ t, exec (.pageExport id) s = .next t ∧
      (t.desc? id).map (fun e => (e.ended, e.status)) = some (true, 0) ∧ (t.job? s.nextId).isSome = true ∧
      t.nextId = s.nextId + 1) ∧
  (∀ (s : State) (id st : Nat) (d : Desc), offCore s id 0x32 d → s.streamCheck d.part (d.at 24 1) = some st →
    exec (.pageExport id) s = .next (s.endAtCommit id st))

/-- STREAM_UP, STREAM_DOWN, WIN_OPEN, WIN_CLOSE, WIN_CONSUMED_WRITE and REGION_WRITE (R347, R363, R372, R387, R388, R392): what a
stream, a receive window and a region read after each.
The model's choice in it is log entry 70. -/
def Obligations.StreamsWindowsRegions : Prop :=
  (∀ (s : State) (who : Requester) (st : Nat), st < 256 → accepts s who .streamCtrl (kStreamCtrl st) 1 →
    ∃ t, exec (.streamUp who st) s = .next t ∧ t.nat (kStreamCtrl st) = 1 ∧
      t.nat (kStreamEpoch st) = (s.nat (kStreamEpoch st) + 1) % 2 ^ 16 ∧ t.nat (kNextSeqno st) = 0 ∧
      t.nat (kAckSeqno st) = 0 ∧ t.nat (kAckBytes st) = 0 ∧ t.stream st = {}) ∧
  (∀ (s : State) (who : Requester) (st : Nat), accepts s who .streamCtrl (kStreamCtrl st) 1 → s.nat (kStreamCtrl st) ≠ 0 →
    exec (.streamUp who st) s =
      .next ((((((s.setNat (kStreamCtrl st) 0).abandonStream st 1 3).dropCells st).qpDown st).newEpoch st).applied who)) ∧
  (∀ (s : State) (who : Requester) (st : Nat), accepts s who .streamCtrl (kStreamCtrl st) 0 → s.nat (kStreamCtrl st) = 0 →
    exec (.streamDown who st) s = .next (s.applied who)) ∧
  (∀ (s : State) (who : Requester) (st : Nat), accepts s who .streamCtrl (kStreamCtrl st) 0 → s.nat (kStreamCtrl st) ≠ 0 →
    exec (.streamDown who st) s =
      .next (((((s.setNat (kStreamCtrl st) 0).abandonStream st 1 3).dropCells st).qpDown st).applied who)) ∧
  (∀ (s : State) (who : Requester) (w : Nat), w < 32 → accepts s who .winState (kWinState w) 1 → s.nat (kWinState w) = 0 →
    ∃ t, exec (.winOpen who w) s = .next t ∧ t.nat (kWinState w) = 1 ∧ t.win w = {} ∧ slotsKept s t [kWinState w] ∧
      memoryKept s t ∧ workKept s t) ∧
  (∀ (s : State) (who : Requester) (w : Nat), w < 32 → accepts s who .winState (kWinState w) 0 → s.restoreOf w = none →
    ∃ t, exec (.winClose who w) s = .next t ∧ t.nat (kWinState w) = 0 ∧ t.win w = {} ∧ slotsKept s t [kWinState w] ∧
      memoryKept s t ∧ workKept s t) ∧
  (∀ (s : State) (who : Requester) (w : Nat) (v : Word), accepts s who .winConsumed (kWinConsumed w) v →
    exec (.winConsumedWrite who w v) s = .next ((s.setReg (kWinConsumed w) v).applied who)) ∧
  (∀ (s : State) (who : Requester) (p i : Nat) (v : Word), p < 64 → i < 16 → accepts s who .regionBase (kRegionBase p i) v →
    s.nat (kCutState p) = 0 → (s.setReg (kRegionBase p i) v).regionsApart p = true →
    (s.setReg (kRegionBase p i) v).region p i ≠ s.region p i →
    ∃ t, exec (.regionWrite who p (i + 1) v) s = .next t ∧ t.reg (kRegionBase p i) = v ∧ slotsKept s t [kRegionBase p i] ∧
      (∀ g, g < 2 ^ 32 → Tbl.get false t.clean (cleanKey p i g) = false) ∧
      (∀ j g, j ≠ i → j < 16 → g < 2 ^ 32 → Tbl.get false t.clean (cleanKey p j g) = Tbl.get false s.clean (cleanKey p j g)) ∧
      memoryKept s t) ∧
  (∀ (s : State) (who : Requester) (p i : Nat) (v : Word), p < 64 → i < 16 → accepts s who .regionSpan (kRegionSpan p i) v →
    s.nat (kCutState p) ≠ 0 →
    exec (.regionWrite who p (i + 0x11) v) s =
      .next (s.refuse who .state (kRegionSpan p i / 256) (kRegionSpan p i % 256)))

/-- RECORD_SEND, ACK_RECEIVED, STREAM_ACK_WRITE and RETRANSMIT (R356, R358 to R362, R384, R386): the stream whose turn it is sends a
formed record with the next SEQNO, and the record waits for its acknowledgement; an acknowledgement that fails a test is counted and
changes nothing else; a valid one moves ACK_SEQNO and ACK_BYTES and ends the wait of the records below it; a retransmission owes
every unacknowledged record again.
CUT, CUT_FREEZE, REPLAY, RESTORE, RESTORE_TIMEOUT and RECORD_RECEIVED (R364, R374, R375, R389, R392, R394): what acceptance
and refusal of each leave.
The model's choices in it are log entries 2, 71, 72 and 73. -/
def Obligations.RecordsAndCuts : Prop :=
  (∀ (s : State) (st p : Nat) (ecc : Bool) (w : WaitRec) (rest : List WaitRec) (b : List Byte), st < 256 → p < 64 →
    s.liveStreams = [st] → s.nat (kStreamOwner st) = p → (s.stream st).again = [] → (s.stream st).paid = (0, 0) →
    (s.stream st).waiting = w :: rest → (w.src = .fence ∨ w.src = .cutAbort) →
    b = s.formFor st w.kind w.part w.object w.payload w.generation →
    (s.stream st).byteOff + b.length ≤ s.nat (kAckBytes st) + s.nat (kRingBytes st) →
    s.sporBytes + b.length ≤ 512 * s.frameNs → s.linkDown = false →
    ∃ t, exec (.recordSend st ecc) s = .next t ∧
      t.stream st = { s.stream st with waiting := rest, byteOff := (s.stream st).byteOff + b.length,
                                       sent := (s.stream st).sent ++ [⟨s.nat (kNextSeqno st), b, w.src⟩] } ∧
      t.nat (kNextSeqno st) = (s.nat (kNextSeqno st) + 1) % 2 ^ 64 ∧
      t.nat (kStreamBytes st) = (s.nat (kStreamBytes st) + b.length) % 2 ^ 64 ∧
      t.nat kExportBytes = (s.nat kExportBytes + b.length) % 2 ^ 64 ∧ Output.record st b ∈ t.out ∧
      t.sporBytes = s.sporBytes + b.length ∧ slotsKept s t [kNextSeqno st, kStreamBytes st, kExportBytes] ∧ memoryKept s t ∧
      workKept s t) ∧
  (∀ (s : State) (st : Nat) (ecc : Bool), st ∉ s.liveStreams → exec (.recordSend st ecc) s = .next s) ∧
  (∀ (s : State) (st : Nat) (ack : List Byte), (ack.length ≠ 32 ∨ byteField ack 28 4 ≠ crc32c (ack.take 28) ∨
      byteField ack 16 2 ≠ st ∨ byteField ack 18 2 ≠ s.nat (kStreamEpoch st) ∨ byteField ack 0 8 < s.nat (kAckSeqno st) ∨
      s.nat (kNextSeqno st) < byteField ack 0 8 ∨ (s.stream st).byteOff < byteField ack 8 8) →
    exec (.ackReceived st ack) s = .next (s.bump (kAckInvalid st))) ∧
  (∀ (s : State) (st seqno bytes : Nat), st < 256 → s.nat (kAckSeqno st) ≤ seqno → seqno ≤ s.nat (kNextSeqno st) →
    bytes ≤ (s.stream st).byteOff → bytes < 2 ^ 64 → s.nat (kStreamEpoch st) < 2 ^ 16 →
    (∀ r ∈ (s.stream st).sent ++ (s.stream st).again, r.src = .fence) →
    ∃ t, exec (.ackReceived st (formAck seqno bytes st (s.nat (kStreamEpoch st)) 0)) s = .next t ∧
      t.nat (kAckSeqno st) = seqno ∧ t.nat (kAckBytes st) = max bytes (s.nat (kAckBytes st)) ∧
      (t.stream st).sent = (s.stream st).sent.filter (fun r => decide (seqno ≤ r.seqno)) ∧
      (t.stream st).again = (s.stream st).again.filter (fun r => decide (seqno ≤ r.seqno)) ∧
      (s.nat (kAckSeqno st) < seqno → (t.stream st).retries = 0) ∧ (t.stream st).byteOff = (s.stream st).byteOff ∧
      slotsKept s t [kAckSeqno st, kAckBytes st] ∧ memoryKept s t ∧ workKept s t) ∧
  (∀ (s : State) (who : Requester) (st : Nat) (bytes : List Byte),
    acceptsLong s who (kStreamAck st / 256) (kStreamAck st % 256) bytes → s.nat (kTransport st) = 2 →
    exec (.streamAckWrite who st bytes) s = .next ((s.applyAck st bytes).applied who)) ∧
  (∀ (s : State) (who : Requester) (st seqno bytes : Nat) (ack : List Byte), st < 256 →
    ack = formAck seqno bytes st (s.nat (kStreamEpoch st)) 0 →
    acceptsLong s who (kStreamAck st / 256) (kStreamAck st % 256) ack → s.nat (kTransport st) = 2 →
    s.nat (kAckSeqno st) ≤ seqno → seqno ≤ s.nat (kNextSeqno st) → bytes ≤ (s.stream st).byteOff → bytes < 2 ^ 64 →
    s.nat (kStreamEpoch st) < 2 ^ 16 → (∀ r ∈ (s.stream st).sent ++ (s.stream st).again, r.src = .fence) →
    ∃ t, exec (.streamAckWrite who st ack) s = .next t ∧ t.nat (kAckSeqno st) = seqno ∧
      t.nat (kAckBytes st) = max bytes (s.nat (kAckBytes st)) ∧
      (t.stream st).sent = (s.stream st).sent.filter (fun r => decide (seqno ≤ r.seqno)) ∧
      slotsKept s t [kAckSeqno st, kAckBytes st] ∧ memoryKept s t ∧ workKept s t) ∧
  (∀ (s : State) (st : Nat), s.transportOk st = true → s.streamUp st = true →
    (s.stream st).sent ++ (s.stream st).again ≠ [] → (s.stream st).retries < s.nat (kRetryLimit st) →
    ∃ t, exec (.retransmit st) s = .next t ∧
      t.stream st = { s.stream st with sent := [], again := (s.stream st).sent ++ (s.stream st).again,
                                       retries := (s.stream st).retries + 1 } ∧
      t.nat (kStreamRetries st) = satAdd 32 (s.nat (kStreamRetries st)) 1 ∧ slotsKept s t [kStreamRetries st] ∧
      memoryKept s t ∧ workKept s t) ∧
  (∀ (s : State) (st : Nat), s.transportOk st = true → s.streamUp st = true →
    (s.stream st).sent ++ (s.stream st).again ≠ [] → s.nat (kRetryLimit st) ≤ (s.stream st).retries →
    exec (.retransmit st) s = .next (((s.setNat (kStreamCtrl st) 2).abandonStream st 0x0A 3).dropCells st) ∧
    (s.jobs = [] → (s.stream st).pages = [] → s.nat (kCutState (s.nat (kStreamOwner st))) = 0 →
      (∀ r ∈ (s.stream st).sent ++ (s.stream st).again, r.src = .fence) →
      ∃ t, exec (.retransmit st) s = .next t ∧ t.nat (kStreamCtrl st) = 2 ∧
        t.stream st = { byteOff := (s.stream st).byteOff } ∧ slotsKept s t [kStreamCtrl st] ∧ memoryKept s t ∧ workKept s t)) ∧
  (∀ (s : State) (st : Nat), (s.transportOk st = false ∨ s.streamUp st = false ∨
    (s.stream st).sent ++ (s.stream st).again = []) → exec (.retransmit st) s = .next s) ∧
  (∀ (s : State) (id : Nat) (d : Desc), offCore s id 0x40 d → s.cutCheck d = none → d.part < 64 →
    ∃ t, exec (.cut id) s = .next t ∧ t.nat (kCutState d.part) = 1 ∧ t.nat (kLastCutId d.part) = d.at 16 4 ∧
      (t.cut d.part).cutId = d.at 16 4 ∧ (t.cut d.part).serial = s.nextId ∧
      (t.cut d.part).cutFrame = (if d.at 24 8 = 0 then d.commitFrame + 1 else d.at 24 8) ∧
      (t.desc? id).map (fun e => (e.ended, e.status)) = some (true, 0) ∧
      slotsKept s t [kCutState d.part, kLastCutId d.part] ∧ memoryKept s t) ∧
  (∀ (s : State) (id st : Nat) (d : Desc), offCore s id 0x40 d → s.cutCheck d = some st →
    ∃ t, exec (.cut id) s = .next t ∧ (t.desc? id).map (fun e => (e.ended, e.status)) = some (true, st) ∧
      t.regs = s.regs ∧ t.cuts = s.cuts ∧ memoryKept s t) ∧
  (∀ (s : State) (p : Nat), p < 64 → s.nat (kCutState p) = 1 → (s.cut p).cutFrame ≤ s.frameNo →
    (∀ w ∈ s.posted, w.part = p → s.frameNo ≤ w.frame) →
    ∃ t, exec (.cutFreeze p) s = .next t ∧ t = (s.freezeCut p).cutProgress p ∧
      (t.cut p).frozenFrame = s.frameNo ∧ (t.cut p).prevValid = s.nat (kValidCutId p) ∧
      (∀ i g, i < 16 → g < 2 ^ 32 → ((i, g) ∈ (t.cut p).frozen ↔ bitOf (s.cut p).mask i = true ∧ g < (s.region p i).2 ∧
        ((s.cut p).full = true ∨ Tbl.get false s.clean (cleanKey p i g) = false))) ∧
      t.nat (kCutState p) = (if (t.cut p).frozen = [] then 3 else 2) ∧ slotsKept s t [kCutState p] ∧ memoryKept s t ∧
      workKept s t) ∧
  (∀ (s : State) (p : Nat), (s.nat (kCutState p) ≠ 1 ∨ s.frameNo < (s.cut p).cutFrame) → exec (.cutFreeze p) s = .next s) ∧
  (∀ (s : State) (p : Nat) (w : PostedWrite) (v pa : Nat), w ∈ s.posted → w.part = p → w.frame < s.frameNo →
    w.place = .hbm p v pa → exec (.cutFreeze p) s = .next s) ∧
  (∀ (s : State) (id : Nat) (d : Desc), offCore s id 0x41 d → s.replayCheck d = none →
    ∃ t j, exec (.replay id) s = .next t ∧ t.jobs = s.jobs ++ [j] ∧ j.id = s.nextId ∧ j.stream = d.at 28 1 ∧
      j.left = d.at 24 4 ∧ j.acked = 0 ∧ t.nextId = s.nextId + 1 ∧ t.regs = s.regs ∧ memoryKept s t ∧
      (t.desc? id).map (fun e => (e.ended, e.status)) = some (true, 0)) ∧
  (∀ (s : State) (id st : Nat) (d : Desc), offCore s id 0x41 d → s.replayCheck d = some st →
    exec (.replay id) s = .next (s.endAtCommit id st)) ∧
  (∀ (s : State) (id : Nat) (d : Desc) (k : JobKind), offCore s id 0x42 d → s.restoreCheck d = none → d.at 24 4 ≠ 0 →
    k = .restore (d.at 16 4) (d.at 20 2) (d.at 22 2) (d.at 28 1) (d.at 32 8) (d.at 24 4) [] →
    ∃ t u, exec (.restore id) s = .next t ∧ t = (u.addJob k (jobTag d 30) 0 0).endAtCommit id 0 ∧
      u = (s.vaWrite d.part (d.at 32 8) (List.replicate (s.restoreTableBytes d.part (d.at 20 2)) 0)).2 ∧
      (s.cuts = [] → t.jobs = s.jobs ++ [⟨s.nextId, k, jobTag d 30, 0, 0, 0, 0⟩] ∧ t.nextId = s.nextId + 1 ∧
        (t.desc? id).map (fun e => (e.ended, e.status)) = some (true, 0))) ∧
  (∀ (s : State) (id st : Nat) (d : Desc), offCore s id 0x42 d → s.restoreCheck d = some st →
    exec (.restore id) s = .next (s.endAtCommit id st)) ∧
  (∀ (s : State) (job tgt mask tag part table wins : Nat) (dn : List Nat) (j : Job), s.job? job = some j →
    j.kind = .restore tgt mask tag part table wins dn → s.nat (kRestoreTimeoutMs j.tag.part) ≠ 0 →
    exec (.restoreTimeout job) s = .next (s.endJob j 1 8) ∧
    (bitOf j.tag.done 15 = false →
      (s.nat (kEventProd j.tag.part) + 2 ^ 32 - s.nat (kEventCons j.tag.part)) % 2 ^ 32 = s.nat (kEventSlots j.tag.part) →
      ∃ t, exec (.restoreTimeout job) s = .next t ∧ t.jobs = s.jobs.filter (fun x => x.id != job) ∧
        t.nat (kEventsLost j.tag.part) = satAdd 32 (s.nat (kEventsLost j.tag.part)) 1 ∧
        slotsKept s t [kEventsLost j.tag.part] ∧ memoryKept s t ∧ t.inflight = s.inflight)) ∧
  (∀ (s : State) (job : Nat) (j : Job), s.job? job = some j → s.nat (kRestoreTimeoutMs j.tag.part) = 0 →
    exec (.restoreTimeout job) s = .next s) ∧
  (∀ (s : State) (w via start len : Nat), s.nat (kWinMode w) = 1 →
    exec (.recordReceived w via start len) s = .next (s.recordLands w via start len)) ∧
  (∀ (s : State) (w via start len : Nat) (l : List Byte), s.nat (kWinState w) = 0 → (s.win w).passed = [] →
    start < s.winAckBytes w + s.nat (kWinBytes w) → l = s.winBytes w start len →
    exec (.recordReceived w via start len) s =
      .next ((s.setWin w { s.win w with passed := [] }).ackSend via w
        (formAck (byteField l 16 8) 0 (byteField l 10 2) (byteField l 12 2) 3))) ∧
  (∀ (s : State) (w via start len : Nat) (l : List Byte), w < 32 → via < 16 → s.nat (kWinState w) = 1 → s.nat (kWinMode w) = 0 →
    s.win w = {} → start + len ≤ s.nat (kWinConsumed w) + s.nat (kWinBytes w) → l = s.winBytes w start len →
    recordCrcOk l = true → recordFormatOk l = true → byteField l 16 8 = 0 → byteField l 4 1 = 1 →
    ∃ t, exec (.recordReceived w via start len) s = .next t ∧ t.nat (kWinState w) = 2 ∧
      t.nat (kWinSender w) = byteField l 10 2 + byteField l 8 2 * 65536 ∧
      t.nat (kWinRecords w) = (s.nat (kWinRecords w) + 1) % 2 ^ 64 ∧ (t.win w).expect = 1 ∧
      (t.win w).epoch = some (byteField l 12 2) ∧
      (t.port via).acks = (s.port via).acks ++ [(byteField l 10 2,
        formAck 1 (s.nat (kWinConsumed w)) (byteField l 10 2) (byteField l 12 2) 0)] ∧
      memoryKept s t ∧ slotsKept s t [kWinState w, kWinSender w, kWinRecords w])

/-- PORT_ENABLE, PORT_DISABLE, RESTORE_LANE, TRAINING_DONE, TRAIN_FAIL, LOS and LOSS_CLEARED (R424 to R427, Table 10.7): the state
each leaves a port in, with its event.
LANE_FAULT, LANE_SWITCH, LANE_CONFIRM_TIMEOUT and VIOL_UNMUTE (R417, R421 to R424): a first faulty lane is only noted, a second
takes the port DOWN, the agreed lanes act at the agreed frame, and sixteen good markers end a mute.
The model's choices in it are log entries 74 and 75. -/
def Obligations.LinkPorts : Prop :=
  (∀ (s : State) (who : Requester) (n : Nat), n < 16 → accepts s who .portCtrl (kPortCtrl n) 1 → s.nat (kPortState n) = 0 →
    ∃ t, exec (.portEnable who n) s = .next t ∧ t.nat (kPortState n) = (if s.ready then 1 else 5) ∧ t.nat (kPortCtrl n) = 1 ∧
      slotsKept s t [kPortState n, kPortCtrl n] ∧ memoryKept s t ∧ workKept s t) ∧
  (∀ (s : State) (who : Requester) (n : Nat), n < 16 → accepts s who .portCtrl (kPortCtrl n) 1 → s.nat (kPortState n) ≠ 0 →
    exec (.portEnable who n) s = .next ((s.setNat (kPortCtrl n) 1).applied who)) ∧
  (∀ (s : State) (who : Requester) (n : Nat), n < 16 → accepts s who .portCtrl (kPortCtrl n) 0 →
    ∃ t, exec (.portDisable who n) s = .next t ∧ t.nat (kPortState n) = 0 ∧ t.nat (kPortCtrl n) = 0 ∧
      t.nat (kLanesActive n) = 0 ∧ slotsKept s t [kPortState n, kPortCtrl n, kLanesActive n, kTxMuted n] ∧ memoryKept s t ∧
      workKept s t) ∧
  (∀ (s : State) (who : Requester) (n : Nat), n < 16 → accepts s who .portCtrl (kPortCtrl n) 2 → s.nat (kPortState n) = 3 →
    ∃ t, exec (.restoreLane who n) s = .next t ∧ t.nat (kPortCtrl n) = 1 ∧ (t.port n).restoring = true ∧
      slotsKept s t [kPortCtrl n] ∧ memoryKept s t) ∧
  (∀ (s : State) (n lanes rtt : Nat), n < 16 → s.nat (kPortState n) = 1 → lanes % 16 = 15 →
    ∃ t, exec (.trainingDone n lanes rtt) s = .next t ∧ t.nat (kPortState n) = 2 ∧ t.nat (kLanesActive n) = 15 ∧
      t.nat (kPortDelay n) = s.portDelay n rtt ∧ t.nat (kDriftPeak n) = 0 ∧ t.nat (kViolRun n) = 0 ∧
      slotsKept s t [kPortState n, kLanesActive n, kPortDelay n, kDriftPeak n, kViolRun n, kTxMuted n] ∧ memoryKept s t) ∧
  (∀ (s : State) (n lanes rtt : Nat), n < 16 → s.nat (kPortState n) = 1 → laneBits (lanes % 16) = 3 →
    ∃ t, exec (.trainingDone n lanes rtt) s = .next t ∧ t.nat (kPortState n) = 3 ∧ t.nat (kLanesActive n) = lanes % 16 ∧
      t.nat (kPortDelay n) = s.portDelay n rtt ∧ t.bit (kPortEvents n) 1 = true ∧ (t.port n).faulty = 15 - lanes % 16) ∧
  (∀ (s : State) (n : Nat), n < 16 → s.nat (kTrainMaxFr n) ≤ (s.port n).trainWin → s.nat (kPortState n) = 1 →
    ∃ t, exec (.trainFail n) s = .next t ∧ t.nat (kPortState n) = 0 ∧ t.bit (kPortEvents n) 0 = true ∧ memoryKept s t) ∧
  (∀ (s : State) (n : Nat), n < 16 → 2 ≤ s.nat (kPortState n) → s.nat (kPortState n) ≤ 4 →
    ∃ t, exec (.los n) s = .next t ∧ t.nat (kPortState n) = 0 ∧ t.nat (kLanesActive n) = 0 ∧
      t.bit (kPortEvents n) 6 = true ∧ memoryKept s t) ∧
  (∀ (s : State) (n : Nat), n < 16 → s.nat (kPortState n) = 0 → s.nat (kPortCtrl n) = 1 → s.ready = true →
    ∃ t, exec (.lossCleared n) s = .next t ∧ t.nat (kPortState n) = 1 ∧ slotsKept s t [kPortState n] ∧ memoryKept s t) ∧
  (∀ (s : State) (n lane : Nat), lane < 4 → 2 ≤ s.nat (kPortState n) → s.nat (kPortState n) ≤ 4 → (s.port n).faulty = 0 →
    s.nat (kLanesActive n) = 15 →
    exec (.laneFault n lane) s = .next (s.setPort n { s.port n with faulty := 2 ^ lane })) ∧
  (∀ (s : State) (n lane : Nat), n < 16 → lane < 4 → 2 ≤ s.nat (kPortState n) → s.nat (kPortState n) ≤ 4 →
    (s.port n).faulty ≠ 0 → bitOf (s.port n).faulty lane = false →
    ∃ t, exec (.laneFault n lane) s = .next t ∧ t.nat (kPortState n) = 0 ∧ t.nat (kLanesActive n) = 0 ∧
      (t.port n).faulty = 0 ∧ memoryKept s t) ∧
  (∀ (s : State) (n : Nat), n < 16 → (s.port n).laneSwitch ≠ 0 → (s.port n).confirmed = true →
    (s.port n).laneSwitch ≤ s.frameNo → (s.nat (kPortState n) = 2 ∨ s.nat (kPortState n) = 3) → (s.port n).laneReq = 15 →
    ∃ t, exec (.laneSwitch n) s = .next t ∧ t.nat (kPortState n) = 2 ∧ t.nat (kLanesActive n) = 15 ∧
      (t.port n).faulty = 0 ∧ (t.port n).laneSwitch = 0 ∧ t.bit (kPortEvents n) 2 = true ∧ memoryKept s t) ∧
  (∀ (s : State) (n : Nat), n < 16 → (s.port n).laneSwitch ≠ 0 → (s.port n).confirmed = true →
    (s.port n).laneSwitch ≤ s.frameNo → (s.nat (kPortState n) = 2 ∨ s.nat (kPortState n) = 3) →
    (s.port n).laneReq < 16 → laneBits (s.port n).laneReq = 3 →
    ∃ t, exec (.laneSwitch n) s = .next t ∧ t.nat (kPortState n) = 3 ∧ t.nat (kLanesActive n) = (s.port n).laneReq ∧
      (t.port n).faulty = 15 - (s.port n).laneReq ∧ t.bit (kPortEvents n) 1 = true ∧ memoryKept s t) ∧
  (∀ (s : State) (n : Nat), n < 16 → (s.port n).laneSwitch ≠ 0 → (s.port n).confirmed = false → 4 ≤ (s.port n).waited →
    ∃ t, exec (.laneConfirmTimeout n) s = .next t ∧ t.nat (kPortState n) = 0 ∧ t.nat (kLanesActive n) = 0 ∧ memoryKept s t) ∧
  (∀ (s : State) (n : Nat), n < 16 → s.nat (kPortState n) = 4 → 16 ≤ (s.port n).good → (s.port n).prev < 16 →
    ∃ t, exec (.violUnmute n) s = .next t ∧ t.nat (kPortState n) = (s.port n).prev ∧ t.nat (kViolRun n) = 0 ∧
      (t.port n).good = 0 ∧ t.bit (kPortEvents n) 5 = true ∧
      slotsKept s t [kPortState n, kViolRun n, kPortEvents n, kTxMuted n] ∧ memoryKept s t)

/-- SLOT_START, SLOT_TABLE_WRITE, SLOT_SWITCH_FRAME_WRITE and SLOT_BANK_SWITCH (R402, R403, R408, R409): a slot starts once a frame,
the active bank is not writable, and a switch refused under R409 sets SWITCH_REFUSED.
The model's choice in it is log entry 42. -/
def Obligations.SlotTables : Prop :=
  (∀ (s : State) (n slot : Nat), slot < s.slotsPerFrame →
    ((s.port n).slotAt.1 ≠ s.tb.ticks ∨ (s.port n).slotAt.2 ≤ slot) →
    ∃ u, u = s.setPort n { s.port n with slotAt := (s.tb.ticks, slot + 1) } ∧
      exec (.slotStart n slot) s = .next (if s.portSends n then u.sendSlot n slot else u)) ∧
  (∀ (s : State) (n slot : Nat), (s.port n).slotAt.1 = s.tb.ticks → slot < (s.port n).slotAt.2 →
    exec (.slotStart n slot) s = .next s) ∧
  (∀ (s : State) (who : Requester) (n table slot : Nat) (v : Word), accepts s who (slotEntry n table slot).1
      (slotEntry n table slot).2 v → table % 2 ≠ s.slotBank n →
    exec (.slotTableWrite who n table slot v) s = .next ((s.setReg (slotEntry n table slot).2 v).applied who)) ∧
  (∀ (s : State) (who : Requester) (n table slot : Nat) (v : Word), accepts s who (slotEntry n table slot).1
      (slotEntry n table slot).2 v → table % 2 = s.slotBank n →
    exec (.slotTableWrite who n table slot v) s =
      .next (s.refuse who .state ((slotEntry n table slot).2 / 256) ((slotEntry n table slot).2 % 256))) ∧
  (∀ (s : State) (who : Requester) (n : Nat) (v : Word), accepts s who .slotSwitchFrame (kSlotSwitchFrame n) v →
    s.frameNo + 2 ≤ v.toNat → s.banksOk n v.toNat = true →
    exec (.slotSwitchFrameWrite who n v) s = .next ((s.setReg (kSlotSwitchFrame n) v).applied who)) ∧
  (∀ (s : State) (who : Requester) (n : Nat) (v : Word), accepts s who .slotSwitchFrame (kSlotSwitchFrame n) v →
    (v.toNat < s.frameNo + 2 ∨ s.banksOk n v.toNat = false) →
    ∃ t, exec (.slotSwitchFrameWrite who n v) s = .next t ∧ t.reg (kSlotSwitchFrame n) = s.reg (kSlotSwitchFrame n) ∧
      t.bit (kPortEvents n) 8 = true) ∧
  (∀ (s : State) (n : Nat), n < 16 → s.nat (kSlotSwitchFrame n) ≠ 0 → s.nat (kSlotSwitchFrame n) ≤ s.frameNo →
    ∃ t, exec (.slotBankSwitch n) s = .next t ∧ t.nat (kSlotBank n) = 1 - s.nat (kSlotBank n) ∧
      t.nat (kSlotSwitchFrame n) = 0 ∧ t.bit (kPortEvents n) 7 = true ∧
      slotsKept s t [kSlotBank n, kSlotSwitchFrame n, kPortEvents n] ∧ memoryKept s t)

/-- CELL_RECEIVED and MARKER_RECEIVED (R401, R410 to R416): which cells are accepted, what a refused one counts, and what a marker
leaves; the deviation of a timed cell is its arrival less the expected one.
The model's choices in it are log entries 53, 74 and 76. -/
def Obligations.Arrivals : Prop :=
  (∀ (s : State) (n : Nat) (b : List Byte) (a : Int), n < 16 → 2 ≤ s.nat (kPortState n) → s.nat (kPortState n) ≤ 3 →
    cellOk b = true → byteField b 0 1 % 16 ≠ 1 → s.timing ≠ 0 → s.numbered = true → (s.port n).wiring = false →
    (s.arrivalDelta n b a).natAbs ≤ 4 * s.guardEff → byteField b 2 2 < s.slotsPerFrame →
    typeSuits (byteField b 0 1 % 16) (byteField b 8 1) (s.rxEntry n (byteField b 2 2)) = true →
    byteField b 4 2 < slotLimit (s.rxEntry n (byteField b 2 2)) (s.portC n) →
    ∃ u, u = (((s.drift n (s.arrivalDelta n b a)).wrapAdd (kCellsRx n)).setNat (kViolRun n) 0) ∧
      exec (.cellReceived n b a {}) s = .next (u.deliver n (byteField b 0 1 % 16) (byteField b 8 1) (byteField b 10 4) a
        ((b.drop 16).take (byteField b 9 1 + 1)))) ∧
  (∀ (s : State) (n w : Nat) (b : List Byte) (a : Int), n < 16 → 2 ≤ s.nat (kPortState n) → s.nat (kPortState n) ≤ 3 →
    cellOk b = true → byteField b 0 1 % 16 = 4 → s.timing ≠ 0 → s.numbered = true → (s.port n).wiring = false →
    (s.arrivalDelta n b a).natAbs ≤ 4 * s.guardEff → byteField b 2 2 < s.slotsPerFrame →
    slotClass (s.rxEntry n (byteField b 2 2)) = 3 → byteField b 4 2 < slotLimit (s.rxEntry n (byteField b 2 2)) (s.portC n) →
    w = byteField b 8 1 % 32 → s.nat (kWinState w) = 0 → s.win w = {} → byteField b 10 4 < 2 ^ 31 →
    ∃ t, exec (.cellReceived n b a {}) s = .next t ∧
      (t.win w).passed = [(byteField b 10 4 * 256, (((b.drop 16).take (byteField b 9 1 + 1)).take 64))] ∧
      t.nat (kCellsRx n) = (s.nat (kCellsRx n) + 1) % 2 ^ 64 ∧ t.nat (kViolRun n) = 0 ∧
      slotsKept s t [kCellsRx n, kViolRun n, kDriftLast n, kDriftPeak n] ∧ memoryKept s t ∧ workKept s t) ∧
  (∀ (s : State) (n : Nat) (b : List Byte) (a : Int), n < 16 → 2 ≤ s.nat (kPortState n) → s.nat (kPortState n) ≤ 3 →
    cellOk b = true → 4 ≤ byteField b 0 1 % 16 → s.timing ≠ 0 → s.numbered = true → s.nat (kViolRun n) < 7 →
    (4 * s.guardEff < (s.arrivalDelta n b a).natAbs ∨ s.slotsPerFrame ≤ byteField b 2 2 ∨
      typeSuits (byteField b 0 1 % 16) (byteField b 8 1) (s.rxEntry n (byteField b 2 2)) = false ∨
      slotLimit (s.rxEntry n (byteField b 2 2)) (s.portC n) ≤ byteField b 4 2) →
    ∃ t, exec (.cellReceived n b a {}) s = .next t ∧
      t.nat (kSlotViolations n) = satAdd 32 (s.nat (kSlotViolations n)) 1 ∧ t.nat (kViolRun n) = s.nat (kViolRun n) + 1 ∧
      t.nat (kPortState n) = s.nat (kPortState n) ∧ memoryKept s t ∧ workKept s t ∧
      slotsKept s t [kSlotViolations n, kViolRun n, kDriftLast n, kDriftPeak n]) ∧
  (∀ (s : State) (n : Nat) (b : List Byte) (a : Int), n < 16 → 2 ≤ s.nat (kPortState n) → s.nat (kPortState n) ≤ 3 →
    cellOk b = true → 4 ≤ byteField b 0 1 % 16 → s.timing ≠ 0 → s.numbered = true → s.nat (kViolRun n) = 7 →
    4 * s.guardEff < (s.arrivalDelta n b a).natAbs →
    ∃ t, exec (.cellReceived n b a {}) s = .next t ∧ t.nat (kPortState n) = 4 ∧
      (t.port n).prev = s.nat (kPortState n) ∧ t.nat (kViolMutes n) = satAdd 32 (s.nat (kViolMutes n)) 1 ∧
      t.nat (kTxMuted n) = 1 ∧ t.bit (kPortEvents n) 4 = true) ∧
  (∀ (s : State) (n : Nat) (b : List Byte) (a : Int), n < 16 → 2 ≤ s.nat (kPortState n) → s.nat (kPortState n) ≤ 4 →
    cellOk b = true → byteField b 0 1 % 16 ≠ 1 → (s.timing = 0 ∨ s.numbered = false) →
    exec (.cellReceived n b a {}) s = .next (s.bump (kRxUntimed n))) ∧
  (∀ (s : State) (n : Nat) (b : List Byte) (a : Int), n < 16 → s.nat (kPortState n) = 5 → cellOk b = true →
    byteField b 0 1 % 16 ≠ 1 → byteField b 0 1 % 16 ≠ 6 →
    exec (.cellReceived n b a {}) s = .next (s.bump (kRxUntimed n))) ∧
  (∀ (s : State) (n : Nat) (b : List Byte) (a : Int), n < 16 → 2 ≤ s.nat (kPortState n) → s.nat (kPortState n) ≤ 5 →
    cellOk b = false → slotClass (s.rxEntry n (byteField b 2 2 % 1024)) = 3 →
    exec (.cellReceived n b a {}) s = .next (s.bump (kCellErrors n))) ∧
  (∀ (s : State) (n : Nat) (b : List Byte) (a δ : Int), n < 16 → 2 ≤ s.nat (kPortState n) → s.nat (kPortState n) ≤ 3 →
    cellOk b = true → byteField b 0 1 % 16 = 1 → s.timing ≠ 0 → s.numbered = true → δ = s.arrivalDelta n b a →
    δ.natAbs ≤ 4 * s.guardEff → δ.natAbs < 2 ^ 31 →
    ∃ t, exec (.markerReceived n b a {}) s = .next t ∧ t.nat (kViolRun n) = 0 ∧
      (t.reg (kDriftLast n)).toInt = δ ∧
      t.nat (kPeerId n) = byteField b 26 2 + byteField b 28 1 % 16 * 2 ^ 16 ∧
      (t.port n).peerMuted = bitOf (byteField b 29 1) 0 ∧ (t.port n).peerReady = bitOf (byteField b 29 1) 1 ∧
      (byteField b 24 1 = 2 → byteField b 25 1 ≤ 6 → (t.port n).mkHop = byteField b 25 1 ∧ (t.port n).mkGot = true ∧
        (t.port n).mkRun = (s.port n).mkRun + 1 ∧ (t.port n).mkOff = some (s.markerOffset n (byteField b 16 8) a) ∧
        (s.tb.selected = 3 + n → t.nat kHopCount = byteField b 25 1 + 1)) ∧
      t.nat (kSlotViolations n) = s.nat (kSlotViolations n) ∧ memoryKept s t ∧ workKept s t) ∧
  (∀ (s : State) (n : Nat) (b : List Byte) (a : Int), n < 16 → 1 ≤ s.nat (kPortState n) → s.nat (kPortState n) ≤ 5 →
    cellOk b = true → byteField b 0 1 % 16 = 1 → s.timing = 0 →
    ∃ t, exec (.markerReceived n b a {}) s = .next t ∧
      t.nat (kPeerId n) = byteField b 26 2 + byteField b 28 1 % 16 * 2 ^ 16 ∧
      (t.port n).wiring = s.miswired n (byteField b 26 2 + byteField b 28 1 % 16 * 2 ^ 16) ∧
      t.nat (kSlotViolations n) = s.nat (kSlotViolations n) ∧ t.nat (kPortState n) = s.nat (kPortState n) ∧ memoryKept s t ∧
      workKept s t) ∧
  (∀ (s : State) (n : Nat) (b : List Byte) (a : Int), (byteField b 0 1 % 16 ≠ 1 ∨ s.nat (kPortState n) = 0) →
    exec (.markerReceived n b a {}) s = .next s)

/-- ROCE_PACKET_RECEIVED, QP_ERROR, ETH_LINK_UP and ETH_LINK_DOWN (R429 to R433, Table 10.8): packets of no queue pair of the port
are discarded and counted, a transport acknowledgement clears what it covers, a NAK sends the rest again, a write that the
acknowledgement region accepts is acknowledged and applied, and an exhausted queue pair enters ERROR.
The model's choices in it are log entries 76 and 93. -/
def Obligations.EthernetPorts : Prop :=
  (∀ (s : State) (e q psn : Nat), e < 4 → s.qpOn q e = false →
    exec (.rocePacketReceived e (.ack q psn)) s = .next (s.bump (kEthDiscards e)) ∧
    exec (.rocePacketReceived e (.nak q psn)) s = .next (s.bump (kEthDiscards e)) ∧
    exec (.rocePacketReceived e (.cnp q)) s = .next (s.bump (kEthDiscards e)) ∧
    ∀ va rkey l ce, exec (.rocePacketReceived e (.write q psn va rkey l ce)) s = .next (s.bump (kEthDiscards e))) ∧
  (∀ (s : State) (e : Nat), e < 4 → exec (.rocePacketReceived e .other) s = .next (s.bump (kEthDiscards e))) ∧
  (∀ (s : State) (e q psn : Nat), e < 4 → s.qpOn q e = true →
    exec (.rocePacketReceived e (.ack q psn)) s =
      .next (s.setQp q { s.qp q with sent := unacked psn (s.qp q).sent, retries := 0 })) ∧
  (∀ (s : State) (e q psn : Nat), e < 4 → s.qpOn q e = true → (s.qp q).retries < 7 →
    ∃ t, exec (.rocePacketReceived e (.nak q psn)) s = .next t ∧ (t.qp q).retries = (s.qp q).retries + 1 ∧
      (t.qp q).sent = unacked ((psn + 2 ^ 24 - 1) % 2 ^ 24) (s.qp q).sent ∧
      t.out = s.out ++ (t.qp q).sent.map (fun m => .roce (s.ethHead e q) q m.psn m.va m.rkey m.bytes) ∧
      t.nat (kPsnRetries e) = satAdd 32 (s.nat (kPsnRetries e)) 1 ∧ slotsKept s t [kPsnRetries e] ∧ memoryKept s t) ∧
  (∀ (s : State) (e q psn va rkey off : Nat) (l : List Byte), e < 4 → s.qpOn q e = true → s.ackPlace q va rkey l = some off →
    exec (.rocePacketReceived e (.write q psn va rkey l false)) s =
      .next ((s.emit (.roceAck (s.ethHead e q) q psn false)).ackApply off l)) ∧
  (∀ (s : State) (q : Nat), q < 256 → s.nat (kQpState q) = 1 → (s.qp q).sent ≠ [] →
    (∀ st, st < 256 → s.nat (kTransport st) ≠ 1) →
    exec (.qpError q) s = .next ((s.setNat (kQpState q) 2).setQp q { s.qp q with sent := [] })) ∧
  (∀ (s : State) (e : Nat), e < 4 → exec (.ethLinkUp e) s = .next (s.setNat (kEthState e) 1)) ∧
  (∀ (s : State) (e : Nat), e < 4 → exec (.ethLinkDown e) s = .next (s.setNat (kEthState e) 0))

/-- REDUCE_SCATTER, ALL_GATHER, ALL_REDUCE, BROADCAST, ALL_TO_ALL and RHIZOID (R448, R456, R459, R465, R466, R468): the operation at
the head of its group starts in its first frame, takes the next sequence number, and the group serves it.
EXCHANGE_FRAME, STAGE_SETTLE, COLLECTIVE_COMPLETE, COLL_SLACK_EXPIRY, RHIZOID_STAGE_REDUCED and XWAIT_EXPIRY (R457 to R463,
R469, R477): a stage sends its cells, settles and hands on, and the operation completes or fails.
The model's choice in it is log entry 77. -/
def Obligations.Collectives : Prop :=
  (∀ (s : State) (id op w tick : Nat) (d : Desc) (c : Instr),
    (op, c) ∈ [(0, Instr.reduceScatter id), (1, .allGather id), (2, .allReduce id), (3, .broadcast id), (4, .allToAll id)] →
    isColl s id op d → s.collDue d.cGroup id = true → (s.coll d.cGroup).queue.head? = some (id, w, tick) →
    (s.coll d.cGroup).early = [] → bufferOk s d d.cSrc → bufferOk s d d.cDst → s.flips = [] →
    ∃ t r, exec c s = .next t ∧ (t.coll d.cGroup).run = some r ∧ r.desc = id ∧ r.gdef = w ∧ r.stage = 0 ∧
      r.seq = (s.nat (kCollSeq d.cGroup) + 1) % 2 ^ 32 ∧ r.begin_ = max (tick + 1) ((s.coll d.cGroup).lastDone + 1) ∧
      t.nat (kCollSeq d.cGroup) = r.seq ∧ slotsKept s t [kCollSeq d.cGroup] ∧ memoryKept s t) ∧
  (∀ (s : State) (id op : Nat) (d : Desc) (c : Instr),
    (op, c) ∈ [(0, Instr.reduceScatter id), (1, .allGather id), (2, .allReduce id), (3, .broadcast id), (4, .allToAll id)] →
    isColl s id op d → s.collDue d.cGroup id = false → exec c s = .next s) ∧
  (∀ (s : State) (id w frame pos : Nat) (rest : List (Nat × Nat × Nat × Nat)) (d : Desc), isColl s id 5 d →
    (s.coll d.cGroup).rhzWait = (id, w, frame, pos) :: rest → (s.coll d.cGroup).rhzEarly = [] →
    (s.coll d.cGroup).rhzBad = [] → s.flips = [] →
    s.oversize d.cGroup 1 ((s.members w).peers ((s.members w).nx == 1) ++
      (if 1 < (s.members w).nx ∧ 1 < (s.members w).ny then (s.members w).ys else [])) = false →
    bufferOk s d d.cSrc → bufferOk s d d.cDst →
    ∃ t r, exec (.rhizoid id) s = .next t ∧ r ∈ (t.coll d.cGroup).rhz ∧ r.desc = id ∧ r.gdef = w ∧ r.frame = frame ∧ r.pos = pos ∧
      (t.coll d.cGroup).rhzWait = rest ∧ t.nat (kRhzSeq d.cGroup) = (s.nat (kRhzSeq d.cGroup) + 1) % 2 ^ 32 ∧
      slotsKept s t [kRhzSeq d.cGroup]) ∧
  (∀ (s : State) (g : Nat) (r : CollRun) (d : Desc) (st : Stage) (x : Nat × Nat), s.serving g = some (r, d, some st) →
    st.kind ≠ .cross → r.due = none → r.begin_ ≤ s.tb.ticks → r.lastExch ≠ some s.tb.ticks →
    d.sendsTo (s.members r.gdef) st = [x] → numAt r.formed x.2 < st.cells →
    s.oversize g 2 ((s.members r.gdef).peers st.axisY) = false →
    ∃ t r', exec (.exchangeFrame g) s = .next t ∧ (t.coll g).run = some r' ∧ r'.desc = r.desc ∧
      r'.lastExch = some s.tb.ticks ∧
      (t.port x.2).coll.length = (s.port x.2).coll.length +
        min (s.axisK g (s.members r.gdef) st.axisY) (st.cells - numAt r.formed x.2) ∧
      numAt r'.formed x.2 = numAt r.formed x.2 + min (s.axisK g (s.members r.gdef) st.axisY) (st.cells - numAt r.formed x.2) ∧
      t.regs = s.regs ∧ memoryKept s t ∧ workKept s t) ∧
  (∀ (s : State) (g e : Nat) (r : CollRun) (d : Desc) (st : Stage), s.serving g = some (r, d, some st) → st.kind ≠ .rs →
    r.stageEnd = some e → r.due = none → e < s.tb.ticks → r.stage + 1 = (s.stages r.gdef d).length →
    ∃ t, exec (.stageSettle g) s = .next t ∧ (t.coll g).run = some { r with due := some (max r.planned (e + st.settle)) } ∧
      t.regs = s.regs ∧ memoryKept s t ∧ workKept s t) ∧
  (∀ (s : State) (g due : Nat) (r : CollRun) (d : Desc) (st : Option Stage), g < 32 → s.serving g = some (r, d, st) →
    r.due = some due → due ≤ s.tb.ticks → d.ended = false → (s.coll g).rhz = [] → s.tb.ticks ≤ r.planned → r.sat = false →
    ∃ t, exec (.collectiveComplete g) s = .next t ∧ (t.coll g).run = none ∧
      t.desc? d.id = some { d with ended := true, status := 0, endFrame := s.frameNo } ∧
      t.nat (kCollDone g) = (s.nat (kCollDone g) + 1) % 2 ^ 64 ∧ slotsKept s t [kCollDone g] ∧ memoryKept s t ∧
      t.posted = s.posted) ∧
  (∀ (s : State) (g : Nat) (r : CollRun) (d : Desc) (st : Stage), s.serving g = some (r, d, some st) →
    s.slackRuns g r d st = true → s.sentFrame g r st < s.tb.ticks → s.nat kCollSlackFr ≤ r.slack → (s.coll g).rhz = [] →
    exec (.collSlackExpiry g) s = .next (s.collFail g d.id 0x0D)) ∧
  (∀ (s : State) (g : Nat) (r : RhzRun) (d : Desc),
    (s.coll g).rhz.find? (fun r => !r.fin && s.rhzMissing r == []) = some r → s.desc? r.desc = some d →
    (r.held = none → exec (.rhizoidStageReduced g) s = .next (s.rhzFirst g r d)) ∧
    (∀ v, r.held = some v → exec (.rhizoidStageReduced g) s = .next (s.rhzSecond g r d v))) ∧
  (∀ (s : State) (g : Nat) (r : CollRun) (d : Desc) (st : Stage), s.serving g = some (r, d, some st) → st.kind = .cross →
    r.begin_ + gXwait r.gdef ≤ s.tb.ticks → 2 * (gPlanes r.gdef - 1) ≤ r.xStep →
    r.stage + 1 = (s.stages r.gdef d).length → bufferOk s d d.cDst →
    ∃ t, exec (.xwaitExpiry g) s = .next t ∧
      (t.coll g).run = some { r with due := some (max r.planned (r.begin_ + gXwait r.gdef - 1)) } ∧
      t.regs = s.regs ∧ memoryKept s t) ∧
  (∀ (s : State) (g : Nat) (r : CollRun) (d : Desc) (st : Stage), s.serving g = some (r, d, some st) → st.kind = .cross →
    r.begin_ + gXwait r.gdef ≤ s.tb.ticks → r.xStep < 2 * (gPlanes r.gdef - 1) →
    exec (.xwaitExpiry g) s = .next ((s.bump (kXstageLate g)).collFail g d.id 1))

/-- GROUP_DEF_WRITE and PLANE_WRITE (R439, R444): the values each takes, and the writes each refuses.
The model's choice in it is log entry 46. -/
def Obligations.GroupsAndPlanes : Prop :=
  (∀ (s : State) (who : Requester) (g : Nat) (v : Word), accepts s who .groupDef (kGroupDef g) v → s.groupState g ≠ 2 →
    gKind v.toNat ≠ 3 → gPlanes v.toNat = 1 →
    exec (.groupDefWrite who g v) s = .next ((s.setReg (kGroupDef g) v).applied who)) ∧
  (∀ (s : State) (who : Requester) (g : Nat) (v : Word), accepts s who .groupDef (kGroupDef g) v →
    (s.groupState g = 2 ∨ (gKind v.toNat = 3 ∧ s.dimX < 2 ^ bitsOf v.toNat 3 2)) →
    exec (.groupDefWrite who g v) s = .next (s.refuse who .state (kGroupDef g / 256) (kGroupDef g % 256))) ∧
  (∀ (s : State) (who : Requester) (sub : Nat) (v : Word), accepts s who (planeEnt sub) (planeSlot sub) v →
    (∀ g, g < 32 → gKind (s.nat (kGroupDef g)) = 0) →
    (s.setReg (planeSlot sub) v).nat kPlaneX < (s.setReg (planeSlot sub) v).dimX →
    (s.setReg (planeSlot sub) v).nat kPlaneY < (s.setReg (planeSlot sub) v).dimY →
    exec (.planeWrite who sub v) s = .next ((s.setReg (planeSlot sub) v).applied who)) ∧
  (∀ (s : State) (who : Requester) (sub g : Nat) (v : Word), accepts s who (planeEnt sub) (planeSlot sub) v → g < 32 →
    gKind (s.nat (kGroupDef g)) ≠ 0 →
    exec (.planeWrite who sub v) s = .next (s.refuse who .state (planeSlot sub / 256) (planeSlot sub % 256)))

/-- PART_CREATE, PART_DESTROY, PART_HALT, PART_RESUME, PART_ABORT and HALTED_REACHED (R484 to R490, Tables 12.2 and 12.3): the state
each leaves a partition in, and what each refuses.
The model's choice in it is log entry 78. -/
def Obligations.PartitionLife : Prop :=
  (∀ (s : State) (who : Requester) (p : Nat), p < 64 → accepts s who .partCtrl (kPartCtrl p) 1 → s.partState p = 0 →
    ∃ t, exec (.partCreate who p) s = .next t ∧ t.partState p = 1 ∧ t.partRun p = 0 ∧ t.nat (kHaltCause p) = 1 ∧
      (∀ l, l < 256 → t.reg (kPrecLayer p l) = s.reg kPrecDefault) ∧ t.nat (kCtxQuota p) = (regDefault (kCtxQuota p)).toNat ∧
      (∀ q, q < 64 → q ≠ p → t.partState q = s.partState q) ∧ memoryKept s t ∧ workKept s t) ∧
  (∀ (s : State) (who : Requester) (p : Nat), accepts s who .partCtrl (kPartCtrl p) 1 → s.partState p ≠ 0 →
    exec (.partCreate who p) s = .next (s.refuse who .busy (kPartCtrl p / 256) (kPartCtrl p % 256))) ∧
  (∀ (s : State) (who : Requester) (p : Nat), p < 64 → p ≠ 0 → accepts s who .partCtrl (kPartCtrl p) 2 → s.partState p = 1 →
    exec (.partDestroy who p) s = .next (((s.setNat (kPartState p) 2).startPartAbort p true).applied who)) ∧
  (∀ (s : State) (who : Requester) (p : Nat), accepts s who .partCtrl (kPartCtrl p) 2 → (p = 0 ∨ s.partState p = 0) →
    exec (.partDestroy who p) s = .next (s.refuse who .state (kPartCtrl p / 256) (kPartCtrl p % 256))) ∧
  (∀ (s : State) (who : Requester) (p : Nat), p < 64 → accepts s who .partCtrl (kPartCtrl p) 3 → s.partState p = 1 →
    s.partRun p = 1 → s.runahead = [] →
    exec (.partHalt who p) s = .next (((s.setNat (kPartRun p) 2).setNat (kHaltCause p) 1).applied who)) ∧
  (∀ (s : State) (who : Requester) (p : Nat), accepts s who .partCtrl (kPartCtrl p) 3 → s.partState p ≠ 0 →
    (s.partState p ≠ 1 ∨ s.partRun p ≠ 1) → exec (.partHalt who p) s = .next (s.applied who)) ∧
  (∀ (s : State) (who : Requester) (p : Nat), accepts s who .partCtrl (kPartCtrl p) 4 → s.partState p = 1 → s.partRun p = 0 →
    (s.nat (kHaltCause p) = 1 ∨ s.nat (kHaltCause p) = 2 ∨ s.nat (kHaltCause p) = 4) → s.nat kStopState = 0 →
    s.poolEmptying p = false →
    exec (.partResume who p) s = .next (((s.setNat (kPartRun p) 1).setNat (kHaltCause p) 0).applied who)) ∧
  (∀ (s : State) (who : Requester) (p : Nat), accepts s who .partCtrl (kPartCtrl p) 4 →
    (s.nat kStopState ≠ 0 ∨ s.partRun p ≠ 0 ∨ s.nat (kHaltCause p) = 3) →
    exec (.partResume who p) s = .next (s.refuse who .state (kPartCtrl p / 256) (kPartCtrl p % 256))) ∧
  (∀ (s : State) (who : Requester) (p : Nat), accepts s who .partCtrl (kPartCtrl p) 5 → s.partState p = 1 → s.partRun p ≠ 3 →
    exec (.partAbort who p) s = .next (((s.forgetSeeds p).startPartAbort p false).applied who)) ∧
  (∀ (s : State) (p : Nat), p < 64 → s.partRun p = 2 → s.partDescs p = [] → s.recov = [] →
    ∃ t, exec (.haltedReached p) s = .next t ∧ t.partRun p = 0 ∧ t.bit (kPartEvents p) 0 = true ∧
      slotsKept s t [kPartRun p, kPartEvents p] ∧ memoryKept s t ∧ workKept s t)

/-- CTX_CREATE, CTX_DESTROY, RING_CREATE, RING_ENABLE, RING_DISABLE, RING_DESTROY, DRAIN_COMPLETE and ABORT_COMPLETE (R480, R492 to
R494, R496, R497, R500, R502, R508, R573, R837).
The model's choice in it is log entry 78. -/
def Obligations.ContextsAndRings : Prop :=
  (∀ (s : State) (who : Requester) (c p : Nat), c < 1024 → p < 64 → accepts s who .ctxCtrl (kCtxCtrl c) (wd (1 + p * 256)) →
    s.partState p = 1 → s.partRun p ≠ 3 → s.ctxLife c = 0 → (s.ctxsOf p).length < s.nat (kCtxQuota p) →
    exec (.ctxCreate who c p) s = .next ((s.setReg (kCtxState c) (wd (1 + p * 256))).applied who)) ∧
  (∀ (s : State) (who : Requester) (c p : Nat), p < 64 → accepts s who .ctxCtrl (kCtxCtrl c) (wd (1 + p * 256)) →
    s.partState p = 1 → s.partRun p ≠ 3 → s.ctxLife c = 0 → s.nat (kCtxQuota p) ≤ (s.ctxsOf p).length →
    ∃ t, exec (.ctxCreate who c p) s = .next t ∧ t.bit (kPartEvents p) 2 = true ∧
      t.area who 0x42 = wd (9 + kCtxCtrl c / 256 * 2 ^ 8 + kCtxCtrl c % 256 * 2 ^ 24) ∧ slotsKept s t [kPartEvents p]) ∧
  (∀ (s : State) (who : Requester) (c : Nat), accepts s who .ctxCtrl (kCtxCtrl c) 2 → s.ctxLife c = 1 →
    ∃ rings fences, rings = (s.ringsWhere (· == c)).filter (fun r => (s.ring r).stop != .abort) ∧
      fences = (s.fencesWhere (· == c)).filter (fun f => s.fenceLife f == 1) ∧
      exec (.ctxDestroy who c) s = .next ((s.startAbort (.ctx c) (s.ctxPart c) rings [c] fences).applied who)) ∧
  (∀ (s : State) (who : Requester) (c : Nat), accepts s who .ctxCtrl (kCtxCtrl c) 2 → s.ctxLife c = 2 →
    exec (.ctxDestroy who c) s = .next (s.applied who)) ∧
  (∀ (s : State) (who : Requester) (r : Nat), r < 96 → accepts s who .ringCtrl (kRingCtrl r) 1 → s.ringLife r = 0 →
    s.ctxLife (s.nat (kRingCtx r)) = 1 → s.ringLayoutOk r = true →
    (s.ringsWhere fun c => s.ctxPart c == s.ringPart r).length < s.nat (kRingQuota (s.ringPart r)) →
    ∃ t, exec (.ringCreate who r) s = .next t ∧ t.ringLife r = 1 ∧ t.nat (kRingEnabled r) = 0 ∧
      t.nat (kReenablePending r) = 0 ∧ t.nat (kRingProd r) = 0 ∧ t.nat (kRingCons r) = 0 ∧ t.nat (kCqProd r) = 0 ∧
      t.nat (kCqCons r) = 0 ∧ t.ring r = {} ∧ memoryKept s t ∧
      slotsKept s t [kRingState r, kRingEnabled r, kReenablePending r, kRingProd r, kRingCons r, kCqProd r, kCqCons r]) ∧
  (∀ (s : State) (who : Requester) (r : Nat), accepts s who .ringCtrl (kRingCtrl r) 1 → s.ringLife r ≠ 0 →
    exec (.ringCreate who r) s = .next (s.refuse who .busy (kRingCtrl r / 256) (kRingCtrl r % 256))) ∧
  (∀ (s : State) (who : Requester) (r : Nat), accepts s who .ringCtrl (kRingCtrl r) 4 → s.ringLife r ≠ 0 →
    (s.ring r).stop ≠ .abort →
    exec (.ringDestroy who r) s = .next ((s.startAbort (.ring r) (s.ringPart r) [r] [] []).applied who)) ∧
  (∀ (s : State) (r : Nat), r < 128 → s.ringLife r = 2 → (s.ring r).stop = .drain → s.ringDescs r = [] →
    ∃ t, exec (.drainComplete r) s = .next t ∧ t.ringLife r = 1 ∧ t.nat (kRingEnabled r) = s.nat (kReenablePending r) ∧
      t.nat (kReenablePending r) = 0 ∧ (t.ring r).stop = .running ∧
      slotsKept s t [kRingState r, kRingEnabled r, kReenablePending r] ∧ memoryKept s t) ∧
  (∀ (s : State) (job : Nat) (j : AbortJob), s.aborts.find? (fun j => j.id == job) = some j →
    (s.inflight.any fun d => j.rings.contains d.ring) = false → (∀ b, j.kind ≠ .part b) →
    exec (.abortComplete job) s = .next (s.finishAbort j)) ∧
  (∀ (s : State) (job : Nat) (j : AbortJob) (d : Desc), s.aborts.find? (fun j => j.id == job) = some j → d ∈ s.inflight →
    j.rings.contains d.ring = true → exec (.abortComplete job) s = .next s) ∧
  (∀ (s : State) (who : Requester) (r : Nat), accepts s who .ringCtrl (kRingCtrl r) 2 → s.ringLife r = 1 →
    s.nat (kRingEnabled r) = 0 →
    exec (.ringEnable who r) s =
      .next (((s.setNat (kRingEnabled r) 1).setRing r { s.ring r with lastCommit := none }).applied who)) ∧
  (∀ (s : State) (who : Requester) (r : Nat), accepts s who .ringCtrl (kRingCtrl r) 3 → s.ringLife r = 1 →
    s.nat (kRingEnabled r) = 1 → s.runahead = [] →
    exec (.ringDisable who r) s = .next ((((s.setNat (kRingState r) 2).setNat (kRingEnabled r) 0).setRing r
      { s.ring r with stop := .drain }).applied who)) ∧
  (∀ (s : State) (who : Requester) (r : Nat), accepts s who .ringCtrl (kRingCtrl r) 2 → s.ringLife r = 0 →
    exec (.ringEnable who r) s = .next (s.refuse who .state (kRingCtrl r / 256) (kRingCtrl r % 256)))

/-- R499 of the rings and objects chapter: ENABLE and DISABLE applied to a QUIESCING ring only set and clear REENABLE_PENDING, and
its drain or abort goes on. -/
def Obligations.EnableWhileQuiescing : Prop :=
  ∀ (s : State) (who : Requester) (r : Nat),
    (accepts s who .ringCtrl (kRingCtrl r) 2 → s.ringLife r = 2 →
      exec (.ringEnable who r) s = .next ((s.setNat (kReenablePending r) 1).applied who)) ∧
    (accepts s who .ringCtrl (kRingCtrl r) 3 → s.ringLife r = 2 →
      exec (.ringDisable who r) s = .next ((s.setNat (kReenablePending r) 0).applied who))

/-- FENCE_CREATE, FENCE_DESTROY, FENCE_SIGNAL_CMD, FENCE_RESET, FENCE_SUBS_WRITE, FENCE_HANDLE_WRITE, FENCE_PAGE_SIGNAL and
FENCE_PAGE_RESET (R506, R509 to R511, R515, R522, R838).
What a signal, a break and a reset leave of a fence (R506, R509 to R511): only an UNSIGNALLED fence that is not imported is
signalled, a repeat is counted, BROKEN is final until RESET, and RESET takes the next GEN.
The model's choice in it is log entry 18. -/
def Obligations.Fences : Prop :=
  (∀ (s : State) (who : Requester) (f c : Nat), f < 4096 → c < 1024 →
    accepts s who .fenceCtrl (kFenceCtrl f) (wd (1 + c * 2 ^ 16)) → s.fenceLife f = 0 → s.ctxLife c = 1 →
    (s.fencesWhere fun g => s.ctxPart g == s.ctxPart c).length < s.nat (kFenceQuota (s.ctxPart c)) →
    ∃ t, exec (.fenceCreate who f c false false) s = .next t ∧ t.fenceLife f = 1 ∧ t.fenceValue f = 0 ∧
      t.fenceGen f = (s.fenceGen f + 1) % 2 ^ 32 ∧ fld (t.fence f) 25 16 = c ∧ slotsKept s t [kFenceState f] ∧
      memoryKept s t ∧ workKept s t) ∧
  (∀ (s : State) (who : Requester) (f : Nat), accepts s who .fenceCtrl (kFenceCtrl f) 2 → s.fenceLife f = 1 →
    exec (.fenceDestroy who f) s =
      .next (((s.breakFence f).startAbort (.fence f) (s.fencePart f) [] [] [f]).applied who)) ∧
  (∀ (s : State) (who : Requester) (f : Nat), accepts s who .fenceCtrl (kFenceCtrl f) 3 → s.fenceLife f = 1 →
    exec (.fenceSignalCmd who f) s = .next ((s.signalFence f).applied who)) ∧
  (∀ (s : State) (who : Requester) (f : Nat), accepts s who .fenceCtrl (kFenceCtrl f) 4 → s.mayReset f = true →
    exec (.fenceReset who f) s = .next ((s.resetFence f).applied who)) ∧
  (∀ (s : State) (who : Requester) (f : Nat), accepts s who .fenceCtrl (kFenceCtrl f) 4 → s.mayReset f = false →
    exec (.fenceReset who f) s = .next (s.refuse who .state (kFenceCtrl f / 256) (kFenceCtrl f % 256))) ∧
  (∀ (s : State) (who : Requester) (f : Nat) (v : Word), accepts s who .fenceSubs (kFenceSubs f) v → s.fenceLife f = 1 →
    (∀ i, i < 4 → bitsOf v.toNat (8 * i + 7) (8 * i) < 255 →
      s.nat (kStreamOwner (bitsOf v.toNat (8 * i + 7) (8 * i))) = s.fencePart f) →
    exec (.fenceSubsWrite who f v) s = .next (((s.setReg (kFenceSubs f) v).fenceNotify f).applied who)) ∧
  (∀ (s : State) (who : Requester) (f : Nat) (v : Word), accepts s who .fenceHandle (kFenceHandle f) v → s.fenceLife f = 0 →
    ∃ t, exec (.fenceHandleWrite who f false v) s = .next t ∧ t.handle f = v ∧ t.regs = s.regs ∧
      (Tbl.get {} t.fenceWr f).handle = some (writerPart who) ∧ memoryKept s t ∧ workKept s t) ∧
  (∀ (s : State) (fn f gen : Nat), s.bar0Ok fn = true → s.fencePageOk fn f gen = true →
    exec (.fencePageSignal fn f gen) s = .next (s.signalFence f)) ∧
  (∀ (s : State) (fn f gen : Nat), s.bar0Ok fn = true → s.fencePageOk fn f gen = false →
    exec (.fencePageSignal fn f gen) s = .next (s.bump kFencePageStale)) ∧
  (∀ (s : State) (fn f gen : Nat), s.bar0Ok fn = true → s.fencePageOk fn f gen = true → s.mayReset f = true →
    exec (.fencePageReset fn f gen) s = .next (s.resetFence f)) ∧
  (∀ (s : State) (f : Nat), s.fenceLife f = 1 → bitOf (s.fence f).toNat 5 = false → s.fenceValue f = 0 →
    (s.signalFence f).fenceValue f = 1 ∧ (s.signalFence f).fenceGen f = s.fenceGen f ∧ (s.signalFence f).fenceLife f = 1 ∧
    slotsKept s (s.signalFence f) [kFenceState f]) ∧
  (∀ (s : State) (f : Nat), s.fenceLife f = 1 → bitOf (s.fence f).toNat 5 = false → s.fenceValue f ≠ 0 →
    s.signalFence f = s.bump kSignalRepeats) ∧
  (∀ (s : State) (f : Nat), s.fenceLife f ≠ 0 → (s.breakFence f).fenceValue f = 2 ∧
    (s.breakFence f).fenceGen f = s.fenceGen f ∧ slotsKept s (s.breakFence f) [kFenceState f]) ∧
  (∀ (s : State) (f : Nat), (s.resetFence f).fenceValue f = 0 ∧ (s.resetFence f).fenceGen f = (s.fenceGen f + 1) % 2 ^ 32 ∧
    (s.resetFence f).fenceLife f = s.fenceLife f ∧ slotsKept s (s.resetFence f) [kFenceState f])

/-- The order of tests of R833 and what refusals and applications leave (R602, R621, R623, R625, R632, Table 15.6): only the words
of the requester's own copy of the area change, and an entry that fails a test is refused with the reason of the first test it
fails.
The model's choice in it is log entry 42. -/
def Obligations.RefusalsAndTests : Prop :=
  (∀ (s : State) (who other : Requester) (r : Reason) (idx sub j : Nat), j < 256 →
     (∀ t, t = s.refuse who r idx sub →
       { t with areas := s.areas } = s ∧ t.area who 0x42 = wd (r.code + idx * 2 ^ 8 + sub * 2 ^ 24) ∧
       t.area who 0x44 = wd (satAdd 32 (s.area who 0x44).toNat 1) ∧
       ((areaOf other ≠ areaOf who ∨ (j ≠ 0x42 ∧ j ≠ 0x44)) → t.area other j = s.area other j)) ∧
     (∀ t, t = s.applied who →
       { t with areas := s.areas } = s ∧ t.area who 0x45 = wd (((s.area who 0x45).toNat + 1) % 2 ^ 32) ∧
       ((areaOf other ≠ areaOf who ∨ j ≠ 0x45) → t.area other j = s.area other j))) ∧
  (∀ (s : State) (who : Requester) (idx sub : Nat) (v : Word),
     (findEntry idx sub = none → s.gateWrite who idx sub v = .error .noEntry) ∧
     (∀ l, findEntry idx sub = some l →
       (s.dieUp = true → s.ready = false → reducedEntry idx sub = false → who ≠ .marionette →
         s.gateWrite who idx sub v = .error .notReady) ∧
       (∀ reach, (s.dieUp = false ∨ s.ready = true ∨ reducedEntry idx sub = true ∨ who = .marionette) →
         reach = (s.mayWrite who l (some v.toNat) || (l.row.acc == .ro && s.mayRead who l)) →
         (reach = false → s.gateWrite who idx sub v = .error .cls) ∧
         (reach = true → l.row.ty.long = true → s.gateWrite who idx sub v = .error .bulk) ∧
         (reach = true → l.row.ty.long = false → l.row.acc = .ro → s.gateWrite who idx sub v = .error .readOnly) ∧
         (reach = true → l.row.ty.long = false → l.row.acc ≠ .ro →
           (typeOk l.row.ty v.toNat = false ∨ entLegal l.row.ent v.toNat = false) →
           s.gateWrite who idx sub v = .error .range) ∧
         (reach = true → l.row.ty.long = false → l.row.acc ≠ .ro → typeOk l.row.ty v.toNat = true →
           entLegal l.row.ent v.toNat = true → s.rwhOk l (some v.toNat) = false →
           s.gateWrite who idx sub v = .error .notHalted))))

/-- DICT_WRITE (R602, R604, R607, R611, R656, R767, R833): what a write that is refused and one that is accepted leave.  The last
clause is of the indices the spec reserves for the Marionette's diagnostics: it gives such a write no effect, and the model stops.
The model's choice in it is log entry 43. -/
def Obligations.DictionaryWrites : Prop :=
  (∀ (s : State) (who : Requester) (offset bytes : Nat) (v : Word), offset < 2 ^ 27 → s.requesterOk who = true →
    areaOf who < 64 → (bytes ≠ 8 ∨ offset % 8 ≠ 0) →
    exec (.dictWrite who offset bytes v) s = .next (s.refuse who .size (offset / 2048) (offset / 8 % 256))) ∧
  (∀ (s : State) (who : Requester) (offset : Nat) (v : Word), offset < 2 ^ 27 → s.requesterOk who = true →
    areaOf who < 64 → offset % 8 = 0 → findEntry (offset / 2048) (offset / 8 % 256) = none →
    exec (.dictWrite who offset 8 v) s = .next (s.refuse who .noEntry (offset / 2048) (offset / 8 % 256))) ∧
  (∀ (s : State) (who : Requester) (offset : Nat) (v : Word) (l : EntLoc), offset < 2 ^ 27 → s.requesterOk who = true →
    areaOf who < 64 → offset % 8 = 0 → s.gateWrite who (offset / 2048) (offset / 8 % 256) v = .ok l → ownEntry l.row.ent = false →
    configEntry l.row.ent = false →
    ∃ t, exec (.dictWrite who offset 8 v) s = .next t ∧
      (l.row.acc ≠ .w1c → t.reg (offset / 8) = v) ∧
      (l.row.acc = .w1c → ∀ i, i < 64 →
        t.bit (offset / 8) i = (s.bit (offset / 8) i && !bitOf v.toNat i)) ∧
      slotsKept s t [offset / 8] ∧ memoryKept s t ∧ workKept s t ∧
      t.area who 0x45 = wd (((s.area who 0x45).toNat + 1) % 2 ^ 32)) ∧
  (∀ (s : State) (who : Requester) (offset : Nat) (v : Word) (l : EntLoc) (r : Reason), offset < 2 ^ 27 →
    s.requesterOk who = true → areaOf who < 64 → offset % 8 = 0 → findEntry (offset / 2048) (offset / 8 % 256) = some l →
    s.gateWrite who (offset / 2048) (offset / 8 % 256) v = .error r → ownEntry l.row.ent = false →
    exec (.dictWrite who offset 8 v) s = .next (s.refuse who r (offset / 2048) (offset / 8 % 256))) ∧
  (∀ (s : State) (node offset bytes : Nat) (v : Word) (l : EntLoc), offset < 2 ^ 27 → s.stringsUp = true →
    findEntry (offset / 2048) (offset / 8 % 256) = some l → bytes ≠ l.row.ty.bytes →
    exec (.dictWrite (.strings node) offset bytes v) s =
      .next (s.refuse (.strings node) .size (offset / 2048) (offset / 8 % 256))) ∧
  (∀ (s : State) (who : Requester) (offset bytes : Nat) (v : Word), (2 ^ 27 ≤ offset ∨ s.requesterOk who = false) →
    exec (.dictWrite who offset bytes v) s = .next s) ∧
  (∀ (s : State) (offset bytes : Nat) (v : Word), offset < 2 ^ 27 → s.requesterOk .marionette = true → 0xF000 ≤ offset / 2048 →
    exec (.dictWrite .marionette offset bytes v) s = .refused .reservedDiagnostics)

/-- A VF reaches no entry of another partition's range, of a class that is not its own, or of PART_CTRL CREATE and DESTROY (R17,
R18, R483): such a write changes nothing but the VF's own area. -/
def Obligations.VfPrivileges : Prop :=
  (∀ (s : State) (p idx sub : Nat) (v : Word) (l : EntLoc), findEntry idx sub = some l → l.row.partRange = true → l.inst ≠ p →
    (∀ l', s.gateWrite (.vf p) idx sub v ≠ .ok l') ∧ (∀ l', s.gateRead (.vf p) idx sub ≠ .ok l')) ∧
  (∀ (s : State) (p idx sub : Nat) (v : Word) (l : EntLoc), findEntry idx sub = some l →
    (l.row.wr = .n ∨ l.row.wr = .p ∨ l.row.wr = .pm ∨ l.row.wr = .ps ∨ l.row.wr = .sm ∨ l.row.wr = .none) →
    ¬ ((l.row.ent = .fenceHandle ∨ l.row.ent = .fenceLink) ∧ s.fenceLife l.elem = 0) →
    ∀ l', s.gateWrite (.vf p) idx sub v ≠ .ok l') ∧
  (∀ (s : State) (p q : Nat), p < 64 → q < 64 → s.requesterOk (.vf p) = true → s.ready = true →
    exec (.partCreate (.vf p) q) s = .next (s.refuse (.vf p) .cls (kPartCtrl q / 256) (kPartCtrl q % 256)) ∧
    exec (.partDestroy (.vf p) q) s = .next (s.refuse (.vf p) .cls (kPartCtrl q / 256) (kPartCtrl q % 256)))

/-- BULK_READ, BULK_WRITE, DICT_CLEAR, PERSIST_SAVE, PERSIST_SAVE_DONE and PERSIST_ERASE (R618 to R620, R627, R630 to R632, Table
15.6): what a bulk READ leaves in the buffer, what a bulk WRITE writes and refuses, and that a save samples the whole set at once
and becomes the newer of two copies when it ends.
The model's choices in it are log entries 47 and 50. -/
def Obligations.BulkAndPersistence : Prop :=
  (∀ (s : State) (who : Requester) (idx sub : Nat) (l : EntLoc), s.requesterOk who = true →
    s.gateRead who idx sub = .ok l → l.row.ty.long = true → l.row.ty.bytes ≤ 512 → l.row.ty.bytes % 8 = 0 →
    (s.sampleLong l (slotKey idx sub)).length = l.row.ty.bytes →
    ∃ t, exec (.bulkRead who idx sub) s = .next t ∧ t.area who 0x41 = wd l.row.ty.bytes ∧
      (∀ i, 8 * i < l.row.ty.bytes →
        t.area who i = wd (leNat (((s.sampleLong l (slotKey idx sub)).drop (8 * i)).take 8))) ∧
      (∀ i, i < 64 → l.row.ty.bytes ≤ 8 * i → t.area who i = s.area who i) ∧ slotsKept s t [] ∧ memoryKept s t ∧
      workKept s t) ∧
  (∀ (s : State) (who : Requester) (idx sub : Nat) (r : Reason), s.requesterOk who = true →
    s.gateEntry who idx sub false none = .error r → exec (.bulkRead who idx sub) s = .next (s.refuse who r idx sub)) ∧
  (∀ (s : State) (who : Requester) (idx sub len : Nat) (l : EntLoc), s.requesterOk who = true →
    s.gateEntry who idx sub true none = .ok l → (l.row.ty.long = false ∨ len ≠ l.row.ty.bytes) →
    exec (.bulkWrite who idx sub len) s = .next (s.refuse who .bulk 0x1001 0x40)) ∧
  (∀ (s : State) (who : Requester) (q : Nat), q < 256 → s.qpIdle q = true →
    acceptsLong s who (kRemoteGid q / 256) (kRemoteGid q % 256) (s.bulkBytes who 16) →
    ∃ t, exec (.bulkWrite who (kRemoteGid q / 256) (kRemoteGid q % 256) 16) s = .next t ∧
      (∀ i, i < 16 → t.oct (kRemoteGid q) i = ((s.bulkBytes who 16).getD i 0).toNat) ∧ slotsKept s t [] ∧ workKept s t ∧
      t.area who 0x45 = wd (((s.area who 0x45).toNat + 1) % 2 ^ 32)) ∧
  (∀ (s : State) (who : Requester) (v : Word), accepts s who .dictClear kDictClear v →
    ∃ t, exec (.dictClear who v) s = .next t ∧
      t.area who 0x42 = (if v = 1 then putFld (s.area who 0x42) 31 0 0 else s.area who 0x42) ∧ slotsKept s t [] ∧
      memoryKept s t ∧ workKept s t) ∧
  (∀ (s : State) (who : Requester), accepts s who .persistCtrl kPersistCtrl 1 → s.nat kPersistState ≠ 1 →
    ∃ t, exec (.persistSave who) s = .next t ∧ t.saving = some s.sampleSet ∧ t.nat kPersistState = 1 ∧
      t.persist = s.persist ∧ slotsKept s t [kPersistState] ∧ memoryKept s t ∧ workKept s t) ∧
  (∀ (s : State) (who : Requester), s.nat kPersistState = 1 →
    (accepts s who .persistCtrl kPersistCtrl 1 → exec (.persistSave who) s =
      .next (s.refuse who .busy (kPersistCtrl / 256) (kPersistCtrl % 256))) ∧
    (accepts s who .persistCtrl kPersistCtrl 2 → exec (.persistErase who) s =
      .next (s.refuse who .busy (kPersistCtrl / 256) (kPersistCtrl % 256)))) ∧
  (∀ (s : State) (who : Requester), accepts s who .persistCtrl kPersistCtrl 2 → s.nat kPersistState ≠ 1 →
    exec (.persistErase who) s = .next ({ s with persist := [] }.applied who)) ∧
  (∀ (s : State) (c : PersistCopy), s.saving = some c →
    ∃ t, exec (.persistSaveDone true) s = .next t ∧ t.persist = c :: s.persist.take 1 ∧ t.saving = none ∧
      t.nat kPersistState = 0 ∧ t.nat kPersistSaves = satAdd 32 (s.nat kPersistSaves) 1 ∧
      slotsKept s t [kPersistState, kPersistSaves] ∧ memoryKept s t ∧ workKept s t) ∧
  (∀ (s : State) (c : PersistCopy), s.saving = some c →
    ∃ t, exec (.persistSaveDone false) s = .next t ∧ t.persist = s.persist ∧ t.saving = none ∧ t.nat kPersistState = 2) ∧
  (∀ (s : State) (k : Nat), persistSlot k = true → Tbl.get (regDefault k) s.sampleSet.regs k = s.reg k)

/-- DAP_READ and DAP_WRITE (R610, R654 to R656, Tables 16.8 to 16.10): the one RESPONSE each is answered with, and what is written.
The model's choice in it is log entry 48. -/
def Obligations.DapAccesses : Prop :=
  ∀ (s : State) (node txn idx sub : Nat), heardFrom s node →
    (∀ l, segRequired idx sub = false → s.gateRead (.strings node) idx sub = .ok l →
      ∃ t, exec (.dapRead node txn idx sub) s = .next t ∧
        t.out = s.out ++ [.strings (s.canId 3) (response node 1 txn 0 idx sub (s.sample (.strings node) l (slotKey idx sub)))] ∧
        slotsKept s t [kStringsLine, kAckErrors] ∧ areasKept s t ∧ memoryKept s t ∧ workKept s t) ∧
    (∀ r, segRequired idx sub = false → s.gateRead (.strings node) idx sub = .error r →
      ∃ t, exec (.dapRead node txn idx sub) s = .next t ∧
        t.out = s.out ++ [.strings (s.canId 3) (response node 1 txn r.code idx sub [])] ∧
        t.area (.strings node) 0x42 = wd (r.code + idx * 2 ^ 8 + sub * 2 ^ 24) ∧
        slotsKept s t [kStringsLine, kAckErrors] ∧ memoryKept s t ∧ workKept s t) ∧
    (segRequired idx sub = true →
      ∃ t, exec (.dapRead node txn idx sub) s = .next t ∧
        t.out = s.out ++ [.strings (s.canId 3) (response node 1 txn 0x21 idx sub [])] ∧ areasKept s t ∧
        slotsKept s t [kStringsLine, kAckErrors]) ∧
    (∀ l data, findEntry idx sub = some l → l.row.ty.long = false → data.length = l.row.ty.bytes →
      ∃ t, t = s.writeSlot (.strings node) idx sub (stringsValue l.row.ty (wd (leNat data))) ∧
        exec (.dapWrite node txn idx sub data) s =
          .next (t.respond s (response node 2 txn (writeStatus (.strings node) s t) idx sub []))) ∧
    (∀ l data, findEntry idx sub = some l → l.row.ty.bytes ≤ 56 → data.length ≠ l.row.ty.bytes →
      ∃ t, exec (.dapWrite node txn idx sub data) s = .next t ∧
        t.out = s.out ++ [.strings (s.canId 3) (response node 2 txn 8 idx sub [])] ∧
        t.area (.strings node) 0x42 = wd (8 + idx * 2 ^ 8 + sub * 2 ^ 24) ∧ slotsKept s t [kStringsLine, kAckErrors] ∧
        memoryKept s t ∧ workKept s t)

/-- SEG_READ_INIT, SEG_READ_NEXT, SEG_WRITE_INIT, SEG_WRITE_DATA, SEG_ABORT and SEG_TRANSFER_TIMEOUT (R657, Table 16.10): the
transfer each opens, carries on or ends; the expected segment is served once, and the write is applied when TOTAL bytes have
arrived.
The model's choice in it is log entry 49. -/
def Obligations.SegmentedTransfers : Prop :=
  (∀ (s : State) (node txn idx sub : Nat), heardFrom s node →
    (∀ l, s.segFits node = true → s.gateRead (.strings node) idx sub = .ok l →
      ∃ t b, exec (.segReadInit node txn idx sub) s = .next t ∧ b = s.sample (.strings node) l (slotKey idx sub) ∧
        t.seg? node = some { node := node, tid := txn, idx := idx, sub := sub, writes := false, total := b.length, bytes := b } ∧
        (∀ m, m ≠ node → t.seg? m = s.seg? m) ∧
        t.out = s.out ++ [.strings (s.canId 3) (response node 3 txn 0 idx sub (leBytes 2 b.length))] ∧
        slotsKept s t [kStringsLine, kAckErrors] ∧ areasKept s t ∧ memoryKept s t ∧ workKept s t) ∧
    (∀ total, s.segFits node = true → total < 65536 →
      ∃ t, exec (.segWriteInit node txn idx sub total) s = .next t ∧
        t.seg? node = some { node := node, tid := txn, idx := idx, sub := sub, writes := true, total := total } ∧
        (∀ m, m ≠ node → t.seg? m = s.seg? m) ∧
        t.out = s.out ++ [.strings (s.canId 3) (response node 5 txn 0 idx sub [])] ∧
        slotsKept s t [kStringsLine, kAckErrors] ∧ areasKept s t ∧ memoryKept s t ∧ workKept s t) ∧
    (∀ total, s.segFits node = false →
      ∃ t, exec (.segWriteInit node txn idx sub total) s = .next t ∧ t.mario = s.mario ∧
        t.out = s.out ++ [.strings (s.canId 3) (response node 5 txn 0x24 idx sub [])]) ∧
    (∀ x, s.seg? node = some x → x.tid = txn →
      ∃ t, exec (.segAbort node txn idx sub) s = .next t ∧ t.seg? node = none ∧ (∀ m, m ≠ node → t.seg? m = s.seg? m) ∧
        t.out = s.out ++ [.strings (s.canId 3) (response node 7 txn 0 idx sub [])]) ∧
    (s.seg? node = none →
      ∃ t, exec (.segAbort node txn idx sub) s = .next t ∧ t.mario = s.mario ∧
        t.out = s.out ++ [.strings (s.canId 3) (response node 7 txn 0x22 idx sub [])])) ∧
  (∀ (s : State) (node : Nat), ∃ t, exec (.segTransferTimeout node) s = .next t ∧ t.seg? node = none ∧
    (∀ m, m ≠ node → t.seg? m = s.seg? m) ∧ slotsKept s t [] ∧ areasKept s t ∧ memoryKept s t ∧ workKept s t) ∧
  (∀ (s : State) (node txn idx sub k : Nat) (x : SegSt), heardFrom s node → s.seg? node = some x → x.tid = txn →
     (x.writes = false → x.next = k → 56 * k < x.bytes.length →
       ∃ t b, exec (.segReadNext node txn idx sub k) s = .next t ∧
         b = response node 4 txn 0 idx sub ((x.bytes.drop (56 * k)).take 56) ∧
         t.seg? node = some { x with next := k + 1, last := b } ∧ t.out = s.out ++ [.strings (s.canId 3) b] ∧
         slotsKept s t [kStringsLine, kAckErrors] ∧ areasKept s t ∧ memoryKept s t ∧ workKept s t) ∧
     (x.writes = false → x.next ≠ k → x.next ≠ k + 1 →
       ∃ t, exec (.segReadNext node txn idx sub k) s = .next t ∧ t.mario = s.mario ∧
         t.out = s.out ++ [.strings (s.canId 3) (response node 4 txn 0x23 idx sub [])]) ∧
     (∀ data, x.writes = true → x.next = k → data.length ≤ 56 → x.bytes.length + data.length < x.total →
       ∃ t b, exec (.segWriteData node txn idx sub k data) s = .next t ∧ b = response node 6 txn 0 idx sub [] ∧
         t.seg? node = some { x with bytes := x.bytes ++ data, next := k + 1, last := b } ∧
         t.out = s.out ++ [.strings (s.canId 3) b] ∧ slotsKept s t [kStringsLine, kAckErrors] ∧ areasKept s t ∧
         memoryKept s t ∧ workKept s t) ∧
     (∀ data, x.writes = true → x.next = k → data.length ≤ 56 → x.bytes.length + data.length = x.total → data ≠ [] →
       ∃ t b, t = s.stringsWrite (.strings node) x.idx x.sub (x.bytes ++ data) ∧
         b = response node 6 txn (writeStatus (.strings node) s t) idx sub [] ∧
         exec (.segWriteData node txn idx sub k data) s =
           .next ((t.putSeg { x with bytes := x.bytes ++ data, next := k + 1, last := b }).respond s b)))

/-- SENSOR_SAMPLE (R637, R639, R640, R642 to R644, R646, Tables 16.2 and 16.3): how a channel's LEVEL follows its samples, what a
sample writes, what a fault and an entry into CRIT do, and when the power cap's state changes.
The model's choice in it is log entry 84. -/
def Obligations.Sensors : Prop :=
  (∀ (x : SensorSt) (bw bc iw ic : Bool),
     (x.beyondCrit = 2 → (x.next bw true iw ic).level = 2) ∧
     (x.level = 0 → x.beyondWarn = 2 → (x.next true false iw ic).level = 1) ∧
     (x.level = 0 → x.beyondWarn < 2 → (x.next bw false iw ic).level = 0) ∧
     (x.level = 1 → x.insideWarn = 9 → (x.next bw false true ic).level = 0) ∧
     (x.level = 1 → x.insideWarn < 9 → (x.next bw false iw ic).level = 1) ∧
     (x.level = 2 → x.insideCrit = 9 → (x.next bw false false true).level = 1) ∧
     (x.level = 2 → x.insideCrit < 9 → (x.next bw bc iw ic).level = 2) ∧
     (x.level ≤ 2 → (x.next bw bc iw ic).level ≤ 2)) ∧
  (∀ (s : State) (ch : Nat) (value : Int) (y : SensorSt), 1 ≤ ch → ch ≤ 0x28 → ch ≠ 0x18 → s.mario.inputOn = true →
    s.mario.restarting = false → (dieChannel ch = false ∨ s.nat kPowerState = 2) →
    bitOf (s.nat (kSensor (ch - 1))) 49 = false → s.sensorNext ch value = y →
    y.level = fld (s.reg (kSensor (ch - 1))) 51 50 →
    ∃ t, exec (.sensorSample ch value false) s = .next t ∧ t.reg (kSensor (ch - 1)) = sensorWord value false y.level ∧
      Tbl.get {} t.mario.sensors ch = y ∧ slotsKept s t [kSensor (ch - 1)] ∧ memoryKept s t ∧ workKept s t ∧ areasKept s t) ∧
  (∀ (s : State) (ch : Nat) (value : Int) (y : SensorSt), 1 ≤ ch → ch ≤ 0x28 → ch ≠ 0x15 → ch ≠ 0x16 → ch ≠ 0x18 →
    s.mario.inputOn = true → s.mario.restarting = false → (dieChannel ch = false ∨ s.nat kPowerState = 2) →
    s.nat kPowerState ≠ 3 → s.nat kPowerState ≠ 4 →
    bitOf (s.nat (kSensor (ch - 1))) 49 = false → s.sensorNext ch value = y → y.level = 2 →
    fld (s.reg (kSensor (ch - 1))) 51 50 ≠ 2 →
    ∃ t, exec (.sensorSample ch value false) s = .next t ∧ t.nat kPowerState = 3 ∧ t.bit kAlertStatus 1 = true ∧
      t.bit kAlertStatus 4 = true ∧ t.hbm = [] ∧ t.inflight = [] ∧ t.boot.inReset = true) ∧
  (∀ (s : State) (ch : Nat) (value : Int), 1 ≤ ch → ch ≤ 0x28 → s.mario.inputOn = true → s.mario.restarting = false →
    (dieChannel ch = false ∨ s.nat kPowerState = 2) → bitOf (s.nat (kSensor (ch - 1))) 49 = false →
    ∃ t, exec (.sensorSample ch value true) s = .next t ∧
      t.reg (kSensor (ch - 1)) = sensorWord (sext 32 (s.nat (kSensor (ch - 1)))) true 1 ∧ t.bit kAlertStatus 2 = true ∧
      memoryKept s t ∧ workKept s t) ∧
  (∀ (s : State) (ch : Nat) (value : Int) (faulty : Bool), (s.mario.inputOn = false ∨ s.mario.restarting = true) →
    exec (.sensorSample ch value faulty) s = .next s) ∧
  (∀ s : State, 0 < s.nat kCapWindowMs → s.nat kCapWindowMs ≤ s.mario.watts.length →
    (s.nat kCapState = 0 → s.nat kPowerCapW * 1000 * s.nat kCapWindowMs < sumOf (s.mario.watts.take (s.nat kCapWindowMs)) →
      s.capCheck.nat kCapState = 1 ∧ s.capCheck.bit kAlertStatus 3 = true) ∧
    (s.nat kCapState = 1 →
      sumOf (s.mario.watts.take (s.nat kCapWindowMs)) * 100 < 97 * (s.nat kPowerCapW * 1000 * s.nat kCapWindowMs) →
      s.capCheck = s.setNat kCapState 0) ∧
    (s.nat kCapState = 0 → sumOf (s.mario.watts.take (s.nat kCapWindowMs)) ≤ s.nat kPowerCapW * 1000 * s.nat kCapWindowMs →
      s.capCheck = s))

/-- POWER_ON, POWER_OFF, CHIP_RESET, POWER_CYCLE and PCIE_RESET (R644, R645, R675, R677, R700 to R702, R704, Table 17.3): the state
each leaves the rails, HBM and the ports in, and the states it is refused in.
The model's choices in it are log entries 16 and 83. -/
def Obligations.PowerCommands : Prop :=
  (∀ (s : State) (who : Requester), accepts s who .powerCtrl kPowerCtrl 1 →
    ((s.nat kPowerState = 0 ∨ (s.nat kPowerState = 3 ∧ s.anyCrit = false)) →
      ∃ t, exec (.powerOn who) s = .next t ∧ t.nat kPowerState = 1 ∧ (s.nat kThermTripState ≤ 1 → t.nat kThermTripState = 0) ∧ coldDie t ∧
        t.mario.flash = s.mario.flash ∧ t.persist = s.persist) ∧
    ((s.nat kPowerState = 1 ∨ s.nat kPowerState = 2 ∨ s.nat kPowerState = 4 ∨ (s.nat kPowerState = 3 ∧ s.anyCrit = true)) →
      exec (.powerOn who) s = .next (s.refuse who .state (kPowerCtrl / 256) (kPowerCtrl % 256)))) ∧
  (∀ (s : State) (who : Requester), accepts s who .powerCtrl kPowerCtrl 2 →
    ((s.nat kPowerState = 1 ∨ s.nat kPowerState = 2) →
      ∃ t, exec (.powerOff who) s = .next t ∧ t.nat kPowerState = 0 ∧ coldDie t ∧ t.mario.flash = s.mario.flash ∧
        t.persist = s.persist) ∧
    (s.nat kPowerState ≠ 1 → s.nat kPowerState ≠ 2 →
      exec (.powerOff who) s = .next (s.refuse who .state (kPowerCtrl / 256) (kPowerCtrl % 256)))) ∧
  (∀ (s : State) (who : Requester), accepts s who .powerCtrl kPowerCtrl 3 →
    (s.nat kPowerState = 2 → Memory.wf s = true → ∃ t, exec (.chipReset who) s = .next t ∧ warmDie s t 1) ∧
    (s.nat kPowerState ≠ 2 →
      exec (.chipReset who) s = .next (s.refuse who .state (kPowerCtrl / 256) (kPowerCtrl % 256)))) ∧
  (∀ (s : State) (who : Requester), accepts s who .powerCtrl kPowerCtrl 4 →
    ((s.nat kPowerState = 2 ∨ (s.nat kPowerState = 3 ∧ s.anyCrit = false)) →
      ∃ t, exec (.powerCycle who) s = .next t ∧ t.nat kPowerState = 1 ∧ (s.nat kThermTripState ≤ 1 → t.nat kThermTripState = 0) ∧ coldDie t) ∧
    ((s.nat kPowerState = 0 ∨ s.nat kPowerState = 1 ∨ s.nat kPowerState = 4 ∨ (s.nat kPowerState = 3 ∧ s.anyCrit = true)) →
      exec (.powerCycle who) s = .next (s.refuse who .state (kPowerCtrl / 256) (kPowerCtrl % 256)))) ∧
  (∀ s : State, s.nat kPowerState = 2 → Memory.wf s = true → ∃ t, exec .pcieReset s = .next t ∧ warmDie s t 2 ∧ areasKept s t) ∧
  (∀ s : State, s.nat kPowerState ≠ 2 → exec .pcieReset s = .next s)

/-- CHIP_RESET_RELEASE, THERM_TRIP and the input stage's commands (R69, R670, R678, R789, R791, R794 to R796, Tables 17.7 and
20.9).
The model's choices in it are log entries 16 and 87. -/
def Obligations.ResetReleaseAndTrips : Prop :=
  (∀ s : State, s.boot.inReset = true → (s.nat kPowerState = 1 ∨ s.nat kPowerState = 2) → s.boot.cause < 4 →
    ∃ t, exec .chipResetRelease s = .next t ∧ t.nat kPowerState = 2 ∧ t.boot = { s.boot with inReset := false } ∧
      t.nat kTimebaseEpoch = (s.nat kTimebaseEpoch + 1) % 2 ^ 16 ∧ t.nat kBootCause = s.boot.cause ∧ t.areas = [] ∧
      memoryKept s t ∧ workKept s t) ∧
  (∀ (s : State) (ch : Nat) (value : Int), (s.nat kPowerState = 1 ∨ s.nat kPowerState = 2) → s.mario.restarting = false →
    ∃ t, exec (.thermTrip ch value) s = .next t ∧ t.nat kPowerState = 3 ∧ t.nat kThermTripState = 1 ∧
      t.bit kAlertStatus 4 = true ∧ t.bit kInputFaults 3 = true ∧ coldDie t ∧ t.mario.trip = none) ∧
  (∀ (s : State) (ch : Nat) (value : Int), (s.nat kPowerState = 1 ∨ s.nat kPowerState = 2) → s.mario.restarting = true →
    ∃ t, exec (.thermTrip ch value) s = .next t ∧ t.nat kThermTripState = 1 ∧ coldDie t ∧
      t.mario.trip = some (ch, value)) ∧
  (∀ s : State, s.mario.inputOn = true →
    ∃ t, exec .inputUndervoltage s = .next t ∧ t.mario.inputOn = false ∧ t.mario.inputCause = 4 ∧ t.nat kPowerState = 0 ∧
      coldDie t ∧ t.mario.flash = s.mario.flash ∧ t.log = s.log ∧ (s.saving = none → t.persist = s.persist) ∧
      (s.saving ≠ none → t.persist = s.persist.take 1)) ∧
  (∀ (s : State) (voltage : Bool), s.mario.inputOn = true →
    ∃ t, exec (.inputFault voltage) s = .next t ∧ t.mario.inputOn = false ∧
      t.mario.inputCause = (if voltage then 1 else 2) ∧ t.nat kPowerState = 0 ∧ coldDie t ∧ t.mario.flash = s.mario.flash ∧
      t.log = s.log) ∧
  (∀ s : State, s.mario.inputOn = false → s.mario.inputCause < 16 →
    (s.mario.inputCause % 4 = 0 → ∃ t, exec .inputEnable s = .next t ∧ inputBack s t) ∧
    (s.mario.inputCause % 4 ≠ 0 → exec .inputEnable s = .next s ∧ ∃ t, exec .inputReenable s = .next t ∧ inputBack s t))

/-- MARIONETTE_RESTART and MARIONETTE_BOOT (R635, R638, R665, R667, R676): a restart leaves the die, its memory and its work as they
are; a boot samples the straps, runs a bootable slot, and turns the rails on where input power came.
The model's choices in it are log entries 10 and 86. -/
def Obligations.MarionetteBoots : Prop :=
  (∀ s : State, s.mario.inputOn = true → s.mario.restarting = false →
    ∃ t, exec .marionetteRestart s = .next t ∧ t.mario.restarting = true ∧ t.alertLevel = s.alertLevel ∧ slotsKept s t [] ∧
      memoryKept s t ∧ workKept s t ∧ areasKept s t ∧ t.tb = s.tb ∧ t.boot = s.boot ∧ t.out = s.out) ∧
  (∀ (s : State) (straps : Nat), s.mario.restarting = true → s.mario.inputOn = true → s.mario.cause ≠ 0 →
    s.mario.trial = false → s.mario.trip = none → s.mario.active < 2 → s.bootable s.mario.active = true →
    ∃ t, exec (.marionetteBoot straps) s = .next t ∧ t.mario.restarting = false ∧ t.mario.joined = false ∧
      t.mario.segs = [] ∧ t.nat kNodeId = straps % 128 ∧ t.nat kModuleId = straps % 128 ∧
      t.nat kMfwSlot = s.mario.active ∧ t.nat kMfwVersion = s.image s.mario.active 8 4 ∧
      t.nat kPowerState = s.nat kPowerState ∧ t.boot = s.boot ∧ memoryKept s t ∧ workKept s t) ∧
  (∀ (s : State) (straps : Nat), s.mario.restarting = true → s.mario.inputOn = true → s.mario.cause ≠ 0 →
    s.mario.trial = false → s.mario.trip = none → s.mario.active < 2 → s.bootable s.mario.active = false →
    (s.bootable (1 - s.mario.active) = true →
      ∃ t, exec (.marionetteBoot straps) s = .next t ∧ t.nat kMfwSlot = 1 - s.mario.active ∧
        t.nat kPowerState = s.nat kPowerState) ∧
    (s.bootable (1 - s.mario.active) = false →
      ∃ t, exec (.marionetteBoot straps) s = .next t ∧ t.nat kPowerState = 4)) ∧
  (∀ (s : State) (straps : Nat), s.mario.restarting = true → s.mario.inputOn = true → s.mario.trial = true →
    1 ≤ s.mario.trialBoots → s.mario.trip = none → s.mario.cause ≠ 0 → s.mario.active < 2 →
    s.bootable (1 - s.mario.active) = true →
    ∃ t, exec (.marionetteBoot straps) s = .next t ∧ t.mario.active = 1 - s.mario.active ∧ t.mario.trial = false ∧
      t.nat kMfwSlot = 1 - s.mario.active ∧ t.nat kUpdateState = 0) ∧
  (∀ (s : State) (straps : Nat), s.mario.restarting = true → s.mario.inputOn = true → s.mario.cause = 0 →
    s.mario.trial = false → s.mario.trip = none → s.nat kInputFaults % 4 = 0 → s.anyCrit = false → s.mario.active < 2 →
    s.bootable s.mario.active = true →
    ∃ t, exec (.marionetteBoot straps) s = .next t ∧ t.nat kPowerState = 1 ∧ t.boot.inReset = true)

/-- SEARCH, SEARCH_REPLY, LATE_SEARCH_ANNOUNCE, ANNOUNCE, HEARTBEAT, NODE_PRESENT and NODE_ABSENT (R659 to R663, Table 16.7): what
each leaves of the node's search and presence, and the frame it sends.  The slot i of a reply is a free value in the range of R659.
The model's choices in it are log entries 28 and 85. -/
def Obligations.StringsPresence : Prop :=
  (∀ (s : State) (node epoch window : Nat), heardFrom s node → s.mario.joined = true → epoch < 65536 →
    20 ≤ window → window < 65536 →
    (s.nat kLastEpoch ≠ epoch →
      ∃ t i, exec (.search node epoch window) s = .next t ∧ t.nat kLastEpoch = epoch ∧ t.mario.reply = some (2 * i, window) ∧
        i ≤ (window - 20) / 2 ∧ slotsKept s t [kLastEpoch] ∧ memoryKept s t ∧ workKept s t ∧ areasKept s t) ∧
    (s.nat kLastEpoch = epoch → exec (.search node epoch window) s = .next s)) ∧
  (∀ (s : State) (node epoch window : Nat), heardFrom s node → s.mario.joined = false → epoch < 65536 →
    exec (.search node epoch window) s = .next { s with mario := { s.mario with heardEpoch := some epoch } }) ∧
  (∀ (s : State) (waited w due : Nat), s.mario.reply = some (due, w) → s.stringsUp = true → due ≤ waited → waited + 10 ≤ w →
    ∃ t b, exec (.searchReply waited) s = .next t ∧ t.mario.reply = none ∧
      t.out = s.out ++ [.strings (s.canId 4) (b ++ leBytes 2 (s.nat kLastEpoch) ++ leBytes 2 (w - waited))] ∧
      b.length = 16 ∧ slotsKept s t [kStringsLine, kAckErrors]) ∧
  (∀ (s : State) (waited w due : Nat), s.mario.reply = some (due, w) → (waited < due ∨ w < waited + 10) →
    exec (.searchReply waited) s = .next s) ∧
  (∀ (s : State) (w due : Nat), s.mario.reply = some (due, w) → s.stringsUp = true →
    ∃ t, exec .lateSearchAnnounce s = .next t ∧ t.mario.reply = none ∧
      t.out = s.out ++ [.strings (s.canId 5) (s.readTag.ident (leBytes 1 2))] ∧ slotsKept s t [kStringsLine, kAckErrors]) ∧
  (∀ s : State, s.stringsUp = true → s.mario.joined = false → (∀ e, s.mario.heardEpoch = some e → e < 65536) →
    ∃ t, exec .announce s = .next t ∧ t.mario.joined = true ∧ t.mario.heardEpoch = none ∧
      t.nat kLastEpoch = s.mario.heardEpoch.getD (s.nat kLastEpoch) ∧
      t.out = s.out ++ [.strings (s.canId 5) (s.readTag.ident (leBytes 1 (if s.mario.rejoin then 1 else 0)))] ∧
      slotsKept s t [kLastEpoch, kStringsLine, kAckErrors] ∧ memoryKept s t ∧ workKept s t) ∧
  (∀ s : State, s.stringsUp = true → s.mario.joined = true →
    ∃ t b, exec .heartbeat s = .next t ∧ t.out = s.out ++ [.strings (s.canId 0xE) b] ∧ b.length = 8 ∧
      byteField b 0 1 = s.nat kPowerState % 256 ∧ byteField b 2 2 = s.nat kHbPeriodMs % 65536 ∧
      byteField b 4 2 = s.nat kLastEpoch % 65536 ∧ t.mario.hbCount = (s.mario.hbCount + 1) % 65536 ∧
      slotsKept s t [kStringsLine, kAckErrors] ∧ memoryKept s t ∧ workKept s t) ∧
  (∀ (s : State) (node p : Nat), heardFrom s node → p < 65536 →
    ∃ t, exec (.nodePresent node (some p) none) s = .next t ∧ nodeHere t node = true ∧
      (∀ m, m < 128 → m ≠ node → nodeHere t m = nodeHere s m) ∧ Tbl.get 1000 t.mario.periods node = p ∧ slotsKept s t [] ∧
      workKept s t ∧ areasKept s t) ∧
  (∀ (s : State) (node : Nat), s.mario.inputOn = true → s.mario.restarting = false → node < 128 → nodeHere s node = true →
    ∃ t, exec (.nodeAbsent node) s = .next t ∧ nodeHere t node = false ∧
      (∀ m, m < 128 → m ≠ node → nodeHere t m = nodeHere s m) ∧ t.log.length = min (s.log.length + 1) logCapacity ∧
      workKept s t)

/-- DUP_ID, BUS_OFF_RECOVERY and the commands of the Strings line (R650, R652, R661, R820 to R822).
The model's choices in it are log entries 35 and 85. -/
def Obligations.StringsLine : Prop :=
  (∀ s : State, s.hears = true → s.nat kStringsState ≤ 1 →
    ∃ t, exec .dupId s = .next t ∧ t.nat kStringsState = 4 ∧ t.mario.joined = false ∧ t.mario.reply = none ∧ memoryKept s t ∧
      workKept s t) ∧
  (∀ s : State, s.nat kStringsState = 2 → s.mario.connected = true → s.mario.inputOn = true → s.mario.restarting = false →
    ∃ t, exec .busOffRecovery s = .next t ∧ t.nat kStringsState = 0 ∧ t.mario.joined = false ∧ t.mario.rejoin = true ∧
      memoryKept s t ∧ workKept s t) ∧
  (∀ s : State, s.mario.inputOn = true → s.mario.restarting = false →
    ∃ t, exec (.stringsLineShort false) s = .next t ∧ t.nat kStringsLine = 2 ∧ t.mario.connected = false ∧
      (s.nat kStringsLine = 0 → t.bit kAlertStatus 5 = true) ∧ memoryKept s t ∧ workKept s t) ∧
  (∀ s : State, s.mario.inputOn = true → s.mario.restarting = false → s.nat kStringsState ≤ 1 →
    ∃ t, exec (.stringsLineShort true) s = .next t ∧ t.nat kStringsLine = 2 ∧ t.mario.connected = false ∧
      t.nat kStringsState = 2 ∧ t.mario.joined = false) ∧
  (∀ s : State, s.mario.inputOn = true → s.mario.restarting = false → s.nat kStringsLine = 0 →
    ∃ t, exec .stringsLineOpen s = .next t ∧
      ((t.nat kStringsLine = 1 ∧ t.nat kAckErrors =
          satAdd 32 (satAdd 32 (s.nat kAckErrors) 16) (if s.stringsUp then 1 else 0)) ∨
        (s.stringsUp = true ∧ t.nat kStringsLine = 0 ∧ t.nat kAckErrors = satAdd 32 (s.nat kAckErrors) 16)) ∧
      t.bit kAlertStatus 5 = true ∧ memoryKept s t ∧ workKept s t) ∧
  (∀ s : State, s.mario.inputOn = true → s.mario.restarting = false → s.nat kStringsState ≤ 1 →
    ∃ t, exec (.dominantTimeout true) s = .next t ∧ t.nat kStringsState = 2 ∧ t.mario.joined = false) ∧
  (∀ s : State, s.mario.inputOn = true → s.mario.restarting = false →
    ∃ t, exec (.dominantTimeout false) s = .next t ∧ t.mario = s.mario ∧ slotsKept s t [kBusErrors] ∧ memoryKept s t ∧
      workKept s t) ∧
  (∀ s : State, s.mario.connected = false →
    ∃ t, exec .stringsReconnect s = .next t ∧ t.mario.connected = true ∧
      t.nat kStringsLine = (if s.nat kStringsLine = 2 then 0 else s.nat kStringsLine) ∧ slotsKept s t [kStringsLine] ∧
      memoryKept s t ∧ workKept s t)

/-- UPDATE_OPEN, UPDATE_CHUNK, UPDATE_VERIFY, UPDATE_VERIFY_DONE, UPDATE_ACTIVATE, UPDATE_COMMIT, UPDATE_CANCEL, UPDATE_REVERTED and
UPDATE_SESSION_TIMEOUT (R665 to R668, Table 16.12): each moves UPDATE_STATE as the table states, only the slot that does not run is
written, and a command that the state does not list or that is not the owner's is refused.
The model's choice in it is log entry 86. -/
def Obligations.FirmwareUpdate : Prop :=
  (∀ (s : State) (who : Requester), accepts s who .updateCtrl kUpdateCtrl 1 →
    (s.nat kUpdateState = 0 ∨ s.nat kUpdateState = 3) → (s.mario.owner = none ∨ s.mario.owner = some who) → s.nat kMfwSlot < 2 →
    ∃ t, exec (.updateOpen who) s = .next t ∧ t.nat kUpdateState = 1 ∧ t.nat kUpdateOffset = 0 ∧ t.mario.owner = some who ∧
      t.mario.chunks = [] ∧ (∀ a, a / 2 ^ 20 = s.idleSlot → Tbl.get 0 t.mario.flash a = 0) ∧
      (∀ a, a / 2 ^ 20 ≠ s.idleSlot → Tbl.get 0 t.mario.flash a = Tbl.get 0 s.mario.flash a) ∧
      t.mario.sig s.idleSlot = false ∧ t.mario.sig (s.nat kMfwSlot) = s.mario.sig (s.nat kMfwSlot) ∧
      slotsKept s t [kUpdateState, kUpdateOffset] ∧ workKept s t) ∧
  (∀ (s : State) (who : Requester) (bytes : List Byte), acceptsLong s who 0x7040 0x08 bytes → s.nat kUpdateState = 1 →
    (s.mario.owner = none ∨ s.mario.owner = some who) → s.nat kUpdateOffset < 2 ^ 20 → s.nat kUpdateOffset % 512 = 0 →
    bytes.length = 512 →
    ∃ t, exec (.updateChunk who bytes) s = .next t ∧ t.nat kUpdateOffset = s.nat kUpdateOffset + 512 ∧
      (∀ i, i < 512 → Tbl.get 0 t.mario.flash (s.idleSlot * 2 ^ 20 + s.nat kUpdateOffset + i) = bytes.getD i 0) ∧
      (∀ a, (a < s.idleSlot * 2 ^ 20 + s.nat kUpdateOffset ∨ s.idleSlot * 2 ^ 20 + s.nat kUpdateOffset + 512 ≤ a) →
        Tbl.get 0 t.mario.flash a = Tbl.get 0 s.mario.flash a) ∧
      s.nat kUpdateOffset / 512 ∈ t.mario.chunks ∧ slotsKept s t [kUpdateOffset] ∧ workKept s t) ∧
  (∀ (s : State) (who : Requester), accepts s who .updateCtrl kUpdateCtrl 2 → s.nat kUpdateState = 1 →
    (s.mario.owner = none ∨ s.mario.owner = some who) →
    exec (.updateVerify who) s = .next ({ s with mario := { s.mario with verifying := true } }.applied who)) ∧
  (∀ (s : State) (sigOk : Bool), s.mario.verifying = true → s.nat kUpdateState = 1 → s.nat kMfwSlot < 2 →
    (s.updateReason sigOk = 0 →
      ∃ t, exec (.updateVerifyDone sigOk) s = .next t ∧ t.nat kUpdateState = 2 ∧ t.nat kUpdateReason = 0 ∧
        t.mario.sig s.idleSlot = true ∧ slotsKept s t [kUpdateState, kUpdateReason] ∧ memoryKept s t ∧ workKept s t) ∧
    (s.updateReason sigOk ≠ 0 →
      ∃ t, exec (.updateVerifyDone sigOk) s = .next t ∧ t.nat kUpdateState = 3 ∧ t.nat kUpdateReason = s.updateReason sigOk ∧
        t.mario.sig s.idleSlot = s.mario.sig s.idleSlot ∧ memoryKept s t ∧ workKept s t)) ∧
  (∀ (s : State) (who : Requester), accepts s who .updateCtrl kUpdateCtrl 3 → s.nat kUpdateState = 2 →
    (s.mario.owner = none ∨ s.mario.owner = some who) →
    ∃ t, exec (.updateActivate who) s = .next t ∧ t.nat kUpdateState = 4 ∧ t.mario.active = s.idleSlot ∧ t.mario.trial = true ∧
      t.mario.trialBoots = 0 ∧ t.mario.restarting = true ∧ t.mario.flash = s.mario.flash ∧ memoryKept s t ∧ workKept s t) ∧
  (∀ (s : State) (who : Requester), accepts s who .updateCtrl kUpdateCtrl 4 → s.nat kUpdateState = 4 →
    (s.mario.owner = none ∨ s.mario.owner = some who) →
    ∃ t, exec (.updateCommit who) s = .next t ∧ t.nat kUpdateState = 0 ∧ t.mario.trial = false ∧ t.mario.owner = none ∧
      t.nat kRollbackFloor = max (s.nat kRollbackFloor) (s.nat kMfwSvn) ∧ memoryKept s t ∧ workKept s t) ∧
  (∀ (s : State) (who : Requester), accepts s who .updateCtrl kUpdateCtrl 5 →
    (s.nat kUpdateState = 1 ∨ s.nat kUpdateState = 2 ∨ s.nat kUpdateState = 3) →
    (s.mario.owner = none ∨ s.mario.owner = some who) →
    exec (.updateCancel who) s = .next (s.closeUpdate.applied who)) ∧
  (∀ s : State, s.nat kUpdateState = 4 → s.mario.trial = true → s.mario.inputOn = true → s.mario.restarting = false →
    ∃ t, exec .updateReverted s = .next t ∧ t.nat kUpdateState = 0 ∧ t.mario.active = 1 - s.mario.active ∧
      t.mario.trial = false ∧ t.mario.restarting = true ∧ memoryKept s t ∧ workKept s t) ∧
  (∀ s : State, (s.nat kUpdateState = 1 ∨ s.nat kUpdateState = 2 ∨ s.nat kUpdateState = 3) →
    ∃ t, exec .updateSessionTimeout s = .next t ∧ t.nat kUpdateState = 0 ∧ t.mario.owner = none ∧
      slotsKept s t [kUpdateState] ∧ memoryKept s t ∧ workKept s t) ∧
  (∀ (s : State) (who : Requester), accepts s who .updateCtrl kUpdateCtrl 2 →
    (s.nat kUpdateState ≠ 1 → exec (.updateVerify who) s =
      .next (s.refuse who .state (kUpdateCtrl / 256) (kUpdateCtrl % 256))) ∧
    (s.nat kUpdateState = 1 → s.mario.owner ≠ none → s.mario.owner ≠ some who → exec (.updateVerify who) s =
      .next (s.refuse who .busy (kUpdateCtrl / 256) (kUpdateCtrl % 256))))

/-- BOOT_WAIT_ENTERED, VERIFY_DONE, FW_START_DONE, HBM_TRAIN_DONE, LINK_TRAIN_DONE and READY (R22, R628, R671, R674, R683, R686, R695,
R697 to R699, Tables 17.1 and 20.7): the boot state each leaves; at READY the stores are zeroed, the slots get the cores of the first
map where no substitution is recorded, and every port in BOOTLINK enters TRAINING.
The model's choice in it is log entry 88. -/
def Obligations.BootStates : Prop :=
  (∀ s : State, s.dieUp = true → s.bootState = 0 →
    ∃ t, exec .bootWaitEntered s = .next t ∧ t.bootState = 1 ∧ stageEmpty t ∧ t.hbm = s.hbm ∧ workKept s t) ∧
  (∀ (s : State) (sigOk : Bool) (r : Nat), s.bootState = 2 →
    pkgCheck s.stageRead s.chunkLanded (s.nat kStepping) (s.nat kFwSvnFloor) sigOk = r →
    (r = 0 → exec (.verifyDone sigOk) s =
      .next ({ s with boot := { s.boot with forwarding := true } }.setNat kBootState 3)) ∧
    (r ≠ 0 → ∃ t, exec (.verifyDone sigOk) s = .next t ∧ t.bootState = 1 ∧ t.nat kBootReason = r ∧ stageEmpty t ∧
      t.hbm = s.hbm ∧ workKept s t)) ∧
  (∀ s : State, s.bootState = 3 →
    ∃ t, exec (.fwStartDone true) s = .next t ∧ t.bootState = 4 ∧ t.nat kFwVersion = pkgVersion s.stageRead ∧
      t.nat kFwSvn = pkgSvn s.stageRead ∧ slotsKept s t [kBootState, kFwVersion, kFwSvn] ∧ memoryKept s t ∧ workKept s t) ∧
  (∀ s : State, s.bootState = 3 →
    ∃ t, exec (.fwStartDone false) s = .next t ∧ t.bootState = 8 ∧ t.nat kBootReason = 9 ∧ t.boot.forwarding = false ∧
      memoryKept s t ∧ workKept s t) ∧
  (∀ s : State, s.bootState = 4 → s.persist = [] → exec (.hbmTrainDone true) s = .next (s.setNat kBootState 5)) ∧
  (∀ (s : State) (c : PersistCopy) (rest : List PersistCopy) (k : Nat) (v : Word), s.bootState = 4 → s.persist = c :: rest →
    c.regs = [(k, v)] → c.octs = [] → persistSlot k = true →
    ∃ t, exec (.hbmTrainDone true) s = .next t ∧ t.bootState = 5 ∧
      t.reg k = (if c.accepts k v.toNat then v else s.reg k) ∧
      t.nat kPersistRejects = (if c.accepts k v.toNat then s.nat kPersistRejects else satAdd 16 (s.nat kPersistRejects) 1)) ∧
  (∀ s : State, s.bootState = 4 →
    ∃ t, exec (.hbmTrainDone false) s = .next t ∧ t.bootState = 8 ∧ t.nat kBootReason = 8 ∧ memoryKept s t ∧ workKept s t) ∧
  (∀ s : State, s.bootState = 5 → exec .linkTrainDone s = .next (s.setNat kBootState 6)) ∧
  (∀ (s : State) (bootMs : Nat), s.bootState = 6 → s.stop.asserted = false → (∀ f, f ∈ s.boot.cmuFailed → f < 16) →
     ∃ t, exec (.ready bootMs) s = .next t ∧ t.bootState = 7 ∧ t.nat kBootTimeMs = bootMs % 2 ^ 32 ∧ t.ls = [] ∧ t.fs = [] ∧
       t.acc = [] ∧ t.hbm = s.hbm ∧ t.nat kStageSource = 0xFE ∧ t.nat kStageBytes = 0 ∧ t.nat kStopState = 0 ∧
       (∀ n, n < 16 → t.nat (kPortState n) = (if s.nat (kPortState n) = 5 then 1 else s.nat (kPortState n))) ∧
       (s.boot.savedMap = none → ∀ f sl, f < 16 → sl < 8 → t.coreAt f sl = some (9 * f + sl)) ∧
       (s.boot.savedMap = none → s.boot.fencedCores = [] →
         (∀ f sl, f < 16 → sl < 8 → t.nat (kCoreState (9 * f + sl)) = 1) ∧ (∀ f, f < 16 → t.nat (kSparesLeft f) = 1) ∧
         t.nat kCoresActive = 128 ∧ t.nat kSpareCores = 16) ∧
       workKept s t)

/-- FW_VERIFY, FW_CLEAR, FW_FLOOR_RAISE, STAGING_WRITE and PROXY_BIND_TIMEOUT (R684 to R687, R690): how the staging area is bound,
filled, verified and released.
The model's choices in it are log entries 88 and 89. -/
def Obligations.StagingArea : Prop :=
  (∀ (s : State) (who : Requester), accepts s who .fwCtrl kFwCtrl 1 →
    (s.bootState = 1 → s.nat kStageSource = 0xFF → exec (.fwVerify who) s = .next ((s.setNat kBootState 2).applied who)) ∧
    ((s.bootState ≠ 1 ∨ s.nat kStageSource ≠ 0xFF) → exec (.fwVerify who) s =
      .next (s.refuse who .state (kFwCtrl / 256) (kFwCtrl % 256)))) ∧
  (∀ (s : State) (who : Requester), accepts s who .fwCtrl kFwCtrl 2 →
    (s.bootState = 1 → ∃ t, exec (.fwClear who) s = .next t ∧ stageEmpty t ∧ t.bootState = 1 ∧
      slotsKept s t [kStageSource, kStageBytes] ∧ workKept s t) ∧
    (s.bootState ≠ 1 → exec (.fwClear who) s = .next (s.refuse who .state (kFwCtrl / 256) (kFwCtrl % 256)))) ∧
  (∀ (s : State) (who : Requester) (v : Word), accepts s who .fwFloorRaise kFwFloorRaise v →
    (s.nat kFwSvnFloor < v.toNat → v.toNat ≤ s.nat kFwSvn →
      ∃ t, exec (.fwFloorRaise who v) s = .next t ∧ t.reg kFwSvnFloor = v ∧ slotsKept s t [kFwSvnFloor] ∧ memoryKept s t ∧
        workKept s t) ∧
    ((v.toNat ≤ s.nat kFwSvnFloor ∨ s.nat kFwSvn < v.toNat) → exec (.fwFloorRaise who v) s =
      .next (s.refuse who .range (kFwFloorRaise / 256) (kFwFloorRaise % 256)))) ∧
  (∀ (s : State) (off : Nat) (bytes : List Byte), s.linkDown = false → s.stageOpen = true → bytes ≠ [] →
    off + bytes.length ≤ stagingBytes →
    (16 ≤ s.nat kStageSource →
      ∃ t, exec (.stagingWrite 0 off bytes) s = .next t ∧ t.nat kStageSource = 0xFF ∧
        (∀ i, i < bytes.length → Tbl.get 0 t.fs (off + i) = bytes.getD i 0) ∧
        (∀ a, (a < off ∨ off + bytes.length ≤ a) → Tbl.get 0 t.fs a = Tbl.get 0 s.fs a) ∧ t.hbm = s.hbm ∧
        slotsKept s t [kStageSource, kStageBytes] ∧ workKept s t) ∧
    (s.nat kStageSource < 16 → exec (.stagingWrite 0 off bytes) s = .next (s.bump kStageDiscards))) ∧
  (∀ (s : State) (fn off : Nat) (bytes : List Byte), fn ≠ 0 → exec (.stagingWrite fn off bytes) s = .next s) ∧
  (∀ s : State, s.bootState = 1 → s.nat kStageSource < 16 →
    ∃ t, exec .proxyBindTimeout s = .next t ∧ stageEmpty t ∧ t.bootState = 1 ∧ slotsKept s t [kStageSource, kStageBytes] ∧
      workKept s t)

/-- PROXY_CELL_RECEIVED, PROXY_FORWARD, PROXY_SEND and PROXY_SEND_DONE (R687 to R689, R691, R692): where a PROXY cell lands, and how
many cells a pass sends.
The model's choice in it is log entry 89. -/
def Obligations.ProxyDownload : Prop :=
  (∀ (s : State) (port : Nat) (bytes : List Byte), s.dieUp = true → port < 16 → s.nat (kPortState port) = 5 →
    cellOk bytes = true → byteField bytes 0 1 % 16 = 6 → byteField bytes 9 1 = 255 →
    256 * byteField bytes 10 4 < stagingBytes → s.bootState = 1 →
    ((s.nat kStageSource = 0xFE ∨ s.nat kStageSource = port) →
      ∃ t, exec (.proxyCellReceived port bytes) s = .next t ∧ t.nat kStageSource = port ∧
        (∀ i, i < 256 → Tbl.get 0 t.fs (256 * byteField bytes 10 4 + i) = bytes.getD (16 + i) 0) ∧
        (∀ a, a / 256 ≠ byteField bytes 10 4 → Tbl.get 0 t.fs a = Tbl.get 0 s.fs a) ∧
        (∀ j, j < 256 → bitOf (Tbl.get 0 t.boot.staged (byteField bytes 10 4)) j = true) ∧ t.bootState = (if t.packageWhole then 2 else 1) ∧
        slotsKept s t [kStageSource, kStageBytes, kBootState, kCellsRx port] ∧ t.hbm = s.hbm ∧ workKept s t) ∧
    (s.nat kStageSource ≠ 0xFE → s.nat kStageSource ≠ port →
      ∃ t, exec (.proxyCellReceived port bytes) s = .next t ∧ slotsKept s t [kStageDiscards, kCellsRx port] ∧
        t.nat kStageDiscards = satAdd 32 (s.nat kStageDiscards) 1 ∧ memoryKept s t ∧ workKept s t)) ∧
  (∀ (s : State) (port : Nat) (bytes : List Byte), s.dieUp = true → port < 16 → s.nat (kPortState port) = 5 →
    cellOk bytes = false → exec (.proxyCellReceived port bytes) s = .next (s.bump (kCellErrors port))) ∧
  (∀ s : State, s.boot.forwarding = true → s.nat kProxyMode = 1 → 3 ≤ s.bootState → s.bootState ≤ 6 →
    ∃ t, exec .proxyForward s = .next t ∧
      (∀ n, n < 16 → s.nat (kPortState n) = 5 → (s.port n).peerReady = false → (s.port n).passes < s.nat kProxyPasses →
        (t.port n).passes = (s.port n).passes + 1 ∧
        t.nat (kCellsTx n) = (s.nat (kCellsTx n) + (pkgNat s.stageRead 12 4 + 255) / 256) % 2 ^ 64) ∧
      (∀ n, n < 16 → (s.nat (kPortState n) ≠ 5 ∨ (s.port n).peerReady = true ∨ s.nat kProxyPasses ≤ (s.port n).passes) →
        t.port n = s.port n ∧ t.nat (kCellsTx n) = s.nat (kCellsTx n)) ∧
      memoryKept s t ∧ workKept s t) ∧
  (∀ (s : State) (who : Requester) (v : Word), accepts s who .proxySend kProxySend v →
    (s.boot.proxySending = true → exec (.proxySend who v) s =
      .next (s.refuse who .state (kProxySend / 256) (kProxySend % 256))) ∧
    (s.boot.proxySending = false → s.nat (kPortState 3) = 5 → v = 8 →
      ∃ t, exec (.proxySend who v) s = .next t ∧ t.boot.proxySending = true ∧ slotsKept s t [kCellsTx 3] ∧
        t.nat (kCellsTx 3) = (s.nat (kCellsTx 3) +
          s.nat kProxyPasses * ((min (pkgNat s.proxyRead 12 4) 25165824 + 255) / 256)) % 2 ^ 64 ∧
        memoryKept s t ∧ workKept s t)) ∧
  (∀ s : State, exec .proxySendDone s = .next { s with boot := { s.boot with proxySending := false } })

/-- WATCHDOG_EXPIRY and CORE_FENCE (R708, R710, R711, R730, Table 18.1): a fault stops the slot and holds its partition, a failed
CMU ends its committed descriptors, and an unused spare is FENCED at once.
The model's choice in it is log entry 80. -/
def Obligations.FaultDetection : Prop :=
  (∀ (s : State) (c f sl : Nat), s.coreSlot c = some (f, sl) → s.coreBusy f sl = true → s.slotStopped f sl = false →
    s.slotOwner f sl < 64 → s.runahead = [] →
    ∃ t r, exec (.watchdogExpiry false c) s = .next t ∧ t.recov = s.recov ++ [r] ∧ r.frond = f ∧ r.slot = sl ∧ r.core = c ∧
      r.part = s.slotOwner f sl ∧ r.cause = 3 ∧ r.frame = s.tb.ticks ∧ r.done = false ∧ t.slotStopped f sl = true ∧
      t.nat (kRecoveryState (s.slotOwner f sl)) = 1 ∧ slotsKept s t [kRecoveryState (s.slotOwner f sl)] ∧ memoryKept s t ∧
      areasKept s t) ∧
  (∀ (s : State) (c f sl : Nat), s.coreSlot c = some (f, sl) → (s.coreBusy f sl = false ∨ s.slotStopped f sl = true) →
    exec (.watchdogExpiry false c) s = .next s) ∧
  (∀ (s : State) (f : Nat) (d : Desc), f < 16 → s.nat (kCmuState f) = 0 → d ∈ s.inflight → productOp d.opcode = true →
    d.arith = 3 → d.core.1 = f → d.ended = false →
    ∃ t, exec (.watchdogExpiry true f) s = .next t ∧ t.nat (kCmuState f) = 1 ∧ f ∈ t.boot.cmuFailed ∧
      (∃ e, e ∈ t.inflight ∧ e.id = d.id ∧ e.ended = true ∧ e.status = stCapacityReduced) ∧
      (∀ e, e ∈ s.inflight → (e.core.1 ≠ f ∨ e.arith ≠ 3 ∨ e.ended = true) → e ∈ t.inflight) ∧ memoryKept s t) ∧
  (∀ (s : State) (who : Requester) (c : Nat) (v : Word), c < 144 → v ≠ 0 → accepts s who .coreFence (kCoreFence c) v →
    (s.nat (kCoreState c) = 0 →
      ∃ t, exec (.coreFence who c v) s = .next t ∧ t.nat (kCoreState c) = 2 ∧ t.nat (kFenceCause c) = 4 ∧
        (c, 4) ∈ t.boot.fencedCores ∧ t.nat (kSparesLeft (c / 9)) = 0 ∧ t.nat kSpareCores = s.nat kSpareCores - 1 ∧
        t.coreMap = s.coreMap ∧ memoryKept s t ∧ workKept s t) ∧
    (s.nat (kCoreState c) ≠ 0 → exec (.coreFence who c v) s = .next ((s.coreFault c 4).applied who)))

/-- SPARE_MAPPED, SPARE_SELFTEST_DONE, RELOAD_START and RELOAD_LANDED (R713, R714, R716, R725): the faulty core is FENCED and the slot
gets its frond's spare with the faulty core's maps, or becomes unmapped and its partition halts; a spare that passes is zeroed, one
that fails is FENCED; and a range whose source is unmapped is loaded as zeros and counted.
The model's choices in it are log entries 80 and 81. -/
def Obligations.SparingAndReload : Prop :=
  (∀ (s : State) (f sl c : Nat) (r : Recovery), recovering s f sl r → r.phase = 0 → r.mark < s.tb.ticks → r.core < 144 →
    r.cause < 16 → s.nat (kCoreState r.core) = 1 → s.spareOf f = some c →
    ∃ t, exec (.spareMapped f sl) s = .next t ∧ t.coreAt f sl = some c ∧ t.nat (kCoreState r.core) = 2 ∧
      t.nat (kFenceCause r.core) = r.cause ∧ t.nat (kCoreState c) = 3 ∧ t.nat (kSparesLeft f) = 0 ∧
      t.reg (kLsWeightMap c) = s.reg (kLsWeightMap r.core) ∧ t.reg (kLsSpecMap c) = s.reg (kLsSpecMap r.core) ∧
      t.boot.savedMap = some t.coreMap ∧ (∀ g i, g < 16 → i < 8 → (g, i) ≠ (f, sl) → t.coreAt g i = s.coreAt g i) ∧
      t.recoveryOf f sl = some { r with phase := 1, mark := s.tb.ticks } ∧ memoryKept s t ∧ workKept s t) ∧
  (∀ (s : State) (f sl : Nat) (r : Recovery), recovering s f sl r → r.phase = 0 → r.mark < s.tb.ticks → r.core < 144 →
    s.nat (kCoreState r.core) = 1 → s.spareOf f = none → s.nat (kSpareBorrow r.part) ≠ 1 → s.slotOwner f sl < 64 →
    s.partState (s.slotOwner f sl) = 1 → s.partRun (s.slotOwner f sl) = 1 → s.runahead = [] →
    ∃ t, exec (.spareMapped f sl) s = .next t ∧ t.coreAt f sl = none ∧ t.nat (kCoreState r.core) = 2 ∧
      t.partRun (s.slotOwner f sl) = 2 ∧ t.nat (kHaltCause (s.slotOwner f sl)) = 3 ∧
      t.nat kCoresActive = s.nat kCoresActive - 1 ∧ t.recoveryOf f sl = none ∧ memoryKept s t) ∧
  (∀ (s : State) (f sl c : Nat) (r : Recovery), recovering s f sl r → s.coreAt f sl = some c → c < 144 → r.phase = 1 →
    (∃ t, exec (.spareSelftestDone f sl true) s = .next t ∧ t.nat (kCoreState c) = 1 ∧
      (∀ o, o < 2 ^ 20 → Tbl.get 0 t.ls (c * 2 ^ 20 + o) = 0) ∧ (∀ e, e < 32768 → Tbl.get 0 t.acc (c * 32768 + e) = 0) ∧
      (∀ a, a / 2 ^ 20 ≠ c → Tbl.get 0 t.ls a = Tbl.get 0 s.ls a) ∧
      t.recoveryOf f sl = some { r with phase := 2 } ∧ slotsKept s t [kCoreState c] ∧ t.hbm = s.hbm ∧ t.fs = s.fs ∧
      workKept s t) ∧
    (∃ t, exec (.spareSelftestDone f sl false) s = .next t ∧ t.nat (kCoreState c) = 2 ∧ t.nat (kFenceCause c) = 5 ∧
      (c, 5) ∈ t.boot.fencedCores ∧ t.recoveryOf f sl = some { r with phase := 0, mark := s.tb.ticks } ∧ memoryKept s t ∧
      workKept s t)) ∧
  (∀ (s : State) (f sl bad : Nat) (r : Recovery) (l : List (Nat × Nat × Nat)), recovering s f sl r → r.phase = 2 →
    r.mark < s.tb.ticks → r.part < 64 → s.reloadTable r.part (s.nat (kReloadPtr f sl)) = some (l, bad) →
    ∃ t, exec (.reloadStart f sl) s = .next t ∧
      t.recoveryOf f sl = some { r with phase := 3, mark := s.tb.ticks, ranges := l } ∧
      t.nat (kReloadErrors r.part) =
        (if bad = 0 then s.nat (kReloadErrors r.part) else satAdd 32 (s.nat (kReloadErrors r.part)) bad) ∧
      slotsKept s t [kReloadErrors r.part] ∧ memoryKept s t ∧ workKept s t) ∧
  (∀ (s : State) (p : Nat), s.reloadTable p 0 = some ([], 0)) ∧
  (∀ (s : State) (f sl c : Nat) (r : Recovery), recovering s f sl r → s.coreAt f sl = some c → r.phase = 3 → r.ranges = [] →
    r.runs ≠ [] →
    ∃ t, exec (.reloadLanded f sl) s = .next t ∧ t.recoveryOf f sl = some { r with phase := 4 } ∧ slotsKept s t [] ∧
      memoryKept s t ∧ workKept s t) ∧
  (∀ (s : State) (f sl c off src : Nat) (r : Recovery) (l : List Byte), recovering s f sl r → s.coreAt f sl = some c →
    r.phase = 3 → r.ranges = [(off, 256, src)] → src % 256 = 0 → r.part < 64 → l.length = 256 →
    (s.vaRead r.part src 256 = some l →
      ∃ t, exec (.reloadLanded f sl) s = .next t ∧
        (∀ i, i < 256 → Tbl.get 0 t.ls (c * 2 ^ 20 + off + i) = l.getD i 0) ∧
        (∀ a, (a < c * 2 ^ 20 + off ∨ c * 2 ^ 20 + off + 256 ≤ a) → Tbl.get 0 t.ls a = Tbl.get 0 s.ls a) ∧
        slotsKept s t [] ∧ t.hbm = s.hbm ∧ t.fs = s.fs ∧ workKept s t) ∧
    (s.vaRead r.part src 256 = none →
      ∃ t, exec (.reloadLanded f sl) s = .next t ∧ (∀ i, i < 256 → Tbl.get 0 t.ls (c * 2 ^ 20 + off + i) = 0) ∧
        t.nat (kMapFaults r.part) = satAdd 32 (s.nat (kMapFaults r.part)) 1 ∧ slotsKept s t [kMapFaults r.part]))

/-- RECOVERY_RUN_DONE, RECOVERY_DONE, FC_RESTART and FC_RESTART_DONE (R718, R719, R721, R728, R729): a rebuild run writes nothing
but the spare's own LS and AS; the end of a recovery ends the hold and adds its H frames; a restart of a Frond Controller holds every
partition of the frond, and one that does not come back unmaps every slot of it.
The model's choice in it is log entry 81. -/
def Obligations.RecoveriesAndRestarts : Prop :=
  (∀ (s : State) (f sl c : Nat) (r : Recovery) (x : RecRun) (rest : List RecRun) (o : RunObs), recovering s f sl r →
    s.coreAt f sl = some c → r.phase = 4 → r.mark < s.tb.ticks → r.runs = x :: rest → x.reissue = false → s.runahead = [] →
    ∃ t, exec (.recoveryRunDone f sl o) s = .next t ∧
      (∀ a, a / 2 ^ 20 ≠ c → Tbl.get 0 t.ls a = Tbl.get 0 s.ls a) ∧
      (∀ e, e / 32768 ≠ c → Tbl.get 0 t.acc e = Tbl.get 0 s.acc e) ∧ t.fs = s.fs ∧ t.hbm = s.hbm ∧
      (∀ k i, t.oct k i = s.oct k i) ∧ areasKept s t ∧ t.jobs = s.jobs) ∧
  (∀ (s : State) (f sl c : Nat) (r : Recovery) (x : RecRun) (rest : List RecRun) (o : RunObs), recovering s f sl r →
    s.coreAt f sl = some c → r.phase = 4 → r.mark < s.tb.ticks → r.runs = x :: rest → x.reissue = false →
    s.tb.window = .compute → s.runLeft r x = true → x.desc.opcode = 1 → x.desc.prog.genStart = [] → o = {} →
    (∀ w, w ∈ s.posted → w.desc ≠ s.nextId) →
    ∃ t, exec (.recoveryRunDone f sl o) s = .next t ∧
      t.recov = (s.modRecovery f sl fun r => { r with runs := rest, done := rest == [] }).recov ∧ t.inflight = s.inflight ∧
      t.rings = s.rings ∧ memoryKept s t ∧ slotsKept s t [kOrdersRun c] ∧
      t.nat (kOrdersRun c) = satAdd 32 (s.nat (kOrdersRun c)) 1) ∧
  (∀ (s : State) (f sl c : Nat) (r : Recovery) (x : RecRun) (rest : List RecRun) (o : RunObs), recovering s f sl r →
    s.coreAt f sl = some c → r.phase = 4 → r.mark < s.tb.ticks → r.runs = x :: rest → s.tb.window = .compute →
    s.runLeft r x = false →
    exec (.recoveryRunDone f sl o) s =
      .next (s.modRecovery f sl fun r => { r with runs := rest, done := rest == [] })) ∧
  (∀ (s : State) (p : Nat) (r : Recovery), p < 64 → s.recov = [r] → r.part = p → r.done = true → s.holds = [] →
    s.partState p ≠ 0 →
    ∃ t, exec (.recoveryDone p) s = .next t ∧ t.recov = [] ∧ t.nat (kRecoveryState p) = 0 ∧
      t.nat (kSlipFr p) = satAdd 32 (s.nat (kSlipFr p)) (s.tb.ticks - r.frame) ∧
      t.nat (kLastRecoveryFr p) = min (s.tb.ticks - r.frame) 65535 ∧
      t.nat (kRecoveries p) = satAdd 32 (s.nat (kRecoveries p)) 1 ∧
      Tbl.get 0 t.slips p = Tbl.get 0 s.slips p + (s.tb.ticks - r.frame) ∧ memoryKept s t ∧ workKept s t) ∧
  (∀ (s : State) (p : Nat) (r : Recovery), s.recov = [r] → r.part = p → r.done = false → s.holds = [] →
    exec (.recoveryDone p) s = .next s) ∧
  (∀ (s : State) (f : Nat), f < 16 → f ∉ s.fcFailed → (∀ h, h ∈ s.holds → h.frond ≠ some f) → s.runahead = [] →
    ∃ t, exec (.fcRestart f) s = .next t ∧ t.nat (kFcRestarts f) = satAdd 32 (s.nat (kFcRestarts f)) 1 ∧
      t.holds = s.holds ++ [⟨some f, s.frondParts f, s.tb.ticks⟩] ∧
      (∀ p, p ∈ s.frondParts f → t.nat (kRecoveryState p) = 1) ∧ memoryKept s t ∧ workKept s t) ∧
  (∀ (s : State) (f p start : Nat), p < 64 → s.holds = [⟨some f, [p], start⟩] → s.recov = [] → s.partState p ≠ 0 →
    (s.recent 1000000000 (Tbl.get [] s.fcRestarts f)).length < 3 →
    ∃ t, exec (.fcRestartDone f true) s = .next t ∧ t.holds = [] ∧ t.nat (kRecoveryState p) = 0 ∧
      t.nat (kLastRecoveryFr p) = min (s.tb.ticks - start) 65535 ∧
      t.nat (kSlipFr p) = satAdd 32 (s.nat (kSlipFr p)) (s.tb.ticks - start) ∧ t.coreMap = s.coreMap ∧ memoryKept s t ∧
      workKept s t) ∧
  (∀ (s : State) (f : Nat) (h : Hold), f < 16 → s.holds = [h] → h.frond = some f → s.runahead = [] →
    ∃ t, exec (.fcRestartDone f false) s = .next t ∧ f ∈ t.fcFailed ∧ t.holds = [] ∧ (∀ sl, sl < 8 → t.coreAt f sl = none) ∧
      t.spareOf f = none ∧ (∀ g i, g < 16 → g ≠ f → i < 8 → t.coreAt g i = s.coreAt g i) ∧ memoryKept s t)

/-- FW_SWAP_VERIFY, FW_SWAP_STAGED, FW_SWAP_SWAP, FW_SWAP_REVERT, FW_SWAP_CANCEL and FW_SWAP_APPLY (R740 to R743): the swap state
each leaves, the writes that are refused, and that the swap itself changes nothing but the versions.
The model's choice in it is log entry 82. -/
def Obligations.FirmwareSwap : Prop :=
  (∀ (s : State) (who : Requester) (sigOk : Bool) (r : Nat), accepts s who .fwSwapCtrl kFwSwapCtrl 1 →
    pkgCheck s.swapRead s.swapChunk (s.nat kStepping) (s.nat kFwSvnFloor) sigOk = r →
    (s.nat kFwSwapState ≠ 1 → s.nat kFwSwapState ≠ 3 → r = 0 →
      ∃ t, exec (.fwSwapVerify who sigOk) s = .next t ∧ t.nat kFwSwapState = 1 ∧ t.nat kFwSwapReason = 0 ∧
        t.boot.bankNew = some (pkgVersion s.swapRead, pkgSvn s.swapRead) ∧ t.boot.revertOk = false ∧
        slotsKept s t [kFwSwapState, kFwSwapReason] ∧ memoryKept s t ∧ workKept s t) ∧
    (s.nat kFwSwapState ≠ 1 → s.nat kFwSwapState ≠ 3 → r ≠ 0 →
      ∃ t, exec (.fwSwapVerify who sigOk) s = .next t ∧ t.nat kFwSwapState = 4 ∧ t.nat kFwSwapReason = r ∧
        t.boot.bankNew = none ∧ slotsKept s t [kFwSwapState, kFwSwapReason] ∧ memoryKept s t ∧ workKept s t)) ∧
  (∀ s : State, s.nat kFwSwapState = 1 → exec .fwSwapStaged s = .next (s.setNat kFwSwapState 2)) ∧
  (∀ (s : State) (who : Requester), accepts s who .fwSwapCtrl kFwSwapCtrl 2 →
    (s.nat kFwSwapState = 2 → s.frameNo + 2 ≤ s.nat kFwSwapFrame →
      exec (.fwSwapSwap who) s = .next ((s.setNat kFwSwapState 3).applied who)) ∧
    ((s.nat kFwSwapState ≠ 2 ∨ s.nat kFwSwapFrame < s.frameNo + 2) → exec (.fwSwapSwap who) s =
      .next (s.refuse who .state (kFwSwapCtrl / 256) (kFwSwapCtrl % 256)))) ∧
  (∀ (s : State) (who : Requester), accepts s who .fwSwapCtrl kFwSwapCtrl 3 →
    (s.boot.revertOk = true → s.nat kFwSwapState ≠ 3 → s.frameNo + 2 ≤ s.nat kFwSwapFrame →
      exec (.fwSwapRevert who) s = .next ((s.setNat kFwSwapState 3).applied who)) ∧
    ((s.boot.revertOk = false ∨ s.nat kFwSwapFrame < s.frameNo + 2) → exec (.fwSwapRevert who) s =
      .next (s.refuse who .state (kFwSwapCtrl / 256) (kFwSwapCtrl % 256)))) ∧
  (∀ (s : State) (who : Requester), accepts s who .fwSwapCtrl kFwSwapCtrl 4 →
    (s.nat kFwSwapState = 1 ∨ s.nat kFwSwapState = 2 ∨ s.nat kFwSwapState = 3) →
    ∃ t, exec (.fwSwapCancel who) s = .next t ∧ t.nat kFwSwapState = 0 ∧ slotsKept s t [kFwSwapState] ∧ memoryKept s t ∧
      workKept s t) ∧
  (∀ (s : State) (v n : Nat), s.boot.bankNew = some (v, n) → v < 2 ^ 32 → n < 2 ^ 16 → s.nat kFwSwapState = 3 →
    (s.nat kFwSwapFrame ≤ s.frameNo → (∀ p, p < 64 → s.nat (kRecoveryState p) ≠ 1) →
      ∃ t, exec .fwSwapApply s = .next t ∧ t.nat kFwVersion = v ∧ t.nat kFwSvn = n ∧ t.nat kFwPrevVersion = s.nat kFwVersion ∧
        t.nat kFwSwapState = 0 ∧ t.boot.revertOk = true ∧
        slotsKept s t [kFwVersion, kFwSvn, kFwPrevVersion, kFwSwapState, kLogNextSeq, kStringsLine, kAckErrors] ∧
        memoryKept s t ∧ workKept s t ∧ areasKept s t) ∧
    ((s.frameNo < s.nat kFwSwapFrame ∨ ∃ p, p < 64 ∧ s.nat (kRecoveryState p) = 1) → exec .fwSwapApply s = .next s))

/-- BAR4_ACCESS (R130, R755, R761 to R763, R769, Table 19.5): an access of one line reaches the line its address translates to,
through the MSC, one at an unmapped address is discarded or reads zeros and is counted, and what is unsupported or poisoned is
signalled.
The model's choice in it is log entry 90. -/
def Obligations.Bar4Aperture : Prop :=
  (∀ (s u : State) (fn off a pa : Nat) (bytes : List Byte), s.fnUp fn = true → s.ready = true →
    a = s.nat (kApertureBase fn) + off → bytes ≠ [] → a % 256 + bytes.length ≤ 256 → s.translate fn a true = (some pa, u) →
    s.cuts = [] → s.jobs = [] →
    ∃ t, exec (.bar4Access fn off (.write bytes false none)) s = .next t ∧
      (∀ i, i < bytes.length → Tbl.get 0 t.hbm (pa + i) = bytes.getD i 0) ∧ t.ls = s.ls ∧ t.fs = s.fs ∧
      t.inflight = s.inflight ∧ t.rings = s.rings) ∧
  (∀ (s u : State) (fn off a pa n : Nat), s.fnUp fn = true → s.ready = true → a = s.nat (kApertureBase fn) + off → 0 < n →
    a % 256 + n ≤ 256 → s.translate fn a false = (some pa, u) →
    exec (.bar4Access fn off (.read n none none)) s = .next ((u.mscTouch pa false).emit (.bar4Read fn (s.hbmRead pa n) false))) ∧
  (∀ (s u : State) (fn off a : Nat) (bytes : List Byte), s.fnUp fn = true → s.ready = true →
    a = s.nat (kApertureBase fn) + off → bytes ≠ [] → a % 256 + bytes.length ≤ 256 → s.translate fn a true = (none, u) →
    s.cuts = [] →
    exec (.bar4Access fn off (.write bytes false none)) s = .next ((u.bump kApertureFaults).bump (kMapFaults fn))) ∧
  (∀ (s u : State) (fn off a n : Nat), s.fnUp fn = true → s.ready = true → a = s.nat (kApertureBase fn) + off → 0 < n →
    a % 256 + n ≤ 256 → s.translate fn a false = (none, u) →
    exec (.bar4Access fn off (.read n none none)) s =
      .next (((u.emit (.bar4Read fn (List.replicate n 0) false)).bump kApertureFaults).bump (kMapFaults fn))) ∧
  (∀ (s : State) (fn a : Nat) (wr : Bool), 2 ^ 48 ≤ a → s.translate fn a wr = (none, s)) ∧
  (∀ (s : State) (fn off n : Nat), s.fnUp fn = true → s.ready = false → fn ≠ 0 →
    exec (.bar4Access fn off (.read n none none)) s = .next (s.emit (.bar4Read fn (List.replicate n 0) false)) ∧
    ∀ bytes, exec (.bar4Access fn off (.write bytes false none)) s = .next s) ∧
  (∀ (s : State) (fn off : Nat), s.fnUp fn = true → exec (.bar4Access fn off .unsupported) s = .next (s.emit (.aer fn 1)) ∧
    ∀ bytes tb, exec (.bar4Access fn off (.write bytes true tb)) s = .next ((s.bump kPoisonRx).emit (.aer fn 0)))

/-- MSIX_UNMASK, BUS_MASTER_ENABLE and BUS_MASTER_DISABLE (R773 to R775): a message for a masked vector waits and goes out once when
it is unmasked, and memory writes of a function that may not send are held in order.
The model's choices in it are log entries 15 and 90. -/
def Obligations.BusMastering : Prop :=
  (∀ (s : State) (fn vec : Nat), s.linkDown = false → vec ∉ (s.fn fn).unmasked →
    (s.msix fn vec).out = s.out ∧ vec ∈ ((s.msix fn vec).fn fn).pendingVecs ∧ (s.msix fn vec).regs = s.regs) ∧
  (∀ (s : State) (fn vec : Nat), s.fnUp fn = true → vec < vectorCount fn → (s.fn fn).sends = true → (s.fn fn).fnMask = false →
    vec ∉ (s.fn fn).unmasked → (s.fn fn).pendingVecs = [vec] →
    ∃ t, exec (.msixUnmask fn (some vec)) s = .next t ∧ t.out = s.out ++ [.msix fn vec] ∧ (t.fn fn).pendingVecs = [] ∧
      (t.fn fn).unmasked = (s.fn fn).unmasked ++ [vec] ∧ slotsKept s t [] ∧ memoryKept s t ∧ workKept s t) ∧
  (∀ (s : State) (fn vec : Nat), s.fnUp fn = true → vectorCount fn ≤ vec → exec (.msixUnmask fn (some vec)) s = .next s) ∧
  (∀ (s : State) (fn : Nat), s.fnUp fn = true → (s.fn fn).sends = true →
    ∃ t, exec (.msixUnmask fn none) s = .next t ∧ (t.fn fn).fnMask = false ∧
      t.out = s.out ++ ((s.fn fn).pendingVecs.filter fun v => (s.fn fn).unmasked.contains v).map (.msix fn ·) ∧
      slotsKept s t [] ∧ memoryKept s t ∧ workKept s t) ∧
  (∀ (s : State) (fn : Nat), s.fnUp fn = true → (s.fn fn).d3hot = false → (s.fn fn).fnMask = true →
    ∃ t, exec (.busMasterEnable fn false) s = .next t ∧ (t.fn fn).bme = true ∧ (t.fn fn).held = [] ∧
      t.out = s.out ++ (s.fn fn).held.map (fun x => .hostWrite fn x.1 x.2) ∧ (t.fn fn).pendingVecs = (s.fn fn).pendingVecs ∧
      slotsKept s t [] ∧ memoryKept s t ∧ workKept s t) ∧
  (∀ (s : State) (fn : Nat) (d3 : Bool), s.fnUp fn = true →
    ∃ t, exec (.busMasterDisable fn d3) s = .next t ∧ (t.fn fn).sends = false ∧
      (∀ a b, (t.hostWrite fn a b).out = s.out ∧ ((t.hostWrite fn a b).fn fn).held = (s.fn fn).held ++ [(a, b)]) ∧
      slotsKept s t [] ∧ memoryKept s t ∧ workKept s t)

/-- VF_ENABLE_SET, VF_ENABLE_CLEAR, FLR, DL_DOWN and DL_UP (R767, R768, R781, R782).
The model's choice in it is log entry 90. -/
def Obligations.FunctionsAndLink : Prop :=
  (∀ (s : State) (n : Nat), s.fnUp 0 = true → s.nat kVfsEnabled = 0 → n ≤ 63 →
    ∃ t, exec (.vfEnableSet n) s = .next t ∧ (∀ p, t.hasVf p = (decide (1 ≤ p) && decide (p ≤ n))) ∧
      slotsKept s t [kVfsEnabled] ∧ memoryKept s t ∧ workKept s t ∧ areasKept s t) ∧
  (∀ s : State, s.fnUp 0 = true → s.nat kVfsEnabled ≠ 0 →
    ∃ t, exec .vfEnableClear s = .next t ∧ (∀ p, t.hasVf p = false) ∧
      (∀ p, 1 ≤ p → p < 64 → s.ready = true → s.partState p = 1 → t.partRun p = 3) ∧
      (∀ p, 1 ≤ p → p < 64 → (t.fn p).bme = false ∧ (t.fn p).unmasked = [])) ∧
  (∀ (s : State) (p : Nat), s.fnUp p = true → 1 ≤ p → p < 64 →
    ∃ t, exec (.flr p) s = .next t ∧ (s.ready = true → s.partState p = 1 → t.partRun p = 3) ∧ (t.fn p).bme = false ∧
      (t.fn p).unmasked = [] ∧ (t.fn p).pendingVecs = [] ∧
      (s.ready = false → t = (s.bump kFlrCount).setFn p { held := (s.fn p).held })) ∧
  (∀ s : State, s.fnUp 0 = true → s.bootState = 1 → s.nat kStageSource = 0xFF →
    ∃ t, exec (.flr 0) s = .next t ∧ stageEmpty t ∧ t.nat kVfsEnabled = 0 ∧ t.nat kPtmState = 0) ∧
  (∀ s : State, s.nat kPowerState = 2 → s.nat kLinkdownPolicy = 0 → Memory.wf s = true →
    ∃ t, exec .dlDown s = .next t ∧ warmDie s t 2) ∧
  (∀ s : State, s.nat kPowerState = 2 → s.nat kLinkdownPolicy ≠ 0 →
    ∃ t, exec .dlDown s = .next t ∧ t = { s with linkDown := true } ∧
      (∀ fn a b, t.hostWrite fn a b = t.bump kHostWritesLost) ∧ ∀ fn vec, t.msix fn vec = t) ∧
  (∀ s : State, exec .dlUp s = .next { s with linkDown := false })

/-- STOP_ASSERTED, STOP_CHATTER, CHATTER_END, STOP_RELEASED and STOP_REARM (R811 to R816, Table 20.7): how STOP_STATE moves, and that
entering STOPPED halts every RUNNING partition and nothing else.
The model's choice in it is log entry 91. -/
def Obligations.StopLine : Prop :=
  (∀ s : State, s.stop.asserted = false → s.ready = true → s.runahead = [] →
    ∃ t, exec .stopAsserted s = .next t ∧ t.stop.asserted = true ∧ t.nat kStopState = 1 ∧ t.bit kStopEvents 0 = true ∧
      t.nat kStopCount = satAdd 32 (s.nat kStopCount) 1 ∧
      (∀ p, p < 64 → s.partState p = 1 → s.partRun p = 1 → t.partRun p = 2 ∧ t.nat (kHaltCause p) = 1) ∧
      (∀ p, p < 64 → (s.partState p ≠ 1 ∨ s.partRun p ≠ 1) → t.partRun p = s.partRun p ∧
        t.nat (kHaltCause p) = s.nat (kHaltCause p)) ∧ memoryKept s t ∧ workKept s t) ∧
  (∀ s : State, s.ready = false → exec .stopAsserted s =
    .next { s with stop := { s.stop with asserted := true } }) ∧
  (∀ s : State, s.stop.chatter = false → s.stop.asserted = false → s.ready = true → s.runahead = [] →
    ∃ t, exec .stopChatter s = .next t ∧ t.stop.chatter = true ∧ t.stop.asserted = true ∧ t.nat kStopState = 1 ∧
      (s.dieUp = true → t.bit kStopEvents 2 = true) ∧ memoryKept s t ∧ workKept s t) ∧
  (∀ s : State, s.stop.chatter = true → exec .stopReleased s = .next s) ∧
  (∀ s : State, s.stop.chatter = false → s.stop.asserted = true → s.ready = true → s.nat kStopState = 1 →
    ∃ t, exec .stopReleased s = .next t ∧ t.stop.asserted = false ∧ t.nat kStopState = 2 ∧ t.bit kStopEvents 1 = true ∧
      slotsKept s t [kStopState, kStopEvents] ∧ memoryKept s t ∧ workKept s t) ∧
  (∀ s : State, s.stop.chatter = true → s.stop.asserted = true → s.ready = true → s.nat kStopState = 1 →
    ∃ t, exec (.chatterEnd true) s = .next t ∧ t.stop.chatter = false ∧ t.stop.asserted = false ∧ t.nat kStopState = 2 ∧
      t.bit kStopEvents 1 = true ∧ slotsKept s t [kStopState, kStopEvents] ∧ memoryKept s t ∧ workKept s t) ∧
  (∀ s : State, s.stop.chatter = true →
    exec (.chatterEnd false) s = .next { s with stop := { s.stop with chatter := false } }) ∧
  (∀ (s : State) (who : Requester) (v : Word), accepts s who .stopRearm kStopRearm v →
    (v ≠ 0 → s.nat kStopState = 2 →
      ∃ t, exec (.stopRearm who v) s = .next t ∧ t.nat kStopState = 0 ∧ t.bit kStopEvents 3 = true ∧
        (∀ p, p < 64 → t.partRun p = s.partRun p) ∧ memoryKept s t ∧ workKept s t) ∧
    (v ≠ 0 → s.nat kStopState ≠ 2 → exec (.stopRearm who v) s =
      .next (s.refuse who .state (kStopRearm / 256) (kStopRearm % 256))) ∧
    (v = 0 → exec (.stopRearm who v) s = .next (s.applied who)))

/-- The bit-sliced passes of a TP step add up to the exact dot product where no pass saturates (R163, R164, R175); an accumulator
stays in its range and counts exactly the additions that would leave it; rounding to nearest lies within half a step with ties to
even; stochastic rounding takes one of the two neighbours and keeps an exact value; and the linear form of a log product is the
nearest one (R173, R215, R216).
The model's choice in it is log entry 21. -/
def Obligations.ExactArithmetic : Prop :=
  (∀ (wide : Bool) (w a m : Nat) (acts : List Int) (ws : List (Option Nat)) (acc : Int × Nat), 1 ≤ w → 1 ≤ a →
     (∀ v, v ∈ acts → -(2 ^ (a - 1)) ≤ v ∧ v < 2 ^ (a - 1)) → (∀ c, some c ∈ ws → c < 2 ^ w) →
     (∀ wcode, (a + 3) / 4 * w ≤ m → (tpStep wide wcode w a m acts ws acc).2 = acc.2 →
       (tpStep wide wcode w a m acts ws acc).1 = acc.1 + ((acts.zip ws).map fun x =>
         match x.2 with
         | none => 0
         | some c =>
           x.1 * (if wcode = 0 then sext w c else if wcode = 1 then 2 * (c : Int) - (2 ^ w - 1) else (c : Int))).sum) ∧
     (∀ wcode, acc.2 ≤ (tpStep wide wcode w a m acts ws acc).2)) ∧
  (∀ (acc : Int × Nat) (v : Int), -(2 ^ 31) ≤ (accAdd false acc v).1 ∧ (accAdd false acc v).1 < 2 ^ 31 ∧
    -(2 ^ 47) ≤ (accAdd true acc v).1 ∧ (accAdd true acc v).1 < 2 ^ 47 ∧
    ((accAdd false acc v).2 = acc.2 → (accAdd false acc v).1 = acc.1 + v) ∧
    ((accAdd true acc v).2 = acc.2 → (accAdd true acc v).1 = acc.1 + v)) ∧
  (∀ (m : Int) (k : Nat), 2 * (roundShift .rne m k * 2 ^ k - m).natAbs ≤ 2 ^ k ∧
    (1 ≤ k → 2 * (roundShift .rne m k * 2 ^ k - m).natAbs = 2 ^ k → roundShift .rne m k % 2 = 0)) ∧
  (∀ (m : Int) (k draw : Nat), (roundShift (.sr draw) m k = m / 2 ^ k ∨ roundShift (.sr draw) m k = m / 2 ^ k + 1) ∧
    (m % 2 ^ k = 0 → roundShift (.sr draw) m k = m / 2 ^ k)) ∧
  (∀ (k n : Nat) (p : Int), 1 ≤ k → p < 0 → p + 17 * k = n →
    (2 * linearForm k p + 1) ^ k ≥ 2 ^ n ∧ (1 ≤ linearForm k p → (2 * linearForm k p - 1) ^ k ≤ 2 ^ n))

/-- Packed codes, weight tiles and cells read back as they were formed (R166, R171, R400, R401, Tables 4.4 and 10.2): a cell is
272 bytes long, well formed, and carries its fields and payload.
The model's choice in it is log entry 67. -/
def Obligations.FormatsReadBack : Prop :=
  (∀ (w : Nat) (l : List Nat), 1 ≤ w → (∀ c, c ∈ l → c < 2 ^ w) → unpack w l.length (pack w l) = l) ∧
  (∀ (tn kp planes n : Nat) (codes : Nat → List Nat), tn % 64 = 0 → kp % 256 = 0 → n < tn →
    (∀ m, m < tn → (codes m).length = kp ∧ ∀ c, c ∈ codes m → c < 2 ^ planes) →
    planeCodes kp planes (planeTile tn kp planes codes) n = codes n) ∧
  (∀ (typ slot cell frameLo chan lenM1 offset : Nat) (last : Bool) (payload l : List Byte), 1 ≤ typ → typ ≤ 6 → slot < 1024 →
     cell < 1024 → frameLo < 65536 → chan < 256 → lenM1 < 256 → offset < 2 ^ 32 → payload.length ≤ 256 →
     l = formCell typ slot cell frameLo chan lenM1 offset last payload →
     l.length = 272 ∧ cellOk l = true ∧ byteField l 0 1 % 16 = typ ∧ byteField l 1 1 = b2n last ∧ byteField l 2 2 = slot ∧
       byteField l 4 2 = cell ∧ byteField l 6 2 = frameLo ∧ byteField l 8 1 = chan ∧ byteField l 9 1 = lenM1 ∧
       byteField l 10 4 = offset ∧ (l.drop 16).take payload.length = payload)

/-- FILL and COPY of one row, an uncorrectable store error and one on a translation table (R134 to R136, R142, R145, R836): the bytes
posted, and that a descriptor whose engines meet the error ends with ECC_UNCORRECTED and posts nothing.
The model's choices in it are log entries 59 and 100. -/
def Obligations.FillAndCopy : Prop :=
  (∀ (s : State) (id : Nat) (d : Desc) (c : Nat) (a : SAddr), onCore s id 0x13 d c → d.torn = false →
    decodeSAddr (d.at 16 4) = some a → 0 < d.at 20 4 → a.off % a.row + d.at 20 4 ≤ a.row → s.filterOk d.part a = true →
    ∃ t e, exec (.fill id {}) s = .next t ∧
      t.posted = s.posted ++ [⟨id, d.part, .store a.fs a.frond a.slot a.off,
        (countFrom 0 (d.at 20 4)).map fun i => BitVec.ofNat 8 (d.at 24 4 >>> (8 * (i % 2 ^ d.at 28 1))), s.frameNo⟩] ∧
      t.desc? id = some e ∧ e.ended = true ∧ e.status = stOk ∧ slotsKept s t [] ∧ memoryKept s t ∧ areasKept s t) ∧
  (∀ (s : State) (id : Nat) (d : Desc) (c : Nat) (a b : SAddr), onCore s id 0x14 d c → d.torn = false → s.posted = [] →
    decodeSAddr (d.at 16 4) = some a → decodeSAddr (d.at 20 4) = some b → d.at 24 2 = 1 → a.fs = b.fs → a.off % a.row = 0 →
    b.off % b.row = 0 → s.filterOk d.part a = true → s.filterOk d.part b = true → s.eccRow a a.row = (0, 0) →
    (a.fs = true ∨ s.slotStopped a.frond a.slot = false) →
    ∃ t e, exec (.copy id {}) s = .next t ∧
      t.posted = [⟨id, d.part, .store b.fs b.frond b.slot b.off, s.storeRead a a.row, s.frameNo⟩] ∧ t.desc? id = some e ∧
      e.ended = true ∧ e.status = stOk ∧ slotsKept s t [] ∧ memoryKept s t ∧ areasKept s t) ∧
  (∀ (s : State) (id : Nat) (d : Desc) (c k n : Nat) (a b : SAddr), onCore s id 0x14 d c → d.torn = false → s.posted = [] →
    decodeSAddr (d.at 16 4) = some a → decodeSAddr (d.at 20 4) = some b → d.at 24 2 = 1 → a.fs = true → b.fs = true →
    a.off % a.row = 0 → s.filterOk d.part a = true → s.eccRow a a.row = (k, n) → 0 < n →
    ∃ t e, exec (.copy id {}) s = .next t ∧ t.posted = [] ∧ t.desc? id = some e ∧ e.ended = true ∧ e.status = stEcc ∧
      t.nat (kFsEccUncorrected a.frond) = satAdd 32 (s.nat (kFsEccUncorrected a.frond)) n ∧
      slotsKept s t [kFsEccCorrected a.frond, kFsEccUncorrected a.frond] ∧ memoryKept s t) ∧
  (∀ (s : State) (id op : Nat) (d : Desc) (c : Nat) (i : Instr), onCore s id op d c → d.torn = false → s.cuts = [] →
    (op, i) ∈ [(0x12, Instr.reduce id { tableBad := true }), (0x15, .transfer id { tableBad := true }),
      (0x16, .bucketForm id { tableBad := true })] →
    ∃ t e, exec i s = .next t ∧ t.posted = s.posted ∧ t.desc? id = some e ∧ e.ended = true ∧ e.status = stEcc)

/-- No translation of a partition leads outside the granules it owns, whatever the caches hold, and no BAR4 access of a function
changes a byte of HBM outside them, but for what a cut that ends then leaves in its own partition's granules (R380, R523, R524,
R526, R761).
The model's choice in it is log entry 17. -/
def Obligations.AccessesStayInside : Prop :=
  (∀ (s u : State) (p va pa : Nat) (wr : Bool), s.translate p va wr = (some pa, u) →
     s.ownsPa p pa = true ∧ va < 2 ^ 48 ∧ pa % 65536 = va % 65536 ∧ memoryKept s u ∧ workKept s u ∧ slotsKept s u [kMscHits, kMscMisses]) ∧
  (∀ (s : State) (fn off a : Nat) (req : Bar4Req), s.nat (kShadowBase fn) % 256 = 0 → s.ownsPa fn a = false →
    (∀ x ∈ s.cuts, s.ownsPa x.2.tag.part a = false ∧ s.nat (kShadowBase x.2.tag.part) % 256 = 0) →
     ∃ t, exec (.bar4Access fn off req) s = .next t ∧ Tbl.get 0 t.hbm a = Tbl.get 0 s.hbm a)

/-- R784 of the PCIe chapter: an APERTURE_BASE write of a value that is not a multiple of 64 KiB, or that is 2^48 or more, is refused
with RANGE, whether the PF writes it or the VF of the partition does. -/
def Obligations.ApertureBaseRange : Prop :=
  ∀ (s : State) (who : Requester) (p : Nat) (v : Word), p < 64 → (who = .pf ∨ who = .vf p) → s.requesterOk who = true →
    s.ready = true → (v.toNat % 65536 ≠ 0 ∨ 2 ^ 48 ≤ v.toNat) →
    exec (.dictWrite who (8 * kApertureBase p) 8 v) s =
      .next (s.refuse who .range (kApertureBase p / 256) (kApertureBase p % 256))

/-- R658 of the Marionette chapter: the segment before the expected one is answered with the same RESPONSE again, and nothing is
applied a second time. -/
def Obligations.RepeatedSegments : Prop :=
  ∀ (s : State) (node txn idx sub k : Nat) (x : SegSt), heardFrom s node → s.seg? node = some x → x.tid = txn → x.next = k + 1 →
    (x.writes = false →
      ∃ t, exec (.segReadNext node txn idx sub k) s = .next t ∧ t.out = s.out ++ [.strings (s.canId 3) x.last] ∧
        t.mario = s.mario ∧ slotsKept s t [kStringsLine, kAckErrors] ∧ areasKept s t ∧ memoryKept s t ∧ workKept s t) ∧
    (∀ data, x.writes = true →
      ∃ t, exec (.segWriteData node txn idx sub k data) s = .next t ∧ t.out = s.out ++ [.strings (s.canId 3) x.last] ∧
        t.mario = s.mario ∧ slotsKept s t [kStringsLine, kAckErrors] ∧ areasKept s t ∧ memoryKept s t ∧ workKept s t)
end

