-- ==== Sys2Proof/Laws/Crc.lean ====
section
/-!
SUPPORT. Laws/Crc.lean: a checksum register is a fold over the bytes, and a 16-bit one stays a 16-bit number.
-/
namespace Sys2Proof.Machine

/-- A checksum register run over a string is the fold of its step. -/
theorem crcRun_eq (step : Nat → Byte → Nat) (l : List Byte) (c : Nat) : crcRun step l c = l.foldl step c := by
  induction l generalizing c with
  | nil => rfl
  | cons b l ih =>
    simp only [crcRun, List.foldl_cons]
    split
    next h => rw [h]; exact ih 0
    next n h => rw [h]; exact ih (n + 1)

/-- The shifts of a 16-bit register stay within 16 bits. -/
theorem crcShiftL_lt (n c : Nat) (h : c < 65536) : crcShiftL 0x1021 n c < 65536 := by
  induction n generalizing c with
  | zero => exact h
  | succ n ih =>
    apply ih
    split
    · exact Nat.xor_lt_two_pow (n := 16) (Nat.mod_lt _ (by decide)) (by decide)
    · omega

/-- A cell's checksum is a 16-bit number. -/
theorem crc16_lt (l : List Byte) : crc16 l < 65536 := by
  have key : ∀ (l : List Byte) (c : Nat), c < 65536 →
      l.foldl (fun c b => crcShiftL 0x1021 8 (c ^^^ (b.toNat * 256))) c < 65536 := by
    intro l
    induction l with
    | nil => exact fun c h => h
    | cons b l ih =>
      intro c h
      refine ih _ (crcShiftL_lt 8 _ (Nat.xor_lt_two_pow (n := 16) h ?_))
      have := b.isLt
      omega
  rw [crc16, crcRun_eq]
  exact key l _ (by decide)

end Sys2Proof.Machine
end

