-- ==== Sys2Proof/Laws/State.lean ====
section
/-!
SUPPORT. Laws/State.lean: what each update of the state leaves alone, one lemma for each field.
-/
namespace Sys2Proof.Machine

variable (s : State)

/-! ### setReg -/

@[simp] theorem State.setReg_octs (k : Nat) (w : Word) : (s.setReg k w).octs = s.octs := rfl
@[simp] theorem State.setReg_areas (k : Nat) (w : Word) : (s.setReg k w).areas = s.areas := rfl
@[simp] theorem State.setReg_ls (k : Nat) (w : Word) : (s.setReg k w).ls = s.ls := rfl
@[simp] theorem State.setReg_fs (k : Nat) (w : Word) : (s.setReg k w).fs = s.fs := rfl
@[simp] theorem State.setReg_acc (k : Nat) (w : Word) : (s.setReg k w).acc = s.acc := rfl
@[simp] theorem State.setReg_hbm (k : Nat) (w : Word) : (s.setReg k w).hbm = s.hbm := rfl
@[simp] theorem State.setReg_coreMap (k : Nat) (w : Word) : (s.setReg k w).coreMap = s.coreMap := rfl
@[simp] theorem State.setReg_tlb (k : Nat) (w : Word) : (s.setReg k w).tlb = s.tlb := rfl
@[simp] theorem State.setReg_mapSyncs (k : Nat) (w : Word) : (s.setReg k w).mapSyncs = s.mapSyncs := rfl
@[simp] theorem State.setReg_rings (k : Nat) (w : Word) : (s.setReg k w).rings = s.rings := rfl
@[simp] theorem State.setReg_inflight (k : Nat) (w : Word) : (s.setReg k w).inflight = s.inflight := rfl
@[simp] theorem State.setReg_posted (k : Nat) (w : Word) : (s.setReg k w).posted = s.posted := rfl
@[simp] theorem State.setReg_nextId (k : Nat) (w : Word) : (s.setReg k w).nextId = s.nextId := rfl
@[simp] theorem State.setReg_runahead (k : Nat) (w : Word) : (s.setReg k w).runahead = s.runahead := rfl
@[simp] theorem State.setReg_fenceWr (k : Nat) (w : Word) : (s.setReg k w).fenceWr = s.fenceWr := rfl
@[simp] theorem State.setReg_fenceHandle (k : Nat) (w : Word) : (s.setReg k w).fenceHandle = s.fenceHandle := rfl
@[simp] theorem State.setReg_aborts (k : Nat) (w : Word) : (s.setReg k w).aborts = s.aborts := rfl
@[simp] theorem State.setReg_zeroing (k : Nat) (w : Word) : (s.setReg k w).zeroing = s.zeroing := rfl
@[simp] theorem State.setReg_asTags (k : Nat) (w : Word) : (s.setReg k w).asTags = s.asTags := rfl
@[simp] theorem State.setReg_granuleQueue (k : Nat) (w : Word) : (s.setReg k w).granuleQueue = s.granuleQueue := rfl
@[simp] theorem State.setReg_streams (k : Nat) (w : Word) : (s.setReg k w).streams = s.streams := rfl
@[simp] theorem State.setReg_jobs (k : Nat) (w : Word) : (s.setReg k w).jobs = s.jobs := rfl
@[simp] theorem State.setReg_cuts (k : Nat) (w : Word) : (s.setReg k w).cuts = s.cuts := rfl
@[simp] theorem State.setReg_clean (k : Nat) (w : Word) : (s.setReg k w).clean = s.clean := rfl
@[simp] theorem State.setReg_windows (k : Nat) (w : Word) : (s.setReg k w).windows = s.windows := rfl
@[simp] theorem State.setReg_sporBytes (k : Nat) (w : Word) : (s.setReg k w).sporBytes = s.sporBytes := rfl
@[simp] theorem State.setReg_sporReads (k : Nat) (w : Word) : (s.setReg k w).sporReads = s.sporReads := rfl
@[simp] theorem State.setReg_fns (k : Nat) (w : Word) : (s.setReg k w).fns = s.fns := rfl
@[simp] theorem State.setReg_linkDown (k : Nat) (w : Word) : (s.setReg k w).linkDown = s.linkDown := rfl
@[simp] theorem State.setReg_out (k : Nat) (w : Word) : (s.setReg k w).out = s.out := rfl
@[simp] theorem State.setReg_free (k : Nat) (w : Word) : (s.setReg k w).free = s.free := rfl
@[simp] theorem State.setReg_pending (k : Nat) (w : Word) : (s.setReg k w).pending = s.pending := rfl
@[simp] theorem State.setReg_recov (k : Nat) (w : Word) : (s.setReg k w).recov = s.recov := rfl
@[simp] theorem State.setReg_slotWait (k : Nat) (w : Word) : (s.setReg k w).slotWait = s.slotWait := rfl
@[simp] theorem State.setReg_hbmRows (k : Nat) (w : Word) : (s.setReg k w).hbmRows = s.hbmRows := rfl
@[simp] theorem State.setReg_hbmCe (k : Nat) (w : Word) : (s.setReg k w).hbmCe = s.hbmCe := rfl
@[simp] theorem State.setReg_hbmBad (k : Nat) (w : Word) : (s.setReg k w).hbmBad = s.hbmBad := rfl
@[simp] theorem State.setReg_eccRun (k : Nat) (w : Word) : (s.setReg k w).eccRun = s.eccRun := rfl
@[simp] theorem State.setReg_copies (k : Nat) (w : Word) : (s.setReg k w).copies = s.copies := rfl
@[simp] theorem State.setReg_kv (k : Nat) (w : Word) : (s.setReg k w).kv = s.kv := rfl
@[simp] theorem State.setReg_gens (k : Nat) (w : Word) : (s.setReg k w).gens = s.gens := rfl
@[simp] theorem State.setReg_seeds (k : Nat) (w : Word) : (s.setReg k w).seeds = s.seeds := rfl
@[simp] theorem State.setReg_live (k : Nat) (w : Word) : (s.setReg k w).live = s.live := rfl
@[simp] theorem State.setReg_tb (k : Nat) (w : Word) : (s.setReg k w).tb = s.tb := rfl
@[simp] theorem State.setReg_slips (k : Nat) (w : Word) : (s.setReg k w).slips = s.slips := rfl
@[simp] theorem State.setReg_skips (k : Nat) (w : Word) : (s.setReg k w).skips = s.skips := rfl
@[simp] theorem State.setReg_ports (k : Nat) (w : Word) : (s.setReg k w).ports = s.ports := rfl
@[simp] theorem State.setReg_qps (k : Nat) (w : Word) : (s.setReg k w).qps = s.qps := rfl
@[simp] theorem State.setReg_ackMem (k : Nat) (w : Word) : (s.setReg k w).ackMem = s.ackMem := rfl
@[simp] theorem State.setReg_colls (k : Nat) (w : Word) : (s.setReg k w).colls = s.colls := rfl
@[simp] theorem State.setReg_boot (k : Nat) (w : Word) : (s.setReg k w).boot = s.boot := rfl
@[simp] theorem State.setReg_holds (k : Nat) (w : Word) : (s.setReg k w).holds = s.holds := rfl
@[simp] theorem State.setReg_fcRestarts (k : Nat) (w : Word) : (s.setReg k w).fcRestarts = s.fcRestarts := rfl
@[simp] theorem State.setReg_fcFailed (k : Nat) (w : Word) : (s.setReg k w).fcFailed = s.fcFailed := rfl
@[simp] theorem State.setReg_persist (k : Nat) (w : Word) : (s.setReg k w).persist = s.persist := rfl
@[simp] theorem State.setReg_saving (k : Nat) (w : Word) : (s.setReg k w).saving = s.saving := rfl
@[simp] theorem State.setReg_mario (k : Nat) (w : Word) : (s.setReg k w).mario = s.mario := rfl
@[simp] theorem State.setReg_log (k : Nat) (w : Word) : (s.setReg k w).log = s.log := rfl
@[simp] theorem State.setReg_stop (k : Nat) (w : Word) : (s.setReg k w).stop = s.stop := rfl
@[simp] theorem State.setReg_rkey (k : Nat) (w : Word) : (s.setReg k w).rkey = s.rkey := rfl
@[simp] theorem State.setReg_flips (k : Nat) (w : Word) : (s.setReg k w).flips = s.flips := rfl
@[simp] theorem State.setReg_msc (k : Nat) (w : Word) : (s.setReg k w).msc = s.msc := rfl
@[simp] theorem State.setReg_scrubDebt (k : Nat) (w : Word) : (s.setReg k w).scrubDebt = s.scrubDebt := rfl
@[simp] theorem State.setReg_errs (k : Nat) (w : Word) : (s.setReg k w).errs = s.errs := rfl
@[simp] theorem State.setReg_asSat (k : Nat) (w : Word) : (s.setReg k w).asSat = s.asSat := rfl
@[simp] theorem State.setReg_sporTurn (k : Nat) (w : Word) : (s.setReg k w).sporTurn = s.sporTurn := rfl
@[simp] theorem State.setReg_sporNext (k : Nat) (w : Word) : (s.setReg k w).sporNext = s.sporNext := rfl

/-! ### setNat -/

@[simp] theorem State.setNat_octs (k n : Nat) : (s.setNat k n).octs = s.octs := rfl
@[simp] theorem State.setNat_areas (k n : Nat) : (s.setNat k n).areas = s.areas := rfl
@[simp] theorem State.setNat_ls (k n : Nat) : (s.setNat k n).ls = s.ls := rfl
@[simp] theorem State.setNat_fs (k n : Nat) : (s.setNat k n).fs = s.fs := rfl
@[simp] theorem State.setNat_acc (k n : Nat) : (s.setNat k n).acc = s.acc := rfl
@[simp] theorem State.setNat_hbm (k n : Nat) : (s.setNat k n).hbm = s.hbm := rfl
@[simp] theorem State.setNat_coreMap (k n : Nat) : (s.setNat k n).coreMap = s.coreMap := rfl
@[simp] theorem State.setNat_tlb (k n : Nat) : (s.setNat k n).tlb = s.tlb := rfl
@[simp] theorem State.setNat_mapSyncs (k n : Nat) : (s.setNat k n).mapSyncs = s.mapSyncs := rfl
@[simp] theorem State.setNat_rings (k n : Nat) : (s.setNat k n).rings = s.rings := rfl
@[simp] theorem State.setNat_inflight (k n : Nat) : (s.setNat k n).inflight = s.inflight := rfl
@[simp] theorem State.setNat_posted (k n : Nat) : (s.setNat k n).posted = s.posted := rfl
@[simp] theorem State.setNat_nextId (k n : Nat) : (s.setNat k n).nextId = s.nextId := rfl
@[simp] theorem State.setNat_runahead (k n : Nat) : (s.setNat k n).runahead = s.runahead := rfl
@[simp] theorem State.setNat_fenceWr (k n : Nat) : (s.setNat k n).fenceWr = s.fenceWr := rfl
@[simp] theorem State.setNat_fenceHandle (k n : Nat) : (s.setNat k n).fenceHandle = s.fenceHandle := rfl
@[simp] theorem State.setNat_aborts (k n : Nat) : (s.setNat k n).aborts = s.aborts := rfl
@[simp] theorem State.setNat_zeroing (k n : Nat) : (s.setNat k n).zeroing = s.zeroing := rfl
@[simp] theorem State.setNat_asTags (k n : Nat) : (s.setNat k n).asTags = s.asTags := rfl
@[simp] theorem State.setNat_granuleQueue (k n : Nat) : (s.setNat k n).granuleQueue = s.granuleQueue := rfl
@[simp] theorem State.setNat_streams (k n : Nat) : (s.setNat k n).streams = s.streams := rfl
@[simp] theorem State.setNat_jobs (k n : Nat) : (s.setNat k n).jobs = s.jobs := rfl
@[simp] theorem State.setNat_cuts (k n : Nat) : (s.setNat k n).cuts = s.cuts := rfl
@[simp] theorem State.setNat_clean (k n : Nat) : (s.setNat k n).clean = s.clean := rfl
@[simp] theorem State.setNat_windows (k n : Nat) : (s.setNat k n).windows = s.windows := rfl
@[simp] theorem State.setNat_sporBytes (k n : Nat) : (s.setNat k n).sporBytes = s.sporBytes := rfl
@[simp] theorem State.setNat_sporReads (k n : Nat) : (s.setNat k n).sporReads = s.sporReads := rfl
@[simp] theorem State.setNat_fns (k n : Nat) : (s.setNat k n).fns = s.fns := rfl
@[simp] theorem State.setNat_linkDown (k n : Nat) : (s.setNat k n).linkDown = s.linkDown := rfl
@[simp] theorem State.setNat_out (k n : Nat) : (s.setNat k n).out = s.out := rfl
@[simp] theorem State.setNat_free (k n : Nat) : (s.setNat k n).free = s.free := rfl
@[simp] theorem State.setNat_pending (k n : Nat) : (s.setNat k n).pending = s.pending := rfl
@[simp] theorem State.setNat_recov (k n : Nat) : (s.setNat k n).recov = s.recov := rfl
@[simp] theorem State.setNat_slotWait (k n : Nat) : (s.setNat k n).slotWait = s.slotWait := rfl
@[simp] theorem State.setNat_hbmRows (k n : Nat) : (s.setNat k n).hbmRows = s.hbmRows := rfl
@[simp] theorem State.setNat_hbmCe (k n : Nat) : (s.setNat k n).hbmCe = s.hbmCe := rfl
@[simp] theorem State.setNat_hbmBad (k n : Nat) : (s.setNat k n).hbmBad = s.hbmBad := rfl
@[simp] theorem State.setNat_eccRun (k n : Nat) : (s.setNat k n).eccRun = s.eccRun := rfl
@[simp] theorem State.setNat_copies (k n : Nat) : (s.setNat k n).copies = s.copies := rfl
@[simp] theorem State.setNat_kv (k n : Nat) : (s.setNat k n).kv = s.kv := rfl
@[simp] theorem State.setNat_gens (k n : Nat) : (s.setNat k n).gens = s.gens := rfl
@[simp] theorem State.setNat_seeds (k n : Nat) : (s.setNat k n).seeds = s.seeds := rfl
@[simp] theorem State.setNat_live (k n : Nat) : (s.setNat k n).live = s.live := rfl
@[simp] theorem State.setNat_tb (k n : Nat) : (s.setNat k n).tb = s.tb := rfl
@[simp] theorem State.setNat_slips (k n : Nat) : (s.setNat k n).slips = s.slips := rfl
@[simp] theorem State.setNat_skips (k n : Nat) : (s.setNat k n).skips = s.skips := rfl
@[simp] theorem State.setNat_ports (k n : Nat) : (s.setNat k n).ports = s.ports := rfl
@[simp] theorem State.setNat_qps (k n : Nat) : (s.setNat k n).qps = s.qps := rfl
@[simp] theorem State.setNat_ackMem (k n : Nat) : (s.setNat k n).ackMem = s.ackMem := rfl
@[simp] theorem State.setNat_colls (k n : Nat) : (s.setNat k n).colls = s.colls := rfl
@[simp] theorem State.setNat_boot (k n : Nat) : (s.setNat k n).boot = s.boot := rfl
@[simp] theorem State.setNat_holds (k n : Nat) : (s.setNat k n).holds = s.holds := rfl
@[simp] theorem State.setNat_fcRestarts (k n : Nat) : (s.setNat k n).fcRestarts = s.fcRestarts := rfl
@[simp] theorem State.setNat_fcFailed (k n : Nat) : (s.setNat k n).fcFailed = s.fcFailed := rfl
@[simp] theorem State.setNat_persist (k n : Nat) : (s.setNat k n).persist = s.persist := rfl
@[simp] theorem State.setNat_saving (k n : Nat) : (s.setNat k n).saving = s.saving := rfl
@[simp] theorem State.setNat_mario (k n : Nat) : (s.setNat k n).mario = s.mario := rfl
@[simp] theorem State.setNat_log (k n : Nat) : (s.setNat k n).log = s.log := rfl
@[simp] theorem State.setNat_stop (k n : Nat) : (s.setNat k n).stop = s.stop := rfl
@[simp] theorem State.setNat_rkey (k n : Nat) : (s.setNat k n).rkey = s.rkey := rfl
@[simp] theorem State.setNat_flips (k n : Nat) : (s.setNat k n).flips = s.flips := rfl
@[simp] theorem State.setNat_msc (k n : Nat) : (s.setNat k n).msc = s.msc := rfl
@[simp] theorem State.setNat_scrubDebt (k n : Nat) : (s.setNat k n).scrubDebt = s.scrubDebt := rfl
@[simp] theorem State.setNat_errs (k n : Nat) : (s.setNat k n).errs = s.errs := rfl
@[simp] theorem State.setNat_asSat (k n : Nat) : (s.setNat k n).asSat = s.asSat := rfl
@[simp] theorem State.setNat_sporTurn (k n : Nat) : (s.setNat k n).sporTurn = s.sporTurn := rfl
@[simp] theorem State.setNat_sporNext (k n : Nat) : (s.setNat k n).sporNext = s.sporNext := rfl

/-! ### bump -/

@[simp] theorem State.bump_octs (k n w : Nat) : (s.bump k n w).octs = s.octs := rfl
@[simp] theorem State.bump_areas (k n w : Nat) : (s.bump k n w).areas = s.areas := rfl
@[simp] theorem State.bump_ls (k n w : Nat) : (s.bump k n w).ls = s.ls := rfl
@[simp] theorem State.bump_fs (k n w : Nat) : (s.bump k n w).fs = s.fs := rfl
@[simp] theorem State.bump_acc (k n w : Nat) : (s.bump k n w).acc = s.acc := rfl
@[simp] theorem State.bump_hbm (k n w : Nat) : (s.bump k n w).hbm = s.hbm := rfl
@[simp] theorem State.bump_coreMap (k n w : Nat) : (s.bump k n w).coreMap = s.coreMap := rfl
@[simp] theorem State.bump_tlb (k n w : Nat) : (s.bump k n w).tlb = s.tlb := rfl
@[simp] theorem State.bump_mapSyncs (k n w : Nat) : (s.bump k n w).mapSyncs = s.mapSyncs := rfl
@[simp] theorem State.bump_rings (k n w : Nat) : (s.bump k n w).rings = s.rings := rfl
@[simp] theorem State.bump_inflight (k n w : Nat) : (s.bump k n w).inflight = s.inflight := rfl
@[simp] theorem State.bump_posted (k n w : Nat) : (s.bump k n w).posted = s.posted := rfl
@[simp] theorem State.bump_nextId (k n w : Nat) : (s.bump k n w).nextId = s.nextId := rfl
@[simp] theorem State.bump_runahead (k n w : Nat) : (s.bump k n w).runahead = s.runahead := rfl
@[simp] theorem State.bump_fenceWr (k n w : Nat) : (s.bump k n w).fenceWr = s.fenceWr := rfl
@[simp] theorem State.bump_fenceHandle (k n w : Nat) : (s.bump k n w).fenceHandle = s.fenceHandle := rfl
@[simp] theorem State.bump_aborts (k n w : Nat) : (s.bump k n w).aborts = s.aborts := rfl
@[simp] theorem State.bump_zeroing (k n w : Nat) : (s.bump k n w).zeroing = s.zeroing := rfl
@[simp] theorem State.bump_asTags (k n w : Nat) : (s.bump k n w).asTags = s.asTags := rfl
@[simp] theorem State.bump_granuleQueue (k n w : Nat) : (s.bump k n w).granuleQueue = s.granuleQueue := rfl
@[simp] theorem State.bump_streams (k n w : Nat) : (s.bump k n w).streams = s.streams := rfl
@[simp] theorem State.bump_jobs (k n w : Nat) : (s.bump k n w).jobs = s.jobs := rfl
@[simp] theorem State.bump_cuts (k n w : Nat) : (s.bump k n w).cuts = s.cuts := rfl
@[simp] theorem State.bump_clean (k n w : Nat) : (s.bump k n w).clean = s.clean := rfl
@[simp] theorem State.bump_windows (k n w : Nat) : (s.bump k n w).windows = s.windows := rfl
@[simp] theorem State.bump_sporBytes (k n w : Nat) : (s.bump k n w).sporBytes = s.sporBytes := rfl
@[simp] theorem State.bump_sporReads (k n w : Nat) : (s.bump k n w).sporReads = s.sporReads := rfl
@[simp] theorem State.bump_fns (k n w : Nat) : (s.bump k n w).fns = s.fns := rfl
@[simp] theorem State.bump_linkDown (k n w : Nat) : (s.bump k n w).linkDown = s.linkDown := rfl
@[simp] theorem State.bump_out (k n w : Nat) : (s.bump k n w).out = s.out := rfl
@[simp] theorem State.bump_free (k n w : Nat) : (s.bump k n w).free = s.free := rfl
@[simp] theorem State.bump_pending (k n w : Nat) : (s.bump k n w).pending = s.pending := rfl
@[simp] theorem State.bump_recov (k n w : Nat) : (s.bump k n w).recov = s.recov := rfl
@[simp] theorem State.bump_slotWait (k n w : Nat) : (s.bump k n w).slotWait = s.slotWait := rfl
@[simp] theorem State.bump_hbmRows (k n w : Nat) : (s.bump k n w).hbmRows = s.hbmRows := rfl
@[simp] theorem State.bump_hbmCe (k n w : Nat) : (s.bump k n w).hbmCe = s.hbmCe := rfl
@[simp] theorem State.bump_hbmBad (k n w : Nat) : (s.bump k n w).hbmBad = s.hbmBad := rfl
@[simp] theorem State.bump_eccRun (k n w : Nat) : (s.bump k n w).eccRun = s.eccRun := rfl
@[simp] theorem State.bump_copies (k n w : Nat) : (s.bump k n w).copies = s.copies := rfl
@[simp] theorem State.bump_kv (k n w : Nat) : (s.bump k n w).kv = s.kv := rfl
@[simp] theorem State.bump_gens (k n w : Nat) : (s.bump k n w).gens = s.gens := rfl
@[simp] theorem State.bump_seeds (k n w : Nat) : (s.bump k n w).seeds = s.seeds := rfl
@[simp] theorem State.bump_live (k n w : Nat) : (s.bump k n w).live = s.live := rfl
@[simp] theorem State.bump_tb (k n w : Nat) : (s.bump k n w).tb = s.tb := rfl
@[simp] theorem State.bump_slips (k n w : Nat) : (s.bump k n w).slips = s.slips := rfl
@[simp] theorem State.bump_skips (k n w : Nat) : (s.bump k n w).skips = s.skips := rfl
@[simp] theorem State.bump_ports (k n w : Nat) : (s.bump k n w).ports = s.ports := rfl
@[simp] theorem State.bump_qps (k n w : Nat) : (s.bump k n w).qps = s.qps := rfl
@[simp] theorem State.bump_ackMem (k n w : Nat) : (s.bump k n w).ackMem = s.ackMem := rfl
@[simp] theorem State.bump_colls (k n w : Nat) : (s.bump k n w).colls = s.colls := rfl
@[simp] theorem State.bump_boot (k n w : Nat) : (s.bump k n w).boot = s.boot := rfl
@[simp] theorem State.bump_holds (k n w : Nat) : (s.bump k n w).holds = s.holds := rfl
@[simp] theorem State.bump_fcRestarts (k n w : Nat) : (s.bump k n w).fcRestarts = s.fcRestarts := rfl
@[simp] theorem State.bump_fcFailed (k n w : Nat) : (s.bump k n w).fcFailed = s.fcFailed := rfl
@[simp] theorem State.bump_persist (k n w : Nat) : (s.bump k n w).persist = s.persist := rfl
@[simp] theorem State.bump_saving (k n w : Nat) : (s.bump k n w).saving = s.saving := rfl
@[simp] theorem State.bump_mario (k n w : Nat) : (s.bump k n w).mario = s.mario := rfl
@[simp] theorem State.bump_log (k n w : Nat) : (s.bump k n w).log = s.log := rfl
@[simp] theorem State.bump_stop (k n w : Nat) : (s.bump k n w).stop = s.stop := rfl
@[simp] theorem State.bump_rkey (k n w : Nat) : (s.bump k n w).rkey = s.rkey := rfl
@[simp] theorem State.bump_flips (k n w : Nat) : (s.bump k n w).flips = s.flips := rfl
@[simp] theorem State.bump_msc (k n w : Nat) : (s.bump k n w).msc = s.msc := rfl
@[simp] theorem State.bump_scrubDebt (k n w : Nat) : (s.bump k n w).scrubDebt = s.scrubDebt := rfl
@[simp] theorem State.bump_errs (k n w : Nat) : (s.bump k n w).errs = s.errs := rfl
@[simp] theorem State.bump_asSat (k n w : Nat) : (s.bump k n w).asSat = s.asSat := rfl
@[simp] theorem State.bump_sporTurn (k n w : Nat) : (s.bump k n w).sporTurn = s.sporTurn := rfl
@[simp] theorem State.bump_sporNext (k n w : Nat) : (s.bump k n w).sporNext = s.sporNext := rfl

/-! ### wrapAdd -/

@[simp] theorem State.wrapAdd_octs (k n w : Nat) : (s.wrapAdd k n w).octs = s.octs := rfl
@[simp] theorem State.wrapAdd_areas (k n w : Nat) : (s.wrapAdd k n w).areas = s.areas := rfl
@[simp] theorem State.wrapAdd_ls (k n w : Nat) : (s.wrapAdd k n w).ls = s.ls := rfl
@[simp] theorem State.wrapAdd_fs (k n w : Nat) : (s.wrapAdd k n w).fs = s.fs := rfl
@[simp] theorem State.wrapAdd_acc (k n w : Nat) : (s.wrapAdd k n w).acc = s.acc := rfl
@[simp] theorem State.wrapAdd_hbm (k n w : Nat) : (s.wrapAdd k n w).hbm = s.hbm := rfl
@[simp] theorem State.wrapAdd_coreMap (k n w : Nat) : (s.wrapAdd k n w).coreMap = s.coreMap := rfl
@[simp] theorem State.wrapAdd_tlb (k n w : Nat) : (s.wrapAdd k n w).tlb = s.tlb := rfl
@[simp] theorem State.wrapAdd_mapSyncs (k n w : Nat) : (s.wrapAdd k n w).mapSyncs = s.mapSyncs := rfl
@[simp] theorem State.wrapAdd_rings (k n w : Nat) : (s.wrapAdd k n w).rings = s.rings := rfl
@[simp] theorem State.wrapAdd_inflight (k n w : Nat) : (s.wrapAdd k n w).inflight = s.inflight := rfl
@[simp] theorem State.wrapAdd_posted (k n w : Nat) : (s.wrapAdd k n w).posted = s.posted := rfl
@[simp] theorem State.wrapAdd_nextId (k n w : Nat) : (s.wrapAdd k n w).nextId = s.nextId := rfl
@[simp] theorem State.wrapAdd_runahead (k n w : Nat) : (s.wrapAdd k n w).runahead = s.runahead := rfl
@[simp] theorem State.wrapAdd_fenceWr (k n w : Nat) : (s.wrapAdd k n w).fenceWr = s.fenceWr := rfl
@[simp] theorem State.wrapAdd_fenceHandle (k n w : Nat) : (s.wrapAdd k n w).fenceHandle = s.fenceHandle := rfl
@[simp] theorem State.wrapAdd_aborts (k n w : Nat) : (s.wrapAdd k n w).aborts = s.aborts := rfl
@[simp] theorem State.wrapAdd_zeroing (k n w : Nat) : (s.wrapAdd k n w).zeroing = s.zeroing := rfl
@[simp] theorem State.wrapAdd_asTags (k n w : Nat) : (s.wrapAdd k n w).asTags = s.asTags := rfl
@[simp] theorem State.wrapAdd_granuleQueue (k n w : Nat) : (s.wrapAdd k n w).granuleQueue = s.granuleQueue := rfl
@[simp] theorem State.wrapAdd_streams (k n w : Nat) : (s.wrapAdd k n w).streams = s.streams := rfl
@[simp] theorem State.wrapAdd_jobs (k n w : Nat) : (s.wrapAdd k n w).jobs = s.jobs := rfl
@[simp] theorem State.wrapAdd_cuts (k n w : Nat) : (s.wrapAdd k n w).cuts = s.cuts := rfl
@[simp] theorem State.wrapAdd_clean (k n w : Nat) : (s.wrapAdd k n w).clean = s.clean := rfl
@[simp] theorem State.wrapAdd_windows (k n w : Nat) : (s.wrapAdd k n w).windows = s.windows := rfl
@[simp] theorem State.wrapAdd_sporBytes (k n w : Nat) : (s.wrapAdd k n w).sporBytes = s.sporBytes := rfl
@[simp] theorem State.wrapAdd_sporReads (k n w : Nat) : (s.wrapAdd k n w).sporReads = s.sporReads := rfl
@[simp] theorem State.wrapAdd_fns (k n w : Nat) : (s.wrapAdd k n w).fns = s.fns := rfl
@[simp] theorem State.wrapAdd_linkDown (k n w : Nat) : (s.wrapAdd k n w).linkDown = s.linkDown := rfl
@[simp] theorem State.wrapAdd_out (k n w : Nat) : (s.wrapAdd k n w).out = s.out := rfl
@[simp] theorem State.wrapAdd_free (k n w : Nat) : (s.wrapAdd k n w).free = s.free := rfl
@[simp] theorem State.wrapAdd_pending (k n w : Nat) : (s.wrapAdd k n w).pending = s.pending := rfl
@[simp] theorem State.wrapAdd_recov (k n w : Nat) : (s.wrapAdd k n w).recov = s.recov := rfl
@[simp] theorem State.wrapAdd_slotWait (k n w : Nat) : (s.wrapAdd k n w).slotWait = s.slotWait := rfl
@[simp] theorem State.wrapAdd_hbmRows (k n w : Nat) : (s.wrapAdd k n w).hbmRows = s.hbmRows := rfl
@[simp] theorem State.wrapAdd_hbmCe (k n w : Nat) : (s.wrapAdd k n w).hbmCe = s.hbmCe := rfl
@[simp] theorem State.wrapAdd_hbmBad (k n w : Nat) : (s.wrapAdd k n w).hbmBad = s.hbmBad := rfl
@[simp] theorem State.wrapAdd_eccRun (k n w : Nat) : (s.wrapAdd k n w).eccRun = s.eccRun := rfl
@[simp] theorem State.wrapAdd_copies (k n w : Nat) : (s.wrapAdd k n w).copies = s.copies := rfl
@[simp] theorem State.wrapAdd_kv (k n w : Nat) : (s.wrapAdd k n w).kv = s.kv := rfl
@[simp] theorem State.wrapAdd_gens (k n w : Nat) : (s.wrapAdd k n w).gens = s.gens := rfl
@[simp] theorem State.wrapAdd_seeds (k n w : Nat) : (s.wrapAdd k n w).seeds = s.seeds := rfl
@[simp] theorem State.wrapAdd_live (k n w : Nat) : (s.wrapAdd k n w).live = s.live := rfl
@[simp] theorem State.wrapAdd_tb (k n w : Nat) : (s.wrapAdd k n w).tb = s.tb := rfl
@[simp] theorem State.wrapAdd_slips (k n w : Nat) : (s.wrapAdd k n w).slips = s.slips := rfl
@[simp] theorem State.wrapAdd_skips (k n w : Nat) : (s.wrapAdd k n w).skips = s.skips := rfl
@[simp] theorem State.wrapAdd_ports (k n w : Nat) : (s.wrapAdd k n w).ports = s.ports := rfl
@[simp] theorem State.wrapAdd_qps (k n w : Nat) : (s.wrapAdd k n w).qps = s.qps := rfl
@[simp] theorem State.wrapAdd_ackMem (k n w : Nat) : (s.wrapAdd k n w).ackMem = s.ackMem := rfl
@[simp] theorem State.wrapAdd_colls (k n w : Nat) : (s.wrapAdd k n w).colls = s.colls := rfl
@[simp] theorem State.wrapAdd_boot (k n w : Nat) : (s.wrapAdd k n w).boot = s.boot := rfl
@[simp] theorem State.wrapAdd_holds (k n w : Nat) : (s.wrapAdd k n w).holds = s.holds := rfl
@[simp] theorem State.wrapAdd_fcRestarts (k n w : Nat) : (s.wrapAdd k n w).fcRestarts = s.fcRestarts := rfl
@[simp] theorem State.wrapAdd_fcFailed (k n w : Nat) : (s.wrapAdd k n w).fcFailed = s.fcFailed := rfl
@[simp] theorem State.wrapAdd_persist (k n w : Nat) : (s.wrapAdd k n w).persist = s.persist := rfl
@[simp] theorem State.wrapAdd_saving (k n w : Nat) : (s.wrapAdd k n w).saving = s.saving := rfl
@[simp] theorem State.wrapAdd_mario (k n w : Nat) : (s.wrapAdd k n w).mario = s.mario := rfl
@[simp] theorem State.wrapAdd_log (k n w : Nat) : (s.wrapAdd k n w).log = s.log := rfl
@[simp] theorem State.wrapAdd_stop (k n w : Nat) : (s.wrapAdd k n w).stop = s.stop := rfl
@[simp] theorem State.wrapAdd_rkey (k n w : Nat) : (s.wrapAdd k n w).rkey = s.rkey := rfl
@[simp] theorem State.wrapAdd_flips (k n w : Nat) : (s.wrapAdd k n w).flips = s.flips := rfl
@[simp] theorem State.wrapAdd_msc (k n w : Nat) : (s.wrapAdd k n w).msc = s.msc := rfl
@[simp] theorem State.wrapAdd_scrubDebt (k n w : Nat) : (s.wrapAdd k n w).scrubDebt = s.scrubDebt := rfl
@[simp] theorem State.wrapAdd_errs (k n w : Nat) : (s.wrapAdd k n w).errs = s.errs := rfl
@[simp] theorem State.wrapAdd_asSat (k n w : Nat) : (s.wrapAdd k n w).asSat = s.asSat := rfl
@[simp] theorem State.wrapAdd_sporTurn (k n w : Nat) : (s.wrapAdd k n w).sporTurn = s.sporTurn := rfl
@[simp] theorem State.wrapAdd_sporNext (k n w : Nat) : (s.wrapAdd k n w).sporNext = s.sporNext := rfl

/-! ### setBit -/

@[simp] theorem State.setBit_octs (k b : Nat) : (s.setBit k b).octs = s.octs := rfl
@[simp] theorem State.setBit_areas (k b : Nat) : (s.setBit k b).areas = s.areas := rfl
@[simp] theorem State.setBit_ls (k b : Nat) : (s.setBit k b).ls = s.ls := rfl
@[simp] theorem State.setBit_fs (k b : Nat) : (s.setBit k b).fs = s.fs := rfl
@[simp] theorem State.setBit_acc (k b : Nat) : (s.setBit k b).acc = s.acc := rfl
@[simp] theorem State.setBit_hbm (k b : Nat) : (s.setBit k b).hbm = s.hbm := rfl
@[simp] theorem State.setBit_coreMap (k b : Nat) : (s.setBit k b).coreMap = s.coreMap := rfl
@[simp] theorem State.setBit_tlb (k b : Nat) : (s.setBit k b).tlb = s.tlb := rfl
@[simp] theorem State.setBit_mapSyncs (k b : Nat) : (s.setBit k b).mapSyncs = s.mapSyncs := rfl
@[simp] theorem State.setBit_rings (k b : Nat) : (s.setBit k b).rings = s.rings := rfl
@[simp] theorem State.setBit_inflight (k b : Nat) : (s.setBit k b).inflight = s.inflight := rfl
@[simp] theorem State.setBit_posted (k b : Nat) : (s.setBit k b).posted = s.posted := rfl
@[simp] theorem State.setBit_nextId (k b : Nat) : (s.setBit k b).nextId = s.nextId := rfl
@[simp] theorem State.setBit_runahead (k b : Nat) : (s.setBit k b).runahead = s.runahead := rfl
@[simp] theorem State.setBit_fenceWr (k b : Nat) : (s.setBit k b).fenceWr = s.fenceWr := rfl
@[simp] theorem State.setBit_fenceHandle (k b : Nat) : (s.setBit k b).fenceHandle = s.fenceHandle := rfl
@[simp] theorem State.setBit_aborts (k b : Nat) : (s.setBit k b).aborts = s.aborts := rfl
@[simp] theorem State.setBit_zeroing (k b : Nat) : (s.setBit k b).zeroing = s.zeroing := rfl
@[simp] theorem State.setBit_asTags (k b : Nat) : (s.setBit k b).asTags = s.asTags := rfl
@[simp] theorem State.setBit_granuleQueue (k b : Nat) : (s.setBit k b).granuleQueue = s.granuleQueue := rfl
@[simp] theorem State.setBit_streams (k b : Nat) : (s.setBit k b).streams = s.streams := rfl
@[simp] theorem State.setBit_jobs (k b : Nat) : (s.setBit k b).jobs = s.jobs := rfl
@[simp] theorem State.setBit_cuts (k b : Nat) : (s.setBit k b).cuts = s.cuts := rfl
@[simp] theorem State.setBit_clean (k b : Nat) : (s.setBit k b).clean = s.clean := rfl
@[simp] theorem State.setBit_windows (k b : Nat) : (s.setBit k b).windows = s.windows := rfl
@[simp] theorem State.setBit_sporBytes (k b : Nat) : (s.setBit k b).sporBytes = s.sporBytes := rfl
@[simp] theorem State.setBit_sporReads (k b : Nat) : (s.setBit k b).sporReads = s.sporReads := rfl
@[simp] theorem State.setBit_fns (k b : Nat) : (s.setBit k b).fns = s.fns := rfl
@[simp] theorem State.setBit_linkDown (k b : Nat) : (s.setBit k b).linkDown = s.linkDown := rfl
@[simp] theorem State.setBit_out (k b : Nat) : (s.setBit k b).out = s.out := rfl
@[simp] theorem State.setBit_free (k b : Nat) : (s.setBit k b).free = s.free := rfl
@[simp] theorem State.setBit_pending (k b : Nat) : (s.setBit k b).pending = s.pending := rfl
@[simp] theorem State.setBit_recov (k b : Nat) : (s.setBit k b).recov = s.recov := rfl
@[simp] theorem State.setBit_slotWait (k b : Nat) : (s.setBit k b).slotWait = s.slotWait := rfl
@[simp] theorem State.setBit_hbmRows (k b : Nat) : (s.setBit k b).hbmRows = s.hbmRows := rfl
@[simp] theorem State.setBit_hbmCe (k b : Nat) : (s.setBit k b).hbmCe = s.hbmCe := rfl
@[simp] theorem State.setBit_hbmBad (k b : Nat) : (s.setBit k b).hbmBad = s.hbmBad := rfl
@[simp] theorem State.setBit_eccRun (k b : Nat) : (s.setBit k b).eccRun = s.eccRun := rfl
@[simp] theorem State.setBit_copies (k b : Nat) : (s.setBit k b).copies = s.copies := rfl
@[simp] theorem State.setBit_kv (k b : Nat) : (s.setBit k b).kv = s.kv := rfl
@[simp] theorem State.setBit_gens (k b : Nat) : (s.setBit k b).gens = s.gens := rfl
@[simp] theorem State.setBit_seeds (k b : Nat) : (s.setBit k b).seeds = s.seeds := rfl
@[simp] theorem State.setBit_live (k b : Nat) : (s.setBit k b).live = s.live := rfl
@[simp] theorem State.setBit_tb (k b : Nat) : (s.setBit k b).tb = s.tb := rfl
@[simp] theorem State.setBit_slips (k b : Nat) : (s.setBit k b).slips = s.slips := rfl
@[simp] theorem State.setBit_skips (k b : Nat) : (s.setBit k b).skips = s.skips := rfl
@[simp] theorem State.setBit_ports (k b : Nat) : (s.setBit k b).ports = s.ports := rfl
@[simp] theorem State.setBit_qps (k b : Nat) : (s.setBit k b).qps = s.qps := rfl
@[simp] theorem State.setBit_ackMem (k b : Nat) : (s.setBit k b).ackMem = s.ackMem := rfl
@[simp] theorem State.setBit_colls (k b : Nat) : (s.setBit k b).colls = s.colls := rfl
@[simp] theorem State.setBit_boot (k b : Nat) : (s.setBit k b).boot = s.boot := rfl
@[simp] theorem State.setBit_holds (k b : Nat) : (s.setBit k b).holds = s.holds := rfl
@[simp] theorem State.setBit_fcRestarts (k b : Nat) : (s.setBit k b).fcRestarts = s.fcRestarts := rfl
@[simp] theorem State.setBit_fcFailed (k b : Nat) : (s.setBit k b).fcFailed = s.fcFailed := rfl
@[simp] theorem State.setBit_persist (k b : Nat) : (s.setBit k b).persist = s.persist := rfl
@[simp] theorem State.setBit_saving (k b : Nat) : (s.setBit k b).saving = s.saving := rfl
@[simp] theorem State.setBit_mario (k b : Nat) : (s.setBit k b).mario = s.mario := rfl
@[simp] theorem State.setBit_log (k b : Nat) : (s.setBit k b).log = s.log := rfl
@[simp] theorem State.setBit_stop (k b : Nat) : (s.setBit k b).stop = s.stop := rfl
@[simp] theorem State.setBit_rkey (k b : Nat) : (s.setBit k b).rkey = s.rkey := rfl
@[simp] theorem State.setBit_flips (k b : Nat) : (s.setBit k b).flips = s.flips := rfl
@[simp] theorem State.setBit_msc (k b : Nat) : (s.setBit k b).msc = s.msc := rfl
@[simp] theorem State.setBit_scrubDebt (k b : Nat) : (s.setBit k b).scrubDebt = s.scrubDebt := rfl
@[simp] theorem State.setBit_errs (k b : Nat) : (s.setBit k b).errs = s.errs := rfl
@[simp] theorem State.setBit_asSat (k b : Nat) : (s.setBit k b).asSat = s.asSat := rfl
@[simp] theorem State.setBit_sporTurn (k b : Nat) : (s.setBit k b).sporTurn = s.sporTurn := rfl
@[simp] theorem State.setBit_sporNext (k b : Nat) : (s.setBit k b).sporNext = s.sporNext := rfl

/-! ### keepLive -/

@[simp] theorem State.keepLive_regs (k : Nat) : (s.keepLive k).regs = s.regs := rfl
@[simp] theorem State.keepLive_octs (k : Nat) : (s.keepLive k).octs = s.octs := rfl
@[simp] theorem State.keepLive_areas (k : Nat) : (s.keepLive k).areas = s.areas := rfl
@[simp] theorem State.keepLive_ls (k : Nat) : (s.keepLive k).ls = s.ls := rfl
@[simp] theorem State.keepLive_fs (k : Nat) : (s.keepLive k).fs = s.fs := rfl
@[simp] theorem State.keepLive_acc (k : Nat) : (s.keepLive k).acc = s.acc := rfl
@[simp] theorem State.keepLive_hbm (k : Nat) : (s.keepLive k).hbm = s.hbm := rfl
@[simp] theorem State.keepLive_coreMap (k : Nat) : (s.keepLive k).coreMap = s.coreMap := rfl
@[simp] theorem State.keepLive_tlb (k : Nat) : (s.keepLive k).tlb = s.tlb := rfl
@[simp] theorem State.keepLive_mapSyncs (k : Nat) : (s.keepLive k).mapSyncs = s.mapSyncs := rfl
@[simp] theorem State.keepLive_rings (k : Nat) : (s.keepLive k).rings = s.rings := rfl
@[simp] theorem State.keepLive_inflight (k : Nat) : (s.keepLive k).inflight = s.inflight := rfl
@[simp] theorem State.keepLive_posted (k : Nat) : (s.keepLive k).posted = s.posted := rfl
@[simp] theorem State.keepLive_nextId (k : Nat) : (s.keepLive k).nextId = s.nextId := rfl
@[simp] theorem State.keepLive_runahead (k : Nat) : (s.keepLive k).runahead = s.runahead := rfl
@[simp] theorem State.keepLive_fenceWr (k : Nat) : (s.keepLive k).fenceWr = s.fenceWr := rfl
@[simp] theorem State.keepLive_fenceHandle (k : Nat) : (s.keepLive k).fenceHandle = s.fenceHandle := rfl
@[simp] theorem State.keepLive_aborts (k : Nat) : (s.keepLive k).aborts = s.aborts := rfl
@[simp] theorem State.keepLive_zeroing (k : Nat) : (s.keepLive k).zeroing = s.zeroing := rfl
@[simp] theorem State.keepLive_asTags (k : Nat) : (s.keepLive k).asTags = s.asTags := rfl
@[simp] theorem State.keepLive_granuleQueue (k : Nat) : (s.keepLive k).granuleQueue = s.granuleQueue := rfl
@[simp] theorem State.keepLive_streams (k : Nat) : (s.keepLive k).streams = s.streams := rfl
@[simp] theorem State.keepLive_jobs (k : Nat) : (s.keepLive k).jobs = s.jobs := rfl
@[simp] theorem State.keepLive_cuts (k : Nat) : (s.keepLive k).cuts = s.cuts := rfl
@[simp] theorem State.keepLive_clean (k : Nat) : (s.keepLive k).clean = s.clean := rfl
@[simp] theorem State.keepLive_windows (k : Nat) : (s.keepLive k).windows = s.windows := rfl
@[simp] theorem State.keepLive_sporBytes (k : Nat) : (s.keepLive k).sporBytes = s.sporBytes := rfl
@[simp] theorem State.keepLive_sporReads (k : Nat) : (s.keepLive k).sporReads = s.sporReads := rfl
@[simp] theorem State.keepLive_fns (k : Nat) : (s.keepLive k).fns = s.fns := rfl
@[simp] theorem State.keepLive_linkDown (k : Nat) : (s.keepLive k).linkDown = s.linkDown := rfl
@[simp] theorem State.keepLive_out (k : Nat) : (s.keepLive k).out = s.out := rfl
@[simp] theorem State.keepLive_free (k : Nat) : (s.keepLive k).free = s.free := rfl
@[simp] theorem State.keepLive_pending (k : Nat) : (s.keepLive k).pending = s.pending := rfl
@[simp] theorem State.keepLive_recov (k : Nat) : (s.keepLive k).recov = s.recov := rfl
@[simp] theorem State.keepLive_slotWait (k : Nat) : (s.keepLive k).slotWait = s.slotWait := rfl
@[simp] theorem State.keepLive_hbmRows (k : Nat) : (s.keepLive k).hbmRows = s.hbmRows := rfl
@[simp] theorem State.keepLive_hbmCe (k : Nat) : (s.keepLive k).hbmCe = s.hbmCe := rfl
@[simp] theorem State.keepLive_hbmBad (k : Nat) : (s.keepLive k).hbmBad = s.hbmBad := rfl
@[simp] theorem State.keepLive_eccRun (k : Nat) : (s.keepLive k).eccRun = s.eccRun := rfl
@[simp] theorem State.keepLive_copies (k : Nat) : (s.keepLive k).copies = s.copies := rfl
@[simp] theorem State.keepLive_kv (k : Nat) : (s.keepLive k).kv = s.kv := rfl
@[simp] theorem State.keepLive_gens (k : Nat) : (s.keepLive k).gens = s.gens := rfl
@[simp] theorem State.keepLive_seeds (k : Nat) : (s.keepLive k).seeds = s.seeds := rfl
@[simp] theorem State.keepLive_tb (k : Nat) : (s.keepLive k).tb = s.tb := rfl
@[simp] theorem State.keepLive_slips (k : Nat) : (s.keepLive k).slips = s.slips := rfl
@[simp] theorem State.keepLive_skips (k : Nat) : (s.keepLive k).skips = s.skips := rfl
@[simp] theorem State.keepLive_ports (k : Nat) : (s.keepLive k).ports = s.ports := rfl
@[simp] theorem State.keepLive_qps (k : Nat) : (s.keepLive k).qps = s.qps := rfl
@[simp] theorem State.keepLive_ackMem (k : Nat) : (s.keepLive k).ackMem = s.ackMem := rfl
@[simp] theorem State.keepLive_colls (k : Nat) : (s.keepLive k).colls = s.colls := rfl
@[simp] theorem State.keepLive_boot (k : Nat) : (s.keepLive k).boot = s.boot := rfl
@[simp] theorem State.keepLive_holds (k : Nat) : (s.keepLive k).holds = s.holds := rfl
@[simp] theorem State.keepLive_fcRestarts (k : Nat) : (s.keepLive k).fcRestarts = s.fcRestarts := rfl
@[simp] theorem State.keepLive_fcFailed (k : Nat) : (s.keepLive k).fcFailed = s.fcFailed := rfl
@[simp] theorem State.keepLive_persist (k : Nat) : (s.keepLive k).persist = s.persist := rfl
@[simp] theorem State.keepLive_saving (k : Nat) : (s.keepLive k).saving = s.saving := rfl
@[simp] theorem State.keepLive_mario (k : Nat) : (s.keepLive k).mario = s.mario := rfl
@[simp] theorem State.keepLive_log (k : Nat) : (s.keepLive k).log = s.log := rfl
@[simp] theorem State.keepLive_stop (k : Nat) : (s.keepLive k).stop = s.stop := rfl
@[simp] theorem State.keepLive_rkey (k : Nat) : (s.keepLive k).rkey = s.rkey := rfl
@[simp] theorem State.keepLive_flips (k : Nat) : (s.keepLive k).flips = s.flips := rfl
@[simp] theorem State.keepLive_msc (k : Nat) : (s.keepLive k).msc = s.msc := rfl
@[simp] theorem State.keepLive_scrubDebt (k : Nat) : (s.keepLive k).scrubDebt = s.scrubDebt := rfl
@[simp] theorem State.keepLive_errs (k : Nat) : (s.keepLive k).errs = s.errs := rfl
@[simp] theorem State.keepLive_asSat (k : Nat) : (s.keepLive k).asSat = s.asSat := rfl
@[simp] theorem State.keepLive_sporTurn (k : Nat) : (s.keepLive k).sporTurn = s.sporTurn := rfl
@[simp] theorem State.keepLive_sporNext (k : Nat) : (s.keepLive k).sporNext = s.sporNext := rfl

/-! ### setOct -/

@[simp] theorem State.setOct_regs (k i : Nat) (b : Byte) : (s.setOct k i b).regs = s.regs := rfl
@[simp] theorem State.setOct_areas (k i : Nat) (b : Byte) : (s.setOct k i b).areas = s.areas := rfl
@[simp] theorem State.setOct_ls (k i : Nat) (b : Byte) : (s.setOct k i b).ls = s.ls := rfl
@[simp] theorem State.setOct_fs (k i : Nat) (b : Byte) : (s.setOct k i b).fs = s.fs := rfl
@[simp] theorem State.setOct_acc (k i : Nat) (b : Byte) : (s.setOct k i b).acc = s.acc := rfl
@[simp] theorem State.setOct_hbm (k i : Nat) (b : Byte) : (s.setOct k i b).hbm = s.hbm := rfl
@[simp] theorem State.setOct_coreMap (k i : Nat) (b : Byte) : (s.setOct k i b).coreMap = s.coreMap := rfl
@[simp] theorem State.setOct_tlb (k i : Nat) (b : Byte) : (s.setOct k i b).tlb = s.tlb := rfl
@[simp] theorem State.setOct_mapSyncs (k i : Nat) (b : Byte) : (s.setOct k i b).mapSyncs = s.mapSyncs := rfl
@[simp] theorem State.setOct_rings (k i : Nat) (b : Byte) : (s.setOct k i b).rings = s.rings := rfl
@[simp] theorem State.setOct_inflight (k i : Nat) (b : Byte) : (s.setOct k i b).inflight = s.inflight := rfl
@[simp] theorem State.setOct_posted (k i : Nat) (b : Byte) : (s.setOct k i b).posted = s.posted := rfl
@[simp] theorem State.setOct_nextId (k i : Nat) (b : Byte) : (s.setOct k i b).nextId = s.nextId := rfl
@[simp] theorem State.setOct_runahead (k i : Nat) (b : Byte) : (s.setOct k i b).runahead = s.runahead := rfl
@[simp] theorem State.setOct_fenceWr (k i : Nat) (b : Byte) : (s.setOct k i b).fenceWr = s.fenceWr := rfl
@[simp] theorem State.setOct_fenceHandle (k i : Nat) (b : Byte) : (s.setOct k i b).fenceHandle = s.fenceHandle := rfl
@[simp] theorem State.setOct_aborts (k i : Nat) (b : Byte) : (s.setOct k i b).aborts = s.aborts := rfl
@[simp] theorem State.setOct_zeroing (k i : Nat) (b : Byte) : (s.setOct k i b).zeroing = s.zeroing := rfl
@[simp] theorem State.setOct_asTags (k i : Nat) (b : Byte) : (s.setOct k i b).asTags = s.asTags := rfl
@[simp] theorem State.setOct_granuleQueue (k i : Nat) (b : Byte) : (s.setOct k i b).granuleQueue = s.granuleQueue := rfl
@[simp] theorem State.setOct_streams (k i : Nat) (b : Byte) : (s.setOct k i b).streams = s.streams := rfl
@[simp] theorem State.setOct_jobs (k i : Nat) (b : Byte) : (s.setOct k i b).jobs = s.jobs := rfl
@[simp] theorem State.setOct_cuts (k i : Nat) (b : Byte) : (s.setOct k i b).cuts = s.cuts := rfl
@[simp] theorem State.setOct_clean (k i : Nat) (b : Byte) : (s.setOct k i b).clean = s.clean := rfl
@[simp] theorem State.setOct_windows (k i : Nat) (b : Byte) : (s.setOct k i b).windows = s.windows := rfl
@[simp] theorem State.setOct_sporBytes (k i : Nat) (b : Byte) : (s.setOct k i b).sporBytes = s.sporBytes := rfl
@[simp] theorem State.setOct_sporReads (k i : Nat) (b : Byte) : (s.setOct k i b).sporReads = s.sporReads := rfl
@[simp] theorem State.setOct_fns (k i : Nat) (b : Byte) : (s.setOct k i b).fns = s.fns := rfl
@[simp] theorem State.setOct_linkDown (k i : Nat) (b : Byte) : (s.setOct k i b).linkDown = s.linkDown := rfl
@[simp] theorem State.setOct_out (k i : Nat) (b : Byte) : (s.setOct k i b).out = s.out := rfl
@[simp] theorem State.setOct_free (k i : Nat) (b : Byte) : (s.setOct k i b).free = s.free := rfl
@[simp] theorem State.setOct_pending (k i : Nat) (b : Byte) : (s.setOct k i b).pending = s.pending := rfl
@[simp] theorem State.setOct_recov (k i : Nat) (b : Byte) : (s.setOct k i b).recov = s.recov := rfl
@[simp] theorem State.setOct_slotWait (k i : Nat) (b : Byte) : (s.setOct k i b).slotWait = s.slotWait := rfl
@[simp] theorem State.setOct_hbmRows (k i : Nat) (b : Byte) : (s.setOct k i b).hbmRows = s.hbmRows := rfl
@[simp] theorem State.setOct_hbmCe (k i : Nat) (b : Byte) : (s.setOct k i b).hbmCe = s.hbmCe := rfl
@[simp] theorem State.setOct_hbmBad (k i : Nat) (b : Byte) : (s.setOct k i b).hbmBad = s.hbmBad := rfl
@[simp] theorem State.setOct_eccRun (k i : Nat) (b : Byte) : (s.setOct k i b).eccRun = s.eccRun := rfl
@[simp] theorem State.setOct_copies (k i : Nat) (b : Byte) : (s.setOct k i b).copies = s.copies := rfl
@[simp] theorem State.setOct_kv (k i : Nat) (b : Byte) : (s.setOct k i b).kv = s.kv := rfl
@[simp] theorem State.setOct_gens (k i : Nat) (b : Byte) : (s.setOct k i b).gens = s.gens := rfl
@[simp] theorem State.setOct_seeds (k i : Nat) (b : Byte) : (s.setOct k i b).seeds = s.seeds := rfl
@[simp] theorem State.setOct_live (k i : Nat) (b : Byte) : (s.setOct k i b).live = s.live := rfl
@[simp] theorem State.setOct_tb (k i : Nat) (b : Byte) : (s.setOct k i b).tb = s.tb := rfl
@[simp] theorem State.setOct_slips (k i : Nat) (b : Byte) : (s.setOct k i b).slips = s.slips := rfl
@[simp] theorem State.setOct_skips (k i : Nat) (b : Byte) : (s.setOct k i b).skips = s.skips := rfl
@[simp] theorem State.setOct_ports (k i : Nat) (b : Byte) : (s.setOct k i b).ports = s.ports := rfl
@[simp] theorem State.setOct_qps (k i : Nat) (b : Byte) : (s.setOct k i b).qps = s.qps := rfl
@[simp] theorem State.setOct_ackMem (k i : Nat) (b : Byte) : (s.setOct k i b).ackMem = s.ackMem := rfl
@[simp] theorem State.setOct_colls (k i : Nat) (b : Byte) : (s.setOct k i b).colls = s.colls := rfl
@[simp] theorem State.setOct_boot (k i : Nat) (b : Byte) : (s.setOct k i b).boot = s.boot := rfl
@[simp] theorem State.setOct_holds (k i : Nat) (b : Byte) : (s.setOct k i b).holds = s.holds := rfl
@[simp] theorem State.setOct_fcRestarts (k i : Nat) (b : Byte) : (s.setOct k i b).fcRestarts = s.fcRestarts := rfl
@[simp] theorem State.setOct_fcFailed (k i : Nat) (b : Byte) : (s.setOct k i b).fcFailed = s.fcFailed := rfl
@[simp] theorem State.setOct_persist (k i : Nat) (b : Byte) : (s.setOct k i b).persist = s.persist := rfl
@[simp] theorem State.setOct_saving (k i : Nat) (b : Byte) : (s.setOct k i b).saving = s.saving := rfl
@[simp] theorem State.setOct_mario (k i : Nat) (b : Byte) : (s.setOct k i b).mario = s.mario := rfl
@[simp] theorem State.setOct_log (k i : Nat) (b : Byte) : (s.setOct k i b).log = s.log := rfl
@[simp] theorem State.setOct_stop (k i : Nat) (b : Byte) : (s.setOct k i b).stop = s.stop := rfl
@[simp] theorem State.setOct_rkey (k i : Nat) (b : Byte) : (s.setOct k i b).rkey = s.rkey := rfl
@[simp] theorem State.setOct_flips (k i : Nat) (b : Byte) : (s.setOct k i b).flips = s.flips := rfl
@[simp] theorem State.setOct_msc (k i : Nat) (b : Byte) : (s.setOct k i b).msc = s.msc := rfl
@[simp] theorem State.setOct_scrubDebt (k i : Nat) (b : Byte) : (s.setOct k i b).scrubDebt = s.scrubDebt := rfl
@[simp] theorem State.setOct_errs (k i : Nat) (b : Byte) : (s.setOct k i b).errs = s.errs := rfl
@[simp] theorem State.setOct_asSat (k i : Nat) (b : Byte) : (s.setOct k i b).asSat = s.asSat := rfl
@[simp] theorem State.setOct_sporTurn (k i : Nat) (b : Byte) : (s.setOct k i b).sporTurn = s.sporTurn := rfl
@[simp] theorem State.setOct_sporNext (k i : Nat) (b : Byte) : (s.setOct k i b).sporNext = s.sporNext := rfl

/-! ### setArea -/

@[simp] theorem State.setArea_regs (who : Requester) (sub : Nat) (w : Word) : (s.setArea who sub w).regs = s.regs := rfl
@[simp] theorem State.setArea_octs (who : Requester) (sub : Nat) (w : Word) : (s.setArea who sub w).octs = s.octs := rfl
@[simp] theorem State.setArea_ls (who : Requester) (sub : Nat) (w : Word) : (s.setArea who sub w).ls = s.ls := rfl
@[simp] theorem State.setArea_fs (who : Requester) (sub : Nat) (w : Word) : (s.setArea who sub w).fs = s.fs := rfl
@[simp] theorem State.setArea_acc (who : Requester) (sub : Nat) (w : Word) : (s.setArea who sub w).acc = s.acc := rfl
@[simp] theorem State.setArea_hbm (who : Requester) (sub : Nat) (w : Word) : (s.setArea who sub w).hbm = s.hbm := rfl
@[simp] theorem State.setArea_coreMap (who : Requester) (sub : Nat) (w : Word) : (s.setArea who sub w).coreMap = s.coreMap := rfl
@[simp] theorem State.setArea_tlb (who : Requester) (sub : Nat) (w : Word) : (s.setArea who sub w).tlb = s.tlb := rfl
@[simp] theorem State.setArea_mapSyncs (who : Requester) (sub : Nat) (w : Word) : (s.setArea who sub w).mapSyncs = s.mapSyncs := rfl
@[simp] theorem State.setArea_rings (who : Requester) (sub : Nat) (w : Word) : (s.setArea who sub w).rings = s.rings := rfl
@[simp] theorem State.setArea_inflight (who : Requester) (sub : Nat) (w : Word) : (s.setArea who sub w).inflight = s.inflight := rfl
@[simp] theorem State.setArea_posted (who : Requester) (sub : Nat) (w : Word) : (s.setArea who sub w).posted = s.posted := rfl
@[simp] theorem State.setArea_nextId (who : Requester) (sub : Nat) (w : Word) : (s.setArea who sub w).nextId = s.nextId := rfl
@[simp] theorem State.setArea_runahead (who : Requester) (sub : Nat) (w : Word) : (s.setArea who sub w).runahead = s.runahead := rfl
@[simp] theorem State.setArea_fenceWr (who : Requester) (sub : Nat) (w : Word) : (s.setArea who sub w).fenceWr = s.fenceWr := rfl
@[simp] theorem State.setArea_fenceHandle (who : Requester) (sub : Nat) (w : Word) : (s.setArea who sub w).fenceHandle = s.fenceHandle := rfl
@[simp] theorem State.setArea_aborts (who : Requester) (sub : Nat) (w : Word) : (s.setArea who sub w).aborts = s.aborts := rfl
@[simp] theorem State.setArea_zeroing (who : Requester) (sub : Nat) (w : Word) : (s.setArea who sub w).zeroing = s.zeroing := rfl
@[simp] theorem State.setArea_asTags (who : Requester) (sub : Nat) (w : Word) : (s.setArea who sub w).asTags = s.asTags := rfl
@[simp] theorem State.setArea_granuleQueue (who : Requester) (sub : Nat) (w : Word) : (s.setArea who sub w).granuleQueue = s.granuleQueue := rfl
@[simp] theorem State.setArea_streams (who : Requester) (sub : Nat) (w : Word) : (s.setArea who sub w).streams = s.streams := rfl
@[simp] theorem State.setArea_jobs (who : Requester) (sub : Nat) (w : Word) : (s.setArea who sub w).jobs = s.jobs := rfl
@[simp] theorem State.setArea_cuts (who : Requester) (sub : Nat) (w : Word) : (s.setArea who sub w).cuts = s.cuts := rfl
@[simp] theorem State.setArea_clean (who : Requester) (sub : Nat) (w : Word) : (s.setArea who sub w).clean = s.clean := rfl
@[simp] theorem State.setArea_windows (who : Requester) (sub : Nat) (w : Word) : (s.setArea who sub w).windows = s.windows := rfl
@[simp] theorem State.setArea_sporBytes (who : Requester) (sub : Nat) (w : Word) : (s.setArea who sub w).sporBytes = s.sporBytes := rfl
@[simp] theorem State.setArea_sporReads (who : Requester) (sub : Nat) (w : Word) : (s.setArea who sub w).sporReads = s.sporReads := rfl
@[simp] theorem State.setArea_fns (who : Requester) (sub : Nat) (w : Word) : (s.setArea who sub w).fns = s.fns := rfl
@[simp] theorem State.setArea_linkDown (who : Requester) (sub : Nat) (w : Word) : (s.setArea who sub w).linkDown = s.linkDown := rfl
@[simp] theorem State.setArea_out (who : Requester) (sub : Nat) (w : Word) : (s.setArea who sub w).out = s.out := rfl
@[simp] theorem State.setArea_free (who : Requester) (sub : Nat) (w : Word) : (s.setArea who sub w).free = s.free := rfl
@[simp] theorem State.setArea_pending (who : Requester) (sub : Nat) (w : Word) : (s.setArea who sub w).pending = s.pending := rfl
@[simp] theorem State.setArea_recov (who : Requester) (sub : Nat) (w : Word) : (s.setArea who sub w).recov = s.recov := rfl
@[simp] theorem State.setArea_slotWait (who : Requester) (sub : Nat) (w : Word) : (s.setArea who sub w).slotWait = s.slotWait := rfl
@[simp] theorem State.setArea_hbmRows (who : Requester) (sub : Nat) (w : Word) : (s.setArea who sub w).hbmRows = s.hbmRows := rfl
@[simp] theorem State.setArea_hbmCe (who : Requester) (sub : Nat) (w : Word) : (s.setArea who sub w).hbmCe = s.hbmCe := rfl
@[simp] theorem State.setArea_hbmBad (who : Requester) (sub : Nat) (w : Word) : (s.setArea who sub w).hbmBad = s.hbmBad := rfl
@[simp] theorem State.setArea_eccRun (who : Requester) (sub : Nat) (w : Word) : (s.setArea who sub w).eccRun = s.eccRun := rfl
@[simp] theorem State.setArea_copies (who : Requester) (sub : Nat) (w : Word) : (s.setArea who sub w).copies = s.copies := rfl
@[simp] theorem State.setArea_kv (who : Requester) (sub : Nat) (w : Word) : (s.setArea who sub w).kv = s.kv := rfl
@[simp] theorem State.setArea_gens (who : Requester) (sub : Nat) (w : Word) : (s.setArea who sub w).gens = s.gens := rfl
@[simp] theorem State.setArea_seeds (who : Requester) (sub : Nat) (w : Word) : (s.setArea who sub w).seeds = s.seeds := rfl
@[simp] theorem State.setArea_live (who : Requester) (sub : Nat) (w : Word) : (s.setArea who sub w).live = s.live := rfl
@[simp] theorem State.setArea_tb (who : Requester) (sub : Nat) (w : Word) : (s.setArea who sub w).tb = s.tb := rfl
@[simp] theorem State.setArea_slips (who : Requester) (sub : Nat) (w : Word) : (s.setArea who sub w).slips = s.slips := rfl
@[simp] theorem State.setArea_skips (who : Requester) (sub : Nat) (w : Word) : (s.setArea who sub w).skips = s.skips := rfl
@[simp] theorem State.setArea_ports (who : Requester) (sub : Nat) (w : Word) : (s.setArea who sub w).ports = s.ports := rfl
@[simp] theorem State.setArea_qps (who : Requester) (sub : Nat) (w : Word) : (s.setArea who sub w).qps = s.qps := rfl
@[simp] theorem State.setArea_ackMem (who : Requester) (sub : Nat) (w : Word) : (s.setArea who sub w).ackMem = s.ackMem := rfl
@[simp] theorem State.setArea_colls (who : Requester) (sub : Nat) (w : Word) : (s.setArea who sub w).colls = s.colls := rfl
@[simp] theorem State.setArea_boot (who : Requester) (sub : Nat) (w : Word) : (s.setArea who sub w).boot = s.boot := rfl
@[simp] theorem State.setArea_holds (who : Requester) (sub : Nat) (w : Word) : (s.setArea who sub w).holds = s.holds := rfl
@[simp] theorem State.setArea_fcRestarts (who : Requester) (sub : Nat) (w : Word) : (s.setArea who sub w).fcRestarts = s.fcRestarts := rfl
@[simp] theorem State.setArea_fcFailed (who : Requester) (sub : Nat) (w : Word) : (s.setArea who sub w).fcFailed = s.fcFailed := rfl
@[simp] theorem State.setArea_persist (who : Requester) (sub : Nat) (w : Word) : (s.setArea who sub w).persist = s.persist := rfl
@[simp] theorem State.setArea_saving (who : Requester) (sub : Nat) (w : Word) : (s.setArea who sub w).saving = s.saving := rfl
@[simp] theorem State.setArea_mario (who : Requester) (sub : Nat) (w : Word) : (s.setArea who sub w).mario = s.mario := rfl
@[simp] theorem State.setArea_log (who : Requester) (sub : Nat) (w : Word) : (s.setArea who sub w).log = s.log := rfl
@[simp] theorem State.setArea_stop (who : Requester) (sub : Nat) (w : Word) : (s.setArea who sub w).stop = s.stop := rfl
@[simp] theorem State.setArea_rkey (who : Requester) (sub : Nat) (w : Word) : (s.setArea who sub w).rkey = s.rkey := rfl
@[simp] theorem State.setArea_flips (who : Requester) (sub : Nat) (w : Word) : (s.setArea who sub w).flips = s.flips := rfl
@[simp] theorem State.setArea_msc (who : Requester) (sub : Nat) (w : Word) : (s.setArea who sub w).msc = s.msc := rfl
@[simp] theorem State.setArea_scrubDebt (who : Requester) (sub : Nat) (w : Word) : (s.setArea who sub w).scrubDebt = s.scrubDebt := rfl
@[simp] theorem State.setArea_errs (who : Requester) (sub : Nat) (w : Word) : (s.setArea who sub w).errs = s.errs := rfl
@[simp] theorem State.setArea_asSat (who : Requester) (sub : Nat) (w : Word) : (s.setArea who sub w).asSat = s.asSat := rfl
@[simp] theorem State.setArea_sporTurn (who : Requester) (sub : Nat) (w : Word) : (s.setArea who sub w).sporTurn = s.sporTurn := rfl
@[simp] theorem State.setArea_sporNext (who : Requester) (sub : Nat) (w : Word) : (s.setArea who sub w).sporNext = s.sporNext := rfl

/-! ### applied -/

@[simp] theorem State.applied_regs (who : Requester) : (s.applied who).regs = s.regs := by unfold State.applied; rw [State.setArea_regs]
@[simp] theorem State.applied_octs (who : Requester) : (s.applied who).octs = s.octs := by unfold State.applied; rw [State.setArea_octs]
@[simp] theorem State.applied_ls (who : Requester) : (s.applied who).ls = s.ls := by unfold State.applied; rw [State.setArea_ls]
@[simp] theorem State.applied_fs (who : Requester) : (s.applied who).fs = s.fs := by unfold State.applied; rw [State.setArea_fs]
@[simp] theorem State.applied_acc (who : Requester) : (s.applied who).acc = s.acc := by unfold State.applied; rw [State.setArea_acc]
@[simp] theorem State.applied_hbm (who : Requester) : (s.applied who).hbm = s.hbm := by unfold State.applied; rw [State.setArea_hbm]
@[simp] theorem State.applied_coreMap (who : Requester) : (s.applied who).coreMap = s.coreMap := by unfold State.applied; rw [State.setArea_coreMap]
@[simp] theorem State.applied_tlb (who : Requester) : (s.applied who).tlb = s.tlb := by unfold State.applied; rw [State.setArea_tlb]
@[simp] theorem State.applied_mapSyncs (who : Requester) : (s.applied who).mapSyncs = s.mapSyncs := by unfold State.applied; rw [State.setArea_mapSyncs]
@[simp] theorem State.applied_rings (who : Requester) : (s.applied who).rings = s.rings := by unfold State.applied; rw [State.setArea_rings]
@[simp] theorem State.applied_inflight (who : Requester) : (s.applied who).inflight = s.inflight := by unfold State.applied; rw [State.setArea_inflight]
@[simp] theorem State.applied_posted (who : Requester) : (s.applied who).posted = s.posted := by unfold State.applied; rw [State.setArea_posted]
@[simp] theorem State.applied_nextId (who : Requester) : (s.applied who).nextId = s.nextId := by unfold State.applied; rw [State.setArea_nextId]
@[simp] theorem State.applied_runahead (who : Requester) : (s.applied who).runahead = s.runahead := by unfold State.applied; rw [State.setArea_runahead]
@[simp] theorem State.applied_fenceWr (who : Requester) : (s.applied who).fenceWr = s.fenceWr := by unfold State.applied; rw [State.setArea_fenceWr]
@[simp] theorem State.applied_fenceHandle (who : Requester) : (s.applied who).fenceHandle = s.fenceHandle := by unfold State.applied; rw [State.setArea_fenceHandle]
@[simp] theorem State.applied_aborts (who : Requester) : (s.applied who).aborts = s.aborts := by unfold State.applied; rw [State.setArea_aborts]
@[simp] theorem State.applied_zeroing (who : Requester) : (s.applied who).zeroing = s.zeroing := by unfold State.applied; rw [State.setArea_zeroing]
@[simp] theorem State.applied_asTags (who : Requester) : (s.applied who).asTags = s.asTags := by unfold State.applied; rw [State.setArea_asTags]
@[simp] theorem State.applied_granuleQueue (who : Requester) : (s.applied who).granuleQueue = s.granuleQueue := by unfold State.applied; rw [State.setArea_granuleQueue]
@[simp] theorem State.applied_streams (who : Requester) : (s.applied who).streams = s.streams := by unfold State.applied; rw [State.setArea_streams]
@[simp] theorem State.applied_jobs (who : Requester) : (s.applied who).jobs = s.jobs := by unfold State.applied; rw [State.setArea_jobs]
@[simp] theorem State.applied_cuts (who : Requester) : (s.applied who).cuts = s.cuts := by unfold State.applied; rw [State.setArea_cuts]
@[simp] theorem State.applied_clean (who : Requester) : (s.applied who).clean = s.clean := by unfold State.applied; rw [State.setArea_clean]
@[simp] theorem State.applied_windows (who : Requester) : (s.applied who).windows = s.windows := by unfold State.applied; rw [State.setArea_windows]
@[simp] theorem State.applied_sporBytes (who : Requester) : (s.applied who).sporBytes = s.sporBytes := by unfold State.applied; rw [State.setArea_sporBytes]
@[simp] theorem State.applied_sporReads (who : Requester) : (s.applied who).sporReads = s.sporReads := by unfold State.applied; rw [State.setArea_sporReads]
@[simp] theorem State.applied_fns (who : Requester) : (s.applied who).fns = s.fns := by unfold State.applied; rw [State.setArea_fns]
@[simp] theorem State.applied_linkDown (who : Requester) : (s.applied who).linkDown = s.linkDown := by unfold State.applied; rw [State.setArea_linkDown]
@[simp] theorem State.applied_out (who : Requester) : (s.applied who).out = s.out := by unfold State.applied; rw [State.setArea_out]
@[simp] theorem State.applied_free (who : Requester) : (s.applied who).free = s.free := by unfold State.applied; rw [State.setArea_free]
@[simp] theorem State.applied_pending (who : Requester) : (s.applied who).pending = s.pending := by unfold State.applied; rw [State.setArea_pending]
@[simp] theorem State.applied_recov (who : Requester) : (s.applied who).recov = s.recov := by unfold State.applied; rw [State.setArea_recov]
@[simp] theorem State.applied_slotWait (who : Requester) : (s.applied who).slotWait = s.slotWait := by unfold State.applied; rw [State.setArea_slotWait]
@[simp] theorem State.applied_hbmRows (who : Requester) : (s.applied who).hbmRows = s.hbmRows := by unfold State.applied; rw [State.setArea_hbmRows]
@[simp] theorem State.applied_hbmCe (who : Requester) : (s.applied who).hbmCe = s.hbmCe := by unfold State.applied; rw [State.setArea_hbmCe]
@[simp] theorem State.applied_hbmBad (who : Requester) : (s.applied who).hbmBad = s.hbmBad := by unfold State.applied; rw [State.setArea_hbmBad]
@[simp] theorem State.applied_eccRun (who : Requester) : (s.applied who).eccRun = s.eccRun := by unfold State.applied; rw [State.setArea_eccRun]
@[simp] theorem State.applied_copies (who : Requester) : (s.applied who).copies = s.copies := by unfold State.applied; rw [State.setArea_copies]
@[simp] theorem State.applied_kv (who : Requester) : (s.applied who).kv = s.kv := by unfold State.applied; rw [State.setArea_kv]
@[simp] theorem State.applied_gens (who : Requester) : (s.applied who).gens = s.gens := by unfold State.applied; rw [State.setArea_gens]
@[simp] theorem State.applied_seeds (who : Requester) : (s.applied who).seeds = s.seeds := by unfold State.applied; rw [State.setArea_seeds]
@[simp] theorem State.applied_live (who : Requester) : (s.applied who).live = s.live := by unfold State.applied; rw [State.setArea_live]
@[simp] theorem State.applied_tb (who : Requester) : (s.applied who).tb = s.tb := by unfold State.applied; rw [State.setArea_tb]
@[simp] theorem State.applied_slips (who : Requester) : (s.applied who).slips = s.slips := by unfold State.applied; rw [State.setArea_slips]
@[simp] theorem State.applied_skips (who : Requester) : (s.applied who).skips = s.skips := by unfold State.applied; rw [State.setArea_skips]
@[simp] theorem State.applied_ports (who : Requester) : (s.applied who).ports = s.ports := by unfold State.applied; rw [State.setArea_ports]
@[simp] theorem State.applied_qps (who : Requester) : (s.applied who).qps = s.qps := by unfold State.applied; rw [State.setArea_qps]
@[simp] theorem State.applied_ackMem (who : Requester) : (s.applied who).ackMem = s.ackMem := by unfold State.applied; rw [State.setArea_ackMem]
@[simp] theorem State.applied_colls (who : Requester) : (s.applied who).colls = s.colls := by unfold State.applied; rw [State.setArea_colls]
@[simp] theorem State.applied_boot (who : Requester) : (s.applied who).boot = s.boot := by unfold State.applied; rw [State.setArea_boot]
@[simp] theorem State.applied_holds (who : Requester) : (s.applied who).holds = s.holds := by unfold State.applied; rw [State.setArea_holds]
@[simp] theorem State.applied_fcRestarts (who : Requester) : (s.applied who).fcRestarts = s.fcRestarts := by unfold State.applied; rw [State.setArea_fcRestarts]
@[simp] theorem State.applied_fcFailed (who : Requester) : (s.applied who).fcFailed = s.fcFailed := by unfold State.applied; rw [State.setArea_fcFailed]
@[simp] theorem State.applied_persist (who : Requester) : (s.applied who).persist = s.persist := by unfold State.applied; rw [State.setArea_persist]
@[simp] theorem State.applied_saving (who : Requester) : (s.applied who).saving = s.saving := by unfold State.applied; rw [State.setArea_saving]
@[simp] theorem State.applied_mario (who : Requester) : (s.applied who).mario = s.mario := by unfold State.applied; rw [State.setArea_mario]
@[simp] theorem State.applied_log (who : Requester) : (s.applied who).log = s.log := by unfold State.applied; rw [State.setArea_log]
@[simp] theorem State.applied_stop (who : Requester) : (s.applied who).stop = s.stop := by unfold State.applied; rw [State.setArea_stop]
@[simp] theorem State.applied_rkey (who : Requester) : (s.applied who).rkey = s.rkey := by unfold State.applied; rw [State.setArea_rkey]
@[simp] theorem State.applied_flips (who : Requester) : (s.applied who).flips = s.flips := by unfold State.applied; rw [State.setArea_flips]
@[simp] theorem State.applied_msc (who : Requester) : (s.applied who).msc = s.msc := by unfold State.applied; rw [State.setArea_msc]
@[simp] theorem State.applied_scrubDebt (who : Requester) : (s.applied who).scrubDebt = s.scrubDebt := by unfold State.applied; rw [State.setArea_scrubDebt]
@[simp] theorem State.applied_errs (who : Requester) : (s.applied who).errs = s.errs := by unfold State.applied; rw [State.setArea_errs]
@[simp] theorem State.applied_asSat (who : Requester) : (s.applied who).asSat = s.asSat := by unfold State.applied; rw [State.setArea_asSat]
@[simp] theorem State.applied_sporTurn (who : Requester) : (s.applied who).sporTurn = s.sporTurn := by unfold State.applied; rw [State.setArea_sporTurn]
@[simp] theorem State.applied_sporNext (who : Requester) : (s.applied who).sporNext = s.sporNext := by unfold State.applied; rw [State.setArea_sporNext]

/-! ### refuse -/

@[simp] theorem State.refuse_regs (who : Requester) (r : Reason) (idx sub : Nat) : (s.refuse who r idx sub).regs = s.regs := by unfold State.refuse; rw [State.setArea_regs, State.setArea_regs]
@[simp] theorem State.refuse_octs (who : Requester) (r : Reason) (idx sub : Nat) : (s.refuse who r idx sub).octs = s.octs := by unfold State.refuse; rw [State.setArea_octs, State.setArea_octs]
@[simp] theorem State.refuse_ls (who : Requester) (r : Reason) (idx sub : Nat) : (s.refuse who r idx sub).ls = s.ls := by unfold State.refuse; rw [State.setArea_ls, State.setArea_ls]
@[simp] theorem State.refuse_fs (who : Requester) (r : Reason) (idx sub : Nat) : (s.refuse who r idx sub).fs = s.fs := by unfold State.refuse; rw [State.setArea_fs, State.setArea_fs]
@[simp] theorem State.refuse_acc (who : Requester) (r : Reason) (idx sub : Nat) : (s.refuse who r idx sub).acc = s.acc := by unfold State.refuse; rw [State.setArea_acc, State.setArea_acc]
@[simp] theorem State.refuse_hbm (who : Requester) (r : Reason) (idx sub : Nat) : (s.refuse who r idx sub).hbm = s.hbm := by unfold State.refuse; rw [State.setArea_hbm, State.setArea_hbm]
@[simp] theorem State.refuse_coreMap (who : Requester) (r : Reason) (idx sub : Nat) : (s.refuse who r idx sub).coreMap = s.coreMap := by unfold State.refuse; rw [State.setArea_coreMap, State.setArea_coreMap]
@[simp] theorem State.refuse_tlb (who : Requester) (r : Reason) (idx sub : Nat) : (s.refuse who r idx sub).tlb = s.tlb := by unfold State.refuse; rw [State.setArea_tlb, State.setArea_tlb]
@[simp] theorem State.refuse_mapSyncs (who : Requester) (r : Reason) (idx sub : Nat) : (s.refuse who r idx sub).mapSyncs = s.mapSyncs := by unfold State.refuse; rw [State.setArea_mapSyncs, State.setArea_mapSyncs]
@[simp] theorem State.refuse_rings (who : Requester) (r : Reason) (idx sub : Nat) : (s.refuse who r idx sub).rings = s.rings := by unfold State.refuse; rw [State.setArea_rings, State.setArea_rings]
@[simp] theorem State.refuse_inflight (who : Requester) (r : Reason) (idx sub : Nat) : (s.refuse who r idx sub).inflight = s.inflight := by unfold State.refuse; rw [State.setArea_inflight, State.setArea_inflight]
@[simp] theorem State.refuse_posted (who : Requester) (r : Reason) (idx sub : Nat) : (s.refuse who r idx sub).posted = s.posted := by unfold State.refuse; rw [State.setArea_posted, State.setArea_posted]
@[simp] theorem State.refuse_nextId (who : Requester) (r : Reason) (idx sub : Nat) : (s.refuse who r idx sub).nextId = s.nextId := by unfold State.refuse; rw [State.setArea_nextId, State.setArea_nextId]
@[simp] theorem State.refuse_runahead (who : Requester) (r : Reason) (idx sub : Nat) : (s.refuse who r idx sub).runahead = s.runahead := by unfold State.refuse; rw [State.setArea_runahead, State.setArea_runahead]
@[simp] theorem State.refuse_fenceWr (who : Requester) (r : Reason) (idx sub : Nat) : (s.refuse who r idx sub).fenceWr = s.fenceWr := by unfold State.refuse; rw [State.setArea_fenceWr, State.setArea_fenceWr]
@[simp] theorem State.refuse_fenceHandle (who : Requester) (r : Reason) (idx sub : Nat) : (s.refuse who r idx sub).fenceHandle = s.fenceHandle := by unfold State.refuse; rw [State.setArea_fenceHandle, State.setArea_fenceHandle]
@[simp] theorem State.refuse_aborts (who : Requester) (r : Reason) (idx sub : Nat) : (s.refuse who r idx sub).aborts = s.aborts := by unfold State.refuse; rw [State.setArea_aborts, State.setArea_aborts]
@[simp] theorem State.refuse_zeroing (who : Requester) (r : Reason) (idx sub : Nat) : (s.refuse who r idx sub).zeroing = s.zeroing := by unfold State.refuse; rw [State.setArea_zeroing, State.setArea_zeroing]
@[simp] theorem State.refuse_asTags (who : Requester) (r : Reason) (idx sub : Nat) : (s.refuse who r idx sub).asTags = s.asTags := by unfold State.refuse; rw [State.setArea_asTags, State.setArea_asTags]
@[simp] theorem State.refuse_granuleQueue (who : Requester) (r : Reason) (idx sub : Nat) : (s.refuse who r idx sub).granuleQueue = s.granuleQueue := by unfold State.refuse; rw [State.setArea_granuleQueue, State.setArea_granuleQueue]
@[simp] theorem State.refuse_streams (who : Requester) (r : Reason) (idx sub : Nat) : (s.refuse who r idx sub).streams = s.streams := by unfold State.refuse; rw [State.setArea_streams, State.setArea_streams]
@[simp] theorem State.refuse_jobs (who : Requester) (r : Reason) (idx sub : Nat) : (s.refuse who r idx sub).jobs = s.jobs := by unfold State.refuse; rw [State.setArea_jobs, State.setArea_jobs]
@[simp] theorem State.refuse_cuts (who : Requester) (r : Reason) (idx sub : Nat) : (s.refuse who r idx sub).cuts = s.cuts := by unfold State.refuse; rw [State.setArea_cuts, State.setArea_cuts]
@[simp] theorem State.refuse_clean (who : Requester) (r : Reason) (idx sub : Nat) : (s.refuse who r idx sub).clean = s.clean := by unfold State.refuse; rw [State.setArea_clean, State.setArea_clean]
@[simp] theorem State.refuse_windows (who : Requester) (r : Reason) (idx sub : Nat) : (s.refuse who r idx sub).windows = s.windows := by unfold State.refuse; rw [State.setArea_windows, State.setArea_windows]
@[simp] theorem State.refuse_sporBytes (who : Requester) (r : Reason) (idx sub : Nat) : (s.refuse who r idx sub).sporBytes = s.sporBytes := by unfold State.refuse; rw [State.setArea_sporBytes, State.setArea_sporBytes]
@[simp] theorem State.refuse_sporReads (who : Requester) (r : Reason) (idx sub : Nat) : (s.refuse who r idx sub).sporReads = s.sporReads := by unfold State.refuse; rw [State.setArea_sporReads, State.setArea_sporReads]
@[simp] theorem State.refuse_fns (who : Requester) (r : Reason) (idx sub : Nat) : (s.refuse who r idx sub).fns = s.fns := by unfold State.refuse; rw [State.setArea_fns, State.setArea_fns]
@[simp] theorem State.refuse_linkDown (who : Requester) (r : Reason) (idx sub : Nat) : (s.refuse who r idx sub).linkDown = s.linkDown := by unfold State.refuse; rw [State.setArea_linkDown, State.setArea_linkDown]
@[simp] theorem State.refuse_out (who : Requester) (r : Reason) (idx sub : Nat) : (s.refuse who r idx sub).out = s.out := by unfold State.refuse; rw [State.setArea_out, State.setArea_out]
@[simp] theorem State.refuse_free (who : Requester) (r : Reason) (idx sub : Nat) : (s.refuse who r idx sub).free = s.free := by unfold State.refuse; rw [State.setArea_free, State.setArea_free]
@[simp] theorem State.refuse_pending (who : Requester) (r : Reason) (idx sub : Nat) : (s.refuse who r idx sub).pending = s.pending := by unfold State.refuse; rw [State.setArea_pending, State.setArea_pending]
@[simp] theorem State.refuse_recov (who : Requester) (r : Reason) (idx sub : Nat) : (s.refuse who r idx sub).recov = s.recov := by unfold State.refuse; rw [State.setArea_recov, State.setArea_recov]
@[simp] theorem State.refuse_slotWait (who : Requester) (r : Reason) (idx sub : Nat) : (s.refuse who r idx sub).slotWait = s.slotWait := by unfold State.refuse; rw [State.setArea_slotWait, State.setArea_slotWait]
@[simp] theorem State.refuse_hbmRows (who : Requester) (r : Reason) (idx sub : Nat) : (s.refuse who r idx sub).hbmRows = s.hbmRows := by unfold State.refuse; rw [State.setArea_hbmRows, State.setArea_hbmRows]
@[simp] theorem State.refuse_hbmCe (who : Requester) (r : Reason) (idx sub : Nat) : (s.refuse who r idx sub).hbmCe = s.hbmCe := by unfold State.refuse; rw [State.setArea_hbmCe, State.setArea_hbmCe]
@[simp] theorem State.refuse_hbmBad (who : Requester) (r : Reason) (idx sub : Nat) : (s.refuse who r idx sub).hbmBad = s.hbmBad := by unfold State.refuse; rw [State.setArea_hbmBad, State.setArea_hbmBad]
@[simp] theorem State.refuse_eccRun (who : Requester) (r : Reason) (idx sub : Nat) : (s.refuse who r idx sub).eccRun = s.eccRun := by unfold State.refuse; rw [State.setArea_eccRun, State.setArea_eccRun]
@[simp] theorem State.refuse_copies (who : Requester) (r : Reason) (idx sub : Nat) : (s.refuse who r idx sub).copies = s.copies := by unfold State.refuse; rw [State.setArea_copies, State.setArea_copies]
@[simp] theorem State.refuse_kv (who : Requester) (r : Reason) (idx sub : Nat) : (s.refuse who r idx sub).kv = s.kv := by unfold State.refuse; rw [State.setArea_kv, State.setArea_kv]
@[simp] theorem State.refuse_gens (who : Requester) (r : Reason) (idx sub : Nat) : (s.refuse who r idx sub).gens = s.gens := by unfold State.refuse; rw [State.setArea_gens, State.setArea_gens]
@[simp] theorem State.refuse_seeds (who : Requester) (r : Reason) (idx sub : Nat) : (s.refuse who r idx sub).seeds = s.seeds := by unfold State.refuse; rw [State.setArea_seeds, State.setArea_seeds]
@[simp] theorem State.refuse_live (who : Requester) (r : Reason) (idx sub : Nat) : (s.refuse who r idx sub).live = s.live := by unfold State.refuse; rw [State.setArea_live, State.setArea_live]
@[simp] theorem State.refuse_tb (who : Requester) (r : Reason) (idx sub : Nat) : (s.refuse who r idx sub).tb = s.tb := by unfold State.refuse; rw [State.setArea_tb, State.setArea_tb]
@[simp] theorem State.refuse_slips (who : Requester) (r : Reason) (idx sub : Nat) : (s.refuse who r idx sub).slips = s.slips := by unfold State.refuse; rw [State.setArea_slips, State.setArea_slips]
@[simp] theorem State.refuse_skips (who : Requester) (r : Reason) (idx sub : Nat) : (s.refuse who r idx sub).skips = s.skips := by unfold State.refuse; rw [State.setArea_skips, State.setArea_skips]
@[simp] theorem State.refuse_ports (who : Requester) (r : Reason) (idx sub : Nat) : (s.refuse who r idx sub).ports = s.ports := by unfold State.refuse; rw [State.setArea_ports, State.setArea_ports]
@[simp] theorem State.refuse_qps (who : Requester) (r : Reason) (idx sub : Nat) : (s.refuse who r idx sub).qps = s.qps := by unfold State.refuse; rw [State.setArea_qps, State.setArea_qps]
@[simp] theorem State.refuse_ackMem (who : Requester) (r : Reason) (idx sub : Nat) : (s.refuse who r idx sub).ackMem = s.ackMem := by unfold State.refuse; rw [State.setArea_ackMem, State.setArea_ackMem]
@[simp] theorem State.refuse_colls (who : Requester) (r : Reason) (idx sub : Nat) : (s.refuse who r idx sub).colls = s.colls := by unfold State.refuse; rw [State.setArea_colls, State.setArea_colls]
@[simp] theorem State.refuse_boot (who : Requester) (r : Reason) (idx sub : Nat) : (s.refuse who r idx sub).boot = s.boot := by unfold State.refuse; rw [State.setArea_boot, State.setArea_boot]
@[simp] theorem State.refuse_holds (who : Requester) (r : Reason) (idx sub : Nat) : (s.refuse who r idx sub).holds = s.holds := by unfold State.refuse; rw [State.setArea_holds, State.setArea_holds]
@[simp] theorem State.refuse_fcRestarts (who : Requester) (r : Reason) (idx sub : Nat) : (s.refuse who r idx sub).fcRestarts = s.fcRestarts := by unfold State.refuse; rw [State.setArea_fcRestarts, State.setArea_fcRestarts]
@[simp] theorem State.refuse_fcFailed (who : Requester) (r : Reason) (idx sub : Nat) : (s.refuse who r idx sub).fcFailed = s.fcFailed := by unfold State.refuse; rw [State.setArea_fcFailed, State.setArea_fcFailed]
@[simp] theorem State.refuse_persist (who : Requester) (r : Reason) (idx sub : Nat) : (s.refuse who r idx sub).persist = s.persist := by unfold State.refuse; rw [State.setArea_persist, State.setArea_persist]
@[simp] theorem State.refuse_saving (who : Requester) (r : Reason) (idx sub : Nat) : (s.refuse who r idx sub).saving = s.saving := by unfold State.refuse; rw [State.setArea_saving, State.setArea_saving]
@[simp] theorem State.refuse_mario (who : Requester) (r : Reason) (idx sub : Nat) : (s.refuse who r idx sub).mario = s.mario := by unfold State.refuse; rw [State.setArea_mario, State.setArea_mario]
@[simp] theorem State.refuse_log (who : Requester) (r : Reason) (idx sub : Nat) : (s.refuse who r idx sub).log = s.log := by unfold State.refuse; rw [State.setArea_log, State.setArea_log]
@[simp] theorem State.refuse_stop (who : Requester) (r : Reason) (idx sub : Nat) : (s.refuse who r idx sub).stop = s.stop := by unfold State.refuse; rw [State.setArea_stop, State.setArea_stop]
@[simp] theorem State.refuse_rkey (who : Requester) (r : Reason) (idx sub : Nat) : (s.refuse who r idx sub).rkey = s.rkey := by unfold State.refuse; rw [State.setArea_rkey, State.setArea_rkey]
@[simp] theorem State.refuse_flips (who : Requester) (r : Reason) (idx sub : Nat) : (s.refuse who r idx sub).flips = s.flips := by unfold State.refuse; rw [State.setArea_flips, State.setArea_flips]
@[simp] theorem State.refuse_msc (who : Requester) (r : Reason) (idx sub : Nat) : (s.refuse who r idx sub).msc = s.msc := by unfold State.refuse; rw [State.setArea_msc, State.setArea_msc]
@[simp] theorem State.refuse_scrubDebt (who : Requester) (r : Reason) (idx sub : Nat) : (s.refuse who r idx sub).scrubDebt = s.scrubDebt := by unfold State.refuse; rw [State.setArea_scrubDebt, State.setArea_scrubDebt]
@[simp] theorem State.refuse_errs (who : Requester) (r : Reason) (idx sub : Nat) : (s.refuse who r idx sub).errs = s.errs := by unfold State.refuse; rw [State.setArea_errs, State.setArea_errs]
@[simp] theorem State.refuse_asSat (who : Requester) (r : Reason) (idx sub : Nat) : (s.refuse who r idx sub).asSat = s.asSat := by unfold State.refuse; rw [State.setArea_asSat, State.setArea_asSat]
@[simp] theorem State.refuse_sporTurn (who : Requester) (r : Reason) (idx sub : Nat) : (s.refuse who r idx sub).sporTurn = s.sporTurn := by unfold State.refuse; rw [State.setArea_sporTurn, State.setArea_sporTurn]
@[simp] theorem State.refuse_sporNext (who : Requester) (r : Reason) (idx sub : Nat) : (s.refuse who r idx sub).sporNext = s.sporNext := by unfold State.refuse; rw [State.setArea_sporNext, State.setArea_sporNext]

/-! ### emit -/

@[simp] theorem State.emit_regs (o : Output) : (s.emit o).regs = s.regs := rfl
@[simp] theorem State.emit_octs (o : Output) : (s.emit o).octs = s.octs := rfl
@[simp] theorem State.emit_areas (o : Output) : (s.emit o).areas = s.areas := rfl
@[simp] theorem State.emit_ls (o : Output) : (s.emit o).ls = s.ls := rfl
@[simp] theorem State.emit_fs (o : Output) : (s.emit o).fs = s.fs := rfl
@[simp] theorem State.emit_acc (o : Output) : (s.emit o).acc = s.acc := rfl
@[simp] theorem State.emit_hbm (o : Output) : (s.emit o).hbm = s.hbm := rfl
@[simp] theorem State.emit_coreMap (o : Output) : (s.emit o).coreMap = s.coreMap := rfl
@[simp] theorem State.emit_tlb (o : Output) : (s.emit o).tlb = s.tlb := rfl
@[simp] theorem State.emit_mapSyncs (o : Output) : (s.emit o).mapSyncs = s.mapSyncs := rfl
@[simp] theorem State.emit_rings (o : Output) : (s.emit o).rings = s.rings := rfl
@[simp] theorem State.emit_inflight (o : Output) : (s.emit o).inflight = s.inflight := rfl
@[simp] theorem State.emit_posted (o : Output) : (s.emit o).posted = s.posted := rfl
@[simp] theorem State.emit_nextId (o : Output) : (s.emit o).nextId = s.nextId := rfl
@[simp] theorem State.emit_runahead (o : Output) : (s.emit o).runahead = s.runahead := rfl
@[simp] theorem State.emit_fenceWr (o : Output) : (s.emit o).fenceWr = s.fenceWr := rfl
@[simp] theorem State.emit_fenceHandle (o : Output) : (s.emit o).fenceHandle = s.fenceHandle := rfl
@[simp] theorem State.emit_aborts (o : Output) : (s.emit o).aborts = s.aborts := rfl
@[simp] theorem State.emit_zeroing (o : Output) : (s.emit o).zeroing = s.zeroing := rfl
@[simp] theorem State.emit_asTags (o : Output) : (s.emit o).asTags = s.asTags := rfl
@[simp] theorem State.emit_granuleQueue (o : Output) : (s.emit o).granuleQueue = s.granuleQueue := rfl
@[simp] theorem State.emit_streams (o : Output) : (s.emit o).streams = s.streams := rfl
@[simp] theorem State.emit_jobs (o : Output) : (s.emit o).jobs = s.jobs := rfl
@[simp] theorem State.emit_cuts (o : Output) : (s.emit o).cuts = s.cuts := rfl
@[simp] theorem State.emit_clean (o : Output) : (s.emit o).clean = s.clean := rfl
@[simp] theorem State.emit_windows (o : Output) : (s.emit o).windows = s.windows := rfl
@[simp] theorem State.emit_sporBytes (o : Output) : (s.emit o).sporBytes = s.sporBytes := rfl
@[simp] theorem State.emit_sporReads (o : Output) : (s.emit o).sporReads = s.sporReads := rfl
@[simp] theorem State.emit_fns (o : Output) : (s.emit o).fns = s.fns := rfl
@[simp] theorem State.emit_linkDown (o : Output) : (s.emit o).linkDown = s.linkDown := rfl
@[simp] theorem State.emit_free (o : Output) : (s.emit o).free = s.free := rfl
@[simp] theorem State.emit_pending (o : Output) : (s.emit o).pending = s.pending := rfl
@[simp] theorem State.emit_recov (o : Output) : (s.emit o).recov = s.recov := rfl
@[simp] theorem State.emit_slotWait (o : Output) : (s.emit o).slotWait = s.slotWait := rfl
@[simp] theorem State.emit_hbmRows (o : Output) : (s.emit o).hbmRows = s.hbmRows := rfl
@[simp] theorem State.emit_hbmCe (o : Output) : (s.emit o).hbmCe = s.hbmCe := rfl
@[simp] theorem State.emit_hbmBad (o : Output) : (s.emit o).hbmBad = s.hbmBad := rfl
@[simp] theorem State.emit_eccRun (o : Output) : (s.emit o).eccRun = s.eccRun := rfl
@[simp] theorem State.emit_copies (o : Output) : (s.emit o).copies = s.copies := rfl
@[simp] theorem State.emit_kv (o : Output) : (s.emit o).kv = s.kv := rfl
@[simp] theorem State.emit_gens (o : Output) : (s.emit o).gens = s.gens := rfl
@[simp] theorem State.emit_seeds (o : Output) : (s.emit o).seeds = s.seeds := rfl
@[simp] theorem State.emit_live (o : Output) : (s.emit o).live = s.live := rfl
@[simp] theorem State.emit_tb (o : Output) : (s.emit o).tb = s.tb := rfl
@[simp] theorem State.emit_slips (o : Output) : (s.emit o).slips = s.slips := rfl
@[simp] theorem State.emit_skips (o : Output) : (s.emit o).skips = s.skips := rfl
@[simp] theorem State.emit_ports (o : Output) : (s.emit o).ports = s.ports := rfl
@[simp] theorem State.emit_qps (o : Output) : (s.emit o).qps = s.qps := rfl
@[simp] theorem State.emit_ackMem (o : Output) : (s.emit o).ackMem = s.ackMem := rfl
@[simp] theorem State.emit_colls (o : Output) : (s.emit o).colls = s.colls := rfl
@[simp] theorem State.emit_boot (o : Output) : (s.emit o).boot = s.boot := rfl
@[simp] theorem State.emit_holds (o : Output) : (s.emit o).holds = s.holds := rfl
@[simp] theorem State.emit_fcRestarts (o : Output) : (s.emit o).fcRestarts = s.fcRestarts := rfl
@[simp] theorem State.emit_fcFailed (o : Output) : (s.emit o).fcFailed = s.fcFailed := rfl
@[simp] theorem State.emit_persist (o : Output) : (s.emit o).persist = s.persist := rfl
@[simp] theorem State.emit_saving (o : Output) : (s.emit o).saving = s.saving := rfl
@[simp] theorem State.emit_mario (o : Output) : (s.emit o).mario = s.mario := rfl
@[simp] theorem State.emit_log (o : Output) : (s.emit o).log = s.log := rfl
@[simp] theorem State.emit_stop (o : Output) : (s.emit o).stop = s.stop := rfl
@[simp] theorem State.emit_rkey (o : Output) : (s.emit o).rkey = s.rkey := rfl
@[simp] theorem State.emit_flips (o : Output) : (s.emit o).flips = s.flips := rfl
@[simp] theorem State.emit_msc (o : Output) : (s.emit o).msc = s.msc := rfl
@[simp] theorem State.emit_scrubDebt (o : Output) : (s.emit o).scrubDebt = s.scrubDebt := rfl
@[simp] theorem State.emit_errs (o : Output) : (s.emit o).errs = s.errs := rfl
@[simp] theorem State.emit_asSat (o : Output) : (s.emit o).asSat = s.asSat := rfl
@[simp] theorem State.emit_sporTurn (o : Output) : (s.emit o).sporTurn = s.sporTurn := rfl
@[simp] theorem State.emit_sporNext (o : Output) : (s.emit o).sporNext = s.sporNext := rfl

/-! ### takeFree -/

@[simp] theorem State.takeFree_regs : (s.takeFree).regs = s.regs := rfl
@[simp] theorem State.takeFree_octs : (s.takeFree).octs = s.octs := rfl
@[simp] theorem State.takeFree_areas : (s.takeFree).areas = s.areas := rfl
@[simp] theorem State.takeFree_ls : (s.takeFree).ls = s.ls := rfl
@[simp] theorem State.takeFree_fs : (s.takeFree).fs = s.fs := rfl
@[simp] theorem State.takeFree_acc : (s.takeFree).acc = s.acc := rfl
@[simp] theorem State.takeFree_hbm : (s.takeFree).hbm = s.hbm := rfl
@[simp] theorem State.takeFree_coreMap : (s.takeFree).coreMap = s.coreMap := rfl
@[simp] theorem State.takeFree_tlb : (s.takeFree).tlb = s.tlb := rfl
@[simp] theorem State.takeFree_mapSyncs : (s.takeFree).mapSyncs = s.mapSyncs := rfl
@[simp] theorem State.takeFree_rings : (s.takeFree).rings = s.rings := rfl
@[simp] theorem State.takeFree_inflight : (s.takeFree).inflight = s.inflight := rfl
@[simp] theorem State.takeFree_posted : (s.takeFree).posted = s.posted := rfl
@[simp] theorem State.takeFree_nextId : (s.takeFree).nextId = s.nextId := rfl
@[simp] theorem State.takeFree_runahead : (s.takeFree).runahead = s.runahead := rfl
@[simp] theorem State.takeFree_fenceWr : (s.takeFree).fenceWr = s.fenceWr := rfl
@[simp] theorem State.takeFree_fenceHandle : (s.takeFree).fenceHandle = s.fenceHandle := rfl
@[simp] theorem State.takeFree_aborts : (s.takeFree).aborts = s.aborts := rfl
@[simp] theorem State.takeFree_zeroing : (s.takeFree).zeroing = s.zeroing := rfl
@[simp] theorem State.takeFree_asTags : (s.takeFree).asTags = s.asTags := rfl
@[simp] theorem State.takeFree_granuleQueue : (s.takeFree).granuleQueue = s.granuleQueue := rfl
@[simp] theorem State.takeFree_streams : (s.takeFree).streams = s.streams := rfl
@[simp] theorem State.takeFree_jobs : (s.takeFree).jobs = s.jobs := rfl
@[simp] theorem State.takeFree_cuts : (s.takeFree).cuts = s.cuts := rfl
@[simp] theorem State.takeFree_clean : (s.takeFree).clean = s.clean := rfl
@[simp] theorem State.takeFree_windows : (s.takeFree).windows = s.windows := rfl
@[simp] theorem State.takeFree_sporBytes : (s.takeFree).sporBytes = s.sporBytes := rfl
@[simp] theorem State.takeFree_sporReads : (s.takeFree).sporReads = s.sporReads := rfl
@[simp] theorem State.takeFree_fns : (s.takeFree).fns = s.fns := rfl
@[simp] theorem State.takeFree_linkDown : (s.takeFree).linkDown = s.linkDown := rfl
@[simp] theorem State.takeFree_out : (s.takeFree).out = s.out := rfl
@[simp] theorem State.takeFree_pending : (s.takeFree).pending = s.pending := rfl
@[simp] theorem State.takeFree_recov : (s.takeFree).recov = s.recov := rfl
@[simp] theorem State.takeFree_slotWait : (s.takeFree).slotWait = s.slotWait := rfl
@[simp] theorem State.takeFree_hbmRows : (s.takeFree).hbmRows = s.hbmRows := rfl
@[simp] theorem State.takeFree_hbmCe : (s.takeFree).hbmCe = s.hbmCe := rfl
@[simp] theorem State.takeFree_hbmBad : (s.takeFree).hbmBad = s.hbmBad := rfl
@[simp] theorem State.takeFree_eccRun : (s.takeFree).eccRun = s.eccRun := rfl
@[simp] theorem State.takeFree_copies : (s.takeFree).copies = s.copies := rfl
@[simp] theorem State.takeFree_kv : (s.takeFree).kv = s.kv := rfl
@[simp] theorem State.takeFree_gens : (s.takeFree).gens = s.gens := rfl
@[simp] theorem State.takeFree_seeds : (s.takeFree).seeds = s.seeds := rfl
@[simp] theorem State.takeFree_live : (s.takeFree).live = s.live := rfl
@[simp] theorem State.takeFree_tb : (s.takeFree).tb = s.tb := rfl
@[simp] theorem State.takeFree_slips : (s.takeFree).slips = s.slips := rfl
@[simp] theorem State.takeFree_skips : (s.takeFree).skips = s.skips := rfl
@[simp] theorem State.takeFree_ports : (s.takeFree).ports = s.ports := rfl
@[simp] theorem State.takeFree_qps : (s.takeFree).qps = s.qps := rfl
@[simp] theorem State.takeFree_ackMem : (s.takeFree).ackMem = s.ackMem := rfl
@[simp] theorem State.takeFree_colls : (s.takeFree).colls = s.colls := rfl
@[simp] theorem State.takeFree_boot : (s.takeFree).boot = s.boot := rfl
@[simp] theorem State.takeFree_holds : (s.takeFree).holds = s.holds := rfl
@[simp] theorem State.takeFree_fcRestarts : (s.takeFree).fcRestarts = s.fcRestarts := rfl
@[simp] theorem State.takeFree_fcFailed : (s.takeFree).fcFailed = s.fcFailed := rfl
@[simp] theorem State.takeFree_persist : (s.takeFree).persist = s.persist := rfl
@[simp] theorem State.takeFree_saving : (s.takeFree).saving = s.saving := rfl
@[simp] theorem State.takeFree_mario : (s.takeFree).mario = s.mario := rfl
@[simp] theorem State.takeFree_log : (s.takeFree).log = s.log := rfl
@[simp] theorem State.takeFree_stop : (s.takeFree).stop = s.stop := rfl
@[simp] theorem State.takeFree_rkey : (s.takeFree).rkey = s.rkey := rfl
@[simp] theorem State.takeFree_flips : (s.takeFree).flips = s.flips := rfl
@[simp] theorem State.takeFree_msc : (s.takeFree).msc = s.msc := rfl
@[simp] theorem State.takeFree_scrubDebt : (s.takeFree).scrubDebt = s.scrubDebt := rfl
@[simp] theorem State.takeFree_errs : (s.takeFree).errs = s.errs := rfl
@[simp] theorem State.takeFree_asSat : (s.takeFree).asSat = s.asSat := rfl
@[simp] theorem State.takeFree_sporTurn : (s.takeFree).sporTurn = s.sporTurn := rfl
@[simp] theorem State.takeFree_sporNext : (s.takeFree).sporNext = s.sporNext := rfl

/-! ### setFn -/

@[simp] theorem State.setFn_regs (f : Nat) (v : FnSt) : (s.setFn f v).regs = s.regs := rfl
@[simp] theorem State.setFn_octs (f : Nat) (v : FnSt) : (s.setFn f v).octs = s.octs := rfl
@[simp] theorem State.setFn_areas (f : Nat) (v : FnSt) : (s.setFn f v).areas = s.areas := rfl
@[simp] theorem State.setFn_ls (f : Nat) (v : FnSt) : (s.setFn f v).ls = s.ls := rfl
@[simp] theorem State.setFn_fs (f : Nat) (v : FnSt) : (s.setFn f v).fs = s.fs := rfl
@[simp] theorem State.setFn_acc (f : Nat) (v : FnSt) : (s.setFn f v).acc = s.acc := rfl
@[simp] theorem State.setFn_hbm (f : Nat) (v : FnSt) : (s.setFn f v).hbm = s.hbm := rfl
@[simp] theorem State.setFn_coreMap (f : Nat) (v : FnSt) : (s.setFn f v).coreMap = s.coreMap := rfl
@[simp] theorem State.setFn_tlb (f : Nat) (v : FnSt) : (s.setFn f v).tlb = s.tlb := rfl
@[simp] theorem State.setFn_mapSyncs (f : Nat) (v : FnSt) : (s.setFn f v).mapSyncs = s.mapSyncs := rfl
@[simp] theorem State.setFn_rings (f : Nat) (v : FnSt) : (s.setFn f v).rings = s.rings := rfl
@[simp] theorem State.setFn_inflight (f : Nat) (v : FnSt) : (s.setFn f v).inflight = s.inflight := rfl
@[simp] theorem State.setFn_posted (f : Nat) (v : FnSt) : (s.setFn f v).posted = s.posted := rfl
@[simp] theorem State.setFn_nextId (f : Nat) (v : FnSt) : (s.setFn f v).nextId = s.nextId := rfl
@[simp] theorem State.setFn_runahead (f : Nat) (v : FnSt) : (s.setFn f v).runahead = s.runahead := rfl
@[simp] theorem State.setFn_fenceWr (f : Nat) (v : FnSt) : (s.setFn f v).fenceWr = s.fenceWr := rfl
@[simp] theorem State.setFn_fenceHandle (f : Nat) (v : FnSt) : (s.setFn f v).fenceHandle = s.fenceHandle := rfl
@[simp] theorem State.setFn_aborts (f : Nat) (v : FnSt) : (s.setFn f v).aborts = s.aborts := rfl
@[simp] theorem State.setFn_zeroing (f : Nat) (v : FnSt) : (s.setFn f v).zeroing = s.zeroing := rfl
@[simp] theorem State.setFn_asTags (f : Nat) (v : FnSt) : (s.setFn f v).asTags = s.asTags := rfl
@[simp] theorem State.setFn_granuleQueue (f : Nat) (v : FnSt) : (s.setFn f v).granuleQueue = s.granuleQueue := rfl
@[simp] theorem State.setFn_streams (f : Nat) (v : FnSt) : (s.setFn f v).streams = s.streams := rfl
@[simp] theorem State.setFn_jobs (f : Nat) (v : FnSt) : (s.setFn f v).jobs = s.jobs := rfl
@[simp] theorem State.setFn_cuts (f : Nat) (v : FnSt) : (s.setFn f v).cuts = s.cuts := rfl
@[simp] theorem State.setFn_clean (f : Nat) (v : FnSt) : (s.setFn f v).clean = s.clean := rfl
@[simp] theorem State.setFn_windows (f : Nat) (v : FnSt) : (s.setFn f v).windows = s.windows := rfl
@[simp] theorem State.setFn_sporBytes (f : Nat) (v : FnSt) : (s.setFn f v).sporBytes = s.sporBytes := rfl
@[simp] theorem State.setFn_sporReads (f : Nat) (v : FnSt) : (s.setFn f v).sporReads = s.sporReads := rfl
@[simp] theorem State.setFn_linkDown (f : Nat) (v : FnSt) : (s.setFn f v).linkDown = s.linkDown := rfl
@[simp] theorem State.setFn_out (f : Nat) (v : FnSt) : (s.setFn f v).out = s.out := rfl
@[simp] theorem State.setFn_free (f : Nat) (v : FnSt) : (s.setFn f v).free = s.free := rfl
@[simp] theorem State.setFn_pending (f : Nat) (v : FnSt) : (s.setFn f v).pending = s.pending := rfl
@[simp] theorem State.setFn_recov (f : Nat) (v : FnSt) : (s.setFn f v).recov = s.recov := rfl
@[simp] theorem State.setFn_slotWait (f : Nat) (v : FnSt) : (s.setFn f v).slotWait = s.slotWait := rfl
@[simp] theorem State.setFn_hbmRows (f : Nat) (v : FnSt) : (s.setFn f v).hbmRows = s.hbmRows := rfl
@[simp] theorem State.setFn_hbmCe (f : Nat) (v : FnSt) : (s.setFn f v).hbmCe = s.hbmCe := rfl
@[simp] theorem State.setFn_hbmBad (f : Nat) (v : FnSt) : (s.setFn f v).hbmBad = s.hbmBad := rfl
@[simp] theorem State.setFn_eccRun (f : Nat) (v : FnSt) : (s.setFn f v).eccRun = s.eccRun := rfl
@[simp] theorem State.setFn_copies (f : Nat) (v : FnSt) : (s.setFn f v).copies = s.copies := rfl
@[simp] theorem State.setFn_kv (f : Nat) (v : FnSt) : (s.setFn f v).kv = s.kv := rfl
@[simp] theorem State.setFn_gens (f : Nat) (v : FnSt) : (s.setFn f v).gens = s.gens := rfl
@[simp] theorem State.setFn_seeds (f : Nat) (v : FnSt) : (s.setFn f v).seeds = s.seeds := rfl
@[simp] theorem State.setFn_live (f : Nat) (v : FnSt) : (s.setFn f v).live = s.live := rfl
@[simp] theorem State.setFn_tb (f : Nat) (v : FnSt) : (s.setFn f v).tb = s.tb := rfl
@[simp] theorem State.setFn_slips (f : Nat) (v : FnSt) : (s.setFn f v).slips = s.slips := rfl
@[simp] theorem State.setFn_skips (f : Nat) (v : FnSt) : (s.setFn f v).skips = s.skips := rfl
@[simp] theorem State.setFn_ports (f : Nat) (v : FnSt) : (s.setFn f v).ports = s.ports := rfl
@[simp] theorem State.setFn_qps (f : Nat) (v : FnSt) : (s.setFn f v).qps = s.qps := rfl
@[simp] theorem State.setFn_ackMem (f : Nat) (v : FnSt) : (s.setFn f v).ackMem = s.ackMem := rfl
@[simp] theorem State.setFn_colls (f : Nat) (v : FnSt) : (s.setFn f v).colls = s.colls := rfl
@[simp] theorem State.setFn_boot (f : Nat) (v : FnSt) : (s.setFn f v).boot = s.boot := rfl
@[simp] theorem State.setFn_holds (f : Nat) (v : FnSt) : (s.setFn f v).holds = s.holds := rfl
@[simp] theorem State.setFn_fcRestarts (f : Nat) (v : FnSt) : (s.setFn f v).fcRestarts = s.fcRestarts := rfl
@[simp] theorem State.setFn_fcFailed (f : Nat) (v : FnSt) : (s.setFn f v).fcFailed = s.fcFailed := rfl
@[simp] theorem State.setFn_persist (f : Nat) (v : FnSt) : (s.setFn f v).persist = s.persist := rfl
@[simp] theorem State.setFn_saving (f : Nat) (v : FnSt) : (s.setFn f v).saving = s.saving := rfl
@[simp] theorem State.setFn_mario (f : Nat) (v : FnSt) : (s.setFn f v).mario = s.mario := rfl
@[simp] theorem State.setFn_log (f : Nat) (v : FnSt) : (s.setFn f v).log = s.log := rfl
@[simp] theorem State.setFn_stop (f : Nat) (v : FnSt) : (s.setFn f v).stop = s.stop := rfl
@[simp] theorem State.setFn_rkey (f : Nat) (v : FnSt) : (s.setFn f v).rkey = s.rkey := rfl
@[simp] theorem State.setFn_flips (f : Nat) (v : FnSt) : (s.setFn f v).flips = s.flips := rfl
@[simp] theorem State.setFn_msc (f : Nat) (v : FnSt) : (s.setFn f v).msc = s.msc := rfl
@[simp] theorem State.setFn_scrubDebt (f : Nat) (v : FnSt) : (s.setFn f v).scrubDebt = s.scrubDebt := rfl
@[simp] theorem State.setFn_errs (f : Nat) (v : FnSt) : (s.setFn f v).errs = s.errs := rfl
@[simp] theorem State.setFn_asSat (f : Nat) (v : FnSt) : (s.setFn f v).asSat = s.asSat := rfl
@[simp] theorem State.setFn_sporTurn (f : Nat) (v : FnSt) : (s.setFn f v).sporTurn = s.sporTurn := rfl
@[simp] theorem State.setFn_sporNext (f : Nat) (v : FnSt) : (s.setFn f v).sporNext = s.sporNext := rfl

/-! ### setRing -/

@[simp] theorem State.setRing_regs (r : Nat) (v : RingSt) : (s.setRing r v).regs = s.regs := rfl
@[simp] theorem State.setRing_octs (r : Nat) (v : RingSt) : (s.setRing r v).octs = s.octs := rfl
@[simp] theorem State.setRing_areas (r : Nat) (v : RingSt) : (s.setRing r v).areas = s.areas := rfl
@[simp] theorem State.setRing_ls (r : Nat) (v : RingSt) : (s.setRing r v).ls = s.ls := rfl
@[simp] theorem State.setRing_fs (r : Nat) (v : RingSt) : (s.setRing r v).fs = s.fs := rfl
@[simp] theorem State.setRing_acc (r : Nat) (v : RingSt) : (s.setRing r v).acc = s.acc := rfl
@[simp] theorem State.setRing_hbm (r : Nat) (v : RingSt) : (s.setRing r v).hbm = s.hbm := rfl
@[simp] theorem State.setRing_coreMap (r : Nat) (v : RingSt) : (s.setRing r v).coreMap = s.coreMap := rfl
@[simp] theorem State.setRing_tlb (r : Nat) (v : RingSt) : (s.setRing r v).tlb = s.tlb := rfl
@[simp] theorem State.setRing_mapSyncs (r : Nat) (v : RingSt) : (s.setRing r v).mapSyncs = s.mapSyncs := rfl
@[simp] theorem State.setRing_inflight (r : Nat) (v : RingSt) : (s.setRing r v).inflight = s.inflight := rfl
@[simp] theorem State.setRing_posted (r : Nat) (v : RingSt) : (s.setRing r v).posted = s.posted := rfl
@[simp] theorem State.setRing_nextId (r : Nat) (v : RingSt) : (s.setRing r v).nextId = s.nextId := rfl
@[simp] theorem State.setRing_runahead (r : Nat) (v : RingSt) : (s.setRing r v).runahead = s.runahead := rfl
@[simp] theorem State.setRing_fenceWr (r : Nat) (v : RingSt) : (s.setRing r v).fenceWr = s.fenceWr := rfl
@[simp] theorem State.setRing_fenceHandle (r : Nat) (v : RingSt) : (s.setRing r v).fenceHandle = s.fenceHandle := rfl
@[simp] theorem State.setRing_aborts (r : Nat) (v : RingSt) : (s.setRing r v).aborts = s.aborts := rfl
@[simp] theorem State.setRing_zeroing (r : Nat) (v : RingSt) : (s.setRing r v).zeroing = s.zeroing := rfl
@[simp] theorem State.setRing_asTags (r : Nat) (v : RingSt) : (s.setRing r v).asTags = s.asTags := rfl
@[simp] theorem State.setRing_granuleQueue (r : Nat) (v : RingSt) : (s.setRing r v).granuleQueue = s.granuleQueue := rfl
@[simp] theorem State.setRing_streams (r : Nat) (v : RingSt) : (s.setRing r v).streams = s.streams := rfl
@[simp] theorem State.setRing_jobs (r : Nat) (v : RingSt) : (s.setRing r v).jobs = s.jobs := rfl
@[simp] theorem State.setRing_cuts (r : Nat) (v : RingSt) : (s.setRing r v).cuts = s.cuts := rfl
@[simp] theorem State.setRing_clean (r : Nat) (v : RingSt) : (s.setRing r v).clean = s.clean := rfl
@[simp] theorem State.setRing_windows (r : Nat) (v : RingSt) : (s.setRing r v).windows = s.windows := rfl
@[simp] theorem State.setRing_sporBytes (r : Nat) (v : RingSt) : (s.setRing r v).sporBytes = s.sporBytes := rfl
@[simp] theorem State.setRing_sporReads (r : Nat) (v : RingSt) : (s.setRing r v).sporReads = s.sporReads := rfl
@[simp] theorem State.setRing_fns (r : Nat) (v : RingSt) : (s.setRing r v).fns = s.fns := rfl
@[simp] theorem State.setRing_linkDown (r : Nat) (v : RingSt) : (s.setRing r v).linkDown = s.linkDown := rfl
@[simp] theorem State.setRing_out (r : Nat) (v : RingSt) : (s.setRing r v).out = s.out := rfl
@[simp] theorem State.setRing_free (r : Nat) (v : RingSt) : (s.setRing r v).free = s.free := rfl
@[simp] theorem State.setRing_pending (r : Nat) (v : RingSt) : (s.setRing r v).pending = s.pending := rfl
@[simp] theorem State.setRing_recov (r : Nat) (v : RingSt) : (s.setRing r v).recov = s.recov := rfl
@[simp] theorem State.setRing_slotWait (r : Nat) (v : RingSt) : (s.setRing r v).slotWait = s.slotWait := rfl
@[simp] theorem State.setRing_hbmRows (r : Nat) (v : RingSt) : (s.setRing r v).hbmRows = s.hbmRows := rfl
@[simp] theorem State.setRing_hbmCe (r : Nat) (v : RingSt) : (s.setRing r v).hbmCe = s.hbmCe := rfl
@[simp] theorem State.setRing_hbmBad (r : Nat) (v : RingSt) : (s.setRing r v).hbmBad = s.hbmBad := rfl
@[simp] theorem State.setRing_eccRun (r : Nat) (v : RingSt) : (s.setRing r v).eccRun = s.eccRun := rfl
@[simp] theorem State.setRing_copies (r : Nat) (v : RingSt) : (s.setRing r v).copies = s.copies := rfl
@[simp] theorem State.setRing_kv (r : Nat) (v : RingSt) : (s.setRing r v).kv = s.kv := rfl
@[simp] theorem State.setRing_gens (r : Nat) (v : RingSt) : (s.setRing r v).gens = s.gens := rfl
@[simp] theorem State.setRing_seeds (r : Nat) (v : RingSt) : (s.setRing r v).seeds = s.seeds := rfl
@[simp] theorem State.setRing_live (r : Nat) (v : RingSt) : (s.setRing r v).live = s.live := rfl
@[simp] theorem State.setRing_tb (r : Nat) (v : RingSt) : (s.setRing r v).tb = s.tb := rfl
@[simp] theorem State.setRing_slips (r : Nat) (v : RingSt) : (s.setRing r v).slips = s.slips := rfl
@[simp] theorem State.setRing_skips (r : Nat) (v : RingSt) : (s.setRing r v).skips = s.skips := rfl
@[simp] theorem State.setRing_ports (r : Nat) (v : RingSt) : (s.setRing r v).ports = s.ports := rfl
@[simp] theorem State.setRing_qps (r : Nat) (v : RingSt) : (s.setRing r v).qps = s.qps := rfl
@[simp] theorem State.setRing_ackMem (r : Nat) (v : RingSt) : (s.setRing r v).ackMem = s.ackMem := rfl
@[simp] theorem State.setRing_colls (r : Nat) (v : RingSt) : (s.setRing r v).colls = s.colls := rfl
@[simp] theorem State.setRing_boot (r : Nat) (v : RingSt) : (s.setRing r v).boot = s.boot := rfl
@[simp] theorem State.setRing_holds (r : Nat) (v : RingSt) : (s.setRing r v).holds = s.holds := rfl
@[simp] theorem State.setRing_fcRestarts (r : Nat) (v : RingSt) : (s.setRing r v).fcRestarts = s.fcRestarts := rfl
@[simp] theorem State.setRing_fcFailed (r : Nat) (v : RingSt) : (s.setRing r v).fcFailed = s.fcFailed := rfl
@[simp] theorem State.setRing_persist (r : Nat) (v : RingSt) : (s.setRing r v).persist = s.persist := rfl
@[simp] theorem State.setRing_saving (r : Nat) (v : RingSt) : (s.setRing r v).saving = s.saving := rfl
@[simp] theorem State.setRing_mario (r : Nat) (v : RingSt) : (s.setRing r v).mario = s.mario := rfl
@[simp] theorem State.setRing_log (r : Nat) (v : RingSt) : (s.setRing r v).log = s.log := rfl
@[simp] theorem State.setRing_stop (r : Nat) (v : RingSt) : (s.setRing r v).stop = s.stop := rfl
@[simp] theorem State.setRing_rkey (r : Nat) (v : RingSt) : (s.setRing r v).rkey = s.rkey := rfl
@[simp] theorem State.setRing_flips (r : Nat) (v : RingSt) : (s.setRing r v).flips = s.flips := rfl
@[simp] theorem State.setRing_msc (r : Nat) (v : RingSt) : (s.setRing r v).msc = s.msc := rfl
@[simp] theorem State.setRing_scrubDebt (r : Nat) (v : RingSt) : (s.setRing r v).scrubDebt = s.scrubDebt := rfl
@[simp] theorem State.setRing_errs (r : Nat) (v : RingSt) : (s.setRing r v).errs = s.errs := rfl
@[simp] theorem State.setRing_asSat (r : Nat) (v : RingSt) : (s.setRing r v).asSat = s.asSat := rfl
@[simp] theorem State.setRing_sporTurn (r : Nat) (v : RingSt) : (s.setRing r v).sporTurn = s.sporTurn := rfl
@[simp] theorem State.setRing_sporNext (r : Nat) (v : RingSt) : (s.setRing r v).sporNext = s.sporNext := rfl

/-! ### modDesc -/

@[simp] theorem State.modDesc_regs (id : Nat) (f : Desc → Desc) : (s.modDesc id f).regs = s.regs := rfl
@[simp] theorem State.modDesc_octs (id : Nat) (f : Desc → Desc) : (s.modDesc id f).octs = s.octs := rfl
@[simp] theorem State.modDesc_areas (id : Nat) (f : Desc → Desc) : (s.modDesc id f).areas = s.areas := rfl
@[simp] theorem State.modDesc_ls (id : Nat) (f : Desc → Desc) : (s.modDesc id f).ls = s.ls := rfl
@[simp] theorem State.modDesc_fs (id : Nat) (f : Desc → Desc) : (s.modDesc id f).fs = s.fs := rfl
@[simp] theorem State.modDesc_acc (id : Nat) (f : Desc → Desc) : (s.modDesc id f).acc = s.acc := rfl
@[simp] theorem State.modDesc_hbm (id : Nat) (f : Desc → Desc) : (s.modDesc id f).hbm = s.hbm := rfl
@[simp] theorem State.modDesc_coreMap (id : Nat) (f : Desc → Desc) : (s.modDesc id f).coreMap = s.coreMap := rfl
@[simp] theorem State.modDesc_tlb (id : Nat) (f : Desc → Desc) : (s.modDesc id f).tlb = s.tlb := rfl
@[simp] theorem State.modDesc_mapSyncs (id : Nat) (f : Desc → Desc) : (s.modDesc id f).mapSyncs = s.mapSyncs := rfl
@[simp] theorem State.modDesc_rings (id : Nat) (f : Desc → Desc) : (s.modDesc id f).rings = s.rings := rfl
@[simp] theorem State.modDesc_posted (id : Nat) (f : Desc → Desc) : (s.modDesc id f).posted = s.posted := rfl
@[simp] theorem State.modDesc_nextId (id : Nat) (f : Desc → Desc) : (s.modDesc id f).nextId = s.nextId := rfl
@[simp] theorem State.modDesc_runahead (id : Nat) (f : Desc → Desc) : (s.modDesc id f).runahead = s.runahead := rfl
@[simp] theorem State.modDesc_fenceWr (id : Nat) (f : Desc → Desc) : (s.modDesc id f).fenceWr = s.fenceWr := rfl
@[simp] theorem State.modDesc_fenceHandle (id : Nat) (f : Desc → Desc) : (s.modDesc id f).fenceHandle = s.fenceHandle := rfl
@[simp] theorem State.modDesc_aborts (id : Nat) (f : Desc → Desc) : (s.modDesc id f).aborts = s.aborts := rfl
@[simp] theorem State.modDesc_zeroing (id : Nat) (f : Desc → Desc) : (s.modDesc id f).zeroing = s.zeroing := rfl
@[simp] theorem State.modDesc_asTags (id : Nat) (f : Desc → Desc) : (s.modDesc id f).asTags = s.asTags := rfl
@[simp] theorem State.modDesc_granuleQueue (id : Nat) (f : Desc → Desc) : (s.modDesc id f).granuleQueue = s.granuleQueue := rfl
@[simp] theorem State.modDesc_streams (id : Nat) (f : Desc → Desc) : (s.modDesc id f).streams = s.streams := rfl
@[simp] theorem State.modDesc_jobs (id : Nat) (f : Desc → Desc) : (s.modDesc id f).jobs = s.jobs := rfl
@[simp] theorem State.modDesc_cuts (id : Nat) (f : Desc → Desc) : (s.modDesc id f).cuts = s.cuts := rfl
@[simp] theorem State.modDesc_clean (id : Nat) (f : Desc → Desc) : (s.modDesc id f).clean = s.clean := rfl
@[simp] theorem State.modDesc_windows (id : Nat) (f : Desc → Desc) : (s.modDesc id f).windows = s.windows := rfl
@[simp] theorem State.modDesc_sporBytes (id : Nat) (f : Desc → Desc) : (s.modDesc id f).sporBytes = s.sporBytes := rfl
@[simp] theorem State.modDesc_sporReads (id : Nat) (f : Desc → Desc) : (s.modDesc id f).sporReads = s.sporReads := rfl
@[simp] theorem State.modDesc_fns (id : Nat) (f : Desc → Desc) : (s.modDesc id f).fns = s.fns := rfl
@[simp] theorem State.modDesc_linkDown (id : Nat) (f : Desc → Desc) : (s.modDesc id f).linkDown = s.linkDown := rfl
@[simp] theorem State.modDesc_out (id : Nat) (f : Desc → Desc) : (s.modDesc id f).out = s.out := rfl
@[simp] theorem State.modDesc_free (id : Nat) (f : Desc → Desc) : (s.modDesc id f).free = s.free := rfl
@[simp] theorem State.modDesc_pending (id : Nat) (f : Desc → Desc) : (s.modDesc id f).pending = s.pending := rfl
@[simp] theorem State.modDesc_recov (id : Nat) (f : Desc → Desc) : (s.modDesc id f).recov = s.recov := rfl
@[simp] theorem State.modDesc_slotWait (id : Nat) (f : Desc → Desc) : (s.modDesc id f).slotWait = s.slotWait := rfl
@[simp] theorem State.modDesc_hbmRows (id : Nat) (f : Desc → Desc) : (s.modDesc id f).hbmRows = s.hbmRows := rfl
@[simp] theorem State.modDesc_hbmCe (id : Nat) (f : Desc → Desc) : (s.modDesc id f).hbmCe = s.hbmCe := rfl
@[simp] theorem State.modDesc_hbmBad (id : Nat) (f : Desc → Desc) : (s.modDesc id f).hbmBad = s.hbmBad := rfl
@[simp] theorem State.modDesc_eccRun (id : Nat) (f : Desc → Desc) : (s.modDesc id f).eccRun = s.eccRun := rfl
@[simp] theorem State.modDesc_copies (id : Nat) (f : Desc → Desc) : (s.modDesc id f).copies = s.copies := rfl
@[simp] theorem State.modDesc_kv (id : Nat) (f : Desc → Desc) : (s.modDesc id f).kv = s.kv := rfl
@[simp] theorem State.modDesc_gens (id : Nat) (f : Desc → Desc) : (s.modDesc id f).gens = s.gens := rfl
@[simp] theorem State.modDesc_seeds (id : Nat) (f : Desc → Desc) : (s.modDesc id f).seeds = s.seeds := rfl
@[simp] theorem State.modDesc_live (id : Nat) (f : Desc → Desc) : (s.modDesc id f).live = s.live := rfl
@[simp] theorem State.modDesc_tb (id : Nat) (f : Desc → Desc) : (s.modDesc id f).tb = s.tb := rfl
@[simp] theorem State.modDesc_slips (id : Nat) (f : Desc → Desc) : (s.modDesc id f).slips = s.slips := rfl
@[simp] theorem State.modDesc_skips (id : Nat) (f : Desc → Desc) : (s.modDesc id f).skips = s.skips := rfl
@[simp] theorem State.modDesc_ports (id : Nat) (f : Desc → Desc) : (s.modDesc id f).ports = s.ports := rfl
@[simp] theorem State.modDesc_qps (id : Nat) (f : Desc → Desc) : (s.modDesc id f).qps = s.qps := rfl
@[simp] theorem State.modDesc_ackMem (id : Nat) (f : Desc → Desc) : (s.modDesc id f).ackMem = s.ackMem := rfl
@[simp] theorem State.modDesc_colls (id : Nat) (f : Desc → Desc) : (s.modDesc id f).colls = s.colls := rfl
@[simp] theorem State.modDesc_boot (id : Nat) (f : Desc → Desc) : (s.modDesc id f).boot = s.boot := rfl
@[simp] theorem State.modDesc_holds (id : Nat) (f : Desc → Desc) : (s.modDesc id f).holds = s.holds := rfl
@[simp] theorem State.modDesc_fcRestarts (id : Nat) (f : Desc → Desc) : (s.modDesc id f).fcRestarts = s.fcRestarts := rfl
@[simp] theorem State.modDesc_fcFailed (id : Nat) (f : Desc → Desc) : (s.modDesc id f).fcFailed = s.fcFailed := rfl
@[simp] theorem State.modDesc_persist (id : Nat) (f : Desc → Desc) : (s.modDesc id f).persist = s.persist := rfl
@[simp] theorem State.modDesc_saving (id : Nat) (f : Desc → Desc) : (s.modDesc id f).saving = s.saving := rfl
@[simp] theorem State.modDesc_mario (id : Nat) (f : Desc → Desc) : (s.modDesc id f).mario = s.mario := rfl
@[simp] theorem State.modDesc_log (id : Nat) (f : Desc → Desc) : (s.modDesc id f).log = s.log := rfl
@[simp] theorem State.modDesc_stop (id : Nat) (f : Desc → Desc) : (s.modDesc id f).stop = s.stop := rfl
@[simp] theorem State.modDesc_rkey (id : Nat) (f : Desc → Desc) : (s.modDesc id f).rkey = s.rkey := rfl
@[simp] theorem State.modDesc_flips (id : Nat) (f : Desc → Desc) : (s.modDesc id f).flips = s.flips := rfl
@[simp] theorem State.modDesc_msc (id : Nat) (f : Desc → Desc) : (s.modDesc id f).msc = s.msc := rfl
@[simp] theorem State.modDesc_scrubDebt (id : Nat) (f : Desc → Desc) : (s.modDesc id f).scrubDebt = s.scrubDebt := rfl
@[simp] theorem State.modDesc_errs (id : Nat) (f : Desc → Desc) : (s.modDesc id f).errs = s.errs := rfl
@[simp] theorem State.modDesc_asSat (id : Nat) (f : Desc → Desc) : (s.modDesc id f).asSat = s.asSat := rfl
@[simp] theorem State.modDesc_sporTurn (id : Nat) (f : Desc → Desc) : (s.modDesc id f).sporTurn = s.sporTurn := rfl
@[simp] theorem State.modDesc_sporNext (id : Nat) (f : Desc → Desc) : (s.modDesc id f).sporNext = s.sporNext := rfl

/-! ### endDesc -/

@[simp] theorem State.endDesc_regs (id st : Nat) : (s.endDesc id st).regs = s.regs := rfl
@[simp] theorem State.endDesc_octs (id st : Nat) : (s.endDesc id st).octs = s.octs := rfl
@[simp] theorem State.endDesc_areas (id st : Nat) : (s.endDesc id st).areas = s.areas := rfl
@[simp] theorem State.endDesc_ls (id st : Nat) : (s.endDesc id st).ls = s.ls := rfl
@[simp] theorem State.endDesc_fs (id st : Nat) : (s.endDesc id st).fs = s.fs := rfl
@[simp] theorem State.endDesc_acc (id st : Nat) : (s.endDesc id st).acc = s.acc := rfl
@[simp] theorem State.endDesc_hbm (id st : Nat) : (s.endDesc id st).hbm = s.hbm := rfl
@[simp] theorem State.endDesc_coreMap (id st : Nat) : (s.endDesc id st).coreMap = s.coreMap := rfl
@[simp] theorem State.endDesc_tlb (id st : Nat) : (s.endDesc id st).tlb = s.tlb := rfl
@[simp] theorem State.endDesc_mapSyncs (id st : Nat) : (s.endDesc id st).mapSyncs = s.mapSyncs := rfl
@[simp] theorem State.endDesc_rings (id st : Nat) : (s.endDesc id st).rings = s.rings := rfl
@[simp] theorem State.endDesc_posted (id st : Nat) : (s.endDesc id st).posted = s.posted := rfl
@[simp] theorem State.endDesc_nextId (id st : Nat) : (s.endDesc id st).nextId = s.nextId := rfl
@[simp] theorem State.endDesc_runahead (id st : Nat) : (s.endDesc id st).runahead = s.runahead := rfl
@[simp] theorem State.endDesc_fenceWr (id st : Nat) : (s.endDesc id st).fenceWr = s.fenceWr := rfl
@[simp] theorem State.endDesc_fenceHandle (id st : Nat) : (s.endDesc id st).fenceHandle = s.fenceHandle := rfl
@[simp] theorem State.endDesc_aborts (id st : Nat) : (s.endDesc id st).aborts = s.aborts := rfl
@[simp] theorem State.endDesc_zeroing (id st : Nat) : (s.endDesc id st).zeroing = s.zeroing := rfl
@[simp] theorem State.endDesc_asTags (id st : Nat) : (s.endDesc id st).asTags = s.asTags := rfl
@[simp] theorem State.endDesc_granuleQueue (id st : Nat) : (s.endDesc id st).granuleQueue = s.granuleQueue := rfl
@[simp] theorem State.endDesc_streams (id st : Nat) : (s.endDesc id st).streams = s.streams := rfl
@[simp] theorem State.endDesc_jobs (id st : Nat) : (s.endDesc id st).jobs = s.jobs := rfl
@[simp] theorem State.endDesc_cuts (id st : Nat) : (s.endDesc id st).cuts = s.cuts := rfl
@[simp] theorem State.endDesc_clean (id st : Nat) : (s.endDesc id st).clean = s.clean := rfl
@[simp] theorem State.endDesc_windows (id st : Nat) : (s.endDesc id st).windows = s.windows := rfl
@[simp] theorem State.endDesc_sporBytes (id st : Nat) : (s.endDesc id st).sporBytes = s.sporBytes := rfl
@[simp] theorem State.endDesc_sporReads (id st : Nat) : (s.endDesc id st).sporReads = s.sporReads := rfl
@[simp] theorem State.endDesc_fns (id st : Nat) : (s.endDesc id st).fns = s.fns := rfl
@[simp] theorem State.endDesc_linkDown (id st : Nat) : (s.endDesc id st).linkDown = s.linkDown := rfl
@[simp] theorem State.endDesc_out (id st : Nat) : (s.endDesc id st).out = s.out := rfl
@[simp] theorem State.endDesc_free (id st : Nat) : (s.endDesc id st).free = s.free := rfl
@[simp] theorem State.endDesc_pending (id st : Nat) : (s.endDesc id st).pending = s.pending := rfl
@[simp] theorem State.endDesc_recov (id st : Nat) : (s.endDesc id st).recov = s.recov := rfl
@[simp] theorem State.endDesc_slotWait (id st : Nat) : (s.endDesc id st).slotWait = s.slotWait := rfl
@[simp] theorem State.endDesc_hbmRows (id st : Nat) : (s.endDesc id st).hbmRows = s.hbmRows := rfl
@[simp] theorem State.endDesc_hbmCe (id st : Nat) : (s.endDesc id st).hbmCe = s.hbmCe := rfl
@[simp] theorem State.endDesc_hbmBad (id st : Nat) : (s.endDesc id st).hbmBad = s.hbmBad := rfl
@[simp] theorem State.endDesc_eccRun (id st : Nat) : (s.endDesc id st).eccRun = s.eccRun := rfl
@[simp] theorem State.endDesc_copies (id st : Nat) : (s.endDesc id st).copies = s.copies := rfl
@[simp] theorem State.endDesc_kv (id st : Nat) : (s.endDesc id st).kv = s.kv := rfl
@[simp] theorem State.endDesc_gens (id st : Nat) : (s.endDesc id st).gens = s.gens := rfl
@[simp] theorem State.endDesc_seeds (id st : Nat) : (s.endDesc id st).seeds = s.seeds := rfl
@[simp] theorem State.endDesc_live (id st : Nat) : (s.endDesc id st).live = s.live := rfl
@[simp] theorem State.endDesc_tb (id st : Nat) : (s.endDesc id st).tb = s.tb := rfl
@[simp] theorem State.endDesc_slips (id st : Nat) : (s.endDesc id st).slips = s.slips := rfl
@[simp] theorem State.endDesc_skips (id st : Nat) : (s.endDesc id st).skips = s.skips := rfl
@[simp] theorem State.endDesc_ports (id st : Nat) : (s.endDesc id st).ports = s.ports := rfl
@[simp] theorem State.endDesc_qps (id st : Nat) : (s.endDesc id st).qps = s.qps := rfl
@[simp] theorem State.endDesc_ackMem (id st : Nat) : (s.endDesc id st).ackMem = s.ackMem := rfl
@[simp] theorem State.endDesc_colls (id st : Nat) : (s.endDesc id st).colls = s.colls := rfl
@[simp] theorem State.endDesc_boot (id st : Nat) : (s.endDesc id st).boot = s.boot := rfl
@[simp] theorem State.endDesc_holds (id st : Nat) : (s.endDesc id st).holds = s.holds := rfl
@[simp] theorem State.endDesc_fcRestarts (id st : Nat) : (s.endDesc id st).fcRestarts = s.fcRestarts := rfl
@[simp] theorem State.endDesc_fcFailed (id st : Nat) : (s.endDesc id st).fcFailed = s.fcFailed := rfl
@[simp] theorem State.endDesc_persist (id st : Nat) : (s.endDesc id st).persist = s.persist := rfl
@[simp] theorem State.endDesc_saving (id st : Nat) : (s.endDesc id st).saving = s.saving := rfl
@[simp] theorem State.endDesc_mario (id st : Nat) : (s.endDesc id st).mario = s.mario := rfl
@[simp] theorem State.endDesc_log (id st : Nat) : (s.endDesc id st).log = s.log := rfl
@[simp] theorem State.endDesc_stop (id st : Nat) : (s.endDesc id st).stop = s.stop := rfl
@[simp] theorem State.endDesc_rkey (id st : Nat) : (s.endDesc id st).rkey = s.rkey := rfl
@[simp] theorem State.endDesc_flips (id st : Nat) : (s.endDesc id st).flips = s.flips := rfl
@[simp] theorem State.endDesc_msc (id st : Nat) : (s.endDesc id st).msc = s.msc := rfl
@[simp] theorem State.endDesc_scrubDebt (id st : Nat) : (s.endDesc id st).scrubDebt = s.scrubDebt := rfl
@[simp] theorem State.endDesc_errs (id st : Nat) : (s.endDesc id st).errs = s.errs := rfl
@[simp] theorem State.endDesc_asSat (id st : Nat) : (s.endDesc id st).asSat = s.asSat := rfl
@[simp] theorem State.endDesc_sporTurn (id st : Nat) : (s.endDesc id st).sporTurn = s.sporTurn := rfl
@[simp] theorem State.endDesc_sporNext (id st : Nat) : (s.endDesc id st).sporNext = s.sporNext := rfl

/-! ### setCut -/

@[simp] theorem State.setCut_regs (p : Nat) (c : CutSt) : (s.setCut p c).regs = s.regs := rfl
@[simp] theorem State.setCut_octs (p : Nat) (c : CutSt) : (s.setCut p c).octs = s.octs := rfl
@[simp] theorem State.setCut_areas (p : Nat) (c : CutSt) : (s.setCut p c).areas = s.areas := rfl
@[simp] theorem State.setCut_ls (p : Nat) (c : CutSt) : (s.setCut p c).ls = s.ls := rfl
@[simp] theorem State.setCut_fs (p : Nat) (c : CutSt) : (s.setCut p c).fs = s.fs := rfl
@[simp] theorem State.setCut_acc (p : Nat) (c : CutSt) : (s.setCut p c).acc = s.acc := rfl
@[simp] theorem State.setCut_hbm (p : Nat) (c : CutSt) : (s.setCut p c).hbm = s.hbm := rfl
@[simp] theorem State.setCut_coreMap (p : Nat) (c : CutSt) : (s.setCut p c).coreMap = s.coreMap := rfl
@[simp] theorem State.setCut_tlb (p : Nat) (c : CutSt) : (s.setCut p c).tlb = s.tlb := rfl
@[simp] theorem State.setCut_mapSyncs (p : Nat) (c : CutSt) : (s.setCut p c).mapSyncs = s.mapSyncs := rfl
@[simp] theorem State.setCut_rings (p : Nat) (c : CutSt) : (s.setCut p c).rings = s.rings := rfl
@[simp] theorem State.setCut_inflight (p : Nat) (c : CutSt) : (s.setCut p c).inflight = s.inflight := rfl
@[simp] theorem State.setCut_posted (p : Nat) (c : CutSt) : (s.setCut p c).posted = s.posted := rfl
@[simp] theorem State.setCut_nextId (p : Nat) (c : CutSt) : (s.setCut p c).nextId = s.nextId := rfl
@[simp] theorem State.setCut_runahead (p : Nat) (c : CutSt) : (s.setCut p c).runahead = s.runahead := rfl
@[simp] theorem State.setCut_fenceWr (p : Nat) (c : CutSt) : (s.setCut p c).fenceWr = s.fenceWr := rfl
@[simp] theorem State.setCut_fenceHandle (p : Nat) (c : CutSt) : (s.setCut p c).fenceHandle = s.fenceHandle := rfl
@[simp] theorem State.setCut_aborts (p : Nat) (c : CutSt) : (s.setCut p c).aborts = s.aborts := rfl
@[simp] theorem State.setCut_zeroing (p : Nat) (c : CutSt) : (s.setCut p c).zeroing = s.zeroing := rfl
@[simp] theorem State.setCut_asTags (p : Nat) (c : CutSt) : (s.setCut p c).asTags = s.asTags := rfl
@[simp] theorem State.setCut_granuleQueue (p : Nat) (c : CutSt) : (s.setCut p c).granuleQueue = s.granuleQueue := rfl
@[simp] theorem State.setCut_streams (p : Nat) (c : CutSt) : (s.setCut p c).streams = s.streams := rfl
@[simp] theorem State.setCut_jobs (p : Nat) (c : CutSt) : (s.setCut p c).jobs = s.jobs := rfl
@[simp] theorem State.setCut_clean (p : Nat) (c : CutSt) : (s.setCut p c).clean = s.clean := rfl
@[simp] theorem State.setCut_windows (p : Nat) (c : CutSt) : (s.setCut p c).windows = s.windows := rfl
@[simp] theorem State.setCut_sporBytes (p : Nat) (c : CutSt) : (s.setCut p c).sporBytes = s.sporBytes := rfl
@[simp] theorem State.setCut_sporReads (p : Nat) (c : CutSt) : (s.setCut p c).sporReads = s.sporReads := rfl
@[simp] theorem State.setCut_fns (p : Nat) (c : CutSt) : (s.setCut p c).fns = s.fns := rfl
@[simp] theorem State.setCut_linkDown (p : Nat) (c : CutSt) : (s.setCut p c).linkDown = s.linkDown := rfl
@[simp] theorem State.setCut_out (p : Nat) (c : CutSt) : (s.setCut p c).out = s.out := rfl
@[simp] theorem State.setCut_free (p : Nat) (c : CutSt) : (s.setCut p c).free = s.free := rfl
@[simp] theorem State.setCut_pending (p : Nat) (c : CutSt) : (s.setCut p c).pending = s.pending := rfl
@[simp] theorem State.setCut_recov (p : Nat) (c : CutSt) : (s.setCut p c).recov = s.recov := rfl
@[simp] theorem State.setCut_slotWait (p : Nat) (c : CutSt) : (s.setCut p c).slotWait = s.slotWait := rfl
@[simp] theorem State.setCut_hbmRows (p : Nat) (c : CutSt) : (s.setCut p c).hbmRows = s.hbmRows := rfl
@[simp] theorem State.setCut_hbmCe (p : Nat) (c : CutSt) : (s.setCut p c).hbmCe = s.hbmCe := rfl
@[simp] theorem State.setCut_hbmBad (p : Nat) (c : CutSt) : (s.setCut p c).hbmBad = s.hbmBad := rfl
@[simp] theorem State.setCut_eccRun (p : Nat) (c : CutSt) : (s.setCut p c).eccRun = s.eccRun := rfl
@[simp] theorem State.setCut_copies (p : Nat) (c : CutSt) : (s.setCut p c).copies = s.copies := rfl
@[simp] theorem State.setCut_kv (p : Nat) (c : CutSt) : (s.setCut p c).kv = s.kv := rfl
@[simp] theorem State.setCut_gens (p : Nat) (c : CutSt) : (s.setCut p c).gens = s.gens := rfl
@[simp] theorem State.setCut_seeds (p : Nat) (c : CutSt) : (s.setCut p c).seeds = s.seeds := rfl
@[simp] theorem State.setCut_live (p : Nat) (c : CutSt) : (s.setCut p c).live = s.live := rfl
@[simp] theorem State.setCut_tb (p : Nat) (c : CutSt) : (s.setCut p c).tb = s.tb := rfl
@[simp] theorem State.setCut_slips (p : Nat) (c : CutSt) : (s.setCut p c).slips = s.slips := rfl
@[simp] theorem State.setCut_skips (p : Nat) (c : CutSt) : (s.setCut p c).skips = s.skips := rfl
@[simp] theorem State.setCut_ports (p : Nat) (c : CutSt) : (s.setCut p c).ports = s.ports := rfl
@[simp] theorem State.setCut_qps (p : Nat) (c : CutSt) : (s.setCut p c).qps = s.qps := rfl
@[simp] theorem State.setCut_ackMem (p : Nat) (c : CutSt) : (s.setCut p c).ackMem = s.ackMem := rfl
@[simp] theorem State.setCut_colls (p : Nat) (c : CutSt) : (s.setCut p c).colls = s.colls := rfl
@[simp] theorem State.setCut_boot (p : Nat) (c : CutSt) : (s.setCut p c).boot = s.boot := rfl
@[simp] theorem State.setCut_holds (p : Nat) (c : CutSt) : (s.setCut p c).holds = s.holds := rfl
@[simp] theorem State.setCut_fcRestarts (p : Nat) (c : CutSt) : (s.setCut p c).fcRestarts = s.fcRestarts := rfl
@[simp] theorem State.setCut_fcFailed (p : Nat) (c : CutSt) : (s.setCut p c).fcFailed = s.fcFailed := rfl
@[simp] theorem State.setCut_persist (p : Nat) (c : CutSt) : (s.setCut p c).persist = s.persist := rfl
@[simp] theorem State.setCut_saving (p : Nat) (c : CutSt) : (s.setCut p c).saving = s.saving := rfl
@[simp] theorem State.setCut_mario (p : Nat) (c : CutSt) : (s.setCut p c).mario = s.mario := rfl
@[simp] theorem State.setCut_log (p : Nat) (c : CutSt) : (s.setCut p c).log = s.log := rfl
@[simp] theorem State.setCut_stop (p : Nat) (c : CutSt) : (s.setCut p c).stop = s.stop := rfl
@[simp] theorem State.setCut_rkey (p : Nat) (c : CutSt) : (s.setCut p c).rkey = s.rkey := rfl
@[simp] theorem State.setCut_flips (p : Nat) (c : CutSt) : (s.setCut p c).flips = s.flips := rfl
@[simp] theorem State.setCut_msc (p : Nat) (c : CutSt) : (s.setCut p c).msc = s.msc := rfl
@[simp] theorem State.setCut_scrubDebt (p : Nat) (c : CutSt) : (s.setCut p c).scrubDebt = s.scrubDebt := rfl
@[simp] theorem State.setCut_errs (p : Nat) (c : CutSt) : (s.setCut p c).errs = s.errs := rfl
@[simp] theorem State.setCut_asSat (p : Nat) (c : CutSt) : (s.setCut p c).asSat = s.asSat := rfl
@[simp] theorem State.setCut_sporTurn (p : Nat) (c : CutSt) : (s.setCut p c).sporTurn = s.sporTurn := rfl
@[simp] theorem State.setCut_sporNext (p : Nat) (c : CutSt) : (s.setCut p c).sporNext = s.sporNext := rfl

/-! ### setStream -/

@[simp] theorem State.setStream_regs (i : Nat) (v : StreamSt) : (s.setStream i v).regs = s.regs := rfl
@[simp] theorem State.setStream_octs (i : Nat) (v : StreamSt) : (s.setStream i v).octs = s.octs := rfl
@[simp] theorem State.setStream_areas (i : Nat) (v : StreamSt) : (s.setStream i v).areas = s.areas := rfl
@[simp] theorem State.setStream_ls (i : Nat) (v : StreamSt) : (s.setStream i v).ls = s.ls := rfl
@[simp] theorem State.setStream_fs (i : Nat) (v : StreamSt) : (s.setStream i v).fs = s.fs := rfl
@[simp] theorem State.setStream_acc (i : Nat) (v : StreamSt) : (s.setStream i v).acc = s.acc := rfl
@[simp] theorem State.setStream_hbm (i : Nat) (v : StreamSt) : (s.setStream i v).hbm = s.hbm := rfl
@[simp] theorem State.setStream_coreMap (i : Nat) (v : StreamSt) : (s.setStream i v).coreMap = s.coreMap := rfl
@[simp] theorem State.setStream_tlb (i : Nat) (v : StreamSt) : (s.setStream i v).tlb = s.tlb := rfl
@[simp] theorem State.setStream_mapSyncs (i : Nat) (v : StreamSt) : (s.setStream i v).mapSyncs = s.mapSyncs := rfl
@[simp] theorem State.setStream_rings (i : Nat) (v : StreamSt) : (s.setStream i v).rings = s.rings := rfl
@[simp] theorem State.setStream_inflight (i : Nat) (v : StreamSt) : (s.setStream i v).inflight = s.inflight := rfl
@[simp] theorem State.setStream_posted (i : Nat) (v : StreamSt) : (s.setStream i v).posted = s.posted := rfl
@[simp] theorem State.setStream_nextId (i : Nat) (v : StreamSt) : (s.setStream i v).nextId = s.nextId := rfl
@[simp] theorem State.setStream_runahead (i : Nat) (v : StreamSt) : (s.setStream i v).runahead = s.runahead := rfl
@[simp] theorem State.setStream_fenceWr (i : Nat) (v : StreamSt) : (s.setStream i v).fenceWr = s.fenceWr := rfl
@[simp] theorem State.setStream_fenceHandle (i : Nat) (v : StreamSt) : (s.setStream i v).fenceHandle = s.fenceHandle := rfl
@[simp] theorem State.setStream_aborts (i : Nat) (v : StreamSt) : (s.setStream i v).aborts = s.aborts := rfl
@[simp] theorem State.setStream_zeroing (i : Nat) (v : StreamSt) : (s.setStream i v).zeroing = s.zeroing := rfl
@[simp] theorem State.setStream_asTags (i : Nat) (v : StreamSt) : (s.setStream i v).asTags = s.asTags := rfl
@[simp] theorem State.setStream_granuleQueue (i : Nat) (v : StreamSt) : (s.setStream i v).granuleQueue = s.granuleQueue := rfl
@[simp] theorem State.setStream_jobs (i : Nat) (v : StreamSt) : (s.setStream i v).jobs = s.jobs := rfl
@[simp] theorem State.setStream_cuts (i : Nat) (v : StreamSt) : (s.setStream i v).cuts = s.cuts := rfl
@[simp] theorem State.setStream_clean (i : Nat) (v : StreamSt) : (s.setStream i v).clean = s.clean := rfl
@[simp] theorem State.setStream_windows (i : Nat) (v : StreamSt) : (s.setStream i v).windows = s.windows := rfl
@[simp] theorem State.setStream_sporBytes (i : Nat) (v : StreamSt) : (s.setStream i v).sporBytes = s.sporBytes := rfl
@[simp] theorem State.setStream_sporReads (i : Nat) (v : StreamSt) : (s.setStream i v).sporReads = s.sporReads := rfl
@[simp] theorem State.setStream_fns (i : Nat) (v : StreamSt) : (s.setStream i v).fns = s.fns := rfl
@[simp] theorem State.setStream_linkDown (i : Nat) (v : StreamSt) : (s.setStream i v).linkDown = s.linkDown := rfl
@[simp] theorem State.setStream_out (i : Nat) (v : StreamSt) : (s.setStream i v).out = s.out := rfl
@[simp] theorem State.setStream_free (i : Nat) (v : StreamSt) : (s.setStream i v).free = s.free := rfl
@[simp] theorem State.setStream_pending (i : Nat) (v : StreamSt) : (s.setStream i v).pending = s.pending := rfl
@[simp] theorem State.setStream_recov (i : Nat) (v : StreamSt) : (s.setStream i v).recov = s.recov := rfl
@[simp] theorem State.setStream_slotWait (i : Nat) (v : StreamSt) : (s.setStream i v).slotWait = s.slotWait := rfl
@[simp] theorem State.setStream_hbmRows (i : Nat) (v : StreamSt) : (s.setStream i v).hbmRows = s.hbmRows := rfl
@[simp] theorem State.setStream_hbmCe (i : Nat) (v : StreamSt) : (s.setStream i v).hbmCe = s.hbmCe := rfl
@[simp] theorem State.setStream_hbmBad (i : Nat) (v : StreamSt) : (s.setStream i v).hbmBad = s.hbmBad := rfl
@[simp] theorem State.setStream_eccRun (i : Nat) (v : StreamSt) : (s.setStream i v).eccRun = s.eccRun := rfl
@[simp] theorem State.setStream_copies (i : Nat) (v : StreamSt) : (s.setStream i v).copies = s.copies := rfl
@[simp] theorem State.setStream_kv (i : Nat) (v : StreamSt) : (s.setStream i v).kv = s.kv := rfl
@[simp] theorem State.setStream_gens (i : Nat) (v : StreamSt) : (s.setStream i v).gens = s.gens := rfl
@[simp] theorem State.setStream_seeds (i : Nat) (v : StreamSt) : (s.setStream i v).seeds = s.seeds := rfl
@[simp] theorem State.setStream_live (i : Nat) (v : StreamSt) : (s.setStream i v).live = s.live := rfl
@[simp] theorem State.setStream_tb (i : Nat) (v : StreamSt) : (s.setStream i v).tb = s.tb := rfl
@[simp] theorem State.setStream_slips (i : Nat) (v : StreamSt) : (s.setStream i v).slips = s.slips := rfl
@[simp] theorem State.setStream_skips (i : Nat) (v : StreamSt) : (s.setStream i v).skips = s.skips := rfl
@[simp] theorem State.setStream_ports (i : Nat) (v : StreamSt) : (s.setStream i v).ports = s.ports := rfl
@[simp] theorem State.setStream_qps (i : Nat) (v : StreamSt) : (s.setStream i v).qps = s.qps := rfl
@[simp] theorem State.setStream_ackMem (i : Nat) (v : StreamSt) : (s.setStream i v).ackMem = s.ackMem := rfl
@[simp] theorem State.setStream_colls (i : Nat) (v : StreamSt) : (s.setStream i v).colls = s.colls := rfl
@[simp] theorem State.setStream_boot (i : Nat) (v : StreamSt) : (s.setStream i v).boot = s.boot := rfl
@[simp] theorem State.setStream_holds (i : Nat) (v : StreamSt) : (s.setStream i v).holds = s.holds := rfl
@[simp] theorem State.setStream_fcRestarts (i : Nat) (v : StreamSt) : (s.setStream i v).fcRestarts = s.fcRestarts := rfl
@[simp] theorem State.setStream_fcFailed (i : Nat) (v : StreamSt) : (s.setStream i v).fcFailed = s.fcFailed := rfl
@[simp] theorem State.setStream_persist (i : Nat) (v : StreamSt) : (s.setStream i v).persist = s.persist := rfl
@[simp] theorem State.setStream_saving (i : Nat) (v : StreamSt) : (s.setStream i v).saving = s.saving := rfl
@[simp] theorem State.setStream_mario (i : Nat) (v : StreamSt) : (s.setStream i v).mario = s.mario := rfl
@[simp] theorem State.setStream_log (i : Nat) (v : StreamSt) : (s.setStream i v).log = s.log := rfl
@[simp] theorem State.setStream_stop (i : Nat) (v : StreamSt) : (s.setStream i v).stop = s.stop := rfl
@[simp] theorem State.setStream_rkey (i : Nat) (v : StreamSt) : (s.setStream i v).rkey = s.rkey := rfl
@[simp] theorem State.setStream_flips (i : Nat) (v : StreamSt) : (s.setStream i v).flips = s.flips := rfl
@[simp] theorem State.setStream_msc (i : Nat) (v : StreamSt) : (s.setStream i v).msc = s.msc := rfl
@[simp] theorem State.setStream_scrubDebt (i : Nat) (v : StreamSt) : (s.setStream i v).scrubDebt = s.scrubDebt := rfl
@[simp] theorem State.setStream_errs (i : Nat) (v : StreamSt) : (s.setStream i v).errs = s.errs := rfl
@[simp] theorem State.setStream_asSat (i : Nat) (v : StreamSt) : (s.setStream i v).asSat = s.asSat := rfl
@[simp] theorem State.setStream_sporTurn (i : Nat) (v : StreamSt) : (s.setStream i v).sporTurn = s.sporTurn := rfl
@[simp] theorem State.setStream_sporNext (i : Nat) (v : StreamSt) : (s.setStream i v).sporNext = s.sporNext := rfl

/-! ### setWin -/

@[simp] theorem State.setWin_regs (i : Nat) (v : WinSt) : (s.setWin i v).regs = s.regs := rfl
@[simp] theorem State.setWin_octs (i : Nat) (v : WinSt) : (s.setWin i v).octs = s.octs := rfl
@[simp] theorem State.setWin_areas (i : Nat) (v : WinSt) : (s.setWin i v).areas = s.areas := rfl
@[simp] theorem State.setWin_ls (i : Nat) (v : WinSt) : (s.setWin i v).ls = s.ls := rfl
@[simp] theorem State.setWin_fs (i : Nat) (v : WinSt) : (s.setWin i v).fs = s.fs := rfl
@[simp] theorem State.setWin_acc (i : Nat) (v : WinSt) : (s.setWin i v).acc = s.acc := rfl
@[simp] theorem State.setWin_hbm (i : Nat) (v : WinSt) : (s.setWin i v).hbm = s.hbm := rfl
@[simp] theorem State.setWin_coreMap (i : Nat) (v : WinSt) : (s.setWin i v).coreMap = s.coreMap := rfl
@[simp] theorem State.setWin_tlb (i : Nat) (v : WinSt) : (s.setWin i v).tlb = s.tlb := rfl
@[simp] theorem State.setWin_mapSyncs (i : Nat) (v : WinSt) : (s.setWin i v).mapSyncs = s.mapSyncs := rfl
@[simp] theorem State.setWin_rings (i : Nat) (v : WinSt) : (s.setWin i v).rings = s.rings := rfl
@[simp] theorem State.setWin_inflight (i : Nat) (v : WinSt) : (s.setWin i v).inflight = s.inflight := rfl
@[simp] theorem State.setWin_posted (i : Nat) (v : WinSt) : (s.setWin i v).posted = s.posted := rfl
@[simp] theorem State.setWin_nextId (i : Nat) (v : WinSt) : (s.setWin i v).nextId = s.nextId := rfl
@[simp] theorem State.setWin_runahead (i : Nat) (v : WinSt) : (s.setWin i v).runahead = s.runahead := rfl
@[simp] theorem State.setWin_fenceWr (i : Nat) (v : WinSt) : (s.setWin i v).fenceWr = s.fenceWr := rfl
@[simp] theorem State.setWin_fenceHandle (i : Nat) (v : WinSt) : (s.setWin i v).fenceHandle = s.fenceHandle := rfl
@[simp] theorem State.setWin_aborts (i : Nat) (v : WinSt) : (s.setWin i v).aborts = s.aborts := rfl
@[simp] theorem State.setWin_zeroing (i : Nat) (v : WinSt) : (s.setWin i v).zeroing = s.zeroing := rfl
@[simp] theorem State.setWin_asTags (i : Nat) (v : WinSt) : (s.setWin i v).asTags = s.asTags := rfl
@[simp] theorem State.setWin_granuleQueue (i : Nat) (v : WinSt) : (s.setWin i v).granuleQueue = s.granuleQueue := rfl
@[simp] theorem State.setWin_streams (i : Nat) (v : WinSt) : (s.setWin i v).streams = s.streams := rfl
@[simp] theorem State.setWin_jobs (i : Nat) (v : WinSt) : (s.setWin i v).jobs = s.jobs := rfl
@[simp] theorem State.setWin_cuts (i : Nat) (v : WinSt) : (s.setWin i v).cuts = s.cuts := rfl
@[simp] theorem State.setWin_clean (i : Nat) (v : WinSt) : (s.setWin i v).clean = s.clean := rfl
@[simp] theorem State.setWin_sporBytes (i : Nat) (v : WinSt) : (s.setWin i v).sporBytes = s.sporBytes := rfl
@[simp] theorem State.setWin_sporReads (i : Nat) (v : WinSt) : (s.setWin i v).sporReads = s.sporReads := rfl
@[simp] theorem State.setWin_fns (i : Nat) (v : WinSt) : (s.setWin i v).fns = s.fns := rfl
@[simp] theorem State.setWin_linkDown (i : Nat) (v : WinSt) : (s.setWin i v).linkDown = s.linkDown := rfl
@[simp] theorem State.setWin_out (i : Nat) (v : WinSt) : (s.setWin i v).out = s.out := rfl
@[simp] theorem State.setWin_free (i : Nat) (v : WinSt) : (s.setWin i v).free = s.free := rfl
@[simp] theorem State.setWin_pending (i : Nat) (v : WinSt) : (s.setWin i v).pending = s.pending := rfl
@[simp] theorem State.setWin_recov (i : Nat) (v : WinSt) : (s.setWin i v).recov = s.recov := rfl
@[simp] theorem State.setWin_slotWait (i : Nat) (v : WinSt) : (s.setWin i v).slotWait = s.slotWait := rfl
@[simp] theorem State.setWin_hbmRows (i : Nat) (v : WinSt) : (s.setWin i v).hbmRows = s.hbmRows := rfl
@[simp] theorem State.setWin_hbmCe (i : Nat) (v : WinSt) : (s.setWin i v).hbmCe = s.hbmCe := rfl
@[simp] theorem State.setWin_hbmBad (i : Nat) (v : WinSt) : (s.setWin i v).hbmBad = s.hbmBad := rfl
@[simp] theorem State.setWin_eccRun (i : Nat) (v : WinSt) : (s.setWin i v).eccRun = s.eccRun := rfl
@[simp] theorem State.setWin_copies (i : Nat) (v : WinSt) : (s.setWin i v).copies = s.copies := rfl
@[simp] theorem State.setWin_kv (i : Nat) (v : WinSt) : (s.setWin i v).kv = s.kv := rfl
@[simp] theorem State.setWin_gens (i : Nat) (v : WinSt) : (s.setWin i v).gens = s.gens := rfl
@[simp] theorem State.setWin_seeds (i : Nat) (v : WinSt) : (s.setWin i v).seeds = s.seeds := rfl
@[simp] theorem State.setWin_live (i : Nat) (v : WinSt) : (s.setWin i v).live = s.live := rfl
@[simp] theorem State.setWin_tb (i : Nat) (v : WinSt) : (s.setWin i v).tb = s.tb := rfl
@[simp] theorem State.setWin_slips (i : Nat) (v : WinSt) : (s.setWin i v).slips = s.slips := rfl
@[simp] theorem State.setWin_skips (i : Nat) (v : WinSt) : (s.setWin i v).skips = s.skips := rfl
@[simp] theorem State.setWin_ports (i : Nat) (v : WinSt) : (s.setWin i v).ports = s.ports := rfl
@[simp] theorem State.setWin_qps (i : Nat) (v : WinSt) : (s.setWin i v).qps = s.qps := rfl
@[simp] theorem State.setWin_ackMem (i : Nat) (v : WinSt) : (s.setWin i v).ackMem = s.ackMem := rfl
@[simp] theorem State.setWin_colls (i : Nat) (v : WinSt) : (s.setWin i v).colls = s.colls := rfl
@[simp] theorem State.setWin_boot (i : Nat) (v : WinSt) : (s.setWin i v).boot = s.boot := rfl
@[simp] theorem State.setWin_holds (i : Nat) (v : WinSt) : (s.setWin i v).holds = s.holds := rfl
@[simp] theorem State.setWin_fcRestarts (i : Nat) (v : WinSt) : (s.setWin i v).fcRestarts = s.fcRestarts := rfl
@[simp] theorem State.setWin_fcFailed (i : Nat) (v : WinSt) : (s.setWin i v).fcFailed = s.fcFailed := rfl
@[simp] theorem State.setWin_persist (i : Nat) (v : WinSt) : (s.setWin i v).persist = s.persist := rfl
@[simp] theorem State.setWin_saving (i : Nat) (v : WinSt) : (s.setWin i v).saving = s.saving := rfl
@[simp] theorem State.setWin_mario (i : Nat) (v : WinSt) : (s.setWin i v).mario = s.mario := rfl
@[simp] theorem State.setWin_log (i : Nat) (v : WinSt) : (s.setWin i v).log = s.log := rfl
@[simp] theorem State.setWin_stop (i : Nat) (v : WinSt) : (s.setWin i v).stop = s.stop := rfl
@[simp] theorem State.setWin_rkey (i : Nat) (v : WinSt) : (s.setWin i v).rkey = s.rkey := rfl
@[simp] theorem State.setWin_flips (i : Nat) (v : WinSt) : (s.setWin i v).flips = s.flips := rfl
@[simp] theorem State.setWin_msc (i : Nat) (v : WinSt) : (s.setWin i v).msc = s.msc := rfl
@[simp] theorem State.setWin_scrubDebt (i : Nat) (v : WinSt) : (s.setWin i v).scrubDebt = s.scrubDebt := rfl
@[simp] theorem State.setWin_errs (i : Nat) (v : WinSt) : (s.setWin i v).errs = s.errs := rfl
@[simp] theorem State.setWin_asSat (i : Nat) (v : WinSt) : (s.setWin i v).asSat = s.asSat := rfl
@[simp] theorem State.setWin_sporTurn (i : Nat) (v : WinSt) : (s.setWin i v).sporTurn = s.sporTurn := rfl
@[simp] theorem State.setWin_sporNext (i : Nat) (v : WinSt) : (s.setWin i v).sporNext = s.sporNext := rfl

/-! ### setPort -/

@[simp] theorem State.setPort_regs (i : Nat) (v : PortSt) : (s.setPort i v).regs = s.regs := rfl
@[simp] theorem State.setPort_octs (i : Nat) (v : PortSt) : (s.setPort i v).octs = s.octs := rfl
@[simp] theorem State.setPort_areas (i : Nat) (v : PortSt) : (s.setPort i v).areas = s.areas := rfl
@[simp] theorem State.setPort_ls (i : Nat) (v : PortSt) : (s.setPort i v).ls = s.ls := rfl
@[simp] theorem State.setPort_fs (i : Nat) (v : PortSt) : (s.setPort i v).fs = s.fs := rfl
@[simp] theorem State.setPort_acc (i : Nat) (v : PortSt) : (s.setPort i v).acc = s.acc := rfl
@[simp] theorem State.setPort_hbm (i : Nat) (v : PortSt) : (s.setPort i v).hbm = s.hbm := rfl
@[simp] theorem State.setPort_coreMap (i : Nat) (v : PortSt) : (s.setPort i v).coreMap = s.coreMap := rfl
@[simp] theorem State.setPort_tlb (i : Nat) (v : PortSt) : (s.setPort i v).tlb = s.tlb := rfl
@[simp] theorem State.setPort_mapSyncs (i : Nat) (v : PortSt) : (s.setPort i v).mapSyncs = s.mapSyncs := rfl
@[simp] theorem State.setPort_rings (i : Nat) (v : PortSt) : (s.setPort i v).rings = s.rings := rfl
@[simp] theorem State.setPort_inflight (i : Nat) (v : PortSt) : (s.setPort i v).inflight = s.inflight := rfl
@[simp] theorem State.setPort_posted (i : Nat) (v : PortSt) : (s.setPort i v).posted = s.posted := rfl
@[simp] theorem State.setPort_nextId (i : Nat) (v : PortSt) : (s.setPort i v).nextId = s.nextId := rfl
@[simp] theorem State.setPort_runahead (i : Nat) (v : PortSt) : (s.setPort i v).runahead = s.runahead := rfl
@[simp] theorem State.setPort_fenceWr (i : Nat) (v : PortSt) : (s.setPort i v).fenceWr = s.fenceWr := rfl
@[simp] theorem State.setPort_fenceHandle (i : Nat) (v : PortSt) : (s.setPort i v).fenceHandle = s.fenceHandle := rfl
@[simp] theorem State.setPort_aborts (i : Nat) (v : PortSt) : (s.setPort i v).aborts = s.aborts := rfl
@[simp] theorem State.setPort_zeroing (i : Nat) (v : PortSt) : (s.setPort i v).zeroing = s.zeroing := rfl
@[simp] theorem State.setPort_asTags (i : Nat) (v : PortSt) : (s.setPort i v).asTags = s.asTags := rfl
@[simp] theorem State.setPort_granuleQueue (i : Nat) (v : PortSt) : (s.setPort i v).granuleQueue = s.granuleQueue := rfl
@[simp] theorem State.setPort_streams (i : Nat) (v : PortSt) : (s.setPort i v).streams = s.streams := rfl
@[simp] theorem State.setPort_jobs (i : Nat) (v : PortSt) : (s.setPort i v).jobs = s.jobs := rfl
@[simp] theorem State.setPort_cuts (i : Nat) (v : PortSt) : (s.setPort i v).cuts = s.cuts := rfl
@[simp] theorem State.setPort_clean (i : Nat) (v : PortSt) : (s.setPort i v).clean = s.clean := rfl
@[simp] theorem State.setPort_windows (i : Nat) (v : PortSt) : (s.setPort i v).windows = s.windows := rfl
@[simp] theorem State.setPort_sporBytes (i : Nat) (v : PortSt) : (s.setPort i v).sporBytes = s.sporBytes := rfl
@[simp] theorem State.setPort_sporReads (i : Nat) (v : PortSt) : (s.setPort i v).sporReads = s.sporReads := rfl
@[simp] theorem State.setPort_fns (i : Nat) (v : PortSt) : (s.setPort i v).fns = s.fns := rfl
@[simp] theorem State.setPort_linkDown (i : Nat) (v : PortSt) : (s.setPort i v).linkDown = s.linkDown := rfl
@[simp] theorem State.setPort_out (i : Nat) (v : PortSt) : (s.setPort i v).out = s.out := rfl
@[simp] theorem State.setPort_free (i : Nat) (v : PortSt) : (s.setPort i v).free = s.free := rfl
@[simp] theorem State.setPort_pending (i : Nat) (v : PortSt) : (s.setPort i v).pending = s.pending := rfl
@[simp] theorem State.setPort_recov (i : Nat) (v : PortSt) : (s.setPort i v).recov = s.recov := rfl
@[simp] theorem State.setPort_slotWait (i : Nat) (v : PortSt) : (s.setPort i v).slotWait = s.slotWait := rfl
@[simp] theorem State.setPort_hbmRows (i : Nat) (v : PortSt) : (s.setPort i v).hbmRows = s.hbmRows := rfl
@[simp] theorem State.setPort_hbmCe (i : Nat) (v : PortSt) : (s.setPort i v).hbmCe = s.hbmCe := rfl
@[simp] theorem State.setPort_hbmBad (i : Nat) (v : PortSt) : (s.setPort i v).hbmBad = s.hbmBad := rfl
@[simp] theorem State.setPort_eccRun (i : Nat) (v : PortSt) : (s.setPort i v).eccRun = s.eccRun := rfl
@[simp] theorem State.setPort_copies (i : Nat) (v : PortSt) : (s.setPort i v).copies = s.copies := rfl
@[simp] theorem State.setPort_kv (i : Nat) (v : PortSt) : (s.setPort i v).kv = s.kv := rfl
@[simp] theorem State.setPort_gens (i : Nat) (v : PortSt) : (s.setPort i v).gens = s.gens := rfl
@[simp] theorem State.setPort_seeds (i : Nat) (v : PortSt) : (s.setPort i v).seeds = s.seeds := rfl
@[simp] theorem State.setPort_live (i : Nat) (v : PortSt) : (s.setPort i v).live = s.live := rfl
@[simp] theorem State.setPort_tb (i : Nat) (v : PortSt) : (s.setPort i v).tb = s.tb := rfl
@[simp] theorem State.setPort_slips (i : Nat) (v : PortSt) : (s.setPort i v).slips = s.slips := rfl
@[simp] theorem State.setPort_skips (i : Nat) (v : PortSt) : (s.setPort i v).skips = s.skips := rfl
@[simp] theorem State.setPort_qps (i : Nat) (v : PortSt) : (s.setPort i v).qps = s.qps := rfl
@[simp] theorem State.setPort_ackMem (i : Nat) (v : PortSt) : (s.setPort i v).ackMem = s.ackMem := rfl
@[simp] theorem State.setPort_colls (i : Nat) (v : PortSt) : (s.setPort i v).colls = s.colls := rfl
@[simp] theorem State.setPort_boot (i : Nat) (v : PortSt) : (s.setPort i v).boot = s.boot := rfl
@[simp] theorem State.setPort_holds (i : Nat) (v : PortSt) : (s.setPort i v).holds = s.holds := rfl
@[simp] theorem State.setPort_fcRestarts (i : Nat) (v : PortSt) : (s.setPort i v).fcRestarts = s.fcRestarts := rfl
@[simp] theorem State.setPort_fcFailed (i : Nat) (v : PortSt) : (s.setPort i v).fcFailed = s.fcFailed := rfl
@[simp] theorem State.setPort_persist (i : Nat) (v : PortSt) : (s.setPort i v).persist = s.persist := rfl
@[simp] theorem State.setPort_saving (i : Nat) (v : PortSt) : (s.setPort i v).saving = s.saving := rfl
@[simp] theorem State.setPort_mario (i : Nat) (v : PortSt) : (s.setPort i v).mario = s.mario := rfl
@[simp] theorem State.setPort_log (i : Nat) (v : PortSt) : (s.setPort i v).log = s.log := rfl
@[simp] theorem State.setPort_stop (i : Nat) (v : PortSt) : (s.setPort i v).stop = s.stop := rfl
@[simp] theorem State.setPort_rkey (i : Nat) (v : PortSt) : (s.setPort i v).rkey = s.rkey := rfl
@[simp] theorem State.setPort_flips (i : Nat) (v : PortSt) : (s.setPort i v).flips = s.flips := rfl
@[simp] theorem State.setPort_msc (i : Nat) (v : PortSt) : (s.setPort i v).msc = s.msc := rfl
@[simp] theorem State.setPort_scrubDebt (i : Nat) (v : PortSt) : (s.setPort i v).scrubDebt = s.scrubDebt := rfl
@[simp] theorem State.setPort_errs (i : Nat) (v : PortSt) : (s.setPort i v).errs = s.errs := rfl
@[simp] theorem State.setPort_asSat (i : Nat) (v : PortSt) : (s.setPort i v).asSat = s.asSat := rfl
@[simp] theorem State.setPort_sporTurn (i : Nat) (v : PortSt) : (s.setPort i v).sporTurn = s.sporTurn := rfl
@[simp] theorem State.setPort_sporNext (i : Nat) (v : PortSt) : (s.setPort i v).sporNext = s.sporNext := rfl

/-! ### setQp -/

@[simp] theorem State.setQp_regs (i : Nat) (v : QpSt) : (s.setQp i v).regs = s.regs := rfl
@[simp] theorem State.setQp_octs (i : Nat) (v : QpSt) : (s.setQp i v).octs = s.octs := rfl
@[simp] theorem State.setQp_areas (i : Nat) (v : QpSt) : (s.setQp i v).areas = s.areas := rfl
@[simp] theorem State.setQp_ls (i : Nat) (v : QpSt) : (s.setQp i v).ls = s.ls := rfl
@[simp] theorem State.setQp_fs (i : Nat) (v : QpSt) : (s.setQp i v).fs = s.fs := rfl
@[simp] theorem State.setQp_acc (i : Nat) (v : QpSt) : (s.setQp i v).acc = s.acc := rfl
@[simp] theorem State.setQp_hbm (i : Nat) (v : QpSt) : (s.setQp i v).hbm = s.hbm := rfl
@[simp] theorem State.setQp_coreMap (i : Nat) (v : QpSt) : (s.setQp i v).coreMap = s.coreMap := rfl
@[simp] theorem State.setQp_tlb (i : Nat) (v : QpSt) : (s.setQp i v).tlb = s.tlb := rfl
@[simp] theorem State.setQp_mapSyncs (i : Nat) (v : QpSt) : (s.setQp i v).mapSyncs = s.mapSyncs := rfl
@[simp] theorem State.setQp_rings (i : Nat) (v : QpSt) : (s.setQp i v).rings = s.rings := rfl
@[simp] theorem State.setQp_inflight (i : Nat) (v : QpSt) : (s.setQp i v).inflight = s.inflight := rfl
@[simp] theorem State.setQp_posted (i : Nat) (v : QpSt) : (s.setQp i v).posted = s.posted := rfl
@[simp] theorem State.setQp_nextId (i : Nat) (v : QpSt) : (s.setQp i v).nextId = s.nextId := rfl
@[simp] theorem State.setQp_runahead (i : Nat) (v : QpSt) : (s.setQp i v).runahead = s.runahead := rfl
@[simp] theorem State.setQp_fenceWr (i : Nat) (v : QpSt) : (s.setQp i v).fenceWr = s.fenceWr := rfl
@[simp] theorem State.setQp_fenceHandle (i : Nat) (v : QpSt) : (s.setQp i v).fenceHandle = s.fenceHandle := rfl
@[simp] theorem State.setQp_aborts (i : Nat) (v : QpSt) : (s.setQp i v).aborts = s.aborts := rfl
@[simp] theorem State.setQp_zeroing (i : Nat) (v : QpSt) : (s.setQp i v).zeroing = s.zeroing := rfl
@[simp] theorem State.setQp_asTags (i : Nat) (v : QpSt) : (s.setQp i v).asTags = s.asTags := rfl
@[simp] theorem State.setQp_granuleQueue (i : Nat) (v : QpSt) : (s.setQp i v).granuleQueue = s.granuleQueue := rfl
@[simp] theorem State.setQp_streams (i : Nat) (v : QpSt) : (s.setQp i v).streams = s.streams := rfl
@[simp] theorem State.setQp_jobs (i : Nat) (v : QpSt) : (s.setQp i v).jobs = s.jobs := rfl
@[simp] theorem State.setQp_cuts (i : Nat) (v : QpSt) : (s.setQp i v).cuts = s.cuts := rfl
@[simp] theorem State.setQp_clean (i : Nat) (v : QpSt) : (s.setQp i v).clean = s.clean := rfl
@[simp] theorem State.setQp_windows (i : Nat) (v : QpSt) : (s.setQp i v).windows = s.windows := rfl
@[simp] theorem State.setQp_sporBytes (i : Nat) (v : QpSt) : (s.setQp i v).sporBytes = s.sporBytes := rfl
@[simp] theorem State.setQp_sporReads (i : Nat) (v : QpSt) : (s.setQp i v).sporReads = s.sporReads := rfl
@[simp] theorem State.setQp_fns (i : Nat) (v : QpSt) : (s.setQp i v).fns = s.fns := rfl
@[simp] theorem State.setQp_linkDown (i : Nat) (v : QpSt) : (s.setQp i v).linkDown = s.linkDown := rfl
@[simp] theorem State.setQp_out (i : Nat) (v : QpSt) : (s.setQp i v).out = s.out := rfl
@[simp] theorem State.setQp_free (i : Nat) (v : QpSt) : (s.setQp i v).free = s.free := rfl
@[simp] theorem State.setQp_pending (i : Nat) (v : QpSt) : (s.setQp i v).pending = s.pending := rfl
@[simp] theorem State.setQp_recov (i : Nat) (v : QpSt) : (s.setQp i v).recov = s.recov := rfl
@[simp] theorem State.setQp_slotWait (i : Nat) (v : QpSt) : (s.setQp i v).slotWait = s.slotWait := rfl
@[simp] theorem State.setQp_hbmRows (i : Nat) (v : QpSt) : (s.setQp i v).hbmRows = s.hbmRows := rfl
@[simp] theorem State.setQp_hbmCe (i : Nat) (v : QpSt) : (s.setQp i v).hbmCe = s.hbmCe := rfl
@[simp] theorem State.setQp_hbmBad (i : Nat) (v : QpSt) : (s.setQp i v).hbmBad = s.hbmBad := rfl
@[simp] theorem State.setQp_eccRun (i : Nat) (v : QpSt) : (s.setQp i v).eccRun = s.eccRun := rfl
@[simp] theorem State.setQp_copies (i : Nat) (v : QpSt) : (s.setQp i v).copies = s.copies := rfl
@[simp] theorem State.setQp_kv (i : Nat) (v : QpSt) : (s.setQp i v).kv = s.kv := rfl
@[simp] theorem State.setQp_gens (i : Nat) (v : QpSt) : (s.setQp i v).gens = s.gens := rfl
@[simp] theorem State.setQp_seeds (i : Nat) (v : QpSt) : (s.setQp i v).seeds = s.seeds := rfl
@[simp] theorem State.setQp_live (i : Nat) (v : QpSt) : (s.setQp i v).live = s.live := rfl
@[simp] theorem State.setQp_tb (i : Nat) (v : QpSt) : (s.setQp i v).tb = s.tb := rfl
@[simp] theorem State.setQp_slips (i : Nat) (v : QpSt) : (s.setQp i v).slips = s.slips := rfl
@[simp] theorem State.setQp_skips (i : Nat) (v : QpSt) : (s.setQp i v).skips = s.skips := rfl
@[simp] theorem State.setQp_ports (i : Nat) (v : QpSt) : (s.setQp i v).ports = s.ports := rfl
@[simp] theorem State.setQp_ackMem (i : Nat) (v : QpSt) : (s.setQp i v).ackMem = s.ackMem := rfl
@[simp] theorem State.setQp_colls (i : Nat) (v : QpSt) : (s.setQp i v).colls = s.colls := rfl
@[simp] theorem State.setQp_boot (i : Nat) (v : QpSt) : (s.setQp i v).boot = s.boot := rfl
@[simp] theorem State.setQp_holds (i : Nat) (v : QpSt) : (s.setQp i v).holds = s.holds := rfl
@[simp] theorem State.setQp_fcRestarts (i : Nat) (v : QpSt) : (s.setQp i v).fcRestarts = s.fcRestarts := rfl
@[simp] theorem State.setQp_fcFailed (i : Nat) (v : QpSt) : (s.setQp i v).fcFailed = s.fcFailed := rfl
@[simp] theorem State.setQp_persist (i : Nat) (v : QpSt) : (s.setQp i v).persist = s.persist := rfl
@[simp] theorem State.setQp_saving (i : Nat) (v : QpSt) : (s.setQp i v).saving = s.saving := rfl
@[simp] theorem State.setQp_mario (i : Nat) (v : QpSt) : (s.setQp i v).mario = s.mario := rfl
@[simp] theorem State.setQp_log (i : Nat) (v : QpSt) : (s.setQp i v).log = s.log := rfl
@[simp] theorem State.setQp_stop (i : Nat) (v : QpSt) : (s.setQp i v).stop = s.stop := rfl
@[simp] theorem State.setQp_rkey (i : Nat) (v : QpSt) : (s.setQp i v).rkey = s.rkey := rfl
@[simp] theorem State.setQp_flips (i : Nat) (v : QpSt) : (s.setQp i v).flips = s.flips := rfl
@[simp] theorem State.setQp_msc (i : Nat) (v : QpSt) : (s.setQp i v).msc = s.msc := rfl
@[simp] theorem State.setQp_scrubDebt (i : Nat) (v : QpSt) : (s.setQp i v).scrubDebt = s.scrubDebt := rfl
@[simp] theorem State.setQp_errs (i : Nat) (v : QpSt) : (s.setQp i v).errs = s.errs := rfl
@[simp] theorem State.setQp_asSat (i : Nat) (v : QpSt) : (s.setQp i v).asSat = s.asSat := rfl
@[simp] theorem State.setQp_sporTurn (i : Nat) (v : QpSt) : (s.setQp i v).sporTurn = s.sporTurn := rfl
@[simp] theorem State.setQp_sporNext (i : Nat) (v : QpSt) : (s.setQp i v).sporNext = s.sporNext := rfl

/-! ### setColl -/

@[simp] theorem State.setColl_regs (i : Nat) (v : CollSt) : (s.setColl i v).regs = s.regs := rfl
@[simp] theorem State.setColl_octs (i : Nat) (v : CollSt) : (s.setColl i v).octs = s.octs := rfl
@[simp] theorem State.setColl_areas (i : Nat) (v : CollSt) : (s.setColl i v).areas = s.areas := rfl
@[simp] theorem State.setColl_ls (i : Nat) (v : CollSt) : (s.setColl i v).ls = s.ls := rfl
@[simp] theorem State.setColl_fs (i : Nat) (v : CollSt) : (s.setColl i v).fs = s.fs := rfl
@[simp] theorem State.setColl_acc (i : Nat) (v : CollSt) : (s.setColl i v).acc = s.acc := rfl
@[simp] theorem State.setColl_hbm (i : Nat) (v : CollSt) : (s.setColl i v).hbm = s.hbm := rfl
@[simp] theorem State.setColl_coreMap (i : Nat) (v : CollSt) : (s.setColl i v).coreMap = s.coreMap := rfl
@[simp] theorem State.setColl_tlb (i : Nat) (v : CollSt) : (s.setColl i v).tlb = s.tlb := rfl
@[simp] theorem State.setColl_mapSyncs (i : Nat) (v : CollSt) : (s.setColl i v).mapSyncs = s.mapSyncs := rfl
@[simp] theorem State.setColl_rings (i : Nat) (v : CollSt) : (s.setColl i v).rings = s.rings := rfl
@[simp] theorem State.setColl_inflight (i : Nat) (v : CollSt) : (s.setColl i v).inflight = s.inflight := rfl
@[simp] theorem State.setColl_posted (i : Nat) (v : CollSt) : (s.setColl i v).posted = s.posted := rfl
@[simp] theorem State.setColl_nextId (i : Nat) (v : CollSt) : (s.setColl i v).nextId = s.nextId := rfl
@[simp] theorem State.setColl_runahead (i : Nat) (v : CollSt) : (s.setColl i v).runahead = s.runahead := rfl
@[simp] theorem State.setColl_fenceWr (i : Nat) (v : CollSt) : (s.setColl i v).fenceWr = s.fenceWr := rfl
@[simp] theorem State.setColl_fenceHandle (i : Nat) (v : CollSt) : (s.setColl i v).fenceHandle = s.fenceHandle := rfl
@[simp] theorem State.setColl_aborts (i : Nat) (v : CollSt) : (s.setColl i v).aborts = s.aborts := rfl
@[simp] theorem State.setColl_zeroing (i : Nat) (v : CollSt) : (s.setColl i v).zeroing = s.zeroing := rfl
@[simp] theorem State.setColl_asTags (i : Nat) (v : CollSt) : (s.setColl i v).asTags = s.asTags := rfl
@[simp] theorem State.setColl_granuleQueue (i : Nat) (v : CollSt) : (s.setColl i v).granuleQueue = s.granuleQueue := rfl
@[simp] theorem State.setColl_streams (i : Nat) (v : CollSt) : (s.setColl i v).streams = s.streams := rfl
@[simp] theorem State.setColl_jobs (i : Nat) (v : CollSt) : (s.setColl i v).jobs = s.jobs := rfl
@[simp] theorem State.setColl_cuts (i : Nat) (v : CollSt) : (s.setColl i v).cuts = s.cuts := rfl
@[simp] theorem State.setColl_clean (i : Nat) (v : CollSt) : (s.setColl i v).clean = s.clean := rfl
@[simp] theorem State.setColl_windows (i : Nat) (v : CollSt) : (s.setColl i v).windows = s.windows := rfl
@[simp] theorem State.setColl_sporBytes (i : Nat) (v : CollSt) : (s.setColl i v).sporBytes = s.sporBytes := rfl
@[simp] theorem State.setColl_sporReads (i : Nat) (v : CollSt) : (s.setColl i v).sporReads = s.sporReads := rfl
@[simp] theorem State.setColl_fns (i : Nat) (v : CollSt) : (s.setColl i v).fns = s.fns := rfl
@[simp] theorem State.setColl_linkDown (i : Nat) (v : CollSt) : (s.setColl i v).linkDown = s.linkDown := rfl
@[simp] theorem State.setColl_out (i : Nat) (v : CollSt) : (s.setColl i v).out = s.out := rfl
@[simp] theorem State.setColl_free (i : Nat) (v : CollSt) : (s.setColl i v).free = s.free := rfl
@[simp] theorem State.setColl_pending (i : Nat) (v : CollSt) : (s.setColl i v).pending = s.pending := rfl
@[simp] theorem State.setColl_recov (i : Nat) (v : CollSt) : (s.setColl i v).recov = s.recov := rfl
@[simp] theorem State.setColl_slotWait (i : Nat) (v : CollSt) : (s.setColl i v).slotWait = s.slotWait := rfl
@[simp] theorem State.setColl_hbmRows (i : Nat) (v : CollSt) : (s.setColl i v).hbmRows = s.hbmRows := rfl
@[simp] theorem State.setColl_hbmCe (i : Nat) (v : CollSt) : (s.setColl i v).hbmCe = s.hbmCe := rfl
@[simp] theorem State.setColl_hbmBad (i : Nat) (v : CollSt) : (s.setColl i v).hbmBad = s.hbmBad := rfl
@[simp] theorem State.setColl_eccRun (i : Nat) (v : CollSt) : (s.setColl i v).eccRun = s.eccRun := rfl
@[simp] theorem State.setColl_copies (i : Nat) (v : CollSt) : (s.setColl i v).copies = s.copies := rfl
@[simp] theorem State.setColl_kv (i : Nat) (v : CollSt) : (s.setColl i v).kv = s.kv := rfl
@[simp] theorem State.setColl_gens (i : Nat) (v : CollSt) : (s.setColl i v).gens = s.gens := rfl
@[simp] theorem State.setColl_seeds (i : Nat) (v : CollSt) : (s.setColl i v).seeds = s.seeds := rfl
@[simp] theorem State.setColl_live (i : Nat) (v : CollSt) : (s.setColl i v).live = s.live := rfl
@[simp] theorem State.setColl_tb (i : Nat) (v : CollSt) : (s.setColl i v).tb = s.tb := rfl
@[simp] theorem State.setColl_slips (i : Nat) (v : CollSt) : (s.setColl i v).slips = s.slips := rfl
@[simp] theorem State.setColl_skips (i : Nat) (v : CollSt) : (s.setColl i v).skips = s.skips := rfl
@[simp] theorem State.setColl_ports (i : Nat) (v : CollSt) : (s.setColl i v).ports = s.ports := rfl
@[simp] theorem State.setColl_qps (i : Nat) (v : CollSt) : (s.setColl i v).qps = s.qps := rfl
@[simp] theorem State.setColl_ackMem (i : Nat) (v : CollSt) : (s.setColl i v).ackMem = s.ackMem := rfl
@[simp] theorem State.setColl_boot (i : Nat) (v : CollSt) : (s.setColl i v).boot = s.boot := rfl
@[simp] theorem State.setColl_holds (i : Nat) (v : CollSt) : (s.setColl i v).holds = s.holds := rfl
@[simp] theorem State.setColl_fcRestarts (i : Nat) (v : CollSt) : (s.setColl i v).fcRestarts = s.fcRestarts := rfl
@[simp] theorem State.setColl_fcFailed (i : Nat) (v : CollSt) : (s.setColl i v).fcFailed = s.fcFailed := rfl
@[simp] theorem State.setColl_persist (i : Nat) (v : CollSt) : (s.setColl i v).persist = s.persist := rfl
@[simp] theorem State.setColl_saving (i : Nat) (v : CollSt) : (s.setColl i v).saving = s.saving := rfl
@[simp] theorem State.setColl_mario (i : Nat) (v : CollSt) : (s.setColl i v).mario = s.mario := rfl
@[simp] theorem State.setColl_log (i : Nat) (v : CollSt) : (s.setColl i v).log = s.log := rfl
@[simp] theorem State.setColl_stop (i : Nat) (v : CollSt) : (s.setColl i v).stop = s.stop := rfl
@[simp] theorem State.setColl_rkey (i : Nat) (v : CollSt) : (s.setColl i v).rkey = s.rkey := rfl
@[simp] theorem State.setColl_flips (i : Nat) (v : CollSt) : (s.setColl i v).flips = s.flips := rfl
@[simp] theorem State.setColl_msc (i : Nat) (v : CollSt) : (s.setColl i v).msc = s.msc := rfl
@[simp] theorem State.setColl_scrubDebt (i : Nat) (v : CollSt) : (s.setColl i v).scrubDebt = s.scrubDebt := rfl
@[simp] theorem State.setColl_errs (i : Nat) (v : CollSt) : (s.setColl i v).errs = s.errs := rfl
@[simp] theorem State.setColl_asSat (i : Nat) (v : CollSt) : (s.setColl i v).asSat = s.asSat := rfl
@[simp] theorem State.setColl_sporTurn (i : Nat) (v : CollSt) : (s.setColl i v).sporTurn = s.sporTurn := rfl
@[simp] theorem State.setColl_sporNext (i : Nat) (v : CollSt) : (s.setColl i v).sporNext = s.sporNext := rfl

/-! ### setPool -/

@[simp] theorem State.setPool_regs (i : Nat) (v : KvSt) : (s.setPool i v).regs = s.regs := rfl
@[simp] theorem State.setPool_octs (i : Nat) (v : KvSt) : (s.setPool i v).octs = s.octs := rfl
@[simp] theorem State.setPool_areas (i : Nat) (v : KvSt) : (s.setPool i v).areas = s.areas := rfl
@[simp] theorem State.setPool_ls (i : Nat) (v : KvSt) : (s.setPool i v).ls = s.ls := rfl
@[simp] theorem State.setPool_fs (i : Nat) (v : KvSt) : (s.setPool i v).fs = s.fs := rfl
@[simp] theorem State.setPool_acc (i : Nat) (v : KvSt) : (s.setPool i v).acc = s.acc := rfl
@[simp] theorem State.setPool_hbm (i : Nat) (v : KvSt) : (s.setPool i v).hbm = s.hbm := rfl
@[simp] theorem State.setPool_coreMap (i : Nat) (v : KvSt) : (s.setPool i v).coreMap = s.coreMap := rfl
@[simp] theorem State.setPool_tlb (i : Nat) (v : KvSt) : (s.setPool i v).tlb = s.tlb := rfl
@[simp] theorem State.setPool_mapSyncs (i : Nat) (v : KvSt) : (s.setPool i v).mapSyncs = s.mapSyncs := rfl
@[simp] theorem State.setPool_rings (i : Nat) (v : KvSt) : (s.setPool i v).rings = s.rings := rfl
@[simp] theorem State.setPool_inflight (i : Nat) (v : KvSt) : (s.setPool i v).inflight = s.inflight := rfl
@[simp] theorem State.setPool_posted (i : Nat) (v : KvSt) : (s.setPool i v).posted = s.posted := rfl
@[simp] theorem State.setPool_nextId (i : Nat) (v : KvSt) : (s.setPool i v).nextId = s.nextId := rfl
@[simp] theorem State.setPool_runahead (i : Nat) (v : KvSt) : (s.setPool i v).runahead = s.runahead := rfl
@[simp] theorem State.setPool_fenceWr (i : Nat) (v : KvSt) : (s.setPool i v).fenceWr = s.fenceWr := rfl
@[simp] theorem State.setPool_fenceHandle (i : Nat) (v : KvSt) : (s.setPool i v).fenceHandle = s.fenceHandle := rfl
@[simp] theorem State.setPool_aborts (i : Nat) (v : KvSt) : (s.setPool i v).aborts = s.aborts := rfl
@[simp] theorem State.setPool_zeroing (i : Nat) (v : KvSt) : (s.setPool i v).zeroing = s.zeroing := rfl
@[simp] theorem State.setPool_asTags (i : Nat) (v : KvSt) : (s.setPool i v).asTags = s.asTags := rfl
@[simp] theorem State.setPool_granuleQueue (i : Nat) (v : KvSt) : (s.setPool i v).granuleQueue = s.granuleQueue := rfl
@[simp] theorem State.setPool_streams (i : Nat) (v : KvSt) : (s.setPool i v).streams = s.streams := rfl
@[simp] theorem State.setPool_jobs (i : Nat) (v : KvSt) : (s.setPool i v).jobs = s.jobs := rfl
@[simp] theorem State.setPool_cuts (i : Nat) (v : KvSt) : (s.setPool i v).cuts = s.cuts := rfl
@[simp] theorem State.setPool_clean (i : Nat) (v : KvSt) : (s.setPool i v).clean = s.clean := rfl
@[simp] theorem State.setPool_windows (i : Nat) (v : KvSt) : (s.setPool i v).windows = s.windows := rfl
@[simp] theorem State.setPool_sporBytes (i : Nat) (v : KvSt) : (s.setPool i v).sporBytes = s.sporBytes := rfl
@[simp] theorem State.setPool_sporReads (i : Nat) (v : KvSt) : (s.setPool i v).sporReads = s.sporReads := rfl
@[simp] theorem State.setPool_fns (i : Nat) (v : KvSt) : (s.setPool i v).fns = s.fns := rfl
@[simp] theorem State.setPool_linkDown (i : Nat) (v : KvSt) : (s.setPool i v).linkDown = s.linkDown := rfl
@[simp] theorem State.setPool_out (i : Nat) (v : KvSt) : (s.setPool i v).out = s.out := rfl
@[simp] theorem State.setPool_free (i : Nat) (v : KvSt) : (s.setPool i v).free = s.free := rfl
@[simp] theorem State.setPool_pending (i : Nat) (v : KvSt) : (s.setPool i v).pending = s.pending := rfl
@[simp] theorem State.setPool_recov (i : Nat) (v : KvSt) : (s.setPool i v).recov = s.recov := rfl
@[simp] theorem State.setPool_slotWait (i : Nat) (v : KvSt) : (s.setPool i v).slotWait = s.slotWait := rfl
@[simp] theorem State.setPool_hbmRows (i : Nat) (v : KvSt) : (s.setPool i v).hbmRows = s.hbmRows := rfl
@[simp] theorem State.setPool_hbmCe (i : Nat) (v : KvSt) : (s.setPool i v).hbmCe = s.hbmCe := rfl
@[simp] theorem State.setPool_hbmBad (i : Nat) (v : KvSt) : (s.setPool i v).hbmBad = s.hbmBad := rfl
@[simp] theorem State.setPool_eccRun (i : Nat) (v : KvSt) : (s.setPool i v).eccRun = s.eccRun := rfl
@[simp] theorem State.setPool_copies (i : Nat) (v : KvSt) : (s.setPool i v).copies = s.copies := rfl
@[simp] theorem State.setPool_gens (i : Nat) (v : KvSt) : (s.setPool i v).gens = s.gens := rfl
@[simp] theorem State.setPool_seeds (i : Nat) (v : KvSt) : (s.setPool i v).seeds = s.seeds := rfl
@[simp] theorem State.setPool_live (i : Nat) (v : KvSt) : (s.setPool i v).live = s.live := rfl
@[simp] theorem State.setPool_tb (i : Nat) (v : KvSt) : (s.setPool i v).tb = s.tb := rfl
@[simp] theorem State.setPool_slips (i : Nat) (v : KvSt) : (s.setPool i v).slips = s.slips := rfl
@[simp] theorem State.setPool_skips (i : Nat) (v : KvSt) : (s.setPool i v).skips = s.skips := rfl
@[simp] theorem State.setPool_ports (i : Nat) (v : KvSt) : (s.setPool i v).ports = s.ports := rfl
@[simp] theorem State.setPool_qps (i : Nat) (v : KvSt) : (s.setPool i v).qps = s.qps := rfl
@[simp] theorem State.setPool_ackMem (i : Nat) (v : KvSt) : (s.setPool i v).ackMem = s.ackMem := rfl
@[simp] theorem State.setPool_colls (i : Nat) (v : KvSt) : (s.setPool i v).colls = s.colls := rfl
@[simp] theorem State.setPool_boot (i : Nat) (v : KvSt) : (s.setPool i v).boot = s.boot := rfl
@[simp] theorem State.setPool_holds (i : Nat) (v : KvSt) : (s.setPool i v).holds = s.holds := rfl
@[simp] theorem State.setPool_fcRestarts (i : Nat) (v : KvSt) : (s.setPool i v).fcRestarts = s.fcRestarts := rfl
@[simp] theorem State.setPool_fcFailed (i : Nat) (v : KvSt) : (s.setPool i v).fcFailed = s.fcFailed := rfl
@[simp] theorem State.setPool_persist (i : Nat) (v : KvSt) : (s.setPool i v).persist = s.persist := rfl
@[simp] theorem State.setPool_saving (i : Nat) (v : KvSt) : (s.setPool i v).saving = s.saving := rfl
@[simp] theorem State.setPool_mario (i : Nat) (v : KvSt) : (s.setPool i v).mario = s.mario := rfl
@[simp] theorem State.setPool_log (i : Nat) (v : KvSt) : (s.setPool i v).log = s.log := rfl
@[simp] theorem State.setPool_stop (i : Nat) (v : KvSt) : (s.setPool i v).stop = s.stop := rfl
@[simp] theorem State.setPool_rkey (i : Nat) (v : KvSt) : (s.setPool i v).rkey = s.rkey := rfl
@[simp] theorem State.setPool_flips (i : Nat) (v : KvSt) : (s.setPool i v).flips = s.flips := rfl
@[simp] theorem State.setPool_msc (i : Nat) (v : KvSt) : (s.setPool i v).msc = s.msc := rfl
@[simp] theorem State.setPool_scrubDebt (i : Nat) (v : KvSt) : (s.setPool i v).scrubDebt = s.scrubDebt := rfl
@[simp] theorem State.setPool_errs (i : Nat) (v : KvSt) : (s.setPool i v).errs = s.errs := rfl
@[simp] theorem State.setPool_asSat (i : Nat) (v : KvSt) : (s.setPool i v).asSat = s.asSat := rfl
@[simp] theorem State.setPool_sporTurn (i : Nat) (v : KvSt) : (s.setPool i v).sporTurn = s.sporTurn := rfl
@[simp] theorem State.setPool_sporNext (i : Nat) (v : KvSt) : (s.setPool i v).sporNext = s.sporNext := rfl

end Sys2Proof.Machine
end

