-- ==== Sys2Proof/Laws/Tbl.lean ====
section
/-!
SUPPORT. Laws/Tbl.lean: reading a sparse table after a write, and the canonical form that every table operation keeps.
-/
namespace Sys2Proof.Machine

variable {α : Type}

/-! ### Reading after writing -/

theorem Tbl.get_erase_same (d : α) (t : Tbl α) (k : Nat) : Tbl.get d (Tbl.erase t k) k = d := by
  induction t with
  | nil => rfl
  | cons x t ih =>
    obtain ⟨k', v⟩ := x
    by_cases h : k' = k
    · simp [Tbl.erase, h, ih]
    · simp [Tbl.erase, Tbl.get, h, ih]

theorem Tbl.get_erase_other (d : α) (t : Tbl α) {k j : Nat} (h : j ≠ k) :
    Tbl.get d (Tbl.erase t k) j = Tbl.get d t j := by
  induction t with
  | nil => rfl
  | cons x t ih =>
    obtain ⟨k', v⟩ := x
    by_cases hk : k' = k
    · have : k ≠ j := fun e => h e.symm
      simp [Tbl.erase, Tbl.get, hk, ih, this]
    · by_cases hj : k' = j
      · subst hj; simp [Tbl.erase, Tbl.get, h]
      · simp [Tbl.erase, Tbl.get, hk, hj, ih]

theorem Tbl.get_insert_same (d : α) (t : Tbl α) (k : Nat) (v : α) (h : ∀ x ∈ t, x.1 ≠ k) :
    Tbl.get d (Tbl.insert t k v) k = v := by
  induction t with
  | nil => simp [Tbl.insert, Tbl.get]
  | cons x t ih =>
    obtain ⟨k', w⟩ := x
    have hk : k' ≠ k := h (k', w) (by simp)
    have ht : ∀ x ∈ t, x.1 ≠ k := fun x hx => h x (by simp [hx])
    by_cases hl : k < k'
    · simp [Tbl.insert, Tbl.get, hl]
    · simp [Tbl.insert, Tbl.get, hl, hk, ih ht]

theorem Tbl.get_insert_other (d : α) (t : Tbl α) {k j : Nat} (v : α) (h : j ≠ k) :
    Tbl.get d (Tbl.insert t k v) j = Tbl.get d t j := by
  induction t with
  | nil => simp [Tbl.insert, Tbl.get, h.symm]
  | cons x t ih =>
    obtain ⟨k', w⟩ := x
    by_cases hl : k < k'
    · simp [Tbl.insert, Tbl.get, hl, h.symm]
    · by_cases hj : k' = j
      · subst hj; simp [Tbl.insert, Tbl.get, hl]
      · simp [Tbl.insert, Tbl.get, hl, hj, ih]

theorem Tbl.erase_ne (t : Tbl α) (k : Nat) : ∀ x ∈ Tbl.erase t k, x.1 ≠ k := by
  induction t with
  | nil => simp [Tbl.erase]
  | cons x t ih =>
    obtain ⟨k', v⟩ := x
    by_cases h : k' = k
    · simpa [Tbl.erase, h] using ih
    · intro y hy
      simp [Tbl.erase, h] at hy
      rcases hy with rfl | hy
      · exact h
      · exact ih y hy

/-- A number reads what was written to it. -/
@[simp] theorem Tbl.get_set_same [DecidableEq α] (d : α) (t : Tbl α) (k : Nat) (v : α) :
    Tbl.get d (Tbl.set d t k v) k = v := by
  by_cases h : v = d
  · simp [Tbl.set, h, Tbl.get_erase_same]
  · simp [Tbl.set, h, Tbl.get_insert_same d _ k v (Tbl.erase_ne t k)]

/-- Every other number reads as before, whatever default either access names. -/
theorem Tbl.get_set_other [DecidableEq α] (d e : α) (t : Tbl α) {k j : Nat} (v : α) (h : j ≠ k) :
    Tbl.get e (Tbl.set d t k v) j = Tbl.get e t j := by
  by_cases hv : v = d
  · simp [Tbl.set, hv, Tbl.get_erase_other e t h]
  · simp [Tbl.set, hv, Tbl.get_insert_other e _ v h, Tbl.get_erase_other e t h]

/-- A number that a drop keeps reads as before, and one that it drops reads as unlisted. -/
theorem Tbl.get_drop (d : α) (p : Nat → Bool) (t : Tbl α) (k : Nat) :
    Tbl.get d (Tbl.drop p t) k = if p k then d else Tbl.get d t k := by
  induction t with
  | nil => simp [Tbl.drop, Tbl.get]
  | cons x t ih =>
    obtain ⟨k', v⟩ := x
    by_cases hp : p k' = true
    · by_cases hk : k' = k
      · subst hk; simp [Tbl.drop, hp, ih]
      · simp [Tbl.drop, hp, ih, Tbl.get, hk]
    · by_cases hk : k' = k
      · subst hk; simp [Tbl.drop, hp, Tbl.get]
      · simp [Tbl.drop, hp, ih, Tbl.get, hk]

/-! ### The canonical form -/

/-- A bound on the numbers of a table. -/
def Tbl.above (n : Option Nat) (k : Nat) : Bool := match n with | none => true | some m => decide (m < k)

theorem Tbl.risesFrom_cons (n : Option Nat) (k : Nat) (v : α) (t : Tbl α) :
    Tbl.risesFrom n ((k, v) :: t) = (Tbl.above n k && Tbl.risesFrom (some k) t) := by
  cases n <;> simp [Tbl.risesFrom, Tbl.above]

theorem Tbl.risesFrom_weaken {n : Option Nat} {m k : Nat} {t : Tbl α} (hk : m ≤ k) (hn : Tbl.above n m = true ∨ n = some m)
    (h : Tbl.risesFrom (some k) t = true) : Tbl.risesFrom n t = true := by
  cases t with
  | nil => cases n <;> rfl
  | cons x t =>
    obtain ⟨j, v⟩ := x
    rw [Tbl.risesFrom_cons] at h ⊢
    simp [Tbl.above] at h
    simp [h.2]
    cases n with
    | none => rfl
    | some n => simp [Tbl.above] at hn ⊢; omega

theorem Tbl.risesFrom_drop (p : Nat → Bool) (t : Tbl α) (n : Option Nat) (h : Tbl.risesFrom n t = true) :
    Tbl.risesFrom n (Tbl.drop p t) = true := by
  induction t generalizing n with
  | nil => cases n <;> rfl
  | cons x t ih =>
    obtain ⟨k, v⟩ := x
    rw [Tbl.risesFrom_cons] at h
    simp at h
    by_cases hp : p k = true
    · simp [Tbl.drop, hp]
      exact Tbl.risesFrom_weaken (Nat.le_refl k) (.inl h.1) (ih _ h.2)
    · simp [Tbl.drop, hp]
      rw [Tbl.risesFrom_cons]
      simp [h.1, ih _ h.2]

theorem Tbl.erase_eq_drop (t : Tbl α) (k : Nat) : Tbl.erase t k = Tbl.drop (fun j => decide (j = k)) t := by
  induction t with
  | nil => rfl
  | cons x t ih =>
    obtain ⟨j, v⟩ := x
    by_cases h : j = k <;> simp [Tbl.erase, Tbl.drop, h, ih]

theorem Tbl.risesFrom_insert (t : Tbl α) (k : Nat) (v : α) (n : Option Nat) (h : Tbl.risesFrom n t = true)
    (hn : Tbl.above n k = true) (hk : ∀ x ∈ t, x.1 ≠ k) : Tbl.risesFrom n (Tbl.insert t k v) = true := by
  induction t generalizing n with
  | nil => simp [Tbl.insert, Tbl.risesFrom_cons, hn, Tbl.risesFrom]
  | cons x t ih =>
    obtain ⟨j, w⟩ := x
    rw [Tbl.risesFrom_cons] at h
    simp at h
    have hj : j ≠ k := hk (j, w) (by simp)
    by_cases hl : k < j
    · have hs : Tbl.above (some k) j = true := by simp [Tbl.above, hl]
      simp [Tbl.insert, hl, Tbl.risesFrom_cons, hn, h.2, hs]
    · have hlt : j < k := by omega
      simp [Tbl.insert, hl, Tbl.risesFrom_cons, h.1]
      exact ih _ h.2 (by simp [Tbl.above, hlt]) (fun x hx => hk x (by simp [hx]))

theorem Tbl.all_drop (q : Nat × α → Bool) (p : Nat → Bool) (t : Tbl α) (h : t.all q = true) :
    (Tbl.drop p t).all q = true := by
  induction t with
  | nil => rfl
  | cons x t ih =>
    obtain ⟨k, v⟩ := x
    simp only [List.all_cons, Bool.and_eq_true] at h
    by_cases hp : p k = true
    · simpa [Tbl.drop, hp] using ih h.2
    · simp only [Tbl.drop, hp, if_false, List.all_cons, h.1, Bool.true_and, Bool.false_eq_true]
      exact ih h.2

theorem Tbl.all_insert (q : Nat × α → Bool) (t : Tbl α) (k : Nat) (v : α) (h : t.all q = true) (hv : q (k, v) = true) :
    (Tbl.insert t k v).all q = true := by
  induction t with
  | nil => simp [Tbl.insert, hv]
  | cons x t ih =>
    obtain ⟨j, w⟩ := x
    simp only [List.all_cons, Bool.and_eq_true] at h
    by_cases hl : k < j
    · simp only [Tbl.insert, hl, if_true, List.all_cons, hv, h.1, h.2, Bool.and_self]
    · simp only [Tbl.insert, hl, if_false, List.all_cons, h.1, Bool.true_and]
      exact ih h.2

variable [DecidableEq α]

theorem Tbl.wf_nil (d : Nat → α) : Tbl.wf d [] = true := rfl

/-- Dropping entries keeps the canonical form. -/
theorem Tbl.wf_drop (d : Nat → α) (p : Nat → Bool) (t : Tbl α) (h : Tbl.wf d t = true) : Tbl.wf d (Tbl.drop p t) = true := by
  simp only [Tbl.wf, Bool.and_eq_true] at h ⊢
  exact ⟨Tbl.risesFrom_drop p t _ h.1, Tbl.all_drop _ p t h.2⟩

/-- A write under the default of its number keeps the canonical form. -/
theorem Tbl.wf_set (d : Nat → α) (t : Tbl α) (k : Nat) (v : α) (h : Tbl.wf d t = true) :
    Tbl.wf d (Tbl.set (d k) t k v) = true := by
  have he : Tbl.wf d (Tbl.erase t k) = true := by rw [Tbl.erase_eq_drop]; exact Tbl.wf_drop d _ t h
  by_cases hv : v = d k
  · simp [Tbl.set, hv, he]
  · simp only [Tbl.set, hv, if_false]
    simp only [Tbl.wf, Bool.and_eq_true] at he ⊢
    exact ⟨Tbl.risesFrom_insert _ k v none he.1 rfl (Tbl.erase_ne t k), Tbl.all_insert _ _ k v he.2 (by simp [hv])⟩

/-- A write of bytes keeps the canonical form of a memory. -/
theorem putBytes_wf (l : List Byte) (t : Tbl Byte) (a : Nat) (h : Tbl.wf (fun _ => (0 : Byte)) t = true) :
    Tbl.wf (fun _ => (0 : Byte)) (putBytes t a l) = true := by
  induction l generalizing t a with
  | nil => exact h
  | cons b l ih => exact ih _ _ (Tbl.wf_set (fun _ => (0 : Byte)) t a b h)

/-- Clearing bytes keeps the canonical form of a memory. -/
theorem clearBytes_wf (t : Tbl Byte) (a n : Nat) (h : Tbl.wf (fun _ => (0 : Byte)) t = true) :
    Tbl.wf (fun _ => (0 : Byte)) (clearBytes t a n) = true := Tbl.wf_drop _ _ t h

/-- A byte outside the bytes written reads as before (R143). -/
theorem getByte_putBytes_outside (l : List Byte) (t : Tbl Byte) (a x : Nat) (h : x < a ∨ a + l.length ≤ x) :
    Tbl.get 0 (putBytes t a l) x = Tbl.get 0 t x := by
  induction l generalizing t a with
  | nil => rfl
  | cons b l ih =>
    simp only [List.length_cons] at h
    rw [putBytes, ih _ _ (by omega), Tbl.get_set_other 0 0 t b (by omega)]

/-- A byte inside the bytes written reads the byte written there. -/
theorem getByte_putBytes_inside (l : List Byte) (t : Tbl Byte) (a i : Nat) (h : i < l.length) :
    Tbl.get 0 (putBytes t a l) (a + i) = l[i] := by
  induction l generalizing t a i with
  | nil => simp at h
  | cons b l ih =>
    cases i with
    | zero => rw [putBytes, getByte_putBytes_outside _ _ _ _ (by omega)]; simp
    | succ i =>
      rw [putBytes, show a + (i + 1) = a + 1 + i by omega, ih _ _ _ (by simpa using h)]
      simp

end Sys2Proof.Machine
end

