-- ==== Sys2Proof/Laws/Regs.lean ====
section
/-!
SUPPORT. Laws/Regs.lean: reading slots, areas and long entries after they are written, and the frames of the event flags.
-/
namespace Sys2Proof.Machine

variable (s : State)

@[simp] theorem State.reg_setReg_same (k : Nat) (w : Word) : (s.setReg k w).reg k = w := by
  simp [State.reg, State.setReg]

theorem State.reg_setReg_other {k j : Nat} (w : Word) (h : j ≠ k) : (s.setReg k w).reg j = s.reg j := by
  simp [State.reg, State.setReg, Tbl.get_set_other _ _ _ _ h]

theorem State.reg_setReg (k j : Nat) (w : Word) : (s.setReg k w).reg j = if j = k then w else s.reg j := by
  by_cases h : j = k
  · simp [h]
  · simp [h, State.reg_setReg_other]

theorem State.toNat_wd {n : Nat} (h : n < 2 ^ 64) : (wd n).toNat = n := by
  unfold wd
  rw [BitVec.toNat_ofNat, Nat.mod_eq_of_lt h]

theorem State.nat_setNat_same {k n : Nat} (h : n < 2 ^ 64) : (s.setNat k n).nat k = n := by
  simp [State.nat, State.setNat, State.toNat_wd h]

theorem State.nat_setNat_other {k j : Nat} (n : Nat) (h : j ≠ k) : (s.setNat k n).nat j = s.nat j := by
  simp [State.nat, State.setNat, State.reg_setReg_other s _ h]

theorem State.reg_setNat_other {k j : Nat} (n : Nat) (h : j ≠ k) : (s.setNat k n).reg j = s.reg j := by
  simp [State.setNat, State.reg_setReg_other s _ h]

theorem State.reg_setBit_other {k j : Nat} (b : Nat) (h : j ≠ k) : (s.setBit k b).reg j = s.reg j := by
  simp [State.setBit, State.reg_setReg_other s _ h]

theorem State.reg_bump_other {k j : Nat} (n w : Nat) (h : j ≠ k) : (s.bump k n w).reg j = s.reg j := by
  simp [State.bump, State.reg_setNat_other s _ h]

theorem State.reg_wrapAdd_other {k j : Nat} (n w : Nat) (h : j ≠ k) : (s.wrapAdd k n w).reg j = s.reg j := by
  simp [State.wrapAdd, State.reg_setNat_other s _ h]

/-- A slot reads the same in states with the same slots. -/
theorem State.reg_of_regs {s t : State} (h : t.regs = s.regs) (k : Nat) : t.reg k = s.reg k := by
  simp [State.reg, h]

@[simp] theorem State.reg_msix (fn vec k : Nat) : (s.msix fn vec).reg k = s.reg k := by
  unfold State.msix
  dsimp only
  split
  · rfl
  · split
    · rfl
    · split <;> rfl

@[simp] theorem State.nat_msix (fn vec k : Nat) : (s.msix fn vec).nat k = s.nat k := by simp [State.nat]

theorem State.reg_timingEvent_other {k b : Nat} (h : k ≠ kTimingEvents) : (s.timingEvent b).reg k = s.reg k := by
  unfold State.timingEvent
  split
  · rfl
  · simp [State.reg_setBit_other s b h]

theorem State.reg_portEvent_other {n k b : Nat} (h : k ≠ kPortEvents n) : (s.portEvent n b).reg k = s.reg k := by
  unfold State.portEvent
  split
  · rfl
  · simp [State.reg_setBit_other s b h]

theorem State.reg_partEvent_other {p k b : Nat} (h : k ≠ kPartEvents p) : (s.partEvent p b).reg k = s.reg k := by
  unfold State.partEvent
  split
  · rfl
  · simp [State.reg_setBit_other s b h]

/-- Setting a bit of a slot sets it. -/
theorem State.bit_setBit (k b : Nat) (h : b < 64) : (s.setBit k b).bit k b = true := by
  simp only [State.bit, State.setBit, State.nat, State.reg_setReg_same, bitOf, wd]
  have hb : ((s.reg k).toNat ||| 2 ^ b).testBit b = true := by simp [Nat.testBit_or, Nat.testBit_two_pow_self]
  rw [Nat.testBit_eq_decide_div_mod_eq] at hb
  simpa [Nat.shiftRight_eq_div_pow, Nat.mod_eq_of_lt (Nat.pow_lt_pow_right (by decide : 1 < 2) h)] using hb

@[simp] theorem State.bit_msix (fn vec k b : Nat) : (s.msix fn vec).bit k b = s.bit k b := by simp [State.bit]

/-- An event of the timebase leaves its flag set. -/
theorem State.bit_timingEvent (b : Nat) (h : b < 64) : (s.timingEvent b).bit kTimingEvents b = true := by
  unfold State.timingEvent
  split
  · assumption
  · simpa using s.bit_setBit _ b h

/-- An event of a port leaves its flag set. -/
theorem State.bit_portEvent (n b : Nat) (h : b < 64) : (s.portEvent n b).bit (kPortEvents n) b = true := by
  unfold State.portEvent
  split
  · assumption
  · simpa using s.bit_setBit _ b h

/-- An event of a partition leaves its flag set. -/
theorem State.bit_partEvent (p b : Nat) (h : b < 64) : (s.partEvent p b).bit (kPartEvents p) b = true := by
  unfold State.partEvent
  split
  · assumption
  · simpa using s.bit_setBit _ b h

/-! ### Requester areas -/

@[simp] theorem State.area_setArea_same (who : Requester) (sub : Nat) (w : Word) : (s.setArea who sub w).area who sub = w := by
  simp [State.area, State.setArea]

theorem State.area_setArea_other (who : Requester) {sub j : Nat} (w : Word) (h : j ≠ sub) :
    (s.setArea who sub w).area who j = s.area who j := by
  simp only [State.area, State.setArea]
  exact Tbl.get_set_other _ _ _ _ (by omega)

@[simp] theorem State.reg_setArea (who : Requester) (sub k : Nat) (w : Word) : (s.setArea who sub w).reg k = s.reg k := rfl

@[simp] theorem State.reg_applied (who : Requester) (k : Nat) : (s.applied who).reg k = s.reg k := by
  simp only [State.applied, State.reg_setArea]

@[simp] theorem State.reg_refuse (who : Requester) (r : Reason) (idx sub k : Nat) : (s.refuse who r idx sub).reg k = s.reg k := by
  unfold State.refuse
  extract_lets w
  rw [State.reg_setArea, State.reg_setArea]

end Sys2Proof.Machine
end

