-- ==== Sys2Proof/Laws/Dict.lean ====
section
/-!
SUPPORT. Laws/Dict.lean: everything a dictionary write can do, said once for slots and once for long entries.
-/
namespace Sys2Proof.Machine

open Sys2Proof.Safety

variable {s u : State} {who : Requester} {e : Ent} {k : Nat} {v : Word} {f : State → EntLoc → Except Reason State}

/-- An accepted write whose effect is not refused is applied. -/
theorem State.slotWrite_applied (h : accepts s who e k v) (hf : ∀ l, f s l = .ok u) : s.slotWrite who e k v f = u.applied who := by
  obtain ⟨hr, l, hl⟩ := h
  simp [State.slotWrite, hr, hl, hf, State.finishWrite]

/-- An accepted write that its chapter refuses changes only the requester's area. -/
theorem State.slotWrite_refused {r : Reason} (h : accepts s who e k v) (hf : ∀ l, f s l = .error r) :
    s.slotWrite who e k v f = s.refuse who r (k / 256) (k % 256) := by
  obtain ⟨hr, l, hl⟩ := h
  simp [State.slotWrite, hr, hl, hf, State.finishWrite]

/-- A write that fails a test of R833 changes only the requester's area. -/
theorem State.slotWrite_gated {r : Reason} (hr : s.requesterOk who = true) (hg : s.gateSlot who e k v = .error r) :
    s.slotWrite who e k v f = s.refuse who r (k / 256) (k % 256) := by
  simp [State.slotWrite, hr, hg, State.finishWrite]

/-- A requester that does not exist changes nothing. -/
theorem State.slotWrite_absent (hr : s.requesterOk who = false) : s.slotWrite who e k v f = s := by
  simp [State.slotWrite, hr]

/-- A write of a slot leaves the state, refuses it, or applies its effect. -/
theorem State.slotWrite_cases :
    (s.requesterOk who = false ∧ s.slotWrite who e k v f = s) ∨
    (∃ r, s.requesterOk who = true ∧ s.slotWrite who e k v f = s.refuse who r (k / 256) (k % 256)) ∨
    (∃ l u, s.requesterOk who = true ∧ s.gateSlot who e k v = .ok l ∧ f s l = .ok u ∧
      s.slotWrite who e k v f = u.applied who) := by
  cases hr : s.requesterOk who
  · exact .inl ⟨rfl, State.slotWrite_absent hr⟩
  · cases hg : s.gateSlot who e k v with
    | error r => exact .inr (.inl ⟨r, rfl, State.slotWrite_gated hr hg⟩)
    | ok l =>
      cases hf : f s l with
      | error r => exact .inr (.inl ⟨r, rfl, by simp [State.slotWrite, hr, hg, hf, State.finishWrite]⟩)
      | ok u => exact .inr (.inr ⟨l, u, rfl, rfl, hf, by simp [State.slotWrite, hr, hg, hf, State.finishWrite]⟩)

/-- A write of a long entry leaves the state, refuses it, or applies its effect. -/
theorem State.dictLong_cases {idx sub : Nat} {bytes : List Byte} :
    (s.requesterOk who = false ∧ s.dictLong who idx sub bytes f = s) ∨
    (∃ r, s.requesterOk who = true ∧ s.dictLong who idx sub bytes f = s.refuse who r idx sub) ∨
    (∃ l u, s.requesterOk who = true ∧ s.gateLong who idx sub bytes = .ok l ∧ f s l = .ok u ∧
      s.dictLong who idx sub bytes f = u.applied who) := by
  cases hr : s.requesterOk who
  · exact .inl ⟨rfl, by simp [State.dictLong, hr]⟩
  · cases hg : s.gateLong who idx sub bytes with
    | error r => exact .inr (.inl ⟨r, rfl, by simp [State.dictLong, hr, hg, State.finishWrite]⟩)
    | ok l =>
      cases hf : f s l with
      | error r => exact .inr (.inl ⟨r, rfl, by simp [State.dictLong, hr, hg, hf, State.finishWrite]⟩)
      | ok u => exact .inr (.inr ⟨l, u, rfl, rfl, hf, by simp [State.dictLong, hr, hg, hf, State.finishWrite]⟩)

/-- An accepted write of a long entry whose effect is not refused is applied. -/
theorem State.dictLong_applied {idx sub : Nat} {bytes : List Byte} (h : acceptsLong s who idx sub bytes)
    (hf : ∀ l, f s l = .ok u) : s.dictLong who idx sub bytes f = u.applied who := by
  obtain ⟨hr, l, hl⟩ := h
  simp [State.dictLong, hr, hl, hf, State.finishWrite]

end Sys2Proof.Machine
end

