-- ==== Sys2Proof/Laws/Memory.lean ====
section
/-!
SUPPORT. Laws/Memory.lean: when a state change keeps the canonical form of every memory.
-/
namespace Sys2Proof.Machine

/-- The canonical form, as a proposition. -/
def Mem (s : State) : Prop := Memory.wf s = true

/-- An effect that is refused or leaves the canonical form. -/
inductive MemE : Except Reason State → Prop where
  | error (r : Reason) : MemE (.error r)
  | ok {t : State} (h : Mem t) : MemE (.ok t)

/-- An outcome whose next state keeps the canonical form. -/
inductive MemO : Host.Outcome State Fault Refusal → Prop where
  | next {t : State} (h : Mem t) : MemO (.next t)
  | refused {r : Refusal} : MemO (.refused r)

theorem mem_iff (s : State) : Mem s ↔
    ((((((((Tbl.wf regDefault s.regs = true ∧ Tbl.wf octDefault s.octs = true) ∧
    Tbl.wf (fun _ => (0 : Word)) s.areas = true) ∧ Tbl.wf (fun _ => (0 : Byte)) s.ls = true) ∧
    Tbl.wf (fun _ => (0 : Byte)) s.fs = true) ∧ Tbl.wf (fun _ => (0 : BitVec 32)) s.acc = true) ∧
    Tbl.wf (fun _ => (0 : Byte)) s.hbm = true) ∧ Tbl.wf (fun _ => (0 : Byte)) s.ackMem = true) ∧
    Tbl.wf (fun _ => (0 : Byte)) s.mario.flash = true) := by
  simp only [Mem, Memory.wf, Bool.and_eq_true]

theorem Mem.regs {s : State} (h : Mem s) : Tbl.wf regDefault s.regs = true := by
  rw [mem_iff] at h; obtain ⟨⟨⟨⟨⟨⟨⟨⟨h1, h2⟩, h3⟩, h4⟩, h5⟩, h6⟩, h7⟩, h8⟩, h9⟩ := h; exact h1
theorem Mem.octs {s : State} (h : Mem s) : Tbl.wf octDefault s.octs = true := by
  rw [mem_iff] at h; obtain ⟨⟨⟨⟨⟨⟨⟨⟨h1, h2⟩, h3⟩, h4⟩, h5⟩, h6⟩, h7⟩, h8⟩, h9⟩ := h; exact h2
theorem Mem.areas {s : State} (h : Mem s) : Tbl.wf (fun _ => (0 : Word)) s.areas = true := by
  rw [mem_iff] at h; obtain ⟨⟨⟨⟨⟨⟨⟨⟨h1, h2⟩, h3⟩, h4⟩, h5⟩, h6⟩, h7⟩, h8⟩, h9⟩ := h; exact h3
theorem Mem.ls {s : State} (h : Mem s) : Tbl.wf (fun _ => (0 : Byte)) s.ls = true := by
  rw [mem_iff] at h; obtain ⟨⟨⟨⟨⟨⟨⟨⟨h1, h2⟩, h3⟩, h4⟩, h5⟩, h6⟩, h7⟩, h8⟩, h9⟩ := h; exact h4
theorem Mem.fs {s : State} (h : Mem s) : Tbl.wf (fun _ => (0 : Byte)) s.fs = true := by
  rw [mem_iff] at h; obtain ⟨⟨⟨⟨⟨⟨⟨⟨h1, h2⟩, h3⟩, h4⟩, h5⟩, h6⟩, h7⟩, h8⟩, h9⟩ := h; exact h5
theorem Mem.acc {s : State} (h : Mem s) : Tbl.wf (fun _ => (0 : BitVec 32)) s.acc = true := by
  rw [mem_iff] at h; obtain ⟨⟨⟨⟨⟨⟨⟨⟨h1, h2⟩, h3⟩, h4⟩, h5⟩, h6⟩, h7⟩, h8⟩, h9⟩ := h; exact h6
theorem Mem.hbm {s : State} (h : Mem s) : Tbl.wf (fun _ => (0 : Byte)) s.hbm = true := by
  rw [mem_iff] at h; obtain ⟨⟨⟨⟨⟨⟨⟨⟨h1, h2⟩, h3⟩, h4⟩, h5⟩, h6⟩, h7⟩, h8⟩, h9⟩ := h; exact h7
theorem Mem.ackMem {s : State} (h : Mem s) : Tbl.wf (fun _ => (0 : Byte)) s.ackMem = true := by
  rw [mem_iff] at h; obtain ⟨⟨⟨⟨⟨⟨⟨⟨h1, h2⟩, h3⟩, h4⟩, h5⟩, h6⟩, h7⟩, h8⟩, h9⟩ := h; exact h8
theorem Mem.flash {s : State} (h : Mem s) : Tbl.wf (fun _ => (0 : Byte)) s.mario.flash = true := by
  rw [mem_iff] at h; exact h.2
theorem Mem.gen {regs octs areas ls fs acc hbm coreMap tlb mapSyncs rings inflight posted nextId runahead fenceWr fenceHandle aborts zeroing asTags granuleQueue streams jobs cuts clean windows sporBytes sporReads fns linkDown out free pending recov slotWait hbmRows hbmCe hbmBad eccRun copies kv gens seeds live tb slips skips ports qps ackMem colls boot holds fcRestarts fcFailed persist saving mario log stop rkey flips msc scrubDebt errs asSat sporTurn sporNext}
    (hregs : Tbl.wf regDefault regs = true)
    (hocts : Tbl.wf octDefault octs = true)
    (hareas : Tbl.wf (fun _ => (0 : Word)) areas = true)
    (hls : Tbl.wf (fun _ => (0 : Byte)) ls = true)
    (hfs : Tbl.wf (fun _ => (0 : Byte)) fs = true)
    (hacc : Tbl.wf (fun _ => (0 : BitVec 32)) acc = true)
    (hhbm : Tbl.wf (fun _ => (0 : Byte)) hbm = true)
    (hackMem : Tbl.wf (fun _ => (0 : Byte)) ackMem = true)
    (hflash : Tbl.wf (fun _ => (0 : Byte)) mario.flash = true) :
    Mem (State.mk regs octs areas ls fs acc hbm coreMap tlb mapSyncs rings inflight posted nextId runahead fenceWr fenceHandle aborts zeroing asTags granuleQueue streams jobs cuts clean windows sporBytes sporReads fns linkDown out free pending recov slotWait hbmRows hbmCe hbmBad eccRun copies kv gens seeds live tb slips skips ports qps ackMem colls boot holds fcRestarts fcFailed persist saving mario log stop rkey flips msc scrubDebt errs asSat sporTurn sporNext) := by
  rw [mem_iff]
  exact ⟨⟨⟨⟨⟨⟨⟨⟨hregs, hocts⟩, hareas⟩, hls⟩, hfs⟩, hacc⟩, hhbm⟩, hackMem⟩, hflash⟩

theorem Mem.irrel {s : State} {coreMap tlb mapSyncs rings inflight posted nextId runahead fenceWr fenceHandle aborts zeroing asTags granuleQueue streams jobs cuts clean windows sporBytes sporReads fns linkDown out free pending recov slotWait hbmRows hbmCe hbmBad eccRun copies kv gens seeds live tb slips skips ports qps colls boot holds fcRestarts fcFailed persist saving mario log stop rkey flips msc scrubDebt errs asSat sporTurn sporNext} (h : Mem s) (hm : mario.flash = s.mario.flash) :
    Mem (State.mk s.regs s.octs s.areas s.ls s.fs s.acc s.hbm coreMap tlb mapSyncs rings inflight posted nextId runahead fenceWr fenceHandle aborts zeroing asTags granuleQueue streams jobs cuts clean windows sporBytes sporReads fns linkDown out free pending recov slotWait hbmRows hbmCe hbmBad eccRun copies kv gens seeds live tb slips skips ports qps s.ackMem colls boot holds fcRestarts fcFailed persist saving mario log stop rkey flips msc scrubDebt errs asSat sporTurn sporNext) :=
  Mem.gen h.regs h.octs h.areas h.ls h.fs h.acc h.hbm h.ackMem (by rw [hm]; exact h.flash)

theorem Mem.with_regs {s : State} {x} (h : Mem s) (hx : Tbl.wf regDefault x = true) : Mem { s with regs := x } :=
  Mem.gen hx h.octs h.areas h.ls h.fs h.acc h.hbm h.ackMem h.flash

theorem Mem.only_regs {s : State} {x} {coreMap tlb mapSyncs rings inflight posted nextId runahead fenceWr fenceHandle aborts zeroing asTags granuleQueue streams jobs cuts clean windows sporBytes sporReads fns linkDown out free pending recov slotWait hbmRows hbmCe hbmBad eccRun copies kv gens seeds live tb slips skips ports qps colls boot holds fcRestarts fcFailed persist saving mario log stop rkey flips msc scrubDebt errs asSat sporTurn sporNext} (h : Mem s) (hx : Tbl.wf regDefault x = true) (hm : mario.flash = s.mario.flash) :
    Mem (State.mk x s.octs s.areas s.ls s.fs s.acc s.hbm coreMap tlb mapSyncs rings inflight posted nextId runahead fenceWr fenceHandle aborts zeroing asTags granuleQueue streams jobs cuts clean windows sporBytes sporReads fns linkDown out free pending recov slotWait hbmRows hbmCe hbmBad eccRun copies kv gens seeds live tb slips skips ports qps s.ackMem colls boot holds fcRestarts fcFailed persist saving mario log stop rkey flips msc scrubDebt errs asSat sporTurn sporNext) :=
  Mem.gen hx h.octs h.areas h.ls h.fs h.acc h.hbm h.ackMem (by rw [hm]; exact h.flash)

theorem Mem.with_octs {s : State} {x} (h : Mem s) (hx : Tbl.wf octDefault x = true) : Mem { s with octs := x } :=
  Mem.gen h.regs hx h.areas h.ls h.fs h.acc h.hbm h.ackMem h.flash

theorem Mem.only_octs {s : State} {x} {coreMap tlb mapSyncs rings inflight posted nextId runahead fenceWr fenceHandle aborts zeroing asTags granuleQueue streams jobs cuts clean windows sporBytes sporReads fns linkDown out free pending recov slotWait hbmRows hbmCe hbmBad eccRun copies kv gens seeds live tb slips skips ports qps colls boot holds fcRestarts fcFailed persist saving mario log stop rkey flips msc scrubDebt errs asSat sporTurn sporNext} (h : Mem s) (hx : Tbl.wf octDefault x = true) (hm : mario.flash = s.mario.flash) :
    Mem (State.mk s.regs x s.areas s.ls s.fs s.acc s.hbm coreMap tlb mapSyncs rings inflight posted nextId runahead fenceWr fenceHandle aborts zeroing asTags granuleQueue streams jobs cuts clean windows sporBytes sporReads fns linkDown out free pending recov slotWait hbmRows hbmCe hbmBad eccRun copies kv gens seeds live tb slips skips ports qps s.ackMem colls boot holds fcRestarts fcFailed persist saving mario log stop rkey flips msc scrubDebt errs asSat sporTurn sporNext) :=
  Mem.gen h.regs hx h.areas h.ls h.fs h.acc h.hbm h.ackMem (by rw [hm]; exact h.flash)

theorem Mem.with_areas {s : State} {x} (h : Mem s) (hx : Tbl.wf (fun _ => (0 : Word)) x = true) : Mem { s with areas := x } :=
  Mem.gen h.regs h.octs hx h.ls h.fs h.acc h.hbm h.ackMem h.flash

theorem Mem.only_areas {s : State} {x} {coreMap tlb mapSyncs rings inflight posted nextId runahead fenceWr fenceHandle aborts zeroing asTags granuleQueue streams jobs cuts clean windows sporBytes sporReads fns linkDown out free pending recov slotWait hbmRows hbmCe hbmBad eccRun copies kv gens seeds live tb slips skips ports qps colls boot holds fcRestarts fcFailed persist saving mario log stop rkey flips msc scrubDebt errs asSat sporTurn sporNext} (h : Mem s) (hx : Tbl.wf (fun _ => (0 : Word)) x = true) (hm : mario.flash = s.mario.flash) :
    Mem (State.mk s.regs s.octs x s.ls s.fs s.acc s.hbm coreMap tlb mapSyncs rings inflight posted nextId runahead fenceWr fenceHandle aborts zeroing asTags granuleQueue streams jobs cuts clean windows sporBytes sporReads fns linkDown out free pending recov slotWait hbmRows hbmCe hbmBad eccRun copies kv gens seeds live tb slips skips ports qps s.ackMem colls boot holds fcRestarts fcFailed persist saving mario log stop rkey flips msc scrubDebt errs asSat sporTurn sporNext) :=
  Mem.gen h.regs h.octs hx h.ls h.fs h.acc h.hbm h.ackMem (by rw [hm]; exact h.flash)

theorem Mem.with_ls {s : State} {x} (h : Mem s) (hx : Tbl.wf (fun _ => (0 : Byte)) x = true) : Mem { s with ls := x } :=
  Mem.gen h.regs h.octs h.areas hx h.fs h.acc h.hbm h.ackMem h.flash

theorem Mem.only_ls {s : State} {x} {coreMap tlb mapSyncs rings inflight posted nextId runahead fenceWr fenceHandle aborts zeroing asTags granuleQueue streams jobs cuts clean windows sporBytes sporReads fns linkDown out free pending recov slotWait hbmRows hbmCe hbmBad eccRun copies kv gens seeds live tb slips skips ports qps colls boot holds fcRestarts fcFailed persist saving mario log stop rkey flips msc scrubDebt errs asSat sporTurn sporNext} (h : Mem s) (hx : Tbl.wf (fun _ => (0 : Byte)) x = true) (hm : mario.flash = s.mario.flash) :
    Mem (State.mk s.regs s.octs s.areas x s.fs s.acc s.hbm coreMap tlb mapSyncs rings inflight posted nextId runahead fenceWr fenceHandle aborts zeroing asTags granuleQueue streams jobs cuts clean windows sporBytes sporReads fns linkDown out free pending recov slotWait hbmRows hbmCe hbmBad eccRun copies kv gens seeds live tb slips skips ports qps s.ackMem colls boot holds fcRestarts fcFailed persist saving mario log stop rkey flips msc scrubDebt errs asSat sporTurn sporNext) :=
  Mem.gen h.regs h.octs h.areas hx h.fs h.acc h.hbm h.ackMem (by rw [hm]; exact h.flash)

theorem Mem.with_fs {s : State} {x} (h : Mem s) (hx : Tbl.wf (fun _ => (0 : Byte)) x = true) : Mem { s with fs := x } :=
  Mem.gen h.regs h.octs h.areas h.ls hx h.acc h.hbm h.ackMem h.flash

theorem Mem.only_fs {s : State} {x} {coreMap tlb mapSyncs rings inflight posted nextId runahead fenceWr fenceHandle aborts zeroing asTags granuleQueue streams jobs cuts clean windows sporBytes sporReads fns linkDown out free pending recov slotWait hbmRows hbmCe hbmBad eccRun copies kv gens seeds live tb slips skips ports qps colls boot holds fcRestarts fcFailed persist saving mario log stop rkey flips msc scrubDebt errs asSat sporTurn sporNext} (h : Mem s) (hx : Tbl.wf (fun _ => (0 : Byte)) x = true) (hm : mario.flash = s.mario.flash) :
    Mem (State.mk s.regs s.octs s.areas s.ls x s.acc s.hbm coreMap tlb mapSyncs rings inflight posted nextId runahead fenceWr fenceHandle aborts zeroing asTags granuleQueue streams jobs cuts clean windows sporBytes sporReads fns linkDown out free pending recov slotWait hbmRows hbmCe hbmBad eccRun copies kv gens seeds live tb slips skips ports qps s.ackMem colls boot holds fcRestarts fcFailed persist saving mario log stop rkey flips msc scrubDebt errs asSat sporTurn sporNext) :=
  Mem.gen h.regs h.octs h.areas h.ls hx h.acc h.hbm h.ackMem (by rw [hm]; exact h.flash)

theorem Mem.with_acc {s : State} {x} (h : Mem s) (hx : Tbl.wf (fun _ => (0 : BitVec 32)) x = true) : Mem { s with acc := x } :=
  Mem.gen h.regs h.octs h.areas h.ls h.fs hx h.hbm h.ackMem h.flash

theorem Mem.only_acc {s : State} {x} {coreMap tlb mapSyncs rings inflight posted nextId runahead fenceWr fenceHandle aborts zeroing asTags granuleQueue streams jobs cuts clean windows sporBytes sporReads fns linkDown out free pending recov slotWait hbmRows hbmCe hbmBad eccRun copies kv gens seeds live tb slips skips ports qps colls boot holds fcRestarts fcFailed persist saving mario log stop rkey flips msc scrubDebt errs asSat sporTurn sporNext} (h : Mem s) (hx : Tbl.wf (fun _ => (0 : BitVec 32)) x = true) (hm : mario.flash = s.mario.flash) :
    Mem (State.mk s.regs s.octs s.areas s.ls s.fs x s.hbm coreMap tlb mapSyncs rings inflight posted nextId runahead fenceWr fenceHandle aborts zeroing asTags granuleQueue streams jobs cuts clean windows sporBytes sporReads fns linkDown out free pending recov slotWait hbmRows hbmCe hbmBad eccRun copies kv gens seeds live tb slips skips ports qps s.ackMem colls boot holds fcRestarts fcFailed persist saving mario log stop rkey flips msc scrubDebt errs asSat sporTurn sporNext) :=
  Mem.gen h.regs h.octs h.areas h.ls h.fs hx h.hbm h.ackMem (by rw [hm]; exact h.flash)

theorem Mem.with_hbm {s : State} {x} (h : Mem s) (hx : Tbl.wf (fun _ => (0 : Byte)) x = true) : Mem { s with hbm := x } :=
  Mem.gen h.regs h.octs h.areas h.ls h.fs h.acc hx h.ackMem h.flash

theorem Mem.only_hbm {s : State} {x} {coreMap tlb mapSyncs rings inflight posted nextId runahead fenceWr fenceHandle aborts zeroing asTags granuleQueue streams jobs cuts clean windows sporBytes sporReads fns linkDown out free pending recov slotWait hbmRows hbmCe hbmBad eccRun copies kv gens seeds live tb slips skips ports qps colls boot holds fcRestarts fcFailed persist saving mario log stop rkey flips msc scrubDebt errs asSat sporTurn sporNext} (h : Mem s) (hx : Tbl.wf (fun _ => (0 : Byte)) x = true) (hm : mario.flash = s.mario.flash) :
    Mem (State.mk s.regs s.octs s.areas s.ls s.fs s.acc x coreMap tlb mapSyncs rings inflight posted nextId runahead fenceWr fenceHandle aborts zeroing asTags granuleQueue streams jobs cuts clean windows sporBytes sporReads fns linkDown out free pending recov slotWait hbmRows hbmCe hbmBad eccRun copies kv gens seeds live tb slips skips ports qps s.ackMem colls boot holds fcRestarts fcFailed persist saving mario log stop rkey flips msc scrubDebt errs asSat sporTurn sporNext) :=
  Mem.gen h.regs h.octs h.areas h.ls h.fs h.acc hx h.ackMem (by rw [hm]; exact h.flash)

theorem Mem.with_ackMem {s : State} {x} (h : Mem s) (hx : Tbl.wf (fun _ => (0 : Byte)) x = true) : Mem { s with ackMem := x } :=
  Mem.gen h.regs h.octs h.areas h.ls h.fs h.acc h.hbm hx h.flash

theorem Mem.only_ackMem {s : State} {x} {coreMap tlb mapSyncs rings inflight posted nextId runahead fenceWr fenceHandle aborts zeroing asTags granuleQueue streams jobs cuts clean windows sporBytes sporReads fns linkDown out free pending recov slotWait hbmRows hbmCe hbmBad eccRun copies kv gens seeds live tb slips skips ports qps colls boot holds fcRestarts fcFailed persist saving mario log stop rkey flips msc scrubDebt errs asSat sporTurn sporNext} (h : Mem s) (hx : Tbl.wf (fun _ => (0 : Byte)) x = true) (hm : mario.flash = s.mario.flash) :
    Mem (State.mk s.regs s.octs s.areas s.ls s.fs s.acc s.hbm coreMap tlb mapSyncs rings inflight posted nextId runahead fenceWr fenceHandle aborts zeroing asTags granuleQueue streams jobs cuts clean windows sporBytes sporReads fns linkDown out free pending recov slotWait hbmRows hbmCe hbmBad eccRun copies kv gens seeds live tb slips skips ports qps x colls boot holds fcRestarts fcFailed persist saving mario log stop rkey flips msc scrubDebt errs asSat sporTurn sporNext) :=
  Mem.gen h.regs h.octs h.areas h.ls h.fs h.acc h.hbm hx (by rw [hm]; exact h.flash)

/-- Every memory but one keeps its form. -/
def MemBut (f : Nat) (s : State) : Prop :=
  (f = 0 ∨ Tbl.wf regDefault s.regs = true) ∧ (f = 1 ∨ Tbl.wf octDefault s.octs = true) ∧
  (f = 2 ∨ Tbl.wf (fun _ => (0 : Word)) s.areas = true) ∧ (f = 3 ∨ Tbl.wf (fun _ => (0 : Byte)) s.ls = true) ∧
  (f = 4 ∨ Tbl.wf (fun _ => (0 : Byte)) s.fs = true) ∧ (f = 5 ∨ Tbl.wf (fun _ => (0 : BitVec 32)) s.acc = true) ∧
  (f = 6 ∨ Tbl.wf (fun _ => (0 : Byte)) s.hbm = true) ∧ (f = 7 ∨ Tbl.wf (fun _ => (0 : Byte)) s.ackMem = true) ∧
  (f = 8 ∨ Tbl.wf (fun _ => (0 : Byte)) s.mario.flash = true)

theorem Mem.but {s : State} (h : Mem s) (f : Nat) : MemBut f s :=
  ⟨.inr h.regs, .inr h.octs, .inr h.areas, .inr h.ls, .inr h.fs, .inr h.acc, .inr h.hbm, .inr h.ackMem, .inr h.flash⟩

theorem Mem.irrel_eq {s : State} {coreMap tlb mapSyncs rings inflight posted nextId runahead fenceWr fenceHandle aborts zeroing asTags granuleQueue streams jobs cuts clean windows sporBytes sporReads fns linkDown out free pending recov slotWait hbmRows hbmCe hbmBad eccRun copies kv gens seeds live tb slips skips ports qps colls boot holds fcRestarts fcFailed persist saving mario log stop rkey flips msc scrubDebt errs asSat sporTurn sporNext} (hm : mario.flash = s.mario.flash) :
    Mem (State.mk s.regs s.octs s.areas s.ls s.fs s.acc s.hbm coreMap tlb mapSyncs rings inflight posted nextId runahead fenceWr fenceHandle aborts zeroing asTags granuleQueue streams jobs cuts clean windows sporBytes sporReads fns linkDown out free pending recov slotWait hbmRows hbmCe hbmBad eccRun copies kv gens seeds live tb slips skips ports qps s.ackMem colls boot holds fcRestarts fcFailed persist saving mario log stop rkey flips msc scrubDebt errs asSat sporTurn sporNext) ↔ Mem s := by
  simp only [mem_iff, hm]

theorem Mem.regs_eq {s : State} {x} {coreMap tlb mapSyncs rings inflight posted nextId runahead fenceWr fenceHandle aborts zeroing asTags granuleQueue streams jobs cuts clean windows sporBytes sporReads fns linkDown out free pending recov slotWait hbmRows hbmCe hbmBad eccRun copies kv gens seeds live tb slips skips ports qps colls boot holds fcRestarts fcFailed persist saving mario log stop rkey flips msc scrubDebt errs asSat sporTurn sporNext} (hm : mario.flash = s.mario.flash) :
    Mem (State.mk x s.octs s.areas s.ls s.fs s.acc s.hbm coreMap tlb mapSyncs rings inflight posted nextId runahead fenceWr fenceHandle aborts zeroing asTags granuleQueue streams jobs cuts clean windows sporBytes sporReads fns linkDown out free pending recov slotWait hbmRows hbmCe hbmBad eccRun copies kv gens seeds live tb slips skips ports qps s.ackMem colls boot holds fcRestarts fcFailed persist saving mario log stop rkey flips msc scrubDebt errs asSat sporTurn sporNext) ↔
      (Tbl.wf regDefault x = true ∧ MemBut 0 s) := by
  simp only [mem_iff, hm, MemBut]; simp; tauto

theorem Mem.octs_eq {s : State} {x} {coreMap tlb mapSyncs rings inflight posted nextId runahead fenceWr fenceHandle aborts zeroing asTags granuleQueue streams jobs cuts clean windows sporBytes sporReads fns linkDown out free pending recov slotWait hbmRows hbmCe hbmBad eccRun copies kv gens seeds live tb slips skips ports qps colls boot holds fcRestarts fcFailed persist saving mario log stop rkey flips msc scrubDebt errs asSat sporTurn sporNext} (hm : mario.flash = s.mario.flash) :
    Mem (State.mk s.regs x s.areas s.ls s.fs s.acc s.hbm coreMap tlb mapSyncs rings inflight posted nextId runahead fenceWr fenceHandle aborts zeroing asTags granuleQueue streams jobs cuts clean windows sporBytes sporReads fns linkDown out free pending recov slotWait hbmRows hbmCe hbmBad eccRun copies kv gens seeds live tb slips skips ports qps s.ackMem colls boot holds fcRestarts fcFailed persist saving mario log stop rkey flips msc scrubDebt errs asSat sporTurn sporNext) ↔
      (Tbl.wf octDefault x = true ∧ MemBut 1 s) := by
  simp only [mem_iff, hm, MemBut]; simp; tauto

theorem Mem.areas_eq {s : State} {x} {coreMap tlb mapSyncs rings inflight posted nextId runahead fenceWr fenceHandle aborts zeroing asTags granuleQueue streams jobs cuts clean windows sporBytes sporReads fns linkDown out free pending recov slotWait hbmRows hbmCe hbmBad eccRun copies kv gens seeds live tb slips skips ports qps colls boot holds fcRestarts fcFailed persist saving mario log stop rkey flips msc scrubDebt errs asSat sporTurn sporNext} (hm : mario.flash = s.mario.flash) :
    Mem (State.mk s.regs s.octs x s.ls s.fs s.acc s.hbm coreMap tlb mapSyncs rings inflight posted nextId runahead fenceWr fenceHandle aborts zeroing asTags granuleQueue streams jobs cuts clean windows sporBytes sporReads fns linkDown out free pending recov slotWait hbmRows hbmCe hbmBad eccRun copies kv gens seeds live tb slips skips ports qps s.ackMem colls boot holds fcRestarts fcFailed persist saving mario log stop rkey flips msc scrubDebt errs asSat sporTurn sporNext) ↔
      (Tbl.wf (fun _ => (0 : Word)) x = true ∧ MemBut 2 s) := by
  simp only [mem_iff, hm, MemBut]; simp; tauto

theorem Mem.ls_eq {s : State} {x} {coreMap tlb mapSyncs rings inflight posted nextId runahead fenceWr fenceHandle aborts zeroing asTags granuleQueue streams jobs cuts clean windows sporBytes sporReads fns linkDown out free pending recov slotWait hbmRows hbmCe hbmBad eccRun copies kv gens seeds live tb slips skips ports qps colls boot holds fcRestarts fcFailed persist saving mario log stop rkey flips msc scrubDebt errs asSat sporTurn sporNext} (hm : mario.flash = s.mario.flash) :
    Mem (State.mk s.regs s.octs s.areas x s.fs s.acc s.hbm coreMap tlb mapSyncs rings inflight posted nextId runahead fenceWr fenceHandle aborts zeroing asTags granuleQueue streams jobs cuts clean windows sporBytes sporReads fns linkDown out free pending recov slotWait hbmRows hbmCe hbmBad eccRun copies kv gens seeds live tb slips skips ports qps s.ackMem colls boot holds fcRestarts fcFailed persist saving mario log stop rkey flips msc scrubDebt errs asSat sporTurn sporNext) ↔
      (Tbl.wf (fun _ => (0 : Byte)) x = true ∧ MemBut 3 s) := by
  simp only [mem_iff, hm, MemBut]; simp; tauto

theorem Mem.fs_eq {s : State} {x} {coreMap tlb mapSyncs rings inflight posted nextId runahead fenceWr fenceHandle aborts zeroing asTags granuleQueue streams jobs cuts clean windows sporBytes sporReads fns linkDown out free pending recov slotWait hbmRows hbmCe hbmBad eccRun copies kv gens seeds live tb slips skips ports qps colls boot holds fcRestarts fcFailed persist saving mario log stop rkey flips msc scrubDebt errs asSat sporTurn sporNext} (hm : mario.flash = s.mario.flash) :
    Mem (State.mk s.regs s.octs s.areas s.ls x s.acc s.hbm coreMap tlb mapSyncs rings inflight posted nextId runahead fenceWr fenceHandle aborts zeroing asTags granuleQueue streams jobs cuts clean windows sporBytes sporReads fns linkDown out free pending recov slotWait hbmRows hbmCe hbmBad eccRun copies kv gens seeds live tb slips skips ports qps s.ackMem colls boot holds fcRestarts fcFailed persist saving mario log stop rkey flips msc scrubDebt errs asSat sporTurn sporNext) ↔
      (Tbl.wf (fun _ => (0 : Byte)) x = true ∧ MemBut 4 s) := by
  simp only [mem_iff, hm, MemBut]; simp; tauto

theorem Mem.acc_eq {s : State} {x} {coreMap tlb mapSyncs rings inflight posted nextId runahead fenceWr fenceHandle aborts zeroing asTags granuleQueue streams jobs cuts clean windows sporBytes sporReads fns linkDown out free pending recov slotWait hbmRows hbmCe hbmBad eccRun copies kv gens seeds live tb slips skips ports qps colls boot holds fcRestarts fcFailed persist saving mario log stop rkey flips msc scrubDebt errs asSat sporTurn sporNext} (hm : mario.flash = s.mario.flash) :
    Mem (State.mk s.regs s.octs s.areas s.ls s.fs x s.hbm coreMap tlb mapSyncs rings inflight posted nextId runahead fenceWr fenceHandle aborts zeroing asTags granuleQueue streams jobs cuts clean windows sporBytes sporReads fns linkDown out free pending recov slotWait hbmRows hbmCe hbmBad eccRun copies kv gens seeds live tb slips skips ports qps s.ackMem colls boot holds fcRestarts fcFailed persist saving mario log stop rkey flips msc scrubDebt errs asSat sporTurn sporNext) ↔
      (Tbl.wf (fun _ => (0 : BitVec 32)) x = true ∧ MemBut 5 s) := by
  simp only [mem_iff, hm, MemBut]; simp; tauto

theorem Mem.hbm_eq {s : State} {x} {coreMap tlb mapSyncs rings inflight posted nextId runahead fenceWr fenceHandle aborts zeroing asTags granuleQueue streams jobs cuts clean windows sporBytes sporReads fns linkDown out free pending recov slotWait hbmRows hbmCe hbmBad eccRun copies kv gens seeds live tb slips skips ports qps colls boot holds fcRestarts fcFailed persist saving mario log stop rkey flips msc scrubDebt errs asSat sporTurn sporNext} (hm : mario.flash = s.mario.flash) :
    Mem (State.mk s.regs s.octs s.areas s.ls s.fs s.acc x coreMap tlb mapSyncs rings inflight posted nextId runahead fenceWr fenceHandle aborts zeroing asTags granuleQueue streams jobs cuts clean windows sporBytes sporReads fns linkDown out free pending recov slotWait hbmRows hbmCe hbmBad eccRun copies kv gens seeds live tb slips skips ports qps s.ackMem colls boot holds fcRestarts fcFailed persist saving mario log stop rkey flips msc scrubDebt errs asSat sporTurn sporNext) ↔
      (Tbl.wf (fun _ => (0 : Byte)) x = true ∧ MemBut 6 s) := by
  simp only [mem_iff, hm, MemBut]; simp; tauto

theorem Mem.ackMem_eq {s : State} {x} {coreMap tlb mapSyncs rings inflight posted nextId runahead fenceWr fenceHandle aborts zeroing asTags granuleQueue streams jobs cuts clean windows sporBytes sporReads fns linkDown out free pending recov slotWait hbmRows hbmCe hbmBad eccRun copies kv gens seeds live tb slips skips ports qps colls boot holds fcRestarts fcFailed persist saving mario log stop rkey flips msc scrubDebt errs asSat sporTurn sporNext} (hm : mario.flash = s.mario.flash) :
    Mem (State.mk s.regs s.octs s.areas s.ls s.fs s.acc s.hbm coreMap tlb mapSyncs rings inflight posted nextId runahead fenceWr fenceHandle aborts zeroing asTags granuleQueue streams jobs cuts clean windows sporBytes sporReads fns linkDown out free pending recov slotWait hbmRows hbmCe hbmBad eccRun copies kv gens seeds live tb slips skips ports qps x colls boot holds fcRestarts fcFailed persist saving mario log stop rkey flips msc scrubDebt errs asSat sporTurn sporNext) ↔
      (Tbl.wf (fun _ => (0 : Byte)) x = true ∧ MemBut 7 s) := by
  simp only [mem_iff, hm, MemBut]; simp; tauto

theorem Mem.mk_eq {regs octs areas ls fs acc hbm coreMap tlb mapSyncs rings inflight posted nextId runahead fenceWr fenceHandle aborts zeroing asTags granuleQueue streams jobs cuts clean windows sporBytes sporReads fns linkDown out free pending recov slotWait hbmRows hbmCe hbmBad eccRun copies kv gens seeds live tb slips skips ports qps ackMem colls boot holds fcRestarts fcFailed persist saving mario log stop rkey flips msc scrubDebt errs asSat sporTurn sporNext} :
    Mem (State.mk regs octs areas ls fs acc hbm coreMap tlb mapSyncs rings inflight posted nextId runahead fenceWr fenceHandle aborts zeroing asTags granuleQueue streams jobs cuts clean windows sporBytes sporReads fns linkDown out free pending recov slotWait hbmRows hbmCe hbmBad eccRun copies kv gens seeds live tb slips skips ports qps ackMem colls boot holds fcRestarts fcFailed persist saving mario log stop rkey flips msc scrubDebt errs asSat sporTurn sporNext) ↔ Tbl.wf regDefault regs = true ∧ Tbl.wf octDefault octs = true ∧ Tbl.wf (fun _ => (0 : Word)) areas = true ∧ Tbl.wf (fun _ => (0 : Byte)) ls = true ∧ Tbl.wf (fun _ => (0 : Byte)) fs = true ∧ Tbl.wf (fun _ => (0 : BitVec 32)) acc = true ∧ Tbl.wf (fun _ => (0 : Byte)) hbm = true ∧ Tbl.wf (fun _ => (0 : Byte)) ackMem = true ∧
      Tbl.wf (fun _ => (0 : Byte)) mario.flash = true := by
  simp only [mem_iff]; tauto

theorem Mem.ite {c : Prop} [Decidable c] {a b : State} (ha : Mem a) (hb : Mem b) : Mem (if c then a else b) := by
  split <;> assumption

theorem Mem.dite2 {α : Type} {c : Prop} [Decidable c] {a b : α × State} (ha : Mem a.2) (hb : Mem b.2) :
    Mem (if c then a else b).2 := by split <;> assumption

theorem Mem.foldl {α : Type} {f : State → α → State} {l : List α} {s : State} (h : Mem s)
    (hf : ∀ s x, Mem s → Mem (f s x)) : Mem (l.foldl f s) := by
  induction l generalizing s with
  | nil => exact h
  | cons x l ih => exact ih (hf s x h)

theorem Mem.foldl2 {α β : Type} {f : β × State → α → β × State} {l : List α} {a : β × State} (h : Mem a.2)
    (hf : ∀ a x, Mem a.2 → Mem (f a x).2) : Mem (l.foldl f a).2 := by
  induction l generalizing a with
  | nil => exact h
  | cons x l ih => exact ih (hf a x h)

theorem Mem.foldl1 {α β : Type} {f : State × β → α → State × β} {l : List α} {a : State × β} (h : Mem a.1)
    (hf : ∀ a x, Mem a.1 → Mem (f a x).1) : Mem (l.foldl f a).1 := by
  induction l generalizing a with
  | nil => exact h
  | cons x l ih => exact ih (hf a x h)

theorem Mem.snd {α : Type} {p : α × State} {a : α} {t : State} (e : p = (a, t)) (h : Mem p.2) : Mem t := by
  rw [e] at h; exact h

theorem Mem.fst {α : Type} {p : State × α} {a : α} {t : State} (e : p = (t, a)) (h : Mem p.1) : Mem t := by
  rw [e] at h; exact h

theorem MemE.ite {c : Prop} [Decidable c] {a b : Except Reason State} (ha : MemE a) (hb : MemE b) :
    MemE (if c then a else b) := by split <;> assumption

theorem MemE.orRefuse {c : Bool} {r : Reason} {t : State} (h : Mem t) : MemE (Machine.orRefuse c r t) := by
  unfold Machine.orRefuse; split
  · exact MemE.ok h
  · exact MemE.error r

theorem MemO.ite {c : Prop} [Decidable c] {a b : Host.Outcome State Fault Refusal} (ha : MemO a) (hb : MemO b) :
    MemO (if c then a else b) := by split <;> assumption

theorem Mem.snd3 {α β : Type} {p : α × β × State} {a : α} {b : β} {t : State} (e : p = (a, b, t)) (h : Mem p.2.2) : Mem t := by
  rw [e] at h; exact h

theorem MemE.get {r : Except Reason State} {t : State} (e : r = .ok t) (h : MemE r) : Mem t := by
  rw [e] at h; cases h; assumption

theorem Mem.foldl4 {α β γ δ : Type} {f : β × γ × δ × State → α → β × γ × δ × State} {l : List α}
    {a : β × γ × δ × State} (h : Mem a.2.2.2) (hf : ∀ a x, Mem a.2.2.2 → Mem (f a x).2.2.2) :
    Mem (l.foldl f a).2.2.2 := by
  induction l generalizing a with
  | nil => exact h
  | cons x l ih => exact ih (hf a x h)

theorem kept_octs_wf {warm : Bool} {t : Tbl Byte} (h : Tbl.wf octDefault t = true) :
    Tbl.wf octDefault (keptOcts warm t) = true := by
  have key : ∀ (p : Nat × Byte → Bool) (n : Option Nat) (t : Tbl Byte), Tbl.risesFrom n t = true →
      Tbl.risesFrom n (t.filter p) = true := by
    intro p n t
    induction t generalizing n with
    | nil => intro _; cases n <;> rfl
    | cons x t ih =>
      obtain ⟨k, v⟩ := x
      intro h
      rw [Tbl.risesFrom_cons] at h
      simp only [Bool.and_eq_true] at h
      by_cases hp : p (k, v) = true
      · rw [List.filter_cons_of_pos hp, Tbl.risesFrom_cons]
        simp [h.1, ih _ h.2]
      · rw [List.filter_cons_of_neg hp]
        exact Tbl.risesFrom_weaken (Nat.le_refl k) (.inl h.1) (ih _ h.2)
  simp only [Tbl.wf, Bool.and_eq_true, List.all_eq_true] at h ⊢
  exact ⟨key _ _ _ h.1, fun x hx => h.2 x (List.mem_of_mem_filter hx)⟩

theorem Mario.setSig_flash (m : Mario) (k : Nat) (v : Bool) : (m.setSig k v).flash = m.flash := by
  unfold Mario.setSig; split <;> rfl

theorem rises_append {α : Type} {a b : Tbl α} {n : Option Nat} (ha : Tbl.risesFrom n a = true)
    (hb : Tbl.risesFrom none b = true) (hlt : ∀ x ∈ a, ∀ y ∈ b, x.1 < y.1) (hn : ∀ y ∈ b, Tbl.above n y.1 = true) :
    Tbl.risesFrom n (a ++ b) = true := by
  induction a generalizing n with
  | nil =>
    cases b with
    | nil => cases n <;> rfl
    | cons y b =>
      rw [List.nil_append]
      rw [Tbl.risesFrom_cons] at hb ⊢
      simp only [Bool.and_eq_true] at hb ⊢
      exact ⟨hn y (by simp), hb.2⟩
  | cons x a ih =>
    rw [List.cons_append]
    rw [Tbl.risesFrom_cons] at ha ⊢
    simp only [Bool.and_eq_true] at ha ⊢
    exact ⟨ha.1, ih ha.2 (fun x hx => hlt x (by simp [hx])) (fun y hy => by
      simp only [Tbl.above, decide_eq_true_eq]; exact hlt x (by simp) y hy)⟩

theorem mem_drop {α : Type} {p : Nat → Bool} {t : Tbl α} {x : Nat × α} (h : x ∈ Tbl.drop p t) : p x.1 = false := by
  induction t with
  | nil => cases h
  | cons y t ih =>
    obtain ⟨k, v⟩ := y
    by_cases hp : p k = true
    · simp only [Tbl.drop, hp, if_true] at h; exact ih h
    · simp only [Tbl.drop, hp, if_false, Bool.false_eq_true, List.mem_cons] at h
      rcases h with rfl | h
      · simpa using hp
      · exact ih h

theorem splice_wf {α : Type} [DecidableEq α] {d : Nat → α} {lo hi : Nat} {a b : Tbl α} (hl : lo ≤ hi)
    (ha : Tbl.wf d a = true) (hb : Tbl.wf d b = true) : Tbl.wf d (spliceTbl lo hi a b) = true := by
  have h1 := Tbl.wf_drop d (fun k => decide (lo ≤ k)) a ha
  have h2 := Tbl.wf_drop d (fun k => !(decide (lo ≤ k) && decide (k < hi))) b hb
  have h3 := Tbl.wf_drop d (fun k => decide (k < hi)) a ha
  have m1 : ∀ x ∈ Tbl.drop (fun k => decide (lo ≤ k)) a, x.1 < lo := fun x hx => by
    have := mem_drop hx; simp at this; exact this
  have m2 : ∀ x ∈ Tbl.drop (fun k => !(decide (lo ≤ k) && decide (k < hi))) b, lo ≤ x.1 ∧ x.1 < hi := fun x hx => by
    have := mem_drop hx; simp at this; exact this
  have m3 : ∀ x ∈ Tbl.drop (fun k => decide (k < hi)) a, hi ≤ x.1 := fun x hx => by
    have := mem_drop hx; simp at this; exact this
  unfold spliceTbl
  simp only [Tbl.wf, Bool.and_eq_true] at h1 h2 h3 ⊢
  refine ⟨rises_append (rises_append h1.1 h2.1 ?_ ?_) h3.1 ?_ ?_, ?_⟩
  · intro x hx y hy; exact Nat.lt_of_lt_of_le (m1 x hx) (m2 y hy).1
  · intro y _; rfl
  · intro x hx y hy
    rcases List.mem_append.1 hx with h | h
    · exact Nat.lt_of_lt_of_le (m1 x h) (Nat.le_trans hl (m3 y hy))
    · exact Nat.lt_of_lt_of_le (m2 x h).2 (m3 y hy)
  · intro y _; rfl
  · rw [List.all_append, List.all_append, h1.2, h2.2, h3.2]; rfl

theorem regs_set {t : Tbl Word} {k : Nat} {v : Word} (h : Tbl.wf regDefault t = true) :
    Tbl.wf regDefault (Tbl.set (regDefault k) t k v) = true := Tbl.wf_set _ _ _ _ h

theorem octs_set {t : Tbl Byte} {k : Nat} {v : Byte} (h : Tbl.wf octDefault t = true) :
    Tbl.wf octDefault (Tbl.set (octDefault k) t k v) = true := Tbl.wf_set _ _ _ _ h

theorem zero_set {α : Type} [DecidableEq α] {d : α} {t : Tbl α} {k : Nat} {v : α} (h : Tbl.wf (fun _ => d) t = true) :
    Tbl.wf (fun _ => d) (Tbl.set d t k v) = true := Tbl.wf_set (fun _ => d) _ _ _ h

theorem put_bytes {t : Tbl Byte} {a : Nat} {l : List Byte} (h : Tbl.wf (fun _ => (0 : Byte)) t = true) :
    Tbl.wf (fun _ => (0 : Byte)) (putBytes t a l) = true := putBytes_wf l t a h

theorem clear_bytes {t : Tbl Byte} {a n : Nat} (h : Tbl.wf (fun _ => (0 : Byte)) t = true) :
    Tbl.wf (fun _ => (0 : Byte)) (clearBytes t a n) = true := clearBytes_wf t a n h

theorem drop_wf {α : Type} [DecidableEq α] {d : Nat → α} {p : Nat → Bool} {t : Tbl α} (h : Tbl.wf d t = true) :
    Tbl.wf d (Tbl.drop p t) = true := Tbl.wf_drop _ _ _ h

theorem flash_wf {s : State} {f : Tbl Byte} (e : f = s.mario.flash) (h : Mem s) :
    Tbl.wf (fun _ => (0 : Byte)) f = true := by rw [e]; exact h.flash

end Sys2Proof.Machine
end

