-- ==== Sys2Proof/Laws/MemoryOps.lean ====
section
/-!
SUPPORT. Laws/MemoryOps.lean: every operation keeps the canonical form of every memory: the shared operations, the timebase, links and Sporangium.
-/
set_option linter.all false
namespace Sys2Proof.Machine
open Sys2Proof

theorem State.setReg_wf {s : State} {k : Nat} {w : Word} (hs : Mem s) : Mem (State.setReg s k w) := by
  unfold State.setReg; try dsimp only
  repeat' with_reducible
    first
    | assumption | (simp only [Mem.regs_eq]; refine ⟨?_, Mem.but ?_ _⟩) | apply regs_set | apply Mem.regs

theorem State.keepLive_wf {s : State} {k : Nat} (hs : Mem s) : Mem (State.keepLive s k) := by
  unfold State.keepLive; try dsimp only
  repeat' with_reducible
    first
    | assumption | simp only [Mem.irrel_eq]

theorem State.setNat_wf {s : State} {k n : Nat} (hs : Mem s) : Mem (State.setNat s k n) := by
  unfold State.setNat; try dsimp only
  repeat' with_reducible
    first
    | assumption | apply State.setReg_wf

theorem State.bump_wf {s : State} {k : Nat} {n : Nat} {w : Nat} (hs : Mem s) : Mem (State.bump s k n w) := by
  unfold State.bump; try dsimp only
  repeat' with_reducible
    first
    | assumption | apply State.setNat_wf

theorem State.wrapAdd_wf {s : State} {k : Nat} {n : Nat} {w : Nat} (hs : Mem s) : Mem (State.wrapAdd s k n w) := by
  unfold State.wrapAdd; try dsimp only
  repeat' with_reducible
    first
    | assumption | apply State.setNat_wf

theorem State.setBit_wf {s : State} {k b : Nat} (hs : Mem s) : Mem (State.setBit s k b) := by
  unfold State.setBit; try dsimp only
  repeat' with_reducible
    first
    | assumption | apply State.setReg_wf

theorem State.setOct_wf {s : State} {k i : Nat} {b : Byte} (hs : Mem s) : Mem (State.setOct s k i b) := by
  unfold State.setOct; try dsimp only
  repeat' with_reducible
    first
    | assumption | (simp only [Mem.octs_eq]; refine ⟨?_, Mem.but ?_ _⟩) | apply octs_set | apply Mem.octs

theorem State.setOctFrom_wf {s : State} {k i : Nat} {l : List Byte} (hs : Mem s) : Mem (s.setOctFrom k i l) := by
  induction l generalizing s i with
  | nil => exact hs
  | cons b l ih => exact ih (State.setOct_wf hs)

theorem State.emit_wf {s : State} {o : Output} (hs : Mem s) : Mem (State.emit s o) := by
  unfold State.emit; try dsimp only
  repeat' with_reducible
    first
    | assumption | simp only [Mem.irrel_eq]

theorem State.takeFree_wf {s : State} (hs : Mem s) : Mem (State.takeFree s) := by
  unfold State.takeFree; try dsimp only
  repeat' with_reducible
    first
    | assumption | simp only [Mem.irrel_eq]

theorem State.setFn_wf {s : State} {f : Nat} {v : FnSt} (hs : Mem s) : Mem (State.setFn s f v) := by
  unfold State.setFn; try dsimp only
  repeat' with_reducible
    first
    | assumption | simp only [Mem.irrel_eq]

theorem State.hostWrite_wf {s : State} {fn addr : Nat} {bytes : List Byte} (hs : Mem s) : Mem (State.hostWrite s fn addr bytes) := by
  unfold State.hostWrite; try dsimp only
  repeat' with_reducible
    first
    | assumption | apply Mem.ite | apply State.bump_wf | apply State.emit_wf | apply State.setFn_wf

theorem State.msix_wf {s : State} {fn vec : Nat} (hs : Mem s) : Mem (State.msix s fn vec) := by
  unfold State.msix; try dsimp only
  repeat' with_reducible
    first
    | assumption | apply Mem.ite | apply State.emit_wf | apply State.setFn_wf

theorem State.timingEvent_wf {s : State} {b : Nat} (hs : Mem s) : Mem (State.timingEvent s b) := by
  unfold State.timingEvent; try dsimp only
  repeat' with_reducible
    first
    | assumption | apply Mem.ite | apply State.setBit_wf | apply State.msix_wf

theorem State.portEvent_wf {s : State} {port b : Nat} (hs : Mem s) : Mem (State.portEvent s port b) := by
  unfold State.portEvent; try dsimp only
  repeat' with_reducible
    first
    | assumption | apply Mem.ite | apply State.setBit_wf | apply State.msix_wf

theorem State.partEvent_wf {s : State} {p b : Nat} (hs : Mem s) : Mem (State.partEvent s p b) := by
  unfold State.partEvent; try dsimp only
  repeat' with_reducible
    first
    | assumption | apply Mem.ite | apply State.setBit_wf | apply State.msix_wf

theorem State.setRing_wf {s : State} {r : Nat} {v : RingSt} (hs : Mem s) : Mem (State.setRing s r v) := by
  unfold State.setRing; try dsimp only
  repeat' with_reducible
    first
    | assumption | simp only [Mem.irrel_eq]

theorem State.modDesc_wf {s : State} {id : Nat} {f : Desc → Desc} (hs : Mem s) : Mem (State.modDesc s id f) := by
  unfold State.modDesc; try dsimp only
  repeat' with_reducible
    first
    | assumption | simp only [Mem.irrel_eq]

theorem State.endDesc_wf {s : State} {id status : Nat} (hs : Mem s) : Mem (State.endDesc s id status) := by
  unfold State.endDesc; try dsimp only
  repeat' with_reducible
    first
    | assumption | apply State.modDesc_wf

theorem State.flagDesc_wf {s : State} {id bit : Nat} (hs : Mem s) : Mem (State.flagDesc s id bit) := by
  unfold State.flagDesc; try dsimp only
  repeat' with_reducible
    first
    | assumption | apply State.modDesc_wf

theorem State.spend_wf {s : State} {id n : Nat} (hs : Mem s) : Mem (State.spend s id n) := by
  unfold State.spend; try dsimp only
  repeat' with_reducible
    first
    | assumption | apply State.modDesc_wf

theorem State.mend_wf {s : State} {u n : Nat} (hs : Mem s) : Mem (State.mend s u n) := by
  unfold State.mend; try dsimp only
  repeat' with_reducible
    first
    | assumption | simp only [Mem.irrel_eq]

theorem State.upset_wf {s : State} {w : StoreWord} {n : Nat} (hs : Mem s) : Mem (State.upset s w n) := by
  unfold State.upset; try dsimp only
  repeat' with_reducible
    first
    | assumption | simp only [Mem.irrel_eq]

theorem State.add_wf {s : State} {k n : Nat} (hs : Mem s) : Mem (State.add s k n) := by
  unfold State.add; try dsimp only
  repeat' with_reducible
    first
    | assumption | apply Mem.ite | apply State.bump_wf

theorem State.lsPut_wf {s : State} {c off : Nat} {l : List Byte} (hs : Mem s) : Mem (State.lsPut s c off l) := by
  unfold State.lsPut; try dsimp only
  repeat' with_reducible
    first
    | assumption | apply State.mend_wf | (simp only [Mem.ls_eq]; refine ⟨?_, Mem.but ?_ _⟩) | apply put_bytes
    | apply Mem.ls

theorem State.lsZero_wf {s : State} {c off n : Nat} (hs : Mem s) : Mem (State.lsZero s c off n) := by
  unfold State.lsZero; try dsimp only
  repeat' with_reducible
    first
    | assumption | apply State.mend_wf | (simp only [Mem.ls_eq]; refine ⟨?_, Mem.but ?_ _⟩) | apply clear_bytes
    | apply Mem.ls

theorem State.fsPut_wf {s : State} {f off : Nat} {l : List Byte} (hs : Mem s) : Mem (State.fsPut s f off l) := by
  unfold State.fsPut; try dsimp only
  repeat' with_reducible
    first
    | assumption | apply State.mend_wf | (simp only [Mem.fs_eq]; refine ⟨?_, Mem.but ?_ _⟩) | apply put_bytes
    | apply Mem.fs

theorem State.fsZero_wf {s : State} {f off n : Nat} (hs : Mem s) : Mem (State.fsZero s f off n) := by
  unfold State.fsZero; try dsimp only
  repeat' with_reducible
    first
    | assumption | apply State.mend_wf | (simp only [Mem.fs_eq]; refine ⟨?_, Mem.but ?_ _⟩) | apply clear_bytes
    | apply Mem.fs

theorem State.accPut_wf {s : State} {c e : Nat} {v : BitVec 32} (hs : Mem s) : Mem (State.accPut s c e v) := by
  unfold State.accPut; try dsimp only
  repeat' with_reducible
    first
    | assumption | apply State.mend_wf | (simp only [Mem.acc_eq]; refine ⟨?_, Mem.but ?_ _⟩) | apply zero_set
    | apply Mem.acc

theorem State.storeWrite_wf {s : State} {a : SAddr} {l : List Byte} (hs : Mem s) : Mem (State.storeWrite s a l) := by
  unfold State.storeWrite; try dsimp only
  repeat' with_reducible
    first
    | assumption | apply Mem.ite | apply State.fsPut_wf | apply State.lsPut_wf | split

theorem State.foreWrite_wf {s : State} {a : SAddr} {l : List Byte} (hs : Mem s) : Mem (State.foreWrite s a l) := by
  unfold State.foreWrite; try dsimp only
  repeat' with_reducible
    first
    | assumption | apply Mem.ite | apply State.lsPut_wf | apply State.storeWrite_wf | simp only [Mem.irrel_eq] | split

theorem State.writeRows_wf {s : State} {p : Nat} {a : SAddr} {l : List Byte} (hs : Mem s) : Mem (State.writeRows s p a l) := by
  unfold State.writeRows; try dsimp only
  repeat' with_reducible
    first
    | assumption | intro _ | apply Mem.ite | apply Mem.foldl | apply State.storeWrite_wf | apply State.bump_wf

theorem State.zeroSector_wf {s : State} {a : SAddr} (hs : Mem s) : Mem (State.zeroSector s a) := by
  unfold State.zeroSector; try dsimp only
  repeat' with_reducible
    first
    | assumption | apply Mem.ite | apply State.fsZero_wf | apply State.lsZero_wf | split

theorem State.startZeroing_wf {s : State} {parts : List Nat} (hs : Mem s) : Mem (State.startZeroing s parts) := by
  unfold State.startZeroing; try dsimp only
  repeat' with_reducible
    first
    | assumption | simp only [Mem.irrel_eq]

theorem State.mscTouch_wf {s : State} {pa : Nat} {wr : Bool} {alloc : Bool} (hs : Mem s) : Mem (State.mscTouch s pa wr alloc) := by
  unfold State.mscTouch; try dsimp only
  repeat' with_reducible
    first
    | assumption | apply Mem.ite | apply State.wrapAdd_wf | simp only [Mem.irrel_eq] | split

theorem State.mscReads_wf {s : State} {p va n : Nat} {alloc : Bool} (hs : Mem s) : Mem (State.mscReads s p va n alloc) := by
  unfold State.mscReads; try dsimp only
  repeat' with_reducible
    first
    | assumption | intro _ | apply Mem.foldl | apply State.mscTouch_wf | split

theorem State.translate_wf {s : State} {p va : Nat} {wr : Bool} (hs : Mem s) : Mem (State.translate s p va wr).2 := by
  unfold State.translate; try dsimp only
  repeat' with_reducible
    first
    | assumption | intro _ | apply Mem.dite2 | apply Mem.foldl | apply State.takeFree_wf | apply State.mscTouch_wf
    | simp only [Mem.irrel_eq] | split

theorem State.setCut_wf {s : State} {p : Nat} {c : CutSt} (hs : Mem s) : Mem (State.setCut s p c) := by
  unfold State.setCut; try dsimp only
  repeat' with_reducible
    first
    | assumption | simp only [Mem.irrel_eq]

theorem State.takeSlot_wf {s t : State} {p i g k : Nat} (hs : Mem s) (e : s.takeSlot p i g = some (k, t)) : Mem t := by
  unfold State.takeSlot at e
  dsimp only at e
  split at e
  · cases e; exact hs
  · split at e
    · cases e
    · rw [Option.some.injEq, Prod.mk.injEq] at e
      rw [← e.2]
      repeat' first
        | with_reducible assumption
        | with_reducible refine Mem.ite ?_ ?_
        | with_reducible refine State.setNat_wf ?_
        | with_reducible refine State.setCut_wf ?_

theorem State.copyBefore_wf {s : State} {p va pa : Nat} (hs : Mem s) : Mem (State.copyBefore s p va pa) := by
  unfold State.copyBefore; try dsimp only
  repeat' with_reducible
    first
    | assumption | apply Mem.ite | exact State.takeSlot_wf (by assumption) (by assumption) | apply State.setCut_wf
    | (simp only [Mem.hbm_eq]; refine ⟨?_, Mem.but ?_ _⟩) | apply put_bytes | apply Mem.hbm | split

theorem State.hbmPut_wf {s : State} {p va pa : Nat} {l : List Byte} {restore : Bool} (hs : Mem s) : Mem (State.hbmPut s p va pa l restore) := by
  unfold State.hbmPut; try dsimp only
  repeat' with_reducible
    first
    | assumption | apply Mem.ite | apply State.copyBefore_wf | apply State.mscTouch_wf
    | (simp only [Mem.hbm_eq]; refine ⟨?_, Mem.but ?_ _⟩) | apply put_bytes | apply Mem.hbm | split

theorem State.vaPut_wf {s : State} {p va : Nat} {l : List Byte} {restore : Bool} (hs : Mem s) : Mem (State.vaPut s p va l restore).2 := by
  unfold State.vaPut; try dsimp only
  repeat' with_reducible
    first
    | assumption | intro _ | apply Mem.foldl2 | apply State.hbmPut_wf | split

theorem State.setStream_wf {s : State} {st : Nat} {v : StreamSt} (hs : Mem s) : Mem (State.setStream s st v) := by
  unfold State.setStream; try dsimp only
  repeat' with_reducible
    first
    | assumption | simp only [Mem.irrel_eq]

theorem State.queueRec_wf {s : State} {st : Nat} {w : WaitRec} (hs : Mem s) : Mem (State.queueRec s st w) := by
  unfold State.queueRec; try dsimp only
  repeat' with_reducible
    first
    | assumption | apply State.setStream_wf

theorem State.fenceTell_wf {s : State} {f st : Nat} (hs : Mem s) : Mem (State.fenceTell s f st) := by
  unfold State.fenceTell; try dsimp only
  repeat' with_reducible
    first
    | assumption | apply Mem.ite | apply State.queueRec_wf

theorem State.fenceNotify_wf {s : State} {f : Nat} (hs : Mem s) : Mem (State.fenceNotify s f) := by
  unfold State.fenceNotify; try dsimp only
  repeat' with_reducible
    first
    | assumption | intro _ | apply Mem.ite | apply Mem.foldl | apply State.fenceTell_wf

theorem State.setFenceValue_wf {s : State} {f v : Nat} (hs : Mem s) : Mem (State.setFenceValue s f v) := by
  unfold State.setFenceValue; try dsimp only
  repeat' with_reducible
    first
    | assumption | apply State.setReg_wf | apply State.fenceNotify_wf

theorem State.breakFence_wf {s : State} {f : Nat} (hs : Mem s) : Mem (State.breakFence s f) := by
  unfold State.breakFence; try dsimp only
  repeat' with_reducible
    first
    | assumption | apply Mem.ite | apply State.setFenceValue_wf

theorem State.signalFence_wf {s : State} {f : Nat} (hs : Mem s) : Mem (State.signalFence s f) := by
  unfold State.signalFence; try dsimp only
  repeat' with_reducible
    first
    | assumption | apply Mem.ite | apply State.bump_wf | apply State.queueRec_wf | apply State.setFenceValue_wf

theorem State.jobEvent_wf {s : State} {kind status cause : Nat} {tag : JobTag} {cutId cutFrame records detail : Nat} (hs : Mem s) : Mem (State.jobEvent s kind status cause tag cutId cutFrame records detail) := by
  unfold State.jobEvent; try dsimp only
  repeat' with_reducible
    first
    | assumption | apply Mem.ite | apply State.bump_wf | apply State.vaPut_wf | apply State.wrapAdd_wf
    | apply State.msix_wf | apply State.signalFence_wf

theorem State.abandonCut_wf {s : State} {p status cause : Nat} (hs : Mem s) : Mem (State.abandonCut s p status cause) := by
  unfold State.abandonCut; try dsimp only
  repeat' with_reducible
    first
    | assumption | intro _ | apply Mem.ite | apply Mem.foldl | apply State.queueRec_wf | apply State.bump_wf
    | apply State.setNat_wf | apply State.setCut_wf | apply State.jobEvent_wf | simp only [Mem.irrel_eq]

theorem State.settleCuts_wf {s : State} (hs : Mem s) : Mem (State.settleCuts s) := by
  unfold State.settleCuts; try dsimp only
  repeat' with_reducible
    first
    | assumption | intro _ | apply Mem.foldl | apply State.abandonCut_wf

theorem State.vaWrite_wf {s : State} {p va : Nat} {l : List Byte} {restore : Bool} (hs : Mem s) : Mem (State.vaWrite s p va l restore).2 := by
  unfold State.vaWrite; try dsimp only
  repeat' with_reducible
    first
    | assumption | apply State.vaPut_wf | apply State.settleCuts_wf

theorem State.layersDefault_wf {s : State} {p : Nat} (hs : Mem s) : Mem (State.layersDefault s p) := by
  unfold State.layersDefault; try dsimp only
  repeat' with_reducible
    first
    | assumption | intro _ | apply Mem.foldl | apply State.setReg_wf

theorem State.setArea_wf {s : State} {who : Requester} {sub : Nat} {w : Word} (hs : Mem s) : Mem (State.setArea s who sub w) := by
  unfold State.setArea; try dsimp only
  repeat' with_reducible
    first
    | assumption | (simp only [Mem.areas_eq]; refine ⟨?_, Mem.but ?_ _⟩) | apply zero_set | apply Mem.areas

theorem State.refuse_wf {s : State} {who : Requester} {r : Reason} {idx sub : Nat} (hs : Mem s) : Mem (State.refuse s who r idx sub) := by
  unfold State.refuse; try dsimp only
  repeat' with_reducible
    first
    | assumption | apply State.setArea_wf

theorem State.applied_wf {s : State} {who : Requester} (hs : Mem s) : Mem (State.applied s who) := by
  unfold State.applied; try dsimp only
  repeat' with_reducible
    first
    | assumption | apply State.setArea_wf

theorem State.finishWrite_wf {s : State} {who : Requester} {idx sub : Nat} {r : Except Reason State} (hs : Mem s)
    (hr : MemE r) : Mem (s.finishWrite who idx sub r) := by
  cases hr with
  | error e => exact State.refuse_wf hs
  | ok h => exact State.applied_wf h

theorem State.dictSlot_wf {s : State} {who : Requester} {idx sub : Nat} {v : Word} {f : State → EntLoc → Except Reason State} (hs : Mem s) (hf : ∀ x0 x1, Mem x0 → MemE (f x0 x1)) : Mem (State.dictSlot s who idx sub v f) := by
  unfold State.dictSlot; try dsimp only
  repeat' with_reducible
    first
    | assumption | exact MemE.error _ | apply Mem.ite | apply State.finishWrite_wf | apply hf | split

theorem State.dictLong_wf {s : State} {who : Requester} {idx sub : Nat} {bytes : List Byte} {f : State → EntLoc → Except Reason State} (hs : Mem s) (hf : ∀ x0 x1, Mem x0 → MemE (f x0 x1)) : Mem (State.dictLong s who idx sub bytes f) := by
  unfold State.dictLong; try dsimp only
  repeat' with_reducible
    first
    | assumption | exact MemE.error _ | apply Mem.ite | apply State.finishWrite_wf | apply hf | split

theorem State.slotWrite_wf {s : State} {who : Requester} {e : Ent} {k : Nat} {v : Word} {f : State → EntLoc → Except Reason State} (hs : Mem s) (hf : ∀ x0 x1, Mem x0 → MemE (f x0 x1)) : Mem (State.slotWrite s who e k v f) := by
  unfold State.slotWrite; try dsimp only
  repeat' with_reducible
    first
    | assumption | exact MemE.error _ | apply Mem.ite | apply State.finishWrite_wf | apply hf | split

theorem orRefuse_wf {ok : Bool} {r : Reason} {t : State} (ht : Mem t) : MemE (orRefuse ok r t) := by
  unfold orRefuse; try dsimp only
  repeat' with_reducible
    first
    | assumption | apply MemE.ok | exact MemE.error _ | apply MemE.ite

theorem State.setPool_wf {s : State} {p : Nat} {v : KvSt} (hs : Mem s) : Mem (State.setPool s p v) := by
  unfold State.setPool; try dsimp only
  repeat' with_reducible
    first
    | assumption | simp only [Mem.irrel_eq]

theorem State.setEntry_wf {s : State} {p table j e : Nat} (hs : Mem s) : Mem (State.setEntry s p table j e) := by
  unfold State.setEntry; try dsimp only
  repeat' with_reducible
    first
    | assumption | apply State.vaWrite_wf | apply State.setPool_wf

theorem State.vaFree_wf {s : State} {p va n : Nat} (hs : Mem s) : Mem (State.vaFree s p va n) := by
  unfold State.vaFree; try dsimp only
  repeat' with_reducible
    first
    | assumption | intro _ | apply Mem.foldl | (simp only [Mem.hbm_eq]; refine ⟨?_, Mem.but ?_ _⟩) | apply put_bytes
    | apply Mem.hbm | split

theorem State.modFrame_wf {s : State} {p unit : Nat} {f : KvFrame → KvFrame} (hs : Mem s) : Mem (State.modFrame s p unit f) := by
  unfold State.modFrame; try dsimp only
  repeat' with_reducible
    first
    | assumption | apply State.setPool_wf

theorem State.returnFrame_wf {s : State} {p : Nat} {f : KvFrame} (hs : Mem s) : Mem (State.returnFrame s p f) := by
  unfold State.returnFrame; try dsimp only
  repeat' with_reducible
    first
    | assumption | apply State.setPool_wf | apply State.setNat_wf

theorem State.sweepFrames_wf {s : State} {p : Nat} (hs : Mem s) : Mem (State.sweepFrames s p) := by
  unfold State.sweepFrames; try dsimp only
  repeat' with_reducible
    first
    | assumption | intro _ | apply Mem.foldl | apply State.returnFrame_wf

theorem State.pageAcked_wf {s : State} {j : PageJob} (hs : Mem s) : Mem (State.pageAcked s j) := by
  unfold State.pageAcked; try dsimp only
  repeat' with_reducible
    first
    | assumption | apply Mem.ite | apply State.modFrame_wf | apply State.setEntry_wf | apply State.setPool_wf
    | apply State.sweepFrames_wf | split

theorem State.pageAbandoned_wf {s : State} {j : PageJob} (hs : Mem s) : Mem (State.pageAbandoned s j) := by
  unfold State.pageAbandoned; try dsimp only
  repeat' with_reducible
    first
    | assumption | apply Mem.ite | apply State.modFrame_wf | apply State.setEntry_wf | apply State.sweepFrames_wf
    | split

theorem State.disownFrame_wf {s : State} {p unit : Nat} (hs : Mem s) : Mem (State.disownFrame s p unit) := by
  unfold State.disownFrame; try dsimp only
  repeat' with_reducible
    first
    | assumption | apply State.vaWrite_wf

theorem State.emptyPool_wf {s : State} {p : Nat} (hs : Mem s) : Mem (State.emptyPool s p) := by
  unfold State.emptyPool; try dsimp only
  repeat' with_reducible
    first
    | assumption | intro _ | apply Mem.foldl | apply State.disownFrame_wf | apply State.setPool_wf

theorem State.poolEmptied_wf {s : State} {p : Nat} (hs : Mem s) : Mem (State.poolEmptied s p) := by
  unfold State.poolEmptied; try dsimp only
  repeat' with_reducible
    first
    | assumption | intro _ | apply Mem.ite | apply Mem.foldl | apply State.disownFrame_wf | apply State.setPool_wf
    | apply State.setNat_wf

theorem State.sendStrings_wf {s : State} {func : Nat} {b : List Byte} (hs : Mem s) : Mem (State.sendStrings s func b) := by
  unfold State.sendStrings; try dsimp only
  repeat' with_reducible
    first
    | assumption | apply Mem.ite | apply State.emit_wf | apply State.takeFree_wf | apply State.setNat_wf
    | apply State.bump_wf

theorem State.logEvent_wf {s : State} {code sev src a0 a1 a2 : Nat} (hs : Mem s) : Mem (State.logEvent s code sev src a0 a1 a2) := by
  unfold State.logEvent; try dsimp only
  repeat' with_reducible
    first
    | assumption | apply Mem.ite | apply State.wrapAdd_wf | apply State.takeFree_wf | apply State.sendStrings_wf
    | simp only [Mem.irrel_eq]

theorem State.dieEvent_wf {s : State} {code a0 a1 a2 : Nat} (hs : Mem s) : Mem (State.dieEvent s code a0 a1 a2) := by
  unfold State.dieEvent; try dsimp only
  repeat' with_reducible
    first
    | assumption | apply State.logEvent_wf

theorem State.alertEdge_wf {s before : State} (hs : Mem s) (hbefore : Mem before) : Mem (State.alertEdge s before) := by
  unfold State.alertEdge; try dsimp only
  repeat' with_reducible
    first
    | assumption | apply Mem.ite | apply State.emit_wf | apply State.msix_wf

theorem State.alert_wf {s : State} {b : Nat} (hs : Mem s) : Mem (State.alert s b) := by
  unfold State.alert; try dsimp only
  repeat' with_reducible
    first
    | assumption | apply State.setBit_wf | apply State.alertEdge_wf

theorem State.geometrySwitch_wf {s : State} (hs : Mem s) : Mem (State.geometrySwitch s) := by
  unfold State.geometrySwitch; try dsimp only
  repeat' with_reducible
    first
    | assumption | apply Mem.ite | apply State.setNat_wf | apply State.timingEvent_wf | simp only [Mem.irrel_eq]
    | split

theorem State.setPort_wf {s : State} {n : Nat} {v : PortSt} (hs : Mem s) : Mem (State.setPort s n v) := by
  unfold State.setPort; try dsimp only
  repeat' with_reducible
    first
    | assumption | simp only [Mem.irrel_eq]

theorem State.unqualify_wf {s : State} {ref : Nat} (hs : Mem s) : Mem (State.unqualify s ref) := by
  unfold State.unqualify; try dsimp only
  repeat' with_reducible
    first
    | assumption | apply Mem.ite | apply State.setNat_wf | apply State.setPort_wf | simp only [Mem.irrel_eq]

theorem State.setDrift_wf {s : State} {d : Option Nat} (hs : Mem s) : Mem (State.setDrift s d) := by
  unfold State.setDrift; try dsimp only
  repeat' with_reducible
    first
    | assumption | apply State.setNat_wf | simp only [Mem.irrel_eq]

theorem State.refreshMute_wf {s : State} {n : Nat} (hs : Mem s) : Mem (State.refreshMute s n) := by
  unfold State.refreshMute; try dsimp only
  repeat' with_reducible
    first
    | assumption | apply State.setNat_wf

theorem State.refreshMutes_wf {s : State} (hs : Mem s) : Mem (State.refreshMutes s) := by
  unfold State.refreshMutes; try dsimp only
  repeat' with_reducible
    first
    | assumption | intro _ | apply Mem.foldl | apply State.refreshMute_wf

theorem State.muteNow_wf {s : State} (hs : Mem s) : Mem (State.muteNow s) := by
  unfold State.muteNow; try dsimp only
  repeat' with_reducible
    first
    | assumption | apply Mem.ite | apply State.refreshMutes_wf | simp only [Mem.irrel_eq]

theorem State.estimate_wf {s : State} (hs : Mem s) : Mem (State.estimate s) := by
  unfold State.estimate; try dsimp only
  repeat' with_reducible
    first
    | assumption | apply Mem.ite | apply State.setDrift_wf | split

theorem State.leaveLocked_wf {s : State} {b : Nat} (hs : Mem s) : Mem (State.leaveLocked s b) := by
  unfold State.leaveLocked; try dsimp only
  repeat' with_reducible
    first
    | assumption | apply Mem.ite | apply State.setDrift_wf | apply State.setNat_wf | apply State.timingEvent_wf
    | apply State.muteNow_wf | simp only [Mem.irrel_eq]

theorem State.selectRef_wf {s : State} {ref : Nat} (hs : Mem s) : Mem (State.selectRef s ref) := by
  unfold State.selectRef; try dsimp only
  repeat' with_reducible
    first
    | assumption | apply State.setNat_wf | simp only [Mem.irrel_eq]

theorem State.offsetReturn_wf {s : State} {off : Int} (hs : Mem s) : Mem (State.offsetReturn s off) := by
  unfold State.offsetReturn; try dsimp only
  repeat' with_reducible
    first
    | assumption | apply Mem.ite | apply State.setNat_wf | apply State.estimate_wf | apply State.unqualify_wf
    | apply State.selectRef_wf | apply State.timingEvent_wf | simp only [Mem.irrel_eq]

theorem State.returnOf_wf {s : State} {ref : Nat} (hs : Mem s) : Mem (State.returnOf s ref) := by
  unfold State.returnOf; try dsimp only
  repeat' with_reducible
    first
    | assumption | apply State.offsetReturn_wf | apply State.estimate_wf | split

theorem State.loseRef_wf {s : State} (hs : Mem s) : Mem (State.loseRef s) := by
  unfold State.loseRef; try dsimp only
  repeat' with_reducible
    first
    | assumption | apply Mem.ite | apply State.timingEvent_wf | apply State.unqualify_wf | simp only [Mem.irrel_eq]

theorem State.reselect_wf {s : State} (hs : Mem s) : Mem (State.reselect s) := by
  unfold State.reselect; try dsimp only
  repeat' with_reducible
    first
    | assumption | apply Mem.ite | apply State.loseRef_wf | apply State.selectRef_wf | apply State.setDrift_wf
    | apply State.timingEvent_wf | apply State.leaveLocked_wf | apply State.returnOf_wf

theorem State.enterLocked_wf {s : State} (hs : Mem s) : Mem (State.enterLocked s) := by
  unfold State.enterLocked; try dsimp only
  repeat' with_reducible
    first
    | assumption | apply State.setNat_wf | apply State.setDrift_wf | apply State.timingEvent_wf
    | simp only [Mem.irrel_eq]

theorem State.countFrame_wf {s : State} {o : BoundaryObs} (hs : Mem s) : Mem (State.countFrame s o) := by
  unfold State.countFrame; try dsimp only
  repeat' with_reducible
    first
    | assumption | apply State.wrapAdd_wf | apply State.setNat_wf | simp only [Mem.irrel_eq]

theorem State.countRefs_wf {s : State} {ns : Nat} (hs : Mem s) : Mem (State.countRefs s ns) := by
  unfold State.countRefs; try dsimp only
  repeat' with_reducible
    first
    | assumption | intro _ | apply Mem.ite | apply Mem.foldl | apply State.setReg_wf | apply State.unqualify_wf
    | apply State.setPort_wf | simp only [Mem.irrel_eq]

theorem State.measure_wf {s : State} {o : BoundaryObs} (hs : Mem s) : Mem (State.measure s o) := by
  unfold State.measure; try dsimp only
  repeat' with_reducible
    first
    | assumption | apply Mem.ite | apply State.setReg_wf | simp only [Mem.irrel_eq] | split

theorem State.syncEvent_wf {s : State} {b : Nat} (hs : Mem s) : Mem (State.syncEvent s b) := by
  unfold State.syncEvent; try dsimp only
  repeat' with_reducible
    first
    | assumption | apply Mem.ite | apply State.setBit_wf | apply State.msix_wf | apply State.logEvent_wf

theorem State.polarity_wf {s : State} {o : BoundaryObs} (hs : Mem s) : Mem (State.polarity s o) := by
  unfold State.polarity; try dsimp only
  repeat' with_reducible
    first
    | assumption | apply Mem.ite | apply State.setReg_wf | apply State.syncEvent_wf | simp only [Mem.irrel_eq]

theorem State.timingTurn_wf {s : State} {o : BoundaryObs} (hs : Mem s) : Mem (State.timingTurn s o) := by
  unfold State.timingTurn; try dsimp only
  repeat' with_reducible
    first
    | assumption | apply Mem.ite | apply State.countFrame_wf | apply State.measure_wf | apply State.countRefs_wf
    | apply State.polarity_wf | apply State.reselect_wf | apply State.estimate_wf | apply State.refreshMutes_wf
    | apply State.emit_wf | simp only [Mem.irrel_eq]

theorem State.setQp_wf {s : State} {q : Nat} {v : QpSt} (hs : Mem s) : Mem (State.setQp s q v) := by
  unfold State.setQp; try dsimp only
  repeat' with_reducible
    first
    | assumption | simp only [Mem.irrel_eq]

theorem State.roceWrite_wf {s : State} {q va rkey : Nat} {l : List Byte} (hs : Mem s) : Mem (State.roceWrite s q va rkey l) := by
  unfold State.roceWrite; try dsimp only
  repeat' with_reducible
    first
    | assumption | apply State.setQp_wf | apply State.emit_wf

theorem State.transportSend_wf {s : State} {st off : Nat} {l : List Byte} (hs : Mem s) : Mem (State.transportSend s st off l) := by
  unfold State.transportSend; try dsimp only
  repeat' with_reducible
    first
    | assumption | intro _ | apply Mem.foldl | apply State.setPort_wf | apply State.roceWrite_wf
    | apply State.hostWrite_wf | split

theorem State.ackSend_wf {s : State} {via w : Nat} {l : List Byte} (hs : Mem s) : Mem (State.ackSend s via w l) := by
  unfold State.ackSend; try dsimp only
  repeat' with_reducible
    first
    | assumption | apply Mem.ite | apply State.emit_wf | apply State.setPort_wf | apply State.roceWrite_wf

theorem State.qpUp_wf {s : State} {st : Nat} (hs : Mem s) : Mem (State.qpUp s st) := by
  unfold State.qpUp; try dsimp only
  repeat' with_reducible
    first
    | assumption | apply Mem.ite | apply State.setNat_wf | apply State.setQp_wf

theorem State.qpDown_wf {s : State} {st : Nat} (hs : Mem s) : Mem (State.qpDown s st) := by
  unfold State.qpDown; try dsimp only
  repeat' with_reducible
    first
    | assumption | apply Mem.ite | apply State.setNat_wf | apply State.setQp_wf

theorem State.dropCells_wf {s : State} {st : Nat} (hs : Mem s) : Mem (State.dropCells s st) := by
  unfold State.dropCells; try dsimp only
  repeat' with_reducible
    first
    | assumption | apply Mem.ite | apply State.setPort_wf

theorem State.dropJob_wf {s : State} {id : Nat} (hs : Mem s) : Mem (State.dropJob s id) := by
  unfold State.dropJob; try dsimp only
  repeat' with_reducible
    first
    | assumption | simp only [Mem.irrel_eq]

theorem State.modJob_wf {s : State} {id : Nat} {f : Job → Job} (hs : Mem s) : Mem (State.modJob s id f) := by
  unfold State.modJob; try dsimp only
  repeat' with_reducible
    first
    | assumption | simp only [Mem.irrel_eq]

theorem State.endJob_wf {s : State} {j : Job} {status cause : Nat} (hs : Mem s) : Mem (State.endJob s j status cause) := by
  unfold State.endJob; try dsimp only
  repeat' with_reducible
    first
    | assumption | apply State.dropJob_wf | apply State.jobEvent_wf | split

theorem State.jobAcked_wf {s : State} {id : Nat} (hs : Mem s) : Mem (State.jobAcked s id) := by
  unfold State.jobAcked; try dsimp only
  repeat' with_reducible
    first
    | assumption | apply Mem.ite | apply State.modJob_wf | apply State.endJob_wf | split

theorem State.jobSkipped_wf {s : State} {id : Nat} (hs : Mem s) : Mem (State.jobSkipped s id) := by
  unfold State.jobSkipped; try dsimp only
  repeat' with_reducible
    first
    | assumption | apply Mem.ite | apply State.modJob_wf | apply State.endJob_wf | split

theorem State.freezeCut_wf {s : State} {p : Nat} (hs : Mem s) : Mem (State.freezeCut s p) := by
  unfold State.freezeCut; try dsimp only
  repeat' with_reducible
    first
    | assumption | intro _ | apply Mem.foldl | apply State.setCut_wf | apply State.setNat_wf
    | simp only [Mem.irrel_eq]

theorem State.cutProgress_wf {s : State} {p : Nat} (hs : Mem s) : Mem (State.cutProgress s p) := by
  unfold State.cutProgress; try dsimp only
  repeat' with_reducible
    first
    | assumption | apply Mem.ite | apply State.setNat_wf | apply State.setCut_wf

theorem State.granuleDrained_wf {s : State} {p serial i g : Nat} (hs : Mem s) : Mem (State.granuleDrained s p serial i g) := by
  unfold State.granuleDrained; try dsimp only
  repeat' with_reducible
    first
    | assumption | apply Mem.ite | apply State.setCut_wf | apply State.setNat_wf | apply State.wrapAdd_wf
    | apply State.cutProgress_wf

theorem State.manifestAcked_wf {s : State} {p serial st : Nat} (hs : Mem s) : Mem (State.manifestAcked s p serial st) := by
  unfold State.manifestAcked; try dsimp only
  repeat' with_reducible
    first
    | assumption | apply Mem.ite | apply State.setNat_wf | apply State.bump_wf | apply State.setCut_wf
    | apply State.jobEvent_wf

theorem State.pushRecord_wf {s : State} {st : Nat} {r : SentRec} (hs : Mem s) : Mem (State.pushRecord s st r) := by
  unfold State.pushRecord; try dsimp only
  repeat' with_reducible
    first
    | assumption | intro _ | apply Mem.foldl | apply State.mscReads_wf | apply State.transportSend_wf
    | apply State.setStream_wf | apply State.wrapAdd_wf | apply State.emit_wf

theorem State.nextDrain_wf {s : State} {st : Nat} {ecc : Bool} {x : NextRec} (hs : Mem s)
    (e : s.nextDrain st ecc = some x) : Mem x.taken := by
  unfold State.nextDrain at e
  dsimp only at e
  split at e
  · split at e
    · cases e; exact State.abandonCut_wf hs
    · split at e
      · cases e; exact State.abandonCut_wf hs
      · cases e; exact State.setCut_wf hs
  · split at e
    · cases e; exact State.setCut_wf hs
    · obtain ⟨j, -, e⟩ := Option.bind_eq_some_iff.1 e
      repeat' split at e
      all_goals first
        | contradiction
        | (rw [Option.some.injEq] at e
           rw [← e]
           dsimp only
           with_reducible first
             | exact State.jobSkipped_wf (State.modJob_wf hs)
             | exact State.modJob_wf hs)

theorem State.nextRecord_wf {s : State} {st : Nat} {ecc : Bool} {x : NextRec} (hs : Mem s)
    (e : s.nextRecord st ecc = some x) : Mem x.taken := by
  unfold State.nextRecord at e
  dsimp only at e
  split at e
  · cases e; exact State.setStream_wf hs
  · split at e
    · cases e; exact State.setStream_wf hs
    · split at e
      · split at e
        · cases e; exact State.setStream_wf hs
        · cases e
          dsimp only
          split
          · exact State.jobSkipped_wf (State.pageAbandoned_wf (State.setStream_wf hs))
          · exact State.pageAbandoned_wf (State.setStream_wf hs)
      · exact State.nextDrain_wf hs e

theorem State.pay_wf {s : State} {st n reads : Nat} {x : Bool × State} (hs : Mem s) (e : s.pay st n reads = some x) :
    Mem x.2 := by
  unfold State.pay at e
  dsimp only at e
  split at e
  · cases e; simp only [Mem.irrel_eq]; exact State.setStream_wf hs
  · split at e
    · cases e
    · cases e; simp only [Mem.irrel_eq]; exact State.setStream_wf hs

theorem State.serveStream_wf {s : State} {st : Nat} {ecc : Bool} {x : Bool × State} (hs : Mem s)
    (e : s.serveStream st ecc = some x) : Mem x.2 := by
  unfold State.serveStream at e
  obtain ⟨y, ey, e⟩ := Option.bind_eq_some_iff.1 e
  have hy := State.nextRecord_wf hs ey
  dsimp only at e
  split at e <;> split at e
  · cases e
  · obtain ⟨⟨done, paid⟩, ep, e⟩ := Option.map_eq_some_iff.1 e
    have hp := State.pay_wf hs ep
    have ht : Mem { y.taken.setStream st { y.taken.stream st with paid := (paid.stream st).paid } with
        sporBytes := paid.sporBytes, sporReads := paid.sporReads } := by
      simp only [Mem.irrel_eq]; exact State.setStream_wf hy
    revert e
    simp only
    split
    · rintro rfl; exact hp
    · split
      · rintro rfl; exact ht
      · rintro rfl; exact State.pushRecord_wf ht
      · rintro rfl; exact State.wrapAdd_wf (State.pushRecord_wf ht)
  · cases e
  · obtain ⟨⟨done, paid⟩, ep, e⟩ := Option.map_eq_some_iff.1 e
    have hp := State.pay_wf hs ep
    have ht : Mem { y.taken.setStream st { y.taken.stream st with paid := (paid.stream st).paid } with
        sporBytes := paid.sporBytes, sporReads := paid.sporReads } := by
      simp only [Mem.irrel_eq]; exact State.setStream_wf hy
    revert e
    simp only
    split
    · rintro rfl; exact hp
    · split
      · rintro rfl; exact ht
      · rintro rfl; exact State.pushRecord_wf ht
      · rintro rfl; exact State.wrapAdd_wf (State.pushRecord_wf ht)

theorem State.servePart_wf {s : State} {live : List Nat} {ecc : Bool} {p : Nat} {x : Nat × Nat × Bool × State} (hs : Mem s)
    (e : s.servePart live ecc p = some x) : Mem x.2.2.2 := by
  unfold State.servePart at e
  obtain ⟨st, -, e⟩ := List.exists_of_findSome?_eq_some e
  split at e
  · obtain ⟨t, et, rfl⟩ := Option.map_eq_some_iff.1 e
    exact State.serveStream_wf hs et
  · cases e

theorem State.serveNext_wf {s : State} {st : Nat} {ecc : Bool} (hs : Mem s) : Mem (s.serveNext st ecc) := by
  have key : ∀ x, s.turnOrder.findSome? (s.servePart s.liveStreams ecc) = some x → Mem x.2.2.2 := fun x e => by
    obtain ⟨p, -, e⟩ := List.exists_of_findSome?_eq_some e
    exact State.servePart_wf hs e
  unfold State.serveNext
  dsimp only
  split
  · exact hs
  · split
    · exact hs
    · rename_i p next done t e
      have ht := key (p, next, done, t) e
      split
      · exact hs
      · split
        · exact ht
        · simpa only [Mem.irrel_eq] using ht

theorem State.recAcked_wf {s : State} {st : Nat} {r : SentRec} (hs : Mem s) : Mem (State.recAcked s st r) := by
  unfold State.recAcked; try dsimp only
  repeat' with_reducible
    first
    | assumption | apply State.pageAcked_wf | apply State.jobAcked_wf | apply State.granuleDrained_wf
    | apply State.manifestAcked_wf | split

theorem State.abandonStream_wf {s : State} {st status cause : Nat} (hs : Mem s) : Mem (State.abandonStream s st status cause) := by
  unfold State.abandonStream; try dsimp only
  repeat' with_reducible
    first
    | assumption | intro _ | apply Mem.ite | apply Mem.foldl | apply State.setStream_wf | apply State.pageAbandoned_wf
    | apply State.endJob_wf | apply State.abandonCut_wf

theorem State.resendAll_wf {s : State} {st : Nat} (hs : Mem s) : Mem (State.resendAll s st) := by
  unfold State.resendAll; try dsimp only
  repeat' with_reducible
    first
    | assumption | apply State.setStream_wf | apply State.bump_wf

theorem State.retransmit_wf {s : State} {st : Nat} (hs : Mem s) : Mem (State.retransmit s st) := by
  unfold State.retransmit; try dsimp only
  repeat' with_reducible
    first
    | assumption | apply Mem.ite | apply State.resendAll_wf | apply State.setNat_wf | apply State.abandonStream_wf
    | apply State.dropCells_wf

theorem State.applyAck_wf {s : State} {st : Nat} {a : List Byte} (hs : Mem s) : Mem (State.applyAck s st a) := by
  unfold State.applyAck; try dsimp only
  repeat' with_reducible
    first
    | assumption | intro _ | apply Mem.ite | apply Mem.foldl | apply State.bump_wf | apply State.setStream_wf
    | apply State.setNat_wf | apply State.recAcked_wf | apply State.retransmit_wf

theorem State.streamGoDown_wf {s : State} {st : Nat} (hs : Mem s) : Mem (State.streamGoDown s st) := by
  unfold State.streamGoDown; try dsimp only
  repeat' with_reducible
    first
    | assumption | apply Mem.ite | apply State.setNat_wf | apply State.abandonStream_wf | apply State.dropCells_wf
    | apply State.qpDown_wf

theorem State.newEpoch_wf {s : State} {st : Nat} (hs : Mem s) : Mem (State.newEpoch s st) := by
  unfold State.newEpoch; try dsimp only
  repeat' with_reducible
    first
    | assumption | apply State.setStream_wf | apply State.setNat_wf | apply State.wrapAdd_wf | apply State.qpUp_wf

theorem State.streamGoUp_wf {s : State} {st : Nat} (hs : Mem s) : Mem (State.streamGoUp s st) := by
  unfold State.streamGoUp; try dsimp only
  exact State.newEpoch_wf (State.streamGoDown_wf hs)

theorem State.setWin_wf {s : State} {w : Nat} {v : WinSt} (hs : Mem s) : Mem (State.setWin s w v) := by
  unfold State.setWin; try dsimp only
  repeat' with_reducible
    first
    | assumption | simp only [Mem.irrel_eq]

theorem State.closeWin_wf {s : State} {w : Nat} (hs : Mem s) : Mem (State.closeWin s w) := by
  unfold State.closeWin; try dsimp only
  repeat' with_reducible
    first
    | assumption | intro _ | apply Mem.foldl | apply State.endJob_wf | apply State.setNat_wf | apply State.setWin_wf

theorem State.endRestore_wf {s : State} {j : Job} (hs : Mem s) : Mem (State.endRestore s j) := by
  unfold State.endRestore; try dsimp only
  repeat' with_reducible
    first
    | assumption | apply Mem.ite | apply State.endJob_wf | split

theorem State.restoreWinDone_wf {s : State} {j : Job} {w : Nat} (hs : Mem s) : Mem (State.restoreWinDone s j w) := by
  unfold State.restoreWinDone; try dsimp only
  repeat' with_reducible
    first
    | assumption | apply Mem.ite | apply State.setNat_wf | apply State.setWin_wf | apply State.modJob_wf
    | apply State.endRestore_wf | split

theorem State.applyFenceRecord_wf {s : State} {p : Nat} {l : List Byte} (hs : Mem s) : Mem (State.applyFenceRecord s p l) := by
  unfold State.applyFenceRecord; try dsimp only
  repeat' with_reducible
    first
    | assumption | apply Mem.ite | apply State.bump_wf | apply State.setReg_wf | split

theorem State.signalRequest_wf {s : State} {handle gen : Nat} (hs : Mem s) : Mem (State.signalRequest s handle gen) := by
  unfold State.signalRequest; try dsimp only
  repeat' with_reducible
    first
    | assumption | apply Mem.ite | apply State.signalFence_wf | apply State.bump_wf

theorem State.fenceRecord_wf {s : State} {p : Nat} {l : List Byte} (hs : Mem s) : Mem (State.fenceRecord s p l) := by
  unfold State.fenceRecord; try dsimp only
  repeat' with_reducible
    first
    | assumption | apply Mem.ite | apply State.signalRequest_wf | apply State.applyFenceRecord_wf

theorem State.restoreRecord_wf {s : State} {w : Nat} {l : List Byte} (hs : Mem s) : Mem (State.restoreRecord s w l) := by
  unfold State.restoreRecord; try dsimp only
  repeat' with_reducible
    first
    | assumption | apply Mem.ite | apply State.fenceRecord_wf | apply State.bump_wf | apply State.vaWrite_wf
    | apply State.wrapAdd_wf | apply State.modJob_wf | apply State.restoreWinDone_wf | split

theorem State.winNak_wf {s : State} {w via seqno ackBytes code : Nat} {sender : Nat × Nat} (hs : Mem s) : Mem (State.winNak s w via seqno ackBytes code sender) := by
  unfold State.winNak; try dsimp only
  repeat' with_reducible
    first
    | assumption | apply State.bump_wf | apply State.ackSend_wf

theorem State.recordTaken_wf {s : State} {w via upTo : Nat} {l : List Byte} (hs : Mem s) : Mem (State.recordTaken s w via upTo l) := by
  unfold State.recordTaken; try dsimp only
  repeat' with_reducible
    first
    | assumption | apply Mem.ite | apply State.setWin_wf | apply State.ackSend_wf | apply State.winNak_wf
    | apply State.wrapAdd_wf | apply State.fenceRecord_wf | apply State.restoreRecord_wf

theorem State.recordLands_wf {s : State} {w via start len : Nat} (hs : Mem s) : Mem (State.recordLands s w via start len) := by
  unfold State.recordLands; try dsimp only
  repeat' with_reducible
    first
    | assumption | apply Mem.ite | apply State.setWin_wf | apply State.ackSend_wf | apply State.winNak_wf
    | apply State.setNat_wf | apply State.recordTaken_wf

theorem State.acceptCut_wf {s : State} {d : Desc} (hs : Mem s) : Mem (State.acceptCut s d) := by
  unfold State.acceptCut; try dsimp only
  repeat' with_reducible
    first
    | assumption | apply State.setNat_wf | apply State.setCut_wf | simp only [Mem.irrel_eq]

theorem State.abandonJobs_wf {s : State} {p : Nat} {f : Nat → Bool} (hs : Mem s) : Mem (State.abandonJobs s p f) := by
  unfold State.abandonJobs; try dsimp only
  repeat' with_reducible
    first
    | assumption | intro _ | apply Mem.ite | apply Mem.foldl | apply State.setStream_wf | apply State.pageAbandoned_wf
    | apply State.endJob_wf | apply State.abandonCut_wf

theorem State.setColl_wf {s : State} {g : Nat} {v : CollSt} (hs : Mem s) : Mem (State.setColl s g v) := by
  unfold State.setColl; try dsimp only
  repeat' with_reducible
    first
    | assumption | simp only [Mem.irrel_eq]

theorem State.undefine_wf {s : State} {p field n : Nat} (hs : Mem s) : Mem (State.undefine s p field n) := by
  unfold State.undefine; try dsimp only
  repeat' with_reducible
    first
    | assumption | apply Mem.ite | apply State.writeRows_wf | apply State.vaWrite_wf | simp only [Mem.irrel_eq]
    | split

theorem State.dropColl_wf {s : State} {g : Nat} (hs : Mem s) : Mem (State.dropColl s g) := by
  unfold State.dropColl; try dsimp only
  repeat' with_reducible
    first
    | assumption | intro _ | apply Mem.ite | apply Mem.foldl | apply State.setPort_wf

theorem State.dropRhz_wf {s : State} {g seq : Nat} (hs : Mem s) : Mem (State.dropRhz s g seq) := by
  unfold State.dropRhz; try dsimp only
  repeat' with_reducible
    first
    | assumption | intro _ | apply Mem.ite | apply Mem.foldl | apply State.setPort_wf

theorem State.collLeave_wf {s : State} {g id : Nat} (hs : Mem s) : Mem (State.collLeave s g id) := by
  unfold State.collLeave; try dsimp only
  repeat' with_reducible
    first
    | assumption | apply Mem.ite | apply State.dropColl_wf | apply State.dropRhz_wf | apply State.setColl_wf | split

theorem State.collFail_wf {s : State} {g id status : Nat} (hs : Mem s) : Mem (State.collFail s g id status) := by
  unfold State.collFail; try dsimp only
  repeat' with_reducible
    first
    | assumption | apply Mem.ite | apply State.bump_wf | apply State.endDesc_wf | apply State.collLeave_wf
    | apply State.undefine_wf | split

theorem State.abortCollectives_wf {s : State} {p : Nat} {f : Nat → Bool} (hs : Mem s) : Mem (State.abortCollectives s p f) := by
  unfold State.abortCollectives; try dsimp only
  repeat' with_reducible
    first
    | assumption | intro _ | apply Mem.foldl | apply State.collFail_wf

end Sys2Proof.Machine
end

