-- ==== Sys2Proof/Laws/MemoryObjects.lean ====
section
/-!
SUPPORT. Laws/MemoryObjects.lean: every operation keeps the canonical form of every memory: partitions, rings, stores and the timebase commands.
-/
set_option linter.all false
namespace Sys2Proof.Machine
open Sys2Proof

theorem State.quotaRefused_wf {s : State} {p : Nat} (hs : Mem s) : Mem (State.quotaRefused s p) := by
  unfold State.quotaRefused; try dsimp only
  repeat' with_reducible
    first
    | assumption | apply State.partEvent_wf

theorem State.squashWhere_wf {s : State} {r : Nat} {f : Nat → Bool} {counter : Nat} (hs : Mem s) : Mem (State.squashWhere s r f counter) := by
  unfold State.squashWhere; try dsimp only
  repeat' with_reducible
    first
    | assumption | intro _ | apply Mem.ite | apply Mem.foldl | apply State.lsPut_wf | apply State.bump_wf
    | simp only [Mem.irrel_eq] | split

theorem State.squashFrom_wf {s : State} {r cons counter : Nat} (hs : Mem s) : Mem (State.squashFrom s r cons counter) := by
  unfold State.squashFrom; try dsimp only
  repeat' with_reducible
    first
    | assumption | apply State.squashWhere_wf

theorem State.squash_wf {s : State} {r : Nat} {counter : Nat} (hs : Mem s) : Mem (State.squash s r counter) := by
  unfold State.squash; try dsimp only
  repeat' with_reducible
    first
    | assumption | apply State.squashWhere_wf

theorem State.squashPart_wf {s : State} {p : Nat} {f : Nat → Bool} {counter : Nat} (hs : Mem s) : Mem (State.squashPart s p f counter) := by
  unfold State.squashPart; try dsimp only
  repeat' with_reducible
    first
    | assumption | intro _ | apply Mem.foldl | apply State.squash_wf

theorem State.dropUncommitted_wf {s : State} {r : Nat} (hs : Mem s) : Mem (State.dropUncommitted s r) := by
  unfold State.dropUncommitted; try dsimp only
  repeat' with_reducible
    first
    | assumption | intro _ | apply Mem.ite | apply Mem.foldl | apply State.bump_wf | apply State.breakFence_wf
    | apply State.setRing_wf | apply State.setNat_wf

theorem State.abortDrop_wf {s : State} {j : AbortJob} (hs : Mem s) : Mem (State.abortDrop s j) := by
  unfold State.abortDrop; try dsimp only
  repeat' with_reducible
    first
    | assumption | intro _ | apply Mem.ite | apply Mem.foldl | apply State.dropUncommitted_wf
    | apply State.breakFence_wf | simp only [Mem.irrel_eq]

theorem State.fenceQuiesce_wf {s : State} {f : Nat} (hs : Mem s) : Mem (State.fenceQuiesce s f) := by
  unfold State.fenceQuiesce; try dsimp only
  repeat' with_reducible
    first
    | assumption | apply State.setReg_wf

theorem State.startAbort_wf {s : State} {kind : AbortKind} {p : Nat} {rings ctxs fences : List Nat} (hs : Mem s) : Mem (State.startAbort s kind p rings ctxs fences) := by
  unfold State.startAbort; try dsimp only
  repeat' with_reducible
    first
    | assumption | intro _ | apply Mem.foldl | apply State.squashPart_wf | apply State.setNat_wf
    | apply State.setRing_wf | apply State.setReg_wf | apply State.fenceQuiesce_wf | apply State.abortCollectives_wf
    | apply State.abandonJobs_wf | simp only [Mem.irrel_eq]

theorem State.startPartAbort_wf {s : State} {p : Nat} {destroy : Bool} (hs : Mem s) : Mem (State.startPartAbort s p destroy) := by
  unfold State.startPartAbort; try dsimp only
  repeat' with_reducible
    first
    | assumption | apply State.setNat_wf | apply State.startAbort_wf

theorem State.freeRing_wf {s : State} {p r : Nat} (hs : Mem s) : Mem (State.freeRing s p r) := by
  unfold State.freeRing; try dsimp only
  repeat' with_reducible
    first
    | assumption | apply Mem.ite | apply State.setNat_wf | apply State.setRing_wf | apply State.partEvent_wf

theorem State.freeFence_wf {s : State} {f : Nat} (hs : Mem s) : Mem (State.freeFence s f) := by
  unfold State.freeFence; try dsimp only
  repeat' with_reducible
    first
    | assumption | apply State.setReg_wf | simp only [Mem.irrel_eq]

theorem State.releaseGranule_wf {s : State} {g : Nat} (hs : Mem s) : Mem (State.releaseGranule s g) := by
  unfold State.releaseGranule; try dsimp only
  repeat' with_reducible
    first
    | assumption | apply Mem.ite | apply State.setOct_wf | apply State.setNat_wf | simp only [Mem.irrel_eq]

theorem State.zeroCore_wf {s : State} {c : Nat} (hs : Mem s) : Mem (State.zeroCore s c) := by
  unfold State.zeroCore; try dsimp only
  repeat' with_reducible
    first
    | assumption | apply State.lsZero_wf | apply State.mend_wf | (simp only [Mem.acc_eq]; refine ⟨?_, Mem.but ?_ _⟩)
    | apply drop_wf | apply Mem.acc

theorem State.zeroSlot_wf {s : State} {f sl : Nat} (hs : Mem s) : Mem (State.zeroSlot s f sl) := by
  unfold State.zeroSlot; try dsimp only
  repeat' with_reducible
    first
    | assumption | apply State.zeroCore_wf | split

theorem State.disown_wf {s : State} {p : Nat} (hs : Mem s) : Mem (State.disown s p) := by
  unfold State.disown; try dsimp only
  repeat' with_reducible
    first
    | assumption | intro _ | apply Mem.ite | apply Mem.foldl | apply State.setReg_wf | apply State.zeroSlot_wf
    | apply State.zeroSector_wf | apply State.setOct_wf | apply State.releaseGranule_wf | apply State.startZeroing_wf

theorem State.partDefaults_wf {s : State} {p : Nat} (hs : Mem s) : Mem (State.partDefaults s p) := by
  unfold State.partDefaults; try dsimp only
  repeat' with_reducible
    first
    | assumption | (simp only [Mem.regs_eq]; refine ⟨?_, Mem.but ?_ _⟩) | apply drop_wf | apply Mem.regs

theorem State.destroyPart_wf {s : State} {p : Nat} (hs : Mem s) : Mem (State.destroyPart s p) := by
  unfold State.destroyPart; try dsimp only
  repeat' with_reducible
    first
    | assumption | intro _ | apply Mem.ite | apply Mem.foldl | apply State.streamGoDown_wf | apply State.closeWin_wf
    | apply State.setReg_wf | apply State.abandonJobs_wf | apply State.emptyPool_wf | apply State.disown_wf
    | apply State.setPool_wf | apply State.setNat_wf | simp only [Mem.irrel_eq]

theorem State.finishAbort_wf {s : State} {j : AbortJob} (hs : Mem s) : Mem (State.finishAbort s j) := by
  unfold State.finishAbort; try dsimp only
  repeat' with_reducible
    first
    | assumption | intro _ | apply Mem.foldl | apply State.abortDrop_wf | apply State.freeRing_wf
    | apply State.freeFence_wf | apply State.setReg_wf | apply State.bump_wf | apply State.partEvent_wf
    | apply State.destroyPart_wf | apply State.setNat_wf | simp only [Mem.irrel_eq] | split

theorem createPart_wf {p : Nat} {s : State} {u2 : EntLoc} (hs : Mem s) : MemE (createPart p s u2) := by
  unfold createPart; try dsimp only
  repeat' with_reducible
    first
    | assumption | apply MemE.ok | exact MemE.error _ | apply MemE.ite | apply State.partDefaults_wf
    | apply State.layersDefault_wf | apply State.setNat_wf

theorem destroyPartCmd_wf {p : Nat} {s : State} {u2 : EntLoc} (hs : Mem s) : MemE (destroyPartCmd p s u2) := by
  unfold destroyPartCmd; try dsimp only
  repeat' with_reducible
    first
    | assumption | apply MemE.ok | exact MemE.error _ | apply MemE.ite | apply State.setNat_wf
    | apply State.startPartAbort_wf

theorem State.haltPart_wf {s : State} {p cause : Nat} (hs : Mem s) : Mem (State.haltPart s p cause) := by
  unfold State.haltPart; try dsimp only
  repeat' with_reducible
    first
    | assumption | apply Mem.ite | apply State.squashPart_wf | apply State.setNat_wf

theorem haltPartCmd_wf {p : Nat} {s : State} {u2 : EntLoc} (hs : Mem s) : MemE (haltPartCmd p s u2) := by
  unfold haltPartCmd; try dsimp only
  repeat' with_reducible
    first
    | assumption | apply MemE.ok | exact MemE.error _ | apply MemE.ite | apply State.haltPart_wf

theorem resumePartCmd_wf {p : Nat} {s : State} {u2 : EntLoc} (hs : Mem s) : MemE (resumePartCmd p s u2) := by
  unfold resumePartCmd; try dsimp only
  repeat' with_reducible
    first
    | assumption | apply MemE.ok | exact MemE.error _ | apply MemE.ite | apply State.setNat_wf

theorem State.forgetSeeds_wf {s : State} {p : Nat} (hs : Mem s) : Mem (State.forgetSeeds s p) := by
  unfold State.forgetSeeds; simp only [Mem.irrel_eq]; exact hs

theorem State.abortPart_wf {s : State} {p : Nat} (hs : Mem s) : Mem (State.abortPart s p) := by
  unfold State.abortPart; try dsimp only
  repeat' with_reducible
    first
    | assumption | apply Mem.ite | apply State.forgetSeeds_wf | apply State.startPartAbort_wf

theorem abortPartCmd_wf {p : Nat} {s : State} {u2 : EntLoc} (hs : Mem s) : MemE (abortPartCmd p s u2) := by
  unfold abortPartCmd; try dsimp only
  repeat' with_reducible
    first
    | assumption | apply MemE.ok | exact MemE.error _ | apply MemE.ite | apply State.abortPart_wf

theorem State.haltedReached_wf {s : State} {p : Nat} (hs : Mem s) : Mem (State.haltedReached s p) := by
  unfold State.haltedReached; try dsimp only
  repeat' with_reducible
    first
    | assumption | apply Mem.ite | apply State.setNat_wf | apply State.partEvent_wf

theorem createCtx_wf {c p : Nat} {s : State} {u3 : EntLoc} (hs : Mem s) : MemE (createCtx c p s u3) := by
  unfold createCtx; try dsimp only
  repeat' with_reducible
    first
    | assumption | apply MemE.ok | exact MemE.error _ | apply MemE.ite | apply State.setReg_wf

theorem destroyCtx_wf {c : Nat} {s : State} {u2 : EntLoc} (hs : Mem s) : MemE (destroyCtx c s u2) := by
  unfold destroyCtx; try dsimp only
  repeat' with_reducible
    first
    | assumption | apply MemE.ok | exact MemE.error _ | apply MemE.ite | apply State.startAbort_wf

theorem createRing_wf {r : Nat} {s : State} {u2 : EntLoc} (hs : Mem s) : MemE (createRing r s u2) := by
  unfold createRing; try dsimp only
  repeat' with_reducible
    first
    | assumption | apply MemE.ok | exact MemE.error _ | apply MemE.ite | apply State.setNat_wf
    | apply State.setRing_wf

theorem enableRing_wf {r : Nat} {s : State} {u2 : EntLoc} (hs : Mem s) : MemE (enableRing r s u2) := by
  unfold enableRing; try dsimp only
  repeat' with_reducible
    first
    | assumption | apply MemE.ok | exact MemE.error _ | apply MemE.ite | apply State.setNat_wf
    | apply State.setRing_wf

theorem disableRing_wf {r : Nat} {s : State} {u2 : EntLoc} (hs : Mem s) : MemE (disableRing r s u2) := by
  unfold disableRing; try dsimp only
  repeat' with_reducible
    first
    | assumption | apply MemE.ok | exact MemE.error _ | apply MemE.ite | apply State.setNat_wf | apply State.squash_wf
    | apply State.setRing_wf

theorem destroyRing_wf {r : Nat} {s : State} {u2 : EntLoc} (hs : Mem s) : MemE (destroyRing r s u2) := by
  unfold destroyRing; try dsimp only
  repeat' with_reducible
    first
    | assumption | apply MemE.ok | exact MemE.error _ | apply MemE.ite | apply State.startAbort_wf

theorem State.drainComplete_wf {s : State} {r : Nat} (hs : Mem s) : Mem (State.drainComplete s r) := by
  unfold State.drainComplete; try dsimp only
  repeat' with_reducible
    first
    | assumption | apply Mem.ite | apply State.setNat_wf | apply State.setRing_wf

theorem createFence_wf {who : Requester} {f c : Nat} {ex im : Bool} {s : State} {u6 : EntLoc} (hs : Mem s) : MemE (createFence who f c ex im s u6) := by
  unfold createFence; try dsimp only
  repeat' with_reducible
    first
    | assumption | apply MemE.ok | exact MemE.error _ | apply MemE.ite | apply State.setReg_wf
    | apply State.takeFree_wf | apply State.fenceNotify_wf | simp only [Mem.irrel_eq]

theorem destroyFence_wf {f : Nat} {s : State} {u2 : EntLoc} (hs : Mem s) : MemE (destroyFence f s u2) := by
  unfold destroyFence; try dsimp only
  repeat' with_reducible
    first
    | assumption | apply MemE.ok | exact MemE.error _ | apply MemE.ite | apply State.breakFence_wf
    | apply State.startAbort_wf

theorem signalFenceCmd_wf {f : Nat} {s : State} {u2 : EntLoc} (hs : Mem s) : MemE (signalFenceCmd f s u2) := by
  unfold signalFenceCmd; try dsimp only
  repeat' with_reducible
    first
    | assumption | apply MemE.ok | exact MemE.error _ | apply MemE.ite | apply State.signalFence_wf

theorem State.resetFence_wf {s : State} {f : Nat} (hs : Mem s) : Mem (State.resetFence s f) := by
  unfold State.resetFence; try dsimp only
  repeat' with_reducible
    first
    | assumption | apply State.setReg_wf | apply State.fenceNotify_wf

theorem resetFenceCmd_wf {f : Nat} {s : State} {u2 : EntLoc} (hs : Mem s) : MemE (resetFenceCmd f s u2) := by
  unfold resetFenceCmd; try dsimp only
  repeat' with_reducible
    first
    | assumption | apply MemE.ok | exact MemE.error _ | apply MemE.ite | apply State.resetFence_wf

theorem writeFenceSubs_wf {f : Nat} {v : Word} {s : State} {u3 : EntLoc} (hs : Mem s) : MemE (writeFenceSubs f v s u3) := by
  unfold writeFenceSubs; try dsimp only
  repeat' with_reducible
    first
    | assumption | apply MemE.ok | exact MemE.error _ | apply MemE.ite | apply State.setReg_wf
    | apply State.fenceNotify_wf

theorem writeFenceHandle_wf {who : Requester} {f : Nat} {link : Bool} {v : Word} {s : State} {u5 : EntLoc} (hs : Mem s) : MemE (writeFenceHandle who f link v s u5) := by
  unfold writeFenceHandle; try dsimp only
  repeat' with_reducible
    first
    | assumption | apply MemE.ok | exact MemE.error _ | apply MemE.ite | apply State.setReg_wf
    | simp only [Mem.irrel_eq]

theorem writeCoreOwner_wf {f : Nat} {v : Word} {s : State} {u3 : EntLoc} (hs : Mem s) : MemE (writeCoreOwner f v s u3) := by
  unfold writeCoreOwner; try dsimp only
  repeat' with_reducible
    first
    | assumption | intro _ | apply MemE.ok | exact MemE.error _ | apply MemE.ite | apply Mem.ite | apply Mem.foldl
    | apply State.setReg_wf | apply State.zeroSlot_wf | apply State.startZeroing_wf | apply State.setNat_wf

theorem writeGranuleOwner_wf {bytes : List Byte} {s : State} {u2 : EntLoc} (hs : Mem s) : MemE (writeGranuleOwner bytes s u2) := by
  unfold writeGranuleOwner; try dsimp only
  repeat' with_reducible
    first
    | assumption | intro _ | apply MemE.ok | exact MemE.error _ | apply MemE.ite | apply Mem.ite | apply Mem.foldl
    | apply State.releaseGranule_wf | apply State.setOct_wf

theorem State.granuleZeroed_wf {s : State} (hs : Mem s) : Mem (State.granuleZeroed s) := by
  unfold State.granuleZeroed; try dsimp only
  repeat' with_reducible
    first
    | assumption | apply Mem.ite | apply State.releaseGranule_wf | apply State.setOct_wf | simp only [Mem.irrel_eq]
    | (simp only [Mem.hbm_eq]; refine ⟨?_, Mem.but ?_ _⟩) | apply clear_bytes | apply Mem.hbm | split

theorem execPartCreate_wf {who : Requester} {part : Nat} {s : State} (hs : Mem s) : MemO (execPartCreate who part s) := by
  unfold execPartCreate; try dsimp only
  repeat' with_reducible
    first
    | assumption | intro _ | apply MemO.next | apply State.slotWrite_wf | apply createPart_wf

theorem execPartDestroy_wf {who : Requester} {part : Nat} {s : State} (hs : Mem s) : MemO (execPartDestroy who part s) := by
  unfold execPartDestroy; try dsimp only
  repeat' with_reducible
    first
    | assumption | intro _ | apply MemO.next | apply State.slotWrite_wf | apply destroyPartCmd_wf

theorem execPartHalt_wf {who : Requester} {part : Nat} {s : State} (hs : Mem s) : MemO (execPartHalt who part s) := by
  unfold execPartHalt; try dsimp only
  repeat' with_reducible
    first
    | assumption | intro _ | apply MemO.next | apply State.slotWrite_wf | apply haltPartCmd_wf

theorem execPartResume_wf {who : Requester} {part : Nat} {s : State} (hs : Mem s) : MemO (execPartResume who part s) := by
  unfold execPartResume; try dsimp only
  repeat' with_reducible
    first
    | assumption | intro _ | apply MemO.next | apply State.slotWrite_wf | apply resumePartCmd_wf

theorem execPartAbort_wf {who : Requester} {part : Nat} {s : State} (hs : Mem s) : MemO (execPartAbort who part s) := by
  unfold execPartAbort; try dsimp only
  repeat' with_reducible
    first
    | assumption | intro _ | apply MemO.next | apply State.slotWrite_wf | apply abortPartCmd_wf

theorem execHaltedReached_wf {part : Nat} {s : State} (hs : Mem s) : MemO (execHaltedReached part s) := by
  unfold execHaltedReached; try dsimp only
  repeat' with_reducible
    first
    | assumption | apply MemO.next | apply State.haltedReached_wf

theorem quotaEvent_wf {p : Nat} {r : Except Reason State} {s : State} (hr : MemE r) (hs : Mem s) : Mem (quotaEvent p r s) := by
  unfold quotaEvent; try dsimp only
  repeat' with_reducible
    first
    | assumption | apply State.quotaRefused_wf | split

theorem execCtxCreate_wf {who : Requester} {ctx part : Nat} {s : State} (hs : Mem s) : MemO (execCtxCreate who ctx part s) := by
  unfold execCtxCreate; try dsimp only
  repeat' with_reducible
    first
    | assumption | apply MemO.next | apply MemO.ite | exact MemE.error _ | apply createCtx_wf | apply quotaEvent_wf
    | apply State.finishWrite_wf | split

theorem execCtxDestroy_wf {who : Requester} {ctx : Nat} {s : State} (hs : Mem s) : MemO (execCtxDestroy who ctx s) := by
  unfold execCtxDestroy; try dsimp only
  repeat' with_reducible
    first
    | assumption | intro _ | apply MemO.next | apply State.slotWrite_wf | apply destroyCtx_wf

theorem execRingCreate_wf {who : Requester} {ring : Nat} {s : State} (hs : Mem s) : MemO (execRingCreate who ring s) := by
  unfold execRingCreate; try dsimp only
  repeat' with_reducible
    first
    | assumption | apply MemO.next | apply MemO.ite | exact MemE.error _ | apply createRing_wf | apply quotaEvent_wf
    | apply State.finishWrite_wf | split

theorem execRingEnable_wf {who : Requester} {ring : Nat} {s : State} (hs : Mem s) : MemO (execRingEnable who ring s) := by
  unfold execRingEnable; try dsimp only
  repeat' with_reducible
    first
    | assumption | intro _ | apply MemO.next | apply State.slotWrite_wf | apply enableRing_wf

theorem execRingDisable_wf {who : Requester} {ring : Nat} {s : State} (hs : Mem s) : MemO (execRingDisable who ring s) := by
  unfold execRingDisable; try dsimp only
  repeat' with_reducible
    first
    | assumption | intro _ | apply MemO.next | apply State.slotWrite_wf | apply disableRing_wf

theorem execRingDestroy_wf {who : Requester} {ring : Nat} {s : State} (hs : Mem s) : MemO (execRingDestroy who ring s) := by
  unfold execRingDestroy; try dsimp only
  repeat' with_reducible
    first
    | assumption | intro _ | apply MemO.next | apply State.slotWrite_wf | apply destroyRing_wf

theorem execDrainComplete_wf {ring : Nat} {s : State} (hs : Mem s) : MemO (execDrainComplete ring s) := by
  unfold execDrainComplete; try dsimp only
  repeat' with_reducible
    first
    | assumption | apply MemO.next | apply State.drainComplete_wf

theorem execAbortComplete_wf {job : Nat} {s : State} (hs : Mem s) : MemO (execAbortComplete job s) := by
  unfold execAbortComplete; try dsimp only
  repeat' with_reducible
    first
    | assumption | apply MemO.next | apply MemO.ite | apply State.finishAbort_wf | split

theorem execFenceCreate_wf {who : Requester} {fence ctx : Nat} {exportable imported : Bool} {s : State} (hs : Mem s) : MemO (execFenceCreate who fence ctx exportable imported s) := by
  unfold execFenceCreate; try dsimp only
  repeat' with_reducible
    first
    | assumption | apply MemO.next | apply MemO.ite | exact MemE.error _ | apply createFence_wf | apply quotaEvent_wf
    | apply State.finishWrite_wf | split

theorem execFenceDestroy_wf {who : Requester} {fence : Nat} {s : State} (hs : Mem s) : MemO (execFenceDestroy who fence s) := by
  unfold execFenceDestroy; try dsimp only
  repeat' with_reducible
    first
    | assumption | intro _ | apply MemO.next | apply State.slotWrite_wf | apply destroyFence_wf

theorem execFenceSignalCmd_wf {who : Requester} {fence : Nat} {s : State} (hs : Mem s) : MemO (execFenceSignalCmd who fence s) := by
  unfold execFenceSignalCmd; try dsimp only
  repeat' with_reducible
    first
    | assumption | intro _ | apply MemO.next | apply State.slotWrite_wf | apply signalFenceCmd_wf

theorem execFenceReset_wf {who : Requester} {fence : Nat} {s : State} (hs : Mem s) : MemO (execFenceReset who fence s) := by
  unfold execFenceReset; try dsimp only
  repeat' with_reducible
    first
    | assumption | intro _ | apply MemO.next | apply State.slotWrite_wf | apply resetFenceCmd_wf

theorem execFenceSubsWrite_wf {who : Requester} {fence : Nat} {v : Word} {s : State} (hs : Mem s) : MemO (execFenceSubsWrite who fence v s) := by
  unfold execFenceSubsWrite; try dsimp only
  repeat' with_reducible
    first
    | assumption | intro _ | apply MemO.next | apply State.slotWrite_wf | apply writeFenceSubs_wf

theorem execFenceHandleWrite_wf {who : Requester} {fence : Nat} {link : Bool} {v : Word} {s : State} (hs : Mem s) : MemO (execFenceHandleWrite who fence link v s) := by
  unfold execFenceHandleWrite; try dsimp only
  repeat' with_reducible
    first
    | assumption | intro _ | apply MemO.next | apply State.slotWrite_wf | apply writeFenceHandle_wf

theorem execFencePageSignal_wf {fn fence gen : Nat} {s : State} (hs : Mem s) : MemO (execFencePageSignal fn fence gen s) := by
  unfold execFencePageSignal; try dsimp only
  repeat' with_reducible
    first
    | assumption | apply MemO.next | apply MemO.ite | apply State.signalFence_wf | apply State.bump_wf

theorem execFencePageReset_wf {fn fence gen : Nat} {s : State} (hs : Mem s) : MemO (execFencePageReset fn fence gen s) := by
  unfold execFencePageReset; try dsimp only
  repeat' with_reducible
    first
    | assumption | apply MemO.next | apply MemO.ite | apply State.resetFence_wf | apply State.bump_wf

theorem execCoreOwnerWrite_wf {who : Requester} {frond : Nat} {v : Word} {s : State} (hs : Mem s) : MemO (execCoreOwnerWrite who frond v s) := by
  unfold execCoreOwnerWrite; try dsimp only
  repeat' with_reducible
    first
    | assumption | intro _ | apply MemO.next | apply State.slotWrite_wf | apply writeCoreOwner_wf

theorem execGranuleOwnerWrite_wf {who : Requester} {bytes : List Byte} {s : State} (hs : Mem s) : MemO (execGranuleOwnerWrite who bytes s) := by
  unfold execGranuleOwnerWrite; try dsimp only
  repeat' with_reducible
    first
    | assumption | intro _ | apply MemO.next | apply State.dictLong_wf | apply writeGranuleOwner_wf

theorem execGranuleZeroed_wf {s : State} (hs : Mem s) : MemO (execGranuleZeroed s) := by
  unfold execGranuleZeroed; try dsimp only
  repeat' with_reducible
    first
    | assumption | apply MemO.next | apply State.granuleZeroed_wf

theorem execMapBaseWrite_wf {who : Requester} {part : Nat} {v : Word} {s : State} (hs : Mem s) : MemO (execMapBaseWrite who part v s) := by
  unfold execMapBaseWrite; try dsimp only
  repeat' with_reducible
    first
    | assumption | intro _ | apply MemO.next | apply MemE.ok | apply State.slotWrite_wf | apply State.setReg_wf

theorem writeMapSync_wf {p : Nat} {s : State} {u2 : EntLoc} (hs : Mem s) : MemE (writeMapSync p s u2) := by
  unfold writeMapSync; try dsimp only
  repeat' with_reducible
    first
    | assumption | apply MemE.ok | simp only [Mem.irrel_eq]

theorem execMapSync_wf {who : Requester} {part : Nat} {v : Word} {s : State} (hs : Mem s) : MemO (execMapSync who part v s) := by
  unfold execMapSync; try dsimp only
  repeat' with_reducible
    first
    | assumption | intro _ | apply MemO.next | apply State.slotWrite_wf | apply writeMapSync_wf

theorem writeRunahead_wf {p : Nat} {v : Word} {s : State} {u3 : EntLoc} (hs : Mem s) : MemE (writeRunahead p v s u3) := by
  unfold writeRunahead; try dsimp only
  repeat' with_reducible
    first
    | assumption | apply MemE.ok | apply State.squashPart_wf | apply State.keepLive_wf | apply State.setReg_wf

theorem execRunaheadWrite_wf {who : Requester} {part : Nat} {v : Word} {s : State} (hs : Mem s) : MemO (execRunaheadWrite who part v s) := by
  unfold execRunaheadWrite; try dsimp only
  repeat' with_reducible
    first
    | assumption | intro _ | apply MemO.next | apply State.slotWrite_wf | apply writeRunahead_wf

theorem State.queueRow_wf {s : State} {row : Nat} (hs : Mem s) : Mem (State.queueRow s row) := by
  unfold State.queueRow; try dsimp only
  repeat' with_reducible
    first
    | assumption | apply Mem.ite | simp only [Mem.irrel_eq]

theorem State.hbmError_wf {s : State} {pa : Nat} {corrected : Bool} (hs : Mem s) : Mem (State.hbmError s pa corrected) := by
  unfold State.hbmError; try dsimp only
  repeat' with_reducible
    first
    | assumption | apply Mem.ite | apply State.queueRow_wf | simp only [Mem.irrel_eq]

theorem State.coreFault_wf {s : State} {core cause : Nat} (hs : Mem s) : Mem (State.coreFault s core cause) := by
  unfold State.coreFault; try dsimp only
  repeat' with_reducible
    first
    | assumption | intro _ | apply Mem.ite | apply Mem.foldl | apply State.squashPart_wf | apply State.setNat_wf
    | apply State.modDesc_wf | simp only [Mem.irrel_eq] | split

theorem State.coreEcc_wf {s : State} {c n : Nat} (hs : Mem s) : Mem (State.coreEcc s c n) := by
  unfold State.coreEcc; try dsimp only
  repeat' with_reducible
    first
    | assumption | apply Mem.ite | apply State.bump_wf | apply State.coreFault_wf | simp only [Mem.irrel_eq]

theorem State.eccCount_wf {s : State} {a : SAddr} {fixed bad : Nat} (hs : Mem s) : Mem (State.eccCount s a fixed bad) := by
  unfold State.eccCount; try dsimp only
  repeat' with_reducible
    first
    | assumption | apply Mem.ite | apply State.add_wf | apply State.coreEcc_wf | split

theorem State.eccRead_wf {s : State} {id : Nat} {a : SAddr} {n : Nat} (hs : Mem s) : Mem (State.eccRead s id a n).2 := by
  unfold State.eccRead; try dsimp only
  repeat' with_reducible
    first
    | assumption | apply Mem.dite2 | apply State.eccCount_wf | apply State.endDesc_wf

theorem State.lineBad_wf {s : State} {id : Nat} {x : Bool × Nat} (hs : Mem s) : Mem (State.lineBad s id x) := by
  unfold State.lineBad; try dsimp only
  repeat' with_reducible
    first
    | assumption | apply Mem.ite | apply State.endDesc_wf | apply State.hbmError_wf

theorem State.blocked_wf {s : State} {id : Nat} (hs : Mem s) : Mem (State.blocked s id) := by
  unfold State.blocked; try dsimp only
  repeat' with_reducible
    first
    | assumption | apply State.bump_wf | apply State.endDesc_wf

theorem State.tornDesc_wf {s : State} {id : Nat} (hs : Mem s) : Mem (State.tornDesc s id) := by
  unfold State.tornDesc; try dsimp only
  repeat' with_reducible
    first
    | assumption | apply State.modDesc_wf

theorem State.unmapped_wf {s : State} {d : Desc} {status : Nat} (hs : Mem s) : Mem (State.unmapped s d status) := by
  unfold State.unmapped; try dsimp only
  repeat' with_reducible
    first
    | assumption | apply State.bump_wf | apply State.tornDesc_wf | apply State.endDesc_wf

theorem State.fetchRow_wf {s : State} {d : Desc} {a : Addr} {n : Nat} (hs : Mem s) : Mem (State.fetchRow s d a n).2 := by
  unfold State.fetchRow; try dsimp only
  repeat' with_reducible
    first
    | assumption | apply Mem.dite2 | apply State.eccRead_wf | apply State.blocked_wf | apply State.translate_wf
    | apply State.mscTouch_wf | apply State.lineBad_wf | apply State.unmapped_wf | simp only [Mem.irrel_eq]
    | refine Mem.snd (by assumption) ?_ | split

theorem State.fetch_wf {s : State} {d : Desc} {a : Addr} {n : Nat} (hs : Mem s) : Mem (State.fetch s d a n).2 := by
  unfold State.fetch; try dsimp only
  repeat' with_reducible
    first
    | assumption | intro _ | apply Mem.foldl2 | apply State.fetchRow_wf | simp only [Mem.irrel_eq]
    | refine Mem.snd (by assumption) ?_ | split

theorem State.issueRow_wf {s : State} {d : Desc} {a : Addr} {l : List Byte} (hs : Mem s) : Mem (State.issueRow s d a l).2 := by
  unfold State.issueRow; try dsimp only
  repeat' with_reducible
    first
    | assumption | apply Mem.dite2 | apply State.blocked_wf | apply State.translate_wf | apply State.unmapped_wf
    | simp only [Mem.irrel_eq] | refine Mem.snd (by assumption) ?_ | split

theorem State.issue_wf {s : State} {d : Desc} {a : Addr} {l : List Byte} (hs : Mem s) : Mem (State.issue s d a l).2 := by
  unfold State.issue; try dsimp only
  repeat' with_reducible
    first
    | assumption | intro _ | apply Mem.dite2 | apply Mem.foldl2 | apply State.issueRow_wf

theorem State.failDesc_wf {s : State} {id status : Nat} (hs : Mem s) : Mem (State.failDesc s id status) := by
  unfold State.failDesc; try dsimp only
  repeat' with_reducible
    first
    | assumption | apply State.modDesc_wf

theorem State.land_wf {s : State} {w : PostedWrite} (hs : Mem s) : Mem (State.land s w) := by
  unfold State.land; try dsimp only
  repeat' with_reducible
    first
    | assumption | apply Mem.ite | apply State.foreWrite_wf | apply State.bump_wf | apply State.failDesc_wf
    | apply State.hbmPut_wf | apply State.settleCuts_wf | split

theorem State.landWhere_wf {s : State} {f : PostedWrite → Bool} (hs : Mem s) : Mem (State.landWhere s f) := by
  unfold State.landWhere; try dsimp only
  repeat' with_reducible
    first
    | assumption | intro _ | apply Mem.foldl | apply State.land_wf | simp only [Mem.irrel_eq]

theorem State.stalls_wf {s : State} {l : List (StorePort × Nat)} (hs : Mem s) : Mem (State.stalls s l) := by
  unfold State.stalls; try dsimp only
  repeat' with_reducible
    first
    | assumption | intro _ | apply Mem.foldl | apply State.add_wf

theorem State.landAt_wf {s : State} {i lost : Nat} (hs : Mem s) : Mem (State.landAt s i lost) := by
  unfold State.landAt; try dsimp only
  repeat' with_reducible
    first
    | assumption | apply Mem.ite | apply State.stalls_wf | apply State.land_wf | simp only [Mem.irrel_eq] | split

theorem State.writeRecord_wf {s : State} {d : Desc} (hs : Mem s) : Mem (State.writeRecord s d) := by
  unfold State.writeRecord; try dsimp only
  repeat' with_reducible
    first
    | assumption | apply Mem.ite | apply State.hostWrite_wf | apply State.vaWrite_wf | apply State.bump_wf
    | apply State.wrapAdd_wf

theorem State.afterRecord_wf {s : State} {d : Desc} (hs : Mem s) : Mem (State.afterRecord s d) := by
  unfold State.afterRecord; try dsimp only
  repeat' with_reducible
    first
    | assumption | apply Mem.ite | apply State.landWhere_wf | apply State.signalFence_wf | apply State.breakFence_wf
    | apply State.msix_wf | split

theorem State.flushRecords_wf {n : Nat} {s : State} {r : Nat} (hs : Mem s) : Mem (State.flushRecords n s r) := by
  induction n generalizing s with
  | zero => exact hs
  | succ n ih =>
    unfold State.flushRecords; try dsimp only
    repeat' with_reducible
      first
      | assumption | intro _ | apply Mem.ite | apply ih | apply State.writeRecord_wf | apply State.afterRecord_wf
      | simp only [Mem.irrel_eq] | split

theorem State.countStatus_wf {s : State} {d : Desc} (hs : Mem s) : Mem (State.countStatus s d) := by
  unfold State.countStatus; try dsimp only
  repeat' with_reducible
    first
    | assumption | apply Mem.ite | apply State.bump_wf

theorem State.keepCopy_wf {s : State} {d : Desc} (hs : Mem s) : Mem (State.keepCopy s d) := by
  unfold State.keepCopy; try dsimp only
  repeat' with_reducible
    first
    | assumption | apply Mem.ite | simp only [Mem.irrel_eq]

theorem State.completeDesc_wf {s : State} {id : Nat} (hs : Mem s) : Mem (State.completeDesc s id) := by
  unfold State.completeDesc; try dsimp only
  repeat' with_reducible
    first
    | assumption | apply Mem.ite | apply State.landWhere_wf | apply State.countStatus_wf | apply State.keepCopy_wf
    | apply State.modDesc_wf | apply State.flushRecords_wf | apply State.sweepFrames_wf | split

theorem State.tagError_wf {s : State} {pa : Nat} (hs : Mem s) : Mem (State.tagError s pa) := by
  unfold State.tagError; try dsimp only
  repeat' with_reducible
    first
    | assumption | apply Mem.ite | simp only [Mem.irrel_eq] | (simp only [Mem.hbm_eq]; refine ⟨?_, Mem.but ?_ _⟩)
    | apply put_bytes | apply Mem.hbm

theorem State.observe_wf {s : State} {o : RunObs} (hs : Mem s) : Mem (State.observe s o) := by
  unfold State.observe; try dsimp only
  repeat' with_reducible
    first
    | assumption | intro _ | apply Mem.foldl | apply State.upset_wf | apply State.stalls_wf | apply State.hbmError_wf
    | apply State.tagError_wf | apply State.add_wf | simp only [Mem.irrel_eq] | split

theorem State.waits_wf {s : State} {id : Nat} (hs : Mem s) : Mem (State.waits s id) := by
  unfold State.waits; try dsimp only
  repeat' with_reducible
    first
    | assumption | apply State.flagDesc_wf | apply State.modDesc_wf

theorem State.work_wf {s : State} {d : Desc} {o : RunObs} {f : State → State} (hs : Mem s) (hf : ∀ x0, Mem x0 → Mem (f x0)) : Mem (State.work s d o f) := by
  unfold State.work; try dsimp only
  repeat' with_reducible
    first
    | assumption | apply Mem.ite | apply State.observe_wf | apply State.spend_wf | apply State.tornDesc_wf
    | apply State.endDesc_wf | apply State.waits_wf | apply State.modDesc_wf | apply hf | simp only [Mem.irrel_eq]

theorem State.runOn_wf {s : State} {id : Nat} {ops : List Nat} {o : RunObs} {f : State → Desc → Nat → State} (hs : Mem s) (hf : ∀ x0 x1 x2, Mem x0 → Mem (f x0 x1 x2)) : Mem (State.runOn s id ops o f) := by
  unfold State.runOn; try dsimp only
  repeat' with_reducible
    first
    | assumption | intro _ | apply Mem.ite | apply State.work_wf | apply hf | split

theorem State.runOff_wf {s : State} {id : Nat} {ops : List Nat} {f : State → Desc → State} (hs : Mem s) (hf : ∀ x0 x1, Mem x0 → Mem (f x0 x1)) : Mem (State.runOff s id ops f) := by
  unfold State.runOff; try dsimp only
  repeat' with_reducible
    first
    | assumption | apply Mem.ite | apply hf | split

theorem State.runFill_wf {s : State} {d : Desc} {u2 : Nat} (hs : Mem s) : Mem (State.runFill s d u2) := by
  unfold State.runFill; try dsimp only
  repeat' with_reducible
    first
    | assumption | apply State.endDesc_wf | apply State.issue_wf | apply State.spend_wf | split

theorem State.copyRows_wf {d : Desc} {src dst : SAddr} {l : List Nat} {s : State} (hs : Mem s) : Mem (State.copyRows d src dst l s) := by
  induction l generalizing s with
  | nil => exact hs
  | cons i l ih =>
    unfold State.copyRows; try dsimp only
    repeat' with_reducible
      first
      | assumption | apply ih | apply State.fetch_wf | apply State.issue_wf | simp only [Mem.irrel_eq]
      | refine Mem.snd (by assumption) ?_ | refine Mem.snd3 (by assumption) ?_ | split

theorem State.runCopy_wf {s : State} {d : Desc} {u2 : Nat} (hs : Mem s) : Mem (State.runCopy s d u2) := by
  unfold State.runCopy; try dsimp only
  repeat' with_reducible
    first
    | assumption | apply State.copyRows_wf | apply State.spend_wf | apply State.endDesc_wf | split

theorem State.transferRows_wf {d : Desc} {src dst : Addr} {n ss ds : Nat} {l : List Nat} {s : State} (hs : Mem s) : Mem (State.transferRows d src dst n ss ds l s) := by
  induction l generalizing s with
  | nil => exact hs
  | cons i l ih =>
    unfold State.transferRows; try dsimp only
    repeat' with_reducible
      first
      | assumption | apply ih | apply State.fetch_wf | apply State.issue_wf | simp only [Mem.irrel_eq]
      | refine Mem.snd (by assumption) ?_ | refine Mem.snd3 (by assumption) ?_ | split

theorem State.runTransfer_wf {s : State} {d : Desc} {cc : Nat} (hs : Mem s) : Mem (State.runTransfer s d cc) := by
  unfold State.runTransfer; try dsimp only
  repeat' with_reducible
    first
    | assumption | apply State.transferRows_wf | apply State.spend_wf | apply State.endDesc_wf | split

theorem execWriteLands_wf {o : Landing} {s : State} (hs : Mem s) : MemO (execWriteLands o s) := by
  unfold execWriteLands; try dsimp only
  repeat' with_reducible
    first
    | assumption | apply MemO.next | apply State.landAt_wf

theorem execSectorZeroDone_wf {i : Nat} {s : State} (hs : Mem s) : MemO (execSectorZeroDone i s) := by
  unfold execSectorZeroDone; try dsimp only
  repeat' with_reducible
    first
    | assumption | apply MemO.next | simp only [Mem.irrel_eq]

theorem State.zeroChanged_wf {s : State} {parts : List Nat} {any : Bool} (hs : Mem s) : Mem (State.zeroChanged s parts any) := by
  unfold State.zeroChanged; try dsimp only
  repeat' with_reducible
    first
    | assumption | apply Mem.ite | apply State.startZeroing_wf

theorem writeLsWeightMap_wf {c : Nat} {v : Word} {s : State} {u3 : EntLoc} (hs : Mem s) : MemE (writeLsWeightMap c v s u3) := by
  unfold writeLsWeightMap; try dsimp only
  repeat' with_reducible
    first
    | assumption | intro _ | apply MemE.ok | exact MemE.error _ | apply MemE.ite | apply Mem.foldl
    | apply State.setReg_wf | apply State.lsZero_wf | apply State.zeroChanged_wf

theorem writeLsSpecMap_wf {c : Nat} {v : Word} {s : State} {u3 : EntLoc} (hs : Mem s) : MemE (writeLsSpecMap c v s u3) := by
  unfold writeLsSpecMap; try dsimp only
  repeat' with_reducible
    first
    | assumption | apply MemE.ok | exact MemE.error _ | apply MemE.ite | apply Mem.ite | apply State.squashPart_wf
    | apply State.setReg_wf

theorem writeFsWeightMap_wf {f m : Nat} {v : Word} {s : State} {u4 : EntLoc} (hs : Mem s) : MemE (writeFsWeightMap f m v s u4) := by
  unfold writeFsWeightMap; try dsimp only
  repeat' with_reducible
    first
    | assumption | intro _ | apply MemE.ok | exact MemE.error _ | apply MemE.ite | apply Mem.foldl
    | apply State.setReg_wf | apply State.zeroSector_wf | apply State.zeroChanged_wf

theorem writeFsOwner_wf {f : Nat} {bytes : List Byte} {s : State} {u3 : EntLoc} (hs : Mem s) : MemE (writeFsOwner f bytes s u3) := by
  unfold writeFsOwner; try dsimp only
  repeat' with_reducible
    first
    | assumption | intro _ | apply MemE.ok | exact MemE.error _ | apply MemE.ite | apply Mem.foldl
    | apply State.setOctFrom_wf | apply State.zeroSector_wf | apply State.zeroChanged_wf

theorem execLsWeightMapWrite_wf {who : Requester} {core : Nat} {v : Word} {s : State} (hs : Mem s) : MemO (execLsWeightMapWrite who core v s) := by
  unfold execLsWeightMapWrite; try dsimp only
  repeat' with_reducible
    first
    | assumption | intro _ | apply MemO.next | apply State.slotWrite_wf | apply writeLsWeightMap_wf

theorem execLsSpecMapWrite_wf {who : Requester} {core : Nat} {v : Word} {s : State} (hs : Mem s) : MemO (execLsSpecMapWrite who core v s) := by
  unfold execLsSpecMapWrite; try dsimp only
  repeat' with_reducible
    first
    | assumption | intro _ | apply MemO.next | apply State.slotWrite_wf | apply writeLsSpecMap_wf

theorem execFsWeightMapWrite_wf {who : Requester} {frond m : Nat} {v : Word} {s : State} (hs : Mem s) : MemO (execFsWeightMapWrite who frond m v s) := by
  unfold execFsWeightMapWrite; try dsimp only
  repeat' with_reducible
    first
    | assumption | intro _ | apply MemO.next | apply State.slotWrite_wf | apply writeFsWeightMap_wf

theorem execFsOwnerWrite_wf {who : Requester} {frond : Nat} {bytes : List Byte} {s : State} (hs : Mem s) : MemO (execFsOwnerWrite who frond bytes s) := by
  unfold execFsOwnerWrite; try dsimp only
  repeat' with_reducible
    first
    | assumption | intro _ | apply MemO.next | apply State.dictLong_wf | apply writeFsOwner_wf

theorem State.endAtCommit_wf {s : State} {id status : Nat} (hs : Mem s) : Mem (State.endAtCommit s id status) := by
  unfold State.endAtCommit; try dsimp only
  repeat' with_reducible
    first
    | assumption | apply State.modDesc_wf

theorem execStreamUp_wf {who : Requester} {st : Nat} {s : State} (hs : Mem s) : MemO (execStreamUp who st s) := by
  unfold execStreamUp; try dsimp only
  repeat' with_reducible
    first
    | assumption | intro _ | apply MemO.next | apply MemE.ok | apply State.slotWrite_wf | apply State.streamGoUp_wf

theorem execStreamDown_wf {who : Requester} {st : Nat} {s : State} (hs : Mem s) : MemO (execStreamDown who st s) := by
  unfold execStreamDown; try dsimp only
  repeat' with_reducible
    first
    | assumption | intro _ | apply MemO.next | apply MemE.ok | apply State.slotWrite_wf | apply State.streamGoDown_wf

theorem execRecordSend_wf {st : Nat} {ecc : Bool} {s : State} (hs : Mem s) : MemO (execRecordSend st ecc s) := by
  unfold execRecordSend; try dsimp only
  repeat' with_reducible
    first
    | assumption | apply MemO.next | apply State.serveNext_wf

theorem execAckReceived_wf {st : Nat} {ack : List Byte} {s : State} (hs : Mem s) : MemO (execAckReceived st ack s) := by
  unfold execAckReceived; try dsimp only
  repeat' with_reducible
    first
    | assumption | apply MemO.next | apply State.applyAck_wf

theorem execRetransmit_wf {st : Nat} {s : State} (hs : Mem s) : MemO (execRetransmit st s) := by
  unfold execRetransmit; try dsimp only
  repeat' with_reducible
    first
    | assumption | apply MemO.next | apply MemO.ite | apply State.retransmit_wf

theorem execStreamAckWrite_wf {who : Requester} {st : Nat} {bytes : List Byte} {s : State} (hs : Mem s) : MemO (execStreamAckWrite who st bytes s) := by
  unfold execStreamAckWrite; try dsimp only
  repeat' with_reducible
    first
    | assumption | intro _ | apply MemO.next | apply MemE.ok | apply Mem.ite | apply State.dictLong_wf
    | apply State.applyAck_wf

theorem execWinOpen_wf {who : Requester} {win : Nat} {s : State} (hs : Mem s) : MemO (execWinOpen who win s) := by
  unfold execWinOpen; try dsimp only
  repeat' with_reducible
    first
    | assumption | intro _ | apply MemO.next | apply MemE.ok | apply Mem.ite | apply State.slotWrite_wf
    | apply State.setNat_wf | apply State.setWin_wf

theorem execWinClose_wf {who : Requester} {win : Nat} {s : State} (hs : Mem s) : MemO (execWinClose who win s) := by
  unfold execWinClose; try dsimp only
  repeat' with_reducible
    first
    | assumption | intro _ | apply MemO.next | apply MemE.ok | apply State.slotWrite_wf | apply State.closeWin_wf

theorem execWinConsumedWrite_wf {who : Requester} {win : Nat} {v : Word} {s : State} (hs : Mem s) : MemO (execWinConsumedWrite who win v s) := by
  unfold execWinConsumedWrite; try dsimp only
  repeat' with_reducible
    first
    | assumption | intro _ | apply MemO.next | apply MemE.ok | apply State.slotWrite_wf | apply State.setReg_wf

theorem execRestoreTimeout_wf {job : Nat} {s : State} (hs : Mem s) : MemO (execRestoreTimeout job s) := by
  unfold execRestoreTimeout; try dsimp only
  repeat' with_reducible
    first
    | assumption | apply MemO.next | apply MemO.ite | apply State.endJob_wf | split

theorem writeRegion_wf {p k i : Nat} {v : Word} {s : State} {u5 : EntLoc} (hs : Mem s) : MemE (writeRegion p k i v s u5) := by
  unfold writeRegion; try dsimp only
  repeat' with_reducible
    first
    | assumption | apply MemE.ok | exact MemE.error _ | apply MemE.ite | apply State.setReg_wf
    | simp only [Mem.irrel_eq]

theorem execRegionWrite_wf {who : Requester} {part sub : Nat} {v : Word} {s : State} (hs : Mem s) : MemO (execRegionWrite who part sub v s) := by
  unfold execRegionWrite; try dsimp only
  repeat' with_reducible
    first
    | assumption | intro _ | apply MemO.next | apply State.slotWrite_wf | apply writeRegion_wf

theorem execCutFreeze_wf {part : Nat} {s : State} (hs : Mem s) : MemO (execCutFreeze part s) := by
  unfold execCutFreeze; try dsimp only
  repeat' with_reducible
    first
    | assumption | apply MemO.next | apply MemO.ite | apply State.freezeCut_wf | apply State.cutProgress_wf

theorem execCut_wf {id : Nat} {s : State} (hs : Mem s) : MemO (execCut id s) := by
  unfold execCut; try dsimp only
  repeat' with_reducible
    first
    | assumption | intro _ | apply MemO.next | apply State.runOff_wf | apply State.endAtCommit_wf
    | apply State.acceptCut_wf | split

theorem State.addJob_wf {s : State} {kind : JobKind} {tag : JobTag} {stream left : Nat} (hs : Mem s) : Mem (State.addJob s kind tag stream left) := by
  unfold State.addJob; try dsimp only
  repeat' with_reducible
    first
    | assumption | simp only [Mem.irrel_eq]

theorem execReplay_wf {id : Nat} {s : State} (hs : Mem s) : MemO (execReplay id s) := by
  unfold execReplay; try dsimp only
  repeat' with_reducible
    first
    | assumption | intro _ | apply MemO.next | apply State.runOff_wf | apply State.endAtCommit_wf
    | apply State.addJob_wf | split

theorem execRestore_wf {id : Nat} {s : State} (hs : Mem s) : MemO (execRestore id s) := by
  unfold execRestore; try dsimp only
  repeat' with_reducible
    first
    | assumption | intro _ | apply MemO.next | apply Mem.ite | apply State.runOff_wf | apply State.endAtCommit_wf
    | apply State.vaWrite_wf | apply State.addJob_wf | apply State.endRestore_wf | split

theorem State.clearFlags_wf {s : State} {k : Nat} {v : Word} (hs : Mem s) : Mem (State.clearFlags s k v) := by
  unfold State.clearFlags; try dsimp only
  repeat' with_reducible
    first
    | assumption | apply Mem.ite | apply State.setReg_wf | apply State.alertEdge_wf

theorem execGeometrySwitch_wf {s : State} (hs : Mem s) : MemO (execGeometrySwitch s) := by
  unfold execGeometrySwitch; try dsimp only
  repeat' with_reducible
    first
    | assumption | apply MemO.next | apply State.geometrySwitch_wf

theorem writeSwitchFrame_wf {v : Word} {s : State} {u2 : EntLoc} (hs : Mem s) : MemE (writeSwitchFrame v s u2) := by
  unfold writeSwitchFrame; try dsimp only
  repeat' with_reducible
    first
    | assumption | apply MemE.ok | exact MemE.error _ | apply MemE.ite | apply State.geometrySwitch_wf
    | apply State.setReg_wf | simp only [Mem.irrel_eq]

theorem execSwitchFrameWrite_wf {who : Requester} {v : Word} {s : State} (hs : Mem s) : MemO (execSwitchFrameWrite who v s) := by
  unfold execSwitchFrameWrite; try dsimp only
  repeat' with_reducible
    first
    | assumption | intro _ | apply MemO.next | apply State.slotWrite_wf | apply writeSwitchFrame_wf
    | apply State.timingEvent_wf | split

theorem writeFrameSeed_wf {v : Word} {s : State} {u2 : EntLoc} (hs : Mem s) : MemE (writeFrameSeed v s u2) := by
  unfold writeFrameSeed; try dsimp only
  repeat' with_reducible
    first
    | assumption | apply MemE.ok | exact MemE.error _ | apply MemE.ite | simp only [Mem.irrel_eq]

theorem execFrameSeedWrite_wf {who : Requester} {v : Word} {s : State} (hs : Mem s) : MemO (execFrameSeedWrite who v s) := by
  unfold execFrameSeedWrite; try dsimp only
  repeat' with_reducible
    first
    | assumption | intro _ | apply MemO.next | apply State.slotWrite_wf | apply writeFrameSeed_wf

theorem State.acceptPulse_wf {s : State} {phase : Int} {run : Nat} (hs : Mem s) : Mem (State.acceptPulse s phase run) := by
  unfold State.acceptPulse; try dsimp only
  repeat' with_reducible
    first
    | assumption | simp only [Mem.irrel_eq]

theorem State.syncEdge_wf {s : State} {phase : Int} (hs : Mem s) : Mem (State.syncEdge s phase) := by
  unfold State.syncEdge; try dsimp only
  repeat' with_reducible
    first
    | assumption | apply Mem.ite | apply State.acceptPulse_wf | apply State.bump_wf | split

theorem execSyncInEdge_wf {phase : Int} {o : EdgeObs} {s : State} (hs : Mem s) : MemO (execSyncInEdge phase o s) := by
  unfold execSyncInEdge; try dsimp only
  repeat' with_reducible
    first
    | assumption | apply MemO.next | apply MemO.ite | apply State.setReg_wf | apply State.syncEvent_wf
    | apply State.syncEdge_wf | simp only [Mem.irrel_eq]

theorem execSyncLineFault_wf {line : Nat} {s : State} (hs : Mem s) : MemO (execSyncLineFault line s) := by
  unfold execSyncLineFault; try dsimp only
  repeat' with_reducible
    first
    | assumption | apply MemO.next | apply MemO.ite | apply State.setReg_wf | apply State.syncEvent_wf

theorem execSyncLineOk_wf {s : State} (hs : Mem s) : MemO (execSyncLineOk s) := by
  unfold execSyncLineOk; try dsimp only
  repeat' with_reducible
    first
    | assumption | apply MemO.next | apply State.setReg_wf

theorem execSyncStuck_wf {s : State} (hs : Mem s) : MemO (execSyncStuck s) := by
  unfold execSyncStuck; try dsimp only
  repeat' with_reducible
    first
    | assumption | apply MemO.next | apply State.setReg_wf | apply State.syncEvent_wf

theorem State.qualify_wf {s : State} {ref : Nat} (hs : Mem s) : Mem (State.qualify s ref) := by
  unfold State.qualify; try dsimp only
  repeat' with_reducible
    first
    | assumption | apply Mem.ite | apply State.setNat_wf | apply State.setPort_wf | simp only [Mem.irrel_eq]

theorem execRefQualified_wf {ref : Nat} {offset : Int} {s : State} (hs : Mem s) : MemO (execRefQualified ref offset s) := by
  unfold execRefQualified; try dsimp only
  repeat' with_reducible
    first
    | assumption | apply MemO.next | apply MemO.ite | apply State.qualify_wf | apply State.setReg_wf
    | apply State.unqualify_wf | apply State.timingEvent_wf | split

theorem execRefLost_wf {ref : Nat} {s : State} (hs : Mem s) : MemO (execRefLost ref s) := by
  unfold execRefLost; try dsimp only
  repeat' with_reducible
    first
    | assumption | apply MemO.next | apply MemO.ite | apply State.timingEvent_wf | simp only [Mem.irrel_eq]

theorem execOffsetExceeded_wf {s : State} (hs : Mem s) : MemO (execOffsetExceeded s) := by
  unfold execOffsetExceeded; try dsimp only
  repeat' with_reducible
    first
    | assumption | apply MemO.next | apply MemO.ite | apply State.leaveLocked_wf | apply State.returnOf_wf

theorem execLockAcquired_wf {s : State} (hs : Mem s) : MemO (execLockAcquired s) := by
  unfold execLockAcquired; try dsimp only
  repeat' with_reducible
    first
    | assumption | apply MemO.next | apply MemO.ite | apply State.enterLocked_wf

theorem execFreerunEntered_wf {s : State} (hs : Mem s) : MemO (execFreerunEntered s) := by
  unfold execFreerunEntered; try dsimp only
  repeat' with_reducible
    first
    | assumption | apply MemO.next | apply MemO.ite | apply State.enterLocked_wf | apply State.setNat_wf
    | apply State.timingEvent_wf | apply State.muteNow_wf

theorem execPtmDialogue_wf {s : State} (hs : Mem s) : MemO (execPtmDialogue s) := by
  unfold execPtmDialogue; try dsimp only
  repeat' with_reducible
    first
    | assumption | apply MemO.next | apply MemO.ite | apply State.emit_wf | simp only [Mem.irrel_eq]

theorem execPtmResponse_wf {time : Nat} {s : State} (hs : Mem s) : MemO (execPtmResponse time s) := by
  unfold execPtmResponse; try dsimp only
  repeat' with_reducible
    first
    | assumption | apply MemO.next | apply MemO.ite | simp only [Mem.irrel_eq]

theorem execPtmTimeout_wf {s : State} (hs : Mem s) : MemO (execPtmTimeout s) := by
  unfold execPtmTimeout; try dsimp only
  repeat' with_reducible
    first
    | assumption | apply MemO.next | apply MemO.ite | apply State.bump_wf | simp only [Mem.irrel_eq]

theorem State.ptmOff_wf {s : State} (hs : Mem s) : Mem (State.ptmOff s) := by
  unfold State.ptmOff; try dsimp only
  repeat' with_reducible
    first
    | assumption | apply State.unqualify_wf | apply State.setNat_wf | simp only [Mem.irrel_eq]

theorem execPtmEnableClear_wf {s : State} (hs : Mem s) : MemO (execPtmEnableClear s) := by
  unfold execPtmEnableClear; try dsimp only
  repeat' with_reducible
    first
    | assumption | apply MemO.next | apply State.ptmOff_wf

theorem execPtmEnableSet_wf {s : State} (hs : Mem s) : MemO (execPtmEnableSet s) := by
  unfold execPtmEnableSet; try dsimp only
  repeat' with_reducible
    first
    | assumption | apply MemO.next | apply MemO.ite | apply State.setNat_wf

theorem execDoorbell_wf {fn ring v : Nat} {s : State} (hs : Mem s) : MemO (execDoorbell fn ring v s) := by
  unfold execDoorbell; try dsimp only
  repeat' with_reducible
    first
    | assumption | apply MemO.next | apply MemO.ite | apply State.bump_wf | apply State.setNat_wf

theorem State.fetchEntry_wf {s : State} {r i : Nat} (hs : Mem s) : Mem (State.fetchEntry s r i) := by
  unfold State.fetchEntry; try dsimp only
  repeat' with_reducible
    first
    | assumption | apply State.translate_wf | apply State.mscTouch_wf | apply State.setRing_wf | split

theorem execEntriesFetched_wf {ring : Nat} {s : State} (hs : Mem s) : MemO (execEntriesFetched ring s) := by
  unfold execEntriesFetched; try dsimp only
  repeat' with_reducible
    first
    | assumption | intro _ | apply MemO.next | apply MemO.ite | apply Mem.foldl | apply State.fetchEntry_wf

theorem execCqConsWrite_wf {fn ring v : Nat} {s : State} (hs : Mem s) : MemO (execCqConsWrite fn ring v s) := by
  unfold execCqConsWrite; try dsimp only
  repeat' with_reducible
    first
    | assumption | apply MemO.next | apply MemO.ite | apply State.setNat_wf

theorem State.completeAtCommit_wf {s : State} {d : Desc} (hs : Mem s) : Mem (State.completeAtCommit s d) := by
  unfold State.completeAtCommit; try dsimp only
  repeat' with_reducible
    first
    | assumption | apply State.modDesc_wf | apply State.completeDesc_wf

theorem execNop_wf {id : Nat} {s : State} (hs : Mem s) : MemO (execNop id s) := by
  unfold execNop; try dsimp only
  repeat' with_reducible
    first
    | assumption | intro _ | apply MemO.next | apply State.runOff_wf | apply State.completeAtCommit_wf

theorem execOrderBegins_wf {id waited : Nat} {s : State} (hs : Mem s) : MemO (execOrderBegins id waited s) := by
  unfold execOrderBegins; try dsimp only
  repeat' with_reducible
    first
    | assumption | intro _ | apply MemO.next | apply Mem.ite | apply State.runOff_wf | apply State.modDesc_wf

theorem execOrder_wf {id : Nat} {s : State} (hs : Mem s) : MemO (execOrder id s) := by
  unfold execOrder; try dsimp only
  repeat' with_reducible
    first
    | assumption | intro _ | apply MemO.next | apply Mem.ite | apply State.runOff_wf | apply State.spend_wf
    | apply State.endDesc_wf | apply State.bump_wf | apply State.wrapAdd_wf | split

end Sys2Proof.Machine
end

