-- ==== Sys2Proof/Laws/MemoryCompute.lean ====
section
/-!
SUPPORT. Laws/MemoryCompute.lean: every operation keeps the canonical form of every memory: tiles, compute, attention and pages.
-/
set_option linter.all false
namespace Sys2Proof.Machine
open Sys2Proof

theorem State.drawN_wf {s : State} {id core k n : Nat} (hs : Mem s) : Mem (State.drawN s id core k n).2 := by
  unfold State.drawN; try dsimp only
  repeat' with_reducible
    first
    | assumption | apply Mem.dite2 | apply State.wrapAdd_wf | apply State.modDesc_wf | simp only [Mem.irrel_eq]
    | split

theorem State.loadSeeds_wf {s : State} {d : Desc} {core : Nat} (hs : Mem s) : Mem (State.loadSeeds s d core) := by
  unfold State.loadSeeds; try dsimp only
  repeat' with_reducible
    first
    | assumption | intro _ | apply Mem.ite | apply Mem.foldl | apply State.modDesc_wf | apply State.endDesc_wf
    | apply State.fetch_wf | apply State.flagDesc_wf | apply State.bump_wf | simp only [Mem.irrel_eq]
    | refine Mem.snd (by assumption) ?_ | split

theorem onGot_wf {α : Type} {x : Option α × State} {f : α → State → State} (hx : Mem x.2)
    (hf : ∀ a s, Mem s → Mem (f a s)) : Mem (onGot x f) := by
  obtain ⟨a, s⟩ := x
  cases a
  · exact hx
  · exact hf _ _ hx

theorem State.runWhen_wf {s : State} {id : Nat} {ops : List Nat} {o : RunObs} {due : State → Desc → Bool} {f : State → Desc → Nat → State} (hs : Mem s) (hf : ∀ x0 x1 x2, Mem x0 → Mem (f x0 x1 x2)) : Mem (State.runWhen s id ops o due f) := by
  unfold State.runWhen; try dsimp only
  repeat' with_reducible
    first
    | assumption | apply Mem.ite | apply State.runOn_wf | split

theorem State.readBounds_wf {s : State} {d : Desc} (hs : Mem s) : Mem (State.readBounds s d).2 := by
  unfold State.readBounds; try dsimp only
  repeat' with_reducible
    first
    | assumption | apply Mem.dite2 | apply State.fetch_wf | simp only [Mem.irrel_eq]
    | refine Mem.snd (by assumption) ?_ | split

theorem State.readVec_wf {s : State} {d : Desc} {ptr n : Nat} {old : List Byte} (hs : Mem s) : Mem (State.readVec s d ptr n old).2 := by
  unfold State.readVec; try dsimp only
  repeat' with_reducible
    first
    | assumption | apply Mem.dite2 | apply State.endDesc_wf | apply State.fetch_wf | simp only [Mem.irrel_eq]
    | refine Mem.snd (by assumption) ?_ | split

theorem State.readPos_wf {s : State} {d : Desc} {n : Nat} (hs : Mem s) : Mem (State.readPos s d n).2 := by
  unfold State.readPos; try dsimp only
  repeat' with_reducible
    first
    | assumption | apply Mem.dite2 | apply State.readVec_wf | simp only [Mem.irrel_eq]
    | refine Mem.snd (by assumption) ?_ | split

theorem State.stage3_wf {s : State} {d : Desc} (hs : Mem s) : Mem (State.stage3 s d) := by
  unfold State.stage3; try dsimp only
  repeat' with_reducible
    first
    | assumption | apply Mem.ite | apply State.endDesc_wf

theorem State.untear_wf {s : State} {id : Nat} (hs : Mem s) : Mem (State.untear s id) := by
  unfold State.untear; try dsimp only
  repeat' with_reducible
    first
    | assumption | apply State.modDesc_wf

theorem State.landBounds_wf {s : State} {d : Desc} {cc : Nat} (hs : Mem s) : Mem (State.landBounds s d cc) := by
  unfold State.landBounds; try dsimp only
  repeat' with_reducible
    first
    | assumption | intro _ | apply Mem.ite | apply onGot_wf | apply State.spend_wf | apply State.readBounds_wf
    | apply State.endDesc_wf | apply State.readVec_wf | apply State.readPos_wf | apply State.modDesc_wf
    | apply State.stage3_wf | apply State.untear_wf

theorem State.tileTag_wf {s : State} {d : Desc} (hs : Mem s) : Mem (State.tileTag s d).2 := by
  unfold State.tileTag; try dsimp only
  repeat' with_reducible
    first
    | assumption | apply Mem.dite2 | apply State.endDesc_wf | apply State.fetch_wf | simp only [Mem.irrel_eq]
    | refine Mem.snd (by assumption) ?_ | split

theorem State.tagSquash_wf {s : State} {d : Desc} {tag : Nat} (hs : Mem s) : Mem (State.tagSquash s d tag) := by
  unfold State.tagSquash; try dsimp only
  repeat' with_reducible
    first
    | assumption | apply Mem.ite | apply State.modDesc_wf | apply State.squash_wf | apply State.bump_wf | split

theorem State.readMask_wf {s : State} {d : Desc} {t : Tile} {cc : Nat} (hs : Mem s) : Mem (State.readMask s d t cc).2 := by
  unfold State.readMask; try dsimp only
  repeat' with_reducible
    first
    | assumption | intro _ | apply Mem.dite2 | apply Mem.foldl2 | apply State.fetch_wf | apply State.spend_wf
    | simp only [Mem.irrel_eq] | refine Mem.snd (by assumption) ?_ | split

theorem State.startTag_wf {s : State} {d : Desc} {c : Nat} (hs : Mem s) : Mem (State.startTag s d c).2 := by
  unfold State.startTag; try dsimp only
  repeat' with_reducible
    first
    | assumption | apply Mem.dite2 | apply State.tileTag_wf | apply State.tagSquash_wf | apply State.endDesc_wf
    | apply State.fetch_wf | simp only [Mem.irrel_eq] | refine Mem.snd (by assumption) ?_ | split

theorem State.openTile_wf {s : State} {d : Desc} {c : Nat} {t : Tile} {cc : Nat} (hs : Mem s) : Mem (State.openTile s d c t cc) := by
  unfold State.openTile; try dsimp only
  repeat' with_reducible
    first
    | assumption | intro _ | apply onGot_wf | apply State.startTag_wf | apply State.readMask_wf
    | apply State.untear_wf | apply State.modDesc_wf | refine Mem.snd (by assumption) ?_ | split

theorem State.nextTile_wf {n : Nat} {s : State} {d : Desc} {c cc : Nat} (hs : Mem s) : Mem (State.nextTile n s d c cc) := by
  induction n generalizing s d with
  | zero => exact hs
  | succ n ih =>
    unfold State.nextTile; try dsimp only
    repeat' with_reducible
      first
      | assumption | intro _ | apply Mem.ite | apply ih | apply State.endDesc_wf | apply State.bump_wf
      | apply State.modDesc_wf | apply State.wrapAdd_wf | apply State.openTile_wf | simp only [Mem.irrel_eq] | split

theorem State.closeTile_wf {s : State} {d : Desc} {c : Nat} (hs : Mem s) : Mem (State.closeTile s d c) := by
  unfold State.closeTile; try dsimp only
  repeat' with_reducible
    first
    | assumption | apply Mem.ite | apply State.wrapAdd_wf | apply State.modDesc_wf | apply State.endDesc_wf

theorem State.landRows_wf {s : State} {d : Desc} {a : SAddr} {l : List Byte} {fore : Bool} (hs : Mem s) : Mem (State.landRows s d a l fore).2 := by
  unfold State.landRows; try dsimp only
  repeat' with_reducible
    first
    | assumption | intro _ | apply Mem.ite | apply Mem.dite2 | apply Mem.foldl2 | apply State.foreWrite_wf
    | apply State.storeWrite_wf | apply State.blocked_wf

theorem State.bring_wf {s : State} {d : Desc} {a : SAddr} {l : List (Addr × Nat × Nat)} {fore : Bool} (hs : Mem s) : Mem (State.bring s d a l fore).2 := by
  unfold State.bring; try dsimp only
  repeat' with_reducible
    first
    | assumption | intro _ | apply Mem.dite2 | apply Mem.foldl2 | apply State.fetch_wf | apply State.landRows_wf
    | simp only [Mem.irrel_eq] | refine Mem.snd (by assumption) ?_ | split

theorem State.pageRow_wf {s : State} {d : Desc} {t : Tile} {part tok lo n : Nat} (hs : Mem s) : Mem (State.pageRow s d t part tok lo n).2 := by
  unfold State.pageRow; try dsimp only
  repeat' with_reducible
    first
    | assumption | apply State.fetch_wf | simp only [Mem.irrel_eq] | refine Mem.snd (by assumption) ?_ | split

theorem State.pageRows_wf {s : State} {d : Desc} {t : Tile} {part : Nat} {toks : List Nat} {lo n : Nat} (hs : Mem s) : Mem (State.pageRows s d t part toks lo n).2 := by
  unfold State.pageRows; try dsimp only
  repeat' with_reducible
    first
    | assumption | intro _ | apply Mem.dite2 | apply Mem.foldl2 | apply State.pageRow_wf | simp only [Mem.irrel_eq]
    | refine Mem.snd (by assumption) ?_ | split

theorem State.bringPages_wf {s : State} {d : Desc} {t : Tile} {a : SAddr} (hs : Mem s) : Mem (State.bringPages s d t a).2 := by
  unfold State.bringPages; try dsimp only
  repeat' with_reducible
    first
    | assumption | apply Mem.dite2 | apply State.pageRows_wf | apply State.landRows_wf | simp only [Mem.irrel_eq]
    | refine Mem.snd (by assumption) ?_ | split

theorem State.bringTile_wf {s : State} {d : Desc} {t : Tile} (hs : Mem s) : Mem (State.bringTile s d t).2 := by
  unfold State.bringTile; try dsimp only
  repeat' with_reducible
    first
    | assumption | apply Mem.dite2 | apply State.bring_wf | apply State.bringPages_wf | apply State.endDesc_wf | split

theorem State.landTile_wf {s : State} {d : Desc} {t : Tile} (hs : Mem s) : Mem (State.landTile s d t) := by
  unfold State.landTile; try dsimp only
  repeat' with_reducible
    first
    | assumption | apply State.bringTile_wf | apply State.modDesc_wf

theorem State.prefetch_wf {s : State} {d : Desc} (hs : Mem s) : Mem (State.prefetch s d) := by
  unfold State.prefetch; try dsimp only
  repeat' with_reducible
    first
    | assumption | apply Mem.ite | apply State.bringTile_wf | apply State.modDesc_wf
    | refine Mem.snd (by assumption) ?_ | split

theorem State.rowA_wf {s : State} {d : Desc} {t : Tile} {r : Nat} (hs : Mem s) : Mem (State.rowA s d t r).2 := by
  unfold State.rowA; try dsimp only
  repeat' with_reducible
    first
    | assumption | apply State.endDesc_wf | apply State.fetch_wf | simp only [Mem.irrel_eq]
    | refine Mem.snd (by assumption) ?_ | split

theorem State.rowsA_wf {s : State} {d : Desc} {t : Tile} (hs : Mem s) : Mem (State.rowsA s d t).2 := by
  unfold State.rowsA; try dsimp only
  repeat' with_reducible
    first
    | assumption | intro _ | apply Mem.dite2 | apply Mem.foldl2 | apply State.rowA_wf | simp only [Mem.irrel_eq]
    | refine Mem.snd (by assumption) ?_ | split

theorem State.rowsB_wf {s : State} {d : Desc} {t : Tile} (hs : Mem s) : Mem (State.rowsB s d t).2 := by
  unfold State.rowsB; try dsimp only
  repeat' with_reducible
    first
    | assumption | apply State.endDesc_wf | apply State.fetch_wf | simp only [Mem.irrel_eq]
    | refine Mem.snd (by assumption) ?_ | split

theorem State.accCheck_wf {s : State} {d : Desc} {c : Nat} (hs : Mem s) : Mem (State.accCheck s d c).2 := by
  unfold State.accCheck; try dsimp only
  repeat' with_reducible
    first
    | assumption | apply Mem.dite2 | apply State.add_wf | apply State.endDesc_wf | apply State.coreEcc_wf

theorem State.accStore_wf {s : State} {d : Desc} {c r n : Nat} {x : Int × Nat} (hs : Mem s) : Mem (State.accStore s d c r n x) := by
  unfold State.accStore; try dsimp only
  repeat' with_reducible
    first
    | assumption | apply Mem.ite | apply State.accPut_wf | simp only [Mem.irrel_eq]

theorem State.accWrite_wf {s : State} {d : Desc} {c : Nat} {l : List (List (Int × Nat))} (hs : Mem s) : Mem (State.accWrite s d c l) := by
  unfold State.accWrite; try dsimp only
  repeat' with_reducible
    first
    | assumption | intro _ | apply Mem.foldl | apply State.accStore_wf | simp only [Mem.irrel_eq]

theorem State.formTile_wf {s : State} {d : Desc} {c : Nat} {t : Tile} {cap : Option Nat} (hs : Mem s) : Mem (State.formTile s d c t cap).2 := by
  unfold State.formTile; try dsimp only
  repeat' with_reducible
    first
    | assumption | apply State.accCheck_wf | apply State.rowsA_wf | apply State.rowsB_wf | simp only [Mem.irrel_eq]
    | refine Mem.snd (by assumption) ?_ | split

theorem State.countPasses_wf {s : State} {d : Desc} {c n : Nat} (hs : Mem s) : Mem (State.countPasses s d c n) := by
  unfold State.countPasses; try dsimp only
  repeat' with_reducible
    first
    | assumption | apply State.wrapAdd_wf

theorem State.countTile_wf {s : State} {d : Desc} {c : Nat} {t : Tile} {lost : Nat} (hs : Mem s) : Mem (State.countTile s d c t lost) := by
  unfold State.countTile; try dsimp only
  repeat' with_reducible
    first
    | assumption | apply Mem.ite | apply State.spend_wf | apply State.wrapAdd_wf | apply State.countPasses_wf

theorem State.cutTile_wf {s : State} {d : Desc} (hs : Mem s) : Mem (State.cutTile s d) := by
  unfold State.cutTile; try dsimp only
  repeat' with_reducible
    first
    | assumption | apply Mem.ite | apply State.countPasses_wf | apply State.takeFree_wf | split

theorem State.countSats_wf {s : State} {d : Desc} {c : Nat} {t : Tile} {l : List (List (Int × Nat))} (hs : Mem s) : Mem (State.countSats s d c t l) := by
  unfold State.countSats; try dsimp only
  repeat' with_reducible
    first
    | assumption | apply Mem.ite | apply State.bump_wf | apply State.flagDesc_wf

theorem State.residueFault_wf {s : State} {c n : Nat} (hs : Mem s) : Mem (State.residueFault s c n) := by
  unfold State.residueFault; try dsimp only
  repeat' with_reducible
    first
    | assumption | apply State.bump_wf | apply State.setNat_wf | apply State.wrapAdd_wf | apply State.coreFault_wf

theorem State.rangeMerge_wf {s : State} {d : Desc} {addr : SAddr} {i : Nat} {vs : List Fv} (hs : Mem s) : Mem (State.rangeMerge s d addr i vs).2 := by
  unfold State.rangeMerge; try dsimp only
  repeat' with_reducible
    first
    | assumption | apply Mem.dite2 | apply State.issue_wf | apply State.fetch_wf | apply State.modDesc_wf
    | simp only [Mem.irrel_eq] | refine Mem.snd (by assumption) ?_ | split

theorem State.recordRanges_wf {s : State} {d : Desc} {t : Tile} {rows : List (List Fv)} (hs : Mem s) : Mem (State.recordRanges s d t rows).2 := by
  unfold State.recordRanges; try dsimp only
  repeat' with_reducible
    first
    | assumption | intro _ | apply Mem.dite2 | apply Mem.foldl2 | apply State.endDesc_wf | apply State.rangeMerge_wf
    | split

theorem State.issueCodes_wf {s : State} {d : Desc} {a : Addr} {cont : Nat} {codes : List Nat} (hs : Mem s) : Mem (State.issueCodes s d a cont codes).2 := by
  unfold State.issueCodes; try dsimp only
  repeat' with_reducible
    first
    | assumption | apply Mem.dite2 | apply State.issue_wf | apply State.fetch_wf | simp only [Mem.irrel_eq]
    | refine Mem.snd (by assumption) ?_ | split

theorem State.drainAcc_wf {s : State} {d : Desc} {c : Nat} {t : Tile} {l : List (List (Int × Nat))} (hs : Mem s) : Mem (State.drainAcc s d c t l).2 := by
  unfold State.drainAcc; try dsimp only
  repeat' with_reducible
    first
    | assumption | intro _ | apply Mem.dite2 | apply Mem.foldl2 | apply State.issue_wf

theorem State.drainFloat_wf {s : State} {d : Desc} {c : Nat} {t : Tile} {vals : List (List Fv)} (hs : Mem s) : Mem (State.drainFloat s d c t vals).2 := by
  unfold State.drainFloat; try dsimp only
  repeat' with_reducible
    first
    | assumption | intro _ | apply Mem.ite | apply Mem.dite2 | apply Mem.foldl2 | apply State.drawN_wf
    | apply State.bump_wf | apply State.flagDesc_wf | apply State.issue_wf | simp only [Mem.irrel_eq]
    | refine Mem.snd (by assumption) ?_ | split

theorem State.drainTile_wf {s : State} {d : Desc} {c : Nat} {t : Tile} {l : List (List (Int × Nat))} (hs : Mem s) : Mem (State.drainTile s d c t l).2 := by
  unfold State.drainTile; try dsimp only
  repeat' with_reducible
    first
    | assumption | apply Mem.dite2 | apply State.drainAcc_wf | apply State.recordRanges_wf | apply State.drainFloat_wf
    | simp only [Mem.irrel_eq] | refine Mem.snd (by assumption) ?_ | split

theorem State.countNans_wf {s : State} {d : Desc} {t : Tile} {l : List (List (Int × Nat))} (hs : Mem s) : Mem (State.countNans s d t l) := by
  unfold State.countNans; try dsimp only
  repeat' with_reducible
    first
    | assumption | apply Mem.ite | apply State.add_wf

theorem State.runPasses_wf {s : State} {d : Desc} {c : Nat} {t : Tile} {o : RunObs} {fin : State → List (List (Int × Nat)) → Bool × State} (hs : Mem s) (hfin : ∀ x0 x1, Mem x0 → Mem (fin x0 x1).2) : Mem (State.runPasses s d c t o fin) := by
  unfold State.runPasses; try dsimp only
  repeat' with_reducible
    first
    | assumption | intro _ | apply Mem.ite | apply onGot_wf | apply State.formTile_wf | apply State.countSats_wf
    | apply State.accWrite_wf | apply State.residueFault_wf | apply State.loadSeeds_wf | apply State.countTile_wf
    | apply State.countNans_wf | apply State.closeTile_wf | apply hfin | refine Mem.snd (by assumption) ?_ | split

theorem State.runDrain_wf {s : State} {d : Desc} {c : Nat} {o : RunObs} (hs : Mem s) : Mem (State.runDrain s d c o) := by
  unfold State.runDrain; try dsimp only
  repeat' with_reducible
    first
    | assumption | intro _ | apply State.runPasses_wf | apply State.drainTile_wf | split

theorem State.readRanges_wf {s : State} {d : Desc} {a : SAddr} (hs : Mem s) : Mem (State.readRanges s d a).2 := by
  unfold State.readRanges; try dsimp only
  repeat' with_reducible
    first
    | assumption | intro _ | apply Mem.foldl2 | apply State.fetch_wf | simp only [Mem.irrel_eq]
    | refine Mem.snd (by assumption) ?_ | split

theorem State.readInputs_wf {s : State} {d : Desc} {t : Tile} {a : SAddr} {place : Nat} {bf : Bool} (hs : Mem s) : Mem (State.readInputs s d t a place bf).2 := by
  unfold State.readInputs; try dsimp only
  repeat' with_reducible
    first
    | assumption | intro _ | apply Mem.foldl2 | apply State.fetch_wf | simp only [Mem.irrel_eq]
    | refine Mem.snd (by assumption) ?_ | split

theorem State.writeStaged_wf {s : State} {d : Desc} {c : Nat} {t : Tile} {rows : List (List Fv)} {recs : List Nat}
    (hs : Mem s) : Mem (State.writeStaged s d c t rows recs).2 := by
  unfold State.writeStaged
  split
  · exact State.endDesc_wf hs
  · split
    extract_lets cont out
    have ho : Mem out.2.2.2 := by
      simp only [out]
      with_reducible refine Mem.foldl4 ?_ ?_
      · exact hs
      rintro ⟨ok, bad, lim, s1⟩ ⟨row, r⟩ ha
      dsimp only at ha ⊢
      split
      · exact State.issueCodes_wf (State.drawN_wf ha)
      · exact ha
    clear_value out
    obtain ⟨ok, bad, lim, s1⟩ := out
    dsimp only at ho ⊢
    split
    · with_reducible refine State.issue_wf (State.wrapAdd_wf ?_)
      exact Mem.ite (State.bump_wf (State.bump_wf ho)) (State.bump_wf ho)
    · exact ho

theorem State.runQuantise_wf {s : State} {d : Desc} {c : Nat} (hs : Mem s) : Mem (State.runQuantise s d c) := by
  unfold State.runQuantise; try dsimp only
  repeat' with_reducible
    first
    | assumption | intro _ | apply Mem.ite | apply State.loadSeeds_wf | apply onGot_wf | apply State.readRanges_wf
    | apply State.readInputs_wf | apply State.writeStaged_wf | apply State.spend_wf | apply State.closeTile_wf
    | apply State.endDesc_wf | refine Mem.snd (by assumption) ?_ | split

theorem State.readPartials_wf {s : State} {d : Desc} {src : Addr} {n : Nat} (hs : Mem s) : Mem (State.readPartials s d src n).2 := by
  unfold State.readPartials; try dsimp only
  repeat' with_reducible
    first
    | assumption | intro _ | apply Mem.dite2 | apply Mem.foldl2 | apply State.fetch_wf | apply State.endDesc_wf
    | simp only [Mem.irrel_eq] | refine Mem.snd (by assumption) ?_ | split

theorem State.runReduce_wf {s : State} {d : Desc} {cc : Nat} (hs : Mem s) : Mem (State.runReduce s d cc) := by
  unfold State.runReduce; try dsimp only
  repeat' with_reducible
    first
    | assumption | intro _ | apply Mem.ite | apply onGot_wf | apply State.readPartials_wf | apply State.endDesc_wf
    | apply State.bump_wf | apply State.flagDesc_wf | apply State.issue_wf | apply State.spend_wf | split

theorem State.runBucketForm_wf {s : State} {d : Desc} {cc : Nat} (hs : Mem s) : Mem (State.runBucketForm s d cc) := by
  unfold State.runBucketForm; try dsimp only
  repeat' with_reducible
    first
    | assumption | intro _ | apply Mem.ite | apply Mem.dite2 | apply Mem.foldl2 | apply onGot_wf
    | apply State.fetch_wf | apply State.endDesc_wf | apply State.bump_wf | apply State.issue_wf
    | apply State.spend_wf

theorem State.squashLayer_wf {s : State} {p layer : Nat} (hs : Mem s) : Mem (State.squashLayer s p layer) := by
  unfold State.squashLayer; try dsimp only
  repeat' with_reducible
    first
    | assumption | intro _ | apply Mem.foldl | apply State.squashFrom_wf

theorem execPrecisionSet_wf {id : Nat} {s : State} (hs : Mem s) : MemO (execPrecisionSet id s) := by
  unfold execPrecisionSet; try dsimp only
  repeat' with_reducible
    first
    | assumption | intro _ | apply MemO.next | apply State.runOff_wf | apply State.squashLayer_wf
    | apply State.setNat_wf | apply State.modDesc_wf | apply State.completeDesc_wf | simp only [Mem.irrel_eq] | split

theorem execPrecLayerWrite_wf {who : Requester} {part layer : Nat} {v : Word} {s : State} (hs : Mem s) : MemO (execPrecLayerWrite who part layer v s) := by
  unfold execPrecLayerWrite; try dsimp only
  repeat' with_reducible
    first
    | assumption | intro _ | apply MemO.next | apply MemE.ok | apply State.slotWrite_wf | apply State.squashLayer_wf
    | apply State.keepLive_wf | apply State.setReg_wf

theorem execShapeRegWrite_wf {who : Requester} {ring k : Nat} {v : Word} {s : State} (hs : Mem s) : MemO (execShapeRegWrite who ring k v s) := by
  unfold execShapeRegWrite; try dsimp only
  repeat' with_reducible
    first
    | assumption | intro _ | apply MemO.next | apply MemE.ok | apply State.slotWrite_wf | apply State.setReg_wf

theorem execBucketEdgeWrite_wf {who : Requester} {part k : Nat} {v : Word} {s : State} (hs : Mem s) : MemO (execBucketEdgeWrite who part k v s) := by
  unfold execBucketEdgeWrite; try dsimp only
  repeat' with_reducible
    first
    | assumption | intro _ | apply MemO.next | apply State.slotWrite_wf | apply State.setReg_wf | apply orRefuse_wf

theorem execRopeSetWrite_wf {who : Requester} {part sub : Nat} {v : Word} {s : State} (hs : Mem s) : MemO (execRopeSetWrite who part sub v s) := by
  unfold execRopeSetWrite; try dsimp only
  repeat' with_reducible
    first
    | assumption | intro _ | apply MemO.next | apply MemE.ok | apply State.slotWrite_wf | apply State.setReg_wf

theorem execResidueInjectWrite_wf {who : Requester} {core : Nat} {v : Word} {s : State} (hs : Mem s) : MemO (execResidueInjectWrite who core v s) := by
  unfold execResidueInjectWrite; try dsimp only
  repeat' with_reducible
    first
    | assumption | intro _ | apply MemO.next | apply MemE.ok | apply Mem.ite | apply State.slotWrite_wf
    | apply State.setReg_wf

theorem State.countScores_wf {s : State} {d : Desc} {vs : List Fv} {cs : List (Nat × Bool)} (hs : Mem s) : Mem (State.countScores s d vs cs) := by
  unfold State.countScores; try dsimp only
  repeat' with_reducible
    first
    | assumption | apply Mem.ite | apply State.add_wf | apply State.bump_wf | apply State.flagDesc_wf

theorem State.scoreRow_wf {s : State} {d : Desc} {c : Nat} {t : Tile} {r : Nat} {accs : List (Int × Nat)} (hs : Mem s) : Mem (State.scoreRow s d c t r accs).2 := by
  unfold State.scoreRow; try dsimp only
  repeat' with_reducible
    first
    | assumption | apply State.endDesc_wf | apply State.drawN_wf | apply State.countScores_wf
    | apply State.issueCodes_wf | split

theorem eachRow_wf {n : Nat} {s : State} {f : State → Nat → Bool × State} (hs : Mem s) (hf : ∀ x0 x1, Mem x0 → Mem (f x0 x1).2) : Mem (eachRow n s f).2 := by
  unfold eachRow; try dsimp only
  repeat' with_reducible
    first
    | assumption | intro _ | apply Mem.dite2 | apply Mem.foldl2 | apply hf

theorem State.runScore_wf {s : State} {d : Desc} {c : Nat} {o : RunObs} (hs : Mem s) : Mem (State.runScore s d c o) := by
  unfold State.runScore; try dsimp only
  repeat' with_reducible
    first
    | assumption | intro _ | apply State.runPasses_wf | apply eachRow_wf | apply State.scoreRow_wf | split

theorem State.writePTag_wf {s : State} {d : Desc} (hs : Mem s) : Mem (State.writePTag s d).2 := by
  unfold State.writePTag; try dsimp only
  repeat' with_reducible
    first
    | assumption | apply Mem.dite2 | apply State.endDesc_wf | apply State.takeFree_wf | apply State.issue_wf | split

theorem State.pCodes_wf {s : State} {d : Desc} {c : Nat} {t : Tile} {e : Int} {col0 : Nat} {scores : List (Option Dy)} {m lam : Nat} (hs : Mem s) : Mem (State.pCodes s d c t e col0 scores m lam).2 := by
  unfold State.pCodes; try dsimp only
  repeat' with_reducible
    first
    | assumption | apply Mem.dite2 | apply State.drawN_wf

theorem State.normRow_wf {s : State} {d : Desc} {c : Nat} {t : Tile} {e : Int} {r : Nat} (hs : Mem s) : Mem (State.normRow s d c t e r).2 := by
  unfold State.normRow; try dsimp only
  repeat' with_reducible
    first
    | assumption | apply Mem.ite | apply State.fetch_wf | apply State.bump_wf | apply State.wrapAdd_wf
    | apply State.issue_wf | apply State.pCodes_wf | apply State.issueCodes_wf | apply State.endDesc_wf
    | simp only [Mem.irrel_eq] | refine Mem.snd (by assumption) ?_ | split

theorem State.gradRow_wf {s : State} {d : Desc} {c : Nat} {t : Tile} {r : Nat} (hs : Mem s) : Mem (State.gradRow s d c t r).2 := by
  unfold State.gradRow; try dsimp only
  repeat' with_reducible
    first
    | assumption | apply Mem.ite | apply State.fetch_wf | apply State.drawN_wf | apply State.bump_wf
    | apply State.flagDesc_wf | apply State.wrapAdd_wf | apply State.issue_wf | apply State.endDesc_wf
    | simp only [Mem.irrel_eq] | refine Mem.snd (by assumption) ?_ | split

theorem State.runNorm_wf {s : State} {d : Desc} {c : Nat} (hs : Mem s) : Mem (State.runNorm s d c) := by
  unfold State.runNorm; try dsimp only
  repeat' with_reducible
    first
    | assumption | intro _ | apply Mem.ite | apply Mem.dite2 | apply State.loadSeeds_wf | apply State.spend_wf
    | apply State.writePTag_wf | apply eachRow_wf | apply State.gradRow_wf | apply State.normRow_wf
    | apply State.closeTile_wf | split

theorem State.recomputeRow_wf {s : State} {d : Desc} {c : Nat} {t : Tile} {e : Int} {r : Nat} {accs : List (Int × Nat)} (hs : Mem s) : Mem (State.recomputeRow s d c t e r accs).2 := by
  unfold State.recomputeRow; try dsimp only
  repeat' with_reducible
    first
    | assumption | apply State.fetch_wf | apply State.countScores_wf | apply State.add_wf | apply State.pCodes_wf
    | apply State.issueCodes_wf | apply State.endDesc_wf | simp only [Mem.irrel_eq]
    | refine Mem.snd (by assumption) ?_ | split

theorem State.runRecompute_wf {s : State} {d : Desc} {c : Nat} {o : RunObs} (hs : Mem s) : Mem (State.runRecompute s d c o) := by
  unfold State.runRecompute; try dsimp only
  repeat' with_reducible
    first
    | assumption | intro _ | apply Mem.dite2 | apply State.runPasses_wf | apply State.writePTag_wf | apply eachRow_wf
    | apply State.recomputeRow_wf | split

theorem State.postRequest_wf {s : State} {p seq j table units reason : Nat} (hs : Mem s) : Mem (State.postRequest s p seq j table units reason) := by
  unfold State.postRequest; try dsimp only
  repeat' with_reducible
    first
    | assumption | apply Mem.ite | apply State.bump_wf | apply State.vaWrite_wf | apply State.wrapAdd_wf
    | apply State.setEntry_wf | apply State.msix_wf

theorem State.walkDone_wf {s : State} {d : Desc} {l : List (Nat × ElemWalk)} {go : State → Desc → State} (hs : Mem s) (hgo : ∀ x0 x1, Mem x0 → Mem (go x0 x1)) : Mem (State.walkDone s d l go) := by
  unfold State.walkDone; try dsimp only
  repeat' with_reducible
    first
    | assumption | intro _ | apply Mem.ite | apply Mem.foldl | apply State.postRequest_wf | apply State.unmapped_wf
    | apply State.endDesc_wf | apply State.modDesc_wf | apply hgo | split

theorem State.walkThrough_wf {s : State} {d : Desc} {l : List (Nat × ElemWalk)} (hs : Mem s) : Mem (State.walkThrough s d l).2 := by
  unfold State.walkThrough; try dsimp only
  repeat' with_reducible
    first
    | assumption | intro _ | apply Mem.foldl2 | apply State.mscTouch_wf | apply State.lineBad_wf | split

theorem State.readSeqs_wf {s : State} {d : Desc} {n : Nat} (hs : Mem s) : Mem (State.readSeqs s d n).2 := by
  unfold State.readSeqs; try dsimp only
  repeat' with_reducible
    first
    | assumption | apply State.readVec_wf

theorem State.landWalk_wf {s : State} {d : Desc} {cc : Nat} (hs : Mem s) : Mem (State.landWalk s d cc) := by
  unfold State.landWalk; try dsimp only
  repeat' with_reducible
    first
    | assumption | intro _ | apply Mem.ite | apply onGot_wf | apply State.spend_wf | apply State.readSeqs_wf
    | apply State.takeFree_wf | apply State.walkThrough_wf | apply State.walkDone_wf | apply State.stage3_wf
    | apply State.endDesc_wf | apply State.untear_wf | refine Mem.snd (by assumption) ?_ | split

theorem State.landRelease_wf {s : State} {d : Desc} (hs : Mem s) : Mem (State.landRelease s d) := by
  unfold State.landRelease; try dsimp only
  repeat' with_reducible
    first
    | assumption | intro _ | apply Mem.ite | apply onGot_wf | apply State.readSeqs_wf | apply State.takeFree_wf
    | apply State.walkThrough_wf | apply State.walkDone_wf | apply State.endDesc_wf | apply State.untear_wf
    | refine Mem.snd (by assumption) ?_ | split

theorem State.dropPage_wf {s : State} {p : Nat} {f : KvFrame} (hs : Mem s) : Mem (State.dropPage s p f) := by
  unfold State.dropPage; try dsimp only
  repeat' with_reducible
    first
    | assumption | apply State.setEntry_wf | apply State.returnFrame_wf | apply State.wrapAdd_wf

theorem State.makeRoom_wf {s : State} {p n fuel : Nat} (hs : Mem s) : Mem (State.makeRoom s p n fuel).2 := by
  induction fuel generalizing s with
  | zero => exact hs
  | succ fuel ih =>
    unfold State.makeRoom; try dsimp only
    repeat' with_reducible
      first
      | assumption | apply Mem.ite | apply Mem.dite2 | apply ih | apply State.dropPage_wf | simp only [Mem.irrel_eq]
      | refine Mem.snd (by assumption) ?_ | refine Mem.snd3 (by assumption) ?_ | split

theorem State.allocate_wf {s : State} {p seq j table units : Nat} (hs : Mem s) : Mem (State.allocate s p seq j table units).2.2 := by
  unfold State.allocate; try dsimp only
  repeat' with_reducible
    first
    | assumption | apply State.makeRoom_wf | apply State.takeFree_wf | apply State.vaWrite_wf | apply State.vaFree_wf
    | apply State.setEntry_wf | apply State.setPool_wf | apply State.setNat_wf | split

theorem State.allocateAll_wf {s : State} {d : Desc} (hs : Mem s) : Mem (State.allocateAll s d) := by
  unfold State.allocateAll; try dsimp only
  repeat' with_reducible
    first
    | assumption | intro _ | apply Mem.ite | apply Mem.foldl | apply State.modDesc_wf | apply State.endDesc_wf
    | apply State.allocate_wf | apply State.setEntry_wf | apply State.bump_wf | apply State.postRequest_wf
    | refine Mem.snd3 (by assumption) ?_ | split

theorem State.fixScales_wf {s : State} {d : Desc} (hs : Mem s) : Mem (State.fixScales s d) := by
  unfold State.fixScales; try dsimp only
  repeat' with_reducible
    first
    | assumption | intro _ | apply Mem.dite2 | apply Mem.foldl2 | apply State.vaWrite_wf | apply State.modDesc_wf

theorem State.appendRow_wf {s : State} {d : Desc} {c : Nat} {t : Tile} {part r : Nat} {row : List (Nat × Fv)} (hs : Mem s) : Mem (State.appendRow s d c t part r row).2 := by
  unfold State.appendRow; try dsimp only
  repeat' with_reducible
    first
    | assumption | intro _ | apply Mem.ite | apply Mem.dite2 | apply Mem.foldl2 | apply State.drawN_wf
    | apply State.bump_wf | apply State.wrapAdd_wf | apply State.flagDesc_wf | apply State.issue_wf | split

theorem State.appendRows_wf {s : State} {d : Desc} {t : Tile} {part : Nat} (hs : Mem s) : Mem (State.appendRows s d t part).2 := by
  unfold State.appendRows; try dsimp only
  repeat' with_reducible
    first
    | assumption | intro _ | apply Mem.foldl2 | apply State.endDesc_wf | apply State.fetch_wf
    | simp only [Mem.irrel_eq] | refine Mem.snd (by assumption) ?_ | split

theorem State.raiseFills_wf {s : State} {d : Desc} (hs : Mem s) : Mem (State.raiseFills s d) := by
  unfold State.raiseFills; try dsimp only
  repeat' with_reducible
    first
    | assumption | intro _ | apply Mem.ite | apply Mem.foldl | apply State.setEntry_wf | apply State.modFrame_wf
    | apply State.vaWrite_wf

theorem State.appendStart_wf {s : State} {d : Desc} (hs : Mem s) : Mem (State.appendStart s d) := by
  unfold State.appendStart; try dsimp only
  repeat' with_reducible
    first
    | assumption | apply Mem.ite | apply State.allocateAll_wf | apply State.modDesc_wf

theorem State.startTile_wf {s : State} {d : Desc} {c cc : Nat} (hs : Mem s) : Mem (State.startTile s d c cc) := by
  unfold State.startTile; try dsimp only
  repeat' with_reducible
    first
    | assumption | apply Mem.ite | apply State.appendStart_wf | apply State.nextTile_wf | split

theorem State.appendScales_wf {s : State} {d : Desc} {c : Nat} (hs : Mem s) : Mem (State.appendScales s d c) := by
  unfold State.appendScales; try dsimp only
  repeat' with_reducible
    first
    | assumption | apply Mem.ite | apply State.loadSeeds_wf | apply State.fixScales_wf | split

theorem State.appendPart_wf {s : State} {d : Desc} {c : Nat} {t : Tile} {part : Nat} (hs : Mem s) : Mem (State.appendPart s d c t part).2 := by
  unfold State.appendPart; try dsimp only
  repeat' with_reducible
    first
    | assumption | intro _ | apply Mem.dite2 | apply Mem.foldl2 | apply State.appendRows_wf | apply State.appendRow_wf
    | simp only [Mem.irrel_eq] | refine Mem.snd (by assumption) ?_ | split

theorem State.runAppend_wf {s : State} {d : Desc} {c : Nat} (hs : Mem s) : Mem (State.runAppend s d c) := by
  unfold State.runAppend; try dsimp only
  repeat' with_reducible
    first
    | assumption | apply Mem.ite | apply Mem.dite2 | apply State.appendScales_wf | apply State.appendPart_wf
    | apply State.raiseFills_wf | apply State.spend_wf | apply State.closeTile_wf | split

theorem State.releaseSeq_wf {s : State} {p table : Nat} (hs : Mem s) : Mem (State.releaseSeq s p table) := by
  unfold State.releaseSeq; try dsimp only
  repeat' with_reducible
    first
    | assumption | intro _ | apply Mem.ite | apply Mem.foldl | apply State.setEntry_wf | apply State.modFrame_wf
    | apply State.vaWrite_wf | split

theorem execKvRelease_wf {id : Nat} {s : State} (hs : Mem s) : MemO (execKvRelease id s) := by
  unfold execKvRelease; try dsimp only
  repeat' with_reducible
    first
    | assumption | intro _ | apply MemO.next | apply Mem.ite | apply Mem.foldl | apply State.runOff_wf
    | apply State.releaseSeq_wf | apply State.endDesc_wf

theorem State.queuePage_wf {s : State} {p st : Nat} {f : KvFrame} {job : Option Nat} (hs : Mem s) : Mem (State.queuePage s p st f job) := by
  unfold State.queuePage; try dsimp only
  repeat' with_reducible
    first
    | assumption | apply State.setEntry_wf | apply State.modFrame_wf | apply State.setStream_wf

theorem State.sealPage_wf {s : State} {p : Nat} {f : KvFrame} (hs : Mem s) : Mem (State.sealPage s p f) := by
  unfold State.sealPage; try dsimp only
  repeat' with_reducible
    first
    | assumption | apply Mem.ite | apply State.setEntry_wf | apply State.modFrame_wf | apply State.queuePage_wf
    | apply State.bump_wf

theorem State.sealPages_wf {s : State} (hs : Mem s) : Mem (State.sealPages s) := by
  unfold State.sealPages; try dsimp only
  repeat' with_reducible
    first
    | assumption | intro _ | apply Mem.foldl | apply State.sealPage_wf

theorem execPageExport_wf {id : Nat} {s : State} (hs : Mem s) : MemO (execPageExport id s) := by
  unfold execPageExport; try dsimp only
  repeat' with_reducible
    first
    | assumption | intro _ | apply MemO.next | apply Mem.ite | apply Mem.foldl | apply State.runOff_wf
    | apply State.endAtCommit_wf | apply State.mscReads_wf | apply State.bump_wf | apply State.addJob_wf
    | apply State.modJob_wf | apply State.queuePage_wf | apply State.endJob_wf | split

theorem execKvPoolConfigWrite_wf {who : Requester} {part sub : Nat} {v : Word} {s : State} (hs : Mem s) : MemO (execKvPoolConfigWrite who part sub v s) := by
  unfold execKvPoolConfigWrite; try dsimp only
  repeat' with_reducible
    first
    | assumption | intro _ | apply MemO.next | apply State.slotWrite_wf | apply State.setReg_wf | apply orRefuse_wf
    | apply State.emptyPool_wf

theorem execPoolEmptied_wf {part : Nat} {s : State} (hs : Mem s) : MemO (execPoolEmptied part s) := by
  unfold execPoolEmptied; try dsimp only
  repeat' with_reducible
    first
    | assumption | apply MemO.next | apply State.poolEmptied_wf

theorem execRecompConsWrite_wf {who : Requester} {part : Nat} {v : Word} {s : State} (hs : Mem s) : MemO (execRecompConsWrite who part v s) := by
  unfold execRecompConsWrite; try dsimp only
  repeat' with_reducible
    first
    | assumption | intro _ | apply MemO.next | apply State.slotWrite_wf | apply orRefuse_wf | apply State.setReg_wf

theorem execDescriptorComplete_wf {id : Nat} {s : State} (hs : Mem s) : MemO (execDescriptorComplete id s) := by
  unfold execDescriptorComplete; try dsimp only
  repeat' with_reducible
    first
    | assumption | apply MemO.next | apply State.completeDesc_wf

theorem State.undefineRow_wf {s : State} {p : Nat} {a : Addr} {n : Nat} (hs : Mem s) : Mem (State.undefineRow s p a n) := by
  unfold State.undefineRow; try dsimp only
  repeat' with_reducible
    first
    | assumption | apply Mem.ite | apply State.storeWrite_wf | apply State.vaWrite_wf | simp only [Mem.irrel_eq]
    | split

theorem State.undefineAll_wf {s : State} {p : Nat} {l : List (Addr × Nat)} (hs : Mem s) : Mem (State.undefineAll s p l) := by
  unfold State.undefineAll; try dsimp only
  repeat' with_reducible
    first
    | assumption | intro _ | apply Mem.foldl | apply State.undefineRow_wf

theorem State.undefineAcc_wf {s : State} {d : Desc} (hs : Mem s) : Mem (State.undefineAcc s d) := by
  unfold State.undefineAcc; try dsimp only
  repeat' with_reducible
    first
    | assumption | intro _ | apply Mem.ite | apply Mem.foldl | apply State.accPut_wf | simp only [Mem.irrel_eq]
    | split

theorem State.tear_wf {s : State} {id : Nat} (hs : Mem s) : Mem (State.tear s id) := by
  unfold State.tear; try dsimp only
  repeat' with_reducible
    first
    | assumption | apply State.undefineAcc_wf | apply State.undefineAll_wf | split

theorem State.tearTorn_wf {s : State} {id : Nat} (hs : Mem s) : Mem (State.tearTorn s id) := by
  unfold State.tearTorn; try dsimp only
  repeat' with_reducible
    first
    | assumption | apply Mem.ite | apply State.tear_wf | apply State.modDesc_wf | split

theorem execFill_wf {id : Nat} {o : RunObs} {s : State} (hs : Mem s) : MemO (execFill id o s) := by
  unfold execFill; try dsimp only
  repeat' with_reducible
    first
    | assumption | intro _ | apply MemO.next | apply State.runOn_wf | apply State.runFill_wf | apply State.tearTorn_wf

theorem execCopy_wf {id : Nat} {o : RunObs} {s : State} (hs : Mem s) : MemO (execCopy id o s) := by
  unfold execCopy; try dsimp only
  repeat' with_reducible
    first
    | assumption | intro _ | apply MemO.next | apply State.runOn_wf | apply State.runCopy_wf | apply State.tearTorn_wf

theorem execTransfer_wf {id : Nat} {o : RunObs} {s : State} (hs : Mem s) : MemO (execTransfer id o s) := by
  unfold execTransfer; try dsimp only
  repeat' with_reducible
    first
    | assumption | intro _ | apply MemO.next | apply State.runOn_wf | apply State.runTransfer_wf
    | apply State.tearTorn_wf

theorem execBoundsLanded_wf {id : Nat} {o : RunObs} {s : State} (hs : Mem s) : MemO (execBoundsLanded id o s) := by
  unfold execBoundsLanded; try dsimp only
  repeat' with_reducible
    first
    | assumption | intro _ | apply MemO.next | apply State.runWhen_wf | apply State.landBounds_wf
    | apply State.untear_wf

theorem execTileStart_wf {o : TileObs} {s : State} (hs : Mem s) : MemO (execTileStart o s) := by
  unfold execTileStart; try dsimp only
  repeat' with_reducible
    first
    | assumption | intro _ | apply MemO.next | apply State.runWhen_wf | apply State.startTile_wf
    | apply State.tearTorn_wf

theorem execOperandFetchLanded_wf {id : Nat} {o : RunObs} {s : State} (hs : Mem s) : MemO (execOperandFetchLanded id o s) := by
  unfold execOperandFetchLanded; try dsimp only
  repeat' with_reducible
    first
    | assumption | intro _ | apply MemO.next | apply Mem.ite | apply State.runWhen_wf | apply State.prefetch_wf
    | apply State.spend_wf | apply State.wrapAdd_wf | apply State.landTile_wf | apply State.tearTorn_wf | split

theorem execMatmul_wf {id : Nat} {o : RunObs} {s : State} (hs : Mem s) : MemO (execMatmul id o s) := by
  unfold execMatmul; try dsimp only
  repeat' with_reducible
    first
    | assumption | intro _ | apply MemO.next | apply State.runWhen_wf | apply State.runDrain_wf
    | apply State.tearTorn_wf

theorem execQuantise_wf {id : Nat} {o : RunObs} {s : State} (hs : Mem s) : MemO (execQuantise id o s) := by
  unfold execQuantise; try dsimp only
  repeat' with_reducible
    first
    | assumption | intro _ | apply MemO.next | apply State.runWhen_wf | apply State.runQuantise_wf
    | apply State.tearTorn_wf

theorem execReduce_wf {id : Nat} {o : RunObs} {s : State} (hs : Mem s) : MemO (execReduce id o s) := by
  unfold execReduce; try dsimp only
  repeat' with_reducible
    first
    | assumption | intro _ | apply MemO.next | apply State.runOn_wf | apply State.runReduce_wf
    | apply State.tearTorn_wf

theorem execBucketForm_wf {id : Nat} {o : RunObs} {s : State} (hs : Mem s) : MemO (execBucketForm id o s) := by
  unfold execBucketForm; try dsimp only
  repeat' with_reducible
    first
    | assumption | intro _ | apply MemO.next | apply State.runOn_wf | apply State.runBucketForm_wf
    | apply State.tearTorn_wf

theorem execAttnScore_wf {id : Nat} {o : RunObs} {s : State} (hs : Mem s) : MemO (execAttnScore id o s) := by
  unfold execAttnScore; try dsimp only
  repeat' with_reducible
    first
    | assumption | intro _ | apply MemO.next | apply State.runWhen_wf | apply State.runScore_wf
    | apply State.tearTorn_wf

theorem execAttnNorm_wf {id : Nat} {o : RunObs} {s : State} (hs : Mem s) : MemO (execAttnNorm id o s) := by
  unfold execAttnNorm; try dsimp only
  repeat' with_reducible
    first
    | assumption | intro _ | apply MemO.next | apply State.runWhen_wf | apply State.runNorm_wf
    | apply State.tearTorn_wf

theorem execAttnScoreRecompute_wf {id : Nat} {o : RunObs} {s : State} (hs : Mem s) : MemO (execAttnScoreRecompute id o s) := by
  unfold execAttnScoreRecompute; try dsimp only
  repeat' with_reducible
    first
    | assumption | intro _ | apply MemO.next | apply State.runWhen_wf | apply State.runRecompute_wf
    | apply State.tearTorn_wf

theorem execAttnPv_wf {id : Nat} {o : RunObs} {s : State} (hs : Mem s) : MemO (execAttnPv id o s) := by
  unfold execAttnPv; try dsimp only
  repeat' with_reducible
    first
    | assumption | intro _ | apply MemO.next | apply State.runWhen_wf | apply State.runDrain_wf
    | apply State.tearTorn_wf

theorem execWalkLanded_wf {id : Nat} {o : RunObs} {s : State} (hs : Mem s) : MemO (execWalkLanded id o s) := by
  unfold execWalkLanded; try dsimp only
  repeat' with_reducible
    first
    | assumption | intro _ | apply MemO.next | apply MemO.ite | apply Mem.ite | apply State.observe_wf
    | apply State.endDesc_wf | apply State.landRelease_wf | apply State.runWhen_wf | apply State.landWalk_wf
    | apply State.untear_wf | simp only [Mem.irrel_eq] | split

theorem execKvAppend_wf {id : Nat} {o : RunObs} {s : State} (hs : Mem s) : MemO (execKvAppend id o s) := by
  unfold execKvAppend; try dsimp only
  repeat' with_reducible
    first
    | assumption | intro _ | apply MemO.next | apply State.runWhen_wf | apply State.runAppend_wf
    | apply State.tearTorn_wf

theorem execAbortStop_wf {id : Nat} {s : State} (hs : Mem s) : MemO (execAbortStop id s) := by
  unfold execAbortStop; try dsimp only
  repeat' with_reducible
    first
    | assumption | apply MemO.next | apply MemO.ite | apply State.abortDrop_wf | apply State.cutTile_wf
    | apply State.endDesc_wf | apply State.tear_wf | apply State.breakFence_wf | split

end Sys2Proof.Machine
end

