-- ==== Sys2Proof/Laws/MemoryLinks.lean ====
section
/-!
SUPPORT. Laws/MemoryLinks.lean: every operation keeps the canonical form of every memory: collectives, links, commits and frames.
-/
set_option linter.all false
namespace Sys2Proof.Machine
open Sys2Proof

theorem State.modRun_wf {s : State} {g : Nat} {f : CollRun → CollRun} (hs : Mem s) : Mem (State.modRun s g f) := by
  unfold State.modRun; try dsimp only
  repeat' with_reducible
    first
    | assumption | apply State.setColl_wf | split

theorem State.collRead_wf {s : State} {d : Desc} {field off n : Nat} (hs : Mem s) : Mem (State.collRead s d field off n).2 := by
  unfold State.collRead; try dsimp only
  repeat' with_reducible
    first
    | assumption | apply State.fetch_wf | split

theorem State.collWrite_wf {s : State} {d : Desc} {field off : Nat} {l : List Byte} (hs : Mem s) : Mem (State.collWrite s d field off l).2 := by
  unfold State.collWrite; try dsimp only
  repeat' with_reducible
    first
    | assumption | apply State.issue_wf | split

theorem State.collTry_wf {s : State} {g : Nat} {d : Desc} {f : State → Bool × State} (hs : Mem s) (hf : ∀ x0, Mem x0 → Mem (f x0).2) : Mem (State.collTry s g d f) := by
  unfold State.collTry; try dsimp only
  repeat' with_reducible
    first
    | assumption | apply Mem.ite | apply State.waits_wf | apply State.collFail_wf | apply hf
    | simp only [Mem.irrel_eq]

theorem State.stageOut_wf {s : State} {r : CollRun} {d : Desc} {m : Members} {st : Stage} (hs : Mem s) : Mem (State.stageOut s r d m st).2 := by
  unfold State.stageOut; try dsimp only
  repeat' with_reducible
    first
    | assumption | intro _ | apply Mem.dite2 | apply Mem.foldl2 | apply State.collRead_wf | simp only [Mem.irrel_eq]
    | refine Mem.snd (by assumption) ?_ | split

theorem State.xSend_wf {s : State} {g : Nat} {r : CollRun} {d : Desc} (hs : Mem s) : Mem (State.xSend s g r d) := by
  unfold State.xSend; try dsimp only
  repeat' with_reducible
    first
    | assumption | apply Mem.ite | apply State.queueRec_wf

theorem State.startStage_wf {s : State} {g stage begin_ : Nat} (hs : Mem s) : Mem (State.startStage s g stage begin_).2 := by
  unfold State.startStage; try dsimp only
  repeat' with_reducible
    first
    | assumption | apply Mem.ite | apply State.stageOut_wf | apply State.modRun_wf | apply State.xSend_wf
    | simp only [Mem.irrel_eq] | refine Mem.snd (by assumption) ?_ | split

theorem State.stageCheck_wf {s : State} {g : Nat} (hs : Mem s) : Mem (State.stageCheck s g) := by
  unfold State.stageCheck; try dsimp only
  repeat' with_reducible
    first
    | assumption | apply Mem.ite | apply State.modRun_wf | split

theorem State.landCell_wf {s : State} {g : Nat} {r : CollRun} {d : Desc} {st : Stage} {rel port k : Nat} {l : List Byte} (hs : Mem s) : Mem (State.landCell s g r d st rel port k l).2 := by
  unfold State.landCell; try dsimp only
  repeat' with_reducible
    first
    | assumption | apply Mem.ite | apply Mem.dite2 | apply State.modRun_wf | apply State.collWrite_wf
    | apply State.takeFree_wf

theorem State.collStray_wf {s : State} {g : Nat} {x : CollCell} (hs : Mem s) : Mem (State.collStray s g x) := by
  unfold State.collStray; try dsimp only
  repeat' with_reducible
    first
    | assumption | apply State.bump_wf | split

theorem State.collCell_wf {s : State} {g port : Nat} {x : CollCell} (hs : Mem s) : Mem (State.collCell s g port x) := by
  unfold State.collCell; try dsimp only
  repeat' with_reducible
    first
    | assumption | intro _ | apply Mem.ite | apply State.setColl_wf | apply State.collStray_wf
    | apply State.collFail_wf | apply State.collTry_wf | apply State.landCell_wf | apply State.modRun_wf
    | apply State.stageCheck_wf | split

theorem State.feedEarly_wf {s : State} {g : Nat} (hs : Mem s) : Mem (State.feedEarly s g) := by
  unfold State.feedEarly; try dsimp only
  repeat' with_reducible
    first
    | assumption | intro _ | apply Mem.foldl | apply State.collCell_wf | apply State.setColl_wf

theorem State.startColl_wf {s : State} {op id : Nat} (hs : Mem s) : Mem (State.startColl s op id) := by
  unfold State.startColl; try dsimp only
  repeat' with_reducible
    first
    | assumption | intro _ | apply Mem.ite | apply Mem.dite2 | apply State.collTry_wf | apply State.collRead_wf
    | apply State.setNat_wf | apply State.setColl_wf | apply State.collWrite_wf | apply State.startStage_wf
    | apply State.feedEarly_wf | simp only [Mem.irrel_eq] | refine Mem.snd (by assumption) ?_ | split

theorem State.exchangeFrame_wf {s : State} {g : Nat} (hs : Mem s) : Mem (State.exchangeFrame s g) := by
  unfold State.exchangeFrame; try dsimp only
  repeat' with_reducible
    first
    | assumption | intro _ | apply Mem.ite | apply Mem.foldl | apply State.collFail_wf | apply State.setPort_wf
    | apply State.modRun_wf | split

theorem State.rsBlocks_wf {s : State} {r : CollRun} {d : Desc} {st : Stage} (hs : Mem s) : Mem (State.rsBlocks s r d st).2 := by
  unfold State.rsBlocks; try dsimp only
  repeat' with_reducible
    first
    | assumption | intro _ | apply Mem.dite2 | apply Mem.foldl2 | apply State.collRead_wf | simp only [Mem.irrel_eq]
    | refine Mem.snd (by assumption) ?_ | split

theorem State.reduceTagged_wf {s : State} {l : List (Nat × List Byte)} (hs : Mem s) : Mem (State.reduceTagged s l).2 := by
  unfold State.reduceTagged; try dsimp only
  repeat' with_reducible
    first
    | assumption | apply Mem.dite2 | simp only [Mem.irrel_eq] | split

theorem State.settleRs_wf {s : State} {g : Nat} {r : CollRun} {d : Desc} {st : Stage} (hs : Mem s) : Mem (State.settleRs s g r d st).2 := by
  unfold State.settleRs; try dsimp only
  repeat' with_reducible
    first
    | assumption | apply Mem.ite | apply Mem.dite2 | apply State.rsBlocks_wf | apply State.reduceTagged_wf
    | apply State.endDesc_wf | apply State.bump_wf | apply State.modRun_wf | apply State.collWrite_wf
    | simp only [Mem.irrel_eq] | refine Mem.snd (by assumption) ?_ | split

theorem State.nextStage_wf {s : State} {g lastFrame : Nat} (hs : Mem s) : Mem (State.nextStage s g lastFrame).2 := by
  unfold State.nextStage; try dsimp only
  repeat' with_reducible
    first
    | assumption | apply Mem.dite2 | apply State.startStage_wf | apply State.feedEarly_wf | apply State.modRun_wf
    | simp only [Mem.irrel_eq] | refine Mem.snd (by assumption) ?_ | split

theorem State.stageSettle_wf {s : State} {g : Nat} (hs : Mem s) : Mem (State.stageSettle s g) := by
  unfold State.stageSettle; try dsimp only
  repeat' with_reducible
    first
    | assumption | intro _ | apply Mem.ite | apply Mem.dite2 | apply State.collTry_wf | apply State.settleRs_wf
    | apply State.nextStage_wf | split

theorem State.collOk_wf {s : State} {g id late : Nat} {sat : Bool} (hs : Mem s) : Mem (State.collOk s g id late sat) := by
  unfold State.collOk; try dsimp only
  repeat' with_reducible
    first
    | assumption | apply Mem.ite | apply State.flagDesc_wf | apply State.bump_wf | apply State.endDesc_wf

theorem State.collectiveComplete_wf {s : State} {g : Nat} (hs : Mem s) : Mem (State.collectiveComplete s g) := by
  unfold State.collectiveComplete; try dsimp only
  repeat' with_reducible
    first
    | assumption | intro _ | apply Mem.ite | apply Mem.foldl | apply State.collOk_wf | apply State.wrapAdd_wf
    | apply State.collLeave_wf | split

theorem State.countSlack_wf {s : State} (hs : Mem s) : Mem (State.countSlack s) := by
  unfold State.countSlack; try dsimp only
  repeat' with_reducible
    first
    | assumption | intro _ | apply Mem.ite | apply Mem.foldl | apply State.modRun_wf | apply State.setColl_wf | split

theorem State.slackExpiry_wf {s : State} {g : Nat} (hs : Mem s) : Mem (State.slackExpiry s g) := by
  unfold State.slackExpiry; try dsimp only
  repeat' with_reducible
    first
    | assumption | intro _ | apply Mem.ite | apply Mem.foldl | apply State.collFail_wf | split

theorem State.xAdvance_wf {n : Nat} {s : State} {g : Nat} (hs : Mem s) : Mem (State.xAdvance n s g) := by
  induction n generalizing s with
  | zero => exact hs
  | succ n ih =>
    unfold State.xAdvance; try dsimp only
    repeat' with_reducible
      first
      | assumption | intro _ | apply Mem.ite | apply ih | apply State.setColl_wf | apply State.setNat_wf
      | apply State.modRun_wf | apply State.xSend_wf | simp only [Mem.irrel_eq] | split

theorem State.xLands_wf {s : State} {w endOff : Nat} {l : List Byte} (hs : Mem s) : Mem (State.xLands s w endOff l) := by
  unfold State.xLands; try dsimp only
  repeat' with_reducible
    first
    | assumption | apply Mem.ite | apply State.setColl_wf | apply State.xAdvance_wf

theorem State.xwaitExpiry_wf {s : State} {g : Nat} (hs : Mem s) : Mem (State.xwaitExpiry s g) := by
  unfold State.xwaitExpiry; try dsimp only
  repeat' with_reducible
    first
    | assumption | intro _ | apply Mem.ite | apply State.bump_wf | apply State.collFail_wf | apply State.collTry_wf
    | apply State.collWrite_wf | apply State.nextStage_wf | simp only [Mem.irrel_eq]
    | refine Mem.snd (by assumption) ?_ | split

theorem writeGroupDef_wf {g : Nat} {v : Word} {s : State} {u3 : EntLoc} (hs : Mem s) : MemE (writeGroupDef g v s u3) := by
  unfold writeGroupDef; try dsimp only
  repeat' with_reducible
    first
    | assumption | apply MemE.orRefuse | apply State.setReg_wf

theorem writePlane_wf {sub : Nat} {v : Word} {s : State} {u3 : EntLoc} (hs : Mem s) : MemE (writePlane sub v s u3) := by
  unfold writePlane; try dsimp only
  repeat' with_reducible
    first
    | assumption | apply MemE.orRefuse | apply State.setReg_wf

theorem execReduceScatter_wf {id : Nat} {s : State} (hs : Mem s) : MemO (execReduceScatter id s) := by
  unfold execReduceScatter; try dsimp only
  repeat' with_reducible
    first
    | assumption | apply MemO.next | apply State.startColl_wf

theorem execAllGather_wf {id : Nat} {s : State} (hs : Mem s) : MemO (execAllGather id s) := by
  unfold execAllGather; try dsimp only
  repeat' with_reducible
    first
    | assumption | apply MemO.next | apply State.startColl_wf

theorem execAllReduce_wf {id : Nat} {s : State} (hs : Mem s) : MemO (execAllReduce id s) := by
  unfold execAllReduce; try dsimp only
  repeat' with_reducible
    first
    | assumption | apply MemO.next | apply State.startColl_wf

theorem execBroadcast_wf {id : Nat} {s : State} (hs : Mem s) : MemO (execBroadcast id s) := by
  unfold execBroadcast; try dsimp only
  repeat' with_reducible
    first
    | assumption | apply MemO.next | apply State.startColl_wf

theorem execAllToAll_wf {id : Nat} {s : State} (hs : Mem s) : MemO (execAllToAll id s) := by
  unfold execAllToAll; try dsimp only
  repeat' with_reducible
    first
    | assumption | apply MemO.next | apply State.startColl_wf

theorem execExchangeFrame_wf {group : Nat} {s : State} (hs : Mem s) : MemO (execExchangeFrame group s) := by
  unfold execExchangeFrame; try dsimp only
  repeat' with_reducible
    first
    | assumption | apply MemO.next | apply State.exchangeFrame_wf | apply State.stageCheck_wf

theorem execStageSettle_wf {group : Nat} {s : State} (hs : Mem s) : MemO (execStageSettle group s) := by
  unfold execStageSettle; try dsimp only
  repeat' with_reducible
    first
    | assumption | apply MemO.next | apply State.stageSettle_wf

theorem execCollectiveComplete_wf {group : Nat} {s : State} (hs : Mem s) : MemO (execCollectiveComplete group s) := by
  unfold execCollectiveComplete; try dsimp only
  repeat' with_reducible
    first
    | assumption | apply MemO.next | apply State.collectiveComplete_wf

theorem execCollSlackExpiry_wf {group : Nat} {s : State} (hs : Mem s) : MemO (execCollSlackExpiry group s) := by
  unfold execCollSlackExpiry; try dsimp only
  repeat' with_reducible
    first
    | assumption | apply MemO.next | apply State.slackExpiry_wf

theorem execXwaitExpiry_wf {group : Nat} {s : State} (hs : Mem s) : MemO (execXwaitExpiry group s) := by
  unfold execXwaitExpiry; try dsimp only
  repeat' with_reducible
    first
    | assumption | apply MemO.next | apply State.xwaitExpiry_wf

theorem execGroupDefWrite_wf {who : Requester} {group : Nat} {v : Word} {s : State} (hs : Mem s) : MemO (execGroupDefWrite who group v s) := by
  unfold execGroupDefWrite; try dsimp only
  repeat' with_reducible
    first
    | assumption | intro _ | apply MemO.next | apply State.slotWrite_wf | apply writeGroupDef_wf

theorem execPlaneWrite_wf {who : Requester} {sub : Nat} {v : Word} {s : State} (hs : Mem s) : MemO (execPlaneWrite who sub v s) := by
  unfold execPlaneWrite; try dsimp only
  repeat' with_reducible
    first
    | assumption | intro _ | apply MemO.next | apply State.slotWrite_wf | apply writePlane_wf

theorem execRecordReceived_wf {win via start len : Nat} {s : State} (hs : Mem s) : MemO (execRecordReceived win via start len s) := by
  unfold execRecordReceived; try dsimp only
  repeat' with_reducible
    first
    | assumption | apply MemO.next | apply MemO.ite | apply State.recordLands_wf | apply State.xLands_wf

theorem State.modRhz_wf {s : State} {g id : Nat} {f : RhzRun → RhzRun} (hs : Mem s) : Mem (State.modRhz s g id f) := by
  unfold State.modRhz; try dsimp only
  repeat' with_reducible
    first
    | assumption | apply State.setColl_wf

theorem State.sendRhz_wf {s : State} {ports : List (Nat × Nat)} {c : RhzCell} (hs : Mem s) : Mem (State.sendRhz s ports c) := by
  unfold State.sendRhz; try dsimp only
  repeat' with_reducible
    first
    | assumption | intro _ | apply Mem.foldl | apply State.setPort_wf

theorem State.rhzCell_wf {s : State} {g port off : Nat} {ended : Int} {l : List Byte} (hs : Mem s) : Mem (State.rhzCell s g port off ended l) := by
  unfold State.rhzCell; try dsimp only
  repeat' with_reducible
    first
    | assumption | apply Mem.ite | apply State.modRhz_wf | apply State.setColl_wf | apply State.bump_wf | split

theorem State.rhzCellBad_wf {s : State} {g port : Nat} {seq : Option Nat} {status : Nat} (hs : Mem s) : Mem (State.rhzCellBad s g port seq status) := by
  unfold State.rhzCellBad; try dsimp only
  repeat' with_reducible
    first
    | assumption | apply Mem.ite | apply State.collFail_wf | apply State.setColl_wf | split

theorem State.feedBad_wf {s : State} {g : Nat} (hs : Mem s) : Mem (State.feedBad s g) := by
  unfold State.feedBad; try dsimp only
  repeat' with_reducible
    first
    | assumption | intro _ | apply Mem.foldl | apply State.rhzCellBad_wf | apply State.setColl_wf

theorem State.rhzResult_wf {s : State} {g : Nat} {r : RhzRun} {d : Desc} {l : List Byte} {sat : Bool} (hs : Mem s) : Mem (State.rhzResult s g r d l sat) := by
  unfold State.rhzResult; try dsimp only
  repeat' with_reducible
    first
    | assumption | intro _ | apply State.collTry_wf | apply State.collWrite_wf | apply State.modRhz_wf

theorem State.startRhz_wf {s : State} {id : Nat} (hs : Mem s) : Mem (State.startRhz s id) := by
  unfold State.startRhz; try dsimp only
  repeat' with_reducible
    first
    | assumption | intro _ | apply Mem.ite | apply Mem.dite2 | apply Mem.foldl | apply State.collFail_wf
    | apply State.collTry_wf | apply State.collRead_wf | apply State.setNat_wf | apply State.setColl_wf
    | apply State.sendRhz_wf | apply State.rhzResult_wf | apply State.rhzCell_wf | apply State.feedBad_wf
    | simp only [Mem.irrel_eq] | refine Mem.snd (by assumption) ?_ | split

theorem State.rhzFirst_wf {s : State} {g : Nat} {r : RhzRun} {d : Desc} (hs : Mem s) : Mem (State.rhzFirst s g r d) := by
  unfold State.rhzFirst; try dsimp only
  repeat' with_reducible
    first
    | assumption | apply Mem.ite | apply State.takeFree_wf | apply State.bump_wf | apply State.modRhz_wf
    | apply State.sendRhz_wf | apply State.rhzResult_wf | split

theorem State.rhzSecond_wf {s : State} {g : Nat} {r : RhzRun} {d : Desc} {held : List Byte} (hs : Mem s) : Mem (State.rhzSecond s g r d held) := by
  unfold State.rhzSecond; try dsimp only
  repeat' with_reducible
    first
    | assumption | apply State.rhzResult_wf

theorem State.rhzReduce_wf {s : State} {g : Nat} (hs : Mem s) : Mem (State.rhzReduce s g) := by
  unfold State.rhzReduce; try dsimp only
  repeat' with_reducible
    first
    | assumption | apply State.rhzFirst_wf | apply State.rhzSecond_wf | split

theorem execRhizoid_wf {id : Nat} {s : State} (hs : Mem s) : MemO (execRhizoid id s) := by
  unfold execRhizoid; try dsimp only
  repeat' with_reducible
    first
    | assumption | apply MemO.next | apply State.startRhz_wf

theorem execRhizoidStageReduced_wf {group : Nat} {s : State} (hs : Mem s) : MemO (execRhizoidStageReduced group s) := by
  unfold execRhizoidStageReduced; try dsimp only
  repeat' with_reducible
    first
    | assumption | apply MemO.next | apply State.rhzReduce_wf

theorem State.sendMarkers_wf {s : State} (hs : Mem s) : Mem (State.sendMarkers s) := by
  unfold State.sendMarkers; try dsimp only
  repeat' with_reducible
    first
    | assumption | intro _ | apply Mem.ite | apply Mem.foldl | apply State.emit_wf | apply State.wrapAdd_wf

theorem State.violation_wf {s : State} {n : Nat} (hs : Mem s) : Mem (State.violation s n) := by
  unfold State.violation; try dsimp only
  repeat' with_reducible
    first
    | assumption | apply Mem.ite | apply State.bump_wf | apply State.setNat_wf | apply State.setPort_wf
    | apply State.portEvent_wf | apply State.refreshMute_wf

theorem State.drift_wf {s : State} {n : Nat} {delta : Int} (hs : Mem s) : Mem (State.drift s n delta) := by
  unfold State.drift; try dsimp only
  repeat' with_reducible
    first
    | assumption | apply Mem.ite | apply State.setReg_wf | apply State.setNat_wf

theorem State.fecCount_wf {s : State} {n : Nat} {o : FecObs} (hs : Mem s) : Mem (State.fecCount s n o) := by
  unfold State.fecCount; try dsimp only
  repeat' with_reducible
    first
    | assumption | apply Mem.ite | apply State.wrapAdd_wf | apply State.bump_wf

theorem State.laneProposal_wf {s : State} {n req sw : Nat} (hs : Mem s) : Mem (State.laneProposal s n req sw) := by
  unfold State.laneProposal; try dsimp only
  repeat' with_reducible
    first
    | assumption | apply Mem.ite | apply State.setPort_wf

theorem State.portDown_wf {s : State} {n : Nat} (hs : Mem s) : Mem (State.portDown s n) := by
  unfold State.portDown; try dsimp only
  repeat' with_reducible
    first
    | assumption | apply State.setPort_wf | apply State.setNat_wf | apply State.refreshMute_wf

theorem State.portTrain_wf {s : State} {n : Nat} (hs : Mem s) : Mem (State.portTrain s n) := by
  unfold State.portTrain; try dsimp only
  repeat' with_reducible
    first
    | assumption | apply State.setPort_wf | apply State.setNat_wf

theorem State.portUp_wf {s : State} {n state lanes : Nat} (hs : Mem s) : Mem (State.portUp s n state lanes) := by
  unfold State.portUp; try dsimp only
  repeat' with_reducible
    first
    | assumption | apply State.setNat_wf | apply State.refreshMute_wf

theorem State.laneWork_wf {s : State} {n : Nat} (hs : Mem s) : Mem (State.laneWork s n) := by
  unfold State.laneWork; try dsimp only
  repeat' with_reducible
    first
    | assumption | apply Mem.ite | apply State.setPort_wf | apply State.takeFree_wf | apply State.setNat_wf
    | apply State.portEvent_wf

theorem State.portWindow_wf {s : State} {n : Nat} (hs : Mem s) : Mem (State.portWindow s n) := by
  unfold State.portWindow; try dsimp only
  repeat' with_reducible
    first
    | assumption | apply Mem.ite | apply State.setPort_wf | apply State.laneWork_wf

theorem State.sendCell_wf {s : State} {n typ slot cell chan offset : Nat} {last : Bool} {l : List Byte} (hs : Mem s) : Mem (State.sendCell s n typ slot cell chan offset last l) := by
  unfold State.sendCell; try dsimp only
  repeat' with_reducible
    first
    | assumption | apply State.emit_wf

theorem State.sendRun_wf {s : State} {n typ slot pos : Nat} {l : List (Nat × Nat × Bool × List Byte)} (hs : Mem s) : Mem (State.sendRun s n typ slot pos l) := by
  induction l generalizing s pos with
  | nil => exact hs
  | cons x l ih =>
    unfold State.sendRun; try dsimp only
    repeat' with_reducible
      first
      | assumption | apply ih | apply State.sendCell_wf

theorem State.sendSlot_wf {s : State} {n slot : Nat} (hs : Mem s) : Mem (State.sendSlot s n slot) := by
  unfold State.sendSlot; try dsimp only
  repeat' with_reducible
    first
    | assumption | intro _ | apply Mem.foldl | apply State.setPort_wf | apply State.sendCell_wf
    | apply State.wrapAdd_wf | apply State.sendRun_wf | apply State.stageCheck_wf | split

theorem State.slotStart_wf {s : State} {n slot : Nat} (hs : Mem s) : Mem (State.slotStart s n slot) := by
  unfold State.slotStart; try dsimp only
  repeat' with_reducible
    first
    | assumption | apply Mem.ite | apply State.setPort_wf | apply State.sendSlot_wf

theorem State.landData_wf {s : State} {w off : Nat} {l : List Byte} (hs : Mem s) : Mem (State.landData s w off l) := by
  unfold State.landData; try dsimp only
  repeat' with_reducible
    first
    | assumption | apply Mem.ite | apply State.setWin_wf | apply State.vaWrite_wf

theorem State.deliver_wf {s : State} {n typ chan off : Nat} {arrival : Int} {l : List Byte} (hs : Mem s) : Mem (State.deliver s n typ chan off arrival l) := by
  unfold State.deliver; try dsimp only
  repeat' with_reducible
    first
    | assumption | apply Mem.ite | apply State.rhzCell_wf | apply State.collCell_wf | apply State.landData_wf
    | apply State.applyAck_wf | split

theorem State.cellLost_wf {s : State} {n : Nat} {bytes : List Byte} (hs : Mem s) : Mem (State.cellLost s n bytes) := by
  unfold State.cellLost; try dsimp only
  repeat' with_reducible
    first
    | assumption | apply Mem.ite | apply State.rhzCellBad_wf | apply State.collCell_wf

theorem State.cellRefused_wf {s : State} {n typ chan off : Nat} (hs : Mem s) : Mem (State.cellRefused s n typ chan off) := by
  unfold State.cellRefused; try dsimp only
  repeat' with_reducible
    first
    | assumption | apply Mem.ite | apply State.violation_wf | apply State.rhzCellBad_wf | apply State.collCell_wf

theorem State.peerTold_wf {s : State} {n : Nat} {l : List Byte} (hs : Mem s) : Mem (State.peerTold s n l) := by
  unfold State.peerTold; try dsimp only
  repeat' with_reducible
    first
    | assumption | apply Mem.ite | apply State.setNat_wf | apply State.portEvent_wf | apply State.setPort_wf

theorem State.markerTold_wf {s : State} {n : Nat} {delta arrival : Int} {l : List Byte} (hs : Mem s) : Mem (State.markerTold s n delta arrival l) := by
  unfold State.markerTold; try dsimp only
  repeat' with_reducible
    first
    | assumption | apply Mem.ite | apply State.peerTold_wf | apply State.setPort_wf | apply State.setNat_wf
    | apply State.laneProposal_wf | apply State.refreshMute_wf

theorem State.markerIn_wf {s : State} {n : Nat} {bytes : List Byte} {arrival : Int} (hs : Mem s) : Mem (State.markerIn s n bytes arrival) := by
  unfold State.markerIn; try dsimp only
  repeat' with_reducible
    first
    | assumption | apply Mem.ite | apply State.wrapAdd_wf | apply State.markerTold_wf | apply State.drift_wf
    | apply State.violation_wf | apply State.setNat_wf

theorem State.timedIn_wf {s : State} {n : Nat} {bytes : List Byte} {arrival : Int} (hs : Mem s) : Mem (State.timedIn s n bytes arrival) := by
  unfold State.timedIn; try dsimp only
  repeat' with_reducible
    first
    | assumption | apply Mem.ite | apply State.drift_wf | apply State.cellRefused_wf | apply State.wrapAdd_wf
    | apply State.setNat_wf | apply State.deliver_wf

theorem State.cellIn_wf {s : State} {n : Nat} {bytes : List Byte} {arrival : Int} {o : FecObs} (hs : Mem s) : Mem (State.cellIn s n bytes arrival o) := by
  unfold State.cellIn; try dsimp only
  repeat' with_reducible
    first
    | assumption | apply Mem.ite | apply State.fecCount_wf | apply State.cellLost_wf | apply State.bump_wf
    | apply State.peerTold_wf | apply State.markerIn_wf | apply State.timedIn_wf

theorem writeSlotTable_wf {n table slot : Nat} {v : Word} {s : State} {u5 : EntLoc} (hs : Mem s) : MemE (writeSlotTable n table slot v s u5) := by
  unfold writeSlotTable; try dsimp only
  repeat' with_reducible
    first
    | assumption | apply MemE.orRefuse | apply State.setReg_wf

theorem writeSlotSwitch_wf {n : Nat} {v : Word} {s : State} {u3 : EntLoc} (hs : Mem s) : MemE (writeSlotSwitch n v s u3) := by
  unfold writeSlotSwitch; try dsimp only
  repeat' with_reducible
    first
    | assumption | apply MemE.orRefuse | apply State.setReg_wf

theorem State.bankSwitch_wf {s : State} {n : Nat} (hs : Mem s) : Mem (State.bankSwitch s n) := by
  unfold State.bankSwitch; try dsimp only
  repeat' with_reducible
    first
    | assumption | apply Mem.ite | apply State.setNat_wf | apply State.portEvent_wf

theorem State.ackApply_wf {s : State} {off : Nat} {l : List Byte} (hs : Mem s) : Mem (State.ackApply s off l) := by
  unfold State.ackApply; try dsimp only
  repeat' with_reducible
    first
    | assumption | apply Mem.ite | apply State.applyAck_wf | apply State.signalRequest_wf | apply State.bump_wf
    | (simp only [Mem.ackMem_eq]; refine ⟨?_, Mem.but ?_ _⟩) | apply put_bytes | apply Mem.ackMem

theorem State.congested_wf {s : State} {eth q : Nat} (hs : Mem s) : Mem (State.congested s eth q) := by
  unfold State.congested; try dsimp only
  repeat' with_reducible
    first
    | assumption | apply Mem.ite | apply State.setQp_wf | apply State.bump_wf | apply State.emit_wf

theorem State.rocePacket_wf {s : State} {eth : Nat} {pkt : RocePacket} (hs : Mem s) : Mem (State.rocePacket s eth pkt) := by
  unfold State.rocePacket; try dsimp only
  repeat' with_reducible
    first
    | assumption | intro _ | apply Mem.ite | apply Mem.foldl | apply State.bump_wf | apply State.congested_wf
    | apply State.emit_wf | apply State.ackApply_wf | apply State.setQp_wf | split

theorem State.qpError_wf {s : State} {q : Nat} (hs : Mem s) : Mem (State.qpError s q) := by
  unfold State.qpError; try dsimp only
  repeat' with_reducible
    first
    | assumption | intro _ | apply Mem.ite | apply Mem.foldl | apply State.setNat_wf | apply State.setQp_wf
    | apply State.abandonStream_wf

theorem execSlotStart_wf {port slot : Nat} {s : State} (hs : Mem s) : MemO (execSlotStart port slot s) := by
  unfold execSlotStart; try dsimp only
  repeat' with_reducible
    first
    | assumption | apply MemO.next | apply State.slotStart_wf

theorem execCellReceived_wf {port : Nat} {bytes : List Byte} {arrival : Int} {fec : FecObs} {s : State} (hs : Mem s) : MemO (execCellReceived port bytes arrival fec s) := by
  unfold execCellReceived; try dsimp only
  repeat' with_reducible
    first
    | assumption | apply MemO.next | apply State.cellIn_wf

theorem execMarkerReceived_wf {port : Nat} {bytes : List Byte} {arrival : Int} {fec : FecObs} {s : State} (hs : Mem s) : MemO (execMarkerReceived port bytes arrival fec s) := by
  unfold execMarkerReceived; try dsimp only
  repeat' with_reducible
    first
    | assumption | apply MemO.next | apply MemO.ite | apply State.peerTold_wf | apply State.cellIn_wf

theorem execViolUnmute_wf {port : Nat} {s : State} (hs : Mem s) : MemO (execViolUnmute port s) := by
  unfold execViolUnmute; try dsimp only
  repeat' with_reducible
    first
    | assumption | apply MemO.next | apply MemO.ite | apply State.setPort_wf | apply State.setNat_wf
    | apply State.portEvent_wf | apply State.refreshMute_wf

theorem execPortEnable_wf {who : Requester} {port : Nat} {s : State} (hs : Mem s) : MemO (execPortEnable who port s) := by
  unfold execPortEnable; try dsimp only
  repeat' with_reducible
    first
    | assumption | intro _ | apply MemO.next | apply MemE.ok | apply Mem.ite | apply State.slotWrite_wf
    | apply State.setNat_wf | apply State.portTrain_wf

theorem execPortDisable_wf {who : Requester} {port : Nat} {s : State} (hs : Mem s) : MemO (execPortDisable who port s) := by
  unfold execPortDisable; try dsimp only
  repeat' with_reducible
    first
    | assumption | intro _ | apply MemO.next | apply MemE.ok | apply State.slotWrite_wf | apply State.setNat_wf
    | apply State.portDown_wf

theorem execRestoreLane_wf {who : Requester} {port : Nat} {s : State} (hs : Mem s) : MemO (execRestoreLane who port s) := by
  unfold execRestoreLane; try dsimp only
  repeat' with_reducible
    first
    | assumption | intro _ | apply MemO.next | apply State.slotWrite_wf | apply orRefuse_wf | apply State.setNat_wf
    | apply State.setPort_wf

theorem execTrainingDone_wf {port lanes rtt : Nat} {s : State} (hs : Mem s) : MemO (execTrainingDone port lanes rtt s) := by
  unfold execTrainingDone; try dsimp only
  repeat' with_reducible
    first
    | assumption | apply MemO.next | apply MemO.ite | apply State.setNat_wf | apply State.portUp_wf
    | apply State.setPort_wf | apply State.portEvent_wf

theorem execTrainFail_wf {port : Nat} {s : State} (hs : Mem s) : MemO (execTrainFail port s) := by
  unfold execTrainFail; try dsimp only
  repeat' with_reducible
    first
    | assumption | apply MemO.next | apply MemO.ite | apply State.portDown_wf | apply State.portEvent_wf
    | apply State.setPort_wf

theorem execLaneFault_wf {port lane : Nat} {s : State} (hs : Mem s) : MemO (execLaneFault port lane s) := by
  unfold execLaneFault; try dsimp only
  repeat' with_reducible
    first
    | assumption | apply MemO.next | apply MemO.ite | apply State.setPort_wf | apply State.portDown_wf

theorem execLaneSwitch_wf {port : Nat} {s : State} (hs : Mem s) : MemO (execLaneSwitch port s) := by
  unfold execLaneSwitch; try dsimp only
  repeat' with_reducible
    first
    | assumption | apply MemO.next | apply MemO.ite | apply Mem.ite | apply State.setPort_wf | apply State.setNat_wf
    | apply State.portEvent_wf | apply State.portDown_wf

theorem execLaneConfirmTimeout_wf {port : Nat} {s : State} (hs : Mem s) : MemO (execLaneConfirmTimeout port s) := by
  unfold execLaneConfirmTimeout; try dsimp only
  repeat' with_reducible
    first
    | assumption | apply MemO.next | apply MemO.ite | apply State.portDown_wf

theorem execLos_wf {port : Nat} {s : State} (hs : Mem s) : MemO (execLos port s) := by
  unfold execLos; try dsimp only
  repeat' with_reducible
    first
    | assumption | apply MemO.next | apply MemO.ite | apply State.portDown_wf | apply State.portEvent_wf

theorem execLossCleared_wf {port : Nat} {s : State} (hs : Mem s) : MemO (execLossCleared port s) := by
  unfold execLossCleared; try dsimp only
  repeat' with_reducible
    first
    | assumption | apply MemO.next | apply MemO.ite | apply State.portTrain_wf

theorem execSlotTableWrite_wf {who : Requester} {port table slot : Nat} {v : Word} {s : State} (hs : Mem s) : MemO (execSlotTableWrite who port table slot v s) := by
  unfold execSlotTableWrite; try dsimp only
  repeat' with_reducible
    first
    | assumption | intro _ | apply MemO.next | apply State.slotWrite_wf | apply writeSlotTable_wf

theorem execSlotSwitchFrameWrite_wf {who : Requester} {port : Nat} {v : Word} {s : State} (hs : Mem s) : MemO (execSlotSwitchFrameWrite who port v s) := by
  unfold execSlotSwitchFrameWrite; try dsimp only
  repeat' with_reducible
    first
    | assumption | intro _ | apply MemO.next | apply State.slotWrite_wf | apply writeSlotSwitch_wf
    | apply State.portEvent_wf | split

theorem execSlotBankSwitch_wf {port : Nat} {s : State} (hs : Mem s) : MemO (execSlotBankSwitch port s) := by
  unfold execSlotBankSwitch; try dsimp only
  repeat' with_reducible
    first
    | assumption | apply MemO.next | apply State.bankSwitch_wf

theorem execRocePacketReceived_wf {eth : Nat} {pkt : RocePacket} {s : State} (hs : Mem s) : MemO (execRocePacketReceived eth pkt s) := by
  unfold execRocePacketReceived; try dsimp only
  repeat' with_reducible
    first
    | assumption | apply MemO.next | apply MemO.ite | apply State.rocePacket_wf

theorem execQpError_wf {qp : Nat} {s : State} (hs : Mem s) : MemO (execQpError qp s) := by
  unfold execQpError; try dsimp only
  repeat' with_reducible
    first
    | assumption | apply MemO.next | apply State.qpError_wf

theorem execEthLinkUp_wf {eth : Nat} {s : State} (hs : Mem s) : MemO (execEthLinkUp eth s) := by
  unfold execEthLinkUp; try dsimp only
  repeat' with_reducible
    first
    | assumption | apply MemO.next | apply MemO.ite | apply State.setNat_wf

theorem execEthLinkDown_wf {eth : Nat} {s : State} (hs : Mem s) : MemO (execEthLinkDown eth s) := by
  unfold execEthLinkDown; try dsimp only
  repeat' with_reducible
    first
    | assumption | apply MemO.next | apply MemO.ite | apply State.setNat_wf

theorem State.tagBlocked_wf {s : State} {d : Desc} (hs : Mem s) : Mem (State.tagBlocked s d) := by
  unfold State.tagBlocked; try dsimp only
  repeat' with_reducible
    first
    | assumption | apply Mem.ite | apply State.bump_wf | split

theorem State.runaheadOn_wf {s : State} {d : Desc} {cons predicted : Nat} (hs : Mem s) : Mem (State.runaheadOn s d cons predicted) := by
  unfold State.runaheadOn; try dsimp only
  repeat' with_reducible
    first
    | assumption | intro _ | apply Mem.ite | apply Mem.foldl | apply State.tagBlocked_wf | apply State.mscReads_wf
    | apply State.writeRows_wf | simp only [Mem.irrel_eq] | split

theorem State.runaheadRing_wf {n : Nat} {s : State} {r cons : Nat} {l : List (Nat × Nat)} {prev : Option Nat} {busy : Bool} (hs : Mem s) : Mem (State.runaheadRing n s r cons l prev busy) := by
  induction n generalizing s cons l prev busy with
  | zero => exact hs
  | succ n ih =>
    unfold State.runaheadRing; try dsimp only
    repeat' with_reducible
      first
      | assumption | apply Mem.ite | apply Mem.dite2 | apply ih | apply State.runaheadOn_wf | simp only [Mem.irrel_eq]
      | split

theorem execRunaheadStart_wf {s : State} (hs : Mem s) : MemO (execRunaheadStart s) := by
  unfold execRunaheadStart; try dsimp only
  repeat' with_reducible
    first
    | assumption | intro _ | apply MemO.next | apply Mem.ite | apply Mem.foldl | apply State.runaheadRing_wf

theorem State.useRunahead_wf {s : State} {d : Desc} {cons : Nat} (hs : Mem s) : Mem (State.useRunahead s d cons).1 := by
  unfold State.useRunahead; try dsimp only
  repeat' with_reducible
    first
    | assumption | apply State.squashFrom_wf | apply State.wrapAdd_wf | simp only [Mem.irrel_eq] | split

theorem State.squashFences_wf {s : State} (hs : Mem s) : Mem (State.squashFences s) := by
  unfold State.squashFences; try dsimp only
  repeat' with_reducible
    first
    | assumption | intro _ | apply Mem.ite | apply Mem.foldl | apply State.squashFrom_wf

theorem State.queueColl_wf {s : State} {d : Desc} (hs : Mem s) : Mem (State.queueColl s d) := by
  unfold State.queueColl; try dsimp only
  repeat' with_reducible
    first
    | assumption | apply Mem.ite | apply State.setColl_wf

theorem State.commitDesc_wf {s : State} {r raw n : Nat} {rest : List (Nat × Nat)} (hs : Mem s) : Mem (State.commitDesc s r raw n rest) := by
  unfold State.commitDesc; try dsimp only
  repeat' with_reducible
    first
    | assumption | apply Mem.ite | apply State.setRing_wf | apply State.wrapAdd_wf | apply State.setNat_wf
    | apply State.useRunahead_wf | apply State.queueColl_wf | simp only [Mem.irrel_eq] | split

theorem State.ringTurn_wf {n : Nat} {s : State} {r : Nat} {counts : List Nat} (hs : Mem s) : Mem (State.ringTurn n s r counts).1 := by
  induction n generalizing s counts with
  | zero => exact hs
  | succ n ih =>
    unfold State.ringTurn; try dsimp only
    repeat' with_reducible
      first
      | assumption | apply ih | apply State.bump_wf | apply State.commitDesc_wf | simp only [Mem.irrel_eq] | split

theorem State.commitPass_wf {s : State} (hs : Mem s) : Mem s.commitPass := by
  unfold State.commitPass
  have h := Mem.foldl1 (f := fun (acc : State × List Nat) r =>
    if acc.1.ringRuns r && !acc.1.partHeld (acc.1.ringPart r)
    then acc.1.ringTurn ((acc.1.ring r).fetched.length + 1) r acc.2 else acc) (l := countFrom 0 128)
    (a := (s.squashFences, List.replicate 16 0)) (State.squashFences_wf hs) (fun a x ha => by
      split
      · exact State.ringTurn_wf ha
      · exact ha)
  dsimp only
  split
  · exact State.bump_wf h
  · exact h

theorem State.syncMap_wf {s : State} {p : Nat} (hs : Mem s) : Mem (State.syncMap s p) := by
  unfold State.syncMap; try dsimp only
  repeat' with_reducible
    first
    | assumption | apply State.wrapAdd_wf | simp only [Mem.irrel_eq]

theorem State.endSlip_wf {s : State} {p : Nat} (hs : Mem s) : Mem (State.endSlip s p) := by
  unfold State.endSlip; try dsimp only
  repeat' with_reducible
    first
    | assumption | intro _ | apply Mem.ite | apply Mem.foldl | apply State.setRing_wf | simp only [Mem.irrel_eq]

theorem State.frameStart_wf {s : State} (hs : Mem s) : Mem (State.frameStart s) := by
  unfold State.frameStart; try dsimp only
  repeat' with_reducible
    first
    | assumption | intro _ | apply Mem.foldl | apply State.syncMap_wf | apply State.endSlip_wf
    | simp only [Mem.irrel_eq]

theorem State.openFrame_wf {s : State} {from_ : Nat} (hs : Mem s) : Mem (State.openFrame s from_) := by
  unfold State.openFrame; try dsimp only
  repeat' with_reducible
    first
    | assumption | simp only [Mem.irrel_eq]

theorem execFrameBoundary_wf {o : BoundaryObs} {s : State} (hs : Mem s) : MemO (execFrameBoundary o s) := by
  unfold execFrameBoundary; try dsimp only
  repeat' with_reducible
    first
    | assumption | apply MemO.next | apply MemO.ite | apply State.countSlack_wf | apply State.timingTurn_wf
    | apply State.sendMarkers_wf | apply State.frameStart_wf | apply State.commitPass_wf | apply State.openFrame_wf
    | simp only [Mem.irrel_eq]

theorem State.shiftOffsets_wf {s : State} {off : Int} (hs : Mem s) : Mem (State.shiftOffsets s off) := by
  unfold State.shiftOffsets; try dsimp only
  repeat' with_reducible
    first
    | assumption | intro _ | apply Mem.ite | apply Mem.foldl | apply State.setPort_wf | simp only [Mem.irrel_eq]

theorem State.stepForward_wf {s : State} {off : Nat} (hs : Mem s) : Mem (State.stepForward s off) := by
  unfold State.stepForward; try dsimp only
  repeat' with_reducible
    first
    | assumption | apply State.countSlack_wf | apply State.countRefs_wf | apply State.shiftOffsets_wf
    | apply State.wrapAdd_wf | apply State.setNat_wf | apply State.timingEvent_wf | apply State.frameStart_wf
    | apply State.estimate_wf | simp only [Mem.irrel_eq]

theorem execStepDone_wf {offset : Int} {refFrame : Nat} {s : State} (hs : Mem s) : MemO (execStepDone offset refFrame s) := by
  unfold execStepDone; try dsimp only
  repeat' with_reducible
    first
    | assumption | apply MemO.next | apply MemO.ite | apply State.setReg_wf | apply State.stepForward_wf
    | apply State.offsetReturn_wf

theorem State.stopDesc_wf {s : State} {st : Nat} {d : Desc} (hs : Mem s) : Mem (State.stopDesc s st d) := by
  unfold State.stopDesc; try dsimp only
  repeat' with_reducible
    first
    | assumption | apply State.cutTile_wf | apply State.endDesc_wf | apply State.tear_wf

theorem State.overrunHalt_wf {s : State} {p : Nat} {l : List Desc} (hs : Mem s) : Mem (State.overrunHalt s p l) := by
  unfold State.overrunHalt; try dsimp only
  repeat' with_reducible
    first
    | assumption | intro _ | apply Mem.foldl | apply State.stopDesc_wf | apply State.abortCollectives_wf
    | apply State.haltPart_wf

theorem State.overrunDefer_wf {s : State} {p : Nat} {l : List Desc} (hs : Mem s) : Mem (State.overrunDefer s p l) := by
  unfold State.overrunDefer; try dsimp only
  repeat' with_reducible
    first
    | assumption | intro _ | apply Mem.foldl | apply State.flagDesc_wf | apply State.modDesc_wf
    | simp only [Mem.irrel_eq]

theorem State.overrunPart_wf {s : State} {p : Nat} (hs : Mem s) : Mem (State.overrunPart s p) := by
  unfold State.overrunPart; try dsimp only
  repeat' with_reducible
    first
    | assumption | apply Mem.ite | apply State.bump_wf | apply State.overrunHalt_wf | apply State.overrunDefer_wf

theorem execOverrun_wf {s : State} (hs : Mem s) : MemO (execOverrun s) := by
  unfold execOverrun; try dsimp only
  repeat' with_reducible
    first
    | assumption | intro _ | apply MemO.next | apply MemO.ite | apply Mem.foldl | apply State.overrunPart_wf
    | simp only [Mem.irrel_eq]

theorem State.scrubRow_wf {s : State} {x : Nat × Nat} (hs : Mem s) : Mem (State.scrubRow s x) := by
  unfold State.scrubRow; try dsimp only
  repeat' with_reducible
    first
    | assumption | intro _ | apply Mem.ite | apply Mem.foldl | apply State.mend_wf | apply State.add_wf
    | apply State.coreEcc_wf

theorem State.scrub_wf {s : State} {n : Nat} (hs : Mem s) : Mem (State.scrub s n) := by
  unfold State.scrub; try dsimp only
  repeat' with_reducible
    first
    | assumption | intro _ | apply Mem.foldl | apply State.scrubRow_wf | apply State.setNat_wf
    | simp only [Mem.irrel_eq]

theorem State.retire_wf {s : State} {g : Nat} (hs : Mem s) : Mem (State.retire s g) := by
  unfold State.retire; try dsimp only
  repeat' with_reducible
    first
    | assumption | apply Mem.ite | apply State.dieEvent_wf | apply State.setOct_wf | apply State.releaseGranule_wf
    | simp only [Mem.irrel_eq]

theorem State.repairRow_wf {s : State} {ok : Bool} (hs : Mem s) : Mem (State.repairRow s ok) := by
  unfold State.repairRow; try dsimp only
  repeat' with_reducible
    first
    | assumption | apply Mem.ite | apply State.bump_wf | apply State.dieEvent_wf | apply State.retire_wf
    | simp only [Mem.irrel_eq] | (simp only [Mem.hbm_eq]; refine ⟨?_, Mem.but ?_ _⟩) | apply put_bytes | apply Mem.hbm
    | split

theorem State.maintain_wf {s : State} {o : MaintObs} (hs : Mem s) : Mem (State.maintain s o) := by
  unfold State.maintain; try dsimp only
  repeat' with_reducible
    first
    | assumption | intro _ | apply Mem.ite | apply Mem.foldl | apply State.bump_wf | apply State.logEvent_wf
    | apply State.portWindow_wf | apply State.sealPages_wf | apply State.repairRow_wf | apply State.stalls_wf
    | apply State.scrub_wf | simp only [Mem.irrel_eq] | split

theorem execMaintenanceWindow_wf {o : MaintObs} {s : State} (hs : Mem s) : MemO (execMaintenanceWindow o s) := by
  unfold execMaintenanceWindow; try dsimp only
  repeat' with_reducible
    first
    | assumption | apply MemO.next | apply MemO.ite | apply Mem.ite | apply State.maintain_wf
    | simp only [Mem.irrel_eq]

end Sys2Proof.Machine
end

