-- ==== Sys2Proof/Laws/MemoryModule.lean ====
section
/-!
SUPPORT. Laws/MemoryModule.lean: every operation keeps the canonical form of every memory: power, the Marionette, boot, PCIe, recovery and the dictionary.
-/
set_option linter.all false
namespace Sys2Proof.Machine
open Sys2Proof

theorem State.dieReset_wf {s : State} {warm : Bool} {cause : Nat} (hs : Mem s) : Mem (State.dieReset s warm cause) := by
  unfold State.dieReset; try dsimp only
  repeat' with_reducible
    first
    | assumption | intro _ | apply Mem.foldl | apply State.setNat_wf
    | (simp only [Mem.mk_eq]; refine ⟨?_, ?_, ?_, ?_, ?_, ?_, ?_, ?_, ?_⟩) | exact Tbl.wf_nil _ | apply drop_wf
    | apply kept_octs_wf | apply Mem.regs | apply Mem.octs | apply Mem.areas | apply Mem.hbm | apply Mem.flash | split

theorem State.dieChannelsOff_wf {s : State} (hs : Mem s) : Mem (State.dieChannelsOff s) := by
  unfold State.dieChannelsOff; try dsimp only
  repeat' with_reducible
    first
    | assumption | (simp only [Mem.regs_eq]; refine ⟨?_, Mem.but ?_ _⟩) | apply drop_wf | apply Mem.regs

theorem State.setPower_wf {s : State} {st area : Nat} (hs : Mem s) : Mem (State.setPower s st area) := by
  unfold State.setPower; try dsimp only
  repeat' with_reducible
    first
    | assumption | apply Mem.ite | apply State.setNat_wf | apply State.logEvent_wf

theorem State.dieOff_wf {s : State} {st area : Nat} (hs : Mem s) : Mem (State.dieOff s st area) := by
  unfold State.dieOff; try dsimp only
  repeat' with_reducible
    first
    | assumption | apply State.dieReset_wf | apply State.dieChannelsOff_wf | apply State.setPower_wf

theorem State.railsOn_wf {s : State} {area : Nat} (hs : Mem s) : Mem (State.railsOn s area) := by
  unfold State.railsOn; try dsimp only
  repeat' with_reducible
    first
    | assumption | apply Mem.ite | apply State.setNat_wf | apply State.emit_wf | apply State.dieReset_wf
    | apply State.dieChannelsOff_wf | apply State.setPower_wf

theorem State.warmReset_wf {s : State} {cause : Nat} (hs : Mem s) : Mem (State.warmReset s cause) := by
  unfold State.warmReset; try dsimp only
  repeat' with_reducible
    first
    | assumption | apply State.dieReset_wf

theorem State.protect_wf {s : State} {cause value : Nat} (hs : Mem s) : Mem (State.protect s cause value) := by
  unfold State.protect; try dsimp only
  repeat' with_reducible
    first
    | assumption | apply Mem.ite | apply State.logEvent_wf | apply State.alert_wf | apply State.dieOff_wf

theorem State.observeTrip_wf {s : State} {ch : Nat} {value : Int} (hs : Mem s) : Mem (State.observeTrip s ch value) := by
  unfold State.observeTrip; try dsimp only
  repeat' with_reducible
    first
    | assumption | apply State.setPower_wf | apply State.setBit_wf | apply State.alert_wf | apply State.logEvent_wf
    | simp only [Mem.irrel_eq]

theorem execPowerOn_wf {who : Requester} {s : State} (hs : Mem s) : MemO (execPowerOn who s) := by
  unfold execPowerOn; try dsimp only
  repeat' with_reducible
    first
    | assumption | intro _ | apply MemO.next | apply State.slotWrite_wf | apply orRefuse_wf | apply State.railsOn_wf

theorem execPowerOff_wf {who : Requester} {s : State} (hs : Mem s) : MemO (execPowerOff who s) := by
  unfold execPowerOff; try dsimp only
  repeat' with_reducible
    first
    | assumption | intro _ | apply MemO.next | apply State.slotWrite_wf | apply orRefuse_wf | apply State.dieOff_wf

theorem execChipReset_wf {who : Requester} {s : State} (hs : Mem s) : MemO (execChipReset who s) := by
  unfold execChipReset; try dsimp only
  repeat' with_reducible
    first
    | assumption | intro _ | apply MemO.next | apply State.slotWrite_wf | apply orRefuse_wf | apply State.warmReset_wf

theorem execPowerCycle_wf {who : Requester} {s : State} (hs : Mem s) : MemO (execPowerCycle who s) := by
  unfold execPowerCycle; try dsimp only
  repeat' with_reducible
    first
    | assumption | intro _ | apply MemO.next | apply State.slotWrite_wf | apply orRefuse_wf | apply State.dieOff_wf
    | apply State.railsOn_wf

theorem execChipResetRelease_wf {s : State} (hs : Mem s) : MemO (execChipResetRelease s) := by
  unfold execChipResetRelease; try dsimp only
  repeat' with_reducible
    first
    | assumption | apply MemO.next | apply MemO.ite | apply State.setPower_wf | apply State.wrapAdd_wf
    | apply State.setNat_wf | (simp only [Mem.areas_eq]; refine ⟨?_, Mem.but ?_ _⟩) | exact Tbl.wf_nil _

theorem execPcieReset_wf {s : State} (hs : Mem s) : MemO (execPcieReset s) := by
  unfold execPcieReset; try dsimp only
  repeat' with_reducible
    first
    | assumption | apply MemO.next | apply MemO.ite | apply State.warmReset_wf

theorem execThermTrip_wf {ch : Nat} {value : Int} {s : State} (hs : Mem s) : MemO (execThermTrip ch value s) := by
  unfold execThermTrip; try dsimp only
  repeat' with_reducible
    first
    | assumption | apply MemO.next | apply MemO.ite | apply State.dieReset_wf | apply State.dieChannelsOff_wf
    | apply State.setNat_wf | apply State.emit_wf | apply State.observeTrip_wf | simp only [Mem.irrel_eq]

theorem State.levelChange_wf {s : State} {ch value old new : Nat} (hs : Mem s) : Mem (State.levelChange s ch value old new) := by
  unfold State.levelChange; try dsimp only
  repeat' with_reducible
    first
    | assumption | apply Mem.ite | apply State.logEvent_wf | apply State.alert_wf | apply State.protect_wf

theorem State.faultChange_wf {s : State} {ch : Nat} {old new : Bool} (hs : Mem s) : Mem (State.faultChange s ch old new) := by
  unfold State.faultChange; try dsimp only
  repeat' with_reducible
    first
    | assumption | apply Mem.ite | apply State.logEvent_wf | apply State.alert_wf

theorem State.capCheck_wf {s : State} (hs : Mem s) : Mem (State.capCheck s) := by
  unfold State.capCheck; try dsimp only
  repeat' with_reducible
    first
    | assumption | apply Mem.ite | apply State.setNat_wf | apply State.logEvent_wf | apply State.alert_wf

theorem State.powerSample_wf {s : State} {ma : Int} (hs : Mem s) : Mem (State.powerSample s ma) := by
  unfold State.powerSample; try dsimp only
  repeat' with_reducible
    first
    | assumption | apply Mem.ite | apply State.setNat_wf | apply State.capCheck_wf | apply State.protect_wf
    | simp only [Mem.irrel_eq]

theorem execSensorSample_wf {ch : Nat} {value : Int} {faulty : Bool} {s : State} (hs : Mem s) : MemO (execSensorSample ch value faulty s) := by
  unfold execSensorSample; try dsimp only
  repeat' with_reducible
    first
    | assumption | apply MemO.next | apply MemO.ite | apply Mem.ite | apply State.setReg_wf
    | apply State.faultChange_wf | apply State.levelChange_wf | apply State.powerSample_wf | simp only [Mem.irrel_eq]

theorem State.setStrings_wf {s : State} {st : Nat} (hs : Mem s) : Mem (State.setStrings s st) := by
  unfold State.setStrings; try dsimp only
  repeat' with_reducible
    first
    | assumption | apply Mem.ite | apply State.setNat_wf | apply State.logEvent_wf | apply State.takeFree_wf

theorem State.busOff_wf {s : State} (hs : Mem s) : Mem (State.busOff s) := by
  unfold State.busOff; try dsimp only
  repeat' with_reducible
    first
    | assumption | apply Mem.ite | apply State.bump_wf | apply State.setStrings_wf | simp only [Mem.irrel_eq]

theorem State.busError_wf {s : State} (hs : Mem s) : Mem (State.busError s) := by
  unfold State.busError; try dsimp only
  repeat' with_reducible
    first
    | assumption | apply State.bump_wf | apply State.takeFree_wf

theorem State.dupId_wf {s : State} (hs : Mem s) : Mem (State.dupId s) := by
  unfold State.dupId; try dsimp only
  repeat' with_reducible
    first
    | assumption | apply Mem.ite | apply State.setStrings_wf | simp only [Mem.irrel_eq]

theorem State.fromNode_wf {s : State} {node : Nat} {f : State → State} (hs : Mem s) (hf : ∀ x0, Mem x0 → Mem (f x0)) : Mem (State.fromNode s node f) := by
  unfold State.fromNode; try dsimp only
  repeat' with_reducible
    first
    | assumption | apply Mem.ite | apply State.dupId_wf | apply hf

theorem State.beginRestart_wf {s : State} {cause : Nat} (hs : Mem s) : Mem (State.beginRestart s cause) := by
  unfold State.beginRestart; try dsimp only
  repeat' with_reducible
    first
    | assumption | simp only [Mem.irrel_eq]

theorem State.revert_wf {s : State} (hs : Mem s) : Mem (State.revert s) := by
  unfold State.revert; try dsimp only
  repeat' with_reducible
    first
    | assumption | apply Mem.ite | apply State.setNat_wf | apply State.logEvent_wf | apply State.alert_wf
    | simp only [Mem.irrel_eq]

theorem State.bootFresh_wf {s : State} {straps : Nat} (hs : Mem s) : Mem (State.bootFresh s straps) := by
  unfold State.bootFresh; try dsimp only
  repeat' with_reducible
    first
    | assumption | apply State.setNat_wf | apply State.setStrings_wf | simp only [Mem.irrel_eq]

theorem State.runImage_wf {s : State} {cause : Nat} (hs : Mem s) : Mem (State.runImage s cause) := by
  unfold State.runImage; try dsimp only
  repeat' with_reducible
    first
    | assumption | apply Mem.ite | apply State.logEvent_wf | apply State.setPower_wf | apply State.setNat_wf
    | simp only [Mem.irrel_eq] | split

theorem execMarionetteBoot_wf {straps : Nat} {s : State} (hs : Mem s) : MemO (execMarionetteBoot straps s) := by
  unfold execMarionetteBoot; try dsimp only
  repeat' with_reducible
    first
    | assumption | apply MemO.next | apply MemO.ite | apply Mem.ite | apply State.bootFresh_wf | apply State.revert_wf
    | apply State.runImage_wf | apply State.logEvent_wf | apply State.observeTrip_wf | apply State.railsOn_wf | split

theorem execMarionetteRestart_wf {s : State} (hs : Mem s) : MemO (execMarionetteRestart s) := by
  unfold execMarionetteRestart; try dsimp only
  repeat' with_reducible
    first
    | assumption | apply MemO.next | apply MemO.ite | apply State.beginRestart_wf

theorem State.inputLost_wf {s : State} {cause : Nat} (hs : Mem s) : Mem (s.inputLost cause) := by
  have h : Mem (s.dieReset false 0).dieChannelsOff := State.dieChannelsOff_wf (State.dieReset_wf hs)
  unfold State.inputLost
  generalize (s.dieReset false 0).dieChannelsOff = t at h ⊢
  extract_lets m0 m src u
  have hu : Mem u := by
    simp only [u]
    with_reducible refine State.setNat_wf ?_
    simp only [Mem.mk_eq]
    exact ⟨h.regs, h.octs, h.areas, h.ls, h.fs, h.acc, h.hbm, h.ackMem, hs.flash⟩
  clear_value u
  split
  · simp only [Mem.irrel_eq]; exact hu
  · exact hu

theorem State.inputApplied_wf {s : State} (hs : Mem s) : Mem (State.inputApplied s) := by
  unfold State.inputApplied; try dsimp only
  repeat' with_reducible
    first
    | assumption | apply State.setNat_wf | (simp only [Mem.mk_eq]; refine ⟨?_, ?_, ?_, ?_, ?_, ?_, ?_, ?_, ?_⟩)
    | apply drop_wf | apply Mem.regs | apply Mem.octs | apply Mem.areas | apply Mem.ls | apply Mem.fs | apply Mem.acc
    | apply Mem.hbm | apply Mem.ackMem | apply Mem.flash

theorem execInputEnable_wf {s : State} (hs : Mem s) : MemO (execInputEnable s) := by
  unfold execInputEnable; try dsimp only
  repeat' with_reducible
    first
    | assumption | apply MemO.next | apply MemO.ite | apply State.inputApplied_wf

theorem execInputUndervoltage_wf {s : State} (hs : Mem s) : MemO (execInputUndervoltage s) := by
  unfold execInputUndervoltage; try dsimp only
  repeat' with_reducible
    first
    | assumption | apply MemO.next | apply MemO.ite | apply State.inputLost_wf

theorem execInputFault_wf {voltage : Bool} {s : State} (hs : Mem s) : MemO (execInputFault voltage s) := by
  unfold execInputFault; try dsimp only
  repeat' with_reducible
    first
    | assumption | apply MemO.next | apply MemO.ite | apply State.inputLost_wf

theorem execInputReenable_wf {s : State} (hs : Mem s) : MemO (execInputReenable s) := by
  unfold execInputReenable; try dsimp only
  repeat' with_reducible
    first
    | assumption | apply MemO.next | apply MemO.ite | apply State.inputApplied_wf

theorem State.readTag_wf {s : State} (hs : Mem s) : Mem (State.readTag s) := by
  unfold State.readTag; try dsimp only
  repeat' with_reducible
    first
    | assumption | apply Mem.ite | simp only [Mem.irrel_eq]

theorem State.announce_wf {s : State} {reason : Nat} (hs : Mem s) : Mem (State.announce s reason) := by
  unfold State.announce; try dsimp only
  repeat' with_reducible
    first
    | assumption | apply State.readTag_wf | apply State.sendStrings_wf

theorem State.search_wf {s : State} {epoch window : Nat} (hs : Mem s) : Mem (State.search s epoch window) := by
  unfold State.search; try dsimp only
  repeat' with_reducible
    first
    | assumption | apply Mem.ite | apply State.takeFree_wf | apply State.setNat_wf | simp only [Mem.irrel_eq]

theorem execSearch_wf {node epoch window : Nat} {s : State} (hs : Mem s) : MemO (execSearch node epoch window s) := by
  unfold execSearch; try dsimp only
  repeat' with_reducible
    first
    | assumption | intro _ | apply MemO.next | apply State.fromNode_wf | apply State.search_wf

theorem execSearchReply_wf {waited : Nat} {s : State} (hs : Mem s) : MemO (execSearchReply waited s) := by
  unfold execSearchReply; try dsimp only
  repeat' with_reducible
    first
    | assumption | apply MemO.next | apply MemO.ite | apply State.readTag_wf | apply State.takeFree_wf
    | apply State.sendStrings_wf | simp only [Mem.irrel_eq] | split

theorem execLateSearchAnnounce_wf {s : State} (hs : Mem s) : MemO (execLateSearchAnnounce s) := by
  unfold execLateSearchAnnounce; try dsimp only
  repeat' with_reducible
    first
    | assumption | apply MemO.next | apply MemO.ite | apply State.announce_wf | simp only [Mem.irrel_eq] | split

theorem execAnnounce_wf {s : State} (hs : Mem s) : MemO (execAnnounce s) := by
  unfold execAnnounce; try dsimp only
  repeat' with_reducible
    first
    | assumption | apply MemO.next | apply MemO.ite | apply State.setNat_wf | apply State.announce_wf
    | simp only [Mem.irrel_eq] | split

theorem execHeartbeat_wf {s : State} (hs : Mem s) : MemO (execHeartbeat s) := by
  unfold execHeartbeat; try dsimp only
  repeat' with_reducible
    first
    | assumption | apply MemO.next | apply MemO.ite | apply State.sendStrings_wf | simp only [Mem.irrel_eq]

theorem State.markNode_wf {s : State} {node : Nat} {here : Bool} (hs : Mem s) : Mem (State.markNode s node here) := by
  unfold State.markNode; try dsimp only
  repeat' with_reducible
    first
    | assumption | apply State.setOct_wf

theorem execNodePresent_wf {node : Nat} {period epoch : Option Nat} {s : State} (hs : Mem s) : MemO (execNodePresent node period epoch s) := by
  unfold execNodePresent; try dsimp only
  repeat' with_reducible
    first
    | assumption | intro _ | apply MemO.next | apply Mem.ite | apply State.fromNode_wf | apply State.markNode_wf
    | simp only [Mem.irrel_eq] | split

theorem execNodeAbsent_wf {node : Nat} {s : State} (hs : Mem s) : MemO (execNodeAbsent node s) := by
  unfold execNodeAbsent; try dsimp only
  repeat' with_reducible
    first
    | assumption | apply MemO.next | apply MemO.ite | apply State.markNode_wf | apply State.logEvent_wf
    | apply State.takeFree_wf

theorem execDupId_wf {s : State} (hs : Mem s) : MemO (execDupId s) := by
  unfold execDupId; try dsimp only
  repeat' with_reducible
    first
    | assumption | apply MemO.next | apply MemO.ite | apply State.dupId_wf

theorem execBusOffRecovery_wf {s : State} (hs : Mem s) : MemO (execBusOffRecovery s) := by
  unfold execBusOffRecovery; try dsimp only
  repeat' with_reducible
    first
    | assumption | apply MemO.next | apply MemO.ite | apply State.setStrings_wf | simp only [Mem.irrel_eq]

theorem State.updateStep_wf {s : State} {who : Requester} {listed : List Nat} {t : State} (hs : Mem s) (ht : Mem t) : MemE (State.updateStep s who listed t) := by
  unfold State.updateStep; try dsimp only
  repeat' with_reducible
    first
    | assumption | apply MemE.ok | exact MemE.error _ | apply MemE.ite

theorem State.closeUpdate_wf {s : State} (hs : Mem s) : Mem (State.closeUpdate s) := by
  unfold State.closeUpdate; try dsimp only
  repeat' with_reducible
    first
    | assumption | apply State.setNat_wf | simp only [Mem.irrel_eq]

theorem State.openUpdate_wf {s : State} {who : Requester} (hs : Mem s) : Mem (State.openUpdate s who) := by
  unfold State.openUpdate; try dsimp only
  repeat' with_reducible
    first
    | assumption | apply State.setNat_wf | rw [Mario.setSig_flash] | simp only [Mem.irrel_eq, Mario.setSig_flash]
    | (simp only [Mem.mk_eq]; refine ⟨?_, ?_, ?_, ?_, ?_, ?_, ?_, ?_, ?_⟩) | apply clear_bytes | apply Mem.regs
    | apply Mem.octs | apply Mem.areas | apply Mem.ls | apply Mem.fs | apply Mem.acc | apply Mem.hbm
    | apply Mem.ackMem | apply Mem.flash

theorem writeUpdateChunk_wf {who : Requester} {bytes : List Byte} {s : State} {u3 : EntLoc} (hs : Mem s) : MemE (writeUpdateChunk who bytes s u3) := by
  unfold writeUpdateChunk; try dsimp only
  repeat' with_reducible
    first
    | assumption | apply MemE.ok | exact MemE.error _ | apply MemE.ite | apply State.updateStep_wf
    | apply State.setNat_wf | (simp only [Mem.mk_eq]; refine ⟨?_, ?_, ?_, ?_, ?_, ?_, ?_, ?_, ?_⟩) | apply put_bytes
    | apply Mem.regs | apply Mem.octs | apply Mem.areas | apply Mem.ls | apply Mem.fs | apply Mem.acc | apply Mem.hbm
    | apply Mem.ackMem | apply Mem.flash | refine MemE.get (by assumption) ?_ | split

theorem execUpdateOpen_wf {who : Requester} {s : State} (hs : Mem s) : MemO (execUpdateOpen who s) := by
  unfold execUpdateOpen; try dsimp only
  repeat' with_reducible
    first
    | assumption | intro _ | apply MemO.next | apply State.slotWrite_wf | apply State.updateStep_wf
    | apply State.openUpdate_wf

theorem execUpdateChunk_wf {who : Requester} {bytes : List Byte} {s : State} (hs : Mem s) : MemO (execUpdateChunk who bytes s) := by
  unfold execUpdateChunk; try dsimp only
  repeat' with_reducible
    first
    | assumption | intro _ | apply MemO.next | apply State.dictLong_wf | apply writeUpdateChunk_wf

theorem execUpdateVerify_wf {who : Requester} {s : State} (hs : Mem s) : MemO (execUpdateVerify who s) := by
  unfold execUpdateVerify; try dsimp only
  repeat' with_reducible
    first
    | assumption | intro _ | apply MemO.next | apply State.slotWrite_wf | apply State.updateStep_wf
    | simp only [Mem.irrel_eq]

theorem execUpdateVerifyDone_wf {sigOk : Bool} {s : State} (hs : Mem s) : MemO (execUpdateVerifyDone sigOk s) := by
  unfold execUpdateVerifyDone; try dsimp only
  repeat' with_reducible
    first
    | assumption | apply MemO.next | apply MemO.ite | apply Mem.ite | apply State.setNat_wf | apply State.logEvent_wf
    | apply State.alert_wf | simp only [Mem.irrel_eq, Mario.setSig_flash]

theorem execUpdateActivate_wf {who : Requester} {s : State} (hs : Mem s) : MemO (execUpdateActivate who s) := by
  unfold execUpdateActivate; try dsimp only
  repeat' with_reducible
    first
    | assumption | intro _ | apply MemO.next | apply State.slotWrite_wf | apply State.setNat_wf
    | apply State.updateStep_wf | apply State.logEvent_wf | apply State.beginRestart_wf | simp only [Mem.irrel_eq]

theorem execUpdateCommit_wf {who : Requester} {s : State} (hs : Mem s) : MemO (execUpdateCommit who s) := by
  unfold execUpdateCommit; try dsimp only
  repeat' with_reducible
    first
    | assumption | intro _ | apply MemO.next | apply State.slotWrite_wf | apply State.setNat_wf
    | apply State.closeUpdate_wf | apply State.updateStep_wf | apply State.logEvent_wf | simp only [Mem.irrel_eq]

theorem execUpdateCancel_wf {who : Requester} {s : State} (hs : Mem s) : MemO (execUpdateCancel who s) := by
  unfold execUpdateCancel; try dsimp only
  repeat' with_reducible
    first
    | assumption | intro _ | apply MemO.next | apply State.slotWrite_wf | apply State.updateStep_wf
    | apply State.closeUpdate_wf

theorem execUpdateReverted_wf {s : State} (hs : Mem s) : MemO (execUpdateReverted s) := by
  unfold execUpdateReverted; try dsimp only
  repeat' with_reducible
    first
    | assumption | apply MemO.next | apply MemO.ite | apply State.revert_wf | apply State.beginRestart_wf

theorem execUpdateSessionTimeout_wf {s : State} (hs : Mem s) : MemO (execUpdateSessionTimeout s) := by
  unfold execUpdateSessionTimeout; try dsimp only
  repeat' with_reducible
    first
    | assumption | apply MemO.next | apply MemO.ite | apply State.closeUpdate_wf

theorem State.stopEvent_wf {s : State} {b : Nat} (hs : Mem s) : Mem (State.stopEvent s b) := by
  unfold State.stopEvent; try dsimp only
  repeat' with_reducible
    first
    | assumption | apply Mem.ite | apply State.setBit_wf | apply State.msix_wf

theorem State.enterStopped_wf {s : State} {chatter : Bool} (hs : Mem s) : Mem (State.enterStopped s chatter) := by
  unfold State.enterStopped; try dsimp only
  repeat' with_reducible
    first
    | assumption | intro _ | apply Mem.foldl | apply State.haltPart_wf | apply State.setNat_wf | apply State.bump_wf
    | apply State.stopEvent_wf | apply State.logEvent_wf

theorem State.stopLow_wf {s : State} {chatter : Bool} (hs : Mem s) : Mem (State.stopLow s chatter) := by
  unfold State.stopLow; try dsimp only
  repeat' with_reducible
    first
    | assumption | apply Mem.ite | apply State.enterStopped_wf | simp only [Mem.irrel_eq]

theorem State.stopHigh_wf {s : State} (hs : Mem s) : Mem (State.stopHigh s) := by
  unfold State.stopHigh; try dsimp only
  repeat' with_reducible
    first
    | assumption | apply Mem.ite | apply State.setNat_wf | apply State.stopEvent_wf | simp only [Mem.irrel_eq]

theorem State.stopAtReady_wf {s : State} (hs : Mem s) : Mem (State.stopAtReady s) := by
  unfold State.stopAtReady; try dsimp only
  repeat' with_reducible
    first
    | assumption | apply Mem.ite | apply State.enterStopped_wf | apply State.setNat_wf

theorem execStopAsserted_wf {s : State} (hs : Mem s) : MemO (execStopAsserted s) := by
  unfold execStopAsserted; try dsimp only
  repeat' with_reducible
    first
    | assumption | apply MemO.next | apply State.stopLow_wf

theorem execStopChatter_wf {s : State} (hs : Mem s) : MemO (execStopChatter s) := by
  unfold execStopChatter; try dsimp only
  repeat' with_reducible
    first
    | assumption | apply MemO.next | apply MemO.ite | apply Mem.ite | apply State.stopEvent_wf
    | apply State.stopLow_wf | simp only [Mem.irrel_eq]

theorem execChatterEnd_wf {level : Bool} {s : State} (hs : Mem s) : MemO (execChatterEnd level s) := by
  unfold execChatterEnd; try dsimp only
  repeat' with_reducible
    first
    | assumption | apply MemO.next | apply MemO.ite | apply Mem.ite | apply State.stopHigh_wf
    | simp only [Mem.irrel_eq]

theorem execStopReleased_wf {s : State} (hs : Mem s) : MemO (execStopReleased s) := by
  unfold execStopReleased; try dsimp only
  repeat' with_reducible
    first
    | assumption | apply MemO.next | apply MemO.ite | apply State.stopHigh_wf

theorem writeStopRearm_wf {who : Requester} {v : Word} {s : State} {u3 : EntLoc} (hs : Mem s) : MemE (writeStopRearm who v s u3) := by
  unfold writeStopRearm; try dsimp only
  repeat' with_reducible
    first
    | assumption | apply MemE.ok | exact MemE.error _ | apply MemE.ite | apply State.setNat_wf
    | apply State.stopEvent_wf | apply State.logEvent_wf

theorem execStopRearm_wf {who : Requester} {v : Word} {s : State} (hs : Mem s) : MemO (execStopRearm who v s) := by
  unfold execStopRearm; try dsimp only
  repeat' with_reducible
    first
    | assumption | intro _ | apply MemO.next | apply State.slotWrite_wf | apply writeStopRearm_wf

theorem State.setLine_wf {s : State} {v : Nat} (hs : Mem s) : Mem (State.setLine s v) := by
  unfold State.setLine; try dsimp only
  repeat' with_reducible
    first
    | assumption | apply Mem.ite | apply State.setNat_wf | apply State.alert_wf | apply State.logEvent_wf

theorem execStringsLineShort_wf {busOff : Bool} {s : State} (hs : Mem s) : MemO (execStringsLineShort busOff s) := by
  unfold execStringsLineShort; try dsimp only
  repeat' with_reducible
    first
    | assumption | apply MemO.next | apply MemO.ite | apply Mem.ite | apply State.setLine_wf | apply State.busError_wf
    | apply State.busOff_wf | simp only [Mem.irrel_eq]

theorem execStringsLineOpen_wf {s : State} (hs : Mem s) : MemO (execStringsLineOpen s) := by
  unfold execStringsLineOpen; try dsimp only
  repeat' with_reducible
    first
    | assumption | apply MemO.next | apply MemO.ite | apply State.bump_wf | apply State.setLine_wf

theorem execDominantTimeout_wf {busOff : Bool} {s : State} (hs : Mem s) : MemO (execDominantTimeout busOff s) := by
  unfold execDominantTimeout; try dsimp only
  repeat' with_reducible
    first
    | assumption | apply MemO.next | apply MemO.ite | apply Mem.ite | apply State.busError_wf | apply State.busOff_wf

theorem execStringsReconnect_wf {s : State} (hs : Mem s) : MemO (execStringsReconnect s) := by
  unfold execStringsReconnect; try dsimp only
  repeat' with_reducible
    first
    | assumption | apply MemO.next | apply MemO.ite | apply Mem.ite | apply State.setLine_wf
    | simp only [Mem.irrel_eq]

theorem persistSave_wf {s : State} {u1 : EntLoc} (hs : Mem s) : MemE (persistSave s u1) := by
  unfold persistSave; try dsimp only
  repeat' with_reducible
    first
    | assumption | apply MemE.ok | exact MemE.error _ | apply MemE.ite | apply State.setNat_wf
    | simp only [Mem.irrel_eq]

theorem persistErase_wf {s : State} {u1 : EntLoc} (hs : Mem s) : MemE (persistErase s u1) := by
  unfold persistErase; try dsimp only
  repeat' with_reducible
    first
    | assumption | apply MemE.ok | exact MemE.error _ | apply MemE.ite | simp only [Mem.irrel_eq]

theorem execPersistSave_wf {who : Requester} {s : State} (hs : Mem s) : MemO (execPersistSave who s) := by
  unfold execPersistSave; try dsimp only
  repeat' with_reducible
    first
    | assumption | intro _ | apply MemO.next | apply State.slotWrite_wf | apply persistSave_wf

theorem execPersistErase_wf {who : Requester} {s : State} (hs : Mem s) : MemO (execPersistErase who s) := by
  unfold execPersistErase; try dsimp only
  repeat' with_reducible
    first
    | assumption | intro _ | apply MemO.next | apply State.slotWrite_wf | apply persistErase_wf

theorem execPersistSaveDone_wf {ok : Bool} {s : State} (hs : Mem s) : MemO (execPersistSaveDone ok s) := by
  unfold execPersistSaveDone; try dsimp only
  repeat' with_reducible
    first
    | assumption | apply MemO.next | apply MemO.ite | apply State.setNat_wf | apply State.bump_wf
    | simp only [Mem.irrel_eq] | split

theorem State.applySaved_wf {c : PersistCopy} {s : State} {x : Nat × Word} (hs : Mem s) : Mem (State.applySaved c s x) := by
  unfold State.applySaved; try dsimp only
  repeat' with_reducible
    first
    | assumption | apply Mem.ite | apply State.setReg_wf | apply State.bump_wf

theorem State.applySet_wf {s : State} (hs : Mem s) : Mem (State.applySet s) := by
  unfold State.applySet; try dsimp only
  repeat' with_reducible
    first
    | assumption | intro _ | apply Mem.foldl | apply State.applySaved_wf
    | (simp only [Mem.octs_eq]; refine ⟨?_, Mem.but ?_ _⟩) | apply octs_set | apply Mem.octs | split

theorem State.emptyStage_wf {s : State} (hs : Mem s) : Mem (State.emptyStage s) := by
  unfold State.emptyStage; try dsimp only
  repeat' with_reducible
    first
    | assumption | apply State.fsZero_wf | apply State.setNat_wf | simp only [Mem.irrel_eq]

theorem State.stageLand_wf {s : State} {off : Nat} {l : List Byte} (hs : Mem s) : Mem (State.stageLand s off l) := by
  unfold State.stageLand; try dsimp only
  repeat' with_reducible
    first
    | assumption | apply State.fsPut_wf | apply State.setNat_wf | simp only [Mem.irrel_eq]

theorem State.stageWrite_wf {s : State} {off : Nat} {l : List Byte} (hs : Mem s) : Mem (State.stageWrite s off l) := by
  unfold State.stageWrite; try dsimp only
  repeat' with_reducible
    first
    | assumption | apply Mem.ite | apply State.bump_wf | apply State.setNat_wf | apply State.stageLand_wf

theorem execStagingWrite_wf {fn off : Nat} {bytes : List Byte} {s : State} (hs : Mem s) : MemO (execStagingWrite fn off bytes s) := by
  unfold execStagingWrite; try dsimp only
  repeat' with_reducible
    first
    | assumption | apply MemO.next | apply MemO.ite | apply State.stageWrite_wf

theorem fwVerify_wf {s : State} {u1 : EntLoc} (hs : Mem s) : MemE (fwVerify s u1) := by
  unfold fwVerify; try dsimp only
  repeat' with_reducible
    first
    | assumption | apply MemE.orRefuse | apply State.setNat_wf

theorem execFwVerify_wf {who : Requester} {s : State} (hs : Mem s) : MemO (execFwVerify who s) := by
  unfold execFwVerify; try dsimp only
  repeat' with_reducible
    first
    | assumption | intro _ | apply MemO.next | apply State.slotWrite_wf | apply fwVerify_wf

theorem fwClear_wf {s : State} {u1 : EntLoc} (hs : Mem s) : MemE (fwClear s u1) := by
  unfold fwClear; try dsimp only
  repeat' with_reducible
    first
    | assumption | apply MemE.orRefuse | apply State.emptyStage_wf

theorem execFwClear_wf {who : Requester} {s : State} (hs : Mem s) : MemO (execFwClear who s) := by
  unfold execFwClear; try dsimp only
  repeat' with_reducible
    first
    | assumption | intro _ | apply MemO.next | apply State.slotWrite_wf | apply fwClear_wf

theorem State.proxyIn_wf {s : State} {port off : Nat} {l : List Byte} (hs : Mem s) : Mem (State.proxyIn s port off l) := by
  unfold State.proxyIn; try dsimp only
  repeat' with_reducible
    first
    | assumption | apply Mem.ite | apply State.bump_wf | apply State.setNat_wf | apply State.stageLand_wf

theorem execProxyCellReceived_wf {port : Nat} {bytes : List Byte} {s : State} (hs : Mem s) : MemO (execProxyCellReceived port bytes s) := by
  unfold execProxyCellReceived; try dsimp only
  repeat' with_reducible
    first
    | assumption | apply MemO.next | apply MemO.ite | apply State.bump_wf | apply State.wrapAdd_wf
    | apply State.proxyIn_wf

theorem execProxyBindTimeout_wf {s : State} (hs : Mem s) : MemO (execProxyBindTimeout s) := by
  unfold execProxyBindTimeout; try dsimp only
  repeat' with_reducible
    first
    | assumption | apply MemO.next | apply MemO.ite | apply State.emptyStage_wf

theorem execBootWaitEntered_wf {s : State} (hs : Mem s) : MemO (execBootWaitEntered s) := by
  unfold execBootWaitEntered; try dsimp only
  repeat' with_reducible
    first
    | assumption | apply MemO.next | apply MemO.ite | apply State.setNat_wf | apply State.emptyStage_wf
    | apply State.dieEvent_wf

theorem execVerifyDone_wf {sigOk : Bool} {s : State} (hs : Mem s) : MemO (execVerifyDone sigOk s) := by
  unfold execVerifyDone; try dsimp only
  repeat' with_reducible
    first
    | assumption | apply MemO.next | apply MemO.ite | apply State.setNat_wf | apply State.emptyStage_wf
    | apply State.dieEvent_wf | simp only [Mem.irrel_eq]

theorem State.bootFail_wf {s : State} {reason : Nat} (hs : Mem s) : Mem (State.bootFail s reason) := by
  unfold State.bootFail; try dsimp only
  repeat' with_reducible
    first
    | assumption | apply State.setNat_wf | apply State.dieEvent_wf | apply State.emit_wf | simp only [Mem.irrel_eq]

theorem execFwStartDone_wf {ok : Bool} {s : State} (hs : Mem s) : MemO (execFwStartDone ok s) := by
  unfold execFwStartDone; try dsimp only
  repeat' with_reducible
    first
    | assumption | apply MemO.next | apply MemO.ite | apply State.setNat_wf | apply State.bootFail_wf

theorem execHbmTrainDone_wf {ok : Bool} {s : State} (hs : Mem s) : MemO (execHbmTrainDone ok s) := by
  unfold execHbmTrainDone; try dsimp only
  repeat' with_reducible
    first
    | assumption | apply MemO.next | apply MemO.ite | apply State.setNat_wf | apply State.applySet_wf
    | apply State.bootFail_wf

theorem execLinkTrainDone_wf {s : State} (hs : Mem s) : MemO (execLinkTrainDone s) := by
  unfold execLinkTrainDone; try dsimp only
  repeat' with_reducible
    first
    | assumption | apply MemO.next | apply MemO.ite | apply State.setNat_wf

theorem State.bootCores_wf {s : State} (hs : Mem s) : Mem (State.bootCores s) := by
  unfold State.bootCores; try dsimp only
  repeat' with_reducible
    first
    | assumption | intro _ | apply Mem.ite | apply Mem.foldl | apply State.setNat_wf | simp only [Mem.irrel_eq]
    | split

theorem State.bootRetired_wf {s : State} (hs : Mem s) : Mem (State.bootRetired s) := by
  unfold State.bootRetired; try dsimp only
  repeat' with_reducible
    first
    | assumption | intro _ | apply Mem.ite | apply Mem.foldl | apply State.setOct_wf | apply State.setNat_wf

theorem State.bootStores_wf {s : State} (hs : Mem s) : Mem (State.bootStores s) := by
  unfold State.bootStores; try dsimp only
  repeat' with_reducible
    first
    | assumption | apply State.setNat_wf | (simp only [Mem.mk_eq]; refine ⟨?_, ?_, ?_, ?_, ?_, ?_, ?_, ?_, ?_⟩)
    | exact Tbl.wf_nil _ | apply Mem.regs | apply Mem.octs | apply Mem.areas | apply Mem.hbm | apply Mem.ackMem
    | apply Mem.flash

theorem State.bootPorts_wf {s : State} (hs : Mem s) : Mem (State.bootPorts s) := by
  unfold State.bootPorts; try dsimp only
  repeat' with_reducible
    first
    | assumption | intro _ | apply Mem.ite | apply Mem.foldl | apply State.portTrain_wf

theorem execReady_wf {bootMs : Nat} {s : State} (hs : Mem s) : MemO (execReady bootMs s) := by
  unfold execReady; try dsimp only
  repeat' with_reducible
    first
    | assumption | apply MemO.next | apply MemO.ite | apply State.setNat_wf | apply State.bootStores_wf
    | apply State.bootCores_wf | apply State.bootRetired_wf | apply State.bootPorts_wf | apply State.layersDefault_wf
    | apply State.takeFree_wf | apply State.stopAtReady_wf | apply State.dieEvent_wf | simp only [Mem.irrel_eq]

theorem State.proxyPass_wf {s : State} {n total : Nat} {rd : Nat → Nat → List Byte} (hs : Mem s) : Mem (State.proxyPass s n total rd) := by
  unfold State.proxyPass; try dsimp only
  repeat' with_reducible
    first
    | assumption | intro _ | apply Mem.foldl | apply State.emit_wf | apply State.wrapAdd_wf

theorem execProxyForward_wf {s : State} (hs : Mem s) : MemO (execProxyForward s) := by
  unfold execProxyForward; try dsimp only
  repeat' with_reducible
    first
    | assumption | intro _ | apply MemO.next | apply MemO.ite | apply Mem.ite | apply Mem.foldl
    | apply State.setPort_wf | apply State.proxyPass_wf

theorem writeProxySend_wf {v : Word} {s : State} {u2 : EntLoc} (hs : Mem s) : MemE (writeProxySend v s u2) := by
  unfold writeProxySend; try dsimp only
  repeat' with_reducible
    first
    | assumption | intro _ | apply MemE.ok | exact MemE.error _ | apply MemE.ite | apply Mem.ite | apply Mem.foldl
    | apply State.proxyPass_wf | simp only [Mem.irrel_eq]

theorem execProxySend_wf {who : Requester} {v : Word} {s : State} (hs : Mem s) : MemO (execProxySend who v s) := by
  unfold execProxySend; try dsimp only
  repeat' with_reducible
    first
    | assumption | intro _ | apply MemO.next | apply State.slotWrite_wf | apply writeProxySend_wf

theorem execProxySendDone_wf {s : State} (hs : Mem s) : MemO (execProxySendDone s) := by
  unfold execProxySendDone; try dsimp only
  repeat' with_reducible
    first
    | assumption | apply MemO.next | simp only [Mem.irrel_eq]

theorem writeFloorRaise_wf {v : Word} {s : State} {u2 : EntLoc} (hs : Mem s) : MemE (writeFloorRaise v s u2) := by
  unfold writeFloorRaise; try dsimp only
  repeat' with_reducible
    first
    | assumption | apply MemE.orRefuse | apply State.setReg_wf

theorem execFwFloorRaise_wf {who : Requester} {v : Word} {s : State} (hs : Mem s) : MemO (execFwFloorRaise who v s) := by
  unfold execFwFloorRaise; try dsimp only
  repeat' with_reducible
    first
    | assumption | intro _ | apply MemO.next | apply State.slotWrite_wf | apply writeFloorRaise_wf

theorem State.apertureFault_wf {s : State} {p : Nat} (hs : Mem s) : Mem (State.apertureFault s p) := by
  unfold State.apertureFault; try dsimp only
  repeat' with_reducible
    first
    | assumption | apply State.bump_wf

theorem bar4ReadLine_wf {p : Nat} {bad : Option Nat} {a : Bool × State} {x : Nat × List Byte} (ha : Mem a.2) : Mem (bar4ReadLine p bad a x).2 := by
  unfold bar4ReadLine; try dsimp only
  repeat' with_reducible
    first
    | assumption | apply Mem.dite2 | apply State.translate_wf | apply State.emit_wf | apply State.mscTouch_wf
    | simp only [Mem.irrel_eq] | refine Mem.snd (by assumption) ?_ | split

theorem bar4WriteLine_wf {p : Nat} {a : Bool × State} {x : Nat × List Byte} (ha : Mem a.2) : Mem (bar4WriteLine p a x).2 := by
  unfold bar4WriteLine; try dsimp only
  repeat' with_reducible
    first
    | assumption | apply State.translate_wf | apply State.hbmPut_wf | simp only [Mem.irrel_eq]
    | refine Mem.snd (by assumption) ?_ | split

theorem State.bar4Table_wf {s : State} {pa : Nat} (hs : Mem s) : Mem (State.bar4Table s pa) := by
  unfold State.bar4Table; try dsimp only
  repeat' with_reducible
    first
    | assumption | apply State.bump_wf | apply State.hbmError_wf

theorem State.bar4Read_wf {s : State} {p off n : Nat} {bad tableBad : Option Nat} (hs : Mem s) : Mem (State.bar4Read s p off n bad tableBad) := by
  unfold State.bar4Read; try dsimp only
  repeat' with_reducible
    first
    | assumption | intro _ | apply Mem.ite | apply Mem.foldl | apply Mem.foldl2 | apply State.emit_wf
    | apply State.bar4Table_wf | apply bar4ReadLine_wf | apply State.hbmError_wf | apply State.apertureFault_wf
    | split

theorem State.bar4Write_wf {s : State} {p off : Nat} {l : List Byte} {tableBad : Option Nat} (hs : Mem s) : Mem (State.bar4Write s p off l tableBad) := by
  unfold State.bar4Write; try dsimp only
  repeat' with_reducible
    first
    | assumption | intro _ | apply Mem.ite | apply Mem.foldl2 | apply State.bar4Table_wf | apply bar4WriteLine_wf
    | apply State.settleCuts_wf | apply State.apertureFault_wf | split

theorem execBar4Access_wf {fn off : Nat} {req : Bar4Req} {s : State} (hs : Mem s) : MemO (execBar4Access fn off req s) := by
  unfold execBar4Access; try dsimp only
  repeat' with_reducible
    first
    | assumption | apply MemO.next | apply MemO.ite | apply State.emit_wf | apply State.bar4Read_wf
    | apply State.bump_wf | apply State.bar4Write_wf | apply State.stageWrite_wf | split

theorem State.flushVecs_wf {s : State} {fn : Nat} (hs : Mem s) : Mem (State.flushVecs s fn) := by
  unfold State.flushVecs; try dsimp only
  repeat' with_reducible
    first
    | assumption | intro _ | apply Mem.ite | apply Mem.foldl | apply State.setFn_wf | apply State.emit_wf

theorem State.flushHeld_wf {s : State} {fn : Nat} (hs : Mem s) : Mem (State.flushHeld s fn) := by
  unfold State.flushHeld; try dsimp only
  repeat' with_reducible
    first
    | assumption | intro _ | apply Mem.ite | apply Mem.foldl | apply State.setFn_wf | apply State.hostWrite_wf

theorem execMsixUnmask_wf {fn : Nat} {vec : Option Nat} {s : State} (hs : Mem s) : MemO (execMsixUnmask fn vec s) := by
  unfold execMsixUnmask; try dsimp only
  repeat' with_reducible
    first
    | assumption | apply MemO.next | apply MemO.ite | apply State.setFn_wf | apply State.flushVecs_wf | split

theorem execBusMasterEnable_wf {fn : Nat} {d0 : Bool} {s : State} (hs : Mem s) : MemO (execBusMasterEnable fn d0 s) := by
  unfold execBusMasterEnable; try dsimp only
  repeat' with_reducible
    first
    | assumption | apply MemO.next | apply MemO.ite | apply State.setFn_wf | apply State.flushHeld_wf
    | apply State.flushVecs_wf

theorem execBusMasterDisable_wf {fn : Nat} {d3 : Bool} {s : State} (hs : Mem s) : MemO (execBusMasterDisable fn d3 s) := by
  unfold execBusMasterDisable; try dsimp only
  repeat' with_reducible
    first
    | assumption | apply MemO.next | apply MemO.ite | apply State.setFn_wf

theorem State.resetFn_wf {s : State} {fn : Nat} (hs : Mem s) : Mem (State.resetFn s fn) := by
  unfold State.resetFn; try dsimp only
  repeat' with_reducible
    first
    | assumption | apply State.setFn_wf

theorem State.abortIfReady_wf {s : State} {p : Nat} (hs : Mem s) : Mem (State.abortIfReady s p) := by
  unfold State.abortIfReady; try dsimp only
  repeat' with_reducible
    first
    | assumption | apply Mem.ite | apply State.abortPart_wf

theorem State.vfsOff_wf {s : State} (hs : Mem s) : Mem (State.vfsOff s) := by
  unfold State.vfsOff; try dsimp only
  repeat' with_reducible
    first
    | assumption | intro _ | apply Mem.ite | apply Mem.foldl | apply State.abortIfReady_wf | apply State.resetFn_wf
    | apply State.setNat_wf

theorem execVfEnableSet_wf {numVfs : Nat} {s : State} (hs : Mem s) : MemO (execVfEnableSet numVfs s) := by
  unfold execVfEnableSet; try dsimp only
  repeat' with_reducible
    first
    | assumption | apply MemO.next | apply MemO.ite | apply State.setNat_wf

theorem execVfEnableClear_wf {s : State} (hs : Mem s) : MemO (execVfEnableClear s) := by
  unfold execVfEnableClear; try dsimp only
  repeat' with_reducible
    first
    | assumption | apply MemO.next | apply MemO.ite | apply State.vfsOff_wf

theorem execFlr_wf {fn : Nat} {s : State} (hs : Mem s) : MemO (execFlr fn s) := by
  unfold execFlr; try dsimp only
  repeat' with_reducible
    first
    | assumption | apply MemO.next | apply MemO.ite | apply Mem.ite | apply State.bump_wf
    | apply State.abortIfReady_wf | apply State.resetFn_wf | apply State.vfsOff_wf | apply State.ptmOff_wf
    | apply State.emptyStage_wf

theorem execDlDown_wf {s : State} (hs : Mem s) : MemO (execDlDown s) := by
  unfold execDlDown; try dsimp only
  repeat' with_reducible
    first
    | assumption | apply MemO.next | apply MemO.ite | apply State.warmReset_wf | simp only [Mem.irrel_eq]

theorem execDlUp_wf {s : State} (hs : Mem s) : MemO (execDlUp s) := by
  unfold execDlUp; try dsimp only
  repeat' with_reducible
    first
    | assumption | apply MemO.next | simp only [Mem.irrel_eq]

theorem State.modRecovery_wf {s : State} {f sl : Nat} {g : Recovery → Recovery} (hs : Mem s) : Mem (State.modRecovery s f sl g) := by
  unfold State.modRecovery; try dsimp only
  repeat' with_reducible
    first
    | assumption | simp only [Mem.irrel_eq]

theorem State.recordMap_wf {s : State} (hs : Mem s) : Mem (State.recordMap s) := by
  unfold State.recordMap; try dsimp only
  repeat' with_reducible
    first
    | assumption | simp only [Mem.irrel_eq]

theorem State.fenceCore_wf {s : State} {c cause : Nat} (hs : Mem s) : Mem (State.fenceCore s c cause) := by
  unfold State.fenceCore; try dsimp only
  repeat' with_reducible
    first
    | assumption | apply State.setNat_wf | apply State.dieEvent_wf | simp only [Mem.irrel_eq]

theorem State.spendSpare_wf {s : State} {c : Nat} (hs : Mem s) : Mem (State.spendSpare s c) := by
  unfold State.spendSpare; try dsimp only
  repeat' with_reducible
    first
    | assumption | apply State.setNat_wf

theorem State.dropHold_wf {s : State} {p : Nat} (hs : Mem s) : Mem (State.dropHold s p) := by
  unfold State.dropHold; try dsimp only
  repeat' with_reducible
    first
    | assumption | apply Mem.ite | apply State.setNat_wf

theorem State.capacityHalt_wf {s : State} {p : Nat} (hs : Mem s) : Mem (State.capacityHalt s p) := by
  unfold State.capacityHalt; try dsimp only
  repeat' with_reducible
    first
    | assumption | apply Mem.ite | apply State.haltPart_wf | apply State.setNat_wf

theorem State.unmapSlot_wf {s : State} {f sl : Nat} (hs : Mem s) : Mem (State.unmapSlot s f sl) := by
  unfold State.unmapSlot; try dsimp only
  repeat' with_reducible
    first
    | assumption | apply Mem.ite | apply State.setNat_wf | apply State.recordMap_wf | apply State.dieEvent_wf
    | apply State.capacityHalt_wf | apply State.dropHold_wf | simp only [Mem.irrel_eq]

theorem State.endHold_wf {s : State} {p : Nat} (hs : Mem s) : Mem (State.endHold s p) := by
  unfold State.endHold; try dsimp only
  repeat' with_reducible
    first
    | assumption | apply Mem.ite | apply State.setNat_wf | apply State.bump_wf | apply State.dieEvent_wf
    | simp only [Mem.irrel_eq]

theorem State.cmuFault_wf {s : State} {f : Nat} (hs : Mem s) : Mem (State.cmuFault s f) := by
  unfold State.cmuFault; try dsimp only
  repeat' with_reducible
    first
    | assumption | apply State.setNat_wf | apply State.dieEvent_wf | simp only [Mem.irrel_eq]

theorem execWatchdogExpiry_wf {cmu : Bool} {unit : Nat} {s : State} (hs : Mem s) : MemO (execWatchdogExpiry cmu unit s) := by
  unfold execWatchdogExpiry; try dsimp only
  repeat' with_reducible
    first
    | assumption | apply MemO.next | apply MemO.ite | apply State.cmuFault_wf | apply State.coreFault_wf | split

theorem writeCoreFence_wf {c : Nat} {v : Word} {s : State} {u3 : EntLoc} (hs : Mem s) : MemE (writeCoreFence c v s u3) := by
  unfold writeCoreFence; try dsimp only
  repeat' with_reducible
    first
    | assumption | apply MemE.ok | apply MemE.ite | apply State.fenceCore_wf | apply State.spendSpare_wf
    | apply State.coreFault_wf

theorem execCoreFence_wf {who : Requester} {core : Nat} {v : Word} {s : State} (hs : Mem s) : MemO (execCoreFence who core v s) := by
  unfold execCoreFence; try dsimp only
  repeat' with_reducible
    first
    | assumption | intro _ | apply MemO.next | apply State.slotWrite_wf | apply writeCoreFence_wf

theorem State.copyGens_wf {s : State} {src dst : Nat} (hs : Mem s) : Mem (State.copyGens s src dst) := by
  unfold State.copyGens; try dsimp only
  repeat' with_reducible
    first
    | assumption | intro _ | apply Mem.foldl | simp only [Mem.irrel_eq]

theorem State.mapSpare_wf {s : State} {r : Recovery} {c : Nat} (hs : Mem s) : Mem (State.mapSpare s r c) := by
  unfold State.mapSpare; try dsimp only
  repeat' with_reducible
    first
    | assumption | apply State.spendSpare_wf | apply State.setNat_wf | apply State.recordMap_wf
    | apply State.setReg_wf | apply State.copyGens_wf | apply State.dieEvent_wf | apply State.modRecovery_wf
    | simp only [Mem.irrel_eq]

theorem execSpareMapped_wf {frond slot : Nat} {s : State} (hs : Mem s) : MemO (execSpareMapped frond slot s) := by
  unfold execSpareMapped; try dsimp only
  repeat' with_reducible
    first
    | assumption | apply MemO.next | apply MemO.ite | apply Mem.ite | apply State.fenceCore_wf
    | apply State.mapSpare_wf | apply State.unmapSlot_wf | split

theorem execSpareSelftestDone_wf {frond slot : Nat} {ok : Bool} {s : State} (hs : Mem s) : MemO (execSpareSelftestDone frond slot ok s) := by
  unfold execSpareSelftestDone; try dsimp only
  repeat' with_reducible
    first
    | assumption | apply MemO.next | apply MemO.ite | apply State.zeroCore_wf | apply State.setNat_wf
    | apply State.modRecovery_wf | apply State.fenceCore_wf | split

theorem execReloadStart_wf {frond slot : Nat} {s : State} (hs : Mem s) : MemO (execReloadStart frond slot s) := by
  unfold execReloadStart; try dsimp only
  repeat' with_reducible
    first
    | assumption | apply MemO.next | apply MemO.ite | apply Mem.ite | apply State.bump_wf | apply State.modRecovery_wf
    | split

theorem State.reloadRange_wf {s : State} {p c : Nat} {x : Nat × Nat × Nat} (hs : Mem s) : Mem (State.reloadRange s p c x) := by
  unfold State.reloadRange; try dsimp only
  repeat' with_reducible
    first
    | assumption | apply Mem.ite | apply State.lsPut_wf | apply State.bump_wf

theorem execReloadLanded_wf {frond slot : Nat} {s : State} (hs : Mem s) : MemO (execReloadLanded frond slot s) := by
  unfold execReloadLanded; try dsimp only
  repeat' with_reducible
    first
    | assumption | intro _ | apply MemO.next | apply MemO.ite | apply Mem.foldl | apply State.reloadRange_wf
    | apply State.modRecovery_wf | split

theorem State.restoreGens_wf {s : State} {c : Nat} {l : List (Nat × Nat)} (hs : Mem s) : Mem (State.restoreGens s c l) := by
  unfold State.restoreGens; try dsimp only
  repeat' with_reducible
    first
    | assumption | intro _ | apply Mem.foldl | simp only [Mem.irrel_eq]

theorem State.onRunning_wf {s : State} {id : Nat} {f : State → Desc → State} (hs : Mem s) (hf : ∀ x0 x1, Mem x0 → Mem (f x0 x1)) : Mem (State.onRunning s id f) := by
  unfold State.onRunning; try dsimp only
  repeat' with_reducible
    first
    | assumption | apply Mem.ite | apply hf | split

theorem State.runTile_wf {s : State} {d : Desc} {c : Nat} {o : RunObs} (hs : Mem s) : Mem (State.runTile s d c o) := by
  unfold State.runTile; try dsimp only
  repeat' with_reducible
    first
    | assumption | apply Mem.ite | apply State.runDrain_wf | apply State.runQuantise_wf | apply State.runScore_wf
    | apply State.runRecompute_wf | apply State.runNorm_wf | apply State.runAppend_wf

theorem State.runTiles_wf {n : Nat} {s : State} {id c : Nat} {o : RunObs} (hs : Mem s) : Mem (State.runTiles n s id c o) := by
  induction n generalizing s o with
  | zero => exact hs
  | succ n ih =>
    unfold State.runTiles; try dsimp only
    repeat' with_reducible
      first
      | assumption | intro _ | apply Mem.ite | apply ih | apply State.onRunning_wf | apply State.startTile_wf
      | apply State.landTile_wf | apply State.runTile_wf | simp only [Mem.irrel_eq] | split

theorem State.runTiled_wf {s : State} {id c : Nat} {o : RunObs} (hs : Mem s) : Mem (State.runTiled s id c o) := by
  unfold State.runTiled; try dsimp only
  repeat' with_reducible
    first
    | assumption | intro _ | apply Mem.ite | apply State.onRunning_wf | apply State.landBounds_wf
    | apply State.landWalk_wf | apply State.runTiles_wf | split

theorem State.runWhole_wf {s : State} {id c : Nat} {o : RunObs} (hs : Mem s) : Mem (State.runWhole s id c o) := by
  unfold State.runWhole; try dsimp only
  repeat' with_reducible
    first
    | assumption | intro _ | apply Mem.ite | apply State.onRunning_wf | apply State.work_wf | apply State.runTiled_wf
    | apply State.landWhere_wf | apply State.spend_wf | apply State.endDesc_wf | apply State.bump_wf
    | apply State.runReduce_wf | apply State.runFill_wf | apply State.runCopy_wf | apply State.runTransfer_wf
    | apply State.runBucketForm_wf | apply State.tearTorn_wf

theorem State.rebuildRun_wf {s run : State} {f c : Nat} {d : Desc} {o : RunObs} {pop : State → State} (hs : Mem s)
    (hrun : Mem run) (hpop : ∀ s, Mem s → Mem (pop s)) : Mem (s.rebuildRun run f c d o pop) := by
  unfold State.rebuildRun
  extract_lets src d' t counted faults counted2 t2
  have ht : Mem t := State.runWhole_wf (State.restoreGens_wf (by simp only [Mem.irrel_eq]; exact hrun))
  have hc : Mem counted := by
    simp only [counted, Mem.regs_eq]
    exact ⟨splice_wf (by omega) (splice_wf (by omega) hs.regs ht.regs) ht.regs, hs.but 0⟩
  have hc2 : Mem counted2 := Mem.foldl hc fun s x h => State.coreFault_wf h
  have ht2 : Mem t2 := State.landWhere_wf ht
  refine Mem.ite hs (Mem.ite hc2 (hpop _ ?_))
  exact Mem.gen hc2.regs hc2.octs hc2.areas (splice_wf (by omega) hs.ls ht2.ls) hc2.fs (splice_wf (by omega) hs.acc ht2.acc)
    hc2.hbm hc2.ackMem hc2.flash

theorem State.reissueRun_wf {s run : State} {c : Nat} {r : Recovery} {d : Desc} {o : RunObs} {pop : State → State} (hs : Mem s) (hrun : Mem run) (hpop : ∀ x0, Mem x0 → Mem (pop x0)) : Mem (State.reissueRun s run c r d o pop) := by
  unfold State.reissueRun; try dsimp only
  repeat' with_reducible
    first
    | assumption | apply Mem.ite | apply State.modDesc_wf | apply State.restoreGens_wf | apply State.runWhole_wf
    | apply hpop | simp only [Mem.irrel_eq]

theorem execRecoveryRunDone_wf {frond slot : Nat} {o : RunObs} {s : State} (hs : Mem s) : MemO (execRecoveryRunDone frond slot o s) := by
  unfold execRecoveryRunDone; try dsimp only
  repeat' with_reducible
    first
    | assumption | intro _ | apply MemO.next | apply MemO.ite | apply State.modRecovery_wf | apply State.reissueRun_wf
    | apply State.rebuildRun_wf | simp only [Mem.irrel_eq] | split

theorem execRecoveryDone_wf {part : Nat} {s : State} (hs : Mem s) : MemO (execRecoveryDone part s) := by
  unfold execRecoveryDone; try dsimp only
  repeat' with_reducible
    first
    | assumption | apply MemO.next | apply MemO.ite | apply State.endHold_wf

theorem execFcRestart_wf {frond : Nat} {s : State} (hs : Mem s) : MemO (execFcRestart frond s) := by
  unfold execFcRestart; try dsimp only
  repeat' with_reducible
    first
    | assumption | intro _ | apply MemO.next | apply MemO.ite | apply Mem.foldl | apply State.bump_wf
    | apply State.dieEvent_wf | apply State.squashPart_wf | apply State.setNat_wf | simp only [Mem.irrel_eq]

theorem State.failFrond_wf {s : State} {f : Nat} (hs : Mem s) : Mem (State.failFrond s f) := by
  unfold State.failFrond; try dsimp only
  repeat' with_reducible
    first
    | assumption | intro _ | apply Mem.foldl | apply State.fenceCore_wf | apply State.unmapSlot_wf
    | apply State.spendSpare_wf | simp only [Mem.irrel_eq] | split

theorem execFcRestartDone_wf {frond : Nat} {ok : Bool} {s : State} (hs : Mem s) : MemO (execFcRestartDone frond ok s) := by
  unfold execFcRestartDone; try dsimp only
  repeat' with_reducible
    first
    | assumption | intro _ | apply MemO.next | apply MemO.ite | apply Mem.foldl | apply State.dropHold_wf
    | apply State.failFrond_wf | apply State.endHold_wf | simp only [Mem.irrel_eq] | split

theorem swapVerify_wf {sigOk : Bool} {s : State} {u2 : EntLoc} (hs : Mem s) : MemE (swapVerify sigOk s u2) := by
  unfold swapVerify; try dsimp only
  repeat' with_reducible
    first
    | assumption | apply MemE.ok | exact MemE.error _ | apply MemE.ite | apply State.setNat_wf
    | simp only [Mem.irrel_eq]

theorem execFwSwapVerify_wf {who : Requester} {sigOk : Bool} {s : State} (hs : Mem s) : MemO (execFwSwapVerify who sigOk s) := by
  unfold execFwSwapVerify; try dsimp only
  repeat' with_reducible
    first
    | assumption | intro _ | apply MemO.next | apply State.slotWrite_wf | apply swapVerify_wf

theorem execFwSwapStaged_wf {s : State} (hs : Mem s) : MemO (execFwSwapStaged s) := by
  unfold execFwSwapStaged; try dsimp only
  repeat' with_reducible
    first
    | assumption | apply MemO.next | apply MemO.ite | apply State.setNat_wf

theorem swapArm_wf {s : State} {u1 : EntLoc} (hs : Mem s) : MemE (swapArm s u1) := by
  unfold swapArm; try dsimp only
  repeat' with_reducible
    first
    | assumption | apply MemE.orRefuse | apply State.setNat_wf

theorem execFwSwapSwap_wf {who : Requester} {s : State} (hs : Mem s) : MemO (execFwSwapSwap who s) := by
  unfold execFwSwapSwap; try dsimp only
  repeat' with_reducible
    first
    | assumption | intro _ | apply MemO.next | apply State.slotWrite_wf | apply swapArm_wf

theorem swapRevert_wf {s : State} {u1 : EntLoc} (hs : Mem s) : MemE (swapRevert s u1) := by
  unfold swapRevert; try dsimp only
  repeat' with_reducible
    first
    | assumption | apply MemE.orRefuse | apply State.setNat_wf

theorem execFwSwapRevert_wf {who : Requester} {s : State} (hs : Mem s) : MemO (execFwSwapRevert who s) := by
  unfold execFwSwapRevert; try dsimp only
  repeat' with_reducible
    first
    | assumption | intro _ | apply MemO.next | apply State.slotWrite_wf | apply swapRevert_wf

theorem swapCancel_wf {s : State} {u1 : EntLoc} (hs : Mem s) : MemE (swapCancel s u1) := by
  unfold swapCancel; try dsimp only
  repeat' with_reducible
    first
    | assumption | apply MemE.ok | exact MemE.error _ | apply MemE.ite | apply State.setNat_wf
    | simp only [Mem.irrel_eq]

theorem execFwSwapCancel_wf {who : Requester} {s : State} (hs : Mem s) : MemO (execFwSwapCancel who s) := by
  unfold execFwSwapCancel; try dsimp only
  repeat' with_reducible
    first
    | assumption | intro _ | apply MemO.next | apply State.slotWrite_wf | apply swapCancel_wf

theorem execFwSwapApply_wf {s : State} (hs : Mem s) : MemO (execFwSwapApply s) := by
  unfold execFwSwapApply; try dsimp only
  repeat' with_reducible
    first
    | assumption | apply MemO.next | apply MemO.ite | apply State.setNat_wf | apply State.dieEvent_wf
    | simp only [Mem.irrel_eq] | split

theorem after_wf {o : Host.Outcome State Fault Refusal} {s : State} (ho : MemO o) (hs : Mem s) : Mem (after o s) := by
  cases ho with
  | next h => exact h
  | refused => exact hs

theorem State.forcePolarity_wf {s : State} {v : Nat} (hs : Mem s) : Mem (State.forcePolarity s v) := by
  unfold State.forcePolarity; try dsimp only
  repeat' with_reducible
    first
    | assumption | apply Mem.ite | apply State.setReg_wf | apply State.syncEvent_wf | simp only [Mem.irrel_eq]

theorem State.rewire_wf {s : State} {n : Nat} (hs : Mem s) : Mem (State.rewire s n) := by
  unfold State.rewire; try dsimp only
  repeat' with_reducible
    first
    | assumption | apply Mem.ite | apply State.portEvent_wf | apply State.setPort_wf

theorem pokeEntry_wf {who : Requester} {k : Nat} {v : Word} {s : State} {l : EntLoc} (hs : Mem s) : MemE (pokeEntry who k v s l) := by
  unfold pokeEntry; try dsimp only
  repeat' with_reducible
    first
    | assumption | apply MemE.ok | apply MemE.ite | apply MemE.orRefuse | apply State.setReg_wf
    | apply State.clearFlags_wf | apply State.alertEdge_wf | apply State.forcePolarity_wf | apply State.rewire_wf
    | split

theorem State.ownCommand_wf {s : State} {who : Requester} {l : EntLoc} {k sub : Nat} {v : Word}
    {o : Host.Outcome State Fault Refusal} (hs : Mem s) (e : s.ownCommand who l k sub v = some o) : MemO o := by
  unfold State.ownCommand at e
  dsimp only at e
  split at e <;> (try cases e) <;> (
    repeat' with_reducible
      first
      | assumption | apply MemO.next | apply MemO.ite | apply Mem.ite | apply execPartCreate_wf
      | apply execPartDestroy_wf | apply execPartHalt_wf | apply execPartResume_wf | apply execPartAbort_wf
      | apply execRingCreate_wf | apply execRingEnable_wf | apply execRingDisable_wf | apply execRingDestroy_wf
      | apply execCtxCreate_wf | apply State.slotWrite_wf | apply destroyCtx_wf | apply execFenceCreate_wf
      | apply destroyFence_wf | apply signalFenceCmd_wf | apply resetFenceCmd_wf | apply execFenceHandleWrite_wf
      | apply execFenceSubsWrite_wf | apply execSwitchFrameWrite_wf | apply execFrameSeedWrite_wf
      | apply execPlaneWrite_wf | apply execFwVerify_wf | apply execFwClear_wf | apply execFwFloorRaise_wf
      | apply execProxySend_wf | apply execPersistSave_wf | apply execPersistErase_wf | apply execFwSwapVerify_wf
      | apply State.takeFree_wf | apply execFwSwapSwap_wf | apply execFwSwapRevert_wf | apply execFwSwapCancel_wf
      | apply execStopRearm_wf | apply execCoreOwnerWrite_wf | apply execFsWeightMapWrite_wf
      | apply execLsWeightMapWrite_wf | apply execLsSpecMapWrite_wf | apply execResidueInjectWrite_wf
      | apply execCoreFence_wf | apply execPrecLayerWrite_wf | apply execShapeRegWrite_wf
      | apply execBucketEdgeWrite_wf | apply execRopeSetWrite_wf | apply execKvPoolConfigWrite_wf
      | apply execRecompConsWrite_wf | apply execMapBaseWrite_wf | apply execMapSync_wf | apply execRunaheadWrite_wf
      | apply execPortDisable_wf | apply execPortEnable_wf | apply execRestoreLane_wf | apply execSlotTableWrite_wf
      | apply execSlotSwitchFrameWrite_wf | apply execStreamDown_wf | apply execStreamUp_wf | apply execRegionWrite_wf
      | apply execWinClose_wf | apply execWinOpen_wf | apply execWinConsumedWrite_wf | apply execPowerOn_wf
      | apply execPowerOff_wf | apply execChipReset_wf | apply execPowerCycle_wf | apply execUpdateOpen_wf
      | apply execUpdateVerify_wf | apply execUpdateActivate_wf | apply execUpdateCommit_wf
      | apply execUpdateCancel_wf | apply execGroupDefWrite_wf | simp only [Mem.irrel_eq] | split)

theorem dictClear_wf {who : Requester} {v : Word} {s : State} {u3 : EntLoc} (hs : Mem s) : MemE (dictClear who v s u3) := by
  unfold dictClear; try dsimp only
  repeat' with_reducible
    first
    | assumption | apply MemE.ok | apply Mem.ite | apply State.setArea_wf

theorem execDictClear_wf {who : Requester} {v : Word} {s : State} (hs : Mem s) : MemO (execDictClear who v s) := by
  unfold execDictClear; try dsimp only
  repeat' with_reducible
    first
    | assumption | intro _ | apply MemO.next | apply State.slotWrite_wf | apply dictClear_wf

theorem pokeLong_wf {k : Nat} {bytes : List Byte} {s : State} {l : EntLoc} (hs : Mem s) : MemE (pokeLong k bytes s l) := by
  unfold pokeLong; try dsimp only
  repeat' with_reducible
    first
    | assumption | apply MemE.ok | apply MemE.ite | apply MemE.orRefuse | apply State.setOctFrom_wf

theorem State.writeLong_wf {s : State} {who : Requester} {idx sub : Nat} {bytes : List Byte} (hs : Mem s) : Mem (State.writeLong s who idx sub bytes) := by
  unfold State.writeLong; try dsimp only
  repeat' with_reducible
    first
    | assumption | intro _ | apply State.dictLong_wf | apply pokeLong_wf | apply after_wf | apply execFsOwnerWrite_wf
    | apply execGranuleOwnerWrite_wf | apply execUpdateChunk_wf | apply execStreamAckWrite_wf | split

theorem State.setBulk_wf {s : State} {who : Requester} {i : Nat} {bytes : List Byte} (hs : Mem s) : Mem (State.setBulk s who i bytes) := by
  unfold State.setBulk; try dsimp only
  repeat' with_reducible
    first
    | assumption | intro _ | apply Mem.foldl | apply State.setArea_wf

theorem State.bulkRead_wf {s : State} {who : Requester} {idx sub : Nat} (hs : Mem s) : Mem (State.bulkRead s who idx sub) := by
  unfold State.bulkRead; try dsimp only
  repeat' with_reducible
    first
    | assumption | apply Mem.ite | apply State.refuse_wf | apply State.setBulk_wf | apply State.setArea_wf
    | apply State.applied_wf | split

theorem State.bulkWrite_wf {s : State} {who : Requester} {idx sub len : Nat} (hs : Mem s) : Mem (State.bulkWrite s who idx sub len) := by
  unfold State.bulkWrite; try dsimp only
  repeat' with_reducible
    first
    | assumption | apply Mem.ite | apply State.refuse_wf | apply State.writeLong_wf | split

theorem State.bulkCtrl_wf {s : State} {who : Requester} {n : Nat} (hs : Mem s) : Mem (State.bulkCtrl s who n) := by
  unfold State.bulkCtrl; try dsimp only
  repeat' with_reducible
    first
    | assumption | apply Mem.ite | apply State.refuse_wf | apply State.bulkRead_wf | apply State.bulkWrite_wf

theorem execBulkRead_wf {who : Requester} {idx sub : Nat} {s : State} (hs : Mem s) : MemO (execBulkRead who idx sub s) := by
  unfold execBulkRead; try dsimp only
  repeat' with_reducible
    first
    | assumption | apply MemO.next | apply State.bulkRead_wf

theorem execBulkWrite_wf {who : Requester} {idx sub len : Nat} {s : State} (hs : Mem s) : MemO (execBulkWrite who idx sub len s) := by
  unfold execBulkWrite; try dsimp only
  repeat' with_reducible
    first
    | assumption | apply MemO.next | apply State.bulkWrite_wf

theorem State.writeSlot_wf {s : State} {who : Requester} {idx sub : Nat} {v : Word} (hs : Mem s) : Mem (State.writeSlot s who idx sub v) := by
  unfold State.writeSlot; try dsimp only
  repeat' with_reducible
    first
    | assumption | intro _ | apply MemE.ok | apply Mem.ite | apply State.dictSlot_wf | apply pokeEntry_wf
    | apply after_wf | apply execSwitchFrameWrite_wf | apply State.bulkCtrl_wf | apply State.setArea_wf
    | apply execDictClear_wf | exact State.ownCommand_wf (by assumption) (by assumption) | split

theorem execDictWrite_wf {who : Requester} {offset bytes : Nat} {v : Word} {s : State} (hs : Mem s) : MemO (execDictWrite who offset bytes v s) := by
  unfold execDictWrite; try dsimp only
  repeat' with_reducible
    first
    | assumption | apply MemO.next | exact MemO.refused | apply MemO.ite | apply Mem.ite | apply State.refuse_wf
    | apply State.writeSlot_wf | split

theorem State.slotRead_wf {s : State} {who : Requester} {offset bytes : Nat} (hs : Mem s) : Mem (State.slotRead s who offset bytes).2 := by
  unfold State.slotRead; try dsimp only
  repeat' with_reducible
    first
    | assumption | apply Mem.ite | apply Mem.dite2 | apply State.refuse_wf | apply State.takeFree_wf | split

theorem State.bar2Read_wf {s : State} {who : Requester} {offset bytes : Nat} {x : Word × State} (hs : Mem s)
    (e : s.bar2Read who offset bytes = some x) : Mem x.2 := by
  unfold State.bar2Read at e
  split at e
  · cases e
  · cases e; exact State.slotRead_wf hs

theorem State.respond_wf {t s : State} {b : List Byte} (ht : Mem t) (hs : Mem s) : Mem (State.respond t s b) := by
  unfold State.respond; try dsimp only
  repeat' with_reducible
    first
    | assumption | apply Mem.ite | apply State.sendStrings_wf | apply State.emit_wf

theorem State.request_wf {s : State} {node : Nat} {f : State → State} (hs : Mem s) (hf : ∀ x0, Mem x0 → Mem (f x0)) : Mem (State.request s node f) := by
  unfold State.request; try dsimp only
  repeat' with_reducible
    first
    | assumption | intro _ | apply Mem.ite | apply State.fromNode_wf | apply hf

theorem State.sampled_wf {s : State} {l : EntLoc} (hs : Mem s) : Mem (State.sampled s l) := by
  unfold State.sampled; try dsimp only
  repeat' with_reducible
    first
    | assumption | apply Mem.ite | apply State.takeFree_wf

theorem State.stringsWrite_wf {s : State} {who : Requester} {idx sub : Nat} {bytes : List Byte} (hs : Mem s) : Mem (State.stringsWrite s who idx sub bytes) := by
  unfold State.stringsWrite; try dsimp only
  repeat' with_reducible
    first
    | assumption | apply Mem.ite | apply State.refuse_wf | apply State.writeLong_wf | apply State.writeSlot_wf | split

theorem execDapRead_wf {node txn idx sub : Nat} {s : State} (hs : Mem s) : MemO (execDapRead node txn idx sub s) := by
  unfold execDapRead; try dsimp only
  repeat' with_reducible
    first
    | assumption | intro _ | apply MemO.next | apply Mem.ite | apply State.request_wf | apply State.respond_wf
    | apply State.refuse_wf | apply State.sampled_wf | split

theorem execDapWrite_wf {node txn idx sub : Nat} {v : List Byte} {s : State} (hs : Mem s) : MemO (execDapWrite node txn idx sub v s) := by
  unfold execDapWrite; try dsimp only
  repeat' with_reducible
    first
    | assumption | intro _ | apply MemO.next | apply Mem.ite | apply State.request_wf | apply State.respond_wf
    | apply State.stringsWrite_wf

theorem State.dropSeg_wf {s : State} {node : Nat} (hs : Mem s) : Mem (State.dropSeg s node) := by
  unfold State.dropSeg; try dsimp only
  repeat' with_reducible
    first
    | assumption | simp only [Mem.irrel_eq]

theorem State.putSeg_wf {s : State} {x : SegSt} (hs : Mem s) : Mem (State.putSeg s x) := by
  unfold State.putSeg; try dsimp only
  repeat' with_reducible
    first
    | assumption | apply State.dropSeg_wf | simp only [Mem.irrel_eq]

theorem execSegReadInit_wf {node txn idx sub : Nat} {s : State} (hs : Mem s) : MemO (execSegReadInit node txn idx sub s) := by
  unfold execSegReadInit; try dsimp only
  repeat' with_reducible
    first
    | assumption | intro _ | apply MemO.next | apply Mem.ite | apply State.request_wf | apply State.respond_wf
    | apply State.refuse_wf | apply State.sampled_wf | apply State.putSeg_wf | split

theorem execSegWriteInit_wf {node txn idx sub total : Nat} {s : State} (hs : Mem s) : MemO (execSegWriteInit node txn idx sub total s) := by
  unfold execSegWriteInit; try dsimp only
  repeat' with_reducible
    first
    | assumption | intro _ | apply MemO.next | apply Mem.ite | apply State.request_wf | apply State.respond_wf
    | apply State.putSeg_wf

theorem State.segment_wf {s : State} {node txn op idx sub k : Nat} {writes : Bool} {f : SegSt → State → State} (hs : Mem s) (hf : ∀ x0 x1, Mem x1 → Mem (f x0 x1)) : Mem (State.segment s node txn op idx sub k writes f) := by
  unfold State.segment; try dsimp only
  repeat' with_reducible
    first
    | assumption | intro _ | apply Mem.ite | apply State.request_wf | apply State.respond_wf | apply hf | split

theorem execSegReadNext_wf {node txn idx sub k : Nat} {s : State} (hs : Mem s) : MemO (execSegReadNext node txn idx sub k s) := by
  unfold execSegReadNext; try dsimp only
  repeat' with_reducible
    first
    | assumption | intro _ | apply MemO.next | apply Mem.ite | apply State.segment_wf | apply State.respond_wf
    | apply State.putSeg_wf

theorem execSegWriteData_wf {node txn idx sub k : Nat} {bytes : List Byte} {s : State} (hs : Mem s) : MemO (execSegWriteData node txn idx sub k bytes s) := by
  unfold execSegWriteData; try dsimp only
  repeat' with_reducible
    first
    | assumption | intro _ | apply MemO.next | apply Mem.ite | apply State.segment_wf | apply State.respond_wf
    | apply State.stringsWrite_wf | apply State.putSeg_wf

theorem execSegAbort_wf {node txn idx sub : Nat} {s : State} (hs : Mem s) : MemO (execSegAbort node txn idx sub s) := by
  unfold execSegAbort; try dsimp only
  repeat' with_reducible
    first
    | assumption | intro _ | apply MemO.next | apply Mem.ite | apply State.request_wf | apply State.dropSeg_wf
    | apply State.respond_wf | split

theorem execSegTransferTimeout_wf {node : Nat} {s : State} (hs : Mem s) : MemO (execSegTransferTimeout node s) := by
  unfold execSegTransferTimeout; try dsimp only
  repeat' with_reducible
    first
    | assumption | apply MemO.next | apply State.dropSeg_wf

end Sys2Proof.Machine
end

