-- ==== Sys2Proof/WellFormed.lean ====
section
/-!
DEFINITION. WellFormed.lean: the operands a command of the table can carry.

Every object a command names is one the device has (Table 21.1, Table 3.1), every field is as wide as the spec makes it, and
bytes that are a whole entry or a whole acknowledgement have its length.
-/
namespace Sys2Proof

/-- Whether a number names one of `n` things. -/
@[simp] def below (x n : Nat) : Bool := decide (x < n)

/-- Whether a number is a node of the Strings bus (R651). -/
@[simp] def isNode (n : Nat) : Bool := below n 128 && n != 0

/-- Whether a requester exists in some state of the device (R605, R651, R766). DESIGN CHOICE (log 3). -/
def Requester.ok : Requester → Bool
  | .pf => true
  | .vf p => below p 64 && p != 0
  | .strings n => isNode n
  | .marionette => true

/-- Whether a port group is one of a core or a frond that the device has (Table 3.1). -/
def StorePort.ok : StorePort → Bool
  | .lsAct c => below c 144
  | .lsVu c => below c 144
  | .lsSm c => below c 144
  | .fs f => below f 16

/-- Whether a store has such a byte or entry (Table 3.1). -/
def StoreWord.ok : StoreWord → Bool
  | .ls c o => below c 144 && below o (2 ^ 20)
  | .fs f o => below f 16 && below o (2 ^ 22)
  | .acc c e => below c 144 && below e 32768

/-- Whether what a command met is about stores that the device has. -/
def RunObs.ok (o : RunObs) : Bool := (o.lost.all fun x => x.1.ok) && o.upsets.all fun x => x.1.ok

/-- Whether what Lichen met is about stores that the device has. -/
def MaintObs.ok (o : MaintObs) : Bool := o.lost.all fun x => x.1.ok

/-- Whether a command's operands are ones it can carry. DESIGN CHOICE (log 3). -/
@[simp] def Instr.wf : Instr → Bool
  | .frameBoundary _ => true
  | .runaheadStart => true
  | .maintenanceWindow o => o.ok
  | .overrun => true
  | .geometrySwitch => true
  | .switchFrameWrite who _ => who.ok
  | .frameSeedWrite who _ => who.ok
  | .syncInEdge _ _ => true
  | .syncLineFault line => below line 4
  | .syncStuck => true
  | .refQualified ref _ => below ref 19
  | .refLost ref => below ref 19
  | .offsetExceeded => true
  | .lockAcquired => true
  | .freerunEntered => true
  | .stepDone _ _ => true
  | .ptmDialogue => true
  | .ptmResponse _ => true
  | .ptmTimeout => true
  | .ptmEnableClear => true
  | .doorbell fn ring v => below fn 64 && below ring 128 && below v 4294967296
  | .entriesFetched ring => below ring 128
  | .cqConsWrite fn ring v => below fn 64 && below ring 128 && below v 4294967296
  | .nop _ => true
  | .order _ => true
  | .orderBegins _ _ => true
  | .precisionSet _ => true
  | .matmul _ o => o.ok
  | .quantise _ o => o.ok
  | .reduce _ o => o.ok
  | .fill _ o => o.ok
  | .copy _ o => o.ok
  | .transfer _ o => o.ok
  | .bucketForm _ o => o.ok
  | .attnScore _ o => o.ok
  | .attnScoreRecompute _ o => o.ok
  | .attnNorm _ o => o.ok
  | .attnPv _ o => o.ok
  | .kvAppend _ o => o.ok
  | .kvRelease _ => true
  | .pageExport _ => true
  | .cut _ => true
  | .replay _ => true
  | .restore _ => true
  | .reduceScatter _ => true
  | .allGather _ => true
  | .allReduce _ => true
  | .broadcast _ => true
  | .allToAll _ => true
  | .rhizoid _ => true
  | .boundsLanded _ o => o.ok
  | .walkLanded _ o => o.ok
  | .operandFetchLanded _ o => o.ok
  | .tileStart o => o.obs.ok
  | .descriptorComplete _ => true
  | .writeLands _ => true
  | .sectorZeroDone _ => true
  | .lsWeightMapWrite who core _ => who.ok && below core 144
  | .lsSpecMapWrite who core _ => who.ok && below core 144
  | .fsWeightMapWrite who frond m _ => who.ok && below frond 16 && below m 4
  | .fsOwnerWrite who frond bytes => who.ok && below frond 16 && bytes.length == 256
  | .residueInjectWrite who core _ => who.ok && below core 144
  | .precLayerWrite who part layer _ => who.ok && below part 64 && below layer 256
  | .shapeRegWrite who ring k _ => who.ok && below ring 128 && below k 16
  | .bucketEdgeWrite who part k _ => who.ok && below part 64 && below k 8
  | .ropeSetWrite who part sub _ => who.ok && below part 64 && below sub 256
  | .kvPoolConfigWrite who part sub _ => who.ok && below part 64 && below sub 256
  | .poolEmptied part => below part 64
  | .recompConsWrite who part _ => who.ok && below part 64
  | .streamUp who st => who.ok && below st 256
  | .streamDown who st => who.ok && below st 256
  | .recordSend st _ => below st 256
  | .ackReceived st ack => below st 256 && ack.length == 32
  | .retransmit st => below st 256
  | .cutFreeze part => below part 64
  | .recordReceived win _ _ len => below win 32 && below len 1024
  | .restoreTimeout _ => true
  | .winOpen who win => who.ok && below win 32
  | .winClose who win => who.ok && below win 32
  | .winConsumedWrite who win _ => who.ok && below win 32
  | .streamAckWrite who st bytes => who.ok && below st 256 && bytes.length == 32
  | .regionWrite who part sub _ => who.ok && below part 64 && below sub 256
  | .slotStart port slot => below port 16 && below slot 1024
  | .cellReceived port _ _ _ => below port 16
  | .markerReceived port _ _ _ => below port 16
  | .violUnmute port => below port 16
  | .portEnable who port => who.ok && below port 16
  | .portDisable who port => who.ok && below port 16
  | .restoreLane who port => who.ok && below port 16
  | .trainingDone port lanes _ => below port 16 && below lanes 16
  | .trainFail port => below port 16
  | .laneFault port lane => below port 16 && below lane 4
  | .laneSwitch port => below port 16
  | .laneConfirmTimeout port => below port 16
  | .los port => below port 16
  | .slotTableWrite who port table slot _ => who.ok && below port 16 && below table 4 && below slot 1024
  | .slotSwitchFrameWrite who port _ => who.ok && below port 16
  | .slotBankSwitch port => below port 16
  | .rocePacketReceived eth _ => below eth 4
  | .qpError qp => below qp 256
  | .exchangeFrame group => below group 32
  | .stageSettle group => below group 32
  | .collectiveComplete group => below group 32
  | .collSlackExpiry group => below group 32
  | .rhizoidStageReduced group => below group 32
  | .xwaitExpiry group => below group 32
  | .groupDefWrite who group _ => who.ok && below group 32
  | .planeWrite who sub _ => who.ok && below sub 256
  | .partCreate who part => who.ok && below part 64
  | .partDestroy who part => who.ok && below part 64
  | .partHalt who part => who.ok && below part 64
  | .partResume who part => who.ok && below part 64
  | .partAbort who part => who.ok && below part 64
  | .haltedReached part => below part 64
  | .ctxCreate who ctx part => who.ok && below ctx 1024 && below part 64
  | .ctxDestroy who ctx => who.ok && below ctx 1024
  | .ringCreate who ring => who.ok && below ring 128
  | .ringEnable who ring => who.ok && below ring 128
  | .ringDisable who ring => who.ok && below ring 128
  | .ringDestroy who ring => who.ok && below ring 128
  | .drainComplete ring => below ring 128
  | .abortComplete _ => true
  | .abortStop _ => true
  | .fenceCreate who fence ctx _ _ => who.ok && below fence 4096 && below ctx 1024
  | .fenceDestroy who fence => who.ok && below fence 4096
  | .fenceSignalCmd who fence => who.ok && below fence 4096
  | .fenceReset who fence => who.ok && below fence 4096
  | .fenceSubsWrite who fence _ => who.ok && below fence 4096
  | .fenceHandleWrite who fence _ _ => who.ok && below fence 4096
  | .fencePageSignal fn fence gen => below fn 64 && below fence 4096 && below gen 4294967296
  | .fencePageReset fn fence gen => below fn 64 && below fence 4096 && below gen 4294967296
  | .coreOwnerWrite who frond _ => who.ok && below frond 16
  | .granuleOwnerWrite who bytes => who.ok && bytes.length == 192
  | .granuleZeroed => true
  | .mapBaseWrite who part _ => who.ok && below part 64
  | .mapSync who part _ => who.ok && below part 64
  | .runaheadWrite who part _ => who.ok && below part 64
  | .bulkRead who idx sub => who.ok && below idx 65536 && below sub 256
  | .bulkWrite who idx sub len => who.ok && below idx 65536 && below sub 256 && below len 1024
  | .dictClear who _ => who.ok
  | .dictWrite who offset _ _ => who.ok && below offset 134217728
  | .persistSave who => who.ok
  | .persistSaveDone _ => true
  | .persistErase who => who.ok
  | .sensorSample ch _ _ => below ch 41
  | .powerOn who => who.ok
  | .powerOff who => who.ok
  | .chipReset who => who.ok
  | .powerCycle who => who.ok
  | .marionetteBoot straps => below straps 128
  | .marionetteRestart => true
  | .dapRead node txn idx sub => isNode node && below txn 256 && below idx 65536 && below sub 256
  | .dapWrite node txn idx sub v => isNode node && below txn 256 && below idx 65536 && below sub 256 && below v.length 57
  | .segReadInit node txn idx sub => isNode node && below txn 256 && below idx 65536 && below sub 256
  | .segReadNext node txn idx sub k => isNode node && below txn 256 && below idx 65536 && below sub 256 && below k 256
  | .segWriteInit node txn idx sub total => isNode node && below txn 256 && below idx 65536 && below sub 256 && below total 65536
  | .segWriteData node txn idx sub k bytes => isNode node && below txn 256 && below idx 65536 && below sub 256 && below k 256 && below bytes.length 57
  | .segAbort node txn idx sub => isNode node && below txn 256 && below idx 65536 && below sub 256
  | .segTransferTimeout node => isNode node
  | .search node epoch window => isNode node && below epoch 65536 && below window 65536
  | .searchReply _ => true
  | .lateSearchAnnounce => true
  | .announce => true
  | .heartbeat => true
  | .nodePresent node period epoch => isNode node && period.all (below · 65536) && epoch.all (below · 65536)
  | .nodeAbsent node => isNode node
  | .dupId => true
  | .busOffRecovery => true
  | .updateOpen who => who.ok
  | .updateChunk who bytes => who.ok && bytes.length == 512
  | .updateVerify who => who.ok
  | .updateVerifyDone _ => true
  | .updateActivate who => who.ok
  | .updateCommit who => who.ok
  | .updateCancel who => who.ok
  | .updateReverted => true
  | .updateSessionTimeout => true
  | .chipResetRelease => true
  | .bootWaitEntered => true
  | .fwVerify who => who.ok
  | .fwClear who => who.ok
  | .stagingWrite fn _ _ => below fn 64
  | .proxyCellReceived port _ => below port 16
  | .proxyBindTimeout => true
  | .verifyDone _ => true
  | .proxyForward => true
  | .proxySend who _ => who.ok
  | .fwStartDone _ => true
  | .hbmTrainDone _ => true
  | .linkTrainDone => true
  | .ready _ => true
  | .fwFloorRaise who _ => who.ok
  | .watchdogExpiry cmu unit => below unit (if cmu then 16 else 144)
  | .coreFence who core _ => who.ok && below core 144
  | .spareMapped frond slot => below frond 16 && below slot 8
  | .spareSelftestDone frond slot _ => below frond 16 && below slot 8
  | .reloadStart frond slot => below frond 16 && below slot 8
  | .reloadLanded frond slot => below frond 16 && below slot 8
  | .recoveryRunDone frond slot o => below frond 16 && below slot 8 && o.ok
  | .recoveryDone part => below part 64
  | .fcRestart frond => below frond 16
  | .fcRestartDone frond _ => below frond 16
  | .fwSwapVerify who _ => who.ok
  | .fwSwapStaged => true
  | .fwSwapSwap who => who.ok
  | .fwSwapRevert who => who.ok
  | .fwSwapCancel who => who.ok
  | .fwSwapApply => true
  | .bar4Access fn _ _ => below fn 64
  | .vfEnableClear => true
  | .flr fn => below fn 64
  | .pcieReset => true
  | .dlDown => true
  | .msixUnmask fn vec => below fn 64 && vec.all (below · 2048)
  | .busMasterEnable fn _ => below fn 64
  | .inputEnable => true
  | .inputUndervoltage => true
  | .inputFault _ => true
  | .inputReenable => true
  | .thermTrip ch _ => below ch 41
  | .stopAsserted => true
  | .stopChatter => true
  | .chatterEnd _ => true
  | .stopReleased => true
  | .stopRearm who _ => who.ok
  | .stringsLineShort _ => true
  | .stringsLineOpen => true
  | .dominantTimeout _ => true
  | .syncLineOk => true
  | .stringsReconnect => true
  | .lossCleared port => below port 16
  | .ethLinkUp eth => below eth 4
  | .ethLinkDown eth => below eth 4
  | .busMasterDisable fn _ => below fn 64
  | .dlUp => true
  | .vfEnableSet numVfs => below numVfs 64
  | .ptmEnableSet => true
  | .proxySendDone => true

/-- The objects and fields a command names, each with the number of values it has. -/
@[simp] def Instr.fields : Instr → List (Nat × Nat)
  | .frameBoundary _ => []
  | .runaheadStart => []
  | .maintenanceWindow _ => []
  | .overrun => []
  | .geometrySwitch => []
  | .switchFrameWrite _ _ => []
  | .frameSeedWrite _ _ => []
  | .syncInEdge _ _ => []
  | .syncLineFault line => [(line, 4)]
  | .syncStuck => []
  | .refQualified ref _ => [(ref, 19)]
  | .refLost ref => [(ref, 19)]
  | .offsetExceeded => []
  | .lockAcquired => []
  | .freerunEntered => []
  | .stepDone _ _ => []
  | .ptmDialogue => []
  | .ptmResponse _ => []
  | .ptmTimeout => []
  | .ptmEnableClear => []
  | .doorbell fn ring v => [(fn, 64), (ring, 128), (v, 4294967296)]
  | .entriesFetched ring => [(ring, 128)]
  | .cqConsWrite fn ring v => [(fn, 64), (ring, 128), (v, 4294967296)]
  | .nop _ => []
  | .order _ => []
  | .orderBegins _ _ => []
  | .precisionSet _ => []
  | .matmul _ _ => []
  | .quantise _ _ => []
  | .reduce _ _ => []
  | .fill _ _ => []
  | .copy _ _ => []
  | .transfer _ _ => []
  | .bucketForm _ _ => []
  | .attnScore _ _ => []
  | .attnScoreRecompute _ _ => []
  | .attnNorm _ _ => []
  | .attnPv _ _ => []
  | .kvAppend _ _ => []
  | .kvRelease _ => []
  | .pageExport _ => []
  | .cut _ => []
  | .replay _ => []
  | .restore _ => []
  | .reduceScatter _ => []
  | .allGather _ => []
  | .allReduce _ => []
  | .broadcast _ => []
  | .allToAll _ => []
  | .rhizoid _ => []
  | .boundsLanded _ _ => []
  | .walkLanded _ _ => []
  | .operandFetchLanded _ _ => []
  | .tileStart _ => []
  | .descriptorComplete _ => []
  | .writeLands _ => []
  | .sectorZeroDone _ => []
  | .lsWeightMapWrite _ core _ => [(core, 144)]
  | .lsSpecMapWrite _ core _ => [(core, 144)]
  | .fsWeightMapWrite _ frond m _ => [(frond, 16), (m, 4)]
  | .fsOwnerWrite _ frond _ => [(frond, 16)]
  | .residueInjectWrite _ core _ => [(core, 144)]
  | .precLayerWrite _ part layer _ => [(part, 64), (layer, 256)]
  | .shapeRegWrite _ ring k _ => [(ring, 128), (k, 16)]
  | .bucketEdgeWrite _ part k _ => [(part, 64), (k, 8)]
  | .ropeSetWrite _ part sub _ => [(part, 64), (sub, 256)]
  | .kvPoolConfigWrite _ part sub _ => [(part, 64), (sub, 256)]
  | .poolEmptied part => [(part, 64)]
  | .recompConsWrite _ part _ => [(part, 64)]
  | .streamUp _ st => [(st, 256)]
  | .streamDown _ st => [(st, 256)]
  | .recordSend st _ => [(st, 256)]
  | .ackReceived st _ => [(st, 256)]
  | .retransmit st => [(st, 256)]
  | .cutFreeze part => [(part, 64)]
  | .recordReceived win _ _ len => [(win, 32), (len, 1024)]
  | .restoreTimeout _ => []
  | .winOpen _ win => [(win, 32)]
  | .winClose _ win => [(win, 32)]
  | .winConsumedWrite _ win _ => [(win, 32)]
  | .streamAckWrite _ st _ => [(st, 256)]
  | .regionWrite _ part sub _ => [(part, 64), (sub, 256)]
  | .slotStart port slot => [(port, 16), (slot, 1024)]
  | .cellReceived port _ _ _ => [(port, 16)]
  | .markerReceived port _ _ _ => [(port, 16)]
  | .violUnmute port => [(port, 16)]
  | .portEnable _ port => [(port, 16)]
  | .portDisable _ port => [(port, 16)]
  | .restoreLane _ port => [(port, 16)]
  | .trainingDone port lanes _ => [(port, 16), (lanes, 16)]
  | .trainFail port => [(port, 16)]
  | .laneFault port lane => [(port, 16), (lane, 4)]
  | .laneSwitch port => [(port, 16)]
  | .laneConfirmTimeout port => [(port, 16)]
  | .los port => [(port, 16)]
  | .slotTableWrite _ port table slot _ => [(port, 16), (table, 4), (slot, 1024)]
  | .slotSwitchFrameWrite _ port _ => [(port, 16)]
  | .slotBankSwitch port => [(port, 16)]
  | .rocePacketReceived eth _ => [(eth, 4)]
  | .qpError qp => [(qp, 256)]
  | .exchangeFrame group => [(group, 32)]
  | .stageSettle group => [(group, 32)]
  | .collectiveComplete group => [(group, 32)]
  | .collSlackExpiry group => [(group, 32)]
  | .rhizoidStageReduced group => [(group, 32)]
  | .xwaitExpiry group => [(group, 32)]
  | .groupDefWrite _ group _ => [(group, 32)]
  | .planeWrite _ sub _ => [(sub, 256)]
  | .partCreate _ part => [(part, 64)]
  | .partDestroy _ part => [(part, 64)]
  | .partHalt _ part => [(part, 64)]
  | .partResume _ part => [(part, 64)]
  | .partAbort _ part => [(part, 64)]
  | .haltedReached part => [(part, 64)]
  | .ctxCreate _ ctx part => [(ctx, 1024), (part, 64)]
  | .ctxDestroy _ ctx => [(ctx, 1024)]
  | .ringCreate _ ring => [(ring, 128)]
  | .ringEnable _ ring => [(ring, 128)]
  | .ringDisable _ ring => [(ring, 128)]
  | .ringDestroy _ ring => [(ring, 128)]
  | .drainComplete ring => [(ring, 128)]
  | .abortComplete _ => []
  | .abortStop _ => []
  | .fenceCreate _ fence ctx _ _ => [(fence, 4096), (ctx, 1024)]
  | .fenceDestroy _ fence => [(fence, 4096)]
  | .fenceSignalCmd _ fence => [(fence, 4096)]
  | .fenceReset _ fence => [(fence, 4096)]
  | .fenceSubsWrite _ fence _ => [(fence, 4096)]
  | .fenceHandleWrite _ fence _ _ => [(fence, 4096)]
  | .fencePageSignal fn fence gen => [(fn, 64), (fence, 4096), (gen, 4294967296)]
  | .fencePageReset fn fence gen => [(fn, 64), (fence, 4096), (gen, 4294967296)]
  | .coreOwnerWrite _ frond _ => [(frond, 16)]
  | .granuleOwnerWrite _ _ => []
  | .granuleZeroed => []
  | .mapBaseWrite _ part _ => [(part, 64)]
  | .mapSync _ part _ => [(part, 64)]
  | .runaheadWrite _ part _ => [(part, 64)]
  | .bulkRead _ idx sub => [(idx, 65536), (sub, 256)]
  | .bulkWrite _ idx sub len => [(idx, 65536), (sub, 256), (len, 1024)]
  | .dictClear _ _ => []
  | .dictWrite _ offset _ _ => [(offset, 134217728)]
  | .persistSave _ => []
  | .persistSaveDone _ => []
  | .persistErase _ => []
  | .sensorSample ch _ _ => [(ch, 41)]
  | .powerOn _ => []
  | .powerOff _ => []
  | .chipReset _ => []
  | .powerCycle _ => []
  | .marionetteBoot straps => [(straps, 128)]
  | .marionetteRestart => []
  | .dapRead node txn idx sub => [(txn, 256), (idx, 65536), (sub, 256), (node, 128)]
  | .dapWrite node txn idx sub _ => [(txn, 256), (idx, 65536), (sub, 256), (node, 128)]
  | .segReadInit node txn idx sub => [(txn, 256), (idx, 65536), (sub, 256), (node, 128)]
  | .segReadNext node txn idx sub k => [(txn, 256), (idx, 65536), (sub, 256), (k, 256), (node, 128)]
  | .segWriteInit node txn idx sub total => [(txn, 256), (idx, 65536), (sub, 256), (total, 65536), (node, 128)]
  | .segWriteData node txn idx sub k _ => [(txn, 256), (idx, 65536), (sub, 256), (k, 256), (node, 128)]
  | .segAbort node txn idx sub => [(txn, 256), (idx, 65536), (sub, 256), (node, 128)]
  | .segTransferTimeout node => [(node, 128)]
  | .search node epoch window => [(epoch, 65536), (window, 65536), (node, 128)]
  | .searchReply _ => []
  | .lateSearchAnnounce => []
  | .announce => []
  | .heartbeat => []
  | .nodePresent node _ _ => [(node, 128)]
  | .nodeAbsent node => [(node, 128)]
  | .dupId => []
  | .busOffRecovery => []
  | .updateOpen _ => []
  | .updateChunk _ _ => []
  | .updateVerify _ => []
  | .updateVerifyDone _ => []
  | .updateActivate _ => []
  | .updateCommit _ => []
  | .updateCancel _ => []
  | .updateReverted => []
  | .updateSessionTimeout => []
  | .chipResetRelease => []
  | .bootWaitEntered => []
  | .fwVerify _ => []
  | .fwClear _ => []
  | .stagingWrite fn _ _ => [(fn, 64)]
  | .proxyCellReceived port _ => [(port, 16)]
  | .proxyBindTimeout => []
  | .verifyDone _ => []
  | .proxyForward => []
  | .proxySend _ _ => []
  | .fwStartDone _ => []
  | .hbmTrainDone _ => []
  | .linkTrainDone => []
  | .ready _ => []
  | .fwFloorRaise _ _ => []
  | .watchdogExpiry _ _ => []
  | .coreFence _ core _ => [(core, 144)]
  | .spareMapped frond slot => [(frond, 16), (slot, 8)]
  | .spareSelftestDone frond slot _ => [(frond, 16), (slot, 8)]
  | .reloadStart frond slot => [(frond, 16), (slot, 8)]
  | .reloadLanded frond slot => [(frond, 16), (slot, 8)]
  | .recoveryRunDone frond slot _ => [(frond, 16), (slot, 8)]
  | .recoveryDone part => [(part, 64)]
  | .fcRestart frond => [(frond, 16)]
  | .fcRestartDone frond _ => [(frond, 16)]
  | .fwSwapVerify _ _ => []
  | .fwSwapStaged => []
  | .fwSwapSwap _ => []
  | .fwSwapRevert _ => []
  | .fwSwapCancel _ => []
  | .fwSwapApply => []
  | .bar4Access fn _ _ => [(fn, 64)]
  | .vfEnableClear => []
  | .flr fn => [(fn, 64)]
  | .pcieReset => []
  | .dlDown => []
  | .msixUnmask fn _ => [(fn, 64)]
  | .busMasterEnable fn _ => [(fn, 64)]
  | .inputEnable => []
  | .inputUndervoltage => []
  | .inputFault _ => []
  | .inputReenable => []
  | .thermTrip ch _ => [(ch, 41)]
  | .stopAsserted => []
  | .stopChatter => []
  | .chatterEnd _ => []
  | .stopReleased => []
  | .stopRearm _ _ => []
  | .stringsLineShort _ => []
  | .stringsLineOpen => []
  | .dominantTimeout _ => []
  | .syncLineOk => []
  | .stringsReconnect => []
  | .lossCleared port => [(port, 16)]
  | .ethLinkUp eth => [(eth, 4)]
  | .ethLinkDown eth => [(eth, 4)]
  | .busMasterDisable fn _ => [(fn, 64)]
  | .dlUp => []
  | .vfEnableSet numVfs => [(numVfs, 64)]
  | .ptmEnableSet => []
  | .proxySendDone => []

end Sys2Proof
end

