-- ==== Sys2Proof/Laws/PerInstr.lean ====
section
/-!
SUPPORT. Laws/PerInstr.lean: the family Wf, one lemma for each command.
-/
open Sys2Proof

/-- Every object and field that a well-formed command names is in its range. -/
def Sys2Proof.Laws.Wf.Statement (i : Instr) : Prop := i.wf = true → ∀ x ∈ i.fields, x.1 < x.2

/-- The fields of a well-formed FRAME_BOUNDARY are in range. -/
theorem Sys2Proof.Laws.Wf.frameBoundary (o : BoundaryObs) : Sys2Proof.Laws.Wf.Statement (.frameBoundary o) := by
  simp_all [Sys2Proof.Laws.Wf.Statement]
/-- The fields of a well-formed RUNAHEAD_START are in range. -/
theorem Sys2Proof.Laws.Wf.runaheadStart : Sys2Proof.Laws.Wf.Statement (.runaheadStart) := by
  simp_all [Sys2Proof.Laws.Wf.Statement]
/-- The fields of a well-formed MAINTENANCE_WINDOW are in range. -/
theorem Sys2Proof.Laws.Wf.maintenanceWindow (o : MaintObs) : Sys2Proof.Laws.Wf.Statement (.maintenanceWindow o) := by
  simp_all [Sys2Proof.Laws.Wf.Statement]
/-- The fields of a well-formed OVERRUN are in range. -/
theorem Sys2Proof.Laws.Wf.overrun : Sys2Proof.Laws.Wf.Statement .overrun := by
  simp_all [Sys2Proof.Laws.Wf.Statement]
/-- The fields of a well-formed GEOMETRY_SWITCH are in range. -/
theorem Sys2Proof.Laws.Wf.geometrySwitch : Sys2Proof.Laws.Wf.Statement (.geometrySwitch) := by
  simp_all [Sys2Proof.Laws.Wf.Statement]
/-- The fields of a well-formed SWITCH_FRAME_WRITE are in range. -/
theorem Sys2Proof.Laws.Wf.switchFrameWrite (who : Requester) (v : Word) : Sys2Proof.Laws.Wf.Statement (.switchFrameWrite who v) := by
  simp_all [Sys2Proof.Laws.Wf.Statement]
/-- The fields of a well-formed FRAME_SEED_WRITE are in range. -/
theorem Sys2Proof.Laws.Wf.frameSeedWrite (who : Requester) (v : Word) : Sys2Proof.Laws.Wf.Statement (.frameSeedWrite who v) := by
  simp_all [Sys2Proof.Laws.Wf.Statement]
/-- The fields of a well-formed SYNC_IN_EDGE are in range. -/
theorem Sys2Proof.Laws.Wf.syncInEdge (phase : Int) (o : EdgeObs) : Sys2Proof.Laws.Wf.Statement (.syncInEdge phase o) := by
  simp_all [Sys2Proof.Laws.Wf.Statement]
/-- The fields of a well-formed SYNC_LINE_FAULT are in range. -/
theorem Sys2Proof.Laws.Wf.syncLineFault (line : Nat) : Sys2Proof.Laws.Wf.Statement (.syncLineFault line) := by
  simp_all [Sys2Proof.Laws.Wf.Statement]
/-- The fields of a well-formed SYNC_STUCK are in range. -/
theorem Sys2Proof.Laws.Wf.syncStuck : Sys2Proof.Laws.Wf.Statement (.syncStuck) := by
  simp_all [Sys2Proof.Laws.Wf.Statement]
/-- The fields of a well-formed REF_QUALIFIED are in range. -/
theorem Sys2Proof.Laws.Wf.refQualified (ref : Nat) (offset : Int) : Sys2Proof.Laws.Wf.Statement (.refQualified ref offset) := by
  simp_all [Sys2Proof.Laws.Wf.Statement]
/-- The fields of a well-formed REF_LOST are in range. -/
theorem Sys2Proof.Laws.Wf.refLost (ref : Nat) : Sys2Proof.Laws.Wf.Statement (.refLost ref) := by
  simp_all [Sys2Proof.Laws.Wf.Statement]
/-- The fields of a well-formed OFFSET_EXCEEDED are in range. -/
theorem Sys2Proof.Laws.Wf.offsetExceeded : Sys2Proof.Laws.Wf.Statement (.offsetExceeded) := by
  simp_all [Sys2Proof.Laws.Wf.Statement]
/-- The fields of a well-formed LOCK_ACQUIRED are in range. -/
theorem Sys2Proof.Laws.Wf.lockAcquired : Sys2Proof.Laws.Wf.Statement (.lockAcquired) := by
  simp_all [Sys2Proof.Laws.Wf.Statement]
/-- The fields of a well-formed FREERUN_ENTERED are in range. -/
theorem Sys2Proof.Laws.Wf.freerunEntered : Sys2Proof.Laws.Wf.Statement (.freerunEntered) := by
  simp_all [Sys2Proof.Laws.Wf.Statement]
/-- The fields of a well-formed STEP_DONE are in range. -/
theorem Sys2Proof.Laws.Wf.stepDone (offset : Int) (refFrame : Nat) : Sys2Proof.Laws.Wf.Statement (.stepDone offset refFrame) := by
  simp_all [Sys2Proof.Laws.Wf.Statement]
/-- The fields of a well-formed PTM_DIALOGUE are in range. -/
theorem Sys2Proof.Laws.Wf.ptmDialogue : Sys2Proof.Laws.Wf.Statement (.ptmDialogue) := by
  simp_all [Sys2Proof.Laws.Wf.Statement]
/-- The fields of a well-formed PTM_RESPONSE are in range. -/
theorem Sys2Proof.Laws.Wf.ptmResponse (time : Nat) : Sys2Proof.Laws.Wf.Statement (.ptmResponse time) := by
  simp_all [Sys2Proof.Laws.Wf.Statement]
/-- The fields of a well-formed PTM_TIMEOUT are in range. -/
theorem Sys2Proof.Laws.Wf.ptmTimeout : Sys2Proof.Laws.Wf.Statement (.ptmTimeout) := by
  simp_all [Sys2Proof.Laws.Wf.Statement]
/-- The fields of a well-formed PTM_ENABLE_CLEAR are in range. -/
theorem Sys2Proof.Laws.Wf.ptmEnableClear : Sys2Proof.Laws.Wf.Statement (.ptmEnableClear) := by
  simp_all [Sys2Proof.Laws.Wf.Statement]
/-- The fields of a well-formed DOORBELL are in range. -/
theorem Sys2Proof.Laws.Wf.doorbell (fn : Nat) (ring : Nat) (v : Nat) : Sys2Proof.Laws.Wf.Statement (.doorbell fn ring v) := by
  simp_all [Sys2Proof.Laws.Wf.Statement]
/-- The fields of a well-formed ENTRIES_FETCHED are in range. -/
theorem Sys2Proof.Laws.Wf.entriesFetched (ring : Nat) : Sys2Proof.Laws.Wf.Statement (.entriesFetched ring) := by
  simp_all [Sys2Proof.Laws.Wf.Statement]
/-- The fields of a well-formed CQ_CONS_WRITE are in range. -/
theorem Sys2Proof.Laws.Wf.cqConsWrite (fn : Nat) (ring : Nat) (v : Nat) : Sys2Proof.Laws.Wf.Statement (.cqConsWrite fn ring v) := by
  simp_all [Sys2Proof.Laws.Wf.Statement]
/-- The fields of a well-formed NOP are in range. -/
theorem Sys2Proof.Laws.Wf.nop (id : Nat) : Sys2Proof.Laws.Wf.Statement (.nop id) := by
  simp_all [Sys2Proof.Laws.Wf.Statement]
/-- The fields of a well-formed ORDER are in range. -/
theorem Sys2Proof.Laws.Wf.order (id : Nat) : Sys2Proof.Laws.Wf.Statement (.order id) := by
  simp_all [Sys2Proof.Laws.Wf.Statement]
/-- The fields of a well-formed ORDER_BEGINS are in range. -/
theorem Sys2Proof.Laws.Wf.orderBegins (id : Nat) (waited : Nat) : Sys2Proof.Laws.Wf.Statement (.orderBegins id waited) := by
  simp_all [Sys2Proof.Laws.Wf.Statement]
/-- The fields of a well-formed PRECISION_SET are in range. -/
theorem Sys2Proof.Laws.Wf.precisionSet (id : Nat) : Sys2Proof.Laws.Wf.Statement (.precisionSet id) := by
  simp_all [Sys2Proof.Laws.Wf.Statement]
/-- The fields of a well-formed MATMUL are in range. -/
theorem Sys2Proof.Laws.Wf.matmul (id : Nat) (o : RunObs) : Sys2Proof.Laws.Wf.Statement (.matmul id o) := by
  simp_all [Sys2Proof.Laws.Wf.Statement]
/-- The fields of a well-formed QUANTISE are in range. -/
theorem Sys2Proof.Laws.Wf.quantise (id : Nat) (o : RunObs) : Sys2Proof.Laws.Wf.Statement (.quantise id o) := by
  simp_all [Sys2Proof.Laws.Wf.Statement]
/-- The fields of a well-formed REDUCE are in range. -/
theorem Sys2Proof.Laws.Wf.reduce (id : Nat) (o : RunObs) : Sys2Proof.Laws.Wf.Statement (.reduce id o) := by
  simp_all [Sys2Proof.Laws.Wf.Statement]
/-- The fields of a well-formed FILL are in range. -/
theorem Sys2Proof.Laws.Wf.fill (id : Nat) (o : RunObs) : Sys2Proof.Laws.Wf.Statement (.fill id o) := by
  simp_all [Sys2Proof.Laws.Wf.Statement]
/-- The fields of a well-formed COPY are in range. -/
theorem Sys2Proof.Laws.Wf.copy (id : Nat) (o : RunObs) : Sys2Proof.Laws.Wf.Statement (.copy id o) := by
  simp_all [Sys2Proof.Laws.Wf.Statement]
/-- The fields of a well-formed TRANSFER are in range. -/
theorem Sys2Proof.Laws.Wf.transfer (id : Nat) (o : RunObs) : Sys2Proof.Laws.Wf.Statement (.transfer id o) := by
  simp_all [Sys2Proof.Laws.Wf.Statement]
/-- The fields of a well-formed BUCKET_FORM are in range. -/
theorem Sys2Proof.Laws.Wf.bucketForm (id : Nat) (o : RunObs) : Sys2Proof.Laws.Wf.Statement (.bucketForm id o) := by
  simp_all [Sys2Proof.Laws.Wf.Statement]
/-- The fields of a well-formed ATTN_SCORE are in range. -/
theorem Sys2Proof.Laws.Wf.attnScore (id : Nat) (o : RunObs) : Sys2Proof.Laws.Wf.Statement (.attnScore id o) := by
  simp_all [Sys2Proof.Laws.Wf.Statement]
/-- The fields of a well-formed ATTN_SCORE_RECOMPUTE are in range. -/
theorem Sys2Proof.Laws.Wf.attnScoreRecompute (id : Nat) (o : RunObs) : Sys2Proof.Laws.Wf.Statement (.attnScoreRecompute id o) := by
  simp_all [Sys2Proof.Laws.Wf.Statement]
/-- The fields of a well-formed ATTN_NORM are in range. -/
theorem Sys2Proof.Laws.Wf.attnNorm (id : Nat) (o : RunObs) : Sys2Proof.Laws.Wf.Statement (.attnNorm id o) := by
  simp_all [Sys2Proof.Laws.Wf.Statement]
/-- The fields of a well-formed ATTN_PV are in range. -/
theorem Sys2Proof.Laws.Wf.attnPv (id : Nat) (o : RunObs) : Sys2Proof.Laws.Wf.Statement (.attnPv id o) := by
  simp_all [Sys2Proof.Laws.Wf.Statement]
/-- The fields of a well-formed KV_APPEND are in range. -/
theorem Sys2Proof.Laws.Wf.kvAppend (id : Nat) (o : RunObs) : Sys2Proof.Laws.Wf.Statement (.kvAppend id o) := by
  simp_all [Sys2Proof.Laws.Wf.Statement]
/-- The fields of a well-formed KV_RELEASE are in range. -/
theorem Sys2Proof.Laws.Wf.kvRelease (id : Nat) : Sys2Proof.Laws.Wf.Statement (.kvRelease id) := by
  simp_all [Sys2Proof.Laws.Wf.Statement]
/-- The fields of a well-formed PAGE_EXPORT are in range. -/
theorem Sys2Proof.Laws.Wf.pageExport (id : Nat) : Sys2Proof.Laws.Wf.Statement (.pageExport id) := by
  simp_all [Sys2Proof.Laws.Wf.Statement]
/-- The fields of a well-formed CUT are in range. -/
theorem Sys2Proof.Laws.Wf.cut (id : Nat) : Sys2Proof.Laws.Wf.Statement (.cut id) := by
  simp_all [Sys2Proof.Laws.Wf.Statement]
/-- The fields of a well-formed REPLAY are in range. -/
theorem Sys2Proof.Laws.Wf.replay (id : Nat) : Sys2Proof.Laws.Wf.Statement (.replay id) := by
  simp_all [Sys2Proof.Laws.Wf.Statement]
/-- The fields of a well-formed RESTORE are in range. -/
theorem Sys2Proof.Laws.Wf.restore (id : Nat) : Sys2Proof.Laws.Wf.Statement (.restore id) := by
  simp_all [Sys2Proof.Laws.Wf.Statement]
/-- The fields of a well-formed REDUCE_SCATTER are in range. -/
theorem Sys2Proof.Laws.Wf.reduceScatter (id : Nat) : Sys2Proof.Laws.Wf.Statement (.reduceScatter id) := by
  simp_all [Sys2Proof.Laws.Wf.Statement]
/-- The fields of a well-formed ALL_GATHER are in range. -/
theorem Sys2Proof.Laws.Wf.allGather (id : Nat) : Sys2Proof.Laws.Wf.Statement (.allGather id) := by
  simp_all [Sys2Proof.Laws.Wf.Statement]
/-- The fields of a well-formed ALL_REDUCE are in range. -/
theorem Sys2Proof.Laws.Wf.allReduce (id : Nat) : Sys2Proof.Laws.Wf.Statement (.allReduce id) := by
  simp_all [Sys2Proof.Laws.Wf.Statement]
/-- The fields of a well-formed BROADCAST are in range. -/
theorem Sys2Proof.Laws.Wf.broadcast (id : Nat) : Sys2Proof.Laws.Wf.Statement (.broadcast id) := by
  simp_all [Sys2Proof.Laws.Wf.Statement]
/-- The fields of a well-formed ALL_TO_ALL are in range. -/
theorem Sys2Proof.Laws.Wf.allToAll (id : Nat) : Sys2Proof.Laws.Wf.Statement (.allToAll id) := by
  simp_all [Sys2Proof.Laws.Wf.Statement]
/-- The fields of a well-formed RHIZOID are in range. -/
theorem Sys2Proof.Laws.Wf.rhizoid (id : Nat) : Sys2Proof.Laws.Wf.Statement (.rhizoid id) := by
  simp_all [Sys2Proof.Laws.Wf.Statement]
/-- The fields of a well-formed BOUNDS_LANDED are in range. -/
theorem Sys2Proof.Laws.Wf.boundsLanded (id : Nat) (o : RunObs) : Sys2Proof.Laws.Wf.Statement (.boundsLanded id o) := by
  simp_all [Sys2Proof.Laws.Wf.Statement]
/-- The fields of a well-formed WALK_LANDED are in range. -/
theorem Sys2Proof.Laws.Wf.walkLanded (id : Nat) (o : RunObs) : Sys2Proof.Laws.Wf.Statement (.walkLanded id o) := by
  simp_all [Sys2Proof.Laws.Wf.Statement]
/-- The fields of a well-formed OPERAND_FETCH_LANDED are in range. -/
theorem Sys2Proof.Laws.Wf.operandFetchLanded (id : Nat) (o : RunObs) : Sys2Proof.Laws.Wf.Statement (.operandFetchLanded id o) := by
  simp_all [Sys2Proof.Laws.Wf.Statement]
/-- The fields of a well-formed TILE_START are in range. -/
theorem Sys2Proof.Laws.Wf.tileStart (o : TileObs) : Sys2Proof.Laws.Wf.Statement (.tileStart o) := by
  simp_all [Sys2Proof.Laws.Wf.Statement]
/-- The fields of a well-formed DESCRIPTOR_COMPLETE are in range. -/
theorem Sys2Proof.Laws.Wf.descriptorComplete (id : Nat) : Sys2Proof.Laws.Wf.Statement (.descriptorComplete id) := by
  simp_all [Sys2Proof.Laws.Wf.Statement]
/-- The fields of a well-formed WRITE_LANDS are in range. -/
theorem Sys2Proof.Laws.Wf.writeLands (o : Landing) : Sys2Proof.Laws.Wf.Statement (.writeLands o) := by
  simp_all [Sys2Proof.Laws.Wf.Statement]
/-- The fields of a well-formed SECTOR_ZERO_DONE are in range. -/
theorem Sys2Proof.Laws.Wf.sectorZeroDone (i : Nat) : Sys2Proof.Laws.Wf.Statement (.sectorZeroDone i) := by
  simp_all [Sys2Proof.Laws.Wf.Statement]
/-- The fields of a well-formed LS_WEIGHT_MAP_WRITE are in range. -/
theorem Sys2Proof.Laws.Wf.lsWeightMapWrite (who : Requester) (core : Nat) (v : Word) : Sys2Proof.Laws.Wf.Statement (.lsWeightMapWrite who core v) := by
  simp_all [Sys2Proof.Laws.Wf.Statement]
/-- The fields of a well-formed LS_SPEC_MAP_WRITE are in range. -/
theorem Sys2Proof.Laws.Wf.lsSpecMapWrite (who : Requester) (core : Nat) (v : Word) : Sys2Proof.Laws.Wf.Statement (.lsSpecMapWrite who core v) := by
  simp_all [Sys2Proof.Laws.Wf.Statement]
/-- The fields of a well-formed FS_WEIGHT_MAP_WRITE are in range. -/
theorem Sys2Proof.Laws.Wf.fsWeightMapWrite (who : Requester) (frond : Nat) (m : Nat) (v : Word) : Sys2Proof.Laws.Wf.Statement (.fsWeightMapWrite who frond m v) := by
  simp_all [Sys2Proof.Laws.Wf.Statement]
/-- The fields of a well-formed FS_OWNER_WRITE are in range. -/
theorem Sys2Proof.Laws.Wf.fsOwnerWrite (who : Requester) (frond : Nat) (bytes : List Byte) : Sys2Proof.Laws.Wf.Statement (.fsOwnerWrite who frond bytes) := by
  simp_all [Sys2Proof.Laws.Wf.Statement]
/-- The fields of a well-formed RESIDUE_INJECT_WRITE are in range. -/
theorem Sys2Proof.Laws.Wf.residueInjectWrite (who : Requester) (core : Nat) (v : Word) : Sys2Proof.Laws.Wf.Statement (.residueInjectWrite who core v) := by
  simp_all [Sys2Proof.Laws.Wf.Statement]
/-- The fields of a well-formed PREC_LAYER_WRITE are in range. -/
theorem Sys2Proof.Laws.Wf.precLayerWrite (who : Requester) (part : Nat) (layer : Nat) (v : Word) : Sys2Proof.Laws.Wf.Statement (.precLayerWrite who part layer v) := by
  simp_all [Sys2Proof.Laws.Wf.Statement]
/-- The fields of a well-formed SHAPE_REG_WRITE are in range. -/
theorem Sys2Proof.Laws.Wf.shapeRegWrite (who : Requester) (ring : Nat) (k : Nat) (v : Word) : Sys2Proof.Laws.Wf.Statement (.shapeRegWrite who ring k v) := by
  simp_all [Sys2Proof.Laws.Wf.Statement]
/-- The fields of a well-formed BUCKET_EDGE_WRITE are in range. -/
theorem Sys2Proof.Laws.Wf.bucketEdgeWrite (who : Requester) (part : Nat) (k : Nat) (v : Word) : Sys2Proof.Laws.Wf.Statement (.bucketEdgeWrite who part k v) := by
  simp_all [Sys2Proof.Laws.Wf.Statement]
/-- The fields of a well-formed ROPE_SET_WRITE are in range. -/
theorem Sys2Proof.Laws.Wf.ropeSetWrite (who : Requester) (part : Nat) (sub : Nat) (v : Word) : Sys2Proof.Laws.Wf.Statement (.ropeSetWrite who part sub v) := by
  simp_all [Sys2Proof.Laws.Wf.Statement]
/-- The fields of a well-formed KV_POOL_CONFIG_WRITE are in range. -/
theorem Sys2Proof.Laws.Wf.kvPoolConfigWrite (who : Requester) (part : Nat) (sub : Nat) (v : Word) : Sys2Proof.Laws.Wf.Statement (.kvPoolConfigWrite who part sub v) := by
  simp_all [Sys2Proof.Laws.Wf.Statement]
/-- The fields of a well-formed POOL_EMPTIED are in range. -/
theorem Sys2Proof.Laws.Wf.poolEmptied (part : Nat) : Sys2Proof.Laws.Wf.Statement (.poolEmptied part) := by
  simp_all [Sys2Proof.Laws.Wf.Statement]
/-- The fields of a well-formed RECOMP_CONS_WRITE are in range. -/
theorem Sys2Proof.Laws.Wf.recompConsWrite (who : Requester) (part : Nat) (v : Word) : Sys2Proof.Laws.Wf.Statement (.recompConsWrite who part v) := by
  simp_all [Sys2Proof.Laws.Wf.Statement]
/-- The fields of a well-formed STREAM_UP are in range. -/
theorem Sys2Proof.Laws.Wf.streamUp (who : Requester) (st : Nat) : Sys2Proof.Laws.Wf.Statement (.streamUp who st) := by
  simp_all [Sys2Proof.Laws.Wf.Statement]
/-- The fields of a well-formed STREAM_DOWN are in range. -/
theorem Sys2Proof.Laws.Wf.streamDown (who : Requester) (st : Nat) : Sys2Proof.Laws.Wf.Statement (.streamDown who st) := by
  simp_all [Sys2Proof.Laws.Wf.Statement]
/-- The fields of a well-formed RECORD_SEND are in range. -/
theorem Sys2Proof.Laws.Wf.recordSend (st : Nat) (ecc : Bool) : Sys2Proof.Laws.Wf.Statement (.recordSend st ecc) := by
  simp_all [Sys2Proof.Laws.Wf.Statement]
/-- The fields of a well-formed ACK_RECEIVED are in range. -/
theorem Sys2Proof.Laws.Wf.ackReceived (st : Nat) (ack : List Byte) : Sys2Proof.Laws.Wf.Statement (.ackReceived st ack) := by
  simp_all [Sys2Proof.Laws.Wf.Statement]
/-- The fields of a well-formed RETRANSMIT are in range. -/
theorem Sys2Proof.Laws.Wf.retransmit (st : Nat) : Sys2Proof.Laws.Wf.Statement (.retransmit st) := by
  simp_all [Sys2Proof.Laws.Wf.Statement]
/-- The fields of a well-formed CUT_FREEZE are in range. -/
theorem Sys2Proof.Laws.Wf.cutFreeze (part : Nat) : Sys2Proof.Laws.Wf.Statement (.cutFreeze part) := by
  simp_all [Sys2Proof.Laws.Wf.Statement]
/-- The fields of a well-formed RECORD_RECEIVED are in range. -/
theorem Sys2Proof.Laws.Wf.recordReceived (win : Nat) (via : Nat) (start : Nat) (len : Nat) : Sys2Proof.Laws.Wf.Statement (.recordReceived win via start len) := by
  simp_all [Sys2Proof.Laws.Wf.Statement]
/-- The fields of a well-formed RESTORE_TIMEOUT are in range. -/
theorem Sys2Proof.Laws.Wf.restoreTimeout (job : Nat) : Sys2Proof.Laws.Wf.Statement (.restoreTimeout job) := by
  simp_all [Sys2Proof.Laws.Wf.Statement]
/-- The fields of a well-formed WIN_OPEN are in range. -/
theorem Sys2Proof.Laws.Wf.winOpen (who : Requester) (win : Nat) : Sys2Proof.Laws.Wf.Statement (.winOpen who win) := by
  simp_all [Sys2Proof.Laws.Wf.Statement]
/-- The fields of a well-formed WIN_CLOSE are in range. -/
theorem Sys2Proof.Laws.Wf.winClose (who : Requester) (win : Nat) : Sys2Proof.Laws.Wf.Statement (.winClose who win) := by
  simp_all [Sys2Proof.Laws.Wf.Statement]
/-- The fields of a well-formed WIN_CONSUMED_WRITE are in range. -/
theorem Sys2Proof.Laws.Wf.winConsumedWrite (who : Requester) (win : Nat) (v : Word) : Sys2Proof.Laws.Wf.Statement (.winConsumedWrite who win v) := by
  simp_all [Sys2Proof.Laws.Wf.Statement]
/-- The fields of a well-formed STREAM_ACK_WRITE are in range. -/
theorem Sys2Proof.Laws.Wf.streamAckWrite (who : Requester) (st : Nat) (bytes : List Byte) : Sys2Proof.Laws.Wf.Statement (.streamAckWrite who st bytes) := by
  simp_all [Sys2Proof.Laws.Wf.Statement]
/-- The fields of a well-formed REGION_WRITE are in range. -/
theorem Sys2Proof.Laws.Wf.regionWrite (who : Requester) (part : Nat) (sub : Nat) (v : Word) : Sys2Proof.Laws.Wf.Statement (.regionWrite who part sub v) := by
  simp_all [Sys2Proof.Laws.Wf.Statement]
/-- The fields of a well-formed SLOT_START are in range. -/
theorem Sys2Proof.Laws.Wf.slotStart (port : Nat) (slot : Nat) : Sys2Proof.Laws.Wf.Statement (.slotStart port slot) := by
  simp_all [Sys2Proof.Laws.Wf.Statement]
/-- The fields of a well-formed CELL_RECEIVED are in range. -/
theorem Sys2Proof.Laws.Wf.cellReceived (port : Nat) (bytes : List Byte) (delta : Int) (fec : FecObs) : Sys2Proof.Laws.Wf.Statement (.cellReceived port bytes delta fec) := by
  simp_all [Sys2Proof.Laws.Wf.Statement]
/-- The fields of a well-formed MARKER_RECEIVED are in range. -/
theorem Sys2Proof.Laws.Wf.markerReceived (port : Nat) (bytes : List Byte) (delta : Int) (fec : FecObs) : Sys2Proof.Laws.Wf.Statement (.markerReceived port bytes delta fec) := by
  simp_all [Sys2Proof.Laws.Wf.Statement]
/-- The fields of a well-formed VIOL_UNMUTE are in range. -/
theorem Sys2Proof.Laws.Wf.violUnmute (port : Nat) : Sys2Proof.Laws.Wf.Statement (.violUnmute port) := by
  simp_all [Sys2Proof.Laws.Wf.Statement]
/-- The fields of a well-formed PORT_ENABLE are in range. -/
theorem Sys2Proof.Laws.Wf.portEnable (who : Requester) (port : Nat) : Sys2Proof.Laws.Wf.Statement (.portEnable who port) := by
  simp_all [Sys2Proof.Laws.Wf.Statement]
/-- The fields of a well-formed PORT_DISABLE are in range. -/
theorem Sys2Proof.Laws.Wf.portDisable (who : Requester) (port : Nat) : Sys2Proof.Laws.Wf.Statement (.portDisable who port) := by
  simp_all [Sys2Proof.Laws.Wf.Statement]
/-- The fields of a well-formed RESTORE_LANE are in range. -/
theorem Sys2Proof.Laws.Wf.restoreLane (who : Requester) (port : Nat) : Sys2Proof.Laws.Wf.Statement (.restoreLane who port) := by
  simp_all [Sys2Proof.Laws.Wf.Statement]
/-- The fields of a well-formed TRAINING_DONE are in range. -/
theorem Sys2Proof.Laws.Wf.trainingDone (port : Nat) (lanes : Nat) (rtt : Nat) : Sys2Proof.Laws.Wf.Statement (.trainingDone port lanes rtt) := by
  simp_all [Sys2Proof.Laws.Wf.Statement]
/-- The fields of a well-formed TRAIN_FAIL are in range. -/
theorem Sys2Proof.Laws.Wf.trainFail (port : Nat) : Sys2Proof.Laws.Wf.Statement (.trainFail port) := by
  simp_all [Sys2Proof.Laws.Wf.Statement]
/-- The fields of a well-formed LANE_FAULT are in range. -/
theorem Sys2Proof.Laws.Wf.laneFault (port : Nat) (lane : Nat) : Sys2Proof.Laws.Wf.Statement (.laneFault port lane) := by
  simp_all [Sys2Proof.Laws.Wf.Statement]
/-- The fields of a well-formed LANE_SWITCH are in range. -/
theorem Sys2Proof.Laws.Wf.laneSwitch (port : Nat) : Sys2Proof.Laws.Wf.Statement (.laneSwitch port) := by
  simp_all [Sys2Proof.Laws.Wf.Statement]
/-- The fields of a well-formed LANE_CONFIRM_TIMEOUT are in range. -/
theorem Sys2Proof.Laws.Wf.laneConfirmTimeout (port : Nat) : Sys2Proof.Laws.Wf.Statement (.laneConfirmTimeout port) := by
  simp_all [Sys2Proof.Laws.Wf.Statement]
/-- The fields of a well-formed LOS are in range. -/
theorem Sys2Proof.Laws.Wf.los (port : Nat) : Sys2Proof.Laws.Wf.Statement (.los port) := by
  simp_all [Sys2Proof.Laws.Wf.Statement]
/-- The fields of a well-formed SLOT_TABLE_WRITE are in range. -/
theorem Sys2Proof.Laws.Wf.slotTableWrite (who : Requester) (port : Nat) (table : Nat) (slot : Nat) (v : Word) : Sys2Proof.Laws.Wf.Statement (.slotTableWrite who port table slot v) := by
  simp_all [Sys2Proof.Laws.Wf.Statement]
/-- The fields of a well-formed SLOT_SWITCH_FRAME_WRITE are in range. -/
theorem Sys2Proof.Laws.Wf.slotSwitchFrameWrite (who : Requester) (port : Nat) (v : Word) : Sys2Proof.Laws.Wf.Statement (.slotSwitchFrameWrite who port v) := by
  simp_all [Sys2Proof.Laws.Wf.Statement]
/-- The fields of a well-formed SLOT_BANK_SWITCH are in range. -/
theorem Sys2Proof.Laws.Wf.slotBankSwitch (port : Nat) : Sys2Proof.Laws.Wf.Statement (.slotBankSwitch port) := by
  simp_all [Sys2Proof.Laws.Wf.Statement]
/-- The fields of a well-formed ROCE_PACKET_RECEIVED are in range. -/
theorem Sys2Proof.Laws.Wf.rocePacketReceived (eth : Nat) (pkt : RocePacket) : Sys2Proof.Laws.Wf.Statement (.rocePacketReceived eth pkt) := by
  simp_all [Sys2Proof.Laws.Wf.Statement]
/-- The fields of a well-formed QP_ERROR are in range. -/
theorem Sys2Proof.Laws.Wf.qpError (qp : Nat) : Sys2Proof.Laws.Wf.Statement (.qpError qp) := by
  simp_all [Sys2Proof.Laws.Wf.Statement]
/-- The fields of a well-formed EXCHANGE_FRAME are in range. -/
theorem Sys2Proof.Laws.Wf.exchangeFrame (group : Nat) : Sys2Proof.Laws.Wf.Statement (.exchangeFrame group) := by
  simp_all [Sys2Proof.Laws.Wf.Statement]
/-- The fields of a well-formed STAGE_SETTLE are in range. -/
theorem Sys2Proof.Laws.Wf.stageSettle (group : Nat) : Sys2Proof.Laws.Wf.Statement (.stageSettle group) := by
  simp_all [Sys2Proof.Laws.Wf.Statement]
/-- The fields of a well-formed COLLECTIVE_COMPLETE are in range. -/
theorem Sys2Proof.Laws.Wf.collectiveComplete (group : Nat) : Sys2Proof.Laws.Wf.Statement (.collectiveComplete group) := by
  simp_all [Sys2Proof.Laws.Wf.Statement]
/-- The fields of a well-formed COLL_SLACK_EXPIRY are in range. -/
theorem Sys2Proof.Laws.Wf.collSlackExpiry (group : Nat) : Sys2Proof.Laws.Wf.Statement (.collSlackExpiry group) := by
  simp_all [Sys2Proof.Laws.Wf.Statement]
/-- The fields of a well-formed RHIZOID_STAGE_REDUCED are in range. -/
theorem Sys2Proof.Laws.Wf.rhizoidStageReduced (group : Nat) : Sys2Proof.Laws.Wf.Statement (.rhizoidStageReduced group) := by
  simp_all [Sys2Proof.Laws.Wf.Statement]
/-- The fields of a well-formed XWAIT_EXPIRY are in range. -/
theorem Sys2Proof.Laws.Wf.xwaitExpiry (group : Nat) : Sys2Proof.Laws.Wf.Statement (.xwaitExpiry group) := by
  simp_all [Sys2Proof.Laws.Wf.Statement]
/-- The fields of a well-formed GROUP_DEF_WRITE are in range. -/
theorem Sys2Proof.Laws.Wf.groupDefWrite (who : Requester) (group : Nat) (v : Word) : Sys2Proof.Laws.Wf.Statement (.groupDefWrite who group v) := by
  simp_all [Sys2Proof.Laws.Wf.Statement]
/-- The fields of a well-formed PLANE_WRITE are in range. -/
theorem Sys2Proof.Laws.Wf.planeWrite (who : Requester) (sub : Nat) (v : Word) : Sys2Proof.Laws.Wf.Statement (.planeWrite who sub v) := by
  simp_all [Sys2Proof.Laws.Wf.Statement]
/-- The fields of a well-formed PART_CREATE are in range. -/
theorem Sys2Proof.Laws.Wf.partCreate (who : Requester) (part : Nat) : Sys2Proof.Laws.Wf.Statement (.partCreate who part) := by
  simp_all [Sys2Proof.Laws.Wf.Statement]
/-- The fields of a well-formed PART_DESTROY are in range. -/
theorem Sys2Proof.Laws.Wf.partDestroy (who : Requester) (part : Nat) : Sys2Proof.Laws.Wf.Statement (.partDestroy who part) := by
  simp_all [Sys2Proof.Laws.Wf.Statement]
/-- The fields of a well-formed PART_HALT are in range. -/
theorem Sys2Proof.Laws.Wf.partHalt (who : Requester) (part : Nat) : Sys2Proof.Laws.Wf.Statement (.partHalt who part) := by
  simp_all [Sys2Proof.Laws.Wf.Statement]
/-- The fields of a well-formed PART_RESUME are in range. -/
theorem Sys2Proof.Laws.Wf.partResume (who : Requester) (part : Nat) : Sys2Proof.Laws.Wf.Statement (.partResume who part) := by
  simp_all [Sys2Proof.Laws.Wf.Statement]
/-- The fields of a well-formed PART_ABORT are in range. -/
theorem Sys2Proof.Laws.Wf.partAbort (who : Requester) (part : Nat) : Sys2Proof.Laws.Wf.Statement (.partAbort who part) := by
  simp_all [Sys2Proof.Laws.Wf.Statement]
/-- The fields of a well-formed HALTED_REACHED are in range. -/
theorem Sys2Proof.Laws.Wf.haltedReached (part : Nat) : Sys2Proof.Laws.Wf.Statement (.haltedReached part) := by
  simp_all [Sys2Proof.Laws.Wf.Statement]
/-- The fields of a well-formed CTX_CREATE are in range. -/
theorem Sys2Proof.Laws.Wf.ctxCreate (who : Requester) (ctx : Nat) (part : Nat) : Sys2Proof.Laws.Wf.Statement (.ctxCreate who ctx part) := by
  simp_all [Sys2Proof.Laws.Wf.Statement]
/-- The fields of a well-formed CTX_DESTROY are in range. -/
theorem Sys2Proof.Laws.Wf.ctxDestroy (who : Requester) (ctx : Nat) : Sys2Proof.Laws.Wf.Statement (.ctxDestroy who ctx) := by
  simp_all [Sys2Proof.Laws.Wf.Statement]
/-- The fields of a well-formed RING_CREATE are in range. -/
theorem Sys2Proof.Laws.Wf.ringCreate (who : Requester) (ring : Nat) : Sys2Proof.Laws.Wf.Statement (.ringCreate who ring) := by
  simp_all [Sys2Proof.Laws.Wf.Statement]
/-- The fields of a well-formed RING_ENABLE are in range. -/
theorem Sys2Proof.Laws.Wf.ringEnable (who : Requester) (ring : Nat) : Sys2Proof.Laws.Wf.Statement (.ringEnable who ring) := by
  simp_all [Sys2Proof.Laws.Wf.Statement]
/-- The fields of a well-formed RING_DISABLE are in range. -/
theorem Sys2Proof.Laws.Wf.ringDisable (who : Requester) (ring : Nat) : Sys2Proof.Laws.Wf.Statement (.ringDisable who ring) := by
  simp_all [Sys2Proof.Laws.Wf.Statement]
/-- The fields of a well-formed RING_DESTROY are in range. -/
theorem Sys2Proof.Laws.Wf.ringDestroy (who : Requester) (ring : Nat) : Sys2Proof.Laws.Wf.Statement (.ringDestroy who ring) := by
  simp_all [Sys2Proof.Laws.Wf.Statement]
/-- The fields of a well-formed DRAIN_COMPLETE are in range. -/
theorem Sys2Proof.Laws.Wf.drainComplete (ring : Nat) : Sys2Proof.Laws.Wf.Statement (.drainComplete ring) := by
  simp_all [Sys2Proof.Laws.Wf.Statement]
/-- The fields of a well-formed ABORT_COMPLETE are in range. -/
theorem Sys2Proof.Laws.Wf.abortComplete (job : Nat) : Sys2Proof.Laws.Wf.Statement (.abortComplete job) := by
  simp_all [Sys2Proof.Laws.Wf.Statement]
/-- The fields of a well-formed ABORT_STOP are in range. -/
theorem Sys2Proof.Laws.Wf.abortStop (id : Nat) : Sys2Proof.Laws.Wf.Statement (.abortStop id) := by
  simp_all [Sys2Proof.Laws.Wf.Statement]
/-- The fields of a well-formed FENCE_CREATE are in range. -/
theorem Sys2Proof.Laws.Wf.fenceCreate (who : Requester) (fence : Nat) (ctx : Nat) (exportable : Bool) (imported : Bool) : Sys2Proof.Laws.Wf.Statement (.fenceCreate who fence ctx exportable imported) := by
  simp_all [Sys2Proof.Laws.Wf.Statement]
/-- The fields of a well-formed FENCE_DESTROY are in range. -/
theorem Sys2Proof.Laws.Wf.fenceDestroy (who : Requester) (fence : Nat) : Sys2Proof.Laws.Wf.Statement (.fenceDestroy who fence) := by
  simp_all [Sys2Proof.Laws.Wf.Statement]
/-- The fields of a well-formed FENCE_SIGNAL_CMD are in range. -/
theorem Sys2Proof.Laws.Wf.fenceSignalCmd (who : Requester) (fence : Nat) : Sys2Proof.Laws.Wf.Statement (.fenceSignalCmd who fence) := by
  simp_all [Sys2Proof.Laws.Wf.Statement]
/-- The fields of a well-formed FENCE_RESET are in range. -/
theorem Sys2Proof.Laws.Wf.fenceReset (who : Requester) (fence : Nat) : Sys2Proof.Laws.Wf.Statement (.fenceReset who fence) := by
  simp_all [Sys2Proof.Laws.Wf.Statement]
/-- The fields of a well-formed FENCE_SUBS_WRITE are in range. -/
theorem Sys2Proof.Laws.Wf.fenceSubsWrite (who : Requester) (fence : Nat) (v : Word) : Sys2Proof.Laws.Wf.Statement (.fenceSubsWrite who fence v) := by
  simp_all [Sys2Proof.Laws.Wf.Statement]
/-- The fields of a well-formed FENCE_HANDLE_WRITE are in range. -/
theorem Sys2Proof.Laws.Wf.fenceHandleWrite (who : Requester) (fence : Nat) (link : Bool) (v : Word) : Sys2Proof.Laws.Wf.Statement (.fenceHandleWrite who fence link v) := by
  simp_all [Sys2Proof.Laws.Wf.Statement]
/-- The fields of a well-formed FENCE_PAGE_SIGNAL are in range. -/
theorem Sys2Proof.Laws.Wf.fencePageSignal (fn : Nat) (fence : Nat) (gen : Nat) : Sys2Proof.Laws.Wf.Statement (.fencePageSignal fn fence gen) := by
  simp_all [Sys2Proof.Laws.Wf.Statement]
/-- The fields of a well-formed FENCE_PAGE_RESET are in range. -/
theorem Sys2Proof.Laws.Wf.fencePageReset (fn : Nat) (fence : Nat) (gen : Nat) : Sys2Proof.Laws.Wf.Statement (.fencePageReset fn fence gen) := by
  simp_all [Sys2Proof.Laws.Wf.Statement]
/-- The fields of a well-formed CORE_OWNER_WRITE are in range. -/
theorem Sys2Proof.Laws.Wf.coreOwnerWrite (who : Requester) (frond : Nat) (v : Word) : Sys2Proof.Laws.Wf.Statement (.coreOwnerWrite who frond v) := by
  simp_all [Sys2Proof.Laws.Wf.Statement]
/-- The fields of a well-formed GRANULE_OWNER_WRITE are in range. -/
theorem Sys2Proof.Laws.Wf.granuleOwnerWrite (who : Requester) (bytes : List Byte) : Sys2Proof.Laws.Wf.Statement (.granuleOwnerWrite who bytes) := by
  simp_all [Sys2Proof.Laws.Wf.Statement]
/-- The fields of a well-formed GRANULE_ZEROED are in range. -/
theorem Sys2Proof.Laws.Wf.granuleZeroed : Sys2Proof.Laws.Wf.Statement (.granuleZeroed) := by
  simp_all [Sys2Proof.Laws.Wf.Statement]
/-- The fields of a well-formed MAP_BASE_WRITE are in range. -/
theorem Sys2Proof.Laws.Wf.mapBaseWrite (who : Requester) (part : Nat) (v : Word) : Sys2Proof.Laws.Wf.Statement (.mapBaseWrite who part v) := by
  simp_all [Sys2Proof.Laws.Wf.Statement]
/-- The fields of a well-formed MAP_SYNC are in range. -/
theorem Sys2Proof.Laws.Wf.mapSync (who : Requester) (part : Nat) (v : Word) : Sys2Proof.Laws.Wf.Statement (.mapSync who part v) := by
  simp_all [Sys2Proof.Laws.Wf.Statement]
/-- The fields of a well-formed RUNAHEAD_WRITE are in range. -/
theorem Sys2Proof.Laws.Wf.runaheadWrite (who : Requester) (part : Nat) (v : Word) : Sys2Proof.Laws.Wf.Statement (.runaheadWrite who part v) := by
  simp_all [Sys2Proof.Laws.Wf.Statement]
/-- The fields of a well-formed BULK_READ are in range. -/
theorem Sys2Proof.Laws.Wf.bulkRead (who : Requester) (idx : Nat) (sub : Nat) : Sys2Proof.Laws.Wf.Statement (.bulkRead who idx sub) := by
  simp_all [Sys2Proof.Laws.Wf.Statement]
/-- The fields of a well-formed BULK_WRITE are in range. -/
theorem Sys2Proof.Laws.Wf.bulkWrite (who : Requester) (idx : Nat) (sub : Nat) (len : Nat) : Sys2Proof.Laws.Wf.Statement (.bulkWrite who idx sub len) := by
  simp_all [Sys2Proof.Laws.Wf.Statement]
/-- The fields of a well-formed DICT_CLEAR are in range. -/
theorem Sys2Proof.Laws.Wf.dictClear (who : Requester) (v : Word) : Sys2Proof.Laws.Wf.Statement (.dictClear who v) := by
  simp_all [Sys2Proof.Laws.Wf.Statement]
/-- The fields of a well-formed DICT_WRITE are in range. -/
theorem Sys2Proof.Laws.Wf.dictWrite (who : Requester) (offset : Nat) (bytes : Nat) (v : Word) : Sys2Proof.Laws.Wf.Statement (.dictWrite who offset bytes v) := by
  simp_all [Sys2Proof.Laws.Wf.Statement]
/-- The fields of a well-formed PERSIST_SAVE are in range. -/
theorem Sys2Proof.Laws.Wf.persistSave (who : Requester) : Sys2Proof.Laws.Wf.Statement (.persistSave who) := by
  simp_all [Sys2Proof.Laws.Wf.Statement]
/-- The fields of a well-formed PERSIST_SAVE_DONE are in range. -/
theorem Sys2Proof.Laws.Wf.persistSaveDone (ok : Bool) : Sys2Proof.Laws.Wf.Statement (.persistSaveDone ok) := by
  simp_all [Sys2Proof.Laws.Wf.Statement]
/-- The fields of a well-formed PERSIST_ERASE are in range. -/
theorem Sys2Proof.Laws.Wf.persistErase (who : Requester) : Sys2Proof.Laws.Wf.Statement (.persistErase who) := by
  simp_all [Sys2Proof.Laws.Wf.Statement]
/-- The fields of a well-formed SENSOR_SAMPLE are in range. -/
theorem Sys2Proof.Laws.Wf.sensorSample (ch : Nat) (value : Int) (faulty : Bool) : Sys2Proof.Laws.Wf.Statement (.sensorSample ch value faulty) := by
  simp_all [Sys2Proof.Laws.Wf.Statement]
/-- The fields of a well-formed POWER_ON are in range. -/
theorem Sys2Proof.Laws.Wf.powerOn (who : Requester) : Sys2Proof.Laws.Wf.Statement (.powerOn who) := by
  simp_all [Sys2Proof.Laws.Wf.Statement]
/-- The fields of a well-formed POWER_OFF are in range. -/
theorem Sys2Proof.Laws.Wf.powerOff (who : Requester) : Sys2Proof.Laws.Wf.Statement (.powerOff who) := by
  simp_all [Sys2Proof.Laws.Wf.Statement]
/-- The fields of a well-formed CHIP_RESET are in range. -/
theorem Sys2Proof.Laws.Wf.chipReset (who : Requester) : Sys2Proof.Laws.Wf.Statement (.chipReset who) := by
  simp_all [Sys2Proof.Laws.Wf.Statement]
/-- The fields of a well-formed POWER_CYCLE are in range. -/
theorem Sys2Proof.Laws.Wf.powerCycle (who : Requester) : Sys2Proof.Laws.Wf.Statement (.powerCycle who) := by
  simp_all [Sys2Proof.Laws.Wf.Statement]
/-- The fields of a well-formed MARIONETTE_BOOT are in range. -/
theorem Sys2Proof.Laws.Wf.marionetteBoot (straps : Nat) : Sys2Proof.Laws.Wf.Statement (.marionetteBoot straps) := by
  simp_all [Sys2Proof.Laws.Wf.Statement]
/-- The fields of a well-formed MARIONETTE_RESTART are in range. -/
theorem Sys2Proof.Laws.Wf.marionetteRestart : Sys2Proof.Laws.Wf.Statement (.marionetteRestart) := by
  simp_all [Sys2Proof.Laws.Wf.Statement]
/-- The fields of a well-formed DAP_READ are in range. -/
theorem Sys2Proof.Laws.Wf.dapRead (node : Nat) (txn : Nat) (idx : Nat) (sub : Nat) : Sys2Proof.Laws.Wf.Statement (.dapRead node txn idx sub) := by
  simp_all [Sys2Proof.Laws.Wf.Statement]
/-- The fields of a well-formed DAP_WRITE are in range. -/
theorem Sys2Proof.Laws.Wf.dapWrite (node : Nat) (txn : Nat) (idx : Nat) (sub : Nat) (v : List Byte) : Sys2Proof.Laws.Wf.Statement (.dapWrite node txn idx sub v) := by
  simp_all [Sys2Proof.Laws.Wf.Statement]
/-- The fields of a well-formed SEG_READ_INIT are in range. -/
theorem Sys2Proof.Laws.Wf.segReadInit (node : Nat) (txn : Nat) (idx : Nat) (sub : Nat) : Sys2Proof.Laws.Wf.Statement (.segReadInit node txn idx sub) := by
  simp_all [Sys2Proof.Laws.Wf.Statement]
/-- The fields of a well-formed SEG_READ_NEXT are in range. -/
theorem Sys2Proof.Laws.Wf.segReadNext (node : Nat) (txn : Nat) (idx : Nat) (sub : Nat) (k : Nat) : Sys2Proof.Laws.Wf.Statement (.segReadNext node txn idx sub k) := by
  simp_all [Sys2Proof.Laws.Wf.Statement]
/-- The fields of a well-formed SEG_WRITE_INIT are in range. -/
theorem Sys2Proof.Laws.Wf.segWriteInit (node : Nat) (txn : Nat) (idx : Nat) (sub : Nat) (total : Nat) : Sys2Proof.Laws.Wf.Statement (.segWriteInit node txn idx sub total) := by
  simp_all [Sys2Proof.Laws.Wf.Statement]
/-- The fields of a well-formed SEG_WRITE_DATA are in range. -/
theorem Sys2Proof.Laws.Wf.segWriteData (node : Nat) (txn : Nat) (idx : Nat) (sub : Nat) (k : Nat) (bytes : List Byte) : Sys2Proof.Laws.Wf.Statement (.segWriteData node txn idx sub k bytes) := by
  simp_all [Sys2Proof.Laws.Wf.Statement]
/-- The fields of a well-formed SEG_ABORT are in range. -/
theorem Sys2Proof.Laws.Wf.segAbort (node : Nat) (txn : Nat) (idx : Nat) (sub : Nat) : Sys2Proof.Laws.Wf.Statement (.segAbort node txn idx sub) := by
  simp_all [Sys2Proof.Laws.Wf.Statement]
/-- The fields of a well-formed SEG_TRANSFER_TIMEOUT are in range. -/
theorem Sys2Proof.Laws.Wf.segTransferTimeout (node : Nat) : Sys2Proof.Laws.Wf.Statement (.segTransferTimeout node) := by
  simp_all [Sys2Proof.Laws.Wf.Statement]
/-- The fields of a well-formed SEARCH are in range. -/
theorem Sys2Proof.Laws.Wf.search (node : Nat) (epoch : Nat) (window : Nat) : Sys2Proof.Laws.Wf.Statement (.search node epoch window) := by
  simp_all [Sys2Proof.Laws.Wf.Statement]
/-- The fields of a well-formed SEARCH_REPLY are in range. -/
theorem Sys2Proof.Laws.Wf.searchReply (waited : Nat) : Sys2Proof.Laws.Wf.Statement (.searchReply waited) := by
  simp_all [Sys2Proof.Laws.Wf.Statement]
/-- The fields of a well-formed LATE_SEARCH_ANNOUNCE are in range. -/
theorem Sys2Proof.Laws.Wf.lateSearchAnnounce : Sys2Proof.Laws.Wf.Statement (.lateSearchAnnounce) := by
  simp_all [Sys2Proof.Laws.Wf.Statement]
/-- The fields of a well-formed ANNOUNCE are in range. -/
theorem Sys2Proof.Laws.Wf.announce : Sys2Proof.Laws.Wf.Statement (.announce) := by
  simp_all [Sys2Proof.Laws.Wf.Statement]
/-- The fields of a well-formed HEARTBEAT are in range. -/
theorem Sys2Proof.Laws.Wf.heartbeat : Sys2Proof.Laws.Wf.Statement (.heartbeat) := by
  simp_all [Sys2Proof.Laws.Wf.Statement]
/-- The fields of a well-formed NODE_PRESENT are in range. -/
theorem Sys2Proof.Laws.Wf.nodePresent (node : Nat) (period : Option Nat) (epoch : Option Nat) : Sys2Proof.Laws.Wf.Statement (.nodePresent node period epoch) := by
  simp_all [Sys2Proof.Laws.Wf.Statement]
/-- The fields of a well-formed NODE_ABSENT are in range. -/
theorem Sys2Proof.Laws.Wf.nodeAbsent (node : Nat) : Sys2Proof.Laws.Wf.Statement (.nodeAbsent node) := by
  simp_all [Sys2Proof.Laws.Wf.Statement]
/-- The fields of a well-formed DUP_ID are in range. -/
theorem Sys2Proof.Laws.Wf.dupId : Sys2Proof.Laws.Wf.Statement (.dupId) := by
  simp_all [Sys2Proof.Laws.Wf.Statement]
/-- The fields of a well-formed BUS_OFF_RECOVERY are in range. -/
theorem Sys2Proof.Laws.Wf.busOffRecovery : Sys2Proof.Laws.Wf.Statement (.busOffRecovery) := by
  simp_all [Sys2Proof.Laws.Wf.Statement]
/-- The fields of a well-formed UPDATE_OPEN are in range. -/
theorem Sys2Proof.Laws.Wf.updateOpen (who : Requester) : Sys2Proof.Laws.Wf.Statement (.updateOpen who) := by
  simp_all [Sys2Proof.Laws.Wf.Statement]
/-- The fields of a well-formed UPDATE_CHUNK are in range. -/
theorem Sys2Proof.Laws.Wf.updateChunk (who : Requester) (bytes : List Byte) : Sys2Proof.Laws.Wf.Statement (.updateChunk who bytes) := by
  simp_all [Sys2Proof.Laws.Wf.Statement]
/-- The fields of a well-formed UPDATE_VERIFY are in range. -/
theorem Sys2Proof.Laws.Wf.updateVerify (who : Requester) : Sys2Proof.Laws.Wf.Statement (.updateVerify who) := by
  simp_all [Sys2Proof.Laws.Wf.Statement]
/-- The fields of a well-formed UPDATE_VERIFY_DONE are in range. -/
theorem Sys2Proof.Laws.Wf.updateVerifyDone (sigOk : Bool) : Sys2Proof.Laws.Wf.Statement (.updateVerifyDone sigOk) := by
  simp_all [Sys2Proof.Laws.Wf.Statement]
/-- The fields of a well-formed UPDATE_ACTIVATE are in range. -/
theorem Sys2Proof.Laws.Wf.updateActivate (who : Requester) : Sys2Proof.Laws.Wf.Statement (.updateActivate who) := by
  simp_all [Sys2Proof.Laws.Wf.Statement]
/-- The fields of a well-formed UPDATE_COMMIT are in range. -/
theorem Sys2Proof.Laws.Wf.updateCommit (who : Requester) : Sys2Proof.Laws.Wf.Statement (.updateCommit who) := by
  simp_all [Sys2Proof.Laws.Wf.Statement]
/-- The fields of a well-formed UPDATE_CANCEL are in range. -/
theorem Sys2Proof.Laws.Wf.updateCancel (who : Requester) : Sys2Proof.Laws.Wf.Statement (.updateCancel who) := by
  simp_all [Sys2Proof.Laws.Wf.Statement]
/-- The fields of a well-formed UPDATE_REVERTED are in range. -/
theorem Sys2Proof.Laws.Wf.updateReverted : Sys2Proof.Laws.Wf.Statement (.updateReverted) := by
  simp_all [Sys2Proof.Laws.Wf.Statement]
/-- The fields of a well-formed UPDATE_SESSION_TIMEOUT are in range. -/
theorem Sys2Proof.Laws.Wf.updateSessionTimeout : Sys2Proof.Laws.Wf.Statement (.updateSessionTimeout) := by
  simp_all [Sys2Proof.Laws.Wf.Statement]
/-- The fields of a well-formed CHIP_RESET_RELEASE are in range. -/
theorem Sys2Proof.Laws.Wf.chipResetRelease : Sys2Proof.Laws.Wf.Statement (.chipResetRelease) := by
  simp_all [Sys2Proof.Laws.Wf.Statement]
/-- The fields of a well-formed BOOT_WAIT_ENTERED are in range. -/
theorem Sys2Proof.Laws.Wf.bootWaitEntered : Sys2Proof.Laws.Wf.Statement (.bootWaitEntered) := by
  simp_all [Sys2Proof.Laws.Wf.Statement]
/-- The fields of a well-formed FW_VERIFY are in range. -/
theorem Sys2Proof.Laws.Wf.fwVerify (who : Requester) : Sys2Proof.Laws.Wf.Statement (.fwVerify who) := by
  simp_all [Sys2Proof.Laws.Wf.Statement]
/-- The fields of a well-formed FW_CLEAR are in range. -/
theorem Sys2Proof.Laws.Wf.fwClear (who : Requester) : Sys2Proof.Laws.Wf.Statement (.fwClear who) := by
  simp_all [Sys2Proof.Laws.Wf.Statement]
/-- The fields of a well-formed STAGING_WRITE are in range. -/
theorem Sys2Proof.Laws.Wf.stagingWrite (fn : Nat) (off : Nat) (bytes : List Byte) : Sys2Proof.Laws.Wf.Statement (.stagingWrite fn off bytes) := by
  simp_all [Sys2Proof.Laws.Wf.Statement]
/-- The fields of a well-formed PROXY_CELL_RECEIVED are in range. -/
theorem Sys2Proof.Laws.Wf.proxyCellReceived (port : Nat) (bytes : List Byte) : Sys2Proof.Laws.Wf.Statement (.proxyCellReceived port bytes) := by
  simp_all [Sys2Proof.Laws.Wf.Statement]
/-- The fields of a well-formed PROXY_BIND_TIMEOUT are in range. -/
theorem Sys2Proof.Laws.Wf.proxyBindTimeout : Sys2Proof.Laws.Wf.Statement (.proxyBindTimeout) := by
  simp_all [Sys2Proof.Laws.Wf.Statement]
/-- The fields of a well-formed VERIFY_DONE are in range. -/
theorem Sys2Proof.Laws.Wf.verifyDone (sigOk : Bool) : Sys2Proof.Laws.Wf.Statement (.verifyDone sigOk) := by
  simp_all [Sys2Proof.Laws.Wf.Statement]
/-- The fields of a well-formed PROXY_FORWARD are in range. -/
theorem Sys2Proof.Laws.Wf.proxyForward : Sys2Proof.Laws.Wf.Statement (.proxyForward) := by
  simp_all [Sys2Proof.Laws.Wf.Statement]
/-- The fields of a well-formed PROXY_SEND are in range. -/
theorem Sys2Proof.Laws.Wf.proxySend (who : Requester) (v : Word) : Sys2Proof.Laws.Wf.Statement (.proxySend who v) := by
  simp_all [Sys2Proof.Laws.Wf.Statement]
/-- The fields of a well-formed FW_START_DONE are in range. -/
theorem Sys2Proof.Laws.Wf.fwStartDone (ok : Bool) : Sys2Proof.Laws.Wf.Statement (.fwStartDone ok) := by
  simp_all [Sys2Proof.Laws.Wf.Statement]
/-- The fields of a well-formed HBM_TRAIN_DONE are in range. -/
theorem Sys2Proof.Laws.Wf.hbmTrainDone (ok : Bool) : Sys2Proof.Laws.Wf.Statement (.hbmTrainDone ok) := by
  simp_all [Sys2Proof.Laws.Wf.Statement]
/-- The fields of a well-formed LINK_TRAIN_DONE are in range. -/
theorem Sys2Proof.Laws.Wf.linkTrainDone : Sys2Proof.Laws.Wf.Statement (.linkTrainDone) := by
  simp_all [Sys2Proof.Laws.Wf.Statement]
/-- The fields of a well-formed READY are in range. -/
theorem Sys2Proof.Laws.Wf.ready (bootMs : Nat) : Sys2Proof.Laws.Wf.Statement (.ready bootMs) := by
  simp_all [Sys2Proof.Laws.Wf.Statement]
/-- The fields of a well-formed FW_FLOOR_RAISE are in range. -/
theorem Sys2Proof.Laws.Wf.fwFloorRaise (who : Requester) (v : Word) : Sys2Proof.Laws.Wf.Statement (.fwFloorRaise who v) := by
  simp_all [Sys2Proof.Laws.Wf.Statement]
/-- The fields of a well-formed WATCHDOG_EXPIRY are in range. -/
theorem Sys2Proof.Laws.Wf.watchdogExpiry (cmu : Bool) (unit : Nat) : Sys2Proof.Laws.Wf.Statement (.watchdogExpiry cmu unit) := by
  simp_all [Sys2Proof.Laws.Wf.Statement]
/-- The fields of a well-formed CORE_FENCE are in range. -/
theorem Sys2Proof.Laws.Wf.coreFence (who : Requester) (core : Nat) (v : Word) : Sys2Proof.Laws.Wf.Statement (.coreFence who core v) := by
  simp_all [Sys2Proof.Laws.Wf.Statement]
/-- The fields of a well-formed SPARE_MAPPED are in range. -/
theorem Sys2Proof.Laws.Wf.spareMapped (frond : Nat) (slot : Nat) : Sys2Proof.Laws.Wf.Statement (.spareMapped frond slot) := by
  simp_all [Sys2Proof.Laws.Wf.Statement]
/-- The fields of a well-formed SPARE_SELFTEST_DONE are in range. -/
theorem Sys2Proof.Laws.Wf.spareSelftestDone (frond : Nat) (slot : Nat) (ok : Bool) : Sys2Proof.Laws.Wf.Statement (.spareSelftestDone frond slot ok) := by
  simp_all [Sys2Proof.Laws.Wf.Statement]
/-- The fields of a well-formed RELOAD_START are in range. -/
theorem Sys2Proof.Laws.Wf.reloadStart (frond : Nat) (slot : Nat) : Sys2Proof.Laws.Wf.Statement (.reloadStart frond slot) := by
  simp_all [Sys2Proof.Laws.Wf.Statement]
/-- The fields of a well-formed RELOAD_LANDED are in range. -/
theorem Sys2Proof.Laws.Wf.reloadLanded (frond : Nat) (slot : Nat) : Sys2Proof.Laws.Wf.Statement (.reloadLanded frond slot) := by
  simp_all [Sys2Proof.Laws.Wf.Statement]
/-- The fields of a well-formed RECOVERY_RUN_DONE are in range. -/
theorem Sys2Proof.Laws.Wf.recoveryRunDone (frond : Nat) (slot : Nat) (o : RunObs) : Sys2Proof.Laws.Wf.Statement (.recoveryRunDone frond slot o) := by
  simp_all [Sys2Proof.Laws.Wf.Statement]
/-- The fields of a well-formed RECOVERY_DONE are in range. -/
theorem Sys2Proof.Laws.Wf.recoveryDone (part : Nat) : Sys2Proof.Laws.Wf.Statement (.recoveryDone part) := by
  simp_all [Sys2Proof.Laws.Wf.Statement]
/-- The fields of a well-formed FC_RESTART are in range. -/
theorem Sys2Proof.Laws.Wf.fcRestart (frond : Nat) : Sys2Proof.Laws.Wf.Statement (.fcRestart frond) := by
  simp_all [Sys2Proof.Laws.Wf.Statement]
/-- The fields of a well-formed FC_RESTART_DONE are in range. -/
theorem Sys2Proof.Laws.Wf.fcRestartDone (frond : Nat) (ok : Bool) : Sys2Proof.Laws.Wf.Statement (.fcRestartDone frond ok) := by
  simp_all [Sys2Proof.Laws.Wf.Statement]
/-- The fields of a well-formed FW_SWAP_VERIFY are in range. -/
theorem Sys2Proof.Laws.Wf.fwSwapVerify (who : Requester) (sigOk : Bool) : Sys2Proof.Laws.Wf.Statement (.fwSwapVerify who sigOk) := by
  simp_all [Sys2Proof.Laws.Wf.Statement]
/-- The fields of a well-formed FW_SWAP_STAGED are in range. -/
theorem Sys2Proof.Laws.Wf.fwSwapStaged : Sys2Proof.Laws.Wf.Statement (.fwSwapStaged) := by
  simp_all [Sys2Proof.Laws.Wf.Statement]
/-- The fields of a well-formed FW_SWAP_SWAP are in range. -/
theorem Sys2Proof.Laws.Wf.fwSwapSwap (who : Requester) : Sys2Proof.Laws.Wf.Statement (.fwSwapSwap who) := by
  simp_all [Sys2Proof.Laws.Wf.Statement]
/-- The fields of a well-formed FW_SWAP_REVERT are in range. -/
theorem Sys2Proof.Laws.Wf.fwSwapRevert (who : Requester) : Sys2Proof.Laws.Wf.Statement (.fwSwapRevert who) := by
  simp_all [Sys2Proof.Laws.Wf.Statement]
/-- The fields of a well-formed FW_SWAP_CANCEL are in range. -/
theorem Sys2Proof.Laws.Wf.fwSwapCancel (who : Requester) : Sys2Proof.Laws.Wf.Statement (.fwSwapCancel who) := by
  simp_all [Sys2Proof.Laws.Wf.Statement]
/-- The fields of a well-formed FW_SWAP_APPLY are in range. -/
theorem Sys2Proof.Laws.Wf.fwSwapApply : Sys2Proof.Laws.Wf.Statement (.fwSwapApply) := by
  simp_all [Sys2Proof.Laws.Wf.Statement]
/-- The fields of a well-formed BAR4_ACCESS are in range. -/
theorem Sys2Proof.Laws.Wf.bar4Access (fn : Nat) (off : Nat) (req : Bar4Req) : Sys2Proof.Laws.Wf.Statement (.bar4Access fn off req) := by
  simp_all [Sys2Proof.Laws.Wf.Statement]
/-- The fields of a well-formed VF_ENABLE_CLEAR are in range. -/
theorem Sys2Proof.Laws.Wf.vfEnableClear : Sys2Proof.Laws.Wf.Statement (.vfEnableClear) := by
  simp_all [Sys2Proof.Laws.Wf.Statement]
/-- The fields of a well-formed FLR are in range. -/
theorem Sys2Proof.Laws.Wf.flr (fn : Nat) : Sys2Proof.Laws.Wf.Statement (.flr fn) := by
  simp_all [Sys2Proof.Laws.Wf.Statement]
/-- The fields of a well-formed PCIE_RESET are in range. -/
theorem Sys2Proof.Laws.Wf.pcieReset : Sys2Proof.Laws.Wf.Statement (.pcieReset) := by
  simp_all [Sys2Proof.Laws.Wf.Statement]
/-- The fields of a well-formed DL_DOWN are in range. -/
theorem Sys2Proof.Laws.Wf.dlDown : Sys2Proof.Laws.Wf.Statement (.dlDown) := by
  simp_all [Sys2Proof.Laws.Wf.Statement]
/-- The fields of a well-formed MSIX_UNMASK are in range. -/
theorem Sys2Proof.Laws.Wf.msixUnmask (fn : Nat) (vec : Option Nat) : Sys2Proof.Laws.Wf.Statement (.msixUnmask fn vec) := by
  simp_all [Sys2Proof.Laws.Wf.Statement]
/-- The fields of a well-formed BUS_MASTER_ENABLE are in range. -/
theorem Sys2Proof.Laws.Wf.busMasterEnable (fn : Nat) (d0 : Bool) : Sys2Proof.Laws.Wf.Statement (.busMasterEnable fn d0) := by
  simp_all [Sys2Proof.Laws.Wf.Statement]
/-- The fields of a well-formed INPUT_ENABLE are in range. -/
theorem Sys2Proof.Laws.Wf.inputEnable : Sys2Proof.Laws.Wf.Statement (.inputEnable) := by
  simp_all [Sys2Proof.Laws.Wf.Statement]
/-- The fields of a well-formed INPUT_UNDERVOLTAGE are in range. -/
theorem Sys2Proof.Laws.Wf.inputUndervoltage : Sys2Proof.Laws.Wf.Statement (.inputUndervoltage) := by
  simp_all [Sys2Proof.Laws.Wf.Statement]
/-- The fields of a well-formed INPUT_FAULT are in range. -/
theorem Sys2Proof.Laws.Wf.inputFault (voltage : Bool) : Sys2Proof.Laws.Wf.Statement (.inputFault voltage) := by
  simp_all [Sys2Proof.Laws.Wf.Statement]
/-- The fields of a well-formed INPUT_REENABLE are in range. -/
theorem Sys2Proof.Laws.Wf.inputReenable : Sys2Proof.Laws.Wf.Statement (.inputReenable) := by
  simp_all [Sys2Proof.Laws.Wf.Statement]
/-- The fields of a well-formed THERM_TRIP are in range. -/
theorem Sys2Proof.Laws.Wf.thermTrip (ch : Nat) (value : Int) : Sys2Proof.Laws.Wf.Statement (.thermTrip ch value) := by
  simp_all [Sys2Proof.Laws.Wf.Statement]
/-- The fields of a well-formed STOP_ASSERTED are in range. -/
theorem Sys2Proof.Laws.Wf.stopAsserted : Sys2Proof.Laws.Wf.Statement (.stopAsserted) := by
  simp_all [Sys2Proof.Laws.Wf.Statement]
/-- The fields of a well-formed STOP_CHATTER are in range. -/
theorem Sys2Proof.Laws.Wf.stopChatter : Sys2Proof.Laws.Wf.Statement (.stopChatter) := by
  simp_all [Sys2Proof.Laws.Wf.Statement]
/-- The fields of a well-formed CHATTER_END are in range. -/
theorem Sys2Proof.Laws.Wf.chatterEnd (level : Bool) : Sys2Proof.Laws.Wf.Statement (.chatterEnd level) := by
  simp_all [Sys2Proof.Laws.Wf.Statement]
/-- The fields of a well-formed STOP_RELEASED are in range. -/
theorem Sys2Proof.Laws.Wf.stopReleased : Sys2Proof.Laws.Wf.Statement (.stopReleased) := by
  simp_all [Sys2Proof.Laws.Wf.Statement]
/-- The fields of a well-formed STOP_REARM are in range. -/
theorem Sys2Proof.Laws.Wf.stopRearm (who : Requester) (v : Word) : Sys2Proof.Laws.Wf.Statement (.stopRearm who v) := by
  simp_all [Sys2Proof.Laws.Wf.Statement]
/-- The fields of a well-formed STRINGS_LINE_SHORT are in range. -/
theorem Sys2Proof.Laws.Wf.stringsLineShort (busOff : Bool) : Sys2Proof.Laws.Wf.Statement (.stringsLineShort busOff) := by
  simp_all [Sys2Proof.Laws.Wf.Statement]
/-- The fields of a well-formed STRINGS_LINE_OPEN are in range. -/
theorem Sys2Proof.Laws.Wf.stringsLineOpen : Sys2Proof.Laws.Wf.Statement (.stringsLineOpen) := by
  simp_all [Sys2Proof.Laws.Wf.Statement]
/-- The fields of a well-formed DOMINANT_TIMEOUT are in range. -/
theorem Sys2Proof.Laws.Wf.dominantTimeout (busOff : Bool) : Sys2Proof.Laws.Wf.Statement (.dominantTimeout busOff) := by
  simp_all [Sys2Proof.Laws.Wf.Statement]
/-- The fields of a well-formed SYNC_LINE_OK are in range. -/
theorem Sys2Proof.Laws.Wf.syncLineOk : Sys2Proof.Laws.Wf.Statement (.syncLineOk) := by
  simp_all [Sys2Proof.Laws.Wf.Statement]
/-- The fields of a well-formed STRINGS_RECONNECT are in range. -/
theorem Sys2Proof.Laws.Wf.stringsReconnect : Sys2Proof.Laws.Wf.Statement (.stringsReconnect) := by
  simp_all [Sys2Proof.Laws.Wf.Statement]
/-- The fields of a well-formed LOSS_CLEARED are in range. -/
theorem Sys2Proof.Laws.Wf.lossCleared (port : Nat) : Sys2Proof.Laws.Wf.Statement (.lossCleared port) := by
  simp_all [Sys2Proof.Laws.Wf.Statement]
/-- The fields of a well-formed ETH_LINK_UP are in range. -/
theorem Sys2Proof.Laws.Wf.ethLinkUp (eth : Nat) : Sys2Proof.Laws.Wf.Statement (.ethLinkUp eth) := by
  simp_all [Sys2Proof.Laws.Wf.Statement]
/-- The fields of a well-formed ETH_LINK_DOWN are in range. -/
theorem Sys2Proof.Laws.Wf.ethLinkDown (eth : Nat) : Sys2Proof.Laws.Wf.Statement (.ethLinkDown eth) := by
  simp_all [Sys2Proof.Laws.Wf.Statement]
/-- The fields of a well-formed BUS_MASTER_DISABLE are in range. -/
theorem Sys2Proof.Laws.Wf.busMasterDisable (fn : Nat) (d3 : Bool) : Sys2Proof.Laws.Wf.Statement (.busMasterDisable fn d3) := by
  simp_all [Sys2Proof.Laws.Wf.Statement]
/-- The fields of a well-formed DL_UP are in range. -/
theorem Sys2Proof.Laws.Wf.dlUp : Sys2Proof.Laws.Wf.Statement (.dlUp) := by
  simp_all [Sys2Proof.Laws.Wf.Statement]
/-- The fields of a well-formed VF_ENABLE_SET are in range. -/
theorem Sys2Proof.Laws.Wf.vfEnableSet (numVfs : Nat) : Sys2Proof.Laws.Wf.Statement (.vfEnableSet numVfs) := by
  simp_all [Sys2Proof.Laws.Wf.Statement]
/-- The fields of a well-formed PTM_ENABLE_SET are in range. -/
theorem Sys2Proof.Laws.Wf.ptmEnableSet : Sys2Proof.Laws.Wf.Statement (.ptmEnableSet) := by
  simp_all [Sys2Proof.Laws.Wf.Statement]
/-- The fields of a well-formed PROXY_SEND_DONE are in range. -/
theorem Sys2Proof.Laws.Wf.proxySendDone : Sys2Proof.Laws.Wf.Statement (.proxySendDone) := by
  simp_all [Sys2Proof.Laws.Wf.Statement]
end

