-- ==== Sys2Proof/Tests/Slice0.lean ====
section
/-!
SUPPORT. Tests/Slice0.lean: the project's own tests: ill-formed commands that WellFormed refuses, examples of the spec worked
out by hand, and for every statement a state and operands that meet the hypotheses of each of its clauses.
-/
namespace Sys2Proof.Tests

set_option Elab.async false
set_option linter.unusedVariables false

open Sys2Proof Sys2Proof.Machine Sys2Proof.Safety

/-! ### Small states -/

/-- The block after boot (Table 17.1: READY is BOOT_STATE 7). -/
def devReady : State := State.reset.setNat kBootState 7

/-- The block before READY, in a boot state. -/
def booting (n : Nat) : State := State.reset.setNat kBootState n

/-- The block after boot with a Marionette of its own. -/
def withMario (m : Mario) : State := { devReady with mario := m }

/-- The block after boot with a physical function of its own. -/
def withFn (f : FnSt) : State := { devReady with fns := [(0, f)] }

/-- A descriptor's raw entries from (byte offset, value) pairs. -/
def rawOf (l : List (Nat × Nat)) : Nat := l.foldl (fun n x => n + x.2 * 2 ^ (8 * x.1)) 0

/-- A committed descriptor of ring 3. -/
def descOf (id part raw : Nat) : Desc := { id := id, ring := 3, part := part, index := 0, raw := raw, commitFrame := 0 }

/-- A posted write of partition 1. -/
def writeOf (desc : Nat) (pl : Place) (n : Nat) : PostedWrite :=
  ⟨desc, 1, pl, (List.range n).map fun i => BitVec.ofNat 8 (i + 7), 0⟩

/-- Partition 1 owns slot 0 of frond 0, which is core 0, and sector 0 of Frond Store 0. -/
def owned (s : State) : State :=
  ({ s with coreMap := [(0, some 0)] }.setNat (kCoreOwner 0) 0xFFFFFFFFFFFFFF01).setOct (kFsOwner 0) 0 1

/-- Partition 1 runs with context 5 and ring 3, which holds 5 of its 64 entries' worth of work. -/
def part1 : State :=
  owned ([(kPartState 1, 1), (kPartRun 1, 1), (kRingState 3, 1), (kRingCtx 3, 5), (kCtxState 5, 1 + 256), (kRingEntries 3, 64),
    (kRingProd 3, 5), (kRingCons 3, 5), (kVfsEnabled, 4)].foldl (fun s x => s.setNat x.1 x.2) devReady)

/-- Partition 1 halted. -/
def part1Halted : State := part1.setNat (kPartRun 1) 0

/-- The state with descriptors in flight. -/
def inFlight (s : State) (l : List Desc) : State := { s with inflight := l }

/-- One descriptor of partition 1 in flight. -/
def running (d : Desc) : State := inFlight part1 [d]

/-- The state with frames run. -/
def atTick (n : Nat) (s : State) : State := { s with tb := { s.tb with ticks := n } }

/-- A LOCKED, numbered device. -/
def locked (s : State) : State := (s.setNat kTimingState 2).setNat kFrameNumber (2 ^ 63 + 100)

/-- Bytes put into HBM. -/
def hbmSet (s : State) (a : Nat) (l : List Byte) : State := { s with hbm := putBytes s.hbm a l }

/-- A translation tree at 0x1000 that maps the first 2 MiB of a partition onto granule 0 (R523). -/
def treeIn (s : State) (p : Nat) : State :=
  hbmSet (hbmSet (hbmSet ((s.setOct kGranuleOwner 0 (BitVec.ofNat 8 p)).setNat (kMapBase p) 0x1000) 0x1000 (leBytes 8 0x2001))
    0x2000 (leBytes 8 0x3001)) 0x3000 (leBytes 8 7)

/-- Partition 1 with its first 2 MiB mapped. -/
def part1Mapped : State := treeIn part1 1

/-- The bytes that are not zero of a record of kind 1 without payload, for stream 0 (Tables 9.5 to 9.7). -/
def recordBytes : Tbl Byte :=
  [(0, 82), (1, 79), (2, 80), (3, 83), (4, 1), (5, 1), (7, 1), (28, 1), (249, 1), (252, 193), (253, 15), (254, 46), (255, 183)]

/-- That record. -/
def record : List Byte := (List.range 256).map fun i => Tbl.get 0 recordBytes i

/-- Partition 1 with the record in its memory at 0x8000. -/
def recordIn : State :=
  { part1Mapped with
    hbm := [(0x1000, 1), (0x1001, 0x20), (0x2000, 1), (0x2001, 0x30), (0x3000, 7)] ++ recordBytes.map fun x => (x.1 + 0x8000, x.2) }

/-- A cell of 272 bytes whose CRC checks (R401). -/
def cellOf (hd : List Nat) (pay : Nat := 9) : List Byte :=
  let h := ((hd ++ List.replicate 14 0).take 14).map (BitVec.ofNat 8)
  let p := List.replicate 256 (BitVec.ofNat 8 pay)
  h ++ leBytes 2 (crc16 (h ++ p)) ++ p

/-- Port 15 of partition 1's device in a state. -/
def port15 (st : Nat) (p : PortSt := {}) : State := (part1.setNat (kPortState 15) st).setPort 15 p

/-- Port 0 of partition 1's device in a state. -/
def port0 (st : Nat) (p : PortSt := {}) : State := (part1.setNat (kPortState 0) st).setPort 0 p

/-- A collective of 512 bytes on group 0. -/
def collDesc (op : Nat) (ty : Nat := 3) : Desc :=
  descOf 5 1 (rawOf [(0, 0x50), (16, op + ty * 16 + 512 * 2 ^ 32), (24, 2 ^ 63), (32, 2 ^ 63 + 0x1000), (40, 2 ^ 63 + 0x2000)])

/-- A plane of two devices along X; the collective waits on group 0, which spans them. -/
def collState (op : Nat) : State :=
  { (((inFlight (port0 2) [collDesc op]).setNat kPlaneDim 0x12).setNat (kGroupDef 0) 65).setNat (kLanesActive 0) 15 with
    tb := { devReady.tb with ticks := 1 }, colls := [(0, { queue := [(5, 65, 0)] })] }

/-- The same with the collective served. -/
def collServed (op : Nat) (r : CollRun) (ticks : Nat) : State :=
  { (collState op).setNat (kTxSlotA 0 1) 2 with
    colls := [(0, { queue := [(5, 65, 0)], run := some r })], tb := { devReady.tb with ticks := ticks } }

/-- A GROUP_DEF with two planes. -/
def crossDef : Nat := 65 + 2 ^ 12 + 3 * 2 ^ 32

/-- The bytes that are not zero of a package of 1536 bytes: SVN 3, VERSION 9, STEPPING 0x11, and four sections of the one byte
7, of TYPE 1, 2, 4 and 5 (Tables 17.4, 17.5). -/
def package : Tbl Byte :=
  [(0, 70), (1, 90), (2, 80), (3, 83), (4, 1), (6, 3), (8, 9), (13, 6), (16, 17), (17, 4), (64, 1), (69, 2), (72, 1),
   (76, 186), (77, 55), (78, 183), (79, 134), (80, 2), (85, 3), (88, 1), (92, 186), (93, 55), (94, 183), (95, 134),
   (96, 4), (101, 4), (104, 1), (108, 186), (109, 55), (110, 183), (111, 134), (112, 5), (117, 5), (120, 1),
   (124, 186), (125, 55), (126, 183), (127, 134), (512, 7), (768, 7), (1024, 7), (1280, 7)]

/-- The package in the staging area. -/
def pkgStaged : State :=
  { booting 2 with fs := package, boot := { devReady.boot with staged := (List.range 6).map fun i => (i, 2 ^ 256 - 1) } }

/-- The package in HBM for a firmware swap. -/
def swapImage : State :=
  { ((treeIn devReady 0).setNat kFwSwapSrc 0x10000).setNat kFwSwapLen 1536 with
    hbm := [(0x1000, 1), (0x1001, 0x20), (0x2000, 1), (0x2001, 0x30), (0x3000, 7)] ++ package.map fun x => (x.1 + 0x10000, x.2) }

/-- The recovery of slot 0 of frond 0. -/
def recovery0 : Recovery := { frond := 0, slot := 0, core := 0, part := 1, frame := 0, mark := 0, cause := 1 }

/-- That recovery under way. -/
def inRecovery (r : Recovery) : State := { part1.setNat (kCoreState 0) 1 with recov := [r] }

/-- An entry that is known to exist. -/
def locOf (o : Option EntLoc) : EntLoc := o.getD ⟨⟨.refEnable, 0, 0, 0, 0, 0, 0, .u64, .rw, .no, .no, 0⟩, 0, 0⟩

/-- A device that follows SYNC_IN with a window of 100 ns, in a timing state, its last edge one frame ago. -/
def syncTracked (st : Nat) : State :=
  { (devReady.setNat kTimingState st).setNat kSyncWindowNs 100 with
    tb := { devReady.tb with selected := 1, syncLast := some (-8192) } }

/-- Ring 3 enabled, with one descriptor fetched that it may commit from a frame on. -/
def ringWith (s : State) (raw avail : Nat) : State :=
  { (s.setNat (kRingEnabled 3) 1).setNat (kCqSlots 3) 64 with rings := [(3, { fetched := [(raw, avail)] })] }

/-- The state with the frame's MAINTENANCE_WINDOW done. -/
def maintained (s : State) : State := { s with tb := { s.tb with window := .maintenance } }

/-- An ORDER of scope 1 on core 0 that has begun, behind a descriptor that has ended. -/
def orderBegun : Desc := { descOf 5 1 (rawOf [(0, 1), (9, 1)]) with prog := { orderBegun := true, orderCc := 9 } }

/-- That ORDER with writes on their way. -/
def ordering (l : List PostedWrite) : State :=
  { inFlight part1 [{ descOf 4 1 0x13 with ended := true }, orderBegun] with posted := l }

/-- A descriptor that has ended. -/
def done5 : Desc := { descOf 5 1 0x13 with ended := true }

/-- A descriptor that has ended, with a completion queue of 64 slots for its ring. -/
def withQueue : State :=
  { ((inFlight part1 [done5]).setNat (kCqSlots 3) 64).setNat (kCqBase 3) (2 ^ 63 + 0x1000) with
    fns := [(1, { bme := true })] }

/-- An abort of partition 1 that has dropped its work. -/
def abort1 : AbortJob := ⟨1, .part true, 1, [3], [], [], true⟩

/-- A tiled descriptor of `batch` elements of one row and column, whose open tile has its operands: in CMU mode, with the fields
given, a tile of 8 rows and 64 columns, ACC_INIT, regions at 0x1000 and 0x2000, and stores at 0x4000. -/
def tileDesc (op batch n : Nat) (fields : List (Nat × Nat)) (scaled : Bool := false) (pages : List (Nat × Nat × Nat) := []) : Desc :=
  { descOf 5 1 (rawOf ([(0, op), (12, 3), (16, 2 ^ 22), (24, 2 ^ 24), (40, 0x1000), (48, 0x2000)] ++ fields)) with
    prog := { bounds := [1, n, 0, batch], boundsLanded := true, walked := true, tileOpen := true, fetched := true,
              scaled := scaled, pages := pages } }

/-- Partition 1 with that descriptor. -/
def tiling (d : Desc) : State := { part1Mapped with inflight := [d] }

/-- MATMUL, drained to 0x8000 as FP16. -/
def mmDesc : Desc := tileDesc 0x10 1 1 [(80, 0x8000)]

/-- ATTN_SCORE with FP16 scores at 0x4000 of the core's own store. -/
def scoreDesc : Desc := tileDesc 0x20 1 1 [(104, 2 ^ 63 + 0x4000)]

/-- ATTN_SCORE_RECOMPUTE with its statistics at 0x5000 and P's tag word at 0x6000. -/
def recomputeDesc : Desc := tileDesc 0x21 1 1 [(104, 2 ^ 63 + 0x4000), (120, 2 ^ 63 + 0x5000), (136, 2 ^ 63 + 0x6000)]

/-- ATTN_NORM of the same places. -/
def normDesc : Desc := tileDesc 0x22 1 1 [(104, 2 ^ 63 + 0x4000), (120, 2 ^ 63 + 0x5000), (136, 2 ^ 63 + 0x6000)]

/-- ATTN_PV, drained to 0x8000. -/
def pvDesc : Desc := tileDesc 0x23 1 1 [(144, 0x8000), (104, 2 ^ 63 + 0x4000)]

/-- QUANTISE without range records, staged to 0x8000, its tag word at 0x3000 of the store. -/
def quantDesc : Desc := tileDesc 0x11 1 2 [(64, 0x8000), (80, 0x3000)]

/-- KV_APPEND of one head of 16 values for two elements, its scales fixed. -/
def appendDesc : Desc := tileDesc 0x30 2 16 [] true [(0, 0, 16), (65536, 16, 16)]

/-- TRANSFER of 8 bytes from 0x100 to 0x200 of the core's own store. -/
def moveDesc : Desc := descOf 5 1 (rawOf [(0, 0x15), (16, 2 ^ 63 + 0x100), (24, 2 ^ 63 + 0x200), (32, 8), (36, 1)])

/-- REDUCE of one partial of two entries from 0x100 to 0x200. -/
def reduceDesc : Desc := descOf 5 1 (rawOf [(0, 0x12), (16, 2 ^ 63 + 0x100), (28, 1), (32, 2 ^ 63 + 0x200), (40, 2)])

/-- The store at 0x100: a tag word of width code 4 and entries 9 and 0. -/
def withPartial : State := { running reduceDesc with ls := [(0x100, 4), (0x108, 9)] }

/-- BUCKET_FORM of one sequence of length 5 at 0x8000, its plan at 0x10000. -/
def bucketDesc : Desc := descOf 5 1 (rawOf [(0, 0x16), (16, 0x8000), (24, 0x10000)])

/-- Its record in HBM. -/
def bucketing : State := hbmSet (tiling bucketDesc) 0x8000 ([1, 0, 0, 0, 0, 0, 0, 0, 3, 0, 0, 0, 5].map (BitVec.ofNat 8))

/-- A tiled descriptor with its progress given. -/
def withProg (d : Desc) (pr : Prog) : Desc := { d with prog := pr }

/-- QUANTISE of two elements whose operand is streamed from 0x9000. -/
def streamDesc (pr : Prog) : Desc :=
  withProg (tileDesc 0x11 2 2 [(18, 2 ^ 19), (56, 0x9000), (72, 1), (44, 0x1000), (64, 0x8000), (80, 0x3000)]) pr

/-- The bounds of two elements of one row and two columns. -/
def twoRows : Prog := { bounds := [1, 2, 0, 2], boundsLanded := true, walked := true }

/-- MATMUL before its bounds have landed. -/
def earlyDesc : Desc := withProg mmDesc { bounds := [1, 1, 0, 1] }

/-- MATMUL with the lengths of its element. -/
def lenDesc (n : Nat) : Desc := withProg mmDesc { bounds := [1, 1, 0, 1], boundsLanded := true, lens := [n] }

/-- KV_APPEND of sequence 1, named at 0x8000, before its walk. -/
def walkDesc : Desc :=
  withProg (tileDesc 0x30 1 16 [(44, 0x1000), (52, 0x1000), (80, 0x8000)]) { bounds := [1, 16, 0, 1], boundsLanded := true }

/-- Its page table at 0x8200, of one FREE entry, found by the directory at 0x8100. -/
def walking : State :=
  hbmSet (hbmSet (hbmSet (((tiling walkDesc).setNat (kSeqDirBase 1) 0x8100).setNat (kKvPoolUnits 1) 16) 0x8000 [1]) 0x8108
    [0, 0x82]) 0x8200 [1, 0, 0, 0, 1]

/-- The sequences of that walk. -/
def walkSeqs : Option (List Nat) × State := (walking.spend 5 3).readSeqs walkDesc walkDesc.bB

/-- What it finds. -/
def walkList : List (Nat × ElemWalk) :=
  [1].zipIdx.map fun x =>
    (x.1, walkSeqs.2.walkElem walkDesc.part x.1 (walkDesc.covers x.2).1 (walkDesc.covers x.2).2 walkDesc.walkKind)

/-- What it leaves. -/
def walkEnd : Bool × State := walkSeqs.2.takeFree.walkThrough walkDesc walkList

/-- Ring 3 with a FILL fetched, and a partition that may run ahead by two frames. -/
def runningAhead : State := (ringWith part1 0x13 0).setNat (kRunahead 1) 2

/-- A PAGE_EXPORT of entry 0 of sequence 7 over stream 0. -/
def exportDesc : Desc := descOf 5 1 (rawOf [(0, 0x32), (16, 7), (20, 0), (22, 1)])

/-- Partition 1 with stream 0 up. -/
def withStream (s : State) : State := ((s.setNat (kStreamOwner 0) 1).setNat (kStreamCtrl 0) 1)

/-- Sequence 7 with one SEALED page, which Supezin wrote last. -/
def exporting : State :=
  (withStream ((((hbmSet (hbmSet (hbmSet (hbmSet (tiling exportDesc) 0x10038 (leBytes 8 0x20000)) 0x20000
    (leBytes 64 (rawOf [(0, 7), (4, 1)]))) 0x20040 (leBytes 16 2)) 0 (leBytes 16 (rawOf [(0, 7), (8, 4)]))).setNat (kKvPoolUnits 1)
    64).setNat (kSeqDirBase 1) 0x10000).setNat (kSeqDirSlots 1) 16)).setPool 1 { words := [(0x20040, 2)] }

/-- A FENCE record that waits. -/
def waitFence : WaitRec := ⟨6, .fence, 1, 5, List.replicate 32 1, []⟩

/-- Stream 0 of partition 1, over PCIe, with a ring of 64 KiB and three retries. -/
def stream0 (x : StreamSt) : State :=
  ((((withStream { part1 with fns := [(1, { bme := true })] }).setNat (kTransport 0) 2).setNat (kRingBytes 0) 65536).setNat
    (kRetryLimit 0) 3).setStream 0 x

/-- A record sent and not acknowledged. -/
def sentFence : SentRec := ⟨0, List.replicate 256 1, .fence⟩

/-- A stream with seven records sent, of which none is kept. -/
def stream255 : State :=
  (((part1.setNat (kStreamOwner 255) 1).setNat (kStreamCtrl 255) 1).setNat (kNextSeqno 255) 7).setStream 255 { byteOff := 512 }

/-- A RESTORE that waits for window 0. -/
def restoreJob : Job := { id := 2, kind := .restore 0 1 0 0 0 1 [], tag := ⟨1, 3, 0, 0⟩ }

/-- Window 31 of partition 1, in a mode, over 64 KiB at 0x8000. -/
def window31 (mode : Nat) : State :=
  (((recordIn.setNat (kWinOwner 31) 1).setNat (kWinState 31) 1).setNat (kWinBase 31) 0x8000 |>.setNat (kWinBytes 31) 65536).setNat
    (kWinMode 31) mode

/-- Port 0 up in frame 100, receiving slot 1. -/
def receiving : State := (locked (port0 2)).setNat (kRxSlotA 0 1) 3

/-- A memory cell of slot 1 of frame 100. -/
def memCell : List Byte := cellOf [0x14, 0, 1, 0, 0, 0, 100]

/-- A marker of frame 100. -/
def marker : List Byte := cellOf [0x11, 0, 0, 0, 0, 0, 100] 0

/-- The arrival of a cell that is later than its slot has it, in 0.25 ns. -/
def lateBy (s : State) (b : List Byte) (δ : Int) : Int := s.expectedAt 0 b / 1500 + δ

/-- A run of the collective on group 0 from frame 1 on. -/
def collRun (planned : Nat := 5) : CollRun := { desc := 5, gdef := 65, seq := 1, planned := planned, begin_ := 1 }

/-- The first stage of that collective. -/
def firstStage : Stage := ((collState 1).stages 65 (collDesc 1)).getD 0 ⟨.rs, false, 0, 0⟩

/-- An ALL_REDUCE over two planes of two devices. -/
def crossDesc : Desc :=
  descOf 5 1 (rawOf [(0, 0x50), (16, 2 + 16 + 256 * 2 ^ 32), (24, 2 ^ 63), (32, 2 ^ 63 + 0x1000), (40, 2 ^ 63 + 0x2000)])

/-- Its run, so many steps of its ring done. -/
def crossRun (n : Nat) : CollRun := { desc := 5, gdef := crossDef - 1, seq := 1, planned := 5, begin_ := 1, xStep := n }

/-- It is served. -/
def crossServed (n : Nat) : State :=
  { inFlight (collServed 2 (crossRun n) 6) [crossDesc] with
    colls := [(0, { queue := [(5, crossDef - 1, 0)], run := some (crossRun n) })] }

/-- A RHIZOID sum whose member's value has come. -/
def rhzRun (held : Option (List Byte)) : RhzRun :=
  { desc := 5, gdef := 65, seq := 1, frame := 1, pos := 0, own := List.replicate 4 1, got1 := [(0, List.replicate 4 2)], held := held }

/-- It is under way. -/
def rhzServed (held : Option (List Byte)) : State :=
  { inFlight (collState 5) [collDesc 5 1] with colls := [(0, { rhz := [rhzRun held] })] }

/-- A recovery with one descriptor to run again. -/
def rerun (d : Desc) : Recovery := { recovery0 with phase := 4, runs := [⟨d, false⟩] }

/-- A FILL of 16 bytes. -/
def fillDesc : Desc := descOf 5 1 (rawOf [(0, 0x13), (16, 0x1010), (20, 240), (28, 7)])

/-- A COPY of one row within the core's own store, or within the Frond Store. -/
def copyDesc (fs : Nat) : Desc := descOf 5 1 (rawOf [(0, 0x14), (16, 0x1000 + fs * 2 ^ 30), (20, 0x2000 + fs * 2 ^ 30), (24, 1)])

/-! ### From a check to its proposition -/

theorem ok_of {ε α : Type} [DecidableEq α] {x : Except ε α} {a : α}
    (h : (match x with | .ok b => decide (b = a) | .error _ => false) = true) : x = .ok a := by
  cases x <;> simp_all

theorem error_of {ε α : Type} [DecidableEq ε] {x : Except ε α} {e : ε}
    (h : (match x with | .ok _ => false | .error b => decide (b = e)) = true) : x = .error e := by
  cases x <;> simp_all

theorem accepts_of {s : State} {who : Requester} {e : Ent} {k : Nat} {v : Word}
    (h : (s.requesterOk who && match s.gateSlot who e k v with | .ok _ => true | .error _ => false) = true) :
    accepts s who e k v := by
  rw [Bool.and_eq_true] at h
  refine ⟨h.1, ?_⟩
  cases hg : s.gateSlot who e k v with
  | ok l => exact ⟨l, rfl⟩
  | error r => simp [hg] at h

theorem acceptsLong_of {s : State} {who : Requester} {idx sub : Nat} {b : List Byte}
    (h : (s.requesterOk who && match s.gateLong who idx sub b with | .ok _ => true | .error _ => false) = true) :
    acceptsLong s who idx sub b := by
  rw [Bool.and_eq_true] at h
  refine ⟨h.1, ?_⟩
  cases hg : s.gateLong who idx sub b with
  | ok l => exact ⟨l, rfl⟩
  | error r => simp [hg] at h

theorem bufferOk_of {s : State} {d : Desc} {field : Nat} (a : SAddr) (h₁ : decodeAddr field = some (.store a))
    (h₂ : a.fs = false) (h₃ : s.slotStopped a.frond a.slot = false) (h₄ : s.filterOk d.part a = true) : bufferOk s d field := by
  refine ⟨a, h₁, h₂, h₃, fun o => ?_⟩
  simpa [State.filterOk, State.sectorOwner, h₂] using h₄

theorem pair_of {α β : Type} {x : α × β} {a : α} (h : x.1 = a) : x = (a, x.2) := by subst h; rfl

theorem some_of {α β : Type} {x : Option α × β} (a : α) (h : x.1.isSome = true) : x = (some (x.1.getD a), x.2) := by
  rcases x with ⟨_ | b, y⟩ <;> simp_all

theorem wentWell_of {v : State} {id : Nat} {d : Desc}
    (h : (!v.slotWait && !v.slotStopped d.core.1 d.core.2 &&
      match v.desc? id with | some e => !e.ended && !e.torn | none => false) = true) : wentWell v id d := by
  unfold wentWell
  cases hd : v.desc? id with
  | none => simp [hd] at h
  | some e => simp [hd] at h; exact ⟨h.1.1, h.1.2, e, rfl, h.2⟩

/-! ### Ill-formed commands, one for each check of WellFormed -/

theorem test_wf_vf : Instr.wf (.powerOn (.vf 64)) = false ∧ Instr.wf (.powerOn (.vf 0)) = false := by decide +kernel
theorem test_wf_requester_node : Instr.wf (.powerOn (.strings 128)) = false ∧ Instr.wf (.powerOn (.strings 0)) = false := by decide +kernel
theorem test_wf_node : Instr.wf (.dapRead 0 0 0 0) = false ∧ Instr.wf (.search 128 0 0) = false := by decide +kernel
theorem test_wf_line : Instr.wf (.syncLineFault 4) = false := by decide +kernel
theorem test_wf_reference : Instr.wf (.refLost 19) = false := by decide +kernel
theorem test_wf_function : Instr.wf (.flr 64) = false := by decide +kernel
theorem test_wf_ring : Instr.wf (.entriesFetched 128) = false := by decide +kernel
theorem test_wf_doorbell_value : Instr.wf (.doorbell 0 0 (2 ^ 32)) = false := by decide +kernel
theorem test_wf_core : Instr.wf (.residueInjectWrite .pf 144 0) = false := by decide +kernel
theorem test_wf_frond : Instr.wf (.fcRestart 16) = false := by decide +kernel
theorem test_wf_weight_map_word : Instr.wf (.fsWeightMapWrite .pf 0 4 0) = false := by decide +kernel
theorem test_wf_fs_owner_length : Instr.wf (.fsOwnerWrite .pf 0 (List.replicate 255 0)) = false := by decide +kernel
theorem test_wf_partition : Instr.wf (.haltedReached 64) = false := by decide +kernel
theorem test_wf_layer : Instr.wf (.precLayerWrite .pf 0 256 0) = false := by decide +kernel
theorem test_wf_shape : Instr.wf (.shapeRegWrite .pf 0 16 0) = false := by decide +kernel
theorem test_wf_bucket : Instr.wf (.bucketEdgeWrite .pf 0 8 0) = false := by decide +kernel
theorem test_wf_subindex : Instr.wf (.ropeSetWrite .pf 0 256 0) = false := by decide +kernel
theorem test_wf_stream : Instr.wf (.retransmit 256) = false := by decide +kernel
theorem test_wf_ack_length : Instr.wf (.ackReceived 0 (List.replicate 31 0)) = false := by decide +kernel
theorem test_wf_window : Instr.wf (.winOpen .pf 32) = false := by decide +kernel
theorem test_wf_record_granule : Instr.wf (.recordReceived 0 0 0 1024) = false := by decide +kernel
theorem test_wf_port : Instr.wf (.los 16) = false := by decide +kernel
theorem test_wf_slot : Instr.wf (.slotStart 0 1024) = false := by decide +kernel
theorem test_wf_lanes : Instr.wf (.trainingDone 0 16 0) = false := by decide +kernel
theorem test_wf_lane : Instr.wf (.laneFault 0 4) = false := by decide +kernel
theorem test_wf_table : Instr.wf (.slotTableWrite .pf 0 4 0 0) = false := by decide +kernel
theorem test_wf_ethernet : Instr.wf (.ethLinkUp 4) = false := by decide +kernel
theorem test_wf_queue_pair : Instr.wf (.qpError 256) = false := by decide +kernel
theorem test_wf_group : Instr.wf (.stageSettle 32) = false := by decide +kernel
theorem test_wf_context : Instr.wf (.ctxDestroy .pf 1024) = false := by decide +kernel
theorem test_wf_fence : Instr.wf (.fenceDestroy .pf 4096) = false := by decide +kernel
theorem test_wf_generation : Instr.wf (.fencePageSignal 0 0 (2 ^ 32)) = false := by decide +kernel
theorem test_wf_granules : Instr.wf (.granuleOwnerWrite .pf []) = false := by decide +kernel
theorem test_wf_index : Instr.wf (.bulkRead .pf 65536 0) = false := by decide +kernel
theorem test_wf_length : Instr.wf (.bulkWrite .pf 0 0 1024) = false := by decide +kernel
theorem test_wf_offset : Instr.wf (.dictWrite .pf (2 ^ 27) 8 0) = false := by decide +kernel
theorem test_wf_channel : Instr.wf (.sensorSample 41 0 true) = false := by decide +kernel
theorem test_wf_straps : Instr.wf (.marionetteBoot 128) = false := by decide +kernel
theorem test_wf_txn : Instr.wf (.dapRead 1 256 0 0) = false := by decide +kernel
theorem test_wf_dap_bytes : Instr.wf (.dapWrite 1 0 0 0 (List.replicate 57 0)) = false := by decide +kernel
theorem test_wf_total : Instr.wf (.segWriteInit 1 0 0 0 65536) = false := by decide +kernel
theorem test_wf_period : Instr.wf (.nodePresent 1 (some 65536) none) = false := by decide +kernel
theorem test_wf_epoch : Instr.wf (.nodePresent 1 none (some 65536)) = false := by decide +kernel
theorem test_wf_chunk : Instr.wf (.updateChunk .pf []) = false := by decide +kernel
theorem test_wf_unit : Instr.wf (.watchdogExpiry true 16) = false ∧ Instr.wf (.watchdogExpiry false 144) = false := by decide +kernel
theorem test_wf_spare_slot : Instr.wf (.spareMapped 0 8) = false := by decide +kernel
theorem test_wf_vector : Instr.wf (.msixUnmask 0 (some 2048)) = false := by decide +kernel
theorem test_wf_store_port : Instr.wf (.maintenanceWindow { lost := [(.fs 16, 1)] }) = false := by decide +kernel
theorem test_wf_store_word : Instr.wf (.copy 0 { upsets := [(.ls 0 (2 ^ 20), 1)] }) = false := by decide +kernel
theorem test_wf_vf_count : Instr.wf (.vfEnableSet 64) = false := by decide +kernel

/-! ### Examples that the spec works out -/

/-- Chapter 4, Illustration after R165: A = 4, W = 2 TWOS. -/
theorem test_table_product : tpStep false 0 2 4 2 [3, -2, 5, 1] [some 1, some 2, some 3, some 0] (0, 0) = (2, 0) := by decide +kernel

/-- Chapter 5, Table 5.11: the width and exponent that staging selects for blocks 0 and 1. -/
theorem test_select_width :
    selectWidth 0xFC4F [rangeRecord 0x406D false] = (4, -5, false, false) ∧
    selectWidth 0xFC4F [rangeRecord 0x3F1A false] = (3, -5, false, false) := by decide +kernel

/-- Chapter 5, frame 1,000: with OVERRIDE 2, block 0 stages at width code 2 and exponent −1. -/
theorem test_select_override : selectWidth 0xFC42 [rangeRecord 0x406D false] = (2, -1, false, true) := by decide +kernel

/-- Chapter 5, Table 5.11: 3.703125 stages as 118, a tie to even. -/
theorem test_stage_tie : stageCode 4 (-5) .rne (bf16.decode 0x406D) = (118, false, false) := by decide +kernel

/-- Chapter 5, frame 1,002: the reduction of 150,000 at tag (4, −12) and 9,000 at tag (2, −8). -/
theorem test_reduce_example :
    (reducePartials [⟨tagWord 4 (-12) false false false false, [150000]⟩, ⟨tagWord 2 (-8) false false false false, [9000]⟩]).map
      (fun x => (x.1.vals, x.1.width, x.1.exp, x.2)) = some ([294000], 4, -12, 0) := by decide +kernel

/-- Chapters 10 and 11, Examples: 40 cells in a slot of 256 ns, 15 in one of 128 ns. -/
theorem test_cells_per_slot : cellsPerSlot 32 32 24 4 = 40 ∧ cellsPerSlot 32 64 24 4 = 15 := by decide +kernel

/-- Chapter 15, Example: NOT_HALTED at 0x6028:02 leaves 0x02602804 in DICT_STATUS and 1 in DICT_REFUSED. -/
theorem test_refused_status :
    (devReady.refuse (.vf 5) .notHalted 0x6028 2).area (.vf 5) 0x42 = 0x02602804 ∧
    (devReady.refuse (.vf 5) .notHalted 0x6028 2).area (.vf 5) 0x44 = 1 := by decide +kernel

/-- Chapter 15, Example: the entry at offset 0x03014010 is subindex 2 of index 0x6028, KV_POOL_UNITS of partition 5. -/
theorem test_slot_offset : (findEntry (0x03014010 / 2048) (0x03014010 / 8 % 256)).map (·.row.base) = some 0x6000 := by decide +kernel

/-! ### Every statement's hypotheses are met -/

theorem witness_StepsKeepMemoryForm : ∃ s t : State, Memory.wf s = true ∧ step s = .next t :=
  ⟨State.reset, State.reset, by decide +kernel, rfl⟩

theorem witness_StepRunsFront :
    (∃ (s : State) (c : Instr) (rest : List Instr), s.pending = c :: rest) ∧
    (∃ (s : State), s.pending = []) :=
  ⟨⟨{ devReady with pending := [.syncLineOk, .syncStuck] }, .syncLineOk, [.syncStuck], by decide +kernel⟩,
   ⟨devReady, by decide +kernel⟩⟩

theorem witness_ResetValues :
    (∃ g, g < 192) ∧
    (∃ n, n < 16) ∧
    (∃ p, 1 ≤ p ∧ p < 64) :=
  ⟨⟨0, by decide +kernel⟩,
   ⟨0, by decide +kernel⟩,
   ⟨63, by decide +kernel⟩⟩

theorem witness_EveryCommandCompletes : ∃ (c : Instr), ((∀ offset bytes v, c = .dictWrite .marionette offset bytes v → offset / 2048 < 0xF000 ∨ 2 ^ 27 ≤ offset)) :=
  ⟨.syncLineOk, fun _ _ _ h => by cases h⟩

theorem witness_GeometryAndNumbering :
    (∃ (s : State) (fl il sl gd gm : Nat), s.tb.armed = some [fl, il, sl, gd, gm] ∧ geometryOk [fl, il, sl, gd, gm] = true ∧ s.nat kSwitchFrame ≤ s.frameNo) ∧
    (∃ (s : State) (who : Requester) (v : Word), accepts s who .switchFrame kSwitchFrame v ∧ s.frameNo + 2 ≤ v.toNat ∧ geometryOk s.staged = true ∧ (s.tb.armed = none ∨ s.frameNo < s.nat kSwitchFrame)) ∧
    (∃ (s : State) (who : Requester) (v : Word) (fl il sl gd gm : Nat), accepts s who .switchFrame kSwitchFrame v ∧ s.frameNo + 2 ≤ v.toNat ∧ geometryOk s.staged = true ∧ s.tb.armed = some [fl, il, sl, gd, gm] ∧ geometryOk [fl, il, sl, gd, gm] = true ∧ s.nat kSwitchFrame ≤ s.frameNo) ∧
    (∃ (s : State) (who : Requester) (v : Word), s.requesterOk who = true ∧ s.gateSlot who .switchFrame kSwitchFrame v = .error .range) ∧
    (∃ (s : State) (who : Requester) (v : Word), accepts s who .switchFrame kSwitchFrame v ∧ (v.toNat < s.frameNo + 2 ∨ geometryOk s.staged = false)) ∧
    (∃ (s : State) (who : Requester) (v : Word), accepts s who .frameSeed kFrameSeed v ∧ s.numbered = false) ∧
    (∃ (s : State) (who : Requester) (v : Word), accepts s who .frameSeed kFrameSeed v ∧ s.numbered = true) :=
  ⟨⟨{ devReady with tb := { devReady.tb with armed := some [32, 8, 128, 8, 16] } }, 32, 8, 128, 8, 16, by decide +kernel⟩,
   ⟨devReady, .pf, 2, accepts_of (by decide +kernel), by decide +kernel⟩,
   ⟨{ devReady with tb := { devReady.tb with armed := some [32, 8, 128, 8, 16] } }, .pf, 2, 32, 8, 128, 8, 16, accepts_of (by decide +kernel), by decide +kernel⟩,
   ⟨devReady, .pf, 1, by decide +kernel, error_of (by decide +kernel)⟩,
   ⟨devReady.setNat kFrameNumber (2 ^ 63 + 7), .pf, 8, accepts_of (by decide +kernel), by decide +kernel⟩,
   ⟨devReady, .pf, 0x1234, accepts_of (by decide +kernel), by decide +kernel⟩,
   ⟨devReady.setNat kFrameNumber (2 ^ 63 + 7), .pf, 0x1234, accepts_of (by decide +kernel), by decide +kernel⟩⟩

theorem witness_ReferenceReceivers :
    (∃ (s : State) (phase : Int) (before after : Nat) (rising : Bool), rising = !s.syncInverted ∧ 40 ≤ before ∧ 40 ≤ after ∧ fld (s.reg kSyncStatus) 1 0 = 0 ∧ s.tb.edges < 2 ∧ s.tb.disq = false ∧ s.tb.selected = 1 ∧ s.timing = 2 ∧ (s.phaseMod (phase - s.nat kSyncDelayNs)).natAbs ≤ s.nat kSyncWindowNs) ∧
    (∃ (s : State) (phase : Int) (before after : Nat) (rising : Bool), rising = !s.syncInverted ∧ 40 ≤ before ∧ 40 ≤ after ∧ fld (s.reg kSyncStatus) 1 0 = 0 ∧ s.tb.edges < 2 ∧ s.tb.disq = false ∧ s.tb.selected = 1 ∧ s.timing = 2 ∧ s.nat kSyncWindowNs < (s.phaseMod (phase - s.nat kSyncDelayNs)).natAbs) ∧
    (∃ (s : State) (phase last : Int) (before after : Nat) (rising : Bool), rising = !s.syncInverted ∧ 40 ≤ before ∧ 40 ≤ after ∧ fld (s.reg kSyncStatus) 1 0 = 0 ∧ s.tb.edges < 2 ∧ s.tb.disq = false ∧ (s.tb.selected ≠ 1 ∨ s.timing ≠ 2) ∧ s.tb.syncLast = some last) ∧
    (∃ (s : State) (phase : Int) (before after : Nat) (rising : Bool), rising = !s.syncInverted ∧ 40 ≤ before ∧ 40 ≤ after ∧ fld (s.reg kSyncStatus) 1 0 = 0 ∧ s.tb.edges = 2) ∧
    (∃ (s : State) (phase : Int) (before after : Nat) (rising : Bool) (cls : Option Bool), (rising = s.syncInverted ∨ before < 40 ∨ after < 40 ∨ cls ≠ some s.syncInverted)) ∧
    (∃ (s : State) (phase : Int) (before after : Nat) (rising : Bool) (cls : Option Bool), (rising = s.syncInverted ∨ before < 40 ∨ after < 40 ∨ cls ≠ some s.syncInverted)) ∧
    (∃ (s : State) (phase : Int) (before after : Nat) (rising : Bool) (cls : Option Bool), (rising = s.syncInverted ∨ before < 40 ∨ after < 40 ∨ cls ≠ some s.syncInverted)) ∧
    (∃ (s : State) (phase : Int) (before after : Nat) (rising : Bool) (cls : Option Bool), (rising = s.syncInverted ∨ before < 40 ∨ after < 40 ∨ cls ≠ some s.syncInverted)) ∧
    (∃ (s : State) (line : Nat), 1 ≤ line ∧ line ≤ 3 ∧ fld (s.reg kSyncStatus) 1 0 = 0) ∧
    (∃ (s : State), s.nat kPtmState ≠ 0) ∧
    (∃ (s : State) (time : Nat), s.tb.ptmOpen = true) ∧
    (∃ (s : State), s.tb.ptmOpen = true) ∧
    (∃ (s : State), s.nat kPtmState = 0) ∧
    (∃ (s : State) (phase last : Int), s.tb.syncLast = some last ∧ 50 < s.tb.base + phase - last - s.frameNs) ∧
    (∃ (s : State) (phase last : Int), s.tb.syncLast = some last ∧ s.tb.base + phase - last - s.frameNs < -50) :=
  ⟨⟨syncTracked 2, 100 + (syncTracked 2).nat kSyncDelayNs, 40, 40, true, by decide +kernel⟩,
   ⟨syncTracked 2, 101 + (syncTracked 2).nat kSyncDelayNs, 40, 40, true, by decide +kernel⟩,
   ⟨syncTracked 1, 50, -8192, 40, 40, true, by decide +kernel⟩,
   ⟨{ devReady with tb := { devReady.tb with edges := 2, syncRun := 3 } }, 0, 40, 40, true, by decide +kernel⟩,
   ⟨devReady, 0, 40, 40, false, none, by decide +kernel⟩,
   ⟨devReady, 0, 39, 40, true, some false, by decide +kernel⟩,
   ⟨devReady, 0, 40, 39, true, some false, by decide +kernel⟩,
   ⟨devReady, 0, 40, 40, true, some true, by decide +kernel⟩,
   ⟨devReady, 3, by decide +kernel⟩,
   ⟨devReady.setNat kPtmState 1, by decide +kernel⟩,
   ⟨{ devReady with tb := { devReady.tb with ptmOpen := true } }, 5, by decide +kernel⟩,
   ⟨{ devReady with tb := { devReady.tb with ptmOpen := true } }, by decide +kernel⟩,
   ⟨devReady, by decide +kernel⟩,
   ⟨syncTracked 1, 51, -8192, by decide +kernel⟩,
   ⟨syncTracked 1, -51, -8192, by decide +kernel⟩⟩

theorem witness_TimingStates :
    (∃ (s : State) (ref : Nat) (off : Int), s.refCounted ref = true ∧ (s.timing = 2 ∨ s.refOff ref = none ∨ (s.refOff ref = some off ∧ -1000000 ≤ off))) ∧
    (∃ (s : State) (ref : Nat) (off : Int), s.refCounted ref = true ∧ (s.timing = 2 ∨ s.refOff ref = none ∨ (s.refOff ref = some off ∧ -1000000 ≤ off))) ∧
    (∃ (s : State) (ref : Nat) (off : Int), s.refCounted ref = true ∧ (s.timing = 2 ∨ s.refOff ref = none ∨ (s.refOff ref = some off ∧ -1000000 ≤ off))) ∧
    (∃ (s : State) (ref : Nat) (off : Int), s.refCounted ref = true ∧ s.timing ≠ 2 ∧ s.refOff ref = some off ∧ off < -1000000) ∧
    (∃ (s : State) (ref : Nat) (off : Int), (s.refCounted ref = false ∨ (s.timing ≠ 2 ∧ ∃ x, s.refOff ref = some x ∧ x ≠ off))) ∧
    (∃ (s : State) (ref : Nat) (off : Int), (s.refCounted ref = false ∨ (s.timing ≠ 2 ∧ ∃ x, s.refOff ref = some x ∧ x ≠ off))) ∧
    (∃ (s : State) (ref : Nat), ref ≠ 0 ∧ s.tb.selected = ref ∧ s.tb.lost = false ∧ s.refExpired ref 1 = true) ∧
    (∃ (s : State) (off : Int), s.timing = 2 ∧ 4 ≤ s.tb.overRun ∧ s.refOff s.tb.selected = some off ∧ s.nat kHoldLimitMs ≠ 0 ∧ -1000000 ≤ off ∧ off ≤ 1000) ∧
    (∃ (s : State) (off : Int), s.timing = 2 ∧ 4 ≤ s.tb.overRun ∧ s.refOff s.tb.selected = some off ∧ s.nat kHoldLimitMs ≠ 0 ∧ 1000 < off) ∧
    (∃ (s : State), s.timing ≠ 2 ∧ s.numbered = true ∧ s.tb.selected ≠ 0 ∧ 16 ≤ s.tb.lockRun) ∧
    (∃ (s : State), s.timing = 1 ∧ s.nat kHoldLimitMs * 1000000 ≤ s.tb.holdNs ∧ s.lockCondition = false) ∧
    (∃ (s : State), s.tb.selected = 0 ∧ s.timing ≠ 2 ∧ s.refOk 1 = true ∧ s.refOff 1 = none) ∧
    (∃ (s : State), s.tb.selected = 1 ∧ s.tb.lost = true ∧ s.timing = 2 ∧ s.refOk 2 = false ∧ s.bestPort = none) :=
  ⟨⟨{ devReady with tb := { devReady.tb with syncRun := 8, syncOff := some (-1000000) } }, 1, -1000000, by decide +kernel⟩,
   ⟨{ ((devReady.setNat kTimingState 2).setNat kPtmState 1).setNat kRefEnable 7 with tb := { devReady.tb with ptmRun := 8 } }, 2, 0, by decide +kernel⟩,
   ⟨(devReady.setNat kTimingState 2).setPort 15 { mkRun := 8 }, 18, 5, by decide +kernel⟩,
   ⟨{ devReady with tb := { devReady.tb with syncRun := 8, syncOff := some (-1000001) } }, 1, -1000001, by decide +kernel⟩,
   ⟨devReady, 1, 0, Or.inl (by decide +kernel)⟩,
   ⟨{ devReady with tb := { devReady.tb with syncRun := 8, syncOff := some 0 } }, 1, 1, Or.inr ⟨by decide +kernel, 0, by decide +kernel⟩⟩,
   ⟨{ devReady with tb := { devReady.tb with selected := 1, syncMissed := 2 } }, 1, by decide +kernel⟩,
   ⟨{ devReady.setNat kTimingState 2 with tb := { devReady.tb with selected := 1, overRun := 4, syncOff := some 1000 } }, 1000, by decide +kernel⟩,
   ⟨{ devReady.setNat kTimingState 2 with tb := { devReady.tb with selected := 1, overRun := 4, syncOff := some 1001 } }, 1001, by decide +kernel⟩,
   ⟨{ devReady.setNat kFrameNumber (2 ^ 63 + 5) with tb := { devReady.tb with selected := 1, lockRun := 16 } }, by decide +kernel⟩,
   ⟨{ devReady.setNat kTimingState 1 with tb := { devReady.tb with holdNs := devReady.nat kHoldLimitMs * 1000000 } }, by decide +kernel⟩,
   ⟨{ devReady with tb := { devReady.tb with syncOk := true } }, by decide +kernel⟩,
   ⟨{ devReady.setNat kTimingState 2 with tb := { devReady.tb with selected := 1, lost := true } }, by decide +kernel⟩⟩

theorem witness_FrameAndStep :
    (∃ (s : State) (o : BoundaryObs), s.dieUp = true ∧ s.ready = true ∧ s.tb.window = .maintenance) ∧
    (∃ (s : State) (o : BoundaryObs) (r w avail : Nat), s.dieUp = true ∧ s.ready = true ∧ s.tb.window = .maintenance ∧ s.numbered = true ∧ r < 128 ∧ s.ringRuns r = true ∧ s.partHeld (s.ringPart r) = false ∧ (∀ q, q < 128 → q ≠ r → s.ringLife q ≠ 1) ∧ (s.ring r).fetched = [(w, avail)] ∧ (s.ring r).lastCommit = none ∧ avail ≤ s.tb.ticks + 1 ∧ w % 2 ^ 64 = 0 ∧ s.slips = [] ∧ s.holds = [] ∧ s.runahead = [] ∧ s.tb.armed = none ∧ 1 ≤ s.nat kIssueLen ∧ (s.ringDescs r).length + (s.nat (kCqProd r) + 2 ^ 32 - s.nat (kCqCons r)) % 2 ^ 32 < s.nat (kCqSlots r)) ∧
    (∃ (s : State) (o : BoundaryObs), s.dieUp = true ∧ s.ready = false ∧ s.tb.window = .maintenance) ∧
    (∃ (s : State) (o : BoundaryObs), (s.dieUp = false ∨ s.tb.window ≠ .maintenance)) ∧
    (∃ (s : State) (o : BoundaryObs), (s.dieUp = false ∨ s.tb.window ≠ .maintenance)) ∧
    (∃ (s : State) (offset : Int) (refFrame : Nat), s.nat kStepPending ≠ 0 ∧ s.tb.busy = false ∧ s.tb.selected ≠ 0 ∧ s.tb.window = .maintenance ∧ s.tb.armed = none ∧ 1000 < s.stepOffset offset ∧ refFrame = (s.frameNo + 1 + (s.stepOffset offset).toNat / s.frameNs) % 2 ^ 48) ∧
    (∃ (s : State) (offset : Int) (refFrame : Nat), s.nat kStepPending ≠ 0 ∧ s.tb.busy = false ∧ s.tb.selected ≠ 0 ∧ s.tb.window = .maintenance ∧ -1000000 ≤ s.stepOffset offset ∧ s.stepOffset offset ≤ 1000) ∧
    (∃ (s : State) (offset : Int) (refFrame : Nat), s.nat kStepPending ≠ 0 ∧ s.tb.busy = false ∧ s.tb.selected ≠ 0 ∧ s.tb.window = .maintenance ∧ -1000000 ≤ s.stepOffset offset ∧ s.stepOffset offset ≤ 1000) ∧
    (∃ (s : State) (o : MaintObs), s.dieUp = true ∧ s.ready = true ∧ s.tb.window ≠ .maintenance ∧ (s.tb.window = .closed ∨ s.anyOverrun = false) ∧ o.repair = none ∧ o.lost = []) ∧
    (∃ (s : State) (o : MaintObs), s.dieUp = true ∧ s.ready = true ∧ s.tb.window ≠ .maintenance ∧ (s.tb.window = .closed ∨ s.anyOverrun = false) ∧ o.repair = none ∧ o.lost = []) ∧
    (∃ (s : State) (o : MaintObs), s.dieUp = true ∧ s.ready = false ∧ s.tb.window = .compute ∧ s.anyOverrun = false) ∧
    (∃ (s : State) (o : MaintObs), s.tb.window = .compute ∧ s.anyOverrun = true) :=
  ⟨⟨maintained devReady, {}, by decide +kernel⟩,
   ⟨maintained (ringWith (locked part1) (2 ^ 64) 1), {}, 3, 2 ^ 64, 1, by decide +kernel⟩,
   ⟨maintained State.reset, {}, by decide +kernel⟩,
   ⟨devReady, {}, by decide +kernel⟩,
   ⟨{ maintained devReady with boot := { devReady.boot with inReset := true } }, {}, by decide +kernel⟩,
   ⟨{ maintained (devReady.setNat kStepPending 1) with tb := { (maintained devReady).tb with selected := 2 } }, 1001, 1, by decide +kernel⟩,
   ⟨{ maintained (devReady.setNat kStepPending 1) with tb := { (maintained devReady).tb with selected := 2 } }, 1000, 0, by decide +kernel⟩,
   ⟨{ maintained (devReady.setNat kStepPending 1) with tb := { (maintained devReady).tb with selected := 2 } }, -1000000, 0, by decide +kernel⟩,
   ⟨devReady, {}, by decide +kernel⟩,
   ⟨{ devReady with tb := { devReady.tb with window := .closed } }, {}, by decide +kernel⟩,
   ⟨booting 2, {}, by decide +kernel⟩,
   ⟨(running { descOf 5 1 0x13 with cycles := 1 }), {}, by decide +kernel⟩⟩

theorem witness_RingPages :
    (∃ (s : State) (fn : Nat) (r : Nat) (v : Nat), s.ringPageOk fn r = true ∧ s.ringLife r = 1 ∧ v < 2 ^ 32 ∧ (v + 2 ^ 32 - s.nat (kRingProd r)) % 2 ^ 32 + (s.nat (kRingProd r) + 2 ^ 32 - s.nat (kRingCons r)) % 2 ^ 32 ≤ s.nat (kRingEntries r)) ∧
    (∃ (s : State) (fn : Nat) (r : Nat) (v : Nat), s.ringPageOk fn r = true ∧ s.ringLife r = 1 ∧ v < 2 ^ 32 ∧ s.nat (kRingEntries r) < (v + 2 ^ 32 - s.nat (kRingProd r)) % 2 ^ 32 + (s.nat (kRingProd r) + 2 ^ 32 - s.nat (kRingCons r)) % 2 ^ 32) ∧
    (∃ (s : State) (fn : Nat) (r : Nat), s.ringPageOk fn r = true ∧ s.ringLife r = 2) ∧
    (∃ (s : State) (r : Nat), s.ringLife r ≠ 0) ∧
    (∃ (s : State) (fn : Nat) (r : Nat) (v : Nat), s.ringPageOk fn r = true ∧ v < 2 ^ 32) :=
  ⟨⟨part1, 1, 3, 69, by decide +kernel⟩,
   ⟨part1, 1, 3, 70, by decide +kernel⟩,
   ⟨part1.setNat (kRingState 3) 2, 1, 3, by decide +kernel⟩,
   ⟨part1.setNat (kRingProd 3) 7, 3, by decide +kernel⟩,
   ⟨part1, 1, 3, 2^32-1, by decide +kernel⟩⟩

theorem witness_OrderAndPrecision :
    (∃ (s : State) (id : Nat) (d : Desc), offCore s id 0 d) ∧
    (∃ (s : State) (id : Nat) (d : Desc), offCore s id 2 d ∧ s.runahead = [] ∧ Tbl.get none s.live (kPrecLayer d.part d.layer) = none) ∧
    (∃ (s : State) (id waited : Nat) (d : Desc), offCore s id 1 d ∧ (s.earlierOnCore d).all (·.ended) = true ∧ s.tb.window = .compute) ∧
    (∃ (s : State) (id : Nat) (d : Desc) (c : Nat), offCore s id 1 d ∧ s.descCore d = some c ∧ d.prog.orderBegun = true ∧ s.tb.window = .compute ∧ (∀ w ∈ s.posted, ((s.earlierOnCore d).map (·.id)).contains w.desc = true → inScope (d.at 9 1) w = false)) ∧
    (∃ (s : State) (id : Nat) (d : Desc) (w : PostedWrite), offCore s id 1 d ∧ w ∈ s.posted ∧ ((s.earlierOnCore d).map (·.id)).contains w.desc = true ∧ inScope (d.at 9 1) w = true) :=
  ⟨⟨running (descOf 5 1 0), 5, descOf 5 1 0, by unfold offCore; decide +kernel⟩,
   ⟨running (descOf 5 1 (rawOf [(0, 2), (9, 4), (16, 0x1234)])), 5, descOf 5 1 (rawOf [(0, 2), (9, 4), (16, 0x1234)]), by unfold offCore; decide +kernel⟩,
   ⟨inFlight part1 [{ descOf 4 1 0x13 with ended := true }, descOf 5 1 (rawOf [(0, 1), (9, 3)])], 5, 2, descOf 5 1 (rawOf [(0, 1), (9, 3)]), by unfold offCore; decide +kernel⟩,
   ⟨ordering [writeOf 4 (.hbm 1 0 0) 8, writeOf 5 (.store false 0 0 8) 8], 5, orderBegun, 0, by unfold offCore; decide +kernel⟩,
   ⟨ordering [writeOf 4 (.store false 0 0 8) 8], 5, orderBegun, writeOf 4 (.store false 0 0 8) 8, by unfold offCore; decide +kernel⟩⟩

theorem witness_LandingAndCompletion :
    (∃ (s : State) (i lost : Nat) (w : PostedWrite) (f sl o c : Nat), s.posted[i]? = some w ∧ w.place = .store false f sl o ∧ ((s.posted.take i).any fun v => v.desc == w.desc && v.overlaps w) = false ∧ s.slotStopped f sl = false ∧ s.coreAt f sl = some c ∧ s.filterOk w.part ⟨false, f, sl, o⟩ = true ∧ s.bit (kLsSpecMap c) (o / 16384) = false) ∧
    (∃ (s : State) (i lost : Nat) (w : PostedWrite) (f sl o c : Nat), s.posted[i]? = some w ∧ w.place = .store false f sl o ∧ ((s.posted.take i).any fun v => v.desc == w.desc && v.overlaps w) = false ∧ s.slotStopped f sl = false ∧ s.coreAt f sl = some c ∧ s.filterOk w.part ⟨false, f, sl, o⟩ = true ∧ s.bit (kLsSpecMap c) (o / 16384) = true) ∧
    (∃ (s : State) (i lost : Nat) (w : PostedWrite) (f sl o : Nat), s.posted[i]? = some w ∧ w.place = .store true f sl o ∧ ((s.posted.take i).any fun v => v.desc == w.desc && v.overlaps w) = false ∧ s.filterOk w.part ⟨true, f, sl, o⟩ = true) ∧
    (∃ (s : State) (i lost : Nat) (w : PostedWrite) (p va pa : Nat), s.posted[i]? = some w ∧ w.place = .hbm p va pa ∧ ((s.posted.take i).any fun v => v.desc == w.desc && v.overlaps w) = false ∧ s.cuts = [] ∧ s.jobs = []) ∧
    (∃ (s : State) (i lost : Nat) (w : PostedWrite) (p va pa : Nat), s.posted[i]? = some w ∧ w.place = .hbm p va pa ∧ ((s.posted.take i).any fun v => v.desc == w.desc && v.overlaps w) = false) ∧
    (∃ (s : State) (i lost : Nat) (v w : PostedWrite), s.posted[i]? = some w ∧ v ∈ s.posted.take i ∧ v.desc = w.desc ∧ v.overlaps w = true) ∧
    (∃ (s : State) (i lost : Nat) (w : PostedWrite) (f sl o : Nat), s.posted[i]? = some w ∧ w.place = .store false f sl o ∧ s.slotStopped f sl = true) ∧
    (∃ (s : State) (id : Nat) (d : Desc), s.desc? id = some d ∧ d.ended = true ∧ d.completed = false ∧ s.restarting d = false ∧ s.posted = [] ∧ (∀ e ∈ s.inflight, e.ring = d.ring → e = d)) ∧
    (∃ (s : State) (id : Nat) (d : Desc) (b : List Byte), s.desc? id = some d ∧ d.ended = true ∧ d.completed = false ∧ s.restarting d = false ∧ s.posted = [] ∧ (∀ e ∈ s.inflight, e.ring = d.ring → e = d) ∧ d.status = 0 ∧ d.flags = 0 ∧ d.signal? = none ∧ d.flag 2 = false ∧ s.frames d.part = [] ∧ bitOf (s.nat (kCqBase d.ring)) 63 = true ∧ s.linkDown = false ∧ (s.fn (partFn d.part)).sends = true ∧ b = completionRecord d (s.nat (kCqProd d.ring)) (max (s.nat (kCqSlots d.ring)) 1)) ∧
    (∃ (s : State) (id : Nat) (d e : Desc), s.desc? id = some d ∧ d.ended = true ∧ d.completed = false ∧ s.restarting d = false ∧ s.posted = [] ∧ s.inflight.find? (fun e => e.ring == d.ring) = some e ∧ e.id ≠ id ∧ e.completed = false) ∧
    (∃ (s : State) (id : Nat) (d : Desc) (j : AbortJob), s.desc? id = some d ∧ d.ended = false ∧ (s.aborts.find? fun j => j.rings.contains d.ring) = some j ∧ j.dropped = true ∧ d.signal? = none ∧ s.cuts = []) :=
  ⟨⟨{ part1 with posted := [writeOf 4 (.store false 0 0 (2 ^ 20 - 8)) 8] }, 0, 3, writeOf 4 (.store false 0 0 (2 ^ 20 - 8)) 8, 0, 0, (2 ^ 20 - 8), 0, by decide +kernel⟩,
   ⟨{ part1.setReg (kLsSpecMap 0) 2 with posted := [writeOf 4 (.store false 0 0 (2 ^ 14)) 8] }, 0, 0, writeOf 4 (.store false 0 0 (2 ^ 14)) 8, 0, 0, 2 ^ 14, 0, by decide +kernel⟩,
   ⟨{ part1 with posted := [writeOf 4 (.store true 0 0 504) 8, writeOf 4 (.store true 0 0 512) 8] }, 1, 0, writeOf 4 (.store true 0 0 512) 8, 0, 0, 512, by decide +kernel⟩,
   ⟨{ part1 with posted := [writeOf 4 (.store true 0 0 504) 8, writeOf 4 (.hbm 1 512 1024) 8] }, 1, 0, writeOf 4 (.hbm 1 512 1024) 8, 1, 512, 1024, by decide +kernel⟩,
   ⟨{ part1 with posted := [writeOf 4 (.hbm 1 512 1024) 8], cuts := [(1, {})] }, 0, 0, writeOf 4 (.hbm 1 512 1024) 8, 1, 512, 1024, by decide +kernel⟩,
   ⟨{ part1 with posted := [writeOf 4 (.hbm 1 508 1020) 8, writeOf 4 (.hbm 1 512 1024) 8] }, 1, 0, writeOf 4 (.hbm 1 508 1020) 8, writeOf 4 (.hbm 1 512 1024) 8, by decide +kernel⟩,
   ⟨{ inRecovery recovery0 with posted := [writeOf 4 (.store false 0 0 8) 8] }, 0, 0, writeOf 4 (.store false 0 0 8) 8, 0, 0, 8, by decide +kernel⟩,
   ⟨inFlight part1 [done5, { descOf 6 1 0x13 with ring := 4 }], 5, done5, by decide +kernel⟩,
   ⟨withQueue, 5, done5, completionRecord done5 0 64, by decide +kernel⟩,
   ⟨inFlight part1 [descOf 4 1 0x13, done5], 5, done5, descOf 4 1 0x13, by decide +kernel⟩,
   ⟨{ inFlight part1 [descOf 5 1 0x13] with aborts := [abort1] }, 5, descOf 5 1 0x13, abort1, by decide +kernel⟩⟩

theorem witness_WorkOfDescriptors :
    (∃ (s : State) (id : Nat) (d : Desc) (c : Nat) (o : RunObs), unharmed o) ∧
    (∃ (s : State) (id : Nat) (d : Desc) (c : Nat) (o : RunObs), unharmed o ∧ d.prog.tileOpen = true ∧ d.prog.fetched = true ∧ s.genBusy d = false) ∧
    (∃ (s : State) (id : Nat) (d : Desc) (c : Nat) (a b : SAddr) (l : List Byte), onCore s id 0x15 d c ∧ d.torn = false ∧ s.errs = [] ∧ s.slotWait = false ∧ decodeAddr (d.at 16 8) = some (.store a) ∧ decodeAddr (d.at 24 8) = some (.store b) ∧ d.at 36 4 = 1 ∧ s.fetch d (.store a) (d.at 32 4) = (some l, s) ∧ l.length = d.at 32 4 ∧ 0 < l.length ∧ b.off % b.row + l.length ≤ b.row ∧ s.filterOk d.part b = true) ∧
    (∃ (s : State) (id : Nat) (d : Desc) (c : Nat) (a b : SAddr) (tl l : List Byte) (p : Partial) (sats : Nat), onCore s id 0x12 d c ∧ d.torn = false ∧ s.errs = [] ∧ s.slotWait = false ∧ decodeAddr (d.at 16 8) = some (.store a) ∧ decodeAddr (d.at 32 8) = some (.store b) ∧ d.at 28 1 = 1 ∧ s.fetch d (.store a) 8 = (some tl, s) ∧ s.partialsOk d [bitOf (leNat tl) 12 && decide (leNat tl % 16 ≤ 8)] = true ∧ s.fetch d ((Addr.store a).plus 8) (d.at 40 4 * (if bitOf (leNat tl) 12 = true ∧ leNat tl % 16 ≤ 8 then 8 else 4)) = (some l, s) ∧ reducePartials [partialOf (leNat tl) (d.at 40 4) l] = some (p, sats) ∧ s.addrOk d.part (d.at 32 8) p.bytes.length true = true ∧ b.off % b.row + p.bytes.length ≤ b.row ∧ s.filterOk d.part b = true) ∧
    (∃ (s q r u v : State) (id : Nat) (d : Desc) (c n : Nat) (l m : List Byte) (edges : List Nat) (seqs : List (Nat × Nat)), onCore s id 0x16 d c ∧ d.torn = false ∧ s.errs = [] ∧ s.slotWait = false ∧ s.fetch d (.va (d.at 16 8)) 4 = (some l, q) ∧ n = leNat l ∧ 1 ≤ n ∧ n ≤ 4096 ∧ q.fetch d (.va (d.at 16 8 + 8)) (8 * n) = (some m, r) ∧ seqs = (countFrom 0 n).map (fun q => (byteField m (8 * q) 4, byteField m (8 * q + 4) 4)) ∧ edges = (countFrom 0 8).map (fun k => s.nat (kBucketEdge d.part k)) ∧ u = r.bump (kBucketOverflows d.part) (seqs.filter fun x => x.2 != 0 && (bucketOf edges x.2).isNone).length ∧ (batchPlan (d.at 24 8) edges seqs).foldl (fun (acc : Bool × State) (x : Nat × List Byte) => if acc.1 then acc.2.issue d (.va (d.at 24 8 + x.1)) x.2 else acc) (true, u) = (true, v) ∧ wentWell v id d) ∧
    (∃ (s u v : State) (id op : Nat) (i : Instr) (d : Desc) (c : Nat) (t : Tile) (l : List (List (Int × Nat))), (op, i) ∈ [(0x10, Instr.matmul id {}), (0x23, .attnPv id {})] ∧ tileReady s id op d c t ∧ (s.loadSeeds d c).runs d.id = true ∧ (s.loadSeeds d c).formTile d c t none = (some l, u) ∧ (passed u d c t l).drainTile d c t l = (true, v) ∧ wentWell v id d) ∧
    (∃ (s u v : State) (id op : Nat) (i : Instr) (d : Desc) (c : Nat) (t : Tile) (l : List (List (Int × Nat))), (op, i) ∈ [(0x10, Instr.matmul id {}), (0x23, .attnPv id {})] ∧ tileReady s id op d c t ∧ (s.loadSeeds d c).runs d.id = true ∧ (s.loadSeeds d c).formTile d c t none = (some l, u) ∧ (passed u d c t l).drainTile d c t l = (true, v) ∧ wentWell v id d) ∧
    (∃ (s u v : State) (id : Nat) (d : Desc) (c : Nat) (t : Tile) (l : List (List (Int × Nat))), tileReady s id 0x20 d c t ∧ (s.loadSeeds d c).runs d.id = true ∧ (s.loadSeeds d c).formTile d c t none = (some l, u) ∧ eachRow (d.rows t) (passed u d c t l) (fun s r => s.scoreRow d c t r (l.getD r [])) = (true, v) ∧ wentWell v id d) ∧
    (∃ (s u w v : State) (id : Nat) (d : Desc) (c : Nat) (t : Tile) (l : List (List (Int × Nat))), tileReady s id 0x21 d c t ∧ (s.loadSeeds d c).runs d.id = true ∧ (s.loadSeeds d c).formTile d c t none = (some l, u) ∧ (if d.prog.seeded then (true, passed u d c t l) else (passed u d c t l).writePTag d) = (true, w) ∧ eachRow (d.rows t) w (fun s r => s.recomputeRow d c t ((passed u d c t l).pTagNow d).2 r (l.getD r [])) = (true, v) ∧ wentWell v id d) ∧
    (∃ (s u w v : State) (id lat : Nat) (d : Desc) (c : Nat) (t : Tile) (a : Addr), tileReady s id 0x22 d c t ∧ (s.loadSeeds d c).runs d.id = true ∧ decodeAddr (d.at 104 8) = some a ∧ lat = readLatency d.core a true ∧ u = (s.loadSeeds d c).spend d.id ((if d.prog.seeded then 0 else 16 + lat) + d.normCost t) ∧ (if d.prog.seeded || d.grad then (true, u) else u.writePTag d) = (true, w) ∧ eachRow (d.rows t) w (fun x r => if d.grad then x.gradRow d c t r else x.normRow d c t ((s.loadSeeds d c).pTagNow d).2 r) = (true, v) ∧ wentWell v id d) ∧
    (∃ (s u w v : State) (id : Nat) (d : Desc) (c : Nat) (t : Tile) (a ra : SAddr) (recs : List Nat) (rows : List (List Fv)), tileReady s id 0x11 d c t ∧ d.region? 40 = some a ∧ decodeSAddr (d.at 84 4) = some ra ∧ (s.loadSeeds d c).runs d.id = true ∧ (s.loadSeeds d c).readRanges d ra = (some recs, u) ∧ u.readInputs d t a (d.aPlace t) (d.at 95 1 == 1) = (some rows, w) ∧ w.writeStaged d c t rows recs = (true, v) ∧ wentWell v id d) ∧
    (∃ (s u w v : State) (id : Nat) (d e : Desc) (c : Nat) (t : Tile), tileReady s id 0x30 d c t ∧ s.appendBlocked d = false ∧ s.appendScales d c = u ∧ u.desc? id = some e ∧ e.ended = false ∧ e.curTile = some t ∧ e.prog.tile = d.prog.tile ∧ e.owned (e.prog.tile + 1) = d.owned (d.prog.tile + 1) ∧ u.appendPart e c t 0 = (true, w) ∧ w.appendPart e c t 1 = (true, v) ∧ e.liveTiles.getLast? ≠ some t ∧ wentWell v id d) ∧
    (∃ (s : State) (id : Nat) (d : Desc) (c : Nat), onCore s id 0x13 d c) ∧
    (∃ (s : State) (id : Nat) (d : Desc) (c : Nat), onCore s id 0x14 d c) ∧
    (∃ (s : State) (id : Nat) (d : Desc) (c : Nat), onCore s id 0x15 d c) ∧
    (∃ (s : State) (id : Nat) (d : Desc) (c : Nat), onCore s id 0x12 d c) ∧
    (∃ (s : State) (id : Nat) (d : Desc) (c : Nat), onCore s id 0x16 d c) ∧
    (∃ (s : State) (id : Nat) (d : Desc) (c : Nat), onCore s id 0x10 d c ∧ d.prog.tileOpen = true ∧ d.prog.fetched = true ∧ s.genBusy d = false) ∧
    (∃ (s : State) (id : Nat) (d : Desc) (c : Nat), onCore s id 0x11 d c ∧ d.prog.tileOpen = true ∧ d.prog.fetched = true ∧ s.genBusy d = false) ∧
    (∃ (s : State) (id : Nat) (d : Desc) (c : Nat), onCore s id 0x20 d c ∧ d.prog.tileOpen = true ∧ d.prog.fetched = true ∧ s.genBusy d = false) ∧
    (∃ (s : State) (id : Nat) (d : Desc) (c : Nat), onCore s id 0x21 d c ∧ d.prog.tileOpen = true ∧ d.prog.fetched = true ∧ s.genBusy d = false) ∧
    (∃ (s : State) (id : Nat) (d : Desc) (c : Nat), onCore s id 0x22 d c ∧ d.prog.tileOpen = true ∧ d.prog.fetched = true ∧ s.genBusy d = false) ∧
    (∃ (s : State) (id : Nat) (d : Desc) (c : Nat), onCore s id 0x23 d c ∧ d.prog.tileOpen = true ∧ d.prog.fetched = true ∧ s.genBusy d = false) ∧
    (∃ (s : State) (id : Nat) (d : Desc) (c : Nat), onCore s id 0x30 d c ∧ d.prog.tileOpen = true ∧ d.prog.fetched = true ∧ s.genBusy d = false ∧ s.appendBlocked d = false) :=
  ⟨⟨running (descOf 5 1 19), 5, descOf 5 1 19, 0, { waitCc := 3 }, by unfold unharmed; decide +kernel⟩,
   ⟨tiling mmDesc, 5, mmDesc, 0, { waitCc := 3 }, by unfold unharmed; decide +kernel⟩,
   ⟨running moveDesc, 5, moveDesc, 0, ⟨false, 0, 0, 0x100⟩, ⟨false, 0, 0, 0x200⟩, List.replicate 8 0, by unfold onCore; decide +kernel⟩,
   ⟨withPartial, 5, reduceDesc, 0, ⟨false, 0, 0, 0x100⟩, ⟨false, 0, 0, 0x200⟩, [4, 0, 0, 0, 0, 0, 0, 0], [9, 0, 0, 0, 0, 0, 0, 0], ⟨4, [9, 0]⟩, 0, by unfold onCore; decide +kernel⟩,
   ⟨bucketing, ((bucketing).fetch bucketDesc (.va 0x8000) 4).2, (((bucketing).fetch bucketDesc (.va 0x8000) 4).2.fetch bucketDesc (.va 0x8008) 8).2, ((((bucketing).fetch bucketDesc (.va 0x8000) 4).2.fetch bucketDesc (.va 0x8008) 8).2.bump (kBucketOverflows bucketDesc.part) (((countFrom 0 1).map (fun q => (byteField ((((bucketing).fetch bucketDesc (.va 0x8000) 4).2.fetch bucketDesc (.va 0x8008) 8).1.getD []) (8 * q) 4, byteField ((((bucketing).fetch bucketDesc (.va 0x8000) 4).2.fetch bucketDesc (.va 0x8008) 8).1.getD []) (8 * q + 4) 4))).filter fun x => x.2 != 0 && (bucketOf ((countFrom 0 8).map (fun k => bucketing.nat (kBucketEdge bucketDesc.part k))) x.2).isNone).length), ((batchPlan (bucketDesc.at 24 8) ((countFrom 0 8).map (fun k => bucketing.nat (kBucketEdge bucketDesc.part k))) ((countFrom 0 1).map (fun q => (byteField ((((bucketing).fetch bucketDesc (.va 0x8000) 4).2.fetch bucketDesc (.va 0x8008) 8).1.getD []) (8 * q) 4, byteField ((((bucketing).fetch bucketDesc (.va 0x8000) 4).2.fetch bucketDesc (.va 0x8008) 8).1.getD []) (8 * q + 4) 4)))).foldl (fun (acc : Bool × State) (x : Nat × List Byte) => if acc.1 then acc.2.issue bucketDesc (.va (bucketDesc.at 24 8 + x.1)) x.2 else acc) (true, ((((bucketing).fetch bucketDesc (.va 0x8000) 4).2.fetch bucketDesc (.va 0x8008) 8).2.bump (kBucketOverflows bucketDesc.part) (((countFrom 0 1).map (fun q => (byteField ((((bucketing).fetch bucketDesc (.va 0x8000) 4).2.fetch bucketDesc (.va 0x8008) 8).1.getD []) (8 * q) 4, byteField ((((bucketing).fetch bucketDesc (.va 0x8000) 4).2.fetch bucketDesc (.va 0x8008) 8).1.getD []) (8 * q + 4) 4))).filter fun x => x.2 != 0 && (bucketOf ((countFrom 0 8).map (fun k => bucketing.nat (kBucketEdge bucketDesc.part k))) x.2).isNone).length))).2, 5, bucketDesc, 0, 1, ((bucketing).fetch bucketDesc (.va 0x8000) 4).1.getD [], (((bucketing).fetch bucketDesc (.va 0x8000) 4).2.fetch bucketDesc (.va 0x8008) 8).1.getD [], ((countFrom 0 8).map (fun k => bucketing.nat (kBucketEdge bucketDesc.part k))), ((countFrom 0 1).map (fun q => (byteField ((((bucketing).fetch bucketDesc (.va 0x8000) 4).2.fetch bucketDesc (.va 0x8008) 8).1.getD []) (8 * q) 4, byteField ((((bucketing).fetch bucketDesc (.va 0x8000) 4).2.fetch bucketDesc (.va 0x8008) 8).1.getD []) (8 * q + 4) 4))), by unfold onCore; decide +kernel, by decide +kernel, by decide +kernel, by decide +kernel, some_of [] (by decide +kernel), by decide +kernel, by decide +kernel, by decide +kernel, some_of [] (by decide +kernel), rfl, rfl, rfl, pair_of (by decide +kernel), wentWell_of (by decide +kernel)⟩,
   ⟨tiling mmDesc, (((tiling mmDesc).loadSeeds mmDesc 0).formTile mmDesc 0 ⟨0, 0, 0, 0, 0⟩ none).2, (((passed (((tiling mmDesc).loadSeeds mmDesc 0).formTile mmDesc 0 ⟨0, 0, 0, 0, 0⟩ none).2 mmDesc 0 ⟨0, 0, 0, 0, 0⟩ ((((tiling mmDesc).loadSeeds mmDesc 0).formTile mmDesc 0 ⟨0, 0, 0, 0, 0⟩ none).1.getD []))).drainTile mmDesc 0 ⟨0, 0, 0, 0, 0⟩ ((((tiling mmDesc).loadSeeds mmDesc 0).formTile mmDesc 0 ⟨0, 0, 0, 0, 0⟩ none).1.getD [])).2, 5, 0x10, .matmul 5 {}, mmDesc, 0, ⟨0, 0, 0, 0, 0⟩, ((((tiling mmDesc).loadSeeds mmDesc 0).formTile mmDesc 0 ⟨0, 0, 0, 0, 0⟩ none).1.getD []), by decide +kernel, by unfold tileReady onCore; decide +kernel, by decide +kernel, some_of [] (by decide +kernel), pair_of (by decide +kernel), wentWell_of (by decide +kernel)⟩,
   ⟨tiling pvDesc, (((tiling pvDesc).loadSeeds pvDesc 0).formTile pvDesc 0 ⟨0, 0, 0, 0, 0⟩ none).2, (((passed (((tiling pvDesc).loadSeeds pvDesc 0).formTile pvDesc 0 ⟨0, 0, 0, 0, 0⟩ none).2 pvDesc 0 ⟨0, 0, 0, 0, 0⟩ ((((tiling pvDesc).loadSeeds pvDesc 0).formTile pvDesc 0 ⟨0, 0, 0, 0, 0⟩ none).1.getD []))).drainTile pvDesc 0 ⟨0, 0, 0, 0, 0⟩ ((((tiling pvDesc).loadSeeds pvDesc 0).formTile pvDesc 0 ⟨0, 0, 0, 0, 0⟩ none).1.getD [])).2, 5, 0x23, .attnPv 5 {}, pvDesc, 0, ⟨0, 0, 0, 0, 0⟩, ((((tiling pvDesc).loadSeeds pvDesc 0).formTile pvDesc 0 ⟨0, 0, 0, 0, 0⟩ none).1.getD []), by decide +kernel, by unfold tileReady onCore; decide +kernel, by decide +kernel, some_of [] (by decide +kernel), pair_of (by decide +kernel), wentWell_of (by decide +kernel)⟩,
   ⟨tiling scoreDesc, (((tiling scoreDesc).loadSeeds scoreDesc 0).formTile scoreDesc 0 ⟨0, 0, 0, 0, 0⟩ none).2, (eachRow (scoreDesc.rows ⟨0, 0, 0, 0, 0⟩) (passed (((tiling scoreDesc).loadSeeds scoreDesc 0).formTile scoreDesc 0 ⟨0, 0, 0, 0, 0⟩ none).2 scoreDesc 0 ⟨0, 0, 0, 0, 0⟩ ((((tiling scoreDesc).loadSeeds scoreDesc 0).formTile scoreDesc 0 ⟨0, 0, 0, 0, 0⟩ none).1.getD [])) (fun s r => s.scoreRow scoreDesc 0 ⟨0, 0, 0, 0, 0⟩ r (((((tiling scoreDesc).loadSeeds scoreDesc 0).formTile scoreDesc 0 ⟨0, 0, 0, 0, 0⟩ none).1.getD []).getD r []))).2, 5, scoreDesc, 0, ⟨0, 0, 0, 0, 0⟩, ((((tiling scoreDesc).loadSeeds scoreDesc 0).formTile scoreDesc 0 ⟨0, 0, 0, 0, 0⟩ none).1.getD []), by unfold tileReady onCore; decide +kernel, by decide +kernel, some_of [] (by decide +kernel), pair_of (by decide +kernel), wentWell_of (by decide +kernel)⟩,
   ⟨tiling recomputeDesc, (((tiling recomputeDesc).loadSeeds recomputeDesc 0).formTile recomputeDesc 0 ⟨0, 0, 0, 0, 0⟩ none).2, (if recomputeDesc.prog.seeded then (true, (passed (((tiling recomputeDesc).loadSeeds recomputeDesc 0).formTile recomputeDesc 0 ⟨0, 0, 0, 0, 0⟩ none).2 recomputeDesc 0 ⟨0, 0, 0, 0, 0⟩ ((((tiling recomputeDesc).loadSeeds recomputeDesc 0).formTile recomputeDesc 0 ⟨0, 0, 0, 0, 0⟩ none).1.getD []))) else ((passed (((tiling recomputeDesc).loadSeeds recomputeDesc 0).formTile recomputeDesc 0 ⟨0, 0, 0, 0, 0⟩ none).2 recomputeDesc 0 ⟨0, 0, 0, 0, 0⟩ ((((tiling recomputeDesc).loadSeeds recomputeDesc 0).formTile recomputeDesc 0 ⟨0, 0, 0, 0, 0⟩ none).1.getD []))).writePTag recomputeDesc).2, (eachRow (recomputeDesc.rows ⟨0, 0, 0, 0, 0⟩) (if recomputeDesc.prog.seeded then (true, (passed (((tiling recomputeDesc).loadSeeds recomputeDesc 0).formTile recomputeDesc 0 ⟨0, 0, 0, 0, 0⟩ none).2 recomputeDesc 0 ⟨0, 0, 0, 0, 0⟩ ((((tiling recomputeDesc).loadSeeds recomputeDesc 0).formTile recomputeDesc 0 ⟨0, 0, 0, 0, 0⟩ none).1.getD []))) else ((passed (((tiling recomputeDesc).loadSeeds recomputeDesc 0).formTile recomputeDesc 0 ⟨0, 0, 0, 0, 0⟩ none).2 recomputeDesc 0 ⟨0, 0, 0, 0, 0⟩ ((((tiling recomputeDesc).loadSeeds recomputeDesc 0).formTile recomputeDesc 0 ⟨0, 0, 0, 0, 0⟩ none).1.getD []))).writePTag recomputeDesc).2 (fun s r => s.recomputeRow recomputeDesc 0 ⟨0, 0, 0, 0, 0⟩ ((passed (((tiling recomputeDesc).loadSeeds recomputeDesc 0).formTile recomputeDesc 0 ⟨0, 0, 0, 0, 0⟩ none).2 recomputeDesc 0 ⟨0, 0, 0, 0, 0⟩ ((((tiling recomputeDesc).loadSeeds recomputeDesc 0).formTile recomputeDesc 0 ⟨0, 0, 0, 0, 0⟩ none).1.getD [])).pTagNow recomputeDesc).2 r (((((tiling recomputeDesc).loadSeeds recomputeDesc 0).formTile recomputeDesc 0 ⟨0, 0, 0, 0, 0⟩ none).1.getD []).getD r []))).2, 5, recomputeDesc, 0, ⟨0, 0, 0, 0, 0⟩, ((((tiling recomputeDesc).loadSeeds recomputeDesc 0).formTile recomputeDesc 0 ⟨0, 0, 0, 0, 0⟩ none).1.getD []), by unfold tileReady onCore; decide +kernel, by decide +kernel, some_of [] (by decide +kernel), pair_of (by decide +kernel), pair_of (by decide +kernel), wentWell_of (by decide +kernel)⟩,
   ⟨tiling normDesc, (((tiling normDesc).loadSeeds normDesc 0).spend 5 ((if normDesc.prog.seeded then 0 else 16 + 4) + normDesc.normCost ⟨0, 0, 0, 0, 0⟩)), (if normDesc.prog.seeded || normDesc.grad then (true, (((tiling normDesc).loadSeeds normDesc 0).spend 5 ((if normDesc.prog.seeded then 0 else 16 + 4) + normDesc.normCost ⟨0, 0, 0, 0, 0⟩))) else (((tiling normDesc).loadSeeds normDesc 0).spend 5 ((if normDesc.prog.seeded then 0 else 16 + 4) + normDesc.normCost ⟨0, 0, 0, 0, 0⟩)).writePTag normDesc).2, (eachRow (normDesc.rows ⟨0, 0, 0, 0, 0⟩) (if normDesc.prog.seeded || normDesc.grad then (true, (((tiling normDesc).loadSeeds normDesc 0).spend 5 ((if normDesc.prog.seeded then 0 else 16 + 4) + normDesc.normCost ⟨0, 0, 0, 0, 0⟩))) else (((tiling normDesc).loadSeeds normDesc 0).spend 5 ((if normDesc.prog.seeded then 0 else 16 + 4) + normDesc.normCost ⟨0, 0, 0, 0, 0⟩)).writePTag normDesc).2 (fun x r => if normDesc.grad then x.gradRow normDesc 0 ⟨0, 0, 0, 0, 0⟩ r else x.normRow normDesc 0 ⟨0, 0, 0, 0, 0⟩ (((tiling normDesc).loadSeeds normDesc 0).pTagNow normDesc).2 r)).2, 5, 4, normDesc, 0, ⟨0, 0, 0, 0, 0⟩, .store ⟨false, 0, 0, 0x4000⟩, by unfold tileReady onCore; decide +kernel, by decide +kernel, by decide +kernel, by decide +kernel, rfl, pair_of (by decide +kernel), pair_of (by decide +kernel), wentWell_of (by decide +kernel)⟩,
   ⟨tiling quantDesc, (((tiling quantDesc).loadSeeds quantDesc 0).readRanges quantDesc ⟨false, 0, 0, 0⟩).2, ((((tiling quantDesc).loadSeeds quantDesc 0).readRanges quantDesc ⟨false, 0, 0, 0⟩).2.readInputs quantDesc ⟨0, 0, 0, 0, 0⟩ ⟨false, 0, 0, 0x1000⟩ (quantDesc.aPlace ⟨0, 0, 0, 0, 0⟩) (quantDesc.at 95 1 == 1)).2, (((((tiling quantDesc).loadSeeds quantDesc 0).readRanges quantDesc ⟨false, 0, 0, 0⟩).2.readInputs quantDesc ⟨0, 0, 0, 0, 0⟩ ⟨false, 0, 0, 0x1000⟩ (quantDesc.aPlace ⟨0, 0, 0, 0, 0⟩) (quantDesc.at 95 1 == 1)).2.writeStaged quantDesc 0 ⟨0, 0, 0, 0, 0⟩ (((((tiling quantDesc).loadSeeds quantDesc 0).readRanges quantDesc ⟨false, 0, 0, 0⟩).2.readInputs quantDesc ⟨0, 0, 0, 0, 0⟩ ⟨false, 0, 0, 0x1000⟩ (quantDesc.aPlace ⟨0, 0, 0, 0, 0⟩) (quantDesc.at 95 1 == 1)).1.getD []) ((((tiling quantDesc).loadSeeds quantDesc 0).readRanges quantDesc ⟨false, 0, 0, 0⟩).1.getD [])).2, 5, quantDesc, 0, ⟨0, 0, 0, 0, 0⟩, ⟨false, 0, 0, 0x1000⟩, ⟨false, 0, 0, 0⟩, (((tiling quantDesc).loadSeeds quantDesc 0).readRanges quantDesc ⟨false, 0, 0, 0⟩).1.getD [], ((((tiling quantDesc).loadSeeds quantDesc 0).readRanges quantDesc ⟨false, 0, 0, 0⟩).2.readInputs quantDesc ⟨0, 0, 0, 0, 0⟩ ⟨false, 0, 0, 0x1000⟩ (quantDesc.aPlace ⟨0, 0, 0, 0, 0⟩) (quantDesc.at 95 1 == 1)).1.getD [], by unfold tileReady onCore; decide +kernel, by decide +kernel, by decide +kernel, by decide +kernel, some_of [] (by decide +kernel), some_of [] (by decide +kernel), pair_of (by decide +kernel), wentWell_of (by decide +kernel)⟩,
   ⟨tiling appendDesc, tiling appendDesc, ((tiling appendDesc).appendPart appendDesc 0 ⟨0, 0, 0, 0, 0⟩ 0).2, (((tiling appendDesc).appendPart appendDesc 0 ⟨0, 0, 0, 0, 0⟩ 0).2.appendPart appendDesc 0 ⟨0, 0, 0, 0, 0⟩ 1).2, 5, appendDesc, appendDesc, 0, ⟨0, 0, 0, 0, 0⟩, by unfold tileReady onCore; decide +kernel, by decide +kernel, rfl, by decide +kernel, by decide +kernel, by decide +kernel, by decide +kernel, by decide +kernel, pair_of (by decide +kernel), pair_of (by decide +kernel), by decide +kernel, wentWell_of (by decide +kernel)⟩,
   ⟨running (descOf 5 1 19), 5, descOf 5 1 19, 0, by unfold onCore; decide +kernel⟩,
   ⟨running (descOf 5 1 20), 5, descOf 5 1 20, 0, by unfold onCore; decide +kernel⟩,
   ⟨running (descOf 5 1 21), 5, descOf 5 1 21, 0, by unfold onCore; decide +kernel⟩,
   ⟨running (descOf 5 1 18), 5, descOf 5 1 18, 0, by unfold onCore; decide +kernel⟩,
   ⟨running (descOf 5 1 22), 5, descOf 5 1 22, 0, by unfold onCore; decide +kernel⟩,
   ⟨tiling mmDesc, 5, mmDesc, 0, by unfold onCore; decide +kernel⟩,
   ⟨tiling quantDesc, 5, quantDesc, 0, by unfold onCore; decide +kernel⟩,
   ⟨tiling scoreDesc, 5, scoreDesc, 0, by unfold onCore; decide +kernel⟩,
   ⟨tiling recomputeDesc, 5, recomputeDesc, 0, by unfold onCore; decide +kernel⟩,
   ⟨tiling normDesc, 5, normDesc, 0, by unfold onCore; decide +kernel⟩,
   ⟨tiling pvDesc, 5, pvDesc, 0, by unfold onCore; decide +kernel⟩,
   ⟨tiling appendDesc, 5, appendDesc, 0, by unfold onCore; decide +kernel⟩⟩

theorem witness_TileSteps :
    (∃ (s : State) (id op : Nat) (d : Desc) (c : Nat) (o : RunObs), unharmed o ∧ tiledOps.contains op = true ∧ onCore s id op d c) ∧
    (∃ (s u v w : State) (id op : Nat) (d : Desc) (c cc ptr : Nat) (bs lens pos : List Nat) (bad : Bool) (pr : Prog), tiledOps.contains op = true ∧ onCore s id op d c ∧ s.errs = [] ∧ s.slotWait = false ∧ d.prog.boundsLanded = false ∧ (s.spend id cc).readBounds d = (some (bs, ptr), u) ∧ boundsOk bs = true ∧ u.readVec d ptr (bs.getD 3 0) d.prog.lenBytes = (some lens, v) ∧ v.readPos d (bs.getD 3 0) = (some (pos, bad), w) ∧ wentWell w id d ∧ pr = { d.prog with bounds := bs, lens := lens, poss := pos, posBad := bad, boundsLanded := true } ∧ (d.walks = true ∨ (Desc.stage3Ok { d with prog := pr } = true ∧ (d.memBounds = true → w.extentsOk { d with prog := pr } = true) ∧ (Desc.owned { d with prog := pr } 0).isSome = true))) ∧
    (∃ (s u v : State) (id op : Nat) (d : Desc) (c cc : Nat) (seqs : List Nat) (l : List (Nat × ElemWalk)) (pr : Prog), tiledOps.contains op = true ∧ onCore s id op d c ∧ s.errs = [] ∧ s.slotWait = false ∧ d.walks = true ∧ d.prog.boundsLanded = true ∧ d.prog.walked = false ∧ (s.spend id cc).readSeqs d d.bB = (some seqs, u) ∧ l = seqs.zipIdx.map (fun x => (x.1, u.walkElem d.part x.1 (d.covers x.2).1 (d.covers x.2).2 d.walkKind)) ∧ u.takeFree.walkThrough d l = (true, v) ∧ (∀ x ∈ l, x.2.fail = none ∧ x.2.dropped = []) ∧ wentWell v id d ∧ pr = { d.prog with walked := true, tables := l.map (·.2.table), pages := l.zipIdx.flatMap fun x => x.1.2.pages.map fun y => (x.2 * 65536 + y.1, y.2, x.1.2.units) } ∧ (v.modDesc id fun e => { e with prog := pr }).kvStage3Ok { d with prog := pr } = true ∧ Desc.stage3Ok { d with prog := pr } = true ∧ d.memBounds = false ∧ (Desc.owned { d with prog := pr } 0).isSome = true) ∧
    (∃ (s u v : State) (id op : Nat) (d : Desc) (c cc : Nat) (t : Tile) (pr : Prog) (m : List (Nat × Nat)), tiledOps.contains op = true ∧ onCore s id op d c ∧ s.errs = [] ∧ s.slotWait = false ∧ d.torn = false ∧ s.tileDue d = true ∧ (op ≠ 0x30 ∨ d.prog.allocated = true) ∧ s.allocBlocked d = false ∧ d.curTile = some t ∧ d.stage4Bad t = false ∧ d.skipped t = false ∧ s.startTag d c = (some pr, u) ∧ u.readMask d t cc = (some m, v) ∧ wentWell v id d) ∧
    (∃ (s : State) (id op : Nat) (d : Desc) (c cc : Nat) (t : Tile), tiledOps.contains op = true ∧ onCore s id op d c ∧ s.errs = [] ∧ s.slotWait = false ∧ d.torn = false ∧ s.tileDue d = true ∧ op ≠ 0x30 ∧ d.curTile = some t ∧ d.stage4Bad t = false ∧ d.skipped t = true ∧ d.owned (d.prog.tile + 1) = none) ∧
    (∃ (s : State) (id op : Nat) (d : Desc) (c cc : Nat) (t : Tile), tiledOps.contains op = true ∧ onCore s id op d c ∧ s.errs = [] ∧ s.slotWait = false ∧ d.torn = false ∧ s.tileDue d = true ∧ op ≠ 0x30 ∧ d.curTile = some t ∧ d.stage4Bad t = true ∧ (attnOp op && d.prog.posBad) = false) ∧
    (∃ (s v : State) (id op : Nat) (d : Desc) (c cc : Nat) (t : Tile), tiledOps.contains op = true ∧ onCore s id op d c ∧ s.errs = [] ∧ s.slotWait = false ∧ d.prog.tileOpen = true ∧ d.prog.fetched = false ∧ d.curTile = some t ∧ ((s.spend id cc).wrapAdd (kOpfetchWaitCc c) cc).bringTile d t = (true, v) ∧ wentWell v id d) ∧
    (∃ (s v : State) (id op : Nat) (d : Desc) (c k n : Nat) (t : Tile), tiledOps.contains op = true ∧ onCore s id op d c ∧ s.errs = [] ∧ s.slotWait = false ∧ d.prog.tileOpen = true ∧ d.prog.fetched = true ∧ d.prog.next = none ∧ d.nextRun (d.positions + 1) (d.prog.tile + 1) = some n ∧ d.owned n = some k ∧ t = d.tileAt k ∧ (d.aNeeded t || d.bNeeded t) = true ∧ (d.bNeeded t = true → d.bStr = true) ∧ s.bringTile d t = (true, v) ∧ wentWell v id d) ∧
    (∃ (s : State) (id op : Nat) (d : Desc) (c : Nat) (t : Tile), onCore s id op d c ∧ d.prog.tileOpen = true ∧ d.prog.fetched = false ∧ d.curTile = some t) ∧
    (∃ (s : State) (id op : Nat) (d : Desc) (c : Nat), onCore s id op d c ∧ s.tileDue d = true ∧ s.allocBlocked d = false) :=
  ⟨⟨tiling (streamDesc twoRows), 5, 0x11, (streamDesc twoRows), 0, { waitCc := 3 }, by unfold unharmed onCore; decide +kernel⟩,
   ⟨tiling earlyDesc, (((tiling earlyDesc).spend 5 3).readBounds earlyDesc).2, ((((tiling earlyDesc).spend 5 3).readBounds earlyDesc).2.readVec earlyDesc 0 1 earlyDesc.prog.lenBytes).2, (((((tiling earlyDesc).spend 5 3).readBounds earlyDesc).2.readVec earlyDesc 0 1 earlyDesc.prog.lenBytes).2.readPos earlyDesc 1).2, 5, 0x10, earlyDesc, 0, 3, 0, [1, 1, 0, 1], [], [], false, { earlyDesc.prog with boundsLanded := true }, by decide +kernel, by unfold onCore; decide +kernel, by decide +kernel, by decide +kernel, by decide +kernel, pair_of (by decide +kernel), by decide +kernel, pair_of (by decide +kernel), pair_of (by decide +kernel), wentWell_of (by decide +kernel), rfl, by decide +kernel⟩,
   ⟨walking, walkSeqs.2, walkEnd.2, 5, 0x30, walkDesc, 0, 3, [1], walkList, { walkDesc.prog with walked := true, tables := walkList.map (·.2.table), pages := walkList.zipIdx.flatMap fun x => x.1.2.pages.map fun y => (x.2 * 65536 + y.1, y.2, x.1.2.units) }, by decide +kernel, by unfold onCore; decide +kernel, by decide +kernel, by decide +kernel, by decide +kernel, by decide +kernel, by decide +kernel, pair_of (x := walkSeqs) (by decide +kernel), rfl, pair_of (x := walkEnd) (by decide +kernel), by decide +kernel, wentWell_of (by decide +kernel), rfl, by decide +kernel⟩,
   ⟨tiling (streamDesc twoRows), ((tiling (streamDesc twoRows)).startTag (streamDesc twoRows) 0).2, (((tiling (streamDesc twoRows)).startTag (streamDesc twoRows) 0).2.readMask (streamDesc twoRows) ⟨0, 0, 0, 0, 0⟩ 3).2, 5, 0x11, (streamDesc twoRows), 0, 3, ⟨0, 0, 0, 0, 0⟩, ((tiling (streamDesc twoRows)).startTag (streamDesc twoRows) 0).1.getD {}, [], by decide +kernel, by unfold onCore; decide +kernel, rfl, rfl, rfl, by decide +kernel, Or.inl (by decide), by decide +kernel, by decide +kernel, rfl, by decide +kernel, some_of {} (by decide +kernel), pair_of (by decide +kernel), wentWell_of (by decide +kernel)⟩,
   ⟨tiling (lenDesc 0), 5, 0x10, lenDesc 0, 0, 3, ⟨0, 0, 0, 0, 0⟩, by unfold onCore; decide +kernel⟩,
   ⟨tiling (lenDesc 2), 5, 0x10, lenDesc 2, 0, 3, ⟨0, 0, 0, 0, 0⟩, by unfold onCore; decide +kernel⟩,
   ⟨tiling (streamDesc { twoRows with tileOpen := true }), ((((tiling (streamDesc { twoRows with tileOpen := true })).spend 5 3).wrapAdd (kOpfetchWaitCc 0) 3).bringTile (streamDesc { twoRows with tileOpen := true }) ⟨0, 0, 0, 0, 0⟩).2, 5, 0x11, (streamDesc { twoRows with tileOpen := true }), 0, 3, ⟨0, 0, 0, 0, 0⟩, by decide +kernel, by unfold onCore; decide +kernel, by decide +kernel, by decide +kernel, by decide +kernel, by decide +kernel, by decide +kernel, pair_of (by decide +kernel), wentWell_of (by decide +kernel)⟩,
   ⟨tiling (streamDesc { twoRows with tileOpen := true, fetched := true }), ((tiling (streamDesc { twoRows with tileOpen := true, fetched := true })).bringTile (streamDesc { twoRows with tileOpen := true, fetched := true }) ((streamDesc { twoRows with tileOpen := true, fetched := true }).tileAt 1)).2, 5, 0x11, (streamDesc { twoRows with tileOpen := true, fetched := true }), 0, 1, 1, (streamDesc { twoRows with tileOpen := true, fetched := true }).tileAt 1, by decide +kernel, by unfold onCore; decide +kernel, rfl, rfl, rfl, rfl, by decide +kernel, by decide +kernel, by decide +kernel, rfl, by decide +kernel, by decide +kernel, pair_of (by decide +kernel), wentWell_of (by decide +kernel)⟩,
   ⟨tiling (streamDesc { twoRows with tileOpen := true }), 5, 0x11, (streamDesc { twoRows with tileOpen := true }), 0, ⟨0, 0, 0, 0, 0⟩, by unfold onCore; decide +kernel⟩,
   ⟨tiling (streamDesc twoRows), 5, 0x11, (streamDesc twoRows), 0, by unfold onCore; decide +kernel⟩⟩

theorem witness_RunaheadAndOverrun :
    (∃ (s : State) (r w avail : Nat), r < 128 ∧ s.ringRuns r = true ∧ (∀ q, q < 128 → q ≠ r → s.ringRuns q = false) ∧ (s.ring r).fetched = [(w, avail)] ∧ opEntries (w % 256) = 1 ∧ (s.ring r).lastCommit = none ∧ s.slips = [] ∧ avail ≤ s.tb.ticks ∧ (uncommitted r (s.ringPart r) w).flag 3 = false ∧ (uncommitted r (s.ringPart r) w).flag 4 = false ∧ max (s.tb.ticks + 1) (avail + (uncommitted r (s.ringPart r) w).earliest) ≤ s.tb.ticks + s.liveNat (kRunahead (s.ringPart r)) ∧ (∀ x ∈ s.runahead, x.ring ≠ r ∨ x.cons ≠ s.nat (kRingCons r))) ∧
    (∃ (s : State), s.inflight = []) ∧
    (∃ (s : State), s.tb.window ≠ .compute) ∧
    (∃ (s : State) (p : Nat) (d : Desc), p < 64 ∧ s.tb.window = .compute ∧ s.inflight = [d] ∧ s.overrunDescs p = [d] ∧ s.nat (kOverrunPolicy p) = 0 ∧ s.partState p = 1 ∧ s.partRun p = 1 ∧ s.runahead = [] ∧ s.cuts = []) ∧
    (∃ (s : State) (p : Nat), p < 64 ∧ s.tb.window = .compute ∧ (∀ d ∈ s.inflight, d.part = p) ∧ s.overrunDescs p ≠ [] ∧ s.nat (kOverrunPolicy p) = 1 ∧ s.spansDevices p = false ∧ ((s.overrunDescs p).any (·.overran)) = false) :=
  ⟨⟨runningAhead, 3, 0x13, 0, by decide +kernel⟩,
   ⟨devReady, by decide +kernel⟩,
   ⟨{ devReady with tb := { devReady.tb with window := .closed } }, by decide +kernel⟩,
   ⟨running (descOf 5 1 0x13), 1, descOf 5 1 0x13, by decide +kernel⟩,
   ⟨(running { descOf 5 1 0x13 with cycles := 1 }).setNat (kOverrunPolicy 1) 1, 1, by decide +kernel⟩⟩

theorem witness_StoresAndOwners :
    (∃ (s : State) (who : Requester) (c : Nat) (v : Word), c < 144 ∧ accepts s who .lsWeightMap (kLsWeightMap c) v ∧ s.ownerHalted (s.coreOwner c) = true) ∧
    (∃ (s : State) (who : Requester) (c : Nat) (v : Word), accepts s who .lsWeightMap (kLsWeightMap c) v ∧ v ≠ s.reg (kLsWeightMap c) ∧ s.ownerHalted (s.coreOwner c) = false) ∧
    (∃ (s : State) (who : Requester) (c : Nat) (v : Word), accepts s who .lsSpecMap (kLsSpecMap c) v ∧ s.ownerHalted (s.coreOwner c) = true ∧ s.runahead = []) ∧
    (∃ (s : State) (who : Requester) (f : Nat) (m : Nat) (v : Word), f < 16 ∧ m < 4 ∧ accepts s who .fsWeightMap (kFsWeightMap f m) v ∧ ((∀ i, i < 64 → bitOf (s.nat (kFsWeightMap f m)) i ≠ bitOf v.toNat i → s.ownerHalted (s.oct (kFsOwner f) (64 * m + i)) = true))) ∧
    (∃ (s : State) (who : Requester) (f : Nat) (bytes : List Byte), f < 16 ∧ bytes.length = 256 ∧ acceptsLong s who (kFsOwner f / 256) (kFsOwner f % 256) bytes ∧ ((∀ i, i < 256 → (bytes.getD i 0).toNat ≠ s.oct (kFsOwner f) i → s.ownerHalted (s.oct (kFsOwner f) i) = true ∧ s.ownerHalted (bytes.getD i 0).toNat = true))) ∧
    (∃ (s : State) (who : Requester) (f : Nat) (v : Word), f < 16 ∧ accepts s who .coreOwner (kCoreOwner f) v ∧ ((∀ i, i < 8 → bitsOf v.toNat (8 * i + 7) (8 * i) ≠ s.slotOwner f i → s.ownerHalted (s.slotOwner f i) = true ∧ s.ownerHalted (bitsOf v.toNat (8 * i + 7) (8 * i)) = true ∧ (s.coreAt f i).isSome = true)) ∧ ((∀ p, p < 64 → s.nat (kHaltCause p) ≠ 3))) ∧
    (∃ (s : State) (who : Requester) (bytes : List Byte) (g : Nat), g < 192 ∧ bytes.length = 192 ∧ acceptsLong s who (kGranuleOwner / 256) (kGranuleOwner % 256) bytes ∧ ((∀ h, h < 192 → h ≠ g → (bytes.getD h 0).toNat = s.granuleOwner h)) ∧ s.granuleOwner g = 0xFF ∧ (bytes.getD g 0).toNat < 64 ∧ s.partState (bytes.getD g 0).toNat = 1) ∧
    (∃ (s : State) (who : Requester) (bytes : List Byte) (g : Nat), g < 192 ∧ bytes.length = 192 ∧ acceptsLong s who (kGranuleOwner / 256) (kGranuleOwner % 256) bytes ∧ ((∀ h, h < 192 → h ≠ g → (bytes.getD h 0).toNat = s.granuleOwner h)) ∧ s.granuleOwner g < 64 ∧ (bytes.getD g 0).toNat = 0xFF ∧ s.halted (s.granuleOwner g) = true ∧ bitOf (s.oct kRetirePending (g / 8)) (g % 8) = false) ∧
    (∃ (s : State) (g : Nat) (rest : List Nat), s.granuleQueue = g :: rest ∧ g < 192 ∧ bitOf (s.oct kRetirePending (g / 8)) (g % 8) = false) :=
  ⟨⟨devReady, .pf, 143, 0x5, by decide +kernel, accepts_of (by decide +kernel), by decide +kernel⟩,
   ⟨part1, .pf, 0, 5, accepts_of (by decide +kernel), by decide +kernel⟩,
   ⟨devReady, .pf, 0, 5, accepts_of (by decide +kernel), by decide +kernel⟩,
   ⟨devReady, .pf, 15, 3, 0xF0, by decide +kernel, by decide +kernel, accepts_of (by decide +kernel), by decide +kernel⟩,
   ⟨part1Halted, .pf, 15, List.replicate 256 1, by decide +kernel, by decide +kernel, acceptsLong_of (by decide +kernel), by decide +kernel⟩,
   ⟨part1Halted, .pf, 0, 0xFFFFFFFFFFFFFFFF, by decide +kernel, accepts_of (by decide +kernel), by decide +kernel⟩,
   ⟨part1Halted, .pf, List.replicate 191 255 ++ [1], 191, by decide +kernel, by decide +kernel, acceptsLong_of (by decide +kernel), by decide +kernel⟩,
   ⟨part1Halted.setOct kGranuleOwner 0 1, .pf, List.replicate 192 255, 0, by decide +kernel, by decide +kernel, acceptsLong_of (by decide +kernel), by decide +kernel⟩,
   ⟨{ (part1Halted.setOct kGranuleOwner 191 0xFE).setOct kGranuleOwner 3 0xFE with granuleQueue := [191, 3] }, 191, [3], by decide +kernel⟩⟩

theorem witness_HeldEntries :
    (∃ (s : State) (who : Requester) (c : Nat) (v : Word), accepts s who .residueInject (kResidueInject c) v) ∧
    (∃ (s : State) (who : Requester) (p : Nat) (l : Nat) (v : Word), accepts s who .precLayer (kPrecLayer p l) v ∧ s.runahead = []) ∧
    (∃ (s : State) (who : Requester) (p : Nat) (v : Word), accepts s who .runahead (kRunahead p) v ∧ s.runahead = []) ∧
    (∃ (s : State) (who : Requester) (r : Nat) (k : Nat) (v : Word), accepts s who .shapeReg (kShapeReg r k) v) ∧
    (∃ (s : State) (who : Requester) (p : Nat) (k : Nat) (v : Word), accepts s who .bucketEdge (kBucketEdge p k) v ∧ edgesOk ((countFrom 0 8).map fun j => (s.setReg (kBucketEdge p k) v).nat (kBucketEdge p j)) = true) ∧
    (∃ (s : State) (who : Requester) (p : Nat) (k : Nat) (v : Word), accepts s who .bucketEdge (kBucketEdge p k) v ∧ edgesOk ((countFrom 0 8).map fun j => (s.setReg (kBucketEdge p k) v).nat (kBucketEdge p j)) = false) ∧
    (∃ (s : State) (who : Requester) (p : Nat) (i : Nat) (v : Word), i < 8 ∧ accepts s who .ropeBase (kRopeBase p i) v) ∧
    (∃ (s : State) (who : Requester) (p : Nat) (i : Nat) (v : Word), i < 8 ∧ accepts s who .ropeCfg (kRopeCfg p i) v) ∧
    (∃ (s : State) (who : Requester) (p : Nat) (v : Word), accepts s who .mapBase (kMapBase p) v) ∧
    (∃ (s : State) (who : Requester) (p : Nat) (v : Word), accepts s who .mapSync (kMapSync p) v) :=
  ⟨⟨devReady, .pf, 3, 1, accepts_of (by decide +kernel)⟩,
   ⟨part1, .pf, 1, 255, 0xf84f, accepts_of (by decide +kernel), by decide +kernel⟩,
   ⟨part1, .pf, 1, 1, accepts_of (by decide +kernel), by decide +kernel⟩,
   ⟨part1, .pf, 3, 15, 77, accepts_of (by decide +kernel)⟩,
   ⟨part1Halted, .pf, 1, 0, 64, accepts_of (by decide +kernel), by decide +kernel⟩,
   ⟨part1Halted, .pf, 1, 7, 64, accepts_of (by decide +kernel), by decide +kernel⟩,
   ⟨part1Halted, .pf, 1, 7, 0x461c4000, by decide +kernel, accepts_of (by decide +kernel)⟩,
   ⟨part1Halted, .pf, 1, 0, 64, by decide +kernel, accepts_of (by decide +kernel)⟩,
   ⟨part1Halted, .pf, 1, 0x10000, accepts_of (by decide +kernel)⟩,
   ⟨part1, .pf, 1, 1, accepts_of (by decide +kernel)⟩⟩

theorem witness_PagePools :
    (∃ (s : State) (who : Requester) (p : Nat) (v : Word), accepts s who .kvPoolBase (kKvPoolBase p) v ∧ s.frames p = [] ∧ ((s.setReg (kKvPoolBase p) v).kvPow2 p = false ∨ (s.setReg (kKvPoolBase p) v).nat (kKvPoolUnits p) % 64 = 0)) ∧
    (∃ (s : State) (who : Requester) (p : Nat) (v : Word), accepts s who .kvPoolUnits (kKvPoolUnits p) v ∧ s.kvPow2 p = true ∧ v.toNat % 64 ≠ 0) ∧
    (∃ (s : State) (p : Nat), s.poolEmptying p = true) ∧
    (∃ (s : State) (p : Nat), s.poolEmptying p = false) ∧
    (∃ (s : State) (who : Requester) (p : Nat) (v : Word), accepts s who .recompCons (kRecompCons p) v ∧ (s.nat (kRecompProd p) + 2 ^ 32 - v.toNat % 2 ^ 32) % 2 ^ 32 ≤ s.nat (kRecompSlots p)) ∧
    (∃ (s : State) (who : Requester) (p : Nat) (v : Word), accepts s who .recompCons (kRecompCons p) v ∧ s.nat (kRecompSlots p) < (s.nat (kRecompProd p) + 2 ^ 32 - v.toNat % 2 ^ 32) % 2 ^ 32) ∧
    (∃ (s : State) (id : Nat) (d : Desc), offCore s id 0x31 d ∧ d.prog.walked = true) ∧
    (∃ (s : State) (id : Nat) (d : Desc), offCore s id 0x31 d ∧ d.prog.walked = false) ∧
    (∃ (s : State) (id : Nat) (d : Desc) (w : ElemWalk), offCore s id 0x32 d ∧ s.streamCheck d.part (d.at 24 1) = none ∧ s.nat (kKvPoolUnits d.part) ≠ 0 ∧ w = s.walkElem d.part (d.at 16 4) (d.at 20 2) (d.at 20 2 + d.at 22 2) .seek ∧ w.fail = none ∧ s.pageJobs + w.pages.length ≤ 8192 ∧ w.pages ≠ [] ∧ (∀ j ∈ s.jobs, j.id ≠ s.nextId)) ∧
    (∃ (s : State) (id st : Nat) (d : Desc), offCore s id 0x32 d ∧ s.streamCheck d.part (d.at 24 1) = some st) :=
  ⟨⟨part1Halted, .pf, 1, 0x200000, accepts_of (by decide +kernel), by decide +kernel⟩,
   ⟨part1Halted.setNat (kKvGeom 1) (2 ^ 20), .pf, 1, 63, accepts_of (by decide +kernel), by decide +kernel⟩,
   ⟨(part1Halted.setPool 1 { emptying := true }).setNat (kKvPoolUnits 1) 2, 1, by decide +kernel⟩,
   ⟨part1Halted, 1, by decide +kernel⟩,
   ⟨(part1.setNat (kRecompProd 1) 1).setNat (kRecompSlots 1) 16, .pf, 1, 0xFFFFFFF1, accepts_of (by decide +kernel), by decide +kernel⟩,
   ⟨(part1.setNat (kRecompProd 1) 1).setNat (kRecompSlots 1) 16, .pf, 1, 0xFFFFFFF0, accepts_of (by decide +kernel), by decide +kernel⟩,
   ⟨running (withProg (descOf 5 1 0x31) { walked := true, tables := [0x10000] }), 5, withProg (descOf 5 1 0x31) { walked := true, tables := [0x10000] }, by unfold offCore; decide +kernel⟩,
   ⟨running (descOf 5 1 0x31), 5, descOf 5 1 0x31, by unfold offCore; decide +kernel⟩,
   ⟨exporting, 5, exportDesc, exporting.walkElem 1 7 0 1 .seek, by unfold offCore; decide +kernel, by decide +kernel⟩,
   ⟨running (descOf 5 1 0x32), 5, 2, descOf 5 1 0x32, by unfold offCore; decide +kernel⟩⟩

theorem witness_StreamsWindowsRegions :
    (∃ (s : State) (who : Requester) (st : Nat), st < 256 ∧ accepts s who .streamCtrl (kStreamCtrl st) 1) ∧
    (∃ (s : State) (who : Requester) (st : Nat), accepts s who .streamCtrl (kStreamCtrl st) 1 ∧ s.nat (kStreamCtrl st) ≠ 0) ∧
    (∃ (s : State) (who : Requester) (st : Nat), accepts s who .streamCtrl (kStreamCtrl st) 0 ∧ s.nat (kStreamCtrl st) = 0) ∧
    (∃ (s : State) (who : Requester) (st : Nat), accepts s who .streamCtrl (kStreamCtrl st) 0 ∧ s.nat (kStreamCtrl st) ≠ 0) ∧
    (∃ (s : State) (who : Requester) (w : Nat), w < 32 ∧ accepts s who .winState (kWinState w) 1 ∧ s.nat (kWinState w) = 0) ∧
    (∃ (s : State) (who : Requester) (w : Nat), w < 32 ∧ accepts s who .winState (kWinState w) 0 ∧ s.restoreOf w = none) ∧
    (∃ (s : State) (who : Requester) (w : Nat) (v : Word), accepts s who .winConsumed (kWinConsumed w) v) ∧
    (∃ (s : State) (who : Requester) (p : Nat) (i : Nat) (v : Word), p < 64 ∧ i < 16 ∧ accepts s who .regionBase (kRegionBase p i) v ∧ s.nat (kCutState p) = 0 ∧ (s.setReg (kRegionBase p i) v).regionsApart p = true ∧ (s.setReg (kRegionBase p i) v).region p i ≠ s.region p i) ∧
    (∃ (s : State) (who : Requester) (p : Nat) (i : Nat) (v : Word), p < 64 ∧ i < 16 ∧ accepts s who .regionSpan (kRegionSpan p i) v ∧ s.nat (kCutState p) ≠ 0) :=
  ⟨⟨part1.setNat (kStreamOwner 255) 1, .pf, 255, by decide +kernel, accepts_of (by decide +kernel)⟩,
   ⟨(part1.setNat (kStreamOwner 255) 1).setNat (kStreamCtrl 255) 1, .pf, 255, accepts_of (by decide +kernel), by decide +kernel⟩,
   ⟨part1.setNat (kStreamOwner 255) 1, .pf, 255, accepts_of (by decide +kernel), by decide +kernel⟩,
   ⟨(part1.setNat (kStreamOwner 255) 1).setNat (kStreamCtrl 255) 1, .pf, 255, accepts_of (by decide +kernel), by decide +kernel⟩,
   ⟨part1.setNat (kWinOwner 31) 1, .pf, 31, by decide +kernel, accepts_of (by decide +kernel), by decide +kernel⟩,
   ⟨(part1.setNat (kWinOwner 31) 1).setNat (kWinState 31) 2, .pf, 31, by decide +kernel, accepts_of (by decide +kernel), by decide +kernel⟩,
   ⟨(part1.setNat (kWinOwner 31) 1).setNat (kWinState 31) 2, .pf, 31, 9, accepts_of (by decide +kernel)⟩,
   ⟨part1Halted.setNat (kRegionSpan 1 15) 1, .pf, 1, 15, 0x10000, by decide +kernel, by decide +kernel, accepts_of (by decide +kernel), by decide +kernel⟩,
   ⟨part1Halted.setNat (kCutState 1) 2, .pf, 1, 0, 0x10000, by decide +kernel, by decide +kernel, accepts_of (by decide +kernel), by decide +kernel⟩⟩

theorem witness_RecordsAndCuts :
    (∃ (s : State) (st p : Nat) (ecc : Bool) (w : WaitRec) (rest : List WaitRec) (b : List Byte), st < 256 ∧ p < 64 ∧ s.liveStreams = [st] ∧ s.nat (kStreamOwner st) = p ∧ (s.stream st).again = [] ∧ (s.stream st).paid = (0, 0) ∧ (s.stream st).waiting = w :: rest ∧ (w.src = .fence ∨ w.src = .cutAbort) ∧ b = s.formFor st w.kind w.part w.object w.payload w.generation ∧ (s.stream st).byteOff + b.length ≤ s.nat (kAckBytes st) + s.nat (kRingBytes st) ∧ s.sporBytes + b.length ≤ 512 * s.frameNs ∧ s.linkDown = false) ∧
    (∃ (s : State) (st : Nat) (ecc : Bool), st ∉ s.liveStreams) ∧
    (∃ (s : State) (st : Nat) (ecc : Bool), st ∉ s.liveStreams ∧ s.liveStreams ≠ []) ∧
    (∃ (s : State) (st : Nat) (ack : List Byte), (ack.length ≠ 32 ∨ byteField ack 28 4 ≠ crc32c (ack.take 28) ∨ byteField ack 16 2 ≠ st ∨ byteField ack 18 2 ≠ s.nat (kStreamEpoch st) ∨ byteField ack 0 8 < s.nat (kAckSeqno st) ∨ s.nat (kNextSeqno st) < byteField ack 0 8 ∨ (s.stream st).byteOff < byteField ack 8 8)) ∧
    (∃ (s : State) (st seqno bytes : Nat), st < 256 ∧ s.nat (kAckSeqno st) ≤ seqno ∧ seqno ≤ s.nat (kNextSeqno st) ∧ bytes ≤ (s.stream st).byteOff ∧ bytes < 2 ^ 64 ∧ s.nat (kStreamEpoch st) < 2 ^ 16 ∧ (∀ r ∈ (s.stream st).sent ++ (s.stream st).again, r.src = .fence)) ∧
    (∃ (s : State) (who : Requester) (st : Nat) (bytes : List Byte), acceptsLong s who (kStreamAck st / 256) (kStreamAck st % 256) bytes ∧ s.nat (kTransport st) = 2) ∧
    (∃ (s : State) (who : Requester) (st seqno bytes : Nat) (ack : List Byte), st < 256 ∧ ack = formAck seqno bytes st (s.nat (kStreamEpoch st)) 0 ∧ acceptsLong s who (kStreamAck st / 256) (kStreamAck st % 256) ack ∧ s.nat (kTransport st) = 2 ∧ s.nat (kAckSeqno st) ≤ seqno ∧ seqno ≤ s.nat (kNextSeqno st) ∧ bytes ≤ (s.stream st).byteOff ∧ bytes < 2 ^ 64 ∧ s.nat (kStreamEpoch st) < 2 ^ 16 ∧ (∀ r ∈ (s.stream st).sent ++ (s.stream st).again, r.src = .fence)) ∧
    (∃ (s : State) (st : Nat), s.transportOk st = true ∧ s.streamUp st = true ∧ (s.stream st).sent ++ (s.stream st).again ≠ [] ∧ (s.stream st).retries < s.nat (kRetryLimit st)) ∧
    (∃ (s : State) (st : Nat), s.transportOk st = true ∧ s.streamUp st = true ∧ (s.stream st).sent ++ (s.stream st).again ≠ [] ∧ (s.stream st).retries < s.nat (kRetryLimit st)) ∧
    (∃ (s : State) (st : Nat), s.transportOk st = true ∧ s.streamUp st = true ∧ (s.stream st).sent ++ (s.stream st).again ≠ [] ∧ s.nat (kRetryLimit st) ≤ (s.stream st).retries) ∧
    (∃ (s : State) (st : Nat), (s.transportOk st = false ∨ s.streamUp st = false ∨ (s.stream st).sent ++ (s.stream st).again = [])) ∧
    (∃ (s : State) (st : Nat), (s.transportOk st = false ∨ s.streamUp st = false ∨ (s.stream st).sent ++ (s.stream st).again = [])) ∧
    (∃ (s : State) (id : Nat) (d : Desc), offCore s id 0x40 d ∧ s.cutCheck d = none ∧ d.part < 64) ∧
    (∃ (s : State) (id st : Nat) (d : Desc), offCore s id 0x40 d ∧ s.cutCheck d = some st) ∧
    (∃ (s : State) (p : Nat), p < 64 ∧ s.nat (kCutState p) = 1 ∧ (s.cut p).cutFrame ≤ s.frameNo ∧ (∀ w ∈ s.posted, w.part = p → s.frameNo ≤ w.frame)) ∧
    (∃ (s : State) (p : Nat), (s.nat (kCutState p) ≠ 1 ∨ s.frameNo < (s.cut p).cutFrame)) ∧
    (∃ (s : State) (p : Nat), (s.nat (kCutState p) ≠ 1 ∨ s.frameNo < (s.cut p).cutFrame)) ∧
    (∃ (s : State) (p : Nat) (w : PostedWrite) (v pa : Nat), w ∈ s.posted ∧ w.part = p ∧ w.frame < s.frameNo ∧ w.place = .hbm p v pa) ∧
    (∃ (s : State) (id : Nat) (d : Desc), offCore s id 0x41 d ∧ s.replayCheck d = none) ∧
    (∃ (s : State) (id st : Nat) (d : Desc), offCore s id 0x41 d ∧ s.replayCheck d = some st) ∧
    (∃ (s : State) (id : Nat) (d : Desc) (k : JobKind), offCore s id 0x42 d ∧ s.restoreCheck d = none ∧ d.at 24 4 ≠ 0 ∧ k = .restore (d.at 16 4) (d.at 20 2) (d.at 22 2) (d.at 28 1) (d.at 32 8) (d.at 24 4) []) ∧
    (∃ (s : State) (id st : Nat) (d : Desc), offCore s id 0x42 d ∧ s.restoreCheck d = some st) ∧
    (∃ (s : State) (job tgt mask tag part table wins : Nat) (dn : List Nat) (j : Job), s.job? job = some j ∧ j.kind = .restore tgt mask tag part table wins dn ∧ s.nat (kRestoreTimeoutMs j.tag.part) ≠ 0) ∧
    (∃ (s : State) (job : Nat) (j : Job), s.job? job = some j ∧ s.nat (kRestoreTimeoutMs j.tag.part) = 0) ∧
    (∃ (s : State) (w via start len : Nat), s.nat (kWinMode w) = 1) ∧
    (∃ (s : State) (w via start len : Nat) (l : List Byte), s.nat (kWinState w) = 0 ∧ (s.win w).passed = [] ∧ start < s.winAckBytes w + s.nat (kWinBytes w) ∧ l = s.winBytes w start len) ∧
    (∃ (s : State) (w via start len : Nat) (l : List Byte), w < 32 ∧ via < 16 ∧ s.nat (kWinState w) = 1 ∧ s.nat (kWinMode w) = 0 ∧ s.win w = {} ∧ start + len ≤ s.nat (kWinConsumed w) + s.nat (kWinBytes w) ∧ l = s.winBytes w start len ∧ recordCrcOk l = true ∧ recordFormatOk l = true ∧ byteField l 16 8 = 0 ∧ byteField l 4 1 = 1) ∧
    (∃ (s : State) (st seqno : Nat), s.nat (kAckSeqno st) < seqno ∧ seqno ≤ s.nat (kNextSeqno st)) ∧
    (∃ (s : State) (st : Nat), s.jobs = [] ∧ (s.stream st).pages = [] ∧ s.nat (kCutState (s.nat (kStreamOwner st))) = 0 ∧ (∀ r ∈ (s.stream st).sent ++ (s.stream st).again, r.src = .fence) ∧ (s.stream st).sent ≠ []) ∧
    (∃ (s : State) (p : Nat), s.nat (kCutState p) = 1 ∧ (∀ w ∈ s.posted, w.part = p → s.frameNo ≤ w.frame) ∧ s.posted ≠ []) ∧
    (∃ (s : State) (j : Job), s.job? j.id = some j ∧ bitOf j.tag.done 15 = false ∧ (s.nat (kEventProd j.tag.part) + 2 ^ 32 - s.nat (kEventCons j.tag.part)) % 2 ^ 32 = s.nat (kEventSlots j.tag.part)) :=
  ⟨⟨stream0 { waiting := [waitFence] }, 0, 1, false, waitFence, [], (stream0 { waiting := [waitFence] }).formFor 0 6 1 (List.replicate 32 1) [] 5, by decide +kernel⟩,
   ⟨devReady, 0, false, by decide +kernel⟩,
   ⟨stream0 { waiting := [waitFence] }, 1, false, by decide +kernel⟩,
   ⟨devReady, 0, [], by decide +kernel⟩,
   ⟨stream255, 255, 7, 512, by decide +kernel⟩,
   ⟨(part1.setNat (kStreamOwner 0) 1).setNat (kTransport 0) 2, .pf, 0, List.replicate 32 0, acceptsLong_of (by decide +kernel), by decide +kernel⟩,
   ⟨stream255.setNat (kTransport 255) 2, .pf, 255, 7, 512, formAck 7 512 255 (stream255.nat (kStreamEpoch 255)) 0, by decide +kernel, by decide +kernel, acceptsLong_of (by decide +kernel), by decide +kernel⟩,
   ⟨stream0 { sent := [sentFence], retries := 2 }, 0, by decide +kernel⟩,
   ⟨stream0 { again := [sentFence], retries := 2 }, 0, by decide +kernel⟩,
   ⟨stream0 { sent := [sentFence], retries := 3 }, 0, by decide +kernel⟩,
   ⟨devReady, 0, by decide +kernel⟩,
   ⟨stream0 {}, 0, by decide +kernel⟩,
   ⟨withStream ((running (descOf 5 1 (rawOf [(0, 0x40), (16, 9), (20, 1)]))).setNat (kRegionSpan 1 0) 1), 5, descOf 5 1 (rawOf [(0, 0x40), (16, 9), (20, 1)]), by unfold offCore; decide +kernel⟩,
   ⟨running (descOf 5 1 (rawOf [(0, 0x40), (16, 9)])), 5, 2, descOf 5 1 (rawOf [(0, 0x40), (16, 9)]), by unfold offCore; decide +kernel⟩,
   ⟨part1.setNat (kCutState 1) 1, 1, by decide +kernel⟩,
   ⟨part1, 1, by decide +kernel⟩,
   ⟨(part1.setNat (kCutState 1) 1).setCut 1 { cutFrame := 7 }, 1, by decide +kernel⟩,
   ⟨{ part1.setNat kFrameNumber 1 with posted := [writeOf 5 (.hbm 1 0 0) 8] }, 1, writeOf 5 (.hbm 1 0 0) 8, 0, 0, by decide +kernel⟩,
   ⟨withStream (running (descOf 5 1 (rawOf [(0, 0x41), (24, 2)]))), 5, descOf 5 1 (rawOf [(0, 0x41), (24, 2)]), by unfold offCore; decide +kernel⟩,
   ⟨withStream (running (descOf 5 1 (rawOf [(0, 0x41), (24, 65537)]))), 5, 2, descOf 5 1 (rawOf [(0, 0x41), (24, 65537)]), by unfold offCore; decide +kernel⟩,
   ⟨(((running (descOf 5 1 (rawOf [(0, 0x42), (24, 1)]))).setNat (kWinOwner 0) 1).setNat (kWinState 0) 1).setNat (kWinMode 0) 1, 5, descOf 5 1 (rawOf [(0, 0x42), (24, 1)]), .restore 0 0 0 0 0 1 [], by unfold offCore; decide +kernel⟩,
   ⟨running (descOf 5 1 (rawOf [(0, 0x42), (24, 1)])), 5, 2, descOf 5 1 (rawOf [(0, 0x42), (24, 1)]), by unfold offCore; decide +kernel⟩,
   ⟨{ part1 with jobs := [restoreJob] }.setNat (kRestoreTimeoutMs 1) 10, 2, 0, 1, 0, 0, 0, 1, [], restoreJob, by decide +kernel⟩,
   ⟨{ part1 with jobs := [restoreJob] }.setNat (kRestoreTimeoutMs 1) 0, 2, restoreJob, by decide +kernel⟩,
   ⟨window31 1, 31, 0, 0, 256, by decide +kernel⟩,
   ⟨part1.setNat (kWinBytes 31) 65536, 31, 0, 0, 0, [], by decide +kernel⟩,
   ⟨window31 0, 31, 0, 0, 256, record, by decide +kernel⟩,
   ⟨stream255, 255, 7, by decide +kernel⟩,
   ⟨stream0 { sent := [sentFence], retries := 3 }, 0, by decide +kernel⟩,
   ⟨{ part1.setNat (kCutState 1) 1 with posted := [writeOf 5 (.hbm 1 0 0) 8] }, 1, by decide +kernel⟩,
   ⟨{ part1 with jobs := [restoreJob] }.setNat (kEventSlots 1) 0, restoreJob, by decide +kernel⟩⟩

theorem witness_LinkPorts :
    (∃ (s : State) (who : Requester) (n : Nat), n < 16 ∧ accepts s who .portCtrl (kPortCtrl n) 1 ∧ s.nat (kPortState n) = 0) ∧
    (∃ (s : State) (who : Requester) (n : Nat), n < 16 ∧ accepts s who .portCtrl (kPortCtrl n) 1 ∧ s.nat (kPortState n) ≠ 0) ∧
    (∃ (s : State) (who : Requester) (n : Nat), n < 16 ∧ accepts s who .portCtrl (kPortCtrl n) 0) ∧
    (∃ (s : State) (who : Requester) (n : Nat), n < 16 ∧ accepts s who .portCtrl (kPortCtrl n) 2 ∧ s.nat (kPortState n) = 3) ∧
    (∃ (s : State) (n : Nat) (lanes : Nat), n < 16 ∧ s.nat (kPortState n) = 1 ∧ lanes % 16 = 15) ∧
    (∃ (s : State) (n : Nat) (lanes : Nat), n < 16 ∧ s.nat (kPortState n) = 1 ∧ laneBits (lanes % 16) = 3) ∧
    (∃ (s : State) (n : Nat), n < 16 ∧ s.nat (kTrainMaxFr n) ≤ (s.port n).trainWin ∧ s.nat (kPortState n) = 1) ∧
    (∃ (s : State) (n : Nat), n < 16 ∧ 2 ≤ s.nat (kPortState n) ∧ s.nat (kPortState n) ≤ 4) ∧
    (∃ (s : State) (n : Nat), n < 16 ∧ s.nat (kPortState n) = 0 ∧ s.nat (kPortCtrl n) = 1 ∧ s.ready = true) ∧
    (∃ (s : State) (n : Nat) (lane : Nat), lane < 4 ∧ 2 ≤ s.nat (kPortState n) ∧ s.nat (kPortState n) ≤ 4 ∧ (s.port n).faulty = 0 ∧ s.nat (kLanesActive n) = 15) ∧
    (∃ (s : State) (n : Nat) (lane : Nat), n < 16 ∧ lane < 4 ∧ 2 ≤ s.nat (kPortState n) ∧ s.nat (kPortState n) ≤ 4 ∧ (s.port n).faulty ≠ 0 ∧ bitOf (s.port n).faulty lane = false) ∧
    (∃ (s : State) (n : Nat), n < 16 ∧ (s.port n).laneSwitch ≠ 0 ∧ (s.port n).confirmed = true ∧ (s.port n).laneSwitch ≤ s.frameNo ∧ ((s.nat (kPortState n) = 2 ∨ s.nat (kPortState n) = 3)) ∧ (s.port n).laneReq = 15) ∧
    (∃ (s : State) (n : Nat), n < 16 ∧ (s.port n).laneSwitch ≠ 0 ∧ (s.port n).confirmed = true ∧ (s.port n).laneSwitch ≤ s.frameNo ∧ ((s.nat (kPortState n) = 2 ∨ s.nat (kPortState n) = 3)) ∧ (s.port n).laneReq < 16 ∧ laneBits (s.port n).laneReq = 3) ∧
    (∃ (s : State) (n : Nat), n < 16 ∧ (s.port n).laneSwitch ≠ 0 ∧ (s.port n).confirmed = false ∧ 4 ≤ (s.port n).waited) ∧
    (∃ (s : State) (n : Nat), n < 16 ∧ s.nat (kPortState n) = 4 ∧ 16 ≤ (s.port n).good ∧ (s.port n).prev < 16) :=
  ⟨⟨port15 0, .pf, 15, by decide +kernel, accepts_of (by decide +kernel), by decide +kernel⟩,
   ⟨port0 2, .pf, 0, by decide +kernel, accepts_of (by decide +kernel), by decide +kernel⟩,
   ⟨port15 2, .pf, 15, by decide +kernel, accepts_of (by decide +kernel)⟩,
   ⟨port15 3, .pf, 15, by decide +kernel, accepts_of (by decide +kernel), by decide +kernel⟩,
   ⟨port15 1, 15, 15, by decide +kernel⟩,
   ⟨port15 1, 15, 7, by decide +kernel⟩,
   ⟨(port15 1 { trainWin := 1 }).setNat (kTrainMaxFr 15) 1, 15, by decide +kernel⟩,
   ⟨(port15 2).setNat (kLanesActive 15) 15, 15, by decide +kernel⟩,
   ⟨(port15 0).setNat (kPortCtrl 15) 1, 15, by decide +kernel⟩,
   ⟨(port15 2).setNat (kLanesActive 15) 15, 15, 3, by decide +kernel⟩,
   ⟨(port15 2 { faulty := 1 }).setNat (kLanesActive 15) 15, 15, 3, by decide +kernel⟩,
   ⟨port15 3 { laneSwitch := 7, confirmed := true, laneReq := 15 } |>.setNat kFrameNumber 7, 15, by decide +kernel⟩,
   ⟨port15 2 { laneSwitch := 7, confirmed := true, laneReq := 7 } |>.setNat kFrameNumber 7, 15, by decide +kernel⟩,
   ⟨port15 2 { laneSwitch := 7, confirmed := false, waited := 4 }, 15, by decide +kernel⟩,
   ⟨port15 4 { prev := 3, good := 16 }, 15, by decide +kernel⟩⟩

theorem witness_SlotTables :
    (∃ (s : State) (n : Nat) (slot : Nat), slot < s.slotsPerFrame ∧ (((s.port n).slotAt.1 ≠ s.tb.ticks ∨ (s.port n).slotAt.2 ≤ slot))) ∧
    (∃ (s : State) (n : Nat) (slot : Nat), (s.port n).slotAt.1 = s.tb.ticks ∧ slot < (s.port n).slotAt.2) ∧
    (∃ (s : State) (who : Requester) (n : Nat) (table : Nat) (slot : Nat) (v : Word), accepts s who (slotEntry n table slot).1 (slotEntry n table slot).2 v ∧ table % 2 ≠ s.slotBank n) ∧
    (∃ (s : State) (who : Requester) (n : Nat) (table : Nat) (slot : Nat) (v : Word), accepts s who (slotEntry n table slot).1 (slotEntry n table slot).2 v ∧ table % 2 = s.slotBank n) ∧
    (∃ (s : State) (who : Requester) (n : Nat) (v : Word), accepts s who .slotSwitchFrame (kSlotSwitchFrame n) v ∧ s.frameNo + 2 ≤ v.toNat ∧ s.banksOk n v.toNat = true) ∧
    (∃ (s : State) (who : Requester) (n : Nat) (v : Word), accepts s who .slotSwitchFrame (kSlotSwitchFrame n) v ∧ ((v.toNat < s.frameNo + 2 ∨ s.banksOk n v.toNat = false))) ∧
    (∃ (s : State) (n : Nat), n < 16 ∧ s.nat (kSlotSwitchFrame n) ≠ 0 ∧ s.nat (kSlotSwitchFrame n) ≤ s.frameNo) :=
  ⟨⟨locked (port0 2), 0, 0, by decide +kernel⟩,
   ⟨port0 2 { slotAt := (0, 1) }, 0, 0, by decide +kernel⟩,
   ⟨port15 2, .pf, 15, 3, 15, 1, accepts_of (by decide +kernel), by decide +kernel⟩,
   ⟨port15 2, .pf, 15, 2, 15, 1, accepts_of (by decide +kernel), by decide +kernel⟩,
   ⟨((port15 2).setNat (kTxSlotB 15 0) 1).setNat (kRxSlotB 15 0) 1, .pf, 15, 2, accepts_of (by decide +kernel), by decide +kernel⟩,
   ⟨((port15 2).setNat (kTxSlotB 15 0) 1).setNat (kRxSlotB 15 0) 1, .pf, 15, 1, accepts_of (by decide +kernel), by decide +kernel⟩,
   ⟨(port15 2).setNat (kSlotSwitchFrame 15) 1 |>.setNat kFrameNumber 1, 15, by decide +kernel⟩⟩

theorem witness_Arrivals :
    (∃ (s : State) (n : Nat) (b : List Byte) (a : Int), n < 16 ∧ 2 ≤ s.nat (kPortState n) ∧ s.nat (kPortState n) ≤ 3 ∧ cellOk b = true ∧ byteField b 0 1 % 16 ≠ 1 ∧ s.timing ≠ 0 ∧ s.numbered = true ∧ (s.port n).wiring = false ∧ (s.arrivalDelta n b a).natAbs ≤ 4 * s.guardEff ∧ byteField b 2 2 < s.slotsPerFrame ∧ typeSuits (byteField b 0 1 % 16) (byteField b 8 1) (s.rxEntry n (byteField b 2 2)) = true ∧ byteField b 4 2 < slotLimit (s.rxEntry n (byteField b 2 2)) (s.portC n)) ∧
    (∃ (s : State) (n w : Nat) (b : List Byte) (a : Int), n < 16 ∧ 2 ≤ s.nat (kPortState n) ∧ s.nat (kPortState n) ≤ 3 ∧ cellOk b = true ∧ byteField b 0 1 % 16 = 4 ∧ s.timing ≠ 0 ∧ s.numbered = true ∧ (s.port n).wiring = false ∧ (s.arrivalDelta n b a).natAbs ≤ 4 * s.guardEff ∧ byteField b 2 2 < s.slotsPerFrame ∧ slotClass (s.rxEntry n (byteField b 2 2)) = 3 ∧ byteField b 4 2 < slotLimit (s.rxEntry n (byteField b 2 2)) (s.portC n) ∧ w = byteField b 8 1 % 32 ∧ s.nat (kWinState w) = 0 ∧ s.win w = {} ∧ byteField b 10 4 < 2 ^ 31) ∧
    (∃ (s : State) (n : Nat) (b : List Byte) (a : Int), n < 16 ∧ 2 ≤ s.nat (kPortState n) ∧ s.nat (kPortState n) ≤ 3 ∧ cellOk b = true ∧ 4 ≤ byteField b 0 1 % 16 ∧ s.timing ≠ 0 ∧ s.numbered = true ∧ s.nat (kViolRun n) < 7 ∧ (4 * s.guardEff < (s.arrivalDelta n b a).natAbs ∨ s.slotsPerFrame ≤ byteField b 2 2 ∨ typeSuits (byteField b 0 1 % 16) (byteField b 8 1) (s.rxEntry n (byteField b 2 2)) = false ∨ slotLimit (s.rxEntry n (byteField b 2 2)) (s.portC n) ≤ byteField b 4 2)) ∧
    (∃ (s : State) (n : Nat) (b : List Byte) (a : Int), n < 16 ∧ 2 ≤ s.nat (kPortState n) ∧ s.nat (kPortState n) ≤ 3 ∧ cellOk b = true ∧ 4 ≤ byteField b 0 1 % 16 ∧ s.timing ≠ 0 ∧ s.numbered = true ∧ s.nat (kViolRun n) < 7 ∧ (4 * s.guardEff < (s.arrivalDelta n b a).natAbs ∨ s.slotsPerFrame ≤ byteField b 2 2 ∨ typeSuits (byteField b 0 1 % 16) (byteField b 8 1) (s.rxEntry n (byteField b 2 2)) = false ∨ slotLimit (s.rxEntry n (byteField b 2 2)) (s.portC n) ≤ byteField b 4 2)) ∧
    (∃ (s : State) (n : Nat) (b : List Byte) (a : Int), n < 16 ∧ 2 ≤ s.nat (kPortState n) ∧ s.nat (kPortState n) ≤ 3 ∧ cellOk b = true ∧ 4 ≤ byteField b 0 1 % 16 ∧ s.timing ≠ 0 ∧ s.numbered = true ∧ s.nat (kViolRun n) = 7 ∧ 4 * s.guardEff < (s.arrivalDelta n b a).natAbs) ∧
    (∃ (s : State) (n : Nat) (b : List Byte) (a : Int), n < 16 ∧ 2 ≤ s.nat (kPortState n) ∧ s.nat (kPortState n) ≤ 4 ∧ cellOk b = true ∧ byteField b 0 1 % 16 ≠ 1 ∧ (s.timing = 0 ∨ s.numbered = false)) ∧
    (∃ (s : State) (n : Nat) (b : List Byte) (a : Int), n < 16 ∧ 2 ≤ s.nat (kPortState n) ∧ s.nat (kPortState n) ≤ 4 ∧ cellOk b = true ∧ byteField b 0 1 % 16 ≠ 1 ∧ (s.timing = 0 ∨ s.numbered = false)) ∧
    (∃ (s : State) (n : Nat) (b : List Byte) (a : Int), n < 16 ∧ s.nat (kPortState n) = 5 ∧ cellOk b = true ∧ byteField b 0 1 % 16 ≠ 1 ∧ byteField b 0 1 % 16 ≠ 6) ∧
    (∃ (s : State) (n : Nat) (b : List Byte) (a : Int), n < 16 ∧ 2 ≤ s.nat (kPortState n) ∧ s.nat (kPortState n) ≤ 5 ∧ cellOk b = false ∧ slotClass (s.rxEntry n (byteField b 2 2 % 1024)) = 3) ∧
    (∃ (s : State) (n : Nat) (b : List Byte) (a δ : Int), n < 16 ∧ 2 ≤ s.nat (kPortState n) ∧ s.nat (kPortState n) ≤ 3 ∧ cellOk b = true ∧ byteField b 0 1 % 16 = 1 ∧ s.timing ≠ 0 ∧ s.numbered = true ∧ δ = s.arrivalDelta n b a ∧ δ.natAbs ≤ 4 * s.guardEff ∧ δ.natAbs < 2 ^ 31) ∧
    (∃ (s : State) (n : Nat) (b : List Byte) (a : Int), n < 16 ∧ 1 ≤ s.nat (kPortState n) ∧ s.nat (kPortState n) ≤ 5 ∧ cellOk b = true ∧ byteField b 0 1 % 16 = 1 ∧ s.timing = 0) ∧
    (∃ (s : State) (n : Nat) (b : List Byte) (a : Int), n < 16 ∧ 1 ≤ s.nat (kPortState n) ∧ s.nat (kPortState n) ≤ 5 ∧ cellOk b = true ∧ byteField b 0 1 % 16 = 1 ∧ s.timing = 0) ∧
    (∃ (s : State) (n : Nat) (b : List Byte) (a : Int), (byteField b 0 1 % 16 ≠ 1 ∨ s.nat (kPortState n) = 0)) ∧
    (∃ (s : State) (n : Nat) (b : List Byte) (a : Int), (byteField b 0 1 % 16 ≠ 1 ∨ s.nat (kPortState n) = 0)) ∧
    (∃ (s : State) (n : Nat), s.tb.selected = 3 + n ∧ 2 ≤ s.nat (kPortState n)) :=
  ⟨⟨receiving, 0, memCell, lateBy receiving memCell (4 * receiving.guardEff), by decide +kernel⟩,
   ⟨receiving, 0, 0, memCell, lateBy receiving memCell (-(4 * receiving.guardEff : Nat)), by decide +kernel⟩,
   ⟨receiving, 0, memCell, lateBy receiving memCell (4 * receiving.guardEff + 1), by decide +kernel⟩,
   ⟨receiving, 0, cellOf [0x14, 0, 2, 0, 0, 0, 100], lateBy receiving (cellOf [0x14, 0, 2, 0, 0, 0, 100]) 0, by decide +kernel⟩,
   ⟨receiving.setNat (kViolRun 0) 7, 0, memCell, lateBy receiving memCell (4 * receiving.guardEff + 1), by decide +kernel⟩,
   ⟨port0 2, 0, memCell, 0, by decide +kernel⟩,
   ⟨port0 4, 0, memCell, 0, by decide +kernel⟩,
   ⟨port0 5, 0, memCell, 0, by decide +kernel⟩,
   ⟨receiving, 0, memCell.take 271, 0, by decide +kernel⟩,
   ⟨receiving, 0, marker, lateBy receiving marker 7, receiving.arrivalDelta 0 marker (lateBy receiving marker 7), by decide +kernel⟩,
   ⟨port0 5, 0, marker, 0, by decide +kernel⟩,
   ⟨port0 2, 0, marker, 0, by decide +kernel⟩,
   ⟨port0 2, 0, memCell, 0, by decide +kernel⟩,
   ⟨port0 0, 0, marker, 0, by decide +kernel⟩,
   ⟨{ receiving with tb := { receiving.tb with selected := 3 } }, 0, by decide +kernel⟩⟩

theorem witness_EthernetPorts :
    (∃ (s : State) (e : Nat) (q : Nat), e < 4 ∧ s.qpOn q e = false) ∧
    (∃ (e : Nat), e < 4) ∧
    (∃ (s : State) (e : Nat) (q : Nat), e < 4 ∧ s.qpOn q e = true) ∧
    (∃ (s : State) (e : Nat) (q : Nat), e < 4 ∧ s.qpOn q e = true ∧ (s.qp q).retries < 7) ∧
    (∃ (s : State) (e : Nat) (q : Nat) (va : Nat) (rkey : Nat) (off : Nat) (l : List Byte), e < 4 ∧ s.qpOn q e = true ∧ s.ackPlace q va rkey l = some off) ∧
    (∃ (s : State) (q : Nat), q < 256 ∧ s.nat (kQpState q) = 1 ∧ (s.qp q).sent ≠ [] ∧ ((∀ st, st < 256 → s.nat (kTransport st) ≠ 1))) :=
  ⟨⟨devReady, 0, 300, by decide +kernel⟩,
   ⟨3, by decide +kernel⟩,
   ⟨(part1.setNat (kQpState 255) 1 |>.setNat (kQpPort 255) 3).setQp 255 { sent := [⟨7,1,0,0,[]⟩] }, 3, 255, by decide +kernel⟩,
   ⟨(part1.setNat (kQpState 255) 1 |>.setNat (kQpPort 255) 3).setQp 255 { retries := 6 }, 3, 255, by decide +kernel⟩,
   ⟨(part1.setNat (kQpState 255) 1 |>.setNat (kQpPort 255) 3 |>.setNat (kTransport 2) 1 |>.setNat (kStreamDest 2) 255), 3, 255, ((part1.setNat (kQpState 255) 1 |>.setNat (kQpPort 255) 3 |>.setNat (kTransport 2) 1 |>.setNat (kStreamDest 2) 255)).nat kRoceAckVa + 64, 0, 64, List.replicate 32 1, by decide +kernel⟩,
   ⟨part1.setNat (kQpState 255) 1 |>.setQp 255 { sent := [⟨7,1,0,0,[]⟩] }, 255, by decide +kernel⟩⟩

theorem witness_Collectives :
    (∃ (s : State) (id op w tick : Nat) (d : Desc) (c : Instr), (op, c) ∈ [(0, Instr.reduceScatter id), (1, .allGather id), (2, .allReduce id), (3, .broadcast id), (4, .allToAll id)] ∧ isColl s id op d ∧ s.collDue d.cGroup id = true ∧ (s.coll d.cGroup).queue.head? = some (id, w, tick) ∧ (s.coll d.cGroup).early = [] ∧ bufferOk s d d.cSrc ∧ bufferOk s d d.cDst ∧ s.flips = []) ∧
    (∃ (s : State) (id op : Nat) (d : Desc) (c : Instr), (op, c) ∈ [(0, Instr.reduceScatter id), (1, .allGather id), (2, .allReduce id), (3, .broadcast id), (4, .allToAll id)] ∧ isColl s id op d ∧ s.collDue d.cGroup id = false) ∧
    (∃ (s : State) (id w frame pos : Nat) (rest : List (Nat × Nat × Nat × Nat)) (d : Desc), isColl s id 5 d ∧ (s.coll d.cGroup).rhzWait = (id, w, frame, pos) :: rest ∧ (s.coll d.cGroup).rhzEarly = [] ∧ (s.coll d.cGroup).rhzBad = [] ∧ s.flips = [] ∧ s.oversize d.cGroup 1 ((s.members w).peers ((s.members w).nx == 1) ++ (if 1 < (s.members w).nx ∧ 1 < (s.members w).ny then (s.members w).ys else [])) = false ∧ bufferOk s d d.cSrc ∧ bufferOk s d d.cDst) ∧
    (∃ (s : State) (g : Nat) (r : CollRun) (d : Desc) (st : Stage) (x : Nat × Nat), s.serving g = some (r, d, some st) ∧ st.kind ≠ .cross ∧ r.due = none ∧ r.begin_ ≤ s.tb.ticks ∧ r.lastExch ≠ some s.tb.ticks ∧ d.sendsTo (s.members r.gdef) st = [x] ∧ numAt r.formed x.2 < st.cells ∧ s.oversize g 2 ((s.members r.gdef).peers st.axisY) = false) ∧
    (∃ (s : State) (g e : Nat) (r : CollRun) (d : Desc) (st : Stage), s.serving g = some (r, d, some st) ∧ st.kind ≠ .rs ∧ r.stageEnd = some e ∧ r.due = none ∧ e < s.tb.ticks ∧ r.stage + 1 = (s.stages r.gdef d).length) ∧
    (∃ (s : State) (g due : Nat) (r : CollRun) (d : Desc) (st : Option Stage), g < 32 ∧ s.serving g = some (r, d, st) ∧ r.due = some due ∧ due ≤ s.tb.ticks ∧ d.ended = false ∧ (s.coll g).rhz = [] ∧ s.tb.ticks ≤ r.planned ∧ r.sat = false) ∧
    (∃ (s : State) (g : Nat) (r : CollRun) (d : Desc) (st : Stage), s.serving g = some (r, d, some st) ∧ s.slackRuns g r d st = true ∧ s.sentFrame g r st < s.tb.ticks ∧ s.nat kCollSlackFr ≤ r.slack ∧ (s.coll g).rhz = []) ∧
    (∃ (s : State) (g : Nat) (r : RhzRun) (d : Desc), (s.coll g).rhz.find? (fun r => !r.fin && s.rhzMissing r == []) = some r ∧ s.desc? r.desc = some d) ∧
    (∃ (s : State) (g : Nat) (r : RhzRun) (d : Desc), (s.coll g).rhz.find? (fun r => !r.fin && s.rhzMissing r == []) = some r ∧ s.desc? r.desc = some d) ∧
    (∃ (s : State) (g : Nat) (r : CollRun) (d : Desc) (st : Stage), s.serving g = some (r, d, some st) ∧ st.kind = .cross ∧ r.begin_ + gXwait r.gdef ≤ s.tb.ticks ∧ 2 * (gPlanes r.gdef - 1) ≤ r.xStep ∧ r.stage + 1 = (s.stages r.gdef d).length ∧ bufferOk s d d.cDst) ∧
    (∃ (s : State) (g : Nat) (r : CollRun) (d : Desc) (st : Stage), s.serving g = some (r, d, some st) ∧ st.kind = .cross ∧ r.begin_ + gXwait r.gdef ≤ s.tb.ticks ∧ r.xStep < 2 * (gPlanes r.gdef - 1)) :=
  ⟨⟨inFlight (collState 0) [collDesc 0 1], 5, 0, 65, 0, collDesc 0 1, .reduceScatter 5, by decide +kernel, by unfold isColl; decide +kernel, by decide +kernel, by decide +kernel, by decide +kernel, bufferOk_of ⟨false, 0, 0, 0⟩ (by decide +kernel) rfl (by decide +kernel) (by decide +kernel), bufferOk_of ⟨false, 0, 0, 0x1000⟩ (by decide +kernel) rfl (by decide +kernel) (by decide +kernel), by decide +kernel⟩,
   ⟨{ collState 1 with colls := [] }, 5, 1, collDesc 1, .allGather 5, by decide +kernel, by unfold isColl; decide +kernel, by decide +kernel⟩,
   ⟨{ inFlight (collState 5) [collDesc 5 1] with colls := [(0, { rhzWait := [(5, 65, 3, 0)] })] }, 5, 65, 3, 0, [], collDesc 5 1, by unfold isColl; decide +kernel, by decide +kernel, by decide +kernel, by decide +kernel, by decide +kernel, by decide +kernel, bufferOk_of ⟨false, 0, 0, 0⟩ (by decide +kernel) rfl (by decide +kernel) (by decide +kernel), bufferOk_of ⟨false, 0, 0, 0x1000⟩ (by decide +kernel) rfl (by decide +kernel) (by decide +kernel)⟩,
   ⟨collServed 1 (collRun 2) 1, 0, collRun 2, collDesc 1, firstStage, (1, 0), by decide +kernel⟩,
   ⟨collServed 1 { collRun with stageEnd := some 2 } 3, 0, 2, { collRun with stageEnd := some 2 }, collDesc 1, firstStage, by decide +kernel⟩,
   ⟨collServed 1 { collRun with stageEnd := some 2, due := some 5 } 5, 0, 5, { collRun with stageEnd := some 2, due := some 5 }, collDesc 1, some firstStage, by decide +kernel⟩,
   ⟨{ collServed 1 { collRun with formed := [(0, 1)], slack := 16 } 5 with tb := { (collServed 1 { collRun with formed := [(0, 1)], slack := 16 } 5).tb with muted := false } }, 0, { collRun with formed := [(0, 1)], slack := 16 }, collDesc 1, firstStage, by decide +kernel⟩,
   ⟨rhzServed none, 0, rhzRun none, collDesc 5 1, by decide +kernel⟩,
   ⟨rhzServed (some [1, 0, 0, 0]), 0, rhzRun (some [1, 0, 0, 0]), collDesc 5 1, by decide +kernel⟩,
   ⟨crossServed 2, 0, crossRun 2, crossDesc, ⟨.cross, false, 0, 0⟩, by decide +kernel, by decide +kernel, by decide +kernel, by decide +kernel, by decide +kernel, bufferOk_of ⟨false, 0, 0, 0x1000⟩ (by decide +kernel) rfl (by decide +kernel) (by decide +kernel)⟩,
   ⟨crossServed 1, 0, crossRun 1, crossDesc, ⟨.cross, false, 0, 0⟩, by decide +kernel⟩⟩

theorem witness_GroupsAndPlanes :
    (∃ (s : State) (who : Requester) (g : Nat) (v : Word), accepts s who .groupDef (kGroupDef g) v ∧ s.groupState g ≠ 2 ∧ gKind v.toNat ≠ 3 ∧ gPlanes v.toNat = 1) ∧
    (∃ (s : State) (who : Requester) (g : Nat) (v : Word), accepts s who .groupDef (kGroupDef g) v ∧ ((s.groupState g = 2 ∨ (gKind v.toNat = 3 ∧ s.dimX < 2 ^ bitsOf v.toNat 3 2)))) ∧
    (∃ (s : State) (who : Requester) (sub : Nat) (v : Word), accepts s who (planeEnt sub) (planeSlot sub) v ∧ ((∀ g, g < 32 → gKind (s.nat (kGroupDef g)) = 0)) ∧ (s.setReg (planeSlot sub) v).nat kPlaneX < (s.setReg (planeSlot sub) v).dimX ∧ (s.setReg (planeSlot sub) v).nat kPlaneY < (s.setReg (planeSlot sub) v).dimY) ∧
    (∃ (s : State) (who : Requester) (sub : Nat) (g : Nat) (v : Word), accepts s who (planeEnt sub) (planeSlot sub) v ∧ g < 32 ∧ gKind (s.nat (kGroupDef g)) ≠ 0) :=
  ⟨⟨devReady, .pf, 31, 2 ^ 30, accepts_of (by decide +kernel), by decide +kernel⟩,
   ⟨{ devReady.setNat (kGroupDef 31) 1 with colls := [(31, { queue := [(5,0,0)] })] }, .pf, 31, 2 ^ 30, accepts_of (by decide +kernel), by decide +kernel⟩,
   ⟨devReady, .pf, 0x33, 0, accepts_of (by decide +kernel), by decide +kernel⟩,
   ⟨devReady.setNat (kGroupDef 31) 3, .pf, 0x30, 31, 0, accepts_of (by decide +kernel), by decide +kernel⟩⟩

theorem witness_PartitionLife :
    (∃ (s : State) (who : Requester) (p : Nat), p < 64 ∧ accepts s who .partCtrl (kPartCtrl p) 1 ∧ s.partState p = 0) ∧
    (∃ (s : State) (who : Requester) (p : Nat), accepts s who .partCtrl (kPartCtrl p) 1 ∧ s.partState p ≠ 0) ∧
    (∃ (s : State) (who : Requester) (p : Nat), p < 64 ∧ p ≠ 0 ∧ accepts s who .partCtrl (kPartCtrl p) 2 ∧ s.partState p = 1) ∧
    (∃ (s : State) (who : Requester) (p : Nat), accepts s who .partCtrl (kPartCtrl p) 2 ∧ ((p = 0 ∨ s.partState p = 0))) ∧
    (∃ (s : State) (who : Requester) (p : Nat), p < 64 ∧ accepts s who .partCtrl (kPartCtrl p) 3 ∧ s.partState p = 1 ∧ s.partRun p = 1 ∧ s.runahead = []) ∧
    (∃ (s : State) (who : Requester) (p : Nat), accepts s who .partCtrl (kPartCtrl p) 3 ∧ s.partState p ≠ 0 ∧ ((s.partState p ≠ 1 ∨ s.partRun p ≠ 1))) ∧
    (∃ (s : State) (who : Requester) (p : Nat), accepts s who .partCtrl (kPartCtrl p) 4 ∧ s.partState p = 1 ∧ s.partRun p = 0 ∧ ((s.nat (kHaltCause p) = 1 ∨ s.nat (kHaltCause p) = 2 ∨ s.nat (kHaltCause p) = 4)) ∧ s.nat kStopState = 0 ∧ s.poolEmptying p = false) ∧
    (∃ (s : State) (who : Requester) (p : Nat), accepts s who .partCtrl (kPartCtrl p) 4 ∧ ((s.nat kStopState ≠ 0 ∨ s.partRun p ≠ 0 ∨ s.nat (kHaltCause p) = 3))) ∧
    (∃ (s : State) (who : Requester) (p : Nat), accepts s who .partCtrl (kPartCtrl p) 5 ∧ s.partState p = 1 ∧ s.partRun p ≠ 3) ∧
    (∃ (s : State) (p : Nat), p < 64 ∧ s.partRun p = 2 ∧ s.partDescs p = [] ∧ s.recov = []) :=
  ⟨⟨devReady, .pf, 63, by decide +kernel, accepts_of (by decide +kernel), by decide +kernel⟩,
   ⟨part1, .pf, 1, accepts_of (by decide +kernel), by decide +kernel⟩,
   ⟨part1, .pf, 1, by decide +kernel, by decide +kernel, accepts_of (by decide +kernel), by decide +kernel⟩,
   ⟨devReady, .pf, 0, accepts_of (by decide +kernel), by decide +kernel⟩,
   ⟨part1, .pf, 1, by decide +kernel, accepts_of (by decide +kernel), by decide +kernel⟩,
   ⟨part1Halted, .pf, 1, accepts_of (by decide +kernel), by decide +kernel⟩,
   ⟨part1Halted.setNat (kHaltCause 1) 4, .pf, 1, accepts_of (by decide +kernel), by decide +kernel⟩,
   ⟨part1Halted.setNat (kHaltCause 1) 3, .pf, 1, accepts_of (by decide +kernel), by decide +kernel⟩,
   ⟨part1, .pf, 1, accepts_of (by decide +kernel), by decide +kernel⟩,
   ⟨part1.setNat (kPartRun 1) 2, 1, by decide +kernel⟩⟩

theorem witness_ContextsAndRings :
    (∃ (s : State) (who : Requester) (c : Nat) (p : Nat), c < 1024 ∧ p < 64 ∧ accepts s who .ctxCtrl (kCtxCtrl c) (wd (1 + p * 256)) ∧ s.partState p = 1 ∧ s.partRun p ≠ 3 ∧ s.ctxLife c = 0 ∧ (s.ctxsOf p).length < s.nat (kCtxQuota p)) ∧
    (∃ (s : State) (who : Requester) (c : Nat) (p : Nat), p < 64 ∧ accepts s who .ctxCtrl (kCtxCtrl c) (wd (1 + p * 256)) ∧ s.partState p = 1 ∧ s.partRun p ≠ 3 ∧ s.ctxLife c = 0 ∧ s.nat (kCtxQuota p) ≤ (s.ctxsOf p).length) ∧
    (∃ (s : State) (who : Requester) (c : Nat), accepts s who .ctxCtrl (kCtxCtrl c) 2 ∧ s.ctxLife c = 1) ∧
    (∃ (s : State) (who : Requester) (c : Nat), accepts s who .ctxCtrl (kCtxCtrl c) 2 ∧ s.ctxLife c = 2) ∧
    (∃ (s : State) (who : Requester) (r : Nat), r < 96 ∧ accepts s who .ringCtrl (kRingCtrl r) 1 ∧ s.ringLife r = 0 ∧ s.ctxLife (s.nat (kRingCtx r)) = 1 ∧ s.ringLayoutOk r = true ∧ (s.ringsWhere fun c => s.ctxPart c == s.ringPart r).length < s.nat (kRingQuota (s.ringPart r))) ∧
    (∃ (s : State) (who : Requester) (r : Nat), accepts s who .ringCtrl (kRingCtrl r) 1 ∧ s.ringLife r ≠ 0) ∧
    (∃ (s : State) (who : Requester) (r : Nat), accepts s who .ringCtrl (kRingCtrl r) 4 ∧ s.ringLife r ≠ 0 ∧ (s.ring r).stop ≠ .abort) ∧
    (∃ (s : State) (r : Nat), r < 128 ∧ s.ringLife r = 2 ∧ (s.ring r).stop = .drain ∧ s.ringDescs r = []) ∧
    (∃ (s : State) (job : Nat) (j : AbortJob), s.aborts.find? (fun j => j.id == job) = some j ∧ (s.inflight.any fun d => j.rings.contains d.ring) = false ∧ ((∀ b, j.kind ≠ .part b))) ∧
    (∃ (s : State) (job : Nat) (j : AbortJob) (d : Desc), s.aborts.find? (fun j => j.id == job) = some j ∧ d ∈ s.inflight ∧ j.rings.contains d.ring = true) ∧
    (∃ (s : State) (who : Requester) (r : Nat), accepts s who .ringCtrl (kRingCtrl r) 2 ∧ s.ringLife r = 1 ∧ s.nat (kRingEnabled r) = 0) ∧
    (∃ (s : State) (who : Requester) (r : Nat), accepts s who .ringCtrl (kRingCtrl r) 3 ∧ s.ringLife r = 1 ∧ s.nat (kRingEnabled r) = 1 ∧ s.runahead = []) ∧
    (∃ (s : State) (who : Requester) (r : Nat), accepts s who .ringCtrl (kRingCtrl r) 2 ∧ s.ringLife r = 0) :=
  ⟨⟨part1.setNat (kCtxQuota 1) 2, .pf, 1023, 1, by decide +kernel, by decide +kernel, accepts_of (by decide +kernel), by decide +kernel⟩,
   ⟨part1.setNat (kCtxQuota 1) 1, .pf, 1023, 1, by decide +kernel, accepts_of (by decide +kernel), by decide +kernel⟩,
   ⟨part1, .pf, 5, accepts_of (by decide +kernel), by decide +kernel⟩,
   ⟨part1.setNat (kCtxState 5) (2 + 256), .pf, 5, accepts_of (by decide +kernel), by decide +kernel⟩,
   ⟨part1Mapped.setNat (kRingCtx 95) 5 |>.setNat (kRingQuota 1) 2 |>.setNat (kRingEntries 95) 64 |>.setNat (kCqSlots 95) 64 |>.setNat (kRingBase 95) 4096 |>.setNat (kCqBase 95) 8192, .pf, 95, by decide +kernel, accepts_of (by decide +kernel), by decide +kernel⟩,
   ⟨part1, .pf, 3, accepts_of (by decide +kernel), by decide +kernel⟩,
   ⟨part1, .pf, 3, accepts_of (by decide +kernel), by decide +kernel⟩,
   ⟨(part1.setNat (kRingState 3) 2).setRing 3 { stop := .drain }, 3, by decide +kernel⟩,
   ⟨{ part1 with aborts := [(⟨1, .ring 3, 1, [3], [], [], true⟩)] }, 1, ⟨1, .ring 3, 1, [3], [], [], true⟩, by decide +kernel, by decide +kernel, fun b hb => by cases hb⟩,
   ⟨{ part1 with aborts := [(⟨1, .ring 3, 1, [3], [], [], true⟩)], inflight := [(descOf 5 1 0)] }, 1, ⟨1, .ring 3, 1, [3], [], [], true⟩, descOf 5 1 0, by decide +kernel⟩,
   ⟨part1, .pf, 3, accepts_of (by decide +kernel), by decide +kernel⟩,
   ⟨part1.setNat (kRingEnabled 3) 1, .pf, 3, accepts_of (by decide +kernel), by decide +kernel⟩,
   ⟨(part1.setNat (kRingCtx 4) 5), .pf, 4, accepts_of (by decide +kernel), by decide +kernel⟩⟩

theorem witness_EnableWhileQuiescing :
    (∃ (s : State) (who : Requester) (r : Nat), accepts s who .ringCtrl (kRingCtrl r) 2 ∧ s.ringLife r = 2) ∧
    (∃ (s : State) (who : Requester) (r : Nat), accepts s who .ringCtrl (kRingCtrl r) 3 ∧ s.ringLife r = 2) :=
  ⟨⟨part1.setNat (kRingState 3) 2, .pf, 3, accepts_of (by decide +kernel), by decide +kernel⟩,
   ⟨part1.setNat (kRingState 3) 2, .pf, 3, accepts_of (by decide +kernel), by decide +kernel⟩⟩

theorem witness_Fences :
    (∃ (s : State) (who : Requester) (f : Nat) (c : Nat), f < 4096 ∧ c < 1024 ∧ accepts s who .fenceCtrl (kFenceCtrl f) (wd (1 + c * 2 ^ 16)) ∧ s.fenceLife f = 0 ∧ s.ctxLife c = 1 ∧ (s.fencesWhere fun g => s.ctxPart g == s.ctxPart c).length < s.nat (kFenceQuota (s.ctxPart c))) ∧
    (∃ (s : State) (who : Requester) (f : Nat), accepts s who .fenceCtrl (kFenceCtrl f) 2 ∧ s.fenceLife f = 1) ∧
    (∃ (s : State) (who : Requester) (f : Nat), accepts s who .fenceCtrl (kFenceCtrl f) 3 ∧ s.fenceLife f = 1) ∧
    (∃ (s : State) (who : Requester) (f : Nat), accepts s who .fenceCtrl (kFenceCtrl f) 4 ∧ s.mayReset f = true) ∧
    (∃ (s : State) (who : Requester) (f : Nat), accepts s who .fenceCtrl (kFenceCtrl f) 4 ∧ s.mayReset f = false) ∧
    (∃ (s : State) (who : Requester) (f : Nat) (v : Word), accepts s who .fenceSubs (kFenceSubs f) v ∧ s.fenceLife f = 1 ∧ ((∀ i, i < 4 → bitsOf v.toNat (8 * i + 7) (8 * i) < 255 → s.nat (kStreamOwner (bitsOf v.toNat (8 * i + 7) (8 * i))) = s.fencePart f))) ∧
    (∃ (s : State) (who : Requester) (f : Nat) (v : Word), accepts s who .fenceHandle (kFenceHandle f) v ∧ s.fenceLife f = 0) ∧
    (∃ (s : State) (fn : Nat) (f : Nat) (gen : Nat), s.bar0Ok fn = true ∧ s.fencePageOk fn f gen = true) ∧
    (∃ (s : State) (fn : Nat) (f : Nat) (gen : Nat), s.bar0Ok fn = true ∧ s.fencePageOk fn f gen = false) ∧
    (∃ (s : State) (fn : Nat) (f : Nat) (gen : Nat), s.bar0Ok fn = true ∧ s.fencePageOk fn f gen = true ∧ s.mayReset f = true) ∧
    (∃ (s : State) (f : Nat), s.fenceLife f = 1 ∧ bitOf (s.fence f).toNat 5 = false ∧ s.fenceValue f = 0) ∧
    (∃ (s : State) (f : Nat), s.fenceLife f = 1 ∧ bitOf (s.fence f).toNat 5 = false ∧ s.fenceValue f ≠ 0) ∧
    (∃ (s : State) (f : Nat), s.fenceLife f ≠ 0) :=
  ⟨⟨part1.setNat (kFenceQuota 1) 1, .pf, 4095, 5, by decide +kernel, by decide +kernel, accepts_of (by decide +kernel), by decide +kernel⟩,
   ⟨part1.setNat (kFenceState 7) (1 + 5 * 65536), .pf, 7, accepts_of (by decide +kernel), by decide +kernel⟩,
   ⟨part1.setNat (kFenceState 7) (1 + 5 * 65536), .pf, 7, accepts_of (by decide +kernel), by decide +kernel⟩,
   ⟨part1.setNat (kFenceState 7) (1 + 4 + 5 * 65536), .pf, 7, accepts_of (by decide +kernel), by decide +kernel⟩,
   ⟨part1.setNat (kFenceState 7) (2 + 5 * 65536), .pf, 7, accepts_of (by decide +kernel), by decide +kernel⟩,
   ⟨(part1.setNat (kFenceState 7) (1 + 5 * 65536)).setNat (kStreamOwner 2) 1, .pf, 7, 0xFFFFFF02, accepts_of (by decide +kernel), by decide +kernel⟩,
   ⟨part1, .pf, 7, 9, accepts_of (by decide +kernel), by decide +kernel⟩,
   ⟨part1.setNat (kFenceState 7) (1 + 5 * 65536), 1, 7, 0, by decide +kernel⟩,
   ⟨part1.setNat (kFenceState 7) (1 + 5 * 65536), 1, 7, 1, by decide +kernel⟩,
   ⟨part1.setNat (kFenceState 7) (1 + 4 + 5 * 65536), 1, 7, 0, by decide +kernel⟩,
   ⟨part1.setNat (kFenceState 7) (1 + 5 * 65536), 7, by decide +kernel⟩,
   ⟨part1.setNat (kFenceState 7) (1 + 4 + 5 * 65536), 7, by decide +kernel⟩,
   ⟨part1.setNat (kFenceState 7) (1 + 5 * 65536), 7, by decide +kernel⟩⟩

theorem witness_RefusalsAndTests :
    (∃ s : State, ∃ who : Requester, ∃ r : Reason, ∃ idx : Nat, ∃ sub : Nat, ∃ j : Nat, ∃ t, j < 256 ∧ t = s.refuse who r idx sub) ∧
    (∃ s : State, ∃ who : Requester, ∃ other : Requester, ∃ r : Reason, ∃ idx : Nat, ∃ sub : Nat, ∃ j : Nat, ∃ t, j < 256 ∧ t = s.refuse who r idx sub ∧ ((areaOf other ≠ areaOf who ∨ (j ≠ 0x42 ∧ j ≠ 0x44)))) ∧
    (∃ s : State, ∃ who : Requester, ∃ j : Nat, ∃ t, j < 256 ∧ t = s.applied who) ∧
    (∃ s : State, ∃ who : Requester, ∃ other : Requester, ∃ j : Nat, ∃ t, j < 256 ∧ t = s.applied who ∧ ((areaOf other ≠ areaOf who ∨ j ≠ 0x45))) ∧
    (∃ (idx : Nat) (sub : Nat), findEntry idx sub = none) ∧
    (∃ s : State, ∃ who : Requester, ∃ idx : Nat, ∃ sub : Nat, ∃ l, findEntry idx sub = some l ∧ s.dieUp = true ∧ s.ready = false ∧ reducedEntry idx sub = false ∧ who ≠ .marionette) ∧
    (∃ s : State, ∃ who : Requester, ∃ idx : Nat, ∃ sub : Nat, ∃ v : Word, ∃ l, ∃ reach, findEntry idx sub = some l ∧ ((s.dieUp = false ∨ s.ready = true ∨ reducedEntry idx sub = true ∨ who = .marionette)) ∧ reach = (s.mayWrite who l (some v.toNat) || (l.row.acc == .ro && s.mayRead who l)) ∧ reach = false) ∧
    (∃ s : State, ∃ who : Requester, ∃ idx : Nat, ∃ sub : Nat, ∃ v : Word, ∃ l, ∃ reach, findEntry idx sub = some l ∧ ((s.dieUp = false ∨ s.ready = true ∨ reducedEntry idx sub = true ∨ who = .marionette)) ∧ reach = (s.mayWrite who l (some v.toNat) || (l.row.acc == .ro && s.mayRead who l)) ∧ reach = true ∧ l.row.ty.long = true) ∧
    (∃ s : State, ∃ who : Requester, ∃ idx : Nat, ∃ sub : Nat, ∃ v : Word, ∃ l, ∃ reach, findEntry idx sub = some l ∧ ((s.dieUp = false ∨ s.ready = true ∨ reducedEntry idx sub = true ∨ who = .marionette)) ∧ reach = (s.mayWrite who l (some v.toNat) || (l.row.acc == .ro && s.mayRead who l)) ∧ reach = true ∧ l.row.ty.long = false ∧ l.row.acc = .ro) ∧
    (∃ s : State, ∃ who : Requester, ∃ idx : Nat, ∃ sub : Nat, ∃ v : Word, ∃ l, ∃ reach, findEntry idx sub = some l ∧ ((s.dieUp = false ∨ s.ready = true ∨ reducedEntry idx sub = true ∨ who = .marionette)) ∧ reach = (s.mayWrite who l (some v.toNat) || (l.row.acc == .ro && s.mayRead who l)) ∧ reach = true ∧ l.row.ty.long = false ∧ l.row.acc ≠ .ro ∧ ((typeOk l.row.ty v.toNat = false ∨ entLegal l.row.ent v.toNat = false))) ∧
    (∃ s : State, ∃ who : Requester, ∃ idx : Nat, ∃ sub : Nat, ∃ v : Word, ∃ l, ∃ reach, findEntry idx sub = some l ∧ ((s.dieUp = false ∨ s.ready = true ∨ reducedEntry idx sub = true ∨ who = .marionette)) ∧ reach = (s.mayWrite who l (some v.toNat) || (l.row.acc == .ro && s.mayRead who l)) ∧ reach = true ∧ l.row.ty.long = false ∧ l.row.acc ≠ .ro ∧ typeOk l.row.ty v.toNat = true ∧ entLegal l.row.ent v.toNat = true ∧ s.rwhOk l (some v.toNat) = false) :=
  ⟨⟨devReady, .pf, .range, 0x2000, 5, 255, devReady.refuse .pf .range 0x2000 5, by decide +kernel⟩,
   ⟨devReady, .pf, .vf 1, .range, 0x2000, 5, 0x42, devReady.refuse .pf .range 0x2000 5, by decide +kernel⟩,
   ⟨devReady, .pf, 255, devReady.applied .pf, by decide +kernel⟩,
   ⟨devReady, .pf, .pf, 255, devReady.applied .pf, by decide +kernel⟩,
   ⟨0xFFFF, 0, by decide +kernel⟩,
   ⟨State.reset, .pf, 0x3000, 1, locOf (findEntry 0x3000 1), by decide +kernel⟩,
   ⟨part1, .vf 1, 0x3000, 1, 0#64, locOf (findEntry 0x3000 1), false, by decide +kernel⟩,
   ⟨devReady, .pf, kGranuleOwner/256, kGranuleOwner%256, 0#64, locOf (findEntry (kGranuleOwner/256) (kGranuleOwner%256)), true, by decide +kernel⟩,
   ⟨devReady, .pf, 0x1000, 1, 0#64, locOf (findEntry 0x1000 1), true, by decide +kernel⟩,
   ⟨devReady, .pf, kRefEnable/256, kRefEnable%256, 8, locOf (findEntry (kRefEnable/256) (kRefEnable%256)), true, by decide +kernel⟩,
   ⟨part1, .pf, kKvPoolBase 1/256, kKvPoolBase 1%256, 0, locOf (findEntry (kKvPoolBase 1/256) (kKvPoolBase 1%256)), true, by decide +kernel⟩⟩

theorem witness_DictionaryWrites :
    (∃ (s : State) (who : Requester) (offset : Nat) (bytes : Nat), offset < 2 ^ 27 ∧ s.requesterOk who = true ∧ areaOf who < 64 ∧ ((bytes ≠ 8 ∨ offset % 8 ≠ 0))) ∧
    (∃ (s : State) (who : Requester) (offset : Nat), offset < 2 ^ 27 ∧ s.requesterOk who = true ∧ areaOf who < 64 ∧ offset % 8 = 0 ∧ findEntry (offset / 2048) (offset / 8 % 256) = none) ∧
    (∃ (s : State) (who : Requester) (offset : Nat) (v : Word) (l : EntLoc), offset < 2 ^ 27 ∧ s.requesterOk who = true ∧ areaOf who < 64 ∧ offset % 8 = 0 ∧ s.gateWrite who (offset / 2048) (offset / 8 % 256) v = .ok l ∧ ownEntry l.row.ent = false ∧ configEntry l.row.ent = false) ∧
    (∃ (s : State) (who : Requester) (offset : Nat) (v : Word) (l : EntLoc) (r : Reason), offset < 2 ^ 27 ∧ s.requesterOk who = true ∧ areaOf who < 64 ∧ offset % 8 = 0 ∧ findEntry (offset / 2048) (offset / 8 % 256) = some l ∧ s.gateWrite who (offset / 2048) (offset / 8 % 256) v = .error r ∧ ownEntry l.row.ent = false) ∧
    (∃ (s : State) (offset : Nat) (bytes : Nat) (l : EntLoc), offset < 2 ^ 27 ∧ s.stringsUp = true ∧ findEntry (offset / 2048) (offset / 8 % 256) = some l ∧ bytes ≠ l.row.ty.bytes) ∧
    (∃ (s : State) (who : Requester) (offset : Nat), ((2 ^ 27 ≤ offset ∨ s.requesterOk who = false))) ∧
    (∃ (s : State) (offset : Nat), offset < 2 ^ 27 ∧ s.requesterOk .marionette = true ∧ 0xF000 ≤ offset / 2048) :=
  ⟨⟨devReady, .pf, 2^27-1, 8, by decide +kernel⟩,
   ⟨devReady, .pf, 2^27-8, by decide +kernel⟩,
   ⟨devReady, .pf, 8 * kRefEnable, 7, locOf (findEntry (kRefEnable/256) (kRefEnable%256)), by decide +kernel, by decide +kernel, by decide +kernel, by decide +kernel, ok_of (by decide +kernel), by decide +kernel⟩,
   ⟨devReady, .pf, 8 * kRefEnable, 8, locOf (findEntry (kRefEnable/256) (kRefEnable%256)), .range, by decide +kernel, by decide +kernel, by decide +kernel, by decide +kernel, by decide +kernel, error_of (by decide +kernel), by decide +kernel⟩,
   ⟨devReady, 8 * kRefEnable, 3, locOf (findEntry (kRefEnable/256) (kRefEnable%256)), by decide +kernel⟩,
   ⟨devReady, .pf, 2^27, by decide +kernel⟩,
   ⟨devReady, 2048 * 0xF000, by decide +kernel⟩⟩

theorem witness_VfPrivileges :
    (∃ (p : Nat) (idx : Nat) (sub : Nat) (l : EntLoc), findEntry idx sub = some l ∧ l.row.partRange = true ∧ l.inst ≠ p) ∧
    (∃ (s : State) (idx : Nat) (sub : Nat) (l : EntLoc), findEntry idx sub = some l ∧ ((l.row.wr = .n ∨ l.row.wr = .p ∨ l.row.wr = .pm ∨ l.row.wr = .ps ∨ l.row.wr = .sm ∨ l.row.wr = .none)) ∧ (¬ ((l.row.ent = .fenceHandle ∨ l.row.ent = .fenceLink) ∧ s.fenceLife l.elem = 0))) ∧
    (∃ (s : State) (p : Nat) (q : Nat), p < 64 ∧ q < 64 ∧ s.requesterOk (.vf p) = true ∧ s.ready = true) :=
  ⟨⟨1, kMapBase 2 / 256, kMapBase 2 % 256, locOf (findEntry (kMapBase 2 / 256) (kMapBase 2 % 256)), by decide +kernel⟩,
   ⟨devReady, kRefEnable / 256, kRefEnable % 256, locOf (findEntry (kRefEnable / 256) (kRefEnable % 256)), by decide +kernel⟩,
   ⟨part1, 1, 1, by decide +kernel⟩⟩

theorem witness_BulkAndPersistence :
    (∃ (s : State) (who : Requester) (idx : Nat) (sub : Nat) (l : EntLoc), s.requesterOk who = true ∧ s.gateRead who idx sub = .ok l ∧ l.row.ty.long = true ∧ l.row.ty.bytes ≤ 512 ∧ l.row.ty.bytes % 8 = 0 ∧ (s.sampleLong l (slotKey idx sub)).length = l.row.ty.bytes) ∧
    (∃ (s : State) (who : Requester) (idx : Nat) (sub : Nat) (r : Reason), s.requesterOk who = true ∧ s.gateEntry who idx sub false none = .error r) ∧
    (∃ (s : State) (who : Requester) (idx : Nat) (sub : Nat) (len : Nat) (l : EntLoc), s.requesterOk who = true ∧ s.gateEntry who idx sub true none = .ok l ∧ ((l.row.ty.long = false ∨ len ≠ l.row.ty.bytes))) ∧
    (∃ (s : State) (who : Requester) (q : Nat), q < 256 ∧ s.qpIdle q = true ∧ acceptsLong s who (kRemoteGid q / 256) (kRemoteGid q % 256) (s.bulkBytes who 16)) ∧
    (∃ (s : State) (who : Requester) (v : Word), accepts s who .dictClear kDictClear v) ∧
    (∃ (s : State) (who : Requester), accepts s who .persistCtrl kPersistCtrl 1 ∧ s.nat kPersistState ≠ 1) ∧
    (∃ (s : State) (who : Requester), s.nat kPersistState = 1 ∧ accepts s who .persistCtrl kPersistCtrl 1) ∧
    (∃ (s : State) (who : Requester), s.nat kPersistState = 1 ∧ accepts s who .persistCtrl kPersistCtrl 2) ∧
    (∃ (s : State) (who : Requester), accepts s who .persistCtrl kPersistCtrl 2 ∧ s.nat kPersistState ≠ 1) ∧
    (∃ (s : State) (c : PersistCopy), s.saving = some c) ∧
    (∃ (k : Nat), persistSlot k = true) :=
  ⟨⟨devReady, .pf, kGranuleOwner / 256, kGranuleOwner % 256, locOf (findEntry (kGranuleOwner / 256) (kGranuleOwner % 256)), by decide +kernel, ok_of (by decide +kernel), by decide +kernel⟩,
   ⟨part1, .vf 1, kGranuleOwner / 256, kGranuleOwner % 256, .cls, by decide +kernel, error_of (by decide +kernel)⟩,
   ⟨devReady, .pf, kRefEnable / 256, kRefEnable % 256, 8, locOf (findEntry (kRefEnable / 256) (kRefEnable % 256)), by decide +kernel, ok_of (by decide +kernel), by decide +kernel⟩,
   ⟨devReady, .pf, 255, by decide +kernel, by decide +kernel, acceptsLong_of (by decide +kernel)⟩,
   ⟨devReady, .pf, 1, accepts_of (by decide +kernel)⟩,
   ⟨devReady, .pf, accepts_of (by decide +kernel), by decide +kernel⟩,
   ⟨devReady.setNat kPersistState 1, .pf, by decide +kernel, accepts_of (by decide +kernel)⟩,
   ⟨devReady.setNat kPersistState 1, .pf, by decide +kernel, accepts_of (by decide +kernel)⟩,
   ⟨devReady, .pf, accepts_of (by decide +kernel), by decide +kernel⟩,
   ⟨{ devReady with saving := some {} , persist := [{ regs := [(1,1)] }, {}] }, {}, by decide +kernel⟩,
   ⟨kRefEnable, by decide +kernel⟩⟩

theorem witness_DapAccesses :
    (∃ s : State, ∃ node : Nat, ∃ idx : Nat, ∃ sub : Nat, ∃ l, heardFrom s node ∧ segRequired idx sub = false ∧ s.gateRead (.strings node) idx sub = .ok l) ∧
    (∃ s : State, ∃ node : Nat, ∃ idx : Nat, ∃ sub : Nat, ∃ r, heardFrom s node ∧ segRequired idx sub = false ∧ s.gateRead (.strings node) idx sub = .error r) ∧
    (∃ (s : State) (node : Nat) (idx : Nat) (sub : Nat), heardFrom s node ∧ segRequired idx sub = true) ∧
    (∃ s : State, ∃ node : Nat, ∃ idx : Nat, ∃ sub : Nat, ∃ l, ∃ data : List Byte, heardFrom s node ∧ findEntry idx sub = some l ∧ l.row.ty.long = false ∧ data.length = l.row.ty.bytes) ∧
    (∃ s : State, ∃ node : Nat, ∃ idx : Nat, ∃ sub : Nat, ∃ l, ∃ data : List Byte, heardFrom s node ∧ findEntry idx sub = some l ∧ l.row.ty.bytes ≤ 56 ∧ data.length ≠ l.row.ty.bytes) :=
  ⟨⟨devReady, 1, 0x1000, 1, locOf (findEntry 0x1000 1), by unfold heardFrom; decide +kernel, by decide +kernel, ok_of (by decide +kernel)⟩,
   ⟨devReady, 1, 0xFFFF, 1, .noEntry, by unfold heardFrom; decide +kernel, by decide +kernel, error_of (by decide +kernel)⟩,
   ⟨devReady, 1, kGranuleOwner / 256, kGranuleOwner % 256, by unfold heardFrom; decide +kernel, by decide +kernel⟩,
   ⟨devReady, 126, kRefEnable / 256, kRefEnable % 256, locOf (findEntry (kRefEnable / 256) (kRefEnable % 256)), List.replicate (locOf (findEntry (kRefEnable / 256) (kRefEnable % 256))).row.ty.bytes 1, by unfold heardFrom; decide +kernel, by decide +kernel⟩,
   ⟨devReady, 126, kRefEnable / 256, kRefEnable % 256, locOf (findEntry (kRefEnable / 256) (kRefEnable % 256)), [], by unfold heardFrom; decide +kernel, by decide +kernel⟩⟩

theorem witness_SegmentedTransfers :
    (∃ s : State, ∃ node : Nat, ∃ idx : Nat, ∃ sub : Nat, ∃ l, heardFrom s node ∧ s.segFits node = true ∧ s.gateRead (.strings node) idx sub = .ok l) ∧
    (∃ s : State, ∃ node : Nat, ∃ total, heardFrom s node ∧ s.segFits node = true ∧ total < 65536) ∧
    (∃ (s : State) (node : Nat), heardFrom s node ∧ s.segFits node = false) ∧
    (∃ (s : State) (node : Nat) (txn : Nat) (x : SegSt), heardFrom s node ∧ s.seg? node = some x ∧ x.tid = txn) ∧
    (∃ (s : State) (node : Nat), heardFrom s node ∧ s.seg? node = none) ∧
    (∃ (s : State) (node : Nat) (txn : Nat) (k : Nat) (x : SegSt), heardFrom s node ∧ s.seg? node = some x ∧ x.tid = txn ∧ x.writes = false ∧ x.next = k ∧ 56 * k < x.bytes.length) ∧
    (∃ (s : State) (node : Nat) (txn : Nat) (k : Nat) (x : SegSt), heardFrom s node ∧ s.seg? node = some x ∧ x.tid = txn ∧ x.writes = false ∧ x.next ≠ k ∧ x.next ≠ k + 1) ∧
    (∃ (s : State) (node : Nat) (txn : Nat) (k : Nat) (x : SegSt) (data : List Byte), heardFrom s node ∧ s.seg? node = some x ∧ x.tid = txn ∧ x.writes = true ∧ x.next = k ∧ data.length ≤ 56 ∧ x.bytes.length + data.length < x.total) ∧
    (∃ (s : State) (node : Nat) (txn : Nat) (k : Nat) (x : SegSt) (data : List Byte), heardFrom s node ∧ s.seg? node = some x ∧ x.tid = txn ∧ x.writes = true ∧ x.next = k ∧ data.length ≤ 56 ∧ x.bytes.length + data.length = x.total ∧ data ≠ []) :=
  ⟨⟨devReady, 1, kGranuleOwner / 256, kGranuleOwner % 256, locOf (findEntry (kGranuleOwner / 256) (kGranuleOwner % 256)), by unfold heardFrom; decide +kernel, by decide +kernel, ok_of (by decide +kernel)⟩,
   ⟨devReady, 1, 65535, by unfold heardFrom; decide +kernel, by decide +kernel⟩,
   ⟨withMario { segs := (List.range 4).map fun i => ⟨i+1,0,0,0,false,0,[],0,[]⟩ }, 5, by unfold heardFrom; decide +kernel, by decide +kernel⟩,
   ⟨withMario { segs := [(⟨1,9,0x1000,1,false,8,List.replicate 8 1,0,[]⟩)] }, 1, 9, ⟨1,9,0x1000,1,false,8,List.replicate 8 1,0,[]⟩, by unfold heardFrom; decide +kernel, by decide +kernel⟩,
   ⟨devReady, 1, by unfold heardFrom; decide +kernel, by decide +kernel⟩,
   ⟨withMario { segs := [(⟨1,9,0x1000,1,false,57,List.replicate 57 1,1,[]⟩)] }, 1, 9, 1, ⟨1,9,0x1000,1,false,57,List.replicate 57 1,1,[]⟩, by unfold heardFrom; decide +kernel, by decide +kernel⟩,
   ⟨withMario { segs := [(⟨1,9,0x1000,1,false,57,List.replicate 57 1,2,[]⟩)] }, 1, 9, 0, ⟨1,9,0x1000,1,false,57,List.replicate 57 1,2,[]⟩, by unfold heardFrom; decide +kernel, by decide +kernel⟩,
   ⟨withMario { segs := [(⟨1,9,0x1000,1,true,57,[],0,[]⟩)] }, 1, 9, 0, ⟨1,9,0x1000,1,true,57,[],0,[]⟩, List.replicate 56 1, by unfold heardFrom; decide +kernel, by decide +kernel⟩,
   ⟨withMario { segs := [(⟨1,9,kGranuleOwner/256,kGranuleOwner%256,true,57,List.replicate 56 1,1,[]⟩)] }, 1, 9, 1, ⟨1,9,kGranuleOwner/256,kGranuleOwner%256,true,57,List.replicate 56 1,1,[]⟩, [1], by unfold heardFrom; decide +kernel, by decide +kernel⟩⟩

theorem witness_Sensors :
    (∃ (x : SensorSt), x.beyondCrit = 2) ∧
    (∃ (x : SensorSt), x.level = 0 ∧ x.beyondWarn = 2) ∧
    (∃ (x : SensorSt), x.level = 0 ∧ x.beyondWarn < 2) ∧
    (∃ (x : SensorSt), x.level = 1 ∧ x.insideWarn = 9) ∧
    (∃ (x : SensorSt), x.level = 1 ∧ x.insideWarn < 9) ∧
    (∃ (x : SensorSt), x.level = 2 ∧ x.insideCrit = 9) ∧
    (∃ (x : SensorSt), x.level = 2 ∧ x.insideCrit < 9) ∧
    (∃ (x : SensorSt), x.level ≤ 2) ∧
    (∃ (s : State) (ch : Nat) (value : Int) (y : SensorSt), 1 ≤ ch ∧ ch ≤ 0x28 ∧ ch ≠ 0x18 ∧ s.mario.inputOn = true ∧ s.mario.restarting = false ∧ ((dieChannel ch = false ∨ s.nat kPowerState = 2)) ∧ bitOf (s.nat (kSensor (ch - 1))) 49 = false ∧ s.sensorNext ch value = y ∧ y.level = fld (s.reg (kSensor (ch - 1))) 51 50) ∧
    (∃ (s : State) (ch : Nat) (value : Int) (y : SensorSt), 1 ≤ ch ∧ ch ≤ 0x28 ∧ ch ≠ 0x15 ∧ ch ≠ 0x16 ∧ ch ≠ 0x18 ∧ s.mario.inputOn = true ∧ s.mario.restarting = false ∧ ((dieChannel ch = false ∨ s.nat kPowerState = 2)) ∧ s.nat kPowerState ≠ 3 ∧ s.nat kPowerState ≠ 4 ∧ bitOf (s.nat (kSensor (ch - 1))) 49 = false ∧ s.sensorNext ch value = y ∧ y.level = 2 ∧ fld (s.reg (kSensor (ch - 1))) 51 50 ≠ 2) ∧
    (∃ (s : State) (ch : Nat), 1 ≤ ch ∧ ch ≤ 0x28 ∧ s.mario.inputOn = true ∧ s.mario.restarting = false ∧ ((dieChannel ch = false ∨ s.nat kPowerState = 2)) ∧ bitOf (s.nat (kSensor (ch - 1))) 49 = false) ∧
    (∃ (s : State), ((s.mario.inputOn = false ∨ s.mario.restarting = true))) ∧
    (∃ (s : State), 0 < s.nat kCapWindowMs ∧ s.nat kCapWindowMs ≤ s.mario.watts.length ∧ s.nat kCapState = 0 ∧ s.nat kPowerCapW * 1000 * s.nat kCapWindowMs < sumOf (s.mario.watts.take (s.nat kCapWindowMs))) ∧
    (∃ (s : State), 0 < s.nat kCapWindowMs ∧ s.nat kCapWindowMs ≤ s.mario.watts.length ∧ s.nat kCapState = 1 ∧ sumOf (s.mario.watts.take (s.nat kCapWindowMs)) * 100 < 97 * (s.nat kPowerCapW * 1000 * s.nat kCapWindowMs)) ∧
    (∃ (s : State), 0 < s.nat kCapWindowMs ∧ s.nat kCapWindowMs ≤ s.mario.watts.length ∧ s.nat kCapState = 0 ∧ sumOf (s.mario.watts.take (s.nat kCapWindowMs)) ≤ s.nat kPowerCapW * 1000 * s.nat kCapWindowMs) :=
  ⟨⟨{ beyondCrit := 2 }, by decide +kernel⟩,
   ⟨{ beyondWarn := 2 }, by decide +kernel⟩,
   ⟨{ beyondWarn := 1 }, by decide +kernel⟩,
   ⟨{ level := 1, insideWarn := 9 }, by decide +kernel⟩,
   ⟨{ level := 1, insideWarn := 8 }, by decide +kernel⟩,
   ⟨{ level := 2, insideCrit := 9 }, by decide +kernel⟩,
   ⟨{ level := 2, insideCrit := 8 }, by decide +kernel⟩,
   ⟨{ level := 2, insideCrit := 9 }, by decide +kernel⟩,
   ⟨devReady, 0x28, 500, devReady.sensorNext 0x28 500, by decide +kernel⟩,
   ⟨withMario { sensors := [(1, { beyondCrit := 2 })] }, 1, 2000000, (withMario { sensors := [(1, { beyondCrit := 2 })] }).sensorNext 1 2000000, by decide +kernel⟩,
   ⟨devReady, 0x28, by decide +kernel⟩,
   ⟨withMario { restarting := true }, by decide +kernel⟩,
   ⟨{ devReady.setNat kCapWindowMs 10 |>.setNat kPowerCapW 100 with mario := { watts := List.replicate 10 100001 } }, by decide +kernel⟩,
   ⟨{ devReady.setNat kCapWindowMs 10 |>.setNat kPowerCapW 100 |>.setNat kCapState 1 with mario := { watts := List.replicate 10 96999 } }, by decide +kernel⟩,
   ⟨{ devReady.setNat kCapWindowMs 10 |>.setNat kPowerCapW 100 with mario := { watts := List.replicate 10 100000 } }, by decide +kernel⟩⟩

theorem witness_PowerCommands :
    (∃ (s : State) (who : Requester), accepts s who .powerCtrl kPowerCtrl 1 ∧ ((s.nat kPowerState = 0 ∨ (s.nat kPowerState = 3 ∧ s.anyCrit = false)))) ∧
    (∃ (s : State) (who : Requester), accepts s who .powerCtrl kPowerCtrl 1 ∧ ((s.nat kPowerState = 1 ∨ s.nat kPowerState = 2 ∨ s.nat kPowerState = 4 ∨ (s.nat kPowerState = 3 ∧ s.anyCrit = true)))) ∧
    (∃ (s : State) (who : Requester), accepts s who .powerCtrl kPowerCtrl 2 ∧ ((s.nat kPowerState = 1 ∨ s.nat kPowerState = 2))) ∧
    (∃ (s : State) (who : Requester), accepts s who .powerCtrl kPowerCtrl 2 ∧ s.nat kPowerState ≠ 1 ∧ s.nat kPowerState ≠ 2) ∧
    (∃ (s : State) (who : Requester), accepts s who .powerCtrl kPowerCtrl 3 ∧ s.nat kPowerState = 2 ∧ Memory.wf s = true) ∧
    (∃ (s : State) (who : Requester), accepts s who .powerCtrl kPowerCtrl 3 ∧ s.nat kPowerState ≠ 2) ∧
    (∃ (s : State) (who : Requester), accepts s who .powerCtrl kPowerCtrl 4 ∧ ((s.nat kPowerState = 2 ∨ (s.nat kPowerState = 3 ∧ s.anyCrit = false)))) ∧
    (∃ (s : State) (who : Requester), accepts s who .powerCtrl kPowerCtrl 4 ∧ ((s.nat kPowerState = 0 ∨ s.nat kPowerState = 1 ∨ s.nat kPowerState = 4 ∨ (s.nat kPowerState = 3 ∧ s.anyCrit = true)))) ∧
    (∃ (s : State), s.nat kPowerState = 2 ∧ Memory.wf s = true) ∧
    (∃ (s : State), s.nat kPowerState ≠ 2) :=
  ⟨⟨devReady.setNat kPowerState 3, .strings 1, accepts_of (by decide +kernel), by decide +kernel⟩,
   ⟨devReady, .strings 1, accepts_of (by decide +kernel), by decide +kernel⟩,
   ⟨devReady, .strings 1, accepts_of (by decide +kernel), by decide +kernel⟩,
   ⟨devReady.setNat kPowerState 0, .strings 1, accepts_of (by decide +kernel), by decide +kernel⟩,
   ⟨devReady.setOct kGranuleOwner 3 1 |>.setOct kGranuleOwner 5 0xFE, .strings 1, accepts_of (by decide +kernel), by decide +kernel⟩,
   ⟨devReady.setNat kPowerState 0, .strings 1, accepts_of (by decide +kernel), by decide +kernel⟩,
   ⟨devReady, .strings 1, accepts_of (by decide +kernel), by decide +kernel⟩,
   ⟨devReady.setNat kPowerState 4, .strings 1, accepts_of (by decide +kernel), by decide +kernel⟩,
   ⟨devReady, by decide +kernel⟩,
   ⟨devReady.setNat kPowerState 4, by decide +kernel⟩⟩

theorem witness_ResetReleaseAndTrips :
    (∃ (s : State), s.boot.inReset = true ∧ ((s.nat kPowerState = 1 ∨ s.nat kPowerState = 2)) ∧ s.boot.cause < 4) ∧
    (∃ (s : State), ((s.nat kPowerState = 1 ∨ s.nat kPowerState = 2)) ∧ s.mario.restarting = false) ∧
    (∃ (s : State), ((s.nat kPowerState = 1 ∨ s.nat kPowerState = 2)) ∧ s.mario.restarting = true) ∧
    (∃ (s : State), s.mario.inputOn = true) ∧
    (∃ (s : State), s.mario.inputOn = false ∧ s.mario.inputCause < 16 ∧ s.mario.inputCause % 4 = 0) ∧
    (∃ (s : State), s.mario.inputOn = false ∧ s.mario.inputCause < 16 ∧ s.mario.inputCause % 4 ≠ 0) :=
  ⟨⟨{ devReady.setNat kPowerState 1 with boot := { inReset := true, cause := 3 } }, by decide +kernel⟩,
   ⟨devReady, by decide +kernel⟩,
   ⟨withMario { restarting := true }, by decide +kernel⟩,
   ⟨devReady, by decide +kernel⟩,
   ⟨withMario { inputOn := false, inputCause := 4 }, by decide +kernel⟩,
   ⟨withMario { inputOn := false, inputCause := 2 }, by decide +kernel⟩⟩

theorem witness_MarionetteBoots :
    (∃ (s : State), s.mario.inputOn = true ∧ s.mario.restarting = false) ∧
    (∃ (s : State), s.mario.restarting = true ∧ s.mario.inputOn = true ∧ s.mario.cause ≠ 0 ∧ s.mario.trial = false ∧ s.mario.trip = none ∧ s.mario.active < 2 ∧ s.bootable s.mario.active = true) ∧
    (∃ (s : State), s.mario.restarting = true ∧ s.mario.inputOn = true ∧ s.mario.cause ≠ 0 ∧ s.mario.trial = false ∧ s.mario.trip = none ∧ s.mario.active < 2 ∧ s.bootable s.mario.active = false ∧ s.bootable (1 - s.mario.active) = true) ∧
    (∃ (s : State), s.mario.restarting = true ∧ s.mario.inputOn = true ∧ s.mario.cause ≠ 0 ∧ s.mario.trial = false ∧ s.mario.trip = none ∧ s.mario.active < 2 ∧ s.bootable s.mario.active = false ∧ s.bootable (1 - s.mario.active) = false) ∧
    (∃ (s : State), s.mario.restarting = true ∧ s.mario.inputOn = true ∧ s.mario.trial = true ∧ 1 ≤ s.mario.trialBoots ∧ s.mario.trip = none ∧ s.mario.cause ≠ 0 ∧ s.mario.active < 2 ∧ s.bootable (1 - s.mario.active) = true) ∧
    (∃ (s : State), s.mario.restarting = true ∧ s.mario.inputOn = true ∧ s.mario.cause = 0 ∧ s.mario.trial = false ∧ s.mario.trip = none ∧ s.nat kInputFaults % 4 = 0 ∧ s.anyCrit = false ∧ s.mario.active < 2 ∧ s.bootable s.mario.active = true) :=
  ⟨⟨devReady, by decide +kernel⟩,
   ⟨withMario { restarting := true, cause := 1 }, by decide +kernel⟩,
   ⟨withMario { restarting := true, cause := 1, sigA := false, sigB := true }, by decide +kernel⟩,
   ⟨withMario { restarting := true, cause := 1, sigA := false }, by decide +kernel⟩,
   ⟨withMario { restarting := true, cause := 1, trial := true, trialBoots := 1, sigB := true }, by decide +kernel⟩,
   ⟨withMario { restarting := true, cause := 0 }, by decide +kernel⟩⟩

theorem witness_StringsPresence :
    (∃ (s : State) (node : Nat) (epoch : Nat) (window : Nat), heardFrom s node ∧ s.mario.joined = true ∧ epoch < 65536 ∧ 20 ≤ window ∧ window < 65536 ∧ s.nat kLastEpoch ≠ epoch) ∧
    (∃ (s : State) (node : Nat) (epoch : Nat) (window : Nat), heardFrom s node ∧ s.mario.joined = true ∧ epoch < 65536 ∧ 20 ≤ window ∧ window < 65536 ∧ s.nat kLastEpoch = epoch) ∧
    (∃ (s : State) (node : Nat) (epoch : Nat), heardFrom s node ∧ s.mario.joined = false ∧ epoch < 65536) ∧
    (∃ (s : State) (waited : Nat) (w : Nat) (due : Nat), s.mario.reply = some (due, w) ∧ s.stringsUp = true ∧ due ≤ waited ∧ waited + 10 ≤ w) ∧
    (∃ (s : State) (waited : Nat) (w : Nat) (due : Nat), s.mario.reply = some (due, w) ∧ ((waited < due ∨ w < waited + 10))) ∧
    (∃ (s : State) (w : Nat) (due : Nat), s.mario.reply = some (due, w) ∧ s.stringsUp = true) ∧
    (∃ (s : State), s.stringsUp = true ∧ s.mario.joined = false ∧ ((∀ e, s.mario.heardEpoch = some e → e < 65536))) ∧
    (∃ (s : State), s.stringsUp = true ∧ s.mario.joined = true) ∧
    (∃ (s : State) (node : Nat) (p : Nat), heardFrom s node ∧ p < 65536) ∧
    (∃ (s : State) (node : Nat), s.mario.inputOn = true ∧ s.mario.restarting = false ∧ node < 128 ∧ nodeHere s node = true) :=
  ⟨⟨withMario { joined := true }, 1, 65535, 20, by unfold heardFrom; decide +kernel, by decide +kernel⟩,
   ⟨withMario { joined := true }, 1, 0, 65535, by unfold heardFrom; decide +kernel, by decide +kernel⟩,
   ⟨devReady, 1, 65535, by unfold heardFrom; decide +kernel, by decide +kernel⟩,
   ⟨withMario { joined := true, reply := some (10, 20) }, 10, 20, 10, by decide +kernel⟩,
   ⟨withMario { joined := true, reply := some (10, 20) }, 11, 20, 10, by decide +kernel⟩,
   ⟨withMario { joined := true, reply := some (10, 20) }, 20, 10, by decide +kernel⟩,
   ⟨withMario { heardEpoch := some 65535 }, by decide +kernel, by decide +kernel, fun e he => by cases he; decide⟩,
   ⟨withMario { joined := true }, by decide +kernel⟩,
   ⟨devReady, 126, 65535, by unfold heardFrom; decide +kernel, by decide +kernel⟩,
   ⟨devReady.setOct kNodesPresent 15 0x40, 126, by decide +kernel⟩⟩

theorem witness_StringsLine :
    (∃ (s : State), s.hears = true ∧ s.nat kStringsState ≤ 1) ∧
    (∃ (s : State), s.nat kStringsState = 2 ∧ s.mario.connected = true ∧ s.mario.inputOn = true ∧ s.mario.restarting = false) ∧
    (∃ (s : State), s.mario.inputOn = true ∧ s.mario.restarting = false) ∧
    (∃ (s : State), s.mario.inputOn = true ∧ s.mario.restarting = false ∧ s.nat kStringsState ≤ 1) ∧
    (∃ (s : State), s.mario.inputOn = true ∧ s.mario.restarting = false ∧ s.nat kStringsLine = 0) ∧
    (∃ (s : State), s.mario.connected = false) :=
  ⟨⟨devReady, by decide +kernel⟩,
   ⟨devReady.setNat kStringsState 2, by decide +kernel⟩,
   ⟨devReady, by decide +kernel⟩,
   ⟨devReady, by decide +kernel⟩,
   ⟨devReady, by decide +kernel⟩,
   ⟨withMario { connected := false }, by decide +kernel⟩⟩

theorem witness_FirmwareUpdate :
    (∃ (s : State) (who : Requester), accepts s who .updateCtrl kUpdateCtrl 1 ∧ ((s.nat kUpdateState = 0 ∨ s.nat kUpdateState = 3)) ∧ ((s.mario.owner = none ∨ s.mario.owner = some who)) ∧ s.nat kMfwSlot < 2) ∧
    (∃ (s : State) (who : Requester) (bytes : List Byte), acceptsLong s who 0x7040 0x08 bytes ∧ s.nat kUpdateState = 1 ∧ ((s.mario.owner = none ∨ s.mario.owner = some who)) ∧ s.nat kUpdateOffset < 2 ^ 20 ∧ s.nat kUpdateOffset % 512 = 0 ∧ bytes.length = 512) ∧
    (∃ (s : State) (who : Requester), accepts s who .updateCtrl kUpdateCtrl 2 ∧ s.nat kUpdateState = 1 ∧ ((s.mario.owner = none ∨ s.mario.owner = some who))) ∧
    (∃ (s : State) (sigOk : Bool), s.mario.verifying = true ∧ s.nat kUpdateState = 1 ∧ s.nat kMfwSlot < 2 ∧ s.updateReason sigOk = 0) ∧
    (∃ (s : State) (sigOk : Bool), s.mario.verifying = true ∧ s.nat kUpdateState = 1 ∧ s.nat kMfwSlot < 2 ∧ s.updateReason sigOk ≠ 0) ∧
    (∃ (s : State) (who : Requester), accepts s who .updateCtrl kUpdateCtrl 3 ∧ s.nat kUpdateState = 2 ∧ ((s.mario.owner = none ∨ s.mario.owner = some who))) ∧
    (∃ (s : State) (who : Requester), accepts s who .updateCtrl kUpdateCtrl 4 ∧ s.nat kUpdateState = 4 ∧ ((s.mario.owner = none ∨ s.mario.owner = some who))) ∧
    (∃ (s : State) (who : Requester), accepts s who .updateCtrl kUpdateCtrl 5 ∧ ((s.nat kUpdateState = 1 ∨ s.nat kUpdateState = 2 ∨ s.nat kUpdateState = 3)) ∧ ((s.mario.owner = none ∨ s.mario.owner = some who))) ∧
    (∃ (s : State), s.nat kUpdateState = 4 ∧ s.mario.trial = true ∧ s.mario.inputOn = true ∧ s.mario.restarting = false) ∧
    (∃ (s : State), ((s.nat kUpdateState = 1 ∨ s.nat kUpdateState = 2 ∨ s.nat kUpdateState = 3))) ∧
    (∃ (s : State) (who : Requester), accepts s who .updateCtrl kUpdateCtrl 2 ∧ s.nat kUpdateState ≠ 1) ∧
    (∃ (s : State) (who : Requester), accepts s who .updateCtrl kUpdateCtrl 2 ∧ s.nat kUpdateState = 1 ∧ s.mario.owner ≠ none ∧ s.mario.owner ≠ some who) :=
  ⟨⟨devReady, .strings 1, accepts_of (by decide +kernel), by decide +kernel⟩,
   ⟨devReady.setNat kUpdateState 1 |>.setNat kUpdateOffset (2^20-512), .strings 1, List.replicate 512 1, acceptsLong_of (by decide +kernel), by decide +kernel⟩,
   ⟨devReady.setNat kUpdateState 1, .strings 1, accepts_of (by decide +kernel), by decide +kernel⟩,
   ⟨{ devReady.setNat kUpdateState 1 with mario := { verifying := true, flash := putBytes [] (2^20) (leBytes 4 0x4D524E54 ++ leBytes 2 1 ++ leBytes 2 0 ++ leBytes 4 0 ++ leBytes 4 1), chunks := [0,1] } }, true, by decide +kernel⟩,
   ⟨{ devReady.setNat kUpdateState 1 with mario := { verifying := true } }, true, by decide +kernel⟩,
   ⟨devReady.setNat kUpdateState 2, .strings 1, accepts_of (by decide +kernel), by decide +kernel⟩,
   ⟨devReady.setNat kUpdateState 4, .strings 1, accepts_of (by decide +kernel), by decide +kernel⟩,
   ⟨devReady.setNat kUpdateState 3, .strings 1, accepts_of (by decide +kernel), by decide +kernel⟩,
   ⟨{ devReady.setNat kUpdateState 4 with mario := { trial := true } }, by decide +kernel⟩,
   ⟨devReady.setNat kUpdateState 1, by decide +kernel⟩,
   ⟨devReady, .strings 1, accepts_of (by decide +kernel), by decide +kernel⟩,
   ⟨{ devReady.setNat kUpdateState 1 with mario := { owner := some .pf } }, .strings 1, accepts_of (by decide +kernel), by decide +kernel⟩⟩

theorem witness_BootStates :
    (∃ (s : State), s.dieUp = true ∧ s.bootState = 0) ∧
    (∃ (s : State) (sigOk : Bool) (r : Nat), s.bootState = 2 ∧ pkgCheck s.stageRead s.chunkLanded (s.nat kStepping) (s.nat kFwSvnFloor) sigOk = r ∧ r = 0) ∧
    (∃ (s : State) (sigOk : Bool) (r : Nat), s.bootState = 2 ∧ pkgCheck s.stageRead s.chunkLanded (s.nat kStepping) (s.nat kFwSvnFloor) sigOk = r ∧ r ≠ 0) ∧
    (∃ (s : State), s.bootState = 3) ∧
    (∃ (s : State), s.bootState = 4 ∧ s.persist = []) ∧
    (∃ (s : State) (c : PersistCopy) (rest : List PersistCopy) (k : Nat) (v : Word), s.bootState = 4 ∧ s.persist = c :: rest ∧ c.regs = [(k, v)] ∧ c.octs = [] ∧ persistSlot k = true) ∧
    (∃ (s : State), s.bootState = 4) ∧
    (∃ (s : State), s.bootState = 5) ∧
    (∃ (s : State), s.bootState = 6 ∧ s.stop.asserted = false ∧ ((∀ f, f ∈ s.boot.cmuFailed → f < 16))) :=
  ⟨⟨booting 0, by decide +kernel⟩,
   ⟨pkgStaged, true, 0, by decide +kernel⟩,
   ⟨pkgStaged, false, 5, by decide +kernel⟩,
   ⟨booting 3, by decide +kernel⟩,
   ⟨booting 4, by decide +kernel⟩,
   ⟨{ booting 4 with persist := [{ regs := [(kRefEnable, 5)] }] }, { regs := [(kRefEnable, 5)] }, [], kRefEnable, 5, by decide +kernel⟩,
   ⟨booting 4, by decide +kernel⟩,
   ⟨booting 5, by decide +kernel⟩,
   ⟨booting 6, by decide +kernel⟩⟩

theorem witness_StagingArea :
    (∃ (s : State) (who : Requester), accepts s who .fwCtrl kFwCtrl 1 ∧ s.bootState = 1 ∧ s.nat kStageSource = 0xFF) ∧
    (∃ (s : State) (who : Requester), accepts s who .fwCtrl kFwCtrl 1 ∧ ((s.bootState ≠ 1 ∨ s.nat kStageSource ≠ 0xFF))) ∧
    (∃ (s : State) (who : Requester), accepts s who .fwCtrl kFwCtrl 2 ∧ s.bootState = 1) ∧
    (∃ (s : State) (who : Requester), accepts s who .fwCtrl kFwCtrl 2 ∧ s.bootState ≠ 1) ∧
    (∃ (s : State) (who : Requester) (v : Word), accepts s who .fwFloorRaise kFwFloorRaise v ∧ s.nat kFwSvnFloor < v.toNat ∧ v.toNat ≤ s.nat kFwSvn) ∧
    (∃ (s : State) (who : Requester) (v : Word), accepts s who .fwFloorRaise kFwFloorRaise v ∧ ((v.toNat ≤ s.nat kFwSvnFloor ∨ s.nat kFwSvn < v.toNat))) ∧
    (∃ (s : State) (off : Nat) (bytes : List Byte), s.linkDown = false ∧ s.stageOpen = true ∧ bytes ≠ [] ∧ off + bytes.length ≤ stagingBytes ∧ 16 ≤ s.nat kStageSource) ∧
    (∃ (s : State) (off : Nat) (bytes : List Byte), s.linkDown = false ∧ s.stageOpen = true ∧ bytes ≠ [] ∧ off + bytes.length ≤ stagingBytes ∧ s.nat kStageSource < 16) ∧
    (∃ (fn : Nat), fn ≠ 0) ∧
    (∃ (s : State), s.bootState = 1 ∧ s.nat kStageSource < 16) :=
  ⟨⟨(booting 1).setNat kStageSource 0xFF, .pf, accepts_of (by decide +kernel), by decide +kernel⟩,
   ⟨booting 1, .pf, accepts_of (by decide +kernel), by decide +kernel⟩,
   ⟨(booting 1).setNat kStageSource 0xFF, .pf, accepts_of (by decide +kernel), by decide +kernel⟩,
   ⟨booting 2, .pf, accepts_of (by decide +kernel), by decide +kernel⟩,
   ⟨devReady.setNat kFwSvn 63, .pf, 63, accepts_of (by decide +kernel), by decide +kernel⟩,
   ⟨devReady.setNat kFwSvn 62, .pf, 63, accepts_of (by decide +kernel), by decide +kernel⟩,
   ⟨booting 1, stagingBytes - 2, [1, 2], by decide +kernel⟩,
   ⟨(booting 1).setNat kStageSource 15, stagingBytes - 2, [1, 2], by decide +kernel⟩,
   ⟨1, by decide +kernel⟩,
   ⟨(booting 1).setNat kStageSource 15, by decide +kernel⟩⟩

theorem witness_ProxyDownload :
    (∃ (s : State) (port : Nat) (bytes : List Byte), s.dieUp = true ∧ port < 16 ∧ s.nat (kPortState port) = 5 ∧ cellOk bytes = true ∧ byteField bytes 0 1 % 16 = 6 ∧ byteField bytes 9 1 = 255 ∧ 256 * byteField bytes 10 4 < stagingBytes ∧ s.bootState = 1 ∧ ((s.nat kStageSource = 0xFE ∨ s.nat kStageSource = port))) ∧
    (∃ (s : State) (port : Nat) (bytes : List Byte), s.dieUp = true ∧ port < 16 ∧ s.nat (kPortState port) = 5 ∧ cellOk bytes = true ∧ byteField bytes 0 1 % 16 = 6 ∧ byteField bytes 9 1 = 255 ∧ 256 * byteField bytes 10 4 < stagingBytes ∧ s.bootState = 1 ∧ s.nat kStageSource ≠ 0xFE ∧ s.nat kStageSource ≠ port) ∧
    (∃ (s : State) (port : Nat) (bytes : List Byte), s.dieUp = true ∧ port < 16 ∧ s.nat (kPortState port) = 5 ∧ cellOk bytes = false) ∧
    (∃ (s : State), s.boot.forwarding = true ∧ s.nat kProxyMode = 1 ∧ 3 ≤ s.bootState ∧ s.bootState ≤ 6) ∧
    (∃ (s : State) (who : Requester) (v : Word), accepts s who .proxySend kProxySend v ∧ s.boot.proxySending = true) ∧
    (∃ (s : State) (who : Requester) (v : Word), accepts s who .proxySend kProxySend v ∧ s.boot.proxySending = false ∧ s.nat (kPortState 3) = 5 ∧ v = 8) :=
  ⟨⟨(booting 1), 15, cellOf [0x16,0,0,0,0,0,0,0,0,255,0,0] 0, by decide +kernel⟩,
   ⟨(booting 1).setNat kStageSource 0xFF, 15, cellOf [0x16,0,0,0,0,0,0,0,0,255,0,0] 0, by decide +kernel⟩,
   ⟨(booting 1), 15, ([] : List Byte), by decide +kernel⟩,
   ⟨{ (booting 3).setNat kProxyMode 1 with boot := { forwarding := true } }, by decide +kernel⟩,
   ⟨{ devReady with boot := { proxySending := true } }, .pf, 8, accepts_of (by decide +kernel), by decide +kernel⟩,
   ⟨devReady, .pf, 8, accepts_of (by decide +kernel), by decide +kernel⟩⟩

theorem witness_FaultDetection :
    (∃ (s : State) (c : Nat) (f : Nat) (sl : Nat), s.coreSlot c = some (f, sl) ∧ s.coreBusy f sl = true ∧ s.slotStopped f sl = false ∧ s.slotOwner f sl < 64 ∧ s.runahead = []) ∧
    (∃ (s : State) (c : Nat) (f : Nat) (sl : Nat), s.coreSlot c = some (f, sl) ∧ ((s.coreBusy f sl = false ∨ s.slotStopped f sl = true))) ∧
    (∃ (s : State) (f : Nat) (d : Desc), f < 16 ∧ s.nat (kCmuState f) = 0 ∧ d ∈ s.inflight ∧ productOp d.opcode = true ∧ d.arith = 3 ∧ d.core.1 = f ∧ d.ended = false) ∧
    (∃ (s : State) (who : Requester) (c : Nat) (v : Word), c < 144 ∧ v ≠ 0 ∧ accepts s who .coreFence (kCoreFence c) v ∧ s.nat (kCoreState c) = 0) ∧
    (∃ (s : State) (who : Requester) (c : Nat) (v : Word), c < 144 ∧ v ≠ 0 ∧ accepts s who .coreFence (kCoreFence c) v ∧ s.nat (kCoreState c) ≠ 0) :=
  ⟨⟨running (descOf 5 1 0x13), 0, 0, 0, by decide +kernel⟩,
   ⟨part1, 0, 0, 0, by decide +kernel⟩,
   ⟨running (descOf 5 1 (rawOf [(0,0x10),(12,3)])), 0, descOf 5 1 (rawOf [(0,0x10),(12,3)]), by decide +kernel⟩,
   ⟨devReady, .pf, 143, 1, by decide +kernel, by decide +kernel, accepts_of (by decide +kernel), by decide +kernel⟩,
   ⟨part1.setNat (kCoreState 0) 1, .pf, 0, 1, by decide +kernel, by decide +kernel, accepts_of (by decide +kernel), by decide +kernel⟩⟩

theorem witness_SparingAndReload :
    (∃ (s : State) (f : Nat) (sl : Nat) (c : Nat) (r : Recovery), recovering s f sl r ∧ r.phase = 0 ∧ r.mark < s.tb.ticks ∧ r.core < 144 ∧ r.cause < 16 ∧ s.nat (kCoreState r.core) = 1 ∧ s.spareOf f = some c) ∧
    (∃ (s : State) (f : Nat) (sl : Nat) (r : Recovery), recovering s f sl r ∧ r.phase = 0 ∧ r.mark < s.tb.ticks ∧ r.core < 144 ∧ s.nat (kCoreState r.core) = 1 ∧ s.spareOf f = none ∧ s.nat (kSpareBorrow r.part) ≠ 1 ∧ s.slotOwner f sl < 64 ∧ s.partState (s.slotOwner f sl) = 1 ∧ s.partRun (s.slotOwner f sl) = 1 ∧ s.runahead = []) ∧
    (∃ (s : State) (f : Nat) (sl : Nat) (c : Nat) (r : Recovery), recovering s f sl r ∧ s.coreAt f sl = some c ∧ c < 144 ∧ r.phase = 1) ∧
    (∃ (s : State) (f : Nat) (sl : Nat) (bad : Nat) (r : Recovery) (l : List (Nat × Nat × Nat)), recovering s f sl r ∧ r.phase = 2 ∧ r.mark < s.tb.ticks ∧ r.part < 64 ∧ s.reloadTable r.part (s.nat (kReloadPtr f sl)) = some (l, bad)) ∧
    (∃ (s : State) (f : Nat) (sl : Nat) (c : Nat) (r : Recovery), recovering s f sl r ∧ s.coreAt f sl = some c ∧ r.phase = 3 ∧ r.ranges = [] ∧ r.runs ≠ []) ∧
    (∃ (s : State) (f : Nat) (sl : Nat) (c : Nat) (off : Nat) (src : Nat) (r : Recovery) (l : List Byte), recovering s f sl r ∧ s.coreAt f sl = some c ∧ r.phase = 3 ∧ r.ranges = [(off, 256, src)] ∧ src % 256 = 0 ∧ r.part < 64 ∧ l.length = 256 ∧ s.vaRead r.part src 256 = some l) ∧
    (∃ (s : State) (f : Nat) (sl : Nat) (c : Nat) (off : Nat) (src : Nat) (r : Recovery) (l : List Byte), recovering s f sl r ∧ s.coreAt f sl = some c ∧ r.phase = 3 ∧ r.ranges = [(off, 256, src)] ∧ src % 256 = 0 ∧ r.part < 64 ∧ l.length = 256 ∧ s.vaRead r.part src 256 = none) :=
  ⟨⟨atTick 1 (inRecovery recovery0), 0, 0, 1, recovery0, by unfold recovering; decide +kernel, by decide +kernel⟩,
   ⟨{ atTick 1 (inRecovery recovery0) with fcFailed := [0] }, 0, 0, recovery0, by unfold recovering; decide +kernel, by decide +kernel⟩,
   ⟨inRecovery ({ recovery0 with phase := 1 }), 0, 0, 0, { recovery0 with phase := 1 }, by unfold recovering; decide +kernel, by decide +kernel⟩,
   ⟨atTick 1 (inRecovery ({ recovery0 with phase := 2 })), 0, 0, 0, { recovery0 with phase := 2 }, [], by unfold recovering; decide +kernel, by decide +kernel⟩,
   ⟨inRecovery ({ recovery0 with phase := 3, runs := [⟨descOf 5 1 0x13, false⟩] }), 0, 0, 0, { recovery0 with phase := 3, runs := [⟨descOf 5 1 0x13, false⟩] }, by unfold recovering; decide +kernel, by decide +kernel⟩,
   ⟨{ part1Mapped with recov := [{ recovery0 with phase := 3, ranges := [(0x100, 256, 0x1000)] }] }, 0, 0, 0, 0x100, 0x1000, { recovery0 with phase := 3, ranges := [(0x100, 256, 0x1000)] }, (({ part1Mapped with recov := [{ recovery0 with phase := 3, ranges := [(0x100, 256, 0x1000)] }] }).vaRead 1 0x1000 256).getD [], by unfold recovering; decide +kernel, by decide +kernel⟩,
   ⟨inRecovery ({ recovery0 with phase := 3, ranges := [(0x100, 256, 0x1000)] }), 0, 0, 0, 0x100, 0x1000, { recovery0 with phase := 3, ranges := [(0x100, 256, 0x1000)] }, List.replicate 256 1, by unfold recovering; decide +kernel, by decide +kernel⟩⟩

theorem witness_RecoveriesAndRestarts :
    (∃ (s : State) (f sl c : Nat) (r : Recovery) (x : RecRun) (rest : List RecRun) (o : RunObs), recovering s f sl r ∧ s.coreAt f sl = some c ∧ r.phase = 4 ∧ r.mark < s.tb.ticks ∧ r.runs = x :: rest ∧ x.reissue = false ∧ s.runahead = []) ∧
    (∃ (s : State) (f sl c : Nat) (r : Recovery) (x : RecRun) (rest : List RecRun) (o : RunObs), recovering s f sl r ∧ s.coreAt f sl = some c ∧ r.phase = 4 ∧ r.mark < s.tb.ticks ∧ r.runs = x :: rest ∧ x.reissue = false ∧ s.tb.window = .compute ∧ s.runLeft r x = true ∧ x.desc.opcode = 1 ∧ x.desc.prog.genStart = [] ∧ o = {} ∧ (∀ w, w ∈ s.posted → w.desc ≠ s.nextId)) ∧
    (∃ (s : State) (f sl c : Nat) (r : Recovery) (x : RecRun) (rest : List RecRun) (o : RunObs), recovering s f sl r ∧ s.coreAt f sl = some c ∧ r.phase = 4 ∧ r.mark < s.tb.ticks ∧ r.runs = x :: rest ∧ s.tb.window = .compute ∧ s.runLeft r x = false) ∧
    (∃ (s : State) (p : Nat) (r : Recovery), p < 64 ∧ s.recov = [r] ∧ r.part = p ∧ r.done = true ∧ s.holds = [] ∧ s.partState p ≠ 0) ∧
    (∃ (s : State) (p : Nat) (r : Recovery), s.recov = [r] ∧ r.part = p ∧ r.done = false ∧ s.holds = []) ∧
    (∃ (s : State) (f : Nat), f < 16 ∧ f ∉ s.fcFailed ∧ (∀ h, h ∈ s.holds → h.frond ≠ some f) ∧ s.runahead = []) ∧
    (∃ (s : State) (f p start : Nat), p < 64 ∧ s.holds = [⟨some f, [p], start⟩] ∧ s.recov = [] ∧ s.partState p ≠ 0 ∧ (s.recent 1000000000 (Tbl.get [] s.fcRestarts f)).length < 3) ∧
    (∃ (s : State) (f : Nat) (h : Hold), f < 16 ∧ s.holds = [h] ∧ h.frond = some f ∧ s.runahead = []) :=
  ⟨⟨atTick 1 (inRecovery (rerun (fillDesc))), 0, 0, 0, rerun fillDesc, ⟨fillDesc, false⟩, [], {}, by unfold recovering; decide +kernel⟩,
   ⟨atTick 1 (inRecovery (rerun (descOf 5 1 1))), 0, 0, 0, rerun (descOf 5 1 1), ⟨descOf 5 1 1, false⟩, [], {}, by unfold recovering; decide +kernel⟩,
   ⟨(atTick 1 (inRecovery (rerun (descOf 5 1 1)))).setNat (kPartRun 1) 3, 0, 0, 0, rerun (descOf 5 1 1), ⟨descOf 5 1 1, false⟩, [], {}, by unfold recovering; decide +kernel⟩,
   ⟨inRecovery { recovery0 with done := true }, 1, { recovery0 with done := true }, by decide +kernel⟩,
   ⟨inRecovery recovery0, 1, recovery0, by decide +kernel⟩,
   ⟨part1, 15, by decide +kernel⟩,
   ⟨{ part1 with holds := [⟨some 0, [1], 0⟩], fcRestarts := [(0, [0, 0])] }, 0, 1, 0, by decide +kernel⟩,
   ⟨{ part1 with holds := [⟨some 0, [1], 0⟩] }, 0, ⟨some 0, [1], 0⟩, by decide +kernel⟩⟩

theorem witness_FirmwareSwap :
    (∃ (s : State) (who : Requester) (sigOk : Bool) (r : Nat), accepts s who .fwSwapCtrl kFwSwapCtrl 1 ∧ pkgCheck s.swapRead s.swapChunk (s.nat kStepping) (s.nat kFwSvnFloor) sigOk = r ∧ s.nat kFwSwapState ≠ 1 ∧ s.nat kFwSwapState ≠ 3 ∧ r = 0) ∧
    (∃ (s : State) (who : Requester) (sigOk : Bool) (r : Nat), accepts s who .fwSwapCtrl kFwSwapCtrl 1 ∧ pkgCheck s.swapRead s.swapChunk (s.nat kStepping) (s.nat kFwSvnFloor) sigOk = r ∧ s.nat kFwSwapState ≠ 1 ∧ s.nat kFwSwapState ≠ 3 ∧ r ≠ 0) ∧
    (∃ (s : State), s.nat kFwSwapState = 1) ∧
    (∃ (s : State) (who : Requester), accepts s who .fwSwapCtrl kFwSwapCtrl 2 ∧ s.nat kFwSwapState = 2 ∧ s.frameNo + 2 ≤ s.nat kFwSwapFrame) ∧
    (∃ (s : State) (who : Requester), accepts s who .fwSwapCtrl kFwSwapCtrl 2 ∧ ((s.nat kFwSwapState ≠ 2 ∨ s.nat kFwSwapFrame < s.frameNo + 2))) ∧
    (∃ (s : State) (who : Requester), accepts s who .fwSwapCtrl kFwSwapCtrl 3 ∧ s.boot.revertOk = true ∧ s.nat kFwSwapState ≠ 3 ∧ s.frameNo + 2 ≤ s.nat kFwSwapFrame) ∧
    (∃ (s : State) (who : Requester), accepts s who .fwSwapCtrl kFwSwapCtrl 3 ∧ ((s.boot.revertOk = false ∨ s.nat kFwSwapFrame < s.frameNo + 2))) ∧
    (∃ (s : State) (who : Requester), accepts s who .fwSwapCtrl kFwSwapCtrl 4 ∧ ((s.nat kFwSwapState = 1 ∨ s.nat kFwSwapState = 2 ∨ s.nat kFwSwapState = 3))) ∧
    (∃ (s : State) (v : Nat) (n : Nat), s.boot.bankNew = some (v, n) ∧ v < 2 ^ 32 ∧ n < 2 ^ 16 ∧ s.nat kFwSwapState = 3 ∧ s.nat kFwSwapFrame ≤ s.frameNo ∧ ((∀ p, p < 64 → s.nat (kRecoveryState p) ≠ 1))) ∧
    (∃ (s : State) (v : Nat) (n : Nat), s.boot.bankNew = some (v, n) ∧ v < 2 ^ 32 ∧ n < 2 ^ 16 ∧ s.nat kFwSwapState = 3 ∧ ((s.frameNo < s.nat kFwSwapFrame ∨ ∃ p, p < 64 ∧ s.nat (kRecoveryState p) = 1))) :=
  ⟨⟨swapImage, .pf, true, 0, accepts_of (by decide +kernel), by decide +kernel⟩,
   ⟨devReady, .pf, false, 1, accepts_of (by decide +kernel), by decide +kernel⟩,
   ⟨devReady.setNat kFwSwapState 1, by decide +kernel⟩,
   ⟨(devReady.setNat kFwSwapState 2).setNat kFwSwapFrame 2, .pf, accepts_of (by decide +kernel), by decide +kernel⟩,
   ⟨(devReady.setNat kFwSwapState 2).setNat kFwSwapFrame 1, .pf, accepts_of (by decide +kernel), by decide +kernel⟩,
   ⟨{ devReady.setNat kFwSwapFrame 2 with boot := { revertOk := true } }, .pf, accepts_of (by decide +kernel), by decide +kernel⟩,
   ⟨{ devReady.setNat kFwSwapFrame 1 with boot := { revertOk := true } }, .pf, accepts_of (by decide +kernel), by decide +kernel⟩,
   ⟨devReady.setNat kFwSwapState 3, .pf, accepts_of (by decide +kernel), by decide +kernel⟩,
   ⟨{ devReady.setNat kFwSwapState 3 with boot := { bankNew := some (2^32-1, 65535) } }, 2^32-1, 65535, by decide +kernel⟩,
   ⟨{ (devReady.setNat kFwSwapState 3).setNat kFwSwapFrame 1 with boot := { bankNew := some (2^32-1, 65535) } }, 2^32-1, 65535, by decide +kernel⟩⟩

theorem witness_Bar4Aperture :
    (∃ (s u : State) (fn off a pa : Nat) (bytes : List Byte), s.fnUp fn = true ∧ s.ready = true ∧ a = s.nat (kApertureBase fn) + off ∧ bytes ≠ [] ∧ a % 256 + bytes.length ≤ 256 ∧ s.translate fn a true = (some pa, u) ∧ s.cuts = [] ∧ s.jobs = []) ∧
    (∃ (s u : State) (fn off a pa n : Nat), s.fnUp fn = true ∧ s.ready = true ∧ a = s.nat (kApertureBase fn) + off ∧ 0 < n ∧ a % 256 + n ≤ 256 ∧ s.translate fn a false = (some pa, u)) ∧
    (∃ (s u : State) (fn off a : Nat) (bytes : List Byte), s.fnUp fn = true ∧ s.ready = true ∧ a = s.nat (kApertureBase fn) + off ∧ bytes ≠ [] ∧ a % 256 + bytes.length ≤ 256 ∧ s.translate fn a true = (none, u) ∧ s.cuts = []) ∧
    (∃ (s u : State) (fn off a n : Nat), s.fnUp fn = true ∧ s.ready = true ∧ a = s.nat (kApertureBase fn) + off ∧ 0 < n ∧ a % 256 + n ≤ 256 ∧ s.translate fn a false = (none, u)) ∧
    (∃ (s : State) (fn a : Nat) (wr : Bool), 2 ^ 48 ≤ a) ∧
    (∃ (s : State) (fn off n : Nat), s.fnUp fn = true ∧ s.ready = false ∧ fn ≠ 0) ∧
    (∃ (s : State) (fn off : Nat), s.fnUp fn = true) :=
  ⟨⟨part1Mapped, (part1Mapped.translate 1 0x10000 true).2, 1, 0x10000, 0x10000, 0x10000, [1, 2, 3], by decide +kernel, by decide +kernel, by decide +kernel, by decide +kernel, by decide +kernel, pair_of (by decide +kernel), by decide +kernel⟩,
   ⟨part1Mapped, (part1Mapped.translate 1 0x10001 false).2, 1, 0x10001, 0x10001, 0x10001, 255, by decide +kernel, by decide +kernel, by decide +kernel, by decide +kernel, by decide +kernel, pair_of (by decide +kernel)⟩,
   ⟨part1Mapped, (part1Mapped.translate 1 0x20000000 true).2, 1, 0x20000000, 0x20000000, [1, 2, 3], by decide +kernel, by decide +kernel, by decide +kernel, by decide +kernel, by decide +kernel, pair_of (by decide +kernel), by decide +kernel⟩,
   ⟨part1Mapped, (part1Mapped.translate 1 0x20000000 false).2, 1, 0x20000000, 0x20000000, 256, by decide +kernel, by decide +kernel, by decide +kernel, by decide +kernel, by decide +kernel, pair_of (by decide +kernel)⟩,
   ⟨part1, 1, 2 ^ 48, true, by decide +kernel⟩,
   ⟨{ part1.setNat kBootState 6 with hbm := [] }, 1, 0, 4, by decide +kernel⟩,
   ⟨devReady, 0, 0, by decide +kernel⟩⟩

theorem witness_BusMastering :
    (∃ (s : State) (fn : Nat) (vec : Nat), s.linkDown = false ∧ vec ∉ (s.fn fn).unmasked) ∧
    (∃ (s : State) (fn : Nat) (vec : Nat), s.fnUp fn = true ∧ vec < vectorCount fn ∧ (s.fn fn).sends = true ∧ (s.fn fn).fnMask = false ∧ vec ∉ (s.fn fn).unmasked ∧ (s.fn fn).pendingVecs = [vec]) ∧
    (∃ (s : State) (fn : Nat) (vec : Nat), s.fnUp fn = true ∧ vectorCount fn ≤ vec) ∧
    (∃ (s : State) (fn : Nat), s.fnUp fn = true ∧ (s.fn fn).sends = true) ∧
    (∃ (s : State) (fn : Nat), s.fnUp fn = true ∧ (s.fn fn).d3hot = false ∧ (s.fn fn).fnMask = true) ∧
    (∃ (s : State) (fn : Nat), s.fnUp fn = true) :=
  ⟨⟨devReady, 0, 3, by decide +kernel⟩,
   ⟨withFn { bme := true, pendingVecs := [2047] }, 0, 2047, by decide +kernel⟩,
   ⟨devReady, 0, 2048, by decide +kernel⟩,
   ⟨withFn { bme := true, fnMask := true, unmasked := [3, 7], pendingVecs := [7, 4, 3] }, 0, by decide +kernel⟩,
   ⟨withFn { fnMask := true, held := [(0, [1]), (8, [2])] }, 0, by decide +kernel⟩,
   ⟨withFn { bme := true }, 0, by decide +kernel⟩⟩

theorem witness_FunctionsAndLink :
    (∃ (s : State) (n : Nat), s.fnUp 0 = true ∧ s.nat kVfsEnabled = 0 ∧ n ≤ 63) ∧
    (∃ (s : State), s.fnUp 0 = true ∧ s.nat kVfsEnabled ≠ 0) ∧
    (∃ (s : State) (p : Nat), s.fnUp p = true ∧ 1 ≤ p ∧ p < 64) ∧
    (∃ (s : State), s.fnUp 0 = true ∧ s.bootState = 1 ∧ s.nat kStageSource = 0xFF) ∧
    (∃ (s : State), s.nat kPowerState = 2 ∧ s.nat kLinkdownPolicy = 0 ∧ Memory.wf s = true) ∧
    (∃ (s : State), s.nat kPowerState = 2 ∧ s.nat kLinkdownPolicy ≠ 0) :=
  ⟨⟨devReady, 63, by decide +kernel⟩,
   ⟨part1, by decide +kernel⟩,
   ⟨part1, 1, by decide +kernel⟩,
   ⟨(booting 1).setNat kStageSource 0xFF, by decide +kernel⟩,
   ⟨devReady, by decide +kernel⟩,
   ⟨devReady.setNat kLinkdownPolicy 1, by decide +kernel⟩⟩

theorem witness_StopLine :
    (∃ (s : State), s.stop.asserted = false ∧ s.ready = true ∧ s.runahead = []) ∧
    (∃ (s : State), s.ready = false) ∧
    (∃ (s : State), s.stop.chatter = false ∧ s.stop.asserted = false ∧ s.ready = true ∧ s.runahead = []) ∧
    (∃ (s : State), s.stop.chatter = true) ∧
    (∃ (s : State), s.stop.chatter = false ∧ s.stop.asserted = true ∧ s.ready = true ∧ s.nat kStopState = 1) ∧
    (∃ (s : State), s.stop.chatter = true ∧ s.stop.asserted = true ∧ s.ready = true ∧ s.nat kStopState = 1) ∧
    (∃ (s : State) (who : Requester) (v : Word), accepts s who .stopRearm kStopRearm v ∧ v ≠ 0 ∧ s.nat kStopState = 2) ∧
    (∃ (s : State) (who : Requester) (v : Word), accepts s who .stopRearm kStopRearm v ∧ v ≠ 0 ∧ s.nat kStopState ≠ 2) ∧
    (∃ (s : State) (who : Requester) (v : Word), accepts s who .stopRearm kStopRearm v ∧ v = 0) :=
  ⟨⟨devReady, by decide +kernel⟩,
   ⟨booting 1, by decide +kernel⟩,
   ⟨devReady, by decide +kernel⟩,
   ⟨{ devReady with stop := { chatter := true, asserted := true } }, by decide +kernel⟩,
   ⟨{ devReady.setNat kStopState 1 with stop := { asserted := true } }, by decide +kernel⟩,
   ⟨{ devReady.setNat kStopState 1 with stop := { chatter := true, asserted := true } }, by decide +kernel⟩,
   ⟨devReady.setNat kStopState 2, .pf, 1, accepts_of (by decide +kernel), by decide +kernel⟩,
   ⟨devReady, .pf, 1, accepts_of (by decide +kernel), by decide +kernel⟩,
   ⟨devReady, .pf, 0, accepts_of (by decide +kernel), by decide +kernel⟩⟩

theorem witness_ExactArithmetic :
    (∃ (wide : Bool) (w a m : Nat) (acts : List Int) (ws : List (Option Nat)) (acc : Int × Nat), 1 ≤ w ∧ 1 ≤ a ∧ (∀ v, v ∈ acts → -(2 ^ (a - 1)) ≤ v ∧ v < 2 ^ (a - 1)) ∧ (∀ c, some c ∈ ws → c < 2 ^ w)) ∧
    (∃ (k n : Nat) (p : Int), 1 ≤ k ∧ p < 0 ∧ p + 17 * k = n) ∧
    (∃ (wide : Bool) (w a m wcode : Nat) (acts : List Int) (ws : List (Option Nat)) (acc : Int × Nat), (a + 3) / 4 * w ≤ m ∧ (tpStep wide wcode w a m acts ws acc).2 = acc.2) ∧
    (∃ (acc : Int × Nat) (v : Int), (accAdd false acc v).2 = acc.2 ∧ (accAdd true acc v).2 = acc.2) ∧
    (∃ (m : Int) (k : Nat), 1 ≤ k ∧ 2 * (roundShift .rne m k * 2 ^ k - m).natAbs = 2 ^ k) ∧
    (∃ (m : Int) (k : Nat), m % 2 ^ k = 0) ∧
    (∃ (k n : Nat) (p : Int), 1 ≤ k ∧ p < 0 ∧ p + 17 * k = n ∧ 1 ≤ linearForm k p) :=
  ⟨⟨false, 2, 2, 2, [-2, 1], [some 3, some 0], (5, 0), by decide +kernel, by decide +kernel, by decide +kernel, fun c hc => by simp at hc; omega⟩,
   ⟨2, 33, -1, by decide +kernel⟩,
   ⟨false, 2, 2, 2, 0, [-2, 1], [some 3, some 0], (5, 0), by decide +kernel⟩,
   ⟨(2 ^ 31 - 2, 0), 1, by decide +kernel⟩,
   ⟨-12, 3, by decide +kernel⟩,
   ⟨-16, 3, by decide +kernel⟩,
   ⟨2, 33, -1, by decide +kernel⟩⟩

theorem witness_FormatsReadBack :
    (∃ (w : Nat) (l : List Nat), 1 ≤ w ∧ ((∀ c, c ∈ l → c < 2 ^ w))) ∧
    (∃ (tn : Nat) (kp : Nat) (planes : Nat) (n : Nat) (codes : Nat → List Nat), tn % 64 = 0 ∧ kp % 256 = 0 ∧ n < tn ∧ ((∀ m, m < tn → (codes m).length = kp ∧ ∀ c, c ∈ codes m → c < 2 ^ planes))) ∧
    (∃ (typ : Nat) (slot : Nat) (cell : Nat) (frameLo : Nat) (chan : Nat) (lenM1 : Nat) (offset : Nat) (last : Bool) (payload : List Byte) (l : List Byte), 1 ≤ typ ∧ typ ≤ 6 ∧ slot < 1024 ∧ cell < 1024 ∧ frameLo < 65536 ∧ chan < 256 ∧ lenM1 < 256 ∧ offset < 2 ^ 32 ∧ payload.length ≤ 256 ∧ l = formCell typ slot cell frameLo chan lenM1 offset last payload) :=
  ⟨⟨3, [7, 0, 5], by decide +kernel⟩,
   ⟨64, 256, 2, 63, fun m => List.replicate 256 (m % 4), by decide +kernel⟩,
   ⟨6, 1023, 1023, 65535, 255, 255, 2^32-1, true, List.replicate 256 5, formCell 6 1023 1023 65535 255 255 (2^32-1) true (List.replicate 256 5), by decide +kernel⟩⟩

theorem witness_FillAndCopy :
    (∃ (s : State) (id : Nat) (d : Desc) (c : Nat) (a : SAddr), onCore s id 0x13 d c ∧ d.torn = false ∧ decodeSAddr (d.at 16 4) = some a ∧ 0 < d.at 20 4 ∧ a.off % a.row + d.at 20 4 ≤ a.row ∧ s.filterOk d.part a = true) ∧
    (∃ (s : State) (id : Nat) (d : Desc) (c : Nat) (a b : SAddr), onCore s id 0x14 d c ∧ d.torn = false ∧ s.posted = [] ∧ decodeSAddr (d.at 16 4) = some a ∧ decodeSAddr (d.at 20 4) = some b ∧ d.at 24 2 = 1 ∧ a.fs = b.fs ∧ a.off % a.row = 0 ∧ b.off % b.row = 0 ∧ s.filterOk d.part a = true ∧ s.filterOk d.part b = true ∧ s.eccRow a a.row = (0, 0) ∧ (a.fs = true ∨ s.slotStopped a.frond a.slot = false)) ∧
    (∃ (s : State) (id : Nat) (d : Desc) (c k n : Nat) (a b : SAddr), onCore s id 0x14 d c ∧ d.torn = false ∧ s.posted = [] ∧ decodeSAddr (d.at 16 4) = some a ∧ decodeSAddr (d.at 20 4) = some b ∧ d.at 24 2 = 1 ∧ a.fs = true ∧ b.fs = true ∧ a.off % a.row = 0 ∧ s.filterOk d.part a = true ∧ s.eccRow a a.row = (k, n) ∧ 0 < n) ∧
    (∃ (s : State) (id op : Nat) (d : Desc) (c : Nat) (i : Instr), onCore s id op d c ∧ d.torn = false ∧ s.cuts = [] ∧ (op, i) ∈ [(0x12, Instr.reduce id { tableBad := true }), (0x15, .transfer id { tableBad := true }), (0x16, .bucketForm id { tableBad := true })]) ∧
    (∃ (s : State) (id op : Nat) (d : Desc) (c : Nat) (i : Instr), onCore s id op d c ∧ d.torn = false ∧ s.cuts = [] ∧ (op, i) ∈ [(0x12, Instr.reduce id { tableBad := true }), (0x15, .transfer id { tableBad := true }), (0x16, .bucketForm id { tableBad := true })]) ∧
    (∃ (s : State) (id op : Nat) (d : Desc) (c : Nat) (i : Instr), onCore s id op d c ∧ d.torn = false ∧ s.cuts = [] ∧ (op, i) ∈ [(0x12, Instr.reduce id { tableBad := true }), (0x15, .transfer id { tableBad := true }), (0x16, .bucketForm id { tableBad := true })]) :=
  ⟨⟨running fillDesc, 5, fillDesc, 0, ⟨false, 0, 0, 0x1010⟩, by unfold onCore; decide +kernel⟩,
   ⟨{ running (copyDesc 0) with ls := putBytes [] 0x1000 [1, 2, 3] }, 5, copyDesc 0, 0, ⟨false, 0, 0, 0x1000⟩, ⟨false, 0, 0, 0x2000⟩, by unfold onCore; decide +kernel⟩,
   ⟨{ running (copyDesc 1) with flips := [(fsUnit 0 0x1000, 3)] }, 5, copyDesc 1, 0, 0, 1, ⟨true, 0, 0, 0x1000⟩, ⟨true, 0, 0, 0x2000⟩, by unfold onCore; decide +kernel⟩,
   ⟨running (descOf 5 1 18), 5, 18, descOf 5 1 18, 0, .reduce 5 { tableBad := true }, by unfold onCore; decide +kernel⟩,
   ⟨running (descOf 5 1 21), 5, 21, descOf 5 1 21, 0, .transfer 5 { tableBad := true }, by unfold onCore; decide +kernel⟩,
   ⟨running (descOf 5 1 22), 5, 22, descOf 5 1 22, 0, .bucketForm 5 { tableBad := true }, by unfold onCore; decide +kernel⟩⟩

theorem witness_AccessesStayInside :
    (∃ (s u : State) (p va pa : Nat) (wr : Bool), s.translate p va wr = (some pa, u)) ∧
    (∃ (s : State) (fn off a : Nat) (req : Bar4Req), s.nat (kShadowBase fn) % 256 = 0 ∧ s.ownsPa fn a = false ∧ (∀ x ∈ s.cuts, s.ownsPa x.2.tag.part a = false ∧ s.nat (kShadowBase x.2.tag.part) % 256 = 0)) :=
  ⟨⟨part1Mapped, (part1Mapped.translate 1 0x10000 true).2, 1, 0x10000, 0x10000, true, pair_of (by decide +kernel)⟩,
   ⟨{ part1Mapped with cuts := [(1, { tag := ⟨1, 3, 0, 0⟩ })] }, 1, 0, 2 ^ 28, .read 4 none none, by decide +kernel⟩⟩

theorem witness_ApertureBaseRange : ∃ (s : State) (who : Requester) (p : Nat) (v : Word), p < 64 ∧ ((who = .pf ∨ who = .vf p)) ∧ s.requesterOk who = true ∧ s.ready = true ∧ ((v.toNat % 65536 ≠ 0 ∨ 2 ^ 48 ≤ v.toNat)) :=
  ⟨part1, .vf 1, 1, 0x1000000000000, by decide +kernel⟩

theorem witness_RepeatedSegments :
    (∃ (s : State) (node : Nat) (txn : Nat) (k : Nat) (x : SegSt), heardFrom s node ∧ s.seg? node = some x ∧ x.tid = txn ∧ x.next = k + 1 ∧ x.writes = false) ∧
    (∃ (s : State) (node : Nat) (txn : Nat) (k : Nat) (x : SegSt), heardFrom s node ∧ s.seg? node = some x ∧ x.tid = txn ∧ x.next = k + 1 ∧ x.writes = true) :=
  ⟨⟨withMario { segs := [(⟨1,9,0x1000,1,false,57,List.replicate 57 1,1,[4,4]⟩)] }, 1, 9, 0, ⟨1,9,0x1000,1,false,57,List.replicate 57 1,1,[4,4]⟩, by unfold heardFrom; decide +kernel, by decide +kernel⟩,
   ⟨withMario { segs := [(⟨1,9,0x1000,1,true,57,List.replicate 57 1,1,[4,4]⟩)] }, 1, 9, 0, ⟨1,9,0x1000,1,true,57,List.replicate 57 1,1,[4,4]⟩, by unfold heardFrom; decide +kernel, by decide +kernel⟩⟩

end Sys2Proof.Tests
end

namespace Sys2Proof.Safety

open Sys2Proof.Machine

section RingControl

variable (s : State) (who : Requester) (r : Nat)

/-- RING_ENABLE is a write of 2 to the ring's RING_CTRL (R496). -/
theorem exec_ringEnable : exec (.ringEnable who r) s =
    .next (s.slotWrite who .ringCtrl (kRingCtrl r) 2 (enableRing r)) := rfl

/-- RING_DISABLE is a write of 3 to the ring's RING_CTRL (R497). -/
theorem exec_ringDisable : exec (.ringDisable who r) s =
    .next (s.slotWrite who .ringCtrl (kRingCtrl r) 3 (disableRing r)) := rfl

variable {s r}

/-- ENABLE of a QUIESCING ring is not refused, and sets nothing but REENABLE_PENDING (R499). -/
theorem enableRing_of_quiescing (hq : s.ringLife r = 2) (l : EntLoc) :
    enableRing r s l = .ok (s.setNat (kReenablePending r) 1) := by
  simp [enableRing, hq]

/-- DISABLE of a QUIESCING ring is not refused, and clears nothing but REENABLE_PENDING (R499). -/
theorem disableRing_of_quiescing (hq : s.ringLife r = 2) (l : EntLoc) :
    disableRing r s l = .ok (s.setNat (kReenablePending r) 0) := by
  simp [disableRing, hq]

end RingControl

/-- Settles O28: on a QUIESCING ring the effect of each write is its change of REENABLE_PENDING, and an accepted write
whose effect is not refused is applied. -/
theorem enableWhileQuiescing : Obligations.EnableWhileQuiescing := by
  intro s who r
  constructor
  · intro haccepts hq
    rw [exec_ringEnable, State.slotWrite_applied haccepts (enableRing_of_quiescing hq)]
  · intro haccepts hq
    rw [exec_ringDisable, State.slotWrite_applied haccepts (disableRing_of_quiescing hq)]

end Sys2Proof.Safety

namespace Sys2Proof.Safety

open Sys2Proof.Machine

/-! ### The Dictionary Access Protocol on Strings (R654 to R658) -/

/-- What one frame `b` of function `func` on Strings changes: it goes out, and STRINGS_LINE and ACK_ERRORS may follow it
(R822). -/
def frameSent (s t : State) (func : Nat) (b : List Byte) : Prop :=
  t.out = s.out ++ [.strings (s.canId func) b] ∧ t.mario = s.mario ∧ slotsKept s t [kStringsLine, kAckErrors] ∧
  areasKept s t ∧ memoryKept s t ∧ workKept s t

section StringsAnswers

variable {s : State} {node : Nat}

/-- A sent frame reaches the outputs, the slots of the line's state and the free values, and no other part of the state. -/
theorem sendStrings_eq_of_up (hup : s.stringsUp = true) (func : Nat) (b : List Byte) :
    ∃ u : State, slotsKept s u [kStringsLine, kAckErrors] ∧
      s.sendStrings func b =
        { s with out := s.out ++ [.strings (s.canId func) b], regs := u.regs, free := u.free } := by
  simp only [State.sendStrings, hup, if_true]
  split
  · split
    · refine ⟨s.takeFree.setNat kStringsLine 0, fun k hk => ?_, rfl⟩
      rw [State.reg_setNat_other _ _ (List.ne_of_not_mem_cons hk)]
      rfl
    · refine ⟨s.takeFree.bump kAckErrors, fun k hk => ?_, rfl⟩
      rw [State.reg_bump_other _ _ _ (List.ne_of_not_mem_cons (List.not_mem_of_not_mem_cons hk))]
      rfl
  · exact ⟨s, fun _ _ => rfl, rfl⟩

/-- Sending keeps memory, work, areas and the Marionette, as an acknowledgement only moves the slots of the line (R822). -/
theorem frameSent_sendStrings (hup : s.stringsUp = true) (func : Nat) (b : List Byte) :
    frameSent s (s.sendStrings func b) func b := by
  obtain ⟨u, hslots, heq⟩ := sendStrings_eq_of_up hup func b
  rw [heq]
  exact ⟨rfl, rfl, hslots, fun _ _ => rfl,
    ⟨fun _ => rfl, fun _ => rfl, fun _ => rfl, fun _ => rfl, fun _ _ => rfl, fun _ => rfl, fun _ => rfl⟩,
    rfl, rfl, rfl, rfl, rfl⟩

/-- A REQUEST of a node that is heard is taken (R652, R655). -/
theorem request_of_heardFrom (h : heardFrom s node) (f : State → State) : s.request node f = f s := by
  obtain ⟨hhears, hnode, hlt, hother, hup⟩ := h
  simp [State.request, State.fromNode, hhears, hnode, hlt, hother, hup]

/-- A RESPONSE in the state of its request is one frame of function 3 (R655). -/
theorem frameSent_respond (h : heardFrom s node) (b : List Byte) : frameSent s (s.respond s b) 3 b := by
  obtain ⟨-, -, -, -, hup⟩ := h
  simpa only [State.respond, hup, if_true] using frameSent_sendStrings hup 3 b

/-- The segment before the expected one is answered with the last RESPONSE, and is not served (R658). -/
theorem segment_of_repeated {x : SegSt} {k : Nat} (h : heardFrom s node) (hseg : s.seg? node = some x)
    (hnext : x.next = k + 1) (op idx sub : Nat) (f : SegSt → State → State) :
    s.segment node x.tid op idx sub k x.writes f = s.respond s x.last := by
  rw [State.segment, request_of_heardFrom h]
  simp [hseg, hnext]

/-- SEG_READ_NEXT serves a segment of a transfer that reads (R657). -/
theorem exec_segReadNext (txn idx sub k : Nat) :
    ∃ f, exec (.segReadNext node txn idx sub k) s = .next (s.segment node txn 4 idx sub k false f) := ⟨_, rfl⟩

/-- SEG_WRITE_DATA serves a segment of a transfer that writes (R657). -/
theorem exec_segWriteData (txn idx sub k : Nat) (data : List Byte) :
    ∃ f, exec (.segWriteData node txn idx sub k data) s = .next (s.segment node txn 6 idx sub k true f) := ⟨_, rfl⟩

end StringsAnswers

/-- Settles O59: in both directions a repeated segment leads to nothing but the RESPONSE sent before, whatever serving the
segment would have done. -/
theorem repeatedSegments : Obligations.RepeatedSegments := by
  rintro s node _ idx sub k x hheard hseg rfl hnext
  constructor
  · intro hreads
    obtain ⟨f, hexec⟩ := exec_segReadNext (s := s) (node := node) x.tid idx sub k
    rw [← hreads, segment_of_repeated hheard hseg hnext] at hexec
    exact ⟨_, hexec, frameSent_respond hheard x.last⟩
  · intro data hwrites
    obtain ⟨f, hexec⟩ := exec_segWriteData (s := s) (node := node) x.tid idx sub k data
    rw [← hwrites, segment_of_repeated hheard hseg hnext] at hexec
    exact ⟨_, hexec, frameSent_respond hheard x.last⟩

end Sys2Proof.Safety

namespace Sys2Proof.Safety

open Sys2Proof.Machine

/-! ### APERTURE_BASE (R784) -/

section IllegalValue

variable {s : State} {who : Requester} {idx sub : Nat} {v : Word} {l : EntLoc}

/-- On a READY die a write that its requester may make is refused with RANGE when the value is not legal (R833). -/
theorem gateWrite_of_illegal (hready : s.ready = true) (hfind : findEntry idx sub = some l)
    (hmay : s.mayWrite who l (some v.toNat) = true) (hshort : l.row.ty.long = false) (hacc : l.row.acc ≠ .ro)
    (hillegal : entLegal l.row.ent v.toNat = false) : s.gateWrite who idx sub v = .error .range := by
  have hentry : s.gateEntry who idx sub true (some v.toNat) = .ok l := by
    simp [State.gateEntry, hfind, hready, hacc, hmay]
  simp [State.gateWrite, hentry, hshort, hacc, hillegal]

/-- A write of a slot that fails a test of R833 changes only the requester's area. -/
theorem dictSlot_gated {r : Reason} {f : State → EntLoc → Except Reason State} (hreq : s.requesterOk who = true)
    (hgate : s.gateWrite who idx sub v = .error r) : s.dictSlot who idx sub v f = s.refuse who r idx sub := by
  simp [State.dictSlot, hreq, hgate, State.finishWrite]

/-- A value that is not legal leads to the tests of R833, whatever command the entry has; SWITCH_FRAME alone has tests of
its own. -/
theorem writeSlot_of_illegal (hfind : findEntry idx sub = some l) (hent : l.row.ent ≠ .switchFrame)
    (hillegal : entLegal l.row.ent v.toNat = false) :
    s.writeSlot who idx sub v = s.dictSlot who idx sub v (pokeEntry who (slotKey idx sub) v) := by
  simp [State.writeSlot, hfind, hent, hillegal]

end IllegalValue

/-- A DICT_WRITE of the PF or of a VF that covers the whole slot `k` of BAR2 is a write of that slot (R604, R607). -/
theorem exec_dictWrite_slot {s : State} {who : Requester} {p k : Nat} (hwho : who = .pf ∨ who = .vf p)
    (hreq : s.requesterOk who = true) (hk : k < 2 ^ 24) (v : Word) :
    exec (.dictWrite who (8 * k) 8 v) s = .next (s.writeSlot who (k / 256) (k % 256) v) := by
  have hidx : 8 * k / 2048 = k / 256 := by omega
  have hin : ¬ 134217728 ≤ 8 * k := by omega
  change execDictWrite who (8 * k) 8 v s = _
  rcases hwho with rfl | rfl <;> simp [execDictWrite, hreq, hidx, hin]

/-- APERTURE_BASE of partition `p` as the map holds it (Table 21.3). -/
def apertureBaseLoc (p : Nat) : EntLoc :=
  { row := ⟨.apertureBase, 0x1005, 0x10000, 1, 1, 0x00, 0x3F, .u64, .rw, .no, .po, 0⟩, inst := 0, elem := p }

section ApertureBase

variable {p : Nat}

/-- The map holds APERTURE_BASE of partition `p` at the slot numbered `kApertureBase p`. -/
theorem findEntry_kApertureBase (hp : p < 64) :
    findEntry (kApertureBase p / 256) (kApertureBase p % 256) = some (apertureBaseLoc p) := by
  have hidx : kApertureBase p / 256 = 0x1005 := by unfold kApertureBase; omega
  have hsub : kApertureBase p % 256 = p := by unfold kApertureBase; omega
  have hhi : p ≤ 0x3F := by omega
  rw [hidx, hsub]
  simp [findEntry, rowsFor, rowsIdentity, rowsIdentity1, rowsIdentity2, rowsIdentity3, findRow, EntRow.instOf, hhi,
    apertureBaseLoc]

/-- APERTURE_BASE belongs to the partition that numbers it (Table 21.2). -/
theorem entOwner_apertureBaseLoc (s : State) (v : Option Nat) : s.entOwner (apertureBaseLoc p) v = p := by
  simp [State.entOwner, apertureBaseLoc, EntRow.partRange]

/-- The PF and the VF of the partition reach APERTURE_BASE (P+o of Table 21.2). -/
theorem mayWrite_apertureBaseLoc {who : Requester} (hwho : who = .pf ∨ who = .vf p) (s : State) (v : Option Nat) :
    s.mayWrite who (apertureBaseLoc p) v = true := by
  simp only [State.mayWrite, entOwner_apertureBaseLoc]
  rcases hwho with rfl | rfl <;> simp [apertureBaseLoc, EntRow.partRange, clsOk]

/-- The values R784 refuses are those that are not legal for APERTURE_BASE. -/
theorem entLegal_apertureBase_eq_false {n : Nat} (hbad : n % 65536 ≠ 0 ∨ 2 ^ 48 ≤ n) :
    entLegal .apertureBase n = false := by
  simp only [entLegal, Bool.and_eq_false_iff, beq_eq_false_iff_ne, decide_eq_false_iff_not, not_lt]
  exact hbad

end ApertureBase

/-- Settles O58: the value fails the RANGE test of R833, which the PF and the partition's VF both reach. -/
theorem apertureBaseRange : Obligations.ApertureBaseRange := by
  intro s who p v hp hwho hreq hready hbad
  have hfind := findEntry_kApertureBase hp
  have hillegal : entLegal (apertureBaseLoc p).row.ent v.toNat = false := entLegal_apertureBase_eq_false hbad
  have hgate : s.gateWrite who (kApertureBase p / 256) (kApertureBase p % 256) v = .error .range :=
    gateWrite_of_illegal hready hfind (mayWrite_apertureBaseLoc hwho s _) rfl nofun hillegal
  have hslot : kApertureBase p < 2 ^ 24 := by unfold kApertureBase; omega
  rw [exec_dictWrite_slot hwho hreq hslot, writeSlot_of_illegal hfind nofun hillegal, dictSlot_gated hreq hgate]

end Sys2Proof.Safety

namespace Sys2Proof.Safety

open Sys2Proof.Machine

/-! ### Every command keeps the canonical form (O3) and completes (O4) -/

/-- Every command keeps the canonical form of every memory: each by the law of its own meaning. -/
theorem exec_keeps_mem (c : Instr) {s : State} (hs : Mem s) : MemO (exec c s) := by
  cases c with
  | frameBoundary => exact execFrameBoundary_wf hs
  | runaheadStart => exact execRunaheadStart_wf hs
  | maintenanceWindow => exact execMaintenanceWindow_wf hs
  | overrun => exact execOverrun_wf hs
  | geometrySwitch => exact execGeometrySwitch_wf hs
  | switchFrameWrite => exact execSwitchFrameWrite_wf hs
  | frameSeedWrite => exact execFrameSeedWrite_wf hs
  | syncInEdge => exact execSyncInEdge_wf hs
  | syncLineFault => exact execSyncLineFault_wf hs
  | syncStuck => exact execSyncStuck_wf hs
  | refQualified => exact execRefQualified_wf hs
  | refLost => exact execRefLost_wf hs
  | offsetExceeded => exact execOffsetExceeded_wf hs
  | lockAcquired => exact execLockAcquired_wf hs
  | freerunEntered => exact execFreerunEntered_wf hs
  | stepDone => exact execStepDone_wf hs
  | ptmDialogue => exact execPtmDialogue_wf hs
  | ptmResponse => exact execPtmResponse_wf hs
  | ptmTimeout => exact execPtmTimeout_wf hs
  | ptmEnableClear => exact execPtmEnableClear_wf hs
  | doorbell => exact execDoorbell_wf hs
  | entriesFetched => exact execEntriesFetched_wf hs
  | cqConsWrite => exact execCqConsWrite_wf hs
  | nop => exact execNop_wf hs
  | order => exact execOrder_wf hs
  | orderBegins => exact execOrderBegins_wf hs
  | precisionSet => exact execPrecisionSet_wf hs
  | matmul => exact execMatmul_wf hs
  | quantise => exact execQuantise_wf hs
  | reduce => exact execReduce_wf hs
  | fill => exact execFill_wf hs
  | copy => exact execCopy_wf hs
  | transfer => exact execTransfer_wf hs
  | bucketForm => exact execBucketForm_wf hs
  | attnScore => exact execAttnScore_wf hs
  | attnScoreRecompute => exact execAttnScoreRecompute_wf hs
  | attnNorm => exact execAttnNorm_wf hs
  | attnPv => exact execAttnPv_wf hs
  | kvAppend => exact execKvAppend_wf hs
  | kvRelease => exact execKvRelease_wf hs
  | pageExport => exact execPageExport_wf hs
  | cut => exact execCut_wf hs
  | replay => exact execReplay_wf hs
  | restore => exact execRestore_wf hs
  | reduceScatter => exact execReduceScatter_wf hs
  | allGather => exact execAllGather_wf hs
  | allReduce => exact execAllReduce_wf hs
  | broadcast => exact execBroadcast_wf hs
  | allToAll => exact execAllToAll_wf hs
  | rhizoid => exact execRhizoid_wf hs
  | boundsLanded => exact execBoundsLanded_wf hs
  | walkLanded => exact execWalkLanded_wf hs
  | operandFetchLanded => exact execOperandFetchLanded_wf hs
  | tileStart => exact execTileStart_wf hs
  | descriptorComplete => exact execDescriptorComplete_wf hs
  | writeLands => exact execWriteLands_wf hs
  | sectorZeroDone => exact execSectorZeroDone_wf hs
  | lsWeightMapWrite => exact execLsWeightMapWrite_wf hs
  | lsSpecMapWrite => exact execLsSpecMapWrite_wf hs
  | fsWeightMapWrite => exact execFsWeightMapWrite_wf hs
  | fsOwnerWrite => exact execFsOwnerWrite_wf hs
  | residueInjectWrite => exact execResidueInjectWrite_wf hs
  | precLayerWrite => exact execPrecLayerWrite_wf hs
  | shapeRegWrite => exact execShapeRegWrite_wf hs
  | bucketEdgeWrite => exact execBucketEdgeWrite_wf hs
  | ropeSetWrite => exact execRopeSetWrite_wf hs
  | kvPoolConfigWrite => exact execKvPoolConfigWrite_wf hs
  | poolEmptied => exact execPoolEmptied_wf hs
  | recompConsWrite => exact execRecompConsWrite_wf hs
  | streamUp => exact execStreamUp_wf hs
  | streamDown => exact execStreamDown_wf hs
  | recordSend => exact execRecordSend_wf hs
  | ackReceived => exact execAckReceived_wf hs
  | retransmit => exact execRetransmit_wf hs
  | cutFreeze => exact execCutFreeze_wf hs
  | recordReceived => exact execRecordReceived_wf hs
  | restoreTimeout => exact execRestoreTimeout_wf hs
  | winOpen => exact execWinOpen_wf hs
  | winClose => exact execWinClose_wf hs
  | winConsumedWrite => exact execWinConsumedWrite_wf hs
  | streamAckWrite => exact execStreamAckWrite_wf hs
  | regionWrite => exact execRegionWrite_wf hs
  | slotStart => exact execSlotStart_wf hs
  | cellReceived => exact execCellReceived_wf hs
  | markerReceived => exact execMarkerReceived_wf hs
  | violUnmute => exact execViolUnmute_wf hs
  | portEnable => exact execPortEnable_wf hs
  | portDisable => exact execPortDisable_wf hs
  | restoreLane => exact execRestoreLane_wf hs
  | trainingDone => exact execTrainingDone_wf hs
  | trainFail => exact execTrainFail_wf hs
  | laneFault => exact execLaneFault_wf hs
  | laneSwitch => exact execLaneSwitch_wf hs
  | laneConfirmTimeout => exact execLaneConfirmTimeout_wf hs
  | los => exact execLos_wf hs
  | slotTableWrite => exact execSlotTableWrite_wf hs
  | slotSwitchFrameWrite => exact execSlotSwitchFrameWrite_wf hs
  | slotBankSwitch => exact execSlotBankSwitch_wf hs
  | rocePacketReceived => exact execRocePacketReceived_wf hs
  | qpError => exact execQpError_wf hs
  | exchangeFrame => exact execExchangeFrame_wf hs
  | stageSettle => exact execStageSettle_wf hs
  | collectiveComplete => exact execCollectiveComplete_wf hs
  | collSlackExpiry => exact execCollSlackExpiry_wf hs
  | rhizoidStageReduced => exact execRhizoidStageReduced_wf hs
  | xwaitExpiry => exact execXwaitExpiry_wf hs
  | groupDefWrite => exact execGroupDefWrite_wf hs
  | planeWrite => exact execPlaneWrite_wf hs
  | partCreate => exact execPartCreate_wf hs
  | partDestroy => exact execPartDestroy_wf hs
  | partHalt => exact execPartHalt_wf hs
  | partResume => exact execPartResume_wf hs
  | partAbort => exact execPartAbort_wf hs
  | haltedReached => exact execHaltedReached_wf hs
  | ctxCreate => exact execCtxCreate_wf hs
  | ctxDestroy => exact execCtxDestroy_wf hs
  | ringCreate => exact execRingCreate_wf hs
  | ringEnable => exact execRingEnable_wf hs
  | ringDisable => exact execRingDisable_wf hs
  | ringDestroy => exact execRingDestroy_wf hs
  | drainComplete => exact execDrainComplete_wf hs
  | abortComplete => exact execAbortComplete_wf hs
  | abortStop => exact execAbortStop_wf hs
  | fenceCreate => exact execFenceCreate_wf hs
  | fenceDestroy => exact execFenceDestroy_wf hs
  | fenceSignalCmd => exact execFenceSignalCmd_wf hs
  | fenceReset => exact execFenceReset_wf hs
  | fenceSubsWrite => exact execFenceSubsWrite_wf hs
  | fenceHandleWrite => exact execFenceHandleWrite_wf hs
  | fencePageSignal => exact execFencePageSignal_wf hs
  | fencePageReset => exact execFencePageReset_wf hs
  | coreOwnerWrite => exact execCoreOwnerWrite_wf hs
  | granuleOwnerWrite => exact execGranuleOwnerWrite_wf hs
  | granuleZeroed => exact execGranuleZeroed_wf hs
  | mapBaseWrite => exact execMapBaseWrite_wf hs
  | mapSync => exact execMapSync_wf hs
  | runaheadWrite => exact execRunaheadWrite_wf hs
  | bulkRead => exact execBulkRead_wf hs
  | bulkWrite => exact execBulkWrite_wf hs
  | dictClear => exact execDictClear_wf hs
  | dictWrite => exact execDictWrite_wf hs
  | persistSave => exact execPersistSave_wf hs
  | persistSaveDone => exact execPersistSaveDone_wf hs
  | persistErase => exact execPersistErase_wf hs
  | sensorSample => exact execSensorSample_wf hs
  | powerOn => exact execPowerOn_wf hs
  | powerOff => exact execPowerOff_wf hs
  | chipReset => exact execChipReset_wf hs
  | powerCycle => exact execPowerCycle_wf hs
  | marionetteBoot => exact execMarionetteBoot_wf hs
  | marionetteRestart => exact execMarionetteRestart_wf hs
  | dapRead => exact execDapRead_wf hs
  | dapWrite => exact execDapWrite_wf hs
  | segReadInit => exact execSegReadInit_wf hs
  | segReadNext => exact execSegReadNext_wf hs
  | segWriteInit => exact execSegWriteInit_wf hs
  | segWriteData => exact execSegWriteData_wf hs
  | segAbort => exact execSegAbort_wf hs
  | segTransferTimeout => exact execSegTransferTimeout_wf hs
  | search => exact execSearch_wf hs
  | searchReply => exact execSearchReply_wf hs
  | lateSearchAnnounce => exact execLateSearchAnnounce_wf hs
  | announce => exact execAnnounce_wf hs
  | heartbeat => exact execHeartbeat_wf hs
  | nodePresent => exact execNodePresent_wf hs
  | nodeAbsent => exact execNodeAbsent_wf hs
  | dupId => exact execDupId_wf hs
  | busOffRecovery => exact execBusOffRecovery_wf hs
  | updateOpen => exact execUpdateOpen_wf hs
  | updateChunk => exact execUpdateChunk_wf hs
  | updateVerify => exact execUpdateVerify_wf hs
  | updateVerifyDone => exact execUpdateVerifyDone_wf hs
  | updateActivate => exact execUpdateActivate_wf hs
  | updateCommit => exact execUpdateCommit_wf hs
  | updateCancel => exact execUpdateCancel_wf hs
  | updateReverted => exact execUpdateReverted_wf hs
  | updateSessionTimeout => exact execUpdateSessionTimeout_wf hs
  | chipResetRelease => exact execChipResetRelease_wf hs
  | bootWaitEntered => exact execBootWaitEntered_wf hs
  | fwVerify => exact execFwVerify_wf hs
  | fwClear => exact execFwClear_wf hs
  | stagingWrite => exact execStagingWrite_wf hs
  | proxyCellReceived => exact execProxyCellReceived_wf hs
  | proxyBindTimeout => exact execProxyBindTimeout_wf hs
  | verifyDone => exact execVerifyDone_wf hs
  | proxyForward => exact execProxyForward_wf hs
  | proxySend => exact execProxySend_wf hs
  | fwStartDone => exact execFwStartDone_wf hs
  | hbmTrainDone => exact execHbmTrainDone_wf hs
  | linkTrainDone => exact execLinkTrainDone_wf hs
  | ready => exact execReady_wf hs
  | fwFloorRaise => exact execFwFloorRaise_wf hs
  | watchdogExpiry => exact execWatchdogExpiry_wf hs
  | coreFence => exact execCoreFence_wf hs
  | spareMapped => exact execSpareMapped_wf hs
  | spareSelftestDone => exact execSpareSelftestDone_wf hs
  | reloadStart => exact execReloadStart_wf hs
  | reloadLanded => exact execReloadLanded_wf hs
  | recoveryRunDone => exact execRecoveryRunDone_wf hs
  | recoveryDone => exact execRecoveryDone_wf hs
  | fcRestart => exact execFcRestart_wf hs
  | fcRestartDone => exact execFcRestartDone_wf hs
  | fwSwapVerify => exact execFwSwapVerify_wf hs
  | fwSwapStaged => exact execFwSwapStaged_wf hs
  | fwSwapSwap => exact execFwSwapSwap_wf hs
  | fwSwapRevert => exact execFwSwapRevert_wf hs
  | fwSwapCancel => exact execFwSwapCancel_wf hs
  | fwSwapApply => exact execFwSwapApply_wf hs
  | bar4Access => exact execBar4Access_wf hs
  | vfEnableClear => exact execVfEnableClear_wf hs
  | flr => exact execFlr_wf hs
  | pcieReset => exact execPcieReset_wf hs
  | dlDown => exact execDlDown_wf hs
  | msixUnmask => exact execMsixUnmask_wf hs
  | busMasterEnable => exact execBusMasterEnable_wf hs
  | inputEnable => exact execInputEnable_wf hs
  | inputUndervoltage => exact execInputUndervoltage_wf hs
  | inputFault => exact execInputFault_wf hs
  | inputReenable => exact execInputReenable_wf hs
  | thermTrip => exact execThermTrip_wf hs
  | stopAsserted => exact execStopAsserted_wf hs
  | stopChatter => exact execStopChatter_wf hs
  | chatterEnd => exact execChatterEnd_wf hs
  | stopReleased => exact execStopReleased_wf hs
  | stopRearm => exact execStopRearm_wf hs
  | stringsLineShort => exact execStringsLineShort_wf hs
  | stringsLineOpen => exact execStringsLineOpen_wf hs
  | dominantTimeout => exact execDominantTimeout_wf hs
  | syncLineOk => exact execSyncLineOk_wf hs
  | stringsReconnect => exact execStringsReconnect_wf hs
  | lossCleared => exact execLossCleared_wf hs
  | ethLinkUp => exact execEthLinkUp_wf hs
  | ethLinkDown => exact execEthLinkDown_wf hs
  | busMasterDisable => exact execBusMasterDisable_wf hs
  | dlUp => exact execDlUp_wf hs
  | vfEnableSet => exact execVfEnableSet_wf hs
  | ptmEnableSet => exact execPtmEnableSet_wf hs
  | proxySendDone => exact execProxySendDone_wf hs

/-- Taking a command off the queue changes no memory. -/
theorem mem_pending_irrel {s : State} (hs : Mem s) (rest : List Instr) : Mem { s with pending := rest } :=
  Mem.irrel hs rfl

/-- Settles O3: a step idles, or runs one command on the queue's rest. -/
theorem stepsKeepMemoryForm : Obligations.StepsKeepMemoryForm := by
  intro s t hs hstep
  unfold step at hstep
  split at hstep
  · cases hstep
    exact hs
  next i rest _ =>
    have hkeep := exec_keeps_mem i (mem_pending_irrel hs rest)
    rw [hstep] at hkeep
    cases hkeep with
    | next ht => exact ht

/-- An outcome that is a next state. -/
def Completes (o : Host.Outcome State Fault Refusal) : Prop := ∃ t, o = .next t

theorem completes_next (t : State) : Completes (.next t) := ⟨t, rfl⟩

/-- DICT_WRITE completes but for the Marionette's own write to its reserved diagnostics (log 43). -/
theorem execDictWrite_completes {who : Requester} {offset bytes : Nat} {v : Word} {s : State}
    (h : who = .marionette → offset / 2048 < 0xF000 ∨ 2 ^ 27 ≤ offset) : Completes (execDictWrite who offset bytes v s) := by
  unfold execDictWrite
  by_cases hin : 2 ^ 27 ≤ offset ∨ s.requesterOk who = false
  · exact ⟨s, if_pos hin⟩
  · simp only [hin, if_false]
    cases who with
    | marionette =>
      have hidx : ¬ 0xF000 ≤ offset / 2048 := by
        have := h rfl
        omega
      exact ⟨_, if_neg hidx⟩
    | strings node =>
      dsimp only
      split
      · exact completes_next _
      · split <;> exact completes_next _
    | pf =>
      dsimp only
      split <;> exact completes_next _
    | vf p =>
      dsimp only
      split <;> exact completes_next _

/-- Every other command answers a next state on each branch of its meaning. -/
theorem exec_completes (c : Instr) (s : State) (hc : ∀ who offset bytes v, c ≠ .dictWrite who offset bytes v) :
    Completes (exec c s) := by
  cases c
  case dictWrite who offset bytes v => exact absurd rfl (hc who offset bytes v)
  all_goals
    dsimp only [exec, execFrameBoundary, execMaintenanceWindow, execOverrun, execSwitchFrameWrite, execSyncInEdge, execSyncLineFault,
      execRefQualified, execRefLost, execOffsetExceeded, execLockAcquired, execFreerunEntered, execStepDone,
      execPtmDialogue, execPtmResponse, execPtmTimeout, execDoorbell, execEntriesFetched, execCqConsWrite, execWalkLanded,
      execRopeSetWrite, execKvPoolConfigWrite, execRetransmit, execCutFreeze, execRecordReceived, execRestoreTimeout,
      execRegionWrite, execMarkerReceived, execViolUnmute, execTrainingDone, execTrainFail, execLaneFault, execLaneSwitch,
      execLaneConfirmTimeout, execLos, execSlotTableWrite, execSlotSwitchFrameWrite, execRocePacketReceived, execCtxCreate,
      execRingCreate, execAbortComplete, execAbortStop, execFenceCreate, execFencePageSignal, execFencePageReset,
      execPersistSaveDone, execSensorSample, execMarionetteBoot, execMarionetteRestart, execDapRead, execDapWrite,
      execSegReadInit, execSegWriteData, execSearchReply, execLateSearchAnnounce, execAnnounce, execHeartbeat,
      execNodeAbsent, execDupId, execBusOffRecovery, execUpdateVerifyDone, execUpdateReverted, execUpdateSessionTimeout,
      execChipResetRelease, execBootWaitEntered, execStagingWrite, execProxyCellReceived, execProxyBindTimeout,
      execVerifyDone, execProxyForward, execFwStartDone, execHbmTrainDone, execLinkTrainDone, execReady, execWatchdogExpiry,
      execSpareMapped, execSpareSelftestDone, execReloadStart, execReloadLanded, execRecoveryRunDone, execRecoveryDone,
      execFcRestart, execFcRestartDone, execFwSwapStaged, execFwSwapApply, execBar4Access, execVfEnableClear, execFlr,
      execPcieReset, execDlDown, execMsixUnmask, execBusMasterEnable, execInputEnable, execInputUndervoltage,
      execInputFault, execInputReenable, execThermTrip, execStopChatter, execChatterEnd, execStopReleased,
      execStringsLineShort, execStringsLineOpen, execDominantTimeout, execStringsReconnect, execLossCleared, execEthLinkUp,
      execEthLinkDown, execBusMasterDisable, execVfEnableSet, execPtmEnableSet]
    (repeat' split) <;> exact completes_next _

/-- Settles O4: DICT_WRITE by its own lemma, every other command on each branch of its meaning. -/
theorem everyCommandCompletes : Obligations.EveryCommandCompletes := by
  intro c s h
  by_cases hc : ∃ who offset bytes v, c = .dictWrite who offset bytes v
  · obtain ⟨who, offset, bytes, v, rfl⟩ := hc
    exact execDictWrite_completes fun hwho => h offset bytes v (by rw [hwho])
  · exact exec_completes c s fun who offset bytes v hv => hc ⟨who, offset, bytes, v, hv⟩

end Sys2Proof.Safety

namespace Sys2Proof.Safety

open Sys2Proof.Machine

/-! ### What stays when only slots and messages change -/

/-- The state without its slots, its PCIe functions, what it has sent, its log and its free values. -/
def rest (s : State) : State := { s with regs := [], fns := [], out := [], log := [], free := 0 }

/-- Nothing but slots, messages, the log and free values differs. -/
def Quiet (s t : State) : Prop := rest t = rest s

section Quiet

variable {s t u : State}

@[simp] theorem Quiet.refl (s : State) : Quiet s s := rfl
theorem Quiet.trans (h : Quiet s t) (h' : Quiet t u) : Quiet s u := Eq.trans h' h

/-- Whatever a state holds beside slots and messages is the same in a state that differs in these only. -/
theorem Quiet.field {α : Type} (h : Quiet s t) (f : State → α) : f (rest t) = f (rest s) := congrArg f h

theorem Quiet.memoryKept (h : Quiet s t) : memoryKept s t := by
  have hocts : t.octs = s.octs := h.field State.octs
  refine ⟨fun a => ?_, fun a => ?_, fun a => ?_, fun a => ?_, fun k i => ?_, fun a => ?_, fun a => ?_⟩
  · exact congrArg (Tbl.get 0 · a) (h.field State.ls)
  · exact congrArg (Tbl.get 0 · a) (h.field State.fs)
  · exact congrArg (Tbl.get 0 · a) (h.field State.acc)
  · exact congrArg (Tbl.get 0 · a) (h.field State.hbm)
  · simp only [State.oct, hocts]
  · exact congrArg (Tbl.get 0 · a) (h.field State.ackMem)
  · exact congrArg (Tbl.get 0 · a) (h.field fun s => s.mario.flash)

theorem Quiet.workKept (h : Quiet s t) : workKept s t :=
  ⟨h.field State.inflight, h.field State.rings, h.field State.posted, h.field State.jobs, h.field State.aborts⟩

theorem Quiet.areas (h : Quiet s t) : t.areas = s.areas := h.field State.areas

theorem Quiet.areasKept (h : Quiet s t) : areasKept s t := fun who sub =>
  congrArg (Tbl.get 0 · (areaOf who * 256 + sub)) h.areas

theorem Quiet.tb (h : Quiet s t) : t.tb = s.tb := h.field State.tb

theorem Quiet.ite {c : Prop} [Decidable c] (ht : Quiet s t) (hu : Quiet s u) : Quiet s (if c then t else u) := by
  split <;> assumption

/-- A run over a list of changes of slots and messages is one. -/
theorem Quiet.foldl {α : Type} {f : State → α → State} (hf : ∀ s x, Quiet s (f s x)) (l : List α) :
    ∀ s, Quiet s (l.foldl f s) := by
  induction l with
  | nil => exact fun s => .refl s
  | cons x l ih => exact fun s => (hf s x).trans (ih (f s x))

end Quiet

section QuietOperations

variable (s : State)

theorem quiet_setReg (k : Nat) (w : Word) : Quiet s (s.setReg k w) := rfl
theorem quiet_setNat (k n : Nat) : Quiet s (s.setNat k n) := rfl
theorem quiet_bump (k n w : Nat) : Quiet s (s.bump k n w) := rfl
theorem quiet_setBit (k b : Nat) : Quiet s (s.setBit k b) := rfl
theorem quiet_emit (o : Output) : Quiet s (s.emit o) := rfl
theorem quiet_takeFree : Quiet s s.takeFree := rfl
theorem quiet_setFn (fn : Nat) (v : FnSt) : Quiet s (s.setFn fn v) := rfl

theorem quiet_msix (fn vec : Nat) : Quiet s (s.msix fn vec) :=
  .ite (.refl s) (.ite (quiet_emit s _) (.ite (.refl s) (quiet_setFn s _ _)))

theorem quiet_hostWrite (fn addr : Nat) (bytes : List Byte) : Quiet s (s.hostWrite fn addr bytes) :=
  .ite (quiet_bump s _ _ _) (.ite (quiet_emit s _) (quiet_setFn s _ _))

theorem quiet_timingEvent (b : Nat) : Quiet s (s.timingEvent b) :=
  .ite (.refl s) ((quiet_setBit s _ b).trans (quiet_msix _ _ _))

theorem quiet_portEvent (n b : Nat) : Quiet s (s.portEvent n b) :=
  .ite (.refl s) ((quiet_setBit s _ b).trans (quiet_msix _ _ _))

theorem quiet_partEvent (p b : Nat) : Quiet s (s.partEvent p b) :=
  .ite (.refl s) ((quiet_setBit s _ b).trans (quiet_msix _ _ _))

theorem quiet_sendStrings (func : Nat) (b : List Byte) : Quiet s (s.sendStrings func b) :=
  .ite (.ite (.ite (quiet_setNat (s.emit _).takeFree _ _) (quiet_bump (s.emit _).takeFree _ _ _)) (quiet_emit s _)) (.refl s)

/-- A log record is written by changes of the log, of one slot and of the free values. -/
theorem quiet_logged (l : List (List Byte)) : Quiet s ({ s with log := l }.wrapAdd kLogNextSeq 1 32).takeFree := rfl

theorem quiet_logEvent (code sev src a0 a1 a2 : Nat) : Quiet s (s.logEvent code sev src a0 a1 a2) := by
  unfold State.logEvent
  extract_lets r u
  have hu : Quiet s u := quiet_logged s _
  exact .ite (hu.trans (quiet_sendStrings _ _ _)) hu

theorem quiet_syncEvent (b : Nat) : Quiet s (s.syncEvent b) :=
  .ite (.refl s) (((quiet_setBit s _ b).trans (quiet_msix _ _ _)).trans (quiet_logEvent _ _ _ _ _ _ _))

theorem quiet_alertEdge (before : State) : Quiet s (s.alertEdge before) :=
  .ite (.refl s) (.ite ((quiet_emit s _).trans (quiet_msix _ _ _)) (quiet_emit s _))

end QuietOperations

/-! ### What a slot reads after a message -/

section ReadAfterMessage

variable (s : State)

@[simp] theorem reg_emit (o : Output) (k : Nat) : (s.emit o).reg k = s.reg k := rfl
@[simp] theorem reg_takeFree (k : Nat) : s.takeFree.reg k = s.reg k := rfl
@[simp] theorem reg_setFn (fn : Nat) (v : FnSt) (k : Nat) : (s.setFn fn v).reg k = s.reg k := rfl

theorem reg_sendStrings_other (func : Nat) (b : List Byte) {k : Nat} (hline : k ≠ kStringsLine) (hack : k ≠ kAckErrors) :
    (s.sendStrings func b).reg k = s.reg k := by
  unfold State.sendStrings
  dsimp only
  split
  · split
    · split
      · exact State.reg_setNat_other _ _ hline
      · exact State.reg_bump_other _ _ _ hack
    · rfl
  · rfl

theorem reg_logEvent_other (code sev src a0 a1 a2 : Nat) {k : Nat} (hseq : k ≠ kLogNextSeq) (hline : k ≠ kStringsLine)
    (hack : k ≠ kAckErrors) : (s.logEvent code sev src a0 a1 a2).reg k = s.reg k := by
  have hrec : ∀ l, (({ s with log := l }.wrapAdd kLogNextSeq 1 32).takeFree).reg k = s.reg k := fun l =>
    State.reg_wrapAdd_other _ _ _ hseq
  unfold State.logEvent
  dsimp only
  split
  · rw [reg_sendStrings_other _ _ _ hline hack, hrec]
  · exact hrec _

theorem reg_syncEvent_other (b : Nat) {k : Nat} (hev : k ≠ kSyncEvents) (hseq : k ≠ kLogNextSeq) (hline : k ≠ kStringsLine)
    (hack : k ≠ kAckErrors) : (s.syncEvent b).reg k = s.reg k := by
  unfold State.syncEvent
  split
  · rfl
  · rw [reg_logEvent_other _ _ _ _ _ _ _ hseq hline hack, State.reg_msix, State.reg_setBit_other _ _ hev]

theorem nat_wd (n : Nat) : (wd n).toNat = n % 2 ^ 64 := by simp [wd]

/-- An event of the synchronisation input leaves its flag set. -/
theorem bit_syncEvent (b : Nat) (h : b < 64) : (s.syncEvent b).bit kSyncEvents b = true := by
  unfold State.syncEvent
  split
  · assumption
  · simp only [State.bit, State.nat]
    rw [reg_logEvent_other _ _ _ _ _ _ _ (by decide) (by decide) (by decide), State.reg_msix]
    exact s.bit_setBit _ b h

theorem nat_of_reg {s t : State} {k : Nat} (h : t.reg k = s.reg k) : t.nat k = s.nat k := by simp only [State.nat, h]

theorem bit_of_reg {s t : State} {k : Nat} (b : Nat) (h : t.reg k = s.reg k) : t.bit k b = s.bit k b := by
  simp only [State.bit, nat_of_reg h]

end ReadAfterMessage

end Sys2Proof.Safety

namespace Sys2Proof.Safety

open Sys2Proof.Machine

/-! ### Geometry and numbering (O5) -/

/-- DICT_STATUS after a refusal names the reason and the entry (R623). -/
theorem area_refuse_status (s : State) (who : Requester) (r : Reason) (idx sub : Nat) :
    (s.refuse who r idx sub).area who 0x42 = wd (r.code + idx * 2 ^ 8 + sub * 2 ^ 24) := by
  simp only [State.refuse]
  rw [State.area_setArea_other _ _ _ (by decide), State.area_setArea_same]

section Geometry

variable {s : State} {who : Requester} {v : Word} {fl il sl gd gm : Nat}

/-- R43, R46, R56, R57 and R59 keep the five values of a geometry small. -/
theorem geometryOk_bounds (h : geometryOk [fl, il, sl, gd, gm] = true) :
    fl ≤ 256 ∧ il ≤ 32 ∧ sl ≤ 1024 ∧ gd ≤ 64 ∧ gm ≤ 64 := by
  simp [geometryOk, geometryOk.inRange'] at h
  omega

/-- The state in which the geometry `g` has come into force, before the event says so (R63). -/
def withGeometry (s : State) (fl il sl gd gm : Nat) : State :=
  { (((((s.setNat kFrameLen fl).setNat kIssueLen il).setNat kSlotsPerFrame sl).setNat kGuardNs gd).setNat kGuardMaxNs
      gm).setNat kSwitchFrame 0 with tb := { s.tb with armed := none } }

/-- A switch that has fallen due puts the armed geometry in force (R63). -/
theorem geometrySwitch_due (harmed : s.tb.armed = some [fl, il, sl, gd, gm]) (hdue : s.nat kSwitchFrame ≤ s.frameNo) :
    s.geometrySwitch = (withGeometry s fl il sl gd gm).timingEvent 7 := by
  simp only [State.geometrySwitch, harmed, hdue, if_true]
  rfl

/-- No switch is applied where none is armed, or where its frame has not come (R63). -/
theorem geometrySwitch_idle (h : s.tb.armed = none ∨ s.frameNo < s.nat kSwitchFrame) : s.geometrySwitch = s := by
  unfold State.geometrySwitch
  split
  · rfl
  next g hg =>
    rcases h with h | h
    · rw [hg] at h
      cases h
    · exact if_neg (Nat.not_le.2 h)

theorem reg_withGeometry (k : Nat) : (withGeometry s fl il sl gd gm).reg k = ((((((s.setNat kFrameLen fl).setNat kIssueLen
    il).setNat kSlotsPerFrame sl).setNat kGuardNs gd).setNat kGuardMaxNs gm).setNat kSwitchFrame 0).reg k := rfl

theorem reg_withGeometry_other {k : Nat}
    (hk : k ∉ [kFrameLen, kIssueLen, kSlotsPerFrame, kGuardNs, kGuardMaxNs, kSwitchFrame]) :
    (withGeometry s fl il sl gd gm).reg k = s.reg k := by
  simp only [List.mem_cons, List.not_mem_nil, or_false, not_or] at hk
  obtain ⟨hfl, hil, hsl, hgd, hgm, hsf⟩ := hk
  simp only [reg_withGeometry, State.reg_setNat_other _ _ hfl, State.reg_setNat_other _ _ hil, State.reg_setNat_other _ _ hsl,
    State.reg_setNat_other _ _ hgd, State.reg_setNat_other _ _ hgm, State.reg_setNat_other _ _ hsf]

theorem reg_geometrySwitch_other (harmed : s.tb.armed = some [fl, il, sl, gd, gm]) (hdue : s.nat kSwitchFrame ≤ s.frameNo)
    {k : Nat} (hk : k ∉ [kFrameLen, kIssueLen, kSlotsPerFrame, kGuardNs, kGuardMaxNs, kSwitchFrame, kTimingEvents]) :
    s.geometrySwitch.reg k = s.reg k := by
  rw [geometrySwitch_due harmed hdue, State.reg_timingEvent_other _ fun h => hk (by simp [h]),
    reg_withGeometry_other fun h => hk (by simp only [List.mem_cons] at h ⊢; tauto)]

/-- The slots of the geometry read it once the switch is made. -/
theorem nat_geometrySwitch (harmed : s.tb.armed = some [fl, il, sl, gd, gm]) (hok : geometryOk [fl, il, sl, gd, gm] = true)
    (hdue : s.nat kSwitchFrame ≤ s.frameNo) :
    s.geometrySwitch.nat kFrameLen = fl ∧ s.geometrySwitch.nat kIssueLen = il ∧ s.geometrySwitch.nat kSlotsPerFrame = sl ∧
    s.geometrySwitch.nat kGuardNs = gd ∧ s.geometrySwitch.nat kGuardMaxNs = gm ∧ s.geometrySwitch.nat kSwitchFrame = 0 ∧
    s.geometrySwitch.bit kTimingEvents 7 = true := by
  obtain ⟨hfl, hil, hsl, hgd, hgm⟩ := geometryOk_bounds hok
  have hread : ∀ k, k ≠ kTimingEvents → s.geometrySwitch.nat k = (withGeometry s fl il sl gd gm).nat k := fun k hk => by
    rw [geometrySwitch_due harmed hdue, nat_of_reg (State.reg_timingEvent_other _ hk)]
  refine ⟨?_, ?_, ?_, ?_, ?_, ?_, ?_⟩
  case refine_7 => rw [geometrySwitch_due harmed hdue]; exact State.bit_timingEvent _ 7 (by decide)
  all_goals
    rw [hread _ (by decide), nat_of_reg (reg_withGeometry _)]
    simp (disch := first | decide | omega) only [State.nat_setNat_other, State.nat_setNat_same]

theorem quiet_withGeometry :
    Quiet { s with tb := { s.tb with armed := none } } (withGeometry s fl il sl gd gm) := rfl

theorem quiet_geometrySwitch (harmed : s.tb.armed = some [fl, il, sl, gd, gm]) (hdue : s.nat kSwitchFrame ≤ s.frameNo) :
    Quiet { s with tb := { s.tb with armed := none } } s.geometrySwitch := by
  rw [geometrySwitch_due harmed hdue]
  exact quiet_withGeometry.trans (quiet_timingEvent _ _)

/-- The staged values are none that a switch changes (R63). -/
theorem staged_geometrySwitch (harmed : s.tb.armed = some [fl, il, sl, gd, gm]) (hdue : s.nat kSwitchFrame ≤ s.frameNo) :
    s.geometrySwitch.staged = s.staged := by
  have hread : ∀ k, k ∉ [kFrameLen, kIssueLen, kSlotsPerFrame, kGuardNs, kGuardMaxNs, kSwitchFrame, kTimingEvents] →
    s.geometrySwitch.nat k = s.nat k := fun k hk => nat_of_reg (reg_geometrySwitch_other harmed hdue hk)
  simp only [State.staged, hread kFrameLenNext (by decide), hread kIssueLenNext (by decide), hread kSlotsNext (by decide),
    hread kGuardNext (by decide), hread kGuardMaxNext (by decide)]

/-- A write of SWITCH_FRAME that R64 allows first makes a switch that is due, then arms the staged values. -/
theorem execSwitchFrameWrite_accepted (h : accepts s who .switchFrame kSwitchFrame v) (hframe : s.frameNo + 2 ≤ v.toNat)
    (hok : geometryOk s.staged = true) :
    exec (.switchFrameWrite who v) s = .next ({ s.geometrySwitch.setReg kSwitchFrame v with
      tb := { s.geometrySwitch.tb with armed := some s.geometrySwitch.staged } }.applied who) := by
  have hw : ∀ l, writeSwitchFrame v s l = .ok { s.geometrySwitch.setReg kSwitchFrame v with
      tb := { s.geometrySwitch.tb with armed := some s.geometrySwitch.staged } } := fun l => by
    simp [writeSwitchFrame, hok, Nat.not_lt.2 hframe]
  obtain ⟨hreq, l, hl⟩ := id h
  simp only [exec, execSwitchFrameWrite, hreq, hl, hw, State.slotWrite_applied h hw]

/-- A write of SWITCH_FRAME that R64 refuses is refused with STATE, and sets SWITCH_REFUSED. -/
theorem execSwitchFrameWrite_state (h : accepts s who .switchFrame kSwitchFrame v)
    (hbad : v.toNat < s.frameNo + 2 ∨ geometryOk s.staged = false) :
    exec (.switchFrameWrite who v) s = .next ((s.refuse who .state 0x2000 (kSwitchFrame % 256)).timingEvent 8) := by
  have hw : ∀ l, writeSwitchFrame v s l = .error .state := fun l => if_pos hbad
  obtain ⟨hreq, l, hl⟩ := id h
  simp only [exec, execSwitchFrameWrite, hreq, hl, hw, State.slotWrite_refused h hw]
  rfl

/-- A write of a value that no frame number allows is refused with RANGE, and sets SWITCH_REFUSED (R622). -/
theorem execSwitchFrameWrite_range (hreq : s.requesterOk who = true)
    (hgate : s.gateSlot who .switchFrame kSwitchFrame v = .error .range) :
    exec (.switchFrameWrite who v) s = .next ((s.refuse who .range 0x2000 (kSwitchFrame % 256)).timingEvent 8) := by
  simp only [exec, execSwitchFrameWrite, hreq, hgate, State.slotWrite_gated hreq hgate]
  rfl

/-- A refusal with SWITCH_REFUSED leaves the timebase and the entry, and names itself in DICT_STATUS. -/
theorem refused_timingEvent (s : State) (who : Requester) (r : Reason) (idx sub : Nat) {k : Nat} (hk : k ≠ kTimingEvents) :
    ((s.refuse who r idx sub).timingEvent 8).tb = s.tb ∧ ((s.refuse who r idx sub).timingEvent 8).reg k = s.reg k ∧
    ((s.refuse who r idx sub).timingEvent 8).bit kTimingEvents 8 = true ∧
    ((s.refuse who r idx sub).timingEvent 8).area who 0x42 = wd (r.code + idx * 2 ^ 8 + sub * 2 ^ 24) := by
  have hq := quiet_timingEvent (s.refuse who r idx sub) 8
  refine ⟨by rw [hq.tb, State.refuse_tb], ?_, State.bit_timingEvent _ 8 (by decide), ?_⟩
  · rw [State.reg_timingEvent_other _ hk, State.reg_refuse]
  · rw [hq.areasKept, area_refuse_status]

end Geometry

/-- Settles O5: an armed switch that is due puts its values in force, a write that R64 or R79 allows is applied, and one that they
refuse changes the requester's area and SWITCH_REFUSED. -/
theorem geometryAndNumbering : Obligations.GeometryAndNumbering := by
  refine ⟨?_, ?_, ?_, ?_, ?_, ?_, ?_⟩
  · intro s fl il sl gd gm harmed hok hdue
    obtain ⟨hfl, hil, hsl, hgd, hgm, hsf, hev⟩ := nat_geometrySwitch harmed hok hdue
    have hq := quiet_geometrySwitch harmed hdue
    exact ⟨_, rfl, hfl, hil, hsl, hgd, hgm, hsf, hev, hq.tb, hq.workKept, hq.memoryKept, hq.areasKept,
      fun k hk => reg_geometrySwitch_other harmed hdue hk⟩
  · intro s who v h hframe hok hidle
    rw [execSwitchFrameWrite_accepted h hframe hok, geometrySwitch_idle hidle]
  · intro s who v fl il sl gd gm h hframe hok harmed hgok hdue
    obtain ⟨hfl, hil, hsl, hgd, hgm, hsf, hev⟩ := nat_geometrySwitch harmed hgok hdue
    refine ⟨_, execSwitchFrameWrite_accepted h hframe hok, ?_⟩
    have hother : ∀ k, k ≠ kSwitchFrame → ({ s.geometrySwitch.setReg kSwitchFrame v with
      tb := { s.geometrySwitch.tb with armed := some s.geometrySwitch.staged } }.applied who).reg k = s.geometrySwitch.reg k :=
      fun k hk => by rw [State.reg_applied]; exact State.reg_setReg_other _ _ hk
    refine ⟨(nat_of_reg (hother _ (by decide))).trans hfl, (nat_of_reg (hother _ (by decide))).trans hil,
      (nat_of_reg (hother _ (by decide))).trans hsl, (nat_of_reg (hother _ (by decide))).trans hgd,
      (nat_of_reg (hother _ (by decide))).trans hgm, ?_, ?_, (bit_of_reg 7 (hother _ (by decide))).trans hev⟩
    · rw [State.reg_applied]
      exact State.reg_setReg_same _ _ _
    · rw [State.applied_tb, staged_geometrySwitch harmed hdue]
  · intro s who v hreq hgate
    exact ⟨_, execSwitchFrameWrite_range hreq hgate, refused_timingEvent s who .range _ _ (by decide)⟩
  · intro s who v h hbad
    exact ⟨_, execSwitchFrameWrite_state h hbad, refused_timingEvent s who .state _ _ (by decide)⟩
  · intro s who v h hnum
    exact congrArg Host.Outcome.next (State.slotWrite_applied h fun l => by simp [writeFrameSeed, hnum])
  · intro s who v h hnum
    exact congrArg Host.Outcome.next (State.slotWrite_refused h fun l => by simp [writeFrameSeed, hnum])

end Sys2Proof.Safety

namespace Sys2Proof.Safety

open Sys2Proof.Machine

/-! ### Fields of a slot -/

section Fields

variable {w : Word} {hi lo v hi' lo' : Nat}

theorem fld_eq (w : Word) (hi lo : Nat) : fld w hi lo = w.toNat / 2 ^ lo % 2 ^ (hi + 1 - lo) := by
  simp only [fld, bitsOf, Nat.shiftRight_eq_div_pow]

/-- A replaced field stands between the bits above it and the bits below it. -/
theorem toNat_putFld (hlo : lo ≤ hi) (hhi : hi < 64) :
    (putFld w hi lo v).toNat =
      w.toNat / 2 ^ (hi + 1) * 2 ^ (hi + 1) + v % 2 ^ (hi + 1 - lo) * 2 ^ lo + w.toNat % 2 ^ lo := by
  obtain ⟨m, hm⟩ : ∃ m, hi + 1 = lo + m := ⟨hi + 1 - lo, by omega⟩
  have hm' : hi + 1 - lo = m := by omega
  have hpow : 2 ^ (hi + 1) = 2 ^ lo * 2 ^ m := by rw [hm, Nat.pow_add]
  obtain ⟨k, hk⟩ : ∃ k, (2 : Nat) ^ 64 = 2 ^ (hi + 1) * k := ⟨2 ^ (64 - (hi + 1)), by rw [← Nat.pow_add]; congr 1; omega⟩
  have hpos : 0 < 2 ^ lo := Nat.two_pow_pos lo
  have hsplit : w.toNat = w.toNat / 2 ^ (hi + 1) * 2 ^ (hi + 1) + bitsOf w.toNat hi lo * 2 ^ lo + w.toNat % 2 ^ lo := by
    simp only [bitsOf, hm', Nat.shiftRight_eq_div_pow]
    have hdiv : w.toNat / 2 ^ (hi + 1) = w.toNat / 2 ^ lo / 2 ^ m := by rw [hpow, Nat.div_div_eq_div_mul]
    have h1 := Nat.div_add_mod (w.toNat / 2 ^ lo) (2 ^ m)
    have h2 := Nat.div_add_mod w.toNat (2 ^ lo)
    calc w.toNat = 2 ^ lo * (w.toNat / 2 ^ lo) + w.toNat % 2 ^ lo := h2.symm
      _ = 2 ^ lo * (2 ^ m * (w.toNat / 2 ^ lo / 2 ^ m) + w.toNat / 2 ^ lo % 2 ^ m) + w.toNat % 2 ^ lo := by rw [h1]
      _ = _ := by rw [hdiv, hpow]; ring
  have hv : v % 2 ^ m * 2 ^ lo + w.toNat % 2 ^ lo < 2 ^ (hi + 1) := by
    have h1 : v % 2 ^ m < 2 ^ m := Nat.mod_lt _ (Nat.two_pow_pos m)
    have h2 : w.toNat % 2 ^ lo < 2 ^ lo := Nat.mod_lt _ hpos
    calc v % 2 ^ m * 2 ^ lo + w.toNat % 2 ^ lo < v % 2 ^ m * 2 ^ lo + 2 ^ lo := by omega
      _ = (v % 2 ^ m + 1) * 2 ^ lo := by ring
      _ ≤ 2 ^ m * 2 ^ lo := Nat.mul_le_mul_right _ h1
      _ = 2 ^ (hi + 1) := by rw [hpow, Nat.mul_comm]
  have hq : w.toNat / 2 ^ (hi + 1) < k := by
    apply Nat.div_lt_of_lt_mul
    rw [← hk]
    exact w.isLt
  have hbound : w.toNat / 2 ^ (hi + 1) * 2 ^ (hi + 1) + v % 2 ^ m * 2 ^ lo + w.toNat % 2 ^ lo < 2 ^ 64 := by
    rw [hk]
    calc _ < w.toNat / 2 ^ (hi + 1) * 2 ^ (hi + 1) + 2 ^ (hi + 1) := by omega
      _ = (w.toNat / 2 ^ (hi + 1) + 1) * 2 ^ (hi + 1) := by ring
      _ ≤ k * 2 ^ (hi + 1) := Nat.mul_le_mul_right _ hq
      _ = _ := Nat.mul_comm _ _
  simp only [putFld, hm', BitVec.toNat_ofNat]
  have hval : w.toNat - bitsOf w.toNat hi lo * 2 ^ lo + v % 2 ^ m * 2 ^ lo =
      w.toNat / 2 ^ (hi + 1) * 2 ^ (hi + 1) + v % 2 ^ m * 2 ^ lo + w.toNat % 2 ^ lo := by omega
  rw [hval, Nat.mod_eq_of_lt hbound]

/-- A replaced field reads what it was replaced by. -/
theorem fld_putFld_same (hlo : lo ≤ hi) (hhi : hi < 64) : fld (putFld w hi lo v) hi lo = v % 2 ^ (hi + 1 - lo) := by
  have hpow : 2 ^ (hi + 1) = 2 ^ (hi + 1 - lo) * 2 ^ lo := by rw [← Nat.pow_add]; congr 1; omega
  have hshift : (putFld w hi lo v).toNat / 2 ^ lo = w.toNat / 2 ^ (hi + 1) * 2 ^ (hi + 1 - lo) + v % 2 ^ (hi + 1 - lo) := by
    rw [toNat_putFld hlo hhi]
    apply Nat.div_eq_of_lt_le
    · rw [hpow]
      nlinarith [Nat.zero_le (w.toNat % 2 ^ lo)]
    · have : w.toNat % 2 ^ lo < 2 ^ lo := Nat.mod_lt _ (Nat.two_pow_pos lo)
      rw [hpow]
      nlinarith
  rw [fld_eq, hshift, Nat.mul_add_mod', Nat.mod_mod]

/-- A field below a replaced one reads as before. -/
theorem fld_putFld_below (hlo : lo ≤ hi) (hhi : hi < 64) (hb : hi' < lo) : fld (putFld w hi lo v) hi' lo' = fld w hi' lo' := by
  have hdvd : 2 ^ (hi' + 1) ∣ 2 ^ lo := Nat.pow_dvd_pow 2 hb
  have hdvd' : 2 ^ (hi' + 1) ∣ 2 ^ (hi + 1) := Nat.pow_dvd_pow 2 (by omega)
  have hmod : (putFld w hi lo v).toNat % 2 ^ (hi' + 1) = w.toNat % 2 ^ (hi' + 1) := by
    rw [toNat_putFld hlo hhi, Nat.add_mod, Nat.add_mod (_ * _), Nat.mod_eq_zero_of_dvd (hdvd'.mul_left _),
      Nat.mod_eq_zero_of_dvd (hdvd.mul_left _), Nat.mod_mod_of_dvd _ hdvd]
    simp
  have key : ∀ x : Nat, x / 2 ^ lo' % 2 ^ (hi' + 1 - lo') = x % 2 ^ (hi' + 1) / 2 ^ lo' % 2 ^ (hi' + 1 - lo') := fun x => by
    by_cases h : lo' ≤ hi' + 1
    · have hp : 2 ^ (hi' + 1) = 2 ^ lo' * 2 ^ (hi' + 1 - lo') := by rw [← Nat.pow_add]; congr 1; omega
      rw [hp, Nat.mod_mul_right_div_self, Nat.mod_mod]
    · rw [Nat.sub_eq_zero_of_le (by omega)]
      simp [Nat.mod_one]
  rw [fld_eq, fld_eq, key, hmod, ← key]

/-- A field above a replaced one reads as before. -/
theorem fld_putFld_above (hlo : lo ≤ hi) (hhi : hi < 64) (ha : hi < lo') : fld (putFld w hi lo v) hi' lo' = fld w hi' lo' := by
  have hpow : 2 ^ lo' = 2 ^ (hi + 1) * 2 ^ (lo' - (hi + 1)) := by rw [← Nat.pow_add]; congr 1; omega
  have hdiv : (putFld w hi lo v).toNat / 2 ^ (hi + 1) = w.toNat / 2 ^ (hi + 1) := by
    have hp : 2 ^ (hi + 1) = 2 ^ (hi + 1 - lo) * 2 ^ lo := by rw [← Nat.pow_add]; congr 1; omega
    have h1 : v % 2 ^ (hi + 1 - lo) < 2 ^ (hi + 1 - lo) := Nat.mod_lt _ (Nat.two_pow_pos _)
    have h2 : w.toNat % 2 ^ lo < 2 ^ lo := Nat.mod_lt _ (Nat.two_pow_pos lo)
    rw [toNat_putFld hlo hhi]
    apply Nat.div_eq_of_lt_le
    · omega
    · have h3 : (v % 2 ^ (hi + 1 - lo) + 1) * 2 ^ lo ≤ 2 ^ (hi + 1) := by rw [hp]; exact Nat.mul_le_mul_right _ h1
      rw [Nat.add_mul] at h3
      rw [Nat.add_mul]
      omega
  rw [fld_eq, fld_eq, hpow, ← Nat.div_div_eq_div_mul, hdiv, Nat.div_div_eq_div_mul]

end Fields

end Sys2Proof.Safety

namespace Sys2Proof.Safety

open Sys2Proof.Machine

/-! ### The reference receivers (O6) -/

/-- A saturating counter reads its sum, held at the end of its width (R616). -/
theorem nat_bump_same (s : State) (k n : Nat) {w : Nat} (hw : w ≤ 64) : (s.bump k n w).nat k = satAdd w (s.nat k) n := by
  have hpow : 2 ^ w ≤ 2 ^ 64 := Nat.pow_le_pow_right (by decide) hw
  have hpos : 0 < 2 ^ w := Nat.two_pow_pos w
  refine State.nat_setNat_same s ?_
  unfold satAdd
  omega

theorem nat_bump_other (s : State) {k j : Nat} (n w : Nat) (h : j ≠ k) : (s.bump k n w).nat j = s.nat j :=
  nat_of_reg (State.reg_bump_other s n w h)

/-- The slots that the geometry in force is read from. -/
def geometryKeys : List Nat := [kFrameLen, kIssueLen, kSlotsPerFrame, kGuardNs, kGuardMaxNs, kSwitchFrame, kFrameNumber]

/-- The geometry in force depends on its slots, the frame number and the armed switch only (R63). -/
theorem geometry_congr {s t : State} (hregs : ∀ k ∈ geometryKeys, t.reg k = s.reg k) (harmed : t.tb.armed = s.tb.armed) :
    t.geometry = s.geometry := by
  have hnat : ∀ k ∈ geometryKeys, t.nat k = s.nat k := fun k hk => nat_of_reg (hregs k hk)
  simp only [State.geometry, State.frameNo, harmed, hnat kFrameLen (by decide), hnat kIssueLen (by decide),
    hnat kSlotsPerFrame (by decide), hnat kGuardNs (by decide), hnat kGuardMaxNs (by decide), hnat kSwitchFrame (by decide),
    hnat kFrameNumber (by decide)]
  rfl

theorem frameNs_congr {s t : State} (h : t.geometry = s.geometry) : t.frameNs = s.frameNs := by
  simp only [State.frameNs, State.frameLen, h]

section SyncIn

variable {s : State} {phase : Int} {before after : Nat} {rising : Bool} {cls : Option Bool}

/-- A transition of SYNC_IN ends STUCK (R810). -/
def unstuck (s : State) : State := s.setReg kSyncStatus (putFld (s.reg kSyncStatus) 3 3 0)

/-- The state in which an edge of SYNC_IN has been seen: STUCK is over, and the frame's edges are counted (R809, R810). -/
def edgeSeen (s : State) : State := { unstuck s with tb := { s.tb with edges := s.tb.edges + 1 } }

theorem reg_unstuck_other {k : Nat} (h : k ≠ kSyncStatus) : (unstuck s).reg k = s.reg k := State.reg_setReg_other s _ h
theorem reg_edgeSeen_other {k : Nat} (h : k ≠ kSyncStatus) : (edgeSeen s).reg k = s.reg k := State.reg_setReg_other s _ h
theorem reg_unstuck : (unstuck s).reg kSyncStatus = putFld (s.reg kSyncStatus) 3 3 0 := State.reg_setReg_same s _ _

theorem syncInverted_unstuck : (unstuck s).syncInverted = s.syncInverted := by
  simp only [State.syncInverted, nat_of_reg (reg_unstuck_other (s := s) (k := kSyncPolarity) (by decide))]
  rfl

theorem stuck_unstuck : fld ((unstuck s).reg kSyncStatus) 3 3 = 0 := by
  rw [reg_unstuck, fld_putFld_same (by decide) (by decide), Nat.zero_mod]

theorem line_unstuck : fld ((unstuck s).reg kSyncStatus) 1 0 = fld (s.reg kSyncStatus) 1 0 := by
  rw [reg_unstuck, fld_putFld_below (by decide) (by decide) (by decide)]

theorem frameNs_edgeSeen : (edgeSeen s).frameNs = s.frameNs :=
  frameNs_congr (geometry_congr (fun k hk => reg_edgeSeen_other (by rintro rfl; exact absurd hk (by decide))) rfl)

theorem nat_edgeSeen {k : Nat} (h : k ≠ kSyncStatus) : (edgeSeen s).nat k = s.nat k := nat_of_reg (reg_edgeSeen_other h)

theorem phaseMod_edgeSeen (x : Int) : (edgeSeen s).phaseMod x = s.phaseMod x := by
  simp only [State.phaseMod, frameNs_edgeSeen]

theorem syncOffset_edgeSeen : (edgeSeen s).syncOffset phase = s.syncOffset phase := by
  simp only [State.syncOffset, phaseMod_edgeSeen, frameNs_edgeSeen, nat_edgeSeen (s := s) (k := kSyncDelayNs) (by decide)]
  rfl

/-- An edge that the receiver takes no notice of only ends STUCK (R802, R806, R807). -/
theorem exec_syncInEdge_ignored (h : rising = s.syncInverted ∨ before < 40 ∨ after < 40 ∨ cls ≠ some s.syncInverted) :
    exec (.syncInEdge phase ⟨before, after, rising, cls⟩) s = .next (unstuck s) := by
  have hcond : (rising == (unstuck s).syncInverted) = true ∨ before < 40 ∨ after < 40 ∨
      cls ≠ some (unstuck s).syncInverted ∨ fld ((unstuck s).reg kSyncStatus) 1 0 ≠ 0 := by
    rw [syncInverted_unstuck, beq_iff_eq]
    tauto
  exact if_pos hcond

/-- An edge that meets R806 and R807 on a line without a fault is counted; the third of a frame disqualifies SYNC_IN (R809). -/
theorem exec_syncInEdge_seen (hrise : rising = !s.syncInverted) (hbefore : 40 ≤ before) (hafter : 40 ≤ after)
    (hline : fld (s.reg kSyncStatus) 1 0 = 0) :
    exec (.syncInEdge phase ⟨before, after, rising, some s.syncInverted⟩) s = .next
      (if s.tb.edges + 1 = 3 then
        { (edgeSeen s).setReg kSyncStatus (putFld ((edgeSeen s).reg kSyncStatus) 4 4 1) with
          tb := { (edgeSeen s).tb with disq := true, calm := 0, syncRun := 0 } }.syncEvent 3
      else if s.tb.disq then edgeSeen s else (edgeSeen s).syncEdge phase) := by
  have hcond : ¬ ((rising == (unstuck s).syncInverted) = true ∨ before < 40 ∨ after < 40 ∨
      some s.syncInverted ≠ some (unstuck s).syncInverted ∨ fld ((unstuck s).reg kSyncStatus) 1 0 ≠ 0) := by
    rw [syncInverted_unstuck, line_unstuck, hrise, hline]
    simp [hbefore, hafter]
  have hexec : exec (.syncInEdge phase ⟨before, after, rising, some s.syncInverted⟩) s =
      if s.tb.edges + 1 = 3 then .next
        ({ (edgeSeen s).setReg kSyncStatus (putFld ((edgeSeen s).reg kSyncStatus) 4 4 1) with
          tb := { (edgeSeen s).tb with disq := true, calm := 0, syncRun := 0 } }.syncEvent 3)
      else if s.tb.disq then .next (edgeSeen s) else .next ((edgeSeen s).syncEdge phase) := if_neg hcond
  rw [hexec]
  split
  · rfl
  · split <;> rfl

/-- While SYNC_IN is qualified, the first two edges of a frame are judged as pulses (R808). -/
theorem exec_syncInEdge_pulse (hrise : rising = !s.syncInverted) (hbefore : 40 ≤ before) (hafter : 40 ≤ after)
    (hline : fld (s.reg kSyncStatus) 1 0 = 0) (hedges : s.tb.edges < 2) (hdisq : s.tb.disq = false) :
    exec (.syncInEdge phase ⟨before, after, rising, some s.syncInverted⟩) s = .next ((edgeSeen s).syncEdge phase) := by
  rw [exec_syncInEdge_seen hrise hbefore hafter hline, if_neg (by omega), hdisq]
  rfl

/-- In LOCKED on SYNC_IN an edge within the window is a pulse, and another is ignored and counted (R808). -/
theorem syncEdge_locked (hsel : s.tb.selected = 1) (hlocked : s.timing = 2) :
    (edgeSeen s).syncEdge phase =
      if (s.phaseMod (phase - s.nat kSyncDelayNs)).natAbs ≤ s.nat kSyncWindowNs
      then (edgeSeen s).acceptPulse phase (s.tb.syncRun + 1) else (edgeSeen s).bump kSyncIgnored := by
  have hsel' : (edgeSeen s).tb.selected = 1 := hsel
  have htiming : (edgeSeen s).timing = 2 := (nat_edgeSeen (by decide)).trans hlocked
  simp only [State.syncEdge, hsel', htiming, phaseMod_edgeSeen, nat_edgeSeen (s := s) (k := kSyncDelayNs) (by decide),
    nat_edgeSeen (s := s) (k := kSyncWindowNs) (by decide), and_self, if_true]
  rfl

/-- Elsewhere an edge is judged by its distance from the last pulse (Table 2.3). -/
theorem syncEdge_unlocked (hfree : s.tb.selected ≠ 1 ∨ s.timing ≠ 2) {last : Int} (hlast : s.tb.syncLast = some last) :
    (edgeSeen s).syncEdge phase =
      if (s.tb.base + phase - last - s.frameNs).natAbs ≤ 50 then (edgeSeen s).acceptPulse phase (s.tb.syncRun + 1)
      else if 50 < s.tb.base + phase - last - s.frameNs then (edgeSeen s).acceptPulse phase 1
      else (edgeSeen s).bump kSyncIgnored := by
  have hcond : ¬ ((edgeSeen s).tb.selected = 1 ∧ (edgeSeen s).timing = 2) := by
    have htiming : (edgeSeen s).timing = s.timing := nat_edgeSeen (by decide)
    rw [htiming]
    intro h
    rcases hfree with h' | h'
    · exact h' h.1
    · exact h' h.2
  have hlast' : (edgeSeen s).tb.syncLast = some last := hlast
  simp only [State.syncEdge, hcond, hlast', if_false, frameNs_edgeSeen]
  rfl

/-- An ignored edge is counted, and leaves the last pulse and the run (R808). -/
theorem ignored_edgeSeen : ((edgeSeen s).bump kSyncIgnored).nat kSyncIgnored = satAdd 32 (s.nat kSyncIgnored) 1 := by
  rw [nat_bump_same _ _ _ (by decide), nat_edgeSeen (by decide)]

end SyncIn

section Ptm

variable {s : State}

/-- The state in which PTM has lost its qualification, and a valid PTM is no longer (R776). -/
def ptmLost (s : State) : State :=
  { (if s.nat kPtmState = 2 then s.setNat kPtmState 1 else s) with
    tb := { s.tb with ptmOpen := false, ptmOk := false, ptmRun := 0 } }

theorem ptmOff_eq : s.ptmOff = (ptmLost s).setNat kPtmState 0 := by
  by_cases h : s.nat kPtmState = 2
  · have hun : s.unqualify 2 = { s with tb := { s.tb with ptmOk := false, ptmRun := 0 } }.setNat kPtmState 1 := if_pos h
    simp only [State.ptmOff, hun, ptmLost, if_pos h]
    rfl
  · have hun : s.unqualify 2 = { s with tb := { s.tb with ptmOk := false, ptmRun := 0 } } := if_neg h
    simp only [State.ptmOff, hun, ptmLost, if_neg h]

theorem reg_ptmLost_other {k : Nat} (hk : k ≠ kPtmState) : (ptmLost s).reg k = s.reg k := by
  by_cases h : s.nat kPtmState = 2
  · simp only [ptmLost, if_pos h]
    exact (State.reg_of_regs rfl k).trans (State.reg_setNat_other s 1 hk)
  · simp only [ptmLost, if_neg h]
    rfl

theorem quiet_ptmLost : Quiet { s with tb := { s.tb with ptmOpen := false, ptmOk := false, ptmRun := 0 } } (ptmLost s) := by
  by_cases h : s.nat kPtmState = 2
  · simp only [ptmLost, if_pos h]
    rfl
  · simp only [ptmLost, if_neg h]
    rfl

end Ptm

/-- Settles O6: each command of a receiver by the branch of its rule that the state and the edge select. -/
theorem referenceReceivers : Obligations.ReferenceReceivers := by
  refine ⟨?_, ?_, ?_, ?_, ?_, ?_, ?_, ?_, ?_, ?_, ?_, ?_, ?_⟩
  · intro s phase before after rising hrise hbefore hafter hline hedges hdisq hsel hlocked hwin
    refine ⟨_, exec_syncInEdge_pulse hrise hbefore hafter hline hedges hdisq, ?_⟩
    rw [syncEdge_locked hsel hlocked, if_pos hwin]
    exact ⟨rfl, congrArg some syncOffset_edgeSeen, rfl, rfl, stuck_unstuck,
      fun k hk => reg_edgeSeen_other (List.ne_of_not_mem_cons hk), (Quiet.refl s).memoryKept, (Quiet.refl s).workKept⟩
  · intro s phase before after rising hrise hbefore hafter hline hedges hdisq hsel hlocked hwin
    refine ⟨_, exec_syncInEdge_pulse hrise hbefore hafter hline hedges hdisq, ?_⟩
    rw [syncEdge_locked hsel hlocked, if_neg (Nat.not_le.2 hwin)]
    exact ⟨rfl, rfl, ignored_edgeSeen⟩
  · intro s phase last before after rising hrise hbefore hafter hline hedges hdisq hfree hlast
    refine ⟨_, exec_syncInEdge_pulse hrise hbefore hafter hline hedges hdisq, ?_⟩
    rw [syncEdge_unlocked hfree hlast]
    refine ⟨fun h => ?_, fun h => ?_, fun h => ?_⟩
    · rw [if_pos h]
      exact ⟨rfl, rfl⟩
    · rw [if_neg (by omega), if_pos h]
      exact ⟨rfl, rfl⟩
    · rw [if_neg (by omega), if_neg (by omega)]
      exact ⟨rfl, hlast, ignored_edgeSeen⟩
  · intro s phase before after rising hrise hbefore hafter hline hedges
    refine ⟨_, exec_syncInEdge_seen hrise hbefore hafter hline, ?_⟩
    rw [if_pos (by omega)]
    refine ⟨congrArg Timing.disq (quiet_syncEvent _ 3).tb, congrArg Timing.syncRun (quiet_syncEvent _ 3).tb, ?_,
      bit_syncEvent _ 3 (by decide)⟩
    rw [reg_syncEvent_other _ _ (by decide) (by decide) (by decide) (by decide)]
    exact (congrArg (fld · 4 4) (State.reg_setReg_same _ _ _)).trans (fld_putFld_same (by decide) (by decide))
  · intro s phase before after rising cls h
    exact ⟨_, exec_syncInEdge_ignored h, rfl, stuck_unstuck, fun k hk => reg_unstuck_other (List.ne_of_not_mem_cons hk)⟩
  · intro s line hlo hhi hline
    refine ⟨_, (if_neg (by omega)).trans (if_pos hline), ?_, bit_syncEvent _ 0 (by decide), (quiet_syncEvent _ 0).tb,
      (quiet_syncEvent _ 0).memoryKept, (quiet_syncEvent _ 0).workKept⟩
    rw [reg_syncEvent_other _ _ (by decide) (by decide) (by decide) (by decide), State.reg_setReg_same,
      fld_putFld_same (by decide) (by decide)]
    exact Nat.mod_eq_of_lt (by omega)
  · exact fun s => rfl
  · intro s
    refine ⟨_, rfl, ?_, bit_syncEvent _ 2 (by decide), (quiet_syncEvent _ 2).tb, (quiet_syncEvent _ 2).memoryKept,
      (quiet_syncEvent _ 2).workKept⟩
    rw [reg_syncEvent_other _ _ (by decide) (by decide) (by decide) (by decide), State.reg_setReg_same]
    exact fld_putFld_same (by decide) (by decide)
  · exact fun s h => if_neg h
  · exact fun s time h => if_pos h
  · intro s h
    exact ⟨_, if_pos h, rfl, nat_bump_same _ _ _ (by decide),
      fun k hk => State.reg_bump_other _ _ _ (List.ne_of_not_mem_cons hk), (Quiet.refl s).memoryKept, (Quiet.refl s).workKept⟩
  · intro s
    refine ⟨_, rfl, ?_⟩
    rw [ptmOff_eq]
    exact ⟨State.nat_setNat_same _ (by decide), quiet_ptmLost.tb,
      fun k hk => (State.reg_setNat_other _ _ (List.ne_of_not_mem_cons hk)).trans
        (reg_ptmLost_other (List.ne_of_not_mem_cons hk)), quiet_ptmLost.memoryKept, quiet_ptmLost.workKept⟩
  · exact fun s h => if_pos h

end Sys2Proof.Safety

namespace Sys2Proof.Safety

open Sys2Proof.Machine

/-! ### The timing states (O7) -/

theorem memoryKept.trans {s t u : State} (h : memoryKept s t) (h' : memoryKept t u) : memoryKept s u := by
  obtain ⟨hls, hfs, hacc, hhbm, hoct, hack, hflash⟩ := h
  obtain ⟨hls', hfs', hacc', hhbm', hoct', hack', hflash'⟩ := h'
  exact ⟨fun a => (hls' a).trans (hls a), fun a => (hfs' a).trans (hfs a), fun a => (hacc' a).trans (hacc a),
    fun a => (hhbm' a).trans (hhbm a), fun k i => (hoct' k i).trans (hoct k i), fun a => (hack' a).trans (hack a),
    fun a => (hflash' a).trans (hflash a)⟩

theorem workKept.trans {s t u : State} (h : workKept s t) (h' : workKept t u) : workKept s u := by
  obtain ⟨hinflight, hrings, hposted, hjobs, haborts⟩ := h
  obtain ⟨hinflight', hrings', hposted', hjobs', haborts'⟩ := h'
  exact ⟨hinflight'.trans hinflight, hrings'.trans hrings, hposted'.trans hposted, hjobs'.trans hjobs, haborts'.trans haborts⟩

theorem slotsKept.trans {s t u : State} {l m : List Nat} (h : slotsKept s t l) (h' : slotsKept t u m) :
    slotsKept s u (l ++ m) := fun k hk => by
  rw [List.mem_append, not_or] at hk
  exact (h' k hk.2).trans (h k hk.1)

theorem slotsKept.mono {s t : State} {l m : List Nat} (h : slotsKept s t l) (hsub : l ⊆ m) : slotsKept s t m :=
  fun k hk => h k fun hl => hk (hsub hl)

/-- Only the timebase, the slots of `keys` and messages differ. -/
structure Timed (keys : List Nat) (s t : State) : Prop where
  quiet : Quiet { s with tb := t.tb } t
  slots : slotsKept s t keys

section Timed

variable {s t u : State} {l m : List Nat} {k : Nat}

theorem Timed.refl (s : State) (l : List Nat) : Timed l s s := ⟨rfl, fun _ _ => rfl⟩

theorem Timed.trans (h : Timed l s t) (h' : Timed m t u) : Timed (l ++ m) s u where
  quiet := Eq.trans h'.quiet (congrArg (fun x : State => { x with tb := u.tb }) h.quiet)
  slots := h.slots.trans h'.slots

theorem Timed.mono (h : Timed l s t) (hsub : l ⊆ m) : Timed m s t := ⟨h.quiet, h.slots.mono hsub⟩

theorem Timed.memoryKept (h : Timed l s t) : memoryKept s t := h.quiet.memoryKept
theorem Timed.workKept (h : Timed l s t) : workKept s t := h.quiet.workKept
theorem Timed.reg (h : Timed l s t) (hk : k ∉ l) : t.reg k = s.reg k := h.slots k hk
theorem Timed.nat (h : Timed l s t) (hk : k ∉ l) : t.nat k = s.nat k := nat_of_reg (h.reg hk)
theorem Timed.bit (h : Timed l s t) (b : Nat) (hk : k ∉ l) : t.bit k b = s.bit k b := bit_of_reg b (h.reg hk)
theorem Timed.ports (h : Timed l s t) : t.ports = s.ports := h.quiet.field State.ports

theorem Timed.port (h : Timed l s t) (n : Nat) : t.port n = s.port n := by simp only [State.port, h.ports]

theorem Timed.refB (h : Timed l s t) (ref : Nat) : t.refB ref = s.refB ref := by simp only [State.refB, h.port]

theorem Timed.refOff (h : Timed l s t) (hsync : t.tb.syncOff = s.tb.syncOff) (hptm : t.tb.ptmOff = s.tb.ptmOff) (ref : Nat) :
    t.refOff ref = s.refOff ref := by simp only [State.refOff, h.port, hsync, hptm]

theorem timed_tb (s : State) (tb : Timing) : Timed [] s { s with tb := tb } := ⟨rfl, fun _ _ => rfl⟩

theorem timed_setNat (s : State) (k n : Nat) : Timed [k] s (s.setNat k n) :=
  ⟨rfl, fun _ hj => State.reg_setNat_other s _ (List.ne_of_not_mem_cons hj)⟩

theorem timed_setReg (s : State) (k : Nat) (w : Word) : Timed [k] s (s.setReg k w) :=
  ⟨rfl, fun _ hj => State.reg_setReg_other s _ (List.ne_of_not_mem_cons hj)⟩

theorem timed_timingEvent (s : State) (b : Nat) : Timed [kTimingEvents] s (s.timingEvent b) where
  quiet := by
    have hq := quiet_timingEvent s b
    rw [hq.tb]
    exact hq
  slots _ hj := State.reg_timingEvent_other s (List.ne_of_not_mem_cons hj)

theorem tb_timingEvent (s : State) (b : Nat) : (s.timingEvent b).tb = s.tb := (quiet_timingEvent s b).tb

end Timed

/-! #### Drift and mutes -/

/-- The slots TX_MUTED of the ports. -/
def muteKeys : List Nat := (countFrom 0 16).map kTxMuted

section Mutes

variable (s : State)

theorem timed_setDrift (d : Option Nat) : Timed [kDriftEstNs] s (s.setDrift d) :=
  (timed_tb s _).trans (timed_setNat _ _ _)

theorem tb_setDrift (d : Option Nat) : (s.setDrift d).tb = { s.tb with drift := d } := rfl

/-- The estimate outside LOCKED sets the drift, and leaves it in LOCKED (R84). -/
theorem estimate_cases : s.estimate = s ∨ ∃ d, s.estimate = s.setDrift d := by
  unfold State.estimate
  split
  · exact .inl rfl
  · split <;> exact .inr ⟨_, rfl⟩

theorem timed_estimate : Timed [kDriftEstNs] s s.estimate := by
  rcases estimate_cases s with h | ⟨d, h⟩
  · rw [h]
    exact .refl s _
  · rw [h]
    exact timed_setDrift s d

theorem tb_estimate : ∃ d, s.estimate.tb = { s.tb with drift := d } := by
  rcases estimate_cases s with h | ⟨d, h⟩
  · exact ⟨s.tb.drift, by rw [h]⟩
  · exact ⟨d, by rw [h, tb_setDrift]⟩

theorem timed_refreshMutes : Timed muteKeys s s.refreshMutes := by
  have key : ∀ xs : List Nat, xs ⊆ countFrom 0 16 → ∀ s : State, Timed muteKeys s (xs.foldl (fun s n => s.refreshMute n) s) := by
    intro xs
    induction xs with
    | nil => exact fun _ s => .refl s _
    | cons n xs ih =>
      intro hsub s
      have hn : kTxMuted n ∈ muteKeys := List.mem_map_of_mem (hsub (List.mem_cons_self ..))
      have hone : Timed muteKeys s (s.refreshMute n) := (timed_setNat s _ _).mono (by simpa using hn)
      exact (hone.trans (ih (fun x hx => hsub (List.mem_cons_of_mem n hx)) _)).mono (by simp)
  exact key _ (List.Subset.refl _) s

theorem tb_foldl {α : Type} {f : State → α → State} (hf : ∀ s x, (f s x).tb = s.tb) (xs : List α) :
    ∀ s, (xs.foldl f s).tb = s.tb := by
  induction xs with
  | nil => exact fun _ => rfl
  | cons x xs ih => exact fun s => (ih _).trans (hf s x)

theorem tb_refreshMutes : s.refreshMutes.tb = s.tb := tb_foldl (f := State.refreshMute) (fun _ _ => rfl) _ s

theorem timed_muteNow : Timed muteKeys s s.muteNow := by
  unfold State.muteNow
  split
  · exact (timed_tb s _).trans (timed_refreshMutes _)
  · exact .refl s _

theorem tb_muteNow : s.muteNow.tb = { s.tb with muted := s.tb.muted || s.selfMutes } := by
  unfold State.muteNow
  split
  next h =>
    rw [tb_refreshMutes]
    simp only [Bool.and_eq_true] at h
    rw [h.1, Bool.or_true]
  next h =>
    have hm : (s.tb.muted || s.selfMutes) = s.tb.muted := by
      cases hmuted : s.tb.muted <;> cases hself : s.selfMutes <;> simp_all
    rw [hm]

end Mutes

/-! #### Leaving LOCKED -/

section Leave

variable (s : State) (b : Nat)

/-- The timebase once LOCKED is left: B of the reference held until then, no time held yet, and no run (R84). -/
def leftTiming (s : State) (b : Nat) (m : Bool) : Timing :=
  { s.tb with leftB := b, holdNs := 0, returning := none, lockRun := 0, overRun := 0, drift := some (b * 1000000000), muted := m }

/-- The state of LOCKED left, before its event (Table 2.4). -/
def leaving (s : State) (b : Nat) : State :=
  { s with tb := { s.tb with leftB := b, holdNs := 0, returning := none, lockRun := 0, overRun := 0 } }.setDrift
    (some (b * 1000000000))

theorem leaveLocked_eq : s.leaveLocked b =
    (if s.nat kHoldLimitMs = 0 then ((leaving s b).setNat kTimingState 0).timingEvent 2
      else ((leaving s b).setNat kTimingState 1).timingEvent 1).muteNow := by
  have hnat : (leaving s b).nat kHoldLimitMs = s.nat kHoldLimitMs :=
    ((timed_tb s _).trans (timed_setDrift _ _)).nat (by decide)
  rw [← hnat]
  rfl

theorem timed_leaving : Timed [kDriftEstNs] s (leaving s b) := (timed_tb s _).trans (timed_setDrift _ _)

theorem timed_leaveLocked : Timed (kDriftEstNs :: kTimingState :: kTimingEvents :: muteKeys) s (s.leaveLocked b) := by
  rw [leaveLocked_eq]
  split
  · exact (((timed_leaving s b).trans (timed_setNat _ _ 0)).trans (timed_timingEvent _ 2)).trans (timed_muteNow _)
  · exact (((timed_leaving s b).trans (timed_setNat _ _ 1)).trans (timed_timingEvent _ 1)).trans (timed_muteNow _)

theorem tb_leaveLocked : ∃ m, (s.leaveLocked b).tb = leftTiming s b m := by
  rw [leaveLocked_eq]
  split
  all_goals
    rw [tb_muteNow, tb_timingEvent, State.setNat_tb, leaving, tb_setDrift]
    exact ⟨_, rfl⟩

theorem selected_leftTiming (m : Bool) : (leftTiming s b m).selected = s.tb.selected := rfl

theorem selected_leaveLocked : (s.leaveLocked b).tb.selected = s.tb.selected := by
  obtain ⟨m, hm⟩ := tb_leaveLocked s b
  exact (congrArg Timing.selected hm).trans (selected_leftTiming s b m)

theorem timing_leaveLocked : (s.leaveLocked b).timing = if s.nat kHoldLimitMs = 0 then 0 else 1 := by
  rw [leaveLocked_eq]
  split
  all_goals
    simp only [State.timing, (timed_muteNow _).nat (k := kTimingState) (by decide),
      (timed_timingEvent _ _).nat (k := kTimingState) (by decide)]
    exact State.nat_setNat_same _ (by decide)

theorem bit_leaveLocked (h : s.nat kHoldLimitMs ≠ 0) : (s.leaveLocked b).bit kTimingEvents 1 = true := by
  rw [leaveLocked_eq, if_neg h, (timed_muteNow _).bit 1 (by decide)]
  exact State.bit_timingEvent _ 1 (by decide)

theorem refOff_leaveLocked (ref : Nat) : (s.leaveLocked b).refOff ref = s.refOff ref := by
  obtain ⟨m, hm⟩ := tb_leaveLocked s b
  exact (timed_leaveLocked s b).refOff (by rw [hm]; rfl) (by rw [hm]; rfl) ref

end Leave

/-! #### References that return -/

section Returning

variable {s : State} {off : Int}

/-- The state in which a returning reference is to be slewed in by its offset (R87). -/
def slewing (s : State) (off : Int) : State :=
  { s.setNat kStepPending 0 with tb := { s.tb with returning := some off } }

/-- The state in which a step to a returning reference is pending (R87). -/
def stepping (s : State) : State := { s with tb := { s.tb with returning := none } }.setNat kStepPending 1

theorem tb_slewing (s : State) (off : Int) : (slewing s off).tb = { s.tb with returning := some off } := rfl
theorem tb_stepping (s : State) : (stepping s).tb = { s.tb with returning := none } := rfl

/-- A reference more than 1 µs ahead is to be stepped to (R87, Table 2.5). -/
theorem offsetReturn_step (h : 1000 < off) :
    s.offsetReturn off = (stepping s).estimate := if_pos h

/-- A reference at most 1 µs ahead and 1 ms behind is slewed in (R87, Table 2.5). -/
theorem offsetReturn_slew (hhi : off ≤ 1000) (hlo : -1000000 ≤ off) :
    s.offsetReturn off = (slewing s off).estimate :=
  (if_neg (not_lt.2 hhi)).trans (if_pos hlo)

theorem returnOf_some {ref : Nat} (h : s.refOff ref = some off) : s.returnOf ref = s.offsetReturn off := by
  simp only [State.returnOf, h]

theorem returnOf_none {ref : Nat} (h : s.refOff ref = none) : s.returnOf ref = s.estimate := by
  simp only [State.returnOf, h]

/-- The estimate of a reference that is slewed in (R84). -/
theorem estimate_returning (hfree : s.timing ≠ 2) (hret : s.tb.returning = some off) :
    s.estimate = s.setDrift (some ((s.refB s.tb.selected + off.natAbs) * 1000000000)) := by
  simp only [State.estimate, hfree, if_false, hret]

theorem timed_slewing (s : State) (off : Int) : Timed [kStepPending] s (slewing s off) :=
  (timed_setNat s _ _).trans (timed_tb _ _)

theorem timed_stepping (s : State) : Timed [kStepPending] s (stepping s) := (timed_tb s _).trans (timed_setNat _ _ _)

/-- What a returning reference that is to be stepped to leaves (R87). -/
theorem offsetReturn_step_leaves (h : 1000 < off) : Timed [kStepPending, kDriftEstNs] s (s.offsetReturn off) ∧
    (s.offsetReturn off).tb.selected = s.tb.selected ∧ (s.offsetReturn off).nat kStepPending = 1 := by
  have hest := timed_estimate (stepping s)
  obtain ⟨d, hd⟩ := tb_estimate (stepping s)
  rw [offsetReturn_step h, hd, tb_stepping]
  exact ⟨(timed_stepping s).trans hest, rfl, (hest.nat (by decide)).trans (State.nat_setNat_same _ (by decide))⟩

/-- What a returning reference that is slewed in leaves in a state that is not LOCKED (R84, R87). -/
theorem offsetReturn_slew_leaves (hfree : s.timing ≠ 2) (hhi : off ≤ 1000) (hlo : -1000000 ≤ off) :
    Timed [kStepPending, kDriftEstNs] s (s.offsetReturn off) ∧ (s.offsetReturn off).tb.selected = s.tb.selected ∧
    (s.offsetReturn off).tb.returning = some off ∧
    (s.offsetReturn off).tb.drift = some ((s.refB s.tb.selected + off.natAbs) * 1000000000) := by
  have hslew := timed_slewing s off
  have hfree' : (slewing s off).timing ≠ 2 := by rwa [State.timing, hslew.nat (by decide)]
  have hcur : (slewing s off).tb.selected = s.tb.selected := by rw [tb_slewing]
  have hest : (slewing s off).estimate =
      (slewing s off).setDrift (some ((s.refB s.tb.selected + off.natAbs) * 1000000000)) := by
    rw [estimate_returning (off := off) hfree' rfl, hcur, hslew.refB]
  rw [offsetReturn_slew hhi hlo, hest, tb_setDrift, tb_slewing]
  exact ⟨hslew.trans (timed_setDrift _ _), rfl, rfl, rfl⟩

/-- OFFSET_EXCEEDED in LOCKED leaves LOCKED and treats the reference as returning (Table 2.4). -/
theorem exec_offsetExceeded (hlocked : s.timing = 2) (hrun : 4 ≤ s.tb.overRun) (hoff : s.refOff s.tb.selected = some off) :
    exec .offsetExceeded s = .next ((s.leaveLocked (s.refB s.tb.selected)).offsetReturn off) := by
  have hexec : exec .offsetExceeded s =
    .next ((s.leaveLocked (s.refB s.tb.selected)).returnOf s.tb.selected) := if_pos ⟨hlocked, hrun⟩
  rw [hexec, returnOf_some (by rw [refOff_leaveLocked, hoff])]

end Returning

/-! #### Qualification -/

section Qualify

variable {s : State} {ref : Nat}

theorem qualify_port (h : 3 ≤ ref) : s.qualify ref = s.setPort (ref - 3) { s.port (ref - 3) with mkOk := true } := by
  simp only [State.qualify, show ref ≠ 1 by omega, show ref ≠ 2 by omega, if_false]

theorem unqualify_port (h : 3 ≤ ref) :
    s.unqualify ref = s.setPort (ref - 3) { s.port (ref - 3) with mkOk := false, mkRun := 0, mkNumber := none } := by
  simp only [State.unqualify, show ref ≠ 0 by omega, show ref ≠ 1 by omega, show ref ≠ 2 by omega, if_false]

theorem unqualify_ptm : s.unqualify 2 = (if s.nat kPtmState = 2
    then { s with tb := { s.tb with ptmOk := false, ptmRun := 0 } }.setNat kPtmState 1
    else { s with tb := { s.tb with ptmOk := false, ptmRun := 0 } }) := rfl

theorem port_setPort_same (n : Nat) (v : PortSt) : (s.setPort n v).port n = v := by
  simp only [State.port, State.setPort]
  exact Tbl.get_set_same _ _ _ _

/-- A reference that is counted is one of the references of Table 2.3. -/
theorem ref_pos_of_counted (h : s.refCounted ref = true) : ref = 1 ∨ ref = 2 ∨ 3 ≤ ref := by
  have h0 : ref ≠ 0 := by
    rintro rfl
    exact absurd h (by simp [State.refCounted])
  omega

/-- A reference that qualifies is marked so, and the selection and the timing state stay. -/
theorem qualified (h : ref = 1 ∨ ref = 2 ∨ 3 ≤ ref) :
    (ref = 1 → (s.qualify ref).tb.syncOk = true) ∧
    (ref = 2 → (s.qualify ref).tb.ptmOk = true ∧ (s.qualify ref).nat kPtmState = 2) ∧
    (3 ≤ ref → ((s.qualify ref).port (ref - 3)).mkOk = true) ∧
    (s.qualify ref).tb.selected = s.tb.selected ∧ slotsKept s (s.qualify ref) [kPtmState] ∧ memoryKept s (s.qualify ref) ∧
    workKept s (s.qualify ref) := by
  have hmem := (Quiet.refl s).memoryKept
  have hwork := (Quiet.refl s).workKept
  rcases h with rfl | rfl | h
  · exact ⟨fun _ => rfl, nofun, fun h => absurd h (by decide), rfl, fun _ _ => rfl, hmem, hwork⟩
  · exact ⟨nofun, fun _ => ⟨rfl, State.nat_setNat_same _ (by decide)⟩, fun h => absurd h (by decide), rfl,
      fun k hk => State.reg_setNat_other _ _ (List.ne_of_not_mem_cons hk), hmem, hwork⟩
  · rw [qualify_port h]
    exact ⟨by omega, by omega, fun _ => by rw [port_setPort_same], rfl, fun _ _ => rfl, hmem, hwork⟩

/-- A reference that loses its qualification is none to select, and the selection stays. -/
theorem unqualified (h : ref = 1 ∨ ref = 2 ∨ 3 ≤ ref) :
    (∀ t : State, t.tb = (s.unqualify ref).tb → t.ports = (s.unqualify ref).ports → t.refOk ref = false) ∧
    (s.unqualify ref).tb.selected = s.tb.selected ∧ slotsKept s (s.unqualify ref) [kPtmState] ∧
    memoryKept s (s.unqualify ref) ∧ workKept s (s.unqualify ref) := by
  have hmem := (Quiet.refl s).memoryKept
  have hwork := (Quiet.refl s).workKept
  rcases h with rfl | rfl | h
  · refine ⟨fun t ht _ => ?_, rfl, fun _ _ => rfl, hmem, hwork⟩
    simp [State.refOk, ht, State.unqualify]
  · rw [unqualify_ptm]
    split
    · refine ⟨fun t ht _ => by simp [State.refOk, ht], rfl,
        fun k hk => State.reg_setNat_other _ _ (List.ne_of_not_mem_cons hk), hmem, hwork⟩
    · exact ⟨fun t ht _ => by simp [State.refOk, ht], rfl, fun _ _ => rfl, hmem, hwork⟩
  · rw [unqualify_port h]
    refine ⟨fun t _ ht => ?_, rfl, fun _ _ => rfl, hmem, hwork⟩
    have hport : t.port (ref - 3) = { s.port (ref - 3) with mkOk := false, mkRun := 0, mkNumber := none } := by
      rw [← port_setPort_same (s := s) (ref - 3) { s.port (ref - 3) with mkOk := false, mkRun := 0, mkNumber := none }]
      simp only [State.port, ht]
    simp only [State.refOk, show ref ≠ 0 by omega, show ref ≠ 1 by omega, show ref ≠ 2 by omega, if_false, hport,
      Bool.false_and]

/-- REF_QUALIFIED of an offset that R87 does not refuse qualifies the reference, in a state whose OFFSET_NS may have taken the
offset. -/
theorem exec_refQualified_ok {off : Int} (hcount : s.refCounted ref = true)
    (h : s.timing = 2 ∨ s.refOff ref = none ∨ (s.refOff ref = some off ∧ -1000000 ≤ off)) :
    ∃ u, (u = s ∨ u = s.setReg kOffsetNs (i32Word off)) ∧ exec (.refQualified ref off) s = .next (u.qualify ref) := by
  have hc : ¬ s.refCounted ref = false := by simp [hcount]
  simp only [exec, execRefQualified, if_neg hc]
  cases hoff : s.refOff ref with
  | none => exact ⟨s, .inl rfl, rfl⟩
  | some x =>
    by_cases hlocked : s.timing = 2
    · exact ⟨s, .inl rfl, if_pos hlocked⟩
    · obtain ⟨rfl, hlo⟩ : x = off ∧ -1000000 ≤ off := by
        rcases h with h | h | h
        · exact absurd h hlocked
        · rw [hoff] at h
          cases h
        · rw [hoff] at h
          exact ⟨Option.some.inj h.1, h.2⟩
      refine ⟨s.setReg kOffsetNs (i32Word x), .inr rfl, ?_⟩
      simp only [hlocked, if_false, ne_eq, not_true_eq_false, if_neg (not_lt.2 hlo)]

end Qualify

/-! #### The choice of a reference -/

section Select

variable (s : State) (ref : Nat)

/-- The state in which a reference is selected, before its slots say so (R73). -/
def chosen (s : State) (ref : Nat) : State :=
  { s with tb := { s.tb with selected := ref, lost := false, returning := none, lockRun := 0, overRun := 0 } }

theorem selectRef_eq : s.selectRef ref =
    (((chosen s ref).setNat kRefSelected (min ref 3)).setNat kHopCount (s.refHop ref)).setNat kStepPending 0 := rfl

theorem timed_selectRef : Timed [kRefSelected, kHopCount, kStepPending] s (s.selectRef ref) :=
  (((timed_tb s _).trans (timed_setNat _ _ _)).trans (timed_setNat _ _ _)).trans (timed_setNat _ _ _)

/-- The slots of the selection name the reference, its hops and no step (R73, R75, R834). -/
theorem nat_selectRef (hhop : s.refHop ref < 2 ^ 64) : (s.selectRef ref).nat kRefSelected = min ref 3 ∧
    (s.selectRef ref).nat kHopCount = s.refHop ref ∧ (s.selectRef ref).nat kStepPending = 0 := by
  rw [selectRef_eq]
  refine ⟨?_, ?_, ?_⟩
  all_goals simp (disch := first | decide | omega) only [State.nat_setNat_other, State.nat_setNat_same]

/-- A selected reference that has been marked as lost loses its qualification without a further event (R73, R81). -/
theorem loseRef_lost (hsel : s.tb.selected = ref) (h0 : ref ≠ 0) (hlost : s.tb.lost = true) :
    s.loseRef = s.unqualify ref := by
  have hgone : s.refGone ref = true := by simp [State.refGone, hlost]
  have hsame : ({ s with tb := { s.tb with lost := true } } : State) = s := by rw [← hlost]
  subst hsel
  unfold State.loseRef
  dsimp only
  rw [if_pos ⟨h0, hgone⟩, if_pos hlost]
  exact congrArg (State.unqualify · _) hsame

/-- Where no reference is selected, none is lost. -/
theorem loseRef_none (hsel : s.tb.selected = 0) : s.loseRef = s := if_neg fun h => h.1 hsel

theorem bestRef_none (h1 : s.refOk 1 = false) (h2 : s.refOk 2 = false) (hport : s.bestPort = none) : s.bestRef = 0 := by
  simp [State.bestRef, h1, h2, hport]

end Select

/-- The state in which LOCKED is entered, before its slots say so (Table 2.4). -/
def locking (s : State) : State := { s with tb := { s.tb with returning := none, overRun := 0, everLocked := true } }

theorem enterLocked_eq (s : State) : s.enterLocked =
    (((locking s).setNat kTimingState 2).setDrift (some (s.refB s.tb.selected * 1000000000))).timingEvent 3 := by
  have href : (locking s).refB (locking s).tb.selected = s.refB s.tb.selected := rfl
  rw [← href]
  rfl

/-- Settles O7: each event by the transition of Table 2.4 that it makes; what the transitions do not name is kept, as they
change slots of the timebase, the timebase and messages only. -/
theorem timingStates : Obligations.TimingStates := by
  refine ⟨?_, ?_, ?_, ?_, ?_, ?_, ?_, ?_, ?_, ?_⟩
  · intro s ref off hcount h
    obtain ⟨u, hu, hexec⟩ := exec_refQualified_ok hcount h
    obtain ⟨h1, h2, h3, hsel, hslots, hmem, hwork⟩ := qualified (s := u) (ref_pos_of_counted hcount)
    have hfrom : Timed [kOffsetNs] s u ∧ u.tb = s.tb := by
      rcases hu with rfl | rfl
      · exact ⟨.refl _ _, rfl⟩
      · exact ⟨timed_setReg _ _ _, rfl⟩
    obtain ⟨hu, htb⟩ := hfrom
    have hkept := hu.slots.trans hslots
    exact ⟨_, hexec, h1, h2, h3, nat_of_reg (hkept _ (by decide)), by rw [hsel, htb], hkept, hu.memoryKept.trans hmem,
      hu.workKept.trans hwork⟩
  · intro s ref off hcount hfree hoff hlo
    have hexec : exec (.refQualified ref off) s =
        .next (((s.setReg kOffsetNs (i32Word off)).unqualify ref).timingEvent 6) := by
      simp only [exec, execRefQualified, hcount, hoff, hfree, hlo, if_false, if_true, ne_eq, not_true_eq_false,
        Bool.true_eq_false]
    obtain ⟨hok, hsel, hslots, hmem, hwork⟩ :=
      unqualified (s := s.setReg kOffsetNs (i32Word off)) (ref_pos_of_counted hcount)
    have hev := timed_timingEvent ((s.setReg kOffsetNs (i32Word off)).unqualify ref) 6
    have hkept := (timed_setReg s kOffsetNs (i32Word off)).slots.trans (hslots.trans hev.slots)
    refine ⟨_, hexec, hok _ (tb_timingEvent _ _) hev.ports, ?_, State.bit_timingEvent _ 6 (by decide),
      nat_of_reg (hkept _ (by decide)), by rw [tb_timingEvent, hsel]; rfl, hmem.trans hev.memoryKept,
      hwork.trans hev.workKept⟩
    exact ((hslots.trans hev.slots) _ (by decide)).trans (State.reg_setReg_same _ _ _)
  · intro s ref off h
    simp only [exec, execRefQualified]
    rcases h with h | ⟨hfree, x, hx, hne⟩
    · rw [if_pos h]
    · split
      · rfl
      · simp only [hx, if_pos (Ne.symm hne)]
  · intro s ref h0 hsel hlost hexp
    have hev := timed_timingEvent { s with tb := { s.tb with lost := true } } 0
    exact ⟨_, if_pos ⟨h0, hsel.symm, hlost, hexp⟩, tb_timingEvent _ _, State.bit_timingEvent _ 0 (by decide), hev.slots,
      hev.memoryKept, hev.workKept⟩
  · intro s off hlocked hrun hoff hlimit hlo hhi
    have hleft := timed_leaveLocked s (s.refB s.tb.selected)
    have htiming := (timing_leaveLocked s (s.refB s.tb.selected)).trans (if_neg hlimit)
    obtain ⟨hall, hsel, hret, hdrift⟩ := offsetReturn_slew_leaves (off := off) (by rw [htiming]; decide) hhi hlo
    rw [selected_leaveLocked, hleft.refB] at hdrift
    exact ⟨_, exec_offsetExceeded hlocked hrun hoff, (hall.nat (by decide)).trans htiming,
      (hall.bit 1 (by decide)).trans (bit_leaveLocked s _ hlimit), hsel.trans (selected_leaveLocked s _), hret, hdrift,
      hleft.memoryKept.trans hall.memoryKept, hleft.workKept.trans hall.workKept⟩
  · intro s off hlocked hrun hoff hlimit hhi
    have hleft := timed_leaveLocked s (s.refB s.tb.selected)
    have htiming := (timing_leaveLocked s (s.refB s.tb.selected)).trans (if_neg hlimit)
    obtain ⟨hall, hsel, hstep⟩ := offsetReturn_step_leaves (s := s.leaveLocked (s.refB s.tb.selected)) hhi
    exact ⟨_, exec_offsetExceeded hlocked hrun hoff, (hall.nat (by decide)).trans htiming,
      (hall.bit 1 (by decide)).trans (bit_leaveLocked s _ hlimit), hsel.trans (selected_leaveLocked s _), hstep,
      hleft.memoryKept.trans hall.memoryKept, hleft.workKept.trans hall.workKept⟩
  · intro s hfree hnum hsel hrun
    have hcond : s.lockCondition = true := by simp [State.lockCondition, hnum, hsel, hrun]
    refine ⟨_, if_pos ⟨hfree, hcond⟩, ?_⟩
    rw [enterLocked_eq]
    have hdrift := timed_setDrift ((locking s).setNat kTimingState 2) (some (s.refB s.tb.selected * 1000000000))
    have hev := timed_timingEvent (((locking s).setNat kTimingState 2).setDrift (some (s.refB s.tb.selected * 1000000000))) 3
    have hall := (((timed_tb s _).trans (timed_setNat (locking s) kTimingState 2)).trans hdrift).trans hev
    rw [tb_timingEvent, tb_setDrift]
    exact ⟨(hev.nat (by decide)).trans ((hdrift.nat (by decide)).trans (State.nat_setNat_same _ (by decide))),
      State.bit_timingEvent _ 3 (by decide), rfl, rfl, hall.memoryKept, hall.workKept, hall.slots⟩
  · intro s hhold hlimit hcond
    refine ⟨_, (if_pos ⟨hhold, hlimit⟩).trans (if_neg (by rw [hcond]; decide)), ?_⟩
    have hev := timed_timingEvent (s.setNat kTimingState 0) 2
    have hmute := timed_muteNow ((s.setNat kTimingState 0).timingEvent 2)
    have htiming : ((s.setNat kTimingState 0).timingEvent 2).timing = 0 :=
      (hev.nat (by decide)).trans (State.nat_setNat_same _ (by decide))
    have hall := ((timed_setNat s kTimingState 0).trans hev).trans hmute
    refine ⟨(hmute.nat (by decide)).trans htiming,
      (hmute.bit 2 (by decide)).trans (State.bit_timingEvent _ 2 (by decide)), ?_, hall.memoryKept, hall.workKept⟩
    rw [tb_muteNow, State.selfMutes, htiming]
    exact Bool.or_true _
  · intro s hsel hfree hok hoff
    have hbest : s.bestRef = 1 := if_pos hok
    have hre : s.reselect = (s.selectRef 1).estimate := by
      have hnone : (s.selectRef 1).refOff 1 = none := hoff
      simp only [State.reselect, loseRef_none s hsel, hbest, hsel, hfree, if_false, one_ne_zero, returnOf_none hnone]
    obtain ⟨d, hd⟩ := tb_estimate (s.selectRef 1)
    have hest := timed_estimate (s.selectRef 1)
    obtain ⟨href, hhop, -⟩ := nat_selectRef s 1 (by decide : (0 : Nat) < 2 ^ 64)
    rw [hre]
    exact ⟨congrArg Timing.selected hd, (hest.nat (by decide)).trans href, (hest.nat (by decide)).trans hhop,
      ((timed_selectRef s 1).trans hest).nat (by decide)⟩
  · intro s hsel hlost hlocked hptm hport
    have hbest : (s.unqualify 1).bestRef = 0 := bestRef_none _ rfl hptm hport
    have htiming : (s.unqualify 1).timing = 2 := hlocked
    have hcur : (s.unqualify 1).tb.selected = 1 := hsel
    have hre : s.reselect = ((s.unqualify 1).leaveLocked ((s.unqualify 1).refB 1)).selectRef 0 := by
      simp only [State.reselect, loseRef_lost s 1 hsel (by decide) hlost, hbest, htiming, hcur, if_true, zero_ne_one, if_false,
        ne_eq, not_true_eq_false, false_and]
    obtain ⟨href, hhop, hstep⟩ := nat_selectRef ((s.unqualify 1).leaveLocked ((s.unqualify 1).refB 1)) 0
      (by decide : (0xFF : Nat) < 2 ^ 64)
    rw [hre]
    exact ⟨rfl, href, hhop, hstep, ((timed_selectRef _ 0).nat (by decide)).trans (timing_leaveLocked _ _)⟩

end Sys2Proof.Safety

namespace Sys2Proof.Safety

open Sys2Proof.Machine

/-! ### The queue and the reset state (O1, O2) -/

/-- Settles O1: the three cases of the queue. -/
theorem stepRunsFront : Obligations.StepRunsFront := by
  refine ⟨fun s c rest h => ?_, fun s c => rfl, fun s h => ?_⟩
  · simp only [step, h]
  · simp only [step, h]

/-- No entry of the reset state's partitions is listed, and an unlisted PART_STATE of a partition from 1 on reads FREE. -/
theorem partState_reset : ∀ p, p < 64 → 1 ≤ p → State.reset.partState p = 0 := by decide +kernel

theorem portState_reset : ∀ n, n < 16 → State.reset.nat (kPortState n) = 5 := by decide +kernel

theorem granuleOwner_reset (g : Nat) (hg : g < 192) : State.reset.oct kGranuleOwner g = 0xFF := by
  have hidx : (kGranuleOwner * 512 + g) / 512 = kGranuleOwner := by omega
  simp [State.oct, State.reset, Tbl.get, octDefault, hidx]

theorem wf_reset : Memory.wf State.reset = true := by decide +kernel

/-- Settles O2: the reset state lists 20 slots only, and every other entry reads its default. -/
theorem resetValues : Obligations.ResetValues :=
  ⟨wf_reset, rfl, rfl, rfl, rfl, rfl, by decide +kernel, by decide +kernel, by decide +kernel, by decide +kernel,
    by decide +kernel, granuleOwner_reset, portState_reset, fun p h1 hp => partState_reset p hp h1⟩

/-! ### Entries that hold a value (O16) -/

section HeldEntries

variable {s : State} {p l : Nat}

/-- With no run-ahead work held there is none to squash (R206, R569). -/
theorem squashLayer_nil (h : s.runahead = []) : s.squashLayer p l = s := by
  simp [State.squashLayer, h]

theorem squashPart_nil (h : s.runahead = []) (f : Nat → Bool) (counter : Nat) : s.squashPart p f counter = s := by
  simp [State.squashPart, h]

theorem reg_keepLive (k j : Nat) : (s.keepLive k).reg j = s.reg j := rfl

/-- A kept entry acts with its present value for the rest of the frame, whatever its slot takes (log 46). -/
theorem liveNat_keepLive_setReg (k : Nat) (v : Word) : ((s.keepLive k).setReg k v).liveNat k = s.liveNat k := by
  simp [State.liveNat, State.keepLive, Tbl.get_set_same]

/-- An applied write of an entry that acts from the next frame on: the slot takes the value. -/
theorem keptEntry_applied (who : Requester) (k : Nat) (v : Word) :
    (((s.keepLive k).setReg k v).applied who).reg k = v ∧ slotsKept s (((s.keepLive k).setReg k v).applied who) [k] ∧
    (((s.keepLive k).setReg k v).applied who).liveNat k = s.liveNat k ∧
    memoryKept s (((s.keepLive k).setReg k v).applied who) ∧ workKept s (((s.keepLive k).setReg k v).applied who) := by
  refine ⟨by simp, fun j hj => ?_, liveNat_keepLive_setReg k v, (Quiet.refl s).memoryKept, (Quiet.refl s).workKept⟩
  rw [State.reg_applied, State.reg_setReg_other _ _ (List.ne_of_not_mem_cons hj), reg_keepLive]

end HeldEntries

/-- Settles O16: each write is applied with the effect of its entry, or refused where its chapter says so. -/
theorem heldEntries : Obligations.HeldEntries := by
  refine ⟨?_, ?_, ?_, ?_, ?_, ?_, ?_, ?_, ?_, ?_⟩
  · intro s who c v h
    exact congrArg Host.Outcome.next (State.slotWrite_applied h fun _ => rfl)
  · intro s who p l v h hra
    refine ⟨_, congrArg Host.Outcome.next (State.slotWrite_applied h fun _ => rfl), ?_⟩
    rw [squashLayer_nil hra]
    exact keptEntry_applied who _ v
  · intro s who p v h hra
    refine ⟨_, congrArg Host.Outcome.next (State.slotWrite_applied h fun _ => rfl), ?_⟩
    rw [squashPart_nil hra]
    exact keptEntry_applied who _ v
  · intro s who r k v h
    exact congrArg Host.Outcome.next (State.slotWrite_applied h fun _ => rfl)
  · intro s who p k v h hok
    exact congrArg Host.Outcome.next (State.slotWrite_applied h fun _ => if_pos hok)
  · intro s who p k v h hbad
    exact congrArg Host.Outcome.next (State.slotWrite_refused h fun _ => if_neg (by rw [hbad]; decide))
  · intro s who p i v hi h
    have hkey : kRopeBase p 0 - 1 + (i + 1) = kRopeBase p i := by unfold kRopeBase; omega
    have hsub : i + 1 ≤ 8 := hi
    simp only [exec, execRopeSetWrite, hkey, hsub, if_true]
    rw [State.slotWrite_applied h fun _ => rfl]
  · intro s who p i v hi h
    have hkey : kRopeBase p 0 - 1 + (i + 9) = kRopeCfg p i := by unfold kRopeBase kRopeCfg; omega
    have hsub : ¬ i + 9 ≤ 8 := by omega
    simp only [exec, execRopeSetWrite, hkey, hsub, if_false]
    rw [State.slotWrite_applied h fun _ => rfl]
  · intro s who p v h
    exact congrArg Host.Outcome.next (State.slotWrite_applied h fun _ => rfl)
  · intro s who p v h
    exact congrArg Host.Outcome.next (State.slotWrite_applied h fun _ => rfl)

end Sys2Proof.Safety

namespace Sys2Proof.Safety

open Sys2Proof.Machine

/-! ### What the memory-side cache and the translation caches change -/

theorem slotsKept.trans_same {s t u : State} {l : List Nat} (h : slotsKept s t l) (h' : slotsKept t u l) : slotsKept s u l :=
  fun k hk => (h' k hk).trans (h k hk)

/-- Only the caches, their two counters and the free values differ (R131, R526). -/
structure Cached (s t : State) : Prop where
  eq : { t with regs := [], msc := [], free := 0, tlb := [] } = { s with regs := [], msc := [], free := 0, tlb := [] }
  slots : slotsKept s t [kMscHits, kMscMisses]

section Cached

variable {s t u : State}

theorem Cached.refl (s : State) : Cached s s := ⟨rfl, fun _ _ => rfl⟩

theorem Cached.trans (h : Cached s t) (h' : Cached t u) : Cached s u := ⟨h'.eq.trans h.eq, h.slots.trans_same h'.slots⟩

/-- Whatever a state holds beside the caches is the same. -/
theorem Cached.field {α : Type} (h : Cached s t) (f : State → α) :
    f { t with regs := [], msc := [], free := 0, tlb := [] } = f { s with regs := [], msc := [], free := 0, tlb := [] } :=
  congrArg f h.eq

theorem Cached.memoryKept (h : Cached s t) : memoryKept s t := by
  have hocts : t.octs = s.octs := h.field State.octs
  refine ⟨fun a => ?_, fun a => ?_, fun a => ?_, fun a => ?_, fun k i => ?_, fun a => ?_, fun a => ?_⟩
  · exact congrArg (Tbl.get 0 · a) (h.field State.ls)
  · exact congrArg (Tbl.get 0 · a) (h.field State.fs)
  · exact congrArg (Tbl.get 0 · a) (h.field State.acc)
  · exact congrArg (Tbl.get 0 · a) (h.field State.hbm)
  · simp only [State.oct, hocts]
  · exact congrArg (Tbl.get 0 · a) (h.field State.ackMem)
  · exact congrArg (Tbl.get 0 · a) (h.field fun s => s.mario.flash)

theorem Cached.workKept (h : Cached s t) : workKept s t :=
  ⟨h.field State.inflight, h.field State.rings, h.field State.posted, h.field State.jobs, h.field State.aborts⟩

theorem Cached.hbm (h : Cached s t) : t.hbm = s.hbm := h.field State.hbm
theorem Cached.octs (h : Cached s t) : t.octs = s.octs := h.field State.octs
theorem Cached.reg (h : Cached s t) {k : Nat} (hk : k ∉ [kMscHits, kMscMisses]) : t.reg k = s.reg k := h.slots k hk
theorem Cached.nat (h : Cached s t) {k : Nat} (hk : k ∉ [kMscHits, kMscMisses]) : t.nat k = s.nat k := nat_of_reg (h.reg hk)

theorem Cached.ownsPa (h : Cached s t) (p pa : Nat) : t.ownsPa p pa = s.ownsPa p pa := by
  simp only [State.ownsPa, State.granuleOwner, State.oct, h.octs]

theorem Cached.foldl {α : Type} {f : State → α → State} (hf : ∀ s x, Cached s (f s x)) (l : List α) :
    ∀ s, Cached s (l.foldl f s) := by
  induction l with
  | nil => exact fun s => .refl s
  | cons x l ih => exact fun s => (hf s x).trans (ih (f s x))

theorem cached_setMsc (s : State) {k : Nat} (hk : k ∈ [kMscHits, kMscMisses]) (x : Tbl (List (Nat × Bool))) (n : Nat) :
    Cached s { s.wrapAdd k with msc := x, free := n } :=
  ⟨rfl, fun j hj => (State.reg_of_regs rfl j).trans (State.reg_wrapAdd_other s _ _ fun h => hj (h ▸ hk))⟩

/-- A line that passes through the MSC changes the MSC and its counters (R131). -/
theorem cached_mscTouch (s : State) (pa : Nat) (wr alloc : Bool) : Cached s (s.mscTouch pa wr alloc) := by
  have hhit : kMscHits ∈ [kMscHits, kMscMisses] := by decide
  have hmiss : kMscMisses ∈ [kMscHits, kMscMisses] := by decide
  unfold State.mscTouch
  dsimp only
  split
  · exact cached_setMsc s hhit _ s.free
  · split
    · exact cached_setMsc s hmiss s.msc s.free
    · split
      · exact cached_setMsc s hmiss _ s.free
      · exact cached_setMsc s hmiss _ _

theorem cached_tlb (s : State) (x : Tbl Nat) : Cached s { s with tlb := x } := ⟨rfl, fun _ _ => rfl⟩

/-- A translation changes the caches only (R526). -/
theorem cached_translate (s : State) (p va : Nat) (wr : Bool) : Cached s (s.translate p va wr).2 := by
  have hwalk : ∀ l : List Nat, Cached s (l.foldl (fun (t : State) pa => t.mscTouch pa false) s) := fun l =>
    .foldl (fun s pa => cached_mscTouch s pa false true) l s
  unfold State.translate
  split
  · exact .refl s
  · dsimp only
    split
    · split
      · exact .refl s
      · exact ⟨rfl, fun _ _ => rfl⟩
    · split
      · exact (hwalk _).trans (cached_tlb _ _)
      · exact hwalk _

end Cached

/-! ### Ring pages (O9) -/

section Fetch

variable {s t u : State} {r : Nat}

theorem ring_setRing_same (s : State) (r : Nat) (v : RingSt) : (s.setRing r v).ring r = v := by
  simp only [State.ring, State.setRing]
  exact Tbl.get_set_same _ _ _ _

theorem ring_setRing_other (s : State) {r q : Nat} (h : q ≠ r) (v : RingSt) : (s.setRing r v).ring q = s.ring q := by
  simp only [State.ring, State.setRing]
  exact Tbl.get_set_other _ _ _ _ h

/-- Entries added at the end of what a ring holds, with the caches on the way (R532, R538). -/
structure Fetched (r n : Nat) (s t : State) : Prop where
  length : (t.ring r).fetched.length = (s.ring r).fetched.length + n
  prior : (t.ring r).fetched.take (s.ring r).fetched.length = (s.ring r).fetched
  others : ∀ q, q ≠ r → t.ring q = s.ring q
  slots : slotsKept s t [kMscHits, kMscMisses]
  memory : memoryKept s t
  inflight : t.inflight = s.inflight

theorem Fetched.refl (s : State) : Fetched r 0 s s :=
  ⟨rfl, List.take_length, fun _ _ => rfl, fun _ _ => rfl, (Quiet.refl s).memoryKept, rfl⟩

theorem Fetched.trans {n m : Nat} (h : Fetched r n s t) (h' : Fetched r m t u) : Fetched r (n + m) s u where
  length := by rw [h'.length, h.length, Nat.add_assoc]
  prior := by
    have hle : (s.ring r).fetched.length ≤ (t.ring r).fetched.length := by rw [h.length]; omega
    have hsub : (u.ring r).fetched.take (s.ring r).fetched.length =
        ((u.ring r).fetched.take (t.ring r).fetched.length).take (s.ring r).fetched.length := by
      rw [List.take_take, Nat.min_eq_left hle]
    rw [hsub, h'.prior, h.prior]
  others q hq := (h'.others q hq).trans (h.others q hq)
  slots := h.slots.trans_same h'.slots
  memory := h.memory.trans h'.memory
  inflight := h'.inflight.trans h.inflight

/-- Of one entry fetched, only the value read from HBM depends on the caches (R532, R539). -/
theorem fetchEntry_eq (s : State) (r i : Nat) : ∃ (v : State) (e : Nat), Cached s v ∧
    s.fetchEntry r i = v.setRing r { v.ring r with fetched := (v.ring r).fetched ++ [(e, v.tb.ticks + 1)] } := by
  have htr := cached_translate s (s.ringPart r) (s.nat (kRingBase r) + 64 * (i % max (s.nat (kRingEntries r)) 1)) false
  unfold State.fetchEntry
  dsimp only
  split
  · exact ⟨_, _, htr.trans (cached_mscTouch _ _ _ _), rfl⟩
  · exact ⟨_, _, htr, rfl⟩

theorem fetched_fetchEntry (s : State) (r i : Nat) : Fetched r 1 s (s.fetchEntry r i) := by
  obtain ⟨v, e, hv, heq⟩ := fetchEntry_eq s r i
  have hrings : v.rings = s.rings := hv.field State.rings
  have hring : ∀ q, v.ring q = s.ring q := fun q => by simp only [State.ring, hrings]
  rw [heq]
  refine ⟨?_, ?_, fun q hq => ?_, hv.slots, hv.memoryKept, hv.field State.inflight⟩
  · rw [ring_setRing_same, hring, List.length_append]
    rfl
  · rw [ring_setRing_same, hring]
    exact List.take_left
  · rw [ring_setRing_other _ hq, hring]

theorem fetched_foldl (l : List Nat) : ∀ s : State, Fetched r l.length s (l.foldl (fun s i => s.fetchEntry r i) s) := by
  induction l with
  | nil => exact fun s => .refl s
  | cons i l ih =>
    intro s
    have h := (fetched_fetchEntry s r i).trans (ih (s.fetchEntry r i))
    rwa [Nat.add_comm] at h

end Fetch

/-- Settles O9: a doorbell by the ring's state and the test of R535, fetched entries one after another. -/
theorem ringPages : Obligations.RingPages := by
  refine ⟨?_, ?_, ?_, ?_, ?_⟩
  · intro s fn r v hpage hlife hv hroom
    have hok : s.doorbellOk r v = true := decide_eq_true hroom
    simp only [exec, execDoorbell, hpage, hlife, Nat.mod_eq_of_lt hv, hok, if_true, Bool.true_eq_false, if_false,
      show ¬ (1 : Nat) = 2 by decide]
  · intro s fn r v hpage hlife hv hfull
    have hbad : s.doorbellOk r v = false := decide_eq_false (Nat.not_le.2 hfull)
    simp only [exec, execDoorbell, hpage, hlife, Nat.mod_eq_of_lt hv, hbad, Bool.true_eq_false, Bool.false_eq_true, if_false,
      show ¬ (1 : Nat) = 2 by decide]
  · intro s fn r v hpage hlife
    simp only [exec, execDoorbell, hpage, hlife, Bool.true_eq_false, if_false, if_true]
  · intro s r hlife
    have h := fetched_foldl (r := r) (s.unfetched r) s
    exact ⟨_, if_neg hlife, h.length, h.prior, h.others, h.slots, h.memory, h.inflight⟩
  · intro s fn r v hpage hv
    simp only [exec, execCqConsWrite, hpage, if_true, Nat.mod_eq_of_lt hv]

/-! ### NOP, PRECISION_SET and ORDER (O10) -/

section Descriptors

variable {s : State} {id : Nat} {d : Desc}

/-- A command of a descriptor's opcode acts on it while it has not ended. -/
theorem runOff_of_offCore {op : Nat} (h : offCore s id op d) (f : State → Desc → State) : s.runOff id [op] f = f s d := by
  obtain ⟨hdesc, hended, rfl⟩ := h
  simp [State.runOff, hdesc, hended]

theorem id_of_desc? (h : s.desc? id = some d) : d.id = id := by
  have := List.find?_some h
  simpa using this

/-- A found element reads its replacement, where the replacement is found too. -/
theorem find?_replaceFirst {α : Type} {p : α → Bool} {f : α → α} {l : List α} {a : α} (h : l.find? p = some a)
    (hf : p (f a) = true) : (replaceFirst p f l).find? p = some (f a) := by
  induction l with
  | nil => cases h
  | cons x l ih =>
    by_cases hx : p x = true
    · rw [List.find?_cons_of_pos hx] at h
      cases h
      simp [replaceFirst, hx, hf]
    · rw [List.find?_cons_of_neg hx] at h
      simp [replaceFirst, hx, ih h]

/-- A descriptor that is changed, and keeps its number, reads as changed. -/
theorem desc?_modDesc (h : s.desc? id = some d) {f : Desc → Desc} (hf : (f d).id = d.id) :
    (s.modDesc id f).desc? id = some (f d) :=
  find?_replaceFirst h (by rw [hf, id_of_desc? h, beq_self_eq_true])

end Descriptors

section Order

variable {s : State} {id c : Nat} {d : Desc}

/-- The descriptor of an ORDER as it ends after `n` cycles. -/
def orderEnded (s : State) (id n : Nat) : State := (s.spend id n).endDesc id stOk

/-- An ORDER that waits for no write ends, and its core counts it and its wait (R585). -/
theorem exec_order_clear (h : offCore s id 1 d) (hcore : s.descCore d = some c) (hbegun : d.prog.orderBegun = true)
    (hwin : s.tb.window = .compute)
    (hclear : ∀ w ∈ s.posted, ((s.earlierOnCore d).map (·.id)).contains w.desc = true → inScope (d.at 9 1) w = false) :
    exec (.order id) s = .next (((orderEnded s id (d.prog.orderCc + 4)).bump (kOrdersRun c)).wrapAdd (kOrderWaitCc c)
      (d.prog.orderCc + 4)) := by
  have hnone : (s.posted.any fun w => ((s.earlierOnCore d).map (·.id)).contains w.desc && inScope (d.at 9 1) w) = false :=
    List.any_eq_false.2 fun w hw hb => by
      obtain ⟨hbefore, hscope⟩ := Bool.and_eq_true_iff.1 hb
      rw [hclear w hw hbefore] at hscope
      cases hscope
  have hc : ((s.spend id (d.prog.orderCc + 4)).endDesc id stOk).descCore d = some c := hcore
  refine congrArg Host.Outcome.next ((runOff_of_offCore h _).trans ?_)
  simp only [hbegun, hwin, hnone, hc, Bool.not_false, beq_self_eq_true, Bool.and_self, if_true, orderEnded]

theorem desc?_orderEnded (h : offCore s id 1 d) (n : Nat) : (orderEnded s id n).desc? id =
    some { d with cycles := d.cycles + n, ended := true, status := 0, endFrame := s.frameNo } := by
  obtain ⟨hdesc, hended, -⟩ := h
  have hspent : (s.spend id n).desc? id = some { d with cycles := d.cycles + n } := desc?_modDesc hdesc rfl
  refine (desc?_modDesc hspent ?_).trans ?_
  · simp only [hended, Bool.false_eq_true, if_false]
  · simp only [hended, Bool.false_eq_true, if_false]
    rfl

/-- What an ORDER leaves that has ended and been counted. -/
theorem order_leaves (h : offCore s id 1 d) {n : Nat} :
    let t := ((orderEnded s id n).bump (kOrdersRun c)).wrapAdd (kOrderWaitCc c) n
    t.nat (kOrdersRun c) = satAdd 32 (s.nat (kOrdersRun c)) 1 ∧
    t.nat (kOrderWaitCc c) = (s.nat (kOrderWaitCc c) + n) % 2 ^ 64 ∧
    t.desc? id = some { d with cycles := d.cycles + n, ended := true, status := 0, endFrame := s.frameNo } ∧
    slotsKept s t [kOrdersRun c, kOrderWaitCc c] ∧ memoryKept s t ∧ t.posted = s.posted := by
  have hne : kOrdersRun c ≠ kOrderWaitCc c := by unfold kOrdersRun kOrderWaitCc; omega
  have hended : ∀ k, (orderEnded s id n).reg k = s.reg k := State.reg_of_regs rfl
  refine ⟨?_, ?_, desc?_orderEnded h n, fun k hk => ?_, (Quiet.refl s).memoryKept, rfl⟩
  · rw [State.wrapAdd, State.nat_setNat_other _ _ hne, nat_bump_same _ _ _ (by decide), nat_of_reg (hended _)]
  · rw [State.wrapAdd, State.nat_setNat_same _ (Nat.mod_lt _ (by decide)), nat_bump_other _ _ _ hne.symm, nat_of_reg (hended _)]
  · simp only [List.mem_cons, List.not_mem_nil, or_false, not_or] at hk
    rw [State.reg_wrapAdd_other _ _ _ hk.2, State.reg_bump_other _ _ _ hk.1, hended]

end Order

/-- Settles O10: each command acts on a descriptor of its opcode that has not ended, and ORDER on one that has begun. -/
theorem orderAndPrecision : Obligations.OrderAndPrecision := by
  refine ⟨?_, ?_, ?_, ?_, ?_⟩
  · intro s id d h
    exact congrArg Host.Outcome.next (runOff_of_offCore h _)
  · intro s id d h hra hlive
    refine congrArg Host.Outcome.next ((runOff_of_offCore h _).trans ?_)
    simp only [squashLayer_nil hra, hlive]
    rfl
  · intro s id waited d h hbefore hwin
    refine congrArg Host.Outcome.next ((runOff_of_offCore h _).trans ?_)
    rw [if_pos (by rw [hbefore, hwin]; rfl)]
  · intro s id d c h hcore hbegun hwin hclear
    exact ⟨_, exec_order_clear h hcore hbegun hwin hclear, order_leaves h⟩
  · intro s id d w h hw hbefore hscope
    refine congrArg Host.Outcome.next ((runOff_of_offCore h _).trans ?_)
    have hany : (s.posted.any fun w => ((s.earlierOnCore d).map (·.id)).contains w.desc && inScope (d.at 9 1) w) = true :=
      List.any_eq_true.2 ⟨w, hw, by rw [hbefore, hscope]; rfl⟩
    simp only [hany, Bool.not_true, Bool.and_false, Bool.false_eq_true, if_false]

end Sys2Proof.Safety

namespace Sys2Proof.Safety

open Sys2Proof.Machine

/-! ### Rules for writes of entries and for runs of numbered slots -/

section SlotWrites

variable {s u : State} {who : Requester} {e : Ent} {k : Nat} {v : Word} {f : State → EntLoc → Except Reason State}

/-- The outcome of a write that is accepted and applied. -/
theorem next_applied (h : accepts s who e k v) (hf : ∀ l, f s l = .ok u) :
    (Host.Outcome.next (s.slotWrite who e k v f) : Host.Outcome State Fault Refusal) = .next (u.applied who) :=
  congrArg _ (State.slotWrite_applied h hf)

/-- The outcome of a write that passes the tests of R833 and that its chapter refuses. -/
theorem next_refused {r : Reason} (h : accepts s who e k v) (hf : ∀ l, f s l = .error r) :
    (Host.Outcome.next (s.slotWrite who e k v f) : Host.Outcome State Fault Refusal) =
      .next (s.refuse who r (k / 256) (k % 256)) :=
  congrArg _ (State.slotWrite_refused h hf)

theorem memoryKept.applied (h : memoryKept s u) (who : Requester) : memoryKept s (u.applied who) := h

theorem workKept.applied (h : workKept s u) (who : Requester) : workKept s (u.applied who) := h

end SlotWrites

theorem mem_countFrom {a n k : Nat} : k ∈ countFrom a n ↔ a ≤ k ∧ k < a + n := by
  induction n generalizing a with
  | zero => simp [countFrom]
  | succ n ih => simp only [countFrom, List.mem_cons, ih]; omega

/-- What a fold over a list keeps, where each of its steps keeps it. -/
theorem foldl_keeps {α β : Type} {f : State → α → State} {g : State → β} (l : List α) (s : State)
    (h : ∀ s, ∀ a ∈ l, g (f s a) = g s) : g (l.foldl f s) = g s := by
  induction l generalizing s with
  | nil => rfl
  | cons a l ih =>
    exact (ih (f s a) fun s b hb => h s b (List.mem_cons_of_mem _ hb)).trans (h s a (List.mem_cons_self ..))

/-! ### Groups and planes (O25) -/

/-- Settles O25: each write is applied where the group and the planes allow it, and is refused with STATE where they do not. -/
theorem groupsAndPlanes : Obligations.GroupsAndPlanes := by
  refine ⟨?_, ?_, ?_, ?_⟩
  · intro s who g v h hstate hkind hplanes
    exact next_applied h fun l => by simp [writeGroupDef, orRefuse, hstate, hkind, hplanes]
  · intro s who g v h hbad
    refine next_refused h fun l => if_neg ?_
    obtain hstate | ⟨hkind, hdim⟩ := hbad
    · simp [hstate]
    · simp [hkind, Nat.not_le.2 hdim]
  · intro s who sub v h hoff hx hy
    have hany : ((countFrom 0 32).any fun g => gKind (s.nat (kGroupDef g)) != 0) = false :=
      List.any_eq_false.2 fun g hg => by simp [hoff g (mem_countFrom.1 hg).2]
    exact next_applied h fun l => by simp [writePlane, orRefuse, hany, hx, hy]
  · intro s who sub g v h hg hon
    have hany : ((countFrom 0 32).any fun g => gKind (s.nat (kGroupDef g)) != 0) = true :=
      List.any_eq_true.2 ⟨g, mem_countFrom.2 (by omega), by simp [hon]⟩
    exact next_refused h fun l => by simp [writePlane, orRefuse, hany]

/-! ### Partition life (O26) -/

section Partitions

variable {s : State} {p : Nat}

theorem quiet_layersDefault : Quiet s (s.layersDefault p) :=
  .foldl (f := fun s j => s.setReg (kPrecLayer p j) (s.reg kPrecDefault)) (fun s _ => quiet_setReg s _ _) _ s

/-- The precision entries of a partition's layers take the default one; every other slot stays (R486). -/
theorem reg_layersDefault_other {k : Nat} (h : ∀ l, l < 256 → k ≠ kPrecLayer p l) : (s.layersDefault p).reg k = s.reg k :=
  foldl_keeps (g := fun s => s.reg k) _ s fun s j hj => State.reg_setReg_other s _ (h j (mem_countFrom.1 hj).2)

theorem kPrecLayer_injective {l j : Nat} : kPrecLayer p l = kPrecLayer p j ↔ l = j := by unfold kPrecLayer; omega

theorem kPrecDefault_ne (p l : Nat) : kPrecDefault ≠ kPrecLayer p l := by unfold kPrecDefault kPrecLayer; omega

theorem reg_layersDefault (s : State) (xs : List Nat) {l : Nat} (hl : l ∈ xs) :
    (xs.foldl (fun s j => s.setReg (kPrecLayer p j) (s.reg kPrecDefault)) s).reg (kPrecLayer p l) = s.reg kPrecDefault := by
  induction xs generalizing s with
  | nil => cases hl
  | cons j xs ih =>
    have hdef : (s.setReg (kPrecLayer p j) (s.reg kPrecDefault)).reg kPrecDefault = s.reg kPrecDefault :=
      State.reg_setReg_other s _ (kPrecDefault_ne p j)
    by_cases hmem : l ∈ xs
    · exact (ih _ hmem).trans hdef
    · obtain rfl := (List.mem_cons.1 hl).resolve_right hmem
      refine (foldl_keeps (g := fun s => s.reg (kPrecLayer p l)) xs _ fun s j hj => ?_).trans (State.reg_setReg_same s _ _)
      exact State.reg_setReg_other s _ fun he => hmem (kPrecLayer_injective.1 he ▸ hj)

/-- The slots of a partition's own index ranges go back to their defaults (R486, R616). -/
theorem reg_partDefaults_own {k : Nat} (hlo : 0x300000 + 0x4000 * p ≤ k) (hhi : k < 0x304000 + 0x4000 * p) :
    (s.partDefaults p).reg k = regDefault k := by
  refine (Tbl.get_drop _ _ _ _).trans (if_pos ?_)
  have h1 : (0x3000 + 0x40 * p) * 256 ≤ k := by omega
  have h2 : k < (0x3040 + 0x40 * p) * 256 := by omega
  simp [h1, h2]

theorem reg_partDefaults_other {k : Nat} (hp : p < 64) (hown : k < 0x300000 + 0x4000 * p ∨ 0x304000 + 0x4000 * p ≤ k)
    (hk : k < 0x400000) : (s.partDefaults p).reg k = s.reg k := by
  refine (Tbl.get_drop _ _ _ _).trans (if_neg ?_)
  simp only [Bool.or_eq_true, Bool.and_eq_true, decide_eq_true_eq]
  omega

/-- What PART_CREATE leaves of a FREE partition. -/
def created (s : State) (p : Nat) : State :=
  ((((s.partDefaults p).layersDefault p).setNat (kPartState p) 1).setNat (kPartRun p) 0).setNat (kHaltCause p) 1

theorem reg_created_other {k : Nat} (hstate : k ≠ kPartState p) (hrun : k ≠ kPartRun p) (hcause : k ≠ kHaltCause p) :
    (created s p).reg k = ((s.partDefaults p).layersDefault p).reg k := by
  rw [created, State.reg_setNat_other _ _ hcause, State.reg_setNat_other _ _ hrun, State.reg_setNat_other _ _ hstate]

theorem nat_created : (created s p).nat (kPartState p) = 1 ∧ (created s p).nat (kPartRun p) = 0 ∧
    (created s p).nat (kHaltCause p) = 1 := by
  have h12 : kPartState p ≠ kPartRun p := by unfold kPartState kPartRun; omega
  have h13 : kPartState p ≠ kHaltCause p := by unfold kPartState kHaltCause; omega
  have h23 : kPartRun p ≠ kHaltCause p := by unfold kPartRun kHaltCause; omega
  refine ⟨?_, ?_, State.nat_setNat_same _ (by decide)⟩
  · rw [created, State.nat_setNat_other _ _ h13, State.nat_setNat_other _ _ h12, State.nat_setNat_same _ (by decide)]
  · rw [created, State.nat_setNat_other _ _ h23, State.nat_setNat_same _ (by decide)]

theorem layer_created {l : Nat} (hl : l < 256) (hp : p < 64) : (created s p).reg (kPrecLayer p l) = s.reg kPrecDefault := by
  rw [reg_created_other (by unfold kPrecLayer kPartState; omega) (by unfold kPrecLayer kPartRun; omega)
    (by unfold kPrecLayer kHaltCause; omega)]
  refine (reg_layersDefault _ _ (mem_countFrom.2 (by omega))).trans (reg_partDefaults_other hp (.inl ?_) (by decide))
  unfold kPrecDefault
  omega

theorem quota_created : (created s p).nat (kCtxQuota p) = (regDefault (kCtxQuota p)).toNat := by
  have hlayer : ∀ l, l < 256 → kCtxQuota p ≠ kPrecLayer p l := fun l _ => by unfold kCtxQuota kPrecLayer; omega
  have hown : (s.partDefaults p).reg (kCtxQuota p) = regDefault (kCtxQuota p) :=
    reg_partDefaults_own (by unfold kCtxQuota; omega) (by unfold kCtxQuota; omega)
  rw [State.nat, reg_created_other (by unfold kCtxQuota kPartState; omega) (by unfold kCtxQuota kPartRun; omega)
    (by unfold kCtxQuota kHaltCause; omega), reg_layersDefault_other hlayer, hown]

/-- Another partition's state stays. -/
theorem partState_created_other {q : Nat} (hp : p < 64) (hq : q < 64) (hne : q ≠ p) :
    (created s p).partState q = s.partState q := by
  have hlayer : ∀ l, l < 256 → kPartState q ≠ kPrecLayer p l := fun l _ => by unfold kPartState kPrecLayer; omega
  have hdef : (s.partDefaults p).reg (kPartState q) = s.reg (kPartState q) :=
    reg_partDefaults_other hp (by unfold kPartState; omega) (by unfold kPartState; omega)
  rw [State.partState, State.nat, reg_created_other (by unfold kPartState; omega) (by unfold kPartState kPartRun; omega)
    (by unfold kPartState kHaltCause; omega), reg_layersDefault_other hlayer, hdef]
  rfl

theorem kept_partDefaults : memoryKept s (s.partDefaults p) ∧ workKept s (s.partDefaults p) :=
  ⟨⟨fun _ => rfl, fun _ => rfl, fun _ => rfl, fun _ => rfl, fun _ _ => rfl, fun _ => rfl, fun _ => rfl⟩, rfl, rfl, rfl, rfl, rfl⟩

theorem kept_created : memoryKept s (created s p) ∧ workKept s (created s p) := by
  have hq : Quiet (s.partDefaults p) (created s p) :=
    ((quiet_layersDefault.trans (quiet_setNat _ _ _)).trans (quiet_setNat _ _ _)).trans (quiet_setNat _ _ _)
  exact ⟨kept_partDefaults.1.trans hq.memoryKept, kept_partDefaults.2.trans hq.workKept⟩

/-- A HALTING partition with nothing in flight and nothing to recover becomes HALTED (Table 12.3). -/
theorem haltedReached_eq (hrun : s.partRun p = 2) (hdescs : s.partDescs p = []) (hrec : s.recov = []) :
    s.haltedReached p = (s.setNat (kPartRun p) 0).partEvent p 0 :=
  if_pos ⟨hrun, hdescs, by rw [hrec]; rfl⟩

end Partitions

/-- Settles O26: each command by the partition's state, its run state and its halt cause. -/
theorem partitionLife : Obligations.PartitionLife := by
  refine ⟨?_, ?_, ?_, ?_, ?_, ?_, ?_, ?_, ?_, ?_⟩
  · intro s who p hp h hfree
    obtain ⟨hstate, hrun, hcause⟩ := nat_created (s := s) (p := p)
    have hreg : ∀ k, ((created s p).applied who).reg k = (created s p).reg k := State.reg_applied _ who
    obtain ⟨hmem, hwork⟩ := kept_created (s := s) (p := p)
    exact ⟨_, next_applied h fun l => if_neg (not_not.2 hfree), (nat_of_reg (hreg _)).trans hstate,
      (nat_of_reg (hreg _)).trans hrun, (nat_of_reg (hreg _)).trans hcause, fun l hl => (hreg _).trans (layer_created hl hp),
      (nat_of_reg (hreg _)).trans quota_created,
      fun q hq hne => (nat_of_reg (hreg _)).trans (partState_created_other hp hq hne), hmem.applied who, hwork.applied who⟩
  · intro s who p h hused
    exact next_refused h fun l => if_pos hused
  · intro s who p _ hp0 h hact
    exact next_applied h fun l => by simp [destroyPartCmd, hp0, hact]
  · intro s who p h hbad
    exact next_refused h fun l => if_pos hbad
  · intro s who p _ h hact hrun hra
    exact next_applied h fun l => by simp [haltPartCmd, State.haltPart, hact, hrun, squashPart_nil hra]
  · intro s who p h hused hidle
    have hkeep : s.haltPart p 1 = s := if_neg (not_and_or.2 hidle)
    exact next_applied h fun l => (if_neg hused).trans (by rw [hkeep])
  · intro s who p h hact hhalt hcause hstop hpool
    refine next_applied h fun l => if_neg ?_
    simp only [hact, hhalt, hcause, hstop, hpool]
    decide
  · intro s who p h hbad
    refine next_refused h fun l => if_pos ?_
    obtain hstop | hrun | hcause := hbad
    · exact .inr (.inr (.inr (.inl hstop)))
    · exact .inr (.inl hrun)
    · exact .inr (.inr (.inl (by rw [hcause]; decide)))
  · intro s who p h hact hrun
    exact next_applied h fun l => by simp [abortPartCmd, State.abortPart, hact, hrun]
  · intro s p _ hrun hdescs hrec
    have hne : kPartRun p ≠ kPartEvents p := by unfold kPartRun kPartEvents; omega
    have hq : Quiet s ((s.setNat (kPartRun p) 0).partEvent p 0) := (quiet_setNat s _ _).trans (quiet_partEvent _ _ _)
    refine ⟨_, congrArg Host.Outcome.next (haltedReached_eq hrun hdescs hrec), ?_, State.bit_partEvent _ _ _ (by decide),
      fun k hk => ?_, hq.memoryKept, hq.workKept⟩
    · rw [State.partRun, nat_of_reg (State.reg_partEvent_other _ hne), State.nat_setNat_same _ (by decide)]
    · simp only [List.mem_cons, List.not_mem_nil, or_false, not_or] at hk
      rw [State.reg_partEvent_other _ hk.2, State.reg_setNat_other _ _ hk.1]

end Sys2Proof.Safety

namespace Sys2Proof.Safety

open Sys2Proof.Machine

/-! ### Contexts and rings (O27) -/

section Contexts

variable {s : State} {who : Requester} {c p r : Nat}

/-- CTX_CREATE of a partition that admits it takes the context into use (R492). -/
theorem exec_ctxCreate (h : accepts s who .ctxCtrl (kCtxCtrl c) (wd (1 + p * 256))) {x : Except Reason State}
    (hx : ∀ l, createCtx c p s l = x) :
    exec (.ctxCreate who c p) s = .next (quotaEvent p x (s.finishWrite who (kCtxCtrl c / 256) (kCtxCtrl c % 256) x)) := by
  obtain ⟨hreq, l, hl⟩ := h
  simp only [exec, execCtxCreate, hreq, hl, hx, if_true]

theorem exec_ringCreate (h : accepts s who .ringCtrl (kRingCtrl r) 1) {x : Except Reason State}
    (hx : ∀ l, createRing r s l = x) : exec (.ringCreate who r) s =
      .next (quotaEvent (s.ringPart r) x (s.finishWrite who (kRingCtrl r / 256) (kRingCtrl r % 256) x)) := by
  obtain ⟨hreq, l, hl⟩ := h
  simp only [exec, execRingCreate, hreq, hl, hx, if_true]

/-- The slots of a ring that RING_CREATE empties, and the one it sets (R494). -/
def ringSlots (r : Nat) : List Nat :=
  [kRingState r, kRingEnabled r, kReenablePending r, kRingProd r, kRingCons r, kCqProd r, kCqCons r]

/-- The slots of a ring as RING_CREATE leaves them. -/
def freshRing (s : State) (r : Nat) : State :=
  ((((((s.setNat (kRingState r) 1).setNat (kRingEnabled r) 0).setNat (kReenablePending r) 0).setNat (kRingProd r) 0).setNat
    (kRingCons r) 0).setNat (kCqProd r) 0).setNat (kCqCons r) 0

theorem nat_freshRing : (freshRing s r).nat (kRingState r) = 1 ∧ (freshRing s r).nat (kRingEnabled r) = 0 ∧
    (freshRing s r).nat (kReenablePending r) = 0 ∧ (freshRing s r).nat (kRingProd r) = 0 ∧
    (freshRing s r).nat (kRingCons r) = 0 ∧ (freshRing s r).nat (kCqProd r) = 0 ∧ (freshRing s r).nat (kCqCons r) = 0 := by
  simp [freshRing, State.nat, State.setNat, State.reg_setReg, kRingState, kRingEnabled, kReenablePending, kRingProd, kRingCons,
    kCqProd, kCqCons, wd]

theorem reg_freshRing_other {k : Nat} (h : k ∉ ringSlots r) : (freshRing s r).reg k = s.reg k := by
  simp only [ringSlots, List.mem_cons, List.not_mem_nil, or_false, not_or] at h
  obtain ⟨h1, h2, h3, h4, h5, h6, h7⟩ := h
  simp only [freshRing, State.reg_setNat_other _ _ h1, State.reg_setNat_other _ _ h2, State.reg_setNat_other _ _ h3,
    State.reg_setNat_other _ _ h4, State.reg_setNat_other _ _ h5, State.reg_setNat_other _ _ h6, State.reg_setNat_other _ _ h7]

theorem memoryKept_freshRing : memoryKept s ((freshRing s r).setRing r {}) :=
  ⟨fun _ => rfl, fun _ => rfl, fun _ => rfl, fun _ => rfl, fun _ _ => rfl, fun _ => rfl, fun _ => rfl⟩

theorem exec_ringCreate_fresh (h : accepts s who .ringCtrl (kRingCtrl r) 1)
    (hx : ∀ l, createRing r s l = .ok ((freshRing s r).setRing r {})) :
    exec (.ringCreate who r) s = .next (((freshRing s r).setRing r {}).applied who) := exec_ringCreate h hx

theorem ring_applied (u : State) : (u.applied who).ring r = u.ring r := rfl

/-- The slots of a ring whose drain has completed (R500). -/
def drained (s : State) (r : Nat) : State :=
  ((s.setNat (kRingState r) 1).setNat (kRingEnabled r) (s.nat (kReenablePending r))).setNat (kReenablePending r) 0

theorem nat_drained : (drained s r).nat (kRingState r) = 1 ∧ (drained s r).nat (kRingEnabled r) = s.nat (kReenablePending r) ∧
    (drained s r).nat (kReenablePending r) = 0 := by
  have h12 : kRingState r ≠ kRingEnabled r := by unfold kRingState kRingEnabled; omega
  have h13 : kRingState r ≠ kReenablePending r := by unfold kRingState kReenablePending; omega
  have h23 : kRingEnabled r ≠ kReenablePending r := by unfold kRingEnabled kReenablePending; omega
  refine ⟨?_, ?_, State.nat_setNat_same _ (by decide)⟩
  · rw [drained, State.nat_setNat_other _ _ h13, State.nat_setNat_other _ _ h12, State.nat_setNat_same _ (by decide)]
  · exact (State.nat_setNat_other _ _ h23).trans (State.nat_setNat_same _ (BitVec.isLt (s.reg _)))

theorem reg_drained_other {k : Nat} (h1 : k ≠ kRingState r) (h2 : k ≠ kRingEnabled r) (h3 : k ≠ kReenablePending r) :
    (drained s r).reg k = s.reg k := by
  rw [drained, State.reg_setNat_other _ _ h3, State.reg_setNat_other _ _ h2, State.reg_setNat_other _ _ h1]

/-- A drained ring runs on, with no commit of its own to follow. -/
def running (s : State) (r : Nat) : State :=
  s.setRing r { s.ring r with stop := .running, lastCommit := none }

theorem memoryKept_running : memoryKept s (running (drained s r) r) :=
  ⟨fun _ => rfl, fun _ => rfl, fun _ => rfl, fun _ => rfl, fun _ _ => rfl, fun _ => rfl, fun _ => rfl⟩

theorem drainComplete_eq (hlife : s.ringLife r = 2) (hstop : (s.ring r).stop = .drain) (hdescs : s.ringDescs r = []) :
    s.drainComplete r = running (drained s r) r := by
  rw [State.drainComplete, if_pos ⟨hlife, hstop, hdescs⟩]
  rfl

end Contexts

/-- Settles O27: each command by the life of the context or of the ring, and the end of a drain and of an abort. -/
theorem contextsAndRings : Obligations.ContextsAndRings := by
  refine ⟨?_, ?_, ?_, ?_, ?_, ?_, ?_, ?_, ?_, ?_, ?_, ?_, ?_⟩
  · intro s who c p _ _ h hact hrun hfree hquota
    exact exec_ctxCreate h (x := .ok _) fun l => by simp [createCtx, hact, hrun, hfree, hquota]
  · intro s who c p hp h hact hrun hfree hquota
    have hq : Quiet (s.refuse who .quota (kCtxCtrl c / 256) (kCtxCtrl c % 256)) _ := quiet_partEvent _ p 2
    refine ⟨_, exec_ctxCreate h (x := .error .quota) fun l => ?_, ?_⟩
    · simp [createCtx, hact, hrun, hfree, hquota]
    refine ⟨State.bit_partEvent _ _ _ (by decide), ?_, fun k hk => ?_⟩
    · exact (hq.areasKept _ _).trans (area_refuse_status _ _ _ _ _)
    · exact (State.reg_partEvent_other _ (List.ne_of_not_mem_cons hk)).trans (State.reg_refuse _ _ _ _ _ _)
  · intro s who c h hlife
    exact ⟨_, _, rfl, rfl, next_applied h fun l => by simp [destroyCtx, hlife]⟩
  · intro s who c h hlife
    exact next_applied h fun l => by simp [destroyCtx, hlife]
  · intro s who r hr h hfree hctx hlay hquota
    have hr' : ¬ 96 ≤ r := by omega
    refine ⟨_, exec_ringCreate_fresh h fun l => ?_, ?_⟩
    · have hroom : ¬ s.nat (kRingQuota (s.ctxPart (s.nat (kRingCtx r)))) ≤
          (s.ringsWhere fun c => s.ctxPart c == s.ctxPart (s.nat (kRingCtx r))).length := Nat.not_le.2 hquota
      simp [createRing, hfree, hctx, hlay, hr', hroom, freshRing]
    · have hreg : ∀ k, (((freshRing s r).setRing r {}).applied who).reg k = (freshRing s r).reg k := fun k =>
        (State.reg_applied _ who k).trans (State.reg_of_regs (State.setRing_regs ..) k)
      have hnat : ∀ k, (((freshRing s r).setRing r {}).applied who).nat k = (freshRing s r).nat k := fun k => nat_of_reg (hreg k)
      obtain ⟨h1, h2, h3, h4, h5, h6, h7⟩ := nat_freshRing (s := s) (r := r)
      exact ⟨(hnat _).trans h1, (hnat _).trans h2, (hnat _).trans h3, (hnat _).trans h4, (hnat _).trans h5, (hnat _).trans h6, (hnat _).trans h7,
        (ring_applied _).trans (ring_setRing_same _ r {}), memoryKept_freshRing.applied who,
        fun k hk => (hreg k).trans (reg_freshRing_other hk)⟩
  · intro s who r h hlife
    exact (exec_ringCreate h fun l => if_pos hlife)
  · intro s who r h hlife hstop
    exact next_applied h fun l => by simp [destroyRing, hlife, hstop]
  · intro s r _ hlife hstop hdescs
    have hreg : ∀ k, (running (drained s r) r).reg k = (drained s r).reg k := State.reg_of_regs (State.setRing_regs ..)
    obtain ⟨hstate, hen, hre⟩ := nat_drained (s := s) (r := r)
    refine ⟨_, congrArg Host.Outcome.next (drainComplete_eq hlife hstop hdescs), (nat_of_reg (hreg _)).trans hstate,
      (nat_of_reg (hreg _)).trans hen, (nat_of_reg (hreg _)).trans hre, ?_, fun k hk => ?_, memoryKept_running⟩
    · rw [running, ring_setRing_same]
    · simp only [List.mem_cons, List.not_mem_nil, or_false, not_or] at hk
      exact (hreg k).trans (reg_drained_other hk.1 hk.2.1 hk.2.2)
  · intro s job j hj hany hkind
    cases hk : j.kind with
    | part b => exact absurd hk (hkind b)
    | _ => simp only [exec, execAbortComplete, hj, hk, Bool.false_and, Bool.or_false, hany, Bool.false_eq_true, if_false]
  · intro s job j d hj hd hring
    have hany : (s.inflight.any fun d => j.rings.contains d.ring ||
      ((match j.kind with | .part _ => true | _ => false) && d.part == j.part)) = true :=
      List.any_eq_true.2 ⟨d, hd, by rw [hring, Bool.true_or]⟩
    simp only [exec, execAbortComplete, hj]
    rw [if_pos]
    exact Bool.or_eq_true_iff.2 (.inl hany)
  · intro s who r h hlife hoff
    exact next_applied h fun l => by simp [enableRing, hlife, hoff]
  · intro s who r h hlife hon hra
    refine next_applied h fun l => ?_
    simp [disableRing, hlife, hon, State.squash, State.squashWhere, hra]
    rfl
  · intro s who r h hlife
    exact next_refused h fun l => if_pos hlife

end Sys2Proof.Safety

namespace Sys2Proof.Safety

open Sys2Proof.Machine

/-! ### Fences (O29) -/

section Fences

variable {s : State} {who : Requester} {f c : Nat}

theorem regs_queueRec (st : Nat) (w : WaitRec) : (s.queueRec st w).regs = s.regs := State.setStream_regs ..

/-- Telling the subscribers of a fence changes streams only (R515). -/
theorem regs_fenceNotify : (s.fenceNotify f).regs = s.regs := by
  unfold State.fenceNotify
  split
  · refine foldl_keeps (g := State.regs) _ s fun s i _ => ?_
    dsimp only [State.fenceTell]
    split
    · exact regs_queueRec _ _
    · rfl
  · rfl

theorem reg_fenceNotify (k : Nat) : (s.fenceNotify f).reg k = s.reg k := State.reg_of_regs regs_fenceNotify k

theorem fence_setFenceValue (v : Nat) : (s.setFenceValue f v).fence f = putFld (s.fence f) 3 2 v := by
  rw [State.setFenceValue, State.fence, reg_fenceNotify, State.reg_setReg_same]

theorem slots_setFenceValue (v : Nat) : slotsKept s (s.setFenceValue f v) [kFenceState f] := fun k hk => by
  rw [State.setFenceValue, reg_fenceNotify, State.reg_setReg_other _ _ (List.ne_of_not_mem_cons hk)]

/-- A fence whose value changes keeps its life, its generation and every other slot. -/
theorem setFenceValue_leaves {v : Nat} (hv : v < 4) : (s.setFenceValue f v).fenceValue f = v ∧
    (s.setFenceValue f v).fenceGen f = s.fenceGen f ∧ (s.setFenceValue f v).fenceLife f = s.fenceLife f := by
  simp only [State.fenceValue, State.fenceGen, State.fenceLife, fence_setFenceValue]
  refine ⟨?_, fld_putFld_above (by decide) (by decide) (by decide), fld_putFld_below (by decide) (by decide) (by decide)⟩
  rw [fld_putFld_same (by decide) (by decide)]
  exact Nat.mod_eq_of_lt hv

theorem fence_resetFence : (s.resetFence f).fence f =
    putFld (putFld (s.fence f) 3 2 0) 63 32 ((s.fenceGen f + 1) % 2 ^ 32) := by
  rw [State.resetFence, State.fence, reg_fenceNotify, State.reg_setReg_same]

/-- RESET leaves a fence UNSIGNALLED with the next GEN and the same life (R509, R511). -/
theorem resetFence_leaves : (s.resetFence f).fenceValue f = 0 ∧ (s.resetFence f).fenceGen f = (s.fenceGen f + 1) % 2 ^ 32 ∧
    (s.resetFence f).fenceLife f = s.fenceLife f ∧ slotsKept s (s.resetFence f) [kFenceState f] := by
  refine ⟨?_, ?_, ?_, fun k hk => ?_⟩
  · rw [State.fenceValue, fence_resetFence, fld_putFld_below (by decide) (by decide) (by decide),
      fld_putFld_same (by decide) (by decide), Nat.zero_mod]
  · rw [State.fenceGen, fence_resetFence, fld_putFld_same (by decide) (by decide), Nat.mod_mod]
  · rw [State.fenceLife, fence_resetFence, fld_putFld_below (by decide) (by decide) (by decide),
      fld_putFld_below (by decide) (by decide) (by decide)]
    rfl
  · rw [State.resetFence, reg_fenceNotify, State.reg_setReg_other _ _ (List.ne_of_not_mem_cons hk)]

/-- A break leaves a fence BROKEN with the generation it has (R506). -/
theorem breakFence_leaves (hlife : s.fenceLife f ≠ 0) : (s.breakFence f).fenceValue f = 2 ∧
    (s.breakFence f).fenceGen f = s.fenceGen f ∧ slotsKept s (s.breakFence f) [kFenceState f] := by
  unfold State.breakFence
  split
  · obtain ⟨hval, hgen, -⟩ := setFenceValue_leaves (s := s) (f := f) (v := 2) (by decide)
    exact ⟨hval, hgen, slots_setFenceValue 2⟩
  · next h => exact ⟨by simpa [hlife] using h, rfl, fun _ _ => rfl⟩

/-- What FENCE_STATE holds of a fence that has just been created (R509). -/
theorem fields_newFence {gen : Nat} (hc : c < 1024) (hgen : gen < 2 ^ 32) :
    fld (wd (1 + c * 2 ^ 16 + gen * 2 ^ 32)) 1 0 = 1 ∧ fld (wd (1 + c * 2 ^ 16 + gen * 2 ^ 32)) 3 2 = 0 ∧
    fld (wd (1 + c * 2 ^ 16 + gen * 2 ^ 32)) 63 32 = gen ∧ fld (wd (1 + c * 2 ^ 16 + gen * 2 ^ 32)) 25 16 = c := by
  simp only [fld_eq, nat_wd]
  omega

/-- FENCE_CREATE of a plain fence. -/
theorem exec_fenceCreate (h : accepts s who .fenceCtrl (kFenceCtrl f) (wd (1 + c * 2 ^ 16))) (hfree : s.fenceLife f = 0)
    (hctx : s.ctxLife c = 1)
    (hquota : (s.fencesWhere fun g => s.ctxPart g == s.ctxPart c).length < s.nat (kFenceQuota (s.ctxPart c))) :
    exec (.fenceCreate who f c false false) s = .next ((s.setReg (kFenceState f)
      (wd (1 + c * 2 ^ 16 + (s.fenceGen f + 1) % 2 ^ 32 * 2 ^ 32))).applied who) := by
  obtain ⟨hreq, l, hl⟩ := h
  have hnew : createFence who f c false false s l = .ok (s.setReg (kFenceState f)
      (wd (1 + c * 2 ^ 16 + (s.fenceGen f + 1) % 2 ^ 32 * 2 ^ 32))) := by
    simp [createFence, hfree, hctx, Nat.not_le.2 hquota, b2n]
  have hval : 1 + b2n false * 8 + b2n false * 16 + c * 2 ^ 16 = 1 + c * 2 ^ 16 := rfl
  simp only [exec, execFenceCreate, hval, hreq, hl, hnew, if_true]
  rfl

/-- A subscriber list whose streams belong to the fence's partition is not refused (R515). -/
theorem subs_owned {v : Word} (h : ∀ i, i < 4 → bitsOf v.toNat (8 * i + 7) (8 * i) < 255 →
      s.nat (kStreamOwner (bitsOf v.toNat (8 * i + 7) (8 * i))) = s.fencePart f) :
    (((countFrom 0 4).map fun i => bitsOf v.toNat (8 * i + 7) (8 * i)).any fun st =>
      decide (st < 255) && s.nat (kStreamOwner st) != s.fencePart f) = false := by
  refine List.any_eq_false.2 fun st hst => ?_
  obtain ⟨i, hi, rfl⟩ := List.mem_map.1 hst
  have hown := h i (mem_countFrom.1 hi).2
  by_cases hlt : bitsOf v.toNat (8 * i + 7) (8 * i) < 255
  · simp [hown hlt]
  · simp [hlt]

/-- What a FENCE_HANDLE write leaves of a FREE fence (R838). -/
def handled (s : State) (who : Requester) (f : Nat) (v : Word) : State :=
  { s with fenceHandle := Tbl.set 0 s.fenceHandle f v,
           fenceWr := Tbl.set {} s.fenceWr f { Tbl.get {} s.fenceWr f with handle := some (writerPart who) } }

theorem handle_handled (v : Word) : (handled s who f v).handle f = v := Tbl.get_set_same ..

theorem writer_handled (v : Word) : (Tbl.get {} (handled s who f v).fenceWr f).handle = some (writerPart who) := by
  rw [handled, Tbl.get_set_same]

theorem kept_handled (v : Word) : memoryKept s (handled s who f v) ∧ workKept s (handled s who f v) :=
  ⟨⟨fun _ => rfl, fun _ => rfl, fun _ => rfl, fun _ => rfl, fun _ _ => rfl, fun _ => rfl, fun _ => rfl⟩, rfl, rfl, rfl, rfl, rfl⟩

theorem exec_fenceHandleWrite {v : Word} (h : accepts s who .fenceHandle (kFenceHandle f) v) (hfree : s.fenceLife f = 0) :
    exec (.fenceHandleWrite who f false v) s = .next ((handled s who f v).applied who) :=
  next_applied h fun _ => (if_neg (not_not.2 hfree)).trans (if_neg (by decide))

end Fences

/-- Settles O29: each command by the life and the value of the fence, and what a signal, a break and a reset leave of it. -/
theorem fences : Obligations.Fences := by
  refine ⟨?_, ?_, ?_, ?_, ?_, ?_, ?_, ?_, ?_, ?_, ?_, ?_, ?_, ?_⟩
  · intro s who f c _ hc h hfree hctx hquota
    obtain ⟨hlife, hval, hgen, hfc⟩ := fields_newFence (gen := (s.fenceGen f + 1) % 2 ^ 32) hc (Nat.mod_lt _ (by decide))
    refine ⟨_, exec_fenceCreate h hfree hctx hquota, ?_, ?_, ?_, ?_, fun k hk => ?_,
      (quiet_setReg s _ _).memoryKept.applied who, (quiet_setReg s _ _).workKept.applied who⟩
    · rw [State.fenceLife, State.fence, State.reg_applied, State.reg_setReg_same, hlife]
    · rw [State.fenceValue, State.fence, State.reg_applied, State.reg_setReg_same, hval]
    · rw [State.fenceGen, State.fence, State.reg_applied, State.reg_setReg_same, hgen]
    · rw [State.fence, State.reg_applied, State.reg_setReg_same, hfc]
    · rw [State.reg_applied, State.reg_setReg_other _ _ (List.ne_of_not_mem_cons hk)]
  · intro s who f h hlife
    exact next_applied h fun l => by simp [destroyFence, hlife]
  · intro s who f h hlife
    exact next_applied h fun l => if_neg (not_not.2 hlife)
  · intro s who f h hmay
    exact next_applied h fun l => if_pos hmay
  · intro s who f h hmay
    exact next_refused h fun l => if_neg (by rw [hmay]; decide)
  · intro s who f v h hlife hown
    have hlife' : (s.setReg (kFenceSubs f) v).fenceLife f = 1 := by
      rw [State.fenceLife, State.fence, State.reg_setReg_other _ _ (by unfold kFenceState kFenceSubs; omega)]
      exact hlife
    exact next_applied h fun l => (if_neg (by rw [subs_owned hown]; decide)).trans (if_pos hlife')
  · intro s who f v h hfree
    obtain ⟨hmem, hwork⟩ := kept_handled (s := s) (who := who) (f := f) v
    exact ⟨_, exec_fenceHandleWrite h hfree, handle_handled (who := who) v, State.applied_regs .., writer_handled v, hmem.applied who,
      hwork.applied who⟩
  · intro s fn f gen hbar hok
    simp only [exec, execFencePageSignal, hbar, hok, Bool.true_eq_false, if_false, if_true]
  · intro s fn f gen hbar hok
    simp only [exec, execFencePageSignal, hbar, hok, Bool.true_eq_false, Bool.false_eq_true, if_false]
  · intro s fn f gen hbar hok hmay
    simp only [exec, execFencePageReset, hbar, hok, hmay, Bool.and_self, Bool.true_eq_false, if_false, if_true]
  · intro s f hlife hown hval
    have heq : s.signalFence f = s.setFenceValue f 1 := by simp [State.signalFence, hlife, hown, hval]
    obtain ⟨hval', hgen', hlife'⟩ := setFenceValue_leaves (s := s) (f := f) (v := 1) (by decide)
    rw [heq]
    exact ⟨hval', hgen', hlife'.trans hlife, slots_setFenceValue 1⟩
  · intro s f hlife hown hval
    simp [State.signalFence, hlife, hown, hval]
  · intro s f hlife
    exact breakFence_leaves hlife
  · intro s f
    exact resetFence_leaves

end Sys2Proof.Safety

namespace Sys2Proof.Safety

open Sys2Proof.Machine

/-! ### The order of tests (O30) -/

/-- A refusal and an application change the areas only (R621, R623). -/
theorem refuse_areas (s : State) (who : Requester) (r : Reason) (idx sub : Nat) :
    { s.refuse who r idx sub with areas := s.areas } = s := by
  cases s
  rfl

theorem applied_areas (s : State) (who : Requester) : { s.applied who with areas := s.areas } = s := by
  cases s
  rfl

section Gate

variable {s : State} {who : Requester} {idx sub : Nat} {v : Word} {l : EntLoc}

/-- A refusal changes the words of its requester's area only, of which two take the reason and the count (R623). -/
theorem area_refuse (s : State) (who other : Requester) (r : Reason) (idx sub : Nat) {j : Nat} (hj : j < 256) :
    (s.refuse who r idx sub).area who 0x44 = wd (satAdd 32 (s.area who 0x44).toNat 1) ∧
    ((areaOf other ≠ areaOf who ∨ (j ≠ 0x42 ∧ j ≠ 0x44)) → (s.refuse who r idx sub).area other j = s.area other j) := by
  constructor
  · simp only [State.refuse]
    rw [State.area_setArea_same, State.area_setArea_other _ _ _ (by decide)]
  · intro h
    simp only [State.refuse, State.area, State.setArea]
    rw [Tbl.get_set_other _ _ _ _ (by omega), Tbl.get_set_other _ _ _ _ (by omega)]

/-- An application counts in DICT_APPLIED of its requester's area and nowhere else (Table 15.6). -/
theorem area_applied (s : State) (who other : Requester) {j : Nat} (hj : j < 256) :
    (s.applied who).area who 0x45 = wd (((s.area who 0x45).toNat + 1) % 2 ^ 32) ∧
    ((areaOf other ≠ areaOf who ∨ j ≠ 0x45) → (s.applied who).area other j = s.area other j) := by
  constructor
  · rw [State.applied, State.area_setArea_same]
  · intro h
    simp only [State.applied, State.area, State.setArea]
    rw [Tbl.get_set_other _ _ _ _ (by omega)]

/-- Whether the class of a requester reaches an entry for a write: it may write it, or the entry is read-only and it may read it. -/
def reaches (s : State) (who : Requester) (l : EntLoc) (v : Option Nat) : Bool :=
  s.mayWrite who l v || (l.row.acc == .ro && s.mayRead who l)

/-- Steps 2 to 4 of R833 for a write to an entry that exists now. -/
theorem gateEntry_write (hfind : findEntry idx sub = some l)
    (hnow : s.dieUp = false ∨ s.ready = true ∨ reducedEntry idx sub = true ∨ who = .marionette) (n : Option Nat) :
    s.gateEntry who idx sub true n = if reaches s who l n then .ok l else .error .cls := by
  have hnow' : ¬ (s.dieUp = true ∧ s.ready = false ∧ reducedEntry idx sub = false ∧ who ≠ .marionette) := by
    rintro ⟨hup, hnr, hred, hwho⟩
    simp [hup, hnr, hred, hwho] at hnow
  simp only [State.gateEntry, hfind, hnow', if_false, if_true, reaches]
  by_cases hw : s.mayWrite who l n = true
  · simp [hw]
  · by_cases hr : l.row.acc = .ro ∧ s.mayRead who l = true
    · simp [hr]
    · have : (l.row.acc == .ro && s.mayRead who l) = false := by simpa using hr
      simp [hw, hr, this]

/-- The tests 5 to 8 of R833, of an entry that the requester's class reaches. -/
theorem gateWrite_reached (hfind : findEntry idx sub = some l)
    (hnow : s.dieUp = false ∨ s.ready = true ∨ reducedEntry idx sub = true ∨ who = .marionette)
    (hreach : reaches s who l (some v.toNat) = true) : s.gateWrite who idx sub v =
      if l.row.ty.long then .error .bulk
      else if l.row.acc = .ro then .error .readOnly
      else if typeOk l.row.ty v.toNat = false ∨ entLegal l.row.ent v.toNat = false then .error .range
      else if s.rwhOk l (some v.toNat) = false then .error .notHalted
      else if s.unserved who idx sub true then .error .state
      else .ok l := by
  have hentry := gateEntry_write hfind hnow (some v.toNat)
  rw [hreach, if_pos rfl] at hentry
  rw [State.gateWrite, hentry]

theorem gateWrite_unreached (hfind : findEntry idx sub = some l)
    (hnow : s.dieUp = false ∨ s.ready = true ∨ reducedEntry idx sub = true ∨ who = .marionette)
    (hreach : reaches s who l (some v.toNat) = false) : s.gateWrite who idx sub v = .error .cls := by
  have hentry := gateEntry_write hfind hnow (some v.toNat)
  rw [hreach] at hentry
  rw [State.gateWrite, hentry]
  rfl

theorem gateWrite_notReady (hfind : findEntry idx sub = some l) (hup : s.dieUp = true) (hready : s.ready = false)
    (hred : reducedEntry idx sub = false) (hwho : who ≠ .marionette) : s.gateWrite who idx sub v = .error .notReady := by
  simp [State.gateWrite, State.gateEntry, hfind, hup, hready, hred, hwho]

end Gate

/-- Settles O30: a refusal and an application change words of one area, and the tests of R833 are taken one after another. -/
theorem refusalsAndTests : Obligations.RefusalsAndTests := by
  constructor
  · intro s who other r idx sub j hj
    constructor
    · rintro t rfl
      exact ⟨refuse_areas .., area_refuse_status s who r idx sub, area_refuse s who other r idx sub hj⟩
    · rintro t rfl
      exact ⟨applied_areas .., area_applied s who other hj⟩
  · intro s who idx sub v
    refine ⟨fun hnone => by simp [State.gateWrite, State.gateEntry, hnone], fun l hfind => ⟨gateWrite_notReady hfind, ?_⟩⟩
    rintro reach hnow rfl
    refine ⟨gateWrite_unreached hfind hnow, fun hr hlong => ?_, fun hr hlong hro => ?_, fun hr hlong hro hbad => ?_,
      fun hr hlong hro hty hleg hrwh => ?_⟩
    all_goals rw [gateWrite_reached hfind hnow hr]
    · rw [if_pos hlong]
    · simp [hlong, hro]
    · simp [hlong, hro, hbad]
    · simp [hlong, hro, hty, hleg, hrwh]

/-! ### Dictionary writes (O31) -/

section DictWrites

variable {s : State} {who : Requester} {idx sub : Nat} {v : Word} {l : EntLoc}

theorem bitOf_eq_testBit (n i : Nat) : bitOf n i = n.testBit i := by
  rw [Nat.testBit_eq_decide_div_mod_eq, bitOf, Nat.shiftRight_eq_div_pow]
  rfl

/-- A bit that a W1C write leaves (R611). -/
theorem bitOf_cleared (w v : Word) {i : Nat} (hi : i < 64) :
    bitOf (w &&& ~~~v).toNat i = (bitOf w.toNat i && !bitOf v.toNat i) := by
  simp only [bitOf_eq_testBit, BitVec.testBit_toNat, BitVec.getLsbD_and, BitVec.getLsbD_not, hi, decide_true, Bool.true_and]

theorem reg_alertEdge (s before : State) (k : Nat) : (s.alertEdge before).reg k = s.reg k := by
  unfold State.alertEdge
  dsimp only
  split
  · rfl
  · split
    · exact State.reg_msix ..
    · rfl

theorem quiet_clearFlags (s : State) (k : Nat) (v : Word) : Quiet s (s.clearFlags k v) :=
  .ite ((quiet_setReg s _ _).trans (quiet_alertEdge _ _)) (quiet_setReg s _ _)

theorem reg_clearFlags (s : State) (k : Nat) (v : Word) (j : Nat) :
    (s.clearFlags k v).reg j = (s.setReg k (s.reg k &&& ~~~v)).reg j := by
  unfold State.clearFlags
  dsimp only
  split
  · exact reg_alertEdge _ _ _
  · rfl

/-- An entry with no command of its own has none. -/
theorem ownCommand_none {k : Nat} (h : ownEntry l.row.ent = false) : s.ownCommand who l k sub v = none := by
  unfold State.ownCommand
  dsimp only
  split
  case h_52 => rfl
  all_goals next he => exact absurd (he ▸ h) (by decide)

/-- The effect of a write to an entry whose chapter states nothing more about its writes. -/
theorem pokeEntry_plain {k : Nat} (h : configEntry l.row.ent = false) : pokeEntry who k v s l =
    .ok (if l.row.acc = .w1c then s.clearFlags k v else s.setReg k v) := by
  simp only [configEntry, Bool.or_eq_false_iff] at h
  obtain ⟨⟨⟨⟨hstream, hwin⟩, hqp⟩, hring⟩, hlist⟩ := h
  simp only [pokeEntry, hstream, hwin, hqp, hring, Bool.false_eq_true, if_false]
  by_cases hacc : l.row.acc = .w1c
  · simp only [hacc, if_true]
  · simp only [hacc, if_false]
    split
    case h_9 => rfl
    all_goals next he => exact absurd (he ▸ hlist) (by decide)

/-- An entry that a requester reaches is in the map. -/
theorem findEntry_of_gateEntry {wr : Bool} {n : Option Nat} (h : s.gateEntry who idx sub wr n = .ok l) :
    findEntry idx sub = some l := by
  unfold State.gateEntry at h
  split at h
  · cases h
  · next hf => rw [hf]; split_ifs at h <;> exact congrArg some (Except.ok.inj h)

/-- A write that passes the tests of R833 has passed those of its entry and its class, and the entry is not read-only. -/
theorem gateEntry_of_gateWrite (h : s.gateWrite who idx sub v = .ok l) :
    s.gateEntry who idx sub true (some v.toNat) = .ok l ∧ l.row.acc ≠ .ro := by
  unfold State.gateWrite at h
  split at h
  · cases h
  · next hg =>
    split_ifs at h with _ hro
    cases h
    exact ⟨hg, hro⟩

/-- The entry of a write that passes the tests of R833 is in the map. -/
theorem findEntry_of_gateWrite (h : s.gateWrite who idx sub v = .ok l) : findEntry idx sub = some l :=
  findEntry_of_gateEntry (gateEntry_of_gateWrite h).1

/-- A write of an entry with no command of its own passes the tests of R833 and has its chapter's effect. -/
theorem writeSlot_plain (hfind : findEntry idx sub = some l) (hown : ownEntry l.row.ent = false) :
    s.writeSlot who idx sub v = s.dictSlot who idx sub v (pokeEntry who (slotKey idx sub) v) := by
  have hne : ∀ e, ownEntry e = true → l.row.ent ≠ e := fun e he heq => by rw [heq, he] at hown; cases hown
  unfold State.writeSlot
  simp only [hfind, hne .switchFrame (by decide), if_false]
  split
  · rfl
  · split
    · next he => exact absurd he (hne _ (by decide))
    · next he => exact absurd he (hne _ (by decide))
    · next he => exact absurd he (hne _ (by decide))
    · rw [ownCommand_none hown]

/-- What an accepted write of such an entry leaves (R611). -/
def poked (s : State) (l : EntLoc) (k : Nat) (v : Word) : State :=
  if l.row.acc = .w1c then s.clearFlags k v else s.setReg k v

theorem dictSlot_poked {k : Nat} (hreq : s.requesterOk who = true) (hgate : s.gateWrite who idx sub v = .ok l)
    (hconf : configEntry l.row.ent = false) :
    s.dictSlot who idx sub v (pokeEntry who k v) = (poked s l k v).applied who := by
  simp only [State.dictSlot, hreq, hgate, pokeEntry_plain hconf, if_true, State.finishWrite, poked]

theorem quiet_poked (l : EntLoc) (k : Nat) (v : Word) : Quiet s (poked s l k v) :=
  .ite (quiet_clearFlags s k v) (quiet_setReg s k v)

theorem reg_poked (l : EntLoc) (k : Nat) (v : Word) (j : Nat) :
    (poked s l k v).reg j = (s.setReg k (if l.row.acc = .w1c then s.reg k &&& ~~~v else v)).reg j := by
  unfold poked
  split
  · exact reg_clearFlags s k v j
  · rfl

theorem poked_leaves (who : Requester) (l : EntLoc) (k : Nat) (v : Word) :
    let t := (poked s l k v).applied who
    (l.row.acc ≠ .w1c → t.reg k = v) ∧
    (l.row.acc = .w1c → ∀ i, i < 64 → t.bit k i = (s.bit k i && !bitOf v.toNat i)) ∧
    slotsKept s t [k] ∧ memoryKept s t ∧ workKept s t ∧ t.area who 0x45 = wd (((s.area who 0x45).toNat + 1) % 2 ^ 32) := by
  have hq := quiet_poked (s := s) l k v
  refine ⟨fun hacc => ?_, fun hacc i hi => ?_, fun j hj => ?_, hq.memoryKept.applied who, hq.workKept.applied who, ?_⟩
  · rw [State.reg_applied, reg_poked, State.reg_setReg_same, if_neg hacc]
  · rw [State.bit, State.nat, State.reg_applied, reg_poked, State.reg_setReg_same, if_pos hacc, bitOf_cleared _ _ hi]
    rfl
  · rw [State.reg_applied, reg_poked, State.reg_setReg_other _ _ (List.ne_of_not_mem_cons hj)]
  · rw [(area_applied _ who who (j := 0) (by decide)).1, hq.areasKept]

/-- A DICT_WRITE of a function that covers the whole slot is a write of that slot (R604, R607). -/
theorem exec_dictWrite_pcie (hwho : areaOf who < 64) (hreq : s.requesterOk who = true) {offset : Nat} (hin : offset < 2 ^ 27)
    (hal : offset % 8 = 0) : exec (.dictWrite who offset 8 v) s = .next (s.writeSlot who (offset / 2048) (offset / 8 % 256) v) := by
  have hin' : ¬ 134217728 ≤ offset := by omega
  change execDictWrite who offset 8 v s = _
  cases who with
  | strings n => exact absurd hwho (Nat.lt_irrefl 64)
  | marionette => exact absurd hwho (by decide)
  | pf => simp [execDictWrite, hreq, hal, hin']
  | vf p => simp [execDictWrite, hreq, hal, hin']

end DictWrites

/-- Settles O31: a write of a slot of an entry with no command of its own is tested by R833 and, where the chapter states no more,
replaces the slot or clears its flags. -/
theorem dictionaryWrites : Obligations.DictionaryWrites := by
  refine ⟨?_, ?_, ?_, ?_, ?_, ?_, ?_⟩
  · intro s who offset bytes v hin hreq hwho hbad
    have hin' : ¬ (2 ^ 27 ≤ offset ∨ s.requesterOk who = false) := by rw [hreq]; simp; omega
    have hsame : (if offset / 2048 = 0x1001 ∧ offset / 8 % 256 = 0x40 then s.refuse who .size 0x1001 0x40
        else s.refuse who .size (offset / 2048) (offset / 8 % 256)) = s.refuse who .size (offset / 2048) (offset / 8 % 256) := by
      split
      · next h => rw [h.1, h.2]
      · rfl
    change execDictWrite who offset bytes v s = _
    cases who with
    | strings n => exact absurd hwho (Nat.lt_irrefl 64)
    | marionette => exact absurd hwho (by decide)
    | pf => simp only [execDictWrite, hin', hbad, if_false, if_true, hsame]
    | vf p => simp only [execDictWrite, hin', hbad, if_false, if_true, hsame]
  · intro s who offset v hin hreq hwho hal hnone
    have hgate : s.gateWrite who (offset / 2048) (offset / 8 % 256) v = .error .noEntry := by
      simp [State.gateWrite, State.gateEntry, hnone]
    rw [exec_dictWrite_pcie hwho hreq hin hal]
    simp only [State.writeSlot, hnone, dictSlot_gated hreq hgate]
  · intro s who offset v l hin hreq hwho hal hgate hown hconf
    have hkey : slotKey (offset / 2048) (offset / 8 % 256) = offset / 8 := by unfold slotKey; omega
    refine ⟨(poked s l (offset / 8) v).applied who,
      (exec_dictWrite_pcie hwho hreq hin hal).trans (congrArg Host.Outcome.next ?_), ?_⟩
    · rw [writeSlot_plain (findEntry_of_gateWrite hgate) hown, hkey, dictSlot_poked hreq hgate hconf]
    · exact poked_leaves who l (offset / 8) v
  · intro s who offset v l r hin hreq hwho hal hfind hgate hown
    rw [exec_dictWrite_pcie hwho hreq hin hal, writeSlot_plain hfind hown, dictSlot_gated hreq hgate]
  · intro s node offset bytes v l hin hup hfind hlen
    have hin' : ¬ (2 ^ 27 ≤ offset ∨ s.requesterOk (.strings node) = false) := by simp [State.requesterOk, hup]; omega
    simp only [exec, execDictWrite, hin', if_false, hfind, hlen, ne_eq, not_false_eq_true, if_true]
  · intro s who offset bytes v hout
    exact if_pos hout
  · intro s offset bytes v hin hreq hdiag
    have hin' : ¬ (2 ^ 27 ≤ offset ∨ s.requesterOk .marionette = false) := by rw [hreq]; simp; omega
    simp only [exec, execDictWrite, hin', if_false, hdiag, if_true]

/-! ### What a VF may not do (O32) -/

section VfPrivileges

variable {s : State} {p idx sub : Nat} {l : EntLoc}

/-- An entry of another partition's range belongs to that partition. -/
theorem entOwner_partRange (hr : l.row.partRange = true) (v : Option Nat) : s.entOwner l v = l.inst := by
  simp [State.entOwner, hr]

theorem mayRead_vf_otherRange (hr : l.row.partRange = true) (hp : l.inst ≠ p) : s.mayRead (.vf p) l = false := by
  simp [State.mayRead, entOwner_partRange hr, hr, hp]

theorem mayWrite_vf_otherRange (hr : l.row.partRange = true) (hp : l.inst ≠ p) (v : Option Nat) :
    s.mayWrite (.vf p) l v = false := by
  simp [State.mayWrite, entOwner_partRange hr, hr, hp]

/-- A write that a requester's class does not reach is not accepted: the entry that passes the test of its class is read-only. -/
theorem gateWrite_ne_ok {who : Requester} {v : Word} (hfind : findEntry idx sub = some l)
    (hw : s.mayWrite who l (some v.toNat) = false) (l' : EntLoc) : s.gateWrite who idx sub v ≠ .ok l' := by
  intro h
  obtain ⟨hentry, hro⟩ := gateEntry_of_gateWrite h
  obtain rfl : l' = l := Option.some.inj ((findEntry_of_gateEntry hentry).symm.trans hfind)
  simp only [State.gateEntry, hfind, hw, hro, false_and, if_true, if_false, Bool.false_eq_true] at hentry
  split at hentry <;> cases hentry

theorem gateRead_ne_ok {who : Requester} (hfind : findEntry idx sub = some l) (hr : s.mayRead who l = false) (l' : EntLoc) :
    s.gateRead who idx sub ≠ .ok l' := by
  intro h
  by_cases hnow : s.dieUp = true ∧ s.ready = false ∧ reducedEntry idx sub = false ∧ who ≠ .marionette
  · simp [State.gateRead, State.gateEntry, hfind, hnow] at h
  · simp only [State.gateRead, State.gateEntry, hfind, hr, hnow, if_false, Bool.false_eq_true, reduceCtorEq] at h

/-- The classes that no VF may write (Table 21.2). -/
theorem mayWrite_vf_class (hcls : l.row.wr = .n ∨ l.row.wr = .p ∨ l.row.wr = .pm ∨ l.row.wr = .ps ∨ l.row.wr = .sm ∨
      l.row.wr = .none) (hfence : ¬ ((l.row.ent = .fenceHandle ∨ l.row.ent = .fenceLink) ∧ s.fenceLife l.elem = 0))
    (v : Option Nat) : s.mayWrite (.vf p) l v = false := by
  have hno : ∀ owner, clsOk l.row.wr (.vf p) owner = false := fun owner => by
    obtain h | h | h | h | h | h := hcls <;> rw [h] <;> rfl
  simp [State.mayWrite, hno, hfence]

/-- PART_CTRL of partition `q` as the map holds it (Table 21.3). -/
def partCtrlLoc (q : Nat) : EntLoc :=
  { row := ⟨.partCtrl, 0x3000, 0x40, 64, 1, 0x03, 0x03, .enum, .wo, .no, .po, 0⟩, inst := q, elem := 0 }

theorem findEntry_kPartCtrl : ∀ q, q < 64 → findEntry (kPartCtrl q / 256) (kPartCtrl q % 256) = some (partCtrlLoc q) := by
  decide +kernel

/-- CREATE and DESTROY are not a VF's, even of its own partition (R483). -/
theorem gateSlot_partCtrl_vf {q : Nat} {v : Word} (hq : q < 64) (hready : s.ready = true) (hv : v = 1 ∨ v = 2) :
    s.gateSlot (.vf p) .partCtrl (kPartCtrl q) v = .error .cls := by
  have hfind := findEntry_kPartCtrl q hq
  have hreach : reaches s (.vf p) (partCtrlLoc q) (some v.toNat) = false := by
    obtain rfl | rfl := hv <;> simp [reaches, State.mayWrite, partCtrlLoc, EntRow.partRange]
  rw [State.gateSlot, gateWrite_unreached hfind (.inr (.inl hready)) hreach]

end VfPrivileges

/-- Settles O32: a VF's class reaches no entry of another partition's range, of a class that is not its own, or CREATE and DESTROY. -/
theorem vfPrivileges : Obligations.VfPrivileges := by
  refine ⟨?_, ?_, ?_⟩
  · intro s p idx sub v l hfind hr hp
    exact ⟨gateWrite_ne_ok hfind (mayWrite_vf_otherRange hr hp _), gateRead_ne_ok hfind (mayRead_vf_otherRange hr hp)⟩
  · intro s p idx sub v l hfind hcls hfence
    exact gateWrite_ne_ok hfind (mayWrite_vf_class hcls hfence _)
  · intro s p q _ hq hreq hready
    exact ⟨congrArg Host.Outcome.next (State.slotWrite_gated hreq (gateSlot_partCtrl_vf hq hready (.inl rfl))),
      congrArg Host.Outcome.next (State.slotWrite_gated hreq (gateSlot_partCtrl_vf hq hready (.inr rfl)))⟩

end Sys2Proof.Safety

namespace Sys2Proof.Safety

open Sys2Proof.Machine

/-! ### Bulk accesses and the persistent set (O33) -/

section Bulk

variable {s : State} {who : Requester}

/-- The words of a requester's bulk buffer after bytes are copied into it from its first word on. -/
theorem area_setBulk (s : State) (who : Requester) (bytes : List Byte) {i : Nat} :
    (s.setBulk who 0 bytes).area who i =
      if 8 * (i + 1) ≤ bytes.length then wd (leNat ((bytes.drop (8 * i)).take 8)) else s.area who i := by
  have key : ∀ (n a : Nat) (s : State), ((countFrom a n).foldl
      (fun (s : State) n => s.setArea who (0 + n) (wd (leNat ((bytes.drop (8 * n)).take 8)))) s).area who i =
      if a ≤ i ∧ i < a + n then wd (leNat ((bytes.drop (8 * i)).take 8)) else s.area who i := by
    intro n
    induction n with
    | zero => intro a s; simp [countFrom]
    | succ n ih =>
      intro a s
      rw [countFrom, List.foldl_cons, ih]
      by_cases hia : i = a
      · subst hia
        simp [State.area_setArea_same]
      · rw [State.area_setArea_other _ _ _ (by omega)]
        congr 1
        exact propext (by omega)
  rw [State.setBulk, key]
  congr 1
  exact propext (by omega)

/-- Only words of areas differ. -/
def AreasOnly (s t : State) : Prop := { t with areas := [] } = { s with areas := [] }

section AreasOnly

variable {t u : State}

theorem AreasOnly.trans (h : AreasOnly s t) (h' : AreasOnly t u) : AreasOnly s u := Eq.trans h' h

theorem AreasOnly.field {α : Type} (h : AreasOnly s t) (f : State → α) :
    f { t with areas := [] } = f { s with areas := [] } := congrArg f h

theorem AreasOnly.reg (h : AreasOnly s t) (k : Nat) : t.reg k = s.reg k := State.reg_of_regs (h.field State.regs) k

theorem AreasOnly.slotsKept (h : AreasOnly s t) : slotsKept s t [] := fun k _ => h.reg k

theorem AreasOnly.memoryKept (h : AreasOnly s t) : memoryKept s t := by
  have hocts : t.octs = s.octs := h.field State.octs
  refine ⟨fun a => ?_, fun a => ?_, fun a => ?_, fun a => ?_, fun k i => ?_, fun a => ?_, fun a => ?_⟩
  · exact congrArg (Tbl.get 0 · a) (h.field State.ls)
  · exact congrArg (Tbl.get 0 · a) (h.field State.fs)
  · exact congrArg (Tbl.get 0 · a) (h.field State.acc)
  · exact congrArg (Tbl.get 0 · a) (h.field State.hbm)
  · simp only [State.oct, hocts]
  · exact congrArg (Tbl.get 0 · a) (h.field State.ackMem)
  · exact congrArg (Tbl.get 0 · a) (h.field fun s => s.mario.flash)

theorem AreasOnly.workKept (h : AreasOnly s t) : workKept s t :=
  ⟨h.field State.inflight, h.field State.rings, h.field State.posted, h.field State.jobs, h.field State.aborts⟩

theorem areasOnly_setArea (s : State) (who : Requester) (sub : Nat) (w : Word) : AreasOnly s (s.setArea who sub w) := rfl

theorem areasOnly_refuse (s : State) (who : Requester) (r : Reason) (idx sub : Nat) : AreasOnly s (s.refuse who r idx sub) :=
  (areasOnly_setArea s who 0x42 _).trans (areasOnly_setArea _ who 0x44 _)

theorem areasOnly_applied (s : State) (who : Requester) : AreasOnly s (s.applied who) := areasOnly_setArea s who 0x45 _

theorem AreasOnly.foldl {α : Type} {f : State → α → State} (hf : ∀ s x, AreasOnly s (f s x)) (l : List α) :
    ∀ s, AreasOnly s (l.foldl f s) := by
  induction l with
  | nil => exact fun s => rfl
  | cons x l ih => exact fun s => (hf s x).trans (ih (f s x))

theorem areasOnly_setBulk (s : State) (who : Requester) (i : Nat) (bytes : List Byte) : AreasOnly s (s.setBulk who i bytes) :=
  .foldl (fun s n => areasOnly_setArea s who (i + n) _) _ s

end AreasOnly

/-- A read that passes the tests of R833 has passed those of its entry and its class. -/
theorem gateEntry_of_gateRead {idx sub : Nat} {l : EntLoc} (h : s.gateRead who idx sub = .ok l) :
    s.gateEntry who idx sub false none = .ok l ∧ s.unserved who idx sub false = false := by
  unfold State.gateRead at h
  split at h
  · cases h
  · next hg =>
    split at h
    · cases h
    · next hu => cases h; exact ⟨hg, by simpa using hu⟩

/-- A bulk READ that is not refused: the sample and its length in the requester's buffer (R618, R619). -/
theorem exec_bulkRead_ok {idx sub : Nat} {l : EntLoc} (hreq : s.requesterOk who = true) (hgate : s.gateRead who idx sub = .ok l)
    (hlong : l.row.ty.long = true) : exec (.bulkRead who idx sub) s =
      .next (((s.setBulk who 0 (s.sampleLong l (slotKey idx sub))).setArea who 0x41 (wd l.row.ty.bytes)).applied who) := by
  obtain ⟨hentry, hserved⟩ := gateEntry_of_gateRead hgate
  simp only [exec, execBulkRead, State.bulkRead, hreq, hentry, hlong, hserved, if_true, if_false, Bool.true_eq_false,
    Bool.false_eq_true]

/-- The length of a bulk READ and its count leave the buffer's words. -/
theorem area_bulkEnd (s : State) (who : Requester) (w : Word) {i : Nat} (hi : i < 64) :
    ((s.setArea who 0x41 w).applied who).area who i = s.area who i := by
  rw [(area_applied _ who who (by omega)).2 (.inr (by omega)), State.area_setArea_other _ _ _ (by omega)]

/-- A byte of a long entry after it is written from byte `a` on. -/
theorem oct_setOctFrom (k : Nat) (bytes : List Byte) : ∀ (s : State) (a j : Nat), (s.setOctFrom k a bytes).oct k j =
    if a ≤ j ∧ j < a + bytes.length then (bytes.getD (j - a) 0).toNat else s.oct k j := by
  induction bytes with
  | nil => intro s a j; simp [State.setOctFrom]
  | cons b bytes ih =>
    intro s a j
    rw [State.setOctFrom, ih]
    by_cases hja : j = a
    · subst hja
      simp [State.oct, State.setOct, Tbl.get_set_same]
    · have hother : (s.setOct k a b).oct k j = s.oct k j := by
        simp only [State.oct, State.setOct]
        rw [Tbl.get_set_other _ _ _ _ (by omega)]
      rw [hother, List.length_cons]
      by_cases hin : a + 1 ≤ j ∧ j < a + 1 + bytes.length
      · rw [if_pos hin, if_pos (by omega), show j - a = j - (a + 1) + 1 by omega, List.getD_cons_succ]
      · rw [if_neg hin, if_neg (by omega)]

theorem kept_setOctFrom (k : Nat) (bytes : List Byte) : ∀ (s : State) (a : Nat),
    (s.setOctFrom k a bytes).regs = s.regs ∧ workKept s (s.setOctFrom k a bytes) ∧ (s.setOctFrom k a bytes).areas = s.areas := by
  induction bytes with
  | nil => exact fun s a => ⟨rfl, ⟨rfl, rfl, rfl, rfl, rfl⟩, rfl⟩
  | cons b bytes ih => exact fun s a => ih (s.setOct k a b) (a + 1)

theorem oct_applied (u : State) (who : Requester) (k i : Nat) : (u.applied who).oct k i = u.oct k i := rfl

theorem length_bulkBytes : (s.bulkBytes who 16).length = 16 := by
  simp [State.bulkBytes, countFrom, leBytes]

/-- REMOTE_GID of queue pair `q` as the map holds it (Table 21.3). -/
def remoteGidLoc (q : Nat) : EntLoc :=
  { row := ⟨.remoteGid, 0x5500, 0x1, 256, 1, 0x03, 0x03, .oct 16, .rw, .n, .n, 0⟩, inst := q, elem := 0 }

theorem findEntry_kRemoteGid : ∀ q, q < 256 → findEntry (kRemoteGid q / 256) (kRemoteGid q % 256) = some (remoteGidLoc q) := by
  decide +kernel

theorem gateEntry_of_gateLong {idx sub : Nat} {bytes : List Byte} {l : EntLoc} (h : s.gateLong who idx sub bytes = .ok l) :
    s.gateEntry who idx sub true none = .ok l := by
  unfold State.gateLong at h
  split at h
  · cases h
  · next hg => split_ifs at h; cases h; exact hg

/-- A bulk WRITE of REMOTE_GID of an idle queue pair replaces it (R435, R611, R620). -/
theorem exec_bulkWrite_remoteGid {q : Nat} (hq : q < 256) (hidle : s.qpIdle q = true)
    (h : acceptsLong s who (kRemoteGid q / 256) (kRemoteGid q % 256) (s.bulkBytes who 16)) :
    exec (.bulkWrite who (kRemoteGid q / 256) (kRemoteGid q % 256) 16) s =
      .next ((s.setOctFrom (kRemoteGid q) 0 (s.bulkBytes who 16)).applied who) := by
  obtain ⟨hreq, l, hl⟩ := id h
  have hentry := gateEntry_of_gateLong hl
  have hfind := findEntry_kRemoteGid q hq
  obtain rfl : l = remoteGidLoc q := Option.some.inj ((findEntry_of_gateEntry hentry).symm.trans hfind)
  have hkey : slotKey (kRemoteGid q / 256) (kRemoteGid q % 256) = kRemoteGid q := by unfold slotKey; omega
  have hpoke : s.dictLong who (kRemoteGid q / 256) (kRemoteGid q % 256) (s.bulkBytes who 16)
      (pokeLong (kRemoteGid q) (s.bulkBytes who 16)) = (s.setOctFrom (kRemoteGid q) 0 (s.bulkBytes who 16)).applied who := by
    simp only [State.dictLong, hreq, hl, if_true, pokeLong, State.finishWrite]
    simp [remoteGidLoc, qpConfig, orRefuse, hidle]
  have hwrite : s.writeLong who (kRemoteGid q / 256) (kRemoteGid q % 256) (s.bulkBytes who 16) =
      (s.setOctFrom (kRemoteGid q) 0 (s.bulkBytes who 16)).applied who := by
    simp only [State.writeLong, hfind, hkey, hpoke, remoteGidLoc]
  have hlen : ¬ ((remoteGidLoc q).row.ty.long = false ∨ 16 ≠ (remoteGidLoc q).row.ty.bytes) := by
    simp [remoteGidLoc, EntTy.long, EntTy.bytes]
  simp only [exec, execBulkWrite, State.bulkWrite, hreq, hentry, hlen, if_true, if_false, hwrite]

/-- A SAVE samples the whole set at once and is under way (R627). -/
def saving (s : State) : State := { s with saving := some s.sampleSet }.setNat kPersistState 1

theorem saving_leaves (s : State) : (saving s).saving = some s.sampleSet ∧ (saving s).nat kPersistState = 1 ∧
    (saving s).persist = s.persist ∧ slotsKept s (saving s) [kPersistState] ∧ memoryKept s (saving s) ∧ workKept s (saving s) :=
  ⟨rfl, State.nat_setNat_same _ (by decide), rfl, fun _ hk => State.reg_setNat_other _ _ (List.ne_of_not_mem_cons hk),
    ⟨fun _ => rfl, fun _ => rfl, fun _ => rfl, fun _ => rfl, fun _ _ => rfl, fun _ => rfl, fun _ => rfl⟩, rfl, rfl, rfl, rfl, rfl⟩

/-- A save that ends becomes the newer of two copies (R630). -/
def saved (s : State) (c : PersistCopy) : State :=
  ({ s with saving := none, persist := c :: s.persist.take 1 }.setNat kPersistState 0).bump kPersistSaves

theorem saved_leaves (s : State) (c : PersistCopy) : (saved s c).persist = c :: s.persist.take 1 ∧ (saved s c).saving = none ∧
    (saved s c).nat kPersistState = 0 ∧ (saved s c).nat kPersistSaves = satAdd 32 (s.nat kPersistSaves) 1 ∧
    slotsKept s (saved s c) [kPersistState, kPersistSaves] ∧ memoryKept s (saved s c) ∧ workKept s (saved s c) := by
  refine ⟨rfl, rfl, ?_, ?_, fun k hk => ?_, ⟨fun _ => rfl, fun _ => rfl, fun _ => rfl, fun _ => rfl, fun _ _ => rfl, fun _ => rfl,
    fun _ => rfl⟩, rfl, rfl, rfl, rfl, rfl⟩
  · rw [saved, nat_bump_other _ _ _ (by decide), State.nat_setNat_same _ (by decide)]
  · rw [saved, nat_bump_same _ _ _ (by decide), State.nat_setNat_other _ _ (by decide)]
    rfl
  · simp only [List.mem_cons, List.not_mem_nil, or_false, not_or] at hk
    rw [saved, State.reg_bump_other _ _ _ hk.2, State.reg_setNat_other _ _ hk.1]
    rfl

theorem exec_persistSaveDone {c : PersistCopy} (h : s.saving = some c) :
    exec (.persistSaveDone true) s = .next (saved s c) ∧
    exec (.persistSaveDone false) s = .next ({ s with saving := none }.setNat kPersistState 2) := by
  simp only [exec, execPersistSaveDone, h, if_true, Bool.false_eq_true, if_false]
  exact ⟨rfl, trivial⟩

end Bulk

/-- Settles O33: what each bulk access, clear, save and erase leaves, by the tests it passes and by PERSIST_STATE. -/
theorem bulkAndPersistence : Obligations.BulkAndPersistence := by
  refine ⟨?_, ?_, ?_, ?_, ?_, ?_, ?_, ?_, ?_, ?_, ?_⟩
  · intro s who idx sub l hreq hgate hlong hmax hmul hlen
    have hkept : AreasOnly s _ := ((areasOnly_setBulk s who 0 (s.sampleLong l (slotKey idx sub))).trans
      (areasOnly_setArea _ who 0x41 (wd l.row.ty.bytes))).trans (areasOnly_applied _ who)
    refine ⟨_, exec_bulkRead_ok hreq hgate hlong, ?_, fun i hi => ?_, fun i hi hout => ?_, hkept.slotsKept, hkept.memoryKept,
      hkept.workKept⟩
    · exact ((area_applied _ who who (by decide)).2 (.inr (by decide))).trans (State.area_setArea_same ..)
    · rw [area_bulkEnd _ _ _ (by omega), area_setBulk, if_pos (by omega)]
    · rw [area_bulkEnd _ _ _ hi, area_setBulk, if_neg (by omega)]
  · intro s who idx sub r hreq hgate
    simp only [exec, execBulkRead, State.bulkRead, hreq, hgate, if_true]
  · intro s who idx sub len l hreq hgate hbad
    simp only [exec, execBulkWrite, State.bulkWrite, hreq, hgate, if_true, if_pos hbad]
  · intro s who q hq hidle h
    obtain ⟨hregs, hwork, hareas⟩ := kept_setOctFrom (kRemoteGid q) (s.bulkBytes who 16) s 0
    refine ⟨_, exec_bulkWrite_remoteGid hq hidle h, fun i hi => ?_, fun k _ => ?_, hwork.applied who, ?_⟩
    · rw [oct_applied, oct_setOctFrom, if_pos (by rw [length_bulkBytes]; omega), Nat.sub_zero]
    · rw [State.reg_applied, State.reg_of_regs hregs]
    · rw [(area_applied _ who who (j := 0) (by decide)).1]
      simp only [State.area, hareas]
  · intro s who v h
    have hkept : AreasOnly s (if v = 1 then s.setArea who 0x42 (putFld (s.area who 0x42) 31 0 0) else s) := by
      split
      · rfl
      · rfl
    refine ⟨_, next_applied h fun l => rfl, ?_, (hkept.trans (areasOnly_applied _ who)).slotsKept,
      hkept.memoryKept.applied who, hkept.workKept.applied who⟩
    rw [(area_applied _ who who (by decide)).2 (.inr (by decide))]
    split
    · rw [State.area_setArea_same]
    · rfl
  · intro s who h hidle
    have hexec : exec (.persistSave who) s = .next ((saving s).applied who) := next_applied h fun l => if_neg hidle
    obtain ⟨hset, hstate, hcopies, hslots, hmem, hwork⟩ := saving_leaves s
    exact ⟨_, hexec, hset, (nat_of_reg (State.reg_applied ..)).trans hstate, hcopies,
      fun k hk => (State.reg_applied ..).trans (hslots k hk), hmem.applied who, hwork.applied who⟩
  · intro s who hbusy
    exact ⟨fun h => next_refused h fun l => if_pos hbusy, fun h => next_refused h fun l => if_pos hbusy⟩
  · intro s who h hidle
    exact next_applied h fun l => if_neg hidle
  · intro s c hsaving
    exact ⟨_, (exec_persistSaveDone hsaving).1, saved_leaves s c⟩
  · intro s c hsaving
    exact ⟨_, (exec_persistSaveDone hsaving).2, rfl, rfl, State.nat_setNat_same _ (by decide)⟩
  · intro s k hk
    exact (Tbl.get_drop ..).trans (if_neg (by rw [hk]; decide))

end Sys2Proof.Safety

namespace Sys2Proof.Safety

open Sys2Proof.Machine

/-! ### DAP accesses (O34) -/

section Dap

variable {s u : State} {node txn idx sub : Nat}

/-- The state between a request and its RESPONSE differs from the one before in areas, free values and transfers only. -/
structure Answering (s u : State) : Prop where
  up : u.stringsUp = s.stringsUp
  node : u.nat kNodeId = s.nat kNodeId
  out : u.out = s.out
  slots : ∀ k, u.reg k = s.reg k
  memory : memoryKept s u
  work : workKept s u

theorem Answering.refl (s : State) : Answering s s := ⟨rfl, rfl, rfl, fun _ => rfl, (Quiet.refl s).memoryKept, (Quiet.refl s).workKept⟩

/-- What is sent from such a state: one RESPONSE of the node. -/
theorem Answering.respond (h : Answering s u) (hup : s.stringsUp = true) (b : List Byte) :
    (u.respond s b).out = s.out ++ [.strings (s.canId 3) b] ∧ (u.respond s b).mario = u.mario ∧
    slotsKept s (u.respond s b) [kStringsLine, kAckErrors] ∧ areasKept u (u.respond s b) ∧ memoryKept s (u.respond s b) ∧
    workKept s (u.respond s b) := by
  have hup' : u.stringsUp = true := h.up.trans hup
  have hid : u.canId 3 = s.canId 3 := by simp only [State.canId, h.node]
  obtain ⟨hout, hmario, hslots, hareas, hmem, hwork⟩ := frameSent_sendStrings hup' 3 b
  rw [State.respond, if_pos hup']
  refine ⟨by rw [hout, h.out, hid], hmario, fun k hk => (hslots k hk).trans (h.slots k), hareas, h.memory.trans hmem,
    h.work.trans hwork⟩

/-- The node answers as before where its slots and its place on the bus are as before. -/
theorem stringsUp_congr (hreg : ∀ k, u.reg k = s.reg k) (hrest : u.mario.restarting = s.mario.restarting)
    (hconn : u.mario.connected = s.mario.connected) (hin : u.mario.inputOn = s.mario.inputOn) : u.stringsUp = s.stringsUp := by
  simp only [State.stringsUp, State.nat, hreg, hrest, hconn, hin]
  rfl

theorem AreasOnly.answering (h : AreasOnly s u) : Answering s u where
  up := stringsUp_congr h.reg (h.field fun s => s.mario.restarting) (h.field fun s => s.mario.connected)
    (h.field fun s => s.mario.inputOn)
  node := nat_of_reg (h.reg _)
  out := h.field State.out
  slots := h.reg
  memory := h.memoryKept
  work := h.workKept

theorem answering_sampled (s : State) (l : EntLoc) : Answering s (s.sampled l) ∧ (s.sampled l).areas = s.areas ∧
    (s.sampled l).mario = s.mario := by
  unfold State.sampled
  split
  · exact ⟨⟨rfl, rfl, rfl, fun _ => rfl, (quiet_takeFree s).memoryKept, (quiet_takeFree s).workKept⟩, rfl, rfl⟩
  · exact ⟨.refl s, rfl, rfl⟩

theorem areasKept_of_areas {t : State} (h : t.areas = s.areas) : areasKept s t := fun who sub => by simp only [State.area, h]

/-- What is done of a DAP access that is heard. -/
theorem exec_dapRead (hheard : heardFrom s node) : exec (.dapRead node txn idx sub) s =
    .next (if segRequired idx sub then s.respond s (response node 1 txn 0x21 idx sub [])
      else match s.gateRead (.strings node) idx sub with
        | .error r => (s.refuse (.strings node) r idx sub).respond s (response node 1 txn r.code idx sub [])
        | .ok l => (s.sampled l).respond s
          (response node 1 txn 0 idx sub (s.sample (.strings node) l (slotKey idx sub)))) := by
  refine congrArg Host.Outcome.next ((request_of_heardFrom hheard _).trans ?_)
  rfl

theorem exec_dapWrite (hheard : heardFrom s node) {data : List Byte} (hshort : segRequired idx sub = false) :
    exec (.dapWrite node txn idx sub data) s = .next ((s.stringsWrite (.strings node) idx sub data).respond s
      (response node 2 txn (writeStatus (.strings node) s (s.stringsWrite (.strings node) idx sub data)) idx sub [])) := by
  refine congrArg Host.Outcome.next ((request_of_heardFrom hheard _).trans ?_)
  rw [hshort]
  rfl

/-- The STATUS of a write that was refused is its reason (R623, Table 15.3). -/
theorem writeStatus_refuse (who : Requester) (r : Reason) : writeStatus who s (s.refuse who r idx sub) = r.code := by
  have hcount : (s.refuse who r idx sub).area who 0x45 = s.area who 0x45 :=
    (area_refuse s who who r idx sub (by decide)).2 (.inr (by decide))
  have hcode : r.code < 256 := by cases r <;> decide
  rw [writeStatus, hcount, if_neg (not_not.2 rfl), area_refuse_status, nat_wd, bitsOf, Nat.shiftRight_eq_div_pow]
  omega

end Dap

/-- Settles O34: a request that is heard is answered with one RESPONSE, from the state that its access leaves. -/
theorem dapAccesses : Obligations.DapAccesses := by
  intro s node txn idx sub hheard
  obtain ⟨-, -, -, -, hup⟩ := id hheard
  refine ⟨?_, ?_, ?_, ?_, ?_⟩
  · intro l hshort hgate
    obtain ⟨hans, hareas, -⟩ := answering_sampled s l
    obtain ⟨hout, -, hslots, hkept, hmem, hwork⟩ := hans.respond hup
      (response node 1 txn 0 idx sub (s.sample (.strings node) l (slotKey idx sub)))
    refine ⟨_, (exec_dapRead hheard).trans ?_, hout, hslots,
      fun who j => (hkept who j).trans (areasKept_of_areas hareas who j), hmem, hwork⟩
    simp only [hshort, hgate, Bool.false_eq_true, if_false]
  · intro r hshort hgate
    obtain ⟨hout, -, hslots, hkept, hmem, hwork⟩ := (areasOnly_refuse s (.strings node) r idx sub).answering.respond hup
      (response node 1 txn r.code idx sub [])
    refine ⟨_, (exec_dapRead hheard).trans ?_, hout, (hkept _ _).trans (area_refuse_status ..), hslots, hmem, hwork⟩
    simp only [hshort, hgate, Bool.false_eq_true, if_false]
  · intro hlong
    obtain ⟨hout, -, hslots, hkept, -, -⟩ := (Answering.refl s).respond hup (response node 1 txn 0x21 idx sub [])
    exact ⟨_, (exec_dapRead hheard).trans (congrArg Host.Outcome.next (if_pos hlong)), hout, hkept, hslots⟩
  · intro l data hfind hlong hlen
    have hbytes : ¬ 8 < l.row.ty.bytes := by simpa [EntTy.long] using hlong
    have hshort : segRequired idx sub = false := by simp only [segRequired, hfind, decide_eq_false_iff_not]; omega
    have hwrite : s.stringsWrite (.strings node) idx sub data =
        s.writeSlot (.strings node) idx sub (stringsValue l.row.ty (wd (leNat data))) := by
      simp [State.stringsWrite, hfind, hlen, hlong]
    exact ⟨_, rfl, by rw [exec_dapWrite hheard hshort, hwrite]⟩
  · intro l data hfind hmax hlen
    have hshort : segRequired idx sub = false := by simp only [segRequired, hfind, decide_eq_false_iff_not]; omega
    have hwrite : s.stringsWrite (.strings node) idx sub data = s.refuse (.strings node) .size idx sub := by
      simp [State.stringsWrite, hfind, hlen]
    obtain ⟨hout, -, hslots, hkept, hmem, hwork⟩ := (areasOnly_refuse s (.strings node) .size idx sub).answering.respond hup
      (response node 2 txn 8 idx sub [])
    refine ⟨_, ?_, hout, (hkept _ _).trans (area_refuse_status ..), hslots, hmem, hwork⟩
    rw [exec_dapWrite hheard hshort, hwrite, writeStatus_refuse]
    rfl

/-! ### Segmented transfers (O35) -/

section Segments

variable {s u : State} {node txn idx sub k : Nat} {x : SegSt}

theorem seg?_congr (h : u.mario = s.mario) (m : Nat) : u.seg? m = s.seg? m := by simp only [State.seg?, h]

theorem find?_filter_ne (l : List SegSt) (n m : Nat) :
    (l.filter fun x => x.node != n).find? (fun x => x.node == m) = if m = n then none else l.find? fun x => x.node == m := by
  rw [List.find?_filter]
  split
  · next h => subst h; exact List.find?_eq_none.2 fun x _ => by simp
  · next h =>
    congr 1
    funext x
    by_cases hx : x.node = m
    · simp [hx, h]
    · simp [hx]

/-- A node's transfer is gone; every other stays. -/
theorem seg?_dropSeg (s : State) (n m : Nat) : (s.dropSeg n).seg? m = if m = n then none else s.seg? m :=
  find?_filter_ne s.mario.segs n m

/-- A node's transfer is this one; every other stays. -/
theorem seg?_putSeg (s : State) (x : SegSt) (m : Nat) : (s.putSeg x).seg? m = if m = x.node then some x else s.seg? m := by
  refine (List.find?_append ..).trans ?_
  have hold : (s.dropSeg x.node).mario.segs.find? (fun y => y.node == m) = if m = x.node then none else s.seg? m :=
    seg?_dropSeg s x.node m
  rw [hold]
  split
  · next h => simp [h]
  · next h => cases s.seg? m with
    | some y => rfl
    | none => simp [Ne.symm h]

/-- The transfer that a node holds is its own. -/
theorem node_of_seg? (h : s.seg? node = some x) : x.node = node := by simpa using List.find?_some h

theorem answering_dropSeg (h : Answering s u) (n : Nat) : Answering s (u.dropSeg n) :=
  ⟨h.up, h.node, h.out, h.slots, h.memory, h.work⟩

theorem answering_putSeg (h : Answering s u) (x : SegSt) : Answering s (u.putSeg x) :=
  ⟨h.up, h.node, h.out, h.slots, h.memory, h.work⟩

/-- The transfers after a RESPONSE. -/
theorem seg?_respond (h : Answering s u) (hup : s.stringsUp = true) (b : List Byte) (m : Nat) :
    (u.respond s b).seg? m = u.seg? m := seg?_congr (h.respond hup b).2.1 m

/-- What a request leaves that ends with a node's transfer being `x` and one RESPONSE. -/
theorem putSeg_respond (h : Answering s u) (hup : s.stringsUp = true) (hmario : u.mario = s.mario) (hareas : u.areas = s.areas)
    (x : SegSt) (b : List Byte) :
    let t := (u.putSeg x).respond s b
    t.seg? x.node = some x ∧ (∀ m, m ≠ x.node → t.seg? m = s.seg? m) ∧ t.out = s.out ++ [.strings (s.canId 3) b] ∧
    slotsKept s t [kStringsLine, kAckErrors] ∧ areasKept s t ∧ memoryKept s t ∧ workKept s t := by
  have hans := answering_putSeg h x
  obtain ⟨hout, -, hslots, hkept, hmem, hwork⟩ := hans.respond hup b
  refine ⟨?_, fun m hm => ?_, hout, hslots, fun who j => (hkept who j).trans (areasKept_of_areas hareas who j), hmem, hwork⟩
  · rw [seg?_respond hans hup, seg?_putSeg, if_pos rfl]
  · rw [seg?_respond hans hup, seg?_putSeg, if_neg hm, seg?_congr hmario]

/-- A segment with the number that is due reaches its transfer. -/
theorem segment_due {op : Nat} (hheard : heardFrom s node) (hseg : s.seg? node = some x) (hnext : x.next = k)
    (f : SegSt → State → State) : s.segment node x.tid op idx sub k x.writes f = f x s := by
  rw [State.segment, request_of_heardFrom hheard]
  have hne : ¬ k + 1 = x.next := by omega
  simp [hseg, hnext]

/-- A segment with another number than the one due and the one before is answered with 0x23 (Table 16.10). -/
theorem segment_other {op : Nat} (hheard : heardFrom s node) (hseg : s.seg? node = some x) (hnext : x.next ≠ k)
    (hrep : x.next ≠ k + 1) (f : SegSt → State → State) :
    s.segment node x.tid op idx sub k x.writes f = s.respond s (response node op x.tid 0x23 idx sub []) := by
  rw [State.segment, request_of_heardFrom hheard]
  simp [hseg, hnext.symm, hrep.symm]

/-- The transfer with segment `k` served and answered by `b`. -/
def servedSeg (x : SegSt) (bytes : List Byte) (k : Nat) (b : List Byte) : SegSt := { x with bytes := bytes, next := k + 1, last := b }

/-- The segment that is due of a transfer that reads (R657). -/
theorem exec_segReadNext_due (hheard : heardFrom s node) (hseg : s.seg? node = some x) (hreads : x.writes = false)
    (hnext : x.next = k) (hmore : 56 * k < x.bytes.length) {b : List Byte}
    (hb : b = response node 4 x.tid 0 idx sub ((x.bytes.drop (56 * k)).take 56)) :
    exec (.segReadNext node x.tid idx sub k) s = .next ((s.putSeg (servedSeg x x.bytes k b)).respond s b) := by
  have hd : (x.bytes.drop (56 * k)).take 56 ≠ [] := by
    simp only [ne_eq, List.take_eq_nil_iff, List.drop_eq_nil_iff]
    omega
  have hdue := segment_due (op := 4) (idx := idx) (sub := sub) hheard hseg hnext
  rw [hreads] at hdue
  refine congrArg Host.Outcome.next ((hdue _).trans ((if_neg hd).trans ?_))
  rw [hb]
  rfl

/-- The segment that is due of a transfer that writes: its bytes are buffered, and all of them are written when there are enough
(R657). -/
theorem exec_segWriteData_due (hheard : heardFrom s node) (hseg : s.seg? node = some x) (hwrites : x.writes = true)
    (hnext : x.next = k) {data : List Byte} (hlen : data.length ≤ 56) (hroom : x.bytes.length + data.length ≤ x.total)
    (hmore : x.bytes.length < x.total) {t : State} {status : Nat} {b : List Byte}
    (ht : t = if x.total ≤ x.bytes.length + data.length then s.stringsWrite (.strings node) x.idx x.sub (x.bytes ++ data) else s)
    (hstatus : status = if x.total ≤ x.bytes.length + data.length then writeStatus (.strings node) s t else 0)
    (hb : b = response node 6 x.tid status idx sub []) :
    exec (.segWriteData node x.tid idx sub k data) s =
      .next ((t.putSeg (servedSeg x (x.bytes ++ data) k b)).respond s b) := by
  have hall : (x.bytes ++ data.take 56).take x.total = x.bytes ++ data := by
    rw [List.take_of_length_le hlen, List.take_of_length_le (by rw [List.length_append]; exact hroom)]
  have hopen : ¬ (x.next ≠ 0 ∧ x.total ≤ x.bytes.length) := fun h => Nat.not_le.2 hmore h.2
  have hdue := segment_due (op := 6) (idx := idx) (sub := sub) hheard hseg hnext
  rw [hwrites] at hdue
  refine congrArg Host.Outcome.next ((hdue _).trans ((if_neg hopen).trans ?_))
  simp only [hall, List.length_append, ← ht, ← hstatus, ← hb]
  rfl

end Segments

/-- Settles O35: a request that is heard opens, carries on or ends the transfer of its node, which no other node's follows. -/
theorem segmentedTransfers : Obligations.SegmentedTransfers := by
  refine ⟨?_, ?_, ?_⟩
  · intro s node txn idx sub hheard
    obtain ⟨-, -, -, -, hup⟩ := id hheard
    have hwith : ∀ f : State → State, s.request node f = f s := request_of_heardFrom hheard
    refine ⟨?_, ?_, ?_, ?_, ?_⟩
    · intro l hfits hgate
      obtain ⟨hans, hareas, hmario⟩ := answering_sampled s l
      obtain ⟨hsame, hother, hout, hslots, hkept, hmem, hwork⟩ := putSeg_respond hans hup hmario hareas
        { node := node, tid := txn, idx := idx, sub := sub, writes := false,
          total := (s.sample (.strings node) l (slotKey idx sub)).length, bytes := s.sample (.strings node) l (slotKey idx sub) }
        (response node 3 txn 0 idx sub (leBytes 2 (s.sample (.strings node) l (slotKey idx sub)).length))
      refine ⟨_, _, congrArg Host.Outcome.next ((hwith _).trans ?_), rfl, hsame, hother, hout, hslots, hkept, hmem, hwork⟩
      simp only [hfits, hgate, Bool.true_eq_false, if_false]
    · intro total hfits htotal
      obtain ⟨hsame, hother, hout, hslots, hkept, hmem, hwork⟩ := putSeg_respond (.refl s) hup rfl rfl
        { node := node, tid := txn, idx := idx, sub := sub, writes := true, total := total } (response node 5 txn 0 idx sub [])
      refine ⟨_, congrArg Host.Outcome.next ((hwith _).trans ?_), hsame, hother, hout, hslots, hkept, hmem, hwork⟩
      simp only [hfits, Nat.mod_eq_of_lt htotal, Bool.true_eq_false, if_false]
    · intro total hfits
      obtain ⟨hout, hmario, -⟩ := (Answering.refl s).respond hup (response node 5 txn 0x24 idx sub [])
      exact ⟨_, congrArg Host.Outcome.next ((hwith _).trans (if_pos hfits)), hmario, hout⟩
    · intro x hseg htid
      have hans := answering_dropSeg (.refl s) node
      obtain ⟨hout, -⟩ := hans.respond hup (response node 7 txn 0 idx sub [])
      refine ⟨_, congrArg Host.Outcome.next ((hwith _).trans ?_), ?_, fun m hm => ?_, hout⟩
      · simp only [hseg, htid, if_true]
      · rw [seg?_respond hans hup, seg?_dropSeg, if_pos rfl]
      · rw [seg?_respond hans hup, seg?_dropSeg, if_neg hm]
    · intro hseg
      obtain ⟨hout, hmario, -⟩ := (Answering.refl s).respond hup (response node 7 txn 0x22 idx sub [])
      refine ⟨_, congrArg Host.Outcome.next ((hwith _).trans ?_), hmario, hout⟩
      simp only [hseg]
  · intro s node
    have hans := answering_dropSeg (.refl s) node
    exact ⟨_, rfl, (seg?_dropSeg s node node).trans (if_pos rfl), fun m hm => (seg?_dropSeg s node m).trans (if_neg hm),
      fun k _ => hans.slots k, fun _ _ => rfl, hans.memory, hans.work⟩
  · rintro s _ txn idx sub k x hheard hseg rfl
    obtain ⟨-, -, -, -, hup⟩ := id hheard
    obtain rfl := node_of_seg? hseg
    refine ⟨?_, ?_, ?_, ?_⟩
    · intro hreads hnext hmore
      obtain ⟨hsame, -, hout, hslots, hkept, hmem, hwork⟩ := putSeg_respond (.refl s) hup rfl rfl (servedSeg x x.bytes k _) _
      exact ⟨_, _, exec_segReadNext_due hheard hseg hreads hnext hmore rfl, rfl, hsame, hout, hslots, hkept, hmem, hwork⟩
    · intro hreads hnext hrep
      obtain ⟨hout, hmario, -⟩ := (Answering.refl s).respond hup (response x.node 4 x.tid 0x23 idx sub [])
      have hother := segment_other (op := 4) (idx := idx) (sub := sub) hheard hseg hnext hrep
      rw [hreads] at hother
      exact ⟨_, congrArg Host.Outcome.next (hother _), hmario, hout⟩
    · intro data hwrites hnext hlen hmore
      have hpart : ¬ x.total ≤ x.bytes.length + data.length := Nat.not_le.2 hmore
      obtain ⟨hsame, -, hout, hslots, hkept, hmem, hwork⟩ :=
        putSeg_respond (.refl s) hup rfl rfl (servedSeg x (x.bytes ++ data) k _) _
      exact ⟨_, _, exec_segWriteData_due hheard hseg hwrites hnext hlen hmore.le (by omega) (if_neg hpart).symm
        (if_neg hpart).symm rfl, rfl, hsame, hout, hslots, hkept, hmem, hwork⟩
    · intro data hwrites hnext hlen hlast hdata
      have hpos : 0 < data.length := List.length_pos_iff.2 hdata
      refine ⟨_, _, rfl, rfl, ?_⟩
      rw [exec_segWriteData_due hheard hseg hwrites hnext hlen hlast.le (by omega) (if_pos hlast.ge).symm
        (if_pos hlast.ge).symm rfl]
      rfl

end Sys2Proof.Safety

namespace Sys2Proof.Safety

open Sys2Proof.Machine

/-! ### Messages and slots together -/

/-- A state differs from another in messages, and in no slot that is not listed. -/
structure Told (l : List Nat) (s t : State) : Prop where
  quiet : Quiet s t
  slots : slotsKept s t l

section Told

variable {s t u : State} {l m : List Nat} {k : Nat}

theorem Told.refl (s : State) (l : List Nat) : Told l s s := ⟨.refl s, fun _ _ => rfl⟩

theorem Told.trans (h : Told l s t) (h' : Told m t u) : Told (l ++ m) s u := ⟨h.quiet.trans h'.quiet, h.slots.trans h'.slots⟩

theorem Told.mono (h : Told l s t) (hsub : l ⊆ m) : Told m s t := ⟨h.quiet, h.slots.mono hsub⟩

/-- Two changes of the same slots. -/
theorem Told.and (h : Told l s t) (h' : Told l t u) : Told l s u := (h.trans h').mono (by simp)

theorem Told.ite {c : Prop} [Decidable c] (ht : Told l s t) (hu : Told l s u) : Told l s (if c then t else u) := by
  split
  · exact ht
  · exact hu

theorem Told.reg (h : Told l s t) (hk : k ∉ l) : t.reg k = s.reg k := h.slots k hk
theorem Told.nat (h : Told l s t) (hk : k ∉ l) : t.nat k = s.nat k := nat_of_reg (h.reg hk)
theorem Told.bit (h : Told l s t) (b : Nat) (hk : k ∉ l) : t.bit k b = s.bit k b := bit_of_reg b (h.reg hk)
theorem Told.mario (h : Told l s t) : t.mario = s.mario := h.quiet.field State.mario
theorem Told.hbm (h : Told l s t) : t.hbm = s.hbm := h.quiet.field State.hbm
theorem Told.ls (h : Told l s t) : t.ls = s.ls := h.quiet.field State.ls
theorem Told.fs (h : Told l s t) : t.fs = s.fs := h.quiet.field State.fs
theorem Told.acc (h : Told l s t) : t.acc = s.acc := h.quiet.field State.acc
theorem Told.inflight (h : Told l s t) : t.inflight = s.inflight := h.quiet.field State.inflight
theorem Told.posted (h : Told l s t) : t.posted = s.posted := h.quiet.field State.posted
theorem Told.jobs (h : Told l s t) : t.jobs = s.jobs := h.quiet.field State.jobs
theorem Told.persist (h : Told l s t) : t.persist = s.persist := h.quiet.field State.persist
theorem Told.saving (h : Told l s t) : t.saving = s.saving := h.quiet.field State.saving
theorem Told.areas (h : Told l s t) : t.areas = s.areas := h.quiet.field State.areas
theorem Told.rings (h : Told l s t) : t.rings = s.rings := h.quiet.field State.rings
theorem Told.aborts (h : Told l s t) : t.aborts = s.aborts := h.quiet.field State.aborts
theorem Told.octs (h : Told l s t) : t.octs = s.octs := h.quiet.field State.octs
theorem Told.stop (h : Told l s t) : t.stop = s.stop := h.quiet.field State.stop
theorem Told.tb (h : Told l s t) : t.tb = s.tb := h.quiet.field State.tb
theorem Told.boot (h : Told l s t) : t.boot = s.boot := h.quiet.field State.boot

theorem told_setReg (s : State) (k : Nat) (w : Word) : Told [k] s (s.setReg k w) :=
  ⟨quiet_setReg s k w, fun _ hj => State.reg_setReg_other s w (List.ne_of_not_mem_cons hj)⟩

theorem told_setNat (s : State) (k n : Nat) : Told [k] s (s.setNat k n) := told_setReg s k _

theorem told_setBit (s : State) (k b : Nat) : Told [k] s (s.setBit k b) := told_setReg s k _

theorem told_bump (s : State) (k n w : Nat) : Told [k] s (s.bump k n w) := told_setReg s k _

theorem told_wrapAdd (s : State) (k n w : Nat) : Told [k] s (s.wrapAdd k n w) := told_setReg s k _

theorem told_emit (s : State) (o : Output) : Told [] s (s.emit o) := ⟨quiet_emit s o, fun _ _ => rfl⟩

theorem told_takeFree (s : State) : Told [] s s.takeFree := ⟨quiet_takeFree s, fun _ _ => rfl⟩

theorem told_msix (s : State) (fn vec : Nat) : Told [] s (s.msix fn vec) := ⟨quiet_msix s fn vec, fun k _ => State.reg_msix s fn vec k⟩

theorem told_foldl {α : Type} {f : State → α → State} (hf : ∀ s x, Told l s (f s x)) (xs : List α) :
    ∀ s, Told l s (xs.foldl f s) := by
  induction xs with
  | nil => exact fun s => .refl s l
  | cons x xs ih => exact fun s => (hf s x).and (ih (f s x))

/-- The slots that a record of the log moves: its number, and those of the line it may be sent on. -/
def logSlots : List Nat := [kLogNextSeq, kStringsLine, kAckErrors]

theorem told_logEvent (s : State) (code sev src a0 a1 a2 : Nat) : Told logSlots s (s.logEvent code sev src a0 a1 a2) where
  quiet := quiet_logEvent s code sev src a0 a1 a2
  slots k hk := by
    simp only [logSlots, List.mem_cons, List.not_mem_nil, or_false, not_or] at hk
    exact reg_logEvent_other s code sev src a0 a1 a2 hk.1 hk.2.1 hk.2.2

theorem told_dieEvent (s : State) (code a0 a1 a2 : Nat) : Told logSlots s (s.dieEvent code a0 a1 a2) := told_logEvent ..

theorem told_alertEdge (s before : State) : Told [] s (s.alertEdge before) :=
  ⟨quiet_alertEdge s before, fun k _ => reg_alertEdge s before k⟩

theorem told_alert (s : State) (b : Nat) : Told [kAlertStatus] s (s.alert b) :=
  (told_setBit s kAlertStatus b).trans (told_alertEdge _ _)

/-- A set bit stays set when another is set. -/
theorem bit_setBit_of_bit (k : Nat) {a : Nat} (b : Nat) (h : s.bit k a = true) : (s.setBit k b).bit k a = true := by
  simp only [State.bit, State.nat, bitOf_eq_testBit] at h ⊢
  have hlt : a < 64 := by
    by_contra hge
    rw [Nat.testBit_lt_two_pow ((BitVec.isLt _).trans_le (Nat.pow_le_pow_right (by decide) (by omega)))] at h
    cases h
  rw [State.setBit, State.reg_setReg_same, BitVec.testBit_toNat, BitVec.getLsbD_or, ← BitVec.testBit_toNat, h, Bool.true_or]

theorem bit_alert (s : State) (b : Nat) (hb : b < 64) : (s.alert b).bit kAlertStatus b = true :=
  (bit_of_reg b (reg_alertEdge _ _ _)).trans (s.bit_setBit kAlertStatus b hb)

theorem bit_alert_of_bit {a : Nat} (b : Nat) (h : s.bit kAlertStatus a = true) : (s.alert b).bit kAlertStatus a = true :=
  (bit_of_reg a (reg_alertEdge _ _ _)).trans (bit_setBit_of_bit kAlertStatus b h)

end Told

/-! ### Chip resets and rails -/

section Power

variable {s : State} {warm : Bool} {cause area k : Nat}

/-- The slots that a move of POWER_STATE changes. -/
def powerSlots : List Nat := [kPowerState, kLogNextSeq, kStringsLine, kAckErrors]

theorem told_setPower (st : Nat) : Told powerSlots s (s.setPower st area) := by
  unfold State.setPower
  split
  · exact .refl ..
  · exact (told_setNat s kPowerState st).trans (told_logEvent ..)

/-- POWER_STATE after its move (Table 16.5). -/
theorem power_setPower {st : Nat} (hst : st < 2 ^ 64) : (s.setPower st area).nat kPowerState = st := by
  unfold State.setPower
  split
  · assumption
  · rw [(told_logEvent ..).nat (by decide), State.nat_setNat_same _ hst]

/-- What a chip reset leaves, but for the states of the link ports (Table 17.7). -/
def resetBase (s : State) (warm : Bool) (cause : Nat) : State :=
  { regs := Tbl.drop (fun k => !keptSlot k) s.regs, octs := keptOcts warm s.octs, hbm := if warm then s.hbm else [],
    out := s.out, free := s.free, nextId := s.nextId, pending := s.pending, areas := s.areas,
    boot := { inReset := true, cause := cause, fencedCores := s.boot.fencedCores, savedMap := s.boot.savedMap,
              retired := s.boot.retired, repairs := s.boot.repairs, cmuFailed := s.boot.cmuFailed },
    persist := s.persist, saving := s.saving, mario := s.mario, log := s.log, stop := s.stop }

def portSlots : List Nat := (countFrom 0 16).map kPortState

theorem mem_portSlots {n : Nat} (hn : n < 16) : kPortState n ∈ portSlots := List.mem_map.2 ⟨n, mem_countFrom.2 (by omega), rfl⟩

theorem told_foldl_mem {α : Type} {f : State → α → State} {l : List Nat} (xs : List α)
    (hf : ∀ s, ∀ x ∈ xs, Told l s (f s x)) : ∀ s, Told l s (xs.foldl f s) := by
  induction xs with
  | nil => exact fun s => .refl s l
  | cons x xs ih =>
    exact fun s => (hf s x (List.mem_cons_self ..)).and (ih (fun s y hy => hf s y (List.mem_cons_of_mem _ hy)) (f s x))

theorem told_dieReset : Told portSlots (resetBase s warm cause) (s.dieReset warm cause) :=
  told_foldl_mem _ (fun s n hn => (told_setNat s (kPortState n) 5).mono fun k hk => by
    rw [List.mem_singleton.1 hk]
    exact mem_portSlots (mem_countFrom.1 hn).2) _

theorem kPortState_injective {n m : Nat} : kPortState n = kPortState m ↔ n = m := by unfold kPortState; omega

theorem port_dieReset {n : Nat} (hn : n < 16) : (s.dieReset warm cause).nat (kPortState n) = 5 := by
  have key : ∀ (xs : List Nat) (s : State), n ∈ xs →
      (xs.foldl (fun (s : State) n => s.setNat (kPortState n) 5) s).nat (kPortState n) = 5 := by
    intro xs
    induction xs with
    | nil => exact fun s h => absurd h List.not_mem_nil
    | cons m xs ih =>
      intro s hmem
      by_cases hin : n ∈ xs
      · exact ih _ hin
      · obtain rfl := (List.mem_cons.1 hmem).resolve_right hin
        refine (foldl_keeps (g := fun s => s.nat (kPortState n)) xs _ fun s j hj => ?_).trans (State.nat_setNat_same _ (by decide))
        exact State.nat_setNat_other s _ fun he => hin (kPortState_injective.1 he ▸ hj)
  exact key _ _ (mem_countFrom.2 (by omega))

/-- A slot that survives a chip reset reads as before (R626, R706). -/
theorem reg_dieReset (hk : keptSlot k = true) (hport : k ∉ portSlots) : (s.dieReset warm cause).reg k = s.reg k := by
  rw [told_dieReset.reg hport]
  exact (Tbl.get_drop ..).trans (if_neg (by simp [hk]))

theorem nat_dieReset (hk : keptSlot k = true) (hport : k ∉ portSlots) : (s.dieReset warm cause).nat k = s.nat k :=
  nat_of_reg (reg_dieReset hk hport)

/-- The sensors' slots of the die and its rails go to zero with its power; every other slot stays (Table 16.3). -/
theorem reg_dieChannelsOff (hk : k / 256 ≠ 0x7000) : s.dieChannelsOff.reg k = s.reg k :=
  (Tbl.get_drop ..).trans (if_neg (by simp [hk]))

theorem dieChannelsOff_fields (s : State) : s.dieChannelsOff.hbm = s.hbm ∧ s.dieChannelsOff.ls = s.ls ∧
    s.dieChannelsOff.fs = s.fs ∧ s.dieChannelsOff.acc = s.acc ∧ s.dieChannelsOff.inflight = s.inflight ∧
    s.dieChannelsOff.posted = s.posted ∧ s.dieChannelsOff.jobs = s.jobs ∧ s.dieChannelsOff.boot = s.boot :=
  ⟨rfl, rfl, rfl, rfl, rfl, rfl, rfl, rfl⟩

theorem dieChannelsOff_kept (s : State) : s.dieChannelsOff.mario.flash = s.mario.flash ∧ s.dieChannelsOff.persist = s.persist ∧
    s.dieChannelsOff.saving = s.saving ∧ s.dieChannelsOff.areas = s.areas := ⟨rfl, rfl, rfl, rfl⟩

/-- The die that has lost its power. -/
def unpowered (s : State) : State := (s.dieReset false 0).dieChannelsOff

theorem reg_unpowered (hk : keptSlot k = true) (hport : k ∉ portSlots) (hs : k / 256 ≠ 0x7000) : (unpowered s).reg k = s.reg k :=
  (reg_dieChannelsOff hs).trans (reg_dieReset hk hport)

theorem port_unpowered {n : Nat} (hn : n < 16) : (unpowered s).nat (kPortState n) = 5 :=
  (nat_of_reg (reg_dieChannelsOff (by unfold kPortState; omega))).trans (port_dieReset hn)

/-- A die that has lost its power has lost everything, whatever messages and slots follow. -/
theorem coldDie_of_told {l : List Nat} {t : State} (h : Told l (unpowered s) t) (hports : ∀ n, n < 16 → kPortState n ∉ l) :
    coldDie t := by
  obtain ⟨hhbm, hls, hfs, hacc, hinf, hpost, hjobs, hboot⟩ := dieChannelsOff_fields (s.dieReset false 0)
  have hreset := told_dieReset (s := s) (warm := false) (cause := 0)
  exact ⟨h.hbm.trans (hhbm.trans hreset.hbm), h.ls.trans (hls.trans hreset.ls), h.fs.trans (hfs.trans hreset.fs),
    h.acc.trans (hacc.trans hreset.acc), h.inflight.trans (hinf.trans hreset.inflight),
    h.posted.trans (hpost.trans hreset.posted), h.jobs.trans (hjobs.trans hreset.jobs),
    congrArg BootSt.inReset (h.boot.trans (hboot.trans hreset.boot)),
    fun n hn => (h.nat (hports n hn)).trans (port_unpowered hn)⟩

/-- What an unpowered die keeps: the Marionette's flash, the saved copies and the areas. -/
theorem kept_unpowered : (unpowered s).mario.flash = s.mario.flash ∧ (unpowered s).persist = s.persist ∧
    (unpowered s).saving = s.saving ∧ (unpowered s).areas = s.areas := by
  obtain ⟨hflash, hpersist, hsaving, hareas⟩ := dieChannelsOff_kept (s.dieReset false 0)
  have hreset := told_dieReset (s := s) (warm := false) (cause := 0)
  exact ⟨hflash.trans (congrArg Mario.flash hreset.mario), hpersist.trans hreset.persist, hsaving.trans hreset.saving,
    hareas.trans hreset.areas⟩

theorem told_dieOff (st : Nat) : Told powerSlots (unpowered s) (s.dieOff st area) := told_setPower st

end Power

end Sys2Proof.Safety

namespace Sys2Proof.Safety

open Sys2Proof.Machine

/-! ### Sensors (O36) -/

section Sensors

variable {s : State} {ch : Nat} {value : Int} {y : SensorSt}

/-- A sample of a channel has been taken: its runs and its slot. -/
def sampledAs (s : State) (ch : Nat) (y : SensorSt) (w : Word) : State :=
  { s with mario := { s.mario with sensors := Tbl.set {} s.mario.sensors ch y } }.setReg (kSensor (ch - 1)) w

theorem sensor_sampledAs (w : Word) : Tbl.get {} (sampledAs s ch y w).mario.sensors ch = y := Tbl.get_set_same ..

theorem reg_sampledAs_same (w : Word) : (sampledAs s ch y w).reg (kSensor (ch - 1)) = w := State.reg_setReg_same ..

theorem slots_sampledAs (w : Word) : slotsKept s (sampledAs s ch y w) [kSensor (ch - 1)] := fun _ hk =>
  State.reg_setReg_other _ w (List.ne_of_not_mem_cons hk)

theorem kept_sampledAs (w : Word) : memoryKept s (sampledAs s ch y w) ∧ workKept s (sampledAs s ch y w) ∧
    areasKept s (sampledAs s ch y w) :=
  ⟨⟨fun _ => rfl, fun _ => rfl, fun _ => rfl, fun _ => rfl, fun _ _ => rfl, fun _ => rfl, fun _ => rfl⟩,
    ⟨rfl, rfl, rfl, rfl, rfl⟩, fun _ _ => rfl⟩

/-- A sample of a working channel that is evaluated: its level follows R640, and a change of it follows R642. -/
theorem exec_sensorSample_ok (hlo : 1 ≤ ch) (hhi : ch ≤ 0x28) (h18 : ch ≠ 0x18) (hon : s.mario.inputOn = true)
    (hup : s.mario.restarting = false) (hpow : dieChannel ch = false ∨ s.nat kPowerState = 2)
    (hfault : bitOf (s.nat (kSensor (ch - 1))) 49 = false) : exec (.sensorSample ch value false) s =
      .next ((sampledAs s ch (s.sensorNext ch value) (sensorWord value false (s.sensorNext ch value).level)).levelChange ch
        (toBits 32 value) (fld (s.reg (kSensor (ch - 1))) 51 50) (s.sensorNext ch value).level) := by
  have hlive : ¬ (ch = 0 ∨ 0x28 < ch ∨ s.mario.inputOn = false ∨ s.mario.restarting = true) := by
    rw [hon, hup]
    simp
    omega
  have hfed : ¬ (dieChannel ch = true ∧ s.nat kPowerState ≠ 2) := by
    obtain h | h := hpow <;> simp [h]
  have hsame : ∀ t : State, t.faultChange ch (bitOf (s.reg (kSensor (ch - 1))).toNat 49) false = t := fun t => if_pos hfault
  simp only [exec, execSensorSample, hlive, hfed, if_false, hsame, h18, Bool.false_eq_true]
  rfl

theorem exec_sensorSample_faulty (hlo : 1 ≤ ch) (hhi : ch ≤ 0x28) (hon : s.mario.inputOn = true)
    (hup : s.mario.restarting = false) (hpow : dieChannel ch = false ∨ s.nat kPowerState = 2)
    (hfault : bitOf (s.nat (kSensor (ch - 1))) 49 = false) : exec (.sensorSample ch value true) s =
      .next (((sampledAs s ch { level := (Tbl.get {} s.mario.sensors ch).level }
        (sensorWord (sext 32 (s.nat (kSensor (ch - 1)))) true 1)).faultChange ch false true).levelChange ch
        (fld (s.reg (kSensor (ch - 1))) 31 0) (fld (s.reg (kSensor (ch - 1))) 51 50) 1) := by
  have hlive : ¬ (ch = 0 ∨ 0x28 < ch ∨ s.mario.inputOn = false ∨ s.mario.restarting = true) := by
    rw [hon, hup]
    simp
    omega
  have hfed : ¬ (dieChannel ch = true ∧ s.nat kPowerState ≠ 2) := by
    obtain h | h := hpow <;> simp [h]
  have hold : bitOf (s.reg (kSensor (ch - 1))).toNat 49 = false := hfault
  simp only [exec, execSensorSample, hlive, hfed, if_false, if_true, hold]
  rfl

/-- The slots that a change of a channel's level or fault moves, short of a power-down. -/
def alertSlots : List Nat := [kAlertStatus, kLogNextSeq, kStringsLine, kAckErrors]

theorem told_faultChange (a b : Bool) : Told alertSlots s (s.faultChange ch a b) := by
  unfold State.faultChange
  split
  · exact .refl ..
  · exact ((told_logEvent s _ _ _ _ _ _).mono (by decide)).and
      (.ite ((told_alert _ 2).mono (by decide)) (.refl _ _))

/-- A change of level that is not one into CRIT (R642). -/
theorem told_levelChange {v old new : Nat} (hnew : new ≠ 2) : Told alertSlots s (s.levelChange ch v old new) := by
  unfold State.levelChange
  split
  · exact .refl ..
  · simp only [hnew, false_and, if_false]
    exact ((told_logEvent s _ _ _ _ _ _).mono (by decide)).and (.ite ((told_alert _ 0).mono (by decide)) (.refl _ _))

theorem bit_faultChange : (s.faultChange ch false true).bit kAlertStatus 2 = true := bit_alert _ 2 (by decide)

/-- ALERT_STATUS keeps a set bit over a change of level that is not one into CRIT. -/
theorem bit_levelChange {v old new b : Nat} (hnew : new ≠ 2) (h : s.bit kAlertStatus b = true) :
    (s.levelChange ch v old new).bit kAlertStatus b = true := by
  have hlog : (s.logEvent 0x0010 (Config.sensorSeverity new).toNat 1 ch v new).bit kAlertStatus b = true :=
    ((told_logEvent ..).bit b (by decide)).trans h
  unfold State.levelChange
  split
  · exact h
  · simp only [hnew, false_and, if_false]
    split
    · exact bit_alert_of_bit 0 hlog
    · exact hlog

theorem kSensor_notMem (h : ch ≤ 0x28) : kSensor (ch - 1) ∉ alertSlots := by
  have hlt : kSensor (ch - 1) < 0x701000 := by unfold kSensor; omega
  intro hmem
  simp only [alertSlots, List.mem_cons, List.not_mem_nil, or_false] at hmem
  obtain h | h | h | h := hmem <;> rw [h] at hlt <;> exact absurd hlt (by decide)

/-- A protective power-down of a die that has power (R643, R644). -/
theorem protect_leaves {c v : Nat} (h3 : s.nat kPowerState ≠ 3) (h4 : s.nat kPowerState ≠ 4)
    (hb : s.bit kAlertStatus 1 = true) : (s.protect c v).nat kPowerState = 3 ∧ (s.protect c v).bit kAlertStatus 1 = true ∧
      (s.protect c v).bit kAlertStatus 4 = true ∧ coldDie (s.protect c v) := by
  have hlog := told_logEvent s 0x0021 3 2 c v 0
  have hal := told_alert (s.logEvent 0x0021 3 2 c v 0) 4
  have hpower : ((s.logEvent 0x0021 3 2 c v 0).alert 4).nat kPowerState = s.nat kPowerState :=
    (hal.nat (by decide)).trans (hlog.nat (by decide))
  have heq : s.protect c v = ((s.logEvent 0x0021 3 2 c v 0).alert 4).dieOff 3 65 := by
    refine if_neg ?_
    rw [hpower]
    exact not_or.2 ⟨h4, h3⟩
  have hoff := told_dieOff (s := (s.logEvent 0x0021 3 2 c v 0).alert 4) (area := 65) 3
  have hstatus : (((s.logEvent 0x0021 3 2 c v 0).alert 4).dieOff 3 65).reg kAlertStatus =
      ((s.logEvent 0x0021 3 2 c v 0).alert 4).reg kAlertStatus :=
    (hoff.reg (by decide)).trans (reg_unpowered (by decide) (by decide) (by decide))
  rw [heq]
  refine ⟨power_setPower (by decide), ?_, ?_, coldDie_of_told hoff (by decide)⟩
  · rw [bit_of_reg 1 hstatus]
    exact bit_alert_of_bit 4 ((hlog.bit 1 (by decide)).trans hb)
  · rw [bit_of_reg 4 hstatus]
    exact bit_alert _ 4 (by decide)

/-- An entry into CRIT of a channel other than inlet and outlet air powers the die down (R643). -/
theorem levelChange_crit {v old : Nat} (hold : old ≠ 2) (h15 : ch ≠ 0x15) (h16 : ch ≠ 0x16) :
    s.levelChange ch v old 2 = ((s.logEvent 0x0010 (Config.sensorSeverity 2).toNat 1 ch v 2).alert 1).protect ch v := by
  simp [State.levelChange, hold, h15, h16]

theorem alerted_crit {w : Word} {v : Nat} (hhi : ch ≤ 0x28) :
    let u := ((sampledAs s ch y w).logEvent 0x0010 (Config.sensorSeverity 2).toNat 1 ch v 2).alert 1
    u.nat kPowerState = s.nat kPowerState ∧ u.bit kAlertStatus 1 = true := by
  have hne : kPowerState ∉ [kSensor (ch - 1)] := by
    have hlt : kSensor (ch - 1) < kPowerState := by unfold kSensor kPowerState; omega
    exact fun h => hlt.ne' (List.mem_singleton.1 h)
  exact ⟨((told_alert _ 1).nat (by decide)).trans (((told_logEvent ..).nat (by decide)).trans
    (nat_of_reg (slots_sampledAs w _ hne))), bit_alert _ 1 (by decide)⟩

/-- The level of a channel after a sample, by its runs (R640). -/
theorem sensor_levels (x : SensorSt) (bw bc iw ic : Bool) :
    (x.beyondCrit = 2 → (x.next bw true iw ic).level = 2) ∧
    (x.level = 0 → x.beyondWarn = 2 → (x.next true false iw ic).level = 1) ∧
    (x.level = 0 → x.beyondWarn < 2 → (x.next bw false iw ic).level = 0) ∧
    (x.level = 1 → x.insideWarn = 9 → (x.next bw false true ic).level = 0) ∧
    (x.level = 1 → x.insideWarn < 9 → (x.next bw false iw ic).level = 1) ∧
    (x.level = 2 → x.insideCrit = 9 → (x.next bw false false true).level = 1) ∧
    (x.level = 2 → x.insideCrit < 9 → (x.next bw bc iw ic).level = 2) ∧
    (x.level ≤ 2 → (x.next bw bc iw ic).level ≤ 2) := by
  have hlt : ∀ (b : Bool) (limit n : Nat), n + 1 < limit → runOf b limit n ≠ limit := fun b limit n h => by
    cases b <;> simp [runOf] <;> omega
  refine ⟨fun h => ?_, fun h h' => ?_, fun h h' => ?_, fun h h' => ?_, fun h h' => ?_, fun h h' => ?_, fun h h' => ?_,
    fun h => ?_⟩
  · simp [SensorSt.next, runOf, h]
  · simp [SensorSt.next, runOf, h, h']
  · simp [SensorSt.next, h, hlt bw 3 x.beyondWarn (by omega)]
    simp [runOf]
  · simp [SensorSt.next, runOf, h, h']
  · simp [SensorSt.next, h, hlt iw 10 x.insideWarn (by omega)]
    simp [runOf]
  · simp [SensorSt.next, runOf, h, h']
  · simp [SensorSt.next, h, hlt ic 10 x.insideCrit (by omega)]
  · unfold SensorSt.next
    dsimp only
    split_ifs <;> omega

/-- The power cap's state by the input power of its window (R646). -/
theorem capCheck_eq (hfull : s.nat kCapWindowMs ≤ s.mario.watts.length) :
    s.capCheck = if s.nat kCapState = 0 ∧
        s.nat kPowerCapW * 1000 * s.nat kCapWindowMs < sumOf (s.mario.watts.take (s.nat kCapWindowMs)) then
      ((s.setNat kCapState 1).logEvent 0x0020 2 2 (s.nat kPowerCapW)
        (sumOf (s.mario.watts.take (s.nat kCapWindowMs)) / s.nat kCapWindowMs) 0).alert 3
    else if s.nat kCapState = 1 ∧ sumOf (s.mario.watts.take (s.nat kCapWindowMs)) * 100 <
        97 * (s.nat kPowerCapW * 1000 * s.nat kCapWindowMs) then s.setNat kCapState 0
    else s := if_neg (Nat.not_lt.2 hfull)

end Sensors

/-- Settles O36: a channel's runs and level by R640, what its sample and its faults change, and the power cap. -/
theorem sensors : Obligations.Sensors := by
  refine ⟨sensor_levels, ?_, ?_, ?_, ?_, ?_⟩
  · intro s ch value _ hlo hhi h18 hon hup hpow hfault rfl hlevel
    obtain ⟨hmem, hwork, hareas⟩ := kept_sampledAs (s := s) (ch := ch) (y := s.sensorNext ch value)
      (sensorWord value false (s.sensorNext ch value).level)
    refine ⟨_, (exec_sensorSample_ok hlo hhi h18 hon hup hpow hfault).trans (congrArg Host.Outcome.next (if_pos hlevel.symm)),
      reg_sampledAs_same _, sensor_sampledAs _, slots_sampledAs _, hmem, hwork, hareas⟩
  · intro s ch value _ hlo hhi h15 h16 h18 hon hup hpow h3 h4 hfault rfl hlevel hold
    have hexec := exec_sensorSample_ok (value := value) hlo hhi h18 hon hup hpow hfault
    rw [hlevel, levelChange_crit hold h15 h16] at hexec
    obtain ⟨hpower, hcrit⟩ := alerted_crit (s := s) (y := s.sensorNext ch value) (w := sensorWord value false 2)
      (v := toBits 32 value) hhi
    obtain ⟨hstate, hb1, hb4, hhbm, -, -, -, hinf, -, -, hreset, -⟩ :=
      protect_leaves (c := ch) (v := toBits 32 value) (hpower.trans_ne h3) (hpower.trans_ne h4) hcrit
    exact ⟨_, hexec, hstate, hb1, hb4, hhbm, hinf, hreset⟩
  · intro s ch value hlo hhi hon hup hpow hfault
    obtain ⟨hmem, hwork, -⟩ := kept_sampledAs (s := s) (ch := ch) (y := { level := (Tbl.get {} s.mario.sensors ch).level })
      (sensorWord (sext 32 (s.nat (kSensor (ch - 1)))) true 1)
    have htold := fun (u : State) => (told_faultChange (s := u) (ch := ch) false true).and (told_levelChange (ch := ch)
      (v := fld (s.reg (kSensor (ch - 1))) 31 0) (old := fld (s.reg (kSensor (ch - 1))) 51 50) (new := 1) (by decide))
    exact ⟨_, exec_sensorSample_faulty hlo hhi hon hup hpow hfault, ((htold _).reg (kSensor_notMem hhi)).trans (reg_sampledAs_same _),
      bit_levelChange (by decide) bit_faultChange, hmem.trans (htold _).quiet.memoryKept, hwork.trans (htold _).quiet.workKept⟩
  · intro s ch value faulty hoff
    refine if_pos ?_
    tauto
  · intro s _ hfull
    rw [capCheck_eq hfull]
    refine ⟨fun h0 hover => ?_, fun h1 hunder => ?_, fun h0 hin => ?_⟩
    · rw [if_pos ⟨h0, hover⟩]
      refine ⟨?_, bit_alert _ 3 (by decide)⟩
      rw [(told_alert _ 3).nat (by decide), (told_logEvent ..).nat (by decide), State.nat_setNat_same _ (by decide)]
    · rw [if_neg (by simp [h1]), if_pos ⟨h1, hunder⟩]
    · rw [if_neg (by simp [Nat.not_lt.2 hin]), if_neg (by simp [h0])]

end Sys2Proof.Safety

namespace Sys2Proof.Safety

open Sys2Proof.Machine

/-! ### Power commands (O37) -/

section FilteredTables

variable {α : Type} {d : α} {p : Nat × α → Bool}

theorem get_of_risesFrom {k : Nat} : ∀ {t : Tbl α} {n : Nat}, Tbl.risesFrom (some n) t = true → k ≤ n → Tbl.get d t k = d
  | [], _, _, _ => rfl
  | (a, v) :: t, n, h, hk => by
    simp only [Tbl.risesFrom, Bool.and_eq_true, decide_eq_true_eq] at h
    rw [Tbl.get, if_neg (by omega)]
    exact get_of_risesFrom h.2 (by omega)

/-- What a filtered table in canonical form reads: the entry where it passes the filter, and the default where it does not. -/
theorem get_filter {k : Nat} : ∀ {t : Tbl α} {o : Option Nat}, Tbl.risesFrom o t = true →
    Tbl.get d (t.filter p) k = if p (k, Tbl.get d t k) then Tbl.get d t k else d
  | [], _, _ => (ite_self d).symm
  | (a, v) :: t, o, h => by
    have htail : Tbl.risesFrom (some a) t = true := by
      cases o with
      | none => exact h
      | some n => exact (Bool.and_eq_true_iff.1 h).2
    have ih := get_filter (k := k) htail
    by_cases hak : a = k
    · subst hak
      have hnone : Tbl.get d t a = d := get_of_risesFrom htail le_rfl
      rw [hnone] at ih
      by_cases hp : p (a, v) = true
      · simp [hp, Tbl.get]
      · simpa [hp, Tbl.get] using ih
    · by_cases hp : p (a, v) = true
      · simpa [hp, Tbl.get, hak] using ih
      · simpa [hp, Tbl.get, hak] using ih

end FilteredTables

section PowerCommands

variable {s : State} {who : Requester} {area c : Nat}

theorem coldDie.applied {t : State} (h : coldDie t) (who : Requester) : coldDie (t.applied who) := h

theorem warmDie.applied {t : State} (h : warmDie s t c) (who : Requester) : warmDie s (t.applied who) c := h

/-- THERM_TRIP_N is released before the rails come up (R796). -/
def tripReleased (s : State) : State := if s.nat kThermTripState = 1 then (s.setNat kThermTripState 0).emit (.thermTripN false) else s

theorem told_tripReleased : Told [kThermTripState] s (tripReleased s) :=
  .ite ((told_setNat s kThermTripState 0).trans (told_emit _ _)) (.refl _ _)

theorem trip_tripReleased (h : s.nat kThermTripState ≤ 1) : (tripReleased s).nat kThermTripState = 0 := by
  unfold tripReleased
  split
  · exact State.nat_setNat_same s (k := kThermTripState) (n := 0) (by decide)
  · omega

theorem told_railsOn : Told powerSlots (unpowered (tripReleased s)) (s.railsOn area) := told_setPower 1

/-- What the rails coming up leave under asserted chip reset (Table 17.3). -/
theorem railsOn_leaves : (s.railsOn area).nat kPowerState = 1 ∧
    (s.nat kThermTripState ≤ 1 → (s.railsOn area).nat kThermTripState = 0) ∧ coldDie (s.railsOn area) ∧
    (s.railsOn area).mario.flash = s.mario.flash ∧ (s.railsOn area).persist = s.persist := by
  obtain ⟨hflash, hpersist, -⟩ := kept_unpowered (s := tripReleased s)
  refine ⟨power_setPower (st := 1) (by decide), fun h => ?_, coldDie_of_told told_railsOn (by decide), ?_, ?_⟩
  · rw [told_railsOn.nat (by decide), nat_of_reg (reg_unpowered (by decide) (by decide) (by decide)), trip_tripReleased h]
  · rw [told_railsOn.mario, hflash, told_tripReleased.mario]
  · rw [told_railsOn.persist, hpersist, told_tripReleased.persist]

/-- What the rails going off leave (R644, Table 17.3). -/
theorem dieOff_leaves {st : Nat} (hst : st < 2 ^ 64) : (s.dieOff st area).nat kPowerState = st ∧
    (s.dieOff st area).nat kThermTripState = s.nat kThermTripState ∧ coldDie (s.dieOff st area) ∧
    (s.dieOff st area).mario.flash = s.mario.flash ∧ (s.dieOff st area).persist = s.persist := by
  obtain ⟨hflash, hpersist, -⟩ := kept_unpowered (s := s)
  refine ⟨power_setPower hst, ?_, coldDie_of_told (told_dieOff st) (by decide), ?_, ?_⟩
  · rw [(told_dieOff st).nat (by decide), nat_of_reg (reg_unpowered (by decide) (by decide) (by decide))]
  · rw [(told_dieOff st).mario, hflash]
  · rw [(told_dieOff st).persist, hpersist]

/-- A granule that a partition owns keeps its owner over a warm chip reset, and every other one is free (R702). -/
theorem granule_warmReset (hwf : Memory.wf s = true) {g : Nat} (hg : g < 192) : (s.warmReset c).oct kGranuleOwner g =
    if s.oct kGranuleOwner g < 64 then s.oct kGranuleOwner g else 0xFF := by
  simp only [Memory.wf, Bool.and_eq_true] at hwf
  obtain ⟨⟨⟨⟨⟨⟨⟨⟨-, hocts⟩, -⟩, -⟩, -⟩, -⟩, -⟩, -⟩, -⟩ := hwf
  have hrise : Tbl.risesFrom none s.octs = true := (Bool.and_eq_true_iff.1 hocts).1
  have hidx : (kGranuleOwner * 512 + g) / 512 = kGranuleOwner := by omega
  have hdef : octDefault (kGranuleOwner * 512 + g) = 0xFF := by rw [octDefault, hidx, if_pos rfl]
  have hreset : (s.warmReset c).octs = keptOcts true s.octs := told_dieReset.octs
  rw [State.oct, hreset, hdef, keptOcts, get_filter hrise]
  simp only [hidx, State.oct, hdef]
  generalize Tbl.get (0xFF : Byte) s.octs (kGranuleOwner * 512 + g) = v
  have hne : (kGranuleOwner == kNodesPresent) = false := by decide
  by_cases hlt : v.toNat < 64
  · simp [hlt]
  · simp [hlt, hne]

theorem out_dieReset {warm : Bool} : (s.dieReset warm c).out = s.out :=
  foldl_keeps (g := State.out) _ (resetBase s warm c) fun _ _ _ => rfl

/-- What a warm chip reset leaves (R700 to R704). -/
theorem warmDie_warmReset (hon : s.nat kPowerState = 2) (hwf : Memory.wf s = true) : warmDie s (s.warmReset c) c := by
  have h : Told portSlots (resetBase s true c) (s.warmReset c) := told_dieReset
  refine ⟨h.hbm, h.inflight, h.posted, h.jobs, congrArg BootSt.inReset h.boot, congrArg BootSt.cause h.boot, ?_,
    congrArg Mario.flash h.mario, h.persist, out_dieReset, fun g hg hown => ?_, fun g hg hfree => ?_, fun n hn => port_dieReset hn⟩
  · exact (nat_dieReset (by decide) (by decide)).trans hon
  · rw [granule_warmReset hwf hg, if_pos hown]
  · rw [granule_warmReset hwf hg, if_neg (by omega)]

/-- An accepted write whose condition holds is applied, and one whose condition does not hold is refused. -/
theorem orRefuse_true {ok : Bool} (h : ok = true) (r : Reason) (t : State) : orRefuse ok r t = .ok t := if_pos h

theorem orRefuse_false {ok : Bool} (h : ok = false) (r : Reason) (t : State) : orRefuse ok r t = .error r :=
  if_neg (by rw [h]; decide)

end PowerCommands

/-- Settles O37: each command by POWER_STATE and the channels in CRIT, and what a cold and a warm reset leave. -/
theorem powerCommands : Obligations.PowerCommands := by
  refine ⟨?_, ?_, ?_, ?_, ?_, ?_⟩
  · intro s who h
    refine ⟨fun hst => ?_, fun hst => next_refused h fun l => orRefuse_false ?_ _ _⟩
    · obtain ⟨hpow, htrip, hcold, hflash, hpersist⟩ := railsOn_leaves (s := s) (area := areaOf who)
      refine ⟨_, next_applied h fun l => orRefuse_true ?_ _ _, (nat_of_reg (State.reg_applied ..)).trans hpow,
        fun hle => (nat_of_reg (State.reg_applied ..)).trans (htrip hle), hcold.applied who,
        (congrArg Mario.flash (State.applied_mario ..)).trans hflash, (State.applied_persist ..).trans hpersist⟩
      obtain h0 | ⟨h3, hcrit⟩ := hst
      · simp [h0]
      · simp [State.protectLeft, h3, hcrit]
    · obtain h1 | h2 | h4 | ⟨h3, hcrit⟩ := hst <;> simp [State.protectLeft, *]
  · intro s who h
    refine ⟨fun hst => ?_, fun h1 h2 => next_refused h fun l => orRefuse_false (by simp [h1, h2]) _ _⟩
    obtain ⟨hpow, -, hcold, hflash, hpersist⟩ := dieOff_leaves (s := s) (area := areaOf who) (st := 0) (by decide)
    refine ⟨_, next_applied h fun l => orRefuse_true ?_ _ _, (nat_of_reg (State.reg_applied ..)).trans hpow, hcold.applied who,
      (congrArg Mario.flash (State.applied_mario ..)).trans hflash, (State.applied_persist ..).trans hpersist⟩
    obtain h1 | h2 := hst <;> simp [*]
  · intro s who h
    refine ⟨fun hon hwf => ?_, fun hoff => next_refused h fun l => orRefuse_false (by simp [hoff]) _ _⟩
    exact ⟨_, next_applied h fun l => orRefuse_true (by simp [hon]) _ _, (warmDie_warmReset hon hwf).applied who⟩
  · intro s who h
    refine ⟨fun hst => ?_, fun hst => next_refused h fun l => orRefuse_false ?_ _ _⟩
    · obtain ⟨-, htrip, -⟩ := dieOff_leaves (s := s) (area := areaOf who) (st := 0) (by decide)
      obtain ⟨hpow, htrip', hcold, -⟩ := railsOn_leaves (s := s.dieOff 0 (areaOf who)) (area := areaOf who)
      refine ⟨_, next_applied h fun l => orRefuse_true ?_ _ _, (nat_of_reg (State.reg_applied ..)).trans hpow,
        fun hle => (nat_of_reg (State.reg_applied ..)).trans (htrip' (htrip.trans_le hle)), hcold.applied who⟩
      obtain h2 | ⟨h3, hcrit⟩ := hst
      · simp [h2]
      · simp [State.protectLeft, h3, hcrit]
    · obtain h0 | h1 | h4 | ⟨h3, hcrit⟩ := hst <;> simp [State.protectLeft, *]
  · intro s hon hwf
    have hareas : (s.warmReset 2).areas = s.areas := told_dieReset.areas
    exact ⟨_, if_pos hon, warmDie_warmReset hon hwf, areasKept_of_areas hareas⟩
  · intro s hoff
    exact if_neg hoff

end Sys2Proof.Safety

namespace Sys2Proof.Safety

open Sys2Proof.Machine

/-! ### Reset release, trips and the input stage (O38) -/

section Trips

variable {s t u : State} {c : Nat}

/-- A die that has lost everything stays so over messages and slots other than its ports'. -/
theorem coldDie.told {l : List Nat} (h : coldDie u) (ht : Told l u t) (hports : ∀ n, n < 16 → kPortState n ∉ l) : coldDie t := by
  obtain ⟨hhbm, hls, hfs, hacc, hinf, hpost, hjobs, hreset, hport⟩ := h
  exact ⟨ht.hbm.trans hhbm, ht.ls.trans hls, ht.fs.trans hfs, ht.acc.trans hacc, ht.inflight.trans hinf, ht.posted.trans hpost,
    ht.jobs.trans hjobs, (congrArg BootSt.inReset ht.boot).trans hreset, fun n hn => (ht.nat (hports n hn)).trans (hport n hn)⟩

theorem coldDie.withMario (h : coldDie u) (m : Mario) : coldDie { u with mario := m } := h

theorem coldDie_unpowered : coldDie (unpowered s) := coldDie_of_told (.refl _ []) (by decide)

theorem restarting_unpowered : (unpowered s).mario.restarting = s.mario.restarting := by
  have h : (s.dieReset false 0).mario = s.mario := told_dieReset.mario
  simp only [unpowered, State.dieChannelsOff, h]

/-- Chip reset as it is released, before the boot ROM runs (R69). -/
def released (s : State) : State := { s with boot := { s.boot with inReset := false }, areas := [] }

theorem kept_released : memoryKept s (released s) ∧ workKept s (released s) :=
  ⟨⟨fun _ => rfl, fun _ => rfl, fun _ => rfl, fun _ => rfl, fun _ _ => rfl, fun _ => rfl, fun _ => rfl⟩, rfl, rfl, rfl, rfl, rfl⟩

theorem exec_chipResetRelease (hreset : s.boot.inReset = true) (hpow : s.nat kPowerState = 1 ∨ s.nat kPowerState = 2) :
    exec .chipResetRelease s =
      .next ((((released s).setPower 2 65).wrapAdd kTimebaseEpoch 1 16).setNat kBootCause s.boot.cause) := by
  have hon : (s.boot.inReset && (s.nat kPowerState == 1 || s.nat kPowerState == 2)) = true := by
    obtain h | h := hpow <;> simp [hreset, h]
  exact if_pos hon

/-- The hardware trip: the die is reset, its rails are cut and THERM_TRIP_N is asserted (R794, R795). -/
def tripped (s : State) : State := ((unpowered s).setNat kThermTripState 1).emit (.thermTripN true)

theorem told_tripped : Told [kThermTripState] (unpowered s) (tripped s) := (told_setNat _ _ _).trans (told_emit _ _)

theorem coldDie_tripped : coldDie (tripped s) := coldDie_of_told told_tripped (by decide)

theorem trip_tripped : (tripped s).nat kThermTripState = 1 := by
  rw [tripped, (told_emit _ _).nat (by decide), State.nat_setNat_same _ (by decide)]

theorem nat_withMario (u : State) (m : Mario) (k : Nat) : ({ u with mario := m } : State).nat k = u.nat k := rfl

theorem exec_thermTrip {ch : Nat} {value : Int} (hpow : s.nat kPowerState = 1 ∨ s.nat kPowerState = 2) :
    exec (.thermTrip ch value) s = .next (if s.mario.restarting then
      { tripped s with mario := { (tripped s).mario with trip := some (ch, value) } }
      else (tripped s).observeTrip ch value) := by
  have hrest : (tripped s).mario.restarting = s.mario.restarting :=
    (congrArg Mario.restarting told_tripped.mario).trans restarting_unpowered
  rw [← hrest]
  rw [apply_ite Host.Outcome.next]
  exact if_pos hpow

/-- What the Marionette's observation of a trip leaves (R796). -/
theorem observeTrip_leaves {ch : Nat} {value : Int} (hcold : coldDie u) (htrip : u.nat kThermTripState = 1) :
    (u.observeTrip ch value).nat kPowerState = 3 ∧ (u.observeTrip ch value).nat kThermTripState = 1 ∧
    (u.observeTrip ch value).bit kAlertStatus 4 = true ∧ (u.observeTrip ch value).bit kInputFaults 3 = true ∧
    coldDie (u.observeTrip ch value) ∧ (u.observeTrip ch value).mario.trip = none := by
  have hpower := told_setPower (s := { u with mario := { u.mario with trip := none } }) (area := 65) 3
  have hval := power_setPower (s := { u with mario := { u.mario with trip := none } }) (area := 65) (st := 3) (by decide)
  have hcold' := (hcold.withMario { u.mario with trip := none }).told hpower (by decide)
  have htrip' := (hpower.nat (k := kThermTripState) (by decide)).trans htrip
  have hmario := hpower.mario
  unfold State.observeTrip
  dsimp only
  generalize State.setPower { u with mario := { u.mario with trip := none } } 3 65 = v at hval hcold' htrip' hmario
  have hfault := told_setBit v kInputFaults 3
  have halert := told_alert (v.setBit kInputFaults 3) 4
  have hlog := told_logEvent ((v.setBit kInputFaults 3).alert 4) 0x0051 3 2 ch (toBits 32 value) 0
  have hall := (hfault.trans halert).trans hlog
  refine ⟨(hall.nat (by decide)).trans hval, (hall.nat (by decide)).trans htrip', ?_, ?_, hcold'.told hall (by decide), ?_⟩
  · exact (hlog.bit 4 (by decide)).trans (bit_alert _ 4 (by decide))
  · exact (hlog.bit 3 (by decide)).trans ((halert.bit 3 (by decide)).trans (v.bit_setBit _ 3 (by decide)))
  · rw [hall.mario, hmario]

/-- What the Marionette keeps without input power. -/
def offline (m : Mario) (c : Nat) : Mario :=
  { m with inputOn := false, inputCause := c, restarting := false, verifying := false, segs := [], reply := none, joined := false }

theorem log_dieChannelsOff (u : State) : u.dieChannelsOff.log = u.log := rfl

theorem log_unpowered : (unpowered s).log = s.log :=
  (log_dieChannelsOff _).trans (foldl_keeps (g := State.log) _ (resetBase s false 0) fun _ _ _ => rfl)

theorem fields_withMario (u : State) (m : Mario) : ({ u with mario := m }.setNat kPowerState 0).log = u.log ∧
    ({ u with mario := m }.setNat kPowerState 0).persist = u.persist ∧
    ({ u with mario := m }.setNat kPowerState 0).saving = u.saving := ⟨rfl, rfl, rfl⟩

/-- The module without input power, before a save in progress is given up (R630, R670). -/
def inputGone (s : State) (c : Nat) : State :=
  { unpowered s with mario := offline s.mario c }.setNat kPowerState 0

/-- A save in progress leaves the older copy bad (R630). -/
def givenUp (u : State) : State := { u with persist := u.persist.take 1, saving := none }

theorem givenUp_keeps (u : State) : (givenUp u).mario = u.mario ∧ (givenUp u).nat kPowerState = u.nat kPowerState ∧
    (givenUp u).log = u.log ∧ (givenUp u).persist = u.persist.take 1 := ⟨rfl, rfl, rfl, rfl⟩

theorem coldDie.givenUp (h : coldDie u) : coldDie (givenUp u) := h

theorem inputLost_eq : s.inputLost c = match (inputGone s c).saving with
    | some _ => givenUp (inputGone s c)
    | none => inputGone s c := by
  rw [inputGone, unpowered, offline]
  rfl

theorem inputGone_leaves : (inputGone s c).nat kPowerState = 0 ∧ coldDie (inputGone s c) ∧ (inputGone s c).log = s.log ∧
    (inputGone s c).persist = s.persist ∧ (inputGone s c).saving = s.saving := by
  obtain ⟨-, hpersist, hsaving, -⟩ := kept_unpowered (s := s)
  obtain ⟨hlog', hpersist', hsaving'⟩ := fields_withMario (unpowered s) (offline s.mario c)
  exact ⟨State.nat_setNat_same _ (by decide), (coldDie_unpowered.withMario _).told (told_setNat _ kPowerState 0) (by decide),
    hlog'.trans log_unpowered, hpersist'.trans hpersist, hsaving'.trans hsaving⟩

/-- What the loss of input power leaves (R630, R670, R789). -/
theorem inputLost_leaves : (s.inputLost c).mario.inputOn = false ∧ (s.inputLost c).mario.inputCause = c ∧
    (s.inputLost c).nat kPowerState = 0 ∧ coldDie (s.inputLost c) ∧ (s.inputLost c).mario.flash = s.mario.flash ∧
    (s.inputLost c).log = s.log ∧ (s.saving = none → (s.inputLost c).persist = s.persist) ∧
    (s.saving ≠ none → (s.inputLost c).persist = s.persist.take 1) := by
  obtain ⟨hpow, hcold, hlog, hpersist, hsaving⟩ := inputGone_leaves (s := s) (c := c)
  have hmario : (inputGone s c).mario.inputOn = false ∧ (inputGone s c).mario.inputCause = c ∧
    (inputGone s c).mario.flash = s.mario.flash := ⟨rfl, rfl, rfl⟩
  obtain ⟨hon, hcause, hflash⟩ := hmario
  rw [inputLost_eq]
  cases hs : (inputGone s c).saving with
  | none => exact ⟨hon, hcause, hpow, hcold, hflash, hlog, fun _ => hpersist, fun h => absurd (hsaving.symm.trans hs) h⟩
  | some x =>
    obtain ⟨hm, hp, hl, hper⟩ := givenUp_keeps (inputGone s c)
    refine ⟨(congrArg Mario.inputOn hm).trans hon, (congrArg Mario.inputCause hm).trans hcause, hp.trans hpow, hcold.givenUp,
      (congrArg Mario.flash hm).trans hflash, hl.trans hlog, fun h => ?_, fun _ => hper.trans (congrArg (List.take 1) hpersist)⟩
    rw [hsaving, h] at hs
    cases hs

/-- What the return of input power leaves (R670, R791). -/
theorem inputBack_inputApplied (hc : s.mario.inputCause < 16) : inputBack s s.inputApplied := by
  have hkeep : ∀ k, (marioIndex (k / 256) = false ∨ k = kRollbackFloor ∨ k = kLogNextSeq) → k ≠ kInputFaults →
      s.inputApplied.nat k = s.nat k := fun k hk hne => by
    refine (State.nat_setNat_other _ _ hne).trans (congrArg BitVec.toNat ((Tbl.get_drop ..).trans (if_neg ?_)))
    obtain h | h | h := hk <;> simp [h]
  exact ⟨rfl, rfl, rfl, rfl, hkeep _ (by decide) (by decide), hkeep _ (by decide) (by decide), rfl,
    State.nat_setNat_same _ (by omega), rfl⟩

end Trips

/-- Settles O38: the release of a chip reset, the trip as the hardware and the Marionette act on it, and the input stage. -/
theorem resetReleaseAndTrips : Obligations.ResetReleaseAndTrips := by
  refine ⟨?_, ?_, ?_, ?_, ?_, ?_⟩
  · intro s hreset hpow hcause
    obtain ⟨hmem, hwork⟩ := kept_released (s := s)
    have hp := told_setPower (s := released s) (area := 65) 2
    have hval := power_setPower (s := released s) (area := 65) (st := 2) (by decide)
    refine ⟨_, exec_chipResetRelease hreset hpow, ?_⟩
    generalize (released s).setPower 2 65 = v at hp hval
    have hepoch := told_wrapAdd v kTimebaseEpoch 1 16
    have hboot := told_setNat (v.wrapAdd kTimebaseEpoch 1 16) kBootCause s.boot.cause
    have hall := (hp.trans hepoch).trans hboot
    refine ⟨(hboot.nat (by decide)).trans ((hepoch.nat (by decide)).trans hval), hall.boot, ?_,
      State.nat_setNat_same _ (by omega), hall.areas, hmem.trans hall.quiet.memoryKept, hwork.trans hall.quiet.workKept⟩
    rw [hboot.nat (by decide), State.wrapAdd, State.nat_setNat_same _ (by omega), hp.nat (by decide)]
    rfl
  · intro s ch value hpow hup
    exact ⟨_, (exec_thermTrip hpow).trans (congrArg Host.Outcome.next (if_neg (by rw [hup]; decide))),
      observeTrip_leaves coldDie_tripped trip_tripped⟩
  · intro s ch value hpow hdown
    exact ⟨_, (exec_thermTrip hpow).trans (congrArg Host.Outcome.next (if_pos hdown)), (nat_withMario ..).trans trip_tripped,
      coldDie_tripped.withMario _, rfl⟩
  · intro s hon
    exact ⟨_, if_pos hon, inputLost_leaves⟩
  · intro s voltage hon
    obtain ⟨hoff, hcause, hpow, hcold, hflash, hlog, -, -⟩ := inputLost_leaves (s := s) (c := if voltage then 1 else 2)
    exact ⟨_, if_pos hon, hoff, hcause, hpow, hcold, hflash, hlog⟩
  · intro s hoff hc
    refine ⟨fun h0 => ⟨_, if_pos ⟨hoff, h0⟩, inputBack_inputApplied hc⟩, fun h0 => ⟨if_neg fun h => h0 h.2, _, if_pos ⟨hoff, h0⟩,
      inputBack_inputApplied hc⟩⟩

end Sys2Proof.Safety

namespace Sys2Proof.Safety

open Sys2Proof.Machine

/-! ### Restarts and boots of the Marionette (O39) -/

section Boots

variable {s t u : State} {straps k : Nat}

/-- The slots that a move of STRINGS_STATE changes. -/
def stringsSlots : List Nat := [kStringsState, kLogNextSeq, kStringsLine, kAckErrors]

theorem told_setStrings (st : Nat) : Told stringsSlots s (s.setStrings st) := by
  unfold State.setStrings
  split
  · exact .refl ..
  · exact ((told_setNat s kStringsState st).trans (told_logEvent ..)).trans (told_takeFree _)

theorem state_setStrings {st : Nat} (hst : st < 2 ^ 64) : (s.setStrings st).nat kStringsState = st := by
  unfold State.setStrings
  split
  · assumption
  · rw [(told_takeFree _).nat (by decide), (told_logEvent ..).nat (by decide), State.nat_setNat_same _ hst]

/-- What a boot forgets of the Marionette (R638, R661). -/
def fresh (m : Mario) : Mario :=
  let m := { m with restarting := false, joined := false, rejoin := false, heardEpoch := none, segs := [], reply := none,
                    watts := [], overMs := 0,
                    sensors := m.sensors.map fun (x : Nat × SensorSt) => (x.1, ({ level := x.2.level } : SensorSt)) }
  { m with sensors := m.sensors.filter fun (x : Nat × SensorSt) => decide (x.2 ≠ ({} : SensorSt)) }

/-- The slots that the sampled straps reach. -/
def strapSlots : List Nat := [kNodeId, kModuleIdRaw, kModuleId] ++ stringsSlots

theorem bootFresh_eq : s.bootFresh straps =
    ((({ s with mario := fresh s.mario }.setNat kNodeId (straps % 128)).setNat kModuleIdRaw (straps % 128)).setNat kModuleId
      (straps % 128)).setStrings (if straps % 128 = 0 then 3 else 0) := rfl

theorem told_bootFresh : Told strapSlots { s with mario := fresh s.mario } (s.bootFresh straps) := by
  rw [bootFresh_eq]
  exact (((told_setNat _ kNodeId _).trans (told_setNat _ kModuleIdRaw _)).trans (told_setNat _ kModuleId _)).trans
    (told_setStrings _)

theorem straps_bootFresh : (s.bootFresh straps).nat kNodeId = straps % 128 ∧ (s.bootFresh straps).nat kModuleId = straps % 128 := by
  have hlt : straps % 128 < 2 ^ 64 := by omega
  rw [bootFresh_eq, (told_setStrings _).nat (by decide), (told_setStrings _).nat (by decide)]
  refine ⟨?_, State.nat_setNat_same _ hlt⟩
  rw [State.nat_setNat_other _ _ (by decide), State.nat_setNat_other _ _ (by decide), State.nat_setNat_same _ hlt]

theorem kept_withMario (s : State) {m : Mario} (h : m.flash = s.mario.flash) : memoryKept s { s with mario := m } ∧
    workKept s { s with mario := m } :=
  ⟨⟨fun _ => rfl, fun _ => rfl, fun _ => rfl, fun _ => rfl, fun _ _ => rfl, fun _ => rfl, fun _ => by simp only [h]⟩,
    rfl, rfl, rfl, rfl, rfl⟩

/-- Bootable slots depend on the signatures, the flash and the rollback floor (R665). -/
theorem bootable_congr (hsig : ∀ k, t.mario.sig k = s.mario.sig k) (hflash : t.mario.flash = s.mario.flash)
    (hfloor : t.nat kRollbackFloor = s.nat kRollbackFloor) (k : Nat) : t.bootable k = s.bootable k := by
  simp only [State.bootable, State.image, hsig, hflash, hfloor]
  rfl

theorem image_congr (h : t.mario.flash = s.mario.flash) (k off n : Nat) : t.image k off n = s.image k off n := by
  simp only [State.image, h]

/-- Bytes of a little-endian number bound it. -/
theorem leNat_lt (l : List Byte) : leNat l < 256 ^ l.length := by
  induction l with
  | nil => simp [leNat]
  | cons b l ih =>
    have hb := b.isLt
    rw [leNat, List.length_cons, Nat.pow_succ]
    omega

theorem length_getBytes (m : Tbl Byte) (n : Nat) : ∀ a, (getBytes m a n).length = n := by
  induction n with
  | zero => exact fun a => rfl
  | succ n ih => exact fun a => congrArg (· + 1) (ih (a + 1))

theorem image_lt (s : State) (k off n : Nat) : s.image k off n < 256 ^ n := by
  have h := leNat_lt (getBytes s.mario.flash (k * 2 ^ 20 + off) n)
  rwa [length_getBytes] at h

/-- The slots that the run of an image changes. -/
def imageSlots : List Nat := [kMfwVersion, kMfwSvn, kMfwSlot] ++ logSlots

/-- The entries of a running image (Table 16.11). -/
def imaged (s : State) (k : Nat) : State :=
  ((s.setNat kMfwVersion (s.image k 8 4)).setNat kMfwSvn (s.image k 6 2 % 256)).setNat kMfwSlot k

theorem told_imaged (s : State) (k : Nat) : Told [kMfwVersion, kMfwSvn, kMfwSlot] s (imaged s k) :=
  ((told_setNat s kMfwVersion _).trans (told_setNat _ kMfwSvn _)).trans (told_setNat _ kMfwSlot _)

theorem nat_imaged (s : State) {k : Nat} (hk : k < 2) : (imaged s k).nat kMfwSlot = k ∧
    (imaged s k).nat kMfwVersion = s.image k 8 4 := by
  have hver := image_lt s k 8 4
  refine ⟨State.nat_setNat_same _ (by omega), ?_⟩
  rw [imaged, State.nat_setNat_other _ _ (by decide), State.nat_setNat_other _ _ (by decide), State.nat_setNat_same _ (by omega)]

theorem runImage_eq {c : Nat} (hslot : s.bootSlot = some k) (htrial : s.mario.trial = false) : s.runImage c =
    (imaged s k).logEvent 0x0001 (Config.eventSeverity 0x0001).toNat 0 k ((imaged s k).nat kMfwVersion) c := by
  have htrial' : (imaged s k).mario.trial = false := (congrArg Mario.trial (told_imaged s k).mario).trans htrial
  simp only [State.runImage, hslot]
  exact congrArg (fun x : State => x.logEvent 0x0001 (Config.eventSeverity 0x0001).toNat 0 k (x.nat kMfwVersion) c)
    (if_neg fun h : (imaged s k).mario.trial = true => Bool.false_ne_true (htrial'.symm.trans h))

/-- The image of slot `k` runs, outside a trial (R667). -/
theorem runImage_leaves {c : Nat} (hslot : s.bootSlot = some k) (htrial : s.mario.trial = false) (hk : k < 2) :
    Told imageSlots s (s.runImage c) ∧ (s.runImage c).nat kMfwSlot = k ∧ (s.runImage c).nat kMfwVersion = s.image k 8 4 := by
  have hlog := told_logEvent (imaged s k) 0x0001 (Config.eventSeverity 0x0001).toNat 0 k ((imaged s k).nat kMfwVersion) c
  obtain ⟨hslot', hver⟩ := nat_imaged s hk
  rw [runImage_eq hslot htrial]
  exact ⟨(told_imaged s k).trans hlog, (hlog.nat (by decide)).trans hslot', (hlog.nat (by decide)).trans hver⟩

/-- With no bootable slot the Marionette enters RECOVERY (R667). -/
theorem power_runImage_none {c : Nat} (hslot : s.bootSlot = none) : (s.runImage c).nat kPowerState = 4 := by
  simp only [State.runImage, hslot]
  exact power_setPower (by decide)

theorem mario_bootFresh : (s.bootFresh straps).mario = fresh s.mario := told_bootFresh.mario

/-- What a failed trial leaves of the Marionette (Table 16.12). -/
def backOnSlot (m : Mario) : Mario := { m with active := 1 - m.active, trial := false, owner := none }

/-- A failed trial before it is logged. -/
def reverted (s : State) : State := { s with mario := backOnSlot s.mario }.setNat kUpdateState 0

/-- A failed trial in the log. -/
def revertLogged (s : State) : State := (reverted s).logEvent 0x0043 (Config.eventSeverity 0x0043).toNat 4 (1 - s.mario.active)
  ((reverted s).image (1 - s.mario.active) 8 4) 0

theorem revert_eq : s.revert = if Config.updateAlert 0x0043 then (revertLogged s).alert 6 else revertLogged s := rfl

theorem told_revertLogged : Told logSlots (reverted s) (revertLogged s) := told_logEvent ..

theorem told_reverted : Told [kUpdateState] { s with mario := backOnSlot s.mario } (reverted s) := told_setNat ..

theorem told_revert : Told (logSlots ++ [kAlertStatus]) (reverted s) s.revert := by
  rw [revert_eq]
  cases Config.updateAlert 0x0043
  · exact told_revertLogged.mono (List.subset_append_left ..)
  · exact told_revertLogged.trans (told_alert _ 6)

/-- A boot of a Marionette that came up by a restart, outside a trial (R635, R667). -/
theorem exec_marionetteBoot_restart (hdown : s.mario.restarting = true) (hon : s.mario.inputOn = true) (hc : s.mario.cause ≠ 0)
    (htrial : s.mario.trial = false) (htrip : s.mario.trip = none) :
    exec (.marionetteBoot straps) s = .next ((s.bootFresh straps).runImage s.mario.cause) := by
  have hpower : (s.mario.cause == 0) = false := beq_eq_false_iff_ne.2 hc
  simp only [exec, execMarionetteBoot, hdown, hon, htrial, htrip, hpower, Bool.and_self, Bool.false_and, if_true,
    Bool.false_eq_true, if_false]

/-- A boot after a trial that has booted before goes back to the other slot (R667, Table 16.12). -/
theorem exec_marionetteBoot_again (hdown : s.mario.restarting = true) (hon : s.mario.inputOn = true) (hc : s.mario.cause ≠ 0)
    (htrial : s.mario.trial = true) (hboots : 1 ≤ s.mario.trialBoots) (htrip : s.mario.trip = none) :
    exec (.marionetteBoot straps) s = .next ((s.bootFresh straps).revert.runImage 2) := by
  have hpower : (s.mario.cause == 0) = false := beq_eq_false_iff_ne.2 hc
  simp only [exec, execMarionetteBoot, hdown, hon, htrial, htrip, hpower, hboots, decide_true, Bool.and_self, Bool.false_and,
    if_true, Bool.false_eq_true, if_false]

/-- A boot when input power came, with a bootable slot and no channel in CRIT: the rails come up (R676, R791). -/
theorem exec_marionetteBoot_power {v : State} (hdown : s.mario.restarting = true) (hon : s.mario.inputOn = true)
    (hc : s.mario.cause = 0) (htrial : s.mario.trial = false) (htrip : s.mario.trip = none)
    (hv : v = (s.bootFresh straps).runImage 0) (hfault : v.nat kInputFaults % 4 = 0) (hslot : v.bootSlot.isSome = true)
    (hcrit : v.anyCrit = false) : exec (.marionetteBoot straps) s = .next (v.railsOn 65) := by
  subst hv
  simp only [exec, execMarionetteBoot, hdown, hon, htrial, htrip, hc, hfault, hslot, hcrit, Bool.and_self, Bool.false_and,
    if_true, Bool.false_eq_true, if_false, beq_self_eq_true, ne_eq, not_true_eq_false, decide_false, Bool.and_false,
    Bool.not_false]

theorem bootSlot_congr (hactive : t.mario.active = s.mario.active) (hbootable : ∀ k, t.bootable k = s.bootable k) :
    t.bootSlot = s.bootSlot := by
  simp only [State.bootSlot, hactive, hbootable]

theorem fresh_keeps (m : Mario) : (∀ k, (fresh m).sig k = m.sig k) ∧ (fresh m).flash = m.flash ∧ (fresh m).active = m.active ∧
    (fresh m).trial = m.trial ∧ (fresh m).restarting = false ∧ (fresh m).joined = false ∧ (fresh m).segs = [] :=
  ⟨fun _ => rfl, rfl, rfl, rfl, rfl, rfl, rfl⟩

theorem bootable_bootFresh (k : Nat) : (s.bootFresh straps).bootable k = s.bootable k := by
  obtain ⟨hsig, hflash, -⟩ := fresh_keeps s.mario
  refine bootable_congr (fun k => ?_) ?_ (told_bootFresh.nat (by decide)) k
  · rw [mario_bootFresh, hsig]
  · rw [mario_bootFresh, hflash]

theorem bootSlot_bootFresh : (s.bootFresh straps).bootSlot = s.bootSlot :=
  bootSlot_congr (by rw [mario_bootFresh, (fresh_keeps s.mario).2.2.1]) bootable_bootFresh

theorem bootSlot_active (h : s.bootable s.mario.active = true) : s.bootSlot = some s.mario.active := by
  simp [State.bootSlot, h]

theorem bootSlot_other (h : s.bootable s.mario.active = false) : s.bootSlot =
    if s.bootable (1 - s.mario.active) then some (1 - s.mario.active) else none := by
  simp [State.bootSlot, h]

/-- The sensors' levels are outside the slots that a boot changes. -/
theorem anyCrit_booted (htold : Told (strapSlots ++ imageSlots) s t) : t.anyCrit = s.anyCrit := by
  have hall : ∀ k ∈ strapSlots ++ imageSlots, ¬ (0x700001 ≤ k ∧ k < 0x701000) := by decide
  have hreg : ∀ j ∈ countFrom 0 0x28, t.reg (kSensor j) = s.reg (kSensor j) := fun j hj =>
    htold.reg fun hmem => hall _ hmem (by
      have hlt := (mem_countFrom.1 hj).2
      unfold kSensor
      omega)
  rw [Bool.eq_iff_iff, State.anyCrit, State.anyCrit, List.any_eq_true, List.any_eq_true]
  exact exists_congr fun j => and_congr_right fun hj => by rw [hreg j hj]

/-- What the run of slot `k` leaves after a boot outside a trial. -/
theorem booted_leaves {c : Nat} (hslot : s.bootSlot = some k) (htrial : s.mario.trial = false) (hk : k < 2) :
    let t := (s.bootFresh straps).runImage c
    Told (strapSlots ++ imageSlots) { s with mario := fresh s.mario } t ∧ t.nat kMfwSlot = k ∧
    t.nat kMfwVersion = s.image k 8 4 ∧ t.nat kNodeId = straps % 128 ∧ t.nat kModuleId = straps % 128 := by
  have hm := mario_bootFresh (s := s) (straps := straps)
  obtain ⟨-, hflash, -, htr, -⟩ := fresh_keeps s.mario
  obtain ⟨htold, hslot', hver⟩ := runImage_leaves (s := s.bootFresh straps) (c := c) (bootSlot_bootFresh.trans hslot)
    ((congrArg Mario.trial hm).trans (htr.trans htrial)) hk
  obtain ⟨hid, hmod⟩ := straps_bootFresh (s := s) (straps := straps)
  refine ⟨told_bootFresh.trans htold, hslot', hver.trans (image_congr ?_ _ _ _), (htold.nat (by decide)).trans hid,
    (htold.nat (by decide)).trans hmod⟩
  rw [hm, hflash]

theorem mario_revert : s.revert.mario = backOnSlot s.mario := told_revert.mario.trans told_reverted.mario

theorem bootable_revert (k : Nat) : s.revert.bootable k = s.bootable k := by
  refine bootable_congr (fun k => ?_) ?_ ?_ k
  · rw [mario_revert]
    rfl
  · rw [mario_revert]
    rfl
  · rw [told_revert.nat (by decide), told_reverted.nat (by decide)]
    rfl

/-- A failed trial runs the other slot (R667, Table 16.12). -/
theorem again_leaves {c : Nat} (hactive : s.mario.active < 2) (hother : s.bootable (1 - s.mario.active) = true) :
    let u := s.bootFresh straps
    Told (logSlots ++ [kAlertStatus] ++ imageSlots) (reverted u) (u.revert.runImage c) ∧
    (u.revert.runImage c).nat kMfwSlot = 1 - s.mario.active ∧ u.revert.mario.active = 1 - s.mario.active := by
  have hact : (s.bootFresh straps).revert.mario.active = 1 - s.mario.active := by
    rw [mario_revert, mario_bootFresh]
    rfl
  have hboot : (s.bootFresh straps).revert.bootable (1 - s.mario.active) = true := by
    rw [bootable_revert, bootable_bootFresh, hother]
  obtain ⟨htold, hslot, -⟩ := runImage_leaves (s := (s.bootFresh straps).revert) (c := c) (k := 1 - s.mario.active)
    (hact ▸ bootSlot_active (by rw [hact, hboot])) (by rw [mario_revert]; rfl) (by omega)
  exact ⟨told_revert.trans htold, hslot, hact⟩

end Boots

/-- Settles O39: a restart changes the Marionette only; a boot samples the straps and runs the slot the mask ROM chooses. -/
theorem marionetteBoots : Obligations.MarionetteBoots := by
  refine ⟨?_, ?_, ?_, ?_, ?_⟩
  · intro s hon hup
    obtain ⟨hmem, hwork⟩ := kept_withMario s (m := { s.mario with restarting := true, cause := 3, verifying := false }) rfl
    exact ⟨_, if_pos (by rw [hon, hup]; rfl), rfl, rfl, fun _ _ => rfl, hmem, hwork, fun _ _ => rfl, rfl, rfl, rfl⟩
  · intro s straps hdown hon hc htrial htrip hactive hboot
    obtain ⟨htold, hslot, hver, hid, hmod⟩ := booted_leaves (c := s.mario.cause) (straps := straps) (bootSlot_active hboot) htrial
      hactive
    obtain ⟨-, hflash, -, -, hup, hjoined, hsegs⟩ := fresh_keeps s.mario
    obtain ⟨hmem, hwork⟩ := kept_withMario s hflash
    exact ⟨_, exec_marionetteBoot_restart hdown hon hc htrial htrip, (congrArg Mario.restarting htold.mario).trans hup,
      (congrArg Mario.joined htold.mario).trans hjoined, (congrArg Mario.segs htold.mario).trans hsegs, hid, hmod, hslot, hver,
      htold.nat (by decide), htold.boot, hmem.trans htold.quiet.memoryKept, hwork.trans htold.quiet.workKept⟩
  · intro s straps hdown hon hc htrial htrip hactive hboot
    refine ⟨fun hother => ?_, fun hnone => ?_⟩
    · obtain ⟨htold, hslot, -⟩ := booted_leaves (c := s.mario.cause) (straps := straps)
        ((bootSlot_other hboot).trans (if_pos hother)) htrial (by omega)
      exact ⟨_, exec_marionetteBoot_restart hdown hon hc htrial htrip, hslot, htold.nat (by decide)⟩
    · exact ⟨_, exec_marionetteBoot_restart hdown hon hc htrial htrip, power_runImage_none (bootSlot_bootFresh.trans
        ((bootSlot_other hboot).trans (if_neg (by rw [hnone]; decide))))⟩
  · intro s straps hdown hon htrial hboots htrip hc hactive hother
    obtain ⟨htold, hslot, -⟩ := again_leaves (straps := straps) (c := 2) hactive hother
    have hmario : ((s.bootFresh straps).revert.runImage 2).mario = backOnSlot (fresh s.mario) := by
      rw [htold.mario, told_reverted.mario, mario_bootFresh]
    exact ⟨_, exec_marionetteBoot_again hdown hon hc htrial hboots htrip, congrArg Mario.active hmario,
      congrArg Mario.trial hmario, hslot, (htold.nat (by decide)).trans (State.nat_setNat_same _ (by decide))⟩
  · intro s straps hdown hon hc htrial htrip hfault hcrit hactive hboot
    obtain ⟨htold, -⟩ := booted_leaves (c := 0) (straps := straps) (bootSlot_active hboot) htrial hactive
    obtain ⟨hsig, hflash, hact, -⟩ := fresh_keeps s.mario
    have hslot : ((s.bootFresh straps).runImage 0).bootSlot = s.bootSlot := by
      refine bootSlot_congr (by rw [htold.mario]; exact hact) (bootable_congr (fun k => ?_) ?_ (htold.nat (by decide)))
      · rw [htold.mario]
        exact hsig k
      · rw [htold.mario]
        exact hflash
    have hsensors : ((s.bootFresh straps).runImage 0).anyCrit = false :=
      (anyCrit_booted htold).trans hcrit
    obtain ⟨hpow, -, hcold, -⟩ := railsOn_leaves (s := (s.bootFresh straps).runImage 0) (area := 65)
    refine ⟨_, exec_marionetteBoot_power hdown hon hc htrial htrip rfl ?_ ?_ hsensors, hpow, ?_⟩
    · rw [htold.nat (by decide)]
      exact hfault
    · rw [hslot, bootSlot_active hboot]
      rfl
    · exact hcold.2.2.2.2.2.2.2.1

end Sys2Proof.Safety

namespace Sys2Proof.Safety

open Sys2Proof.Machine

/-! ### Frames on Strings: search, announce, heartbeat and presence (O40) -/

section Presence

variable {s u : State} {node epoch window k : Nat}

/-- A frame sent from a state that differs in areas, free values and the Marionette's own marks only. -/
theorem Answering.send (h : Answering s u) (hup : s.stringsUp = true) (func : Nat) (b : List Byte) :
    (u.sendStrings func b).out = s.out ++ [.strings (s.canId func) b] ∧ (u.sendStrings func b).mario = u.mario ∧
    slotsKept s (u.sendStrings func b) [kStringsLine, kAckErrors] ∧ memoryKept s (u.sendStrings func b) ∧
    workKept s (u.sendStrings func b) := by
  have hid : u.canId func = s.canId func := by simp only [State.canId, h.node]
  obtain ⟨hout, hmario, hslots, -, hmem, hwork⟩ := frameSent_sendStrings (h.up.trans hup) func b
  exact ⟨by rw [hout, h.out, hid], hmario, fun k hk => (hslots k hk).trans (h.slots k), h.memory.trans hmem, h.work.trans hwork⟩

theorem Answering.trans {v : State} (h : Answering s u) (h' : Answering u v) : Answering s v :=
  ⟨h'.up.trans h.up, h'.node.trans h.node, h'.out.trans h.out, fun k => (h'.slots k).trans (h.slots k),
    h.memory.trans h'.memory, h.work.trans h'.work⟩

/-- Marks of the Marionette beside its place on the bus and its flash. -/
theorem answering_withMario {m : Mario} (hrest : m.restarting = s.mario.restarting) (hconn : m.connected = s.mario.connected)
    (hin : m.inputOn = s.mario.inputOn) (hflash : m.flash = s.mario.flash) : Answering s { s with mario := m } where
  up := stringsUp_congr (fun _ => rfl) hrest hconn hin
  node := rfl
  out := rfl
  slots _ := rfl
  memory := (kept_withMario s hflash).1
  work := (kept_withMario s hflash).2

theorem answering_takeFree : Answering s s.takeFree :=
  ⟨rfl, rfl, rfl, fun _ => rfl, (quiet_takeFree s).memoryKept, (quiet_takeFree s).workKept⟩

theorem answering_readTag : Answering s s.readTag := by
  unfold State.readTag
  split
  · exact answering_withMario rfl rfl rfl rfl
  · exact .refl s

/-- Reading the tag changes the tag alone. -/
theorem mario_readTag (s : State) : s.readTag.mario = { s.mario with tag := s.readTag.mario.tag } := by
  unfold State.readTag
  split <;> rfl

theorem tag_readTag_congr {s u : State} (hreg : ∀ k, k ≠ kLastEpoch → u.reg k = s.reg k) (hboot : u.boot = s.boot)
    (htag : u.mario.tag = s.mario.tag) : u.readTag.mario.tag = s.readTag.mario.tag := by
  have hdie : u.dieUp = s.dieUp := by
    simp only [State.dieUp, State.nat, hreg kPowerState (by decide), hboot]
  simp only [State.readTag, hdie]
  split
  · exact nat_of_reg (hreg _ (by decide))
  · exact htag

/-- The IDENT block depends on slots that are not LAST_EPOCH and on the tag. -/
theorem ident_congr {s u : State} (hreg : ∀ k, k ≠ kLastEpoch → u.reg k = s.reg k) (htag : u.mario.tag = s.mario.tag)
    (r : List Byte) : u.ident r = s.ident r := by
  have hnat : ∀ k, k ≠ kLastEpoch → u.nat k = s.nat k := fun k hk => nat_of_reg (hreg k hk)
  simp only [State.ident, htag, hnat _ (show kVendorId ≠ kLastEpoch by decide), hnat _ (show kDeviceId ≠ kLastEpoch by decide),
    hnat _ (show kStepping ≠ kLastEpoch by decide), hnat _ (show kPowerState ≠ kLastEpoch by decide),
    hnat _ (show kMfwVersion ≠ kLastEpoch by decide), hnat _ (show kMfwSvn ≠ kLastEpoch by decide)]

theorem length_leBytes (n : Nat) : ∀ v, (leBytes n v).length = n := by
  induction n with
  | zero => exact fun v => rfl
  | succ n ih => exact fun v => congrArg (· + 1) (ih _)

theorem length_ident (s : State) (r : List Byte) : (s.ident r).length = 15 + r.length := by
  simp only [State.ident, List.length_append, length_leBytes, List.length_cons, List.length_nil]
  omega

/-- What a frame of another node does where it is heard (R651). -/
theorem fromNode_of_heardFrom (h : heardFrom s node) (f : State → State) : s.fromNode node f = f s := by
  obtain ⟨hhears, hnode, hlt, hother, -⟩ := h
  simp [State.fromNode, hhears, hnode, hlt, hother]

/-- A little-endian number read back. -/
theorem leNat_leBytes (n : Nat) : ∀ v, leNat (leBytes n v) = v % 256 ^ n := by
  induction n with
  | zero => exact fun v => (Nat.mod_one v).symm
  | succ n ih =>
    intro v
    have hbyte : (BitVec.ofNat 8 v).toNat = v % 256 := BitVec.toNat_ofNat ..
    rw [leBytes, leNat, ih, hbyte, Nat.pow_succ', Nat.mod_mul]

/-- The slot of a search reply lies in the window (R659). -/
theorem exec_search_new (hheard : heardFrom s node) (hjoined : s.mario.joined = true) (he : epoch < 65536)
    (hlo : 20 ≤ window) (hhi : window < 65536) (hnew : s.nat kLastEpoch ≠ epoch) :
    exec (.search node epoch window) s = .next
      (({ s with mario := { s.mario with reply := some (2 * (Config.searchSlot s.free % ((window - 20) / 2 + 1)), window) }
        }.takeFree).setNat kLastEpoch epoch) := by
  refine congrArg Host.Outcome.next ((fromNode_of_heardFrom hheard _).trans ?_)
  have hw : window ≠ 0 := by omega
  simp only [State.search, Nat.mod_eq_of_lt he, Nat.mod_eq_of_lt hhi, hjoined, hnew, hw, Bool.true_eq_false, if_false]

/-- The bits of a byte with a clear bit set. -/
theorem testBit_byte_add {c i : Nat} (hclear : c.testBit i = false) {j : Nat} (hj : j < 8) :
    (BitVec.ofNat 8 (c + 2 ^ i)).toNat.testBit j = (c.testBit j || decide (i = j)) := by
  have hbit : ∀ k (hk : k < 8), (BitVec.ofNat 8 c)[k] = c.testBit k := fun k hk => by
    rw [← BitVec.getLsbD_eq_getElem, BitVec.getLsbD_ofNat, decide_eq_true hk, Bool.true_and]
  have hdisj : BitVec.ofNat 8 c &&& BitVec.twoPow 8 i = 0#8 := by
    ext k hk
    by_cases hik : i = k
    · subst hik
      simp [hbit, hclear]
    · simp [Ne.symm hik]
  have hpow : BitVec.ofNat 8 (2 ^ i) = BitVec.twoPow 8 i := BitVec.eq_of_toNat_eq (by simp)
  have hor : BitVec.ofNat 8 (c + 2 ^ i) = BitVec.ofNat 8 c ||| BitVec.twoPow 8 i := by
    rw [← BitVec.add_eq_or_of_and_eq_zero _ _ hdisj, BitVec.ofNat_add, hpow]
  rw [hor, BitVec.testBit_toNat, BitVec.getLsbD_or]
  simp [hj, hbit, eq_comm]

/-- A byte with a bit moved to `here`. -/
def marked (b i : Nat) (here : Bool) : Nat := if bitOf b i = here then b else if here then b + 2 ^ i else b - 2 ^ i

theorem bitOf_marked {b i j : Nat} (hb : b < 256) (hj : j < 8) (here : Bool) :
    bitOf (BitVec.ofNat 8 (marked b i here)).toNat j = if j = i then here else bitOf b j := by
  have hsame : (BitVec.ofNat 8 b).toNat = b := by rw [BitVec.toNat_ofNat, Nat.mod_eq_of_lt hb]
  simp only [marked, bitOf_eq_testBit]
  by_cases hbit : b.testBit i = here
  · rw [if_pos hbit, hsame]
    split
    · next h => rw [h, hbit]
    · rfl
  · rw [if_neg hbit]
    cases here
    · have hset : b.testBit i = true := by simpa using hbit
      obtain ⟨c, rfl⟩ : ∃ c, b = c + 2 ^ i := ⟨b - 2 ^ i, by have := Nat.ge_two_pow_of_testBit hset; omega⟩
      have hclear : c.testBit i = false := by
        rw [Nat.add_comm, Nat.testBit_two_pow_add_eq] at hset
        simpa using hset
      have hc : (BitVec.ofNat 8 c).toNat = c := by rw [BitVec.toNat_ofNat, Nat.mod_eq_of_lt ((Nat.le_add_right ..).trans_lt hb)]
      have hback := testBit_byte_add hclear hj
      rw [hsame] at hback
      simp only [Bool.false_eq_true, if_false, Nat.add_sub_cancel, hc, hback]
      split
      · next h => rw [h, hclear]
      · next h => simp [Ne.symm h]
    · have hclear : b.testBit i = false := by simpa using hbit
      rw [if_pos rfl, testBit_byte_add hclear hj]
      split
      · next h => simp [h]
      · next h => simp [Ne.symm h]

theorem oct_lt (s : State) (k i : Nat) : s.oct k i < 256 := BitVec.isLt _

theorem oct_setOct (s : State) (k i j : Nat) (b : Byte) :
    (s.setOct k i b).oct k j = if j = i then b.toNat else s.oct k j := by
  by_cases h : j = i
  · subst h
    rw [if_pos rfl]
    exact congrArg BitVec.toNat (Tbl.get_set_same ..)
  · rw [if_neg h]
    refine congrArg BitVec.toNat (Tbl.get_set_other _ _ _ _ (by omega))

theorem nodeHere_markNode {here : Bool} {m : Nat} :
    nodeHere (s.markNode node here) m = if m = node then here else nodeHere s m := by
  have hmark : s.markNode node here = s.setOct kNodesPresent (node / 8)
    (BitVec.ofNat 8 (marked (s.oct kNodesPresent (node / 8)) (node % 8) here)) := rfl
  have hm8 : m % 8 < 8 := Nat.mod_lt _ (by decide)
  rw [nodeHere, hmark, oct_setOct]
  by_cases hbyte : m / 8 = node / 8
  · rw [if_pos hbyte, bitOf_marked (oct_lt ..) hm8, nodeHere, hbyte]
    have hiff : (m % 8 = node % 8) = (m = node) := propext (by omega)
    simp only [hiff]
  · rw [if_neg hbyte, if_neg (fun h => hbyte (by rw [h])), nodeHere]

/-- The Marionette with its pending search reply replaced. -/
def replying (s : State) (r : Option (Nat × Nat)) : State := { s with mario := { s.mario with reply := r } }

theorem answering_replying (s : State) (r : Option (Nat × Nat)) : Answering s (replying s r) := answering_withMario rfl rfl rfl rfl

/-- A reply that is due and still fits its window is sent (R659). -/
theorem exec_searchReply {waited w due : Nat} (hreply : s.mario.reply = some (due, w)) (hup : s.stringsUp = true)
    (hdue : due ≤ waited) (hin : waited + 10 ≤ w) : exec (.searchReply waited) s =
    .next ((replying s none).readTag.takeFree.sendStrings 4 ((replying s none).readTag.ident [Config.freeByte s.free] ++
      leBytes 2 (s.nat kLastEpoch) ++ leBytes 2 (w - waited))) := by
  have hgo : ¬ (s.stringsUp = false ∨ waited < due ∨ w < waited + 10) := by rw [hup]; simp; omega
  have hlast : (replying s none).readTag.nat kLastEpoch = s.nat kLastEpoch :=
    nat_of_reg (((answering_replying s none).trans answering_readTag).slots _)
  have hfree : (replying s none).readTag.free = s.free := by unfold State.readTag; split <;> rfl
  have hexec : exec (.searchReply waited) s = .next ((replying s none).readTag.takeFree.sendStrings 4
      ((replying s none).readTag.ident [Config.freeByte (replying s none).readTag.free] ++
        leBytes 2 ((replying s none).readTag.nat kLastEpoch) ++ leBytes 2 (w - waited))) := by
    simp only [exec, execSearchReply, hreply]
    exact if_neg hgo
  rw [hexec, hlast, hfree]

theorem exec_lateSearchAnnounce {r : Nat × Nat} (hreply : s.mario.reply = some r) (hup : s.stringsUp = true) :
    exec .lateSearchAnnounce s =
    .next ((replying s none).readTag.sendStrings 5 ((replying s none).readTag.ident (leBytes 1 2))) := by
  simp only [exec, execLateSearchAnnounce, hreply]
  exact if_pos hup

/-- LAST_EPOCH takes the epoch that a joining node has heard (R661). -/
def heardEpoch (s : State) : State := match s.mario.heardEpoch with | some e => s.setNat kLastEpoch e | none => s

theorem told_heardEpoch (s : State) : Told [kLastEpoch] s (heardEpoch s) := by
  unfold heardEpoch
  split
  · exact told_setNat ..
  · exact .refl ..

theorem out_heardEpoch (s : State) : (heardEpoch s).out = s.out := by
  unfold heardEpoch
  split <;> rfl

theorem epoch_heardEpoch (h : ∀ e, s.mario.heardEpoch = some e → e < 65536) :
    (heardEpoch s).nat kLastEpoch = s.mario.heardEpoch.getD (s.nat kLastEpoch) := by
  unfold heardEpoch
  split
  · next e he =>
    have hlt := h e he
    rw [he]
    exact State.nat_setNat_same _ (by omega)
  · next he => rw [he]; rfl

/-- A node that has joined the bus (R661). -/
def joining (s : State) : State := { s with mario := { s.mario with joined := true, rejoin := false, heardEpoch := none } }

theorem answering_joining (s : State) : Answering s (joining s) := answering_withMario rfl rfl rfl rfl

theorem exec_announce (hup : s.stringsUp = true) (hjoined : s.mario.joined = false) : exec .announce s =
    .next ((joining (heardEpoch s)).readTag.sendStrings 5
      ((joining (heardEpoch s)).readTag.ident (leBytes 1 (if s.mario.rejoin then 1 else 0)))) := by
  have hrejoin : (heardEpoch s).mario.rejoin = s.mario.rejoin := congrArg Mario.rejoin (told_heardEpoch s).mario
  rw [← hrejoin]
  exact if_pos ⟨hup, hjoined⟩

theorem stringsUp_of_told {l : List Nat} (h : Told l s u) (hstate : kStringsState ∉ l) (hid : kNodeId ∉ l) :
    u.stringsUp = s.stringsUp := by
  simp only [State.stringsUp, h.nat hstate, h.nat hid, h.mario]

theorem nodeHere_congr (h : u.octs = s.octs) (m : Nat) : nodeHere u m = nodeHere s m := by simp only [nodeHere, State.oct, h]

theorem log_sendStrings (func : Nat) (b : List Byte) : (s.sendStrings func b).log = s.log := by
  unfold State.sendStrings
  dsimp only
  split
  · split
    · split <;> rfl
    · rfl
  · rfl

/-- The log keeps its latest records, up to its capacity (R653). -/
theorem length_log_logEvent (s : State) (code sev src a0 a1 a2 : Nat) :
    (s.logEvent code sev src a0 a1 a2).log.length = min (s.log.length + 1) logCapacity := by
  have hlen : ∀ r, ((r :: s.log).take logCapacity).length = min (s.log.length + 1) logCapacity := fun r => by
    rw [List.length_take, List.length_cons, Nat.min_comm]
  unfold State.logEvent
  extract_lets r t
  split
  · rw [log_sendStrings]
    exact hlen r
  · exact hlen r

end Presence

/-- Settles O40: each frame goes out from a state that differs from the one before in the Marionette's own marks. -/
theorem stringsPresence : Obligations.StringsPresence := by
  refine ⟨?_, ?_, ?_, ?_, ?_, ?_, ?_, ?_, ?_⟩
  · intro s node epoch window hheard hjoined he hlo hhi
    refine ⟨fun hnew => ?_, fun hold => ?_⟩
    · have hans := (answering_withMario (s := s)
        (m := { s.mario with reply := some (2 * (Config.searchSlot s.free % ((window - 20) / 2 + 1)), window) }) rfl rfl rfl
        rfl).trans answering_takeFree
      have hset := told_setNat (({ s with mario := { s.mario with
        reply := some (2 * (Config.searchSlot s.free % ((window - 20) / 2 + 1)), window) } } : State).takeFree) kLastEpoch epoch
      exact ⟨_, _, exec_search_new hheard hjoined he hlo hhi hnew, State.nat_setNat_same _ (by omega), rfl,
        Nat.le_of_lt_succ (Nat.mod_lt _ (Nat.succ_pos _)), fun k hk => (hset.reg hk).trans (hans.slots k),
        hans.memory.trans hset.quiet.memoryKept, hans.work.trans hset.quiet.workKept, fun _ _ => rfl⟩
    · refine congrArg Host.Outcome.next ((fromNode_of_heardFrom hheard _).trans ?_)
      simp [State.search, Nat.mod_eq_of_lt he, hjoined, hold]
  · intro s node epoch window hheard hjoined he
    refine congrArg Host.Outcome.next ((fromNode_of_heardFrom hheard _).trans ?_)
    simp [State.search, Nat.mod_eq_of_lt he, hjoined]
  · intro s waited w due hreply hup hdue hin
    have hans := (answering_replying s none).trans answering_readTag
    obtain ⟨hout, hmario, hslots, -⟩ := (hans.trans answering_takeFree).send hup 4
      ((replying s none).readTag.ident [Config.freeByte s.free] ++ leBytes 2 (s.nat kLastEpoch) ++ leBytes 2 (w - waited))
    refine ⟨_, _, exec_searchReply hreply hup hdue hin, ?_, hout, length_ident .., hslots⟩
    rw [hmario]
    exact congrArg Mario.reply (mario_readTag (replying s none))
  · intro s waited w due hreply hbad
    simp only [exec, execSearchReply, hreply]
    exact if_pos (by tauto)
  · intro s w due hreply hup
    have hans := (answering_replying s none).trans answering_readTag
    obtain ⟨hout, hmario, hslots, -⟩ := hans.send hup 5 ((replying s none).readTag.ident (leBytes 1 2))
    refine ⟨_, exec_lateSearchAnnounce hreply hup, ?_, hout.trans ?_, hslots⟩
    · rw [hmario]
      exact congrArg Mario.reply (mario_readTag (replying s none))
    · rw [ident_congr (s := s.readTag) (fun k _ => (hans.slots k).trans (answering_readTag.slots k).symm)
        (tag_readTag_congr (s := s) (fun _ _ => rfl) rfl rfl)]
  · intro s hup hjoined hheard
    have hset := told_heardEpoch s
    have hans := (answering_joining (heardEpoch s)).trans answering_readTag
    obtain ⟨hout, hmario, hslots, hmem, hwork⟩ := hans.send ((stringsUp_of_told hset (by decide) (by decide)).trans hup) 5
      ((joining (heardEpoch s)).readTag.ident (leBytes 1 (if s.mario.rejoin then 1 else 0)))
    have hm := mario_readTag (joining (heardEpoch s))
    refine ⟨_, exec_announce hup hjoined, ?_, ?_, ?_, hout.trans ?_, ?_, hset.quiet.memoryKept.trans hmem,
      hset.quiet.workKept.trans hwork⟩
    · rw [hmario]
      exact congrArg Mario.joined hm
    · rw [hmario]
      exact congrArg Mario.heardEpoch hm
    · exact (nat_of_reg (hslots _ (by decide))).trans (epoch_heardEpoch hheard)
    · have hout' : (heardEpoch s).out = s.out := out_heardEpoch s
      have hid : (heardEpoch s).canId 5 = s.canId 5 := by simp only [State.canId, hset.nat (k := kNodeId) (by decide)]
      have hreg : ∀ k, k ≠ kLastEpoch → (heardEpoch s).reg k = s.reg k := fun k hk => hset.reg fun h => hk (List.mem_singleton.1 h)
      rw [hout', hid, ident_congr (s := s.readTag)
        (fun k hk => ((hans.slots k).trans (hreg k hk)).trans (answering_readTag.slots k).symm)
        (tag_readTag_congr (u := joining (heardEpoch s)) (s := s) hreg hset.boot
          (show (heardEpoch s).mario.tag = s.mario.tag from congrArg Mario.tag hset.mario))]
    · exact fun k hk => (hslots k fun h => hk (List.mem_cons_of_mem _ h)).trans
        (hset.reg fun h => hk (List.mem_singleton.1 h ▸ List.mem_cons_self))
  · intro s hup hjoined
    have hans := answering_withMario (s := s) (m := { s.mario with hbCount := (s.mario.hbCount + 1) % 65536 }) rfl rfl rfl rfl
    obtain ⟨hout, hmario, hslots, hmem, hwork⟩ := hans.send hup 0xE (leBytes 1 (s.nat kPowerState) ++
      leBytes 1 (b2n s.alertLevel + 2 * b2n (s.nat kUpdateState == 4)) ++ leBytes 2 (s.nat kHbPeriodMs) ++
      leBytes 2 (s.nat kLastEpoch) ++ leBytes 2 s.mario.hbCount)
    refine ⟨_, _, if_pos (by rw [hup, hjoined]; rfl), hout, rfl, leNat_leBytes 1 _, leNat_leBytes 2 _, leNat_leBytes 2 _, ?_,
      hslots, hmem, hwork⟩
    rw [hmario]
  · intro s node p hheard hp
    have hn : node < 128 := hheard.2.2.1
    refine ⟨_, congrArg Host.Outcome.next (fromNode_of_heardFrom hheard _), ?_, fun m hm hne => ?_, ?_, fun _ _ => rfl,
      ⟨rfl, rfl, rfl, rfl, rfl⟩, fun _ _ => rfl⟩
    · exact (nodeHere_markNode (s := s)).trans (if_pos rfl)
    · exact (nodeHere_markNode (s := s)).trans (if_neg hne)
    · exact (Tbl.get_set_same ..).trans (Nat.mod_eq_of_lt hp)
  · intro s node hon hup hn hhere
    have hbit : bitOf (s.oct kNodesPresent (node / 8)) (node % 8) = true := hhere
    have hlog := told_logEvent (s.markNode node false) 0x0031 (Config.eventSeverity 0x0031).toNat 3 node (Config.uptimeMs s.free) 0
    have hocts := nodeHere_congr hlog.octs
    refine ⟨_, if_pos (by simp [hon, hup, hn, hbit]), ?_, fun m hm hne => ?_, ?_, ?_⟩
    · exact (hocts node).trans ((nodeHere_markNode).trans (if_pos rfl))
    · exact (hocts m).trans ((nodeHere_markNode).trans (if_neg hne))
    · exact length_log_logEvent ..
    · exact hlog.quiet.workKept

end Sys2Proof.Safety

namespace Sys2Proof.Safety

open Sys2Proof.Machine

/-! ### The Strings line (O41) -/

section Line

variable {s t : State} {k v : Nat}

/-- A record of the log before it is sent. -/
def logged (s : State) (r : List Byte) : State := ({ s with log := (r :: s.log).take logCapacity }.wrapAdd kLogNextSeq 1 32).takeFree

theorem logEvent_eq (s : State) (code sev src a0 a1 a2 : Nat) : ∃ r, s.logEvent code sev src a0 a1 a2 =
    if 2 ≤ sev then (logged s r).sendStrings 1 r else logged s r := ⟨_, rfl⟩

theorem told_logged (s : State) (r : List Byte) : Told [kLogNextSeq] s (logged s r) :=
  ⟨quiet_logged s _, fun _ hk => State.reg_wrapAdd_other _ _ _ (List.ne_of_not_mem_cons hk)⟩

/-- A node that may not transmit logs without a frame. -/
theorem told_logEvent_down (hdown : s.stringsUp = false) (code sev src a0 a1 a2 : Nat) :
    Told [kLogNextSeq] s (s.logEvent code sev src a0 a1 a2) := by
  obtain ⟨r, heq⟩ := logEvent_eq s code sev src a0 a1 a2
  have hlog := told_logged s r
  have hdown' : (logged s r).stringsUp = false := (stringsUp_of_told hlog (by decide) (by decide)).trans hdown
  rw [heq]
  refine .ite ?_ hlog
  rw [State.sendStrings, hdown']
  exact hlog

theorem told_setLine (v : Nat) : Told (kStringsLine :: kAlertStatus :: logSlots) s (s.setLine v) := by
  have hset := told_setNat s kStringsLine v
  exact .ite (((hset.trans (told_alert _ 5)).trans (told_logEvent ..)).mono (by decide)) (hset.mono (by decide))

/-- The line leaves OK: the alert is set and the record logged (R822). -/
theorem setLine_out (hold : s.nat kStringsLine = 0) (hv : v ≠ 0) :
    s.setLine v = ((s.setNat kStringsLine v).alert 5).logEvent 0x0052 2 3 v 0 0 := if_pos ⟨hold, hv⟩

theorem setLine_zero : s.setLine 0 = s.setNat kStringsLine 0 := if_neg fun hc => hc.2 rfl

theorem bit_setLine (hold : s.nat kStringsLine = 0) (hv : v ≠ 0) : (s.setLine v).bit kAlertStatus 5 = true := by
  rw [setLine_out hold hv, (told_logEvent ..).bit 5 (by decide)]
  exact bit_alert _ 5 (by decide)

/-- The line of a node that may not transmit reads what it is moved to. -/
theorem line_setLine_down (hdown : s.stringsUp = false) (hv : v < 2 ^ 64) : (s.setLine v).nat kStringsLine = v := by
  by_cases hold : s.nat kStringsLine = 0 ∧ v ≠ 0
  · have hset := (told_setNat s kStringsLine v).trans (told_alert _ 5)
    have hdown' : ((s.setNat kStringsLine v).alert 5).stringsUp = false :=
      (stringsUp_of_told hset (by decide) (by decide)).trans hdown
    rw [setLine_out hold.1 hold.2, (told_logEvent_down hdown' ..).nat (by decide), (told_alert _ 5).nat (by decide),
      State.nat_setNat_same _ hv]
  · rw [State.setLine, if_neg hold, State.nat_setNat_same _ hv]

/-- A frame sent on a line that reads OPEN brings it back or is counted (R822). -/
theorem line_sendStrings (hup : s.stringsUp = true) (hopen : s.nat kStringsLine = 1) (func : Nat) (b : List Byte) :
    ((s.sendStrings func b).nat kStringsLine = 0 ∧ (s.sendStrings func b).nat kAckErrors = s.nat kAckErrors) ∨
    ((s.sendStrings func b).nat kStringsLine = 1 ∧
      (s.sendStrings func b).nat kAckErrors = satAdd 32 (s.nat kAckErrors) 1) := by
  have hemit : (s.emit (.strings (s.canId func) b)).nat kStringsLine = 1 := hopen
  simp only [State.sendStrings, hup, hemit, if_true]
  split
  · exact .inl ⟨State.nat_setNat_same _ (by decide), nat_of_reg (State.reg_setNat_other _ _ (by decide))⟩
  · exact .inr ⟨(nat_of_reg (State.reg_bump_other _ _ _ (by decide))).trans hopen, nat_bump_same _ _ _ (by decide)⟩

theorem connected_false_down (h : s.mario.connected = false) : s.stringsUp = false := by simp [State.stringsUp, h]

theorem state_down (h : 2 ≤ s.nat kStringsState) : s.stringsUp = false := by
  have hle : ¬ s.nat kStringsState ≤ 1 := by omega
  simp [State.stringsUp, hle]

theorem told_busError : Told [kBusErrors] s s.busError := (told_bump s kBusErrors _ 32).trans (told_takeFree _)

/-- The node leaves the bus (Table 16.6). -/
def offBus (s : State) : State := { s with mario := { s.mario with joined := false, reply := none } }

theorem busOff_eq (h : s.nat kStringsState ≤ 1) : s.busOff = ((offBus s).bump kBusOffs).setStrings 2 := if_pos h

/-- A move of STRINGS_STATE to a state in which the node may not transmit leaves the line as it is. -/
theorem told_setStrings_down {st : Nat} (hlo : 2 ≤ st) (hst : st < 2 ^ 64) :
    Told [kStringsState, kLogNextSeq] s (s.setStrings st) := by
  unfold State.setStrings
  split
  · exact .refl ..
  · have hdown : (s.setNat kStringsState st).stringsUp = false := state_down (by rw [State.nat_setNat_same _ hst]; exact hlo)
    exact ((told_setNat s kStringsState st).trans (told_logEvent_down hdown ..)).trans (told_takeFree _)

theorem busOff_leaves (h : s.nat kStringsState ≤ 1) : s.busOff.nat kStringsState = 2 ∧ s.busOff.mario = (offBus s).mario ∧
    s.busOff.nat kStringsLine = s.nat kStringsLine := by
  have hset := (told_bump (offBus s) kBusOffs 1 32).trans (told_setStrings_down (st := 2) le_rfl (by decide))
  rw [busOff_eq h]
  exact ⟨state_setStrings (by decide), hset.mario, hset.nat (by decide)⟩

theorem satAdd_zero {w n : Nat} (h : n ≤ 2 ^ w - 1) : satAdd w n 0 = n := by unfold satAdd; omega

theorem satAdd_le (w n m : Nat) : satAdd w n m ≤ 2 ^ w - 1 := Nat.min_le_right ..

/-- Sixteen frames without an acknowledgement: the line reads OPEN until its own record is acknowledged (R822). -/
theorem setLine_open (hold : s.nat kStringsLine = 0) (hack : s.nat kAckErrors ≤ 2 ^ 32 - 1) :
    ((s.setLine 1).nat kStringsLine = 1 ∧
      (s.setLine 1).nat kAckErrors = satAdd 32 (s.nat kAckErrors) (if s.stringsUp then 1 else 0)) ∨
    (s.stringsUp = true ∧ (s.setLine 1).nat kStringsLine = 0 ∧ (s.setLine 1).nat kAckErrors = s.nat kAckErrors) := by
  rw [setLine_out hold (by decide)]
  obtain ⟨r, heq⟩ := logEvent_eq ((s.setNat kStringsLine 1).alert 5) 0x0052 2 3 1 0 0
  have hset := told_alert (s.setNat kStringsLine 1) 5
  have hlog := hset.trans (told_logged _ r)
  have hline : (logged ((s.setNat kStringsLine 1).alert 5) r).nat kStringsLine = 1 :=
    (hlog.nat (by decide)).trans (State.nat_setNat_same _ (by decide))
  have hall := (told_setNat s kStringsLine 1).trans hlog
  have hacks : (logged ((s.setNat kStringsLine 1).alert 5) r).nat kAckErrors = s.nat kAckErrors := hall.nat (by decide)
  have hsame := stringsUp_of_told hall (by decide) (by decide)
  rw [heq, if_pos le_rfl]
  cases hup : s.stringsUp
  · rw [hup] at hsame
    rw [State.sendStrings, hsame]
    exact .inl ⟨hline, hacks.trans (satAdd_zero hack).symm⟩
  · rw [hup] at hsame
    obtain ⟨h0, ha⟩ | ⟨h1, ha⟩ := line_sendStrings hsame hline 1 r
    · exact .inr ⟨rfl, h0, ha.trans hacks⟩
    · exact .inl ⟨h1, ha.trans (by rw [hacks]; rfl)⟩

/-- The transceiver disconnects (R820). -/
def disconnected (s : State) : State := { s with mario := { s.mario with connected := false } }

/-- The transceiver connects again (R820). -/
def reconnected (s : State) : State := { s with mario := { s.mario with connected := true } }

theorem watchesLine_eq (hon : s.mario.inputOn = true) (hup : s.mario.restarting = false) : s.watchesLine = true := by
  simp [State.watchesLine, hon, hup]

end Line

/-- Settles O41: the line moves by `setLine`, and the state on the bus by `busOff` and `setStrings`. -/
theorem stringsLine : Obligations.StringsLine := by
  refine ⟨?_, ?_, ?_, ?_, ?_, ?_, ?_, ?_⟩
  · intro s hhears hstate
    have hset := told_setStrings (s := offBus s) 4
    obtain ⟨hmem, hwork⟩ := kept_withMario s (m := (offBus s).mario) rfl
    exact ⟨_, (if_pos hhears).trans (congrArg Host.Outcome.next (if_pos hstate)), state_setStrings (s := offBus s) (by decide),
      congrArg Mario.joined hset.mario, congrArg Mario.reply hset.mario, hmem.trans hset.quiet.memoryKept,
      hwork.trans hset.quiet.workKept⟩
  · intro s hstate hconn hon hup
    obtain ⟨hmem, hwork⟩ := kept_withMario s (m := { s.mario with joined := false, rejoin := true, heardEpoch := none }) rfl
    have hset := told_setStrings (s := { s with mario := { s.mario with joined := false, rejoin := true, heardEpoch := none } }) 0
    exact ⟨_, if_pos ⟨hstate, hconn, hon, hup⟩, state_setStrings (by decide), congrArg Mario.joined hset.mario,
      congrArg Mario.rejoin hset.mario, hmem.trans hset.quiet.memoryKept, hwork.trans hset.quiet.workKept⟩
  · intro s hon hup
    obtain ⟨hmem, hwork⟩ := kept_withMario s (m := (disconnected s).mario) rfl
    have hset := told_setLine (s := disconnected s) 2
    exact ⟨_, if_pos (watchesLine_eq hon hup), line_setLine_down (s := disconnected s) (connected_false_down rfl) (by decide),
      congrArg Mario.connected hset.mario, fun h0 => bit_setLine (s := disconnected s) h0 (by decide),
      hmem.trans hset.quiet.memoryKept, hwork.trans hset.quiet.workKept⟩
  · intro s hon hup hstate
    have hset := (told_setLine (s := disconnected s) 2).trans told_busError
    obtain ⟨h2, hmario, hline⟩ := busOff_leaves (s := ((disconnected s).setLine 2).busError) (by
      rw [hset.nat (by decide)]
      exact hstate)
    refine ⟨_, if_pos (watchesLine_eq hon hup), hline.trans ?_, ?_, h2, ?_⟩
    · rw [told_busError.nat (by decide)]
      exact line_setLine_down (connected_false_down rfl) (by decide)
    · exact (congrArg Mario.connected hmario).trans (congrArg Mario.connected hset.mario)
    · exact congrArg Mario.joined hmario
  · intro s hon hup hold
    have hbump := told_bump s kAckErrors 16 32
    have hset := hbump.trans (told_setLine 1)
    have hold' : (s.bump kAckErrors 16).nat kStringsLine = 0 := (hbump.nat (by decide)).trans hold
    have hacks : (s.bump kAckErrors 16).nat kAckErrors = satAdd 32 (s.nat kAckErrors) 16 := nat_bump_same s _ _ (by decide)
    have hline := setLine_open hold' (hacks ▸ satAdd_le ..)
    rw [hacks, stringsUp_of_told hbump (by decide) (by decide)] at hline
    exact ⟨_, if_pos ⟨watchesLine_eq hon hup, hold⟩, hline, bit_setLine hold' (by decide), hset.quiet.memoryKept,
      hset.quiet.workKept⟩
  · intro s hon hup hstate
    obtain ⟨h2, hmario, -⟩ := busOff_leaves (s := s.busError) (by rw [told_busError.nat (by decide)]; exact hstate)
    exact ⟨_, if_pos (watchesLine_eq hon hup), h2, congrArg Mario.joined hmario⟩
  · intro s hon hup
    have herr := told_busError (s := s)
    exact ⟨_, if_pos (watchesLine_eq hon hup), herr.mario, herr.slots, herr.quiet.memoryKept, herr.quiet.workKept⟩
  · intro s hconn
    obtain ⟨hmem, hwork⟩ := kept_withMario s (m := { s.mario with connected := true }) rfl
    by_cases h2 : s.nat kStringsLine = 2
    · have hset := told_setNat (reconnected s) kStringsLine 0
      refine ⟨_, (if_neg (by simp [hconn])).trans (congrArg Host.Outcome.next ((if_pos h2).trans setLine_zero)),
        congrArg Mario.connected hset.mario, ?_, hset.slots, hmem.trans hset.quiet.memoryKept, hwork.trans hset.quiet.workKept⟩
      rw [if_pos h2]
      exact State.nat_setNat_same (reconnected s) (by decide)
    · exact ⟨reconnected s, (if_neg (by simp [hconn])).trans (congrArg Host.Outcome.next (if_neg h2)), rfl, (if_neg h2).symm,
        fun _ _ => rfl, hmem, hwork⟩

end Sys2Proof.Safety

namespace Sys2Proof.Safety

open Sys2Proof.Machine

/-! ### Firmware update (O42) -/

section Update

variable {s t u : State} {who : Requester} {k v : Nat}

theorem get_clearBytes (m : Tbl Byte) (a n x : Nat) :
    Tbl.get 0 (clearBytes m a n) x = if a ≤ x ∧ x < a + n then 0 else Tbl.get 0 m x := by
  refine (Tbl.get_drop ..).trans ?_
  by_cases hin : a ≤ x ∧ x < a + n
  · rw [if_pos hin, if_pos (by simp [hin])]
  · rw [if_neg hin, if_neg (by simpa using hin)]

/-- The signature mark of a slot alone moves. -/
theorem setSig_keeps (m : Mario) (k : Nat) (v : Bool) : (m.setSig k v).flash = m.flash ∧ (m.setSig k v).owner = m.owner ∧
    (m.setSig k v).chunks = m.chunks := by
  unfold Mario.setSig
  split <;> exact ⟨rfl, rfl, rfl⟩

theorem sig_setSig_same (m : Mario) (k : Nat) (v : Bool) : (m.setSig k v).sig k = v := by
  unfold Mario.setSig Mario.sig
  split <;> rfl

theorem sig_setSig_other (m : Mario) {j k : Nat} (v : Bool) (hj : j < 2) (hk : k < 2) (h : j ≠ k) :
    (m.setSig k v).sig j = m.sig j := by
  obtain ⟨rfl, rfl⟩ | ⟨rfl, rfl⟩ : (j = 0 ∧ k = 1) ∨ (j = 1 ∧ k = 0) := by omega
  · rfl
  · rfl

/-- An update command in a state that lists it, by the owner or without one (R666). -/
theorem updateStep_ok {l : List Nat} (hstate : s.nat kUpdateState ∈ l) (how : s.mario.owner = none ∨ s.mario.owner = some who) :
    s.updateStep who l t = .ok t := by
  have hlist : l.contains (s.nat kUpdateState) = true := by simpa using hstate
  have hown : ¬ (s.mario.owner.isSome ∧ s.mario.owner ≠ some who) := by
    obtain h | h := how <;> simp [h]
  simp only [State.updateStep, hlist, Bool.true_eq_false, if_false, if_neg hown]

theorem updateStep_state {l : List Nat} (hstate : s.nat kUpdateState ∉ l) : s.updateStep who l t = .error .state := by
  have hlist : l.contains (s.nat kUpdateState) = false := by simpa using hstate
  simp only [State.updateStep, hlist, if_true]

theorem updateStep_busy {l : List Nat} (hstate : s.nat kUpdateState ∈ l) (hsome : s.mario.owner ≠ none)
    (hne : s.mario.owner ≠ some who) : s.updateStep who l t = .error .busy := by
  have hlist : l.contains (s.nat kUpdateState) = true := by simpa using hstate
  simp only [State.updateStep, hlist, Bool.true_eq_false, if_false, if_pos (And.intro (Option.isSome_iff_ne_none.2 hsome) hne)]

/-- What OPEN writes of the Marionette: the slot that does not run is erased, and its owner is `who`. -/
def openedMario (s : State) (who : Requester) : Mario :=
  { s.mario with flash := clearBytes s.mario.flash (s.idleSlot * 2 ^ 20) (2 ^ 20), chunks := [], owner := some who,
                 verifying := false }

def openedBy (s : State) (who : Requester) : State := { s with mario := (openedMario s who).setSig s.idleSlot false }

theorem openUpdate_eq : s.openUpdate who = ((openedBy s who).setNat kUpdateOffset 0).setNat kUpdateState 1 := rfl

theorem told_openUpdate : Told [kUpdateOffset, kUpdateState] (openedBy s who) (s.openUpdate who) :=
  (told_setNat (openedBy s who) kUpdateOffset 0).trans (told_setNat _ kUpdateState 1)

theorem nat_openUpdate : (s.openUpdate who).nat kUpdateState = 1 ∧ (s.openUpdate who).nat kUpdateOffset = 0 := by
  rw [openUpdate_eq]
  refine ⟨State.nat_setNat_same _ (by decide), ?_⟩
  rw [State.nat_setNat_other _ _ (by decide), State.nat_setNat_same _ (by decide)]

/-- A 512-byte chunk reaches the slot that does not run (R666). -/
def chunked (s : State) (bytes : List Byte) : State :=
  { s with mario := { s.mario with
      flash := putBytes s.mario.flash (s.idleSlot * 2 ^ 20 + s.nat kUpdateOffset) bytes,
      chunks := if s.mario.chunks.contains (s.nat kUpdateOffset / 512) then s.mario.chunks
        else s.nat kUpdateOffset / 512 :: s.mario.chunks } }

theorem writeUpdateChunk_ok {bytes : List Byte} {l : EntLoc} (hstate : s.nat kUpdateState = 1)
    (how : s.mario.owner = none ∨ s.mario.owner = some who) (hoff : s.nat kUpdateOffset < 2 ^ 20) :
    writeUpdateChunk who bytes s l = .ok ((chunked s bytes).setNat kUpdateOffset (s.nat kUpdateOffset + 512)) := by
  simp only [writeUpdateChunk, updateStep_ok (t := s) (List.mem_singleton.2 hstate) how, if_neg (Nat.not_le.2 hoff)]
  rfl

theorem mem_chunks_chunked {bytes : List Byte} : s.nat kUpdateOffset / 512 ∈ (chunked s bytes).mario.chunks := by
  show _ ∈ (if s.mario.chunks.contains (s.nat kUpdateOffset / 512) then _ else _)
  split
  · next h => simpa using h
  · exact List.mem_cons_self

/-- A number of the 6 that Table 16.12 lists. -/
theorem updateReason_lt (s : State) (sigOk : Bool) : s.updateReason sigOk < 2 ^ 64 := by
  unfold State.updateReason
  dsimp only
  repeat' split
  all_goals decide

/-- The checks have ended, with their result. -/
def checked (s : State) (sigOk : Bool) : State :=
  { s with mario := { s.mario with verifying := false } }.setNat kUpdateReason (s.updateReason sigOk)

theorem told_checked (sigOk : Bool) : Told [kUpdateReason] { s with mario := { s.mario with verifying := false } } (checked s sigOk) :=
  told_setNat ..

theorem kept_checked (sigOk : Bool) : memoryKept s (checked s sigOk) ∧ workKept s (checked s sigOk) := by
  obtain ⟨hmem, hwork⟩ := kept_withMario s (m := { s.mario with verifying := false }) rfl
  exact ⟨hmem.trans (told_checked sigOk).quiet.memoryKept, hwork.trans (told_checked sigOk).quiet.workKept⟩

/-- The image in slot `k` has verified. -/
def signed (s : State) (k : Nat) : State := { s with mario := s.mario.setSig k true }

theorem signed_leaves (s : State) (k : Nat) : (signed s k).mario.sig k = true ∧ (∀ j, (signed s k).reg j = s.reg j) ∧
    memoryKept s (signed s k) ∧ workKept s (signed s k) := by
  obtain ⟨hmem, hwork⟩ := kept_withMario s (setSig_keeps s.mario k true).1
  exact ⟨sig_setSig_same .., fun _ => rfl, hmem, hwork⟩

/-- A refused image is logged. -/
def rejected (s : State) (sigOk : Bool) : State :=
  ((checked s sigOk).setNat kUpdateState 3).logEvent 0x0040 (Config.eventSeverity 0x0040).toNat 4 (s.updateReason sigOk)
    ((checked s sigOk).image s.idleSlot 8 4)
    ((checked s sigOk).image s.idleSlot 6 2)

theorem exec_updateVerifyDone {sigOk : Bool} (hver : s.mario.verifying = true) (hstate : s.nat kUpdateState = 1) :
    exec (.updateVerifyDone sigOk) s = if s.updateReason sigOk = 0 then
      .next ((signed (checked s sigOk) s.idleSlot).setNat kUpdateState 2)
    else .next (if Config.updateAlert 0x0040 then (rejected s sigOk).alert 6 else rejected s sigOk) := if_pos ⟨hver, hstate⟩

/-- The verified image goes on trial (R668). -/
def onTrial (s : State) : State :=
  { s with mario := { s.mario with active := s.idleSlot, trial := true, trialBoots := 0 } }.setNat kUpdateState 4

/-- The trial ends well: the floor rises to the running image's version, and the session closes. -/
def committed (s : State) : State :=
  ({ s with mario := { s.mario with trial := false } }.setNat kRollbackFloor (max (s.nat kRollbackFloor) (s.nat kMfwSvn))).closeUpdate

theorem told_beginRestart (s : State) (c : Nat) : (s.beginRestart c).mario.restarting = true ∧
    (∀ k, (s.beginRestart c).nat k = s.nat k) ∧ (s.beginRestart c).mario.active = s.mario.active ∧
    (s.beginRestart c).mario.trial = s.mario.trial ∧ (s.beginRestart c).mario.trialBoots = s.mario.trialBoots ∧
    (s.beginRestart c).mario.flash = s.mario.flash ∧ memoryKept s (s.beginRestart c) ∧ workKept s (s.beginRestart c) := by
  obtain ⟨hmem, hwork⟩ := kept_withMario s (m := { s.mario with restarting := true, cause := c, verifying := false }) rfl
  exact ⟨rfl, fun _ => rfl, rfl, rfl, rfl, rfl, hmem, hwork⟩

/-- The Marionette of a closed session. -/
def closedMario (m : Mario) : Mario := { m with owner := none, verifying := false }

theorem told_closeUpdate : Told [kUpdateState] { s with mario := closedMario s.mario } s.closeUpdate := told_setNat ..

theorem closeUpdate_leaves (s : State) : s.closeUpdate.nat kUpdateState = 0 ∧ s.closeUpdate.mario = closedMario s.mario ∧
    slotsKept s s.closeUpdate [kUpdateState] ∧ memoryKept s s.closeUpdate ∧ workKept s s.closeUpdate := by
  have htold := told_closeUpdate (s := s)
  obtain ⟨hmem, hwork⟩ := kept_withMario s (m := closedMario s.mario) rfl
  exact ⟨State.nat_setNat_same _ (by decide), htold.mario, htold.slots, hmem.trans htold.quiet.memoryKept,
    hwork.trans htold.quiet.workKept⟩

/-- The rollback floor of a committed image (Table 16.12). -/
def floored (s : State) : State :=
  { s with mario := { s.mario with trial := false } }.setNat kRollbackFloor (max (s.nat kRollbackFloor) (s.nat kMfwSvn))

theorem committed_leaves (s : State) : (committed s).nat kUpdateState = 0 ∧
    (committed s).mario = closedMario { s.mario with trial := false } ∧
    (committed s).nat kRollbackFloor = max (s.nat kRollbackFloor) (s.nat kMfwSvn) ∧ memoryKept s (committed s) ∧
    workKept s (committed s) := by
  have htold : Told [kRollbackFloor] { s with mario := { s.mario with trial := false } } (floored s) := told_setNat ..
  obtain ⟨hmem, hwork⟩ := kept_withMario s (m := { s.mario with trial := false }) rfl
  obtain ⟨h0, hmario, hslots, hmem', hwork'⟩ := closeUpdate_leaves (floored s)
  have hlt : max (s.nat kRollbackFloor) (s.nat kMfwSvn) < 2 ^ 64 := max_lt (BitVec.isLt _) (BitVec.isLt _)
  exact ⟨h0, hmario.trans (congrArg closedMario htold.mario),
    (nat_of_reg (hslots _ (by decide))).trans (State.nat_setNat_same _ hlt),
    (hmem.trans htold.quiet.memoryKept).trans hmem', (hwork.trans htold.quiet.workKept).trans hwork'⟩

end Update

/-- Settles O42: each command moves UPDATE_STATE, and only OPEN and CHUNK write flash, in the slot that does not run. -/
theorem firmwareUpdate : Obligations.FirmwareUpdate := by
  refine ⟨?_, ?_, ?_, ?_, ?_, ?_, ?_, ?_, ?_, ?_⟩
  · intro s who h hstate how hslot
    have htold := told_openUpdate (s := s) (who := who)
    obtain ⟨h1, h0⟩ := nat_openUpdate (s := s) (who := who)
    obtain ⟨hflash, howner, hchunks⟩ := setSig_keeps (openedMario s who) s.idleSlot false
    have hmario : ((s.openUpdate who).applied who).mario = (openedMario s who).setSig s.idleSlot false := htold.mario
    have hget : ∀ a, Tbl.get 0 ((s.openUpdate who).applied who).mario.flash a =
        if s.idleSlot * 2 ^ 20 ≤ a ∧ a < s.idleSlot * 2 ^ 20 + 2 ^ 20 then 0 else Tbl.get 0 s.mario.flash a := fun a => by
      rw [hmario, hflash]
      exact get_clearBytes ..
    have hidle : s.idleSlot < 2 ∧ s.nat kMfwSlot ≠ s.idleSlot := by unfold State.idleSlot; omega
    refine ⟨_, next_applied h fun l => updateStep_ok (by simpa using hstate) how, h1, h0, ?_, ?_, fun a ha => ?_, fun a ha => ?_,
      ?_, ?_, ?_, ?_⟩
    · rw [hmario, howner]; rfl
    · rw [hmario, hchunks]; rfl
    · rw [hget, if_pos (by omega)]
    · rw [hget, if_neg (by omega)]
    · rw [hmario, sig_setSig_same]
    · rw [hmario, sig_setSig_other _ _ hslot hidle.1 hidle.2]; rfl
    · exact fun k hk => (State.reg_applied ..).trans (htold.reg (by simp at hk ⊢; tauto))
    · exact htold.quiet.workKept
  · intro s who bytes h hstate how hoff _ hlen
    have htold := told_setNat (chunked s bytes) kUpdateOffset (s.nat kUpdateOffset + 512)
    have hmario := htold.mario
    have hput : ∀ a, Tbl.get 0 (((chunked s bytes).setNat kUpdateOffset (s.nat kUpdateOffset + 512)).applied who).mario.flash a =
        Tbl.get 0 (putBytes s.mario.flash (s.idleSlot * 2 ^ 20 + s.nat kUpdateOffset) bytes) a := fun a =>
      congrArg (fun m : Mario => Tbl.get 0 m.flash a) hmario
    refine ⟨_, congrArg Host.Outcome.next (State.dictLong_applied h fun l => writeUpdateChunk_ok hstate how hoff),
      (nat_of_reg (State.reg_applied _ who _)).trans (State.nat_setNat_same _ (by omega)), fun i hi => ?_, fun a ha => ?_, ?_, ?_, ?_⟩
    · rw [hput, getByte_putBytes_inside _ _ _ _ (by omega), List.getD_eq_getElem _ _ (by omega)]
    · rw [hput, getByte_putBytes_outside _ _ _ _ (by omega)]
    · have hchunks : (((chunked s bytes).setNat kUpdateOffset (s.nat kUpdateOffset + 512)).applied who).mario.chunks =
          (chunked s bytes).mario.chunks := congrArg Mario.chunks hmario
      rw [hchunks]
      exact mem_chunks_chunked
    · exact fun k hk => (State.reg_applied ..).trans (htold.reg hk)
    · exact htold.quiet.workKept
  · intro s who h hstate how
    exact next_applied h fun l => updateStep_ok (List.mem_singleton.2 hstate) how
  · intro s sigOk hver hstate hslot
    obtain ⟨hmem, hwork⟩ := kept_checked (s := s) sigOk
    have htold := told_checked (s := s) sigOk
    have hreason : (checked s sigOk).nat kUpdateReason = s.updateReason sigOk := State.nat_setNat_same _ (updateReason_lt s sigOk)
    rw [exec_updateVerifyDone hver hstate]
    refine ⟨fun h0 => ?_, fun hbad => ?_⟩
    · obtain ⟨hsig, hreg, hmem', hwork'⟩ := signed_leaves (checked s sigOk) s.idleSlot
      have hset := told_setNat (signed (checked s sigOk) s.idleSlot) kUpdateState 2
      refine ⟨_, if_pos h0, State.nat_setNat_same _ (by decide), ?_, ?_, fun k hk => ?_,
        (hmem.trans hmem').trans hset.quiet.memoryKept, (hwork.trans hwork').trans hset.quiet.workKept⟩
      · rw [hset.nat (by decide), nat_of_reg (hreg _)]
        exact hreason.trans h0
      · rw [hset.mario]
        exact hsig
      · simp only [List.mem_cons, List.not_mem_nil, or_false, not_or] at hk
        exact ((hset.reg (by simpa using hk.1)).trans (hreg k)).trans (htold.reg (by simpa using hk.2))
    · have hset := told_setNat (checked s sigOk) kUpdateState 3
      have hlog : Told logSlots ((checked s sigOk).setNat kUpdateState 3) (rejected s sigOk) := told_logEvent ..
      have hend : Told (logSlots ++ [kAlertStatus]) ((checked s sigOk).setNat kUpdateState 3)
          (if Config.updateAlert 0x0040 then (rejected s sigOk).alert 6 else rejected s sigOk) :=
        .ite (hlog.trans (told_alert _ 6)) (hlog.mono (by decide))
      refine ⟨_, if_neg hbad, ?_, ?_, ?_, (hmem.trans hset.quiet.memoryKept).trans hend.quiet.memoryKept,
        (hwork.trans hset.quiet.workKept).trans hend.quiet.workKept⟩
      · rw [hend.nat (by decide), State.nat_setNat_same _ (by decide)]
      · rw [hend.nat (by decide), hset.nat (by decide), hreason]
      · rw [hend.mario, hset.mario, htold.mario]
        rfl
  · intro s who h hstate how
    have hset : Told [kUpdateState] { s with mario := { s.mario with active := s.idleSlot, trial := true, trialBoots := 0 } }
      (onTrial s) := told_setNat ..
    have hlog := told_logEvent (onTrial s) 0x0041 (Config.eventSeverity 0x0041).toNat 4 s.idleSlot (s.image s.idleSlot 8 4)
      (s.image s.idleSlot 6 2)
    have hall := hset.trans hlog
    obtain ⟨hmem, hwork⟩ := kept_withMario s (m := { s.mario with active := s.idleSlot, trial := true, trialBoots := 0 }) rfl
    obtain ⟨hup, hnat, hact, htrial, hboots, hflash, hmem', hwork'⟩ := told_beginRestart ((onTrial s).logEvent 0x0041
      (Config.eventSeverity 0x0041).toNat 4 s.idleSlot (s.image s.idleSlot 8 4) (s.image s.idleSlot 6 2)) 1
    refine ⟨_, next_applied h fun l => updateStep_ok (List.mem_singleton.2 hstate) how, ?_, ?_, ?_, ?_, hup, ?_,
      ((hmem.trans hall.quiet.memoryKept).trans hmem').applied who, ((hwork.trans hall.quiet.workKept).trans hwork').applied who⟩
    · exact (hnat _).trans ((hlog.nat (by decide)).trans (State.nat_setNat_same _ (by decide)))
    · exact hact.trans (congrArg Mario.active hall.mario)
    · exact htrial.trans (congrArg Mario.trial hall.mario)
    · exact hboots.trans (congrArg Mario.trialBoots hall.mario)
    · exact hflash.trans ((congrArg Mario.flash hlog.mario).trans (by rw [hset.mario]))
  · intro s who h hstate how
    obtain ⟨h0, hmario, hfloor, hmem, hwork⟩ := committed_leaves s
    have hlog := told_logEvent (committed s) 0x0042 (Config.eventSeverity 0x0042).toNat 4 (s.nat kMfwSlot) (s.nat kMfwVersion)
      (max (s.nat kRollbackFloor) (s.nat kMfwSvn))
    exact ⟨_, next_applied h fun l => updateStep_ok (List.mem_singleton.2 hstate) how, (hlog.nat (by decide)).trans h0,
      (congrArg Mario.trial hlog.mario).trans (congrArg Mario.trial hmario),
      (congrArg Mario.owner hlog.mario).trans (congrArg Mario.owner hmario), (hlog.nat (by decide)).trans hfloor,
      (hmem.trans hlog.quiet.memoryKept).applied who, (hwork.trans hlog.quiet.workKept).applied who⟩
  · intro s who h hstate how
    exact next_applied h fun l => updateStep_ok (by simpa using hstate) how
  · intro s hstate htrial hon hup
    have hrev := told_reverted (s := s)
    have hall := hrev.trans told_revert
    obtain ⟨hmem, hwork⟩ := kept_withMario s (m := backOnSlot s.mario) rfl
    obtain ⟨hrest, hnat, hact, htr, -, -, hmem', hwork'⟩ := told_beginRestart s.revert 2
    refine ⟨_, if_pos ⟨hstate, htrial, hon, hup⟩, ?_, ?_, ?_, hrest, (hmem.trans hall.quiet.memoryKept).trans hmem',
      (hwork.trans hall.quiet.workKept).trans hwork'⟩
    · exact (hnat _).trans ((told_revert.nat (by decide)).trans (State.nat_setNat_same _ (by decide)))
    · exact hact.trans (congrArg Mario.active mario_revert)
    · exact htr.trans (congrArg Mario.trial mario_revert)
  · intro s hstate
    obtain ⟨h0, hmario, hslots, hmem, hwork⟩ := closeUpdate_leaves s
    exact ⟨_, if_pos hstate, h0, congrArg Mario.owner hmario, hslots, hmem, hwork⟩
  · intro s who h
    refine ⟨fun hstate => next_refused h fun l => updateStep_state (by simpa using hstate), fun hstate hsome hne => ?_⟩
    exact next_refused h fun l => updateStep_busy (List.mem_singleton.2 hstate) hsome hne

end Sys2Proof.Safety

namespace Sys2Proof.Safety

open Sys2Proof.Machine

/-! ### Boot states (O43) -/

section Folds

variable {α β : Type} {f : State → α → State} {g : State → β} {x : α}

/-- A run over a list that sets what `g` reads at `x`, and leaves it elsewhere. -/
theorem foldl_sets [DecidableEq α] {v : β} (l : List α) (hset : ∀ s, g (f s x) = v) (hkeep : ∀ s, ∀ y ∈ l, y ≠ x → g (f s y) = g s)
    (hx : x ∈ l) (s : State) : g (l.foldl f s) = v := by
  induction l generalizing s with
  | nil => exact absurd hx List.not_mem_nil
  | cons y l ih =>
    by_cases hin : x ∈ l
    · exact ih (fun s z hz => hkeep s z (List.mem_cons_of_mem _ hz)) hin (f s y)
    · obtain rfl := (List.mem_cons.1 hx).resolve_right hin
      exact (foldl_keeps l _ fun s z hz => hkeep s z (List.mem_cons_of_mem _ hz) fun h => hin (h ▸ hz)).trans (hset s)

/-- A run over a list in which `x` stands once changes what `g` reads as the step at `x` does. -/
theorem foldl_once [DecidableEq α] {h : β → β} (l : List α) (hnodup : l.Nodup) (hstep : ∀ s, g (f s x) = h (g s))
    (hkeep : ∀ s, ∀ y ∈ l, y ≠ x → g (f s y) = g s) (hx : x ∈ l) (s : State) : g (l.foldl f s) = h (g s) := by
  induction l generalizing s with
  | nil => exact absurd hx List.not_mem_nil
  | cons y l ih =>
    obtain ⟨hy, hnodup⟩ := List.nodup_cons.1 hnodup
    by_cases hyx : y = x
    · subst hyx
      exact (foldl_keeps l _ fun s z hz => hkeep s z (List.mem_cons_of_mem _ hz) fun h => hy (h ▸ hz)).trans (hstep s)
    · have hin := (List.mem_cons.1 hx).resolve_left (Ne.symm hyx)
      exact (ih hnodup (fun s z hz => hkeep s z (List.mem_cons_of_mem _ hz)) hin (f s y)).trans
        (congrArg h (hkeep s y (List.mem_cons_self ..) hyx))

end Folds

theorem nodup_countFrom (n : Nat) : ∀ a, (countFrom a n).Nodup := by
  induction n with
  | zero => exact fun a => List.nodup_nil
  | succ n ih =>
    refine fun a => List.nodup_cons.2 ⟨fun h => ?_, ih (a + 1)⟩
    have := (mem_countFrom.1 h).1
    omega

section Boot

variable {s t u : State} {k n v r : Nat}

/-- The staging area emptied, before its slots say so. -/
def cleared (s : State) : State := { s.fsZero 0 0 stagingBytes with boot := { s.boot with staged := [] } }

theorem emptyStage_eq : s.emptyStage = ((cleared s).setNat kStageSource 0xFE).setNat kStageBytes 0 := rfl

theorem told_emptyStage : Told [kStageSource, kStageBytes] (cleared s) s.emptyStage :=
  (told_setNat (cleared s) kStageSource 0xFE).trans (told_setNat _ kStageBytes 0)

theorem cleared_leaves (s : State) : (cleared s).hbm = s.hbm ∧ (∀ k, (cleared s).reg k = s.reg k) ∧ workKept s (cleared s) ∧
    (cleared s).boot.staged = [] ∧ (cleared s).fs = clearBytes s.fs 0 stagingBytes :=
  ⟨rfl, fun _ => rfl, ⟨rfl, rfl, rfl, rfl, rfl⟩, rfl, rfl⟩

/-- An emptied staging area, and whatever messages follow (R686, R690). -/
theorem emptyStage_leaves {l : List Nat} (h : Told l s.emptyStage t) (hsrc : kStageSource ∉ l) (hbytes : kStageBytes ∉ l) :
    stageEmpty t ∧ t.hbm = s.hbm ∧ workKept s t ∧ slotsKept s t ([kStageSource, kStageBytes] ++ l) := by
  obtain ⟨hhbm, hreg, hwork, hstaged, hfs⟩ := cleared_leaves s
  have hall := told_emptyStage.trans h
  refine ⟨⟨?_, ?_, ?_, fun a ha => ?_⟩, hall.hbm.trans hhbm, hwork.trans hall.quiet.workKept,
    fun k hk => (hall.reg hk).trans (hreg k)⟩
  · rw [h.nat hsrc, emptyStage_eq, State.nat_setNat_other _ _ (by decide), State.nat_setNat_same _ (by decide)]
  · rw [h.nat hbytes, emptyStage_eq, State.nat_setNat_same _ (by decide)]
  · rw [hall.boot]
    exact hstaged
  · rw [hall.fs, hfs, get_clearBytes, if_pos (by omega)]

theorem pkgCheck_lt (rd : Nat → Nat → List Byte) (landed : Nat → Bool) (stepping floor : Nat) (sigOk : Bool) :
    pkgCheck rd landed stepping floor sigOk < 2 ^ 64 := by
  unfold pkgCheck
  dsimp only
  repeat' split
  all_goals decide

/-- Fields of a package in the staging area fit a slot. -/
theorem pkgNat_stageRead_lt (s : State) (off n : Nat) : pkgNat s.stageRead off n < 256 ^ n := by
  have h := leNat_lt (getBytes s.fs off n)
  rwa [length_getBytes] at h

/-- The boot has stopped forwarding (R699). -/
def halted (s : State) : State := { s with boot := { s.boot with forwarding := false } }

theorem halted_leaves (s : State) : (halted s).boot.forwarding = false ∧ memoryKept s (halted s) ∧ workKept s (halted s) :=
  ⟨rfl, ⟨fun _ => rfl, fun _ => rfl, fun _ => rfl, fun _ => rfl, fun _ _ => rfl, fun _ => rfl, fun _ => rfl⟩, rfl, rfl, rfl, rfl, rfl⟩

theorem bootFail_eq : s.bootFail r =
    ((((halted s).setNat kBootReason r).setNat kBootState 8).dieEvent 0x1704 r 0 0).emit (.aer 0 2) := rfl

/-- BOOT_FAIL with its reason (R699). -/
theorem bootFail_leaves (hr : r < 2 ^ 64) : (s.bootFail r).bootState = 8 ∧ (s.bootFail r).nat kBootReason = r ∧
    (s.bootFail r).boot.forwarding = false ∧ memoryKept s (s.bootFail r) ∧ workKept s (s.bootFail r) := by
  obtain ⟨hfwd, hmem, hwork⟩ := halted_leaves s
  have hset := (told_setNat (halted s) kBootReason r).trans (told_setNat _ kBootState 8)
  have hlog := (told_dieEvent (((halted s).setNat kBootReason r).setNat kBootState 8) 0x1704 r 0 0).trans (told_emit _ (.aer 0 2))
  have hall := hset.trans hlog
  rw [bootFail_eq]
  refine ⟨(hlog.nat (by decide)).trans (State.nat_setNat_same _ (by decide)), ?_, (congrArg BootSt.forwarding hall.boot).trans hfwd,
    hmem.trans hall.quiet.memoryKept, hwork.trans hall.quiet.workKept⟩
  rw [hlog.nat (by decide), State.nat_setNat_other _ _ (by decide), State.nat_setNat_same _ hr]

theorem applySet_nil (h : s.persist = []) : s.applySet = s := by simp only [State.applySet, h]

theorem applySet_one {c : PersistCopy} {rest : List PersistCopy} {v : Word} (h : s.persist = c :: rest) (hregs : c.regs = [(k, v)])
    (hocts : c.octs = []) : s.applySet = if c.accepts k v.toNat then s.setReg k v else s.bump kPersistRejects 1 16 := by
  simp only [State.applySet, h, hregs, hocts, List.foldl_cons, List.foldl_nil, State.applySaved]

/-- Neither BOOT_STATE nor PERSIST_REJECTS is saved (Table 15.5). -/
theorem persistSlot_ne (h : persistSlot k = true) : k ≠ kBootState ∧ k ≠ kPersistRejects := by
  constructor <;> rintro rfl <;> exact absurd h (by decide)

/-- The firmware runs (R671). -/
def started (s : State) : State :=
  ((s.setNat kFwVersion (pkgVersion s.stageRead)).setNat kFwSvn (pkgSvn s.stageRead)).setNat kBootState 4

theorem exec_fwStartDone (h3 : s.bootState = 3) (ok : Bool) :
    exec (.fwStartDone ok) s = .next (if ok then started s else s.bootFail 9) := by
  cases ok <;> exact if_neg (not_not.2 h3)

theorem exec_hbmTrainDone (h4 : s.bootState = 4) (ok : Bool) :
    exec (.hbmTrainDone ok) s = .next (if ok then (s.setNat kBootState 5).applySet else s.bootFail 8) := by
  cases ok <;> exact if_neg (not_not.2 h4)

theorem started_leaves (s : State) : (started s).bootState = 4 ∧ (started s).nat kFwVersion = pkgVersion s.stageRead ∧
    (started s).nat kFwSvn = pkgSvn s.stageRead ∧ Told [kFwVersion, kFwSvn, kBootState] s (started s) := by
  have hver := pkgNat_stageRead_lt s 8 4
  have hsvn := pkgNat_stageRead_lt s 6 2
  refine ⟨State.nat_setNat_same _ (by decide), ?_, ?_,
    ((told_setNat s kFwVersion (pkgVersion s.stageRead)).trans (told_setNat _ kFwSvn (pkgSvn s.stageRead))).trans
      (told_setNat _ kBootState 4)⟩
  · rw [started, State.nat_setNat_other _ _ (by decide), State.nat_setNat_other _ _ (by decide),
      State.nat_setNat_same _ (by unfold pkgVersion; omega)]
  · rw [started, State.nat_setNat_other _ _ (by decide), State.nat_setNat_same _ (by unfold pkgSvn; omega)]

/-- A package that fails a check (R683). -/
def refusedPackage (s : State) (r : Nat) : State := (s.setNat kBootReason r).setNat kBootState 1

theorem exec_verifyDone_bad {sigOk : Bool} (h2 : s.bootState = 2)
    (hr : pkgCheck s.stageRead s.chunkLanded (s.nat kStepping) (s.nat kFwSvnFloor) sigOk = r) (hne : r ≠ 0) :
    exec (.verifyDone sigOk) s =
      .next ((refusedPackage s r).emptyStage.dieEvent 0x1702 r (pkgVersion s.stageRead) (pkgSvn s.stageRead)) := by
  subst hr
  exact (if_neg (not_not.2 h2)).trans (if_neg hne)

end Boot

/-! ### READY (R697, R698) -/

section Ready

variable {s t u : State} {l m : List Nat} {k n f sl bootMs : Nat}

/-- The state without its slots, its messages, its long entries, its port states and its key. -/
def bare (s : State) : State := { rest s with octs := [], ports := [], rkey := 0 }

/-- A state differs from another in these only, and in no slot that is not listed. -/
structure Booted (l : List Nat) (s t : State) : Prop where
  bare : bare t = bare s
  slots : slotsKept s t l

theorem Told.booted (h : Told l s t) : Booted l s t :=
  ⟨congrArg (fun x : State => { x with octs := [], ports := [], rkey := 0 }) h.quiet, h.slots⟩

theorem Booted.refl (s : State) (l : List Nat) : Booted l s s := ⟨rfl, fun _ _ => rfl⟩

theorem Booted.trans (h : Booted l s t) (h' : Booted m t u) : Booted (l ++ m) s u := ⟨h'.bare.trans h.bare, h.slots.trans h'.slots⟩

theorem Booted.mono (h : Booted l s t) (hsub : l ⊆ m) : Booted m s t := ⟨h.bare, h.slots.mono hsub⟩

theorem Booted.and (h : Booted l s t) (h' : Booted l t u) : Booted l s u := (h.trans h').mono (by simp)

theorem Booted.nat (h : Booted l s t) (hk : k ∉ l) : t.nat k = s.nat k := nat_of_reg (h.slots k hk)

theorem Booted.field {α : Type} (h : Booted l s t) (g : State → α) : g (Safety.bare t) = g (Safety.bare s) := congrArg g h.bare

theorem Booted.ls (h : Booted l s t) : t.ls = s.ls := h.field State.ls
theorem Booted.fs (h : Booted l s t) : t.fs = s.fs := h.field State.fs
theorem Booted.acc (h : Booted l s t) : t.acc = s.acc := h.field State.acc
theorem Booted.hbm (h : Booted l s t) : t.hbm = s.hbm := h.field State.hbm
theorem Booted.inflight (h : Booted l s t) : t.inflight = s.inflight := h.field State.inflight
theorem Booted.rings (h : Booted l s t) : t.rings = s.rings := h.field State.rings
theorem Booted.posted (h : Booted l s t) : t.posted = s.posted := h.field State.posted
theorem Booted.jobs (h : Booted l s t) : t.jobs = s.jobs := h.field State.jobs
theorem Booted.aborts (h : Booted l s t) : t.aborts = s.aborts := h.field State.aborts
theorem Booted.stop (h : Booted l s t) : t.stop = s.stop := h.field State.stop
theorem Booted.boot (h : Booted l s t) : t.boot = s.boot := h.field State.boot
theorem Told.coreMap (h : Told l s t) : t.coreMap = s.coreMap := h.quiet.field State.coreMap
theorem Booted.coreMap (h : Booted l s t) : t.coreMap = s.coreMap := h.field State.coreMap

theorem booted_foldl {α : Type} {f : State → α → State} (xs : List α) (hf : ∀ s, ∀ x ∈ xs, Booted l s (f s x)) :
    ∀ s, Booted l s (xs.foldl f s) := by
  induction xs with
  | nil => exact fun s => .refl s l
  | cons x xs ih =>
    exact fun s => (hf s x (List.mem_cons_self ..)).and (ih (fun s y hy => hf s y (List.mem_cons_of_mem _ hy)) (f s x))

/-- The state that READY starts from, with its stores zeroed. -/
def readied (s : State) (bootMs : Nat) : State := ((s.setNat kBootState 7).setNat kBootTimeMs (bootMs % 2 ^ 32)).bootStores

/-- The stores that READY zeroes. -/
def stores (s : State) : State :=
  { s with ls := [], fs := [], acc := [], asTags := [], asSat := [], flips := [],
           boot := { s.boot with staged := [], forwarding := false } }

theorem told_readied : Told [kBootState, kBootTimeMs, kStageSource, kStageBytes] (stores s) (readied s bootMs) :=
  (((told_setNat (stores s) kBootState 7).trans (told_setNat _ kBootTimeMs (bootMs % 2 ^ 32))).trans
    (told_setNat _ kStageSource 0xFE)).trans (told_setNat _ kStageBytes 0)

theorem nat_readied : (readied s bootMs).nat kBootState = 7 ∧ (readied s bootMs).nat kBootTimeMs = bootMs % 2 ^ 32 ∧
    (readied s bootMs).nat kStageSource = 0xFE ∧ (readied s bootMs).nat kStageBytes = 0 := by
  have hlt : bootMs % 2 ^ 32 < 2 ^ 64 := by omega
  have hset : readied s bootMs = (((((stores s).setNat kBootState 7).setNat kBootTimeMs (bootMs % 2 ^ 32)).setNat
    kStageSource 0xFE).setNat kStageBytes 0) := rfl
  rw [hset]
  refine ⟨?_, ?_, ?_, State.nat_setNat_same _ (by decide)⟩
  · rw [State.nat_setNat_other _ _ (by decide), State.nat_setNat_other _ _ (by decide), State.nat_setNat_other _ _ (by decide),
      State.nat_setNat_same _ (by decide)]
  · rw [State.nat_setNat_other _ _ (by decide), State.nat_setNat_other _ _ (by decide), State.nat_setNat_same _ hlt]
  · rw [State.nat_setNat_other _ _ (by decide), State.nat_setNat_same _ (by decide)]

/-- The cores that the map in force uses. -/
def usedCores (s : State) : List Nat := s.bootMap.filterMap fun (x : Nat × Option Nat) => x.2

/-- What a core is recorded to be FENCED for. -/
def fencedAs (s : State) (c : Nat) : Option (Nat × Nat) := s.boot.fencedCores.find? fun x => x.1 == c

/-- A core that is neither used nor FENCED. -/
def spareCore (s : State) (c : Nat) : Bool := !(usedCores s).contains c && (fencedAs s c).isNone

/-- The entries of one core at READY. -/
def bootCore (s u : State) (c : Nat) : State :=
  match fencedAs s c with
  | some (_, cause) => (u.setNat (kCoreState c) 2).setNat (kFenceCause c) cause
  | none => if (usedCores s).contains c then u.setNat (kCoreState c) 1 else u

/-- The spares of one frond at READY. -/
def bootSpares (s u : State) (f : Nat) : State := u.setNat (kSparesLeft f) ((countFrom (9 * f) 9).filter (spareCore s)).length

/-- The core map in force, before the entries of the cores follow. -/
def mapped (s : State) : State := { s with coreMap := s.bootMap }

theorem bootCores_eq : s.bootCores =
    (((countFrom 0 16).foldl (bootSpares s) ((countFrom 0 144).foldl (bootCore s) (mapped s))).setNat kCoresActive
      (usedCores s).length).setNat kSpareCores ((countFrom 0 144).filter (spareCore s)).length := rfl

def coreSlots : List Nat := (countFrom 0 144).flatMap fun c => [kCoreState c, kFenceCause c]

def spareSlots : List Nat := (countFrom 0 16).map kSparesLeft

theorem told_bootCore {c : Nat} (hc : c < 144) : Told coreSlots u (bootCore s u c) := by
  have hmem : ∀ k, k ∈ [kCoreState c, kFenceCause c] → k ∈ coreSlots := fun k hk =>
    List.mem_flatMap.2 ⟨c, mem_countFrom.2 (by omega), hk⟩
  unfold bootCore
  split
  · exact ((told_setNat u _ 2).trans (told_setNat _ _ _)).mono fun k hk => hmem k (by simpa using hk)
  · exact .ite ((told_setNat u _ 1).mono fun k hk => hmem k (List.mem_cons.2 (.inl (List.mem_singleton.1 hk)))) (.refl ..)

theorem told_bootSpares {f : Nat} (hf : f < 16) : Told spareSlots u (bootSpares s u f) :=
  (told_setNat u _ _).mono fun k hk => by
    rw [List.mem_singleton.1 hk]
    exact List.mem_map.2 ⟨f, mem_countFrom.2 (by omega), rfl⟩

theorem told_cores : Told coreSlots u ((countFrom 0 144).foldl (bootCore s) u) :=
  told_foldl_mem _ (fun _ _ hc => told_bootCore (mem_countFrom.1 hc).2) u

theorem told_spares : Told spareSlots u ((countFrom 0 16).foldl (bootSpares s) u) :=
  told_foldl_mem _ (fun _ _ hf => told_bootSpares (mem_countFrom.1 hf).2) u

theorem told_bootCores : Told (coreSlots ++ spareSlots ++ [kCoresActive, kSpareCores]) (mapped s) s.bootCores := by
  rw [bootCores_eq]
  exact (((told_cores.trans told_spares).trans (told_setNat _ kCoresActive _)).trans (told_setNat _ kSpareCores _)).mono
    (by simp)

theorem bootMap_first (h : s.boot.savedMap = none) : s.bootMap = firstMap := by simp only [State.bootMap, h, Option.getD_none]

/-- The cores of the first map (R22). -/
theorem usedCores_first (h : s.boot.savedMap = none) : usedCores s = (countFrom 0 128).map fun i => 9 * (i / 8) + i % 8 := by
  rw [usedCores, bootMap_first h, firstMap, List.filterMap_map]
  exact congrFun List.filterMap_eq_map _

theorem spareCore_first (h : s.boot.savedMap = none) (hf : s.boot.fencedCores = []) (c : Nat) :
    spareCore s c = !((countFrom 0 128).map fun i => 9 * (i / 8) + i % 8).contains c := by
  rw [spareCore, usedCores_first h, fencedAs, hf]
  exact Bool.and_true _

theorem bootCore_first (hfenced : s.boot.fencedCores = []) (u : State) (c : Nat) :
    bootCore s u c = if (usedCores s).contains c then u.setNat (kCoreState c) 1 else u := by
  have hno : fencedAs s c = none := by rw [fencedAs, hfenced]; rfl
  simp only [bootCore, hno]

theorem kCoreState_injective {c d : Nat} : kCoreState c = kCoreState d ↔ c = d := by unfold kCoreState; omega

theorem kSparesLeft_injective {c d : Nat} : kSparesLeft c = kSparesLeft d ↔ c = d := by unfold kSparesLeft; omega

/-- The entries of the cores by the first map, where none is FENCED (R22, R698). -/
theorem bootCores_first (h : s.boot.savedMap = none) (hfenced : s.boot.fencedCores = []) :
    (∀ f sl, f < 16 → sl < 8 → s.bootCores.nat (kCoreState (9 * f + sl)) = 1) ∧
    (∀ f, f < 16 → s.bootCores.nat (kSparesLeft f) = 1) ∧ s.bootCores.nat kCoresActive = 128 ∧
    s.bootCores.nat kSpareCores = 16 := by
  have hspare : spareCore s = fun c => !((countFrom 0 128).map fun i => 9 * (i / 8) + i % 8).contains c :=
    funext (spareCore_first h hfenced)
  have hlow : ∀ k ∈ spareSlots ++ [kCoresActive] ++ [kSpareCores], k < 0x400000 := by decide
  have htotals : ∀ k ∈ [kCoresActive] ++ [kSpareCores], k < 0x200000 := by decide
  have hlen : (countFrom 0 128).length = 128 := by decide +kernel
  have hactive := told_setNat ((countFrom 0 16).foldl (bootSpares s) ((countFrom 0 144).foldl (bootCore s) (mapped s)))
    kCoresActive (usedCores s).length
  have hlast := hactive.trans (told_setNat _ kSpareCores ((countFrom 0 144).filter (spareCore s)).length)
  rw [bootCores_eq]
  refine ⟨fun f sl hf hsl => ?_, fun f hf => ?_, ?_, ?_⟩
  · have hall := told_spares.trans hlast
    rw [hall.nat fun hmem => absurd (hlow _ (by simpa using hmem)) (by unfold kCoreState; omega)]
    refine foldl_sets (g := fun u => u.nat (kCoreState (9 * f + sl))) (x := 9 * f + sl) _ (fun u => ?_) (fun u c _ hne => ?_)
      (mem_countFrom.2 (by omega)) _
    · have hin : (usedCores s).contains (9 * f + sl) = true := by
        rw [usedCores_first h, List.contains_iff_mem]
        exact List.mem_map.2 ⟨8 * f + sl, mem_countFrom.2 (by omega), by omega⟩
      rw [bootCore_first hfenced, if_pos hin]
      exact State.nat_setNat_same _ (by decide)
    · rw [bootCore_first hfenced]
      split
      · exact State.nat_setNat_other _ _ fun he => hne (kCoreState_injective.1 he).symm
      · rfl
  · rw [hlast.nat fun hmem => absurd (htotals _ hmem) (by unfold kSparesLeft; omega)]
    have hone : ∀ f < 16, ((countFrom (9 * f) 9).filter fun c =>
        !((countFrom 0 128).map fun i => 9 * (i / 8) + i % 8).contains c).length = 1 := by decide
    refine foldl_sets (g := fun u => u.nat (kSparesLeft f)) (x := f) _ (fun u => ?_) (fun u g _ hne => ?_) (mem_countFrom.2 (by omega)) _
    · rw [bootSpares, hspare, hone f hf]
      exact State.nat_setNat_same _ (by decide)
    · exact State.nat_setNat_other _ _ fun he => hne (kSparesLeft_injective.1 he).symm
  · rw [State.nat_setNat_other _ _ (by decide), usedCores_first h, List.length_map, hlen]
    exact State.nat_setNat_same _ (by decide)
  · have hsixteen : ((countFrom 0 144).filter fun c =>
        !((countFrom 0 128).map fun i => 9 * (i / 8) + i % 8).contains c).length = 16 := by decide +kernel
    rw [hspare, hsixteen]
    exact State.nat_setNat_same _ (by decide)

/-- A retired granule stays so (R739). -/
def retire (s : State) (g : Nat) : State :=
  if s.granuleOwner g < 64 then
    s.setOct kRetirePending (g / 8) (BitVec.ofNat 8 (s.oct kRetirePending (g / 8) ||| 2 ^ (g % 8)))
  else (s.setOct kGranuleOwner g 0xFD).setNat kHbmGranulesUsable (s.nat kHbmGranulesUsable - 1)

theorem booted_setOct (s : State) (k i : Nat) (b : Byte) : Booted [] s (s.setOct k i b) := ⟨rfl, fun _ _ => rfl⟩

theorem booted_retire (s : State) (g : Nat) : Booted [kHbmGranulesUsable] s (retire s g) := by
  unfold retire
  split
  · exact (booted_setOct ..).mono (List.nil_subset _)
  · exact (booted_setOct s kGranuleOwner g 0xFD).trans (told_setNat _ kHbmGranulesUsable _).booted

def cmuSlots : List Nat := (countFrom 0 16).map kCmuState

theorem bootRetired_eq : s.bootRetired =
    (s.boot.retired.foldl retire s).boot.cmuFailed.foldl (fun (s : State) f => s.setNat (kCmuState f) 1)
      (s.boot.retired.foldl retire s) := rfl

theorem booted_bootRetired (h : ∀ f, f ∈ s.boot.cmuFailed → f < 16) : Booted (kHbmGranulesUsable :: cmuSlots) s s.bootRetired := by
  have hretired := booted_foldl s.boot.retired (fun s g _ => booted_retire s g) s
  have hfailed : (s.boot.retired.foldl retire s).boot = s.boot := hretired.field State.boot
  rw [bootRetired_eq, hfailed]
  exact hretired.trans (booted_foldl _ (fun u f hf => (told_setNat u (kCmuState f) 1).booted.mono fun k hk => by
    rw [List.mem_singleton.1 hk]
    exact List.mem_map.2 ⟨f, mem_countFrom.2 (by have := h f hf; omega), rfl⟩) _)

/-- A port in BOOTLINK enters TRAINING (R695). -/
def trainPort (s : State) (n : Nat) : State := if s.nat (kPortState n) = 5 then s.portTrain n else s

theorem booted_portTrain (s : State) (n : Nat) : Booted [kPortState n] s (s.portTrain n) :=
  ⟨rfl, fun _ hk => State.reg_setNat_other (s.setPort n { s.port n with trainWin := 0, trained := false }) _ (List.ne_of_not_mem_cons hk)⟩

theorem booted_trainPort (s : State) (n : Nat) : Booted [kPortState n] s (trainPort s n) := by
  unfold trainPort
  split
  · exact booted_portTrain s n
  · exact .refl ..

theorem nat_trainPort (s : State) (n : Nat) : (trainPort s n).nat (kPortState n) =
    if s.nat (kPortState n) = 5 then 1 else s.nat (kPortState n) := by
  unfold trainPort
  split
  · exact State.nat_setNat_same _ (by decide)
  · rfl

theorem booted_bootPorts : Booted portSlots s s.bootPorts :=
  booted_foldl _ (fun u n hn => (booted_trainPort u n).mono fun k hk => by
    rw [List.mem_singleton.1 hk]
    exact mem_portSlots (mem_countFrom.1 hn).2) s

theorem port_bootPorts (hn : n < 16) : s.bootPorts.nat (kPortState n) =
    if s.nat (kPortState n) = 5 then 1 else s.nat (kPortState n) :=
  foldl_once (f := trainPort) (g := fun u => u.nat (kPortState n)) (h := fun v => if v = 5 then 1 else v) _
    (nodup_countFrom 16 0) (fun u => nat_trainPort u n)
    (fun u m _ hne => (booted_trainPort u m).nat fun h => hne (kPortState_injective.1 (List.mem_singleton.1 h)).symm)
    (mem_countFrom.2 (by omega)) s

def layerSlots : List Nat := (countFrom 0 256).map (kPrecLayer 0)

theorem told_layersDefault : Told layerSlots s (s.layersDefault 0) :=
  ⟨quiet_layersDefault, fun k hk => reg_layersDefault_other fun l hl he => hk (List.mem_map.2 ⟨l, mem_countFrom.2 (by omega), he.symm⟩)⟩

/-- The state after TIME_LOCK with the key that a receiver of records takes (R697). -/
def keyed (s : State) : State := { s with rkey := BitVec.setWidth 64 (Config.ackRkey s.free) }.takeFree

theorem booted_keyed (s : State) : Booted [] s (keyed s) := ⟨rfl, fun _ _ => rfl⟩

/-- The die at READY, before its cores' entries, and all that follows them. -/
def brought (s : State) : State := keyed ((s.bootRetired.bootPorts).layersDefault 0)

/-- The slots that READY changes after the entries of the cores. -/
def lateSlots : List Nat := kHbmGranulesUsable :: cmuSlots ++ portSlots ++ layerSlots

theorem booted_brought (h : ∀ f, f ∈ s.boot.cmuFailed → f < 16) : Booted lateSlots s (brought s) :=
  ((((booted_bootRetired h).trans booted_bootPorts).trans told_layersDefault.booted).trans (booted_keyed _)).mono (by
    rw [List.append_nil]
    exact fun _ h => h)

theorem stopAtReady_high (h : s.stop.asserted = false) : s.stopAtReady = s.setNat kStopState 0 := by
  simp only [State.stopAtReady, h, Bool.false_eq_true, if_false]

theorem exec_ready (h6 : s.bootState = 6) : ∃ a b c, exec (.ready bootMs) s =
    .next ((brought (readied s bootMs).bootCores).stopAtReady.dieEvent 0x1703 a b c) := ⟨_, _, _, if_neg (not_not.2 h6)⟩

theorem mapped_coreMap (s : State) : (mapped s).coreMap = s.bootMap := rfl

theorem nat_mapped (s : State) (k : Nat) : (mapped s).nat k = s.nat k := rfl

theorem stores_leaves (s : State) : (stores s).boot.savedMap = s.boot.savedMap ∧
    (stores s).boot.fencedCores = s.boot.fencedCores ∧ ∀ k, (stores s).nat k = s.nat k := ⟨rfl, rfl, fun _ => rfl⟩

/-- A port's state is no slot of a list that keeps out of the ports' range. -/
theorem port_notMem (hn : n < 16) (hl : ∀ k ∈ l, ¬ (0x500000 ≤ k ∧ k < 0x540000 ∧ k % 0x4000 = 1)) : kPortState n ∉ l :=
  fun hmem => hl _ hmem (by unfold kPortState; omega)

theorem port_brought (hn : n < 16) (hcmu : ∀ f, f ∈ s.boot.cmuFailed → f < 16) : (brought s).nat (kPortState n) =
    if s.nat (kPortState n) = 5 then 1 else s.nat (kPortState n) := by
  rw [brought, (booted_keyed _).nat List.not_mem_nil, told_layersDefault.nat (port_notMem hn (by decide +kernel)),
    port_bootPorts hn, (booted_bootRetired hcmu).nat (port_notMem hn (by decide +kernel))]

/-- The slots that READY changes after the entries of the cores, with its event. -/
def tailSlots : List Nat := lateSlots ++ ([kStopState] ++ logSlots)

/-- READY with STOP_N deasserted (R697, R698, Table 20.7). -/
theorem ready_leaves {a b c : Nat} (hstop : s.stop.asserted = false) (hcmu : ∀ f, f ∈ s.boot.cmuFailed → f < 16) :
    let t := (brought (readied s bootMs).bootCores).stopAtReady.dieEvent 0x1703 a b c
    t.bootState = 7 ∧ t.nat kBootTimeMs = bootMs % 2 ^ 32 ∧ t.nat kStageSource = 0xFE ∧ t.nat kStageBytes = 0 ∧
    t.nat kStopState = 0 ∧
    (∀ n, n < 16 → t.nat (kPortState n) = (if s.nat (kPortState n) = 5 then 1 else s.nat (kPortState n))) ∧
    (s.boot.savedMap = none → ∀ f sl, f < 16 → sl < 8 → t.coreAt f sl = some (9 * f + sl)) ∧
    (s.boot.savedMap = none → s.boot.fencedCores = [] →
      (∀ f sl, f < 16 → sl < 8 → t.nat (kCoreState (9 * f + sl)) = 1) ∧ (∀ f, f < 16 → t.nat (kSparesLeft f) = 1) ∧
      t.nat kCoresActive = 128 ∧ t.nat kSpareCores = 16) ∧
    t.ls = [] ∧ t.fs = [] ∧ t.acc = [] ∧ t.hbm = s.hbm ∧ workKept s t := by
  intro t
  obtain ⟨h7, hms, hsrc, hbytes⟩ := nat_readied (s := s) (bootMs := bootMs)
  have hready := told_readied (s := s) (bootMs := bootMs)
  have hcores := told_bootCores (s := readied s bootMs)
  have hboot : (readied s bootMs).boot = (stores s).boot := hready.boot
  obtain ⟨hsavedMap, hfencedCores, hstores⟩ := stores_leaves s
  have hsaved : (readied s bootMs).boot.savedMap = s.boot.savedMap := (congrArg BootSt.savedMap hboot).trans hsavedMap
  have hfences : (readied s bootMs).boot.fencedCores = s.boot.fencedCores :=
    (congrArg BootSt.fencedCores hboot).trans hfencedCores
  have hcmu' : ∀ f, f ∈ (readied s bootMs).bootCores.boot.cmuFailed → f < 16 := fun f hf =>
    hcmu f (congrArg BootSt.cmuFailed (hcores.boot.trans hboot) ▸ hf)
  have hlate := booted_brought hcmu'
  have hstop' : (brought (readied s bootMs).bootCores).stop = s.stop := hlate.stop.trans (hcores.stop.trans hready.stop)
  have hlog := told_dieEvent ((brought (readied s bootMs).bootCores).setNat kStopState 0) 0x1703 a b c
  have hend := (told_setNat (brought (readied s bootMs).bootCores) kStopState 0).trans hlog
  have ht : t = ((brought (readied s bootMs).bootCores).setNat kStopState 0).dieEvent 0x1703 a b c :=
    congrArg (fun u : State => u.dieEvent 0x1703 a b c) (stopAtReady_high ((congrArg StopSt.asserted hstop').trans hstop))
  rw [← ht] at hlog hend
  have hrest : Booted tailSlots (readied s bootMs).bootCores t := hlate.trans hend.booted
  have hnat : ∀ k, k ∉ tailSlots → k ∉ coreSlots ++ spareSlots ++ [kCoresActive, kSpareCores] →
      t.nat k = (readied s bootMs).nat k := fun k hk hk' => (hrest.nat hk).trans (hcores.nat hk')
  refine ⟨(hnat _ (by decide +kernel) (by decide +kernel)).trans h7, (hnat _ (by decide +kernel) (by decide +kernel)).trans hms,
    (hnat _ (by decide +kernel) (by decide +kernel)).trans hsrc, (hnat _ (by decide +kernel) (by decide +kernel)).trans hbytes,
    (hlog.nat (by decide)).trans (State.nat_setNat_same _ (by decide)), fun n hn => ?_, fun hmap f sl hf hsl => ?_,
    fun hmap hfenced => ?_, hrest.ls.trans (hcores.ls.trans hready.ls), hrest.fs.trans (hcores.fs.trans hready.fs),
    hrest.acc.trans (hcores.acc.trans hready.acc), hrest.hbm.trans (hcores.hbm.trans hready.hbm),
    hrest.inflight.trans (hcores.inflight.trans hready.inflight), hrest.rings.trans (hcores.rings.trans hready.rings),
    hrest.posted.trans (hcores.posted.trans hready.posted), hrest.jobs.trans (hcores.jobs.trans hready.jobs),
    hrest.aborts.trans (hcores.aborts.trans hready.aborts)⟩
  · rw [hend.nat (port_notMem hn (by decide +kernel)), port_brought hn hcmu', hcores.nat (port_notMem hn (by decide +kernel)),
      nat_mapped, hready.nat (port_notMem hn (by decide +kernel)), hstores]
  · have hfirst : ∀ f < 16, ∀ sl < 8, Tbl.get none firstMap (8 * f + sl) = some (9 * f + sl) := by decide +kernel
    have hm : t.coreMap = firstMap :=
      hrest.coreMap.trans (hcores.coreMap.trans ((mapped_coreMap _).trans (bootMap_first (hsaved.trans hmap))))
    rw [State.coreAt, hm]
    exact hfirst f hf sl hsl
  · obtain ⟨hstate, hspares, hactive, htotal⟩ := bootCores_first (s := readied s bootMs)
      (hsaved.trans hmap) (hfences.trans hfenced)
    have hcorek : ∀ k ∈ tailSlots, ¬ (0x400000 ≤ k ∧ k < 0x490000) := by decide +kernel
    have hsparek : ∀ k ∈ tailSlots, ¬ (0x210000 ≤ k ∧ k < 0x220000 ∧ k % 0x1000 = 0xC) := by decide +kernel
    refine ⟨fun f sl hf hsl => (hrest.nat fun hmem => hcorek _ hmem (by unfold kCoreState; omega)).trans (hstate f sl hf hsl),
      fun f hf => (hrest.nat fun hmem => hsparek _ hmem (by unfold kSparesLeft; omega)).trans (hspares f hf),
      (hrest.nat (by decide +kernel)).trans hactive, (hrest.nat (by decide +kernel)).trans htotal⟩

end Ready

/-- Settles O43: each step moves BOOT_STATE, and READY is followed stage by stage. -/
theorem bootStates : Obligations.BootStates := by
  refine ⟨?_, ?_, ?_, ?_, ?_, ?_, ?_, ?_, ?_⟩
  · intro s hup h0
    have hset := told_setNat s kBootState 1
    have hlog := told_dieEvent (s.setNat kBootState 1).emptyStage 0x1701 (s.nat kBootCause) 0 0
    obtain ⟨hempty, hhbm, hwork, hslots⟩ := emptyStage_leaves hlog (by decide) (by decide)
    refine ⟨_, if_pos ⟨hup, h0⟩, ?_, hempty, hhbm.trans hset.hbm, hset.quiet.workKept.trans hwork⟩
    exact (nat_of_reg (hslots _ (by decide))).trans (State.nat_setNat_same _ (by decide))
  · intro s sigOk r h2 hr
    have hlt : r < 2 ^ 64 := hr ▸ pkgCheck_lt ..
    refine ⟨fun h0 => ?_, fun hne => ?_⟩
    · exact (if_neg (not_not.2 h2)).trans (if_pos (hr.trans h0))
    · have hset := (told_setNat s kBootReason r).trans (told_setNat _ kBootState 1)
      have hlog := told_dieEvent (refusedPackage s r).emptyStage 0x1702 r (pkgVersion s.stageRead) (pkgSvn s.stageRead)
      obtain ⟨hempty, hhbm, hwork, hslots⟩ := emptyStage_leaves hlog (by decide) (by decide)
      refine ⟨_, exec_verifyDone_bad h2 hr hne, (nat_of_reg (hslots _ (by decide))).trans (State.nat_setNat_same _ (by decide)),
        (nat_of_reg (hslots _ (by decide))).trans ?_, hempty, hhbm.trans hset.hbm, hset.quiet.workKept.trans hwork⟩
      rw [refusedPackage, State.nat_setNat_other _ _ (by decide), State.nat_setNat_same _ hlt]
  · intro s h3
    obtain ⟨h4, hver, hsvn, htold⟩ := started_leaves s
    exact ⟨_, exec_fwStartDone h3 true, h4, hver, hsvn, htold.slots.mono (by decide), htold.quiet.memoryKept,
      htold.quiet.workKept⟩
  · intro s h3
    exact ⟨_, exec_fwStartDone h3 false, bootFail_leaves (by decide)⟩
  · intro s h4 hnone
    exact (exec_hbmTrainDone h4 true).trans (congrArg Host.Outcome.next (applySet_nil hnone))
  · intro s c rest k v h4 hsaved hregs hocts hslot
    obtain ⟨hboot, hrejects⟩ := persistSlot_ne hslot
    have hset := told_setNat s kBootState 5
    have h5 : (s.setNat kBootState 5).nat kBootState = 5 := State.nat_setNat_same _ (by decide)
    refine ⟨_, (exec_hbmTrainDone h4 true).trans (congrArg Host.Outcome.next
      (applySet_one (hset.persist.trans hsaved) hregs hocts)), ?_⟩
    cases c.accepts k v.toNat
    · refine ⟨(nat_of_reg (State.reg_bump_other _ _ _ (by decide))).trans h5, ?_, ?_⟩
      · exact (State.reg_bump_other _ _ _ hrejects).trans (hset.reg (by simpa using hboot))
      · exact (nat_bump_same _ _ _ (by decide)).trans (by rw [hset.nat (by decide)]; rfl)
    · refine ⟨(nat_of_reg (State.reg_setReg_other _ _ (Ne.symm hboot))).trans h5, State.reg_setReg_same .., ?_⟩
      exact (nat_of_reg (State.reg_setReg_other _ _ (Ne.symm hrejects))).trans (hset.nat (by decide))
  · intro s h4
    obtain ⟨h8, hreason, -, hmem, hwork⟩ := bootFail_leaves (s := s) (r := 8) (by decide)
    exact ⟨_, exec_hbmTrainDone h4 false, h8, hreason, hmem, hwork⟩
  · intro s h5
    exact if_pos h5
  · intro s bootMs h6 hstop hcmu
    obtain ⟨a, b, c, hexec⟩ := exec_ready (bootMs := bootMs) h6
    obtain ⟨h7, hms, hsrc, hbytes, hstop', hports, hmap, hfirst, hls, hfs, hacc, hhbm, hwork⟩ :=
      ready_leaves (s := s) (bootMs := bootMs) (a := a) (b := b) (c := c) hstop hcmu
    exact ⟨_, hexec, h7, hms, hls, hfs, hacc, hhbm, hsrc, hbytes, hstop', hports, hmap, hfirst, hwork⟩

end Sys2Proof.Safety

namespace Sys2Proof.Safety

open Sys2Proof.Machine

/-! ### The staging area (O44) -/

section Staging

variable {s t : State} {off : Nat} {bytes : List Byte}

/-- Bytes in the staging area, before STAGE_BYTES counts them. -/
def staged (s : State) (off : Nat) (l : List Byte) : State :=
  { s.fsPut (off / 2 ^ 22) (off % 2 ^ 22) l with
    boot := { s.boot with staged := (cutRows 256 (l.length + 1) off l).foldl (fun (t : Tbl Nat) x =>
      Tbl.set 0 t (x.1 / 256) (Tbl.get 0 t (x.1 / 256) ||| landedMask x.1 x.2.length)) s.boot.staged } }

theorem told_stageLand (s : State) (off : Nat) (l : List Byte) : Told [kStageBytes] (staged s off l) (s.stageLand off l) :=
  told_setNat (staged s off l) kStageBytes _

theorem staged_leaves (s : State) (off : Nat) (l : List Byte) : (staged s off l).fs = putBytes s.fs off l ∧
    (staged s off l).hbm = s.hbm ∧ (∀ k, (staged s off l).reg k = s.reg k) ∧ workKept s (staged s off l) := by
  have hoff : off / 2 ^ 22 * 2 ^ 22 + off % 2 ^ 22 = off := by omega
  refine ⟨?_, rfl, fun _ => rfl, rfl, rfl, rfl, rfl, rfl⟩
  show putBytes s.fs (off / 2 ^ 22 * 2 ^ 22 + off % 2 ^ 22) l = _
  rw [hoff]

/-- Bytes land in the staging area: they are written where they belong, and counted (R685). -/
theorem stageLand_leaves (s : State) (off : Nat) (l : List Byte) :
    (∀ i, i < l.length → Tbl.get 0 (s.stageLand off l).fs (off + i) = l.getD i 0) ∧
    (∀ a, (a < off ∨ off + l.length ≤ a) → Tbl.get 0 (s.stageLand off l).fs a = Tbl.get 0 s.fs a) ∧
    (s.stageLand off l).hbm = s.hbm ∧ slotsKept s (s.stageLand off l) [kStageBytes] ∧ workKept s (s.stageLand off l) := by
  obtain ⟨hfs, hhbm, hreg, hwork⟩ := staged_leaves s off l
  have htold := told_stageLand s off l
  have hput : (s.stageLand off l).fs = putBytes s.fs off l := htold.fs.trans hfs
  refine ⟨fun i hi => ?_, fun a ha => ?_, htold.hbm.trans hhbm, fun k hk => (htold.reg hk).trans (hreg k),
    hwork.trans htold.quiet.workKept⟩
  · rw [hput, getByte_putBytes_inside _ _ _ _ hi, List.getD_eq_getElem _ _ hi]
  · rw [hput, getByte_putBytes_outside _ _ _ _ ha]

/-- A write of the physical function into an area that no port has bound (R687). -/
theorem stageWrite_eq (hopen : s.stageOpen = true) (hne : bytes ≠ []) (hin : off + bytes.length ≤ stagingBytes) :
    s.stageWrite off bytes = if s.nat kStageSource < 16 then s.bump kStageDiscards
      else (s.setNat kStageSource 0xFF).stageLand off bytes := by
  have hall : bytes.take (stagingBytes - off) = bytes := List.take_of_length_le (by omega)
  have hgo : ¬ (s.stageOpen = false ∨ bytes = []) := by simp [hopen, hne]
  simp only [State.stageWrite, hall, if_neg hgo]

theorem emptyStage_kept (h : s.bootState = 1) : stageEmpty s.emptyStage ∧ s.emptyStage.bootState = 1 ∧
    slotsKept s s.emptyStage [kStageSource, kStageBytes] ∧ workKept s s.emptyStage := by
  obtain ⟨hempty, -, hwork, hslots⟩ := emptyStage_leaves (.refl s.emptyStage []) List.not_mem_nil List.not_mem_nil
  exact ⟨hempty, (nat_of_reg (hslots _ (by decide))).trans h, hslots, hwork⟩

theorem slotsKept.applied {l : List Nat} (h : slotsKept s t l) (who : Requester) : slotsKept s (t.applied who) l :=
  fun k hk => (State.reg_applied t who k).trans (h k hk)

theorem fwVerify_eq (l : EntLoc) : fwVerify s l =
    orRefuse (s.bootState == 1 && s.nat kStageSource == 0xFF) .state (s.setNat kBootState 2) := rfl

theorem fwClear_eq (l : EntLoc) : fwClear s l = orRefuse (s.bootState == 1) .state s.emptyStage := rfl

theorem writeFloorRaise_eq (v : Word) (l : EntLoc) : writeFloorRaise v s l =
    orRefuse (decide (s.nat kFwSvnFloor < v.toNat) && decide (v.toNat ≤ s.nat kFwSvn)) .range (s.setReg kFwSvnFloor v) := rfl

end Staging

/-- Settles O44: the staging area is emptied, or takes bytes from the source that it is bound to. -/
theorem stagingArea : Obligations.StagingArea := by
  refine ⟨?_, ?_, ?_, ?_, ?_, ?_⟩
  · intro s who h
    refine ⟨fun h1 hsrc => next_applied h fun l => ?_, fun hbad => next_refused h fun l => ?_⟩
    · rw [fwVerify_eq, orRefuse_true (by simp [h1, hsrc])]
    · rw [fwVerify_eq, orRefuse_false (by simp; tauto)]
  · intro s who h
    refine ⟨fun h1 => ?_, fun hbad => next_refused h fun l => by rw [fwClear_eq, orRefuse_false (by simpa using hbad)]⟩
    obtain ⟨hempty, hboot, hslots, hwork⟩ := emptyStage_kept h1
    exact ⟨_, next_applied (u := s.emptyStage) h fun l => by rw [fwClear_eq, orRefuse_true (by simp [h1])], hempty, hboot, hslots.applied who, hwork⟩
  · intro s who v h
    refine ⟨fun hlo hhi => ?_, fun hbad => next_refused h fun l => ?_⟩
    · have hset := told_setReg s kFwSvnFloor v
      exact ⟨_, next_applied h fun l => by rw [writeFloorRaise_eq, orRefuse_true (by simp [hlo, hhi])],
        (State.reg_applied ..).trans (State.reg_setReg_same ..), hset.slots.applied who,
        hset.quiet.memoryKept.applied who, hset.quiet.workKept.applied who⟩
    · rw [writeFloorRaise_eq, orRefuse_false (by simp; omega)]
  · intro s off bytes hlink hopen hne hin
    have hexec : exec (.stagingWrite 0 off bytes) s = .next (s.stageWrite off bytes) := if_pos ⟨rfl, hlink⟩
    rw [hexec, stageWrite_eq hopen hne hin]
    refine ⟨fun hsrc => ?_, fun hsrc => congrArg Host.Outcome.next (if_pos hsrc)⟩
    obtain ⟨hinside, houtside, hhbm, hslots, hwork⟩ := stageLand_leaves (s.setNat kStageSource 0xFF) off bytes
    have hset := told_setNat s kStageSource 0xFF
    exact ⟨_, congrArg Host.Outcome.next (if_neg (Nat.not_lt.2 hsrc)),
      (nat_of_reg (hslots _ (by decide))).trans (State.nat_setNat_same _ (by decide)), hinside,
      fun a ha => (houtside a ha).trans (congrArg (Tbl.get 0 · a) hset.fs), hhbm.trans hset.hbm, hset.slots.trans hslots,
      hset.quiet.workKept.trans hwork⟩
  · intro s fn off bytes hfn
    exact if_neg fun h => hfn h.1
  · intro s h1 hsrc
    exact ⟨_, if_pos ⟨h1, hsrc⟩, emptyStage_kept h1⟩

end Sys2Proof.Safety

namespace Sys2Proof.Safety

open Sys2Proof.Machine

/-! ### Packages between modules (O45) -/

section Proxy

variable {s t u : State} {off port n : Nat} {bytes : List Byte}

theorem kept_foldl {α : Type} {f : State → α → State} (hf : ∀ s x, memoryKept s (f s x) ∧ workKept s (f s x)) (l : List α) :
    ∀ s, memoryKept s (l.foldl f s) ∧ workKept s (l.foldl f s) := by
  induction l with
  | nil => exact fun s => ⟨(Quiet.refl s).memoryKept, (Quiet.refl s).workKept⟩
  | cons x l ih => exact fun s => ⟨(hf s x).1.trans (ih (f s x)).1, (hf s x).2.trans (ih (f s x)).2⟩

/-- A whole chunk is one row of the staging area. -/
theorem cutRows_chunk {l : List Byte} (hlen : l.length = 256) (off : Nat) :
    cutRows 256 (l.length + 1) (256 * off) l = [(256 * off, l)] := by
  obtain ⟨b, r, rfl⟩ : ∃ b r, l = b :: r := List.exists_cons_of_length_pos (by omega)
  have hmod : 256 - 256 * off % 256 = 256 := by omega
  have hdrop : (b :: r).drop 256 = [] := List.drop_eq_nil_of_le (by omega)
  have htake : (b :: r).take 256 = b :: r := List.take_of_length_le (by omega)
  rw [cutRows, hmod, hdrop, htake, hlen]
  · rfl
  · exact List.cons_ne_nil b r

/-- A chunk that lands whole is marked whole (R689). -/
theorem staged_chunk {l : List Byte} (hlen : l.length = 256) {j : Nat} (hj : j < 256) :
    bitOf (Tbl.get 0 (s.stageLand (256 * off) l).boot.staged off) j = true := by
  have hboot : (s.stageLand (256 * off) l).boot.staged = Tbl.set 0 s.boot.staged (256 * off / 256)
      (Tbl.get 0 s.boot.staged (256 * off / 256) ||| landedMask (256 * off) l.length) := by
    rw [(told_stageLand ..).boot, staged, cutRows_chunk hlen]
    rfl
  have hdiv : 256 * off / 256 = off := by omega
  have hmask : (landedMask (256 * off) l.length).testBit j = true := by
    have hmod : 256 * off % 256 = 0 := by omega
    rw [landedMask, hlen, hmod, Nat.pow_zero, Nat.mul_one, Nat.testBit_two_pow_sub_one]
    exact decide_eq_true hj
  rw [hboot, hdiv, Tbl.get_set_same, bitOf_eq_testBit, Nat.testBit_or, hmask, Bool.or_true]

/-- Whether a package is whole depends on what has landed. -/
theorem packageWhole_congr (hboot : u.boot = s.boot) (hfs : u.fs = s.fs) : u.packageWhole = s.packageWhole := by
  have hchunk : ∀ k, u.chunkLanded k = s.chunkLanded k := fun k => by simp only [State.chunkLanded, hboot]
  have hread : u.stageRead = s.stageRead := by
    funext off n
    simp only [State.stageRead, hfs]
  have hchunks : u.chunkLanded = s.chunkLanded := funext hchunk
  simp only [State.packageWhole, hchunks, hread]

/-- The bytes of a PROXY cell that is accepted have landed. -/
def proxied (s : State) (port off : Nat) (l : List Byte) : State := (s.setNat kStageSource port).stageLand (256 * off) l

theorem proxyIn_landed (hsrc : s.nat kStageSource = 0xFE ∨ s.nat kStageSource = port) (h1 : s.bootState = 1) (l : List Byte) :
    s.proxyIn port off l =
      if (proxied s port off l).packageWhole then (proxied s port off l).setNat kBootState 2 else proxied s port off l := by
  have hgo : ¬ (s.nat kStageSource ≠ 0xFE ∧ s.nat kStageSource ≠ port) := by tauto
  exact (if_neg hgo).trans (if_neg (not_not.2 h1))

/-- A chunk from the bound source lands, and a package that is whole is verified (R689). -/
theorem proxyIn_leaves (hsrc : s.nat kStageSource = 0xFE ∨ s.nat kStageSource = port) (h1 : s.bootState = 1) (hport : port < 16)
    {l : List Byte} (hlen : l.length = 256) :
    let t := s.proxyIn port off l
    t.nat kStageSource = port ∧ (∀ i, i < 256 → Tbl.get 0 t.fs (256 * off + i) = l.getD i 0) ∧
    (∀ a, a / 256 ≠ off → Tbl.get 0 t.fs a = Tbl.get 0 s.fs a) ∧
    (∀ j, j < 256 → bitOf (Tbl.get 0 t.boot.staged off) j = true) ∧ t.bootState = (if t.packageWhole then 2 else 1) ∧
    slotsKept s t [kStageSource, kStageBytes, kBootState] ∧ t.hbm = s.hbm ∧ workKept s t := by
  intro t
  have ht : t = if (proxied s port off l).packageWhole then (proxied s port off l).setNat kBootState 2
      else proxied s port off l := proxyIn_landed hsrc h1 l
  have htail : Told [kBootState] (proxied s port off l) t := by
    rw [ht]
    exact .ite (told_setNat ..) (.refl ..)
  obtain ⟨hinside, houtside, hhbm, hslots, hwork⟩ := stageLand_leaves (s.setNat kStageSource port) (256 * off) l
  have hset := told_setNat s kStageSource port
  have hboot : (proxied s port off l).bootState = 1 := (nat_of_reg (hslots _ (by decide))).trans ((hset.nat (by decide)).trans h1)
  have hbytes : ∀ a, Tbl.get 0 t.fs a = Tbl.get 0 (proxied s port off l).fs a := fun a => congrArg (Tbl.get 0 · a) htail.fs
  refine ⟨?_, fun i hi => (hbytes _).trans (hinside i (by omega)), fun a ha => ?_, fun j hj => ?_, ?_,
    (hset.slots.trans hslots).trans htail.slots, htail.hbm.trans (hhbm.trans hset.hbm),
    (hset.quiet.workKept.trans hwork).trans htail.quiet.workKept⟩
  · rw [htail.nat (by decide), proxied, nat_of_reg (hslots _ (by decide)), State.nat_setNat_same _ (by omega)]
  · exact ((hbytes a).trans (houtside a (by omega))).trans (congrArg (Tbl.get 0 · a) hset.fs)
  · rw [htail.boot]
    exact staged_chunk hlen hj
  · rw [packageWhole_congr htail.boot htail.fs, ht]
    cases (proxied s port off l).packageWhole
    · exact hboot
    · exact State.nat_setNat_same _ (by decide)

theorem proxyIn_discarded (h0 : s.nat kStageSource ≠ 0xFE) (hne : s.nat kStageSource ≠ port) (l : List Byte) :
    s.proxyIn port off l = s.bump kStageDiscards := if_pos ⟨h0, hne⟩

/-- A cell on a port in BOOTLINK that is a whole chunk of a package (R689). -/
theorem exec_proxyCellReceived (hup : s.dieUp = true) (hport : port < 16) (hlink : s.nat (kPortState port) = 5)
    (hok : cellOk bytes = true) (h6 : byteField bytes 0 1 % 16 = 6) (hlast : byteField bytes 9 1 = 255)
    (hin : 256 * byteField bytes 10 4 < stagingBytes) : exec (.proxyCellReceived port bytes) s =
      .next ((s.wrapAdd (kCellsRx port)).proxyIn port (byteField bytes 10 4) (bytes.drop 16)) := by
  have hgo : ¬ (s.dieUp = false ∨ 16 ≤ port ∨ s.nat (kPortState port) ≠ 5) := by
    rw [hup, hlink]
    simp
    exact hport
  exact (if_neg hgo).trans ((if_neg (by simp [hok])).trans (if_pos ⟨h6, hlast, hin⟩))

theorem exec_proxyCellReceived_bad (hup : s.dieUp = true) (hport : port < 16) (hlink : s.nat (kPortState port) = 5)
    (hbad : cellOk bytes = false) : exec (.proxyCellReceived port bytes) s = .next (s.bump (kCellErrors port)) := by
  have hgo : ¬ (s.dieUp = false ∨ 16 ≤ port ∨ s.nat (kPortState port) ≠ 5) := by
    rw [hup, hlink]
    simp
    exact hport
  exact (if_neg hgo).trans (if_pos hbad)

theorem length_of_cellOk (h : cellOk bytes = true) : bytes.length = 272 := by
  simp only [cellOk, Bool.and_eq_true, beq_iff_eq] at h
  tauto

/-- One PROXY cell goes out and is counted. -/
def proxyCell (n total : Nat) (rd : Nat → Nat → List Byte) (s : State) (i : Nat) : State :=
  (s.emit (.cell n (formCell 6 0 0 (s.frameNo % 65536) 0 255 i (i + 1 == (total + 255) / 256) (rd (256 * i) 256)))).wrapAdd (kCellsTx n)

theorem proxyPass_eq (total : Nat) (rd : Nat → Nat → List Byte) :
    s.proxyPass n total rd = (countFrom 0 ((total + 255) / 256)).foldl (proxyCell n total rd) s := rfl

theorem told_proxyCell (total : Nat) (rd : Nat → Nat → List Byte) (i : Nat) : Told [kCellsTx n] s (proxyCell n total rd s i) :=
  (told_emit s _).trans (told_wrapAdd _ (kCellsTx n) 1 64)

theorem told_proxyPass (total : Nat) (rd : Nat → Nat → List Byte) : Told [kCellsTx n] s (s.proxyPass n total rd) :=
  told_foldl (fun _ i => told_proxyCell total rd i) _ s

theorem nat_wrapAdd_same (s : State) (k n : Nat) : (s.wrapAdd k n).nat k = (s.nat k + n) % 2 ^ 64 :=
  State.nat_setNat_same s (Nat.mod_lt _ (Nat.two_pow_pos _))

/-- A run that counts one at each step. -/
theorem nat_foldl_count {α : Type} {f : State → α → State} {k m : Nat} (hf : ∀ s x, (f s x).nat k = (s.nat k + m) % 2 ^ 64)
    (l : List α) : ∀ s, (l.foldl f s).nat k = (s.nat k + l.length * m) % 2 ^ 64 := by
  induction l with
  | nil =>
    exact fun s => by
      rw [List.foldl_nil, List.length_nil, Nat.zero_mul, Nat.add_zero, Nat.mod_eq_of_lt]
      exact BitVec.isLt _
  | cons x l ih =>
    intro s
    rw [List.foldl_cons, ih, hf, Nat.mod_add_mod, List.length_cons, Nat.add_mul]
    congr 1
    omega

theorem length_countFrom (n : Nat) : ∀ a, (countFrom a n).length = n := by
  induction n with
  | zero => exact fun a => rfl
  | succ n ih => exact fun a => congrArg (· + 1) (ih (a + 1))

/-- A pass counts the cells of its package (R688). -/
theorem nat_proxyPass (total : Nat) (rd : Nat → Nat → List Byte) :
    (s.proxyPass n total rd).nat (kCellsTx n) = (s.nat (kCellsTx n) + (total + 255) / 256) % 2 ^ 64 := by
  have hcell : ∀ s i, (proxyCell n total rd s i).nat (kCellsTx n) = (s.nat (kCellsTx n) + 1) % 2 ^ 64 := fun s i =>
    nat_wrapAdd_same _ (kCellsTx n) 1
  rw [proxyPass_eq, nat_foldl_count hcell, length_countFrom, Nat.mul_one]

/-- What a pass to a port depends on and changes. -/
def passView (n : Nat) (u : State) : Tbl Byte × Nat × Nat × PortSt × Nat :=
  (u.fs, u.nat (kPortState n), u.nat kProxyPasses, u.port n, u.nat (kCellsTx n))

/-- One pass of the package in the staging area to a port that is due one (R691). -/
def forwardTo (u : State) (n : Nat) : State :=
  if u.nat (kPortState n) = 5 ∧ (u.port n).peerReady = false ∧ (u.port n).passes < u.nat kProxyPasses then
    (u.setPort n { u.port n with passes := (u.port n).passes + 1 }).proxyPass n (pkgNat u.stageRead 12 4) u.stageRead
  else u

/-- The view after a pass. -/
def afterPass (x : Tbl Byte × Nat × Nat × PortSt × Nat) : Tbl Byte × Nat × Nat × PortSt × Nat :=
  let (fs, st, k, p, c) := x
  if st = 5 ∧ p.peerReady = false ∧ p.passes < k then
    (fs, st, k, { p with passes := p.passes + 1 }, (c + (pkgNat (getBytes fs) 12 4 + 255) / 256) % 2 ^ 64)
  else (fs, st, k, p, c)

theorem kept_setPort (s : State) (n : Nat) (v : PortSt) : memoryKept s (s.setPort n v) ∧ workKept s (s.setPort n v) :=
  ⟨⟨fun _ => rfl, fun _ => rfl, fun _ => rfl, fun _ => rfl, fun _ _ => rfl, fun _ => rfl, fun _ => rfl⟩, rfl, rfl, rfl, rfl, rfl⟩

theorem kept_forwardTo (u : State) (n : Nat) : memoryKept u (forwardTo u n) ∧ workKept u (forwardTo u n) := by
  unfold forwardTo
  split
  · obtain ⟨hmem, hwork⟩ := kept_setPort u n { u.port n with passes := (u.port n).passes + 1 }
    have htold := told_proxyPass (s := u.setPort n { u.port n with passes := (u.port n).passes + 1 }) (n := n)
      (pkgNat u.stageRead 12 4) u.stageRead
    exact ⟨hmem.trans htold.quiet.memoryKept, hwork.trans htold.quiet.workKept⟩
  · exact ⟨(Quiet.refl u).memoryKept, (Quiet.refl u).workKept⟩

theorem Told.ports {l : List Nat} (h : Told l s t) : t.ports = s.ports := h.quiet.field State.ports

theorem port_of_ports (h : u.ports = s.ports) (n : Nat) : u.port n = s.port n := by simp only [State.port, h]

theorem port_setPort_other (s : State) {n m : Nat} (v : PortSt) (h : m ≠ n) : (s.setPort n v).port m = s.port m :=
  Tbl.get_set_other _ _ _ _ h

theorem passView_forwardTo (u : State) (n : Nat) : passView n (forwardTo u n) = afterPass (passView n u) := by
  unfold forwardTo afterPass passView
  dsimp only
  split
  · have htold := told_proxyPass (s := u.setPort n { u.port n with passes := (u.port n).passes + 1 }) (n := n)
      (pkgNat u.stageRead 12 4) u.stageRead
    have hne : kPortState n ∉ [kCellsTx n] := fun h => by
      have := List.mem_singleton.1 h
      unfold kPortState kCellsTx at this
      omega
    have hne' : kProxyPasses ∉ [kCellsTx n] := fun h => by
      have := List.mem_singleton.1 h
      unfold kProxyPasses kCellsTx at this
      omega
    rw [htold.fs, htold.nat hne, htold.nat hne', port_of_ports htold.ports, port_setPort_same, nat_proxyPass]
    rfl
  · rfl

theorem passView_other (u : State) {m : Nat} (h : m ≠ n) : passView n (forwardTo u m) = passView n u := by
  unfold forwardTo passView
  split
  · have htold := told_proxyPass (s := u.setPort m { u.port m with passes := (u.port m).passes + 1 }) (n := m)
      (pkgNat u.stageRead 12 4) u.stageRead
    have hne : ∀ k, k % 0x4000 ≠ 0x11 ∨ k / 0x4000 ≠ m + 0x500010 / 0x4000 → k ∉ [kCellsTx m] := fun k hk h => by
      have := List.mem_singleton.1 h
      unfold kCellsTx at this
      omega
    have hstate := hne (kPortState n) (.inl (by unfold kPortState; omega))
    have hpasses := hne kProxyPasses (.inl (by decide))
    have hcells := hne (kCellsTx n) (.inr (by unfold kCellsTx; omega))
    rw [htold.fs, htold.nat hstate, htold.nat hpasses, htold.nat hcells, port_of_ports htold.ports,
      port_setPort_other _ _ (Ne.symm h)]
    rfl
  · rfl

/-- What every port sees of the passes to all ports. -/
theorem passView_forwarded (s : State) (hn : n < 16) : passView n ((countFrom 0 16).foldl forwardTo s) = afterPass (passView n s) :=
  foldl_once (f := forwardTo) (g := passView n) (x := n) _ (nodup_countFrom 16 0) (passView_forwardTo · n) (fun u _ _ hne => passView_other u hne) (mem_countFrom.2 (by omega)) s

theorem exec_proxyForward (hfwd : s.boot.forwarding = true) (hmode : s.nat kProxyMode = 1) (hlo : 3 ≤ s.bootState)
    (hhi : s.bootState ≤ 6) : exec .proxyForward s = .next ((countFrom 0 16).foldl forwardTo s) :=
  if_pos ⟨hfwd, hmode, by simp [inRange, hlo, hhi]⟩

/-- The passes of a PROXY_SEND are under way (R692). -/
def sending (s : State) : State := { s with boot := { s.boot with proxySending := true } }

/-- The passes of a PROXY_SEND on one port. -/
def sendTo (v : Word) (total : Nat) (u : State) (n : Nat) : State :=
  if bitOf v.toNat n && (u.nat (kPortState n) == 5 || (u.nat (kPortState n) == 1 && !(u.port n).peerReady)) then
    (countFrom 0 (u.nat kProxyPasses)).foldl (fun (s : State) _ => s.proxyPass n total s.proxyRead) u
  else u

theorem writeProxySend_ok (v : Word) (l : EntLoc) (h : s.boot.proxySending = false) : writeProxySend v s l =
    .ok ((countFrom 0 16).foldl (sendTo v (min (pkgNat (sending s).proxyRead 12 4) 25165824)) (sending s)) := by
  exact if_neg (by rw [h]; decide)

theorem told_sendTo_passes (u : State) (total : Nat) (l : List Nat) :
    Told [kCellsTx n] u (l.foldl (fun (s : State) _ => s.proxyPass n total s.proxyRead) u) :=
  told_foldl (fun s _ => told_proxyPass total s.proxyRead) l u

theorem nat_sendTo_passes (u : State) (total c : Nat) :
    ((countFrom 0 c).foldl (fun (s : State) _ => s.proxyPass n total s.proxyRead) u).nat (kCellsTx n) =
      (u.nat (kCellsTx n) + c * ((total + 255) / 256)) % 2 ^ 64 := by
  have hpass : ∀ (s : State) (_ : Nat), (s.proxyPass n total s.proxyRead).nat (kCellsTx n) =
      (s.nat (kCellsTx n) + (total + 255) / 256) % 2 ^ 64 := fun s _ => nat_proxyPass total s.proxyRead
  rw [nat_foldl_count hpass, length_countFrom]

/-- With one port named, the passes go to that port. -/
theorem foldl_sendTo_one {v : Word} {total : Nat} (hn : n < 16) (hother : ∀ m, m < 16 → m ≠ n → bitOf v.toNat m = false) (u : State) :
    (countFrom 0 16).foldl (sendTo v total) u = sendTo v total u n :=
  foldl_once (f := sendTo v total) (g := id) (h := fun u => sendTo v total u n) _ (nodup_countFrom 16 0) (fun _ => rfl)
    (fun u m hm hne => if_neg (by rw [hother m (by have := (mem_countFrom.1 hm).2; omega) hne]; simp)) (mem_countFrom.2 (by omega)) u

theorem kept_sending (s : State) : (∀ k, (sending s).reg k = s.reg k) ∧ (sending s).boot.proxySending = true ∧
    memoryKept s (sending s) ∧ workKept s (sending s) :=
  ⟨fun _ => rfl, rfl, ⟨fun _ => rfl, fun _ => rfl, fun _ => rfl, fun _ => rfl, fun _ _ => rfl, fun _ => rfl, fun _ => rfl⟩,
    rfl, rfl, rfl, rfl, rfl⟩

theorem proxyRead_sending (s : State) : (sending s).proxyRead = s.proxyRead := by
  funext off n
  rfl

end Proxy

/-- Settles O45: an accepted chunk lands whole, and a pass counts its cells on each port that takes it. -/
theorem proxyDownload : Obligations.ProxyDownload := by
  refine ⟨?_, ?_, ?_, ?_, ?_⟩
  · intro s port bytes hup hport hlink hok h6 hlast hin h1
    have hexec := exec_proxyCellReceived hup hport hlink hok h6 hlast hin
    have hrx := told_wrapAdd s (kCellsRx port) 1 64
    have hrxk : ∀ k, k < 0x500000 → k ∉ [kCellsRx port] := fun k hk h => by
      have := List.mem_singleton.1 h
      unfold kCellsRx at this
      omega
    have hsrc' : (s.wrapAdd (kCellsRx port)).nat kStageSource = s.nat kStageSource := hrx.nat (hrxk _ (by decide))
    refine ⟨fun hsrc => ?_, fun h0 hne => ?_⟩
    · have h1' : (s.wrapAdd (kCellsRx port)).bootState = 1 := (hrx.nat (hrxk _ (by decide))).trans h1
      have hlen : (bytes.drop 16).length = 256 := by rw [List.length_drop, length_of_cellOk hok]
      obtain ⟨hbound, hinside, houtside, hstaged, hboot, hslots, hhbm, hwork⟩ := proxyIn_leaves
        (off := byteField bytes 10 4) (by rwa [hsrc']) h1' hport hlen
      refine ⟨_, hexec, hbound, fun i hi => (hinside i hi).trans ?_,
        fun a ha => (houtside a ha).trans (congrArg (Tbl.get 0 · a) hrx.fs), hstaged, hboot,
        (hrx.slots.trans hslots).mono (by simp), hhbm.trans hrx.hbm, hrx.quiet.workKept.trans hwork⟩
      rw [List.getD_eq_getElem?_getD, List.getD_eq_getElem?_getD, List.getElem?_drop]
    · rw [hexec, proxyIn_discarded (by rw [hsrc']; exact h0) (by rw [hsrc']; exact hne)]
      have hboth := hrx.trans (told_bump (s.wrapAdd (kCellsRx port)) kStageDiscards 1 32)
      refine ⟨_, rfl, hboth.slots.mono (by simp), ?_, hboth.quiet.memoryKept, hboth.quiet.workKept⟩
      rw [nat_bump_same _ _ _ (by decide), hrx.nat (hrxk _ (by decide))]
  · intro s port bytes hup hport hlink hbad
    exact exec_proxyCellReceived_bad hup hport hlink hbad
  · intro s hfwd hmode hlo hhi
    obtain ⟨hmem, hwork⟩ := kept_foldl kept_forwardTo (countFrom 0 16) s
    refine ⟨_, exec_proxyForward hfwd hmode hlo hhi, fun n hn h5 hpeer hless => ?_, fun n hn hbad => ?_, hmem, hwork⟩
    · have hview := passView_forwarded s hn
      rw [passView, afterPass, passView] at hview
      dsimp only at hview
      rw [if_pos ⟨h5, hpeer, hless⟩] at hview
      simp only [Prod.mk.injEq] at hview
      obtain ⟨-, -, -, hp, hc⟩ := hview
      rw [hp, hc]
      exact ⟨rfl, rfl⟩
    · have hview := passView_forwarded s hn
      have hgo : ¬ (s.nat (kPortState n) = 5 ∧ (s.port n).peerReady = false ∧ (s.port n).passes < s.nat kProxyPasses) := by
        rintro ⟨h5, hpeer, hless⟩
        obtain h | h | h := hbad
        · exact h h5
        · simp [hpeer] at h
        · omega
      rw [passView, afterPass, passView] at hview
      dsimp only at hview
      rw [if_neg hgo] at hview
      simp only [Prod.mk.injEq] at hview
      obtain ⟨-, -, -, hp, hc⟩ := hview
      exact ⟨hp, hc⟩
  · intro s who v h
    refine ⟨fun hbusy => next_refused h fun l => if_pos hbusy, fun hidle h5 hv => ?_⟩
    subst hv
    obtain ⟨hreg, hbusy, hmem, hwork⟩ := kept_sending s
    have htotal : min (pkgNat (sending s).proxyRead 12 4) 25165824 = min (pkgNat s.proxyRead 12 4) 25165824 := by
      rw [proxyRead_sending]
    have hmask : ∀ m, m < 16 → m ≠ 3 → bitOf (8 : Word).toNat m = false := by decide
    have hgo : (bitOf (8 : Word).toNat 3 && ((sending s).nat (kPortState 3) == 5 ||
        ((sending s).nat (kPortState 3) == 1 && !((sending s).port 3).peerReady))) = true := by
      rw [show (sending s).nat (kPortState 3) = 5 from (nat_of_reg (hreg _)).trans h5]
      rfl
    have hlist := told_sendTo_passes (n := 3) (sending s) (min (pkgNat s.proxyRead 12 4) 25165824)
      (countFrom 0 ((sending s).nat kProxyPasses))
    have hcount := nat_sendTo_passes (n := 3) (sending s) (min (pkgNat s.proxyRead 12 4) 25165824)
      ((sending s).nat kProxyPasses)
    have hsent : writeProxySend 8 s = fun _ => .ok ((countFrom 0 ((sending s).nat kProxyPasses)).foldl
        (fun (u : State) _ => u.proxyPass 3 (min (pkgNat s.proxyRead 12 4) 25165824) u.proxyRead) (sending s)) := by
      funext l
      rw [writeProxySend_ok 8 l hidle, htotal, foldl_sendTo_one (by decide) hmask]
      exact congrArg Except.ok (if_pos hgo)
    refine ⟨_, next_applied h fun l => congrFun hsent l, (congrArg BootSt.proxySending hlist.boot).trans hbusy,
      fun k hk => (State.reg_applied ..).trans ((hlist.reg hk).trans (hreg k)), (nat_of_reg (State.reg_applied ..)).trans ?_,
      (hmem.trans hlist.quiet.memoryKept).applied who, (hwork.trans hlist.quiet.workKept).applied who⟩
    rw [hcount, nat_of_reg (hreg _), nat_of_reg (hreg _)]
  · exact fun s => rfl

end Sys2Proof.Safety

namespace Sys2Proof.Safety

open Sys2Proof.Machine

/-! ### Faults of cores and CMUs (O46) -/

section Faults

variable {s t : State} {c f sl cause : Nat} {who : Requester} {v : Word}

/-- The recovery that a fault of a core of an owned slot begins (R710, R717). -/
def recoveryFor (s : State) (c f sl cause : Nat) : Recovery :=
  { frond := f, slot := sl, core := c, part := s.slotOwner f sl, frame := s.tb.ticks, mark := s.tb.ticks, cause := cause,
    runs := s.windowRuns f sl (s.slotOwner f sl), count := (s.windowRuns f sl (s.slotOwner f sl)).length }

/-- A descriptor that is to be reissued has not ended. -/
def reopen (s : State) (r : RecRun) : State :=
  if r.reissue then s.modDesc r.desc.id fun d => { d with ended := false, status := 0, torn := false } else s

/-- The slot's recovery is under way. -/
def stopped (s : State) (c f sl cause : Nat) : State := { s with recov := s.recov ++ [recoveryFor s c f sl cause] }

/-- The state without its committed descriptors. -/
def noWork (s : State) : State := { s with inflight := [] }

theorem noWork_reopen (s : State) (r : RecRun) : noWork (reopen s r) = noWork s := by
  unfold reopen
  split <;> rfl

theorem noWork_foldl_reopen (l : List RecRun) (s : State) : noWork (l.foldl reopen s) = noWork s :=
  foldl_keeps (g := noWork) l s fun s r _ => noWork_reopen s r

/-- A fault of a core whose slot has no recovery under way (R710, R711). -/
theorem coreFault_first (hslot : s.coreSlot c = some (f, sl)) (hstop : s.slotStopped f sl = false) (hown : s.slotOwner f sl < 64)
    (hra : s.runahead = []) : s.coreFault c cause = (s.windowRuns f sl (s.slotOwner f sl)).foldl reopen
      ((stopped s c f sl cause).setNat (kRecoveryState (s.slotOwner f sl)) 1) := by
  have hnone : s.recov.find? (fun x => x.frond == f && x.slot == sl && !x.done) = none := by
    rw [List.find?_eq_none]
    intro r hr h
    exact Bool.false_ne_true (hstop.symm.trans (List.any_eq_true.2 ⟨r, hr, h⟩))
  have hnosquash := squashPart_nil (s := stopped s c f sl cause) (p := s.slotOwner f sl) hra (fun _ => true)
    (kSquashCore (s.slotOwner f sl))
  simp only [State.coreFault, hslot, hnone, hown, if_true]
  show List.foldl reopen (((stopped s c f sl cause).squashPart _ _ _).setNat _ 1) _ = _
  rw [hnosquash]

/-- What a first fault of a core leaves. -/
theorem coreFault_leaves (hslot : s.coreSlot c = some (f, sl)) (hstop : s.slotStopped f sl = false) (hown : s.slotOwner f sl < 64)
    (hra : s.runahead = []) : (s.coreFault c cause).recov = s.recov ++ [recoveryFor s c f sl cause] ∧
    (s.coreFault c cause).slotStopped f sl = true ∧ (s.coreFault c cause).nat (kRecoveryState (s.slotOwner f sl)) = 1 ∧
    slotsKept s (s.coreFault c cause) [kRecoveryState (s.slotOwner f sl)] ∧ memoryKept s (s.coreFault c cause) ∧
    areasKept s (s.coreFault c cause) := by
  have heq := coreFault_first (cause := cause) hslot hstop hown hra
  have hwork : noWork (s.coreFault c cause) = noWork ((stopped s c f sl cause).setNat (kRecoveryState (s.slotOwner f sl)) 1) := by
    rw [heq, noWork_foldl_reopen]
  have hfield : ∀ {α : Type} (g : State → α), g (noWork (s.coreFault c cause)) =
      g (noWork ((stopped s c f sl cause).setNat (kRecoveryState (s.slotOwner f sl)) 1)) := fun g => congrArg g hwork
  have hrecov : (s.coreFault c cause).recov = s.recov ++ [recoveryFor s c f sl cause] := hfield State.recov
  have hreg : ∀ k, (s.coreFault c cause).reg k = ((stopped s c f sl cause).setNat (kRecoveryState (s.slotOwner f sl)) 1).reg k :=
    fun k => hfield fun u => u.reg k
  refine ⟨hrecov, ?_, (nat_of_reg (hreg _)).trans (State.nat_setNat_same _ (by decide)), fun k hk => (hreg k).trans
    (State.reg_setNat_other _ _ (List.ne_of_not_mem_cons hk)), ?_, ?_⟩
  · rw [State.slotStopped, hrecov, List.any_append, List.any_cons]
    simp [recoveryFor]
  · exact ⟨fun a => hfield fun u => Tbl.get 0 u.ls a, fun a => hfield fun u => Tbl.get 0 u.fs a,
      fun a => hfield fun u => Tbl.get 0 u.acc a, fun a => hfield fun u => Tbl.get 0 u.hbm a, fun k i => hfield fun u => u.oct k i,
      fun a => hfield fun u => Tbl.get 0 u.ackMem a, fun a => hfield fun u => Tbl.get 0 u.mario.flash a⟩
  · exact fun who sub => hfield fun u => u.area who sub

/-- A slot number of a die's own block is no slot of a log record. -/
theorem notMem_logSlots {k : Nat} (h : 0x200000 ≤ k) (h' : k < 0x700000) : k ∉ logSlots := by
  have hall : ∀ k ∈ logSlots, ¬ (0x200000 ≤ k ∧ k < 0x700000) := by decide
  exact fun hmem => hall k hmem ⟨h, h'⟩

/-- A descriptor that needs the CMU of a frond that fails (R730). -/
def needsCmu (f : Nat) (d : Desc) : Bool := productOp d.opcode && d.arith == 3 && d.core.1 == f && !d.ended

/-- Its end with CAPACITY_REDUCED. -/
def reduced (f frame : Nat) (d : Desc) : Desc :=
  if needsCmu f d then { d with ended := true, status := stCapacityReduced, endFrame := frame } else d

/-- The CMU is recorded as FAILED. -/
def cmuLost (s : State) (f : Nat) : State := (s.setNat (kCmuState f) 1).dieEvent 0x180A f 0 0

theorem cmuFault_leaves (s : State) (f : Nat) : (∀ k, (s.cmuFault f).nat k = (cmuLost s f).nat k) ∧ f ∈ (s.cmuFault f).boot.cmuFailed ∧
    (s.cmuFault f).inflight = s.inflight.map (reduced f (cmuLost s f).frameNo) ∧ memoryKept s (s.cmuFault f) := by
  have htold : Told (kCmuState f :: logSlots) s (cmuLost s f) := (told_setNat s (kCmuState f) 1).trans (told_dieEvent ..)
  have hinf : (s.cmuFault f).inflight = (cmuLost s f).inflight.map (reduced f (cmuLost s f).frameNo) := rfl
  exact ⟨fun k => rfl, List.mem_append_right _ (List.mem_singleton.2 rfl), hinf.trans (by rw [htold.inflight]),
    htold.quiet.memoryKept⟩

/-- A core that becomes FENCED (R713), before it is logged. -/
def fenced (s : State) (c cause : Nat) : State :=
  { (s.setNat (kCoreState c) 2).setNat (kFenceCause c) cause with
    boot := { s.boot with fencedCores := s.boot.fencedCores ++ [(c, cause)] } }

theorem fenceCore_eq (s : State) (c cause : Nat) : ∃ a, s.fenceCore c cause = (fenced s c cause).dieEvent 0x1801 c cause a :=
  ⟨_, rfl⟩

theorem fenced_leaves (s : State) (c cause : Nat) : (fenced s c cause).nat (kCoreState c) = 2 ∧
    (cause < 2 ^ 64 → (fenced s c cause).nat (kFenceCause c) = cause) ∧ (c, cause) ∈ (fenced s c cause).boot.fencedCores ∧
    slotsKept s (fenced s c cause) [kCoreState c, kFenceCause c] ∧ memoryKept s (fenced s c cause) ∧
    workKept s (fenced s c cause) := by
  have htold := (told_setNat s (kCoreState c) 2).trans (told_setNat _ (kFenceCause c) cause)
  have hreg : ∀ k, (fenced s c cause).reg k = ((s.setNat (kCoreState c) 2).setNat (kFenceCause c) cause).reg k := fun _ => rfl
  refine ⟨(nat_of_reg (hreg _)).trans ?_, fun hcause => (nat_of_reg (hreg _)).trans (State.nat_setNat_same _ hcause),
    List.mem_append_right _ (List.mem_singleton.2 rfl), fun k hk => (hreg k).trans (htold.reg hk), htold.quiet.memoryKept,
    htold.quiet.workKept⟩
  rw [State.nat_setNat_other _ _ (by unfold kCoreState kFenceCause; omega), State.nat_setNat_same _ (by decide)]

/-- What a core that becomes FENCED leaves (R713). -/
theorem fenceCore_leaves (s : State) (hc : c < 144) : (s.fenceCore c cause).nat (kCoreState c) = 2 ∧
    (cause < 2 ^ 64 → (s.fenceCore c cause).nat (kFenceCause c) = cause) ∧ (c, cause) ∈ (s.fenceCore c cause).boot.fencedCores ∧
    Told logSlots (fenced s c cause) (s.fenceCore c cause) ∧
    slotsKept s (s.fenceCore c cause) (kCoreState c :: kFenceCause c :: logSlots) ∧ memoryKept s (s.fenceCore c cause) ∧
    workKept s (s.fenceCore c cause) := by
  obtain ⟨a, heq⟩ := fenceCore_eq s c cause
  obtain ⟨hstate, hfc, hmem, hslots, hmemory, hwork⟩ := fenced_leaves s c cause
  have hlog := told_dieEvent (fenced s c cause) 0x1801 c cause a
  have hk : kCoreState c ∉ logSlots := notMem_logSlots (by unfold kCoreState; omega) (by unfold kCoreState; omega)
  have hk' : kFenceCause c ∉ logSlots := notMem_logSlots (by unfold kFenceCause; omega) (by unfold kFenceCause; omega)
  rw [heq]
  refine ⟨(hlog.nat hk).trans hstate, fun hcause => (hlog.nat hk').trans (hfc hcause), ?_, hlog, hslots.trans hlog.slots,
    hmemory.trans hlog.quiet.memoryKept, hwork.trans hlog.quiet.workKept⟩
  rw [hlog.boot]
  exact hmem

/-- An unused spare is counted no more (R713). -/
theorem spendSpare_leaves (s : State) (c : Nat) : (s.spendSpare c).nat (kSparesLeft (c / 9)) = 0 ∧
    (s.spendSpare c).nat kSpareCores = s.nat kSpareCores - 1 ∧ Told [kSparesLeft (c / 9), kSpareCores] s (s.spendSpare c) := by
  have hlt : s.nat kSpareCores - 1 < 2 ^ 64 := lt_of_le_of_lt (Nat.sub_le ..) (BitVec.isLt _)
  refine ⟨?_, State.nat_setNat_same _ hlt, (told_setNat s _ 0).trans (told_setNat _ kSpareCores _)⟩
  rw [State.spendSpare, State.nat_setNat_other _ _ (by unfold kSparesLeft kSpareCores; omega), State.nat_setNat_same _ (by decide)]

end Faults

/-- Settles O46: a first fault begins a recovery, a failed CMU ends what needs it, and a core that is no one's is FENCED. -/
theorem faultDetection : Obligations.FaultDetection := by
  refine ⟨?_, ?_, ?_, ?_⟩
  · intro s c f sl hslot hbusy hstop hown hra
    obtain ⟨hrecov, hstopped, hstate, hslots, hmem, hareas⟩ := coreFault_leaves (cause := 3) hslot hstop hown hra
    refine ⟨_, recoveryFor s c f sl 3, ?_, hrecov, rfl, rfl, rfl, rfl, rfl, rfl, rfl, hstopped, hstate, hslots, hmem, hareas⟩
    simp only [exec, execWatchdogExpiry, hslot, hbusy, hstop, Bool.not_false, Bool.and_self, Bool.false_eq_true, if_false, if_true]
  · intro s c f sl hslot hbad
    have hgo : (s.coreBusy f sl && !s.slotStopped f sl) = false := by
      obtain h | h := hbad <;> simp [h]
    simp only [exec, execWatchdogExpiry, hslot, hgo, Bool.false_eq_true, if_false]
  · intro s f d hf h0 hd hop harith hcore hended
    obtain ⟨hnat, hfailed, hinf, hmem⟩ := cmuFault_leaves s f
    have hneeds : needsCmu f d = true := by simp [needsCmu, hop, harith, hcore, hended]
    refine ⟨_, if_pos ⟨h0, List.any_eq_true.2 ⟨d, hd, hneeds⟩⟩, ?_, hfailed, ⟨reduced f (cmuLost s f).frameNo d, ?_, ?_⟩,
      fun e he hbad => ?_, hmem⟩
    · have hk : kCmuState f ∉ logSlots := notMem_logSlots (by unfold kCmuState; omega) (by unfold kCmuState; omega)
      exact (hnat _).trans (((told_dieEvent ..).nat hk).trans (State.nat_setNat_same _ (by decide)))
    · rw [hinf]
      exact List.mem_map_of_mem hd
    · rw [reduced, if_pos hneeds]
      exact ⟨rfl, rfl, rfl⟩
    · have hno : needsCmu f e = false := by
        rw [needsCmu]
        obtain h | h | h := hbad <;> simp [h]
      rw [hinf]
      exact List.mem_map.2 ⟨e, he, by rw [reduced, hno]; rfl⟩
  · intro s who c v hc hv h
    refine ⟨fun h0 => ?_, fun hne => ?_⟩
    · obtain ⟨hstate, hfc, hfenced, hlog, hslots, hmem, hwork⟩ := fenceCore_leaves (cause := 4) s hc
      obtain ⟨hleft, hspares, hspent⟩ := spendSpare_leaves (s.fenceCore c 4) c
      have hkeep : ∀ k, kCoreState c ≤ k → k < 0x500000 → k ∉ [kSparesLeft (c / 9), kSpareCores] := fun k hlo _ hmem => by
        simp only [List.mem_cons, List.not_mem_nil, or_false] at hmem
        unfold kCoreState at hlo
        obtain h | h := hmem
        · unfold kSparesLeft at h
          omega
        · unfold kSpareCores at h
          omega
      have hold : (s.fenceCore c 4).nat kSpareCores = s.nat kSpareCores := nat_of_reg (hslots _ (by
        have hlog : kSpareCores ∉ logSlots := by decide
        have hlow : kSpareCores < 0x400001 := by decide
        simp only [List.mem_cons, not_or]
        exact ⟨by unfold kCoreState; omega, by unfold kFenceCause; omega, hlog⟩))
      refine ⟨_, next_applied h fun l => (if_neg hv).trans (if_pos h0), ?_, ?_, ?_, ?_, ?_, ?_,
        (hmem.trans hspent.quiet.memoryKept).applied who, (hwork.trans hspent.quiet.workKept).applied who⟩
      · exact (nat_of_reg (State.reg_applied ..)).trans ((hspent.nat (hkeep _ le_rfl (by unfold kCoreState; omega))).trans hstate)
      · exact (nat_of_reg (State.reg_applied ..)).trans
          ((hspent.nat (hkeep _ (by unfold kCoreState kFenceCause; omega) (by unfold kFenceCause; omega))).trans (hfc (by decide)))
      · exact (congrArg BootSt.fencedCores hspent.boot) ▸ hfenced
      · exact (nat_of_reg (State.reg_applied ..)).trans hleft
      · exact (nat_of_reg (State.reg_applied ..)).trans (hspares.trans (by rw [hold]))
      · exact hspent.coreMap.trans (hlog.coreMap.trans rfl)
    · exact next_applied h fun l => (if_neg hv).trans (if_neg hne)

end Sys2Proof.Safety

namespace Sys2Proof.Safety

open Sys2Proof.Machine

/-! ### Spares and reloads (O47) -/

section Spares

variable {s t u : State} {f sl c p : Nat} {r : Recovery}

theorem recovering_fields (h : recovering s f sl r) : r.frond = f ∧ r.slot = sl ∧ r.done = false := by
  have hp := List.find?_some h.1
  simp only [Bool.and_eq_true, beq_iff_eq, Bool.not_eq_true'] at hp
  tauto

/-- A recovery that goes on is found with its change. -/
theorem recoveryOf_modRecovery {g : Recovery → Recovery} (h : s.recoveryOf f sl = some r)
    (hg : (g r).frond = f ∧ (g r).slot = sl ∧ (g r).done = false) : (s.modRecovery f sl g).recoveryOf f sl = some (g r) := by
  obtain ⟨hf, hs, hd⟩ := hg
  exact find?_replaceFirst h (by simp [hf, hs, hd])

theorem recoveryOf_congr (h : u.recov = s.recov) (f sl : Nat) : u.recoveryOf f sl = s.recoveryOf f sl := by
  simp only [State.recoveryOf, h]

/-- Nothing but the recoveries moves. -/
theorem modRecovery_keeps (s : State) (f sl : Nat) (g : Recovery → Recovery) : (∀ k, (s.modRecovery f sl g).reg k = s.reg k) ∧
    (s.modRecovery f sl g).coreMap = s.coreMap ∧ (s.modRecovery f sl g).boot = s.boot ∧ (s.modRecovery f sl g).ls = s.ls ∧
    (s.modRecovery f sl g).acc = s.acc ∧ (s.modRecovery f sl g).hbm = s.hbm ∧ (s.modRecovery f sl g).fs = s.fs ∧
    memoryKept s (s.modRecovery f sl g) ∧ workKept s (s.modRecovery f sl g) :=
  ⟨fun _ => rfl, rfl, rfl, rfl, rfl, rfl, rfl,
    ⟨fun _ => rfl, fun _ => rfl, fun _ => rfl, fun _ => rfl, fun _ _ => rfl, fun _ => rfl, fun _ => rfl⟩, rfl, rfl, rfl, rfl, rfl⟩

theorem Told.recov {l : List Nat} (h : Told l s t) : t.recov = s.recov := h.quiet.field State.recov
theorem Told.fcFailed {l : List Nat} (h : Told l s t) : t.fcFailed = s.fcFailed := h.quiet.field State.fcFailed
theorem Told.runahead {l : List Nat} (h : Told l s t) : t.runahead = s.runahead := h.quiet.field State.runahead

/-- What FENCED leaves beside slots and the record of the boot. -/
theorem fenced_keeps (s : State) (c cause : Nat) : (fenced s c cause).recov = s.recov ∧ (fenced s c cause).fcFailed = s.fcFailed ∧
    (fenced s c cause).coreMap = s.coreMap ∧ (fenced s c cause).tb = s.tb ∧ (fenced s c cause).runahead = s.runahead :=
  ⟨rfl, rfl, rfl, rfl, rfl⟩

theorem fenceCore_keeps {cause : Nat} (h : Told logSlots (fenced s c cause) t) : t.recov = s.recov ∧ t.fcFailed = s.fcFailed ∧
    t.coreMap = s.coreMap ∧ t.tb = s.tb ∧ t.runahead = s.runahead := by
  obtain ⟨hrecov, hfc, hmap, htb, hra⟩ := fenced_keeps s c cause
  exact ⟨h.recov.trans hrecov, h.fcFailed.trans hfc, h.coreMap.trans hmap, h.tb.trans htb, h.runahead.trans hra⟩

/-- A spare is found by the states of the cores of its frond. -/
theorem spareOf_congr (hfc : u.fcFailed = s.fcFailed)
    (hstate : ∀ c, c < 9 * f + 9 → (u.nat (kCoreState c) = 0 ↔ s.nat (kCoreState c) = 0)) : u.spareOf f = s.spareOf f := by
  have hall : ∀ l : List Nat, (∀ c ∈ l, c < 9 * f + 9) →
      l.find? (fun c => u.nat (kCoreState c) == 0) = l.find? fun c => s.nat (kCoreState c) == 0 := by
    intro l
    induction l with
    | nil => exact fun _ => rfl
    | cons c l ih =>
      intro hl
      have hc : (u.nat (kCoreState c) == 0) = (s.nat (kCoreState c) == 0) := by
        rw [Bool.eq_iff_iff, beq_iff_eq, beq_iff_eq]
        exact hstate c (hl c (List.mem_cons_self ..))
      rw [List.find?_cons, List.find?_cons, hc, ih fun d hd => hl d (List.mem_cons_of_mem _ hd)]
  have hfind := hall (countFrom (9 * f) 9) fun c hc => (mem_countFrom.1 hc).2
  simp only [State.spareOf, hfc, hfind]

theorem spareOf_some (h : s.spareOf f = some c) : 9 * f ≤ c ∧ c < 9 * f + 9 ∧ s.nat (kCoreState c) = 0 := by
  unfold State.spareOf at h
  split at h
  · cases h
  · have hmem := mem_countFrom.1 (List.mem_of_find?_eq_some h)
    exact ⟨hmem.1, hmem.2, by simpa using List.find?_some h⟩

/-- A faulty core in use that becomes FENCED is no spare, before or after. -/
theorem spareOf_fenceCore {cause : Nat} (hf : f < 16) (hc : c < 144) (h1 : s.nat (kCoreState c) = 1) :
    (s.fenceCore c cause).spareOf f = s.spareOf f := by
  obtain ⟨hstate, -, -, hlog, hslots, -⟩ := fenceCore_leaves (cause := cause) s hc
  refine spareOf_congr (fenceCore_keeps hlog).2.1 fun d hd => ?_
  by_cases hdc : d = c
  · subst hdc
    rw [hstate, h1]
    simp
  · rw [nat_of_reg (hslots _ ?_)]
    have hk : kCoreState d ∉ logSlots := notMem_logSlots (by unfold kCoreState; omega) (by unfold kCoreState; omega)
    simp only [List.mem_cons, not_or]
    exact ⟨fun h => hdc (kCoreState_injective.1 h), by unfold kCoreState kFenceCause; omega, hk⟩

/-- A slot in the core map. -/
def placed (s : State) (f sl : Nat) (c : Option Nat) : State := { s with coreMap := Tbl.set none s.coreMap (8 * f + sl) c }

theorem placed_keeps (s : State) (f sl : Nat) (c : Option Nat) : (placed s f sl c).coreAt f sl = c ∧
    (∀ g i, g < 16 → i < 8 → sl < 8 → (g, i) ≠ (f, sl) → (placed s f sl c).coreAt g i = s.coreAt g i) ∧
    (∀ k, (placed s f sl c).reg k = s.reg k) ∧ memoryKept s (placed s f sl c) ∧ workKept s (placed s f sl c) := by
  refine ⟨Tbl.get_set_same .., fun g i _ hi hsl hne => Tbl.get_set_other _ _ _ _ fun h => ?_, fun _ => rfl,
    ⟨fun _ => rfl, fun _ => rfl, fun _ => rfl, fun _ => rfl, fun _ _ => rfl, fun _ => rfl, fun _ => rfl⟩, rfl, rfl, rfl, rfl, rfl⟩
  exact hne (by rw [Prod.mk.injEq]; omega)

theorem coreAt_congr (h : u.coreMap = s.coreMap) (g i : Nat) : u.coreAt g i = s.coreAt g i := by simp only [State.coreAt, h]

/-- The spare takes the slot, with the substitution recorded. -/
def spared (s : State) (r : Recovery) (c : Nat) : State :=
  (((placed s r.frond r.slot (some c)).spendSpare c).setNat (kCoreState c) 3).recordMap

/-- The spare takes the faulty core's maps of sectors. -/
def weighed (s : State) (r : Recovery) (c : Nat) : State :=
  ((spared s r c).setReg (kLsWeightMap c) ((spared s r c).reg (kLsWeightMap r.core))).setReg (kLsSpecMap c)
    ((spared s r c).reg (kLsSpecMap r.core))

theorem mapSpare_eq (s : State) (r : Recovery) (c : Nat) : ∃ a b, s.mapSpare r c =
    (((weighed s r c).copyGens r.core c).dieEvent 0x1802 c a b).modRecovery r.frond r.slot fun x =>
      { x with phase := 1, mark := (((weighed s r c).copyGens r.core c).dieEvent 0x1802 c a b).tb.ticks } := ⟨_, _, rfl⟩

/-- The state without its generators. -/
def noGens (s : State) : State := { s with gens := [], seeds := [] }

theorem noGens_copyGens (s : State) (src dst : Nat) : noGens (s.copyGens src dst) = noGens s :=
  foldl_keeps (g := noGens) (countFrom 0 16) s fun _ _ _ => rfl

/-- A state that differs in generators only. -/
theorem keeps_of_noGens (h : noGens t = noGens s) : (∀ k, t.reg k = s.reg k) ∧ t.coreMap = s.coreMap ∧ t.boot = s.boot ∧
    t.recov = s.recov ∧ t.tb = s.tb ∧ memoryKept s t ∧ workKept s t := by
  have hall : ∀ {α : Type} (g : State → α), g (noGens t) = g (noGens s) := fun g => congrArg g h
  exact ⟨fun k => hall fun u => u.reg k, hall State.coreMap, hall State.boot, hall State.recov, hall State.tb,
    ⟨fun a => hall fun u => Tbl.get 0 u.ls a, fun a => hall fun u => Tbl.get 0 u.fs a, fun a => hall fun u => Tbl.get 0 u.acc a,
      fun a => hall fun u => Tbl.get 0 u.hbm a, fun k i => hall fun u => u.oct k i, fun a => hall fun u => Tbl.get 0 u.ackMem a,
      fun a => hall fun u => Tbl.get 0 u.mario.flash a⟩,
    hall State.inflight, hall State.rings, hall State.posted, hall State.jobs, hall State.aborts⟩

/-- What a recorded substitution leaves. -/
theorem recordMap_keeps (s : State) : (∀ k, s.recordMap.reg k = s.reg k) ∧ s.recordMap.coreMap = s.coreMap ∧
    s.recordMap.boot.savedMap = some s.coreMap ∧ s.recordMap.recov = s.recov ∧ s.recordMap.tb = s.tb ∧
    memoryKept s s.recordMap ∧ workKept s s.recordMap :=
  ⟨fun _ => rfl, rfl, rfl, rfl, rfl,
    ⟨fun _ => rfl, fun _ => rfl, fun _ => rfl, fun _ => rfl, fun _ _ => rfl, fun _ => rfl, fun _ => rfl⟩, rfl, rfl, rfl, rfl, rfl⟩

/-- The slots that a substitution by core `c` changes. -/
def spareSlotsOf (c : Nat) : List Nat := [kSparesLeft (c / 9), kSpareCores, kCoreState c]

theorem spared_leaves (s : State) (r : Recovery) (c : Nat) : (spared s r c).coreMap = (placed s r.frond r.slot (some c)).coreMap ∧
    (spared s r c).boot.savedMap = some (spared s r c).coreMap ∧ (spared s r c).recov = s.recov ∧ (spared s r c).tb = s.tb ∧
    (spared s r c).nat (kCoreState c) = 3 ∧ (spared s r c).nat (kSparesLeft (c / 9)) = 0 ∧
    slotsKept s (spared s r c) (spareSlotsOf c) ∧ memoryKept s (spared s r c) ∧ workKept s (spared s r c) := by
  obtain ⟨-, -, hreg, hmem, hwork⟩ := placed_keeps s r.frond r.slot (some c)
  obtain ⟨hleft, -, hspent⟩ := spendSpare_leaves (placed s r.frond r.slot (some c)) c
  have hset := told_setNat ((placed s r.frond r.slot (some c)).spendSpare c) (kCoreState c) 3
  have hall := hspent.trans hset
  obtain ⟨hreg', hmap, hsaved, hrecov, htb, hmem', hwork'⟩ :=
    recordMap_keeps (((placed s r.frond r.slot (some c)).spendSpare c).setNat (kCoreState c) 3)
  have hne : kSparesLeft (c / 9) ∉ [kCoreState c] := fun h => by
    have := List.mem_singleton.1 h
    unfold kSparesLeft kCoreState at this
    omega
  exact ⟨hmap.trans hall.coreMap, hsaved.trans (congrArg some hmap.symm), hrecov.trans hall.recov, htb.trans hall.tb,
    (nat_of_reg (hreg' _)).trans (State.nat_setNat_same _ (by decide)), (nat_of_reg (hreg' _)).trans ((hset.nat hne).trans hleft),
    fun k hk => (hreg' k).trans ((hall.reg hk).trans (hreg k)), (hmem.trans hall.quiet.memoryKept).trans hmem',
    (hwork.trans hall.quiet.workKept).trans hwork'⟩

theorem told_weighed (s : State) (r : Recovery) (c : Nat) : Told [kLsWeightMap c, kLsSpecMap c] (spared s r c) (weighed s r c) :=
  (told_setReg (spared s r c) (kLsWeightMap c) _).trans (told_setReg _ (kLsSpecMap c) _)

theorem reg_weighed (s : State) (r : Recovery) (c : Nat) : (weighed s r c).reg (kLsWeightMap c) = s.reg (kLsWeightMap r.core) ∧
    (weighed s r c).reg (kLsSpecMap c) = s.reg (kLsSpecMap r.core) := by
  obtain ⟨-, -, -, -, -, -, hslots, -⟩ := spared_leaves s r c
  have hkey : ∀ k, k % 0x1000 = 8 ∨ k % 0x1000 = 9 → k ∉ spareSlotsOf c := fun k hk hmem => by
    simp only [spareSlotsOf, List.mem_cons, List.not_mem_nil, or_false] at hmem
    unfold kSparesLeft kSpareCores kCoreState at hmem
    omega
  refine ⟨?_, ?_⟩
  · rw [weighed, State.reg_setReg_other _ _ (by unfold kLsWeightMap kLsSpecMap; omega), State.reg_setReg_same]
    exact hslots _ (hkey _ (.inl (by unfold kLsWeightMap; omega)))
  · rw [weighed, State.reg_setReg_same]
    exact hslots _ (hkey _ (.inr (by unfold kLsSpecMap; omega)))

/-- A slot gets a spare (R713). -/
theorem mapSpare_leaves (hc : c < 144) (hsl : r.slot < 8) (hrec : s.recoveryOf r.frond r.slot = some r) (hdone : r.done = false) :
    let t := s.mapSpare r c
    t.coreAt r.frond r.slot = some c ∧ t.nat (kCoreState c) = 3 ∧ t.nat (kSparesLeft (c / 9)) = 0 ∧
    t.reg (kLsWeightMap c) = s.reg (kLsWeightMap r.core) ∧ t.reg (kLsSpecMap c) = s.reg (kLsSpecMap r.core) ∧
    t.boot.savedMap = some t.coreMap ∧ (∀ g i, g < 16 → i < 8 → (g, i) ≠ (r.frond, r.slot) → t.coreAt g i = s.coreAt g i) ∧
    t.recoveryOf r.frond r.slot = some { r with phase := 1, mark := s.tb.ticks } ∧
    slotsKept s t (spareSlotsOf c ++ [kLsWeightMap c, kLsSpecMap c] ++ logSlots) ∧ memoryKept s t ∧ workKept s t := by
  intro t
  obtain ⟨a, b, heq⟩ := mapSpare_eq s r c
  obtain ⟨hmap, hsaved, hrecov, htb, hstate, hleft, hslots, hmem, hwork⟩ := spared_leaves s r c
  obtain ⟨hat, hother, -⟩ := placed_keeps s r.frond r.slot (some c)
  obtain ⟨hweight, hspec⟩ := reg_weighed s r c
  have htold := told_weighed s r c
  obtain ⟨hreg, hmap', hboot', hrecov', htb', hmem', hwork'⟩ := keeps_of_noGens (noGens_copyGens (weighed s r c) r.core c)
  have hlog := told_dieEvent ((weighed s r c).copyGens r.core c) 0x1802 c a b
  obtain ⟨hregm, hmapm, hbootm, -, -, -, -, hmemm, hworkm⟩ := modRecovery_keeps
    (((weighed s r c).copyGens r.core c).dieEvent 0x1802 c a b) r.frond r.slot fun x =>
      { x with phase := 1, mark := (((weighed s r c).copyGens r.core c).dieEvent 0x1802 c a b).tb.ticks }
  have htreg : ∀ k, k ∉ logSlots → t.reg k = (weighed s r c).reg k := fun k hk => by
    rw [show t = _ from heq, hregm, hlog.reg hk, hreg]
  have htmap : t.coreMap = (placed s r.frond r.slot (some c)).coreMap := by
    rw [show t = _ from heq, hmapm, hlog.coreMap, hmap', htold.coreMap, hmap]
  have hticks : (((weighed s r c).copyGens r.core c).dieEvent 0x1802 c a b).tb = s.tb := by
    rw [hlog.tb, htb', htold.tb, htb]
  have hrecy : (((weighed s r c).copyGens r.core c).dieEvent 0x1802 c a b).recov = s.recov := by
    rw [hlog.recov, hrecov', htold.recov, hrecov]
  have hkeys : ∀ k, kCoreState c ≤ k → k < 0x700000 → k ∉ logSlots := fun k hlo hhi =>
    notMem_logSlots (by unfold kCoreState at hlo; omega) hhi
  have hw : kCoreState c ∉ [kLsWeightMap c, kLsSpecMap c] ∧ kSparesLeft (c / 9) ∉ [kLsWeightMap c, kLsSpecMap c] := by
    simp only [List.mem_cons, List.not_mem_nil, or_false, not_or]
    unfold kCoreState kSparesLeft kLsWeightMap kLsSpecMap
    omega
  refine ⟨(coreAt_congr htmap ..).trans hat, ?_, ?_, ?_, ?_, ?_, fun g i hg hi hne => (coreAt_congr htmap ..).trans
    (hother g i hg hi hsl hne), ?_, ?_, ?_, ?_⟩
  · exact (nat_of_reg ((htreg _ (hkeys _ le_rfl (by unfold kCoreState; omega))).trans (htold.reg hw.1))).trans hstate
  · exact (nat_of_reg ((htreg _ (notMem_logSlots (by unfold kSparesLeft; omega) (by unfold kSparesLeft; omega))).trans
      (htold.reg hw.2))).trans hleft
  · exact (htreg _ (hkeys _ (by unfold kCoreState kLsWeightMap; omega) (by unfold kLsWeightMap; omega))).trans hweight
  · exact (htreg _ (hkeys _ (by unfold kCoreState kLsSpecMap; omega) (by unfold kLsSpecMap; omega))).trans hspec
  · rw [htmap, ← hmap, ← hsaved, show t = _ from heq, hbootm, hlog.boot, hboot', htold.boot]
  · rw [show t = _ from heq]
    refine (recoveryOf_modRecovery ((recoveryOf_congr hrecy _ _).trans hrec) ⟨rfl, rfl, hdone⟩).trans ?_
    rw [hticks]
  · intro k hk
    simp only [List.mem_append, not_or] at hk
    exact (htreg k hk.2).trans ((htold.reg hk.1.2).trans (hslots k hk.1.1))
  · rw [show t = _ from heq]
    exact (((hmem.trans htold.quiet.memoryKept).trans hmem').trans hlog.quiet.memoryKept).trans hmemm
  · rw [show t = _ from heq]
    exact (((hwork.trans htold.quiet.workKept).trans hwork').trans hlog.quiet.workKept).trans hworkm

/-! ### Slots that become unmapped -/

/-- The slot is out of the map, and its recoveries are gone (R725). -/
def unplaced (s : State) (f sl : Nat) : State :=
  { s with coreMap := Tbl.set none s.coreMap (8 * f + sl) none, recov := s.recov.filter fun r => !(r.frond == f && r.slot == sl) }

/-- One core fewer is active, and the map is recorded. -/
def unmapped (s : State) (f sl : Nat) : State :=
  ((unplaced s f sl).setNat kCoresActive ((unplaced s f sl).nat kCoresActive - 1)).recordMap

/-- A descriptor of the slot ends with CAPACITY_REDUCED (R725). -/
def slotLost (f sl frame : Nat) (d : Desc) : Desc :=
  if coreRun d.opcode && !d.refused && d.core == (f, sl) && !d.completed
  then { d with ended := true, status := stCapacityReduced, endFrame := frame } else d

/-- The state with its committed descriptors replaced. -/
def withWork (s : State) (l : List Desc) : State := { s with inflight := l }

/-- The slot's descriptors have ended. -/
def unworked (s : State) (f sl : Nat) : State :=
  withWork (unmapped s f sl) ((unmapped s f sl).inflight.map (slotLost f sl (unmapped s f sl).frameNo))

theorem unmapSlot_eq (s : State) (f sl : Nat) : s.unmapSlot f sl = if 64 ≤ s.slotOwner f sl then unmapped s f sl
    else (((unworked s f sl).dieEvent 0x1803 (s.slotOwner f sl) (f * 256 + sl) 0).capacityHalt (s.slotOwner f sl)).dropHold
      (s.slotOwner f sl) := rfl

/-- What stays of a state in which a slot becomes unmapped, but for slots and descriptors. -/
structure Unmapped (f sl : Nat) (s t : State) : Prop where
  coreMap : t.coreMap = Tbl.set none s.coreMap (8 * f + sl) none
  recov : t.recov = s.recov.filter fun r => !(r.frond == f && r.slot == sl)
  fcFailed : t.fcFailed = s.fcFailed
  holds : t.holds = s.holds
  runahead : t.runahead = s.runahead
  memory : memoryKept s t

theorem Told.holds {l : List Nat} (h : Told l s t) : t.holds = s.holds := h.quiet.field State.holds

theorem Unmapped.told {l : List Nat} (h : Unmapped f sl s t) (h' : Told l t u) : Unmapped f sl s u :=
  ⟨h'.coreMap.trans h.coreMap, h'.recov.trans h.recov, h'.fcFailed.trans h.fcFailed, h'.holds.trans h.holds,
    h'.runahead.trans h.runahead, h.memory.trans h'.quiet.memoryKept⟩

theorem unplaced_unmapped (s : State) (f sl : Nat) : Unmapped f sl s (unplaced s f sl) ∧ ∀ k, (unplaced s f sl).reg k = s.reg k :=
  ⟨⟨rfl, rfl, rfl, rfl, rfl, fun _ => rfl, fun _ => rfl, fun _ => rfl, fun _ => rfl, fun _ _ => rfl, fun _ => rfl, fun _ => rfl⟩,
    fun _ => rfl⟩

theorem Unmapped.recordMap (h : Unmapped f sl s t) : Unmapped f sl s t.recordMap :=
  ⟨h.coreMap, h.recov, h.fcFailed, h.holds, h.runahead, h.memory⟩

theorem Unmapped.withWork (h : Unmapped f sl s t) (l : List Desc) : Unmapped f sl s (withWork t l) :=
  ⟨h.coreMap, h.recov, h.fcFailed, h.holds, h.runahead, h.memory⟩

theorem unmapped_leaves (s : State) (f sl : Nat) : Unmapped f sl s (unmapped s f sl) ∧ slotsKept s (unmapped s f sl) [kCoresActive] ∧
    (unmapped s f sl).nat kCoresActive = s.nat kCoresActive - 1 := by
  obtain ⟨hun, hreg⟩ := unplaced_unmapped s f sl
  have hset := told_setNat (unplaced s f sl) kCoresActive ((unplaced s f sl).nat kCoresActive - 1)
  obtain ⟨hreg', -⟩ := recordMap_keeps ((unplaced s f sl).setNat kCoresActive ((unplaced s f sl).nat kCoresActive - 1))
  have hlt : (unplaced s f sl).nat kCoresActive - 1 < 2 ^ 64 := lt_of_le_of_lt (Nat.sub_le ..) (BitVec.isLt _)
  refine ⟨(hun.told hset).recordMap, fun k hk => (hreg' k).trans ((hset.reg hk).trans (hreg k)), ?_⟩
  rw [unmapped, nat_of_reg (hreg' _), State.nat_setNat_same _ hlt, nat_of_reg (hreg _)]

theorem unworked_leaves (s : State) (f sl : Nat) : Unmapped f sl s (unworked s f sl) ∧
    ∀ k, (unworked s f sl).reg k = (unmapped s f sl).reg k :=
  ⟨(unmapped_leaves s f sl).1.withWork _, fun _ => rfl⟩

theorem told_dropHold (s : State) (p : Nat) : Told [kRecoveryState p] s (s.dropHold p) := .ite (.refl ..) (told_setNat ..)

theorem haltPart_running {cause : Nat} (h : s.partState p = 1) (hrun : s.partRun p = 1) (hra : s.runahead = []) :
    s.haltPart p cause = (s.setNat (kPartRun p) 2).setNat (kHaltCause p) cause := by
  rw [State.haltPart, if_pos ⟨h, hrun⟩, squashPart_nil hra]

theorem told_capacityHalt (hra : s.runahead = []) (p : Nat) : Told [kPartRun p, kHaltCause p] s (s.capacityHalt p) := by
  unfold State.capacityHalt
  split
  · exact .refl ..
  · next h =>
    rw [not_or, not_not] at h
    split
    · next hrun =>
      rw [haltPart_running h.1 hrun hra]
      exact (told_setNat s _ 2).trans (told_setNat _ _ 3)
    · exact (told_setNat s _ 3).mono (by simp)

/-- The slots that an unmapped slot of partition `p` changes. -/
def unmapSlots (p : Nat) : List Nat := kCoresActive :: (logSlots ++ [kPartRun p, kHaltCause p] ++ [kRecoveryState p])

/-- A slot becomes unmapped (R725). -/
theorem unmapSlot_leaves (s : State) (f sl : Nat) (hra : s.runahead = []) : Unmapped f sl s (s.unmapSlot f sl) ∧
    slotsKept s (s.unmapSlot f sl) (unmapSlots (s.slotOwner f sl)) := by
  obtain ⟨hun, hslots, -⟩ := unmapped_leaves s f sl
  obtain ⟨hwork, hreg⟩ := unworked_leaves s f sl
  rw [unmapSlot_eq]
  split
  · exact ⟨hun, hslots.mono (by simp [unmapSlots])⟩
  · have hlog := told_dieEvent (unworked s f sl) 0x1803 (s.slotOwner f sl) (f * 256 + sl) 0
    have hhalt := told_capacityHalt (hlog.runahead.trans (hwork.runahead.trans hra)) (s.slotOwner f sl)
    have hall := (hlog.trans hhalt).trans (told_dropHold _ (s.slotOwner f sl))
    refine ⟨hwork.told hall, fun k hk => ?_⟩
    simp only [unmapSlots, List.mem_cons, not_or] at hk
    exact (hall.reg hk.2).trans ((hreg k).trans (hslots k (by simpa using hk.1)))

/-- A slot of a RUNNING partition that becomes unmapped halts it (R725). -/
theorem unmapSlot_running (hown : s.slotOwner f sl < 64) (hstate : s.partState (s.slotOwner f sl) = 1)
    (hrun : s.partRun (s.slotOwner f sl) = 1) (hra : s.runahead = []) :
    (s.unmapSlot f sl).partRun (s.slotOwner f sl) = 2 ∧ (s.unmapSlot f sl).nat (kHaltCause (s.slotOwner f sl)) = 3 ∧
    (s.unmapSlot f sl).nat kCoresActive = s.nat kCoresActive - 1 := by
  obtain ⟨hun, hslots, hactive⟩ := unmapped_leaves s f sl
  obtain ⟨hwork, hreg⟩ := unworked_leaves s f sl
  generalize hp : s.slotOwner f sl = p at *
  have hlog := told_dieEvent (unworked s f sl) 0x1803 p (f * 256 + sl) 0
  generalize hy : (unworked s f sl).dieEvent 0x1803 p (f * 256 + sl) 0 = y at *
  have hkeep : ∀ k, 0x300000 ≤ k → k < 0x700000 → y.nat k = s.nat k := fun k hlo hhi =>
    (hlog.nat (notMem_logSlots (by omega) hhi)).trans (nat_of_reg ((hreg k).trans (hslots k fun h => by
      have := List.mem_singleton.1 h
      unfold kCoresActive at this
      omega)))
  have hyra : y.runahead = [] := hlog.runahead.trans (hwork.runahead.trans hra)
  have hhalt : y.capacityHalt p = (y.setNat (kPartRun p) 2).setNat (kHaltCause p) 3 := by
    have h1 : y.partState p = 1 := (hkeep _ (by unfold kPartState; omega) (by unfold kPartState; omega)).trans hstate
    have h2 : y.partRun p = 1 := (hkeep _ (by unfold kPartRun; omega) (by unfold kPartRun; omega)).trans hrun
    rw [State.capacityHalt, if_neg (by rw [h1, h2]; decide), if_pos h2, haltPart_running h1 h2 hyra]
  have heq : s.unmapSlot f sl = ((y.setNat (kPartRun p) 2).setNat (kHaltCause p) 3).dropHold p := by
    rw [unmapSlot_eq, hp, if_neg (by omega), hy, hhalt]
  have hdrop := told_dropHold ((y.setNat (kPartRun p) 2).setNat (kHaltCause p) 3) p
  have hne : ∀ k, k ≠ kRecoveryState p → k ∉ [kRecoveryState p] := fun k h hmem => h (List.mem_singleton.1 hmem)
  rw [heq]
  refine ⟨?_, ?_, ?_⟩
  · rw [State.partRun, hdrop.nat (hne _ (by unfold kPartRun kRecoveryState; omega)),
      State.nat_setNat_other _ _ (by unfold kPartRun kHaltCause; omega), State.nat_setNat_same _ (by decide)]
  · rw [hdrop.nat (hne _ (by unfold kHaltCause kRecoveryState; omega)), State.nat_setNat_same _ (by decide)]
  · rw [hdrop.nat (hne _ (by unfold kCoresActive kRecoveryState; omega)),
      State.nat_setNat_other _ _ (by unfold kCoresActive kHaltCause; omega),
      State.nat_setNat_other _ _ (by unfold kCoresActive kPartRun; omega), hlog.nat (by decide), nat_of_reg (hreg _), hactive]

/-- The faulty core is FENCED, and its slot gets the spare that is chosen, or becomes unmapped (R713, R725). -/
theorem exec_spareMapped (hrec : s.recoveryOf f sl = some r) (hphase : r.phase = 0) (hmark : r.mark < s.tb.ticks)
    (h1 : s.nat (kCoreState r.core) = 1) : exec (.spareMapped f sl) s =
      match (s.fenceCore r.core r.cause).chooseSpare f r.part with
      | some c => .next ((s.fenceCore r.core r.cause).mapSpare r c)
      | none => .next ((s.fenceCore r.core r.cause).unmapSlot f sl) := by
  have hgo : ¬ (r.phase ≠ 0 ∨ s.tb.ticks ≤ r.mark) := by omega
  have h2 : ¬ s.nat (kCoreState r.core) = 2 := by omega
  simp only [exec, execSpareMapped, hrec, if_neg hgo, if_neg h2] <;> rfl

theorem chooseSpare_none (h : s.spareOf f = none) (hno : s.nat (kSpareBorrow p) ≠ 1 ∨ 64 ≤ p) : s.chooseSpare f p = none := by
  have hgo : ¬ (p < 64 ∧ s.nat (kSpareBorrow p) = 1) := by omega
  simp only [State.chooseSpare, h, if_neg hgo]

theorem chooseSpare_some (h : s.spareOf f = some c) : s.chooseSpare f p = some c := by simp only [State.chooseSpare, h]

/-- A core in use that becomes FENCED: the slots outside its own read as before. -/
theorem nat_fenceCore {cause k : Nat} (hc : c < 144) (hlo : 0x200000 ≤ k) (hhi : k < 0x700000)
    (hk : k ≠ kCoreState c) (hk' : k ≠ kFenceCause c) : (s.fenceCore c cause).reg k = s.reg k := by
  obtain ⟨-, -, -, -, hslots, -⟩ := fenceCore_leaves (cause := cause) s hc
  refine hslots k ?_
  simp only [List.mem_cons, not_or]
  exact ⟨hk, hk', notMem_logSlots hlo hhi⟩

/-- A spare that passes its test is zeroed (R714). -/
theorem zeroCore_leaves (s : State) (c : Nat) : (∀ o, o < 2 ^ 20 → Tbl.get 0 (s.zeroCore c).ls (c * 2 ^ 20 + o) = 0) ∧
    (∀ e, e < 32768 → Tbl.get 0 (s.zeroCore c).acc (c * 32768 + e) = 0) ∧
    (∀ a, a / 2 ^ 20 ≠ c → Tbl.get 0 (s.zeroCore c).ls a = Tbl.get 0 s.ls a) ∧ (∀ k, (s.zeroCore c).reg k = s.reg k) ∧
    (s.zeroCore c).hbm = s.hbm ∧ (s.zeroCore c).fs = s.fs ∧ (s.zeroCore c).recov = s.recov ∧ workKept s (s.zeroCore c) := by
  have hls : (s.zeroCore c).ls = clearBytes s.ls (c * 2 ^ 20 + 0) (2 ^ 20) := rfl
  refine ⟨fun o ho => ?_, fun e he => (Tbl.get_drop ..).trans (if_pos ?_), fun a ha => ?_, fun _ => rfl, rfl, rfl, rfl, rfl, rfl,
    rfl, rfl, rfl⟩
  · rw [hls, get_clearBytes, if_pos (by omega)]
  · have : (c * 32768 + e) / 32768 = c := by omega
    rw [this]
    exact beq_self_eq_true c
  · rw [hls, get_clearBytes, if_neg (by omega)]

theorem exec_spareSelftestDone (hrec : s.recoveryOf f sl = some r) (hat : s.coreAt f sl = some c) (hphase : r.phase = 1) (ok : Bool) :
    exec (.spareSelftestDone f sl ok) s = .next (if ok then
      ((s.zeroCore c).setNat (kCoreState c) 1).modRecovery f sl fun r => { r with phase := 2 }
    else (s.fenceCore c 5).modRecovery f sl fun r => { r with phase := 0, mark := s.tb.ticks }) := by
  simp only [exec, execSpareSelftestDone, hrec, hat, hphase, ne_eq, not_true_eq_false, if_false]
  cases ok <;> rfl

/-- The ranges that break the layout are counted (R716). -/
def badRanges (s : State) (p bad : Nat) : State := if bad = 0 then s else s.bump (kReloadErrors p) bad

theorem exec_reloadStart {bad : Nat} {l : List (Nat × Nat × Nat)} (hrec : s.recoveryOf f sl = some r) (hphase : r.phase = 2)
    (hmark : r.mark < s.tb.ticks) (hpart : r.part < 64) (htable : s.reloadTable r.part (s.nat (kReloadPtr f sl)) = some (l, bad)) :
    exec (.reloadStart f sl) s = .next ((badRanges s r.part bad).modRecovery f sl fun x =>
      { x with phase := 3, mark := (badRanges s r.part bad).tb.ticks, ranges := l }) := by
  have hgo : ¬ (r.phase ≠ 2 ∨ s.tb.ticks ≤ r.mark) := by omega
  simp only [exec, execReloadStart, hrec, if_neg hgo, if_neg (Nat.not_le.2 hpart), htable]
  rfl

theorem exec_reloadLanded (hrec : s.recoveryOf f sl = some r) (hat : s.coreAt f sl = some c) (hphase : r.phase = 3) :
    exec (.reloadLanded f sl) s = .next ((r.ranges.foldl (fun s x => s.reloadRange r.part c x) s).modRecovery f sl fun x =>
      { x with phase := 4, ranges := [], done := x.runs == [] }) := by
  simp only [exec, execReloadLanded, hrec, hat, hphase, ne_eq, not_true_eq_false, if_false]

/-- One range that is one row (R716). -/
theorem reloadRange_row {off src : Nat} (hsrc : src % 256 = 0) : s.reloadRange p c (off, 256, src) =
    if (s.vaRead p src 256).isNone then
      (s.lsPut c off ((s.vaRead p src 256).getD (List.replicate 256 0))).bump (kMapFaults p)
    else s.lsPut c off ((s.vaRead p src 256).getD (List.replicate 256 0)) := by
  obtain ⟨k, rfl⟩ : ∃ k, src = 256 * k := ⟨src / 256, by omega⟩
  have hcut := cutRows_chunk (l := List.replicate 256 (0 : Byte)) List.length_replicate k
  rw [List.length_replicate] at hcut
  simp only [State.reloadRange, hcut, List.map_cons, List.map_nil, List.length_replicate, List.flatMap_cons, List.flatMap_nil,
    List.append_nil, List.any_cons, List.any_nil, Bool.or_false]

theorem lsPut_leaves (s : State) (c off : Nat) (l : List Byte) : (s.lsPut c off l).ls = putBytes s.ls (c * 2 ^ 20 + off) l ∧
    (s.lsPut c off l).hbm = s.hbm ∧ (s.lsPut c off l).fs = s.fs ∧ (∀ k, (s.lsPut c off l).reg k = s.reg k) ∧
    workKept s (s.lsPut c off l) := ⟨rfl, rfl, rfl, fun _ => rfl, rfl, rfl, rfl, rfl, rfl⟩

end Spares

/-- Settles O47: the slot's recovery goes on by one phase, and each step is followed through its parts. -/
theorem sparingAndReload : Obligations.SparingAndReload := by
  refine ⟨?_, ?_, ?_, ?_, ?_, ?_, ?_⟩
  · intro s f sl c r hrec hphase hmark hcore hcause h1 hspare
    obtain ⟨hfound, hf, hsl⟩ := id hrec
    obtain ⟨rfl, rfl, hdone⟩ := recovering_fields hrec
    obtain ⟨hlo, hhi, h0⟩ := spareOf_some hspare
    obtain ⟨hstate, hfc, -, hlog, hslots, hmem, hwork⟩ := fenceCore_leaves (cause := r.cause) s hcore
    obtain ⟨hrecov, -, hmap, htb, -⟩ := fenceCore_keeps hlog
    have hchosen := chooseSpare_some (p := r.part)
      ((spareOf_fenceCore (cause := r.cause) hf hcore h1).trans hspare)
    have hne : c ≠ r.core := fun h => by rw [h, h1] at h0; cases h0
    have hdiv : c / 9 = r.frond := by omega
    obtain ⟨hat, h3, hleft, hweight, hspec, hsaved, hother, hnow, hkept, hmem', hwork'⟩ := mapSpare_leaves
      (s := s.fenceCore r.core r.cause) (r := r) (c := c) (by omega) hsl ((recoveryOf_congr hrecov _ _).trans hfound) hdone
    have hexec := exec_spareMapped hfound hphase hmark h1
    rw [hchosen] at hexec
    have hown : ∀ k, k = kCoreState r.core ∨ k = kFenceCause r.core →
        k ∉ spareSlotsOf c ++ [kLsWeightMap c, kLsSpecMap c] ++ logSlots := fun k hk => by
      simp only [List.mem_append, not_or]
      refine ⟨⟨?_, ?_⟩, notMem_logSlots ?_ ?_⟩
      · simp only [spareSlotsOf, List.mem_cons, List.not_mem_nil, or_false]
        unfold kCoreState kFenceCause at *
        unfold kSparesLeft kSpareCores
        omega
      · simp only [List.mem_cons, List.not_mem_nil, or_false]
        unfold kCoreState kFenceCause at hk
        unfold kLsWeightMap kLsSpecMap
        omega
      · unfold kCoreState kFenceCause at hk
        omega
      · unfold kCoreState kFenceCause at hk
        omega
    refine ⟨_, hexec, hat, (nat_of_reg (hkept _ (hown _ (.inl rfl)))).trans hstate,
      (nat_of_reg (hkept _ (hown _ (.inr rfl)))).trans (hfc (by omega)), h3, hdiv ▸ hleft, hweight.trans ?_, hspec.trans ?_, hsaved,
      fun g i hg hi hneq => (hother g i hg hi hneq).trans (coreAt_congr hmap g i), htb ▸ hnow, hmem.trans hmem', hwork.trans hwork'⟩
    · exact nat_fenceCore hcore (by unfold kLsWeightMap; omega) (by unfold kLsWeightMap; omega)
        (by unfold kLsWeightMap kCoreState; omega) (by unfold kLsWeightMap kFenceCause; omega)
    · exact nat_fenceCore hcore (by unfold kLsSpecMap; omega) (by unfold kLsSpecMap; omega)
        (by unfold kLsSpecMap kCoreState; omega) (by unfold kLsSpecMap kFenceCause; omega)
  · intro s f sl r hrec hphase hmark hcore h1 hnone hborrow hown hstate hrun hra
    obtain ⟨hfound, hf, hsl⟩ := id hrec
    have hexec := exec_spareMapped hfound hphase hmark h1
    obtain ⟨h2, -, -, hlog, hslots, hmem, -⟩ := fenceCore_leaves (cause := r.cause) s hcore
    obtain ⟨-, -, -, -, hra'⟩ := fenceCore_keeps hlog
    have hread : ∀ k, 0x200000 ≤ k → k < 0x400000 → (s.fenceCore r.core r.cause).nat k = s.nat k := fun k hlo hhi =>
      nat_of_reg (nat_fenceCore hcore hlo (by omega) (by unfold kCoreState; omega) (by unfold kFenceCause; omega))
    have hown' : (s.fenceCore r.core r.cause).slotOwner f sl = s.slotOwner f sl := by
      simp only [State.slotOwner, State.regByte, hread (kCoreOwner f) (by unfold kCoreOwner; omega) (by unfold kCoreOwner; omega)]
    have hstate' : (s.fenceCore r.core r.cause).partState (s.slotOwner f sl) = 1 :=
      (hread _ (by unfold kPartState; omega) (by unfold kPartState; omega)).trans hstate
    have hrun' : (s.fenceCore r.core r.cause).partRun (s.slotOwner f sl) = 1 :=
      (hread _ (by unfold kPartRun; omega) (by unfold kPartRun; omega)).trans hrun
    have hchosen : (s.fenceCore r.core r.cause).chooseSpare f r.part = none := by
      refine chooseSpare_none ((spareOf_fenceCore hf hcore h1).trans hnone) ?_
      by_cases hp : r.part < 64
      · rw [hread _ (by unfold kSpareBorrow; omega) (by unfold kSpareBorrow; omega)]
        exact .inl hborrow
      · exact .inr (Nat.not_lt.1 hp)
    rw [hchosen] at hexec
    have hra'' := hra'.trans hra
    obtain ⟨hun, hkept⟩ := unmapSlot_leaves (s.fenceCore r.core r.cause) f sl hra''
    rw [← hown'] at hown hstate' hrun' ⊢
    obtain ⟨hhalting, hcapacity, hactive⟩ := unmapSlot_running hown hstate' hrun' hra''
    refine ⟨_, hexec, ?_, (nat_of_reg (hkept _ ?_)).trans h2, hhalting, hcapacity, hactive.trans ?_, ?_, hmem.trans hun.memory⟩
    · rw [State.coreAt, hun.coreMap]
      exact Tbl.get_set_same ..
    · have hlogk : kCoreState r.core ∉ logSlots := notMem_logSlots (by unfold kCoreState; omega) (by unfold kCoreState; omega)
      simp only [unmapSlots, List.mem_cons, List.mem_append, not_or, List.not_mem_nil, not_false_eq_true, and_true]
      refine ⟨?_, ⟨hlogk, ?_, ?_⟩, ?_⟩
      · unfold kCoreState kCoresActive; omega
      · unfold kCoreState kPartRun; omega
      · unfold kCoreState kHaltCause; omega
      · unfold kCoreState kRecoveryState; omega
    · refine congrArg (· - 1) (nat_of_reg (hslots _ ?_))
      have hlogk : kCoresActive ∉ logSlots := by decide
      simp only [List.mem_cons, not_or]
      exact ⟨by unfold kCoresActive kCoreState; omega, by unfold kCoresActive kFenceCause; omega, hlogk⟩
    · rw [State.recoveryOf, hun.recov, List.find?_filter]
      exact List.find?_eq_none.2 fun x _ => by simp; tauto
  · intro s f sl c r hrec hat hc hphase
    obtain ⟨hfound, hf, hsl⟩ := id hrec
    obtain ⟨hfr, hslr, hdone⟩ := recovering_fields hrec
    refine ⟨?_, ?_⟩
    · obtain ⟨hls, hacc, hother, hreg, hhbm, hfs, hrecov, hwork⟩ := zeroCore_leaves s c
      have hset := told_setNat (s.zeroCore c) (kCoreState c) 1
      obtain ⟨hregm, -, -, hlsm, haccm, hhbmm, hfsm, -, hworkm⟩ := modRecovery_keeps ((s.zeroCore c).setNat (kCoreState c) 1) f sl
        fun r => { r with phase := 2 }
      refine ⟨_, exec_spareSelftestDone hfound hat hphase true, (nat_of_reg (hregm _)).trans (State.nat_setNat_same _ (by decide)),
        fun o ho => ?_, fun e he => ?_, fun a ha => ?_, ?_, fun k hk => (hregm k).trans ((hset.reg hk).trans (hreg k)),
        hhbmm.trans (hset.hbm.trans hhbm), hfsm.trans (hset.fs.trans hfs), (hwork.trans hset.quiet.workKept).trans hworkm⟩
      · exact (congrArg (Tbl.get 0 · _) (hlsm.trans hset.ls)).trans (hls o ho)
      · exact (congrArg (Tbl.get 0 · _) (haccm.trans hset.acc)).trans (hacc e he)
      · exact (congrArg (Tbl.get 0 · _) (hlsm.trans hset.ls)).trans (hother a ha)
      · exact recoveryOf_modRecovery ((recoveryOf_congr (hset.recov.trans hrecov) _ _).trans hfound) ⟨hfr, hslr, hdone⟩
    · obtain ⟨hstate, hfc, hfenced, hlog, hslots, hmem, hwork⟩ := fenceCore_leaves (cause := 5) s hc
      obtain ⟨hrecov, -, hmap, htb, -⟩ := fenceCore_keeps hlog
      obtain ⟨hregm, -, hbootm, -, -, -, -, hmemm, hworkm⟩ := modRecovery_keeps (s.fenceCore c 5) f sl
        fun r => { r with phase := 0, mark := s.tb.ticks }
      refine ⟨_, exec_spareSelftestDone hfound hat hphase false, (nat_of_reg (hregm _)).trans hstate, (nat_of_reg (hregm _)).trans (hfc (by decide)),
        ?_, ?_, hmem.trans hmemm, hwork.trans hworkm⟩
      · exact hbootm ▸ hfenced
      · exact recoveryOf_modRecovery ((recoveryOf_congr hrecov _ _).trans hfound) ⟨hfr, hslr, hdone⟩
  · intro s f sl bad r l hrec hphase hmark hpart htable
    obtain ⟨hfound, hf, hsl⟩ := id hrec
    obtain ⟨hfr, hslr, hdone⟩ := recovering_fields hrec
    have hbad : Told [kReloadErrors r.part] s (badRanges s r.part bad) := .ite (.refl ..) (told_bump ..)
    obtain ⟨hregm, -, -, -, -, -, -, hmemm, hworkm⟩ := modRecovery_keeps (badRanges s r.part bad) f sl
      fun x => { x with phase := 3, mark := (badRanges s r.part bad).tb.ticks, ranges := l }
    refine ⟨_, exec_reloadStart hfound hphase hmark hpart htable, ?_, (nat_of_reg (hregm _)).trans ?_,
      fun k hk => (hregm k).trans (hbad.reg hk), hbad.quiet.memoryKept.trans hmemm, hbad.quiet.workKept.trans hworkm⟩
    · rw [← hbad.tb]
      exact recoveryOf_modRecovery ((recoveryOf_congr hbad.recov _ _).trans hfound) ⟨hfr, hslr, hdone⟩
    · unfold badRanges
      split
      · rfl
      · exact nat_bump_same _ _ _ (by decide)
  · exact fun s p => if_pos rfl
  · intro s f sl c r hrec hat hphase hranges hruns
    obtain ⟨hfound, hf, hsl⟩ := id hrec
    obtain ⟨hfr, hslr, hdone⟩ := recovering_fields hrec
    have hexec := exec_reloadLanded hfound hat hphase
    rw [hranges, List.foldl_nil] at hexec
    obtain ⟨hregm, -, -, -, -, -, -, hmemm, hworkm⟩ := modRecovery_keeps s f sl
      fun x => { x with phase := 4, ranges := [], done := x.runs == [] }
    have hend : (r.runs == []) = false := beq_eq_false_iff_ne.2 hruns
    refine ⟨_, hexec, (recoveryOf_modRecovery hfound ⟨hfr, hslr, hend⟩).trans ?_, fun k _ => hregm k, hmemm, hworkm⟩
    rw [← hranges, hend, ← hdone]
  · intro s f sl c off src r l hrec hat hphase hranges hsrc hpart hlen
    obtain ⟨hfound, hf, hsl⟩ := id hrec
    have hexec := exec_reloadLanded hfound hat hphase
    rw [hranges, List.foldl_cons, List.foldl_nil, reloadRange_row hsrc] at hexec
    have hput := lsPut_leaves s c off
    refine ⟨fun hread => ?_, fun hread => ?_⟩
    · rw [hread] at hexec
      simp only [Option.isNone_some, Bool.false_eq_true, if_false, Option.getD_some] at hexec
      obtain ⟨hls, hhbm, hfs, hreg, hwork⟩ := hput l
      obtain ⟨hregm, -, -, hlsm, -, hhbmm, hfsm, -, hworkm⟩ := modRecovery_keeps (s.lsPut c off l) f sl
        fun x => { x with phase := 4, ranges := [], done := x.runs == [] }
      refine ⟨_, hexec, fun i hi => ?_, fun a ha => ?_, fun k _ => (hregm k).trans (hreg k), hhbmm.trans hhbm,
        hfsm.trans hfs, hwork.trans hworkm⟩
      · rw [hlsm, hls, getByte_putBytes_inside _ _ _ _ (by omega), List.getD_eq_getElem _ _ (by omega)]
      · rw [hlsm, hls, getByte_putBytes_outside _ _ _ _ (by omega)]
    · rw [hread] at hexec
      simp only [Option.isNone_none, if_true, Option.getD_none] at hexec
      obtain ⟨hls, hhbm, hfs, hreg, hwork⟩ := hput (List.replicate 256 0)
      have hbump := told_bump (s.lsPut c off (List.replicate 256 0)) (kMapFaults r.part) 1 32
      obtain ⟨hregm, -, -, hlsm, -⟩ := modRecovery_keeps ((s.lsPut c off (List.replicate 256 0)).bump (kMapFaults r.part)) f sl
        fun x => { x with phase := 4, ranges := [], done := x.runs == [] }
      refine ⟨_, hexec, fun i hi => ?_, ?_, fun k hk => (hregm k).trans ((hbump.reg hk).trans (hreg k))⟩
      · rw [hlsm, hbump.ls, hls, getByte_putBytes_inside _ _ _ _ (by rw [List.length_replicate]; omega), List.getElem_replicate]
      · rw [nat_of_reg (hregm _), nat_bump_same _ _ _ (by decide), nat_of_reg (hreg _)]

end Sys2Proof.Safety

namespace Sys2Proof.Safety

open Sys2Proof.Machine

/-! ### Recovery runs and restarts (O48) -/

section Splices

variable {α : Type} (d : α)

theorem get_append (a b : Tbl α) (k : Nat) :
    Tbl.get d (a ++ b) k = if k ∈ a.map Prod.fst then Tbl.get d a k else Tbl.get d b k := by
  induction a with
  | nil => rfl
  | cons x a ih =>
    obtain ⟨j, v⟩ := x
    rw [List.cons_append, Tbl.get, Tbl.get, ih]
    by_cases h : j = k
    · simp [h]
    · have h' : ¬ k = j := fun he => h he.symm
      simp only [if_neg h, List.map_cons, List.mem_cons, h', false_or]

theorem get_of_notMem {a : Tbl α} {k : Nat} (h : k ∉ a.map Prod.fst) : Tbl.get d a k = d := by
  induction a with
  | nil => rfl
  | cons x a ih =>
    obtain ⟨j, v⟩ := x
    rw [List.map_cons, List.mem_cons, not_or] at h
    rw [Tbl.get, if_neg (Ne.symm h.1), ih h.2]

theorem notMem_keys_drop {p : Nat → Bool} {a : Tbl α} {k : Nat} (h : p k = true) : k ∉ (Tbl.drop p a).map Prod.fst := by
  induction a with
  | nil => exact List.not_mem_nil
  | cons x a ih =>
    obtain ⟨j, v⟩ := x
    rw [Tbl.drop]
    split
    · exact ih
    · next hj =>
      rw [List.map_cons, List.mem_cons, not_or]
      exact ⟨fun he => hj (by rw [← show k = j from he]; exact h), ih⟩

variable {d}

/-- Numbers that are dropped come from what follows. -/
theorem get_drop_append_dropped {p : Nat → Bool} {k : Nat} (h : p k = true) (a b : Tbl α) :
    Tbl.get d (Tbl.drop p a ++ b) k = Tbl.get d b k := by
  rw [get_append, if_neg (notMem_keys_drop h)]

/-- Numbers that are not dropped come first, where what follows does not list them otherwise. -/
theorem get_drop_append_kept {p : Nat → Bool} {k : Nat} (h : p k = false) {a b : Tbl α}
    (hb : Tbl.get d b k = d ∨ Tbl.get d b k = Tbl.get d a k) : Tbl.get d (Tbl.drop p a ++ b) k = Tbl.get d a k := by
  have hkept : Tbl.get d (Tbl.drop p a) k = Tbl.get d a k := (Tbl.get_drop ..).trans (if_neg (by simp [h]))
  rw [get_append]
  split
  · exact hkept
  · next hmem =>
    rw [get_of_notMem d hmem] at hkept
    obtain hb | hb := hb
    · exact hb.trans hkept
    · exact hb

/-- A table whose entries of a range come from another table: within the range. -/
theorem get_spliceTbl_inside {lo hi k : Nat} (hlo : lo ≤ k) (hhi : k < hi) (a b : Tbl α) :
    Tbl.get d (spliceTbl lo hi a b) k = Tbl.get d b k := by
  rw [spliceTbl, List.append_assoc, get_drop_append_dropped (decide_eq_true hlo)]
  refine get_drop_append_kept (by simp [hlo, hhi]) (.inl ?_)
  exact (Tbl.get_drop ..).trans (if_pos (decide_eq_true hhi))

/-- A table whose entries of a range come from another table: outside the range. -/
theorem get_spliceTbl_outside {lo hi k : Nat} (h : k < lo ∨ hi ≤ k) (hle : lo ≤ hi) (a b : Tbl α) :
    Tbl.get d (spliceTbl lo hi a b) k = Tbl.get d a k := by
  have hrest : Tbl.get d (Tbl.drop (fun k => !(decide (lo ≤ k) && decide (k < hi))) b ++ Tbl.drop (fun k => decide (k < hi)) a) k =
      Tbl.get d (Tbl.drop (fun k => decide (k < hi)) a) k :=
    get_drop_append_dropped (by
      obtain h | h := h
      · simp [Nat.not_le.2 h]
      · simp [Nat.not_lt.2 h]) _ _
  have hlast : Tbl.get d (Tbl.drop (fun k => decide (k < hi)) a) k = if k < hi then d else Tbl.get d a k := by
    rw [Tbl.get_drop]
    simp
  rw [spliceTbl, List.append_assoc]
  by_cases hk : lo ≤ k
  · have hhi : ¬ k < hi := by omega
    rw [get_drop_append_dropped (decide_eq_true hk), hrest, hlast, if_neg hhi]
  · have hhi : k < hi := by omega
    refine get_drop_append_kept (decide_eq_false hk) (.inl ?_)
    rw [hrest, hlast, if_pos hhi]

end Splices

section RecoveryRuns

variable {s t u : State} {f sl c p : Nat} {r : Recovery} {x : RecRun} {rest : List RecRun} {o : RunObs}

/-- The state without its slots, its recoveries and its committed descriptors. -/
def still (s : State) : State := { s with regs := [], recov := [], inflight := [] }

theorem still_reopen (s : State) (r : RecRun) : still (reopen s r) = still s := by
  unfold reopen
  split <;> rfl

/-- The hold of a slot's owner begins (R711). -/
def holdOf (u : State) (p : Nat) : State :=
  if p < 64 then (u.squashPart p (fun _ => true) (kSquashCore p)).setNat (kRecoveryState p) 1 else u

theorem still_holdOf (hra : u.runahead = []) (p : Nat) : still (holdOf u p) = still u := by
  unfold holdOf
  split
  · rw [squashPart_nil hra]
    rfl
  · rfl

theorem runahead_of_still (h : still t = still s) : t.runahead = s.runahead := congrArg (fun u => u.runahead) h

theorem still_begun (hu : still u = still s) (hra : s.runahead = []) (p : Nat) (l : List RecRun) :
    still (l.foldl reopen (holdOf u p)) = still s :=
  (foldl_keeps (g := still) l _ fun s r _ => still_reopen s r).trans
    ((still_holdOf ((runahead_of_still hu).trans hra) p).trans hu)

/-- With no run-ahead work held a fault moves slots, recoveries and descriptors only (R710, R711). -/
theorem still_coreFault (hra : s.runahead = []) (core cause : Nat) : still (s.coreFault core cause) = still s := by
  cases hc : s.coreSlot core with
  | none => simp only [State.coreFault, hc]
  | some g =>
    have hbegin : ∀ l : List Recovery, still ((if s.slotOwner g.1 g.2 < 64 then s.windowRuns g.1 g.2 (s.slotOwner g.1 g.2) else
        []).foldl reopen (holdOf { s with recov := l } (s.slotOwner g.1 g.2))) = still s :=
      fun l => still_begun (u := { s with recov := l }) rfl hra _ _
    simp only [State.coreFault, hc]
    split
    · split
      · rfl
      · exact hbegin _
    · exact hbegin _

theorem still_faults (l : List Recovery) : ∀ s : State, s.runahead = [] →
    still (l.foldl (fun (s : State) x => s.coreFault x.core x.cause) s) = still s := by
  induction l with
  | nil => exact fun s _ => rfl
  | cons y l ih =>
    intro s hra
    have h := still_coreFault hra y.core y.cause
    exact (ih _ ((runahead_of_still h).trans hra)).trans h

/-- The slots of a core and of its frond come from another state. -/
def countersOf (s t : State) (f c : Nat) : Tbl Word :=
  spliceTbl ((0x2100 + 0x10 * f) * 256) ((0x2110 + 0x10 * f) * 256)
    (spliceTbl ((0x4000 + 0x10 * c) * 256) ((0x4010 + 0x10 * c) * 256) s.regs t.regs) t.regs

/-- The state that counts what a rebuild run did (R187). -/
def counted (s t : State) (f c : Nat) : State :=
  { s with regs := countersOf s t f c, flips := t.flips, eccRun := t.eccRun, msc := t.msc, free := t.free }

/-- The faults that a rebuild run met begin their recoveries. -/
def countedFaults (s run t : State) (f c : Nat) : State :=
  (t.recov.filter fun x => !run.recov.contains x).foldl (fun (s : State) x => s.coreFault x.core x.cause) (counted s t f c)

/-- The spare's own LS and AS take what a rebuild run leaves in them (R719). -/
def takeRun (s u t : State) (c : Nat) : State :=
  { u with
    ls := spliceTbl (c * 2 ^ 20) ((c + 1) * 2 ^ 20) s.ls t.ls
    acc := spliceTbl (c * 32768) ((c + 1) * 32768) s.acc t.acc
    asSat := spliceTbl (c * 32768) ((c + 1) * 32768) s.asSat t.asSat
    asTags := spliceTbl (c * 65536) ((c + 1) * 65536) s.asTags t.asTags
    gens := t.gens
    seeds := t.seeds
    free := t.free }

/-- A descriptor as a rebuild run issues it. -/
def rebuilt (s : State) (d : Desc) : Desc := { d.again false with id := s.nextId }

/-- The state in which a rebuild run begins: the descriptor alone. -/
def rebuilding (s run : State) (d : Desc) : State := { run with inflight := [rebuilt s d], nextId := s.nextId + 1 }

theorem rebuildRun_eq (s run : State) (f c : Nat) (d : Desc) (o : RunObs) (pop : State → State) {t : State}
    (ht : t = ((rebuilding s run d).restoreGens c d.prog.genStart).runWhole (rebuilt s d).id c o) :
    s.rebuildRun run f c d o pop = if t.slotWait then s
      else if (t.recov.filter fun x => !run.recov.contains x).any fun x => x.core == c then countedFaults s run t f c
      else pop (takeRun s (countedFaults s run t f c) (t.landWhere fun w => w.desc == (rebuilt s d).id) c) := by
  subst ht
  rfl

/-- What a rebuild run leaves of all but its spare (R719). -/
structure Rebuilds (c : Nat) (s t : State) : Prop where
  ls : ∀ a, a / 2 ^ 20 ≠ c → Tbl.get 0 t.ls a = Tbl.get 0 s.ls a
  acc : ∀ e, e / 32768 ≠ c → Tbl.get 0 t.acc e = Tbl.get 0 s.acc e
  fs : t.fs = s.fs
  hbm : t.hbm = s.hbm
  octs : t.octs = s.octs
  areas : t.areas = s.areas
  jobs : t.jobs = s.jobs

theorem rebuilds_of_still (h : still t = still s) : Rebuilds c s t := by
  have hfield : ∀ {α : Type} (g : State → α), g (still t) = g (still s) := fun g => congrArg g h
  have hls : t.ls = s.ls := hfield State.ls
  have hacc : t.acc = s.acc := hfield State.acc
  exact ⟨fun a _ => by rw [hls], fun a _ => by rw [hacc], hfield State.fs, hfield State.hbm, hfield State.octs, hfield State.areas,
    hfield State.jobs⟩

theorem Rebuilds.trans (h : Rebuilds c s t) (h' : Rebuilds c t u) : Rebuilds c s u :=
  ⟨fun a ha => (h'.ls a ha).trans (h.ls a ha), fun a ha => (h'.acc a ha).trans (h.acc a ha), h'.fs.trans h.fs, h'.hbm.trans h.hbm,
    h'.octs.trans h.octs, h'.areas.trans h.areas, h'.jobs.trans h.jobs⟩

theorem rebuilds_takeRun (h : Rebuilds c s u) (t : State) : Rebuilds c s (takeRun s u t c) :=
  ⟨fun _ ha => get_spliceTbl_outside (by omega) (by omega) _ _, fun _ ha => get_spliceTbl_outside (by omega) (by omega) _ _, h.fs, h.hbm,
    h.octs, h.areas, h.jobs⟩

theorem rebuilds_rebuildRun (hra : s.runahead = []) (run : State) (d : Desc) {pop : State → State}
    (hpop : ∀ u, still (pop u) = still u) : Rebuilds c s (s.rebuildRun run f c d o pop) := by
  have hfaults : ∀ t, Rebuilds c s (countedFaults s run t f c) := fun t =>
    Rebuilds.trans (t := counted s t f c) ⟨fun _ _ => rfl, fun _ _ => rfl, rfl, rfl, rfl, rfl, rfl⟩
      (rebuilds_of_still (still_faults _ _ hra))
  rw [rebuildRun_eq _ _ _ _ _ _ _ rfl]
  split
  · exact rebuilds_of_still rfl
  · split
    · exact hfaults _
    · exact (rebuilds_takeRun (hfaults _) _).trans (rebuilds_of_still (hpop _))

/-- A run of a slot is done. -/
def popRun (f sl : Nat) (rest : List RecRun) (s : State) : State :=
  s.modRecovery f sl fun r => { r with runs := rest, done := rest == [] }

/-- The state without the recovery of a slot. -/
def withoutRecovery (s : State) (f sl : Nat) : State :=
  { s with recov := s.recov.filter fun y => !(y.frond == f && y.slot == sl), slotWait := false }

/-- A run of a slot that is not reissued. -/
theorem exec_recoveryRunDone (hrec : s.recoveryOf f sl = some r) (hat : s.coreAt f sl = some c) (hphase : r.phase = 4)
    (hmark : r.mark < s.tb.ticks) (hruns : r.runs = x :: rest) (hreissue : x.reissue = false) :
    exec (.recoveryRunDone f sl o) s = .next (if s.tb.window ≠ .compute then s
      else if s.runLeft r x = false then popRun f sl rest s
      else s.rebuildRun (withoutRecovery s f sl) f c x.desc o (popRun f sl rest)) := by
  show execRecoveryRunDone f sl o s = _
  simp only [execRecoveryRunDone, hrec, hat, hruns, hphase, Nat.not_le.2 hmark, hreissue, ne_eq, not_true_eq_false, false_or,
    Bool.false_eq_true, if_false]
  split
  · rfl
  · split <;> rfl

end RecoveryRuns

section OrderRuns

variable {s t : State} {f sl c id : Nat} {d : Desc}

/-- Where no posted write is meant, none lands. -/
theorem landWhere_none {f : PostedWrite → Bool} (h : ∀ w ∈ s.posted, f w = false) : s.landWhere f = s := by
  have hgo : s.posted.filter f = [] := List.filter_eq_nil_iff.2 fun w hw => by rw [h w hw]; exact Bool.false_ne_true
  have hrest : (s.posted.filter fun w => !f w) = s.posted := List.filter_eq_self.2 fun w hw => by rw [h w hw]; rfl
  rw [State.landWhere, hgo, hrest]
  rfl

/-- What engines that met nothing leave: no error. -/
def calm (s : State) : State := { s with errs := [] }

/-- The state in which a descriptor's work begins. -/
def atWork (s : State) (id : Nat) : State := { (calm s).spend id 0 with slotWait := false }

/-- The work of a descriptor that met nothing. -/
theorem work_nothing (s : State) (d : Desc) (f : State → State) (hwait : (f (atWork s d.id)).slotWait = false) :
    s.work d {} f = if (calm (f (atWork s d.id))).slotStopped d.core.1 d.core.2 then
      (calm (f (atWork s d.id))).modDesc d.id fun e => { e with ended := false, status := 0, torn := false }
    else calm (f (atWork s d.id)) := by
  have hwait' : ({ f { (s.observe {}).spend d.id (obsLost {}) with slotWait := false } with errs := [] } : State).slotWait = false :=
    hwait
  unfold State.work
  dsimp only
  rw [if_neg (by decide), if_neg (by rw [hwait']; decide)]
  rfl

/-- The ORDER of a descriptor that is alone. -/
def orderRun (s : State) (id c : Nat) : State := (orderEnded s id 4).bump (kOrdersRun c)

/-- The state without its descriptors, with no error and no wait. -/
def settled (s : State) : State := { s with inflight := [], errs := [], slotWait := false }

theorem forall_replaceFirst {α : Type} {P : α → Prop} {p : α → Bool} {f : α → α} (hf : ∀ a, P a → P (f a)) {l : List α}
    (h : ∀ a ∈ l, P a) : ∀ a ∈ replaceFirst p f l, P a := by
  induction l with
  | nil => exact h
  | cons x l ih =>
    rw [replaceFirst]
    split
    · rw [List.forall_mem_cons] at h ⊢
      exact ⟨hf _ h.1, h.2⟩
    · rw [List.forall_mem_cons] at h ⊢
      exact ⟨h.1, ih h.2⟩

/-- No committed descriptor is torn. -/
def whole (s : State) : Prop := ∀ e ∈ s.inflight, e.torn = false

theorem whole_modDesc (h : whole s) (id : Nat) {f : Desc → Desc} (hf : ∀ e : Desc, e.torn = false → (f e).torn = false) :
    whole (s.modDesc id f) := forall_replaceFirst hf h

theorem tearTorn_whole (h : whole s) (id : Nat) : s.tearTorn id = s := by
  unfold State.tearTorn
  split
  · rfl
  · next d hd => rw [if_neg (by rw [h d (List.mem_of_find?_eq_some hd)]; exact Bool.false_ne_true)]

theorem whole_congr (h : whole s) (ht : t.inflight = s.inflight) : whole t := fun e he => h e (ht ▸ he)

theorem whole_spend (h : whole s) (id n : Nat) : whole (s.spend id n) := whole_modDesc h id fun _ he => he

theorem whole_endDesc (h : whole s) (id n : Nat) : whole (s.endDesc id n) := whole_modDesc h id fun e he => by
  split <;> exact he

theorem whole_orderRun (h : whole s) (id c : Nat) : whole (orderRun s id c) :=
  whole_congr (whole_endDesc (whole_spend h id 4) id stOk) rfl

theorem whole_atWork (h : whole s) (id : Nat) : whole (atWork s id) :=
  whole_congr (whole_spend (s := calm s) h id 0) rfl

theorem settled_bump (s : State) (k n : Nat) : settled (s.bump k n) = (settled s).bump k n := rfl

theorem settled_orderRun (s : State) (id c : Nat) : settled (orderRun s id c) = settled (s.bump (kOrdersRun c)) := rfl

theorem settled_atWork (s : State) (id : Nat) : settled (atWork s id) = settled s := rfl

theorem slotWait_orderRun (s : State) (id c : Nat) : (orderRun s id c).slotWait = s.slotWait := rfl

theorem onRunning_of_desc (h : s.desc? id = some d) (hended : d.ended = false) (f : State → Desc → State) :
    s.onRunning id f = f s d := by
  rw [State.onRunning, h]
  dsimp only
  rw [if_neg (by rw [hended]; exact Bool.false_ne_true)]

theorem runWhole_order (hdesc : s.desc? id = some d) (hended : d.ended = false) (hop : d.opcode = 1) (o : RunObs) :
    s.runWhole id c o = (s.work d o fun s => (((s.landWhere fun w => w.desc == id).spend id (o.waitCc + 4)).endDesc id stOk).bump
      (kOrdersRun c)).tearTorn id := by
  refine (onRunning_of_desc hdesc hended _).trans (congrArg (fun f => (s.work d o f).tearTorn id) (funext fun u => ?_))
  simp only [hop, tiledOp, if_true]
  rfl

/-- What an ORDER that runs whole leaves where no write of its own is posted. -/
theorem settled_runWhole_order (hdesc : s.desc? id = some d) (hended : d.ended = false) (hop : d.opcode = 1)
    (hposted : ∀ w ∈ s.posted, w.desc ≠ id) (hwhole : whole s) :
    settled (s.runWhole id c {}) = settled (s.bump (kOrdersRun c)) ∧ (s.runWhole id c {}).slotWait = false := by
  have hid := id_of_desc? hdesc
  have hland : (atWork s d.id).landWhere (fun w => w.desc == id) = atWork s d.id :=
    landWhere_none fun w hw => beq_false_of_ne (hposted w hw)
  have hF : (((((atWork s d.id).landWhere fun w => w.desc == id).spend id (({} : RunObs).waitCc + 4)).endDesc id stOk).bump
      (kOrdersRun c)) = orderRun (atWork s id) id c := by rw [hland, hid]; rfl
  have hwait : (orderRun (atWork s id) id c).slotWait = false := slotWait_orderRun _ id c
  have hset : settled (orderRun (atWork s id) id c) = settled (s.bump (kOrdersRun c)) := by
    rw [settled_orderRun, settled_bump, settled_atWork, settled_bump]
  have hwh := whole_orderRun (whole_atWork hwhole id) id c
  rw [runWhole_order hdesc hended hop, work_nothing _ _ _ (by rw [hF]; exact hwait), hF]
  generalize orderRun (atWork s id) id c = u at hwait hset hwh
  split
  · rw [tearTorn_whole (whole_modDesc (s := calm u) hwh _ fun _ _ => rfl)]
    exact ⟨hset, hwait⟩
  · rw [tearTorn_whole (s := calm u) hwh]
    exact ⟨hset, hwait⟩

/-- Counting a run takes its slots from it, or leaves them. -/
theorem reg_countersOf (s t : State) (f c k : Nat) : Tbl.get (regDefault k) (countersOf s t f c) k = t.reg k ∨
    Tbl.get (regDefault k) (countersOf s t f c) k = s.reg k ∧ (k < 0x400000 + 0x1000 * c ∨ 0x401000 + 0x1000 * c ≤ k) := by
  by_cases hf : (0x2100 + 0x10 * f) * 256 ≤ k ∧ k < (0x2110 + 0x10 * f) * 256
  · exact .inl (get_spliceTbl_inside hf.1 hf.2 _ _)
  · have hout := get_spliceTbl_outside (d := regDefault k) (k := k) (lo := (0x2100 + 0x10 * f) * 256)
      (hi := (0x2110 + 0x10 * f) * 256) (by omega) (by omega)
      (spliceTbl ((0x4000 + 0x10 * c) * 256) ((0x4010 + 0x10 * c) * 256) s.regs t.regs) t.regs
    by_cases hc : 0x400000 + 0x1000 * c ≤ k ∧ k < 0x401000 + 0x1000 * c
    · exact .inl (hout.trans (get_spliceTbl_inside (by omega) (by omega) _ _))
    · exact .inr ⟨hout.trans (get_spliceTbl_outside (by omega) (by omega) _ _), by omega⟩

/-- A table whose entries of a range come from itself reads as before. -/
theorem get_spliceTbl_self {α : Type} {d : α} {lo hi : Nat} (hle : lo ≤ hi) (a : Tbl α) (k : Nat) :
    Tbl.get d (spliceTbl lo hi a a) k = Tbl.get d a k := by
  by_cases h : lo ≤ k ∧ k < hi
  · exact get_spliceTbl_inside h.1 h.2 _ _
  · exact get_spliceTbl_outside (by omega) hle _ _

/-- Counting a run that only counted an ORDER. -/
theorem counted_order (ht : ∀ k, t.reg k = (s.bump (kOrdersRun c)).reg k) (hls : t.ls = s.ls) (hacc : t.acc = s.acc) :
    let u := takeRun s (counted s t f c) t c
    memoryKept s u ∧ slotsKept s u [kOrdersRun c] ∧ u.nat (kOrdersRun c) = satAdd 32 (s.nat (kOrdersRun c)) 1 := by
  refine ⟨⟨fun a => ?_, fun _ => rfl, fun e => ?_, fun _ => rfl, fun _ _ => rfl, fun _ => rfl, fun _ => rfl⟩, fun k hk => ?_, ?_⟩
  · show Tbl.get 0 (spliceTbl _ _ s.ls t.ls) a = _
    rw [hls]
    exact get_spliceTbl_self (by omega) _ _
  · show Tbl.get 0 (spliceTbl _ _ s.acc t.acc) e = _
    rw [hacc]
    exact get_spliceTbl_self (by omega) _ _
  · obtain h | ⟨h, -⟩ := reg_countersOf s t f c k
    · exact h.trans ((ht k).trans (State.reg_bump_other _ _ _ (List.ne_of_not_mem_cons hk)))
    · exact h
  · have hreg : (takeRun s (counted s t f c) t c).reg (kOrdersRun c) = t.reg (kOrdersRun c) := by
      obtain h | ⟨-, h⟩ := reg_countersOf s t f c (kOrdersRun c)
      · exact h
      · unfold kOrdersRun at h
        omega
    exact (nat_of_reg (hreg.trans (ht _))).trans (nat_bump_same _ _ _ (by decide))

/-- A rebuild of an ORDER counts it on the spare, and nothing else takes anything (R187, R719). -/
theorem rebuildRun_order {run : State} {pop : State → State} (hop : d.opcode = 1) (hgens : d.prog.genStart = [])
    (hposted : ∀ w ∈ run.posted, w.desc ≠ s.nextId) (hrun : run.regs = s.regs ∧ run.ls = s.ls ∧ run.acc = s.acc) :
    ∃ t, s.rebuildRun run f c d {} pop = pop (takeRun s (counted s t f c) t c) ∧
      (∀ k, t.reg k = (s.bump (kOrdersRun c)).reg k) ∧ t.ls = s.ls ∧ t.acc = s.acc := by
  have hopcode : (rebuilt s d).opcode = 1 := hop
  obtain ⟨hset, hwait⟩ := settled_runWhole_order (s := rebuilding s run d) (id := (rebuilt s d).id) (d := rebuilt s d) (c := c)
    (by simp [State.desc?, rebuilding]) rfl hopcode hposted (by simp [whole, rebuilding, rebuilt, Desc.again])
  have hstart : (rebuilding s run d).restoreGens c d.prog.genStart = rebuilding s run d := by rw [hgens]; rfl
  generalize ht : (rebuilding s run d).runWhole (rebuilt s d).id c {} = t at hset hwait
  have hfield : ∀ {α : Type} (g : State → α), g (settled t) = g (settled ((rebuilding s run d).bump (kOrdersRun c))) :=
    fun g => congrArg g hset
  have hrecov : t.recov = run.recov := hfield State.recov
  have hpost : t.posted = run.posted := hfield State.posted
  have hfaults : (t.recov.filter fun x => !run.recov.contains x) = [] := by
    rw [hrecov]
    exact List.filter_eq_nil_iff.2 fun x hx => by simp [hx]
  obtain ⟨hregs, hls, hacc⟩ := hrun
  have hreg : ∀ k, (rebuilding s run d).reg k = s.reg k := State.reg_of_regs hregs
  refine ⟨t, ?_, fun k => ?_, (hfield State.ls).trans hls, (hfield State.acc).trans hacc⟩
  · have hland : (t.landWhere fun w => w.desc == (rebuilt s d).id) = t :=
      landWhere_none fun w hw => beq_false_of_ne (hposted w (hpost ▸ hw))
    rw [rebuildRun_eq _ _ _ _ _ _ _ (by rw [hstart, ht]), hwait, countedFaults, hfaults, hland]
    rfl
  · refine (hfield fun u => u.reg k).trans ?_
    show ((rebuilding s run d).bump (kOrdersRun c)).reg k = _
    simp only [State.bump, State.nat, State.setNat, hreg]
    by_cases hk : k = kOrdersRun c
    · rw [hk, State.reg_setReg_same, State.reg_setReg_same]
    · rw [State.reg_setReg_other _ _ hk, State.reg_setReg_other _ _ hk, hreg]

end OrderRuns

section Holds

variable {s t u : State} {f p : Nat} {r : Recovery}

/-- A partition's recoveries and holds end, with `h` recovery frames (R721, R722). -/
def holdEnded (s : State) (p : Nat) : State :=
  { s with recov := s.recov.filter fun r => r.part != p,
           holds := (s.holds.map fun (h : Hold) => { h with parts := h.parts.filter (· != p) }).filter fun h =>
             h.frond.isSome || h.parts != [] }

/-- The frames of a hold that has ended are counted (R722). -/
def holdCounted (s : State) (p h : Nat) : State :=
  (((s.setNat (kRecoveryState p) 0).bump (kSlipFr p) h).setNat (kLastRecoveryFr p) (min h 65535))

/-- The frames of a hold slip the partition's work. -/
def slipped (s : State) (p h : Nat) : State := { s with slips := Tbl.set 0 s.slips p (Tbl.get 0 s.slips p + h) }

/-- A recovery of `n` descriptors and `h` recovery frames is counted (R721). -/
def recovered (s : State) (p h n : Nat) : State := ((slipped (holdCounted s p h) p h).bump (kRecoveries p)).dieEvent 0x1804 p h n

/-- The end of a hold of recoveries that are all done (R721). -/
theorem endHold_recovered (hp : p < 64) (hrecov : s.recov = [r]) (hpart : r.part = p) (hdone : r.done = true) (hholds : s.holds = [])
    (hstate : s.partState p ≠ 0) : s.endHold p =
      recovered (holdEnded s p) p (s.tb.ticks - r.frame) (0 + r.count) := by
  have hmine : (s.recov.filter fun r => r.part == p) = [r] := by simp [hrecov, hpart]
  have hno : (s.holds.filter fun h => h.parts.contains p) = [] := by rw [hholds]; rfl
  unfold State.endHold
  rw [hmine, hno]
  simp only [List.all_cons, List.all_nil, hdone, Bool.and_true, Bool.true_eq_false, false_or, List.cons_ne_nil, false_and, if_false,
    List.map_cons, List.map_nil, List.append_nil]
  rw [if_neg (by rintro (h | h); exact absurd h (by omega); exact hstate h)]
  rfl

/-- The end of a hold of a restart (R728). -/
theorem endHold_restarted {start : Nat} (hp : p < 64) (hrecov : s.recov = []) (hholds : s.holds = [⟨none, [p], start⟩])
    (hstate : s.partState p ≠ 0) : s.endHold p = slipped (holdCounted (holdEnded s p) p (s.tb.ticks - start)) p
      (s.tb.ticks - start) := by
  have hmine : (s.recov.filter fun r => r.part == p) = [] := by rw [hrecov]; rfl
  have hall : (s.holds.filter fun h => h.parts.contains p) = [⟨none, [p], start⟩] := by simp [hholds]
  unfold State.endHold
  rw [hmine, hall]
  simp only [List.all_cons, List.all_nil, Option.isNone_none, Bool.and_true, Bool.true_eq_false, false_or, List.cons_ne_nil, and_false,
    if_false, List.map_cons, List.map_nil, List.nil_append, if_true]
  rw [if_neg (by rintro (h | h); exact absurd h (by omega); exact hstate h)]
  rfl

/-- A recovery that is not done keeps its hold. -/
theorem endHold_under_way (hrecov : s.recov = [r]) (hpart : r.part = p) (hdone : r.done = false) : s.endHold p = s := by
  have hmine : (s.recov.filter fun r => r.part == p) = [r] := by simp [hrecov, hpart]
  unfold State.endHold
  rw [hmine]
  exact if_pos (.inl (by simp [hdone]))

theorem told_holdCounted (s : State) (p h : Nat) : Told [kRecoveryState p, kSlipFr p, kLastRecoveryFr p] s (holdCounted s p h) :=
  ((told_setNat s (kRecoveryState p) 0).trans (told_bump _ (kSlipFr p) h 32)).trans (told_setNat _ (kLastRecoveryFr p) _)

theorem holdCounted_leaves (s : State) (p h : Nat) : (holdCounted s p h).nat (kRecoveryState p) = 0 ∧
    (holdCounted s p h).nat (kSlipFr p) = satAdd 32 (s.nat (kSlipFr p)) h ∧
    (holdCounted s p h).nat (kLastRecoveryFr p) = min h 65535 := by
  have hne : kRecoveryState p ≠ kSlipFr p := by unfold kRecoveryState kSlipFr; omega
  have hne' : kRecoveryState p ≠ kLastRecoveryFr p := by unfold kRecoveryState kLastRecoveryFr; omega
  have hne'' : kSlipFr p ≠ kLastRecoveryFr p := by unfold kSlipFr kLastRecoveryFr; omega
  unfold holdCounted
  refine ⟨?_, ?_, State.nat_setNat_same _ (by omega)⟩
  · rw [State.nat_setNat_other _ _ hne', nat_bump_other _ _ _ hne, State.nat_setNat_same _ (by decide)]
  · rw [State.nat_setNat_other _ _ hne'', nat_bump_same _ _ _ (by decide), State.nat_setNat_other _ _ hne.symm]

theorem Told.slips {l : List Nat} (h : Told l s t) : t.slips = s.slips := h.quiet.field State.slips

theorem slips_slipped (s : State) (p h : Nat) : Tbl.get 0 (slipped s p h).slips p = Tbl.get 0 s.slips p + h :=
  Tbl.get_set_same _ _ _ _

theorem slipped_keeps (s : State) (p h : Nat) : (slipped s p h).recov = s.recov ∧ (∀ k, (slipped s p h).nat k = s.nat k) ∧
    memoryKept s (slipped s p h) ∧ workKept s (slipped s p h) :=
  ⟨rfl, fun _ => rfl, (Quiet.refl s).memoryKept, (Quiet.refl s).workKept⟩

/-- What a counted recovery leaves. -/
theorem recovered_leaves (s : State) (hp : p < 64) (h n : Nat) : (recovered s p h n).recov = s.recov ∧
    (recovered s p h n).nat (kRecoveryState p) = 0 ∧ (recovered s p h n).nat (kSlipFr p) = satAdd 32 (s.nat (kSlipFr p)) h ∧
    (recovered s p h n).nat (kLastRecoveryFr p) = min h 65535 ∧
    (recovered s p h n).nat (kRecoveries p) = satAdd 32 (s.nat (kRecoveries p)) 1 ∧
    Tbl.get 0 (recovered s p h n).slips p = Tbl.get 0 s.slips p + h ∧ memoryKept s (recovered s p h n) ∧
    workKept s (recovered s p h n) := by
  obtain ⟨hzero, hslip, hlast⟩ := holdCounted_leaves s p h
  have hcounted := told_holdCounted s p h
  obtain ⟨hrecov, hnat, hmem, hwork⟩ := slipped_keeps (holdCounted s p h) p h
  have hslips := slips_slipped (holdCounted s p h) p h
  rw [hcounted.slips] at hslips
  unfold recovered
  generalize slipped (holdCounted s p h) p h = v at hrecov hnat hmem hwork hslips
  have hbump := told_bump v (kRecoveries p) 1 32
  have hlog := told_dieEvent (v.bump (kRecoveries p)) 0x1804 p h n
  have hend := hbump.trans hlog
  have hk : ∀ k, 0x300011 ≤ k → k < 0x700000 → k ∉ logSlots := fun k h h' => notMem_logSlots (by omega) h'
  have hkept : ∀ k, 0x300011 ≤ k → k < 0x700000 → k ≠ kRecoveries p →
      ((v.bump (kRecoveries p)).dieEvent 0x1804 p h n).nat k = (holdCounted s p h).nat k := by
    intro k h h' hne
    refine (hend.nat fun hmem => ?_).trans (hnat k)
    obtain hmem | hmem := List.mem_append.1 hmem
    · exact hne (List.mem_singleton.1 hmem)
    · exact hk k h h' hmem
  have hcount : (holdCounted s p h).nat (kRecoveries p) = s.nat (kRecoveries p) :=
    hcounted.nat (by simp [kRecoveries, kRecoveryState, kSlipFr, kLastRecoveryFr])
  refine ⟨hend.recov.trans (hrecov.trans hcounted.recov), ?_, ?_, ?_, ?_, ?_, ?_, ?_⟩
  · rw [hkept _ (by unfold kRecoveryState; omega) (by unfold kRecoveryState; omega) (by unfold kRecoveryState kRecoveries; omega), hzero]
  · rw [hkept _ (by unfold kSlipFr; omega) (by unfold kSlipFr; omega) (by unfold kSlipFr kRecoveries; omega), hslip]
  · rw [hkept _ (by unfold kLastRecoveryFr; omega) (by unfold kLastRecoveryFr; omega) (by unfold kLastRecoveryFr kRecoveries; omega), hlast]
  · rw [hlog.nat (hk _ (by unfold kRecoveries; omega) (by unfold kRecoveries; omega)), nat_bump_same _ _ _ (by decide), hnat, hcount]
  · rw [hend.slips, hslips]
  · exact (hcounted.quiet.memoryKept.trans hmem).trans hend.quiet.memoryKept
  · exact (hcounted.quiet.workKept.trans hwork).trans hend.quiet.workKept

/-- What the counted hold of a restart leaves. -/
theorem restarted_leaves (s : State) (p h : Nat) : (slipped (holdCounted s p h) p h).holds = s.holds ∧
    (slipped (holdCounted s p h) p h).nat (kRecoveryState p) = 0 ∧
    (slipped (holdCounted s p h) p h).nat (kLastRecoveryFr p) = min h 65535 ∧
    (slipped (holdCounted s p h) p h).nat (kSlipFr p) = satAdd 32 (s.nat (kSlipFr p)) h ∧
    (slipped (holdCounted s p h) p h).coreMap = s.coreMap ∧ memoryKept s (slipped (holdCounted s p h) p h) ∧
    workKept s (slipped (holdCounted s p h) p h) := by
  obtain ⟨hzero, hslip, hlast⟩ := holdCounted_leaves s p h
  have hcounted := told_holdCounted s p h
  generalize holdCounted s p h = u at hzero hslip hlast hcounted
  obtain ⟨-, hnat, hmem, hwork⟩ := slipped_keeps u p h
  exact ⟨hcounted.holds, (hnat _).trans hzero, (hnat _).trans hlast, (hnat _).trans hslip, hcounted.coreMap,
    hcounted.quiet.memoryKept.trans hmem, hcounted.quiet.workKept.trans hwork⟩

/-- The hold of a restart that has ended is no frond's. -/
def heldFrom (s : State) (p start : Nat) : State := { s with holds := [⟨none, [p], start⟩] }

theorem heldFrom_keeps (s : State) (p start : Nat) : (∀ k, (holdEnded (heldFrom s p start) p).nat k = s.nat k) ∧
    (holdEnded (heldFrom s p start) p).holds = [] ∧ (holdEnded (heldFrom s p start) p).coreMap = s.coreMap ∧
    memoryKept s (holdEnded (heldFrom s p start) p) ∧ workKept s (holdEnded (heldFrom s p start) p) := by
  refine ⟨fun _ => rfl, ?_, rfl, (Quiet.refl s).memoryKept, (Quiet.refl s).workKept⟩
  simp [holdEnded, heldFrom]

theorem exec_fcRestartDone {start : Nat} (hholds : s.holds = [⟨some f, [p], start⟩])
    (hrecent : (s.recent 1000000000 (Tbl.get [] s.fcRestarts f)).length < 3) :
    exec (.fcRestartDone f true) s = .next ((heldFrom s p start).endHold p) := by
  have hfind : s.holds.find? (fun h => h.frond == some f) = some ⟨some f, [p], start⟩ := by simp [hholds]
  have hrepl : replaceFirst (fun h : Hold => h.frond == some f) (fun h => { h with frond := none }) s.holds =
      [⟨none, [p], start⟩] := by simp [hholds, replaceFirst]
  show execFcRestartDone f true s = _
  unfold execFcRestartDone
  rw [hfind]
  dsimp only
  rw [if_neg (by rintro (h | h); cases h; omega), hrepl]
  rfl

/-- The restart of a Frond Controller begins (R728). -/
def restarting (s : State) (f : Nat) : State :=
  let u := (s.bump (kFcRestarts f)).dieEvent 0x1805 f ((s.bump (kFcRestarts f)).nat (kFcRestarts f)) 0
  { u with
      fcRestarts := Tbl.set [] u.fcRestarts f (u.recent 1000000000 (Tbl.get [] u.fcRestarts f) ++ [u.nat kDevTimeNs]),
      holds := u.holds ++ [⟨some f, s.frondParts f, u.tb.ticks⟩] }

/-- A partition is held, with no run-ahead work of it left (R712). -/
def heldPart (s : State) (p : Nat) : State := (s.squashPart p (fun _ => true) (kSquashCore p)).setNat (kRecoveryState p) 1

theorem heldPart_eq (hra : s.runahead = []) (p : Nat) : heldPart s p = s.setNat (kRecoveryState p) 1 := by
  rw [heldPart, squashPart_nil hra]

theorem heldParts_eq (l : List Nat) : ∀ s : State, s.runahead = [] →
    l.foldl heldPart s = l.foldl (fun s p => s.setNat (kRecoveryState p) 1) s := by
  induction l with
  | nil => exact fun _ _ => rfl
  | cons p l ih =>
    intro s hra
    rw [List.foldl_cons, List.foldl_cons, heldPart_eq hra]
    exact ih (s.setNat (kRecoveryState p) 1) hra

theorem exec_fcRestart (hf : f < 16) (hok : f ∉ s.fcFailed) (hholds : ∀ h ∈ s.holds, h.frond ≠ some f) :
    exec (.fcRestart f) s = .next ((s.frondParts f).foldl heldPart (restarting s f)) := by
  refine if_neg ?_
  rintro (h | h | h)
  · omega
  · exact hok (List.contains_iff_mem.1 h)
  · obtain ⟨x, hx, he⟩ := List.any_eq_true.1 h
    exact hholds x hx (beq_iff_eq.1 he)

theorem nat_restarting (hf : f < 16) (s : State) :
    (restarting s f).nat (kFcRestarts f) = satAdd 32 (s.nat (kFcRestarts f)) 1 := by
  have hlog := told_dieEvent (s.bump (kFcRestarts f)) 0x1805 f ((s.bump (kFcRestarts f)).nat (kFcRestarts f)) 0
  exact (hlog.nat (notMem_logSlots (by unfold kFcRestarts; omega) (by unfold kFcRestarts; omega))).trans
    (nat_bump_same _ _ _ (by decide))

theorem restarting_leaves (s : State) (f : Nat) : (restarting s f).holds = s.holds ++ [⟨some f, s.frondParts f, s.tb.ticks⟩] ∧
    (restarting s f).runahead = s.runahead ∧ memoryKept s (restarting s f) ∧ workKept s (restarting s f) := by
  have hbump := told_bump s (kFcRestarts f) 1 32
  have hlog := hbump.trans (told_dieEvent (s.bump (kFcRestarts f)) 0x1805 f ((s.bump (kFcRestarts f)).nat (kFcRestarts f)) 0)
  refine ⟨?_, hlog.runahead, hlog.quiet.memoryKept, hlog.quiet.workKept⟩
  show State.holds _ ++ [⟨some f, s.frondParts f, _⟩] = _
  rw [hlog.holds, hlog.tb]

/-- A frond's slots become unmapped, one after another (R729). -/
structure Unslotted (f : Nat) (s t : State) : Prop where
  others : ∀ g i, i < 8 → g ≠ f → t.coreAt g i = s.coreAt g i
  none : ∀ i, s.coreAt f i = none → t.coreAt f i = none
  fcFailed : t.fcFailed = s.fcFailed
  holds : t.holds = s.holds
  runahead : t.runahead = s.runahead
  memory : memoryKept s t

theorem Unslotted.refl (s : State) : Unslotted f s s :=
  ⟨fun _ _ _ _ => rfl, fun _ h => h, rfl, rfl, rfl, (Quiet.refl s).memoryKept⟩

theorem Unslotted.trans (h : Unslotted f s t) (h' : Unslotted f t u) : Unslotted f s u :=
  ⟨fun g i hi hg => (h'.others g i hi hg).trans (h.others g i hi hg), fun i hi => h'.none i (h.none i hi),
    h'.fcFailed.trans h.fcFailed, h'.holds.trans h.holds, h'.runahead.trans h.runahead, h.memory.trans h'.memory⟩

theorem Told.unslotted {l : List Nat} (h : Told l s t) : Unslotted f s t :=
  ⟨fun g i _ _ => coreAt_congr h.coreMap g i, fun i hi => (coreAt_congr h.coreMap f i).trans hi, h.fcFailed, h.holds, h.runahead,
    h.quiet.memoryKept⟩

theorem unslotted_fenceCore (s : State) (c cause : Nat) : Unslotted f s (s.fenceCore c cause) := by
  obtain ⟨a, heq⟩ := fenceCore_eq s c cause
  rw [heq]
  refine Unslotted.trans (t := fenced s c cause) ?_ (told_dieEvent _ 0x1801 c cause a).unslotted
  exact ⟨fun _ _ _ _ => rfl, fun _ h => h, rfl, rfl, rfl, fun _ => rfl, fun _ => rfl, fun _ => rfl, fun _ => rfl, fun _ _ => rfl,
    fun _ => rfl, fun _ => rfl⟩

theorem Unmapped.unslotted {sl : Nat} (hsl : sl < 8) (h : Unmapped f sl s t) : Unslotted f s t ∧ t.coreAt f sl = Option.none := by
  have hset : ∀ g i, t.coreAt g i = if 8 * g + i = 8 * f + sl then Option.none else s.coreAt g i := by
    intro g i
    simp only [State.coreAt, h.coreMap]
    split
    · next he => rw [he, Tbl.get_set_same]
    · next he => rw [Tbl.get_set_other _ _ _ _ he]
  refine ⟨⟨fun g i hi hg => ?_, fun i hi => ?_, h.fcFailed, h.holds, h.runahead, h.memory⟩, ?_⟩
  · rw [hset, if_neg (by omega)]
  · rw [hset, hi]
    split <;> rfl
  · rw [hset, if_pos rfl]

/-- A slot of a failing frond becomes unmapped (R729). -/
def failSlot (f : Nat) (s : State) (sl : Nat) : State :=
  match s.coreAt f sl with
  | some c => (s.fenceCore c 6).unmapSlot f sl
  | none => s

theorem failSlot_leaves {sl : Nat} (hsl : sl < 8) (hra : s.runahead = []) :
    Unslotted f s (failSlot f s sl) ∧ (failSlot f s sl).coreAt f sl = none := by
  unfold failSlot
  split
  · next c hc =>
    have hfence := unslotted_fenceCore (f := f) s c 6
    obtain ⟨h, hnone⟩ := (unmapSlot_leaves (s.fenceCore c 6) f sl (hfence.runahead.trans hra)).1.unslotted hsl
    exact ⟨hfence.trans h, hnone⟩
  · next hc => exact ⟨.refl s, hc⟩

theorem failSlots_leave (l : List Nat) (hl : ∀ sl ∈ l, sl < 8) : ∀ s : State, s.runahead = [] →
    Unslotted f s (l.foldl (failSlot f) s) ∧ ∀ sl ∈ l, (l.foldl (failSlot f) s).coreAt f sl = none := by
  induction l with
  | nil => exact fun s _ => ⟨.refl s, fun _ h => absurd h List.not_mem_nil⟩
  | cons i l ih =>
    intro s hra
    obtain ⟨hi, hnone⟩ := failSlot_leaves (f := f) (hl i (List.mem_cons_self ..)) hra
    obtain ⟨hrest, hall⟩ := ih (fun sl h => hl sl (List.mem_cons_of_mem _ h)) (failSlot f s i) (hi.runahead.trans hra)
    refine ⟨hi.trans hrest, fun sl hsl => ?_⟩
    obtain rfl | hsl := List.mem_cons.1 hsl
    · exact hrest.none _ hnone
    · exact hall sl hsl

/-- A frond is recorded as failed. -/
def frondLost (s : State) (f : Nat) : State :=
  { s with fcFailed := s.fcFailed ++ [f], holds := s.holds.filter fun h => h.frond != some f }

/-- The spare of a failed frond is FENCED (R729). -/
def failSpare (f : Nat) (s : State) : State :=
  match (countFrom (9 * f) 9).find? fun c => s.nat (kCoreState c) == 0 with
  | some c => (s.fenceCore c 6).spendSpare c
  | none => s

theorem failFrond_eq (s : State) (f : Nat) : s.failFrond f = failSpare f ((countFrom 0 8).foldl (failSlot f) (frondLost s f)) := by
  unfold State.failFrond failSpare
  generalize countFrom 0 8 = l
  generalize countFrom (9 * f) 9 = m
  rfl

theorem failFrond_leaves (hra : s.runahead = []) : Unslotted f (frondLost s f) (s.failFrond f) ∧
    ∀ sl, sl < 8 → (s.failFrond f).coreAt f sl = none := by
  obtain ⟨hall, hnone⟩ := failSlots_leave (f := f) (countFrom 0 8) (fun sl h => (mem_countFrom.1 h).2) (frondLost s f) hra
  have hnone : ∀ sl, sl < 8 → ((countFrom 0 8).foldl (failSlot f) (frondLost s f)).coreAt f sl = none := fun sl hsl =>
    hnone sl (mem_countFrom.2 ⟨Nat.zero_le _, by omega⟩)
  rw [failFrond_eq]
  generalize (countFrom 0 8).foldl (failSlot f) (frondLost s f) = v at hall hnone
  unfold failSpare
  split
  · next c _ =>
    have h := (unslotted_fenceCore (f := f) v c 6).trans (spendSpare_leaves (v.fenceCore c 6) c).2.2.unslotted
    exact ⟨hall.trans h, fun sl hsl => h.none sl (hnone sl hsl)⟩
  · exact ⟨hall, hnone⟩

theorem unslotted_dropHolds (l : List Nat) : ∀ s : State, Unslotted f s (l.foldl (fun s p => s.dropHold p) s) := by
  induction l with
  | nil => exact fun s => .refl s
  | cons p l ih => exact fun s => (told_dropHold s p).unslotted.trans (ih _)

end Holds

/-- Settles O48: a rebuild run takes only its spare's LS and AS from the run, and holds and restarts end as R721 to R729 state. -/
theorem recoveriesAndRestarts : Obligations.RecoveriesAndRestarts := by
  refine ⟨?_, ?_, ?_, ?_, ?_, ?_, ?_, ?_⟩
  · intro s f sl c r x rest o hrec hat hphase hmark hruns hreissue hra
    refine ⟨_, exec_recoveryRunDone hrec.1 hat hphase hmark hruns hreissue, ?_⟩
    have hpop : ∀ u, still (popRun f sl rest u) = still u := fun _ => rfl
    have h : Rebuilds c s (if s.tb.window ≠ .compute then s else if s.runLeft r x = false then popRun f sl rest s
        else s.rebuildRun (withoutRecovery s f sl) f c x.desc o (popRun f sl rest)) := by
      split
      · exact rebuilds_of_still rfl
      · split
        · exact rebuilds_of_still rfl
        · exact rebuilds_rebuildRun hra _ _ hpop
    exact ⟨h.ls, h.acc, h.fs, h.hbm, fun k i => by simp only [State.oct, h.octs], areasKept_of_areas h.areas, h.jobs⟩
  · intro s f sl c r x rest o hrec hat hphase hmark hruns hreissue hwin hleft hop hgens ho hposted
    subst ho
    obtain ⟨t, hrun, hregs, hls, hacc⟩ := rebuildRun_order (run := withoutRecovery s f sl) (f := f) (c := c)
      (pop := popRun f sl rest) hop hgens hposted ⟨rfl, rfl, rfl⟩
    obtain ⟨hmem, hslots, hnat⟩ := counted_order (f := f) hregs hls hacc
    refine ⟨_, exec_recoveryRunDone hrec.1 hat hphase hmark hruns hreissue, ?_⟩
    rw [if_neg (by simp [hwin]), if_neg (by simp [hleft]), hrun]
    exact ⟨rfl, rfl, rfl, hmem, hslots, hnat⟩
  · intro s f sl c r x rest o hrec hat hphase hmark hruns hwin hleft
    show execRecoveryRunDone f sl o s = _
    simp only [execRecoveryRunDone, hrec.1, hat, hruns, hphase, Nat.not_le.2 hmark, hwin, hleft, ne_eq, not_true_eq_false, or_false,
      if_false, if_true]
  · intro s p r hp hrecov hpart hdone hholds hstate
    have hany : (s.recov.any fun r => r.part == p) = true := by simp [hrecov, hpart]
    have hexec : exec (.recoveryDone p) s = .next (s.endHold p) := if_pos hany
    have hheld : (holdEnded s p).recov = [] := by simp [holdEnded, hrecov, hpart]
    obtain ⟨hrec, h⟩ := recovered_leaves (holdEnded s p) hp (s.tb.ticks - r.frame) (0 + r.count)
    exact ⟨_, hexec.trans (congrArg Host.Outcome.next (endHold_recovered hp hrecov hpart hdone hholds hstate)), hrec.trans hheld, h⟩
  · intro s p r hrecov hpart hdone hholds
    have hany : (s.recov.any fun r => r.part == p) = true := by simp [hrecov, hpart]
    exact (if_pos hany).trans (congrArg Host.Outcome.next (endHold_under_way hrecov hpart hdone))
  · intro s f hf hok hholds hra
    obtain ⟨hheld, hra', hmem, hwork⟩ := restarting_leaves s f
    have hset : ∀ l : List Nat, ∀ u, Told (l.map kRecoveryState) u (l.foldl (fun s p => s.setNat (kRecoveryState p) 1) u) :=
      fun l => told_foldl_mem l fun u p hp => (told_setNat u (kRecoveryState p) 1).mono
        (by simpa using ⟨p, hp, rfl⟩)
    have hall := hset (s.frondParts f) (restarting s f)
    refine ⟨_, exec_fcRestart hf hok hholds, ?_⟩
    rw [heldParts_eq _ _ (hra'.trans hra)]
    refine ⟨?_, hall.holds.trans hheld, fun p hp => ?_, hmem.trans hall.quiet.memoryKept, hwork.trans hall.quiet.workKept⟩
    · refine (hall.nat ?_).trans (nat_restarting hf s)
      rw [List.mem_map]
      rintro ⟨p, -, h⟩
      unfold kRecoveryState kFcRestarts at h
      omega
    · exact foldl_sets (f := fun s p => s.setNat (kRecoveryState p) 1) (g := fun u : State => u.nat (kRecoveryState p)) _
        (fun u => State.nat_setNat_same _ (by decide))
        (fun u y _ hy => State.nat_setNat_other _ _ (by unfold kRecoveryState; omega)) hp _
  · intro s f p start hp hholds hrecov hstate hrecent
    have hend := endHold_restarted (s := heldFrom s p start) hp hrecov rfl hstate
    have hexec := (exec_fcRestartDone hholds hrecent).trans (congrArg Host.Outcome.next hend)
    obtain ⟨hnat, hheld, hmap, hmem, hwork⟩ := heldFrom_keeps s p start
    obtain ⟨hheld', hzero, hlast, hslip, hmap', hmem', hwork'⟩ := restarted_leaves (holdEnded (heldFrom s p start) p) p
      (s.tb.ticks - start)
    rw [hnat] at hslip
    exact ⟨_, hexec, hheld'.trans hheld, hzero, hlast, hslip, hmap'.trans hmap, hmem.trans hmem', hwork.trans hwork'⟩
  · intro s f h hf hholds hfrond hra
    have hfind : s.holds.find? (fun h => h.frond == some f) = some h := by simp [hholds, hfrond]
    obtain ⟨hall, hnone⟩ := failFrond_leaves (f := f) hra
    have hdrop := unslotted_dropHolds (f := f) h.parts (s.failFrond f)
    have hexec : exec (.fcRestartDone f false) s = .next (h.parts.foldl (fun s p => s.dropHold p) (s.failFrond f)) := by
      show execFcRestartDone f false s = _
      unfold execFcRestartDone
      rw [hfind]
      exact if_pos (.inl rfl)
    have hfailed : f ∈ (h.parts.foldl (fun s p => s.dropHold p) (s.failFrond f)).fcFailed := by
      rw [hdrop.fcFailed, hall.fcFailed]
      exact List.mem_append_right _ (List.mem_singleton_self f)
    refine ⟨_, hexec, hfailed, ?_, fun sl hsl => hdrop.none sl (hnone sl hsl), ?_, fun g i _ hg hi => ?_, hall.memory.trans hdrop.memory⟩
    · rw [hdrop.holds, hall.holds]
      simp [frondLost, hholds, hfrond]
    · exact if_pos (List.contains_iff_mem.2 hfailed)
    · exact (hdrop.others g i hi hg).trans (hall.others g i hi hg)

end Sys2Proof.Safety

namespace Sys2Proof.Safety

open Sys2Proof.Machine


/-! ### The swap of compute firmware (O49) -/

section Walks

variable {s t : State} {p : Nat}

theorem ownsPa_congr (h : t.octs = s.octs) (p pa : Nat) : t.ownsPa p pa = s.ownsPa p pa := by
  simp only [State.ownsPa, State.granuleOwner, State.oct, h]

theorem hbmRead_congr (h : t.hbm = s.hbm) (pa n : Nat) : t.hbmRead pa n = s.hbmRead pa n := by simp only [State.hbmRead, h]

/-- A walk reads HBM and the owners of granules only (R523). -/
theorem walkFrom_congr (ho : t.octs = s.octs) (hh : t.hbm = s.hbm) (p va : Nat) (wr : Bool) (l : List (Nat × Nat)) (tb : Nat) :
    t.walkFrom p va wr l tb = s.walkFrom p va wr l tb := by
  induction l generalizing tb with
  | nil => rfl
  | cons x l ih => simp only [State.walkFrom, ownsPa_congr ho, hbmRead_congr hh, ih]

theorem walk_congr (ho : t.octs = s.octs) (hh : t.hbm = s.hbm) (hb : t.nat (kMapBase p) = s.nat (kMapBase p)) (va : Nat) (wr : Bool) :
    t.walk p va wr = s.walk p va wr := by simp only [State.walk, hb, walkFrom_congr ho hh]

theorem vaRead_congr (ho : t.octs = s.octs) (hh : t.hbm = s.hbm) (hb : t.nat (kMapBase p) = s.nat (kMapBase p)) (va n : Nat) :
    t.vaRead p va n = s.vaRead p va n := by simp only [State.vaRead, walk_congr ho hh hb, hbmRead_congr hh]

theorem swapRead_congr (ho : t.octs = s.octs) (hh : t.hbm = s.hbm) (hb : t.nat (kMapBase 0) = s.nat (kMapBase 0))
    (hsrc : t.nat kFwSwapSrc = s.nat kFwSwapSrc) : t.swapRead = s.swapRead := by
  funext off n
  simp only [State.swapRead, vaRead_congr ho hh hb, hsrc]

end Walks

section Swaps

variable {s : State} {who : Requester} {r : Nat}

/-- The firmware banks change. -/
def banked (s : State) (new : Option (Nat × Nat)) (revertOk : Bool) : State :=
  { s with boot := { s.boot with bankNew := new, revertOk := revertOk } }

/-- A staged package has been checked (R740). -/
def swapChecked (s : State) (r : Nat) : State := (banked s none false).setNat kFwSwapReason r

theorem banked_keeps (s : State) (new : Option (Nat × Nat)) (revertOk : Bool) : (∀ k, (banked s new revertOk).reg k = s.reg k) ∧
    memoryKept s (banked s new revertOk) ∧ workKept s (banked s new revertOk) :=
  ⟨fun _ => rfl, (Quiet.refl s).memoryKept, (Quiet.refl s).workKept⟩

theorem swapRead_swapChecked (s : State) (r : Nat) : (swapChecked s r).swapRead = s.swapRead :=
  swapRead_congr rfl rfl (State.nat_setNat_other _ _ (by decide)) (State.nat_setNat_other _ _ (by decide))

theorem swapVerify_eq (sigOk : Bool) (l : EntLoc) (h1 : s.nat kFwSwapState ≠ 1) (h3 : s.nat kFwSwapState ≠ 3)
    (hr : pkgCheck s.swapRead s.swapChunk (s.nat kStepping) (s.nat kFwSvnFloor) sigOk = r) :
    swapVerify sigOk s l = if r ≠ 0 then .ok ((swapChecked s r).setNat kFwSwapState 4)
      else .ok ((banked (swapChecked s r) (some (pkgVersion s.swapRead, pkgSvn s.swapRead)) false).setNat kFwSwapState 1) := by
  rw [← swapRead_swapChecked s r]
  unfold swapVerify
  rw [hr, if_neg (by tauto)]
  rfl

theorem swapChecked_keeps (s : State) (hr : r < 2 ^ 64) : (swapChecked s r).nat kFwSwapReason = r ∧
    slotsKept s (swapChecked s r) [kFwSwapReason] ∧ memoryKept s (swapChecked s r) ∧ workKept s (swapChecked s r) := by
  obtain ⟨hreg, hmem, hwork⟩ := banked_keeps s none false
  have hset := told_setNat (banked s none false) kFwSwapReason r
  exact ⟨State.nat_setNat_same _ hr, fun k hk => (hset.reg hk).trans (hreg k), hmem.trans hset.quiet.memoryKept,
    hwork.trans hset.quiet.workKept⟩

/-- The firmware that is swapped in (R741). -/
def versions (s : State) (v n : Nat) : State :=
  (((s.setNat kFwVersion v).setNat kFwSvn n).setNat kFwPrevVersion (s.nat kFwVersion)).setNat kFwSwapState 0

/-- The swap itself, before its record in the log (R742). -/
def swapped (s : State) (v n : Nat) : State := banked (versions s v n) (some (s.nat kFwVersion, s.nat kFwSvn)) true

theorem versions_leaves {v n : Nat} (s : State) (hv : v < 2 ^ 32) (hn : n < 2 ^ 16) : (versions s v n).nat kFwVersion = v ∧
    (versions s v n).nat kFwSvn = n ∧ (versions s v n).nat kFwPrevVersion = s.nat kFwVersion ∧
    (versions s v n).nat kFwSwapState = 0 ∧ Told [kFwVersion, kFwSvn, kFwPrevVersion, kFwSwapState] s (versions s v n) := by
  have hlt : s.nat kFwVersion < 2 ^ 64 := BitVec.isLt _
  refine ⟨?_, ?_, ?_, State.nat_setNat_same _ (by decide), ?_⟩
  · rw [versions, State.nat_setNat_other _ _ (by decide), State.nat_setNat_other _ _ (by decide),
      State.nat_setNat_other _ _ (by decide), State.nat_setNat_same _ (by omega)]
  · rw [versions, State.nat_setNat_other _ _ (by decide), State.nat_setNat_other _ _ (by decide),
      State.nat_setNat_same _ (by omega)]
  · rw [versions, State.nat_setNat_other _ _ (by decide), State.nat_setNat_same _ hlt]
  · exact ((told_setNat s kFwVersion v).trans (told_setNat _ kFwSvn n)).trans
      ((told_setNat _ kFwPrevVersion _).trans (told_setNat _ kFwSwapState 0))

theorem swapped_keeps (s : State) (v n : Nat) : (∀ k, (swapped s v n).reg k = (versions s v n).reg k) ∧
    (swapped s v n).boot.revertOk = true ∧ memoryKept (versions s v n) (swapped s v n) ∧ workKept (versions s v n) (swapped s v n) ∧
    (swapped s v n).areas = (versions s v n).areas := by
  obtain ⟨hreg, hmem, hwork⟩ := banked_keeps (versions s v n) (some (s.nat kFwVersion, s.nat kFwSvn)) true
  exact ⟨hreg, rfl, hmem, hwork, rfl⟩

/-- No recovery hold is in force, or one is (R741). -/
theorem anyHeld_iff (s : State) : ((countFrom 0 64).any fun p => s.nat (kRecoveryState p) == 1) = true ↔
    ∃ p, p < 64 ∧ s.nat (kRecoveryState p) = 1 := by
  simp [mem_countFrom]

theorem exec_fwSwapApply {v n : Nat} (hnew : s.boot.bankNew = some (v, n)) (hstate : s.nat kFwSwapState = 3) :
    exec .fwSwapApply s = if s.frameNo < s.nat kFwSwapFrame ∨ ((countFrom 0 64).any fun p => s.nat (kRecoveryState p) == 1) = true
      then .next s
      else .next ((swapped s v n).dieEvent 0x1809 0 v (s.nat kFwVersion)) := by
  show execFwSwapApply s = _
  simp only [execFwSwapApply, hnew, hstate, ne_eq, not_true_eq_false, false_or]
  rfl

end Swaps

/-- Settles O49: each command by the state it finds, and what the writes of FW_SWAP_CTRL leave. -/
theorem firmwareSwap : Obligations.FirmwareSwap := by
  refine ⟨?_, ?_, ?_, ?_, ?_, ?_⟩
  · intro s who sigOk r hacc hr
    have hlt : r < 2 ^ 64 := hr ▸ pkgCheck_lt ..
    obtain ⟨hreason, hslots, hmem, hwork⟩ := swapChecked_keeps s hlt
    have hboth : kFwSwapReason ≠ kFwSwapState := by decide
    refine ⟨fun h1 h3 h0 => ?_, fun h1 h3 h0 => ?_⟩
    · obtain ⟨hreg, hmem', hwork'⟩ := banked_keeps (swapChecked s r) (some (pkgVersion s.swapRead, pkgSvn s.swapRead)) false
      have hset := told_setNat (banked (swapChecked s r) (some (pkgVersion s.swapRead, pkgSvn s.swapRead)) false) kFwSwapState 1
      refine ⟨_, next_applied (u := (banked (swapChecked s r) (some (pkgVersion s.swapRead, pkgSvn s.swapRead)) false).setNat
        kFwSwapState 1) hacc fun l => (swapVerify_eq sigOk l h1 h3 hr).trans (if_neg (by simp [h0])), ?_, ?_, rfl, rfl,
        slotsKept.applied (fun k hk => ?_) who, (hmem.trans (hmem'.trans hset.quiet.memoryKept)).applied who,
        (hwork.trans (hwork'.trans hset.quiet.workKept)).applied who⟩
      · exact (nat_of_reg (State.reg_applied ..)).trans (State.nat_setNat_same _ (by decide))
      · rw [nat_of_reg (State.reg_applied ..), State.nat_setNat_other _ _ hboth, nat_of_reg (hreg _), hreason, h0]
      · simp only [List.mem_cons, List.not_mem_nil, or_false, not_or] at hk
        rw [hset.reg (by simpa using hk.1), hreg, hslots k (by simpa using hk.2)]
    · have hset := told_setNat (swapChecked s r) kFwSwapState 4
      refine ⟨_, next_applied (u := (swapChecked s r).setNat kFwSwapState 4) hacc fun l =>
        (swapVerify_eq sigOk l h1 h3 hr).trans (if_pos h0), ?_, ?_, rfl,
        slotsKept.applied (fun k hk => ?_) who, (hmem.trans hset.quiet.memoryKept).applied who,
        (hwork.trans hset.quiet.workKept).applied who⟩
      · exact (nat_of_reg (State.reg_applied ..)).trans (State.nat_setNat_same _ (by decide))
      · rw [nat_of_reg (State.reg_applied ..), State.nat_setNat_other _ _ hboth, hreason]
      · simp only [List.mem_cons, List.not_mem_nil, or_false, not_or] at hk
        rw [hset.reg (by simpa using hk.1), hslots k (by simpa using hk.2)]
  · exact fun s h => if_pos h
  · refine fun s who hacc => ⟨fun h2 hframe => next_applied hacc fun l => ?_, fun h => next_refused hacc fun l => ?_⟩
    · exact orRefuse_true (by simp [h2, hframe]) _ _
    · refine orRefuse_false ?_ _ _
      obtain h | h := h
      · simp [h]
      · simp [Nat.not_le.2 h]
  · refine fun s who hacc => ⟨fun hok h3 hframe => next_applied hacc fun l => ?_, fun h => next_refused hacc fun l => ?_⟩
    · exact orRefuse_true (by simp [hok, h3, hframe]) _ _
    · refine orRefuse_false ?_ _ _
      obtain h | h := h
      · simp [h]
      · simp [Nat.not_le.2 h]
  · intro s who hacc hstate
    obtain ⟨hreg, hmem, hwork⟩ := banked_keeps s (if s.boot.revertOk then s.boot.bankNew else none) s.boot.revertOk
    have hset := told_setNat (banked s (if s.boot.revertOk then s.boot.bankNew else none) s.boot.revertOk) kFwSwapState 0
    refine ⟨_, next_applied (u := (banked s (if s.boot.revertOk then s.boot.bankNew else none) s.boot.revertOk).setNat
      kFwSwapState 0) hacc fun l => if_pos hstate, ?_, slotsKept.applied (fun k hk => (hset.reg hk).trans (hreg k)) who,
      (hmem.trans hset.quiet.memoryKept).applied who, (hwork.trans hset.quiet.workKept).applied who⟩
    exact (nat_of_reg (State.reg_applied ..)).trans (State.nat_setNat_same _ (by decide))
  · intro s v n hnew hv hn hstate
    refine ⟨fun hframe hrec => ?_, fun h => (exec_fwSwapApply hnew hstate).trans (if_pos (h.imp_right (anyHeld_iff s).2))⟩
    have hgo : ¬ (s.frameNo < s.nat kFwSwapFrame ∨ ((countFrom 0 64).any fun p => s.nat (kRecoveryState p) == 1) = true) := by
      rintro (h | h)
      · omega
      · obtain ⟨p, hp, h⟩ := (anyHeld_iff s).1 h
        exact hrec p hp h
    obtain ⟨hversion, hsvn, hprev, hzero, htold⟩ := versions_leaves s hv hn
    obtain ⟨hreg, hok, hmem, hwork, hareas⟩ := swapped_keeps s v n
    have hlog := told_dieEvent (swapped s v n) 0x1809 0 v (s.nat kFwVersion)
    refine ⟨_, (exec_fwSwapApply hnew hstate).trans (if_neg hgo), ?_, ?_, ?_, ?_, ?_, fun k hk => ?_,
      (htold.quiet.memoryKept.trans hmem).trans hlog.quiet.memoryKept, (htold.quiet.workKept.trans hwork).trans hlog.quiet.workKept,
      areasKept_of_areas (hlog.areas.trans (hareas.trans htold.areas))⟩
    · rw [hlog.nat (by decide), nat_of_reg (hreg _), hversion]
    · rw [hlog.nat (by decide), nat_of_reg (hreg _), hsvn]
    · rw [hlog.nat (by decide), nat_of_reg (hreg _), hprev]
    · rw [hlog.nat (by decide), nat_of_reg (hreg _), hzero]
    · rw [hlog.boot, hok]
    · simp only [List.mem_cons, not_or] at hk
      rw [hlog.reg (by simp [logSlots, hk]), hreg, htold.reg (by simp [hk])]

end Sys2Proof.Safety

namespace Sys2Proof.Safety

open Sys2Proof.Machine

/-! ### Bus mastering (O51) -/

section Messages

variable {s : State} {fn vec : Nat}

theorem fn_setFn_same (s : State) (f : Nat) (v : FnSt) : (s.setFn f v).fn f = v := by
  simp only [State.fn, State.setFn]
  exact Tbl.get_set_same _ _ _ _

theorem fn_setFn_other (s : State) {f g : Nat} (h : g ≠ f) (v : FnSt) : (s.setFn f v).fn g = s.fn g := by
  simp only [State.fn, State.setFn]
  exact Tbl.get_set_other _ _ _ _ h

theorem told_setFn (s : State) (f : Nat) (v : FnSt) : Told [] s (s.setFn f v) := ⟨quiet_setFn s f v, fun _ _ => rfl⟩

/-- Messages that are sent, one after another. -/
def sent {α : Type} (s : State) (f : α → Output) (l : List α) : State := l.foldl (fun s x => s.emit (f x)) s

theorem sent_leaves {α : Type} (f : α → Output) (l : List α) : ∀ s : State, (sent s f l).out = s.out ++ l.map f ∧
    (sent s f l).fns = s.fns ∧ Told [] s (sent s f l) := by
  induction l with
  | nil => exact fun s => ⟨(List.append_nil _).symm, rfl, .refl ..⟩
  | cons x l ih =>
    intro s
    obtain ⟨hout, hfns, htold⟩ := ih (s.emit (f x))
    refine ⟨hout.trans ?_, hfns, (told_emit s (f x)).and htold⟩
    rw [List.map_cons, ← List.singleton_append, ← List.append_assoc]
    rfl

theorem fn_congr {t : State} (h : t.fns = s.fns) (f : Nat) : t.fn f = s.fn f := by simp only [State.fn, h]

/-- A function that may send its messages sends the pending ones of its unmasked vectors (R773). -/
theorem flushVecs_sends (hlink : s.linkDown = false) (hsends : (s.fn fn).sends = true) (hmask : (s.fn fn).fnMask = false) :
    s.flushVecs fn = sent (s.setFn fn { s.fn fn with
      pendingVecs := (s.fn fn).pendingVecs.filter fun v => !(s.fn fn).unmasked.contains v }) (.msix fn ·)
        ((s.fn fn).pendingVecs.filter fun v => (s.fn fn).unmasked.contains v) := by
  unfold State.flushVecs
  dsimp only
  rw [if_pos (by rw [hsends, hmask]; rfl)]
  exact if_neg (by rw [State.setFn_linkDown, hlink]; exact Bool.false_ne_true)

theorem flushVecs_masked (hmask : (s.fn fn).fnMask = true) : s.flushVecs fn = s := by
  unfold State.flushVecs
  dsimp only
  rw [hmask, if_neg (by simp)]

/-- Held writes of a function that may send go out in order (R774). -/
theorem hostWrites_sent (l : List (Nat × List Byte)) : ∀ s : State, s.linkDown = false → (s.fn fn).sends = true →
    l.foldl (fun s x => s.hostWrite fn x.1 x.2) s = sent s (fun x => .hostWrite fn x.1 x.2) l := by
  induction l with
  | nil => exact fun _ _ _ => rfl
  | cons x l ih =>
    intro s hlink hsends
    have hstep : s.hostWrite fn x.1 x.2 = s.emit (.hostWrite fn x.1 x.2) := by
      unfold State.hostWrite
      dsimp only
      rw [hlink, hsends, if_neg Bool.false_ne_true, if_pos rfl]
    rw [List.foldl_cons, hstep]
    exact ih (s.emit (.hostWrite fn x.1 x.2)) hlink hsends

theorem flushHeld_sends (hlink : s.linkDown = false) (hsends : (s.fn fn).sends = true) :
    s.flushHeld fn = sent (s.setFn fn { s.fn fn with held := [] }) (fun x => .hostWrite fn x.1 x.2) (s.fn fn).held := by
  unfold State.flushHeld
  dsimp only
  rw [if_pos hsends]
  exact hostWrites_sent _ _ hlink (by rw [fn_setFn_same]; exact hsends)

/-- What a function leaves that changes and then sends its pending messages. -/
theorem flushVecs_leaves (hlink : s.linkDown = false) (v : FnSt) (hsends : v.sends = true) (hmask : v.fnMask = false) :
    ((s.setFn fn v).flushVecs fn).out = s.out ++ (v.pendingVecs.filter fun x => v.unmasked.contains x).map (.msix fn ·) ∧
    ((s.setFn fn v).flushVecs fn).fn fn = { v with pendingVecs := v.pendingVecs.filter fun x => !v.unmasked.contains x } ∧
    Told [] s ((s.setFn fn v).flushVecs fn) := by
  have hfn := fn_setFn_same s fn v
  have heq := flushVecs_sends (s := s.setFn fn v) (fn := fn) hlink (by rw [hfn]; exact hsends) (by rw [hfn]; exact hmask)
  rw [hfn] at heq
  obtain ⟨hout, hfns, htold⟩ := sent_leaves (.msix fn ·) (v.pendingVecs.filter fun x => v.unmasked.contains x)
    ((s.setFn fn v).setFn fn { v with pendingVecs := v.pendingVecs.filter fun x => !v.unmasked.contains x })
  rw [← heq] at hout hfns htold
  exact ⟨hout, (fn_congr hfns fn).trans (fn_setFn_same ..), ((told_setFn s fn v).and (told_setFn _ fn _)).and htold⟩

/-- What a function leaves that changes and then sends its held writes. -/
theorem flushHeld_leaves (hlink : s.linkDown = false) (v : FnSt) (hsends : v.sends = true) :
    ((s.setFn fn v).flushHeld fn).out = s.out ++ v.held.map (fun x => .hostWrite fn x.1 x.2) ∧
    ((s.setFn fn v).flushHeld fn).fn fn = { v with held := [] } ∧ Told [] s ((s.setFn fn v).flushHeld fn) := by
  have hfn := fn_setFn_same s fn v
  have heq := flushHeld_sends (s := s.setFn fn v) (fn := fn) hlink (by rw [hfn]; exact hsends)
  rw [hfn] at heq
  obtain ⟨hout, hfns, htold⟩ := sent_leaves (fun x : Nat × List Byte => .hostWrite fn x.1 x.2) v.held
    ((s.setFn fn v).setFn fn { v with held := [] })
  rw [← heq] at hout hfns htold
  exact ⟨hout, (fn_congr hfns fn).trans (fn_setFn_same ..), ((told_setFn s fn v).and (told_setFn _ fn _)).and htold⟩

/-- A write of a function that may not send is held (R774). -/
theorem hostWrite_held (hlink : s.linkDown = false) (hsends : (s.fn fn).sends = false) (a : Nat) (b : List Byte) :
    s.hostWrite fn a b = s.setFn fn { s.fn fn with held := (s.fn fn).held ++ [(a, b)] } := by
  unfold State.hostWrite
  dsimp only
  rw [hlink, hsends, if_neg Bool.false_ne_true, if_neg Bool.false_ne_true]

theorem linkUp_of_fnUp (h : s.fnUp fn = true) : s.linkDown = false := by
  unfold State.fnUp at h
  simp only [Bool.and_eq_true, Bool.not_eq_true'] at h
  exact h.1.2

end Messages

/-- Settles O51: what a flush sends, and what a masked vector or a function that may not send keeps. -/
theorem busMastering : Obligations.BusMastering := by
  refine ⟨?_, ?_, ?_, ?_, ?_, ?_⟩
  · intro s fn vec hlink hmasked
    have hno : ((s.fn fn).sends && !(s.fn fn).fnMask && (s.fn fn).unmasked.contains vec) = false := by simp [hmasked]
    by_cases hmem : vec ∈ (s.fn fn).pendingVecs
    · have heq : s.msix fn vec = s := by
        unfold State.msix
        dsimp only
        rw [hlink, hno, if_neg Bool.false_ne_true, if_neg Bool.false_ne_true, if_pos (List.contains_iff_mem.2 hmem)]
      rw [heq]
      exact ⟨rfl, hmem, rfl⟩
    · have heq : s.msix fn vec = s.setFn fn { s.fn fn with pendingVecs := (s.fn fn).pendingVecs ++ [vec] } := by
        unfold State.msix
        dsimp only
        rw [hlink, hno, if_neg Bool.false_ne_true, if_neg Bool.false_ne_true, if_neg (by simpa using hmem)]
      rw [heq, fn_setFn_same]
      exact ⟨rfl, List.mem_append_right _ (List.mem_singleton_self vec), rfl⟩
  · intro s fn vec hup hvec hsends hmask hnew hpending
    have hlink := linkUp_of_fnUp hup
    have hexec : exec (.msixUnmask fn (some vec)) s =
        .next ((s.setFn fn { s.fn fn with unmasked := (s.fn fn).unmasked ++ [vec] }).flushVecs fn) := by
      show execMsixUnmask fn (some vec) s = _
      simp [execMsixUnmask, hup, Nat.not_le.2 hvec, hnew]
    obtain ⟨hout, hfn, htold⟩ := flushVecs_leaves hlink { s.fn fn with unmasked := (s.fn fn).unmasked ++ [vec] } hsends hmask
    refine ⟨_, hexec, ?_, ?_, ?_, htold.slots, htold.quiet.memoryKept, htold.quiet.workKept⟩
    · rw [hout]
      simp [hpending]
    · rw [hfn]
      simp [hpending]
    · rw [hfn]
  · intro s fn vec hup hvec
    show execMsixUnmask fn (some vec) s = _
    simp [execMsixUnmask, hup, hvec]
  · intro s fn hup hsends
    have hlink := linkUp_of_fnUp hup
    have hexec : exec (.msixUnmask fn none) s = .next ((s.setFn fn { s.fn fn with fnMask := false }).flushVecs fn) :=
      if_neg (by rw [hup]; decide)
    obtain ⟨hout, hfn, htold⟩ := flushVecs_leaves hlink { s.fn fn with fnMask := false } hsends rfl
    exact ⟨_, hexec, by rw [hfn], hout, htold.slots, htold.quiet.memoryKept, htold.quiet.workKept⟩
  · intro s fn hup hd3 hmask
    have hlink := linkUp_of_fnUp hup
    have hexec : exec (.busMasterEnable fn false) s = .next (((s.setFn fn { s.fn fn with bme := true }).flushHeld fn).flushVecs fn) :=
      if_pos hup
    obtain ⟨hout, hfn, htold⟩ := flushHeld_leaves (fn := fn) hlink { s.fn fn with bme := true } (by simp [FnSt.sends, hd3])
    rw [flushVecs_masked (by rw [hfn]; exact hmask)] at hexec
    exact ⟨_, hexec, by rw [hfn], by rw [hfn], hout, by rw [hfn], htold.slots, htold.quiet.memoryKept, htold.quiet.workKept⟩
  · intro s fn d3 hup
    have hlink := linkUp_of_fnUp hup
    have hexec : exec (.busMasterDisable fn d3) s =
        .next (s.setFn fn (if d3 then { s.fn fn with d3hot := true } else { s.fn fn with bme := false })) := if_pos hup
    have hsends : (if d3 then { s.fn fn with d3hot := true } else { s.fn fn with bme := false }).sends = false := by
      cases d3 <;> simp [FnSt.sends]
    have hheld : (if d3 then { s.fn fn with d3hot := true } else { s.fn fn with bme := false }).held = (s.fn fn).held := by
      cases d3 <;> rfl
    generalize (if d3 then { s.fn fn with d3hot := true } else { s.fn fn with bme := false }) = v at hexec hsends hheld
    have hfn := fn_setFn_same s fn v
    have htold := told_setFn s fn v
    refine ⟨_, hexec, by rw [hfn]; exact hsends, fun a b => ?_, htold.slots, htold.quiet.memoryKept, htold.quiet.workKept⟩
    rw [hostWrite_held (s := s.setFn fn v) hlink (by rw [hfn]; exact hsends), hfn, fn_setFn_same]
    exact ⟨rfl, congrArg (· ++ [(a, b)]) hheld⟩

end Sys2Proof.Safety

namespace Sys2Proof.Safety

open Sys2Proof.Machine

/-! ### What writes to HBM change beside it -/

/-- The state without what a write to HBM may change: the slots, HBM, the caches, cuts, the streams' waiting records, messages. -/
def hbmView (s : State) : State :=
  { s with regs := [], hbm := [], msc := [], tlb := [], free := 0, clean := [], cuts := [], streams := [], fns := [], out := [] }

/-- Writes to HBM, with what follows from them: cuts that are abandoned, job events, fences and the records that wait on streams.
Below the entries of partitions' cuts, of windows and of fences they change the counters of the MSC only. -/
structure HbmWrote (s t : State) : Prop where
  view : hbmView t = hbmView s
  slots : ∀ k, k < 0x640000 → k ∉ [kMscHits, kMscMisses] → t.reg k = s.reg k
  fns : ∀ f, (t.fn f).bme = (s.fn f).bme ∧ (t.fn f).unmasked = (s.fn f).unmasked

section HbmWrites

variable {s t u : State} {p : Nat}

theorem HbmWrote.refl (s : State) : HbmWrote s s := ⟨rfl, fun _ _ _ => rfl, fun _ => ⟨rfl, rfl⟩⟩

theorem HbmWrote.trans (h : HbmWrote s t) (h' : HbmWrote t u) : HbmWrote s u :=
  ⟨h'.view.trans h.view, fun k hk hne => (h'.slots k hk hne).trans (h.slots k hk hne),
    fun f => ⟨(h'.fns f).1.trans (h.fns f).1, (h'.fns f).2.trans (h.fns f).2⟩⟩

/-- Whatever a state holds beside what a write may change is the same. -/
theorem HbmWrote.field {α : Type} (h : HbmWrote s t) (g : State → α) : g (hbmView t) = g (hbmView s) := congrArg g h.view

theorem HbmWrote.nat (h : HbmWrote s t) {k : Nat} (hk : k < 0x640000) (hne : k ∉ [kMscHits, kMscMisses]) : t.nat k = s.nat k :=
  nat_of_reg (h.slots k hk hne)

theorem HbmWrote.foldl {α : Type} {f : State → α → State} (hf : ∀ s x, HbmWrote s (f s x)) (l : List α) :
    ∀ s, HbmWrote s (l.foldl f s) := by
  induction l with
  | nil => exact .refl
  | cons x l ih => exact fun s => (hf s x).trans (ih (f s x))

theorem HbmWrote.ite {c : Prop} [Decidable c] (h : HbmWrote s t) (h' : HbmWrote s u) : HbmWrote s (if c then t else u) := by
  split
  · exact h
  · exact h'

/-- A change of what a write may change, but for slots and functions. -/
theorem hbmWrote_of_view (hview : hbmView t = hbmView s) (hregs : t.regs = s.regs) (hfns : t.fns = s.fns) : HbmWrote s t :=
  ⟨hview, fun k _ _ => State.reg_of_regs hregs k, fun f => by rw [fn_congr hfns]; exact ⟨rfl, rfl⟩⟩

theorem Cached.hbmWrote (h : Cached s t) : HbmWrote s t where
  view := by
    have hview := congrArg hbmView h.eq
    exact hview
  slots k _ hne := h.slots k hne
  fns f := by
    have hfns : t.fns = s.fns := h.field State.fns
    rw [fn_congr hfns]
    exact ⟨rfl, rfl⟩

theorem hbmWrote_setReg (s : State) {k : Nat} (hk : 0x640000 ≤ k) (w : Word) : HbmWrote s (s.setReg k w) :=
  ⟨rfl, fun j hj _ => State.reg_setReg_other _ _ (by omega), fun _ => ⟨rfl, rfl⟩⟩

theorem hbmWrote_setNat (s : State) {k : Nat} (hk : 0x640000 ≤ k) (n : Nat) : HbmWrote s (s.setNat k n) := hbmWrote_setReg s hk _

theorem hbmWrote_bump (s : State) {k : Nat} (hk : 0x640000 ≤ k) (n : Nat) : HbmWrote s (s.bump k n) := hbmWrote_setReg s hk _

theorem hbmWrote_wrapAdd (s : State) {k : Nat} (hk : 0x640000 ≤ k) (n w : Nat) : HbmWrote s (s.wrapAdd k n w) := hbmWrote_setReg s hk _

theorem hbmWrote_setCut (s : State) (p : Nat) (c : CutSt) : HbmWrote s (s.setCut p c) := hbmWrote_of_view rfl rfl rfl

theorem hbmWrote_setStream (s : State) (st : Nat) (v : StreamSt) : HbmWrote s (s.setStream st v) := hbmWrote_of_view rfl rfl rfl

theorem hbmWrote_queueRec (s : State) (st : Nat) (w : WaitRec) : HbmWrote s (s.queueRec st w) := hbmWrote_setStream ..

/-- A message leaves the masks of its function as they are. -/
theorem hbmWrote_msix (s : State) (fn vec : Nat) : HbmWrote s (s.msix fn vec) := by
  unfold State.msix
  refine .ite (.refl s) (.ite (hbmWrote_of_view rfl rfl rfl) (.ite (.refl s) ⟨rfl, fun _ _ _ => rfl, fun f => ?_⟩))
  by_cases hf : f = fn
  · rw [hf, fn_setFn_same]
    exact ⟨rfl, rfl⟩
  · rw [fn_setFn_other _ hf]
    exact ⟨rfl, rfl⟩

theorem kShadowSlotsUsed_high (p : Nat) : 0x640000 ≤ kShadowSlotsUsed p := by unfold kShadowSlotsUsed; omega

theorem kShadowPeak_high (p : Nat) : 0x640000 ≤ kShadowPeak p := by unfold kShadowPeak; omega

theorem hbmWrote_takeSlot {i g k : Nat} (h : s.takeSlot p i g = some (k, t)) : HbmWrote s t := by
  unfold State.takeSlot at h
  dsimp only at h
  split at h
  · cases h
    exact .refl s
  · split at h
    · cases h
    · obtain ⟨-, rfl⟩ := Prod.mk.inj (Option.some.inj h)
      exact (hbmWrote_setCut ..).trans ((hbmWrote_setNat _ (kShadowSlotsUsed_high p) _).trans
        (.ite (hbmWrote_setNat _ (kShadowPeak_high p) _) (.refl _)))

theorem hbmWrote_copyBefore (s : State) (p va pa : Nat) : HbmWrote s (s.copyBefore p va pa) := by
  unfold State.copyBefore
  dsimp only
  split
  · exact .refl s
  · split
    · split
      · exact hbmWrote_setCut ..
      · next h =>
        have hslot := hbmWrote_takeSlot h
        refine .ite hslot ?_
        split
        · exact hbmWrote_setCut ..
        · exact hslot.trans (hbmWrote_of_view rfl rfl rfl)
    · exact .refl s

theorem hbmWrote_bytes (s : State) (h : Tbl Byte) (n : Nat) : HbmWrote s { s with hbm := h, free := n } := hbmWrote_of_view rfl rfl rfl

theorem hbmWrote_clean (s : State) (h : Tbl Byte) (c : Tbl Bool) : HbmWrote s { s with hbm := h, clean := c } :=
  hbmWrote_of_view rfl rfl rfl

theorem hbmWrote_hbmPut (s : State) (p va pa : Nat) (l : List Byte) (restore : Bool) :
    HbmWrote s (s.hbmPut p va pa l restore) := by
  have hput := (hbmWrote_copyBefore s p va pa).trans (cached_mscTouch (s.copyBefore p va pa) pa true !restore).hbmWrote
  unfold State.hbmPut
  dsimp only
  split
  · split
    · exact hput.trans (hbmWrote_bytes _ _ _)
    · refine .trans (hput.trans (hbmWrote_clean _ _ _)) (.ite (hbmWrote_bytes _ _ _) (.refl _))
  · exact hput.trans (hbmWrote_bytes _ _ _)

theorem hbmWrote_vaPut (s : State) (p va : Nat) (l : List Byte) (restore : Bool) : HbmWrote s (s.vaPut p va l restore).2 := by
  have hall : ∀ (xs : List (Nat × List Byte)) (a : Bool × State), HbmWrote a.2 (xs.foldl (fun (a : Bool × State) x =>
      match a.2.walk p x.1 true with
      | some pa => (a.1, a.2.hbmPut p x.1 pa x.2 restore)
      | none => (false, a.2)) a).2 := by
    intro xs
    induction xs with
    | nil => exact fun a => .refl a.2
    | cons x xs ih =>
      intro a
      rw [List.foldl_cons]
      refine HbmWrote.trans ?_ (ih _)
      split
      · exact hbmWrote_hbmPut ..
      · exact .refl _
  exact hall _ (true, s)

end HbmWrites

section Consequences

variable {s t u : State} {p : Nat}

theorem hbmWrote_fenceTell (s : State) (f st : Nat) : HbmWrote s (s.fenceTell f st) := .ite (hbmWrote_queueRec ..) (.refl s)

theorem hbmWrote_fenceNotify (s : State) (f : Nat) : HbmWrote s (s.fenceNotify f) :=
  .ite (.foldl (fun _ _ => hbmWrote_fenceTell ..) _ s) (.refl s)

theorem kFenceState_high (f : Nat) : 0x640000 ≤ kFenceState f := by unfold kFenceState; omega

theorem hbmWrote_setFenceValue (s : State) (f v : Nat) : HbmWrote s (s.setFenceValue f v) :=
  (hbmWrote_setReg s (kFenceState_high f) _).trans (hbmWrote_fenceNotify _ f)

theorem hbmWrote_breakFence (s : State) (f : Nat) : HbmWrote s (s.breakFence f) := .ite (hbmWrote_setFenceValue ..) (.refl s)

theorem hbmWrote_signalFence (s : State) (f : Nat) : HbmWrote s (s.signalFence f) := by
  have hrepeat : HbmWrote s (s.bump kSignalRepeats) := hbmWrote_bump s (by decide) 1
  exact .ite hrepeat (.ite (.ite (hbmWrote_queueRec ..) (.refl s)) (.ite (hbmWrote_setFenceValue ..) hrepeat))

theorem hbmWrote_jobEvent (s : State) (kind status cause : Nat) (tag : JobTag) (cutId cutFrame records detail : Nat) :
    HbmWrote s (s.jobEvent kind status cause tag cutId cutFrame records detail) := by
  have hlost : 0x640000 ≤ kEventsLost tag.part := by unfold kEventsLost; omega
  have hprod : 0x640000 ≤ kEventProd tag.part := by unfold kEventProd; omega
  unfold State.jobEvent
  dsimp only
  refine HbmWrote.trans (.ite (t := s.bump (kEventsLost tag.part)) (hbmWrote_bump s hlost 1) ?_) (.ite (hbmWrote_signalFence ..) (.refl _))
  exact (hbmWrote_vaPut ..).trans ((hbmWrote_wrapAdd _ hprod 1 32).trans (hbmWrote_msix ..))

theorem hbmWrote_abandonCut (s : State) (p status cause : Nat) : HbmWrote s (s.abandonCut p status cause) := by
  have haborted : 0x640000 ≤ kCutsAborted p := by unfold kCutsAborted; omega
  have hstate : 0x640000 ≤ kCutState p := by unfold kCutState; omega
  unfold State.abandonCut
  dsimp only
  refine .ite (.refl s) (HbmWrote.trans ?_ (hbmWrote_jobEvent ..))
  refine HbmWrote.trans ?_ ((hbmWrote_setNat _ hstate 0).trans (hbmWrote_setCut ..))
  refine HbmWrote.trans ?_ ((hbmWrote_bump _ haborted 1).trans (hbmWrote_setNat _ (kShadowSlotsUsed_high p) 0))
  refine HbmWrote.trans (.foldl (fun _ _ => ?_) _ s) (.foldl (fun _ _ => .ite (hbmWrote_queueRec ..) (.refl _)) _ _)
  exact hbmWrote_of_view rfl rfl rfl

theorem hbmWrote_settleCuts (s : State) : HbmWrote s s.settleCuts := .foldl (fun _ _ => hbmWrote_abandonCut ..) _ s

theorem hbmWrote_vaWrite (s : State) (p va : Nat) (l : List Byte) (restore : Bool) : HbmWrote s (s.vaWrite p va l restore).2 :=
  (hbmWrote_vaPut s p va l restore).trans (hbmWrote_settleCuts _)

end Consequences

end Sys2Proof.Safety

namespace Sys2Proof.Safety

open Sys2Proof.Machine

/-! ### Functions and the link (O52) -/

/-- Slots that no forced abort changes: below the entries of pools, streams and fences, beside those of rings and contexts, the
counters of the MSC and of the partition filter, and a partition's count of squashed work. -/
def apart (k : Nat) : Prop :=
  k < 0x600000 ∧ k ∉ [kMscHits, kMscMisses] ∧ k ≠ kFilterBlocks ∧ ¬ (0x230000 ≤ k ∧ k < 0x250000) ∧ k % 0x4000 ≠ 0x1507

/-- What a forced abort keeps: the slots that stand apart, and the masks of the functions. -/
structure AbortKeeps (s t : State) : Prop where
  slots : ∀ k, apart k → t.reg k = s.reg k
  fns : ∀ f, (t.fn f).bme = (s.fn f).bme ∧ (t.fn f).unmasked = (s.fn f).unmasked

section Aborts

variable {s t u : State} {p : Nat}

theorem AbortKeeps.refl (s : State) : AbortKeeps s s := ⟨fun _ _ => rfl, fun _ => ⟨rfl, rfl⟩⟩

theorem AbortKeeps.trans (h : AbortKeeps s t) (h' : AbortKeeps t u) : AbortKeeps s u :=
  ⟨fun k hk => (h'.slots k hk).trans (h.slots k hk),
    fun f => ⟨(h'.fns f).1.trans (h.fns f).1, (h'.fns f).2.trans (h.fns f).2⟩⟩

theorem AbortKeeps.nat (h : AbortKeeps s t) {k : Nat} (hk : apart k) : t.nat k = s.nat k := nat_of_reg (h.slots k hk)

theorem AbortKeeps.ite {c : Prop} [Decidable c] (h : AbortKeeps s t) (h' : AbortKeeps s u) :
    AbortKeeps s (if c then t else u) := by
  split
  · exact h
  · exact h'

theorem AbortKeeps.foldl_mem {α : Type} {f : State → α → State} (l : List α) (hf : ∀ s, ∀ x ∈ l, AbortKeeps s (f s x)) :
    ∀ s, AbortKeeps s (l.foldl f s) := by
  induction l with
  | nil => exact .refl
  | cons x l ih =>
    exact fun s => (hf s x (List.mem_cons_self ..)).trans (ih (fun s y hy => hf s y (List.mem_cons_of_mem _ hy)) (f s x))

theorem AbortKeeps.foldl {α : Type} {f : State → α → State} (hf : ∀ s x, AbortKeeps s (f s x)) (l : List α) (s : State) :
    AbortKeeps s (l.foldl f s) := .foldl_mem l (fun s x _ => hf s x) s

theorem HbmWrote.abortKeeps (h : HbmWrote s t) : AbortKeeps s t := ⟨fun k hk => h.slots k (lt_trans hk.1 (by decide)) hk.2.1, h.fns⟩

theorem abortKeeps_of_same (hregs : t.regs = s.regs) (hfns : t.fns = s.fns) : AbortKeeps s t :=
  ⟨fun k _ => State.reg_of_regs hregs k, fun f => by rw [fn_congr hfns]; exact ⟨rfl, rfl⟩⟩

theorem abortKeeps_setReg (s : State) {k : Nat} (hk : ¬ apart k) (w : Word) : AbortKeeps s (s.setReg k w) :=
  ⟨fun _ hj => State.reg_setReg_other _ _ fun h => hk (h ▸ hj), fun _ => ⟨rfl, rfl⟩⟩

theorem abortKeeps_setNat (s : State) {k : Nat} (hk : ¬ apart k) (n : Nat) : AbortKeeps s (s.setNat k n) := abortKeeps_setReg s hk _

theorem abortKeeps_bump (s : State) {k : Nat} (hk : ¬ apart k) (n : Nat) : AbortKeeps s (s.bump k n) := abortKeeps_setReg s hk _

theorem notApart_high {k : Nat} (h : 0x600000 ≤ k) : ¬ apart k := fun hk => absurd hk.1 (by omega)

theorem notApart_object {k : Nat} (h : 0x230000 ≤ k) (h' : k < 0x250000) : ¬ apart k := fun hk => hk.2.2.2.1 ⟨h, h'⟩

theorem notApart_squashOther (p : Nat) : ¬ apart (kSquashOther p) := fun hk => hk.2.2.2.2 (by unfold kSquashOther; omega)

theorem notApart_filterBlocks : ¬ apart kFilterBlocks := fun hk => hk.2.2.1 rfl

theorem abortKeeps_squashWhere (s : State) (r : Nat) (f : Nat → Bool) {counter : Nat} (hk : ¬ apart counter) :
    AbortKeeps s (s.squashWhere r f counter) := by
  unfold State.squashWhere
  dsimp only
  refine .ite (.refl s) (AbortKeeps.trans ?_ (abortKeeps_bump _ hk 1))
  refine AbortKeeps.trans ?_ (AbortKeeps.foldl (fun s w => ?_) _ _)
  · exact abortKeeps_of_same rfl rfl
  · split
    · exact abortKeeps_of_same rfl rfl
    · exact .refl s

theorem abortKeeps_squashPart (s : State) (p q : Nat) (f : Nat → Bool) : AbortKeeps s (s.squashPart p f (kSquashOther q)) :=
  .foldl (fun _ _ => abortKeeps_squashWhere _ _ _ (notApart_squashOther q)) _ s

theorem abortKeeps_storeWrite (s : State) (a : SAddr) (l : List Byte) : AbortKeeps s (s.storeWrite a l) := by
  refine .ite (abortKeeps_of_same rfl rfl) ?_
  split
  · exact abortKeeps_of_same rfl rfl
  · exact .refl s

theorem abortKeeps_writeRows (s : State) (p : Nat) (a : SAddr) (l : List Byte) : AbortKeeps s (s.writeRows p a l) :=
  .foldl (fun _ _ => .ite (abortKeeps_storeWrite ..) (abortKeeps_bump _ notApart_filterBlocks 1)) _ s

/-- Contents that become undefined leave all slots but counters of the filter and what a write to HBM changes (R451). -/
theorem abortKeeps_undefine (s : State) (p field n : Nat) : AbortKeeps s (s.undefine p field n) := by
  unfold State.undefine
  dsimp only
  refine .ite (.refl s) (AbortKeeps.trans (t := { s with free := s.free + n }) (abortKeeps_of_same rfl rfl) (.ite ?_ ?_))
  · split
    · exact abortKeeps_writeRows ..
    · exact .refl _
  · exact (hbmWrote_vaWrite ..).abortKeeps

theorem abortKeeps_setPort (s : State) (n : Nat) (v : PortSt) : AbortKeeps s (s.setPort n v) := abortKeeps_of_same rfl rfl

theorem abortKeeps_setColl (s : State) (g : Nat) (v : CollSt) : AbortKeeps s (s.setColl g v) := abortKeeps_of_same rfl rfl

theorem abortKeeps_setRing (s : State) (r : Nat) (v : RingSt) : AbortKeeps s (s.setRing r v) := abortKeeps_of_same rfl rfl

theorem abortKeeps_collLeave (s : State) (g id : Nat) : AbortKeeps s (s.collLeave g id) := by
  have hcoll : ∀ s : State, AbortKeeps s (s.dropColl g) := fun s => .foldl (fun _ _ => .ite (abortKeeps_setPort ..) (.refl _)) _ s
  have hrhz : ∀ (s : State) (seq : Nat), AbortKeeps s (s.dropRhz g seq) := fun s seq =>
    .foldl (fun _ _ => .ite (abortKeeps_setPort ..) (.refl _)) _ s
  unfold State.collLeave
  dsimp only
  refine AbortKeeps.trans ?_ (abortKeeps_setColl ..)
  split
  · exact AbortKeeps.trans (.ite (hcoll s) (.refl s)) (hrhz _ _)
  · exact .ite (hcoll s) (.refl s)

theorem abortKeeps_collFail (s : State) (g id status : Nat) : AbortKeeps s (s.collFail g id status) := by
  have hfails : ¬ apart (kCollFails g) := notApart_high (by unfold kCollFails; omega)
  unfold State.collFail
  split
  · exact .refl s
  · dsimp only
    refine AbortKeeps.trans (t := (s.bump (kCollFails g)).endDesc id status) ?_ ?_
    · exact (abortKeeps_bump s hfails 1).trans (abortKeeps_of_same rfl rfl)
    · have hleave := abortKeeps_collLeave ((s.bump (kCollFails g)).endDesc id status) g id
      exact .ite hleave (hleave.trans ((abortKeeps_undefine ..).trans (abortKeeps_undefine ..)))

theorem abortKeeps_abortCollectives (s : State) (p : Nat) (f : Nat → Bool) : AbortKeeps s (s.abortCollectives p f) :=
  .foldl (fun s _ => .foldl (fun _ _ => abortKeeps_collFail ..) _ s) _ s

theorem abortKeeps_setPool (s : State) (p : Nat) (v : KvSt) : AbortKeeps s (s.setPool p v) := abortKeeps_of_same rfl rfl

theorem abortKeeps_modFrame (s : State) (p unit : Nat) (f : KvFrame → KvFrame) : AbortKeeps s (s.modFrame p unit f) :=
  abortKeeps_setPool ..

theorem abortKeeps_sweepFrames (s : State) (p : Nat) : AbortKeeps s (s.sweepFrames p) :=
  .foldl (fun s f => (abortKeeps_setPool s p _).trans (abortKeeps_setNat _ (notApart_high (by unfold kUnitsFree; omega)) _)) _ s

theorem abortKeeps_setEntry (s : State) (p table j e : Nat) : AbortKeeps s (s.setEntry p table j e) :=
  (hbmWrote_vaWrite s p (entryVa table j) (leBytes 16 e) false).abortKeeps.trans (abortKeeps_setPool ..)

theorem abortKeeps_pageAbandoned (s : State) (j : PageJob) : AbortKeeps s (s.pageAbandoned j) := by
  unfold State.pageAbandoned
  split
  · exact .refl s
  · dsimp only
    split
    · exact ((abortKeeps_modFrame ..).trans (.ite (abortKeeps_setEntry ..) (.refl _))).trans (abortKeeps_modFrame ..)
    · exact (abortKeeps_modFrame ..).trans (abortKeeps_sweepFrames ..)

theorem abortKeeps_endJob (s : State) (j : Job) (status cause : Nat) : AbortKeeps s (s.endJob j status cause) := by
  have hdrop : AbortKeeps s (s.dropJob j.id) := abortKeeps_of_same rfl rfl
  unfold State.endJob
  dsimp only
  split
  · exact hdrop.trans (hbmWrote_jobEvent ..).abortKeeps
  · exact hdrop.trans (hbmWrote_jobEvent ..).abortKeeps

theorem abortKeeps_abandonJobs (s : State) (p : Nat) (f : Nat → Bool) : AbortKeeps s (s.abandonJobs p f) := by
  unfold State.abandonJobs
  dsimp only
  refine AbortKeeps.trans (.foldl (fun s _ => ?_) _ s) (.ite (hbmWrote_abandonCut ..).abortKeeps (.refl _))
  refine AbortKeeps.trans ?_ (abortKeeps_endJob ..)
  refine AbortKeeps.trans ?_ (.foldl (fun _ _ => abortKeeps_pageAbandoned ..) _ _)
  exact .ite (.refl s) (hbmWrote_setStream ..).abortKeeps

theorem abortKeeps_newAbort (s : State) (l : List AbortJob) (n : Nat) : AbortKeeps s { s with aborts := l, nextId := n } :=
  abortKeeps_of_same rfl rfl

/-- A forced abort of rings, contexts and fences that there are keeps every slot that stands apart (R502, R505). -/
theorem abortKeeps_startAbort (s : State) (kind : AbortKind) (p : Nat) {rings ctxs : List Nat} (fences : List Nat)
    (hrings : ∀ r ∈ rings, r < 128) (hctxs : ∀ c ∈ ctxs, c < 1024) : AbortKeeps s (s.startAbort kind p rings ctxs fences) := by
  have hring : ∀ (s : State), ∀ r ∈ rings, AbortKeeps s
      ((s.setNat (kRingState r) 2).setRing r { s.ring r with stop := .abort }) := fun s r hr =>
    (abortKeeps_setNat s (notApart_object (by unfold kRingState; omega) (by have := hrings r hr; unfold kRingState; omega)) 2).trans
      (abortKeeps_setRing ..)
  have henabled : ∀ (s : State), ∀ r ∈ rings, AbortKeeps s (s.setNat (kRingEnabled r) 0) := fun s r hr =>
    abortKeeps_setNat s (notApart_object (by unfold kRingEnabled; omega) (by have := hrings r hr; unfold kRingEnabled; omega)) 0
  have hctx : ∀ (s : State), ∀ c ∈ ctxs, AbortKeeps s (s.setReg (kCtxState c) (putFld (s.reg (kCtxState c)) 1 0 2)) := fun s c hc =>
    abortKeeps_setReg s (notApart_object (by unfold kCtxState; omega) (by have := hctxs c hc; unfold kCtxState; omega)) _
  have hfence : ∀ (s : State) (f : Nat), AbortKeeps s (s.fenceQuiesce f) := fun s f =>
    abortKeeps_setReg s (notApart_high (le_trans (by decide) (kFenceState_high f))) _
  unfold State.startAbort
  dsimp only
  refine AbortKeeps.trans ?_ (abortKeeps_newAbort _ _ _)
  refine AbortKeeps.trans ?_ (abortKeeps_abandonJobs ..)
  refine AbortKeeps.trans ?_ (abortKeeps_abortCollectives ..)
  refine AbortKeeps.trans ?_ (.foldl hfence fences _)
  refine AbortKeeps.trans ?_ (.foldl_mem ctxs hctx _)
  refine AbortKeeps.trans ?_ (.foldl_mem rings henabled _)
  exact AbortKeeps.trans (abortKeeps_squashPart ..) (.foldl_mem rings hring _)

theorem slotsIn_lt {lo n k : Nat} {v : Word} (h : (k, v) ∈ s.slotsIn lo n) : k < n := by
  simp only [State.slotsIn, List.mem_filterMap] at h
  obtain ⟨⟨j, w⟩, -, hif⟩ := h
  dsimp only at hif
  split at hif
  · next hr =>
    obtain ⟨rfl, -⟩ := Prod.mk.inj (Option.some.inj hif)
    omega
  · cases hif

theorem ctxsOf_lt {c : Nat} (h : c ∈ s.ctxsOf p) : c < 1024 := by
  rw [State.ctxsOf, List.mem_map] at h
  obtain ⟨⟨j, w⟩, hmem, rfl⟩ := h
  exact slotsIn_lt (List.mem_filter.1 hmem).1

theorem ringsWhere_lt {f : Nat → Bool} {r : Nat} (h : r ∈ s.ringsWhere f) : r < 128 := by
  have hr := mem_countFrom.1 (List.mem_filter.1 h).1
  omega

/-- A partition's abort keeps what stands apart, and the partition becomes ABORTING (R489). -/
theorem startPartAbort_leaves (s : State) (p : Nat) (destroy : Bool) :
    AbortKeeps (s.setNat (kPartRun p) 3) (s.startPartAbort p destroy) :=
  abortKeeps_startAbort _ _ p _ (fun _ hr => ringsWhere_lt (List.mem_filter.1 hr).1)
    fun _ hc => ctxsOf_lt (List.mem_filter.1 hc).1

theorem apart_partRun (hp : p < 64) : apart (kPartRun p) := by
  unfold apart kPartRun
  refine ⟨by omega, ?_, ?_, by omega, by omega⟩
  · simp [kMscHits, kMscMisses]; omega
  · unfold kFilterBlocks; omega

theorem apart_partState (hp : p < 64) : apart (kPartState p) := by
  unfold apart kPartState
  refine ⟨by omega, ?_, ?_, by omega, by omega⟩
  · simp [kMscHits, kMscMisses]; omega
  · unfold kFilterBlocks; omega

theorem abortPart_keeps (s : State) (hp : p < 64) : (∀ k, apart k → k ≠ kPartRun p → (s.abortPart p).reg k = s.reg k) ∧
    (∀ f, ((s.abortPart p).fn f).bme = (s.fn f).bme ∧ ((s.abortPart p).fn f).unmasked = (s.fn f).unmasked) ∧
    (s.partState p = 1 → (s.abortPart p).partRun p = 3) := by
  unfold State.abortPart
  split
  · have h := startPartAbort_leaves (s.forgetSeeds p) p false
    refine ⟨fun k hk hne => (h.slots k hk).trans ((State.reg_setNat_other _ _ hne).trans rfl), h.fns, fun _ => ?_⟩
    exact (h.nat (apart_partRun hp)).trans (State.nat_setNat_same _ (by decide))
  · next hno =>
    refine ⟨fun _ _ _ => rfl, fun _ => ⟨rfl, rfl⟩, fun hstate => ?_⟩
    by_contra hrun
    exact hno ⟨hstate, hrun⟩

end Aborts

section Vfs

variable {s t u : State} {p : Nat}

theorem apart_bootState : apart kBootState := by unfold apart; decide

/-- A VF that is reset has no vector unmasked and may not send. -/
def maskedOff (s : State) (p : Nat) : Prop := (s.fn p).bme = false ∧ (s.fn p).unmasked = []

/-- A VF's partition is aborted and its function is reset (R768, R781). -/
def vfReset (s : State) (p : Nat) : State := (s.abortIfReady p).resetFn p

theorem vfReset_unready (h : s.ready = false) (p : Nat) : vfReset s p = s.resetFn p := by
  rw [vfReset, State.abortIfReady, h]
  rfl

theorem abortIfReady_keeps (s : State) (hp : p < 64) : (∀ k, apart k → k ≠ kPartRun p → (s.abortIfReady p).reg k = s.reg k) ∧
    (∀ q, maskedOff s q → maskedOff (s.abortIfReady p) q) ∧ (s.ready = true → s.partState p = 1 → (s.abortIfReady p).partRun p = 3) := by
  obtain ⟨hslots, hfns, hrun⟩ := abortPart_keeps s hp
  unfold State.abortIfReady
  split
  · exact ⟨hslots, fun q hq => ⟨(hfns q).1.trans hq.1, (hfns q).2.trans hq.2⟩, fun _ => hrun⟩
  · next h => exact ⟨fun _ _ _ => rfl, fun _ hq => hq, fun hready => absurd hready h⟩

theorem resetFn_leaves (s : State) (p : Nat) : maskedOff (s.resetFn p) p ∧ (∀ q, maskedOff s q → maskedOff (s.resetFn p) q) ∧
    (∀ k, (s.resetFn p).reg k = s.reg k) ∧ ((s.resetFn p).fn p).pendingVecs = [] := by
  have hfn : (s.resetFn p).fn p = { held := (s.fn p).held } := fn_setFn_same ..
  have hoff : maskedOff (s.resetFn p) p := by rw [maskedOff, hfn]; exact ⟨rfl, rfl⟩
  refine ⟨hoff, fun q hq => ?_, fun _ => rfl, by rw [hfn]⟩
  by_cases hqp : q = p
  · exact hqp ▸ hoff
  · have hother : (s.resetFn p).fn q = s.fn q := fn_setFn_other _ hqp _
    rw [maskedOff, hother]
    exact hq

/-- What the reset of one VF leaves. -/
theorem vfReset_leaves (s : State) (hp : p < 64) : (∀ k, apart k → k ≠ kPartRun p → (vfReset s p).reg k = s.reg k) ∧
    (∀ q, maskedOff s q → maskedOff (vfReset s p) q) ∧ maskedOff (vfReset s p) p ∧
    (s.ready = true → s.partState p = 1 → (vfReset s p).partRun p = 3) := by
  obtain ⟨hslots, hmasks, hrun⟩ := abortIfReady_keeps s hp
  obtain ⟨hoff, hmasks', hreg, -⟩ := resetFn_leaves (s.abortIfReady p) p
  exact ⟨fun k hk hne => (hreg k).trans (hslots k hk hne), fun q hq => hmasks' q (hmasks q hq), hoff,
    fun hready hstate => (nat_of_reg (hreg _)).trans (hrun hready hstate)⟩

/-- What the reset of several VFs leaves. -/
theorem vfResets_leave (l : List Nat) (hl : ∀ p ∈ l, p < 64) : ∀ s : State,
    (∀ k, apart k → (∀ p ∈ l, k ≠ kPartRun p) → (l.foldl vfReset s).reg k = s.reg k) ∧
    (∀ q, maskedOff s q → maskedOff (l.foldl vfReset s) q) ∧ (∀ p ∈ l, maskedOff (l.foldl vfReset s) p) ∧
    ∀ p ∈ l, s.ready = true → s.partState p = 1 → (l.foldl vfReset s).partRun p = 3 := by
  induction l with
  | nil => exact fun s => ⟨fun _ _ _ => rfl, fun _ h => h, fun _ h => absurd h List.not_mem_nil, fun _ h => absurd h List.not_mem_nil⟩
  | cons p l ih =>
    intro s
    have hp := hl p (List.mem_cons_self ..)
    obtain ⟨hslots, hmasks, hoff, hrun⟩ := vfReset_leaves s hp
    obtain ⟨hslots', hmasks', hoff', hrun'⟩ := ih (fun q h => hl q (List.mem_cons_of_mem _ h)) (vfReset s p)
    refine ⟨fun k hk hne => ?_, fun q hq => hmasks' q (hmasks q hq), fun q hq => ?_, fun q hq hready hstate => ?_⟩
    · exact (hslots' k hk fun q hq => hne q (List.mem_cons_of_mem _ hq)).trans (hslots k hk (hne p (List.mem_cons_self ..)))
    · obtain rfl | hq := List.mem_cons.1 hq
      · exact hmasks' _ hoff
      · exact hoff' q hq
    · have hready' : (vfReset s p).ready = true := by
        have hboot := nat_of_reg (hslots kBootState apart_bootState (by unfold kBootState kPartRun; omega))
        rw [State.ready, hboot]
        exact hready
      have hstate' : (vfReset s p).partState q = 1 := (nat_of_reg (hslots _ (apart_partState (hl q hq))
        (by unfold kPartState kPartRun; omega))).trans hstate
      by_cases hmem : q ∈ l
      · exact hrun' q hmem hready' hstate'
      · obtain rfl | hq := List.mem_cons.1 hq
        · exact (nat_of_reg (hslots' _ (apart_partRun hp) fun r hr h => hmem (by unfold kPartRun at h; rwa [show q = r by omega]))).trans
            (hrun hready hstate)
        · exact absurd hq hmem

theorem vfsOff_eq (s : State) : s.vfsOff = if s.nat kVfsEnabled = 0 then s
    else ((countFrom 1 63).foldl vfReset s).setNat kVfsEnabled 0 := by
  unfold State.vfsOff
  generalize countFrom 1 63 = l
  rfl

theorem vfsOff_disabled (s : State) : s.vfsOff.nat kVfsEnabled = 0 := by
  rw [vfsOff_eq]
  split
  · assumption
  · exact State.nat_setNat_same _ (by decide)

/-- Before READY, VF Enable's end changes no other slot. -/
theorem vfsOff_unready (h : s.ready = false) {k : Nat} (hk : k ≠ kVfsEnabled) : s.vfsOff.reg k = s.reg k := by
  have hall : ∀ (l : List Nat) (u : State), u.ready = false → (l.foldl vfReset u).reg k = u.reg k := by
    intro l
    induction l with
    | nil => exact fun _ _ => rfl
    | cons q l ih =>
      intro u hu
      rw [List.foldl_cons, vfReset_unready hu]
      exact ih (u.resetFn q) hu
  rw [vfsOff_eq]
  split
  · rfl
  · exact (State.reg_setNat_other _ _ hk).trans (hall _ s h)

theorem hasVf_none (h : s.nat kVfsEnabled = 0) (p : Nat) : s.hasVf p = false := by
  rw [State.hasVf, h, Bool.and_eq_false_iff, decide_eq_false_iff_not, decide_eq_false_iff_not]
  omega

/-- Before READY the reset of a function only counts. -/
theorem vfReset_bump (h : s.ready = false) : vfReset (s.bump kFlrCount) 0 = (s.bump kFlrCount).resetFn 0 ∧
    ∀ k, k ≠ kFlrCount → (vfReset (s.bump kFlrCount) 0).reg k = s.reg k := by
  have hready : (s.bump kFlrCount).ready = false := by
    rw [State.ready, nat_bump_other _ _ _ (by decide)]
    exact h
  have heq := vfReset_unready hready 0
  exact ⟨heq, fun k hk => by rw [heq]; exact State.reg_bump_other _ _ _ hk⟩

theorem exec_flr_pf (hup : s.fnUp 0 = true) : exec (.flr 0) s =
    .next (if (vfReset (s.bump kFlrCount) 0).vfsOff.ptmOff.bootState = 1 ∧
        (vfReset (s.bump kFlrCount) 0).vfsOff.ptmOff.nat kStageSource = 0xFF
      then (vfReset (s.bump kFlrCount) 0).vfsOff.ptmOff.emptyStage else (vfReset (s.bump kFlrCount) 0).vfsOff.ptmOff) := by
  show execFlr 0 s = _
  rw [execFlr, if_neg (by rw [hup]; decide)]
  rfl

end Vfs

/-- Settles O52: what VF Enable, a function reset and the PCIe link leave. -/
theorem functionsAndLink : Obligations.FunctionsAndLink := by
  refine ⟨?_, ?_, ?_, ?_, ?_, ?_, fun _ => rfl⟩
  · intro s n hup hoff hn
    have hset := told_setNat s kVfsEnabled n
    refine ⟨_, if_pos ⟨hup, hoff, hn⟩, fun p => ?_, hset.slots, hset.quiet.memoryKept, hset.quiet.workKept, areasKept_of_areas hset.areas⟩
    rw [State.hasVf, State.nat_setNat_same _ (by omega)]
  · intro s hup hon
    obtain ⟨-, -, hoff, hrun⟩ := vfResets_leave (countFrom 1 63) (fun p hp => by have := mem_countFrom.1 hp; omega) s
    have hmem : ∀ p, 1 ≤ p → p < 64 → p ∈ countFrom 1 63 := fun p h h' => mem_countFrom.2 ⟨h, by omega⟩
    have hexec : exec .vfEnableClear s = .next s.vfsOff := by
      show execVfEnableClear s = _
      rw [execVfEnableClear, if_pos hup]
    refine ⟨_, hexec, fun p => hasVf_none (vfsOff_disabled s) p, fun p h h' hready hstate => ?_, fun p h h' => ?_⟩
    · rw [vfsOff_eq, if_neg hon, State.partRun, State.nat_setNat_other _ _ (by unfold kPartRun kVfsEnabled; omega)]
      exact hrun p (hmem p h h') hready hstate
    · have hmasked := hoff p (hmem p h h')
      rw [vfsOff_eq, if_neg hon]
      generalize (countFrom 1 63).foldl vfReset s = v at hmasked
      exact hmasked
  · intro s p hup h1 hp
    have hexec : exec (.flr p) s = .next (vfReset (s.bump kFlrCount) p) := by
      show execFlr p s = _
      rw [execFlr, if_neg (by rw [hup]; decide)]
      dsimp only
      rw [if_neg (by omega)]
      rfl
    obtain ⟨-, -, hoff, hrun⟩ := vfReset_leaves (s.bump kFlrCount) hp
    have hother : ∀ k, k ≠ kFlrCount → (s.bump kFlrCount).nat k = s.nat k := fun k hk => nat_bump_other _ _ _ hk
    have hready : (s.bump kFlrCount).ready = s.ready := by rw [State.ready, hother _ (by decide)]; rfl
    refine ⟨_, hexec, fun hr hstate => hrun (hready.trans hr) ?_, hoff.1, hoff.2, (resetFn_leaves _ p).2.2.2, fun hr => ?_⟩
    · exact (hother _ (by unfold kPartState kFlrCount; omega)).trans hstate
    · rw [vfReset_unready (hready.trans hr)]
      rfl
  · intro s hup hboot hsrc
    have hunready : s.ready = false := by rw [State.ready, show s.nat kBootState = 1 from hboot]; rfl
    obtain ⟨hfirst, hregs⟩ := vfReset_bump hunready
    have hready : (vfReset (s.bump kFlrCount) 0).ready = false := by
      rw [State.ready, nat_of_reg (hregs kBootState (by decide))]
      exact hunready
    obtain ⟨hoff, hother⟩ := And.intro (vfsOff_disabled (vfReset (s.bump kFlrCount) 0)) fun k => vfsOff_unready (k := k) hready
    generalize hv : (vfReset (s.bump kFlrCount) 0).vfsOff = v at hoff hother
    have hkept : ∀ k, k ∉ [kFlrCount, kVfsEnabled, kPtmState] → v.ptmOff.nat k = s.nat k := fun k hk => by
      simp only [List.mem_cons, List.not_mem_nil, or_false, not_or] at hk
      rw [ptmOff_eq, State.nat_setNat_other _ _ hk.2.2, nat_of_reg (reg_ptmLost_other hk.2.2), nat_of_reg (hother k hk.2.1),
        nat_of_reg (hregs k hk.1)]
    have hptm : v.ptmOff.nat kPtmState = 0 := by rw [ptmOff_eq, State.nat_setNat_same _ (by decide)]
    have hvfs : v.ptmOff.nat kVfsEnabled = 0 := by
      rw [ptmOff_eq, State.nat_setNat_other _ _ (by decide), nat_of_reg (reg_ptmLost_other (by decide)), hoff]
    have hexec : exec (.flr 0) s = .next v.ptmOff.emptyStage := by
      rw [exec_flr_pf hup, hv, if_pos ⟨(hkept _ (by decide)).trans hboot, (hkept _ (by decide)).trans hsrc⟩]
    generalize v.ptmOff = w at hkept hptm hvfs hexec
    obtain ⟨hempty, -, -, hslots⟩ := emptyStage_leaves (.refl w.emptyStage []) List.not_mem_nil List.not_mem_nil
    exact ⟨_, hexec, hempty, (nat_of_reg (hslots _ (by decide))).trans hvfs, (nat_of_reg (hslots _ (by decide))).trans hptm⟩
  · intro s hon hpolicy hwf
    refine ⟨_, ?_, warmDie_warmReset hon hwf⟩
    show execDlDown s = _
    rw [execDlDown, if_neg (by omega), if_pos hpolicy]
  · intro s hon hpolicy
    refine ⟨_, ?_, rfl, fun _ _ _ => rfl, fun _ _ => rfl⟩
    show execDlDown s = _
    rw [execDlDown, if_neg (by omega), if_neg hpolicy]

end Sys2Proof.Safety

namespace Sys2Proof.Safety

open Sys2Proof.Machine

/-! ### The STOP line (O53) -/

section Stops

variable {s t : State} {p : Nat}

theorem told_stopEvent (s : State) (b : Nat) : Told [kStopEvents] s (s.stopEvent b) :=
  .ite (.refl ..) ((told_setBit s kStopEvents b).and ((told_msix _ 0 1).mono (List.nil_subset _)))

/-- An event of the STOP line leaves its flag set, and a flag that was set stays set. -/
theorem bit_stopEvent (s : State) (b : Nat) (hb : b < 64) : (s.stopEvent b).bit kStopEvents b = true := by
  unfold State.stopEvent
  split
  · assumption
  · rw [State.bit_msix]
    exact s.bit_setBit _ b hb

theorem bit_stopEvent_of_bit {a : Nat} (b : Nat) (h : s.bit kStopEvents a = true) : (s.stopEvent b).bit kStopEvents a = true := by
  unfold State.stopEvent
  split
  · exact h
  · rw [State.bit_msix]
    exact bit_setBit_of_bit _ b h

/-- Every partition of a list that is RUNNING halts with cause COMMAND, and no other one does (R487, R813). -/
theorem haltParts_leave (l : List Nat) (hnodup : l.Nodup) : ∀ s : State, s.runahead = [] →
    (∀ p ∈ l, s.partState p = 1 ∧ s.partRun p = 1) →
    Told (l.flatMap fun p => [kPartRun p, kHaltCause p]) s (l.foldl (fun s p => s.haltPart p 1) s) ∧
    ∀ p ∈ l, (l.foldl (fun s p => s.haltPart p 1) s).partRun p = 2 ∧
      (l.foldl (fun s p => s.haltPart p 1) s).nat (kHaltCause p) = 1 := by
  induction l with
  | nil => exact fun s _ _ => ⟨.refl .., fun _ h => absurd h List.not_mem_nil⟩
  | cons q l ih =>
    intro s hra hrunning
    obtain ⟨hq, hnodup⟩ := List.nodup_cons.1 hnodup
    obtain ⟨hstate, hrun⟩ := hrunning q (List.mem_cons_self ..)
    have hhalt := haltPart_running (cause := 1) hstate hrun hra
    have htold : Told [kPartRun q, kHaltCause q] s (s.haltPart q 1) := hhalt ▸ (told_setNat s _ 2).trans (told_setNat _ _ 1)
    have hother : ∀ p ∈ l, s.partState p = (s.haltPart q 1).partState p ∧ s.partRun p = (s.haltPart q 1).partRun p := by
      intro p hp
      have hpq : p ≠ q := fun h => hq (h ▸ hp)
      exact ⟨(htold.nat (by simp [kPartState, kPartRun, kHaltCause]; omega)).symm,
        (htold.nat (by simp [kPartRun, kHaltCause]; omega)).symm⟩
    obtain ⟨htold', hall⟩ := ih hnodup (s.haltPart q 1) (htold.runahead.trans hra) fun p hp => by
      obtain ⟨h, h'⟩ := hother p hp
      rw [← h, ← h']
      exact hrunning p (List.mem_cons_of_mem _ hp)
    have hmine : kPartRun q ∉ (l.flatMap fun p => [kPartRun p, kHaltCause p]) ∧
        kHaltCause q ∉ (l.flatMap fun p => [kPartRun p, kHaltCause p]) := by
      simp only [List.mem_flatMap, List.mem_cons, List.not_mem_nil, or_false, kPartRun, kHaltCause]
      refine ⟨?_, ?_⟩ <;> rintro ⟨p, hp, h⟩ <;> exact hq (by rwa [show q = p by omega])
    refine ⟨(htold.trans htold').mono (by simp), fun p hp => ?_⟩
    obtain rfl | hp := List.mem_cons.1 hp
    · rw [List.foldl_cons, State.partRun, htold'.nat hmine.1, htold'.nat hmine.2, hhalt, State.nat_setNat_other _ _
        (by unfold kPartRun kHaltCause; omega), State.nat_setNat_same _ (by decide), State.nat_setNat_same _ (by decide)]
      exact ⟨rfl, rfl⟩
    · exact hall p hp

theorem mem_runningParts : p ∈ s.runningParts ↔ p < 64 ∧ s.partState p = 1 ∧ s.partRun p = 1 := by
  simp [State.runningParts, mem_countFrom]

theorem notMem_stopSlots {k : Nat} (h : 0x300000 ≤ k) (h' : k < 0x700000) :
    k ∉ [kStopState] ++ [kStopCount] ++ ([kStopEvents] ++ logSlots) := by
  have hall : ∀ k ∈ [kStopState] ++ [kStopCount] ++ ([kStopEvents] ++ logSlots), ¬ (0x300000 ≤ k ∧ k < 0x700000) := by decide
  exact fun hmem => hall k hmem ⟨h, h'⟩

/-- What the entry into STOPPED leaves (R813, R814). -/
structure Stopped (s t : State) : Prop where
  state : t.nat kStopState = 1
  event : t.bit kStopEvents 0 = true
  events : ∀ b, s.bit kStopEvents b = true → t.bit kStopEvents b = true
  count : t.nat kStopCount = satAdd 32 (s.nat kStopCount) 1
  running : ∀ p, p < 64 → s.partState p = 1 → s.partRun p = 1 → t.partRun p = 2 ∧ t.nat (kHaltCause p) = 1
  others : ∀ p, p < 64 → (s.partState p ≠ 1 ∨ s.partRun p ≠ 1) → t.partRun p = s.partRun p ∧
    t.nat (kHaltCause p) = s.nat (kHaltCause p)
  stop : t.stop = s.stop
  memory : memoryKept s t
  work : workKept s t

theorem enterStopped_leaves (hra : s.runahead = []) (chatter : Bool) : Stopped s (s.enterStopped chatter) := by
  obtain ⟨hhalt, hrunning⟩ := haltParts_leave s.runningParts ((nodup_countFrom 64 0).filter _) s hra fun p hp => (mem_runningParts.1 hp).2
  unfold State.enterStopped
  dsimp only
  generalize hv : s.runningParts.foldl (fun s p => s.haltPart p 1) s = v at hhalt hrunning
  have hstate := told_setNat v kStopState 1
  have hcount := told_bump (v.setNat kStopState 1) kStopCount 1 32
  have hevent := told_stopEvent ((v.setNat kStopState 1).bump kStopCount) 0
  have hlog := told_logEvent (((v.setNat kStopState 1).bump kStopCount).stopEvent 0) 0x1A01 1 5 (b2n chatter) s.runningParts.length 0
  have hbefore := hstate.trans hcount
  have hafter := hbefore.trans (hevent.trans hlog)
  have hlow : ∀ k ∈ s.runningParts.flatMap (fun p => [kPartRun p, kHaltCause p]), 0x300000 ≤ k ∧
      ∃ p ∈ s.runningParts, k = kPartRun p ∨ k = kHaltCause p := by
    intro k hk
    obtain ⟨p, hp, hk⟩ := List.mem_flatMap.1 hk
    simp only [List.mem_cons, List.not_mem_nil, or_false] at hk
    refine ⟨?_, p, hp, hk⟩
    obtain rfl | rfl := hk
    · unfold kPartRun; omega
    · unfold kHaltCause; omega
  have hsmall : ∀ k, k < 0x300000 → k ∉ s.runningParts.flatMap fun p => [kPartRun p, kHaltCause p] := fun k hk hmem =>
    absurd (hlow k hmem).1 (by omega)
  have hpart : ∀ p, p < 64 → kPartRun p ∉ [kStopState] ++ [kStopCount] ++ ([kStopEvents] ++ logSlots) ∧
      kHaltCause p ∉ [kStopState] ++ [kStopCount] ++ ([kStopEvents] ++ logSlots) := fun p hp =>
    ⟨notMem_stopSlots (by unfold kPartRun; omega) (by unfold kPartRun; omega),
      notMem_stopSlots (by unfold kHaltCause; omega) (by unfold kHaltCause; omega)⟩
  refine ⟨?_, ?_, fun b hb => ?_, ?_, fun p hp hst hrun => ?_, fun p hp hno => ?_, hafter.stop.trans hhalt.stop,
    hhalt.quiet.memoryKept.trans hafter.quiet.memoryKept, hhalt.quiet.workKept.trans hafter.quiet.workKept⟩
  · rw [hlog.nat (by decide), hevent.nat (by decide), hcount.nat (by decide), State.nat_setNat_same _ (by decide)]
  · rw [hlog.bit 0 (by decide)]
    exact bit_stopEvent _ 0 (by decide)
  · rw [hlog.bit b (by decide)]
    refine bit_stopEvent_of_bit 0 ?_
    rw [hbefore.bit b (by decide), hhalt.bit b (hsmall _ (by decide))]
    exact hb
  · rw [hlog.nat (by decide), hevent.nat (by decide), nat_bump_same _ _ _ (by decide), hstate.nat (by decide),
      hhalt.nat (hsmall _ (by decide))]
  · obtain ⟨h, h'⟩ := hrunning p (mem_runningParts.2 ⟨hp, hst, hrun⟩)
    exact ⟨(hafter.nat (hpart p hp).1).trans h, (hafter.nat (hpart p hp).2).trans h'⟩
  · have hnot : p ∉ s.runningParts := fun h => by
      obtain ⟨-, h1, h2⟩ := mem_runningParts.1 h
      tauto
    have hout : ∀ k, k = kPartRun p ∨ k = kHaltCause p → k ∉ s.runningParts.flatMap fun p => [kPartRun p, kHaltCause p] := by
      intro k hk hmem
      obtain ⟨-, q, hq, hkq⟩ := hlow k hmem
      refine hnot ?_
      have : p = q := by unfold kPartRun kHaltCause at hk hkq; omega
      exact this ▸ hq
    exact ⟨(hafter.nat (hpart p hp).1).trans (hhalt.nat (hout _ (.inl rfl))), (hafter.nat (hpart p hp).2).trans (hhalt.nat (hout _ (.inr rfl)))⟩

/-- The filtered level of the STOP line is kept. -/
def levelled (s : State) (asserted chatter : Bool) : State := { s with stop := { s.stop with asserted := asserted, chatter := chatter } }

theorem levelled_keeps (s : State) (asserted chatter : Bool) : (∀ k, (levelled s asserted chatter).reg k = s.reg k) ∧
    (levelled s asserted chatter).runahead = s.runahead ∧ memoryKept s (levelled s asserted chatter) ∧
    workKept s (levelled s asserted chatter) := ⟨fun _ => rfl, rfl, (Quiet.refl s).memoryKept, (Quiet.refl s).workKept⟩

theorem stopLow_ready (h : s.stop.asserted = false) (hready : s.ready = true) (chatter : Bool) :
    s.stopLow chatter = (levelled s true s.stop.chatter).enterStopped chatter := by
  unfold State.stopLow
  rw [if_neg (by rw [h]; exact Bool.false_ne_true)]
  exact if_pos hready

theorem stopHigh_ready (h : s.stop.asserted = true) (hready : s.ready = true) (hstate : s.nat kStopState = 1) :
    s.stopHigh = ((levelled s false s.stop.chatter).setNat kStopState 2).stopEvent 1 := by
  unfold State.stopHigh
  rw [if_neg (by rw [h]; decide)]
  exact if_pos ⟨hready, hstate⟩

/-- What a release of the STOP line leaves from STOPPED (R811). -/
theorem released_leaves (s : State) (chatter : Bool) :
    let t := ((levelled s false chatter).setNat kStopState 2).stopEvent 1
    t.stop.asserted = false ∧ t.stop.chatter = chatter ∧ t.nat kStopState = 2 ∧ t.bit kStopEvents 1 = true ∧
    slotsKept s t [kStopState, kStopEvents] ∧ memoryKept s t ∧ workKept s t := by
  obtain ⟨hreg, -, hmem, hwork⟩ := levelled_keeps s false chatter
  have hset := told_setNat (levelled s false chatter) kStopState 2
  have hevent := told_stopEvent ((levelled s false chatter).setNat kStopState 2) 1
  have hall := hset.trans hevent
  refine ⟨congrArg StopSt.asserted hall.stop, congrArg StopSt.chatter hall.stop, ?_, bit_stopEvent _ 1 (by decide),
    fun k hk => (hall.reg hk).trans (hreg k), hmem.trans hall.quiet.memoryKept, hwork.trans hall.quiet.workKept⟩
  rw [hevent.nat (by decide), State.nat_setNat_same _ (by decide)]

/-- The chattering of the STOP line is an event where the die runs (R812). -/
def chatterEvent (s : State) : State := if s.dieUp then s.stopEvent 2 else s

theorem chatterEvent_leaves (s : State) : Told [kStopEvents] s (chatterEvent s) ∧
    (s.dieUp = true → (chatterEvent s).bit kStopEvents 2 = true) := by
  refine ⟨.ite (told_stopEvent s 2) (.refl ..), fun hup => ?_⟩
  rw [chatterEvent, if_pos hup]
  exact bit_stopEvent s 2 (by decide)

end Stops

/-- Settles O53: STOP_STATE by the filtered level, and what STOPPED and a rearm leave. -/
theorem stopLine : Obligations.StopLine := by
  refine ⟨?_, ?_, ?_, ?_, ?_, ?_, ?_, ?_⟩
  · intro s h hready hra
    obtain ⟨hreg, -, hmem, hwork⟩ := levelled_keeps s true s.stop.chatter
    have hstop := enterStopped_leaves (s := levelled s true s.stop.chatter) hra false
    exact ⟨_, congrArg Host.Outcome.next (stopLow_ready h hready false), by rw [hstop.stop]; rfl, hstop.state, hstop.event, hstop.count,
      hstop.running, hstop.others, hmem.trans hstop.memory, hwork.trans hstop.work⟩
  · intro s hready
    refine congrArg Host.Outcome.next ?_
    unfold State.stopLow
    split
    · next h =>
      have hsame : ({ s.stop with asserted := true } : StopSt) = s.stop := by rw [← h]
      rw [hsame]
    · exact if_neg (by rw [show ({ s with stop := { s.stop with asserted := true } } : State).ready = s.ready from rfl, hready]
                       exact Bool.false_ne_true)
  · intro s hch h hready hra
    obtain ⟨htold, hdie⟩ := chatterEvent_leaves (levelled s false true)
    have hexec : exec .stopChatter s = .next ((chatterEvent (levelled s false true)).stopLow true) := by
      show execStopChatter s = _
      rw [execStopChatter, if_neg (by rw [hch]; exact Bool.false_ne_true), ← h]
      rfl
    obtain ⟨-, hra', hmem', hwork'⟩ := levelled_keeps s false true
    generalize chatterEvent (levelled s false true) = v at hexec htold hdie
    obtain ⟨hreg, hrun, hmem, hwork⟩ := levelled_keeps v true v.stop.chatter
    have hasserted : v.stop.asserted = false := congrArg StopSt.asserted htold.stop
    have hboot : v.ready = true := by
      rw [State.ready, htold.nat (by decide)]
      exact hready
    rw [stopLow_ready hasserted hboot] at hexec
    have hstop := enterStopped_leaves (s := levelled v true v.stop.chatter) (hrun.trans (htold.runahead.trans (hra'.trans hra))) true
    refine ⟨_, hexec, ?_, ?_, hstop.state, fun hup => hstop.events 2 ((bit_of_reg 2 (hreg _)).trans (hdie hup)), ?_, ?_⟩
    · rw [hstop.stop]
      exact congrArg StopSt.chatter htold.stop
    · rw [hstop.stop]
      rfl
    · exact (hmem'.trans htold.quiet.memoryKept).trans (hmem.trans hstop.memory)
    · exact (hwork'.trans htold.quiet.workKept).trans (hwork.trans hstop.work)
  · exact fun s h => if_pos h
  · intro s hch h hready hstate
    have hexec : exec .stopReleased s = .next s.stopHigh := if_neg (by rw [hch]; exact Bool.false_ne_true)
    obtain ⟨hlevel, -, h⟩ := released_leaves s s.stop.chatter
    exact ⟨_, hexec.trans (congrArg Host.Outcome.next (stopHigh_ready ‹_› hready hstate)), hlevel, h⟩
  · intro s hch h hready hstate
    have hexec : exec (.chatterEnd true) s = .next (levelled s s.stop.asserted false).stopHigh := by
      show execChatterEnd true s = _
      rw [execChatterEnd, if_pos hch]
      rfl
    obtain ⟨hlevel, hchatter, h'⟩ := released_leaves s false
    exact ⟨_, hexec.trans (congrArg Host.Outcome.next (stopHigh_ready (s := levelled s s.stop.asserted false) h hready hstate)),
      hchatter, hlevel, h'⟩
  · intro s hch
    exact if_pos hch
  · intro s who v hacc
    refine ⟨fun hv hstate => ?_, fun hv hstate => ?_, fun hv => ?_⟩
    · have hset := told_setNat s kStopState 0
      have hevent := told_stopEvent (s.setNat kStopState 0) 3
      have hlog := told_logEvent ((s.setNat kStopState 0).stopEvent 3) 0x1A02 0 5 (Config.requesterArg (areaOf who)) 0 0
      have hall := (hset.trans hevent).trans hlog
      refine ⟨_, next_applied (u := ((s.setNat kStopState 0).stopEvent 3).logEvent 0x1A02 0 5 (Config.requesterArg (areaOf who)) 0 0)
        hacc fun l => by rw [writeStopRearm, if_neg hv, if_neg (by rw [hstate]; decide)], ?_, ?_, fun p hp => ?_,
        hall.quiet.memoryKept.applied who, hall.quiet.workKept.applied who⟩
      · rw [nat_of_reg (State.reg_applied ..), hlog.nat (by decide), hevent.nat (by decide), State.nat_setNat_same _ (by decide)]
      · rw [bit_of_reg 3 (State.reg_applied ..), hlog.bit 3 (by decide)]
        exact bit_stopEvent _ 3 (by decide)
      · refine (nat_of_reg (State.reg_applied ..)).trans (hall.nat fun hmem => ?_)
        refine notMem_stopSlots (k := kPartRun p) (by unfold kPartRun; omega) (by unfold kPartRun; omega) ?_
        simp only [List.mem_append] at hmem ⊢
        tauto
    · exact next_refused hacc fun l => by rw [writeStopRearm, if_neg hv, if_pos hstate]
    · exact next_applied hacc fun l => if_pos hv

end Sys2Proof.Safety

namespace Sys2Proof.Safety

open Sys2Proof.Machine

/-! ### The BAR4 aperture (O50) -/

section Aperture

variable {s t u : State} {p : Nat}

/-- Bytes that stay within a row are one piece (R117). -/
theorem cutRows_within {row a : Nat} {l : List Byte} (hne : l ≠ []) (hfit : a % row + l.length ≤ row) (n : Nat) :
    cutRows row (n + 2) a l = [(a, l)] := by
  obtain ⟨b, l, rfl⟩ := List.exists_cons_of_ne_nil hne
  have htake : (b :: l).take (row - a % row) = b :: l := List.take_of_length_le (by omega)
  have hdrop : (b :: l).drop (row - a % row) = [] := List.drop_of_length_le (by omega)
  rw [cutRows, htake, hdrop]
  · rfl
  · exact List.cons_ne_nil b l

theorem cutRows_line {a : Nat} {l : List Byte} (hne : l ≠ []) (hfit : a % 256 + l.length ≤ 256) :
    cutRows 256 (l.length + 1) a l = [(a, l)] := by
  obtain ⟨n, hn⟩ := Nat.exists_eq_succ_of_ne_zero (List.length_eq_zero_iff.not.2 hne)
  rw [hn]
  exact cutRows_within hne hfit n

theorem settleCuts_none (h : s.cuts = []) : s.settleCuts = s := by
  rw [State.settleCuts, h]
  rfl

/-- With no cut a write copies nothing first (R378). -/
theorem copyBefore_none (h : s.cuts = []) (p va pa : Nat) : s.copyBefore p va pa = s := by
  have hcut : s.cut p = {} := by rw [State.cut, h]; rfl
  unfold State.copyBefore
  dsimp only
  rw [hcut]
  split <;> rfl

theorem underRestore_none (h : s.jobs = []) (p i : Nat) : s.underRestore p i = false := by
  rw [State.underRestore, h]
  rfl

/-- A write to HBM with no cut and no restore under way leaves its bytes (R575). -/
theorem hbm_hbmPut (hcuts : s.cuts = []) (hjobs : s.jobs = []) (p va pa : Nat) (l : List Byte) (restore : Bool) :
    (s.hbmPut p va pa l restore).hbm = putBytes s.hbm pa l ∧ (s.hbmPut p va pa l restore).cuts = [] := by
  have htouch := cached_mscTouch s pa true !restore
  have hhbm : (s.mscTouch pa true !restore).hbm = s.hbm := htouch.hbm
  have hcuts' : (s.mscTouch pa true !restore).cuts = [] := (htouch.field State.cuts).trans hcuts
  have hjobs' : (s.mscTouch pa true !restore).jobs = [] := (htouch.field State.jobs).trans hjobs
  unfold State.hbmPut
  rw [copyBefore_none hcuts]
  generalize (s.mscTouch pa true (!restore)) = v at hhbm hcuts' hjobs'
  dsimp only
  split
  · split
    · exact ⟨by rw [hhbm], hcuts'⟩
    · next i g _ hrestore =>
      rw [if_neg (by rw [underRestore_none (by exact hjobs')]; exact Bool.false_ne_true)]
      exact ⟨by rw [hhbm], hcuts'⟩
  · exact ⟨by rw [hhbm], hcuts'⟩

theorem bar4WriteLine_mapped {va pa : Nat} {l : List Byte} (h : s.translate p va true = (some pa, u)) :
    bar4WriteLine p (true, s) (va, l) = (true, u.hbmPut p va pa l) := by simp only [bar4WriteLine, h]

theorem bar4WriteLine_unmapped {va : Nat} {l : List Byte} (h : s.translate p va true = (none, u)) :
    bar4WriteLine p (true, s) (va, l) = (false, u) := by simp only [bar4WriteLine, h]

theorem bar4ReadLine_mapped {va pa : Nat} {l : List Byte} (h : s.translate p va false = (some pa, u)) :
    bar4ReadLine p none (true, s) (va, l) =
      (true, (u.mscTouch pa false).emit (.bar4Read p ((u.mscTouch pa false).hbmRead pa l.length) false)) := by
  simp only [bar4ReadLine, h, Bool.false_eq_true, if_false]

theorem bar4ReadLine_unmapped {va : Nat} {l : List Byte} (h : s.translate p va false = (none, u)) :
    bar4ReadLine p none (true, s) (va, l) = (false, u.emit (.bar4Read p l false)) := by simp only [bar4ReadLine, h]

/-- A write of one line from READY on (R761). -/
theorem exec_bar4Write {off : Nat} {l : List Byte} (hup : s.fnUp p = true) (hready : s.ready = true) (hne : l ≠ [])
    (hfit : (s.nat (kApertureBase p) + off) % 256 + l.length ≤ 256) {ok : Bool}
    (hline : bar4WriteLine p (true, s) (s.nat (kApertureBase p) + off, l) = (ok, t)) :
    exec (.bar4Access p off (.write l false none)) s = .next (if ok then t.settleCuts else t.settleCuts.apertureFault p) := by
  show execBar4Access p off (.write l false none) s = _
  have hlines := cutRows_line hne hfit
  simp only [execBar4Access, hup, hready, State.bar4Write, hlines, List.foldl_cons, List.foldl_nil, hline, Bool.true_eq_false,
    Bool.false_eq_true, if_false, if_true]

/-- A read of one line from READY on (R761). -/
theorem exec_bar4Read {off n : Nat} (hup : s.fnUp p = true) (hready : s.ready = true) (hn : 0 < n)
    (hfit : (s.nat (kApertureBase p) + off) % 256 + n ≤ 256) {ok : Bool}
    (hline : bar4ReadLine p none (true, s) (s.nat (kApertureBase p) + off, List.replicate n 0) = (ok, t)) :
    exec (.bar4Access p off (.read n none none)) s = .next (if ok then t else t.apertureFault p) := by
  have hlen : (List.replicate n (0 : Byte)).length = n := List.length_replicate
  have hlines := cutRows_line (a := s.nat (kApertureBase p) + off) (l := List.replicate n (0 : Byte))
    (by simp; omega) (by rw [hlen]; exact hfit)
  rw [hlen] at hlines
  show execBar4Access p off (.read n none none) s = _
  simp only [execBar4Access, hup, hready, State.bar4Read, hlines, List.foldl_cons, List.foldl_nil, hline, Bool.true_eq_false,
    if_false, if_true]

end Aperture

/-- Settles O50: one line of the aperture by its translation, and the accesses that reach no line. -/
theorem bar4Aperture : Obligations.Bar4Aperture := by
  refine ⟨?_, ?_, ?_, ?_, ?_, ?_, ?_⟩
  · intro s u fn off a pa bytes hup hready ha hne hfit htr hcuts hjobs
    subst ha
    have hcached : Cached s u := by have h := cached_translate s fn (s.nat (kApertureBase fn) + off) true; rwa [htr] at h
    have hnocuts : u.cuts = [] := (hcached.field State.cuts).trans hcuts
    have hnojobs : u.jobs = [] := (hcached.field State.jobs).trans hjobs
    obtain ⟨hhbm, hcuts'⟩ := hbm_hbmPut hnocuts hnojobs fn (s.nat (kApertureBase fn) + off) pa bytes false
    have hexec := exec_bar4Write hup hready hne hfit (bar4WriteLine_mapped htr)
    rw [if_pos rfl, settleCuts_none hcuts'] at hexec
    have hwrote := hcached.hbmWrote.trans (hbmWrote_hbmPut u fn (s.nat (kApertureBase fn) + off) pa bytes false)
    refine ⟨_, hexec, fun i hi => ?_, hwrote.field State.ls, hwrote.field State.fs, hwrote.field State.inflight,
      hwrote.field State.rings⟩
    rw [hhbm, getByte_putBytes_inside _ _ _ _ hi, List.getD_eq_getElem _ _ hi]
  · intro s u fn off a pa n hup hready ha hn hfit htr
    subst ha
    have hcached : Cached s u := by have h := cached_translate s fn (s.nat (kApertureBase fn) + off) false; rwa [htr] at h
    have hhbm := (hcached.trans (cached_mscTouch u pa false true)).hbm
    have hexec := exec_bar4Read hup hready hn hfit (bar4ReadLine_mapped htr)
    rw [if_pos rfl, hbmRead_congr hhbm, List.length_replicate] at hexec
    exact hexec
  · intro s u fn off a bytes hup hready ha hne hfit htr hcuts
    subst ha
    have hcached : Cached s u := by have h := cached_translate s fn (s.nat (kApertureBase fn) + off) true; rwa [htr] at h
    have hexec := exec_bar4Write hup hready hne hfit (bar4WriteLine_unmapped htr)
    have hnocuts : u.cuts = [] := (hcached.field State.cuts).trans hcuts
    rw [if_neg Bool.false_ne_true, settleCuts_none hnocuts] at hexec
    exact hexec
  · intro s u fn off a n hup hready ha hn hfit htr
    subst ha
    have hexec := exec_bar4Read hup hready hn hfit (bar4ReadLine_unmapped htr)
    rwa [if_neg Bool.false_ne_true] at hexec
  · exact fun s fn a wr ha => if_pos ha
  · intro s fn off n hup hready hfn
    refine ⟨?_, fun bytes => ?_⟩
    · show execBar4Access fn off (.read n none none) s = _
      simp [execBar4Access, hup, hready, State.bar4Early, hfn]
    · show execBar4Access fn off (.write bytes false none) s = _
      simp [execBar4Access, hup, hready, hfn]
  · intro s fn off hup
    refine ⟨if_neg (by rw [hup]; decide), fun bytes tb => ?_⟩
    show execBar4Access fn off (.write bytes true tb) s = _
    simp [execBar4Access, hup]

end Sys2Proof.Safety

namespace Sys2Proof.Safety

open Sys2Proof.Machine

/-! ### Accesses stay inside a partition's granules (O57) -/

section Translations

variable {s t u : State} {p : Nat}

/-- An address in the page of an address that a partition owns is the partition's own (R524). -/
theorem ownsPa_page {a b : Nat} (h : s.ownsPa p a = true) (hab : b / 2 ^ 28 = a / 2 ^ 28) : s.ownsPa p b = true := by
  rw [State.ownsPa, hab]
  exact h

theorem lt_of_ownsPa {a : Nat} (h : s.ownsPa p a = true) : p < 256 := by
  simp only [State.ownsPa, Bool.and_eq_true, beq_iff_eq] at h
  rw [← h.2]
  exact BitVec.isLt _

/-- A leaf of the tree keeps an address's place in its page (R523). -/
theorem leaf_leads {adr va lo : Nat} (hown : s.ownsPa p adr = true) (halign : adr % 2 ^ lo = 0) (hlo : lo = 16 ∨ lo = 21) :
    s.ownsPa p (adr + va % 2 ^ lo) = true ∧ (adr + va % 2 ^ lo) % 65536 = va % 65536 := by
  obtain rfl | rfl := hlo
  · exact ⟨ownsPa_page hown (by omega), by omega⟩
  · exact ⟨ownsPa_page hown (by omega), by omega⟩

/-- A walk leads into a page that the partition owns, and keeps the place in the page (R523, R524). -/
theorem walkFrom_leads {va pa : Nat} {wr : Bool} (l : List (Nat × Nat)) (hl : ∀ x ∈ l, x.1 = 16 ∨ 21 ≤ x.1) (tb : Nat)
    (h : s.walkFrom p va wr l tb = some pa) : s.ownsPa p pa = true ∧ pa % 65536 = va % 65536 := by
  induction l generalizing tb with
  | nil => cases h
  | cons x l ih =>
    obtain ⟨lo, nb⟩ := x
    have hlo := hl _ (List.mem_cons_self ..)
    rw [State.walkFrom] at h
    dsimp only at h hlo
    generalize bitsOf (leNat (s.hbmRead (tb + 8 * bitsOf va (lo + nb - 1) lo) 8)) 47 8 * 256 = adr at h
    generalize leNat (s.hbmRead (tb + 8 * bitsOf va (lo + nb - 1) lo) 8) = e at h
    by_cases htb : s.ownsPa p tb = true
    · rw [if_pos htb] at h
      by_cases hbad : e % 2 = 0 ∨ bitsOf e 7 3 ≠ 0 ∨ bitsOf e 63 48 ≠ 0
      · rw [if_pos hbad] at h
        cases h
      · rw [if_neg hbad] at h
        by_cases hleaf : bitOf e 1 = true
        · rw [if_pos hleaf] at h
          by_cases hno : 21 < lo ∨ adr % 2 ^ lo ≠ 0 ∨ (wr && !bitOf e 2) = true
          · rw [if_pos hno] at h
            cases h
          · rw [if_neg hno] at h
            rw [not_or, not_or, not_not] at hno
            obtain ⟨hle, halign, -⟩ := hno
            by_cases hown : s.ownsPa p adr = true
            · rw [if_pos hown] at h
              obtain rfl := Option.some.inj h
              exact leaf_leads hown halign (by omega)
            · rw [if_neg hown] at h
              cases h
        · rw [if_neg hleaf] at h
          by_cases hres : bitOf e 2 = true
          · rw [if_pos hres] at h
            cases h
          · rw [if_neg hres] at h
            by_cases hnext : adr % (if lo = 21 then 256 else 4096) ≠ 0
            · rw [if_pos hnext] at h
              cases h
            · rw [if_neg hnext] at h
              exact ih (fun x hx => hl x (List.mem_cons_of_mem _ hx)) _ h
    · rw [if_neg htb] at h
      cases h

theorem walk_leads {va pa : Nat} {wr : Bool} (h : s.walk p va wr = some pa) :
    s.ownsPa p pa = true ∧ pa % 65536 = va % 65536 ∧ va < 2 ^ 48 := by
  unfold State.walk at h
  split at h
  · next hva =>
    obtain ⟨hown, hpage⟩ := walkFrom_leads walkLevels (by decide) _ h
    exact ⟨hown, hpage, hva⟩
  · cases h

/-- A translation leads into a page that the partition owns, whatever the caches hold (R526). -/
theorem translate_leads {va pa : Nat} {wr : Bool} (h : s.translate p va wr = (some pa, u)) :
    s.ownsPa p pa = true ∧ va < 2 ^ 48 ∧ pa % 65536 = va % 65536 := by
  unfold State.translate at h
  split at h
  · cases h
  · next hva =>
    have hwalk : ∀ pa, s.walk p va wr = some pa → s.ownsPa p pa = true ∧ va < 2 ^ 48 ∧ pa % 65536 = va % 65536 := fun pa hw => by
      obtain ⟨hown, hpage, hlt⟩ := walk_leads hw
      exact ⟨hown, hlt, hpage⟩
    dsimp only at h
    split at h
    · next x hheld =>
      have hx : s.ownsPa p x = true ∧ va < 2 ^ 48 ∧ x % 65536 = va % 65536 := by
        split at hheld
        · next hc =>
          obtain rfl := Option.some.inj hheld
          exact ⟨ownsPa_page hc.2.2 (by omega), by omega, by omega⟩
        · cases hheld
      split at h
      · exact hwalk _ (Prod.mk.inj h).1
      · have h1 := (Prod.mk.inj h).1
        split at h1
        · obtain rfl := Option.some.inj h1
          exact hx
        · exact hwalk _ h1
    · split at h
      · exact hwalk _ (Prod.mk.inj h).1
      · cases h

end Translations

/-- What may happen where a byte of HBM is not to change: the owners of granules stay, the byte stays, the shadow pools stay where
they are, and each cut keeps its descriptor or is over. -/
structure Spares (a : Nat) (s t : State) : Prop where
  octs : t.octs = s.octs
  byte : Tbl.get 0 t.hbm a = Tbl.get 0 s.hbm a
  shadow : ∀ q, q < 256 → t.nat (kShadowBase q) = s.nat (kShadowBase q)
  idle : ∀ p, s.nat (kCutState p) = 0 → t.nat (kCutState p) = 0
  tags : ∀ p, (t.cut p).tag = (s.cut p).tag ∨ t.nat (kCutState p) = 0

/-- A partition whose accesses cannot reach a byte of HBM: it does not own the granule, and its shadow pool begins at a line. -/
def outside (s : State) (p a : Nat) : Prop := s.ownsPa p a = false ∧ (p < 256 → s.nat (kShadowBase p) % 256 = 0)

section Spared

variable {s t u : State} {a p : Nat}

theorem Spares.refl (s : State) : Spares a s s := ⟨rfl, rfl, fun _ _ => rfl, fun _ h => h, fun _ => .inl rfl⟩

theorem Spares.trans (h : Spares a s t) (h' : Spares a t u) : Spares a s u where
  octs := h'.octs.trans h.octs
  byte := h'.byte.trans h.byte
  shadow q hq := (h'.shadow q hq).trans (h.shadow q hq)
  idle q hq := h'.idle q (h.idle q hq)
  tags q := by
    obtain htag | hzero := h.tags q
    · exact (h'.tags q).imp_left fun h => h.trans htag
    · exact .inr (h'.idle q hzero)

theorem Spares.outside (h : Spares a s t) (hp : outside s p a) : outside t p a :=
  ⟨(ownsPa_congr h.octs p a).trans hp.1, fun hlt => by rw [h.shadow p hlt]; exact hp.2 hlt⟩

theorem Spares.ite {c : Prop} [Decidable c] (h : Spares a s t) (h' : Spares a s u) : Spares a s (if c then t else u) := by
  split
  · exact h
  · exact h'

theorem Spares.foldl {α : Type} {f : State → α → State} (hf : ∀ s x, Spares a s (f s x)) (l : List α) :
    ∀ s, Spares a s (l.foldl f s) := by
  induction l with
  | nil => exact .refl
  | cons x l ih => exact fun s => (hf s x).trans (ih (f s x))

/-- A change of nothing that matters here. -/
theorem spares_of_same (hocts : t.octs = s.octs) (hhbm : t.hbm = s.hbm) (hregs : t.regs = s.regs) (hcuts : t.cuts = s.cuts) :
    Spares a s t where
  octs := hocts
  byte := by rw [hhbm]
  shadow _ _ := nat_of_reg (State.reg_of_regs hregs _)
  idle _ h := (nat_of_reg (State.reg_of_regs hregs _)).trans h
  tags _ := .inl (by simp only [State.cut, hcuts])

/-- A slot that is no shadow pool's place and no cut's state. -/
def aside (k : Nat) : Prop := (∀ q, q < 256 → kShadowBase q ≠ k) ∧ ∀ q, kCutState q ≠ k

theorem spares_setReg (s : State) {k : Nat} (hk : aside k) (w : Word) : Spares a s (s.setReg k w) where
  octs := rfl
  byte := rfl
  shadow q hq := nat_of_reg (State.reg_setReg_other _ _ (hk.1 q hq))
  idle q h := (nat_of_reg (State.reg_setReg_other _ _ (hk.2 q))).trans h
  tags _ := .inl rfl

theorem spares_setNat (s : State) {k : Nat} (hk : aside k) (n : Nat) : Spares a s (s.setNat k n) := spares_setReg s hk _

theorem spares_bump (s : State) {k : Nat} (hk : aside k) (n : Nat) : Spares a s (s.bump k n) := spares_setReg s hk _

theorem spares_wrapAdd (s : State) {k : Nat} (hk : aside k) (n w : Nat) : Spares a s (s.wrapAdd k n w) := spares_setReg s hk _

theorem aside_cutSlots (p : Nat) : aside (kShadowSlotsUsed p) ∧ aside (kShadowPeak p) ∧ aside (kCutsAborted p) ∧
    aside (kEventsLost p) ∧ aside (kEventProd p) := by
  unfold aside kShadowBase kCutState kShadowSlotsUsed kShadowPeak kCutsAborted kEventsLost kEventProd
  refine ⟨⟨?_, ?_⟩, ⟨?_, ?_⟩, ⟨?_, ?_⟩, ⟨?_, ?_⟩, ⟨?_, ?_⟩⟩ <;> intros <;> omega

theorem aside_signalRepeats : aside kSignalRepeats := by
  unfold aside kShadowBase kCutState kSignalRepeats
  refine ⟨?_, ?_⟩ <;> intros <;> omega

theorem Cached.spares (h : Cached s t) : Spares a s t where
  octs := h.octs
  byte := by rw [h.hbm]
  shadow q _ := h.nat (by unfold kShadowBase kMscHits kMscMisses; simp; omega)
  idle q hq := (h.nat (by unfold kCutState kMscHits kMscMisses; simp; omega)).trans hq
  tags q := by
    have hcuts : t.cuts = s.cuts := h.field State.cuts
    exact .inl (by simp only [State.cut, hcuts])

theorem cut_setCut_same (s : State) (p : Nat) (c : CutSt) : (s.setCut p c).cut p = c := by
  simp only [State.cut, State.setCut]
  exact Tbl.get_set_same _ _ _ _

theorem cut_setCut_other (s : State) {p q : Nat} (h : q ≠ p) (c : CutSt) : (s.setCut p c).cut q = s.cut q := by
  simp only [State.cut, State.setCut]
  exact Tbl.get_set_other _ _ _ _ h

/-- A cut that changes and keeps its descriptor, or that is over. -/
theorem spares_setCut {c : CutSt} (h : c.tag = (s.cut p).tag ∨ s.nat (kCutState p) = 0) : Spares a s (s.setCut p c) where
  octs := rfl
  byte := rfl
  shadow _ _ := rfl
  idle _ h := h
  tags q := by
    by_cases hq : q = p
    · rw [hq, cut_setCut_same]
      exact h
    · rw [cut_setCut_other _ hq]
      exact .inl rfl

/-- Bytes that are written in the granule of an address that a partition owns spare a byte that it does not own. -/
theorem spares_putBytes {pa : Nat} (hout : s.ownsPa p a = false) (hown : s.ownsPa p pa = true) {b : Nat} {l : List Byte}
    (hl : ∀ i, i < l.length → (b + i) / 2 ^ 28 = pa / 2 ^ 28) :
    Tbl.get 0 (putBytes s.hbm b l) a = Tbl.get 0 s.hbm a := by
  refine getByte_putBytes_outside l s.hbm b a ?_
  by_contra hin
  have hsame : a / 2 ^ 28 = pa / 2 ^ 28 := by rw [← hl (a - b) (by omega), show b + (a - b) = a by omega]
  rw [ownsPa_page hown hsame] at hout
  cases hout

/-- A cut has taken one more shadow slot (R378). -/
def slotTaken (s : State) (p : Nat) (c : CutSt) (used : Nat) : State :=
  let s := (s.setCut p c).setNat (kShadowSlotsUsed p) used
  if s.nat (kShadowPeak p) < used then s.setNat (kShadowPeak p) used else s

theorem spares_withHbm {h : Tbl Byte} (hbyte : Tbl.get 0 h a = Tbl.get 0 s.hbm a) : Spares a s { s with hbm := h } :=
  ⟨rfl, hbyte, fun _ _ => rfl, fun _ h => h, fun _ => .inl rfl⟩

theorem slotTaken_leaves (s : State) (p used : Nat) {c : CutSt} (h : c.tag = (s.cut p).tag) :
    Spares a s (slotTaken s p c used) ∧ ((slotTaken s p c used).cut p).tag = (s.cut p).tag ∧
    (slotTaken s p c used).cuts = (s.setCut p c).cuts := by
  obtain ⟨hused, hpeak, -⟩ := aside_cutSlots p
  have hcuts : (slotTaken s p c used).cuts = (s.setCut p c).cuts := by
    unfold slotTaken
    dsimp only
    split <;> rfl
  refine ⟨?_, ?_, hcuts⟩
  · exact (spares_setCut (.inl h)).trans ((spares_setNat _ hused _).trans (.ite (spares_setNat _ hpeak _) (.refl _)))
  · rw [← h, State.cut, hcuts]
    exact congrArg CutSt.tag (cut_setCut_same s p c)

theorem takeSlot_eq {i g k : Nat} (h : s.takeSlot p i g = some (k, t)) :
    t = s ∨ ∃ c, t = slotTaken s p c ((s.cut p).slots.length + 1) ∧ c.tag = (s.cut p).tag := by
  unfold State.takeSlot at h
  dsimp only at h
  split at h
  · exact .inl (Prod.mk.inj (Option.some.inj h)).2.symm
  · split at h
    · cases h
    · exact .inr ⟨_, (Prod.mk.inj (Option.some.inj h)).2.symm, rfl⟩

theorem takeSlot_spares {i g k : Nat} (h : s.takeSlot p i g = some (k, t)) :
    Spares a s t ∧ (t.cut p).tag = (s.cut p).tag := by
  obtain rfl | ⟨c, rfl, htag⟩ := takeSlot_eq h
  · exact ⟨.refl _, rfl⟩
  · obtain ⟨hspares, hcut, -⟩ := slotTaken_leaves (a := a) s p ((s.cut p).slots.length + 1) htag
    exact ⟨hspares, hcut⟩

theorem line_aligned {base k line pa : Nat} (h : base % 256 = 0) (hpa : pa % 65536 = (base + k * 65536 + line * 256) % 65536) :
    pa % 256 = 0 := by omega

/-- The shadow copy of a line stays in a page that the partition owns (R378). -/
theorem spares_copyBefore (hout : outside s p a) (va pa : Nat) : Spares a s (s.copyBefore p va pa) := by
  unfold State.copyBefore
  dsimp only
  split
  · exact .refl s
  · split
    · split
      · exact spares_setCut (.inl rfl)
      · next k v hslot =>
        obtain ⟨hspares, htag⟩ := takeSlot_spares (a := a) hslot
        split
        · exact hspares
        · split
          · exact spares_setCut (.inl rfl)
          · next spa hwalk =>
            obtain ⟨hown, hpage, -⟩ := walk_leads hwalk
            have halign := hout.2 (lt_of_ownsPa hown)
            have hlen : (v.hbmRead (pa / 256 * 256) 256).length = 256 := length_getBytes ..
            have hspa : spa % 256 = 0 := line_aligned halign hpage
            have hline : ∀ i, i < 256 → (spa + i) / 2 ^ 28 = spa / 2 ^ 28 := fun i hi => by omega
            have hput := spares_putBytes (hspares.outside hout).1 hown fun i hi => hline i (hlen ▸ hi)
            exact (hspares.trans (spares_withHbm hput)).trans (spares_setCut (.inl rfl))
    · exact .refl s

theorem length_freeBytes (n k : Nat) : (freeBytes n k).length = k := by rw [freeBytes, List.length_map, length_countFrom]

/-- A granule of a partition is dirty. -/
def dirty (s : State) (key : Nat) : State := { s with clean := Tbl.set false s.clean key false }

/-- A page of HBM is undefined. -/
def undefinedPage (s : State) (pa : Nat) : State :=
  { s with hbm := putBytes s.hbm (pa / 65536 * 65536) (freeBytes s.free 65536), free := s.free + 65536 }

/-- What a write to a region leaves of its granule (R373, R393). -/
def granuleMarked (s : State) (p va pa : Nat) (restore : Bool) : State :=
  match s.granuleOf p va with
  | some (i, g) =>
    if restore then s
    else if (dirty s (cleanKey p i g)).underRestore p i then undefinedPage (dirty s (cleanKey p i g)) pa else dirty s (cleanKey p i g)
  | none => s

theorem hbmPut_eq (s : State) (p va pa : Nat) (l : List Byte) (restore : Bool) : s.hbmPut p va pa l restore =
    granuleMarked { (s.copyBefore p va pa).mscTouch pa true !restore with
      hbm := putBytes ((s.copyBefore p va pa).mscTouch pa true !restore).hbm pa l } p va pa restore := rfl

theorem spares_dirty (s : State) (key : Nat) : Spares a s (dirty s key) := spares_of_same rfl rfl rfl rfl

theorem spares_undefinedPage (hout : outside s p a) {pa : Nat} (hown : s.ownsPa p pa = true) : Spares a s (undefinedPage s pa) := by
  have hpage := spares_putBytes (b := pa / 65536 * 65536) (l := freeBytes s.free 65536) hout.1 hown fun i hi => by
    rw [length_freeBytes] at hi
    omega
  exact (spares_withHbm hpage).trans (spares_of_same rfl rfl rfl rfl)

theorem spares_granuleMarked (hout : outside s p a) {pa : Nat} (hown : s.ownsPa p pa = true) (va : Nat) (restore : Bool) :
    Spares a s (granuleMarked s p va pa restore) := by
  unfold granuleMarked
  split
  · next i g _ =>
    have hdirty := spares_dirty (a := a) s (cleanKey p i g)
    exact .ite (.refl s) (.ite (hdirty.trans (spares_undefinedPage (hdirty.outside hout)
      ((ownsPa_congr hdirty.octs p pa).trans hown))) hdirty)
  · exact .refl s

/-- A write of at most a line in a page that the partition owns (R575). -/
theorem spares_hbmPut (hout : outside s p a) {va pa : Nat} {l : List Byte} (hown : s.ownsPa p pa = true)
    (hfit : pa % 256 + l.length ≤ 256) (restore : Bool) : Spares a s (s.hbmPut p va pa l restore) := by
  have hbefore := (spares_copyBefore hout va pa).trans (cached_mscTouch (s.copyBefore p va pa) pa true !restore).spares
  rw [hbmPut_eq]
  generalize ((s.copyBefore p va pa).mscTouch pa true !restore) = v at hbefore
  have hline := spares_putBytes (b := pa) (l := l) (hbefore.outside hout).1 ((ownsPa_congr hbefore.octs p pa).trans hown)
    fun i hi => by omega
  have hput := hbefore.trans (spares_withHbm hline)
  exact hput.trans (spares_granuleMarked (hput.outside hout) ((ownsPa_congr hput.octs p pa).trans hown) va restore)

/-- The pieces of bytes cut at the ends of lines stay within a line. -/
theorem cutRows_fit (n : Nat) : ∀ (va : Nat) (l : List Byte), ∀ x ∈ cutRows 256 n va l, x.1 % 256 + x.2.length ≤ 256 := by
  induction n with
  | zero => exact fun _ _ _ h => absurd h List.not_mem_nil
  | succ n ih =>
    intro va l x hx
    cases l with
    | nil => exact absurd hx List.not_mem_nil
    | cons b l =>
      rw [cutRows] at hx
      · obtain rfl | hx := List.mem_cons.1 hx
        · dsimp only
          rw [List.length_take]
          omega
        · exact ih _ _ x hx
      · exact List.cons_ne_nil b l

/-- Bytes written for a partition stay in its pages (R524). -/
theorem spares_vaPut (hout : outside s p a) (va : Nat) (l : List Byte) (restore : Bool) : Spares a s (s.vaPut p va l restore).2 := by
  have hall : ∀ (xs : List (Nat × List Byte)), (∀ x ∈ xs, x.1 % 256 + x.2.length ≤ 256) → ∀ v : Bool × State, outside v.2 p a →
      Spares a v.2 (xs.foldl (fun (v : Bool × State) x =>
        match v.2.walk p x.1 true with
        | some pa => (v.1, v.2.hbmPut p x.1 pa x.2 restore)
        | none => (false, v.2)) v).2 := by
    intro xs
    induction xs with
    | nil => exact fun _ v _ => .refl v.2
    | cons x xs ih =>
      intro hfit v hv
      rw [List.foldl_cons]
      have hstep : Spares a v.2 (match v.2.walk p x.1 true with
          | some pa => (v.1, v.2.hbmPut p x.1 pa x.2 restore)
          | none => (false, v.2)).2 := by
        split
        · next pa hwalk =>
          obtain ⟨hown, hpage, -⟩ := walk_leads hwalk
          have hx := hfit x (List.mem_cons_self ..)
          exact spares_hbmPut hv hown (by omega) restore
        · exact .refl _
      exact hstep.trans (ih (fun y hy => hfit y (List.mem_cons_of_mem _ hy)) _ (hstep.outside hv))
  exact hall _ (cutRows_fit _ _ _) (true, s) hout

end Spared

section Settled

variable {s t u : State} {a p : Nat}

theorem spares_setStream (s : State) (st : Nat) (v : StreamSt) : Spares a s (s.setStream st v) := spares_of_same rfl rfl rfl rfl

theorem spares_queueRec (s : State) (st : Nat) (w : WaitRec) : Spares a s (s.queueRec st w) := spares_setStream ..

theorem spares_msix (s : State) (fn vec : Nat) : Spares a s (s.msix fn vec) :=
  .ite (.refl s) (.ite (spares_of_same rfl rfl rfl rfl) (.ite (.refl s) (spares_of_same rfl rfl rfl rfl)))

/-- The value of an ACTIVE fence changes: its slot is no shadow pool's, and no cut's that is over. -/
theorem spares_setFenceValue {f : Nat} (v : Nat) (hlife : s.fenceLife f = 1) : Spares a s (s.setFenceValue f v) := by
  have hset : Spares a s (s.setReg (kFenceState f) (putFld (s.fence f) 3 2 v)) := by
    refine ⟨rfl, rfl, fun q hq => nat_of_reg (State.reg_setReg_other _ _ ?_), fun q hq => ?_, fun _ => .inl rfl⟩
    · unfold kShadowBase kFenceState
      omega
    · refine (nat_of_reg (State.reg_setReg_other _ _ fun he => ?_)).trans hq
      have hzero : (s.fence f).toNat = 0 := by rw [State.fence, ← he]; exact hq
      rw [State.fenceLife, fld, hzero] at hlife
      exact absurd hlife (by decide)
  have htell : ∀ (s : State) (i : Nat), Spares a s (s.fenceTell f (s.regByte (kFenceSubs f) i)) := fun s _ =>
    .ite (spares_queueRec ..) (.refl s)
  exact hset.trans (.ite (.foldl htell _ _) (.refl _))

theorem spares_signalFence (s : State) (f : Nat) : Spares a s (s.signalFence f) := by
  have hrepeat : Spares a s (s.bump kSignalRepeats) := spares_bump s aside_signalRepeats 1
  unfold State.signalFence
  dsimp only
  split
  · exact hrepeat
  · next hlife =>
    rw [not_not] at hlife
    exact .ite (.ite (spares_queueRec ..) (.refl s)) (.ite (spares_setFenceValue 1 hlife) hrepeat)

/-- The event of a job is written in its own partition's pages (R350). -/
theorem spares_jobEvent {tag : JobTag} (hout : outside s tag.part a) (kind status cause cutId cutFrame records detail : Nat) :
    Spares a s (s.jobEvent kind status cause tag cutId cutFrame records detail) := by
  obtain ⟨-, -, -, hlost, hprod⟩ := aside_cutSlots tag.part
  unfold State.jobEvent
  dsimp only
  refine Spares.trans (.ite (t := s.bump (kEventsLost tag.part)) (spares_bump s hlost 1) ?_) (.ite (spares_signalFence ..) (.refl _))
  exact (spares_vaPut hout _ _ _).trans ((spares_wrapAdd _ hprod 1 32).trans (spares_msix ..))

/-- A cut that is over. -/
theorem spares_cutOver (s : State) (p : Nat) : Spares a s ((s.setNat (kCutState p) 0).setCut p {}) where
  octs := rfl
  byte := rfl
  shadow q _ := State.nat_setNat_other _ _ (by unfold kShadowBase kCutState; omega)
  idle q hq := by
    by_cases hqp : q = p
    · rw [hqp]
      exact State.nat_setNat_same _ (by decide)
    · exact (State.nat_setNat_other s 0 (by unfold kCutState; omega)).trans hq
  tags q := by
    by_cases hqp : q = p
    · rw [hqp]
      exact .inr (State.nat_setNat_same s (by decide))
    · exact .inl (congrArg CutSt.tag (cut_setCut_other (s.setNat (kCutState p) 0) hqp {}))

/-- A cut's end changes bytes of its own partition's pages only (R380). -/
theorem spares_abandonCut (hout : s.nat (kCutState p) ≠ 0 → outside s (s.cut p).tag.part a) (status cause : Nat) :
    Spares a s (s.abandonCut p status cause) := by
  obtain ⟨hused, -, haborted, -⟩ := aside_cutSlots p
  unfold State.abandonCut
  dsimp only
  split
  · exact .refl s
  · next hstate =>
    refine (fun h => Spares.trans h (spares_jobEvent (h.outside (hout hstate)) ..)) ?_
    refine Spares.trans ?_ (spares_cutOver ..)
    refine Spares.trans ?_ ((spares_bump _ haborted 1).trans (spares_setNat _ hused 0))
    refine Spares.trans (.foldl (fun _ _ => ?_) _ s) (.foldl (fun _ _ => .ite (spares_queueRec ..) (.refl _)) _ _)
    exact spares_dirty ..

/-- Every cut of a list is over, or its descriptor's partition cannot reach the byte. -/
def cutsOutside (s : State) (a : Nat) (l : List Nat) : Prop :=
  ∀ p ∈ l, s.nat (kCutState p) = 0 ∨ outside s (s.cut p).tag.part a

theorem Spares.cutsOutside {l : List Nat} (h : Spares a s t) (hl : cutsOutside s a l) : cutsOutside t a l := by
  intro p hp
  obtain hzero | hout := hl p hp
  · exact .inl (h.idle p hzero)
  · obtain htag | hzero := h.tags p
    · exact .inr (htag ▸ h.outside hout)
    · exact .inl hzero

theorem spares_abandonCuts (l : List (Nat × Nat × Nat)) : ∀ s : State, cutsOutside s a (l.map (·.1)) →
    Spares a s (l.foldl (fun s x => s.abandonCut x.1 x.2.1 x.2.2) s) := by
  induction l with
  | nil => exact fun s _ => .refl s
  | cons x l ih =>
    intro s hl
    have hx := hl x.1 (List.mem_cons_self ..)
    have hstep := spares_abandonCut (s := s) (fun hne => hx.resolve_left hne) x.2.1 x.2.2
    exact hstep.trans (ih _ (hstep.cutsOutside fun p hp => hl p (List.mem_cons_of_mem _ hp)))

theorem spares_settleCuts (h : cutsOutside s a (s.cuts.map Prod.fst)) : Spares a s s.settleCuts := by
  refine spares_abandonCuts _ s fun p hp => h p ?_
  simp only [List.mem_map, List.mem_filterMap, Option.map_eq_some_iff] at hp
  obtain ⟨_, ⟨⟨q, c⟩, hmem, f, -, rfl⟩, rfl⟩ := hp
  exact List.mem_map.2 ⟨(q, c), hmem, rfl⟩

end Settled

section CutKeys

variable {s t u : State} {a p : Nat}

/-- The numbers that a table lists after one entry was set. -/
theorem keys_set {α : Type} [DecidableEq α] (d : α) (t : Tbl α) (k : Nat) (v : α) :
    ∀ x ∈ (Tbl.set d t k v).map Prod.fst, x = k ∨ x ∈ t.map Prod.fst := by
  have hself : t.all (fun x => decide (x.1 = k ∨ x.1 ∈ t.map Prod.fst)) = true :=
    List.all_eq_true.2 fun x hx => decide_eq_true (.inr (List.mem_map.2 ⟨x, hx, rfl⟩))
  have herase := Tbl.all_drop _ (fun j => decide (j = k)) t hself
  rw [← Tbl.erase_eq_drop] at herase
  have hset : (Tbl.set d t k v).all (fun x => decide (x.1 = k ∨ x.1 ∈ t.map Prod.fst)) = true := by
    unfold Tbl.set
    split
    · exact herase
    · exact Tbl.all_insert _ _ k v herase (decide_eq_true (.inl rfl))
  intro x hx
  obtain ⟨y, hy, rfl⟩ := List.mem_map.1 hx
  exact of_decide_eq_true (List.all_eq_true.1 hset y hy)

/-- No cut begins: a partition listed with a cut was listed before. -/
def noNewCuts (s t : State) : Prop := ∀ p ∈ t.cuts.map Prod.fst, p ∈ s.cuts.map Prod.fst

theorem noNewCuts_of_same (h : t.cuts = s.cuts) : noNewCuts s t := fun _ hp => h ▸ hp

theorem noNewCuts_setCut (hp : p ∈ s.cuts.map Prod.fst) (c : CutSt) : noNewCuts s (s.setCut p c) := by
  intro q hq
  obtain rfl | hq := keys_set _ _ _ _ q hq
  · exact hp
  · exact hq

theorem mem_setCut_keys {q : Nat} {c : CutSt} (hq : q ∈ (s.setCut p c).cuts.map Prod.fst) : q = p ∨ q ∈ s.cuts.map Prod.fst :=
  keys_set _ _ _ _ q hq

/-- A cut with granules to drain is listed. -/
theorem listed_of_undrained {x : Nat × Nat} (h : (s.cut p).undrained.contains x = true) : p ∈ s.cuts.map Prod.fst := by
  by_contra hno
  have hcut : s.cut p = {} := get_of_notMem _ hno
  rw [hcut] at h
  cases h

theorem noNewCuts_takeSlot {i g k : Nat} (hp : p ∈ s.cuts.map Prod.fst) (h : s.takeSlot p i g = some (k, t)) : noNewCuts s t := by
  obtain rfl | ⟨c, rfl, htag⟩ := takeSlot_eq h
  · exact fun _ h => h
  · obtain ⟨-, -, hcuts⟩ := slotTaken_leaves (a := 0) s p ((s.cut p).slots.length + 1) htag
    intro q hq
    rw [hcuts] at hq
    exact noNewCuts_setCut hp c q hq

theorem noNewCuts_copyBefore (s : State) (p va pa : Nat) : noNewCuts s (s.copyBefore p va pa) := by
  unfold State.copyBefore
  dsimp only
  split
  · exact fun _ h => h
  · split
    · next i g _ hcond =>
      have hp := listed_of_undrained (Bool.and_eq_true_iff.1 hcond).1
      split
      · exact noNewCuts_setCut hp _
      · next k v hslot =>
        have hnew := noNewCuts_takeSlot hp hslot
        split
        · exact hnew
        · split
          · exact noNewCuts_setCut hp _
          · next spa _ =>
            intro q hq
            have hq' := mem_setCut_keys hq
            obtain rfl | hq := hq'
            · exact hp
            · exact hnew q hq
    · exact fun _ h => h

theorem cuts_undefinedPage (s : State) (pa : Nat) : (undefinedPage s pa).cuts = s.cuts := by
  unfold undefinedPage
  generalize s.free + 65536 = n
  rfl

theorem cuts_granuleMarked (s : State) (p va pa : Nat) (restore : Bool) : (granuleMarked s p va pa restore).cuts = s.cuts := by
  unfold granuleMarked
  split
  · split
    · rfl
    · split
      · exact cuts_undefinedPage _ pa
      · rfl
  · rfl

theorem noNewCuts_hbmPut (s : State) (p va pa : Nat) (l : List Byte) (restore : Bool) : noNewCuts s (s.hbmPut p va pa l restore) := by
  intro q hq
  have hcached := cached_mscTouch (s.copyBefore p va pa) pa true !restore
  rw [hbmPut_eq, cuts_granuleMarked] at hq
  generalize ((s.copyBefore p va pa).mscTouch pa true !restore) = w at hq hcached
  have hcuts : w.cuts = (s.copyBefore p va pa).cuts := hcached.field State.cuts
  have hq' : q ∈ w.cuts.map Prod.fst := hq
  exact noNewCuts_copyBefore s p va pa q (hcuts ▸ hq')

/-- One line of a BAR4 write stays in the pages of its partition (R761). -/
theorem spares_bar4WriteLine (v : Bool × State) (hout : outside v.2 p a) {x : Nat × List Byte}
    (hfit : x.1 % 256 + x.2.length ≤ 256) : Spares a v.2 (bar4WriteLine p v x).2 ∧ noNewCuts v.2 (bar4WriteLine p v x).2 := by
  have hcached := cached_translate v.2 p x.1 true
  unfold bar4WriteLine
  split
  · next w h =>
    rw [h] at hcached
    exact ⟨hcached.spares, noNewCuts_of_same (hcached.field State.cuts)⟩
  · next pa w h =>
    rw [h] at hcached
    obtain ⟨hown, -, hpage⟩ := translate_leads h
    have hsp : Spares a v.2 w := hcached.spares
    have hcuts : w.cuts = v.2.cuts := hcached.field State.cuts
    refine ⟨hsp.trans (spares_hbmPut (hsp.outside hout) ((hcached.ownsPa p pa).trans hown) (by omega) false), fun q hq => ?_⟩
    exact hcuts ▸ noNewCuts_hbmPut w p x.1 pa x.2 false q hq

theorem spares_bar4WriteLines (xs : List (Nat × List Byte)) (hfit : ∀ x ∈ xs, x.1 % 256 + x.2.length ≤ 256) :
    ∀ v : Bool × State, outside v.2 p a →
      Spares a v.2 (xs.foldl (bar4WriteLine p) v).2 ∧ noNewCuts v.2 (xs.foldl (bar4WriteLine p) v).2 := by
  induction xs with
  | nil => exact fun v _ => ⟨.refl v.2, fun _ h => h⟩
  | cons x xs ih =>
    intro v hv
    obtain ⟨hstep, hnew⟩ := spares_bar4WriteLine v hv (hfit x (List.mem_cons_self ..))
    obtain ⟨hrest, hnew'⟩ := ih (fun y hy => hfit y (List.mem_cons_of_mem _ hy)) (bar4WriteLine p v x) (hstep.outside hv)
    exact ⟨hstep.trans hrest, fun q hq => hnew q (hnew' q hq)⟩

theorem hbm_apertureFault (s : State) (p : Nat) : (s.apertureFault p).hbm = s.hbm := rfl

/-- The lines of a BAR4 write (R761). -/
def bar4Lines (s : State) (p off : Nat) (l : List Byte) : Bool × State :=
  (cutRows 256 (l.length + 1) (s.nat (kApertureBase p) + off) l).foldl (bar4WriteLine p) (true, s)

/-- Where every cut's partition cannot reach a byte, no BAR4 write of a function that cannot reach it changes it (R761). -/
theorem byte_bar4Write (hout : outside s p a) (hcuts : ∀ x ∈ s.cuts, outside s x.2.tag.part a) (off : Nat) (l : List Byte) :
    Tbl.get 0 (s.bar4Write p off l none).hbm a = Tbl.get 0 s.hbm a := by
  obtain ⟨hlines, hnew⟩ := spares_bar4WriteLines (cutRows 256 (l.length + 1) (s.nat (kApertureBase p) + off) l) (cutRows_fit _ _ _)
    (true, s) hout
  have hlisted : cutsOutside s a (s.cuts.map Prod.fst) := by
    intro q hq
    refine .inr ?_
    have hget : ∀ t : Tbl CutSt, q ∈ t.map Prod.fst → (q, Tbl.get {} t q) ∈ t := by
      intro t
      induction t with
      | nil => exact fun h => absurd h List.not_mem_nil
      | cons y t ih =>
        intro h
        rw [Tbl.get]
        split
        · next he => exact List.mem_cons.2 (.inl (by rw [← he]))
        · next hne => exact List.mem_cons_of_mem _ (ih ((List.mem_cons.1 h).resolve_left fun he => hne he.symm))
    exact hcuts _ (hget s.cuts hq)
  have hsettle := spares_settleCuts fun q hq => (hlines.cutsOutside hlisted) q (hnew q hq)
  have hbyte : Tbl.get 0 (bar4Lines s p off l).2.settleCuts.hbm a = Tbl.get 0 s.hbm a :=
    (hlines.trans hsettle).byte
  have hwrite : s.bar4Write p off l none = if (bar4Lines s p off l).1 then (bar4Lines s p off l).2.settleCuts
      else (bar4Lines s p off l).2.settleCuts.apertureFault p := rfl
  rw [hwrite]
  split
  · exact hbyte
  · rw [hbm_apertureFault]
    exact hbyte

end CutKeys

section Reads

variable {s : State} {a p : Nat}

theorem hbm_hbmError (s : State) (pa : Nat) (corrected : Bool) : (s.hbmError pa corrected).hbm = s.hbm := by
  have hrow : ∀ (s : State) (row : Nat), (s.queueRow row).hbm = s.hbm := fun s row => by
    unfold State.queueRow
    split <;> rfl
  unfold State.hbmError
  dsimp only
  split
  · split
    · exact hrow _ _
    · rfl
  · rw [hrow]
    split <;> rfl

theorem hbm_bar4ReadLine (bad : Option Nat) (v : Bool × State) (x : Nat × List Byte) : (bar4ReadLine p bad v x).2.hbm = v.2.hbm := by
  have hcached := cached_translate v.2 p x.1 false
  unfold bar4ReadLine
  dsimp only
  split
  · next w h =>
    rw [h] at hcached
    exact hcached.hbm
  · next pa w h =>
    rw [h] at hcached
    have htouch := (hcached.trans (cached_mscTouch w pa false true)).hbm
    generalize w.mscTouch pa false = u at htouch
    cases bad with
    | none => exact htouch
    | some b =>
      dsimp only
      split <;> exact htouch

theorem hbm_bar4Read (s : State) (p off n : Nat) (bad tableBad : Option Nat) : (s.bar4Read p off n bad tableBad).hbm = s.hbm := by
  have hlines : ∀ (xs : List (Nat × List Byte)) (v : Bool × State), (xs.foldl (bar4ReadLine p bad) v).2.hbm = v.2.hbm := by
    intro xs
    induction xs with
    | nil => exact fun _ => rfl
    | cons x xs ih => exact fun v => (ih _).trans (hbm_bar4ReadLine bad v x)
  unfold State.bar4Read
  dsimp only
  split
  · next pa =>
    have hemit : ∀ (xs : List (Nat × List Byte)) (u : State),
        (xs.foldl (fun (s : State) x => s.emit (.bar4Read p x.2 true)) u).hbm = u.hbm := fun xs u =>
      foldl_keeps (g := State.hbm) xs u fun _ _ _ => rfl
    exact (hemit _ _).trans (hbm_hbmError (s.bump kApertureFaults) pa false)
  · have h := hlines (cutRows 256 (n + 1) (s.nat (kApertureBase p) + off) (List.replicate n 0)) (true, s)
    generalize List.foldl (bar4ReadLine p bad) (true, s) (cutRows 256 (n + 1) (s.nat (kApertureBase p) + off) (List.replicate n 0)) = v at h
    obtain ⟨ok, w⟩ := v
    have hbad : (match bad with | some b => w.hbmError b false | none => w).hbm = s.hbm := by
      cases bad with
      | none => exact h
      | some b => exact (hbm_hbmError w b false).trans h
    cases ok with
    | true => exact hbad
    | false => exact hbad

theorem hbm_stageWrite (s : State) (off : Nat) (l : List Byte) : (s.stageWrite off l).hbm = s.hbm := by
  unfold State.stageWrite
  dsimp only
  split
  · rfl
  · split
    · rfl
    · obtain ⟨-, -, hhbm, -⟩ := stageLand_leaves (s.setNat kStageSource 0xFF) off (l.take (stagingBytes - off))
      exact hhbm

end Reads

/-- Settles O57: a translation ends in a page that the partition owns, and every write of an access or of a cut that it ends goes
through one. -/
theorem accessesStayInside : Obligations.AccessesStayInside := by
  refine ⟨?_, ?_⟩
  · intro s u p va pa wr h
    obtain ⟨hown, hva, hpage⟩ := translate_leads h
    have hcached := cached_translate s p va wr
    rw [h] at hcached
    exact ⟨hown, hva, hpage, hcached.memoryKept, hcached.workKept, hcached.slots⟩
  · intro s fn off a req halign hown hcuts
    have hfn : outside s fn a := ⟨hown, fun _ => halign⟩
    have hall : ∀ x ∈ s.cuts, outside s x.2.tag.part a := fun x hx => ⟨(hcuts x hx).1, fun _ => (hcuts x hx).2⟩
    show ∃ t, execBar4Access fn off req s = .next t ∧ _
    unfold execBar4Access
    by_cases hup : s.fnUp fn = false
    · exact ⟨s, if_pos hup, rfl⟩
    · rw [if_neg hup]
      cases req with
      | unsupported => exact ⟨_, rfl, rfl⟩
      | read n bad tableBad =>
        dsimp only
        split
        · exact ⟨_, rfl, by rw [hbm_bar4Read]⟩
        · exact ⟨_, rfl, rfl⟩
      | write l poisoned tableBad =>
        dsimp only
        split
        · exact ⟨_, rfl, rfl⟩
        · split
          · refine ⟨_, rfl, ?_⟩
            cases tableBad with
            | none => exact byte_bar4Write hfn hall off l
            | some pa =>
              have hbad : (s.bar4Write fn off l (some pa)).hbm = s.hbm := hbm_hbmError (s.bump kApertureFaults) pa false
              rw [hbad]
          · split
            · exact ⟨_, rfl, by rw [hbm_stageWrite]⟩
            · exact ⟨_, rfl, rfl⟩

end Sys2Proof.Safety

namespace Sys2Proof.Safety

open Sys2Proof.Machine

/-! ### Exact arithmetic (O54) -/

section Rounding

theorem accAdd_bounds (wide : Bool) (acc : Int × Nat) (v : Int) :
    -(if wide then 2 ^ 47 else 2 ^ 31) ≤ (accAdd wide acc v).1 ∧ (accAdd wide acc v).1 < (if wide then 2 ^ 47 else 2 ^ 31) := by
  unfold accAdd
  cases wide
  · simp only [Bool.false_eq_true, if_false]
    split
    · dsimp only; omega
    · split <;> dsimp only <;> omega
  · simp only [if_true]
    split
    · dsimp only; omega
    · split <;> dsimp only <;> omega

/-- An addition that is not counted is exact, and no addition lowers the count (R175). -/
theorem accAdd_count (wide : Bool) (acc : Int × Nat) (v : Int) :
    acc.2 ≤ (accAdd wide acc v).2 ∧ ((accAdd wide acc v).2 = acc.2 → (accAdd wide acc v).1 = acc.1 + v) := by
  unfold accAdd
  dsimp only
  generalize (if wide = true then (2 : Int) ^ 47 else 2 ^ 31) = lim
  split
  · dsimp only; omega
  · split <;> dsimp only <;> omega

theorem roundShift_rne (m : Int) (k : Nat) : 2 * (roundShift .rne m k * 2 ^ k - m).natAbs ≤ 2 ^ k ∧
    (1 ≤ k → 2 * (roundShift .rne m k * 2 ^ k - m).natAbs = 2 ^ k → roundShift .rne m k % 2 = 0) := by
  have hpos : (0 : Int) < 2 ^ k := by positivity
  have hdiv := Int.mul_ediv_add_emod m (2 ^ k)
  have hlo := Int.emod_nonneg m hpos.ne'
  have hhi := Int.emod_lt_of_pos m hpos
  have hpow : ((2 ^ k : Nat) : Int) = 2 ^ k := by push_cast; rfl
  have hk : 1 ≤ k → (2 : Int) ^ k % 2 = 0 := fun h => by
    obtain ⟨j, rfl⟩ := Nat.exists_eq_add_of_le' h
    rw [pow_succ]
    omega
  have hnat : ∀ n : Nat, n ≤ 2 ^ k ↔ (n : Int) ≤ 2 ^ k := fun n => by rw [← hpow]; omega
  have hnat' : ∀ n : Nat, n = 2 ^ k ↔ (n : Int) = 2 ^ k := fun n => by rw [← hpow]; omega
  rw [hnat, hnat']
  unfold roundShift
  dsimp only
  generalize m / 2 ^ k = f at *
  generalize m % 2 ^ k = x at *
  generalize (2 : Int) ^ k = q at *
  have hup : (f + 1) * q - m = q - x := by rw [← hdiv]; ring
  have hdown : f * q - m = -x := by rw [← hdiv]; ring
  split
  · next hc =>
    rw [hup]
    refine ⟨by omega, fun hk1 he => ?_⟩
    have := hk hk1
    omega
  · next hc =>
    rw [hdown]
    refine ⟨by omega, fun hk1 he => ?_⟩
    have := hk hk1
    omega

theorem roundShift_sr (m : Int) (k draw : Nat) :
    (roundShift (.sr draw) m k = m / 2 ^ k ∨ roundShift (.sr draw) m k = m / 2 ^ k + 1) ∧
    (m % 2 ^ k = 0 → roundShift (.sr draw) m k = m / 2 ^ k) := by
  unfold roundShift
  dsimp only
  have hlt := Nat.mod_lt (if min k 32 = 32 then draw else Config.srBits draw (min k 32)) (Nat.two_pow_pos (min k 32))
  generalize (if min k 32 = 32 then draw else Config.srBits draw (min k 32)) % 2 ^ min k 32 = u at hlt
  split
  · next h =>
    refine ⟨.inr rfl, fun hexact => ?_⟩
    rw [hexact, Int.zero_ediv, zero_add] at h
    omega
  · exact ⟨.inl rfl, fun _ => rfl⟩

end Rounding

section Roots

/-- The integer root is built from its highest digit on. -/
theorem iroot_spec (k n : Nat) (b : Nat) : ∀ r, r ^ k ≤ n → n < (r + 2 ^ b) ^ k →
    (iroot k n b r) ^ k ≤ n ∧ n < (iroot k n b r + 1) ^ k := by
  induction b with
  | zero => exact fun r hlo hhi => ⟨hlo, hhi⟩
  | succ b ih =>
    intro r hlo hhi
    rw [iroot]
    split
    · next h => exact ih _ h (by rwa [Nat.add_assoc, ← Nat.two_mul, ← Nat.pow_succ'])
    · next h => exact ih r hlo (Nat.not_le.1 h)

/-- The linear form of a log product is the nearest one (R173). -/
theorem linearForm_nearest {k n : Nat} {p : Int} (hk : 1 ≤ k) (hp : p < 0) (hn : p + 17 * k = n) :
    (2 * linearForm k p + 1) ^ k ≥ 2 ^ n ∧ (1 ≤ linearForm k p → (2 * linearForm k p - 1) ^ k ≤ 2 ^ n) := by
  have hstart : 2 ^ n < (0 + 2 ^ 18) ^ k := by
    rw [Nat.zero_add, ← Nat.pow_mul]
    exact Nat.pow_lt_pow_right (by decide) (by omega)
  obtain ⟨hlo, hhi⟩ := iroot_spec k (2 ^ n) 18 0 (by rw [Nat.zero_pow (by omega)]; exact Nat.zero_le _) hstart
  have hform : linearForm k p = (if iroot k (2 ^ n) 18 0 % 2 = 1 ∧ iroot k (2 ^ n) 18 0 ^ k = 2 ^ n then
      (if (iroot k (2 ^ n) 18 0 / 2) % 2 = 1 then iroot k (2 ^ n) 18 0 / 2 + 1 else iroot k (2 ^ n) 18 0 / 2)
      else (iroot k (2 ^ n) 18 0 + 1) / 2) := by
    unfold linearForm
    dsimp only
    rw [hn, if_neg (by omega), Int.toNat_natCast]
  generalize iroot k (2 ^ n) 18 0 = y at *
  have hup : ∀ z, y + 1 ≤ z → 2 ^ n ≤ z ^ k := fun z hz => hhi.le.trans (Nat.pow_le_pow_left hz k)
  have hdown : ∀ z, z ≤ y → z ^ k ≤ 2 ^ n := fun z hz => (Nat.pow_le_pow_left hz k).trans hlo
  rw [hform]
  split
  · next h =>
    split
    · exact ⟨hup _ (by omega), fun _ => hdown _ (by omega)⟩
    · exact ⟨by rw [show 2 * (y / 2) + 1 = y by omega]; exact h.2.ge, fun _ => hdown _ (by omega)⟩
  · exact ⟨hup _ (by omega), fun _ => hdown _ (by omega)⟩

end Roots

section Passes

/-- A run of additions: the count does not fall, and where it has not risen the sum is exact (R175). -/
theorem accAdds_exact {α : Type} (wide : Bool) (f : α → Int) (l : List α) : ∀ acc : Int × Nat,
    acc.2 ≤ (l.foldl (fun acc x => accAdd wide acc (f x)) acc).2 ∧
    ((l.foldl (fun acc x => accAdd wide acc (f x)) acc).2 = acc.2 →
      (l.foldl (fun acc x => accAdd wide acc (f x)) acc).1 = acc.1 + (l.map f).sum) := by
  induction l with
  | nil => exact fun acc => ⟨le_refl _, fun _ => (add_zero _).symm⟩
  | cons x l ih =>
    intro acc
    obtain ⟨hrise, hexact⟩ := accAdd_count wide acc (f x)
    obtain ⟨hrise', hexact'⟩ := ih (accAdd wide acc (f x))
    refine ⟨hrise.trans hrise', fun hsame => ?_⟩
    rw [List.foldl_cons] at hsame ⊢
    rw [hexact' (by omega), hexact (by omega), List.map_cons, List.sum_cons, add_assoc]

theorem sum_countFrom (f : Nat → Int) (n : Nat) : ∀ a, ((countFrom a n).map f).sum = ∑ j ∈ Finset.range n, f (a + j) := by
  induction n with
  | zero => exact fun _ => rfl
  | succ n ih =>
    intro a
    rw [countFrom, List.map_cons, List.sum_cons, ih, Finset.sum_range_succ']
    simp only [Nat.add_assoc, Nat.add_comm 1, add_zero]
    exact add_comm _ _

/-- What bit-plane `b` of a weight contributes to each unit of a slice (R163). -/
def planeCoef (wcode w b : Nat) (x : Option Nat) : Int :=
  match x with
  | none => 0
  | some c =>
    (if wcode = 1 then (if bitOf c b then 1 else -1) else if bitOf c b then 1 else 0) * (if wcode = 0 ∧ b + 1 = w then -1 else 1)

theorem passSum_eq (wcode w b : Nat) (sl : List Int) (ws : List (Option Nat)) :
    passSum wcode w b sl ws = ((sl.zip ws).map fun x => x.1 * planeCoef wcode w b x.2).sum := by
  have hall : ∀ (l : List (Int × Option Nat)) (t : Int), (l.foldl (fun (t : Int) (x : Int × Option Nat) =>
      match x.2 with
      | none => t
      | some c =>
        if wcode = 1 then (if bitOf c b then t + x.1 else t - x.1) else if bitOf c b then t + x.1 else t) t) *
        (if wcode = 0 ∧ b + 1 = w then -1 else 1) =
      t * (if wcode = 0 ∧ b + 1 = w then -1 else 1) + (l.map fun x => x.1 * planeCoef wcode w b x.2).sum := by
    intro l
    induction l with
    | nil => exact fun t => (add_zero _).symm
    | cons x l ih =>
      intro t
      obtain ⟨v, c⟩ := x
      rw [List.foldl_cons, ih, List.map_cons, List.sum_cons, ← add_assoc]
      congr 1
      cases c with
      | none => simp [planeCoef]
      | some c =>
        simp only [planeCoef]
        split <;> split <;> ring
  have h := hall (sl.zip ws) 0
  rw [zero_mul, zero_add] at h
  rw [← h]
  unfold passSum
  dsimp only
  split
  · exact (mul_neg_one _).symm
  · exact (mul_one _).symm

theorem bit_mod (c b : Nat) : c % 2 ^ (b + 1) = c % 2 ^ b + 2 ^ b * (if bitOf c b then 1 else 0) := by
  have hbit : (if bitOf c b then 1 else 0) = c / 2 ^ b % 2 := by
    rw [bitOf, Nat.shiftRight_eq_div_pow]
    obtain h | h := Nat.mod_two_eq_zero_or_one (c / 2 ^ b) <;> simp [h]
  rw [hbit, pow_succ, Nat.mod_mul]

/-- The planes of a weight below a plane add up to its low bits. -/
theorem sum_bits (c n : Nat) : ∑ b ∈ Finset.range n, (if bitOf c b then (1 : Int) else 0) * 2 ^ b = ((c % 2 ^ n : Nat) : Int) := by
  induction n with
  | zero => simp [Nat.mod_one]
  | succ n ih =>
    rw [Finset.sum_range_succ, ih, bit_mod]
    push_cast
    cases bitOf c n <;> simp

/-- The value of a weight in its code (R163, Table 4.2). -/
def weightOf (wcode w : Nat) (x : Option Nat) : Int :=
  match x with
  | none => 0
  | some c => if wcode = 0 then sext w c else if wcode = 1 then 2 * (c : Int) - (2 ^ w - 1) else (c : Int)

/-- The planes of a two's-complement weight add up to its value (R163). -/
theorem sum_signed {w c : Nat} (hw : 1 ≤ w) (hc : c < 2 ^ w) :
    ∑ b ∈ Finset.range w, planeCoef 0 w b (some c) * 2 ^ b = weightOf 0 w (some c) := by
  obtain ⟨v, rfl⟩ := Nat.exists_eq_add_of_le' hw
  have hlow : ∀ b ∈ Finset.range v, planeCoef 0 (v + 1) b (some c) * 2 ^ b = (if bitOf c b then (1 : Int) else 0) * 2 ^ b := by
    intro b hb
    rw [Finset.mem_range] at hb
    simp [planeCoef, show b ≠ v by omega]
  have htop : planeCoef 0 (v + 1) v (some c) = -(if bitOf c v then (1 : Int) else 0) := by simp [planeCoef]
  have hsplit := bit_mod c v
  rw [Nat.mod_eq_of_lt hc] at hsplit
  have hlt := Nat.mod_lt c (Nat.two_pow_pos v)
  rw [Finset.sum_range_succ, Finset.sum_congr rfl hlow, sum_bits, htop]
  simp only [weightOf, sext, if_true, Nat.mod_eq_of_lt hc, Nat.add_sub_cancel]
  generalize c % 2 ^ v = r at *
  have hpow : ((2 ^ v : Nat) : Int) = 2 ^ v := by push_cast; rfl
  rw [pow_succ, ← hpow]
  generalize 2 ^ v = q at *
  cases hb : bitOf c v
  · simp only [hb, Bool.false_eq_true, if_false] at hsplit ⊢
    rw [if_pos (by omega)]
    simp [hsplit]
  · simp only [hb, if_true] at hsplit ⊢
    rw [if_neg (by omega)]
    push_cast [hsplit]
    ring

/-- The planes of a weight add up to its value (R163). -/
theorem sum_planes {wcode w : Nat} (hw : 1 ≤ w) (x : Option Nat) (hx : ∀ c, x = some c → c < 2 ^ w) :
    ∑ b ∈ Finset.range w, planeCoef wcode w b x * 2 ^ b = weightOf wcode w x := by
  cases x with
  | none => simp [planeCoef, weightOf]
  | some c =>
    have hc := hx c rfl
    have hbits := sum_bits c w
    rw [Nat.mod_eq_of_lt hc] at hbits
    by_cases h1 : wcode = 1
    · subst h1
      have hterm : ∀ b, planeCoef 1 w b (some c) * 2 ^ b = 2 * ((if bitOf c b then (1 : Int) else 0) * 2 ^ b) - 2 ^ b := fun b => by
        simp only [planeCoef]
        cases bitOf c b
        · simp
        · simp
          ring
      have hall : ∑ b ∈ Finset.range w, (2 : Int) ^ b = 2 ^ w - 1 := by
        have h := mul_neg_geom_sum (2 : Int) w
        linarith
      simp only [hterm, Finset.sum_sub_distrib, ← Finset.mul_sum, hbits, hall, weightOf]
      simp
    · by_cases h0 : wcode = 0
      · subst h0
        exact sum_signed hw hc
      · have hterm : ∀ b, planeCoef wcode w b (some c) = if bitOf c b then (1 : Int) else 0 := fun b => by simp [planeCoef, h0, h1]
        simp only [hterm, hbits, weightOf, h0, h1, if_false]

/-- Slice `j` of an activation (Table 4.3). -/
def sliceAt (a : Nat) (v : Int) (j : Nat) : Int :=
  if j + 1 = (a + 3) / 4 then sext (a - 4 * j) (toBits a v >>> (4 * j)) else (bitsOf (toBits a v) (4 * j + 3) (4 * j) : Int)

theorem getD_slicesOf {a j : Nat} (v : Int) (hj : j < (a + 3) / 4) : (slicesOf a v).getD j 0 = sliceAt a v j := by
  have hget : ∀ (n b : Nat) (f : Nat → Int) (i : Nat), i < n → ((countFrom b n).map f).getD i 0 = f (b + i) := by
    intro n
    induction n with
    | zero => exact fun _ _ _ h => absurd h (Nat.not_lt_zero _)
    | succ n ih =>
      intro b f i hi
      cases i with
      | zero => rfl
      | succ i =>
        rw [countFrom, List.map_cons, List.getD_cons_succ, ih _ _ _ (by omega)]
        congr 1
        omega
  rw [slicesOf, hget _ _ _ _ hj, Nat.zero_add]
  rfl

/-- The lower slices of a number add up to its low bits. -/
theorem sum_nibbles (u n : Nat) : ∑ j ∈ Finset.range n, ((bitsOf u (4 * j + 3) (4 * j) : Nat) : Int) * 2 ^ (4 * j) =
    ((u % 2 ^ (4 * n) : Nat) : Int) := by
  induction n with
  | zero => simp [Nat.mod_one]
  | succ n ih =>
    have hnibble : bitsOf u (4 * n + 3) (4 * n) = u / 2 ^ (4 * n) % 2 ^ 4 := by
      rw [bitsOf, Nat.shiftRight_eq_div_pow, show 4 * n + 3 + 1 - 4 * n = 4 by omega]
    have hmod : u % 2 ^ (4 * (n + 1)) = u % 2 ^ (4 * n) + 2 ^ (4 * n) * (u / 2 ^ (4 * n) % 2 ^ 4) := by
      rw [show 4 * (n + 1) = 4 * n + 4 by omega, pow_add, Nat.mod_mul]
    rw [Finset.sum_range_succ, ih, hnibble, hmod]
    push_cast
    ring

/-- An activation is its low bits and its signed top slice. -/
theorem joined {a n r : Nat} {v : Int} (ha : a = 4 * n + r + 1) (hlo : -(2 ^ (a - 1)) ≤ v) (hhi : v < 2 ^ (a - 1)) :
    ((toBits a v % 2 ^ (4 * n) : Nat) : Int) + sext (r + 1) (toBits a v / 2 ^ (4 * n)) * 2 ^ (4 * n) = v := by
  have hhalf : ((2 ^ (4 * n) * 2 ^ r : Nat) : Int) = 2 ^ (a - 1) := by
    rw [ha, Nat.add_sub_cancel, ← pow_add]
    push_cast
    rfl
  have hfull : ((2 ^ a : Nat) : Int) = 2 * ((2 ^ (4 * n) * 2 ^ r : Nat) : Int) := by
    rw [ha, pow_succ, pow_add]
    push_cast
    ring
  have hP := Nat.two_pow_pos (4 * n)
  have hdiv := Nat.div_add_mod (toBits a v) (2 ^ (4 * n))
  have hmod := Nat.mod_lt (toBits a v) hP
  have hu : (toBits a v : Int) = if 0 ≤ v then v else v + 2 * ((2 ^ (4 * n) * 2 ^ r : Nat) : Int) := by
    rw [toBits, Int.toNat_of_nonneg (Int.emod_nonneg _ (by positivity)), hfull]
    split
    · exact Int.emod_eq_of_lt ‹_› (by omega)
    · rw [← Int.add_emod_right, Int.emod_eq_of_lt (by omega) (by omega)]
  rw [← hhalf] at hlo hhi
  have hcast : ((2 ^ (4 * n) : Nat) : Int) = 2 ^ (4 * n) := by push_cast; rfl
  rw [sext, ← hcast, pow_succ, Nat.add_sub_cancel]
  generalize toBits a v / 2 ^ (4 * n) = q at *
  generalize toBits a v % 2 ^ (4 * n) = m at *
  generalize 2 ^ (4 * n) = P at *
  generalize 2 ^ r = R at *
  have hq : ((toBits a v : Nat) : Int) = (P : Int) * q + m := by rw [← hdiv]; push_cast; rfl
  have hwrap : q < 2 * R := by
    by_contra hge
    have hle : P * (2 * R) ≤ P * q := Nat.mul_le_mul_left P (Nat.not_lt.1 hge)
    have hcomm : P * (2 * R) = 2 * (P * R) := by ring
    split at hu <;> omega
  rw [Nat.mul_comm R 2, Nat.mod_eq_of_lt hwrap]
  by_cases hv : 0 ≤ v
  · rw [if_pos hv] at hu
    have hlt : q < R := by
      by_contra hge
      have hle : P * R ≤ P * q := Nat.mul_le_mul_left P (Nat.not_lt.1 hge)
      omega
    rw [if_pos hlt, ← hu, hq]
    ring
  · rw [if_neg hv] at hu
    have hge : ¬ q < R := by
      intro hlt
      have hle : P * (q + 1) ≤ P * R := Nat.mul_le_mul_left P hlt
      rw [Nat.mul_succ] at hle
      omega
    rw [if_neg hge]
    have hv' : v = (P : Int) * q + m - 2 * ((P * R : Nat) : Int) := by rw [← hq, hu]; ring
    rw [hv']
    push_cast
    ring

/-- The slices of an activation add up to it (Table 4.3). -/
theorem sum_slices {a : Nat} {v : Int} (ha : 1 ≤ a) (hlo : -(2 ^ (a - 1)) ≤ v) (hhi : v < 2 ^ (a - 1)) :
    ∑ j ∈ Finset.range ((a + 3) / 4), sliceAt a v j * 2 ^ (4 * j) = v := by
  obtain ⟨n, r, hn, har⟩ : ∃ n r, (a + 3) / 4 = n + 1 ∧ a = 4 * n + r + 1 := ⟨(a + 3) / 4 - 1, a - 1 - 4 * ((a + 3) / 4 - 1), by omega, by omega⟩
  have hlower : ∀ j ∈ Finset.range n, sliceAt a v j * 2 ^ (4 * j) = ((bitsOf (toBits a v) (4 * j + 3) (4 * j) : Nat) : Int) * 2 ^ (4 * j) := by
    intro j hj
    rw [Finset.mem_range] at hj
    rw [sliceAt, if_neg (by omega)]
  have htop : sliceAt a v n = sext (r + 1) (toBits a v / 2 ^ (4 * n)) := by
    rw [sliceAt, if_pos hn.symm, Nat.shiftRight_eq_div_pow, show a - 4 * n = r + 1 by omega]
  rw [hn, Finset.sum_range_succ, Finset.sum_congr rfl hlower, sum_nibbles, htop]
  exact joined har hlo hhi

/-- All passes of one product add up to it. -/
theorem sum_product {wcode w a : Nat} (hw : 1 ≤ w) (ha : 1 ≤ a) {v : Int} (hlo : -(2 ^ (a - 1)) ≤ v) (hhi : v < 2 ^ (a - 1)) {x : Option Nat}
    (hx : ∀ c, x = some c → c < 2 ^ w) :
    ∑ j ∈ Finset.range ((a + 3) / 4), ∑ b ∈ Finset.range w, (slicesOf a v).getD j 0 * planeCoef wcode w b x * 2 ^ (b + 4 * j) =
      v * weightOf wcode w x := by
  have hprod := Finset.sum_mul_sum (Finset.range ((a + 3) / 4)) (Finset.range w) (fun j => sliceAt a v j * 2 ^ (4 * j))
    fun b => planeCoef wcode w b x * 2 ^ b
  rw [sum_slices ha hlo hhi, sum_planes hw x hx] at hprod
  rw [hprod]
  refine Finset.sum_congr rfl fun j hj => Finset.sum_congr rfl fun b _ => ?_
  rw [getD_slicesOf v (Finset.mem_range.1 hj), pow_add]
  ring

/-- All passes of a step add up to the dot product (R163, R164). -/
theorem sum_passes {wcode w a : Nat} (hw : 1 ≤ w) (ha : 1 ≤ a) (l : List (Int × Option Nat))
    (hl : ∀ x ∈ l, (-(2 ^ (a - 1)) ≤ x.1 ∧ x.1 < 2 ^ (a - 1)) ∧ ∀ c, x.2 = some c → c < 2 ^ w) :
    ∑ j ∈ Finset.range ((a + 3) / 4), ∑ b ∈ Finset.range w,
      (l.map fun x => (slicesOf a x.1).getD j 0 * planeCoef wcode w b x.2).sum * 2 ^ (b + 4 * j) =
    (l.map fun x => x.1 * weightOf wcode w x.2).sum := by
  induction l with
  | nil => simp
  | cons x l ih =>
    obtain ⟨⟨hlo, hhi⟩, hx⟩ := hl x (List.mem_cons_self ..)
    simp only [List.map_cons, List.sum_cons, add_mul, Finset.sum_add_distrib]
    rw [sum_product hw ha hlo hhi hx, ih fun y hy => hl y (List.mem_cons_of_mem _ hy)]

theorem sum_flatMap {α β : Type} (f : β → Int) (g : α → List β) (l : List α) :
    ((l.flatMap g).map f).sum = (l.map fun x => ((g x).map f).sum).sum := by
  induction l with
  | nil => rfl
  | cons x l ih => rw [List.flatMap_cons, List.map_append, List.sum_append, List.map_cons, List.sum_cons, ih]

/-- The passes of a step: slices ascending, planes ascending within each (R164). -/
def passesOf (w a : Nat) : List (Nat × Nat) := (countFrom 0 ((a + 3) / 4)).flatMap fun j => (countFrom 0 w).map fun b => (j, b)

theorem length_passesOf (w a : Nat) : (passesOf w a).length = (a + 3) / 4 * w := by
  simp [passesOf, List.length_flatMap, length_countFrom, List.map_const']

/-- What one pass adds. -/
def passValue (wcode w a : Nat) (acts : List Int) (ws : List (Option Nat)) (x : Nat × Nat) : Int :=
  passSum wcode w x.2 ((acts.map (slicesOf a)).map fun l => l.getD x.1 0) ws * 2 ^ (x.2 + 4 * x.1)

theorem tpStep_eq (wide : Bool) (wcode w a m : Nat) (acts : List Int) (ws : List (Option Nat)) (acc : Int × Nat) :
    tpStep wide wcode w a m acts ws acc =
      ((passesOf w a).take m).foldl (fun acc x => accAdd wide acc (passValue wcode w a acts ws x)) acc := rfl

theorem sum_passValues {wcode w a : Nat} (hw : 1 ≤ w) (ha : 1 ≤ a) {acts : List Int} {ws : List (Option Nat)}
    (hacts : ∀ v ∈ acts, -(2 ^ (a - 1)) ≤ v ∧ v < 2 ^ (a - 1)) (hws : ∀ c, some c ∈ ws → c < 2 ^ w) :
    ((passesOf w a).map (passValue wcode w a acts ws)).sum = ((acts.zip ws).map fun x => x.1 * weightOf wcode w x.2).sum := by
  have hvalue : ∀ j b, passValue wcode w a acts ws (j, b) =
      ((acts.zip ws).map fun x => (slicesOf a x.1).getD j 0 * planeCoef wcode w b x.2).sum * 2 ^ (b + 4 * j) := by
    intro j b
    rw [passValue, passSum_eq, List.map_map, List.zip_map_left, List.map_map]
    rfl
  rw [passesOf, sum_flatMap, sum_countFrom]
  simp only [List.map_map, Function.comp_def, sum_countFrom, Nat.zero_add, hvalue]
  exact sum_passes hw ha _ fun x hx => ⟨hacts _ (List.of_mem_zip hx).1, fun c hc => hws c (hc ▸ (List.of_mem_zip hx).2)⟩

end Passes

/-- Settles O54: the passes of a step add up to the dot product, and every rounding is one of the neighbours. -/
theorem exactArithmetic : Obligations.ExactArithmetic := by
  refine ⟨?_, ?_, roundShift_rne, roundShift_sr, fun _ _ _ hk hp hn => linearForm_nearest hk hp hn⟩
  · intro wide w a m acts ws acc hw ha hacts hws
    refine ⟨fun wcode hm hsame => ?_, fun wcode => ?_⟩
    · have hall : (passesOf w a).take m = passesOf w a := List.take_of_length_le (by rw [length_passesOf]; exact hm)
      rw [tpStep_eq, hall] at hsame ⊢
      rw [(accAdds_exact wide (passValue wcode w a acts ws) (passesOf w a) acc).2 hsame, sum_passValues hw ha hacts hws]
      refine congrArg (acc.1 + List.sum ·) (List.map_congr_left fun x _ => ?_)
      obtain ⟨v, c⟩ := x
      cases c with
      | none => exact mul_zero v
      | some c => rfl
    · exact (accAdds_exact wide (passValue wcode w a acts ws) _ acc).1
  · intro acc v
    obtain ⟨hlo, hhi⟩ := accAdd_bounds false acc v
    obtain ⟨hlo', hhi'⟩ := accAdd_bounds true acc v
    exact ⟨hlo, hhi, hlo', hhi', (accAdd_count false acc v).2, (accAdd_count true acc v).2⟩

end Sys2Proof.Safety

namespace Sys2Proof.Safety

open Sys2Proof.Machine

/-! ### Page pools (O17) -/

section Pools

variable {s t u : State} {who : Requester} {p id st : Nat} {v : Word} {d : Desc}

/-- The effect of a write of a pool's KV_POOL_BASE or KV_POOL_UNITS (R345). -/
def writePool (p k : Nat) (v : Word) (s : State) (_ : EntLoc) : Except Reason State :=
  orRefuse (!((s.setReg k v).kvPow2 p) || (s.setReg k v).nat (kKvPoolUnits p) % 64 == 0) .state ((s.emptyPool p).setReg k v)

theorem exec_kvPoolConfigWrite_base (s : State) (who : Requester) (p : Nat) (v : Word) :
    exec (.kvPoolConfigWrite who p 1 v) s =
      .next (s.slotWrite who .kvPoolBase (kKvPoolBase p) v (writePool p (kKvPoolBase p) v)) := by
  have hk : kKvPoolBase p - 1 + 1 = kKvPoolBase p := by unfold kKvPoolBase; omega
  show execKvPoolConfigWrite who p 1 v s = _
  simp only [execKvPoolConfigWrite, hk]
  rfl

theorem exec_kvPoolConfigWrite_units (s : State) (who : Requester) (p : Nat) (v : Word) :
    exec (.kvPoolConfigWrite who p 2 v) s =
      .next (s.slotWrite who .kvPoolUnits (kKvPoolUnits p) v (writePool p (kKvPoolUnits p) v)) := by
  have hk : kKvPoolBase p - 1 + 2 = kKvPoolUnits p := by unfold kKvPoolBase kKvPoolUnits; omega
  show execKvPoolConfigWrite who p 2 v s = _
  simp only [execKvPoolConfigWrite, hk]
  rfl

/-- A pool that has given out no frame starts emptying and changes nothing else. -/
theorem emptyPool_noFrames (h : s.frames p = []) : s.emptyPool p = s.setPool p { emptying := true } := by
  rw [State.emptyPool, h]
  rfl

theorem kKvGeom_ne_units (p : Nat) : kKvGeom p ≠ kKvPoolUnits p := by unfold kKvGeom kKvPoolUnits; omega

/-- The units that a write would give a pool whose pages have sizes of their own are refused where they are no multiple of 64. -/
theorem writePool_units (hpow : s.kvPow2 p = true) (hv : v.toNat % 64 ≠ 0) (l : EntLoc) :
    writePool p (kKvPoolUnits p) v s l = .error .state := by
  have hgeom : (s.setReg (kKvPoolUnits p) v).kvPow2 p = true := by
    rw [State.kvPow2, bit_of_reg _ (State.reg_setReg_other s v (kKvGeom_ne_units p))]
    exact hpow
  have hunits : (s.setReg (kKvPoolUnits p) v).nat (kKvPoolUnits p) = v.toNat := congrArg _ (State.reg_setReg_same ..)
  refine if_neg ?_
  simp [hgeom, hunits, hv]

/-! ### Page export -/

/-- The descriptors in flight, the jobs and the number of the next job are as before. -/
structure JobsStand (s t : State) : Prop where
  inflight : t.inflight = s.inflight
  jobs : t.jobs = s.jobs
  nextId : t.nextId = s.nextId

theorem JobsStand.refl (s : State) : JobsStand s s := ⟨rfl, rfl, rfl⟩

theorem JobsStand.trans (h : JobsStand s t) (h' : JobsStand t u) : JobsStand s u :=
  ⟨h'.inflight.trans h.inflight, h'.jobs.trans h.jobs, h'.nextId.trans h.nextId⟩

theorem JobsStand.foldl {α : Type} {f : State → α → State} (hf : ∀ s x, JobsStand s (f s x)) (l : List α) :
    ∀ s, JobsStand s (l.foldl f s) := by
  induction l with
  | nil => exact .refl
  | cons x l ih => exact fun s => (hf s x).trans (ih (f s x))

theorem HbmWrote.jobsStand (h : HbmWrote s t) : JobsStand s t := by
  have hinflight : t.inflight = s.inflight := h.field State.inflight
  have hjobs : t.jobs = s.jobs := h.field State.jobs
  have hnext : t.nextId = s.nextId := h.field State.nextId
  exact ⟨hinflight, hjobs, hnext⟩

theorem jobsStand_setEntry (s : State) (p table j e : Nat) : JobsStand s (s.setEntry p table j e) :=
  (hbmWrote_vaWrite s p (entryVa table j) (leBytes 16 e) false).jobsStand.trans ⟨rfl, rfl, rfl⟩

theorem jobsStand_modFrame (s : State) (p unit : Nat) (f : KvFrame → KvFrame) : JobsStand s (s.modFrame p unit f) :=
  ⟨rfl, rfl, rfl⟩

theorem jobsStand_setStream (s : State) (st : Nat) (v : StreamSt) : JobsStand s (s.setStream st v) := ⟨rfl, rfl, rfl⟩

theorem jobsStand_queuePage (s : State) (p st : Nat) (f : KvFrame) (job : Option Nat) : JobsStand s (s.queuePage p st f job) := by
  unfold State.queuePage
  exact ((jobsStand_setEntry ..).trans (jobsStand_modFrame ..)).trans (jobsStand_setStream ..)

/-- The pages that a PAGE_EXPORT found are queued on its stream. -/
def queuePages (s : State) (p st : Nat) (pages : List (Nat × Nat)) (job : Nat) : State :=
  pages.foldl (fun (s : State) x =>
    match (s.frames p).find? fun f => f.unit == x.2 with
    | some f => s.queuePage p st f (some job)
    | none => s) s

theorem jobsStand_queuePages (s : State) (p st : Nat) (pages : List (Nat × Nat)) (job : Nat) :
    JobsStand s (queuePages s p st pages job) := by
  refine .foldl (fun s x => ?_) pages s
  split
  · exact jobsStand_queuePage ..
  · exact .refl s

theorem cached_mscReads (s : State) (p va n : Nat) (alloc : Bool) : Cached s (s.mscReads p va n alloc) := by
  refine .foldl (fun s x => ?_) _ s
  split
  · exact cached_mscTouch ..
  · exact .refl s

/-- The state once the walk of a PAGE_EXPORT has read its lines. -/
def seekRead (s : State) (d : Desc) (w : ElemWalk) : State :=
  (s.walkLines d.part (d.at 16 4) w).foldl (fun (s : State) x => s.mscReads d.part x.1 x.2) s

theorem cached_seekRead (s : State) (d : Desc) (w : ElemWalk) : Cached s (seekRead s d w) :=
  .foldl (fun _ _ => cached_mscReads ..) _ s

/-- The job of a PAGE_EXPORT as it starts. -/
def exportJob (d : Desc) (id n skipped : Nat) : Job := ⟨id, .pageExport, jobTag d 26, d.at 24 1, n, 0, skipped⟩

/-- A state with one job more. -/
def withJob (s : State) (j : Job) : State := { s with jobs := s.jobs ++ [j], nextId := s.nextId + 1 }

theorem replaceFirst_append {α : Type} {q : α → Bool} {f : α → α} {l : List α} {a : α} (h : ∀ x ∈ l, q x = false)
    (ha : q a = true) : replaceFirst q f (l ++ [a]) = l ++ [f a] := by
  induction l with
  | nil => simp [replaceFirst, ha]
  | cons x l ih =>
    have hx := h x (List.mem_cons_self ..)
    simp [replaceFirst, hx, ih fun y hy => h y (List.mem_cons_of_mem _ hy)]

theorem job?_withJob {j : Job} (hnew : ∀ x ∈ s.jobs, x.id ≠ j.id) : (withJob s j).job? j.id = some j := by
  have hnone : s.jobs.find? (fun x => x.id == j.id) = none := List.find?_eq_none.2 fun x hx => by simpa using hnew x hx
  simp [State.job?, withJob, hnone]

/-- A new job with its skipped pages is at the end of the list. -/
theorem modJob_addJob (hnew : ∀ x ∈ s.jobs, x.id ≠ s.nextId) (d : Desc) (n skipped : Nat) :
    (s.addJob .pageExport (jobTag d 26) (d.at 24 1) n).modJob s.nextId (fun j => { j with detail := skipped }) =
      withJob s (exportJob d s.nextId n skipped) := by
  have hlist : replaceFirst (fun j : Job => j.id == s.nextId) (fun j => { j with detail := skipped })
      (s.jobs ++ [⟨s.nextId, .pageExport, jobTag d 26, d.at 24 1, n, 0, 0⟩]) =
      s.jobs ++ [exportJob d s.nextId n skipped] :=
    replaceFirst_append (fun x hx => by simpa using hnew x hx) (by simp)
  rw [State.modJob, State.addJob, hlist]
  rfl

theorem desc?_of_inflight (h : t.inflight = s.inflight) (id : Nat) : t.desc? id = s.desc? id := congrArg _ h

theorem job?_of_jobs (h : t.jobs = s.jobs) (id : Nat) : t.job? id = s.job? id := congrArg _ h

/-- The state and the descriptor that PAGE_EXPORT leaves once its pages are queued (R349, R368). -/
def exportQueued (u : State) (d : Desc) (w : ElemWalk) : State :=
  queuePages (withJob u (exportJob d u.nextId w.pages.length (d.at 22 2 - w.pages.length))) d.part (d.at 24 1) w.pages u.nextId

theorem jobsStand_exportQueued (u : State) (d : Desc) (w : ElemWalk) : JobsStand
    (withJob u (exportJob d u.nextId w.pages.length (d.at 22 2 - w.pages.length))) (exportQueued u d w) := jobsStand_queuePages ..

theorem job?_exportQueued {u : State} (hnew : ∀ x ∈ u.jobs, x.id ≠ u.nextId) (d : Desc) (w : ElemWalk) :
    (exportQueued u d w).job? u.nextId = some (exportJob d u.nextId w.pages.length (d.at 22 2 - w.pages.length)) :=
  (job?_of_jobs (jobsStand_exportQueued u d w).jobs _).trans
    (job?_withJob (j := exportJob d u.nextId w.pages.length (d.at 22 2 - w.pages.length)) hnew)

/-- A PAGE_EXPORT whose element walks well, with pages, queues them and ends with OK. -/
theorem exec_pageExport_ok {w : ElemWalk} {u : State} (h : offCore s id 0x32 d) (hcheck : s.streamCheck d.part (d.at 24 1) = none)
    (hw : s.walkElem d.part (d.at 16 4) (d.at 20 2) (d.at 20 2 + d.at 22 2) .seek = w) (hfail : w.fail = none)
    (hu : seekRead s d w = u) (hunits : u.nat (kKvPoolUnits d.part) ≠ 0) (hjobs : u.pageJobs + w.pages.length ≤ 8192)
    (hpages : w.pages ≠ []) (hnew : ∀ x ∈ u.jobs, x.id ≠ u.nextId) :
    exec (.pageExport id) s = .next ((exportQueued u d w).endAtCommit id stOk) := by
  have hleft : (exportJob d u.nextId w.pages.length (d.at 22 2 - w.pages.length)).left ≠ 0 := by
    simpa [exportJob] using hpages
  have hjob : ((exportQueued u d w).endAtCommit id stOk).job? u.nextId =
      some (exportJob d u.nextId w.pages.length (d.at 22 2 - w.pages.length)) := job?_exportQueued hnew d w
  show (Host.Outcome.next (s.runOff id [0x32] _) : Host.Outcome State Fault Refusal) = _
  rw [runOff_of_offCore h]
  refine congrArg Host.Outcome.next ?_
  have hread : (s.walkLines d.part (d.at 16 4) w).foldl (fun (s : State) x => s.mscReads d.part x.1 x.2) s = u := hu
  dsimp only
  rw [hcheck]
  dsimp only
  rw [hw, hread, hfail]
  dsimp only
  rw [if_neg hunits, if_neg (Nat.not_lt.2 hjobs), modJob_addJob hnew]
  change (match ((exportQueued u d w).endAtCommit id stOk).job? u.nextId with
    | some j => if j.left = 0 then ((exportQueued u d w).endAtCommit id stOk).endJob j 0 0 else _
    | none => _) = _
  rw [hjob]
  exact if_neg hleft

/-- A descriptor that has not ended ends in its commit frame. -/
theorem desc?_endAtCommit (h : s.desc? id = some d) (hended : d.ended = false) (st : Nat) :
    ((s.endAtCommit id st).desc? id).map (fun e => (e.ended, e.status)) = some (true, st) := by
  rw [State.endAtCommit, desc?_modDesc h (by simp [hended])]
  simp [hended]

end Pools

/-- Settles O17: a pool that has given out no frame starts emptying, an emptied one is free, and the pages of an element are
queued on their stream. -/
theorem pagePools : Obligations.PagePools := by
  refine ⟨?_, ?_, ?_, ?_, ?_, ?_, ?_, ?_, ?_, ?_⟩
  · intro s who p v h hframes hgeom
    rw [exec_kvPoolConfigWrite_base]
    refine next_applied h fun l => ?_
    have hok : (!((s.setReg (kKvPoolBase p) v).kvPow2 p) || (s.setReg (kKvPoolBase p) v).nat (kKvPoolUnits p) % 64 == 0) = true := by
      simpa using hgeom
    rw [writePool, hok, emptyPool_noFrames hframes]
    rfl
  · intro s who p v h hpow hv
    rw [exec_kvPoolConfigWrite_units]
    exact next_refused h fun l => writePool_units hpow hv l
  · intro s p h
    exact ⟨_, rfl, congrArg Host.Outcome.next (if_pos h)⟩
  · intro s p h
    exact congrArg Host.Outcome.next (if_neg (by simp [h]))
  · intro s who p v h hroom
    exact next_applied h fun l => if_pos (by simpa using hroom)
  · intro s who p v h hfull
    exact next_refused h fun l => if_neg (by simpa using hfull)
  · intro s id d h hwalked
    refine congrArg Host.Outcome.next ((runOff_of_offCore h _).trans ?_)
    rw [if_pos hwalked, id_of_desc? h.1]
    rfl
  · intro s id d h hwalked
    exact congrArg Host.Outcome.next ((runOff_of_offCore h _).trans (if_neg (by simp [hwalked])))
  · intro s id d w h hcheck hunits hw hfail hjobs hpages hnew
    have hread := cached_seekRead s d w
    obtain ⟨u, hu⟩ : ∃ u, seekRead s d w = u := ⟨_, rfl⟩
    rw [hu] at hread
    have hstreams : u.streams = s.streams := hread.field State.streams
    have hinflight : u.inflight = s.inflight := hread.field State.inflight
    have hjobsKept : u.jobs = s.jobs := hread.field State.jobs
    have hnext : u.nextId = s.nextId := hread.field State.nextId
    have hnewU : ∀ x ∈ u.jobs, x.id ≠ u.nextId := by rwa [hjobsKept, hnext]
    have hstand := jobsStand_exportQueued u d w
    have hexec := exec_pageExport_ok h hcheck hw.symm hfail hu
      (by rwa [hread.nat (by unfold kKvPoolUnits kMscHits kMscMisses; simp; omega)])
      (by rwa [State.pageJobs, hstreams]) hpages hnewU
    have hdesc : (exportQueued u d w).desc? id = some d :=
      ((desc?_of_inflight hstand.inflight id).trans (desc?_of_inflight hinflight id)).trans h.1
    refine ⟨_, hexec, desc?_endAtCommit hdesc h.2.1 _, ?_, ?_⟩
    · have hjob : ((exportQueued u d w).endAtCommit id stOk).job? u.nextId = _ := job?_exportQueued hnewU d w
      rw [← hnext, hjob]
      rfl
    · have hid : ((exportQueued u d w).endAtCommit id stOk).nextId = u.nextId + 1 := hstand.nextId
      rw [hid, hnext]
  · intro s id st d h hcheck
    refine congrArg Host.Outcome.next ((runOff_of_offCore h _).trans ?_)
    dsimp only
    rw [hcheck]

end Sys2Proof.Safety

namespace Sys2Proof.Safety

open Sys2Proof.Machine

/-! ### Streams, windows and regions (O18) -/

section StreamState

variable {s t u : State} {p st w i : Nat} {v : Word}

/-- The epoch of every stream reads as before. -/
structure EpochsKept (s t : State) : Prop where
  reg : ∀ st, st < 256 → t.reg (kStreamEpoch st) = s.reg (kStreamEpoch st)

theorem EpochsKept.refl (s : State) : EpochsKept s s := ⟨fun _ _ => rfl⟩

theorem EpochsKept.trans (h : EpochsKept s t) (h' : EpochsKept t u) : EpochsKept s u :=
  ⟨fun st hst => (h'.reg st hst).trans (h.reg st hst)⟩

theorem EpochsKept.ite {c : Prop} [Decidable c] (h : EpochsKept s t) (h' : EpochsKept s u) :
    EpochsKept s (if c then t else u) := by
  split
  · exact h
  · exact h'

theorem EpochsKept.foldl {α : Type} {f : State → α → State} (hf : ∀ s x, EpochsKept s (f s x)) (l : List α) :
    ∀ s, EpochsKept s (l.foldl f s) := by
  induction l with
  | nil => exact .refl
  | cons x l ih => exact fun s => (hf s x).trans (ih (f s x))

theorem epochsKept_of_regs (h : t.regs = s.regs) : EpochsKept s t := ⟨fun _ _ => State.reg_of_regs h _⟩

theorem epochsKept_setNat (s : State) {k : Nat} (hk : ∀ st, st < 256 → kStreamEpoch st ≠ k) (n : Nat) :
    EpochsKept s (s.setNat k n) := ⟨fun st hst => State.reg_setNat_other _ _ (hk st hst)⟩

theorem HbmWrote.epochsKept (h : HbmWrote s t) : EpochsKept s t :=
  ⟨fun st hst => h.slots _ (by unfold kStreamEpoch; omega) (by unfold kStreamEpoch kMscHits kMscMisses; simp; omega)⟩

theorem epochsKept_setEntry (s : State) (p table j e : Nat) : EpochsKept s (s.setEntry p table j e) :=
  (hbmWrote_vaWrite s p (entryVa table j) (leBytes 16 e) false).epochsKept.trans (epochsKept_of_regs rfl)

theorem epochsKept_setPool (s : State) (p : Nat) (v : KvSt) : EpochsKept s (s.setPool p v) := epochsKept_of_regs rfl

theorem epochsKept_modFrame (s : State) (p unit : Nat) (f : KvFrame → KvFrame) : EpochsKept s (s.modFrame p unit f) :=
  epochsKept_of_regs rfl

theorem kStreamEpoch_ne_unitsFree (st p : Nat) : kStreamEpoch st ≠ kUnitsFree p := by unfold kStreamEpoch kUnitsFree; omega

theorem epochsKept_sweepFrames (s : State) (p : Nat) : EpochsKept s (s.sweepFrames p) :=
  .foldl (fun s _ => (epochsKept_setPool s p _).trans (epochsKept_setNat _ (fun st _ => kStreamEpoch_ne_unitsFree st p) _)) _ s

theorem epochsKept_pageAbandoned (s : State) (j : PageJob) : EpochsKept s (s.pageAbandoned j) := by
  unfold State.pageAbandoned
  split
  · exact .refl s
  · dsimp only
    split
    · exact ((epochsKept_modFrame ..).trans (.ite (epochsKept_setEntry ..) (.refl _))).trans (epochsKept_modFrame ..)
    · exact (epochsKept_modFrame ..).trans (epochsKept_sweepFrames ..)

theorem epochsKept_endJob (s : State) (j : Job) (status cause : Nat) : EpochsKept s (s.endJob j status cause) := by
  have hdrop : EpochsKept s (s.dropJob j.id) := epochsKept_of_regs rfl
  unfold State.endJob
  dsimp only
  split
  · exact hdrop.trans (hbmWrote_jobEvent ..).epochsKept
  · exact hdrop.trans (hbmWrote_jobEvent ..).epochsKept

theorem epochsKept_abandonStream (s : State) (st status cause : Nat) : EpochsKept s (s.abandonStream st status cause) := by
  unfold State.abandonStream
  dsimp only
  refine EpochsKept.trans ?_ (.ite (hbmWrote_abandonCut ..).epochsKept (.refl _))
  refine EpochsKept.trans ?_ (.foldl (fun _ _ => epochsKept_endJob ..) _ _)
  exact (hbmWrote_setStream ..).epochsKept.trans (.foldl (fun _ _ => epochsKept_pageAbandoned ..) _ _)

theorem epochsKept_dropCells (s : State) (st : Nat) : EpochsKept s (s.dropCells st) := by
  unfold State.dropCells
  exact .ite (.ite (epochsKept_of_regs rfl) (.refl s)) (.refl s)

theorem epochsKept_qpDown (s : State) (st : Nat) : EpochsKept s (s.qpDown st) := by
  unfold State.qpDown
  split
  · next h =>
    refine EpochsKept.trans (epochsKept_setNat s (fun n _ => ?_) 0) (epochsKept_of_regs rfl)
    unfold kStreamEpoch kQpState
    omega
  · exact .refl s

/-- A stream that goes down keeps its epoch (R363). -/
theorem epochsKept_streamGoDown (s : State) (st : Nat) : EpochsKept s (s.streamGoDown st) := by
  unfold State.streamGoDown
  refine .ite (.refl s) ?_
  refine (EpochsKept.trans ?_ (epochsKept_dropCells ..)).trans (epochsKept_qpDown ..)
  refine (epochsKept_setNat s (fun n _ => ?_) 0).trans (epochsKept_abandonStream ..)
  unfold kStreamEpoch kStreamCtrl
  omega

/-- The slots and streams that a queue pair's start leaves: all but its own state. -/
theorem qpUp_leaves (s : State) (st : Nat) : (s.qpUp st).streams = s.streams ∧
    ∀ k, 0x620000 ≤ k → (s.qpUp st).nat k = s.nat k := by
  unfold State.qpUp
  split
  · next h =>
    refine ⟨rfl, fun k hk => nat_of_reg (State.reg_setNat_other _ _ ?_)⟩
    unfold kQpState
    omega
  · exact ⟨rfl, fun _ _ => rfl⟩

theorem stream_congr (h : t.streams = s.streams) (st : Nat) : t.stream st = s.stream st := by simp only [State.stream, h]

theorem stream_setStream_same (s : State) (st : Nat) (v : StreamSt) : (s.setStream st v).stream st = v :=
  Tbl.get_set_same ..

/-- A stream that starts its counts from 0 at its next epoch, before its queue pair starts (R347). -/
def recounted (s : State) (st : Nat) : State :=
  (((((s.setStream st {}).setNat (kStreamCtrl st) 1).wrapAdd (kStreamEpoch st) 1 16).setNat (kNextSeqno st) 0).setNat
    (kAckSeqno st) 0).setNat (kAckBytes st) 0

theorem newEpoch_eq (s : State) (st : Nat) : s.newEpoch st = (recounted s st).qpUp st := rfl

theorem recounted_leaves (s : State) (st : Nat) : (recounted s st).nat (kStreamCtrl st) = 1 ∧
    (recounted s st).nat (kStreamEpoch st) = (s.nat (kStreamEpoch st) + 1) % 2 ^ 16 ∧ (recounted s st).nat (kNextSeqno st) = 0 ∧
    (recounted s st).nat (kAckSeqno st) = 0 ∧ (recounted s st).nat (kAckBytes st) = 0 := by
  have hbound : ∀ n, n % 2 ^ 16 < 2 ^ 64 := fun n => by omega
  have hstream : ∀ k, (s.setStream st {}).nat k = s.nat k := fun _ => rfl
  have hctrl : kStreamCtrl st ≠ kStreamEpoch st ∧ kStreamCtrl st ≠ kNextSeqno st ∧ kStreamCtrl st ≠ kAckSeqno st ∧
      kStreamCtrl st ≠ kAckBytes st := by
    unfold kStreamCtrl kStreamEpoch kNextSeqno kAckSeqno kAckBytes
    omega
  have hep : kStreamEpoch st ≠ kStreamCtrl st ∧ kStreamEpoch st ≠ kNextSeqno st ∧ kStreamEpoch st ≠ kAckSeqno st ∧
      kStreamEpoch st ≠ kAckBytes st := by
    unfold kStreamCtrl kStreamEpoch kNextSeqno kAckSeqno kAckBytes
    omega
  have hseq : kNextSeqno st ≠ kAckSeqno st ∧ kNextSeqno st ≠ kAckBytes st ∧ kAckSeqno st ≠ kAckBytes st := by
    unfold kNextSeqno kAckSeqno kAckBytes
    omega
  have hself : (0 : Nat) < 2 ^ 64 := by decide
  unfold recounted State.wrapAdd
  refine ⟨?_, ?_, ?_, ?_, State.nat_setNat_same _ hself⟩
  · simp [State.nat_setNat_other, State.nat_setNat_same, hctrl]
  · obtain ⟨hc, hn, ha, hb⟩ := hep
    rw [State.nat_setNat_other _ _ hb, State.nat_setNat_other _ _ ha, State.nat_setNat_other _ _ hn,
      State.nat_setNat_same _ (hbound _), State.nat_setNat_other _ _ hc, hstream]
  · simp [State.nat_setNat_other, State.nat_setNat_same, hseq]
  · simp [State.nat_setNat_other, State.nat_setNat_same, hseq]

/-- A new epoch starts the counts of its stream from 0 (R347). -/
theorem newEpoch_leaves (s : State) (st : Nat) : (s.newEpoch st).nat (kStreamCtrl st) = 1 ∧
    (s.newEpoch st).nat (kStreamEpoch st) = (s.nat (kStreamEpoch st) + 1) % 2 ^ 16 ∧ (s.newEpoch st).nat (kNextSeqno st) = 0 ∧
    (s.newEpoch st).nat (kAckSeqno st) = 0 ∧ (s.newEpoch st).nat (kAckBytes st) = 0 ∧ (s.newEpoch st).stream st = {} := by
  obtain ⟨hstreams, hslots⟩ := qpUp_leaves (recounted s st) st
  obtain ⟨hctrl, hepoch, hnext, hseq, hbytes⟩ := recounted_leaves s st
  have hstream : (s.newEpoch st).stream st = (s.setStream st {}).stream st := stream_congr hstreams st
  rw [newEpoch_eq] at hstream ⊢
  refine ⟨?_, ?_, ?_, ?_, ?_, hstream.trans (stream_setStream_same ..)⟩
  · rw [hslots _ (by unfold kStreamCtrl; omega), hctrl]
  · rw [hslots _ (by unfold kStreamEpoch; omega), hepoch]
  · rw [hslots _ (by unfold kNextSeqno; omega), hnext]
  · rw [hslots _ (by unfold kAckSeqno; omega), hseq]
  · rw [hslots _ (by unfold kAckBytes; omega), hbytes]

end StreamState

section Regions

variable {s : State} {who : Requester} {p i st w : Nat} {v : Word}

/-- A write of UP starts a new epoch of the stream, whatever it was (R347). -/
theorem streamUp_leaves (hst : st < 256) (h : accepts s who .streamCtrl (kStreamCtrl st) 1) :
    ∃ t, exec (.streamUp who st) s = .next t ∧ t.nat (kStreamCtrl st) = 1 ∧
      t.nat (kStreamEpoch st) = (s.nat (kStreamEpoch st) + 1) % 2 ^ 16 ∧ t.nat (kNextSeqno st) = 0 ∧
      t.nat (kAckSeqno st) = 0 ∧ t.nat (kAckBytes st) = 0 ∧ t.stream st = {} := by
  obtain ⟨u, hu⟩ : ∃ u, (s.streamGoDown st).newEpoch st = u := ⟨_, rfl⟩
  have hleaves := newEpoch_leaves (s.streamGoDown st) st
  rw [hu, nat_of_reg ((epochsKept_streamGoDown s st).reg st hst)] at hleaves
  exact ⟨u.applied who, next_applied h fun _ => congrArg _ hu, hleaves⟩

theorem kRegion_of_sub (p i : Nat) : kRegionBase p 0 - 1 + (i + 1) = kRegionBase p i ∧
    kRegionBase p 0 - 1 + (i + 0x11) = kRegionSpan p i := by
  unfold kRegionBase kRegionSpan
  omega

theorem exec_regionWrite_base (s : State) (who : Requester) (p : Nat) (v : Word) (hi : i < 16) :
    exec (.regionWrite who p (i + 1) v) s =
      .next (s.slotWrite who .regionBase (kRegionBase p i) v (writeRegion p (kRegionBase p i) i v)) := by
  have hsub : i + 1 ≤ 0x10 := by omega
  have hmod : (i + 1 - 1) % 16 = i := by omega
  show execRegionWrite who p (i + 1) v s = _
  simp only [execRegionWrite, (kRegion_of_sub p i).1, if_pos hsub, hmod]

theorem exec_regionWrite_span (s : State) (who : Requester) (p : Nat) (v : Word) (hi : i < 16) :
    exec (.regionWrite who p (i + 0x11) v) s =
      .next (s.slotWrite who .regionSpan (kRegionSpan p i) v (writeRegion p (kRegionSpan p i) i v)) := by
  have hsub : ¬ i + 0x11 ≤ 0x10 := by omega
  have hmod : (i + 0x11 - 1) % 16 = i := by omega
  show execRegionWrite who p (i + 0x11) v s = _
  simp only [execRegionWrite, (kRegion_of_sub p i).2, if_neg hsub, hmod]

/-- A region that moves has every granule dirty (R372, R373). -/
def regionMoved (s : State) (p i : Nat) (v : Word) : State :=
  { s.setReg (kRegionBase p i) v with clean := Tbl.drop (fun x => x / 2 ^ 32 == p * 16 + i) s.clean }

theorem writeRegion_moved (hidle : s.nat (kCutState p) = 0) (hapart : (s.setReg (kRegionBase p i) v).regionsApart p = true)
    (hmoved : (s.setReg (kRegionBase p i) v).region p i ≠ s.region p i) (l : EntLoc) :
    writeRegion p (kRegionBase p i) i v s l = .ok (regionMoved s p i v) := by
  unfold writeRegion
  dsimp only
  rw [if_neg (by simp [hidle, hapart]), if_neg hmoved]
  rfl

theorem cleanKey_div {j g : Nat} (hg : g < 2 ^ 32) : cleanKey p j g / 2 ^ 32 = p * 16 + j := by
  unfold cleanKey
  omega

theorem clean_regionMoved {j g : Nat} (hg : g < 2 ^ 32) : Tbl.get false (regionMoved s p i v).clean (cleanKey p j g) =
    if j = i then false else Tbl.get false s.clean (cleanKey p j g) := by
  refine (Tbl.get_drop _ _ _ _).trans (if_congr ?_ rfl rfl)
  simp only [cleanKey_div hg, beq_iff_eq]
  omega

theorem win_setWin_same (s : State) (w : Nat) (v : WinSt) : (s.setWin w v).win w = v := Tbl.get_set_same ..

end Regions

/-- Settles O18: a stream that goes up starts a new epoch, windows open and close, and a region that moves is dirty. -/
theorem streamsWindowsRegions : Obligations.StreamsWindowsRegions := by
  refine ⟨?_, ?_, ?_, ?_, ?_, ?_, ?_, ?_, ?_⟩
  · exact fun s who st hst h => streamUp_leaves hst h
  · intro s who st h hup
    refine next_applied h fun _ => ?_
    rw [State.streamGoUp, State.streamGoDown, if_neg hup]
  · intro s who st h hdown
    refine next_applied h fun _ => ?_
    rw [State.streamGoDown, if_pos hdown]
  · intro s who st h hup
    refine next_applied h fun _ => ?_
    rw [State.streamGoDown, if_neg hup]
  · intro s who w hw h hclosed
    refine ⟨_, next_applied h fun _ => congrArg _ (if_pos hclosed), State.nat_setNat_same _ (by decide), win_setWin_same (s.setNat (kWinState w) 1) w {},
      fun k hk => State.reg_setNat_other s _ (by simpa using hk), (Quiet.refl s).memoryKept, ⟨rfl, rfl, rfl, rfl, rfl⟩⟩
  · intro s who w hw h hfree
    have hnone : s.restoresOf w = [] := List.head?_eq_none_iff.1 hfree
    have hclose : s.closeWin w = (s.setNat (kWinState w) 0).setWin w {} := by rw [State.closeWin, hnone]; rfl
    refine ⟨_, next_applied h fun _ => congrArg _ hclose, State.nat_setNat_same _ (by decide), win_setWin_same (s.setNat (kWinState w) 0) w {},
      fun k hk => State.reg_setNat_other s _ (by simpa using hk), (Quiet.refl s).memoryKept, ⟨rfl, rfl, rfl, rfl, rfl⟩⟩
  · intro s who w v h
    exact next_applied h fun _ => rfl
  · intro s who p i v hp hi h hidle hapart hmoved
    rw [exec_regionWrite_base s who p v hi]
    refine ⟨_, next_applied h fun l => writeRegion_moved hidle hapart hmoved l, State.reg_setReg_same .., fun k hk => ?_,
      fun g hg => ?_, fun j g hne hj hg => ?_, (Quiet.refl s).memoryKept⟩
    · exact State.reg_setReg_other s _ (by simpa using hk)
    · exact (clean_regionMoved (v := v) hg).trans (if_pos rfl)
    · exact (clean_regionMoved (v := v) hg).trans (if_neg hne)
  · intro s who p i v hp hi h hcut
    rw [exec_regionWrite_span s who p v hi]
    refine next_refused h fun l => ?_
    rw [writeRegion, if_pos (.inl hcut)]

end Sys2Proof.Safety

namespace Sys2Proof.Safety

open Sys2Proof.Machine

/-! ### Link ports (O20) -/

section Ports

variable {s t : State} {n : Nat} {who : Requester}

theorem told_portEvent (s : State) (n b : Nat) : Told [kPortEvents n] s (s.portEvent n b) :=
  ⟨quiet_portEvent s n b, fun _ hj => State.reg_portEvent_other s (List.ne_of_not_mem_cons hj)⟩

theorem told_refreshMute (s : State) (n : Nat) : Told [kTxMuted n] s (s.refreshMute n) := told_setNat ..

/-- A port as it is once it has gone DOWN. -/
def downPort (p : PortSt) : PortSt :=
  { p with faulty := 0, laneReq := 0, laneSwitch := 0, confirmed := false, waited := 0, trained := false, trainWin := 0,
           restoring := false, good := 0, peerMuted := false, peerReady := false }

/-- A port that goes DOWN has its state and lanes 0, and its mute follows (Table 10.7). -/
theorem told_portDown (s : State) (n : Nat) :
    Told [kPortState n, kLanesActive n, kTxMuted n] (s.setPort n (downPort (s.port n))) (s.portDown n) :=
  ((told_setNat _ _ 0).trans (told_setNat _ _ 0)).trans (told_refreshMute _ n)

theorem nat_portDown (s : State) (n : Nat) : (s.portDown n).nat (kPortState n) = 0 ∧ (s.portDown n).nat (kLanesActive n) = 0 := by
  have hmuted : kPortState n ≠ kTxMuted n ∧ kLanesActive n ≠ kTxMuted n ∧ kPortState n ≠ kLanesActive n := by
    unfold kPortState kTxMuted kLanesActive
    omega
  obtain ⟨hst, hlanes, hne⟩ := hmuted
  have hzero : (0 : Nat) < 2 ^ 64 := by decide
  unfold State.portDown State.refreshMute
  exact ⟨(State.nat_setNat_other _ _ hst).trans ((State.nat_setNat_other _ _ hne).trans (State.nat_setNat_same _ hzero)),
    (State.nat_setNat_other _ _ hlanes).trans (State.nat_setNat_same _ hzero)⟩

theorem Told.port {l : List Nat} (h : Told l s t) (n : Nat) : t.port n = s.port n := by
  simp only [State.port, h.ports]

theorem port_portDown (s : State) (n : Nat) : (s.portDown n).port n = downPort (s.port n) :=
  ((told_portDown s n).port n).trans (port_setPort_same ..)

theorem memoryKept_portDown (s : State) (n : Nat) : memoryKept s (s.portDown n) := (told_portDown s n).quiet.memoryKept

theorem workKept_portDown (s : State) (n : Nat) : workKept s (s.portDown n) := (told_portDown s n).quiet.workKept

theorem slotsKept_portDown (s : State) (n : Nat) : slotsKept s (s.portDown n) [kPortState n, kLanesActive n, kTxMuted n] :=
  (told_portDown s n).slots

/-- A port that goes DOWN with an event. -/
theorem portDown_event (s : State) (n : Nat) {b : Nat} (hb : b < 64) : ((s.portDown n).portEvent n b).nat (kPortState n) = 0 ∧
    ((s.portDown n).portEvent n b).nat (kLanesActive n) = 0 ∧ ((s.portDown n).portEvent n b).bit (kPortEvents n) b = true ∧
    memoryKept s ((s.portDown n).portEvent n b) := by
  have hevent := told_portEvent (s.portDown n) n b
  refine ⟨?_, ?_, State.bit_portEvent _ _ _ hb, (memoryKept_portDown s n).trans hevent.quiet.memoryKept⟩
  · rw [hevent.nat (by simp [kPortState, kPortEvents]), (nat_portDown s n).1]
  · rw [hevent.nat (by simp [kLanesActive, kPortEvents]), (nat_portDown s n).2]

/-- A port that comes UP or DEGRADED with its lanes (Table 10.7). -/
theorem told_portUp (s : State) (n st lanes : Nat) :
    Told [kPortState n, kLanesActive n, kDriftPeak n, kViolRun n, kTxMuted n] s (s.portUp n st lanes) :=
  ((((told_setNat _ _ _).trans (told_setNat _ _ _)).trans (told_setNat _ _ _)).trans (told_setNat _ _ _)).trans
    (told_refreshMute _ n)

theorem nat_portUp (s : State) (n : Nat) {st lanes : Nat} (hst : st < 2 ^ 64) (hl : lanes < 2 ^ 64) :
    (s.portUp n st lanes).nat (kPortState n) = st ∧ (s.portUp n st lanes).nat (kLanesActive n) = lanes ∧
    (s.portUp n st lanes).nat (kDriftPeak n) = 0 ∧ (s.portUp n st lanes).nat (kViolRun n) = 0 := by
  unfold State.portUp State.refreshMute
  have hzero : (0 : Nat) < 2 ^ 64 := by decide
  obtain ⟨hs1, hs2, hs3, hs4⟩ : kPortState n ≠ kLanesActive n ∧ kPortState n ≠ kDriftPeak n ∧ kPortState n ≠ kViolRun n ∧
      kPortState n ≠ kTxMuted n := by
    unfold kPortState kLanesActive kDriftPeak kViolRun kTxMuted
    omega
  obtain ⟨hl1, hl2, hl3⟩ : kLanesActive n ≠ kDriftPeak n ∧ kLanesActive n ≠ kViolRun n ∧ kLanesActive n ≠ kTxMuted n := by
    unfold kLanesActive kDriftPeak kViolRun kTxMuted
    omega
  obtain ⟨hd1, hd2, hv⟩ : kDriftPeak n ≠ kViolRun n ∧ kDriftPeak n ≠ kTxMuted n ∧ kViolRun n ≠ kTxMuted n := by
    unfold kDriftPeak kViolRun kTxMuted
    omega
  refine ⟨?_, ?_, ?_, ?_⟩
  · rw [State.nat_setNat_other _ _ hs4, State.nat_setNat_other _ _ hs3, State.nat_setNat_other _ _ hs2,
      State.nat_setNat_other _ _ hs1, State.nat_setNat_same _ hst]
  · rw [State.nat_setNat_other _ _ hl3, State.nat_setNat_other _ _ hl2, State.nat_setNat_other _ _ hl1, State.nat_setNat_same _ hl]
  · rw [State.nat_setNat_other _ _ hd2, State.nat_setNat_other _ _ hd1, State.nat_setNat_same _ hzero]
  · rw [State.nat_setNat_other _ _ hv, State.nat_setNat_same _ hzero]

/-- A port that starts training (Table 10.7). -/
theorem portTrain_leaves (s : State) (n : Nat) : (s.portTrain n).nat (kPortState n) = 1 ∧
    slotsKept s (s.portTrain n) [kPortState n] ∧ memoryKept s (s.portTrain n) ∧ workKept s (s.portTrain n) :=
  ⟨State.nat_setNat_same _ (by decide), fun k hk => State.reg_setNat_other _ _ (by simpa using hk), (Quiet.refl s).memoryKept,
    ⟨rfl, rfl, rfl, rfl, rfl⟩⟩

/-- A port that is enabled and DOWN trains, or waits in BOOTLINK before READY (R427). -/
def enabled (s : State) (n : Nat) : State :=
  if s.ready then (s.setNat (kPortCtrl n) 1).portTrain n else (s.setNat (kPortCtrl n) 1).setNat (kPortState n) 5

theorem enabled_leaves (s : State) (n : Nat) : (enabled s n).nat (kPortState n) = (if s.ready then 1 else 5) ∧
    (enabled s n).nat (kPortCtrl n) = 1 ∧ slotsKept s (enabled s n) [kPortState n, kPortCtrl n] ∧
    memoryKept s (enabled s n) ∧ workKept s (enabled s n) := by
  have hne : kPortCtrl n ≠ kPortState n := by unfold kPortCtrl kPortState; omega
  have hctrl := told_setNat s (kPortCtrl n) 1
  have hone : (s.setNat (kPortCtrl n) 1).nat (kPortCtrl n) = 1 := State.nat_setNat_same _ (by decide)
  unfold enabled
  split
  · obtain ⟨hst, hslots, hmem, hwork⟩ := portTrain_leaves (s.setNat (kPortCtrl n) 1) n
    refine ⟨hst, (nat_of_reg (hslots _ (by simpa using hne))).trans hone, (hctrl.slots.trans hslots).mono (by simp), ?_, hwork⟩
    exact hctrl.quiet.memoryKept.trans hmem
  · have hset := hctrl.trans (told_setNat (s.setNat (kPortCtrl n) 1) (kPortState n) 5)
    exact ⟨State.nat_setNat_same _ (by decide), (State.nat_setNat_other _ _ hne).trans hone, hset.slots.mono (by simp),
      hset.quiet.memoryKept, hset.quiet.workKept⟩

theorem portEnable_leaves (h : accepts s who .portCtrl (kPortCtrl n) 1) (hdown : s.nat (kPortState n) = 0) :
    ∃ t, exec (.portEnable who n) s = .next t ∧ t.nat (kPortState n) = (if s.ready then 1 else 5) ∧ t.nat (kPortCtrl n) = 1 ∧
      slotsKept s t [kPortState n, kPortCtrl n] ∧ memoryKept s t ∧ workKept s t :=
  ⟨_, next_applied (u := enabled s n) h fun _ => congrArg _ (if_pos hdown), enabled_leaves s n⟩

/-- A port that is disabled. -/
def disabled (s : State) (n : Nat) : State := (s.setNat (kPortCtrl n) 0).portDown n

theorem disabled_leaves (s : State) (n : Nat) : (disabled s n).nat (kPortState n) = 0 ∧ (disabled s n).nat (kPortCtrl n) = 0 ∧
    (disabled s n).nat (kLanesActive n) = 0 ∧
    slotsKept s (disabled s n) [kPortState n, kPortCtrl n, kLanesActive n, kTxMuted n] ∧ memoryKept s (disabled s n) ∧
    workKept s (disabled s n) := by
  have hctrl := told_setNat s (kPortCtrl n) 0
  have hslots := slotsKept_portDown (s.setNat (kPortCtrl n) 0) n
  obtain ⟨hst, hlanes⟩ := nat_portDown (s.setNat (kPortCtrl n) 0) n
  refine ⟨hst, ?_, hlanes, (hctrl.slots.trans hslots).mono (by simp), hctrl.quiet.memoryKept.trans (memoryKept_portDown _ n), ?_⟩
  · have hne : kPortCtrl n ∉ [kPortState n, kLanesActive n, kTxMuted n] := by
      simp [kPortCtrl, kPortState, kLanesActive, kTxMuted]
    exact (nat_of_reg (hslots _ hne)).trans (State.nat_setNat_same _ (by decide))
  · exact workKept_portDown (s.setNat (kPortCtrl n) 0) n

/-- A DEGRADED port whose lane is to be restored trains it (R424). -/
theorem restoreLane_leaves (h : accepts s who .portCtrl (kPortCtrl n) 2) (hdeg : s.nat (kPortState n) = 3) :
    ∃ t, exec (.restoreLane who n) s = .next t ∧ t.nat (kPortCtrl n) = 1 ∧ (t.port n).restoring = true ∧
      slotsKept s t [kPortCtrl n] ∧ memoryKept s t := by
  refine ⟨_, next_applied h fun _ => if_pos (by simpa using hdeg), State.nat_setNat_same s (by decide), ?_,
    fun k hk => State.reg_setNat_other s _ (by simpa using hk), (Quiet.refl s).memoryKept⟩
  exact congrArg PortSt.restoring (port_setPort_same (s := s.setNat (kPortCtrl n) 1) ..)

/-- A port trains with its lanes (R425, R426). -/
def trained (s : State) (n st lanes rtt : Nat) : State := (s.setNat (kPortDelay n) (s.portDelay n rtt)).portUp n st lanes

theorem portDelay_lt (s : State) (n rtt : Nat) : s.portDelay n rtt < 2 ^ 64 :=
  (Nat.mod_lt _ (by decide)).trans (by decide)

theorem told_trained (s : State) (n st lanes rtt : Nat) :
    Told ([kPortDelay n] ++ [kPortState n, kLanesActive n, kDriftPeak n, kViolRun n, kTxMuted n]) s (trained s n st lanes rtt) :=
  (told_setNat _ _ _).trans (told_portUp _ n st lanes)

theorem delay_trained (s : State) (n st lanes rtt : Nat) : (trained s n st lanes rtt).nat (kPortDelay n) = s.portDelay n rtt := by
  have hne : kPortDelay n ∉ [kPortState n, kLanesActive n, kDriftPeak n, kViolRun n, kTxMuted n] := by
    simp [kPortDelay, kPortState, kLanesActive, kDriftPeak, kViolRun, kTxMuted]
  exact ((told_portUp _ n st lanes).nat hne).trans (State.nat_setNat_same _ (portDelay_lt s n rtt))

/-- A port trained on all four lanes is UP. -/
theorem trainingDone_all {lanes rtt : Nat} (hst : s.nat (kPortState n) = 1) (hall : lanes % 16 = 15) :
    ∃ t, exec (.trainingDone n lanes rtt) s = .next t ∧ t.nat (kPortState n) = 2 ∧ t.nat (kLanesActive n) = 15 ∧
      t.nat (kPortDelay n) = s.portDelay n rtt ∧ t.nat (kDriftPeak n) = 0 ∧ t.nat (kViolRun n) = 0 ∧
      slotsKept s t [kPortState n, kLanesActive n, kPortDelay n, kDriftPeak n, kViolRun n, kTxMuted n] ∧ memoryKept s t := by
  have hexec : exec (.trainingDone n lanes rtt) s = .next (trained s n 2 15 rtt) := (if_pos hst).trans (if_pos hall)
  obtain ⟨hup, hlanes, hpeak, hrun⟩ := nat_portUp (s.setNat (kPortDelay n) (s.portDelay n rtt)) n (st := 2) (lanes := 15)
    (by decide) (by decide)
  have htold := told_trained s n 2 15 rtt
  exact ⟨_, hexec, hup, hlanes, delay_trained .., hpeak, hrun, htold.slots.mono (by simp), htold.quiet.memoryKept⟩

/-- A port trained on three lanes is DEGRADED. -/
theorem trainingDone_three {lanes rtt : Nat} (hst : s.nat (kPortState n) = 1) (hthree : laneBits (lanes % 16) = 3) :
    ∃ t, exec (.trainingDone n lanes rtt) s = .next t ∧ t.nat (kPortState n) = 3 ∧ t.nat (kLanesActive n) = lanes % 16 ∧
      t.nat (kPortDelay n) = s.portDelay n rtt ∧ t.bit (kPortEvents n) 1 = true ∧ (t.port n).faulty = 15 - lanes % 16 := by
  have hall : ¬ lanes % 16 = 15 := fun h => absurd (h ▸ hthree) (by decide)
  obtain ⟨u, hu⟩ : ∃ u, s.setPort n { s.port n with faulty := 15 - lanes % 16 } = u := ⟨_, rfl⟩
  have hdelay : u.portDelay n rtt = s.portDelay n rtt := hu ▸ rfl
  have hport : (u.port n).faulty = 15 - lanes % 16 := by rw [← hu, port_setPort_same]
  have hexec : exec (.trainingDone n lanes rtt) s = .next ((trained u n 3 (lanes % 16) rtt).portEvent n 1) := by
    rw [← hu]
    exact (if_pos hst).trans ((if_neg hall).trans (if_pos hthree))
  have hlt : lanes % 16 < 2 ^ 64 := by omega
  obtain ⟨hup, hlanes, -, -⟩ := nat_portUp (u.setNat (kPortDelay n) (u.portDelay n rtt)) n (st := 3) (by decide) hlt
  have hevent := told_portEvent (trained u n 3 (lanes % 16) rtt) n 1
  refine ⟨_, hexec, ?_, ?_, ?_, State.bit_portEvent _ _ _ (by decide), ?_⟩
  · exact (hevent.nat (by simp [kPortState, kPortEvents])).trans hup
  · exact (hevent.nat (by simp [kLanesActive, kPortEvents])).trans hlanes
  · exact (hevent.nat (by simp [kPortDelay, kPortEvents])).trans ((delay_trained ..).trans hdelay)
  · rw [hevent.port, (told_trained u n 3 (lanes % 16) rtt).port, hport]

/-- A second faulty lane takes the port DOWN (R421). -/
theorem laneFault_second {lane : Nat} (hlane : lane < 4) (hlo : 2 ≤ s.nat (kPortState n)) (hhi : s.nat (kPortState n) ≤ 4)
    (hfaulty : (s.port n).faulty ≠ 0) (hnew : bitOf (s.port n).faulty lane = false) :
    exec (.laneFault n lane) s = .next (s.portDown n) := by
  have hcarries : inRange 2 4 (s.nat (kPortState n)) = true := by simp [inRange, hlo, hhi]
  exact (if_neg (by simp [hnew, hcarries, hlane])).trans (if_neg fun h => hfaulty h.1)

/-- A port whose lane proposal has ended. -/
def agreed (p : PortSt) : PortSt := { p with laneReq := 0, laneSwitch := 0, confirmed := false, waited := 0, trained := false }

/-- The agreed lanes of a port have come into force, with its lane proposal ended (R422). -/
def laned (s : State) (n st faulty : Nat) : State :=
  (((s.setPort n (agreed (s.port n))).setNat (kLanesActive n) (s.port n).laneReq).setPort n
    { agreed (s.port n) with faulty := faulty }).setNat (kPortState n) st

theorem laned_leaves (s : State) (n : Nat) {st : Nat} (faulty : Nat) (hst : st < 2 ^ 64) (hreq : (s.port n).laneReq < 2 ^ 64) :
    (laned s n st faulty).nat (kPortState n) = st ∧ (laned s n st faulty).nat (kLanesActive n) = (s.port n).laneReq ∧
    (laned s n st faulty).port n = { agreed (s.port n) with faulty := faulty } ∧ memoryKept s (laned s n st faulty) := by
  have hne : kLanesActive n ≠ kPortState n := by unfold kLanesActive kPortState; omega
  exact ⟨State.nat_setNat_same _ hst, (State.nat_setNat_other _ _ hne).trans (State.nat_setNat_same _ hreq),
    port_setPort_same .., (Quiet.refl s).memoryKept⟩

/-- The lanes of a port switch at the agreed frame (R422, R424). -/
theorem exec_laneSwitch (hsw : (s.port n).laneSwitch ≠ 0) (hconf : (s.port n).confirmed = true)
    (hframe : (s.port n).laneSwitch ≤ s.frameNo) (hst : s.nat (kPortState n) = 2 ∨ s.nat (kPortState n) = 3) :
    exec (.laneSwitch n) s = if (s.port n).laneReq = 15 then .next ((laned s n 2 0).portEvent n 2)
      else if laneBits (s.port n).laneReq = 3 then .next ((laned s n 3 (15 - (s.port n).laneReq)).portEvent n 1)
      else .next (((s.setPort n (agreed (s.port n))).setNat (kLanesActive n) (s.port n).laneReq).portDown n) := by
  have hcarries : inRange 2 4 (s.nat (kPortState n)) = true := by simp [inRange]; omega
  have hgo : ¬ ((s.port n).laneSwitch = 0 ∨ (s.port n).confirmed = false ∨ s.frameNo < (s.port n).laneSwitch ∨
      inRange 2 4 (s.nat (kPortState n)) = false) := by
    simp [hsw, hconf, hframe, hcarries]
  have hne : kPortState n ≠ kLanesActive n := by unfold kLanesActive kPortState; omega
  have hkept : ∀ p, (((s.setPort n (agreed (s.port n))).setNat (kLanesActive n) (s.port n).laneReq).setPort n p).nat
      (kPortState n) = s.nat (kPortState n) := fun p => State.nat_setNat_other _ _ hne
  have hmuted : ∀ p, ¬ (((s.setPort n (agreed (s.port n))).setNat (kLanesActive n) (s.port n).laneReq).setPort n p).nat
      (kPortState n) = 4 := fun p => by rw [hkept]; omega
  refine (if_neg hgo).trans (if_congr Iff.rfl ?_ (if_congr Iff.rfl ?_ rfl))
  · exact congrArg (fun u : State => Host.Outcome.next (u.portEvent n 2)) (if_neg (hmuted _))
  · exact congrArg (fun u : State => Host.Outcome.next (u.portEvent n 1)) (if_neg (hmuted _))

/-- A port whose lanes have switched, with the event that says so. -/
theorem laned_event (s : State) (n : Nat) {st b : Nat} (faulty : Nat) (hst : st < 2 ^ 64) (hreq : (s.port n).laneReq < 2 ^ 64)
    (hb : b < 64) : ((laned s n st faulty).portEvent n b).nat (kPortState n) = st ∧
    ((laned s n st faulty).portEvent n b).nat (kLanesActive n) = (s.port n).laneReq ∧
    ((laned s n st faulty).portEvent n b).port n = { agreed (s.port n) with faulty := faulty } ∧
    ((laned s n st faulty).portEvent n b).bit (kPortEvents n) b = true ∧
    memoryKept s ((laned s n st faulty).portEvent n b) := by
  obtain ⟨hstate, hlanes, hport, hmem⟩ := laned_leaves s n faulty hst hreq
  have hevent := told_portEvent (laned s n st faulty) n b
  refine ⟨?_, ?_, (hevent.port n).trans hport, State.bit_portEvent _ _ _ hb, hmem.trans hevent.quiet.memoryKept⟩
  · exact (hevent.nat (by simp [kPortState, kPortEvents])).trans hstate
  · exact (hevent.nat (by simp [kLanesActive, kPortEvents])).trans hlanes

/-- A mute that sixteen good markers end (R417). -/
def unmuted (s : State) (n : Nat) : State :=
  ((s.setPort n { s.port n with good := 0 }).setNat (kPortState n) (s.port n).prev).setNat (kViolRun n) 0

theorem told_unmuted (s : State) (n : Nat) : Told ([kPortState n] ++ [kViolRun n] ++ [kPortEvents n] ++ [kTxMuted n])
    (s.setPort n { s.port n with good := 0 }) (((unmuted s n).portEvent n 5).refreshMute n) :=
  (((told_setNat _ _ _).trans (told_setNat _ _ _)).trans (told_portEvent ..)).trans (told_refreshMute _ n)

theorem violUnmute_leaves (hst : s.nat (kPortState n) = 4) (hgood : 16 ≤ (s.port n).good) (hprev : (s.port n).prev < 16) :
    ∃ t, exec (.violUnmute n) s = .next t ∧ t.nat (kPortState n) = (s.port n).prev ∧ t.nat (kViolRun n) = 0 ∧
      (t.port n).good = 0 ∧ t.bit (kPortEvents n) 5 = true ∧
      slotsKept s t [kPortState n, kViolRun n, kPortEvents n, kTxMuted n] ∧ memoryKept s t := by
  have htold := told_unmuted s n
  have hevent := (told_portEvent (unmuted s n) n 5).trans (told_refreshMute ((unmuted s n).portEvent n 5) n)
  have hmute := told_refreshMute ((unmuted s n).portEvent n 5) n
  have hlt : (s.port n).prev < 2 ^ 64 := by omega
  refine ⟨((unmuted s n).portEvent n 5).refreshMute n, if_pos ⟨hst, hgood⟩, ?_, ?_, ?_, ?_, htold.slots.mono (by simp), ?_⟩
  · refine (hevent.nat (by simp [kPortState, kPortEvents, kTxMuted])).trans ?_
    exact (State.nat_setNat_other _ _ (by simp [kPortState, kViolRun])).trans (State.nat_setNat_same _ hlt)
  · exact (hevent.nat (by simp [kViolRun, kPortEvents, kTxMuted])).trans (State.nat_setNat_same _ (by decide))
  · rw [htold.port, port_setPort_same]
  · exact (hmute.bit 5 (by simp [kPortEvents, kTxMuted])).trans (State.bit_portEvent _ _ _ (by decide))
  · exact htold.quiet.memoryKept

end Ports

/-- Settles O20: each event of a link port leaves the state of Table 10.7. -/
theorem linkPorts : Obligations.LinkPorts := by
  refine ⟨?_, ?_, ?_, ?_, ?_, ?_, ?_, ?_, ?_, ?_, ?_, ?_, ?_, ?_, ?_⟩
  · exact fun s who n _ h hdown => portEnable_leaves h hdown
  · exact fun s who n _ h hup => next_applied h fun _ => congrArg _ (if_neg hup)
  · exact fun s who n _ h => ⟨_, next_applied (u := disabled s n) h fun _ => rfl, disabled_leaves s n⟩
  · exact fun s who n _ h hdeg => restoreLane_leaves h hdeg
  · exact fun s n lanes rtt _ hst hall => trainingDone_all hst hall
  · exact fun s n lanes rtt _ hst hthree => trainingDone_three hst hthree
  · intro s n _ hmax hst
    obtain ⟨hdown, -, hbit, hmem⟩ := portDown_event s n (b := 0) (by decide)
    exact ⟨_, (if_neg (Nat.not_lt.2 hmax)).trans (if_pos hst), hdown, hbit, hmem⟩
  · intro s n _ hlo hhi
    exact ⟨_, if_pos (by simp [inRange, hlo, hhi]), portDown_event s n (by decide)⟩
  · intro s n hn hst hctrl hready
    obtain ⟨hone, hslots, hmem, -⟩ := portTrain_leaves s n
    exact ⟨_, if_pos ⟨hst, hctrl, hready, hn⟩, hone, hslots, hmem⟩
  · intro s n lane hlane hlo hhi hfaulty hall
    have hcarries : inRange 2 4 (s.nat (kPortState n)) = true := by simp [inRange, hlo, hhi]
    have hnew : bitOf 0 lane = false := by simp [bitOf]
    refine (if_neg (by simp [hfaulty, hnew, hcarries, hlane])).trans ((if_pos ⟨hfaulty, hall⟩).trans ?_)
    rw [hfaulty, Nat.zero_or]
  · intro s n lane _ hlane hlo hhi hfaulty hnew
    obtain ⟨hst, hlanes⟩ := nat_portDown s n
    exact ⟨_, laneFault_second hlane hlo hhi hfaulty hnew, hst, hlanes, congrArg PortSt.faulty (port_portDown s n),
      memoryKept_portDown s n⟩
  · intro s n _ hsw hconf hframe hst hreq
    obtain ⟨hup, hlanes, hport, hbit, hmem⟩ := laned_event s n (st := 2) (b := 2) 0 (by decide) (by rw [hreq]; decide) (by decide)
    exact ⟨_, (exec_laneSwitch hsw hconf hframe hst).trans (if_pos hreq), hup, hlanes.trans hreq,
      congrArg PortSt.faulty hport, congrArg PortSt.laneSwitch hport, hbit, hmem⟩
  · intro s n _ hsw hconf hframe hst hlt hthree
    have hreq : ¬ (s.port n).laneReq = 15 := fun h => absurd (h ▸ hthree) (by decide)
    obtain ⟨hup, hlanes, hport, hbit, hmem⟩ := laned_event s n (st := 3) (b := 1) (15 - (s.port n).laneReq) (by decide)
      (by omega) (by decide)
    exact ⟨_, (exec_laneSwitch hsw hconf hframe hst).trans ((if_neg hreq).trans (if_pos hthree)), hup, hlanes,
      congrArg PortSt.faulty hport, hbit, hmem⟩
  · intro s n _ hsw hconf hwaited
    obtain ⟨hst, hlanes⟩ := nat_portDown s n
    exact ⟨_, if_pos ⟨hsw, hconf, hwaited⟩, hst, hlanes, memoryKept_portDown s n⟩
  · exact fun s n _ hst hgood hprev => violUnmute_leaves hst hgood hprev

end Sys2Proof.Safety

namespace Sys2Proof.Safety

open Sys2Proof.Machine

/-! ### Slots and slot tables (O21) -/

section Slots

variable {s : State} {n slot : Nat} {who : Requester} {v : Word}

/-- The start of a slot leaves whether the port may send. -/
theorem portSends_setPort (s : State) (n : Nat) (a : Nat × Nat) :
    (s.setPort n { s.port n with slotAt := a }).portSends n = s.portSends n := by
  have hport : (s.setPort n { s.port n with slotAt := a }).port n = { s.port n with slotAt := a } := port_setPort_same ..
  have hreg : ∀ k, (s.setPort n { s.port n with slotAt := a }).nat k = s.nat k := fun _ => rfl
  have htb : (s.setPort n { s.port n with slotAt := a }).tb = s.tb := rfl
  simp only [State.portSends, State.portMuted, hport, hreg, htb]

/-- A write of SLOT_SWITCH_FRAME that passes the tests of R833 and that R409 refuses also sets SWITCH_REFUSED. -/
theorem slotSwitchFrame_refused (h : accepts s who .slotSwitchFrame (kSlotSwitchFrame n) v)
    (hbad : v.toNat < s.frameNo + 2 ∨ s.banksOk n v.toNat = false) : exec (.slotSwitchFrameWrite who n v) s =
      .next ((s.refuse who .state (kSlotSwitchFrame n / 256) (kSlotSwitchFrame n % 256)).portEvent n 8) := by
  have herr : ∀ l, writeSlotSwitch n v s l = .error .state := fun l => if_neg (by
    obtain hlate | hbanks := hbad
    · simp [Nat.not_le.2 hlate]
    · simp [hbanks])
  have hwrite := State.slotWrite_refused h herr
  obtain ⟨hwho, l, hgate⟩ := h
  simp only [exec, execSlotSwitchFrameWrite, hwho, hgate, herr, hwrite]

theorem slotSwitchFrame_applied (h : accepts s who .slotSwitchFrame (kSlotSwitchFrame n) v) (hframe : s.frameNo + 2 ≤ v.toNat)
    (hbanks : s.banksOk n v.toNat = true) :
    exec (.slotSwitchFrameWrite who n v) s = .next ((s.setReg (kSlotSwitchFrame n) v).applied who) := by
  have hok : ∀ l, writeSlotSwitch n v s l = .ok (s.setReg (kSlotSwitchFrame n) v) := fun l =>
    if_pos (by simp [hframe, hbanks])
  have hwrite := State.slotWrite_applied h hok
  obtain ⟨hwho, l, hgate⟩ := h
  simp only [exec, execSlotSwitchFrameWrite, hwho, hgate, hok, hwrite]

/-- The state in which the banks of a port have changed, before the event. -/
def banksTurned (s : State) (n : Nat) : State :=
  (s.setNat (kSlotBank n) (1 - s.nat (kSlotBank n))).setNat (kSlotSwitchFrame n) 0

theorem told_banksTurned (s : State) (n : Nat) : Told ([kSlotBank n] ++ [kSlotSwitchFrame n] ++ [kPortEvents n]) s
    ((banksTurned s n).portEvent n 7) :=
  ((told_setNat _ _ _).trans (told_setNat _ _ _)).trans (told_portEvent ..)

theorem slotBankSwitch_leaves (hsw : s.nat (kSlotSwitchFrame n) ≠ 0) (hframe : s.nat (kSlotSwitchFrame n) ≤ s.frameNo) :
    ∃ t, exec (.slotBankSwitch n) s = .next t ∧ t.nat (kSlotBank n) = 1 - s.nat (kSlotBank n) ∧
      t.nat (kSlotSwitchFrame n) = 0 ∧ t.bit (kPortEvents n) 7 = true ∧
      slotsKept s t [kSlotBank n, kSlotSwitchFrame n, kPortEvents n] ∧ memoryKept s t := by
  have hevent := told_portEvent (banksTurned s n) n 7
  have hturned := told_banksTurned s n
  have hlt : 1 - s.nat (kSlotBank n) < 2 ^ 64 := by omega
  refine ⟨(banksTurned s n).portEvent n 7, congrArg Host.Outcome.next (if_pos ⟨hsw, hframe⟩), ?_, ?_,
    State.bit_portEvent _ _ _ (by decide), hturned.slots.mono (by simp), hturned.quiet.memoryKept⟩
  · refine (hevent.nat (by simp [kSlotBank, kPortEvents])).trans ((State.nat_setNat_other _ _ ?_).trans (State.nat_setNat_same _ hlt))
    simp [kSlotBank, kSlotSwitchFrame]
  · exact (hevent.nat (by simp [kSlotSwitchFrame, kPortEvents])).trans (State.nat_setNat_same _ (by decide))

end Slots

/-- Settles O21: a slot starts once a frame, the active bank refuses writes, and a refused switch sets SWITCH_REFUSED. -/
theorem slotTables : Obligations.SlotTables := by
  refine ⟨?_, ?_, ?_, ?_, ?_, ?_, ?_⟩
  · intro s n slot hslot hnew
    refine ⟨_, rfl, congrArg Host.Outcome.next ((if_neg ?_).trans ?_)⟩
    · omega
    · dsimp only
      rw [portSends_setPort]
  · intro s n slot hframe hslot
    exact congrArg Host.Outcome.next (if_pos (.inr ⟨hframe, hslot⟩))
  · intro s who n table slot v h hbank
    exact next_applied h fun l => if_pos (by simpa using hbank)
  · intro s who n table slot v h hbank
    exact next_refused h fun l => if_neg (by simpa using hbank)
  · exact fun s who n v h hframe hbanks => slotSwitchFrame_applied h hframe hbanks
  · intro s who n v h hbad
    refine ⟨_, slotSwitchFrame_refused h hbad, ?_, State.bit_portEvent _ _ _ (by decide)⟩
    exact (State.reg_portEvent_other _ (by simp [kSlotSwitchFrame, kPortEvents])).trans (State.reg_refuse ..)
  · exact fun s n _ hsw hframe => slotBankSwitch_leaves hsw hframe

end Sys2Proof.Safety

namespace Sys2Proof.Safety

open Sys2Proof.Machine

/-! ### What a cell changes beside the ports themselves -/

/-- Slots that are not listed, the timebase, the memories and the work are as before. -/
structure PortTold (l : List Nat) (s t : State) : Prop where
  slots : slotsKept s t l
  tb : t.tb = s.tb
  memory : memoryKept s t
  work : workKept s t

section PortTold

variable {s t u : State} {l m : List Nat} {n k : Nat}

theorem PortTold.trans (h : PortTold l s t) (h' : PortTold m t u) : PortTold (l ++ m) s u where
  slots := h.slots.trans h'.slots
  tb := h'.tb.trans h.tb
  memory := h.memory.trans h'.memory
  work := workKept.trans h.work h'.work

theorem PortTold.mono (h : PortTold l s t) (hsub : l ⊆ m) : PortTold m s t := ⟨h.slots.mono hsub, h.tb, h.memory, h.work⟩

theorem PortTold.reg (h : PortTold l s t) (hk : k ∉ l) : t.reg k = s.reg k := h.slots k hk

theorem PortTold.nat (h : PortTold l s t) (hk : k ∉ l) : t.nat k = s.nat k := nat_of_reg (h.slots k hk)

theorem Told.portTold (h : Told l s t) : PortTold l s t := ⟨h.slots, h.tb, h.quiet.memoryKept, h.quiet.workKept⟩

theorem portTold_setPort (s : State) (n : Nat) (p : PortSt) : PortTold [] s (s.setPort n p) :=
  ⟨fun _ _ => rfl, rfl, (Quiet.refl s).memoryKept, (Quiet.refl s).workKept⟩

/-- The slots that a cell on a port may move, beside those of a mute. -/
def arrivalSlots (n : Nat) : List Nat :=
  [kDriftLast n, kDriftPeak n, kCellsRx n, kViolRun n, kSlotViolations n, kPeerId n, kPortEvents n, kTxMuted n, kHopCount,
    kCellErrors n]

theorem notMem_arrivalSlots_low (hlow : k < 0x500000) (hne : k ≠ kHopCount) : k ∉ arrivalSlots n := by
  simp only [arrivalSlots, List.mem_cons, List.not_mem_nil, or_false, not_or, kDriftLast, kDriftPeak, kCellsRx, kViolRun,
    kSlotViolations, kPeerId, kPortEvents, kTxMuted, kCellErrors]
  omega

/-- A slot of the same port is not among them where its place in the port's range is another. -/
theorem notMem_arrivalSlots_port {c : Nat} (hk : k = 0x500000 + 0x4000 * n + c)
    (hc : c ∉ [0x3, 0x7, 0x9, 0xA, 0xB, 0xC, 0x10, 0x12, 0x16]) : k ∉ arrivalSlots n := by
  simp only [List.mem_cons, List.not_mem_nil, or_false, not_or] at hc
  simp only [arrivalSlots, List.mem_cons, List.not_mem_nil, or_false, not_or, kDriftLast, kDriftPeak, kCellsRx, kViolRun,
    kSlotViolations, kPeerId, kPortEvents, kTxMuted, kHopCount, kCellErrors]
  omega

variable (h : PortTold (arrivalSlots n) s t)

include h

theorem PortTold.low (hlow : k < 0x500000) (hne : k ≠ kHopCount) : t.nat k = s.nat k := h.nat (notMem_arrivalSlots_low hlow hne)

theorem PortTold.frameNo : t.frameNo = s.frameNo := by rw [State.frameNo, h.low (by decide) (by decide), State.frameNo]

theorem PortTold.geometry : t.geometry = s.geometry := by
  simp only [State.geometry, h.tb, h.frameNo, h.low (k := kSwitchFrame) (by decide) (by decide),
    h.low (k := kFrameLen) (by decide) (by decide), h.low (k := kIssueLen) (by decide) (by decide),
    h.low (k := kSlotsPerFrame) (by decide) (by decide), h.low (k := kGuardNs) (by decide) (by decide),
    h.low (k := kGuardMaxNs) (by decide) (by decide)]

theorem PortTold.slotsPerFrame : t.slotsPerFrame = s.slotsPerFrame := by
  simp only [State.slotsPerFrame, h.geometry]

theorem PortTold.guardEff : t.guardEff = s.guardEff := by
  simp only [State.guardEff, State.guardFor, State.guardMaxNs, State.guardNs, h.geometry, h.tb]

theorem PortTold.frameNs : t.frameNs = s.frameNs := by simp only [State.frameNs, State.frameLen, h.geometry]

theorem PortTold.numbered : t.numbered = s.numbered := by
  simp only [State.numbered, h.low (k := kFrameNumber) (by decide) (by decide)]

/-- The state of a port stays. -/
theorem PortTold.portState : t.nat (kPortState n) = s.nat (kPortState n) :=
  h.nat (notMem_arrivalSlots_port (c := 0x1) (by unfold kPortState; omega) (by decide))

theorem PortTold.slotBank : t.slotBank n = s.slotBank n := by
  have hsw : t.nat (kSlotSwitchFrame n) = s.nat (kSlotSwitchFrame n) := h.nat (notMem_arrivalSlots_port (c := 0x15) (by unfold kSlotSwitchFrame; omega) (by decide))
  have hbank : t.nat (kSlotBank n) = s.nat (kSlotBank n) := h.nat (notMem_arrivalSlots_port (c := 0x14) (by unfold kSlotBank; omega) (by decide))
  simp only [State.slotBank, h.frameNo, hsw, hbank]

theorem PortTold.rxEntry {slot : Nat} (hslot : slot < 1024) : t.rxEntry n slot = s.rxEntry n slot := by
  have ha : t.nat (kRxSlotA n slot) = s.nat (kRxSlotA n slot) := h.nat (notMem_arrivalSlots_port (c := 0x900 + slot) (by unfold kRxSlotA; omega) (by simp; omega))
  have hb : t.nat (kRxSlotB n slot) = s.nat (kRxSlotB n slot) := h.nat (notMem_arrivalSlots_port (c := 0xD00 + slot) (by unfold kRxSlotB; omega) (by simp; omega))
  simp only [State.rxEntry, h.slotBank, ha, hb]

theorem PortTold.portC (hprev : (t.port n).prev = (s.port n).prev) : t.portC n = s.portC n := by
  have hlanes : t.nat (kLanesActive n) = s.nat (kLanesActive n) := h.nat (notMem_arrivalSlots_port (c := 0x4) (by unfold kLanesActive; omega) (by decide))
  simp only [State.portC, State.laneCount, State.frameLen, State.slotsPerFrame, State.guardMaxNs, h.geometry, h.portState,
    hlanes, hprev]

end PortTold

/-! ### Cells on a port (O22) -/

section Cells

variable {s t u : State} {n : Nat} {b : List Byte} {a δ : Int}

theorem slot_of_cellOk (h : cellOk b = true) : byteField b 2 2 < 1024 := by
  simp only [cellOk, Bool.and_eq_true, decide_eq_true_eq] at h
  exact h.1.1.2

/-- What δ of a timed cell leaves (R412). -/
theorem told_drift (s : State) (n : Nat) (δ : Int) : Told [kDriftLast n, kDriftPeak n] s (s.drift n δ) := by
  have hlast := told_setReg s (kDriftLast n) (i32Word δ)
  unfold State.drift
  dsimp only
  split
  · exact (hlast.trans (told_setNat ..)).mono (by simp)
  · exact hlast.mono (by simp)

theorem portTold_drift (s : State) (n : Nat) (δ : Int) : PortTold (arrivalSlots n) s (s.drift n δ) :=
  (told_drift s n δ).portTold.mono (by simp [arrivalSlots])

/-- A cell on a port that carries cells, that is no MARKER (R412). -/
theorem cellIn_timed (hn : n < 16) (hlo : 2 ≤ s.nat (kPortState n)) (hhi : s.nat (kPortState n) ≤ 4) (hok : cellOk b = true)
    (htyp : byteField b 0 1 % 16 ≠ 1) (htime : s.timing ≠ 0) (hnum : s.numbered = true) :
    exec (.cellReceived n b a {}) s = .next (s.timedIn n b a) := by
  have hcarries : inRange 2 5 (s.nat (kPortState n)) = true := by simp [inRange]; omega
  have hst : ¬ s.nat (kPortState n) = 5 := by omega
  have huntimed : s.untimed = false := by simp [State.untimed, htime, hnum]
  refine congrArg Host.Outcome.next ?_
  have hfec : s.fecCount n {} = s := rfl
  unfold State.cellIn
  simp [hcarries, hfec, hok, hst, htyp, huntimed, Nat.not_le.2 hn]

/-- What a cell is refused for (R413). -/
def cellBad (s : State) (n : Nat) (b : List Byte) (a : Int) : Prop :=
  4 * s.guardEff < (s.arrivalDelta n b a).natAbs ∨ s.slotsPerFrame ≤ byteField b 2 2 ∨
    typeSuits (byteField b 0 1 % 16) (byteField b 8 1) (s.rxEntry n (byteField b 2 2)) = false ∨
    slotLimit (s.rxEntry n (byteField b 2 2)) (s.portC n) ≤ byteField b 4 2

/-- The tests of a timed cell read as they did before its δ was written. -/
theorem cellBad_drift (hok : cellOk b = true) : ((s.drift n δ).beyondGuard (s.arrivalDelta n b a) = true ∨
    (s.drift n δ).slotsPerFrame ≤ byteField b 2 2 ∨
    typeSuits (byteField b 0 1 % 16) (byteField b 8 1) ((s.drift n δ).rxEntry n (byteField b 2 2)) = false ∨
    slotLimit ((s.drift n δ).rxEntry n (byteField b 2 2)) ((s.drift n δ).portC n) ≤ byteField b 4 2) ↔ cellBad s n b a := by
  have hdrift := portTold_drift s n δ
  have hprev : ((s.drift n δ).port n).prev = (s.port n).prev := congrArg PortSt.prev ((told_drift s n δ).port n)
  simp only [cellBad, State.beyondGuard, decide_eq_true_eq, hdrift.guardEff, hdrift.slotsPerFrame,
    hdrift.rxEntry (slot_of_cellOk hok), hdrift.portC hprev]

/-- A cell that a test refuses (R413). -/
theorem timedIn_refused (hst : s.nat (kPortState n) ≠ 4) (hok : cellOk b = true) (hbad : cellBad s n b a) : s.timedIn n b a =
    (s.drift n (s.arrivalDelta n b a)).cellRefused n (byteField b 0 1 % 16) (byteField b 8 1) (byteField b 10 4) := by
  have hstate : ¬ (s.drift n (s.arrivalDelta n b a)).nat (kPortState n) = 4 := by rwa [(portTold_drift s n _).portState]
  unfold State.timedIn
  dsimp only
  rw [if_neg hstate, if_pos ((cellBad_drift hok).2 hbad)]

/-- The state in which an accepted cell reaches its destination. -/
def cellTaken (s : State) (n : Nat) (b : List Byte) (a : Int) : State :=
  ((s.drift n (s.arrivalDelta n b a)).wrapAdd (kCellsRx n)).setNat (kViolRun n) 0

theorem timedIn_taken (hst : s.nat (kPortState n) ≠ 4) (hok : cellOk b = true) (hgood : ¬ cellBad s n b a)
    (hwire : (s.port n).wiring = false) : s.timedIn n b a =
    (cellTaken s n b a).deliver n (byteField b 0 1 % 16) (byteField b 8 1) (byteField b 10 4) a
      ((b.drop 16).take (byteField b 9 1 + 1)) := by
  have hstate : ¬ (s.drift n (s.arrivalDelta n b a)).nat (kPortState n) = 4 := by rwa [(portTold_drift s n _).portState]
  have hwiring : ((s.drift n (s.arrivalDelta n b a)).port n).wiring = false := by rwa [(told_drift s n _).port]
  unfold State.timedIn
  dsimp only
  rw [if_neg hstate, if_neg (mt (cellBad_drift hok).1 hgood), hwiring, if_neg (by decide)]
  rfl

theorem told_cellTaken (s : State) (n : Nat) (b : List Byte) (a : Int) :
    Told [kCellsRx n, kViolRun n, kDriftLast n, kDriftPeak n] s (cellTaken s n b a) :=
  (((told_drift s n _).trans (told_wrapAdd _ _ 1 64)).trans (told_setNat _ _ 0)).mono (by simp)

theorem nat_cellTaken (s : State) (n : Nat) (b : List Byte) (a : Int) :
    (cellTaken s n b a).nat (kCellsRx n) = (s.nat (kCellsRx n) + 1) % 2 ^ 64 ∧ (cellTaken s n b a).nat (kViolRun n) = 0 := by
  have hne : kCellsRx n ≠ kViolRun n := by unfold kCellsRx kViolRun; omega
  refine ⟨?_, State.nat_setNat_same _ (by decide)⟩
  rw [cellTaken, State.nat_setNat_other _ _ hne, nat_wrapAdd_same, (told_drift s n _).nat (by simp [kCellsRx, kDriftLast, kDriftPeak])]

/-- A SPOR_DATA cell in a window that is CLOSED passes and is noted (R357, R387). -/
theorem landData_closed {w off : Nat} {l : List Byte} (hclosed : s.nat (kWinState w) = 0) (hwin : s.win w = {})
    (hoff : off < 2 ^ 31) : s.landData w off l = s.setWin w { passed := [(off * 256, l.take 64)] } := by
  have hnear : nearOffset 0 off = off := by
    have h1 : ¬ 0 / 2 ^ 32 * 2 ^ 32 + off + 2 ^ 31 < 0 := by omega
    have h2 : ¬ (0 + 2 ^ 31 < 0 / 2 ^ 32 * 2 ^ 32 + off ∧ 2 ^ 32 ≤ 0 / 2 ^ 32 * 2 ^ 32 + off) := by omega
    simp only [nearOffset, if_neg h1, if_neg h2]
    omega
  simp only [State.landData, hwin, hclosed, true_or, if_true, Nat.zero_div, hnear, List.nil_append]

/-- A violation has been counted, before the port mutes where it is the eighth in a row. -/
def violated (s : State) (n : Nat) : State :=
  (s.bump (kSlotViolations n)).setNat (kViolRun n) (min ((s.bump (kSlotViolations n)).nat (kViolRun n) + 1) 255)

/-- A port that violations mute, before its event (R416). -/
def muting (s : State) (n : Nat) : State :=
  ((s.setPort n { s.port n with prev := s.nat (kPortState n), good := 0 }).setNat (kPortState n) 4).bump (kViolMutes n)

theorem violation_eq (s : State) (n : Nat) : s.violation n =
    if 8 ≤ (s.bump (kSlotViolations n)).nat (kViolRun n) + 1 ∧ (violated s n).nat (kPortState n) ≠ 4
    then ((muting (violated s n) n).portEvent n 4).refreshMute n else violated s n := rfl

theorem run_bumped (s : State) (n : Nat) : (s.bump (kSlotViolations n)).nat (kViolRun n) = s.nat (kViolRun n) :=
  nat_bump_other _ _ _ (by unfold kViolRun kSlotViolations; omega)

theorem told_violated (s : State) (n : Nat) : Told [kSlotViolations n, kViolRun n] s (violated s n) :=
  (told_bump ..).trans (told_setNat ..)

theorem nat_violated (s : State) (n : Nat) : (violated s n).nat (kSlotViolations n) = satAdd 32 (s.nat (kSlotViolations n)) 1 ∧
    (violated s n).nat (kViolRun n) = min (s.nat (kViolRun n) + 1) 255 := by
  have hne : kSlotViolations n ≠ kViolRun n := by unfold kViolRun kSlotViolations; omega
  rw [violated, run_bumped]
  exact ⟨(State.nat_setNat_other _ _ hne).trans (nat_bump_same _ _ _ (by decide)), State.nat_setNat_same _ (by omega)⟩

/-- A refused cell counts one more in a row, and mutes nothing below the eighth (R413, R416). -/
theorem violation_below (hrun : s.nat (kViolRun n) < 7) : s.violation n = violated s n := by
  rw [violation_eq, run_bumped, if_neg (by omega)]

theorem violation_eighth (hrun : s.nat (kViolRun n) = 7) (hst : s.nat (kPortState n) ≠ 4) :
    s.violation n = ((muting (violated s n) n).portEvent n 4).refreshMute n := by
  have hstate : (violated s n).nat (kPortState n) = s.nat (kPortState n) :=
    (told_violated s n).nat (by simp [kPortState, kSlotViolations, kViolRun])
  rw [violation_eq, run_bumped, if_pos ⟨by omega, by rwa [hstate]⟩]

/-- What the eighth violation in a row leaves (R416). -/
theorem violation_eighth_leaves (hrun : s.nat (kViolRun n) = 7) (hst : s.nat (kPortState n) ≠ 4) :
    (s.violation n).nat (kPortState n) = 4 ∧ ((s.violation n).port n).prev = s.nat (kPortState n) ∧
    (s.violation n).nat (kViolMutes n) = satAdd 32 (s.nat (kViolMutes n)) 1 ∧ (s.violation n).nat (kTxMuted n) = 1 ∧
    (s.violation n).bit (kPortEvents n) 4 = true := by
  have hviol := told_violated s n
  have hstate : (violated s n).nat (kPortState n) = s.nat (kPortState n) := hviol.nat (by simp [kPortState, kSlotViolations, kViolRun])
  have hmutes : (violated s n).nat (kViolMutes n) = s.nat (kViolMutes n) := hviol.nat (by simp [kViolMutes, kSlotViolations, kViolRun])
  have hevent := told_portEvent (muting (violated s n) n) n 4
  have hmute := told_refreshMute ((muting (violated s n) n).portEvent n 4) n
  have hne : kPortState n ≠ kViolMutes n := by unfold kPortState kViolMutes; omega
  have hfour : (muting (violated s n) n).nat (kPortState n) = 4 :=
    (nat_bump_other _ _ _ hne).trans (State.nat_setNat_same _ (by decide))
  have hfourE : ((muting (violated s n) n).portEvent n 4).nat (kPortState n) = 4 :=
    (hevent.nat (by simp [kPortState, kPortEvents])).trans hfour
  have hport : ((muting (violated s n) n).port n).prev = (violated s n).nat (kPortState n) :=
    congrArg PortSt.prev (port_setPort_same ..)
  have hcount : (muting (violated s n) n).nat (kViolMutes n) = satAdd 32 ((violated s n).nat (kViolMutes n)) 1 :=
    (nat_bump_same _ _ _ (by decide)).trans (congrArg (satAdd 32 · 1) (State.nat_setNat_other _ _ hne.symm))
  have hmuted : ((muting (violated s n) n).portEvent n 4).portMuted n = true := by simp [State.portMuted, hfourE]
  rw [violation_eighth hrun hst]
  refine ⟨(hmute.nat (by simp [kPortState, kTxMuted])).trans hfourE, ?_, ?_, ?_, ?_⟩
  · rw [hmute.port, hevent.port, hport, hstate]
  · rw [hmute.nat (by simp [kViolMutes, kTxMuted]), hevent.nat (by simp [kViolMutes, kPortEvents]), hcount, hmutes]
  · rw [State.refreshMute, hmuted]
    exact State.nat_setNat_same _ (by decide)
  · exact (hmute.bit 4 (by simp [kPortEvents, kTxMuted])).trans (State.bit_portEvent _ _ _ (by decide))

theorem cellRefused_other {typ chan off : Nat} (h : 4 ≤ typ) : s.cellRefused n typ chan off = s.violation n :=
  (if_neg (by omega)).trans (if_neg (by omega))

end Cells

end Sys2Proof.Safety

namespace Sys2Proof.Safety

open Sys2Proof.Machine

/-! ### Markers on a port (O22) -/

section Markers

variable {s t u : State} {n : Nat} {b : List Byte} {a δ : Int}

theorem byteField_lt (l : List Byte) (off n : Nat) : byteField l off n < 256 ^ n :=
  (leNat_lt _).trans_le (Nat.pow_le_pow_right (by decide) (by simp))

/-- A field of a cell's payload. -/
theorem byteField_payload (b : List Byte) {off k : Nat} (h : off + k ≤ 32) :
    byteField ((b.drop 16).take 32) off k = byteField b (16 + off) k := by
  have hmin : min k (32 - off) = k := by omega
  rw [byteField, byteField, List.drop_take, List.take_take, List.drop_drop, hmin]

/-- TAG and PORT of the neighbour that a marker names (R411). -/
def peerOf (l : List Byte) : Nat := byteField l 10 2 + byteField l 12 1 % 16 * 2 ^ 16

theorem peerOf_lt (l : List Byte) : peerOf l < 2 ^ 64 := by
  have htag := byteField_lt l 10 2
  have hport : byteField l 12 1 % 16 < 16 := Nat.mod_lt _ (by decide)
  unfold peerOf
  omega

theorem peerOf_payload (b : List Byte) :
    peerOf ((b.drop 16).take 32) = byteField b 26 2 + byteField b 28 1 % 16 * 2 ^ 16 := by
  rw [peerOf, byteField_payload b (by decide), byteField_payload b (by decide)]

/-- PEER_ID is written, and the wiring event raised where it is new (R411). -/
def peerNamed (s : State) (n peer : Nat) : State :=
  if (s.setNat (kPeerId n) peer).miswired n peer && !((s.setNat (kPeerId n) peer).port n).wiring
  then (s.setNat (kPeerId n) peer).portEvent n 3 else s.setNat (kPeerId n) peer

theorem peerTold_eq (s : State) (n : Nat) (l : List Byte) : s.peerTold n l = (peerNamed s n (peerOf l)).setPort n
    { (peerNamed s n (peerOf l)).port n with
      wiring := (s.setNat (kPeerId n) (peerOf l)).miswired n (peerOf l), peerReady := bitOf (byteField l 13 1) 1 } := rfl

theorem told_peerNamed (s : State) (n peer : Nat) : Told [kPeerId n, kPortEvents n] s (peerNamed s n peer) :=
  .ite (((told_setNat ..).trans (told_portEvent ..)).mono (by simp)) ((told_setNat ..).mono (by simp))

theorem nat_peerNamed (s : State) (n : Nat) {peer : Nat} (h : peer < 2 ^ 64) : (peerNamed s n peer).nat (kPeerId n) = peer := by
  have hset : (s.setNat (kPeerId n) peer).nat (kPeerId n) = peer := State.nat_setNat_same _ h
  unfold peerNamed
  split
  · exact ((told_portEvent ..).nat (by simp [kPeerId, kPortEvents])).trans hset
  · exact hset

theorem miswired_setPeer (s : State) (n peer : Nat) : (s.setNat (kPeerId n) peer).miswired n peer = s.miswired n peer := by
  have hexpect : (s.setNat (kPeerId n) peer).nat (kPeerExpect n) = s.nat (kPeerExpect n) :=
    State.nat_setNat_other _ _ (by simp [kPeerExpect, kPeerId])
  have hdim : (s.setNat (kPeerId n) peer).nat kPlaneDim = s.nat kPlaneDim :=
    State.nat_setNat_other _ _ (by unfold kPlaneDim kPeerId; omega)
  have hx : (s.setNat (kPeerId n) peer).dimX = s.dimX := by rw [State.dimX, hdim, State.dimX]
  have hy : (s.setNat (kPeerId n) peer).dimY = s.dimY := by rw [State.dimY, hdim, State.dimY]
  have hback : (s.setNat (kPeerId n) peer).backPort n = s.backPort n := by rw [State.backPort, hx, hy, State.backPort]
  simp only [State.miswired, State.wrongPeer, State.wrongPort, hexpect, hback]

/-- What whose marker it is leaves of a port (R411, R438, R691). -/
theorem peerTold_leaves (s : State) (n : Nat) (l : List Byte) : PortTold [kPeerId n, kPortEvents n] s (s.peerTold n l) ∧
    (s.peerTold n l).nat (kPeerId n) = peerOf l ∧
    (s.peerTold n l).port n = { s.port n with wiring := s.miswired n (peerOf l), peerReady := bitOf (byteField l 13 1) 1 } := by
  have hnamed := told_peerNamed s n (peerOf l)
  rw [peerTold_eq]
  refine ⟨(hnamed.portTold.trans (portTold_setPort ..)).mono (by simp), nat_peerNamed s n (peerOf_lt l), ?_⟩
  rw [port_setPort_same, hnamed.port, miswired_setPeer]

/-- What a port has heard of its neighbour and of its markers. -/
def heardOf (p : PortSt) : Bool × Bool × Bool × Nat × Bool × Nat × Option Int :=
  (p.peerMuted, p.peerReady, p.wiring, p.mkHop, p.mkGot, p.mkRun, p.mkOff)

/-- A lane proposal leaves what the port has heard (R422). -/
theorem laneProposal_leaves (s : State) (n req sw : Nat) : PortTold [] s (s.laneProposal n req sw) ∧
    heardOf ((s.laneProposal n req sw).port n) = heardOf (s.port n) := by
  have hself : PortTold [] s s ∧ heardOf (s.port n) = heardOf (s.port n) :=
    ⟨⟨fun _ _ => rfl, rfl, (Quiet.refl s).memoryKept, (Quiet.refl s).workKept⟩, rfl⟩
  have hset : ∀ p, heardOf p = heardOf (s.port n) → PortTold [] s (s.setPort n p) ∧ heardOf ((s.setPort n p).port n) = heardOf (s.port n) :=
    fun p hp => ⟨portTold_setPort s n p, (congrArg heardOf (port_setPort_same ..)).trans hp⟩
  unfold State.laneProposal
  dsimp only
  split
  · exact hself
  · split
    · split
      · exact hself
      · exact hset _ rfl
    · split
      · exact hset _ rfl
      · exact hset _ rfl

/-- Whether a marker's payload names a reference: its sender is LOCKED with at most six hops (Table 2.3). -/
def refMarker (l : List Byte) : Bool := byteField l 8 1 == 2 && decide (byteField l 9 1 ≤ 6)

/-- A port as its marker leaves it; `u` is the state that heard whose marker it is (R75, R78, R411, R417). -/
def markedPort (u : State) (n : Nat) (δ a : Int) (l : List Byte) : PortSt :=
  { u.port n with
    peerMuted := bitOf (byteField l 13 1) 0,
    good := if u.nat (kPortState n) = 4 then (if 2 * δ.natAbs ≤ 4 * u.guardEff then (u.port n).good + 1 else 0) else 0,
    mkGot := (u.port n).mkGot || refMarker l, mkRun := if refMarker l then (u.port n).mkRun + 1 else 0,
    mkHop := if refMarker l then byteField l 9 1 else (u.port n).mkHop,
    mkOff := if refMarker l then some (u.markerOffset n (byteField l 0 8) a) else (u.port n).mkOff,
    mkNumber := if byteField l 8 1 == 2 && bitOf (byteField l 0 8) 63 then some (u.markerNumber n (byteField l 0 8) a)
      else (u.port n).mkNumber }

/-- HOP_COUNT follows the marker of the selected reference (R75). -/
def hopped (v : State) (n : Nat) (l : List Byte) : State :=
  if refMarker l && v.tb.selected == 3 + n then v.setNat kHopCount (byteField l 9 1 + 1) else v

theorem markerTold_eq (s : State) (n : Nat) (δ a : Int) (l : List Byte) : s.markerTold n δ a l =
    ((hopped ((s.peerTold n l).setPort n (markedPort (s.peerTold n l) n δ a l)) n l).laneProposal n
      (byteField l 15 1 % 16) (byteField l 16 8)).refreshMute n := rfl

theorem told_hopped (v : State) (n : Nat) (l : List Byte) : Told [kHopCount] v (hopped v n l) :=
  .ite (told_setNat ..) (.refl _ _)

theorem PortTold.markerOffset (h : PortTold (arrivalSlots n) s t) (frame : Nat) (a : Int) :
    t.markerOffset n frame a = s.markerOffset n frame a := by
  have hdelay : t.nat (kPortDelay n) = s.nat (kPortDelay n) :=
    h.nat (notMem_arrivalSlots_port (c := 0x5) (by unfold kPortDelay; omega) (by decide))
  have hphase : t.markerPhase n a = s.markerPhase n a := by
    simp only [State.markerPhase, State.guardMaxNs, h.geometry, hdelay]
  have hmod : ∀ x, t.phaseMod x = s.phaseMod x := fun x => by rw [State.phaseMod, h.frameNs, State.phaseMod]
  rw [State.markerOffset, h.numbered, h.frameNo, h.frameNs, hphase, hmod, State.markerOffset]

/-- The slots that a marker moves beside the counters of its arrival. -/
def markerSlots (n : Nat) : List Nat := [kPeerId n, kPortEvents n, kHopCount, kTxMuted n]

theorem markerTold_keeps (s : State) (n : Nat) (δ a : Int) (l : List Byte) : PortTold (markerSlots n) s (s.markerTold n δ a l) := by
  have hpeer := (peerTold_leaves s n l).1
  rw [markerTold_eq]
  obtain ⟨u, hu⟩ : ∃ u, s.peerTold n l = u := ⟨_, rfl⟩
  rw [hu] at hpeer ⊢
  have hhop := (portTold_setPort u n (markedPort u n δ a l)).trans (told_hopped _ n l).portTold
  exact (((hpeer.trans hhop).trans (laneProposal_leaves ..).1).trans (told_refreshMute ..).portTold).mono (by simp [markerSlots])

/-- What a marker leaves of its port. -/
theorem heardOf_markerTold (s : State) (n : Nat) (δ a : Int) (l : List Byte) :
    heardOf ((s.markerTold n δ a l).port n) = heardOf (markedPort (s.peerTold n l) n δ a l) := by
  rw [markerTold_eq, (told_refreshMute _ n).port, (laneProposal_leaves ..).2, (told_hopped _ n l).port, port_setPort_same]

theorem nat_markerTold_peer (s : State) (n : Nat) (δ a : Int) (l : List Byte) :
    (s.markerTold n δ a l).nat (kPeerId n) = peerOf l := by
  have hpeer := (peerTold_leaves s n l).2.1
  rw [markerTold_eq]
  obtain ⟨u, hu⟩ : ∃ u, s.peerTold n l = u := ⟨_, rfl⟩
  rw [hu] at hpeer ⊢
  have hhop : kPeerId n ∉ [kHopCount] := by simp [kPeerId, kHopCount]; omega
  rw [(told_refreshMute _ n).nat (by simp [kPeerId, kTxMuted]), (laneProposal_leaves ..).1.nat (by simp),
    (told_hopped _ n l).nat hhop]
  exact hpeer

theorem nat_markerTold_hop (s : State) (n : Nat) (δ a : Int) (l : List Byte) (href : refMarker l = true)
    (hsel : s.tb.selected = 3 + n) : (s.markerTold n δ a l).nat kHopCount = byteField l 9 1 + 1 := by
  have hpeer := (peerTold_leaves s n l).1.tb
  rw [markerTold_eq]
  obtain ⟨u, hu⟩ : ∃ u, s.peerTold n l = u := ⟨_, rfl⟩
  rw [hu] at hpeer ⊢
  have hmute : kHopCount ∉ [kTxMuted n] := by simp [kHopCount, kTxMuted]; omega
  have hsel' : (u.setPort n (markedPort u n δ a l)).tb.selected = 3 + n := (congrArg (fun x => x.selected) hpeer).trans hsel
  have hlt := byteField_lt l 9 1
  rw [(told_refreshMute _ n).nat hmute, (laneProposal_leaves ..).1.nat (by simp), hopped, href, hsel', if_pos (by simp)]
  exact State.nat_setNat_same _ (by omega)

theorem reg_drift (h : δ.natAbs < 2 ^ 31) : ((s.drift n δ).reg (kDriftLast n)).toInt = δ := by
  have hword : i32Word δ = BitVec.ofInt 64 δ := by
    rw [i32Word, min_eq_left (by omega), max_eq_right (by omega)]
  have hreg : (s.drift n δ).reg (kDriftLast n) = i32Word δ := by
    unfold State.drift
    dsimp only
    split
    · exact (State.reg_setNat_other _ _ (by simp [kDriftLast, kDriftPeak])).trans (State.reg_setReg_same ..)
    · exact State.reg_setReg_same ..
  rw [hreg, hword, BitVec.toInt_ofInt_eq_self (by decide)]
  · have : -(2 : Int) ^ 31 ≤ δ := by omega
    exact le_trans (by decide) this
  · have : δ < (2 : Int) ^ 31 := by omega
    exact lt_trans this (by decide)

/-- A cell of MARKER on a port that carries cells is measured (R412). -/
theorem markerReceived_timed (hn : n < 16) (hlo : 2 ≤ s.nat (kPortState n)) (hhi : s.nat (kPortState n) ≤ 3)
    (hok : cellOk b = true) (htyp : byteField b 0 1 % 16 = 1) (htime : s.timing ≠ 0) (hnum : s.numbered = true)
    (hδ : (s.arrivalDelta n b a).natAbs ≤ 4 * s.guardEff) : exec (.markerReceived n b a {}) s =
      .next ((cellTaken s n b a).markerTold n (s.arrivalDelta n b a) a ((b.drop 16).take 32)) := by
  have hcarries : inRange 2 5 (s.nat (kPortState n)) = true := by simp [inRange]; omega
  have hst5 : ¬ s.nat (kPortState n) = 5 := by omega
  have hst1 : ¬ s.nat (kPortState n) = 1 := by omega
  have huntimed : s.untimed = false := by simp [State.untimed, htime, hnum]
  have hfec : s.fecCount n {} = s := rfl
  have hdrift := portTold_drift s n (s.arrivalDelta n b a)
  have hguard : (s.drift n (s.arrivalDelta n b a)).beyondGuard (s.arrivalDelta n b a) = false := by
    simpa [State.beyondGuard, hdrift.guardEff] using hδ
  have hst4 : ¬ (s.drift n (s.arrivalDelta n b a)).nat (kPortState n) = 4 := by rw [hdrift.portState]; omega
  have hcell : s.cellIn n b a {} = s.markerIn n b a := by
    unfold State.cellIn
    simp [hcarries, hfec, hok, hst5, htyp, Nat.not_le.2 hn]
  refine (if_pos htyp).trans ((if_neg (fun h => hst1 h.1)).trans (congrArg Host.Outcome.next (hcell.trans ?_)))
  unfold State.markerIn
  dsimp only
  rw [if_neg (by simp [huntimed]), hguard, if_neg (by decide), if_neg hst4]
  rfl

/-- What a timed marker within the guard band leaves (R410 to R413). -/
theorem markerReceived_leaves (hn : n < 16) (hlo : 2 ≤ s.nat (kPortState n)) (hhi : s.nat (kPortState n) ≤ 3)
    (hok : cellOk b = true) (htyp : byteField b 0 1 % 16 = 1) (htime : s.timing ≠ 0) (hnum : s.numbered = true)
    (hδ : δ = s.arrivalDelta n b a) (hguard : δ.natAbs ≤ 4 * s.guardEff) (hfits : δ.natAbs < 2 ^ 31) :
    ∃ t, exec (.markerReceived n b a {}) s = .next t ∧ t.nat (kViolRun n) = 0 ∧
      (t.reg (kDriftLast n)).toInt = δ ∧
      t.nat (kPeerId n) = byteField b 26 2 + byteField b 28 1 % 16 * 2 ^ 16 ∧
      (t.port n).peerMuted = bitOf (byteField b 29 1) 0 ∧ (t.port n).peerReady = bitOf (byteField b 29 1) 1 ∧
      (byteField b 24 1 = 2 → byteField b 25 1 ≤ 6 → (t.port n).mkHop = byteField b 25 1 ∧ (t.port n).mkGot = true ∧
        (t.port n).mkRun = (s.port n).mkRun + 1 ∧ (t.port n).mkOff = some (s.markerOffset n (byteField b 16 8) a) ∧
        (s.tb.selected = 3 + n → t.nat kHopCount = byteField b 25 1 + 1)) ∧
      t.nat (kSlotViolations n) = s.nat (kSlotViolations n) ∧ memoryKept s t ∧ workKept s t := by
  obtain ⟨l, hl⟩ : ∃ l, (b.drop 16).take 32 = l := ⟨_, rfl⟩
  have hfield : ∀ off k, off + k ≤ 32 → byteField l off k = byteField b (16 + off) k := fun off k h => hl ▸ byteField_payload b h
  have hpeer : peerOf l = byteField b 26 2 + byteField b 28 1 % 16 * 2 ^ 16 := hl ▸ peerOf_payload b
  have htaken := told_cellTaken s n b a
  obtain ⟨-, hrun⟩ := nat_cellTaken s n b a
  have hexec := markerReceived_timed (s := s) (n := n) hn hlo hhi hok htyp htime hnum (hδ ▸ hguard)
  have hlast : ((cellTaken s n b a).reg (kDriftLast n)).toInt = δ := by
    have hkept : (cellTaken s n b a).reg (kDriftLast n) = (s.drift n δ).reg (kDriftLast n) := by
      rw [hδ]
      exact (State.reg_setNat_other _ _ (by simp [kDriftLast, kViolRun])).trans
        (State.reg_setNat_other _ _ (by simp [kDriftLast, kCellsRx]))
    rw [hkept, reg_drift hfits]
  rw [hl, ← hδ] at hexec
  obtain ⟨u, hu⟩ : ∃ u, cellTaken s n b a = u := ⟨_, rfl⟩
  rw [hu] at hexec htaken hrun hlast
  have hmark := markerTold_keeps u n δ a l
  have htoldPeer := peerTold_leaves u n l
  have harrive : PortTold (arrivalSlots n) s (u.peerTold n l) :=
    (htaken.portTold.trans htoldPeer.1).mono (by simp [arrivalSlots])
  have hheard := heardOf_markerTold u n δ a l
  simp only [heardOf, Prod.mk.injEq] at hheard
  obtain ⟨hmuted, hready, -, hhop, hgot, hmrun, hoff⟩ := hheard
  refine ⟨_, hexec, ?_, ?_, ?_, ?_, ?_, ?_, ?_, ?_, ?_⟩
  · rw [hmark.nat (by simp [markerSlots, kViolRun, kPeerId, kPortEvents, kHopCount, kTxMuted]; omega), hrun]
  · rw [hmark.reg (by simp [markerSlots, kDriftLast, kPeerId, kPortEvents, kHopCount, kTxMuted]; omega), hlast]
  · rw [nat_markerTold_peer, hpeer]
  · rw [hmuted, markedPort, hfield 13 1 (by decide)]
  · rw [hready, markedPort, htoldPeer.2.2, hfield 13 1 (by decide)]
  · intro hlocked hfew
    have href : refMarker l = true := by
      simp [refMarker, hfield 8 1 (by decide), hfield 9 1 (by decide), hlocked, hfew]
    refine ⟨?_, ?_, ?_, ?_, fun hsel => ?_⟩
    · exact hhop.trans ((if_pos href).trans (hfield 9 1 (by decide)))
    · rw [hgot, markedPort, href, Bool.or_true]
    · refine hmrun.trans ((if_pos href).trans ?_)
      rw [htoldPeer.2.2, htaken.port]
    · refine hoff.trans ((if_pos href).trans ?_)
      rw [harrive.markerOffset, hfield 0 8 (by decide)]
    · rw [nat_markerTold_hop u n δ a l href (htaken.tb ▸ hsel), hfield 9 1 (by decide)]
  · rw [hmark.nat (by simp [markerSlots, kSlotViolations, kPeerId, kPortEvents, kHopCount, kTxMuted]; omega),
      htaken.nat (by simp [kSlotViolations, kCellsRx, kViolRun, kDriftLast, kDriftPeak])]
  · exact htaken.quiet.memoryKept.trans hmark.memory
  · exact workKept.trans htaken.quiet.workKept hmark.work

/-- A MARKER where the device runs free: the port hears whose it is (R411, R415). -/
theorem markerReceived_freerun (hn : n < 16) (hlo : 1 ≤ s.nat (kPortState n)) (hhi : s.nat (kPortState n) ≤ 5)
    (hok : cellOk b = true) (htyp : byteField b 0 1 % 16 = 1) (htime : s.timing = 0) : exec (.markerReceived n b a {}) s =
      .next (if s.nat (kPortState n) = 1 ∨ s.nat (kPortState n) = 5 then s.peerTold n ((b.drop 16).take 32)
        else (s.wrapAdd (kCellsRx n)).markerTold n 0 a ((b.drop 16).take 32)) := by
  have huntimed : s.untimed = true := by simp [State.untimed, htime]
  have hfec : s.fecCount n {} = s := rfl
  refine (if_pos htyp).trans ?_
  by_cases h1 : s.nat (kPortState n) = 1
  · have hhears : s.nat (kPortState n) = 1 ∨ s.nat (kPortState n) = 5 := .inl h1
    exact (if_pos ⟨h1, hok, rfl, hn⟩).trans (congrArg Host.Outcome.next (if_pos hhears).symm)
  · have hcarries : inRange 2 5 (s.nat (kPortState n)) = true := by simp [inRange]; omega
    refine (if_neg fun h => h1 h.1).trans (congrArg Host.Outcome.next ?_)
    by_cases h5 : s.nat (kPortState n) = 5
    · unfold State.cellIn
      rw [h5] at hcarries
      simp [hcarries, hfec, hok, h5, htyp, Nat.not_le.2 hn]
    · unfold State.cellIn State.markerIn
      simp [hcarries, hfec, hok, h1, h5, htyp, huntimed, Nat.not_le.2 hn]

/-- What a port keeps while it hears whose marker it is. -/
def PeerHeard (s t : State) (n peer : Nat) : Prop :=
  t.nat (kPeerId n) = peer ∧ (t.port n).wiring = s.miswired n peer ∧
  t.nat (kSlotViolations n) = s.nat (kSlotViolations n) ∧ t.nat (kPortState n) = s.nat (kPortState n) ∧ memoryKept s t ∧
  workKept s t

theorem peerHeard_peerTold (s : State) (n : Nat) (l : List Byte) : PeerHeard s (s.peerTold n l) n (peerOf l) := by
  obtain ⟨htold, hpeer, hport⟩ := peerTold_leaves s n l
  exact ⟨hpeer, congrArg PortSt.wiring hport, htold.nat (by simp [kSlotViolations, kPeerId, kPortEvents]),
    htold.nat (by simp [kPortState, kPeerId, kPortEvents]), htold.memory, htold.work⟩

theorem peerHeard_markerTold (s : State) (n : Nat) (l : List Byte) :
    PeerHeard s ((s.wrapAdd (kCellsRx n)).markerTold n 0 a l) n (peerOf l) := by
  have hcount := told_wrapAdd s (kCellsRx n) 1 64
  obtain ⟨u, hu⟩ : ∃ u, s.wrapAdd (kCellsRx n) = u := ⟨_, rfl⟩
  have hmis : u.miswired n (peerOf l) = s.miswired n (peerOf l) := by
    have hexpect : u.nat (kPeerExpect n) = s.nat (kPeerExpect n) := by
      rw [← hu]
      exact State.nat_setNat_other _ _ (by simp [kPeerExpect, kCellsRx])
    have hdim : u.nat kPlaneDim = s.nat kPlaneDim := by
      rw [← hu]
      exact State.nat_setNat_other _ _ (by unfold kPlaneDim kCellsRx; omega)
    have hx : u.dimX = s.dimX := by rw [State.dimX, hdim, State.dimX]
    have hy : u.dimY = s.dimY := by rw [State.dimY, hdim, State.dimY]
    have hback : u.backPort n = s.backPort n := by rw [State.backPort, hx, hy, State.backPort]
    simp only [State.miswired, State.wrongPeer, State.wrongPort, hexpect, hback]
  rw [hu] at hcount ⊢
  have hmark := markerTold_keeps u n 0 a l
  have hheard := heardOf_markerTold u n 0 a l
  simp only [heardOf, Prod.mk.injEq] at hheard
  obtain ⟨-, -, hwire, -⟩ := hheard
  refine ⟨nat_markerTold_peer .., ?_, ?_, ?_, hcount.quiet.memoryKept.trans hmark.memory,
    workKept.trans hcount.quiet.workKept hmark.work⟩
  · rw [hwire, markedPort, (peerTold_leaves u n l).2.2, hmis]
  · rw [hmark.nat (by simp [markerSlots, kSlotViolations, kPeerId, kPortEvents, kHopCount, kTxMuted]; omega),
      hcount.nat (by simp [kSlotViolations, kCellsRx])]
  · rw [hmark.nat (by simp [markerSlots, kPortState, kPeerId, kPortEvents, kHopCount, kTxMuted]; omega),
      hcount.nat (by simp [kPortState, kCellsRx])]

/-- A cell that no slot's rules cover counts in RX_UNTIMED (R415, R427). -/
theorem cellReceived_untimed (hn : n < 16) (hok : cellOk b = true) (htyp : byteField b 0 1 % 16 ≠ 1)
    (h : 2 ≤ s.nat (kPortState n) ∧ s.nat (kPortState n) ≤ 4 ∧ s.untimed = true ∨
      s.nat (kPortState n) = 5 ∧ byteField b 0 1 % 16 ≠ 6) :
    exec (.cellReceived n b a {}) s = .next (s.bump (kRxUntimed n)) := by
  have hcarries : inRange 2 5 (s.nat (kPortState n)) = true := by simp [inRange]; omega
  have hfec : s.fecCount n {} = s := rfl
  refine congrArg Host.Outcome.next ?_
  unfold State.cellIn
  obtain ⟨-, hhi, huntimed⟩ | ⟨h5, hsix⟩ := h
  · have hst : ¬ s.nat (kPortState n) = 5 := by omega
    simp [hcarries, hfec, hok, hst, htyp, huntimed, Nat.not_le.2 hn]
  · rw [h5] at hcarries
    simp [hcarries, hfec, hok, h5, htyp, hsix, Nat.not_le.2 hn]

/-- A cell that is not well formed, in a slot of which no collective and no RHIZOID waits, is counted only (R401). -/
theorem cellReceived_malformed (hn : n < 16) (hlo : 2 ≤ s.nat (kPortState n)) (hhi : s.nat (kPortState n) ≤ 5)
    (hbad : cellOk b = false) (hclass : slotClass (s.rxEntry n (byteField b 2 2 % 1024)) = 3) :
    exec (.cellReceived n b a {}) s = .next (s.bump (kCellErrors n)) := by
  have hcarries : inRange 2 5 (s.nat (kPortState n)) = true := by simp [inRange]; omega
  have hfec : s.fecCount n {} = s := rfl
  have hbump : PortTold (arrivalSlots n) s (s.bump (kCellErrors n)) :=
    (told_bump s (kCellErrors n) 1 32).portTold.mono (by simp [arrivalSlots])
  have hlost : (s.bump (kCellErrors n)).cellLost n b = s.bump (kCellErrors n) := by
    have hclass' := hclass
    rw [← hbump.rxEntry (Nat.mod_lt _ (by decide))] at hclass'
    simp [State.cellLost, hclass']
  refine congrArg Host.Outcome.next ?_
  unfold State.cellIn
  simp [hcarries, hfec, hbad, hlost, Nat.not_le.2 hn]

end Markers

/-- Settles O22: cells are accepted or counted by their deviation and their slot, and a marker leaves what it tells. -/
theorem arrivals : Obligations.Arrivals := by
  refine ⟨?_, ?_, ?_, ?_, ?_, ?_, ?_, ?_, ?_, ?_⟩
  · intro s n b a hn hlo hhi hok htyp htime hnum hwire hguard hslot hsuits hlimit
    have hgood : ¬ cellBad s n b a := by simp [cellBad, hsuits]; omega
    refine ⟨_, rfl, (cellIn_timed hn hlo (by omega) hok htyp htime hnum).trans (congrArg Host.Outcome.next ?_)⟩
    exact timedIn_taken (by omega) hok hgood hwire
  · intro s n w b a hn hlo hhi hok htyp htime hnum hwire hguard hslot hclass hlimit hw hclosed hwin hoff
    have hsuits : typeSuits (byteField b 0 1 % 16) (byteField b 8 1) (s.rxEntry n (byteField b 2 2)) = true := by
      rw [htyp]
      simpa [typeSuits] using hclass
    have hgood : ¬ cellBad s n b a := by simp [cellBad, hsuits]; omega
    have htaken := told_cellTaken s n b a
    obtain ⟨hrx, hrun⟩ := nat_cellTaken s n b a
    have hin := (cellIn_timed (a := a) hn hlo (by omega) hok (by omega) htime hnum).trans
      (congrArg Host.Outcome.next (timedIn_taken (a := a) (by omega) hok hgood hwire))
    obtain ⟨u, hu⟩ : ∃ u, cellTaken s n b a = u := ⟨_, rfl⟩
    rw [hu] at hin htaken hrx hrun
    have hclosedU : u.nat (kWinState w) = 0 :=
      (htaken.nat (by simp [kWinState, kCellsRx, kViolRun, kDriftLast, kDriftPeak]; omega)).trans hclosed
    have hwinU : u.win w = {} := by
      have hwindows : u.windows = s.windows := htaken.quiet.field State.windows
      simpa only [State.win, hwindows] using hwin
    have hland : u.deliver n (byteField b 0 1 % 16) (byteField b 8 1) (byteField b 10 4) a
        ((b.drop 16).take (byteField b 9 1 + 1)) =
        u.setWin w { passed := [(byteField b 10 4 * 256, ((b.drop 16).take (byteField b 9 1 + 1)).take 64)] } := by
      rw [htyp, ← landData_closed hclosedU hwinU hoff, hw]
      rfl
    rw [hland] at hin
    exact ⟨_, hin, congrArg WinSt.passed (win_setWin_same u w _), hrx, hrun, htaken.slots, htaken.quiet.memoryKept,
      htaken.quiet.workKept⟩
  · intro s n b a hn hlo hhi hok htyp htime hnum hrun hbad
    have hin := (cellIn_timed (a := a) hn hlo (by omega) hok (by omega) htime hnum).trans
      (congrArg Host.Outcome.next (timedIn_refused (a := a) (by omega) hok hbad))
    rw [cellRefused_other htyp] at hin
    have hdrift := told_drift s n (s.arrivalDelta n b a)
    have hkept : ∀ k ∈ [kSlotViolations n, kViolRun n, kPortState n],
        (s.drift n (s.arrivalDelta n b a)).nat k = s.nat k := fun k hk => hdrift.nat (by
      simp only [List.mem_cons, List.not_mem_nil, or_false] at hk
      simp only [List.mem_cons, List.not_mem_nil, or_false, kSlotViolations, kViolRun, kPortState, kDriftLast, kDriftPeak] at hk ⊢
      omega)
    have hrunD : (s.drift n (s.arrivalDelta n b a)).nat (kViolRun n) < 7 := by rwa [hkept _ (by simp)]
    rw [violation_below hrunD] at hin
    have hviol := told_violated (s.drift n (s.arrivalDelta n b a)) n
    obtain ⟨hcount, hnext⟩ := nat_violated (s.drift n (s.arrivalDelta n b a)) n
    refine ⟨_, hin, ?_, ?_, ?_, hdrift.quiet.memoryKept.trans hviol.quiet.memoryKept,
      workKept.trans hdrift.quiet.workKept hviol.quiet.workKept, (hdrift.trans hviol).slots.mono (by simp)⟩
    · rw [hcount, hkept _ (by simp)]
    · rw [hnext, hkept _ (by simp)]
      omega
    · rw [hviol.nat (by simp [kPortState, kSlotViolations, kViolRun]), hkept _ (by simp)]
  · intro s n b a hn hlo hhi hok htyp htime hnum hrun hbad
    have hin := (cellIn_timed (a := a) hn hlo (by omega) hok (by omega) htime hnum).trans
      (congrArg Host.Outcome.next (timedIn_refused (a := a) (by omega) hok (.inl hbad)))
    rw [cellRefused_other htyp] at hin
    have hdrift := told_drift s n (s.arrivalDelta n b a)
    have hst := hdrift.nat (k := kPortState n) (by simp [kPortState, kDriftLast, kDriftPeak])
    have hmutes := hdrift.nat (k := kViolMutes n) (by simp [kViolMutes, kDriftLast, kDriftPeak])
    have hrunD := (hdrift.nat (k := kViolRun n) (by simp [kViolRun, kDriftLast, kDriftPeak])).trans hrun
    have hleaves := violation_eighth_leaves hrunD (by rw [hst]; omega)
    rw [hst, hmutes] at hleaves
    exact ⟨_, hin, hleaves⟩
  · intro s n b a hn hlo hhi hok htyp hun
    refine cellReceived_untimed hn hok htyp (.inl ⟨hlo, hhi, ?_⟩)
    simpa [State.untimed] using hun
  · exact fun s n b a hn h5 hok htyp hsix => cellReceived_untimed hn hok htyp (.inr ⟨h5, hsix⟩)
  · exact fun s n b a hn hlo hhi hbad hclass => cellReceived_malformed hn hlo hhi hbad hclass
  · exact fun s n b a δ hn hlo hhi hok htyp htime hnum hδ hguard hfits =>
      markerReceived_leaves hn hlo hhi hok htyp htime hnum hδ hguard hfits
  · intro s n b a hn hlo hhi hok htyp htime
    have hpeer := peerOf_payload b
    refine ⟨_, markerReceived_freerun hn hlo hhi hok htyp htime, ?_⟩
    rw [← hpeer]
    split
    · exact peerHeard_peerTold ..
    · exact peerHeard_markerTold ..
  · intro s n b a h
    by_cases htyp : byteField b 0 1 % 16 = 1
    · have hdown : s.nat (kPortState n) = 0 := h.resolve_left (not_not_intro htyp)
      have hstill : s.cellIn n b a {} = s := by
        unfold State.cellIn
        simp [hdown, inRange]
      refine (if_pos htyp).trans ((if_neg fun h1 => ?_).trans (congrArg Host.Outcome.next hstill))
      exact absurd (hdown.symm.trans h1.1) (by decide)
    · exact if_neg htyp

end Sys2Proof.Safety

namespace Sys2Proof.Safety

open Sys2Proof.Machine

/-! ### Ethernet ports (O23) -/

section Ethernet

variable {s t u : State} {e q psn : Nat}

/-- The headers of a queue pair's packets stay where the entries of its port and its own stay. -/
theorem ethHead_congr (hocts : t.octs = s.octs)
    (hregs : ∀ k ∈ [kMacAddr e, kIpv4Addr e, kVlan e, kPfcPrio e, kDscp e, kRemoteQpn q], t.nat k = s.nat k) :
    t.ethHead e q = s.ethHead e q := by
  have hoct : ∀ k n, t.octBytes k n = s.octBytes k n := fun k n => by simp only [State.octBytes, State.oct, hocts]
  rw [State.ethHead, hregs (kMacAddr e) (by simp), hregs (kIpv4Addr e) (by simp), hregs (kVlan e) (by simp),
    hregs (kPfcPrio e) (by simp), hregs (kDscp e) (by simp), hregs (kRemoteQpn q) (by simp), hoct, hoct, State.ethHead]

/-- A message goes out once more. -/
def resend (e q : Nat) (s : State) (m : QpMsg) : State := s.emit (.roce (s.ethHead e q) q m.psn m.va m.rkey m.bytes)

/-- Messages that go out once more are sent in order and change nothing else. -/
theorem resent (l : List QpMsg) : ∀ s : State, l.foldl (resend e q) s =
    { s with out := s.out ++ l.map fun m => .roce (s.ethHead e q) q m.psn m.va m.rkey m.bytes } := by
  induction l with
  | nil => intro s; simp
  | cons m l ih =>
    intro s
    have hhead : (resend e q s m).ethHead e q = s.ethHead e q := ethHead_congr rfl fun _ _ => rfl
    rw [List.foldl_cons, ih, hhead]
    simp [resend, State.emit]

/-- The state of a queue pair whose unacknowledged messages are owed again, before they go out (Table 10.8). -/
def owedAgain (s : State) (e q psn : Nat) : State :=
  (s.setQp q { s.qp q with sent := unacked ((psn + 2 ^ 24 - 1) % 2 ^ 24) (s.qp q).sent, retries := (s.qp q).retries + 1 }).bump
    (kPsnRetries e)

theorem qp_setQp_same (s : State) (q : Nat) (v : QpSt) : (s.setQp q v).qp q = v := Tbl.get_set_same ..

theorem exec_nak (he : e < 4) (hon : s.qpOn q e = true) (hretries : (s.qp q).retries < 7) :
    exec (.rocePacketReceived e (.nak q psn)) s =
      .next ((unacked ((psn + 2 ^ 24 - 1) % 2 ^ 24) (s.qp q).sent).foldl (resend e q) (owedAgain s e q psn)) := by
  refine (if_pos he).trans (congrArg Host.Outcome.next ?_)
  exact (if_neg (by simp [hon])).trans (if_pos hretries)

theorem ethHead_owedAgain (s : State) (e q psn : Nat) : (owedAgain s e q psn).ethHead e q = s.ethHead e q := by
  refine ethHead_congr rfl fun k hk => State.nat_setNat_other _ _ ?_
  simp only [List.mem_cons, List.not_mem_nil, or_false] at hk
  unfold kMacAddr kIpv4Addr kVlan kPfcPrio kDscp kRemoteQpn at hk
  unfold kPsnRetries
  omega

/-- A NAK sends what it does not cover once more (Table 10.8). -/
theorem nak_leaves (he : e < 4) (hon : s.qpOn q e = true) (hretries : (s.qp q).retries < 7) :
    ∃ t, exec (.rocePacketReceived e (.nak q psn)) s = .next t ∧ (t.qp q).retries = (s.qp q).retries + 1 ∧
      (t.qp q).sent = unacked ((psn + 2 ^ 24 - 1) % 2 ^ 24) (s.qp q).sent ∧
      t.out = s.out ++ (t.qp q).sent.map (fun m => .roce (s.ethHead e q) q m.psn m.va m.rkey m.bytes) ∧
      t.nat (kPsnRetries e) = satAdd 32 (s.nat (kPsnRetries e)) 1 ∧ slotsKept s t [kPsnRetries e] ∧ memoryKept s t := by
  have hqp : (owedAgain s e q psn).qp q =
      { s.qp q with sent := unacked ((psn + 2 ^ 24 - 1) % 2 ^ 24) (s.qp q).sent, retries := (s.qp q).retries + 1 } :=
    qp_setQp_same ..
  have hcount : (owedAgain s e q psn).nat (kPsnRetries e) = satAdd 32 (s.nat (kPsnRetries e)) 1 := nat_bump_same _ _ _ (by decide)
  have hslots : slotsKept s (owedAgain s e q psn) [kPsnRetries e] := fun k hk => State.reg_setNat_other _ _ (by simpa using hk)
  have hmem : memoryKept s (owedAgain s e q psn) := (Quiet.refl s).memoryKept
  have hout : (owedAgain s e q psn).out = s.out := rfl
  have hhead := ethHead_owedAgain s e q psn
  have hexec := exec_nak (psn := psn) he hon hretries
  rw [resent] at hexec
  obtain ⟨v, hv⟩ : ∃ v, owedAgain s e q psn = v := ⟨_, rfl⟩
  rw [hv] at hqp hcount hslots hmem hout hhead hexec
  refine ⟨_, hexec, congrArg QpSt.retries hqp, congrArg QpSt.sent hqp, ?_, hcount, hslots, hmem⟩
  have hsent : (v.qp q).sent = unacked ((psn + 2 ^ 24 - 1) % 2 ^ 24) (s.qp q).sent := congrArg QpSt.sent hqp
  show v.out ++ _ = s.out ++ (v.qp q).sent.map _
  rw [hout, hhead, hsent]

/-- A queue pair that names no stream enters ERROR alone (R433). -/
theorem qpError_noStream (hq : q < 256) (hst : s.nat (kQpState q) = 1) (hsent : (s.qp q).sent ≠ [])
    (hnone : ∀ st, st < 256 → s.nat (kTransport st) ≠ 1) :
    exec (.qpError q) s = .next ((s.setNat (kQpState q) 2).setQp q { s.qp q with sent := [] }) := by
  have hgo : ¬ (256 ≤ q ∨ s.nat (kQpState q) ≠ 1 ∨ (s.qp q).sent = []) := by simp [hq, hst, hsent]
  refine congrArg Host.Outcome.next ((if_neg hgo).trans ?_)
  obtain ⟨u, hu⟩ : ∃ u, (s.setNat (kQpState q) 2).setQp q { s.qp q with sent := [] } = u := ⟨_, rfl⟩
  have htransport : ∀ st, u.nat (kTransport st) = s.nat (kTransport st) := fun st => by
    rw [← hu]
    exact State.nat_setNat_other s _ (by unfold kTransport kQpState; omega)
  dsimp only at hu ⊢
  rw [hu]
  have hfold : ∀ l : List Nat, (∀ st ∈ l, st < 256) → l.foldl (fun (s : State) st =>
      if s.nat (kTransport st) = 1 ∧ s.streamQp st = q ∧ s.streamUp st = true
      then (s.setNat (kStreamCtrl st) 2).abandonStream st 0x0A 3 else s) u = u := by
    intro l
    induction l with
    | nil => exact fun _ => rfl
    | cons st l ih =>
      intro hl
      have hno : ¬ (u.nat (kTransport st) = 1 ∧ u.streamQp st = q ∧ u.streamUp st = true) := fun h =>
        hnone st (hl st (List.mem_cons_self ..)) ((htransport st).symm.trans h.1)
      rw [List.foldl_cons, if_neg hno]
      exact ih fun x hx => hl x (List.mem_cons_of_mem _ hx)
  exact hfold _ fun st hst => by have := mem_countFrom.1 hst; omega

end Ethernet

/-- Settles O23: packets of no queue pair are counted, acknowledgements cover what was sent, and a NAK sends the rest again. -/
theorem ethernetPorts : Obligations.EthernetPorts := by
  refine ⟨?_, ?_, ?_, ?_, ?_, ?_, ?_, ?_⟩
  · intro s e q psn he hoff
    exact ⟨(if_pos he).trans (congrArg Host.Outcome.next (if_pos hoff)), (if_pos he).trans (congrArg Host.Outcome.next (if_pos hoff)),
      (if_pos he).trans (congrArg Host.Outcome.next (if_pos hoff)),
      fun va rkey l ce => (if_pos he).trans (congrArg Host.Outcome.next (if_pos hoff))⟩
  · exact fun s e he => if_pos he
  · exact fun s e q psn he hon => (if_pos he).trans (congrArg Host.Outcome.next (if_neg (by simp [hon])))
  · exact fun s e q psn he hon hretries => nak_leaves he hon hretries
  · intro s e q psn va rkey off l he hon hplace
    refine (if_pos he).trans (congrArg Host.Outcome.next ((if_neg (by simp [hon])).trans ?_))
    simp only [hplace, Bool.false_eq_true, if_false]
  · exact fun s q hq hst hsent hnone => qpError_noStream hq hst hsent hnone
  · exact fun s e he => if_pos he
  · exact fun s e he => if_pos he

end Sys2Proof.Safety

namespace Sys2Proof.Safety

open Sys2Proof.Machine

/-! ### Acknowledgements as bytes (R358) -/

section AckBytes

theorem byteField_skip {a : List Byte} {m : Nat} (ha : a.length = m) (b : List Byte) (k n : Nat) :
    byteField (a ++ b) (m + k) n = byteField b k n := by
  subst ha
  rw [byteField, byteField, List.drop_append, List.drop_eq_nil_of_le (by omega), List.nil_append, Nat.add_sub_cancel_left]

theorem byteField_leBytes (n v : Nat) (b : List Byte) : byteField (leBytes n v ++ b) 0 n = v % 256 ^ n := by
  rw [byteField, List.drop_zero, List.take_left' (length_leBytes n v), leNat_leBytes]

/-- The bytes of an acknowledgement that its CRC covers. -/
def ackBody (seqno bytes st epoch nak : Nat) : List Byte :=
  leBytes 8 seqno ++ (leBytes 8 bytes ++ (leBytes 2 st ++ (leBytes 2 epoch ++ (leBytes 1 nak ++ List.replicate 7 0))))

variable {seqno bytes st epoch nak : Nat}

theorem formAck_eq : formAck seqno bytes st epoch nak =
    ackBody seqno bytes st epoch nak ++ leBytes 4 (crc32c (ackBody seqno bytes st epoch nak)) := by
  simp only [formAck, ackBody, List.append_assoc]

theorem length_ackBody : (ackBody seqno bytes st epoch nak).length = 28 := by
  simp [ackBody, length_leBytes]

theorem length_formAck : (formAck seqno bytes st epoch nak).length = 32 := by
  simp [formAck_eq, length_ackBody, length_leBytes]

theorem take_formAck : (formAck seqno bytes st epoch nak).take 28 = ackBody seqno bytes st epoch nak := by
  rw [formAck_eq, List.take_left' length_ackBody]

/-- The fields of an acknowledgement read back. -/
theorem byteField_formAck : byteField (formAck seqno bytes st epoch nak) 0 8 = seqno % 2 ^ 64 ∧
    byteField (formAck seqno bytes st epoch nak) 8 8 = bytes % 2 ^ 64 ∧
    byteField (formAck seqno bytes st epoch nak) 16 2 = st % 2 ^ 16 ∧
    byteField (formAck seqno bytes st epoch nak) 18 2 = epoch % 2 ^ 16 ∧
    byteField (formAck seqno bytes st epoch nak) 20 1 = nak % 2 ^ 8 := by
  have h8 : ∀ v, (leBytes 8 v).length = 8 := length_leBytes 8
  have h2 : ∀ v, (leBytes 2 v).length = 2 := length_leBytes 2
  rw [formAck_eq, ackBody]
  simp only [List.append_assoc]
  refine ⟨byteField_leBytes 8 _ _, ?_, ?_, ?_, ?_⟩
  · exact (byteField_skip (h8 _) _ 0 8).trans (byteField_leBytes 8 _ _)
  · exact (byteField_skip (h8 _) _ 8 2).trans ((byteField_skip (h8 _) _ 0 2).trans (byteField_leBytes 2 _ _))
  · exact (byteField_skip (h8 _) _ 10 2).trans ((byteField_skip (h8 _) _ 2 2).trans ((byteField_skip (h2 _) _ 0 2).trans
      (byteField_leBytes 2 _ _)))
  · exact (byteField_skip (h8 _) _ 12 1).trans ((byteField_skip (h8 _) _ 4 1).trans ((byteField_skip (h2 _) _ 2 1).trans
      ((byteField_skip (h2 _) _ 0 1).trans (byteField_leBytes 1 _ _))))

theorem crcShiftR_lt {poly : Nat} (hpoly : poly < 2 ^ 32) (n : Nat) : ∀ {c}, c < 2 ^ 32 → crcShiftR poly n c < 2 ^ 32 := by
  induction n with
  | zero => exact fun h => h
  | succ n ih =>
    intro c hc
    have hhalf : c / 2 < 2 ^ 32 := by omega
    rw [crcShiftR]
    split
    · exact ih (Nat.xor_lt_two_pow hhalf hpoly)
    · exact ih hhalf

theorem crc32c_lt (l : List Byte) : crc32c l < 2 ^ 32 := by
  have hstep : ∀ c < 2 ^ 32, ∀ b : Byte, crcShiftR 0x82F63B78 8 (c ^^^ b.toNat) < 2 ^ 32 := fun c hc b =>
    crcShiftR_lt (by decide) 8 (Nat.xor_lt_two_pow hc (b.isLt.trans (by decide)))
  have hrun : ∀ (l : List Byte) (c : Nat), c < 2 ^ 32 →
      l.foldl (fun c b => crcShiftR 0x82F63B78 8 (c ^^^ b.toNat)) c < 2 ^ 32 := by
    intro l
    induction l with
    | nil => exact fun c hc => hc
    | cons b l ih => exact fun c hc => ih _ (hstep c hc b)
  rw [crc32c, crcRun_eq]
  exact Nat.xor_lt_two_pow (hrun l _ (by decide)) (by decide)

/-- The CRC of an acknowledgement checks. -/
theorem crc_formAck : byteField (formAck seqno bytes st epoch nak) 28 4 =
    crc32c ((formAck seqno bytes st epoch nak).take 28) := by
  have hfield := (byteField_skip (length_ackBody (seqno := seqno) (bytes := bytes) (st := st) (epoch := epoch) (nak := nak))
    (leBytes 4 (crc32c (ackBody seqno bytes st epoch nak))) 0 4).trans
    ((congrArg (byteField · 0 4) (List.append_nil _).symm).trans (byteField_leBytes 4 _ []))
  rw [take_formAck, formAck_eq]
  exact hfield.trans (Nat.mod_eq_of_lt (crc32c_lt _))

end AckBytes

/-! ### Acknowledgements and retransmissions of a stream (R358 to R363) -/

section Acks

variable {s t u : State} {st seqno bytes : Nat}

/-- An acknowledgement that fails a test. -/
def ackBad (s : State) (st : Nat) (a : List Byte) : Prop :=
  a.length ≠ 32 ∨ byteField a 28 4 ≠ crc32c (a.take 28) ∨ byteField a 16 2 ≠ st ∨
    byteField a 18 2 ≠ s.nat (kStreamEpoch st) ∨ byteField a 0 8 < s.nat (kAckSeqno st) ∨
    s.nat (kNextSeqno st) < byteField a 0 8 ∨ (s.stream st).byteOff < byteField a 8 8

theorem applyAck_bad {a : List Byte} (h : ackBad s st a) : s.applyAck st a = s.bump (kAckInvalid st) := if_pos h

/-- A stream once a valid acknowledgement up to `seqno` has ended the wait of its records. -/
def ackedStream (s : State) (st seqno : Nat) : StreamSt :=
  { s.stream st with sent := (s.stream st).sent.filter fun r => decide (seqno ≤ r.seqno),
                     again := (s.stream st).again.filter fun r => decide (seqno ≤ r.seqno),
                     retries := if s.nat (kAckSeqno st) < seqno then 0 else (s.stream st).retries }

/-- The state once a valid acknowledgement has moved ACK_SEQNO and ACK_BYTES. -/
def acked (s : State) (st seqno bytes : Nat) : State :=
  ((s.setStream st (ackedStream s st seqno)).setNat (kAckSeqno st) seqno).setNat (kAckBytes st) (max bytes (s.nat (kAckBytes st)))

/-- FENCE records need nothing more once they are acknowledged (R515). -/
theorem recAcked_fences (l : List SentRec) (h : ∀ r ∈ l, r.src = .fence) : l.foldl (fun s r => s.recAcked st r) s = s := by
  induction l generalizing s with
  | nil => rfl
  | cons r l ih =>
    have hr : s.recAcked st r = s := by rw [State.recAcked, h r (List.mem_cons_self ..)]
    rw [List.foldl_cons, hr]
    exact ih fun x hx => h x (List.mem_cons_of_mem _ hx)

theorem applyAck_good (hst : st < 256) (hlo : s.nat (kAckSeqno st) ≤ seqno) (hhi : seqno ≤ s.nat (kNextSeqno st))
    (hoff : bytes ≤ (s.stream st).byteOff) (hbytes : bytes < 2 ^ 64) (hepoch : s.nat (kStreamEpoch st) < 2 ^ 16)
    (hsrc : ∀ r ∈ (s.stream st).sent ++ (s.stream st).again, r.src = .fence) :
    s.applyAck st (formAck seqno bytes st (s.nat (kStreamEpoch st)) 0) = acked s st seqno bytes := by
  obtain ⟨hseq, hb, hs, he, hnak⟩ := byteField_formAck (seqno := seqno) (bytes := bytes) (st := st)
    (epoch := s.nat (kStreamEpoch st)) (nak := 0)
  have hseqno : seqno < 2 ^ 64 := lt_of_le_of_lt hhi (BitVec.isLt _)
  rw [Nat.mod_eq_of_lt hseqno] at hseq
  rw [Nat.mod_eq_of_lt hbytes] at hb
  rw [Nat.mod_eq_of_lt (by omega)] at hs
  rw [Nat.mod_eq_of_lt hepoch] at he
  have hgood : ¬ ackBad s st (formAck seqno bytes st (s.nat (kStreamEpoch st)) 0) := by
    simp only [ackBad, length_formAck, crc_formAck, hseq, hb, hs, he]
    omega
  refine (if_neg hgood).trans ?_
  dsimp only
  rw [hseq, hb, hnak, if_neg (by decide)]
  exact recAcked_fences _ fun r hr => hsrc r (List.mem_of_mem_filter hr)

/-- What a valid acknowledgement leaves (R358 to R360). -/
theorem acked_leaves (s : State) (st : Nat) {seqno bytes : Nat} (hseqno : seqno < 2 ^ 64) (hbytes : bytes < 2 ^ 64) :
    (acked s st seqno bytes).nat (kAckSeqno st) = seqno ∧
    (acked s st seqno bytes).nat (kAckBytes st) = max bytes (s.nat (kAckBytes st)) ∧
    (acked s st seqno bytes).stream st = ackedStream s st seqno ∧ slotsKept s (acked s st seqno bytes) [kAckSeqno st, kAckBytes st] ∧
    memoryKept s (acked s st seqno bytes) ∧ workKept s (acked s st seqno bytes) := by
  have hne : kAckSeqno st ≠ kAckBytes st := by unfold kAckBytes kAckSeqno; omega
  have hmax : max bytes (s.nat (kAckBytes st)) < 2 ^ 64 := max_lt hbytes (BitVec.isLt _)
  refine ⟨(State.nat_setNat_other _ _ hne).trans (State.nat_setNat_same _ hseqno), State.nat_setNat_same _ hmax,
    stream_setStream_same .., fun k hk => ?_, (Quiet.refl s).memoryKept, ⟨rfl, rfl, rfl, rfl, rfl⟩⟩
  simp only [List.mem_cons, List.not_mem_nil, or_false, not_or] at hk
  exact (State.reg_setNat_other _ _ hk.2).trans (State.reg_setNat_other _ _ hk.1)

/-- A retransmission owes every record again (R361). -/
theorem resendAll_leaves (s : State) (st : Nat) : (s.resendAll st).stream st =
      { s.stream st with sent := [], again := (s.stream st).sent ++ (s.stream st).again, retries := (s.stream st).retries + 1 } ∧
    (s.resendAll st).nat (kStreamRetries st) = satAdd 32 (s.nat (kStreamRetries st)) 1 ∧
    slotsKept s (s.resendAll st) [kStreamRetries st] ∧ memoryKept s (s.resendAll st) ∧ workKept s (s.resendAll st) :=
  ⟨stream_setStream_same .., nat_bump_same _ _ _ (by decide), fun k hk => State.reg_setNat_other _ _ (by simpa using hk),
    (Quiet.refl s).memoryKept, ⟨rfl, rfl, rfl, rfl, rfl⟩⟩

theorem exec_retransmit (hok : s.transportOk st = true) : exec (.retransmit st) s = .next (s.retransmit st) := if_pos hok

/-- Only the byte offset of a stream that is abandoned with nothing but FENCE records on it stays, and no job and no cut ends. -/
theorem abandonStream_fences {status cause : Nat} (hjobs : s.jobs = []) (hpages : (s.stream st).pages = [])
    (hcut : s.nat (kCutState (s.nat (kStreamOwner st))) = 0)
    (hsrc : ∀ r ∈ (s.stream st).sent ++ (s.stream st).again, r.src = .fence) :
    s.abandonStream st status cause = s.setStream st { byteOff := (s.stream st).byteOff } := by
  have hnone : ∀ f : SentRec → Option PageJob, (∀ r, r.src = .fence → f r = none) →
      ((s.stream st).sent ++ (s.stream st).again).filterMap f = [] := fun f hf =>
    List.filterMap_eq_nil_iff.2 fun r hr => hf r (hsrc r hr)
  unfold State.abandonStream
  dsimp only
  rw [hnone, hpages, hjobs, hcut]
  · simp
  · intro r hr
    rw [hr]

/-- What a stream in ERROR leaves that carried FENCE records only (R363). -/
theorem dropCells_leaves (s : State) (st : Nat) : (s.dropCells st).regs = s.regs ∧ (s.dropCells st).streams = s.streams ∧
    memoryKept s (s.dropCells st) ∧ workKept s (s.dropCells st) := by
  unfold State.dropCells
  dsimp only
  split
  · split
    · exact ⟨rfl, rfl, (Quiet.refl s).memoryKept, ⟨rfl, rfl, rfl, rfl, rfl⟩⟩
    · exact ⟨rfl, rfl, (Quiet.refl s).memoryKept, ⟨rfl, rfl, rfl, rfl, rfl⟩⟩
  · exact ⟨rfl, rfl, (Quiet.refl s).memoryKept, ⟨rfl, rfl, rfl, rfl, rfl⟩⟩

theorem retransmit_spent (hup : s.streamUp st = true) (hsome : (s.stream st).sent ++ (s.stream st).again ≠ [])
    (hlimit : s.nat (kRetryLimit st) ≤ (s.stream st).retries) :
    s.retransmit st = ((s.setNat (kStreamCtrl st) 2).abandonStream st 0x0A 3).dropCells st := by
  have hgo : ¬ (s.streamUp st = false ∨ (s.stream st).sent = [] ∧ (s.stream st).again = []) := by
    simpa [hup] using hsome
  exact (if_neg hgo).trans (if_neg (Nat.not_lt.2 hlimit))

theorem retransmit_owed (hup : s.streamUp st = true) (hsome : (s.stream st).sent ++ (s.stream st).again ≠ [])
    (hlimit : (s.stream st).retries < s.nat (kRetryLimit st)) : s.retransmit st = s.resendAll st := by
  have hgo : ¬ (s.streamUp st = false ∨ (s.stream st).sent = [] ∧ (s.stream st).again = []) := by
    simpa [hup] using hsome
  exact (if_neg hgo).trans (if_pos hlimit)

theorem retransmit_error (hok : s.transportOk st = true) (hup : s.streamUp st = true)
    (hsome : (s.stream st).sent ++ (s.stream st).again ≠ []) (hlimit : s.nat (kRetryLimit st) ≤ (s.stream st).retries)
    (hjobs : s.jobs = []) (hpages : (s.stream st).pages = []) (hcut : s.nat (kCutState (s.nat (kStreamOwner st))) = 0)
    (hsrc : ∀ r ∈ (s.stream st).sent ++ (s.stream st).again, r.src = .fence) :
    ∃ t, exec (.retransmit st) s = .next t ∧ t.nat (kStreamCtrl st) = 2 ∧
      t.stream st = { byteOff := (s.stream st).byteOff } ∧ slotsKept s t [kStreamCtrl st] ∧ memoryKept s t ∧ workKept s t := by
  have hset := told_setNat s (kStreamCtrl st) 2
  have htwo : (s.setNat (kStreamCtrl st) 2).nat (kStreamCtrl st) = 2 := State.nat_setNat_same _ (by decide)
  obtain ⟨u, hu⟩ : ∃ u, s.setNat (kStreamCtrl st) 2 = u := ⟨_, rfl⟩
  have hstream : u.stream st = s.stream st := hu ▸ rfl
  have hexec := (exec_retransmit hok).trans (congrArg Host.Outcome.next (retransmit_spent hup hsome hlimit))
  rw [hu] at hset htwo hexec
  have hownerU : u.nat (kStreamOwner st) = s.nat (kStreamOwner st) := hset.nat (by simp [kStreamOwner, kStreamCtrl])
  have hcutU : u.nat (kCutState (u.nat (kStreamOwner st))) = 0 := by
    rw [hownerU, hset.nat (by simp only [List.mem_singleton, kCutState, kStreamCtrl]; omega), hcut]
  rw [abandonStream_fences (hset.jobs.trans hjobs) (by rw [hstream, hpages]) hcutU (by rwa [hstream])] at hexec
  obtain ⟨v, hv⟩ : ∃ v, u.setStream st { byteOff := (u.stream st).byteOff } = v := ⟨_, rfl⟩
  have hstreamV : v.stream st = { byteOff := (s.stream st).byteOff } := by rw [← hv, stream_setStream_same, hstream]
  have hregs : v.regs = u.regs := hv ▸ rfl
  have hmem : memoryKept u v := hv ▸ (Quiet.refl u).memoryKept
  have hwork : workKept u v := hv ▸ ⟨rfl, rfl, rfl, rfl, rfl⟩
  rw [hv] at hexec
  obtain ⟨hdregs, hdstreams, hdmem, hdwork⟩ := dropCells_leaves v st
  have hreg : ∀ k, (v.dropCells st).reg k = u.reg k := fun k => State.reg_of_regs (hdregs.trans hregs) k
  refine ⟨_, hexec, (nat_of_reg (hreg _)).trans htwo, (stream_congr hdstreams st).trans hstreamV,
    fun k hk => (hreg k).trans (hset.slots k hk), ?_, ?_⟩
  · exact hset.quiet.memoryKept.trans (hmem.trans hdmem)
  · exact workKept.trans hset.quiet.workKept (workKept.trans hwork hdwork)

end Acks

end Sys2Proof.Safety

namespace Sys2Proof.Safety

open Sys2Proof.Machine

/-! ### A record is sent (R356, R384, R386) -/

section Sending

variable {s t u : State} {st p : Nat}

/-- What handing bytes to a transport keeps: every slot, the streams, the budgets, the memories and the work. -/
structure HandedOn (s t : State) : Prop where
  regs : t.regs = s.regs
  streams : t.streams = s.streams
  sporBytes : t.sporBytes = s.sporBytes
  linkDown : t.linkDown = s.linkDown
  memory : memoryKept s t
  work : workKept s t

theorem HandedOn.trans (h : HandedOn s t) (h' : HandedOn t u) : HandedOn s u where
  regs := h'.regs.trans h.regs
  streams := h'.streams.trans h.streams
  sporBytes := h'.sporBytes.trans h.sporBytes
  linkDown := h'.linkDown.trans h.linkDown
  memory := h.memory.trans h'.memory
  work := workKept.trans h.work h'.work

theorem HandedOn.foldl {α : Type} {f : State → α → State} (hf : ∀ s x, s.linkDown = false → HandedOn s (f s x)) (l : List α) :
    ∀ s, s.linkDown = false → HandedOn s (l.foldl f s) := by
  induction l with
  | nil => exact fun s _ => ⟨rfl, rfl, rfl, rfl, (Quiet.refl s).memoryKept, (Quiet.refl s).workKept⟩
  | cons x l ih => exact fun s h => (hf s x h).trans (ih _ ((hf s x h).linkDown.trans h))

theorem handedOn_setPort (s : State) (n : Nat) (q : PortSt) : HandedOn s (s.setPort n q) :=
  ⟨rfl, rfl, rfl, rfl, (Quiet.refl s).memoryKept, (Quiet.refl s).workKept⟩

theorem handedOn_roceWrite (s : State) (q va rkey : Nat) (l : List Byte) : HandedOn s (s.roceWrite q va rkey l) :=
  ⟨rfl, rfl, rfl, rfl, (Quiet.refl s).memoryKept, (Quiet.refl s).workKept⟩

theorem handedOn_hostWrite (s : State) (fn addr : Nat) (l : List Byte) (h : s.linkDown = false) :
    HandedOn s (s.hostWrite fn addr l) := by
  unfold State.hostWrite
  dsimp only
  rw [if_neg (by simp [h])]
  split
  · exact ⟨rfl, rfl, rfl, rfl, (Quiet.refl s).memoryKept, (Quiet.refl s).workKept⟩
  · exact ⟨rfl, rfl, rfl, rfl, (Quiet.refl s).memoryKept, (Quiet.refl s).workKept⟩

/-- The stream's transport takes the bytes (R356). -/
theorem handedOn_transportSend (s : State) (st off : Nat) (l : List Byte) (h : s.linkDown = false) :
    HandedOn s (s.transportSend st off l) := by
  unfold State.transportSend
  dsimp only
  split
  · exact handedOn_setPort ..
  · exact .foldl (fun s x _ => handedOn_roceWrite ..) _ s h
  · exact .foldl (fun s x h => handedOn_hostWrite s _ _ _ h) _ s h

/-- A record of `n` bytes counts, goes out and takes its SEQNO. -/
def recordCounted (w : State) (st n : Nat) (b : List Byte) : State :=
  (((w.wrapAdd (kStreamBytes st) n).wrapAdd kExportBytes n).emit (.record st b)).wrapAdd (kNextSeqno st)

/-- A stream once a record waits on it for its acknowledgement. -/
def waits (x : StreamSt) (r : SentRec) : StreamSt := { x with byteOff := x.byteOff + r.bytes.length, sent := x.sent ++ [r] }

theorem pushRecord_formed (s : State) (st : Nat) (r : SentRec) (hsrc : r.src = .fence ∨ r.src = .cutAbort) {u : State}
    (hu : s.transportSend st (s.stream st).byteOff r.bytes = u) :
    (s.pushRecord st r).wrapAdd (kNextSeqno st) = recordCounted (u.setStream st (waits (u.stream st) r)) st r.bytes.length r.bytes := by
  have hreads : s.recReads r.bytes.length r.src = [] := by
    obtain h | h := hsrc
    · rw [h]; rfl
    · rw [h]; rfl
  rw [← hu]
  unfold State.pushRecord
  dsimp only
  rw [hreads]
  rfl

theorem recordCounted_leaves (w : State) {st : Nat} (n : Nat) (b : List Byte) (hst : st < 256) :
    (recordCounted w st n b).nat (kNextSeqno st) = (w.nat (kNextSeqno st) + 1) % 2 ^ 64 ∧
    (recordCounted w st n b).nat (kStreamBytes st) = (w.nat (kStreamBytes st) + n) % 2 ^ 64 ∧
    (recordCounted w st n b).nat kExportBytes = (w.nat kExportBytes + n) % 2 ^ 64 ∧
    Output.record st b ∈ (recordCounted w st n b).out ∧
    Told [kNextSeqno st, kStreamBytes st, kExportBytes] w (recordCounted w st n b) := by
  obtain ⟨hxb, hnx, hnb⟩ : kExportBytes ≠ kStreamBytes st ∧ kNextSeqno st ≠ kExportBytes ∧ kNextSeqno st ≠ kStreamBytes st := by
    unfold kExportBytes kStreamBytes kNextSeqno
    omega
  have hbytes := told_wrapAdd w (kStreamBytes st) n 64
  have hexport := told_wrapAdd (w.wrapAdd (kStreamBytes st) n) kExportBytes n 64
  have hemit := told_emit ((w.wrapAdd (kStreamBytes st) n).wrapAdd kExportBytes n) (.record st b)
  have hnext := told_wrapAdd (((w.wrapAdd (kStreamBytes st) n).wrapAdd kExportBytes n).emit (.record st b)) (kNextSeqno st) 1 64
  have hout : Output.record st b ∈ w.out ++ [Output.record st b] := by simp
  refine ⟨?_, ?_, ?_, hout, ((((hbytes.trans hexport).trans hemit).trans hnext).mono (by simp))⟩
  · refine (nat_wrapAdd_same ..).trans ?_
    rw [hemit.nat (by simp), hexport.nat (by simpa using hnx), hbytes.nat (by simpa using hnb)]
  · rw [recordCounted, hnext.nat (by simpa using hnb.symm), hemit.nat (by simp), hexport.nat (by simpa using hxb.symm), nat_wrapAdd_same]
  · rw [recordCounted, hnext.nat (by simpa using hnx.symm), hemit.nat (by simp), nat_wrapAdd_same, hbytes.nat (by simpa using hxb)]

/-- What sending a formed record leaves, its SEQNO the next one (R356). -/
theorem formedRecord_leaves {v : State} {r : SentRec} (hsrc : r.src = .fence ∨ r.src = .cutAbort) (hlink : v.linkDown = false)
    (hst : st < 256) (ht : (v.pushRecord st r).wrapAdd (kNextSeqno st) = t) :
    t.stream st = waits (v.stream st) r ∧ t.nat (kNextSeqno st) = (v.nat (kNextSeqno st) + 1) % 2 ^ 64 ∧
    t.nat (kStreamBytes st) = (v.nat (kStreamBytes st) + r.bytes.length) % 2 ^ 64 ∧
    t.nat kExportBytes = (v.nat kExportBytes + r.bytes.length) % 2 ^ 64 ∧ Output.record st r.bytes ∈ t.out ∧
    t.sporBytes = v.sporBytes ∧ slotsKept v t [kNextSeqno st, kStreamBytes st, kExportBytes] ∧ memoryKept v t ∧ workKept v t := by
  have hon := handedOn_transportSend v st (v.stream st).byteOff r.bytes hlink
  obtain ⟨u, hu⟩ : ∃ u, v.transportSend st (v.stream st).byteOff r.bytes = u := ⟨_, rfl⟩
  rw [pushRecord_formed v st r hsrc hu] at ht
  rw [hu] at hon
  obtain ⟨w, hw⟩ : ∃ w, u.setStream st (waits (u.stream st) r) = w := ⟨_, rfl⟩
  have hstream : w.stream st = waits (v.stream st) r := by rw [← hw, stream_setStream_same, stream_congr hon.streams]
  have hregs : w.regs = v.regs := (hw ▸ rfl : w.regs = u.regs).trans hon.regs
  have hspor : w.sporBytes = v.sporBytes := (hw ▸ rfl : w.sporBytes = u.sporBytes).trans hon.sporBytes
  have hmem : memoryKept u w := hw ▸ (Quiet.refl u).memoryKept
  have hwork : workKept u w := hw ▸ ⟨rfl, rfl, rfl, rfl, rfl⟩
  have hreg : ∀ k, w.reg k = v.reg k := fun k => State.reg_of_regs hregs k
  rw [hw] at ht
  obtain ⟨hnext, hbytes, hexport, hout, htold⟩ := recordCounted_leaves w r.bytes.length r.bytes hst
  rw [ht] at hnext hbytes hexport hout htold
  refine ⟨?_, hnext.trans ?_, hbytes.trans ?_, hexport.trans ?_, hout, (htold.quiet.field State.sporBytes).trans hspor,
    fun k hk => (htold.slots k hk).trans (hreg k), (hon.memory.trans hmem).trans htold.quiet.memoryKept,
    workKept.trans (workKept.trans hon.work hwork) htold.quiet.workKept⟩
  · have hstreams : t.streams = w.streams := htold.quiet.field State.streams
    rw [stream_congr hstreams, hstream]
  · rw [nat_of_reg (hreg _)]
  · rw [nat_of_reg (hreg _)]
  · rw [nat_of_reg (hreg _)]

/-! ### Whose turn it is (R386) -/

/-- The first answer of a search that only one element can give. -/
theorem findSome?_of_only {α β : Type} {f : α → Option β} {l : List α} {a : α} (ha : a ∈ l) (h : ∀ x, x ≠ a → f x = none) :
    l.findSome? f = f a := by
  induction l with
  | nil => cases ha
  | cons x l ih =>
    by_cases hx : x = a
    · subst hx
      cases hf : f x with
      | some b => rw [List.findSome?_cons, hf]
      | none =>
        rw [List.findSome?_cons, hf]
        refine List.findSome?_eq_none_iff.2 fun y _ => ?_
        by_cases hy : y = x
        · rw [hy, hf]
        · exact h y hy
    · rw [List.findSome?_cons, h x hx]
      exact ih ((List.mem_cons.1 ha).resolve_left fun he => hx he.symm)

theorem mem_turns {q n i : Nat} (hn : 0 < n) (hi : i < n) : i ∈ (countFrom q n).map (· % n) := by
  refine List.mem_map.2 ⟨q + (i + n - q % n) % n, mem_countFrom.2 ⟨by omega, ?_⟩, ?_⟩
  · have := Nat.mod_lt (i + n - q % n) hn
    omega
  · show (q + (i + n - q % n) % n) % n = i
    have hq := Nat.mod_lt q hn
    have hsum : q + (i + n - q % n) = i + n * (q / n + 1) := by
      have := Nat.div_add_mod q n
      rw [Nat.mul_add, Nat.mul_one]
      omega
    rw [Nat.add_mod_mod, hsum, Nat.add_mul_mod_self_left, Nat.mod_eq_of_lt hi]

theorem nextRecord_waiting {w : WaitRec} {rest : List WaitRec} (hagain : (s.stream st).again = [])
    (hwaiting : (s.stream st).waiting = w :: rest) (ecc : Bool) : s.nextRecord st ecc =
      some { taken := s.setStream st { s.stream st with waiting := rest },
             record := some (s.formFor st w.kind w.part w.object w.payload w.generation, w.src) } := by
  unfold State.nextRecord
  dsimp only
  rw [hagain, hwaiting]

/-- The state in which a stream's next record has been taken, `taken`, and paid for, `paid`. -/
def paidFor (taken paid : State) (st : Nat) : State :=
  { taken.setStream st { taken.stream st with paid := (paid.stream st).paid } with
    sporBytes := paid.sporBytes, sporReads := paid.sporReads }

/-- A stream's record is paid for out of its frame's budget (R384). -/
def paidWhole (s : State) (st n : Nat) : State :=
  { s.setStream st { s.stream st with paid := (0, 0) } with sporBytes := s.sporBytes + n, sporReads := s.sporReads }

/-- The state in which a stream's first waiting record has been taken and paid for. -/
def allowed (s : State) (st : Nat) (rest : List WaitRec) (n : Nat) : State :=
  paidFor (s.setStream st { s.stream st with waiting := rest }) (paidWhole s st n) st

theorem stream_allowed {rest : List WaitRec} {n : Nat} (hpaid : (s.stream st).paid = (0, 0)) :
    (allowed s st rest n).stream st = { s.stream st with waiting := rest } := by
  have hwhole : ((paidWhole s st n).stream st).paid = (0, 0) := congrArg StreamSt.paid (stream_setStream_same ..)
  refine (stream_setStream_same ..).trans ?_
  rw [stream_setStream_same, hwhole, ← hpaid]

/-- A record that its frame's budget holds is paid for at once (R384). -/
theorem pay_whole {n : Nat} (hpaid : (s.stream st).paid = (0, 0)) (hbudget : s.sporBytes + n ≤ 512 * s.frameNs) :
    s.pay st n 0 = some (true, paidWhole s st n) := by
  have howed : n - 0 ≤ s.sporLeft.1 ∧ 0 - 0 ≤ s.sporLeft.2 := by
    simp only [State.sporLeft]
    omega
  unfold State.pay
  dsimp only
  rw [hpaid]
  dsimp only
  rw [if_pos howed]
  simp only [Nat.sub_zero, Nat.zero_sub, Nat.add_zero]
  rfl

/-- A stream whose next record fits its ring and is paid for sends it. -/
theorem serveStream_paid {taken paid : State} {reads : Nat} {b : List Byte} {src : RecSrc} {ecc : Bool}
    (hnext : s.nextRecord st ecc = some { taken := taken, reads := reads, record := some (b, src) })
    (hring : s.ringRoom st b.length = true) (hpay : s.pay st b.length reads = some (true, paid)) : s.serveStream st ecc =
      some (true, ((paidFor taken paid st).pushRecord st ⟨s.nat (kNextSeqno st), b, src⟩).wrapAdd (kNextSeqno st)) := by
  have hroom : ¬ s.ringRoom st b.length = false := by simp [hring]
  unfold State.serveStream
  rw [hnext, Option.bind_some]
  dsimp only
  rw [if_neg hroom, hpay]
  rfl

theorem serveStream_waiting {w : WaitRec} {rest : List WaitRec} {b : List Byte} (hagain : (s.stream st).again = [])
    (hpaid : (s.stream st).paid = (0, 0)) (hwaiting : (s.stream st).waiting = w :: rest)
    (hb : s.formFor st w.kind w.part w.object w.payload w.generation = b)
    (hroom : (s.stream st).byteOff + b.length ≤ s.nat (kAckBytes st) + s.nat (kRingBytes st))
    (hbudget : s.sporBytes + b.length ≤ 512 * s.frameNs) (ecc : Bool) : s.serveStream st ecc =
      some (true, ((allowed s st rest b.length).pushRecord st ⟨s.nat (kNextSeqno st), b, w.src⟩).wrapAdd (kNextSeqno st)) := by
  have hnext := nextRecord_waiting hagain hwaiting ecc
  rw [hb] at hnext
  have hring : s.ringRoom st b.length = true := by simp [State.ringRoom, hroom]
  exact serveStream_paid hnext hring (pay_whole hpaid hbudget)

theorem ofStreams_keeps (s : State) (x : Tbl StreamSt) : ({ s with streams := x } : State).regs = s.regs ∧
    ({ s with streams := x } : State).linkDown = s.linkDown ∧ memoryKept s { s with streams := x } ∧
    workKept s { s with streams := x } :=
  ⟨rfl, rfl, (Quiet.refl s).memoryKept, (Quiet.refl s).workKept⟩

/-- What paying for a record keeps beside its stream and the budgets. -/
theorem paidFor_keeps (taken paid : State) (st : Nat) : (paidFor taken paid st).regs = taken.regs ∧
    (paidFor taken paid st).sporBytes = paid.sporBytes ∧ (paidFor taken paid st).linkDown = taken.linkDown ∧
    memoryKept taken (paidFor taken paid st) ∧ workKept taken (paidFor taken paid st) := by
  unfold paidFor
  generalize ({ taken.stream st with paid := (paid.stream st).paid } : StreamSt) = x
  exact ⟨rfl, rfl, rfl, (Quiet.refl taken).memoryKept, (Quiet.refl taken).workKept⟩

/-- What taking and paying for a record keeps beside its stream and the budgets. -/
theorem allowed_keeps (s : State) (st : Nat) (rest : List WaitRec) (n : Nat) : (allowed s st rest n).regs = s.regs ∧
    (allowed s st rest n).sporBytes = s.sporBytes + n ∧ (allowed s st rest n).linkDown = s.linkDown ∧
    memoryKept s (allowed s st rest n) ∧ workKept s (allowed s st rest n) := by
  obtain ⟨htregs, htlink, htmem, htwork⟩ := ofStreams_keeps s (Tbl.set {} s.streams st { s.stream st with waiting := rest })
  obtain ⟨hregs, hspor, hlink, hmem, hwork⟩ :=
    paidFor_keeps (s.setStream st { s.stream st with waiting := rest }) (paidWhole s st n) st
  exact ⟨hregs.trans htregs, hspor, hlink.trans htlink, htmem.trans hmem, workKept.trans htwork hwork⟩

/-- The turn passes on (R386). -/
def turned (u : State) (turn : Nat × Nat) (next : Tbl Nat) : State := { u with sporTurn := turn, sporNext := next }

/-- The one stream that may send is served (R386). -/
theorem serveNext_only {t : State} {ecc : Bool} (hp : p < 64) (hst : st < 256) (hlive : s.liveStreams = [st])
    (howner : s.nat (kStreamOwner st) = p) (hserve : s.serveStream st ecc = some (true, t)) :
    ∃ turn next, s.serveNext st ecc = turned t turn next := by
  have hcontains : ∀ x, ([st] : List Nat).contains x = true ↔ x = st := fun x => by simp
  have hpart : s.servePart [st] ecc p = some (p, st, true, t) := by
    refine (findSome?_of_only (mem_turns (q := Tbl.get 0 s.sporNext p) (by decide) hst) fun x hx => ?_).trans ?_
    · exact if_neg (by simp [hx])
    · rw [hserve]
      exact if_pos (by simp [howner])
  have hother : ∀ q, q ≠ p → s.servePart [st] ecc q = none := fun q hq => by
    refine List.findSome?_eq_none_iff.2 fun x _ => if_neg ?_
    simp only [Bool.and_eq_true, hcontains, beq_iff_eq, not_and]
    rintro rfl
    omega
  have hturn : s.turnOrder.findSome? (s.servePart [st] ecc) = some (p, st, true, t) :=
    (findSome?_of_only (mem_turns (by decide) hp) hother).trans hpart
  unfold State.serveNext
  dsimp only
  rw [hlive, if_neg (by simp), hturn]
  exact ⟨_, _, (if_neg (not_not_intro rfl)).trans (if_neg (by decide))⟩

/-- A FENCE or CUT_ABORT record of the only stream that may send goes out with the next SEQNO (R356, R384, R386). -/
theorem recordSend_leaves {ecc : Bool} {w : WaitRec} {rest : List WaitRec} {b : List Byte} (hst : st < 256) (hp : p < 64)
    (hlive : s.liveStreams = [st]) (howner : s.nat (kStreamOwner st) = p) (hagain : (s.stream st).again = [])
    (hpaid : (s.stream st).paid = (0, 0)) (hwaiting : (s.stream st).waiting = w :: rest)
    (hsrc : w.src = .fence ∨ w.src = .cutAbort) (hb : b = s.formFor st w.kind w.part w.object w.payload w.generation)
    (hroom : (s.stream st).byteOff + b.length ≤ s.nat (kAckBytes st) + s.nat (kRingBytes st))
    (hbudget : s.sporBytes + b.length ≤ 512 * s.frameNs) (hlink : s.linkDown = false) :
    ∃ t, exec (.recordSend st ecc) s = .next t ∧
      t.stream st = { s.stream st with waiting := rest, byteOff := (s.stream st).byteOff + b.length,
                                       sent := (s.stream st).sent ++ [⟨s.nat (kNextSeqno st), b, w.src⟩] } ∧
      t.nat (kNextSeqno st) = (s.nat (kNextSeqno st) + 1) % 2 ^ 64 ∧
      t.nat (kStreamBytes st) = (s.nat (kStreamBytes st) + b.length) % 2 ^ 64 ∧
      t.nat kExportBytes = (s.nat kExportBytes + b.length) % 2 ^ 64 ∧ Output.record st b ∈ t.out ∧
      t.sporBytes = s.sporBytes + b.length ∧ slotsKept s t [kNextSeqno st, kStreamBytes st, kExportBytes] ∧ memoryKept s t ∧
      workKept s t := by
  have hstream := stream_allowed (s := s) (st := st) (rest := rest) (n := b.length) hpaid
  have hserve := serveStream_waiting hagain hpaid hwaiting hb.symm hroom hbudget ecc
  obtain ⟨hregs, hspor, hlinkV, hmemV, hworkV⟩ := allowed_keeps s st rest b.length
  obtain ⟨v, hv⟩ : ∃ v, allowed s st rest b.length = v := ⟨_, rfl⟩
  rw [hv] at hstream hserve hregs hspor hlinkV hmemV hworkV
  obtain ⟨u, hu⟩ : ∃ u, (v.pushRecord st ⟨s.nat (kNextSeqno st), b, w.src⟩).wrapAdd (kNextSeqno st) = u := ⟨_, rfl⟩
  rw [hu] at hserve
  have hnat : ∀ k, v.nat k = s.nat k := fun k => nat_of_reg (State.reg_of_regs hregs k)
  obtain ⟨hs, hnext, hbytes, hexport, hout, hsent, hslots, hmem, hwork⟩ :=
    formedRecord_leaves (r := ⟨s.nat (kNextSeqno st), b, w.src⟩) hsrc (hlinkV.trans hlink) hst hu
  obtain ⟨turn, next, hexec⟩ := serveNext_only hp hst hlive howner hserve
  refine ⟨turned u turn next, congrArg Host.Outcome.next hexec, hs.trans ?_, hnext.trans ?_, hbytes.trans ?_, hexport.trans ?_, hout,
    hsent.trans hspor, fun k hk => (hslots k hk).trans (State.reg_of_regs hregs k), hmemV.trans hmem, workKept.trans hworkV hwork⟩
  · rw [hstream]
    rfl
  · rw [hnat]
  · rw [hnat]
  · rw [hnat]

/-- A report that a stream with nothing to send sends is no report (R386). -/
theorem recordSend_other {ecc : Bool} (hlive : st ∉ s.liveStreams) : exec (.recordSend st ecc) s = .next s := by
  refine congrArg Host.Outcome.next ?_
  unfold State.serveNext
  dsimp only
  split
  · rfl
  · split
    · rfl
    · next p nxt done t hturn =>
      rw [if_pos ?_]
      rintro rfl
      obtain ⟨q, -, hq⟩ := List.exists_of_findSome?_eq_some hturn
      obtain ⟨x, -, hx⟩ := List.exists_of_findSome?_eq_some hq
      by_cases hmem : (s.liveStreams.contains x && s.nat (kStreamOwner x) == q) = true
      · rw [if_pos hmem] at hx
        obtain ⟨y, -, hy⟩ := Option.map_eq_some_iff.1 hx
        simp only [Prod.mk.injEq] at hy
        simp only [Bool.and_eq_true, List.contains_iff_mem] at hmem
        exact hlive (hy.2.1 ▸ hmem.1)
      · rw [if_neg hmem] at hx
        cases hx

end Sending

end Sys2Proof.Safety

namespace Sys2Proof.Safety

open Sys2Proof.Machine

/-! ### Cuts (R374, R375) -/

section Cuts

variable {s t u : State} {p id st : Nat} {d : Desc}

theorem at_lt (d : Desc) (off : Nat) {n : Nat} (hn : n ≤ 8) : d.at off n < 2 ^ 64 :=
  (Nat.mod_lt _ (Nat.two_pow_pos _)).trans_le (Nat.pow_le_pow_right (by decide) (by omega))

/-- What ending a descriptor in its commit frame keeps. -/
theorem endAtCommit_keeps (s : State) (id st : Nat) : (s.endAtCommit id st).regs = s.regs ∧ (s.endAtCommit id st).cuts = s.cuts ∧
    (s.endAtCommit id st).jobs = s.jobs ∧ (s.endAtCommit id st).nextId = s.nextId ∧ memoryKept s (s.endAtCommit id st) :=
  ⟨rfl, rfl, rfl, rfl, (Quiet.refl s).memoryKept⟩

theorem cut_congr (h : t.cuts = s.cuts) (p : Nat) : t.cut p = s.cut p := by simp only [State.cut, h]

/-- What an accepted CUT leaves (R374). -/
theorem acceptCut_leaves (s : State) (d : Desc) : (s.acceptCut d).nat (kCutState d.part) = 1 ∧
    (s.acceptCut d).nat (kLastCutId d.part) = d.at 16 4 ∧ ((s.acceptCut d).cut d.part).cutId = d.at 16 4 ∧
    ((s.acceptCut d).cut d.part).serial = s.nextId ∧
    ((s.acceptCut d).cut d.part).cutFrame = (if d.at 24 8 = 0 then d.commitFrame + 1 else d.at 24 8) ∧
    slotsKept s (s.acceptCut d) [kCutState d.part, kLastCutId d.part] ∧ memoryKept s (s.acceptCut d) ∧
    (s.acceptCut d).inflight = s.inflight := by
  have hne : kLastCutId d.part ≠ kCutState d.part := by unfold kLastCutId kCutState; omega
  have hcut : (s.acceptCut d).cut d.part = { serial := s.nextId, cutId := d.at 16 4, cutFrame := if d.at 24 8 = 0 then d.commitFrame + 1 else d.at 24 8, mask := d.at 20 2, full := bitOf (d.at 22 1) 0, tag := jobTag d 32 } := cut_setCut_same ..
  refine ⟨State.nat_setNat_same _ (by decide), ?_, congrArg CutSt.cutId hcut, congrArg CutSt.serial hcut,
    congrArg CutSt.cutFrame hcut, fun k hk => ?_, (Quiet.refl s).memoryKept, rfl⟩
  · exact (State.nat_setNat_other _ _ hne).trans (State.nat_setNat_same _ (at_lt d 16 (by decide)))
  · simp only [List.mem_cons, List.not_mem_nil, or_false, not_or] at hk
    exact (State.reg_setNat_other _ _ hk.1).trans (State.reg_setNat_other _ _ hk.2)

theorem exec_cut (h : offCore s id 0x40 d) : exec (.cut id) s = .next (match s.cutCheck d with
    | some st => s.endAtCommit id st
    | none => (s.acceptCut d).endAtCommit id stOk) :=
  congrArg Host.Outcome.next (runOff_of_offCore h _)

theorem cut_accepted (h : offCore s id 0x40 d) (hcheck : s.cutCheck d = none) :
    ∃ t, exec (.cut id) s = .next t ∧ t.nat (kCutState d.part) = 1 ∧ t.nat (kLastCutId d.part) = d.at 16 4 ∧
      (t.cut d.part).cutId = d.at 16 4 ∧ (t.cut d.part).serial = s.nextId ∧
      (t.cut d.part).cutFrame = (if d.at 24 8 = 0 then d.commitFrame + 1 else d.at 24 8) ∧
      (t.desc? id).map (fun e => (e.ended, e.status)) = some (true, 0) ∧
      slotsKept s t [kCutState d.part, kLastCutId d.part] ∧ memoryKept s t := by
  have hexec := exec_cut h
  rw [hcheck] at hexec
  obtain ⟨hstate, hlast, hid, hserial, hframe, hslots, hmem, hinflight⟩ := acceptCut_leaves s d
  obtain ⟨u, hu⟩ : ∃ u, s.acceptCut d = u := ⟨_, rfl⟩
  rw [hu] at hexec hstate hlast hid hserial hframe hslots hmem hinflight
  obtain ⟨hregs, hcuts, -, -, hkept⟩ := endAtCommit_keeps u id stOk
  have hnat : ∀ k, (u.endAtCommit id stOk).nat k = u.nat k := fun k => nat_of_reg (State.reg_of_regs hregs k)
  refine ⟨_, hexec, (hnat _).trans hstate, (hnat _).trans hlast, ?_, ?_, ?_,
    desc?_endAtCommit ((desc?_of_inflight hinflight id).trans h.1) h.2.1 _,
    fun k hk => (State.reg_of_regs hregs k).trans (hslots k hk), hmem.trans hkept⟩
  · rw [cut_congr hcuts, hid]
  · rw [cut_congr hcuts, hserial]
  · rw [cut_congr hcuts, hframe]

theorem cut_refused (h : offCore s id 0x40 d) (hcheck : s.cutCheck d = some st) :
    ∃ t, exec (.cut id) s = .next t ∧ (t.desc? id).map (fun e => (e.ended, e.status)) = some (true, st) ∧
      t.regs = s.regs ∧ t.cuts = s.cuts ∧ memoryKept s t := by
  have hexec := exec_cut h
  rw [hcheck] at hexec
  obtain ⟨hregs, hcuts, -, -, hkept⟩ := endAtCommit_keeps s id st
  exact ⟨_, hexec, desc?_endAtCommit h.1 h.2.1 _, hregs, hcuts, hkept⟩

/-- The granules that a cut freezes (R375). -/
def frozenOf (s : State) (p : Nat) : List (Nat × Nat) :=
  ((countFrom 0 16).filter fun i => bitOf (s.cut p).mask i).flatMap fun i =>
    ((countFrom 0 (s.region p i).2).filter fun g => (s.cut p).full || !(Tbl.get false s.clean (cleanKey p i g))).map fun g => (i, g)

theorem mem_frozenOf {i g : Nat} (hi : i < 16) : (i, g) ∈ frozenOf s p ↔ bitOf (s.cut p).mask i = true ∧ g < (s.region p i).2 ∧
    ((s.cut p).full = true ∨ Tbl.get false s.clean (cleanKey p i g) = false) := by
  simp only [frozenOf, List.mem_flatMap, List.mem_filter, List.mem_map, Prod.mk.injEq, mem_countFrom, Bool.or_eq_true,
    Bool.not_eq_true']
  constructor
  · rintro ⟨j, ⟨-, hbit⟩, x, ⟨hx, hclean⟩, rfl, rfl⟩
    exact ⟨hbit, by omega, hclean⟩
  · rintro ⟨hbit, hg, hclean⟩
    exact ⟨i, ⟨by omega, hbit⟩, g, ⟨by omega, hclean⟩, rfl, rfl⟩

/-- The dirty bits of the frozen granules are cleared. -/
def cleanAll (s : State) (p : Nat) (l : List (Nat × Nat)) : State :=
  l.foldl (fun s (x : Nat × Nat) => { s with clean := Tbl.set false s.clean (cleanKey p x.1 x.2) true }) s

theorem cleanAll_eq (p : Nat) (l : List (Nat × Nat)) : ∀ s : State, ∃ c, cleanAll s p l = { s with clean := c } := by
  induction l with
  | nil => exact fun s => ⟨s.clean, rfl⟩
  | cons x l ih =>
    intro s
    obtain ⟨c, hc⟩ := ih { s with clean := Tbl.set false s.clean (cleanKey p x.1 x.2) true }
    exact ⟨c, hc⟩

/-- A cut as the freeze leaves it. -/
def frozenCut (s u : State) (p : Nat) : CutSt :=
  { s.cut p with frozen := frozenOf s p, unsent := frozenOf s p, undrained := frozenOf s p, frozenFrame := u.frameNo,
                 freezeTime := u.nat kDevTimeNs, prevValid := u.nat (kValidCutId p),
                 streams := (((countFrom 0 16).filter fun i => bitOf (s.cut p).mask i).map fun i => s.regionStream p i).eraseDups }

theorem freezeCut_eq (s : State) (p : Nat) : s.freezeCut p =
    ((cleanAll s p (frozenOf s p)).setCut p (frozenCut s (cleanAll s p (frozenOf s p)) p)).setNat (kCutState p) 2 := rfl

/-- What the freeze leaves of a partition's cut (R375). -/
theorem freezeCut_leaves (s : State) (p : Nat) : (s.freezeCut p).cut p = frozenCut s s p ∧ (s.freezeCut p).nat (kCutState p) = 2 ∧
    slotsKept s (s.freezeCut p) [kCutState p] ∧ memoryKept s (s.freezeCut p) ∧ workKept s (s.freezeCut p) := by
  obtain ⟨c, hc⟩ := cleanAll_eq p (frozenOf s p) s
  have hsame : frozenCut s { s with clean := c } p = frozenCut s s p := rfl
  rw [freezeCut_eq, hc, hsame]
  exact ⟨cut_setCut_same .., State.nat_setNat_same _ (by decide), fun k hk => State.reg_setNat_other _ _ (by simpa using hk),
    (Quiet.refl s).memoryKept, ⟨rfl, rfl, rfl, rfl, rfl⟩⟩

/-- A frozen cut with nothing to drain passes to MANIFEST (R381). -/
theorem cutProgress_frozen {u : State} (hstate : u.nat (kCutState p) = 2) (hund : (u.cut p).undrained = (u.cut p).frozen) :
    (u.cutProgress p).nat (kCutState p) = (if (u.cut p).frozen = [] then 3 else 2) ∧
    ((u.cutProgress p).cut p).frozen = (u.cut p).frozen ∧ ((u.cutProgress p).cut p).frozenFrame = (u.cut p).frozenFrame ∧
    ((u.cutProgress p).cut p).prevValid = (u.cut p).prevValid ∧
    slotsKept u (u.cutProgress p) [kCutState p] ∧ memoryKept u (u.cutProgress p) ∧ workKept u (u.cutProgress p) := by
  unfold State.cutProgress
  dsimp only
  by_cases hempty : (u.cut p).frozen = []
  · rw [if_pos ⟨hstate, hund.trans hempty⟩, if_pos hempty]
    have hcut := cut_setCut_same (u.setNat (kCutState p) 3) p
      { u.cut p with manifestTo := (u.cut p).streams, manifestWait := (u.cut p).streams }
    exact ⟨State.nat_setNat_same _ (by decide), (congrArg CutSt.frozen hcut).trans rfl,
      (congrArg CutSt.frozenFrame hcut).trans rfl, (congrArg CutSt.prevValid hcut).trans rfl, fun k hk => State.reg_setNat_other _ _ (by simpa using hk), (Quiet.refl u).memoryKept,
      ⟨rfl, rfl, rfl, rfl, rfl⟩⟩
  · rw [if_neg (fun h => hempty (hund.symm.trans h.2)), if_neg hempty]
    exact ⟨hstate, rfl, rfl, rfl, fun _ _ => rfl, (Quiet.refl u).memoryKept, (Quiet.refl u).workKept⟩

/-- Whether a write to HBM that a descriptor of the partition issued before this frame is still on its way (R375). -/
def cutLate (s : State) (p : Nat) : Bool :=
  s.posted.any fun w => w.part == p && decide (w.frame < s.frameNo) && (match w.place with | .hbm .. => true | .store .. => false)

theorem exec_cutFreeze (s : State) (p : Nat) : exec (.cutFreeze p) s =
    if s.nat (kCutState p) = 1 ∧ (s.cut p).cutFrame ≤ s.frameNo ∧ cutLate s p = false
    then .next ((s.freezeCut p).cutProgress p) else .next s := rfl

theorem cutFreeze_leaves (hstate : s.nat (kCutState p) = 1) (hframe : (s.cut p).cutFrame ≤ s.frameNo)
    (hposted : ∀ w ∈ s.posted, w.part = p → s.frameNo ≤ w.frame) :
    ∃ t, exec (.cutFreeze p) s = .next t ∧ t = (s.freezeCut p).cutProgress p ∧
      (t.cut p).frozenFrame = s.frameNo ∧ (t.cut p).prevValid = s.nat (kValidCutId p) ∧
      (∀ i g, i < 16 → g < 2 ^ 32 → ((i, g) ∈ (t.cut p).frozen ↔ bitOf (s.cut p).mask i = true ∧ g < (s.region p i).2 ∧
        ((s.cut p).full = true ∨ Tbl.get false s.clean (cleanKey p i g) = false))) ∧
      t.nat (kCutState p) = (if (t.cut p).frozen = [] then 3 else 2) ∧ slotsKept s t [kCutState p] ∧ memoryKept s t ∧
      workKept s t := by
  have hlate : cutLate s p = false := by
    refine List.any_eq_false.2 fun w hw => ?_
    by_cases hp : w.part = p
    · simp [Nat.not_lt.2 (hposted w hw hp)]
    · simp [hp]
  have hexec := (exec_cutFreeze s p).trans (if_pos ⟨hstate, hframe, hlate⟩)
  obtain ⟨hcut, hfrozen, hslots, hmem, hwork⟩ := freezeCut_leaves s p
  obtain ⟨hpstate, hpfrozen, hpframe, hpvalid, hpslots, hpmem, hpwork⟩ :=
    cutProgress_frozen hfrozen ((congrArg CutSt.undrained hcut).trans (congrArg CutSt.frozen hcut).symm)
  refine ⟨_, hexec, rfl, ?_, ?_, fun i g hi _ => ?_, ?_, hslots.trans_same hpslots, hmem.trans hpmem, workKept.trans hwork hpwork⟩
  · rw [hpframe, hcut]
    rfl
  · rw [hpvalid, hcut]
    rfl
  · rw [hpfrozen, hcut]
    exact mem_frozenOf hi
  · rw [hpstate, hpfrozen]

theorem cutFreeze_waits {w : PostedWrite} {v pa : Nat} (hw : w ∈ s.posted) (hp : w.part = p) (hold : w.frame < s.frameNo)
    (hplace : w.place = .hbm p v pa) : exec (.cutFreeze p) s = .next s := by
  have hlate : cutLate s p = true := List.any_eq_true.2 ⟨w, hw, by simp [hp, hold, hplace]⟩
  exact (exec_cutFreeze s p).trans (if_neg fun h => absurd (hlate.symm.trans h.2.2) (by decide))

/-! ### Jobs (R389, R392, R394) -/

/-- An accepted REPLAY adds its job (R394). -/
theorem replay_accepted (h : offCore s id 0x41 d) (hcheck : s.replayCheck d = none) :
    ∃ t j, exec (.replay id) s = .next t ∧ t.jobs = s.jobs ++ [j] ∧ j.id = s.nextId ∧ j.stream = d.at 28 1 ∧
      j.left = d.at 24 4 ∧ j.acked = 0 ∧ t.nextId = s.nextId + 1 ∧ t.regs = s.regs ∧ memoryKept s t ∧
      (t.desc? id).map (fun e => (e.ended, e.status)) = some (true, 0) := by
  obtain ⟨addrs, haddrs⟩ : ∃ addrs : List Nat, (countFrom 0 (d.at 24 4)).map (fun i =>
      match s.vaRead d.part (d.at 16 8 + 8 * i) 8 with | some b => leNat b | none => 2 ^ 64) = addrs := ⟨_, rfl⟩
  have hlen : addrs.length = d.at 24 4 := by rw [← haddrs, List.length_map, length_countFrom]
  have hexec : exec (.replay id) s =
      .next ((s.addJob (.replay addrs) (jobTag d 30) (d.at 28 1) addrs.length).endAtCommit id stOk) := by
    refine congrArg Host.Outcome.next ((runOff_of_offCore h _).trans ?_)
    dsimp only
    rw [hcheck, ← haddrs] <;> rfl
  exact ⟨_, ⟨s.nextId, .replay addrs, jobTag d 30, d.at 28 1, addrs.length, 0, 0⟩, hexec, rfl, rfl, rfl, hlen, rfl, rfl, rfl,
    (Quiet.refl s).memoryKept, desc?_endAtCommit h.1 h.2.1 _⟩

theorem replay_refused (h : offCore s id 0x41 d) (hcheck : s.replayCheck d = some st) :
    exec (.replay id) s = .next (s.endAtCommit id st) := by
  refine congrArg Host.Outcome.next ((runOff_of_offCore h _).trans ?_)
  dsimp only
  rw [hcheck]

/-- An accepted RESTORE that names windows clears its table and adds its job (R389). -/
theorem restore_accepted {k : JobKind} (h : offCore s id 0x42 d) (hcheck : s.restoreCheck d = none) (hwins : d.at 24 4 ≠ 0)
    (hk : k = .restore (d.at 16 4) (d.at 20 2) (d.at 22 2) (d.at 28 1) (d.at 32 8) (d.at 24 4) []) :
    ∃ t u, exec (.restore id) s = .next t ∧ t = (u.addJob k (jobTag d 30) 0 0).endAtCommit id 0 ∧
      u = (s.vaWrite d.part (d.at 32 8) (List.replicate (s.restoreTableBytes d.part (d.at 20 2)) 0)).2 ∧
      (s.cuts = [] → t.jobs = s.jobs ++ [⟨s.nextId, k, jobTag d 30, 0, 0, 0, 0⟩] ∧ t.nextId = s.nextId + 1 ∧
        (t.desc? id).map (fun e => (e.ended, e.status)) = some (true, 0)) := by
  have hstand := (hbmWrote_vaWrite s d.part (d.at 32 8) (List.replicate (s.restoreTableBytes d.part (d.at 20 2)) 0) false).jobsStand
  obtain ⟨u, hu⟩ : ∃ u, (s.vaWrite d.part (d.at 32 8) (List.replicate (s.restoreTableBytes d.part (d.at 20 2)) 0)).2 = u := ⟨_, rfl⟩
  rw [hu] at hstand
  have hexec : exec (.restore id) s = .next ((u.addJob k (jobTag d 30) 0 0).endAtCommit id stOk) := by
    refine congrArg Host.Outcome.next ((runOff_of_offCore h _).trans ?_)
    dsimp only
    rw [hcheck]
    dsimp only
    rw [hu, if_neg hwins, hk]
  have hjobs : ((u.addJob k (jobTag d 30) 0 0).endAtCommit id stOk).jobs = u.jobs ++ [⟨u.nextId, k, jobTag d 30, 0, 0, 0, 0⟩] := rfl
  have hnext : ((u.addJob k (jobTag d 30) 0 0).endAtCommit id stOk).nextId = u.nextId + 1 := rfl
  have hinflight : (u.addJob k (jobTag d 30) 0 0).inflight = u.inflight := rfl
  refine ⟨_, u, hexec, rfl, hu.symm, fun _ => ⟨?_, ?_, desc?_endAtCommit ?_ h.2.1 _⟩⟩
  · rw [hjobs, hstand.jobs, hstand.nextId]
  · rw [hnext, hstand.nextId]
  · exact (desc?_of_inflight (hinflight.trans hstand.inflight) id).trans h.1

theorem restore_refused (h : offCore s id 0x42 d) (hcheck : s.restoreCheck d = some st) :
    exec (.restore id) s = .next (s.endAtCommit id st) := by
  refine congrArg Host.Outcome.next ((runOff_of_offCore h _).trans ?_)
  dsimp only
  rw [hcheck]

theorem id_of_job? {job : Nat} {j : Job} (h : s.job? job = some j) : j.id = job := by
  have := List.find?_some h
  simpa using this

theorem restoreTimeout_ends {job tgt mask tag part table wins : Nat} {dn : List Nat} {j : Job} (hjob : s.job? job = some j)
    (hkind : j.kind = .restore tgt mask tag part table wins dn) (hms : s.nat (kRestoreTimeoutMs j.tag.part) ≠ 0) :
    exec (.restoreTimeout job) s = .next (s.endJob j 1 8) := by
  show execRestoreTimeout job s = _
  unfold execRestoreTimeout
  rw [hjob]
  dsimp only
  rw [hkind]
  exact if_neg hms

theorem restoreTimeout_off {job : Nat} {j : Job} (hjob : s.job? job = some j) (hms : s.nat (kRestoreTimeoutMs j.tag.part) = 0) :
    exec (.restoreTimeout job) s = .next s := by
  show execRestoreTimeout job s = _
  unfold execRestoreTimeout
  rw [hjob]
  dsimp only
  split
  · exact if_pos hms
  · rfl

/-- A job event that the full event ring loses, of a descriptor with no DONE fence (R350). -/
theorem jobEvent_lost {kind status cause cutId cutFrame records detail : Nat} {tag : JobTag} (hdone : bitOf tag.done 15 = false)
    (hfull : (s.nat (kEventProd tag.part) + 2 ^ 32 - s.nat (kEventCons tag.part)) % 2 ^ 32 = s.nat (kEventSlots tag.part)) :
    s.jobEvent kind status cause tag cutId cutFrame records detail = s.bump (kEventsLost tag.part) := by
  unfold State.jobEvent
  dsimp only
  rw [if_pos hfull, if_neg (by simp [hdone])]

theorem endJob_lost {tgt mask tag part table wins status cause : Nat} {dn : List Nat} {j : Job}
    (hkind : j.kind = .restore tgt mask tag part table wins dn) (hdone : bitOf j.tag.done 15 = false)
    (hfull : (s.nat (kEventProd j.tag.part) + 2 ^ 32 - s.nat (kEventCons j.tag.part)) % 2 ^ 32 = s.nat (kEventSlots j.tag.part)) :
    s.endJob j status cause = (s.dropJob j.id).bump (kEventsLost j.tag.part) := by
  unfold State.endJob
  dsimp only
  rw [hkind]
  exact jobEvent_lost hdone hfull

end Cuts

end Sys2Proof.Safety

namespace Sys2Proof.Safety

open Sys2Proof.Machine

/-! ### Records that land in a window (R364, R387, R388) -/

section Windows

variable {s t u : State} {w via start len : Nat} {l : List Byte}

theorem handedOn_ackSend (s : State) (via w : Nat) (l : List Byte) : HandedOn s (s.ackSend via w l) := by
  have hemit : HandedOn s (s.emit (.winAck w l)) := ⟨rfl, rfl, rfl, rfl, (Quiet.refl s).memoryKept, (Quiet.refl s).workKept⟩
  unfold State.ackSend
  dsimp only
  split
  · exact hemit.trans (handedOn_setPort ..)
  · exact hemit.trans (handedOn_roceWrite ..)

/-- The state in which a window that saw no record pass is about to take one. -/
def unpassed (s : State) (w : Nat) : State := s.setWin w { s.win w with passed := [] }

/-- A record for a CLOSED window is refused (R387, R358). -/
theorem recordLands_closed (hclosed : s.nat (kWinState w) = 0) (hpassed : (s.win w).passed = [])
    (hstart : start < s.winAckBytes w + s.nat (kWinBytes w)) : s.recordLands w via start len = (unpassed s w).ackSend via w
      (formAck (byteField (s.winBytes w start len) 16 8) 0 (byteField (s.winBytes w start len) 10 2)
        (byteField (s.winBytes w start len) 12 2) 3) := by
  have hsender : s.winSender w start (s.winBytes w start len) =
      (byteField (s.winBytes w start len) 10 2, byteField (s.winBytes w start len) 12 2) := if_pos (by simp [hstart])
  unfold State.recordLands
  dsimp only
  rw [hpassed]
  simp only [List.find?_nil, List.filter_nil, hsender]
  exact if_pos hclosed

theorem recordReceived_closed (hclosed : s.nat (kWinState w) = 0) (hpassed : (s.win w).passed = [])
    (hstart : start < s.winAckBytes w + s.nat (kWinBytes w)) (hl : l = s.winBytes w start len) :
    exec (.recordReceived w via start len) s =
      .next ((s.setWin w { s.win w with passed := [] }).ackSend via w
        (formAck (byteField l 16 8) 0 (byteField l 10 2) (byteField l 12 2) 3)) := by
  have hlands := recordLands_closed (via := via) (len := len) hclosed hpassed hstart
  have hkept : (s.recordLands w via start len).reg (kWinRecords w) = s.reg (kWinRecords w) := by
    rw [hlands, State.reg_of_regs (handedOn_ackSend ..).regs]
    rfl
  rw [hl]
  exact (if_neg fun h => h.2 hkept).trans (congrArg Host.Outcome.next hlands)

/-- A window as its first record leaves it before it is handled. -/
def boundWin (epoch upTo : Nat) : WinSt := { epoch := some epoch, expect := 0, recvBytes := upTo, ackBytes := 0 }

/-- The state in which a window has bound itself to the sender of its first record (R387). -/
def bound (s : State) (w sender epoch upTo : Nat) : State :=
  (((s.setWin w {}).setNat (kWinState w) 2).setNat (kWinSender w) sender).setWin w (boundWin epoch upTo)

/-- A LAND window's first record, well formed, binds it and is handled (R364, R387). -/
theorem recordLands_first (hwin : s.win w = {}) (hopen : s.nat (kWinState w) = 1) (hmode : s.nat (kWinMode w) = 0)
    (hfits : start + len ≤ s.nat (kWinConsumed w) + s.nat (kWinBytes w)) (hl : s.winBytes w start len = l)
    (hcrc : recordCrcOk l = true) (hform : recordFormatOk l = true) : s.recordLands w via start len =
      (bound s w (byteField l 10 2 + byteField l 8 2 * 65536) (byteField l 12 2) (start + len)).recordTaken w via (start + len) l := by
  have hlen : 256 ≤ len := by
    have hshort : l.length ≤ len := by
      rw [← hl, State.winBytes]
      exact (List.length_filterMap_le ..).trans (by rw [length_countFrom])
    simp only [recordFormatOk, Bool.and_eq_true, decide_eq_true_eq] at hform
    obtain ⟨⟨⟨⟨-, hlong⟩, -⟩, -⟩, -⟩ := hform
    omega
  have hstart : start < s.winAckBytes w + s.nat (kWinBytes w) := by
    rw [State.winAckBytes, if_pos hmode]
    omega
  have hsender : s.winSender w start l = (byteField l 10 2, byteField l 12 2) := if_pos (by simp [hstart])
  have hack : (s.setWin w {}).winAckBytes w = s.nat (kWinConsumed w) := if_pos hmode
  have hst : (s.setWin w {}).nat (kWinState w) = 1 := hopen
  have hwinS : (s.setWin w {}).win w = {} := win_setWin_same ..
  unfold State.recordLands
  dsimp only
  rw [hl, hwin]
  simp only [List.find?_nil, List.filter_nil, List.any_nil, Bool.false_or, hsender]
  refine (if_neg (by rw [hst]; decide)).trans ((if_neg ?_).trans ((if_neg (by simp [hcrc])).trans ((if_neg (by simp [hform])).trans
    ((if_neg ?_).trans ?_))))
  · have hin : (s.setWin w {}).nat (kWinBytes w) = s.nat (kWinBytes w) := rfl
    have hroom : start + len ≤ (s.setWin w {}).winAckBytes w + (s.setWin w {}).nat (kWinBytes w) := by rw [hack, hin]; exact hfits
    exact fun h => absurd (of_decide_eq_true h) (Nat.not_lt.2 hroom)
  · exact fun h => absurd (hst.symm.trans h.1) (by decide)
  · rw [hwinS]
    rfl

/-- A window that has taken the first record of its sender. -/
def tookFirst (s : State) (w upTo : Nat) : State :=
  (s.setWin w { s.win w with expect := 1, ackBytes := upTo }).wrapAdd (kWinRecords w)

/-- The record a LAND window expects first is taken and acknowledged (R364). -/
theorem recordTaken_first (hexpect : (s.win w).expect = 0) (hseq : byteField l 16 8 = 0) (hmode : s.nat (kWinMode w) = 0)
    (hkind : byteField l 4 1 = 1) {upTo : Nat} : s.recordTaken w via upTo l = (tookFirst s w upTo).ackSend via w
      (formAck 1 (s.nat (kWinConsumed w)) (byteField l 10 2) (byteField l 12 2) 0) := by
  have hcons : (tookFirst s w upTo).winAckBytes w = s.nat (kWinConsumed w) := by
    have hm : (tookFirst s w upTo).nat (kWinMode w) = 0 :=
      ((told_wrapAdd _ (kWinRecords w) 1 64).nat (by simp [kWinMode, kWinRecords])).trans hmode
    rw [State.winAckBytes, if_pos hm]
    exact (told_wrapAdd _ (kWinRecords w) 1 64).nat (by simp [kWinConsumed, kWinRecords])
  unfold State.recordTaken
  dsimp only
  rw [hexpect, hseq, hmode]
  refine (if_neg (by decide)).trans ((if_neg (by decide)).trans ?_)
  rw [if_pos (by decide), if_neg (by rw [hkind]; decide)]
  exact congrArg (fun a => (tookFirst s w upTo).ackSend via w (formAck 1 a _ _ 0)) hcons

/-- An acknowledgement that goes out over a Strings port. -/
theorem ackSend_port (hvia : via < 16) : s.ackSend via w l = (s.emit (.winAck w l)).setPort via
    { s.port via with acks := (s.port via).acks ++ [(byteField l 16 2, l)] } := if_pos hvia

/-- What binding a window to a sender leaves (R387). -/
theorem bound_leaves (s : State) (w : Nat) {sender epoch upTo : Nat} (hsender : sender < 2 ^ 64) :
    (bound s w sender epoch upTo).win w = boundWin epoch upTo ∧ (bound s w sender epoch upTo).nat (kWinState w) = 2 ∧
    (bound s w sender epoch upTo).nat (kWinSender w) = sender ∧ slotsKept s (bound s w sender epoch upTo) [kWinState w, kWinSender w] ∧
    (bound s w sender epoch upTo).ports = s.ports ∧ memoryKept s (bound s w sender epoch upTo) := by
  have hne : kWinState w ≠ kWinSender w := by unfold kWinState kWinSender; omega
  refine ⟨win_setWin_same .., (State.nat_setNat_other _ _ hne).trans (State.nat_setNat_same _ (by decide)),
    State.nat_setNat_same _ hsender, fun k hk => ?_, rfl, (Quiet.refl s).memoryKept⟩
  simp only [List.mem_cons, List.not_mem_nil, or_false, not_or] at hk
  exact (State.reg_setNat_other _ _ hk.2).trans (State.reg_setNat_other _ _ hk.1)

/-- What the first record's count leaves. -/
theorem tookFirst_leaves (s : State) (w upTo : Nat) : (tookFirst s w upTo).nat (kWinRecords w) = (s.nat (kWinRecords w) + 1) % 2 ^ 64 ∧
    (tookFirst s w upTo).win w = { s.win w with expect := 1, ackBytes := upTo } ∧ slotsKept s (tookFirst s w upTo) [kWinRecords w] ∧
    (tookFirst s w upTo).ports = s.ports ∧ memoryKept s (tookFirst s w upTo) :=
  ⟨nat_wrapAdd_same .., win_setWin_same .., fun _ hk => State.reg_setNat_other _ _ (by simpa using hk), rfl,
    (Quiet.refl s).memoryKept⟩

/-- An acknowledgement over a Strings port waits on it, and changes no slot and no memory. -/
theorem ackSend_leaves (hvia : via < 16) : ((s.ackSend via w l).port via).acks = (s.port via).acks ++ [(byteField l 16 2, l)] ∧
    (s.ackSend via w l).regs = s.regs ∧ (s.ackSend via w l).win w = s.win w ∧ memoryKept s (s.ackSend via w l) := by
  have hkept := handedOn_ackSend s via w l
  refine ⟨?_, hkept.regs, ?_, hkept.memory⟩
  · rw [ackSend_port hvia, port_setPort_same]
  · rw [ackSend_port hvia]
    rfl

theorem xLands_other (h : byteField l 4 1 ≠ 5) {upTo : Nat} : s.xLands w upTo l = s := if_neg fun hx => h hx.1

/-- The first record of a LAND window binds it, is taken and acknowledged (R364, R387). -/
theorem recordReceived_first (hvia : via < 16) (hopen : s.nat (kWinState w) = 1)
    (hmode : s.nat (kWinMode w) = 0) (hwin : s.win w = {}) (hfits : start + len ≤ s.nat (kWinConsumed w) + s.nat (kWinBytes w))
    (hl : l = s.winBytes w start len) (hcrc : recordCrcOk l = true) (hform : recordFormatOk l = true)
    (hseq : byteField l 16 8 = 0) (hkind : byteField l 4 1 = 1) :
    ∃ t, exec (.recordReceived w via start len) s = .next t ∧ t.nat (kWinState w) = 2 ∧
      t.nat (kWinSender w) = byteField l 10 2 + byteField l 8 2 * 65536 ∧
      t.nat (kWinRecords w) = (s.nat (kWinRecords w) + 1) % 2 ^ 64 ∧ (t.win w).expect = 1 ∧
      (t.win w).epoch = some (byteField l 12 2) ∧
      (t.port via).acks = (s.port via).acks ++ [(byteField l 10 2,
        formAck 1 (s.nat (kWinConsumed w)) (byteField l 10 2) (byteField l 12 2) 0)] ∧
      memoryKept s t ∧ slotsKept s t [kWinState w, kWinSender w, kWinRecords w] := by
  have h10 : byteField l 10 2 < 2 ^ 16 := byteField_lt l 10 2
  have h8 : byteField l 8 2 < 2 ^ 16 := byteField_lt l 8 2
  have hlands := recordLands_first (via := via) hwin hopen hmode hfits hl.symm hcrc hform
  obtain ⟨hbwin, hbstate, hbsender, hbslots, hbports, hbmem⟩ :=
    bound_leaves s w (sender := byteField l 10 2 + byteField l 8 2 * 65536) (epoch := byteField l 12 2) (upTo := start + len) (by omega)
  obtain ⟨b, hb⟩ : ∃ b, bound s w (byteField l 10 2 + byteField l 8 2 * 65536) (byteField l 12 2) (start + len) = b := ⟨_, rfl⟩
  rw [hb] at hlands hbwin hbstate hbsender hbslots hbports hbmem
  have hbmode : b.nat (kWinMode w) = 0 := (nat_of_reg (hbslots _ (by simp [kWinMode, kWinState, kWinSender]))).trans hmode
  have hbcons : b.nat (kWinConsumed w) = s.nat (kWinConsumed w) :=
    nat_of_reg (hbslots _ (by simp [kWinConsumed, kWinState, kWinSender]))
  have hbrec : b.reg (kWinRecords w) = s.reg (kWinRecords w) := hbslots _ (by simp [kWinRecords, kWinState, kWinSender])
  rw [recordTaken_first (hbwin ▸ rfl) hseq hbmode hkind, hbcons] at hlands
  obtain ⟨htrec, htwin, htslots, htports, htmem⟩ := tookFirst_leaves b w (start + len)
  obtain ⟨u, hu⟩ : ∃ u, tookFirst b w (start + len) = u := ⟨_, rfl⟩
  rw [hu] at hlands htrec htwin htslots htports htmem
  obtain ⟨hacks, hregs, haw, hamem⟩ := ackSend_leaves (s := u) (w := w)
    (l := formAck 1 (s.nat (kWinConsumed w)) (byteField l 10 2) (byteField l 12 2) 0) hvia
  rw [← hlands] at hacks hregs haw hamem
  obtain ⟨t, ht⟩ : ∃ t, s.recordLands w via start len = t := ⟨_, rfl⟩
  rw [ht] at hacks hregs haw hamem
  have hexec : exec (.recordReceived w via start len) s = .next t := by
    show execRecordReceived w via start len s = _
    unfold execRecordReceived
    dsimp only
    rw [ht, ← hl, xLands_other (by rw [hkind]; decide), ite_self]
  have hfield := (byteField_formAck (seqno := 1) (bytes := s.nat (kWinConsumed w)) (st := byteField l 10 2)
    (epoch := byteField l 12 2) (nak := 0)).2.2.1
  have hport : u.port via = s.port via := by simp only [State.port, htports.trans hbports]
  have hreg : ∀ k, t.reg k = u.reg k := State.reg_of_regs hregs
  refine ⟨t, hexec, ?_, ?_, ?_, ?_, ?_, ?_, (hbmem.trans htmem).trans hamem, fun k hk => ?_⟩
  · exact (nat_of_reg ((hreg _).trans (htslots _ (by simp [kWinState, kWinRecords])))).trans hbstate
  · exact (nat_of_reg ((hreg _).trans (htslots _ (by simp [kWinSender, kWinRecords])))).trans hbsender
  · exact (nat_of_reg (hreg _)).trans (htrec.trans (by rw [nat_of_reg hbrec]))
  · rw [haw, htwin]
  · rw [haw, htwin, hbwin]
    rfl
  · rw [hacks, hport, hfield, Nat.mod_eq_of_lt h10]
  · simp only [List.mem_cons, List.not_mem_nil, or_false, not_or] at hk
    obtain ⟨hstate, hsender, hrecords⟩ := hk
    exact (hreg k).trans ((htslots k (by simpa using hrecords)).trans (hbslots k (by simp [hstate, hsender])))

/-- A window of the other mode hands its records to the restore and to no exchange (R390). -/
theorem recordReceived_restore (hmode : s.nat (kWinMode w) = 1) :
    exec (.recordReceived w via start len) s = .next (s.recordLands w via start len) :=
  if_neg fun h => absurd (hmode.symm.trans h.1) (by decide)

end Windows

/-! ### Records and cuts (R356 to R394) -/

section Records

variable {s : State}

theorem ackReceived_good {st seqno bytes : Nat} (hst : st < 256) (hlo : s.nat (kAckSeqno st) ≤ seqno)
    (hhi : seqno ≤ s.nat (kNextSeqno st)) (hoff : bytes ≤ (s.stream st).byteOff) (hbytes : bytes < 2 ^ 64)
    (hepoch : s.nat (kStreamEpoch st) < 2 ^ 16) (hsrc : ∀ r ∈ (s.stream st).sent ++ (s.stream st).again, r.src = .fence) :
    exec (.ackReceived st (formAck seqno bytes st (s.nat (kStreamEpoch st)) 0)) s = .next (acked s st seqno bytes) :=
  congrArg Host.Outcome.next (applyAck_good hst hlo hhi hoff hbytes hepoch hsrc)

/-- A retransmission of a stream that is not up, or that waits for no acknowledgement, does nothing (R361). -/
theorem retransmit_idle {st : Nat} (h : s.transportOk st = false ∨ s.streamUp st = false ∨
    (s.stream st).sent ++ (s.stream st).again = []) : exec (.retransmit st) s = .next s := by
  show execRetransmit st s = _
  unfold execRetransmit
  split
  next hok =>
    refine congrArg Host.Outcome.next (if_pos ?_)
    obtain hbad | hdown | hnone := h
    · exact absurd (hok.symm.trans hbad) (by decide)
    · exact .inl hdown
    · exact .inr (List.append_eq_nil_iff.1 hnone)
  next => rfl

/-- An accepted write of STREAM_ACK over RoCE is an acknowledgement (R358). -/
theorem streamAckWrite_applied {who : Requester} {st : Nat} {bytes : List Byte}
    (hacc : acceptsLong s who (kStreamAck st / 256) (kStreamAck st % 256) bytes) (htransport : s.nat (kTransport st) = 2) :
    exec (.streamAckWrite who st bytes) s = .next ((s.applyAck st bytes).applied who) := by
  obtain ⟨hok, l, hgate⟩ := hacc
  refine congrArg Host.Outcome.next ((if_pos hok).trans ?_)
  dsimp only
  rw [hgate]
  dsimp only
  rw [if_pos htransport]
  rfl

/-- A RESTORE that times out while the event ring is full (R350, R392). -/
theorem restoreTimeout_lost {job tgt mask tag part table wins : Nat} {dn : List Nat} {j : Job} (hjob : s.job? job = some j)
    (hkind : j.kind = .restore tgt mask tag part table wins dn) (hms : s.nat (kRestoreTimeoutMs j.tag.part) ≠ 0)
    (hdone : bitOf j.tag.done 15 = false)
    (hfull : (s.nat (kEventProd j.tag.part) + 2 ^ 32 - s.nat (kEventCons j.tag.part)) % 2 ^ 32 = s.nat (kEventSlots j.tag.part)) :
    ∃ t, exec (.restoreTimeout job) s = .next t ∧ t.jobs = s.jobs.filter (fun x => x.id != job) ∧
      t.nat (kEventsLost j.tag.part) = satAdd 32 (s.nat (kEventsLost j.tag.part)) 1 ∧
      slotsKept s t [kEventsLost j.tag.part] ∧ memoryKept s t ∧ t.inflight = s.inflight := by
  refine ⟨_, (restoreTimeout_ends hjob hkind hms).trans (congrArg Host.Outcome.next (endJob_lost hkind hdone hfull)), ?_,
    nat_bump_same _ _ _ (by decide), fun k hk => State.reg_setNat_other _ _ (by simpa using hk), (Quiet.refl s).memoryKept, rfl⟩
  rw [← id_of_job? hjob]
  rfl

end Records

/-- Settles O19: a stream sends its waiting record with the next SEQNO, an acknowledgement is tested and moves what it
acknowledges, a retransmission owes every record again, and cuts, replays, restores and landed records follow their checks. -/
theorem recordsAndCuts : Obligations.RecordsAndCuts := by
  unfold Obligations.RecordsAndCuts
  refine ⟨?_, ?_, ?_, ?_, ?_, ?_, ?_, ?_, ?_, ?_, ?_, ?_, ?_, ?_, ?_, ?_, ?_, ?_, ?_, ?_, ?_, ?_, ?_⟩
  · intro s st p ecc w rest b hst hp hlive howner hagain hpaid hwait hsrc hb hring hbudget hlink
    exact recordSend_leaves hst hp hlive howner hagain hpaid hwait hsrc hb hring hbudget hlink
  · exact fun s st ecc hlive => recordSend_other hlive
  · exact fun s st ack hbad => congrArg Host.Outcome.next (applyAck_bad hbad)
  · intro s st seqno bytes hst hlo hhi hoff hbytes hepoch hsrc
    obtain ⟨hseqno, hack, hstream, hslots, hmem, hwork⟩ :=
      acked_leaves s st (lt_of_le_of_lt hhi (BitVec.isLt _) : seqno < 2 ^ 64) hbytes
    refine ⟨_, ackReceived_good hst hlo hhi hoff hbytes hepoch hsrc, hseqno, hack, ?_, ?_, ?_, ?_, hslots, hmem, hwork⟩
    · rw [hstream]; rfl
    · rw [hstream]; rfl
    · exact fun hlt => by rw [hstream]; exact if_pos hlt
    · rw [hstream]; rfl
  · exact fun s who st bytes hacc htransport => streamAckWrite_applied hacc htransport
  · intro s who st seqno bytes ack hst hack hacc htransport hlo hhi hoff hbytes hepoch hsrc
    subst hack
    obtain ⟨hseqno, hack, hstream, hslots, hmem, hwork⟩ :=
      acked_leaves s st (lt_of_le_of_lt hhi (BitVec.isLt _) : seqno < 2 ^ 64) hbytes
    have hexec := streamAckWrite_applied hacc htransport
    rw [applyAck_good hst hlo hhi hoff hbytes hepoch hsrc] at hexec
    refine ⟨_, hexec, hseqno, hack, ?_, hslots, hmem.applied who, hwork.applied who⟩
    exact (congrArg StreamSt.sent hstream).trans rfl
  · intro s st hok hup hsome hlimit
    have hexec := (exec_retransmit hok).trans (congrArg Host.Outcome.next (retransmit_owed hup hsome hlimit))
    exact ⟨_, hexec, resendAll_leaves s st⟩
  · intro s st hok hup hsome hlimit
    exact ⟨(exec_retransmit hok).trans (congrArg Host.Outcome.next (retransmit_spent hup hsome hlimit)),
      fun hjobs hpages hcut hsrc => retransmit_error hok hup hsome hlimit hjobs hpages hcut hsrc⟩
  · intro s st h
    exact retransmit_idle h
  · exact fun s id d h hcheck _ => cut_accepted h hcheck
  · exact fun s id st d h hcheck => cut_refused h hcheck
  · exact fun s p _ hstate hframe hposted => cutFreeze_leaves hstate hframe hposted
  · intro s p h
    refine (exec_cutFreeze s p).trans (if_neg fun hgo => ?_)
    exact h.elim (fun hstate => hstate hgo.1) fun hlt => absurd hgo.2.1 (Nat.not_le.2 hlt)
  · exact fun s p w v pa hw hp hold hplace => cutFreeze_waits hw hp hold hplace
  · exact fun s id d h hcheck => replay_accepted h hcheck
  · exact fun s id st d h hcheck => replay_refused h hcheck
  · exact fun s id d k h hcheck hwins hk => restore_accepted h hcheck hwins hk
  · exact fun s id st d h hcheck => restore_refused h hcheck
  · exact fun s job tgt mask tag part table wins dn j hjob hkind hms =>
      ⟨restoreTimeout_ends hjob hkind hms, fun hdone hfull => restoreTimeout_lost hjob hkind hms hdone hfull⟩
  · exact fun s job j hjob hms => restoreTimeout_off hjob hms
  · exact fun s w via start len hmode => recordReceived_restore hmode
  · exact fun s w via start len l hclosed hpassed hstart hl => recordReceived_closed hclosed hpassed hstart hl
  · exact fun s w via start len l _ hvia hopen hmode hwin hfits hl hcrc hform hseq hkind =>
      recordReceived_first hvia hopen hmode hwin hfits hl hcrc hform hseq hkind

end Sys2Proof.Safety

namespace Sys2Proof.Safety

open Sys2Proof.Machine

/-! ### Sectors, cores and granules that change hands are zeroed (R141, R147, R152, R155, R491, R528, R529) -/

section Zeroing

variable {s t u : State} {who : Requester} {c f m : Nat} {v : Word}

/-- A table of bytes with a range of `n` bytes cleared at each of the places `b i`. -/
def clearAll (m : Tbl Byte) (b : Nat → Nat) (n : Nat) (l : List Nat) : Tbl Byte := l.foldl (fun m i => clearBytes m (b i) n) m

theorem get_clearAll (b : Nat → Nat) (n x : Nat) (l : List Nat) : ∀ m : Tbl Byte, Tbl.get 0 (clearAll m b n l) x =
    if ∃ i ∈ l, b i ≤ x ∧ x < b i + n then 0 else Tbl.get 0 m x := by
  induction l with
  | nil => intro m; simp [clearAll]
  | cons i l ih =>
    intro m
    refine (ih (clearBytes m (b i) n)).trans ?_
    rw [get_clearBytes]
    by_cases hl : ∃ j ∈ l, b j ≤ x ∧ x < b j + n
    · rw [if_pos hl, if_pos (by simp [hl])]
    · rw [if_neg hl]
      exact if_congr (by simp only [List.exists_mem_cons_iff, hl, or_false]) rfl rfl

theorem get_clearAll_in {b : Nat → Nat} {n x i : Nat} {l : List Nat} (hi : i ∈ l) (hlo : b i ≤ x) (hhi : x < b i + n) (m : Tbl Byte) :
    Tbl.get 0 (clearAll m b n l) x = 0 := by
  rw [get_clearAll, if_pos ⟨i, hi, hlo, hhi⟩]

theorem get_clearAll_out {b : Nat → Nat} {n x : Nat} {l : List Nat} (h : ∀ i ∈ l, x < b i ∨ b i + n ≤ x) (m : Tbl Byte) :
    Tbl.get 0 (clearAll m b n l) x = Tbl.get 0 m x := by
  rw [get_clearAll, if_neg]
  rintro ⟨i, hi, hlo, hhi⟩
  obtain hbelow | habove := h i hi
  · omega
  · omega

theorem mem_changedBits {n a b i : Nat} : i ∈ changedBits n a b ↔ i < n ∧ bitOf a i ≠ bitOf b i := by
  simp [changedBits, mem_countFrom]

theorem changedBits_ne_nil {w v : Word} (h : v ≠ w) : changedBits 64 w.toNat v.toNat ≠ [] := by
  intro hnil
  refine h (BitVec.eq_of_getLsbD_eq fun i hi => ?_)
  have hnot : i ∉ changedBits 64 w.toNat v.toNat := by rw [hnil]; exact List.not_mem_nil
  rw [mem_changedBits, bitOf_eq_testBit, bitOf_eq_testBit, BitVec.testBit_toNat, BitVec.testBit_toNat] at hnot
  exact (not_not.1 fun hne => hnot ⟨hi, hne⟩).symm

/-- Sectors of a Local Store are zeroed. -/
theorem lsZeroAll_eq (l : List Nat) : ∀ s : State, ∃ x, l.foldl (fun (t : State) i => t.lsZero c (i * 16384) 16384) s =
    { s with ls := clearAll s.ls (fun i => c * 2 ^ 20 + i * 16384) 16384 l, flips := x } := by
  induction l with
  | nil => exact fun s => ⟨s.flips, rfl⟩
  | cons i l ih => exact fun s => ih (s.lsZero c (i * 16384) 16384)

/-- Sectors of a Frond Store are zeroed. -/
theorem fsZeroAll_eq (l : List Nat) : ∀ s : State, ∃ x, l.foldl (fun (t : State) i => t.zeroSector ⟨true, f, 0, i * 16384⟩) s =
    { s with fs := clearAll s.fs (fun i => f * 2 ^ 22 + i * 16384) 16384 l, flips := x } := by
  induction l with
  | nil => exact fun s => ⟨s.flips, rfl⟩
  | cons i l ih =>
    intro s
    have hsector : s.zeroSector ⟨true, f, 0, i * 16384⟩ = s.fsZero f (i * 16384) 16384 := by
      show s.fsZero f (i * 16384 / 16384 * 16384) 16384 = _
      rw [Nat.mul_div_cancel i (by decide)]
    rw [List.foldl_cons, hsector]
    exact ih (s.fsZero f (i * 16384) 16384)

theorem zeroChanged_eq (s : State) (parts : List Nat) (any : Bool) :
    ∃ z n, s.zeroChanged parts any = { s with zeroing := z, nextId := n } := by
  cases any with
  | false => exact ⟨s.zeroing, s.nextId, rfl⟩
  | true => exact ⟨_, _, rfl⟩

/-- The state once the sectors `l` of a Local Store have been zeroed with the map that names them. -/
theorem lsMapped_leaves {l : List Nat} {parts : List Nat} {any : Bool} {k : Nat}
    (ht : t = (l.foldl (fun (t : State) i => t.lsZero c (i * 16384) 16384) (s.setReg k v)).zeroChanged parts any) :
    t.ls = clearAll s.ls (fun i => c * 2 ^ 20 + i * 16384) 16384 l ∧ t.regs = (s.setReg k v).regs ∧ t.fs = s.fs ∧ t.hbm = s.hbm ∧
      t.acc = s.acc ∧ t.octs = s.octs := by
  obtain ⟨x, hx⟩ := lsZeroAll_eq (c := c) l (s.setReg k v)
  rw [hx] at ht
  obtain ⟨z, n, hz⟩ := zeroChanged_eq { s.setReg k v with ls := clearAll (s.setReg k v).ls (fun i => c * 2 ^ 20 + i * 16384) 16384 l, flips := x }
    parts any
  rw [ht, hz]
  exact ⟨rfl, rfl, rfl, rfl, rfl, rfl⟩

/-- The state once the sectors `l` of a Frond Store have been zeroed. -/
theorem fsMapped_leaves {l : List Nat} {parts : List Nat} {any : Bool}
    (ht : t = (l.foldl (fun (t : State) i => t.zeroSector ⟨true, f, 0, i * 16384⟩) s).zeroChanged parts any) :
    t.fs = clearAll s.fs (fun i => f * 2 ^ 22 + i * 16384) 16384 l ∧ t.regs = s.regs ∧ t.ls = s.ls ∧ t.hbm = s.hbm ∧
      t.acc = s.acc ∧ t.octs = s.octs := by
  obtain ⟨x, hx⟩ := fsZeroAll_eq (f := f) l s
  rw [hx] at ht
  obtain ⟨z, n, hz⟩ := zeroChanged_eq { s with fs := clearAll s.fs (fun i => f * 2 ^ 22 + i * 16384) 16384 l, flips := x } parts any
  rw [ht, hz]
  exact ⟨rfl, rfl, rfl, rfl, rfl, rfl⟩

/-- What LS_WEIGHT_MAP leaves when its owner is halted (R141, R147). -/
theorem lsWeightMap_written (h : accepts s who .lsWeightMap (kLsWeightMap c) v) (hhalted : s.ownerHalted (s.coreOwner c) = true) :
    ∃ t, exec (.lsWeightMapWrite who c v) s = .next t ∧ t.reg (kLsWeightMap c) = v ∧ slotsKept s t [kLsWeightMap c] ∧
      (∀ i o, i < 64 → o < 16384 → bitOf (s.nat (kLsWeightMap c)) i ≠ bitOf v.toNat i →
        Tbl.get 0 t.ls (c * 2 ^ 20 + i * 16384 + o) = 0) ∧
      (∀ i o, i < 64 → o < 16384 → bitOf (s.nat (kLsWeightMap c)) i = bitOf v.toNat i →
        Tbl.get 0 t.ls (c * 2 ^ 20 + i * 16384 + o) = Tbl.get 0 s.ls (c * 2 ^ 20 + i * 16384 + o)) ∧
      (∀ a, a / 2 ^ 20 ≠ c → Tbl.get 0 t.ls a = Tbl.get 0 s.ls a) ∧ t.fs = s.fs ∧ t.hbm = s.hbm ∧ t.acc = s.acc ∧
      t.octs = s.octs := by
  obtain ⟨u, hu⟩ : ∃ u, u = ((changedBits 64 (s.nat (kLsWeightMap c)) v.toNat).foldl
    (fun (t : State) i => t.lsZero c (i * 16384) 16384) (s.setReg (kLsWeightMap c) v)).zeroChanged [s.coreOwner c]
      (changedBits 64 (s.nat (kLsWeightMap c)) v.toNat != []) := ⟨_, rfl⟩
  have hexec : exec (.lsWeightMapWrite who c v) s = .next (u.applied who) :=
    next_applied h fun l => (if_neg fun hbad => absurd (hhalted.symm.trans hbad.2) (by decide)).trans (congrArg Except.ok hu.symm)
  obtain ⟨hls, hregs, hfs, hhbm, hacc, hocts⟩ := lsMapped_leaves hu
  refine ⟨_, hexec, ?_, fun k hk => ?_, fun i o hi ho hne => ?_, fun i o hi ho heq => ?_, fun a ha => ?_, hfs, hhbm, hacc, hocts⟩
  · exact (State.reg_of_regs hregs _).trans (State.reg_setReg_same ..)
  · exact (State.reg_of_regs hregs _).trans (State.reg_setReg_other _ _ (by simpa using hk))
  · exact (congrArg (Tbl.get 0 · _) hls).trans (get_clearAll_in (mem_changedBits.2 ⟨hi, hne⟩) (by omega) (by omega) _)
  · refine (congrArg (Tbl.get 0 · _) hls).trans (get_clearAll_out (fun j hj => ?_) _)
    have hji : j ≠ i := fun hji => (mem_changedBits.1 (hji ▸ hj)).2 heq
    omega
  · refine (congrArg (Tbl.get 0 · _) hls).trans (get_clearAll_out (fun j hj => ?_) _)
    have hj64 := (mem_changedBits.1 hj).1
    omega

theorem lsWeightMap_refused (h : accepts s who .lsWeightMap (kLsWeightMap c) v) (hv : v ≠ s.reg (kLsWeightMap c))
    (hrun : s.ownerHalted (s.coreOwner c) = false) : exec (.lsWeightMapWrite who c v) s =
      .next (s.refuse who .notHalted (kLsWeightMap c / 256) (kLsWeightMap c % 256)) :=
  next_refused h fun _ => if_pos ⟨changedBits_ne_nil hv, hrun⟩

/-- What LS_SPEC_MAP leaves when its owner is halted and nothing runs ahead (R568). -/
theorem lsSpecMap_written (h : accepts s who .lsSpecMap (kLsSpecMap c) v) (hhalted : s.ownerHalted (s.coreOwner c) = true)
    (hahead : s.runahead = []) :
    exec (.lsSpecMapWrite who c v) s = .next ((s.setReg (kLsSpecMap c) v).applied who) := by
  refine next_applied h fun l => (if_neg fun hbad => absurd (hhalted.symm.trans hbad.2) (by decide)).trans ?_
  rw [squashPart_nil hahead, ite_self]

/-- What FS_WEIGHT_MAP leaves when the owners of the sectors that change are halted (R141, R152). -/
theorem fsWeightMap_written (h : accepts s who .fsWeightMap (kFsWeightMap f m) v)
    (hhalted : ∀ i, i < 64 → bitOf (s.nat (kFsWeightMap f m)) i ≠ bitOf v.toNat i →
      s.ownerHalted (s.oct (kFsOwner f) (64 * m + i)) = true) :
    ∃ t, exec (.fsWeightMapWrite who f m v) s = .next t ∧ t.reg (kFsWeightMap f m) = v ∧ slotsKept s t [kFsWeightMap f m] ∧
      (∀ i o, i < 64 → o < 16384 → bitOf (s.nat (kFsWeightMap f m)) i ≠ bitOf v.toNat i →
        Tbl.get 0 t.fs (f * 2 ^ 22 + (64 * m + i) * 16384 + o) = 0) ∧
      (∀ i o, i < 64 → o < 16384 → bitOf (s.nat (kFsWeightMap f m)) i = bitOf v.toNat i →
        Tbl.get 0 t.fs (f * 2 ^ 22 + (64 * m + i) * 16384 + o) = Tbl.get 0 s.fs (f * 2 ^ 22 + (64 * m + i) * 16384 + o)) ∧
      t.ls = s.ls ∧ t.hbm = s.hbm ∧ t.acc = s.acc ∧ t.octs = s.octs := by
  obtain ⟨ch, hch⟩ : ∃ ch, ch = (changedBits 64 (s.nat (kFsWeightMap f m)) v.toNat).map (64 * m + ·) := ⟨_, rfl⟩
  have hmem : ∀ {j}, j ∈ ch ↔ ∃ i, (i < 64 ∧ bitOf (s.nat (kFsWeightMap f m)) i ≠ bitOf v.toNat i) ∧ 64 * m + i = j := by
    intro j
    simp only [hch, List.mem_map, mem_changedBits]
  have hany : ((ch.map fun i => s.oct (kFsOwner f) i).any fun o => !s.ownerHalted o) = false := by
    refine List.any_eq_false.2 fun o ho => ?_
    obtain ⟨j, hj, rfl⟩ := List.mem_map.1 ho
    obtain ⟨i, ⟨hi, hne⟩, rfl⟩ := hmem.1 hj
    simp [hhalted i hi hne]
  obtain ⟨u, hu⟩ : ∃ u, u = (ch.foldl (fun (t : State) i => t.zeroSector ⟨true, f, 0, i * 16384⟩)
    (s.setReg (kFsWeightMap f m) v)).zeroChanged (ch.map fun i => s.oct (kFsOwner f) i) (ch != []) := ⟨_, rfl⟩
  have hexec : exec (.fsWeightMapWrite who f m v) s = .next (u.applied who) := by
    subst hch
    exact next_applied h fun l => (if_neg (by simpa using hany)).trans (congrArg Except.ok hu.symm)
  obtain ⟨hfs, hregs, hls, hhbm, hacc, hocts⟩ := fsMapped_leaves hu
  refine ⟨_, hexec, ?_, fun k hk => ?_, fun i o hi ho hne => ?_, fun i o hi ho heq => ?_, hls, hhbm, hacc, hocts⟩
  · exact (State.reg_of_regs hregs _).trans (State.reg_setReg_same ..)
  · exact (State.reg_of_regs hregs _).trans (State.reg_setReg_other _ _ (by simpa using hk))
  · exact (congrArg (Tbl.get 0 · _) hfs).trans (get_clearAll_in (hmem.2 ⟨i, ⟨hi, hne⟩, rfl⟩) (by omega) (by omega) _)
  · refine (congrArg (Tbl.get 0 · _) hfs).trans (get_clearAll_out (fun j hj => ?_) _)
    obtain ⟨n, ⟨hn, hne⟩, rfl⟩ := hmem.1 hj
    have hni : n ≠ i := fun hni => hne (hni ▸ heq)
    omega

theorem stores_setOctFrom (k : Nat) (bytes : List Byte) : ∀ (s : State) (a : Nat), (s.setOctFrom k a bytes).ls = s.ls ∧
    (s.setOctFrom k a bytes).fs = s.fs ∧ (s.setOctFrom k a bytes).hbm = s.hbm ∧ (s.setOctFrom k a bytes).acc = s.acc := by
  induction bytes with
  | nil => exact fun s a => ⟨rfl, rfl, rfl, rfl⟩
  | cons b bytes ih => exact fun s a => ih (s.setOct k a b) (a + 1)

/-- The bytes of another long entry stay. -/
theorem oct_setOctFrom_other {k j i : Nat} (hk : j ≠ k) (hi : i < 512) {bytes : List Byte} : ∀ {s : State} {a : Nat},
    a + bytes.length ≤ 512 → (s.setOctFrom k a bytes).oct j i = s.oct j i := by
  induction bytes with
  | nil => exact fun _ => rfl
  | cons b bytes ih =>
    intro s a hlen
    rw [List.length_cons] at hlen
    refine (ih (s := s.setOct k a b) (by omega)).trans ?_
    simp only [State.oct, State.setOct]
    rw [Tbl.get_set_other _ _ _ _ (by omega)]

/-- What FS_OWNER leaves when the owners of the sectors that change are halted, the old one and the new one (R152, R155). -/
theorem fsOwner_written {bytes : List Byte} (hlen : bytes.length = 256) (h : acceptsLong s who (kFsOwner f / 256) (kFsOwner f % 256) bytes)
    (hhalted : ∀ i, i < 256 → (bytes.getD i 0).toNat ≠ s.oct (kFsOwner f) i →
      s.ownerHalted (s.oct (kFsOwner f) i) = true ∧ s.ownerHalted (bytes.getD i 0).toNat = true) :
    ∃ t, exec (.fsOwnerWrite who f bytes) s = .next t ∧
      (∀ i, i < 256 → t.oct (kFsOwner f) i = (bytes.getD i 0).toNat) ∧
      (∀ i o, i < 256 → o < 16384 → (bytes.getD i 0).toNat ≠ s.oct (kFsOwner f) i →
        Tbl.get 0 t.fs (f * 2 ^ 22 + i * 16384 + o) = 0) ∧
      (∀ i o, i < 256 → o < 16384 → (bytes.getD i 0).toNat = s.oct (kFsOwner f) i →
        Tbl.get 0 t.fs (f * 2 ^ 22 + i * 16384 + o) = Tbl.get 0 s.fs (f * 2 ^ 22 + i * 16384 + o)) ∧
      (∀ k i, k ≠ kFsOwner f → i < 512 → t.oct k i = s.oct k i) ∧ t.regs = s.regs ∧ t.ls = s.ls ∧ t.hbm = s.hbm ∧
      t.acc = s.acc := by
  obtain ⟨ch, hch⟩ : ∃ ch, ch = (countFrom 0 256).filter fun i => (bytes.getD i 0).toNat != s.oct (kFsOwner f) i := ⟨_, rfl⟩
  have hmem : ∀ {j}, j ∈ ch ↔ j < 256 ∧ (bytes.getD j 0).toNat ≠ s.oct (kFsOwner f) j := by
    intro j
    simp [hch, mem_countFrom]
  have hany : ((ch.flatMap fun i => [s.oct (kFsOwner f) i, (bytes.getD i 0).toNat]).any fun o => !s.ownerHalted o) = false := by
    refine List.any_eq_false.2 fun o ho => ?_
    obtain ⟨j, hj, ho⟩ := List.mem_flatMap.1 ho
    obtain ⟨hj, hne⟩ := hmem.1 hj
    obtain ⟨hold, hnew⟩ := hhalted j hj hne
    simp only [List.mem_cons, List.not_mem_nil, or_false] at ho
    obtain rfl | rfl := ho
    · rw [hold]
      decide
    · rw [hnew]
      decide
  obtain ⟨hset, hwork, hareas⟩ := kept_setOctFrom (kFsOwner f) bytes s 0
  obtain ⟨hls0, hfs0, hhbm0, hacc0⟩ := stores_setOctFrom (kFsOwner f) bytes s 0
  obtain ⟨w, hw⟩ : ∃ w, w = s.setOctFrom (kFsOwner f) 0 bytes := ⟨_, rfl⟩
  obtain ⟨u, hu⟩ : ∃ u, u = (ch.foldl (fun (t : State) i => t.zeroSector ⟨true, f, 0, i * 16384⟩) w).zeroChanged
    (ch.flatMap fun i => [s.oct (kFsOwner f) i, (bytes.getD i 0).toNat]) (ch != []) := ⟨_, rfl⟩
  have hexec : exec (.fsOwnerWrite who f bytes) s = .next (u.applied who) := by
    subst hch hw
    exact congrArg Host.Outcome.next (State.dictLong_applied h fun l =>
      (if_neg (by rw [Bool.not_eq_true]; exact hany)).trans (congrArg Except.ok hu.symm))
  obtain ⟨hfs, hregs, hls, hhbm, hacc, hocts⟩ := fsMapped_leaves hu
  have hoct : ∀ k i, (u.applied who).oct k i = w.oct k i := fun k i => by simp only [State.oct, ← hocts]; rfl
  rw [← hw] at hset hls0 hfs0 hhbm0 hacc0
  refine ⟨_, hexec, fun i hi => ?_, fun i o hi ho hne => ?_, fun i o hi ho heq => ?_, fun k i hk hi => ?_, hregs.trans hset,
    hls.trans hls0, hhbm.trans hhbm0, hacc.trans hacc0⟩
  · rw [hoct, hw, oct_setOctFrom, if_pos (by omega), Nat.sub_zero]
  · exact (congrArg (Tbl.get 0 · _) hfs).trans (get_clearAll_in (hmem.2 ⟨hi, hne⟩) (by omega) (by omega) _)
  · rw [← hfs0]
    refine (congrArg (Tbl.get 0 · _) hfs).trans (get_clearAll_out (fun j hj => ?_) _)
    have hji : j ≠ i := fun hji => (hmem.1 (hji ▸ hj)).2 heq
    omega
  · rw [hoct, hw]
    exact oct_setOctFrom_other hk hi (by omega)

theorem zeroCore_keeps (s : State) (c : Nat) : (s.zeroCore c).ls = clearBytes s.ls (c * 2 ^ 20) (2 ^ 20) ∧
    (s.zeroCore c).acc = Tbl.drop (fun k => k / 32768 == c) s.acc ∧ (s.zeroCore c).regs = s.regs ∧ (s.zeroCore c).fs = s.fs ∧
    (s.zeroCore c).hbm = s.hbm ∧ (s.zeroCore c).octs = s.octs ∧ (s.zeroCore c).coreMap = s.coreMap :=
  ⟨congrArg (clearBytes s.ls · (2 ^ 20)) (Nat.add_zero _), rfl, rfl, rfl, rfl, rfl, rfl⟩

/-- What zeroing the cores of some slots of a frond leaves (R491). -/
theorem zeroSlots_leaves (l : List Nat) : ∀ s t : State, t = l.foldl (fun s i => s.zeroSlot f i) s →
    (∀ a, Tbl.get 0 t.ls a = if ∃ i ∈ l, s.coreAt f i = some (a / 2 ^ 20) then 0 else Tbl.get 0 s.ls a) ∧
    (∀ a, Tbl.get 0 t.acc a = if ∃ i ∈ l, s.coreAt f i = some (a / 32768) then 0 else Tbl.get 0 s.acc a) ∧
    t.regs = s.regs ∧ t.fs = s.fs ∧ t.hbm = s.hbm ∧ t.octs = s.octs ∧ t.coreMap = s.coreMap := by
  induction l with
  | nil =>
    rintro s t rfl
    exact ⟨fun a => by simp, fun a => by simp, rfl, rfl, rfl, rfl, rfl⟩
  | cons i l ih =>
    intro s t ht
    obtain ⟨hls, hacc, hregs, hfs, hhbm, hocts, hmap⟩ := ih (s.zeroSlot f i) t ht
    cases hcore : s.coreAt f i with
    | none =>
      have hzero : s.zeroSlot f i = s := by rw [State.zeroSlot, hcore]
      rw [hzero] at hls hacc hregs hfs hhbm hocts hmap
      refine ⟨fun a => (hls a).trans (if_congr ?_ rfl rfl), fun a => (hacc a).trans (if_congr ?_ rfl rfl), hregs, hfs, hhbm, hocts, hmap⟩
      · simp [hcore]
      · simp [hcore]
    | some c =>
      have hzero : s.zeroSlot f i = s.zeroCore c := by rw [State.zeroSlot, hcore]
      obtain ⟨hls0, hacc0, hregs0, hfs0, hhbm0, hocts0, hmap0⟩ := zeroCore_keeps s c
      rw [hzero] at hls hacc hregs hfs hhbm hocts hmap
      have hat : ∀ j, (s.zeroCore c).coreAt f j = s.coreAt f j := fun j => coreAt_congr hmap0 f j
      refine ⟨fun a => ?_, fun a => ?_, hregs.trans hregs0, hfs.trans hfs0, hhbm.trans hhbm0, hocts.trans hocts0, hmap.trans hmap0⟩
      · rw [hls, hls0, get_clearBytes]
        simp only [hat, List.exists_mem_cons_iff, hcore, Option.some.injEq]
        by_cases hl : ∃ j ∈ l, s.coreAt f j = some (a / 2 ^ 20)
        · rw [if_pos hl, if_pos (.inr hl)]
        · rw [if_neg hl]
          exact if_congr (by simp only [hl, or_false]; omega) rfl rfl
      · rw [hacc, hacc0, Tbl.get_drop]
        simp only [hat, List.exists_mem_cons_iff, hcore, Option.some.injEq, beq_iff_eq]
        by_cases hl : ∃ j ∈ l, s.coreAt f j = some (a / 32768)
        · rw [if_pos hl, if_pos (.inr hl)]
        · rw [if_neg hl]
          exact if_congr (by simp only [hl, or_false]; omega) rfl rfl

/-- The byte of a CORE_OWNER word that names the owner of slot `i`. -/
def ownerIn (w : Word) (i : Nat) : Nat := bitsOf w.toNat (8 * i + 7) (8 * i)

/-- The slots whose owner a CORE_OWNER write changes. -/
def newlyOwned (s : State) (f : Nat) (v : Word) : List Nat :=
  (countFrom 0 8).filter fun i => ownerIn (s.reg (kCoreOwner f)) i != ownerIn v i

theorem mem_newlyOwned {i : Nat} : i ∈ newlyOwned s f v ↔ i < 8 ∧ bitsOf v.toNat (8 * i + 7) (8 * i) ≠ s.slotOwner f i := by
  constructor
  · intro h
    obtain ⟨hi, hne⟩ := List.mem_filter.1 h
    exact ⟨(mem_countFrom.1 hi).2.trans_eq (Nat.zero_add 8), fun heq => bne_iff_ne.1 hne heq.symm⟩
  · rintro ⟨hi, hne⟩
    exact List.mem_filter.2 ⟨mem_countFrom.2 (by omega), bne_iff_ne.2 fun heq => hne heq.symm⟩

/-- The partitions that a CORE_OWNER write concerns. -/
def concerned (s : State) (f : Nat) (v : Word) : List Nat :=
  ((((newlyOwned s f v).map (ownerIn (s.reg (kCoreOwner f))) ++ (newlyOwned s f v).map (ownerIn v)).filter (· < 64)).eraseDups)

/-- The cores that change hands are zeroed with the write. -/
def coresZeroed (s : State) (f : Nat) (v : Word) : State :=
  (newlyOwned s f v).foldl (fun s i => s.zeroSlot f i) (s.setReg (kCoreOwner f) v)

/-- And they count as zeroing until that is done. -/
def coresZeroing (s : State) (f : Nat) (v : Word) : State :=
  if newlyOwned s f v = [] then coresZeroed s f v else (coresZeroed s f v).startZeroing (concerned s f v)

/-- A partition that halted for a slot with no core, and that owns no such slot any more, is halted by command (R727). -/
def reHalt (s : State) (p : Nat) : State :=
  if s.nat (kHaltCause p) = 3 ∧ ((countFrom 0 128).any fun i =>
    s.slotOwner (i / 8) (i % 8) == p && (s.coreAt (i / 8) (i % 8)).isNone) = false then s.setNat (kHaltCause p) 1 else s

theorem foldl_reHalt (l : List Nat) (s : State) (h : ∀ p ∈ l, s.nat (kHaltCause p) ≠ 3) : l.foldl reHalt s = s := by
  induction l with
  | nil => rfl
  | cons p l ih =>
    have hp : reHalt s p = s := if_neg fun hhalt => h p (List.mem_cons_self ..) hhalt.1
    rw [List.foldl_cons, hp]
    exact ih fun q hq => h q (List.mem_cons_of_mem _ hq)

theorem lt_of_mem_concerned {p : Nat} (h : p ∈ concerned s f v) : p < 64 := by
  have h := (List.mem_eraseDups).1 h
  simpa using (List.mem_filter.1 h).2

theorem coresZeroing_eq (s : State) (f : Nat) (v : Word) :
    ∃ z n, coresZeroing s f v = { coresZeroed s f v with zeroing := z, nextId := n } := by
  unfold coresZeroing
  split
  · exact ⟨(coresZeroed s f v).zeroing, (coresZeroed s f v).nextId, rfl⟩
  · exact ⟨_, _, rfl⟩

theorem writeCoreOwner_ok {l : EntLoc} (hbad : ((newlyOwned s f v).any fun i => !(s.ownerHalted (ownerIn (s.reg (kCoreOwner f)) i)) ||
      !(s.ownerHalted (ownerIn v i)) || (decide (ownerIn v i < 64) && s.ready && (s.coreAt f i).isNone)) = false)
    (hcause : ∀ p, p < 64 → (coresZeroing s f v).nat (kHaltCause p) ≠ 3) : writeCoreOwner f v s l = .ok (coresZeroing s f v) := by
  refine (if_neg (by rw [Bool.not_eq_true]; exact hbad)).trans (congrArg Except.ok ?_)
  exact foldl_reHalt _ (coresZeroing s f v) fun p hp => hcause p (lt_of_mem_concerned hp)

/-- What CORE_OWNER leaves when the owners of the slots that change are halted (R491). -/
theorem coreOwner_written (h : accepts s who .coreOwner (kCoreOwner f) v)
    (hhalted : ∀ i, i < 8 → bitsOf v.toNat (8 * i + 7) (8 * i) ≠ s.slotOwner f i →
      s.ownerHalted (s.slotOwner f i) = true ∧ s.ownerHalted (bitsOf v.toNat (8 * i + 7) (8 * i)) = true ∧
      (s.coreAt f i).isSome = true) (hcause : ∀ p, p < 64 → s.nat (kHaltCause p) ≠ 3) :
    ∃ t, exec (.coreOwnerWrite who f v) s = .next t ∧ t.reg (kCoreOwner f) = v ∧ slotsKept s t [kCoreOwner f] ∧
      (∀ i c o, i < 8 → bitsOf v.toNat (8 * i + 7) (8 * i) ≠ s.slotOwner f i → s.coreAt f i = some c → o < 2 ^ 20 →
        Tbl.get 0 t.ls (c * 2 ^ 20 + o) = 0) ∧
      (∀ i c e, i < 8 → bitsOf v.toNat (8 * i + 7) (8 * i) ≠ s.slotOwner f i → s.coreAt f i = some c → e < 32768 →
        Tbl.get 0 t.acc (c * 32768 + e) = 0) ∧
      (∀ a, (∀ i, i < 8 → bitsOf v.toNat (8 * i + 7) (8 * i) ≠ s.slotOwner f i → s.coreAt f i ≠ some (a / 2 ^ 20)) →
        Tbl.get 0 t.ls a = Tbl.get 0 s.ls a) ∧
      t.fs = s.fs ∧ t.hbm = s.hbm ∧ t.octs = s.octs := by
  obtain ⟨hls, hacc, hregs, hfs, hhbm, hocts, -⟩ := zeroSlots_leaves (newlyOwned s f v) (s.setReg (kCoreOwner f) v) _ rfl
  obtain ⟨z, n, hzeroing⟩ := coresZeroing_eq s f v
  obtain ⟨w, hw⟩ : ∃ w, coresZeroed s f v = w := ⟨_, rfl⟩
  rw [← coresZeroed, hw] at hls hacc hregs hfs hhbm hocts
  rw [hw] at hzeroing
  have hset : ∀ k, w.reg k = (s.setReg (kCoreOwner f) v).reg k := State.reg_of_regs hregs
  have hbad : ((newlyOwned s f v).any fun i => !(s.ownerHalted (ownerIn (s.reg (kCoreOwner f)) i)) ||
      !(s.ownerHalted (ownerIn v i)) || (decide (ownerIn v i < 64) && s.ready && (s.coreAt f i).isNone)) = false := by
    refine List.any_eq_false.2 fun i hi => ?_
    obtain ⟨hi8, hne⟩ := mem_newlyOwned.1 hi
    obtain ⟨hold, hnew, hsome⟩ := hhalted i hi8 hne
    have hold' : s.ownerHalted (ownerIn (s.reg (kCoreOwner f)) i) = true := hold
    have hnew' : s.ownerHalted (ownerIn v i) = true := hnew
    obtain ⟨c, hc⟩ := Option.isSome_iff_exists.1 hsome
    simp [hold', hnew', hc]
  have hcause' : ∀ p, p < 64 → (coresZeroing s f v).nat (kHaltCause p) ≠ 3 := by
    intro p hp
    have hkept : (coresZeroing s f v).reg (kHaltCause p) = s.reg (kHaltCause p) := by
      rw [hzeroing]
      exact (hset _).trans (State.reg_setReg_other _ _ (by unfold kHaltCause kCoreOwner; omega))
    rw [nat_of_reg hkept]
    exact hcause p hp
  have hexec : exec (.coreOwnerWrite who f v) s = .next ((coresZeroing s f v).applied who) :=
    next_applied h fun l => writeCoreOwner_ok hbad hcause'
  rw [hzeroing] at hexec
  refine ⟨_, hexec, (hset _).trans (State.reg_setReg_same ..), fun k hk => (hset k).trans (State.reg_setReg_other _ _ (by simpa using hk)),
    fun i c o hi hne hcore ho => ?_, fun i c e hi hne hcore he => ?_, fun a ha => ?_, hfs, hhbm, hocts⟩
  · exact (hls _).trans (if_pos ⟨i, mem_newlyOwned.2 ⟨hi, hne⟩, hcore.trans (congrArg some (by omega))⟩)
  · exact (hacc _).trans (if_pos ⟨i, mem_newlyOwned.2 ⟨hi, hne⟩, hcore.trans (congrArg some (by omega))⟩)
  · refine (hls a).trans (if_neg ?_)
    rintro ⟨i, hi, hcore⟩
    obtain ⟨hi8, hne⟩ := mem_newlyOwned.1 hi
    exact ha i hi8 hne hcore

/-- The granules whose owner a write of GRANULE_OWNER changes. -/
def regranted (s : State) (bytes : List Byte) : List Nat :=
  (countFrom 0 192).filter fun g => (bytes.getD g 0).toNat != s.granuleOwner g

variable {bytes : List Byte} {g : Nat}

theorem filter_eq_singleton {p : Nat → Bool} {n g : Nat} (hg : g < n) (hp : p g = true) (hother : ∀ h, h < n → h ≠ g → p h = false) :
    (countFrom 0 n).filter p = [g] := by
  have hrun : ∀ m a, a + m = n → (countFrom a m).filter p = if a ≤ g then [g] else [] := by
    intro m
    induction m with
    | zero => intro a ha; rw [if_neg (by omega)]; rfl
    | succ m ih =>
      intro a ha
      rw [countFrom, List.filter_cons, ih (a + 1) (by omega)]
      by_cases hag : a = g
      · subst hag
        rw [if_pos hp, if_neg (by omega), if_pos (le_refl _)]
      · rw [hother a (by omega) hag, if_neg (by decide)]
        exact if_congr (by omega) rfl rfl
  exact (hrun n 0 (by omega)).trans (if_pos (Nat.zero_le _))

theorem regranted_one (hg : g < 192) (hne : (bytes.getD g 0).toNat ≠ s.granuleOwner g)
    (hother : ∀ h, h < 192 → h ≠ g → (bytes.getD h 0).toNat = s.granuleOwner h) : regranted s bytes = [g] :=
  filter_eq_singleton hg (bne_iff_ne.2 hne) fun h hh hhg => by rw [hother h hh hhg]; exact bne_self_eq_false _

/-- A change of owner of one granule, one that R528 allows. -/
theorem writeGranuleOwner_one {l : EntLoc} (hgrant : regranted s bytes = [g])
    (hstate : (s.granuleOwner g = 0xFF ∧ (bytes.getD g 0).toNat < 64 ∧ s.partState (bytes.getD g 0).toNat = 1) ∨
      (s.granuleOwner g < 64 ∧ (bytes.getD g 0).toNat = 0xFF ∧ s.halted (s.granuleOwner g) = true)) :
    writeGranuleOwner bytes s l = .ok (if (bytes.getD g 0).toNat = 0xFF then s.releaseGranule g
      else s.setOct kGranuleOwner g (BitVec.ofNat 8 (bytes.getD g 0).toNat)) := by
  unfold writeGranuleOwner
  dsimp only
  rw [← regranted, hgrant]
  simp only [List.any_cons, List.any_nil, List.all_cons, List.all_nil, List.foldl_cons, List.foldl_nil]
  refine (if_neg ?_).trans (if_neg ?_)
  · simp only [Bool.or_false, Bool.and_eq_true, decide_eq_true_eq, bne_iff_ne]
    omega
  · rw [Bool.not_eq_false]
    simp only [Bool.and_true, Bool.or_eq_true, Bool.and_eq_true, decide_eq_true_eq, beq_iff_eq]
    exact hstate.imp (fun ⟨hold, hnew, hpart⟩ => ⟨⟨hold, hnew⟩, hpart⟩) fun ⟨hold, hnew, hpart⟩ => ⟨⟨hold, hnew⟩, hpart⟩

theorem releaseGranule_free (hretire : bitOf (s.oct kRetirePending (g / 8)) (g % 8) = false) :
    s.releaseGranule g = { s.setOct kGranuleOwner g 0xFE with granuleQueue := s.granuleQueue ++ [g] } :=
  if_neg (by rw [hretire]; decide)

theorem granuleOwner_set (g h : Nat) (b : Byte) : (s.setOct kGranuleOwner g b).granuleOwner h = if h = g then b.toNat else s.granuleOwner h :=
  oct_setOct ..

theorem exec_granuleOwnerWrite (h : acceptsLong s who (kGranuleOwner / 256) (kGranuleOwner % 256) bytes)
    (hok : ∀ l, writeGranuleOwner bytes s l = .ok u) : exec (.granuleOwnerWrite who bytes) s = .next (u.applied who) :=
  congrArg Host.Outcome.next (State.dictLong_applied h hok)

/-- A free granule is granted to an active partition (R528). -/
theorem granule_granted (hg : g < 192) (hacc : acceptsLong s who (kGranuleOwner / 256) (kGranuleOwner % 256) bytes)
    (hother : ∀ h, h < 192 → h ≠ g → (bytes.getD h 0).toNat = s.granuleOwner h) (hfree : s.granuleOwner g = 0xFF)
    (hnew : (bytes.getD g 0).toNat < 64) (hpart : s.partState (bytes.getD g 0).toNat = 1) :
    ∃ t, exec (.granuleOwnerWrite who bytes) s = .next t ∧ t.granuleOwner g = (bytes.getD g 0).toNat ∧
      (∀ h, h < 192 → h ≠ g → t.granuleOwner h = s.granuleOwner h) ∧ t.regs = s.regs ∧ t.hbm = s.hbm := by
  have hexec := exec_granuleOwnerWrite hacc fun _ => (writeGranuleOwner_one (regranted_one hg (by omega) hother)
    (.inl ⟨hfree, hnew, hpart⟩)).trans (congrArg Except.ok (if_neg (by omega)))
  refine ⟨_, hexec, (granuleOwner_set ..).trans ((if_pos rfl).trans ?_), fun h _ hne => (granuleOwner_set ..).trans (if_neg hne),
    rfl, rfl⟩
  rw [BitVec.ofNat_toNat, BitVec.setWidth_eq]

/-- A granule of a halted partition is released, and waits to be zeroed (R529). -/
theorem granule_released (hg : g < 192) (hacc : acceptsLong s who (kGranuleOwner / 256) (kGranuleOwner % 256) bytes)
    (hother : ∀ h, h < 192 → h ≠ g → (bytes.getD h 0).toNat = s.granuleOwner h) (hold : s.granuleOwner g < 64)
    (hnew : (bytes.getD g 0).toNat = 0xFF) (hhalted : s.halted (s.granuleOwner g) = true)
    (hretire : bitOf (s.oct kRetirePending (g / 8)) (g % 8) = false) :
    ∃ t, exec (.granuleOwnerWrite who bytes) s = .next t ∧ t.granuleOwner g = 0xFE ∧
      t.granuleQueue = s.granuleQueue ++ [g] ∧ (∀ h, h < 192 → h ≠ g → t.granuleOwner h = s.granuleOwner h) ∧
      t.hbm = s.hbm := by
  have hexec := exec_granuleOwnerWrite hacc fun _ => (writeGranuleOwner_one (regranted_one hg (by omega) hother)
    (.inr ⟨hold, hnew, hhalted⟩)).trans (congrArg Except.ok ((if_pos hnew).trans (releaseGranule_free hretire)))
  exact ⟨_, hexec, (granuleOwner_set ..).trans (if_pos rfl), rfl, fun h _ hne => (granuleOwner_set ..).trans (if_neg hne), rfl⟩

/-- The granule at the head of the queue is zeroed, and is free (R529). -/
theorem granule_zeroed {rest : List Nat} (hqueue : s.granuleQueue = g :: rest)
    (hretire : bitOf (s.oct kRetirePending (g / 8)) (g % 8) = false) :
    ∃ t, exec .granuleZeroed s = .next t ∧ t.granuleOwner g = 0xFF ∧ t.granuleQueue = rest ∧
      (∀ a, g * 2 ^ 28 ≤ a → a < (g + 1) * 2 ^ 28 → Tbl.get 0 t.hbm a = 0) ∧
      (∀ a, a < g * 2 ^ 28 ∨ (g + 1) * 2 ^ 28 ≤ a → Tbl.get 0 t.hbm a = Tbl.get 0 s.hbm a) ∧ t.regs = s.regs ∧
      t.ls = s.ls ∧ t.fs = s.fs := by
  have hexec : exec .granuleZeroed s = .next (State.setOct
      { s with granuleQueue := rest, hbm := clearBytes s.hbm (g * 2 ^ 28) (2 ^ 28) } kGranuleOwner g 0xFF) := by
    show Host.Outcome.next s.granuleZeroed = _
    unfold State.granuleZeroed
    rw [hqueue]
    exact congrArg Host.Outcome.next (if_neg (by rw [Bool.not_eq_true]; exact hretire))
  refine ⟨_, hexec, (granuleOwner_set ..).trans (if_pos rfl), rfl, fun a hlo hhi => (get_clearBytes ..).trans (if_pos (by omega)),
    fun a ha => (get_clearBytes ..).trans (if_neg (by omega)), rfl, rfl, rfl⟩

end Zeroing

/-- Settles O15: each sector, core or granule that changes hands is zeroed and nothing else changes, and a change of a Local
Store's map while its owner is not halted is refused. -/
theorem storesAndOwners : Obligations.StoresAndOwners := by
  unfold Obligations.StoresAndOwners
  refine ⟨?_, ?_, ?_, ?_, ?_, ?_, ?_, ?_, ?_⟩
  · exact fun s who c v _ h hhalted => lsWeightMap_written h hhalted
  · exact fun s who c v h hv hrun => lsWeightMap_refused h hv hrun
  · exact fun s who c v h hhalted hahead => lsSpecMap_written h hhalted hahead
  · exact fun s who f m v _ _ h hhalted => fsWeightMap_written h hhalted
  · exact fun s who f bytes _ hlen h hhalted => fsOwner_written hlen h hhalted
  · exact fun s who f v _ h hhalted hcause => coreOwner_written h hhalted hcause
  · exact fun s who bytes g hg _ h hother hfree hnew hpart => granule_granted hg h hother hfree hnew hpart
  · exact fun s who bytes g hg _ h hother hold hnew hhalted hretire => granule_released hg h hother hold hnew hhalted hretire
  · exact fun s g rest hqueue _ hretire => granule_zeroed hqueue hretire

end Sys2Proof.Safety

namespace Sys2Proof.Safety

open Sys2Proof.Machine

/-! ### A descriptor's work on its core -/

section Working

variable {s t u v w : State} {id op c n : Nat} {ops : List Nat} {d e : Desc} {o : RunObs} {f : State → State}

theorem replaceFirst_id {α : Type} (p : α → Bool) (l : List α) : replaceFirst p (fun a => a) l = l := by
  induction l with
  | nil => rfl
  | cons a l ih => rw [replaceFirst, ih, ite_self]

theorem spend_zero (s : State) (id : Nat) : s.spend id 0 = s := by
  show { s with inflight := replaceFirst (fun d => d.id == id) (fun d => d) s.inflight } = s
  rw [replaceFirst_id]

theorem calm_eq (h : s.errs = []) : calm s = s := by
  show { s with errs := [] } = s
  rw [← h]

theorem noWait_eq (h : s.slotWait = false) : { s with slotWait := false } = s := by
  rw [← h]

/-- A command of the descriptor's opcode runs its work on its core. -/
theorem runOn_onCore (h : onCore s id op d c) (hop : ops.contains op = true) (f : State → Desc → Nat → State) :
    s.runOn id ops o f = s.work d o fun u => f u d c := by
  obtain ⟨hdesc, hended, hwindow, hopc, horder, hstop, hcore⟩ := h
  unfold State.runOn
  rw [hdesc]
  dsimp only
  rw [if_neg (by rw [hended, hwindow, hopc, hop, horder, hstop]; decide), hcore]

theorem runWhen_onCore (h : onCore s id op d c) (hop : ops.contains op = true) {due : State → Desc → Bool} (hdue : due s d = true)
    (f : State → Desc → Nat → State) : s.runWhen id ops o due f = s.work d o fun u => f u d c := by
  unfold State.runWhen
  rw [h.1]
  dsimp only
  rw [if_pos hdue, runOn_onCore h hop]

/-- The work of a descriptor whose engines met no error of a table. -/
theorem work_ran (h : onCore s id op d c) (hbad : o.tableBad = false) (f : State → State) : (s.work d o f).tearTorn id = ran s id d o f := by
  have hid := id_of_desc? h.1
  unfold State.work
  dsimp only
  rw [if_neg (by rw [hbad]; decide), hid]
  rfl

/-- The work in a state with no error and no wait, before what it met is torn. -/
theorem work_well (hlost : obsLost o = 0) (hobs : s.observe o = calm s) (hbad : o.tableBad = false) (herrs : s.errs = [])
    (hwait : s.slotWait = false) (hf : f s = u) (huwait : u.slotWait = false) (hstop : u.slotStopped d.core.1 d.core.2 = false) :
    s.work d o f = calm u := by
  have hstart : (s.observe o).spend d.id (obsLost o) = s := by rw [hlost, hobs, calm_eq herrs, spend_zero]
  unfold State.work
  dsimp only
  rw [if_neg (by rw [hbad]; decide), hstart, noWait_eq hwait, hf]
  exact (if_neg (by rw [show ({ u with errs := [] } : State).slotWait = u.slotWait from rfl, huwait]; decide)).trans
    (if_neg (by rw [show ({ u with errs := [] } : State).slotStopped d.core.1 d.core.2 = u.slotStopped d.core.1 d.core.2 from rfl, hstop]
                decide))

theorem observe_waitCc (s : State) (cc : Nat) : s.observe { waitCc := cc } = calm s := rfl

/-- A descriptor that is not torn keeps its outputs. -/
theorem tearTorn_sound (h : s.desc? id = some e) (htorn : e.torn = false) : s.tearTorn id = s := by
  unfold State.tearTorn
  rw [h]
  exact if_neg (by rw [htorn]; decide)

/-- Work on core of descriptor `d` that has met no slot in recovery, and its descriptor, which reads `e` and is not torn. -/
structure Sound (u : State) (id : Nat) (d e : Desc) : Prop where
  wait : u.slotWait = false
  stop : u.slotStopped d.core.1 d.core.2 = false
  desc : u.desc? id = some e
  torn : e.torn = false

theorem Sound.congr (h : Sound u id d e) (hwait : t.slotWait = u.slotWait) (hrecov : t.recov = u.recov)
    (hin : t.inflight = u.inflight) : Sound t id d e where
  wait := hwait.trans h.wait
  stop := by rw [State.slotStopped, hrecov]; exact h.stop
  desc := by rw [State.desc?, hin]; exact h.desc
  torn := h.torn

theorem Sound.modDesc (h : Sound u id d e) {g : Desc → Desc} (hid : (g e).id = e.id) (htorn : (g e).torn = false) :
    Sound (u.modDesc id g) id d (g e) where
  wait := h.wait
  stop := h.stop
  desc := desc?_modDesc h.desc hid
  torn := htorn

theorem Sound.setReg (h : Sound u id d e) (k : Nat) (x : Word) : Sound (u.setReg k x) id d e := h.congr rfl rfl rfl

/-- A descriptor that has not ended ends with a status. -/
def endedWith (u : State) (e : Desc) (status : Nat) : Desc := { e with ended := true, status := status, endFrame := u.frameNo }

theorem Sound.endDesc (h : Sound u id d e) (hrun : e.ended = false) (status : Nat) :
    Sound (u.endDesc id status) id d (endedWith u e status) := by
  have hend := h.modDesc (g := fun e => if e.ended then e else endedWith u e status)
    (by rw [hrun]; rfl) (by rw [hrun]; exact h.torn)
  rw [hrun] at hend
  exact hend

theorem sound_of_wentWell (h : wentWell v id d) : ∃ e, Sound v id d e ∧ e.ended = false := by
  obtain ⟨hwait, hstop, e, hdesc, hended, htorn⟩ := h
  exact ⟨e, ⟨hwait, hstop, hdesc, htorn⟩, hended⟩

theorem sound_of_onCore (h : onCore s id op d c) (hwait : s.slotWait = false) (htorn : d.torn = false) : Sound s id d d := by
  obtain ⟨hdesc, -, -, -, -, hstop, -⟩ := h
  exact ⟨hwait, hstop, hdesc, htorn⟩

/-- The work of a command that runs a descriptor, that goes well and leaves its descriptor whole. -/
theorem work_sound {cc : Nat} (herrs : s.errs = []) (hwait : s.slotWait = false) (hf : f s = u)
    (hu : Sound u id d e) : (s.work d { waitCc := cc } f).tearTorn id = calm u := by
  rw [work_well (o := { waitCc := cc }) rfl (observe_waitCc s cc) rfl herrs hwait hf hu.wait hu.stop]
  exact tearTorn_sound (e := e) hu.desc hu.torn

/-- Work that ends with the tearing of its descriptor undone. -/
theorem work_untorn {cc : Nat} (herrs : s.errs = []) (hwait : s.slotWait = false) (hf : f s = u)
    (hu : Sound u id d e) : (s.work d { waitCc := cc } f).untear id = (calm u).untear id := by
  rw [work_well (o := { waitCc := cc }) rfl (observe_waitCc s cc) rfl herrs hwait hf hu.wait hu.stop]

end Working

end Sys2Proof.Safety

namespace Sys2Proof.Safety

open Sys2Proof.Machine

/-! ### The steps of a tiled descriptor (R191, R239, R245, R248, R250, R252, R255, R319) -/

section Tiles

variable {s t u v w : State} {id op c cc n k : Nat} {d e : Desc} {o : RunObs} {tl : Tile} {pr : Prog}

theorem tileStart_ran (ho : unharmed o) (hop : tiledOps.contains op = true) (h : onCore s id op d c) (hdue : s.tileDue d = true)
    (hfree : s.allocBlocked d = false) :
    exec (.tileStart ⟨id, o⟩) s = .next (ran s id d o fun u => u.startTile d c o.waitCc) :=
  congrArg Host.Outcome.next ((congrArg (State.tearTorn · id) (runWhen_onCore h hop (by rw [hdue, hfree]; rfl) _)).trans
    (work_ran h ho.1 _))

/-- A command that brings operands runs on its core while the tile is open. -/
theorem operandFetch_work (hop : tiledOps.contains op = true) (h : onCore s id op d c) (hopen : d.prog.tileOpen = true) :
    exec (.operandFetchLanded id o) s = .next ((s.work d o fun u => if d.prog.fetched then u.prefetch d else match d.curTile with
      | none => u
      | some t => ((u.spend id o.waitCc).wrapAdd (kOpfetchWaitCc c) o.waitCc).landTile d t).tearTorn id) :=
  congrArg Host.Outcome.next (congrArg (State.tearTorn · id) (runWhen_onCore h hop hopen _))

/-- The operands of the open tile land, with the wait that is counted. -/
def landed (u : State) (id : Nat) (d : Desc) (c cc : Nat) (t : Tile) : State :=
  ((u.spend id cc).wrapAdd (kOpfetchWaitCc c) cc).landTile d t

theorem operandFetch_landed (hop : tiledOps.contains op = true) (h : onCore s id op d c) (hopen : d.prog.tileOpen = true)
    (hfetched : d.prog.fetched = false) (htile : d.curTile = some tl) :
    exec (.operandFetchLanded id o) s = .next ((s.work d o fun u => landed u id d c o.waitCc tl).tearTorn id) := by
  refine (operandFetch_work hop h hopen).trans ?_
  rw [hfetched, htile]
  rfl

theorem operandFetch_next (hop : tiledOps.contains op = true) (h : onCore s id op d c) (hopen : d.prog.tileOpen = true)
    (hfetched : d.prog.fetched = true) :
    exec (.operandFetchLanded id o) s = .next ((s.work d o fun u => u.prefetch d).tearTorn id) := by
  refine (operandFetch_work hop h hopen).trans ?_
  rw [hfetched]
  rfl

/-- The tile's operands have landed (R250, R252). -/
theorem operandFetch_leaves (hop : tiledOps.contains op = true) (h : onCore s id op d c) (herrs : s.errs = [])
    (hwait : s.slotWait = false) (hopen : d.prog.tileOpen = true) (hfetched : d.prog.fetched = false) (htile : d.curTile = some tl)
    (hbring : ((s.spend id cc).wrapAdd (kOpfetchWaitCc c) cc).bringTile d tl = (true, v)) (hwell : wentWell v id d) :
    ∃ t' e, exec (.operandFetchLanded id { waitCc := cc }) s = .next t' ∧ t'.desc? id = some e ∧ e.prog.fetched = true ∧
      e.prog.heldA = (d.holding tl).prog.heldA ∧ e.prog.heldB = (d.holding tl).prog.heldB ∧ e.ended = false ∧
      t'.regs = v.regs ∧ t'.ls = v.ls := by
  obtain ⟨e, hsound, hrun⟩ := sound_of_wentWell hwell
  have hid := id_of_desc? h.1
  have hland : landed s id d c cc tl = v.modDesc d.id fun e => { e with prog := { e.prog with
      halfA := (d.holding tl).prog.halfA, halfB := (d.holding tl).prog.halfB, heldA := (d.holding tl).prog.heldA,
      heldB := (d.holding tl).prog.heldB, fetched := true } } := by
    unfold landed State.landTile
    rw [hbring]
  rw [hid] at hland
  have hu := hsound.modDesc (g := fun e => { e with prog := { e.prog with
      halfA := (d.holding tl).prog.halfA, halfB := (d.holding tl).prog.halfB, heldA := (d.holding tl).prog.heldA,
      heldB := (d.holding tl).prog.heldB, fetched := true } }) rfl hsound.torn
  exact ⟨_, _, (operandFetch_landed hop h hopen hfetched htile).trans (congrArg Host.Outcome.next (work_sound herrs hwait hland hu)),
    hu.desc, rfl, rfl, rfl, hrun, rfl, rfl⟩

/-- While a tile runs, the operands of the next one land (R251). -/
theorem operandFetch_ahead (hop : tiledOps.contains op = true) (h : onCore s id op d c) (herrs : s.errs = [])
    (hwait : s.slotWait = false) (hopen : d.prog.tileOpen = true) (hfetched : d.prog.fetched = true) (hnext : d.prog.next = none)
    (hrun : d.nextRun (d.positions + 1) (d.prog.tile + 1) = some n) (howned : d.owned n = some k)
    (hneed : (d.aNeeded (d.tileAt k) || d.bNeeded (d.tileAt k)) = true) (hstr : d.bNeeded (d.tileAt k) = true → d.bStr = true)
    (hbring : s.bringTile d (d.tileAt k) = (true, v)) (hwell : wentWell v id d) :
    ∃ t' e, exec (.operandFetchLanded id {}) s = .next t' ∧ t'.desc? id = some e ∧ e.prog.next = some n ∧ e.ended = false ∧
      t'.regs = v.regs ∧ t'.ls = v.ls := by
  obtain ⟨e, hsound, hlive⟩ := sound_of_wentWell hwell
  have hid := id_of_desc? h.1
  have hwhole : (!d.bNeeded (d.tileAt k) || d.bStr) = true := by
    cases hb : d.bNeeded (d.tileAt k) with
    | false => rfl
    | true => rw [hstr hb]; rfl
  have hahead : s.prefetch d = v.modDesc d.id fun e => { e with prog := { e.prog with next := some n } } := by
    unfold State.prefetch
    rw [hrun]
    dsimp only
    rw [howned]
    dsimp only [Option.map_some]
    rw [hnext, hwhole, hneed, hbring]
    rfl
  rw [hid] at hahead
  have hu := hsound.modDesc (g := fun e => { e with prog := { e.prog with next := some n } }) rfl hsound.torn
  exact ⟨_, _, (operandFetch_next hop h hopen hfetched).trans (congrArg Host.Outcome.next (work_sound (cc := 0) herrs hwait hahead hu)),
    hu.desc, rfl, hlive, rfl, rfl⟩

/-- A descriptor whose regions hold and that owns a position goes on (R245). -/
theorem stage3_goes (hok : d.stage3Ok = true) (hext : d.memBounds = true → s.extentsOk d = true) (hsome : (d.owned 0).isSome = true) :
    s.stage3 d = s := by
  have hext' : ¬ (d.stage3Ok = false ∨ (d.memBounds && !s.extentsOk d) = true) := by
    rw [hok]
    cases hmem : d.memBounds with
    | false => simp
    | true => rw [hext hmem]; decide
  exact (if_neg hext').trans (if_neg fun hnone => by rw [hnone] at hsome; cases hsome)

/-- What the bounds of a descriptor leave when they land (R239). -/
theorem boundsLanded_leaves {bs lens pos : List Nat} {ptr : Nat} {bad : Bool} (hop : tiledOps.contains op = true)
    (h : onCore s id op d c) (herrs : s.errs = []) (hwait : s.slotWait = false) (hdue : d.prog.boundsLanded = false)
    (hread : (s.spend id cc).readBounds d = (some (bs, ptr), u)) (hok : boundsOk bs = true)
    (hvec : u.readVec d ptr (bs.getD 3 0) d.prog.lenBytes = (some lens, v)) (hpos : v.readPos d (bs.getD 3 0) = (some (pos, bad), w))
    (hwell : wentWell w id d)
    (hpr : pr = { d.prog with bounds := bs, lens := lens, poss := pos, posBad := bad, boundsLanded := true })
    (hgo : d.walks = true ∨ (Desc.stage3Ok { d with prog := pr } = true ∧
      (d.memBounds = true → w.extentsOk { d with prog := pr } = true) ∧ (Desc.owned { d with prog := pr } 0).isSome = true)) :
    ∃ t e, exec (.boundsLanded id { waitCc := cc }) s = .next t ∧ t.desc? id = some e ∧ e.prog = pr ∧ e.ended = false ∧
      t.regs = w.regs ∧ t.posted = w.posted ∧ t.hbm = w.hbm := by
  obtain ⟨e, hsound, hlive⟩ := sound_of_wentWell hwell
  obtain rfl := id_of_desc? h.1
  obtain ⟨x, hx⟩ : ∃ x, x = w.modDesc d.id fun e => { e with prog := pr } := ⟨_, rfl⟩
  have hstage : (if Desc.walks { d with prog := pr } then x else x.stage3 { d with prog := pr }) = x := by
    obtain hwalks | ⟨hstage, hext, howned⟩ := hgo
    · exact if_pos hwalks
    · rw [stage3_goes hstage (fun hmem => ?_) howned, ite_self]
      rw [hx]
      exact hext hmem
  have hland : s.landBounds d cc = x.untear d.id := by
    unfold State.landBounds
    rw [hread]
    refine congrArg (State.untear · d.id) ((if_neg (by rw [hok]; decide)).trans ?_)
    rw [hvec]
    dsimp only [onGot]
    rw [hpos]
    dsimp only
    rw [← hpr, ← hx]
    exact hstage
  have hxs := hsound.modDesc (g := fun e => { e with prog := pr }) rfl hsound.torn
  rw [← hx] at hxs
  have hu := hxs.modDesc (g := fun e => { e with torn := false }) rfl rfl
  have hexec : exec (.boundsLanded d.id { waitCc := cc }) s = .next ((calm (x.untear d.id)).untear d.id) :=
    congrArg Host.Outcome.next ((congrArg (State.untear · d.id) (runWhen_onCore h hop (by rw [hdue]; rfl) _)).trans
      (work_untorn herrs hwait hland hu))
  have hend := (hu.congr (t := calm (x.untear d.id)) rfl rfl rfl).modDesc (g := fun e => { e with torn := false }) rfl rfl
  refine ⟨_, _, hexec, hend.desc, rfl, hlive, ?_, ?_, ?_⟩
  · exact (congrArg State.regs hx).trans rfl
  · exact (congrArg State.posted hx).trans rfl
  · exact (congrArg State.hbm hx).trans rfl

theorem foldl_still {α : Type} {f : State → α → State} (l : List α) (s : State) (h : ∀ x ∈ l, ∀ s, f s x = s) : l.foldl f s = s :=
  foldl_keeps (g := fun s => s) l s fun s x hx => h x hx s

/-- A walk in which no element was dropped or failed hands on to the stage that follows (R319). -/
theorem walkDone_goes {l : List (Nat × ElemWalk)} {go : State → Desc → State}
    (hl : ∀ x ∈ l, x.2.fail = none ∧ x.2.dropped = [])
    (hpr : pr = { d.prog with
      walked := true, tables := l.map (·.2.table),
      pages := l.zipIdx.flatMap fun x => x.1.2.pages.map fun y => (x.2 * 65536 + y.1, y.2, x.1.2.units) }) :
    s.walkDone d l go = go (s.modDesc d.id fun e => { e with prog := pr }) { d with prog := pr } := by
  have hnone : (l.find? fun x => x.2.fail.isSome) = none :=
    List.find?_eq_none.2 fun x hx => by rw [(hl x hx).1]; decide
  unfold State.walkDone
  dsimp only
  rw [foldl_still, hnone, hpr]
  · rintro ⟨x, i⟩ hx s
    have hmem : x ∈ l := List.fst_mem_of_mem_zipIdx hx
    dsimp only
    rw [(hl x hmem).2]
    rfl

/-- What the walk of a descriptor's pages leaves when it lands (R319). -/
theorem walkLanded_leaves {seqs : List Nat} {l : List (Nat × ElemWalk)} (hop : tiledOps.contains op = true)
    (h : onCore s id op d c) (herrs : s.errs = []) (hwait : s.slotWait = false) (hwalks : d.walks = true)
    (hbounds : d.prog.boundsLanded = true) (hdue : d.prog.walked = false) (hread : (s.spend id cc).readSeqs d d.bB = (some seqs, u))
    (hl : l = seqs.zipIdx.map (fun x => (x.1, u.walkElem d.part x.1 (d.covers x.2).1 (d.covers x.2).2 d.walkKind)))
    (hwalk : u.takeFree.walkThrough d l = (true, v)) (hfine : ∀ x ∈ l, x.2.fail = none ∧ x.2.dropped = []) (hwell : wentWell v id d)
    (hpr : pr = { d.prog with
      walked := true, tables := l.map (·.2.table),
      pages := l.zipIdx.flatMap fun x => x.1.2.pages.map fun y => (x.2 * 65536 + y.1, y.2, x.1.2.units) })
    (hkv : (v.modDesc id fun e => { e with prog := pr }).kvStage3Ok { d with prog := pr } = true)
    (hstage : Desc.stage3Ok { d with prog := pr } = true) (hmem : d.memBounds = false)
    (howned : (Desc.owned { d with prog := pr } 0).isSome = true) :
    ∃ t e, exec (.walkLanded id { waitCc := cc }) s = .next t ∧ t.desc? id = some e ∧ e.prog = pr ∧ e.ended = false ∧
      t.regs = v.regs ∧ t.posted = v.posted ∧ t.hbm = v.hbm := by
  obtain ⟨e, hsound, hlive⟩ := sound_of_wentWell hwell
  obtain rfl := id_of_desc? h.1
  obtain ⟨x, hx⟩ : ∃ x, x = v.modDesc d.id fun e => { e with prog := pr } := ⟨_, rfl⟩
  rw [← hx] at hkv
  have hgo : (if x.kvStage3Ok { d with prog := pr } then x.stage3 { d with prog := pr }
      else x.endDesc d.id stTileIllegal) = x :=
    (if_pos hkv).trans (stage3_goes hstage (fun hm => absurd (hm.symm.trans hmem) (by decide)) howned)
  have hland : s.landWalk d cc = x.untear d.id := by
    unfold State.landWalk
    rw [hread]
    refine congrArg (State.untear · d.id) ?_
    dsimp only [onGot]
    rw [← hl, hwalk]
    dsimp only
    rw [walkDone_goes hfine hpr, ← hx]
    exact hgo
  have hxs := hsound.modDesc (g := fun e => { e with prog := pr }) rfl hsound.torn
  rw [← hx] at hxs
  have hu := hxs.modDesc (g := fun e => { e with torn := false }) rfl rfl
  have hne : d.opcode ≠ 0x31 := fun h31 => by
    obtain ⟨-, -, -, hopc, -⟩ := h
    rw [← hopc, h31] at hop
    exact absurd hop (by decide)
  have hexec : exec (.walkLanded d.id { waitCc := cc }) s = .next ((calm (x.untear d.id)).untear d.id) := by
    show execWalkLanded d.id { waitCc := cc } s = _
    unfold execWalkLanded
    rw [h.1]
    dsimp only
    rw [if_neg (by rw [h.2.1, hdue]; decide), if_neg hne, runWhen_onCore h hop (by rw [hwalks, hbounds]; rfl),
      work_untorn herrs hwait hland hu]
    rfl
  have hend := (hu.congr (t := calm (x.untear d.id)) rfl rfl rfl).modDesc (g := fun e => { e with torn := false }) rfl rfl
  refine ⟨_, _, hexec, hend.desc, rfl, hlive, ?_, ?_, ?_⟩
  · exact (congrArg State.regs hx).trans rfl
  · exact (congrArg State.posted hx).trans rfl
  · exact (congrArg State.hbm hx).trans rfl

theorem tileStart_work (hop : tiledOps.contains op = true) (h : onCore s id op d c) (hdue : s.tileDue d = true)
    (hfree : s.allocBlocked d = false) (o : RunObs) :
    exec (.tileStart ⟨id, o⟩) s = .next ((s.work d o fun u => u.startTile d c o.waitCc).tearTorn id) :=
  congrArg Host.Outcome.next (congrArg (State.tearTorn · id) (runWhen_onCore h hop (by rw [hdue, hfree]; rfl) _))

theorem allocBlocked_other (hne : d.opcode ≠ 0x30) : s.allocBlocked d = false := by
  unfold State.allocBlocked
  rw [beq_eq_false_iff_ne.2 hne]
  rfl

/-- A descriptor that has taken its pages, or that takes none, goes to its next tile. -/
theorem startTile_next (h : onCore s id op d c) (halloc : d.opcode ≠ 0x30 ∨ d.prog.allocated = true) :
    s.startTile d c cc = State.nextTile (d.positions + 1) s d c cc := by
  have hstart : s.appendStart d = s := if_pos halloc
  unfold State.startTile
  rw [hstart]
  dsimp only
  rw [id_of_desc? h.1, h.1]
  exact if_neg (by rw [h.2.1]; decide)

theorem nextTile_bad {fuel : Nat} (htile : d.curTile = some tl) (hbad : d.stage4Bad tl = true)
    (hmap : (attnOp d.opcode && d.prog.posBad) = false) :
    State.nextTile (fuel + 1) s d c cc = s.endDesc d.id stBoundsFault := by
  rw [State.nextTile, htile]
  dsimp only
  rw [if_pos hbad, hmap]
  rfl

theorem nextTile_opens {fuel : Nat} (htile : d.curTile = some tl) (hok : d.stage4Bad tl = false) (hlive : d.skipped tl = false) :
    State.nextTile (fuel + 1) s d c cc = s.openTile d c tl cc := by
  rw [State.nextTile, htile]
  dsimp only
  rw [if_neg (by rw [hok]; decide), if_neg (by rw [hlive]; decide)]

/-- The last position of a descriptor, passed over. -/
def passedOver (s : State) (d : Desc) : State :=
  ((s.modDesc d.id fun e => { e with prog := { e.prog with tile := d.prog.tile + 1 } }).wrapAdd (kTilesSkipped d.part)).endDesc d.id stOk

theorem nextTile_passedOver {fuel : Nat} (htile : d.curTile = some tl) (hok : d.stage4Bad tl = false) (hskip : d.skipped tl = true)
    (hlast : d.owned (d.prog.tile + 1) = none) : State.nextTile (fuel + 2) s d c cc = passedOver s d := by
  have hnone : Desc.curTile { d with prog := { d.prog with tile := d.prog.tile + 1 } } = none :=
    congrArg (Option.map _) hlast
  rw [State.nextTile, htile]
  dsimp only
  rw [if_neg (by rw [hok]; decide), if_pos hskip, State.nextTile, hnone]
  rfl

theorem positions_pos (htile : d.curTile = some tl) : ∃ n, d.positions = n + 1 := by
  unfold Desc.curTile Desc.owned at htile
  dsimp only at htile
  split at htile
  · next h => exact ⟨d.positions - 1, by omega⟩
  · cases htile

/-- A tile that starts reads its tag and its mask, and opens (R191, R255). -/
theorem tileStart_opens {m : List (Nat × Nat)} (hop : tiledOps.contains op = true) (h : onCore s id op d c) (herrs : s.errs = [])
    (hwait : s.slotWait = false) (hdue : s.tileDue d = true) (halloc : op ≠ 0x30 ∨ d.prog.allocated = true)
    (hfree : s.allocBlocked d = false) (htile : d.curTile = some tl) (hok : d.stage4Bad tl = false) (hskip : d.skipped tl = false)
    (htag : s.startTag d c = (some pr, u)) (hmask : u.readMask d tl cc = (some m, v)) (hwell : wentWell v id d) :
    ∃ t' e, exec (.tileStart ⟨id, { waitCc := cc }⟩) s = .next t' ∧ t'.desc? id = some e ∧ e.prog.tileOpen = true ∧
      e.prog.tile = d.prog.tile ∧ e.prog.mask = m ∧ e.prog.width = pr.width ∧ e.prog.exp = pr.exp ∧ e.prog.entry = pr.entry ∧
      e.ended = false ∧ t'.regs = v.regs ∧ t'.posted = v.posted := by
  obtain ⟨e, hsound, hlive⟩ := sound_of_wentWell hwell
  obtain rfl := id_of_desc? h.1
  have hopc := h.2.2.2.1
  have hstart : s.startTile d c cc = s.openTile d c tl cc :=
    (startTile_next h (hopc ▸ halloc)).trans (nextTile_opens htile hok hskip)
  unfold State.openTile at hstart
  rw [htag] at hstart
  dsimp only [onGot] at hstart
  rw [hmask] at hstart
  have hu := hsound.modDesc (g := fun e => { e with prog := { pr with
    predicted := e.prog.predicted, tile := d.prog.tile, tileOpen := true, mask := m, next := none,
    halfA := (if (d.prog.next == some d.prog.tile && (!productOp d.opcode || pr.width == d.prog.width)) = true
      then (d.holding tl).prog else d.prog).halfA,
    halfB := (if (d.prog.next == some d.prog.tile && (!productOp d.opcode || pr.width == d.prog.width)) = true
      then (d.holding tl).prog else d.prog).halfB,
    heldA := (if (d.prog.next == some d.prog.tile && (!productOp d.opcode || pr.width == d.prog.width)) = true
      then (d.holding tl).prog else d.prog).heldA,
    heldB := (if (d.prog.next == some d.prog.tile && (!productOp d.opcode || pr.width == d.prog.width)) = true
      then (d.holding tl).prog else d.prog).heldB,
    fetched := d.prog.next == some d.prog.tile && (!productOp d.opcode || pr.width == d.prog.width) ||
      !(d.aNeeded tl || d.bNeeded tl) } }) rfl hsound.torn
  exact ⟨_, _, (tileStart_work hop h hdue hfree _).trans (congrArg Host.Outcome.next (work_sound herrs hwait hstart hu)), hu.desc, rfl,
    rfl, rfl, rfl, rfl, rfl, hlive, rfl, rfl⟩

/-- The last position is passed over, and the descriptor ends (R248). -/
theorem tileStart_skips (hop : tiledOps.contains op = true) (h : onCore s id op d c) (herrs : s.errs = [])
    (hwait : s.slotWait = false) (htorn : d.torn = false) (hdue : s.tileDue d = true) (hne : op ≠ 0x30)
    (htile : d.curTile = some tl) (hok : d.stage4Bad tl = false) (hskip : d.skipped tl = true)
    (hlast : d.owned (d.prog.tile + 1) = none) :
    ∃ t' e, exec (.tileStart ⟨id, { waitCc := cc }⟩) s = .next t' ∧ t'.desc? id = some e ∧ e.ended = true ∧ e.status = stOk ∧
      t'.nat (kTilesSkipped d.part) = (s.nat (kTilesSkipped d.part) + 1) % 2 ^ 64 ∧ slotsKept s t' [kTilesSkipped d.part] ∧
      memoryKept s t' := by
  have hsound := sound_of_onCore h hwait htorn
  have hlive := h.2.1
  have hopc := h.2.2.2.1
  obtain rfl := id_of_desc? h.1
  obtain ⟨n, hn⟩ := positions_pos htile
  have hstart : s.startTile d c cc = passedOver s d := by
    rw [startTile_next h (.inl (hopc ▸ hne)), hn, nextTile_passedOver htile hok hskip hlast]
  have hmoved := (hsound.modDesc (g := fun e => { e with prog := { e.prog with tile := d.prog.tile + 1 } }) rfl htorn).setReg
    (kTilesSkipped d.part) (wd ((s.nat (kTilesSkipped d.part) + 1) % 2 ^ 64))
  have hu : Sound (passedOver s d) d.id d _ := hmoved.endDesc hlive stOk
  refine ⟨_, _, (tileStart_work hop h hdue (allocBlocked_other (hopc ▸ hne)) _).trans
    (congrArg Host.Outcome.next (work_sound herrs hwait hstart hu)), hu.desc, rfl, rfl, ?_, fun k hk => ?_, ?_⟩
  · exact nat_wrapAdd_same s (kTilesSkipped d.part) 1
  · exact State.reg_setNat_other s _ (by simpa using hk)
  · exact (Quiet.refl s).memoryKept

/-- A tile outside the bounds ends its descriptor with BOUNDS_FAULT (R245). -/
theorem tileStart_faults (hop : tiledOps.contains op = true) (h : onCore s id op d c) (herrs : s.errs = [])
    (hwait : s.slotWait = false) (htorn : d.torn = false) (hdue : s.tileDue d = true) (hne : op ≠ 0x30)
    (htile : d.curTile = some tl) (hbad : d.stage4Bad tl = true) (hmap : (attnOp op && d.prog.posBad) = false) :
    ∃ t' e, exec (.tileStart ⟨id, { waitCc := cc }⟩) s = .next t' ∧ t'.desc? id = some e ∧ e.ended = true ∧
      e.status = stBoundsFault ∧ slotsKept s t' [] ∧ memoryKept s t' := by
  have hsound := sound_of_onCore h hwait htorn
  have hlive := h.2.1
  have hopc := h.2.2.2.1
  obtain rfl := id_of_desc? h.1
  have hstart : s.startTile d c cc = s.endDesc d.id stBoundsFault :=
    (startTile_next h (.inl (hopc ▸ hne))).trans (nextTile_bad htile hbad (hopc ▸ hmap))
  have hu := hsound.endDesc hlive stBoundsFault
  exact ⟨_, _, (tileStart_work hop h hdue (allocBlocked_other (hopc ▸ hne)) _).trans
    (congrArg Host.Outcome.next (work_sound herrs hwait hstart hu)), hu.desc, rfl, rfl, fun _ _ => rfl, (Quiet.refl s).memoryKept⟩

end Tiles

/-- Settles O13: the command of each step runs the step's work on its core, and the work leaves the bounds, the pages, the tag,
the mask and the operands that its data names. -/
theorem tileSteps : Obligations.TileSteps := by
  unfold Obligations.TileSteps
  refine ⟨?_, ?_, ?_, ?_, ?_, ?_, ?_, ?_⟩
  · intro s id op d c o ho hop h
    refine ⟨fun hdue hfree => tileStart_ran ho hop h hdue hfree, fun t hopen hfetched htile => ?_, fun hopen hfetched => ?_⟩
    · exact (operandFetch_landed hop h hopen hfetched htile).trans (congrArg Host.Outcome.next (work_ran h ho.1 _))
    · exact (operandFetch_next hop h hopen hfetched).trans (congrArg Host.Outcome.next (work_ran h ho.1 _))
  · intro s u v w id op d c cc ptr bs lens pos bad pr hop h herrs hwait hdue hread hok hvec hpos hwell hpr hgo
    exact boundsLanded_leaves hop h herrs hwait hdue hread hok hvec hpos hwell hpr hgo
  · intro s u v id op d c cc seqs l pr hop h herrs hwait hwalks hbounds hdue hread hl hwalk hfine hwell hpr hkv hstage hmem howned
    exact walkLanded_leaves hop h herrs hwait hwalks hbounds hdue hread hl hwalk hfine hwell hpr hkv hstage hmem howned
  · intro s u v id op d c cc t pr m hop h herrs hwait _ hdue halloc hfree htile hok hskip htag hmask hwell
    exact tileStart_opens hop h herrs hwait hdue halloc hfree htile hok hskip htag hmask hwell
  · intro s id op d c cc t hop h herrs hwait htorn hdue hne htile hok hskip hlast
    exact tileStart_skips hop h herrs hwait htorn hdue hne htile hok hskip hlast
  · intro s id op d c cc t hop h herrs hwait htorn hdue hne htile hbad hmap
    exact tileStart_faults hop h herrs hwait htorn hdue hne htile hbad hmap
  · intro s v id op d c cc t hop h herrs hwait hopen hfetched htile hbring hwell
    exact operandFetch_leaves hop h herrs hwait hopen hfetched htile hbring hwell
  · intro s v id op d c k n t hop h herrs hwait hopen hfetched hnext hrun howned ht hneed hstr hbring hwell
    subst ht
    exact operandFetch_ahead hop h herrs hwait hopen hfetched hnext hrun howned hneed hstr hbring hwell

end Sys2Proof.Safety

namespace Sys2Proof.Safety

open Sys2Proof.Machine

/-! ### Tiles that finish (R188, R245) -/

section Tiles

variable {s t u v w : State} {id op c : Nat} {d d' e : Desc} {o : RunObs} {tl : Tile} {i : Instr} {g : State → State}
  {l : List (List (Int × Nat))}

/-- A descriptor that is due to take the position after `n`. -/
def dueAfter (n : Nat) (e : Desc) : Desc := { e with prog := { e.prog with tile := n + 1, tileOpen := false, fetched := false } }

/-- A tile that is counted, its descriptor due to take its next position. -/
def tileCounted (v : State) (d : Desc) (c : Nat) : State := (v.wrapAdd (kTilesRun c)).modDesc d.id (dueAfter d.prog.tile)

theorem closeTile_eq (v : State) (d : Desc) (c : Nat) : v.closeTile d c =
    if d.owned (d.prog.tile + 1) = none then (tileCounted v d c).endDesc d.id stOk else tileCounted v d c := rfl

/-- What closing a tile leaves (R188, R245). -/
theorem closeTile_finished (h : Sound v d.id d e) (hlive : e.ended = false) (hid : d'.id = d.id)
    (htile : d'.prog.tile = d.prog.tile) (howned : d'.owned (d'.prog.tile + 1) = d.owned (d.prog.tile + 1)) :
    ∃ f, Sound (v.closeTile d' c) d.id d f ∧ tileFinished v (calm (v.closeTile d' c)) d.id d c := by
  obtain ⟨u, hu⟩ : ∃ u, tileCounted v d' c = u := ⟨_, rfl⟩
  have hcount : (tileCounted v d' c).nat (kTilesRun c) = (v.nat (kTilesRun c) + 1) % 2 ^ 64 := nat_wrapAdd_same v _ 1
  have hslots : slotsKept v (tileCounted v d' c) [kTilesRun c] := fun k hk => State.reg_setNat_other _ _ (by simpa using hk)
  have hfields : (tileCounted v d' c).posted = v.posted ∧ (tileCounted v d' c).acc = v.acc ∧ (tileCounted v d' c).hbm = v.hbm :=
    ⟨rfl, rfl, rfl⟩
  have hcounted : Sound (tileCounted v d' c) d.id d (dueAfter d.prog.tile e) := by
    unfold tileCounted
    rw [hid, htile]
    exact (h.setReg (kTilesRun c) (wd ((v.nat (kTilesRun c) + 1) % 2 ^ 64))).modDesc rfl h.torn
  rw [closeTile_eq, howned, hid]
  rw [hu] at hcount hslots hfields hcounted ⊢
  obtain ⟨hposted, hacc, hhbm⟩ := hfields
  cases hown : d.owned (d.prog.tile + 1) with
  | none =>
    have hend := hcounted.endDesc hlive stOk
    rw [if_pos rfl]
    exact ⟨_, hend, hcount, hposted, hacc, hhbm, hslots, _, hend.desc, rfl, rfl, fun _ => ⟨rfl, rfl⟩, fun hsome => by rw [hown] at hsome; cases hsome⟩
  | some k =>
    rw [if_neg (Option.some_ne_none k)]
    exact ⟨_, hcounted, hcount, hposted, hacc, hhbm, hslots, _, hcounted.desc, rfl, rfl,
      fun hnone => (Option.some_ne_none k (hown.symm.trans hnone)).elim, fun _ => hlive⟩

/-- A command that runs the open tile of a descriptor, and that goes well. -/
theorem tile_finishes (h : tileReady s id op d c tl) (hexec : exec i s = .next ((s.work d {} g).tearTorn id))
    (hg : g s = v.closeTile d c) (hwell : wentWell v id d) : ∃ t', exec i s = .next t' ∧ tileFinished v t' id d c := by
  obtain ⟨hcore, -, -, -, -, -, -, herrs, hwait⟩ := h
  obtain ⟨e, hsound, hlive⟩ := sound_of_wentWell hwell
  obtain rfl := id_of_desc? hcore.1
  obtain ⟨f, hf, hfinished⟩ := closeTile_finished (c := c) hsound hlive rfl rfl rfl
  exact ⟨_, hexec.trans (congrArg Host.Outcome.next (work_sound (cc := 0) herrs hwait hg hf)), hfinished⟩

/-- The passes of a tile with no mismatch armed, whose outputs are then written (R185, R187). -/
theorem runPasses_closes {fin : State → List (List (Int × Nat)) → Bool × State} (harm : s.nat (kResidueInject c) ≠ 1)
    (hruns : (s.loadSeeds d c).runs d.id = true) (hform : (s.loadSeeds d c).formTile d c tl none = (some l, u))
    (hfin : fin (passed u d c tl l) l = (true, v)) : s.runPasses d c tl {} fin = v.closeTile d c := by
  have hclean : ¬ (d.arith ≠ 3 ∧ (d.tileCost tl).1 ≠ 0 ∧ (({} : RunObs).residue || s.nat (kResidueInject c) == 1) = true) := by
    rintro ⟨-, -, hmis⟩
    rw [beq_eq_false_iff_ne.2 harm] at hmis
    exact absurd hmis (by decide)
  refine (if_neg hclean).trans ((if_neg (by rw [hruns]; decide)).trans ?_)
  rw [hform]
  show (match fin (passed u d c tl l) l with
    | (true, s) => s.closeTile d c
    | (false, s) => s) = _
  rw [hfin]

/-- A command of an open tile's descriptor runs on its core. -/
theorem openTile_work (h : tileReady s id op d c tl) {ops : List Nat} (hop : ops.contains op = true)
    (f : State → Desc → Nat → State) : s.runWhen id ops o State.runDue f = s.work d o fun u => f u d c := by
  obtain ⟨hcore, -, hopen, hfetched, -, hbusy, -⟩ := h
  exact runWhen_onCore hcore hop (by rw [State.runDue, hopen, hfetched, hbusy]; rfl) f

theorem drain_finishes (hop : (op, i) ∈ [(0x10, Instr.matmul id {}), (0x23, .attnPv id {})]) (h : tileReady s id op d c tl)
    (hruns : (s.loadSeeds d c).runs d.id = true) (hform : (s.loadSeeds d c).formTile d c tl none = (some l, u))
    (hdrain : (passed u d c tl l).drainTile d c tl l = (true, v)) (hwell : wentWell v id d) :
    ∃ t', exec i s = .next t' ∧ tileFinished v t' id d c := by
  have hexec : exec i s = .next ((s.work d {} fun u => u.runDrain d c {}).tearTorn id) := by
    simp only [List.mem_cons, Prod.mk.injEq, List.not_mem_nil, or_false] at hop
    obtain ⟨rfl, rfl⟩ | ⟨rfl, rfl⟩ := hop
    · exact congrArg Host.Outcome.next (congrArg (State.tearTorn · id) (openTile_work h (by decide) _))
    · exact congrArg Host.Outcome.next (congrArg (State.tearTorn · id) (openTile_work h (by decide) _))
  refine tile_finishes h hexec ?_ hwell
  unfold State.runDrain
  rw [h.2.1]
  exact runPasses_closes h.2.2.2.2.2.2.1 hruns hform hdrain

theorem score_finishes (h : tileReady s id 0x20 d c tl) (hruns : (s.loadSeeds d c).runs d.id = true)
    (hform : (s.loadSeeds d c).formTile d c tl none = (some l, u))
    (hrows : eachRow (d.rows tl) (passed u d c tl l) (fun s r => s.scoreRow d c tl r (l.getD r [])) = (true, v))
    (hwell : wentWell v id d) : ∃ t', exec (.attnScore id {}) s = .next t' ∧ tileFinished v t' id d c := by
  refine tile_finishes h (congrArg Host.Outcome.next (congrArg (State.tearTorn · id) (openTile_work h (by decide) _))) ?_ hwell
  unfold State.runScore
  rw [h.2.1]
  exact runPasses_closes h.2.2.2.2.2.2.1 hruns hform hrows

theorem recompute_finishes (h : tileReady s id 0x21 d c tl) (hruns : (s.loadSeeds d c).runs d.id = true)
    (hform : (s.loadSeeds d c).formTile d c tl none = (some l, u))
    (htag : (if d.prog.seeded then (true, passed u d c tl l) else (passed u d c tl l).writePTag d) = (true, w))
    (hrows : eachRow (d.rows tl) w (fun s r => s.recomputeRow d c tl ((passed u d c tl l).pTagNow d).2 r (l.getD r [])) = (true, v))
    (hwell : wentWell v id d) : ∃ t', exec (.attnScoreRecompute id {}) s = .next t' ∧ tileFinished v t' id d c := by
  refine tile_finishes h (congrArg Host.Outcome.next (congrArg (State.tearTorn · id) (openTile_work h (by decide) _))) ?_ hwell
  have htag' : (if (!d.prog.seeded) = true then (passed u d c tl l).writePTag d else (true, passed u d c tl l)) = (true, w) := by
    rw [← htag]
    cases d.prog.seeded <;> rfl
  unfold State.runRecompute
  rw [h.2.1]
  refine runPasses_closes h.2.2.2.2.2.2.1 hruns hform ?_
  dsimp only
  rw [htag']
  exact hrows

theorem norm_finishes {lat : Nat} {a : Addr} (h : tileReady s id 0x22 d c tl) (hruns : (s.loadSeeds d c).runs d.id = true)
    (ha : decodeAddr (d.at 104 8) = some a) (hlat : lat = readLatency d.core a true)
    (hu : u = (s.loadSeeds d c).spend d.id ((if d.prog.seeded then 0 else 16 + lat) + d.normCost tl))
    (htag : (if d.prog.seeded || d.grad then (true, u) else u.writePTag d) = (true, w))
    (hrows : eachRow (d.rows tl) w (fun x r =>
      if d.grad then x.gradRow d c tl r else x.normRow d c tl ((s.loadSeeds d c).pTagNow d).2 r) = (true, v))
    (hwell : wentWell v id d) : ∃ t', exec (.attnNorm id {}) s = .next t' ∧ tileFinished v t' id d c := by
  refine tile_finishes h (congrArg Host.Outcome.next (congrArg (State.tearTorn · id) (openTile_work h (by decide) _))) ?_ hwell
  have hcost : (if (!d.prog.seeded) = true then 16 + readLatency d.core a true else 0) =
      if d.prog.seeded = true then 0 else 16 + lat := by
    rw [hlat]
    cases d.prog.seeded <;> rfl
  have htag' : (if (!d.prog.seeded && !d.grad) = true then u.writePTag d else (true, u)) = (true, w) := by
    rw [← htag]
    cases d.prog.seeded <;> cases d.grad <;> rfl
  show s.runNorm d c = _
  unfold State.runNorm
  rw [h.2.1]
  dsimp only
  rw [if_neg (by rw [hruns]; decide), ha]
  dsimp only
  rw [hcost, ← hu, htag']
  dsimp only
  rw [if_pos rfl, hrows]
  exact if_pos rfl

theorem quantise_finishes {a ra : SAddr} {recs : List Nat} {rows : List (List Fv)} (h : tileReady s id 0x11 d c tl)
    (ha : d.region? 40 = some a) (hra : decodeSAddr (d.at 84 4) = some ra) (hruns : (s.loadSeeds d c).runs d.id = true)
    (hranges : (s.loadSeeds d c).readRanges d ra = (some recs, u))
    (hinputs : u.readInputs d tl a (d.aPlace tl) (d.at 95 1 == 1) = (some rows, w))
    (hstaged : w.writeStaged d c tl rows recs = (true, v)) (hwell : wentWell v id d) :
    ∃ t', exec (.quantise id {}) s = .next t' ∧ tileFinished v t' id d c := by
  have hexec : exec (.quantise id {}) s = .next ((s.work d {} fun u => u.runQuantise d c).tearTorn id) :=
    congrArg Host.Outcome.next (congrArg (State.tearTorn · id) (openTile_work h (by decide) _))
  have hrun : ∃ n, s.runQuantise d c = (v.spend id n).closeTile d c := by
    obtain rfl := id_of_desc? h.1.1
    unfold State.runQuantise
    rw [h.2.1, ha, hra]
    dsimp only
    rw [if_neg (by rw [hruns]; decide), hranges]
    dsimp only [onGot]
    rw [hinputs]
    dsimp only
    rw [hstaged]
    exact ⟨_, rfl⟩
  obtain ⟨n, hrun⟩ := hrun
  obtain ⟨e, hsound, hlive⟩ := sound_of_wentWell hwell
  have hspent : wentWell (v.spend id n) id d := by
    have hs := hsound.modDesc (g := fun e => { e with cycles := e.cycles + n }) rfl hsound.torn
    exact ⟨hs.wait, hs.stop, _, hs.desc, hlive, hs.torn⟩
  have hfinish := tile_finishes (v := v.spend id n) h hexec hrun hspent
  exact hfinish

theorem append_finishes {e : Desc} (h : tileReady s id 0x30 d c tl) (hblocked : s.appendBlocked d = false)
    (hscales : s.appendScales d c = u) (he : u.desc? id = some e) (hlive : e.ended = false) (htile : e.curTile = some tl)
    (hat : e.prog.tile = d.prog.tile) (howned : e.owned (e.prog.tile + 1) = d.owned (d.prog.tile + 1))
    (hkeys : u.appendPart e c tl 0 = (true, w)) (hvalues : w.appendPart e c tl 1 = (true, v)) (hlast : e.liveTiles.getLast? ≠ some tl)
    (hwell : wentWell v id d) : ∃ t', exec (.kvAppend id {}) s = .next t' ∧ tileFinished v t' id d c := by
  obtain ⟨hcore, -, hopen, hfetched, -, hbusy, -, herrs, hwait⟩ := h
  have hexec : exec (.kvAppend id {}) s = .next ((s.work d {} fun u => u.runAppend d c).tearTorn id) :=
    congrArg Host.Outcome.next (congrArg (State.tearTorn · id)
      (runWhen_onCore hcore (by decide) (by rw [State.runDue, hopen, hfetched, hbusy, hblocked]; rfl) _))
  obtain ⟨f, hsound, hrunning⟩ := sound_of_wentWell hwell
  obtain rfl := id_of_desc? hcore.1
  have heid := id_of_desc? he
  have hrun : s.runAppend d c = v.closeTile e c := by
    unfold State.runAppend
    rw [hscales]
    dsimp only
    rw [he]
    dsimp only
    rw [if_neg (by rw [hlive]; decide), htile]
    dsimp only
    rw [hkeys]
    dsimp only
    rw [if_pos rfl, hvalues]
    dsimp only
    rw [if_pos rfl, if_neg hlast]
  obtain ⟨x, hx, hfinished⟩ := closeTile_finished (c := c) hsound hrunning heid hat howned
  exact ⟨_, hexec.trans (congrArg Host.Outcome.next (work_sound (cc := 0) herrs hwait hrun hx)), hfinished⟩

end Tiles

/-! ### Descriptors that run in one go (R134, R136, R139, R213, R261) -/

section Whole

variable {s t u v q r : State} {id op c : Nat} {d e : Desc} {o : RunObs} {a b : SAddr} {l tl m : List Byte} {i : Instr}

/-- A write of one row, posted. -/
def postRow (s : State) (d : Desc) (b : SAddr) (l : List Byte) : State :=
  { s with posted := s.posted ++ [⟨d.id, d.part, .store b.fs b.frond b.slot b.off, l, s.frameNo⟩] }

theorem issue_row (hne : l ≠ []) (hfit : b.off % b.row + l.length ≤ b.row) (hok : s.filterOk d.part b = true) :
    s.issue d (.store b) l = (true, postRow s d b l) := by
  obtain ⟨n, hn⟩ := Nat.exists_eq_succ_of_ne_zero (List.length_eq_zero_iff.not.2 hne)
  have hcut : cutRows (Addr.store b).row (l.length + 1) (Addr.store b).pos l = [(b.off, l)] := by
    rw [hn]
    exact cutRows_within hne hfit n
  unfold State.issue
  rw [hcut]
  exact if_pos hok

theorem postRow_leaves (s : State) (d : Desc) (b : SAddr) (l : List Byte) : (postRow s d b l).posted =
      s.posted ++ [⟨d.id, d.part, .store b.fs b.frond b.slot b.off, l, s.frameNo⟩] ∧
    (postRow s d b l).regs = s.regs ∧ memoryKept s (postRow s d b l) ∧ areasKept s (postRow s d b l) :=
  ⟨rfl, rfl, (Quiet.refl s).memoryKept, fun _ _ => rfl⟩

theorem plus_zero (a : Addr) : a.plus 0 = a := by cases a <;> rfl

/-- The end of a descriptor that ran in one go, with its cycles. -/
def ranOnce (u : State) (id cc : Nat) : State := (u.spend id cc).endDesc id stOk

theorem Sound.ranOnce (h : Sound u id d e) (hlive : e.ended = false) (cc : Nat) :
    Sound (ranOnce u id cc) id d (endedWith (u.spend id cc) { e with cycles := e.cycles + cc } stOk) :=
  (h.modDesc (g := fun e => { e with cycles := e.cycles + cc }) rfl h.torn).endDesc hlive stOk

theorem ranOnce_leaves (u : State) (id cc : Nat) : (calm (ranOnce u id cc)).posted = u.posted ∧
    (calm (ranOnce u id cc)).regs = u.regs ∧ (calm (ranOnce u id cc)).hbm = u.hbm ∧ memoryKept u (calm (ranOnce u id cc)) ∧
    areasKept u (calm (ranOnce u id cc)) := ⟨rfl, rfl, rfl, (Quiet.refl u).memoryKept, fun _ _ => rfl⟩

/-- A TRANSFER of one row (R139). -/
theorem transfer_row (h : onCore s id 0x15 d c) (htorn : d.torn = false) (herrs : s.errs = []) (hwait : s.slotWait = false)
    (ha : decodeAddr (d.at 16 8) = some (.store a)) (hb : decodeAddr (d.at 24 8) = some (.store b)) (hrows : d.at 36 4 = 1)
    (hfetch : s.fetch d (.store a) (d.at 32 4) = (some l, s)) (hsome : 0 < l.length) (hfit : b.off % b.row + l.length ≤ b.row)
    (hok : s.filterOk d.part b = true) :
    ∃ t e, exec (.transfer id {}) s = .next t ∧
      t.posted = s.posted ++ [⟨id, d.part, .store b.fs b.frond b.slot b.off, l, s.frameNo⟩] ∧ t.desc? id = some e ∧
      e.ended = true ∧ e.status = stOk ∧ slotsKept s t [] ∧ memoryKept s t ∧ areasKept s t := by
  have hlive := h.2.1
  obtain ⟨hposted, hregs, hmem, hareas⟩ := postRow_leaves s d b l
  have hsound := (sound_of_onCore h hwait htorn).congr (t := postRow s d b l) rfl rfl rfl
  obtain rfl := id_of_desc? h.1
  have hmove : State.transferRows d (.store a) (.store b) (d.at 32 4) (d.at 40 4) (d.at 44 4) (countFrom 0 1) s = postRow s d b l := by
    rw [countFrom, countFrom, State.transferRows, Nat.zero_mul, Nat.zero_mul, plus_zero, plus_zero, hfetch]
    dsimp only
    rw [issue_row (List.length_pos_iff.1 hsome) hfit hok]
    rfl
  have hrun : s.runTransfer d 0 = ranOnce (postRow s d b l) d.id 0 := by
    unfold State.runTransfer
    rw [ha, hb]
    dsimp only
    rw [hrows, hmove]
    rfl
  obtain ⟨w, hw⟩ : ∃ w, postRow s d b l = w := ⟨_, rfl⟩
  rw [hw] at hposted hregs hmem hareas hsound hrun
  obtain ⟨hposted', hregs', -, hmem', hareas'⟩ := ranOnce_leaves w d.id 0
  have hend := hsound.ranOnce hlive 0
  refine ⟨_, _, congrArg Host.Outcome.next ((congrArg (State.tearTorn · d.id) (runOn_onCore h (by decide) _)).trans
    (work_sound (cc := 0) herrs hwait hrun hend)), hposted'.trans hposted, hend.desc, rfl, rfl,
    fun k _ => State.reg_of_regs (hregs'.trans hregs) k, hmem.trans hmem', fun who sub => (hareas' who sub).trans (hareas who sub)⟩

theorem partial_bytes_ne_nil (p : Partial) : p.bytes ≠ [] := by
  have hlen : 0 < (leBytes 8 p.tag).length := by rw [length_leBytes]; decide
  exact List.append_ne_nil_of_left_ne_nil (List.length_pos_iff.1 hlen) _

/-- One partial that is read (R213). -/
theorem readPartials_one {src : Addr} {n : Nat} (hcount : d.at 28 1 = 1) (htag : s.fetch d src 8 = (some tl, s))
    (hok : s.partialsOk d [bitOf (leNat tl) 12 && decide (leNat tl % 16 ≤ 8)] = true)
    (hvals : s.fetch d (src.plus 8) (n * (if bitOf (leNat tl) 12 = true ∧ leNat tl % 16 ≤ 8 then 8 else 4)) = (some l, s)) :
    s.readPartials d src n = (some [partialOf (leNat tl) n l], s) := by
  have hwide : (Partial.wide ⟨leNat tl, []⟩) = (bitOf (leNat tl) 12 && decide (leNat tl % 16 ≤ 8)) := rfl
  have hsize : (if (bitOf (leNat tl) 12 && decide (leNat tl % 16 ≤ 8)) = true then 8 else 4) =
      if bitOf (leNat tl) 12 = true ∧ leNat tl % 16 ≤ 8 then 8 else 4 :=
    if_congr (by rw [Bool.and_eq_true, decide_eq_true_eq]) rfl rfl
  unfold State.readPartials
  rw [hcount, countFrom, countFrom, List.foldl_cons, List.foldl_nil]
  dsimp only
  rw [Nat.zero_mul, plus_zero, htag]
  dsimp only
  rw [List.replicate_zero, List.nil_append, hwide, if_neg (by rw [hok]; decide), hsize, hvals]
  rfl

/-- The partition filter looks at owners and at the map of cores only. -/
theorem filterOk_congr (hreg : ∀ f, t.reg (kCoreOwner f) = s.reg (kCoreOwner f)) (hocts : t.octs = s.octs)
    (hmap : t.coreMap = s.coreMap) (p : Nat) (x : SAddr) : t.filterOk p x = s.filterOk p x := by
  simp only [State.filterOk, State.sectorOwner, State.slotOwner, State.regByte, nat_of_reg (hreg _), State.oct, hocts, coreAt_congr hmap]

/-- The state once the saturations of a REDUCE are counted. -/
def alignCounted (s : State) (d : Desc) (n : Nat) : State := s.bump (kAlignSaturations d.part) n

theorem alignCounted_leaves (s : State) (d : Desc) (n : Nat) :
    (alignCounted s d n).nat (kAlignSaturations d.part) = satAdd 32 (s.nat (kAlignSaturations d.part)) n ∧
    slotsKept s (alignCounted s d n) [kAlignSaturations d.part] ∧ memoryKept s (alignCounted s d n) ∧
    (alignCounted s d n).posted = s.posted ∧ (alignCounted s d n).frameNo = s.frameNo ∧
    (∀ p x, (alignCounted s d n).filterOk p x = s.filterOk p x) := by
  have hslots : slotsKept s (alignCounted s d n) [kAlignSaturations d.part] :=
    fun k hk => State.reg_setNat_other _ _ (by simpa using hk)
  have hframe : (alignCounted s d n).nat kFrameNumber = s.nat kFrameNumber :=
    nat_of_reg (hslots _ (by unfold kFrameNumber kAlignSaturations; simp only [List.mem_cons, List.not_mem_nil, or_false]; omega))
  refine ⟨nat_bump_same _ _ _ (by decide), hslots, (Quiet.refl s).memoryKept, rfl, by rw [State.frameNo, hframe, State.frameNo], ?_⟩
  exact filterOk_congr (fun f => hslots _ (by
    unfold kCoreOwner kAlignSaturations; simp only [List.mem_cons, List.not_mem_nil, or_false]; omega)) rfl rfl

/-- A REDUCE that saturated flags its descriptor. -/
def reduceFlagged (s : State) (d : Desc) (p : Partial) : State := if bitOf p.tag 13 then s.flagDesc d.id 0 else s

theorem bitOf_or_one (n : Nat) : bitOf (n ||| 2 ^ 0) 0 = true := by
  simp [bitOf_eq_testBit]

/-- The flag of a REDUCE changes its descriptor only. -/
theorem reduceFlagged_leaves (h : Sound s d.id d e) (hlive : e.ended = false) (p : Partial) :
    (∃ x, Sound (reduceFlagged s d p) d.id d x ∧ x.ended = false ∧ (bitOf p.tag 13 = true → bitOf x.flags 0 = true)) ∧
    (reduceFlagged s d p).regs = s.regs ∧ memoryKept s (reduceFlagged s d p) ∧ (reduceFlagged s d p).posted = s.posted ∧
    (reduceFlagged s d p).octs = s.octs ∧ (reduceFlagged s d p).coreMap = s.coreMap := by
  unfold reduceFlagged
  split
  · exact ⟨⟨_, h.modDesc (g := fun d => { d with flags := d.flags ||| 2 ^ 0 }) rfl h.torn, hlive, fun _ => bitOf_or_one _⟩, rfl,
      (Quiet.refl s).memoryKept, rfl, rfl, rfl⟩
  · next hno => exact ⟨⟨e, h, hlive, fun hyes => absurd hyes hno⟩, rfl, (Quiet.refl s).memoryKept, rfl, rfl, rfl⟩

/-- A REDUCE of one partial (R213). -/
theorem reduce_one {p : Partial} {sats : Nat} (h : onCore s id 0x12 d c) (htorn : d.torn = false) (herrs : s.errs = [])
    (hwait : s.slotWait = false) (ha : decodeAddr (d.at 16 8) = some (.store a)) (hb : decodeAddr (d.at 32 8) = some (.store b))
    (hcount : d.at 28 1 = 1) (htag : s.fetch d (.store a) 8 = (some tl, s))
    (hkind : s.partialsOk d [bitOf (leNat tl) 12 && decide (leNat tl % 16 ≤ 8)] = true)
    (hvals : s.fetch d ((Addr.store a).plus 8)
      (d.at 40 4 * (if bitOf (leNat tl) 12 = true ∧ leNat tl % 16 ≤ 8 then 8 else 4)) = (some l, s))
    (hred : reducePartials [partialOf (leNat tl) (d.at 40 4) l] = some (p, sats))
    (haddr : s.addrOk d.part (d.at 32 8) p.bytes.length true = true) (hfit : b.off % b.row + p.bytes.length ≤ b.row)
    (hok : s.filterOk d.part b = true) :
    ∃ t e, exec (.reduce id {}) s = .next t ∧
      t.posted = s.posted ++ [⟨id, d.part, .store b.fs b.frond b.slot b.off, p.bytes, s.frameNo⟩] ∧ t.desc? id = some e ∧
      e.ended = true ∧ e.status = stOk ∧ t.nat (kAlignSaturations d.part) = satAdd 32 (s.nat (kAlignSaturations d.part)) sats ∧
      (bitOf p.tag 13 = true → bitOf e.flags 0 = true) ∧ slotsKept s t [kAlignSaturations d.part] ∧ memoryKept s t := by
  have hlive := h.2.1
  have hsound := sound_of_onCore h hwait htorn
  obtain rfl := id_of_desc? h.1
  obtain ⟨hsat, hslots, hmem, hposted, hframe, hfilter⟩ := alignCounted_leaves s d sats
  have hsound1 : Sound (alignCounted s d sats) d.id d d := hsound.setReg ..
  obtain ⟨u, hu⟩ : ∃ u, alignCounted s d sats = u := ⟨_, rfl⟩
  rw [hu] at hsat hslots hmem hposted hframe hfilter hsound1
  obtain ⟨⟨x, hx, hxlive, hflag⟩, hregs2, hmem2, hposted2, hocts2, hmap2⟩ := reduceFlagged_leaves hsound1 hlive p
  obtain ⟨v, hv⟩ : ∃ v, reduceFlagged u d p = v := ⟨_, rfl⟩
  rw [hv] at hx hregs2 hmem2 hposted2 hocts2 hmap2
  have hreg2 : ∀ k, v.reg k = u.reg k := State.reg_of_regs hregs2
  have hok2 : v.filterOk d.part b = true :=
    (filterOk_congr (fun f => hreg2 _) hocts2 hmap2 _ _).trans ((hfilter _ _).trans hok)
  have hframe2 : v.frameNo = s.frameNo := by rw [State.frameNo, nat_of_reg (hreg2 _), ← hframe, State.frameNo]
  have hissue := issue_row (d := d) (partial_bytes_ne_nil p) hfit hok2
  obtain ⟨hposted3, hregs3, hmem3, -⟩ := postRow_leaves v d b p.bytes
  have hsound3 : Sound (postRow v d b p.bytes) d.id d x := hx.congr rfl rfl rfl
  have hrun : s.runReduce d 0 = ranOnce (postRow v d b p.bytes) d.id 0 := by
    unfold State.runReduce
    rw [ha, hb]
    dsimp only
    rw [readPartials_one hcount htag hkind hvals]
    dsimp only [onGot]
    rw [hred]
    dsimp only
    rw [if_neg (by rw [haddr]; decide), ← alignCounted, hu, ← reduceFlagged, hv, hissue]
    rfl
  obtain ⟨w, hw⟩ : ∃ w, postRow v d b p.bytes = w := ⟨_, rfl⟩
  rw [hw] at hposted3 hregs3 hmem3 hsound3 hrun
  obtain ⟨hposted4, hregs4, -, hmem4, -⟩ := ranOnce_leaves w d.id 0
  have hend := hsound3.ranOnce hxlive 0
  have hreg : ∀ k, (calm (ranOnce w d.id 0)).reg k = u.reg k := State.reg_of_regs (hregs4.trans (hregs3.trans hregs2))
  refine ⟨_, _, congrArg Host.Outcome.next ((congrArg (State.tearTorn · d.id) (runOn_onCore h (by decide) _)).trans
    (work_sound (cc := 0) herrs hwait hrun hend)), ?_, hend.desc, rfl, rfl, (nat_of_reg (hreg _)).trans hsat, hflag,
    fun k hk => (hreg k).trans (hslots k hk), hmem.trans (hmem2.trans (hmem3.trans hmem4))⟩
  rw [hposted4, hposted3, hposted2, hposted, hframe2]

/-- A BUCKET_FORM whose plan is written (R261). -/
theorem bucketForm_plan {n : Nat} {edges : List Nat} {seqs : List (Nat × Nat)} (h : onCore s id 0x16 d c) (herrs : s.errs = [])
    (hwait : s.slotWait = false) (hcount : s.fetch d (.va (d.at 16 8)) 4 = (some l, q)) (hn : n = leNat l) (hlo : 1 ≤ n)
    (hhi : n ≤ 4096) (hread : q.fetch d (.va (d.at 16 8 + 8)) (8 * n) = (some m, r))
    (hseqs : seqs = (countFrom 0 n).map (fun q => (byteField m (8 * q) 4, byteField m (8 * q + 4) 4)))
    (hedges : edges = (countFrom 0 8).map (fun k => s.nat (kBucketEdge d.part k)))
    (hu : u = r.bump (kBucketOverflows d.part) (seqs.filter fun x => x.2 != 0 && (bucketOf edges x.2).isNone).length)
    (hplan : (batchPlan (d.at 24 8) edges seqs).foldl (fun (acc : Bool × State) (x : Nat × List Byte) =>
      if acc.1 then acc.2.issue d (.va (d.at 24 8 + x.1)) x.2 else acc) (true, u) = (true, v)) (hwell : wentWell v id d) :
    ∃ t e, exec (.bucketForm id {}) s = .next t ∧ t.posted = v.posted ∧ t.regs = v.regs ∧ t.hbm = v.hbm ∧
      t.desc? id = some e ∧ e.ended = true ∧ e.status = stOk := by
  obtain ⟨e, hsound, hlive⟩ := sound_of_wentWell hwell
  obtain rfl := id_of_desc? h.1
  have hrun : s.runBucketForm d 0 = ranOnce v d.id 0 := by
    unfold State.runBucketForm
    dsimp only
    rw [hcount]
    dsimp only [onGot]
    rw [← hn, if_neg (by omega), hread]
    dsimp only
    rw [← hseqs, ← hedges, ← hu, hplan]
    rfl
  have hend := hsound.ranOnce hlive 0
  obtain ⟨hposted, hregs, hhbm, -⟩ := ranOnce_leaves v d.id 0
  exact ⟨_, _, congrArg Host.Outcome.next ((congrArg (State.tearTorn · d.id) (runOn_onCore h (by decide) _)).trans
    (work_sound (cc := 0) herrs hwait hrun hend)), hposted, hregs, hhbm, hend.desc, rfl, rfl⟩

end Whole

/-- A command that runs a descriptor in one go. -/
theorem runOn_ran {s : State} {id op c : Nat} {d : Desc} {o : RunObs} {ops : List Nat} (ho : unharmed o) (h : onCore s id op d c)
    (hop : ops.contains op = true) (f : State → Desc → Nat → State) :
    (Host.Outcome.next ((s.runOn id ops o f).tearTorn id) : Host.Outcome State Fault Refusal) =
      .next (ran s id d o fun u => f u d c) := by
  rw [runOn_onCore h hop, work_ran h ho.1]

/-- A command that runs a descriptor's open tile. -/
theorem runWhen_ran {s : State} {id op c : Nat} {d : Desc} {o : RunObs} {ops : List Nat} {due : State → Desc → Bool} (ho : unharmed o)
    (h : onCore s id op d c) (hop : ops.contains op = true) (hdue : due s d = true) (f : State → Desc → Nat → State) :
    (Host.Outcome.next ((s.runWhen id ops o due f).tearTorn id) : Host.Outcome State Fault Refusal) =
      .next (ran s id d o fun u => f u d c) := by
  rw [runWhen_onCore h hop hdue, work_ran h ho.1]

/-- Settles O12: each command runs its descriptor's work on its core; a transfer, a reduction and a bucket form end with OK, and a
tile whose work goes well is closed. -/
theorem workOfDescriptors : Obligations.WorkOfDescriptors := by
  unfold Obligations.WorkOfDescriptors
  refine ⟨?_, ?_, ?_, ?_, ?_, ?_, ?_, ?_, ?_, ?_, ?_⟩
  · intro s id d c o ho
    exact ⟨fun h => runOn_ran ho h (by decide) _, fun h => runOn_ran ho h (by decide) _, fun h => runOn_ran ho h (by decide) _,
      fun h => runOn_ran ho h (by decide) _, fun h => runOn_ran ho h (by decide) _⟩
  · intro s id d c o ho hopen hfetched hbusy
    have hdue : s.runDue d = true := by rw [State.runDue, hopen, hfetched, hbusy]; rfl
    exact ⟨fun h => runWhen_ran ho h (by decide) hdue _, fun h => runWhen_ran ho h (by decide) hdue _,
      fun h => runWhen_ran ho h (by decide) hdue _, fun h => runWhen_ran ho h (by decide) hdue _,
      fun h => runWhen_ran ho h (by decide) hdue _, fun h => runWhen_ran ho h (by decide) hdue _,
      fun h hfree => runWhen_ran ho h (by decide) (by rw [hdue, hfree]; rfl) _⟩
  · intro s id d c a b l h htorn herrs hwait ha hb hrows hfetch _ hsome hfit hok
    exact transfer_row h htorn herrs hwait ha hb hrows hfetch hsome hfit hok
  · intro s id d c a b tl l p sats h htorn herrs hwait ha hb hcount htag hkind hvals hred haddr hfit hok
    exact reduce_one h htorn herrs hwait ha hb hcount htag hkind hvals hred haddr hfit hok
  · intro s q r u v id d c n l m edges seqs h _ herrs hwait hcount hn hlo hhi hread hseqs hedges hu hplan hwell
    exact bucketForm_plan h herrs hwait hcount hn hlo hhi hread hseqs hedges hu hplan hwell
  · exact fun s u v id op i d c t l hop h hruns hform hdrain hwell => drain_finishes hop h hruns hform hdrain hwell
  · exact fun s u v id d c t l h hruns hform hrows hwell => score_finishes h hruns hform hrows hwell
  · exact fun s u w v id d c t l h hruns hform htag hrows hwell => recompute_finishes h hruns hform htag hrows hwell
  · exact fun s u w v id lat d c t a h hruns ha hlat hu htag hrows hwell => norm_finishes h hruns ha hlat hu htag hrows hwell
  · exact fun s u w v id d c t a ra recs rows h ha hra hruns hranges hinputs hstaged hwell =>
      quantise_finishes h ha hra hruns hranges hinputs hstaged hwell
  · exact fun s u w v id d e c t h hblocked hscales he hlive htile hat howned hkeys hvalues hlast hwell =>
      append_finishes h hblocked hscales he hlive htile hat howned hkeys hvalues hlast hwell

end Sys2Proof.Safety

namespace Sys2Proof.Safety

open Sys2Proof.Machine

/-! ### Outputs that become undefined (R102, R507, R525) -/

section Undefining

variable {s t u : State} {p id : Nat} {d : Desc}

/-- The state without the memories, the caches and the slots. -/
def withoutBytes (s : State) : State :=
  { s with regs := [], ls := [], fs := [], acc := [], hbm := [], flips := [], msc := [], tlb := [], free := 0, clean := [] }

/-- Nothing but bytes of memories, caches and the counters of the MSC has changed. -/
structure BytesOnly (s t : State) : Prop where
  rest : withoutBytes t = withoutBytes s
  slots : slotsKept s t [kMscHits, kMscMisses]

theorem BytesOnly.refl (s : State) : BytesOnly s s := ⟨rfl, fun _ _ => rfl⟩

theorem BytesOnly.trans (h : BytesOnly s t) (h' : BytesOnly t u) : BytesOnly s u :=
  ⟨h'.rest.trans h.rest, h.slots.trans_same h'.slots⟩

/-- Whatever a state holds beside bytes, caches and slots is the same. -/
theorem BytesOnly.field {α : Type} (h : BytesOnly s t) (f : State → α) : f (withoutBytes t) = f (withoutBytes s) := congrArg f h.rest

theorem BytesOnly.cuts (h : BytesOnly s t) : t.cuts = s.cuts := h.field State.cuts

/-- A run of such changes, each made while no cut is under way. -/
theorem BytesOnly.foldl {α : Type} {f : State → α → State} (hf : ∀ s x, s.cuts = [] → BytesOnly s (f s x)) (l : List α) :
    ∀ s : State, s.cuts = [] → BytesOnly s (l.foldl f s) := by
  induction l with
  | nil => exact fun s _ => .refl s
  | cons x l ih => exact fun s hs => (hf s x hs).trans (ih _ ((hf s x hs).cuts.trans hs))

theorem Cached.bytesOnly (h : Cached s t) : BytesOnly s t := by
  have hrest := h.field withoutBytes
  exact ⟨hrest, h.slots⟩

/-- A state with other bytes. -/
theorem bytesOnly_of_slots (h : withoutBytes t = withoutBytes s) (hregs : t.regs = s.regs) : BytesOnly s t :=
  ⟨h, fun k _ => State.reg_of_regs hregs k⟩

theorem bytesOnly_hbm (s : State) (x : Tbl Byte) (n : Nat) : BytesOnly s { s with hbm := x, free := n } :=
  bytesOnly_of_slots rfl rfl

theorem bytesOnly_storeWrite (s : State) (a : SAddr) (l : List Byte) : BytesOnly s (s.storeWrite a l) := by
  unfold State.storeWrite
  split
  · exact bytesOnly_of_slots rfl rfl
  · split
    · exact bytesOnly_of_slots rfl rfl
    · exact .refl s

/-- What a write to HBM does once its bytes are in place. -/
theorem bytesOnly_granuleMarked (s : State) (p va pa : Nat) (restore : Bool) : BytesOnly s (granuleMarked s p va pa restore) := by
  have hpage : ∀ s : State, BytesOnly s (undefinedPage s pa) := fun s => bytesOnly_hbm s ..
  have hdirty : ∀ (s : State) (k : Nat), BytesOnly s (dirty s k) := fun s k => bytesOnly_of_slots rfl rfl
  unfold granuleMarked
  split
  · split
    · exact .refl s
    · split
      · exact (hdirty ..).trans (hpage _)
      · exact hdirty ..
  · exact .refl s

theorem bytesOnly_hbmPut (h : s.cuts = []) (p va pa : Nat) (l : List Byte) (restore : Bool) :
    BytesOnly s (s.hbmPut p va pa l restore) := by
  rw [hbmPut_eq, copyBefore_none h]
  have htouch := (cached_mscTouch s pa true !restore).bytesOnly
  generalize s.mscTouch pa true (!restore) = v at htouch
  exact (htouch.trans (bytesOnly_of_slots (t := { v with hbm := putBytes v.hbm pa l }) rfl rfl)).trans (bytesOnly_granuleMarked ..)

theorem bytesOnly_vaWrite (h : s.cuts = []) (p va : Nat) (l : List Byte) : BytesOnly s (s.vaWrite p va l).2 := by
  have hput : ∀ (rows : List (Nat × List Byte)) (acc : Bool × State), acc.2.cuts = [] →
      BytesOnly acc.2 (rows.foldl (fun (acc : Bool × State) x => match acc.2.walk p x.1 true with
        | some pa => (acc.1, acc.2.hbmPut p x.1 pa x.2 false)
        | none => (false, acc.2)) acc).2 := by
    intro rows
    induction rows with
    | nil => exact fun acc _ => .refl acc.2
    | cons x rows ih =>
      intro acc hacc
      rw [List.foldl_cons]
      cases acc.2.walk p x.1 true with
      | none => exact ih (false, acc.2) hacc
      | some pa =>
        have hone := bytesOnly_hbmPut hacc p x.1 pa x.2 false
        exact hone.trans (ih (acc.1, acc.2.hbmPut p x.1 pa x.2 false) (hone.cuts.trans hacc))
  have hrows : BytesOnly s (s.vaPut p va l false).2 := hput (cutRows 256 (l.length + 1) va l) (true, s) h
  show BytesOnly s (s.vaPut p va l false).2.settleCuts
  rw [settleCuts_none (hrows.cuts.trans h)]
  exact hrows

theorem bytesOnly_undefineRow (h : s.cuts = []) (p : Nat) (a : Addr) (n : Nat) : BytesOnly s (s.undefineRow p a n) := by
  have hfree : BytesOnly s { s with free := s.free + n } := bytesOnly_of_slots rfl rfl
  cases a with
  | store x =>
    show BytesOnly s (if s.filterOk p x then _ else s)
    split
    · exact hfree.trans (bytesOnly_storeWrite ..)
    · exact .refl s
  | va v => exact hfree.trans (bytesOnly_vaWrite (s := { s with free := s.free + n }) h p v _)

theorem bytesOnly_undefineAll (h : s.cuts = []) (p : Nat) (l : List (Addr × Nat)) : BytesOnly s (s.undefineAll p l) :=
  .foldl (fun s _ hs => .foldl (fun _ _ hu => bytesOnly_undefineRow hu ..) _ s hs) l s h

theorem bytesOnly_undefineAcc (h : s.cuts = []) (d : Desc) : BytesOnly s (s.undefineAcc d) := by
  unfold State.undefineAcc
  split
  · split
    · refine BytesOnly.foldl (fun s i _ => ?_) _ s h
      exact bytesOnly_of_slots rfl rfl
    · exact .refl s
  · exact .refl s

/-- A descriptor that stops leaves bytes undefined, and nothing else changes while no cut is under way. -/
theorem bytesOnly_tear (h : s.cuts = []) (id : Nat) : BytesOnly s (s.tear id) := by
  unfold State.tear
  split
  · exact .refl s
  · next d _ =>
    have hacc := bytesOnly_undefineAcc h d
    exact hacc.trans (bytesOnly_undefineAll (hacc.cuts.trans h) ..)

end Undefining

/-! ### FILL and COPY (R134 to R136, R142, R145) -/

section Rows

variable {s t u v : State} {id op c k n : Nat} {d e : Desc} {a b : SAddr} {l : List Byte} {i : Instr} {f : State → State}

/-- The state in which the engines of a core that met nothing begin a descriptor's work. -/
def unmet (s : State) : State := { s with errs := [], slotWait := false }

theorem onCore_unmet (h : onCore s id op d c) : onCore (unmet s) id op d c := h

theorem unmet_leaves (s : State) : (unmet s).regs = s.regs ∧ (unmet s).posted = s.posted ∧ memoryKept s (unmet s) ∧
    areasKept s (unmet s) := ⟨rfl, rfl, (Quiet.refl s).memoryKept, fun _ _ => rfl⟩

theorem atWork_eq (s : State) (id : Nat) : atWork s id = unmet s := by
  show { (calm s).spend id 0 with slotWait := false } = unmet s
  rw [spend_zero]
  rfl

theorem unmet_sound (h : onCore s id op d c) (htorn : d.torn = false) : Sound (unmet s) id d d :=
  sound_of_onCore (onCore_unmet h) rfl htorn

/-- A command that runs a descriptor in one go and meets nothing. -/
theorem runOn_unmet {ops : List Nat} {F : State → Desc → Nat → State} (h : onCore s id op d c) (hop : ops.contains op = true)
    (hf : F (unmet s) d c = u) (hu : Sound u id d e) : (s.runOn id ops {} F).tearTorn id = calm u := by
  have hfw : F (atWork s d.id) d c = u := by rw [atWork_eq, hf]
  have hstop : (calm u).slotStopped d.core.1 d.core.2 = false := hu.stop
  rw [runOn_onCore h hop, work_nothing s d _ (by rw [hfw]; exact hu.wait), hfw, if_neg (by rw [hstop]; decide)]
  exact tearTorn_sound (e := e) hu.desc hu.torn

theorem length_fillBytes (pattern pwidth n : Nat) : (fillBytes pattern pwidth n).length = n := by
  rw [fillBytes, List.length_map, length_countFrom]

/-- A FILL within one row posts its pattern (R134). -/
theorem fill_row (h : onCore s id 0x13 d c) (htorn : d.torn = false) (ha : decodeSAddr (d.at 16 4) = some a) (hsome : 0 < d.at 20 4)
    (hfit : a.off % a.row + d.at 20 4 ≤ a.row) (hok : s.filterOk d.part a = true) :
    ∃ t e, exec (.fill id {}) s = .next t ∧
      t.posted = s.posted ++ [⟨id, d.part, .store a.fs a.frond a.slot a.off,
        (countFrom 0 (d.at 20 4)).map fun i => BitVec.ofNat 8 (d.at 24 4 >>> (8 * (i % 2 ^ d.at 28 1))), s.frameNo⟩] ∧
      t.desc? id = some e ∧ e.ended = true ∧ e.status = stOk ∧ slotsKept s t [] ∧ memoryKept s t ∧ areasKept s t := by
  have hlive := h.2.1
  obtain ⟨l, hl⟩ : ∃ l, fillBytes (d.at 24 4) (d.at 28 1) (d.at 20 4) = l := ⟨_, rfl⟩
  have hlen : l.length = d.at 20 4 := by rw [← hl, length_fillBytes]
  obtain ⟨hregs0, hposted0, hmem0, hareas0⟩ := unmet_leaves s
  have hsound := unmet_sound h htorn
  have hunmet : (unmet s).filterOk d.part a = true := hok
  have hframe : (unmet s).frameNo = s.frameNo := rfl
  obtain ⟨w, hw⟩ : ∃ w, unmet s = w := ⟨_, rfl⟩
  rw [hw] at hregs0 hposted0 hmem0 hareas0 hsound hunmet hframe
  obtain ⟨hposted, hregs, hmem, hareas⟩ := postRow_leaves w d a l
  obtain rfl := id_of_desc? h.1
  have hrow : Sound (postRow w d a l) d.id d d := hsound.congr rfl rfl rfl
  have hrun : ∃ cc, (unmet s).runFill d c = ranOnce (postRow w d a l) d.id cc := by
    rw [hw]
    unfold State.runFill
    rw [ha]
    dsimp only
    rw [hl, issue_row (List.length_pos_iff.1 (hlen ▸ hsome)) (by rw [hlen]; exact hfit) hunmet]
    exact ⟨_, rfl⟩
  obtain ⟨cc, hrun⟩ := hrun
  obtain ⟨x, hx⟩ : ∃ x, postRow w d a l = x := ⟨_, rfl⟩
  rw [hx] at hposted hregs hmem hareas hrow hrun
  obtain ⟨hposted', hregs', -, hmem', hareas'⟩ := ranOnce_leaves x d.id cc
  have hend := hrow.ranOnce hlive cc
  refine ⟨_, _, congrArg Host.Outcome.next (runOn_unmet h (by decide) hrun hend), ?_, hend.desc, rfl, rfl,
    fun k _ => State.reg_of_regs (hregs'.trans (hregs.trans hregs0)) k, hmem0.trans (hmem.trans hmem'),
    fun who sub => (hareas' who sub).trans ((hareas who sub).trans (hareas0 who sub))⟩
  rw [hposted', hposted, hposted0, hframe, ← hl]
  rfl

theorem length_storeRead (s : State) (a : SAddr) (n : Nat) : (s.storeRead a n).length = n := by
  unfold State.storeRead
  split
  · exact length_getBytes ..
  · split
    · exact length_getBytes ..
    · exact List.length_replicate

theorem row_pos (a : SAddr) : 0 < a.row := by
  unfold SAddr.row
  split <;> decide

theorem cutRows_row (hoff : a.off % a.row = 0) (hlen : l.length = a.row) : cutRows a.row (a.row + 1) a.off l = [(a.off, l)] := by
  obtain ⟨n, hn⟩ := Nat.exists_eq_succ_of_ne_zero (row_pos a).ne'
  rw [show a.row + 1 = n + 2 by omega]
  exact cutRows_within (List.length_pos_iff.1 (hlen ▸ row_pos a)) (by omega) n

/-- The bytes of a whole row of a store, read at once. -/
theorem fetch_row (hoff : a.off % a.row = 0) : s.fetch d (.store a) a.row = (match s.fetchRow d (.store a) a.row with
    | (some b, s) => (some ([] ++ b), s)
    | (none, s) => (none, s)) := by
  unfold State.fetch
  rw [show (Addr.store a).row = a.row from rfl, show (Addr.store a).pos = a.off from rfl,
    cutRows_row hoff (List.length_replicate (a := (0 : Byte)))]
  simp only [List.foldl_cons, List.foldl_nil, List.length_replicate]
  rfl

/-- A row with no wrong bit reads its bytes, where the descriptor has posted none (R145). -/
theorem fetch_clean (hoff : a.off % a.row = 0) (hposted : s.posted = []) (hok : s.filterOk d.part a = true)
    (hecc : s.eccRow a a.row = (0, 0)) (hstop : a.fs = true ∨ s.slotStopped a.frond a.slot = false) :
    s.fetch d (.store a) a.row = (some (s.storeRead a a.row), s) := by
  have hgo : (!a.fs && s.slotStopped a.frond a.slot) = false := by
    obtain hfs | hrun := hstop
    · rw [hfs]; rfl
    · rw [hrun, Bool.and_false]
  have hcount : s.eccCount a 0 0 = s := by
    unfold State.eccCount
    split
    · rfl
    · split <;> rfl
  have hread : s.eccRead d.id a a.row = (true, s) := by
    unfold State.eccRead
    rw [hecc]
    dsimp only
    rw [if_pos rfl, hcount]
  have hover : ∀ pl l, s.overlay d.id pl l = l := fun pl l => by
    unfold State.overlay
    rw [hposted]
    rfl
  have hrow : s.fetchRow d (.store a) a.row = (some (s.storeRead a a.row), s) := by
    unfold State.fetchRow
    dsimp only
    rw [if_neg (by rw [hgo]; decide), if_pos hok, hread]
    dsimp only
    rw [hover]
  rw [fetch_row hoff, hrow]
  rfl

theorem copyRows_one (src dst : SAddr) : State.copyRows d src dst [0] s = (match s.fetch d (.store src) src.row with
    | (none, s) => s
    | (some l, s) => match s.issue d (.store dst) l with
      | (true, s) => s
      | (false, s) => s) := by
  rw [State.copyRows, Nat.zero_mul, Nat.zero_mul, plus_zero, plus_zero]
  rfl

/-- A descriptor that has ended keeps its status. -/
theorem Sound.endDesc_ended (h : Sound u id d e) (hended : e.ended = true) (status : Nat) : Sound (u.endDesc id status) id d e := by
  have hend := h.modDesc (g := fun e => if e.ended then e else endedWith u e status) (by rw [hended]; rfl) (by rw [hended]; exact h.torn)
  rw [hended] at hend
  exact hend

/-- The cycles of a COPY of `n` rows (R136). -/
def copyCost (a b : SAddr) (n : Nat) : Nat :=
  8 + (if (countFrom 0 n).any fun i => (a.off + i * a.row) / a.bank == (b.off + i * b.row) / b.bank then 2 * n else n)

theorem runCopy_one (ha : decodeSAddr (d.at 16 4) = some a) (hb : decodeSAddr (d.at 20 4) = some b) (hrows : d.at 24 2 = 1) :
    s.runCopy d c = ranOnce (State.copyRows d a b [0] s) d.id (copyCost a b 1) := by
  unfold State.runCopy
  rw [ha, hb]
  dsimp only
  rw [hrows, show countFrom 0 1 = [0] from rfl, show [0].reverse = [0] from rfl, ite_self]
  rfl

/-- A COPY of one row posts the bytes of the row (R136). -/
theorem copy_row (h : onCore s id 0x14 d c) (htorn : d.torn = false) (hnone : s.posted = []) (ha : decodeSAddr (d.at 16 4) = some a)
    (hb : decodeSAddr (d.at 20 4) = some b) (hrows : d.at 24 2 = 1) (hkind : a.fs = b.fs) (hoffa : a.off % a.row = 0)
    (hoffb : b.off % b.row = 0) (hoka : s.filterOk d.part a = true) (hokb : s.filterOk d.part b = true)
    (hecc : s.eccRow a a.row = (0, 0)) (hstop : a.fs = true ∨ s.slotStopped a.frond a.slot = false) :
    ∃ t e, exec (.copy id {}) s = .next t ∧
      t.posted = [⟨id, d.part, .store b.fs b.frond b.slot b.off, s.storeRead a a.row, s.frameNo⟩] ∧ t.desc? id = some e ∧
      e.ended = true ∧ e.status = stOk ∧ slotsKept s t [] ∧ memoryKept s t ∧ areasKept s t := by
  have hlive := h.2.1
  obtain ⟨l, hl⟩ : ∃ l, s.storeRead a a.row = l := ⟨_, rfl⟩
  have hlen : l.length = b.row := by rw [← hl, length_storeRead, SAddr.row, SAddr.row, hkind]
  obtain ⟨hregs0, hposted0, hmem0, hareas0⟩ := unmet_leaves s
  have hsound := unmet_sound h htorn
  have hread : (unmet s).fetch d (.store a) a.row = (some l, unmet s) :=
    (fetch_clean (s := unmet s) hoffa hnone hoka hecc hstop).trans (congrArg (fun x => (some x, unmet s)) hl)
  have hunmet : (unmet s).filterOk d.part b = true := hokb
  have hframe : (unmet s).frameNo = s.frameNo := rfl
  have hcopy := runCopy_one (s := unmet s) (c := c) ha hb hrows
  rw [copyRows_one, hread] at hcopy
  obtain ⟨w, hw⟩ : ∃ w, unmet s = w := ⟨_, rfl⟩
  rw [hw] at hregs0 hposted0 hmem0 hareas0 hsound hunmet hframe hcopy
  obtain ⟨hposted, hregs, hmem, hareas⟩ := postRow_leaves w d b l
  obtain rfl := id_of_desc? h.1
  have hrow : Sound (postRow w d b l) d.id d d := hsound.congr rfl rfl rfl
  dsimp only at hcopy
  rw [issue_row (List.length_pos_iff.1 (hlen ▸ row_pos b)) (by omega) hunmet] at hcopy
  obtain ⟨x, hx⟩ : ∃ x, postRow w d b l = x := ⟨_, rfl⟩
  rw [hx] at hposted hregs hmem hareas hrow hcopy
  obtain ⟨hposted', hregs', -, hmem', hareas'⟩ := ranOnce_leaves x d.id (copyCost a b 1)
  have hend := hrow.ranOnce hlive (copyCost a b 1)
  refine ⟨_, _, congrArg Host.Outcome.next (runOn_unmet h (by decide) (by rw [hw]; exact hcopy) hend), ?_, hend.desc, rfl, rfl,
    fun k _ => State.reg_of_regs (hregs'.trans (hregs.trans hregs0)) k, hmem0.trans (hmem.trans hmem'),
    fun who sub => (hareas' who sub).trans ((hareas who sub).trans (hareas0 who sub))⟩
  rw [hposted', hposted, hposted0, hframe, hnone, List.nil_append, hl]

/-- What an uncorrectable error of a Frond Store leaves (R145). -/
def frondEcc (s : State) (id : Nat) (a : SAddr) (k n : Nat) : State :=
  ((s.endDesc id stEcc).add (kFsEccCorrected a.frond) k).add (kFsEccUncorrected a.frond) n

theorem told_add (s : State) (k n : Nat) : Told [k] s (s.add k n) := by
  unfold State.add
  split
  · exact .refl ..
  · exact told_bump ..

theorem nat_add_same (s : State) (k : Nat) {n : Nat} (hn : 0 < n) : (s.add k n).nat k = satAdd 32 (s.nat k) n := by
  rw [State.add, if_neg hn.ne']
  exact nat_bump_same _ _ _ (by decide)

theorem inflight_add (s : State) (k n : Nat) : (s.add k n).inflight = s.inflight ∧ (s.add k n).slotWait = s.slotWait ∧
    (s.add k n).recov = s.recov := by
  unfold State.add
  split
  · exact ⟨rfl, rfl, rfl⟩
  · exact ⟨rfl, rfl, rfl⟩

theorem fetch_bad (hoff : a.off % a.row = 0) (hfs : a.fs = true) (hok : s.filterOk d.part a = true) (hecc : s.eccRow a a.row = (k, n))
    (hn : 0 < n) : s.fetch d (.store a) a.row = (none, frondEcc s d.id a k n) := by
  have hread : s.eccRead d.id a a.row = (false, frondEcc s d.id a k n) := by
    unfold State.eccRead
    rw [hecc]
    dsimp only
    rw [if_neg hn.ne', State.eccCount, if_pos hfs]
    rfl
  have hrow : s.fetchRow d (.store a) a.row = (none, frondEcc s d.id a k n) := by
    unfold State.fetchRow
    dsimp only
    rw [if_neg (by rw [hfs, Bool.not_true, Bool.false_and]; decide), if_pos hok, hread]
  rw [fetch_row hoff, hrow]

/-- What such an error leaves of the counters and of the descriptor. -/
theorem frondEcc_leaves (h : Sound s id d e) (hlive : e.ended = false) (hn : 0 < n) :
    Sound (frondEcc s id a k n) id d (endedWith s e stEcc) ∧
    (frondEcc s id a k n).nat (kFsEccUncorrected a.frond) = satAdd 32 (s.nat (kFsEccUncorrected a.frond)) n ∧
    slotsKept s (frondEcc s id a k n) [kFsEccCorrected a.frond, kFsEccUncorrected a.frond] ∧
    memoryKept s (frondEcc s id a k n) ∧ (frondEcc s id a k n).posted = s.posted := by
  have hend := h.endDesc hlive stEcc
  have hmem0 : memoryKept s (s.endDesc id stEcc) := (Quiet.refl s).memoryKept
  have hposted0 : (s.endDesc id stEcc).posted = s.posted := rfl
  have hreg0 : ∀ j, (s.endDesc id stEcc).reg j = s.reg j := fun _ => rfl
  unfold frondEcc
  obtain ⟨u, hu⟩ : ∃ u, s.endDesc id stEcc = u := ⟨_, rfl⟩
  rw [hu] at hend hmem0 hposted0 hreg0 ⊢
  have h1 := told_add u (kFsEccCorrected a.frond) k
  obtain ⟨hin1, hwait1, hrecov1⟩ := inflight_add u (kFsEccCorrected a.frond) k
  obtain ⟨v, hv⟩ : ∃ v, u.add (kFsEccCorrected a.frond) k = v := ⟨_, rfl⟩
  rw [hv] at h1 hin1 hwait1 hrecov1 ⊢
  have h2 := told_add v (kFsEccUncorrected a.frond) n
  obtain ⟨hin2, hwait2, hrecov2⟩ := inflight_add v (kFsEccUncorrected a.frond) n
  refine ⟨hend.congr (hwait2.trans hwait1) (hrecov2.trans hrecov1) (hin2.trans hin1), ?_, fun j hj => ?_,
    hmem0.trans (h1.quiet.memoryKept.trans h2.quiet.memoryKept), h2.posted.trans (h1.posted.trans hposted0)⟩
  · rw [nat_add_same _ _ hn, h1.nat (by simp [kFsEccCorrected, kFsEccUncorrected]), nat_of_reg (hreg0 _)]
  · simp only [List.mem_cons, List.not_mem_nil, or_false, not_or] at hj
    exact (h2.slots j (by simpa using hj.2)).trans ((h1.slots j (by simpa using hj.1)).trans (hreg0 j))

/-- A COPY whose row does not read ends with ECC_UNCORRECTED (R142). -/
theorem copy_bad (h : onCore s id 0x14 d c) (htorn : d.torn = false) (hnone : s.posted = []) (ha : decodeSAddr (d.at 16 4) = some a)
    (hb : decodeSAddr (d.at 20 4) = some b) (hrows : d.at 24 2 = 1) (hfs : a.fs = true) (hoff : a.off % a.row = 0)
    (hok : s.filterOk d.part a = true) (hecc : s.eccRow a a.row = (k, n)) (hn : 0 < n) :
    ∃ t e, exec (.copy id {}) s = .next t ∧ t.posted = [] ∧ t.desc? id = some e ∧ e.ended = true ∧ e.status = stEcc ∧
      t.nat (kFsEccUncorrected a.frond) = satAdd 32 (s.nat (kFsEccUncorrected a.frond)) n ∧
      slotsKept s t [kFsEccCorrected a.frond, kFsEccUncorrected a.frond] ∧ memoryKept s t := by
  have hlive := h.2.1
  obtain ⟨hregs0, hposted0, hmem0, -⟩ := unmet_leaves s
  have hcopy := runCopy_one (s := unmet s) (c := c) ha hb hrows
  rw [copyRows_one, fetch_bad (s := unmet s) hoff hfs hok hecc hn] at hcopy
  have hsound := unmet_sound h htorn
  obtain ⟨w, hw⟩ : ∃ w, unmet s = w := ⟨_, rfl⟩
  rw [hw] at hregs0 hposted0 hmem0 hsound hcopy
  obtain rfl := id_of_desc? h.1
  obtain ⟨hbad, hcount, hslots, hmem, hposted⟩ := frondEcc_leaves (a := a) (k := k) hsound hlive hn
  obtain ⟨x, hx⟩ : ∃ x, frondEcc w d.id a k n = x := ⟨_, rfl⟩
  rw [hx] at hbad hcount hslots hmem hposted hcopy
  obtain ⟨hposted', hregs', -, hmem', -⟩ := ranOnce_leaves x d.id (copyCost a b 1)
  have hspent := hbad.modDesc (g := fun e => { e with cycles := e.cycles + copyCost a b 1 }) rfl hbad.torn
  have hend : Sound (ranOnce x d.id (copyCost a b 1)) d.id d _ := hspent.endDesc_ended rfl stOk
  have hreg0 : ∀ j, w.reg j = s.reg j := State.reg_of_regs hregs0
  have hreg' : ∀ j, (calm (ranOnce x d.id (copyCost a b 1))).reg j = x.reg j := State.reg_of_regs hregs'
  refine ⟨_, _, congrArg Host.Outcome.next (runOn_unmet h (by decide) (by rw [hw]; exact hcopy) hend), ?_, hend.desc, rfl, rfl, ?_,
    fun j hj => (hreg' j).trans ((hslots j hj).trans (hreg0 j)), hmem0.trans (hmem.trans hmem')⟩
  · rw [hposted', hposted, hposted0, hnone]
  · rw [nat_of_reg (hreg' _), hcount, nat_of_reg (hreg0 _)]

/-- A descriptor that met an error of a translation table, before what it has not written becomes undefined. -/
def tableFailed (s : State) (id : Nat) : State := calm (((calm s).tornDesc id).endDesc id stEcc)

theorem work_tableBad (h : onCore s id op d c) (f : State → State) : s.work d { tableBad := true } f = tableFailed s id := by
  have hobs : s.observe { tableBad := true } = calm s := rfl
  unfold State.work
  dsimp only
  rw [hobs, show obsLost { tableBad := true } = 0 from rfl, spend_zero, if_pos rfl, id_of_desc? h.1]
  rfl

theorem tableFailed_leaves (h : onCore s id op d c) : (∃ e, (tableFailed s id).desc? id = some e ∧ e.ended = true ∧ e.status = stEcc ∧
    e.torn = true) ∧ (tableFailed s id).posted = s.posted ∧ (tableFailed s id).cuts = s.cuts := by
  have htorn := desc?_modDesc (s := calm s) (f := fun d => if d.ended then d else { d with torn := true }) h.1 (by rw [h.2.1]; rfl)
  rw [if_neg (by rw [h.2.1]; decide)] at htorn
  have hend := desc?_modDesc (s := (calm s).tornDesc id)
    (f := fun e => if e.ended then e else endedWith ((calm s).tornDesc id) e stEcc) htorn
    (by rw [if_neg (by rw [h.2.1]; decide)]; rfl)
  rw [if_neg (by rw [h.2.1]; decide)] at hend
  exact ⟨⟨_, hend, rfl, rfl, rfl⟩, rfl, rfl⟩

/-- A descriptor that met such an error ends with ECC_UNCORRECTED and posts nothing (R836). -/
theorem tableBad_ends (h : onCore s id op d c) (hcuts : s.cuts = []) (hexec : exec i s =
    .next ((s.work d { tableBad := true } f).tearTorn id)) :
    ∃ t e, exec i s = .next t ∧ t.posted = s.posted ∧ t.desc? id = some e ∧ e.ended = true ∧ e.status = stEcc := by
  obtain ⟨⟨e, he, hended, hstatus, htorn⟩, hposted, hcuts'⟩ := tableFailed_leaves h
  rw [work_tableBad h] at hexec
  obtain ⟨u, hu⟩ : ∃ u, tableFailed s id = u := ⟨_, rfl⟩
  rw [hu] at he hposted hcuts' hexec
  have htear : u.tearTorn id = (u.tear id).modDesc id fun d => { d with torn := false } := by
    unfold State.tearTorn
    rw [he]
    exact if_pos htorn
  have hbytes := bytesOnly_tear (hcuts'.trans hcuts) id
  have hdesc : (u.tear id).desc? id = some e := by
    have hin : (u.tear id).inflight = u.inflight := hbytes.field State.inflight
    rw [State.desc?, hin]
    exact he
  have hkept : (u.tear id).posted = u.posted := hbytes.field State.posted
  rw [htear] at hexec
  exact ⟨_, _, hexec, hkept.trans hposted, desc?_modDesc (f := fun d => { d with torn := false }) hdesc rfl, hended, hstatus⟩

end Rows

/-- Settles O56: a row of a FILL or a COPY is posted, a row that does not read ends its descriptor, and so does a table error. -/
theorem fillAndCopy : Obligations.FillAndCopy := by
  unfold Obligations.FillAndCopy
  refine ⟨?_, ?_, ?_, ?_⟩
  · exact fun s id d c a h htorn ha hsome hfit hok => fill_row h htorn ha hsome hfit hok
  · exact fun s id d c a b h htorn hnone ha hb hrows hkind hoffa hoffb hoka hokb hecc hstop =>
      copy_row h htorn hnone ha hb hrows hkind hoffa hoffb hoka hokb hecc hstop
  · exact fun s id d c k n a b h htorn hnone ha hb hrows hfs _ hoff hok hecc hn =>
      copy_bad h htorn hnone ha hb hrows hfs hoff hok hecc hn
  · intro s id op d c i h _ hcuts hop
    simp only [List.mem_cons, Prod.mk.injEq, List.not_mem_nil, or_false] at hop
    obtain ⟨rfl, rfl⟩ | ⟨rfl, rfl⟩ | ⟨rfl, rfl⟩ := hop
    · exact tableBad_ends h hcuts (congrArg Host.Outcome.next (congrArg (State.tearTorn · id) (runOn_onCore h (by decide) _)))
    · exact tableBad_ends h hcuts (congrArg Host.Outcome.next (congrArg (State.tearTorn · id) (runOn_onCore h (by decide) _)))
    · exact tableBad_ends h hcuts (congrArg Host.Outcome.next (congrArg (State.tearTorn · id) (runOn_onCore h (by decide) _)))

end Sys2Proof.Safety

namespace Sys2Proof.Safety

open Sys2Proof.Machine

/-! ### Posted writes land (R120, R147, R575) -/

section Landing

variable {s t u : State} {i lost p va pa f sl o c n : Nat} {w : PostedWrite} {a : SAddr} {l : List Byte}

/-- The state in which a posted write has left the queue. -/
def unposted (s : State) (i : Nat) : State := { s with posted := s.posted.eraseIdx i }

theorem exec_writeLands (hw : s.posted[i]? = some w)
    (hfree : ((s.posted.take i).any fun v => v.desc == w.desc && v.overlaps w) = false) (hgo : s.placeWaits w.place = false) :
    exec (.writeLands ⟨i, lost⟩) s = .next (((unposted s i).stalls ((s.landPort w.place).map fun x => (x, lost))).land w) := by
  refine congrArg Host.Outcome.next ?_
  show s.landAt i lost = _
  unfold State.landAt
  rw [hw]
  exact if_neg (by rw [hfree, hgo]; decide)

theorem writeLands_waits (hw : s.posted[i]? = some w)
    (hwait : ((s.posted.take i).any fun v => v.desc == w.desc && v.overlaps w) = true ∨ s.placeWaits w.place = true) :
    exec (.writeLands ⟨i, lost⟩) s = .next s := by
  refine congrArg Host.Outcome.next ?_
  show s.landAt i lost = _
  unfold State.landAt
  rw [hw]
  refine if_pos ?_
  rw [Bool.or_eq_true]
  exact hwait

/-- The bytes that a list of bytes replaces, and the others. -/
theorem bytes_placed (m : Tbl Byte) (b : Nat) (l : List Byte) :
    (∀ j, j < l.length → Tbl.get 0 (putBytes m b l) (b + j) = l.getD j 0) ∧
    (∀ a, a < b ∨ b + l.length ≤ a → Tbl.get 0 (putBytes m b l) a = Tbl.get 0 m a) :=
  ⟨fun j hj => (getByte_putBytes_inside l m b j hj).trans (List.getD_eq_getElem l 0 hj).symm, fun a ha => getByte_putBytes_outside l m b a ha⟩

/-- The state in which the cycles that a landing write lost are counted at its store (R120). -/
def stalled (s : State) (i k lost : Nat) : State := (unposted s i).add k lost

theorem stalled_leaves (s : State) (i k lost : Nat) : (stalled s i k lost).posted = s.posted.eraseIdx i ∧
    slotsKept s (stalled s i k lost) [k] ∧ (0 < lost → (stalled s i k lost).nat k = satAdd 32 (s.nat k) lost) ∧
    (stalled s i k lost).ls = s.ls ∧ (stalled s i k lost).fs = s.fs ∧ (stalled s i k lost).hbm = s.hbm ∧
    (stalled s i k lost).acc = s.acc ∧ (stalled s i k lost).octs = s.octs ∧ (stalled s i k lost).coreMap = s.coreMap ∧
    (stalled s i k lost).inflight = s.inflight := by
  have htold := told_add (unposted s i) k lost
  have hfields : ((unposted s i).add k lost).coreMap = s.coreMap ∧ ((unposted s i).add k lost).inflight = s.inflight := by
    unfold State.add
    split <;> exact ⟨rfl, rfl⟩
  exact ⟨htold.posted, htold.slots, fun hpos => nat_add_same _ _ hpos, htold.ls, htold.fs, htold.hbm, htold.acc, htold.octs,
    hfields.1, hfields.2⟩

theorem filterOk_stalled {k : Nat} (hk : ∀ f, kCoreOwner f ≠ k) : (stalled s i k lost).filterOk p a = s.filterOk p a := by
  obtain ⟨-, hslots, -, -, -, -, -, hocts, hmap, -⟩ := stalled_leaves s i k lost
  exact filterOk_congr (fun f => hslots _ (by simpa using hk f)) hocts hmap p a

/-- Where a write to a Local Store lands (R575). -/
theorem exec_lands_ls (hw : s.posted[i]? = some w) (hplace : w.place = .store false f sl o)
    (hfree : ((s.posted.take i).any fun v => v.desc == w.desc && v.overlaps w) = false) (hrun : s.slotStopped f sl = false)
    (hcore : s.coreAt f sl = some c) (hok : s.filterOk w.part ⟨false, f, sl, o⟩ = true) :
    exec (.writeLands ⟨i, lost⟩) s = .next ((stalled s i (kLsStallsSm c) lost).foreWrite ⟨false, f, sl, o⟩ w.bytes) := by
  have hgo : s.placeWaits w.place = false := by rw [hplace]; exact hrun
  have hport : s.landPort w.place = [.lsSm c] := by
    rw [hplace]
    show ((s.coreAt f sl).map StorePort.lsSm).toList = _
    rw [hcore]
    rfl
  refine (exec_writeLands hw hfree hgo).trans (congrArg Host.Outcome.next ?_)
  rw [hport]
  show (stalled s i (kLsStallsSm c) lost).land w = _
  unfold State.land
  rw [hplace]
  refine if_pos ((filterOk_stalled fun g => ?_).trans hok)
  unfold kCoreOwner kLsStallsSm
  omega

theorem bit_stalled {k j b : Nat} (hne : j ≠ k) : (stalled s i k lost).bit j b = s.bit j b := by
  rw [State.bit, nat_of_reg ((stalled_leaves s i k lost).2.1 j (by simpa using hne)), State.bit]

/-- A write to a sector that is not SPEC lands whole (R575). -/
theorem lands_ls (hw : s.posted[i]? = some w) (hplace : w.place = .store false f sl o)
    (hfree : ((s.posted.take i).any fun v => v.desc == w.desc && v.overlaps w) = false) (hrun : s.slotStopped f sl = false)
    (hcore : s.coreAt f sl = some c) (hok : s.filterOk w.part ⟨false, f, sl, o⟩ = true)
    (hspec : s.bit (kLsSpecMap c) (o / 16384) = false) :
    ∃ t, exec (.writeLands ⟨i, lost⟩) s = .next t ∧ t.posted = s.posted.eraseIdx i ∧
      (∀ j, j < w.bytes.length → Tbl.get 0 t.ls (c * 2 ^ 20 + o + j) = w.bytes.getD j 0) ∧
      (∀ a, a < c * 2 ^ 20 + o ∨ c * 2 ^ 20 + o + w.bytes.length ≤ a → Tbl.get 0 t.ls a = Tbl.get 0 s.ls a) ∧
      t.fs = s.fs ∧ t.hbm = s.hbm ∧ t.acc = s.acc ∧ t.octs = s.octs ∧ slotsKept s t [kLsStallsSm c] ∧
      (0 < lost → t.nat (kLsStallsSm c) = satAdd 32 (s.nat (kLsStallsSm c)) lost) ∧ t.inflight = s.inflight := by
  have hexec := exec_lands_ls (lost := lost) hw hplace hfree hrun hcore hok
  have hbit : (stalled s i (kLsStallsSm c) lost).bit (kLsSpecMap c) (o / 16384) = false :=
    (bit_stalled (by unfold kLsSpecMap kLsStallsSm; omega)).trans hspec
  obtain ⟨hposted, hslots, hcount, hls, hfs, hhbm, hacc, hocts, hmap, hin⟩ := stalled_leaves s i (kLsStallsSm c) lost
  obtain ⟨u, hu⟩ : ∃ u, stalled s i (kLsStallsSm c) lost = u := ⟨_, rfl⟩
  rw [hu] at hexec hbit hposted hslots hcount hls hfs hhbm hacc hocts hmap hin
  have hat : u.coreAt f sl = some c := (coreAt_congr hmap f sl).trans hcore
  have hput : u.foreWrite ⟨false, f, sl, o⟩ w.bytes = u.lsPut c o w.bytes := by
    unfold State.foreWrite
    dsimp only
    rw [if_neg (by decide), hat]
    dsimp only
    rw [if_neg (by rw [hbit]; decide)]
    unfold State.storeWrite
    dsimp only
    rw [if_neg (by decide), hat]
  rw [hput] at hexec
  obtain ⟨hin', hout'⟩ := bytes_placed u.ls (c * 2 ^ 20 + o) w.bytes
  exact ⟨_, hexec, hposted, hin', fun a ha => (hout' a ha).trans (by rw [hls]), hfs, hhbm, hacc, hocts, hslots, hcount, hin⟩

theorem getD_freeBytes (k : Nat) {n j : Nat} (hj : j < n) : ∃ b, (freeBytes k n).getD j 0 = Config.freeByte b := by
  have hlt : j < (freeBytes k n).length := by rw [length_freeBytes]; exact hj
  obtain ⟨b, -, hb⟩ := List.mem_map.1 (List.getElem_mem hlt)
  exact ⟨b, (List.getD_eq_getElem _ 0 hlt).trans hb.symm⟩

/-- A foreground write to a SPEC sector leaves the sector undefined (R147). -/
theorem lands_spec (hw : s.posted[i]? = some w) (hplace : w.place = .store false f sl o)
    (hfree : ((s.posted.take i).any fun v => v.desc == w.desc && v.overlaps w) = false) (hrun : s.slotStopped f sl = false)
    (hcore : s.coreAt f sl = some c) (hok : s.filterOk w.part ⟨false, f, sl, o⟩ = true)
    (hspec : s.bit (kLsSpecMap c) (o / 16384) = true) :
    ∃ t, exec (.writeLands ⟨i, lost⟩) s = .next t ∧ t.posted = s.posted.eraseIdx i ∧
      (∀ j, j < 16384 → ∃ k, Tbl.get 0 t.ls (c * 2 ^ 20 + o / 16384 * 16384 + j) = Config.freeByte k) ∧
      (∀ a, a < c * 2 ^ 20 + o / 16384 * 16384 ∨ c * 2 ^ 20 + o / 16384 * 16384 + 16384 ≤ a →
        Tbl.get 0 t.ls a = Tbl.get 0 s.ls a) ∧
      t.fs = s.fs ∧ t.hbm = s.hbm ∧ t.acc = s.acc ∧ t.octs = s.octs ∧ t.inflight = s.inflight := by
  have hexec := exec_lands_ls (lost := lost) hw hplace hfree hrun hcore hok
  have hbit : (stalled s i (kLsStallsSm c) lost).bit (kLsSpecMap c) (o / 16384) = true :=
    (bit_stalled (by unfold kLsSpecMap kLsStallsSm; omega)).trans hspec
  obtain ⟨hposted, -, -, hls, hfs, hhbm, hacc, hocts, hmap, hin⟩ := stalled_leaves s i (kLsStallsSm c) lost
  obtain ⟨u, hu⟩ : ∃ u, stalled s i (kLsStallsSm c) lost = u := ⟨_, rfl⟩
  rw [hu] at hexec hbit hposted hls hfs hhbm hacc hocts hmap hin
  have hat : u.coreAt f sl = some c := (coreAt_congr hmap f sl).trans hcore
  obtain ⟨x, hx⟩ : ∃ x, freeBytes u.free 16384 = x := ⟨_, rfl⟩
  have hlen : x.length = 16384 := by rw [← hx, length_freeBytes]
  have hfreeByte : ∀ j, j < 16384 → ∃ k, x.getD j 0 = Config.freeByte k := fun j hj => hx ▸ getD_freeBytes u.free hj
  have hput : u.foreWrite ⟨false, f, sl, o⟩ w.bytes = ({ u with free := u.free + 16384 } : State).lsPut c (o / 16384 * 16384) x := by
    unfold State.foreWrite
    dsimp only
    rw [if_neg (by decide), hat]
    dsimp only
    rw [if_pos hbit, hx]
  rw [hput] at hexec
  obtain ⟨hin', hout'⟩ := bytes_placed u.ls (c * 2 ^ 20 + o / 16384 * 16384) x
  rw [hlen] at hin' hout'
  exact ⟨_, hexec, hposted, fun j hj => (hfreeByte j hj).imp fun _ hk => (hin' j hj).trans hk, fun a ha => (hout' a ha).trans (by rw [hls]), hfs, hhbm,
    hacc, hocts, hin⟩

/-- A write to a Frond Store lands whole (R575). -/
theorem lands_fs (hw : s.posted[i]? = some w) (hplace : w.place = .store true f sl o)
    (hfree : ((s.posted.take i).any fun v => v.desc == w.desc && v.overlaps w) = false)
    (hok : s.filterOk w.part ⟨true, f, sl, o⟩ = true) :
    ∃ t, exec (.writeLands ⟨i, lost⟩) s = .next t ∧ t.posted = s.posted.eraseIdx i ∧
      (∀ j, j < w.bytes.length → Tbl.get 0 t.fs (f * 2 ^ 22 + o + j) = w.bytes.getD j 0) ∧
      (∀ a, a < f * 2 ^ 22 + o ∨ f * 2 ^ 22 + o + w.bytes.length ≤ a → Tbl.get 0 t.fs a = Tbl.get 0 s.fs a) ∧
      t.ls = s.ls ∧ t.hbm = s.hbm ∧ t.acc = s.acc ∧ t.octs = s.octs ∧ slotsKept s t [kFsStalls f] ∧
      (0 < lost → t.nat (kFsStalls f) = satAdd 32 (s.nat (kFsStalls f)) lost) ∧ t.inflight = s.inflight := by
  have hgo : s.placeWaits w.place = false := by rw [hplace]; rfl
  have hport : s.landPort w.place = [.fs f] := by rw [hplace]; rfl
  have hexec := exec_writeLands (lost := lost) hw hfree hgo
  rw [hport] at hexec
  have hok' : (stalled s i (kFsStalls f) lost).filterOk w.part ⟨true, f, sl, o⟩ = true :=
    (filterOk_stalled fun g => by unfold kCoreOwner kFsStalls; omega).trans hok
  have hland : (stalled s i (kFsStalls f) lost).land w = (stalled s i (kFsStalls f) lost).fsPut f o w.bytes := by
    unfold State.land
    rw [hplace]
    exact if_pos hok'
  obtain ⟨hposted, hslots, hcount, hls, hfs, hhbm, hacc, hocts, -, hin⟩ := stalled_leaves s i (kFsStalls f) lost
  replace hexec := hexec.trans (congrArg Host.Outcome.next hland)
  obtain ⟨u, hu⟩ : ∃ u, stalled s i (kFsStalls f) lost = u := ⟨_, rfl⟩
  rw [hu] at hexec hposted hslots hcount hls hfs hhbm hacc hocts hin
  obtain ⟨hin', hout'⟩ := bytes_placed u.fs (f * 2 ^ 22 + o) w.bytes
  exact ⟨_, hexec, hposted, hin', fun a ha => (hout' a ha).trans (by rw [hfs]), hls, hhbm, hacc, hocts, hslots, hcount, hin⟩

/-- Where a write to HBM lands (R575). -/
theorem exec_lands_hbm (hw : s.posted[i]? = some w) (hplace : w.place = .hbm p va pa)
    (hfree : ((s.posted.take i).any fun v => v.desc == w.desc && v.overlaps w) = false) :
    exec (.writeLands ⟨i, lost⟩) s = .next (({ s with posted := s.posted.eraseIdx i }.hbmPut p va pa w.bytes).settleCuts) := by
  have hgo : s.placeWaits w.place = false := by rw [hplace]; rfl
  have hport : s.landPort w.place = [] := by rw [hplace]; rfl
  refine (exec_writeLands hw hfree hgo).trans (congrArg Host.Outcome.next ?_)
  rw [hport]
  show (unposted s i).land w = _
  unfold State.land
  rw [hplace]
  rfl

/-- A write to HBM with no cut and no restore under way lands whole (R575). -/
theorem lands_hbm (hw : s.posted[i]? = some w) (hplace : w.place = .hbm p va pa)
    (hfree : ((s.posted.take i).any fun v => v.desc == w.desc && v.overlaps w) = false) (hcuts : s.cuts = []) (hjobs : s.jobs = []) :
    ∃ t, exec (.writeLands ⟨i, lost⟩) s = .next t ∧ t.posted = s.posted.eraseIdx i ∧
      (∀ j, j < w.bytes.length → Tbl.get 0 t.hbm (pa + j) = w.bytes.getD j 0) ∧
      (∀ a, a < pa ∨ pa + w.bytes.length ≤ a → Tbl.get 0 t.hbm a = Tbl.get 0 s.hbm a) ∧
      t.ls = s.ls ∧ t.fs = s.fs ∧ t.acc = s.acc ∧ t.octs = s.octs ∧ slotsKept s t [kMscHits, kMscMisses] ∧
      t.inflight = s.inflight := by
  have hexec := exec_lands_hbm (lost := lost) hw hplace hfree
  obtain ⟨u, hu⟩ : ∃ u, unposted s i = u := ⟨_, rfl⟩
  have hfields : u.posted = s.posted.eraseIdx i ∧ u.cuts = s.cuts ∧ u.jobs = s.jobs ∧ u.hbm = s.hbm ∧ u.ls = s.ls ∧ u.fs = s.fs ∧
      u.acc = s.acc ∧ u.octs = s.octs ∧ u.inflight = s.inflight ∧ slotsKept s u [] := by
    subst hu
    exact ⟨rfl, rfl, rfl, rfl, rfl, rfl, rfl, rfl, rfl, fun _ _ => rfl⟩
  rw [← unposted, hu] at hexec
  obtain ⟨hposted, hucuts, hujobs, huhbm, huls, hufs, huacc, huocts, huin, huslots⟩ := hfields
  obtain ⟨hhbm, hcuts'⟩ := hbm_hbmPut (hucuts.trans hcuts) (hujobs.trans hjobs) p va pa w.bytes false
  have hwrote := hbmWrote_hbmPut u p va pa w.bytes false
  have hbytes := bytesOnly_hbmPut (hucuts.trans hcuts) p va pa w.bytes false
  rw [settleCuts_none hcuts'] at hexec
  obtain ⟨t, ht⟩ : ∃ t, u.hbmPut p va pa w.bytes false = t := ⟨_, rfl⟩
  rw [ht] at hexec hhbm hwrote hbytes
  have hls : t.ls = u.ls := hwrote.field State.ls
  have hfs : t.fs = u.fs := hwrote.field State.fs
  have hacc : t.acc = u.acc := hwrote.field State.acc
  have hocts : t.octs = u.octs := hwrote.field State.octs
  have hin : t.inflight = u.inflight := hwrote.field State.inflight
  have hpost : t.posted = u.posted := hwrote.field State.posted
  obtain ⟨hin', hout'⟩ := bytes_placed u.hbm pa w.bytes
  rw [← hhbm] at hin' hout'
  exact ⟨t, hexec, hpost.trans hposted, hin', fun a ha => (hout' a ha).trans (by rw [huhbm]), hls.trans huls, hfs.trans hufs,
    hacc.trans huacc, hocts.trans huocts, fun k hk => (hbytes.slots k hk).trans (huslots k List.not_mem_nil), hin.trans huin⟩

end Landing

end Sys2Proof.Safety

namespace Sys2Proof.Safety

open Sys2Proof.Machine

/-! ### Descriptors complete in ring order (R556, R559) -/

section Completing

variable {s t u v : State} {id r n : Nat} {d e : Desc}

/-- A found element under another test, where the replaced element alone meets it. -/
theorem find?_replaceFirst_of_only {α : Type} {p q : α → Bool} {f : α → α} {l : List α} {a : α} (h : l.find? p = some a)
    (honly : ∀ x ∈ l, q x = true → x = a) (hf : q (f a) = true) : (replaceFirst p f l).find? q = some (f a) := by
  induction l with
  | nil => cases h
  | cons x l ih =>
    by_cases hx : p x = true
    · rw [List.find?_cons_of_pos hx, Option.some.injEq] at h
      subst h
      simp [replaceFirst, hx, hf]
    · rw [List.find?_cons_of_neg hx] at h
      have hq : ¬ q x = true := fun hq => hx (by rw [honly x (List.mem_cons_self ..) hq]; exact List.find?_some h)
      rw [replaceFirst, if_neg hx, List.find?_cons_of_neg hq]
      exact ih h fun y hy => honly y (List.mem_cons_of_mem _ hy)

/-- A found element that is not replaced is found again, where replacing does not change the test. -/
theorem find?_replaceFirst_keeps {α : Type} {p q : α → Bool} {f : α → α} {l : List α} {a : α} (h : l.find? q = some a)
    (ha : ¬ p a = true) (hf : ∀ x, q (f x) = q x) : (replaceFirst p f l).find? q = some a := by
  induction l with
  | nil => cases h
  | cons x l ih =>
    by_cases hq : q x = true
    · rw [List.find?_cons_of_pos hq, Option.some.injEq] at h
      subst h
      rw [replaceFirst, if_neg ha, List.find?_cons_of_pos hq]
    · rw [List.find?_cons_of_neg hq] at h
      rw [replaceFirst]
      split
      · rw [List.find?_cons_of_neg (by rw [hf]; exact hq), h]
      · rw [List.find?_cons_of_neg hq]
        exact ih h

/-- Descriptors in flight and posted writes are as before. -/
structure FlightKept (s t : State) : Prop where
  inflight : t.inflight = s.inflight
  posted : t.posted = s.posted

theorem FlightKept.trans (h : FlightKept s t) (h' : FlightKept t u) : FlightKept s u :=
  ⟨h'.inflight.trans h.inflight, h'.posted.trans h.posted⟩

theorem HbmWrote.flightKept (h : HbmWrote s t) : FlightKept s t := ⟨h.field State.inflight, h.field State.posted⟩

theorem Quiet.flightKept (h : Quiet s t) : FlightKept s t := ⟨h.field State.inflight, h.field State.posted⟩

theorem FlightKept.ite {c : Prop} [Decidable c] (h : FlightKept s t) (h' : FlightKept s u) :
    FlightKept s (if c then t else u) := by
  split
  · exact h
  · exact h'

theorem FlightKept.refl (s : State) : FlightKept s s := ⟨rfl, rfl⟩

theorem flightKept_wrapAdd (s : State) (k n w : Nat) : FlightKept s (s.wrapAdd k n w) := ⟨rfl, rfl⟩

theorem flightKept_bump (s : State) (k n : Nat) : FlightKept s (s.bump k n) := ⟨rfl, rfl⟩

/-- The record of a descriptor goes to the completion queue and leaves the descriptors alone (R556). -/
theorem flightKept_writeRecord (s : State) (d : Desc) : FlightKept s (s.writeRecord d) := by
  unfold State.writeRecord
  dsimp only
  refine FlightKept.trans (.ite (quiet_hostWrite ..).flightKept ?_) (flightKept_wrapAdd ..)
  have hput := (hbmWrote_vaWrite s d.part (s.nat (kCqBase d.ring) % 2 ^ 48 + 16 * (s.nat (kCqProd d.ring) % max (s.nat (kCqSlots d.ring)) 1))
    (completionRecord d (s.nat (kCqProd d.ring)) (max (s.nat (kCqSlots d.ring)) 1)) false).flightKept
  exact .ite hput (hput.trans (flightKept_bump ..))

/-- What follows a record leaves the descriptors alone, where no write is posted. -/
theorem flightKept_afterRecord (h : s.posted = []) (d : Desc) : FlightKept s (s.afterRecord d) := by
  have hland : (s.landWhere fun w => s.sameEngine d w) = s := landWhere_none (by rw [h]; exact fun _ hw => absurd hw List.not_mem_nil)
  unfold State.afterRecord
  dsimp only
  rw [hland]
  have hmsix : ∀ u : State, FlightKept u (if d.flag 2 then u.msix (partFn d.part) (u.nat (kIrqVector d.ring)) else u) := fun u =>
    .ite (hbmWrote_msix ..).flightKept (.refl u)
  refine FlightKept.trans ?_ (hmsix _)
  split
  · exact .refl s
  · exact .ite (hbmWrote_signalFence ..).flightKept (.ite (hbmWrote_breakFence ..).flightKept (.refl s))

theorem flushRecords_none (h : s.inflight.find? (fun d => d.ring == r) = none) (n : Nat) : s.flushRecords n r = s := by
  cases n with
  | zero => rfl
  | succ n =>
    rw [State.flushRecords, h]

theorem flushRecords_waits (h : s.inflight.find? (fun d => d.ring == r) = some e) (hdue : e.completed = false) (n : Nat) :
    s.flushRecords n r = s := by
  cases n with
  | zero => rfl
  | succ n =>
    rw [State.flushRecords, h]
    exact if_neg (by rw [hdue]; decide)

/-- The record of a descriptor at the head of its ring is written, and no other descriptor of the ring waits. -/
theorem flushRecords_last (h : s.inflight.find? (fun d => d.ring == r) = some e) (hdone : e.completed = true)
    (hposted : s.posted = []) (hothers : ∀ x ∈ s.inflight, x.id = e.id ∨ x.ring ≠ r) (n : Nat) :
    s.flushRecords (n + 1) r =
      (({ s with inflight := s.inflight.filter fun x => x.id != e.id }.writeRecord e).afterRecord e) := by
  obtain ⟨v, hv⟩ : ∃ v, { s with inflight := s.inflight.filter fun x => x.id != e.id } = v := ⟨_, rfl⟩
  have hvin : v.inflight = s.inflight.filter fun x => x.id != e.id := hv ▸ rfl
  have hvposted : v.posted = [] := by rw [← hv]; exact hposted
  have hwrite := flightKept_writeRecord v e
  have hkept := hwrite.trans (flightKept_afterRecord (hwrite.posted.trans hvposted) e)
  rw [State.flushRecords, h]
  dsimp only
  rw [if_pos hdone, hv]
  refine flushRecords_none (List.find?_eq_none.2 fun x hx => ?_) n
  rw [hkept.inflight, hvin, List.mem_filter] at hx
  obtain ⟨hmem, hne⟩ := hx
  obtain hid | hring := hothers x hmem
  · exact absurd hid (bne_iff_ne.1 hne)
  · rw [beq_iff_eq]
    exact hring

theorem flightKept_countStatus (s : State) (d : Desc) : FlightKept s (s.countStatus d) := by
  unfold State.countStatus
  dsimp only
  refine FlightKept.trans (.ite (flightKept_bump ..) (.refl s)) (.ite (flightKept_bump ..) (.ite (flightKept_bump ..)
    (.ite (flightKept_bump ..) (.ite (flightKept_bump ..) (.ite (flightKept_bump ..) (.ite (flightKept_bump ..) (.refl _)))))))

theorem flightKept_keepCopy (s : State) (d : Desc) : FlightKept s (s.keepCopy d) := .ite ⟨rfl, rfl⟩ (.refl s)

/-- A descriptor that is counted, copied and completed, its record not yet written (R559). -/
def tallied (s : State) (id : Nat) (d : Desc) : State :=
  ((s.countStatus d).keepCopy d).modDesc id fun d => { d with completed := true }

theorem exec_descriptorComplete (h : s.desc? id = some d) (hended : d.ended = true) (hopen : d.completed = false)
    (hrun : s.restarting d = false) (hposted : s.posted = []) : exec (.descriptorComplete id) s =
      .next (((tallied s id d).flushRecords ((tallied s id d).inflight.length + 1) d.ring).sweepFrames d.part) := by
  have hland : (s.landWhere fun w => w.desc == id) = s := landWhere_none (by rw [hposted]; exact fun _ hw => absurd hw List.not_mem_nil)
  refine congrArg Host.Outcome.next ?_
  show s.completeDesc id = _
  unfold State.completeDesc
  rw [h]
  dsimp only
  rw [if_pos (by rw [hended, hopen, hrun, hposted]; rfl), hland, h]
  rfl

/-- What the tally of a descriptor leaves of the descriptors and of the posted writes. -/
theorem tallied_leaves (s : State) (id : Nat) (d : Desc) : (tallied s id d).inflight =
      replaceFirst (fun e => e.id == id) (fun d => { d with completed := true }) s.inflight ∧
    (tallied s id d).posted = s.posted := by
  have hkept := (flightKept_countStatus s d).trans (flightKept_keepCopy _ d)
  have hin : (tallied s id d).inflight =
    replaceFirst (fun e => e.id == id) (fun d => { d with completed := true }) ((s.countStatus d).keepCopy d).inflight := rfl
  exact ⟨by rw [hin, hkept.inflight], hkept.posted⟩

/-- A descriptor alone on its ring completes, and its record is written (R559). -/
theorem complete_last (h : s.desc? id = some d) (hended : d.ended = true) (hopen : d.completed = false)
    (hrun : s.restarting d = false) (hposted : s.posted = []) (halone : ∀ e ∈ s.inflight, e.ring = d.ring → e = d) :
    exec (.descriptorComplete id) s = .next (((({ tallied s id d with
      inflight := (tallied s id d).inflight.filter fun e => e.id != id }.writeRecord { d with completed := true }).afterRecord
        { d with completed := true })).sweepFrames d.part) := by
  have hid := id_of_desc? h
  obtain ⟨hin, hpost⟩ := tallied_leaves s id d
  have hfind : (tallied s id d).inflight.find? (fun e => e.ring == d.ring) = some { d with completed := true } := by
    rw [hin]
    exact find?_replaceFirst_of_only h (fun x hx hring => halone x hx (beq_iff_eq.1 hring)) (beq_self_eq_true _)
  have hothers : ∀ x ∈ (tallied s id d).inflight, x.id = d.id ∨ x.ring ≠ d.ring := by
    rw [hin]
    refine forall_replaceFirst (P := fun x : Desc => x.id = d.id ∨ x.ring ≠ d.ring) (f := fun d : Desc => { d with completed := true })
      (fun _ hx => hx) fun x hx => ?_
    by_cases hring : x.ring = d.ring
    · exact .inl (congrArg Desc.id (halone x hx hring))
    · exact .inr hring
  have hlast := flushRecords_last hfind rfl (hpost.trans hposted) hothers (tallied s id d).inflight.length
  refine (exec_descriptorComplete h hended hopen hrun hposted).trans ?_
  rw [hlast]
  subst hid
  rfl

/-- A descriptor behind another one of its ring completes without its record (R559). -/
theorem complete_behind (h : s.desc? id = some d) (hended : d.ended = true) (hopen : d.completed = false)
    (hrun : s.restarting d = false) (hposted : s.posted = []) (hhead : s.inflight.find? (fun e => e.ring == d.ring) = some e)
    (hne : e.id ≠ id) (hdue : e.completed = false) :
    exec (.descriptorComplete id) s = .next ((tallied s id d).sweepFrames d.part) := by
  obtain ⟨hin, -⟩ := tallied_leaves s id d
  have hfind : (tallied s id d).inflight.find? (fun e => e.ring == d.ring) = some e := by
    rw [hin]
    exact find?_replaceFirst_keeps hhead (by rw [beq_iff_eq]; exact hne) fun _ => rfl
  refine (exec_descriptorComplete h hended hopen hrun hposted).trans ?_
  rw [flushRecords_waits hfind hdue]

theorem length_completionRecord (d : Desc) (k slots : Nat) : (completionRecord d k slots).length = 16 := by
  simp [completionRecord, length_leBytes]

/-- Status OK with no flag counts nothing. -/
theorem countStatus_ok (hstatus : d.status = 0) (hflags : d.flags = 0) : s.countStatus d = s := by
  unfold State.countStatus
  dsimp only
  rw [hflags, hstatus, if_neg (by decide), if_neg (by decide), if_neg (by decide), if_neg (by decide), if_neg (by decide),
    if_neg (by decide), if_neg (by decide)]

/-- What keeping a copy of a descriptor leaves. -/
theorem keepCopy_eq (s : State) (d : Desc) : ∃ x, s.keepCopy d = { s with copies := x } := by
  unfold State.keepCopy
  split
  · exact ⟨_, rfl⟩
  · exact ⟨s.copies, rfl⟩

theorem sweepFrames_none {p : Nat} (h : s.frames p = []) : s.sweepFrames p = s := by
  rw [State.sweepFrames, h]
  rfl

/-- The record of a ring whose completion queue lies in host memory (R556). -/
theorem writeRecord_host (hhost : bitOf (s.nat (kCqBase d.ring)) 63 = true) (hlink : s.linkDown = false)
    (hsends : (s.fn (partFn d.part)).sends = true) : s.writeRecord d =
      (s.emit (.hostWrite (partFn d.part) (s.nat (kCqBase d.ring) % 2 ^ 63 +
        16 * (s.nat (kCqProd d.ring) % max (s.nat (kCqSlots d.ring)) 1))
        (completionRecord d (s.nat (kCqProd d.ring)) (max (s.nat (kCqSlots d.ring)) 1)))).wrapAdd (kCqProd d.ring) 1 32 := by
  have hwrite : ∀ a b, s.hostWrite (partFn d.part) a b = s.emit (.hostWrite (partFn d.part) a b) := fun a b =>
    (if_neg (by rw [hlink]; decide)).trans (if_pos hsends)
  unfold State.writeRecord
  dsimp only
  rw [if_pos hhost, hwrite]

theorem nat_wrapAdd_32 (s : State) (k n : Nat) : (s.wrapAdd k n 32).nat k = (s.nat k + n) % 2 ^ 32 :=
  State.nat_setNat_same s (lt_trans (Nat.mod_lt _ (Nat.two_pow_pos _)) (by decide))

/-- The state in which a completed descriptor has left, with its copy. -/
def departed (s : State) (id : Nat) (d : Desc) : State :=
  { tallied s id d with inflight := (tallied s id d).inflight.filter fun e => e.id != id }

/-- What leaves with a descriptor whose status is OK. -/
theorem departed_leaves (hstatus : d.status = 0) (hflags : d.flags = 0) : (departed s id d).desc? id = none ∧
    (departed s id d).regs = s.regs ∧ (departed s id d).linkDown = s.linkDown ∧ (departed s id d).fns = s.fns ∧
    (departed s id d).out = s.out ∧ (departed s id d).kv = s.kv ∧ memoryKept s (departed s id d) := by
  refine ⟨List.find?_eq_none.2 fun x hx => ?_, ?_⟩
  · have hne := (List.mem_filter.1 hx).2
    simpa using hne
  · obtain ⟨x, hx⟩ := keepCopy_eq s d
    unfold departed tallied
    rw [countStatus_ok hstatus hflags, hx]
    exact ⟨rfl, rfl, rfl, rfl, rfl, (Quiet.refl s).memoryKept⟩

/-- A descriptor that ended with OK, has no signal and no interrupt, and whose completion queue lies in host memory (R556, R559). -/
theorem complete_host {b : List Byte} (h : s.desc? id = some d) (hended : d.ended = true) (hopen : d.completed = false)
    (hrun : s.restarting d = false) (hposted : s.posted = []) (halone : ∀ e ∈ s.inflight, e.ring = d.ring → e = d)
    (hstatus : d.status = 0) (hflags : d.flags = 0) (hsignal : d.signal? = none) (hirq : d.flag 2 = false)
    (hframes : s.frames d.part = []) (hhost : bitOf (s.nat (kCqBase d.ring)) 63 = true) (hlink : s.linkDown = false)
    (hsends : (s.fn (partFn d.part)).sends = true)
    (hb : b = completionRecord d (s.nat (kCqProd d.ring)) (max (s.nat (kCqSlots d.ring)) 1)) :
    ∃ t, exec (.descriptorComplete id) s = .next t ∧ t.desc? id = none ∧ b.length = 16 ∧
      t.out = s.out ++ [.hostWrite (partFn d.part) (s.nat (kCqBase d.ring) % 2 ^ 63 +
        16 * (s.nat (kCqProd d.ring) % max (s.nat (kCqSlots d.ring)) 1)) b] ∧
      t.nat (kCqProd d.ring) = (s.nat (kCqProd d.ring) + 1) % 2 ^ 32 ∧ slotsKept s t [kCqProd d.ring] ∧ memoryKept s t := by
  have hexec := complete_last h hended hopen hrun hposted halone
  rw [← departed] at hexec
  obtain ⟨hdesc, hregs, hlink', hfns, hout, hkv, hmem⟩ := departed_leaves (s := s) (id := id) hstatus hflags
  obtain ⟨v, hv⟩ : ∃ v, departed s id d = v := ⟨_, rfl⟩
  rw [hv] at hexec hdesc hregs hlink' hfns hout hkv hmem
  have hnat : ∀ k, v.nat k = s.nat k := fun k => nat_of_reg (State.reg_of_regs hregs k)
  have hwrite := writeRecord_host (s := v) (d := { d with completed := true }) (by rw [hnat]; exact hhost) (hlink'.trans hlink)
    (by rw [State.fn, hfns]; exact hsends)
  rw [hnat, hnat, hnat] at hwrite
  have hrecord : completionRecord { d with completed := true } (s.nat (kCqProd d.ring)) (max (s.nat (kCqSlots d.ring)) 1) = b :=
    hb.symm
  rw [show ({ d with completed := true } : Desc).ring = d.ring from rfl, hrecord] at hwrite
  have hafter : ∀ u : State, u.afterRecord { d with completed := true } = u := fun u => by
    unfold State.afterRecord
    rw [show ({ d with completed := true } : Desc).signal? = none from hsignal]
    exact if_neg (by rw [show ({ d with completed := true } : Desc).flag 2 = false from hirq]; decide)
  rw [hafter, hwrite] at hexec
  obtain ⟨o, ho⟩ : ∃ o, Output.hostWrite (partFn d.part) (s.nat (kCqBase d.ring) % 2 ^ 63 +
        16 * (s.nat (kCqProd d.ring) % max (s.nat (kCqSlots d.ring)) 1)) b = o := ⟨_, rfl⟩
  have ho' : Output.hostWrite (partFn ({ d with completed := true } : Desc).part) (s.nat (kCqBase d.ring) % 2 ^ 63 +
        16 * (s.nat (kCqProd d.ring) % max (s.nat (kCqSlots d.ring)) 1)) b = o := ho
  rw [ho'] at hexec
  have hsweep : ((v.emit o).wrapAdd (kCqProd d.ring) 1 32).sweepFrames d.part = (v.emit o).wrapAdd (kCqProd d.ring) 1 32 :=
    sweepFrames_none (by
      rw [State.frames, State.pool, show ((v.emit o).wrapAdd (kCqProd d.ring) 1 32).kv = s.kv from hkv]
      exact hframes)
  rw [hsweep] at hexec
  refine ⟨_, hexec, hdesc, by rw [hb, length_completionRecord], ?_, ?_, fun k hk => ?_, hmem⟩
  · rw [ho]
    exact congrArg (· ++ [o]) hout
  · refine (nat_wrapAdd_32 (v.emit o) (kCqProd d.ring) 1).trans ?_
    rw [show (v.emit o).nat (kCqProd d.ring) = v.nat (kCqProd d.ring) from rfl, hnat]
  · exact (State.reg_setNat_other _ _ (by simpa using hk)).trans (State.reg_of_regs hregs k)

/-- The passes of a tile that an abort cuts short are counted, and nothing else changes (R503). -/
theorem cutTile_leaves (s : State) (d : Desc) : FlightKept s (s.cutTile d) ∧ (s.cutTile d).cuts = s.cuts ∧
    (s.cutTile d).aborts = s.aborts := by
  unfold State.cutTile
  split
  · split
    · exact ⟨⟨rfl, rfl⟩, rfl, rfl⟩
    · exact ⟨.refl s, rfl, rfl⟩
  · exact ⟨.refl s, rfl, rfl⟩

/-- The abort of a descriptor's object stops it (R503). -/
theorem abortStop_ends {j : AbortJob} (h : s.desc? id = some d) (hlive : d.ended = false)
    (habort : (s.aborts.find? fun j => j.rings.contains d.ring) = some j) (hdropped : j.dropped = true) (hsignal : d.signal? = none)
    (hcuts : s.cuts = []) :
    ∃ t e, exec (.abortStop id) s = .next t ∧ t = ((s.cutTile d).endDesc id 1).tear id ∧
      t.desc? id = some e ∧ e.ended = true ∧ e.status = 1 ∧ t.posted = s.posted ∧ t.aborts = s.aborts := by
  have hexec : exec (.abortStop id) s = .next (((s.cutTile d).endDesc id 1).tear id) := by
    show execAbortStop id s = _
    unfold execAbortStop
    rw [h]
    dsimp only
    rw [habort]
    dsimp only
    rw [State.abortDrop, if_pos hdropped, if_neg (by rw [hlive]; decide), hsignal]
    rfl
  obtain ⟨hkept, hcuts', haborts⟩ := cutTile_leaves s d
  obtain ⟨u, hu⟩ : ∃ u, s.cutTile d = u := ⟨_, rfl⟩
  rw [hu] at hexec hkept hcuts' haborts ⊢
  have hdesc : u.desc? id = some d := by rw [State.desc?, hkept.inflight]; exact h
  have hend := desc?_modDesc (s := u) (f := fun e => if e.ended then e else endedWith u e 1) hdesc
    (by rw [if_neg (by rw [hlive]; decide)]; rfl)
  rw [if_neg (by rw [hlive]; decide)] at hend
  have hfields : (u.endDesc id 1).posted = u.posted ∧ (u.endDesc id 1).aborts = u.aborts ∧ (u.endDesc id 1).cuts = u.cuts :=
    ⟨rfl, rfl, rfl⟩
  have hend' : (u.endDesc id 1).desc? id = some (endedWith u d 1) := hend
  obtain ⟨v, hv⟩ : ∃ v, u.endDesc id 1 = v := ⟨_, rfl⟩
  rw [hv] at hexec hend' hfields ⊢
  obtain ⟨hvposted, hvaborts, hvcuts⟩ := hfields
  have hbytes := bytesOnly_tear (hvcuts.trans (hcuts'.trans hcuts)) id
  have hin : (v.tear id).inflight = v.inflight := hbytes.field State.inflight
  have hpost : (v.tear id).posted = v.posted := hbytes.field State.posted
  have habt : (v.tear id).aborts = v.aborts := hbytes.field State.aborts
  refine ⟨_, endedWith u d 1, hexec, rfl, ?_, rfl, rfl, hpost.trans (hvposted.trans hkept.posted), habt.trans (hvaborts.trans haborts)⟩
  rw [State.desc?, hin]
  exact hend'

end Completing

/-- Settles O11: a write lands whole where its sector takes it and leaves a SPEC sector undefined, a completion writes its record in
ring order, and an abort ends what runs. -/
theorem landingAndCompletion : Obligations.LandingAndCompletion := by
  unfold Obligations.LandingAndCompletion
  refine ⟨?_, ?_, ?_, ?_, ?_, ?_, ?_, ?_, ?_, ?_, ?_, ?_⟩
  · exact fun s i lost w f sl o c hw hplace hfree hrun hcore hok hspec => lands_ls hw hplace hfree hrun hcore hok hspec
  · exact fun s i lost w f sl o c hw hplace hfree hrun hcore hok hspec => lands_spec hw hplace hfree hrun hcore hok hspec
  · exact fun s i lost w f sl o hw hplace hfree hok => lands_fs hw hplace hfree hok
  · exact fun s i lost w p va pa hw hplace hfree hcuts hjobs => lands_hbm hw hplace hfree hcuts hjobs
  · exact fun s i lost w p va pa hw hplace hfree => exec_lands_hbm hw hplace hfree
  · intro s i lost v w hw hv hdesc hover
    exact writeLands_waits hw (.inl (List.any_eq_true.2 ⟨v, hv, by rw [hdesc, hover]; simp⟩))
  · exact fun s i lost w f sl o hw hplace hstop => writeLands_waits hw (.inr (by rw [hplace]; exact hstop))
  · exact fun s i => rfl
  · exact fun s id d h hended hopen hrun hposted halone => ⟨_, _, rfl, rfl, complete_last h hended hopen hrun hposted halone⟩
  · intro s id d b h hended hopen hrun hposted halone hstatus hflags hsignal hirq hframes hhost hlink hsends hb
    exact complete_host h hended hopen hrun hposted halone hstatus hflags hsignal hirq hframes hhost hlink hsends hb
  · exact fun s id d e h hended hopen hrun hposted hhead hne hdue => complete_behind h hended hopen hrun hposted hhead hne hdue
  · exact fun s id d j h hlive habort hdropped hsignal hcuts => abortStop_ends h hlive habort hdropped hsignal hcuts

end Sys2Proof.Safety

namespace Sys2Proof.Safety

open Sys2Proof.Machine


/-! ### Run-ahead (O14) -/

section Ahead

variable {s t u : State}

/-- Only the caches, bytes of Local Stores and the counters of the two differ (R563). -/
structure Primed (s t : State) : Prop where
  eq : { t with regs := [], msc := [], free := 0, tlb := [], ls := [], flips := [] } =
    { s with regs := [], msc := [], free := 0, tlb := [], ls := [], flips := [] }
  slots : slotsKept s t [kMscHits, kMscMisses, kFilterBlocks]

theorem Primed.refl (s : State) : Primed s s := ⟨rfl, fun _ _ => rfl⟩

theorem Primed.trans (h : Primed s t) (h' : Primed t u) : Primed s u := ⟨h'.eq.trans h.eq, h.slots.trans_same h'.slots⟩

theorem Primed.field {α : Type} (h : Primed s t) (f : State → α) :
    f { t with regs := [], msc := [], free := 0, tlb := [], ls := [], flips := [] } =
      f { s with regs := [], msc := [], free := 0, tlb := [], ls := [], flips := [] } :=
  congrArg f h.eq

theorem Primed.foldl {α : Type} {f : State → α → State} (hf : ∀ s x, Primed s (f s x)) (l : List α) :
    ∀ s, Primed s (l.foldl f s) := by
  induction l with
  | nil => exact fun s => .refl s
  | cons x l ih => exact fun s => (hf s x).trans (ih (f s x))

theorem Primed.runahead (h : Primed s t) : t.runahead = s.runahead := h.field State.runahead

theorem Primed.addWork (h : Primed s t) (l : List RunaheadWork) :
    Primed { s with runahead := s.runahead ++ l } { t with runahead := t.runahead ++ l } := by
  refine ⟨?_, h.slots⟩
  rw [h.runahead]
  exact congrArg (fun x : State => { x with runahead := s.runahead ++ l }) h.eq

theorem Cached.primed (h : Cached s t) : Primed s t :=
  ⟨congrArg (fun x : State => { x with ls := [], flips := [] }) h.eq, h.slots.mono (by decide)⟩

theorem primed_bump (s : State) : Primed s (s.bump kFilterBlocks) :=
  ⟨rfl, fun k hk => State.reg_bump_other s _ _ fun h : k = kFilterBlocks => hk (by rw [h]; decide)⟩

theorem primed_lsPut (s : State) (c off : Nat) (l : List Byte) : Primed s (s.lsPut c off l) := ⟨rfl, fun _ _ => rfl⟩

/-- A write of a Local Store, as far as the filter lets it (R135). -/
theorem primed_writeRows (s : State) (p f i off : Nat) (l : List Byte) : Primed s (s.writeRows p ⟨false, f, i, off⟩ l) := by
  refine .foldl (fun s x => ?_) _ s
  split
  · unfold State.storeWrite
    dsimp only
    rw [if_neg Bool.false_ne_true]
    split
    · exact primed_lsPut ..
    · exact .refl s
  · exact primed_bump s

theorem primed_tagBlocked (s : State) (d : Desc) : Primed s (s.tagBlocked d) := by
  unfold State.tagBlocked
  split
  · exact .refl s
  · split
    · split
      · exact .refl s
      · exact primed_bump s
    · exact .refl s

/-- Run-ahead work is added, and but for it only the caches, bytes of Local Stores and the counters of the two differ. -/
def Ahead (s t : State) : Prop := ∃ l, Primed { s with runahead := s.runahead ++ l } t

theorem Primed.ahead (h : Primed s t) : Ahead s t := by
  refine ⟨[], ?_⟩
  rw [List.append_nil]
  exact h

theorem Ahead.refl (s : State) : Ahead s s := (Primed.refl s).ahead

theorem Ahead.trans (h : Ahead s t) (h' : Ahead t u) : Ahead s u := by
  obtain ⟨l, hl⟩ := h
  obtain ⟨m, hm⟩ := h'
  refine ⟨l ++ m, ?_⟩
  rw [← List.append_assoc]
  exact (hl.addWork m).trans hm

theorem Ahead.foldl {α : Type} {f : State → α → State} (hf : ∀ s x, Ahead s (f s x)) (l : List α) :
    ∀ s, Ahead s (l.foldl f s) := by
  induction l with
  | nil => exact fun s => .refl s
  | cons x l ih => exact fun s => (hf s x).trans (ih (f s x))

theorem Ahead.field {α : Type} (h : Ahead s t) (f : State → α) :
    f { t with regs := [], msc := [], free := 0, tlb := [], ls := [], flips := [], runahead := [] } =
      f { s with regs := [], msc := [], free := 0, tlb := [], ls := [], flips := [], runahead := [] } := by
  obtain ⟨l, hl⟩ := h
  exact congrArg (fun x : State => f { x with runahead := [] }) hl.eq

theorem Ahead.slots (h : Ahead s t) : slotsKept s t [kMscHits, kMscMisses, kFilterBlocks] :=
  h.elim fun _ hl => hl.slots

theorem Ahead.work (h : Ahead s t) {w : RunaheadWork} (hw : w ∈ s.runahead) : w ∈ t.runahead := by
  obtain ⟨l, hl⟩ := h
  rw [hl.runahead]
  exact List.mem_append_left _ hw

theorem Ahead.nat (h : Ahead s t) {k : Nat} (hk : k ∉ [kMscHits, kMscMisses, kFilterBlocks]) : t.nat k = s.nat k :=
  nat_of_reg (h.slots k hk)

/-- Operand B that run-ahead on a descriptor fetches. -/
def aheadB (s : State) (d : Desc) : Option (List (Nat × Nat × List Byte) × Nat × Nat) :=
  (if coreRun d.opcode then s.descCore d else none).elim none (s.peekB d)

/-- The work that run-ahead on a descriptor adds. -/
def aheadWork (s : State) (d : Desc) (cons at_ : Nat) : RunaheadWork where
  ring := d.ring
  cons := cons
  predicted := at_
  raw := d.raw
  reads := s.peekReads d
  walk := s.peekWalk d
  fetchedB := (aheadB s d).map (·.2)
  tag := s.peekTag d

/-- Run-ahead on a descriptor that has none yet adds its work, whatever the operand B is. -/
theorem runaheadOn_adds (s : State) (d : Desc) (cons at_ : Nat)
    (h : (s.runahead.any fun w => w.ring == d.ring && w.cons == cons) = false) :
    Primed { s with runahead := s.runahead ++ [aheadWork s d cons at_] } (s.runaheadOn d cons at_) := by
  unfold State.runaheadOn
  rw [if_neg (Bool.not_eq_true _ ▸ h)]
  unfold aheadWork aheadB
  dsimp only
  generalize (if coreRun d.opcode then s.descCore d else none) = o
  cases o with
  | none => exact primed_tagBlocked _ d
  | some c =>
    dsimp only [Option.elim_some]
    refine (primed_tagBlocked _ d).trans ?_
    cases s.peekB d c with
    | none => exact .refl _
    | some x => exact .foldl (fun s x => (cached_mscReads ..).primed.trans (primed_writeRows ..)) _ _

theorem ahead_ite {c : Prop} [Decidable c] (h : Ahead s t) : Ahead s (if c then t else s) := by
  split
  · exact h
  · exact .refl s

theorem ahead_runaheadOn (s : State) (d : Desc) (cons at_ : Nat) : Ahead s (s.runaheadOn d cons at_) := by
  cases h : s.runahead.any fun w => w.ring == d.ring && w.cons == cons with
  | true =>
    unfold State.runaheadOn
    rw [if_pos h]
    exact .refl s
  | false =>
    exact ⟨_, runaheadOn_adds s d cons at_ h⟩

theorem ahead_runaheadRing (fuel : Nat) : ∀ (s : State) (r cons : Nat) (l : List (Nat × Nat)) (prev : Option Nat) (busy : Bool),
    Ahead s (s.runaheadRing fuel r cons l prev busy) := by
  induction fuel with
  | zero => exact fun s r cons l prev busy => .refl s
  | succ fuel ih =>
    intro s r cons l prev busy
    unfold State.runaheadRing
    split
    · exact .refl s
    · dsimp only
      split
      · exact .refl s
      · exact (ahead_ite (ahead_runaheadOn ..)).trans (ih ..)

/-- Run-ahead of one ring, where it may commit. -/
def ringAhead (s : State) (r : Nat) : State :=
  if s.ringRuns r then
    s.runaheadRing ((s.ring r).fetched.length + 1) r (s.nat (kRingCons r)) (s.ring r).fetched (s.ring r).lastCommit
      (s.ringDescs r != [])
  else s

theorem ahead_ringAhead (s : State) (r : Nat) : Ahead s (ringAhead s r) := by
  unfold ringAhead
  split
  · exact ahead_runaheadRing ..
  · exact .refl s

theorem runaheadStart_eq (s : State) : exec .runaheadStart s = .next ((countFrom 0 128).foldl ringAhead s) := rfl

theorem runaheadStart_leaves (s : State) : ∃ t, exec .runaheadStart s = .next t ∧
    (∀ k, k ≠ kMscHits → k ≠ kMscMisses → k ≠ kFilterBlocks → t.reg k = s.reg k) ∧
    t.inflight = s.inflight ∧ t.rings = s.rings ∧ t.posted = s.posted ∧ t.hbm = s.hbm ∧ t.fs = s.fs ∧ t.acc = s.acc ∧
    t.octs = s.octs ∧ (∀ w ∈ s.runahead, w ∈ t.runahead) := by
  have h : Ahead s ((countFrom 0 128).foldl ringAhead s) := Ahead.foldl ahead_ringAhead _ s
  rw [runaheadStart_eq]
  obtain ⟨t, ht⟩ : ∃ t, (countFrom 0 128).foldl ringAhead s = t := ⟨_, rfl⟩
  rw [ht] at h ⊢
  refine ⟨_, rfl, fun k h1 h2 h3 => h.slots k ?_, h.field State.inflight, h.field State.rings,
    h.field State.posted, h.field State.hbm, h.field State.fs, h.field State.acc, h.field State.octs, fun w => h.work⟩
  simp [h1, h2, h3]

theorem Ahead.ringRuns (h : Ahead s t) {r : Nat} (hr : r < 128) : t.ringRuns r = s.ringRuns r := by
  have hk : ∀ k, 0x210000 ≤ k → k ∉ [kMscHits, kMscMisses, kFilterBlocks] := by
    intro k hk
    have hfew : ∀ j ∈ [kMscHits, kMscMisses, kFilterBlocks], j < 0x210000 := by simp [kMscHits, kMscMisses, kFilterBlocks]
    exact fun hmem => absurd (hfew k hmem) (Nat.not_lt.2 hk)
  have hctx : ∀ c, t.reg (kCtxState c) = s.reg (kCtxState c) := fun c => h.slots _ (hk _ (by unfold kCtxState; omega))
  have hpart : t.ringPart r = s.ringPart r := by
    simp only [State.ringPart, State.ctxPart, hctx, h.nat (hk (kRingCtx r) (by unfold kRingCtx; omega))]
  have hstate : ∀ p, t.nat (kPartState p) = s.nat (kPartState p) := fun p => h.nat (hk _ (by unfold kPartState; omega))
  have hrun : ∀ p, t.nat (kPartRun p) = s.nat (kPartRun p) := fun p => h.nat (hk _ (by unfold kPartRun; omega))
  simp only [State.ringRuns, State.ringLife, State.partState, State.partRun, hpart, hstate, hrun,
    h.nat (hk (kRingState r) (by unfold kRingState; omega)), h.nat (hk (kRingEnabled r) (by unfold kRingEnabled; omega))]

/-- Where only one ring of a list may commit, and stands in it once, only that ring runs ahead. -/
theorem foldl_ringAhead {r : Nat} {l : List Nat} : ∀ {s : State}, l.Nodup → (∀ q ∈ l, q < 128) → r ∈ l →
    (∀ q ∈ l, q ≠ r → s.ringRuns q = false) → l.foldl ringAhead s = ringAhead s r := by
  have hidle : ∀ (l : List Nat) (s : State), (∀ q ∈ l, s.ringRuns q = false) → l.foldl ringAhead s = s := by
    intro l
    induction l with
    | nil => exact fun s _ => rfl
    | cons q l ih =>
      intro s h
      have hq : ringAhead s q = s := if_neg (by rw [h q (List.mem_cons_self ..)]; exact Bool.false_ne_true)
      rw [List.foldl_cons, hq]
      exact ih s fun x hx => h x (List.mem_cons_of_mem _ hx)
  induction l with
  | nil => exact fun _ _ hr => absurd hr (List.not_mem_nil)
  | cons q l ih =>
    intro s hnodup hlt hr hruns
    obtain ⟨hq, hnodup⟩ := List.nodup_cons.1 hnodup
    rw [List.foldl_cons]
    by_cases hqr : q = r
    · subst hqr
      refine hidle l _ fun x hx => ?_
      rw [(ahead_ringAhead s q).ringRuns (hlt x (List.mem_cons_of_mem _ hx))]
      exact hruns x (List.mem_cons_of_mem _ hx) fun h => hq (h ▸ hx)
    · have hidleq : ringAhead s q = s :=
        if_neg (by rw [hruns q (List.mem_cons_self ..) hqr]; exact Bool.false_ne_true)
      rw [hidleq]
      exact ih hnodup (fun x hx => hlt x (List.mem_cons_of_mem _ hx))
        ((List.mem_cons.1 hr).resolve_left fun h => hqr h.symm) fun x hx => hruns x (List.mem_cons_of_mem _ hx)

/-- One fetched descriptor of one entry, which has arrived. -/
theorem takeDesc_single {w avail : Nat} (h : opEntries (w % 256) = 1) : takeDesc [(w, avail)] = some (w, 1, avail, []) := by
  simp only [takeDesc, h, List.take_one, List.head?_cons, Option.toList_some, List.length_singleton, Nat.lt_irrefl, if_false,
    List.foldr_cons, List.foldr_nil, Nat.zero_mul, Nat.add_zero, List.map_cons, List.map_nil, List.foldl_cons, List.foldl_nil,
    Nat.zero_max, List.drop_succ_cons, List.drop_zero]

/-- Run-ahead starts on the one descriptor that a ring has fetched (R562). -/
theorem ringAhead_first {r w avail : Nat} (hruns : s.ringRuns r = true)
    (hfetched : (s.ring r).fetched = [(w, avail)]) (hone : opEntries (w % 256) = 1) (hlast : (s.ring r).lastCommit = none)
    (hslips : s.slips = []) (havail : avail ≤ s.tb.ticks) (h3 : (uncommitted r (s.ringPart r) w).flag 3 = false)
    (h4 : (uncommitted r (s.ringPart r) w).flag 4 = false)
    (hnear : max (s.tb.ticks + 1) (avail + (uncommitted r (s.ringPart r) w).earliest) ≤
      s.tb.ticks + s.liveNat (kRunahead (s.ringPart r))) :
    ringAhead s r = s.runaheadOn (uncommitted r (s.ringPart r) w) (s.nat (kRingCons r))
      (max (s.tb.ticks + 1) (avail + (uncommitted r (s.ringPart r) w).earliest)) := by
  have hslip : Tbl.get 0 s.slips (s.ringPart r) = 0 := by rw [hslips]; rfl
  have hdone : ∀ (u : State) (c : Nat) (p : Option Nat), u.runaheadRing 1 r c [] p true = u := fun _ _ _ => rfl
  unfold ringAhead
  rw [if_pos hruns, hfetched, hlast]
  show s.runaheadRing 2 r _ [(w, avail)] none _ = _
  rw [State.runaheadRing, takeDesc_single hone]
  dsimp only
  rw [if_neg (Nat.not_lt.2 havail), hdone, hslip, h3, h4]
  simp only [Bool.false_and, Bool.false_eq_true, if_false, Option.getD_none, Nat.sub_zero, Bool.not_false, Bool.true_and,
    decide_eq_true_eq, hnear, if_true]

theorem runaheadStart_first {r w avail : Nat} (hr : r < 128) (hruns : s.ringRuns r = true)
    (hothers : ∀ q, q < 128 → q ≠ r → s.ringRuns q = false)
    (hfetched : (s.ring r).fetched = [(w, avail)]) (hone : opEntries (w % 256) = 1) (hlast : (s.ring r).lastCommit = none)
    (hslips : s.slips = []) (havail : avail ≤ s.tb.ticks) (h3 : (uncommitted r (s.ringPart r) w).flag 3 = false)
    (h4 : (uncommitted r (s.ringPart r) w).flag 4 = false)
    (hnear : max (s.tb.ticks + 1) (avail + (uncommitted r (s.ringPart r) w).earliest) ≤
      s.tb.ticks + s.liveNat (kRunahead (s.ringPart r)))
    (hnew : ∀ x ∈ s.runahead, x.ring ≠ r ∨ x.cons ≠ s.nat (kRingCons r)) :
    ∃ t x, exec .runaheadStart s = .next t ∧ t.runahead = s.runahead ++ [x] ∧ x.ring = r ∧ x.cons = s.nat (kRingCons r) ∧
      x.raw = w ∧ x.predicted = max (s.tb.ticks + 1) (avail + (uncommitted r (s.ringPart r) w).earliest) := by
  have hlt : ∀ q ∈ countFrom 0 128, q < 128 := fun q hq => by have := mem_countFrom.1 hq; omega
  have hany : (s.runahead.any fun x => x.ring == (uncommitted r (s.ringPart r) w).ring &&
      x.cons == s.nat (kRingCons r)) = false := by
    rw [List.any_eq_false]
    intro x hx
    have := hnew x hx
    simp only [uncommitted, Bool.and_eq_true, beq_iff_eq]
    exact fun h => this.elim (· h.1) (· h.2)
  rw [runaheadStart_eq, foldl_ringAhead (nodup_countFrom ..) hlt (mem_countFrom.2 ⟨by omega, by omega⟩)
    (fun q hq hne => hothers q (hlt q hq) hne), ringAhead_first hruns hfetched hone hlast hslips havail h3 h4 hnear]
  exact ⟨_, _, rfl, (runaheadOn_adds s _ _ _ hany).runahead, rfl, rfl, rfl, rfl⟩

end Ahead

end Sys2Proof.Safety

namespace Sys2Proof.Safety

open Sys2Proof.Machine


/-! ### The overrun (O14) -/

section Overrun

variable {s t u : State} {p : Nat} {d : Desc}

/-- Where all descriptors in flight belong to one partition, only that one can overrun (R95). -/
theorem overrunDescs_other (h : ∀ d ∈ s.inflight, d.part = p) {q : Nat} (hq : q ≠ p) : s.overrunDescs q = [] := by
  refine List.filter_eq_nil_iff.2 fun d hd => ?_
  have hne : (d.part == q) = false := beq_eq_false_iff_ne.2 (by rw [h d hd]; exact hq.symm)
  rw [hne]
  exact Bool.false_ne_true

theorem overrunPart_none (h : s.overrunDescs p = []) : s.overrunPart p = s := if_pos h

theorem foldl_overrunPart_other {l : List Nat} (h : ∀ d ∈ s.inflight, d.part = p) (hl : p ∉ l) :
    l.foldl (fun s q => s.overrunPart q) s = s := by
  induction l with
  | nil => rfl
  | cons q l ih =>
    obtain ⟨hne, hl⟩ := not_or.1 (mt List.mem_cons.2 hl)
    rw [List.foldl_cons, overrunPart_none (overrunDescs_other h (Ne.symm hne)), ih hl]

/-- The overrun of the one partition that has work in flight. -/
theorem foldl_overrunPart {l : List Nat} (h : ∀ d ∈ s.inflight, d.part = p) (h' : ∀ d ∈ (s.overrunPart p).inflight, d.part = p)
    (hnodup : l.Nodup) (hp : p ∈ l) : l.foldl (fun s q => s.overrunPart q) s = s.overrunPart p := by
  induction l with
  | nil => exact absurd hp List.not_mem_nil
  | cons q l ih =>
    obtain ⟨hq, hnodup⟩ := List.nodup_cons.1 hnodup
    rw [List.foldl_cons]
    by_cases hqp : q = p
    · subst hqp
      exact foldl_overrunPart_other h' hq
    · rw [overrunPart_none (overrunDescs_other h hqp)]
      exact ih hnodup ((List.mem_cons.1 hp).resolve_left fun h => hqp h.symm)

/-- A state whose compute window is over. -/
def computeOver (s : State) : State := { s with tb := { s.tb with window := .closed } }

theorem overrun_eq (hp : p < 64) (hw : s.tb.window = .compute) (hne : s.overrunDescs p ≠ []) (h : ∀ d ∈ s.inflight, d.part = p)
    (h' : ∀ d ∈ (s.overrunPart p).inflight, d.part = p) : exec .overrun s = .next (computeOver (s.overrunPart p)) := by
  have hmem : p ∈ countFrom 0 64 := mem_countFrom.2 ⟨Nat.zero_le _, by omega⟩
  have hany : s.anyOverrun = true := List.any_eq_true.2 ⟨p, hmem, bne_iff_ne.2 hne⟩
  show execOverrun s = _
  rw [execOverrun, if_pos ⟨hw, hany⟩, foldl_overrunPart h h' (nodup_countFrom ..) hmem]
  rfl

theorem overrun_nothing (h : s.inflight = []) : exec .overrun s = .next s := by
  have hany : s.anyOverrun = false := by
    refine List.any_eq_false.2 fun q _ => ?_
    rw [show s.overrunDescs q = [] from List.filter_eq_nil_iff.2 fun d hd => absurd (h ▸ hd) List.not_mem_nil]
    simp
  exact if_neg fun hw => by rw [hany] at hw; exact Bool.false_ne_true hw.2

/-- The state whose counters have counted what overran (R95). -/
def overrunCounted (s : State) (p n : Nat) : State := (s.bump (kOverrunCount p) n).bump kOverrunTotal n

theorem kOverrunTotal_ne (p : Nat) : kOverrunTotal ≠ kOverrunCount p := by
  unfold kOverrunTotal kOverrunCount
  omega

theorem overrunCounted_leaves (s : State) (p n : Nat) : slotsKept s (overrunCounted s p n) [kOverrunCount p, kOverrunTotal] ∧
    (overrunCounted s p n).nat (kOverrunCount p) = satAdd 32 (s.nat (kOverrunCount p)) n ∧
    (overrunCounted s p n).nat kOverrunTotal = satAdd 32 (s.nat kOverrunTotal) n := by
  refine ⟨fun k hk => ?_, ?_, ?_⟩
  · simp only [List.mem_cons, List.not_mem_nil, or_false, not_or] at hk
    exact (State.reg_bump_other _ _ _ hk.2).trans (State.reg_bump_other _ _ _ hk.1)
  · exact (nat_bump_other _ _ _ (kOverrunTotal_ne p).symm).trans (nat_bump_same _ _ _ (by decide))
  · exact (nat_bump_same _ _ _ (by decide)).trans (congrArg (satAdd 32 · n) (nat_bump_other _ _ _ (kOverrunTotal_ne p)))

theorem overrunPart_eq (hne : s.overrunDescs p ≠ []) : s.overrunPart p =
    if (overrunCounted s p (s.overrunDescs p).length).nat (kOverrunPolicy p) = 0 ∨
        (overrunCounted s p (s.overrunDescs p).length).spansDevices p = true ∨ ((s.overrunDescs p).any (·.overran)) = true then
      (overrunCounted s p (s.overrunDescs p).length).overrunHalt p (s.overrunDescs p)
    else (overrunCounted s p (s.overrunDescs p).length).overrunDefer p (s.overrunDescs p) := by
  rw [State.overrunPart]
  exact if_neg hne

theorem kOverrunPolicy_kept (p : Nat) : kOverrunPolicy p ∉ [kOverrunCount p, kOverrunTotal] := by
  simp only [kOverrunPolicy, kOverrunCount, kOverrunTotal, List.mem_cons, List.not_mem_nil, or_false]
  omega

/-- The passes of a tile that is cut short count in slots that no partition's state stands in (R187). -/
theorem slots_cutTile (s : State) (d : Desc) {k : Nat} (h9 : k % 4096 ≠ 9) (h16 : k % 4096 ≠ 16) :
    (s.cutTile d).reg k = s.reg k := by
  unfold State.cutTile
  split
  · split
    · refine (State.reg_wrapAdd_other _ _ _ ?_).trans rfl
      split
      · unfold kCmuBusyCc
        omega
      · unfold kTpaPasses
        omega
    · rfl
  · rfl

/-- Where every descriptor has ended, no collective is left to abort. -/
theorem abortCollectives_none (h : ∀ d ∈ s.inflight, d.ended = true) (p : Nat) (f : Nat → Bool) : s.abortCollectives p f = s := by
  unfold State.abortCollectives
  refine List.foldl_fixed' (fun g => ?_) _
  refine (congrArg (List.foldl (fun s id => s.collFail g id 1) s) (List.filter_eq_nil_iff.2 fun id _ => ?_)).trans List.foldl_nil
  split
  · next d hd =>
    rw [h d (List.mem_of_find?_eq_some hd)]
    simp
  · exact Bool.false_ne_true

/-- A descriptor in flight alone that is stopped has ended, and the counters and the partitions' states stay (R99, R102). -/
theorem stopDesc_ends (hin : s.inflight = [d]) (hrun : d.ended = false) (hcuts : s.cuts = []) (status : Nat) :
    ∃ e, (s.stopDesc status d).inflight = [e] ∧ e.id = d.id ∧ e.ended = true ∧ e.status = status ∧ e.part = d.part ∧
      (s.stopDesc status d).posted = s.posted ∧ (s.stopDesc status d).runahead = s.runahead ∧
      (∀ k, k % 4096 ≠ 9 → k % 4096 ≠ 16 → k ∉ [kMscHits, kMscMisses] → (s.stopDesc status d).reg k = s.reg k) := by
  obtain ⟨u, hu⟩ : ∃ u, s.cutTile d = u := ⟨_, rfl⟩
  obtain ⟨hkept, hcuts', -⟩ := cutTile_leaves s d
  have hregs : ∀ k, k % 4096 ≠ 9 → k % 4096 ≠ 16 → u.reg k = s.reg k := fun k h9 h16 => hu ▸ slots_cutTile s d h9 h16
  have hra : (s.cutTile d).runahead = s.runahead := by
    unfold State.cutTile
    split
    · split <;> rfl
    · rfl
  rw [hu] at hkept hcuts' hra
  have hend : (u.endDesc d.id status).inflight = [endedWith u d status] := by
    refine (congrArg (replaceFirst _ _) (hkept.inflight.trans hin)).trans ?_
    simp only [replaceFirst, beq_self_eq_true, if_true, hrun, Bool.false_eq_true, if_false]
    rfl
  have hfields : (u.endDesc d.id status).posted = u.posted ∧ (u.endDesc d.id status).runahead = u.runahead ∧
      (u.endDesc d.id status).cuts = u.cuts ∧ (u.endDesc d.id status).regs = u.regs := ⟨rfl, rfl, rfl, rfl⟩
  obtain ⟨v, hv⟩ : ∃ v, u.endDesc d.id status = v := ⟨_, rfl⟩
  rw [State.stopDesc, hu]
  rw [hv] at hend hfields ⊢
  obtain ⟨hpost, hvra, hvcuts, hvregs⟩ := hfields
  have hbytes := bytesOnly_tear (hvcuts.trans (hcuts'.trans hcuts)) d.id
  refine ⟨_, (hbytes.field State.inflight).trans hend, rfl, rfl, rfl, rfl,
    (hbytes.field State.posted).trans (hpost.trans hkept.posted), (hbytes.field State.runahead).trans (hvra.trans hra),
    fun k h9 h16 hk => (hbytes.slots k hk).trans ((State.reg_of_regs hvregs k).trans (hregs k h9 h16))⟩

/-- What overran alone in flight ends with FRAME_OVERRUN, and its partition halts (R99 to R101). -/
theorem overrunHalt_ends (hp : p < 64) (hin : s.inflight = [d]) (hrun : d.ended = false) (hstate : s.partState p = 1)
    (hpr : s.partRun p = 1) (hra : s.runahead = []) (hcuts : s.cuts = []) :
    ∃ e, (s.overrunHalt p [d]).inflight = [e] ∧ e.id = d.id ∧ e.ended = true ∧ e.status = stFrameOverrun ∧ e.part = d.part ∧
      (s.overrunHalt p [d]).partRun p = 2 ∧ (s.overrunHalt p [d]).nat (kHaltCause p) = 2 ∧
      (s.overrunHalt p [d]).nat (kOverrunCount p) = s.nat (kOverrunCount p) ∧
      (s.overrunHalt p [d]).nat kOverrunTotal = s.nat kOverrunTotal ∧ (s.overrunHalt p [d]).posted = s.posted := by
  obtain ⟨e, hein, heid, heend, hest, hepart, hpost, hra', hregs⟩ := stopDesc_ends hin hrun hcuts stFrameOverrun
  obtain ⟨u, hu⟩ : ∃ u, s.stopDesc stFrameOverrun d = u := ⟨_, rfl⟩
  rw [hu] at hein hpost hra' hregs
  have hfew : ∀ j ∈ [kMscHits, kMscMisses], j < 0x300000 ∧ j ≠ kOverrunTotal := by simp [kMscHits, kMscMisses, kOverrunTotal]
  have hpart : ∀ k, 0x300000 ≤ k → k % 4096 ≠ 9 → k % 4096 ≠ 16 → u.nat k = s.nat k := fun k hk h9 h16 =>
    nat_of_reg (hregs k h9 h16 fun hmem => absurd (hfew k hmem).1 (Nat.not_lt.2 hk))
  have hhalt : s.overrunHalt p [d] = (u.setNat (kPartRun p) 2).setNat (kHaltCause p) 2 := by
    show ((s.stopDesc stFrameOverrun d).abortCollectives p fun _ => true).haltPart p 2 = _
    rw [hu, abortCollectives_none (by simp [hein, heend])]
    refine haltPart_running ?_ ?_ (hra'.trans hra)
    · exact (hpart _ (by unfold kPartState; omega) (by unfold kPartState; omega) (by unfold kPartState; omega)).trans hstate
    · exact (hpart _ (by unfold kPartRun; omega) (by unfold kPartRun; omega) (by unfold kPartRun; omega)).trans hpr
  have hother : ∀ k, k ≠ kPartRun p → k ≠ kHaltCause p → ((u.setNat (kPartRun p) 2).setNat (kHaltCause p) 2).nat k = u.nat k :=
    fun k h1 h2 => (State.nat_setNat_other _ _ h2).trans (State.nat_setNat_other _ _ h1)
  have hne : kPartRun p ≠ kHaltCause p := by unfold kPartRun kHaltCause; omega
  rw [hhalt]
  refine ⟨e, hein, heid, heend, hest, hepart, ?_, State.nat_setNat_same _ (by decide), ?_, ?_, hpost⟩
  · exact (State.nat_setNat_other _ _ hne).trans (State.nat_setNat_same _ (by decide))
  · refine (hother _ ?_ ?_).trans (hpart _ ?_ ?_ ?_) <;> unfold kOverrunCount
    · unfold kPartRun; omega
    · unfold kHaltCause; omega
    all_goals omega
  · refine (hother _ ?_ ?_).trans (nat_of_reg (hregs _ ?_ ?_ ?_))
    · unfold kOverrunTotal kPartRun; omega
    · unfold kOverrunTotal kHaltCause; omega
    · unfold kOverrunTotal; omega
    · unfold kOverrunTotal; omega
    · exact fun hmem => (hfew _ hmem).2 rfl

/-- A descriptor that is deferred: it has overrun, and will complete with DEFERRED (R104). -/
def deferMark (s : State) (d : Desc) : State := (s.flagDesc d.id 3).modDesc d.id fun d => { d with overran := true }

/-- The descriptor `id` is marked as deferred. -/
def Deferred (s : State) (id : Nat) : Prop := ∃ e, s.desc? id = some e ∧ bitOf e.flags 3 = true ∧ e.overran = true

theorem bitOf_or_two_pow (n b : Nat) : bitOf (n ||| 2 ^ b) b = true := by
  rw [bitOf_eq_testBit, Nat.testBit_or, Nat.testBit_two_pow_self, Bool.or_true]

theorem deferMark_same (h : (s.desc? d.id).isSome) : Deferred (deferMark s d) d.id := by
  obtain ⟨e, he⟩ := Option.isSome_iff_exists.1 h
  have hflag := desc?_modDesc (f := fun d => { d with flags := d.flags ||| 2 ^ 3 }) he rfl
  have hover := desc?_modDesc (f := fun d => { d with overran := true }) hflag rfl
  exact ⟨_, hover, bitOf_or_two_pow _ _, rfl⟩

theorem desc?_deferMark_other {id : Nat} {e : Desc} (h : s.desc? id = some e) (hne : id ≠ d.id) :
    (deferMark s d).desc? id = some e := by
  have hp : ¬ (e.id == d.id) = true := fun heq => hne ((id_of_desc? h).symm.trans (beq_iff_eq.1 heq))
  exact find?_replaceFirst_keeps (find?_replaceFirst_keeps h hp fun _ => rfl) hp fun _ => rfl

theorem isSome_deferMark {id : Nat} (h : (s.desc? id).isSome) (d : Desc) : ((deferMark s d).desc? id).isSome := by
  by_cases hid : id = d.id
  · subst hid
    obtain ⟨e, he, -⟩ := deferMark_same h
    exact Option.isSome_of_eq_some he
  · obtain ⟨e, he⟩ := Option.isSome_iff_exists.1 h
    exact Option.isSome_of_eq_some (desc?_deferMark_other he hid)

theorem Deferred.deferMark {id : Nat} (h : Deferred s id) (d : Desc) : Deferred (deferMark s d) id := by
  obtain ⟨e, he, hflag, hover⟩ := h
  by_cases hid : id = d.id
  · subst hid
    exact deferMark_same (Option.isSome_of_eq_some he)
  · exact ⟨e, desc?_deferMark_other he hid, hflag, hover⟩

theorem foldl_deferMark_keeps {id : Nat} (l : List Desc) : ∀ {s : State}, Deferred s id → Deferred (l.foldl deferMark s) id := by
  induction l with
  | nil => exact fun h => h
  | cons d l ih => exact fun h => ih (h.deferMark d)

theorem foldl_deferMark {l : List Desc} : ∀ {s : State}, (∀ d ∈ l, (s.desc? d.id).isSome) →
    ∀ d ∈ l, Deferred (l.foldl deferMark s) d.id := by
  induction l with
  | nil => exact fun _ d hd => absurd hd List.not_mem_nil
  | cons x l ih =>
    intro s h d hd
    rw [List.foldl_cons]
    rcases List.mem_cons.1 hd with rfl | hd
    · exact foldl_deferMark_keeps l (deferMark_same (h d (List.mem_cons_self ..)))
    · exact ih (fun y hy => isSome_deferMark (h y (List.mem_cons_of_mem _ hy)) x) d hd

/-- A state but for its descriptors in flight. -/
def noFlight (s : State) : State := { s with inflight := [] }

theorem field_of_noFlight {α : Type} (h : noFlight t = noFlight s) (f : State → α) : f (noFlight t) = f (noFlight s) :=
  congrArg f h

/-- Marking descriptors as deferred changes nothing but them, and leaves each in its partition. -/
theorem deferMarks_leave (l : List Desc) (s : State) : noFlight (l.foldl deferMark s) = noFlight s ∧
    ((∀ d ∈ s.inflight, d.part = p) → ∀ d ∈ (l.foldl deferMark s).inflight, d.part = p) := by
  refine ⟨foldl_keeps (f := deferMark) (g := noFlight) l s fun _ _ _ => rfl, ?_⟩
  induction l generalizing s with
  | nil => exact id
  | cons x l ih =>
    refine fun h => ih _ (forall_replaceFirst (P := fun d : Desc => d.part = p) (f := fun d => { d with overran := true })
      (fun _ hd => hd) ?_)
    exact forall_replaceFirst (P := fun d : Desc => d.part = p) (f := fun d => { d with flags := d.flags ||| 2 ^ 3 })
      (fun _ hd => hd) h

/-- A partition that slips a frame and commits nothing in the next issue window (R105). -/
def frameSlipped (s : State) (p : Nat) : State :=
  { s with slips := Tbl.set 0 s.slips p (Tbl.get 0 s.slips p + 1),
           skips := if s.skips.contains p then s.skips else s.skips ++ [p] }

theorem overrunDefer_eq (s : State) (p : Nat) (l : List Desc) : s.overrunDefer p l = frameSlipped (l.foldl deferMark s) p := rfl

theorem mem_frameSlipped (s : State) (p : Nat) : p ∈ (frameSlipped s p).skips := by
  show p ∈ if s.skips.contains p then s.skips else s.skips ++ [p]
  split
  · next h => exact List.contains_iff_mem.1 h
  · exact List.mem_append_right _ (List.mem_singleton_self p)

theorem partHeld_of_skips (h : p ∈ s.skips) : s.partHeld p = true := by
  rw [State.partHeld, List.contains_iff_mem.2 h, Bool.or_true]

/-- What an overrun under DEFER leaves (R104, R105). -/
theorem overrunDefer_leaves (s : State) (p : Nat) (l : List Desc) (h : ∀ d ∈ l, (s.desc? d.id).isSome)
    (hin : ∀ d ∈ s.inflight, d.part = p) :
    (∀ d ∈ l, Deferred (s.overrunDefer p l) d.id) ∧ (∀ d ∈ (s.overrunDefer p l).inflight, d.part = p) ∧
    Tbl.get 0 (s.overrunDefer p l).slips p = Tbl.get 0 s.slips p + 1 ∧ p ∈ (s.overrunDefer p l).skips ∧
    (s.overrunDefer p l).posted = s.posted ∧ (s.overrunDefer p l).regs = s.regs ∧ memoryKept s (s.overrunDefer p l) := by
  obtain ⟨hrest, hpart⟩ := deferMarks_leave (p := p) l s
  have hmarked := foldl_deferMark h
  obtain ⟨u, hu⟩ : ∃ u, l.foldl deferMark s = u := ⟨_, rfl⟩
  rw [overrunDefer_eq, hu]
  rw [hu] at hrest hpart hmarked
  have hslips : u.slips = s.slips := field_of_noFlight hrest State.slips
  refine ⟨fun d hd => hmarked d hd, hpart hin, ?_, mem_frameSlipped u p, field_of_noFlight hrest State.posted,
    field_of_noFlight hrest State.regs, ?_⟩
  · rw [← hslips]
    exact Tbl.get_set_same 0 u.slips p (Tbl.get 0 u.slips p + 1)
  · exact ⟨fun a => field_of_noFlight hrest fun x => Tbl.get 0 x.ls a, fun a => field_of_noFlight hrest fun x => Tbl.get 0 x.fs a,
      fun a => field_of_noFlight hrest fun x => Tbl.get 0 x.acc a, fun a => field_of_noFlight hrest fun x => Tbl.get 0 x.hbm a,
      fun k i => field_of_noFlight hrest fun x => x.oct k i, fun a => field_of_noFlight hrest fun x => Tbl.get 0 x.ackMem a,
      fun a => field_of_noFlight hrest fun x => Tbl.get 0 x.mario.flash a⟩

/-- OVERRUN of one descriptor in flight under HALT_PARTITION (R99). -/
theorem overrun_halts (hp : p < 64) (hw : s.tb.window = .compute) (hin : s.inflight = [d]) (hover : s.overrunDescs p = [d])
    (hpolicy : s.nat (kOverrunPolicy p) = 0) (hstate : s.partState p = 1) (hpr : s.partRun p = 1) (hra : s.runahead = [])
    (hcuts : s.cuts = []) :
    ∃ t e, exec .overrun s = .next t ∧ t.desc? d.id = some e ∧ e.ended = true ∧ e.status = stFrameOverrun ∧
      t.partRun p = 2 ∧ t.nat (kHaltCause p) = 2 ∧ t.nat (kOverrunCount p) = satAdd 32 (s.nat (kOverrunCount p)) 1 ∧
      t.nat kOverrunTotal = satAdd 32 (s.nat kOverrunTotal) 1 ∧ t.tb.window = .closed ∧ t.posted = s.posted := by
  have hmem : d ∈ s.overrunDescs p := hover ▸ List.mem_singleton_self d
  obtain ⟨-, htest⟩ := List.mem_filter.1 hmem
  simp only [Bool.and_eq_true, beq_iff_eq, Bool.not_eq_true'] at htest
  obtain ⟨⟨⟨⟨⟨⟨hpart, -⟩, hrun⟩, -⟩, -⟩, -⟩, -⟩ := htest
  obtain ⟨hslots, hcount, htotal⟩ := overrunCounted_leaves s p 1
  have hsame : (overrunCounted s p 1).inflight = s.inflight ∧ (overrunCounted s p 1).runahead = s.runahead ∧
      (overrunCounted s p 1).cuts = s.cuts ∧ (overrunCounted s p 1).posted = s.posted := ⟨rfl, rfl, rfl, rfl⟩
  have heq := overrunPart_eq (s := s) (p := p) (by rw [hover]; simp)
  rw [hover, List.length_singleton] at heq
  obtain ⟨u, hu⟩ : ∃ u, overrunCounted s p 1 = u := ⟨_, rfl⟩
  rw [hu] at hslots hcount htotal hsame heq
  obtain ⟨huin, hura, hucuts, hupost⟩ := hsame
  rw [if_pos (.inl ((nat_of_reg (hslots _ (kOverrunPolicy_kept p))).trans hpolicy))] at heq
  have hkept : ∀ k, k ≠ kOverrunCount p → k ≠ kOverrunTotal → u.nat k = s.nat k := fun k h1 h2 =>
    nat_of_reg (hslots k (by simp [h1, h2]))
  have hustate : u.partState p = 1 := (hkept _ (by unfold kPartState kOverrunCount; omega)
    (by unfold kPartState kOverrunTotal; omega)).trans hstate
  have hurun : u.partRun p = 1 := (hkept _ (by unfold kPartRun kOverrunCount; omega)
    (by unfold kPartRun kOverrunTotal; omega)).trans hpr
  obtain ⟨e, hein, heid, heend, hest, hepart, hhalt, hcause, hcount', htotal', hpost⟩ :=
    overrunHalt_ends hp (huin.trans hin) hrun hustate hurun (hura.trans hra) (hucuts.trans hcuts)
  rw [← heq] at hein hhalt hcause hcount' htotal' hpost
  have hexec := overrun_eq hp hw (by rw [hover]; simp) (by simp [hin, hpart]) (by simp [hein, hepart, hpart])
  obtain ⟨v, hv⟩ : ∃ v, s.overrunPart p = v := ⟨_, rfl⟩
  rw [hv] at hein hhalt hcause hcount' htotal' hpost hexec
  refine ⟨computeOver v, e, hexec, ?_, heend, hest, hhalt, hcause, hcount'.trans hcount, htotal'.trans htotal, rfl,
    hpost.trans hupost⟩
  show v.inflight.find? _ = _
  rw [hein, List.find?_singleton, if_pos (by rw [heid, beq_self_eq_true])]

/-- The counters of an overrun play no part in what groups a partition belongs to. -/
theorem spansDevices_counted (hp : p < 64) (n : Nat) : (overrunCounted s p n).spansDevices p = s.spansDevices p := by
  obtain ⟨hslots, -⟩ := overrunCounted_leaves s p n
  have hkept : ∀ k, k ≠ kOverrunCount p → k ≠ kOverrunTotal → (overrunCounted s p n).nat k = s.nat k := fun k h1 h2 =>
    nat_of_reg (hslots k (by simp [h1, h2]))
  have hdef : ∀ g, (overrunCounted s p n).nat (kGroupDef g) = s.nat (kGroupDef g) := fun g =>
    hkept _ (by unfold kGroupDef kOverrunCount; omega) (by unfold kGroupDef kOverrunTotal; omega)
  have hplane : ∀ k, k < 0x300000 → k ≠ kOverrunTotal → (overrunCounted s p n).nat k = s.nat k := fun k hk hne =>
    hkept k (by unfold kOverrunCount; omega) hne
  have hdim := hplane kPlaneDim (by simp [kPlaneDim]) (by simp [kPlaneDim, kOverrunTotal])
  have hx := hplane kPlaneX (by simp [kPlaneX]) (by simp [kPlaneX, kOverrunTotal])
  have hy := hplane kPlaneY (by simp [kPlaneY]) (by simp [kPlaneY, kOverrunTotal])
  have hmembers : ∀ w, (overrunCounted s p n).members w = s.members w := fun w => by
    simp only [State.members, State.dimX, State.dimY, hdim, hx, hy]
  simp only [State.spansDevices, hdef, hmembers]

/-- OVERRUN under DEFER (R104, R105). -/
theorem overrun_defers (hp : p < 64) (hw : s.tb.window = .compute) (hin : ∀ d ∈ s.inflight, d.part = p)
    (hover : s.overrunDescs p ≠ []) (hpolicy : s.nat (kOverrunPolicy p) = 1) (hspans : s.spansDevices p = false)
    (hfirst : ((s.overrunDescs p).any (·.overran)) = false) :
    ∃ t, exec .overrun s = .next t ∧
      t.nat (kOverrunCount p) = satAdd 32 (s.nat (kOverrunCount p)) (s.overrunDescs p).length ∧
      t.nat kOverrunTotal = satAdd 32 (s.nat kOverrunTotal) (s.overrunDescs p).length ∧
      (∀ d ∈ s.overrunDescs p, Deferred t d.id) ∧
      Tbl.get 0 t.slips p = Tbl.get 0 s.slips p + 1 ∧ p ∈ t.skips ∧ t.partHeld p = true ∧ t.tb.window = .closed ∧
      t.posted = s.posted ∧ memoryKept s t ∧ slotsKept s t [kOverrunCount p, kOverrunTotal] := by
  obtain ⟨l, hl⟩ : ∃ l, s.overrunDescs p = l := ⟨_, rfl⟩
  have hsub : ∀ d ∈ l, (s.desc? d.id).isSome := fun d hd => by
    have hmem : d ∈ s.inflight := (List.mem_filter.1 (hl ▸ hd)).1
    exact List.find?_isSome.2 ⟨d, hmem, beq_self_eq_true _⟩
  obtain ⟨hslots, hcount, htotal⟩ := overrunCounted_leaves s p l.length
  have hsame : (overrunCounted s p l.length).inflight = s.inflight ∧ (overrunCounted s p l.length).slips = s.slips ∧
      (overrunCounted s p l.length).posted = s.posted ∧ memoryKept s (overrunCounted s p l.length) :=
    ⟨rfl, rfl, rfl, (Quiet.refl s).memoryKept⟩
  have hspans' : (overrunCounted s p l.length).spansDevices p = s.spansDevices p :=
    spansDevices_counted hp _
  have heq := overrunPart_eq hover
  have hexec := overrun_eq hp hw hover hin
  rw [hl] at heq hfirst ⊢
  obtain ⟨u, hu⟩ : ∃ u, overrunCounted s p l.length = u := ⟨_, rfl⟩
  rw [hu] at hslots hcount htotal hsame heq hspans'
  obtain ⟨huin, huslips, hupost, humem⟩ := hsame
  have hupolicy : u.nat (kOverrunPolicy p) = 1 := (nat_of_reg (hslots _ (kOverrunPolicy_kept p))).trans hpolicy
  rw [if_neg (by rw [hupolicy, hspans', hspans, hfirst]; decide)] at heq
  obtain ⟨hmarked, hpart, hslip, hskip, hpost, hregs, hmem⟩ := overrunDefer_leaves u p l
    (fun d hd => by rw [State.desc?, huin]; exact hsub d hd) (by rw [huin]; exact hin)
  rw [← heq] at hmarked hpart hslip hskip hpost hregs hmem
  obtain ⟨v, hv⟩ : ∃ v, s.overrunPart p = v := ⟨_, rfl⟩
  rw [hv] at hmarked hpart hslip hskip hpost hregs hmem hexec
  have hreg : ∀ k, v.reg k = u.reg k := fun k => State.reg_of_regs hregs k
  refine ⟨computeOver v, hexec hpart, (nat_of_reg (hreg _)).trans hcount, (nat_of_reg (hreg _)).trans htotal, hmarked,
    hslip.trans (by rw [huslips]), hskip, partHeld_of_skips hskip, rfl, hpost.trans hupost, humem.trans hmem,
    fun k hk => (hreg k).trans (hslots k hk)⟩

end Overrun

/-- Settles O14: run-ahead adds work and changes nothing architectural but SPEC bytes, and an overrun halts its partition or defers
its descriptors. -/
theorem runaheadAndOverrun : Obligations.RunaheadAndOverrun := by
  unfold Obligations.RunaheadAndOverrun
  refine ⟨?_, ?_, ?_, ?_, ?_, ?_⟩
  · exact fun s => runaheadStart_leaves s
  · intro s r w avail hr hruns hothers hfetched hone hlast hslips havail h3 h4 hnear hnew
    exact runaheadStart_first hr hruns hothers hfetched hone hlast hslips havail h3 h4 hnear hnew
  · exact fun s h => overrun_nothing h
  · exact fun s h => if_neg fun hw => h hw.1
  · exact fun s p d hp hw hin hover hpolicy hstate hpr hra hcuts => overrun_halts hp hw hin hover hpolicy hstate hpr hra hcuts
  · exact fun s p hp hw hin hover hpolicy hspans hfirst => overrun_defers hp hw hin hover hpolicy hspans hfirst

end Sys2Proof.Safety

namespace Sys2Proof.Safety

open Sys2Proof.Machine

/-! ### A frame boundary at a ring whose context reads a port's slot (O8) -/

/-- Ring 0 is ACTIVE and enabled and holds one fetched NOP. Its RING_CTX is so large that the slot of its context's state is the one
of TX_MUTED of port 0, which names partition 1, and the turn of the frame writes TX_MUTED before the commits (R62, R543). -/
def strayRing : State :=
  let s := State.reset.setNat (kRingState 0) 1
  let s := (s.setNat (kRingEnabled 0) 1).setNat (kRingCtx 0) (kTxMuted 0 - kCtxState 0)
  let s := (s.setNat (kTxMuted 0) 256).setNat (kCqSlots 0) 16
  let s := (s.setNat (kPartState 1) 1).setNat (kPartRun 1) 1
  let s := (s.setNat kBootState 7).setNat kFrameNumber (2 ^ 63)
  { s.setRing 0 { s.ring 0 with fetched := [(0, 0)] } with tb := { s.tb with window := .maintenance } }

/-- The descriptors in flight after a command. -/
def flightAfter (o : Host.Outcome State Fault Refusal) : Option (List Desc) :=
  match o with
  | .next t => some t.inflight
  | _ => none

theorem strayRing_commits_nothing : flightAfter (exec (.frameBoundary {}) strayRing) = some [] := by decide +kernel

theorem strayRing_alone : ∀ q, q < 128 → q ≠ 0 → strayRing.ringLife q ≠ 1 := by decide +kernel

/-- Refutes O8: the boundary's second clause takes any RING_CTX, and of the ring of `strayRing` the turn of the frame changes the
partition before the commits, so that its NOP does not commit. -/
theorem not_frameAndStep : ¬ Obligations.FrameAndStep := by
  unfold Obligations.FrameAndStep
  intro h
  obtain ⟨-, hcommit, -⟩ := h
  obtain ⟨t, d, hexec, hin, -⟩ := hcommit strayRing {} 0 0 0 (by decide +kernel) (by decide +kernel) rfl (by decide +kernel)
    (by decide) (by decide +kernel) (by decide +kernel) strayRing_alone (by decide +kernel) (by decide +kernel) (Nat.zero_le _) rfl
    rfl rfl rfl rfl (by decide +kernel) (by decide +kernel)
  have hnone := strayRing_commits_nothing
  rw [hexec] at hnone
  exact List.append_ne_nil_of_right_ne_nil _ (List.cons_ne_nil d []) (hin.symm.trans (Option.some.inj hnone))

end Sys2Proof.Safety

namespace Sys2Proof.Safety

open Sys2Proof.Machine


/-! ### Collectives: their buffers (O24) -/

section Buffers

variable {s t u : State} {d : Desc} {l m : List Nat} {buf : Nat}

/-- A state without what the collective engine moves: posted writes, groups, ports and the streams' records. -/
def withoutColl (s : State) : State := { s with regs := [], posted := [], colls := [], ports := [], streams := [], slotWait := false }

/-- Only posted writes, groups, ports, the streams' records and the slots of a list differ. -/
structure Collecting (l : List Nat) (s t : State) : Prop where
  view : withoutColl t = withoutColl s
  slots : slotsKept s t l

theorem Collecting.refl (l : List Nat) (s : State) : Collecting l s s := ⟨rfl, fun _ _ => rfl⟩

theorem Collecting.trans (h : Collecting l s t) (h' : Collecting l t u) : Collecting l s u :=
  ⟨h'.view.trans h.view, h.slots.trans_same h'.slots⟩

theorem Collecting.mono (h : Collecting l s t) (hsub : l ⊆ m) : Collecting m s t := ⟨h.view, h.slots.mono hsub⟩

theorem Collecting.field {α : Type} (h : Collecting l s t) (f : State → α) : f (withoutColl t) = f (withoutColl s) := congrArg f h.view

theorem Collecting.memoryKept (h : Collecting l s t) : memoryKept s t :=
  ⟨fun a => h.field fun x => Tbl.get 0 x.ls a, fun a => h.field fun x => Tbl.get 0 x.fs a, fun a => h.field fun x => Tbl.get 0 x.acc a,
    fun a => h.field fun x => Tbl.get 0 x.hbm a, fun k i => h.field fun x => x.oct k i, fun a => h.field fun x => Tbl.get 0 x.ackMem a,
    fun a => h.field fun x => Tbl.get 0 x.mario.flash a⟩

theorem Collecting.desc? (h : Collecting l s t) (id : Nat) : t.desc? id = s.desc? id := h.field fun x => x.desc? id

theorem Collecting.flips (h : Collecting l s t) : t.flips = s.flips := h.field State.flips

/-- The slots of the owners of cores are none of a list. -/
def SparesOwners (l : List Nat) : Prop := ∀ f, kCoreOwner f ∉ l

theorem Collecting.filterOk (h : Collecting l s t) (hl : SparesOwners l) (p : Nat) (a : SAddr) : t.filterOk p a = s.filterOk p a :=
  filterOk_congr (fun f => h.slots _ (hl f)) (h.field State.octs) (h.field State.coreMap) p a

theorem Collecting.bufferOk (h : Collecting l s t) (hl : SparesOwners l) (hb : bufferOk s d buf) : bufferOk t d buf := by
  obtain ⟨a, haddr, hfs, hstop, hfilter⟩ := hb
  exact ⟨a, haddr, hfs, (h.field fun x => x.slotStopped a.frond a.slot).trans hstop, fun o => (h.filterOk hl _ _).trans (hfilter o)⟩

/-- A row without an error is read as it is, and nothing is counted. -/
theorem eccRead_clean (h : s.flips = []) (id : Nat) (a : SAddr) (n : Nat) : s.eccRead id a n = (true, s) := by
  have hbits : ∀ g u k, ∀ b ∈ wrongBits s.flips g u k, b = 0 := by
    intro g u k b hb
    rw [h] at hb
    obtain ⟨w, -, rfl⟩ := List.mem_map.1 hb
    exact List.sum_eq_zero fun x hx => by
      obtain ⟨_, -, rfl⟩ := List.mem_map.1 hx
      rfl
  have hrow : s.eccRow a n = (0, 0) := by
    unfold State.eccRow
    dsimp only
    refine Prod.ext (List.length_eq_zero_iff.2 (List.filter_eq_nil_iff.2 fun b hb => ?_))
      (List.length_eq_zero_iff.2 (List.filter_eq_nil_iff.2 fun b hb => ?_)) <;>
    · rw [hbits _ _ _ b hb]
      simp
  have hcount : s.eccCount a 0 0 = s := by
    unfold State.eccCount
    split
    · rfl
    · split <;> rfl
  unfold State.eccRead
  rw [hrow]
  dsimp only
  rw [if_pos rfl, hcount]

/-- A collective reads its buffer in a Local Store without an effect (R455). -/
theorem collRead_clean (hb : bufferOk s d buf) (hflips : s.flips = []) (off n : Nat) :
    ∃ b, s.collRead d buf off n = (some b, s) := by
  obtain ⟨a, haddr, hfs, hstop, hfilter⟩ := hb
  have hrow : ∀ o k, ∃ b, s.fetchRow d (((Addr.store a).plus off).at o) k = (some b, s) := fun o k => by
    have hgo : ¬ (!a.fs && s.slotStopped a.frond a.slot) = true := by rw [hstop, Bool.and_false]; exact Bool.false_ne_true
    refine ⟨s.overlay d.id (.store a.fs a.frond a.slot o) (s.storeRead { a with off := o } k), ?_⟩
    unfold State.fetchRow
    dsimp only [Addr.plus, Addr.at]
    rw [if_neg hgo, if_pos (hfilter o), eccRead_clean hflips]
  have hread : s.collRead d buf off n = s.fetch d ((Addr.store a).plus off) n := by
    unfold State.collRead collAddr
    rw [haddr]
    rfl
  rw [hread]
  unfold State.fetch
  refine List.foldlRecOn (motive := fun acc => ∃ b, acc = (some b, s)) _ _ ⟨_, rfl⟩ ?_
  rintro _ ⟨b, rfl⟩ x -
  obtain ⟨c, hc⟩ := hrow x.1 x.2.length
  dsimp only
  rw [hc]
  exact ⟨_, rfl⟩

/-- A collective posts what it writes to its buffer in a Local Store (R455). -/
theorem collWrite_posts (hb : bufferOk s d buf) (off : Nat) (bytes : List Byte) :
    ∃ ws, s.collWrite d buf off bytes = (true, { s with posted := s.posted ++ ws }) := by
  obtain ⟨a, haddr, hfs, hstop, hfilter⟩ := hb
  have hwrite : s.collWrite d buf off bytes = s.issue d ((Addr.store a).plus off) bytes := by
    unfold State.collWrite collAddr
    rw [haddr]
    rfl
  rw [hwrite]
  unfold State.issue
  refine List.foldlRecOn (motive := fun acc => ∃ ws, acc = (true, { s with posted := s.posted ++ ws })) _ _ ⟨[], ?_⟩ ?_
  · rw [List.append_nil]
  rintro _ ⟨ws, rfl⟩ x -
  have hok : State.filterOk { s with posted := s.posted ++ ws } d.part { a with off := x.1 } = true := hfilter x.1
  rw [if_pos rfl]
  unfold State.issueRow
  dsimp only [Addr.plus, Addr.at]
  rw [if_pos hok, List.append_assoc]
  exact ⟨_, rfl⟩

theorem collecting_posted (l : List Nat) (s : State) (ws : List PostedWrite) : Collecting l s { s with posted := ws } :=
  ⟨rfl, fun _ _ => rfl⟩

theorem collecting_setColl (l : List Nat) (s : State) (g : Nat) (v : CollSt) : Collecting l s (s.setColl g v) := ⟨rfl, fun _ _ => rfl⟩

theorem collecting_setPort (l : List Nat) (s : State) (n : Nat) (v : PortSt) : Collecting l s (s.setPort n v) := ⟨rfl, fun _ _ => rfl⟩

theorem collecting_setStream (l : List Nat) (s : State) (st : Nat) (v : StreamSt) : Collecting l s (s.setStream st v) :=
  ⟨rfl, fun _ _ => rfl⟩

theorem collecting_setNat (s : State) (k n : Nat) : Collecting [k] s (s.setNat k n) :=
  ⟨rfl, fun _ hj => State.reg_setNat_other s _ (List.ne_of_not_mem_cons hj)⟩

theorem coll_setColl_same (s : State) (g : Nat) (v : CollSt) : (s.setColl g v).coll g = v := Tbl.get_set_same _ _ _ _

/-- Collective work that goes well and meets no slot in recovery is what is left (R712). -/
theorem collTry_well {Q : State → Prop} {g : Nat} {f : State → Bool × State}
    (h : ∃ t, f { s with slotWait := false } = (true, t) ∧ t.slotWait = false ∧ Q t) : Q (s.collTry g d f) := by
  obtain ⟨t, hf, hwait, hQ⟩ := h
  unfold State.collTry
  rw [hf]
  dsimp only
  rw [if_neg (by rw [hwait]; exact Bool.false_ne_true), if_pos rfl]
  exact hQ

/-- Reads one after another that each go well without an effect go well together. -/
theorem foldl_gathered {f : Option (List Byte) × State → Nat → Option (List Byte) × State}
    (hf : ∀ b o, ∃ c, f (some b, s) o = (some c, s)) (offs : List Nat) : ∃ b, offs.foldl f (some [], s) = (some b, s) := by
  refine List.foldlRecOn (motive := fun acc => ∃ b, acc = (some b, s)) _ _ ⟨[], rfl⟩ ?_
  rintro _ ⟨b, rfl⟩ o -
  exact hf b o

/-- What is made of such reads is made of their bytes. -/
theorem matched_gathered {α : Type} {f : Option (List Byte) × State → Nat → Option (List Byte) × State}
    (hf : ∀ b o, ∃ c, f (some b, s) o = (some c, s)) (offs : List Nat) {good : List Byte → State → α} {bad : State → α} {P : α → Prop}
    (hgood : ∀ b, P (good b s)) :
    P (match offs.foldl f (some [], s) with
      | (some b, s) => good b s
      | (none, s) => bad s) := by
  obtain ⟨b, hb⟩ := foldl_gathered hf offs
  rw [hb]
  exact hgood b

/-- What a member sends in a stage is captured without an effect. -/
theorem stageOut_clean (hsrc : bufferOk s d d.cSrc) (hdst : bufferOk s d d.cDst) (hflips : s.flips = []) (r : CollRun) (mem : Members)
    (st : Stage) : ∃ out, s.stageOut r d mem st = (some out, s) := by
  unfold State.stageOut
  refine List.foldlRecOn (motive := fun acc => ∃ out, acc = (some out, s)) _ _ ⟨[], rfl⟩ ?_
  rintro _ ⟨out, rfl⟩ x -
  dsimp only
  split
  · exact ⟨_, rfl⟩
  · obtain ⟨size, offs⟩ := d.pieces mem st x.1 true
    dsimp only
    have hbuf : bufferOk s d (if (decide (st.kind = .a2a) && !st.axisY) = true then d.cSrc else d.cDst) := by
      split
      · exact hsrc
      · exact hdst
    refine matched_gathered (P := fun acc => ∃ out', acc = (some out', s)) (good := fun b s => (some (out ++ [(x.2, b)]), s))
      (bad := fun s => (none, s)) (fun b o => ?_) offs fun b => ⟨_, rfl⟩
    obtain ⟨c, hc⟩ := collRead_clean hbuf hflips
      ((if (decide (st.kind = .a2a) && !st.axisY) = true then 0 else d.cTag) + o) size
    dsimp only
    rw [hc]
    exact ⟨_, rfl⟩

/-- The collective that a group runs, in its descriptor's present stage. -/
theorem serving_of_run {g : Nat} {r : CollRun} (hrun : (s.coll g).run = some r) (hdesc : s.desc? r.desc = some d) :
    s.serving g = some (r, d, (s.stages r.gdef d)[r.stage]?) := by
  unfold State.serving
  rw [hrun]
  dsimp only
  rw [hdesc]

theorem run_of_serving {g : Nat} {r : CollRun} {st : Option Stage} (h : s.serving g = some (r, d, st)) :
    (s.coll g).run = some r ∧ s.desc? r.desc = some d ∧ st = (s.stages r.gdef d)[r.stage]? := by
  unfold State.serving at h
  split at h
  · cases h
  · next r' hr =>
    split at h
    · cases h
    · next d' hd =>
      obtain ⟨rfl, hrest⟩ := Prod.mk.inj (Option.some.inj h)
      obtain ⟨rfl, rfl⟩ := Prod.mk.inj hrest
      exact ⟨hr, hd, rfl⟩

theorem modRun_of_run {g : Nat} {r : CollRun} (hrun : (s.coll g).run = some r) (f : CollRun → CollRun) :
    s.modRun g f = s.setColl g { s.coll g with run := some (f r) } := by
  unfold State.modRun
  dsimp only
  rw [hrun]

/-- The run of a group as one of its stages starts. -/
def stageRun (r : CollRun) (stage begin_ : Nat) (out : List (Nat × List Byte)) : CollRun :=
  { r with stage := stage, begin_ := begin_, out := out, formed := [], got := [], tags := [], lastExch := none, lastSent := none,
           stageEnd := none, slack := 0, xStep := 0 }

theorem xSend_leaves (s : State) (g : Nat) (r : CollRun) (d : Desc) : Collecting [] s (s.xSend g r d) ∧
    (s.xSend g r d).colls = s.colls ∧ (s.xSend g r d).slotWait = s.slotWait := by
  unfold State.xSend
  dsimp only
  split
  · exact ⟨.refl [] s, rfl, rfl⟩
  · exact ⟨collecting_setStream .., rfl, rfl⟩

/-- A stage that starts is the group's present one, or the operation has none such (R459). -/
theorem startStage_runs {g : Nat} {r : CollRun} (hrun : (s.coll g).run = some r) (hdesc : s.desc? r.desc = some d)
    (hsrc : bufferOk s d d.cSrc) (hdst : bufferOk s d d.cDst) (hflips : s.flips = []) (stage first : Nat) :
    ∃ t r', s.startStage g stage first = (true, t) ∧ (r' = r ∨ ∃ out, r' = stageRun r stage first out) ∧
      t.coll g = { s.coll g with run := some r' } ∧ Collecting [] s t ∧ t.slotWait = s.slotWait := by
  have hsame : s.coll g = { s.coll g with run := some r } := by rw [← hrun]
  unfold State.startStage
  rw [serving_of_run hrun hdesc]
  dsimp only
  split
  · exact ⟨s, r, rfl, .inl rfl, hsame, .refl [] s, rfl⟩
  · next st _ =>
    obtain ⟨out, hout⟩ := stageOut_clean hsrc hdst hflips r (s.members r.gdef) st
    rw [hout]
    dsimp only
    rw [modRun_of_run hrun]
    have hset := collecting_setColl [] s g { s.coll g with run := some (stageRun r stage first out) }
    have hcoll := coll_setColl_same s g { s.coll g with run := some (stageRun r stage first out) }
    split
    · obtain ⟨hsend, hcolls, hwait⟩ := xSend_leaves
        (s.setColl g { s.coll g with run := some (stageRun r stage first out) }) g (stageRun r stage first out) d
      refine ⟨_, stageRun r stage first out, rfl, .inr ⟨out, rfl⟩, ?_, hset.trans hsend, hwait⟩
      exact (congrArg (fun x => Tbl.get ({} : CollSt) x g) hcolls).trans hcoll
    · exact ⟨_, stageRun r stage first out, rfl, .inr ⟨out, rfl⟩, hcoll, hset, rfl⟩

theorem feedEarly_none {g : Nat} (h : (s.coll g).early = []) : s.feedEarly g = s.setColl g { s.coll g with early := [] } := by
  unfold State.feedEarly
  dsimp only
  rw [h]
  rfl

end Buffers

end Sys2Proof.Safety

namespace Sys2Proof.Safety

open Sys2Proof.Machine


/-! ### Collectives and RHIZOID start (O24) -/

section Starting

variable {s t u : State} {d : Desc} {g id op w tick : Nat}

/-- The run of an operation that starts at the head of its group's queue (R456, R459). -/
def startRun (s : State) (id w tick seq lastDone : Nat) (d : Desc) (src : List Byte) : CollRun where
  desc := id
  gdef := w
  seq := seq
  planned := max (tick + 1) (lastDone + 1) - 1 + s.planFrames d.cGroup w d
  begin_ := max (tick + 1) (lastDone + 1)
  held := if decide (d.cOp = 0 ∨ d.cOp = 2) then src.drop d.cTag else []
  tag := leNat (src.take d.cTag)
  due := if s.stages w d = [] then
    some (max (max (tick + 1) (lastDone + 1) - 1 + s.planFrames d.cGroup w d) (max (tick + 1) (lastDone + 1))) else none

/-- What an operation does once its run stands: it writes its own part, and its first stage starts. -/
def startTail (g first : Nat) (d : Desc) (own : Option (Nat × List Byte)) (done : Prop) [Decidable done] (s : State) : Bool × State :=
  let (ok, s) := match own with
    | some (o, l) => s.collWrite d d.cDst o l
    | none => (true, s)
  if !ok then (false, s)
  else if done then (true, s)
  else
    match s.startStage g 0 first with
    | (true, s) => (true, s.feedEarly g)
    | (false, s) => (false, s)

/-- The own part is posted. -/
theorem ownPart_posted (hdst : bufferOk s d d.cDst) (own : Option (Nat × List Byte)) :
    ∃ ws, (match own with
      | some (o, l) => s.collWrite d d.cDst o l
      | none => (true, s)) = (true, { s with posted := s.posted ++ ws }) := by
  cases own with
  | none => exact ⟨[], by rw [List.append_nil]⟩
  | some x => exact collWrite_posts hdst x.1 x.2

/-- The first stage of an operation starts, with the run of its group (R459). -/
theorem startTail_runs {r : CollRun} (hrun : (s.coll g).run = some r) (hdesc : s.desc? r.desc = some d)
    (hsrc : bufferOk s d d.cSrc) (hdst : bufferOk s d d.cDst) (hflips : s.flips = []) (hearly : (s.coll g).early = [])
    (own : Option (Nat × List Byte)) (done : Prop) [Decidable done] (first : Nat) :
    ∃ t r', startTail g first d own done s = (true, t) ∧ (r' = r ∨ ∃ out, r' = stageRun r 0 first out) ∧
      (t.coll g).run = some r' ∧ Collecting [] s t ∧ t.slotWait = s.slotWait := by
  obtain ⟨ws, hws⟩ := ownPart_posted hdst own
  have hspare : SparesOwners [] := fun _ => List.not_mem_nil
  have hpost := collecting_posted [] s (s.posted ++ ws)
  have hcoll : ∀ u : State, u = { s with posted := s.posted ++ ws } → u.coll g = s.coll g ∧ u.slotWait = s.slotWait := by
    rintro u rfl
    exact ⟨rfl, rfl⟩
  obtain ⟨u, hu⟩ : ∃ u, { s with posted := s.posted ++ ws } = u := ⟨_, rfl⟩
  obtain ⟨hcu, hwu⟩ := hcoll u hu.symm
  rw [hu] at hws hpost
  have htail : startTail g first d own done s = if done then (true, u) else
      (match u.startStage g 0 first with
      | (true, s) => (true, s.feedEarly g)
      | (false, s) => (false, s)) := by
    unfold startTail
    rw [hws]
    rfl
  rw [htail]
  split
  · exact ⟨u, r, rfl, .inl rfl, by rw [hcu]; exact hrun, hpost, hwu⟩
  · obtain ⟨v, r', hv, hr', hvcoll, hvview, hvwait⟩ := startStage_runs (by rw [hcu]; exact hrun)
      ((hpost.desc? r.desc).trans hdesc) (hpost.bufferOk hspare hsrc) (hpost.bufferOk hspare hdst) (hpost.flips.trans hflips) 0 first
    rw [hv]
    have hve : (v.coll g).early = [] := by rw [hvcoll, hcu]; exact hearly
    dsimp only
    rw [feedEarly_none hve]
    refine ⟨_, r', rfl, hr', ?_, (hpost.trans hvview).trans (collecting_setColl ..), hvwait.trans hwu⟩
    rw [coll_setColl_same, hvcoll]

/-- The state of an operation that starts, before its first stage: its group runs it under the next sequence number (R456). -/
def startedState (s : State) (g : Nat) (r : CollRun) : State :=
  (s.setNat (kCollSeq g) r.seq).setColl g { (s.setNat (kCollSeq g) r.seq).coll g with run := some r }

theorem kCollSeq_spares (g : Nat) : SparesOwners [kCollSeq g] := fun f => by
  simp only [kCoreOwner, kCollSeq, List.mem_singleton]
  omega

theorem startedState_leaves (s : State) (g : Nat) (r : CollRun) : Collecting [kCollSeq g] s (startedState s g r) ∧
    (startedState s g r).coll g = { s.coll g with run := some r } ∧ (startedState s g r).slotWait = s.slotWait :=
  ⟨(collecting_setNat s (kCollSeq g) r.seq).trans (collecting_setColl ..), coll_setColl_same .., rfl⟩

/-- What the start of an operation leaves (R456, R459). -/
def Started (s : State) (id w tick g : Nat) (t : State) : Prop :=
  ∃ r, (t.coll g).run = some r ∧ r.desc = id ∧ r.gdef = w ∧ r.stage = 0 ∧
    r.seq = (s.nat (kCollSeq g) + 1) % 2 ^ 32 ∧ r.begin_ = max (tick + 1) ((s.coll g).lastDone + 1) ∧
    t.nat (kCollSeq g) = r.seq ∧ Collecting [kCollSeq g] s t

/-- The work of an operation that starts, once its source is read. -/
def startRead (g id w tick lastDone : Nat) (d : Desc) (mem : Members) (src : List Byte) (s : State) : Bool × State :=
  let seq := (s.nat (kCollSeq g) + 1) % 2 ^ 32
  startTail g (max (tick + 1) (lastDone + 1)) d (d.ownPart mem src) ((s.setNat (kCollSeq g) seq).stages w d = [])
    (startedState s g (startRun (s.setNat (kCollSeq g) seq) id w tick seq lastDone d src))

/-- The work of an operation that starts (R456, R459). -/
def startWork (g id w tick lastDone : Nat) (d : Desc) (mem : Members) (s : State) : Bool × State :=
  match s.collRead d d.cSrc 0 (s.collLens w d).1 with
  | (none, s) => (false, s)
  | (some src, s) => startRead g id w tick lastDone d mem src s

theorem startColl_eq (h : isColl s id op d) (hdue : s.collDue d.cGroup id = true)
    (hhead : (s.coll d.cGroup).queue.head? = some (id, w, tick)) :
    s.startColl op id = s.collTry d.cGroup d (startWork d.cGroup id w tick (s.coll d.cGroup).lastDone d (s.members w)) := by
  obtain ⟨hdesc, hlive, hop, hcop⟩ := h
  have hgo : ¬ (d.ended = true ∨ d.opcode ≠ 0x50 ∨ d.cOp ≠ op ∨ s.collDue d.cGroup id = false) := by
    rw [hlive, hdue]
    simp [hop, hcop]
  unfold State.startColl
  rw [hdesc]
  dsimp only
  rw [if_neg hgo, hhead]
  rfl

/-- The operation at the head of its group starts (R448, R456, R459). -/
theorem startColl_starts (h : isColl s id op d) (hdue : s.collDue d.cGroup id = true)
    (hhead : (s.coll d.cGroup).queue.head? = some (id, w, tick)) (hearly : (s.coll d.cGroup).early = [])
    (hsrc : bufferOk s d d.cSrc) (hdst : bufferOk s d d.cDst) (hflips : s.flips = []) :
    Started s id w tick d.cGroup (s.startColl op id) := by
  rw [startColl_eq h hdue hhead]
  refine collTry_well (Q := Started s id w tick d.cGroup) ?_
  obtain ⟨v, hv⟩ : ∃ v : State, { s with slotWait := false } = v := ⟨_, rfl⟩
  have hsame : Collecting [kCollSeq d.cGroup] s v ∧ v.coll d.cGroup = s.coll d.cGroup ∧ v.slotWait = false ∧
      v.nat (kCollSeq d.cGroup) = s.nat (kCollSeq d.cGroup) := by
    rw [← hv]
    exact ⟨⟨rfl, fun _ _ => rfl⟩, rfl, rfl, rfl⟩
  obtain ⟨hview, hcoll, hwait, hnat⟩ := hsame
  have hspare := kCollSeq_spares d.cGroup
  obtain ⟨src, hread⟩ := collRead_clean (hview.bufferOk hspare hsrc) (hview.flips.trans hflips) 0 (v.collLens w d).1
  rw [hv, startWork, hread]
  dsimp only [startRead]
  obtain ⟨r, hr⟩ : ∃ r, startRun (v.setNat (kCollSeq d.cGroup) ((v.nat (kCollSeq d.cGroup) + 1) % 2 ^ 32)) id w tick
      ((v.nat (kCollSeq d.cGroup) + 1) % 2 ^ 32) (s.coll d.cGroup).lastDone d src = r := ⟨_, rfl⟩
  have hfields : r.desc = id ∧ r.gdef = w ∧ r.stage = 0 ∧ r.seq = (v.nat (kCollSeq d.cGroup) + 1) % 2 ^ 32 ∧
      r.begin_ = max (tick + 1) ((s.coll d.cGroup).lastDone + 1) := by
    rw [← hr]
    exact ⟨rfl, rfl, rfl, rfl, rfl⟩
  obtain ⟨hrid, hrw, hrstage, hrseq, hrbegin⟩ := hfields
  obtain ⟨hstart, hscoll, hswait⟩ := startedState_leaves v d.cGroup r
  have hall := hview.trans hstart
  have hseq : (startedState v d.cGroup r).nat (kCollSeq d.cGroup) = r.seq :=
    State.nat_setNat_same _ (by rw [hrseq]; exact lt_of_lt_of_le (Nat.mod_lt _ (by decide)) (by decide))
  rw [hr]
  obtain ⟨u, hu⟩ : ∃ u, startedState v d.cGroup r = u := ⟨_, rfl⟩
  rw [hu] at hall hscoll hswait hseq ⊢
  have hdesc : u.desc? r.desc = some d := by
    rw [hall.desc?, hrid]
    exact h.1
  obtain ⟨t, r', ht, hr', hrun, hleft, htwait⟩ := startTail_runs (g := d.cGroup) (r := r) (by rw [hscoll]) hdesc (hall.bufferOk hspare hsrc)
    (hall.bufferOk hspare hdst) (hall.flips.trans hflips) (by rw [hscoll, hcoll]; exact hearly) (d.ownPart (s.members w) src)
    ((v.setNat (kCollSeq d.cGroup) ((v.nat (kCollSeq d.cGroup) + 1) % 2 ^ 32)).stages w d = [])
    (max (tick + 1) ((s.coll d.cGroup).lastDone + 1))
  have hkept : r'.desc = r.desc ∧ r'.gdef = r.gdef ∧ r'.stage = 0 ∧ r'.seq = r.seq ∧ r'.begin_ = r.begin_ := by
    rcases hr' with rfl | ⟨out, rfl⟩
    · exact ⟨rfl, rfl, hrstage, rfl, rfl⟩
    · exact ⟨rfl, rfl, rfl, rfl, hrbegin.symm⟩
  obtain ⟨hkid, hkw, hkstage, hkseq, hkbegin⟩ := hkept
  refine ⟨t, ht, htwait.trans (hswait.trans hwait), r', hrun, hkid.trans hrid, hkw.trans hrw, hkstage, ?_, hkbegin.trans hrbegin,
    ?_, hall.trans (hleft.mono (List.nil_subset _))⟩
  · rw [hkseq, hrseq, hnat]
  · rw [hkseq, ← hseq]
    exact nat_of_reg (hleft.slots _ List.not_mem_nil)

/-- An operation that is not due does not start (R459, R465). -/
theorem startColl_waits (h : isColl s id op d) (hdue : s.collDue d.cGroup id = false) : s.startColl op id = s := by
  unfold State.startColl
  rw [h.1]
  exact if_pos (.inr (.inr (.inr hdue)))

/-! #### RHIZOID -/

/-- A RHIZOID's run as it starts (R466, R468). -/
def rhzRunFor (id w seq frame pos : Nat) (own : List Byte) : RhzRun where
  desc := id
  gdef := w
  seq := seq
  frame := frame
  pos := pos
  own := own

/-- The group as its next RHIZOID starts: it waits no more and runs, and takes the cells that came early. -/
def rhzBegun (c : CollSt) (r : RhzRun) (rest : List (Nat × Nat × Nat × Nat)) : CollSt :=
  { c with rhzWait := rest, rhz := c.rhz ++ [r], rhzEarly := c.rhzEarly.filter fun e => e.2.1 / 2 ^ 24 != r.seq % 256 }

/-- The state of a RHIZOID that starts, with the cells of its first stage on their ports (R468). -/
def rhzSent (g : Nat) (rest : List (Nat × Nat × Nat × Nat)) (d : Desc) (first : List (Nat × Nat)) (r : RhzRun) (s : State) : State :=
  ((s.setNat (kRhzSeq g) r.seq).setColl g (rhzBegun ((s.setNat (kRhzSeq g) r.seq).coll g) r rest)).sendRhz first
    ⟨g, r.frame, 0, r.pos, r.seq % 256 * 2 ^ 24, 4 * d.cCount - 1, r.own⟩

/-- The work of a RHIZOID that starts, once its source is read. -/
def rhzRead (g : Nat) (rest : List (Nat × Nat × Nat × Nat)) (d : Desc) (first : List (Nat × Nat)) (r : RhzRun) (s : State) :
    Bool × State :=
  if first = [] then (true, (rhzSent g rest d first r s).rhzResult g r d r.own false)
  else (true, ((((s.setNat (kRhzSeq g) r.seq).coll g).rhzEarly.filter fun e => e.2.1 / 2 ^ 24 == r.seq % 256).foldl
    (fun s e => s.rhzCell g e.1 e.2.1 e.2.2.1 e.2.2.2) (rhzSent g rest d first r s)).feedBad g)

/-- The work of a RHIZOID that starts (R466, R468). -/
def rhzWork (g id w frame pos : Nat) (rest : List (Nat × Nat × Nat × Nat)) (d : Desc) (first : List (Nat × Nat)) (s : State) :
    Bool × State :=
  match s.collRead d d.cSrc 0 (4 * d.cCount) with
  | (none, s) => (false, s)
  | (some own, s) => rhzRead g rest d first (rhzRunFor id w ((s.nat (kRhzSeq g) + 1) % 2 ^ 32) frame pos own) s

variable {frame pos : Nat} {waiting : List (Nat × Nat × Nat × Nat)}

theorem startRhz_eq (h : isColl s id 5 d) (hhead : (s.coll d.cGroup).rhzWait = (id, w, frame, pos) :: waiting)
    (hsize : s.oversize d.cGroup 1 ((s.members w).peers ((s.members w).nx == 1) ++
      (if 1 < (s.members w).nx ∧ 1 < (s.members w).ny then (s.members w).ys else [])) = false) :
    s.startRhz id = s.collTry d.cGroup d
      (rhzWork d.cGroup id w frame pos waiting d ((s.members w).peers ((s.members w).nx == 1))) := by
  obtain ⟨hdesc, hlive, hop, hcop⟩ := h
  have hgo : ¬ (d.ended = true ∨ d.opcode ≠ 0x50 ∨ d.cOp ≠ 5 ∨ id ≠ id) := by simp [hlive, hop, hcop]
  unfold State.startRhz
  rw [hdesc]
  dsimp only
  rw [hhead]
  dsimp only
  rw [if_neg hgo, hsize]
  rfl

theorem sendRhz_leaves (c : RhzCell) (l : List (Nat × Nat)) : ∀ s : State, Collecting [] s (s.sendRhz l c) ∧
    (s.sendRhz l c).colls = s.colls ∧ (s.sendRhz l c).slotWait = s.slotWait := by
  unfold State.sendRhz
  induction l with
  | nil => exact fun s => ⟨.refl [] s, rfl, rfl⟩
  | cons x l ih =>
    intro s
    obtain ⟨hview, hcolls, hwait⟩ := ih (s.setPort x.2 { s.port x.2 with rhz := (s.port x.2).rhz ++ [c] })
    exact ⟨(collecting_setPort ..).trans hview, hcolls, hwait⟩

theorem rhzSent_leaves (g : Nat) (rest : List (Nat × Nat × Nat × Nat)) (d : Desc) (first : List (Nat × Nat)) (r : RhzRun) (s : State) :
    Collecting [kRhzSeq g] s (rhzSent g rest d first r s) ∧ (rhzSent g rest d first r s).coll g = rhzBegun (s.coll g) r rest ∧
    (rhzSent g rest d first r s).slotWait = s.slotWait ∧ (rhzSent g rest d first r s).reg (kRhzSeq g) =
      (s.setNat (kRhzSeq g) r.seq).reg (kRhzSeq g) := by
  obtain ⟨hview, hcolls, hwait⟩ := sendRhz_leaves ⟨g, r.frame, 0, r.pos, r.seq % 256 * 2 ^ 24, 4 * d.cCount - 1, r.own⟩ first
    ((s.setNat (kRhzSeq g) r.seq).setColl g (rhzBegun ((s.setNat (kRhzSeq g) r.seq).coll g) r rest))
  have hset := (collecting_setNat s (kRhzSeq g) r.seq).trans
    (collecting_setColl _ (s.setNat (kRhzSeq g) r.seq) g (rhzBegun ((s.setNat (kRhzSeq g) r.seq).coll g) r rest))
  exact ⟨hset.trans (hview.mono (List.nil_subset _)),
    (congrArg (fun x => Tbl.get ({} : CollSt) x g) hcolls).trans (coll_setColl_same ..), hwait, hview.slots _ List.not_mem_nil⟩

theorem kRhzSeq_spares (g : Nat) : SparesOwners [kRhzSeq g] := fun f => by
  simp only [kCoreOwner, kRhzSeq, List.mem_singleton]
  omega

/-- A run of the RHIZOID `id` as it was started. -/
def StartedRhz (id w frame pos : Nat) (r : RhzRun) : Prop := r.desc = id ∧ r.gdef = w ∧ r.frame = frame ∧ r.pos = pos

/-- What the start of a RHIZOID leaves of its group (R466, R468). -/
def RhzRunning (id w frame pos : Nat) (rest : List (Nat × Nat × Nat × Nat)) (c : CollSt) : Prop :=
  (∃ r ∈ c.rhz, StartedRhz id w frame pos r) ∧ c.rhzWait = rest

/-- Changing a run in what a start leaves be keeps it among the runs. -/
theorem mem_replaceFirst_of_keeps {α : Type} {P : α → Prop} {p : α → Bool} {f : α → α} (hf : ∀ a, P a → P (f a)) {l : List α}
    (h : ∃ a ∈ l, P a) : ∃ a ∈ replaceFirst p f l, P a := by
  induction l with
  | nil => exact h
  | cons x l ih =>
    obtain ⟨a, ha, hP⟩ := h
    unfold replaceFirst
    rcases List.mem_cons.1 ha with rfl | ha
    · split
      · exact ⟨f a, List.mem_cons_self .., hf a hP⟩
      · exact ⟨a, List.mem_cons_self .., hP⟩
    · split
      · exact ⟨a, List.mem_cons_of_mem _ ha, hP⟩
      · obtain ⟨b, hb, hPb⟩ := ih ⟨a, ha, hP⟩
        exact ⟨b, List.mem_cons_of_mem _ hb, hPb⟩

/-- The result of a RHIZOID is posted, and its run is finished. -/
theorem rhzResult_runs {r : RhzRun} {rest : List (Nat × Nat × Nat × Nat)} (hdst : bufferOk s d d.cDst)
    (hrun : RhzRunning id w frame pos rest (s.coll g)) (out : List Byte) (sat : Bool) :
    Collecting [] s (s.rhzResult g r d out sat) ∧ RhzRunning id w frame pos rest ((s.rhzResult g r d out sat).coll g) ∧
    (s.rhzResult g r d out sat).slotWait = false := by
  unfold State.rhzResult
  refine collTry_well (Q := fun t => Collecting [] s t ∧ RhzRunning id w frame pos rest (t.coll g) ∧ t.slotWait = false) ?_
  obtain ⟨v, hv⟩ : ∃ v : State, { s with slotWait := false } = v := ⟨_, rfl⟩
  have hsame : Collecting [] s v ∧ v.coll g = s.coll g ∧ v.slotWait = false := by
    rw [← hv]
    exact ⟨⟨rfl, fun _ _ => rfl⟩, rfl, rfl⟩
  obtain ⟨hview, hcoll, hwait⟩ := hsame
  obtain ⟨ws, hws⟩ := collWrite_posts (hview.bufferOk (fun _ => List.not_mem_nil) hdst) 0 out
  rw [hv]
  dsimp only
  rw [hws]
  have hpost := collecting_posted [] v (v.posted ++ ws)
  refine ⟨_, rfl, hwait, (hview.trans hpost).trans (collecting_setColl ..), ?_, hwait⟩
  obtain ⟨hmem, hrest⟩ := hrun
  unfold State.modRhz
  rw [coll_setColl_same]
  refine ⟨?_, ?_⟩
  · exact mem_replaceFirst_of_keeps (P := StartedRhz id w frame pos)
      (f := fun x : RhzRun => { x with fin := true, sat := x.sat || sat }) (fun _ h => h) (by rw [← hcoll] at hmem; exact hmem)
  · rw [← hcoll] at hrest
    exact hrest

/-- What the start of a RHIZOID leaves (R466, R468). -/
def RhzStarted (s : State) (id w frame pos : Nat) (rest : List (Nat × Nat × Nat × Nat)) (g : Nat) (t : State) : Prop :=
  RhzRunning id w frame pos rest (t.coll g) ∧ t.nat (kRhzSeq g) = (s.nat (kRhzSeq g) + 1) % 2 ^ 32 ∧ Collecting [kRhzSeq g] s t

theorem feedBad_none (h : (s.coll g).rhzBad = []) : s.feedBad g = s.setColl g { s.coll g with rhzBad := [] } := by
  unfold State.feedBad
  dsimp only
  rw [h]
  rfl

/-- The next RHIZOID of a group starts (R466, R468). -/
theorem startRhz_starts (h : isColl s id 5 d) (hhead : (s.coll d.cGroup).rhzWait = (id, w, frame, pos) :: waiting)
    (hearly : (s.coll d.cGroup).rhzEarly = []) (hbad : (s.coll d.cGroup).rhzBad = []) (hflips : s.flips = [])
    (hsize : s.oversize d.cGroup 1 ((s.members w).peers ((s.members w).nx == 1) ++
      (if 1 < (s.members w).nx ∧ 1 < (s.members w).ny then (s.members w).ys else [])) = false)
    (hsrc : bufferOk s d d.cSrc) (hdst : bufferOk s d d.cDst) :
    RhzStarted s id w frame pos waiting d.cGroup (s.startRhz id) := by
  rw [startRhz_eq h hhead hsize]
  refine collTry_well (Q := RhzStarted s id w frame pos waiting d.cGroup) ?_
  obtain ⟨v, hv⟩ : ∃ v : State, { s with slotWait := false } = v := ⟨_, rfl⟩
  have hsame : Collecting [kRhzSeq d.cGroup] s v ∧ v.coll d.cGroup = s.coll d.cGroup ∧ v.slotWait = false ∧
      v.nat (kRhzSeq d.cGroup) = s.nat (kRhzSeq d.cGroup) := by
    rw [← hv]
    exact ⟨⟨rfl, fun _ _ => rfl⟩, rfl, rfl, rfl⟩
  obtain ⟨hview, hcoll, hwait, hnat⟩ := hsame
  have hspare := kRhzSeq_spares d.cGroup
  obtain ⟨own, hread⟩ := collRead_clean (hview.bufferOk hspare hsrc) (hview.flips.trans hflips) 0 (4 * d.cCount)
  rw [hv, rhzWork, hread]
  dsimp only
  obtain ⟨first, hfirst⟩ : ∃ first, (s.members w).peers ((s.members w).nx == 1) = first := ⟨_, rfl⟩
  obtain ⟨r, hr⟩ : ∃ r, rhzRunFor id w ((v.nat (kRhzSeq d.cGroup) + 1) % 2 ^ 32) frame pos own = r := ⟨_, rfl⟩
  have hfields : StartedRhz id w frame pos r ∧ r.seq = (v.nat (kRhzSeq d.cGroup) + 1) % 2 ^ 32 := by
    rw [← hr]
    exact ⟨⟨rfl, rfl, rfl, rfl⟩, rfl⟩
  obtain ⟨hstarted, hseq⟩ := hfields
  obtain ⟨hsent, hscoll, hswait, hsreg⟩ := rhzSent_leaves d.cGroup waiting d first r v
  have hearly' : ((v.setNat (kRhzSeq d.cGroup) r.seq).coll d.cGroup).rhzEarly = [] := by
    rw [show (v.setNat (kRhzSeq d.cGroup) r.seq).coll d.cGroup = v.coll d.cGroup from rfl, hcoll]
    exact hearly
  have hsnat : (rhzSent d.cGroup waiting d first r v).nat (kRhzSeq d.cGroup) = (s.nat (kRhzSeq d.cGroup) + 1) % 2 ^ 32 := by
    rw [nat_of_reg hsreg, State.nat_setNat_same _ (by rw [hseq]; exact lt_of_lt_of_le (Nat.mod_lt _ (by decide)) (by decide)),
      hseq, hnat]
  rw [hfirst, hr, rhzRead, hearly']
  obtain ⟨u, hu⟩ : ∃ u, rhzSent d.cGroup waiting d first r v = u := ⟨_, rfl⟩
  rw [hu] at hsent hscoll hswait hsnat ⊢
  have hall := hview.trans hsent
  have hrun : RhzRunning id w frame pos waiting (u.coll d.cGroup) := by
    rw [hscoll]
    exact ⟨⟨r, List.mem_append_right _ (List.mem_singleton_self r), hstarted⟩, rfl⟩
  split
  · obtain ⟨hres, hrrun, hrwait⟩ := rhzResult_runs (r := r) (hall.bufferOk hspare hdst) hrun r.own false
    refine ⟨_, rfl, hrwait, hrrun, ?_, hall.trans (hres.mono (List.nil_subset _))⟩
    rw [nat_of_reg (hres.slots _ List.not_mem_nil), hsnat]
  · have hubad : (u.coll d.cGroup).rhzBad = [] := by
      rw [hscoll, hcoll]
      exact hbad
    rw [List.filter_nil, List.foldl_nil, feedBad_none hubad]
    refine ⟨_, rfl, hswait.trans hwait, ?_, hsnat, hall.trans (collecting_setColl ..)⟩
    rw [coll_setColl_same]
    exact hrun

end Starting

end Sys2Proof.Safety

namespace Sys2Proof.Safety

open Sys2Proof.Machine


/-! ### Collectives exchange, settle and complete (O24) -/

section Stages

variable {s t u : State} {d : Desc} {g : Nat} {r : CollRun} {st : Stage}

/-- Only groups differ. -/
def CollsOnly (s t : State) : Prop := { t with colls := [] } = { s with colls := [] }

theorem CollsOnly.trans (h : CollsOnly s t) (h' : CollsOnly t u) : CollsOnly s u := Eq.trans h' h

theorem CollsOnly.field {α : Type} (h : CollsOnly s t) (f : State → α) : f { t with colls := [] } = f { s with colls := [] } :=
  congrArg f h

/-- A group's run goes on: its descriptor, its last exchange and the cells it formed are as before. -/
structure RunKept (g : Nat) (s t : State) : Prop where
  rest : CollsOnly s t
  run : ∀ r, (s.coll g).run = some r → ∃ r', (t.coll g).run = some r' ∧ r'.desc = r.desc ∧ r'.lastExch = r.lastExch ∧
    r'.formed = r.formed

theorem RunKept.refl (g : Nat) (s : State) : RunKept g s s := ⟨rfl, fun r hr => ⟨r, hr, rfl, rfl, rfl⟩⟩

theorem RunKept.trans (h : RunKept g s t) (h' : RunKept g t u) : RunKept g s u := by
  refine ⟨h.rest.trans h'.rest, fun r hr => ?_⟩
  obtain ⟨r1, hr1, hdesc, hexch, hformed⟩ := h.run r hr
  obtain ⟨r2, hr2, hdesc', hexch', hformed'⟩ := h'.run r1 hr1
  exact ⟨r2, hr2, hdesc'.trans hdesc, hexch'.trans hexch, hformed'.trans hformed⟩

theorem RunKept.ite {c : Prop} [Decidable c] (h : RunKept g s t) (h' : RunKept g s u) : RunKept g s (if c then t else u) := by
  split
  · exact h
  · exact h'

/-- A change of the run that keeps these. -/
theorem runKept_modRun (s : State) (g : Nat) {f : CollRun → CollRun}
    (hf : ∀ r, (f r).desc = r.desc ∧ (f r).lastExch = r.lastExch ∧ (f r).formed = r.formed) : RunKept g s (s.modRun g f) := by
  cases hrun : (s.coll g).run with
  | none =>
    have hsame : s.modRun g f = s := by
      unfold State.modRun
      dsimp only
      rw [hrun]
    rw [hsame]
    exact .refl g s
  | some r =>
    rw [modRun_of_run hrun]
    refine ⟨rfl, fun r' hr' => ⟨f r, by rw [coll_setColl_same], ?_⟩⟩
    obtain rfl := Option.some.inj (hrun.symm.trans hr')
    exact hf r

/-- The check of a stage notes when its sending and its exchange ended (R459, R460). -/
theorem runKept_stageCheck (s : State) (g : Nat) : RunKept g s (s.stageCheck g) := by
  have hsent : ∀ (s : State) (n : Nat), RunKept g s (s.modRun g fun r => { r with lastSent := some n }) := fun s n =>
    runKept_modRun s g fun _ => ⟨rfl, rfl, rfl⟩
  have hended : ∀ (s : State) (n : CollRun → Nat), RunKept g s (s.modRun g fun r => { r with stageEnd := some (n r) }) := fun s n =>
    runKept_modRun s g fun _ => ⟨rfl, rfl, rfl⟩
  unfold State.stageCheck
  split
  · refine .ite (.refl g s) ?_
    extract_lets v
    have hv : RunKept g s v := .ite (hsent ..) (.refl g s)
    clear_value v
    exact hv.trans (.ite (hended v fun r => _) (.refl g v))
  · exact .refl g s

/-- The cells that an exchange frame forms on a port, and the run that formed them. -/
def exchangedPort (s : State) (g : Nat) (r : CollRun) (d : Desc) (st : Stage) (n more : Nat) : PortSt :=
  { s.port n with coll := (s.port n).coll ++ (countFrom (numAt r.formed n) more).map fun i => (g, stageCell r d st n i) }

/-- The run of a group after an exchange frame. -/
def exchangedRun (r : CollRun) (n more now : Nat) : CollRun :=
  { r with formed := numSet r.formed n (numAt r.formed n + more), lastExch := some now }

/-- What an exchange frame leaves (R457, R460). -/
theorem exchangeFrame_leaves {x : Nat × Nat} {more : Nat} (hserving : s.serving g = some (r, d, some st)) (hkind : st.kind ≠ .cross)
    (hdue : r.due = none) (hbegin : r.begin_ ≤ s.tb.ticks) (hexch : r.lastExch ≠ some s.tb.ticks)
    (hsends : d.sendsTo (s.members r.gdef) st = [x]) (hleft : numAt r.formed x.2 < st.cells)
    (hsize : s.oversize g 2 ((s.members r.gdef).peers st.axisY) = false)
    (hmore : more = min (s.axisK g (s.members r.gdef) st.axisY) (st.cells - numAt r.formed x.2)) :
    CollsOnly (s.setPort x.2 (exchangedPort s g r d st x.2 more)) (s.exchangeFrame g) ∧
    ((s.exchangeFrame g).coll g).run = some (exchangedRun r x.2 more s.tb.ticks) := by
  obtain ⟨hrun, -, -⟩ := run_of_serving hserving
  have hgo : ¬ (st.kind = .cross ∨ r.due.isSome = true ∨ s.tb.ticks < r.begin_ ∨ r.lastExch = some s.tb.ticks ∨
      d.sendsTo (s.members r.gdef) st = [] ∨
      ((d.sendsTo (s.members r.gdef) st).all fun x => numAt r.formed x.2 == st.cells) = true) := by
    rw [hsends, hdue]
    simp [hkind, hexch, Nat.not_lt.2 hbegin, hleft.ne]
  have hone : s.exchangeFrame g = (fun v : State => v.modRun g fun q => { q with lastExch := some v.tb.ticks })
      ((s.setPort x.2 (exchangedPort s g r d st x.2 more)).modRun g
        fun q => { q with formed := numSet q.formed x.2 (numAt r.formed x.2 + more) }) := by
    unfold State.exchangeFrame
    rw [hserving]
    refine (if_neg hgo).trans ((if_neg (by rw [hsize]; exact Bool.false_ne_true)).trans ?_)
    dsimp only
    rw [hsends, hmore]
    rfl
  obtain ⟨u, hu⟩ : ∃ u, s.setPort x.2 (exchangedPort s g r d st x.2 more) = u := ⟨_, rfl⟩
  have hsame : u.coll g = s.coll g ∧ u.tb = s.tb := by
    rw [← hu]
    exact ⟨rfl, rfl⟩
  obtain ⟨hcoll, htb⟩ := hsame
  rw [hu, modRun_of_run (r := r) (by rw [hcoll]; exact hrun)] at hone
  dsimp only at hone
  obtain ⟨v, hv⟩ : ∃ v, u.setColl g { u.coll g with
      run := some { r with formed := numSet r.formed x.2 (numAt r.formed x.2 + more) } } = v := ⟨_, rfl⟩
  have hvsame : CollsOnly u v ∧ (v.coll g).run = some { r with formed := numSet r.formed x.2 (numAt r.formed x.2 + more) } ∧
      v.tb = s.tb := by
    rw [← hv, coll_setColl_same]
    exact ⟨rfl, rfl, htb⟩
  obtain ⟨hvrest, hvrun, hvtb⟩ := hvsame
  rw [hv, modRun_of_run hvrun, hvtb] at hone
  rw [hone, hu, coll_setColl_same]
  exact ⟨hvrest.trans rfl, rfl⟩

theorem numAt_numSet (l : List (Nat × Nat)) (k v : Nat) : numAt (numSet l k v) k = v := by
  have hnone : (l.filter fun x => x.1 != k).find? (fun x => x.1 == k) = none := by
    refine List.find?_eq_none.2 fun x hx => ?_
    have hne := (List.mem_filter.1 hx).2
    simpa using hne
  unfold numAt numSet
  rw [List.find?_append, hnone]
  simp

/-- An exchange frame of a stage that sends to one peer (R457). -/
theorem exchange_sends {x : Nat × Nat} (hserving : s.serving g = some (r, d, some st)) (hkind : st.kind ≠ .cross)
    (hdue : r.due = none) (hbegin : r.begin_ ≤ s.tb.ticks) (hexch : r.lastExch ≠ some s.tb.ticks)
    (hsends : d.sendsTo (s.members r.gdef) st = [x]) (hleft : numAt r.formed x.2 < st.cells)
    (hsize : s.oversize g 2 ((s.members r.gdef).peers st.axisY) = false) :
    ∃ t r', exec (.exchangeFrame g) s = .next t ∧ (t.coll g).run = some r' ∧ r'.desc = r.desc ∧
      r'.lastExch = some s.tb.ticks ∧
      (t.port x.2).coll.length = (s.port x.2).coll.length +
        min (s.axisK g (s.members r.gdef) st.axisY) (st.cells - numAt r.formed x.2) ∧
      numAt r'.formed x.2 = numAt r.formed x.2 + min (s.axisK g (s.members r.gdef) st.axisY) (st.cells - numAt r.formed x.2) ∧
      t.regs = s.regs ∧ memoryKept s t ∧ workKept s t := by
  obtain ⟨more, hmore⟩ : ∃ more, more = min (s.axisK g (s.members r.gdef) st.axisY) (st.cells - numAt r.formed x.2) := ⟨_, rfl⟩
  obtain ⟨hrest, hrun⟩ := exchangeFrame_leaves hserving hkind hdue hbegin hexch hsends hleft hsize hmore
  obtain ⟨v, hv⟩ : ∃ v, s.exchangeFrame g = v := ⟨_, rfl⟩
  rw [hv] at hrest hrun
  have hcheck := runKept_stageCheck v g
  obtain ⟨r', hr', hdesc, hlast, hformed⟩ := hcheck.run _ hrun
  have hexec : exec (.exchangeFrame g) s = .next (v.stageCheck g) := by
    rw [← hv]
    rfl
  obtain ⟨w, hw⟩ : ∃ w, v.stageCheck g = w := ⟨_, rfl⟩
  rw [hw] at hcheck hr' hexec
  have hall := hrest.trans hcheck.rest
  have hport : w.port x.2 = exchangedPort s g r d st x.2 more :=
    (congrArg (fun y => Tbl.get ({} : PortSt) y x.2) (hall.field State.ports)).trans (port_setPort_same ..)
  rw [← hmore]
  refine ⟨w, r', hexec, hr', hdesc, hlast, ?_, ?_, hall.field State.regs, ?_, ?_⟩
  · rw [hport, exchangedPort, List.length_append, List.length_map, length_countFrom]
  · rw [hformed]
    exact numAt_numSet ..
  · exact ⟨fun a => hall.field fun y => Tbl.get 0 y.ls a, fun a => hall.field fun y => Tbl.get 0 y.fs a,
      fun a => hall.field fun y => Tbl.get 0 y.acc a, fun a => hall.field fun y => Tbl.get 0 y.hbm a,
      fun k i => hall.field fun y => y.oct k i, fun a => hall.field fun y => Tbl.get 0 y.ackMem a,
      fun a => hall.field fun y => Tbl.get 0 y.mario.flash a⟩
  · exact ⟨hall.field State.inflight, hall.field State.rings, hall.field State.posted, hall.field State.jobs,
      hall.field State.aborts⟩

/-- After the last stage the operation is due (R459). -/
theorem nextStage_last {st : Option Stage} (hserving : s.serving g = some (r, d, st))
    (hlast : r.stage + 1 = (s.stages r.gdef d).length) (e : Nat) :
    s.nextStage g e = (true, s.setColl g { s.coll g with run := some { r with due := some (max r.planned e) } }) := by
  obtain ⟨hrun, -, -⟩ := run_of_serving hserving
  unfold State.nextStage
  rw [hserving]
  dsimp only
  rw [if_neg (by omega), modRun_of_run hrun]

/-- The operation of a group is due to complete at frame `n`; beside its group and posted writes nothing differs. -/
structure MadeDue (g : Nat) (r : CollRun) (n : Nat) (s t : State) : Prop where
  run : (t.coll g).run = some { r with due := some n }
  view : withoutColl t = withoutColl s
  regs : t.regs = s.regs

theorem MadeDue.collecting {n : Nat} (h : MadeDue g r n s t) : Collecting [] s t := ⟨h.view, fun _ _ => State.reg_of_regs h.regs _⟩

/-- What is due to complete from a state that differs in no more than posted writes. -/
theorem madeDue_setColl (c : CollSt) (n : Nat) (hview : withoutColl t = withoutColl s) (hregs : t.regs = s.regs) :
    MadeDue g r n s (t.setColl g { c with run := some { r with due := some n } }) :=
  ⟨by rw [coll_setColl_same], hview, hregs⟩

/-- A stage that is not a reducing one settles (R458). -/
theorem stageSettle_due {e : Nat} (hserving : s.serving g = some (r, d, some st)) (hkind : st.kind ≠ .rs) (hend : r.stageEnd = some e)
    (hdue : r.due = none) (he : e < s.tb.ticks) (hlast : r.stage + 1 = (s.stages r.gdef d).length) :
    ∃ t, exec (.stageSettle g) s = .next t ∧ (t.coll g).run = some { r with due := some (max r.planned (e + st.settle)) } ∧
      t.regs = s.regs ∧ memoryKept s t ∧ workKept s t := by
  have hgo : ¬ (r.due.isSome = true ∨ s.tb.ticks ≤ e) := by
    rw [hdue]
    simp [he]
  have hsettle : MadeDue g r (max r.planned (e + st.settle)) s (s.stageSettle g) ∧ (s.stageSettle g).posted = s.posted := by
    unfold State.stageSettle
    rw [hserving]
    dsimp only
    rw [hend]
    dsimp only
    rw [if_neg hgo]
    refine collTry_well (Q := fun t => MadeDue g r (max r.planned (e + st.settle)) s t ∧ t.posted = s.posted) ?_
    obtain ⟨v, hv⟩ : ∃ v : State, { s with slotWait := false } = v := ⟨_, rfl⟩
    have hsame : v.serving g = some (r, d, some st) ∧ v.slotWait = false ∧ r.stage + 1 = (v.stages r.gdef d).length ∧
        withoutColl v = withoutColl s ∧ v.regs = s.regs ∧ v.posted = s.posted := by
      rw [← hv]
      exact ⟨hserving, rfl, hlast, rfl, rfl, rfl⟩
    obtain ⟨hvserving, hvwait, hvlast, hview, hregs, hposted⟩ := hsame
    rw [hv, if_neg hkind]
    dsimp only
    rw [if_pos rfl, nextStage_last hvserving hvlast]
    exact ⟨_, rfl, hvwait, madeDue_setColl _ _ hview hregs, hposted⟩
  obtain ⟨hmade, hposted⟩ := hsettle
  have hexec : exec (.stageSettle g) s = .next (s.stageSettle g) := rfl
  have hc := hmade.collecting
  exact ⟨_, hexec, hmade.run, hmade.regs, hc.memoryKept, hc.field State.inflight, hc.field State.rings, hposted, hc.field State.jobs,
    hc.field State.aborts⟩

/-- The cross-plane stage of a finished ring writes its block, and the operation is due (R477). -/
theorem xwait_due (hserving : s.serving g = some (r, d, some st)) (hkind : st.kind = .cross)
    (hpast : r.begin_ + gXwait r.gdef ≤ s.tb.ticks) (hdone : 2 * (gPlanes r.gdef - 1) ≤ r.xStep)
    (hlast : r.stage + 1 = (s.stages r.gdef d).length) (hdst : bufferOk s d d.cDst) :
    ∃ t, exec (.xwaitExpiry g) s = .next t ∧
      (t.coll g).run = some { r with due := some (max r.planned (r.begin_ + gXwait r.gdef - 1)) } ∧
      t.regs = s.regs ∧ memoryKept s t := by
  have hgo : ¬ (st.kind ≠ .cross ∨ s.tb.ticks < r.begin_ + gXwait r.gdef) := by
    simp [hkind, Nat.not_lt.2 hpast]
  have hmade : MadeDue g r (max r.planned (r.begin_ + gXwait r.gdef - 1)) s (s.xwaitExpiry g) := by
    unfold State.xwaitExpiry
    rw [hserving]
    dsimp only
    rw [if_neg hgo, if_neg (Nat.not_lt.2 hdone)]
    refine collTry_well (Q := MadeDue g r (max r.planned (r.begin_ + gXwait r.gdef - 1)) s) ?_
    obtain ⟨v, hv⟩ : ∃ v : State, { s with slotWait := false } = v := ⟨_, rfl⟩
    have hsame : v.serving g = some (r, d, some st) ∧ v.slotWait = false ∧ r.stage + 1 = (v.stages r.gdef d).length ∧
        withoutColl v = withoutColl s ∧ v.regs = s.regs ∧ bufferOk v d d.cDst := by
      rw [← hv]
      exact ⟨hserving, rfl, hlast, rfl, rfl, hdst⟩
    obtain ⟨hvserving, hvwait, hvlast, hview, hregs, hvdst⟩ := hsame
    obtain ⟨ws, hws⟩ := collWrite_posts hvdst (d.cTag + (v.members r.gdef).rank * (d.cBytes / (v.members r.gdef).n)) r.held
    rw [hv, hws]
    dsimp only
    rw [nextStage_last (s := { v with posted := v.posted ++ ws }) hvserving hvlast]
    exact ⟨_, rfl, hvwait, madeDue_setColl _ _ hview hregs⟩
  exact ⟨_, rfl, hmade.run, hmade.regs, hmade.collecting.memoryKept⟩

/-- The cross-plane stage of an unfinished ring ends the operation (R477). -/
theorem xwait_late (hserving : s.serving g = some (r, d, some st)) (hkind : st.kind = .cross)
    (hpast : r.begin_ + gXwait r.gdef ≤ s.tb.ticks) (hleft : r.xStep < 2 * (gPlanes r.gdef - 1)) :
    exec (.xwaitExpiry g) s = .next ((s.bump (kXstageLate g)).collFail g d.id 1) := by
  have hgo : ¬ (st.kind ≠ .cross ∨ s.tb.ticks < r.begin_ + gXwait r.gdef) := by
    simp [hkind, Nat.not_lt.2 hpast]
  refine congrArg Host.Outcome.next ?_
  unfold State.xwaitExpiry
  rw [hserving]
  dsimp only
  rw [if_neg hgo, if_pos hleft]
  rfl

/-- The first complete stage of a group's RHIZOIDs is reduced (R469). -/
theorem rhzReduce_first {q : RhzRun} (hfind : (s.coll g).rhz.find? (fun r => !r.fin && s.rhzMissing r == []) = some q)
    (hdesc : s.desc? q.desc = some d) : (q.held = none → exec (.rhizoidStageReduced g) s = .next (s.rhzFirst g q d)) ∧
    (∀ v, q.held = some v → exec (.rhizoidStageReduced g) s = .next (s.rhzSecond g q d v)) := by
  have hreduce : ∀ o, q.held = o → s.rhzReduce g = o.elim (s.rhzFirst g q d) (s.rhzSecond g q d) := by
    intro o ho
    unfold State.rhzReduce
    rw [hfind]
    dsimp only
    rw [hdesc]
    dsimp only
    rw [ho]
    cases o <;> rfl
  exact ⟨fun h => congrArg Host.Outcome.next (hreduce none h), fun v h => congrArg Host.Outcome.next (hreduce (some v) h)⟩

/-! #### Leaving the group -/

/-- Taking cells off ports changes ports only. -/
theorem portsOnly_dropColl (s : State) (g : Nat) : { s.dropColl g with ports := [] } = { s with ports := [] } := by
  refine foldl_keeps (g := fun x : State => { x with ports := [] }) _ s fun s n _ => ?_
  dsimp only
  split <;> rfl

/-- The RHIZOIDs of a group that has none are none after a descriptor left it. -/
theorem rhz_collLeave (h : (s.coll g).rhz = []) (id : Nat) : ((s.collLeave g id).coll g).rhz = [] := by
  unfold State.collLeave
  dsimp only
  rw [coll_setColl_same]
  dsimp only
  rw [h]
  rfl

theorem colls_writeRows (s : State) (p : Nat) (a : SAddr) (l : List Byte) : (s.writeRows p a l).colls = s.colls := by
  refine foldl_keeps (g := State.colls) _ s fun s x _ => ?_
  split
  · unfold State.storeWrite
    split
    · rfl
    · split <;> rfl
  · rfl

theorem colls_undefine (s : State) (p a n : Nat) : (s.undefine p a n).colls = s.colls := by
  unfold State.undefine
  dsimp only
  split
  · rfl
  · split
    · split
      · exact colls_writeRows ..
      · rfl
    · exact (hbmWrote_vaWrite { s with free := s.free + n } p (a % 2 ^ 48) (freeBytes s.free n) false).field State.colls

/-- The RHIZOIDs of a group that has none are none after an operation failed. -/
theorem rhz_collFail (h : (s.coll g).rhz = []) (id status : Nat) : ((s.collFail g id status).coll g).rhz = [] := by
  unfold State.collFail
  split
  · exact h
  · extract_lets w lens s1 s2
    have hcolls : s1.colls = s.colls := rfl
    have hs1 : (s1.coll g).rhz = [] := (congrArg (fun c => (Tbl.get ({} : CollSt) c g).rhz) hcolls).trans h
    have hs2 : (s2.coll g).rhz = [] := rhz_collLeave (s := s1) hs1 id
    clear_value s2
    split
    · exact hs2
    · refine (congrArg (fun c => (Tbl.get ({} : CollSt) c g).rhz) ((colls_undefine ..).trans (colls_undefine ..))).trans hs2

/-- A collective whose slack has run out fails (R461). -/
theorem slackExpiry_fails (hserving : s.serving g = some (r, d, some st)) (hruns : s.slackRuns g r d st = true)
    (hsent : s.sentFrame g r st < s.tb.ticks) (hslack : s.nat kCollSlackFr ≤ r.slack) (hrhz : (s.coll g).rhz = []) :
    exec (.collSlackExpiry g) s = .next (s.collFail g d.id 0x0D) := by
  refine congrArg Host.Outcome.next ?_
  unfold State.slackExpiry
  rw [hserving]
  dsimp only
  rw [if_pos ⟨hruns, hsent, hslack⟩]
  have hnone := rhz_collFail hrhz d.id 0x0D
  show List.foldl _ (s.collFail g d.id 0x0D) (List.filter _ ((s.collFail g d.id 0x0D).coll g).rhz) = _
  rw [hnone]
  rfl

/-- The served operation leaves its group, which then serves none (R462). -/
theorem collLeave_served (hrun : (s.coll g).run = some r) (hrhz : (s.coll g).rhz = []) :
    ((s.collLeave g r.desc).coll g).run = none ∧ ((s.collLeave g r.desc).coll g).rhz = [] ∧ Collecting [] s (s.collLeave g r.desc) ∧
    (s.collLeave g r.desc).posted = s.posted := by
  have hports := portsOnly_dropColl s g
  obtain ⟨v, hv⟩ : ∃ v, s.dropColl g = v := ⟨_, rfl⟩
  rw [hv] at hports
  have hfield : ∀ {α : Type} (f : State → α), f { v with ports := [] } = f { s with ports := [] } := fun f => congrArg f hports
  have hdrop : Collecting [] s v := ⟨hfield withoutColl, fun _ _ => State.reg_of_regs (hfield State.regs) _⟩
  have hleave : ∃ c : CollSt, s.collLeave g r.desc = v.setColl g c ∧ c.run = none ∧ c.rhz = [] := by
    unfold State.collLeave
    extract_lets c running s1 s2
    have hcrhz : c.rhz = [] := hrhz
    have hrunning : running = true := by
      show (match (s.coll g).run with | some q => q.desc == r.desc | none => false) = true
      rw [hrun]
      exact beq_self_eq_true _
    have hs1 : s1 = v := (if_pos hrunning).trans hv
    have hs2 : s2 = s1 := by
      show (match c.rhz.find? fun q => q.desc == r.desc with | some q => s1.dropRhz g q.seq | none => s1) = s1
      rw [hcrhz]
      rfl
    refine ⟨_, by rw [hs2, hs1], if_pos hrunning, ?_⟩
    dsimp only
    rw [hcrhz]
    rfl
  obtain ⟨c, hc, hcrun, hcrhz⟩ := hleave
  rw [hc, coll_setColl_same]
  exact ⟨hcrun, hcrhz, hdrop.trans (collecting_setColl ..), hfield State.posted⟩

/-- The served operation completes in time (R462). -/
theorem collectiveComplete_served {due : Nat} {st : Option Stage} (hserving : s.serving g = some (r, d, st)) (hdue : r.due = some due)
    (hnow : due ≤ s.tb.ticks) (hlive : d.ended = false) (hrhz : (s.coll g).rhz = []) (hplan : s.tb.ticks ≤ r.planned)
    (hsat : r.sat = false) :
    ∃ t, exec (.collectiveComplete g) s = .next t ∧ (t.coll g).run = none ∧
      t.desc? d.id = some { d with ended := true, status := 0, endFrame := s.frameNo } ∧
      t.nat (kCollDone g) = (s.nat (kCollDone g) + 1) % 2 ^ 64 ∧ slotsKept s t [kCollDone g] ∧ memoryKept s t ∧
      t.posted = s.posted := by
  obtain ⟨hrun, hdesc, -⟩ := run_of_serving hserving
  have hid : d.id = r.desc := id_of_desc? hdesc
  obtain ⟨v, hv⟩ : ∃ v, (s.endDesc r.desc stOk).wrapAdd (kCollDone g) = v := ⟨_, rfl⟩
  have hend := desc?_modDesc (f := fun e => if e.ended then e else endedWith s e stOk) hdesc
    (by rw [if_neg (by rw [hlive]; exact Bool.false_ne_true)]; rfl)
  rw [if_neg (by rw [hlive]; exact Bool.false_ne_true)] at hend
  have hsame : v.coll g = s.coll g ∧ v.posted = s.posted ∧ v.desc? r.desc = some (endedWith s d stOk) ∧
      v.nat (kCollDone g) = (s.nat (kCollDone g) + 1) % 2 ^ 64 ∧ slotsKept s v [kCollDone g] ∧ memoryKept s v := by
    rw [← hv]
    refine ⟨rfl, rfl, hend, nat_wrapAdd_same (s.endDesc r.desc stOk) (kCollDone g) 1, fun k hk => ?_, (Quiet.refl s).memoryKept⟩
    exact (State.reg_wrapAdd_other _ _ _ (List.ne_of_not_mem_cons hk)).trans rfl
  obtain ⟨hcoll, hposted, hvdesc, hvnat, hvslots, hvmem⟩ := hsame
  have hexec : exec (.collectiveComplete g) s = .next (v.collLeave g r.desc) := by
    refine congrArg Host.Outcome.next ?_
    unfold State.collectiveComplete State.collOk
    rw [hserving]
    dsimp only
    rw [hdue]
    dsimp only
    rw [if_pos ⟨hnow, hlive⟩, hsat, Nat.sub_eq_zero_of_le hplan, if_neg Bool.false_ne_true, if_pos rfl, hid, hv]
    obtain ⟨-, hnone, -⟩ := collLeave_served (s := v) (g := g) (r := r) (by rw [hcoll]; exact hrun) (by rw [hcoll]; exact hrhz)
    rw [hnone]
    rfl
  obtain ⟨hrunnone, -, hview, hpost⟩ := collLeave_served (s := v) (g := g) (r := r) (by rw [hcoll]; exact hrun)
    (by rw [hcoll]; exact hrhz)
  refine ⟨_, hexec, hrunnone, ?_, ?_, fun k hk => (hview.slots k List.not_mem_nil).trans (hvslots k hk), hvmem.trans hview.memoryKept,
    hpost.trans hposted⟩
  · exact (congrArg (State.desc? _) hid).trans ((hview.desc? _).trans hvdesc)
  · exact (nat_of_reg (hview.slots _ List.not_mem_nil)).trans hvnat

end Stages

/-- The commands that start an operation start it at the head of its group (R448). -/
theorem exec_startColl {id op : Nat} {c : Instr} (s : State)
    (hc : (op, c) ∈ [(0, Instr.reduceScatter id), (1, .allGather id), (2, .allReduce id), (3, .broadcast id), (4, .allToAll id)]) :
    exec c s = .next (s.startColl op id) := by
  simp only [List.mem_cons, Prod.mk.injEq, List.not_mem_nil, or_false] at hc
  rcases hc with ⟨rfl, rfl⟩ | ⟨rfl, rfl⟩ | ⟨rfl, rfl⟩ | ⟨rfl, rfl⟩ | ⟨rfl, rfl⟩ <;> rfl

/-- Settles O24: the operation at the head of its group starts, its stages exchange and settle, and it completes or fails. -/
theorem collectives : Obligations.Collectives := by
  unfold Obligations.Collectives
  refine ⟨?_, ?_, ?_, ?_, ?_, ?_, ?_, ?_, ?_, ?_⟩
  · intro s id op w tick d c hc h hdue hhead hearly hsrc hdst hflips
    obtain ⟨r, hrun, hid, hw, hstage, hseq, hbegin, hnat, hview⟩ := startColl_starts h hdue hhead hearly hsrc hdst hflips
    exact ⟨_, r, exec_startColl s hc, hrun, hid, hw, hstage, hseq, hbegin, hnat, hview.slots, hview.memoryKept⟩
  · intro s id op d c hc h hdue
    rw [exec_startColl s hc, startColl_waits h hdue]
  · intro s id w frame pos waiting d h hhead hearly hbad hflips hsize hsrc hdst
    obtain ⟨⟨⟨r, hr, hid, hw, hframe, hpos⟩, hrest⟩, hnat, hview⟩ := startRhz_starts h hhead hearly hbad hflips hsize hsrc hdst
    exact ⟨_, r, rfl, hr, hid, hw, hframe, hpos, hrest, hnat, hview.slots⟩
  · intro s g r d st x hserving hkind hdue hbegin hexch hsends hleft hsize
    exact exchange_sends hserving hkind hdue hbegin hexch hsends hleft hsize
  · exact fun s g e r d st hserving hkind hend hdue he hlast => stageSettle_due hserving hkind hend hdue he hlast
  · intro s g due r d st _ hserving hdue hnow hlive hrhz hplan hsat
    exact collectiveComplete_served hserving hdue hnow hlive hrhz hplan hsat
  · exact fun s g r d st hserving hruns hsent hslack hrhz => slackExpiry_fails hserving hruns hsent hslack hrhz
  · exact fun s g r d hfind hdesc => rhzReduce_first hfind hdesc
  · exact fun s g r d st hserving hkind hpast hdone hlast hdst => xwait_due hserving hkind hpast hdone hlast hdst
  · exact fun s g r d st hserving hkind hpast hleft => xwait_late hserving hkind hpast hleft

end Sys2Proof.Safety
